-- ==== Sys2Proof/Word.lean ====
section
/-! DEFINITION. The machine's words (R2, R67, R126) and the sparse table every store of the machine is kept in. -/

namespace Sys2Proof

/-- One byte of memory (R2). -/
abbrev Byte := BitVec 8

/-- A scalar register or port (R67). -/
abbrev Word := BitVec 64

/-- A vector register or port, 2,048 bits (R126). -/
abbrev Vec := BitVec 2048

/-- A mask register, 256 bits (R126). -/
abbrev Mask := BitVec 256

/-- Keyed entries with keys strictly rising; an unlisted key reads as the table's default value. -/
abbrev Table (α : Type) := List (Nat × α)

end Sys2Proof
end

