-- ==== Sys2Proof/Machine/Table.lean ====
section
/-! DEFINITION. The operations of the sparse tables that hold every store, register file and port file of the machine. -/

namespace Sys2Proof.Machine

/-- The value at key `k`; an unlisted key reads as the default `d`. -/
def tget {α : Type} (d : α) : Table α → Nat → α
  | [], _ => d
  | (j, v) :: t, k => if k = j then v else tget d t k

/-- Remove key `k`. -/
def tdel {α : Type} : Table α → Nat → Table α
  | [], _ => []
  | (j, v) :: t, k => if k = j then tdel t k else (j, v) :: tdel t k

/-- List `v` at key `k`, keys rising. -/
def tins {α : Type} : Table α → Nat → α → Table α
  | [], k, v => [(k, v)]
  | (j, w) :: t, k, v => if k < j then (k, v) :: (j, w) :: t else if k = j then (k, v) :: t else (j, w) :: tins t k v

/-- Write `v` at key `k`; writing the default removes the entry, so equal tables are equal data. -/
def tset {α : Type} [DecidableEq α] (d : α) (t : Table α) (k : Nat) (v : α) : Table α :=
  if v = d then tdel t k else tins t k v

/-- Keys strictly rising from `lo`, and no entry equal to the default. -/
def twfFrom {α : Type} [DecidableEq α] (d : α) : Nat → Table α → Bool
  | _, [] => true
  | lo, (j, v) :: t => decide (lo ≤ j) && decide (v ≠ d) && twfFrom d (j + 1) t

/-- The canonical form of a table. -/
def twf {α : Type} [DecidableEq α] (d : α) (t : Table α) : Bool := twfFrom d 0 t

/-- The byte string at `a`, `n` bytes long, lowest address first. -/
def tbytes (d : Byte) (t : Table Byte) (a : Nat) : Nat → List Byte
  | 0 => []
  | n + 1 => tget d t a :: tbytes d t (a + 1) n

/-- Write a byte string from `a` upward. -/
def tputs (d : Byte) (t : Table Byte) (a : Nat) : List Byte → Table Byte
  | [] => t
  | v :: vs => tputs d (tset d t a v) (a + 1) vs

/-- Little-endian value of a byte string (R2). -/
def leNat : List Byte → Nat
  | [] => 0
  | v :: vs => v.toNat + 256 * leNat vs

/-- The `n` low bytes of a number, little-endian (R2). -/
def leBytes : Nat → Nat → List Byte
  | 0, _ => []
  | n + 1, x => BitVec.ofNat 8 x :: leBytes n (x / 256)

/-- Change the value at a key. -/
def tmod {α : Type} [DecidableEq α] (d : α) (t : Table α) (k : Nat) (f : α → α) : Table α :=
  tset d t k (f (tget d t k))

end Sys2Proof.Machine
end

