-- ==== Sys2Proof/Machine/Digest.lean ====
section
/-! DEFINITION. SHA-256, which the image digests use (R120, R296, R297). The manual names the function and does not define
it; the model takes it from its standard: a compression of 512-bit blocks, whose constants are the first 32 bits of the fractional
parts of the square and cube roots of the first primes. A chaining value is one 256-bit vector here. -/

namespace Sys2Proof.Machine

/-- Big-endian value of a byte string. -/
def beNat (bs : List Byte) : Nat := bs.foldl (fun n b => n * 256 + b.toNat) 0

/-- The first 64 primes, which trial division finds below 312. -/
def digestPrimes : List Nat := (List.range 312).filter fun n => decide (1 < n) && !(List.range 18).any fun d => decide (1 < d ∧ d < n ∧ n % d = 0)

/-- The greatest `r` below `lo + 2^bits` with `r^e ≤ n`, from its highest bit on. -/
def rootBelow (e n : Nat) : Nat → Nat → Nat
  | 0, lo => lo
  | bits + 1, lo => rootBelow e n bits (if (lo + 2 ^ bits) ^ e ≤ n then lo + 2 ^ bits else lo)

/-- 32 bits of the fraction of the `e`-th root of `p`. -/
def rootFraction (e p : Nat) : BitVec 32 := BitVec.ofNat 32 (rootBelow e (p * 2 ^ (32 * e)) 37 0)

/-- Word `i` of a chaining value or of a schedule window: word 0 is the most significant one of 8, the latest one of 16. -/
def digestWord (v : BitVec 256) (i : Nat) : BitVec 32 := v.extractLsb' (32 * (7 - i)) 32
def windowWord (w : BitVec 512) (i : Nat) : BitVec 32 := w.extractLsb' (32 * i) 32

/-- The exclusive or of the rotations of a word by the amounts given. -/
def spins (x : BitVec 32) (ns : List Nat) : BitVec 32 := ns.foldl (fun y n => y ^^^ x.rotateRight n) 0

/-- The window moves on by the schedule's next word, made of its words 2, 7, 15 and 16 before. -/
def slideWindow (w : BitVec 512) : BitVec 512 :=
  let near := windowWord w 1
  let far := windowWord w 14
  let next := (spins near [17, 19] ^^^ near >>> 10) + windowWord w 6 + (spins far [7, 18] ^^^ far >>> 3) + windowWord w 15
  w <<< 32 ||| next.setWidth 512

/-- One round with constant `k` and schedule word `w`: words shift down by one place, and the sums enter at places 0 and 4. -/
def digestRound (v : BitVec 256) (k w : BitVec 32) : BitVec 256 :=
  let x := digestWord v
  let choice := x 6 ^^^ x 4 &&& (x 5 ^^^ x 6)
  let majority := x 0 &&& x 1 ||| x 2 &&& (x 0 ||| x 1)
  let low := x 7 + k + w + choice + spins (x 4) [6, 11, 25]
  let top := low + majority + spins (x 0) [2, 13, 22]
  let moved := v >>> 32
  let others := moved &&& ~~~(BitVec.ofNat 256 (0xFFFFFFFF * (2 ^ 224 + 2 ^ 96)))
  others ||| top.setWidth 256 <<< 224 ||| (digestWord v 3 + low).setWidth 256 <<< 96

/-- The rounds of one block, one for each constant; the schedule word of round `i` is word 15 of the window as it stands. -/
def digestRounds : List (BitVec 32) → BitVec 512 → BitVec 256 → BitVec 256
  | [], _, v => v
  | k :: ks, w, v => digestRounds ks (slideWindow w) (digestRound v k (windowWord w 15))

/-- Wordwise sum of two chaining values. -/
def addWords (v w : BitVec 256) : BitVec 256 :=
  (List.range 8).foldl (fun y i => y <<< 32 ||| (digestWord v i + digestWord w i).setWidth 256) 0

/-- A block, as a big-endian number, taken into the chaining value. -/
def digestBlock (ks : List (BitVec 32)) (v : BitVec 256) (block : List Byte) : BitVec 256 :=
  addWords v (digestRounds ks (BitVec.ofNat 512 (beNat block)) v)

/-- Every 64 bytes of a padded message. -/
def digestBlocks (ks : List (BitVec 32)) : Nat → List Byte → BitVec 256 → BitVec 256
  | 0, _, v => v
  | n + 1, bs, v => digestBlocks ks n (bs.drop 64) (digestBlock ks v (bs.take 64))

/-- SHA-256 of a byte string. [log 58 PRESUMED] -/
def sha256 (bs : List Byte) : List Byte :=
  let zeros := (119 - bs.length % 64) % 64
  let padded := bs ++ 0x80 :: List.replicate zeros 0 ++ (leBytes 8 (8 * bs.length)).reverse
  let start := (digestPrimes.take 8).foldl (fun (v : BitVec 256) p => v <<< 32 ||| (rootFraction 2 p).setWidth 256) 0
  (leBytes 32 (digestBlocks (digestPrimes.map (rootFraction 3)) (padded.length / 64) padded start).toNat).reverse

/-- Little-endian field of a byte string. -/
def fieldAt (bs : List Byte) (off n : Nat) : Nat := leNat ((bs.drop off).take n)

/-- Zero the DIGEST field of an image (R120). -/
def withoutDigest (off : Nat) (bs : List Byte) : List Byte := bs.take off ++ leBytes 32 0 ++ bs.drop (off + 32)

end Sys2Proof.Machine
end

