-- ==== Sys2Proof/Config.lean ====
section
/-! DEFINITION. What the manual leaves open: constants with no body, applied to a counter of the state or to operands. No
statement rests on a value of them. -/

namespace Sys2Proof.Config

/-- Pod cycles from receipt to completion of an untimed access, taken modulo its bound (R193). [log 8 DESIGN CHOICE] -/
opaque untimedDelay : Nat → Nat

/-- Pod cycles a host read takes to return data, or host memory to free write space (R190, R369). [log 9 DESIGN CHOICE] -/
opaque hostLatency : Nat → Nat

/-- Pod cycles of a context save, restore, region spill or fill (R258, R259, R266). [log 10 DESIGN CHOICE] -/
opaque windowTime : Nat → Nat

/-- Pod cycles by which a start is later at the first boundary after a teardown, modulo 60,001 (R302). [log 11 DESIGN CHOICE] -/
opaque containmentDelay : Nat → Nat

/-- The chip ids of a gang's other members, which no command names (R246). [log 12 DESIGN CHOICE] -/
opaque podMembers : Nat → List Nat

/-- The reserved slots the partition authority gives a channel group that needs one; slot 0 where that is none (R205). [log 13
DESIGN CHOICE] -/
opaque reservedSlots : Nat → BitVec 32

/-- Whether a context shares its page with another one: owner, context, page (R311). [log 14 DESIGN CHOICE] -/
opaque sharesPage : Nat → Nat → Nat → Bool

/-- Bytes of an interface report that lists these (R324). [log 15 DESIGN CHOICE] -/
opaque reportSize : List Nat → Nat

/-- A byte of an interface report that lists these (R324). [log 15 DESIGN CHOICE] -/
opaque reportByte : List Nat → Nat → BitVec 8

/-- A byte whose value the manual does not state. [log 15 DESIGN CHOICE, 66 DEDUCED] -/
opaque openByte : Nat → BitVec 8

/-- A key that the security engine makes. [log 104 DESIGN CHOICE] -/
opaque freshKey : Nat → BitVec 512

/-- A 64-bit value the manual does not state. [log 16 DESIGN CHOICE] -/
opaque openWord : Nat → BitVec 64

/-- KIND of an event record: the manual names the events and gives no numbers; the argument is the model's own number (R317).
[log 17 DESIGN CHOICE] -/
opaque eventKind : Nat → BitVec 16

/-- Byte of an event record's kind-specific DATA, whose layout the manual does not give: kind, what it tells, index (R317).
[log 17 DESIGN CHOICE] -/
opaque eventData : Nat → List Nat → Nat → BitVec 8

/-- Pod cycles, beyond one, that the DRAM controllers' own hold of a freeze lasts before its RELEASE (R212). [log 39 DESIGN
CHOICE] -/
opaque controllerDelay : Nat → Nat

/-- The member sets of the pod's gangs that run no context on this package, by pod cycle: their Leek routes take turns on the
lanes (R21, R243). [log 12 DESIGN CHOICE] -/
opaque otherGangs : Nat → List (List Nat)

/-- H of such a gang's run, by pod cycle and place in the list; 0 without a run (R21). [log 12 DESIGN CHOICE] -/
opaque leadElsewhere : Nat → Nat → Nat

/-- The core of its chip from which the fabric write came that a race record names, by writer and address: the shadow does not
hold it (R197, R293). [log 98 DESIGN CHOICE] -/
opaque writerCore : BitVec 16 → Nat → Nat

/-- Whether a request to the host completes with an error, or a read's completion with the EP attribute (R313, R370). [log 106
DESIGN CHOICE] -/
opaque hostRefuses : Nat → Bool

/-- Whether the firmware's signatures hold at a warm reset (R339). [log 5 DEDUCED] -/
opaque signaturesHold : Nat → Bool

/-- Bytes of a stack's training results, and whether its pattern reads back (R223). [log 92 DESIGN CHOICE] -/
opaque trainingResult : Nat → Nat → List (BitVec 8)

/-- Whether the training pattern of a stack reads back on every pseudo-channel (R223). [log 92 DESIGN CHOICE] -/
opaque readsBack : Nat → Nat → Bool

/-- The bin, modulo 16, in which an island's fused supply voltage falls (R327, R336). [log 16 DESIGN CHOICE] -/
opaque voltageBin : Nat → Nat

/-- Which of several tracker entries with one count is taken: row, VDID (R217). [log 18 DESIGN CHOICE] -/
opaque trackerPick : Nat → Nat → Nat

end Sys2Proof.Config
end

