-- ==== Sys2Proof/Syntax/Fields.lean ====
section
/-! DEFINITION. The fields that the instructions and events of Sys2Proof/Syntax.lean carry. -/

namespace Sys2Proof

/-- The guard of a move: G_INV and G_IDX (R92, R93). -/
structure Guard where
  inv : Bool
  idx : Fin 8
  deriving DecidableEq, Repr

/-- The result ports, source ids 0x090 to 0x09D in order (R94). -/
inductive ResultPort where
  | sa | va | vb | bga | bgb | bgc | bgd | mx | sq | c0 | c1 | fb | sy | ct
  deriving DecidableEq, Repr

/-- What a move reads (R94), a long immediate with its payload slots (R97). -/
inductive Source where
  | sreg (n : Fin 64)
  | vreg (n : Fin 32)
  | kreg (n : Fin 8)
  | pp
  | pop (q : Fin 16)
  | peek (q : Fin 16)
  | res (r : ResultPort)
  | acc (t : Fin 8)
  | gcyc
  | coreidx
  | short (imm : BitVec 9)
  | limm24 (payload : BitVec 24)
  | limm48 (low : BitVec 24) (high : BitVec 24)
  deriving DecidableEq, Repr

/-- A guarded move's guard and source; its destination is the trigger the instruction names. -/
structure Mv where
  g : Guard
  src : Source
  deriving DecidableEq, Repr

/-- The four bank groups A to D (R70). -/
inductive Bank where
  | a | b | c | d
  deriving DecidableEq, Repr

/-- The two vector units (R49). -/
inductive VUnit where
  | va | vb
  deriving DecidableEq, Repr

/-- The operand ports of a vector unit (R100). -/
inductive VPort where
  | a | b | c | k | ty | rm | sc | ctl
  deriving DecidableEq, Repr

/-- The operand ports of the stream unit (R83). -/
inductive SqPort where
  | id | base | shape0 | shape1 | shape2 | fmt | sstr | tag
  deriving DecidableEq, Repr

/-- The operand ports of C0 and C1 (R103). C0 has no `dst`. -/
inductive DmaPort where
  | sad | lad | len | at | tag | dst
  deriving DecidableEq, Repr

/-- The operand ports of the fabric station (R104). -/
inductive FbPort where
  | link | sad | len | at | path | rad | tag | aop
  deriving DecidableEq, Repr

/-- The operand ports of every station (R98 to R105, R81, R83). -/
inductive OperandPort where
  | ct (i : Fin 3)
  | saA | saB | saC | saQ
  | vec (u : VUnit) (p : VPort)
  | bankData (b : Bank)
  | bankCmp (b : Bank)
  | mp (i : Fin 8)
  | sq (p : SqPort)
  | c0 (p : DmaPort)
  | c1 (p : DmaPort)
  | fb (p : FbPort)
  | sy (i : Fin 3)
  deriving DecidableEq, Repr

/-- Where a plain move delivers (R96 to R105). -/
inductive Dest where
  | null
  | sreg (n : Fin 64)
  | preg (n : Fin 8)
  | vreg (n : Fin 32)
  | kreg (n : Fin 8)
  | port (p : OperandPort)
  deriving DecidableEq, Repr

/-- A selector field of a microword (R171). -/
inductive Sel where
  | direct (n : Fin 16)
  | indirect (m : Fin 16)
  deriving DecidableEq, Repr

/-- The fields of an `MEPI` microword (R170). -/
structure MepiFields where
  t : Sel
  o : Sel
  b : Sel
  bias : Bool
  act : Bool
  req : Bool
  intacc : Bool
  qsr : Fin 16
  zpr : Fin 16
  rm : BitVec 4
  deriving DecidableEq, Repr

/-- The kinds of data frame, numbered 1 to 7 in the flight save area (R261). -/
inductive FrameKind where
  | send | put | getRequest | getResponse | atomRequest | atomResponse | poison
  deriving DecidableEq, Repr

/-- One data frame of the fabric (R230 to R236, R261). -/
structure Frame where
  kind : FrameKind
  gang : Nat
  srcChip : Nat
  srcCore : Nat
  dstChip : Nat
  dstCore : Nat
  addr : Nat
  len : Nat
  tag : BitVec 16
  data : List Byte
  poison : Bool
  uncorr : Bool
  aop : BitVec 4
  operand : BitVec 32
  compare : BitVec 32
  /-- gang cycle at which unit 0 performs (R187) -/
  arrive : Nat
  /-- link the frame arrived on at this chip -/
  link : Fin 16
  /-- hops still to take, and the cycle of entering the next one -/
  route : List (Fin 16)
  enter : Nat
  /-- return route of a request; empty = the reverse of the outbound one -/
  back : List (Fin 16)
  /-- sum of the hop latencies of the return route (R187) -/
  backLat : Nat
  /-- requester's scratch address of an FGET (R235) -/
  home : Nat
  departed : Nat
  /-- the issuer's ticket of an FGET or FATOM (R241) -/
  ticket : Nat
  /-- re-injected from the flight save area (R263) -/
  again : Bool
  deriving DecidableEq, Repr

/-- The causes of holds (R28, R298, R336); `dram` is the DRAM controllers' own (R212, R215). -/
inductive HoldCause where
  | power | thermal | disturbance | hcopy | rclaim | mbsnap | watchdog | debug | switch | dram
  deriving DecidableEq, Repr

/-- The classes of events (R316). -/
inductive EventClass where
  | program | resource | platform | control
  deriving DecidableEq, Repr

/-- The fields of PREPARE, VOTE, COMMIT and ABORT (R256). -/
structure VoteFrame where
  gang : Nat
  dirIn : Bool
  drain : Bool
  force : Bool
  switchNo : Nat
  origin : Nat
  tHalt : Nat
  deadline : Nat
  members : Nat
  chip : Nat
  verdict : BitVec 4
  sent : Nat
  ended : Nat
  need : Nat
  tSwap : Nat
  deriving DecidableEq, Repr

/-- One entry of the replay buffer (R294). -/
structure ReplayEntry where
  due : Nat
  kind : Nat
  dst : Nat
  addr : Nat
  size : Nat
  flagG : Bool
  flagPoison : Bool
  flagTag : Bool
  tag : BitVec 16
  data : Vec
  deriving DecidableEq, Repr

/-- What ECC finds in a sector (R220). -/
inductive EccFinding where
  | clean | corrected | uncorrectable
  deriving DecidableEq, Repr

/-- Where an untimed access goes: device DRAM, or the mailbox aperture (R273). -/
inductive Space where
  | dram | mailbox
  deriving DecidableEq, Repr

/-- An untimed access (R183, R193): the agent id, the place, and the data of a write. -/
structure Untimed where
  agent : BitVec 16
  space : Space
  write : Bool
  addr : Nat
  data : List Byte
  /-- bytes of a read -/
  len : Nat
  /-- the write sets the poison bit of its sectors (R358) -/
  poison : Bool
  /-- what the requester knows the access by: an aperture slot and offset -/
  tag : Nat
  received : Nat
  /-- a piece of an access that writes its sector whole (R220) -/
  whole : Bool
  deriving DecidableEq, Repr

/-- One unit of an XCOPY on its way to the target core (R438). -/
structure XUnit where
  srcCore : Nat
  srcCtx : Nat
  sameDie : Bool
  addr : Nat
  data : List Byte
  /-- tiles whose last unit this is, with their tags (R76) -/
  stamps : List (Nat × BitVec 16)
  /-- no data: a suppressed copy's stamp (R35) -/
  stampOnly : Bool
  /-- the unit comes back through the replay buffer (R294, R295) -/
  replay : Bool
  deriving DecidableEq, Repr

/-- The units and error kinds of the leaky counters; an SRAM block by its core and its number there (R334). [log 64 DESIGN
CHOICE] -/
inductive FaultUnit where
  | sramCorrected (core block : Nat)
  | sramUncorrectable (core block : Nat)
  | logic (core : Nat)
  | pageCorrected (page : Nat)
  | pageUncorrectable (page : Nat)
  | link (n : Fin 16)
  deriving DecidableEq, Repr

end Sys2Proof
end

