-- ==== Sys2Proof/Syntax.lean ====
section
/-! DEFINITION. The steps of the part: one constructor for each row of spec/opcode_table.json, 24-bit moves and triggers first,
then the matrix micro-operations, then the events. -/

namespace Sys2Proof

/-- The operations and events of the part, each one whole step (spec/95_what_each_step_holds.md). -/
inductive Instr where
  /-- `MOVE`: A guarded move reads its source at issue and writes the value to a register or operand port at arrival. (R56) -/
  | move (m : Mv) (d : Dest)
  /-- `NOP`: A move with the never-guard is not decoded further and has no effect. (R55) -/
  | nop (rest : BitVec 20)
  /-- `BRP`: Prepares a target-buffer entry with the address in ct.a and prefetches two bundles. (R148) -/
  | brp (m : Mv)
  /-- `BR`: Transfers at arrival to the address of a prepared target-buffer entry. (R149) -/
  | br (m : Mv)
  /-- `BRT`: Selects a target-buffer entry from predicate tests in a chain or tree descriptor and transfers to it. (R153) -/
  | brt (m : Mv)
  /-- `CALL`: Pushes the return address on the link stack and transfers as BR does. (R154) -/
  | call (m : Mv)
  /-- `RET`: Pops the link stack and transfers to the return address, ending deeper loop levels. (R402) -/
  | ret (m : Mv)
  /-- `LOOP`: Starts loop level n over bundles F to E with trip count N. (R156) -/
  | loop (n : Fin 4) (m : Mv)
  /-- `LOOPP`: Starts pipelined loop level n with S stages and stage predicates p4 upward. (R156) -/
  | loopp (n : Fin 4) (m : Mv)
  /-- `LBRK`: Ends loop level n and later levels and transfers to E + 1 of level n. (R372) -/
  | lbrk (n : Fin 4) (m : Mv)
  /-- `WAITT`: Defers the next bundle to issue exactly at gang cycle T, or slips if T has passed. (R31) -/
  | waitt (m : Mv)
  /-- `RESYNC`: Arrives at the gang frame barrier, clears poison suppression and resets the watchdog count. (R36) -/
  | resync (m : Mv)
  /-- `SPAWN`: Starts an idle sibling core at the bundle in ct.a with the spawner's s48-s55. (R409) -/
  | spawn (m : Mv)
  /-- `EXIT`: Stops issue on the core, ends loop levels and empties the link stack. (R361) -/
  | exit (m : Mv)
  /-- `BEACON`: Resets the core's hang-watchdog count to 0. (R46) -/
  | beacon (m : Mv)
  /-- `ADD`: Writes a + b modulo 2^64 to sa.r. (R343) -/
  | add (m : Mv)
  /-- `SUB`: Writes a - b modulo 2^64 to sa.r. (R411) -/
  | sub (m : Mv)
  /-- `MUL`: Writes the low 64 bits of a × b to sa.r. (R394) -/
  | mul (m : Mv)
  /-- `MULH`: Writes the high 64 bits of the signed product to sa.r. (R394) -/
  | mulh (m : Mv)
  /-- `MULHU`: Writes the high 64 bits of the unsigned product to sa.r. (R394) -/
  | mulhu (m : Mv)
  /-- `DIV`: Writes the signed truncated quotient to sa.r after 18 cycles. (R359) -/
  | div (m : Mv)
  /-- `DIVU`: Writes the unsigned quotient to sa.r after 18 cycles. (R359) -/
  | divu (m : Mv)
  /-- `REM`: Writes the signed remainder to sa.r after 18 cycles. (R359) -/
  | rem (m : Mv)
  /-- `REMU`: Writes the unsigned remainder to sa.r after 18 cycles. (R359) -/
  | remu (m : Mv)
  /-- `AND`: Writes a and b to sa.r. (R344) -/
  | and (m : Mv)
  /-- `OR`: Writes a or b to sa.r. (R398) -/
  | or (m : Mv)
  /-- `XOR`: Writes a xor b to sa.r. (R440) -/
  | xor (m : Mv)
  /-- `ANDN`: Writes a and not b to sa.r. (R344) -/
  | andn (m : Mv)
  /-- `SHL`: Shifts a left by b[5:0]. (R408) -/
  | shl (m : Mv)
  /-- `SHR`: Shifts a right logically by b[5:0]. (R408) -/
  | shr (m : Mv)
  /-- `SRA`: Shifts a right arithmetically by b[5:0]. (R408) -/
  | sra (m : Mv)
  /-- `MIN`: Writes the signed minimum of a and b. (R376) -/
  | min (m : Mv)
  /-- `MINU`: Writes the unsigned minimum of a and b. (R376) -/
  | minu (m : Mv)
  /-- `MAX`: Writes the signed maximum of a and b. (R376) -/
  | max (m : Mv)
  /-- `MAXU`: Writes the unsigned maximum of a and b. (R376) -/
  | maxu (m : Mv)
  /-- `CLZ`: Writes the count of leading zero bits of b. (R353) -/
  | clz (m : Mv)
  /-- `POPC`: Writes the count of set bits of b. (R399) -/
  | popc (m : Mv)
  /-- `SEL`: Writes a if the predicate named in q is 1, else b. (R407) -/
  | sel (m : Mv)
  /-- `CMP_EQ`: Compares a = b and writes predicates under the combining type. (R354) -/
  | cmpEq (m : Mv)
  /-- `CMP_NE`: Compares a ≠ b and writes predicates under the combining type. (R354) -/
  | cmpNe (m : Mv)
  /-- `CMP_LT`: Compares a < b signed and writes predicates. (R354) -/
  | cmpLt (m : Mv)
  /-- `CMP_LE`: Compares a ≤ b signed and writes predicates. (R354) -/
  | cmpLe (m : Mv)
  /-- `CMP_LTU`: Compares a < b unsigned and writes predicates. (R354) -/
  | cmpLtu (m : Mv)
  /-- `CMP_LEU`: Compares a ≤ b unsigned and writes predicates. (R354) -/
  | cmpLeu (m : Mv)
  /-- `FADD`: Adds FP32 operands with one RNE rounding. (R362) -/
  | fadd (m : Mv)
  /-- `FSUB`: Subtracts FP32 operands with one RNE rounding. (R362) -/
  | fsub (m : Mv)
  /-- `FMUL`: Multiplies FP32 operands with one RNE rounding. (R362) -/
  | fmul (m : Mv)
  /-- `FFMA`: Computes a·b + c in FP32 with one rounding. (R362) -/
  | ffma (m : Mv)
  /-- `FMIN`: Writes the lesser FP32 operand unchanged. (R368) -/
  | fmin (m : Mv)
  /-- `FMAX`: Writes the greater FP32 operand unchanged. (R368) -/
  | fmax (m : Mv)
  /-- `FCMP_EQ`: Compares FP32 x = y and writes predicates at arrival + 2. (R366) -/
  | fcmpEq (m : Mv)
  /-- `FCMP_LT`: Compares FP32 x < y and writes predicates. (R366) -/
  | fcmpLt (m : Mv)
  /-- `FCMP_LE`: Compares FP32 x ≤ y and writes predicates. (R366) -/
  | fcmpLe (m : Mv)
  /-- `FCMP_UN`: Tests whether either FP32 operand is NaN and writes predicates. (R366) -/
  | fcmpUn (m : Mv)
  /-- `FCVT_IF`: Converts int64 b to FP32 by RNE. (R367) -/
  | fcvtIf (m : Mv)
  /-- `FCVT_FI`: Converts FP32 b to int64 with saturation. (R367) -/
  | fcvtFi (m : Mv)
  /-- `LD_B`: Loads a byte from the bank group into bgX.r. (R373) -/
  | ldB (bank : Bank) (m : Mv)
  /-- `LD_H`: Loads a halfword from the bank group. (R373) -/
  | ldH (bank : Bank) (m : Mv)
  /-- `LD_W`: Loads a word from the bank group. (R373) -/
  | ldW (bank : Bank) (m : Mv)
  /-- `LD_D`: Loads a doubleword from the bank group. (R373) -/
  | ldD (bank : Bank) (m : Mv)
  /-- `LD_V`: Loads 256 bytes from the bank group. (R373) -/
  | ldV (bank : Bank) (m : Mv)
  /-- `ST_B`: Stores data[7:0] at arrival + 2. (R410) -/
  | stB (bank : Bank) (m : Mv)
  /-- `ST_H`: Stores data[15:0]. (R410) -/
  | stH (bank : Bank) (m : Mv)
  /-- `ST_W`: Stores data[31:0]. (R410) -/
  | stW (bank : Bank) (m : Mv)
  /-- `ST_D`: Stores data[63:0]. (R410) -/
  | stD (bank : Bank) (m : Mv)
  /-- `ST_V`: Stores all 2,048 bits of data. (R410) -/
  | stV (bank : Bank) (m : Mv)
  /-- `AADD`: Atomically adds data to a scratch word and returns the old word. (R342) -/
  | aadd (bank : Bank) (m : Mv)
  /-- `AFADD`: Atomically adds FP32 data to a scratch word with one RNE rounding. (R342) -/
  | afadd (bank : Bank) (m : Mv)
  /-- `AMIN`: Atomic signed minimum on a scratch word. (R342) -/
  | amin (bank : Bank) (m : Mv)
  /-- `AMINU`: Atomic unsigned minimum on a scratch word. (R342) -/
  | aminu (bank : Bank) (m : Mv)
  /-- `AMAX`: Atomic signed maximum on a scratch word. (R342) -/
  | amax (bank : Bank) (m : Mv)
  /-- `AMAXU`: Atomic unsigned maximum on a scratch word. (R342) -/
  | amaxu (bank : Bank) (m : Mv)
  /-- `AAND`: Atomic and on a scratch word. (R342) -/
  | aand (bank : Bank) (m : Mv)
  /-- `AOR`: Atomic or on a scratch word. (R342) -/
  | aor (bank : Bank) (m : Mv)
  /-- `AXCH`: Atomic exchange of a scratch word. (R342) -/
  | axch (bank : Bank) (m : Mv)
  /-- `ACAS`: Atomic compare-and-swap of a scratch word. (R342) -/
  | acas (bank : Bank) (m : Mv)
  /-- `VADD`: Element-wise vector add under ty and rm. (R419) -/
  | vadd (u : VUnit) (m : Mv)
  /-- `VSUB`: Element-wise vector subtract. (R419) -/
  | vsub (u : VUnit) (m : Mv)
  /-- `VMUL`: Element-wise vector multiply. (R419) -/
  | vmul (u : VUnit) (m : Mv)
  /-- `VFMA`: Element-wise fused multiply-add with one rounding. (R419) -/
  | vfma (u : VUnit) (m : Mv)
  /-- `VMIN`: Element-wise minimum without rounding. (R420) -/
  | vmin (u : VUnit) (m : Mv)
  /-- `VMAX`: Element-wise maximum without rounding. (R420) -/
  | vmax (u : VUnit) (m : Mv)
  /-- `VABS`: Element-wise absolute value of b. (R421) -/
  | vabs (u : VUnit) (m : Mv)
  /-- `VNEG`: Element-wise negation of b. (R421) -/
  | vneg (u : VUnit) (m : Mv)
  /-- `VAND`: Bitwise and of each enabled element. (R422) -/
  | vand (u : VUnit) (m : Mv)
  /-- `VOR`: Bitwise or of each enabled element. (R422) -/
  | vor (u : VUnit) (m : Mv)
  /-- `VXOR`: Bitwise xor of each enabled element. (R422) -/
  | vxor (u : VUnit) (m : Mv)
  /-- `VSHL`: Element-wise left shift. (R435) -/
  | vshl (u : VUnit) (m : Mv)
  /-- `VSHR`: Element-wise logical right shift. (R435) -/
  | vshr (u : VUnit) (m : Mv)
  /-- `VSRA`: Element-wise arithmetic right shift. (R435) -/
  | vsra (u : VUnit) (m : Mv)
  /-- `VCLAMP`: Element-wise clamp of a between b and c. (R420) -/
  | vclamp (u : VUnit) (m : Mv)
  /-- `VSEL`: Selects b where the mask is set, else a. (R434) -/
  | vsel (u : VUnit) (m : Mv)
  /-- `VCMP`: Element-wise compare under ctl.COND giving a mask result. (R423) -/
  | vcmp (u : VUnit) (m : Mv)
  /-- `VREDA`: Reduces b by a pairwise add tree to element 0. (R433) -/
  | vreda (u : VUnit) (m : Mv)
  /-- `VREDM`: Reduces b by a pairwise minimum or maximum tree. (R433) -/
  | vredm (u : VUnit) (m : Mv)
  /-- `VPERM`: Permutes a's elements by the indices in b. (R431) -/
  | vperm (u : VUnit) (m : Mv)
  /-- `VCVT`: Converts b from ty to the ctl destination format. (R424) -/
  | vcvt (u : VUnit) (m : Mv)
  /-- `VQNT`: Quantises FP32 blocks to binary8 elements or their E8 scales. (R432) -/
  | vqnt (u : VUnit) (m : Mv)
  /-- `VDOT8`: Forms 32 eight-element dot products with one rounding each. (R425) -/
  | vdot8 (u : VUnit) (m : Mv)
  /-- `VEXP2`: Element-wise table-based 2^x. (R426) -/
  | vexp2 (u : VUnit) (m : Mv)
  /-- `VLOG2`: Element-wise table-based log2. (R426) -/
  | vlog2 (u : VUnit) (m : Mv)
  /-- `VRCP`: Element-wise correctly rounded reciprocal. (R426) -/
  | vrcp (u : VUnit) (m : Mv)
  /-- `VRSQ`: Element-wise correctly rounded reciprocal square root. (R426) -/
  | vrsq (u : VUnit) (m : Mv)
  /-- `VSIG`: Element-wise table-based sigmoid. (R426) -/
  | vsig (u : VUnit) (m : Mv)
  /-- `VLUT_EVAL`: With ctl.LOAD = 0, evaluates the unit's 64-segment table on each element. (R430) -/
  | vlutEval (u : VUnit) (m : Mv)
  /-- `VLUT_LOAD`: With ctl.LOAD = 1, loads the unit's table from a and c. (R430) -/
  | vlutLoad (u : VUnit) (m : Mv)
  /-- `VIOTA`: Writes b[e] + e to each enabled element. (R427) -/
  | viota (u : VUnit) (m : Mv)
  /-- `VKAND`: Ands two 256-bit masks. (R428) -/
  | vkand (u : VUnit) (m : Mv)
  /-- `VKOR`: Ors two 256-bit masks. (R428) -/
  | vkor (u : VUnit) (m : Mv)
  /-- `VKNOT`: Inverts a 256-bit mask. (R428) -/
  | vknot (u : VUnit) (m : Mv)
  /-- `VKRED`: Reduces mask a to one predicate by any or all. (R429) -/
  | vkred (u : VUnit) (m : Mv)
  /-- `MCALL`: Starts a matrix microroutine from the routine table. (R383) -/
  | mcall (m : Mv)
  /-- `MUWR`: With mp0[15] = 0, writes a microprogram store word. (R395) -/
  | muwr (m : Mv)
  /-- `MUWR_ROUTINE_ENTRY`: With mp0[15] = 1, writes a routine-table entry. (R395) -/
  | muwrRoutineEntry (m : Mv)
  /-- `MLUT`: Loads the matrix unit's activation table from scratch. (R391) -/
  | mlut (m : Mv)
  /-- `MZERO`: Zeros an accumulator tile and resets its row pointer. (R397) -/
  | mzero (m : Mv)
  /-- `SCFG`: Copies the SQ operand ports into the stream register and opens it. (R403) -/
  | scfg (m : Mv)
  /-- `SSEEK`: Sets a stream's base and resets its position. (R403) -/
  | sseek (m : Mv)
  /-- `SSKIP`: Advances a stream's position without reading. (R403) -/
  | sskip (m : Mv)
  /-- `STAG`: Sets a stream's expected tag. (R403) -/
  | stag (m : Mv)
  /-- `SCLOSE`: Closes a stream, stamping a push stream's open tile. (R403) -/
  | sclose (m : Mv)
  /-- `PUSH`: Pushes an item to push stream qN, converted and written at arrival + 2. (R86) -/
  | push (q : Fin 16) (m : Mv)
  /-- `DCOPY_R`: Copies home DRAM into scratch on the compiled command timeline. (R357) -/
  | dcopyR (m : Mv)
  /-- `DCOPY_W`: Copies scratch into home DRAM on the compiled command timeline. (R357) -/
  | dcopyW (m : Mv)
  /-- `DREF`: Refreshes bank b on all four channels and decrements OWED. (R214) -/
  | dref (m : Mv)
  /-- `DRFM`: Refreshes victim rows of the bank's highest tracker entry. (R214) -/
  | drfm (m : Mv)
  /-- `XCOPY`: Copies scratch to another core of the context over the die network. (R438) -/
  | xcopy (m : Mv)
  /-- `HCOPY_R`: Copies host memory into scratch with fixed perform cycles. (R369) -/
  | hcopyR (m : Mv)
  /-- `HCOPY_W`: Copies scratch to host memory as posted writes. (R369) -/
  | hcopyW (m : Mv)
  /-- `IMCOPY`: Copies scratch bytes into the instruction store. (R90) -/
  | imcopy (m : Mv)
  /-- `FSEND`: Sends scratch bytes on a named route to a matching receive. (R363) -/
  | fsend (m : Mv)
  /-- `FRECV`: Arms a timed or open receive for a frame from a named sender. (R364) -/
  | frecv (m : Mv)
  /-- `FPUT`: Writes scratch bytes into a remote core's scratch. (R363) -/
  | fput (m : Mv)
  /-- `FGET`: Reads a remote core's scratch back into local scratch. (R363) -/
  | fget (m : Mv)
  /-- `FATOM`: Performs an atomic operation on a remote scratch word and returns the old word. (R363) -/
  | fatom (m : Mv)
  /-- `FPEER`: Returns the dead, member, in-pod and Leek-latency status of a chip. (R237) -/
  | fpeer (m : Mv)
  /-- `MBSEND`: Writes an action to a mailbox pair and sets FULL at start + 24. (R378) -/
  | mbsend (m : Mv)
  /-- `MBRECV`: Copies a ready observation payload into scratch and updates the header. (R379) -/
  | mbrecv (m : Mv)
  /-- `MBSTAT`: Reads a word of a snapshot header entry into sy.r. (R381) -/
  | mbstat (m : Mv)
  /-- `MBSNAP`: Tests a mailbox group and schedules a snapshot of its headers at issue + H. (R380) -/
  | mbsnap (m : Mv)
  /-- `BARINIT`: Initialises a barrier object, taking effect at arrival + H. (R347) -/
  | barinit (m : Mv)
  /-- `BARRIVE`: Arrives at a barrier object, optionally waiting for its generation. (R348) -/
  | barrive (m : Mv)
  /-- `BARPOLL`: Reads a barrier object's state as of arrival - H. (R350) -/
  | barpoll (m : Mv)
  /-- `FENCE`: Orders host, environment or peer writes at arrival + max(H, 512). (R195) -/
  | fence (m : Mv)
  /-- `TRAP`: Raises a software trap, or a debugging stop when DBGCTL.STOP = 1. (R412) -/
  | trap (m : Mv)
  /-- `CSRR`: Reads a core CSR into sy.r. (R355) -/
  | csrr (m : Mv)
  /-- `CSRW`: Writes sy.a into a core CSR under its access codes. (R355) -/
  | csrw (m : Mv)
  /-- `RCLAIM`: Claims a scratch region for the context, holding for spill and fill if needed. (R400) -/
  | rclaim (m : Mv)
  /-- `WPT`: Writes a watchpoint's base and control from sy.a and sy.b. (R437) -/
  | wpt (m : Mv)
  /-- `INTV`: Advances the core's Radish interval. (R196) -/
  | intv (m : Mv)
  /-- `MNOP`: Microword that occupies one cycle and does nothing. (R170) -/
  | mnop
  /-- `MSET_IMM`: Sets a micro-register to a sign-extended immediate. (R393) -/
  | msetImm (d : Fin 16) (imm : BitVec 48)
  /-- `MSET_MP`: Copies a parameter port into a micro-register. (R393) -/
  | msetMp (d : Fin 16) (n : Fin 8)
  /-- `MSET_ADD`: Adds an immediate to a micro-register. (R393) -/
  | msetAdd (d : Fin 16) (imm : BitVec 48)
  /-- `MLOOP`: Starts a micro-loop counter over the body to END. (R390) -/
  | mloop (c : Fin 2) (cm : Bool) (cr : Fin 16) (last : BitVec 12) (count : BitVec 32)
  /-- `MEND`: Ends the routine and copies m0 to mx.r. (R385) -/
  | mend
  /-- `MIDLE`: Occupies the sequencer for max(N, 1) cycles. (R387) -/
  | midle (n : BitVec 20)
  /-- `MZACC`: Zeros an accumulator tile from the microsequencer. (R396) -/
  | mzacc (t : Sel)
  /-- `MLDA`: Binds a stream as the A operand with a density class. (R388) -/
  | mlda (q : Sel) (cls : BitVec 2)
  /-- `MLDB`: Reads and stages one B weight block with scales and routing. (R389) -/
  | mldb (q : Sel) (r : Sel) (cls : BitVec 2)
  /-- `MMAC`: Starts a dense matrix step on a tile. (R392) -/
  | mmac (t : Sel)
  /-- `MMACS`: Starts a routed sparse matrix step on a tile. (R392) -/
  | mmacs (t : Sel)
  /-- `MEPI`: Starts the epilogue over the 128 rows of a tile, pushing to a stream. (R386) -/
  | mepi (e : MepiFields)
  /-- `MATRIX_GROUP_UPDATE`: A step's row group reads its accumulator rows and writes the update. (R178) -/
  | matrixGroupUpdate (core : Nat) (start : Nat) (group : Nat)
  /-- `EPILOGUE_ROW`: The epilogue reads an accumulator row, transforms it and pushes it. (R180) -/
  | epilogueRow (core : Nat) (start : Nat) (row : Nat)
  /-- `OPERATION_COMPLETE`: An operation's result becomes present at its station's result port. (R62) -/
  | operationComplete (core : Nat) (port : ResultPort) (value : Vec) (flags : BitVec 6)
  /-- `STREAM_POP_READ`: The stream unit reads a pop's item, tag and scales at issue - 4 along the known path. (R86) -/
  | streamPopRead (core : Nat) (q : Fin 16) (issueAt : Nat) (bundle : Nat)
  /-- `LOOP_END_STEP`: At the issue of bundle E the loop engine steps to the next iteration or ends the level. (R158) -/
  | loopEndStep (core : Nat) (n : Fin 4)
  /-- `WAITT_RESUME`: The deferred bundle issues at gang cycle T. (R31) -/
  | waittResume (core : Nat)
  /-- `RESYNC_RESUME`: Once all parties have arrived, every party's next bundle issues at R_res. (R36) -/
  | resyncResume (gang : Nat)
  /-- `BARRIER_RESUME`: Waiters of a completed generation resume at L + H. (R348) -/
  | barrierResume (gang : Nat) (handle : Nat) (gen : Nat)
  /-- `DRAIN_PARK`: A drainable loop level parks at an iteration start after a DRAIN notice. (R162) -/
  | drainPark (core : Nat) (n : Fin 4)
  /-- `FENCE_PERFORM`: The fence's scopes take effect and the interval advances at f. (R195) -/
  | fencePerform (core : Nat) (scope : BitVec 3)
  /-- `MBSNAP_COPY`: The group's 64 observation headers are copied into the snapshot buffer. (R380) -/
  | mbsnapCopy (core : Nat) (group : Nat)
  /-- `REGION_SPILL_FILL`: A claimed region's previous owner is spilled and the claimant filled, then the hold is released. (R266)
  -/
  | regionSpillFill (core : Nat) (region : Nat)
  /-- `DCOPY_UNIT`: A DCOPY unit's DRAM column command and scratch access perform. (R210) -/
  | dcopyUnit (core : Nat) (cmd : Nat) (unit : Nat) (atDram : Bool)
  /-- `XCOPY_UNIT_ARRIVAL`: An XCOPY unit is written into the target core's scratch. (R438) -/
  | xcopyUnitArrival (core : Nat) (u : XUnit)
  /-- `HOST_READ_DATA_ARRIVAL`: Host data for an HCOPY.R unit reaches C1, releasing any hold. (R190) -/
  | hostReadDataArrival (core : Nat) (cmd : Nat) (unit : Nat) (data : List (BitVec 8)) (ok : Bool)
  /-- `HCOPY_R_UNIT`: An HCOPY.R unit writes its data into scratch. (R369) -/
  | hcopyRUnit (core : Nat) (cmd : Nat) (unit : Nat)
  /-- `HCOPY_W_UNIT`: An HCOPY.W unit reads scratch and sends a posted write. (R369) -/
  | hcopyWUnit (core : Nat) (cmd : Nat) (unit : Nat)
  /-- `HOST_WRITE_SPACE_FREE`: Write-buffer space is freed by completions and an HCOPY hold is released. (R369) -/
  | hostWriteSpaceFree (core : Nat) (bytes : Nat)
  /-- `FSEND_ARRIVAL`: An FSEND frame arrives and is matched to an armed receive. (R236) -/
  | fsendArrival (f : Frame)
  /-- `FPUT_ARRIVAL`: An FPUT frame writes its units into the target core's scratch. (R235) -/
  | fputArrival (f : Frame)
  /-- `FGET_REQUEST_ARRIVAL`: The remote station reads the requested bytes and sends the response. (R235) -/
  | fgetRequestArrival (f : Frame)
  /-- `FGET_RESPONSE_ARRIVAL`: The FGET response writes local scratch and stamps the tag. (R363) -/
  | fgetResponseArrival (f : Frame)
  /-- `FATOM_REQUEST_ARRIVAL`: The target performs the atomic operation and sends the old word back. (R235) -/
  | fatomRequestArrival (f : Frame)
  /-- `FATOM_RESPONSE_ARRIVAL`: The old word reaches fb.r and AFADD flags are set at the issuer. (R235) -/
  | fatomResponseArrival (f : Frame)
  /-- `POISON_FRAME_ARRIVAL`: A suppressed operation's poison frame stamps its target tiles 0xFFFF. (R239) -/
  | poisonFrameArrival (f : Frame)
  /-- `FRAME_FORWARD`: A frame passes an intermediate chip after the link-ownership check. (R233) -/
  | frameForward (f : Frame) (hop : Nat) (link : Fin 16)
  /-- `MISSING_ARRIVAL`: At E + H a missing frame marks its sender dead and raises packet loss. (R241) -/
  | missingArrival (core : Nat) (chip : Nat) (expected : Nat) (ticket : Nat)
  /-- `HOLD_FREEZE`: At T_h every timetabled agent of the gang freezes. (R23) -/
  | holdFreeze (gang : Nat)
  /-- `HOLD_RESUME`: Gang time restarts at the greatest P_res of the attached holds. (R24) -/
  | holdResume (gang : Nat)
  /-- `ALIGN_SEND`: Each chip sends ALIGN on every connected link every 2^20 pod cycles. (R228) -/
  | alignSend
  /-- `ALIGN`: An ALIGN frame is received and checked for pod-time alignment. (R228) -/
  | align (link : Fin 16) (origin : Nat)
  /-- `LINK_DOWN`: A link is declared down and gangs sharing it are torn down. (R228) -/
  | linkDown (link : Fin 16)
  /-- `HOLD`: A HOLD frame arms a freeze of the gang at T_h. (R22) -/
  | hold (gang : Nat) (number : Nat) (th : Nat) (cause : HoldCause) (origin : Nat)
  /-- `RELEASE`: A RELEASE frame fixes a hold's resume cycle. (R24) -/
  | release (gang : Nat) (number : Nat) (origin : Nat)
  /-- `PREPARE`: A PREPARE frame arms the switch freeze at T_halt or starts an in-vote. (R258) -/
  | prepare (v : VoteFrame)
  /-- `VOTE`: A VOTE frame reaches the leader, which decides COMMIT or ABORT. (R258) -/
  | vote (v : VoteFrame)
  /-- `COMMIT`: A COMMIT frame fixes T_swap or T_start. (R258) -/
  | commit (v : VoteFrame)
  /-- `ABORT`: An ABORT frame releases the switch hold or cancels the in-vote. (R258) -/
  | abort (v : VoteFrame)
  /-- `RESYNC_FRAME`: A RESYNC frame combines arrivals on the gang's tree. (R245) -/
  | resyncFrame (gang : Nat) (chip : Nat) (count : Nat) (latest : Nat)
  /-- `BARRIER`: A BARRIER frame combines gang-scope barrier arrivals. (R245) -/
  | barrier (gang : Nat) (handle : Nat) (chip : Nat) (count : Nat) (latest : Nat)
  /-- `DEADPEER`: A DEADPEER frame sets the named chip's DEADPEER bit. (R241) -/
  | deadpeer (gang : Nat) (dead : Nat) (reporter : Nat)
  /-- `DROP`: A DROP frame raises link ownership or privilege at the sender. (R233) -/
  | drop (gang : Nat) (chip : Nat) (core : Nat) (departure : Nat) (hop : Nat) (subcode : Nat)
  /-- `ABORTGANG`: An ABORTGANG frame tears the gang down on the receiving member. (R268) -/
  | abortgang (gang : Nat) (cause : EventClass)
  /-- `SLOT_BOUNDARY`: At a slot boundary the controller reads run lists, admits and backfills. (R254) -/
  | slotBoundary
  /-- `PREPARE_SEND`: The leader sends PREPARE at B - 65,536. (R257) -/
  | prepareSend (gang : Nat) (dirIn : Bool)
  /-- `SWITCH_FREEZE`: At T_halt the gang freezes, stops departures and captures arrivals. (R258) -/
  | switchFreeze (gang : Nat)
  /-- `VOTE_SEND`: At F + D the member takes its counts, fixes its verdict and sends VOTE. (R258) -/
  | voteSend (gang : Nat) (dirIn : Bool)
  /-- `CONTEXT_SAVE`: At T_swap capture ends and the context is saved. (R258) -/
  | contextSave (gang : Nat)
  /-- `VOTE_DEADLINE`: No COMMIT or ABORT by deadline + H marks the leader dead and tears down. (R258) -/
  | voteDeadline (gang : Nat)
  /-- `IN_VOTE_DEADLINE`: A missing in-vote at its deadline makes the leader send ABORT DEADLINE. (R259) -/
  | inVoteDeadline (gang : Nat)
  /-- `SWITCH_IN`: At T_start the gang's cores resume at its frozen gang cycle. (R259) -/
  | switchIn (gang : Nat)
  /-- `FSA_REINJECT`: A flight-save-area record performs at its ARRIVE gang cycle. (R263) -/
  | fsaReinject (gang : Nat) (f : Frame)
  /-- `REPLAY_REINJECT`: A replay entry performs at T + DUE. (R295) -/
  | replayReinject (core : Nat) (e : ReplayEntry)
  /-- `RUN_COMPLETE`: When all cores have exited and their work performed, the leader writes the fence. (R253) -/
  | runComplete (gang : Nat)
  /-- `MINDER_FAULT_RECORD`: The minder builds and posts the fault record and notifies the switch controller. (R288) -/
  | minderFaultRecord (core : Nat)
  /-- `RECORD_QUEUE_DRAIN`: The minder drains the core's record queue into the L2 event log. (R293) -/
  | recordQueueDrain (core : Nat)
  /-- `WATCHDOG_THRESHOLD`: WDOGCOUNT reaches LIMIT - H and a watchdog hold is announced. (R47) -/
  | watchdogThreshold (core : Nat)
  /-- `REFRESH_OWED_INCREMENT`: OWED rises by 1 every 2,340 gang cycles. (R215) -/
  | refreshOwedIncrement (core : Nat)
  /-- `DRAM_SELF_REFRESH`: The controller refreshes on pod time while gang time is frozen. (R216) -/
  | dramSelfRefresh (core : Nat) (bank : Fin 16)
  /-- `DISTURBANCE_THRESHOLD`: A tracker entry reaches 1,024 and a disturbance hold is announced. (R218) -/
  | disturbanceThreshold (core : Nat) (ch : Fin 4) (bank : Fin 16)
  /-- `DISTURBANCE_MITIGATION_DONE`: The controller's DRFM completes and the disturbance hold is released. (R218) -/
  | disturbanceMitigationDone (core : Nat) (ch : Fin 4) (bank : Fin 16)
  /-- `DISTURBANCE_WINDOW`: A new 2^32-cycle disturbance account window begins. (R315) -/
  | disturbanceWindow
  /-- `ECC_WRITEBACK`: A corrected sector is written back in a reserved slot or freeze. (R220) -/
  | eccWriteback (sector : Nat)
  /-- `UNTIMED_ACCESS_RECEIVE`: The hub admits a waiting untimed access to a channel group's queue. (R206) -/
  | untimedAccessReceive (a : Untimed)
  /-- `UNTIMED_WRITE_COMPLETE`: An untimed write completes at its controller. (R193) -/
  | untimedWriteComplete (a : Untimed)
  /-- `HART_START`: The supervisor starts a hart at its window entry when its episode begins. (R321) -/
  | hartStart (hart : Nat)
  /-- `STEP_BUDGET_OVERRUN`: STEPUSED passes STEPBUDGET and the observation becomes KILLED. (R282) -/
  | stepBudgetOverrun (hart : Nat)
  /-- `EPISODE_BUDGET_OVERRUN`: EPUSED passes EPBUDGET and the observation becomes KILLED. (R282) -/
  | episodeBudgetOverrun (hart : Nat)
  /-- `STEP_DEADLINE`: At the lockstep step deadline laggards become TIMEOUT and RELEASE is sent. (R279) -/
  | stepDeadline (core : Nat) (group : Nat)
  /-- `EPISODE_SCRUB`: The supervisor stops the hart and zeroes and frees the episode window. (R275) -/
  | episodeScrub (pair : Nat)
  /-- `ERROR_COUNTER_DECAY`: A leaky error counter loses 1 every WIN / THR. (R334) -/
  | errorCounterDecay (unit : FaultUnit)
  /-- `ISLAND_WAKE`: A retained island completes its 200 µs wake. (R328) -/
  | islandWake (island : Fin 16)
  /-- `SCRUB_UNIT`: The scrub engine overwrites one unit of a torn-down protected context. (R299) -/
  | scrubUnit (die : Fin 8)
  /-- `LEEK_LANE_FREE`: When a Leek lane finishes its 11-cycle frame, the next waiting frame at that chip leaves under the urgent
  round-robin and ordinary type order, combining urgent records of one gang. (R243) -/
  | leekLaneFree (link : Fin 16)
  /-- `HCOPY_HOLD_ANNOUNCEMENT`: At an HCOPY.R unit's perform cycle − H without its host data, or an HCOPY.W unit's read cycle − H
  without write space, C1 announces a hold with cause HCOPY. (R190) -/
  | hcopyHoldAnnouncement (core : Nat) (cmd : Nat) (unit : Nat)
  /-- `OUT_VOTE_DEADLINE`: If a member's VOTE is missing at the out-vote deadline B − 16,384, the leader sends ABORT with reason
  DEADLINE. (R258) -/
  | outVoteDeadline (gang : Nat)
  /-- `LINK_TRAINING`: The pod manager trains a link, fixing its hop latencies. (R227) -/
  | linkTraining (link : Fin 16) (lam : BitVec 12) (mu : BitVec 12) (nbr : BitVec 12)
  /-- `UNKNOWN_LEEK_FRAME`: A control frame of another type is discarded and counted. (R244) -/
  | unknownLeekFrame (type : BitVec 4)
  /-- `PATROL_READ`: The controller patrols a sector in a freeze or unused slot. (R222) -/
  | patrolRead (sector : Nat) (finding : EccFinding)
  /-- `HOST_APERTURE_ACCESS`: A host read or write through a BAR2 aperture slot. (R314) -/
  | hostApertureAccess (vdid : Nat) (slot : Nat) (offset : Nat) (write : Bool) (data : List (BitVec 8))
  /-- `HART_TAKEN_STORE`: An ENV hart stores TAKEN to a FULL action, starting STEPUSED. (R276) -/
  | hartTakenStore (hart : Nat)
  /-- `HART_OBSERVATION_STORE`: An ENV hart stores to the observation payload or header. (R276) -/
  | hartObservationStore (hart : Nat) (offset : Nat) (data : List (BitVec 8))
  /-- `HART_PUBLISH`: An ENV hart publishes FULL or DONE after its earlier stores. (R277) -/
  | hartPublish (hart : Nat) (done : Bool)
  /-- `CHECKER_REWARD_STORE`: A checker hart stores REWARD into a DONE observation. (R283) -/
  | checkerRewardStore (hart : Nat) (pair : Nat) (reward : BitVec 32)
  /-- `HART_EXCEPTION`: A U-mode exception kills an ENV episode or idles a checker hart. (R270) -/
  | hartException (hart : Nat)
  /-- `SUPERVISOR_KILL`: The supervisor kills an episode, marking it KILLED. (R275) -/
  | supervisorKill (pair : Nat)
  /-- `POWER_FORECAST`: Every 4,096 pod cycles the housekeeper forecasts power and holds or releases gangs. (R329) -/
  | powerForecast (forecast : List (Nat × Nat))
  /-- `THERMAL_SAMPLE`: Junction sensors are sampled and thermal holds or TEMER applied. (R332) -/
  | thermalSample (temps : List Nat) (forecasts : List Nat)
  /-- `THW`: The hardware comparator trips at 115 °C. (R332) -/
  | thw
  /-- `IEMER`: Input current exceeds 90 A for 1 µs. (R332) -/
  | iemer
  /-- `COLD_BOOT`: Boot checks firmware, trains DRAM, finishes scrubs and brings up the links. (R339) -/
  | coldBoot (ok : Nat)
  /-- `WARM_RESET`: A warm reset repeats boot steps 2-6 and restores DRAM training. (R339) -/
  | warmReset
  /-- `STANDBY_POWER_LOSS`: After loss of standby power, logged protected contexts are scrubbed again. (R301) -/
  | standbyPowerLoss
  /-- `SPDM_REQUEST`: An SPDM message on PF0's DOE is served. (R326) -/
  | spdmRequest (block : Nat)
  /-- `IDE_KM`: IDE stream keys are programmed over an SPDM session. (R325) -/
  | ideKm (stream : Nat) (key : BitVec 256)
  /-- `IDE_INTEGRITY_FAILURE`: An IDE integrity failure moves a VF to ERROR or raises PLATFORM. (R325) -/
  | ideIntegrityFailure (stream : Nat)
  /-- `LOCK_INTERFACE_REQUEST`: Moves a VF to CONFIG_LOCKED, freezing its configuration. (R323) -/
  | lockInterfaceRequest (vf : Nat)
  /-- `START_INTERFACE_REQUEST`: Moves a VF to RUN. (R323) -/
  | startInterfaceRequest (vf : Nat)
  /-- `STOP_INTERFACE_REQUEST`: Returns a VF to CONFIG_UNLOCKED, tearing down its contexts. (R323) -/
  | stopInterfaceRequest (vf : Nat)
  /-- `GET_DEVICE_INTERFACE_REPORT`: Returns the interface report of a VF. (R324) -/
  | getDeviceInterfaceReport (vf : Nat)
  /-- `FUNCTION_LEVEL_RESET`: An FLR of a VF tears down its contexts and unlocks it. (R322) -/
  | functionLevelReset (vf : Nat)
  /-- `GRANT`: Grants a resource to a child partition. (R321) -/
  | grant (vdid : Nat)
  /-- `REVOKE_BOUNDARY`: REVOKE with MODE 0 tears down users at the next slot boundary. (R308) -/
  | revokeBoundary (vdid : Nat)
  /-- `REVOKE_AT_ONCE`: REVOKE with MODE 1 tears down users at completion. (R308) -/
  | revokeAtOnce (vdid : Nat)
  /-- `RIGHTS`: Sets a child's rights mask. (R307) -/
  | rights (vdid : Nat)
  /-- `IFCFG`: Sets an interface's PASID and MIRROR. (R321) -/
  | ifcfg (vdid : Nat)
  /-- `CORESET`: Forms a core set from granted cores. (R247) -/
  | coreset (vdid : Nat)
  /-- `CTXCREATE`: Creates a context on a core set and returns its id. (R321) -/
  | ctxcreate (vdid : Nat)
  /-- `CTXMAP`: Loads a context's L2 context map from host memory. (R311) -/
  | ctxmap (vdid : Nat)
  /-- `CTXDESTROY`: Destroys a context as REVOKE MODE 1. (R321) -/
  | ctxdestroy (vdid : Nat)
  /-- `GANG`: Creates a gang with its member count and run-list address. (R321) -/
  | gang (vdid : Nat)
  /-- `CELL`: Writes a slot-matrix cell. (R248) -/
  | cell (vdid : Nat)
  /-- `LINKSHARE`: Gives a gang a link share in a row. (R233) -/
  | linkshare (vdid : Nat)
  /-- `LINKSHARE_CLEAR`: With CLEAR set, removes a link share. (R321) -/
  | linkshareClear (vdid : Nat)
  /-- `HOSTWIN`: Sets a host window's base, length and permissions. (R313) -/
  | hostwin (vdid : Nat)
  /-- `APERTURE`: Sets an aperture slot to a context page. (R314) -/
  | aperture (vdid : Nat)
  /-- `APERTURE_CLEAR`: With CLEAR set, invalidates an aperture slot. (R321) -/
  | apertureClear (vdid : Nat)
  /-- `MBOXCFG_GRPCTL`: Writes a mailbox group's GRPCTL through the supervisor. (R278) -/
  | mboxcfgGrpctl (vdid : Nat)
  /-- `MBOXCFG_GRPACTIVE`: Writes a mailbox group's GRPACTIVE. (R278) -/
  | mboxcfgGrpactive (vdid : Nat)
  /-- `MBOXCFG_EPNEXT`: Writes a pair's EPNEXT. (R278) -/
  | mboxcfgEpnext (vdid : Nat)
  /-- `HARTCFG`: Assigns a hart's role, pair, budgets and window. (R321) -/
  | hartcfg (vdid : Nat)
  /-- `DISTCFG`: Sets a child's disturbance budget and action. (R315) -/
  | distcfg (vdid : Nat)
  /-- `DEBUG_STOP_OFF`: Clears DBGCTL.STOP for a context. (R298) -/
  | debugStopOff (vdid : Nat)
  /-- `DEBUG_STOP_ON`: Sets DBGCTL.STOP for a context. (R298) -/
  | debugStopOn (vdid : Nat)
  /-- `DEBUG_HALT`: Requests a halt, taken as a debugging stop. (R298) -/
  | debugHalt (vdid : Nat)
  /-- `DEBUG_IMAGE_READ`: Reads a core's context image to host memory. (R321) -/
  | debugImageRead (vdid : Nat)
  /-- `DEBUG_IMAGE_WRITE`: Writes a core's context image from host memory. (R321) -/
  | debugImageWrite (vdid : Nat)
  /-- `HOLDREL`: Releases a gang's outstanding watchdog or debug hold. (R321) -/
  | holdrel (vdid : Nat)
  /-- `COUNTERS`: Writes a lifetime counter set to host memory. (R321) -/
  | counters (vdid : Nat)
  /-- `REPORT`: Writes the interface report to host memory. (R324) -/
  | report (vdid : Nat)
  /-- `PACMD_INVALID_OP`: A PACMD write with an unlisted OP completes with BADARG. (R320) -/
  | pacmdInvalidOp (vdid : Nat) (op : BitVec 8)
  /-- `REGISTER_WRITE`: A write to an authority-page or housekeeping register with no row of its own. (R319) -/
  | registerWrite (vdid : Nat) (offset : Nat) (value : BitVec 64)
  /-- `DEADPEER_CLEAR`: The L0 level clears DEADPEER bits through the partition authority. (R241) -/
  | deadpeerClear (chips : List Nat)
  /-- `MSIX_VECTOR_UNMASK`: When host software unmasks an MSI-X vector whose Pending bit is set, the device sends the held
  message. (R318) -/
  | msixVectorUnmask (vdid : Nat) (vector : Nat)
  /-- `FROZEN_CONFIGURATION_CHANGE`: A change to a locked VF's frozen configuration, such as its BAR layout or MSI-X table
  location, moves the VF to ERROR and tears down its contexts. (R323) -/
  | frozenConfigurationChange (vf : Nat)
  /-- `SLOT_MATRIX_ROWS_AND_LENGTH`: L0 sets the pod-wide ROWS and slot-length exponent k of the slot matrix. (R248) -/
  | slotMatrixRowsAndLength (rows : Nat) (k : Nat)
  deriving DecidableEq, Repr

end Sys2Proof
end

