-- ==== Sys2Proof/WellFormed.lean ====
section
/-! DEFINITION. Which instruction terms stand for words the part can hold, or for events it can meet. -/

namespace Sys2Proof

/-- The never-guard is no guard of a decoded move (R55). -/
def Guard.wf (g : Guard) : Bool := !(g.inv && g.idx == 0)

def Mv.wf (m : Mv) : Bool := m.g.wf

/-- C0 has no `dst` port (R103). -/
def OperandPort.wf : OperandPort → Bool
  | .c0 .dst => false
  | _ => true

def Dest.wf : Dest → Bool
  | .port p => p.wf
  | _ => true

/-- A package core index (R6). -/
def coreWf (k : Nat) : Bool := decide (k < 1024)

/-- A chip id of the pod (R6). -/
def chipWf (c : Nat) : Bool := decide (c < 4096)

/-- A hart of the Gembisen cluster (R269). -/
def hartWf (h : Nat) : Bool := decide (h < 256)

/-- A partition: function 0 to 64 in [11:4], interface in [3:0] (R304). -/
def vdidWf (v : Nat) : Bool := decide (v < 1040 ∧ (v = 0 ∨ 16 ≤ v)) || decide (4112 ≤ v ∧ v < 5136 ∧ v % 16 = 0)

/-- A virtual function (R304). -/
def vfWf (v : Nat) : Bool := decide (1 ≤ v ∧ v ≤ 64)

/-- The OP codes that R320 lists. -/
def paOpListed (op : BitVec 8) : Bool :=
  [0x01, 0x02, 0x03, 0x04, 0x05, 0x10, 0x11, 0x12, 0x18, 0x19, 0x1A, 0x20, 0x21, 0x22, 0x23, 0x28, 0x30, 0x31, 0x38,
    0x3C].contains op.toNat

def Frame.wf (f : Frame) : Bool :=
  chipWf f.srcChip && chipWf f.dstChip && coreWf f.srcCore && coreWf f.dstCore && decide (f.addr < 2 ^ 22) &&
    decide (f.len ≤ 4096)

def VoteFrame.wf (v : VoteFrame) : Bool := decide (v.origin < 2 ^ 64) && chipWf v.chip && decide (v.verdict.toNat ≤ 7)

/-- An untimed agent is of class 3, 4 or 6 (R183). -/
def Untimed.wf (a : Untimed) : Bool :=
  a.agent.toNat / 4096 == 3 || a.agent.toNat / 4096 == 4 || a.agent.toNat / 4096 == 6

def XUnit.wf (u : XUnit) : Bool := coreWf u.srcCore && decide (u.addr < 2 ^ 22) && decide (u.data.length ≤ 256)

def ReplayEntry.wf (e : ReplayEntry) : Bool := decide (1 ≤ e.kind ∧ e.kind ≤ 7) && decide (e.size ≤ 256)

def FaultUnit.wf : FaultUnit → Bool
  | .sramCorrected k m => coreWf k && decide (m < 128)
  | .sramUncorrectable k m => coreWf k && decide (m < 128)
  | .logic k => coreWf k
  | _ => true

/-- The well-formed instructions. -/
def wellFormed : Instr → Bool
  | .move m d => m.wf && d.wf
  | .nop _ => true
  | .brp m => m.wf
  | .br m => m.wf
  | .brt m => m.wf
  | .call m => m.wf
  | .ret m => m.wf
  | .loop _ m => m.wf
  | .loopp _ m => m.wf
  | .lbrk _ m => m.wf
  | .waitt m => m.wf
  | .resync m => m.wf
  | .spawn m => m.wf
  | .exit m => m.wf
  | .beacon m => m.wf
  | .add m => m.wf
  | .sub m => m.wf
  | .mul m => m.wf
  | .mulh m => m.wf
  | .mulhu m => m.wf
  | .div m => m.wf
  | .divu m => m.wf
  | .rem m => m.wf
  | .remu m => m.wf
  | .and m => m.wf
  | .or m => m.wf
  | .xor m => m.wf
  | .andn m => m.wf
  | .shl m => m.wf
  | .shr m => m.wf
  | .sra m => m.wf
  | .min m => m.wf
  | .minu m => m.wf
  | .max m => m.wf
  | .maxu m => m.wf
  | .clz m => m.wf
  | .popc m => m.wf
  | .sel m => m.wf
  | .cmpEq m => m.wf
  | .cmpNe m => m.wf
  | .cmpLt m => m.wf
  | .cmpLe m => m.wf
  | .cmpLtu m => m.wf
  | .cmpLeu m => m.wf
  | .fadd m => m.wf
  | .fsub m => m.wf
  | .fmul m => m.wf
  | .ffma m => m.wf
  | .fmin m => m.wf
  | .fmax m => m.wf
  | .fcmpEq m => m.wf
  | .fcmpLt m => m.wf
  | .fcmpLe m => m.wf
  | .fcmpUn m => m.wf
  | .fcvtIf m => m.wf
  | .fcvtFi m => m.wf
  | .ldB _ m => m.wf
  | .ldH _ m => m.wf
  | .ldW _ m => m.wf
  | .ldD _ m => m.wf
  | .ldV _ m => m.wf
  | .stB _ m => m.wf
  | .stH _ m => m.wf
  | .stW _ m => m.wf
  | .stD _ m => m.wf
  | .stV _ m => m.wf
  | .aadd _ m => m.wf
  | .afadd _ m => m.wf
  | .amin _ m => m.wf
  | .aminu _ m => m.wf
  | .amax _ m => m.wf
  | .amaxu _ m => m.wf
  | .aand _ m => m.wf
  | .aor _ m => m.wf
  | .axch _ m => m.wf
  | .acas _ m => m.wf
  | .vadd _ m => m.wf
  | .vsub _ m => m.wf
  | .vmul _ m => m.wf
  | .vfma _ m => m.wf
  | .vmin _ m => m.wf
  | .vmax _ m => m.wf
  | .vabs _ m => m.wf
  | .vneg _ m => m.wf
  | .vand _ m => m.wf
  | .vor _ m => m.wf
  | .vxor _ m => m.wf
  | .vshl _ m => m.wf
  | .vshr _ m => m.wf
  | .vsra _ m => m.wf
  | .vclamp _ m => m.wf
  | .vsel _ m => m.wf
  | .vcmp _ m => m.wf
  | .vreda _ m => m.wf
  | .vredm _ m => m.wf
  | .vperm _ m => m.wf
  | .vcvt _ m => m.wf
  | .vqnt _ m => m.wf
  | .vdot8 _ m => m.wf
  | .vexp2 _ m => m.wf
  | .vlog2 _ m => m.wf
  | .vrcp _ m => m.wf
  | .vrsq _ m => m.wf
  | .vsig _ m => m.wf
  | .vlutEval _ m => m.wf
  | .vlutLoad _ m => m.wf
  | .viota _ m => m.wf
  | .vkand _ m => m.wf
  | .vkor _ m => m.wf
  | .vknot _ m => m.wf
  | .vkred _ m => m.wf
  | .mcall m => m.wf
  | .muwr m => m.wf
  | .muwrRoutineEntry m => m.wf
  | .mlut m => m.wf
  | .mzero m => m.wf
  | .scfg m => m.wf
  | .sseek m => m.wf
  | .sskip m => m.wf
  | .stag m => m.wf
  | .sclose m => m.wf
  | .push _ m => m.wf
  | .dcopyR m => m.wf
  | .dcopyW m => m.wf
  | .dref m => m.wf
  | .drfm m => m.wf
  | .xcopy m => m.wf
  | .hcopyR m => m.wf
  | .hcopyW m => m.wf
  | .imcopy m => m.wf
  | .fsend m => m.wf
  | .frecv m => m.wf
  | .fput m => m.wf
  | .fget m => m.wf
  | .fatom m => m.wf
  | .fpeer m => m.wf
  | .mbsend m => m.wf
  | .mbrecv m => m.wf
  | .mbstat m => m.wf
  | .mbsnap m => m.wf
  | .barinit m => m.wf
  | .barrive m => m.wf
  | .barpoll m => m.wf
  | .fence m => m.wf
  | .trap m => m.wf
  | .csrr m => m.wf
  | .csrw m => m.wf
  | .rclaim m => m.wf
  | .wpt m => m.wf
  | .intv m => m.wf
  | .mnop => true
  | .msetImm _ _ => true
  | .msetMp _ _ => true
  | .msetAdd _ _ => true
  | .mloop _ _ _ _ _ => true
  | .mend => true
  | .midle _ => true
  | .mzacc _ => true
  | .mlda _ cls => cls != 3
  | .mldb _ _ cls => cls != 3
  | .mmac _ => true
  | .mmacs _ => true
  | .mepi _ => true
  | .matrixGroupUpdate core _ group => coreWf core && decide (group < 128)
  | .epilogueRow core _ row => coreWf core && decide (row < 128)
  | .operationComplete core _ _ _ => coreWf core
  | .streamPopRead core _ _ _ => coreWf core
  | .loopEndStep core _ => coreWf core
  | .waittResume core => coreWf core
  | .resyncResume _ => true
  | .barrierResume _ handle _ => decide (handle < 64)
  | .drainPark core _ => coreWf core
  | .fencePerform core _ => coreWf core
  | .mbsnapCopy core group => coreWf core && decide (group < 128)
  | .regionSpillFill core region => coreWf core && decide (region < 64)
  | .dcopyUnit core _ _ _ => coreWf core
  | .xcopyUnitArrival core u => coreWf core && u.wf
  | .hostReadDataArrival core _ _ _ _ => coreWf core
  | .hcopyRUnit core _ _ => coreWf core
  | .hcopyWUnit core _ _ => coreWf core
  | .hostWriteSpaceFree core _ => coreWf core
  | .fsendArrival f => f.wf
  | .fputArrival f => f.wf
  | .fgetRequestArrival f => f.wf
  | .fgetResponseArrival f => f.wf
  | .fatomRequestArrival f => f.wf
  | .fatomResponseArrival f => f.wf
  | .poisonFrameArrival f => f.wf
  | .frameForward f _ _ => f.wf
  | .missingArrival core chip _ _ => coreWf core && chipWf chip
  | .holdFreeze _ => true
  | .holdResume _ => true
  | .alignSend => true
  | .align _ origin => decide (origin < 2 ^ 64)
  | .linkDown _ => true
  | .linkTraining _ _ _ _ => true
  | .hold _ _ _ _ origin => decide (origin < 2 ^ 64)
  | .release _ _ origin => decide (origin < 2 ^ 64)
  | .prepare v => v.wf
  | .vote v => v.wf
  | .commit v => v.wf
  | .abort v => v.wf
  | .resyncFrame _ chip _ _ => chipWf chip
  | .barrier _ handle chip _ _ => decide (handle < 64) && chipWf chip
  | .deadpeer _ dead reporter => chipWf dead && chipWf reporter
  | .drop _ chip core _ _ _ => chipWf chip && coreWf core
  | .abortgang _ _ => true
  | .unknownLeekFrame type => decide (type.toNat = 0 ∨ 12 < type.toNat)
  | .slotBoundary => true
  | .prepareSend _ _ => true
  | .switchFreeze _ => true
  | .voteSend _ _ => true
  | .contextSave _ => true
  | .voteDeadline _ => true
  | .inVoteDeadline _ => true
  | .switchIn _ => true
  | .fsaReinject _ f => f.wf
  | .replayReinject core e => coreWf core && e.wf
  | .runComplete _ => true
  | .minderFaultRecord core => coreWf core
  | .recordQueueDrain core => coreWf core
  | .watchdogThreshold core => coreWf core
  | .refreshOwedIncrement core => coreWf core
  | .dramSelfRefresh core _ => coreWf core
  | .disturbanceThreshold core _ _ => coreWf core
  | .disturbanceMitigationDone core _ _ => coreWf core
  | .disturbanceWindow => true
  | .eccWriteback _ => true
  | .patrolRead _ _ => true
  | .untimedAccessReceive a => a.wf
  | .untimedWriteComplete a => a.wf
  | .hostApertureAccess vdid _ _ _ _ => vdidWf vdid
  | .hartTakenStore hart => hartWf hart
  | .hartObservationStore hart _ _ => hartWf hart
  | .hartPublish hart _ => hartWf hart
  | .checkerRewardStore hart pair _ => hartWf hart && decide (pair < 8192)
  | .hartException hart => hartWf hart
  | .hartStart hart => hartWf hart
  | .stepBudgetOverrun hart => hartWf hart
  | .episodeBudgetOverrun hart => hartWf hart
  | .stepDeadline core group => coreWf core && decide (group < 128)
  | .supervisorKill pair => decide (pair < 8192)
  | .episodeScrub pair => decide (pair < 8192)
  | .powerForecast _ => true
  | .thermalSample _ _ => true
  | .thw => true
  | .iemer => true
  | .errorCounterDecay unit => unit.wf
  | .islandWake _ => true
  | .scrubUnit _ => true
  | .coldBoot _ => true
  | .warmReset => true
  | .standbyPowerLoss => true
  | .spdmRequest _ => true
  | .ideKm _ _ => true
  | .ideIntegrityFailure _ => true
  | .lockInterfaceRequest vf => vfWf vf
  | .startInterfaceRequest vf => vfWf vf
  | .stopInterfaceRequest vf => vfWf vf
  | .getDeviceInterfaceReport vf => vfWf vf
  | .functionLevelReset vf => vfWf vf
  | .grant vdid => vdidWf vdid
  | .revokeBoundary vdid => vdidWf vdid
  | .revokeAtOnce vdid => vdidWf vdid
  | .rights vdid => vdidWf vdid
  | .ifcfg vdid => vdidWf vdid
  | .coreset vdid => vdidWf vdid
  | .ctxcreate vdid => vdidWf vdid
  | .ctxmap vdid => vdidWf vdid
  | .ctxdestroy vdid => vdidWf vdid
  | .gang vdid => vdidWf vdid
  | .cell vdid => vdidWf vdid
  | .linkshare vdid => vdidWf vdid
  | .linkshareClear vdid => vdidWf vdid
  | .hostwin vdid => vdidWf vdid
  | .aperture vdid => vdidWf vdid
  | .apertureClear vdid => vdidWf vdid
  | .mboxcfgGrpctl vdid => vdidWf vdid
  | .mboxcfgGrpactive vdid => vdidWf vdid
  | .mboxcfgEpnext vdid => vdidWf vdid
  | .hartcfg vdid => vdidWf vdid
  | .distcfg vdid => vdidWf vdid
  | .debugStopOff vdid => vdidWf vdid
  | .debugStopOn vdid => vdidWf vdid
  | .debugHalt vdid => vdidWf vdid
  | .debugImageRead vdid => vdidWf vdid
  | .debugImageWrite vdid => vdidWf vdid
  | .holdrel vdid => vdidWf vdid
  | .counters vdid => vdidWf vdid
  | .report vdid => vdidWf vdid
  | .pacmdInvalidOp vdid op => vdidWf vdid && !paOpListed op
  | .registerWrite vdid _ _ => vdidWf vdid
  | .leekLaneFree _ => true
  | .hcopyHoldAnnouncement core _ _ => coreWf core
  | .outVoteDeadline _ => true
  | .deadpeerClear _ => true
  | .msixVectorUnmask vdid _ => vdidWf vdid
  | .frozenConfigurationChange vf => vfWf vf
  | .slotMatrixRowsAndLength _ _ => true

end Sys2Proof
end

