-- ==== Sys2Proof/Decode.lean ====
section
/-! DEFINITION. Decoding slot words and microwords (R91 to R108, R170, R171), and the encoder beside it. -/

namespace Sys2Proof

/-- Why a slot word names no operation (R107). -/
inductive BadWord where
  | illegalMove
  | illegalBundle
  | unknownPort
  | microOpcode
  | microClass
  deriving DecidableEq, Repr

/-- The result port of a source id, counted from 0x090 (R94). -/
def resOf (n : Nat) : Option ResultPort :=
  match n with
  | 0 => some .sa
  | 1 => some .va
  | 2 => some .vb
  | 3 => some .bga
  | 4 => some .bgb
  | 5 => some .bgc
  | 6 => some .bgd
  | 7 => some .mx
  | 8 => some .sq
  | 9 => some .c0
  | 10 => some .c1
  | 11 => some .fb
  | 12 => some .sy
  | 13 => some .ct
  | _ => none

/-- The source that a 9-bit source id names, payload slots supplied (R94). -/
def sourceOf (id p1 p2 : Nat) : Option Source :=
  if h : id < 0x40 then some (.sreg ⟨id, h⟩)
  else if h : id - 0x40 < 32 then some (.vreg ⟨id - 0x40, h⟩)
  else if h : id - 0x60 < 8 then some (.kreg ⟨id - 0x60, h⟩)
  else if id = 0x68 then some .pp
  else if id < 0x70 then none
  else if h : id - 0x70 < 16 then some (.pop ⟨id - 0x70, h⟩)
  else if h : id - 0x80 < 16 then some (.peek ⟨id - 0x80, h⟩)
  else if id < 0xA0 then (resOf (id - 0x90)).map .res
  else if h : id - 0xA0 < 8 then some (.acc ⟨id - 0xA0, h⟩)
  else if id = 0xB0 then some (.limm24 (BitVec.ofNat 24 p1))
  else if id = 0xB1 then some (.limm48 (BitVec.ofNat 24 p1) (BitVec.ofNat 24 p2))
  else if id = 0xC0 then some .gcyc
  else if id = 0xC1 then some .coreidx
  else none

/-- The source id of a result port (R94). -/
def resId : ResultPort → Nat
  | .sa => 0x90
  | .va => 0x91
  | .vb => 0x92
  | .bga => 0x93
  | .bgb => 0x94
  | .bgc => 0x95
  | .bgd => 0x96
  | .mx => 0x97
  | .sq => 0x98
  | .c0 => 0x99
  | .c1 => 0x9A
  | .fb => 0x9B
  | .sy => 0x9C
  | .ct => 0x9D

/-- IMM and SRC of a source (R92, R94). -/
def sourceBits : Source → Nat × Nat
  | .sreg n => (0, n.val)
  | .vreg n => (0, 0x40 + n.val)
  | .kreg n => (0, 0x60 + n.val)
  | .pp => (0, 0x68)
  | .pop q => (0, 0x70 + q.val)
  | .peek q => (0, 0x80 + q.val)
  | .res r => (0, resId r)
  | .acc t => (0, 0xA0 + t.val)
  | .gcyc => (0, 0xC0)
  | .coreidx => (0, 0xC1)
  | .short i => (1, i.toNat)
  | .limm24 _ => (0, 0xB0)
  | .limm48 _ _ => (0, 0xB1)

/-- The payload slots of a source, in order (R97). -/
def payloadOf : Source → List Nat
  | .limm24 p => [p.toNat]
  | .limm48 l h => [l.toNat, h.toNat]
  | _ => []

/-- The home station of a source, `none` for an immediate (R50, R94). -/
def homeStation : Source → Option Nat
  | .sreg _ => some 1
  | .vreg _ => some 5
  | .kreg _ => some 5
  | .pp => some 1
  | .pop _ => some 10
  | .peek _ => some 10
  | .res .sa => some 2
  | .res .va => some 4
  | .res .vb => some 6
  | .res .bga => some 3
  | .res .bgb => some 7
  | .res .bgc => some 9
  | .res .bgd => some 11
  | .res .mx => some 8
  | .res .sq => some 10
  | .res .c0 => some 12
  | .res .c1 => some 13
  | .res .fb => some 14
  | .res .sy => some 15
  | .res .ct => some 0
  | .acc _ => some 8
  | .gcyc => some 0
  | .coreidx => some 0
  | .short _ => none
  | .limm24 _ => none
  | .limm48 _ _ => none

/-- First destination id of a vector unit (R100). -/
def vecBase : VUnit → Nat
  | .va => 0x100
  | .vb => 0x180

/-- First destination id of a bank group (R81). -/
def bankBase : Bank → Nat
  | .a => 0x0C0
  | .b => 0x1C0
  | .c => 0x240
  | .d => 0x2C0

def vportNo : VPort → Nat
  | .a => 0
  | .b => 1
  | .c => 2
  | .k => 3
  | .ty => 4
  | .rm => 5
  | .sc => 6
  | .ctl => 7

def sqPortNo : SqPort → Nat
  | .id => 0
  | .base => 1
  | .shape0 => 2
  | .shape1 => 3
  | .shape2 => 4
  | .fmt => 5
  | .sstr => 6
  | .tag => 7

def dmaPortNo : DmaPort → Nat
  | .sad => 0
  | .lad => 1
  | .len => 2
  | .at => 3
  | .tag => 4
  | .dst => 5

def fbPortNo : FbPort → Nat
  | .link => 0
  | .sad => 1
  | .len => 2
  | .at => 3
  | .path => 4
  | .rad => 5
  | .tag => 6
  | .aop => 7

/-- The destination id of an operand port (R98 to R105). -/
def portId : OperandPort → Nat
  | .ct i => 1 + i.val
  | .saA => 0x080
  | .saB => 0x081
  | .saC => 0x082
  | .saQ => 0x083
  | .vec u p => vecBase u + vportNo p
  | .bankData g => bankBase g + 1
  | .bankCmp g => bankBase g + 2
  | .mp i => 0x200 + i.val
  | .sq p => 0x280 + sqPortNo p
  | .c0 p => 0x300 + dmaPortNo p
  | .c1 p => 0x340 + dmaPortNo p
  | .fb p => 0x380 + fbPortNo p
  | .sy i => 0x3C0 + i.val

/-- The destination id of a plain move (R96, R98). -/
def destId : Dest → Nat
  | .null => 0
  | .sreg n => 0x040 + n.val
  | .preg n => 8 + n.val
  | .vreg n => 0x140 + n.val
  | .kreg n => 0x160 + n.val
  | .port p => portId p

/-- The vector-unit operand port of a port number (R100). -/
def vecPort (u : VUnit) (port : Nat) : Option Dest :=
  match port with
  | 0 => some (.port (.vec u .a))
  | 1 => some (.port (.vec u .b))
  | 2 => some (.port (.vec u .c))
  | 3 => some (.port (.vec u .k))
  | 4 => some (.port (.vec u .ty))
  | 5 => some (.port (.vec u .rm))
  | 6 => some (.port (.vec u .sc))
  | 7 => some (.port (.vec u .ctl))
  | _ => none

/-- The bank-group operand port of a port number (R81). -/
def bankPort (g : Bank) (port : Nat) : Option Dest :=
  match port with
  | 1 => some (.port (.bankData g))
  | 2 => some (.port (.bankCmp g))
  | _ => none

/-- The plain-move destination of a station and port (R96 to R105). -/
def destOf (station port : Nat) : Option Dest :=
  match station with
  | 0 =>
    match port with
    | 0 => some .null
    | 1 => some (.port (.ct 0))
    | 2 => some (.port (.ct 1))
    | 3 => some (.port (.ct 2))
    | 8 => some (.preg 0)
    | 9 => some (.preg 1)
    | 10 => some (.preg 2)
    | 11 => some (.preg 3)
    | 12 => some (.preg 4)
    | 13 => some (.preg 5)
    | 14 => some (.preg 6)
    | 15 => some (.preg 7)
    | _ => none
  | 1 => if h : port < 64 then some (.sreg ⟨port, h⟩) else none
  | 2 =>
    match port with
    | 0 => some (.port .saA)
    | 1 => some (.port .saB)
    | 2 => some (.port .saC)
    | 3 => some (.port .saQ)
    | _ => none
  | 3 => bankPort .a port
  | 4 => vecPort .va port
  | 5 =>
    if h : port < 32 then some (.vreg ⟨port, h⟩)
    else if h : port - 32 < 8 then some (.kreg ⟨port - 32, h⟩)
    else none
  | 6 => vecPort .vb port
  | 7 => bankPort .b port
  | 8 => if h : port < 8 then some (.port (.mp ⟨port, h⟩)) else none
  | 9 => bankPort .c port
  | 10 =>
    match port with
    | 0 => some (.port (.sq .id))
    | 1 => some (.port (.sq .base))
    | 2 => some (.port (.sq .shape0))
    | 3 => some (.port (.sq .shape1))
    | 4 => some (.port (.sq .shape2))
    | 5 => some (.port (.sq .fmt))
    | 6 => some (.port (.sq .sstr))
    | 7 => some (.port (.sq .tag))
    | _ => none
  | 11 => bankPort .d port
  | 12 =>
    match port with
    | 0 => some (.port (.c0 .sad))
    | 1 => some (.port (.c0 .lad))
    | 2 => some (.port (.c0 .len))
    | 3 => some (.port (.c0 .at))
    | 4 => some (.port (.c0 .tag))
    | _ => none
  | 13 =>
    match port with
    | 0 => some (.port (.c1 .sad))
    | 1 => some (.port (.c1 .lad))
    | 2 => some (.port (.c1 .len))
    | 3 => some (.port (.c1 .at))
    | 4 => some (.port (.c1 .tag))
    | 5 => some (.port (.c1 .dst))
    | _ => none
  | 14 =>
    match port with
    | 0 => some (.port (.fb .link))
    | 1 => some (.port (.fb .sad))
    | 2 => some (.port (.fb .len))
    | 3 => some (.port (.fb .at))
    | 4 => some (.port (.fb .path))
    | 5 => some (.port (.fb .rad))
    | 6 => some (.port (.fb .tag))
    | 7 => some (.port (.fb .aop))
    | _ => none
  | _ => if h : port < 3 then some (.port (.sy ⟨port, h⟩)) else none

/-- The triggers of CT (R98). -/
def ctTrigger (port : Nat) (m : Mv) : Option Instr :=
  match port with
  | 16 => some (.brp m)
  | 17 => some (.br m)
  | 18 => some (.brt m)
  | 19 => some (.call m)
  | 20 => some (.ret m)
  | 40 => some (.waitt m)
  | 41 => some (.resync m)
  | 42 => some (.spawn m)
  | 43 => some (.exit m)
  | 44 => some (.beacon m)
  | 24 => some (.loop 0 m)
  | 25 => some (.loop 1 m)
  | 26 => some (.loop 2 m)
  | 27 => some (.loop 3 m)
  | 28 => some (.loopp 0 m)
  | 29 => some (.loopp 1 m)
  | 30 => some (.loopp 2 m)
  | 31 => some (.loopp 3 m)
  | 32 => some (.lbrk 0 m)
  | 33 => some (.lbrk 1 m)
  | 34 => some (.lbrk 2 m)
  | 35 => some (.lbrk 3 m)
  | _ => none

/-- The triggers of SA (R99). -/
def saTrigger (port : Nat) (m : Mv) : Option Instr :=
  match port with
  | 16 => some (.add m)
  | 17 => some (.sub m)
  | 18 => some (.mul m)
  | 19 => some (.mulh m)
  | 20 => some (.mulhu m)
  | 21 => some (.div m)
  | 22 => some (.divu m)
  | 23 => some (.rem m)
  | 24 => some (.remu m)
  | 25 => some (.and m)
  | 26 => some (.or m)
  | 27 => some (.xor m)
  | 28 => some (.andn m)
  | 29 => some (.shl m)
  | 30 => some (.shr m)
  | 31 => some (.sra m)
  | 32 => some (.min m)
  | 33 => some (.minu m)
  | 34 => some (.max m)
  | 35 => some (.maxu m)
  | 36 => some (.clz m)
  | 37 => some (.popc m)
  | 38 => some (.sel m)
  | 40 => some (.cmpEq m)
  | 41 => some (.cmpNe m)
  | 42 => some (.cmpLt m)
  | 43 => some (.cmpLe m)
  | 44 => some (.cmpLtu m)
  | 45 => some (.cmpLeu m)
  | 48 => some (.fadd m)
  | 49 => some (.fsub m)
  | 50 => some (.fmul m)
  | 51 => some (.ffma m)
  | 52 => some (.fmin m)
  | 53 => some (.fmax m)
  | 54 => some (.fcmpEq m)
  | 55 => some (.fcmpLt m)
  | 56 => some (.fcmpLe m)
  | 57 => some (.fcmpUn m)
  | 58 => some (.fcvtIf m)
  | 59 => some (.fcvtFi m)
  | _ => none

/-- The triggers of VA and VB (R100). -/
def vecTrigger (u : VUnit) (port : Nat) (m : Mv) : Option Instr :=
  match port with
  | 16 => some (.vadd u m)
  | 17 => some (.vsub u m)
  | 18 => some (.vmul u m)
  | 19 => some (.vfma u m)
  | 20 => some (.vmin u m)
  | 21 => some (.vmax u m)
  | 22 => some (.vabs u m)
  | 23 => some (.vneg u m)
  | 24 => some (.vand u m)
  | 25 => some (.vor u m)
  | 26 => some (.vxor u m)
  | 27 => some (.vshl u m)
  | 28 => some (.vshr u m)
  | 29 => some (.vsra u m)
  | 30 => some (.vclamp u m)
  | 31 => some (.vsel u m)
  | 32 => some (.vcmp u m)
  | 33 => some (.vreda u m)
  | 34 => some (.vredm u m)
  | 35 => some (.vperm u m)
  | 36 => some (.vcvt u m)
  | 37 => some (.vqnt u m)
  | 38 => some (.vdot8 u m)
  | 39 => some (.vexp2 u m)
  | 40 => some (.vlog2 u m)
  | 41 => some (.vrcp u m)
  | 42 => some (.vrsq u m)
  | 43 => some (.vsig u m)
  | 44 => some (.vlutEval u m)
  | 45 => some (.viota u m)
  | 46 => some (.vkand u m)
  | 47 => some (.vkor u m)
  | 48 => some (.vknot u m)
  | 49 => some (.vkred u m)
  | _ => none

/-- The triggers of a bank group (R81). -/
def bankTrigger (g : Bank) (port : Nat) (m : Mv) : Option Instr :=
  match port with
  | 16 => some (.ldB g m)
  | 17 => some (.ldH g m)
  | 18 => some (.ldW g m)
  | 19 => some (.ldD g m)
  | 20 => some (.ldV g m)
  | 24 => some (.stB g m)
  | 25 => some (.stH g m)
  | 26 => some (.stW g m)
  | 27 => some (.stD g m)
  | 28 => some (.stV g m)
  | 32 => some (.aadd g m)
  | 33 => some (.afadd g m)
  | 34 => some (.amin g m)
  | 35 => some (.aminu g m)
  | 36 => some (.amax g m)
  | 37 => some (.amaxu g m)
  | 38 => some (.aand g m)
  | 39 => some (.aor g m)
  | 40 => some (.axch g m)
  | 41 => some (.acas g m)
  | _ => none

/-- The triggers of MX (R102). -/
def mxTrigger (port : Nat) (m : Mv) : Option Instr :=
  match port with
  | 16 => some (.mcall m)
  | 17 => some (.muwr m)
  | 18 => some (.mlut m)
  | 19 => some (.mzero m)
  | _ => none

/-- The configuration triggers of SQ (R84). -/
def sqTrigger (port : Nat) (m : Mv) : Option Instr :=
  match port with
  | 16 => some (.scfg m)
  | 17 => some (.sseek m)
  | 18 => some (.sskip m)
  | 19 => some (.stag m)
  | 20 => some (.sclose m)
  | _ => none

/-- The triggers of C0 (R103). -/
def c0Trigger (port : Nat) (m : Mv) : Option Instr :=
  match port with
  | 16 => some (.dcopyR m)
  | 17 => some (.dcopyW m)
  | 18 => some (.dref m)
  | 19 => some (.drfm m)
  | _ => none

/-- The triggers of C1 (R103). -/
def c1Trigger (port : Nat) (m : Mv) : Option Instr :=
  match port with
  | 16 => some (.xcopy m)
  | 17 => some (.hcopyR m)
  | 18 => some (.hcopyW m)
  | 19 => some (.imcopy m)
  | _ => none

/-- The triggers of FB (R104). -/
def fbTrigger (port : Nat) (m : Mv) : Option Instr :=
  match port with
  | 16 => some (.fsend m)
  | 17 => some (.frecv m)
  | 18 => some (.fput m)
  | 19 => some (.fget m)
  | 20 => some (.fatom m)
  | 21 => some (.fpeer m)
  | _ => none

/-- The triggers of SY (R105). -/
def syTrigger (port : Nat) (m : Mv) : Option Instr :=
  match port with
  | 16 => some (.mbsend m)
  | 17 => some (.mbrecv m)
  | 18 => some (.mbstat m)
  | 19 => some (.mbsnap m)
  | 20 => some (.barinit m)
  | 21 => some (.barrive m)
  | 22 => some (.barpoll m)
  | 23 => some (.fence m)
  | 24 => some (.trap m)
  | 25 => some (.csrr m)
  | 26 => some (.csrw m)
  | 27 => some (.rclaim m)
  | 28 => some (.wpt m)
  | 29 => some (.intv m)
  | _ => none

/-- The push ports of SQ (R84). -/
def pushTrigger (port : Nat) (m : Mv) : Option Instr :=
  if port < 32 then none else if h : port - 32 < 16 then some (.push ⟨port - 32, h⟩ m) else none

/-- The trigger of a station and port (R81, R84, R98 to R105). -/
def triggerOf (station port : Nat) (m : Mv) : Option Instr :=
  match station with
  | 0 => ctTrigger port m
  | 1 => none
  | 2 => saTrigger port m
  | 3 => bankTrigger .a port m
  | 4 => vecTrigger .va port m
  | 5 => none
  | 6 => vecTrigger .vb port m
  | 7 => bankTrigger .b port m
  | 8 => mxTrigger port m
  | 9 => bankTrigger .c port m
  | 10 => if port < 32 then sqTrigger port m else pushTrigger port m
  | 11 => bankTrigger .d port m
  | 12 => c0Trigger port m
  | 13 => c1Trigger port m
  | 14 => fbTrigger port m
  | _ => syTrigger port m

/-- The instruction that a destination id and a move name (R96 to R105). -/
def instrOf (dst : Nat) (m : Mv) : Option Instr :=
  match destOf (dst / 64) (dst % 64) with
  | some d => some (.move m d)
  | none => triggerOf (dst / 64) (dst % 64) m

/-- Ring distance of a move in a slot's direction (R51). -/
def laneDistance (slot home dst : Nat) : Nat :=
  if slot < 4 then (dst + 16 - home) % 16 else (home + 16 - dst) % 16

/-- Distance of a source to a station in a slot; an immediate starts at its destination (R52). -/
def moveDistance (slot : Nat) (src : Source) (station : Nat) : Nat :=
  match homeStation src with
  | none => 0
  | some h => laneDistance slot h station

/-- Cycles a carried move takes: 1 for a distance to 4, 2 to 8 (R52). -/
def moveLatency (slot : Nat) (src : Source) (dst : Nat) : Nat :=
  if dst = 0 then 1 else if moveDistance slot src (dst / 64) ≤ 4 then 1 else 2

/-- Whether a lane carries the move; the null sink needs none (R52, R54). -/
def laneOk (slot : Nat) (src : Source) (dst : Nat) : Bool :=
  decide (dst = 0) || decide (moveDistance slot src (dst / 64) ≤ 8)

/-- Fields of a slot word (R92). -/
def wInv (w : Nat) : Nat := w / 2 ^ 23 % 2
def wIdx (w : Nat) : Nat := w / 2 ^ 20 % 8
def wImm (w : Nat) : Nat := w / 2 ^ 19 % 2
def wSrc (w : Nat) : Nat := w / 2 ^ 10 % 2 ^ 9
def wDst (w : Nat) : Nat := w % 2 ^ 10

/-- Payload slots that a word claims: 1 for LIMM24, 2 for LIMM48; none for a never-guarded move (R106). -/
def claimOf (w : Nat) : Nat :=
  if wInv w = 1 ∧ wIdx w = 0 then 0
  else if wImm w = 0 ∧ wSrc w = 0xB0 then 1
  else if wImm w = 0 ∧ wSrc w = 0xB1 then 2
  else 0

/-- Decode one slot word, the two slots after it supplied (R92 to R108). The instruction carries its payload. [log 84 DEDUCED,
88 DESIGN CHOICE, 96 DESIGN CHOICE] -/
def decodeSlot (slot w p1 p2 : Nat) : Except BadWord Instr :=
  if wInv w = 1 ∧ wIdx w = 0 then .ok (.nop (BitVec.ofNat 20 w))
  else
    let src := if wImm w = 1 then some (Source.short (BitVec.ofNat 9 (wSrc w))) else sourceOf (wSrc w) p1 p2
    match src with
    | none => .error .unknownPort
    | some src =>
      match instrOf (wDst w) ⟨⟨decide (wInv w = 1), Fin.ofNat 8 (wIdx w)⟩, src⟩ with
      | none => .error .unknownPort
      | some i =>
        if laneOk slot src (wDst w) = false then .error .illegalMove
        else if 8 ≤ slot + claimOf w then .error .illegalBundle
        else .ok i

/-- The slots of a bundle (R91). -/
def slotWord (bundle : BitVec 192) (k : Nat) : Nat := bundle.toNat / 2 ^ (24 * k) % 2 ^ 24

/-- The decoded moves of a bundle from slot `k` on: (slot, instruction or fate), `fuel` slots at most (R106). -/
def decodeFrom (bundle : BitVec 192) : Nat → Nat → List (Nat × Except BadWord Instr)
  | 0, _ => []
  | fuel + 1, k =>
    if 8 ≤ k then []
    else
      let w := slotWord bundle k
      (k, decodeSlot k w (slotWord bundle (k + 1)) (slotWord bundle (k + 2))) ::
        decodeFrom bundle fuel (k + 1 + claimOf w)

/-- Every move of a bundle in slot order. -/
def decodeBundle (bundle : BitVec 192) : List (Nat × Except BadWord Instr) := decodeFrom bundle 8 0

/-- A selector field (R171). -/
def selOf (w : Nat) : Sel :=
  if w / 16 % 2 = 0 then .direct (Fin.ofNat 16 w) else .indirect (Fin.ofNat 16 w)

/-- Decode one microword (R170). -/
def decodeMicro (w : Nat) : Except BadWord Instr :=
  let d : Fin 16 := Fin.ofNat 16 (w / 2 ^ 54)
  let cls : BitVec 2 := BitVec.ofNat 2 (w / 2 ^ 10)
  match w / 2 ^ 58 % 64 with
  | 0x00 => .ok .mnop
  | 0x01 =>
    match w / 2 ^ 52 % 4 with
    | 0 => .ok (.msetImm d (BitVec.ofNat 48 w))
    | 1 => .ok (.msetMp d (Fin.ofNat 8 w))
    | 2 => .ok (.msetAdd d (BitVec.ofNat 48 w))
    | _ => .error .microOpcode
  | 0x02 => .ok (.mloop (Fin.ofNat 2 (w / 2 ^ 57)) (decide (w / 2 ^ 56 % 2 = 1)) (Fin.ofNat 16 (w / 2 ^ 48))
      (BitVec.ofNat 12 (w / 2 ^ 36)) (BitVec.ofNat 32 w))
  | 0x03 => .ok .mend
  | 0x04 => .ok (.midle (BitVec.ofNat 20 w))
  | 0x08 => .ok (.mzacc (selOf w))
  | 0x10 => if cls = 3 then .error .microClass else .ok (.mlda (selOf w) cls)
  | 0x11 => if cls = 3 then .error .microClass else .ok (.mldb (selOf w) (selOf (w / 2 ^ 5)) cls)
  | 0x18 => .ok (.mmac (selOf w))
  | 0x19 => .ok (.mmacs (selOf w))
  | 0x20 => .ok (.mepi ⟨selOf w, selOf (w / 2 ^ 5), selOf (w / 2 ^ 10), decide (w / 2 ^ 15 % 2 = 1),
      decide (w / 2 ^ 16 % 2 = 1), decide (w / 2 ^ 17 % 2 = 1), decide (w / 2 ^ 18 % 2 = 1), Fin.ofNat 16 (w / 2 ^ 19),
      Fin.ofNat 16 (w / 2 ^ 23), BitVec.ofNat 4 (w / 2 ^ 27)⟩)
  | _ => .error .microOpcode

/-- The clockwise lane of slot 0, or else the anticlockwise lane of slot 4, as R52 says one of them always serves. -/
def laneOfWord (w p1 p2 : Nat) : Nat :=
  match decodeSlot 0 w p1 p2 with
  | .error .illegalMove => 4
  | _ => 0

/-- The instruction read from table bits: a 64-bit microword, or slot words laid out from the first (LIMM payload after it). -/
def decodeTableWord (nbits w : Nat) : Option Instr :=
  if nbits = 64 then (decodeMicro (w % 2 ^ 64)).toOption
  else
    let w0 := w % 2 ^ 24
    let p1 := w / 2 ^ 24 % 2 ^ 24
    let p2 := w / 2 ^ 48 % 2 ^ 24
    (decodeSlot (laneOfWord w0 p1 p2) w0 p1 p2).toOption

/-- The destination id of a slot instruction (R96 to R105); `none` for a micro-operation or an event. -/
def dstId : Instr → Option Nat
  | .move _ d => some (destId d)
  | .brp _ => some 16
  | .br _ => some 17
  | .brt _ => some 18
  | .call _ => some 19
  | .ret _ => some 20
  | .waitt _ => some 40
  | .resync _ => some 41
  | .spawn _ => some 42
  | .exit _ => some 43
  | .beacon _ => some 44
  | .loop n _ => some (24 + n.val)
  | .loopp n _ => some (28 + n.val)
  | .lbrk n _ => some (32 + n.val)
  | .add _ => some 144
  | .sub _ => some 145
  | .mul _ => some 146
  | .mulh _ => some 147
  | .mulhu _ => some 148
  | .div _ => some 149
  | .divu _ => some 150
  | .rem _ => some 151
  | .remu _ => some 152
  | .and _ => some 153
  | .or _ => some 154
  | .xor _ => some 155
  | .andn _ => some 156
  | .shl _ => some 157
  | .shr _ => some 158
  | .sra _ => some 159
  | .min _ => some 160
  | .minu _ => some 161
  | .max _ => some 162
  | .maxu _ => some 163
  | .clz _ => some 164
  | .popc _ => some 165
  | .sel _ => some 166
  | .cmpEq _ => some 168
  | .cmpNe _ => some 169
  | .cmpLt _ => some 170
  | .cmpLe _ => some 171
  | .cmpLtu _ => some 172
  | .cmpLeu _ => some 173
  | .fadd _ => some 176
  | .fsub _ => some 177
  | .fmul _ => some 178
  | .ffma _ => some 179
  | .fmin _ => some 180
  | .fmax _ => some 181
  | .fcmpEq _ => some 182
  | .fcmpLt _ => some 183
  | .fcmpLe _ => some 184
  | .fcmpUn _ => some 185
  | .fcvtIf _ => some 186
  | .fcvtFi _ => some 187
  | .vadd u _ => some (vecBase u + 16)
  | .vsub u _ => some (vecBase u + 17)
  | .vmul u _ => some (vecBase u + 18)
  | .vfma u _ => some (vecBase u + 19)
  | .vmin u _ => some (vecBase u + 20)
  | .vmax u _ => some (vecBase u + 21)
  | .vabs u _ => some (vecBase u + 22)
  | .vneg u _ => some (vecBase u + 23)
  | .vand u _ => some (vecBase u + 24)
  | .vor u _ => some (vecBase u + 25)
  | .vxor u _ => some (vecBase u + 26)
  | .vshl u _ => some (vecBase u + 27)
  | .vshr u _ => some (vecBase u + 28)
  | .vsra u _ => some (vecBase u + 29)
  | .vclamp u _ => some (vecBase u + 30)
  | .vsel u _ => some (vecBase u + 31)
  | .vcmp u _ => some (vecBase u + 32)
  | .vreda u _ => some (vecBase u + 33)
  | .vredm u _ => some (vecBase u + 34)
  | .vperm u _ => some (vecBase u + 35)
  | .vcvt u _ => some (vecBase u + 36)
  | .vqnt u _ => some (vecBase u + 37)
  | .vdot8 u _ => some (vecBase u + 38)
  | .vexp2 u _ => some (vecBase u + 39)
  | .vlog2 u _ => some (vecBase u + 40)
  | .vrcp u _ => some (vecBase u + 41)
  | .vrsq u _ => some (vecBase u + 42)
  | .vsig u _ => some (vecBase u + 43)
  | .vlutEval u _ => some (vecBase u + 44)
  | .viota u _ => some (vecBase u + 45)
  | .vkand u _ => some (vecBase u + 46)
  | .vkor u _ => some (vecBase u + 47)
  | .vknot u _ => some (vecBase u + 48)
  | .vkred u _ => some (vecBase u + 49)
  | .vlutLoad u _ => some (vecBase u + 44)
  | .ldB g _ => some (bankBase g + 16)
  | .ldH g _ => some (bankBase g + 17)
  | .ldW g _ => some (bankBase g + 18)
  | .ldD g _ => some (bankBase g + 19)
  | .ldV g _ => some (bankBase g + 20)
  | .stB g _ => some (bankBase g + 24)
  | .stH g _ => some (bankBase g + 25)
  | .stW g _ => some (bankBase g + 26)
  | .stD g _ => some (bankBase g + 27)
  | .stV g _ => some (bankBase g + 28)
  | .aadd g _ => some (bankBase g + 32)
  | .afadd g _ => some (bankBase g + 33)
  | .amin g _ => some (bankBase g + 34)
  | .aminu g _ => some (bankBase g + 35)
  | .amax g _ => some (bankBase g + 36)
  | .amaxu g _ => some (bankBase g + 37)
  | .aand g _ => some (bankBase g + 38)
  | .aor g _ => some (bankBase g + 39)
  | .axch g _ => some (bankBase g + 40)
  | .acas g _ => some (bankBase g + 41)
  | .mcall _ => some 528
  | .muwr _ => some 529
  | .mlut _ => some 530
  | .mzero _ => some 531
  | .muwrRoutineEntry _ => some 529
  | .scfg _ => some 656
  | .sseek _ => some 657
  | .sskip _ => some 658
  | .stag _ => some 659
  | .sclose _ => some 660
  | .push q _ => some (0x2A0 + q.val)
  | .dcopyR _ => some 784
  | .dcopyW _ => some 785
  | .dref _ => some 786
  | .drfm _ => some 787
  | .xcopy _ => some 848
  | .hcopyR _ => some 849
  | .hcopyW _ => some 850
  | .imcopy _ => some 851
  | .fsend _ => some 912
  | .frecv _ => some 913
  | .fput _ => some 914
  | .fget _ => some 915
  | .fatom _ => some 916
  | .fpeer _ => some 917
  | .mbsend _ => some 976
  | .mbrecv _ => some 977
  | .mbstat _ => some 978
  | .mbsnap _ => some 979
  | .barinit _ => some 980
  | .barrive _ => some 981
  | .barpoll _ => some 982
  | .fence _ => some 983
  | .trap _ => some 984
  | .csrr _ => some 985
  | .csrw _ => some 986
  | .rclaim _ => some 987
  | .wpt _ => some 988
  | .intv _ => some 989
  | _ => none

/-- The move a slot instruction carries. -/
def moveOf : Instr → Option Mv
  | .move m _ => some m
  | .loop _ m => some m
  | .loopp _ m => some m
  | .lbrk _ m => some m
  | .push _ m => some m
  | .muwrRoutineEntry m => some m
  | .vlutLoad _ m => some m
  | .brp m => some m
  | .br m => some m
  | .brt m => some m
  | .call m => some m
  | .ret m => some m
  | .waitt m => some m
  | .resync m => some m
  | .spawn m => some m
  | .exit m => some m
  | .beacon m => some m
  | .add m => some m
  | .sub m => some m
  | .mul m => some m
  | .mulh m => some m
  | .mulhu m => some m
  | .div m => some m
  | .divu m => some m
  | .rem m => some m
  | .remu m => some m
  | .and m => some m
  | .or m => some m
  | .xor m => some m
  | .andn m => some m
  | .shl m => some m
  | .shr m => some m
  | .sra m => some m
  | .min m => some m
  | .minu m => some m
  | .max m => some m
  | .maxu m => some m
  | .clz m => some m
  | .popc m => some m
  | .sel m => some m
  | .cmpEq m => some m
  | .cmpNe m => some m
  | .cmpLt m => some m
  | .cmpLe m => some m
  | .cmpLtu m => some m
  | .cmpLeu m => some m
  | .fadd m => some m
  | .fsub m => some m
  | .fmul m => some m
  | .ffma m => some m
  | .fmin m => some m
  | .fmax m => some m
  | .fcmpEq m => some m
  | .fcmpLt m => some m
  | .fcmpLe m => some m
  | .fcmpUn m => some m
  | .fcvtIf m => some m
  | .fcvtFi m => some m
  | .mcall m => some m
  | .muwr m => some m
  | .mlut m => some m
  | .mzero m => some m
  | .scfg m => some m
  | .sseek m => some m
  | .sskip m => some m
  | .stag m => some m
  | .sclose m => some m
  | .dcopyR m => some m
  | .dcopyW m => some m
  | .dref m => some m
  | .drfm m => some m
  | .xcopy m => some m
  | .hcopyR m => some m
  | .hcopyW m => some m
  | .imcopy m => some m
  | .fsend m => some m
  | .frecv m => some m
  | .fput m => some m
  | .fget m => some m
  | .fatom m => some m
  | .fpeer m => some m
  | .mbsend m => some m
  | .mbrecv m => some m
  | .mbstat m => some m
  | .mbsnap m => some m
  | .barinit m => some m
  | .barrive m => some m
  | .barpoll m => some m
  | .fence m => some m
  | .trap m => some m
  | .csrr m => some m
  | .csrw m => some m
  | .rclaim m => some m
  | .wpt m => some m
  | .intv m => some m
  | .vadd _ m => some m
  | .vsub _ m => some m
  | .vmul _ m => some m
  | .vfma _ m => some m
  | .vmin _ m => some m
  | .vmax _ m => some m
  | .vabs _ m => some m
  | .vneg _ m => some m
  | .vand _ m => some m
  | .vor _ m => some m
  | .vxor _ m => some m
  | .vshl _ m => some m
  | .vshr _ m => some m
  | .vsra _ m => some m
  | .vclamp _ m => some m
  | .vsel _ m => some m
  | .vcmp _ m => some m
  | .vreda _ m => some m
  | .vredm _ m => some m
  | .vperm _ m => some m
  | .vcvt _ m => some m
  | .vqnt _ m => some m
  | .vdot8 _ m => some m
  | .vexp2 _ m => some m
  | .vlog2 _ m => some m
  | .vrcp _ m => some m
  | .vrsq _ m => some m
  | .vsig _ m => some m
  | .vlutEval _ m => some m
  | .viota _ m => some m
  | .vkand _ m => some m
  | .vkor _ m => some m
  | .vknot _ m => some m
  | .vkred _ m => some m
  | .ldB _ m => some m
  | .ldH _ m => some m
  | .ldW _ m => some m
  | .ldD _ m => some m
  | .ldV _ m => some m
  | .stB _ m => some m
  | .stH _ m => some m
  | .stW _ m => some m
  | .stD _ m => some m
  | .stV _ m => some m
  | .aadd _ m => some m
  | .afadd _ m => some m
  | .amin _ m => some m
  | .aminu _ m => some m
  | .amax _ m => some m
  | .amaxu _ m => some m
  | .aand _ m => some m
  | .aor _ m => some m
  | .axch _ m => some m
  | .acas _ m => some m
  | _ => none

/-- The slot word of a move to a destination id (R92). -/
def moveWord (m : Mv) (dst : Nat) : Nat :=
  (if m.g.inv then 1 else 0) * 2 ^ 23 + m.g.idx.val * 2 ^ 20 + (sourceBits m.src).1 * 2 ^ 19 +
    (sourceBits m.src).2 * 2 ^ 10 + dst

/-- A selector's five bits (R171). -/
def selBits : Sel → Nat
  | .direct n => n.val
  | .indirect n => 16 + n.val

def bit (v : Bool) : Nat := if v then 1 else 0

/-- The microword of a micro-operation (R170). -/
def microWord : Instr → Option Nat
  | .mnop => some 0
  | .msetImm d imm => some (0x01 * 2 ^ 58 + d.val * 2 ^ 54 + imm.toNat)
  | .msetMp d n => some (0x01 * 2 ^ 58 + d.val * 2 ^ 54 + 1 * 2 ^ 52 + n.val)
  | .msetAdd d imm => some (0x01 * 2 ^ 58 + d.val * 2 ^ 54 + 2 * 2 ^ 52 + imm.toNat)
  | .mloop c cm cr last count =>
    some (0x02 * 2 ^ 58 + c.val * 2 ^ 57 + bit cm * 2 ^ 56 + cr.val * 2 ^ 48 + last.toNat * 2 ^ 36 + count.toNat)
  | .mend => some (0x03 * 2 ^ 58)
  | .midle n => some (0x04 * 2 ^ 58 + n.toNat)
  | .mzacc t => some (0x08 * 2 ^ 58 + selBits t)
  | .mlda q cls => some (0x10 * 2 ^ 58 + cls.toNat * 2 ^ 10 + selBits q)
  | .mldb q r cls => some (0x11 * 2 ^ 58 + cls.toNat * 2 ^ 10 + selBits r * 2 ^ 5 + selBits q)
  | .mmac t => some (0x18 * 2 ^ 58 + selBits t)
  | .mmacs t => some (0x19 * 2 ^ 58 + selBits t)
  | .mepi e =>
    some (0x20 * 2 ^ 58 + e.rm.toNat * 2 ^ 27 + e.zpr.val * 2 ^ 23 + e.qsr.val * 2 ^ 19 + bit e.intacc * 2 ^ 18 +
      bit e.req * 2 ^ 17 + bit e.act * 2 ^ 16 + bit e.bias * 2 ^ 15 + selBits e.b * 2 ^ 10 + selBits e.o * 2 ^ 5 +
      selBits e.t)
  | _ => none

/-- The words of an instruction: how many bits, and the bits with the first word lowest; `none` for an event. [log 88 DESIGN
CHOICE] -/
def encode (i : Instr) : Option (Nat × Nat) :=
  match microWord i with
  | some w => some (64, w)
  | none =>
    match i with
    | .nop rest => some (24, 2 ^ 23 + rest.toNat)
    | _ =>
      match moveOf i, dstId i with
      | some m, some d =>
        let ws := payloadOf m.src
        some (24 + 24 * ws.length, moveWord m d + 2 ^ 24 * ws.foldr (fun x acc => x + 2 ^ 24 * acc) 0)
      | _, _ => none

end Sys2Proof
end

