-- ==== Sys2Proof/Machine/Number.lean ====
section
/-! DEFINITION. Number formats, exact values and the rounding helper (R125 to R135). -/

namespace Sys2Proof.Machine

/-- An exact value: `m * 2^e`, an infinity, or NaN. `neg` is the sign that a zero carries. -/
inductive Num where
  | nan
  | inf (neg : Bool)
  | fin (neg : Bool) (m : Int) (e : Int)
  deriving DecidableEq, Repr

/-- The element formats (R125): IEEE style by exponent and fraction width, integers, the E8 scale, the binary8 family. -/
inductive Fmt where
  | ieee (eb : Nat) (t : Nat)
  | int (w : Nat) (signed : Bool)
  | e8
  | b8 (signed : Bool) (p : Nat) (hasInf : Bool)
  deriving DecidableEq, Repr

/-- The flags of FPFLAGS (R144): bit 0 NX, 1 UF, 2 OF, 3 DZ, 4 NV, 5 IS. -/
abbrev Flags := BitVec 6

def flagNX : Flags := 1
def flagUF : Flags := 2
def flagOF : Flags := 4
def flagDZ : Flags := 8
def flagNV : Flags := 16
def flagIS : Flags := 32

def f32 : Fmt := .ieee 8 23

/-- The format a code names; `none` for a reserved code (R125). -/
def fmtOfCode (c : Nat) : Option Fmt :=
  match c with
  | 1 => some (.ieee 8 23)
  | 2 => some (.ieee 8 7)
  | 3 => some (.ieee 5 10)
  | 4 => some (.int 32 true)
  | 5 => some (.int 16 true)
  | 6 => some (.int 8 true)
  | 7 => some (.int 8 false)
  | 8 => some .e8
  | _ =>
    let p := c % 8
    if c < 16 ∨ 48 ≤ c ∨ p = 0 then none
    else some (.b8 (c < 32) p (c / 8 % 2 = 1))

/-- Element width in bits (R125). -/
def fmtWidth : Fmt → Nat
  | .ieee eb t => 1 + eb + t
  | .int w _ => w
  | .e8 => 8
  | .b8 .. => 8

def fmtIsInt : Fmt → Bool
  | .int .. => true
  | _ => false

/-- A floating format: IEEE style or binary8. -/
def fmtIsFloat : Fmt → Bool
  | .ieee .. => true
  | .b8 .. => true
  | _ => false

def fmtIsB8 : Fmt → Bool
  | .b8 .. => true
  | _ => false

/-- Exponent bits of a binary8 format (R130, R131). -/
def b8ExpBits (signed : Bool) (p : Nat) : Nat := if signed then 8 - p else 9 - p

/-- The bias (R128, R130). -/
def fmtBias : Fmt → Nat
  | .ieee eb _ => 2 ^ (eb - 1) - 1
  | .b8 s p _ => 2 ^ (b8ExpBits s p - 1)
  | _ => 127

/-- Trailing significand bits. -/
def fmtT : Fmt → Nat
  | .ieee _ t => t
  | .b8 _ p _ => p - 1
  | _ => 0

/-- The exponent of the smallest normal binade (R128, R134). -/
def fmtEmin (f : Fmt) : Int := 1 - (fmtBias f : Int)

/-- `hasinf` (R134). -/
def fmtHasInf : Fmt → Bool
  | .ieee .. => true
  | .b8 _ _ i => i
  | _ => false

/-- `qnan` (R134). -/
def fmtQnan : Fmt → Nat
  | .ieee eb t => (2 ^ (eb + 1) - 1) * 2 ^ (t - 1)
  | .b8 true _ _ => 0x80
  | .b8 false _ _ => 0xFF
  | _ => 0

/-- The code of +∞ where the format has one. -/
def fmtInfCode : Fmt → Nat
  | .ieee eb t => (2 ^ eb - 1) * 2 ^ t
  | .b8 true _ _ => 0x7F
  | .b8 false _ _ => 0xFE
  | _ => 0

/-- The code of the largest finite value, positive (R128, R132). -/
def fmtMaxCode : Fmt → Nat
  | .ieee eb t => (2 ^ eb - 1) * 2 ^ t - 1
  | .b8 true _ i => if i then 0x7E else 0x7F
  | .b8 false _ i => if i then 0xFD else 0xFE
  | _ => 0

/-- The sign bit added to a code. -/
def fmtSignCode (f : Fmt) (neg : Bool) (c : Nat) : Nat :=
  if neg then c + 2 ^ (fmtWidth f - 1) else c

/-- Value of exponent field `E` and significand `T`. -/
def fieldValue (f : Fmt) (neg : Bool) (E T : Nat) : Num :=
  let t := fmtT f
  let m : Nat := if E = 0 then T else 2 ^ t + T
  let e : Int := (if E = 0 then 1 else (E : Int)) - fmtBias f - t
  .fin neg (if neg then -(m : Int) else m) e

/-- `decode` (R134): the exact value of a code. -/
def decodeNum (f : Fmt) (c : Nat) : Num :=
  match f with
  | .ieee eb t =>
    let neg := c / 2 ^ (eb + t) % 2 = 1
    let E := c / 2 ^ t % 2 ^ eb
    let T := c % 2 ^ t
    if E = 2 ^ eb - 1 then (if T = 0 then .inf neg else .nan)
    else fieldValue f neg E T
  | .int w s =>
    let c := c % 2 ^ w
    let v : Int := if s ∧ 2 ^ (w - 1) ≤ c then (c : Int) - 2 ^ w else c
    .fin false v 0
  | .e8 => if c % 256 = 255 then .nan else .fin false 1 ((c % 256 : Nat) - 127)
  | .b8 s p i =>
    let c := c % 256
    let t := p - 1
    if s then
      if c = 0x80 then .nan
      else if i ∧ c % 128 = 0x7F then .inf (128 ≤ c)
      else
        let E := c % 128 / 2 ^ t
        let T := c % 2 ^ t
        -- with P = 1 an exponent field of 0 is zero only (R130)
        fieldValue f (128 ≤ c) E T
    else
      if c = 0xFF then .nan
      else if i ∧ c = 0xFE then .inf false
      else fieldValue f false (c / 2 ^ t) (c % 2 ^ t)

/-- Sign of an exact value, of a zero too. -/
def numNeg : Num → Bool
  | .nan => false
  | .inf n => n
  | .fin n m _ => if m = 0 then n else decide (m < 0)

/-- `a < b` on finite dyadics. -/
def finLt (m₁ : Int) (e₁ : Int) (m₂ : Int) (e₂ : Int) : Bool :=
  let e := min e₁ e₂
  decide (m₁ * 2 ^ (e₁ - e).toNat < m₂ * 2 ^ (e₂ - e).toNat)

/-- `x < y`; false when either is NaN. -/
def numLt : Num → Num → Bool
  | .nan, _ => false
  | _, .nan => false
  | .inf n, .inf k => n && !k
  | .inf n, .fin .. => n
  | .fin .., .inf n => !n
  | .fin _ m e, .fin _ k g => finLt m e k g

/-- `x = y` as real values; false when either is NaN. -/
def numEq (x y : Num) : Bool := x != .nan && y != .nan && !numLt x y && !numLt y x

/-- Negation of an exact value. -/
def numNegate : Num → Num
  | .nan => .nan
  | .inf n => .inf (!n)
  | .fin n m e => .fin (!n) (-m) e

def numAbs : Num → Num
  | .nan => .nan
  | .inf _ => .inf false
  | .fin _ m e => .fin false m.natAbs e

/-- Exact sum; the flag is raised by ∞ − ∞. A zero sum is negative only when both addends are negative zeros. -/
def numAdd : Num → Num → Num × Flags
  | .nan, _ => (.nan, 0)
  | _, .nan => (.nan, 0)
  | .inf n, .inf k => if n = k then (.inf n, 0) else (.nan, flagNV)
  | .inf n, .fin .. => (.inf n, 0)
  | .fin .., .inf n => (.inf n, 0)
  | .fin n m e, .fin k l g =>
    let d := min e g
    (.fin (n && k && m == 0 && l == 0) (m * 2 ^ (e - d).toNat + l * 2 ^ (g - d).toNat) d, 0)

/-- Exact product; the flag is raised by 0 × ∞. -/
def numMul : Num → Num → Num × Flags
  | .nan, _ => (.nan, 0)
  | _, .nan => (.nan, 0)
  | .inf n, .inf k => (.inf (n != k), 0)
  | .inf n, .fin k m e =>
    if m = 0 then (.nan, flagNV) else (.inf (n != numNeg (.fin k m e)), 0)
  | .fin k m e, .inf n =>
    if m = 0 then (.nan, flagNV) else (.inf (n != numNeg (.fin k m e)), 0)
  | .fin n m e, .fin k l g =>
    (.fin (numNeg (.fin n m e) != numNeg (.fin k l g)) (m * l) (e + g), 0)

/-- `a / b` for positive naturals with a sticky low bit: RNE of the result equals RNE of the quotient. -/
def stickyDiv (a b : Nat) (prec : Nat) : Nat :=
  2 * (a * 2 ^ prec / b) + (if a * 2 ^ prec % b = 0 then 0 else 1)

/-- The quotient of finite dyadics, `b ≠ 0`, correct under one rounding of at most 60 bits. -/
def numDivFin (m : Int) (e : Int) (l : Int) (g : Int) : Num :=
  let prec := 128 + Nat.log2 l.natAbs
  let q : Int := stickyDiv m.natAbs l.natAbs prec
  .fin (decide (m < 0) != decide (l < 0)) (if decide (m < 0) != decide (l < 0) then -q else q) (e - g - prec - 1)

/-- Round `m * 2^e` to a multiple of `2^k` (R134 `rint`), giving the quotient by `2^k`. -/
def rint (m : Int) (e : Int) (k : Int) (rm : BitVec 4) (r : Nat) : Int :=
  if k ≤ e then m * 2 ^ (e - k).toNat
  else
    let s := (k - e).toNat
    let d : Int := 2 ^ s
    if rm.getLsbD 2 then
      let q : Int := (m.natAbs * 65536 + r * 2 ^ s) / (65536 * 2 ^ s)
      if m < 0 then -q else q
    else
      match (rm.setWidth 2).toNat with
      | 0 =>
        let q := Int.fdiv m d
        let rem := m - q * d
        if 2 * rem < d then q
        else if d < 2 * rem then q + 1
        else if Int.emod q 2 = 0 then q else q + 1
      | 1 => Int.tdiv m d
      | 2 => Int.fdiv m d
      | _ => -(Int.fdiv (-m) d)

/-- `floor(log2 |m * 2^e|)` for `m ≠ 0`. -/
def floorLog2 (m : Int) (e : Int) : Int := (Nat.log2 m.natAbs : Int) + e

/-- The code of the value `n * 2^k` that the format holds exactly, `n > 0`. -/
def codeOfExact (f : Fmt) (n : Nat) (k : Int) : Nat :=
  let t := fmtT f
  let l := floorLog2 n k
  if l < fmtEmin f then
    -- subnormal: T * 2^(emin - t)
    (n * 2 ^ (k - (fmtEmin f - t)).toNat)
  else
    let E := (l + fmtBias f).toNat
    let sig := if (l - t) ≤ k then n * 2 ^ (k - (l - t)).toNat else n / 2 ^ ((l - t) - k).toNat
    E * 2 ^ t + (sig - 2 ^ t)

/-- The largest finite value as a dyadic. -/
def maxFinite (f : Fmt) : Num := decodeNum f (fmtMaxCode f)

/-- The signed zero of a format (R134): +0 for binary8. -/
def zeroCode (f : Fmt) (neg : Bool) : Nat :=
  match f with
  | .ieee .. => fmtSignCode f neg 0
  | _ => 0

/-- Saturated code of the sign of x. -/
def satCode (f : Fmt) (neg : Bool) : Nat := fmtSignCode f neg (fmtMaxCode f)

/-- Bounds of an integer format (R129). -/
def intMax (w : Nat) (s : Bool) : Int := if s then 2 ^ (w - 1) - 1 else 2 ^ w - 1
def intMin (w : Nat) (s : Bool) : Int := if s then -(2 ^ (w - 1)) else 0

/-- An integer in two's complement or unsigned form. -/
def intCode (w : Nat) (y : Int) : Nat := (Int.emod y (2 ^ w)).toNat

/-- `round` to an integer format (R134); `fl`: x was decoded from a floating format. -/
def roundInt (w : Nat) (s : Bool) (x : Num) (rm : BitVec 4) (r : Nat) (fl : Bool) : Nat × Flags :=
  match x with
  | .nan => (0, flagNV)
  | .inf n => (intCode w (if n then intMin w s else intMax w s), flagIS ||| (if fl then flagNV else 0))
  | .fin _ m e =>
    let y := rint m e 0 rm r
    if intMax w s < y ∨ y < intMin w s then
      (intCode w (if y < intMin w s then intMin w s else intMax w s), flagIS ||| (if fl then flagNV else 0))
    else (intCode w y, if finLt m e y 0 || finLt y 0 m e then flagNX else 0)

/-- `round` of a nonzero finite value to a floating format (R134). -/
def roundFinite (f : Fmt) (m e : Int) (rm : BitVec 4) (r : Nat) : Nat × Flags :=
  let neg := decide (m < 0)
  let k := max (floorLog2 m e) (fmtEmin f) - fmtT f
  let y := rint m e k rm r
  let ovf := match maxFinite f with
    | .fin _ mm me => finLt mm me y.natAbs k
    | _ => false
  if ovf then
    (if rm.getLsbD 3 then satCode f neg
     else if fmtHasInf f then fmtSignCode f neg (fmtInfCode f)
     else fmtQnan f, flagOF ||| flagNX)
  else
    let inexact := finLt m e y k || finLt y k m e
    let tiny := decide (floorLog2 m e < fmtEmin f)
    let fl : Flags := (if inexact then flagNX else 0) ||| (if inexact && tiny then flagUF else 0)
    if y = 0 then (zeroCode f neg, fl)
    else (fmtSignCode f neg (codeOfExact f y.natAbs k), fl)

/-- `round` (R134), its draw supplied as `r`. `fl`: x was decoded from a floating format. -/
def roundNum (f : Fmt) (x : Num) (rm : BitVec 4) (r : Nat) (fl : Bool := true) : Nat × Flags :=
  match f with
  | .int w s => roundInt w s x rm r fl
  | .e8 => (0xFF, 0)
  | .ieee .. | .b8 .. =>
    match x with
    | .nan => (fmtQnan f, 0)
    | .inf n =>
      match f, n with
      | .b8 false _ _, true => if rm.getLsbD 3 then (0, 0) else (fmtQnan f, flagNV)
      | _, _ =>
        if fmtHasInf f then (fmtSignCode f n (fmtInfCode f), 0)
        else if rm.getLsbD 3 then (satCode f n, 0)
        else (fmtQnan f, flagNV)
    | .fin neg m e =>
      if m = 0 then (zeroCode f neg, 0)
      else
        match f, decide (m < 0) with
        | .b8 false _ _, true => if rm.getLsbD 3 then (0, 0) else (fmtQnan f, flagNV)
        | _, _ => roundFinite f m e rm r

/-- One draw of a rounding generator (R136): the next state, whose bits [31:16] are the draw. -/
def xorshift (s : BitVec 32) : BitVec 32 :=
  let a := s ^^^ (s <<< 13)
  let b := a ^^^ (a >>> 17)
  b ^^^ (b <<< 5)

/-- The value a state returns as its draw. -/
def drawOf (s : BitVec 32) : Nat := s.toNat / 65536

/-- The generator state loaded from a seed (R136). -/
def seedGen (seed : BitVec 32) (unit : Nat) (idx : Nat) : BitVec 32 :=
  let s := seed ^^^ (BitVec.ofNat 32 unit <<< 28) ^^^ BitVec.ofNat 32 idx
  if s = 0 then 0x9E3779B9 else s

/-- FP32 rounding by RNE without saturation. -/
def roundF32 (x : Num) : Nat × Flags := roundNum f32 x 0 0

/-- A conversion (R135), `sr` the draw. -/
def convert (src dst : Fmt) (c : Nat) (rm : BitVec 4) (r : Nat) : Nat × Flags :=
  if src = dst then (c % 2 ^ fmtWidth src, 0)
  else
    match src, dst with
    | .int _ _, .int w _ =>
      if rm.getLsbD 3 then roundNum dst (decodeNum src c) rm r false
      else
        match decodeNum src c with
        | .fin _ m _ => (intCode w m, 0)
        | _ => (0, 0)
    | .int _ _, _ => roundNum dst (decodeNum src c) rm r false
    | _, _ => roundNum dst (decodeNum src c) rm r (fmtIsFloat src)

end Sys2Proof.Machine
end

