-- ==== Sys2Proof/Machine/CoreState.lean ====
section
/-! DEFINITION. The state of one core: registers, ports, control, scratch, streams, matrix unit, faults and records. -/

namespace Sys2Proof.Machine

/-- A value on a lane, before the destination adjusts it (R66, R95). -/
inductive Val where
  | scalar (w : Word)
  | vector (v : Vec)
  | mask (k : Mask)
  | short (imm : BitVec 9)
  | limm24 (p : BitVec 24)
  | limm48 (p : BitVec 48)
  deriving DecidableEq, Repr

/-- A move in flight (R52, R53): its instruction, value, guard (R57), issue cycle, bundle index, slot and arrival cycle. -/
structure Flight where
  instr : Instr
  val : Val
  g : Bool
  issue : Nat
  bundle : Nat
  slot : Nat
  arrive : Nat
  deriving DecidableEq, Repr

/-- Who last delivered a value to an operand port, for the charge of R460. -/
structure Delivery where
  cycle : Nat
  issue : Nat
  bundle : Nat
  slot : Nat
  deriving DecidableEq, Repr

/-- A fault raised against a bundle: the cycle `c` in which that bundle issues (R286) and what the record holds (R289). -/
structure Raise where
  code : Nat
  charge : Nat
  bundle : Nat
  slot : Nat
  a : Word
  b : Word
  c : Word
  deriving DecidableEq, Repr

/-- The fault-record CSRs FLTCAUSE to FLTCYC (R289). -/
structure FaultRecord where
  cause : BitVec 8 := 0
  bundle : BitVec 32 := 0
  slot : BitVec 3 := 0
  a : Word := 0
  b : Word := 0
  c : Word := 0
  also : BitVec 36 := 0
  cyc : Word := 0
  deriving DecidableEq, Repr

/-- A barrier wait: its handle, the generation waited for, and the gang cycle of the resume once it is fixed (R348). -/
structure BarWait where
  handle : Nat
  gen : Nat
  resume : Option Nat
  deriving DecidableEq, Repr

/-- Why a core that has not executed `EXIT` issues no bundle (R42). The waits are independent, and a bundle issues when none
holds it (R160). -/
structure Waits where
  /-- T of the `WAITT` that defers the next bundle (R31) -/
  waitt : Option Nat := none
  /-- arrived at a RESYNC, with R_res once it is fixed (R36) -/
  resync : Option (Option Nat) := none
  barriers : List BarWait := []
  /-- the loop level whose drain is parked (R162) -/
  park : Option (Fin 4) := none
  deriving DecidableEq, Repr

/-- One level of the loop engine (R156 to R162). -/
structure Loop where
  active : Bool := false
  first : Nat := 0
  last : Nat := 0
  depth : Nat := 0
  iter : Nat := 0
  total : Nat := 0
  pipe : Bool := false
  stages : Nat := 1
  /-- source iterations N for the stage predicates, N + S − 1 = total for LOOPP -/
  trips : Nat := 0
  drain : Bool := false
  /-- a DRAIN notice has reached the level (R162) -/
  notice : Bool := false
  /-- N of a pipelined level while a drain treats it as j0 -/
  fullTrips : Nat := 0
  parked : Bool := false
  /-- iteration the count restarts from after a drain (R162) -/
  origin : Nat := 0
  /-- order of starting among the levels -/
  order : Nat := 0
  /-- the bundle that carried the trigger: its issue cycle, index and slot, for collisions of the stage predicates (R65) -/
  issue : Nat := 0
  bundle : Nat := 0
  slot : Nat := 0
  /-- bundle E + 1 and the one after it as prefetched when the level started, and whether one cannot be fetched (R151, R372) -/
  exit0 : BitVec 192 := 0
  exit1 : BitVec 192 := 0
  exitBad : Bool := false
  deriving DecidableEq, Repr

/-- A target-buffer entry (R148). -/
structure Target where
  addr : BitVec 32 := 0
  /-- prepare cycle; −2^63 at admission -/
  prep : Int := -(2 ^ 63)
  buf0 : BitVec 192 := 0
  buf1 : BitVec 192 := 0
  /-- either bundle cannot be fetched, as noted at its read (R151) -/
  bad : Bool := false
  deriving DecidableEq, Repr

/-- A link-stack entry: the return address, the cycle it became top, and the two bundles prefetched for it since then, with
whether one cannot be fetched (R151, R154). -/
structure Link where
  ret : Nat
  since : Nat
  buf0 : BitVec 192 := 0
  buf1 : BitVec 192 := 0
  bad : Bool := false
  deriving DecidableEq, Repr

/-- The state of a stream register (R83, R88). -/
inductive StreamMode where
  | never | opened | closed
  deriving DecidableEq, Repr

/-- One stream register (R83 to R88). -/
structure Stream where
  mode : StreamMode := .never
  base : Nat := 0
  shape0 : Word := 0
  shape1 : Word := 0
  shape2 : Word := 0
  fmt : Word := 0
  sstr : Word := 0
  exp : BitVec 16 := 0
  pos : Nat := 0
  /-- the next read or push is a tile entry; cleared by it -/
  entry : Bool := true
  /-- a tile has been entered since SCFG, SSEEK or STAG (R77) -/
  entered : Bool := false
  /-- tile of the last item: the open tile of a push stream -/
  tile : Option Nat := none
  /-- counts the triggers that changed the register, so that an undone read restores only its own state -/
  gen : Nat := 0
  /-- counts those of them that set the position, SCFG and SSEEK -/
  sets : Nat := 0
  /-- counts the matrix unit's reads, which no suppression undoes (R175) -/
  unitReads : Nat := 0
  deriving DecidableEq, Repr

/-- An item read ahead on the known path (R86, R147). -/
structure Prefetch where
  q : Nat
  issueAt : Nat
  bundle : Nat
  slot : Nat
  /-- the guard of the pop or peek as decided at c − 4 -/
  guard : Bool
  pops : Bool
  val : Val
  /-- the stream before the read, for undoing it (R147, R286) -/
  before : Stream
  faults : List Raise
  deriving DecidableEq, Repr

/-- A reserved scratch access (R72): cycle, group, mask of sub-banks, and the bundle it belongs to. -/
structure Access where
  cycle : Nat
  group : Nat
  banks : BitVec 16
  /-- 0 read, 1 write, 2 the hold of a read-modify-write's sub-bank (R72) -/
  kind : Nat
  issue : Nat
  bundle : Nat
  slot : Nat
  addr : Nat
  /-- a matrix-unit access (R175) -/
  mx : Bool
  /-- agent class that makes it: 5 for an HCOPY unit (R183) -/
  cls : Nat := 1
  /-- the target write of an XCOPY to the core itself, which uses its ejection port (R439) -/
  eject : Bool := false
  deriving DecidableEq, Repr

/-- An access that a foreign write or a fabric read makes in its cycle (R72, R74, R191): kind as in `Access`, the source key of
R186, its agent and source core, and whether an XCOPY made it. -/
structure ForeignAccess where
  cycle : Nat
  group : Nat
  banks : BitVec 16
  kind : Nat
  addr : Nat
  src : Nat
  agent : BitVec 16
  core : Nat
  xcopy : Bool
  deriving DecidableEq, Repr

/-- A stamp that is due (R76). -/
structure Stamp where
  cycle : Nat
  tile : Nat
  issue : Nat
  bundle : Nat
  slot : Nat
  deriving DecidableEq, Repr

/-- Shadow state of a 256-byte scratch sector or a 128-byte DRAM sector (R197). -/
structure Shadow where
  writer : BitVec 16 := 0
  iv : BitVec 8 := 0
  sc : BitVec 2 := 0
  deriving DecidableEq, Repr

/-- One record of the record queue (R293). -/
structure Record where
  kind : Nat
  index : Nat
  writer : BitVec 16
  addr : Nat
  gcyc : Nat
  src : Nat
  accessor : BitVec 16
  rw : Nat
  iv : BitVec 8
  sc : BitVec 2
  deriving DecidableEq, Repr

/-- A watchpoint (R291). -/
structure Watch where
  base : BitVec 22 := 0
  ctl : BitVec 15 := 0
  deriving DecidableEq, Repr

/-- An evaluation table of MX, VA or VB (R143, R164, R430): FP32 codes. -/
structure Lut where
  lo : BitVec 32 := 0
  hi : BitVec 32 := 0
  vals : List (BitVec 32) := []
  deriving DecidableEq, Repr

/-- A micro-loop counter (R172). -/
structure MicroLoop where
  active : Bool := false
  body : Nat := 0
  last : Nat := 0
  left : Nat := 0
  /-- the counter started later is the inner one -/
  order : Nat := 0
  deriving DecidableEq, Repr

/-- A B block with its scales, routing and class (R177). -/
structure BBlock where
  cls : Nat
  fmt : Nat
  /-- the stream it came from -/
  src : Nat
  ready : Nat
  /-- address of the second half, read at ready − 1 -/
  second : Nat
  weights : List Nat
  scales : List Nat
  routing : List Nat
  deriving DecidableEq, Repr

/-- A step of the array (R178): its start, tile, class, formats and the A stream it reads. -/
structure MxStep where
  start : Nat
  tile : Nat
  cls : Nat
  fmtA : Nat
  aStream : Nat
  b : BBlock
  /-- the row groups whose A items have been read: (group, elements, scales) -/
  items : List (Nat × List Nat × List Nat)
  deriving DecidableEq, Repr

/-- An epilogue in progress (R180). -/
structure Epilogue where
  start : Nat
  tile : Nat
  out : Nat
  fields : MepiFields
  biasStream : Nat
  bias : List Nat
  deriving DecidableEq, Repr

/-- The matrix unit (R164 to R181). -/
structure Mx where
  store : Table (BitVec 64) := []
  /-- routine-table entries as MUWR writes them: START [11:0], LENGTH [28:16] -/
  routines : Table (BitVec 32) := []
  regs : Table Word := []
  busy : Bool := false
  pc : Nat := 0
  start : Nat := 0
  length : Nat := 0
  routine : Nat := 0
  /-- remaining cycles of a MIDLE -/
  idle : Nat := 0
  lc0 : MicroLoop := {}
  lc1 : MicroLoop := {}
  /-- A binding: stream and class -/
  bindA : Option (Nat × Nat) := none
  staged : Option BBlock := none
  active : Option BBlock := none
  /-- element (i, j) of tile t at key t * 8192 + i * 64 + j -/
  acc : Table (BitVec 32) := []
  rowPtr : Table Nat := []
  steps : List MxStep := []
  lastStep : Option (Nat × Nat) := none
  lastEpi : Option Nat := none
  epis : List Epilogue := []
  lut : Lut := {}
  /-- tile zeroings due: (cycle, tile, by MZERO) -/
  zeros : List (Nat × Nat × Bool) := []
  deriving DecidableEq, Repr

/-- The write of one byte string into scratch that waits for its cycle. -/
structure ScratchWrite where
  addr : Nat
  data : List Byte
  /-- watchpoint class bit (R292) -/
  wclass : Nat
  /-- agent id of the writer (R183) and, for classes 1 to 3, its source core -/
  agent : BitVec 16
  src : Nat
  /-- SC field of the shadow (R197) -/
  sc : BitVec 2
  deriving DecidableEq, Repr

/-- A command of C0, C1 or FB whose units are still to perform. -/
structure EngineCmd where
  id : Nat
  kind : Nat
  start : Nat
  sad : Nat
  lad : Nat
  len : Nat
  tag : BitVec 16
  /-- target core of an XCOPY, host window of an HCOPY -/
  dst : Nat
  issue : Nat
  bundle : Nat
  slot : Nat
  /-- no data moves, stamps only (R35) -/
  suppressed : Bool
  /-- extra latency of both columns (R188) -/
  skew : Nat
  /-- unit data read and not yet written -/
  bufs : List (Nat × List Byte × Bool)
  /-- units whose write comes back through the replay buffer (R265, R295) -/
  replayed : List Nat
  deriving DecidableEq, Repr

/-- An armed receive (R236). -/
structure Recv where
  chip : Nat
  core : Nat
  sad : Nat
  len : Nat
  tag : BitVec 16
  /-- expected arrival; `none` for an open receive -/
  expected : Option Nat
  issue : Nat
  bundle : Nat
  slot : Nat
  ticket : Nat
  deriving DecidableEq, Repr

/-- A DRAM command accepted on a channel group (R209 to R214). -/
inductive DramKind where
  | act | pre | read | write | ref | rfm
  deriving DecidableEq, Repr

/-- A command with its gang cycle, the channels it takes, bank and row (R210). -/
structure DramCmd where
  cycle : Nat
  kind : DramKind
  chans : BitVec 4
  bank : Nat
  row : Nat
  deriving DecidableEq, Repr

/-- A predicate write (R64, R155): present cycle, predicate, 0 for a write of 0 only, 1 for a write of 1 only, 2 else. -/
structure PredDue where
  cycle : Nat
  pred : Nat
  kind : Nat
  issue : Nat
  bundle : Nat
  slot : Nat
  deriving DecidableEq, Repr

/-- A core (R49 to R90). A value a register or port holds at admission is its table's default. -/
structure Core where
  /-- gang of the context the core serves; 2^24 = none -/
  gang : Nat := 2 ^ 24
  /-- context core index (R56) -/
  idx : Nat := 0
  /-- a bundle issues each cycle: started and not exited (R42) -/
  running : Bool := false
  /-- the first gang cycle in which the core's clock is frozen by a fault (R286) or a debugging stop (R298) -/
  frozenAt : Option Nat := none
  stopped : Bool := false
  pc : Nat := 0
  /-- gang cycle before which no bundle issues -/
  nextIssue : Nat := 0
  waits : Waits := {}
  /-- levels whose iteration start takes effect when the coming bundle issues, later-started last (R157) -/
  starts : List Nat := []
  /-- arrival cycle of the last EXIT, and the SPAWN that started the core: cycle, issue, spawner (R40) -/
  exitAt : Option Nat := none
  spawned : Option (Nat × Nat × Nat × Nat × Nat) := none
  /-- gang cycle of the last bundle issued, its index and its 24 bytes as fetched -/
  curCycle : Option Nat := none
  curBundle : Nat := 0
  latch : BitVec 192 := 0
  /-- a bundle buffered by the target buffer that the next issue takes -/
  buffered : List (Nat × BitVec 192) := []
  s : Table Word := []
  v : Table Vec := []
  k : Table Mask := []
  /-- p1 to p7; p0 is not stored -/
  p : BitVec 8 := 0
  /-- scalar operand ports by destination id; ty is FP32 and `at` is no start cycle at admission (R61) -/
  ports : Table Word := [(0x104, 1), (0x184, 1), (0x303, 0xFFFFFFFFFFFFFFFF), (0x343, 0xFFFFFFFFFFFFFFFF),
    (0x383, 0xFFFFFFFFFFFFFFFF)]
  /-- vector operand ports by destination id (va and vb a, b, c, sc; bgX data, cmp) -/
  vports : Table Vec := []
  /-- va.k and vb.k by destination id; all ones by default -/
  kports : Table Mask := []
  /-- result ports sa, mx, sq, c0, c1, fb, sy, ct by source id -/
  res : Table Word := []
  /-- result ports va, vb, bga to bgd by source id -/
  vres : Table Vec := []
  /-- what the last completion of a bank group's result port replaced (R342) -/
  vprev : Table Vec := []
  deliv : Table Delivery := []
  targets : Table Target := []
  links : List Link := []
  loops : Table Loop := []
  loopSeq : Nat := 0
  flags : Flags := 0
  /-- predicate writes and the cycle they are present from, for the collisions of R64 -/
  predDue : List PredDue := []
  seed : BitVec 32 := 0
  genVA : BitVec 32 := 0x9E3779B9
  genVB : BitVec 32 := 0x9E3779B9
  genSQ : BitVec 32 := 0x9E3779B9
  genMX : BitVec 32 := 0x9E3779B9
  lutVA : Lut := {}
  lutVB : Lut := {}
  poison : Bool := false
  /-- POISON_TO_RESYNC suppression (R35) -/
  suppress : Bool := false
  slipInfo : Word := 0
  wdogBase : Nat := 0
  /-- WDOGCOUNT as it was when the core executed EXIT -/
  wdogHeld : Nat := 0
  streams : Table Stream := []
  fetched : List Prefetch := []
  accesses : List Access := []
  /-- foreign accesses of a cycle (R72, R186) -/
  foreign : List ForeignAccess := []
  /-- foreign stamps of a cycle: cycle, tile, the other party's FLTINFO_B (R76) -/
  fstamps : List (Nat × Nat × Word) := []
  /-- accesses that do not perform (R74, R175): cycle, group, sub-banks, of the matrix unit -/
  voided : List (Nat × Nat × BitVec 16 × Bool) := []
  stamps : List Stamp := []
  /-- the known path computed last: (cycle, bundle) -/
  path : List (Nat × Nat) := []
  scratch : Table Byte := []
  tags : Table (BitVec 16) := []
  shadow : Table Shadow := []
  /-- SRAM sectors that ECC has found uncorrectable -/
  badTiles : List Nat := []
  /-- claims: region, first cycle in effect (R79, R400) -/
  claims : List (Nat × Nat) := []
  /-- owning context of each region, 0 = none (R79) -/
  owners : Table Nat := []
  /-- bundles by index; an unlisted one is the empty bundle (R89) -/
  istore : Table (BitVec 192) := []
  /-- bundles fetched ahead: issue cycle, index, bits (R89) -/
  ahead : List (Nat × Nat × BitVec 192) := []
  /-- those of them whose fetch met an uncorrectable SECDED error: issue cycle, index (R151) -/
  aheadBad : List (Nat × Nat) := []
  isdirty : Bool := false
  /-- instruction-store bundles with an uncorrectable SECDED error (R151) -/
  badBundles : List Nat := []
  mx : Mx := {}
  cmds : List EngineCmd := []
  cmdSeq : Nat := 0
  recvs : List Recv := []
  /-- mailbox snapshots, the buffer's first: cycle of the copy, context group, 64 headers of 64 bytes (R380); a replaced one
  stays for the operations issued before the copy (R379, R381) -/
  snaps : List (Nat × Nat × Table Byte) := []
  /-- the core's channel group: OWED, NEXTBANK (R215) and the commands accepted (R213) -/
  owed : Int := 0
  nextBank : Nat := 0
  dramCmds : List DramCmd := []
  interval : BitVec 8 := 0
  racectl : BitVec 2 := 0
  racecnt : BitVec 32 := 0
  polver : BitVec 16 := 0
  nopreempt : Bool := false
  watch0 : Watch := {}
  watch1 : Watch := {}
  watch2 : Watch := {}
  watch3 : Watch := {}
  records : List Record := []
  lost : BitVec 31 := 0
  fault : FaultRecord := {}
  raised : List Raise := []
  /-- faults of accesses in the past that a bundle yet to issue takes when it does: a pop's, of its read four cycles before (R74)
  -/
  deferred : List Raise := []
  /-- the faults found by looking ahead against the bundle about to issue (R460) -/
  doomed : List Raise := []
  dbg : BitVec 2 := 0
  /-- row pointers, streams and control as they stood before the last bundle, for undoing it (R286) -/
  undoPtr : Table Nat := []
  undoPc : Nat := 0
  undoLoops : Table Loop := []
  undoWaits : Waits := {}
  undoNext : Nat := 0
  deriving DecidableEq, Repr

end Sys2Proof.Machine
end

