-- ==== Sys2Proof/Machine/HubState.lean ====
section
/-! DEFINITION. The state of gangs and of the hub: holds, votes, barriers, links, DRAM, mailboxes, harts, partitions,
housekeeping. -/

namespace Sys2Proof.Machine

/-- The id that no gang has: ids are 24 bits (R246). [log 81 DESIGN CHOICE] -/
def noGang : Nat := 2 ^ 24

/-- A hold of a gang (R22 to R25). -/
structure Hold where
  number : Nat
  th : Nat
  cause : HoldCause
  origin : Nat
  /-- core, pair group or account the hold is charged to -/
  core : Nat
  /-- S of its RELEASE, once sent -/
  released : Option Nat
  deriving DecidableEq, Repr

/-- Whether a gang's time runs (R16, R23). -/
inductive RunMode where
  | idle | running | held | out | torn
  deriving DecidableEq, Repr

/-- Where a member stands in a vote (R258, R259). -/
inductive VoteStage where
  | run | armed | draining | voted | swapping | out | entering | entered | starting
  deriving DecidableEq, Repr

/-- A member's vote state, with what the leader has received (R256 to R259). -/
structure Vote where
  stage : VoteStage := .run
  switchNo : Nat := 0
  tHalt : Nat := 0
  deadline : Nat := 0
  boundary : Nat := 0
  force : Bool := false
  drain : Bool := false
  /-- pod cycle of the switch freeze (R258) -/
  frozen : Nat := 0
  /-- pod cycle at which the set is free and the context ready (R259) -/
  ready : Nat := 0
  swap : Nat := 0
  /-- NEED of the member's vote (R258) -/
  need : Nat := 0
  /-- the in-vote enters by backfill, its row (R255) -/
  backfill : Bool := false
  row : Nat := 0
  received : List VoteFrame := []
  deriving DecidableEq, Repr

/-- An entry of the kernel's loop table (R38, R123). -/
structure LoopEntry where
  kind : Nat
  engine : Nat
  first : Nat
  last : Nat
  drain : Bool
  count : Nat
  members : Nat
  baseReg : Nat
  countReg : Nat
  fixed : Bool
  /-- context core it is of, 0xFFFF for all (R121) -/
  core : Nat := 0xFFFF
  deriving DecidableEq, Repr

/-- A run request and the run it started (R252). -/
structure Request where
  image : Nat := 0
  entry : Nat := 0
  prio : Nat := 0
  backfill : Bool := false
  fence : Nat := 0
  fnum : Nat := 0
  pre0 : Nat × Nat := (0, 0)
  pre1 : Nat × Nat := (0, 0)
  deriving DecidableEq, Repr

/-- What acts on a barrier object (R346): 0 BARINIT, 1 BARRIVE, 2 EXIT, 3 BARPOLL; 5 the completion and 6 the break that the tree
tells (R245); `a` is EXPECTED or WAIT, `b` the mode bits. -/
structure BarEvent where
  cycle : Nat
  chip : Nat
  core : Nat
  kind : Nat
  a : Nat
  b : Nat
  issue : Nat
  bundle : Nat
  slot : Nat
  deriving DecidableEq, Repr

/-- The fields of a barrier object (R345); sets hold chip * 1024 + context core index. -/
structure BarState where
  init : Bool := false
  mode : Bool := false
  scope : Bool := false
  expected : Nat := 0
  arrived : Nat := 0
  gen : Nat := 0
  broken : Bool := false
  arrivals : List Nat := []
  members : List Nat := []
  deriving DecidableEq, Repr

/-- A barrier object: its states, latest first, each with the cycle from which it stands; the events still to be applied and those
of the last cycles, which one that another member tells late may come before; and the completed generations whose completion is
not yet effective: generation, L, its parties, and whether they are all on this package (R345, R346). -/
structure Barrier where
  states : List (Nat × BarState) := []
  events : List BarEvent := []
  done : List (Nat × Nat × List Nat × Bool) := []
  /-- arrivals of the children in the tree: chip, count, latest (R245) -/
  children : List (Nat × Nat × Nat) := []
  /-- this member's arrivals of the generation have been forwarded (R245) -/
  forwarded : Bool := false
  /-- the cycles in which generations completed, latest first (R346) -/
  ended : List Nat := []
  deriving DecidableEq, Repr

/-- A gang and its run (R16 to R48, R246 to R268). -/
structure Gang where
  mode : RunMode := .idle
  gcyc : Nat := 0
  /-- HOLDLEAD.H (R19, R21) -/
  h : Nat := 64
  framelen : Nat := 4096
  /-- SLIPMODE.MODE: false TEARDOWN, true POISON_TO_RESYNC -/
  poisonMode : Bool := false
  wdog : Nat := 0
  seed : BitVec 32 := 0
  holds : List Hold := []
  holdSeq : Nat := 0
  /-- gang cycle of the current freeze and its pod cycle F (R23) -/
  frozenAt : Nat := 0
  frozenPod : Nat := 0
  /-- P_res of the current freeze once final (R25) -/
  resume : Option Nat := none
  /-- RESYNC: cores that have arrived and the latest arrival (R36) -/
  arrived : List Nat := []
  latest : Nat := 0
  /-- RESYNC arrivals of the children in the tree: chip, count, latest (R245) -/
  children : List (Nat × Nat × Nat) := []
  forwarded : Bool := false
  /-- children in whose part of the tree no core runs any more, with the latest exit there, and whether this member has told
  its parent so (R36, R37) -/
  idleKids : List (Nat × Nat) := []
  toldIdle : Bool := false
  /-- children in whose part of the tree every core's last operation has performed too, and whether this member has told its
  parent so (R253, R361) -/
  overKids : List Nat := []
  toldOver : Bool := false
  /-- running cores of other members, as chip * 1024 + context core index, as far as this member knows (R349) -/
  farRunning : List Nat := []
  /-- while the gang is out, its barrier objects by handle (R345) -/
  barriers : Table Barrier := []
  /-- the leader has told this member that the run is complete (R253) -/
  complete : Bool := false
  interval : BitVec 8 := 0
  /-- die and package counters of the gang's context here (R198) -/
  dieIv : Table (BitVec 8) := []
  pkgIv : BitVec 8 := 0
  /-- context id of the gang on this package, its core set (R247), its partition, and its members' chip ids (R246) -/
  ctx : Nat := 0
  coreset : Nat := 0
  vdid : Nat := 0
  members : List Nat := []
  memberCount : Nat := 1
  /-- context linear address of the run list (R251) -/
  runlist : Nat := 0
  /-- a run is admitted, with its request, index and cores (R254) -/
  hasRun : Bool := false
  req : Request := {}
  reqIndex : Nat := 0
  cores : Nat := 0
  loops : List LoopEntry := []
  /-- D of R257 -/
  drainWin : Nat := 0
  vote : Vote := {}
  /-- row in which the gang last started, and whether it holds its cells by backfill (R255) -/
  row : Nat := 0
  byBackfill : Bool := false
  /-- SENT, RECV, CAPT by link (R260) -/
  sent : Table Nat := []
  recv : Table Nat := []
  capt : Table Nat := []
  /-- flight save area: records, bytes used, bytes bound, T_HALT (R261) -/
  fsa : List Frame := []
  fsaUsed : Nat := 4096
  fsaSize : Nat := 0
  fsaHalt : Nat := 0
  /-- SWCOUNT (R250), and consecutive aborts for NONPREEMPTIBLE_WINDOW and for own verdicts (R264) -/
  swIn : Nat := 0
  swAborted : Nat := 0
  npAborts : Nat := 0
  ownAborts : Nat := 0
  /-- consecutive PROGRAM teardowns of the request (R268) -/
  tears : Nat := 0
  inexact : Bool := false
  /-- the member has faulted (R264) -/
  faulted : Bool := false
  overflow : Bool := false
  /-- the last fault: core, request index, record (R334) -/
  lastFault : Option (Nat × Nat × FaultRecord) := none
  /-- pod cycle of the last teardown: the gang starts at a later boundary (R254) -/
  tornAt : Option Nat := none
  /-- timed rows that the controllers closed at the freeze and have yet to reopen: home core, channels, bank, row (R212) -/
  rows : List (Nat × BitVec 4 × Nat × Nat) := []
  /-- the boundary at which the gang last entered or went on as planned, its row then, and whether by backfill (R233, R255) -/
  goesOn : Nat × Nat × Bool := (0, 0, false)
  /-- pod cycle at which the gang came back onto its core sets within the present freeze (R30) -/
  swapIn : Option Nat := none
  /-- while the gang is out, the commands accepted on the channel groups of its core set's other cores (R213) -/
  groupCmds : List (Nat × List DramCmd) := []
  /-- what the pod's matrix gives the gang on other members: chip, row, whether the cell names it, whether it is offered to it
  and not given to another (R249, R255) -/
  farCells : List (Nat × Nat × Bool × Bool) := []
  deriving DecidableEq, Repr

/-- A control frame waiting at a Leek lane, or on its way (R243): its record, gang, destination chip and origin cycle. -/
structure LeekItem where
  msg : Instr
  gang : Nat
  dst : Nat
  origin : Nat
  deriving DecidableEq, Repr

/-- A response of an FGET or FATOM that is awaited (R241): its ticket, the issuing core and its request's departure, and the
chip, core and departure of the response itself. -/
structure Awaited where
  ticket : Nat
  core : Nat
  departed : Nat
  chip : Nat
  peer : Nat
  answerAt : Nat
  /-- cycle from which fb.r holds an FATOM's old word (R235) -/
  result : Option Nat := none
  deriving DecidableEq, Repr

/-- A frame's use of a link, in gang cycles of its gang (R232). -/
structure Occupied where
  gang : Nat
  first : Nat
  last : Nat
  /-- acceptance cycle, the issue cycle of its bundle, and its (chip, core) key -/
  accept : Nat
  issue : Nat
  key : Nat
  /-- position of the link on the frame's route, for its DROP (R233) -/
  hop : Nat := 0
  deriving DecidableEq, Repr

/-- One of the 16 links (R225 to R229, R243). -/
structure LinkState where
  lat : Nat := 0
  llat : Nat := 0
  up : Bool := false
  nbr : Nat := 0
  /-- declared lasting: held down (R335) -/
  retired : Bool := false
  used : List Occupied := []
  queue : List LeekItem := []
  freeAt : Nat := 0
  /-- gang id of the last urgent turn -/
  turn : Nat := 0
  /-- pod cycles of frames beyond the correction limit (R228) -/
  errs : List Nat := []
  deriving DecidableEq, Repr

/-- The fabric of this package (R224 to R245). -/
structure Fabric where
  chip : Nat := 0
  size0 : Nat := 1
  size1 : Nat := 1
  size2 : Nat := 1
  size3 : Nat := 1
  links : Table LinkState := []
  /-- this chip is the pod's time root, and PCYC has been set from an ALIGN frame (R227) -/
  root : Bool := false
  aligned : Bool := false
  /-- λ and μ of the pod's links by 16 * chip + link, as the pod manager trained them, and those that are down (R227, R228) -/
  trained : Table (Nat × Nat) := []
  downLinks : Table Bool := []
  dead : Table Bool := []
  /-- link share map: gang id + 1 by 16 * row + link (R233) -/
  shares : Table Nat := []
  /-- those of the pod's other chips, as told: gang id + 1 by 16 * (64 * chip + row) + link (R257) -/
  farShares : Table Nat := []
  /-- frames that link ports keep through a freeze (R242) -/
  kept : List Frame := []
  /-- frames that left on a link: link, frame -/
  wire : List (Nat × Frame) := []
  /-- control frames that left on a lane: link, pod cycle, records -/
  leek : List (Nat × Nat × List LeekItem) := []
  /-- DROPs that reached this package and that no missing frame has used: gang, sender chip, core, departure (R241) -/
  drops : List (Nat × Nat × Nat × Nat) := []
  /-- control frames discarded (R243, R244) -/
  discarded : Nat := 0
  tickets : Nat := 0
  awaited : List Awaited := []
  deriving DecidableEq, Repr

/-- A tracker entry (R217). -/
structure Tracker where
  row : Nat
  count : Nat
  vdid : Nat
  deriving DecidableEq, Repr

/-- The stacked DRAM (R202 to R223), bytes by package core index * 2^29 + home offset. -/
structure Dram where
  bytes : Table Byte := []
  poison : Table Bool := []
  bad : Table Bool := []
  /-- corrected sectors to write back (R220) -/
  corrected : List Nat := []
  shadow : Table Shadow := []
  /-- CHSLOTMAP by package core index (R204) -/
  slotmaps : Table (BitVec 32) := []
  /-- tracker entries by (4 * core + channel) * 16 + bank -/
  trackers : Table (List Tracker) := []
  /-- untimed accesses at the hub not yet received, and received writes not yet complete (R193, R206) -/
  waiting : List Untimed := []
  pending : List Untimed := []
  /-- results of completed untimed reads: the access, its bytes, whether it was poisoned or refused -/
  answers : List (Untimed × List Byte × Nat) := []
  /-- sectors read for patrol: sector, pod cycle (R222) -/
  patrolled : Table Nat := []
  /-- pod cycle at which a mitigation of the bank is over, by 16 * core + bank (R218) -/
  busyBanks : Table Nat := []
  /-- the slot in which a group last served untimed accesses, and the sectors it served there, by package core index (R206) -/
  served : Table (Nat × List Nat) := []
  /-- the tracker entry that crossed and awaits mitigation: row and VDID, by (4 * core + channel) * 16 + bank (R218, R219) -/
  crossing : List (Nat × Nat × Nat) := []
  /-- pieces done of the writes of whole sectors, by sector * 2^16 + agent (R220) -/
  pieces : Table Nat := []
  /-- key and tweak that a sector is sealed under, 0 for plain (R221) -/
  sealed : Table Nat := []
  deriving DecidableEq, Repr

/-- The roles of a hart (R269). -/
inductive HartRole where
  | idle | env | checker
  deriving DecidableEq, Repr

/-- What a hart's instruction does outside its own integer and floating-point arithmetic, or leaves in its registers (R269, R270,
R276, R277, R284). -/
inductive HartOp where
  /-- a result written into an integer register, a floating-point register, or fcsr -/
  | reg (rd : Fin 32) (v : Word)
  | freg (rd : Fin 32) (v : Word)
  | fcsr (v : BitVec 8)
  | fetch (pc : Word)
  | load (rd : Fin 32) (addr n : Nat) (signed : Bool)
  | store (addr : Nat) (data : List Byte)
  /-- `fence w,w`, and a publish that one holds up -/
  | fence
  | publish (done : Bool)
  /-- a CSR access, from U-mode or from the supervisor's modes -/
  | csrRead (rd : Fin 32) (num : Nat) (user : Bool)
  | csrWrite (num : Nat) (v : Word) (user : Bool)
  deriving DecidableEq, Repr

/-- A Gembisen hart's Rolna CSRs, its registers, and whether it runs (R269, R284). -/
structure Hart where
  role : HartRole := .idle
  /-- HROLE holds 3, which acts as IDLE (R284) -/
  roleThree : Bool := false
  epid : BitVec 24 := 0
  pair : Nat := 0
  base : Word := 0
  limit : Word := 0
  stepBudget : Word := 0
  epBudget : Word := 0
  stepUsed : Word := 0
  epUsed : Word := 0
  chkBase : Word := 0
  chkLimit : Word := 0
  chkFirst : Nat := 0
  chkCount : Nat := 0
  /-- ENTRY of HARTCFG (R321) -/
  entry : Nat := 0
  /-- program counter, integer and floating-point registers, fcsr (R269) -/
  pc : Word := 0
  x : Table Word := []
  f : Table Word := []
  fcsr : BitVec 8 := 0
  /-- window stores made so far, and how many of them the last `fence w,w` orders (R277) -/
  sent : Nat := 0
  fenced : Nat := 0
  running : Bool := false
  /-- pod cycle since which STEPUSED counts, and EPUSED -/
  stepFrom : Option Nat := none
  epFrom : Option Nat := none
  ctx : Nat := 0
  /-- bind-table entries of the window: first and count -/
  winFirst : Nat := 0
  winCount : Nat := 0
  deriving DecidableEq, Repr

/-- The environment cluster (R269 to R284); mailbox bytes by pair * 0x4000 + offset (R273). -/
structure Cluster where
  bytes : Table Byte := []
  /-- the turn is ENV (R275) -/
  turn : Table Bool := []
  grpctl : Table Word := []
  grpactive : Table Word := []
  epnext : Table Word := []
  /-- writes that wait for the owning context's next switch-in: register, group
  or hart, values (R278) -/
  waiting : List (Nat × Nat × List Word) := []
  harts : Table Hart := []
  /-- windows being scrubbed: their pages accept no access (R275) -/
  blocked : List (Nat × Nat) := []
  /-- pages of ended episodes' windows still to be zeroed: pair, context, page, and the bind entry at the kill (R275) -/
  ended : List (Nat × Nat × Nat × Word) := []
  /-- sectors of the pairs' memory with an uncorrectable error (R220) -/
  bad : Table Bool := []
  /-- the cluster's 64 MiB shared SRAM (R7, R11) -/
  sram : Table Byte := []
  /-- access faults taken by the supervisor: hart -/
  faults : List Nat := []
  deriving DecidableEq, Repr

/-- A host window (R313). -/
structure HostWindow where
  base : Nat := 0
  len : Nat := 0
  rd : Bool := false
  wr : Bool := false
  tee : Bool := false
  deriving DecidableEq, Repr

/-- An event record (R317); the fault record is kept as its 64 bytes. -/
structure EventRec where
  kind : Nat
  cls : EventClass
  copy : Bool
  vdid : Nat
  pcyc : Nat
  data : List Nat
  fault : List Byte
  deriving DecidableEq, Repr

/-- A partition, its holdings, page and log (R304 to R321). -/
structure Partition where
  rights : BitVec 7 := 0
  cores : Table Bool := []
  sets : Table Bool := []
  /-- key slots by 256 * die + slot -/
  keys : Table Bool := []
  harts : Table Bool := []
  mailGroups : Table Bool := []
  /-- environment pages by 256 * core + page -/
  envPages : Table Bool := []
  /-- cells by 16 * row + set, link shares by 64 * link + row -/
  cells : Table Bool := []
  shares : Table Bool := []
  power : Nat := 0
  windows : Table HostWindow := []
  /-- window changes that wait for a switch window (R313) -/
  newWindows : Table HostWindow := []
  /-- aperture slots: context + 1 and bind-table entry -/
  apertures : Table (Nat × Nat) := []
  pasid : BitVec 20 := 0
  mirror : Bool := false
  distBudget : Nat := 0
  distAction : Nat := 0
  distAcc : Nat := 0
  /-- the account passed BUDGET in this window -/
  distHit : Bool := false
  arg0 : Word := 0
  arg1 : Word := 0
  arg2 : Word := 0
  arg3 : Word := 0
  busy : Bool := false
  /-- the outstanding command's arguments, and the pod cycle of its write (R321) -/
  cmd : List Word := []
  taken : Nat := 0
  result : BitVec 8 := 0
  seq : BitVec 32 := 0
  evBase : Word := 0
  evSize : Nat := 0
  evHead : BitVec 32 := 0
  evTail : BitVec 32 := 0
  evLost : BitVec 32 := 0
  /-- the Mask bit of the log's MSI-X vector (R318) -/
  vecMasked : Bool := true
  vecPending : Bool := false
  deriving DecidableEq, Repr

/-- TDISP states (R323). -/
inductive Tdisp where
  | unlocked | locked | run | error
  deriving DecidableEq, Repr

/-- A context (R309 to R312, R320). -/
structure Ctx where
  vdid : Nat := 0
  coreset : Nat := 0
  protect : Bool := false
  /-- gang id + 1 -/
  gang : Nat := 0
  map : Table Word := []
  bind : Table Word := []
  stop : Bool := false
  halt : Bool := false
  /-- teardown waits for the next boundary (R308) -/
  doomed : Bool := false
  /-- pages of the context save area, the region save slots and the flight save area: core, page (R261) -/
  save : List (Nat × Nat) := []
  /-- the context's mailbox groups by context group number, as composed (R271) -/
  mail : List Nat := []
  /-- a debugger has written a save area since the image there was saved: its digest is to be checked (R297) -/
  badImage : Bool := false
  deriving DecidableEq, Repr

/-- A region saved for a context that another one has taken it from (R266). -/
structure SavedRegion where
  data : Table Byte := []
  tags : Table (BitVec 16) := []
  shadow : Table Shadow := []
  deriving DecidableEq, Repr

/-- A scrub engine (R299, R300). A resource is kind 0 scratch region or 1 DRAM page, package core index, region or page. -/
structure Scrub where
  ctx : Nat := 0
  progress : Nat := 0
  total : Nat := 0
  done : Bool := true
  /-- resources not yet all zeroed, in order -/
  work : List (Nat × Nat × Nat) := []
  /-- those whose next unit falls in this round: one of each bank group, or of each channel group -/
  round : List (Nat × Nat × Nat) := []
  /-- units done of a resource, by `scrubKey` -/
  units : Table Nat := []
  queued : List (Nat × List (Nat × Nat × Nat)) := []
  deriving DecidableEq, Repr

/-- A leaky counter: its level and the pod cycle of its last change (R334). -/
structure Leaky where
  level : Nat := 0
  since : Nat := 0
  deriving DecidableEq, Repr

/-- Housekeeping (R327 to R339). -/
structure House where
  pcap : Nat := 4200
  pwrnow : Nat := 0
  tempmax : Nat := 0
  sensor : Nat := 0
  retained : BitVec 16 := 0
  replace : Bool := false
  retiredCores : Table Bool := []
  retiredPages : Table Bool := []
  retiredLinks : Table Bool := []
  /-- lasting faults that retire their unit at the next teardown or switch-out (R335) -/
  lasting : List FaultUnit := []
  errwin : Nat := 24
  hkwin0 : Word := 0
  hkwin1 : Word := 0
  hkwin2 : Word := 0
  hkwin3 : Word := 0
  leaky : List (FaultUnit × Leaky) := []
  /-- gangs held for power or heat in the order of their holds, with forecasts within the share so far -/
  held : List (Nat × Nat) := []
  emergency : Bool := false
  /-- lifetime counters by set * 2^20 + position (R336) -/
  lifetime : Table Nat := []
  /-- discarded housekeeper writes (R337) -/
  discarded : Nat := 0
  bootStep : Nat := 6
  recovery : Bool := false
  /-- training results of each DRAM stack with their digest, kept in non-volatile storage, and the stacks that have not passed
  since the last reset (R223) -/
  training : Table (List Byte × Nat) := []
  untrained : Table Bool := []
  /-- protected teardowns logged in non-volatile storage, with what each held (R301) -/
  scrubLog : List (Nat × List (Nat × Nat × Nat)) := []
  deriving DecidableEq, Repr

/-- An HCOPY.W unit that C1 has read and host memory does not hold yet (R369, R370). -/
structure HostWrite where
  core : Nat
  /-- page whose requester sends it, and host address -/
  page : Nat
  addr : Nat
  data : List Byte
  /-- gang cycle of the scratch read -/
  readAt : Nat
  /-- sent with the EP attribute -/
  poison : Bool
  /-- its request completes with an error (R313) -/
  refused : Bool
  deriving DecidableEq, Repr

/-- The partition authority, the host link and the security engine (R304 to R326). -/
structure Authority where
  parts : Table Partition := []
  ctxs : Table Ctx := []
  ctxSeq : Nat := 0
  coreSets : Table (List Nat) := []
  /-- slot-matrix cells by 16 * row + set, and those written but not in effect (R248) -/
  cells : Table Word := []
  newCells : Table Word := []
  rows : Nat := 1
  slotExp : Nat := 20
  /-- keys by 256 * die + slot -/
  keys : Table (BitVec 512) := []
  tdisp : Table Tdisp := []
  ideKeys : Table (BitVec 256) := []
  /-- measurement block 6 (R326) -/
  measured : Nat := 0
  /-- the firmware's measurements as the last boot recorded them (R326, R339) -/
  bootMeasured : Nat := 0
  /-- what a REVOKE of MODE 0 has withdrawn and the next boundary puts out of use: kind and keys (R308) -/
  leaving : List (Nat × List Nat) := []
  /-- host memory as each requester sees it, by VDID * 2^64 + address -/
  host : Table Byte := []
  posted : List HostWrite := []
  /-- units of HCOPY.R commands that wait for space among C1's read data, by core, command and unit (R369) -/
  wantReads : List (Nat × Nat × Nat) := []
  /-- MSI-X messages sent: VDID, vector -/
  messages : List (Nat × Nat) := []
  /-- answers to host reads through apertures: VDID, slot, offset, status, bytes -/
  completions : List (Nat × Nat × Nat × Nat × List Byte) := []
  reports : List (Nat × List Byte) := []
  deriving DecidableEq, Repr

/-- The hub (R7). -/
structure Hub where
  fab : Fabric := {}
  dram : Dram := {}
  env : Cluster := {}
  auth : Authority := {}
  house : House := {}
  scrubs : Table Scrub := []
  /-- barrier objects by 64 * core set + handle (R345) -/
  barriers : Table Barrier := []
  /-- regions saved by context * 2^16 + core index * 64 + region (R266) -/
  regions : Table SavedRegion := []
  /-- context images of gangs switched out or stopped, by context * 1024 + package core index (R296) -/
  images : Table Core := []
  /-- the first boundary after a teardown is delayed (R302) -/
  delayed : Bool := false
  /-- pod cycle at which a core set that was vacated is free (R258) -/
  setFree : Table Nat := []
  deriving DecidableEq, Repr

end Sys2Proof.Machine
end

