-- ==== Sys2Proof/Machine/State.lean ====
section
/-! DEFINITION. The state of the machine as plain data, the reasons a step can stop, and the state after reset. -/

namespace Sys2Proof.Machine

/-- Why the machine stops. A fault of the manual is no stop of the model: it is a next state (R286). -/
inductive Fault where
  /-- Raised by no instruction of the manual: `step` raises it when the core it is to fetch for is not in the package
  (R6). Safe: a run from reset never asks for such a core. -/
  | noSuchCore (core : Nat)
  deriving DecidableEq, Repr

/-- Why the model gives no next state. -/
inductive Refusal where
  /-- Raised by an arm of `exec` whose instruction has no meaning yet. Safe. -/
  | notModelled (mnemonic : String)
  deriving DecidableEq, Repr

/-- Which count a job's due cycle belongs to: pod time (R15) or one gang's time (R16). -/
inductive Clock where
  | pod
  | gang (g : Nat)
  deriving DecidableEq, Repr

/-- The parts of an operation that perform after its trigger's arrival and are no steps of the opcode table. -/
inductive Deed where
  /-- look one cycle ahead for faults charged to the last or the coming bundle (R460) -/
  | preview
  /-- fetch and decode the bundle due to issue -/
  | begin
  /-- read ahead along the known path (R147) and fetch at issue − 2 (R89) -/
  | scan
  /-- a load's read at arrival + 1 (R72) -/
  | load (g : Bank) (addr : Nat) (n : Nat)
  /-- a store's write at arrival + 2 -/
  | store (w : ScratchWrite)
  /-- a read-modify-write's read at arrival + 1; `op` names the operation 0 AADD … 9 ACAS, `cls` the watchpoint class of its
  write (R292) -/
  | rmwRead (g : Bank) (op : Nat) (addr : Nat) (data : BitVec 32) (cmp : BitVec 32) (cls : Nat)
  /-- its write at arrival + 3 -/
  | rmwWrite (g : Bank) (w : ScratchWrite) (flags : Flags)
  /-- a predicate write that is present from this cycle -/
  | pred (n : Fin 8) (v : Bool)
  /-- FPFLAGS bits set in this cycle -/
  | flags (f : Flags)
  /-- a tag stamp (R76) -/
  | stamp (tile : Nat) (tag : BitVec 16)
  /-- the stamp of a push stream's tile, 0xFFFF while the poison latch is set (R405) -/
  | stampPush (tile : Nat) (exp : BitVec 16)
  /-- a target-buffer read of the bundle at `addr + half` (R148) -/
  | prefetch (t : Fin 8) (half : Bool)
  /-- a read of the link stack's top entry, which became top at `since` (R154) -/
  | linkRead (since : Nat) (half : Bool)
  /-- the die counters of `dies`, the package counter and the gang counter of a gang advance (R198) -/
  | gangIntervals (gang : Nat) (dies : List Nat) (pkg gng : Bool)
  /-- ECC finds an uncorrectable error in a scratch tile or in a bundle of the instruction store, or corrects one in the core's
  SRAM (R75, R151, R334); inputs from the physical arrays -/
  | sramError (tile : Nat)
  | sramCorrected (block : Nat)
  | bundleError (index : Nat)
  /-- SCFG, SSEEK, SSKIP, STAG, SCLOSE taking effect at the end of the cycle (R84) -/
  | csrr (num : Nat)
  | csrw (num : Nat) (v : Word)
  | interval
  /-- OWED has reached 4 (R215) -/
  | refreshOverdue (core : Nat)
  /-- the housekeeper writes host memory (R337); an input from its firmware -/
  | housekeeperWrite (addr : Nat) (data : List Byte)
  /-- an image comes to its save area (R297) -/
  | imageWrite (addr : Nat) (data : List Byte)
  | muwr (entry : Bool) (index : Nat) (w : Word)
  | mlutRead (addr : Nat)
  | mlutRest (addr : Nat) (first : List Byte)
  | mlutSet (l : Lut)
  | mzero (t : Nat)
  /-- the microsequencer executes a microword (R169) -/
  | micro
  /-- an A item of a step's row group (R173) -/
  | mxReadA (start : Nat) (group : Nat)
  /-- the first half of a B item with its scales, and its routing (R173), for the block ready at `ready` -/
  | mxReadB (ready : Nat) (q : Nat) (r : Nat) (cls : Nat)
  | mxReadB2 (ready : Nat) (addr : Nat) (n : Nat)
  | mxBias (start : Nat) (q : Nat)
  /-- an epilogue row arrives at its stream (R180) -/
  | mxPush (q : Nat) (elems : List Nat)
  /-- the bank write of an epilogue push -/
  | unitStore (w : ScratchWrite)
  /-- count the matrix unit's accesses of this cycle and settle its conflicts (R72, R175) -/
  | settle
  /-- an IMCOPY unit's read or write (R90) -/
  | imUnit (cmd : Nat) (unit : Nat) (write : Bool)
  /-- an XCOPY unit's source read (R438) -/
  | xcopyRead (cmd : Nat) (unit : Nat)
  /-- a fabric frame's scratch read (R187) -/
  | sendRead (cmd : Nat) (unit : Nat)
  /-- a frame leaves the station (R232) -/
  | depart (cmd : Nat)
  /-- unit `unit` of an arrived frame at its target, and an FATOM's write (R187, R191) -/
  | frameUnit (f : Frame) (unit : Nat)
  | fatomWrite (f : Frame) (old : BitVec 32)
  /-- a mailbox command: POLVER at its start, a unit's read, a unit's scratch write, its end at s + 24 (R377 to R379) -/
  | mbVersion (cmd : Nat)
  | mbRead (cmd : Nat) (unit : Nat)
  | mbWrite (cmd : Nat) (unit : Nat)
  | mbDone (cmd : Nat)
  /-- DREF or DRFM at its start (R214) -/
  | refresh (home : Nat) (bank : Nat) (rfm : Bool)
  /-- an activate of a copy's row, counted by the trackers (R217) -/
  | activate (home : Nat) (chans : BitVec 4) (bank : Nat) (row : Nat)
  /-- a foreign write's bytes and stamps, in the place where writes fall (R73, R74, R76) -/
  | foreignStore (core : Nat) (w : ScratchWrite) (stamps : List (Nat × BitVec 16))
  /-- a gang's package interval advances (R198) -/
  | pkgInterval (gang : Nat)
  /-- s48 to s55 of a spawner, written into the sibling at the end of the cycle (R409) -/
  | spawnRegs (ws : List Word)
  /-- whether every party of a gang's RESYNC has arrived, asked at the end of a cycle (R36, R37) -/
  | resyncCheck (gang : Nat)
  /-- the events of this cycle on a barrier object (R346) -/
  | barrierApply (gang : Nat) (object : Nat)
  /-- a BARINIT (0), an arrival (1) or an EXIT (2) of another member's core acts on a gang-scope barrier here, or such a core
  starts (4) (R345 to R349) -/
  | farBarrier (gang handle cycle chip core kind a b : Nat)
  /-- a barrier fault charged H after its event (R347 to R349) -/
  | barrierFault (handle : Nat) (sub : Nat) (record : Bool)
  /-- the pod manager places the chip in the pod, and tells what it trained of a link of another chip (R224, R227) -/
  | podPlace (chip s0 s1 s2 s3 : Nat) (root : Bool)
  /-- the pod manager tells a link share of another chip, or what the matrix gives a gang on another member (R233, R249) -/
  | podShare (chip row link share : Nat)
  | memberCell (gang chip row : Nat) (named offered : Bool)
  | podLink (chip link lam mu : Nat) (up : Bool)
  /-- a control frame of other members passes this chip's lanes (R243) -/
  | leekTransit (i : LeekItem)
  /-- an urgent control frame was lost on a pair with both links down (R29, R243) -/
  | lostUrgent (gang : Nat)
  /-- a frame beyond the correction limit arrived on a link (R228); an input from the physical link -/
  | frameError (link : Nat)
  /-- the DRAM controllers reopen a gang's rows and release their hold (R212) -/
  | controllersRelease (gang number : Nat)
  | reopenRows (gang : Nat)
  /-- a hart's access was refused or met a bad sector: an access fault (R205, R220) -/
  | hartFault (hart : Nat)
  /-- an instruction of a hart reaches the machine; an input from the cluster (R269) -/
  | hartOp (hart : Nat) (op : HartOp)
  /-- the supervisor's access to its registers at a hub address, or a store to the cluster's SRAM (R7, R278) -/
  | clusterWrite (addr : Nat) (v : Word)
  | sramStore (addr : Nat) (data : List Byte)
  /-- ECC finds an uncorrectable error in a sector of a mailbox pair (R220); an input from the physical arrays -/
  | mailboxError (sector : Nat)
  /-- the controllers' patrol reaches a sector (R222) -/
  | patrol (sector : Nat)
  /-- full training of a DRAM stack is over (R223) -/
  | stackTrained (stack : Nat)
  /-- a VF that was stopped is unlocked once its protected contexts are scrubbed (R323) -/
  | tdispStop (vf : Nat)
  /-- an FATOM's reply was lost: poison consumed (R365) -/
  | replyLost
  /-- a frame's departure is counted (R260) -/
  | countDepart (gang link : Nat)
  /-- the partition authority completes the outstanding command of a page (R320, R321) -/
  | command (page : Nat) (op : Nat)
  deriving DecidableEq, Repr

/-- What a job does: an arriving move, a step of the opcode table, or a deed of a core. -/
inductive Task where
  | arrive (fl : Flight)
  | event (i : Instr)
  | deed (d : Deed)
  deriving DecidableEq, Repr

/-- Scheduled work. `core` is the core whose clock it stops with; jobs of one cycle run in order of phase. -/
structure Job where
  clock : Clock
  due : Nat
  phase : Nat
  core : Option Nat
  task : Task
  deriving DecidableEq, Repr

/-- Where the running step stands: the core it belongs to, and the arriving move; with no flight, the slot that issues. -/
structure Cursor where
  core : Nat := 0
  slot : Nat := 0
  flight : Option Flight := none
  deriving DecidableEq, Repr

/-- What the next step fetches: a slot of a core's bundle or the next microword of its matrix unit. -/
inductive Fetch where
  | slot (core : Nat) (k : Nat)
  | micro (core : Nat)
  deriving DecidableEq, Repr

/-- The package (R5) with what it holds of gangs, hub and host. -/
structure State where
  /-- PCYC, pod time (R15) -/
  pod : Nat := 0
  cores : Table Core := []
  gangs : Table Gang := []
  hub : Hub := {}
  agenda : List Job := []
  issuing : Option Fetch := none
  cur : Cursor := {}
  /-- phase of the job that ran last in this cycle -/
  phase : Nat := 0
  /-- a look-ahead run on a copy, which looks no further ahead itself -/
  looking : Bool := false
  /-- counter the free values of Config are applied to; the model's own -/
  fresh : Nat := 0
  deriving DecidableEq, Repr

/-- The machine right after reset: pod time 0, no gang admitted, nothing scheduled (R4, R19). [log 2 DESIGN CHOICE, 5 DEDUCED,
89 PRESUMED] -/
def State.reset : State := {}

end Sys2Proof.Machine
end

