-- ==== Sys2Proof/Machine/Ops.lean ====
section
/-! DEFINITION. Named operations over the state: cores, clocks, scheduled work, and taking a fault (R286 to R289). -/

namespace Sys2Proof.Machine

/-- The result of a step. -/
abbrev Out := Host.Outcome State Fault Refusal

/-! The phases of a cycle, in the order in which what falls in one cycle takes effect. -/

/-- freezes and resumes of gang time (R23, R24) [log 6 DEDUCED] -/
def phFreeze : Nat := 0
/-- work of the hub -/
def phHub : Nat := 10
/-- CSR samples and FPFLAGS clears, before anything of the cycle (R145) -/
def phSample : Nat := 20
def phPreview : Nat := 50
/-- results and predicates become present (R56) -/
def phDone : Nat := 100
/-- arrivals at CT, before the cycle's bundle is chosen (R146) -/
def phCtOperand : Nat := 120
def phCt : Nat := 140
def phIssue : Nat := 200
def phLoopEnd : Nat := 210
def phScan : Nat := 300
/-- FB's operands; FRECV at the phase after (R236) -/
def phFabric : Nat := 303
/-- conflicts that involve the matrix unit (R175) -/
def phSettle : Nat := 305
/-- foreign writes, lower source first (R186); the source is chip * 1024 + core -/
def phForeign (src : Nat) : Nat := 310 + src % 2 ^ 22
/-- memory reads see the writes of earlier cycles (R73) -/
def phRead : Nat := 5000000
def phTy : Nat := 5000100
def phOperand : Nat := 5000200
/-- pop reads and pushes in stream order, for SQ's draws (R137) -/
def phStream (q : Nat) : Nat := 5000300 + q
def phTrigger : Nat := 5000400
/-- a microword executes after the operands and triggers of its cycle (R172, R393) -/
def phMicro : Nat := 5000430
/-- SQ's configuration takes effect after the pushes of its cycle (R84, R461) -/
def phConfig : Nat := 5000450
def phWrite : Nat := 5000500
def phStamp : Nat := 5000600
def phRegister : Nat := 5000700
/-- Convention: [log 6 DEDUCED] -/
def phEnd : Nat := 5000800
/-- interval counters advance when every access of the cycle has been checked (R199) -/
def phAdvance : Nat := phEnd + 100

/-- The core of a package core index. -/
def coreOf (s : State) (k : Nat) : Core := tget {} s.cores k

def setCore (s : State) (k : Nat) (c : Core) : State := { s with cores := tset {} s.cores k c }

def modCore (s : State) (k : Nat) (f : Core → Core) : State := setCore s k (f (coreOf s k))

def gangOf (s : State) (g : Nat) : Gang := tget {} s.gangs g

def setGang (s : State) (g : Nat) (x : Gang) : State := { s with gangs := tset {} s.gangs g x }

def modGang (s : State) (g : Nat) (f : Gang → Gang) : State := setGang s g (f (gangOf s g))

/-- Gang of a core. -/
def coreGang (s : State) (k : Nat) : Gang := gangOf s (coreOf s k).gang

/-- The gang cycle that a core reads (R17). -/
def gcycOf (s : State) (k : Nat) : Nat := (coreGang s k).gcyc

/-- HOLDLEAD.H of a core's gang (R21). -/
def leadOf (s : State) (k : Nat) : Nat := (coreGang s k).h

/-- Schedule a job. -/
def post (s : State) (j : Job) : State := { s with agenda := s.agenda ++ [j] }

/-- Schedule work of core `k` at a gang cycle; it stops with the core's clock. -/
def postCore (s : State) (k due phase : Nat) (t : Task) : State :=
  post s ⟨.gang (coreOf s k).gang, due, phase, some k, t⟩

/-- Schedule a step at a gang cycle that does not stop with a core's clock (foreign writes, hub work). -/
def postGang (s : State) (g due phase : Nat) (i : Instr) : State := post s ⟨.gang g, due, phase, none, .event i⟩

/-- Schedule a step at a pod cycle. -/
def postPod (s : State) (due phase : Nat) (i : Instr) : State := post s ⟨.pod, due, phase, none, .event i⟩

/-- Schedule a deed of core `k`. -/
def postDeed (s : State) (k due phase : Nat) (d : Deed) : State := postCore s k due phase (.deed d)

/-- The running step's core. -/
def me (s : State) : Nat := s.cur.core

def myCore (s : State) : Core := coreOf s (me s)

def modMe (s : State) (f : Core → Core) : State := modCore s (me s) f

/-- The gang cycle of the running step's core. -/
def now (s : State) : Nat := gcycOf s (me s)

/-- A counter value for a free value of Config, and the counter advanced. [log 3 DESIGN CHOICE] -/
def takeFresh (s : State) : Nat × State := (s.fresh, { s with fresh := s.fresh + 1 })

/-- A scalar operand port by destination id (R61). -/
def portOf (c : Core) (id : Nat) : Word := tget 0 c.ports id

def setPort (c : Core) (id : Nat) (w : Word) : Core := { c with ports := tset 0 c.ports id w }

/-- A vector operand port. -/
def vportOf (c : Core) (id : Nat) : Vec := tget 0 c.vports id

def setVport (c : Core) (id : Nat) (v : Vec) : Core := { c with vports := tset 0 c.vports id v }

/-- Every lane enabled (R61). -/
def onesMask : Mask := BitVec.allOnes 256

/-- va.k and vb.k. -/
def kportOf (c : Core) (id : Nat) : Mask := tget onesMask c.kports id

def setKport (c : Core) (id : Nat) (m : Mask) : Core := { c with kports := tset onesMask c.kports id m }

/-- s0 reads 0 and discards writes (R56). -/
def sregOf (c : Core) (n : Nat) : Word := if n = 0 then 0 else tget 0 c.s n

def setSreg (c : Core) (n : Nat) (w : Word) : Core := if n = 0 then c else { c with s := tset 0 c.s n w }

def vregOf (c : Core) (n : Nat) : Vec := tget 0 c.v n

def setVreg (c : Core) (n : Nat) (v : Vec) : Core := { c with v := tset 0 c.v n v }

def kregOf (c : Core) (n : Nat) : Mask := tget 0 c.k n

def setKreg (c : Core) (n : Nat) (m : Mask) : Core := { c with k := tset 0 c.k n m }

/-- p0 reads 1 (R56). -/
def predOf (c : Core) (n : Nat) : Bool := if n = 0 then true else c.p.getLsbD n

/-- Writes to p0 are ignored (R56). -/
def setPred (c : Core) (n : Nat) (v : Bool) : Core :=
  if n = 0 ∨ 8 ≤ n then c
  else { c with p := if v then c.p ||| ((1 : BitVec 8) <<< n) else c.p &&& ~~~((1 : BitVec 8) <<< n) }

/-- pp: p7 to p0 in bits [7:0] (R56). -/
def packedPreds (c : Core) : Word := (c.p ||| 1).setWidth 64

/-- Result ports are 0 until a station's first completion (R58). -/
def resultOf (c : Core) (r : ResultPort) : Word := tget 0 c.res (resId r)

def vresOf (c : Core) (r : ResultPort) : Vec := tget 0 c.vres (resId r)

/-- Which result ports hold 2,048 bits. -/
def isVecPort : ResultPort → Bool
  | .va | .vb | .bga | .bgb | .bgc | .bgd => true
  | .sa | .mx | .sq | .c0 | .c1 | .fb | .sy | .ct => false

/-- A result becomes present (R62). -/
def setResult (c : Core) (r : ResultPort) (v : Vec) : Core :=
  if isVecPort r then { c with vres := tset 0 c.vres (resId r) v, vprev := tset 0 c.vprev (resId r) (vresOf c r) }
  else { c with res := tset 0 c.res (resId r) (v.setWidth 64) }

def streamOf (c : Core) (q : Nat) : Stream := tget {} c.streams q

def setStream (c : Core) (q : Nat) (x : Stream) : Core := { c with streams := tset {} c.streams q x }

def loopOf (c : Core) (n : Nat) : Loop := tget {} c.loops n

def setLoop (c : Core) (n : Nat) (l : Loop) : Core := { c with loops := tset {} c.loops n l }

def targetOf (c : Core) (t : Nat) : Target := tget {} c.targets t

def setTarget (c : Core) (t : Nat) (x : Target) : Core := { c with targets := tset {} c.targets t x }

/-- The empty bundle, eight slots of 0x80_0000 (R93). -/
def emptyBundle : BitVec 192 := 0x800000800000800000800000800000800000800000800000

/-- A bundle of the instruction store (R89). -/
def bundleAt (c : Core) (n : Nat) : BitVec 192 := tget emptyBundle c.istore n

def setBundle (c : Core) (n : Nat) (w : BitVec 192) : Core := { c with istore := tset emptyBundle c.istore n w }

def rowPtrOf (c : Core) (t : Nat) : Nat := tget 0 c.mx.rowPtr t

def setRowPtr (c : Core) (t n : Nat) : Core := { c with mx := { c.mx with rowPtr := tset 0 c.mx.rowPtr t n } }

/-- Scratch bytes; what nothing has written reads 0. [log 1 DESIGN CHOICE] -/
def scratchBytes (c : Core) (addr n : Nat) : List Byte := tbytes 0 c.scratch addr n

def putScratch (c : Core) (addr : Nat) (bs : List Byte) : Core := { c with scratch := tputs 0 c.scratch addr bs }

def tagOf (c : Core) (tile : Nat) : BitVec 16 := tget 0 c.tags tile

def setTag (c : Core) (tile : Nat) (t : BitVec 16) : Core := { c with tags := tset 0 c.tags tile t }

/-- Record that a move delivered to a port (R460). -/
def noteDelivery (c : Core) (id : Nat) (fl : Flight) : Core :=
  { c with deliv := tins c.deliv id ⟨fl.arrive, fl.issue, fl.bundle, fl.slot⟩ }

/-- A delivery made at cycle `a` to the port, if any. -/
def deliveredAt (c : Core) (id a : Nat) : Option Delivery :=
  let d := tget ⟨0, 0, 0, 8⟩ c.deliv id
  if d.cycle = a ∧ d.slot < 8 then some d else none

/-- The later-issued of two charges; of one bundle's deliverers the lowest slot (R460). -/
def laterCharge (best : Nat × Nat × Nat) (d : Delivery) : Nat × Nat × Nat :=
  if best.1 < d.issue then (d.issue, d.bundle, d.slot)
  else best

/-- The bundle a check of the arriving move is charged to: the latest-issued among its own and those that deliver at the
arrival a port the check reads (R460). -/
def chargeOf (c : Core) (fl : Flight) (reads : List Nat) : Nat × Nat × Nat :=
  (reads.filterMap fun id => deliveredAt c id fl.arrive).foldl laterCharge (fl.issue, fl.bundle, fl.slot)

/-- Raise a fault on a core that no fault has frozen yet. -/
def addRaise (c : Core) (r : Raise) : Core :=
  if c.frozenAt.isSome then c else { c with raised := c.raised ++ [r] }

/-- Raise a fault for a check made by the arriving move `fl` that read the ports `reads` (R460). -/
def raiseFor (c : Core) (fl : Flight) (reads : List Nat) (code : Nat) (a b d : Word) : Core :=
  let ch := chargeOf c fl reads
  addRaise c ⟨code, ch.1, ch.2.1, ch.2.2, a, b, d⟩

/-- Raise a fault charged to the bundle issuing in cycle `x`, or else the next to issue (R175, R286). [log 40 DEDUCED] -/
def raiseNow (c : Core) (x code : Nat) (a b d : Word) : Core :=
  addRaise c ⟨code, x, if c.curCycle = some x then c.curBundle else c.pc, 0, a, b, d⟩

/-- A decode fault is reported first, by slot; otherwise the lowest code (R287). -/
def firstRaise (best r : Raise) : Raise :=
  if best.code ≤ 3 then (if r.code ≤ 3 ∧ r.slot < best.slot then r else best)
  else if r.code < best.code then r else best

/-- FLTINFO_D: one bit for every code raised against the bundle (R287). -/
def alsoBits (rs : List Raise) : BitVec 36 := rs.foldl (fun m r => m ||| ((1 : BitVec 36) <<< r.code)) 0

/-- The latched record of a fault (R289). -/
def recordOf (r : Raise) (rs : List Raise) (c : Nat) : FaultRecord :=
  ⟨BitVec.ofNat 8 r.code, BitVec.ofNat 32 r.bundle, BitVec.ofNat 3 r.slot, r.a, r.b, r.c, alsoBits rs, BitVec.ofNat 64 c⟩

/-- A stream as it stands with the read `f` undone: its state before the read, unless a trigger has changed the register since;
where the matrix unit has read it since, only the pop's own advance is taken back (R147, R175, R286). -/
def undoRead (now : Stream) (f : Prefetch) : Stream :=
  if now.gen ≠ f.before.gen then
    { now with pos := if f.pops && f.guard && f.faults.isEmpty && now.sets == f.before.sets then now.pos - 1 else now.pos }
  else if now.unitReads = f.before.unitReads then f.before
  else { now with pos := if f.pops && f.guard && f.faults.isEmpty then now.pos - 1 else now.pos }

/-- Undo the reads made for bundles issuing at `c` or later, the latest first: the streams return; SQ's draws and the flags of
those reads stay (R137, R147, R286). [log 99 DEDUCED] -/
def undoReads (k : Core) (c : Nat) : Core :=
  let k' := (k.fetched.filter (fun f => decide (c ≤ f.issueAt))).foldr (fun f k =>
    setStream k f.q (undoRead (streamOf k f.q) f)) k
  { k' with fetched := k'.fetched.filter (fun f => decide (f.issueAt < c))
            deferred := k'.deferred.filter fun r => decide (r.charge < c) }

/-- The core's part of a fault at cycle `c`: the faulting bundle's pops and control effects are undone, the record is
latched, and the clock is frozen from `c + 1` (R286, R288). -/
def freezeFaulted (k : Core) (c : Nat) (r : Raise) (rs : List Raise) : Core :=
  let k := undoReads k c
  let k := if k.curCycle = some c then
      { k with mx := { k.mx with rowPtr := k.undoPtr }, pc := k.undoPc, loops := k.undoLoops, waits := k.undoWaits,
               nextIssue := k.undoNext }
    else k
  { k with fault := recordOf r rs c, frozenAt := some (c + 1), raised := [], doomed := []
           deferred := [] }

/-- A move of core `k` that the bundle issued at `c` or later put in flight. -/
def issuedFrom (k c : Nat) (j : Job) : Bool :=
  match j.core, j.task with
  | some k', .arrive fl => decide (k' = k) && decide (c ≤ fl.issue)
  | _, _ => false

/-- Pod cycles within which the minder posts the record, 20 µs (R288). [log 19 DESIGN CHOICE] -/
def minderBound : Nat := 48000

/-- TAKE A FAULT on core `k`, charged to the bundle that issues at `c`: the bundle's moves are dropped, the core is frozen from
`c + 1`, the record is latched, and the minder's step is scheduled within its bound (R286 to R288). [log 19 DESIGN CHOICE] -/
def takeFault (s : State) (k c : Nat) (r : Raise) (rs : List Raise) : State :=
  let first := rs.foldl firstRaise r
  let s := modCore s k fun x => freezeFaulted x c first (r :: rs)
  let s := { s with agenda := s.agenda.filter (fun j => !issuedFrom k c j) }
  let s := { s with issuing := match s.issuing with
    | some (.slot k' _) => if k' = k then none else s.issuing
    | i => i }
  let (n, s) := takeFresh s
  if s.looking then s
  else postPod s (s.pod + 1 + Config.hostLatency n % minderBound) 0 (.minderFaultRecord k)

/-- Take the faults raised on a core: all those charged to the earliest bundle charged (R286, R287). -/
def settleFaults (s : State) (k : Nat) : State :=
  match (coreOf s k).raised with
  | [] => s
  | r :: rs =>
    let c := rs.foldl (fun m x => min m x.charge) r.charge
    match (r :: rs).filter (fun x => x.charge = c) with
    | [] => s
    | q :: qs => takeFault s k c q qs

/-- Place a record in a core's queue of 32, or count it as lost (R293). -/
def addRecord (k : Core) (r : Record) : Core :=
  if k.records.length < 32 then { k with records := k.records ++ [r] }
  else { k with lost := if k.lost = BitVec.allOnes 31 then k.lost else k.lost + 1 }

/-- Agent id of a class and id (R183). -/
def agentId (cls id : Nat) : BitVec 16 := BitVec.ofNat 16 (cls * 4096 + id % 4096)

/-- The class of an agent id. -/
def agentClass (a : BitVec 16) : Nat := a.toNat / 4096

/-- A command by its id. -/
def cmdOf (c : Core) (id : Nat) : Option EngineCmd := c.cmds.find? fun m => decide (m.id = id)

/-- What a unit holds: its bytes, and whether it is poisoned. -/
def unitBuf (m : EngineCmd) (i : Nat) : Option (List Byte × Bool) := (m.bufs.find? fun b => decide (b.1 = i)).map (·.2)

/-- Work in a gang's time. [log 83 DEDUCED] -/
def ofGang (g : Nat) (j : Job) : Bool :=
  match j.clock with
  | .gang g' => decide (g' = g)
  | .pod => false

/-- A Bool as a bit at position `i`. -/
def bitAt (b : Bool) (i : Nat) : Nat := if b then 2 ^ i else 0

end Sys2Proof.Machine
end

