-- ==== Sys2Proof/Machine/Operands.lean ====
section
/-! DEFINITION. Moves: what a source delivers (R56, R57, R94), how a value is widened (R66, R95, R97), where and when it
arrives (R52), and the triggers' common part (R60, R64). -/

namespace Sys2Proof.Machine

/-- The value of a guard from the predicates present (R57, R93). -/
def guardOf (c : Core) (g : Guard) : Bool := predOf c g.idx.val != g.inv

/-- Element (row, column) key of accumulator tile `t` (R167). -/
def accKey (t row col : Nat) : Nat := t * 8192 + row * 64 + col

def accOf (c : Core) (t row col : Nat) : BitVec 32 := tget 0 c.mx.acc (accKey t row col)

/-- The `n` low elements of width `w`, element 0 lowest (R126). -/
def elems (w n : Nat) (x : Nat) : List Nat := (List.range n).map fun e => x / 2 ^ (w * e) % 2 ^ w

/-- Elements packed, element 0 lowest (R126). -/
def packNat (w : Nat) : List Nat → Nat
  | [] => 0
  | x :: xs => x % 2 ^ w + 2 ^ w * packNat w xs

def packVec (w : Nat) (xs : List Nat) : Vec := BitVec.ofNat 2048 (packNat w xs)

/-- Row `r` of tile `t` as 2,048 bits (R167). -/
def accRow (c : Core) (t r : Nat) : Vec := packVec 32 ((List.range 64).map fun j => (accOf c t r j).toNat)

/-- The item read ahead for the move in slot `n` of the bundle issuing at `x` (R86). -/
def fetchedFor (c : Core) (q x bundle n : Nat) : Option Prefetch :=
  c.fetched.find? fun f => decide (f.q = q ∧ f.issueAt = x ∧ f.bundle = bundle ∧ f.slot = n)

/-- The stream a source pops or peeks. -/
def streamSource : Source → Option (Nat × Bool)
  | .pop q => some (q.val, true)
  | .peek q => some (q.val, false)
  | _ => none

/-- Checks of a pop or peek at its issue: it was read for this cycle and its guard was decided as it is (R86, R147), and the
read found no fault. [log 24 DEDUCED, 34 DEDUCED] -/
def checkPop (c : Core) (src : Source) (g : Bool) (x bundle n : Nat) : Core :=
  match streamSource src with
  | none => c
  | some (q, pops) =>
    let bad := addRaise c ⟨7, x, bundle, n, BitVec.ofNat 64 q, 2, 0⟩
    match fetchedFor c q x bundle n with
    | none => bad
    | some f =>
      if f.guard ≠ g ∧ (pops ∨ g) then bad
      else if g then
        f.faults.foldl (fun c r => addRaise c { r with charge := x, bundle := bundle, slot := n }) c
      else c

/-- What a source delivers in the cycle its bundle issues; an accumulator pop advances its row pointer (R56, R168). -/
def readSource (c : Core) (src : Source) (x bundle n : Nat) : Val × Core :=
  match src with
  | .sreg i => (.scalar (sregOf c i.val), c)
  | .vreg i => (.vector (vregOf c i.val), c)
  | .kreg i => (.mask (kregOf c i.val), c)
  | .pp => (.scalar (packedPreds c), c)
  | .pop q => (((fetchedFor c q.val x bundle n).map (·.val)).getD (.scalar 0), c)
  | .peek q => (((fetchedFor c q.val x bundle n).map (·.val)).getD (.scalar 0), c)
  | .res r => (if isVecPort r then .vector (vresOf c r) else .scalar (resultOf c r), c)
  | .acc t =>
    let p := rowPtrOf c t.val
    (.vector (accRow c t.val p), setRowPtr c t.val ((p + 1) % 128))
  | .gcyc => (.scalar (BitVec.ofNat 64 x), c)
  | .coreidx => (.scalar (BitVec.ofNat 64 c.idx), c)
  | .short i => (.short i, c)
  | .limm24 p => (.limm24 p, c)
  | .limm48 l h => (.limm48 (h ++ l), c)

/-- The phase of a cycle in which a move's arrival takes effect: CT before issue (R146), ty before the other operands
(R95), operands before triggers (R59), pushes in stream order before SQ's configuration (R84, R137), registers last (R56);
FRECV, with FB's operands, before the frames that arrive in its cycle (R236). -/
def arrivalPhase : Instr → Nat
  | .move _ d =>
    match d with
    | .null => phRegister
    | .sreg _ => phRegister
    | .preg _ => phRegister
    | .vreg _ => phRegister
    | .kreg _ => phRegister
    | .port (.ct _) => phCtOperand
    | .port (.vec _ .ty) => phTy
    | .port (.fb _) => phFabric
    | .port _ => phOperand
  | .push q _ => phStream q.val
  | .frecv _ => phFabric + 1
  | i =>
    match dstId i with
    | some d => if d < 64 then phCt else if d / 64 = 10 then phConfig else phTrigger
    | none => phTrigger

/-- Issue a move: check, read the source and put the value in flight (R52, R56, R57). `always`: a compare is delivered
whatever its guard (R57). -/
def launch (i : Instr) (m : Mv) (always : Bool) (s : State) : State :=
  let k := me s
  let c := coreOf s k
  let x := gcycOf s k
  let n := s.cur.slot
  let g := guardOf c m.g
  let c := checkPop c m.src (g || always) x c.curBundle n
  if g || always then
    let (v, c) := readSource c m.src x c.curBundle n
    let a := x + moveLatency n m.src ((dstId i).getD 0)
    postCore (setCore s k c) k a (arrivalPhase i) (.arrive ⟨i, v, g, x, c.curBundle, n, a⟩)
  else setCore s k c

/-- How an immediate is widened at its destination (R95); class C acts as Z. -/
inductive ImmClass where
  | s
  | z
  | f (f : Fmt)
  deriving DecidableEq, Repr

/-- A short immediate under class F: the integer converted by RNE with saturation (R95). -/
def shortFloat (f : Fmt) (i : BitVec 9) : Nat := (roundNum f (.fin false i.toInt 0) 8 0 false).1

/-- A long immediate under class F: a raw pattern (R97). -/
def rawPattern (f : Fmt) (p : Nat) (is24 : Bool) : Nat :=
  if fmtWidth f = 32 then (if is24 then p * 256 else p % 2 ^ 32) else p % 2 ^ fmtWidth f

/-- The 64-bit value delivered to a scalar place (R66, R95, R97). -/
def scalarIn (cls : ImmClass) : Val → Word
  | .scalar w => w
  | .vector v => v.setWidth 64
  | .mask k => k.setWidth 64
  | .short i =>
    match cls with
    | .s => i.signExtend 64
    | .z => i.setWidth 64
    | .f f => BitVec.ofNat 64 (shortFloat f i)
  | .limm24 p =>
    match cls with
    | .s => p.signExtend 64
    | .z => p.setWidth 64
    | .f f => BitVec.ofNat 64 (rawPattern f p.toNat true)
  | .limm48 p =>
    match cls with
    | .s => p.signExtend 64
    | .z => p.setWidth 64
    | .f f => BitVec.ofNat 64 (rawPattern f p.toNat false)

/-- The low `w` bits of a value in every element of a vector. -/
def replicateVec (w : Nat) (x : Nat) : Vec := BitVec.ofNat 2048 (x % 2 ^ w * ((2 ^ 2048 - 1) / (2 ^ w - 1)))

/-- The value delivered to a vector place of element width `w` (R66). -/
def vecIn (cls : ImmClass) (w : Nat) : Val → Vec
  | .vector v => v
  | .mask k => k.setWidth 2048
  | .scalar x => replicateVec w x.toNat
  | .short i => replicateVec w (scalarIn cls (.short i)).toNat
  | .limm24 p => replicateVec w (scalarIn cls (.limm24 p)).toNat
  | .limm48 p => replicateVec w (scalarIn cls (.limm48 p)).toNat

/-- The value delivered to a mask place (R66): bit 63 of a scalar repeated above. -/
def maskIn (cls : ImmClass) : Val → Mask
  | .mask k => k
  | .vector v => v.setWidth 256
  | .scalar x => x.signExtend 256
  | .short i => (scalarIn cls (.short i)).signExtend 256
  | .limm24 p => (scalarIn cls (.limm24 p)).signExtend 256
  | .limm48 p => (scalarIn cls (.limm48 p)).signExtend 256

/-- The format code in a vector unit's ty port. -/
def tyCode (c : Core) (u : VUnit) : Nat := (portOf c (vecBase u + 4)).toNat % 256

/-- Class and element width that ty selects (R95, R66): a reserved code takes Z and 64-bit elements. -/
def tyClass (c : Core) (u : VUnit) : ImmClass × Nat :=
  match fmtOfCode (tyCode c u) with
  | none => (.z, 64)
  | some (.int w true) => (.s, w)
  | some (.int w false) => (.z, w)
  | some .e8 => (.z, 8)
  | some f => (.f f, fmtWidth f)

/-- Class of a vector unit's operand port (R100). -/
def vportClass (c : Core) (u : VUnit) : VPort → ImmClass
  | .a => (tyClass c u).1
  | .b => (tyClass c u).1
  | .c => (tyClass c u).1
  | .k => .s
  | _ => .z

/-- Class of a scalar operand port (R98 to R105). -/
def portClass : OperandPort → ImmClass
  | .saA => .s
  | .saB => .s
  | .saC => .s
  | .sy _ => .s
  | _ => .z

/-- The write a move makes at its arrival (R66, R96). -/
def writeDest (c : Core) (d : Dest) (v : Val) : Core :=
  match d with
  | .null => c
  | .sreg n => setSreg c n.val (scalarIn .s v)
  | .preg n => setPred c n.val ((scalarIn .z v).getLsbD 0)
  | .vreg n => setVreg c n.val (vecIn (.f f32) 32 v)
  | .kreg n => setKreg c n.val (maskIn .s v)
  | .port (.vec u .k) => setKport c (vecBase u + 3) (maskIn .s v)
  | .port (.vec u .sc) => setVport c (vecBase u + 6) (vecIn .z 8 v)
  | .port (.vec u .a) => setVport c (vecBase u) (vecIn (tyClass c u).1 (tyClass c u).2 v)
  | .port (.vec u .b) => setVport c (vecBase u + 1) (vecIn (tyClass c u).1 (tyClass c u).2 v)
  | .port (.vec u .c) => setVport c (vecBase u + 2) (vecIn (tyClass c u).1 (tyClass c u).2 v)
  | .port (.bankData g) => setVport c (bankBase g + 1) (vecIn .z 64 v)
  | .port (.bankCmp g) => setVport c (bankBase g + 2) (vecIn .z 64 v)
  | .port p => setPort c (portId p) (scalarIn (portClass p) v)

/-- Two arrivals at one port in one cycle are a port collision, charged to the later-issued (R64, R65). -/
def collide (c : Core) (id : Nat) (fl : Flight) : Core :=
  match deliveredAt c id fl.arrive with
  | none => c
  | some _ => raiseFor c fl [id] 4 0 0 0

/-- Key under which the triggers of a station are noted. -/
def stationKey (station : Nat) : Nat := 1024 + station

/-- A trigger arrives: two of one station in one cycle collide (R64). -/
def noteTrigger (station : Nat) (c : Core) (fl : Flight) : Core :=
  noteDelivery (collide c (stationKey station) fl) (stationKey station) fl

/-- A move arrives at a port it writes (R64); the null sink and p0 never collide (R54, R64). -/
def noteArrival (c : Core) (id : Nat) (fl : Flight) : Core :=
  if id = 0 ∨ id = 8 then c else noteDelivery (collide c id fl) id fl

/-- Predicates whose writes may combine: both write only 0, or both only 1 (R64). -/
def predClash (k₁ k₂ : Nat) : Bool := !((k₁ == 0 && k₂ == 0) || (k₁ == 1 && k₂ == 1))

/-- A predicate write, present from cycle `x`, checked against the others of that cycle (R64). -/
def notePred (c : Core) (x n kind : Nat) (issue bundle slot : Nat) : Core :=
  if n = 0 then c
  else
    let c' := if c.predDue.any (fun d => decide (d.cycle = x ∧ d.pred = n) && predClash d.kind kind) then
        (let ch := (c.predDue.filter (fun d => decide (d.cycle = x ∧ d.pred = n) && predClash d.kind kind)).foldl
            (fun best d => laterCharge best ⟨x, d.issue, d.bundle, d.slot⟩) (issue, bundle, slot)
         addRaise c ⟨4, ch.1, ch.2.1, ch.2.2, 0, 0, 0⟩)
      else c
    { c' with predDue := (c'.predDue.filter (fun d => decide (x ≤ d.cycle + 2))) ++ [⟨x, n, kind, issue, bundle, slot⟩] }

/-- A trigger: at issue the move is put in flight, at arrival the effect happens (R57, R59). -/
def trigger (i : Instr) (m : Mv) (s : State) (effect : Flight → State → State) : Out :=
  match s.cur.flight with
  | none => .next (launch i m false s)
  | some fl => .next (effect fl (modMe s fun c => noteTrigger ((dstId i).getD 0 / 64) c fl))

/-- A compare trigger: delivered whatever its guard holds (R57). -/
def compareTrigger (i : Instr) (m : Mv) (s : State) (effect : Flight → State → State) : Out :=
  match s.cur.flight with
  | none => .next (launch i m true s)
  | some fl => .next (effect fl (modMe s fun c => noteTrigger ((dstId i).getD 0 / 64) c fl))

/-- FPFLAGS bits set in a conversion's cycle (R145). -/
def addFlags (c : Core) (f : Flags) : Core := { c with flags := c.flags ||| f }

/-- A result that becomes present `lat` cycles from now; two completions of one station in one cycle collide (R62, R64). -/
def complete (s : State) (fl : Flight) (port : ResultPort) (lat : Nat) (v : Vec) (f : Flags) : State :=
  let k := me s
  let due := now s + lat
  let clash := s.agenda.any fun j =>
    match j.core, j.task with
    | some k', .event (.operationComplete _ p _ _) => decide (k' = k ∧ p = port ∧ j.due = due)
    | _, _ => false
  let s := if clash then modMe s fun c => addRaise c ⟨4, fl.issue, fl.bundle, fl.slot, 0, 0, 0⟩ else s
  postCore s k due phDone (.event (.operationComplete k port v f))

/-- A scalar result. -/
def completeWord (s : State) (fl : Flight) (port : ResultPort) (lat : Nat) (w : Word) (f : Flags) : State :=
  complete s fl port lat (w.setWidth 2048) f

/-- A predicate write present `lat` cycles from now (R155). -/
def schedulePred (s : State) (fl : Flight) (lat n : Nat) (kind : Nat) (v : Bool) : State :=
  let x := now s + lat
  let s := modMe s fun c => notePred c x n kind fl.issue fl.bundle fl.slot
  postDeed s (me s) x phDone (.pred (Fin.ofNat 8 n) v)

end Sys2Proof.Machine
end

