-- ==== Sys2Proof/Machine/Flags.lean ====
section
/-! DEFINITION. Flag and predicate computations: the combining types of a compare (R155) and FP32 results with their flags
(R144, R362). -/

namespace Sys2Proof.Machine

/-- The predicate writes of a compare with result `r` under guard value `g`: (predicate, value, kind), `pb` last; of equal
predicates the pb write stands (R155). Kind 0 writes only 0, kind 1 only 1 (R64). -/
def combine (ty pa pb : Nat) (g r : Bool) : List (Nat × Bool × Nat) :=
  let both := fun (x y : Bool) (kd : Nat) => if pa = pb then [(pb, y, kd)] else [(pa, x, kd), (pb, y, kd)]
  match ty with
  | 0 => if g then both r (!r) 2 else []
  | 1 => both (g && r) (g && !r) 2
  | 2 => if g && !r then both false false 0 else []
  | 3 => if g && r then both true true 1 else []
  | 4 => if g && r then both false false 0 else []
  | 5 => if g && !r then both true true 1 else []
  | 6 => if g && r then both true false 2 else []
  | _ => if g && !r then both false true 2 else []

/-- The FP32 value in bits [31:0] (R67). -/
def f32Of (w : Word) : Num := decodeNum f32 (w.toNat % 2 ^ 32)

/-- An FP32 result of an exact value and the flags its operands raised: NaN, or rounded once by RNE (R362). -/
def f32Result (v : Num × Flags) : Word × Flags :=
  let r := roundF32 v.1
  (BitVec.ofNat 64 r.1, v.2 ||| r.2)

def fpAdd (x y : Num) : Word × Flags := f32Result (numAdd x y)
def fpSub (x y : Num) : Word × Flags := f32Result (numAdd x (numNegate y))
def fpMul (x y : Num) : Word × Flags := f32Result (numMul x y)

/-- a·b + c exactly, with the flags of 0 × ∞ and ∞ − ∞ (R362). -/
def numFma (x y z : Num) : Num × Flags :=
  let p := numMul x y
  let q := numAdd p.1 z
  (q.1, p.2 ||| q.2)

def fpFma (x y z : Num) : Word × Flags := f32Result (numFma x y z)

/-- `x` orders below `y` with −0 below +0 (R368). -/
def fpBelow (x y : Num) : Bool := numLt x y || (numEq x y && numNeg x && !numNeg y)

/-- FMIN and FMAX choose an operand unchanged; a NaN operand gives the canonical NaN (R368). -/
def fpChoose (min : Bool) (a b : Word) : Word :=
  let x := f32Of a
  let y := f32Of b
  if x = .nan ∨ y = .nan then 0x7FC00000
  else if fpBelow y x == min then b &&& 0xFFFFFFFF else a &&& 0xFFFFFFFF

/-- FCVT.FI (R367): the integer and the flags. -/
def fpToInt (b : Word) : Word × Flags :=
  let r := roundInt 64 true (f32Of b) 0 0 true
  (BitVec.ofNat 64 r.1, r.2)

/-- FCVT.IF (R367). -/
def intToFp (b : Word) : Word × Flags :=
  let r := roundF32 (.fin false b.toInt 0)
  (BitVec.ofNat 64 r.1, r.2)

/-- FCMP's results (R366): 0 EQ, 1 LT, 2 LE, 3 UN. -/
def fpCompare (op : Nat) (a b : Word) : Bool :=
  let x := f32Of a
  let y := f32Of b
  match op with
  | 0 => numEq x y
  | 1 => numLt x y
  | 2 => numLt x y || numEq x y
  | _ => x == .nan || y == .nan

end Sys2Proof.Machine
end

