-- ==== Sys2Proof/Machine/Scratch.lean ====
section
/-! DEFINITION. Accesses to scratch: checks (R71, R79), the bank groups' limits (R72, R74), writes with their shadow and
watchpoints (R197, R292), tag stamps (R76), foreign writes (R74, R79, R186) and race reports (R199, R201). -/

namespace Sys2Proof.Machine

/-- The bank group of an address (R70). -/
def groupOf (addr : Nat) : Nat := addr / 2 ^ 20

def bankNo : Bank → Nat
  | .a => 0
  | .b => 1
  | .c => 2
  | .d => 3

def bankResult : Bank → ResultPort
  | .a => .bga
  | .b => .bgb
  | .c => .bgc
  | .d => .bgd

/-- The address rule: aligned, inside scratch, every byte in the group (R71). -/
def spanOk (g addr n align : Nat) : Bool :=
  decide (addr % align = 0 ∧ addr < 2 ^ 22 ∧ groupOf addr = g ∧ groupOf (addr + n - 1) = g)

/-- Every region the bytes touch is claimed at cycle `x` (R79, R400). -/
def claimedAt (c : Core) (addr n x : Nat) : Bool :=
  (List.range ((addr + n - 1) / 65536 - addr / 65536 + 1)).all fun i =>
    c.claims.any fun cl => decide (cl.1 = addr / 65536 + i ∧ cl.2 ≤ x)

/-- The sub-banks an access touches (R71). -/
def subBanks (addr n : Nat) : BitVec 16 :=
  (List.range ((n + 31) / 32)).foldl (fun m j => m ||| ((1 : BitVec 16) <<< ((addr / 32 + j) % 16))) 0

/-- An access of `n` bytes at `addr` in cycle `x`, belonging to a bundle. -/
def mkAccess (x addr n kind : Nat) (ch : Nat × Nat × Nat) (mx : Bool) : Access :=
  { cycle := x, group := groupOf addr, banks := subBanks addr n, kind := kind, issue := ch.1, bundle := ch.2.1, slot := ch.2.2
    addr := addr, mx := mx }

/-- Accesses of one group in one cycle exceed its ports: more than two reads or one write (R72). -/
def overPorts (as : List Access) : Bool :=
  decide (2 < (as.filter fun a => a.kind = 0).length) || decide (1 < (as.filter fun a => a.kind = 1).length)

/-- The lowest byte of an access that lies in sub-banks `m`; its first byte if none does. [log 21 DEDUCED] -/
def lowestClash (a : Access) (m : BitVec 16) : Nat :=
  match (List.range 16).find? fun j => (a.banks &&& m).getLsbD ((a.addr / 32 + j) % 16) with
  | some 0 => a.addr
  | some j => (a.addr / 32 + j) * 32
  | none => a.addr

/-- FLTINFO_B of a bank conflict: the other party's agent id and source core (R74). [log 21 DEDUCED] -/
def partyInfo (agent : BitVec 16) (src : Nat) : Word := BitVec.ofNat 64 (agent.toNat + src % 1024 * 2 ^ 32)

/-- The accesses of the same cycle and group, which an access must not exceed or overlap. -/
def peers (c : Core) (a : Access) : List Access :=
  c.accesses.filter fun b => decide (b.cycle = a.cycle ∧ b.group = a.group)

/-- Whether an access conflicts with its peers (R72). [log 21 DEDUCED] -/
def clashes (ps : List Access) (a : Access) : Bool :=
  ps.any (fun b => b.banks &&& a.banks != 0) || overPorts (a :: ps)

/-- The peers that an access conflicts with: those that overlap it, or all of them where only the ports are exceeded (R72). -/
def clashParties (ps : List Access) (a : Access) : List Access :=
  if ps.any (fun b => b.banks &&& a.banks != 0) then ps.filter (fun b => b.banks &&& a.banks != 0) else ps

/-- FLTINFO_A and FLTINFO_B of a conflict of `a` with the parties `hit`: the lowest byte of `a` in a sub-bank they share, `a`
being the access reserved last where two rows meet in one sub-bank, and the first party's class and core (R74). [log 21
DEDUCED] -/
def clashInfo (c : Core) (a : Access) (hit : List Access) : Word × Word :=
  (BitVec.ofNat 64 (lowestClash a (hit.foldl (fun m b => m ||| b.banks) 0)),
    partyInfo (agentId ((hit.head?.map (·.cls)).getD 1) c.idx) c.idx)

/-- A fault of an access in cycle `x` charged to a bundle: one that has yet to issue takes it when it does (R74). [log 21
DEDUCED] -/
def addCharged (c : Core) (x : Nat) (r : Raise) : Core :=
  if x < r.charge then { c with deferred := c.deferred ++ [r] } else addRaise c r

/-- Reserve an access whose cycle is fixed. A conflict between the core's own accesses is charged to the latest-issued bundle
among them (R74); one that involves the matrix unit is settled in its cycle (R175). [log 21 DEDUCED] -/
def reserve (c : Core) (a : Access) : Core :=
  let ps := (peers c a).filter fun b => !b.mx
  let c := if !a.mx ∧ clashes ps a then
      let hit := clashParties ps a
      let ch := hit.foldl (fun best b => laterCharge best ⟨a.cycle, b.issue, b.bundle, b.slot⟩) (a.issue, a.bundle, a.slot)
      addCharged c a.cycle ⟨5, ch.1, ch.2.1, ch.2.2, (clashInfo c a hit).1, (clashInfo c a hit).2, 0⟩
    else c
  { c with accesses := c.accesses ++ [a] }

/-- The bundle and slot that carry the core's own access at `addr` in cycle `x`: a load, a store, a push or a read-modify-write,
all within five cycles of their bundle's issue; an engine's or the matrix unit's access has none (R72, R201). -/
def chargeAt (c : Core) (x addr : Nat) : Option (Nat × Nat × Nat) :=
  (c.accesses.find? fun a => decide (a.cycle = x ∧ a.addr = addr ∧ x ≤ a.issue + 5) && !a.mx).map fun a =>
    (a.issue, a.bundle, a.slot)

/-- Reserve the three cycles of a read-modify-write; whether an ACAS writes is known at its read, and until then its third
cycle only holds the sub-bank (R72, R82, R342). [log 26 DEDUCED] -/
def reserveRmw (c : Core) (arrive addr : Nat) (acas : Bool) (ch : Nat × Nat × Nat) : Core :=
  let c := reserve c (mkAccess (arrive + 1) addr 4 0 ch false)
  let c := reserve c (mkAccess (arrive + 2) addr 4 2 ch false)
  reserve c (mkAccess (arrive + 3) addr 4 (if acas then 2 else 1) ch false)

/-- An ACAS that writes: its write of cycle `x` counts for the group's port (R72, R342). [log 26 DEDUCED] -/
def reserveCas (c : Core) (x addr : Nat) : Core :=
  match c.accesses.find? fun a => decide (a.cycle = x ∧ a.addr = addr ∧ a.kind = 2) && !a.mx with
  | none => c
  | some a => reserve { c with accesses := c.accesses.erase a } { a with kind := 1 }

/-- An access that a foreign write or the matrix unit voided does not perform (R74, R175); `mx`: an access of the unit. -/
def isVoidedFor (mx : Bool) (c : Core) (x addr n : Nat) : Bool :=
  c.voided.any fun v => decide (v.1 = x ∧ v.2.1 = groupOf addr) && v.2.2.1 &&& subBanks addr n != 0 && v.2.2.2 == mx

def isVoided (c : Core) (x addr n : Nat) : Bool := isVoidedFor false c x addr n

/-- Two accesses of a list overlap, one of them the matrix unit's. -/
def unitOverlap : List Access → Option (Access × Access)
  | [] => none
  | a :: as =>
    match as.find? fun b => (a.mx || b.mx) && a.banks &&& b.banks != 0 with
    | some b => some (a, b)
    | none => unitOverlap as

/-- The core's accesses of a group that lose to the matrix unit's: those that overlap one, or all of a kind in excess. -/
def unitLosers (as : List Access) : List Access :=
  let mx := as.filter fun a => a.mx
  (as.filter fun a => !a.mx).filter fun a =>
    mx.any (fun b => a.banks &&& b.banks != 0) ||
    (a.kind == 0 && decide (2 < (as.filter fun b => b.kind = 0).length)) ||
    (a.kind == 1 && decide (1 < (as.filter fun b => b.kind = 1).length))

/-- In cycle `x`, the core's accesses of group `g` that conflict with its matrix unit's do not perform, and the fault is
charged to the bundle issuing then or next (R175). [log 23 DEDUCED] -/
def settleGroup (c : Core) (x g : Nat) : Core :=
  let as := c.accesses.filter fun a => decide (a.cycle = x ∧ a.group = g)
  if as.any (fun a => a.mx) then
    let c' := { c with voided := c.voided ++ (unitLosers as).map fun b => (x, g, b.banks, false) }
    match unitOverlap as with
    | some (a, b) =>
      raiseNow c' x 5 (BitVec.ofNat 64 (lowestClash (if a.mx then b else a) (a.banks &&& b.banks)))
        (partyInfo (agentId 1 c.idx) c.idx) 0
    | none =>
      if overPorts as then
        raiseNow c' x 5 (BitVec.ofNat 64 ((((unitLosers as).head?).map (·.addr)).getD ((as.head?.map (·.addr)).getD 0)))
          (partyInfo (agentId 1 c.idx) c.idx) 0
      else c
  else c

/-- Settle the matrix unit's conflicts of cycle `x` in every group (R175). -/
def settleUnit (c : Core) (x : Nat) : Core := [0, 1, 2, 3].foldl (fun c g => settleGroup c x g) c

/-- Have the matrix unit's accesses of cycle `x` counted and settled in that cycle, once. -/
def postSettle (s : State) (k x : Nat) : State :=
  if s.agenda.any fun j => decide (j.core = some k ∧ j.due = x ∧ j.task = .deed .settle) then s
  else postDeed s k x phSettle .settle

/-- The span a watchpoint covers contains a byte of the write (R291, R292). -/
def watchHit (w : Watch) (addr n wclass : Nat) : Bool :=
  let lg := min (w.ctl.toNat / 4 % 32) 22
  let base := w.base.toNat / 2 ^ lg * 2 ^ lg
  w.ctl.getLsbD 0 && w.ctl.getLsbD (8 + wclass) && decide (addr < base + 2 ^ lg ∧ base < addr + n)

/-- The four watchpoints with their indices. -/
def watches (c : Core) : List (Nat × Watch) := [(0, c.watch0), (1, c.watch1), (2, c.watch2), (3, c.watch3)]

/-- Check the watchpoints against a write in cycle `x` (R292). -/
def checkWatch (c : Core) (x : Nat) (w : ScratchWrite) : Core :=
  let hits := (watches c).filter fun iw => watchHit iw.2 w.addr w.data.length w.wclass
  let stop := hits.find? fun iw => iw.2.ctl.getLsbD 1
  hits.foldl (fun c iw =>
    if stop = some iw then
      raiseNow c x 0x20 (BitVec.ofNat 64 w.addr) (BitVec.ofNat 64 iw.1) (partyInfo w.agent w.src)
    else addRecord c ⟨1, iw.1, w.agent, w.addr, x, w.src, 0, 0, 0, 0⟩) c

/-- The counters of scope die, package and gang that a sector of core `k` is compared with: those of the context `ctx` that owns
its region or page (R198). -/
def ownerGang (s : State) (ctx : Nat) : Gang :=
  match (tget {} s.hub.auth.ctxs ctx).gang with
  | 0 => {}
  | g + 1 => gangOf s g

/-- The home counter of a scope, core `k` being the home core and `ctx` the context that owns the sector (R197, R198). -/
def homeCounter (s : State) (k ctx : Nat) (sc : BitVec 2) : BitVec 8 :=
  let g := ownerGang s ctx
  match sc.toNat with
  | 0 => (coreOf s k).interval
  | 1 => tget 0 g.dieIv (k / 128)
  | 2 => g.pkgIv
  | _ => g.interval

/-- The context that owns the scratch region of an address (R79). -/
def regionOwner (s : State) (k addr : Nat) : Nat := tget 0 (coreOf s k).owners (addr / 65536)

/-- The 256-byte sectors a span touches. -/
def sectorsOf (addr n size : Nat) : List Nat :=
  (List.range ((addr + n - 1) / size - addr / size + 1)).map (addr / size + ·)

/-- Whether a pair of accessor and last writer is one Radish checks (R199). [log 80 DEDUCED] -/
def raceChecked (x w : BitVec 16) : Bool :=
  let u := fun a => agentClass a == 3 || agentClass a == 4 || agentClass a == 6
  w != 0 && x != w && (u x || u w)

/-- A report of Radish at the home core `k`: counted and recorded by MODE; in trap mode a fault of the core `victim` when the
accessor is of class 1 or 5 (R200, R201). `addr` is the scratch address or DRAM sector offset; `ch` is the bundle that carries the
access, where the fault is precise on one. RACECTL and RACECNT are the home core's, whichever core accesses. [log 80 DEDUCED, 98
DESIGN CHOICE] -/
def raceReport (s : State) (k addr : Nat) (x : BitVec 16) (rw : Nat) (sh : Shadow) (untimed : Bool) (victim : Nat)
    (ch : Option (Nat × Nat × Nat)) : State :=
  let mode := (coreOf s k).racectl.toNat
  if mode = 0 then s
  else
    let g := if untimed then 0 else gcycOf s k
    let src := if agentClass sh.writer = 1 then sh.writer.toNat % 4096
      else if agentClass sh.writer = 2 then Config.writerCore sh.writer addr % 1024 else 0
    let s := modCore s k fun c =>
      addRecord { c with racecnt := if c.racecnt = BitVec.allOnes 32 then c.racecnt else c.racecnt + 1 }
        ⟨2, 0, sh.writer, addr, g, src, x, rw, sh.iv, sh.sc⟩
    if mode = 2 ∧ (agentClass x = 1 ∨ agentClass x = 5) then
      modCore s victim fun c =>
        match ch with
        | some p => addRaise c ⟨0x1F, p.1, p.2.1, p.2.2, BitVec.ofNat 64 addr, x.setWidth 64, sh.writer.setWidth 64⟩
        | none => raiseNow c (gcycOf s victim) 0x1F (BitVec.ofNat 64 addr) (x.setWidth 64) (sh.writer.setWidth 64)
    else s

/-- An access of agent `x` to core `k`'s scratch is checked by Radish: 0 a read, 1 a write (R199). -/
def raceScratch (s : State) (k addr n : Nat) (x : BitVec 16) (rw : Nat) (ch : Option (Nat × Nat × Nat)) : State :=
  (sectorsOf addr n 256).foldl (fun s i =>
    let sh := tget {} (coreOf s k).shadow i
    if raceChecked x sh.writer ∧ homeCounter s k (regionOwner s k (i * 256)) sh.sc = sh.iv then
      raceReport s k (i * 256) x rw sh false k ch
    else s) s

/-- A scratch read of core `k` by an engine or its matrix unit is checked by Radish (R199). -/
def raceScratchRead (s : State) (k addr n : Nat) : State := raceScratch s k addr n (agentId 1 (coreOf s k).idx) 0 none

/-- Update the shadow of the sectors a write touches (R197). -/
def shadowWrite (s : State) (k : Nat) (w : ScratchWrite) : State :=
  let iv := homeCounter s k (regionOwner s k w.addr) w.sc
  modCore s k fun c => { c with shadow := (sectorsOf w.addr w.data.length 256).foldl (fun t i =>
    tset {} t i ⟨w.agent, iv, w.sc⟩) c.shadow }

/-- A write performs in core `k`'s scratch: race check, bytes, shadow, watchpoints (R73, R197, R199, R292). -/
def performWrite (s : State) (k : Nat) (w : ScratchWrite) : State :=
  if w.data = [] then s
  else
    let x := gcycOf s k
    let own := w.agent = agentId 1 (coreOf s k).idx
    let s := raceScratch s k w.addr w.data.length w.agent 1 (if own then chargeAt (coreOf s k) x w.addr else none)
    let s := shadowWrite s k w
    modCore s k fun c => checkWatch (putScratch c w.addr w.data) x w

/-- Stamp a tile (R75, R76). -/
def stampTile (s : State) (k tile : Nat) (tag : BitVec 16) : State := modCore s k fun c => setTag c tile tag

/-- The tiles a span touches. -/
def tilesOf (addr n : Nat) : List Nat := if n = 0 then [] else sectorsOf addr n 4096

/-- Two stamps of one tile in one cycle are a bank conflict, charged to the later-issued bundle (R76). -/
def reserveStamp (c : Core) (x tile : Nat) (ch : Nat × Nat × Nat) : Core :=
  let hit := c.stamps.filter fun st => decide (st.cycle = x ∧ st.tile = tile)
  let c := match hit with
    | [] => c
    | _ =>
      let cg := hit.foldl (fun best (st : Stamp) => laterCharge best ⟨x, st.issue, st.bundle, st.slot⟩) ch
      addRaise c ⟨5, cg.1, cg.2.1, cg.2.2, BitVec.ofNat 64 (tile * 4096), partyInfo (agentId 1 c.idx) c.idx, 0⟩
  { c with stamps := c.stamps ++ [⟨x, tile, ch.1, ch.2.1, ch.2.2⟩] }

/-- Schedule a stamp of the core's own at cycle `x` (R76). -/
def scheduleStamp (s : State) (k x tile : Nat) (tag : BitVec 16) (ch : Nat × Nat × Nat) : State :=
  postDeed (modCore s k fun c => reserveStamp c x tile ch) k x phStamp (.stamp tile tag)

/-- A stamp of the core's own in its cycle; one that a foreign stamp meets is not made, and the fault falls on the bundle
issuing then (R76). -/
def ownStamp (s : State) (k tile : Nat) (tag : BitVec 16) : State :=
  let x := gcycOf s k
  let c := coreOf s k
  match c.fstamps.find? fun v => decide (v.1 = x ∧ v.2.1 = tile) with
  | some v => modCore s k fun c => raiseNow c x 5 (BitVec.ofNat 64 (tile * 4096)) v.2.2 0
  | none => stampTile s k tile tag

/-- What a foreign write brings: its bytes, the stamps that fall with it, its source key and whether an XCOPY made it; one of a
suppressed copy takes its slot and moves no bytes (R35). -/
structure Foreign where
  w : ScratchWrite
  stamps : List (Nat × BitVec 16)
  src : Nat
  xcopy : Bool
  moves : Bool := true
  deriving DecidableEq, Repr

/-- Post what a foreign write does to core `k`'s scratch: the bytes and stamps fall where writes and stamps do. -/
def postForeign (s : State) (k phase : Nat) (w : ScratchWrite) (sts : List (Nat × BitVec 16)) : State :=
  post s ⟨.gang (coreOf s k).gang, gcycOf s k, phase, none, .deed (.foreignStore k w sts)⟩

/-- A foreign write's bytes and stamps (R73, R76); a copy of the core to itself writes as the core's own accesses do (R74,
R438). -/
def foreignStore (s : State) (k : Nat) (w : ScratchWrite) (sts : List (Nat × BitVec 16)) : State :=
  let c := coreOf s k
  if w.agent = agentId 1 c.idx then
    if isVoided c (gcycOf s k) w.addr w.data.length then s
    else sts.foldl (fun s st => ownStamp s k st.1 st.2) (performWrite s k w)
  else sts.foldl (fun s st => stampTile s k st.1 st.2) (performWrite s k w)

/-- A foreign write has stamped tile `t` in cycle `x`. -/
def foreignStamped (c : Core) (x t : Nat) : Bool := c.fstamps.any fun v => decide (v.1 = x ∧ v.2.1 = t)

/-- Those stamps of a foreign write that no other foreign write has made in this cycle. [log 23 DEDUCED] -/
def freeStamps (s : State) (k : Nat) (sts : List (Nat × BitVec 16)) : List (Nat × BitVec 16) :=
  sts.filter fun st => !foreignStamped (coreOf s k) (gcycOf s k) st.1

/-- Stamps of a foreign write by `party` stand against the core's own of that cycle; one of a tile that another foreign write
stamps in it is not made, and the core takes 0x05 (R76). [log 23 DEDUCED] -/
def claimStamps (s : State) (k : Nat) (party : Word) (sts : List (Nat × BitVec 16)) : State :=
  let x := gcycOf s k
  let met := sts.filter fun st => foreignStamped (coreOf s k) x st.1
  let s := modCore s k fun c =>
    { c with fstamps := (c.fstamps.filter fun v => decide (x ≤ v.1)) ++ (freeStamps s k sts).map fun st => (x, st.1, party) }
  match met with
  | [] => s
  | st :: _ => modCore s k fun c => raiseNow c x 5 (BitVec.ofNat 64 (st.1 * 4096)) party 0

/-- A foreign write is discarded: its tiles are stamped 0xFFFF after every other stamp of the cycle (R76, R186, R439). [log 23
DEDUCED] -/
def discardForeign (s : State) (k : Nat) (f : Foreign) : State :=
  postForeign s k (phStamp + 1) { f.w with data := [] } ((tilesOf f.w.addr f.w.data.length).map fun t => (t, 0xFFFF))

/-- The foreign accesses of the cycle and group of `a`, as accesses. -/
def foreignPeers (c : Core) (a : Access) : List Access :=
  (c.foreign.filter fun o => decide (o.cycle = a.cycle ∧ o.group = a.group)).map fun o =>
    { cycle := o.cycle, group := o.group, banks := o.banks, kind := o.kind, issue := 0, bundle := 0, slot := 0, addr := o.addr
      mx := false, cls := agentClass o.agent }

/-- Accesses of the core that a foreign access meets: those that overlap it, and where the group's ports are exceeded those of
its kind (R72, R74). -/
def foreignHits (ps others : List Access) (a : Access) : List Access :=
  ps.filter fun b => b.banks &&& a.banks != 0 || (overPorts (a :: (ps ++ others)) && b.kind == a.kind)

/-- Foreign accesses that another one meets (R72, R191). [log 90 DEDUCED] -/
def foreignMeets (ps others : List Access) (a : Access) : List Access :=
  others.filter fun b => b.banks &&& a.banks != 0 || (overPorts (a :: (ps ++ others)) && b.kind == a.kind)

/-- An access whose operation starts in the cycle of its trigger's arrival is known only then: in that cycle it meets the foreign
accesses and the matrix unit's here, and where it conflicts it does not perform (R72, R74, R175). [log 21 DEDUCED] -/
def settleLate (s : State) (k : Nat) (a : Access) : State :=
  let x := gcycOf s k
  let c := coreOf s k
  let os := foreignPeers c a
  let full := overPorts (peers c a ++ os)
  let meets := fun (banks : BitVec 16) (kind : Nat) => banks &&& a.banks != 0 || (full && kind == a.kind)
  let fo := c.foreign.filter fun o => decide (o.cycle = x ∧ o.group = a.group) && meets o.banks o.kind
  let us := (peers c a).filter fun b => b.mx && meets b.banks b.kind
  if a.cycle ≠ x ∨ fo = [] ∧ us = [] then s
  else
    let m := us.foldl (fun m b => m ||| b.banks) (fo.foldl (fun m o => m ||| o.banks) 0)
    let party := match fo with
      | o :: _ => partyInfo o.agent o.core
      | [] => partyInfo (agentId 1 c.idx) c.idx
    modCore s k fun c =>
      raiseNow { c with voided := c.voided ++ [(x, a.group, a.banks, false)] } x 5 (BitVec.ofNat 64 (lowestClash a m)) party 0

/-- A foreign access of core `k`'s scratch in its cycle: the core's own accesses it meets do not perform, but for the matrix
unit's reads, and the core takes 0x05 (R74, R175). Foreign accesses that meet perform, a read with the bytes as they stood, and
the core takes 0x05 too (R186, R191). [log 90 DEDUCED] -/
def foreignAccess (s : State) (k addr n kind : Nat) (agent : BitVec 16) (src key : Nat) (xcopy : Bool) : State :=
  let x := gcycOf s k
  let c := coreOf s k
  let a := mkAccess x addr n kind (x, c.curBundle, 0) false
  let ps := (peers c a).filter fun b => !(xcopy && b.eject)
  let os := foreignPeers c a
  let hit := foreignHits ps os a
  let met := foreignMeets ps os a
  let lost := hit.filter fun b => !(b.mx && b.kind == 0)
  let s := modCore s k fun c =>
    { c with foreign := (c.foreign.filter fun o => decide (x ≤ o.cycle)) ++
      [⟨x, a.group, a.banks, kind, addr, key, agent, src, xcopy⟩] }
  if hit = [] ∧ met = [] then s
  else
    let m := (hit ++ met).foldl (fun m b => m ||| b.banks) 0
    let s := modCore s k fun c =>
      raiseNow { c with voided := c.voided ++ lost.map fun b => (x, b.group, b.banks, b.mx) } x 5
        (BitVec.ofNat 64 (lowestClash a m)) (partyInfo agent src) 0
    -- a unit write that does not perform leaves its tile stamped 0xFFFF (R74, R175)
    (hit.filter fun b => b.mx && b.kind == 1).foldl (fun s b =>
      postForeign s k phStamp ⟨b.addr, [], 0, agent, src, 0⟩ [(b.addr / 4096, 0xFFFF)]) s

/-- A copy's unit takes the target's ejection port in its cycle, whatever becomes of it there (R439). -/
def takeEjection (s : State) (k addr : Nat) (agent : BitVec 16) (src key : Nat) : State :=
  let x := gcycOf s k
  modCore s k fun c =>
    { c with foreign := (c.foreign.filter fun o => decide (x ≤ o.cycle)) ++ [⟨x, groupOf addr, 0, 3, addr, key, agent, src, true⟩] }

/-- The core takes 0x0A for a foreign write into a region that its context has not claimed (R79). -/
def unclaimedFault (s : State) (k addr : Nat) : State :=
  modCore s k fun c => raiseNow c (gcycOf s k) 0x0A (BitVec.ofNat 64 addr) 0 0

/-- A foreign write in its perform cycle (R74, R79, R186): discarded into an unclaimed region, the bare stamps of a poison frame
too; of two in one group the lower source performs. [log 23 DEDUCED] -/
def foreignWrite (s : State) (k : Nat) (f : Foreign) : State :=
  let x := gcycOf s k
  let c := coreOf s k
  let n := f.w.data.length
  let g := groupOf f.w.addr
  let party := partyInfo f.w.agent f.w.src
  if n = 0 then
    if f.stamps.all fun st => claimedAt c (st.1 * 4096) 4096 x then
      postForeign (claimStamps s k party f.stamps) k phStamp f.w (freeStamps s k f.stamps)
    else unclaimedFault s k f.w.addr
  else if claimedAt c f.w.addr n x = false then
    unclaimedFault (if f.xcopy then takeEjection s k f.w.addr f.w.agent f.w.src f.src else s) k f.w.addr
  else if c.foreign.any fun o => decide (o.cycle = x ∧ o.group = g ∧ o.kind = 1) then
    discardForeign (modCore s k fun c => raiseNow c x 5 (BitVec.ofNat 64 f.w.addr) party 0) k f
  else
    let s := foreignAccess s k f.w.addr n 1 f.w.agent f.w.src f.src f.xcopy
    postForeign (claimStamps s k party f.stamps) k phWrite { f.w with data := if f.moves then f.w.data else [] }
      (freeStamps s k f.stamps)

/-- A bank group's checks of a load, store or read-modify-write at its trigger's arrival: address, then claim (R71, R79). -/
def checkBank (c : Core) (fl : Flight) (g : Bank) (addr n align : Nat) : Core :=
  let c := if spanOk (bankNo g) addr n align then c else raiseFor c fl [] 8 0 0 0
  if addr < 2 ^ 22 ∧ claimedAt c addr n fl.arrive = false then raiseFor c fl [] 0x0A (BitVec.ofNat 64 addr) 0 0 else c

/-! Units of an engine command (R187), and the stamps that fall with them (R76). -/

/-- Units of 256 bytes (R187). -/
def unitCount (len : Nat) : Nat := (len + 255) / 256

/-- Bytes of unit `i`. -/
def unitBytes (len i : Nat) : Nat := min 256 (len - 256 * i)

/-- Tiles whose last unit written from `addr` on is unit `i` (R76). -/
def lastTiles (addr len i : Nat) : List Nat :=
  (tilesOf (addr + 256 * i) (unitBytes len i)).filter fun t =>
    !(decide (i + 1 < unitCount len) && decide ((addr + 256 * (i + 1)) / 4096 = t))

/-- Whether a unit read so far that writes into tile `t` was poisoned. -/
def tilePoisoned (m : EngineCmd) (addr t : Nat) : Bool :=
  m.bufs.any fun b => b.2.2 && (tilesOf (addr + 256 * b.1) (unitBytes m.len b.1)).contains t

/-- The tags that fall with unit `i` written from `addr` on: the command's, or 0xFFFF for a tile a poisoned unit writes (R76,
R220). -/
def unitStamps (m : EngineCmd) (addr i : Nat) : List (Nat × BitVec 16) :=
  (lastTiles addr m.len i).map fun t => (t, if tilePoisoned m addr t then 0xFFFF else m.tag)

end Sys2Proof.Machine
end

