-- ==== Sys2Proof/Machine/Bank.lean ====
section
/-! DEFINITION. Loads, stores and read-modify-writes of the bank groups (R81, R82, R342, R373, R410): one meaning for each. -/

namespace Sys2Proof.Machine

/-- The address a bank-group trigger carries (R81). -/
def bankAddr (fl : Flight) : Nat := (scalarIn .z fl.val).toNat

/-- A load of `n` bytes: checked at arrival, read at arrival + 1, present at arrival + 3 (R373). -/
def load (i : Instr) (g : Bank) (m : Mv) (n align : Nat) (s : State) : Out :=
  trigger i m s fun fl s =>
    let a := bankAddr fl
    let s := modMe s fun c => checkBank c fl g a n align
    if spanOk (bankNo g) a n align then
      let s := modMe s fun c => reserve c (mkAccess (fl.arrive + 1) a n 0 (fl.issue, fl.bundle, fl.slot) false)
      postDeed s (me s) (fl.arrive + 1) phRead (.load g a n)
    else s

/-- The bytes a store takes from bgX.data (R81). -/
def storeBytes (c : Core) (g : Bank) (n : Nat) : List Byte := leBytes n (vportOf c (bankBase g + 1)).toNat

/-- A store of `n` bytes: data latched and checked at arrival, written at arrival + 2 (R410). -/
def store (i : Instr) (g : Bank) (m : Mv) (n align : Nat) (s : State) : Out :=
  trigger i m s fun fl s =>
    let a := bankAddr fl
    let s := modMe s fun c => checkBank c fl g a n align
    if spanOk (bankNo g) a n align then
      let s := modMe s fun c => reserve c (mkAccess (fl.arrive + 2) a n 1 (fl.issue, fl.bundle, fl.slot) false)
      let c := myCore s
      postDeed s (me s) (fl.arrive + 2) phWrite (.store ⟨a, storeBytes c g n, 0, agentId 1 c.idx, c.idx, 0⟩)
    else s

/-- The new word of a read-modify-write, whether it is written, and its flags (R342): 0 AADD, 1 AFADD, 2 AMIN, 3 AMINU,
4 AMAX, 5 AMAXU, 6 AAND, 7 AOR, 8 AXCH, 9 ACAS. -/
def atomicOp (op : Nat) (old d e : BitVec 32) : BitVec 32 × Bool × Flags :=
  match op with
  | 0 => (old + d, true, 0)
  | 1 =>
    let r := fpAdd (decodeNum f32 old.toNat) (decodeNum f32 d.toNat)
    (r.1.setWidth 32, true, r.2)
  | 2 => (if d.slt old then d else old, true, 0)
  | 3 => (if d.ult old then d else old, true, 0)
  | 4 => (if old.slt d then d else old, true, 0)
  | 5 => (if old.ult d then d else old, true, 0)
  | 6 => (old &&& d, true, 0)
  | 7 => (old ||| d, true, 0)
  | 8 => (d, true, 0)
  | _ => (d, old == e, 0)

/-- A read-modify-write: checked at arrival, read at + 1, written and its old word present at + 3 (R82, R342). -/
def atomic (i : Instr) (g : Bank) (m : Mv) (op : Nat) (s : State) : Out :=
  trigger i m s fun fl s =>
    let a := bankAddr fl
    let s := modMe s fun c => checkBank c fl g a 4 4
    if spanOk (bankNo g) a 4 4 then
      let s := modMe s fun c => reserveRmw c fl.arrive a (op == 9) (fl.issue, fl.bundle, fl.slot)
      let c := myCore s
      postDeed s (me s) (fl.arrive + 1) phRead
        (.rmwRead g op a ((vportOf c (bankBase g + 1)).setWidth 32) ((vportOf c (bankBase g + 2)).setWidth 32) 0)
    else s

/-- A load's read: the bytes of every write before this cycle, present two cycles later; not performed where a foreign write
meets it (R73, R373). -/
def loadRead (s : State) (k : Nat) (g : Bank) (a n : Nat) : State :=
  let x := gcycOf s k
  let c := coreOf s k
  if isVoided c x a n then s
  else
    let s := raceScratch s k a n (agentId 1 c.idx) 0 (chargeAt c x a)
    postCore s k (x + 2) phDone
      (.event (.operationComplete k (bankResult g) (BitVec.ofNat 2048 (leNat (scratchBytes c a n))) 0))

/-- A write of the core's own in its cycle; not performed where a foreign write meets it (R74). -/
def storeWrite (s : State) (k : Nat) (w : ScratchWrite) : State :=
  if isVoided (coreOf s k) (gcycOf s k) w.addr w.data.length then s else performWrite s k w

/-- The read of a read-modify-write: the old word is present and the new one written two cycles later (R342). [log 26 DEDUCED]
-/
def rmwRead (s : State) (k : Nat) (g : Bank) (op a : Nat) (d e : BitVec 32) (cls : Nat) : State :=
  let x := gcycOf s k
  let c := coreOf s k
  if isVoided c x a 4 then s
  else
    let old := BitVec.ofNat 32 (leNat (scratchBytes c a 4))
    let r := atomicOp op old d e
    let s := raceScratch s k a 4 (agentId 1 c.idx) 0 (chargeAt c x a)
    let s := if op = 9 ∧ r.2.1 then modCore s k fun c => reserveCas c (x + 2) a else s
    let s := postCore s k (x + 2) phDone (.event (.operationComplete k (bankResult g) (old.setWidth 2048) 0))
    postDeed s k (x + 2) phWrite
      (.rmwWrite g ⟨a, if r.2.1 then leBytes 4 r.1.toNat else [], cls, agentId 1 c.idx, c.idx, 0⟩ r.2.2)

/-- The write of a read-modify-write, and its flags; a foreign write into its sub-bank in any of the three cycles leaves it
without effect, its result port and flags included (R145, R342). [log 26 DEDUCED] -/
def rmwWrite (s : State) (k : Nat) (g : Bank) (w : ScratchWrite) (f : Flags) : State :=
  let x := gcycOf s k
  let c := coreOf s k
  if isVoided c x w.addr 4 ∨ isVoided c (x - 1) w.addr 4 then
    modCore s k fun c => { c with vres := tset 0 c.vres (resId (bankResult g)) (tget 0 c.vprev (resId (bankResult g))) }
  else performWrite (modCore s k fun c => addFlags c f) k w

/-- LD.B (R373). -/
def execLdB (g : Bank) (m : Mv) (s : State) : Out := load (.ldB g m) g m 1 1 s

/-- LD.H (R373). -/
def execLdH (g : Bank) (m : Mv) (s : State) : Out := load (.ldH g m) g m 2 2 s

/-- LD.W (R373). -/
def execLdW (g : Bank) (m : Mv) (s : State) : Out := load (.ldW g m) g m 4 4 s

/-- LD.D (R373). -/
def execLdD (g : Bank) (m : Mv) (s : State) : Out := load (.ldD g m) g m 8 8 s

/-- LD.V (R373). -/
def execLdV (g : Bank) (m : Mv) (s : State) : Out := load (.ldV g m) g m 256 32 s

/-- ST.B (R410). -/
def execStB (g : Bank) (m : Mv) (s : State) : Out := store (.stB g m) g m 1 1 s

/-- ST.H (R410). -/
def execStH (g : Bank) (m : Mv) (s : State) : Out := store (.stH g m) g m 2 2 s

/-- ST.W (R410). -/
def execStW (g : Bank) (m : Mv) (s : State) : Out := store (.stW g m) g m 4 4 s

/-- ST.D (R410). -/
def execStD (g : Bank) (m : Mv) (s : State) : Out := store (.stD g m) g m 8 8 s

/-- ST.V (R410). -/
def execStV (g : Bank) (m : Mv) (s : State) : Out := store (.stV g m) g m 256 32 s

/-- AADD (R342). -/
def execAadd (g : Bank) (m : Mv) (s : State) : Out := atomic (.aadd g m) g m 0 s

/-- AFADD (R342). -/
def execAfadd (g : Bank) (m : Mv) (s : State) : Out := atomic (.afadd g m) g m 1 s

/-- AMIN (R342). -/
def execAmin (g : Bank) (m : Mv) (s : State) : Out := atomic (.amin g m) g m 2 s

/-- AMINU (R342). -/
def execAminu (g : Bank) (m : Mv) (s : State) : Out := atomic (.aminu g m) g m 3 s

/-- AMAX (R342). -/
def execAmax (g : Bank) (m : Mv) (s : State) : Out := atomic (.amax g m) g m 4 s

/-- AMAXU (R342). -/
def execAmaxu (g : Bank) (m : Mv) (s : State) : Out := atomic (.amaxu g m) g m 5 s

/-- AAND (R342). -/
def execAand (g : Bank) (m : Mv) (s : State) : Out := atomic (.aand g m) g m 6 s

/-- AOR (R342). -/
def execAor (g : Bank) (m : Mv) (s : State) : Out := atomic (.aor g m) g m 7 s

/-- AXCH (R342). -/
def execAxch (g : Bank) (m : Mv) (s : State) : Out := atomic (.axch g m) g m 8 s

/-- ACAS (R342). -/
def execAcas (g : Bank) (m : Mv) (s : State) : Out := atomic (.acas g m) g m 9 s

end Sys2Proof.Machine
end

