-- ==== Sys2Proof/Machine/Path.lean ====
section
/-! DEFINITION. Control of one core: transfers, the loop engine, and the known path that fetch and stream reads follow
(R146 to R162). Each function changes the core alone. -/

namespace Sys2Proof.Machine

/-- Insert a level so that the list stays ordered by starting, last started first. -/
def insertLevel (c : Core) (n : Nat) : List Nat → List Nat
  | [] => [n]
  | m :: ms => if (loopOf c m).order < (loopOf c n).order then n :: m :: ms else m :: insertLevel c n ms

/-- The active levels, last started first. -/
def activeLevels (c : Core) : List Nat :=
  ([0, 1, 2, 3].filter fun n => (loopOf c n).active).foldr (insertLevel c) []

/-- Level `m` ends: no iteration start of it is pending, and it is parked no more (R159, R162). -/
def clearLevel (c : Core) (m : Nat) : Core :=
  { setLoop c m { loopOf c m with active := false, parked := false } with
    starts := c.starts.filter (· ≠ m)
    waits := if c.waits.park.any (fun n => n.val == m) then { c.waits with park := none } else c.waits }

/-- End the active levels that satisfy `p`. [log 76 DEDUCED] -/
def endWhere (c : Core) (p : Loop → Bool) : Core :=
  [0, 1, 2, 3].foldl (fun c m => if (loopOf c m).active && p (loopOf c m) then clearLevel c m else c) c

/-- End level `n` and every level of its link depth started after it; levels of another link depth are not affected (R159,
R372). -/
def endFrom (c : Core) (n : Nat) : Core :=
  let o := (loopOf c n).order
  let d := (loopOf c n).depth
  endWhere c fun l => decide (o ≤ l.order ∧ l.depth = d)

/-- A taken BR or BRT at link depth D whose target lies outside a level's body ends it and all later ones (R159). -/
def endOutside (c : Core) (target : Nat) : Core :=
  let hit := (activeLevels c).filter fun n =>
    let l := loopOf c n
    decide (l.depth = c.links.length) && !(decide (l.first ≤ target) && decide (target ≤ l.last))
  match hit.getLast? with
  | none => c
  | some n => endFrom c n

/-- A fetch fault raised instead of issuing at `a` (R151, R153). [log 25 DEDUCED] -/
def raiseFetch (c : Core) (a target : Nat) (fl : Flight) (entry : Nat) : Core :=
  addRaise c ⟨0x10, a, target, fl.slot, BitVec.ofNat 64 fl.bundle, BitVec.ofNat 64 entry, 0⟩

/-- Whether the bundle at `n` or the one after it cannot be fetched (R151). [log 25 DEDUCED] -/
def unfetchable (c : Core) (n : Nat) : Bool :=
  decide (16384 ≤ n) || c.badBundles.contains n || c.badBundles.contains (n + 1)

/-- Go to `target`: it is the next bundle to issue (R146). [log 25 DEDUCED] -/
def goTo (c : Core) (target : Nat) (bufs : List (Nat × BitVec 192)) : Core :=
  { c with pc := target, buffered := bufs }

/-- The transfer to a target-buffer entry, its fetch checked (R149, R151). -/
def transferTo (c : Core) (fl : Flight) (t : Nat) (ends : Bool) : Core :=
  let e := targetOf c t
  let target := e.addr.toNat
  let c := if ends then endOutside c target else c
  if 16384 ≤ target ∨ e.bad then raiseFetch c fl.arrive target fl t
  else goTo c target [(target, e.buf0), (target + 1, e.buf1)]

/-- Cycles since an entry's preparation. -/
def sincePrep (c : Core) (t a : Nat) : Int := (a : Int) - (targetOf c t).prep

/-- `BR` at its arrival (R149, R150). -/
def ctBr (fl : Flight) (c : Core) : Core :=
  let t := (scalarIn .z fl.val).toNat % 8
  if sincePrep c t fl.arrive < 6 then
    raiseFor c fl [] 0x0F (BitVec.ofNat 64 t) (BitVec.ofInt 64 (sincePrep c t fl.arrive)) 0
  else transferTo c fl t true

/-- Test `j` of a `BRT` descriptor (R153). -/
def brtTest (c : Core) (d : Word) (j : Nat) : Bool :=
  predOf c (d.toNat / 2 ^ (8 + 4 * j) % 8) != d.getLsbD (8 + 4 * j + 3)

/-- The offset k that a `BRT` descriptor selects (R153). -/
def brtSelect (c : Core) (d : Word) : Nat :=
  if d.getLsbD 0 then
    (if brtTest c d 0 then 2 + (if brtTest c d 2 then 1 else 0) else (if brtTest c d 1 then 1 else 0))
  else
    let n := d.toNat / 2 % 4 + 1
    ((List.range n).find? fun j => brtTest c d j).getD n

/-- `BRT` at its arrival: its checks are raised there, its bundle keeping its effects (R153). One that arrives in the cycle in
which F would issue tests the stage predicates as they stand, those of the iteration before. [log 97 DEDUCED] -/
def ctBrt (fl : Flight) (c : Core) : Core :=
  let t := ((scalarIn .z fl.val).toNat % 8 + brtSelect c (portOf c 1)) % 8
  if sincePrep c t fl.arrive < 6 then
    addRaise c ⟨0x0F, fl.arrive, fl.bundle, fl.slot, BitVec.ofNat 64 t, BitVec.ofInt 64 (sincePrep c t fl.arrive), 0⟩
  else transferTo c fl t true

/-- `CALL` at its arrival: both of its checks are made (R154, R287). -/
def ctCall (fl : Flight) (c : Core) : Core :=
  let t := (scalarIn .z fl.val).toNat % 8
  let full := decide (16 ≤ c.links.length)
  let soon := decide (sincePrep c t fl.arrive < 6)
  if full || soon then
    let c := if soon then
        raiseFor c fl [] 0x0F (BitVec.ofNat 64 t) (BitVec.ofInt 64 (sincePrep c t fl.arrive)) 0
      else c
    if full then raiseFor c fl [] 0x11 0 1 0 else c
  else transferTo { c with links := { ret := c.pc, since := fl.arrive } :: c.links } fl t false

/-- The levels whose link depth exceeds the depth end (R159). -/
def endDeeper (c : Core) (depth : Nat) : Core := endWhere c fun l => decide (depth < l.depth)

/-- The entry that a pop exposes became top in that cycle (R154). -/
def popLink (rest : List Link) (a : Nat) : List Link :=
  match rest with
  | [] => []
  | l :: ls => { ret := l.ret, since := a } :: ls

/-- `RET` at its arrival (R154, R402). [log 25 DEDUCED] -/
def ctRet (fl : Flight) (c : Core) : Core :=
  match c.links with
  | [] => raiseFor c fl [] 0x11 0 2 0
  | top :: rest =>
    if fl.arrive < top.since + 6 then
      raiseFor c fl [] 0x0F 8 (BitVec.ofInt 64 ((fl.arrive : Int) - top.since)) 0
    else
      if 16384 ≤ top.ret ∨ top.bad then raiseFetch c fl.arrive top.ret fl 8
      else goTo (endDeeper { c with links := popLink rest fl.arrive } rest.length) top.ret
        [(top.ret, top.buf0), (top.ret + 1, top.buf1)]

/-- Stage predicate `s` of a pipelined level in iteration `j` (R156, R162). -/
def stagePred (l : Loop) (j s : Nat) : Bool := decide (l.origin + s ≤ j ∧ j - s < l.trips)

/-- No stage of the level holds a source iteration: a draining level parks here (R162). -/
def stagesIdle (l : Loop) (j : Nat) : Bool := (List.range l.stages).all fun s => !stagePred l j s

/-- Start iteration `j` of level `n`; F issues next unless the level parks (R156, R158, R162). A notice that finds a pipelined
level in its epilogue takes effect with N itself, as no source iteration is left to stop (R163). [log 97 DEDUCED] -/
def startIter (c : Core) (n j : Nat) : Core :=
  let l := { loopOf c n with iter := j }
  let l := if l.notice ∧ l.pipe ∧ !l.drain then
      { l with drain := true, fullTrips := l.trips, trips := min j l.trips }
    else if l.notice ∧ !l.pipe then { l with drain := true }
    else l
  let parks := l.drain && (!l.pipe || stagesIdle l j)
  let c := { setLoop c n l with starts := c.starts.filter (· ≠ n) ++ [n], pc := l.first }
  if parks then { c with waits := { c.waits with park := some (Fin.ofNat 4 n) } } else c

/-- ct.r and the stage predicates of level `n`'s iteration, present from cycle `x` (R157); a collision of the shift is charged
with the bundle of the level's trigger (R65). [log 97 DEDUCED] -/
def applyStart (x : Nat) (c : Core) (n : Nat) : Core :=
  let l := loopOf c n
  let c := setResult c .ct (BitVec.ofNat 2048 (n * 2 ^ 32 + l.iter))
  if l.pipe then
    (List.range l.stages).foldl (fun c s =>
      setPred (notePred c x (4 + s) 2 l.issue l.bundle l.slot) (4 + s) (stagePred l l.iter s)) c
  else c

/-- The pending iteration starts that take effect as a bundle issues: those of levels of the present link depth, so that a
called routine sees the previous iteration's values (R157). Where a branch inside the body keeps F from issuing they take
effect at the level's next bundle. [log 97 DEDUCED] -/
def applyStarts (c : Core) (x : Nat) : Core :=
  let due := c.starts.filter fun n => decide ((loopOf c n).depth = c.links.length)
  { due.foldl (applyStart x) c with starts := c.starts.filter fun n => decide ((loopOf c n).depth ≠ c.links.length) }

/-- The loop-range subcode that the operands of a LOOP or LOOPP meet, 0 for none (R156). [log 33 DEDUCED] -/
def loopFault (c : Core) (n : Nat) (pipe : Bool) : Nat :=
  let N := (portOf c 1).toNat
  let E := (portOf c 2).toNat % 2 ^ 32
  let S := (portOf c 3).toNat % 8
  let F := c.pc
  if 2 ^ 32 - 1 < N then 1
  else if E < F ∨ 16383 < E then 2
  else if (loopOf c n).active then 3
  else if (activeLevels c).any fun m =>
      let l := loopOf c m
      decide (l.depth = c.links.length) && !(decide (l.first ≤ F) && decide (E ≤ l.last)) then 4
  else if pipe ∧ (S = 0 ∨ 4 < S ∨ (activeLevels c).any (fun m => (loopOf c m).pipe) ∨ 2 ^ 32 - 1 < N + S - 1) then 5
  else 0

/-- The operand ports that the check of a loop-range subcode reads (R156, R460). -/
def loopReads (c : Core) (f : Nat) : List Nat :=
  let S := (portOf c 3).toNat % 8
  match f with
  | 1 => [1]
  | 2 | 4 => [2]
  | 5 => if S = 0 ∨ 4 < S then [3] else if (activeLevels c).any fun m => (loopOf c m).pipe then [] else [1, 3]
  | _ => []

/-- `LOOP` or `LOOPP` at its arrival (R156). [log 91 DEDUCED] -/
def ctLoop (n : Nat) (pipe : Bool) (fl : Flight) (c : Core) : Core :=
  let N := (portOf c 1).toNat
  let E := (portOf c 2).toNat % 2 ^ 32
  let S := if pipe then (portOf c 3).toNat % 8 else 1
  let f := loopFault c n pipe
  if f ≠ 0 then raiseFor c fl (loopReads c f) 0x12 (portOf c 1) (BitVec.ofNat 64 f) 0
  else if N = 0 then
    if unfetchable c (E + 1) then raiseFetch c fl.arrive (E + 1) fl 9 else goTo c (E + 1) []
  else
    let l : Loop := { active := true, first := c.pc, last := E, depth := c.links.length, iter := 0, total := N + S - 1,
                      pipe := pipe, stages := S, trips := N, order := c.loopSeq + 1, issue := fl.issue, bundle := fl.bundle,
                      slot := fl.slot, exit0 := bundleAt c (E + 1), exit1 := bundleAt c (E + 2),
                      exitBad := unfetchable c (E + 1) }
    startIter { setLoop c n l with loopSeq := c.loopSeq + 1 } n 0

/-- `LBRK` at its arrival: E + 1 issues as it was prefetched when the level started (R159, R372). [log 91 DEDUCED] -/
def ctLbrk (n : Nat) (fl : Flight) (c : Core) : Core :=
  let l := loopOf c n
  if l.active then
    let c := endFrom c n
    if l.exitBad then raiseFetch c fl.arrive (l.last + 1) fl 9
    else goTo c (l.last + 1) [(l.last + 1, l.exit0), (l.last + 2, l.exit1)]
  else c

/-- `EXIT`'s effect on the core alone: issue stops, loop levels end, the link stack empties (R361). -/
def ctExit (fl : Flight) (c : Core) : Core :=
  { endWhere c (fun _ => true) with
    running := false, exitAt := some fl.arrive, links := [], starts := [], wdogHeld := fl.arrive - c.wdogBase, waits := {} }

/-- `RESYNC`'s effect on the core alone but for the interval, which advances when the cycle's accesses have been checked (R37,
R78, R199, R401). -/
def ctResync (fl : Flight) (c : Core) : Core :=
  { c with waits := { c.waits with resync := some none }, poison := false, suppress := false, wdogBase := fl.arrive }

/-- `BRP` at its arrival (R148). -/
def ctBrp (fl : Flight) (c : Core) : Core :=
  setTarget c ((scalarIn .z fl.val).toNat % 8) { addr := (portOf c 1).setWidth 32, prep := fl.arrive }

/-- The end step of level `n`: the next iteration, or the level's end; `true` when it ended (R158). [log 76 DEDUCED] -/
def endStep (c : Core) (n : Nat) : Core × Bool :=
  let l := loopOf c n
  if l.iter + 1 < l.total then (startIter c n (l.iter + 1), false)
  else (setLoop c n { l with active := false }, true)

/-- The level whose end step comes first when bundle `b` issues: the last started active level at the present link depth whose
end is `b` (R158). [log 76 DEDUCED] -/
def endLevel (c : Core) (b : Nat) : Option Nat :=
  (activeLevels c).find? fun n => decide ((loopOf c n).last = b ∧ (loopOf c n).depth = c.links.length)

/-- All end steps of the cycle in which bundle `b` issues (R158). -/
def endSteps : Nat → Core → Nat → Core
  | 0, c, _ => c
  | fuel + 1, c, b =>
    match endLevel c b with
    | none => c
    | some n =>
      match endStep c n with
      | (c, true) => endSteps fuel c b
      | (c, false) => c

/-- No wait keeps a bundle from issuing at `x` (R42). -/
def Waits.over (w : Waits) (x : Nat) : Bool :=
  w.waitt.all (fun t => decide (t ≤ x)) && w.resync.all (fun r => r.any fun t => decide (t ≤ x)) &&
    w.barriers.all (fun b => b.resume.any fun t => decide (t ≤ x)) && w.park.isNone

/-- Whether a bundle issues at `x` if nothing more changes the path. -/
def canIssue (c : Core) (x : Nat) : Bool :=
  c.running && c.frozenAt.isNone && decide (c.nextIssue ≤ x) && c.waits.over x

/-- A control trigger's effect on its own core, as the known path foresees it. -/
def ctLocal (fl : Flight) (c : Core) : Core :=
  match fl.instr with
  | .move _ d => writeDest c d fl.val
  | .brp _ => ctBrp fl c
  | .br _ => ctBr fl c
  | .brt _ => ctBrt fl c
  | .call _ => ctCall fl c
  | .ret _ => ctRet fl c
  | .loop n _ => ctLoop n.val false fl c
  | .loopp n _ => ctLoop n.val true fl c
  | .lbrk n _ => ctLbrk n.val fl c
  | .resync _ => ctResync fl c
  | .exit _ => ctExit fl c
  | _ => c

/-- Leave a park after a switch-in or an ABORT: a LOOP level restarts at its parked iteration, a LOOPP level as if it had
arrived with the remaining trips (R162). -/
def leavePark (c : Core) : Core :=
  match c.waits.park with
  | some n =>
    let l := loopOf c n.val
    let l := if l.pipe then
        { l with trips := l.fullTrips, origin := l.trips, iter := l.trips, drain := false, notice := false, parked := false }
      else { l with drain := false, notice := false, parked := false }
    { setLoop c n.val l with waits := { c.waits with park := none } }
  | none => c

end Sys2Proof.Machine
end

