-- ==== Sys2Proof/Machine/Stream.lean ====
section
/-! DEFINITION. Streams: shapes and items (R83 to R88), the read ahead of a pop, the push, and SQ's configuration triggers
(R403 to R406). -/

namespace Sys2Proof.Machine

def strMem (q : Stream) : Nat := q.fmt.toNat % 256
def strReg (q : Stream) : Nat := q.fmt.toNat / 256 % 256
def strRm (q : Stream) : BitVec 4 := BitVec.ofNat 4 (q.fmt.toNat / 2 ^ 16)
def strScalar (q : Stream) : Bool := q.fmt.getLsbD 20
def strTagMode (q : Stream) : Nat := q.fmt.toNat / 2 ^ 21 % 4
def strTagInc (q : Stream) : Bool := q.fmt.getLsbD 23
def strScaled (q : Stream) : Bool := q.fmt.getLsbD 24
def strPush (q : Stream) : Bool := q.fmt.getLsbD 25

def shapeCount (w : Word) : Nat := w.toNat % 2 ^ 32
def shapeStride (w : Word) : Int := (w.extractLsb' 32 32).toInt

/-- Items of a stream (R85). -/
def strTotal (q : Stream) : Nat := shapeCount q.shape0 * shapeCount q.shape1 * shapeCount q.shape2

/-- Elements of an item: one for SCALAR, else as many as fill 2,048 bits on both sides (R85). -/
def strElems (q : Stream) : Nat :=
  if strScalar q then 1
  else
    match fmtOfCode (strReg q), fmtOfCode (strMem q) with
    | some r, some m => min (2048 / fmtWidth r) (2048 / fmtWidth m)
    | _, _ => 1

def fmtOf (code : Nat) : Fmt := (fmtOfCode code).getD f32

/-- Bytes of an item in scratch (R85). -/
def strBytes (q : Stream) : Nat := strElems q * fmtWidth (fmtOf (strMem q)) / 8

/-- The address of item `p`, and its scales' (R85). -/
def itemAddr (q : Stream) (p : Nat) : Int :=
  let c0 := shapeCount q.shape0
  let c1 := shapeCount q.shape1
  q.base + (p % c0 : Nat) * shapeStride q.shape0 + (p / c0 % c1 : Nat) * shapeStride q.shape1 +
    (p / (c0 * c1) : Nat) * shapeStride q.shape2

def scaleAddr (q : Stream) (p : Nat) : Int := (q.sstr.toNat % 2 ^ 22 : Nat) + p * shapeStride q.sstr

/-- An item or scale address lies aligned in one bank group (R71, R85). -/
def placeOk (a : Int) (g n align : Nat) : Bool := decide (0 ≤ a) && spanOk g a.toNat n align

/-- An item the stream is about to read or write: its faults by code with FLTINFO, addresses, tile entry and the expected
tag it meets. -/
structure ItemPlan where
  addr : Nat
  saddr : Nat
  n : Nat
  sn : Nat
  entry : Bool
  exp : BitVec 16
  overrun : Nat
  badAddr : Option Nat
  deriving DecidableEq, Repr

/-- Expected tag after a tile entry that is not the first (R77). -/
def nextTag (t : BitVec 16) : BitVec 16 := BitVec.ofNat 16 ((t.toNat + 1) % 0xFFFF)

/-- The overrun subcode: 3 not OPEN, 4 wrong direction, 1 at the end, in that order (R88, R406). -/
def overrunCode (q : Stream) (push : Bool) : Nat :=
  if q.mode ≠ .opened then 3 else if strPush q ≠ push then 4 else if strTotal q ≤ q.pos then 1 else 0

/-- The next item of a stream, `n` bytes with `sn` scale bytes at the alignments given (R85, R173). -/
def planItem (q : Stream) (push : Bool) (n sn align salign : Nat) : ItemPlan :=
  let a := itemAddr q q.pos
  let sa := scaleAddr q q.pos
  let okA := placeOk a (groupOf q.base) n align
  let okS := sn = 0 || placeOk sa (groupOf (q.sstr.toNat % 2 ^ 22)) sn salign
  let tile := a.toNat / 4096
  let entry := q.entry || q.tile != some tile
  ⟨a.toNat, sa.toNat, n, sn, entry, if entry ∧ q.entered ∧ strTagInc q then nextTag q.exp else q.exp, overrunCode q push,
    if !okA then some (BitVec.ofInt 64 a).toNat else if !okS then some (BitVec.ofInt 64 sa).toNat else none⟩

/-- The plan of a core's pop, peek or push: an item of the stream's own size, its scales one byte for eight elements. -/
def planOwn (q : Stream) (push : Bool) : ItemPlan :=
  let sn := if strScaled q then strElems q / 8 else 0
  planItem q push (strBytes q) sn (strBytes q) sn

/-- The stream after the item's tile is entered and, for a pop or push, the position advanced (R77, R86). A peek's read enters
the tile as a pop's does, so that the pop after it is not checked again. [log 24 DEDUCED] -/
def advance (q : Stream) (pl : ItemPlan) (moves : Bool) : Stream :=
  { q with exp := pl.exp, entry := false, entered := true, tile := some (pl.addr / 4096),
           pos := if moves then q.pos + 1 else q.pos }

/-- One draw of SQ's generator, where the rounding control asks for it (R137). [log 27 DEDUCED] -/
def drawIf (rm : BitVec 4) (g : BitVec 32) : Nat × BitVec 32 :=
  if rm.getLsbD 2 then (drawOf (xorshift g), xorshift g) else (0, g)

/-- Convert elements in ascending order with a function of element and draw, threading the generator. -/
def convList {α : Type} (f : α → Nat → Nat × Flags) (rm : BitVec 4) : List α → BitVec 32 → List Nat × Flags × BitVec 32
  | [], g => ([], 0, g)
  | x :: xs, g =>
    let (r, g) := drawIf rm g
    let (y, fl) := f x r
    let (ys, fs, g) := convList f rm xs g
    (y :: ys, fl ||| fs, g)

/-- A value times the E8 scale `e`: NaN for 0xFF (R87, R127). -/
def scaleBy (x : Num) (e : Nat) : Num :=
  if e = 255 then .nan
  else
    match x with
    | .fin n m k => .fin n m (k + ((e : Int) - 127))
    | v => v

/-- The pop conversion of R87: item bytes and scales to delivered elements. -/
def popConvert (q : Stream) (item scales : List Byte) (g : BitVec 32) : List Nat × Flags × BitVec 32 :=
  let mf := fmtOf (strMem q)
  let rf := fmtOf (strReg q)
  let n := strElems q
  let xs := elems (fmtWidth mf) n (leNat item)
  if strMem q = strReg q ∧ !strScaled q then (xs, 0, g)
  else if strScaled q then
    convList (fun (ix : Nat × Nat) r =>
      roundNum rf (scaleBy (decodeNum mf ix.2) ((scales.getD (ix.1 / 8) 0).toNat)) (strRm q) r) (strRm q)
      ((List.range n).zip xs) g
  else convList (fun x r => convert mf rf x (strRm q) r) (strRm q) xs g

/-- The value a pop delivers (R85). -/
def popValue (q : Stream) (xs : List Nat) : Val :=
  let w := fmtWidth (fmtOf (strReg q))
  if strScalar q then .scalar (BitVec.ofNat 64 (xs.headD 0)) else .vector (packVec w xs)

/-- `x * 2^k` on an exact value. -/
def shiftNum (x : Num) (k : Int) : Num :=
  match x with
  | .fin n m e => .fin n m (e + k)
  | v => v

/-- Whether `|x| * 2^(127 − e)` fits the format. -/
def fitsScale (mf : Fmt) (amax : Num) (e : Nat) : Bool := !numLt (maxFinite mf) (shiftNum amax (127 - (e : Int)))

/-- The block scale of R87: 0xFF for a NaN, 127 for zeros, the least e that fits, 254 if none does. -/
def blockScale (mf : Fmt) (xs : List Num) : Nat :=
  if xs.any (· == .nan) then 255
  else
    let amax := xs.foldl (fun m x => if numLt m (numAbs x) then numAbs x else m) (.fin false 0 0)
    if numEq amax (.fin false 0 0) then 127
    else ((List.range 255).find? fun e => fitsScale mf amax e).getD 254

/-- Element divided by its block's scale; a NaN scale makes it NaN (R87). -/
def unscale (x : Num) (sc : Nat) : Num := if sc = 255 then .nan else shiftNum x (127 - (sc : Int))

/-- The push conversion of R87: taken elements to item bytes and scales. -/
def pushConvert (q : Stream) (xs : List Nat) (g : BitVec 32) : List Nat × List Nat × Flags × BitVec 32 :=
  let mf := fmtOf (strMem q)
  let rf := fmtOf (strReg q)
  if strScaled q then
    let nums := xs.map (decodeNum rf)
    let scales := (List.range (xs.length / 8)).map fun k => blockScale mf ((nums.drop (8 * k)).take 8)
    let (ys, f, g) := convList (fun (ix : Nat × Num) r =>
      roundNum mf (unscale ix.2 (scales.getD (ix.1 / 8) 127)) (strRm q) r) (strRm q) ((List.range nums.length).zip nums) g
    (ys, scales, f, g)
  else if strMem q = strReg q then (xs, [], 0, g)
  else
    let (ys, f, g) := convList (fun x r => convert rf mf x (strRm q) r) (strRm q) xs g
    (ys, [], f, g)

/-- The moves of a bundle that pop or peek: slot, stream, pops, guard, and whether a compare carries it. -/
def popMoves (w : BitVec 192) : List (Nat × Nat × Bool × Guard × Bool) :=
  (decodeBundle w).filterMap fun sl =>
    match sl.2 with
    | .ok i =>
      match moveOf i with
      | some m => (streamSource m.src).map fun q => (sl.1, q.1, q.2, m.g, match i with
          | .cmpEq _ | .cmpNe _ | .cmpLt _ | .cmpLe _ | .cmpLtu _ | .cmpLeu _ => true
          | .fcmpEq _ | .fcmpLt _ | .fcmpLe _ | .fcmpUn _ => true
          | _ => false)
      | none => none
    | .error _ => none

/-- The guard as the stream unit decides it at c − 4: the predicates present, but the loop engine's values for the stage
predicates of an active pipelined level (R86). [log 24 DEDUCED] -/
def earlyGuard (c ahead : Core) (g : Guard) : Bool :=
  let n := g.idx.val
  let staged := (activeLevels ahead).any fun m =>
    let l := loopOf ahead m
    l.pipe && decide (4 ≤ n ∧ n < 4 + l.stages)
  (if staged then predOf ahead n else predOf c n) != g.inv

/-- The scratch reads of a pop or peek (R72). -/
def popAccesses (pl : ItemPlan) (x i bundle : Nat) : List Access :=
  if pl.overrun = 0 ∧ pl.badAddr = none then
    mkAccess x pl.addr pl.n 0 (i, bundle, 0) false ::
      (if pl.sn = 0 then [] else [mkAccess x pl.saddr pl.sn 0 (i, bundle, 0) false])
  else []

/-- Reserve the scratch reads of the pops and peeks of the bundle that issues at `i` (R72). -/
def reservePops (c : Core) (x i bundle : Nat) (qs : List Nat) : Core :=
  qs.foldl (fun c q => { c with accesses := c.accesses ++ popAccesses (planOwn (streamOf c q) false) x i bundle }) c

/-- The conflicts of a pop's reads with the core's other accesses, charged to the popping bundle, the latest issued (R74). -/
def popClashes (c : Core) (pl : ItemPlan) (x i bundle slot : Nat) : List Raise :=
  (popAccesses pl x i bundle).filterMap fun a =>
    let ps := (peers { c with accesses := c.accesses.erase a } a).filter fun b => !b.mx
    if clashes ps a then
      let info := clashInfo c a (clashParties ps a)
      some ⟨5, i, bundle, slot, info.1, info.2, 0⟩
    else none

/-- The faults of one pop read at cycle `x` (R77, R79, R85, R88), charged to its bundle. [log 34 DEDUCED] -/
def popFaults (c : Core) (q : Nat) (st : Stream) (pl : ItemPlan) (x i bundle slot : Nat) : List Raise :=
  let mk := fun code a b d => (⟨code, i, bundle, slot, BitVec.ofNat 64 a, BitVec.ofNat 64 b, BitVec.ofNat 64 d⟩ : Raise)
  if pl.overrun ≠ 0 then [mk 7 q pl.overrun 0]
  else
    match pl.badAddr with
    | some a => [mk 8 a 0 0]
    | none =>
      let tile := pl.addr / 4096
      let tag := tagOf c tile
      let unclaimed := if claimedAt c pl.addr pl.n x ∧ (pl.sn = 0 ∨ claimedAt c pl.saddr pl.sn x) then []
        else [mk 0x0A (if claimedAt c pl.addr pl.n x then pl.saddr else pl.addr) 0 0]
      let tagged := if pl.entry ∧ strTagMode st ≠ 0 ∧ tag ≠ pl.exp then
          (if tag = 0xFFFF then (if strTagMode st = 1 then [mk 0x1A (tile * 4096) 0xFFFF pl.exp.toNat] else [])
           else [mk 6 (tile * 4096) tag.toNat pl.exp.toNat])
        else []
      unclaimed ++ tagged

/-- A CARRY read of a poisoned tile sets the poison latch; the setting read places one record (R77, R78). -/
def carryPoison (c : Core) (q : Nat) (st : Stream) (pl : ItemPlan) (x : Nat) : Core :=
  if pl.entry ∧ strTagMode st = 2 ∧ tagOf c (pl.addr / 4096) = 0xFFFF ∧ pl.exp ≠ 0xFFFF ∧ !c.poison then
    addRecord { c with poison := true } ⟨3, q, 0, pl.addr, x, 0, 0, 0, 0, 0⟩
  else c

/-- `STREAM_POP_READ`: at cycle `x` the stream unit reads the item of stream `q` for the bundle that issues at `i`, for each of
its pops and peeks of `q`, `moves` (R86); a read that a foreign write or the matrix unit meets does not perform (R74, R175).
[log 34 DEDUCED] -/
def popRead (s : State) (k q x i bundle : Nat) (moves : List (Nat × Bool × Bool)) : State :=
  let c := coreOf s k
  let st := streamOf c q
  let reads := moves.any fun m => m.2.2
  let pops := moves.any fun m => m.2.1 && m.2.2
  let pl := planOwn st false
  let slot := (moves.head?.map (·.1)).getD 0
  let faults := popClashes c pl x i bundle slot ++ popFaults c q st pl x i bundle slot
  let void := isVoided c x pl.addr pl.n || (decide (pl.sn ≠ 0) && isVoided c x pl.saddr pl.sn)
  if !reads then
    modCore s k fun c => { c with fetched := c.fetched ++ moves.map fun m =>
      ⟨q, i, bundle, m.1, false, m.2.1, .scalar 0, st, []⟩ }
  else if pl.overrun = 0 ∧ pl.badAddr = none ∧ void then
    modCore s k fun c => { c with fetched := c.fetched ++ moves.map fun m =>
      ⟨q, i, bundle, m.1, m.2.2, false, .scalar 0, st, []⟩ }
  else if faults ≠ [] then
    modCore s k fun c => { c with fetched := c.fetched ++ moves.map fun m =>
      ⟨q, i, bundle, m.1, m.2.2, m.2.1, .scalar 0, st, faults⟩ }
  else
    let (xs, f, g) := popConvert st (scratchBytes c pl.addr pl.n) (scratchBytes c pl.saddr pl.sn) c.genSQ
    let v := popValue st xs
    let s := raceScratch s k pl.addr pl.n (agentId 1 c.idx) 0 (some (i, bundle, slot))
    let s := if pl.sn = 0 then s else raceScratch s k pl.saddr pl.sn (agentId 1 c.idx) 0 (some (i, bundle, slot))
    modCore s k fun c =>
      let c := carryPoison (addFlags { c with genSQ := g } f) q st pl x
      let c := setStream c q (advance st pl pops)
      { c with fetched := c.fetched ++ moves.map fun m => ⟨q, i, bundle, m.1, m.2.2, m.2.1, v, st, []⟩ }

/-- The bank writes of a push at arrival `a` and the stamp of a tile it leaves (R72, R76, R86, R87). `wclass` and the
accesses tell a core push from an epilogue push. -/
def pushItem (s : State) (k q a : Nat) (elemsIn : List Nat) (ch : Nat × Nat × Nat) (mx : Bool) : State :=
  let c := coreOf s k
  let st := streamOf c q
  let pl := planOwn st true
  let (ys, scs, f, g) := pushConvert st elemsIn c.genSQ
  let mf := fmtOf (strMem st)
  let bytes := leBytes pl.n (packNat (fmtWidth mf) ys)
  let agent := agentId 1 c.idx
  let s := modCore s k fun c =>
    let c := addFlags { c with genSQ := g } f
    let c := reserve c (mkAccess (a + 2) pl.addr pl.n 1 ch mx)
    let c := if pl.sn = 0 then c else reserve c (mkAccess (a + 2) pl.saddr pl.sn 1 ch mx)
    setStream c q (advance st pl true)
  -- the tile left is stamped when the first push into another tile performs (R405)
  let s := match st.tile with
    | some t =>
      if t ≠ pl.addr / 4096 ∧ strTagMode st ≠ 0 ∧ !st.entry then
        postDeed (modCore s k fun c => reserveStamp c (a + 2) t ch) k (a + 2) phStamp (.stampPush t st.exp)
      else s
    | none => s
  let put := fun w => if mx then Deed.unitStore w else Deed.store w
  let s := if mx then postSettle s k (a + 2) else s
  let s := postDeed s k (a + 2) phWrite (put ⟨pl.addr, bytes, 1, agent, c.idx, 0⟩)
  if pl.sn = 0 then s
  else postDeed s k (a + 2) phWrite (put ⟨pl.saddr, scs.map (BitVec.ofNat 8 ·), 1, agent, c.idx, 0⟩)

/-- The elements a push takes from its value (R85, R461). -/
def pushElems (st : Stream) (v : Val) : List Nat :=
  let rf := fmtOf (strReg st)
  let w := fmtWidth rf
  let cls : ImmClass := match rf with
    | .int _ true => .s
    | .int _ false => .z
    | .e8 => .z
    | f => .f f
  if strScalar st then [(scalarIn cls v).toNat % 2 ^ w]
  else elems w (strElems st) (vecIn cls w v).toNat

/-- The faults of a push at its arrival (R79, R85, R88). -/
def pushFaults (c : Core) (q : Nat) (pl : ItemPlan) (fl : Flight) : Core :=
  if pl.overrun ≠ 0 then raiseFor c fl [] 7 (BitVec.ofNat 64 q) (BitVec.ofNat 64 pl.overrun) 0
  else
    match pl.badAddr with
    | some a => raiseFor c fl [] 8 (BitVec.ofNat 64 a) 0 0
    | none =>
      if claimedAt c pl.addr pl.n fl.arrive ∧ (pl.sn = 0 ∨ claimedAt c pl.saddr pl.sn fl.arrive) then c
      else raiseFor c fl [] 0x0A (BitVec.ofNat 64 (if claimedAt c pl.addr pl.n fl.arrive then pl.saddr else pl.addr)) 0 0

/-- An epilogue's push arrives at stream `q` in cycle `x` (R180). -/
def epiloguePushes (c : Core) (q x : Nat) : Bool :=
  c.mx.epis.any fun e => decide (e.out = q ∧ e.start + 3 ≤ x ∧ x < e.start + 131)

/-- A push at its arrival (R86, R87). Two to one stream in a cycle collide (R88), and one that meets an epilogue's push,
which performs (R180). -/
def pushArrive (q : Nat) (fl : Flight) (s : State) : State :=
  let k := me s
  let s := modCore s k fun c => noteArrival c (0x2A0 + q) fl
  let c := coreOf s k
  let st := streamOf c q
  let pl := planOwn st true
  if epiloguePushes c q fl.arrive then modCore s k fun c => addRaise c ⟨4, fl.issue, fl.bundle, fl.slot, 0, 0, 0⟩
  else if pl.overrun ≠ 0 ∨ pl.badAddr ≠ none then modCore s k fun c => pushFaults c q pl fl
  else
    let s := modCore s k fun c => pushFaults c q pl fl
    pushItem s k q fl.arrive (pushElems st fl.val) (fl.issue, fl.bundle, fl.slot) false

/-- The checks SCFG makes of the fields it copies, those that fail: the operand ports each of them reads (R84, R460). -/
def scfgFaults (q : Stream) : List (List Nat) :=
  let m := fmtOfCode (strMem q)
  let r := fmtOfCode (strReg q)
  (if m.isNone || r.isNone || m == some .e8 || r == some .e8 || strTagMode q == 3 ||
      (strScaled q && (strScalar q || !((m.map fmtIsB8).getD false))) then [[0x285]] else []) ++
  (if q.exp == 0xFFFF && strTagMode q != 0 then [[0x285, 0x287]] else []) ++
  (if strPush q && strScaled q && groupOf (q.sstr.toNat % 2 ^ 22) == groupOf q.base then [[0x281, 0x285, 0x286]] else []) ++
  (if 2 ^ 48 - 1 < strTotal q then [[0x282, 0x283, 0x284]] else [])

/-- SCFG faults. -/
def scfgBad (q : Stream) : Bool := !(scfgFaults q).isEmpty

/-- The stream register that SCFG makes of the operand ports (R83). -/
def scfgStream (c : Core) (old : Stream) : Stream :=
  { mode := .opened, base := (portOf c 0x281).toNat % 2 ^ 22, shape0 := portOf c 0x282, shape1 := portOf c 0x283,
    shape2 := portOf c 0x284, fmt := portOf c 0x285, sstr := portOf c 0x286, exp := (portOf c 0x287).setWidth 16,
    gen := old.gen + 1, sets := old.sets + 1 }

/-- The stream SQ's triggers act on (R84). -/
def sqId (c : Core) : Nat := (portOf c 0x280).toNat % 16

/-- Stamp a push stream's open tile at arrival + 2 (R405). -/
def stampOpen (s : State) (fl : Flight) (q : Stream) : State :=
  match q.tile with
  | some t =>
    if q.mode = .opened ∧ strPush q ∧ !q.entry ∧ strTagMode q ≠ 0 then
      let k := me s
      postDeed (modCore s k fun c => reserveStamp c (fl.arrive + 2) t (fl.issue, fl.bundle, fl.slot)) k (fl.arrive + 2)
        phStamp (.stampPush t q.exp)
    else s
  | none => s

/-- sq.r after a trigger (R404). -/
def sqResult (s : State) (fl : Flight) (q : Stream) : State :=
  completeWord s fl .sq 1
    (BitVec.ofNat 64 (q.pos % 2 ^ 48 + (if q.mode = .opened then 2 ^ 48 else 0) + (if strPush q then 2 ^ 49 else 0))) 0

/-- Put a changed stream register in place and answer in sq.r. -/
def sqDone (s : State) (fl : Flight) (i : Nat) (q : Stream) : State := sqResult (modMe s fun c => setStream c i q) fl q

end Sys2Proof.Machine
end

