-- ==== Sys2Proof/Machine/Issue.lean ====
section
/-! DEFINITION. Issuing a bundle: fetch and decode with every fault of R107, the moves slot by slot, and the reading ahead
along the known path (R86, R89, R91, R146, R147). -/

namespace Sys2Proof.Machine

/-- The decode faults of the move in a slot: unknown port before illegal move (R108), then a LIMM past the bundle's end; the
spec does not order an illegal move and an illegal-bundle condition of one slot, and the illegal move comes first here. [log 96
DESIGN CHOICE] -/
def slotFaults (slot w p1 p2 : Nat) : List Nat :=
  if wInv w = 1 ∧ wIdx w = 0 then []
  else
    let src := if wImm w = 1 then some (Source.short (BitVec.ofNat 9 (wSrc w))) else sourceOf (wSrc w) p1 p2
    let known := (instrOf (wDst w) ⟨⟨false, 0⟩, .short 0⟩).isSome
    (if src.isNone || !known then [3] else []) ++
      (match src with
       | some r => if laneOk slot r (wDst w) then [] else [1]
       | none => []) ++
      (if 8 ≤ slot + claimOf w then [2] else [])

/-- What must not occur twice in a bundle, in a slot word: a move to ct.WAITT or ct.RESYNC, or a pop of one stream (R31, R86). -/
def soleKey (w : Nat) : List Nat :=
  if wInv w = 1 ∧ wIdx w = 0 then []
  else
    (if wDst w = 40 ∨ wDst w = 41 then [100] else []) ++
    (match if wImm w = 1 then none else sourceOf (wSrc w) 0 0 with
     | some (.pop q) => [q.val]
     | _ => [])

/-- Slots in which a bundle-level condition is completed: the second move of a key, whatever else is wrong with it (R108). -/
def secondSlots (bundle : BitVec 192) : List Nat → List Nat → List Nat
  | [], _ => []
  | n :: ns, seen =>
    let ks := soleKey (slotWord bundle n)
    (if ks.any (fun x => seen.contains x) then [n] else []) ++ secondSlots bundle ns (ks ++ seen)

/-- The decode faults of a bundle: (slot, code), every fault of every move (R107, R108, R287). [log 96 DESIGN CHOICE] -/
def decodeFaults (w : BitVec 192) : List (Nat × Nat) :=
  let ns := (decodeBundle w).map (·.1)
  (ns.flatMap fun n => (slotFaults n (slotWord w n) (slotWord w (n + 1)) (slotWord w (n + 2))).map fun f => (n, f)) ++
    (secondSlots w ns []).map fun n => (n, 2)

/-- The bundle that issues: from the target buffer, read ahead at issue − 2, or from the store (R89, R148); a bundle that was in
neither, as E + 1 after a LOOP with N = 0, is read as it issues (R156). [log 91 DEDUCED] -/
def fetchBundle (c : Core) (x : Nat) : BitVec 192 :=
  match c.buffered.find? fun b => decide (b.1 = c.pc) with
  | some b => b.2
  | none =>
    match c.ahead.find? fun b => decide (b.1 = x ∧ b.2.1 = c.pc) with
    | some b => b.2.2
    | none => bundleAt c c.pc

/-- The bundle about to issue could not be fetched: past the store, or with an uncorrectable error that its fetch at issue − 2
found; the target buffer noted that of the bundles it holds (R89, R107, R151). -/
def fetchBad (c : Core) (x : Nat) : Bool :=
  decide (16384 ≤ c.pc) ||
    (!(c.buffered.any fun b => decide (b.1 = c.pc)) &&
      (if c.ahead.any fun b => decide (b.1 = x ∧ b.2.1 = c.pc) then c.aheadBad.contains (x, c.pc) else c.badBundles.contains c.pc))

/-- Forget what only earlier cycles needed. -/
def dropPast (c : Core) (x : Nat) : Core :=
  { c with fetched := c.fetched.filter fun f => decide (x ≤ f.issueAt + 1)
           accesses := c.accesses.filter fun a => decide (x ≤ a.cycle + 1)
           stamps := c.stamps.filter fun a => decide (x ≤ a.cycle + 1)
           voided := c.voided.filter fun v => decide (x ≤ v.1 + 3)
           ahead := c.ahead.filter fun b => decide (x ≤ b.1)
           aheadBad := c.aheadBad.filter fun b => decide (x ≤ b.1)
           deferred := c.deferred.filter fun r => decide (x ≤ r.charge) }

/-- The core as bundle `c.pc` issues at `x`: latched, its decode faults raised, the engine's iteration start in effect, and
what a suppression must restore kept (R157, R286). -/
def issueCore (c : Core) (x : Nat) : Core :=
  let c := { c with undoPtr := c.mx.rowPtr, undoPc := c.pc, undoLoops := c.loops, undoWaits := c.waits,
                    undoNext := c.nextIssue }
  let c := applyStarts { c with waits := {} } x
  let w := fetchBundle c x
  let b := c.pc
  let c := { c with latch := w, curCycle := some x, curBundle := b, pc := b + 1, nextIssue := x + 1,
                    buffered := c.buffered.filter fun e => decide (e.1 = b + 1) }
  (decodeFaults w).foldl (fun c f => addRaise c ⟨f.2, x, b, f.1, BitVec.ofNat 64 (slotWord w f.1), 0, 0⟩) c

/-- Whether core `k` issues in its gang's current cycle (R42). -/
def issues (s : State) (k : Nat) : Bool := canIssue (coreOf s k) (gcycOf s k)

/-- Begin the bundle due on core `k`: the faults found ahead of it suppress it (R74, R286, R460); past the store, or on an
uncorrectable bundle, it takes a fetch fault (R107, R151). Its end steps follow (R158). -/
def beginBundle (s : State) (k : Nat) : State :=
  let c := coreOf s k
  let x := gcycOf s k
  if issues s k = false then s
  else
    match c.doomed ++ (if s.looking then [] else c.deferred.filter fun r => decide (r.charge = x)) with
    | r :: rs => takeFault s k x r rs
    | [] =>
      if fetchBad c x then
        setCore s k (addRaise c ⟨0x10, x, c.pc, 0, 0, 0, 0⟩)
      else
        let c' := issueCore (dropPast c x) x
        let s := setCore s k c'
        let s := if c'.raised = [] ∨ s.looking then { s with issuing := some (.slot k 0) } else s
        match endLevel c' c'.curBundle with
        | some n => postCore s k x phLoopEnd (.event (.loopEndStep k (Fin.ofNat 4 n)))
        | none => s

/-- The next slot after a move in slot `n`; after the last the bundle is issued (R106). -/
def nextSlot (s : State) (k n : Nat) : State :=
  let w := slotWord (coreOf s k).latch n
  let m := n + 1 + claimOf w
  { s with issuing := if m < 8 then some (.slot k m) else none }

end Sys2Proof.Machine
end

