-- ==== Sys2Proof/Machine/Scalar.lean ====
section
/-! DEFINITION. The scalar ALU's operations (R60, R67, R69, R342 to R411): one meaning for each. -/

namespace Sys2Proof.Machine

/-- The trigger's value enters sa.b in its arrival cycle, before the operands are latched (R60). -/
def saEnter (cls : ImmClass) (fl : Flight) (s : State) : State :=
  modMe s fun c => setPort (noteArrival c 0x081 fl) 0x081 (scalarIn cls fl.val)

def saA (s : State) : Word := portOf (myCore s) 0x080
def saB (s : State) : Word := portOf (myCore s) 0x081
def saC (s : State) : Word := portOf (myCore s) 0x082
def saQ (s : State) : Nat := (portOf (myCore s) 0x083).toNat

/-- An integer operation of SA: b enters, and the result of a and b is present `lat` cycles later (R60, R69). -/
def saInt (i : Instr) (m : Mv) (cls : ImmClass) (lat : Nat) (f : Word → Word → Word) (s : State) : Out :=
  trigger i m s fun fl s =>
    let s := saEnter cls fl s
    completeWord s fl .sa lat (f (saA s) (saB s)) 0

/-- An FP32 operation of SA, with flags set when its result becomes present (R67, R145). -/
def saFp (i : Instr) (m : Mv) (lat : Nat) (f : Word → Word → Word → Word × Flags) (s : State) : Out :=
  trigger i m s fun fl s =>
    let s := saEnter (.f f32) fl s
    let r := f (saA s) (saB s) (saC s)
    completeWord s fl .sa lat r.1 r.2

/-- What tells the compares apart: the class of their immediate, the cycles to their predicates, and the test (R354, R366). -/
structure CompareKind where
  cls : ImmClass
  lat : Nat
  test : Word → Word → Bool

def compareKind : Instr → Option CompareKind
  | .cmpEq _ => some ⟨.s, 1, fun a b => a == b⟩
  | .cmpNe _ => some ⟨.s, 1, fun a b => a != b⟩
  | .cmpLt _ => some ⟨.s, 1, fun a b => a.slt b⟩
  | .cmpLe _ => some ⟨.s, 1, fun a b => a.sle b⟩
  | .cmpLtu _ => some ⟨.z, 1, fun a b => a.ult b⟩
  | .cmpLeu _ => some ⟨.z, 1, fun a b => a.ule b⟩
  | .fcmpEq _ => some ⟨.f f32, 2, fpCompare 0⟩
  | .fcmpLt _ => some ⟨.f f32, 2, fpCompare 1⟩
  | .fcmpLe _ => some ⟨.f f32, 2, fpCompare 2⟩
  | .fcmpUn _ => some ⟨.f f32, 2, fpCompare 3⟩
  | _ => none

/-- The predicates a compare of type `ty` counts for in R64, whether or not it writes them: kind 0 where it can write only 0,
1 where only 1. -/
def noteCombined (c : Core) (fl : Flight) (x q : Nat) : Core :=
  let ty := q / 64 % 8
  let kind := if ty = 2 ∨ ty = 4 then 0 else if ty = 3 ∨ ty = 5 then 1 else 2
  let c := notePred c x (q % 8) kind fl.issue fl.bundle fl.slot
  if q / 8 % 8 = q % 8 then c else notePred c x (q / 8 % 8) kind fl.issue fl.bundle fl.slot

/-- The predicate writes of a compare, present `lat` cycles after its arrival (R155); it counts for collisions whatever its
guard (R64). -/
def writeCombined (s : State) (fl : Flight) (lat q : Nat) (r : Bool) : State :=
  let x := now s + lat
  let s := modMe s fun c => noteCombined c fl x q
  (combine (q / 64 % 8) (q / 8 % 8) (q % 8) fl.g r).foldl (fun s w =>
    postDeed s (me s) x phDone (.pred (Fin.ofNat 8 w.1) w.2.1)) s

/-- A compare: delivered whatever its guard, b enters, predicates are written under the combining type (R57, R155, R354). -/
def saCompare (i : Instr) (m : Mv) (s : State) : Out :=
  compareTrigger i m s fun fl s =>
    match compareKind i with
    | some k =>
      let s := saEnter k.cls fl s
      writeCombined s fl k.lat (saQ s) (k.test (saA s) (saB s))
    | none => s

/-- Leading zero bits of a word (R353). -/
def countLeadingZeros (b : Word) : Nat := if b = 0 then 64 else 63 - Nat.log2 b.toNat

/-- Set bits of a word (R399). -/
def popCount (b : Word) : Nat := ((List.range 64).filter fun i => b.getLsbD i).length

/-- The signed quotient: all ones by 0, truncated otherwise; −2^63 by −1 wraps to −2^63 (R359). -/
def divSigned (a b : Word) : Word := if b = 0 then BitVec.allOnes 64 else BitVec.sdiv a b

/-- The unsigned quotient (R359). -/
def divUnsigned (a b : Word) : Word := if b = 0 then BitVec.allOnes 64 else a / b

/-- The signed remainder (R359). -/
def remSigned (a b : Word) : Word := if b = 0 then a else BitVec.srem a b

/-- The unsigned remainder (R359). -/
def remUnsigned (a b : Word) : Word := if b = 0 then a else a % b

/-- The shift amount b[5:0] (R408). -/
def shiftAmount (b : Word) : Nat := b.toNat % 64

/-- The high 64 bits of a signed product (R394). -/
def mulHigh (a b : Word) : Word := BitVec.ofInt 64 (a.toInt * b.toInt / 2 ^ 64)

/-- The high 64 bits of an unsigned product (R394). -/
def mulHighU (a b : Word) : Word := BitVec.ofNat 64 (a.toNat * b.toNat / 2 ^ 64)

/-- ADD: a + b modulo 2^64 (R343). -/
def execAdd (m : Mv) (s : State) : Out :=
  saInt (.add m) m .s 1 (fun a b => a + b) s

/-- SUB: a − b modulo 2^64 (R411). -/
def execSub (m : Mv) (s : State) : Out :=
  saInt (.sub m) m .s 1 (fun a b => a - b) s

/-- MUL: the low 64 bits of a × b (R394). -/
def execMul (m : Mv) (s : State) : Out :=
  saInt (.mul m) m .s 3 (fun a b => a * b) s

/-- MULH: the high 64 bits of the signed product (R394). -/
def execMulh (m : Mv) (s : State) : Out :=
  saInt (.mulh m) m .s 3 (fun a b => mulHigh a b) s

/-- MULHU: the high 64 bits of the unsigned product (R394). -/
def execMulhu (m : Mv) (s : State) : Out :=
  saInt (.mulhu m) m .z 3 (fun a b => mulHighU a b) s

/-- DIV (R359). -/
def execDiv (m : Mv) (s : State) : Out :=
  saInt (.div m) m .s 18 (fun a b => divSigned a b) s

/-- DIVU (R359). -/
def execDivu (m : Mv) (s : State) : Out :=
  saInt (.divu m) m .z 18 (fun a b => divUnsigned a b) s

/-- REM (R359). -/
def execRem (m : Mv) (s : State) : Out :=
  saInt (.rem m) m .s 18 (fun a b => remSigned a b) s

/-- REMU (R359). -/
def execRemu (m : Mv) (s : State) : Out :=
  saInt (.remu m) m .z 18 (fun a b => remUnsigned a b) s

/-- AND (R344). -/
def execAnd (m : Mv) (s : State) : Out :=
  saInt (.and m) m .s 1 (fun a b => a &&& b) s

/-- OR (R398). -/
def execOr (m : Mv) (s : State) : Out :=
  saInt (.or m) m .s 1 (fun a b => a ||| b) s

/-- XOR (R440). -/
def execXor (m : Mv) (s : State) : Out :=
  saInt (.xor m) m .s 1 (fun a b => a ^^^ b) s

/-- ANDN: a and not b (R344). -/
def execAndn (m : Mv) (s : State) : Out :=
  saInt (.andn m) m .s 1 (fun a b => a &&& ~~~b) s

/-- SHL (R408). -/
def execShl (m : Mv) (s : State) : Out :=
  saInt (.shl m) m .z 1 (fun a b => a <<< shiftAmount b) s

/-- SHR, logical (R408). -/
def execShr (m : Mv) (s : State) : Out :=
  saInt (.shr m) m .z 1 (fun a b => a >>> shiftAmount b) s

/-- SRA, arithmetic (R408). -/
def execSra (m : Mv) (s : State) : Out :=
  saInt (.sra m) m .z 1 (fun a b => a.sshiftRight (shiftAmount b)) s

/-- MIN, signed (R376). -/
def execMin (m : Mv) (s : State) : Out :=
  saInt (.min m) m .s 1 (fun a b => if b.slt a then b else a) s

/-- MINU (R376). -/
def execMinu (m : Mv) (s : State) : Out :=
  saInt (.minu m) m .z 1 (fun a b => if b.ult a then b else a) s

/-- MAX, signed (R376). -/
def execMax (m : Mv) (s : State) : Out :=
  saInt (.max m) m .s 1 (fun a b => if a.slt b then b else a) s

/-- MAXU (R376). -/
def execMaxu (m : Mv) (s : State) : Out :=
  saInt (.maxu m) m .z 1 (fun a b => if a.ult b then b else a) s

/-- CLZ: leading zero bits of b (R353). -/
def execClz (m : Mv) (s : State) : Out :=
  saInt (.clz m) m .z 1 (fun _ b => BitVec.ofNat 64 (countLeadingZeros b)) s

/-- POPC: set bits of b (R399). -/
def execPopc (m : Mv) (s : State) : Out :=
  saInt (.popc m) m .z 1 (fun _ b => BitVec.ofNat 64 (popCount b)) s

/-- SEL: a if the predicate in q[2:0] present at the arrival is 1, else b (R407). -/
def execSel (m : Mv) (s : State) : Out :=
  trigger (.sel m) m s fun fl s =>
    let s := saEnter .s fl s
    completeWord s fl .sa 1 (if predOf (myCore s) (saQ s % 8) then saA s else saB s) 0

/-- CMP.EQ (R354). -/
def execCmpEq (m : Mv) (s : State) : Out :=
  saCompare (.cmpEq m) m s

/-- CMP.NE (R354). -/
def execCmpNe (m : Mv) (s : State) : Out :=
  saCompare (.cmpNe m) m s

/-- CMP.LT, signed (R354). -/
def execCmpLt (m : Mv) (s : State) : Out :=
  saCompare (.cmpLt m) m s

/-- CMP.LE, signed (R354). -/
def execCmpLe (m : Mv) (s : State) : Out :=
  saCompare (.cmpLe m) m s

/-- CMP.LTU (R354). -/
def execCmpLtu (m : Mv) (s : State) : Out :=
  saCompare (.cmpLtu m) m s

/-- CMP.LEU (R354). -/
def execCmpLeu (m : Mv) (s : State) : Out :=
  saCompare (.cmpLeu m) m s

/-- FADD (R362). -/
def execFadd (m : Mv) (s : State) : Out :=
  saFp (.fadd m) m 4 (fun a b _ => fpAdd (f32Of a) (f32Of b)) s

/-- FSUB (R362). -/
def execFsub (m : Mv) (s : State) : Out :=
  saFp (.fsub m) m 4 (fun a b _ => fpSub (f32Of a) (f32Of b)) s

/-- FMUL (R362). -/
def execFmul (m : Mv) (s : State) : Out :=
  saFp (.fmul m) m 4 (fun a b _ => fpMul (f32Of a) (f32Of b)) s

/-- FFMA: a·b + c with one rounding (R362). -/
def execFfma (m : Mv) (s : State) : Out :=
  saFp (.ffma m) m 4 (fun a b c => fpFma (f32Of a) (f32Of b) (f32Of c)) s

/-- FMIN (R368). -/
def execFmin (m : Mv) (s : State) : Out :=
  saFp (.fmin m) m 2 (fun a b _ => (fpChoose true a b, 0)) s

/-- FMAX (R368). -/
def execFmax (m : Mv) (s : State) : Out :=
  saFp (.fmax m) m 2 (fun a b _ => (fpChoose false a b, 0)) s

/-- FCMP.EQ (R366). -/
def execFcmpEq (m : Mv) (s : State) : Out :=
  saCompare (.fcmpEq m) m s

/-- FCMP.LT (R366). -/
def execFcmpLt (m : Mv) (s : State) : Out :=
  saCompare (.fcmpLt m) m s

/-- FCMP.LE (R366). -/
def execFcmpLe (m : Mv) (s : State) : Out :=
  saCompare (.fcmpLe m) m s

/-- FCMP.UN (R366). -/
def execFcmpUn (m : Mv) (s : State) : Out :=
  saCompare (.fcmpUn m) m s

/-- FCVT.IF: int64 b to FP32 by RNE (R367). -/
def execFcvtIf (m : Mv) (s : State) : Out :=
  trigger (.fcvtIf m) m s fun fl s =>
    let s := saEnter .s fl s
    let r := intToFp (saB s)
    completeWord s fl .sa 3 r.1 r.2

/-- FCVT.FI: FP32 b to int64, saturating (R367). -/
def execFcvtFi (m : Mv) (s : State) : Out :=
  saFp (.fcvtFi m) m 3 (fun _ b _ => fpToInt b) s

end Sys2Proof.Machine
end

