-- ==== Sys2Proof/Machine/Transcend.lean ====
section
/-! DEFINITION. The transcendentals of the vector units (R141, R142) and the software tables of R143. Endpoint values are
computed by integer arithmetic to more than 100 bits before their one rounding. -/

namespace Sys2Proof.Machine

/-- `floor(sqrt n)` for `n < 4^k`, bit by bit. -/
def isqrtBits : Nat → Nat → Nat → Nat
  | 0, _, r => r
  | k + 1, n, r => isqrtBits k n (if (r + 2 ^ k) * (r + 2 ^ k) ≤ n then r + 2 ^ k else r)

/-- Convention: [log 28 DEDUCED] -/
def isqrt (n : Nat) : Nat := isqrtBits (Nat.log2 n / 2 + 1) n 0

/-- Fraction bits of the fixed-point endpoint values. -/
def fixBits : Nat := 256

/-- `n / 2^fixBits` as an exact value. -/
def fixNum (n : Int) : Num := .fin false n (-256)

/-- `2^(2^-k)` in fixed point. -/
def exp2Root : Nat → Nat
  | 0 => 2 * 2 ^ fixBits
  | k + 1 => isqrt (exp2Root k * 2 ^ fixBits)

/-- `2^(i/256)` for `i ≤ 256` in fixed point. [log 28 DEDUCED] -/
def exp2Fix (i : Nat) : Nat :=
  [1, 2, 3, 4, 5, 6, 7, 8].foldl (fun p k => if i.testBit (8 - k) then p * exp2Root k / 2 ^ fixBits else p)
    (if i = 256 then 2 * 2 ^ fixBits else 2 ^ fixBits)

/-- Bits of `log2 x` for `x` in [1, 2), fixed point with 512 fraction bits, by repeated squaring. -/
def log2Bits : Nat → Nat → Nat → Nat
  | 0, _, acc => acc
  | k + 1, x, acc =>
    let y := x * x / 2 ^ 512
    if 2 * 2 ^ 512 ≤ y then log2Bits k (y / 2) (2 * acc + 1) else log2Bits k y (2 * acc)

/-- `log2(1 + i/256)` in fixed point. [log 28 DEDUCED] -/
def log2Fix (i : Nat) : Nat := if i = 256 then 2 ^ fixBits else log2Bits fixBits (2 ^ 512 + i * 2 ^ 504) 0

/-- `e^(1/8)` in fixed point, by its series. -/
def expEighth : Nat → Nat → Nat → Nat
  | 0, _, _ => 0
  | n + 1, k, term => term + expEighth n (k + 1) (term / (8 * (k + 1)))

/-- Repeated product in fixed point. -/
def fixPow (x : Nat) : Nat → Nat
  | 0 => 2 ^ fixBits
  | n + 1 => fixPow x n * x / 2 ^ fixBits

/-- `1 / (1 + e^(-k/8))` in fixed point. [log 28 DEDUCED] -/
def sigFix (k : Int) : Nat :=
  let p := fixPow (expEighth 60 0 (2 ^ fixBits)) k.natAbs
  if 0 ≤ k then p * 2 ^ fixBits / (p + 2 ^ fixBits) else 2 ^ fixBits * 2 ^ fixBits / (p + 2 ^ fixBits)

/-- An exact value rounded to FP32 by RNE, as an exact value. -/
def asF32 (x : Num) : Num := decodeNum f32 (roundF32 x).1

/-- y0 + m·(x − a) with y0 and m rounded to FP32, exact; `slope` is the exact slope (R142). -/
def segment (y0 slope : Num) (dx : Num) : Num := (numAdd (asF32 y0) (numMul (asF32 slope) dx).1).1

/-- The floor of `m * 2^e`. -/
def floorNum (m e : Int) : Int := if 0 ≤ e then m * 2 ^ e.toNat else Int.fdiv m (2 ^ (-e).toNat)

/-- Times a power of two. -/
def scaleNum (x : Num) (n : Int) : Num :=
  match x with
  | .fin s m e => .fin s m (e + n)
  | v => v

/-- VEXP2 (R141, R142). -/
def exp2F32 (x : Num) : Nat × Flags :=
  match x with
  | .nan => (0x7FC00000, 0)
  | .inf n => (if n then 0 else 0x7F800000, 0)
  | .fin _ m e =>
    let n := floorNum m e
    if 128 ≤ n then (0x7F800000, flagOF ||| flagNX)
    else if n < -150 then (0, flagUF ||| flagNX)
    else
      let f := (numAdd (.fin false m e) (.fin true (-n) 0)).1
      let i : Nat := match f with
        | .fin _ fm fe => (floorNum fm (fe + 8)).toNat
        | _ => 0
      let dx := (numAdd f (.fin false (-(i : Int)) (-8))).1
      roundF32 (scaleNum (segment (fixNum (exp2Fix i)) (scaleNum (fixNum ((exp2Fix (i + 1) : Int) - exp2Fix i)) 8) dx) n)

/-- VLOG2 (R141, R142). -/
def log2F32 (x : Num) : Nat × Flags :=
  match x with
  | .nan => (0x7FC00000, 0)
  | .inf n => if n then (0x7FC00000, flagNV) else (0x7F800000, 0)
  | .fin _ m e =>
    if m = 0 then (0xFF800000, flagDZ)
    else if m < 0 then (0x7FC00000, flagNV)
    else
      let n := floorLog2 m e
      let f := (numAdd (.fin false m (e - n)) (.fin false (-1) 0)).1
      let i : Nat := match f with
        | .fin _ fm fe => (floorNum fm (fe + 8)).toNat
        | _ => 0
      let dx := (numAdd f (.fin false (-(i : Int)) (-8))).1
      let s := segment (fixNum (log2Fix i)) (scaleNum (fixNum ((log2Fix (i + 1) : Int) - log2Fix i)) 8) dx
      roundF32 (numAdd (.fin false n 0) s).1

/-- VSIG (R141, R142). -/
def sigF32 (x : Num) : Nat × Flags :=
  match x with
  | .nan => (0x7FC00000, 0)
  | .inf n => (if n then 0 else 0x3F800000, 0)
  | .fin _ m e =>
    let k := floorNum m (e + 3)
    if 128 ≤ k then (0x3F800000, 0)
    else if k < -128 then (0, 0)
    else
      let dx := (numAdd (.fin false m e) (.fin false (-k) (-3))).1
      roundF32 (segment (fixNum (sigFix k)) (scaleNum (fixNum ((sigFix (k + 1) : Int) - sigFix k)) 3) dx)

/-- VRCP: 1/x correctly rounded (R141). -/
def rcpF32 (x : Num) : Nat × Flags :=
  match x with
  | .nan => (0x7FC00000, 0)
  | .inf n => (if n then 0x80000000 else 0, 0)
  | .fin n m e =>
    if m = 0 then (if n then 0xFF800000 else 0x7F800000, flagDZ) else roundF32 (numDivFin 1 0 m e)

/-- VRSQ: 1/√x correctly rounded (R141). [log 28 DEDUCED] -/
def rsqF32 (x : Num) : Nat × Flags :=
  match x with
  | .nan => (0x7FC00000, 0)
  | .inf n => if n then (0x7FC00000, flagNV) else (0, 0)
  | .fin n m e =>
    if m = 0 then (if n then 0xFF800000 else 0x7F800000, flagDZ)
    else if m < 0 then (0x7FC00000, flagNV)
    else
      let m' := if e % 2 = 0 then m.natAbs else 2 * m.natAbs
      let e' := if e % 2 = 0 then e else e - 1
      let q := isqrt (2 ^ 320 / m')
      roundF32 (.fin false (2 * q + (if q * q * m' = 2 ^ 320 then 0 else 1) : Nat) (-161 - e' / 2))

/-- The quotient of an exact value by a positive finite one. -/
def numDivPos (x : Num) (m e : Int) : Num :=
  match x with
  | .fin n k g => if k = 0 then .fin n 0 0 else numDivFin k g m e
  | v => v

/-- A software table's bounds are usable: finite and lo < hi (R143, R430). -/
def lutBounds (lo hi : BitVec 32) : Bool :=
  match decodeNum f32 lo.toNat, decodeNum f32 hi.toNat with
  | .fin a m e, .fin b k g => numLt (.fin a m e) (.fin b k g)
  | _, _ => false

/-- A software table evaluated at `x`, rounded once by RNE; where the limit at an infinite input is ∞ − ∞, a NaN with NV
(R143). [log 94 DEDUCED] -/
def lutEval (lo hi : BitVec 32) (vals : List (BitVec 32)) (x : Num) : Nat × Flags :=
  match decodeNum f32 lo.toNat, decodeNum f32 hi.toNat with
  | .fin _ lm le, .fin _ hm he =>
    if lutBounds lo hi = false then (0x7FC00000, 0)
    else
      match (numAdd (.fin false hm he) (.fin false (-lm) le)).1 with
      | .fin _ wm we =>
        -- h = width / 64, all of lo + i h dyadic
        let val := fun i => decodeNum f32 ((vals.getD i 0).toNat)
        let slope := fun i =>
          asF32 (numDivPos (numAdd (val (i + 1)) (numNegate (val i))).1 wm (we - 6))
        match x with
        | .nan => (0x7FC00000, 0)
        | .inf n =>
          let i := if n then 0 else 63
          match slope i with
          | .nan => (0x7FC00000, 0)
          | .inf k => let r := numAdd (val i) (.inf (k != n)); let y := roundF32 r.1; (y.1, r.2 ||| y.2)
          | .fin _ m _ =>
            if m = 0 then roundF32 (val i)
            else let r := numAdd (val i) (.inf (decide (m < 0) != n)); let y := roundF32 r.1; (y.1, r.2 ||| y.2)
        | .fin _ m e =>
          match (numAdd (.fin false m e) (.fin false (-lm) le)).1 with
          | .fin _ dm de =>
            let d := min de (we - 6)
            let i := min (Int.fdiv (dm * 2 ^ (de - d).toNat) (wm * 2 ^ (we - 6 - d).toNat)).toNat 63
            let dx := (numAdd (.fin false dm de) (.fin false (-(i : Int) * wm) (we - 6))).1
            let p := numMul (slope i) dx
            let r := numAdd (val i) p.1
            let y := roundF32 r.1
            (y.1, p.2 ||| r.2 ||| y.2)
          | _ => (0x7FC00000, 0)
      | _ => (0x7FC00000, 0)
  | _, _ => (0x7FC00000, 0)

end Sys2Proof.Machine
end

