-- ==== Sys2Proof/Machine/Vector.lean ====
section
/-! DEFINITION. The vector units' operations (R60, R69, R413 to R435): one meaning for each, over one common trigger. -/

namespace Sys2Proof.Machine

/-- What a vector operation latches at its trigger's arrival (R413), with the unit's rounding generator (R136). -/
structure VIn where
  a : Vec
  b : Vec
  c : Vec
  k : Mask
  code : Nat
  fmt : Fmt
  rm : BitVec 4
  sc : Vec
  ctl : Nat
  gen : BitVec 32
  deriving DecidableEq, Repr

/-- A result with its flags and the generator after its draws. -/
structure VOut where
  res : Vec
  flags : Flags
  gen : BitVec 32
  deriving DecidableEq, Repr

def vecResult : VUnit → ResultPort
  | .va => .va
  | .vb => .vb

def vecGen (c : Core) : VUnit → BitVec 32
  | .va => c.genVA
  | .vb => c.genVB

def setVecGen (c : Core) (u : VUnit) (g : BitVec 32) : Core :=
  match u with
  | .va => { c with genVA := g }
  | .vb => { c with genVB := g }

def vecLut (c : Core) : VUnit → Lut
  | .va => c.lutVA
  | .vb => c.lutVB

def setVecLut (c : Core) (u : VUnit) (l : Lut) : Core :=
  match u with
  | .va => { c with lutVA := l }
  | .vb => { c with lutVB := l }

/-- The operands as the unit latches them (R413). -/
def vecInputs (c : Core) (u : VUnit) : VIn :=
  let o := vecBase u
  ⟨vportOf c o, vportOf c (o + 1), vportOf c (o + 2), kportOf c (o + 3), tyCode c u, (fmtOfCode (tyCode c u)).getD f32,
    (portOf c (o + 5)).setWidth 4, vportOf c (o + 6), (portOf c (o + 7)).toNat, vecGen c u⟩

/-- The ty codes an operation accepts (R415). -/
def acceptArith (f : Fmt) : Bool := fmtIsFloat f || fmtIsInt f
def acceptInt (f : Fmt) : Bool := fmtIsInt f
def acceptF32 (f : Fmt) : Bool := f == f32
def acceptDot (f : Fmt) : Bool := fmtIsB8 f || f == .int 8 true || f == .int 8 false
def acceptAny (_ : Fmt) : Bool := true

/-- No control field can be invalid. -/
def ctlAny (_ : VIn) : Option Nat := none

/-- The trigger's value enters port b (R60), widened under the trigger's class and placed by R66. -/
def vecEnter (u : VUnit) (cls : Option ImmClass) (fl : Flight) (s : State) : State :=
  modMe s fun c =>
    let t := tyClass c u
    setVport (noteArrival c (vecBase u + 1) fl) (vecBase u + 1) (vecIn (cls.getD t.1) t.2 fl.val)

/-- The format fault of an arriving trigger: a ty outside the operation's row, or an invalid control field (R415). -/
def vecBad (c : Core) (u : VUnit) (accept : Fmt → Bool) (bad : VIn → Option Nat) : Option Nat :=
  match fmtOfCode (tyCode c u) with
  | none => some (tyCode c u)
  | some f => if accept f then bad (vecInputs c u) else some (tyCode c u)

/-- VCVT's destination format (R424). -/
def cvtDst (x : VIn) : Nat := x.ctl % 256

/-- The format of VDOT8's b (R425). -/
def dotB (x : VIn) : Nat := if x.ctl / 256 % 256 = 0 then x.code else x.ctl / 256 % 256

/-- The operand ports that a failing format check reads (R415, R460): ty where ty is outside the row; else ctl, with ty where the
field alone is good and does not go with ty. -/
def vecReads (i : Instr) (c : Core) (u : VUnit) (accept : Fmt → Bool) : List Nat :=
  let x := vecInputs c u
  let ty := vecBase u + 4
  let ctl := vecBase u + 7
  if !((fmtOfCode (tyCode c u)).any accept) then [ty]
  else
    match i with
    | .vcvt _ _ => if (fmtOfCode (cvtDst x)).any (· != .e8) then [ty, ctl] else [ctl]
    | .vdot8 _ _ => if (fmtOfCode (dotB x)).any acceptDot || x.ctl / 256 % 256 == 0 then [ty, ctl] else [ctl]
    | _ => [ctl]

/-- A trigger of a vector unit (R413, R415): checked, b entered, latched; k returns to all ones (R61). `cls` none: the class
that ty selects. -/
def vecTrigger (i : Instr) (u : VUnit) (m : Mv) (cls : Option ImmClass) (accept : Fmt → Bool) (bad : VIn → Option Nat)
    (effect : Flight → VIn → State → State) (s : State) : Out :=
  trigger i m s fun fl s =>
    let s := vecEnter u cls fl s
    match vecBad (myCore s) u accept bad with
    | some x => modMe s fun c =>
        raiseFor c fl (vecReads i c u accept) 0x16 (BitVec.ofNat 64 x) (BitVec.ofNat 64 ((dstId i).getD 0)) 0
    | none =>
      let x := vecInputs (myCore s) u
      effect fl x (modMe s fun c => setKport c (vecBase u + 3) onesMask)

/-- An operation with a result port's value: draws at the arrival, result and flags `lat` cycles later (R62, R137, R145). -/
def vecOp (i : Instr) (u : VUnit) (m : Mv) (cls : Option ImmClass) (accept : Fmt → Bool) (bad : VIn → Option Nat)
    (lat : Fmt → Nat) (f : VIn → VOut) (s : State) : Out :=
  vecTrigger i u m cls accept bad (fun fl x s =>
    let r := f x
    complete (modMe s fun c => setVecGen c u r.gen) fl (vecResult u) (lat x.fmt) r.res r.flags) s

/-- One element's operands and whether k enables it. -/
structure Lane where
  e : Nat
  a : Nat
  b : Nat
  c : Nat
  on : Bool
  deriving DecidableEq, Repr

/-- Elements of ty (R126). -/
def vecCount (x : VIn) : Nat := 2048 / fmtWidth x.fmt

/-- Zip three element lists into lanes. -/
def zipLanes (k : Mask) : Nat → List Nat → List Nat → List Nat → List Lane
  | e, a :: as, b :: bs, c :: cs => ⟨e, a, b, c, k.getLsbD e⟩ :: zipLanes k (e + 1) as bs cs
  | _, _, _, _ => []

/-- The `n` elements of width `w`, element 0 first, each taken from what is left of the vector. -/
def splitElems (w : Nat) : Nat → Nat → List Nat
  | 0, _ => []
  | n + 1, x => x % 2 ^ w :: splitElems w n (x / 2 ^ w)

def vecElems (x : VIn) (v : Vec) : List Nat := splitElems (fmtWidth x.fmt) (vecCount x) v.toNat

def vecLanes (x : VIn) : List Lane := zipLanes x.k 0 (vecElems x x.a) (vecElems x x.b) (vecElems x x.c)

/-- An element-wise operation: a disabled element takes its pass-through bits and sets no flag, and draws with the others
(R416, R417). -/
def elementwise (draws : Bool) (pass : Lane → Nat) (f : Lane → Nat → Nat × Flags) (x : VIn) : VOut :=
  let r := convList (fun l d => if l.on then f l d else (pass l, 0)) (if draws then x.rm else 0) (vecLanes x) x.gen
  ⟨packVec (fmtWidth x.fmt) r.1, r.2.1, r.2.2⟩

/-- An integer result wrapped, or clamped with IS where rm[3] is set (R129, R417). -/
def intFit (w : Nat) (signed : Bool) (rm : BitVec 4) (y : Int) : Nat × Flags :=
  if rm.getLsbD 3 then
    (if intMax w signed < y then (intCode w (intMax w signed), flagIS)
     else if y < intMin w signed then (intCode w (intMin w signed), flagIS)
     else (intCode w y, 0))
  else (intCode w y, 0)

/-- The integer an element of ty holds. -/
def intElem (f : Fmt) (c : Nat) : Int :=
  match decodeNum f c with
  | .fin _ m _ => m
  | _ => 0

/-- Arithmetic on elements: exact, then rounded once, or wrapped or clamped (R417, R419). -/
def vecArith (pass : Lane → Nat) (g : Num → Num → Num → Num × Flags) (h : Int → Int → Int → Int) (x : VIn) : VOut :=
  match x.fmt with
  | .int w signed =>
    elementwise false pass
      (fun l _ => intFit w signed x.rm (h (intElem x.fmt l.a) (intElem x.fmt l.b) (intElem x.fmt l.c))) x
  | f =>
    elementwise true pass (fun l d =>
      let v := g (decodeNum f l.a) (decodeNum f l.b) (decodeNum f l.c)
      let y := roundNum f v.1 x.rm d
      (y.1, v.2 ||| y.2)) x

def passA (l : Lane) : Nat := l.a
def passB (l : Lane) : Nat := l.b

/-- Latency with an integer or a floating ty (R69). -/
def latArith (f : Fmt) : Nat := if fmtIsInt f then 2 else 4

/-- Whether code `p` orders below code `q`, −0 below +0 (R420). -/
def codeBelow (f : Fmt) (p q : Nat) : Bool := fpBelow (decodeNum f p) (decodeNum f q)

/-- The lesser or greater of two codes, its bits kept; NaN gives qnan (R420). -/
def codeChoose (f : Fmt) (greater : Bool) (p q : Nat) : Nat :=
  if decodeNum f p = .nan ∨ decodeNum f q = .nan then fmtQnan f
  else if codeBelow f q p != greater then q else p

/-- VCLAMP of codes: min(max(x, y), z) (R420). -/
def codeClamp (f : Fmt) (p q r : Nat) : Nat :=
  if decodeNum f p = .nan ∨ decodeNum f q = .nan ∨ decodeNum f r = .nan then fmtQnan f
  else codeChoose f false (codeChoose f true p q) r

/-- The sign bit of a code. -/
def signBit (f : Fmt) : Nat := 2 ^ (fmtWidth f - 1)

/-- VABS of a floating code (R421). [log 29 DEDUCED] -/
def codeAbs (f : Fmt) (c : Nat) : Nat :=
  match f with
  | .b8 true _ _ => if c = 0x80 then c else c % 128
  | .b8 false _ _ => c
  | f => c % signBit f

/-- VNEG of a floating code (R421). [log 29 DEDUCED] -/
def codeNeg (f : Fmt) (rm : BitVec 4) (c : Nat) : Nat × Flags :=
  match f with
  | .b8 true _ _ => (if c % 128 = 0 then c else c ^^^ 128, 0)
  | .b8 false _ _ => roundNum f (numNegate (decodeNum f c)) (rm &&& 8) 0
  | f => (c ^^^ signBit f, 0)

/-- VABS (R419, R421). -/
def vabsOut (x : VIn) : VOut :=
  match x.fmt with
  | .int w signed => elementwise false passB (fun l _ => intFit w signed x.rm (intElem x.fmt l.b).natAbs) x
  | f => elementwise true passB (fun l _ => (codeAbs f l.b, 0)) x

/-- VNEG (R419, R421). -/
def vnegOut (x : VIn) : VOut :=
  match x.fmt with
  | .int w signed => elementwise false passB (fun l _ => intFit w signed x.rm (-(intElem x.fmt l.b))) x
  | f => elementwise true passB (fun l _ => codeNeg f x.rm l.b) x

/-- A bitwise or shifting operation on element codes: no flag, no draw (R422, R431, R434, R435). -/
def vecBits (f : Lane → Nat) (x : VIn) : VOut := elementwise false passA (fun l _ => (f l, 0)) x

/-- A table or transcendental operation on b: RNE, no draw, disabled elements take b's (R426, R430). -/
def vecMap (f : Num → Nat × Flags) (x : VIn) : VOut := elementwise false passB (fun l _ => f (decodeNum f32 l.b)) x

/-- VSRA of one element, read as signed (R435). -/
def sraElem (w : Nat) (a s : Nat) : Nat :=
  intCode w (Int.fdiv (if 2 ^ (w - 1) ≤ a then (a : Int) - 2 ^ w else a) (2 ^ s))

/-- The conditions of VCMP (R423): 0 EQ, 1 NE, 2 LT, 3 LE, 4 GT, 5 GE, 6 UN. -/
def codeCond (f : Fmt) (cond p q : Nat) : Bool :=
  let x := decodeNum f p
  let y := decodeNum f q
  match cond with
  | 0 => numEq x y
  | 1 => !numEq x y
  | 2 => numLt x y
  | 3 => numLt x y || numEq x y
  | 4 => numLt y x
  | 5 => numLt y x || numEq x y
  | _ => x == .nan || y == .nan

/-- A mask from the lanes that satisfy a test. -/
def laneMask (ls : List Lane) (f : Lane → Bool) : Vec :=
  ls.foldl (fun r l => if f l then r ||| ((1 : Vec) <<< l.e) else r) 0

/-- VCMP (R423). -/
def vcmpOut (x : VIn) : VOut :=
  ⟨laneMask (vecLanes x) fun l => l.on && codeCond x.fmt (x.ctl % 8) l.a l.b, 0, x.gen⟩

def vcmpBad (x : VIn) : Option Nat := if x.ctl % 8 = 7 then some 7 else none

/-- One level of VREDA's tree (R140). -/
def addLevel (f : Fmt) (rm : BitVec 4) : List Nat → BitVec 32 → List Nat × Flags × BitVec 32
  | p :: q :: xs, g =>
    let d := if fmtIsInt f then (0, g) else drawIf rm g
    let y := match f with
      | .int w signed => intFit w signed rm (intElem f p + intElem f q)
      | f =>
        let v := numAdd (decodeNum f p) (decodeNum f q)
        let r := roundNum f v.1 rm d.1
        (r.1, v.2 ||| r.2)
    let rest := addLevel f rm xs d.2
    (y.1 :: rest.1, y.2 ||| rest.2.1, rest.2.2)
  | xs, g => (xs, 0, g)

/-- VREDA's levels (R433). -/
def addTree (f : Fmt) (rm : BitVec 4) : Nat → List Nat → BitVec 32 → Nat × Flags × BitVec 32
  | 0, xs, g => (xs.headD 0, 0, g)
  | n + 1, xs, g =>
    let r := addLevel f rm xs g
    let q := addTree f rm n r.1 r.2.2
    (q.1, r.2.1 ||| q.2.1, q.2.2)

def vredaOut (x : VIn) : VOut :=
  let r := addTree x.fmt x.rm (Nat.log2 (vecCount x)) ((vecLanes x).map fun l => if l.on then l.b else 0) x.gen
  ⟨BitVec.ofNat 2048 r.1, r.2.1, r.2.2⟩

/-- One level of VREDM's tree; an absent element is `none` (R433). -/
def pickLevel (f : Fmt) (greater : Bool) : List (Option Nat) → List (Option Nat)
  | some p :: some q :: xs => some (codeChoose f greater p q) :: pickLevel f greater xs
  | some p :: none :: xs => some p :: pickLevel f greater xs
  | none :: q :: xs => q :: pickLevel f greater xs
  | xs => xs

def pickTree (f : Fmt) (greater : Bool) : Nat → List (Option Nat) → Option Nat
  | 0, xs => (xs.head?).getD none
  | n + 1, xs => pickTree f greater n (pickLevel f greater xs)

def vredmOut (x : VIn) : VOut :=
  let r := pickTree x.fmt (x.ctl.testBit 0) (Nat.log2 (vecCount x)) ((vecLanes x).map fun l => if l.on then some l.b else none)
  ⟨BitVec.ofNat 2048 (r.getD 0), 0, x.gen⟩

/-- VPERM of one element (R431). -/
def permElem (x : VIn) (xs : List Nat) (i : Nat) : Nat :=
  if x.ctl.testBit 0 then xs.getD i 0 else xs.getD (i % vecCount x) 0

def vpermOut (x : VIn) : VOut :=
  let xs := vecElems x x.a
  vecBits (fun l => permElem x xs l.b) x

/-- Byte `j` of sc (R414). -/
def scaleByte (x : VIn) (j : Nat) : Nat := x.sc.toNat / 2 ^ (8 * j) % 256

/-- VCVT's part. -/
def ctlPart (x : VIn) : Nat := x.ctl / 256 % 4

/-- VCVT's invalid controls (R424): a reserved or E8 destination; scales on a source outside the binary8 family. -/
def vcvtBad (x : VIn) : Option Nat :=
  match fmtOfCode (cvtDst x) with
  | none => some (cvtDst x)
  | some .e8 => some (cvtDst x)
  | some _ => if x.ctl.testBit 10 ∧ !fmtIsB8 x.fmt then some x.code else none

/-- One converted element of VCVT: result index, source index, a's and b's elements (R424). [log 27 DEDUCED, 29 DEDUCED] -/
def cvtElem (x : VIn) (d : Fmt) (j : Nat) (ib : Nat × Nat) (aj : Nat) (r : Nat) : Nat × Flags :=
  if x.k.getLsbD j then
    if x.ctl.testBit 10 then
      roundNum d (scaleBy (decodeNum x.fmt ib.2) (scaleByte x (ib.1 / 8))) x.rm r
    else convert x.fmt d ib.2 x.rm r
  else (aj, 0)

/-- VCVT (R424). [log 27 DEDUCED] -/
def vcvtOut (x : VIn) : VOut :=
  let d := (fmtOfCode (cvtDst x)).getD f32
  let ws := fmtWidth x.fmt
  let wd := fmtWidth d
  let src := (List.range (2048 / ws)).zip (splitElems ws (2048 / ws) x.b.toNat)
  let as := splitElems wd (2048 / wd) x.a.toNat
  let m := 2048 / max ws wd
  let off := if wd < ws then ctlPart x % (ws / wd) * m else 0
  let from' := if ws < wd then ctlPart x % (wd / ws) * m else 0
  let items := (List.range m).zip ((src.drop from').zip (as.drop off))
  let r := convList (fun (p : Nat × (Nat × Nat) × Nat) dr => cvtElem x d (off + p.1) p.2.1 p.2.2 dr) x.rm items x.gen
  ⟨packVec wd (as.take off ++ r.1 ++ as.drop (off + m)), r.2.1, r.2.2⟩

/-- VQNT's invalid control: a destination outside the binary8 family (R432). -/
def vqntBad (x : VIn) : Option Nat :=
  match fmtOfCode (cvtDst x) with
  | some f => if fmtIsB8 f then none else some (cvtDst x)
  | none => some (cvtDst x)

/-- VQNT (R432). -/
def vqntOut (x : VIn) : VOut :=
  let d := (fmtOfCode (cvtDst x)).getD f32
  let nums := (vecElems x x.b).map (decodeNum f32)
  let scales := (List.range 8).map fun j => blockScale d ((nums.drop (8 * j)).take 8)
  let as := splitElems 8 256 x.a.toNat
  if x.ctl.testBit 11 then
    ⟨packVec 8 (as.take (8 * ctlPart x) ++ scales ++ as.drop (8 * ctlPart x + 8)), 0, x.gen⟩
  else
    let items := (List.range 64).zip (nums.zip (as.drop (64 * ctlPart x)))
    let r := convList (fun (p : Nat × Num × Nat) dr =>
      if x.k.getLsbD p.1 then roundNum d (unscale p.2.1 (scales.getD (p.1 / 8) 127)) (x.rm ||| 8) dr
      else (p.2.2, 0)) x.rm items x.gen
    ⟨packVec 8 (as.take (64 * ctlPart x) ++ r.1 ++ as.drop (64 * ctlPart x + 64)), r.2.1, r.2.2⟩

/-- An exact sum of terms: NaN with NV for +∞ and −∞ among them, whatever their order (R138). -/
def numSum (ts : List Num) : Num × Flags :=
  if ts.any (· == .inf true) && ts.any (· == .inf false) then (.nan, flagNV)
  else
    match ts with
    | [] => (.fin false 0 0, 0)
    | t :: rest => (rest.foldl (fun v y => (numAdd v y).1) t, 0)

/-- Products of elements with the flags of 0 × ∞. -/
def products (f g : Fmt) (xs ys : List Nat) : List (Num × Flags) :=
  (xs.zip ys).map fun p => numMul (decodeNum f p.1) (decodeNum g p.2)

/-- VDOT8's invalid controls (R425). -/
def vdotBad (x : VIn) : Option Nat :=
  match fmtOfCode (dotB x) with
  | none => some (dotB x)
  | some f =>
    if acceptDot f && fmtIsB8 f == fmtIsB8 x.fmt then
      (if x.ctl.testBit 1 ∧ !fmtIsB8 x.fmt then some x.code else none)
    else some (dotB x)

/-- A binary8 dot product of VDOT8: the exact sum of products, scaled, with the addend, rounded once (R139, R425). -/
def dotFloat (x : VIn) (fb : Fmt) (j : Nat) (as bs : List Nat) (cj r : Nat) : Nat × Flags :=
  let ps := products x.fmt fb as bs
  let pf := ps.foldl (fun m p => m ||| p.2) 0
  let t := numSum (ps.map (·.1))
  let p := if x.ctl.testBit 1 then scaleBy (scaleBy t.1 (scaleByte x j)) (scaleByte x (32 + j)) else t.1
  let v := if x.ctl.testBit 0 then numAdd p (decodeNum f32 cj) else (p, 0)
  let y := roundNum f32 v.1 x.rm r
  (y.1, pf ||| t.2 ||| v.2 ||| y.2)

/-- An integer dot product of VDOT8 (R425). -/
def dotInt (x : VIn) (fb : Fmt) (as bs : List Nat) (cj : Nat) : Nat × Flags :=
  intFit 32 true x.rm (((as.zip bs).map fun p => intElem x.fmt p.1 * intElem fb p.2).sum +
    if x.ctl.testBit 0 then intElem (.int 32 true) cj else 0)

/-- VDOT8 (R425). -/
def vdotOut (x : VIn) : VOut :=
  let fb := (fmtOfCode (dotB x)).getD f32
  let as := splitElems 8 256 x.a.toNat
  let bs := splitElems 8 256 x.b.toNat
  let cs := splitElems 32 32 x.c.toNat
  let r := convList (fun (p : Nat × Nat) dr =>
    let xa := (as.drop (8 * p.1)).take 8
    let xb := (bs.drop (8 * p.1)).take 8
    if x.k.getLsbD p.1 then (if fmtIsB8 x.fmt then dotFloat x fb p.1 xa xb p.2 dr else dotInt x fb xa xb p.2)
    else (p.2, 0)) (if fmtIsB8 x.fmt then x.rm else 0) ((List.range 32).zip cs) x.gen
  ⟨packVec 32 r.1, r.2.1, r.2.2⟩

/-- A mask operation on all 256 bits (R428). -/
def vecMask (f : Mask → Mask → Mask) (x : VIn) : VOut := ⟨(f (x.a.setWidth 256) (x.b.setWidth 256)).setWidth 2048, 0, x.gen⟩

/-- VKRED's predicate value (R429). -/
def kredValue (x : VIn) : Bool :=
  let es := (List.range (vecCount x)).filter fun e => x.k.getLsbD e
  if x.b.getLsbD 3 then es.all fun e => x.a.getLsbD e else es.any fun e => x.a.getLsbD e

/-- The table a VLUT load brings (R430). -/
def lutLoaded (x : VIn) : Lut :=
  let c := splitElems 32 3 x.c.toNat
  ⟨BitVec.ofNat 32 (c.getD 1 0), BitVec.ofNat 32 (c.getD 2 0),
    ((splitElems 32 64 x.a.toNat) ++ [c.getD 0 0]).map (BitVec.ofNat 32 ·)⟩

/-- VLUT, whose ctl.LOAD tells a load from an evaluation at its arrival (R430). [log 84 DEDUCED] -/
def vlut (i : Instr) (u : VUnit) (m : Mv) (s : State) : Out :=
  vecTrigger i u m none acceptF32 ctlAny (fun fl x s =>
    if x.ctl.testBit 0 then
      let l := lutLoaded x
      modMe s fun c => setVecLut (if lutBounds l.lo l.hi then c else addFlags c flagNV) u l
    else
      let l := vecLut (myCore s) u
      let r := vecMap (fun v => lutEval l.lo l.hi l.vals v) x
      complete s fl (vecResult u) 6 r.res r.flags) s

/-- One exact operand pair to a sum, difference or product. -/
def numSub (x y : Num) : Num × Flags := numAdd x (numNegate y)

/-- VADD (R419). -/
def execVadd (u : VUnit) (m : Mv) (s : State) : Out :=
  vecOp (.vadd u m) u m none acceptArith ctlAny latArith (vecArith passA (fun x y _ => numAdd x y) (fun x y _ => x + y)) s

/-- VSUB (R419). -/
def execVsub (u : VUnit) (m : Mv) (s : State) : Out :=
  vecOp (.vsub u m) u m none acceptArith ctlAny latArith (vecArith passA (fun x y _ => numSub x y) (fun x y _ => x - y)) s

/-- VMUL (R419). -/
def execVmul (u : VUnit) (m : Mv) (s : State) : Out :=
  vecOp (.vmul u m) u m none acceptArith ctlAny latArith (vecArith passA (fun x y _ => numMul x y) (fun x y _ => x * y)) s

/-- VFMA: one rounding (R419). -/
def execVfma (u : VUnit) (m : Mv) (s : State) : Out :=
  vecOp (.vfma u m) u m none acceptArith ctlAny latArith (vecArith passA numFma (fun x y z => x * y + z)) s

/-- VMIN (R420). -/
def execVmin (u : VUnit) (m : Mv) (s : State) : Out :=
  vecOp (.vmin u m) u m none acceptArith ctlAny latArith (fun x => vecBits (fun l => codeChoose x.fmt false l.a l.b) x) s

/-- VMAX (R420). -/
def execVmax (u : VUnit) (m : Mv) (s : State) : Out :=
  vecOp (.vmax u m) u m none acceptArith ctlAny latArith (fun x => vecBits (fun l => codeChoose x.fmt true l.a l.b) x) s

/-- VABS (R419, R421). -/
def execVabs (u : VUnit) (m : Mv) (s : State) : Out :=
  vecOp (.vabs u m) u m none acceptArith ctlAny (fun _ => 2) vabsOut s

/-- VNEG (R419, R421). -/
def execVneg (u : VUnit) (m : Mv) (s : State) : Out :=
  vecOp (.vneg u m) u m none acceptArith ctlAny (fun _ => 2) vnegOut s

/-- VAND (R422). -/
def execVand (u : VUnit) (m : Mv) (s : State) : Out :=
  vecOp (.vand u m) u m (some .s) acceptAny ctlAny (fun _ => 1) (vecBits fun l => l.a &&& l.b) s

/-- VOR (R422). -/
def execVor (u : VUnit) (m : Mv) (s : State) : Out :=
  vecOp (.vor u m) u m (some .s) acceptAny ctlAny (fun _ => 1) (vecBits fun l => l.a ||| l.b) s

/-- VXOR (R422). -/
def execVxor (u : VUnit) (m : Mv) (s : State) : Out :=
  vecOp (.vxor u m) u m (some .s) acceptAny ctlAny (fun _ => 1) (vecBits fun l => l.a ^^^ l.b) s

/-- VSHL (R435). -/
def execVshl (u : VUnit) (m : Mv) (s : State) : Out :=
  vecOp (.vshl u m) u m (some .z) acceptInt ctlAny (fun _ => 2) (fun x => vecBits (fun l => l.a * 2 ^ (l.b % fmtWidth x.fmt)) x) s

/-- VSHR (R435). -/
def execVshr (u : VUnit) (m : Mv) (s : State) : Out :=
  vecOp (.vshr u m) u m (some .z) acceptInt ctlAny (fun _ => 2) (fun x => vecBits (fun l => l.a / 2 ^ (l.b % fmtWidth x.fmt)) x) s

/-- VSRA (R435). -/
def execVsra (u : VUnit) (m : Mv) (s : State) : Out :=
  vecOp (.vsra u m) u m (some .z) acceptInt ctlAny (fun _ => 2) (fun x => vecBits (fun l => sraElem (fmtWidth x.fmt) l.a (l.b % fmtWidth x.fmt)) x) s

/-- VCLAMP (R420). -/
def execVclamp (u : VUnit) (m : Mv) (s : State) : Out :=
  vecOp (.vclamp u m) u m none acceptArith ctlAny latArith (fun x => vecBits (fun l => codeClamp x.fmt l.a l.b l.c) x) s

/-- VSEL (R434). -/
def execVsel (u : VUnit) (m : Mv) (s : State) : Out :=
  vecOp (.vsel u m) u m none acceptAny ctlAny (fun _ => 1) (vecBits fun l => l.b) s

/-- VCMP (R423). -/
def execVcmp (u : VUnit) (m : Mv) (s : State) : Out :=
  vecOp (.vcmp u m) u m none acceptArith vcmpBad (fun _ => 2) vcmpOut s

/-- VREDA (R433). -/
def execVreda (u : VUnit) (m : Mv) (s : State) : Out :=
  vecOp (.vreda u m) u m none acceptArith ctlAny (fun _ => 8) vredaOut s

/-- VREDM (R433). -/
def execVredm (u : VUnit) (m : Mv) (s : State) : Out :=
  vecOp (.vredm u m) u m none acceptArith ctlAny (fun _ => 8) vredmOut s

/-- VPERM (R431). -/
def execVperm (u : VUnit) (m : Mv) (s : State) : Out :=
  vecOp (.vperm u m) u m (some .z) acceptAny ctlAny (fun _ => 3) vpermOut s

/-- VCVT (R424). -/
def execVcvt (u : VUnit) (m : Mv) (s : State) : Out :=
  vecOp (.vcvt u m) u m none acceptAny vcvtBad (fun _ => 3) vcvtOut s

/-- VQNT (R432). -/
def execVqnt (u : VUnit) (m : Mv) (s : State) : Out :=
  vecOp (.vqnt u m) u m none acceptF32 vqntBad (fun _ => 5) vqntOut s

/-- VDOT8 (R425). -/
def execVdot8 (u : VUnit) (m : Mv) (s : State) : Out :=
  vecOp (.vdot8 u m) u m none acceptDot vdotBad (fun _ => 5) vdotOut s

/-- VEXP2 (R141, R142, R426). -/
def execVexp2 (u : VUnit) (m : Mv) (s : State) : Out :=
  vecOp (.vexp2 u m) u m none acceptF32 ctlAny (fun _ => 6) (vecMap exp2F32) s

/-- VLOG2 (R141, R142, R426). -/
def execVlog2 (u : VUnit) (m : Mv) (s : State) : Out :=
  vecOp (.vlog2 u m) u m none acceptF32 ctlAny (fun _ => 6) (vecMap log2F32) s

/-- VRCP (R141, R142, R426). -/
def execVrcp (u : VUnit) (m : Mv) (s : State) : Out :=
  vecOp (.vrcp u m) u m none acceptF32 ctlAny (fun _ => 10) (vecMap rcpF32) s

/-- VRSQ (R141, R142, R426). -/
def execVrsq (u : VUnit) (m : Mv) (s : State) : Out :=
  vecOp (.vrsq u m) u m none acceptF32 ctlAny (fun _ => 10) (vecMap rsqF32) s

/-- VSIG (R141, R142, R426). -/
def execVsig (u : VUnit) (m : Mv) (s : State) : Out :=
  vecOp (.vsig u m) u m none acceptF32 ctlAny (fun _ => 6) (vecMap sigF32) s

/-- VLUT with ctl.LOAD = 0 (R430). -/
def execVlutEval (u : VUnit) (m : Mv) (s : State) : Out :=
  vlut (.vlutEval u m) u m s

/-- VLUT with ctl.LOAD = 1 (R430). [log 84 DEDUCED] -/
def execVlutLoad (u : VUnit) (m : Mv) (s : State) : Out :=
  vlut (.vlutLoad u m) u m s

/-- VIOTA (R427). -/
def execViota (u : VUnit) (m : Mv) (s : State) : Out :=
  vecOp (.viota u m) u m (some .z) acceptInt ctlAny (fun _ => 2) (elementwise false passB fun l _ => (l.b + l.e, 0)) s

/-- VKAND (R428). -/
def execVkand (u : VUnit) (m : Mv) (s : State) : Out :=
  vecOp (.vkand u m) u m (some .s) acceptAny ctlAny (fun _ => 1) (vecMask fun a b => a &&& b) s

/-- VKOR (R428). -/
def execVkor (u : VUnit) (m : Mv) (s : State) : Out :=
  vecOp (.vkor u m) u m (some .s) acceptAny ctlAny (fun _ => 1) (vecMask fun a b => a ||| b) s

/-- VKNOT (R428). -/
def execVknot (u : VUnit) (m : Mv) (s : State) : Out :=
  vecOp (.vknot u m) u m (some .s) acceptAny ctlAny (fun _ => 1) (vecMask fun _ b => ~~~b) s

/-- VKRED: a predicate present from t + 2, no result port (R429). -/
def execVkred (u : VUnit) (m : Mv) (s : State) : Out :=
  vecTrigger (.vkred u m) u m (some .z) acceptAny ctlAny
    (fun fl x s => schedulePred s fl 2 (x.b.toNat % 8) 2 (kredValue x)) s

end Sys2Proof.Machine
end

