-- ==== Sys2Proof/Machine/Scan.lean ====
section
/-! DEFINITION. The known path (R146, R147): which bundles a core issues in the coming cycles if no further move changes it, and
the fetches and stream reads that follow it (R86, R89). -/

namespace Sys2Proof.Machine

/-- A core as the known path foresees it, with the predicate writes to come: present cycle, predicate, value; and the T_halt at
which a park ends (R162, R163). -/
structure Ahead where
  core : Core
  preds : List (Nat × Nat × Bool)
  halt : Option Nat := none
  deriving DecidableEq, Repr

/-- What a move that arrives after the bundle of its cycle has issued changes of the path: predicates, the operands that
decide them, and a barrier wait (R64, R155, R348, R429). -/
def aheadEffect (p : Ahead) (fl : Flight) : Ahead :=
  let c := p.core
  match fl.instr with
  | .move _ (.preg n) => { p with preds := p.preds ++ [(fl.arrive + 1, n.val, (scalarIn .z fl.val).getLsbD 0)] }
  | .move _ d => { p with core := writeDest c d fl.val }
  | .vkred u _ =>
    let t := tyClass c u
    let c := setVport c (vecBase u + 1) (vecIn .z t.2 fl.val)
    let x := vecInputs c u
    { p with core := setKport c (vecBase u + 3) onesMask, preds := p.preds ++ [(fl.arrive + 2, x.b.toNat % 8, kredValue x)] }
  | .barrive _ =>
    if (portOf c 0x3C0).getLsbD 0 then
      { p with core := { c with waits := { c.waits with barriers := c.waits.barriers ++ [⟨0, 0, none⟩] } } }
    else p
  | i =>
    match compareKind i with
    | some k =>
      let c := setPort c 0x081 (scalarIn k.cls fl.val)
      let q := (portOf c 0x083).toNat
      { p with core := c
               preds := p.preds ++ (combine (q / 64 % 8) (q / 8 % 8) (q % 8) fl.g (k.test (portOf c 0x080) (portOf c 0x081))).map
                 fun w => (fl.arrive + k.lat, w.1, w.2.1) }
    | none =>
      match (dstId i).map (· / 64) with
      | some 4 => { p with core := setKport c (vecBase .va + 3) onesMask }
      | some 6 => { p with core := setKport c (vecBase .vb + 3) onesMask }
      | _ => p

/-- The arrivals of cycle `y` that follow its bundle's issue, operands before triggers (R59, R95). -/
def aheadArrivals (fls : List Flight) (y : Nat) (p : Ahead) : Ahead :=
  [phTy, phOperand, phTrigger, phRegister].foldl (fun p ph =>
    (fls.filter fun f => decide (f.arrive = y ∧ arrivalPhase f.instr = ph)).foldl aheadEffect p) p

/-- One cycle of the known path: a drained core's park ends with T_halt, predicates become present, moves arrive at CT, the bundle
issues and takes its end steps, and the other moves arrive (R146, R147, R163). -/
def aheadCycle (fls : List Flight) (p : Ahead) (y : Nat) : Ahead × Option (Nat × Core) :=
  let c := (p.preds.filter fun w => w.1 = y).foldl (fun c w => setPred c w.2.1 w.2.2)
    (if p.halt = some y then leavePark p.core else p.core)
  let due := fls.filter fun f => decide (f.arrive = y)
  let c := (due.filter fun f => decide (arrivalPhase f.instr = phCtOperand)).foldl (fun c f => ctLocal f c) c
  let c := (due.filter fun f => decide (arrivalPhase f.instr = phCt)).foldl (fun c f => ctLocal f c) c
  if canIssue c y ∧ c.raised = [] then
    let c := applyStarts { c with waits := {} } y
    let b := c.pc
    (aheadArrivals fls y { p with core := endSteps 4 { c with pc := b + 1, nextIssue := y + 1 } b }, some (b, c))
  else (aheadArrivals fls y { p with core := c }, none)

/-- The known path for `n` cycles from `y`: each cycle, its bundle, and the core as that bundle would find it. -/
def knownPath (fls : List Flight) : Nat → Ahead → Nat → List (Nat × Nat × Core)
  | 0, _, _ => []
  | n + 1, p, y =>
    match aheadCycle fls p y with
    | (p', some (b, c)) => (y, b, c) :: knownPath fls n p' (y + 1)
    | (p', none) => knownPath fls n p' (y + 1)

/-- The station a move in flight goes to. -/
def flightStation (fl : Flight) : Nat :=
  match fl.instr with
  | .move _ d => destId d / 64
  | i => (dstId i).getD 64 / 64

/-- The moves of core `k` in flight that can change its path: to CT, SA, VA, VB and SY. -/
def pathFlights (s : State) (k : Nat) : List Flight :=
  s.agenda.filterMap fun j =>
    match j.core, j.task with
    | some k', .arrive fl => if k' = k ∧ [0, 2, 4, 6, 15].contains (flightStation fl) then some fl else none
    | _, _ => none

/-- The predicate writes of core `k` that are still to become present. -/
def predsDue (s : State) (k : Nat) : List (Nat × Nat × Bool) :=
  s.agenda.filterMap fun j =>
    match j.core, j.task with
    | some k', .deed (.pred n v) => if k' = k then some (j.due, n.val, v) else none
    | _, _ => none

/-- The known path of core `k` after its cycle `x`, for the four cycles that follow (R147). -/
def pathAfter (s : State) (k x : Nat) : List (Nat × Nat × Core) :=
  let fls := pathFlights s k
  let v := (coreGang s k).vote
  knownPath fls 4 (aheadArrivals fls x ⟨coreOf s k, predsDue s k, if v.drain then some v.tHalt else none⟩) (x + 1)

/-- The first cycle at which the prediction made before no longer holds: that of this cycle's bundle, or a later one that the
new path does not have (R147). -/
def firstMiss (c : Core) (path : List (Nat × Nat)) (x : Nat) : Option Nat :=
  match (c.path.filter fun p => decide (x ≤ p.1) &&
      !(if p.1 = x then decide (c.curCycle = some x ∧ c.curBundle = p.2) else path.contains p)).map (·.1) with
  | [] => none
  | y :: ys => some (ys.foldl min y)

/-- Undo the reads of a prediction that is void, from its first bundle that does not issue as predicted (R147). -/
def voidReads (c : Core) (path : List (Nat × Nat)) (x : Nat) : Core :=
  match firstMiss c path x with
  | none => c
  | some y => undoReads c y

/-- Fetch the bundle that the known path issues at `x + 2` (R89). -/
def fetchAhead (c : Core) (path : List (Nat × Nat)) (x : Nat) : Core :=
  match path.find? fun p => decide (p.1 = x + 2) with
  | some (_, b) =>
    if c.ahead.any fun e => decide (e.1 = x + 2 ∧ e.2.1 = b) then c
    else { c with ahead := c.ahead ++ [(x + 2, b, bundleAt c b)]
                  aheadBad := if c.badBundles.contains b then c.aheadBad ++ [(x + 2, b)] else c.aheadBad }
  | none => c

/-- Group the pops and peeks of a bundle by stream, in ascending stream number. -/
def popsByStream (ms : List (Nat × Nat × Bool × Bool)) : List (Nat × List (Nat × Bool × Bool)) :=
  (List.range 16).filterMap fun q =>
    match (ms.filter fun m => decide (m.2.1 = q)).map fun m => (m.1, m.2.2.1, m.2.2.2) with
    | [] => none
    | l => some (q, l)

/-- The pops and peeks that the known path issues at `i` from core `c`, their guards decided now (R86). [log 24 DEDUCED] -/
def plannedPops (c : Core) (path : List (Nat × Nat × Core)) (i : Nat) : Option (Nat × List (Nat × List (Nat × Bool × Bool))) :=
  (path.find? fun p => decide (p.1 = i)).map fun p =>
    (p.2.1, popsByStream ((popMoves (fetchBundle p.2.2 i)).map fun m =>
      (m.1, m.2.1, m.2.2.1, m.2.2.2.2 || earlyGuard c p.2.2 m.2.2.2.1)))

/-- Read ahead in cycle `x`: void what the path no longer holds, fetch at issue − 2, and schedule the reads of the pops that
issue at `x + 4` (R86, R89, R147). -/
def scanCore (s : State) (k : Nat) : State :=
  let x := gcycOf s k
  let c := coreOf s k
  if c.frozenAt.isSome then s
  else
    let path := pathAfter s k x
    let flat := path.map fun p => (p.1, p.2.1)
    let c := { fetchAhead (voidReads c flat x) flat x with path := flat }
    match plannedPops c path (x + 4) with
    | none => setCore s k c
    | some (b, ps) =>
      let s := setCore s k (reservePops c x (x + 4) b ((ps.filter fun p => p.2.any fun m => m.2.2).map (·.1)))
      ps.foldl (fun s p => postCore s k x (phStream p.1) (.event (.streamPopRead k (Fin.ofNat 16 p.1) (x + 4) b))) s

/-- The pops and peeks of stream `q` in bundle `b` as the known path of this cycle plans them. -/
def plannedMoves (s : State) (k q b x : Nat) : List (Nat × Bool × Bool) :=
  let c := coreOf s k
  match plannedPops c (pathAfter s k x) (x + 4) with
  | none => (popMoves (bundleAt c b)).filterMap fun m => if m.2.1 = q then some (m.1, m.2.2.1, guardOf c m.2.2.2.1) else none
  | some (_, ps) => ((ps.find? fun p => decide (p.1 = q)).map (·.2)).getD []

end Sys2Proof.Machine
end

