-- ==== Sys2Proof/Machine/Cipher.lean ====
section
/-! DEFINITION. AES-XTS-256, under which protected pages are stored (R221): AES with a key of 256 bits (FIPS 197) over a data unit
of whole 16-byte blocks with a tweak (IEEE 1619). [log 70 PRESUMED] -/

namespace Sys2Proof.Machine

/-! AES-256. A block is 16 bytes, byte `4 c + r` at row `r` of column `c`. -/

/-- Multiplication by x modulo x^8 + x^4 + x^3 + x + 1. -/
def aesDouble (b : Byte) : Byte := (b <<< 1) ^^^ (if b.getLsbD 7 then 0x1B else 0)

/-- The product of two bytes in that field, from `n` bits of the second. -/
def aesMulBits : Nat → Byte → Byte → Byte
  | 0, _, _ => 0
  | n + 1, a, b => (if b.getLsbD 0 then a else 0) ^^^ aesMulBits n (aesDouble a) (b >>> 1)

def aesMul (a b : Byte) : Byte := aesMulBits 8 a b

/-- The inverse in the field, a^254; 0 of 0. -/
def aesInverse (a : Byte) : Byte :=
  let a2 := aesMul a a
  let a3 := aesMul a2 a
  let a6 := aesMul a3 a3
  let a12 := aesMul a6 a6
  let a15 := aesMul a12 a3
  let a30 := aesMul a15 a15
  let a60 := aesMul a30 a30
  let a120 := aesMul a60 a60
  let a240 := aesMul a120 a120
  aesMul (aesMul a240 a12) a2

def aesSub (b : Byte) : Byte :=
  let i := aesInverse b
  i ^^^ i.rotateLeft 1 ^^^ i.rotateLeft 2 ^^^ i.rotateLeft 3 ^^^ i.rotateLeft 4 ^^^ 0x63

def aesUnsub (b : Byte) : Byte := aesInverse (b.rotateLeft 1 ^^^ b.rotateLeft 3 ^^^ b.rotateLeft 6 ^^^ 0x05)

def xorBytes (xs ys : List Byte) : List Byte := List.zipWith (· ^^^ ·) xs ys

/-- Byte `i` of a block or key. -/
def byteAt (bs : List Byte) (i : Nat) : Byte := bs.getD i 0

/-- The next word of the key schedule after `ws`, latest first; `i` is its index. -/
def aesNextWord (ws : List (List Byte)) (i : Nat) : List Byte :=
  let p := ws.headD []
  let t :=
    if i % 8 = 0 then
      xorBytes ((p.drop 1 ++ p.take 1).map aesSub) [(1 : Byte) <<< (i / 8 - 1), 0, 0, 0]
    else if i % 8 = 4 then p.map aesSub
    else p
  xorBytes t (ws.getD 7 [])

/-- The 15 round keys of 16 bytes. -/
def aesKeys (key : List Byte) : List (List Byte) :=
  let first := ((List.range 8).map fun i => (key.drop (4 * i)).take 4).reverse
  let ws := ((List.range 52).foldl (fun ws i => aesNextWord ws (i + 8) :: ws) first).reverse
  (List.range 15).map fun r => ((ws.drop (4 * r)).take 4).flatten

/-- Row `r` moves left by `r` columns; `d` is 1, or 3 for the way back. -/
def aesShift (d : Nat) (bs : List Byte) : List Byte :=
  (List.range 16).map fun i => byteAt bs ((i + 4 * d * (i % 4)) % 16)

/-- Each column times a polynomial, its coefficients from x^0 on. -/
def aesMix (k : List Byte) (bs : List Byte) : List Byte :=
  (List.range 16).map fun i =>
    (List.range 4).foldl (fun x j => x ^^^ aesMul (byteAt k ((j + 4 - i % 4) % 4)) (byteAt bs (i / 4 * 4 + j))) 0

def aesEncrypt (keys : List (List Byte)) (b : List Byte) : List Byte :=
  let b := (List.range 13).foldl (fun b r =>
    xorBytes (aesMix [2, 3, 1, 1] (aesShift 1 (b.map aesSub))) (keys.getD (r + 1) [])) (xorBytes b (keys.getD 0 []))
  xorBytes (aesShift 1 (b.map aesSub)) (keys.getD 14 [])

def aesDecrypt (keys : List (List Byte)) (b : List Byte) : List Byte :=
  let b := (List.range 13).foldl (fun b r =>
    aesMix [14, 11, 13, 9] (xorBytes ((aesShift 3 b).map aesUnsub) (keys.getD (13 - r) []))) (xorBytes b (keys.getD 14 []))
  xorBytes ((aesShift 3 b).map aesUnsub) (keys.getD 0 [])

/-! XTS. -/

/-- The tweak of the next block: times x modulo x^128 + x^7 + x^2 + x + 1. -/
def xtsDouble (t : BitVec 128) : BitVec 128 := (t <<< 1) ^^^ (if t.getLsbD 127 then 0x87 else 0)

/-- Every block of a data unit with `f`, its tweak added before and after. -/
def xtsBlocks (f : List Byte → List Byte) : Nat → BitVec 128 → List Byte → List Byte
  | 0, _, _ => []
  | n + 1, t, bs =>
    let x := leBytes 16 t.toNat
    xorBytes (f (xorBytes (bs.take 16) x)) x ++ xtsBlocks f n (xtsDouble t) (bs.drop 16)

/-- A data unit under a key of 512 bits, the data key in its low half, and a tweak: enciphered, or deciphered. -/
def xtsUnit (encipher : Bool) (key tweak : Nat) (bs : List Byte) : List Byte :=
  let data := aesKeys (leBytes 32 key)
  let t := BitVec.ofNat 128 (leNat (aesEncrypt (aesKeys (leBytes 32 (key / 2 ^ 256))) (leBytes 16 tweak)))
  xtsBlocks (if encipher then aesEncrypt data else aesDecrypt data) (bs.length / 16) t bs

/-- A data unit stored under seal `n`: a key and a tweak of 76 bits below bit 588; 0 is plain. -/
def sealUnit (n : Nat) (bs : List Byte) : List Byte :=
  if n = 0 then bs else xtsUnit true (n / 2 ^ 76 % 2 ^ 512) (n % 2 ^ 76) bs

/-- What a data unit reads as under seal `n`. -/
def unsealUnit (n : Nat) (bs : List Byte) : List Byte :=
  if n = 0 then bs else xtsUnit false (n / 2 ^ 76 % 2 ^ 512) (n % 2 ^ 76) bs

end Sys2Proof.Machine
end

