-- ==== Sys2Proof/Machine/Hub.lean ====
section
/-! DEFINITION. The hub's shared operations: partitions and contexts, device memory through bind tables (R309, R310), host
memory, and event logs (R316 to R318). -/

namespace Sys2Proof.Machine

def fabOf (s : State) : Fabric := s.hub.fab
def setFab (s : State) (f : Fabric) : State := { s with hub := { s.hub with fab := f } }
def dramOf (s : State) : Dram := s.hub.dram
def setDram (s : State) (d : Dram) : State := { s with hub := { s.hub with dram := d } }
def envOf (s : State) : Cluster := s.hub.env
def setEnv (s : State) (e : Cluster) : State := { s with hub := { s.hub with env := e } }
def authOf (s : State) : Authority := s.hub.auth
def setAuth (s : State) (a : Authority) : State := { s with hub := { s.hub with auth := a } }
def houseOf (s : State) : House := s.hub.house
def setHouse (s : State) (h : House) : State := { s with hub := { s.hub with house := h } }

/-- This package's chip id (R224). -/
def chipOf (s : State) : Nat := (fabOf s).chip

/-- A partition by its page: VDID for L0 and L2; 0x1000 + VDID for the L1 of a VF, whose VDID its interface 0 shares
(R304). -/
def partOf (s : State) (p : Nat) : Partition := tget {} (authOf s).parts p

def setPart (s : State) (p : Nat) (x : Partition) : State :=
  setAuth s { authOf s with parts := tset {} (authOf s).parts p x }

def modPart (s : State) (p : Nat) (f : Partition → Partition) : State := setPart s p (f (partOf s p))

/-- Level of a page (R304). [log 37 DESIGN CHOICE] -/
def levelOf (p : Nat) : Nat := if p = 0 then 0 else if 4096 ≤ p then 1 else 2

/-- Page of a VF's L1. [log 37 DESIGN CHOICE] -/
def l1Page (v : Nat) : Nat := 4096 + 16 * v

/-- The L1 above a page; PF0 has none above. [log 37 DESIGN CHOICE] -/
def l1Above (p : Nat) : Nat := if levelOf p = 2 then l1Page (p / 16) else p

/-- The parent of a page. -/
def parentOf (p : Nat) : Nat := if levelOf p = 2 then l1Page (p / 16) else 0

/-- VF number of a page. -/
def vfOf (p : Nat) : Nat := p % 4096 / 16

/-- Child page that a VDID names when the issuer is `p`. [log 37 DESIGN CHOICE] -/
def childPage (p vdid : Nat) : Nat := if levelOf p = 0 then 4096 + vdid / 16 * 16 else vdid

def ctxOf (s : State) (x : Nat) : Ctx := tget {} (authOf s).ctxs x

def setCtx (s : State) (x : Nat) (c : Ctx) : State := setAuth s { authOf s with ctxs := tset {} (authOf s).ctxs x c }

def modCtx (s : State) (x : Nat) (f : Ctx → Ctx) : State := setCtx s x (f (ctxOf s x))

/-- A retired core is skipped by context core indices (R247, R335). -/
def coreRetired (s : State) (k : Nat) : Bool := tget false (houseOf s).retiredCores k

/-- The cores of a core set in ascending index, retired ones skipped (R247). -/
def setCores (s : State) (j : Nat) : List Nat := (tget [] (authOf s).coreSets j).filter fun k => !coreRetired s k

/-- The core that serves as context core `i` of a gang's run (R247). -/
def coreAt (s : State) (g i : Nat) : Option Nat :=
  (s.cores.find? fun kc => decide (kc.2.gang = g ∧ kc.2.idx = i)).map (·.1)

/-- The cores that serve a gang's run. -/
def gangCores (s : State) (g : Nat) : List Nat := (s.cores.filter fun kc => decide (kc.2.gang = g)).map (·.1)

/-- The cores whose channel groups a gang's commands reach: those that serve it, and the others of its core set (R203). -/
def groupCores (s : State) (g : Nat) : List Nat :=
  let ks := gangCores s g
  ks ++ (setCores s (gangOf s g).coreset).filter fun k => !ks.contains k

/-- A gang runs in the present slot: it is on its core set (R233). -/
def onSet (x : Gang) : Bool := x.mode = .running || x.mode = .held

/-- Whether this package leads the gang's switches (R246). -/
def isLeader (s : State) (g : Nat) : Bool :=
  match (gangOf s g).members with
  | [] => true
  | m :: ms => decide (ms.foldl min m = chipOf s)

/-- The gang's leader: the lowest chip id of its members, this chip when the list is empty (R246). -/
def leaderOf (s : State) (g : Nat) : Nat :=
  match (gangOf s g).members with
  | [] => chipOf s
  | m :: ms => ms.foldl min m

/-- The gang's other members. -/
def others (s : State) (g : Nat) : List Nat := (gangOf s g).members.filter fun m => decide (m ≠ chipOf s)

/-! Bind-table entries (R310). -/

def bdV (e : Word) : Bool := e.getLsbD 0
def bdCore (e : Word) : Nat := e.toNat / 2 % 8 * 128 + e.toNat / 16 % 128
def bdPage (e : Word) : Nat := e.toNat / 2 ^ 11 % 256
def bdSC (e : Word) : Bool := e.getLsbD 19
def bdRdonly (e : Word) : Bool := e.getLsbD 20
def bdEnv (e : Word) : Bool := e.getLsbD 21
def bdProt (e : Word) : Bool := e.getLsbD 22
def bdKey (e : Word) : Nat := e.toNat / 2 ^ 23 % 256
def bdShare (e : Word) : Bool := e.getLsbD 31
def bdOwner (e : Word) : Nat := e.toNat / 2 ^ 32 % 4096

/-- The entry a context linear address indexes, 0 where the address is out of range (R309). -/
def bindAt (s : State) (x lin : Nat) : Word := if lin < 2 ^ 35 then tget 0 (ctxOf s x).bind (lin / 2 ^ 21) else 0

/-- Device address of a page and an offset in it: package core index * 2^29 + home offset (R202). -/
def homeAddr (e : Word) (off : Nat) : Nat := bdCore e * 2 ^ 29 + bdPage e * 2 ^ 21 + off % 2 ^ 21

/-- Device address of a context linear address (R309). -/
def devAddr (s : State) (x lin : Nat) : Option Nat :=
  let e := bindAt s x lin
  if bdV e then some (homeAddr e lin) else none

/-- The context and bind-table entry that hold a page, by core * 256 + page: the OWNER's, of a shared one (R207, R310). -/
def pageHolder (s : State) (page : Nat) : Option (Nat × Nat × Word) :=
  (authOf s).ctxs.findSome? fun x => (x.2.bind.find? fun e =>
    bdV e.2 && !bdShare e.2 && decide (bdCore e.2 * 256 + bdPage e.2 = page)).map fun e => (x.1, e.1, e.2)

/-- The context that admission gave a page outside its address space: for save areas, region slots or the flight save area
(R261). -/
def pageSaver (s : State) (page : Nat) : Option Nat :=
  ((authOf s).ctxs.find? fun x => x.2.save.contains (page / 256, page % 256)).map (·.1)

/-- The seal that a protected entry of context `x` gives a sector at `at_` (R221). -/
def sealOf (s : State) (x : Nat) (e : Word) (at_ : Nat) : Nat :=
  2 ^ 588 + (tget 0 (authOf s).keys (bdCore e / 128 * 256 + bdKey e)).toNat * 2 ^ 76 + x % 2 ^ 12 * 2 ^ 64 + at_ % 2 ^ 64

/-- The seal of sector `i` now: key and tweak, the context id and the sector's context linear address, where the page's entry
is protected; the pages outside the address space of a protected context take its first protected entry's key and, above bit 63,
their device address; 0 for plain (R221, R266, R400). [log 104 DESIGN CHOICE] -/
def sealAt (s : State) (i : Nat) : Nat :=
  let page := i * 128 / 2 ^ 21
  match pageHolder s page with
  | some (x, n, e) => if bdProt e then sealOf s x e (n * 2 ^ 21 + i * 128 % 2 ^ 21) else 0
  | none =>
    match pageSaver s page with
    | some x =>
      match (ctxOf s x).bind.find? fun e => bdV e.2 && bdProt e.2 with
      | some e => sealOf s x e.2 (2 ^ 63 + i * 128)
      | none => 0
    | none => 0

/-- A sector as an access sees it: plain under the seal it was written under, what decipherment makes of it under another
(R221). [log 70 PRESUMED] -/
def sectorView (s : State) (i : Nat) : List Byte :=
  let raw := tbytes 0 (dramOf s).bytes (128 * i) 128
  let w := tget 0 (dramOf s).sealed i
  if w = sealAt s i then raw
  else
    let view := unsealUnit (sealAt s i) (sealUnit w raw)
    (List.range 128).map fun j => view.getD j 0

/-- A byte as an access sees it (R221). -/
def unsealed (s : State) (a : Nat) : Byte :=
  if tget 0 (dramOf s).sealed (a / 128) = sealAt s (a / 128) then tget 0 (dramOf s).bytes a
  else (sectorView s (a / 128)).getD (a % 128) 0

/-- Device memory bytes; what nothing has written reads 0. [log 1 DESIGN CHOICE] -/
def devBytes (s : State) (a n : Nat) : List Byte := (List.range n).map fun i => unsealed s (a + i)

/-- The sectors of 128 bytes a span touches. -/
def dramSectors (a n : Nat) : List Nat := if n = 0 then [] else (List.range ((a + n - 1) / 128 - a / 128 + 1)).map (a / 128 + ·)

/-- Sectors that a span covers whole. -/
def wholeSectors (a n : Nat) : List Nat := (dramSectors a n).filter fun i => decide (a ≤ i * 128 ∧ i * 128 + 128 ≤ a + n)

/-- Seal a span's sectors as their page is held now (R221). -/
def sealSpan (s : State) (t : Table Nat) (a n : Nat) : Table Nat :=
  (dramSectors a n).foldl (fun t i => tset 0 t i (sealAt s i)) t

/-- The bytes before a write of a span: a sector that it covers only in part and that is under another seal is taken as it now
reads (R221). -/
def reseal (s : State) (a n : Nat) : Table Byte :=
  ((dramSectors a n).filter fun i =>
      decide (tget 0 (dramOf s).sealed i ≠ sealAt s i) && !(wholeSectors a n).contains i).foldl
    (fun t i => tputs 0 t (128 * i) (sectorView s i)) (dramOf s).bytes

/-- Write device memory; whole-sector writes clear the poison bit and renew the ECC (R220), and the sectors are sealed as the
page's entry says (R221). -/
def putDev (s : State) (a : Nat) (bs : List Byte) : State :=
  let d := dramOf s
  setDram s
    { d with
      bytes := tputs 0 (reseal s a bs.length) a bs
      sealed := sealSpan s d.sealed a bs.length
      poison := (wholeSectors a bs.length).foldl (fun t i => tset false t i false) d.poison
      bad := (wholeSectors a bs.length).foldl (fun t i => tset false t i false) d.bad }

/-- Whether a sector of the span is uncorrectable or poisoned (R220). -/
def devPoisoned (s : State) (a n : Nat) : Bool :=
  (dramSectors a n).any fun i => tget false (dramOf s).poison i || tget false (dramOf s).bad i

/-- Bytes at a context linear address, none where an entry is invalid. -/
def linBytes (s : State) (x lin n : Nat) : Option (List Byte) := (devAddr s x lin).map fun a => devBytes s a n

/-- The hub writes a word of device memory for a context: a fence, NEXT or FLAGS (R251, R253). -/
def putLin (s : State) (x lin : Nat) (bs : List Byte) : State :=
  match devAddr s x lin with
  | some a => putDev s a bs
  | none => s

/-- Little-endian value at a linear address, 0 where it is unbound. -/
def linNat (s : State) (x lin n : Nat) : Nat := ((linBytes s x lin n).map leNat).getD 0

/-! Host memory, as the requester of a page sees it (R313). -/

/-- Convention: [log 79 DESIGN CHOICE] -/
def hostKey (p a : Nat) : Nat := p * 2 ^ 64 + a % 2 ^ 64

/-- Convention: [log 1 DESIGN CHOICE, 79 DESIGN CHOICE] -/
def hostBytes (s : State) (p a n : Nat) : List Byte := tbytes 0 (authOf s).host (hostKey p a) n

/-- Convention: [log 79 DESIGN CHOICE] -/
def putHost (s : State) (p a : Nat) (bs : List Byte) : State :=
  setAuth s { authOf s with host := tputs 0 (authOf s).host (hostKey p a) bs }

/-! Event logs (R316 to R318). The kinds are numbered by the model: the manual gives no numbers, and
what a record holds of a kind is a free value. -/

/-- Convention: [log 17 DESIGN CHOICE] -/
def evFault : Nat := 1
def evWatchdog : Nat := 2
def evHalt : Nat := 3
def evRefused : Nat := 4
def evCompose : Nat := 5
def evHostErr : Nat := 6
def evHartFault : Nat := 7
def evFsa : Nat := 8
def evRefusals : Nat := 9
def evIdle : Nat := 10
def evDisturb : Nat := 11
def evPower : Nat := 12
def evMemory : Nat := 13
def evLinkDown : Nat := 14
def evDeadPeer : Nat := 15
def evDesync : Nat := 16
def evThermal : Nat := 17
def evDigest : Nat := 18
def evCommand : Nat := 19
def evRevoked : Nat := 20
def evTdisp : Nat := 21
def evRetired : Nat := 22
def evRecord : Nat := 23
/-- Convention: [log 17 DESIGN CHOICE] -/
def evIntegrity : Nat := 24

/-- The CLASS byte (R317). -/
def classByte : EventClass → Nat
  | .program => 0
  | .resource => 1
  | .platform => 2
  | .control => 3

/-- Records a log holds, none when it is disabled (R319 EVSIZE). -/
def logSize (p : Partition) : Option Nat := if 4 ≤ p.evSize ∧ p.evSize ≤ 16 then some (2 ^ p.evSize) else none

/-- The 128 bytes of an event record (R317). [log 17 DESIGN CHOICE] -/
def eventBytes (s : State) (r : EventRec) : List Byte :=
  leBytes 2 (Config.eventKind r.kind).toNat ++ leBytes 1 (classByte r.cls) ++ leBytes 1 (if r.copy then 1 else 0) ++
    leBytes 2 (r.vdid % 4096) ++ leBytes 2 (chipOf s) ++ leBytes 8 r.pcyc ++
    (List.range 48).map (Config.eventData r.kind r.data) ++ (r.fault ++ leBytes 64 0).take 64

/-- The function and vector of a log's MSI-X message (R318): PF0 0; interface i of a VF i; the VF's L1 16. -/
def vectorOf (p : Nat) : Nat × Nat :=
  match levelOf p with
  | 0 => (0, 0)
  | 1 => (vfOf p * 16, 16)
  | _ => (vfOf p * 16, p % 16)

/-- Send the log's message, or set Pending while the vector is masked (R318). [log 89 PRESUMED] -/
def sendVector (s : State) (p : Nat) : State :=
  if (partOf s p).vecMasked then modPart s p fun x => { x with vecPending := true }
  else setAuth s { authOf s with messages := (authOf s).messages ++ [vectorOf p] }

/-- DMA of a VF in ERROR is blocked (R323). -/
def dmaBlocked (s : State) (p : Nat) : Bool := decide (tget .unlocked (authOf s).tdisp (vfOf p) = .error)

/-- Post a record to the log of page `p`; a full log, or one whose VF's DMA is blocked, drops it and counts it in EVLOST (R317,
R323). [log 54 DEDUCED] -/
def postRecord (s : State) (p : Nat) (r : EventRec) : State :=
  let x := partOf s p
  match logSize x with
  | none => s
  | some n =>
    if (x.evHead - x.evTail).toNat = n ∨ dmaBlocked s p then
      setPart s p { x with evLost := if x.evLost = BitVec.allOnes 32 then x.evLost else x.evLost + 1 }
    else
      let a := x.evBase.toNat / 128 * 128 + x.evHead.toNat % n * 128
      let s := putHost s p a (eventBytes s r)
      sendVector (modPart s p fun x => { x with evHead := x.evHead + 1 }) p

/-- The page whose log takes the records of L2 page `p`: its L1's where its own is disabled (R316). -/
def logPage (s : State) (p : Nat) : Nat :=
  if levelOf p = 2 ∧ (logSize (partOf s p)).isNone then l1Above p else p

/-- The partitions that an error of a page affects: those of the contexts that map it, a shared page's users included, and that
of the context whose save areas or flight save area it holds (R261, R310, R316). -/
def pagePart (s : State) (page : Nat) : List Nat :=
  (((authOf s).ctxs.filter fun x => (x.2.bind.any fun e => bdV e.2 && decide (bdCore e.2 * 256 + bdPage e.2 = page)) ||
    x.2.save.contains (page / 256, page % 256)).map (·.2.vdid)).eraseDups

/-- A PLATFORM event: to L0, with a copy to each L1 above a partition it affects and to each of those partitions that has a log
of its own (R316). -/
def postPlatform (s : State) (ps : List Nat) (kind : Nat) (data : List Nat) (fault : List Byte := []) : State :=
  let r : EventRec := ⟨kind, .platform, false, ps.headD 0, s.pod, data, fault⟩
  let qs := (ps.filter fun p => p ≠ 0).eraseDups
  let l1s := (qs.map l1Above).eraseDups
  let l2s := qs.filter fun p => levelOf p = 2 ∧ (logSize (partOf s p)).isSome
  (l1s ++ l2s).foldl (fun s q => postRecord s q { r with copy := true, vdid := if l2s.contains q then q else r.vdid }) (postRecord s 0 r)

/-- Deliver an event by its class (R316): PROGRAM and CONTROL to the partition, RESOURCE to the L1 above it, PLATFORM to L0
with copies to the partition and its L1; a mirrored interface's PROGRAM records are copied to the L1. -/
def postEvent (s : State) (p : Nat) (cls : EventClass) (kind : Nat) (data : List Nat) (fault : List Byte) : State :=
  let r : EventRec := ⟨kind, cls, false, p, s.pod, data, fault⟩
  match cls with
  | .program =>
    let q := logPage s p
    let s := postRecord s q r
    if (partOf s p).mirror ∧ levelOf p = 2 ∧ q = p then postRecord s (l1Above p) { r with copy := true } else s
  | .control => postRecord s (logPage s p) r
  | .resource => postRecord s (l1Above p) r
  | .platform => postPlatform s [p] kind data fault

/-- The partition of a gang. -/
def gangPart (s : State) (g : Nat) : Nat := (gangOf s g).vdid

/-- Count a hold, an error or another lifetime event: set * 2^22 + position (R336). -/
def countLife (s : State) (set pos n : Nat) : State :=
  let h := houseOf s
  setHouse s { h with lifetime := tmod 0 h.lifetime (set * 2 ^ 22 + pos) (· + n) }

end Sys2Proof.Machine
end

