-- ==== Sys2Proof/Machine/Leek.lean ====
section
/-! DEFINITION. The torus (R224, R225), Leek routes, and the lanes that carry control frames (R243). -/

namespace Sys2Proof.Machine

/-- Coordinate `k` of a chip id (R224). -/
def coord (id k : Nat) : Nat := id / 8 ^ k % 8

/-- s0 to s3. -/
def podSize (f : Fabric) : Nat → Nat
  | 0 => f.size0
  | 1 => f.size1
  | 2 => f.size2
  | _ => f.size3

/-- A chip id of the pod (R224). -/
def inPod (f : Fabric) (id : Nat) : Bool := decide (id < 4096) && (List.range 4).all fun k => decide (coord id k < podSize f k)

/-- Dimension and direction of a link index (R225). -/
def linkDim (n : Nat) : Nat := n / 4 % 4
def linkMinus (n : Nat) : Bool := n.testBit 1

/-- The reverse of a link (R225). -/
def reverseLink (n : Nat) : Nat := if n / 2 % 2 = 0 then n + 2 else n - 2

/-- The chip that a link of chip `id` leads to (R224, R225). -/
def stepChip (f : Fabric) (id n : Nat) : Nat :=
  let k := linkDim n
  let x := coord id k
  let z := podSize f k
  let y := if linkMinus n then (x + z - 1) % z else (x + 1) % z
  id + y * 8 ^ k - x * 8 ^ k

def linkAt (f : Fabric) (n : Nat) : LinkState := tget {} f.links n

/-- λ and μ of a link of any chip of the pod; of this chip, LINKST's (R227, R229). [log 41 DESIGN CHOICE] -/
def trainedOf (f : Fabric) (id n : Nat) : Nat × Nat :=
  let l := linkAt f n
  if id = f.chip then (l.lat, l.llat) else tget (l.lat, l.llat) f.trained (16 * id + n)

/-- LINKST.UP of a link of any chip of the pod: this chip's own, elsewhere what the pod manager has told (R229, R231). [log 41
DESIGN CHOICE] -/
def upOf (f : Fabric) (id n : Nat) : Bool :=
  if id = f.chip then (linkAt f n).up
  else decide (1 < podSize f (linkDim n) ∧ 0 < (trainedOf f id n).1) && !tget false f.downLinks (16 * id + n)

/-- The first hop of a Leek route in dimension order, its direction the shorter, + on a tie, as pair member 0 (R243). -/
def leekHop (f : Fabric) (a b : Nat) : Option Nat :=
  ((List.range 4).find? fun k => decide (coord a k ≠ coord b k)).map fun k =>
    let z := podSize f k
    let up := (coord b k + z - coord a k) % z
    let dn := (coord a k + z - coord b k) % z
    4 * k + if up ≤ dn then 0 else 2

/-- The Leek route from `a` to `b` as chips and links, at most `n` hops. -/
def leekRoute (f : Fabric) : Nat → Nat → Nat → List (Nat × Nat)
  | 0, _, _ => []
  | n + 1, a, b =>
    match leekHop f a b with
    | none => []
    | some l => (a, l) :: leekRoute f n (stepChip f a l) b

/-- The link of a pair that a Leek route takes at a chip: member 0, or member 1 when member 0 is down; none with both down
(R243). -/
def pairLink (f : Fabric) (id l : Nat) : Option Nat :=
  if upOf f id l then some l else if upOf f id (l + 1) then some (l + 1) else none

/-- The sum of μ along a route, over the links it takes (R237, R243). -/
def leekLatency (f : Fabric) (a b : Nat) : Nat :=
  ((leekRoute f 32 a b).map fun h => (trainedOf f h.1 ((pairLink f h.1 h.2).getD h.2)).2).sum

/-- A frame type's class (R243): `none` urgent, else its rank among the ordinary ones. -/
def leekRank : Instr → Option Nat
  | .abortgang .. => none
  | .deadpeer .. => none
  | .hold .. => none
  | .release .. => none
  | .prepare .. => none
  | .vote .. => some 0
  | .commit .. => some 1
  | .abort .. => some 2
  | .drop .. => some 3
  | .resyncFrame .. => some 4
  | .barrier .. => some 5
  | _ => some 6

def isAbortGang : Instr → Bool
  | .abortgang .. => true
  | _ => false

/-- The gang whose turn it is: the next id above the last one served, round-robin (R243). -/
def nextTurn (turn : Nat) (gs : List Nat) : Nat :=
  match gs.filter fun g => decide (turn < g) with
  | g :: hs => hs.foldl min g
  | [] => gs.foldl min (gs.headD 0)

/-- What leaves a lane next, what stays, and the turn (R243). [log 85 DEDUCED] -/
def laneNext (q : List LeekItem) (turn : Nat) : List LeekItem × List LeekItem × Nat :=
  let urgent := q.filter fun i => (leekRank i.msg).isNone
  if urgent ≠ [] then
    let g := nextTurn turn (urgent.map (·.gang))
    let mine := urgent.filter fun i => i.gang = g
    match mine.find? fun i => isAbortGang i.msg with
    | some a => ([a], q.filter fun i => !((leekRank i.msg).isNone && i.gang == g), g)
    | none =>
      let out := mine.take 4
      (out, q.filter fun i => !out.contains i, g)
  else
    match ((List.range 7).filterMap fun r => q.find? fun i => leekRank i.msg = some r).head? with
    | some i => ([i], q.erase i, turn)
    | none => ([], q, turn)

/-- Have a lane send when it is free, once (R243). [log 85 DEDUCED] -/
def wakeLane (s : State) (n : Nat) : State :=
  if s.agenda.any fun j => decide (j.task = .event (.leekLaneFree (Fin.ofNat 16 n))) then s
  else postPod s (max s.pod (linkAt (fabOf s) n).freeAt) phHub (.leekLaneFree (Fin.ofNat 16 n))

/-- The link a control frame takes at this chip: member 0 of its pair, member 1 when member 0 is down (R243). -/
def leekOut (f : Fabric) (dst : Nat) : Option Nat := (leekHop f f.chip dst).bind fun l => pairLink f f.chip l

/-- Put a control frame on a link's lane. [log 85 DEDUCED] -/
def leekQueue (s : State) (n : Nat) (i : LeekItem) : State :=
  let f := fabOf s
  wakeLane (setFab s { f with links := tmod {} f.links n fun l => { l with queue := l.queue ++ [i] } }) n

/-- A control frame takes its route's link at this chip; with both links of the pair down it is discarded and counted, and an
urgent one so lost desynchronises its gang (R29, R243). [log 7 DESIGN CHOICE, 85 DEDUCED] -/
def leekForward (s : State) (i : LeekItem) : State :=
  let f := fabOf s
  match leekOut f i.dst with
  | some n => leekQueue s n i
  | none =>
    let s := setFab s { f with discarded := f.discarded + 1 }
    if (leekRank i.msg).isNone then post s ⟨.pod, s.pod, phHub, none, .deed (.lostUrgent i.gang)⟩ else s

/-- Send a control frame to a chip; one to this chip arrives at once (R243). -/
def leekSend (s : State) (g dst : Nat) (msg : Instr) : State :=
  if dst = chipOf s then postPod s s.pod phHub msg else leekForward s ⟨msg, g, dst, s.pod⟩

/-- Send a control frame to every other member of a gang. -/
def leekMembers (s : State) (g : Nat) (msg : Instr) : State := (others s g).foldl (fun s m => leekSend s g m msg) s

/-! The 256 bits of the vote frames (R256). -/

/-- A field of `n` bits at bit `lo`. -/
def bitField (x lo n : Nat) : Nat := x % 2 ^ n * 2 ^ lo

/-- The bits of a vote frame of type 4 PREPARE, 5 VOTE, 6 COMMIT, 7 ABORT (R256). -/
def voteBits (type : Nat) (v : VoteFrame) : Nat :=
  bitField type 0 4 + bitField v.gang 4 24 + bitField v.dirIn.toNat 28 1 + bitField v.drain.toNat 29 1 +
    bitField v.force.toNat 30 1 + bitField v.switchNo 32 16 + bitField v.origin 48 64 +
    match type with
    | 4 => bitField v.tHalt 112 64 + bitField v.deadline 176 64 + bitField v.members 240 12
    | 5 => bitField v.chip 112 12 + bitField v.verdict.toNat 124 4 + bitField v.sent 128 48 + bitField v.ended 176 48 +
        bitField v.need 224 32
    | 6 => bitField v.tSwap 112 64
    | _ => bitField v.verdict.toNat 112 4 + bitField v.chip 116 12

/-- The fields that a vote frame's bits hold; those of another type are 0 (R256). -/
def voteFields (w : Nat) : VoteFrame :=
  let f := fun lo n => w / 2 ^ lo % 2 ^ n
  let is := fun ts x => if (ts : List Nat).contains (w % 16) then x else 0
  { gang := f 4 24, dirIn := w.testBit 28, drain := w.testBit 29, force := w.testBit 30, switchNo := f 32 16, origin := f 48 64
    tHalt := is [4] (f 112 64), deadline := is [4] (f 176 64), members := is [4] (f 240 12)
    chip := is [5] (f 112 12) + is [7] (f 116 12), verdict := BitVec.ofNat 4 (is [5] (f 124 4) + is [7] (f 112 4))
    sent := is [5] (f 128 48), ended := is [5] (f 176 48), need := is [5] (f 224 32), tSwap := is [6] (f 112 64) }

/-- A vote frame as its bits carry it. -/
def carried (type : Nat) (v : VoteFrame) : VoteFrame := voteFields (voteBits type v)

/-- A frame as it leaves: a vote frame is its 256 bits (R256); ALIGN tells the pod cycle in which it does, since its receiver
compares that with its own (R228). [log 85 DEDUCED] -/
def leaving (p : Nat) (i : LeekItem) : LeekItem :=
  match i.msg with
  | .align n _ => { i with msg := .align n p, origin := p }
  | .prepare v => { i with msg := .prepare (carried 4 v) }
  | .vote v => { i with msg := .vote (carried 5 v) }
  | .commit v => { i with msg := .commit (carried 6 v) }
  | .abort v => { i with msg := .abort (carried 7 v) }
  | _ => i

/-- ALIGN checks the one link it was sent on (R228). -/
def isAlign : Instr → Bool
  | .align .. => true
  | _ => false

/-- The frames that wait at a link that is down take the other link of the pair, or are discarded and counted; an ALIGN, which is
the link's own, is discarded (R243). -/
def reroute (s : State) (n : Nat) : State :=
  let f := fabOf s
  let q := (linkAt f n).queue
  let f := { f with
    links := tmod {} f.links n fun l => { l with queue := [] }
    discarded := f.discarded + (q.filter fun i => isAlign i.msg).length }
  (q.filter fun i => !isAlign i.msg).foldl leekForward (setFab s f)

/-- LEEK_LANE_FREE: the next frame leaves the lane and occupies it for 11 pod cycles; none leaves over a link that is down
(R243). -/
def execLeekLaneFree (link : Fin 16) (s : State) : Out :=
  let f := fabOf s
  let l := linkAt f link.val
  if s.pod < l.freeAt ∨ l.queue = [] then .next s
  else if !l.up then .next (reroute s link.val)
  else
    let r := laneNext l.queue l.turn
    let f := { f with links := tset {} f.links link.val { l with queue := r.2.1, turn := r.2.2, freeAt := s.pod + 11 },
                      leek := f.leek ++ [(link.val, s.pod, r.1.map (leaving s.pod))] }
    let s := setFab s f
    .next (if r.2.1 = [] then s else postPod s (s.pod + 11) phHub (.leekLaneFree link))

/-- ALIGN_SEND: an ALIGN frame on every connected link, every 2^20 pod cycles (R228). -/
def execAlignSend (s : State) : Out :=
  let up := (List.range 16).filter fun n => (linkAt (fabOf s) n).up
  .next (up.foldl (fun s n => leekQueue s n
    ⟨.align (Fin.ofNat 16 (reverseLink n)) s.pod, noGang, (linkAt (fabOf s) n).nbr, s.pod⟩) s)

/-- UNKNOWN_LEEK_FRAME: discarded and counted (R244). -/
def execUnknownLeekFrame (_type : BitVec 4) (s : State) : Out :=
  .next (setFab s { fabOf s with discarded := (fabOf s).discarded + 1 })

end Sys2Proof.Machine
end

