-- ==== Sys2Proof/Machine/Csr.lean ====
section
/-! DEFINITION. What the CSRs read (R355, R356), with the slot matrix and link ownership that they show (R229, R233, R248). -/

namespace Sys2Proof.Machine

/-! The slot matrix and link ownership, as CSRs show them. -/

/-- ROWS, at least 1 (R248). -/
def rowsOf (a : Authority) : Nat := max a.rows 1

/-- Row of the slot that pod cycle `p` lies in (R248). -/
def rowAt (a : Authority) (p : Nat) : Nat := p / 2 ^ a.slotExp % rowsOf a

/-- The present row. -/
def rowNow (s : State) : Nat := rowAt (authOf s) s.pod

/-- A cell of this package's column (R248). -/
def cellAt (s : State) (row set : Nat) : Word := tget 0 (authOf s).cells (16 * row + set)

/-- Fields of a cell. -/
def cellGang (w : Word) : Nat := w.toNat % 2 ^ 24
def cellKind (w : Word) : Nat := w.toNat / 2 ^ 24 % 4
def cellBf (w : Word) : Bool := w.getLsbD 26
def cellPart (w : Word) : Nat := w.toNat / 2 ^ 27 % 4096

/-- A row names a gang on this package: the cell of its core set holds its id (R248, R249). -/
def rowNames (s : State) (row g : Nat) : Bool :=
  let w := cellAt s row (gangOf s g).coreset
  decide (cellKind w = 1 ∧ cellGang w = g)

/-- Whether a row's share of a link names a gang (R233). -/
def shareNames (s : State) (row n g : Nat) : Bool := decide (tget 0 (fabOf s).shares (16 * row + n) = g + 1)

/-- The gang owns link `n` now (R233): by the present row's share where that row names it or it holds its cells by backfill,
else by its own row's share unless a gang that runs now holds the link in the present row. -/
def ownsLink (s : State) (g n : Nat) : Bool :=
  let x := gangOf s g
  let r := rowNow s
  if rowNames s r g || x.byBackfill then shareNames s r n g
  else
    let holder := tget 0 (fabOf s).shares (16 * r + n)
    shareNames s x.row n g && !(decide (0 < holder) && onSet (gangOf s (holder - 1)))

/-! CSRs. -/

/-- LOOPST of a level (R161). [log 76 DEDUCED] -/
def loopStatus (l : Loop) : Nat :=
  l.first % 2 ^ 14 + l.last % 2 ^ 14 * 2 ^ 14 + bitAt l.active 28 + bitAt l.pipe 29 + (l.stages - 1) % 4 * 2 ^ 30 +
    l.depth % 32 * 2 ^ 32 + bitAt l.drain 37 + bitAt l.parked 38

/-- LOOPCNT of a level (R161). -/
def loopCount (l : Loop) : Nat := l.iter % 2 ^ 32 + l.total % 2 ^ 32 * 2 ^ 32

/-- LINKST of link `n` (R229). -/
def linkStatus (s : State) (g n : Nat) : Nat :=
  let l := linkAt (fabOf s) n
  l.lat % 4096 + l.llat % 4096 * 2 ^ 12 + bitAt l.up 24 + bitAt (l.up && ownsLink s g n) 25 + l.nbr % 4096 * 2 ^ 32

/-- FABPOS (R229). -/
def fabPos (f : Fabric) : Nat :=
  f.chip % 4096 + (f.size0 - 1) % 8 * 2 ^ 12 + (f.size1 - 1) % 8 * 2 ^ 15 + (f.size2 - 1) % 8 * 2 ^ 18 +
    (f.size3 - 1) % 8 * 2 ^ 21

/-- DEADPEERw (R229). -/
def deadWord (f : Fabric) (w : Nat) : Nat := ((List.range 64).map fun b => bitAt (tget false f.dead (64 * w + b)) b).sum

/-- WDOGCOUNT: gang cycles since the last BEACON or RESYNC, saturating (R19). -/
def wdogCount (c : Core) (x : Nat) : Nat := min (2 ^ 32 - 1) (if c.running then x - c.wdogBase else c.wdogHeld)

/-- OWED in 5-bit two's complement (R215). -/
def owedBits (n : Int) : Nat := (n % 32).toNat

/-- The value of a CSR of core `k` now; `none` for a number the map does not list (R355, R356). -/
def csrRead (s : State) (k n : Nat) : Option Nat :=
  let c := coreOf s k
  let g := c.gang
  let x := gangOf s g
  if n = 0x001 then some (x.ctx % 4096)
  else if n = 0x002 then some (c.idx % 1024)
  else if n = 0x003 then some c.polver.toNat
  else if n = 0x010 then some (x.gcyc % 2 ^ 64)
  else if n = 0x011 then some (s.pod % 2 ^ 64)
  else if n = 0x012 then some (x.h % 2 ^ 14)
  else if n = 0x013 then some (x.framelen % 2 ^ 32)
  else if n = 0x014 then some (bitAt x.poisonMode 0)
  else if n = 0x015 then some c.slipInfo.toNat
  else if n = 0x016 then some (x.wdog % 2 ^ 32)
  else if n = 0x017 then some (wdogCount c x.gcyc)
  else if n = 0x020 then some c.seed.toNat
  else if n = 0x021 then some c.flags.toNat
  else if 0x030 ≤ n ∧ n < 0x034 then some (loopStatus (loopOf c (n - 0x030)))
  else if 0x034 ≤ n ∧ n < 0x038 then some (loopCount (loopOf c (n - 0x034)))
  else if n = 0x040 then some c.racectl.toNat
  else if n = 0x041 then
    some (c.interval.toNat + (tget 0 x.dieIv (k / 128)).toNat * 2 ^ 8 + x.pkgIv.toNat * 2 ^ 16 + x.interval.toNat * 2 ^ 24)
  else if n = 0x042 then some c.racecnt.toNat
  else if n = 0x050 then some (tget 0 (dramOf s).slotmaps k).toNat
  else if n = 0x051 then some (owedBits c.owed + c.nextBank % 16 * 2 ^ 8)
  else if 0x060 ≤ n ∧ n < 0x070 then some (linkStatus s g (n - 0x060))
  else if n = 0x070 then some (fabPos (fabOf s))
  else if n = 0x080 then
    some ((authOf s).slotExp % 32 + (rowsOf (authOf s) - 1) % 64 * 2 ^ 5 + rowNow s % 64 * 2 ^ 11)
  else if n = 0x081 then some (g % 2 ^ 24 + leaderOf s g % 4096 * 2 ^ 24 + (x.memberCount - 1) % 4096 * 2 ^ 36)
  else if n = 0x082 then some (bitAt c.nopreempt 0)
  else if n = 0x083 then some (x.swIn % 2 ^ 32 + x.swAborted % 2 ^ 32 * 2 ^ 32)
  else if n = 0x090 then some c.fault.cause.toNat
  else if n = 0x091 then some c.fault.bundle.toNat
  else if n = 0x092 then some c.fault.slot.toNat
  else if n = 0x093 then some c.fault.a.toNat
  else if n = 0x094 then some c.fault.b.toNat
  else if n = 0x095 then some c.fault.c.toNat
  else if n = 0x096 then some c.fault.also.toNat
  else if n = 0x097 then some c.fault.cyc.toNat
  else if n = 0x0A0 then some c.watch0.base.toNat
  else if n = 0x0A1 then some c.watch1.base.toNat
  else if n = 0x0A2 then some c.watch2.base.toNat
  else if n = 0x0A3 then some c.watch3.base.toNat
  else if n = 0x0A4 then some c.watch0.ctl.toNat
  else if n = 0x0A5 then some c.watch1.ctl.toNat
  else if n = 0x0A6 then some c.watch2.ctl.toNat
  else if n = 0x0A7 then some c.watch3.ctl.toNat
  else if n = 0x0A8 then some (c.records.length % 64 + c.lost.toNat * 2 ^ 32)
  else if n = 0x0A9 then some c.dbg.toNat
  else if 0x0C0 ≤ n ∧ n < 0x100 then some (deadWord (fabOf s) (n - 0x0C0))
  else none

end Sys2Proof.Machine
end

