-- ==== Sys2Proof/Machine/Layout.lean ====
section
/-! DEFINITION. The areas of the context image whose contents the manual names and whose places inside it leaves open (R296): each
is a run of pieces of the core's state, laid one after the other in the order the manual names them. [log 56 DESIGN CHOICE] -/

namespace Sys2Proof.Machine

/-- A piece of a core's state: its bytes, its value, and the core with another value in it. -/
structure Piece where
  n : Nat
  get : Core → Nat
  set : Nat → Core → Core

/-- The bytes of pieces, one after the other. -/
def piecesBytes (ps : List Piece) (c : Core) : List Byte := ps.flatMap fun p => leBytes p.n (p.get c)

/-- An area of `n` bytes: the pieces, then zeros. -/
def areaBytes (n : Nat) (ps : List Piece) (c : Core) : List Byte := (piecesBytes ps c ++ leBytes n 0).take n

/-- A core with the pieces as an area's bytes give them. -/
def areaRead : List Piece → List Byte → Core → Core
  | [], _, c => c
  | p :: ps, bs, c => areaRead ps (bs.drop p.n) (p.set (leNat (bs.take p.n)) c)

def bitPiece (get : Core → Bool) (set : Bool → Core → Core) : Piece := ⟨1, fun c => bitAt (get c) 0, fun n => set (n % 2 == 1)⟩

/-- A number that may be absent: a byte that says whether it is there, and the number. -/
def optPiece (n : Nat) (get : Core → Option Nat) (set : Option Nat → Core → Core) : Piece :=
  ⟨n + 1, fun c => ((get c).map fun x => 2 * (x % 2 ^ (8 * n - 1)) + 1).getD 0, fun v => set (if v % 2 = 1 then some (v / 2) else none)⟩

/-- The elements of a list of `T`, at most `m` of them: how many there are, and the pieces of each. An element that an area does
not bring keeps the parts that have no piece. -/
def listPieces {T : Type} (m : Nat) (get : Core → List T) (set : List T → Core → Core) (empty : T)
    (fields : List (Nat × (T → Nat) × (Nat → T → T))) : List Piece :=
  ⟨1, fun c => min m (get c).length, fun n c => set (((get c).take n) ++ List.replicate (n - (get c).length) empty) c⟩ ::
    (List.range m).flatMap fun i => fields.map fun f =>
      ⟨f.1, fun c => (((get c)[i]?).map f.2.1).getD 0, fun v c => set ((get c).modify i (f.2.2 v)) c⟩

/-- A scalar operand port. -/
def portPiece (n id : Nat) : Piece := ⟨n, fun c => (portOf c id).toNat, fun v c => setPort c id (BitVec.ofNat 64 v)⟩

/-- The pieces at 0x300: p0 to p7, FPFLAGS, SRSEED, the generators, the poison latch, SLIPINFO (R296). -/
def scalarArea : List Piece :=
  [⟨1, fun c => (c.p ||| 1).toNat, fun v c => { c with p := BitVec.ofNat 8 v &&& 0xFE }⟩,
   ⟨1, fun c => c.flags.toNat, fun v c => { c with flags := BitVec.ofNat 6 v }⟩,
   ⟨4, fun c => c.seed.toNat, fun v c => { c with seed := BitVec.ofNat 32 v }⟩,
   ⟨4, fun c => c.genVA.toNat, fun v c => { c with genVA := BitVec.ofNat 32 v }⟩,
   ⟨4, fun c => c.genVB.toNat, fun v c => { c with genVB := BitVec.ofNat 32 v }⟩,
   ⟨4, fun c => c.genSQ.toNat, fun v c => { c with genSQ := BitVec.ofNat 32 v }⟩,
   ⟨4, fun c => c.genMX.toNat, fun v c => { c with genMX := BitVec.ofNat 32 v }⟩,
   bitPiece (·.poison) fun b c => { c with poison := b },
   ⟨8, fun c => c.slipInfo.toNat, fun v c => { c with slipInfo := BitVec.ofNat 64 v }⟩,
   bitPiece (·.suppress) fun b c => { c with suppress := b }]

/-- A target-buffer entry with its prepare cycle and its two bundles (R148). -/
def targetPieces (t : Nat) : List Piece :=
  let mod := fun (f : Target → Target) (c : Core) => setTarget c t (f (targetOf c t))
  [⟨4, fun c => (targetOf c t).addr.toNat, fun v => mod fun e => { e with addr := BitVec.ofNat 32 v }⟩,
   ⟨8, fun c => (BitVec.ofInt 64 (targetOf c t).prep).toNat, fun v => mod fun e => { e with prep := (BitVec.ofNat 64 v).toInt }⟩,
   ⟨24, fun c => (targetOf c t).buf0.toNat, fun v => mod fun e => { e with buf0 := BitVec.ofNat 192 v }⟩,
   ⟨24, fun c => (targetOf c t).buf1.toNat, fun v => mod fun e => { e with buf1 := BitVec.ofNat 192 v }⟩,
   bitPiece (fun c => (targetOf c t).bad) fun b => mod fun e => { e with bad := b }]

/-- A loop level (R161). -/
def loopPieces (n : Nat) : List Piece :=
  let nat := fun (w : Nat) (get : Loop → Nat) (set : Nat → Loop → Loop) =>
    (⟨w, fun c => get (loopOf c n), fun v c => setLoop c n (set v (loopOf c n))⟩ : Piece)
  let bit := fun (get : Loop → Bool) (set : Bool → Loop → Loop) =>
    bitPiece (fun c => get (loopOf c n)) fun b c => setLoop c n (set b (loopOf c n))
  [bit (·.active) (fun b l => { l with active := b }), nat 2 (·.first) (fun v l => { l with first := v }),
   nat 2 (·.last) (fun v l => { l with last := v }), nat 1 (·.depth) (fun v l => { l with depth := v }),
   nat 4 (·.iter) (fun v l => { l with iter := v }), nat 4 (·.total) (fun v l => { l with total := v }),
   bit (·.pipe) (fun b l => { l with pipe := b }), nat 1 (·.stages) (fun v l => { l with stages := v }),
   nat 4 (·.trips) (fun v l => { l with trips := v }), bit (·.drain) (fun b l => { l with drain := b }),
   bit (·.notice) (fun b l => { l with notice := b }), nat 4 (·.fullTrips) (fun v l => { l with fullTrips := v }),
   bit (·.parked) (fun b l => { l with parked := b }), nat 4 (·.origin) (fun v l => { l with origin := v }),
   nat 8 (·.order) (fun v l => { l with order := v })]

/-- The pieces at 0x340: target buffer, link stack, loop levels, waits, park and drain state (R296). -/
def ctArea : List Piece :=
  (List.range 8).flatMap targetPieces ++
  listPieces 16 (·.links) (fun ls c => { c with links := ls }) ⟨0, 0, 0, 0, false⟩
    [(2, (·.ret), fun v l => { l with ret := v }), (8, (·.since), fun v l => { l with since := v })] ++
  (List.range 4).flatMap loopPieces ++
  [⟨4, (·.pc), fun v c => { c with pc := v }⟩, ⟨8, (·.nextIssue), fun v c => { c with nextIssue := v }⟩,
   bitPiece (·.running) (fun b c => { c with running := b }), optPiece 8 (·.exitAt) (fun v c => { c with exitAt := v }),
   ⟨8, (·.wdogBase), fun v c => { c with wdogBase := v }⟩,
   optPiece 8 (·.waits.waitt) (fun v c => { c with waits := { c.waits with waitt := v } }),
   optPiece 9 (fun c => c.waits.resync.map fun r => (r.map (2 * · + 1)).getD 0)
     (fun v c => { c with waits := { c.waits with resync := v.map fun n => if n % 2 = 1 then some (n / 2) else none } }),
   optPiece 1 (fun c => c.waits.park.map (·.val)) (fun v c => { c with waits := { c.waits with park := v.map (Fin.ofNat 4) } })] ++
  listPieces 8 (·.waits.barriers) (fun bs c => { c with waits := { c.waits with barriers := bs } }) ⟨0, 0, none⟩
    [(1, (·.handle), fun v b => { b with handle := v }), (2, (·.gen), fun v b => { b with gen := v }),
     (9, fun b => (b.resume.map (2 * · + 1)).getD 0,
      fun v b => { b with resume := if v % 2 = 1 then some (v / 2) else none })] ++
  listPieces 4 (·.starts) (fun ns c => { c with starts := ns }) 0 [(1, id, fun v _ => v)]

/-- A vector operand port; a mask port. -/
def vportPiece (id : Nat) : Piece := ⟨256, fun c => (vportOf c id).toNat, fun v c => setVport c id (BitVec.ofNat 2048 v)⟩
def kportPiece (id : Nat) : Piece := ⟨32, fun c => (kportOf c id).toNat, fun v c => setKport c id (BitVec.ofNat 256 v)⟩

/-- The low 64 bits of a compare port of a bank group, of which an operation reads 32 (R81). -/
def cmpPiece (id : Nat) : Piece :=
  ⟨8, fun c => (vportOf c id).toNat, fun v c =>
    setVport c id ((vportOf c id >>> 64 <<< 64) ||| BitVec.ofNat 2048 v)⟩

/-- A result port. -/
def resPiece (r : ResultPort) : Piece :=
  if isVecPort r then
    ⟨256, fun c => (vresOf c r).toNat, fun v c => { c with vres := tset 0 c.vres (resId r) (BitVec.ofNat 2048 v) }⟩
  else ⟨8, fun c => (resultOf c r).toNat, fun v c => { c with res := tset 0 c.res (resId r) (BitVec.ofNat 64 v) }⟩

/-- The pieces at 0x2900: operand and result ports of every station but MX, and the RW CSRs that no other area holds (R296). -/
def portArea : List Piece :=
  [0x100, 0x101, 0x102, 0x106, 0x180, 0x181, 0x182, 0x186].map vportPiece ++ [0x103, 0x183].map kportPiece ++
  [0x0C1, 0x1C1, 0x241, 0x2C1].map vportPiece ++ [0x0C2, 0x1C2, 0x242, 0x2C2].map cmpPiece ++
  [ResultPort.va, .vb, .bga, .bgb, .bgc, .bgd, .sa, .mx, .sq, .c0, .c1, .fb, .sy, .ct].map resPiece ++
  [1, 2, 3, 0x080, 0x081, 0x082].map (portPiece 8) ++ [portPiece 2 0x083] ++
  [0x104, 0x105, 0x184, 0x185].map (portPiece 1) ++ [0x107, 0x187].map (portPiece 8) ++
  [portPiece 1 0x280, portPiece 3 0x281] ++ [0x282, 0x283, 0x284, 0x285, 0x286].map (portPiece 8) ++ [portPiece 2 0x287] ++
  [0x300, 0x301, 0x302, 0x303, 0x304].map (portPiece 8) ++ [0x340, 0x341, 0x342, 0x343, 0x344, 0x345].map (portPiece 8) ++
  [0x380, 0x381, 0x382, 0x383, 0x384, 0x385, 0x386, 0x387].map (portPiece 8) ++ [0x3C0, 0x3C1, 0x3C2].map (portPiece 8) ++
  [⟨1, fun c => c.racectl.toNat, fun v c => { c with racectl := BitVec.ofNat 2 v }⟩,
   bitPiece (·.nopreempt) fun b c => { c with nopreempt := b }, ⟨2, fun c => c.polver.toNat, fun v c => { c with polver := BitVec.ofNat 16 v }⟩]

/-- The mode of a stream as a number. -/
def modeNum : StreamMode → Nat
  | .never => 0
  | .opened => 1
  | .closed => 2

def numMode (n : Nat) : StreamMode := if n % 4 = 0 then .never else if n % 4 = 1 then .opened else .closed

/-- A stream register with its position and expected tag (R83 to R88). -/
def streamPieces (q : Nat) : List Piece :=
  let nat := fun (w : Nat) (get : Stream → Nat) (set : Nat → Stream → Stream) =>
    (⟨w, fun c => get (streamOf c q), fun v c => setStream c q (set v (streamOf c q))⟩ : Piece)
  let word := fun (get : Stream → Word) (set : Word → Stream → Stream) => nat 8 (fun s => (get s).toNat) (fun v => set (BitVec.ofNat 64 v))
  [nat 1 (modeNum ·.mode) (fun v s => { s with mode := numMode v }), nat 3 (·.base) (fun v s => { s with base := v % 2 ^ 22 }),
   word (·.shape0) (fun w s => { s with shape0 := w }), word (·.shape1) (fun w s => { s with shape1 := w }),
   word (·.shape2) (fun w s => { s with shape2 := w }), word (·.fmt) (fun w s => { s with fmt := w }),
   word (·.sstr) (fun w s => { s with sstr := w }), nat 2 (·.exp.toNat) (fun v s => { s with exp := BitVec.ofNat 16 v }),
   nat 8 (·.pos) (fun v s => { s with pos := v }), nat 1 (fun s => bitAt s.entry 0) (fun v s => { s with entry := v % 2 == 1 }),
   nat 1 (fun s => bitAt s.entered 0) (fun v s => { s with entered := v % 2 == 1 }),
   nat 3 (fun s => (s.tile.map (2 * · + 1)).getD 0) (fun v s => { s with tile := if v % 2 = 1 then some (v / 2) else none })]

/-- The pieces at 0x4000: the streams, and the pops read ahead: stream, issue cycle, bundle, slot, position before (R296). -/
def streamArea : List Piece :=
  (List.range 16).flatMap streamPieces ++
  listPieces 48 (·.fetched) (fun fs c => { c with fetched := fs }) ⟨0, 0, 0, 0, false, false, .scalar 0, {}, []⟩
    [(1, (·.q), fun v f => { f with q := v }), (8, (·.issueAt), fun v f => { f with issueAt := v }),
     (2, (·.bundle), fun v f => { f with bundle := v }),
     (1, fun f => f.slot + bitAt f.guard 4 + bitAt f.pops 5,
      fun v f => { f with slot := v % 8, guard := v.testBit 4, pops := v.testBit 5 }),
     (6, (·.before.pos), fun v f => { f with before := { f.before with pos := v } })]

/-- The pieces at 0x4800: the engines' commands with their units done, armed receives, OWED and NEXTBANK (R296). -/
def engineArea : List Piece :=
  [⟨1, fun c => (c.owed % 32).toNat, fun v c => { c with owed := (BitVec.ofNat 5 v).toInt }⟩,
   ⟨1, (·.nextBank), fun v c => { c with nextBank := v % 16 }⟩, ⟨4, (·.cmdSeq), fun v c => { c with cmdSeq := v }⟩] ++
  listPieces 16 (·.cmds) (fun ms c => { c with cmds := ms }) ⟨0, 0, 0, 0, 0, 0, 0, 0, 0, 0, 0, false, 0, [], []⟩
    [(4, (·.id), fun v m => { m with id := v }), (1, (·.kind), fun v m => { m with kind := v }),
     (8, (·.start), fun v m => { m with start := v }), (4, (·.sad), fun v m => { m with sad := v }),
     (8, (·.lad), fun v m => { m with lad := v }), (4, (·.len), fun v m => { m with len := v }),
     (2, (·.tag.toNat), fun v m => { m with tag := BitVec.ofNat 16 v }), (8, (·.dst), fun v m => { m with dst := v }),
     (8, (·.issue), fun v m => { m with issue := v }), (2, (·.bundle), fun v m => { m with bundle := v }),
     (1, fun m => m.slot + bitAt m.suppressed 4, fun v m => { m with slot := v % 8, suppressed := v.testBit 4 }),
     (4, (·.skew), fun v m => { m with skew := v })] ++
  listPieces 16 (·.recvs) (fun rs c => { c with recvs := rs }) ⟨0, 0, 0, 0, 0, none, 0, 0, 0, 0⟩
    [(2, (·.chip), fun v r => { r with chip := v }), (2, (·.core), fun v r => { r with core := v }),
     (4, (·.sad), fun v r => { r with sad := v }), (2, (·.len), fun v r => { r with len := v }),
     (2, (·.tag.toNat), fun v r => { r with tag := BitVec.ofNat 16 v }),
     (9, fun r => (r.expected.map (2 * · + 1)).getD 0,
      fun v r => { r with expected := if v % 2 = 1 then some (v / 2) else none }),
     (8, (·.issue), fun v r => { r with issue := v }), (2, (·.bundle), fun v r => { r with bundle := v }),
     (1, (·.slot), fun v r => { r with slot := v }), (4, (·.ticket), fun v r => { r with ticket := v })]

/-- A watchpoint (R291). -/
def watchPieces (get : Core → Watch) (set : Watch → Core → Core) : List Piece :=
  [⟨3, fun c => (get c).base.toNat, fun v c => set { get c with base := BitVec.ofNat 22 v } c⟩,
   ⟨2, fun c => (get c).ctl.toNat, fun v c => set { get c with ctl := BitVec.ofNat 15 v } c⟩]

/-- The pieces at 0x6000: watchpoints, Radish counters, record queue, and the fault record (R289, R296). -/
def recordArea : List Piece :=
  watchPieces (·.watch0) (fun w c => { c with watch0 := w }) ++ watchPieces (·.watch1) (fun w c => { c with watch1 := w }) ++
  watchPieces (·.watch2) (fun w c => { c with watch2 := w }) ++ watchPieces (·.watch3) (fun w c => { c with watch3 := w }) ++
  [⟨1, fun c => c.interval.toNat, fun v c => { c with interval := BitVec.ofNat 8 v }⟩,
   ⟨4, fun c => c.racecnt.toNat, fun v c => { c with racecnt := BitVec.ofNat 32 v }⟩,
   ⟨4, fun c => c.lost.toNat, fun v c => { c with lost := BitVec.ofNat 31 v }⟩] ++
  listPieces 32 (·.records) (fun rs c => { c with records := rs }) ⟨0, 0, 0, 0, 0, 0, 0, 0, 0, 0⟩
    [(1, (·.kind), fun v r => { r with kind := v }), (1, (·.index), fun v r => { r with index := v }),
     (2, (·.writer.toNat), fun v r => { r with writer := BitVec.ofNat 16 v }), (8, (·.addr), fun v r => { r with addr := v }),
     (8, (·.gcyc), fun v r => { r with gcyc := v }), (2, (·.src), fun v r => { r with src := v }),
     (2, (·.accessor.toNat), fun v r => { r with accessor := BitVec.ofNat 16 v }), (1, (·.rw), fun v r => { r with rw := v }),
     (1, (·.iv.toNat), fun v r => { r with iv := BitVec.ofNat 8 v }), (1, (·.sc.toNat), fun v r => { r with sc := BitVec.ofNat 2 v })] ++
  [⟨1, fun c => c.fault.cause.toNat, fun v c => { c with fault := { c.fault with cause := BitVec.ofNat 8 v } }⟩,
   ⟨4, fun c => c.fault.bundle.toNat, fun v c => { c with fault := { c.fault with bundle := BitVec.ofNat 32 v } }⟩,
   ⟨1, fun c => c.fault.slot.toNat, fun v c => { c with fault := { c.fault with slot := BitVec.ofNat 3 v } }⟩,
   ⟨8, fun c => c.fault.a.toNat, fun v c => { c with fault := { c.fault with a := BitVec.ofNat 64 v } }⟩,
   ⟨8, fun c => c.fault.b.toNat, fun v c => { c with fault := { c.fault with b := BitVec.ofNat 64 v } }⟩,
   ⟨8, fun c => c.fault.c.toNat, fun v c => { c with fault := { c.fault with c := BitVec.ofNat 64 v } }⟩,
   ⟨5, fun c => c.fault.also.toNat, fun v c => { c with fault := { c.fault with also := BitVec.ofNat 36 v } }⟩,
   ⟨8, fun c => c.fault.cyc.toNat, fun v c => { c with fault := { c.fault with cyc := BitVec.ofNat 64 v } }⟩]

/-- A piece of the matrix unit. -/
def mxPiece (n : Nat) (get : Mx → Nat) (set : Nat → Mx → Mx) : Piece :=
  ⟨n, fun c => get c.mx, fun v c => { c with mx := set v c.mx }⟩

/-- A micro-loop counter (R172). -/
def microLoopPieces (get : Mx → MicroLoop) (set : MicroLoop → Mx → Mx) : List Piece :=
  [mxPiece 1 (fun m => bitAt (get m).active 0) (fun v m => set { get m with active := v % 2 == 1 } m),
   mxPiece 2 (fun m => (get m).body) (fun v m => set { get m with body := v } m),
   mxPiece 2 (fun m => (get m).last) (fun v m => set { get m with last := v } m),
   mxPiece 4 (fun m => (get m).left) (fun v m => set { get m with left := v } m),
   mxPiece 4 (fun m => (get m).order) (fun v m => set { get m with order := v } m)]

/-- The pieces of lists that only the matrix unit holds. -/
def mxList {T : Type} (m : Nat) (get : Mx → List T) (set : List T → Mx → Mx) (empty : T)
    (fields : List (Nat × (T → Nat) × (Nat → T → T))) : List Piece :=
  listPieces m (fun c => get c.mx) (fun l c => { c with mx := set l c.mx }) empty fields

/-- A selector as the microword's field holds it (R171). -/
def selNum : Sel → Nat
  | .direct n => n.val
  | .indirect n => 16 + n.val

def numSel (n : Nat) : Sel := if n / 16 % 2 = 0 then .direct (Fin.ofNat 16 n) else .indirect (Fin.ofNat 16 n)

/-- The fields of an epilogue in one number, and back (R180). -/
def mepiNum (f : MepiFields) : Nat :=
  selNum f.t + selNum f.o * 2 ^ 5 + selNum f.b * 2 ^ 10 + bitAt f.bias 15 + bitAt f.act 16 + bitAt f.req 17 + bitAt f.intacc 18 +
    f.qsr.val * 2 ^ 19 + f.zpr.val * 2 ^ 23 + f.rm.toNat * 2 ^ 27

def numMepi (n : Nat) : MepiFields :=
  ⟨numSel n, numSel (n / 2 ^ 5), numSel (n / 2 ^ 10), n.testBit 15, n.testBit 16, n.testBit 17, n.testBit 18,
    Fin.ofNat 16 (n / 2 ^ 19), Fin.ofNat 16 (n / 2 ^ 23), BitVec.ofNat 4 (n / 2 ^ 27)⟩

/-- The elements of an array of numbers of `w` bytes each, in one number, and back. -/
def packNums (w : Nat) (xs : List Nat) : Nat := leNat (xs.flatMap (leBytes w))
def unpackNums (w n v : Nat) : List Nat := (List.range n).map fun i => v / 2 ^ (8 * w * i) % 2 ^ (8 * w)

/-- The pieces at 0x7000: mp0 to mp7, m0 to m15, the counters, the sequencer, the A binding, the routine table, the row pointers,
the steps and epilogues in progress, and the activation table (R296). -/
def mxArea : List Piece :=
  (List.range 8).map (fun i => portPiece 8 (0x200 + i)) ++
  (List.range 16).map (fun i => mxPiece 8 (fun m => (tget 0 m.regs i).toNat) fun v m => { m with regs := tset 0 m.regs i (BitVec.ofNat 64 v) }) ++
  microLoopPieces (·.lc0) (fun l m => { m with lc0 := l }) ++ microLoopPieces (·.lc1) (fun l m => { m with lc1 := l }) ++
  [mxPiece 1 (fun m => bitAt m.busy 0) (fun v m => { m with busy := v % 2 == 1 }), mxPiece 2 (·.pc) (fun v m => { m with pc := v }),
   mxPiece 2 (·.start) (fun v m => { m with start := v }), mxPiece 2 (·.length) (fun v m => { m with length := v }),
   mxPiece 1 (·.routine) (fun v m => { m with routine := v }), mxPiece 3 (·.idle) (fun v m => { m with idle := v }),
   mxPiece 2 (fun m => (m.bindA.map fun b => 1 + 2 * b.1 + 2 ^ 8 * b.2).getD 0)
     (fun v m => { m with bindA := if v % 2 = 1 then some (v / 2 % 16, v / 2 ^ 8) else none })] ++
  (List.range 256).map (fun i => mxPiece 4 (fun m => (tget 0 m.routines i).toNat) fun v m =>
    { m with routines := tset 0 m.routines i (BitVec.ofNat 32 v) }) ++
  (List.range 8).map (fun t => ⟨1, fun c => rowPtrOf c t, fun v c => setRowPtr c t v⟩) ++
  mxList 4 (·.steps) (fun l m => { m with steps := l }) ⟨0, 0, 0, 0, 0, ⟨0, 0, 0, 0, 0, [], [], []⟩, []⟩
    [(8, (·.start), fun v p => { p with start := v }), (1, (·.tile), fun v p => { p with tile := v }),
     (1, (·.cls), fun v p => { p with cls := v }), (1, (·.fmtA), fun v p => { p with fmtA := v }),
     (1, (·.aStream), fun v p => { p with aStream := v })] ++
  [mxPiece 9 (fun m => (m.lastStep.map fun p => 1 + 2 * (p.1 + 2 ^ 63 * p.2)).getD 0)
     (fun v m => { m with lastStep := if v % 2 = 1 then some (v / 2 % 2 ^ 63, v / 2 ^ 64) else none }),
   mxPiece 8 (fun m => (m.lastEpi.map (2 * · + 1)).getD 0)
     (fun v m => { m with lastEpi := if v % 2 = 1 then some (v / 2) else none })] ++
  mxList 2 (·.epis) (fun l m => { m with epis := l }) ⟨0, 0, 0, numMepi 0, 0, []⟩
    [(8, (·.start), fun v e => { e with start := v }), (1, (·.tile), fun v e => { e with tile := v }),
     (1, (·.out), fun v e => { e with out := v }), (4, fun e => mepiNum e.fields, fun v e => { e with fields := numMepi v }),
     (1, (·.biasStream), fun v e => { e with biasStream := v }),
     (256, fun e => packNums 4 e.bias, fun v e => { e with bias := unpackNums 4 64 v })] ++
  mxList 8 (·.zeros) (fun l m => { m with zeros := l }) (0, 0, false)
    [(8, (·.1), fun v z => (v, z.2)), (1, (·.2.1), fun v z => (z.1, v, z.2.2)), (1, fun z => bitAt z.2.2 0, fun v z => (z.1, z.2.1, v % 2 == 1))] ++
  [mxPiece 4 (·.lut.lo.toNat) (fun v m => { m with lut := { m.lut with lo := BitVec.ofNat 32 v } }),
   mxPiece 4 (·.lut.hi.toNat) (fun v m => { m with lut := { m.lut with hi := BitVec.ofNat 32 v } }),
   mxPiece 260 (fun m => packNums 4 (m.lut.vals.map (·.toNat)))
     (fun v m => { m with lut := { m.lut with vals := (unpackNums 4 65 v).map (BitVec.ofNat 32) } })]

/-- A B block with its scales and routing; a byte says whether it is there (R177). -/
def blockPieces (get : Mx → Option BBlock) (set : Option BBlock → Mx → Mx) : List Piece :=
  let field := fun (n : Nat) (f : BBlock → Nat) (g : Nat → BBlock → BBlock) =>
    mxPiece n (fun m => ((get m).map f).getD 0) fun v m => set ((get m).map (g v)) m
  mxPiece 1 (fun m => bitAt (get m).isSome 0)
    (fun v m => set (if v % 2 = 1 then some ((get m).getD ⟨0, 0, 0, 0, 0, [], [], []⟩) else none) m) ::
  [field 1 (·.cls) (fun v b => { b with cls := v }), field 1 (·.fmt) (fun v b => { b with fmt := v }),
   field 1 (·.src) (fun v b => { b with src := v }), field 8 (·.ready) (fun v b => { b with ready := v }),
   field 4 (·.second) (fun v b => { b with second := v }),
   field 2 (·.weights.length) (fun v b => { b with weights := List.replicate v 0 }),
   field 1024 (fun b => packNums 2 b.weights) (fun v b => { b with weights := unpackNums 2 b.weights.length v }),
   field 2 (·.scales.length) (fun v b => { b with scales := List.replicate v 0 }),
   field 256 (fun b => packNums 1 b.scales) (fun v b => { b with scales := unpackNums 1 b.scales.length v }),
   field 1 (·.routing.length) (fun v b => { b with routing := List.replicate v 0 }),
   field 128 (fun b => packNums 1 b.routing) (fun v b => { b with routing := unpackNums 1 b.routing.length v })]

/-- The pieces at 0x8000: the staged and the active B block (R296). -/
def blockArea : List Piece :=
  blockPieces (·.staged) (fun b m => { m with staged := b }) ++ blockPieces (·.active) (fun b m => { m with active := b })

end Sys2Proof.Machine
end

