-- ==== Sys2Proof/Machine/Replay.lean ====
section
/-! DEFINITION. The entries of the replay buffer (R294) and the bytes of the context image (R296, R297). -/

namespace Sys2Proof.Machine

/-- A value as an entry of `n` bytes holds it. -/
def bytesVal (n : Nat) (v : Vec) : Val :=
  if n = 256 then .vector v else if n = 32 then .mask (v.setWidth 256) else .scalar (v.setWidth 64)

/-- Destination id of a move or trigger. -/
def targetId : Instr → Nat
  | .move _ d => destId d
  | i => (dstId i).getD 0

/-- The kind of a move's entry: 4 for an s-, v- or k-register, 5 for a predicate, 1 for a port (R294). -/
def moveKind : Instr → Nat
  | .move _ (.sreg _) => 4
  | .move _ (.vreg _) => 4
  | .move _ (.kreg _) => 4
  | .move _ (.preg _) => 5
  | _ => 1

/-- An entry with no address, tag or flags. -/
def plainEntry (due kind dst size : Nat) (v : Vec) : ReplayEntry := ⟨due, kind, dst, 0, size, false, false, false, 0, v⟩

/-- An entry of bytes at an address: kind 3 in scratch, 7 in home memory. -/
def writeEntry (due kind addr : Nat) (bs : List Byte) : ReplayEntry :=
  ⟨due, kind, 0, addr, bs.length, false, false, false, 0, BitVec.ofNat 2048 (leNat bs)⟩

/-- The write entry of bytes with the stamps that fall with them: its own tag is that of the one tile it can complete (R76,
R294). -/
def stampedEntry (e : ReplayEntry) (stamps : List (Nat × BitVec 16)) : ReplayEntry :=
  match stamps with
  | [] => e
  | p :: _ => { e with flagTag := true, tag := p.2 }

/-- A unit of a command whose read has performed and whose write into scratch is due (R294). -/
def scratchUnit (c : Core) (due id unit : Nat) : List ReplayEntry :=
  match cmdOf c id with
  | none => []
  | some m =>
    match unitBuf m unit with
    | none => []
    | some b => [{ stampedEntry (writeEntry due 3 (m.sad + 256 * unit) b.1) (unitStamps m m.sad unit) with flagPoison := b.2 }]

/-- A unit whose DRAM column write is due: ADDR is the home offset, DST the package core whose home memory it is in (R294). [log
56 DESIGN CHOICE] -/
def homeUnit (c : Core) (due id unit : Nat) : List ReplayEntry :=
  match cmdOf c id with
  | none => []
  | some m =>
    match unitBuf m unit with
    | none => []
    | some b =>
      let a := m.lad + 256 * unit
      [{ writeEntry due 7 (a % 2 ^ 29) b.1 with dst := a / 2 ^ 29, flagPoison := b.2 }]

/-- DST of an XCOPY unit's entry: XCOPY's own id, since the write is at another core (R294). [log 56 DESIGN CHOICE] -/
def xcopyId : Nat := (dstId (.xcopy ⟨⟨false, 0⟩, .sreg 0⟩)).getD 0

/-- An XCOPY unit that has been read and not written: ADDR is its scratch address with the target's context core index from bit 22
on (R294). [log 56 DESIGN CHOICE] -/
def xcopyEntry (idx due : Nat) (u : XUnit) : ReplayEntry :=
  { stampedEntry (writeEntry due 3 (u.addr + idx * 2 ^ 22) (if u.stampOnly then [] else u.data)) u.stamps with dst := xcopyId }

/-- The cycle in which each entry of a list is due decides: insert before the first that comes later. -/
def insertBy (before : ReplayEntry → ReplayEntry → Bool) (e : ReplayEntry) : List ReplayEntry → List ReplayEntry
  | [] => [e]
  | x :: xs => if before e x then e :: x :: xs else x :: insertBy before e xs

/-- The order in which R448 lists entries: by cycle, writes before results before arrivals, then by destination and address. -/
def entryBefore (a b : ReplayEntry) : Bool :=
  decide (a.due < b.due) || (decide (a.due = b.due) && (decide (b.kind < a.kind) || (decide (a.kind = b.kind) &&
    (decide (a.dst < b.dst) || (decide (a.dst = b.dst) && decide (a.addr < b.addr))))))

/-- Class of the value of an SA trigger at port `p` (R99). -/
def saTrigClass (p : Nat) : ImmClass :=
  if p ∈ [16, 17, 18, 19, 21, 23, 25, 26, 27, 28, 32, 34, 38, 40, 41, 42, 43, 58] then .s else if 48 ≤ p then .f f32 else .z

/-- Class of the value of a VA or VB trigger at port `p`; none: the class that ty selects (R100). -/
def vecTrigClass (p : Nat) : Option ImmClass :=
  if p ∈ [24, 25, 26, 46, 47, 48] then some .s else if p ∈ [27, 28, 29, 35, 45, 49] then some .z else none

/-- Size and value that a move's arrival leaves at its destination (R66, R294). -/
def placedMove (c : Core) (d : Dest) (v : Val) : Nat × Vec :=
  let c := writeDest c d v
  match d with
  | .null => (8, (scalarIn .z v).setWidth 2048)
  | .sreg n => (8, (sregOf c n.val).setWidth 2048)
  | .preg _ => (1, ((scalarIn .z v) &&& 1).setWidth 2048)
  | .vreg n => (256, vregOf c n.val)
  | .kreg n => (32, (kregOf c n.val).setWidth 2048)
  | .port (.vec u .k) => (32, (kportOf c (vecBase u + 3)).setWidth 2048)
  | .port (.vec u .sc) => (256, vportOf c (vecBase u + 6))
  | .port (.vec u .a) => (256, vportOf c (vecBase u))
  | .port (.vec u .b) => (256, vportOf c (vecBase u + 1))
  | .port (.vec u .c) => (256, vportOf c (vecBase u + 2))
  | .port (.bankData g) => (256, vportOf c (bankBase g + 1))
  | .port (.bankCmp g) => (256, vportOf c (bankBase g + 2))
  | .port p => (8, (portOf c (portId p)).setWidth 2048)

/-- Size and value of an arrival in flight: a move's, a push's by its register format (R85, R461), a trigger's by its class. -/
def placedVal (c : Core) (i : Instr) (v : Val) : Nat × Vec :=
  match i with
  | .move _ d => placedMove c d v
  | .push q _ =>
    let st := streamOf c q.val
    let xs := pushElems st v
    if strScalar st then (8, BitVec.ofNat 2048 (xs.headD 0)) else (256, packVec (fmtWidth (fmtOf (strReg st))) xs)
  | i =>
    let d := (dstId i).getD 0
    let vec := fun (u : VUnit) => (256, vecIn ((vecTrigClass (d % 64)).getD (tyClass c u).1) (tyClass c u).2 v)
    if d / 64 = 4 then vec .va
    else if d / 64 = 6 then vec .vb
    else (8, (scalarIn (if d / 64 = 2 then saTrigClass (d % 64) else .z) v).setWidth 2048)

/-- A compare trigger, delivered whatever its guard (R57). -/
def isCompare : Instr → Bool
  | .cmpEq _ => true
  | .cmpNe _ => true
  | .cmpLt _ => true
  | .cmpLe _ => true
  | .cmpLtu _ => true
  | .cmpLeu _ => true
  | .fcmpEq _ => true
  | .fcmpLt _ => true
  | .fcmpLe _ => true
  | .fcmpUn _ => true
  | _ => false

/-- The flight of an arriving move to a vector unit's ty port. -/
def tyArrival (j : Job) : Option Flight :=
  match j.task with
  | .arrive ⟨.move m (.port (.vec u .ty)), v, g, i, b, n, a⟩ => some ⟨.move m (.port (.vec u .ty)), v, g, i, b, n, a⟩
  | _ => none

/-- The core with the ty ports as the arrivals due by cycle `x` leave them. -/
def tyAt (c : Core) (jobs : List Job) (x : Nat) : Core :=
  let fs := (jobs.filter fun j => decide (j.due ≤ x)).filterMap tyArrival
  fs.foldl (fun c f =>
    if fs.any fun h => decide (destKey h.instr = destKey f.instr ∧ f.arrive < h.arrive) then c
    else match f.instr with
      | .move _ d => writeDest c d f.val
      | _ => c) c
where
  destKey : Instr → Nat
    | .move _ d => destId d
    | _ => 0

/-- Size of a result-port value: 8 bytes, or 256 for a vector (R294). -/
def resultSize (port : ResultPort) (v : Vec) : Nat :=
  match port with
  | .va => 256
  | .vb => 256
  | _ => if v.toNat < 2 ^ 64 then 8 else 256

/-- What a CSRR of core `k` samples at gang cycle `x`, `c` being the core or its image (R355). -/
def sampleAt (s : State) (k x : Nat) (c : Core) (n : Nat) : Nat :=
  (csrRead (setCore (modGang s c.gang fun y => { y with gcyc := x }) k c) k n).getD 0

/-- The entries of one piece of work of core `k`, due `d` cycles after the freeze (R294); `c` is the core or its image, `jobs` its
work. -/
def jobEntries (s : State) (k : Nat) (c : Core) (jobs : List Job) (d : Nat) (j : Job) : List ReplayEntry :=
  match j.task with
  | .arrive fl =>
    let b := placedVal (tyAt c jobs j.due) fl.instr fl.val
    -- a predicate write performs where it is present, in the cycle after the move's arrival
    let due := if moveKind fl.instr = 5 then d + 1 else d
    [{ plainEntry due (moveKind fl.instr) (targetId fl.instr) b.1 b.2 with flagG := fl.g && isCompare fl.instr }]
  | .event (.operationComplete _ port v _) => [plainEntry d 2 (resId port) (resultSize port v) v]
  | .event (.replayReinject _ e) => [{ e with due := d }]
  | .event (.dcopyUnit _ id unit atDram) => if atDram then homeUnit c d id unit else scratchUnit c d id unit
  | .event (.hcopyRUnit _ id unit) => scratchUnit c d id unit
  | .event (.xcopyUnitArrival k' u) => [xcopyEntry (coreOf s k').idx d u]
  | .deed (.csrr n) => [plainEntry (d + 1) 2 (resId .sy) 8 (BitVec.ofNat 2048 (sampleAt s k j.due c n))]
  | .deed (.load g a n) =>
    let v := BitVec.ofNat 2048 (leNat (scratchBytes c a n))
    [plainEntry (d + 2) 2 (resId (bankResult g)) (if n ≤ 8 then 8 else 256) v]
  | .deed (.store w) => [writeEntry d 3 w.addr w.data]
  | .deed (.unitStore w) => [writeEntry d 3 w.addr w.data]
  | .deed (.rmwWrite _ w _) => if w.data = [] then [] else [writeEntry d 3 w.addr w.data]
  | .deed (.rmwRead g op a data cmp _) =>
    let old := BitVec.ofNat 32 (leNat (scratchBytes c a 4))
    let r := atomicOp op old data cmp
    plainEntry (d + 2) 2 (resId (bankResult g)) 8 (old.setWidth 2048) ::
      (if r.2.1 then [writeEntry (d + 2) 3 a (leBytes 4 r.1.toNat)] else [])
  | .deed (.stamp tile tag) => [{ writeEntry d 3 (tile * 4096) [] with flagTag := true, tag := tag }]
  | .deed (.pred n v) => [plainEntry d 5 (8 + n.val) 1 (if v then 1 else 0)]
  | .deed (.mbWrite id unit) => scratchUnit c d id unit
  | _ => []

/-- Work of core `k` due from gang cycle `t` on. -/
def workFrom (s : State) (k t : Nat) (c : Core) : List Job :=
  s.agenda.filter fun j => decide (j.core = some k ∧ t ≤ j.due) && ofGang c.gang j

/-- The replay entries of core `k` frozen before gang cycle `t`; `c` is the core or its image (R294). [log 56 DESIGN CHOICE] -/
def replayEntries (s : State) (k t : Nat) (c : Core) : List ReplayEntry :=
  let jobs := workFrom s k t c
  let works := jobs.flatMap fun j => jobEntries s k c jobs (j.due - t) j
  let items := (c.fetched.filter fun f => decide (t ≤ f.issueAt)).map fun f =>
    let b := match f.val with
      | .vector v => (256, v)
      | v => (8, (scalarIn .z v).setWidth 2048)
    { plainEntry (f.issueAt - t) 6 f.q b.1 b.2 with addr := (itemAddr (streamOf c f.q) f.before.pos).toNat }
  (works ++ items).foldl (fun es e => insertBy entryBefore e es) []

/-- The 32 bytes of an entry before its data, and the data (R294). [log 56 DESIGN CHOICE] -/
def entryBytes (e : ReplayEntry) : List Byte :=
  leBytes 4 e.due ++ leBytes 2 e.kind ++ leBytes 2 e.dst ++ leBytes 4 e.addr ++ leBytes 2 e.size ++
    leBytes 2 (bitAt e.flagG 0 + bitAt e.flagPoison 1 + bitAt e.flagTag 2) ++ leBytes 2 e.tag.toNat ++ leBytes 14 0 ++
    leBytes 256 e.data.toNat

/-- A core whose loop level is parked (R162). -/
def isParked (c : Core) : Bool := c.waits.park.isSome

/-- Offset of the replay entries (R296). -/
def replayOff (c : Core) : Nat := if c.isdirty then 0xB1000 else 0x51000

/-- The header of 256 bytes, DIGEST zero; `post` marks the image of a teardown (R296, R297). -/
def imageHeader (s : State) (x : Nat) (c : Core) (t n : Nat) (post : Bool) : List Byte :=
  leBytes 4 0x43584D49 ++ leBytes 2 1 ++ leBytes 2 (x % 4096) ++ leBytes 2 (c.idx % 1024) ++
    leBytes 2 (bitAt c.isdirty 0 + bitAt post 1 + bitAt (gangOf s c.gang).inexact 2 +
      bitAt (isParked c) 3 + bitAt (ctxOf s x).protect 4) ++
    leBytes 4 n ++ leBytes 8 t ++ leBytes 8 (replayOff c) ++ leBytes 224 0

/-- The mailbox snapshot buffer of 4,096 bytes (R380). -/
def snapBytes (c : Core) : List Byte :=
  match c.snaps with
  | [] => leBytes 4096 0
  | p :: _ => tbytes 0 p.2.2 0 4096

/-- The fabric counts SENT, RECV and CAPT of each link, which end the engines' area (R260, R296). [log 56 DESIGN CHOICE] -/
def fabricCounts (x : Gang) : List Byte :=
  [x.sent, x.recv, x.capt].flatMap fun t => (List.range 16).flatMap fun n => leBytes 4 (tget 0 t n)

/-- A core's image: context `x`, freeze cycle `t` (R296). [log 56 DESIGN CHOICE] -/
def imageBytes (s : State) (x k t : Nat) (c : Core) (post : Bool := false) : List Byte :=
  let es := replayEntries s k t c
  let body :=
    ((List.range 64).map fun i => leBytes 8 (sregOf c i).toNat).flatten ++
      areaBytes 64 scalarArea c ++ areaBytes 1216 ctArea c ++
      ((List.range 32).map fun i => leBytes 256 (vregOf c i).toNat).flatten ++
      ((List.range 8).map fun i => leBytes 32 (kregOf c i).toNat).flatten ++
      areaBytes 5888 portArea c ++ areaBytes 2048 streamArea c ++ areaBytes 1856 engineArea c ++ fabricCounts (gangOf s c.gang) ++
      snapBytes c ++ areaBytes 4096 recordArea c ++ areaBytes 4096 mxArea c ++ areaBytes 4096 blockArea c ++
      ((List.range 4096).map fun i => leBytes 8 (tget 0 c.mx.store i).toNat).flatten ++
      ((List.range 65536).map fun i => leBytes 4 (tget 0 c.mx.acc i).toNat).flatten ++
      (if c.isdirty then ((List.range 16384).map fun i => leBytes 24 (bundleAt c i).toNat).flatten else []) ++
      (es.map entryBytes).flatten
  let h := imageHeader s x c t es.length post
  let d := sha256 (h ++ body)
  h.take 32 ++ d ++ h.drop 64 ++ body

/-- Where core `k`'s image of context `x` lies: the first of the three pages that admission takes on the core (R261, R296). -/
def imagePlace (s : State) (x k : Nat) : Option Nat :=
  ((ctxOf s x).save.find? fun p => decide (p.1 = k)).map fun p => p.1 * 2 ^ 29 + p.2 * 2 ^ 21

/-- The image is written into the context save area (R296, R297). -/
def storeImage (s : State) (x k t : Nat) (c : Core) (post : Bool) : State :=
  match imagePlace s x k with
  | some a => putDev s a (imageBytes s x k t c post)
  | none => s

/-- The image as the save area holds it (R296). -/
def storedImage (s : State) (a : Nat) : List Byte :=
  let h := devBytes s a 64
  devBytes s a (min (fieldAt h 24 8 + 288 * min 512 (fieldAt h 12 4)) (2 ^ 21))

end Sys2Proof.Machine
end

