-- ==== Sys2Proof/Machine/Hold.lean ====
section
/-! DEFINITION. Holds: announcing, releasing, freezing and resuming gang time (R21 to R30). -/

namespace Sys2Proof.Machine

/-- The holds that name the gang's freeze. -/
def freezeHolds (x : Gang) : List Hold := x.holds.filter fun h => h.th = x.frozenAt

/-- Every hold of the freeze that was sent by pod cycle `t` had been released by then (R25). -/
def finalBy (x : Gang) (t : Nat) : Bool :=
  (freezeHolds x).all fun h => decide (t < h.origin) || h.released.any fun u => decide (u ≤ t)

/-- S of the RELEASE that made the freeze's resume final, not before the freeze itself; none while the resume is not final
(R25). -/
def lastRelease (x : Gang) : Option Nat :=
  (((freezeHolds x).filterMap fun h => h.released.map (max x.frozenPod)).filter (finalBy x)).foldl
    (fun m t => some (m.elim t (min t))) none

/-- The holds attached to the freeze: those sent not later than the RELEASE that made its resume final (R25). -/
def attachedHolds (x : Gang) : List Hold :=
  match lastRelease x with
  | none => freezeHolds x
  | some t => (freezeHolds x).filter fun h => decide (h.origin ≤ t)

/-- Whether every hold attached to the gang's freeze has been released (R25). -/
def holdsFinal (x : Gang) : Bool := (attachedHolds x).all fun h => h.released.isSome

/-- P_res of a hold released at `t` is S + H at the earliest (R24); a switch's, once the gang is back on its core sets, is the
pod cycle in which that was (R30). -/
def holdEnd (x : Gang) (h : Hold) (t : Nat) : Nat :=
  match x.swapIn with
  | some u => if h.cause = .switch then u else t + x.h
  | none => t + x.h

/-- The resume cycle of a final freeze: the greatest P_res = max(F + 1, S + H) of the attached holds (R24, R25, R30). -/
def resumeCycle (x : Gang) : Nat :=
  (attachedHolds x).foldl (fun p h =>
    match h.released with
    | some t => max p (holdEnd x h t)
    | none => p) (x.frozenPod + 1)

/-- If the gang is frozen and its holds are all released, fix the resume cycle; otherwise it is open (R25). -/
def settleHolds (s : State) (g : Nat) : State :=
  let x := gangOf s g
  if x.mode = .held then
    if holdsFinal x then
      let p := max s.pod (resumeCycle x)
      postPod (setGang s g { x with resume := some p }) p phFreeze (.holdResume g)
    else setGang s g { x with resume := none }
  else s

/-- Number of a new hold of this package; the chip id keeps it apart from the other members' numbers. [log 38 DESIGN CHOICE] -/
def holdNumber (s : State) (g : Nat) : Nat := (gangOf s g).holdSeq * 4096 + chipOf s

/-- Position of a cause among the lifetime counters of R336. -/
def causePos : HoldCause → Nat
  | .power => 0
  | .thermal => 1
  | .disturbance => 2
  | .hcopy => 3
  | .rclaim => 4
  | .mbsnap => 5
  | .watchdog => 6
  | .debug => 7
  | .switch => 8
  | .dram => 9

/-- Announce a hold with T_h = `th`, or attach it to the present freeze while that is not final, as it is not while the gang is
switched out; after that, T + H at the earliest (R22, R25, R30). Every other member gets a HOLD frame. -/
def announceHold (s : State) (g th : Nat) (cause : HoldCause) (core : Nat) : State :=
  let x := gangOf s g
  let t := if x.mode = .out then x.frozenAt
    else if x.mode = .held then (if x.resume.isNone then x.frozenAt else max th (x.frozenAt + x.h)) else th
  let n := holdNumber s g
  let s := setGang s g { x with holds := x.holds ++ [⟨n, t, cause, s.pod, core, none⟩], holdSeq := x.holdSeq + 1 }
  let s := countLife s 4 (causePos cause) 1
  leekMembers s g (.hold g n t cause s.pod)

/-- The gang has an outstanding hold of this cause charged to `core`. -/
def hasHold (s : State) (g : Nat) (cause : HoldCause) (core : Nat) : Bool :=
  (gangOf s g).holds.any fun h => decide (h.cause = cause ∧ h.core = core ∧ h.released = none)

/-- What a hold of another member is charged to: nothing on this package. -/
def farKey : Nat := 2 ^ 80

/-- The pod cycles that a hold of this package froze its gang count among the lifetime counters when it ends, on the core set or
switched out (R336). [log 64 DESIGN CHOICE] -/
def countFrozen (s : State) (g number : Nat) : State :=
  let x := gangOf s g
  if x.mode = .held ∨ x.mode = .out then
    ((freezeHolds x).filter fun h => decide (h.number = number ∧ h.released = none ∧ h.core ≠ farKey ∧ causePos h.cause < 8)).foldl
      (fun s h => countLife s 4 (16 + causePos h.cause) (s.pod - x.frozenPod)) s
  else s

/-- A run ends under its outstanding holds: the pod cycles that they have frozen it count (R336). -/
def countEnded (s : State) (g : Nat) : State :=
  ((gangOf s g).holds.filter fun h => h.released.isNone).foldl (fun s h => countFrozen s g h.number) s

/-- A hold's RELEASE is known with its S (R24). -/
def markReleased (s : State) (g number t : Nat) : State :=
  settleHolds (modGang (countFrozen s g number) g fun x => { x with holds := x.holds.map fun h =>
    if h.number = number then { h with released := some t } else h }) g

/-- Release the holds of a cause charged to `core`: RELEASE goes to every member with S the present pod cycle (R24). -/
def releaseHolds (s : State) (g : Nat) (cause : HoldCause) (core : Nat) : State :=
  let mine := (gangOf s g).holds.filter fun h => decide (h.cause = cause ∧ h.core = core ∧ h.released = none)
  mine.foldl (fun s h =>
    leekMembers (markReleased s g h.number s.pod) g (.release g h.number s.pod)) s

/-- Due work of a core's cycle: look ahead, issue, read ahead (R42, R86). -/
def startCore (s : State) (k : Nat) : State :=
  let x := gcycOf s k
  if (coreOf s k).running ∧ !(s.agenda.any fun j => decide (j.core = some k ∧ j.due = x ∧ j.task = .deed .begin)) then
    let s := if s.looking then s else postDeed s k x phPreview .preview
    postDeed (postDeed s k x phIssue .begin) k x phScan .scan
  else s

/-- A gang's cycle begins: every running core's work is due (R42). -/
def startCycle (s : State) (g : Nat) : State := (gangCores s g).foldl startCore s

/-- The periodic work of a gang cycle: the hang watchdog (R47) and the refresh count (R215). -/
def tickGang (s : State) (g : Nat) : State :=
  let x := gangOf s g
  let s := if x.wdog ≠ 0 then
      ((gangCores s g).filter fun k => (coreOf s k).running).foldl (fun s k =>
        if x.gcyc + x.h = (coreOf s k).wdogBase + x.wdog then
          post s ⟨.gang g, x.gcyc, phEnd + 30, none, .event (.watchdogThreshold k)⟩
        else s) s
    else s
  if x.gcyc % 2340 = 0 ∧ x.gcyc ≠ 0 then
    (gangCores s g).foldl (fun s k => post s ⟨.gang g, x.gcyc, phSample, none, .event (.refreshOwedIncrement k)⟩) s
  else s

/-! The DRAM controllers' part of a freeze (R212). -/

/-- The row that the accepted commands leave open in each bank of core `k`'s group at gang cycle `t`: home core, channels, bank,
row (R210, R212). -/
def openTimedRows (s : State) (k t : Nat) : List (Nat × BitVec 4 × Nat × Nat) :=
  let cs := (coreOf s k).dramCmds
  (cs.filter fun a => decide (a.kind = .act ∧ a.cycle < t) &&
    !(cs.any fun p => decide (p.kind = .pre ∧ p.bank = a.bank ∧ a.cycle < p.cycle ∧ p.cycle < t))).map fun a =>
      (k, a.chans, a.bank, a.row)

/-- What a hold of the controllers is charged to: nothing that another cause names. [log 81 DESIGN CHOICE] -/
def controllerKey : Nat := farKey + 1

/-- The gang's time stops at its present gang cycle (R23): the controllers close and record the open rows and attach a hold of
their own, whose RELEASE comes a free number of pod cycles later (R25, R212). [log 39 DESIGN CHOICE] -/
def freezeGang (s : State) (g : Nat) : State :=
  let x := gangOf s g
  let n := holdNumber s g
  let s := setGang s g
    { x with
      mode := .held, frozenAt := x.gcyc, frozenPod := s.pod, resume := none, holdSeq := x.holdSeq + 1
      holds := x.holds ++ [⟨n, x.gcyc, .dram, s.pod, controllerKey, none⟩]
      rows := (groupCores s g).flatMap fun k => openTimedRows s k x.gcyc }
  let s := leekMembers s g (.hold g n x.gcyc .dram s.pod)
  let (f, s) := takeFresh s
  settleHolds (post s ⟨.pod, s.pod + 1 + Config.controllerDelay f, phHub, none, .deed (.controllersRelease g n)⟩) g

/-- Whether a hold names the gang cycle that would begin next (R23). -/
def freezeDue (x : Gang) (t : Nat) : Bool := x.holds.any fun h => h.th = t

/-- HOLD_FREEZE: gang time stops at the hold's T_h (R23, R24). -/
def execHoldFreeze (gang : Nat) (s : State) : Out :=
  .next (if (gangOf s gang).mode = .running then freezeGang s gang else s)

/-! Debugging stops. -/

/-- A cycle that a stop has put off (R298). -/
def later (t d x : Nat) : Nat := if t ≤ x then x + d else x

/-- The matrix unit of a stopped core goes on `d` cycles later, its spacings unchanged (R182, R298). -/
def delayMx (d : Nat) (m : Mx) : Mx :=
  let block := fun b : BBlock => { b with ready := b.ready + d }
  { m with
    staged := m.staged.map block, active := m.active.map block, lastStep := m.lastStep.map fun p => (p.1 + d, p.2)
    lastEpi := m.lastEpi.map (· + d), steps := m.steps.map fun st => { st with start := st.start + d, b := block st.b }
    epis := m.epis.map fun e => { e with start := e.start + d }, zeros := m.zeros.map fun z => (z.1 + d, z.2) }

/-- A core stopped at `t` goes on `d` cycles later: what its commands, reservations and reads ahead were due in (R294, R298). -/
def delayCore (t d : Nat) (c : Core) : Core :=
  { c with
    mx := delayMx d c.mx
    cmds := c.cmds.map fun m => { m with start := m.start + d }
    predDue := c.predDue.map fun p => { p with cycle := later t d p.cycle }
    accesses := c.accesses.map fun a => { a with cycle := later t d a.cycle }
    stamps := c.stamps.map fun st => { st with cycle := later t d st.cycle }
    fetched := c.fetched.map fun f => { f with issueAt := later t d f.issueAt }
    ahead := c.ahead.map fun a => (later t d a.1, a.2)
    aheadBad := c.aheadBad.map fun a => (later t d a.1, a.2)
    deferred := c.deferred.map fun r => { r with charge := later t d r.charge }
    path := c.path.map fun p => (later t d p.1, p.2)
    nextIssue := later t d c.nextIssue }

/-- A deed that names a cycle of the matrix unit, later by `d` (R298). -/
def delayDeed (d : Nat) : Deed → Deed
  | .mxReadA st g => .mxReadA (st + d) g
  | .mxReadB r q rt cls => .mxReadB (r + d) q rt cls
  | .mxReadB2 r a n => .mxReadB2 (r + d) a n
  | .mxBias st q => .mxBias (st + d) q
  | x => x

/-- A step of the matrix unit that names its start, later by `d` (R182, R298). -/
def delayEvent (d : Nat) (i : Instr) : Instr :=
  match i with
  | .matrixGroupUpdate k st g => .matrixGroupUpdate k (st + d) g
  | .epilogueRow k st n => .epilogueRow k (st + d) n
  | _ => i

/-- A job of a core later by `d` cycles: what it had in flight at a debugging stop (R298). -/
def delayJob (k d : Nat) (j : Job) : Job :=
  if j.core = some k then
    { j with
      due := j.due + d
      task := match j.task with
        | .arrive fl => .arrive { fl with arrive := fl.arrive + d, issue := fl.issue + d }
        | .event x => .event (delayEvent d x)
        | .deed x => .deed (delayDeed d x) }
  else j

/-- A core stopped for debugging goes on at T_h: its next bundle issues then, and what was in flight at T performs at
T_h + DUE (R298). -/
def resumeStopped (s : State) (k : Nat) : State :=
  let c := coreOf s k
  match c.frozenAt with
  | some t =>
    if c.stopped then
      let x := gcycOf s k
      let s := { s with agenda := s.agenda.map (delayJob k (x - t)) }
      let c := delayCore t (x - t) c
      setCore s k { c with frozenAt := none, stopped := false, nextIssue := max x c.nextIssue }
    else s
  | none => s

/-- The cause of a hold of this package arose after the resume was final: it is announced anew, T + H at the earliest (R25). -/
def reannounce (s : State) (g : Nat) (x : Gang) : State :=
  ((freezeHolds x).filter fun h => !(attachedHolds x).contains h && decide (h.released = none ∧ h.core < farKey)).foldl (fun s h =>
    announceHold s g (x.frozenAt + x.h) h.cause h.core) s

/-- A run that resumes from a debugging stop is marked on each of its cores for as long as it lasts (R298). -/
def markInexact (s : State) (g : Nat) (x : Gang) : State :=
  if (attachedHolds x).any fun h => h.cause = .debug then
    (gangCores s g).foldl (fun s k => modCore s k fun c => { c with dbg := c.dbg ||| 2 })
      (modGang s g fun y => { y with inexact := true })
  else s

/-! The flight save area (R261 to R263). -/

/-- Source key of a frame's writes (R186). -/
def frameKey (fr : Frame) : Nat := fr.srcChip * 1024 + fr.srcCore

/-- The phase in which a frame performs: FATOM's old word is present in the cycle of its arrival (R187, R235). -/
def framePhase (fr : Frame) : Nat := if fr.kind = .atomResponse then phDone else phForeign (frameKey fr)

/-- KIND of a record (R261). -/
def recordKind : FrameKind → Nat
  | .send => 1
  | .put => 2
  | .getRequest => 3
  | .getResponse => 4
  | .atomRequest => 5
  | .atomResponse => 6
  | .poison => 7

/-- The payload of a record: the frame's bytes; of an FATOM request its operand and compare value, in the second word (R261). -/
def recordPayload (fr : Frame) : List Byte :=
  match fr.kind with
  | .atomRequest => leBytes 8 0 ++ leBytes 4 fr.operand.toNat ++ leBytes 4 fr.compare.toNat
  | _ => fr.data

/-- Bytes of a record: a header of 64 and the payload, padded to 64 (R261). -/
def recordSize (fr : Frame) : Nat := 64 + ((recordPayload fr).length + 63) / 64 * 64

/-- The bytes of a record (R261). -/
def fsaRecordBytes (fr : Frame) : List Byte :=
  let two := fr.kind = .getRequest ∨ fr.kind = .atomRequest
  let path := fr.back.foldr (fun l w => l.val + 16 * w) 0
  let head := leBytes 2 (recordKind fr.kind) ++ leBytes 2 (fr.poison.toNat + 2 * fr.uncorr.toNat) ++
    leBytes 2 (recordPayload fr).length ++ leBytes 2 fr.tag.toNat ++ leBytes 8 fr.arrive ++ leBytes 2 fr.srcChip ++
    leBytes 2 fr.srcCore ++ leBytes 2 fr.dstCore ++ leBytes 2 fr.link.val ++
    leBytes 8 (fr.addr + fr.dstCore * 2 ^ 22 + fr.dstChip * 2 ^ 32) ++ leBytes 8 (if two then path else 0) ++
    leBytes 8 (if two then fr.back.length * 32 else 0) ++ leBytes 8 fr.aop.toNat ++ leBytes 8 0
  (head ++ recordPayload fr ++ leBytes 64 0).take (recordSize fr)

/-- The pages of a gang's flight save area, after the three of each core (R261). -/
def fsaPages (s : State) (g : Nat) : List (Nat × Nat) := (ctxOf s (gangOf s g).ctx).save.drop (3 * (gangOf s g).cores)

/-- Write bytes, a multiple of 64 from such an offset on, into the flight save area (R261). -/
def putFsa (s : State) (g off : Nat) (bs : List Byte) : State :=
  (List.range (bs.length / 64)).foldl (fun s i =>
    let o := off + 64 * i
    match (fsaPages s g)[o / 2 ^ 21]? with
    | some (k, p) => putDev s (k * 2 ^ 29 + p * 2 ^ 21 + o % 2 ^ 21) ((bs.drop (64 * i)).take 64)
    | none => s) s

/-- The first 256 bytes of the flight save area's header; the rest of its 4,096 are 0 (R261). -/
def fsaHeader (x : Gang) : List Byte :=
  leBytes 4 0x46534156 ++ leBytes 4 x.fsa.length ++ leBytes 8 x.fsaUsed ++ leBytes 8 x.fsaHalt ++ leBytes 40 0 ++
    (List.range 16).flatMap fun n => leBytes 4 (tget 0 x.sent n) ++ leBytes 4 (tget 0 x.recv n) ++ leBytes 4 (tget 0 x.capt n)

/-- The header as it stands is written (R261). -/
def writeFsaHeader (s : State) (g : Nat) : State := putFsa s g 0 (fsaHeader (gangOf s g))

/-- The header is written for the first time, all of its 4,096 bytes (R261). -/
def clearFsaHeader (s : State) (g : Nat) : State := putFsa s g 0 (fsaHeader (gangOf s g) ++ leBytes 3840 0)

/-- A record is added to the flight save area, and counted in CAPT (R260, R261). -/
def addFsa (s : State) (fr : Frame) : State :=
  let x := gangOf s fr.gang
  let s := putFsa s fr.gang x.fsaUsed (fsaRecordBytes fr)
  writeFsaHeader (setGang s fr.gang
    { x with fsa := x.fsa ++ [fr], fsaUsed := x.fsaUsed + recordSize fr, fsaHalt := x.frozenAt
             capt := tmod 0 x.capt fr.link.val (· + 1) }) fr.gang

/-- Records of the flight save area perform at ARRIVE after the resume (R242, R263). -/
def reinject (s : State) (g : Nat) : State :=
  let x := gangOf s g
  if x.fsa = [] then s
  else
    let s := writeFsaHeader (setGang s g { x with fsa := [], fsaUsed := 4096 }) g
    x.fsa.foldl (fun s f => postGang s g f.arrive (framePhase f) (.fsaReinject g f)) s

/-- HOLD_RESUME: at the greatest P_res gang time restarts, and the bundle due at T_h issues (R25). -/
def execHoldResume (gang : Nat) (s : State) : Out :=
  let x := gangOf s gang
  if x.mode = .held ∧ x.resume = some s.pod ∧ holdsFinal x then
    let s := setGang s gang
      { x with mode := .running, resume := none, swapIn := none, holds := x.holds.filter fun h => h.th ≠ x.frozenAt }
    let s := reinject (markInexact (reannounce s gang x) gang x) gang
    .next (tickGang (startCycle ((gangCores s gang).foldl resumeStopped s) gang) gang)
  else .next s

end Sys2Proof.Machine
end

