-- ==== Sys2Proof/Machine/Sync.lean ====
section
/-! DEFINITION. RESYNC (R36, R37, R245) and the barrier objects (R345 to R350). -/

namespace Sys2Proof.Machine

/-- What is decided at the end of a cycle from all that happened in it. -/
def phSync : Nat := phEnd + 20

/-- What completes in pod time is not seen by the timed accesses of that pod cycle (R193). -/
def phUntimed : Nat := phEnd + 40

/-- A deed in a gang's time that no core's clock stops. -/
def postGangDeed (s : State) (g due phase : Nat) (d : Deed) : State := post s ⟨.gang g, due, phase, none, .deed d⟩

/-- The running cores of a gang on this package: RESYNC's parties (R36). -/
def parties (s : State) (g : Nat) : List Nat := (gangCores s g).filter fun k => (coreOf s k).running

/-- The parent of member `m` in the tree: the last member before it on the Leek route from the root (R245). [log 36 DEDUCED] -/
def treeParent (f : Fabric) (ms : List Nat) (m : Nat) : Option Nat :=
  let root := ms.foldl min m
  if m = root then none
  else (((leekRoute f 32 root m).map (·.1)).filter fun c => ms.contains c && c != m).getLast?

/-- The children of this chip in the gang's tree. [log 36 DEDUCED] -/
def treeChildren (s : State) (g : Nat) : List Nat :=
  let ms := (gangOf s g).members
  ms.filter fun m => treeParent (fabOf s) ms m = some (chipOf s)

/-- R_res: the least multiple of FRAMELEN that is at least L + H (R36). -/
def resyncCycle (x : Gang) (l : Nat) : Nat := (l + x.h + x.framelen - 1) / x.framelen * x.framelen

/-- Every party has arrived, the last at `l`: the waiting cores resume at R_res, and the barrier's completion goes down the
tree (R36, R245). -/
def resyncComplete (s : State) (g l : Nat) : State :=
  let x := gangOf s g
  let r := resyncCycle x l
  let s := (gangCores s g).foldl (fun s k => modCore s k fun c =>
    if c.waits.resync = some none then { c with waits := { c.waits with resync := some (some r) } } else c) s
  let s := setGang s g { x with arrived := [], latest := 0, children := [], forwarded := false }
  let s := (treeChildren s g).foldl (fun s m => leekSend s g m (.resyncFrame g (chipOf s) 0 l)) s
  postGang s g r phDone (.resyncResume g)

/-- A child has arrived at a barrier whose arrivals are `cs`, or no core runs any more in its part of the tree (R37, R245). -/
def childDone (x : Gang) (cs : List (Nat × Nat × Nat)) (m : Nat) : Bool :=
  (cs.any fun c => c.1 = m) || x.idleKids.any fun c => c.1 = m

/-- At the end of a cycle: when this member's parties and its children in the tree have arrived, the arrival is forwarded to
the parent once, or at the root the barrier completes (R36, R245). A member in whose part of the tree no core runs any more
tells its parent so, with a count of 0, so that the barrier does not wait for it (R37). [log 35 DEDUCED, 36 DEDUCED] -/
def resyncCheck (s : State) (g : Nat) : State :=
  let x := gangOf s g
  let all := (parties s g).all fun k => x.arrived.contains k
  let kids := (treeChildren s g).all (childDone x x.children)
  let l := (x.children.map (·.2.2) ++ x.idleKids.map (·.2)).foldl max x.latest
  let n := x.children.foldl (fun n c => n + c.2.1) x.arrived.length
  let idle := (parties s g).isEmpty && (treeChildren s g).all fun m => x.idleKids.any fun c => c.1 = m
  match treeParent (fabOf s) x.members (chipOf s) with
  | some p =>
    if idle then
      if x.toldIdle then s else leekSend (setGang s g { x with toldIdle := true }) g p (.resyncFrame g (chipOf s) 0 l)
    else if all ∧ kids ∧ n ≠ 0 ∧ !x.forwarded then
      leekSend (setGang s g { x with forwarded := true }) g p (.resyncFrame g (chipOf s) n l)
    else s
  | none => if all ∧ kids ∧ n ≠ 0 then resyncComplete s g l else s

/-- A core's RESYNC trigger arrives at `t` (R36). -/
def resyncArrive (s : State) (k t : Nat) : State :=
  let g := (coreOf s k).gang
  let s := modGang s g fun x => { x with arrived := x.arrived ++ [k], latest := max x.latest t }
  postGangDeed s g t phSync (.resyncCheck g)

/-- A party stops being one: with the others waiting, its exit may complete the barrier, and its cycle counts as the last
(R37). [log 35 DEDUCED] -/
def resyncExit (s : State) (k t : Nat) : State :=
  let g := (coreOf s k).gang
  let s := modGang s g fun x => { x with latest := max x.latest t }
  postGangDeed s g t phSync (.resyncCheck g)

/-- Every core of every member has executed EXIT, as this member knows: the root from its part of the tree, another member from
the root's word (R253). [log 82 DEDUCED] -/
def membersOver (s : State) (g : Nat) : Bool :=
  let x := gangOf s g
  (others s g).isEmpty ||
    (if isLeader s g then (treeChildren s g).all fun m => x.overKids.contains m else x.complete)

/-- A member whose cores have performed their last operations, and whose children in the tree have told so, tells its parent once,
with a second frame of count 0 (R253, R361). [log 82 DEDUCED] -/
def tellOver (s : State) (g : Nat) : State :=
  let x := gangOf s g
  match treeParent (fabOf s) x.members (chipOf s) with
  | some p =>
    if x.toldIdle && !x.toldOver && (treeChildren s g).all fun m => x.overKids.contains m then
      leekSend (setGang s g { x with toldOver := true }) g p (.resyncFrame g (chipOf s) 0 x.latest)
    else s
  | none => s

/-- The root's word that the run is complete goes down the tree, as a RESYNC frame with a count of 1 (R253). [log 82 DEDUCED] -/
def tellComplete (s : State) (g : Nat) : State :=
  (treeChildren s g).foldl (fun s m => leekSend s g m (.resyncFrame g (chipOf s) 1 0)) s

/-- RESYNC_FRAME: from a child, its arrivals, or with a count of 0 that no core of its part of the tree runs any more, and then
that their last operations have performed; from the parent, the barrier's completion, or with a count of 1 the run's (R36, R37,
R245, R253, R361). -/
def execResyncFrame (gang chip count latest : Nat) (s : State) : Out :=
  if (treeChildren s gang).contains chip then
    .next (resyncCheck (modGang s gang fun x =>
      if count = 0 then
        (if x.idleKids.any fun c => c.1 = chip then { x with overKids := x.overKids ++ [chip] }
         else { x with idleKids := x.idleKids ++ [(chip, latest)] })
      else { x with children := x.children ++ [(chip, count, latest)] }) gang)
  else if count = 0 then .next (resyncComplete s gang latest)
  else .next (tellComplete (modGang s gang fun x => { x with complete := true }) gang)

/-- RESYNC_RESUME: at R_res every party's next bundle issues, and the die, package and gang intervals advance at the cycle's
end (R36, R198, R199). -/
def execResyncResume (gang : Nat) (s : State) : Out :=
  let t := (gangOf s gang).gcyc
  let ks := (gangCores s gang).filter fun k => decide ((coreOf s k).waits.resync = some (some t))
  let s := ks.foldl (fun s k => modCore s k fun c => { c with waits := { c.waits with resync := none } }) s
  .next (postGangDeed s gang t phAdvance (.gangIntervals gang ((ks.map (· / 128)).eraseDups) true true))

/-- The interval counters of a gang that advance at a cycle's end (R198, R199). -/
def gangIntervals (s : State) (gang : Nat) (dies : List Nat) (pkg gng : Bool) : State :=
  modGang s gang fun x =>
    { x with
      interval := if gng then x.interval + 1 else x.interval
      pkgIv := if pkg then x.pkgIv + 1 else x.pkgIv
      dieIv := dies.foldl (fun t d => tmod 0 t d (· + 1)) x.dieIv }

/-! Barrier objects. -/

def barrierOf (s : State) (o : Nat) : Barrier := tget {} s.hub.barriers o

def setBarrier (s : State) (o : Nat) (b : Barrier) : State :=
  { s with hub := { s.hub with barriers := tset {} s.hub.barriers o b } }

/-- The object of handle `h` for a gang (R345). -/
def barrierObject (s : State) (g h : Nat) : Nat := 64 * (gangOf s g).coreset + h % 64

/-- A barrier's state at gang cycle `x`; clear at admission (R345, R346). -/
def barrierAt (b : Barrier) (x : Nat) : BarState := ((b.states.find? fun p => decide (p.1 ≤ x)).map (·.2)).getD {}

/-- Order of the events of one cycle: ascending (chip id, context core index), and what the tree tells last (R245, R346). -/
def insertEvent (e : BarEvent) : List BarEvent → List BarEvent
  | [] => [e]
  | f :: fs => if e.chip * 1024 + e.core < f.chip * 1024 + f.core then e :: f :: fs else f :: insertEvent e fs

/-- Key of a core in a barrier's sets. -/
def barKey (e : BarEvent) : Nat := e.chip * 1024 + e.core

/-- The generation completes: the new state, and the completed generation's parties (R346). -/
def barNext (b : BarState) : BarState × Option (Nat × List Nat) :=
  ({ b with gen := (b.gen + 1) % 2 ^ 16, arrived := 0, arrivals := [] }, some (b.gen, b.arrivals))

/-- A generation completes when ARRIVED reaches EXPECTED. [log 95 DESIGN CHOICE] -/
def barComplete (b : BarState) : BarState × Option (Nat × List Nat) :=
  if b.init ∧ b.expected ≤ b.arrived then barNext b else (b, none)

/-- COUNT mode: broken once ARRIVED and the live cores no longer reach EXPECTED (R349). -/
def barBreak (live : List Nat) (b : BarState) : BarState :=
  if b.init ∧ !b.mode ∧ b.arrived + (live.filter fun k => !b.arrivals.contains k).length < b.expected then
    { b with broken := true }
  else b

/-- What one event makes of a barrier's state before it is asked whether a generation completes or can no longer (R346 to R349).
-/
def barStep (b : BarState) (e : BarEvent) : BarState :=
  match e.kind with
  | 0 => { init := true, mode := e.b.testBit 0, scope := e.b.testBit 1, expected := e.a }
  | 1 =>
    if b.arrivals.contains (barKey e) then b
    else { b with arrived := b.arrived + 1, arrivals := b.arrivals ++ [barKey e],
                  members := if b.members.contains (barKey e) then b.members else b.members ++ [barKey e] }
  | 2 =>
    if b.mode ∧ b.members.contains (barKey e) then
      { b with
        members := b.members.erase (barKey e), expected := b.expected - 1
        arrived := if b.arrivals.contains (barKey e) then b.arrived - 1 else b.arrived
        arrivals := b.arrivals.erase (barKey e) }
    else b
  | 6 => { b with broken := true }
  | _ => b

/-- One event on a barrier's state, with the generation it completes (R346 to R349); `live`: keys of the running cores in scope.
[log 95 DESIGN CHOICE] -/
def barApply (live : List Nat) (b : BarState) (e : BarEvent) : BarState × Option (Nat × List Nat) :=
  if e.kind = 3 then (b, none)
  else
    let r := if e.kind = 5 then barNext b else if e.kind = 0 then (barStep b e, none) else barComplete (barStep b e)
    (barBreak live r.1, r.2)

/-- The events of a cycle applied in order: the state, and the generations completed. -/
def barFold (live : List Nat) : List BarEvent → BarState → BarState × List (Nat × List Nat)
  | [], b => (b, [])
  | e :: es, b =>
    let r := barApply live b e
    let q := barFold live es r.1
    (q.1, r.2.toList ++ q.2)

/-- Each event of a cycle with the state it meets: that gives the generation an arrival joins, and whether it is its core's
second one (R346, R348). -/
def barMeets (live : List Nat) : List BarEvent → BarState → List (BarEvent × BarState)
  | [], _ => []
  | e :: es, b => (e, b) :: barMeets live es (barApply live b e).1

/-- A second arrival in one generation, or an arrival with WAIT at a broken barrier (R348, R349): its subcode. -/
def arrivalFault (met after : BarState) (e : BarEvent) : Option Nat :=
  if e.kind ≠ 1 then none
  else if met.arrivals.contains (barKey e) then some 3
  else if e.a = 1 ∧ after.broken then some 1
  else none

/-- The core of an event on this package. -/
def eventCore (s : State) (g : Nat) (e : BarEvent) : Option Nat := if e.chip = chipOf s then coreAt s g e.core else none

/-- The cores waiting on a handle. -/
def waitersOf (s : State) (g h : Nat) : List Nat :=
  (gangCores s g).filter fun k => (coreOf s k).waits.barriers.any fun w => w.handle = h

/-- Change the waits on handle `h` of a gang's cores. -/
def mapWaits (s : State) (g h : Nat) (f : BarWait → BarWait) : State :=
  (gangCores s g).foldl (fun s k => modCore s k fun c =>
    { c with waits := { c.waits with barriers := c.waits.barriers.map fun w => if w.handle = h then f w else w } }) s

/-- Keep of a barrier's past what a BARPOLL or an event told late can still ask for. -/
def pruneStates (x : Nat) : List (Nat × BarState) → List (Nat × BarState)
  | [] => []
  | p :: ps => if p.1 ≤ x then [p] else p :: pruneStates x ps

/-- How far back an event may be told: the reach of a control frame, and BARPOLL's (R21, R350). -/
def barReach (s : State) (g : Nat) : Nat := 2 * (gangOf s g).h + 8

/-- The tree is told of a completion or a break at the root (R245). [log 36 DEDUCED] -/
def tellTree (s : State) (g h count latest : Nat) : State :=
  (treeChildren s g).foldl (fun s m => leekSend s g m (.barrier g h (chipOf s) count latest)) s

/-- This package is the root of the gang's tree and has children in it (R245). -/
def treeRoot (s : State) (g : Nat) : Bool :=
  (treeParent (fabOf s) (gangOf s g).members (chipOf s)).isNone && !(others s g).isEmpty

/-- A generation completed at `l`: its waiters resume at l + H (R346, R348). -/
def barrierCompleted (s : State) (g o l gen expected : Nat) (scope : Bool) (ps : List Nat) : State :=
  let h := o % 64
  let t := l + (gangOf s g).h
  let b := barrierOf s o
  let s := setBarrier s o { b with
    done := b.done ++ [(gen, l, ps, ps.all fun key => decide (key / 1024 = chipOf s))], forwarded := false, children := []
    ended := l :: b.ended.filter fun e => decide (l ≤ e + barReach s g) }
  let s := mapWaits s g h fun w => if w.gen = gen then { w with resume := some t } else w
  let s := postGang s g t phDone (.barrierResume g h gen)
  if scope && treeRoot s g then tellTree s g h (max expected ps.length) l else s

/-- The state and the evaluation of a barrier go back to before cycle `x`: an event of it is applied next (R346). -/
def barrierUnwind (s : State) (g o x : Nat) : State :=
  let h := o % 64
  let t := x + (gangOf s g).h
  let b := barrierOf s o
  let s := setBarrier s o { b with
    states := b.states.filter fun p => decide (p.1 < x), done := b.done.filter fun d => decide (d.2.1 < x)
    ended := b.ended.filter fun e => decide (e < x) }
  let s := { s with agenda := s.agenda.filter fun j => !(match j.task with
    | .event (.barrierResume g' h' _) => decide (g' = g ∧ h' = h ∧ t ≤ j.due)
    | .deed (.barrierFault h' _ _) => decide (h' = h ∧ t ≤ j.due) && ofGang g j
    | _ => false) }
  mapWaits s g h fun w => if w.resume.any fun r => decide (t ≤ r) then { w with resume := none } else w

/-- Keys of the cores in scope that run in cycle `x` (R349). -/
def liveAt (s : State) (g x : Nat) (scope : Bool) : List Nat :=
  let here := (gangCores s g).filter fun k => (coreOf s k).running || (coreOf s k).exitAt.any fun t => decide (x < t)
  (here.map fun k => chipOf s * 1024 + (coreOf s k).idx) ++ (if scope then (gangOf s g).farRunning else [])

/-- A waiting arrival of a core here: its wait begins in the cycle of the arrival, and names the generation it joins (R348). -/
def beginWait (s : State) (k h gen : Nat) (first : Bool) : State :=
  modCore s k fun c =>
    let ws := c.waits.barriers
    let ws := if (ws.any fun w => w.handle = h) then ws.map fun w => if w.handle = h then { w with gen := gen } else w
      else if first then ws ++ [⟨h, gen, none⟩] else ws
    { c with waits := { c.waits with barriers := ws } }

/-- What each event of cycle `x` does to the cores here, in order: the waits it begins, those a BARINIT ends with subcode 2, and
its faults, the ones known only at its bundle in that cycle itself (R347 to R349). [log 36 DEDUCED] -/
def barrierReport (s : State) (g h x : Nat) (after : BarState) (em : BarEvent × BarState) : State :=
  let e := em.1
  let now := decide (x = (gangOf s g).gcyc)
  match e.kind, eventCore s g e with
  | 0, _ =>
    if now then
      (waitersOf s g h).foldl (fun s k => modCore s k fun c => raiseNow c x 0x1B (BitVec.ofNat 64 h) 2 0) s
    else s
  | 2, _ => s
  | _, none => s
  | _, some k =>
    if !after.init then
      (if now then modCore s k fun c => addRaise c ⟨0x1B, e.issue, e.bundle, e.slot, BitVec.ofNat 64 h, 5, 0⟩ else s)
    else
      let s := if e.kind = 1 ∧ e.a = 1 then beginWait s k h em.2.gen now else s
      match arrivalFault em.2 after e with
      | some sub => postDeed s k (x + (gangOf s g).h) phRegister (.barrierFault h sub false)
      | none => s

/-- A barrier broken in cycle `x`: its waiters starve at x + H, and the root tells the tree (R245, R349). -/
def barrierStarves (s : State) (g h x : Nat) (b : BarState) : State :=
  let s := (waitersOf s g h).foldl (fun s k => postDeed s k (x + (gangOf s g).h) phRegister (.barrierFault h 1 true)) s
  if b.scope && treeRoot s g then tellTree s g h 0 x else s

/-- The events of cycle `x` on a barrier object applied to the state before it, with their faults and completions (R346). -/
def barrierCycle (s : State) (g o x : Nat) : State :=
  let b := barrierOf s o
  let es := (b.events.filter fun e => e.cycle = x).foldl (fun l e => insertEvent e l) []
  let before := barrierAt b (x - 1)
  let live := liveAt s g x (before.scope || es.any fun e => decide (e.kind = 0) && e.b.testBit 1)
  let r := barFold live es before
  let s := setBarrier s o { b with states := (x, r.1) :: b.states }
  let s := (barMeets live es before).foldl (fun s em => barrierReport s g (o % 64) x r.1 em) s
  let s := if r.1.broken ∧ !before.broken then barrierStarves s g (o % 64) x r.1 else s
  r.2.foldl (fun s d => barrierCompleted s g o x d.1 r.1.expected r.1.scope d.2) s

/-- The cycles from `x` up to `y` that have events, ascending. -/
def eventCycles (es : List BarEvent) (x y : Nat) : List Nat :=
  (es.filter fun e => decide (x ≤ e.cycle ∧ e.cycle ≤ y)).foldl (fun l e => insertNat e.cycle l) []
where
  insertNat (n : Nat) : List Nat → List Nat
    | [] => [n]
    | m :: ms => if n = m then m :: ms else if n < m then n :: m :: ms else m :: insertNat n ms

/-- The state of a barrier from cycle `x` on: the events known, applied in ascending order of cycles (R346). -/
def barrierRun (s : State) (g o x : Nat) : State :=
  (eventCycles (barrierOf s o).events x (gangOf s g).gcyc).foldl (fun s y => barrierCycle s g o y) (barrierUnwind s g o x)

/-- The latest arrival here of the generation in progress. -/
def latestArrival (s : State) (b : Barrier) (st : BarState) : Nat :=
  (b.events.filter fun e => decide (e.kind = 1 ∧ e.chip = chipOf s) && st.arrivals.contains (barKey e)).foldl
    (fun l e => max l e.cycle) 0

/-- A gang-scope barrier over several members: when this member's running cores and its children have arrived, the count and the
latest arrival go to the parent, once for a generation (R245). [log 36 DEDUCED] -/
def barrierForward (s : State) (g o : Nat) : State :=
  let b := barrierOf s o
  let st := barrierAt b (gangOf s g).gcyc
  let ks := (parties s g).map fun k => chipOf s * 1024 + (coreOf s k).idx
  let mine := (st.arrivals.filter fun key => decide (key / 1024 = chipOf s)).length
  let n := b.children.foldl (fun n c => n + c.2.1) mine
  match treeParent (fabOf s) (gangOf s g).members (chipOf s) with
  | none => s
  | some p =>
    if st.init ∧ st.scope ∧ n ≠ 0 ∧ ks.all (fun k => st.arrivals.contains k) ∧
        (treeChildren s g).all (childDone (gangOf s g) b.children) ∧ !b.forwarded then
      leekSend (setBarrier s o { b with forwarded := true }) g p
        (.barrier g (o % 64) (chipOf s) n (b.children.foldl (fun l c => max l c.2.2) (latestArrival s b st)))
    else s

/-- An event on a barrier object is known: one of a coming cycle is applied at that cycle's end, one of the past at once (R346).
-/
def noteBarrier (s : State) (g o : Nat) (e : BarEvent) : State :=
  let b := barrierOf s o
  let s := setBarrier s o { b with events := b.events ++ [e] }
  if e.cycle < (gangOf s g).gcyc then barrierForward (barrierRun s g o e.cycle) g o
  else if b.events.any fun f => f.cycle = e.cycle then s
  else postGangDeed s g e.cycle phSync (.barrierApply g o)

/-- The end of a cycle for a barrier object: its events applied, and what no event can reach any more forgotten (R346). -/
def barrierEvents (s : State) (g o : Nat) : State :=
  let x := (gangOf s g).gcyc
  let s := barrierRun s g o x
  let b := barrierOf s o
  let st := barrierAt b x
  let s := setBarrier s o { b with
    states := pruneStates (x - barReach s g) b.states
    events := b.events.filter fun e => decide (x ≤ e.cycle + barReach s g) || (decide (e.kind = 1) && st.arrivals.contains (barKey e)) }
  barrierForward s g o

/-- A core of another member acts on a gang-scope barrier, or starts (R40, R345 to R349). [log 95 DESIGN CHOICE] -/
def farBarrier (s : State) (g h x chip core kind a b : Nat) : State :=
  let key := chip * 1024 + core
  let s := modGang s g fun y =>
    { y with farRunning := if kind = 2 ∨ kind = 4 then y.farRunning.erase key ++ (if kind = 4 then [key] else []) else y.farRunning }
  if kind = 4 then s else noteBarrier s g (barrierObject s g h) ⟨x, chip, core, kind, a, b, 0, 0, 0⟩

/-- Member `m` lies in the part of the tree below `child` (R245). -/
def underChild (f : Fabric) (ms : List Nat) (child : Nat) : Nat → Nat → Bool
  | 0, m => decide (m = child)
  | n + 1, m => decide (m = child) || (treeParent f ms m).any fun p => underChild f ms child n p

/-- Arrivals that a child's frame counts and that this member does not know one by one: they have come by its latest cycle (R245).
[log 36 DEDUCED] -/
def childArrivals (s : State) (g o chip count latest : Nat) : State :=
  let st := barrierAt (barrierOf s o) (gangOf s g).gcyc
  let ms := (gangOf s g).members
  let known := (st.arrivals.filter fun key => underChild (fabOf s) ms chip ms.length (key / 1024 % 4096)).length
  (List.range (count - known)).foldl (fun s i =>
    noteBarrier s g o ⟨latest, chip, 2 ^ 32 + i * 2 ^ 22, 1, 0, 0, 0, 0, 0⟩) s

/-- BARRIER: from a child, its arrivals; from the parent, the completion, or with fewer than EXPECTED the break, which goes on
down the tree (R245, R349). [log 36 DEDUCED] -/
def execBarrier (gang handle chip count latest : Nat) (s : State) : Out :=
  let o := barrierObject s gang handle
  let b := barrierOf s o
  let st := barrierAt b (gangOf s gang).gcyc
  if (treeChildren s gang).contains chip then
    if b.ended.any fun l => decide (latest ≤ l) then .next s
    else
      let s := setBarrier s o { b with children := b.children ++ [(chip, count, latest)] }
      .next (barrierForward (if st.init then childArrivals s gang o chip count latest else s) gang o)
  else
    let s := tellTree s gang (o % 64) count latest
    if b.ended.contains latest then .next s
    else .next (noteBarrier s gang o
      ⟨latest, 4096, 0, if st.expected ≤ count then 5 else 6, 0, 0, 0, 0, 0⟩)

/-- A core's EXIT at `t` acts on the barriers of its core set (R349). -/
def barrierExits (s : State) (k t : Nat) : State :=
  let c := coreOf s k
  let lo := 64 * (gangOf s c.gang).coreset
  (s.hub.barriers.filter fun ob => decide (lo ≤ ob.1 ∧ ob.1 < lo + 64)).foldl (fun s ob =>
    noteBarrier s c.gang ob.1 ⟨t, chipOf s, c.idx, 2, 0, 0, t, c.curBundle, 0⟩) s

/-- A barrier fault due now on core `k`; a starvation only while it still waits (R348, R349). -/
def barrierFault (s : State) (k h sub : Nat) (record : Bool) : State :=
  let x := gcycOf s k
  let waits := (coreOf s k).waits.barriers.any fun w => w.handle = h
  if record ∧ !waits then s
  else modCore s k fun c =>
    let c := raiseNow c x 0x1B (BitVec.ofNat 64 h) (BitVec.ofNat 64 sub) 0
    if record then addRecord c ⟨4, h, 0, 0, x, 0, 0, 0, 0, 0⟩ else c

/-- BARRIER_RESUME: a completion is effective at L + H: its waiters resume, and the intervals of its parties advance at the
cycle's end (R198, R199, R346, R348). -/
def execBarrierResume (gang handle gen : Nat) (s : State) : Out :=
  let o := barrierObject s gang handle
  let b := barrierOf s o
  match b.done.find? fun d => decide (d.1 = gen) with
  | none => .next s
  | some d =>
    let ks := d.2.2.1.filterMap fun key => if key / 1024 = chipOf s then coreAt s gang (key % 1024) else none
    let s := setBarrier s o { b with done := b.done.erase d }
    let s := (gangCores s gang).foldl (fun s k => modCore s k fun c =>
      { c with waits := { c.waits with barriers := c.waits.barriers.filter fun w => decide (w.handle ≠ handle ∨ w.gen ≠ gen) } }) s
    let t := (gangOf s gang).gcyc
    let s := ks.foldl (fun s k => postDeed s k t phAdvance .interval) s
    let dies := (ks.map (· / 128)).eraseDups
    .next (postGangDeed s gang t phAdvance
      (.gangIntervals gang (if d.2.2.2 && dies.length == 1 then dies else []) true false))

/-- The barrier handle of a trigger. -/
def barHandle (fl : Flight) : Nat := (scalarIn .z fl.val).toNat % 64

/-- An event of the arriving trigger on its barrier, in effect at cycle `t`. -/
def barEvent (s : State) (fl : Flight) (t kind a b : Nat) : BarEvent :=
  ⟨t, chipOf s, (myCore s).idx, kind, a, b, fl.issue, fl.bundle, fl.slot⟩

/-- BARINIT (R347). -/
def execBarinit (m : Mv) (s : State) : Out :=
  trigger (.barinit m) m s fun fl s =>
    let h := barHandle fl
    let g := (myCore s).gang
    let e := (portOf (myCore s) 0x3C0).toNat % 2 ^ 16
    if e = 0 then modMe s fun c => raiseFor c fl [0x3C0] 0x1B (BitVec.ofNat 64 h) 4 0
    else noteBarrier s g (barrierObject s g h)
      (barEvent s fl (fl.arrive + leadOf s (me s)) 0 e ((portOf (myCore s) 0x3C1).toNat % 4))

/-- BARRIVE (R348). -/
def execBarrive (m : Mv) (s : State) : Out :=
  trigger (.barrive m) m s fun fl s =>
    let h := barHandle fl
    let g := (myCore s).gang
    noteBarrier s g (barrierObject s g h) (barEvent s fl fl.arrive 1 ((portOf (myCore s) 0x3C0).toNat % 2) 0)

/-- The word BARPOLL reads (R350). -/
def barWord (b : BarState) : Nat :=
  b.gen + b.arrived * 2 ^ 16 + b.expected * 2 ^ 32 + (if b.broken then 2 ^ 48 else 0) + (if b.mode then 2 ^ 49 else 0) +
    (if b.scope then 2 ^ 50 else 0) + (if b.init then 2 ^ 51 else 0)

/-- BARPOLL: the state at t − H, present at t + 2 (R350). -/
def execBarpoll (m : Mv) (s : State) : Out :=
  trigger (.barpoll m) m s fun fl s =>
    let h := barHandle fl
    let g := (myCore s).gang
    let o := barrierObject s g h
    let lead := leadOf s (me s)
    let b := if fl.arrive < lead then {} else barrierAt (barrierOf s o) (fl.arrive - lead)
    let s := noteBarrier s g o (barEvent s fl fl.arrive 3 0 0)
    completeWord s fl .sy 2 (BitVec.ofNat 64 (barWord b)) 0

end Sys2Proof.Machine
end

