-- ==== Sys2Proof/Machine/Teardown.lean ====
section
/-! DEFINITION. Mailbox headers (R273, R274), scrubs (R299 to R301), retirement (R334, R335) and the teardown of a gang's run
(R268). -/

namespace Sys2Proof.Machine

/-! Mailbox pairs. -/

/-- Key of an aperture byte of a pair (R273). -/
def mbKey (p off : Nat) : Nat := p * 0x4000 + off

def actHdr : Nat := 0
def actPay : Nat := 0x1000
def obsHdr : Nat := 0x2000
def obsPay : Nat := 0x3000

/-- Convention: [log 1 DESIGN CHOICE] -/
def mbBytes (s : State) (p off n : Nat) : List Byte := tbytes 0 (envOf s).bytes (mbKey p off) n

def mbNat (s : State) (p off n : Nat) : Nat := leNat (mbBytes s p off n)

/-- Bytes of a pair are written; whole sectors renew their ECC (R220). -/
def putMb (s : State) (p off : Nat) (bs : List Byte) : State :=
  let e := envOf s
  setEnv s
    { e with
      bytes := tputs 0 e.bytes (mbKey p off) bs
      bad := (wholeSectors (mbKey p off) bs.length).foldl (fun t i => tset false t i false) e.bad }

/-- STATUS of the action or observation header (R274). -/
def mbStatus (s : State) (p hdr : Nat) : Nat := mbNat s p (hdr + 12) 1

def mbFlags (s : State) (p hdr : Nat) : Nat := mbNat s p (hdr + 13) 1

/-- EMPTY 0, FULL 1, TAKEN 2; DONE 3, KILLED 4, TIMEOUT 5 and VERSION_REJECT 6 are final (R275). -/
def mbFinal (st : Nat) : Bool := decide (3 ≤ st ∧ st ≤ 6)

def turnOf (s : State) (p : Nat) : Bool := tget false (envOf s).turn p

def setTurn (s : State) (p : Nat) (b : Bool) : State := setEnv s { envOf s with turn := tset false (envOf s).turn p b }

/-- EPISODE, STEP, VSTART, VSTEP and SENDCYC go from the action header to the observation's (R274). -/
def copyStamps (s : State) (p : Nat) : State :=
  putMb (putMb s p obsHdr (mbBytes s p actHdr 12)) p (obsHdr + 24) (mbBytes s p (actHdr + 24) 8)

def hartOf (s : State) (h : Nat) : Hart := tget {} (envOf s).harts h

def setHart (s : State) (h : Nat) (x : Hart) : State := setEnv s { envOf s with harts := tset {} (envOf s).harts h x }

/-- What a count of hart cycles holds now: five to four pod cycles since it started, or its last value (R10, R269, R282). -/
def countNow (s : State) (since : Option Nat) (last : Word) : Word :=
  match since with
  | some t => BitVec.ofNat 64 (5 * (s.pod - t) / 4)
  | none => last

/-- STEPUSED and EPUSED stop: the hart executes the episode's code no more (R282). -/
def stopCounts (s : State) (x : Hart) : Hart :=
  { x with
    stepUsed := countNow s x.stepFrom x.stepUsed, stepFrom := none
    epUsed := countNow s x.epFrom x.epUsed, epFrom := none }

/-- A hart set to IDLE (R270). -/
def idleHart (s : State) (x : Hart) : Hart := { stopCounts s x with role := .idle, roleThree := false, running := false }

/-- The ENV harts bound to a pair (R270). -/
def hartsOfPair (s : State) (p : Nat) : List Nat :=
  ((envOf s).harts.filter fun h => decide (h.2.role = .env ∧ h.2.pair = p)).map (·.1)

/-- The supervisor stops a pair's harts, and their windows' pages accept no access until the scrub (R275). [log 10 DESIGN
CHOICE] -/
def stopEpisode (s : State) (p : Nat) : State :=
  let s := (hartsOfPair s p).foldl (fun s h =>
    let x := hartOf s h
    let s := setHart s h { stopCounts s x with running := false }
    let ps := (List.range x.winCount).map (x.winFirst + ·)
    setEnv s
      { envOf s with
        blocked := (envOf s).blocked ++ ps.map fun i => (x.ctx, i)
        ended := (envOf s).ended ++ ps.map fun i => (p, x.ctx, i, bindAt s x.ctx (i * 2 ^ 21)) }) s
  let (n, s) := takeFresh s
  postPod s (s.pod + 1 + Config.windowTime n) phHub (.episodeScrub p)

/-- An observation becomes final other than by DONE: truncated, no payload, the turn back to the core (R275). -/
def mbEnd (s : State) (p status cause : Nat) : State :=
  let fl := mbFlags s p obsHdr
  let s := copyStamps s p
  let s := putMb s p (obsHdr + 12) (leBytes 1 status ++ leBytes 1 (if fl.testBit 1 then fl else fl + 2) ++ leBytes 1 cause)
  let s := putMb s p (obsHdr + 20) (leBytes 2 0)
  stopEpisode (setTurn (putMb s p obsPay (leBytes 4096 0)) p false) p

/-- The mailbox groups of a context, by context group number, as the last switch window composed them (R271). -/
def mailGroupsOf (s : State) (x : Nat) : List Nat := (ctxOf s x).mail

/-- A teardown kills every non-final episode of the context's pairs with cause 5 and empties every pair (R275). -/
def mbTeardown (s : State) (x : Nat) : State :=
  (mailGroupsOf s x).foldl (fun s g => (List.range 64).foldl (fun s i =>
    let p := 64 * g + i
    let s := if mbFinal (mbStatus s p obsHdr) ∨ hartsOfPair s p = [] then s else mbEnd s p 4 5
    setTurn (putMb (putMb s p actHdr (leBytes 64 0)) p obsHdr (leBytes 64 0)) p false) s) s

/-! Scrubs. -/

def scrubOf (s : State) (d : Nat) : Scrub := tget {} s.hub.scrubs d

def setScrub (s : State) (d : Nat) (x : Scrub) : State :=
  { s with hub := { s.hub with scrubs := tset {} s.hub.scrubs d x } }

/-- The regions of core `k` that context `x` owns. -/
def ownedRegions (c : Core) (x : Nat) : List Nat := (c.owners.filter fun o => decide (o.2 = x)).map (·.1)

/-- The pages that admission gave context `x`, in order of use: of a core's first three, which are its save area and its two
of region slots, the latter two; then the first; then the flight save area (R261, R299). -/
def savesInOrder (s : State) (x : Nat) : List (Nat × Nat) :=
  let ps := (ctxOf s x).save
  let ks := (ps.map (·.1)).eraseDups
  let own := fun (k : Nat) => ps.filter fun p => decide (p.1 = k)
  (ks.flatMap fun k => ((own k).take 3).drop 1) ++ (ks.flatMap fun k => (own k).take 1) ++ ks.flatMap fun k => (own k).drop 3

/-- What a protected context holds on a die, in the order of R299: regions, region slots, save areas, the flight save area,
protected pages. -/
def scrubWork (s : State) (x d : Nat) : List (Nat × Nat × Nat) :=
  let ks := s.cores.filter fun kc => decide (kc.1 / 128 = d)
  let regions := ks.flatMap fun kc => (ownedRegions kc.2 x).map fun r => (0, kc.1, r)
  let saves := ((savesInOrder s x).filter fun p => decide (p.1 / 128 = d)).map fun p => (1, p.1, p.2)
  let pages := ((ctxOf s x).bind.filter fun e => decide (bdCore e.2 / 128 = d) && bdProt e.2).map fun e =>
    (1, bdCore e.2, bdPage e.2)
  regions ++ saves ++ pages

/-- 256-byte units of a resource (R300). -/
def scrubUnits (w : Nat × Nat × Nat) : Nat := if w.1 = 0 then 256 else 8192

/-- Key of a resource among the counts of its units. -/
def scrubKey (w : Nat × Nat × Nat) : Nat := (w.1 * 1024 + w.2.1) * 256 + w.2.2

/-- The bank group of a region, the channel group of a page: what zeroes one unit at a time (R299). -/
def scrubLane (w : Nat × Nat × Nat) : Nat × Nat × Nat := if w.1 = 0 then (0, w.2.1, w.2.2 / 16) else (1, w.2.1, 0)

/-- The resources that take their next unit together: the first of each lane, scratch first (R299). -/
def scrubRound (work : List (Nat × Nat × Nat)) : List (Nat × Nat × Nat) :=
  let scratch := work.filter fun w => decide (w.1 = 0)
  (if scratch = [] then work else scratch).foldl
    (fun r w => if r.any fun v => decide (scrubLane v = scrubLane w) then r else r ++ [w]) []

/-- A scrub engine starts a context. -/
def startScrub (x : Nat) (work : List (Nat × Nat × Nat)) (q : List (Nat × List (Nat × Nat × Nat))) : Scrub :=
  { ctx := x, progress := 0, total := (work.map scrubUnits).sum, done := false, work := work, round := scrubRound work, queued := q }

/-- Have a die's engine take its next unit: in this cycle while the round goes on, `first` false; else with a new round, one pod
cycle later for scratch and 12 for DRAM (R299). -/
def postScrub (s : State) (d : Nat) (first : Bool := true) : State :=
  let e := scrubOf s d
  let wait := match e.round with
    | [] => 1
    | w :: _ => if !first then 0 else if w.1 = 0 then 1 else 12
  postPod s (s.pod + wait) phHub (.scrubUnit (Fin.ofNat 8 d))

/-- A protected context's teardown or completion: its keys are zeroised at once, the scrub is logged and every die's engine
overwrites what it held (R299, R301). -/
def scrubContext (s : State) (x : Nat) : State :=
  if (ctxOf s x).protect then
    let slots := ((ctxOf s x).bind.filter fun e => bdProt e.2).map fun e => bdCore e.2 / 128 * 256 + bdKey e.2
    let s := setAuth s { authOf s with keys := slots.foldl (fun t k => tset 0 t k 0) (authOf s).keys }
    let s := setHouse s { houseOf s with
      scrubLog := (houseOf s).scrubLog ++ [(x, (List.range 8).flatMap fun d => scrubWork s x d)] }
    (List.range 8).foldl (fun s d =>
      let w := scrubWork s x d
      if w = [] then s
      else
        let e := scrubOf s d
        if e.done then postScrub (setScrub s d (startScrub x w [])) d
        else setScrub s d { e with queued := e.queued ++ [(x, w)] }) s
  else s

/-- Zero one unit of a resource: fresh ECC, with a tile's last unit for the tile, no poison, tags 0x0000, no shadow writer
(R299). -/
def scrubOne (s : State) (w : Nat × Nat × Nat) (i : Nat) : State :=
  if w.1 = 0 then
    let a := w.2.2 * 65536 + i * 256
    modCore s w.2.1 fun c =>
      { putScratch c a (leBytes 256 0) with
        tags := tset 0 c.tags (a / 4096) 0
        badTiles := if i % 16 = 15 then c.badTiles.erase (a / 4096) else c.badTiles
        shadow := tset {} c.shadow (a / 256) {} }
  else
    let a := w.2.1 * 2 ^ 29 + w.2.2 * 2 ^ 21 + i * 256
    let s := putDev s a (leBytes 256 0)
    setDram s { dramOf s with shadow := (dramSectors a 256).foldl (fun t j => tset {} t j {}) (dramOf s).shadow }

/-- Engines that still scrub context `x`. -/
def scrubbing (s : State) (x : Nat) : Bool :=
  s.hub.scrubs.any fun e => (decide (e.2.ctx = x) && !e.2.done) || e.2.queued.any fun q => decide (q.1 = x)

/-- A unit of resource `w` is counted; a resource with all its units done is no more to be scrubbed. -/
def countUnit (e : Scrub) (w : Nat × Nat × Nat) (rest : List (Nat × Nat × Nat)) : Scrub :=
  let n := tget 0 e.units (scrubKey w) + 1
  let more := decide (n < scrubUnits w)
  { e with
    progress := e.progress + 1, work := if more then e.work else e.work.erase w
    units := tset 0 e.units (scrubKey w) (if more then n else 0), round := rest }

/-- A context is scrubbed on this die: the next one, or SCRUB_DONE, and with the last die's the log entry is cleared (R300,
R301). -/
def scrubNext (s : State) (d : Nat) (e : Scrub) : State :=
  let s := match e.queued with
    | q :: qs => postScrub (setScrub s d (startScrub q.1 q.2 qs)) d
    | [] => setScrub s d { e with done := true }
  if scrubbing s e.ctx then s
  else setHouse s { houseOf s with scrubLog := (houseOf s).scrubLog.filter fun l => l.1 ≠ e.ctx }

/-- SCRUB_UNIT: one 256-byte unit of the round's next resource; after the last one of all, the next context or SCRUB_DONE (R299 to
R301). -/
def execScrubUnit (die : Fin 8) (s : State) : Out :=
  let d := die.val
  let e := scrubOf s d
  if e.done then .next s
  else
    match e.round with
    | [] => .next (scrubNext s d e)
    | w :: rest =>
      let s := scrubOne s w (tget 0 e.units (scrubKey w))
      let e := countUnit e w rest
      .next (if e.work = [] then scrubNext s d e
        else if rest = [] then postScrub (setScrub s d { e with round := scrubRound e.work }) d
        else postScrub (setScrub s d e) d false)

/-! Retirement. -/

/-- The position of a retired or failing unit among the lifetime counters. -/
def unitPos : FaultUnit → Nat
  | .sramCorrected c m => c * 128 + m
  | .sramUncorrectable c m => 2 ^ 17 + c * 128 + m
  | .logic c => 2 ^ 18 + c
  | .link n => 2 ^ 18 + 2 ^ 10 + n.val
  | .pageCorrected p => 2 ^ 19 + p
  | .pageUncorrectable p => 2 ^ 20 + p

/-- The SRAM block of a scratch tile, and that of a bundle of the instruction store. [log 64 DESIGN CHOICE] -/
def tileBlock (tile : Nat) : Nat := tile / 16 % 64
def bundleBlock (n : Nat) : Nat := 64 + n / 1024 % 64

/-- THR of a unit's error kind (R334). -/
def unitThreshold : FaultUnit → Nat
  | .sramCorrected _ _ => 16
  | .sramUncorrectable _ _ => 2
  | .logic _ => 2
  | .pageCorrected _ => 32
  | .pageUncorrectable _ => 2
  | .link _ => 3

/-- WIN in pod cycles: hours of 3,600 s at 2.4 GHz; a value outside 1 to 168 acts as the nearer bound (R334, R338). [log 16
DESIGN CHOICE] -/
def errorWindow (h : House) : Nat := min 168 (max 1 h.errwin) * 8640000000000

/-- Pod cycles in which a counter loses 1: WIN / THR (R334). -/
def decayTime (h : House) (u : FaultUnit) : Nat := errorWindow h / unitThreshold u

def leakyOf (h : House) (u : FaultUnit) : Leaky := ((h.leaky.find? fun e => e.1 = u).map (·.2)).getD {}

def setLeaky (h : House) (u : FaultUnit) (l : Leaky) : House :=
  { h with leaky := (h.leaky.filter fun e => e.1 ≠ u) ++ (if l.level = 0 then [] else [(u, l)]) }

/-- An error of a unit: counted for life and in its leaky counter; at THR the fault is lasting (R334, R335, R336). -/
def countError (s : State) (u : FaultUnit) : State :=
  let s := countLife s 3 (unitPos u) 1
  let h := houseOf s
  let l := leakyOf h u
  let s := setHouse s (setLeaky h u ⟨l.level + 1, if l.level = 0 then s.pod else l.since⟩)
  let s := if l.level = 0 then postPod s (s.pod + decayTime h u) phHub (.errorCounterDecay u) else s
  if l.level + 1 = unitThreshold u ∧ !(houseOf s).lasting.contains u then
    setHouse s { houseOf s with lasting := (houseOf s).lasting ++ [u] }
  else s

/-- ERROR_COUNTER_DECAY: the counter loses 1 every WIN / THR, never below 0 (R334). -/
def execErrorCounterDecay (unit : FaultUnit) (s : State) : Out :=
  let h := houseOf s
  let l := leakyOf h unit
  if l.level = 0 then .next s
  else
    let s := setHouse s (setLeaky h unit ⟨l.level - 1, s.pod⟩)
    .next (if l.level = 1 then s else postPod s (s.pod + decayTime h unit) phHub (.errorCounterDecay unit))

/-- An uncorrectable error in a scratch tile: its tag is 0xFFFF from the cycle it is found in (R75, R334). -/
def sramError (s : State) (k tile : Nat) : State :=
  let s := stampTile s k tile 0xFFFF
  countError (modCore s k fun c => { c with badTiles := tile :: c.badTiles.erase tile }) (.sramUncorrectable k (tileBlock tile))

/-- An uncorrectable error in a bundle of the instruction store: it cannot be fetched until it is written again (R151, R334). -/
def bundleError (s : State) (k n : Nat) : State :=
  countError (modCore s k fun c => { c with badBundles := n :: c.badBundles.erase n })
    (.sramUncorrectable k (bundleBlock n))

/-- The core that a unit is part of. -/
def unitCore : FaultUnit → Option Nat
  | .sramCorrected c _ => some c
  | .sramUncorrectable c _ => some c
  | .logic c => some c
  | _ => none

/-- The page that a unit is. -/
def unitPage : FaultUnit → Option Nat
  | .pageCorrected p => some p
  | .pageUncorrectable p => some p
  | _ => none

/-- The partitions that a unit's retirement affects: the holders of the core, of the page or of the link, and those of the
contexts that use the page (R316, R335). -/
def unitParts (s : State) (u : FaultUnit) : List Nat :=
  let held := fun (sel : Partition → Bool) => ((authOf s).parts.filter fun p => decide (p.1 ≠ 0) && sel p.2).map (·.1)
  match u with
  | .link n => (s.gangs.filter fun g => (List.range 64).any fun r =>
      decide (tget 0 (fabOf s).shares (16 * r + n.val) = g.1 + 1)).map fun g => g.2.vdid
  | _ =>
    match unitCore u, unitPage u with
    | some c, _ => held fun p => tget false p.cores c
    | _, some p => held (fun x => tget false x.cores (p / 256)) ++ pagePart s p
    | _, _ => []

/-- Retire a unit: REPLACE_REQUEST is set, a PLATFORM event raised and the record kept in non-volatile storage (R316, R335). -/
def retireUnit (s : State) (u : FaultUnit) : State :=
  let h := houseOf s
  let h := match u with
    | .sramCorrected c _ => { h with retiredCores := tset false h.retiredCores c true }
    | .sramUncorrectable c _ => { h with retiredCores := tset false h.retiredCores c true }
    | .logic c => { h with retiredCores := tset false h.retiredCores c true }
    | .pageCorrected p => { h with retiredPages := tset false h.retiredPages p true }
    | .pageUncorrectable p => { h with retiredPages := tset false h.retiredPages p true }
    | .link n => { h with retiredLinks := tset false h.retiredLinks n.val true }
  let s := setHouse s { h with replace := true, lasting := h.lasting.erase u }
  let s := match u with
    | .link n =>
      let f := fabOf s
      setFab s { f with links := tmod {} f.links n.val fun l => { l with up := false, retired := true } }
    | _ => s
  postPlatform (countLife s 6 (unitPos u) 1) (unitParts s u) evRetired [unitPos u]

/-- Cores and pages whose lasting fault waits for the context that uses them to leave (R335). -/
def retireLasting (s : State) (x : Nat) (ks : List Nat) : State :=
  ((houseOf s).lasting.filter fun u =>
    match unitCore u, unitPage u with
    | some c, _ => ks.contains c
    | _, some p =>
      ((ctxOf s x).bind.any fun e => bdV e.2 && decide (bdCore e.2 * 256 + bdPage e.2 = p)) ||
        (ctxOf s x).save.contains (p / 256, p % 256)
    | _, _ => true).foldl retireUnit s

/-! Teardown. -/

/-- Write bytes at a context linear address through a bind table: the switch controller's write, whose agent R183 does not name,
leaves the shadow as it is (R197). [log 98 DESIGN CHOICE] -/
def putVia (s : State) (b : Table Word) (lin : Nat) (bs : List Byte) : State :=
  let e := tget 0 b (lin / 2 ^ 21)
  if lin < 2 ^ 35 ∧ bdV e then putDev s (homeAddr e lin) bs else s

/-- Write a fence word through the gang's table `b`: the number with a status (R253, R254). [log 57 DEDUCED, 82 DEDUCED] -/
def fenceVia (s : State) (b : Table Word) (g status : Nat) : State :=
  let x := gangOf s g
  if isLeader s g then putVia s b x.req.fence (leBytes 8 (x.req.fnum % 2 ^ 48 + status * 2 ^ 48)) else s

/-- NEXT of the run list, through the gang's table `b` (R251, R254). [log 57 DEDUCED] -/
def nextVia (s : State) (b : Table Word) (g n : Nat) : State :=
  if isLeader s g then putVia s b ((gangOf s g).runlist + 8) (leBytes 4 n) else s

/-- Write a fence word of a running gang (R253). -/
def writeFence (s : State) (g status : Nat) : State := fenceVia s (ctxOf s (gangOf s g).ctx).bind g status

/-- NEXT of a running gang's run list (R251). -/
def writeNext (s : State) (g n : Nat) : State := nextVia s (ctxOf s (gangOf s g).ctx).bind g n

/-- HALT of the run list, which the leader sets, with the event that reports it (R251, R268). -/
def setHalt (s : State) (g : Nat) : State :=
  if !isLeader s g then s
  else
  let x := gangOf s g
  let a := x.runlist + 12
  let s := putLin s x.ctx a (leBytes 4 (if (linNat s x.ctx a 4).testBit 0 then linNat s x.ctx a 4 else linNat s x.ctx a 4 + 1))
  postEvent s x.vdid .program evHalt [g, x.reqIndex] []

/-- The 32 bytes of a record (R293). -/
def recordBytes (r : Record) : List Byte :=
  leBytes 1 r.kind ++ leBytes 1 r.index ++ leBytes 2 r.writer.toNat ++ leBytes 4 r.addr ++ leBytes 8 r.gcyc ++
    leBytes 2 r.src ++ leBytes 2 r.accessor.toNat ++ leBytes 1 r.rw ++ leBytes 1 r.iv.toNat ++ leBytes 1 r.sc.toNat ++
    leBytes 9 0

/-- A record as the DATA words of an event record. -/
def recordWords (r : Record) : List Nat :=
  let n := leNat (recordBytes r)
  (List.range 4).map fun i => n / 2 ^ (64 * i) % 2 ^ 64

/-- The minder moves core `k`'s record queue into the L2 event log, as PROGRAM records (R293, R316). [log 50 DEDUCED] -/
def drainRecords (s : State) (k : Nat) : State :=
  let c := coreOf s k
  let p := gangPart s c.gang
  let s := setCore s k { c with records := [] }
  c.records.foldl (fun s r => postEvent s p .program evRecord (recordWords r) []) s

/-- What outlives a run in a core: the scratch with its tags and shadow, and the owners of its regions (R266). Its interval
counter is 0 while no context runs on it, and so RACECTL.MODE. [log 98 DESIGN CHOICE] -/
def vacantCore (c : Core) (x : Nat) : Core :=
  { scratch := c.scratch, tags := c.tags, shadow := c.shadow, badTiles := c.badTiles,
    owners := c.owners.filter fun o => decide (o.2 ≠ x), cmdSeq := c.cmdSeq }

/-- The image that a teardown leaves only where debugging is enabled and the context is not protected (R297). -/
def postMortem (s : State) (g : Nat) : State :=
  let x := gangOf s g
  if (ctxOf s x.ctx).stop ∧ !(ctxOf s x.ctx).protect then
    (gangCores s g).foldl (fun s k =>
      let c := coreOf s k
      let s := storeImage s x.ctx k (c.frozenAt.getD x.gcyc) c true
      { s with hub := { s.hub with images := tins s.hub.images (x.ctx * 1024 + k) c } }) s
  else s

/-- A vote frame of this member, sent now (R256): the switch number is the boundary's slot number. [log 78 DESIGN CHOICE] -/
def voteFrame (s : State) (g : Nat) (dirIn : Bool) (no : Nat) : VoteFrame :=
  { gang := g, dirIn := dirIn, drain := (gangOf s g).vote.drain, force := (gangOf s g).vote.force, switchNo := no % 2 ^ 16, origin := s.pod, tHalt := 0
    deadline := 0, members := (gangOf s g).memberCount - 1, chip := chipOf s, verdict := 0, sent := 0, ended := 0, need := 0
    tSwap := 0 }

/-- A vote in progress is aborted with FAULTED: the leader tells the members, a member tells the leader (R268). -/
def abortVote (s : State) (g : Nat) : State :=
  let v := (gangOf s g).vote
  if v.stage = .run ∨ v.stage = .out then s
  else
    let f := { voteFrame s g (decide (v.stage ∈ [.entering, .entered, .starting])) v.switchNo with verdict := 5 }
    if isLeader s g then leekMembers s g (.abort f) else leekSend s g (leaderOf s g) (.vote f)

/-- Context `x` owns no region any more, on the cores that serve it or on those another context has taken over (R266); the
channel groups of its core set forget the commands of the run (R213). -/
def endClaims (s : State) (x : Nat) (ks : List Nat) : State :=
  let s := (s.cores.map (·.1)).foldl (fun s k => modCore s k fun c => { c with owners := c.owners.filter fun o => decide (o.2 ≠ x) }) s
  ks.foldl (fun s k => modCore s k fun c => { c with dramCmds := [] }) s

/-- The groups that a gang leaves, by its end or its switch-out, mitigate what has crossed there with no hold (R218). -/
def leaveGroups (s : State) (ks : List Nat) : State :=
  ((dramOf s).crossing.filter fun e => ks.contains (e.1 / 64)).foldl (fun s e =>
    postPod s s.pod phUntimed (.disturbanceThreshold (e.1 / 64) (Fin.ofNat 4 (e.1 / 16)) (Fin.ofNat 16 e.1))) s

/-- The run of a gang ends here: its cores stop, what is in flight is discarded, its claims end, and its channel
groups mitigate what has crossed (R218, R266, R268). -/
def endRun (s : State) (g : Nat) : State :=
  let x := gangOf s g
  let ks := gangCores s g
  let s := ks.foldl drainRecords (countEnded s g)
  let s := leaveGroups { s with agenda := s.agenda.filter fun j => !ofGang g j } (setCores s x.coreset)
  let s := { s with issuing := match s.issuing with
    | some (.slot k _) => if ks.contains k then none else s.issuing
    | some (.micro k) => if ks.contains k then none else s.issuing
    | none => none }
  let s := retireLasting (scrubContext s x.ctx) x.ctx ks
  let s := endClaims (ks.foldl (fun s k => setCore s k (vacantCore (coreOf s k) x.ctx)) s) x.ctx
    (if onSet x then setCores s x.coreset else [])
  let s := setFab s
    { fabOf s with
      kept := (fabOf s).kept.filter fun f => decide (f.gang ≠ g), drops := (fabOf s).drops.filter fun d => decide (d.1 ≠ g) }
  let lo := 64 * x.coreset
  let s := { s with hub := { s.hub with
    barriers := s.hub.barriers.filter fun b => !decide (lo ≤ b.1 ∧ b.1 < lo + 64)
    regions := s.hub.regions.filter fun r => decide (r.1 / 2 ^ 16 ≠ x.ctx)
    images := s.hub.images.filter fun e =>
      decide (e.1 / 1024 ≠ x.ctx) || ((ctxOf s x.ctx).stop && !(ctxOf s x.ctx).protect) } }
  setGang s g
    { x with
      mode := .idle, hasRun := false, gcyc := 0, holds := [], resume := none, arrived := [], children := [], forwarded := false
      latest := 0, idleKids := [], toldIdle := false, overKids := [], toldOver := false, farRunning := [], barriers := []
      complete := false, rows := [], groupCmds := [], swapIn := none
      vote := {}, fsa := [], fsaUsed := 4096, sent := [], recv := [], capt := [], loops := [], faulted := false
      overflow := false, inexact := false, swIn := 0, swAborted := 0 }

/-- TEARDOWN of a gang's run on this member (R268): the leader writes status 3 and leaves NEXT; three consecutive PROGRAM
teardowns of one request set HALT, and so does a withdrawal's (R308); other gangs' next start may be late (R302). -/
def teardown (s : State) (g : Nat) (cls : EventClass) : State :=
  let x := gangOf s g
  if x.hasRun = false then s
  else
    let s := writeFence s g 3
    let n := if cls = .program then x.tears + 1 else x.tears
    let s := if 3 ≤ n ∨ cls = .control then setHalt s g else s
    let s := endRun (abortVote (mbTeardown (postMortem s g) x.ctx) g) g
    let s := modGang s g fun y => { y with tears := if 3 ≤ n then 0 else n, tornAt := some s.pod }
    { s with hub := { s.hub with delayed := true } }

/-- A fault on this member, or a PLATFORM event that names the gang: every member is told, and the run ends (R268). -/
def abortGang (s : State) (g : Nat) (cls : EventClass) : State :=
  if (gangOf s g).hasRun then teardown (leekMembers s g (.abortgang g cls)) g cls else s

/-- ABORTGANG received (R268). -/
def execAbortgang (gang : Nat) (cause : EventClass) (s : State) : Out := .next (teardown s gang cause)

/-- The gang is desynchronised: a PLATFORM event and a teardown on all members (R29). -/
def desync (s : State) (g : Nat) : State :=
  abortGang (postEvent s (gangPart s g) .platform evDesync [g, s.pod] []) g .platform

/-- An urgent frame of the gang was lost on a pair with both links down (R29, R243). -/
def lostUrgent (s : State) (g : Nat) : State := if (gangOf s g).hasRun then desync s g else s

/-- HOLD received: the freeze is armed, or attached to the present one; past its cycle the gang is desynchronised (R22, R25,
R29). -/
def execHold (gang number th : Nat) (cause : HoldCause) (origin : Nat) (s : State) : Out :=
  let x := gangOf s gang
  if x.mode ≠ .held ∧ th < x.gcyc ∨ x.mode = .held ∧ th < x.frozenAt then .next (desync s gang)
  else
    let s := setGang s gang { x with holds := x.holds ++ [⟨number, th, cause, origin, farKey, none⟩] }
    if x.mode = .running ∧ th = x.gcyc then .next (postPod s s.pod phFreeze (.holdFreeze gang))
    else .next (settleHolds s gang)

/-- RELEASE received, with S its origin cycle (R24). -/
def execRelease (gang number origin : Nat) (s : State) : Out := .next (markReleased s gang number origin)

/-- The class of event a fault code raises (R290). -/
def faultClass (code : Nat) : EventClass :=
  if code = 0x22 then .resource else if code = 0x17 ∨ code = 0x23 then .platform else .program

/-- The 64 bytes of a fault record (R288, R317). -/
def faultBytes (f : FaultRecord) (idx ctx gang fence : Nat) : List Byte :=
  leBytes 1 f.cause.toNat ++ leBytes 1 f.slot.toNat ++ leBytes 2 (idx % 1024) ++ leBytes 4 f.bundle.toNat ++
    leBytes 8 f.a.toNat ++ leBytes 8 f.b.toNat ++ leBytes 8 f.c.toNat ++ leBytes 8 f.also.toNat ++ leBytes 8 f.cyc.toNat ++
    leBytes 2 (ctx % 4096) ++ leBytes 2 0 ++ leBytes 4 gang ++ leBytes 8 (fence % 2 ^ 48)

/-- MINDER_FAULT_RECORD: the record is posted to the log its class names, and the switch controller starts containment
(R288, R290, R302); two replays of one request with one FLTINFO count against the core (R334). -/
def execMinderFaultRecord (core : Nat) (s : State) : Out :=
  let c := coreOf s core
  if c.frozenAt.isNone ∨ c.gang = noGang then .next s
  else
    let x := gangOf s c.gang
    let cls := faultClass c.fault.cause.toNat
    let same := match x.lastFault with
      | some (k, r, f) => decide (k = core ∧ r = x.reqIndex ∧ f.a = c.fault.a ∧ f.b = c.fault.b ∧ f.c = c.fault.c)
      | none => false
    let s := if same then countError s (.logic core) else s
    let s := modGang s c.gang fun y => { y with lastFault := some (core, y.reqIndex, c.fault) }
    let s := postEvent s x.vdid cls evFault [c.fault.cause.toNat] (faultBytes c.fault c.idx x.ctx c.gang x.req.fnum)
    .next (abortGang s c.gang cls)

end Sys2Proof.Machine
end

