-- ==== Sys2Proof/Machine/Control.lean ====
section
/-! DEFINITION. Moves, and the control unit's triggers and events (R31 to R48, R146 to R162, R351 to R375, R401 to R409). -/

namespace Sys2Proof.Machine

/-- A plain move's arrival: the register or port is written; a predicate is present from the next cycle (R52, R56, R64). -/
def moveArrive (d : Dest) (fl : Flight) (c : Core) : Core :=
  let c := match d with
    | .preg n => notePred c (fl.arrive + 1) n.val 2 fl.issue fl.bundle fl.slot
    | d => noteArrival c (destId d) fl
  writeDest c d fl.val

/-- MOVE (R52, R56, R57). -/
def execMove (m : Mv) (d : Dest) (s : State) : Out :=
  match s.cur.flight with
  | none => .next (launch (.move m d) m false s)
  | some fl => .next (modMe s (moveArrive d fl))

/-- NOP: the never-guard, not decoded further (R55). -/
def execNop (_rest : BitVec 20) (s : State) : Out := .next s

/-- BRP: the entry is prepared at b, and its two bundles are read at b + 1 and b + 2 (R148). -/
def execBrp (m : Mv) (s : State) : Out :=
  trigger (.brp m) m s fun fl s =>
    let k := me s
    let t := (scalarIn .z fl.val).toNat
    let s := modMe s (ctBrp fl)
    postDeed (postDeed s k (fl.arrive + 1) phRead (.prefetch (Fin.ofNat 8 t) false)) k (fl.arrive + 2) phRead
      (.prefetch (Fin.ofNat 8 t) true)

/-- A target-buffer read: the entry's bundle, or the one after it (R148). -/
def prefetchRead (s : State) (k : Nat) (t : Nat) (half : Bool) : State :=
  modCore s k fun c =>
    let e := targetOf c t
    let n := e.addr.toNat + (if half then 1 else 0)
    let bad := e.bad || c.badBundles.contains n
    if half then setTarget c t { e with buf1 := bundleAt c n, bad := bad } else setTarget c t { e with buf0 := bundleAt c n, bad := bad }

/-- The top link-stack entry is prefetched as a target-buffer entry is, in the two cycles after it became top (R148, R154).
[log 91 DEDUCED] -/
def postLinkReads (s : State) (k a : Nat) : State :=
  match (coreOf s k).links with
  | l :: _ =>
    if l.since = a then
      postDeed (postDeed s k (a + 1) phRead (.linkRead a false)) k (a + 2) phRead (.linkRead a true)
    else s
  | [] => s

/-- A read of the top entry's bundles (R154). [log 91 DEDUCED] -/
def linkRead (s : State) (k since : Nat) (half : Bool) : State :=
  modCore s k fun c =>
    match c.links with
    | l :: ls =>
      let n := l.ret + (if half then 1 else 0)
      let bad := l.bad || c.badBundles.contains n
      if l.since ≠ since then c
      else if half then { c with links := { l with buf1 := bundleAt c n, bad := bad } :: ls }
      else { c with links := { l with buf0 := bundleAt c n, bad := bad } :: ls }
    | [] => c

/-- BR (R149 to R151, R351). -/
def execBr (m : Mv) (s : State) : Out := trigger (.br m) m s fun fl s => modMe s (ctBr fl)

/-- BRT (R153, R352). -/
def execBrt (m : Mv) (s : State) : Out := trigger (.brt m) m s fun fl s => modMe s (ctBrt fl)

/-- CALL (R154). -/
def execCall (m : Mv) (s : State) : Out := trigger (.call m) m s fun fl s => postLinkReads (modMe s (ctCall fl)) (me s) fl.arrive

/-- RET (R154, R402). -/
def execRet (m : Mv) (s : State) : Out := trigger (.ret m) m s fun fl s => postLinkReads (modMe s (ctRet fl)) (me s) fl.arrive

/-- A level that has come to park reports it (R162). -/
def reportPark (s : State) (k : Nat) : State :=
  match (coreOf s k).waits.park with
  | some n => postCore s k (gcycOf s k) phLoopEnd (.event (.drainPark k n))
  | none => s

/-- LOOP (R156, R374). -/
def execLoop (n : Fin 4) (m : Mv) (s : State) : Out :=
  trigger (.loop n m) m s fun fl s => reportPark (modMe s (ctLoop n.val false fl)) (me s)

/-- LOOPP (R156, R375). -/
def execLoopp (n : Fin 4) (m : Mv) (s : State) : Out :=
  trigger (.loopp n m) m s fun fl s => reportPark (modMe s (ctLoop n.val true fl)) (me s)

/-- LBRK (R159, R372). -/
def execLbrk (n : Fin 4) (m : Mv) (s : State) : Out := trigger (.lbrk n m) m s fun fl s => modMe s (ctLbrk n.val fl)

/-- LOOP_END_STEP: level `n` goes to its next iteration, or ends, and then the level around it takes its end step (R158). -/
def execLoopEndStep (core : Nat) (n : Fin 4) (s : State) : Out :=
  let c := coreOf s core
  if c.frozenAt.isSome ∨ !(loopOf c n.val).active then .next s
  else
    match endStep c n.val with
    | (c, false) => .next (reportPark (setCore s core c) core)
    | (c, true) =>
      let s := setCore s core c
      match endLevel c c.curBundle with
      | some m => .next (postCore s core (gcycOf s core) phLoopEnd (.event (.loopEndStep core (Fin.ofNat 4 m))))
      | none => .next s

/-- A vote that froze or will freeze the gang keeps a parked level parked (R162). -/
def parkStays (x : Gang) : Bool :=
  decide (x.vote.stage = .armed) || (decide (x.vote.stage = .run) && x.vote.drain && decide (x.gcyc ≤ x.vote.tHalt))

/-- DRAIN_PARK: the level is parked at an iteration boundary; a drain that ends after the resume leaves its park at once (R161,
R162). -/
def execDrainPark (core : Nat) (n : Fin 4) (s : State) : Out :=
  if parkStays (coreGang s core) then
    .next (modCore s core fun c => setLoop c n.val { loopOf c n.val with parked := true })
  else .next (modCore s core leavePark)

/-- A slip is recorded: the first one's target and source, and the count (R19, R35); every `at` of the core is suppressed
until its RESYNC. -/
def recordSlip (c : Core) (t src x : Nat) : Core :=
  let w := c.slipInfo.toNat
  let n := w / 2 ^ 48 % 256
  let w := if w / 2 ^ 63 % 2 = 0 then t % 2 ^ 48 + src * 2 ^ 56 + 2 ^ 63 + (w / 2 ^ 48 % 256) * 2 ^ 48 else w
  let w := if n = 255 then w else w + 2 ^ 48
  addRecord { c with slipInfo := BitVec.ofNat 64 w, suppress := true } ⟨5, 0, 0, 0, x, 0, 0, 0, 0, 0⟩

/-- WAITT at its issue, the move put in flight: T ≥ a defers the next bundle to T; an earlier T is a slip (R31, R34, R35). [log
51 DEDUCED] -/
def waittIssue (m : Mv) (s₀ s : State) : State :=
  let k := me s
  let c := coreOf s k
  let x := gcycOf s k
  let n := s.cur.slot
  if guardOf (coreOf s₀ k) m.g then
    let t := (scalarIn .z (readSource (coreOf s₀ k) m.src x c.curBundle n).1).toNat
    let a := x + moveLatency n m.src 0x028
    if t < a then
      if (coreGang s k).poisonMode then setCore s k { c with nextIssue := a }
      else setCore s k (addRaise c ⟨0x0D, x, c.curBundle, n, 0, 0, 0⟩)
    else
      let s := setCore s k { c with waits := { c.waits with waitt := some t } }
      postCore s k t phDone (.event (.waittResume k))
  else s

/-- WAITT (R31 to R35, R436): its effect on issue falls at its issue; a slip in POISON_TO_RESYNC is recorded at its arrival. -/
def execWaitt (m : Mv) (s : State) : Out :=
  match s.cur.flight with
  | none => .next (waittIssue m s (launch (.waitt m) m false s))
  | some fl =>
    let s := modMe s fun c => noteTrigger 0 c fl
    let t := (scalarIn .z fl.val).toNat
    .next (if t < fl.arrive ∧ (coreGang s (me s)).poisonMode then modMe s fun c => recordSlip c t 1 fl.arrive else s)

/-- WAITT_RESUME: the deferred bundle issues at T (R31). -/
def execWaittResume (core : Nat) (s : State) : Out :=
  .next (modCore s core fun c =>
    match c.waits.waitt with
    | some t => if t ≤ gcycOf s core then { c with waits := { c.waits with waitt := none } } else c
    | none => c)

/-- RESYNC: the core arrives at the gang's barrier and issues nothing more; its poison and suppression end, its watchdog
count restarts and its interval advances (R36, R37, R401). -/
def execResync (m : Mv) (s : State) : Out :=
  trigger (.resync m) m s fun fl s =>
    resyncArrive (postDeed (modMe s (ctResync fl)) (me s) fl.arrive phAdvance .interval) (me s) fl.arrive

/-- The work of the run's cores on this package is over: each has executed EXIT and its last operation has performed (R361). [log
82 DEDUCED] -/
def coresOver (s : State) (g : Nat) : Bool :=
  (gangCores s g).all fun k =>
    let c := coreOf s k
    !c.running && c.frozenAt.isNone && c.cmds.isEmpty && c.recvs.isEmpty && !c.mx.busy &&
      !(s.agenda.any fun j => decide (j.core = some k))

/-- Every core of every member has executed EXIT, and its last operation has performed (R253, R361). [log 82 DEDUCED] -/
def runOver (s : State) (g : Nat) : Bool := membersOver s g && coresOver s g

/-- EXIT (R361): issue stops, the control state clears, and the exit acts on barriers and RESYNC. -/
def execExit (m : Mv) (s : State) : Out :=
  trigger (.exit m) m s fun fl s =>
    let k := me s
    let s := modMe s (ctExit fl)
    postGang (resyncExit (barrierExits s k fl.arrive) k fl.arrive) (coreOf s k).gang (fl.arrive + 1) phHub
      (.runComplete (coreOf s k).gang)

/-- BEACON: the watchdog count restarts (R46). -/
def execBeacon (m : Mv) (s : State) : Out :=
  trigger (.beacon m) m s fun fl s => modMe s fun c => { c with wdogBase := fl.arrive }

/-- A target is busy: it runs, or its EXIT arrives in this very cycle (R40, R409). -/
def spawnBusy (c : Core) (t : Nat) : Bool := c.running || c.exitAt == some t

/-- The SPAWN that started `c` in this cycle yields to one whose bundle issued earlier, or in the same cycle from a lower
context core index (R40). -/
def spawnYields (c : Core) (t issue idx : Nat) : Bool :=
  match c.spawned with
  | some (t', i', idx', _) => decide (t' = t) && (decide (issue < i') || (decide (issue = i') && decide (idx < idx')))
  | none => false

/-- Start the sibling `k'` at bundle `b` (R40, R409). -/
def startSibling (s : State) (k' b t issue idx bundle slot : Nat) : State :=
  modCore s k' fun c =>
    { c with
      running := true, pc := b, nextIssue := t + 64, waits := {}, loops := [], links := [], starts := []
      wdogBase := t + 64, spawned := some (t, issue, idx, bundle, slot) }

/-- SPAWN (R40, R409). -/
def execSpawn (m : Mv) (s : State) : Out :=
  trigger (.spawn m) m s fun fl s =>
    let k := me s
    let c := coreOf s k
    let i := (scalarIn .z fl.val).toNat % 1024
    let b := (portOf c 1).toNat % 2 ^ 32
    let t := fl.arrive
    let target := if i < (gangOf s c.gang).cores then coreAt s c.gang i else none
    match target with
    | none => modMe s fun c => raiseFor c fl [] 0x1D (BitVec.ofNat 64 i) 0 0
    | some k' =>
      if 16384 ≤ b then
        modMe s fun c =>
          let ch := chargeOf c fl [1]
          addRaise c ⟨0x10, ch.1, b, fl.slot, BitVec.ofNat 64 fl.bundle, 10, 0⟩
      else
        let c' := coreOf s k'
        let regs := fun s => postDeed s k' t (phRegister + 1) (.spawnRegs ((List.range 8).map fun j => sregOf c (48 + j)))
        if spawnYields c' t fl.issue c.idx then
          -- the other SPAWN of this cycle loses
          let s := match c'.spawned with
            | some (_, i', idx', bn, sl) =>
              match coreAt s c.gang idx' with
              | some k'' => modCore s k'' fun c => addRaise c ⟨0x0E, i', bn, sl, BitVec.ofNat 64 i, 0, 0⟩
              | none => s
            | none => s
          regs (startSibling s k' b t fl.issue c.idx fl.bundle fl.slot)
        else if spawnBusy c' t then modMe s fun c => raiseFor c fl [] 0x0E (BitVec.ofNat 64 i) 0 0
        else
          regs (startSibling s k' b t fl.issue c.idx fl.bundle fl.slot)

/-- s48 to s55 of a spawner reach the sibling (R409). -/
def spawnRegs (s : State) (k : Nat) (ws : List Word) : State :=
  modCore s k fun c => (List.range 8).foldl (fun c j => setSreg c (48 + j) (ws.getD j 0)) c

/-- OPERATION_COMPLETE: the result is present at its port, its flags set (R62, R145). -/
def execOperationComplete (core : Nat) (port : ResultPort) (value : Vec) (flags : BitVec 6) (s : State) : Out :=
  .next (modCore s core fun c => addFlags (setResult c port value) flags)

/-- STREAM_POP_READ: the item that a bundle's pops and peeks of a stream will deliver is read at issue − 4 (R86). -/
def execStreamPopRead (core : Nat) (q : Fin 16) (issueAt bundle : Nat) (s : State) : Out :=
  let x := gcycOf s core
  .next (if issueAt = x + 4 then popRead s core q.val x issueAt bundle (plannedMoves s core q.val bundle x) else s)

/-- A stream trigger: its effect on the stream named by sq.id, at the end of its arrival (R84, R403). -/
def sqTriggerOf (i : Instr) (m : Mv) (s : State) (f : Flight → Nat → Stream → State → State) : Out :=
  trigger i m s fun fl s =>
    let n := sqId (myCore s)
    f fl n (streamOf (myCore s) n) s

/-- Stream overrun subcode 3, for a trigger on a stream that is not OPEN (R406). -/
def sqNotOpen (s : State) (fl : Flight) (n : Nat) : State :=
  modMe s fun c => raiseFor c fl [0x280] 7 (BitVec.ofNat 64 n) 3 0

/-- SCFG (R83, R84, R403). -/
def execScfg (m : Mv) (s : State) : Out :=
  sqTriggerOf (.scfg m) m s fun fl n q s =>
    let new := scfgStream (myCore s) q
    if scfgBad new then modMe s fun c => (scfgFaults new).foldl (fun c reads => raiseFor c fl reads 0x16 0 0 0) c
    else sqDone (stampOpen s fl q) fl n new

/-- SSEEK (R84, R403). -/
def execSseek (m : Mv) (s : State) : Out :=
  sqTriggerOf (.sseek m) m s fun fl n q s =>
    if q.mode ≠ .opened then sqNotOpen s fl n
    else
      sqDone (stampOpen s fl q) fl n
        { q with base := (scalarIn .z fl.val).toNat % 2 ^ 22, pos := 0, entry := true, entered := false, tile := none,
                 gen := q.gen + 1, sets := q.sets + 1 }

/-- SSKIP (R84, R403). -/
def execSskip (m : Mv) (s : State) : Out :=
  sqTriggerOf (.sskip m) m s fun fl n q s =>
    if q.mode ≠ .opened then sqNotOpen s fl n
    else sqDone s fl n { q with pos := min (q.pos + (scalarIn .z fl.val).toNat) (strTotal q), gen := q.gen + 1 }

/-- STAG (R84, R403). -/
def execStag (m : Mv) (s : State) : Out :=
  sqTriggerOf (.stag m) m s fun fl n q s =>
    let t : BitVec 16 := (scalarIn .z fl.val).setWidth 16
    if q.mode ≠ .opened then sqNotOpen s fl n
    else if t = 0xFFFF then modMe s fun c => raiseFor c fl [] 0x16 0 0 0
    else sqDone (stampOpen s fl q) fl n { q with exp := t, entry := true, entered := false, tile := none, gen := q.gen + 1 }

/-- SCLOSE (R84, R403). -/
def execSclose (m : Mv) (s : State) : Out :=
  sqTriggerOf (.sclose m) m s fun fl n q s =>
    sqDone (stampOpen s fl q) fl n { q with mode := .closed, tile := none, gen := q.gen + 1 }

/-- A push (R86, R87, R461). -/
def execPush (q : Fin 16) (m : Mv) (s : State) : Out :=
  match s.cur.flight with
  | none => .next (launch (.push q m) m false s)
  | some fl => .next (pushArrive q.val fl s)

end Sys2Proof.Machine
end

