-- ==== Sys2Proof/Machine/System.lean ====
section
/-! DEFINITION. The system unit: CSRs (R355, R356), TRAP (R412), watchpoints (R437), fences (R195), claims (R266, R400), and
the periodic and closing events of a core (R47, R215, R253, R293). -/

namespace Sys2Proof.Machine

/-- The CSRs that have an RW, RW1C or WO field (R356). -/
def csrWritable (n : Nat) : Bool :=
  n == 0x003 || n == 0x015 || n == 0x020 || n == 0x021 || n == 0x040 || n == 0x042 || n == 0x082 ||
    (decide (0x0A0 ≤ n) && decide (n ≤ 0x0A8))

/-- A generator's state after a reseed (R136). -/
def reseed (seed : BitVec 32) (unit idx : Nat) : BitVec 32 :=
  let x := seed ^^^ BitVec.ofNat 32 (unit * 2 ^ 28) ^^^ BitVec.ofNat 32 idx
  if x = 0 then 0x9E3779B9 else x

/-- SRSEED is written: every generator loads (R136). -/
def loadSeed (c : Core) (seed : BitVec 32) : Core :=
  { c with
    seed := seed, genVA := reseed seed 1 c.idx, genVB := reseed seed 2 c.idx, genSQ := reseed seed 3 c.idx
    genMX := reseed seed 4 c.idx }

/-- A write of a watchpoint control: its reserved bit stays 0 (R291). -/
def watchCtl (v : Word) : BitVec 15 := v.setWidth 15 &&& 0x7F7F

/-- Watchpoint `w` of a core changed. -/
def modWatch (c : Core) (w : Nat) (f : Watch → Watch) : Core :=
  match w with
  | 0 => { c with watch0 := f c.watch0 }
  | 1 => { c with watch1 := f c.watch1 }
  | 2 => { c with watch2 := f c.watch2 }
  | _ => { c with watch3 := f c.watch3 }

/-- A CSR write under the access codes of its fields (R3, R355). -/
def csrWrite (c : Core) (n : Nat) (v : Word) : Core :=
  if n = 0x003 then { c with polver := v.setWidth 16 }
  else if n = 0x015 then (if v.getLsbD 63 then { c with slipInfo := 0 } else c)
  else if n = 0x020 then loadSeed c (v.setWidth 32)
  else if n = 0x021 then { c with flags := c.flags &&& ~~~(v.setWidth 6) }
  else if n = 0x040 then { c with racectl := v.setWidth 2 }
  else if n = 0x042 then (if v.getLsbD 63 then { c with racecnt := 0 } else c)
  else if n = 0x082 then { c with nopreempt := v.getLsbD 0 }
  else if 0x0A0 ≤ n ∧ n < 0x0A4 then modWatch c (n - 0x0A0) fun w => { w with base := v.setWidth 22 }
  else if 0x0A4 ≤ n ∧ n < 0x0A8 then modWatch c (n - 0x0A4) fun w => { w with ctl := watchCtl v }
  else if n = 0x0A8 then (if v.getLsbD 63 then { c with lost := 0 } else c)
  else c

/-- CSRR samples its register at the start of t + 1; the value is at sy.r from t + 2 (R355). -/
def csrSample (s : State) (k n : Nat) : State :=
  match csrRead s k n with
  | some v => postCore s k (gcycOf s k + 1) phDone (.event (.operationComplete k .sy (BitVec.ofNat 2048 v) 0))
  | none => s

/-- The CSR number a trigger names (R355). -/
def csrNumber (fl : Flight) : Nat := (scalarIn .z fl.val).toNat % 4096

/-- Privilege fault of a CSR access (R355). -/
def csrFault (s : State) (fl : Flight) : State :=
  modMe s fun c => raiseFor c fl [] 0x1D (BitVec.ofNat 64 (csrNumber fl)) 0 0

/-- CSRR (R355). -/
def execCsrr (m : Mv) (s : State) : Out :=
  trigger (.csrr m) m s fun fl s =>
    let n := csrNumber fl
    if (csrRead s (me s) n).isNone then csrFault s fl else postDeed s (me s) (fl.arrive + 1) phSample (.csrr n)

/-- CSRW (R355): a clear of FPFLAGS comes before the flags of its cycle, every other write at the cycle's end (R145). -/
def execCsrw (m : Mv) (s : State) : Out :=
  trigger (.csrw m) m s fun fl s =>
    let n := csrNumber fl
    if csrWritable n then
      postDeed s (me s) (fl.arrive + 1) (if n = 0x021 then phSample + 1 else phEnd) (.csrw n (portOf (myCore s) 0x3C0))
    else csrFault s fl

/-- TRAP: a software trap; a debugging stop where the context has them, as the settling of faults decides (R298, R412). -/
def execTrap (m : Mv) (s : State) : Out :=
  trigger (.trap m) m s fun fl s => modMe s fun c => raiseFor c fl [] 0x1E (scalarIn .z fl.val) 0 0

/-- WPT: base and control, at the end of t + 1 (R437). -/
def execWpt (m : Mv) (s : State) : Out :=
  trigger (.wpt m) m s fun fl s =>
    let k := me s
    let w := (scalarIn .z fl.val).toNat % 4
    let s' := postDeed s k (fl.arrive + 1) phEnd (.csrw (0x0A0 + w) (portOf (coreOf s k) 0x3C0))
    postDeed s' k (fl.arrive + 1) phEnd (.csrw (0x0A4 + w) (portOf (coreOf s k) 0x3C1))

/-- INTV: at t + 1 the core's interval advances, after every access of that cycle has been checked (R196, R199). -/
def execIntv (m : Mv) (s : State) : Out :=
  trigger (.intv m) m s fun fl s => postDeed s (me s) (fl.arrive + 1) phAdvance .interval

/-- A fence's latency (R195). -/
def fenceLead (h : Nat) : Nat := max h 512

/-- FENCE: performs at a + max(H, 512) (R195). -/
def execFence (m : Mv) (s : State) : Out :=
  trigger (.fence m) m s fun fl s =>
    postCore s (me s) (fl.arrive + fenceLead (leadOf s (me s))) phHub
      (.event (.fencePerform (me s) ((scalarIn .z fl.val).setWidth 3)))

/-- A posted host write reaches host memory (R370), a poisoned one with its bytes as read; one that completes with an error is
discarded with a HOSTERR record (R313). -/
def landHostWrite (s : State) (w : HostWrite) : State :=
  if w.refused then postEvent s w.page .program evHostErr [w.addr] [] else putHost s w.page w.addr w.data

/-- The posted writes of core `k` read before `a` reach host memory (R195). -/
def flushPosted (s : State) (k a : Nat) : State :=
  let mine := (authOf s).posted.filter fun w => decide (w.core = k ∧ w.readAt < a)
  let s := setAuth s { authOf s with posted := (authOf s).posted.filter fun w => !decide (w.core = k ∧ w.readAt < a) }
  mine.foldl landHostWrite s

/-- FENCE_PERFORM (R195): HOST: the core's posted host writes read before a are visible. An untimed write received before
P(a) has completed, since its bound of 448 pod cycles (R193) is less than the fence's latency. The core's interval advances,
and with PEER the package's. -/
def execFencePerform (core : Nat) (scope : BitVec 3) (s : State) : Out :=
  let x := gcycOf s core
  let g := (coreOf s core).gang
  let s := if scope.getLsbD 0 then flushPosted s core (x - fenceLead (leadOf s core)) else s
  let s := if scope.getLsbD 2 then postGangDeed s g x phAdvance (.pkgInterval g) else s
  .next (postDeed s core x phAdvance .interval)

/-- PEER's advance of the package interval (R198). -/
def pkgInterval (s : State) (g : Nat) : State := modGang s g fun x => { x with pkgIv := x.pkgIv + 1 }

/-! Claims. -/

/-- Key of a context's saved copy of a region of a core (R266). -/
def regionKey (x k n : Nat) : Nat := x * 2 ^ 16 + k * 64 + n

/-- A region of a core as it is saved: bytes, tags and shadow by offset within the region. [log 59 DESIGN CHOICE] -/
def saveRegion (c : Core) (n : Nat) : SavedRegion :=
  let lo := n * 65536
  { data := (c.scratch.filter fun e => decide (lo ≤ e.1 ∧ e.1 < lo + 65536)).map fun e => (e.1 - lo, e.2)
    tags := (c.tags.filter fun e => decide (n * 16 ≤ e.1 ∧ e.1 < n * 16 + 16)).map fun e => (e.1 - n * 16, e.2)
    shadow := (c.shadow.filter fun e => decide (n * 256 ≤ e.1 ∧ e.1 < n * 256 + 256)).map fun e => (e.1 - n * 256, e.2) }

/-- Put a table's part in place of the keys `lo` to `lo + n − 1`. -/
def spliceTable {α : Type} (t : Table α) (lo n : Nat) (part : Table α) : Table α :=
  t.filter (fun e => decide (e.1 < lo)) ++ part.map (fun e => (lo + e.1, e.2)) ++ t.filter (fun e => decide (lo + n ≤ e.1))

/-- Fill a region: a saved copy, or zeros with tags 0x0000; in either case no writer (R75, R197). -/
def fillRegion (c : Core) (n : Nat) (r : SavedRegion) : Core :=
  { c with
    scratch := spliceTable c.scratch (n * 65536) 65536 r.data
    tags := spliceTable c.tags (n * 16) 16 r.tags
    shadow := spliceTable c.shadow (n * 256) 256 [] }

/-- A region's slot of 64 KiB in the last two of the three pages that admission takes on the core (R261). -/
def slotPlace (s : State) (x k n : Nat) : Option Nat :=
  (((ctxOf s x).save.filter fun p => decide (p.1 = k))[1 + n / 32]?).map fun p =>
    p.1 * 2 ^ 29 + p.2 * 2 ^ 21 + n % 32 * 65536

/-- The bytes of a region in home memory, in its owner's slot (R266). -/
def storeRegion (s : State) (x k n : Nat) : State :=
  match slotPlace s x k n with
  | some a => putDev s a (scratchBytes (coreOf s k) (n * 65536) 65536)
  | none => s

/-- Give region `n` of core `k` to context `x`: another owner's contents go to its save slot, and x's saved copy comes back
or zeros (R266). -/
def takeRegion (s : State) (k n x : Nat) : State :=
  let c := coreOf s k
  let o := tget 0 c.owners n
  if o = x then s
  else
    let rs := s.hub.regions
    let rs := if o = 0 then rs else tins rs (regionKey o k n) (saveRegion c n)
    let mine := tget {} rs (regionKey x k n)
    let s := if o = 0 then s else storeRegion s o k n
    let s := { s with hub := { s.hub with regions := tdel rs (regionKey x k n) } }
    setCore s k { fillRegion c n mine with owners := tset 0 c.owners n x }

/-- What a claim's hold is charged to: the core and the region. [log 81 DESIGN CHOICE] -/
def rclaimKey (k n : Nat) : Nat := k + 1024 * n

/-- RCLAIM (R400): a region already owned or claimed needs nothing; else a hold with T_h = t + H covers its spill and fill. -/
def execRclaim (m : Mv) (s : State) : Out :=
  trigger (.rclaim m) m s fun fl s =>
    let k := me s
    let c := coreOf s k
    let x := (gangOf s c.gang).ctx
    let n := (scalarIn .z fl.val).toNat % 64
    let t := fl.arrive + leadOf s k
    if c.claims.any (fun cl => decide (cl.1 = n)) then s
    else
      let s := setCore s k { c with claims := c.claims ++ [(n, t)] }
      if tget 0 c.owners n = x ∧ x ≠ 0 then s
      else if s.looking then s
      else announceHold s c.gang t .rclaim (rclaimKey k n)

/-- REGION_SPILL_FILL: during the hold the owner is spilled and the claimant filled, and the hold is released; a claimant
switched out meanwhile is filled at its switch-in (R266). -/
def execRegionSpillFill (core region : Nat) (s : State) : Out :=
  let key := rclaimKey core region
  match (s.gangs.map (·.1)).find? fun g => hasHold s g .rclaim key with
  | none => .next s
  | some g =>
    let s := if (coreOf s core).gang = g then takeRegion s core region (gangOf s g).ctx else s
    .next (releaseHolds s g .rclaim key)

/-- At a freeze the claims whose hold names this cycle are worked on, in pod time (R266, R400). [log 10 DESIGN CHOICE] -/
def postSpills (s : State) (g x : Nat) : State :=
  ((gangOf s g).holds.filter fun h => decide (h.th = x ∧ h.cause = .rclaim ∧ h.released = none ∧ h.core < farKey)).foldl (fun s h =>
    let (n, s) := takeFresh s
    postPod s (s.pod + 1 + Config.windowTime n) phHub (.regionSpillFill (h.core % 1024) (h.core / 1024))) s

/-! The watchdog, the refresh count, record queues and completion. -/

/-- WATCHDOG_THRESHOLD: WDOGCOUNT is LIMIT − H and no BEACON reset it in this cycle; the hold's T_h is the cycle of LIMIT
(R47, R48). -/
def execWatchdogThreshold (core : Nat) (s : State) : Out :=
  let c := coreOf s core
  let x := gangOf s c.gang
  if c.running ∧ x.wdog ≠ 0 ∧ x.gcyc + x.h = c.wdogBase + x.wdog then
    let s := postEvent s x.vdid .program evWatchdog [c.gang, c.idx] []
    .next (announceHold s c.gang (x.gcyc + x.h) .watchdog core)
  else .next s

/-- The gang freezes after cycle `x` for the controller's refresh, until the teardown (R215). -/
def overdueFreeze (s : State) (g x : Nat) : State :=
  modGang s g fun y =>
    { y with holds := y.holds ++ [⟨holdNumber s g, x + 1, .dram, s.pod, controllerKey, none⟩], holdSeq := y.holdSeq + 1 }

/-- The refresh is overdue: the controller refreshes every bank, the core takes 0x0C, charged to the bundle that issues in this
cycle, and the gang freezes (R215). [log 40 DEDUCED] -/
def refreshOverdue (s : State) (core : Nat) : State :=
  let x := gcycOf s core
  overdueFreeze (modCore s core fun c => raiseNow c x 0x0C 0 0 0) (coreOf s core).gang x

/-- REFRESH_OWED_INCREMENT: OWED rises by 1; at 4, where it stays, the refresh is overdue, which is judged when the bundle of the
cycle is known (R215). [log 40 DEDUCED] -/
def execRefreshOwedIncrement (core : Nat) (s : State) : Out :=
  let s := modCore s core fun c => { c with owed := min 4 (c.owed + 1) }
  .next (if (coreOf s core).owed = 4 then
      post s ⟨.gang (coreOf s core).gang, gcycOf s core, phIssue - 5, none, .deed (.refreshOverdue core)⟩
    else s)

/-- RECORD_QUEUE_DRAIN: the minder moves the queue into the L2 event log (R293). [log 50 DEDUCED] -/
def execRecordQueueDrain (core : Nat) (s : State) : Out := .next (drainRecords s core)

/-- Have the minder drain the queues that hold records (R293). [log 19 DESIGN CHOICE, 50 DEDUCED] -/
def postDrains (s : State) : State :=
  (s.cores.filter fun kc => kc.2.records ≠ []).foldl (fun s kc =>
    if s.agenda.any fun j => decide (j.task = .event (.recordQueueDrain kc.1)) then s
    else
      let (n, s) := takeFresh s
      postPod s (s.pod + 1 + Config.hostLatency n) phHub (.recordQueueDrain kc.1)) s

/-- RUN_COMPLETE: when every core has executed EXIT and its work has performed, the leader writes the fence and NEXT (R253,
R361); while work remains the question is put again. [log 82 DEDUCED] -/
def execRunComplete (gang : Nat) (s : State) : Out :=
  let x := gangOf s gang
  if x.hasRun = false then .next s
  else if (gangCores s gang).any fun k => (coreOf s k).running then .next s
  else if runOver s gang then
    let s := modGang (writeNext (writeFence s gang 0) gang (x.reqIndex + 1)) gang fun y => { y with tears := 0 }
    .next (endRun (if isLeader s gang then tellComplete s gang else s) gang)
  else .next (postGang (if coresOver s gang then tellOver s gang else s) gang (x.gcyc + 1) phHub (.runComplete gang))

end Sys2Proof.Machine
end

