-- ==== Sys2Proof/Machine/Engine.lean ====
section
/-! DEFINITION. What the engines' commands share: starts and slips (R33 to R35, R61), units (R187), tiles and their stamps
(R76), scratch reads and writes (R72 to R74). -/

namespace Sys2Proof.Machine

/-- No start cycle (R61). -/
def noStart : Word := 0xFFFFFFFFFFFFFFFF

/-- A command's start: `at` where one is given, else the arrival (R187). -/
def startOf (w : Word) (t : Nat) : Nat := if w = noStart then t else w.toNat

/-- The trigger arrives later than `at` (R33). -/
def isLate (w : Word) (t : Nat) : Bool := w != noStart && decide (w.toNat < t)

/-- A consumed `at` returns to no start cycle (R61). -/
def consumeAt (c : Core) (id : Nat) : Core := setPort c id noStart

/-- The slip check of a command (R33 to R35): the core, and whether the command goes on: `none` a fault, else whether it is
suppressed. `src` is SLIPINFO.CAUSE and `reads` the port `at`, which the check reads. -/
def slipCheck (s : State) (fl : Flight) (w : Word) (reads : List Nat) (src : Nat) : State × Option Bool :=
  let c := myCore s
  if isLate w fl.arrive then
    if (coreGang s (me s)).poisonMode then
      (modMe s fun c => recordSlip c w.toNat src fl.arrive, some true)
    else (modMe s fun c => raiseFor c fl reads 0x0D 0 0 0, none)
  else (s, some (c.suppress && w != noStart))

/-- A span of an engine command: aligned and in one bank group (R211, R377); an empty span is aligned. -/
def engineSpan (addr len align : Nat) : Bool :=
  decide (addr % align = 0 ∧ addr < 2 ^ 22) && (len == 0 || groupOf addr == groupOf (addr + len - 1))

/-- A length: a multiple of 32, at most `most`. -/
def engineLen (len most : Nat) : Bool := decide (len % 32 = 0 ∧ len ≤ most)

/-- Every region of a span is claimed at `x` (R79). -/
def engineClaimed (c : Core) (addr len x : Nat) : Bool :=
  len == 0 || decide (2 ^ 22 ≤ addr) || claimedAt c addr (min len (2 ^ 22 - addr)) x

/-- The codes a command's checks raise, all of them made (R357); `reads` gives the ports that the check of a code reads (R460).
[log 20 DEDUCED] -/
def raiseAll (s : State) (fl : Flight) (reads : Nat → List Nat) (fs : List (Nat × Nat × Nat)) : State :=
  fs.foldl (fun s f => modMe s fun c =>
    raiseFor c fl (reads f.1) f.1 (BitVec.ofNat 64 f.2.1) (BitVec.ofNat 64 f.2.2) 0) s

def setCmd (c : Core) (m : EngineCmd) : Core := { c with cmds := c.cmds.map fun n => if n.id = m.id then m else n }

def endCmd (c : Core) (id : Nat) : Core := { c with cmds := c.cmds.filter fun m => decide (m.id ≠ id) }

/-- The image of a vacated core `k` that holds command `id` (R296): command numbers of one core never repeat. -/
def cmdImage (s : State) (k id : Nat) : Option (Nat × Core) :=
  s.hub.images.find? fun e => decide (e.1 % 1024 = k) && (cmdOf e.2 id).isSome

/-- The core that a command of core `k` belongs to: the live one, or the vacated one's image. -/
def cmdCore (s : State) (k id : Nat) : Core :=
  if (cmdOf (coreOf s k) id).isSome then coreOf s k else ((cmdImage s k id).map (·.2)).getD (coreOf s k)

/-- Change the core that a command belongs to. -/
def modCmdCore (s : State) (k id : Nat) (f : Core → Core) : State :=
  if (cmdOf (coreOf s k) id).isSome then modCore s k f
  else
    match cmdImage s k id with
    | some e => { s with hub := { s.hub with images := tset {} s.hub.images e.1 (f e.2) } }
    | none => s

/-- A command accepted: it takes the next id. -/
def addCmd (c : Core) (m : EngineCmd) : Core :=
  { c with cmds := c.cmds ++ [{ m with id := c.cmdSeq }], cmdSeq := c.cmdSeq + 1 }

def setBuf (m : EngineCmd) (i : Nat) (bs : List Byte) (p : Bool) : EngineCmd :=
  { m with bufs := m.bufs.filter (fun b => decide (b.1 ≠ i)) ++ [(i, bs, p)] }

/-- The scratch accesses of a command's units are fixed at its trigger: (cycle, address, bytes, kind) (R72, R74); `cls` is the
agent class, `eject` that of a copy to the core itself. -/
def reserveAll (s : State) (k : Nat) (ch : Nat × Nat × Nat) (as : List (Nat × Nat × Nat × Nat)) (cls : Nat := 1)
    (eject : Bool := false) : State :=
  modCore s k fun c => as.foldl (fun c a =>
    reserve c { mkAccess a.1 a.2.1 a.2.2.1 a.2.2.2 ch false with cls := cls, eject := eject }) c

/-- The stamps of a command are fixed at its trigger: (cycle, tile) (R76). -/
def reserveStamps (s : State) (k : Nat) (ch : Nat × Nat × Nat) (sts : List (Nat × Nat)) : State :=
  modCore s k fun c => sts.foldl (fun c st => reserveStamp c st.1 st.2 ch) c

/-- A unit that writes the core's scratch: its cycle, address, bytes, and the tiles it finishes (R76). -/
structure UnitWrite where
  cycle : Nat
  addr : Nat
  n : Nat
  tiles : List Nat
  deriving DecidableEq, Repr

/-- The units of a command that writes `len` bytes from `addr` on, unit `i` in cycle `cyc i` (R76, R187). -/
def unitWrites (cyc : Nat → Nat) (addr len : Nat) : List UnitWrite :=
  (List.range (unitCount len)).map fun i => ⟨cyc i, addr + 256 * i, unitBytes len i, lastTiles addr len i⟩

/-- The stamps that fall with units: (cycle, tile). -/
def stampsOf (us : List UnitWrite) : List (Nat × Nat) := us.flatMap fun u => u.tiles.map fun t => (u.cycle, t)

/-- A suppressed command stamps 0xFFFF where its schedule would have finished a tile, in the slot of the write that would have
finished it; those already past at `t` are not made (R35). [log 48 DEDUCED] -/
def suppressStamps (s : State) (k t : Nat) (ch : Nat × Nat × Nat) (us : List UnitWrite) : State :=
  (us.filter fun u => decide (t ≤ u.cycle) && !u.tiles.isEmpty).foldl (fun s u =>
    let s := modCore s k fun c => reserve c (mkAccess u.cycle u.addr u.n 1 ch false)
    u.tiles.foldl (fun s i => scheduleStamp s k u.cycle i 0xFFFF ch) s) s

/-- An engine unit's bytes are read from the core's own scratch: bytes, and whether a tile it reads is poisoned. -/
def engineRead (s : State) (k addr n : Nat) : List Byte × Bool :=
  let c := coreOf s k
  (scratchBytes c addr n, (tilesOf addr n).any fun t => decide (tagOf c t = 0xFFFF))

/-- An engine unit's bytes are written into the core's own scratch, unless a foreign write voided the access (R74), with the
tile stamps that fall with them; a write that comes back through the replay buffer is watchpoint class 6, else 2 (R292, R295). -/
def engineWrite (s : State) (k addr : Nat) (bs : List Byte) (agent : BitVec 16) (sts : List (Nat × BitVec 16))
    (replayed : Bool := false) : State :=
  let x := gcycOf s k
  if isVoided (coreOf s k) x addr bs.length then s
  else
    let s := performWrite s k ⟨addr, bs, if replayed then 6 else 2, agent, (coreOf s k).idx, 0⟩
    sts.foldl (fun s st => ownStamp s k st.1 st.2) s

/-- The charge of a command's bundle: its trigger's and the operands' that arrive with it (R460). -/
def commandCharge (c : Core) (fl : Flight) (reads : List Nat) : Nat × Nat × Nat := chargeOf c fl reads

/-- A command whose units are still to perform, from its arriving trigger. -/
def mkCmd (kind start sad lad len : Nat) (tag : BitVec 16) (dst : Nat) (fl : Flight) : EngineCmd :=
  ⟨0, kind, start, sad, lad, len, tag, dst, fl.issue, fl.bundle, fl.slot, false, 0, [], []⟩

/-- Write a result port from the end of cycle t on: present at t + 1 (R357). -/
def engineResult (s : State) (fl : Flight) (p : ResultPort) (v : Nat) : State :=
  completeWord s fl p 1 (BitVec.ofNat 64 v) 0

end Sys2Proof.Machine
end

