-- ==== Sys2Proof/Machine/Dram.lean ====
section
/-! DEFINITION. The stacked DRAM: DCOPY and its command timeline (R202 to R213, R357, R358), refresh (R214 to R216), trackers
and disturbance (R217 to R219, R315), untimed accesses (R193, R206, R207), ECC and patrol (R220, R222). -/

namespace Sys2Proof.Machine

/-- Bank and row of a device address (R202). -/
def bankOf (a : Nat) : Nat := a / 2 ^ 13 % 16
def rowOf (a : Nat) : Nat := a / 2 ^ 17 % 4096

/-- Owning core of a device address. -/
def homeOf (a : Nat) : Nat := a / 2 ^ 29

/-! Radish on DRAM sectors. -/

/-- The context that owns the page of a device address, 0 where none does (R198, R310). -/
def pageOwner (s : State) (a : Nat) : Nat := ((pageHolder s (a / 2 ^ 21)).map (·.1)).getD 0

/-- Update the shadow of the sectors that a write touches (R197). -/
def dramShadow (s : State) (a n : Nat) (agent : BitVec 16) (sc : BitVec 2) : State :=
  let iv := homeCounter s (homeOf a) (pageOwner s a) sc
  setDram s { dramOf s with shadow := (dramSectors a n).foldl (fun t i => tset {} t i ⟨agent, iv, sc⟩) (dramOf s).shadow }

/-- Check an access by `x` to the sectors of a span (R199); `victim` is the core a trap faults. -/
def raceDram (s : State) (a n : Nat) (x : BitVec 16) (rw : Nat) (untimed : Bool) (victim : Nat) : State :=
  (dramSectors a n).foldl (fun s i =>
    let sh := tget {} (dramOf s).shadow i
    if raceChecked x sh.writer ∧ homeCounter s (homeOf a) (pageOwner s a) sh.sc = sh.iv then
      raceReport s (homeOf a) (i * 128 % 2 ^ 29) x rw sh untimed victim none
    else s) s

/-- Set the poison bit of the sectors of a span (R358). -/
def poisonDev (s : State) (a n : Nat) : State :=
  setDram s { dramOf s with poison := (dramSectors a n).foldl (fun t i => tset false t i true) (dramOf s).poison }

/-! Trackers (R217, R218). -/

/-- Key of a bank's tracker: core, channel, bank. -/
def trackKey (home ch b : Nat) : Nat := (4 * home + ch) * 16 + b

/-- One of several entries. [log 18 DESIGN CHOICE] -/
def oneOf (ts : List Tracker) (n : Nat) : Option Tracker :=
  match ts with
  | [t] => some t
  | ts => ts[n % ts.length]?

/-- The least count of a tracker's entries. -/
def leastCount (ts : List Tracker) : Nat := ts.foldl (fun m t => min m t.count) ((ts.head?.map (·.count)).getD 0)

/-- Count an activate of a row for a partition (R217). [log 18 DESIGN CHOICE] -/
def trackRow (ts : List Tracker) (row vdid : Nat) : List Tracker :=
  if ts.any fun t => decide (t.row = row ∧ t.vdid = vdid) then
    ts.map fun t => if t.row = row ∧ t.vdid = vdid then { t with count := t.count + 1 } else t
  else if ts.length < 32 then ts ++ [⟨row, 1, vdid⟩]
  else
    let m := leastCount ts
    match oneOf (ts.filter fun t => decide (t.count = m)) (Config.trackerPick row vdid) with
    | some t => ts.erase t ++ [⟨row, m + 1, vdid⟩]
    | none => ts

/-- The highest entry of a tracker; which of several is left open (R214, R217). [log 18 DESIGN CHOICE] -/
def highest (ts : List Tracker) : Option Tracker :=
  let m := ts.foldl (fun m t => max m t.count) 0
  oneOf (ts.filter fun t => decide (t.count = m)) (Config.trackerPick m ts.length)

/-- The gang whose context runs on the core that owns a channel group: the core serves its run, or lies in its core set
(R203, R204). -/
def groupGang (s : State) (home : Nat) : Option Nat :=
  (s.gangs.find? fun e => onSet e.2 && ((coreOf s home).gang == e.1 || (setCores s e.2.coreset).contains home)).map (·.1)

/-- A bank's key among the busy ones. -/
def bankKey (home b : Nat) : Nat := 16 * home + b

/-- A mitigation of the bank begins, unless one is under way: a DRFM of 288 cycles (R209, R218). -/
def startMitigation (s : State) (home ch b : Nat) : State :=
  let done := Instr.disturbanceMitigationDone home (Fin.ofNat 4 ch) (Fin.ofNat 16 b)
  if s.agenda.any fun j => decide (j.task = .event done) then s
  else
  let s := setDram s { dramOf s with busyBanks := tset 0 (dramOf s).busyBanks (bankKey home b) (s.pod + 288) }
  postPod s (s.pod + 288) phUntimed done

/-- An entry reaches 1,024: it awaits mitigation, by a hold where a timed context runs on the group and a timed activate made
it cross, else by a DRFM in the slot that served the activate (R218). [log 47 DEDUCED] -/
def crossBank (s : State) (home ch b row vdid : Nat) (timed : Bool) : State :=
  let d := dramOf s
  let s := setDram s { d with crossing := d.crossing ++ [(trackKey home ch b, row, vdid)] }
  match timed, groupGang s home with
  | true, some g =>
    postGang s g (gangOf s g).gcyc phEnd (.disturbanceThreshold home (Fin.ofNat 4 ch) (Fin.ofNat 16 b))
  | _, _ => startMitigation s home ch b

/-- An entry of the bank awaits mitigation. -/
def crossed (s : State) (home ch b : Nat) : Bool := (dramOf s).crossing.any fun e => decide (e.1 = trackKey home ch b)

/-- This entry of the bank awaits mitigation. -/
def entryCrossed (s : State) (home ch b row vdid : Nat) : Bool := (dramOf s).crossing.contains (trackKey home ch b, row, vdid)

/-- An activate on the channels of a bank: every tracker counts it; an entry that reaches 1,024 is a crossing (R217, R218).
[log 47 DEDUCED] -/
def activateRow (s : State) (home : Nat) (chans : BitVec 4) (b row vdid : Nat) (timed : Bool) : State :=
  ((List.range 4).filter fun ch => chans.getLsbD ch).foldl (fun s ch =>
    let key := trackKey home ch b
    let d := dramOf s
    let ts := trackRow (tget [] d.trackers key) row vdid
    let s := setDram s { d with trackers := tset [] d.trackers key ts }
    if (ts.any fun t => decide (t.row = row ∧ t.vdid = vdid ∧ 1024 ≤ t.count)) && !entryCrossed s home ch b row vdid then
      crossBank s home ch b row vdid timed
    else s) s

/-- A bank's highest entry is reset: a DRFM refreshed its victims. -/
def resetHighest (s : State) (key least : Nat) : State :=
  let d := dramOf s
  let ts := tget [] d.trackers key
  match highest ts with
  | some t => if least < t.count then setDram s { d with trackers := tset [] d.trackers key (ts.erase t) } else s
  | none => s

/-- Key that a disturbance hold is charged to: the bank and the entry that crossed. [log 81 DESIGN CHOICE] -/
def disturbKey (core ch b row vdid : Nat) : Nat := trackKey core ch b + 2 ^ 16 * (row + 2 ^ 12 * vdid)

/-- The entries of a bank that await mitigation. -/
def crossings (s : State) (core ch b : Nat) : List (Nat × Nat) :=
  ((dramOf s).crossing.filter fun e => decide (e.1 = trackKey core ch b)).map (·.2)

/-- DISTURBANCE_THRESHOLD: a hold with T_h = x + H for each entry of the bank that has none; with no timed context on the group
any more the bank is mitigated now (R28, R218). -/
def execDisturbanceThreshold (core : Nat) (ch : Fin 4) (bank : Fin 16) (s : State) : Out :=
  match groupGang s core with
  | none => .next (if crossed s core ch.val bank.val then startMitigation s core ch.val bank.val else s)
  | some g =>
    .next ((crossings s core ch.val bank.val).foldl (fun s e =>
      let key := disturbKey core ch.val bank.val e.1 e.2
      let x := gangOf s g
      if hasHold s g .disturbance key then s else announceHold s g (x.gcyc + x.h) .disturbance key) s)

/-- ACTION 1: the partition's contexts are torn down at the next boundary (R315). -/
def doomPartition (s : State) (p : Nat) : State :=
  let a := authOf s
  setAuth s { a with ctxs := a.ctxs.map fun e => if e.2.vdid = p then (e.1, { e.2 with doomed := true }) else e }

/-- Add pod cycles to the disturbance account of a partition; the first time it passes BUDGET in a window, L1 is told and the
action taken (R219, R315). -/
def chargeDisturbance (s : State) (p n : Nat) : State :=
  let x := partOf s p
  let s := setPart s p { x with distAcc := x.distAcc + n }
  if x.distBudget ≠ 0 ∧ x.distBudget < x.distAcc + n ∧ !x.distHit then
    let s := modPart s p fun x => { x with distHit := true }
    let s := postEvent s p .resource evDisturb [p, x.distAcc + n, x.distBudget] []
    if x.distAction = 1 then doomPartition s p else s
  else s

/-- A crossing entry is reset (R218). [log 47 DEDUCED] -/
def resetCrossing (s : State) (key row vdid : Nat) : State :=
  let d := dramOf s
  setDram s
    { d with
      trackers := tset [] d.trackers key ((tget [] d.trackers key).filter fun t => !decide (t.row = row ∧ t.vdid = vdid))
      crossing := d.crossing.filter fun e => e ≠ (key, row, vdid) }

/-- The gang that has a hold for an entry of the bank, on its core set or switched out. -/
def entryHolder (s : State) (core ch b : Nat) (e : Nat × Nat) : Option Nat :=
  (s.gangs.map (·.1)).find? fun g => hasHold s g .disturbance (disturbKey core ch b e.1 e.2)

/-- The entry is to be mitigated now: no hold was announced for it, or its hold has come (R218). -/
def entryDue (s : State) (core ch b : Nat) (e : Nat × Nat) : Bool :=
  match entryHolder s core ch b e with
  | none => true
  | some g =>
    let x := gangOf s g
    (decide (x.mode = .out) || decide (x.mode = .held)) && x.holds.any fun h =>
      decide (h.cause = .disturbance ∧ h.core = disturbKey core ch b e.1 e.2 ∧ h.th = x.frozenAt)

/-- An entry's mitigation is over: it is reset, and its hold, whose length is charged to its partition, is released (R218, R219).
[log 47 DEDUCED] -/
def entryDone (s : State) (core ch b : Nat) (e : Nat × Nat) : State :=
  let s' := resetCrossing s (trackKey core ch b) e.1 e.2
  match entryHolder s core ch b e with
  | none => s'
  | some g =>
    let x := gangOf s g
    let n := max (x.frozenPod + 1) (s.pod + x.h) - x.frozenPod
    let s := chargeDisturbance s' e.2 n
    let s := postEvent s e.2 .resource evDisturb [e.2, core / 128, core % 128, b] []
    releaseHolds s g .disturbance (disturbKey core ch b e.1 e.2)

/-- DISTURBANCE_MITIGATION_DONE: the bank's DRFM is over and the entry that it was for reset; while another is due, the next one
begins (R218, R219). [log 47 DEDUCED] -/
def execDisturbanceMitigationDone (core : Nat) (ch : Fin 4) (bank : Fin 16) (s : State) : Out :=
  match (crossings s core ch.val bank.val).filter (entryDue s core ch.val bank.val) with
  | [] => .next s
  | e :: es =>
    let s := entryDone s core ch.val bank.val e
    .next (if es = [] then s else startMitigation s core ch.val bank.val)

/-- At a freeze that a disturbance hold names, the controller's DRFM of 288 cycles begins (R209, R218). -/
def postMitigations (s : State) (g x : Nat) : State :=
  (((gangOf s g).holds.filter fun h =>
    decide (h.th = x ∧ h.cause = .disturbance ∧ h.released = none ∧ h.core < farKey)).map fun h => h.core % 2 ^ 16).eraseDups.foldl
      (fun s n => startMitigation s (n / 64) (n / 16 % 4) (n % 16)) s

/-- DISTURBANCE_WINDOW: every account starts anew (R315). -/
def execDisturbanceWindow (s : State) : Out :=
  let a := authOf s
  .next (setAuth s { a with parts := a.parts.map fun e => (e.1, { e.2 with distAcc := 0, distHit := false }) })

/-! The command timeline (R209 to R213). -/

/-- Channels that a unit of `n` bytes covers (R202). -/
def unitChannels (n : Nat) : BitVec 4 := BitVec.ofNat 4 (2 ^ min 4 ((n + 63) / 64) - 1)

/-- Cycle offset of unit `i` in the columns of R187: 12 a unit, 16 a group of 32. -/
def unitStep (i : Nat) : Nat := 12 * i + 16 * (i / 32)

/-- The column command of each unit (R210). -/
def copyColumns (rd : Bool) (s off len skew : Nat) : List DramCmd :=
  (List.range (unitCount len)).map fun i =>
    ⟨s + (if rd then 60 else 120) + unitStep i + skew, if rd then .read else .write, unitChannels (unitBytes len i),
      bankOf (off + 256 * i), rowOf (off + 256 * i)⟩

/-- The row a column opens: its first and last column cycles and its channels. -/
structure RowRun where
  bank : Nat
  row : Nat
  first : Nat
  last : Nat
  chans : BitVec 4
  deriving DecidableEq, Repr

/-- The rows that consecutive columns touch (R210). -/
def rowRuns : List DramCmd → List RowRun
  | [] => []
  | c :: cs =>
    match rowRuns cs with
    | r :: rs =>
      if r.bank = c.bank ∧ r.row = c.row then { r with first := c.cycle, chans := r.chans ||| c.chans } :: rs
      else ⟨c.bank, c.row, c.cycle, c.cycle, c.chans⟩ :: r :: rs
    | [] => [⟨c.bank, c.row, c.cycle, c.cycle, c.chans⟩]

/-- ACT of a row: tRCD before its first column (R210). -/
def actOf (r : RowRun) : Nat := r.first - 24

/-- PRE of a row: tRTP or tWR after its last column, tRAS after its ACT (R210). -/
def preOf (rd : Bool) (r : RowRun) : Nat := max (r.last + if rd then 12 else 36) (actOf r + 80)

/-- All commands of a copy (R210). -/
def copyCommands (rd : Bool) (s off len skew : Nat) : List DramCmd :=
  let cols := copyColumns rd s off len skew
  cols ++ (rowRuns cols).flatMap fun r =>
    [⟨actOf r, .act, r.chans, r.bank, r.row⟩, ⟨preOf rd r, .pre, r.chans, r.bank, r.row⟩]

/-- An open row of a bank: ACT, PRE. -/
structure OpenRow where
  act : Nat
  pre : Nat
  bank : Nat
  chans : BitVec 4
  deriving DecidableEq, Repr

/-- The PRE that closes what an ACT opens: the bank's next. -/
def closes (cs : List DramCmd) (a : DramCmd) : Nat :=
  (cs.filter fun c => decide (c.kind = .pre ∧ c.bank = a.bank ∧ a.cycle < c.cycle)).foldl
    (fun m c => if m = 0 then c.cycle else min m c.cycle) 0

/-- The open rows of a command list. -/
def openRows (cs : List DramCmd) : List OpenRow :=
  (cs.filter fun c => decide (c.kind = .act)).map fun a => ⟨a.cycle, closes cs a, a.bank, a.chans⟩

/-- Busy time of a refresh command (R209). -/
def busyTime : DramKind → Nat
  | .ref => 240
  | .rfm => 288
  | _ => 0

def isColumn (k : DramKind) : Bool := k = .read || k = .write

/-- Subcode 1: a column in a reserved slot (R204). -/
def breaksSlot (map : BitVec 32) (new : List DramCmd) : Bool :=
  new.any fun c => isColumn c.kind && map.getLsbD (c.cycle % 384 / 12)

/-- Subcode 2: rows of one bank that overlap or leave less than tRP between them, and refreshes within tRP of a precharge
(R209); tRC, tRAS, tRTP and tWR follow from how a row's commands lie. -/
def breaksBank (old new : List DramCmd) : Bool :=
  (openRows new).any fun r =>
    ((openRows old).any fun q => decide (q.bank = r.bank ∧ q.act < r.pre + 24 ∧ r.act < q.pre + 24)) ||
    old.any (fun c => decide (0 < busyTime c.kind ∧ c.bank = r.bank ∧ r.pre ≤ c.cycle ∧ c.cycle < r.pre + 24))

/-- Subcode 2 for a refresh: less than tRP after a precharge (R209). -/
def refreshEarly (old new : List DramCmd) : Bool :=
  new.any fun c => decide (0 < busyTime c.kind) &&
    (openRows old).any fun q => decide (q.bank = c.bank ∧ q.pre ≤ c.cycle ∧ c.cycle < q.pre + 24)

/-- Subcode 3: two columns on one channel less than tCCD apart (R209). -/
def breaksColumns (old new : List DramCmd) : Bool :=
  new.any fun c => isColumn c.kind && old.any fun d =>
    isColumn d.kind && c.chans &&& d.chans != 0 && decide (c.cycle < d.cycle + 12 ∧ d.cycle < c.cycle + 12)

/-- Activates of channel `ch`. -/
def actsOn (cs : List DramCmd) (ch : Nat) : List Nat :=
  (cs.filter fun c => decide (c.kind = .act) && c.chans.getLsbD ch).map (·.cycle)

/-- A window of tFAW that starts at an activate holds a new one and more than four (R209). -/
def breaksFour (old new : List DramCmd) : Bool :=
  (List.range 4).any fun ch =>
    let all := actsOn (old ++ new) ch
    let mine := actsOn new ch
    all.any fun b => mine.any (fun a => decide (b ≤ a ∧ a < b + 64)) &&
      decide (4 < (all.filter fun a => decide (b ≤ a ∧ a < b + 64)).length)

/-- Subcode 4: tRRD between banks, or tFAW (R209). -/
def breaksActs (old new : List DramCmd) : Bool :=
  (new.any fun c => decide (c.kind = .act) && old.any fun d =>
    decide (d.kind = .act ∧ d.bank ≠ c.bank ∧ c.cycle < d.cycle + 8 ∧ d.cycle < c.cycle + 8) && c.chans &&& d.chans != 0) ||
  breaksFour old new

/-- Subcode 5: a command to a bank within its refresh, or a refresh of a bank with an open or opening row (R213). -/
def breaksRefresh (old new : List DramCmd) : Bool :=
  ((openRows new).any fun r => old.any fun c =>
    decide (0 < busyTime c.kind ∧ c.bank = r.bank ∧ r.act < c.cycle + busyTime c.kind ∧ c.cycle ≤ r.pre)) ||
  new.any fun c => decide (0 < busyTime c.kind) &&
    (((openRows old).any fun q => decide (q.bank = c.bank ∧ q.act < c.cycle + busyTime c.kind ∧ c.cycle < q.pre)) ||
      old.any fun d => decide (0 < busyTime d.kind ∧ d.bank = c.bank ∧ c.cycle < d.cycle + busyTime d.kind ∧
        d.cycle < c.cycle + busyTime c.kind))

/-- The lowest subcode of R213 that a command set breaks against the accepted ones, 0 for none. -/
def timingFault (map : BitVec 32) (old new : List DramCmd) : Nat :=
  if breaksSlot map new then 1
  else if breaksBank old new || refreshEarly old new then 2
  else if breaksColumns old new then 3
  else if breaksActs old new then 4
  else if breaksRefresh old new then 5
  else 0

/-- The channels of a sector: two columns of 64 bytes (R202). -/
def sectorChans (a : Nat) : BitVec 4 := if a / 128 % 2 = 0 then 3 else 12

/-- Accepted commands that can still matter at cycle `t`: a row is open at most about 500 cycles. -/
def liveCommands (cs : List DramCmd) (t : Nat) : List DramCmd := cs.filter fun c => decide (t ≤ c.cycle + 1024)

/-- A core's accepted commands. -/
def groupCommands (s : State) (home t : Nat) : List DramCmd := liveCommands (coreOf s home).dramCmds t

/-- Accept a command set on a group (R213). -/
def acceptCommands (s : State) (home t : Nat) (cs : List DramCmd) : State :=
  modCore s home fun c => { c with dramCmds := liveCommands c.dramCmds t ++ cs }

/-- The group's slot map (R204). -/
def slotMapOf (s : State) (home : Nat) : BitVec 32 := tget 0 (dramOf s).slotmaps home

/-! Untimed accesses. -/

/-- A page some bind table holds with SC = 1 (R194). -/
def pageOrdered (s : State) (a : Nat) : Bool :=
  (authOf s).ctxs.any fun x => x.2.bind.any fun e => bdV e.2 && bdSC e.2 && decide (homeAddr e.2 0 / 2 ^ 21 = a / 2 ^ 21)

/-- Pieces of a span that do not cross a multiple of `n`. -/
def splitSpan (n : Nat) : Nat → Nat → List Byte → List (Nat × List Byte)
  | 0, _, _ => []
  | fuel + 1, a, bs =>
    if bs = [] then []
    else
      let m := n - a % n
      (a, bs.take m) :: splitSpan n fuel (a + m) (bs.drop m)

/-- Send an untimed access to the hub: whole sectors on an SC page, aligned 8-byte pieces elsewhere, in rising address order; a
piece knows whether its access writes the whole sector (R194, R206, R220). -/
def sendUntimed (s : State) (a : Untimed) : State :=
  let n := if pageOrdered s a.addr then 128 else 8
  let (f, s) := takeFresh s
  (splitSpan n (a.data.length + a.len + 1) a.addr (if a.write then a.data else leBytes a.len 0)).foldl (fun s p =>
    postPod s (s.pod + 1 + Config.hostLatency f) phUntimed
      (.untimedAccessReceive
        { a with
          addr := p.1, data := if a.write then p.2 else [], len := if a.write then 0 else p.2.length, received := 0
          whole := a.write && (wholeSectors a.addr a.data.length).contains (p.1 / 128) })) s

/-- A piece of a write of a whole sector has completed: with the last of its pieces the sector's poison and errors are gone
(R220). -/
def notePiece (s : State) (a : Untimed) : State :=
  if !a.whole then s
  else
    let d := dramOf s
    let i := a.addr / 128
    let key := i * 2 ^ 16 + a.agent.toNat
    let w := ((List.range ((a.data.length + 7) / 8)).map (· + a.addr % 128 / 8)).foldl (fun w j => w ||| 2 ^ j) (tget 0 d.pieces key)
    if w % 2 ^ 16 = 2 ^ 16 - 1 then
      setDram s { d with pieces := tset 0 d.pieces key 0, poison := tset false d.poison i false, bad := tset false d.bad i false }
    else setDram s { d with pieces := tset 0 d.pieces key w }

/-- Partition of an untimed agent (R183). -/
def agentPart (s : State) (a : BitVec 16) : Nat :=
  let id := a.toNat % 4096
  match agentClass a with
  | 3 => id
  | 4 => ((authOf s).parts.find? fun p => decide (levelOf p.1 = 2) && tget false p.2.harts id).map (·.1) |>.getD 0
  | _ => (ctxOf s id).vdid

/-- Outcomes of an untimed read: its data, poisoned data, refused. -/
def readOk : Nat := 0
def readPoisoned : Nat := 1
def readRefused : Nat := 2

/-- The value a load of `n` bytes leaves in its register (R269). [log 86 DESIGN CHOICE] -/
def loadValue (bs : List Byte) (signed : Bool) : Word :=
  let n := 8 * bs.length
  if signed then (BitVec.ofNat n (leNat bs)).signExtend 64 else BitVec.ofNat 64 (leNat bs)

/-- Answer an untimed read: a hart's load reaches its register, whose number and extension are the access's tag. -/
def answerRead (s : State) (a : Untimed) (bs : List Byte) (status : Nat) : State :=
  let s := setDram s { dramOf s with answers := (dramOf s).answers ++ [(a, bs, status)] }
  let h := a.agent.toNat % 4096
  if agentClass a.agent = 4 ∧ status = readOk ∧ a.tag % 32 ≠ 0 then
    let x := hartOf s h
    setHart s h { x with x := tset 0 x.x (a.tag % 32) (loadValue bs (decide (32 ≤ a.tag))) }
  else s

/-- The untimed accesses of a channel group that the hub has received and that are not complete. -/
def groupPending (s : State) (home : Nat) : List Untimed :=
  (dramOf s).pending.filter fun a => decide (a.space = .dram ∧ homeOf a.addr = home)

/-- Reserved slots of a slot map (R204). -/
def slotCount (map : BitVec 32) : Nat := ((List.range 32).filter fun i => map.getLsbD i).length

/-- The group's share cannot take one more sector within the bound of R193: each reserved slot serves two sectors (R206, R208).
[log 8 DESIGN CHOICE] -/
def shareFull (s : State) (a : Untimed) : Bool :=
  let home := homeOf a.addr
  let is := ((groupPending s home).map fun b => b.addr / 128).eraseDups
  !is.contains (a.addr / 128) && decide (2 * slotCount (slotMapOf s home) ≤ is.length)

/-- A page of an episode window that is not yet scrubbed accepts no access (R275). [log 53 DEDUCED] -/
def pageBlocked (s : State) (a : Nat) : Bool :=
  (envOf s).blocked.any fun b =>
    let e := bindAt s b.1 (b.2 * 2 ^ 21)
    bdV e && decide (homeAddr e 0 / 2 ^ 21 = a / 2 ^ 21)

/-- The hub refuses an untimed access to a group with no reserved slot, or to a blocked page (R205, R275). -/
def hubRefuses (s : State) (a : Untimed) : Bool := slotMapOf s (homeOf a.addr) == 0 || pageBlocked s a.addr

/-- The row that the accepted commands leave open in bank `b` at gang cycle `t` (R210). -/
def openAt (cs : List DramCmd) (t b : Nat) : Option DramCmd :=
  cs.find? fun a => decide (a.kind = .act ∧ a.bank = b ∧ a.cycle ≤ t) &&
    !(cs.any fun p => decide (p.kind = .pre ∧ p.bank = b ∧ a.cycle < p.cycle ∧ p.cycle ≤ t))

/-- A timed command of bank `b` is due within 104 cycles of `t`, or a refresh of it under way (R206). -/
def bankTaken (cs : List DramCmd) (t b : Nat) : Bool :=
  cs.any fun c => decide (c.bank = b ∧ (t < c.cycle ∧ c.cycle ≤ t + 104 ∨ c.cycle ≤ t ∧ t < c.cycle + busyTime c.kind))

/-- The slot of 12 cycles that a channel group is in: odd in gang time, even in pod time, where every slot serves (R204, R206). -/
def slotIndex (s : State) (home : Nat) : Nat :=
  match groupGang s home with
  | some g => if (gangOf s g).mode = .running then 2 * ((gangOf s g).gcyc / 12) + 1 else 2 * (s.pod / 12) + 2
  | none => 2 * (s.pod / 12) + 2

/-- The sectors that a group has served in its present slot. -/
def servedNow (s : State) (home : Nat) : List Nat :=
  let r := tget (0, []) (dramOf s).served home
  if r.1 = slotIndex s home then r.2 else []

/-- What the banks allow at address `a`: while a gang runs on the group a reserved slot, with an idle bank or the timed open row;
otherwise every slot, the rows being closed. `none` nothing, else whether it takes an activate (R206, R212). -/
def bankOpen (s : State) (a : Nat) : Option Bool :=
  let home := homeOf a
  match groupGang s home with
  | some g =>
    let x := gangOf s g
    let cs := (coreOf s home).dramCmds
    if x.mode ≠ .running then some true
    else if !(slotMapOf s home).getLsbD (x.gcyc % 384 / 12) then none
    else
      match openAt cs x.gcyc (bankOf a) with
      | some r => if r.row = rowOf a ∧ r.chans &&& sectorChans a = sectorChans a then some false else none
      | none => if bankTaken cs x.gcyc (bankOf a) then none else some true
  | none => some true

/-- What the controller can do for a sector of a channel group in this pod cycle: `none` nothing, else whether serving it takes
an activate. A slot serves two sectors (R206, R208). -/
def serviceOf (s : State) (a : Untimed) : Option Bool :=
  let is := servedNow s (homeOf a.addr)
  if is.contains (a.addr / 128) then some false
  else if 2 ≤ is.length then none
  else bankOpen s a.addr

/-- A sector has been served in the group's present slot. -/
def noteServed (s : State) (a : Nat) : State :=
  let home := homeOf a
  let is := servedNow s home
  let t := tins (dramOf s).served home (slotIndex s home, if is.contains (a / 128) then is else a / 128 :: is)
  setDram s { dramOf s with served := t }

/-- Whether an access must complete before another of its agent: of the same sector, or writes of the same SC page (R194). [log
8 DESIGN CHOICE] -/
def completesFirst (s : State) (b a : Untimed) : Bool :=
  decide (b.space = .dram ∧ b.agent = a.agent) &&
    (decide (b.addr / 128 = a.addr / 128) || (b.write && a.write && decide (b.addr / 2 ^ 21 = a.addr / 2 ^ 21) &&
      pageOrdered s a.addr))

/-- Key that an HCOPY or SHARE unit's hold is charged to, and that a SHARE unit's accesses carry. [log 81 DESIGN CHOICE] -/
def unitHoldKey (k id unit : Nat) : Nat := k + 1024 * (unit + 8192 * id)

/-- Bytes of a SHARE read arrive at its command, which holds them by their place in the span until the unit is whole (R207). -/
def shareData (s : State) (a : Untimed) (bs : List Byte) (p : Bool) : State :=
  let k := a.tag % 1024
  let id := a.tag / 2 ^ 23
  let unit := a.tag / 1024 % 8192
  match cmdOf (cmdCore s k id) id with
  | none => s
  | some m =>
    let m := { m with bufs := m.bufs ++ [(8192 + (a.addr - m.lad), bs, p)] }
    let s := modCmdCore s k id fun c => setCmd c m
    let got := m.bufs.filter fun b => decide (8192 + 256 * unit ≤ b.1 ∧ b.1 < 8192 + 256 * (unit + 1))
    if (got.map (·.2.1.length)).sum = unitBytes m.len unit then postPod s s.pod phUntimed (.dcopyUnit k id unit true) else s

/-- Sectors that a checkpoint or another read covers have had their patrol read (R222). [log 87 DESIGN CHOICE] -/
def notePatrol (s : State) (a n : Nat) : State :=
  setDram s { dramOf s with patrolled := (dramSectors a n).foldl (fun t i => tset 0 t i s.pod) (dramOf s).patrolled }

/-- Page number of a sector, core * 256 + page. -/
def sectorPage (i : Nat) : Nat := i * 128 / 2 ^ 21

/-- A sector's error is uncorrectable: counted, and a PLATFORM event (R220, R316, R334). -/
def sectorLost (s : State) (i : Nat) : State :=
  postPlatform (countError s (.pageUncorrectable (sectorPage i))) (pagePart s (sectorPage i)) evMemory [i]

/-- A read of a span: its sectors have been patrolled, and the uncorrectable ones are counted and reported (R220, R222, R334). -/
def noteRead (s : State) (a n : Nat) : State :=
  ((dramSectors a n).filter fun i => tget false (dramOf s).bad i).foldl sectorLost (notePatrol s a n)

/-- An untimed access completes at its DRAM controller (R193, R197, R199, R217); a hart's read of a poisoned sector is an
access fault (R220). [log 47 DEDUCED] -/
def dramComplete (s : State) (a : Untimed) (act : Bool) : State :=
  let n := if a.write then a.data.length else a.len
  let s := noteServed s a.addr
  let s := if act then
      activateRow s (homeOf a.addr) (sectorChans a.addr) (bankOf a.addr) (rowOf a.addr) (agentPart s a.agent) false
    else s
  if a.write then
    let s := raceDram s a.addr n a.agent 1 true 0
    let s := notePiece (putDev s a.addr a.data) a
    let s := if a.poison then poisonDev s a.addr n else s
    dramShadow s a.addr n a.agent (if agentClass a.agent = 6 then 2 else 0)
  else
    let s := noteRead (raceDram s a.addr n a.agent 0 true 0) a.addr n
    let p := devPoisoned s a.addr n
    if agentClass a.agent = 6 then shareData s a (devBytes s a.addr n) p
    else
      let s := answerRead s a (devBytes s a.addr n) (if p then readPoisoned else readOk)
      if p ∧ agentClass a.agent = 4 then
        post s ⟨.pod, s.pod, phUntimed, none, .deed (.hartFault (a.agent.toNat % 4096))⟩
      else s

/-- The access is no longer pending, and completes. -/
def finishUntimed (s : State) (a : Untimed) (act : Bool) : State :=
  dramComplete (setDram s { dramOf s with pending := (dramOf s).pending.erase a }) a act

/-- A bank's mitigation holds an untimed access up (R218). -/
def mitigating (s : State) (a : Untimed) : Bool :=
  (List.range 4).any (fun ch => crossed s (homeOf a.addr) ch (bankOf a.addr)) ||
    decide (s.pod < tget 0 (dramOf s).busyBanks (bankKey (homeOf a.addr) (bankOf a.addr)))

/-- The last pod cycle in which an access may complete: 448 after its receipt (R193). -/
def lastCompletion (a : Untimed) : Nat := a.received + 448

/-- An access that its group's share cannot complete within the bound has not yet been received: it and those of its agent that
must follow it are received in this pod cycle (R193, R194, R206, R218). [log 8 DESIGN CHOICE] -/
def receiveAnew (s : State) (a : Untimed) : State :=
  let behind := (dramOf s).pending.dropWhile fun b => b ≠ a
  let f := fun (b : Untimed) => if b = a ∨ behind.contains b ∧ completesFirst s a b then { b with received := s.pod } else b
  let s := setDram s { dramOf s with pending := (dramOf s).pending.map f }
  { s with agenda := s.agenda.map fun j =>
    match j.task with
    | .event (.untimedWriteComplete b) => { j with task := .event (.untimedWriteComplete (f b)) }
    | _ => j }

/-- An access at its controller: it completes in a slot that serves it, after those it may not pass; else it is tried again in the
next pod cycle (R193, R194, R206, R218). [log 8 DESIGN CHOICE] -/
def tryUntimed (s : State) (a : Untimed) : State :=
  let ps := (dramOf s).pending
  let again :=
    let s := postPod s (s.pod + 1) (if a.write then phUntimed else phHub) (.untimedWriteComplete a)
    if lastCompletion a ≤ s.pod then receiveAnew s a else s
  let first := (ps.takeWhile fun b => b ≠ a).filter fun b => completesFirst s b a
  if !ps.contains a then s
  else if mitigating s a then again
  else if first ≠ [] then again
  else
    match serviceOf s a with
    | some act => finishUntimed s a act
    | none => again

/-! DCOPY. -/

/-- Checks of a bind entry at a trigger (R207, R221, R309, R310). [log 104 DESIGN CHOICE] -/
def bindRefuses (s : State) (x : Gang) (e : Word) (write : Bool) : Bool :=
  !bdV e || (write && bdRdonly e) ||
    (bdProt e && decide (tget 0 (authOf s).keys (bdCore e / 128 * 256 + bdKey e) = 0)) ||
    (!bdShare e && !(setCores s x.coreset).contains (bdCore e))

/-- The faults of DCOPY's first three checks, in code order (R211, R357). [log 20 DEDUCED] -/
def copyFaults (s : State) (k : Nat) (write : Bool) (sad lad len t : Nat) : List (Nat × Nat × Nat) :=
  let x := coreGang s k
  let e := bindAt s x.ctx lad
  (if engineLen len (2 ^ 20) && engineSpan sad len 256 then [] else [(0x08, 0, 0)]) ++
  (if lad % 256 ≠ 0 ∨ 2 ^ 21 < lad % 2 ^ 21 + len ∨ 2 ^ 35 ≤ lad ∨ bindRefuses s x e write then [(0x09, lad, 0)] else []) ++
  (if engineClaimed (coreOf s k) sad len t then [] else [(0x0A, sad, 0)])

/-- C0's ports that fix a copy's accesses, and those that the check of a code reads (R211, R460). -/
def c0Reads : List Nat := [0x300, 0x302, 0x303]

def c0Checks : Nat → List Nat
  | 0x09 => [0x301, 0x302]
  | 0x0B => [0x301, 0x302, 0x303]
  | _ => [0x300, 0x302]

/-- Scratch cycle of unit `i` (R187, R207). -/
def copyScratchCycle (kind s skew i : Nat) : Nat :=
  match kind with
  | 0 => s + 120 + unitStep i + skew
  | 1 => s + 4 + unitStep i + skew
  | 7 => s + 4096 + 12 * i
  | _ => s + 4 + 12 * i

/-- The units of a copy at scratch. -/
def copyUnits (kind s skew sad len : Nat) : List UnitWrite := unitWrites (copyScratchCycle kind s skew) sad len

/-- The (cycle, tile) stamps of a copy into scratch. -/
def tileStampsOf (kind s skew sad len : Nat) : List (Nat × Nat) := stampsOf (copyUnits kind s skew sad len)

/-- The unit steps of an accepted timed copy (R210). -/
def postCopyUnits (s : State) (k id : Nat) (rd : Bool) (st skew len : Nat) : State :=
  (List.range (unitCount len)).foldl (fun s i =>
    let c := st + (if rd then 60 else 120) + unitStep i + skew
    let s := postCore s k c (if rd then phRead else phWrite) (.event (.dcopyUnit k id i true))
    postCore s k (copyScratchCycle (if rd then 0 else 1) st skew i) (if rd then phWrite else phRead)
      (.event (.dcopyUnit k id i false))) s

/-- Bytes of host data C1 has, or of shared pages C0 has, for a unit come in pod time: a unit that is late by its perform
cycle − H announces a hold (R190, R207). -/
def postAnnouncements (s : State) (k id t st len : Nat) : State :=
  let h := leadOf s k
  (List.range (unitCount len)).foldl (fun s i =>
    let p := st + 4096 + 12 * i
    if t + h ≤ p then postCore s k (p - h) phUntimed (.event (.hcopyHoldAnnouncement k id i)) else s) s

/-- A timed copy through an entry with SHARE = 0 (R210, R213). -/
def startCopy (s : State) (fl : Flight) (rd : Bool) (st sad lad len : Nat) (tag : BitVec 16) (e : Word) : State :=
  let k := me s
  let t := fl.arrive
  let home := bdCore e
  let skew := if home / 128 = k / 128 then 0 else 112
  let new := copyCommands rd st (homeAddr e lad % 2 ^ 29) len skew
  let sub := timingFault (slotMapOf s home) (groupCommands s home t) new
  if sub ≠ 0 then raiseAll s fl c0Checks [(0x0B, lad, sub)]
  else
    let ch := commandCharge (myCore s) fl c0Reads
    let kind := if rd then 0 else 1
    let s := acceptCommands s home t new
    let id := (myCore s).cmdSeq
    let s := setCore s k (addCmd (myCore s) { mkCmd kind st sad (homeAddr e lad) len tag home fl with skew := skew })
    let s := reserveAll s k ch ((List.range (unitCount len)).map fun i =>
      (copyScratchCycle kind st skew i, sad + 256 * i, unitBytes len i, if rd then 1 else 0))
    let s := if rd then reserveStamps s k ch (tileStampsOf kind st skew sad len) else s
    let s := (new.filter fun c => decide (c.kind = .act)).foldl (fun s c =>
      postDeed s k c.cycle phRead (.activate home c.chans c.bank c.row)) s
    let s := postCopyUnits s k id rd st skew len
    let n := unitCount len - 1
    engineResult s fl .c0 (st + 120 + unitStep n + skew)

/-- A copy through an entry with SHARE = 1, as an untimed agent of class 6 (R207). -/
def startShare (s : State) (fl : Flight) (rd : Bool) (st sad lad len : Nat) (tag : BitVec 16) (e : Word) : State :=
  let k := me s
  let kind := if rd then 7 else 8
  let ch := commandCharge (myCore s) fl c0Reads
  let id := (myCore s).cmdSeq
  let s := setCore s k (addCmd (myCore s) (mkCmd kind st sad (homeAddr e lad) len tag (bdCore e) fl))
  let s := reserveAll s k ch ((List.range (unitCount len)).map fun i =>
    (copyScratchCycle kind st 0 i, sad + 256 * i, unitBytes len i, if rd then 1 else 0))
  let s := if rd then reserveStamps s k ch (tileStampsOf kind st 0 sad len) else s
  let s := (List.range (unitCount len)).foldl (fun s i =>
    let s := postCore s k (copyScratchCycle kind st 0 i) (if rd then phWrite else phRead) (.event (.dcopyUnit k id i false))
    if rd then
      sendUntimed s ⟨agentId 6 (coreGang s k).ctx, .dram, false, homeAddr e lad + 256 * i, [], unitBytes len i, false,
        unitHoldKey k id i, 0, false⟩
    else s) s
  let s := if rd then postAnnouncements s k id fl.arrive st len else s
  engineResult s fl .c0 (copyScratchCycle kind st 0 (unitCount len - 1))

/-- A suppressed copy: its stamps alone, and c0.r (R35). [log 48 DEDUCED] -/
def suppressCopy (s : State) (fl : Flight) (rd : Bool) (st sad len : Nat) (e : Word) : State :=
  let k := me s
  let skew := if bdShare e ∨ bdCore e / 128 = k / 128 then 0 else 112
  let kind := if bdShare e then (if rd then 7 else 8) else if rd then 0 else 1
  let s := if rd then
      suppressStamps s k fl.arrive (commandCharge (myCore s) fl c0Reads) (copyUnits kind st skew sad len)
    else s
  let n := unitCount len - 1
  engineResult s fl .c0 (if bdShare e then copyScratchCycle kind st 0 n else st + 120 + unitStep n + skew)

/-- DCOPY.R and DCOPY.W (R357). -/
def dcopy (rd : Bool) (s : State) (fl : Flight) : State :=
  let k := me s
  let c := myCore s
  let sad := (portOf c 0x300).toNat
  let lad := (portOf c 0x301).toNat
  let len := (portOf c 0x302).toNat
  let w := portOf c 0x303
  let tag := (portOf c 0x304).setWidth 16
  let s := modMe s fun c => consumeAt c 0x303
  let fs := copyFaults s k (!rd) sad lad len fl.arrive
  if len = 0 then s
  else if fs ≠ [] then raiseAll s fl c0Checks fs
  else
    match slipCheck s fl w [0x303] 2 with
    | (s, none) => s
    | (s, some true) => suppressCopy s fl rd (startOf w fl.arrive) sad len (bindAt s (coreGang s k).ctx lad)
    | (s, some false) =>
      let e := bindAt s (coreGang s k).ctx lad
      if bdShare e then startShare s fl rd (startOf w fl.arrive) sad lad len tag e
      else startCopy s fl rd (startOf w fl.arrive) sad lad len tag e

/-- DCOPY.R (R357). -/
def execDcopyR (m : Mv) (s : State) : Out := trigger (.dcopyR m) m s fun fl s => dcopy true s fl

/-- DCOPY.W (R357). -/
def execDcopyW (m : Mv) (s : State) : Out := trigger (.dcopyW m) m s fun fl s => dcopy false s fl

/-- A command is over after its last unit. -/
def closeUnit (s : State) (k : Nat) (m : EngineCmd) (unit : Nat) : State :=
  if unit + 1 = unitCount m.len then modCore s k fun c => endCmd c m.id else s

/-- A SHARE unit is whole: its pieces in address order, poisoned where one is (R207). -/
def shareUnit (m : EngineCmd) (unit : Nat) : EngineCmd :=
  let mine := fun b : Nat × List Byte × Bool => decide (8192 + 256 * unit ≤ b.1 ∧ b.1 < 8192 + 256 * (unit + 1))
  let got := m.bufs.filter mine
  let bs := (List.range 256).flatMap fun i => ((got.find? fun b => decide (b.1 = 8192 + 256 * unit + i)).map (·.2.1)).getD []
  setBuf { m with bufs := m.bufs.filter fun b => !mine b } unit bs (got.any fun b => b.2.2)

/-- A copy's unit at DRAM (R187, R220, R357, R358); a page of a window still to be scrubbed accepts none (R275). [log 53
DEDUCED] -/
def unitAtDram (s : State) (k : Nat) (m : EngineCmd) (unit : Nat) : State :=
  let a := m.lad + 256 * unit
  let n := unitBytes m.len unit
  let agent := agentId 1 (coreOf s k).idx
  if m.kind = 7 then modCmdCore s k m.id fun c => setCmd c (shareUnit m unit)
  else if m.kind = 1 then
    match unitBuf m unit with
    | none => closeUnit s k m unit
    | some (bs, p) =>
      if pageBlocked s a then closeUnit s k m unit
      else
        let s := raceDram s a n agent 1 false k
        let s := putDev s a bs
        let s := if p then poisonDev s a n else s
        closeUnit (dramShadow s a n agent 0) k m unit
  else if pageBlocked s a then
    let (f, s) := takeFresh s
    modCmdCore s k m.id fun c => setCmd c (setBuf m unit ((List.range n).map fun i => Config.openByte (256 * f + i)) false)
  else
    let s := noteRead (raceDram s a n agent 0 false k) a n
    let bs := devBytes s a n
    let p := devPoisoned s a n
    modCmdCore s k m.id fun c => setCmd c (setBuf m unit bs p)

/-- A copy's unit at scratch (R187, R207, R358). -/
def unitAtScratch (s : State) (k : Nat) (m : EngineCmd) (unit : Nat) : State :=
  let a := m.sad + 256 * unit
  let n := unitBytes m.len unit
  let x := gcycOf s k
  if m.kind = 0 ∨ m.kind = 7 then
    match unitBuf m unit with
    | some (bs, _) =>
      closeUnit (engineWrite s k a bs (agentId 1 (coreOf s k).idx) (unitStamps m m.sad unit)
        (m.replayed.contains unit)) k m unit
    | none => desync s (coreOf s k).gang
  else if isVoided (coreOf s k) x a n then closeUnit s k m unit
  else
    let r := engineRead s k a n
    let s := raceScratchRead s k a n
    if m.kind = 8 then
      let s := sendUntimed s ⟨agentId 6 (coreGang s k).ctx, .dram, true, m.lad + 256 * unit, r.1, 0, r.2, 0, 0, false⟩
      closeUnit s k m unit
    else modCore s k fun c => setCmd c (setBuf m unit r.1 r.2)

/-- DCOPY_UNIT (R210, R357); data of a SHARE unit releases the hold taken for it (R190, R207). -/
def execDcopyUnit (core cmd unit : Nat) (atDram : Bool) (s : State) : Out :=
  match cmdOf (cmdCore s core cmd) cmd with
  | none => .next s
  | some m =>
    if atDram then
      let g := (cmdCore s core cmd).gang
      let s := unitAtDram s core m unit
      .next (if m.kind = 7 then releaseHolds s g .hcopy (unitHoldKey core cmd unit) else s)
    else .next (unitAtScratch s core m unit)

/-! Refresh. -/

/-- NEXTBANK as it will stand at cycle `st`: after the latest accepted DREF that starts by then (R213, R215). [log 46 DEDUCED]
-/
def nextBankThen (c : Core) (t st : Nat) : Nat :=
  (c.dramCmds.foldl (fun (m : Nat × Nat) d =>
    if d.kind = .ref ∧ t ≤ d.cycle ∧ d.cycle ≤ st ∧ m.1 ≤ d.cycle then (d.cycle, (d.bank + 1) % 16) else m) (0, c.nextBank)).2

/-- OWED as it will stand at cycle `st`, from its value at `t` (R215). [log 46 DEDUCED] -/
def owedThen (c : Core) (t st : Nat) : Int :=
  c.owed + ((st / 2340 - t / 2340 : Nat) : Int) -
    (((c.dramCmds.filter fun d => decide (d.kind = .ref ∧ t ≤ d.cycle ∧ d.cycle ≤ st)).length : Nat) : Int)

/-- The subcode that refuses a DREF or DRFM of a group at its trigger, 0 for none (R213). [log 46 DEDUCED] -/
def refreshFault (s : State) (k t st b : Nat) (rfm : Bool) : Nat :=
  let c := coreOf s k
  let f := timingFault (slotMapOf s k) (groupCommands s k t) [⟨st, if rfm then .rfm else .ref, 15, b, 0⟩]
  if f ≠ 0 then f
  else if rfm then 0
  else if b ≠ nextBankThen c t st then 6
  else if owedThen c t st ≤ -8 then 7
  else 0

/-- DREF and DRFM (R214, R360). -/
def refreshTrigger (rfm : Bool) (s : State) (fl : Flight) : State :=
  let k := me s
  let w := portOf (myCore s) 0x303
  let v := (scalarIn .z fl.val).toNat
  let b := v % 16
  let s := modMe s fun c => consumeAt c 0x303
  match slipCheck s fl w [0x303] 2 with
  | (s, some false) =>
    let st := startOf w fl.arrive
    let f := refreshFault s k fl.arrive st b rfm
    if f ≠ 0 then raiseAll s fl (fun _ => [0x303]) [(0x0B, v, f)]
    else
      let s := acceptCommands s k fl.arrive [⟨st, if rfm then .rfm else .ref, 15, b, 0⟩]
      postDeed s k st phEnd (.refresh k b rfm)
  | (s, _) => s

/-- DREF (R214). -/
def execDref (m : Mv) (s : State) : Out := trigger (.dref m) m s fun fl s => refreshTrigger false s fl

/-- DRFM (R214). -/
def execDrfm (m : Mv) (s : State) : Out := trigger (.drfm m) m s fun fl s => refreshTrigger true s fl

/-- A DREF or DRFM starts (R214). -/
def refreshStart (s : State) (home b : Nat) (rfm : Bool) : State :=
  if rfm then (List.range 4).foldl (fun s ch => resetHighest s (trackKey home ch b) 64) s
  else modCore s home fun c => { c with nextBank := (b + 1) % 16, owed := c.owed - 1 }

/-- An activate of the compiled timeline is counted for the context's partition (R217). -/
def timedActivate (s : State) (k home : Nat) (chans : BitVec 4) (b row : Nat) : State :=
  activateRow s home chans b row (coreGang s k).vdid true

/-- DRAM_SELF_REFRESH: the controller's own refresh in pod time; it changes neither OWED nor NEXTBANK (R216). -/
def execDramSelfRefresh (_core : Nat) (_bank : Fin 16) (s : State) : Out := .next s

/-! What the controllers do at a freeze (R212). -/

/-- The rows recorded at a freeze are opened again, each by an activate (R212, R217). [log 47 DEDUCED] -/
def reopenRows (s : State) (g : Nat) : State :=
  let x := gangOf s g
  x.rows.foldl (fun s r => activateRow s r.1 r.2.1 r.2.2.1 r.2.2.2 x.vdid true) (setGang s g { x with rows := [] })

/-- The controllers have reopened their rows and release the hold they attached to the freeze (R25, R212). -/
def controllersRelease (s : State) (g n : Nat) : State :=
  let x := gangOf s g
  if x.holds.any fun h => decide (h.number = n ∧ h.released = none) then
    let s := if x.mode = .held then reopenRows s g else s
    leekMembers (markReleased s g n s.pod) g (.release g n s.pod)
  else s

/-! ECC and patrol. -/

/-- The controller of a group may use a sector's bank for work of its own now: in an unused reserved slot, in a freeze, and with
no context running on the group (R206, R220, R222). -/
def slotOpen (s : State) (a : Nat) : Bool := (servedNow s (homeOf a)).isEmpty && (bankOpen s a).isSome

/-- The controller's own access to a sector takes the slot, and its activate is counted for no partition (R217, R222). [log 87
DESIGN CHOICE] -/
def ownAccess (s : State) (a : Nat) : State :=
  let act := bankOpen s a != some false
  let s := noteServed s a
  if act then activateRow s (homeOf a) (sectorChans a) (bankOf a) (rowOf a) 0 false else s

/-- PATROL_READ: a sector is read; a corrected error is counted and written back, an uncorrectable one is a PLATFORM event
(R220, R222, R334). [log 87 DESIGN CHOICE] -/
def execPatrolRead (sector : Nat) (finding : EccFinding) (s : State) : Out :=
  let s := notePatrol (ownAccess s (sector * 128)) (sector * 128) 128
  match finding with
  | .clean => .next s
  | .corrected =>
    let s := countError s (.pageCorrected (sectorPage sector))
    let s := setDram s { dramOf s with corrected := (dramOf s).corrected ++ [sector] }
    .next (postPod s (s.pod + 1) phUntimed (.eccWriteback sector))
  | .uncorrectable =>
    let s := setDram s { dramOf s with bad := tset false (dramOf s).bad sector true }
    .next (sectorLost s sector)

/-- ECC_WRITEBACK: a corrected sector is written back in the next reserved slot or freeze, its bytes unchanged (R220). -/
def execEccWriteback (sector : Nat) (s : State) : Out :=
  .next (if slotOpen s (sector * 128) then
      let s := ownAccess s (sector * 128)
      setDram s { dramOf s with corrected := (dramOf s).corrected.filter fun i => i ≠ sector }
    else postPod s (s.pod + 1) phUntimed (.eccWriteback sector))

/-- Sectors of the package's stacks, and pod cycles in 24 hours at 2.4 GHz (R202, R222). -/
def sectorCount : Nat := 2 ^ 32
def patrolBound : Nat := 24 * 3600 * 2400000000

/-- Pod cycles from one sector of the controllers' patrol to the next: two rounds of all sectors within 24 hours (R222). [log
87 DESIGN CHOICE] -/
def patrolStep : Nat := 20000

/-- The patrol reaches a sector: it is read where the controller may use its bank; where the next round would be too late, in the
next pod cycle in which it may, or now on a group that reserves no slot (R222). [log 87 DESIGN CHOICE] -/
def patrol (s : State) (sector : Nat) : State :=
  let a := sector * 128
  let late := decide (tget 0 (dramOf s).patrolled sector + patrolBound < s.pod + sectorCount * patrolStep)
  if slotOpen s a then notePatrol (ownAccess s a) a 128
  else if !late then s
  else if slotMapOf s (homeOf a) = 0 then notePatrol s a 128
  else post s ⟨.pod, s.pod + 1, phUntimed, none, .deed (.patrol sector)⟩

end Sys2Proof.Machine
end

