-- ==== Sys2Proof/Machine/Transfer.lean ====
section
/-! DEFINITION. C1: XCOPY over the die network (R438, R439), HCOPY to and from host memory (R190, R369, R370), and IMCOPY (R90,
R371). -/

namespace Sys2Proof.Machine

/-- C1's ports that fix a command's own accesses, and those that the check of a code reads (R369, R371, R438, R460). -/
def c1Reads : List Nat := [0x340, 0x342, 0x343]

def xcopyChecks : Nat → List Nat
  | 0x08 => [0x340, 0x341, 0x342]
  | 0x1D => [0x345]
  | 0x21 => [0x342, 0x343]
  | _ => [0x340, 0x342]

def hcopyChecks : Nat → List Nat
  | 0x09 => [0x341, 0x342]
  | _ => [0x340, 0x342]

def imcopyChecks : Nat → List Nat
  | 0x08 => [0x340, 0x342, 0x345]
  | _ => [0x340, 0x342]

/-- Room in C1's write buffer, and in its read buffer (R369). -/
def c1Buffer : Nat := 2 ^ 20

/-! XCOPY. -/

/-- Read cycle of unit `i` at the source (R187). -/
def xcopyReadCycle (st i : Nat) : Nat := st + 4 + 4 * i

/-- Perform cycle of unit `i` at the target (R187). -/
def xcopyWriteCycle (st i : Nat) (sameDie : Bool) : Nat := st + (if sameDie then 48 else 160) + 4 * i

/-- Two of the core's XCOPYs would inject in one cycle (R439). -/
def injectionClash (c : Core) (st len : Nat) : Bool :=
  c.cmds.any fun m => decide (m.kind = 2) && (List.range (unitCount m.len)).any fun j =>
    decide (st ≤ m.start + 4 * j ∧ (m.start + 4 * j - st) % 4 = 0 ∧ (m.start + 4 * j - st) / 4 < unitCount len)

/-- XCOPY's faults (R438). [log 20 DEDUCED, 45 DEDUCED] -/
def xcopyFaults (s : State) (k sad lad len dst t : Nat) : List (Nat × Nat × Nat) :=
  (if engineLen len (2 ^ 20) && engineSpan sad len 32 then (if engineSpan lad len 32 then [] else [(0x08, lad, 0)])
    else [(0x08, 0, 0)]) ++
  (if engineClaimed (coreOf s k) sad len t then [] else [(0x0A, sad, 0)]) ++
  (if dst < (coreGang s k).cores then [] else [(0x1D, dst, 0)])

/-- Source key of a core's foreign writes (R186). -/
def sourceKey (s : State) (k : Nat) : Nat := chipOf s * 1024 + (coreOf s k).idx

/-- The target writes of a copy to the core itself are no foreign writes: their accesses and stamps are fixed at the trigger
(R74, R76). -/
def reserveSelf (s : State) (k : Nat) (ch : Nat × Nat × Nat) (us : List UnitWrite) : State :=
  reserveStamps (reserveAll s k ch (us.map fun u => (u.cycle, u.addr, u.n, 1)) 1 true) k ch (stampsOf us)

/-- A suppressed XCOPY stamps 0xFFFF at the target, in the slots its units would have used (R35, R438). [log 48 DEDUCED] -/
def suppressXcopy (s : State) (k k' t st lad len : Nat) (near : Bool) (ch : Nat × Nat × Nat) : State :=
  let us := (unitWrites (xcopyWriteCycle st · near) lad len).filter fun u => decide (t ≤ u.cycle) && !u.tiles.isEmpty
  us.foldl (fun s u =>
    postCore s k u.cycle (phForeign (sourceKey s k))
      (.event (.xcopyUnitArrival k'
        ⟨k, (coreGang s k).ctx, near, u.addr, leBytes u.n 0, u.tiles.map fun t => (t, 0xFFFF), true, false⟩)))
    (if k' = k then reserveSelf s k ch us else s)

/-- XCOPY (R438). -/
def execXcopy (m : Mv) (s : State) : Out :=
  trigger (.xcopy m) m s fun fl s =>
    let k := me s
    let c := myCore s
    let sad := (portOf c 0x340).toNat
    let lad := (portOf c 0x341).toNat % 2 ^ 22
    let len := (portOf c 0x342).toNat
    let w := portOf c 0x343
    let tag : BitVec 16 := (portOf c 0x344).setWidth 16
    let dst := (portOf c 0x345).toNat % 1024
    let s := modMe s fun c => consumeAt c 0x343
    let fs := xcopyFaults s k sad lad len dst fl.arrive
    if len = 0 then s
    else if fs ≠ [] then raiseAll s fl xcopyChecks fs
    else
      let st := startOf w fl.arrive
      let k' := (coreAt s c.gang dst).getD k
      let near := decide (k / 128 = k' / 128)
      let n := unitCount len
      match slipCheck s fl w [0x343] 3 with
      | (s, none) => s
      | (s, some true) =>
        engineResult (suppressXcopy s k k' fl.arrive st lad len near (commandCharge (myCore s) fl [0x341, 0x342, 0x343, 0x345]))
          fl .c1 (xcopyWriteCycle st (n - 1) near)
      | (s, some false) =>
        if injectionClash (myCore s) st len then raiseAll s fl xcopyChecks [(0x21, sad, c.idx)]
        else
          let ch := commandCharge (myCore s) fl c1Reads
          let id := (myCore s).cmdSeq
          let s := setCore s k (addCmd (myCore s) (mkCmd 2 st sad lad len tag k' fl))
          let units := List.range n
          let s := reserveAll s k ch (units.map fun i => (xcopyReadCycle st i, sad + 256 * i, unitBytes len i, 0))
          let s := if k' = k then
              reserveSelf s k (commandCharge (myCore s) fl [0x341, 0x342, 0x343, 0x345])
                (unitWrites (xcopyWriteCycle st · near) lad len)
            else s
          let s := units.foldl (fun s i => postDeed s k (xcopyReadCycle st i) phRead (.xcopyRead id i)) s
          engineResult s fl .c1 (xcopyWriteCycle st (n - 1) near)

/-- An XCOPY unit is read and sent; its write, until it performs, is the issuing core's own work (R187, R294, R438). -/
def xcopyRead (s : State) (k cmd unit : Nat) : State :=
  match cmdOf (coreOf s k) cmd with
  | none => s
  | some m =>
    let a := m.sad + 256 * unit
    let n := unitBytes m.len unit
    if isVoided (coreOf s k) (gcycOf s k) a n then closeUnit s k m unit
    else
      let r := engineRead s k a n
      let s := raceScratchRead s k a n
      let m := setBuf m unit r.1 r.2
      let near := decide (k / 128 = m.dst / 128)
      let u : XUnit := ⟨k, (coreGang s k).ctx, near, m.lad + 256 * unit, r.1, unitStamps m m.lad unit, false, false⟩
      let s := modCore s k fun c => setCmd c { m with bufs := m.bufs.map fun b => (b.1, [], b.2.2) }
      let s := postCore s k (xcopyWriteCycle m.start unit near) (phForeign (sourceKey s k)) (.event (.xcopyUnitArrival m.dst u))
      closeUnit s k m unit

/-- A unit of an XCOPY reaches core `core`: one a cycle through the ejection port, the lowest source's; then as a foreign write,
or as the core's own for a copy to itself, into a claimed region (R74, R79, R438, R439). [log 45 DEDUCED] -/
def xcopyArrive (s : State) (core : Nat) (u : XUnit) : State :=
  let x := gcycOf s core
  let c := coreOf s core
  let src := (coreOf s u.srcCore).idx
  let w : ScratchWrite := ⟨u.addr, u.data, if u.replay then 6 else 3, agentId 1 src, src, if u.sameDie then 1 else 2⟩
  let f : Foreign := { w := w, stamps := u.stamps, src := sourceKey s u.srcCore, xcopy := true, moves := !u.stampOnly }
  if c.foreign.any fun o => decide (o.cycle = x) && o.xcopy then
    discardForeign (modCore s core fun c => raiseNow c x 0x21 (BitVec.ofNat 64 u.addr) (BitVec.ofNat 64 src) 0) core f
  else if u.srcCore = core then
    let s := takeEjection s core u.addr w.agent src f.src
    if claimedAt c u.addr u.data.length x then postForeign s core phWrite { w with data := if u.stampOnly then [] else w.data } u.stamps
    else unclaimedFault s core u.addr
  else foreignWrite s core f

/-- XCOPY_UNIT_ARRIVAL (R438, R439). -/
def execXcopyUnitArrival (core : Nat) (u : XUnit) (s : State) : Out := .next (xcopyArrive s core u)

/-! HCOPY. -/

/-- The host window of a partition that holds a span with the permission (R313). -/
def windowFor (p : Partition) (a n : Nat) (write : Bool) : Bool :=
  p.windows.any fun w => (if write then w.2.wr else w.2.rd) && decide (w.2.base ≤ a ∧ a + n ≤ w.2.base + w.2.len)

/-- HCOPY's faults (R369). [log 20 DEDUCED] -/
def hcopyFaults (s : State) (k : Nat) (write : Bool) (sad lad len t : Nat) : List (Nat × Nat × Nat) :=
  let p := partOf s (coreGang s k).vdid
  (if engineLen len (2 ^ 20) && engineSpan sad len 256 then [] else [(0x08, 0, 0)]) ++
  (if lad % 64 = 0 ∧ windowFor p lad len write then [] else [(0x09, lad, 0)]) ++
  (if engineClaimed (coreOf s k) sad len t then [] else [(0x0A, sad, 0)])

/-- Cycle in which an HCOPY unit uses scratch (R187). -/
def hcopyCycle (write : Bool) (st i : Nat) : Nat := if write then st + 4 + 12 * i else st + 4096 + 12 * i

/-- Units of an HCOPY.W that a hold can cover are judged at their read cycle − H (R369). [log 9 DESIGN CHOICE] -/
def postSpaceChecks (s : State) (k id t st len : Nat) : State :=
  let h := leadOf s k
  (List.range (unitCount len)).foldl (fun s i =>
    let p := hcopyCycle true st i
    if t + h ≤ p then postCore s k (p - h) phUntimed (.event (.hcopyHoldAnnouncement k id i)) else s) s

/-- C1 asks the host for a unit; its data comes in pod time, or an error completion (R190, R313, R369, R370). [log 9 DESIGN
CHOICE, 43 DEDUCED, 106 DESIGN CHOICE] -/
def askUnit (s : State) (k p id lad len i : Nat) : State :=
  let (n, s) := takeFresh s
  let bs := hostBytes s p (lad + 256 * i) (unitBytes len i)
  postPod s (s.pod + 1 + Config.hostLatency n) phHub
    (.hostReadDataArrival k id i bs (!dmaBlocked s p && !Config.hostRefuses n))

/-- The commands that C1 of core `k` works on: those of the run on it, and of those that were switched out. -/
def c1Cmds (s : State) (k : Nat) : List (Nat × EngineCmd) :=
  (coreOf s k :: (s.hub.images.filter fun e => decide (e.1 % 1024 = k)).map (·.2)).flatMap fun c => c.cmds.map fun m => (c.gang, m)

/-- Bytes of HCOPY.R units of core `k` that C1 has asked for and that have not performed (R369). -/
def readHeld (s : State) (k : Nat) : Nat :=
  (((c1Cmds s k).filter fun gm => decide (gm.2.kind = 3)).map fun gm =>
    (((List.range (unitCount gm.2.len)).filter fun i =>
      decide ((gangOf s gm.1).gcyc < hcopyCycle false gm.2.start i) && !(authOf s).wantReads.contains (k, gm.2.id, i)).map
        (unitBytes gm.2.len)).sum).sum

/-- C1 of core `k` asks for the units that wait, in ascending order, while 1 MiB of read data has room for them (R369). -/
def askHost (s : State) (k : Nat) : State :=
  (((authOf s).wantReads.filter fun w => decide (w.1 = k)).foldl (fun (b : Bool × State) w =>
    let s := b.2
    let c := cmdCore s k w.2.1
    let drop := fun (s : State) => setAuth s { authOf s with wantReads := (authOf s).wantReads.erase w }
    match cmdOf c w.2.1 with
    | none => (b.1, drop s)
    | some m =>
      if b.1 && decide (readHeld s k + unitBytes m.len w.2.2 ≤ c1Buffer) then
        (true, askUnit (drop s) k (gangOf s c.gang).vdid m.id m.lad m.len w.2.2)
      else (false, s)) (true, s)).2

/-- HCOPY.R asks the host for its units (R190, R369). -/
def requestHost (s : State) (k id len : Nat) : State :=
  askHost (setAuth s { authOf s with
    wantReads := (authOf s).wantReads ++ (List.range (unitCount len)).map fun i => (k, id, i) }) k

/-- HCOPY.R and HCOPY.W (R369). -/
def hcopy (write : Bool) (s : State) (fl : Flight) : State :=
  let k := me s
  let c := myCore s
  let sad := (portOf c 0x340).toNat
  let lad := (portOf c 0x341).toNat
  let len := (portOf c 0x342).toNat
  let w := portOf c 0x343
  let tag : BitVec 16 := (portOf c 0x344).setWidth 16
  let s := modMe s fun c => consumeAt c 0x343
  let fs := hcopyFaults s k write sad lad len fl.arrive
  if len = 0 then s
  else if fs ≠ [] then raiseAll s fl hcopyChecks fs
  else
    let st := startOf w fl.arrive
    let n := unitCount len
    let units := List.range n
    let us := unitWrites (hcopyCycle write st) sad len
    let ch := commandCharge c fl c1Reads
    match slipCheck s fl w [0x343] 3 with
    | (s, none) => s
    | (s, some true) =>
      engineResult (if write then s else suppressStamps s k fl.arrive ch us) fl .c1 (hcopyCycle write st (n - 1))
    | (s, some false) =>
      let id := (myCore s).cmdSeq
      let s := setCore s k (addCmd (myCore s) (mkCmd (if write then 4 else 3) st sad lad len tag 0 fl))
      let s := reserveAll s k ch (us.map fun u => (u.cycle, u.addr, u.n, if write then 0 else 1)) 5
      let s := if write then postSpaceChecks s k id fl.arrive st len
        else postAnnouncements (requestHost (reserveStamps s k ch (stampsOf us)) k id len) k id fl.arrive st len
      let s := units.foldl (fun s i =>
        if write then postCore s k (hcopyCycle write st i) phRead (.event (.hcopyWUnit k id i))
        else postCore s k (hcopyCycle write st i) phWrite (.event (.hcopyRUnit k id i))) s
      engineResult s fl .c1 (hcopyCycle write st (n - 1))

/-- HCOPY.R (R369). -/
def execHcopyR (m : Mv) (s : State) : Out := trigger (.hcopyR m) m s fun fl s => hcopy false s fl

/-- HCOPY.W (R369). -/
def execHcopyW (m : Mv) (s : State) : Out := trigger (.hcopyW m) m s fun fl s => hcopy true s fl

/-- Bytes that C1 of core `k` holds for host memory (R369). -/
def heldBytes (s : State) (k : Nat) : Nat := (((authOf s).posted.filter fun w => decide (w.core = k)).map (·.data.length)).sum

/-- Whether an HCOPY.W unit will find write space at its read cycle `r`, judged now; in a freeze the units of the frozen cycle
itself are still to be read (R369). -/
def spaceFor (s : State) (k id unit r n : Nat) : Bool :=
  let y := gangOf s (cmdCore s k id).gang
  let x := if y.mode = .running then y.gcyc + 1 else y.gcyc
  let ahead := (((cmdCore s k id).cmds.filter fun m => decide (m.kind = 4)).map fun m =>
    (((List.range (unitCount m.len)).filter fun j =>
      decide (x ≤ hcopyCycle true m.start j ∧ hcopyCycle true m.start j ≤ r ∧ ¬(m.id = id ∧ j = unit))).map
        (unitBytes m.len)).sum).sum
  decide (heldBytes s k + ahead + n ≤ c1Buffer)

/-- HCOPY_HOLD_ANNOUNCEMENT: a unit whose data has not come, or whose space will be lacking, announces a hold at its cycle
(R28, R190, R369). -/
def execHcopyHoldAnnouncement (core cmd unit : Nat) (s : State) : Out :=
  match cmdOf (coreOf s core) cmd with
  | none => .next s
  | some m =>
    let g := (coreOf s core).gang
    if m.kind = 4 then
      let r := hcopyCycle true m.start unit
      .next (if spaceFor s core cmd unit r (unitBytes m.len unit) then s
        else announceHold s g r .hcopy (unitHoldKey core cmd unit))
    else
      .next (if (unitBuf m unit).isSome then s
        else announceHold s g (hcopyCycle false m.start unit) .hcopy (unitHoldKey core cmd unit))

/-- HOST_READ_DATA_ARRIVAL: the unit's data is in C1, and a hold taken for it is released; an error completion gives zeros, a
poisoned tile and a HOSTERR record (R190, R313). [log 43 DEDUCED] -/
def execHostReadDataArrival (core cmd unit : Nat) (data : List (BitVec 8)) (ok : Bool) (s : State) : Out :=
  match cmdOf (cmdCore s core cmd) cmd with
  | none => .next s
  | some m =>
    let g := (cmdCore s core cmd).gang
    let n := unitBytes m.len unit
    let bs := if ok then (data ++ leBytes n 0).take n else leBytes n 0
    let s := modCmdCore s core cmd fun c => setCmd c (setBuf m unit bs (!ok))
    let s := if ok then s else postEvent s (gangPart s g) .program evHostErr [m.lad + 256 * unit] []
    .next (releaseHolds s g .hcopy (unitHoldKey core cmd unit))

/-- HCOPY_R_UNIT: the unit is written at its stated cycle; one whose data no hold could cover desynchronises the gang; C1 has
room for another then (R190, R369). -/
def execHcopyRUnit (core cmd unit : Nat) (s : State) : Out :=
  match cmdOf (coreOf s core) cmd with
  | none => .next s
  | some m =>
    match unitBuf m unit with
    | none => .next (desync s (coreOf s core).gang)
    | some (bs, _) =>
      let s := engineWrite s core (m.sad + 256 * unit) bs (agentId 5 (coreOf s core).idx) (unitStamps m m.sad unit)
        (m.replayed.contains unit)
      .next (askHost (closeUnit s core m unit) core)

/-- HCOPY_W_UNIT: the unit is read and posted; with no space in the buffer the gang is desynchronised (R369, R370). A write of
a VF in ERROR is discarded with a HOSTERR record (R313, R323). -/
def execHcopyWUnit (core cmd unit : Nat) (s : State) : Out :=
  match cmdOf (coreOf s core) cmd with
  | none => .next s
  | some m =>
    let x := gcycOf s core
    let g := (coreOf s core).gang
    let a := m.sad + 256 * unit
    let n := unitBytes m.len unit
    if isVoided (coreOf s core) x a n then .next (closeUnit s core m unit)
    else if c1Buffer < heldBytes s core + n then .next (desync s g)
    else
      let p := (gangOf s g).vdid
      let r := engineRead s core a n
      let s := raceScratchRead s core a n
      if dmaBlocked s p then .next (closeUnit (postEvent s p .program evHostErr [m.lad + 256 * unit] []) core m unit)
      else
        let (f, s) := takeFresh s
        let s := setAuth s { authOf s with
          posted := (authOf s).posted ++ [⟨core, p, m.lad + 256 * unit, r.1, x, r.2, Config.hostRefuses f⟩] }
        .next (closeUnit (postPod s (s.pod + 1 + Config.hostLatency f) phUntimed (.hostWriteSpaceFree core n)) core m unit)

/-- Release the holds of HCOPY.W units of core `k` that now find space (R369). -/
def releaseSpace (s : State) (k : Nat) : State :=
  ((c1Cmds s k).filter fun gm => decide (gm.2.kind = 4)).foldl (fun s gm =>
    (List.range (unitCount gm.2.len)).foldl (fun s i =>
      let g := gm.1
      let m := gm.2
      if hasHold s g .hcopy (unitHoldKey k m.id i) && spaceFor s k m.id i (hcopyCycle true m.start i) (unitBytes m.len i) then
        releaseHolds s g .hcopy (unitHoldKey k m.id i)
      else s) s) s

/-- HOST_WRITE_SPACE_FREE: one of the core's posted writes, which one being open (R370), is complete in host memory and its
space free; holds that waited for it are released (R369). [log 19 DESIGN CHOICE] -/
def execHostWriteSpaceFree (core : Nat) (_bytes : Nat) (s : State) : Out :=
  let mine := (authOf s).posted.filter fun w => decide (w.core = core)
  let (f, s) := takeFresh s
  match mine[Config.hostLatency f % mine.length]? with
  | none => .next (releaseSpace s core)
  | some w =>
    let s := landHostWrite (setAuth s { authOf s with posted := (authOf s).posted.erase w }) w
    .next (releaseSpace s core)

/-! IMCOPY. -/

/-- Units of 192 bytes (R90). -/
def imUnits (len : Nat) : Nat := (len + 191) / 192

def imBytes (len i : Nat) : Nat := min 192 (len - 192 * i)

/-- IMCOPY (R90, R371). -/
def execImcopy (m : Mv) (s : State) : Out :=
  trigger (.imcopy m) m s fun fl s =>
    let k := me s
    let c := myCore s
    let sad := (portOf c 0x340).toNat
    let len := (portOf c 0x342).toNat
    let w := portOf c 0x343
    let dst := (portOf c 0x345).toNat
    let s := modMe s fun c => consumeAt c 0x343
    let fs := (if len % 24 = 0 ∧ len ≤ 393216 ∧ dst + len / 24 ≤ 16384 ∧ engineSpan sad len 32 then [] else [(0x08, len, 0)]) ++
      (if engineClaimed c sad len fl.arrive then [] else [(0x0A, sad, 0)])
    if len = 0 then s
    else if fs ≠ [] then raiseAll s fl imcopyChecks fs
    else
      let st := startOf w fl.arrive
      let ch := commandCharge c fl c1Reads
      match slipCheck s fl w [0x343] 3 with
      | (s, some false) =>
        let id := (myCore s).cmdSeq
        let s := setCore s k { addCmd (myCore s) (mkCmd 5 st sad 0 len 0 dst fl) with isdirty := true }
        let units := List.range (imUnits len)
        let s := reserveAll s k ch (units.map fun i => (st + 1 + i, sad + 192 * i, imBytes len i, 0))
        units.foldl (fun s i =>
          postDeed (postDeed s k (st + 1 + i) phRead (.imUnit id i false)) k (st + 3 + i) phWrite (.imUnit id i true)) s
      | (s, _) => s

/-- Write bundles of 24 bytes from index `n` on. -/
def putBundles (c : Core) (n : Nat) (bs : List Byte) : Nat → Core
  | 0 => c
  | j + 1 =>
    let c := putBundles c n bs j
    let c := setBundle c (n + j) (BitVec.ofNat 192 (leNat ((bs.drop (24 * j)).take 24)))
    { c with badBundles := c.badBundles.filter fun b => b ≠ n + j }

/-- An IMCOPY unit is read at s + 1 + u and written at s + 3 + u (R90). -/
def imUnit (s : State) (k cmd unit : Nat) (write : Bool) : State :=
  match cmdOf (coreOf s k) cmd with
  | none => s
  | some m =>
    if write then
      modCore s k fun c =>
        let c := match unitBuf m unit with
          | some (bs, _) => putBundles c (m.dst + 8 * unit) bs (bs.length / 24)
          | none => c
        if unit + 1 = imUnits m.len then endCmd c m.id else c
    else
      let a := m.sad + 192 * unit
      let n := imBytes m.len unit
      if isVoided (coreOf s k) (gcycOf s k) a n then s
      else
        let r := engineRead s k a n
        modCore (raceScratchRead s k a n) k fun c => setCmd c (setBuf m unit r.1 r.2)

end Sys2Proof.Machine
end

