-- ==== Sys2Proof/Machine/Fabric.lean ====
section
/-! DEFINITION. The Sytre fabric: routes (R230, R231), links (R232, R233), the operations of FB (R234 to R237, R363 to R365),
arrivals and their errors (R238 to R242), and the flight save area (R261, R262). -/

namespace Sys2Proof.Machine

/-! FB's operand ports. -/

def fbLink : Nat := 0x380
def fbSad : Nat := 0x381
def fbLen : Nat := 0x382
def fbAt : Nat := 0x383
def fbPath : Nat := 0x384
def fbRad : Nat := 0x385
def fbTag : Nat := 0x386
def fbAop : Nat := 0x387

/-- The ports that fix an operation's own accesses, and those that the check of a code reads, `route` those of its route's
(R234, R460). -/
def fbReads (kind : Nat) : List Nat := if kind = 14 then [fbAt] else [fbSad, fbLen, fbAt]

def fbChecks (kind : Nat) (route : List Nat) : Nat → List Nat
  | 0x08 => if kind = 14 then [fbRad] else if kind = 11 then [fbSad, fbLen] else [fbSad, fbLen, fbRad]
  | 0x0A => [fbSad, fbLen]
  | 0x16 => [fbAop]
  | 0x17 => [fbRad]
  | 0x18 => route
  | _ => []

/-- Payload cycles of `b` bytes (R226). -/
def serCycles (b : Nat) : Nat := (b + 92) / 93

/-- Fields of fb.link and fb.rad (R230). -/
def hopsOut (w : Word) : Nat := w.toNat % 32
def hopsBack (w : Word) : Nat := w.toNat / 32 % 32
def radAddr (w : Word) : Nat := w.toNat % 2 ^ 22
def radCore (w : Word) : Nat := w.toNat / 2 ^ 22 % 1024
def radChip (w : Word) : Nat := w.toNat / 2 ^ 32 % 4096

/-- HOP_j for j from `i` on, `n` of them (R230). -/
def pathHops (w : Word) (i n : Nat) : List Nat := (List.range n).map fun j => w.toNat / 16 ^ (i + j) % 16

/-- A walk's chips and links, and the chip it ends at. -/
def walk (f : Fabric) : Nat → List Nat → List (Nat × Nat) × Nat
  | c, [] => ([], c)
  | c, n :: ns =>
    let r := walk f (stepChip f c n) ns
    ((c, n) :: r.1, r.2)

/-- Position of the first hop whose LINKST.UP is 0 (R231). [log 22 DEDUCED, 41 DESIGN CHOICE] -/
def downHop (f : Fabric) (hs : List (Nat × Nat)) : Option Nat :=
  ((List.range hs.length).zip hs).find? (fun p => !upOf f p.2.1 p.2.2) |>.map (·.1)

/-- The sum of λ over hops (R187). [log 41 DESIGN CHOICE] -/
def hopsLatency (f : Fabric) (hs : List (Nat × Nat)) : Nat := (hs.map fun h => (trainedOf f h.1 h.2).1).sum

/-- A return path: explicit, or the reverse of the outbound one (R230). -/
def backHops (f : Fabric) (out : List (Nat × Nat)) (no nr chip : Nat) (path : Word) : List (Nat × Nat) × Nat :=
  if nr = 0 then walk f chip (out.reverse.map fun h => reverseLink h.2) else walk f chip (pathHops path no nr)

/-- The hop that a route's walk fails at, with subcode 3 (R231). [log 22 DEDUCED] -/
def routeFault (f : Fabric) (no nr chip : Nat) (path : Word) (twoWay : Bool) : Option Nat :=
  let out := walk f f.chip (pathHops path 0 no)
  if no = 0 ∨ 16 < no ∨ (twoWay ∧ 16 < no + nr) ∨ !inPod f chip then some 0
  else
    match downHop f out.1 with
    | some j => some j
    | none =>
      if out.2 ≠ chip then some (no - 1)
      else if twoWay then
        let back := backHops f out.1 no nr chip path
        match downHop f back.1 with
        | some j => some (no + j)
        | none => if back.2 ≠ f.chip then some (no + back.1.length - 1) else none
      else none

/-- The ports that the failing check of a route reads: HOP_0's owner, or of the walk's checks the first that fails (R231, R460).
[log 22 DEDUCED] -/
def routePorts (f : Fabric) (no nr chip : Nat) (path : Word) (twoWay : Bool) : List Nat :=
  if (routeFault f no nr chip path twoWay).isNone then [fbPath]
  else if no = 0 ∨ 16 < no ∨ (twoWay ∧ 16 < no + nr) then [fbLink]
  else if !inPod f chip then [fbRad]
  else if (downHop f (walk f f.chip (pathHops path 0 no)).1).isSome then [fbLink, fbPath]
  else [fbLink, fbPath, fbRad]

/-- A chip's DEADPEER bit (R229). -/
def deadPeer (f : Fabric) (id : Nat) : Bool := tget false f.dead id

/-! Link occupation (R232). -/

/-- Uses of a link of the gang that meet a span of cycles. -/
def usesMeeting (l : LinkState) (g first last : Nat) : List Occupied :=
  l.used.filter fun u => decide (u.gang = g ∧ u.first ≤ last ∧ first ≤ u.last)

/-- Whether use `a` yields to `b`: accepted later; at hop 0 in one cycle issued later, or in one cycle by a higher key (R232).
Two accepted in one cycle, one at hop 0 and one at a later hop, compare as uses of the kind that claims the link second. [log 49
DEDUCED] -/
def yields (hop0 : Bool) (a b : Occupied) : Bool :=
  decide (b.accept < a.accept) ||
    (decide (b.accept = a.accept) &&
      (if hop0 then decide (b.issue < a.issue ∨ b.issue = a.issue ∧ b.key < a.key) else decide (b.key < a.key)))

/-- Keep of a link's uses what can still meet one at cycle `x`. -/
def useLink (s : State) (n x : Nat) (u : Occupied) : State :=
  let f := fabOf s
  setFab s { f with links := tmod {} f.links n fun l =>
    { l with used := (l.used.filter fun o => !decide (o.gang = u.gang ∧ o.last + 8192 < x)) ++ [u] } }

/-- The bundle and slot of the command that a core issued at `issue` to start at `first`. -/
def issuerOf (c : Core) (issue first : Nat) : Nat × Nat :=
  ((c.cmds.find? fun m => decide (11 ≤ m.kind ∧ m.issue = issue ∧ m.start = first)).map fun m => (m.bundle, m.slot)).getD
    (c.curBundle, 0)

/-! The operations' triggers. -/

/-- Kinds of FB's commands among the engine commands: 11 FSEND, 12 FPUT, 13 FGET, 14 FATOM. -/
def fabPayload (kind len : Nat) : Nat := if kind = 11 ∨ kind = 12 then len else 0

/-- Cycles for which a command's frame occupies a link (R232, R235). -/
def fabOccupies (kind len : Nat) (poisonFrame : Bool) : Nat :=
  if kind = 14 then 1 else if poisonFrame then 0 else serCycles (fabPayload kind len)

/-- Operand and region faults of an operation (R234). -/
def fabFaults (s : State) (k kind : Nat) (t : Nat) : List (Nat × Nat × Nat) :=
  let c := coreOf s k
  let sad := (portOf c fbSad).toNat
  let len := (portOf c fbLen).toNat
  let addr := radAddr (portOf c fbRad)
  let aop := (portOf c fbAop).toNat % 16
  if kind = 14 then
    (if addr % 4 = 0 then [] else [(0x08, 0, 0)]) ++ (if aop ≤ 9 then [] else [(0x16, 0, aop)])
  else
    let okLen := decide (len % 32 = 0 ∧ 32 ≤ len ∧ len ≤ 4096)
    (if okLen && engineSpan sad len 32 then
        (if (kind = 12 ∨ kind = 13) ∧ engineSpan addr len 32 = false then [(0x08, 0, 0)] else [])
      else [(0x08, 0, 0)]) ++
    (if engineClaimed c sad len t then [] else [(0x0A, sad, 0)])

/-- Dead peer, route and ownership faults (R231): 0x17 stands in place of 0x18, and subcode 3 in place of 1. [log 49 DEDUCED] -/
def routeFaults (s : State) (k kind : Nat) : List (Nat × Nat × Nat) :=
  let c := coreOf s k
  let f := fabOf s
  let w := portOf c fbLink
  let chip := radChip (portOf c fbRad)
  let twoWay := kind == 13 || kind == 14
  if deadPeer f chip then [(0x17, 0, 0)]
  else
    match routeFault f (hopsOut w) (hopsBack w) chip (portOf c fbPath) twoWay with
    | some j => [(0x18, j, 3)]
    | none => if ownsLink s c.gang ((portOf c fbPath).toNat % 16) then [] else [(0x18, 0, 1)]

/-- A frame is discarded at this chip: DROP goes to its sender and its destination (R233, R235). [log 22 DEDUCED] -/
def dropFrame (s : State) (fr : Frame) (hop sub : Nat) : State :=
  let d := Instr.drop fr.gang fr.srcChip fr.srcCore fr.departed hop sub
  let s := leekSend s fr.gang fr.srcChip d
  if fr.dstChip = fr.srcChip then s else leekSend s fr.gang fr.dstChip d

/-- A use of link `n` that yields to another: a command that has not departed takes 0x18 on its bundle, and a frame that has
left is discarded with a DROP (R231 to R233). -/
def dropUse (s : State) (n : Nat) (o : Occupied) : State :=
  let f := fabOf s
  let s := setFab s { f with links := tmod {} f.links n fun l => { l with used := l.used.erase o } }
  let k := o.key % 1024
  let mine := fun m : EngineCmd => decide (11 ≤ m.kind ∧ m.issue = o.issue ∧ m.start = o.first)
  if o.hop = 0 ∧ o.key / 1024 = chipOf s ∧ (coreOf s k).cmds.any mine then
    let w := issuerOf (coreOf s k) o.issue o.first
    let s := { s with agenda := s.agenda.erase ⟨.gang o.gang, o.first, phTrigger, some k, .deed (.countDepart o.gang n)⟩ }
    modCore s k fun c =>
      { addRaise c ⟨0x18, o.issue, w.1, w.2, 0, 2, 0⟩ with cmds := c.cmds.filter fun m => !mine m }
  else
    match (fabOf s).wire.find? fun w => decide (w.1 = n ∧ w.2.gang = o.gang ∧ w.2.srcChip * 1024 + w.2.srcCore = o.key ∧
        w.2.enter = o.first + (trainedOf f f.chip n).1) with
    | some w => dropFrame (setFab s { fabOf s with wire := (fabOf s).wire.erase w }) w.2 o.hop 2
    | none => s

/-- An accepted use of HOP_0 against those accepted before (R231, R232): a use of this cycle that yields to it is dropped
and its bundle faulted; otherwise this trigger is. -/
def takeHop0 (s : State) (fl : Flight) (n : Nat) (u : Occupied) (width kind : Nat) : State × Bool :=
  if width = 0 then (s, true)
  else
    let meet := usesMeeting (linkAt (fabOf s) n) u.gang u.first u.last
    if meet.any fun o => !yields true o u then
      (raiseAll s fl (fun _ => if kind = 14 then [fbPath, fbAt] else [fbPath, fbLen, fbAt]) [(0x18, 0, 2)], false)
    else (useLink (meet.foldl (fun s o => dropUse s n o) s) n (gcycOf s (me s)) u, true)

/-- Work of an accepted operation: its scratch reads, the first perhaps in this very cycle, and its departure (R74, R187). A frame
of several units leaves as the model holds it with its last unit's read; it is counted at its departure (R260). -/
def postSend (s : State) (k id kind st sad len n : Nat) (ch : Nat × Nat × Nat) : State :=
  let s := postDeed s k st phTrigger (.countDepart (coreOf s k).gang n)
  if kind = 11 ∨ kind = 12 then
    let units := List.range (unitCount len)
    let s := reserveAll s k ch (units.map fun i => (st + i, sad + 256 * i, unitBytes len i, 0))
    let s := settleLate s k (mkAccess st sad (unitBytes len 0) 0 ch false)
    let s := units.foldl (fun s i => postDeed s k (st + i) phRead (.sendRead id i)) s
    postDeed s k (st + unitCount len - 1) phTrigger (.depart id)
  else postDeed s k st phTrigger (.depart id)

/-- Another operation of FB completes on core `k` in cycle `x`: an FPEER, or an FATOM whose old word comes then (R64, R235). -/
def fbCompletes (s : State) (k x : Nat) : Bool :=
  ((fabOf s).awaited.any fun a => decide (a.core = k ∧ a.result = some x)) || s.agenda.any fun j =>
    match j.core, j.task with
    | some k', .event (.operationComplete _ .fb _ _) => decide (k' = k ∧ j.due = x)
    | _, _ => false

/-- The outbound and return hops of an operation, with their latencies (R187, R230). -/
def routeOf (f : Fabric) (link path rad : Word) : List (Nat × Nat) × List (Nat × Nat) :=
  let out := (walk f f.chip (pathHops path 0 (hopsOut link))).1
  (out, (backHops f out (hopsOut link) (hopsBack link) (radChip rad) path).1)

/-- The local cycle of an FGET's unit 0, or from which an FATOM's old word is at fb.r (R187, R235). -/
def replyCycle (f : Fabric) (r : List (Nat × Nat) × List (Nat × Nat)) (kind st len : Nat) : Nat :=
  st + hopsLatency f r.1 + hopsLatency f r.2 + if kind = 13 then 1 + serCycles len else 5

/-- A suppressed FGET stamps the local tiles that its units would have finished (R35, R239). [log 48 DEDUCED] -/
def suppressGet (s : State) (fl : Flight) (k st sad len : Nat) : State :=
  let c := coreOf s k
  let f := fabOf s
  let e := replyCycle f (routeOf f (portOf c fbLink) (portOf c fbPath) (portOf c fbRad)) 13 st len
  suppressStamps s k fl.arrive (commandCharge c fl [fbSad, fbLen, fbAt]) (unitWrites (e + ·) sad len)

/-- A response is awaited: missing if it is absent by its cycle (R241); an FATOM's may not complete with another operation of
FB (R64). -/
def awaitReply (s : State) (fl : Flight) (k id kind st len : Nat) : State :=
  let c := coreOf s k
  let f := fabOf s
  let rad := portOf c fbRad
  let r := routeOf f (portOf c fbLink) (portOf c fbPath) rad
  let e := replyCycle f r kind st len
  let a := st + hopsLatency f r.1 + 1
  let s := if kind = 14 ∧ fbCompletes s k e then modCore s k fun c => raiseFor c fl [fbAt, fbLink, fbPath] 4 0 0 0 else s
  let w : Awaited := ⟨f.tickets, k, st, radChip rad, radCore rad, if kind = 14 then a + 3 else a, if kind = 14 then some e else none⟩
  let s := setFab s { fabOf s with tickets := f.tickets + 1, awaited := f.awaited ++ [w] }
  let s := modCore s k fun c => { c with cmds := c.cmds.map fun m => if m.id = id then { m with bufs := [(f.tickets, [], false)] } else m }
  postGang s c.gang (e + leadOf s k) phHub (.missingArrival k (radChip rad) e f.tickets)

/-- FSEND, FPUT, FGET and FATOM (R234, R363). A suppressed one sends a poison frame at its departure, a suppressed FATOM a
flagged request (R35, R239). [log 48 DEDUCED, 49 DEDUCED] -/
def fabTrigger (kind : Nat) (s : State) (fl : Flight) : State :=
  let k := me s
  let c := myCore s
  let w := portOf c fbAt
  let len := if kind = 14 then 4 else (portOf c fbLen).toNat
  let sad := (portOf c fbSad).toNat
  let s := modMe s fun c => consumeAt c fbAt
  let fs := fabFaults s k kind fl.arrive ++ routeFaults s k kind
  if fs ≠ [] then
    let l := portOf c fbLink
    let route := routePorts (fabOf s) (hopsOut l) (hopsBack l) (radChip (portOf c fbRad)) (portOf c fbPath) (kind == 13 || kind == 14)
    raiseAll s fl (fbChecks kind route) fs
  else
    let st := startOf w fl.arrive
    let n := (portOf c fbPath).toNat % 16
    match slipCheck s fl w [fbAt] 4 with
    | (s, none) => s
    | (s, some sup) =>
      let s := if sup ∧ kind = 13 then suppressGet s fl k st sad len else s
      if sup ∧ st < fl.arrive then s
      else
        let width := fabOccupies kind len sup
        let u : Occupied := ⟨c.gang, st, st + width - 1, fl.arrive, fl.issue, chipOf s * 1024 + k, 0⟩
        match takeHop0 s fl n u width kind with
        | (s, false) => s
        | (s, true) =>
          let ch := commandCharge (myCore s) fl (fbReads kind)
          let id := (myCore s).cmdSeq
          let m := mkCmd kind st (if kind = 14 then (portOf c fbAop).toNat % 16 else sad)
            (portOf c fbRad).toNat (if kind = 14 then (portOf c fbLen).toNat else len) ((portOf c fbTag).setWidth 16)
            (portOf c fbPath).toNat fl
          let s := setCore s k (addCmd (myCore s) { m with suppressed := sup, skew := (portOf c fbLink).toNat })
          let s := if sup ∧ kind ≠ 14 then
              postDeed (postDeed s k st phTrigger (.countDepart c.gang n)) k st phTrigger (.depart id)
            else postSend s k id kind st sad len n ch
          if kind = 14 ∨ kind = 13 ∧ !sup then awaitReply s fl k id kind st len else s

/-- FSEND (R234, R235). -/
def execFsend (m : Mv) (s : State) : Out := trigger (.fsend m) m s fun fl s => fabTrigger 11 s fl

/-- FPUT (R234, R235). -/
def execFput (m : Mv) (s : State) : Out := trigger (.fput m) m s fun fl s => fabTrigger 12 s fl

/-- FGET (R234, R235). -/
def execFget (m : Mv) (s : State) : Out := trigger (.fget m) m s fun fl s => fabTrigger 13 s fl

/-- FATOM (R234, R235). -/
def execFatom (m : Mv) (s : State) : Out := trigger (.fatom m) m s fun fl s => fabTrigger 14 s fl

/-- A unit of a send is read; the poison latch is taken at the departure (R239). [log 42 DEDUCED] -/
def sendRead (s : State) (k cmd unit : Nat) : State :=
  match cmdOf (coreOf s k) cmd with
  | none => s
  | some m =>
    let a := m.sad + 256 * unit
    let n := unitBytes m.len unit
    let c := coreOf s k
    let r := if isVoided c (gcycOf s k) a n then (leBytes n 0, true) else engineRead s k a n
    let p := r.2 || (unit == 0 && c.poison)
    modCore (raceScratchRead s k a n) k fun c => setCmd c (setBuf m unit r.1 p)

/-- Put a frame on a link of this chip (R260). -/
def putWire (s : State) (n : Nat) (fr : Frame) : State := setFab s { fabOf s with wire := (fabOf s).wire ++ [(n, fr)] }

/-- Count a departed frame, in the flight save area's header too (R260, R261). -/
def countSent (s : State) (g n : Nat) : State :=
  writeFsaHeader (modGang s g fun x => { x with sent := tmod 0 x.sent n (· + 1) }) g

/-- The frame of a command (R235, R239, R261). A suppressed FSEND, FPUT or FGET leaves as a poison frame, its kind kept as the
aop. [log 48 DEDUCED] -/
def frameOf (s : State) (k : Nat) (m : EngineCmd) : Frame :=
  let f := fabOf s
  let c := coreOf s k
  let link := BitVec.ofNat 64 m.skew
  let path := BitVec.ofNat 64 m.dst
  let rad := BitVec.ofNat 64 m.lad
  let r := routeOf f link path rad
  let two := m.kind = 13 ∨ m.kind = 14
  let quiet := m.suppressed && m.kind != 14
  let first := (r.1.head?.map fun h => (trainedOf f h.1 h.2).1).getD 0
  let last := (r.1.getLast?.map (·.2)).getD 0
  let poison := m.bufs.any fun b => decide (m.kind < 13) && b.2.2
  { kind := if quiet then .poison else if m.kind = 11 then .send else if m.kind = 12 then .put
      else if m.kind = 13 then .getRequest else .atomRequest
    gang := c.gang, srcChip := f.chip, srcCore := c.idx, dstChip := radChip rad, dstCore := radCore rad
    addr := radAddr rad, len := if m.kind = 14 then 4 else m.len, tag := m.tag
    data := if m.kind < 13 ∧ !m.suppressed then
        ((List.range (unitCount m.len)).map fun i => ((unitBuf m i).map (·.1)).getD []).flatten
      else []
    poison := poison || (decide (12 < m.kind) && c.poison) || m.suppressed, uncorr := false
    aop := BitVec.ofNat 4 (if quiet then m.kind else m.sad), operand := BitVec.ofNat 32 m.len
    compare := BitVec.ofNat 32 (m.len / 2 ^ 32)
    arrive := m.start + hopsLatency f r.1 + (if two then 1 else serCycles m.len)
    link := Fin.ofNat 16 (reverseLink last), route := (r.1.drop 1).map fun h => Fin.ofNat 16 h.2, enter := m.start + first
    back := if two then r.2.map fun h => Fin.ofNat 16 h.2 else [], backLat := if two then hopsLatency f r.2 else 0
    home := m.sad, departed := m.start, ticket := (m.bufs.head?.map (·.1)).getD 0, again := false }

/-- A frame leaves on HOP_0; no frame departs once the gang is to be switched out (R258, R260). [log 42 DEDUCED] -/
def depart (s : State) (k cmd : Nat) : State :=
  match cmdOf (coreOf s k) cmd with
  | none => s
  | some m => modCore (putWire s (m.dst % 16) (frameOf s k m)) k fun c => endCmd c cmd

/-- FRECV (R236, R364); a suppressed one stamps the tiles its frame would have finished (R35). [log 48 DEDUCED] -/
def execFrecv (m : Mv) (s : State) : Out :=
  trigger (.frecv m) m s fun fl s =>
    let k := me s
    let c := myCore s
    let sad := (portOf c fbSad).toNat
    let len := (portOf c fbLen).toNat
    let w := portOf c fbAt
    let rad := portOf c fbRad
    let s := modMe s fun c => consumeAt c fbAt
    let fs := fabFaults s k 11 fl.arrive ++
      (if deadPeer (fabOf s) (radChip rad) then [(0x17, 0, 0)] else []) ++
      (if 16 ≤ c.recvs.length then [(0x19, 0, 3)] else [])
    if fs ≠ [] then raiseAll s fl (fbChecks 11 []) fs
    else
      match slipCheck s fl w [fbAt] 4 with
      | (s, some false) =>
        let f := fabOf s
        let e := if w = noStart then none else some w.toNat
        let r : Recv := ⟨radChip rad, radCore rad, sad, len, (portOf c fbTag).setWidth 16, e, fl.issue, fl.bundle, fl.slot,
          f.tickets⟩
        let s := setFab s { f with tickets := f.tickets + 1 }
        let s := modMe s fun c => { c with recvs := c.recvs ++ [r] }
        match e with
        | some x => postGang s c.gang (x + leadOf s k) phHub (.missingArrival k r.chip x r.ticket)
        | none => s
      | (s, some true) =>
        suppressStamps s k fl.arrive (commandCharge (myCore s) fl [fbSad, fbLen, fbAt]) (unitWrites (w.toNat + ·) sad len)
      | (s, none) => s

/-- FPEER: a chip's status at fb.r from t + 2 (R237); it consumes fb.at as every trigger of FB does (R61), and may not complete
with an FATOM (R64). -/
def execFpeer (m : Mv) (s : State) : Out :=
  trigger (.fpeer m) m s fun fl s =>
    let f := fabOf s
    let s := modMe s fun c => consumeAt c fbAt
    let clash := f.awaited.any fun a => decide (a.core = me s ∧ a.result = some (fl.arrive + 2))
    let s := if clash then modMe s fun c => raiseFor c fl [] 4 0 0 0 else s
    let id := (scalarIn .z fl.val).toNat % 4096
    let pod := inPod f id
    let v := bitAt (deadPeer f id) 0 + bitAt (decide (id = f.chip) || (coreGang s (me s)).members.contains id) 1 +
      bitAt pod 2 + (if pod then leekLatency f f.chip id % 2 ^ 16 * 2 ^ 16 else 0)
    completeWord s fl .fb 2 (BitVec.ofNat 64 v) 0

/-! Forwarding and drops. -/

/-- Cycles a frame occupies a link (R232, R235). -/
def frameOccupies (fr : Frame) : Nat :=
  match fr.kind with
  | .send => serCycles fr.len
  | .put => serCycles fr.len
  | .getRequest => 0
  | .getResponse => serCycles fr.len
  | .atomRequest => 1
  | .atomResponse => 1
  | .poison => 0

/-- The row of the slot before the present one, as the matrix now stands. [log 22 DEDUCED] -/
def rowBefore (s : State) : Nat :=
  let a := authOf s
  rowAt a ((s.pod / 2 ^ a.slotExp - 1) * 2 ^ a.slotExp)

/-- Link ownership on a chip that a frame passes, whether or not its gang runs there: a gang without a run here whose frames
pass in a slot of a row that does not give it the link has run on from the slot before (R233). [log 22 DEDUCED] -/
def ownsPassing (s : State) (g n : Nat) : Bool :=
  if (gangOf s g).hasRun then ownsLink s g n
  else
    let holder := tget 0 (fabOf s).shares (16 * rowNow s + n)
    shareNames s (rowNow s) n g || shareNames s (rowBefore s) n g && !(decide (0 < holder) && onSet (gangOf s (holder - 1)))

/-- A frame takes a link of this chip at a later hop (R232, R233): the hop's subcode if it is dropped; uses that yield to it
are dropped. [log 7 DESIGN CHOICE] -/
def takeHop (s : State) (fr : Frame) (n hop : Nat) : State × Option Nat :=
  if ownsPassing s fr.gang n = false then (s, some 1)
  else
    let width := frameOccupies fr
    let u : Occupied := ⟨fr.gang, fr.enter, fr.enter + width - 1, fr.enter, 0, fr.srcChip * 1024 + fr.srcCore, hop⟩
    let meet := usesMeeting (linkAt (fabOf s) n) u.gang u.first u.last
    if width = 0 then (s, none)
    else if meet.any fun o => !yields false o u then (s, some 2)
    else (useLink (meet.foldl (fun s o => dropUse s n o) s) n fr.enter u, none)

/-- FRAME_FORWARD: the frame goes on over `link`, or is discarded with a DROP (R232, R233); one that meets a link that is down
is lost (R228). -/
def execFrameForward (f : Frame) (hop : Nat) (link : Fin 16) (s : State) : Out :=
  if !(linkAt (fabOf s) link.val).up then .next s
  else
    match takeHop s f link.val hop with
    | (s, some sub) => .next (dropFrame s f hop sub)
    | (s, none) =>
      let lam := (trainedOf (fabOf s) (chipOf s) link.val).1
      .next (putWire s link.val { f with route := f.route.drop 1, enter := f.enter + lam })

/-- A DROP of an awaited FATOM's reply: the reply is lost, and its issuer consumes poison in the cycle from which the old word
would have been present, or now if that is past (R238, R365). [log 44 DEDUCED] -/
def loseReply (s : State) (gang chip core departure : Nat) : State :=
  match (fabOf s).awaited.find? fun a => decide (a.result.isSome ∧ a.chip = chip ∧ a.peer = core ∧ a.answerAt = departure) &&
      decide ((coreOf s a.core).gang = gang) with
  | some a => postDeed s a.core (max (gcycOf s a.core) (a.result.getD 0)) (phIssue - 5) .replyLost
  | none => s

/-- DROP: the sender's core takes 0x18, or 0x1D for subcode 4, in the cycle of arrival; the frame's receiver no longer counts
it as missing, and an FATOM whose reply it was takes 0x1A (R233, R235, R241, R365). [log 44 DEDUCED] -/
def execDrop (gang chip core departure hop subcode : Nat) (s : State) : Out :=
  let s := setFab s { fabOf s with drops := (fabOf s).drops ++ [(gang, chip, core, departure)] }
  let s := loseReply s gang chip core departure
  if chip = chipOf s then
    match coreAt s gang core with
    | some k =>
      .next (modCore s k fun c => raiseNow c (gcycOf s k) (if subcode = 4 then 0x1D else 0x18) (BitVec.ofNat 64 hop)
        (BitVec.ofNat 64 subcode) 0)
    | none => .next s
  else .next s

/-! Arrivals. -/

/-- Room for an FSA record in the area, whose header takes 4,096 bytes (R261). -/
def fsaFits (x : Gang) (fr : Frame) : Bool := decide (x.fsaUsed + recordSize fr ≤ x.fsaSize)

/-- Capture a frame as a record; one that does not fit is FSA overflow, charged to the frozen bundle (R262). [log 59 DESIGN
CHOICE, 83 DEDUCED] -/
def capture (s : State) (fr : Frame) : State :=
  let x := gangOf s fr.gang
  if fsaFits x fr then addFsa s fr
  else
    let s := setGang s fr.gang { x with overflow := true }
    let s := postEvent s x.vdid .resource evFsa [fr.gang] []
    match coreAt s fr.gang fr.dstCore with
    | some k => modCore s k fun c => raiseNow c x.gcyc 0x22 0 0 0
    | none => s

/-- Bytes of frames that a link port keeps; each keeps up to 512 KiB through a freeze (R242). -/
def keptBytes (s : State) (link : Fin 16) : Nat :=
  (((fabOf s).kept.filter fun fr => fr.link = link).map fun fr => fr.data.length).sum

/-- Capture is on from the switch freeze's F until T_swap (R262). -/
def capturing (x : Gang) : Bool :=
  match x.vote.stage with
  | .draining => true
  | .voted => true
  | .swapping => true
  | _ => false

/-- The kind of event a frame's arrival is. -/
def arrivalOf (fr : Frame) : Instr :=
  match fr.kind with
  | .send => .fsendArrival fr
  | .put => .fputArrival fr
  | .getRequest => .fgetRequestArrival fr
  | .getResponse => .fgetResponseArrival fr
  | .atomRequest => .fatomRequestArrival fr
  | .atomResponse => .fatomResponseArrival fr
  | .poison => .poisonFrameArrival fr

/-- A frame performs at its ARRIVE gang cycle (R187). -/
def scheduleFrame (s : State) (fr : Frame) : State := postGang s fr.gang fr.arrive (framePhase fr) (arrivalOf fr)

/-- A frame ended at this member and performed; a re-injected one moves from CAPT to RECV (R260, R263). -/
def countRecv (s : State) (fr : Frame) : State :=
  writeFsaHeader (modGang s fr.gang fun x =>
    { x with
      recv := tmod 0 x.recv fr.link.val (· + 1)
      capt := if fr.again then tmod 0 x.capt fr.link.val (· - 1) else x.capt }) fr.gang

/-- An unexpected arrival: discarded, 0x19 subcode 1 (R240). -/
def unexpected (s : State) (k : Nat) : State := modCore s k fun c => raiseNow c (gcycOf s k) 0x19 0 1 0

/-- A frame that arrives while its gang is not switched in here: the core of the gang's core set that its CORE names is its
target, and takes the fault if a run holds it (R240). [log 83 DEDUCED] -/
def stray (s : State) (fr : Frame) : State :=
  match (setCores s (gangOf s fr.gang).coreset)[fr.dstCore]? with
  | some k => if (coreGang s k).hasRun then unexpected s k else s
  | none => s

/-- What becomes of a frame that reaches this chip: it performs now (the `perform` given), waits for its gang cycle, is kept by
a link port through a freeze, or is captured (R240, R242, R262). One whose CORE the gang's context does not have here goes back
as a DROP with subcode 4 (R235); with no run of the gang switched in here it is unexpected, and so is one behind its gang cycle
(R240). [log 83 DEDUCED] -/
def arrival (s : State) (fr : Frame) (perform : Nat → State → State) : State :=
  let x := gangOf s fr.gang
  let s := setFab s { fabOf s with kept := (fabOf s).kept.erase fr }
  if (ctxOf s x.ctx).gang ≠ fr.gang + 1 ∨ x.hasRun ∧ x.cores ≤ fr.dstCore then dropFrame s fr 0 4
  else if x.hasRun ∧ capturing x then capture s fr
  else
    match coreAt s fr.gang fr.dstCore with
    | none => stray s fr
    | some k =>
      if x.mode = .running ∧ x.gcyc = fr.arrive then countRecv (perform k s) fr
      else if x.mode = .held then
        if keptBytes s fr.link + fr.data.length ≤ 512 * 1024 then
          scheduleFrame (setFab s { fabOf s with kept := (fabOf s).kept ++ [fr] }) fr
        else capture s fr
      else if x.gcyc < fr.arrive then scheduleFrame s fr
      else unexpected s k

/-- The target core runs the gang: it serves the run, which is switched in, whether it issues, waits, has executed `EXIT` or is
idle without CODE (R240, R409); a core that a fault froze does until the teardown reaches it (R286). -/
def targetRuns (s : State) (fr : Frame) (k : Nat) : Bool := decide ((coreOf s k).gang = fr.gang)

/-- Bytes of unit `i` of a frame. -/
def frameUnitBytes (fr : Frame) (i : Nat) : List Byte := (fr.data.drop (256 * i)).take (unitBytes fr.len i)

/-- Unit `i` of a frame is written, with the stamps that fall with it: 0xFFFF for a flagged or uncorrectable frame (R238,
R239); units of a re-injected frame are watchpoint class 5 (R292). [log 77 DEDUCED] -/
def writeUnit (s : State) (k : Nat) (fr : Frame) (i : Nat) : State :=
  let wclass := if fr.again then 5 else 4
  let t : BitVec 16 := if fr.poison || fr.uncorr then 0xFFFF else fr.tag
  let w : ScratchWrite := ⟨fr.addr + 256 * i, frameUnitBytes fr i, wclass, agentId 2 fr.srcChip, fr.srcCore, 3⟩
  foreignWrite s k { w := w, stamps := (lastTiles fr.addr fr.len i).map fun tl => (tl, t), src := frameKey fr, xcopy := false }

/-- The units of a frame at gang cycles ARRIVE + i (R187). -/
def writeUnits (s : State) (k : Nat) (fr : Frame) : State :=
  let s := writeUnit s k fr 0
  (List.range (unitCount fr.len)).foldl (fun s i =>
    if i = 0 then s
    else post s ⟨.gang fr.gang, fr.arrive + i, phForeign (frameKey fr), none, .deed (.frameUnit fr i)⟩) s

/-- The receive that a frame matches: a timed one with E its cycle before an open one, the first armed; of another length, the
frame is unmatched (R236). -/
def matchRecv (c : Core) (fr : Frame) : Option Recv :=
  let mine := c.recvs.filter fun r => decide (r.chip = fr.srcChip ∧ r.core = fr.srcCore)
  let r := match mine.find? fun r => decide (r.expected = some fr.arrive) with
    | some r => some r
    | none => mine.find? fun r => r.expected.isNone
  r.filter fun r => decide (r.len = fr.len)

/-- An FSEND frame performs (R236, R240). -/
def performSend (f : Frame) (k : Nat) (s : State) : State :=
  match matchRecv (coreOf s k) f with
  | none => unexpected s k
  | some r =>
    let s := modCore s k fun c => { c with recvs := c.recvs.erase r }
    writeUnits s k { f with addr := r.sad, tag := r.tag }

/-- FSEND_ARRIVAL (R236, R240). -/
def execFsendArrival (f : Frame) (s : State) : Out := .next (arrival s f (performSend f))

/-- An FPUT frame performs (R235, R240). -/
def performPut (f : Frame) (k : Nat) (s : State) : State :=
  if targetRuns s f k then writeUnits s k f else unexpected s k

/-- FPUT_ARRIVAL (R235, R240). -/
def execFputArrival (f : Frame) (s : State) : Out := .next (arrival s f (performPut f))

/-- Unit `i` of a response's data is read at the target: it counts in the bank groups' limits as a foreign access (R72, R363). -/
def readUnit (s : State) (k : Nat) (fr : Frame) (i : Nat) : State :=
  foreignAccess s k (fr.addr + 256 * i) (unitBytes fr.len i) 0 (agentId 2 fr.srcChip) fr.srcCore (frameKey fr) false

/-- The first link of a request's return route. -/
def backLink (fr : Frame) : Nat := (fr.back.head?.map (·.val)).getD 0

/-- The response to a request, which departs at `d` from this chip's station (R235). -/
def responseOf (s : State) (fr : Frame) (kind : FrameKind) (d arrive : Nat) (data : List Byte) (poison : Bool)
    (old flags : BitVec 32) : Frame :=
  { fr with kind := kind, srcChip := fr.dstChip, srcCore := fr.dstCore, dstChip := fr.srcChip, dstCore := fr.srcCore
            addr := fr.home, data := data, poison := poison, operand := old, compare := flags, again := false, arrive := arrive
            route := fr.back.drop 1, enter := d + (trainedOf (fabOf s) (chipOf s) (backLink fr)).1, back := [], departed := d }

/-- A response takes the first link of its return route at its departure `d`: none if it yields to another frame there, which
is told by a DROP (R232, R233). -/
def takeBack (s : State) (fr r : Frame) (d : Nat) : State × Bool :=
  match takeHop s { r with enter := d } (backLink fr) 0 with
  | (s, some sub) => (dropFrame s r 0 sub, false)
  | (s, none) => (s, true)

/-- An FATOM's response leaves in cycle `d`; it keeps its request's flag, and shows the target's poison latch (R235, R239).
[log 42 DEDUCED] -/
def sendResponse (s : State) (k : Nat) (fr : Frame) (d arrive : Nat) (data : List Byte) (poison : Bool)
    (old flags : BitVec 32) : State :=
  let r := responseOf s fr .atomResponse d arrive data (poison || fr.poison || (coreOf s k).poison) old flags
  match takeBack s fr r d with
  | (s, true) => putWire s (backLink fr) r
  | (s, false) => s

/-- Count a response at its departure, if it can leave on its return route (R233, R260). -/
def countResponse (s : State) (fr : Frame) : State :=
  let n := (fr.back.head?.map (·.val)).getD 0
  if ownsPassing s fr.gang n then countSent s fr.gang n else s

/-- The cycle at which an FGET's response performs (R187). -/
def getAnswerAt (f : Frame) : Nat := f.arrive + f.backLat + serCycles f.len

/-- An FGET request performs: unit `i` is read at ARRIVE + i, and the response departs at ARRIVE, when it takes its link and
shows the target's poison latch (R185, R187, R232, R235, R239, R363). The model holds the response until its last unit is read;
one that could not leave has no return route. [log 42 DEDUCED] -/
def performGetRequest (f : Frame) (k : Nat) (s : State) : State :=
  if targetRuns s f k then
    let f := { f with data := [], poison := f.poison || (coreOf s k).poison }
    let t := takeBack (countResponse s f) f (responseOf s f .getResponse f.arrive (getAnswerAt f) [] f.poison 0 0) f.arrive
    let f := if t.2 then f else { f with back := [] }
    post t.1 ⟨.gang f.gang, f.arrive, phForeign (frameKey f), none, .deed (.frameUnit f 0)⟩
  else unexpected s k

/-- FGET_REQUEST_ARRIVAL (R235, R363). -/
def execFgetRequestArrival (f : Frame) (s : State) : Out := .next (arrival s f (performGetRequest f))

/-- An FGET's response with its data, unless it could not leave. -/
def sendData (s : State) (fr : Frame) : State :=
  if fr.back = [] then s
  else putWire s (backLink fr) (responseOf s fr .getResponse fr.arrive (getAnswerAt fr) fr.data fr.poison 0 0)

/-- Unit `i` of an FGET's response is read: its bytes as they stand, kept in the frame that the next unit carries; a poisoned
tile flags the response (R73, R185, R239). With the last unit the response goes. -/
def getUnit (s : State) (k : Nat) (fr : Frame) (i : Nat) : State :=
  let s := readUnit s k fr i
  let r := engineRead s k (fr.addr + 256 * i) (unitBytes fr.len i)
  let fr := { fr with data := fr.data ++ r.1, poison := fr.poison || r.2 }
  if i + 1 < unitCount fr.len then
    post s ⟨.gang fr.gang, fr.arrive + i + 1, phForeign (frameKey fr), none, .deed (.frameUnit fr (i + 1))⟩
  else sendData s fr

/-- A unit of an arrived frame at its target: written, or for an FGET request read (R187, R363); of a poison frame only the
tiles are stamped (R239). -/
def frameUnit (s : State) (fr : Frame) (i : Nat) : State :=
  match coreAt s fr.gang fr.dstCore with
  | none => s
  | some k =>
    match fr.kind with
    | .getRequest => getUnit s k fr i
    | .poison =>
      foreignWrite s k
        { w := ⟨fr.addr, [], 4, agentId 2 fr.srcChip, fr.srcCore, 3⟩, stamps := (tilesOf fr.addr fr.len).map fun t => (t, 0xFFFF)
          src := frameKey fr, xcopy := false }
    | _ => writeUnit s k fr i

/-- The response a frame answers is no longer awaited. -/
def answered (s : State) (fr : Frame) : State :=
  setFab s { fabOf s with awaited := (fabOf s).awaited.filter fun a => a.ticket ≠ fr.ticket }

/-- An FGET response performs (R363). -/
def performGetResponse (f : Frame) (k : Nat) (s : State) : State := writeUnits (answered s f) k f

/-- FGET_RESPONSE_ARRIVAL: local scratch is written and stamped (R363). -/
def execFgetResponseArrival (f : Frame) (s : State) : Out := .next (arrival s f (performGetResponse f))

/-- An FATOM request performs: its sub-bank is taken from A + 1 to A + 3, and the claim is judged with the write at A + 3 (R79);
a poisoned or uncorrectable request is not performed (R191, R235, R238, R239). -/
def performAtomRequest (f : Frame) (k : Nat) (s : State) : State :=
  if targetRuns s f k = false then unexpected s k
  else if f.poison ∨ f.uncorr then
    post s ⟨.gang f.gang, f.arrive + 3, phTrigger, none, .deed (.fatomWrite { f with data := [] } 0)⟩
  else
    [1, 2, 3].foldl (fun s d =>
      post s ⟨.gang f.gang, f.arrive + d, phForeign (frameKey f), none, .deed (.fatomWrite { f with len := d } 0)⟩) s

/-- FATOM_REQUEST_ARRIVAL (R235). -/
def execFatomRequestArrival (f : Frame) (s : State) : Out := .next (arrival s f (performAtomRequest f))

/-- The steps of an FATOM at its target: the word is read at A + 1, its sub-bank held at A + 2, and the new word written at
A + 3, when the response departs with the old one (R82, R187, R191). The frame's `len` counts the step; `old` is what A + 1
read. -/
def fatomWrite (s : State) (fr : Frame) (old : BitVec 32) : State :=
  match coreAt s fr.gang fr.dstCore with
  | none => s
  | some k =>
    let x := gcycOf s k
    if fr.poison ∨ fr.uncorr then
      sendResponse (countResponse s fr) k { fr with len := 4 } x (x + 1 + fr.backLat) [] true 0 0
    else
      match fr.len with
      | 1 =>
        let s := foreignAccess s k fr.addr 4 0 (agentId 2 fr.srcChip) fr.srcCore (frameKey fr) false
        let old := BitVec.ofNat 32 (leNat (scratchBytes (coreOf s k) fr.addr 4))
        -- the write of A + 3 takes the word read now
        { s with agenda := s.agenda.map fun j =>
            if j.task = .deed (.fatomWrite { fr with len := 3 } 0) then
              { j with task := .deed (.fatomWrite { fr with len := 3 } old) }
            else j }
      | 2 => foreignAccess s k fr.addr 4 2 (agentId 2 fr.srcChip) fr.srcCore (frameKey fr) false
      | _ =>
        let r := atomicOp fr.aop.toNat old fr.operand fr.compare
        let w : ScratchWrite := ⟨fr.addr, if r.2.1 then leBytes 4 r.1.toNat else [], if fr.again then 5 else 4, agentId 2 fr.srcChip, fr.srcCore, 3⟩
        let s := if r.2.1 then foreignWrite s k { w := w, stamps := [], src := frameKey fr, xcopy := false }
          else foreignAccess s k fr.addr 4 2 (agentId 2 fr.srcChip) fr.srcCore (frameKey fr) false
        sendResponse (countResponse s fr) k { fr with len := 4 } x (x + 1 + fr.backLat) (leBytes 4 old.toNat) false old
          (r.2.2.setWidth 32)

/-- An FATOM response performs: the old word is at fb.r and an AFADD's flags are set; a poisoned or uncorrectable reply is
poison consumed (R235, R238, R239). -/
def performAtomResponse (f : Frame) (k : Nat) (s : State) : State :=
  let s := answered s f
  if f.poison ∨ f.uncorr then modCore s k fun c => raiseNow c (gcycOf s k) 0x1A 0 0 0
  else
    let s := modCore s k fun c => setResult c .fb (f.operand.setWidth 2048)
    postDeed s k f.arrive phEnd (.flags (f.compare.setWidth 6))

/-- FATOM_RESPONSE_ARRIVAL (R235). -/
def execFatomResponseArrival (f : Frame) (s : State) : Out := .next (arrival s f (performAtomResponse f))

/-- The stamps of a poison frame fall with the operation's last unit (R239). [log 48 DEDUCED] -/
def postPoison (s : State) (f : Frame) : State :=
  let i := unitCount f.len - 1
  post s ⟨.gang f.gang, f.arrive + i, phForeign (frameKey f), none, .deed (.frameUnit f i)⟩

/-- A poison frame performs: nothing is written; the tiles the operation would have written here are stamped 0xFFFF at the
cycle of its last unit: an FSEND's at the receive it matches, an FPUT's at ADDR, an FGET's none (R239). [log 48 DEDUCED] -/
def performPoison (f : Frame) (k : Nat) (s : State) : State :=
  match f.aop.toNat with
  | 11 =>
    match matchRecv (coreOf s k) f with
    | some r => postPoison (modCore s k fun c => { c with recvs := c.recvs.erase r }) { f with addr := r.sad }
    | none => unexpected s k
  | 13 => s
  | _ => postPoison s f

/-- POISON_FRAME_ARRIVAL (R239). -/
def execPoisonFrameArrival (f : Frame) (s : State) : Out := .next (arrival s f (performPoison f))

/-- What an arriving frame does at its target. -/
def performFrame (f : Frame) (k : Nat) (s : State) : State :=
  match f.kind with
  | .send => performSend f k s
  | .put => performPut f k s
  | .getRequest => performGetRequest f k s
  | .getResponse => performGetResponse f k s
  | .atomRequest => performAtomRequest f k s
  | .atomResponse => performAtomResponse f k s
  | .poison => performPoison f k s

/-- FSA_REINJECT: a record performs at gang cycle ARRIVE as the frame would have (R263). -/
def execFsaReinject (gang : Nat) (f : Frame) (s : State) : Out :=
  .next (arrival s { f with gang := gang, again := true } (performFrame { f with gang := gang, again := true }))

/-! Missing arrivals and dead peers. -/

/-- Set a chip's DEADPEER bit (R241). -/
def setDead (s : State) (chip : Nat) : State := setFab s { fabOf s with dead := tset false (fabOf s).dead chip true }

/-- The DROP of a missing frame: of an awaited response, its request's or its own; of a receive, the first of its sender that
departed before E (R241). [log 44 DEDUCED] -/
def dropOf (f : Fabric) (g idx : Nat) (recv : Option Recv) (aw : Option Awaited) : Option (Nat × Nat × Nat × Nat) :=
  match recv, aw with
  | some r, _ => f.drops.find? fun d =>
      decide (d.1 = g ∧ d.2.1 = r.chip ∧ d.2.2.1 = r.core) && (r.expected.map fun e => decide (d.2.2.2 < e)).getD true
  | none, some a => f.drops.find? fun d =>
      decide (d = (g, f.chip, idx, a.departed)) || decide (d = (g, a.chip, a.peer, a.answerAt))
  | none, none => none

/-- MISSING_ARRIVAL: at E + H a receive still armed, or a response still awaited, and no DROP for it: the sender is dead, every
member is told, and the core takes 0x23 (R241). -/
def execMissingArrival (core chip expected ticket : Nat) (s : State) : Out :=
  let c := coreOf s core
  let f := fabOf s
  let recv := c.recvs.find? fun r => decide (r.ticket = ticket)
  let aw := f.awaited.find? fun a => decide (a.ticket = ticket)
  let s := setFab s { f with awaited := f.awaited.filter fun a => a.ticket ≠ ticket }
  let s := modCore s core fun c => { c with recvs := c.recvs.filter fun r => decide (r.ticket ≠ ticket) }
  if recv.isNone ∧ aw.isNone then .next s
  else
    match dropOf f c.gang c.idx recv aw with
    | some d => .next (setFab s { fabOf s with drops := (fabOf s).drops.erase d })
    | none =>
      let s := setDead s chip
      let s := leekMembers s c.gang (.deadpeer c.gang chip f.chip)
      let s := postEvent s (gangPart s c.gang) .platform evDeadPeer [chip, expected] []
      .next (modCore s core fun c => raiseNow c (gcycOf s core) 0x23 (BitVec.ofNat 64 chip) 0 0)

/-- DEADPEER received: the named bit is set (R241). -/
def execDeadpeer (_gang dead _reporter : Nat) (s : State) : Out := .next (setDead s dead)

/-- DEADPEER_CLEAR: only L0, through the partition authority, clears bits (R241). -/
def execDeadpeerClear (chips : List Nat) (s : State) : Out :=
  .next (setFab s { fabOf s with dead := chips.foldl (fun t c => tset false t c false) (fabOf s).dead })

/-! Links (R227, R228). -/

/-- A gang whose shares include link `n`, in any row (R228). -/
def sharesLink (s : State) (g n : Nat) : Bool :=
  (fabOf s).shares.any fun e => decide (e.1 % 16 = n ∧ e.2 = g + 1)

/-- A gang whose Leek routes from this chip use the pair of link `n` (R243). -/
def leeksOver (s : State) (g n : Nat) : Bool :=
  (others s g).any fun m => (leekHop (fabOf s) (chipOf s) m).any fun l => decide (l / 2 = n / 2)

/-- LINK_DOWN: the link is down and counted, and what waits at its Leek lane goes by the pair's other link; the gangs that share
it, and with its pair member down too those whose Leek routes use the pair, are torn down, and their partitions' logs get the
event (R228, R243, R316, R334, R335). -/
def execLinkDown (link : Fin 16) (s : State) : Out :=
  let n := link.val
  let f := fabOf s
  let s := setFab s { f with links := tmod {} f.links n fun l => { l with up := false } }
  let pair := !(linkAt (fabOf s) (n / 2 * 2)).up && !(linkAt (fabOf s) (n / 2 * 2 + 1)).up
  let hurt := (s.gangs.map (·.1)).filter fun g => sharesLink s g n || (gangOf s g).hasRun && pair && leeksOver s g n
  let s := postPlatform s ((hurt.map (gangPart s)).eraseDups) evLinkDown [n]
  let s := countError s (.link link)
  let s := if (houseOf s).lasting.contains (.link link) then retireUnit s (.link link) else s
  let s := reroute s n
  .next (hurt.foldl (fun s g => if (gangOf s g).hasRun then abortGang s g .platform else s) s)

/-- PCYC is set from an ALIGN frame; what is scheduled in pod time keeps its distance (R227). -/
def alignPod (s : State) (p : Nat) : State :=
  let f := fabOf s
  { setFab s { f with aligned := true, links := f.links.map fun e => (e.1, { e.2 with freeAt := e.2.freeAt + p - s.pod }) } with
    pod := p, agenda := s.agenda.map fun j => if j.clock = .pod then { j with due := j.due + p - s.pod } else j }

/-- μ of the direction in which a link's neighbour sends to this chip (R227). -/
def inboundMu (f : Fabric) (n : Nat) : Nat := (trainedOf f (linkAt f n).nbr (reverseLink n)).2

/-- ALIGN: PCYC is set from the first one to reach a chip that is not the time root; then a link whose frame does not show the
sending pod cycle μ ago is down (R227, R228). -/
def execAlign (link : Fin 16) (origin : Nat) (s : State) : Out :=
  let f := fabOf s
  let p := origin + inboundMu f link.val
  if !(linkAt f link.val).up then .next s
  else if !f.root && !f.aligned then .next (alignPod s p)
  else if s.pod = p then .next s
  else .next (postPod s s.pod phHub (.linkDown link))

/-- LINK_TRAINING: the pod manager fixes λ and μ; a retired link stays down, and a dimension of size 1 has none (R225, R227,
R335). [log 87 DESIGN CHOICE] -/
def execLinkTraining (link : Fin 16) (lam : BitVec 12) (mu : BitVec 12) (nbr : BitVec 12) (s : State) : Out :=
  let f := fabOf s
  if podSize f (linkDim link.val) ≤ 1 then .next s
  else
    .next (setFab s { f with links := tmod {} f.links link.val fun l =>
      { l with lat := lam.toNat, llat := mu.toNat, nbr := nbr.toNat, up := !l.retired && decide (lam.toNat ≠ 0), errs := [] } })

/-- A frame beyond the correction limit arrives on a link; 64 of them in 2^20 cycles take it down (R228). -/
def frameError (s : State) (n : Nat) : State :=
  let f := fabOf s
  let es := (linkAt f n).errs.filter (fun t => decide (s.pod < t + 2 ^ 20)) ++ [s.pod]
  let s := setFab s { f with links := tmod {} f.links n fun l => { l with errs := es } }
  if 64 ≤ es.length ∧ (linkAt f n).up then postPod s s.pod phHub (.linkDown (Fin.ofNat 16 n)) else s

/-- The pod manager places the chip in the pod: its id, the sizes of the dimensions, and whether it is the time root (R224,
R227). [log 41 DESIGN CHOICE] -/
def podPlace (s : State) (chip s0 s1 s2 s3 : Nat) (root : Bool) : State :=
  setFab s { fabOf s with chip := chip, size0 := s0, size1 := s1, size2 := s2, size3 := s3, root := root }

/-- The pod manager tells λ and μ of a link of another chip, and whether it is up (R227, R231). [log 41 DESIGN CHOICE] -/
def podLink (s : State) (chip n lam mu : Nat) (up : Bool) : State :=
  let f := fabOf s
  setFab s { f with trained := tset (0, 0) f.trained (16 * chip + n) (lam, mu), downLinks := tset false f.downLinks (16 * chip + n) (!up) }

/-- The pod manager tells who holds a link of another chip in a row: gang id + 1 (R233, R257). [log 41 DESIGN CHOICE] -/
def podShare (s : State) (chip row n share : Nat) : State :=
  let f := fabOf s
  setFab s { f with farShares := tset 0 f.farShares (16 * (64 * chip + row) + n) share }

/-! A switch's freeze. -/

/-- The rest of a frame that departed before the freeze: its remaining units are read as they stand, and it goes (R187, R258,
R260). [log 42 DEDUCED] -/
def finishSend (s : State) (k t : Nat) (m : EngineCmd) : State :=
  let s := { s with agenda := s.agenda.filter fun j =>
    !(decide (j.core = some k) && (decide (j.task = .deed (.depart m.id)) ||
      (List.range (unitCount m.len)).any fun i => decide (j.task = .deed (.sendRead m.id i)))) }
  let s := ((List.range (unitCount m.len)).filter fun i => decide (t ≤ m.start + i)).foldl (fun s i => sendRead s k m.id i) s
  depart s k m.id

/-- An FGET request whose response has departed before the freeze: the remaining units are read, and the response goes. -/
def finishGet (s : State) (k : Nat) (fr : Frame) (i : Nat) : State :=
  let r := engineRead s k (fr.addr + 256 * i) (fr.len - 256 * i)
  sendData s { fr with data := fr.data ++ r.1, poison := fr.poison || r.2 }

/-- At a switch's freeze every frame that has departed leaves whole: no frame departs at or after T_halt, and each one before
it ends within D (R258, R260). [log 42 DEDUCED] -/
def finishDepartures (s : State) (g : Nat) : State :=
  let t := (gangOf s g).frozenAt
  let s := (gangCores s g).foldl (fun s k =>
    ((coreOf s k).cmds.filter fun m => decide ((m.kind = 11 ∨ m.kind = 12) ∧ m.start < t)).foldl
      (fun s m => finishSend s k t m) s) s
  let gets := s.agenda.filterMap fun j =>
    match j.task with
    | .deed (.frameUnit fr i) => if fr.kind = .getRequest ∧ fr.gang = g then some (j, fr, i) else none
    | _ => none
  gets.foldl (fun s x =>
    match coreAt s g x.2.1.dstCore with
    | some k => finishGet { s with agenda := s.agenda.erase x.1 } k x.2.1 x.2.2
    | none => s) s

end Sys2Proof.Machine
end

