-- ==== Sys2Proof/Machine/Mailbox.lean ====
section
/-! DEFINITION. Step mailboxes: the core's operations (R377 to R382), hart stores (R276, R277), snapshots and their holds (R279,
R280), budgets and episodes (R270, R275, R282, R321). -/

namespace Sys2Proof.Machine

/-! Readiness (R274) and the holds of snapshots. -/

def grpctlOf (s : State) (g : Nat) : Word := tget 0 (envOf s).grpctl g

/-- A pair's bit in GRPACTIVE (R278). -/
def pairActive (s : State) (p : Nat) : Bool := (tget 0 (envOf s).grpactive (p / 64)).getLsbD (p % 64)

/-- An observation is ready (R274): FULL, final and with CHECK a DONE rewarded, or its pair inactive. -/
def mbReady (s : State) (p : Nat) : Bool :=
  let st := mbStatus s p obsHdr
  !pairActive s p || st == 1 ||
    (mbFinal st && !(st == 3 && (grpctlOf s (p / 64)).getLsbD 2 && !(mbFlags s p obsHdr).testBit 2))

def groupPairs (g : Nat) : List Nat := (List.range 64).map (64 * g + ·)

def groupReady (s : State) (g : Nat) : Bool := (groupPairs g).all (mbReady s)

/-- What a snapshot's hold is charged to: the core and the group. -/
def snapKey (k g : Nat) : Nat := k + 1024 * g

/-- Release the snapshot holds whose groups are ready now (R279). -/
def wakeSnaps (s : State) : State :=
  (s.gangs.map (·.1)).foldl (fun s g =>
    ((gangOf s g).holds.filter fun h =>
      decide (h.cause = .mbsnap ∧ h.released = none ∧ h.core < 2 ^ 20) && groupReady s (h.core / 1024)).foldl
        (fun s h => releaseHolds s g .mbsnap h.core) s) s

/-! The core's operations (R377 to R381). -/

/-- The pair of a context mailbox index, none outside the grant (R271). -/
def mbPair (s : State) (g m : Nat) : Option Nat := (mailGroupsOf s (gangOf s g).ctx)[m / 64]?.map fun q => 64 * q + m % 64

/-- The SY ports that fix a mailbox command's accesses, and those that the check of a code reads (R377, R460). -/
def mbReads : List Nat := [0x3C0, 0x3C1, 0x3C2]

def mbChecks (code : Nat) : List Nat := if code = 0x1C then [] else [0x3C0, 0x3C1]

def mbSad (c : Core) : Nat := (portOf c 0x3C0).toNat % 2 ^ 22
def mbTag (c : Core) : BitVec 16 := BitVec.ofNat 16 ((portOf c 0x3C0).toNat / 2 ^ 32)
def mbLen (c : Core) : Nat := (portOf c 0x3C1).toNat % 2 ^ 13
def mbTimed (c : Core) : Bool := (portOf c 0x3C1).getLsbD 13

/-- The start of a command (R377). -/
def mbStart (c : Core) (t : Nat) : Nat := if mbTimed c then (portOf c 0x3C2).toNat else t

/-- The slip check of a timed command (R33, R35): none a fault, else whether it is suppressed. -/
def mbSlip (s : State) (fl : Flight) : State × Option Bool :=
  let c := myCore s
  if mbTimed c then
    if (portOf c 0x3C2).toNat < fl.arrive then slipCheck s fl (portOf c 0x3C2) [0x3C1, 0x3C2] 5 else (s, some c.suppress)
  else (s, some false)

/-- SAD and LEN obey R377. -/
def mbSpanOk (c : Core) : Bool := engineLen (mbLen c) 4096 && engineSpan (mbSad c) (mbLen c) 32

/-- The snapshot that stands in the cycle in which a bundle issues, if it is of context group `j` (R379, R381). -/
def snapFor (c : Core) (issue j : Nat) : Option (Table Byte) :=
  ((c.snaps.find? fun e => decide (e.1 ≤ issue)).filter fun e => decide (e.2.1 = j)).map (·.2.2)

/-- Accept a mailbox command: kind 9 MBSEND, 10 MBRECV; `lad` is the pair and `dst` the snapshot entry's ACTIVE and STATUS.
[log 20 DEDUCED, 51 DEDUCED] -/
def mbAccept (s : State) (fl : Flight) (kind p dst : Nat) : State :=
  let k := me s
  let c := myCore s
  let st := mbStart c fl.arrive
  let id := c.cmdSeq
  let n := unitCount (mbLen c)
  let ch := commandCharge c fl mbReads
  let sad := mbSad c
  let len := mbLen c
  let s := setCore s k (addCmd c { mkCmd kind st sad p len (mbTag c) dst fl with skew := c.polver.toNat })
  let s := if kind = 9 ∧ fl.arrive < st then postDeed s k st phSample (.mbVersion id) else s
  let s := reserveAll s k ch ((List.range n).map fun i => (st + 4 + i, sad + 256 * i, unitBytes len i, if kind = 9 then 0 else 1))
  let s := if kind = 9 then s
    else reserveStamps s k ch ((List.range n).flatMap fun i => (lastTiles sad len i).map fun t => (st + 4 + i, t))
  let s := (List.range n).foldl (fun s i =>
    if kind = 9 then postDeed s k (st + 4 + i) phRead (.mbRead id i)
    else postDeed (postDeed s k (st + 3 + i) phRead (.mbRead id i)) k (st + 4 + i) phWrite (.mbWrite id i)) s
  postDeed s k (st + 24) phEnd (.mbDone id)

/-- The codes that the span of a mailbox command raises (R378): every check is made, and one code shows its first subcode. [log
51 DEDUCED] -/
def mbSpanFaults (c : Core) (t : Nat) : List (Nat × Nat × Nat) :=
  (if mbSpanOk c then [] else [(0x08, 0, 0)]) ++
  (if engineClaimed c (mbSad c) (mbLen c) t then [] else [(0x0A, mbSad c, 0)])

/-- The subcode of 0x1C that an MBSEND of a pair meets first, 0 for none (R378). -/
def sendRefusal (s : State) : Option Nat → Nat
  | none => 1
  | some p => if !pairActive s p then 5 else if turnOf s p then 2 else 0

/-- The faults of an operation with subcode `sub` of 0x1C, and of its span. -/
def mbFaults (c : Core) (t sub : Nat) : List (Nat × Nat × Nat) :=
  mbSpanFaults c t ++ (if sub = 0 then [] else [(0x1C, 0, sub)])

/-- MBSEND: the checks of R378, then the turn goes to ENV. [log 51 DEDUCED] -/
def mbSend (fl : Flight) (s : State) : State :=
  let c := myCore s
  let pair := mbPair s c.gang ((scalarIn .z fl.val).toNat % 2 ^ 13)
  let fs := mbFaults c fl.arrive (sendRefusal s pair)
  if fs ≠ [] then raiseAll s fl mbChecks fs
  else
    match mbSlip s fl, pair with
    | (s, some false), some p => mbAccept (setTurn s p true) fl 9 p 0
    | (s, _), _ => s

/-- MBSEND (R378). -/
def execMbsend (m : Mv) (s : State) : Out := trigger (.mbsend m) m s mbSend

/-- The word of a snapshot entry that holds STATUS in its low byte and, above byte 15, ACTIVE and READY (R380). -/
def snapWord (snap : Table Byte) (i : Nat) : Nat := leNat (tbytes 0 snap (64 * (i % 64) + 12) 4)

/-- The subcode of 0x1C that an MBRECV meets first, 0 for none: outside the grant, or not ready in the snapshot (R379). -/
def recvRefusal (pair : Option Nat) (w : Option Nat) : Nat :=
  if pair.isNone then 1 else if (w.getD 0).testBit 25 then 0 else 3

/-- MBRECV: the checks of R379; a FULL entry's turn goes to CORE; a suppressed command stamps poison (R382). [log 51 DEDUCED] -/
def mbRecv (fl : Flight) (s : State) : State :=
  let k := me s
  let c := myCore s
  let i := (scalarIn .z fl.val).toNat % 2 ^ 13
  let pair := mbPair s c.gang i
  let w := (snapFor c fl.issue (i / 64)).map fun snap => snapWord snap i
  let fs := mbFaults c fl.arrive (recvRefusal pair w)
  let st := mbStart c fl.arrive
  if fs ≠ [] then raiseAll s fl mbChecks fs
  else
    match mbSlip s fl, pair, w with
    | (s, some true), _, _ =>
      suppressStamps s k fl.arrive (commandCharge (myCore s) fl mbReads) (unitWrites (st + 4 + ·) (mbSad c) (mbLen c))
    | (s, some false), some p, some w =>
      let s := if w.testBit 24 ∧ w % 256 = 1 then setTurn s p false else s
      mbAccept s fl 10 p (bitAt (w.testBit 24) 0 + 2 * (w % 256))
    | (s, _), _, _ => s

/-- MBRECV (R379). -/
def execMbrecv (m : Mv) (s : State) : Out := trigger (.mbrecv m) m s mbRecv

/-- MBSTAT: a word of the snapshot's entry, at sy.r from t + 2 (R381). -/
def execMbstat (m : Mv) (s : State) : Out :=
  trigger (.mbstat m) m s fun fl s =>
    let c := myCore s
    let v := (scalarIn .z fl.val).toNat
    let i := v % 2 ^ 13
    match mbPair s c.gang i, snapFor c fl.issue (i / 64) with
    | none, _ => raiseAll s fl mbChecks [(0x1C, 0, 1)]
    | some _, none => raiseAll s fl mbChecks [(0x1C, 0, 3)]
    | some _, some snap =>
      completeWord s fl .sy 2 (BitVec.ofNat 64 (leNat (tbytes 0 snap (64 * (i % 64) + 8 * (v / 2 ^ 13 % 8)) 8))) 0

/-- MBSNAP at its issue (R380): the test at P(c), a hold in lockstep with a pair not ready, and the copy at c + H. [log 51
DEDUCED] -/
def mbsnapIssue (m : Mv) (s₀ s : State) : State :=
  let k := me s
  let c := coreOf s k
  let x := gcycOf s k
  let n := s.cur.slot
  if guardOf (coreOf s₀ k) m.g then
    let j := (scalarIn .z (readSource (coreOf s₀ k) m.src x c.curBundle n).1).toNat % 128
    match (mailGroupsOf s (coreGang s k).ctx)[j]? with
    | none => setCore s k (addRaise c ⟨0x1C, x, c.curBundle, n, 0, 1, 0⟩)
    | some q =>
      let t := x + leadOf s k
      let s := postCore s k t phDone (.event (.mbsnapCopy k j))
      if !(grpctlOf s q).getLsbD 0 && !groupReady s q && !s.looking then announceHold s c.gang t .mbsnap (snapKey k q) else s
  else s

/-- MBSNAP (R380): its effects follow its issue; the arrival takes the trigger port. -/
def execMbsnap (m : Mv) (s : State) : Out :=
  match s.cur.flight with
  | none => .next (mbsnapIssue m s (launch (.mbsnap m) m false s))
  | some fl => .next (modMe s fun c => noteTrigger 15 c fl)

/-- A header as the snapshot holds it: byte 15 shows ACTIVE and READY (R380). -/
def snapEntry (s : State) (p : Nat) : List Byte :=
  let h := mbBytes s p obsHdr 64
  h.take 15 ++ leBytes 1 (bitAt (pairActive s p) 0 + bitAt (mbReady s p) 1) ++ h.drop 16

/-- MBSNAP_COPY: the 64 headers of the group, and the core's interval (R380). -/
def execMbsnapCopy (core group : Nat) (s : State) : Out :=
  let x := gcycOf s core
  match (mailGroupsOf s (coreGang s core).ctx)[group]? with
  | none => .next s
  | some q =>
    let bs := ((groupPairs q).map (snapEntry s)).flatten
    let s := modCore s core fun c => { c with snaps := (x, group, tputs 0 [] 0 bs) :: c.snaps.take 15 }
    .next (postDeed s core x phAdvance .interval)

/-! What a command does after its trigger. -/

/-- POLVER as it stands at s (R378). -/
def mbVersion (s : State) (k cmd : Nat) : State :=
  modCore s k fun c =>
    match cmdOf c cmd with
    | some m => setCmd c { m with skew := c.polver.toNat }
    | none => c

/-- A span of the pairs' memory holds an uncorrectable error (R220). -/
def mbPoisoned (s : State) (a n : Nat) : Bool := (dramSectors a n).any fun i => tget false (envOf s).bad i

/-- A unit's read: scratch for MBSEND, the observation payload for MBRECV with what ECC finds in it, zeros when inactive (R220,
R378, R379). The aperture has no shadow (R197), and MBRECV's read of it is not checked. [log 98 DESIGN CHOICE] -/
def mbReadUnit (s : State) (k cmd unit : Nat) : State :=
  match cmdOf (coreOf s k) cmd with
  | none => s
  | some m =>
    let n := unitBytes m.len unit
    if m.kind = 9 then
      let a := m.sad + 256 * unit
      if isVoided (coreOf s k) (gcycOf s k) a n then s
      else
        let r := engineRead s k a n
        modCore (raceScratchRead s k a n) k fun c => setCmd c (setBuf m unit r.1 false)
    else
      let a := obsPay + 256 * unit
      let r := if m.dst % 2 = 1 then (mbBytes s m.lad a n, mbPoisoned s (mbKey m.lad a) n) else (leBytes n 0, false)
      modCore s k fun c => setCmd c (setBuf m unit r.1 r.2)

/-- A unit of MBRECV is written, as the core's own write, with its stamps (R379). -/
def mbWriteUnit (s : State) (k cmd unit : Nat) : State :=
  match cmdOf (coreOf s k) cmd with
  | none => s
  | some m =>
    match unitBuf m unit with
    | none => s
    | some (bs, _) => engineWrite s k (m.sad + 256 * unit) bs (agentId 1 (coreOf s k).idx) (unitStamps m m.sad unit)
      (m.replayed.contains unit)

/-- The ENV harts of a pair start its new episode (R321). [log 53 DEDUCED] -/
def beginEpisode (s : State) (p : Nat) : State :=
  (hartsOfPair s p).foldl (fun s h => postPod s s.pod (phUntimed + 1) (.hartStart h)) s

/-- The action is written and FULL (R275). -/
def writeAction (s : State) (p v step len : Nat) (data : List Byte) (cyc : Nat) : State :=
  let s := putMb s p (actHdr + 4) (leBytes 4 step)
  let s := putMb s p (actHdr + 10) (leBytes 2 v ++ leBytes 1 1)
  let s := putMb s p (actHdr + 20) (leBytes 2 len)
  putMb (putMb s p (actHdr + 24) (leBytes 8 cyc)) p actPay data

/-- The observation of a pair without a next episode: KILLED with cause 6 (R275). -/
def noEpisode (s : State) (p v cyc : Nat) : State :=
  let h := leBytes 8 0 ++ leBytes 2 v ++ leBytes 2 v ++ leBytes 1 4 ++ leBytes 1 2 ++ leBytes 1 6 ++ leBytes 9 0 ++
    leBytes 8 cyc ++ leBytes 32 0
  setTurn (putMb (putMb s p obsHdr h) p obsPay (leBytes 4096 0)) p false

/-- The MBSEND row of R275 that the observation's state selects, at s + 24 (R378). -/
def sendAction (s : State) (p v len : Nat) (data : List Byte) (cyc : Nat) : State :=
  let st := mbStatus s p obsHdr
  if st = 0 ∨ mbFinal st then
    let e := tget 0 (envOf s).epnext p
    if e.getLsbD 63 then
      let s := setEnv s { envOf s with epnext := tset 0 (envOf s).epnext p (e &&& 0x7FFFFFFFFFFFFFFF) }
      let s := putMb s p actHdr (leBytes 4 (e.toNat % 2 ^ 24))
      let s := putMb s p (actHdr + 8) (leBytes 2 v)
      let s := putMb s p (obsHdr + 12) (leBytes 3 0)
      beginEpisode (writeAction s p v 0 len data cyc) p
    else noEpisode s p v cyc
  else if (grpctlOf s (p / 64)).getLsbD 1 ∧ v ≠ mbNat s p (actHdr + 8) 2 then mbEnd s p 6 0
  else writeAction s p v (mbNat s p (actHdr + 4) 4 + 1) len data cyc

/-- MBRECV's change of the header at s + 24, by the STATUS of the snapshot it acts on, whatever STATUS is by then (R379). [log 51
DEDUCED] -/
def receiveDone (s : State) (p : Nat) (active : Bool) (status : Nat) : State :=
  if !active then s
  else if status = 1 then putMb s p (obsHdr + 12) (leBytes 1 2)
  else if mbFinal status then
    let fl := mbFlags s p obsHdr
    putMb s p (obsHdr + 13) (leBytes 1 (if fl.testBit 3 then fl else fl + 8))
  else s

/-- The end of a mailbox command at s + 24 (R275, R378, R379). -/
def mbDone (s : State) (k cmd : Nat) : State :=
  match cmdOf (coreOf s k) cmd with
  | none => s
  | some m =>
    let s := if m.kind = 9 then
        sendAction s m.lad m.skew m.len
          ((List.range (unitCount m.len)).map fun i => ((unitBuf m i).map (·.1)).getD (leBytes (unitBytes m.len i) 0)).flatten
          (m.start + 24)
      else receiveDone s m.lad (m.dst % 2 = 1) (m.dst / 2)
    wakeSnaps (modCore s k fun c => endCmd c cmd)

/-! Harts (R270, R276, R277, R282, R321). -/

/-- MBAPER (R273). -/
def mbAper : Nat := 0x4000000000

/-- An episode ends by a kill, a timeout or a rejection, if it is not final already (R275). [log 53 DEDUCED] -/
def killPair (s : State) (p status cause : Nat) : State :=
  if mbFinal (mbStatus s p obsHdr) then s else wakeSnaps (mbEnd s p status cause)

/-- EPISODE of a pair's action header. -/
def episodeOf (t : Table Byte) (p : Nat) : Nat := leNat (tbytes 0 t (mbKey p actHdr) 3)

/-- The partition that holds a hart. -/
def hartPart (s : State) (h : Nat) : Nat :=
  ((authOf s).parts.find? fun p => decide (levelOf p.1 = 2) && tget false p.2.harts h).map (·.1) |>.getD 0

/-- An access fault or another exception of a hart: an ENV hart's episode is killed with cause 3; a CHECKER hart is set to
IDLE, with a HARTFAULT record (R270). -/
def hartFault (s : State) (h : Nat) : State :=
  let x := hartOf s h
  let s := setEnv s { envOf s with faults := (envOf s).faults ++ [h] }
  match x.role with
  | .idle => s
  | .env => if episodeOf (envOf s).bytes x.pair = x.epid.toNat then killPair s x.pair 4 3 else s
  | .checker =>
    postEvent (setHart s h (idleHart s x)) (hartPart s h) .program evHartFault [h] []

/-- A byte of the observation header that a store may cover: all but STATUS and CAUSE (R276). -/
def headerByte (off : Nat) : Bool := decide (obsHdr ≤ off ∧ off < obsHdr + 64 ∧ off ≠ obsHdr + 12 ∧ off ≠ obsHdr + 14)

/-- The stores of R276 that pass, judged on the aperture's bytes `t`. [log 52 DEDUCED] -/
def storeAllowed (s : State) (t : Table Byte) (x : Hart) (p off : Nat) (bs : List Byte) : Bool :=
  let byte := fun o => (tget 0 t (mbKey p o)).toNat
  match x.role with
  | .idle => false
  | .checker =>
    decide (x.chkFirst ≤ p ∧ p < x.chkFirst + x.chkCount ∧ off = obsHdr + 16 ∧ bs.length = 4 ∧ byte (obsHdr + 12) = 3) &&
      !(byte (obsHdr + 13)).testBit 2
  | .env =>
    decide (p = x.pair ∧ episodeOf t p = x.epid.toNat) &&
      (decide (off = actHdr + 12 ∧ bs = [2] ∧ byte (actHdr + 12) = 1) ||
        (turnOf s p && decide (byte (actHdr + 12) = 2 ∧ (byte (obsHdr + 12) = 0 ∨ byte (obsHdr + 12) = 2)) &&
          (decide (off = obsHdr + 12 ∧ (bs = [1] ∨ bs = [3]) ∧ leNat (tbytes 0 t (mbKey p (obsHdr + 20)) 2) ≤ 4096) ||
            (List.range bs.length).all fun i => headerByte (off + i) || decide (obsPay ≤ off + i ∧ off + i < obsPay + 4096))))

/-- The reads of R276 that pass, judged on the aperture's bytes `t`: an ENV hart of its pair in its episode, a CHECKER hart of
the observations of its range. -/
def readAllowed (t : Table Byte) (x : Hart) (p off : Nat) : Bool :=
  match x.role with
  | .idle => false
  | .checker => decide (x.chkFirst ≤ p ∧ p < x.chkFirst + x.chkCount ∧ (obsHdr ≤ off ∧ off < obsHdr + 64 ∨ obsPay ≤ off))
  | .env => decide (p = x.pair ∧ episodeOf t p = x.epid.toNat)

/-- A byte of the aperture as a hart reads it: outside the headers and payloads, 0 (R273). -/
def apertureByte (t : Table Byte) (a : Nat) : Byte := if a % 0x2000 < 64 ∨ a / 0x1000 % 2 = 1 then tget 0 t a else 0

/-- The bytes a passing store leaves: payload, LEN, FLAGS[1:0] and the two STATUS bytes; the rest is discarded (R274, R276). -/
def hartBytes (t : Table Byte) (p : Nat) : Nat → List Byte → Table Byte
  | _, [] => t
  | off, b :: bs =>
    let t := if off = obsHdr + 13 then tmod 0 t (mbKey p off) fun o => o &&& 0xFC ||| b &&& 3
      else if off = obsHdr + 12 ∨ off = actHdr + 12 ∨ off = obsHdr + 20 ∨ off = obsHdr + 21 ∨ obsPay ≤ off then
        tset 0 t (mbKey p off) b
      else t
    hartBytes t p (off + 1) bs

/-- A checker's REWARD sets REWARDED (R283). -/
def rewardBytes (t : Table Byte) (p : Nat) (bs : List Byte) : Table Byte :=
  tmod 0 (tputs 0 t (mbKey p (obsHdr + 16)) bs) (mbKey p (obsHdr + 13)) (· ||| 4)

/-- The mailbox stores of a hart that the hub has received and that are not complete. -/
def hartPending (s : State) (h : Nat) : List Untimed :=
  (dramOf s).pending.filter fun a => decide (a.space = .mailbox ∧ a.agent = agentId 4 h)

/-- The aperture as a hart's own earlier stores will leave it. [log 52 DEDUCED] -/
def hartView (s : State) (h : Nat) : Table Byte :=
  (hartPending s h).foldl (fun t a => hartBytes t (a.addr / 0x4000) (a.addr % 0x4000) a.data) (envOf s).bytes

/-- A window store of the hart that its last `fence w,w` orders is not complete (R277). -/
def fenceHolds (s : State) (h : Nat) : Bool :=
  let before := fun (a : Untimed) => decide (a.agent = agentId 4 h ∧ a.space = .dram ∧ a.tag < (hartOf s h).fenced) && a.write
  (dramOf s).pending.any before || s.agenda.any fun j =>
    match j.task with
    | .event (.untimedAccessReceive a) => before a
    | _ => false

/-- Pod cycles from a count's start to the cycle that acts on an overrun of budget `b`: the first that begins after hart cycle
b + 1, at five hart cycles to four pod cycles (R10, R269, R282). -/
def overrunCycles (b : Nat) : Nat := 4 * (b + 1) / 5 + 1

/-- The pod cycle that acts on an overrun of budget `b` by a count that started at `t`: this one or a later one. -/
def overrunAt (s : State) (b : Word) (t : Nat) : Nat := max s.pod (t + overrunCycles b.toNat)

/-- The watchdogs' events of a hart's running counts (R282). -/
def postOverruns (s : State) (h : Nat) : State :=
  let x := hartOf s h
  let s := match x.stepFrom with
    | some t => if x.stepBudget = 0 then s else postPod s (overrunAt s x.stepBudget t) phHub (.stepBudgetOverrun h)
    | none => s
  match x.epFrom with
  | some t => if x.epBudget = 0 then s else postPod s (overrunAt s x.epBudget t) phHub (.episodeBudgetOverrun h)
  | none => s

/-- STEPUSED starts with a store of TAKEN (R282). -/
def startTaken (s : State) (h : Nat) : State :=
  let x := hartOf s h
  let s := setHart s h { x with stepUsed := 0, stepFrom := some s.pod }
  if x.stepBudget = 0 then s else postPod s (overrunAt s x.stepBudget s.pod) phHub (.stepBudgetOverrun h)

/-- STEPUSED stops at the publish (R282). [log 53 DEDUCED] -/
def stopStep (s : State) (h : Nat) : State :=
  let x := hartOf s h
  setHart s h { x with stepUsed := countNow s x.stepFrom x.stepUsed, stepFrom := none }

/-- A hart's store reaches the hub: checked there, it completes within its bound, after the hart's earlier ones; a publish waits
for the window stores that a fence orders before it, and STEPUSED runs from the store of TAKEN to the publish (R193, R276, R277,
R282). [log 8 DESIGN CHOICE, 52 DEDUCED] -/
def hartStore (s : State) (h p off : Nat) (bs : List Byte) : State :=
  let publishes := (hartOf s h).role = .env ∧ off = obsHdr + 12
  if publishes ∧ fenceHolds s h then
    postPod s (s.pod + 1) phUntimed (.untimedAccessReceive ⟨agentId 4 h, .mailbox, true, mbKey p off, bs, 0, false, 0, 0, false⟩)
  else if storeAllowed s (hartView s h) (hartOf s h) p off bs then
    let s := if off = actHdr + 12 then startTaken s h else if publishes then stopStep s h else s
    let (n, s) := takeFresh s
    let a : Untimed := ⟨agentId 4 h, .mailbox, true, mbKey p off, bs, 0, false, 0, s.pod, false⟩
    let due := s.agenda.foldl (fun m j =>
      match j.task with
      | .event (.untimedWriteComplete b) => if b.space = .mailbox ∧ b.agent = a.agent then max m j.due else m
      | _ => m) (s.pod + 1 + Config.untimedDelay n % 448)
    let s := setDram s { dramOf s with pending := (dramOf s).pending ++ [a] }
    postPod s due phUntimed (.untimedWriteComplete a)
  else hartFault s h

/-- A hart's store completes, if it still passes; a publish copies the action's fields, and a DONE returns the turn (R274 to
R277). [log 52 DEDUCED] -/
def hartComplete (s : State) (a : Untimed) : State :=
  let h := a.agent.toNat % 4096
  let p := a.addr / 0x4000
  let off := a.addr % 0x4000
  let e := envOf s
  if storeAllowed s e.bytes (hartOf s h) p off a.data then
    if (hartOf s h).role = .checker then wakeSnaps (setEnv s { e with bytes := rewardBytes e.bytes p a.data })
    else
      let s := setEnv s { e with bytes := hartBytes e.bytes p off a.data }
      if off = obsHdr + 12 then
        let s := copyStamps s p
        wakeSnaps (if a.data = [3] then setTurn s p false else s)
      else s
  else s

/-- A hart's read reaches the hub: checked there, it completes within the bound of an untimed access (R193, R276). [log 8
DESIGN CHOICE] -/
def hartRead (s : State) (h : Nat) (a : Untimed) : State :=
  if readAllowed (envOf s).bytes (hartOf s h) (a.addr / 0x4000) (a.addr % 0x4000) then
    let (n, s) := takeFresh s
    postPod s (s.pod + 1 + Config.untimedDelay n % 448) phHub (.untimedWriteComplete { a with received := s.pod })
  else hartFault (answerRead s a [] readRefused) h

/-- It completes: it sees the hart's own earlier stores; a sector that ECC cannot correct is an access fault (R220, R273). [log
52 DEDUCED] -/
def hartReadDone (s : State) (a : Untimed) : State :=
  let h := a.agent.toNat % 4096
  let t := ((hartPending s h).filter fun b => decide (b.received ≤ a.received)).foldl
    (fun t b => hartBytes t (b.addr / 0x4000) (b.addr % 0x4000) b.data) (envOf s).bytes
  let bs := (List.range a.len).map fun i => apertureByte t (a.addr + i)
  if mbPoisoned s a.addr a.len then hartFault (answerRead s a bs readPoisoned) h else answerRead s a bs readOk

/-- The address, within its context's linear space, of a hart's access to device memory: the page of its window that it falls
in (R208, R270). -/
def windowAddr (s : State) (x : Hart) (a : Nat) : Option Nat :=
  ((List.range x.winCount).find? fun i =>
    let e := bindAt s x.ctx ((x.winFirst + i) * 2 ^ 21)
    bdV e && bdEnv e && decide (homeAddr e 0 / 2 ^ 21 = a / 2 ^ 21)).map fun i => (x.winFirst + i) * 2 ^ 21 + a % 2 ^ 21

/-- A bound of an episode window, which is 4 KiB-aligned: the bits below count as 0 (R284). [log 86 DESIGN CHOICE] -/
def boundOf (w : Word) : Word := w &&& 0xFFFFFFFFFFFFF000

/-- A span of a hart's address space is in the bounds of its role: the episode window, or the checker's, which is read only
(R270, R283). -/
def inBounds (x : Hart) (write : Bool) (lin n : Nat) : Bool :=
  match x.role with
  | .idle => false
  | .env => decide ((boundOf x.base).toNat ≤ lin ∧ lin + n ≤ (boundOf x.limit).toNat)
  | .checker => !write && decide (x.chkBase.toNat ≤ lin ∧ lin + n ≤ x.chkLimit.toNat)

/-- Whether a hart may make an access to device memory (R270, R283). -/
def hartReaches (s : State) (a : Untimed) : Bool :=
  let x := hartOf s (a.agent.toNat % 4096)
  match windowAddr s x a.addr with
  | some lin => inBounds x a.write lin (if a.write then a.data.length else a.len)
  | none => false

/-- UNTIMED_ACCESS_RECEIVE: a hart's access is checked, an access to a group with no reserved slot or to a blocked page is
refused, which is a hart's access fault, one that finds the group's share full waits, and any other joins the group's queue
(R205, R206, R270, R276). [log 8 DESIGN CHOICE] -/
def execUntimedAccessReceive (a : Untimed) (s : State) : Out :=
  let h := a.agent.toNat % 4096
  let hart := agentClass a.agent = 4
  if a.space = .mailbox then
    if !hart then .next (answerRead s a [] readRefused)
    else .next (if a.write then hartStore s h (a.addr / 0x4000) (a.addr % 0x4000) a.data else hartRead s h a)
  else if hart && !hartReaches s a then .next (hartFault (answerRead s a [] readRefused) h)
  else if hubRefuses s a then
    let s := answerRead s a [] readRefused
    .next (if hart then hartFault s h else s)
  else if shareFull s a then .next (postPod s (s.pod + 1) phUntimed (.untimedAccessReceive a))
  else
    let (n, s) := takeFresh s
    let a := { a with received := s.pod }
    let s := setDram s { dramOf s with pending := (dramOf s).pending ++ [a] }
    .next (postPod s (s.pod + 1 + Config.untimedDelay n % 64) (if a.write then phUntimed else phHub) (.untimedWriteComplete a))

/-- UNTIMED_WRITE_COMPLETE: the access completes at its controller once the controller serves it, or at the mailbox pair (R193,
R206, R276). -/
def execUntimedWriteComplete (a : Untimed) (s : State) : Out :=
  if a.space = .mailbox then
    if a.write then .next (hartComplete (setDram s { dramOf s with pending := (dramOf s).pending.erase a }) a)
    else .next (hartReadDone s a)
  else .next (tryUntimed s a)

/-- HART_TAKEN_STORE: the store of TAKEN; STEPUSED starts (R276, R282). [log 86 DESIGN CHOICE] -/
def execHartTakenStore (hart : Nat) (s : State) : Out :=
  .next (hartStore s hart (hartOf s hart).pair (actHdr + 12) [2])

/-- HART_OBSERVATION_STORE: a store at an offset of the hart's pair (R276). -/
def execHartObservationStore (hart offset : Nat) (data : List (BitVec 8)) (s : State) : Out :=
  .next (hartStore s hart (hartOf s hart).pair offset data)

/-- The store of FULL or DONE (R276). -/
def publish (s : State) (h : Nat) (done : Bool) : State :=
  hartStore s h (hartOf s h).pair (obsHdr + 12) (if done then [3] else [1])

/-- HART_PUBLISH (R276, R277). -/
def execHartPublish (hart : Nat) (done : Bool) (s : State) : Out := .next (publish s hart done)

/-- CHECKER_REWARD_STORE (R283). -/
def execCheckerRewardStore (hart pair : Nat) (reward : BitVec 32) (s : State) : Out :=
  .next (hartStore s hart pair (obsHdr + 16) (leBytes 4 reward.toNat))

/-- HART_EXCEPTION: a U-mode exception (R270). [log 86 DESIGN CHOICE] -/
def execHartException (hart : Nat) (s : State) : Out := .next (hartFault s hart)

/-- A hart's window is still to be scrubbed (R275). -/
def windowBlocked (s : State) (x : Hart) : Bool :=
  (List.range x.winCount).any fun i => (envOf s).blocked.contains (x.ctx, x.winFirst + i)

/-- The registers the supervisor sets at a start: a0 and a1 are x10 and x11, s0 and s2 are x8 and x18 (R321). [log 86 DESIGN
CHOICE] -/
def startRegs (x : Hart) (rs : List (Nat × Nat)) : Table Word :=
  rs.foldl (fun t r => tset 0 t r.1 (BitVec.ofNat 64 r.2)) x.x

/-- HART_START: the start address, the start registers and, for an ENV hart, its episode and its count (R282, R321); an
address outside the window is an access fault at the first fetch. -/
def execHartStart (hart : Nat) (s : State) : Out :=
  let x := hartOf s hart
  match x.role with
  | .idle => .next s
  | .env =>
    if windowBlocked s x then .next s
    else
      let pc := x.base + BitVec.ofNat 64 (4 * x.entry)
      let s := setHart s hart
        { x with
          epid := BitVec.ofNat 24 (episodeOf (envOf s).bytes x.pair), pc := pc
          x := startRegs x [(10, mbAper + x.pair * 0x4000), (11, x.base.toNat)], running := true
          stepUsed := 0, stepFrom := none, epUsed := 0, epFrom := some s.pod }
      let s := if x.epBudget = 0 then s
        else postPod s (overrunAt s x.epBudget s.pod) phHub (.episodeBudgetOverrun hart)
      .next (if x.base ≤ pc ∧ pc < x.limit then s else hartFault s hart)
  | .checker =>
    let pc := x.chkBase + BitVec.ofNat 64 (4 * x.entry)
    let s0 := mbAper + x.chkFirst * 0x4000 + obsHdr
    let s := setHart s hart
      { x with pc := pc, x := startRegs x [(8, s0), (18, s0 + 0x4000 * x.chkCount)], running := true }
    .next (if x.chkBase ≤ pc ∧ pc < x.chkLimit then s else hartFault s hart)

/-- A budget's count that started at `t` is over its budget now (R282). -/
def overBudget (s : State) (b : Word) (t : Option Nat) : Bool :=
  b != 0 && (t.map fun x => decide (x + overrunCycles b.toNat ≤ s.pod)).getD false

/-- STEP_BUDGET_OVERRUN: KILLED with cause 1 (R282). -/
def execStepBudgetOverrun (hart : Nat) (s : State) : Out :=
  let x := hartOf s hart
  .next (if x.running ∧ overBudget s x.stepBudget x.stepFrom then killPair s x.pair 4 1 else s)

/-- EPISODE_BUDGET_OVERRUN: KILLED with cause 2 (R282). -/
def execEpisodeBudgetOverrun (hart : Nat) (s : State) : Out :=
  let x := hartOf s hart
  .next (if x.running ∧ overBudget s x.epBudget x.epFrom then killPair s x.pair 4 2 else s)

/-- F + 1,024 × STEPDL of the gang's present freeze is this pod cycle, the gang on its core set or switched out (R30, R279). -/
def deadlineNow (s : State) (g group : Nat) : Bool :=
  decide ((gangOf s g).mode ∈ [.held, .out] ∧ (gangOf s g).frozenPod + 1024 * ((grpctlOf s group).toNat / 2 ^ 32) = s.pod)

/-- STEP_DEADLINE: in this pod cycle every pair of the group that is not ready becomes TIMEOUT, and RELEASE is sent (R279). -/
def execStepDeadline (core group : Nat) (s : State) : Out :=
  let g := ((s.gangs.map (·.1)).find? fun g => hasHold s g .mbsnap (snapKey core group)).getD (coreOf s core).gang
  if hasHold s g .mbsnap (snapKey core group) && deadlineNow s g group then
    let s := ((groupPairs group).filter fun p => !mbReady s p).foldl (fun s p => mbEnd s p 5 0) s
    .next (wakeSnaps (releaseHolds s g .mbsnap (snapKey core group)))
  else .next s

/-- At a freeze, the step deadlines of the snapshot holds that name it: F + 1,024 × STEPDL (R279). -/
def postDeadlines (s : State) (g x : Nat) : State :=
  ((gangOf s g).holds.filter fun h => decide (h.th = x ∧ h.cause = .mbsnap ∧ h.released = none ∧ h.core < 2 ^ 20)).foldl (fun s h =>
    let n := (grpctlOf s (h.core / 1024)).toNat / 2 ^ 32
    if n = 0 then s else postPod s (s.pod + 1024 * n) phHub (.stepDeadline (h.core % 1024) (h.core / 1024))) s

/-- SUPERVISOR_KILL: KILLED with cause 4 (R275). -/
def execSupervisorKill (pair : Nat) (s : State) : Out := .next (killPair s pair 4 4)

/-- Zero a span of device memory, as no agent of Radish (R197, R275). -/
def zeroDev (s : State) (a n : Nat) : State :=
  let d := dramOf s
  let out := fun (lo hi i : Nat) => !decide (lo ≤ i ∧ i < hi)
  setDram s
    { d with
      bytes := d.bytes.filter fun e => out a (a + n) e.1
      sealed := d.sealed.filter fun e => out (a / 128) ((a + n) / 128) e.1
      shadow := d.shadow.filter fun e => out (a / 128) ((a + n) / 128) e.1
      poison := d.poison.filter fun e => out (a / 128) ((a + n) / 128) e.1
      bad := d.bad.filter fun e => out (a / 128) ((a + n) / 128) e.1 }

/-- A page of an episode's window, as the kill found it bound, is zeroed and accepts accesses again (R275). [log 53 DEDUCED] -/
def scrubWindow (s : State) (w : Nat × Nat × Nat × Word) : State :=
  let e := w.2.2.2
  let s := if bdV e ∧ bdEnv e then zeroDev s (homeAddr e 0) (2 ^ 21) else s
  let s := if bdV e ∧ bdEnv e ∧ bdProt e then
      setDram s { dramOf s with sealed := sealSpan s (dramOf s).sealed (homeAddr e 0) (2 ^ 21) }
    else s
  setEnv s { envOf s with blocked := (envOf s).blocked.filter fun b => b ≠ (w.2.1, w.2.2.1), ended := (envOf s).ended.erase w }

/-- EPISODE_SCRUB: the windows of the pair's harts, as the kill found them, are zeroed and freed (R275); an episode that began
meanwhile starts. -/
def execEpisodeScrub (pair : Nat) (s : State) : Out :=
  let s := ((envOf s).ended.filter fun w => decide (w.1 = pair)).foldl scrubWindow s
  .next (if mbStatus s pair obsHdr = 0 ∧ mbStatus s pair actHdr = 1 then beginEpisode s pair else s)

/-! The supervisor's registers (R278). -/

/-- MBCFG (R278). -/
def mbCfg : Nat := 0x4100000000

/-- The partition that a mailbox group is granted to. -/
def groupPart (s : State) (g : Nat) : Nat :=
  ((authOf s).parts.find? fun p => decide (levelOf p.1 = 2) && tget false p.2.mailGroups g).map (·.1) |>.getD 0

/-- A context of the partition is on its core set. -/
def partRuns (s : State) (p : Nat) : Bool := s.gangs.any fun e => decide (e.2.vdid = p) && onSet e.2 && e.2.hasRun

/-- GRPCTL takes its new value. -/
def setGrpctl (s : State) (g : Nat) (v : Word) : State :=
  wakeSnaps (setEnv s { envOf s with grpctl := tset 0 (envOf s).grpctl g (v &&& 0xFFFFFFFF00000007) })

/-- A write of GRPCTL waits for the owning context's next switch-in while it runs (R278). -/
def writeGrpctl (s : State) (g : Nat) (v : Word) : State :=
  if partRuns s (groupPart s g) then setEnv s { envOf s with waiting := (envOf s).waiting ++ [(0, g, [v])] }
  else setGrpctl s g v

/-- GRPACTIVE and EPNEXT take effect at once (R278). -/
def writeGrpactive (s : State) (g : Nat) (v : Word) : State :=
  wakeSnaps (setEnv s { envOf s with grpactive := tset 0 (envOf s).grpactive g v })

def writeEpnext (s : State) (p : Nat) (v : Word) : State :=
  setEnv s { envOf s with epnext := tset 0 (envOf s).epnext p (v &&& 0x8000000000FFFFFF) }

/-- The supervisor writes a register at its hub address: GRPCTL and then GRPACTIVE in a group's 16 bytes, EPNEXT by pair
(R278). [log 53 DEDUCED] -/
def clusterWrite (s : State) (addr : Nat) (v : Word) : State :=
  let o := addr - mbCfg
  if addr < mbCfg then s
  else if o < 16 * 128 then
    if o % 16 = 0 then writeGrpctl s (o / 16) v else if o % 16 = 8 then writeGrpactive s (o / 16) v else s
  else if 0x10000 ≤ o ∧ o < 0x10000 + 8 * 8192 ∧ o % 8 = 0 then writeEpnext s ((o - 0x10000) / 8) v
  else s

/-- What the supervisor reads at a hub address of its registers (R278). -/
def clusterRead (s : State) (addr : Nat) : Option Word :=
  let o := addr - mbCfg
  if addr < mbCfg then none
  else if o < 16 * 128 then
    if o % 16 = 0 then some (tget 0 (envOf s).grpctl (o / 16))
    else if o % 16 = 8 then some (tget 0 (envOf s).grpactive (o / 16))
    else none
  else if 0x10000 ≤ o ∧ o < 0x10000 + 8 * 8192 ∧ o % 8 = 0 then some (tget 0 (envOf s).epnext ((o - 0x10000) / 8))
  else none

/-- A store into the cluster's 64 MiB SRAM (R7, R11). -/
def sramStore (s : State) (addr : Nat) (data : List Byte) : State :=
  if addr + data.length ≤ 2 ^ 26 then setEnv s { envOf s with sram := tputs 0 (envOf s).sram addr data } else s

/-! A hart's instructions (R269, R270, R276, R277, R284). -/

/-- A Rolna CSR of a hart (R284). -/
def hartCsr (s : State) (x : Hart) (num : Nat) : Option Word :=
  match num with
  | 0x5C0 => some (match x.role with | .idle => if x.roleThree then 3 else 0 | .env => 1 | .checker => 2)
  | 0x5C1 => some (x.epid.setWidth 64)
  | 0x5C2 => some (BitVec.ofNat 64 (x.pair % 2 ^ 13))
  | 0x5C3 => some x.base
  | 0x5C4 => some x.limit
  | 0x5C5 => some x.stepBudget
  | 0x5C6 => some x.epBudget
  | 0x5C7 => some (countNow s x.stepFrom x.stepUsed)
  | 0x5C8 => some (countNow s x.epFrom x.epUsed)
  | 0x5C9 => some x.chkBase
  | 0x5CA => some x.chkLimit
  | 0x5CB => some (BitVec.ofNat 64 (x.chkFirst % 2 ^ 13 + x.chkCount % 2 ^ 13 * 2 ^ 16))
  | _ => none

/-- The pages of a hart's window, as its bounds give them (R270, R283, R284). -/
def boundPages (x : Hart) : Hart :=
  let w := fun (b l : Word) =>
    let first := min (b.toNat / 2 ^ 21) (2 ^ 14)
    { x with winFirst := first, winCount := min ((l.toNat + 2 ^ 21 - 1) / 2 ^ 21) (2 ^ 14) - first }
  match x.role with
  | .idle => x
  | .env => w (boundOf x.base) (boundOf x.limit)
  | .checker => w x.chkBase x.chkLimit

/-- The supervisor writes a Rolna CSR: reserved bits and the RO registers keep what they hold, and ROLE 3 acts as 0 (R3, R284).
[log 86 DESIGN CHOICE] -/
def setHartCsr (x : Hart) (num : Nat) (v : Word) : Hart :=
  match num with
  | 0x5C0 =>
    let role := match v.toNat % 4 with
      | 1 => HartRole.env
      | 2 => HartRole.checker
      | _ => HartRole.idle
    boundPages { x with role := role, roleThree := decide (v.toNat % 4 = 3) }
  | 0x5C1 => { x with epid := v.setWidth 24 }
  | 0x5C2 => { x with pair := v.toNat % 2 ^ 13 }
  | 0x5C3 => boundPages { x with base := v }
  | 0x5C4 => boundPages { x with limit := v }
  | 0x5C5 => { x with stepBudget := v }
  | 0x5C6 => { x with epBudget := v }
  | 0x5C9 => boundPages { x with chkBase := v }
  | 0x5CA => boundPages { x with chkLimit := v }
  | 0x5CB => { x with chkFirst := v.toNat % 2 ^ 13, chkCount := v.toNat / 2 ^ 16 % 2 ^ 13 }
  | _ => x

/-- x0 discards what is written to it (R269). [log 86 DESIGN CHOICE] -/
def setReg (x : Hart) (rd : Nat) (v : Word) : Hart := if rd = 0 then x else { x with x := tset 0 x.x rd v }

/-- Where a load's bytes go: register and sign extension, in the access's tag. -/
def loadTag (rd : Fin 32) (signed : Bool) : Nat := rd.val + if signed then 32 else 0

/-- A hart's load or store leaves for the hub: to the mailbox aperture, or to its window in device memory; any other address is
an access fault (R270, R273). [log 86 DESIGN CHOICE] -/
def hartAccess (s : State) (h addr : Nat) (write : Bool) (data : List Byte) (n tag : Nat) : State :=
  let x := hartOf s h
  let len := if write then data.length else n
  if mbAper ≤ addr ∧ addr + len ≤ mbAper + 8192 * 0x4000 then
    postPod s (s.pod + 1) phUntimed
      (.untimedAccessReceive ⟨agentId 4 h, .mailbox, write, addr - mbAper, data, if write then 0 else n, false, tag, 0, false⟩)
  else
    match inBounds x write addr len, devAddr s x.ctx addr with
    | true, some a => sendUntimed s ⟨agentId 4 h, .dram, write, a, data, if write then 0 else n, false, tag, 0, false⟩
    | _, _ => hartFault s h

/-- An instruction of a hart reaches the machine (R269, R270, R276, R277, R284). A U-mode access to a Rolna CSR other than a
read of EPID or STEPUSED is an illegal instruction; a misaligned access is an exception. [log 86 DESIGN CHOICE] -/
def hartOp (s : State) (h : Nat) (op : HartOp) : State :=
  let x := hartOf s h
  match op with
  | .reg rd v => setHart s h (setReg x rd.val v)
  | .freg rd v => setHart s h { x with f := tset 0 x.f rd.val v }
  | .fcsr v => setHart s h { x with fcsr := v }
  | .fetch pc => if inBounds x false pc.toNat 2 then setHart s h { x with pc := pc } else hartFault s h
  | .load rd addr n signed => if n = 0 ∨ addr % n ≠ 0 ∨ 8 < n then hartFault s h else hartAccess s h addr false [] n (loadTag rd signed)
  | .store addr data =>
    let n := data.length
    if n = 0 ∨ addr % n ≠ 0 ∨ 8 < n then hartFault s h
    else hartAccess (setHart s h { x with sent := x.sent + 1 }) h addr true data 0 x.sent
  | .fence => setHart s h { x with fenced := x.sent }
  | .publish done => hartAccess s h (mbAper + mbKey x.pair (obsHdr + 12)) true (if done then [3] else [1]) 0 0
  | .csrRead rd num user =>
    match hartCsr s x num with
    | some v => if user ∧ num ≠ 0x5C1 ∧ num ≠ 0x5C7 then hartFault s h else setHart s h (setReg x rd.val v)
    | none => s
  | .csrWrite num v user =>
    if user ∧ (hartCsr s x num).isSome then hartFault s h
    else
      let s := setHart s h (setHartCsr x num v)
      if num = 0x5C5 ∨ num = 0x5C6 then postOverruns s h else s

/-- ECC finds an uncorrectable error in a sector of the pairs' memory (R220). -/
def mailboxError (s : State) (sector : Nat) : State :=
  let g := sector * 128 / 0x4000 / 64
  let ps := ((authOf s).ctxs.filter fun e => (mailGroupsOf s e.1).contains g).map (·.2.vdid)
  postPlatform (setEnv s { envOf s with bad := tset false (envOf s).bad sector true }) ps evMemory [sector]

end Sys2Proof.Machine
end

