-- ==== Sys2Proof/Machine/Admit.lean ====
section
/-! DEFINITION. Composition of bind tables (R311, R312), run lists (R251, R252, R254), the gang image (R120 to R124) and the
admission of a run (R21, R39, R48, R118, R254, R257, R261). -/

namespace Sys2Proof.Machine

/-! Composition. -/

/-- Package core index of a requested map entry (R311). -/
def mapCore (m : Word) : Nat := m.toNat / 2 ^ 44 % 1024

/-- A requested entry as it stands in a bind table: DIE and LCORE written, bits [63:44] clear (R311). -/
def composedEntry (m : Word) : Word :=
  let c := mapCore m
  (m &&& 0xFFFFFFFF801) ||| BitVec.ofNat 64 (c / 128 * 2 + c % 128 * 16)

/-- The checks of R311 on a valid requested entry of context `x`; a retired page composes invalid too (R335). [log 14 DESIGN
CHOICE, 63 DEDUCED] -/
def composeOk (s : State) (x : Nat) (m : Word) : Bool :=
  let v := (ctxOf s x).vdid
  let c := mapCore m
  let p := partOf s v
  tget false (partOf s (l1Above v)).cores c && tget false p.cores c && !coreRetired s c &&
    !tget false (houseOf s).retiredPages (c * 256 + bdPage m) &&
    (!bdShare m || (Config.sharesPage (bdOwner m) x (c * 256 + bdPage m) && slotMapOf s c != 0)) &&
    (!bdProt m || tget false p.keys (c / 128 * 256 + bdKey m)) && (!bdEnv m || tget false p.envPages (c * 256 + bdPage m))

/-- The composed table of context `x`, and the entries refused (R311). -/
def composeBind (s : State) (x : Nat) : Table Word × List Nat :=
  let valid := (ctxOf s x).map.filter fun e => bdV e.2
  ((valid.filter fun e => composeOk s x e.2).map fun e => (e.1, composedEntry e.2),
    (valid.filter fun e => !composeOk s x e.2).map (·.1))

/-- Compose the bind table and the mailbox translation of context `x` in a switch window; refused entries are logged (R271,
R311, R312). -/
def composeCtx (s : State) (x : Nat) : State :=
  let r := composeBind s x
  let s := modCtx s x fun c => { c with bind := r.1, mail := (partOf s c.vdid).mailGroups.map (·.1) }
  r.2.foldl (fun s e => postEvent s (ctxOf s x).vdid .program evCompose [e, x] []) s

/-- Core `k` holds a page that an aperture slot, a hart's window or a shared or environment mapping, requested or composed, covers
(R205, R208). [log 13 DESIGN CHOICE] -/
def needsSlots (s : State) (k : Nat) : Bool :=
  let open_ := fun (e : Word) => bdV e && (bdShare e || bdEnv e)
  let covers := fun (x i : Nat) =>
    let m := tget 0 (ctxOf s x).map i
    let e := tget 0 (ctxOf s x).bind i
    (bdV m && decide (mapCore m = k)) || (bdV e && decide (bdCore e = k))
  ((authOf s).ctxs.any fun x => (x.2.map.any fun e => open_ e.2 && decide (mapCore e.2 = k)) ||
    x.2.bind.any fun e => open_ e.2 && decide (bdCore e.2 = k)) ||
  ((authOf s).parts.any fun p => p.2.apertures.any fun a => decide (0 < a.2.1) && covers (a.2.1 - 1) a.2.2) ||
  (envOf s).harts.any fun h => decide (h.2.role ≠ .idle) && (List.range h.2.winCount).any fun i => covers h.2.ctx (h.2.winFirst + i)

/-- The channel slot maps of cores, written in a switch window (R204, R205). [log 13 DESIGN CHOICE] -/
def reserveSlots (s : State) (ks : List Nat) : State :=
  ks.foldl (fun s k =>
    let d := dramOf s
    setDram s { d with slotmaps := tset 0 d.slotmaps k (if needsSlots s k then (if Config.reservedSlots k = 0 then 1 else Config.reservedSlots k) else 0) }) s

/-! Reading device memory through a table. -/

/-- `n` bytes from a context linear address on, page by page; none where an entry is invalid. -/
def linRead (s : State) (b : Table Word) : Nat → Nat → Nat → Option (List Byte)
  | 0, _, n => if n = 0 then some [] else none
  | fuel + 1, lin, n =>
    if n = 0 then some []
    else
      let e := tget 0 b (lin / 2 ^ 21)
      if 2 ^ 35 ≤ lin ∨ !bdV e then none
      else
        let m := min n (2 ^ 21 - lin % 2 ^ 21)
        match linRead s b fuel (lin + m) (n - m) with
        | some bs => some (devBytes s (homeAddr e lin) m ++ bs)
        | none => none

/-- Bytes at a linear address through a table. -/
def readLin (s : State) (b : Table Word) (lin n : Nat) : Option (List Byte) := linRead s b (n / 2 ^ 21 + 2) lin n

/-! Run lists. -/

/-- What a run list's header and next request say (R254): not ready, refused with status 4, or ready. -/
inductive Ready where
  | no
  | refused (r : Request) (index : Nat)
  | yes (r : Request) (index : Nat)
  deriving DecidableEq, Repr

/-- The request of 64 bytes (R252). -/
def requestOf (bs : List Byte) : Request :=
  { image := fieldAt bs 0 8, entry := fieldAt bs 8 4, prio := fieldAt bs 12 1 % 4, backfill := (fieldAt bs 12 1).testBit 2
    fence := fieldAt bs 16 8, fnum := fieldAt bs 24 8 % 2 ^ 48, pre0 := (fieldAt bs 32 8, fieldAt bs 40 8)
    pre1 := (fieldAt bs 48 8, fieldAt bs 56 8) }

/-- A prerequisite (R253): met, refused by a status other than 0, or still open. -/
def prerequisite (s : State) (b : Table Word) (p : Nat × Nat) : Option Bool :=
  if p.1 = 0 then some true
  else
    match readLin s b p.1 8 with
    | none => none
    | some bs =>
      let w := leNat bs
      if w / 2 ^ 48 % 256 ≠ 0 then some false else if p.2 % 2 ^ 48 ≤ w % 2 ^ 48 then some true else none

/-- The bind table that the controller reads a gang's run list through: the running context's, else as composed now. -/
def tableOf (s : State) (g : Nat) : Table Word :=
  let x := gangOf s g
  if x.hasRun then (ctxOf s x.ctx).bind else (composeBind s x.ctx).1

/-- The readiness of gang `g` (R254). [log 57 DEDUCED] -/
def readiness (s : State) (g : Nat) : Ready :=
  let x := gangOf s g
  let b := tableOf s g
  match readLin s b x.runlist 64 with
  | none => .no
  | some h =>
    let n := fieldAt h 8 4
    if fieldAt h 0 4 ≠ 0x4C52554E ∨ fieldAt h 4 4 ≤ n ∨ (fieldAt h 12 4).testBit 0 then .no
    else
      match readLin s b (x.runlist + 64 + 64 * n) 64 with
      | none => .no
      | some bs =>
        let r := requestOf bs
        match prerequisite s b r.pre0, prerequisite s b r.pre1 with
        | some false, _ => .refused r n
        | _, some false => .refused r n
        | some true, some true => .yes r n
        | _, _ => .no

/-! The gang image. -/

/-- A section of an image with its contents (R121). -/
structure Section where
  typ : Nat
  pkg : Nat
  core : Nat
  data : List Byte
  deriving DecidableEq, Repr

/-- A gang image (R120). -/
structure GangImage where
  packages : Nat
  cores : Nat
  framelen : Nat
  wdog : Nat
  seed : BitVec 32
  fsa : Nat
  slip : Bool
  sections : List Section
  deriving DecidableEq, Repr

/-- The section table's entries: type, package, core, offset, size. -/
def sectionEntries (t : List Byte) (n : Nat) : List (Nat × Nat × Nat × Nat × Nat) :=
  (List.range n).map fun i =>
    (fieldAt t (32 * i) 2, fieldAt t (32 * i + 2) 2, fieldAt t (32 * i + 4) 2, fieldAt t (32 * i + 8) 8, fieldAt t (32 * i + 16) 8)

/-- The loop-table entries of a section (R123). -/
def loopEntries (bs : List Byte) : List (LoopEntry × Nat) :=
  (List.range (bs.length / 16)).map fun i =>
    let e := (bs.drop (16 * i)).take 16
    let f := fieldAt e 4 1
    ({ kind := f % 4, engine := f / 16 % 4, first := fieldAt e 12 2, last := fieldAt e 14 2, drain := f.testBit 2
       count := fieldAt e 0 4, members := fieldAt e 8 2, baseReg := fieldAt e 5 1 % 64, countReg := fieldAt e 6 1 % 64
       fixed := f.testBit 3 }, fieldAt e 10 2)

/-- An entry within R38's limits; `dies` and `cores` are the context's. [log 60 DEDUCED] -/
def loopEntryOk (dies cores : Nat) (e : LoopEntry × Nat) : Bool :=
  match e.1.kind with
  | 0 => true
  | 1 => decide (1 ≤ e.1.members ∧ e.1.members ≤ cores ∧ 1 ≤ e.1.baseReg ∧ 1 ≤ e.1.countReg)
  | 2 => decide (1 ≤ e.1.members ∧ e.1.members ≤ dies ∧ 1 ≤ e.1.baseReg ∧ 1 ≤ e.1.countReg ∧ e.2 = 0xFFFF)
  | _ => false

/-- The stream entries of a section: stream number and the register an SCFG of the entry makes (R118, R122). -/
def streamEntries (bs : List Byte) : List (Nat × Stream) :=
  (List.range (bs.length / 64)).map fun i =>
    let w := fun j => BitVec.ofNat 64 (fieldAt bs (64 * i + 8 * j) 8)
    let c : Core := { ports := (List.range 8).foldl (fun t j => tset 0 t (0x280 + j) (w j)) [] }
    ((w 0).toNat % 16, scfgStream c {})

/-- The checks of R124 on a section's contents; a CODE section too short for FIRST and ENTRY, which R124 does not name, fails,
and an ANCHORS entry whose FORM is neither 0 nor 1 passes with any value, as a register does. [log 61 DESIGN CHOICE] -/
def sectionOk (dies cores : Nat) (x : Section) : Bool :=
  match x.typ with
  | 1 => decide (8 ≤ x.data.length ∧ fieldAt x.data 0 4 + (x.data.length - 8) / 24 ≤ 16384)
  | 5 => (loopEntries x.data).all (loopEntryOk dies cores)
  | 6 => (streamEntries x.data).all fun e => !scfgBad e.2
  | 8 => (List.range (x.data.length / 16)).all fun i =>
      decide (fieldAt x.data (16 * i + 4) 4 ≠ 0 ∨ fieldAt x.data (16 * i + 8) 8 < 2 ^ 48)
  | t => decide (1 ≤ t ∧ t ≤ 9)

/-- FRAMELEN is a power of two from 4,096 to 2^31 (R19). -/
def framelenOk (n : Nat) : Bool := (List.range 20).any fun i => n == 2 ^ (12 + i)

/-- Dies among cores. -/
def diesOf (ks : List Nat) : List Nat := (ks.map (· / 128)).eraseDups

/-- Read an image through a table and check what R124 checks of it alone, `ks` being the core set; none is a refusal with
status 1. A SLIPMODE byte of 2 to 255, which R120 gives no meaning, counts by its bit 0. [log 56 DESIGN CHOICE, 61 DESIGN
CHOICE, 88 DESIGN CHOICE] -/
def readImage (s : State) (b : Table Word) (lin : Nat) (ks : List Nat) : Option GangImage :=
  (readLin s b lin 128).bind fun h =>
    let nsect := fieldAt h 12 4
    let off := fieldAt h 16 8
    if fieldAt h 0 4 ≠ 0x4E524749 ∨ fieldAt h 4 2 ≠ 1 ∨ 2 ^ 35 < off + 32 * nsect then none
    else
      (readLin s b (lin + off) (32 * nsect)).bind fun t =>
        let es := sectionEntries t nsect
        let fin := es.foldl (fun m e => max m (e.2.2.2.1 + e.2.2.2.2)) (max 128 (off + 32 * nsect))
        if 2 ^ 35 < fin then none
        else
          (readLin s b lin fin).bind fun all =>
            let img : GangImage :=
              { packages := fieldAt h 8 2, cores := fieldAt h 10 2, framelen := fieldAt h 24 4, wdog := fieldAt h 28 4
                seed := BitVec.ofNat 32 (fieldAt h 32 4), fsa := fieldAt h 36 4, slip := (fieldAt h 40 1).testBit 0
                sections := es.map fun e => ⟨e.1, e.2.1, e.2.2.1, (all.drop e.2.2.2.1).take e.2.2.2.2⟩ }
            let named := img.sections.all fun x =>
              decide ((x.pkg < img.packages ∨ x.pkg = 0xFFFF) ∧ (x.core < img.cores ∨ x.core = 0xFFFF))
            if sha256 (withoutDigest 64 all) = (h.drop 64).take 32 ∧ named ∧
                img.sections.all (sectionOk (diesOf (ks.take img.cores)).length img.cores) ∧ framelenOk img.framelen then some img
            else none

/-! Admission's checks. -/

/-- The ordered pairs of a list of members. -/
def pairsOf (ms : List Nat) : List (Nat × Nat) := ms.flatMap fun a => (ms.filter fun b => b ≠ a).map fun b => (a, b)

/-- The ordered pairs of a gang's members. -/
def memberPairs (x : Gang) : List (Nat × Nat) := pairsOf x.members

/-- The hops that the Leek routes between members use (R243). -/
def leekHopsOf (f : Fabric) (ms : List Nat) : List (Nat × Nat) :=
  (pairsOf ms).flatMap fun p => leekRoute f 32 p.1 p.2

/-- The hops that a gang's Leek routes use. -/
def leekHops (f : Fabric) (x : Gang) : List (Nat × Nat) := leekHopsOf f x.members

/-- The member sets of the pod's gangs that have no context here (R21). [log 12 DESIGN CHOICE] -/
def gangsElsewhere (s : State) : List (List Nat) := (Config.otherGangs s.pod).map fun ms => ms.filter (inPod (fabOf s))

/-- G of a hop: the other gangs of the pod whose Leek routes use its lane, those with no context here included (R21). [log 12
DESIGN CHOICE] -/
def lanesGangs (s : State) (g : Nat) (h : Nat × Nat) : Nat :=
  (s.gangs.filter fun e => e.1 != g && (leekHops (fabOf s) e.2).contains h).length +
    ((gangsElsewhere s).filter fun ms => (leekHopsOf (fabOf s) ms).contains h).length

/-- A Leek route of the gang would use a pair with both links down (R243). -/
def leekBroken (s : State) (g : Nat) : Bool :=
  (leekHops (fabOf s) (gangOf s g)).any fun h => (pairLink (fabOf s) h.1 h.2).isNone

/-- The Leek bound of a route, `lanes` giving G of its hops: μ + 11 × (G + 1) at each (R21). -/
def routeBound (f : Fabric) (lanes : Nat × Nat → Nat) (a b : Nat) : Nat :=
  ((leekRoute f 32 a b).map fun h => (trainedOf f h.1 ((pairLink f h.1 h.2).getD h.2)).2 + 11 * (lanes h + 1)).sum

/-- The Leek bound of a route of gang `g` (R21). -/
def leekBound (s : State) (g a b : Nat) : Nat := routeBound (fabOf s) (lanesGangs s g) a b

/-- The worst Leek bound between any two members (R21). -/
def worstBound (s : State) (g : Nat) : Nat := ((memberPairs (gangOf s g)).map fun p => leekBound s g p.1 p.2).foldl max 0

/-- The bound of a run of a gang that has no context here exceeds its H / 2 (R21). [log 12 DESIGN CHOICE] -/
def overElsewhere (s : State) : Bool :=
  let f := fabOf s
  let all := gangsElsewhere s
  (List.range all.length).any fun i =>
    let lanes := fun h => (s.gangs.filter fun e => (leekHops f e.2).contains h).length +
      ((all.eraseIdx i).filter fun ms => (leekHopsOf f ms).contains h).length
    let h := Config.leadElsewhere s.pod i
    decide (0 < h) && (pairsOf (all.getD i [])).any fun p => decide (h < 2 * routeBound f lanes p.1 p.2)

/-- H (R21). -/
def holdLead (s : State) (g : Nat) : Nat :=
  if (gangOf s g).memberCount ≤ 1 then 64 else (2 * worstBound s g + 255) / 256 * 256

/-- The share of a link of a chip in a row: gang id + 1, 0 for none (R233). -/
def shareAt (f : Fabric) (chip row n : Nat) : Nat :=
  if chip = f.chip then tget 0 f.shares (16 * row + n) else tget 0 f.farShares (16 * (64 * chip + row) + n)

/-- The greater of two values, where there are any. -/
def maxOpt : Option Nat → Option Nat → Option Nat
  | some a, some b => some (max a b)
  | none, b => b
  | a, none => a

/-- The greatest latency of a route from chip `c` on to a member, over the links that a row gives gang `g`, of at most `n` hops
and through no chip of `seen` (R230, R257). [log 102 DESIGN CHOICE] -/
def farthest (f : Fabric) (g row : Nat) (ms : List Nat) : Nat → List Nat → Nat → Option Nat
  | 0, _, _ => none
  | n + 1, seen, c => (List.range 16).foldl (fun m l =>
    let d := stepChip f c l
    if shareAt f c row l = g + 1 ∧ upOf f c l ∧ d ∉ seen then
      let here := if ms.contains d then some 0 else none
      maxOpt m ((maxOpt here (farthest f g row ms n (d :: seen) d)).map (· + (trainedOf f c l).1))
    else m) none

/-- Λmax in a row: over routes that visit no chip twice (R257). [log 102 DESIGN CHOICE] -/
def routesMax (f : Fabric) (g row : Nat) (ms : List Nat) : Nat :=
  (ms.map fun m => (farthest f g row ms 16 [m] m).getD 0).foldl max 0

/-- D: the greatest sum of hop latencies over the routes that the gang's link shares allow, + 60 (R257). -/
def drainWindow (s : State) (g : Nat) : Nat :=
  let x := gangOf s g
  if x.memberCount ≤ 1 then 60 else ((List.range 64).map fun row => routesMax (fabOf s) g row x.members).foldl max 0 + 60

/-- A page of home memory that no context holds and that is not retired (R14, R261, R335). -/
def pageFree (s : State) (x k p : Nat) : Bool :=
  !tget false (houseOf s).retiredPages (k * 256 + p) && (authOf s).ctxs.all fun c =>
    (c.2.map.all fun e => !(bdV e.2 && !bdShare e.2 && decide (mapCore e.2 = k ∧ bdPage e.2 = p))) &&
      (decide (c.1 = x) || !c.2.save.contains (k, p))

/-- The free pages of a core, lowest first. -/
def freePages (s : State) (x k : Nat) : List Nat := (List.range 256).filter (pageFree s x k)

/-- The pages that admission binds for context `x` on its cores: three a core, the highest free, then the flight save area of
`fsa` MiB, the lowest; none if they do not suffice (R261). [log 59 DESIGN CHOICE] -/
def savePages (s : State) (x : Nat) (ks : List Nat) (fsa : Nat) : Option (List (Nat × Nat)) :=
  let free := ks.map fun k => (k, freePages s x k)
  if free.all fun f => 3 ≤ f.2.length then
    let own := free.flatMap fun f => (f.2.drop (f.2.length - 3)).map fun p => (f.1, p)
    let rest := free.flatMap fun f => (f.2.take (f.2.length - 3)).map fun p => (f.1, p)
    let n := (fsa + 1) / 2
    if n ≤ rest.length then some (own ++ rest.take n) else none
  else none

/-- The cores that a run of `n` cores of gang `g` uses (R247). -/
def runCores (s : State) (g n : Nat) : List Nat := (setCores s (gangOf s g).coreset).take n

/-- Cores of the run that the gang's partition is not granted (R124, R308). -/
def ungranted (s : State) (g n : Nat) : Bool :=
  (runCores s g n).any fun k => !tget false (partOf s (gangOf s g).vdid).cores k

/-- What admission answers: the image, or the status that refuses the request (R124, R243, R254); an image of no core is
refused with status 2. [log 61 DESIGN CHOICE] -/
def admission (s : State) (g : Nat) (r : Request) : Except Nat GangImage :=
  let x := gangOf s g
  let ks := setCores s x.coreset
  let b := tableOf s g
  match readImage s b r.image ks with
  | none => .error 1
  | some img =>
    let h := holdLead s g
    if x.memberCount < img.packages ∨ ks.length < img.cores ∨ img.cores = 0 ∨ ungranted s g img.cores ∨ 8192 < h ∨
        leekBroken s g ∨ 8192 < drainWindow s g ∨
        (img.wdog ≠ 0 ∧ img.wdog < 2 * h) ∨ (savePages s x.ctx (ks.take img.cores) img.fsa).isNone then .error 2
    else .ok img

/-! Loading. -/

/-- Index of this package among a gang's members (R121). -/
def packageIndex (s : State) (g : Nat) : Nat := ((gangOf s g).members.filter fun m => decide (m < chipOf s)).length

/-- The sections that apply to context core `i` of this package, in table order. -/
def sectionsFor (img : GangImage) (pkg i : Nat) : List Section :=
  img.sections.filter fun x => decide ((x.pkg = pkg ∨ x.pkg = 0xFFFF) ∧ (x.core = i ∨ x.core = 0xFFFF))

/-- The loop table of context core `i`: entry n of a later section takes the place of entry n of an earlier one (R121, R123). -/
def loopsFor (img : GangImage) (pkg i : Nat) : List (LoopEntry × Nat) :=
  ((sectionsFor img pkg i).filter fun x => decide (x.typ = 5)).foldl (fun es x =>
    let new := loopEntries x.data
    new ++ es.drop new.length) []

/-- Load the records of a DATA section into the claimed regions (R122). -/
def loadData : Nat → List Byte → Core → Core
  | 0, _, c => c
  | fuel + 1, bs, c =>
    if bs.length < 8 then c
    else
      let a := fieldAt bs 0 4
      let n := fieldAt bs 4 4
      let c := if claimedAt c a n 0 ∧ a + n ≤ 2 ^ 22 ∧ 0 < n then putScratch c a ((bs.drop 8).take n) else c
      loadData fuel (bs.drop (8 + (n + 7) / 8 * 8)) c

/-- Load one section into a core (R122); REGIONS and LOOPTABLE are applied elsewhere. [log 60 DEDUCED] -/
def loadSection (c : Core) (x : Section) : Core :=
  match x.typ with
  | 1 => putBundles c (fieldAt x.data 0 4) (x.data.drop 8) ((x.data.length - 8) / 24)
  | 2 => loadData (x.data.length + 1) x.data c
  | 3 => (List.range (x.data.length / 4)).foldl (fun c i =>
      let t := fieldAt x.data (4 * i) 2 % 1024
      if claimedAt c (t * 4096) 4096 0 then setTag c t (BitVec.ofNat 16 (fieldAt x.data (4 * i + 2) 2)) else c) c
  | 4 =>
    let m := c.mx
    let m := (List.range 256).foldl (fun (m : Mx) i =>
      { m with routines := tset 0 m.routines i (BitVec.ofNat 32 (fieldAt x.data (4 * i) 4)) }) m
    let m := (List.range ((x.data.length - 1024) / 8)).foldl (fun (m : Mx) i =>
      { m with store := tset 0 m.store i (BitVec.ofNat 64 (fieldAt x.data (1024 + 8 * i) 8)) }) m
    { c with mx := m }
  | 6 => (List.range 16).foldl (fun c q =>
      (streamEntries x.data).foldl (fun c e => if e.1 = q then setStream c q e.2 else c) c) c
  | _ => c

/-- The regions that a core's REGIONS sections claim: the later section's value stands (R121). [log 60 DEDUCED] -/
def claimedRegions (xs : List Section) : List Nat :=
  match (xs.filter fun x => decide (x.typ = 7)).getLast? with
  | none => []
  | some x => (List.range 64).filter fun n => (fieldAt x.data 0 8).testBit n

/-- The share of member `m` of `n` indices over `k` members: first index and count (R39). -/
def shareOf (n k m : Nat) : Nat × Nat := (m * (n / k) + min m (n % k), n / k + if m < n % k then 1 else 0)

/-- The base and count registers that a loop entry gives context core `i` (R39): `ks` are the context's cores; a cores level
under a dies level divides the die's share. [log 60 DEDUCED] -/
def loopShare (es : List (LoopEntry × Nat)) (ks : List Nat) (i : Nat) (e : LoopEntry × Nat) : Option (Nat × Nat) :=
  let dies := ((ks.map (· / 128)).eraseDups)
  let die := (ks.getD i 0) / 128
  let di := dies.findIdx fun d => d == die
  match e.1.kind with
  | 2 => if di < e.1.members then some (shareOf e.1.count e.1.members di) else none
  | 1 =>
    match (if e.2 = 0xFFFF then none else es[e.2]?) with
    | some p =>
      if p.1.kind = 2 then
        let up := if di < p.1.members then shareOf p.1.count p.1.members di else (0, 0)
        let m := ((ks.take i).filter fun k => k / 128 == die).length
        if m < e.1.members then some (up.1 + (shareOf up.2 e.1.members m).1, (shareOf up.2 e.1.members m).2) else none
      else if i < e.1.members then some (shareOf e.1.count e.1.members i) else none
    | none => if i < e.1.members then some (shareOf e.1.count e.1.members i) else none
  | _ => none

/-- Write the shares of the spatial levels (R39). [log 60 DEDUCED] -/
def loadShares (c : Core) (es : List (LoopEntry × Nat)) (ks : List Nat) (i : Nat) : Core :=
  es.foldl (fun c e =>
    match loopShare es ks i e with
    | some p => setSreg (setSreg c e.1.baseReg (BitVec.ofNat 64 p.1)) e.1.countReg (BitVec.ofNat 64 p.2)
    | none => c) c

/-- The instruction store of a core that no IMCOPY has written in this run, loaded again from the CODE sections of the gang's
image (R297); an image that can no longer be read leaves it as saved. [log 55 DEDUCED] -/
def reloadStore (s : State) (g : Nat) (c : Core) : Core :=
  let x := gangOf s g
  if c.isdirty then c
  else
    match readImage s (tableOf s g) x.req.image (setCores s x.coreset) with
    | some img =>
      ((sectionsFor img (packageIndex s g) c.idx).filter fun y => decide (y.typ = 1)).foldl loadSection
        { c with istore := [], badBundles := [] }
    | none => c

/-- The entry bundle of a core: the request's, or its CODE section's; a core with no CODE section stays idle (R252, R409). -/
def entryOf (r : Request) (xs : List Section) : Option Nat :=
  ((xs.filter fun x => decide (x.typ = 1)).getLast?).map fun x => if r.entry = 0xFFFFFFFF then fieldAt x.data 4 4 else r.entry

/-- The reads of the pops issued at gang cycles 0 to 3, made before the entry bundle issues (R118): as at cycles −4 to −1; the
bank groups' limits hold in each of them. [log 57 DEDUCED, 62 DEDUCED] -/
def readEarly (s : State) (k : Nat) : State :=
  let path := knownPath [] 4 { core := coreOf s k, preds := [] } 0
  let s := modCore s k fun c => { c with path := path.map fun p => (p.1, p.2.1) }
  let s := (List.range 4).foldl (fun s i =>
    let c := coreOf s k
    match plannedPops c path i with
    | none => s
    | some (b, ps) =>
      let s := setCore s k (reservePops c i i b ((ps.filter fun p => p.2.any fun m => m.2.2).map (·.1)))
      ps.foldl (fun s p => popRead s k p.1 i i b p.2) s) s
  modCore s k fun c => { c with accesses := [] }

/-- Every target-buffer entry holds address 0 and the bundles there (R148). -/
def loadTargets (c : Core) : Core :=
  (List.range 8).foldl (fun c t => setTarget c t { buf0 := bundleAt c 0, buf1 := bundleAt c 1 }) c

/-- Load context core `i` of gang `g` onto package core `k` (R58, R80, R89, R122, R136, R266). [log 62 DEDUCED] -/
def loadCore (s : State) (g : Nat) (img : GangImage) (r : Request) (ks : List Nat) (k i : Nat) : State :=
  let x := (gangOf s g).ctx
  let xs := sectionsFor img (packageIndex s g) i
  let rs := claimedRegions xs
  let s := rs.foldl (fun s n => takeRegion s k n x) s
  let es := loopsFor img (packageIndex s g) i
  modCore s k fun c =>
    let c := { vacantCore c 0 with
      owners := c.owners, gang := g, idx := i, claims := rs.map fun n => (n, 0)
      dbg := if (ctxOf s x).stop then 1 else 0 }
    let c := xs.foldl loadSection c
    let c := loadTargets (loadShares (loadSeed c img.seed) es ks i)
    match entryOf r xs with
    | some e => { c with pc := e, running := true }
    | none => c

/-- The barrier objects of a core set are cleared at admission (R345). -/
def clearBarriers (s : State) (set : Nat) : State :=
  { s with hub := { s.hub with barriers := s.hub.barriers.filter fun b => !decide (64 * set ≤ b.1 ∧ b.1 < 64 * set + 64) } }

/-- The cores that start on the gang's other members: those with a CODE section (R349, R409). -/
def startedFar (s : State) (g : Nat) (img : GangImage) (r : Request) : List Nat :=
  let ms := (gangOf s g).members
  (ms.filter fun m => decide (m ≠ chipOf s)).flatMap fun m =>
    ((List.range img.cores).filter fun i =>
      (entryOf r (sectionsFor img (ms.filter fun n => decide (n < m)).length i)).isSome).map fun i => m * 1024 + i

/-- Admit a request at T_start: the context's pages are bound, its bind table composed, its cores loaded, the flight save area's
header written, and gang time stands at 0 (R254, R259, R261). -/
def admitRun (s : State) (g : Nat) (r : Request) (n : Nat) (img : GangImage) : State :=
  let x := gangOf s g
  let ks := runCores s g img.cores
  let s := modCtx s x.ctx fun c => { c with save := (savePages s x.ctx ks img.fsa).getD [] }
  let s := clearBarriers (composeCtx (reserveSlots s (setCores s x.coreset)) x.ctx) x.coreset
  let s := setGang s g
    { x with
      h := holdLead s g, framelen := img.framelen, poisonMode := img.slip, wdog := img.wdog, seed := img.seed, gcyc := 0
      hasRun := true, req := r, reqIndex := n, cores := img.cores
      loops := (List.range img.cores).flatMap fun i =>
        (loopsFor img (packageIndex s g) i).map fun e => { e.1 with core := i }
      drainWin := drainWindow s g
      fsa := [], fsaUsed := 4096, fsaSize := img.fsa * 2 ^ 20, barriers := []
      farRunning := startedFar s g img r }
  let s := ((List.range ks.length).zip ks).foldl (fun s ik => loadCore s g img r ks ik.2 ik.1) s
  clearFsaHeader (ks.foldl readEarly s) g

end Sys2Proof.Machine
end

