-- ==== Sys2Proof/Machine/Image.lean ====
section
/-! DEFINITION. Re-injection from the replay buffer (R295), and a context image read back (R296 to R298). -/

namespace Sys2Proof.Machine

/-- The moves of the bundle about to issue that take a prefetched item of stream `q` (R86, R295). -/
def prefetchedFor (c : Core) (x q : Nat) (v : Val) : List Prefetch :=
  let old := c.fetched.find? fun f => decide (f.q = q ∧ f.issueAt = x)
  let st := streamOf c q
  ((popMoves (fetchBundle c x)).filter fun m => m.2.1 = q).map fun m =>
    ⟨q, x, c.pc, m.1, m.2.2.2.2 || guardOf c m.2.2.2.1, m.2.2.1, v,
      (old.map (·.before)).getD { st with pos := st.pos - bitAt m.2.2.1 0 }, []⟩

/-- Another value comes to a result port of core `k` in this cycle (R64, R295). -/
def resultMeets (s : State) (k : Nat) (r : ResultPort) : Bool :=
  s.agenda.any fun j =>
    decide (j.core = some k ∧ j.due = gcycOf s k) && (match j.task with
      | .event (.operationComplete _ p _ _) => p == r
      | .event (.replayReinject _ e) => e.kind == 2 && resOf (e.dst % 16) == some r
      | _ => false)

/-- An entry performs on core `k` as the original effect would, with its checks, stamps and collisions (R295). Its writes are
watchpoint class 6 (R292). [log 59 DESIGN CHOICE] -/
def replayEffect (s : State) (k : Nat) (e : ReplayEntry) : State :=
  let x := gcycOf s k
  let c := coreOf s k
  let v := bytesVal e.size e.data
  let arrive := fun i g => postCore s k x (arrivalPhase i) (.arrive ⟨i, v, g, c.curCycle.getD 0, c.curBundle, 0, x⟩)
  match e.kind with
  | 1 =>
    match instrOf e.dst ⟨⟨false, 0⟩, .sreg 0⟩ with
    | some i => arrive i (e.flagG || !isCompare i)
    | none => s
  | 2 =>
    match resOf (e.dst % 16) with
    | some r => modCore s k fun c => setResult (if resultMeets s k r then raiseNow c x 4 0 0 0 else c) r e.data
    | none => s
  | 3 =>
    let tag : BitVec 16 := if e.flagPoison then 0xFFFF else e.tag
    if e.dst = xcopyId then
      match coreAt s c.gang (e.addr / 2 ^ 22) with
      | some k' =>
        let a := e.addr % 2 ^ 22
        xcopyArrive s k' ⟨k, (coreGang s k).ctx, decide (k / 128 = k' / 128), a, leBytes (max e.size 1) e.data.toNat,
          if e.flagTag then [(a / 4096, tag)] else [], decide (e.size = 0), true⟩
      | none => s
    else if isVoided c x e.addr e.size then s
    else
      let s := performWrite s k ⟨e.addr, leBytes e.size e.data.toNat, 6, agentId 1 c.idx, c.idx, 0⟩
      if e.flagTag then ownStamp s k (e.addr / 4096) tag else s
  | 4 =>
    match destOf (e.dst / 64) (e.dst % 64) with
    | some d => arrive (.move ⟨⟨false, 0⟩, .sreg 0⟩ d) true
    | none => s
  | 5 =>
    let n := e.dst % 8
    modCore s k fun c =>
      let c := if c.predDue.any fun d => decide (d.cycle = x ∧ d.pred = n) then c else notePred c x n 2 x c.pc 0
      setPred c n (e.data.getLsbD 0)
  | 6 => modCore s k fun c =>
      { c with fetched := (c.fetched.filter fun f => !decide (f.q = e.dst ∧ f.issueAt = x)) ++ prefetchedFor c x e.dst v }
  | 7 =>
    let a := e.dst * 2 ^ 29 + e.addr % 2 ^ 29
    let s := dramShadow (putDev s a (leBytes e.size e.data.toNat)) a e.size (agentId 1 c.idx) 0
    if e.flagPoison then poisonDev s a e.size else s
  | _ => s

/-- The phase of its cycle in which an entry performs: that of its original (R295). [log 6 DEDUCED] -/
def replayPhase (s : State) (k : Nat) (e : ReplayEntry) : Nat :=
  match e.kind with
  | 1 => ((instrOf e.dst ⟨⟨false, 0⟩, .sreg 0⟩).map arrivalPhase).getD phTrigger
  | 2 => phDone
  | 3 => if e.dst = xcopyId then phForeign (sourceKey s k) else if e.size = 0 then phStamp else phWrite
  | 4 => phRegister
  | 5 => phDone
  | 6 => phIssue - 10
  | _ => phWrite

/-- REPLAY_REINJECT: the entry performs at T + DUE (R295). -/
def execReplayReinject (core : Nat) (e : ReplayEntry) (s : State) : Out := .next (replayEffect s core e)

/-! The image as bytes. -/

/-- An entry read from its 288 bytes. -/
def entryOfBytes (bs : List Byte) : ReplayEntry :=
  let f := fieldAt bs 14 2
  ⟨fieldAt bs 0 4, fieldAt bs 4 2, fieldAt bs 6 2, fieldAt bs 8 4, fieldAt bs 12 2, f.testBit 0, f.testBit 1, f.testBit 2,
    BitVec.ofNat 16 (fieldAt bs 16 2), BitVec.ofNat 2048 (fieldAt bs 32 256)⟩

/-- Whether an image's digest holds (R297). -/
def digestOk (bs : List Byte) : Bool := sha256 (withoutDigest 32 bs) == (bs.drop 32).take 32

/-- The areas of an image that hold pieces of the core: offset and pieces (R296). [log 56 DESIGN CHOICE] -/
def imageAreas : List (Nat × List Piece) :=
  [(0x300, scalarArea), (0x340, ctArea), (0x2900, portArea), (0x4000, streamArea), (0x4800, engineArea), (0x6000, recordArea),
   (0x7000, mxArea), (0x8000, blockArea)]

/-- A core as a debugger's image sets it (R296). [log 56 DESIGN CHOICE] -/
def coreOfImage (c : Core) (bs : List Byte) : Core :=
  let c := (List.range 64).foldl (fun c i => setSreg c i (BitVec.ofNat 64 (fieldAt bs (0x100 + 8 * i) 8))) c
  let c := (List.range 32).foldl (fun c i => setVreg c i (BitVec.ofNat 2048 (fieldAt bs (0x800 + 256 * i) 256))) c
  let c := (List.range 8).foldl (fun c i => setKreg c i (BitVec.ofNat 256 (fieldAt bs (0x2800 + 32 * i) 32))) c
  let store := (List.range 4096).foldl (fun t i => tset 0 t i (BitVec.ofNat 64 (fieldAt bs (0x9000 + 8 * i) 8))) c.mx.store
  let acc := (List.range 65536).foldl (fun t i => tset 0 t i (BitVec.ofNat 32 (fieldAt bs (0x11000 + 4 * i) 4))) c.mx.acc
  let c := { c with mx := { c.mx with store := store, acc := acc } }
  let c := imageAreas.foldl (fun c a => areaRead a.2 (bs.drop a.1) c) c
  let c := match c.snaps with
    | [] => c
    | p :: ps => { c with snaps := (p.1, p.2.1, tputs 0 [] 0 ((bs.drop 0x5000).take 4096)) :: ps }
  if fieldAt bs 10 1 % 2 = 1 then putBundles { c with isdirty := true } 0 ((bs.drop 0x51000).take 393216) 16384 else c

/-- The replay entries an image lists. -/
def entriesOfImage (bs : List Byte) : List ReplayEntry :=
  (List.range (min 512 (fieldAt bs 12 4))).map fun i => entryOfBytes ((bs.drop (fieldAt bs 24 8 + 288 * i)).take 288)

/-- The gang's fabric counts as an image gives them (R260, R296). [log 56 DESIGN CHOICE] -/
def countsOfImage (x : Gang) (bs : List Byte) : Gang :=
  let table := fun j => (List.range 16).foldl (fun t n => tset 0 t n (fieldAt bs (0x4F40 + 64 * j + 4 * n) 4)) []
  { x with sent := table 0, recv := table 1, capt := table 2 }

/-- Work of core `k` due from `t` on that replay entries stand for. -/
def replayed (s : State) (k t : Nat) (c : Core) (jobs : List Job) (j : Job) : Bool :=
  decide (j.core = some k ∧ t ≤ j.due) && ofGang c.gang j && !(jobEntries s k c jobs 0 j).isEmpty

/-- Entries written by a debugger take the place of what the core had in flight (R295, R298). -/
def placeEntries (s : State) (k t : Nat) (c : Core) (es : List ReplayEntry) : State :=
  if es = replayEntries s k t c then s
  else
    let jobs := workFrom s k t c
    es.foldl (fun s e =>
      post s ⟨.gang c.gang, t + e.due, replayPhase s k e, some k, .event (.replayReinject k e)⟩)
      { s with agenda := s.agenda.filter fun j => !replayed s k t c jobs j }

end Sys2Proof.Machine
end

