-- ==== Sys2Proof/Machine/Switch.lean ====
section
/-! DEFINITION. The slot matrix at work: which gang runs next (R248, R249, R254, R255), the out-vote and the in-vote (R256 to
R259, R264), capture (R262), switch-out and switch-in (R258, R259, R263, R266), and slot boundaries (R248, R302, R308, R328). -/

namespace Sys2Proof.Machine

/-! Which gang runs next. -/

/-- How far ahead of a boundary votes begin (R257). -/
def voteLead : Nat := 65536

/-- Slot length 2^k (R248). [log 78 DESIGN CHOICE] -/
def slotLength (s : State) : Nat := 2 ^ (authOf s).slotExp

/-- A cell as it stands when its row next begins: a write takes effect then (R248). -/
def cellNext (s : State) (row set : Nat) : Word :=
  (((authOf s).newCells.find? fun e => decide (e.1 = 16 * row + set)).map (·.2)).getD (cellAt s row set)

/-- A gang that the GANG command made on this package. -/
def gangExists (s : State) (g : Nat) : Bool := decide ((ctxOf s (gangOf s g).ctx).gang = g + 1)

/-- The cell of the gang's core set names it in the row (R249). -/
def cellNames (s : State) (row g : Nat) : Bool :=
  let w := cellNext s row (gangOf s g).coreset
  decide (cellKind w = 1 ∧ cellGang w = g)

/-- What the contexts under scrub still hold: all of it until SCRUB_DONE is set for the context, when its log entry goes (R299,
R301). -/
def scrubHolds (s : State) : List (Nat × Nat × Nat) := (houseOf s).scrubLog.flatMap (·.2)

/-- A run of the gang needs what a scrub still holds (R299). -/
def scrubBlocks (s : State) (g : Nat) : Bool :=
  let x := gangOf s g
  let ks := setCores s x.coreset
  (scrubHolds s).any fun r => ks.contains r.2.1 || (ctxOf s x.ctx).map.any fun e =>
    decide (r.1 = 1) && bdV e.2 && decide (mapCore e.2 = r.2.1 ∧ bdPage e.2 = r.2.2)

/-- The first slot boundary after this pod cycle (R248). -/
def nextBoundary (s : State) : Nat := (s.pod / slotLength s + 1) * slotLength s

/-- A partition whose account passed its BUDGET with ACTION 2 is not switched in at pod cycle `t` of the same window (R315). -/
def shutOut (s : State) (p t : Nat) : Bool :=
  (partOf s p).distHit && decide ((partOf s p).distAction = 2) && decide (t / 2 ^ 32 = s.pod / 2 ^ 32)

/-- The package takes gangs in: it is booted, its DRAM stacks are trained and it is in no emergency (R223, R333, R339). -/
def packageOpen (s : State) : Bool :=
  let h := houseOf s
  decide (h.bootStep = 6) && !(h.untrained.any fun e => e.2) && !h.emergency

/-- The gang may enter a slot: the package is booted, its DRAM stacks trained, and it is in no emergency, its partition is not
shut out, its context is not about to be torn down, and its own cores are not blocked (R223, R299, R315, R333, R339). -/
def gangMayEnter (s : State) (g : Nat) : Bool :=
  let x := gangOf s g
  gangExists s g && packageOpen s && !shutOut s x.vdid (nextBoundary s) && !(ctxOf s x.ctx).doomed &&
    (x.hasRun || !scrubBlocks s g)

/-- The gang has something to run: a run, or a ready request (R254). -/
def gangReady (s : State) (g : Nat) : Bool :=
  (gangOf s g).hasRun ||
    match readiness s g with
    | .yes _ _ => true
    | _ => false

/-- The gang on a core set (R247). -/
def runnerOf (s : State) (set : Nat) : Option Nat :=
  (s.gangs.find? fun e => decide (e.2.coreset = set) && onSet e.2 && e.2.hasRun).map (·.1)

/-- What the pod's matrix gives the gang on its other members in a row, by `sel`; a member of which nothing has been told has
the cell that this package has. [log 93 DESIGN CHOICE] -/
def farAll (s : State) (g row : Nat) (sel : Nat × Nat × Bool × Bool → Bool) : Bool :=
  (others s g).all fun m =>
    match (gangOf s g).farCells.find? fun e => decide (e.1 = m ∧ e.2.1 = row) with
    | some e => sel e
    | none => true

/-- The cells of the gang's core sets on its other members name it in the row (R249). -/
def farNamed (s : State) (g row : Nat) : Bool := farAll s g row fun e => e.2.2.1

/-- The cells of the gang's core sets on its other members are offered to it, none of them given to another gang (R255). -/
def farOffered (s : State) (g row : Nat) : Bool := farAll s g row fun e => e.2.2.2

/-- The pod's matrix on another member (R249, R255). -/
def memberCell (s : State) (g chip row : Nat) (named offered : Bool) : State :=
  modGang s g fun x =>
    { x with farCells := x.farCells.filter (fun e => !decide (e.1 = chip ∧ e.2.1 = row)) ++ [(chip, row, named, offered)] }

/-- The gang that a cell names is idle in that row: it has nothing to run, or the cell of another member does not name it
(R249, R254). -/
def cellIdle (s : State) (row set : Nat) : Bool :=
  let g := cellGang (cellNext s row set)
  !(decide ((gangOf s g).coreset = set) && farNamed s g row && gangMayEnter s g && gangReady s g)

/-- A cell is offered for backfill (R255). -/
def cellOffered (s : State) (row set : Nat) : Bool :=
  let w := cellNext s row set
  cellKind w == 2 || (cellKind w == 1 && cellBf w && cellIdle s row set)

/-- PRIO of the gang's run or ready request, when that has BACKFILL (R255). -/
def backfillPrio (s : State) (g : Nat) : Option Nat :=
  let x := gangOf s g
  if x.hasRun then (if x.req.backfill then some x.req.prio else none)
  else
    match readiness s g with
    | .yes r _ => if r.backfill then some r.prio else none
    | _ => none

/-- The eligible gang that takes the offered cell: highest PRIO, then lowest id; it takes its cells on every member, or none
(R255). -/
def backfiller (s : State) (row set : Nat) : Option Nat :=
  let part := cellPart (cellNext s row set)
  let cands := s.gangs.filterMap fun e =>
    if e.2.coreset = set ∧ e.2.vdid = part ∧ farOffered s e.1 row ∧ gangMayEnter s e.1 then
      (backfillPrio s e.1).map fun p => (e.1, p)
    else none
  (cands.foldl (fun (b : Option (Nat × Nat)) c =>
    match b with
    | none => some c
    | some d => if d.2 < c.2 then some c else some d) none).map (·.1)

/-- The gang that runs on a core set in the slot of `row`, and whether by backfill (R249, R254, R255). -/
def nextGang (s : State) (row set : Nat) : Option (Nat × Bool) :=
  let w := cellNext s row set
  if cellKind w = 1 ∧ !cellIdle s row set then some (cellGang w, false)
  else if cellOffered s row set then (backfiller s row set).map fun g => (g, true)
  else none

/-- A request refused: its fence, NEXT and a record (R253, R254), written through the table that the request was read through. -/
def refuseRequest (s : State) (g status : Nat) (r : Request) (n : Nat) : State :=
  let b := tableOf s g
  let s := modGang s g fun x => { x with req := r, reqIndex := n }
  let s := nextVia (fenceVia s b g status) b g (n + 1)
  postEvent s (gangPart s g) .program evRefused [status, n, g] []

/-- A named gang whose ready request a prerequisite refuses (R254). -/
def refuseNamed (s : State) (row set : Nat) : State :=
  let w := cellNext s row set
  let g := cellGang w
  if cellKind w = 1 ∧ (gangOf s g).coreset = set ∧ gangExists s g ∧ !(gangOf s g).hasRun ∧ isLeader s g then
    match readiness s g with
    | .refused r n => refuseRequest s g 4 r n
    | _ => s
  else s

/-- A gang that its cell here names and that of another member does not is idle in the row, and its L1 is told (R249). -/
def noteUnnamed (s : State) (row set : Nat) : State :=
  let w := cellNext s row set
  let g := cellGang w
  if cellKind w = 1 ∧ (gangOf s g).coreset = set ∧ gangExists s g ∧ !farNamed s g row then
    postEvent s (gangOf s g).vdid .resource evIdle [g, row] []
  else s

/-- What happens on a core set at the next boundary: an out-vote for a gang that leaves, an in-vote for one that enters; each
is led by the gang's own leader (R255, R257, R259). -/
def planSet (s : State) (row set : Nat) : State :=
  let s := noteUnnamed (refuseNamed s row set) row set
  let now := runnerOf s set
  let next := nextGang s row set
  if now.isSome && next.map (·.1) == now then
    next.elim s fun n => modGang s n.1 fun x => { x with goesOn := (s.pod + voteLead, row, n.2) }
  else
    let s := match now with
      | some g => if isLeader s g ∧ (gangOf s g).vote.stage = .run then postPod s s.pod phHub (.prepareSend g false) else s
      | none => s
    match next with
    | some (g, bf) =>
      if isLeader s g ∧ (gangOf s g).vote.stage ∈ [.run, .out] ∧ !onSet (gangOf s g) then
        postPod (modGang s g fun x => { x with vote := { x.vote with backfill := bf, row := row } }) s.pod phHub
          (.prepareSend g true)
      else s
    | none => s

/-- 65,536 pod cycles before each boundary the controller reads cells and run lists and starts the votes (R254, R257). [log 57
DEDUCED, 78 DESIGN CHOICE] -/
def planSwitch (s : State) : State :=
  let row := rowAt (authOf s) (s.pod + voteLead)
  (List.range 16).foldl (fun s j => planSet s row j) s

/-! Vote frames. -/

/-- Send a frame to every member, this one included. -/
def toMembers (s : State) (g : Nat) (i : Instr) : State := leekMembers (postPod s s.pod phHub i) g i

/-- Hold number of a switch freeze. [log 38 DESIGN CHOICE] -/
def switchHold (no : Nat) : Nat := 2 ^ 64 + no

/-- The kernel's loop table on this package has a drainable entry (R257). -/
def drainable (x : Gang) : Bool := x.loops.any fun e => decide (e.kind = 0) && e.drain

/-- PREPARE_SEND: the leader's PREPARE at B − 65,536 (R257, R259); for a new run the request is checked first (R254). [log 75
DEDUCED] -/
def sendOut (s : State) (g : Nat) : State :=
  let x := gangOf s g
  let b := s.pod + voteLead
  if onSet x ∧ x.hasRun ∧ x.vote.stage = .run then
    let frozen := decide (x.mode = .held)
    let drain := !frozen && drainable x
    let th := if frozen then x.frozenAt else x.gcyc + x.h + if drain then 16384 else 0
    let v := { voteFrame s g false (b / slotLength s) with
      drain := drain, force := x.byBackfill || x.goesOn.2.2 || decide (2 ≤ x.npAborts), tHalt := th, deadline := b - 16384 }
    postPod (toMembers s g (.prepare v)) v.deadline phEnd (.outVoteDeadline g)
  else s

def sendIn (s : State) (g : Nat) : State :=
  let x := gangOf s g
  let b := s.pod + voteLead
  let v := { voteFrame s g true (b / slotLength s) with deadline := b + slotLength s - 2 * voteLead }
  let go := fun s => postPod (toMembers s g (.prepare v)) v.deadline phEnd (.inVoteDeadline g)
  if onSet x then s
  else if x.hasRun then go s
  else
    match readiness s g with
    | .yes r n =>
      match admission s g r with
      | .error st => refuseRequest s g st r n
      | .ok img => go (modGang s g fun x => { x with req := r, reqIndex := n, cores := img.cores })
    | _ => s

/-- PREPARE_SEND (R257, R259). [log 75 DEDUCED] -/
def execPrepareSend (gang : Nat) (dirIn : Bool) (s : State) : Out := .next (if dirIn then sendIn s gang else sendOut s gang)

/-- Whether the member knows when its core set is free (R259): still open, free, or the outgoing gang aborted. -/
def setKnown (s : State) (g : Nat) : Option Bool :=
  let x := gangOf s g
  match runnerOf s x.coreset with
  | none => some true
  | some o =>
    let y := gangOf s o
    if o = g then some true
    else if y.vote.boundary = x.vote.boundary then
      match y.vote.stage with
      | .swapping => some true
      | .run => some false
      | _ => none
    else none

/-- Members of in-votes vote once they know when their set is free (R259). -/
def pollVotes (s : State) : State :=
  (s.gangs.filter fun e => decide (e.2.vote.stage = .entering)).foldl (fun s e =>
    if (setKnown s e.1).isSome ∧ !(s.agenda.any fun j => decide (j.task = .event (.voteSend e.1 true))) then
      postPod s s.pod phHub (.voteSend e.1 true)
    else s) s

/-- The DRAIN notice acts on the active drainable level of a core started last (R162). -/
def drainNotice (x : Gang) (c : Core) : Core :=
  let ls := (List.range 4).filter fun n =>
    let l := loopOf c n
    l.active && x.loops.any fun e =>
      decide (e.kind = 0 ∧ e.engine = n ∧ e.first = l.first ∧ e.last = l.last ∧ (e.core = 0xFFFF ∨ e.core = c.idx)) && e.drain
  match ls with
  | [] => c
  | n :: ns =>
    let m := ns.foldl (fun m n => if (loopOf c m).order < (loopOf c n).order then n else m) n
    setLoop c m { loopOf c m with notice := true }

/-- PREPARE of an out-vote: the freeze at T_halt is armed and the cores are told to drain (R162, R258); after T_halt the gang
is desynchronised (R257). [log 75 DEDUCED] -/
def prepareOut (s : State) (v : VoteFrame) : State :=
  let g := v.gang
  let x := gangOf s g
  if !x.hasRun ∨ !onSet x then s
  else if x.mode = .running ∧ v.tHalt < x.gcyc ∨ x.mode = .held ∧ v.tHalt < x.frozenAt then desync s g
  else
    let no := v.switchNo
    let s := setGang s g
      { x with
        holds := x.holds ++ [⟨switchHold no, v.tHalt, .switch, v.origin, farKey, none⟩]
        vote := { stage := .armed, switchNo := no, tHalt := v.tHalt, deadline := v.deadline, boundary := v.deadline + 16384
                  force := v.force, drain := v.drain } }
    let s := if v.drain then (gangCores s g).foldl (fun s k => modCore s k (drainNotice x)) s else s
    let s := postPod s (v.deadline + x.h) phEnd (.voteDeadline g)
    if x.mode = .held ∧ x.frozenAt = v.tHalt then postPod (settleHolds s g) s.pod phHub (.switchFreeze g)
    else if x.mode = .running ∧ x.gcyc = v.tHalt then
      postPod (postPod s s.pod phFreeze (.holdFreeze g)) s.pod phHub (.switchFreeze g)
    else s

/-- Whether a member of an in-vote can take part: its cell names the gang, as those of the others do, or is offered and goes to
it (R249, R255). -/
def cellTakes (s : State) (row g : Nat) : Bool :=
  let set := (gangOf s g).coreset
  (cellNames s row g && farNamed s g row) || (cellOffered s row set && backfiller s row set == some g)

/-- Send this member's VOTE to the leader. -/
def sendVote (s : State) (v : VoteFrame) : State := leekSend s v.gang (leaderOf s v.gang) (.vote v)

/-- PREPARE of an in-vote (R259): a member whose cell does not name the gang, or which cannot admit its request, votes NO
RESOURCE (R249, R254). [log 38 DESIGN CHOICE] -/
def prepareIn (s : State) (v : VoteFrame) : State :=
  let g := v.gang
  let x := gangOf s g
  let b := v.deadline + 2 * voteLead - slotLength s
  let row := rowAt (authOf s) b
  let no := { voteFrame s g true v.switchNo with verdict := 4 }
  if onSet x ∨ !gangExists s g then sendVote s no
  else if !gangMayEnter s g then sendVote s (if (houseOf s).emergency then { no with verdict := 6 } else no)
  else if !cellTakes s row g then sendVote (postEvent s x.vdid .resource evIdle [g, row] []) no
  else
    let vote : Vote :=
      { stage := .entering, switchNo := v.switchNo, deadline := v.deadline, boundary := b
        backfill := if isLeader s g then x.vote.backfill else !(cellNames s row g && farNamed s g row), row := row }
    if x.hasRun ∨ isLeader s g then setGang s g { x with vote := vote }
    else
      match readiness s g with
      | .yes r n =>
        match admission s g r with
        | .ok img => setGang s g { x with vote := vote, req := r, reqIndex := n, cores := img.cores }
        | .error _ => sendVote s no
      | _ => sendVote s no

/-- PREPARE (R257 to R259). -/
def execPrepare (v : VoteFrame) (s : State) : Out :=
  .next (pollVotes (if v.dirIn then prepareIn s v else prepareOut s v))

/-! The out-vote. -/

/-- The frame that an arrival step carries. -/
def arrivingFrame : Task → Option Frame
  | .event (.fsendArrival f) => some f
  | .event (.fputArrival f) => some f
  | .event (.fgetRequestArrival f) => some f
  | .event (.fgetResponseArrival f) => some f
  | .event (.fatomRequestArrival f) => some f
  | .event (.fatomResponseArrival f) => some f
  | .event (.poisonFrameArrival f) => some f
  | _ => none

/-- A command's units whose write is in `jobs` come back through the replay buffer (R265, R295). -/
def replayUnits (k : Nat) (jobs : List Job) (m : EngineCmd) : EngineCmd :=
  { m with replayed := jobs.filterMap fun j =>
      match j.task with
      | .event (.dcopyUnit k' id unit false) => if k' = k ∧ id = m.id ∧ (unitBuf m unit).isSome then some unit else none
      | .event (.hcopyRUnit k' id unit) => if k' = k ∧ id = m.id ∧ (unitBuf m unit).isSome then some unit else none
      | .deed (.mbWrite id unit) => if j.core = some k ∧ id = m.id ∧ (unitBuf m unit).isSome then some unit else none
      | _ => none }

/-- Work that performs after the resume through the replay buffer: a scratch write comes back as watchpoint class 6 (R265,
R292, R295). [log 59 DESIGN CHOICE] -/
def intoReplay (ks : List Nat) (g : Nat) (j : Job) : Job :=
  match j.core, j.task with
  | some k, .deed (.store w) =>
    if ks.contains k ∧ ofGang g j then { j with task := .event (.replayReinject k (writeEntry 0 3 w.addr w.data)) } else j
  | some k, .deed (.rmwRead bank op a x y _) =>
    if ks.contains k ∧ ofGang g j then { j with task := .deed (.rmwRead bank op a x y 6) } else j
  | some k, .deed (.rmwWrite bank w f) =>
    if ks.contains k ∧ ofGang g j then { j with task := .deed (.rmwWrite bank { w with wclass := 6 } f) } else j
  | some k, .event (.xcopyUnitArrival k' u) =>
    if ks.contains k ∧ ofGang g j then { j with task := .event (.xcopyUnitArrival k' { u with replay := true }) } else j
  | some k, .deed (.unitStore w) =>
    if ks.contains k ∧ ofGang g j then { j with task := .deed (.unitStore { w with wclass := 6 }) } else j
  | _, _ => j

/-- What cores `ks` have in flight is captured in their replay buffers (R265, R298). -/
def captureOn (s : State) (g : Nat) (ks : List Nat) : State :=
  let jobs := s.agenda.filter (ofGang g)
  let s := ks.foldl (fun s k => modCore s k fun c => { c with cmds := c.cmds.map (replayUnits k jobs) }) s
  { s with agenda := s.agenda.map (intoReplay ks g) }

/-- The forced freeze captures the cores that have not parked (R265). -/
def captureCores (s : State) (g : Nat) : State :=
  captureOn s g ((gangCores s g).filter fun k => !isParked (coreOf s k))

/-- SWITCH_FREEZE: at F departures stop, frames that have departed leave whole, what the cores have in flight is captured, and
every frame on its way to the gang here, those in link ports included, goes to the flight save area (R242, R258, R260, R262,
R265). [log 83 DEDUCED] -/
def execSwitchFreeze (gang : Nat) (s : State) : Out :=
  let x := gangOf s gang
  if x.vote.stage = .armed then
    let s := captureCores (finishDepartures s gang) gang
    let fs := (s.agenda.filter (ofGang gang)).filterMap fun j => arrivingFrame j.task
    let s := { s with agenda := s.agenda.filter fun j => !(ofGang gang j && (arrivingFrame j.task).isSome) }
    let s := setFab s { fabOf s with kept := (fabOf s).kept.filter fun f => decide (f.gang ≠ gang) }
    let s := modGang s gang fun x => { x with vote := { x.vote with stage := .draining, frozen := s.pod } }
    .next (postPod (fs.foldl capture s) (s.pod + x.drainWin) phHub (.voteSend gang false))
  else .next s

/-- The verdict of a member of an out-vote, in the order of R264. -/
def outVerdict (s : State) (g : Nat) : Nat :=
  let x := gangOf s g
  let ks := gangCores s g
  if x.faulted ∨ x.overflow ∨ ks.any fun k => (coreOf s k).frozenAt.isSome && !(coreOf s k).stopped then 5
  else if (houseOf s).emergency then 6
  else if (ctxOf s x.ctx).save.length < 3 * ks.length then 4
  else if ks.any fun k => decide (512 < (replayEntries s k x.frozenAt (coreOf s k)).length) then 1
  else if !x.vote.force && ks.any fun k => (coreOf s k).nopreempt then 2
  else 0

/-- Sum of a count over links (R260). -/
def linkSum (t : Table Nat) : Nat := (t.map (·.2)).sum

/-- The out-vote's VOTE at F + D: counts, verdict, and NEED = SAVE (R258, R260). [log 10 DESIGN CHOICE] -/
def voteOut (s : State) (g : Nat) : State :=
  let x := gangOf s g
  if x.vote.stage = .draining then
    let (n, s) := takeFresh s
    let verdict := outVerdict s g
    let s := if verdict = 4 then postEvent s x.vdid .resource evRefusals [g, verdict] [] else s
    let need := Config.windowTime n % 2 ^ 32
    let s := modGang s g fun x => { x with vote := { x.vote with stage := .voted, need := need } }
    sendVote s { voteFrame s g false x.vote.switchNo with
      verdict := BitVec.ofNat 4 verdict, sent := linkSum x.sent, ended := linkSum x.recv + linkSum x.capt, need := need }
  else s

/-! The in-vote. -/

/-- The gang runs in the slot that begins at `b`: it goes on, or its in-vote has not failed. -/
def runsAt (x : Gang) (b : Nat) : Bool :=
  match x.vote.stage with
  | .entering => decide (x.vote.boundary = b)
  | .entered => decide (x.vote.boundary = b)
  | .starting => decide (x.vote.boundary = b)
  | .run => onSet x && x.hasRun
  | _ => false

/-- The rated power of the partition's gangs that will run exceeds its share: tenths of a watt, 36 a core (R331). -/
def overRated (s : State) (g : Nat) : Bool :=
  let x := gangOf s g
  let n := ((s.gangs.filter fun e => decide (e.2.vdid = x.vdid) && runsAt e.2 x.vote.boundary).map fun e => e.2.cores).sum
  decide (10 * (partOf s x.vdid).power < 36 * n)

/-- The cores that a gang's start uses: those of its saved images, else its run's. [log 55 DEDUCED] -/
def startCores (s : State) (g : Nat) : List Nat :=
  let x := gangOf s g
  if x.hasRun then (s.hub.images.filter fun e => decide (e.1 / 1024 = x.ctx)).map fun e => e.1 % 1024
  else runCores s g x.cores

/-- Islands in retention among a gang's cores (R328). -/
def sleepingIslands (s : State) (g : Nat) : List Nat :=
  (((startCores s g).map (· / 64)).eraseDups).filter fun i => (houseOf s).retained.getLsbD i

/-- The in-vote's VOTE, once the set's freedom is known: NEED = READY − origin, or a NO, as for a package that takes no gang in
(R259, R315, R333, R339). [log 10 DESIGN CHOICE] -/
def voteIn (s : State) (g : Nat) : State :=
  let x := gangOf s g
  if x.vote.stage = .entering then
    let no := fun (r : BitVec 4) => sendVote (setGang s g { x with vote := { x.vote with stage := .entered } })
      { voteFrame s g true x.vote.switchNo with verdict := r }
    if x.faulted then no 5
    else if (houseOf s).emergency then no 6
    else if !packageOpen s || shutOut s x.vdid (max s.pod x.vote.boundary) then no 4
    else if setKnown s g = some false then no 4
    else if overRated s g then no 6
    else
      let (n, s) := takeFresh s
      let isl := sleepingIslands s g
      let ready := max s.pod (tget 0 s.hub.setFree x.coreset) + Config.windowTime n % 2 ^ 31 + if isl = [] then 0 else 480000
      let s := isl.foldl (fun s i => postPod s (s.pod + 480000) phHub (.islandWake (Fin.ofNat 16 i))) s
      let s := setGang s g { x with vote := { x.vote with stage := .entered, ready := ready } }
      sendVote s { voteFrame s g true x.vote.switchNo with need := ready - s.pod }
  else s

/-- VOTE_SEND (R258, R259). -/
def execVoteSend (gang : Nat) (dirIn : Bool) (s : State) : Out := .next (if dirIn then voteIn s gang else voteOut s gang)

/-! The leader's decision. -/

/-- ABORT to every member, with a reason and the chip of the first NO (R256, R258, R259). -/
def sendAbort (s : State) (g : Nat) (dirIn : Bool) (reason : BitVec 4) (chip : Nat) : State :=
  toMembers s g (.abort { voteFrame s g dirIn (gangOf s g).vote.switchNo with verdict := reason, chip := chip })

/-- The NO of the lowest chip id. -/
def firstNo (vs : List VoteFrame) : Option VoteFrame :=
  (vs.filter fun v => v.verdict ≠ 0).foldl (fun (b : Option VoteFrame) v =>
    match b with
    | none => some v
    | some w => if v.chip < w.chip then some v else some w) none

/-- T_start: B, C + H and every READY are past (R259); other gangs start up to 60,000 pod cycles later at the first boundary
after a teardown (R302). [log 11 DESIGN CHOICE] -/
def startAt (s : State) (g : Nat) (vs : List VoteFrame) : Nat × State :=
  let x := gangOf s g
  let h := if x.hasRun then x.h else holdLead s g
  let t := vs.foldl (fun t v => max t (v.origin + v.need)) (max x.vote.boundary (s.pod + h))
  if s.hub.delayed then
    let (n, s) := takeFresh s
    (t + Config.containmentDelay n % 60001, s)
  else (t, s)

/-- The leader has every VOTE of an out-vote (R258). -/
def decideOut (s : State) (g : Nat) (vs : List VoteFrame) : State :=
  match firstNo vs with
  | some v => sendAbort s g false v.verdict v.chip
  | none =>
    if (vs.map (·.sent)).sum ≠ (vs.map (·.ended)).sum then sendAbort s g false 3 0
    else toMembers s g (.commit { voteFrame s g false (gangOf s g).vote.switchNo with tSwap := s.pod + (gangOf s g).h })

/-- The leader has every VOTE of an in-vote (R259). -/
def decideIn (s : State) (g : Nat) (vs : List VoteFrame) : State :=
  match firstNo vs with
  | some v => sendAbort s g true v.verdict v.chip
  | none =>
    let (t, s) := startAt s g vs
    if (gangOf s g).vote.boundary + slotLength s - voteLead ≤ t then sendAbort s g true 7 0
    else toMembers s g (.commit { voteFrame s g true (gangOf s g).vote.switchNo with tSwap := t })

/-- VOTE reaches the leader (R258, R259). -/
def execVote (v : VoteFrame) (s : State) : Out :=
  let g := v.gang
  let x := gangOf s g
  let open_ := if v.dirIn then decide (x.vote.stage ∈ [.entering, .entered]) else
    decide (x.vote.stage ∈ [.armed, .draining, .voted])
  if open_ && decide (x.vote.switchNo = v.switchNo) && isLeader s g then
    let vs := x.vote.received ++ [v]
    let s := setGang s g { x with vote := { x.vote with received := vs } }
    .next (if vs.length < x.memberCount then s else if v.dirIn then decideIn s g vs else decideOut s g vs)
  else .next s

/-- COMMIT (R258, R259): at T_swap the context is saved, or at T_start the gang starts, its timed rows reopened 24 cycles before
(R212). -/
def execCommit (v : VoteFrame) (s : State) : Out :=
  let g := v.gang
  let x := gangOf s g
  if v.dirIn then
    if x.vote.stage = .entered then
      let s := setGang s g { x with vote := { x.vote with stage := .starting, swap := v.tSwap } }
      let s := if x.hasRun then post s ⟨.pod, max s.pod (v.tSwap - 24), phHub, none, .deed (.reopenRows g)⟩ else s
      .next (postPod s v.tSwap phHub (.switchIn g))
    else .next s
  else if x.vote.stage = .voted then
    let s := setGang s g
      { x with vote := { x.vote with stage := .swapping, swap := v.tSwap }, npAborts := 0, ownAborts := 0 }
    let s := { s with hub := { s.hub with setFree := tset 0 s.hub.setFree x.coreset (v.tSwap + x.vote.need) } }
    .next (pollVotes (postPod s v.tSwap phHub (.contextSave g)))
  else .next s

/-- Consecutive aborts for own verdicts other than POWER (R264). [log 69 DEDUCED] -/
def ownVerdict (r : Nat) : Bool := r == 1 || r == 2 || r == 4 || r == 5

/-- ABORT of an out-vote: the switch hold is released with S the frame's origin, and parked levels go on; captured frames come
back at the resume (R162, R258, R263, R264). [log 69 DEDUCED] -/
def abortOut (s : State) (v : VoteFrame) : State :=
  let g := v.gang
  let x := gangOf s g
  let r := v.verdict.toNat
  let n := if ownVerdict r then x.ownAborts + 1 else 0
  let frozen := decide (x.vote.stage ≠ .armed)
  let s := setGang s g
    { x with
      vote := { boundary := x.vote.boundary, tHalt := x.vote.tHalt, drain := x.vote.drain && !frozen }
      swAborted := x.swAborted + 1, npAborts := if r = 2 then x.npAborts + 1 else 0, ownAborts := n }
  let s := if n = 4 then postEvent s x.vdid .resource evRefusals [g, r] [] else s
  let s := if frozen then (gangCores s g).foldl (fun s k => modCore s k leavePark) s else s
  markReleased s g (switchHold v.switchNo) v.origin

/-- ABORT (R258, R259, R264). -/
def execAbort (v : VoteFrame) (s : State) : Out :=
  let g := v.gang
  let x := gangOf s g
  if v.dirIn then
    if x.vote.stage ∈ [.entering, .entered] then
      .next (setGang s g
        { x with vote := { boundary := x.vote.boundary, stage := if x.hasRun then .out else .run },
                 swAborted := if x.hasRun then x.swAborted + 1 else x.swAborted })
    else .next s
  else if x.vote.stage ∈ [.armed, .draining, .voted] then .next (pollVotes (abortOut s v))
  else .next s

/-- OUT_VOTE_DEADLINE: a VOTE is missing at B − 16,384 (R258). -/
def execOutVoteDeadline (gang : Nat) (s : State) : Out :=
  let x := gangOf s gang
  if isLeader s gang ∧ x.vote.stage ∈ [.armed, .draining, .voted] ∧ x.vote.deadline = s.pod ∧
      x.vote.received.length < x.memberCount then .next (sendAbort s gang false 7 0)
  else .next s

/-- IN_VOTE_DEADLINE: a VOTE is missing at B + 2^k − 131,072 (R259). -/
def execInVoteDeadline (gang : Nat) (s : State) : Out :=
  let x := gangOf s gang
  if isLeader s gang ∧ x.vote.stage ∈ [.entering, .entered] ∧ x.vote.deadline = s.pod ∧
      x.vote.received.length < x.memberCount then .next (sendAbort s gang true 7 0)
  else .next s

/-- VOTE_DEADLINE: neither COMMIT nor ABORT by deadline + H: the leader is a dead peer, and the gang is torn down (R258). -/
def execVoteDeadline (gang : Nat) (s : State) : Out :=
  let x := gangOf s gang
  if x.vote.stage = .voted ∧ x.vote.deadline + x.h = s.pod then
    let s := setDead s (leaderOf s gang)
    .next (abortGang (postEvent s x.vdid .platform evDeadPeer [leaderOf s gang, gang] []) gang .platform)
  else .next s

/-! Switching out and in. -/

/-- What a core's image holds: all but the scratch regions, their tags and shadow (R296). [log 55 DEDUCED, 59 DESIGN CHOICE] -/
def imageOf (c : Core) : Core := { c with scratch := [], tags := [], shadow := [], badTiles := [], owners := [] }

/-- An image comes to its save area, at T_swap + SAVE (R297). -/
def imageWrite (s : State) (a : Nat) (bs : List Byte) : State := putDev s a bs

/-- The gang's barrier objects leave its core set with it (R345). -/
def barriersOut (s : State) (g : Nat) : State :=
  let lo := 64 * (gangOf s g).coreset
  let mine := s.hub.barriers.filter fun b => decide (lo ≤ b.1 ∧ b.1 < lo + 64)
  let s := { s with hub := { s.hub with barriers := s.hub.barriers.filter fun b => !decide (lo ≤ b.1 ∧ b.1 < lo + 64) } }
  modGang s g fun x => { x with barriers := mine.map fun b => (b.1 - lo, b.2) }

/-- The gang's barrier objects come back with it (R345). -/
def barriersIn (s : State) (g : Nat) : State :=
  let lo := 64 * (gangOf s g).coreset
  let s := (gangOf s g).barriers.foldl (fun s b => setBarrier s (lo + b.1) b.2) s
  modGang s g fun x => { x with barriers := [] }

/-- CONTEXT_SAVE at T_swap: the cores are vacated, their regions staying owned, and the images saved, with the rows that are to be
reopened, the commands that the set's groups still weigh and the barriers; the set is free and the save areas are written at
T_swap + SAVE; units with a lasting fault are retired (R212, R213, R258, R266, R294, R296, R297, R335, R345). -/
def execContextSave (gang : Nat) (s : State) : Out :=
  let x := gangOf s gang
  if x.vote.stage = .swapping ∧ x.vote.swap ≤ s.pod then
    let ks := gangCores s gang
    let gs := groupCores s gang
    let rows := gs.flatMap fun k => openTimedRows s k x.frozenAt
    let others := gs.filter fun k => !ks.contains k
    let cmds := others.map fun k => (k, (coreOf s k).dramCmds)
    let bytes := ks.filterMap fun k =>
      (imagePlace s x.ctx k).map fun a => (a, imageBytes s x.ctx k x.frozenAt (coreOf s k))
    let s := ks.foldl (fun s k =>
      let c := coreOf s k
      let s := { s with hub := { s.hub with images := tins s.hub.images (x.ctx * 1024 + k) (imageOf c) } }
      setCore s k (vacantCore c 0)) s
    let s := others.foldl (fun s k => modCore s k fun c => { c with dramCmds := [] }) s
    let s := bytes.foldl (fun s b => post s ⟨.pod, s.pod + x.vote.need, phHub, none, .deed (.imageWrite b.1 b.2)⟩) s
    let s := setGang s gang
      { x with mode := .out, rows := rows, groupCmds := cmds, vote := { stage := .out, boundary := x.vote.boundary } }
    .next (leaveGroups (retireLasting (barriersOut s gang) x.ctx ks) gs)
  else .next s

/-- The window changes of a partition take effect in a switch window; a TEE window of a VF that has been locked since stays as it
is (R313, R323). [log 72 DEDUCED] -/
def applyWindows (s : State) (p : Nat) : State :=
  let frozen := tget .unlocked (authOf s).tdisp (vfOf p) ∈ [.locked, .run]
  modPart s p fun x =>
    { x with
      windows := x.newWindows.foldl (fun t e =>
        if frozen && (e.2.tee || (tget {} t e.1).tee) then t else tset {} t e.1 e.2) x.windows
      newWindows := [] }

/-- HARTCFG as the supervisor makes it (R284, R321): `ws` are PAARG0 to PAARG3. [log 71 DEDUCED] -/
def configureHart (s : State) (h : Nat) (ws : List Word) : State :=
  let a := (ws.getD 0 0).toNat
  let w := (ws.getD 3 0).toNat
  let role := match a / 2 ^ 8 % 4 with
    | 1 => HartRole.env
    | 2 => HartRole.checker
    | _ => HartRole.idle
  let base := BitVec.ofNat 64 (w / 2 ^ 12 % 2 ^ 14 * 2 ^ 21)
  let limit := BitVec.ofNat 64 ((w / 2 ^ 12 % 2 ^ 14 + w / 2 ^ 26 % 2 ^ 14) * 2 ^ 21)
  let x := stopCounts s (hartOf s h)
  let x : Hart :=
    { x with
      role := role, roleThree := false, pair := a / 2 ^ 16 % 2 ^ 13, chkFirst := a / 2 ^ 16 % 2 ^ 13, chkCount := a / 2 ^ 32 % 2 ^ 13
      stepBudget := ws.getD 1 0, epBudget := ws.getD 2 0, ctx := w % 4096, winFirst := w / 2 ^ 12 % 2 ^ 14
      winCount := w / 2 ^ 26 % 2 ^ 14, entry := w / 2 ^ 40, running := false
      base := if role = .env then base else x.base, limit := if role = .env then limit else x.limit
      chkBase := if role = .checker then base else x.chkBase, chkLimit := if role = .checker then limit else x.chkLimit }
  let s := setHart s h x
  if role = .checker then postPod s (s.pod + 1) phHub (.hartStart h) else s

/-- A write that waited for the owning context's switch-in (R278): kind 0 GRPCTL of a group, kind 1 HARTCFG of a hart. [log 72
DEDUCED] -/
def applyWaiting (s : State) (e : Nat × Nat × List Word) : State :=
  match e.1 with
  | 0 => setGrpctl s e.2.1 (e.2.2.getD 0 0)
  | _ => configureHart s e.2.1 e.2.2

/-- The context that owns a hart when HARTCFG names it: the one it serves, else the one it is to serve; none when it serves
none and is to be idle (R278). [log 71 DEDUCED] -/
def hartOwner (s : State) (h : Nat) (ws : List Word) : Option Nat :=
  let role := (ws.getD 0 0).toNat / 2 ^ 8 % 4
  if (hartOf s h).role ≠ .idle then some (hartOf s h).ctx
  else if role = 1 ∨ role = 2 then some ((ws.getD 3 0).toNat % 4096) else none

/-- A write waits for context `x`: its partition's group, or a hart of the context. -/
def waitsFor (s : State) (x : Nat) (e : Nat × Nat × List Word) : Bool :=
  if e.1 = 0 then tget false (partOf s (ctxOf s x).vdid).mailGroups e.2.1 else hartOwner s e.2.1 e.2.2 == some x

/-- The writes that waited for context `x` are made (R278). [log 72 DEDUCED] -/
def releaseWaiting (s : State) (x : Nat) : State :=
  let es := (envOf s).waiting.filter (waitsFor s x)
  es.foldl applyWaiting (setEnv s { envOf s with waiting := (envOf s).waiting.filter fun e => !waitsFor s x e })

/-- What every start applies in its switch window; a returning context is composed here, a new run's with its admission (R205,
R278, R312, R313). [log 72 DEDUCED] -/
def openWindow (s : State) (g : Nat) : State :=
  let x := gangOf s g
  let s := if x.hasRun then composeCtx (reserveSlots s (setCores s x.coreset)) x.ctx else s
  releaseWaiting (applyWindows s x.vdid) x.ctx

/-- A core takes up its context's image again, with the regions, tags and shadow as they stand, its away regions filled
(R266, R296). -/
def restoreCore (s : State) (x k : Nat) (img : Core) : State :=
  let c := coreOf s k
  let s := setCore s k
    { img with
      scratch := c.scratch, tags := c.tags, shadow := c.shadow, badTiles := c.badTiles, owners := c.owners
      cmdSeq := max c.cmdSeq img.cmdSeq }
  img.claims.foldl (fun s n => takeRegion s k n.1 x) s

/-- The gang's time may go on: at once, or when its other holds are final; the switch's own hold ends here (R25, R30, R259). -/
def resumeGang (s : State) (g : Nat) : State :=
  let x := gangOf s g
  settleHolds (setGang s g
    { x with
      mode := .held, swapIn := some s.pod
      holds := x.holds.map fun h => if h.cause = .switch ∧ h.released = none then { h with released := some s.pod } else h
      row := x.vote.row, byBackfill := x.vote.backfill
      goesOn := (x.vote.boundary, x.vote.row, x.vote.backfill)
      vote := { boundary := x.vote.boundary, row := x.vote.row } }) g

/-- The digest of every image that a debugger can have changed holds: of those that context `x`'s save areas hold for the
cores `ks` (R297). -/
def imagesHold (s : State) (x : Nat) (ks : List Nat) : Bool :=
  ks.all fun k =>
    match imagePlace s x k with
    | some a => digestOk (storedImage s a)
    | none => true

/-- On a restore an image whose digest does not hold is a PLATFORM event, and the run is torn down; a digest is computed where the
save area has been written since (R297). -/
def checkDigest (s : State) (g : Nat) (ks : List Nat) : State :=
  let x := gangOf s g
  let touched := (ctxOf s x.ctx).badImage
  let s := modCtx s x.ctx fun c => { c with badImage := false }
  if touched ∧ !imagesHold s x.ctx ks then
    abortGang (postEvent s x.vdid .platform evDigest [x.ctx] []) g .platform
  else s

/-- The switched-out gang comes back: images are checked and restored, clean instruction stores loaded anew, parks left, and
its package counter advances for the switch window; captured frames come back at the resume (R162, R198, R259, R263, R297).
[log 47 DEDUCED, 55 DEDUCED] -/
def restoreRun (s : State) (g : Nat) : State :=
  let x := gangOf s g
  let imgs := s.hub.images.filter fun e => decide (e.1 / 1024 = x.ctx)
  let s := { s with hub := { s.hub with images := s.hub.images.filter fun e => decide (e.1 / 1024 ≠ x.ctx) } }
  let s := imgs.foldl (fun s e => restoreCore s x.ctx (e.1 % 1024) (reloadStore s g e.2)) s
  let s := (gangOf s g).groupCmds.foldl (fun s e => modCore s e.1 fun c => { c with dramCmds := e.2 }) (barriersIn s g)
  let s := resumeGang (modGang s g fun y => { y with swIn := y.swIn + 1, pkgIv := y.pkgIv + 1, groupCmds := [] }) g
  let s := imgs.foldl (fun s e => modCore s (e.1 % 1024) leavePark) s
  checkDigest s g (imgs.map fun e => e.1 % 1024)

/-- The security engine loads a key of its own into each empty slot that a protected page of the new run names (R221). [log 104
DESIGN CHOICE] -/
def loadKeys (s : State) (x : Nat) : State :=
  ((ctxOf s x).bind.filter fun e => bdProt e.2).foldl (fun s e =>
    let slot := bdCore e.2 / 128 * 256 + bdKey e.2
    if tget 0 (authOf s).keys slot = 0 then
      let (n, s) := takeFresh s
      let key := Config.freshKey n
      setAuth s { authOf s with keys := tset 0 (authOf s).keys slot (if key = 0 then 1 else key) }
    else s) s

/-- A new run starts at gang cycle 0 (R254, R259); a member whose cores all lack CODE says so in its first cycle (R37, R253,
R409). [log 69 DEDUCED] -/
def startRun (s : State) (g : Nat) : State :=
  let x := gangOf s g
  match admission s g x.req with
  | .error st => refuseRequest (setGang s g { x with vote := {} }) g st x.req x.reqIndex
  | .ok img =>
    let s := loadKeys (admitRun s g x.req x.reqIndex img) x.ctx
    let s := modGang s g fun y =>
      { y with
        mode := .running, swIn := 1, swAborted := 0, pkgIv := y.pkgIv + 1, row := y.vote.row, byBackfill := y.vote.backfill
        goesOn := (y.vote.boundary, y.vote.row, y.vote.backfill)
        vote := { boundary := y.vote.boundary, row := y.vote.row } }
    let s := postGang (postGangDeed s g 0 phSync (.resyncCheck g)) g 1 phHub (.runComplete g)
    startCycle s g

/-- A gang that was to start is not taken in: the members are told, and its run ends (R268, R333). -/
def turnAway (s : State) (g : Nat) : State :=
  let x := gangOf s g
  if x.hasRun then abortGang s g .platform
  else leekMembers (setGang s g { x with vote := {} }) g (.abortgang g .platform)

/-- SWITCH_IN at T_start (R259); in an emergency no gang is admitted (R333). A committed start stands where the partition's
account has passed its BUDGET since the vote (R315). [log 38 DESIGN CHOICE, 103 DEDUCED] -/
def execSwitchIn (gang : Nat) (s : State) : Out :=
  let x := gangOf s gang
  if x.vote.stage = .starting ∧ x.vote.swap ≤ s.pod then
    if (houseOf s).emergency then .next (turnAway s gang)
    else
    let s := openWindow s gang
    .next (if x.hasRun then restoreRun s gang else startRun s gang)
  else .next s

/-! Slot boundaries. -/

/-- The cells written for the beginning row take effect (R248). -/
def cellsTakeEffect (s : State) (row : Nat) : State :=
  let a := authOf s
  let mine := a.newCells.filter fun e => decide (e.1 / 16 = row)
  setAuth s
    { a with
      cells := mine.foldl (fun t e => tset 0 t e.1 e.2) a.cells
      newCells := a.newCells.filter fun e => decide (e.1 / 16 ≠ row) }

/-- A withdrawal's teardown of a context: status 3, HALT (its cause says so to the members), and REVOKED to its partition
(R308). [log 74 DEDUCED] -/
def revokeContext (s : State) (x : Nat) : State :=
  let c := ctxOf s x
  let s := modCtx s x fun c => { c with doomed := false }
  let s := if c.gang = 0 then s
    else
      let g := c.gang - 1
      abortGang s g .control
  postEvent s c.vdid .control evRevoked [x] []

/-- A gang that enters at a boundary or goes on as planned runs in the beginning row; one that an aborted out-vote leaves on its
set keeps the row of the slot before, and holds it no longer by backfill (R233, R255, R264). -/
def rowsGoOn (s : State) : State :=
  (s.gangs.filter fun e => onSet e.2 && e.2.hasRun).foldl (fun s e =>
    modGang s e.1 fun x =>
      if x.goesOn.1 = s.pod then { x with row := x.goesOn.2.1, byBackfill := x.goesOn.2.2 } else { x with byBackfill := false }) s

/-- The islands on which no context is bound enter retention (R328). -/
def restIslands (s : State) : State :=
  let bound := (authOf s).ctxs.flatMap fun e => tget [] (authOf s).coreSets e.2.coreset
  let ret := (List.range 16).foldl (fun (r : BitVec 16) i =>
    if bound.any fun k => decide (k / 64 = i) then r else r ||| ((1 : BitVec 16) <<< i)) 0
  let h := houseOf s
  setHouse s { h with retained := h.retained ||| ret }

/-- Contexts whose gang the beginning row names and does not run are composed anew where a table has changed (R312): the bind
table of a gang that goes on over consecutive rows never changes. [log 101 DEDUCED] -/
def recompose (s : State) (row : Nat) : State :=
  ((authOf s).ctxs.filter fun e => decide (0 < e.2.gang) && !onSet (gangOf s (e.2.gang - 1)) &&
      decide (cellKind (cellAt s row e.2.coreset) = 1 ∧ cellGang (cellAt s row e.2.coreset) = e.2.gang - 1)).foldl
    (fun s e => if (composeBind s e.1).1 = (ctxOf s e.1).bind then s else composeCtx s e.1) s

/-- Cores that no gang occupies: none of them lies in the core set of a gang that is on its set (R203, R204). -/
def idleCores (s : State) : List Nat :=
  let used := (s.gangs.filter fun e => onSet e.2 && e.2.hasRun).flatMap fun e => groupCores s e.1
  (List.range 1024).filter fun k => decide ((coreOf s k).gang = noGang) && !used.contains k

/-- What was withdrawn goes out of use: shares and harts fall idle (R308). [log 74 DEDUCED] -/
def putAway (s : State) (kind : Nat) (keys : List Nat) : State :=
  match kind with
  | 4 => keys.foldl (fun s k => setFab s { fabOf s with shares := tset 0 (fabOf s).shares (16 * (k % 64) + k / 64) 0 }) s
  | 5 => keys.foldl (fun s h => setHart s h (idleHart s (hartOf s h))) s
  | _ => s

/-- SLOT_BOUNDARY: cells of the beginning row take effect, withdrawn contexts are torn down, islands rest, reserved slots and idle
partitions' windows are set, changed tables composed, and a containment delay ends (R205, R248, R302, R308, R312, R313, R328). -/
def execSlotBoundary (s : State) : Out :=
  let row := rowNow s
  let s := cellsTakeEffect s row
  let s := rowsGoOn s
  let s := (((authOf s).ctxs.filter fun e => e.2.doomed).map (·.1)).foldl revokeContext s
  let s := (authOf s).leaving.foldl (fun s e => putAway s e.1 e.2) (setAuth s { authOf s with leaving := [] })
  let s := recompose (reserveSlots (restIslands s) (idleCores s)) row
  let ps := (authOf s).parts.filter fun p =>
    p.2.newWindows != [] && !(s.gangs.any fun e => decide (e.2.vdid = p.1) && onSet e.2)
  let s := ps.foldl (fun s p => applyWindows s p.1) s
  .next { s with hub := { s.hub with delayed := false } }

end Sys2Proof.Machine
end

