-- ==== Sys2Proof/Machine/Authority.lean ====
section
/-! DEFINITION. The partition authority's commands (R305 to R308, R313 to R321): a PACMD write is accepted, and later the
command completes. -/

namespace Sys2Proof.Machine

/-! Holdings (R305). -/

/-- All seven rights are L0's (R306). -/
def rightsOf (s : State) (p : Nat) : BitVec 7 := if p = 0 then 0x7F else (partOf s p).rights

/-- The table of a resource kind among a partition's holdings: kinds 1 to 7 and 9 of R321. -/
def heldTable (x : Partition) (kind : Nat) : Table Bool :=
  match kind with
  | 1 => x.cores
  | 2 => x.sets
  | 3 => x.cells
  | 4 => x.shares
  | 5 => x.harts
  | 6 => x.mailGroups
  | 7 => x.keys
  | _ => x.envPages

def setHeld (x : Partition) (kind : Nat) (t : Table Bool) : Partition :=
  match kind with
  | 1 => { x with cores := t }
  | 2 => { x with sets := t }
  | 3 => { x with cells := t }
  | 4 => { x with shares := t }
  | 5 => { x with harts := t }
  | 6 => { x with mailGroups := t }
  | 7 => { x with keys := t }
  | _ => { x with envPages := t }

/-- L0 holds every resource of the package (R304). -/
def holds (s : State) (p kind key : Nat) : Bool := p == 0 || tget false (heldTable (partOf s p) kind) key

/-- Watts a partition may divide: L0's are PCAP (R329). -/
def powerOf (s : State) (p : Nat) : Nat := if p = 0 then min 4200 (max 1000 (houseOf s).pcap) else (partOf s p).power

/-- Keys `first` to `first + n − 1` from a base, where they lie below `most`. -/
def spanKeys (base first n least most : Nat) : Option (List Nat) :=
  if least ≤ n ∧ first + n ≤ most then some ((List.range n).map fun i => base + first + i) else none

/-- The keys a specification names (R321); none where a field is out of range or the kind is not listed. -/
def specKeys (kind w : Nat) : Option (List Nat) :=
  match kind with
  | 1 => spanKeys 0 (w % 2 ^ 10) (w / 2 ^ 16 % 2 ^ 11) 1 1024
  | 2 => some [w % 16]
  | 3 => some [16 * (w % 64) + w / 2 ^ 8 % 16]
  | 4 => some [64 * (w % 16) + w / 2 ^ 8 % 64]
  | 5 => spanKeys 0 (w % 2 ^ 8) (w / 2 ^ 8 % 2 ^ 9) 1 256
  | 6 => spanKeys 0 (w % 2 ^ 7) (w / 2 ^ 8 % 2 ^ 7) 1 128
  | 7 => spanKeys (256 * (w % 8)) (w / 2 ^ 8 % 2 ^ 8) (w / 2 ^ 16 % 2 ^ 9) 1 256
  | 8 => some []
  | 9 => spanKeys (256 * (w % 2 ^ 10)) (w / 2 ^ 10 % 2 ^ 8) (w / 2 ^ 18 % 2 ^ 9) 1 256
  | _ => none

/-- The child page a command of page `p` names; none where the VDID is no child of `p` (R304). -/
def childOf (p vdid : Nat) : Option Nat :=
  match levelOf p with
  | 0 => if 1 ≤ vdid / 16 ∧ vdid / 16 ≤ 64 then some (childPage p vdid) else none
  | 1 => if vdid / 16 = vfOf p then some vdid else none
  | _ => none

/-- The interfaces of an L1. -/
def childrenOf (p : Nat) : List Nat := if levelOf p = 1 then (List.range 16).map (16 * vfOf p + ·) else []

/-- A VF whose L0-to-L1 grant is frozen (R323). -/
def vfLocked (s : State) (v : Nat) : Bool :=
  match tget .unlocked (authOf s).tdisp v with
  | .locked => true
  | .run => true
  | _ => false

/-- A command of L0 that changes a locked VF (R320). -/
def lockedFor (s : State) (p child : Nat) : Bool := p == 0 && vfLocked s (vfOf child)

/-- A command of L0 that changes a resource which a partition of a locked VF holds (R320). -/
def lockedKey (s : State) (p kind key : Nat) : Bool :=
  p == 0 && (authOf s).parts.any fun e => decide (e.1 ≠ 0) && tget false (heldTable e.2 kind) key && vfLocked s (vfOf e.1)

/-- What scrubs still hold, those of the protected contexts that a withdrawal will tear down included (R299, R308). -/
def scrubAhead (s : State) : List (Nat × Nat × Nat) :=
  scrubHolds s ++ ((authOf s).ctxs.filter fun x => x.2.doomed && x.2.protect).flatMap fun x =>
    (List.range 8).flatMap fun d => scrubWork s x.1 d

/-- A core or page that a scrub still holds (R299). -/
def scrubbed (s : State) (kind : Nat) (keys : List Nat) : Bool :=
  match kind with
  | 1 => (scrubAhead s).any fun r => keys.contains r.2.1
  | 2 => (scrubAhead s).any fun r => keys.any fun j => (tget [] (authOf s).coreSets j).contains r.2.1
  | 9 => (scrubAhead s).any fun r => decide (r.1 = 1) && keys.contains (256 * r.2.1 + r.2.2)
  | _ => false

/-- What a command answers: a RESULT other than OK, or the new state and what PAARG0 returns. -/
abbrev Answer := Except Nat (State × Option Word)

def rRights : Nat := 1
def rNotHeld : Nat := 2
def rBadArg : Nat := 3
def rLocked : Nat := 4
def rBlocked : Nat := 5
def rNoSpace : Nat := 6

/-- OK with PAARG0 unchanged. -/
def done (s : State) : Answer := .ok (s, none)

/-- The measurement of the grant configuration is taken anew (R326). [log 15 DESIGN CHOICE] -/
def remeasure (s : State) : State :=
  let (n, s) := takeFresh s
  setAuth s { authOf s with measured := n + 1 }

/-- A cell's PART names its new holder from the next time its row begins (R248, R305). -/
def cellTo (s : State) (key part : Nat) (clear : Bool) : State :=
  let w := cellNext s (key / 16) (key % 16)
  let w := if clear then 0 else w &&& 0x7FFFFFF
  let a := authOf s
  setAuth s { a with newCells := tins a.newCells key (w ||| BitVec.ofNat 64 (part % 4096 * 2 ^ 27)) }

/-- The power that the children of a page hold, one left out. -/
def dividedPower (s : State) (p child : Nat) : Nat :=
  (((authOf s).parts.filter fun e => decide (e.1 ≠ child ∧ e.1 ≠ p ∧ parentOf e.1 = p)).map (·.2.power)).sum

/-- The power shares of a partition's children, in ascending order, are cut to a sum of `w` (R305, R308, R329). [log 105 DESIGN
CHOICE] -/
def cutShares (s : State) (p w : Nat) : State :=
  (((authOf s).parts.filter fun e => decide (e.1 ≠ p ∧ parentOf e.1 = p)).foldl (fun (b : Nat × State) e =>
    let n := min b.1 (partOf b.2 e.1).power
    (b.1 - n, if n = (partOf b.2 e.1).power then b.2 else modPart b.2 e.1 fun x => { x with power := n })) (w, s)).2

/-- A partition's power share, with its children's cut to it, and an L1's L2 shares to theirs (R305, R308, R329). -/
def setPower (s : State) (q w : Nat) : State := cutShares (modPart s q fun x => { x with power := w }) q w

/-- PCAP is lowered: the L1 shares are cut to it, and each L1's L2 shares to what it keeps (R329). -/
def capShares (s : State) : State :=
  let s := cutShares s 0 (powerOf s 0)
  ((authOf s).parts.filter fun e => decide (levelOf e.1 = 1)).foldl (fun s e => cutShares s e.1 (partOf s e.1).power) s

/-- The environment pages that the package's partitions hold, and those a grant would add (R208). -/
def envPageCount (s : State) (keys : List Nat) : Nat :=
  (((authOf s).parts.flatMap fun e => (e.2.envPages.filter (·.2)).map (·.1)) ++ keys).eraseDups.length

/-- GRANT (R305, R307, R321): a subset of the issuer's holding; a core goes to one L2 partition only; power needs POWER too and
its sum stays within the issuer's, and a lower share cuts the child's own children (R329); a package holds at most 32,768
environment pages (R11, R208), and a retired page is withheld (R335). -/
def doGrant (s : State) (p : Nat) (rights : BitVec 7) (a : Nat → Nat) : Answer :=
  let kind := a 1 % 256
  match childOf p (a 0 % 4096), specKeys kind (a 2) with
  | some q, some keys =>
    if kind = 8 ∧ !rights.getLsbD 3 then .error rRights
    else if kind = 8 ∧ powerOf s p < dividedPower s p q + a 2 % 2 ^ 13 then .error rNotHeld
    else if !keys.all (holds s p kind) then .error rNotHeld
    else if kind = 1 ∧ levelOf q = 2 ∧
        (authOf s).parts.any (fun e => decide (e.1 ≠ q ∧ levelOf e.1 = 2) && keys.any fun k => tget false e.2.cores k) then
      .error rNotHeld
    else if lockedFor s p q then .error rLocked
    else if scrubbed s kind keys then .error rBlocked
    else if kind = 9 ∧ 32768 < envPageCount s keys then .error rNoSpace
    else
      let keys := if kind = 9 then keys.filter fun k => !tget false (houseOf s).retiredPages k else keys
      let s := if kind = 8 then setPower s q (a 2 % 2 ^ 13) else modPart s q fun x =>
        setHeld x kind (keys.foldl (fun t k => tset false t k true) (heldTable x kind))
      let s := if kind = 3 then keys.foldl (fun s k => cellTo s k q false) s else s
      done (remeasure s)
  | _, _ => .error rBadArg

/-! Revocation (R308). -/

/-- A context uses a withdrawn resource. -/
def usesResource (s : State) (x kind : Nat) (keys : List Nat) : Bool :=
  let c := ctxOf s x
  let mapped := fun (f : Word → Bool) => (c.map.any fun e => bdV e.2 && f e.2) || c.bind.any fun e => bdV e.2 && f e.2
  match kind with
  | 1 => (tget [] (authOf s).coreSets c.coreset).any keys.contains || mapped fun e => keys.contains (mapCore e) || keys.contains (bdCore e)
  | 2 => keys.contains c.coreset
  | 3 => keys.any fun k =>
      let w := cellAt s (k / 16) (k % 16)
      decide (k % 16 = c.coreset ∧ cellKind w = 1 ∧ 0 < c.gang ∧ cellGang w = c.gang - 1)
  | 4 => decide (0 < c.gang) && keys.any fun k => decide (tget 0 (fabOf s).shares (16 * (k % 64) + k / 64) = c.gang)
  | 5 => (envOf s).harts.any fun h => keys.contains h.1 && decide (h.2.ctx = x ∧ h.2.role ≠ .idle)
  | 6 => keys.any fun g => tget false (partOf s c.vdid).mailGroups g
  | 7 => mapped fun e => bdProt e && (keys.contains (mapCore e / 128 * 256 + bdKey e) || keys.contains (bdCore e / 128 * 256 + bdKey e))
  | 9 => mapped fun e => bdEnv e && (keys.contains (mapCore e * 256 + bdPage e) || keys.contains (bdCore e * 256 + bdPage e))
  | _ => false

/-- Withdraw keys from one partition; its cells fall empty to the issuer, and its shares and harts fall idle, at once or at the
next boundary (R308). [log 74 DEDUCED] -/
def withdraw (s : State) (p q kind : Nat) (keys : List Nat) (atOnce : Bool) : State :=
  let mine := keys.filter fun k => tget false (heldTable (partOf s q) kind) k
  let s := modPart s q fun x => setHeld x kind (mine.foldl (fun t k => tset false t k false) (heldTable x kind))
  if kind = 3 then mine.foldl (fun s k => cellTo s k p true) s
  else if atOnce then putAway s kind mine
  else if kind ≠ 4 ∧ kind ≠ 5 ∨ mine = [] then s
  else setAuth s { authOf s with leaving := (authOf s).leaving ++ [(kind, mine)] }

/-- REVOKE (R308): the child's grant and every grandchild's are cut; the contexts that use what is withdrawn are torn down at
the next boundary (MODE 0) or now (MODE 1), and REVOKED is logged. [log 74 DEDUCED] -/
def doRevoke (s : State) (p : Nat) (a : Nat → Nat) : Answer :=
  let kind := a 1 % 256
  let atOnce := (a 1).testBit 8
  match childOf p (a 0 % 4096), specKeys kind (a 2) with
  | some q, some keys =>
    if !keys.all (holds s p kind) then .error rNotHeld
    else if lockedFor s p q then .error rLocked
    else if scrubbed s kind keys then .error rBlocked
    else
      let qs := q :: childrenOf q
      let users := ((authOf s).ctxs.filter fun e => qs.contains e.2.vdid && usesResource s e.1 kind keys).map (·.1)
      let s := if kind = 8 then
          setPower s q ((partOf s q).power - a 2 % 2 ^ 13)
        else qs.foldl (fun s r => withdraw s p r kind keys atOnce) s
      let s := if users.all fun x => decide ((ctxOf s x).vdid ≠ q) then postEvent s q .control evRevoked [kind, a 2] [] else s
      let s := if atOnce then users.foldl revokeContext s
        else users.foldl (fun s x => modCtx s x fun c => { c with doomed := true }) s
      done (remeasure s)
  | _, _ => .error rBadArg

/-- RIGHTS (R306, R307): a subset of the issuer's; grandchildren keep no more than their parent. -/
def doRights (s : State) (p : Nat) (rights : BitVec 7) (a : Nat → Nat) : Answer :=
  let m := BitVec.ofNat 7 (a 1)
  match childOf p (a 0 % 4096) with
  | none => .error rBadArg
  | some q =>
    if m &&& ~~~rights ≠ 0 then .error rNotHeld
    else if lockedFor s p q then .error rLocked
    else
      let s := modPart s q fun x => { x with rights := m }
      let s := (childrenOf q).foldl (fun s r =>
        if (partOf s r).rights &&& ~~~m = 0 then s else modPart s r fun x => { x with rights := x.rights &&& m }) s
      done (remeasure s)

/-- IFCFG of an L1's interface (R313, R316). -/
def doIfcfg (s : State) (p : Nat) (a : Nat → Nat) : Answer :=
  if levelOf p ≠ 1 then .error rBadArg
  else done (modPart s (16 * vfOf p + a 0 % 16) fun x => { x with pasid := BitVec.ofNat 20 (a 1), mirror := (a 1).testBit 20 })

/-- A disturbance budget within the issuer's own; 0 is no limit (R305, R307, R315). [log 105 DESIGN CHOICE] -/
def budgetHeld (s : State) (p n : Nat) : Bool :=
  let b := (partOf s p).distBudget
  p == 0 || b == 0 || (decide (n ≠ 0) && decide (n ≤ b))

/-- DISTCFG: a budget above the issuer's own is not held (R305, R307, R315). -/
def doDistcfg (s : State) (p : Nat) (a : Nat → Nat) : Answer :=
  match childOf p (a 0 % 4096) with
  | none => .error rBadArg
  | some q =>
    if 2 < a 2 % 4 then .error rBadArg
    else if !budgetHeld s p (a 1) then .error rNotHeld
    else if lockedFor s p q then .error rLocked
    else done (modPart s q fun x => { x with distBudget := a 1, distAction := a 2 % 4 })

/-- Every core is granted to some L1 (R305). -/
def coresGranted (s : State) (ks : List Nat) : Bool :=
  ks.all fun k => (authOf s).parts.any fun e => decide (levelOf e.1 = 1) && tget false e.2.cores k

/-- CORESET: whole cores, granted ones, that no other set has; L0 only (R247, R305, R320). [log 73 DEDUCED] -/
def doCoreset (s : State) (p : Nat) (a : Nat → Nat) : Answer :=
  let j := a 0 % 16
  match spanKeys 0 (a 1 % 2 ^ 10) (a 1 / 2 ^ 16 % 2 ^ 11) 1 1024 with
  | none => if p = 0 then .error rBadArg else .error rRights
  | some ks =>
    if p ≠ 0 then .error rRights
    else if (authOf s).coreSets.any fun e => decide (e.1 ≠ j) && e.2.any ks.contains then .error rBadArg
    else if !coresGranted s ks then .error rNotHeld
    else if lockedKey s p 2 j then .error rLocked
    else if scrubbed s 1 ks then .error rBlocked
    else done (setAuth s { authOf s with coreSets := tset [] (authOf s).coreSets j ks })

/-! Contexts, gangs, cells and shares. -/

/-- The context is the issuer's. -/
def ownsCtx (s : State) (p x : Nat) : Bool := levelOf p == 2 && decide ((ctxOf s x).vdid = p) && (authOf s).ctxs.any fun e => decide (e.1 = x)

/-- A protected context needs TDISP RUN and a TEE window whose VF has its IDE stream's key (R323). -/
def mayProtect (s : State) (p : Nat) : Bool :=
  tget .unlocked (authOf s).tdisp (vfOf p) == .run && ((partOf s p).windows.any fun w => w.2.tee) &&
    decide (tget 0 (authOf s).ideKeys (vfOf p) ≠ 0)

/-- The lowest free context id; 0 is none, and an id under scrub is not free. [log 81 DESIGN CHOICE] -/
def freeCtx (s : State) : Option Nat :=
  ((List.range 4096).drop 1).find? fun x => !((authOf s).ctxs.any fun e => decide (e.1 = x)) && !scrubbing s x

/-- CTXCREATE (R320, R323). [log 73 DEDUCED] -/
def doCtxcreate (s : State) (p : Nat) (a : Nat → Nat) : Answer :=
  let j := a 0 % 16
  let prot := (a 1).testBit 0
  if levelOf p ≠ 2 ∨ prot ∧ !mayProtect s p then .error rBadArg
  else if !holds s p 2 j then .error rNotHeld
  else if scrubbed s 2 [j] then .error rBlocked
  else
    match freeCtx s with
    | none => .error rNoSpace
    | some x => .ok (setCtx s x { vdid := p, coreset := j, protect := prot }, some (BitVec.ofNat 64 x))

/-- CTXMAP: 16,384 entries of 64 bits from host memory inside a readable window (R311, R320). -/
def doCtxmap (s : State) (p : Nat) (a : Nat → Nat) : Answer :=
  let x := a 0 % 4096
  if !ownsCtx s p x then .error rNotHeld
  else if a 1 % 4096 ≠ 0 ∨ !windowFor (partOf s p) (a 1) (2 ^ 17) false ∨ dmaBlocked s p then .error rBadArg
  else
    let m := (List.range 16384).foldl (fun t e =>
      tset 0 t e (BitVec.ofNat 64 (leNat (hostBytes s p (a 1 + 8 * e) 8)))) ([] : Table Word)
    if scrubbed s 9 ((m.filter fun e => bdV e.2).map fun e => mapCore e.2 * 256 + bdPage e.2) then .error rBlocked
    else done (modCtx s x fun c => { c with map := m })

/-- CTXDESTROY: torn down as REVOKE MODE 1, and its gang, apertures and id are gone (R320). -/
def doCtxdestroy (s : State) (p : Nat) (a : Nat → Nat) : Answer :=
  let x := a 0 % 4096
  if !ownsCtx s p x then .error rNotHeld
  else
    let c := ctxOf s x
    let idle := !(gangOf s (c.gang - 1)).hasRun || c.gang == 0
    let s := revokeContext s x
    let s := if idle then scrubContext s x else s
    let s := if c.gang = 0 then s else setGang s (c.gang - 1) {}
    let s := modPart s p fun y => { y with apertures := y.apertures.filter fun e => decide (e.2.1 ≠ x + 1) }
    done (setAuth s { authOf s with ctxs := tdel (authOf s).ctxs x })

/-- GANG: the gang of a context, its members and run list (R246, R320); one that would break an admitted run's H completes with
NOSPACE (R21). [log 12 DESIGN CHOICE] -/
def doGang (s : State) (p : Nat) (a : Nat → Nat) : Answer :=
  let g := a 0 % 2 ^ 24
  let x := a 0 / 2 ^ 32 % 4096
  let n := a 1 % 4096 + 1
  if !ownsCtx s p x then .error rNotHeld
  else if (ctxOf s x).gang ≠ 0 ∨ gangExists s g ∨ 2 ^ 35 ≤ a 2 then .error rBadArg
  else
    let ms := ((Config.podMembers g).filter fun m => decide (m ≠ chipOf s ∧ m < 4096)).eraseDups.take (n - 1)
    let s' := setGang (modCtx s x fun c => { c with gang := g + 1 }) g
      { ctx := x, coreset := (ctxOf s x).coreset, vdid := p, members := chipOf s :: ms, memberCount := n, runlist := a 2 }
    if (s'.gangs.any fun e => e.2.hasRun && decide (1 < e.2.memberCount) && decide (e.2.h < 2 * worstBound s' e.1)) ||
        overElsewhere s' then .error rNoSpace
    else done s'

/-- A cell's PART names its holder: the issuer, or a partition below it that holds the cell (R305). [log 105 DESIGN CHOICE] -/
def namesHolder (s : State) (p key part : Nat) : Bool :=
  decide (part = p % 4096) || (authOf s).parts.any fun e =>
    decide (e.1 % 4096 = part ∧ (parentOf e.1 = p ∨ p = 0)) && tget false e.2.cells key

/-- CELL (R248): of a cell the issuer holds, its PART naming the holder (R305); KIND 3 is refused. -/
def doCell (s : State) (p : Nat) (a : Nat → Nat) : Answer :=
  let key := 16 * (a 0 % 64) + a 0 / 2 ^ 8 % 16
  let w := a 1 % 2 ^ 39
  if a 1 / 2 ^ 24 % 4 = 3 then .error rBadArg
  else if !holds s p 3 key || !namesHolder s p key (w / 2 ^ 27 % 4096) then .error rNotHeld
  else if lockedKey s p 3 key then .error rLocked
  else done (setAuth s { authOf s with newCells := tins (authOf s).newCells key (BitVec.ofNat 64 w) })

/-- LINKSHARE (R233, R321). [log 73 DEDUCED] -/
def doLinkshare (s : State) (p : Nat) (a : Nat → Nat) : Answer :=
  let n := a 0 % 16
  let row := a 0 / 2 ^ 8 % 64
  if !holds s p 4 (64 * n + row) then .error rNotHeld
  else if lockedKey s p 4 (64 * n + row) then .error rLocked
  else
    let v := if (a 1).testBit 24 then 0 else a 1 % 2 ^ 24 + 1
    done (setFab s { fabOf s with shares := tset 0 (fabOf s).shares (16 * row + n) v })

/-- HOSTWIN: it takes effect in a switch window (R313); a TEE window of a locked VF is frozen, and to change it is LOCKED and puts
the VF in ERROR, as the command ends (R323). [log 73 DEDUCED] -/
def doHostwin (s : State) (p : Nat) (a : Nat → Nat) : Answer :=
  let i := a 0 % 16
  let old := tget {} (partOf s p).windows i
  let tee := (a 3).testBit 2
  if levelOf p ≠ 2 ∨ a 1 % 4096 ≠ 0 ∨ a 2 % 4096 ≠ 0 ∨ 2 ^ 40 < a 2 then .error rBadArg
  else if (old.tee || tee) && vfLocked s (vfOf p) then .error rLocked
  else
    done (modPart s p fun x =>
      { x with newWindows := tins x.newWindows i ⟨a 1, a 2, (a 3).testBit 0, (a 3).testBit 1, tee⟩ })

/-- A page of a context's entries `first` to `first + n − 1` is under scrub (R320). -/
def pagesScrubbed (s : State) (x first n : Nat) : Bool :=
  scrubbed s 9 ((List.range n).filterMap fun i =>
    let e := tget 0 (ctxOf s x).map (first + i)
    if bdV e then some (mapCore e * 256 + bdPage e) else none)

/-- APERTURE (R314, R321). -/
def doAperture (s : State) (p : Nat) (a : Nat → Nat) : Answer :=
  let i := a 0 % 4096
  if (a 0).testBit 63 then done (modPart s p fun x => { x with apertures := tset (0, 0) x.apertures i (0, 0) })
  else if !ownsCtx s p (a 1 % 4096) then .error rNotHeld
  else if pagesScrubbed s (a 1 % 4096) (a 2 % 16384) 1 then .error rBlocked
  else done (modPart s p fun x => { x with apertures := tset (0, 0) x.apertures i (a 1 % 4096 + 1, a 2 % 16384) })

/-! The supervisor's registers (R278, R284). -/

/-- MBOXCFG (R278): GRPCTL waits for the owning context's next switch-in while it runs; GRPACTIVE and EPNEXT take effect at
once. -/
def doMboxcfg (s : State) (p : Nat) (a : Nat → Nat) : Answer :=
  let g := a 0 % 128
  let v := BitVec.ofNat 64 (a 2)
  if !holds s p 6 g then .error rNotHeld
  else if lockedKey s p 6 g then .error rLocked
  else
    match a 1 % 4 with
    | 0 => done (writeGrpctl s g v)
    | 1 => done (writeGrpactive s g v)
    | 2 => done (writeEpnext s (64 * g + a 1 / 2 ^ 8 % 64) v)
    | _ => .error rBadArg

/-- The pairs that a HARTCFG names are in groups of the issuer. -/
def pairsHeld (s : State) (p first n : Nat) : Bool := (List.range n).all fun i => holds s p 6 ((first + i) / 64)

/-- The context's gang is on its core set. -/
def ctxRuns (s : State) (x : Nat) : Bool := decide (0 < (ctxOf s x).gang) && onSet (gangOf s ((ctxOf s x).gang - 1))

/-- HARTCFG (R278, R284, R321): a write for a hart whose context runs waits for its next switch-in; the window lies over the
context's environment pages. [log 71 DEDUCED] -/
def doHartcfg (s : State) (p : Nat) (a : Nat → Nat) : Answer :=
  let h := a 0 % 256
  let role := a 0 / 2 ^ 8 % 4
  let x := a 3 % 4096
  let first := a 3 / 2 ^ 12 % 2 ^ 14
  let n := a 3 / 2 ^ 26 % 2 ^ 14
  let ws := (List.range 4).map fun i => BitVec.ofNat 64 (a i)
  let used := role == 1 || role == 2
  let pair := a 0 / 2 ^ 16 % 2 ^ 13
  let pairs := if role = 1 then 1 else a 0 / 2 ^ 32 % 2 ^ 13
  let pages := decide (first + n ≤ 16384) && (List.range n).all fun i =>
    let e := tget 0 (ctxOf s x).map (first + i)
    bdV e && bdEnv e
  if !holds s p 5 h then .error rNotHeld
  else if used && decide (8192 < pair + pairs) then .error rBadArg
  else if used && !(ownsCtx s p x && pairsHeld s p pair pairs) then .error rNotHeld
  else if used && !pages then .error rBadArg
  else if lockedKey s p 5 h then .error rLocked
  else if used && pagesScrubbed s x first n then .error rBlocked
  else if (hartOwner s h ws).any (ctxRuns s) then done (setEnv s { envOf s with waiting := (envOf s).waiting ++ [(1, h, ws)] })
  else done (configureHart s h ws)

/-! Debugging (R298). -/

/-- A debugging stop of core `k` in cycle `x`: nothing is suppressed, the core freezes at the cycle's end, and the gang is held
with cause DEBUG; `r` is the first of the faults `rs` raised in that cycle; what is in flight goes to the replay buffer and the
image is written (R294, R297, R298). [log 66 DEDUCED] -/
def debugStop (s : State) (k : Nat) (r : Raise) (rs : List Raise) : State :=
  let x := gcycOf s k
  let s := modCore s k fun c =>
    { c with fault := recordOf r rs x, frozenAt := some (x + 1), stopped := true, raised := [], doomed := [] }
  if s.looking then s
  else
    let g := (coreOf s k).gang
    let s := captureOn (storeImage s (gangOf s g).ctx k (x + 1) (coreOf s k) false) g [k]
    announceHold s g (x + leadOf s k) .debug k

/-- The image of context core `i` and its freeze cycle: a saved one, or a core that stands (R296, R297, R298). -/
def imageFor (s : State) (x i : Nat) : Option (Nat × Nat × Core) :=
  match s.hub.images.find? fun e => decide (e.1 / 1024 = x ∧ e.2.idx = i) with
  | some e => some (e.1 % 1024, (gangOf s e.2.gang).frozenAt, e.2)
  | none =>
    let g := (ctxOf s x).gang - 1
    match coreAt s g i with
    | some k =>
      let c := coreOf s k
      match c.frozenAt with
      | some t => if c.stopped then some (k, t, c) else none
      | none => if (gangOf s g).mode = .held ∧ (gangOf s g).hasRun then some (k, (gangOf s g).frozenAt, c) else none
    | none => none

/-- The bytes that a debugger reads: of a core that was vacated, stopped or torn down, the save area's; of one that stands in its
gang's hold, its image as it is now (R297, R298). -/
def readImageBytes (s : State) (x k t : Nat) (c : Core) : List Byte :=
  match imagePlace s x k with
  | some a =>
    if (s.hub.images.find? fun e => decide (e.1 = x * 1024 + k)).isSome || c.stopped then storedImage s a
    else imageBytes s x k t c
  | none => imageBytes s x k t c

/-- An image written by a debugger goes into the save area (R298). -/
def writeImageBytes (s : State) (x k : Nat) (bs : List Byte) : State :=
  match imagePlace s x k with
  | some a => putDev s a bs
  | none => s

/-- Put an image's core back where it was found. -/
def putImage (s : State) (x k : Nat) (c : Core) : State :=
  let key := x * 1024 + k
  if (s.hub.images.find? fun e => decide (e.1 = key)).isSome then
    { s with hub := { s.hub with images := tins s.hub.images key c } }
  else setCore s k c

/-- DEBUG (R298, R320, R321). [log 66 DEDUCED] -/
def doDebug (s : State) (p : Nat) (a : Nat → Nat) : Answer :=
  let x := a 0 % 4096
  let c := ctxOf s x
  let g := c.gang - 1
  let ks := if c.gang = 0 then [] else gangCores s g
  if !ownsCtx s p x then .error rNotHeld
  else
    match a 1 % 16 with
    | 0 => done (ks.foldl (fun s k => modCore s k fun c => { c with dbg := c.dbg &&& 2 }) (modCtx s x fun c => { c with stop := false }))
    | 1 => done (ks.foldl (fun s k => modCore s k fun c => { c with dbg := c.dbg ||| 1 }) (modCtx s x fun c => { c with stop := true }))
    | 2 =>
      match ks.find? fun k => (coreOf s k).running && (coreOf s k).frozenAt.isNone with
      | some k =>
        if c.stop ∧ (gangOf s g).mode = .running then
          let (n, s) := takeFresh s
          let code := (Config.openByte n).toNat
          let r : Raise := ⟨code, gcycOf s k, (coreOf s k).pc, 0, 0, 0, 0⟩
          done (debugStop s k r [r])
        else .error rBadArg
      | none => .error rBadArg
    | 3 =>
      match imageFor s x (a 3 % 1024) with
      | none => .error rBadArg
      | some (k, t, img) =>
        let bs := readImageBytes s x k t img
        if dmaBlocked s p then .error rBadArg
        else .ok (putHost s p (a 2) bs, some (BitVec.ofNat 64 bs.length))
    | 4 =>
      match imageFor s x (a 3 % 1024) with
      | none => .error rBadArg
      | some (k, t, img) =>
        let h := hostBytes s p (a 2) 256
        let n := fieldAt h 24 8 + 288 * min 512 (fieldAt h 12 4)
        let bs := hostBytes s p (a 2) (min n 0x200000)
        let s := writeImageBytes (modCtx s x fun c => { c with badImage := true }) x k bs
        let s := modGang (placeEntries s k t img (entriesOfImage bs)) g fun y => countsOfImage y bs
        if dmaBlocked s p then .error rBadArg
        else .ok (putImage s x k (coreOfImage img bs), some (BitVec.ofNat 64 bs.length))
    | _ => .error rBadArg

/-- HOLDREL (R47, R298, R321): the gang's watchdog or debug holds, with S the present pod cycle; a stopped core's image is checked
then (R297). -/
def doHoldrel (s : State) (p : Nat) (rights : BitVec 7) (a : Nat → Nat) : Answer :=
  let g := a 0 % 2 ^ 24
  let go := fun (cause : HoldCause) (right : Nat) =>
    let hs := (gangOf s g).holds.filter fun h => decide (h.cause = cause ∧ h.released = none)
    if !rights.getLsbD right then (.error rRights : Answer)
    else if (gangOf s g).vdid ≠ p then .error rNotHeld
    else if hs = [] then .error rBadArg
    else
      let s := hs.foldl (fun s h => leekMembers (markReleased s g h.number s.pod) g (.release g h.number s.pod)) s
      done (if cause = .debug then checkDigest s g ((gangCores s g).filter fun k => (coreOf s k).stopped) else s)
  match a 1 % 16 with
  | 1 => go .watchdog 1
  | 2 => go .debug 4
  | _ => .error rBadArg

/-! Counters and reports. -/

/-- A lifetime counter (R336). [log 64 DESIGN CHOICE] -/
def lifeOf (s : State) (set pos : Nat) : Nat := tget 0 (houseOf s).lifetime (set * 2 ^ 22 + pos)

/-- The cores, dies, islands, links and pages whose counters page `p` reads (R336). -/
def readsCore (s : State) (p k : Nat) : Bool := holds s p 1 k
def readsDie (s : State) (p d : Nat) : Bool := (List.range 128).any fun i => readsCore s p (128 * d + i)
def readsIsland (s : State) (p n : Nat) : Bool := (List.range 64).any fun i => readsCore s p (64 * n + i)
def readsLink (s : State) (p n : Nat) : Bool := (List.range 64).any fun r => holds s p 4 (64 * n + r)

/-- The counters of a set in the order of R336. [log 64 DESIGN CHOICE] -/
def counterSet (s : State) (p set : Nat) : List Nat :=
  match set with
  | 0 => [lifeOf s 0 0]
  | 1 => ((List.range 8).filter (readsDie s p)).flatMap fun d => (List.range 16).map fun b => lifeOf s 1 (16 * d + b)
  | 2 => ((List.range 16).filter (readsIsland s p)).flatMap fun i => (List.range 16).map fun b => lifeOf s 2 (16 * i + b)
  | 3 =>
    let ks := (List.range 1024).filter (readsCore s p)
    (ks.flatMap fun k =>
      ((List.range 128).flatMap fun m => [lifeOf s 3 (unitPos (.sramCorrected k m)), lifeOf s 3 (unitPos (.sramUncorrectable k m))]) ++
        [lifeOf s 3 (unitPos (.logic k))]) ++
      (ks.flatMap fun k => (List.range 256).flatMap fun g =>
        [lifeOf s 3 (unitPos (.pageCorrected (256 * k + g))), lifeOf s 3 (unitPos (.pageUncorrectable (256 * k + g)))]) ++
      ((List.finRange 16).filter fun n => readsLink s p n.val).map fun n => lifeOf s 3 (unitPos (.link n))
  | 4 => (List.range 8).flatMap fun c => [lifeOf s 4 c, lifeOf s 4 (16 + c)]
  | 5 => [lifeOf s 5 0]
  | _ => [(((houseOf s).lifetime.filter fun e => decide (e.1 / 2 ^ 22 = 6)).map (·.2)).sum]

/-- COUNTERS (R321, R336). [log 64 DESIGN CHOICE] -/
def doCounters (s : State) (p : Nat) (a : Nat → Nat) : Answer :=
  if 6 < a 0 % 256 ∨ dmaBlocked s p then .error rBadArg
  else
    let bs := ((counterSet s p (a 0 % 256)).map (leBytes 8)).flatten
    .ok (putHost s p (a 1) bs, some (BitVec.ofNat 64 bs.length))

/-- A measurement block's 32 bytes: 1 to 5 as the boot recorded them, 6 as the last grant left it (R326, R339). [log 15 DESIGN
CHOICE] -/
def measurement (s : State) (block : Nat) : List Byte :=
  (List.range 32).map fun i => Config.openByte ((if block = 6 then (authOf s).measured else (authOf s).bootMeasured) + 32 * block + i)

/-- SHA-256 of the measurements of the hub's firmware (R324). -/
def firmwareDigest (s : State) : Nat := beNat (sha256 ((List.range 5).flatMap fun i => measurement s (i + 1)))

/-- BAR ranges of a VF and its interfaces, as BAR, offset and size, with the MSI-X vectors' masks: authority pages in BAR0,
apertures of 8 GiB in BAR2 (R314, R318, R319, R324). [log 15 DESIGN CHOICE] -/
def functionLayout (s : State) (q : Nat) : List Nat :=
  ((q :: childrenOf q).zip (List.range 17)).flatMap fun p =>
    [0, p.2 * 0x10000, 4096, 2, p.2 * 2 ^ 33, 2 ^ 33, (vectorOf p.1).2, if (partOf s p.1).vecMasked then 1 else 0]

/-- What a report of page `q` lists: its BAR ranges and vectors, its grants, the windows of its interfaces that are marked TEE,
and the digest of the firmware's measurements (R324). -/
def reported (s : State) (q : Nat) : List Nat :=
  let x := partOf s q
  let tables := [x.cores, x.cells, x.shares, x.harts, x.mailGroups, x.keys].map fun t => (t.filter (·.2)).map (·.1)
  let tee := (q :: childrenOf q).flatMap fun p => (partOf s p).windows.flatMap fun w => if w.2.tee then [p, w.1, w.2.base, w.2.len] else []
  firmwareDigest s :: q :: x.power :: (tables.flatMap fun t => t.length :: t) ++ tee ++ functionLayout s q

/-- An interface report: its encoding is the security engine's (R324). [log 15 DESIGN CHOICE] -/
def reportBytes (s : State) (q : Nat) : List Byte :=
  (List.range (Config.reportSize (reported s q))).map (Config.reportByte (reported s q))

/-- REPORT of the issuer's own interface or VF, or of a child's (R320, R324). -/
def doReport (s : State) (p : Nat) (a : Nat → Nat) : Answer :=
  let v := a 0 % 4096
  let mine := match levelOf p with
    | 0 => true
    | 1 => decide (v / 16 = vfOf p)
    | _ => decide (v = p)
  if v / 16 < 1 ∨ 64 < v / 16 ∨ dmaBlocked s p then .error rBadArg
  else if !mine then .error rNotHeld
  else
    let bs := reportBytes s (if levelOf p ≤ 1 ∧ v % 16 = 0 then l1Page (v / 16) else v)
    .ok (putHost s p (a 1) bs, some (BitVec.ofNat 64 bs.length))

/-! Acceptance and completion (R319, R320). -/

/-- The right a command needs (R320); none where the command decides. -/
def commandRight (op : Nat) : Option Nat :=
  match op with
  | 0x01 => some 6
  | 0x02 => some 6
  | 0x03 => some 6
  | 0x04 => some 6
  | 0x05 => some 6
  | 0x10 => some 0
  | 0x11 => some 0
  | 0x12 => some 0
  | 0x18 => some 1
  | 0x19 => some 1
  | 0x1A => some 1
  | 0x20 => some 0
  | 0x21 => some 0
  | 0x22 => some 0
  | 0x23 => some 0
  | 0x28 => some 6
  | 0x30 => some 4
  | 0x38 => some 2
  | 0x3C => some 5
  | _ => none

/-- What a command of page `p` does, with its rights as it is taken and its arguments as they stood when PACMD was written (R308,
R320, R321). -/
def runCommand (s : State) (p op : Nat) (rights : BitVec 7) (a : Nat → Nat) : Answer :=
  if (commandRight op).any fun r => !rights.getLsbD r then .error rRights
  else
    match op with
    | 0x01 => doGrant s p rights a
    | 0x02 => doRevoke s p a
    | 0x03 => doRights s p rights a
    | 0x04 => doIfcfg s p a
    | 0x05 => doCoreset s p a
    | 0x10 => doCtxcreate s p a
    | 0x11 => doCtxmap s p a
    | 0x12 => doCtxdestroy s p a
    | 0x18 => doGang s p a
    | 0x19 => doCell s p a
    | 0x1A => doLinkshare s p a
    | 0x20 => doHostwin s p a
    | 0x21 => doAperture s p a
    | 0x22 => doMboxcfg s p a
    | 0x23 => doHartcfg s p a
    | 0x28 => doDistcfg s p a
    | 0x30 => doDebug s p a
    | 0x31 => doHoldrel s p rights a
    | 0x38 => doCounters s p a
    | 0x3C => doReport s p a
    | _ => .error rBadArg

/-! TDISP states (R323). -/

def tdispOf (s : State) (v : Nat) : Tdisp := tget .unlocked (authOf s).tdisp v

/-- A TDISP state change, with its CONTROL event to the VF's L1, written before ERROR blocks it (R316, R323). -/
def setTdisp (s : State) (v : Nat) (t : Tdisp) : State :=
  if tdispOf s v = t then s
  else
    let s := postEvent s (l1Page v) .control evTdisp [v] []
    setAuth s { authOf s with tdisp := tset .unlocked (authOf s).tdisp v t }

/-- The contexts of a VF's interfaces. -/
def vfContexts (s : State) (v : Nat) : List Nat := ((authOf s).ctxs.filter fun e => decide (vfOf e.2.vdid = v)).map (·.1)

/-- Tear a context's run down, with no HALT. [log 54 DEDUCED] -/
def tearContext (s : State) (x : Nat) : State :=
  if (ctxOf s x).gang = 0 then s else abortGang s ((ctxOf s x).gang - 1) .resource

/-- Tear down every context of a VF (R323). [log 54 DEDUCED] -/
def tearVf (s : State) (v : Nat) : State := (vfContexts s v).foldl tearContext s

/-- The VF goes to ERROR from CONFIG_LOCKED or RUN (R323). -/
def failVf (s : State) (v : Nat) : State := if vfLocked s v then setTdisp (tearVf s v) v .error else s

/-- The order in which outstanding commands are taken: by pod cycle, then VDID (R320). -/
def takenBefore (a b : Nat × Partition) : Bool :=
  decide (a.2.taken < b.2.taken) || (decide (a.2.taken = b.2.taken) &&
    (decide (a.1 % 4096 < b.1 % 4096) || (decide (a.1 % 4096 = b.1 % 4096) && decide (b.1 < a.1))))

/-- The command's RESULT, SEQ, PAARG0 and completion record (R316, R319, R321); an attempt to change a frozen window puts the VF
in ERROR (R323). -/
def endCommand (s : State) (p op : Nat) (r : Answer) : State :=
  let (s, res, v) := match r with
    | .ok (s', v) => (s', 0, v)
    | .error e => (if op = 0x20 ∧ e = rLocked then failVf s (vfOf p) else s, e, none)
  let s := modPart s p fun x =>
    { x with busy := false, result := BitVec.ofNat 8 res, seq := x.seq + 1, cmd := [], arg0 := v.getD x.arg0 }
  postEvent s p .control evCommand [op, res] []

/-- A command completes, unless one taken before it is still outstanding (R320). [log 9 DESIGN CHOICE] -/
def completeCommand (s : State) (p op : Nat) : State :=
  let x := partOf s p
  if !x.busy then s
  else if (authOf s).parts.any fun e => e.2.busy && takenBefore e (p, x) then
    post s ⟨.pod, s.pod + 1, phHub, none, .deed (.command p op)⟩
  else endCommand s p op (runCommand s p op (rightsOf s p) fun i => (x.cmd.getD i 0).toNat)

/-- A PACMD write (R319 to R321): ignored while BUSY, and where the boot ROM's recovery function stands (R339); else the
arguments, with the field that the row's name fixes, are taken as they stand, and the command completes within a time the manual
leaves open. -/
def pacmdAs (p op : Nat) (fix : List Word → List Word) (s : State) : State :=
  let x := partOf s p
  if x.busy ∨ (houseOf s).recovery then s
  else
    let (n, s) := takeFresh s
    let s := setPart s p
      { x with busy := true, taken := s.pod, cmd := fix [x.arg0, x.arg1, x.arg2, x.arg3] }
    post s ⟨.pod, s.pod + 1 + Config.hostLatency n, phHub, none, .deed (.command p op)⟩

/-- A PACMD write whose row fixes no field. [log 9 DESIGN CHOICE] -/
def pacmd (p op : Nat) (s : State) : State := pacmdAs p op id s

/-- Bits `lo` to `lo + n − 1` of argument `i` hold `v`. [log 73 DEDUCED] -/
def fixField (i lo n v : Nat) (ws : List Word) : List Word :=
  let m : Word := BitVec.ofNat 64 ((2 ^ n - 1) * 2 ^ lo)
  ws.modify i fun w => (w &&& ~~~m) ||| BitVec.ofNat 64 (v * 2 ^ lo)

/-- GRANT (R305, R307, R321). -/
def execGrant (vdid : Nat) (s : State) : Out := .next (pacmd vdid 0x01 s)

/-- REVOKE with MODE 0 (R308). -/
def execRevokeBoundary (vdid : Nat) (s : State) : Out :=
  .next (pacmdAs vdid 0x02 (fixField 1 8 1 0) s)

/-- REVOKE with MODE 1 (R308). -/
def execRevokeAtOnce (vdid : Nat) (s : State) : Out :=
  .next (pacmdAs vdid 0x02 (fixField 1 8 1 1) s)

/-- RIGHTS (R306, R307). -/
def execRights (vdid : Nat) (s : State) : Out := .next (pacmd vdid 0x03 s)

/-- IFCFG (R321). -/
def execIfcfg (vdid : Nat) (s : State) : Out := .next (pacmd vdid 0x04 s)

/-- CORESET (R247, R320). -/
def execCoreset (vdid : Nat) (s : State) : Out := .next (pacmd vdid 0x05 s)

/-- CTXCREATE (R320). -/
def execCtxcreate (vdid : Nat) (s : State) : Out := .next (pacmd vdid 0x10 s)

/-- CTXMAP (R311, R320). -/
def execCtxmap (vdid : Nat) (s : State) : Out := .next (pacmd vdid 0x11 s)

/-- CTXDESTROY (R320). -/
def execCtxdestroy (vdid : Nat) (s : State) : Out := .next (pacmd vdid 0x12 s)

/-- GANG (R21, R246, R320). -/
def execGang (vdid : Nat) (s : State) : Out := .next (pacmd vdid 0x18 s)

/-- CELL (R248). -/
def execCell (vdid : Nat) (s : State) : Out := .next (pacmd vdid 0x19 s)

/-- LINKSHARE (R233, R320). -/
def execLinkshare (vdid : Nat) (s : State) : Out := .next (pacmdAs vdid 0x1A (fixField 1 24 1 0) s)

/-- LINKSHARE with CLEAR (R321). -/
def execLinkshareClear (vdid : Nat) (s : State) : Out := .next (pacmdAs vdid 0x1A (fixField 1 24 1 1) s)

/-- HOSTWIN (R313). -/
def execHostwin (vdid : Nat) (s : State) : Out := .next (pacmd vdid 0x20 s)

/-- APERTURE (R314). -/
def execAperture (vdid : Nat) (s : State) : Out := .next (pacmdAs vdid 0x21 (fixField 0 63 1 0) s)

/-- APERTURE with CLEAR (R321). -/
def execApertureClear (vdid : Nat) (s : State) : Out := .next (pacmdAs vdid 0x21 (fixField 0 63 1 1) s)

/-- MBOXCFG of GRPCTL (R278). -/
def execMboxcfgGrpctl (vdid : Nat) (s : State) : Out := .next (pacmdAs vdid 0x22 (fixField 1 0 2 0) s)

/-- MBOXCFG of GRPACTIVE (R278). -/
def execMboxcfgGrpactive (vdid : Nat) (s : State) : Out := .next (pacmdAs vdid 0x22 (fixField 1 0 2 1) s)

/-- MBOXCFG of EPNEXT (R278). -/
def execMboxcfgEpnext (vdid : Nat) (s : State) : Out := .next (pacmdAs vdid 0x22 (fixField 1 0 2 2) s)

/-- HARTCFG (R284, R321). -/
def execHartcfg (vdid : Nat) (s : State) : Out := .next (pacmd vdid 0x23 s)

/-- DISTCFG (R315). -/
def execDistcfg (vdid : Nat) (s : State) : Out := .next (pacmd vdid 0x28 s)

/-- DEBUG: STOP off (R298). -/
def execDebugStopOff (vdid : Nat) (s : State) : Out := .next (pacmdAs vdid 0x30 (fixField 1 0 4 0) s)

/-- DEBUG: STOP on (R298). -/
def execDebugStopOn (vdid : Nat) (s : State) : Out := .next (pacmdAs vdid 0x30 (fixField 1 0 4 1) s)

/-- DEBUG: HALT (R298). -/
def execDebugHalt (vdid : Nat) (s : State) : Out := .next (pacmdAs vdid 0x30 (fixField 1 0 4 2) s)

/-- DEBUG: image read (R321). -/
def execDebugImageRead (vdid : Nat) (s : State) : Out := .next (pacmdAs vdid 0x30 (fixField 1 0 4 3) s)

/-- DEBUG: image write (R321). -/
def execDebugImageWrite (vdid : Nat) (s : State) : Out := .next (pacmdAs vdid 0x30 (fixField 1 0 4 4) s)

/-- HOLDREL (R47, R298, R321). -/
def execHoldrel (vdid : Nat) (s : State) : Out := .next (pacmd vdid 0x31 s)

/-- COUNTERS (R336). -/
def execCounters (vdid : Nat) (s : State) : Out := .next (pacmd vdid 0x38 s)

/-- REPORT (R324). -/
def execReport (vdid : Nat) (s : State) : Out := .next (pacmd vdid 0x3C s)

/-- An OP of R320's table. -/
def opListed (op : Nat) : Bool := (commandRight op).isSome || op == 0x31

/-- A PACMD write with an OP that the table does not list completes with BADARG (R320). -/
def execPacmdInvalidOp (vdid : Nat) (op : BitVec 8) (s : State) : Out :=
  .next (pacmd vdid (if opListed op.toNat then 0 else op.toNat) s)

end Sys2Proof.Machine
end

