-- ==== Sys2Proof/Machine/House.lean ====
section
/-! DEFINITION. What reaches the hub from outside: host accesses (R314), page registers (R318, R319, R338), link security (R322
to R326), and housekeeping (R328 to R333, R339). -/

namespace Sys2Proof.Machine

/-! Host accesses. -/

/-- The device address an aperture slot gives now: the slot is valid and passes the checks of composition; no write through a
read-only page (R205, R311, R314). [log 63 DEDUCED] -/
def apertureAddr (s : State) (p slot offset n : Nat) (write : Bool) : Option Nat :=
  let a := tget (0, 0) (partOf s p).apertures slot
  let e := tget 0 (ctxOf s (a.1 - 1)).map a.2
  let b := composedEntry e
  if decide (0 < a.1 ∧ offset + n ≤ 2 ^ 21) && bdV e && composeOk s (a.1 - 1) e && !(write && bdRdonly e) &&
      slotMapOf s (bdCore b) != 0 then some (homeAddr b offset)
  else none

/-- The host receives an answer to an access through an aperture: 0 successful, 1 Unsupported Request (R314). -/
def answerHost (s : State) (p slot offset status : Nat) : State :=
  setAuth s { authOf s with completions := (authOf s).completions ++ [(p, slot, offset, status, [])] }

/-- HOST_APERTURE_ACCESS: an untimed access of class 3, or Unsupported Request, as of every access to the boot ROM's recovery
function (R183, R193, R314, R339); a read of as many bytes as
`data` holds. -/
def execHostApertureAccess (vdid slot offset : Nat) (write : Bool) (data : List (BitVec 8)) (s : State) : Out :=
  match if (houseOf s).recovery then none else apertureAddr s vdid slot offset data.length write with
  | none => .next (answerHost s vdid slot offset 1)
  | some a =>
    let u : Untimed :=
      { agent := agentId 3 vdid, space := .dram, write := write, addr := a, data := if write then data else []
        len := data.length, poison := false, tag := slot * 2 ^ 21 + offset, received := 0, whole := false }
    .next (sendUntimed s u)

/-- REGISTER_WRITE to an authority page (R319), or to a housekeeping register of PF0's page (R338); others ignore it. -/
def writePage (s : State) (p off : Nat) (v : Word) : State :=
  let h := houseOf s
  if off = 0x010 then modPart s p fun x => { x with arg0 := v }
  else if off = 0x018 then modPart s p fun x => { x with arg1 := v }
  else if off = 0x020 then modPart s p fun x => { x with arg2 := v }
  else if off = 0x028 then modPart s p fun x => { x with arg3 := v }
  else if off = 0x040 then modPart s p fun x => { x with evBase := v &&& 0xFFFFFFFFFFFFFF80 }
  else if off = 0x048 then modPart s p fun x => { x with evSize := v.toNat % 32 }
  else if off = 0x058 then modPart s p fun x => { x with evTail := v.setWidth 32 }
  else if off = 0x060 then (if v.getLsbD 63 then modPart s p fun x => { x with evLost := 0 } else s)
  else if off = 0x008 then pacmd p (v.toNat % 256) s
  else if p ≠ 0 then s
  else if off = 0x100 then capShares (setHouse s { h with pcap := v.toNat % 2 ^ 13 })
  else if off = 0x120 then (if v.getLsbD 0 then setHouse s { h with replace := false } else s)
  else if off = 0x128 then setHouse s { h with errwin := v.toNat % 256 }
  else if off = 0x130 then setHouse s { h with hkwin0 := v &&& 0xFFFFFFFFFFFFF000 }
  else if off = 0x138 then setHouse s { h with hkwin1 := v &&& 0xFFFFFFFFFFFFF000 }
  else if off = 0x140 then setHouse s { h with hkwin2 := v &&& 0xFFFFFFFFFFFFF000 }
  else if off = 0x148 then setHouse s { h with hkwin3 := v &&& 0xFFFFFFFFFFFFF000 }
  else s

/-- The authority page and the offset in it at an offset of a function's BAR0: a VF's interface i has its page at 0x1_0000 × (i +
1) (R319). -/
def barPage (p off : Nat) : Nat × Nat :=
  if levelOf p = 1 ∧ 0x10000 ≤ off ∧ off < 0x110000 then (16 * vfOf p + off / 0x10000 - 1, off % 0x10000) else (p, off)

/-- REGISTER_WRITE (R319, R338); none reaches the boot ROM's recovery function (R339). -/
def execRegisterWrite (vdid offset : Nat) (value : BitVec 64) (s : State) : Out :=
  if (houseOf s).recovery then .next s
  else
    let q := barPage vdid offset
    .next (writePage s q.1 q.2 value)

/-- Bits of a Bool table's true entries. -/
def trueCount (t : Table Bool) : Nat := (t.filter (·.2)).length

/-- The value of a register of an authority page (R319), or of a housekeeping register (R338); others read 0. -/
def pageRead (s : State) (p off : Nat) : Nat :=
  let x := partOf s p
  let h := houseOf s
  if off = 0x000 then p % 4096 + levelOf p * 2 ^ 12 + (rightsOf s p).toNat * 2 ^ 14
  else if off = 0x010 then x.arg0.toNat
  else if off = 0x018 then x.arg1.toNat
  else if off = 0x020 then x.arg2.toNat
  else if off = 0x028 then x.arg3.toNat
  else if off = 0x030 then bitAt x.busy 0 + x.result.toNat * 2 ^ 8 + x.seq.toNat * 2 ^ 32
  else if off = 0x040 then x.evBase.toNat
  else if off = 0x048 then x.evSize
  else if off = 0x050 then x.evHead.toNat
  else if off = 0x058 then x.evTail.toNat
  else if off = 0x060 then x.evLost.toNat
  else if off = 0x068 then x.distAcc % 2 ^ 64
  else if p ≠ 0 then 0
  else if off = 0x100 then h.pcap
  else if off = 0x108 then h.pwrnow % 2 ^ 13
  else if off = 0x110 then h.tempmax % 256 + h.sensor % 32 * 2 ^ 8
  else if off = 0x118 then h.retained.toNat
  else if off = 0x120 then
    bitAt h.replace 0 + trueCount h.retiredCores % 2 ^ 10 * 2 + trueCount h.retiredPages % 2 ^ 13 * 2 ^ 11 +
      trueCount h.retiredLinks % 2 ^ 5 * 2 ^ 24
  else if off = 0x128 then h.errwin
  else if off = 0x130 then h.hkwin0.toNat
  else if off = 0x138 then h.hkwin1.toNat
  else if off = 0x140 then h.hkwin2.toNat
  else if off = 0x148 then h.hkwin3.toNat
  else 0

/-- The registers of a die's scrub engine, in the order of R300: SCRUB_CTX, SCRUB_PROGRESS, SCRUB_TOTAL, SCRUB_STATUS. -/
def scrubRegister (s : State) (die n : Nat) : Nat :=
  let e := scrubOf s die
  match n with
  | 0 => e.ctx % 4096
  | 1 => e.progress % 2 ^ 48
  | 2 => e.total % 2 ^ 48
  | _ => bitAt e.done 0 + e.queued.length % 32 * 2

/-- MSIX_VECTOR_UNMASK: a Pending message is sent (R318). [log 89 PRESUMED] -/
def execMsixVectorUnmask (vdid vector : Nat) (s : State) : Out :=
  if vector ≠ (vectorOf vdid).2 then .next s
  else
    let x := partOf s vdid
    let s := setPart s vdid { x with vecMasked := false, vecPending := false }
    .next (if x.vecPending then setAuth s { authOf s with messages := (authOf s).messages ++ [vectorOf vdid] } else s)

/-- SLOT_MATRIX_ROWS_AND_LENGTH: ROWS from 1 to 64 and k from 20 to 31 (R248). -/
def execSlotMatrixRowsAndLength (rows k : Nat) (s : State) : Out :=
  if 1 ≤ rows ∧ rows ≤ 64 ∧ 20 ≤ k ∧ k ≤ 31 then .next (setAuth s { authOf s with rows := rows, slotExp := k }) else .next s

/-! Link security. -/

/-- LOCK_INTERFACE_REQUEST (R323). -/
def execLockInterfaceRequest (vf : Nat) (s : State) : Out :=
  .next (if tdispOf s vf = .unlocked then setTdisp s vf .locked else s)

/-- START_INTERFACE_REQUEST (R323). -/
def execStartInterfaceRequest (vf : Nat) (s : State) : Out :=
  .next (if tdispOf s vf = .locked then setTdisp s vf .run else s)

/-- A stopped VF is unlocked, once what its protected contexts held is scrubbed (R323). [log 73 DEDUCED] -/
def tdispStop (s : State) (vf : Nat) : State :=
  if (vfContexts s vf).any (scrubbing s) then post s ⟨.pod, s.pod + 1, phHub, none, .deed (.tdispStop vf)⟩
  else setTdisp s vf .unlocked

/-- STOP_INTERFACE_REQUEST: contexts are torn down, protected ones scrubbed first; out of ERROR only after SCRUB_DONE (R323).
[log 73 DEDUCED] -/
def execStopInterfaceRequest (vf : Nat) (s : State) : Out :=
  match tdispOf s vf with
  | .unlocked => .next s
  | .error => .next (tdispStop s vf)
  | _ => .next (tdispStop (tearVf s vf) vf)

/-- FROZEN_CONFIGURATION_CHANGE (R323). -/
def execFrozenConfigurationChange (vf : Nat) (s : State) : Out := .next (failVf s vf)

/-- FUNCTION_LEVEL_RESET: its contexts are torn down as REVOKE MODE 1; a VF in CONFIG_LOCKED or RUN goes to ERROR, and each to
CONFIG_UNLOCKED once nothing of it is being scrubbed (R322, R323). [log 54 DEDUCED] -/
def execFunctionLevelReset (vf : Nat) (s : State) : Out :=
  let s := (vfContexts s vf).foldl revokeContext s
  .next (tdispStop (if vfLocked s vf then setTdisp s vf .error else s) vf)

/-- IDE_KM: a stream's key (R325). [log 65 DESIGN CHOICE] -/
def execIdeKm (stream : Nat) (key : BitVec 256) (s : State) : Out :=
  .next (if stream ≤ 65 then setAuth s { authOf s with ideKeys := tset 0 (authOf s).ideKeys stream key } else s)

/-- IDE_INTEGRITY_FAILURE: streams 1 to 64 are the VFs', 0 is PF0's and 65 the link's (R325). [log 65 DESIGN CHOICE, 87 DESIGN
CHOICE] -/
def execIdeIntegrityFailure (stream : Nat) (s : State) : Out :=
  .next (if 1 ≤ stream ∧ stream ≤ 64 then failVf s stream else postEvent s 0 .platform evIntegrity [stream] [])

/-- SPDM_REQUEST: a measurement block is answered (R326). [log 15 DESIGN CHOICE] -/
def execSpdmRequest (block : Nat) (s : State) : Out :=
  let bs := if 1 ≤ block ∧ block ≤ 6 then measurement s block else []
  .next (setAuth s { authOf s with reports := (authOf s).reports ++ [(block, bs)] })

/-- GET_DEVICE_INTERFACE_REPORT (R324). -/
def execGetDeviceInterfaceReport (vf : Nat) (s : State) : Out :=
  .next (setAuth s { authOf s with reports := (authOf s).reports ++ [(l1Page vf, reportBytes s (l1Page vf))] })

/-! Power and heat. -/

/-- What the forecasts give a gang. -/
def forecastOf (fs : List (Nat × Nat)) (g : Nat) : Nat := ((fs.find? fun f => decide (f.1 = g)).map (·.2)).getD 0

/-- What a housekeeper's hold is charged to: 0 for power, the island for heat. [log 81 DESIGN CHOICE] -/
def powerKey : Nat := 0

/-- The gangs of a partition that are on their sets and not held for power. -/
def freeRunning (s : State) (p : Nat) : List Nat :=
  (s.gangs.filter fun e => decide (e.2.vdid = p) && onSet e.2 && e.2.hasRun && !hasHold s e.1 .power powerKey).map (·.1)

/-- Hold the partition's gangs in decreasing forecast until the rest is within the share (R329). -/
def capPower (fs : List (Nat × Nat)) (p share : Nat) : Nat → State → State
  | 0, s => s
  | n + 1, s =>
    let gs := freeRunning s p
    if (gs.map (forecastOf fs)).sum ≤ share then s
    else
      match gs with
      | [] => s
      | g :: rest =>
        let m := rest.foldl (fun m g => if forecastOf fs m < forecastOf fs g then g else m) g
        let x := gangOf s m
        let s := announceHold s m (x.gcyc + x.h) .power powerKey
        let s := setHouse s { houseOf s with held := (houseOf s).held ++ [(m, 0)] }
        capPower fs p share n (postEvent s p .resource evPower [m, forecastOf fs m, share] [])

/-- The gang of a partition held last is released at the second forecast in a row that fits it in (R329). -/
def easePower (fs : List (Nat × Nat)) (p share : Nat) (s : State) : State :=
  match (houseOf s).held.reverse.find? fun e => decide ((gangOf s e.1).vdid = p) with
  | none => s
  | some e =>
    let fits := decide (((e.1 :: freeRunning s p).map (forecastOf fs)).sum ≤ share)
    let set := fun (n : Nat) (s : State) => setHouse s { houseOf s with held := (houseOf s).held.map fun d =>
      if d.1 = e.1 then (d.1, n) else d }
    if !fits then set 0 s
    else if e.2 = 0 then set 1 s
    else
      releaseHolds (setHouse s { houseOf s with held := (houseOf s).held.filter fun d => d.1 ≠ e.1 }) e.1 .power powerKey

/-- POWER_FORECAST: every partition with gangs here is kept within its share; the input power is sampled (R329, R330). [log 86
DESIGN CHOICE] -/
def execPowerForecast (forecast : List (Nat × Nat)) (s : State) : Out :=
  let (n, s) := takeFresh s
  let s := setHouse s { houseOf s with
    pwrnow := (Config.openWord n).toNat % 2 ^ 13
    held := (houseOf s).held.filter fun e => hasHold s e.1 .power powerKey }
  let ps := ((s.gangs.filter fun e => e.2.hasRun).map (·.2.vdid)).eraseDups
  .next (ps.foldl (fun s p =>
    let share := (partOf s p).power
    capPower forecast p share s.gangs.length (easePower forecast p share s)) s)

/-- An emergency: every running gang is torn down, on all members, and nothing is admitted until it is cleared (R333). -/
def emergencyFreeze (s : State) (kind : Nat) : State :=
  let s := countLife (setHouse s { houseOf s with emergency := true }) 5 0 1
  let gs := (s.gangs.filter fun e => onSet e.2 && e.2.hasRun).map (·.1)
  let s := postPlatform s (gs.map (gangPart s)) evThermal [kind]
  gs.foldl desync s

/-- The index of the greatest of a list, the first of equals. [log 68 DESIGN CHOICE] -/
def hottest (ts : List Nat) : Nat := ts.idxOf (ts.foldl max 0)

/-- Gangs with a core on an island. [log 68 DESIGN CHOICE] -/
def islandGangs (s : State) (i : Nat) : List Nat :=
  (s.gangs.filter fun e => onSet e.2 && e.2.hasRun && (gangCores s e.1).any fun k => decide (k / 64 = i)).map (·.1)

/-- Forecast holds on the gangs of the hottest island, and their release below 90 °C (R332). [log 68 DESIGN CHOICE] -/
def thermalHolds (fs : List Nat) (s : State) : State :=
  let s := (List.range 16).foldl (fun s i =>
    if fs.getD i 0 < 90 then (s.gangs.map (·.1)).foldl (fun s g => releaseHolds s g .thermal i) s else s) s
  let i := hottest fs
  if 95 ≤ fs.getD i 0 then
    (islandGangs s i).foldl (fun s g =>
      if hasHold s g .thermal i then s else announceHold s g ((gangOf s g).gcyc + (gangOf s g).h) .thermal i) s
  else s

/-- Bin of the temperature histograms: 16 of 5 °C from 40 (R336). [log 16 DESIGN CHOICE] -/
def heatBin (t : Nat) : Nat := min 15 ((t - 40) / 5)

/-- THERMAL_SAMPLE: the hottest sensor of each island and of the hub's four, in °C, and the islands' forecasts (R332, R333,
R336); each island's supply voltage is counted with them. [log 16 DESIGN CHOICE, 68 DESIGN CHOICE] -/
def execThermalSample (temps forecasts : List Nat) (s : State) : Out :=
  let i := hottest temps
  let t := temps.getD i 0
  let s := (List.range (min 16 temps.length)).foldl (fun s j =>
    countLife (countLife s 1 (16 * (j / 2) + heatBin (temps.getD j 0)) 1) 2 (16 * j + Config.voltageBin j % 16) 1) s
  let h := houseOf s
  let s := setHouse s { h with
    tempmax := t % 256, sensor := i % 32, emergency := h.emergency && !(decide (t < 90) && decide (h.pwrnow < 4212)) }
  .next (if 110 ≤ t then emergencyFreeze s 0 else thermalHolds forecasts s)

/-- THW: the hardware comparator (R332). -/
def execThw (s : State) : Out := .next (emergencyFreeze s 1)

/-- IEMER: the current trip (R332). -/
def execIemer (s : State) : Out := .next (emergencyFreeze s 2)

/-- ISLAND_WAKE: the island leaves retention (R328). -/
def execIslandWake (island : Fin 16) (s : State) : Out :=
  let h := houseOf s
  .next (setHouse s { h with retained := h.retained &&& ~~~((1 : BitVec 16) <<< island.val) })

/-- A write of the housekeeper to host memory, inside one of the four windows of 64 KiB that HKWIN0 to HKWIN3 set; every other one
is discarded and counted (R337, R338). -/
def housekeeperWrite (s : State) (addr : Nat) (data : List Byte) : State :=
  let h := houseOf s
  let inside := [h.hkwin0, h.hkwin1, h.hkwin2, h.hkwin3].any fun w =>
    decide (w ≠ 0 ∧ w.toNat ≤ addr ∧ addr + data.length ≤ w.toNat + 2 ^ 16)
  if inside then putHost s 0 addr data else setHouse s { h with discarded := h.discarded + 1 }

/-! Resets. -/

/-- What non-volatile storage keeps: retirements with REPLACE_REQUEST.REQ, which stands until software clears it, lifetime
counters, DRAM training, the scrub log (R4, R223, R301, R335, R336). [log 67 DEDUCED] -/
def keptHouse (h : House) : House :=
  { replace := h.replace, retiredCores := h.retiredCores, retiredPages := h.retiredPages, retiredLinks := h.retiredLinks
    lasting := h.lasting, leaky := h.leaky, lifetime := h.lifetime, training := h.training, scrubLog := h.scrubLog }

/-- Links as they are before the pod manager trains them: down, the retired ones for good (R227, R335). -/
def freshLinks (h : House) : Table LinkState := (h.retiredLinks.filter (·.2)).map fun e => (e.1, { retired := true })

/-- What a warm reset keeps of the links: their last training (R229). [log 67 DEDUCED] -/
def keptFabric (f : Fabric) : Fabric :=
  { links := f.links.map fun e =>
      (e.1, { lat := e.2.lat, llat := e.2.llat, nbr := e.2.nbr, retired := e.2.retired })
    trained := f.trained }

/-- Leaky counters go on losing counts after a reset (R334). [log 67 DEDUCED] -/
def restartDecays (s : State) : State :=
  (houseOf s).leaky.foldl (fun s e =>
    let t := min e.2.since s.pod
    postPod (setHouse s (setLeaky (houseOf s) e.1 { e.2 with since := t })) (max s.pod (t + decayTime (houseOf s) e.1)) phHub
      (.errorCounterDecay e.1)) s

/-- The machine after a reset at pod cycle `pod` that keeps host memory and what is non-volatile, with the fabric `f`, at boot
step `step`. [log 67 DEDUCED] -/
def afterReset (s : State) (pod : Nat) (f : Fabric) (step : Nat) : State :=
  restartDecays
    { pod := pod, fresh := s.fresh
      hub := { fab := f, house := { keptHouse (houseOf s) with bootStep := step }, auth := { host := (authOf s).host } } }

/-- The machine after a loss of power: pod time is 0 and no link is trained (R4, R19, R229). -/
def powerUp (s : State) (step : Nat) : State := afterReset s 0 { links := freshLinks (houseOf s) } step

/-! DRAM training (R223). -/

/-- A digest of a stack's results. -/
def resultDigest (bs : List Byte) : Nat := beNat (sha256 bs)

/-- A stack has passed its training, or has not. -/
def setTrained (s : State) (n : Nat) (ok : Bool) : State :=
  setHouse s { houseOf s with untrained := tset false (houseOf s).untrained n (!ok) }

/-- Full training of a stack: its results are saved with their digest, and it passes. [log 92 DESIGN CHOICE] -/
def trainStack (s : State) (n : Nat) : State :=
  let (f, s) := takeFresh s
  let bs := Config.trainingResult f n
  setTrained (setHouse s { houseOf s with training := tset ([], 0) (houseOf s).training n (bs, resultDigest bs) }) n true

/-- The results saved for a stack; those of the boot before State.reset where none has been since. [log 92 DESIGN CHOICE] -/
def savedTraining (h : House) (n : Nat) : List Byte × Nat :=
  ((h.training.find? fun e => decide (e.1 = n)).map (·.2)).getD
    (Config.trainingResult 0 n, resultDigest (Config.trainingResult 0 n))

/-- A warm reset restores a stack's results: they pass where the digest holds and the pattern reads back, else full training
starts. [log 92 DESIGN CHOICE] -/
def restoreTraining (s : State) (n : Nat) : State :=
  let (f, s) := takeFresh s
  let r := savedTraining (houseOf s) n
  if resultDigest r.1 = r.2 ∧ Config.readsBack f n then setTrained s n true
  else post (setTrained s n false) ⟨.pod, s.pod + 1 + Config.windowTime f, phHub, none, .deed (.stackTrained n)⟩

/-- Scrub engines start every logged context from unit 0 (R301). [log 67 DEDUCED] -/
def restartScrubs (s : State) : State :=
  (houseOf s).scrubLog.foldl (fun s l =>
    (List.range 8).foldl (fun s d =>
      let w := l.2.filter fun r => decide (r.2.1 / 128 = d)
      if w = [] then s
      else
        let e := scrubOf s d
        if e.done then postScrub (setScrub s d (startScrub l.1 w [])) d
        else setScrub s d { e with queued := e.queued ++ [(l.1, w)] }) s) s

/-- Overwrite all that the scrub log names, and clear it (R301, R339 step 4). [log 67 DEDUCED] -/
def finishScrubs (s : State) : State :=
  let s := (houseOf s).scrubLog.foldl (fun s l =>
    l.2.foldl (fun s r => (List.range (scrubUnits r)).foldl (fun s i => scrubOne s r i) s) s) s
  let s := { s with hub := { s.hub with scrubs := [] } }
  setHouse s { houseOf s with scrubLog := [] }

/-- The housekeeper's start records the firmware's measurements anew (R326, R339). [log 15 DESIGN CHOICE] -/
def recordBoot (s : State) : State :=
  let (n, s) := takeFresh s
  setAuth s { authOf s with bootMeasured := n }

/-- COLD_BOOT: the steps pass up to `ok`, the third trains DRAM (R223); a failed signature, at step 1 or 2, leaves the boot
ROM's recovery function (R301, R339). [log 5 DEDUCED] -/
def execColdBoot (ok : Nat) (s : State) : Out :=
  let s := recordBoot (powerUp s (min ok 6))
  let s := if 3 ≤ ok then (List.range 8).foldl trainStack s else s
  let s := if 4 ≤ ok then finishScrubs s else s
  .next (setHouse s { houseOf s with recovery := decide (ok < 2) })

/-- WARM_RESET: steps 2 to 6 are repeated, up to the second where a signature fails; DRAM contents stay and its training is
restored, and a scrub goes on where it stood (R223, R301, R322, R339). [log 5 DEDUCED] -/
def execWarmReset (s : State) : Out :=
  let d := dramOf s
  let es := s.hub.scrubs
  let (n, s) := takeFresh s
  let s := recordBoot (afterReset s s.pod (keptFabric (fabOf s)) (if Config.signaturesHold n then 6 else 1))
  let s := setHouse s { houseOf s with recovery := !Config.signaturesHold n }
  let s := if Config.signaturesHold n then (List.range 8).foldl restoreTraining s else s
  let s := setDram s { bytes := d.bytes, poison := d.poison, bad := d.bad, corrected := d.corrected, shadow := d.shadow, sealed := d.sealed }
  let s := { s with hub := { s.hub with scrubs := es } }
  .next (es.foldl (fun s e => if e.2.done then s else postScrub s e.1) s)

/-- STANDBY_POWER_LOSS: everything volatile is lost; the logged contexts are scrubbed again before the first admission, which
a cold boot precedes (R301, R339). -/
def execStandbyPowerLoss (s : State) : Out := .next (restartScrubs (powerUp s 0))

end Sys2Proof.Machine
end

