-- ==== Sys2Proof/Machine/Matrix.lean ====
section
/-! DEFINITION. The matrix unit (R164 to R182, R383 to R397): its triggers, the microsequencer, the micro-operations, the
array steps and the epilogue. -/

namespace Sys2Proof.Machine

def setMx (c : Core) (m : Mx) : Core := { c with mx := m }

/-- Micro-register `n` (R169). -/
def mregOf (c : Core) (n : Nat) : Word := tget 0 c.mx.regs n

/-- A selector: its object directly, or by the low bits of a micro-register (R171). -/
def selNat (c : Core) : Sel → Nat
  | .direct n => n.val
  | .indirect m => (mregOf c m.val).toNat % 16

/-- A microprogram fault: address, subcode and routine in the record (R181). [log 33 DEDUCED] -/
def microFault (s : State) (sub : Nat) : State :=
  modMe s fun c => raiseNow c (now s) 0x15 (BitVec.ofNat 64 c.mx.pc) (BitVec.ofNat 64 sub) (BitVec.ofNat 64 c.mx.routine)

/-- A fault of another code, charged by R175. -/
def unitFault (s : State) (code a b : Nat) : State :=
  modMe s fun c => raiseNow c (now s) code (BitVec.ofNat 64 a) (BitVec.ofNat 64 b) 0

/-- Faults of other codes found in one cycle, all raised (R175, R287). -/
def unitFaults (s : State) (fs : List (Nat × Nat × Nat)) : State := fs.foldl (fun s f => unitFault s f.1 f.2.1 f.2.2) s

/-- The counter with its end step at `pc`: the next address if the body repeats (R172). -/
def stepCounter (l : MicroLoop) : MicroLoop × Option Nat :=
  if 1 < l.left then ({ l with left := l.left - 1 }, some l.body) else ({ l with active := false, left := 0 }, none)

/-- End steps at address `pc`, the inner counter first (R172): the unit and the next address. -/
def microEnd (m : Mx) (pc : Nat) : Mx × Option Nat :=
  let e0 := m.lc0.active && m.lc0.last == pc
  let e1 := m.lc1.active && m.lc1.last == pc
  let first0 := e0 && (!m.lc1.active || decide (m.lc1.order < m.lc0.order))
  let first1 := e1 && (!m.lc0.active || decide (m.lc0.order < m.lc1.order))
  if first0 then
    match stepCounter m.lc0 with
    | (l, some b) => ({ m with lc0 := l }, some b)
    | (l, none) =>
      if e1 then
        match stepCounter m.lc1 with
        | (l1, b) => ({ m with lc0 := l, lc1 := l1 }, b)
      else ({ m with lc0 := l }, none)
  else if first1 then
    match stepCounter m.lc1 with
    | (l, some b) => ({ m with lc1 := l }, some b)
    | (l, none) =>
      if e0 then
        match stepCounter m.lc0 with
        | (l0, b) => ({ m with lc1 := l, lc0 := l0 }, b)
      else ({ m with lc1 := l }, none)
  else (m, none)

/-- The microword at pc is done: end steps, then the next microword executes `cycles` later (R169, R172). -/
def microNext (s : State) (cycles next : Nat) : State :=
  let k := me s
  let s := modMe s fun c =>
    let r := microEnd c.mx c.mx.pc
    setMx c { r.1 with pc := r.2.getD next }
  postDeed s k (now s + cycles) phMicro .micro

/-- One cycle, then the next address. -/
def microStep (s : State) : State := microNext s 1 ((myCore s).mx.pc + 1)

/-- Zero a tile and its row pointer (R168). [log 30 DEDUCED] -/
def zeroTile (c : Core) (t : Nat) : Core :=
  setMx c { c.mx with acc := c.mx.acc.filter (fun e => e.1 / 8192 != t), rowPtr := tset 0 c.mx.rowPtr t 0 }

/-- A group update of tile `t` performs in cycle `x`. [log 30 DEDUCED] -/
def updatesTile (s : State) (k t x : Nat) : Bool :=
  s.agenda.any fun j =>
    match j.core, j.task with
    | some k', .event (.matrixGroupUpdate _ st _) =>
      decide (k' = k ∧ j.due = x) && (coreOf s k).mx.steps.any fun p => decide (p.start = st ∧ p.tile = t)
    | _, _ => false

/-- What a unit's stream must be (R173). -/
inductive Role where
  | a | b | routing | bias | out
  deriving DecidableEq, Repr

/-- The format and shape conditions of a role (R173). [log 32 DEDUCED] -/
def roleFits (r : Role) (q : Stream) : Bool :=
  let m := fmtOf (strMem q)
  let ab := (fmtIsB8 m || m == .ieee 8 7 || m == .ieee 5 10 || m == .int 8 true || m == .int 8 false) && !strScalar q
  match r with
  | .a => ab
  | .b => ab
  | .routing => m == .int 8 false && !strScaled q
  | .bias => m == f32 && !strScaled q
  | .out => fmtOf (strReg q) == f32

/-- The faults of a stream named in a role: code, FLTINFO_A, FLTINFO_B; its overrun and its format are separate checks (R88,
R173, R287, R289). [log 32 DEDUCED] -/
def roleFault (r : Role) (n : Nat) (q : Stream) : List (Nat × Nat × Nat) :=
  (if q.mode ≠ .opened then [(7, n, 3)] else if strPush q ≠ (r == .out) then [(7, n, 4)] else []) ++
    if roleFits r q then [] else [(0x16, 0, 0)]

/-- Check streams in their roles: the faults of all of them (R287). -/
def roleFaults (c : Core) (rs : List (Role × Nat)) : List (Nat × Nat × Nat) :=
  rs.flatMap fun r => roleFault r.1 r.2 (streamOf c r.2)

/-- The array's class of a format (R176): 0 float8, 1 int8, 2 float16; 3 is a format of no class, which R173 refuses as A and
as B. -/
def arrayClass (f : Fmt) : Nat :=
  match f with
  | .b8 .. => 0
  | .int 8 _ => 1
  | .ieee 8 7 => 2
  | .ieee 5 10 => 2
  | _ => 3

/-- k-blocks of a step by CLASS (R178). -/
def blocksOf (cls : Nat) : Nat := if cls = 0 then 1 else if cls = 1 then 2 else 4

/-- Bytes and scale bytes of an A item (R173). -/
def itemA (cls w : Nat) : Nat × Nat := (16 * 8 * blocksOf cls * (w / 8), 16 * blocksOf cls)

/-- Bytes and scale bytes of a B item (R173). -/
def itemB (cls w : Nat) : Nat × Nat := (512 * (w / 8), 64 * blocksOf cls)

/-- The plan of a unit's item, 32-aligned, its scales to their size or 32 (R173). -/
def planUnit (q : Stream) (n sn : Nat) : ItemPlan :=
  let sn := if strScaled q then sn else 0
  planItem q false n sn 32 (min sn 32)

/-- The reads of 256 bytes or less that bytes at `a` take (R173). -/
def splitReads (x a n : Nat) : List Access :=
  (List.range ((n + 255) / 256)).map fun i => mkAccess x (a + 256 * i) (min 256 (n - 256 * i)) 0 (0, 0, 0) true

/-- The reads of an item and its scales. -/
def planReads (x : Nat) (pl : ItemPlan) (n : Nat) : List Access :=
  if pl.overrun = 0 ∧ pl.badAddr = none then
    splitReads x pl.addr n ++ (if pl.sn = 0 then [] else splitReads x pl.saddr pl.sn)
  else []

/-- A read of the unit due in cycle `x`: the stream it moves, the item's size, the bytes read in this cycle. -/
def unitReadOf (c : Core) : Deed → Option (Nat × Nat × Nat × Nat)
  | .mxReadA st _ =>
    (c.mx.steps.find? fun p => decide (p.start = st)).map fun p =>
      let sz := itemA p.cls (fmtWidth (fmtOf p.fmtA))
      (p.aStream, sz.1, sz.2, sz.1)
  | .mxReadB _ q _ cls =>
    let sz := itemB cls (fmtWidth (fmtOf (strMem (streamOf c q))))
    some (q, sz.1, sz.2, sz.1 / 2)
  | .mxBias _ q => some (q, 256, 0, 256)
  | _ => none

/-- Count the accesses the unit makes in cycle `x`; streams advance as its reads of the cycle will move them (R175). -/
def unitAccesses (x : Nat) : List Deed → Core → List Access
  | [], _ => []
  | .mxReadB2 _ a n :: ds, c => splitReads x a n ++ unitAccesses x ds c
  | d :: ds, c =>
    match unitReadOf c d with
    | none => unitAccesses x ds c
    | some (q, n, sn, part) =>
      let st := streamOf c q
      let pl := planUnit st n sn
      let here := planReads x pl part
      let c := setStream c q (advance st pl true)
      match d with
      | .mxReadB _ _ r cls =>
        if cls = 0 then here ++ unitAccesses x ds c
        else
          let sr := streamOf c r
          let pr := planUnit sr 128 0
          here ++ planReads x pr 128 ++ unitAccesses x ds (setStream c r (advance sr pr true))
      | _ => here ++ unitAccesses x ds c

/-- The deeds of core `k` due in cycle `x`, in order. -/
def deedsAt (s : State) (k x : Nat) : List Deed :=
  s.agenda.filterMap fun j =>
    match j.task with
    | .deed d => if j.core = some k ∧ j.due = x then some d else none
    | _ => none

/-- In its cycle, count the unit's reads and settle its conflicts (R72, R175). -/
def settleReads (s : State) (k : Nat) : State :=
  let x := gcycOf s k
  modCore s k fun c => settleUnit { c with accesses := c.accesses ++ unitAccesses x (deedsAt s k x) c } x

/-- Raise the faults of a unit's item, charged by R175. -/
def raiseUnit (c : Core) (x : Nat) (rs : List Raise) : Core := rs.foldl (fun c r => raiseNow c x r.code r.a r.b r.c) c

/-- One item read by the unit in this cycle: its faults raised, or its bytes, scales and address, the stream advanced
(R77, R173, R175). -/
def unitRead (s : State) (k q n sn part : Nat) : State × Option (List Byte × List Byte × Nat) :=
  let x := gcycOf s k
  let c := coreOf s k
  let st := streamOf c q
  let pl := planUnit st n sn
  match popFaults c q st pl x (x + 4) 0 0 with
  | r :: rs => (modCore s k fun c => raiseUnit c x (r :: rs), none)
  | [] =>
    let s := raceScratchRead s k pl.addr part
    let s := modCore s k fun c =>
      setStream (carryPoison c q st pl x) q { advance st pl true with unitReads := st.unitReads + 1 }
    (s, some (scratchBytes c pl.addr part, scratchBytes c pl.saddr pl.sn, pl.addr))

/-- The elements of a byte string, `w` bits each (R2). -/
def byteElems (w : Nat) : List Byte → List Nat
  | b :: b' :: bs => if w = 16 then (b.toNat + 256 * b'.toNat) :: byteElems w bs else b.toNat :: byteElems w (b' :: bs)
  | [b] => [b.toNat]
  | [] => []

/-- A step's A item of row group `g` (R173, R174). -/
def mxReadA (s : State) (k start g : Nat) : State :=
  let c := coreOf s k
  match c.mx.steps.find? fun p => decide (p.start = start) with
  | none => s
  | some p =>
    let w := fmtWidth (fmtOf p.fmtA)
    let sz := itemA p.cls w
    match unitRead s k p.aStream sz.1 sz.2 sz.1 with
    | (s, none) => s
    | (s, some (bs, sc, _)) =>
      modCore s k fun c => setMx c { c.mx with steps := c.mx.steps.map fun q =>
        if q.start = start then { q with items := q.items ++ [(g, byteElems w bs, sc.map (·.toNat))] } else q }

/-- The first half of a B item, its scales and its routing, which is read whether or not the item's read faults (R173, R287). -/
def mxReadB (s : State) (k ready q r cls : Nat) : State :=
  let w := fmtWidth (fmtOf (strMem (streamOf (coreOf s k) q)))
  let sz := itemB cls w
  let item := unitRead s k q sz.1 sz.2 (sz.1 / 2)
  let route := if cls = 0 then (item.1, some ([], [], 0)) else unitRead item.1 k r 128 0 128
  let s := route.1
  match item.2, route.2 with
  | some (bs, sc, a), some (rs, _, _) =>
      let fill := fun (b : BBlock) => if b.ready = ready then
          { b with second := a + sz.1 / 2, weights := byteElems w bs, scales := sc.map (·.toNat), routing := rs.map (·.toNat) }
        else b
      let s := modCore s k fun c => setMx c { c.mx with staged := c.mx.staged.map fill }
      postDeed (postSettle s k (ready - 1)) k (ready - 1) phRead (.mxReadB2 ready (a + sz.1 / 2) (sz.1 / 2))
  | _, _ => s

/-- The second half of a B item. -/
def mxReadB2 (s : State) (k ready a n : Nat) : State :=
  let s := raceScratchRead s k a n
  modCore s k fun c =>
    setMx c { c.mx with staged := c.mx.staged.map fun b =>
      if b.ready = ready then
        { b with weights := b.weights ++ byteElems (fmtWidth (fmtOf b.fmt)) (scratchBytes c a n) }
      else b }

/-- The bias item of an epilogue (R173). -/
def mxBias (s : State) (k start q : Nat) : State :=
  match unitRead s k q 256 0 256 with
  | (s, none) => s
  | (s, some (bs, _, _)) =>
    modCore s k fun c => setMx c { c.mx with epis := c.mx.epis.map fun e =>
      if e.start = start then { e with bias := splitElems 32 64 (leNat bs) } else e }

/-- The weights of block `b`, column `j`: (k within the block, code); a place no kept weight names holds +0 (R138, R174). -/
def columnWeights (blk : BBlock) (b j : Nat) : List (Nat × Nat) :=
  if blk.cls = 0 then (List.range 8).map fun k => (k, blk.weights.getD (k * 64 + j) 0)
  else
    let per := if blk.cls = 1 then 4 else 2
    let kept := (List.range per).map fun i =>
      let q := b * per + i
      let e := q * 64 + j
      let idx := blk.routing.getD (e / 4) 0 / 2 ^ (2 * (e % 4)) % 4
      let h := if blk.cls = 1 then q % 4 / 2 else q % 2
      (4 * h + idx, blk.weights.getD e 0)
    kept ++ ((List.range 8).filter fun k => !kept.any fun p => p.1 = k).map fun k => (k, 0)

/-- One k-block added to one accumulator element (R138, R178). -/
def addBlock (fa fb : Fmt) (acc : Nat) (row : List Nat) (ws : List (Nat × Nat)) (sa sb : Nat) : Nat × Flags :=
  if arrayClass fa = 1 then
    let v := intElem (.int 32 true) acc + (ws.map fun p => intElem fa (row.getD p.1 0) * intElem fb p.2).sum
    intFit 32 true 8 v
  else
    let ps := ws.map fun p => numMul (decodeNum fa (row.getD p.1 0)) (decodeNum fb p.2)
    let pf := ps.foldl (fun m p => m ||| p.2) 0
    let t := numSum (ps.map (·.1))
    let v := numAdd (decodeNum f32 acc) (scaleBy (scaleBy t.1 sa) sb)
    let y := roundF32 v.1
    (y.1, pf ||| t.2 ||| v.2 ||| y.2)

/-- One accumulator element through the k-blocks of a step, in ascending k. -/
def addBlocks (p : MxStep) (fa fb : Fmt) (ke i j : Nat) (as sc : List Nat) (acc : Nat) : Nat × Flags :=
  (List.range (ke / 8)).foldl (fun (r : Nat × Flags) b =>
    let sa := if sc = [] then 127 else sc.getD (i * (ke / 8) + b) 127
    let sb := if p.b.scales = [] then 127 else p.b.scales.getD (b * 64 + j) 127
    let y := addBlock fa fb r.1 ((as.drop (i * ke + 8 * b)).take 8) (columnWeights p.b b j) sa sb
    (y.1, r.2 ||| y.2)) (acc, 0)

/-- The update of row group `g` of a step (R178). -/
def groupUpdate (c : Core) (p : MxStep) (g : Nat) (as sc : List Nat) : Core :=
  let fa := fmtOf p.fmtA
  let fb := fmtOf p.b.fmt
  let ke := 8 * blocksOf p.cls
  (List.range 1024).foldl (fun c n =>
    let key := accKey p.tile (16 * g + n / 64) (n % 64)
    let y := addBlocks p fa fb ke (n / 64) (n % 64) as sc (tget 0 c.mx.acc key).toNat
    addFlags (setMx c { c.mx with acc := tset 0 c.mx.acc key (BitVec.ofNat 32 y.1) }) y.2) c

/-- MATRIX_GROUP_UPDATE (R178). -/
def execMatrixGroupUpdate (core start g : Nat) (s : State) : Out :=
  .next (modCore s core fun c =>
    match c.mx.steps.find? fun p => decide (p.start = start) with
    | none => c
    | some p =>
      let c := match p.items.find? fun it => decide (it.1 = g) with
        | some (_, as, sc) => groupUpdate c p g as sc
        | none => c
      if g = 7 then setMx c { c.mx with steps := c.mx.steps.filter fun q => q.start != start } else c)

/-- MCALL (R164, R165, R383). FLTINFO_A of subcode 10, at which no microword executes, is the entry's START. [log 100 DEDUCED] -/
def execMcall (m : Mv) (s : State) : Out :=
  trigger (.mcall m) m s fun fl s =>
    let i := (scalarIn .z fl.val).toNat % 256
    let c := myCore s
    let e := (tget 0 c.mx.routines i).toNat
    let st := e % 4096
    let len := e / 65536 % 8192
    let unused := decide (len = 0 ∨ 4096 < st + len)
    if c.mx.busy || unused then
      modMe s fun c =>
        let c := if c.mx.busy then raiseFor c fl [] 0x13 0 0 0 else c
        if unused then raiseFor c fl [] 0x15 (BitVec.ofNat 64 st) 10 (BitVec.ofNat 64 i) else c
    else
      let s := modMe s fun c => setMx c
        { c.mx with
          busy := true, pc := st, start := st, length := len, routine := i
          lc0 := {}, lc1 := {}, bindA := none, staged := none, active := none }
      postDeed s (me s) (fl.arrive + 1) phMicro .micro

/-- MUWR, whose mp0[15] tells a microword from a routine-table entry at its arrival (R164, R395). -/
def muwr (i : Instr) (m : Mv) (s : State) : Out :=
  trigger i m s fun fl s =>
    let p := (portOf (myCore s) 0x200).toNat
    let w := scalarIn .z fl.val
    postDeed s (me s) (fl.arrive + 1) phEnd (.muwr (p.testBit 15) (if p.testBit 15 then p % 256 else p % 4096) w)

def execMuwr (m : Mv) (s : State) : Out := muwr (.muwr m) m s

/-- Convention: [log 84 DEDUCED] -/
def execMuwrRoutineEntry (m : Mv) (s : State) : Out := muwr (.muwrRoutineEntry m) m s

/-- The write of a MUWR at the end of arrival + 1 (R164). -/
def muwrWrite (s : State) (k : Nat) (entry : Bool) (index : Nat) (w : Word) : State :=
  modCore s k fun c => setMx c (
    if entry then { c.mx with routines := tset 0 c.mx.routines index (w.setWidth 32 &&& 0x1FFF0FFF) }
    else { c.mx with store := tset 0 c.mx.store index w })

/-- MLUT: its span checked at its arrival, read at + 1 and + 2, in effect from + 3 (R164, R391). [log 31 DEDUCED] -/
def execMlut (m : Mv) (s : State) : Out :=
  trigger (.mlut m) m s fun fl s =>
    let a := (scalarIn .z fl.val).toNat % 2 ^ 22
    let ok := spanOk (groupOf a) a 272 32
    let s := modMe s fun c =>
      let c := if ok then c else raiseFor c fl [] 8 0 0 0
      if claimedAt c a 272 fl.arrive then c else raiseFor c fl [] 0x0A (BitVec.ofNat 64 a) 0 0
    if !ok then s
    else
      let ch := (fl.issue, fl.bundle, fl.slot)
      let s := modMe s fun c =>
        reserve (reserve c (mkAccess (fl.arrive + 1) a 256 0 ch false)) (mkAccess (fl.arrive + 2) (a + 256) 16 0 ch false)
      postDeed s (me s) (fl.arrive + 1) phRead (.mlutRead a)

/-- The first read of an MLUT. [log 31 DEDUCED] -/
def mlutRead (s : State) (k a : Nat) : State :=
  let x := gcycOf s k
  if isVoided (coreOf s k) x a 256 then s
  else postDeed (raceScratchRead s k a 256) k (x + 1) phRead (.mlutRest (a + 256) (scratchBytes (coreOf s k) a 256))

/-- The second read of an MLUT: bad bounds set NV (R164). -/
def mlutRest (s : State) (k a : Nat) (first : List Byte) : State :=
  let x := gcycOf s k
  if isVoided (coreOf s k) x a 16 then s
  else
    let s := raceScratchRead s k a 16
    let ws := (splitElems 32 68 (leNat (first ++ scratchBytes (coreOf s k) a 16))).map (BitVec.ofNat 32 ·)
    let l : Lut := ⟨ws.getD 0 0, ws.getD 1 0, (ws.drop 2).take 65⟩
    postDeed s k x phEnd (.mlutSet l)

/-- The table takes effect after the cycle's evaluations (R391). -/
def mlutSet (s : State) (k : Nat) (l : Lut) : State :=
  modCore s k fun c => setMx (if lutBounds l.lo l.hi then c else addFlags c flagNV) { c.mx with lut := l }

/-- MZERO: a port collision where the array writes the tile in its zeroing cycle (R164, R165, R397). -/
def execMzero (m : Mv) (s : State) : Out :=
  trigger (.mzero m) m s fun fl s =>
    let t := (scalarIn .z fl.val).toNat % 8
    let k := me s
    if updatesTile s k t (fl.arrive + 1) then modMe s fun c => raiseFor c fl [] 4 0 0 0
    else
      let s := modMe s fun c => setMx c { c.mx with zeros := (c.mx.zeros.filter fun z => decide (fl.arrive ≤ z.1)) ++
        [(fl.arrive + 1, t, true)] }
      postDeed s k (fl.arrive + 1) phEnd (.mzero t)

/-- MNOP (R170). -/
def execMnop (s : State) : Out := .next (microStep s)

/-- A micro-register written (R172). -/
def setMreg (c : Core) (d : Nat) (w : Word) : Core := setMx c { c.mx with regs := tset 0 c.mx.regs d w }

/-- MSET with SRC = 0 (R172, R393). -/
def execMsetImm (d : Fin 16) (imm : BitVec 48) (s : State) : Out :=
  .next (microStep (modMe s fun c => setMreg c d.val (imm.signExtend 64)))

/-- MSET with SRC = 1: the port as it stands in this cycle (R172, R393). -/
def execMsetMp (d : Fin 16) (n : Fin 8) (s : State) : Out :=
  .next (microStep (modMe s fun c => setMreg c d.val (portOf c (0x200 + n.val))))

/-- MSET with SRC = 2 (R172, R393). -/
def execMsetAdd (d : Fin 16) (imm : BitVec 48) (s : State) : Out :=
  .next (microStep (modMe s fun c => setMreg c d.val (mregOf c d.val + imm.signExtend 64)))

/-- Counter `c`, and the other one. -/
def counterOf (m : Mx) (c : Fin 2) : MicroLoop := if c = 0 then m.lc0 else m.lc1
def otherCounter (m : Mx) (c : Fin 2) : MicroLoop := if c = 0 then m.lc1 else m.lc0

/-- MLOOP (R172, R390). -/
def execMloop (c : Fin 2) (cm : Bool) (cr : Fin 16) (last : BitVec 12) (count : BitVec 32) (s : State) : Out :=
  let x := myCore s
  let n := if cm then (mregOf x cr.val).toNat else count.toNat
  let o := otherCounter x.mx c
  let e := last.toNat
  if (cm ∧ 2 ^ 32 - 1 < n) ∨ (counterOf x.mx c).active ∨ e ≤ x.mx.pc ∨ e < x.mx.start ∨ x.mx.start + x.mx.length ≤ e ∨
      (o.active ∧ o.last < e) then .next (microFault s 3)
  else if n = 0 then .next (microNext s 1 (e + 1))
  else
    let l : MicroLoop := ⟨true, x.mx.pc + 1, e, n, o.order + 1⟩
    .next (microStep (modMe s fun k => setMx k (if c = 0 then { k.mx with lc0 := l } else { k.mx with lc1 := l })))

/-- MEND: busy ends, and mx.r takes m0 (R166, R385). -/
def execMend (s : State) : Out :=
  let s := modMe s fun c => setMx c { c.mx with busy := false }
  .next (postCore s (me s) (now s + 1) phDone
    (.event (.operationComplete (me s) .mx ((mregOf (myCore s) 0).setWidth 2048) 0)))

/-- MIDLE: it ends, with the end steps of its address, in its last cycle (R172, R387). -/
def execMidle (n : BitVec 20) (s : State) : Out :=
  if n.toNat ≤ 1 then .next (microStep s)
  else .next (postDeed (modMe s fun c => setMx c { c.mx with idle := n.toNat - 1 }) (me s) (now s + 1) phMicro .micro)

/-- MZACC: subcode 7 where a group update of the tile performs in its zeroing cycle; with an MZERO of the tile in that cycle a
port collision, and both zeroings happen (R165, R179, R396). [log 30 DEDUCED] -/
def execMzacc (t : Sel) (s : State) : Out :=
  let k := me s
  let x := now s
  let n := selNat (myCore s) t % 8
  if updatesTile s k n (x + 1) then .next (microFault s 7)
  else
    let s := if (myCore s).mx.zeros.any fun z => decide (z = (x + 1, n, true)) then unitFault s 4 0 0 else s
    .next (microStep (postDeed s k (x + 1) phEnd (.mzero n)))

/-- MLDA: the class and the stream's conditions, then the binding (R173, R177, R287, R388). -/
def execMlda (q : Sel) (cls : BitVec 2) (s : State) : Out :=
  let n := selNat (myCore s) q
  match roleFaults (myCore s) [(.a, n)] with
  | [] =>
    if cls = 3 then .next (microFault s 8)
    else .next (microStep (modMe s fun c => setMx c { c.mx with bindA := some (n, cls.toNat) }))
  | fs => .next (unitFaults (if cls = 3 then microFault s 8 else s) fs)

/-- Two streams have their bases in one bank group (R177). -/
def sameGroup (c : Core) (p q : Nat) : Bool := groupOf (streamOf c p).base == groupOf (streamOf c q).base

/-- MLDB: stages a block, read in the next two cycles (R173, R177, R389). -/
def execMldb (q r : Sel) (cls : BitVec 2) (s : State) : Out :=
  let c := myCore s
  let n := selNat c q
  let nr := selNat c r
  let x := now s
  let pair := if (c.mx.bindA.map fun b => sameGroup c b.1 n).getD false then [(0x14, 0, 0)] else []
  let roles := if cls = 0 ∨ cls = 3 then [] else [(Role.routing, nr)]
  match roleFaults c ((.b, n) :: roles) ++ pair with
  | [] =>
    if cls = 3 then .next (microFault s 8)
    else
      let k := me s
      let blk : BBlock := ⟨cls.toNat, strMem (streamOf c n), n, x + 3, 0, [], [], []⟩
      let s := modMe s fun c => setMx c { c.mx with staged := some blk }
      .next (microStep (postDeed (postSettle s k (x + 1)) k (x + 1) phRead (.mxReadB (x + 3) n nr cls.toNat)))
  | fs => .next (unitFaults (if cls = 3 then microFault s 8 else s) fs)

/-- A microword of CLASS 3: subcode 8, with every other fault of its conditions (R287, R388, R389). -/
def microClass (w : Nat) (s : State) : Out :=
  if w / 2 ^ 58 = 0x10 then execMlda (selOf w) 3 s else execMldb (selOf w) (selOf (w / 2 ^ 5)) 3 s

/-- The B block a step at `x` takes: a ready staged one, or the active one (R178). -/
def blockAt (m : Mx) (x : Nat) : Option BBlock :=
  match m.staged with
  | some b => if b.ready ≤ x then some b else none
  | none => m.active

/-- Whether the array is still busy with the previous step at `x` (R178). -/
def arrayBusy (m : Mx) (x : Nat) : Bool :=
  match m.lastStep with
  | some (s, n) => decide (x < s + n)
  | none => false

/-- Start a step: the reads of its eight A items and their updates (R173, R178). -/
def startStep (s : State) (p : MxStep) (len : Nat) : State :=
  let k := me s
  let x := p.start
  let s := modMe s fun c => setMx c
    { c.mx with active := some p.b, staged := none, steps := c.mx.steps ++ [p], lastStep := some (x, len) }
  (List.range 8).foldl (fun s g =>
    let rd := if len = 8 then x + 1 + g else x + 1 + 4 * g
    let up := if len = 8 then x + 8 + g else x + 11 + 4 * g
    let s := postDeed (postSettle s k rd) k rd phRead (.mxReadA x g)
    postCore s k up phWrite (.event (.matrixGroupUpdate k x g))) s

/-- The subcodes of 0x15 that a step in cycle `x` has, in ascending order (R177, R178, R181). [log 33 DEDUCED] -/
def stepSubs (m : Mx) (x : Nat) (sparse : Bool) : List Nat :=
  let a := m.bindA.map (·.2)
  let b := (blockAt m x).map (·.cls)
  (if arrayBusy m x then [4] else []) ++ (if b = none then [5] else []) ++
    (if (a ≠ none ∧ b ≠ none ∧ a ≠ b) ∨ ((a.map fun k => sparse != decide (k ≠ 0)).getD false) then [8] else []) ++
    (if a = none then [9] else [])

/-- The faults of other codes that a step has: its A stream's, its pairing's, its bank groups' (R173, R176, R177). -/
def stepFaults (c : Core) (x : Nat) (sparse : Bool) : List (Nat × Nat × Nat) :=
  match c.mx.bindA with
  | none => []
  | some (qa, _) =>
    let ca := arrayClass (fmtOf (strMem (streamOf c qa)))
    roleFaults c [(.a, qa)] ++
      match blockAt c.mx x with
      | none => []
      | some b =>
        (if ca ≠ arrayClass (fmtOf b.fmt) ∨ (ca = 2 ∧ sparse) then [(0x16, 0, 0)] else []) ++
          if sameGroup c qa b.src then [(0x14, 0, 0)] else []

/-- MMAC and MMACS: a step starts, or all its faults are raised (R176, R177, R178, R287, R392). [log 33 DEDUCED] -/
def matrixStep (sparse : Bool) (t : Sel) (s : State) : Out :=
  let c := myCore s
  let x := now s
  match stepSubs c.mx x sparse, stepFaults c x sparse, c.mx.bindA, blockAt c.mx x with
  | [], [], some (qa, cls), some b =>
    let fa := strMem (streamOf c qa)
    .next (microStep (startStep s ⟨x, selNat c t % 8, cls, fa, qa, b, []⟩ (if arrayClass (fmtOf fa) = 2 then 32 else 8)))
  | subs, fs, _, _ =>
    .next (unitFaults (match subs with
      | [] => s
      | n :: _ => microFault s n) fs)

def execMmac (t : Sel) (s : State) : Out := matrixStep false t s

def execMmacs (t : Sel) (s : State) : Out := matrixStep true t s

/-- MEPI: the streams' conditions, then 128 rows from e + 2 (R180, R386). -/
def execMepi (e : MepiFields) (s : State) : Out :=
  let c := myCore s
  let k := me s
  let x := now s
  let o := selNat c e.o
  let b := selNat c e.b
  let soon := (c.mx.lastEpi.map fun l => decide (x < l + 128)).getD false
  match roleFaults c ((.out, o) :: if e.bias then [(.bias, b)] else []) with
  | f :: fs => .next (unitFaults (if soon then microFault s 6 else s) (f :: fs))
  | [] =>
    if soon then .next (microFault s 6)
    else
      let s := modMe s fun c => setMx c
        { c.mx with
          lastEpi := some x
          epis := (c.mx.epis.filter fun q => decide (x < q.start + 131)) ++ [⟨x, selNat c e.t % 8, o, e, b, []⟩] }
      let s := if e.bias then postDeed (postSettle s k (x + 1)) k (x + 1) phRead (.mxBias x b) else s
      let s := postCore s k (x + 2) phRead (.event (.epilogueRow k x 0))
      .next (microStep s)

/-- One element of an epilogue row (R180), `r` the draw. -/
def epilogueElem (c : Core) (f : MepiFields) (acc bias r : Nat) : Nat × Flags :=
  let x0 := if f.intacc then roundNum f32 (decodeNum (.int 32 true) acc) 0 0 false else (acc, 0)
  let x1 := if f.bias then
      let v := numAdd (decodeNum f32 x0.1) (decodeNum f32 bias)
      let y := roundF32 v.1
      (y.1, x0.2 ||| v.2 ||| y.2)
    else x0
  let x2 := if f.act then
      let y := lutEval c.mx.lut.lo c.mx.lut.hi c.mx.lut.vals (decodeNum f32 x1.1)
      (y.1, x1.2 ||| y.2)
    else x1
  if f.req then
    let v := numFma (decodeNum f32 x2.1) (decodeNum f32 ((mregOf c f.qsr.val).toNat % 2 ^ 32))
      (decodeNum f32 ((mregOf c f.zpr.val).toNat % 2 ^ 32))
    let y := roundNum f32 v.1 f.rm r
    (y.1, x2.2 ||| v.2 ||| y.2)
  else x2

/-- EPILOGUE_ROW: row `r` read, transformed, and pushed in the next cycle; the next row follows (R180). -/
def execEpilogueRow (core start r : Nat) (s : State) : Out :=
  let c := coreOf s core
  let x := gcycOf s core
  match c.mx.epis.find? fun e => decide (e.start = start) with
  | none => .next s
  | some e =>
    let row := (List.range 64).map fun j => (j, (accOf c e.tile (r % 128) j).toNat)
    let out := convList (fun (p : Nat × Nat) d => epilogueElem c e.fields p.2 (e.bias.getD p.1 0) d)
      (if e.fields.req then e.fields.rm else 0) row c.genMX
    let s := modCore s core fun c => addFlags { c with genMX := out.2.2 } out.2.1
    let s := postDeed s core (x + 1) (phStream e.out) (.mxPush e.out out.1)
    if r < 127 then .next (postCore s core (x + 1) phRead (.event (.epilogueRow core start (r + 1)))) else .next s

/-- An epilogue row arrives at its push stream: its faults charged by R175, or its write (R87, R173, R180). -/
def mxPush (s : State) (k q : Nat) (xs : List Nat) : State :=
  let x := gcycOf s k
  let c := coreOf s k
  let st := streamOf c q
  let pl := planOwn st true
  let bad := fun code a b => modCore s k fun c => raiseNow c x code (BitVec.ofNat 64 a) (BitVec.ofNat 64 b) 0
  if pl.overrun ≠ 0 then bad 7 q pl.overrun
  else
    match pl.badAddr with
    | some a => bad 8 a 0
    | none =>
      if claimedAt c pl.addr pl.n x ∧ (pl.sn = 0 ∨ claimedAt c pl.saddr pl.sn x) then
        pushItem s k q x xs (x, c.curBundle, 0) true
      else bad 0x0A (if claimedAt c pl.addr pl.n x then pl.saddr else pl.addr) 0

/-- The bank write of an epilogue push; where a foreign write meets it, it does not perform (R74). -/
def unitWrite (s : State) (k : Nat) (w : ScratchWrite) : State :=
  if isVoidedFor true (coreOf s k) (gcycOf s k) w.addr w.data.length then s else performWrite s k w

/-- The next microword's cycle: a MIDLE goes on, or the microword is fetched, or its address lies outside the routine (R169,
R172). -/
def microTick (s : State) (k : Nat) : State :=
  let m := (coreOf s k).mx
  if m.busy = false then s
  else if 0 < m.idle then
    let s := modMe s fun c => setMx c { c.mx with idle := m.idle - 1 }
    if m.idle = 1 then microStep s else postDeed s k (now s + 1) phMicro .micro
  else if m.pc < m.start ∨ m.start + m.length ≤ m.pc then
    modCore s k fun c => raiseNow c (gcycOf s k) 0x15 (BitVec.ofNat 64 m.pc) 2 (BitVec.ofNat 64 m.routine)
  else { s with issuing := some (.micro k) }

end Sys2Proof.Machine
end

