-- ==== Sys2Proof/Machine/Dispatch.lean ====
section
/-! DEFINITION. One arm for each constructor of Instr. -/

namespace Sys2Proof.Machine

def exec (i : Instr) (s : State) : Host.Outcome State Fault Refusal :=
  match i with
  | .move m d => Sys2Proof.Machine.execMove m d s
  | .nop rest => Sys2Proof.Machine.execNop rest s
  | .brp m => Sys2Proof.Machine.execBrp m s
  | .br m => Sys2Proof.Machine.execBr m s
  | .brt m => Sys2Proof.Machine.execBrt m s
  | .call m => Sys2Proof.Machine.execCall m s
  | .ret m => Sys2Proof.Machine.execRet m s
  | .loop n m => Sys2Proof.Machine.execLoop n m s
  | .loopp n m => Sys2Proof.Machine.execLoopp n m s
  | .lbrk n m => Sys2Proof.Machine.execLbrk n m s
  | .waitt m => Sys2Proof.Machine.execWaitt m s
  | .resync m => Sys2Proof.Machine.execResync m s
  | .spawn m => Sys2Proof.Machine.execSpawn m s
  | .exit m => Sys2Proof.Machine.execExit m s
  | .beacon m => Sys2Proof.Machine.execBeacon m s
  | .add m => Sys2Proof.Machine.execAdd m s
  | .sub m => Sys2Proof.Machine.execSub m s
  | .mul m => Sys2Proof.Machine.execMul m s
  | .mulh m => Sys2Proof.Machine.execMulh m s
  | .mulhu m => Sys2Proof.Machine.execMulhu m s
  | .div m => Sys2Proof.Machine.execDiv m s
  | .divu m => Sys2Proof.Machine.execDivu m s
  | .rem m => Sys2Proof.Machine.execRem m s
  | .remu m => Sys2Proof.Machine.execRemu m s
  | .and m => Sys2Proof.Machine.execAnd m s
  | .or m => Sys2Proof.Machine.execOr m s
  | .xor m => Sys2Proof.Machine.execXor m s
  | .andn m => Sys2Proof.Machine.execAndn m s
  | .shl m => Sys2Proof.Machine.execShl m s
  | .shr m => Sys2Proof.Machine.execShr m s
  | .sra m => Sys2Proof.Machine.execSra m s
  | .min m => Sys2Proof.Machine.execMin m s
  | .minu m => Sys2Proof.Machine.execMinu m s
  | .max m => Sys2Proof.Machine.execMax m s
  | .maxu m => Sys2Proof.Machine.execMaxu m s
  | .clz m => Sys2Proof.Machine.execClz m s
  | .popc m => Sys2Proof.Machine.execPopc m s
  | .sel m => Sys2Proof.Machine.execSel m s
  | .cmpEq m => Sys2Proof.Machine.execCmpEq m s
  | .cmpNe m => Sys2Proof.Machine.execCmpNe m s
  | .cmpLt m => Sys2Proof.Machine.execCmpLt m s
  | .cmpLe m => Sys2Proof.Machine.execCmpLe m s
  | .cmpLtu m => Sys2Proof.Machine.execCmpLtu m s
  | .cmpLeu m => Sys2Proof.Machine.execCmpLeu m s
  | .fadd m => Sys2Proof.Machine.execFadd m s
  | .fsub m => Sys2Proof.Machine.execFsub m s
  | .fmul m => Sys2Proof.Machine.execFmul m s
  | .ffma m => Sys2Proof.Machine.execFfma m s
  | .fmin m => Sys2Proof.Machine.execFmin m s
  | .fmax m => Sys2Proof.Machine.execFmax m s
  | .fcmpEq m => Sys2Proof.Machine.execFcmpEq m s
  | .fcmpLt m => Sys2Proof.Machine.execFcmpLt m s
  | .fcmpLe m => Sys2Proof.Machine.execFcmpLe m s
  | .fcmpUn m => Sys2Proof.Machine.execFcmpUn m s
  | .fcvtIf m => Sys2Proof.Machine.execFcvtIf m s
  | .fcvtFi m => Sys2Proof.Machine.execFcvtFi m s
  | .ldB bk m => Sys2Proof.Machine.execLdB bk m s
  | .ldH bk m => Sys2Proof.Machine.execLdH bk m s
  | .ldW bk m => Sys2Proof.Machine.execLdW bk m s
  | .ldD bk m => Sys2Proof.Machine.execLdD bk m s
  | .ldV bk m => Sys2Proof.Machine.execLdV bk m s
  | .stB bk m => Sys2Proof.Machine.execStB bk m s
  | .stH bk m => Sys2Proof.Machine.execStH bk m s
  | .stW bk m => Sys2Proof.Machine.execStW bk m s
  | .stD bk m => Sys2Proof.Machine.execStD bk m s
  | .stV bk m => Sys2Proof.Machine.execStV bk m s
  | .aadd bk m => Sys2Proof.Machine.execAadd bk m s
  | .afadd bk m => Sys2Proof.Machine.execAfadd bk m s
  | .amin bk m => Sys2Proof.Machine.execAmin bk m s
  | .aminu bk m => Sys2Proof.Machine.execAminu bk m s
  | .amax bk m => Sys2Proof.Machine.execAmax bk m s
  | .amaxu bk m => Sys2Proof.Machine.execAmaxu bk m s
  | .aand bk m => Sys2Proof.Machine.execAand bk m s
  | .aor bk m => Sys2Proof.Machine.execAor bk m s
  | .axch bk m => Sys2Proof.Machine.execAxch bk m s
  | .acas bk m => Sys2Proof.Machine.execAcas bk m s
  | .vadd u m => Sys2Proof.Machine.execVadd u m s
  | .vsub u m => Sys2Proof.Machine.execVsub u m s
  | .vmul u m => Sys2Proof.Machine.execVmul u m s
  | .vfma u m => Sys2Proof.Machine.execVfma u m s
  | .vmin u m => Sys2Proof.Machine.execVmin u m s
  | .vmax u m => Sys2Proof.Machine.execVmax u m s
  | .vabs u m => Sys2Proof.Machine.execVabs u m s
  | .vneg u m => Sys2Proof.Machine.execVneg u m s
  | .vand u m => Sys2Proof.Machine.execVand u m s
  | .vor u m => Sys2Proof.Machine.execVor u m s
  | .vxor u m => Sys2Proof.Machine.execVxor u m s
  | .vshl u m => Sys2Proof.Machine.execVshl u m s
  | .vshr u m => Sys2Proof.Machine.execVshr u m s
  | .vsra u m => Sys2Proof.Machine.execVsra u m s
  | .vclamp u m => Sys2Proof.Machine.execVclamp u m s
  | .vsel u m => Sys2Proof.Machine.execVsel u m s
  | .vcmp u m => Sys2Proof.Machine.execVcmp u m s
  | .vreda u m => Sys2Proof.Machine.execVreda u m s
  | .vredm u m => Sys2Proof.Machine.execVredm u m s
  | .vperm u m => Sys2Proof.Machine.execVperm u m s
  | .vcvt u m => Sys2Proof.Machine.execVcvt u m s
  | .vqnt u m => Sys2Proof.Machine.execVqnt u m s
  | .vdot8 u m => Sys2Proof.Machine.execVdot8 u m s
  | .vexp2 u m => Sys2Proof.Machine.execVexp2 u m s
  | .vlog2 u m => Sys2Proof.Machine.execVlog2 u m s
  | .vrcp u m => Sys2Proof.Machine.execVrcp u m s
  | .vrsq u m => Sys2Proof.Machine.execVrsq u m s
  | .vsig u m => Sys2Proof.Machine.execVsig u m s
  | .vlutEval u m => Sys2Proof.Machine.execVlutEval u m s
  | .vlutLoad u m => Sys2Proof.Machine.execVlutLoad u m s
  | .viota u m => Sys2Proof.Machine.execViota u m s
  | .vkand u m => Sys2Proof.Machine.execVkand u m s
  | .vkor u m => Sys2Proof.Machine.execVkor u m s
  | .vknot u m => Sys2Proof.Machine.execVknot u m s
  | .vkred u m => Sys2Proof.Machine.execVkred u m s
  | .mcall m => Sys2Proof.Machine.execMcall m s
  | .muwr m => Sys2Proof.Machine.execMuwr m s
  | .muwrRoutineEntry m => Sys2Proof.Machine.execMuwrRoutineEntry m s
  | .mlut m => Sys2Proof.Machine.execMlut m s
  | .mzero m => Sys2Proof.Machine.execMzero m s
  | .scfg m => Sys2Proof.Machine.execScfg m s
  | .sseek m => Sys2Proof.Machine.execSseek m s
  | .sskip m => Sys2Proof.Machine.execSskip m s
  | .stag m => Sys2Proof.Machine.execStag m s
  | .sclose m => Sys2Proof.Machine.execSclose m s
  | .push q m => Sys2Proof.Machine.execPush q m s
  | .dcopyR m => Sys2Proof.Machine.execDcopyR m s
  | .dcopyW m => Sys2Proof.Machine.execDcopyW m s
  | .dref m => Sys2Proof.Machine.execDref m s
  | .drfm m => Sys2Proof.Machine.execDrfm m s
  | .xcopy m => Sys2Proof.Machine.execXcopy m s
  | .hcopyR m => Sys2Proof.Machine.execHcopyR m s
  | .hcopyW m => Sys2Proof.Machine.execHcopyW m s
  | .imcopy m => Sys2Proof.Machine.execImcopy m s
  | .fsend m => Sys2Proof.Machine.execFsend m s
  | .frecv m => Sys2Proof.Machine.execFrecv m s
  | .fput m => Sys2Proof.Machine.execFput m s
  | .fget m => Sys2Proof.Machine.execFget m s
  | .fatom m => Sys2Proof.Machine.execFatom m s
  | .fpeer m => Sys2Proof.Machine.execFpeer m s
  | .mbsend m => Sys2Proof.Machine.execMbsend m s
  | .mbrecv m => Sys2Proof.Machine.execMbrecv m s
  | .mbstat m => Sys2Proof.Machine.execMbstat m s
  | .mbsnap m => Sys2Proof.Machine.execMbsnap m s
  | .barinit m => Sys2Proof.Machine.execBarinit m s
  | .barrive m => Sys2Proof.Machine.execBarrive m s
  | .barpoll m => Sys2Proof.Machine.execBarpoll m s
  | .fence m => Sys2Proof.Machine.execFence m s
  | .trap m => Sys2Proof.Machine.execTrap m s
  | .csrr m => Sys2Proof.Machine.execCsrr m s
  | .csrw m => Sys2Proof.Machine.execCsrw m s
  | .rclaim m => Sys2Proof.Machine.execRclaim m s
  | .wpt m => Sys2Proof.Machine.execWpt m s
  | .intv m => Sys2Proof.Machine.execIntv m s
  | .mnop => Sys2Proof.Machine.execMnop s
  | .msetImm d imm => Sys2Proof.Machine.execMsetImm d imm s
  | .msetMp d n => Sys2Proof.Machine.execMsetMp d n s
  | .msetAdd d imm => Sys2Proof.Machine.execMsetAdd d imm s
  | .mloop c cm cr last count => Sys2Proof.Machine.execMloop c cm cr last count s
  | .mend => Sys2Proof.Machine.execMend s
  | .midle n => Sys2Proof.Machine.execMidle n s
  | .mzacc t => Sys2Proof.Machine.execMzacc t s
  | .mlda q cls => Sys2Proof.Machine.execMlda q cls s
  | .mldb q r cls => Sys2Proof.Machine.execMldb q r cls s
  | .mmac t => Sys2Proof.Machine.execMmac t s
  | .mmacs t => Sys2Proof.Machine.execMmacs t s
  | .mepi e => Sys2Proof.Machine.execMepi e s
  | .matrixGroupUpdate core start group => Sys2Proof.Machine.execMatrixGroupUpdate core start group s
  | .epilogueRow core start row => Sys2Proof.Machine.execEpilogueRow core start row s
  | .operationComplete core port value flags => Sys2Proof.Machine.execOperationComplete core port value flags s
  | .streamPopRead core q issueAt bundle => Sys2Proof.Machine.execStreamPopRead core q issueAt bundle s
  | .loopEndStep core n => Sys2Proof.Machine.execLoopEndStep core n s
  | .waittResume core => Sys2Proof.Machine.execWaittResume core s
  | .resyncResume gang => Sys2Proof.Machine.execResyncResume gang s
  | .barrierResume gang handle gen => Sys2Proof.Machine.execBarrierResume gang handle gen s
  | .drainPark core n => Sys2Proof.Machine.execDrainPark core n s
  | .fencePerform core scope => Sys2Proof.Machine.execFencePerform core scope s
  | .mbsnapCopy core group => Sys2Proof.Machine.execMbsnapCopy core group s
  | .regionSpillFill core region => Sys2Proof.Machine.execRegionSpillFill core region s
  | .dcopyUnit core cmd unit atDram => Sys2Proof.Machine.execDcopyUnit core cmd unit atDram s
  | .xcopyUnitArrival core u => Sys2Proof.Machine.execXcopyUnitArrival core u s
  | .hostReadDataArrival core cmd unit data ok => Sys2Proof.Machine.execHostReadDataArrival core cmd unit data ok s
  | .hcopyRUnit core cmd unit => Sys2Proof.Machine.execHcopyRUnit core cmd unit s
  | .hcopyWUnit core cmd unit => Sys2Proof.Machine.execHcopyWUnit core cmd unit s
  | .hostWriteSpaceFree core bytes => Sys2Proof.Machine.execHostWriteSpaceFree core bytes s
  | .fsendArrival f => Sys2Proof.Machine.execFsendArrival f s
  | .fputArrival f => Sys2Proof.Machine.execFputArrival f s
  | .fgetRequestArrival f => Sys2Proof.Machine.execFgetRequestArrival f s
  | .fgetResponseArrival f => Sys2Proof.Machine.execFgetResponseArrival f s
  | .fatomRequestArrival f => Sys2Proof.Machine.execFatomRequestArrival f s
  | .fatomResponseArrival f => Sys2Proof.Machine.execFatomResponseArrival f s
  | .poisonFrameArrival f => Sys2Proof.Machine.execPoisonFrameArrival f s
  | .frameForward f hop link => Sys2Proof.Machine.execFrameForward f hop link s
  | .missingArrival core chip expected ticket => Sys2Proof.Machine.execMissingArrival core chip expected ticket s
  | .holdFreeze gang => Sys2Proof.Machine.execHoldFreeze gang s
  | .holdResume gang => Sys2Proof.Machine.execHoldResume gang s
  | .alignSend => Sys2Proof.Machine.execAlignSend s
  | .align link origin => Sys2Proof.Machine.execAlign link origin s
  | .linkDown link => Sys2Proof.Machine.execLinkDown link s
  | .linkTraining link lam mu nbr => Sys2Proof.Machine.execLinkTraining link lam mu nbr s
  | .hold gang number th cause origin => Sys2Proof.Machine.execHold gang number th cause origin s
  | .release gang number origin => Sys2Proof.Machine.execRelease gang number origin s
  | .prepare v => Sys2Proof.Machine.execPrepare v s
  | .vote v => Sys2Proof.Machine.execVote v s
  | .commit v => Sys2Proof.Machine.execCommit v s
  | .abort v => Sys2Proof.Machine.execAbort v s
  | .resyncFrame gang chip count latest => Sys2Proof.Machine.execResyncFrame gang chip count latest s
  | .barrier gang handle chip count latest => Sys2Proof.Machine.execBarrier gang handle chip count latest s
  | .deadpeer gang dead reporter => Sys2Proof.Machine.execDeadpeer gang dead reporter s
  | .drop gang chip core departure hop subcode => Sys2Proof.Machine.execDrop gang chip core departure hop subcode s
  | .abortgang gang cause => Sys2Proof.Machine.execAbortgang gang cause s
  | .unknownLeekFrame type => Sys2Proof.Machine.execUnknownLeekFrame type s
  | .slotBoundary => Sys2Proof.Machine.execSlotBoundary s
  | .prepareSend gang dirIn => Sys2Proof.Machine.execPrepareSend gang dirIn s
  | .switchFreeze gang => Sys2Proof.Machine.execSwitchFreeze gang s
  | .voteSend gang dirIn => Sys2Proof.Machine.execVoteSend gang dirIn s
  | .contextSave gang => Sys2Proof.Machine.execContextSave gang s
  | .voteDeadline gang => Sys2Proof.Machine.execVoteDeadline gang s
  | .inVoteDeadline gang => Sys2Proof.Machine.execInVoteDeadline gang s
  | .switchIn gang => Sys2Proof.Machine.execSwitchIn gang s
  | .fsaReinject gang f => Sys2Proof.Machine.execFsaReinject gang f s
  | .replayReinject core e => Sys2Proof.Machine.execReplayReinject core e s
  | .runComplete gang => Sys2Proof.Machine.execRunComplete gang s
  | .minderFaultRecord core => Sys2Proof.Machine.execMinderFaultRecord core s
  | .recordQueueDrain core => Sys2Proof.Machine.execRecordQueueDrain core s
  | .watchdogThreshold core => Sys2Proof.Machine.execWatchdogThreshold core s
  | .refreshOwedIncrement core => Sys2Proof.Machine.execRefreshOwedIncrement core s
  | .dramSelfRefresh core bank => Sys2Proof.Machine.execDramSelfRefresh core bank s
  | .disturbanceThreshold core ch bank => Sys2Proof.Machine.execDisturbanceThreshold core ch bank s
  | .disturbanceMitigationDone core ch bank => Sys2Proof.Machine.execDisturbanceMitigationDone core ch bank s
  | .disturbanceWindow => Sys2Proof.Machine.execDisturbanceWindow s
  | .eccWriteback sector => Sys2Proof.Machine.execEccWriteback sector s
  | .patrolRead sector finding => Sys2Proof.Machine.execPatrolRead sector finding s
  | .untimedAccessReceive a => Sys2Proof.Machine.execUntimedAccessReceive a s
  | .untimedWriteComplete a => Sys2Proof.Machine.execUntimedWriteComplete a s
  | .hostApertureAccess vdid slot offset write data => Sys2Proof.Machine.execHostApertureAccess vdid slot offset write data s
  | .hartTakenStore hart => Sys2Proof.Machine.execHartTakenStore hart s
  | .hartObservationStore hart offset data => Sys2Proof.Machine.execHartObservationStore hart offset data s
  | .hartPublish hart done => Sys2Proof.Machine.execHartPublish hart done s
  | .checkerRewardStore hart pair reward => Sys2Proof.Machine.execCheckerRewardStore hart pair reward s
  | .hartException hart => Sys2Proof.Machine.execHartException hart s
  | .hartStart hart => Sys2Proof.Machine.execHartStart hart s
  | .stepBudgetOverrun hart => Sys2Proof.Machine.execStepBudgetOverrun hart s
  | .episodeBudgetOverrun hart => Sys2Proof.Machine.execEpisodeBudgetOverrun hart s
  | .stepDeadline core group => Sys2Proof.Machine.execStepDeadline core group s
  | .supervisorKill pair => Sys2Proof.Machine.execSupervisorKill pair s
  | .episodeScrub pair => Sys2Proof.Machine.execEpisodeScrub pair s
  | .powerForecast forecast => Sys2Proof.Machine.execPowerForecast forecast s
  | .thermalSample temps forecasts => Sys2Proof.Machine.execThermalSample temps forecasts s
  | .thw => Sys2Proof.Machine.execThw s
  | .iemer => Sys2Proof.Machine.execIemer s
  | .errorCounterDecay unit => Sys2Proof.Machine.execErrorCounterDecay unit s
  | .islandWake island => Sys2Proof.Machine.execIslandWake island s
  | .scrubUnit die => Sys2Proof.Machine.execScrubUnit die s
  | .coldBoot ok => Sys2Proof.Machine.execColdBoot ok s
  | .warmReset => Sys2Proof.Machine.execWarmReset s
  | .standbyPowerLoss => Sys2Proof.Machine.execStandbyPowerLoss s
  | .spdmRequest block => Sys2Proof.Machine.execSpdmRequest block s
  | .ideKm stream key => Sys2Proof.Machine.execIdeKm stream key s
  | .ideIntegrityFailure stream => Sys2Proof.Machine.execIdeIntegrityFailure stream s
  | .lockInterfaceRequest vf => Sys2Proof.Machine.execLockInterfaceRequest vf s
  | .startInterfaceRequest vf => Sys2Proof.Machine.execStartInterfaceRequest vf s
  | .stopInterfaceRequest vf => Sys2Proof.Machine.execStopInterfaceRequest vf s
  | .getDeviceInterfaceReport vf => Sys2Proof.Machine.execGetDeviceInterfaceReport vf s
  | .functionLevelReset vf => Sys2Proof.Machine.execFunctionLevelReset vf s
  | .grant vdid => Sys2Proof.Machine.execGrant vdid s
  | .revokeBoundary vdid => Sys2Proof.Machine.execRevokeBoundary vdid s
  | .revokeAtOnce vdid => Sys2Proof.Machine.execRevokeAtOnce vdid s
  | .rights vdid => Sys2Proof.Machine.execRights vdid s
  | .ifcfg vdid => Sys2Proof.Machine.execIfcfg vdid s
  | .coreset vdid => Sys2Proof.Machine.execCoreset vdid s
  | .ctxcreate vdid => Sys2Proof.Machine.execCtxcreate vdid s
  | .ctxmap vdid => Sys2Proof.Machine.execCtxmap vdid s
  | .ctxdestroy vdid => Sys2Proof.Machine.execCtxdestroy vdid s
  | .gang vdid => Sys2Proof.Machine.execGang vdid s
  | .cell vdid => Sys2Proof.Machine.execCell vdid s
  | .linkshare vdid => Sys2Proof.Machine.execLinkshare vdid s
  | .linkshareClear vdid => Sys2Proof.Machine.execLinkshareClear vdid s
  | .hostwin vdid => Sys2Proof.Machine.execHostwin vdid s
  | .aperture vdid => Sys2Proof.Machine.execAperture vdid s
  | .apertureClear vdid => Sys2Proof.Machine.execApertureClear vdid s
  | .mboxcfgGrpctl vdid => Sys2Proof.Machine.execMboxcfgGrpctl vdid s
  | .mboxcfgGrpactive vdid => Sys2Proof.Machine.execMboxcfgGrpactive vdid s
  | .mboxcfgEpnext vdid => Sys2Proof.Machine.execMboxcfgEpnext vdid s
  | .hartcfg vdid => Sys2Proof.Machine.execHartcfg vdid s
  | .distcfg vdid => Sys2Proof.Machine.execDistcfg vdid s
  | .debugStopOff vdid => Sys2Proof.Machine.execDebugStopOff vdid s
  | .debugStopOn vdid => Sys2Proof.Machine.execDebugStopOn vdid s
  | .debugHalt vdid => Sys2Proof.Machine.execDebugHalt vdid s
  | .debugImageRead vdid => Sys2Proof.Machine.execDebugImageRead vdid s
  | .debugImageWrite vdid => Sys2Proof.Machine.execDebugImageWrite vdid s
  | .holdrel vdid => Sys2Proof.Machine.execHoldrel vdid s
  | .counters vdid => Sys2Proof.Machine.execCounters vdid s
  | .report vdid => Sys2Proof.Machine.execReport vdid s
  | .pacmdInvalidOp vdid op => Sys2Proof.Machine.execPacmdInvalidOp vdid op s
  | .registerWrite vdid offset value => Sys2Proof.Machine.execRegisterWrite vdid offset value s
  | .leekLaneFree link => Sys2Proof.Machine.execLeekLaneFree link s
  | .hcopyHoldAnnouncement core cmd unit => Sys2Proof.Machine.execHcopyHoldAnnouncement core cmd unit s
  | .outVoteDeadline gang => Sys2Proof.Machine.execOutVoteDeadline gang s
  | .deadpeerClear chips => Sys2Proof.Machine.execDeadpeerClear chips s
  | .msixVectorUnmask vdid vector => Sys2Proof.Machine.execMsixVectorUnmask vdid vector s
  | .frozenConfigurationChange vf => Sys2Proof.Machine.execFrozenConfigurationChange vf s
  | .slotMatrixRowsAndLength rows k => Sys2Proof.Machine.execSlotMatrixRowsAndLength rows k s

end Sys2Proof.Machine
end

