-- ==== Sys2Proof/Machine/Perform.lean ====
section
/-! DEFINITION. What falls due by itself: the deeds of operations and commands (R63, R286, R320). -/

namespace Sys2Proof.Machine

/-- A deed of core `k` performs. -/
def performDeed (s : State) (k : Nat) (d : Deed) : State :=
  match d with
  | .preview => s
  | .begin => beginBundle s k
  | .scan => scanCore s k
  | .load g a n => loadRead s k g a n
  | .store w => storeWrite s k w
  | .rmwRead g op a x y cls => rmwRead s k g op a x y cls
  | .rmwWrite g w f => rmwWrite s k g w f
  | .pred n v => modCore s k fun c => setPred c n.val v
  | .flags f => modCore s k fun c => addFlags c f
  | .stamp tile tag => ownStamp s k tile tag
  | .stampPush tile e => ownStamp s k tile (if (coreOf s k).poison then 0xFFFF else e)
  | .prefetch t half => prefetchRead s k t.val half
  | .refreshOverdue c => refreshOverdue s c
  | .housekeeperWrite a bs => housekeeperWrite s a bs
  | .imageWrite a bs => imageWrite s a bs
  | .interval => modCore s k fun c => { c with interval := c.interval + 1 }
  | .muwr entry index w => muwrWrite s k entry index w
  | .mlutRead a => mlutRead s k a
  | .mlutRest a first => mlutRest s k a first
  | .mlutSet l => mlutSet s k l
  | .mzero t => modCore s k fun c => zeroTile c t
  | .micro => microTick s k
  | .mxReadA st g => mxReadA s k st g
  | .mxReadB r q rt cls => mxReadB s k r q rt cls
  | .mxReadB2 r a n => mxReadB2 s k r a n
  | .mxBias st q => mxBias s k st q
  | .mxPush q xs => mxPush s k q xs
  | .unitStore w => unitWrite s k w
  | .settle => settleReads s k
  | .spawnRegs ws => spawnRegs s k ws
  | .resyncCheck g => resyncCheck s g
  | .barrierApply g o => barrierEvents s g o
  | .farBarrier g h x chip core kind a b => farBarrier s g h x chip core kind a b
  | .barrierFault h sub r => barrierFault s k h sub r
  | .csrr n => csrSample s k n
  | .csrw n v => modCore s k fun c => csrWrite c n v
  | .imUnit c u w => imUnit s k c u w
  | .xcopyRead c u => xcopyRead s k c u
  | .sendRead c u => sendRead s k c u
  | .depart c => depart s k c
  | .frameUnit f i => frameUnit s f i
  | .fatomWrite f o => fatomWrite s f o
  | .mbVersion c => mbVersion s k c
  | .mbRead c u => mbReadUnit s k c u
  | .mbWrite c u => mbWriteUnit s k c u
  | .mbDone c => mbDone s k c
  | .refresh h b r => refreshStart s h b r
  | .activate h cs b r => timedActivate s k h cs b r
  | .foreignStore c w sts => foreignStore s c w sts
  | .pkgInterval g => pkgInterval s g
  | .linkRead since half => linkRead s k since half
  | .gangIntervals g dies pkg gng => gangIntervals s g dies pkg gng
  | .sramError tile => sramError s k tile
  | .bundleError n => bundleError s k n
  | .sramCorrected m => countError s (.sramCorrected k m)
  | .podPlace chip s0 s1 s2 s3 root => podPlace s chip s0 s1 s2 s3 root
  | .podShare chip row link share => podShare s chip row link share
  | .memberCell g chip row named offered => memberCell s g chip row named offered
  | .podLink chip link lam mu up => podLink s chip link lam mu up
  | .leekTransit i => leekForward s i
  | .lostUrgent g => lostUrgent s g
  | .frameError n => frameError s n
  | .controllersRelease g n => controllersRelease s g n
  | .reopenRows g => reopenRows s g
  | .hartFault h => hartFault s h
  | .hartOp h op => hartOp s h op
  | .clusterWrite addr v => clusterWrite s addr v
  | .sramStore addr data => sramStore s addr data
  | .mailboxError i => mailboxError s i
  | .patrol i => patrol s i
  | .stackTrained n => trainStack s n
  | .tdispStop vf => tdispStop s vf
  | .countDepart g n => countSent s g n
  | .replyLost => modCore s k fun c => raiseNow c (gcycOf s k) 0x1A 0 0 0
  | .command p op => completeCommand s p op

end Sys2Proof.Machine
end

