-- ==== Sys2Proof/Machine/Run.lean ====
section
/-! DEFINITION. How the machine goes on: the job due next, a slot's move, a microword, looking ahead for faults (R286, R460),
and the passing of a pod cycle (R15, R16). `ex` is the execution of one step of the opcode table. -/

namespace Sys2Proof.Machine

/-- A core's clock stands in the cycle a job is due (R286). [log 77 DEDUCED] -/
def coreStands (s : State) (j : Job) : Bool :=
  match j.core with
  | none => false
  | some k =>
    match (coreOf s k).frozenAt with
    | some t => decide (t ≤ j.due)
    | none => false

/-- A job can run now: its cycle has come, its gang's time runs, its core is not frozen. -/
def jobDue (s : State) (j : Job) : Bool :=
  match j.clock with
  | .pod => decide (j.due ≤ s.pod)
  | .gang g =>
    let x := gangOf s g
    decide (x.mode = .running ∧ j.due ≤ x.gcyc) && !coreStands s j

/-- Order within a cycle: by phase, then by core; the earlier entry first. [log 6 DEDUCED] -/
def jobBefore (a b : Job) : Bool :=
  decide (a.phase < b.phase) || (decide (a.phase = b.phase) && decide (a.core.getD 0 < b.core.getD 0))

/-- The first of the due jobs. [log 6 DEDUCED] -/
def bestJob (s : State) : List Job → Option Job
  | [] => none
  | j :: js =>
    match bestJob s js with
    | none => if jobDue s j then some j else none
    | some b => if jobDue s j && !jobBefore b j then some j else some b

/-- The due job that runs next, and the agenda without it. -/
def nextJob (s : State) : Option (Job × List Job) := (bestJob s s.agenda).map fun j => (j, s.agenda.erase j)

/-- The stops of R298 that stand in place of their faults. -/
def isStop (c : Core) (r : Raise) : Bool := c.dbg.getLsbD 0 && (r.code == 0x1E || r.code == 0x1F || r.code == 0x20)

/-- What a core has raised is taken: a debugging stop where its context has them, else the fault (R286, R298). -/
def settleCore (s : State) (k : Nat) : State :=
  let c := coreOf s k
  match c.raised with
  | [] => s
  | r :: rs =>
    if (r :: rs).all (isStop c) then debugStop s k (rs.foldl firstRaise r) (r :: rs)
    else settleFaults (modCore s k fun c => { c with raised := c.raised.filter fun r => !isStop c r }) k

/-- Settle every core that has raised a fault; a look-ahead run only collects. -/
def settleAll (s : State) : State :=
  if s.looking then s else ((s.cores.filter fun kc => kc.2.raised ≠ []).map (·.1)).foldl settleCore s

/-- After a step: faults are settled. -/
def settled : Out → Out
  | .next s => .next (settleAll s)
  | o => o

/-- A job runs. -/
def runJob (ex : Instr → State → Out) (s : State) (j : Job) : Out :=
  let k := j.core.getD 0
  let s := { s with phase := j.phase }
  match j.task with
  | .arrive fl => settled (ex fl.instr { s with cur := ⟨k, fl.slot, some fl⟩ })
  | .event i => settled (ex i { s with cur := ⟨k, 0, none⟩ })
  | .deed d => settled (.next (performDeed { s with cur := ⟨k, 0, none⟩ } k d))

/-- The move in slot `n` of core `k`'s bundle issues (R52). -/
def issueSlot (ex : Instr → State → Out) (s : State) (k n : Nat) : Out :=
  let w := (coreOf s k).latch
  match decodeSlot n (slotWord w n) (slotWord w (n + 1)) (slotWord w (n + 2)) with
  | .error _ => .next (nextSlot s k n)
  | .ok i => settled (ex i { nextSlot s k n with cur := ⟨k, n, none⟩ })

/-- The microword that a core's microsequencer has fetched executes (R169, R181). -/
def issueMicro (ex : Instr → State → Out) (s : State) (k : Nat) : Out :=
  let m := (coreOf s k).mx
  let s := { s with issuing := none, cur := ⟨k, 0, none⟩ }
  match decodeMicro (tget 0 m.store m.pc).toNat with
  | .error .microClass => settled (microClass (tget 0 m.store m.pc).toNat s)
  | .error _ => settled (.next (microFault s 1))
  | .ok i => settled (ex i s)

/-- What begins in pod time when a freeze at gang cycle `x` begins: claims' spills, mitigations, step deadlines, and the parks
that an ABORT before T_halt has ended (R162, R218, R266, R279). [log 77 DEDUCED] -/
def frozenWork (s : State) (g x : Nat) : State :=
  let s := postDeadlines (postMitigations (postSpills s g x) g x) g x
  let v := (gangOf s g).vote
  if v.stage = .run ∧ v.drain ∧ v.tHalt = x then
    let s := modGang s g fun y => { y with vote := { v with drain := false } }
    (gangCores s g).foldl (fun s k => modCore s k leavePark) s
  else s

/-- The next gang cycle of a running gang: it begins, or a hold freezes it (R16, R23). -/
def tick (s : State) (g : Nat) : State :=
  let x := gangOf s g
  if x.mode = .running then
    let s := setGang s g { x with gcyc := x.gcyc + 1 }
    if freezeDue x (x.gcyc + 1) then
      let s := frozenWork (postPod s s.pod phFreeze (.holdFreeze g)) g (x.gcyc + 1)
      if x.vote.stage = .armed ∧ x.vote.tHalt = x.gcyc + 1 then postPod s s.pod phHub (.switchFreeze g) else s
    else tickGang (startCycle s g) g
  else s

/-- An hour of pod time (R336). -/
def hourCycles : Nat := 8640000000000

/-- The periodic work of pod time: slot boundaries (R248) and the votes before them (R257), ALIGN frames (R228), powered hours
(R336), the controllers' patrol (R222), disturbance windows (R315). -/
def tickPod (s : State) : State :=
  let n := 2 ^ (authOf s).slotExp
  let s := if s.pod % n = 0 then postPod s s.pod phHub .slotBoundary else s
  let s := if (s.pod + voteLead) % n = 0 then planSwitch s else s
  let s := if s.pod % 2 ^ 20 = 0 then postPod s s.pod phHub .alignSend else s
  let s := if s.pod % hourCycles = 0 then countLife s 0 0 1 else s
  let s := if s.pod % patrolStep = 0 then
      post s ⟨.pod, s.pod, phUntimed, none, .deed (.patrol (s.pod / patrolStep % sectorCount))⟩
    else s
  if s.pod % 2 ^ 32 = 0 then postPod s s.pod phHub .disturbanceWindow else s

/-- A pod cycle passes (R15); minders drain record queues (R293), and members of in-votes vote when they can (R259). -/
def advancePod (s : State) : State :=
  pollVotes (postDrains (tickPod ((s.gangs.map (·.1)).foldl tick { s with pod := s.pod + 1, phase := 0 })))

/-- One step, faults not looked for. -/
def plainStep (ex : Instr → State → Out) (s : State) : Out :=
  match s.issuing with
  | some (.slot k n) => issueSlot ex s k n
  | some (.micro k) => issueMicro ex s k
  | none =>
    match nextJob s with
    | some (j, js) => runJob ex { s with agenda := js } j
    | none => .next (advancePod s)

/-- Run a copy until core `k` has passed gang cycle `limit`, and what it then has raised. -/
def lookRun (ex : Instr → State → Out) (k limit : Nat) : Nat → State → List Raise
  | 0, s => (coreOf s k).raised
  | n + 1, s =>
    if limit < gcycOf s k ∨ (coreGang s k).mode ≠ .running then (coreOf s k).raised
    else
      match plainStep ex s with
      | .next s' => lookRun ex k limit n s'
      | _ => (coreOf s k).raised

/-- Steps that a look ahead may take. -/
def lookFuel : Nat := 1000000

/-- Before the bundle of cycle `x` issues on core `k`, the faults that are charged to it are found by running a copy three
cycles on; then none of its moves performs (R286, R460). A debugging stop suppresses nothing (R298). -/
def preview (ex : Instr → State → Out) (s : State) (k : Nat) : State :=
  let x := gcycOf s k
  let rs := (lookRun ex k (x + 3) lookFuel { s with looking := true }).filter fun r => !isStop (coreOf s k) r
  modCore s k fun c =>
    { c with doomed := rs.filter (fun r => r.charge = x), raised := c.raised ++ rs.filter fun r => decide (r.charge < x) }

/-- One step of the machine. -/
def fullStep (ex : Instr → State → Out) (s : State) : Out :=
  match s.issuing, nextJob s with
  | none, some (j, js) =>
    if j.task = .deed .preview then settled (.next (preview ex { s with agenda := js } (j.core.getD 0)))
    else plainStep ex s
  | _, _ => plainStep ex s

end Sys2Proof.Machine
end

