-- ==== Sys2Proof/Machine/Place.lean ====
section
/-! DEFINITION. A word of the opcode table placed where the next step fetches it, in a machine with one core of one running
gang. -/

namespace Sys2Proof.Machine

/-- The 24-bit words of a slot and its payload slots, those above `nbits` zero. -/
def tableWords (w : Nat) : List Nat := (List.range (claimOf (w % 2 ^ 24) + 1)).map fun i => w / 2 ^ (24 * i) % 2 ^ 24

/-- Put words into the slots of a bundle from slot `n` on. -/
def putSlots (b : BitVec 192) (n : Nat) : List Nat → BitVec 192
  | [] => b
  | w :: ws =>
    let keep := b &&& ~~~(BitVec.ofNat 192 (0xFFFFFF * 2 ^ (24 * n)))
    putSlots (keep ||| BitVec.ofNat 192 (w * 2 ^ (24 * n))) (n + 1) ws

/-- A bundle with the word in the slot whose lane carries it. -/
def bundleWith (w : Nat) : BitVec 192 :=
  let ws := tableWords w
  putSlots emptyBundle (laneOfWord (ws.getD 0 0) (ws.getD 1 0) (ws.getD 2 0)) ws

/-- The slot that `bundleWith` uses. -/
def slotWith (w : Nat) : Nat :=
  let ws := tableWords w
  laneOfWord (ws.getD 0 0) (ws.getD 1 0) (ws.getD 2 0)

/-- The gang that a placed instruction runs in: one context core, its time running. [log 4 DEDUCED] -/
def placeGang : Gang := { mode := .running, hasRun := true, cores := 1 }

/-- The machine with core 0 issuing a bundle that holds the slot word. -/
def placeSlot (s : State) (w : Nat) : State :=
  let c := coreOf s 0
  let b := bundleWith w
  { setCore (setGang s 1 placeGang) 0
      { c with gang := 1, running := true, curCycle := some 0, curBundle := 0, pc := 1, nextIssue := 1,
               latch := b, istore := tset emptyBundle c.istore 0 b } with
    issuing := some (.slot 0 (slotWith w)) }

/-- The machine with core 0's microsequencer at a microword, in a routine of the whole store. -/
def placeMicro (s : State) (w : Nat) : State :=
  let c := coreOf s 0
  { setCore (setGang s 1 placeGang) 0
      { c with gang := 1, running := true
               mx := { c.mx with store := tset 0 c.mx.store c.mx.pc (BitVec.ofNat 64 w), busy := true, start := 0,
                                 length := 4096 } } with
    issuing := some (.micro 0) }

/-- Place a word by its length: 64 bits for a microword, else slot words. [log 4 DEDUCED] -/
def placeWord (s : State) (nbits w : Nat) : State :=
  if nbits = 64 then placeMicro s (w % 2 ^ 64) else placeSlot s (w % 2 ^ nbits)

end Sys2Proof.Machine
end

