-- ==== Sys2Proof/Machine/Step.lean ====
section
/-! DEFINITION. One step of the machine. -/

namespace Sys2Proof.Machine

/-- One step: what is being issued, else the job due next, else the next pod cycle. -/
def step (s : State) : Host.Outcome State Fault Refusal :=
  match s.issuing with
  | some (.slot k _) => if k < 1024 then fullStep exec s else .fault (.noSuchCore k)
  | some (.micro k) => if k < 1024 then fullStep exec s else .fault (.noSuchCore k)
  | none => fullStep exec s

/-- The state with a word of the opcode table where the next step fetches. [log 4 DEDUCED] -/
def State.withFetchWord (s : State) (nbits w : Nat) : State := placeWord s nbits w

end Sys2Proof.Machine
end

