-- ==== Sys2Proof/Safety.lean ====
section
/-! DEFINITION. What a safe run is, and the terms in which statements say what a step changes. -/

namespace Sys2Proof.Machine

/-- A step goes on: it neither stops nor is refused. -/
def goesOn (o : Out) : Prop := ∃ s, o = .next s

/-- `n` steps go on from a state. -/
def safeFor : Nat → State → Prop
  | 0, _ => True
  | n + 1, s => ∃ t, step s = .next t ∧ safeFor n t

/-- The state lists cores and gangs in canonical form: keys rising, no entry equal to the core or gang an unlisted key
reads as. -/
def canonical (s : State) : Prop := twf {} s.cores = true ∧ twf {} s.gangs = true

/-- The canonical form of a memory: addresses strictly rising, no entry 0, what an unlisted address reads as (log entry 1). -/
abbrev Memory.wf (m : Table Byte) : Bool := twf 0 m

/-- The memories of the machine in canonical form: every scratchpad, device DRAM, the mailbox apertures, the
cluster's SRAM, host memory. -/
def memoriesWf (s : State) : Prop :=
  (∀ k, Memory.wf (coreOf s k).scratch) ∧ Memory.wf (dramOf s).bytes ∧ Memory.wf (envOf s).bytes ∧ Memory.wf (envOf s).sram ∧
    Memory.wf (authOf s).host

/-- Work that the running step schedules for its own core. -/
def ownJob (s : State) (due ph : Nat) (t : Task) : Job := ⟨.gang (myCore s).gang, due, ph, some (me s), t⟩

/-- A result that becomes present at a port `lat` cycles from now (R62). -/
def resultJob (s : State) (p : ResultPort) (lat : Nat) (v : Vec) (f : Flags) : Job :=
  ownJob s (now s + lat) phDone (.event (.operationComplete (me s) p v f))

/-- A step that changes no core but its own, which becomes `c`, and schedules `js`. -/
structure OwnStep (s t : State) (c : Core) (js : List Job) : Prop where
  core : coreOf t (me s) = c
  others : ∀ k, k ≠ me s → coreOf t k = coreOf s k
  agenda : t.agenda = s.agenda ++ js
  pod : t.pod = s.pod
  gangs : t.gangs = s.gangs
  hub : t.hub = s.hub
  issuing : t.issuing = s.issuing
  cur : t.cur = s.cur
  phase : t.phase = s.phase
  looking : t.looking = s.looking
  fresh : t.fresh = s.fresh

/-- `c` with the notes of who delivered to which port (R460) and the faults raised as `d` has them. -/
def noted (c d : Core) : Core := { c with deliv := d.deliv, raised := d.raised }

/-- Of the faults that `d` has raised, those that `c` had not are of the named codes. -/
def RaisesOnly (codes : List Nat) (c d : Core) : Prop := ∀ r ∈ d.raised, r ∈ c.raised ∨ r.code ∈ codes

/-- The instruction completes: it answers a next state that changes its own core to `c`, but for those notes, and schedules
`js`; it raises no fault but a port collision. -/
def Completes (i : Instr) (s : State) (c : Core) (js : List Job) : Prop :=
  ∃ t, exec i s = .next t ∧ OwnStep s t (noted c (coreOf t (me s))) js ∧ RaisesOnly [4] (myCore s) (coreOf t (me s))

/-- A scalar operation completes at its arrival: `b` enters port sa.b, and the result is scheduled (R60, R62); in the step so
scheduled, whatever the state then, sa.r becomes `r` and the flags `f` are set. -/
def SaGives (i : Instr) (s : State) (b : Word) (lat : Nat) (r : Word) (f : Flags) : Prop :=
  Completes i s { myCore s with ports := tset 0 (myCore s).ports 0x081 b } [resultJob s .sa lat (r.setWidth 2048) f] ∧
  ∀ u : State, ∃ t, exec (.operationComplete (me s) .sa (r.setWidth 2048) f) u = .next t ∧
    resultOf (coreOf t (me s)) .sa = r ∧ (coreOf t (me s)).flags = (coreOf u (me s)).flags ||| f

/-- A compare completes: `b` enters port sa.b, and the predicate writes of its combining type are scheduled `lat` cycles from
now (R155). -/
def SaCompares (i : Instr) (s : State) (fl : Flight) (b : Word) (lat : Nat) (r : Bool) : Prop :=
  let q := (portOf (myCore s) 0x083).toNat
  ∃ t, exec i s = .next t ∧ RaisesOnly [4] (myCore s) (coreOf t (me s)) ∧
    OwnStep s t
      (noted { myCore s with ports := tset 0 (myCore s).ports 0x081 b, predDue := (coreOf t (me s)).predDue }
        (coreOf t (me s)))
      ((combine (q / 64 % 8) (q / 8 % 8) (q % 8) fl.g r).map fun pvk =>
        ownJob s (now s + lat) phDone (.deed (.pred (Fin.ofNat 8 pvk.1) pvk.2.1)))

/-- What a vector unit latches when `b` enters its port (R60, R413). -/
def vecLatch (s : State) (u : VUnit) (b : Vec) : VIn := vecInputs (setVport (myCore s) (vecBase u + 1) b) u

/-- A vector operation completes: `b` enters, k returns to all ones, the generator has made its draws, and the result is
scheduled (R60, R61, R62, R137). -/
def VecGives (i : Instr) (u : VUnit) (s : State) (b : Vec) (lat : Nat) (r : VOut) : Prop :=
  Completes i s
    (setVecGen { myCore s with
      vports := tset 0 (myCore s).vports (vecBase u + 1) b
      kports := tset onesMask (myCore s).kports (vecBase u + 3) onesMask } u r.gen)
    [resultJob s (vecResult u) lat r.res r.flags]

/-- The job that a move issued now puts in flight with value `v` and guard value `g` (R52). -/
def flightJob (s : State) (i : Instr) (m : Mv) (d : Nat) (v : Val) (g : Bool) : Job :=
  let x := now s
  let n := s.cur.slot
  let a := x + moveLatency n m.src d
  ownJob s a (arrivalPhase i) (.arrive ⟨i, v, g, x, (myCore s).curBundle, n, a⟩)

/-- An access of `n` bytes at `a` with alignment `al` lies in the bank group and within scratch (R71). -/
def InGroup (g : Bank) (a n al : Nat) : Prop :=
  a % al = 0 ∧ a < 2 ^ 22 ∧ a / 2 ^ 20 = bankNo g ∧ (a + n - 1) / 2 ^ 20 = bankNo g

/-- A bank-group operation completes at its arrival: its accesses are reserved and its read or write is scheduled; it raises
no fault but of a port collision, a bank conflict, or a region not claimed. -/
def BankStarts (i : Instr) (s : State) (due ph : Nat) (d : Deed) : Prop :=
  ∃ t, exec i s = .next t ∧ RaisesOnly [4, 5, 0x0A] (myCore s) (coreOf t (me s)) ∧
    (∀ q ∈ (coreOf t (me s)).deferred, q ∈ (myCore s).deferred ∨ q.code = 5) ∧
    OwnStep s t
      (noted { myCore s with accesses := (coreOf t (me s)).accesses, deferred := (coreOf t (me s)).deferred } (coreOf t (me s)))
      [ownJob s due ph (.deed d)]

/-- Every byte of every scratch is as before, but for the bytes `bs` from `a` on in core `k`'s. -/
def ScratchBut (s t : State) (k a : Nat) (bs : List Byte) : Prop :=
  ∀ j b, tget 0 (coreOf t j).scratch b =
    if j = k ∧ a ≤ b ∧ b < a + bs.length then bs.getD (b - a) 0 else tget 0 (coreOf s j).scratch b

/-- Every byte of every scratch is as before. -/
def ScratchSame (s t : State) : Prop := ∀ j b, tget 0 (coreOf t j).scratch b = tget 0 (coreOf s j).scratch b

/-- The element of width `w` at index `e` of a vector (R126). -/
def elemAt (w : Nat) (v : Vec) (e : Nat) : Nat := v.toNat / 2 ^ (w * e) % 2 ^ w

/-- A timed command goes on: its `at`, where one is given, is not earlier than its trigger's arrival, and its core is not
suppressed (R33 to R35). -/
def OnTime (c : Core) (fl : Flight) (w : Word) : Prop :=
  (w = noStart ∨ fl.arrive ≤ w.toNat) ∧ (c.suppress = false ∨ w = noStart)

/-- An engine command is accepted at its trigger's arrival: its `at` is consumed, its work is scheduled as `js`, its answer as
`v` at the port, and neither registers nor memories change. -/
def Accepts (i : Instr) (s : State) (atPort : Nat) (m : EngineCmd) (js : List Job) (answer : List Job) : Prop :=
  let c := myCore s
  ∃ t, exec i s = .next t ∧ t.gangs = s.gangs ∧ ScratchSame s t ∧ (∀ j ∈ s.agenda, j ∈ t.agenda) ∧
    (∀ j ∈ js, j ∈ t.agenda) ∧ (∀ j ∈ answer, j ∈ t.agenda) ∧ RaisesOnly [4, 5] c (coreOf t (me s)) ∧
    let d := coreOf t (me s)
    d.cmds = c.cmds ++ [{ m with id := c.cmdSeq }] ∧ d.ports = tset 0 c.ports atPort noStart ∧ d.s = c.s ∧ d.v = c.v ∧
      d.k = c.k ∧ d.p = c.p ∧ d.pc = c.pc

/-- The cycle that a command answers with in its result port, present a cycle after the arrival (R357). -/
def answerJob (s : State) (p : ResultPort) (v : Nat) : Job := resultJob s p 1 ((BitVec.ofNat 64 v).setWidth 2048) 0

/-- The bytes of a table are as before but for `bs` from `a` on. -/
def BytesBut (u v : Table Byte) (a : Nat) (bs : List Byte) : Prop :=
  ∀ b, tget 0 v b = if a ≤ b ∧ b < a + bs.length then bs.getD (b - a) 0 else tget 0 u b

/-- Device memory reads as before but for `bs` from `a` on. -/
def ReadsBut (s t : State) (a : Nat) (bs : List Byte) : Prop :=
  ∀ b, unsealed t b = if a ≤ b ∧ b < a + bs.length then bs.getD (b - a) 0 else unsealed s b

/-- The gang holds one hold more: this cause's, with T_h = `th`, charged to `key`; everything of the gang else is as before. -/
def Announced (s t : State) (g th : Nat) (cause : HoldCause) (key : Nat) : Prop :=
  gangOf t g = { gangOf s g with
    holds := (gangOf s g).holds ++ [⟨holdNumber s g, th, cause, s.pod, key, none⟩], holdSeq := (gangOf s g).holdSeq + 1 } ∧
  (∀ n, n ≠ g → gangOf t n = gangOf s n) ∧ t.cores = s.cores

/-- The gang's run on this member has been torn down now: no run, no time; no scratch byte changes (R268). -/
def Torn (s t : State) (g : Nat) : Prop :=
  (gangOf t g).mode = .idle ∧ (gangOf t g).hasRun = false ∧ (gangOf t g).tornAt = some s.pod ∧ ScratchSame s t

/-- A PACMD write of row `i` is taken in state `s` with the page's arguments as they stand there, `fix` setting the field that the
row names; and in any state `w` in which it is the command to complete, it completes with RESULT OK, PAARG0 returning `v` where
there is one, in a state of which `P` holds but for the page's registers and the event record. -/
def CommandRuns (s w : State) (p op : Nat) (i : Instr) (fix : List Word → List Word) (v : Option Word) (P : State → Prop) : Prop :=
  let x := partOf s p
  let cmd := fix [x.arg0, x.arg1, x.arg2, x.arg3]
  (∃ t due, exec i s = .next t ∧ s.pod < due ∧ partOf t p = { x with busy := true, taken := s.pod, cmd := cmd } ∧
    t.agenda = s.agenda ++ [⟨.pod, due, phHub, none, .deed (.command p op)⟩]) ∧
  ((partOf w p).cmd = cmd → (partOf w p).busy = true →
    (∀ e ∈ (authOf w).parts, e.2.busy = true → takenBefore e (p, partOf w p) = false) →
    ∃ u, (∀ k, performDeed w k (.command p op) = endCommand w p op (.ok (u, v))) ∧ P u)

end Sys2Proof.Machine
end

