-- ==== Sys2Proof/Certificates/Slice0/Obligations.lean ====
section
/-! DEFINITION. The statements for the provers. -/

open Sys2Proof Sys2Proof.Machine

/-- R343, R411, R394: ADD, SUB, MUL, MULH and MULHU complete at their arrival with the result the rules give; no flag is set,
and nothing but port sa.b and the scheduled result changes. -/
def Obligations.ScalarArithmeticWritesResult : Prop :=
  ∀ (s : State) (fl : Flight) (m : Mv), s.cur.flight = some fl →
    let a := portOf (myCore s) 0x080
    let b := scalarIn .s fl.val
    let z := scalarIn .z fl.val
    SaGives (.add m) s b 1 (BitVec.ofNat 64 (a.toNat + b.toNat)) 0 ∧
    SaGives (.sub m) s b 1 (BitVec.ofInt 64 ((a.toNat : Int) - b.toNat)) 0 ∧
    SaGives (.mul m) s b 3 (BitVec.ofNat 64 (a.toNat * b.toNat)) 0 ∧
    SaGives (.mulh m) s b 3 (BitVec.ofInt 64 (a.toInt * b.toInt / 2 ^ 64)) 0 ∧
    SaGives (.mulhu m) s z 3 (BitVec.ofNat 64 (a.toNat * z.toNat / 2 ^ 64)) 0

/-- R359: DIV, DIVU, REM and REMU complete at their arrival; the quotient or remainder the rule gives, corners included, is
present 18 cycles later. -/
def Obligations.ScalarDivisionWritesQuotient : Prop :=
  ∀ (s : State) (fl : Flight) (m : Mv), s.cur.flight = some fl →
    let a := portOf (myCore s) 0x080
    let b := scalarIn .s fl.val
    let z := scalarIn .z fl.val
    SaGives (.div m) s b 18
      (if b = 0 then 0xFFFFFFFFFFFFFFFF else if a.toInt = -2 ^ 63 ∧ b.toInt = -1 then BitVec.ofInt 64 (-2 ^ 63)
       else BitVec.ofInt 64 (a.toInt.tdiv b.toInt)) 0 ∧
    SaGives (.divu m) s z 18 (if z = 0 then 0xFFFFFFFFFFFFFFFF else BitVec.ofNat 64 (a.toNat / z.toNat)) 0 ∧
    SaGives (.rem m) s b 18
      (if b = 0 then a else if a.toInt = -2 ^ 63 ∧ b.toInt = -1 then 0
       else BitVec.ofInt 64 (a.toInt - a.toInt.tdiv b.toInt * b.toInt)) 0 ∧
    SaGives (.remu m) s z 18
      (if z = 0 then a else BitVec.ofInt 64 ((a.toNat : Int) - (a.toNat / z.toNat : Nat) * z.toNat)) 0

/-- R344, R398, R440, R408: the bitwise operations and shifts complete with their 64-bit result; a shift takes b[5:0]. R344:
the word of ANDN from s4. -/
def Obligations.ScalarLogicWritesResult : Prop :=
  ∀ (s : State) (fl : Flight) (m : Mv), s.cur.flight = some fl →
    let a := portOf (myCore s) 0x080
    let b := scalarIn .s fl.val
    let z := scalarIn .z fl.val
    SaGives (.and m) s b 1 (a &&& b) 0 ∧
    SaGives (.or m) s b 1 (a ||| b) 0 ∧
    SaGives (.xor m) s b 1 (a ^^^ b) 0 ∧
    SaGives (.andn m) s b 1 (a &&& ~~~b) 0 ∧
    SaGives (.shl m) s z 1 (a <<< (z.toNat % 64)) 0 ∧
    SaGives (.shr m) s z 1 (a >>> (z.toNat % 64)) 0 ∧
    SaGives (.sra m) s z 1 (a.sshiftRight (z.toNat % 64)) 0 ∧
    decodeTableWord 24 0x00109C = some (.andn ⟨⟨false, 0⟩, .sreg 4⟩)

/-- R376, R353, R399, R407: MIN and MAX in both signednesses, the counts of leading zeros and of ones, and SEL, which reads
the predicate that q[2:0] names. -/
def Obligations.ScalarSelectionWritesResult : Prop :=
  ∀ (s : State) (fl : Flight) (m : Mv), s.cur.flight = some fl →
    let a := portOf (myCore s) 0x080
    let b := scalarIn .s fl.val
    let z := scalarIn .z fl.val
    SaGives (.min m) s b 1 (if a.toInt ≤ b.toInt then a else b) 0 ∧
    SaGives (.minu m) s z 1 (if a.toNat ≤ z.toNat then a else z) 0 ∧
    SaGives (.max m) s b 1 (if a.toInt < b.toInt then b else a) 0 ∧
    SaGives (.maxu m) s z 1 (if a.toNat < z.toNat then z else a) 0 ∧
    (∃ n ≤ 64, SaGives (.clz m) s z 1 (BitVec.ofNat 64 n) 0 ∧
      (∀ i, 64 - n ≤ i → i < 64 → z.getLsbD i = false) ∧ (n < 64 → z.getLsbD (63 - n) = true)) ∧
    SaGives (.popc m) s z 1 (BitVec.ofNat 64 ((List.range 64).countP fun i => z.getLsbD i)) 0 ∧
    SaGives (.sel m) s b 1 (if predOf (myCore s) ((portOf (myCore s) 0x083).toNat % 8) then a else b) 0

/-- R354, R155: the integer compares complete whatever their guard holds, and write the two predicates of sa.q under its
combining type one cycle later. R366: the FP32 compares write their predicates two cycles later; with a NaN all but UN are
false. -/
def Obligations.ScalarComparesWritePredicate : Prop :=
  (∀ (s : State) (fl : Flight) (m : Mv), s.cur.flight = some fl →
     let a := portOf (myCore s) 0x080
     let b := scalarIn .s fl.val
     let z := scalarIn .z fl.val
     SaCompares (.cmpEq m) s fl b 1 (decide (a = b)) ∧
     SaCompares (.cmpNe m) s fl b 1 (decide (a ≠ b)) ∧
     SaCompares (.cmpLt m) s fl b 1 (decide (a.toInt < b.toInt)) ∧
     SaCompares (.cmpLe m) s fl b 1 (decide (a.toInt ≤ b.toInt)) ∧
     SaCompares (.cmpLtu m) s fl z 1 (decide (a.toNat < z.toNat)) ∧
     SaCompares (.cmpLeu m) s fl z 1 (decide (a.toNat ≤ z.toNat))) ∧
  (∀ (s : State) (fl : Flight) (m : Mv), s.cur.flight = some fl →
     let x := f32Of (portOf (myCore s) 0x080)
     let b := scalarIn (.f f32) fl.val
     let y := f32Of b
     let nan := x = .nan ∨ y = .nan
     ∃ eq lt le un : Bool,
       SaCompares (.fcmpEq m) s fl b 2 eq ∧ SaCompares (.fcmpLt m) s fl b 2 lt ∧ SaCompares (.fcmpLe m) s fl b 2 le ∧
       SaCompares (.fcmpUn m) s fl b 2 un ∧
       un = decide nan ∧ (nan → eq = false ∧ lt = false ∧ le = false) ∧ le = (lt || eq) ∧
       lt = numLt x y ∧ eq = numEq x y)

/-- R362, R368, R367: the FP32 operations complete with the value rounded once and the flags raised, at the latencies of
R69. -/
def Obligations.FloatOperationsWriteResultAndFlags : Prop :=
  ∀ (s : State) (fl : Flight) (m : Mv), s.cur.flight = some fl →
    let a := portOf (myCore s) 0x080
    let c := portOf (myCore s) 0x082
    let b := scalarIn (.f f32) fl.val
    let i := scalarIn .s fl.val
    let gives := fun op lat (r : Word × Flags) => SaGives op s b lat r.1 r.2
    gives (.fadd m) 4 (f32Result (numAdd (f32Of a) (f32Of b))) ∧
    gives (.fsub m) 4 (f32Result (numAdd (f32Of a) (numNegate (f32Of b)))) ∧
    gives (.fmul m) 4 (f32Result (numMul (f32Of a) (f32Of b))) ∧
    gives (.ffma m) 4 (fpFma (f32Of a) (f32Of b) (f32Of c)) ∧
    gives (.fmin m) 2 (if f32Of a = .nan ∨ f32Of b = .nan then 0x7FC00000
      else if fpBelow (f32Of b) (f32Of a) then b &&& 0xFFFFFFFF else a &&& 0xFFFFFFFF, 0) ∧
    gives (.fmax m) 2 (if f32Of a = .nan ∨ f32Of b = .nan then 0x7FC00000
      else if fpBelow (f32Of b) (f32Of a) then a &&& 0xFFFFFFFF else b &&& 0xFFFFFFFF, 0) ∧
    gives (.fcvtFi m) 3 (fpToInt b) ∧
    SaGives (.fcvtIf m) s i 3 (intToFp i).1 (intToFp i).2

/-- R52, R56, R57: a move whose guard is true is put in flight with the value its source holds, to arrive after the latency of its
lane; nothing else changes, but the row pointer of an accumulator popped. With a false guard it delivers nothing, except that a
compare trigger is put in flight with that guard value. Sources that pop or peek a stream, and what WAITT and MBSNAP do as they
issue, are stated elsewhere. R52: the latency of a lane is 1 for a distance up to 4, 2 up to 8, and 1 for an immediate; the null
sink takes no lane. -/
def Obligations.MovesIssue : Prop :=
  (∀ (s : State) (i : Instr) (m : Mv) (d : Nat), s.cur.flight = none → moveOf i = some m → dstId i = some d →
     streamSource m.src = none → (∀ w, i ≠ .waitt w ∧ i ≠ .mbsnap w) →
     let c := myCore s
     let r := readSource c m.src (now s) c.curBundle s.cur.slot
     (guardOf c m.g = true → ∃ t, exec i s = .next t ∧ OwnStep s t r.2 [flightJob s i m d r.1 true]) ∧
     (guardOf c m.g = false → isCompare i = false → ∃ t, exec i s = .next t ∧ OwnStep s t c []) ∧
     (guardOf c m.g = false → isCompare i = true → ∃ t, exec i s = .next t ∧ OwnStep s t r.2 [flightJob s i m d r.1 false])) ∧
  (∀ (n : Nat) (src : Source) (d : Nat), laneOk n src d = true →
     moveLatency n src d = if d = 0 ∨ homeStation src = none then 1 else if moveDistance n src (d / 64) ≤ 4 then 1 else 2)

/-- R56, R66: a MOVE's arrival writes its register: s0 and p0 discard the write, every other register takes the value, and no
other register, port, flag or byte changes. R56, R61, R66: a MOVE's arrival at an operand port writes that port alone: a scalar
port its 64-bit value, a vector or mask port the value placed by R66. -/
def Obligations.MoveWrites : Prop :=
  (∀ (s : State) (fl : Flight) (m : Mv), s.cur.flight = some fl →
     Completes (.move m .null) s (myCore s) [] ∧
     Completes (.move m (.sreg 0)) s (myCore s) [] ∧
     (∀ n : Fin 64, n ≠ 0 → Completes (.move m (.sreg n)) s
       { myCore s with s := tset 0 (myCore s).s n.val (scalarIn .s fl.val) } []) ∧
     (∀ n : Fin 32, Completes (.move m (.vreg n)) s
       { myCore s with v := tset 0 (myCore s).v n.val (vecIn (.f f32) 32 fl.val) } []) ∧
     (∀ n : Fin 8, Completes (.move m (.kreg n)) s
       { myCore s with k := tset 0 (myCore s).k n.val (maskIn .s fl.val) } []) ∧
     (∀ n : Fin 8, ∃ t, exec (.move m (.preg n)) s = .next t ∧
       OwnStep s t (noted { myCore s with p := (coreOf t (me s)).p, predDue := (coreOf t (me s)).predDue } (coreOf t (me s))) [] ∧
       ∀ j < 8, predOf (coreOf t (me s)) j =
         if j = n.val ∧ j ≠ 0 then (scalarIn .z fl.val).getLsbD 0 else predOf (myCore s) j)) ∧
  (∀ (s : State) (fl : Flight) (m : Mv) (p : OperandPort), s.cur.flight = some fl →
     ∃ c, Completes (.move m (.port p)) s c [] ∧
       ((∀ u g, p ≠ .vec u .a ∧ p ≠ .vec u .b ∧ p ≠ .vec u .c ∧ p ≠ .vec u .k ∧ p ≠ .vec u .sc ∧ p ≠ .bankData g ∧
           p ≠ .bankCmp g) →
         c = { myCore s with ports := tset 0 (myCore s).ports (portId p) (scalarIn (portClass p) fl.val) }) ∧
       (∀ g, p = .bankData g → c = { myCore s with vports := tset 0 (myCore s).vports (bankBase g + 1) (vecIn .z 64 fl.val) }) ∧
       (∀ u, p = .vec u .k → c = { myCore s with kports := tset onesMask (myCore s).kports (vecBase u + 3) (maskIn .s fl.val) }) ∧
       (∀ g, p = .bankCmp g → c = { myCore s with vports := tset 0 (myCore s).vports (bankBase g + 2) (vecIn .z 64 fl.val) }) ∧
       (∀ u, p = .vec u .sc → c = { myCore s with vports := tset 0 (myCore s).vports (vecBase u + 6) (vecIn .z 8 fl.val) }) ∧
       (∀ u n, (n = 0 ∧ p = .vec u .a ∨ n = 1 ∧ p = .vec u .b ∨ n = 2 ∧ p = .vec u .c) → ∃ cls w,
         tyClass (myCore s) u = (cls, w) ∧
         c = { myCore s with vports := tset 0 (myCore s).vports (vecBase u + n) (vecIn cls w fl.val) }))

/-- R55: a move with the never-guard has no effect. -/
def Obligations.NeverGuard : Prop :=
  ∀ (s : State) (rest : BitVec 20), exec (.nop rest) s = .next s

/-- R373: LD.B to LD.V with an aligned address in their bank group complete: the read is scheduled for arrival + 1. R373: the
read of a load takes the bytes scratch holds then, least significant first, and presents them two cycles later; no byte of
scratch changes. -/
def Obligations.LoadsReadAtNextCycle : Prop :=
  (∀ (s : State) (fl : Flight) (m : Mv) (g : Bank), s.cur.flight = some fl →
     let a := (scalarIn .z fl.val).toNat
     let starts := fun i n al => InGroup g a n al → BankStarts i s (fl.arrive + 1) phRead (.load g a n)
     starts (.ldB g m) 1 1 ∧ starts (.ldH g m) 2 2 ∧ starts (.ldW g m) 4 4 ∧ starts (.ldD g m) 8 8 ∧ starts (.ldV g m) 256 32) ∧
  (∀ (s : State) (k a n : Nat) (g : Bank), isVoided (coreOf s k) (gcycOf s k) a n = false →
     let t := performDeed s k (.load g a n)
     let v := BitVec.ofNat 2048 (leNat (scratchBytes (coreOf s k) a n))
     t.agenda = s.agenda ++
       [⟨.gang (coreOf s k).gang, gcycOf s k + 2, phDone, some k, .event (.operationComplete k (bankResult g) v 0)⟩] ∧
     ScratchSame s t)

/-- R410: ST.B to ST.V with an aligned address in their bank group complete: the low bytes of bgX.data are latched and their
write is scheduled for arrival + 2. R410, R73: the write of a store changes exactly the bytes it was given, at its address;
every other byte of every scratch reads as before. -/
def Obligations.StoresWriteTwoCyclesLater : Prop :=
  (∀ (s : State) (fl : Flight) (m : Mv) (g : Bank), s.cur.flight = some fl →
     let a := (scalarIn .z fl.val).toNat
     let d := (vportOf (myCore s) (bankBase g + 1)).toNat
     let w := fun n => (⟨a, leBytes n d, 0, agentId 1 (myCore s).idx, (myCore s).idx, 0⟩ : ScratchWrite)
     let starts := fun i n al => InGroup g a n al → BankStarts i s (fl.arrive + 2) phWrite (.store (w n))
     starts (.stB g m) 1 1 ∧ starts (.stH g m) 2 2 ∧ starts (.stW g m) 4 4 ∧ starts (.stD g m) 8 8 ∧ starts (.stV g m) 256 32) ∧
  (∀ (s : State) (k : Nat) (w : ScratchWrite), isVoided (coreOf s k) (gcycOf s k) w.addr w.data.length = false →
     let t := performDeed s k (.store w)
     ScratchBut s t k w.addr w.data ∧ t.agenda = s.agenda)

/-- R342: AADD, AFADD, AMIN, AMINU, AMAX, AMAXU, AAND, AOR, AXCH and ACAS with a 4-aligned address in their bank group
complete: the operands are latched and the read of the word is scheduled for arrival + 1. The read of a read-modify-write
presents the old word two cycles later and schedules the write of the new one then; ACAS writes its operand when the old word
equals cmp, and nothing otherwise. The write changes the bytes it was given and no other. -/
def Obligations.AtomicsReadAndWriteInTheirCycles : Prop :=
  (∀ (s : State) (fl : Flight) (m : Mv) (g : Bank), s.cur.flight = some fl →
     let a := (scalarIn .z fl.val).toNat
     let d := (vportOf (myCore s) (bankBase g + 1)).setWidth 32
     let e := (vportOf (myCore s) (bankBase g + 2)).setWidth 32
     let starts := fun i op => BankStarts i s (fl.arrive + 1) phRead (.rmwRead g op a d e 0)
     InGroup g a 4 4 →
       starts (.aadd g m) 0 ∧ starts (.afadd g m) 1 ∧ starts (.amin g m) 2 ∧ starts (.aminu g m) 3 ∧ starts (.amax g m) 4 ∧
       starts (.amaxu g m) 5 ∧ starts (.aand g m) 6 ∧ starts (.aor g m) 7 ∧ starts (.axch g m) 8 ∧ starts (.acas g m) 9) ∧
  (∀ (s : State) (k a cls : Nat) (g : Bank) (d e : BitVec 32), isVoided (coreOf s k) (gcycOf s k) a 4 = false →
     let old := BitVec.ofNat 32 (leNat (scratchBytes (coreOf s k) a 4))
     let x := gcycOf s k + 2
     let job := fun ph t => (⟨.gang (coreOf s k).gang, x, ph, some k, t⟩ : Job)
     let writes := fun op (new : Option (BitVec 32)) (f : Flags) =>
       let t := performDeed s k (.rmwRead g op a d e cls)
       ScratchSame s t ∧
       t.agenda = s.agenda ++
         [job phDone (.event (.operationComplete k (bankResult g) (old.setWidth 2048) 0)),
          job phWrite (.deed (.rmwWrite g ⟨a, (new.map fun w => leBytes 4 w.toNat).getD [], cls, agentId 1 (coreOf s k).idx,
            (coreOf s k).idx, 0⟩ f))]
     writes 0 (some (old + d)) 0 ∧
     (let r := fpAdd (decodeNum f32 old.toNat) (decodeNum f32 d.toNat); writes 1 (some (r.1.setWidth 32)) r.2) ∧
     writes 2 (some (if old.toInt ≤ d.toInt then old else d)) 0 ∧
     writes 3 (some (if old.toNat ≤ d.toNat then old else d)) 0 ∧
     writes 4 (some (if old.toInt < d.toInt then d else old)) 0 ∧
     writes 5 (some (if old.toNat < d.toNat then d else old)) 0 ∧
     writes 6 (some (old &&& d)) 0 ∧
     writes 7 (some (old ||| d)) 0 ∧
     writes 8 (some d) 0 ∧
     writes 9 (if old = e then some d else none) 0) ∧
  (∀ (s : State) (k : Nat) (g : Bank) (w : ScratchWrite) (f : Flags), isVoided (coreOf s k) (gcycOf s k) w.addr 4 = false →
     isVoided (coreOf s k) (gcycOf s k - 1) w.addr 4 = false →
     let t := performDeed s k (.rmwWrite g w f)
     ScratchBut s t k w.addr w.data ∧ t.agenda = s.agenda ∧ (coreOf t k).flags = (coreOf s k).flags ||| f)

/-- R71: a load, store or read-modify-write whose address is misaligned or leaves its bank group raises the scratch-address
fault, whose first information word is 0, and performs nothing. -/
def Obligations.BadAddressFaults : Prop :=
  ∀ (s : State) (fl : Flight) (m : Mv) (g : Bank), s.cur.flight = some fl → (myCore s).frozenAt = none →
    let a := (scalarIn .z fl.val).toNat
    ∀ p ∈ [(Instr.ldB g m, 1, 1), (.ldH g m, 2, 2), (.ldW g m, 4, 4), (.ldD g m, 8, 8), (.ldV g m, 256, 32),
        (.stB g m, 1, 1), (.stH g m, 2, 2), (.stW g m, 4, 4), (.stD g m, 8, 8), (.stV g m, 256, 32),
        (.aadd g m, 4, 4), (.afadd g m, 4, 4), (.amin g m, 4, 4), (.aminu g m, 4, 4), (.amax g m, 4, 4),
        (.amaxu g m, 4, 4), (.aand g m, 4, 4), (.aor g m, 4, 4), (.axch g m, 4, 4), (.acas g m, 4, 4)],
      ¬ InGroup g a p.2.1 p.2.2 →
      ∃ t, exec p.1 s = .next t ∧ t.agenda = s.agenda ∧ ScratchSame s t ∧
        ∃ r ∈ (coreOf t (me s)).raised, r.code = 8 ∧ r.a = 0

/-- R417, R419: VADD, VSUB, VMUL and VFMA with an accepted ty complete; every enabled element is the exact value rounded once
in a floating format, or wrapped or clamped in an integer format, and every disabled element is a's. -/
def Obligations.VectorArithmeticWritesResult : Prop :=
  ∀ (s : State) (fl : Flight) (m : Mv) (u : VUnit) (f : Fmt), s.cur.flight = some fl →
    fmtOfCode (tyCode (myCore s) u) = some f → (fmtIsFloat f || fmtIsInt f) = true →
    let b := vecIn (tyClass (myCore s) u).1 (tyClass (myCore s) u).2 fl.val
    let x := vecLatch s u b
    let w := fmtWidth f
    let lane := fun (v : Vec) e => elemAt w v e
    let gives := fun i (g : Machine.Num → Machine.Num → Machine.Num → Machine.Num × Flags) (h : Int → Int → Int → Int) =>
      ∃ r, VecGives i u s b (if fmtIsInt f then 2 else 4) r ∧ ∀ e < 2048 / w,
        (x.k.getLsbD e = false → elemAt w r.res e = lane x.a e) ∧
        (x.k.getLsbD e = true →
          (∀ n signed, f = .int n signed → elemAt w r.res e = (intFit n signed x.rm (h (intElem f (lane x.a e))
            (intElem f (lane x.b e)) (intElem f (lane x.c e)))).1 % 2 ^ w) ∧
          (fmtIsInt f = false → ∃ d, elemAt w r.res e = (roundNum f (g (decodeNum f (lane x.a e)) (decodeNum f (lane x.b e))
            (decodeNum f (lane x.c e))).1 x.rm d).1 % 2 ^ w))
    gives (.vadd u m) (fun p q _ => numAdd p q) (fun p q _ => p + q) ∧
    gives (.vsub u m) (fun p q _ => numAdd p (numNegate q)) (fun p q _ => p - q) ∧
    gives (.vmul u m) (fun p q _ => numMul p q) (fun p q _ => p * q) ∧
    gives (.vfma u m) numFma (fun p q r => p * q + r)

/-- R420, R421, R416: VMIN, VMAX, VCLAMP, VABS and VNEG with an accepted ty complete; the chosen operand keeps its bits, and a
disabled element is a's, or b's for VABS and VNEG. (Model's choices it rests on: log entry 29.) -/
def Obligations.VectorSelectionWritesResult : Prop :=
  ∀ (s : State) (fl : Flight) (m : Mv) (u : VUnit) (f : Fmt), s.cur.flight = some fl →
    fmtOfCode (tyCode (myCore s) u) = some f → (fmtIsFloat f || fmtIsInt f) = true →
    let b := vecIn (tyClass (myCore s) u).1 (tyClass (myCore s) u).2 fl.val
    let x := vecLatch s u b
    let w := fmtWidth f
    let gives := fun i lat (pass : Vec) (g : Nat → Nat → Nat → Nat) =>
      ∃ r, VecGives i u s b lat r ∧ ∀ e < 2048 / w, elemAt w r.res e =
        if x.k.getLsbD e then g (elemAt w x.a e) (elemAt w x.b e) (elemAt w x.c e) % 2 ^ w else elemAt w pass e
    let lat := if fmtIsInt f then 2 else 4
    gives (.vmin u m) lat x.a (fun p q _ => codeChoose f false p q) ∧
    gives (.vmax u m) lat x.a (fun p q _ => codeChoose f true p q) ∧
    gives (.vclamp u m) lat x.a (fun p q r => codeClamp f p q r) ∧
    gives (.vabs u m) 2 x.b (fun _ q _ => match f with
      | .int n signed => (intFit n signed x.rm (intElem f q).natAbs).1
      | f => codeAbs f q) ∧
    gives (.vneg u m) 2 x.b (fun _ q _ => match f with
      | .int n signed => (intFit n signed x.rm (-(intElem f q))).1
      | f => (codeNeg f x.rm q).1)

/-- R422, R434, R431: the bitwise operations, VSEL and VPERM accept every ty that is not reserved, and set no flag. R435, R427:
VSHL, VSHR, VSRA and VIOTA accept the integer formats; a shift takes its amount modulo the element's width. -/
def Obligations.VectorBitsWriteResult : Prop :=
  (∀ (s : State) (fl : Flight) (m : Mv) (u : VUnit) (f : Fmt), s.cur.flight = some fl →
     fmtOfCode (tyCode (myCore s) u) = some f →
     let t := tyClass (myCore s) u
     let w := fmtWidth f
     let gives := fun i cls lat (g : VIn → Nat → Nat → Nat) =>
       let b := vecIn cls t.2 fl.val
       let x := vecLatch s u b
       ∃ r, VecGives i u s b lat r ∧ r.flags = 0 ∧ r.gen = x.gen ∧ ∀ e < 2048 / w, elemAt w r.res e =
         if x.k.getLsbD e then g x (elemAt w x.a e) (elemAt w x.b e) % 2 ^ w else elemAt w x.a e
     gives (.vand u m) .s 1 (fun _ p q => p &&& q) ∧
     gives (.vor u m) .s 1 (fun _ p q => p ||| q) ∧
     gives (.vxor u m) .s 1 (fun _ p q => p ^^^ q) ∧
     gives (.vsel u m) t.1 1 (fun _ _ q => q) ∧
     gives (.vperm u m) .z 3 (fun x _ q =>
       if x.ctl.testBit 0 then (if q < 2048 / w then elemAt w x.a q else 0) else elemAt w x.a (q % (2048 / w)))) ∧
  (∀ (s : State) (fl : Flight) (m : Mv) (u : VUnit) (w : Nat) (signed : Bool), s.cur.flight = some fl →
     fmtOfCode (tyCode (myCore s) u) = some (.int w signed) →
     let b := vecIn .z (tyClass (myCore s) u).2 fl.val
     let x := vecLatch s u b
     let gives := fun i (pass : Vec) (g : Nat → Nat → Nat → Nat) =>
       ∃ r, VecGives i u s b 2 r ∧ r.flags = 0 ∧ r.gen = x.gen ∧ ∀ e < 2048 / w, elemAt w r.res e =
         if x.k.getLsbD e then g e (elemAt w x.a e) (elemAt w x.b e) % 2 ^ w else elemAt w pass e
     gives (.vshl u m) x.a (fun _ p q => p * 2 ^ (q % w)) ∧
     gives (.vshr u m) x.a (fun _ p q => p / 2 ^ (q % w)) ∧
     gives (.vsra u m) x.a (fun _ p q => sraElem w p (q % w)) ∧
     gives (.viota u m) x.b (fun e _ q => q + e)) ∧
  decodeTableWord 24 0x08111C = some (.vshr .va ⟨⟨false, 0⟩, .short 4⟩)

/-- R428, R429, R423: the mask operations complete; VCMP's mask has bit e of every enabled element that satisfies its
condition, and VKRED writes its predicate two cycles later. -/
def Obligations.VectorMasksWriteResult : Prop :=
  ∀ (s : State) (fl : Flight) (m : Mv) (u : VUnit) (f : Fmt), s.cur.flight = some fl →
    fmtOfCode (tyCode (myCore s) u) = some f →
    let t := tyClass (myCore s) u
    let b := vecIn .s t.2 fl.val
    let x := vecLatch s u b
    let mask := fun (k : Mask) => (⟨k.setWidth 2048, 0, x.gen⟩ : VOut)
    VecGives (.vkand u m) u s b 1 (mask (x.a.setWidth 256 &&& x.b.setWidth 256)) ∧
    VecGives (.vkor u m) u s b 1 (mask (x.a.setWidth 256 ||| x.b.setWidth 256)) ∧
    VecGives (.vknot u m) u s b 1 (mask (~~~(x.b.setWidth 256))) ∧
    (let b := vecIn t.1 t.2 fl.val
     let y := vecLatch s u b
     (fmtIsFloat f || fmtIsInt f) = true → y.ctl % 8 ≠ 7 →
      ∃ r, VecGives (.vcmp u m) u s b 2 r ∧ r.flags = 0 ∧ ∀ e, r.res.getLsbD e =
        (decide (e < 2048 / fmtWidth f) && y.k.getLsbD e &&
          codeCond f (y.ctl % 8) (elemAt (fmtWidth f) y.a e) (elemAt (fmtWidth f) y.b e))) ∧
    (let b := vecIn .z t.2 fl.val
     let z := vecLatch s u b
     let n := 2048 / fmtWidth f
     let v := if z.b.getLsbD 3 then decide (∀ e < n, z.k.getLsbD e = true → z.a.getLsbD e = true)
       else decide (∃ e < n, z.k.getLsbD e = true ∧ z.a.getLsbD e = true)
     ∃ t, exec (.vkred u m) s = .next t ∧
      OwnStep s t (noted { myCore s with
          vports := tset 0 (myCore s).vports (vecBase u + 1) b
          kports := tset onesMask (myCore s).kports (vecBase u + 3) onesMask
          predDue := (coreOf t (me s)).predDue } (coreOf t (me s)))
        [ownJob s (now s + 2) phDone (.deed (.pred (Fin.ofNat 8 (z.b.toNat % 8)) v))])

/-- R424, R425, R432, R433, R140: the reductions, conversions and dot products complete with the value of their rule, on the
controls that it does not declare invalid. VREDA and VREDM combine neighbours level by level; VCVT and VQNT convert the part
that ctl names and leave a's other elements; VDOT8 sums eight products to each of 32 elements.
(Model's choices it rests on: log entries 27 and 29.) -/
def Obligations.VectorReductionsWriteResult : Prop :=
  ∀ (s : State) (fl : Flight) (m : Mv) (u : VUnit) (f : Fmt), s.cur.flight = some fl →
    fmtOfCode (tyCode (myCore s) u) = some f →
    let b := vecIn (tyClass (myCore s) u).1 (tyClass (myCore s) u).2 fl.val
    let x := vecLatch s u b
    let w := fmtWidth f
    let n := 2048 / w
    let part := x.ctl / 256 % 4
    ((fmtIsFloat f || fmtIsInt f) = true →
      ∃ r, VecGives (.vreda u m) u s b 8 r ∧ ∃ lv : Nat → Nat → Nat,
        (∀ e < n, lv 0 e = if x.k.getLsbD e then elemAt w x.b e else 0) ∧
        (∀ j e, e < n / 2 ^ (j + 1) →
          (∀ v signed, f = .int v signed →
            lv (j + 1) e = (intFit v signed x.rm (intElem f (lv j (2 * e)) + intElem f (lv j (2 * e + 1)))).1) ∧
          (fmtIsInt f = false → ∃ d, lv (j + 1) e =
            (roundNum f (numAdd (decodeNum f (lv j (2 * e))) (decodeNum f (lv j (2 * e + 1)))).1 x.rm d).1)) ∧
        r.res = BitVec.ofNat 2048 (lv (Nat.log2 n) 0)) ∧
    ((fmtIsFloat f || fmtIsInt f) = true →
      ∃ r, VecGives (.vredm u m) u s b 8 r ∧ r.flags = 0 ∧ r.gen = x.gen ∧ ∃ lv : Nat → Nat → Option Nat,
        (∀ e < n, lv 0 e = if x.k.getLsbD e then some (elemAt w x.b e) else none) ∧
        (∀ j e, e < n / 2 ^ (j + 1) →
          (lv j (2 * e) = none → lv (j + 1) e = lv j (2 * e + 1)) ∧
          (lv j (2 * e + 1) = none → lv (j + 1) e = lv j (2 * e)) ∧
          ∀ p q, lv j (2 * e) = some p → lv j (2 * e + 1) = some q →
            lv (j + 1) e = some (codeChoose f (x.ctl.testBit 0) p q)) ∧
        r.res = BitVec.ofNat 2048 ((lv (Nat.log2 n) 0).getD 0)) ∧
    (∀ d, fmtOfCode (x.ctl % 256) = some d → d ≠ .e8 → (x.ctl.testBit 10 = true → fmtIsB8 f = true) →
      let v := fmtWidth d
      let lo := if v < w then part % (w / v) * (2048 / w) else 0
      let from' := if w < v then part % (v / w) * (2048 / v) else 0
      ∃ r, VecGives (.vcvt u m) u s b 3 r ∧ ∀ e < 2048 / v,
        let i := from' + (e - lo)
        if lo ≤ e ∧ e < lo + 2048 / max w v ∧ x.k.getLsbD e = true then
          ∃ dr, elemAt v r.res e =
            (if x.ctl.testBit 10 then (roundNum d (scaleBy (decodeNum f (elemAt w x.b i)) (scaleByte x (i / 8))) x.rm dr).1
             else (convert f d (elemAt w x.b i) x.rm dr).1) % 2 ^ v
        else elemAt v r.res e = elemAt v x.a e) ∧
    (∀ d, f = f32 → fmtOfCode (x.ctl % 256) = some d → fmtIsB8 d = true →
      let scale := fun j => blockScale d ((List.range 8).map fun i => decodeNum f32 (elemAt 32 x.b (8 * j + i)))
      ∃ r, VecGives (.vqnt u m) u s b 5 r ∧
        (x.ctl.testBit 11 = true → r.flags = 0 ∧ ∀ e < 256, elemAt 8 r.res e =
          if 8 * part ≤ e ∧ e < 8 * part + 8 then scale (e - 8 * part) % 256 else elemAt 8 x.a e) ∧
        (x.ctl.testBit 11 = false → ∀ e < 256,
          let i := e - 64 * part
          if 64 * part ≤ e ∧ e < 64 * part + 64 ∧ x.k.getLsbD i = true then
            ∃ dr, elemAt 8 r.res e = (roundNum d (unscale (decodeNum f32 (elemAt 32 x.b i)) (scale (i / 8))) (x.rm ||| 8) dr).1 % 256
          else elemAt 8 r.res e = elemAt 8 x.a e)) ∧
    (∀ g, acceptDot f = true → fmtOfCode (dotB x) = some g → acceptDot g = true → fmtIsB8 g = fmtIsB8 f →
      (x.ctl.testBit 1 = true → fmtIsB8 f = true) →
      let pair := fun e i => (elemAt 8 x.a (8 * e + i), elemAt 8 x.b (8 * e + i))
      ∃ r, VecGives (.vdot8 u m) u s b 5 r ∧ (∀ e, 32 ≤ e → e < 64 → elemAt 32 r.res e = 0) ∧ ∀ e < 32,
        (x.k.getLsbD e = false → elemAt 32 r.res e = elemAt 32 x.c e) ∧
        (x.k.getLsbD e = true → fmtIsB8 f = false → elemAt 32 r.res e =
          (intFit 32 true x.rm (((List.range 8).map fun i => intElem f (pair e i).1 * intElem g (pair e i).2).sum +
            if x.ctl.testBit 0 then intElem (.int 32 true) (elemAt 32 x.c e) else 0)).1 % 2 ^ 32) ∧
        (x.k.getLsbD e = true → fmtIsB8 f = true → ∃ dr,
          let p := (numSum ((List.range 8).map fun i => (numMul (decodeNum f (pair e i).1) (decodeNum g (pair e i).2)).1)).1
          let q := if x.ctl.testBit 1 then scaleBy (scaleBy p (scaleByte x e)) (scaleByte x (32 + e)) else p
          let v := if x.ctl.testBit 0 then (numAdd q (decodeNum f32 (elemAt 32 x.c e))).1 else q
          elemAt 32 r.res e = (roundNum f32 v x.rm dr).1 % 2 ^ 32))

/-- R426, R430: the transcendental operations and VLUT complete for FP32: every enabled element is the function of b's, a
disabled one b's own; a VLUT load takes the table from a and c and writes no result.
(Model's choices it rests on: log entries 28 and 94.) -/
def Obligations.VectorFunctionsWriteResult : Prop :=
  ∀ (s : State) (fl : Flight) (m : Mv) (u : VUnit), s.cur.flight = some fl → fmtOfCode (tyCode (myCore s) u) = some f32 →
    let b := vecIn (tyClass (myCore s) u).1 (tyClass (myCore s) u).2 fl.val
    let x := vecLatch s u b
    let gives := fun i lat (g : Machine.Num → Nat × Flags) =>
      ∃ r, VecGives i u s b lat r ∧ r.gen = x.gen ∧ ∀ e < 64, elemAt 32 r.res e =
        if x.k.getLsbD e then (g (decodeNum f32 (elemAt 32 x.b e))).1 % 2 ^ 32 else elemAt 32 x.b e
    gives (.vexp2 u m) 6 exp2F32 ∧ gives (.vlog2 u m) 6 log2F32 ∧ gives (.vrcp u m) 10 rcpF32 ∧
    gives (.vrsq u m) 10 rsqF32 ∧ gives (.vsig u m) 6 sigF32 ∧
    (let l := vecLut (myCore s) u
     x.ctl.testBit 0 = false → gives (.vlutEval u m) 6 (lutEval l.lo l.hi l.vals)) ∧
    (let loads := fun i => ∃ t, exec i s = .next t ∧ t.agenda = s.agenda ∧
       let l := vecLut (coreOf t (me s)) u
       l.lo.toNat = elemAt 32 x.c 1 ∧ l.hi.toNat = elemAt 32 x.c 2 ∧ l.vals.length = 65 ∧
       (∀ j < 64, (l.vals.getD j 0).toNat = elemAt 32 x.a j) ∧ (l.vals.getD 64 0).toNat = elemAt 32 x.c 0
     x.ctl.testBit 0 = true → loads (.vlutLoad u m) ∧ loads (.vlutEval u m))

/-- R415: a vector trigger whose ty code is reserved takes the format fault: nothing is scheduled, drawn or consumed. -/
def Obligations.ReservedTypeFaults : Prop :=
  ∀ (s : State) (fl : Flight) (m : Mv) (u : VUnit), s.cur.flight = some fl → (myCore s).frozenAt = none →
    fmtOfCode (tyCode (myCore s) u) = none →
    ∀ i ∈ [Instr.vadd u m, .vsub u m, .vmul u m, .vfma u m, .vmin u m, .vmax u m, .vabs u m, .vneg u m, .vand u m, .vor u m,
        .vxor u m, .vshl u m, .vshr u m, .vsra u m, .vclamp u m, .vsel u m, .vcmp u m, .vreda u m, .vredm u m, .vperm u m,
        .vcvt u m, .vqnt u m, .vdot8 u m, .vexp2 u m, .vlog2 u m, .vrcp u m, .vrsq u m, .vsig u m, .vlutEval u m,
        .viota u m, .vkand u m, .vkor u m, .vknot u m, .vkred u m],
      ∃ t, exec i s = .next t ∧ t.agenda = s.agenda ∧ vecGen (coreOf t (me s)) u = vecGen (myCore s) u ∧
        (coreOf t (me s)).kports = (myCore s).kports ∧
        ∃ r ∈ (coreOf t (me s)).raised, r.code = 0x16 ∧ r.a = BitVec.ofNat 64 (tyCode (myCore s) u)

/-- R148 to R154, R402: BRP prepares its entry and reads two bundles; a BR, BRT or CALL to an entry prepared six cycles ago or
earlier, and a RET to an entry that has been top that long, transfers at its arrival where the entry's bundles could be
fetched; CALL pushes the bundle that would have issued, and the new top entry is read ahead as a target buffer is. Registers
and scratch keep their contents. R150, R154: a BR or CALL to an entry prepared fewer than six cycles ago raises
branch-too-soon; a CALL with 16 entries on the link stack and a RET with none raise the link-stack fault. None of them
transfers. (Model's choices it rests on: log entries 25 and 91.) -/
def Obligations.BranchesTransfer : Prop :=
  (∀ (s : State) (fl : Flight) (m : Mv), s.cur.flight = some fl →
     let c := myCore s
     let v := (scalarIn .z fl.val).toNat
     let goes := fun i (target : Nat) (bufs : List (Nat × BitVec 192)) (links : List Link) (js : List Job) =>
       ∃ t, exec i s = .next t ∧ t.agenda = s.agenda ++ js ∧ t.gangs = s.gangs ∧ (∀ k, k ≠ me s → coreOf t k = coreOf s k) ∧
         let d := coreOf t (me s)
         d.pc = target ∧ d.buffered = bufs ∧ d.links = links ∧ d.targets = c.targets ∧ d.scratch = c.scratch ∧ d.s = c.s ∧
           d.v = c.v ∧ d.k = c.k ∧ d.p = c.p ∧ d.ports = c.ports ∧ RaisesOnly [4] c d
     let ready := fun (n : Nat) => 6 ≤ (fl.arrive : Int) - (targetOf c n).prep
     let entry := fun (n : Nat) => (targetOf c n).addr.toNat
     let fetchable := fun (n : Nat) => entry n < 16384 ∧ (targetOf c n).bad = false
     let reads := [ownJob s (fl.arrive + 1) phRead (.deed (.linkRead fl.arrive false)),
       ownJob s (fl.arrive + 2) phRead (.deed (.linkRead fl.arrive true))]
     let bufs := fun (n : Nat) => [(entry n, (targetOf c n).buf0), (entry n + 1, (targetOf c n).buf1)]
     Completes (.brp m) s { c with targets := tset {} c.targets (v % 8) ⟨(portOf c 1).setWidth 32, fl.arrive, 0, 0, false⟩ }
       [ownJob s (fl.arrive + 1) phRead (.deed (.prefetch (Fin.ofNat 8 v) false)),
        ownJob s (fl.arrive + 2) phRead (.deed (.prefetch (Fin.ofNat 8 v) true))] ∧
     (ready (v % 8) → fetchable (v % 8) → goes (.br m) (entry (v % 8)) (bufs (v % 8)) c.links []) ∧
     (let n := (v % 8 + brtSelect c (portOf c 1)) % 8
      ready n → fetchable n → goes (.brt m) (entry n) (bufs n) c.links []) ∧
     (ready (v % 8) → fetchable (v % 8) → c.links.length < 16 →
       goes (.call m) (entry (v % 8)) (bufs (v % 8)) ({ ret := c.pc, since := fl.arrive } :: c.links) reads) ∧
     (∀ top rest, c.links = top :: rest → top.since + 6 ≤ fl.arrive → top.ret < 16384 → top.bad = false →
       goes (.ret m) top.ret [(top.ret, top.buf0), (top.ret + 1, top.buf1)]
         (match rest with
          | [] => []
          | l :: ls => { ret := l.ret, since := fl.arrive } :: ls)
         (if rest = [] then [] else reads))) ∧
  (∀ (s : State) (fl : Flight) (m : Mv), s.cur.flight = some fl → (myCore s).frozenAt = none →
     let c := myCore s
     let n := (scalarIn .z fl.val).toNat % 8
     let since := (fl.arrive : Int) - (targetOf c n).prep
     let raises := fun i (code : Nat) (a b : Word) =>
       ∃ t, exec i s = .next t ∧ (coreOf t (me s)).pc = c.pc ∧ (coreOf t (me s)).links = c.links ∧
         ∃ r ∈ (coreOf t (me s)).raised, r.code = code ∧ r.a = a ∧ r.b = b
     (since < 6 → raises (.br m) 0x0F (BitVec.ofNat 64 n) (BitVec.ofInt 64 since)) ∧
     (since < 6 → raises (.call m) 0x0F (BitVec.ofNat 64 n) (BitVec.ofInt 64 since)) ∧
     (16 ≤ c.links.length → raises (.call m) 0x11 0 1) ∧
     (∀ top rest, c.links = top :: rest → fl.arrive < top.since + 6 →
       raises (.ret m) 0x0F 8 (BitVec.ofInt 64 ((fl.arrive : Int) - top.since))) ∧
     (c.links = [] → raises (.ret m) 0x11 0 2))

/-- R156, R158, R159, R372: LOOP and LOOPP with operands in range start their level at the bundle that issues at the arrival,
or with N = 0 go to E + 1; the end step goes on to the next iteration while one is left and ends the level after the last;
LBRK ends an active level and goes to E + 1, and does nothing to an inactive one.
(Model's choices it rests on: log entries 76, 91 and 97.) -/
def Obligations.LoopEngineCountsIterations : Prop :=
  (∀ (s : State) (fl : Flight) (m : Mv) (n : Fin 4), s.cur.flight = some fl →
    let c := myCore s
    let N := (portOf c 1).toNat
    let E := (portOf c 2).toNat % 2 ^ 32
    let S := (portOf c 3).toNat % 8
    let F := c.pc
    let inRange := N ≤ 2 ^ 32 - 1 ∧ F ≤ E ∧ E ≤ 16383 ∧ (loopOf c n).active = false ∧
      ∀ j < 4, (loopOf c j).active = true → (loopOf c j).depth = c.links.length → (loopOf c j).first ≤ F ∧ E ≤ (loopOf c j).last
    let fetchable := fun (b : Nat) => b < 16384 ∧ b ∉ c.badBundles ∧ b + 1 ∉ c.badBundles
    let starts := fun i (pipe : Bool) (stages total : Nat) =>
      ∃ t, exec i s = .next t ∧ RaisesOnly [4] c (coreOf t (me s)) ∧
        (N ≠ 0 →
          (coreOf t (me s)).pc = F ∧ n.val ∈ (coreOf t (me s)).starts ∧
          (∀ j, j ≠ n.val → loopOf (coreOf t (me s)) j = loopOf c j) ∧
          let l := loopOf (coreOf t (me s)) n
          l.active = true ∧ l.first = F ∧ l.last = E ∧ l.depth = c.links.length ∧ l.iter = 0 ∧ l.total = total ∧
            l.pipe = pipe ∧ l.stages = stages) ∧
        (N = 0 → (coreOf t (me s)).pc = E + 1 ∧ (coreOf t (me s)).loops = c.loops)
    (inRange → (N = 0 → fetchable (E + 1)) → starts (.loop n m) false 1 N) ∧
    (inRange → 1 ≤ S → S ≤ 4 → N + S - 1 ≤ 2 ^ 32 - 1 → (∀ j < 4, (loopOf c j).active = true → (loopOf c j).pipe = false) →
      (N = 0 → fetchable (E + 1)) → starts (.loopp n m) true S (N + S - 1)) ∧
    ((loopOf c n).active = false → Completes (.lbrk n m) s c []) ∧
    ((loopOf c n).active = true → (loopOf c n).exitBad = false → ∃ t, exec (.lbrk n m) s = .next t ∧
      (coreOf t (me s)).pc = (loopOf c n).last + 1 ∧ (loopOf (coreOf t (me s)) n).active = false ∧
      ∀ j < 4, (loopOf c j).active = true → ((loopOf (coreOf t (me s)) j).active = false ↔
        (loopOf c n).order ≤ (loopOf c j).order ∧ (loopOf c j).depth = (loopOf c n).depth))) ∧
  (∀ (s : State) (k : Nat) (n : Fin 4), (coreOf s k).frozenAt = none → (loopOf (coreOf s k) n).active = true →
    let l := loopOf (coreOf s k) n
    ∃ t, exec (.loopEndStep k n) s = .next t ∧ (∀ j, j ≠ k → coreOf t j = coreOf s j) ∧ ScratchSame s t ∧
      (l.iter + 1 < l.total → (loopOf (coreOf t k) n).iter = l.iter + 1 ∧ (loopOf (coreOf t k) n).active = true ∧
        (coreOf t k).pc = l.first) ∧
      (l.total ≤ l.iter + 1 → (loopOf (coreOf t k) n).active = false ∧ (coreOf t k).pc = (coreOf s k).pc))

/-- R31, R34, R35: a WAITT that issues with T not before its arrival defers the next bundle to T; with an earlier T it raises
the slip fault in mode TEARDOWN, and in POISON_TO_RESYNC the next bundle issues at its arrival. At T the core goes on. R35: a
WAITT that arrives late in POISON_TO_RESYNC records the slip and suppresses the core until its RESYNC. (Model's choices it
rests on: log entry 51.) -/
def Obligations.WaittDefers : Prop :=
  ((∀ (s : State) (m : Mv), s.cur.flight = none → streamSource m.src = none → guardOf (myCore s) m.g = true →
     let c := myCore s
     let v := (readSource c m.src (now s) c.curBundle s.cur.slot).1
     let T := (scalarIn .z v).toNat
     let a := now s + moveLatency s.cur.slot m.src 0x028
     ∃ t, exec (.waitt m) s = .next t ∧ flightJob s (.waitt m) m 0x028 v true ∈ t.agenda ∧
       (a ≤ T → (coreOf t (me s)).waits.waitt = some T ∧ ownJob s T phDone (.event (.waittResume (me s))) ∈ t.agenda) ∧
       (T < a → (coreGang s (me s)).poisonMode = true → (coreOf t (me s)).nextIssue = a) ∧
       (T < a → (coreGang s (me s)).poisonMode = false → c.frozenAt = none →
         ∃ r ∈ (coreOf t (me s)).raised, r.code = 0x0D ∧ r.charge = now s)) ∧
   (∀ (s : State) (k T : Nat), (coreOf s k).waits.waitt = some T → T ≤ gcycOf s k →
     ∃ t, exec (.waittResume k) s = .next t ∧ t.agenda = s.agenda ∧ (∀ j, j ≠ k → coreOf t j = coreOf s j) ∧
       coreOf t k = { coreOf s k with waits := { (coreOf s k).waits with waitt := none } })) ∧
  (∀ (s : State) (fl : Flight) (m : Mv), s.cur.flight = some fl → (coreGang s (me s)).poisonMode = true →
     let T := (scalarIn .z fl.val).toNat
     (T < fl.arrive → ∃ t, exec (.waitt m) s = .next t ∧ (coreOf t (me s)).suppress = true ∧
       (coreOf t (me s)).slipInfo ≠ 0 ∧ ScratchSame s t ∧ t.agenda = s.agenda) ∧
     (fl.arrive ≤ T → Completes (.waitt m) s (myCore s) []))

/-- R361, R46, R409, R162: EXIT stops issue, ends every level and empties the link stack, and keeps registers, ports and
streams; BEACON restarts the watchdog count; SPAWN of an idle core of the context starts it 64 cycles later at the bundle in
ct.a with s48 to s55; a level that parks while a drain lasts is marked parked.
(Model's choice it rests on: log entry 76.) -/
def Obligations.CoresStartAndStop : Prop :=
  (∀ (s : State) (fl : Flight) (m : Mv), s.cur.flight = some fl →
    let c := myCore s
    (∃ t, exec (.exit m) s = .next t ∧
      let d := coreOf t (me s)
      d.running = false ∧ d.exitAt = some fl.arrive ∧ d.links = [] ∧ (∀ n < 4, (loopOf d n).active = false) ∧ d.s = c.s ∧
        d.v = c.v ∧ d.k = c.k ∧ d.p = c.p ∧ d.ports = c.ports ∧ d.vports = c.vports ∧ d.streams = c.streams ∧
        d.targets = c.targets ∧ d.cmds = c.cmds ∧ d.recvs = c.recvs ∧ ScratchSame s t) ∧
    Completes (.beacon m) s { c with wdogBase := fl.arrive } [] ∧
    (∀ k', let i := (scalarIn .z fl.val).toNat
      let i := i % 1024
      let b := (portOf c 1).toNat % 2 ^ 32
      canonical s → c.gang ≠ noGang → i < (coreGang s (me s)).cores → coreAt s c.gang i = some k' → k' ≠ me s → b < 16384 →
      (coreOf s k').running = false → (coreOf s k').exitAt ≠ some fl.arrive → (coreOf s k').spawned = none →
      ∃ t, exec (.spawn m) s = .next t ∧
        let d := coreOf t k'
        d.running = true ∧ d.pc = b ∧ d.nextIssue = fl.arrive + 64 ∧ d.wdogBase = fl.arrive + 64 ∧
          d.s = (coreOf s k').s ∧ d.scratch = (coreOf s k').scratch ∧
          t.agenda = s.agenda ++ [⟨.gang (coreOf s k').gang, fl.arrive, phRegister + 1, some k',
            .deed (.spawnRegs ((List.range 8).map fun j => sregOf c (48 + j)))⟩])) ∧
  (∀ (s : State) (k : Nat) (n : Fin 4), (coreGang s k).vote.stage = .armed →
    ∃ t, exec (.drainPark k n) s = .next t ∧ t.agenda = s.agenda ∧ (∀ j, j ≠ k → coreOf t j = coreOf s j) ∧
      coreOf t k = setLoop (coreOf s k) n { loopOf (coreOf s k) n with parked := true })

/-- R36, R37, R245, R401: a RESYNC's arrival makes its core a waiting party and clears what the rules name; when every party of
a gang of this package alone has arrived, the last at L, each waiting core is to go on at the least multiple of FRAMELEN that
is at least L + H, and in that cycle it does, the intervals advancing at its end; a completion from the tree acts the same.
(Model's choices it rests on: log entries 35, 36 and 82.) -/
def Obligations.ResyncCompletesWithAllParties : Prop :=
  (∀ (s : State) (fl : Flight) (m : Mv), s.cur.flight = some fl →
    let c := myCore s
    let x := gangOf s c.gang
    ∃ t, exec (.resync m) s = .next t ∧
      t.agenda = s.agenda ++ [ownJob s fl.arrive phAdvance (.deed .interval),
        ⟨.gang c.gang, fl.arrive, phSync, none, .deed (.resyncCheck c.gang)⟩] ∧
      t.gangs = (setGang s c.gang { x with arrived := x.arrived ++ [me s], latest := max x.latest fl.arrive }).gangs ∧
      (∀ k, k ≠ me s → coreOf t k = coreOf s k) ∧ t.hub = s.hub ∧ RaisesOnly [4] c (coreOf t (me s)) ∧
      coreOf t (me s) = noted { c with waits := { c.waits with resync := some none }, poison := false, suppress := false,
                                        wdogBase := fl.arrive } (coreOf t (me s))) ∧
  (∀ (s : State) (k : Nat), performDeed s k .interval = modCore s k fun c => { c with interval := c.interval + 1 }) ∧
  (∀ (s t : State) (g k R : Nat), canonical s → g ≠ noGang →
    let x := gangOf s g
    let l := (x.children.map (·.2.2) ++ x.idleKids.map (·.2)).foldl max x.latest
    0 < x.framelen → x.framelen ∣ R → l + x.h ≤ R → (∀ R', x.framelen ∣ R' → l + x.h ≤ R' → R ≤ R') →
    x.members = [] → x.arrived ≠ [] →
    (∀ j, (coreOf s j).gang = g → (coreOf s j).running = true → j ∈ x.arrived) →
    t = performDeed s k (.resyncCheck g) →
      ⟨.gang g, R, phDone, none, .event (.resyncResume g)⟩ ∈ t.agenda ∧ (gangOf t g).arrived = [] ∧
      ∀ j, coreOf t j =
        if (coreOf s j).gang = g ∧ (coreOf s j).waits.resync = some none then
          { coreOf s j with waits := { (coreOf s j).waits with resync := some (some R) } } else coreOf s j) ∧
  (∀ (s : State) (g : Nat), canonical s → g ≠ noGang →
    let x := gangOf s g
    let back := fun j => (coreOf s j).gang = g ∧ (coreOf s j).waits.resync = some (some x.gcyc)
    ∃ t dies, exec (.resyncResume g) s = .next t ∧ t.hub = s.hub ∧ t.gangs = s.gangs ∧
      t.agenda = s.agenda ++ [⟨.gang g, x.gcyc, phAdvance, none, .deed (.gangIntervals g dies true true)⟩] ∧
      dies.Nodup ∧ (∀ d, d ∈ dies ↔ ∃ j, back j ∧ j / 128 = d) ∧
      ∀ j, (back j → coreOf t j = { coreOf s j with waits := { (coreOf s j).waits with resync := none } }) ∧
        (¬back j → coreOf t j = coreOf s j)) ∧
  (∀ (s : State) (k g : Nat) (dies : List Nat) (pkg gng : Bool), dies.Nodup →
    let x := gangOf s g
    let t := performDeed s k (.gangIntervals g dies pkg gng)
    t.cores = s.cores ∧ t.agenda = s.agenda ∧ (∀ n, n ≠ g → gangOf t n = gangOf s n) ∧
      (gangOf t g).interval = (if gng then x.interval + 1 else x.interval) ∧
      (gangOf t g).pkgIv = (if pkg then x.pkgIv + 1 else x.pkgIv) ∧
      ∀ d, tget 0 (gangOf t g).dieIv d = if d ∈ dies then tget 0 x.dieIv d + 1 else tget 0 x.dieIv d) ∧
  (∀ (s : State) (g chip count latest : Nat), canonical s → g ≠ noGang →
    (chip ∉ treeChildren s g → count = 0 → ∃ t, exec (.resyncFrame g chip count latest) s = .next t ∧
      ∀ j, coreOf t j =
        if (coreOf s j).gang = g ∧ (coreOf s j).waits.resync = some none then
          { coreOf s j with waits := { (coreOf s j).waits with resync := some (some (resyncCycle (gangOf s g) latest)) } }
        else coreOf s j) ∧
    (chip ∉ treeChildren s g → count ≠ 0 → ∃ t, exec (.resyncFrame g chip count latest) s = .next t ∧ t.cores = s.cores ∧
      (gangOf t g).complete = true) ∧
    (chip ∈ treeChildren s g → (∃ j, (coreOf s j).gang = g ∧ (coreOf s j).running = true ∧ j ∉ (gangOf s g).arrived) →
      ∃ t, exec (.resyncFrame g chip count latest) s = .next t ∧ t.cores = s.cores ∧ t.agenda = s.agenda ∧
        (count ≠ 0 → (gangOf t g).children = (gangOf s g).children ++ [(chip, count, latest)]) ∧
        (count = 0 → (∀ e ∈ (gangOf s g).idleKids, e.1 ≠ chip) → (gangOf t g).idleKids = (gangOf s g).idleKids ++ [(chip, latest)]) ∧
        (count = 0 → (∃ e ∈ (gangOf s g).idleKids, e.1 = chip) → (gangOf t g).overKids = (gangOf s g).overKids ++ [chip])))

/-- R345 to R348, R350: BARINIT and BARRIVE note their events on the object at the cycles the rules give, BARPOLL answers with
the state H cycles ago; the arrival that makes ARRIVED equal EXPECTED completes the generation. R346, R348, R198, R245: when a
generation's completion is effective its waiters go on and its parties' intervals advance; a completion from the tree lets the
waiters go on at latest + H, and a frame with fewer than EXPECTED breaks the barrier.
(Model's choices it rests on: log entries 36 and 95.) -/
def Obligations.BarriersCountArrivals : Prop :=
  ((∀ (s : State) (fl : Flight) (m : Mv), s.cur.flight = some fl →
     let c := myCore s
     let h := (scalarIn .z fl.val).toNat % 64
     let o := 64 * (gangOf s c.gang).coreset + h
     let a := (portOf c 0x3C0).toNat
     (gangOf s c.gang).gcyc ≤ fl.arrive →
     let notes := fun i (cycle kind p q : Nat) =>
       ∃ t, exec i s = .next t ∧ RaisesOnly [4] c (coreOf t (me s)) ∧
         coreOf t (me s) = noted c (coreOf t (me s)) ∧ (∀ k, k ≠ me s → coreOf t k = coreOf s k) ∧ t.gangs = s.gangs ∧
         (∀ o', o' ≠ o → barrierOf t o' = barrierOf s o') ∧
         barrierOf t o = { barrierOf s o with
           events := (barrierOf s o).events ++ [⟨cycle, chipOf s, c.idx, kind, p, q, fl.issue, fl.bundle, fl.slot⟩] } ∧
         ((∀ e ∈ (barrierOf s o).events, e.cycle ≠ cycle) → ⟨.gang c.gang, cycle, phSync, none, .deed (.barrierApply c.gang o)⟩ ∈ t.agenda) ∧
         (∀ j ∈ s.agenda, j ∈ t.agenda)
     (a % 2 ^ 16 ≠ 0 → notes (.barinit m) (fl.arrive + (coreGang s (me s)).h) 0 (a % 2 ^ 16) ((portOf c 0x3C1).toNat % 4)) ∧
     notes (.barrive m) fl.arrive 1 (a % 2) 0 ∧
     notes (.barpoll m) fl.arrive 3 0 0 ∧
     (∀ t, exec (.barpoll m) s = .next t → (coreGang s (me s)).h ≤ fl.arrive →
       resultJob s .sy 2 (BitVec.ofNat 2048 (barWord (barrierAt (barrierOf s o) (fl.arrive - (coreGang s (me s)).h)) % 2 ^ 64)) 0
         ∈ t.agenda)) ∧
   (∀ (b : BarState) (e : BarEvent) (live : List Nat), e.kind = 1 → b.init = true → barKey e ∉ b.arrivals →
     let r := barApply live b e
     (b.expected ≤ b.arrived + 1 → r.1.gen = (b.gen + 1) % 2 ^ 16 ∧ r.1.arrived = 0 ∧ r.1.arrivals = [] ∧
       r.2 = some (b.gen, b.arrivals ++ [barKey e])) ∧
     (b.arrived + 1 < b.expected → r.1.gen = b.gen ∧ r.1.arrived = b.arrived + 1 ∧ r.1.arrivals = b.arrivals ++ [barKey e] ∧
       r.2 = none)) ∧
   (∀ (b : BarState) (e : BarEvent) (live : List Nat), e.kind = 0 →
     barApply live b e = ({ init := true, mode := e.b.testBit 0, scope := e.b.testBit 1, expected := e.a,
                            broken := !e.b.testBit 0 && decide (live.length < e.a) }, none))) ∧
  ((∀ (s : State) (g h gen l : Nat) (ps : List Nat) (sole : Bool), canonical s → g ≠ noGang →
     let o := barrierObject s g h
     let x := (gangOf s g).gcyc
     (barrierOf s o).done.find? (fun d => decide (d.1 = gen)) = some (gen, l, ps, sole) →
     ∃ t dies, exec (.barrierResume g h gen) s = .next t ∧ t.gangs = s.gangs ∧ (∀ j ∈ s.agenda, j ∈ t.agenda) ∧
       (barrierOf t o).done = (barrierOf s o).done.erase (gen, l, ps, sole) ∧
       ⟨.gang g, x, phAdvance, none, .deed (.gangIntervals g dies true false)⟩ ∈ t.agenda ∧
       (∀ key k, key ∈ ps → key / 1024 = chipOf s → coreAt s g (key % 1024) = some k →
         ⟨.gang (coreOf s k).gang, x, phAdvance, some k, .deed .interval⟩ ∈ t.agenda) ∧
       (sole = false ∨ ps = [] → dies = []) ∧
       (∀ i k, sole = true → ps = [chipOf s * 1024 + i] → i < 1024 → coreAt s g i = some k → dies = [k / 128]) ∧
       ∀ j, coreOf t j =
         if (coreOf s j).gang = g then
           { coreOf s j with waits := { (coreOf s j).waits with barriers :=
             ((coreOf s j).waits.barriers.filter fun w => decide (w.handle ≠ h ∨ w.gen ≠ gen)) } }
         else coreOf s j) ∧
   (∀ (s : State) (g h gen : Nat), (∀ e ∈ (barrierOf s (barrierObject s g h)).done, e.1 ≠ gen) →
     exec (.barrierResume g h gen) s = .next s) ∧
   (∀ (s : State) (g h chip count latest : Nat), canonical s → g ≠ noGang → chip ∉ treeChildren s g → h < 64 →
     chipOf s < 4096 →
     let o := barrierObject s g h
     let b := barrierOf s o
     let st := barrierAt b (gangOf s g).gcyc
     (latest ∈ b.ended → ∃ t, exec (.barrier g h chip count latest) s = .next t ∧ t.cores = s.cores ∧ t.gangs = s.gangs ∧
       barrierOf t o = b) ∧
     (latest ∉ b.ended → latest < (gangOf s g).gcyc → (∀ e ∈ b.events, e.cycle < latest) → (∀ p ∈ b.states, p.1 < latest) →
       (∀ k, (coreOf s k).gang = g → ∀ w ∈ (coreOf s k).waits.barriers, w.handle = h → w.resume = none) →
       (st.expected ≤ count → ∃ t, exec (.barrier g h chip count latest) s = .next t ∧
         ⟨.gang g, latest + (gangOf s g).h, phDone, none, .event (.barrierResume g h st.gen)⟩ ∈ t.agenda ∧
         ∀ j, coreOf t j =
           if (coreOf s j).gang = g then
             { coreOf s j with waits := { (coreOf s j).waits with barriers := ((coreOf s j).waits.barriers.map fun w =>
               if w.handle = h ∧ w.gen = st.gen then { w with resume := some (latest + (gangOf s g).h) } else w) } }
           else coreOf s j) ∧
       (count < st.expected → st.arrived < st.expected → ∃ t, exec (.barrier g h chip count latest) s = .next t ∧
         (∀ j, coreOf t j = coreOf s j) ∧ (barrierAt (barrierOf t o) latest).broken = true))) ∧
   (∀ (s : State) (g h chip count latest : Nat), chip ∈ treeChildren s g →
     let b := barrierOf s (barrierObject s g h)
     ((∃ l ∈ b.ended, latest ≤ l) → exec (.barrier g h chip count latest) s = .next s) ∧
     ((∀ l ∈ b.ended, l < latest) → (barrierAt b (gangOf s g).gcyc).init = false →
       ∃ t, exec (.barrier g h chip count latest) s = .next t ∧ t.cores = s.cores ∧ t.agenda = s.agenda ∧
         (barrierOf t (barrierObject s g h)).children = b.children ++ [(chip, count, latest)])))

/-- R355, R356, R136, R145: CSRR of a register the map lists samples it a cycle later, and its value is then scheduled for
sy.r; CSRW of a register that can be written changes it; a number of neither kind is a privilege fault. -/
def Obligations.ControlRegistersReadAndWrite : Prop :=
  (∀ (s : State) (fl : Flight) (m : Mv), s.cur.flight = some fl →
    let c := myCore s
    let n := (scalarIn .z fl.val).toNat % 4096
    (csrRead s (me s) n ≠ none → Completes (.csrr m) s c [ownJob s (fl.arrive + 1) phSample (.deed (.csrr n))]) ∧
    (csrWritable n = true → Completes (.csrw m) s c
      [ownJob s (fl.arrive + 1) (if n = 0x021 then phSample + 1 else phEnd) (.deed (.csrw n (portOf c 0x3C0)))]) ∧
    (c.frozenAt = none → (csrRead s (me s) n = none → ∃ t, exec (.csrr m) s = .next t ∧ t.agenda = s.agenda ∧
        ∃ r ∈ (coreOf t (me s)).raised, r.code = 0x1D ∧ r.a = BitVec.ofNat 64 n) ∧
      (csrWritable n = false → ∃ t, exec (.csrw m) s = .next t ∧ t.agenda = s.agenda ∧
        ∃ r ∈ (coreOf t (me s)).raised, r.code = 0x1D ∧ r.a = BitVec.ofNat 64 n))) ∧
  (∀ (s : State) (k n v : Nat), csrRead s k n = some v →
    let t := performDeed s k (.csrr n)
    t.cores = s.cores ∧ t.gangs = s.gangs ∧ t.agenda = s.agenda ++
      [⟨.gang (coreOf s k).gang, gcycOf s k + 1, phDone, some k, .event (.operationComplete k .sy (BitVec.ofNat 2048 v) 0)⟩]) ∧
  (∀ (s : State) (k : Nat), let c := coreOf s k; let x := coreGang s k
    csrRead s k 0x001 = some (x.ctx % 4096) ∧ csrRead s k 0x002 = some (c.idx % 1024) ∧
    csrRead s k 0x010 = some (x.gcyc % 2 ^ 64) ∧ csrRead s k 0x011 = some (s.pod % 2 ^ 64) ∧
    csrRead s k 0x021 = some c.flags.toNat ∧ csrRead s k 0x097 = some c.fault.cyc.toNat ∧ csrRead s k 0x004 = none) ∧
  (∀ (s : State) (k n : Nat) (v : Word), let c := coreOf s k; let d := coreOf (performDeed s k (.csrw n v)) k
    (n = 0x021 → d = { c with flags := c.flags &&& ~~~(v.setWidth 6) }) ∧
    (n = 0x003 → d = { c with polver := v.setWidth 16 }) ∧
    (n = 0x082 → d = { c with nopreempt := v.getLsbD 0 }) ∧
    (n = 0x020 → d.seed = v.setWidth 32 ∧ d.genVA ≠ 0 ∧ d.genVB ≠ 0 ∧ d.genSQ ≠ 0 ∧ d.genMX ≠ 0) ∧
    (csrWritable n = false → d = c))

/-- R412, R437, R196, R195, R62: TRAP raises the software trap with its value, WPT writes the two registers of its watchpoint
at the end of the next cycle and INTV advances the interval there, once that cycle's accesses have been checked, FENCE performs
after max(H, 512) cycles; a fence that performs makes the core's earlier posted host writes visible and has the intervals
advance; a completion makes its result present. (Model's choice it rests on: log entry 9.) -/
def Obligations.SystemTriggersTakeEffect : Prop :=
  (∀ (s : State) (fl : Flight) (m : Mv), s.cur.flight = some fl →
    let c := myCore s
    let z := scalarIn .z fl.val
    let w := z.toNat % 4
    (c.frozenAt = none → ∃ t, exec (.trap m) s = .next t ∧ t.agenda = s.agenda ∧ (∀ k, k ≠ me s → coreOf t k = coreOf s k) ∧
      ∃ r ∈ (coreOf t (me s)).raised, r.code = 0x1E ∧ r.charge = fl.issue ∧ r.bundle = fl.bundle ∧ r.a = z) ∧
    Completes (.wpt m) s c [ownJob s (fl.arrive + 1) phEnd (.deed (.csrw (0x0A0 + w) (portOf c 0x3C0))),
      ownJob s (fl.arrive + 1) phEnd (.deed (.csrw (0x0A4 + w) (portOf c 0x3C1)))] ∧
    Completes (.intv m) s c [ownJob s (fl.arrive + 1) phAdvance (.deed .interval)] ∧
    Completes (.fence m) s c [ownJob s (fl.arrive + max (coreGang s (me s)).h 512) phHub
      (.event (.fencePerform (me s) (z.setWidth 3)))]) ∧
  (∀ (s : State) (k : Nat) (scope : BitVec 3), let g := (coreOf s k).gang
    ∃ t, exec (.fencePerform k scope) s = .next t ∧ t.cores = s.cores ∧ t.gangs = s.gangs ∧
      (authOf t).posted = (authOf s).posted.filter (fun w => !(scope.getLsbD 0 &&
        decide (w.core = k ∧ w.readAt < gcycOf s k - max (coreGang s k).h 512))) ∧
      t.agenda = s.agenda ++ (if scope.getLsbD 2 then [⟨.gang g, gcycOf s k, phAdvance, none, .deed (.pkgInterval g)⟩] else []) ++
        [⟨.gang g, gcycOf s k, phAdvance, some k, .deed .interval⟩]) ∧
  (∀ (s : State) (k g : Nat), performDeed s k (.pkgInterval g) = setGang s g { gangOf s g with pkgIv := (gangOf s g).pkgIv + 1 }) ∧
  (∀ (s : State) (k : Nat) (p : ResultPort) (v : Vec) (f : Flags),
    ∃ t, exec (.operationComplete k p v f) s = .next t ∧ t.agenda = s.agenda ∧ t.hub = s.hub ∧
      (∀ j, j ≠ k → coreOf t j = coreOf s j) ∧
      let c := coreOf s k; let d := coreOf t k
      d.flags = c.flags ||| f ∧ d.s = c.s ∧ d.v = c.v ∧ d.scratch = c.scratch ∧ d.ports = c.ports ∧
      (isVecPort p = false → resultOf d p = v.setWidth 64 ∧ ∀ q, resId q ≠ resId p → resultOf d q = resultOf c q) ∧
      (isVecPort p = true → vresOf d p = v ∧ ∀ q, resId q ≠ resId p → vresOf d q = vresOf c q)) ∧
  (∀ (s : State) (k : Nat), performDeed s k .interval = setCore s k { coreOf s k with interval := (coreOf s k).interval + 1 }) ∧
  decodeTableWord 24 0x0803DD = some (.intv ⟨⟨false, 0⟩, .short 0⟩)

/-- R412, R437, R196, R195, R62, R36, R245: TRAP, WPT, INTV, FENCE and RESYNC complete at their arrival, whatever their operand;
a fence that performs, a result that comes present, a RESYNC's resume and a RESYNC frame of another member complete too. -/
def Obligations.SystemStepsComplete : Prop :=
  (∀ (s : State) (fl : Flight) (m : Mv), s.cur.flight = some fl →
    let c := myCore s
    let z := scalarIn .z fl.val
    let answers := fun i (js : List Job) => ∃ t, exec i s = .next t ∧ t.agenda = s.agenda ++ js ∧
      (∀ k, k ≠ me s → coreOf t k = coreOf s k) ∧ t.hub = s.hub ∧ ScratchSame s t
    answers (.trap m) [] ∧
    (c.frozenAt = none → ∀ t, exec (.trap m) s = .next t → ∃ r ∈ (coreOf t (me s)).raised, r.code = 0x1E ∧ r.a = z) ∧
    answers (.wpt m) [ownJob s (fl.arrive + 1) phEnd (.deed (.csrw (0x0A0 + z.toNat % 4) (portOf c 0x3C0))),
      ownJob s (fl.arrive + 1) phEnd (.deed (.csrw (0x0A4 + z.toNat % 4) (portOf c 0x3C1)))] ∧
    answers (.intv m) [ownJob s (fl.arrive + 1) phAdvance (.deed .interval)] ∧
    answers (.fence m) [ownJob s (fl.arrive + max (coreGang s (me s)).h 512) phHub
      (.event (.fencePerform (me s) (z.setWidth 3)))] ∧
    answers (.resync m) [ownJob s fl.arrive phAdvance (.deed .interval),
      ⟨.gang c.gang, fl.arrive, phSync, none, .deed (.resyncCheck c.gang)⟩] ∧
    ∀ t, exec (.resync m) s = .next t →
      (coreOf t (me s)).waits.resync = some none ∧ (coreOf t (me s)).poison = false ∧ me s ∈ (gangOf t c.gang).arrived) ∧
  (∀ (s : State) (k : Nat) (scope : BitVec 3), ∃ t, exec (.fencePerform k scope) s = .next t ∧ t.cores = s.cores ∧
    ⟨.gang (coreOf s k).gang, gcycOf s k, phAdvance, some k, .deed .interval⟩ ∈ t.agenda) ∧
  (∀ (s : State) (k : Nat) (p : ResultPort) (v : Vec) (f : Flags), ∃ t, exec (.operationComplete k p v f) s = .next t ∧
    (coreOf t k).flags = (coreOf s k).flags ||| f ∧
    if isVecPort p then vresOf (coreOf t k) p = v else resultOf (coreOf t k) p = v.setWidth 64) ∧
  (∀ (s : State) (g : Nat), canonical s → g ≠ noGang → ∃ t, exec (.resyncResume g) s = .next t ∧
    ∀ k, (coreOf s k).gang = g → (coreOf s k).waits.resync = some (some (gangOf s g).gcyc) → (coreOf t k).waits.resync = none) ∧
  (∀ (s : State) (g chip count latest : Nat), canonical s → g ≠ noGang → ∃ t,
    exec (.resyncFrame g chip count latest) s = .next t ∧
    (chip ∉ treeChildren s g → count = 0 → ∀ k, (coreOf s k).gang = g → (coreOf s k).waits.resync = some none →
      ∃ R, (coreOf t k).waits.resync = some (some R) ∧ (gangOf s g).framelen ∣ R ∧
        (0 < (gangOf s g).framelen → latest + (gangOf s g).h ≤ R)))

/-- R84, R403 to R406: SCFG takes the stream sq.id names from the operand ports, SSEEK moves its base, SSKIP its position, STAG
sets its expected tag, SCLOSE closes it; sq.r answers a cycle later; the last three but SCLOSE, and SSEEK, need an open stream.
-/
def Obligations.StreamControlConfiguresStreams : Prop :=
  ∀ (s : State) (fl : Flight) (m : Mv), s.cur.flight = some fl →
    let c := myCore s
    let n := (portOf c 0x280).toNat % 16
    let q := streamOf c n
    let z := (scalarIn .z fl.val).toNat
    let answer := fun (q : Stream) => resultJob s .sq 1 ((BitVec.ofNat 64 (q.pos % 2 ^ 48 +
      (if q.mode = .opened then 2 ^ 48 else 0) + (if q.fmt.getLsbD 25 then 2 ^ 49 else 0))).setWidth 2048) 0
    let stamps := q.tile ≠ none ∧ q.mode = .opened ∧ q.fmt.getLsbD 25 = true ∧ q.entry = false ∧ q.fmt.toNat / 2 ^ 21 % 4 ≠ 0
    let gives := fun i (new : Stream) =>
      (¬stamps → Completes i s { c with streams := tset {} c.streams n new } [answer new]) ∧
      (∀ tile, q.tile = some tile → stamps →
        ∃ t, exec i s = .next t ∧ RaisesOnly [4, 5] c (coreOf t (me s)) ∧
          OwnStep s t (noted { c with streams := tset {} c.streams n new, stamps := (coreOf t (me s)).stamps } (coreOf t (me s)))
            [ownJob s (fl.arrive + 2) phStamp (.deed (.stampPush tile q.exp)), answer new])
    (∀ new, new = scfgStream c q → scfgBad new = false → gives (.scfg m) new ∧
      new.mode = .opened ∧ new.base = (portOf c 0x281).toNat % 2 ^ 22 ∧ new.shape0 = portOf c 0x282 ∧ new.fmt = portOf c 0x285 ∧
      new.pos = 0 ∧ new.entry = true) ∧
    (q.mode = .opened → gives (.sseek m)
      { q with
        base := z % 2 ^ 22, pos := 0, entry := true, entered := false, tile := none, gen := q.gen + 1, sets := q.sets + 1 }) ∧
    (q.mode = .opened → Completes (.sskip m) s
      { c with streams := tset {} c.streams n { q with pos := min (q.pos + z) (strTotal q), gen := q.gen + 1 } }
      [answer { q with pos := min (q.pos + z) (strTotal q) }]) ∧
    (q.mode = .opened → z % 2 ^ 16 ≠ 0xFFFF → gives (.stag m)
      { q with exp := BitVec.ofNat 16 z, entry := true, entered := false, tile := none, gen := q.gen + 1 }) ∧
    gives (.sclose m) { q with mode := .closed, tile := none, gen := q.gen + 1 } ∧
    (q.mode ≠ .opened → c.frozenAt = none → ∀ i ∈ [Instr.sseek m, .sskip m, .stag m], ∃ t, exec i s = .next t ∧
      t.agenda = s.agenda ∧ (coreOf t (me s)).streams = c.streams ∧
      ∃ r ∈ (coreOf t (me s)).raised, r.code = 7 ∧ r.a = BitVec.ofNat 64 n ∧ r.b = 3)

/-- R85 to R88: a push to an open push stream with an item left, its addresses in place, is written two cycles after its
arrival, and the position advances; unconverted elements are written as taken, little-endian. The read that serves a bundle's
pops, four cycles before its issue, takes the item at the position, and a pop advances it; a push past the end overruns.
(Model's choices it rests on: log entries 24 and 34.) -/
def Obligations.StreamItemsPopAndPush : Prop :=
  (∀ (s : State) (fl : Flight) (m : Mv) (q : Fin 16), s.cur.flight = some fl →
    let c := myCore s
    let st := streamOf c q
    let pl := planOwn st true
    (st.mode = .opened → strPush st = true → st.pos < strTotal st → pl.badAddr = none → (∀ e ∈ c.mx.epis, e.out ≠ q) →
      strScaled st = false →
      ∃ t, exec (.push q m) s = .next t ∧ (∀ k, k ≠ me s → coreOf t k = coreOf s k) ∧ t.gangs = s.gangs ∧
        let d := coreOf t (me s)
        (∀ j, streamOf d j = if j = q.val then advance st pl true else streamOf c j) ∧ (streamOf d q).pos = st.pos + 1 ∧
        d.scratch = c.scratch ∧ d.s = c.s ∧ d.v = c.v ∧ d.k = c.k ∧ d.p = c.p ∧ d.ports = c.ports ∧
        RaisesOnly [4, 5, 0x0A] c d ∧
        ∃ bs, ownJob s (fl.arrive + 2) phWrite (.deed (.store ⟨pl.addr, bs, 1, agentId 1 c.idx, c.idx, 0⟩)) ∈ t.agenda ∧
          bs.length = strBytes st ∧ (pl.addr : Int) = itemAddr st st.pos ∧
          (strMem st = strReg st →
            bs = leBytes (strBytes st) (packNat (fmtWidth (fmtOf (strMem st))) (pushElems st fl.val)))) ∧
    (st.mode = .opened → strPush st = true → strTotal st ≤ st.pos → (∀ e ∈ c.mx.epis, e.out ≠ q) → c.frozenAt = none →
      ∃ t, exec (.push q m) s = .next t ∧ t.agenda = s.agenda ∧
        ∃ r ∈ (coreOf t (me s)).raised, r.code = 7 ∧ r.a = BitVec.ofNat 64 q.val ∧ r.b = 1)) ∧
  (∀ (s : State) (k b : Nat) (q : Fin 16),
    let c := coreOf s k
    let x := gcycOf s k
    let st := streamOf c q
    let pl := planOwn st false
    let ms := plannedMoves s k q b x
    let slot := (ms.head?.map (·.1)).getD 0
    let item := popConvert st (scratchBytes c pl.addr pl.n) (scratchBytes c pl.saddr pl.sn) c.genSQ
    (∀ i, i ≠ x + 4 → exec (.streamPopRead k q i b) s = .next s) ∧
    (ms.any (fun m => m.2.2) = true → isVoided c x pl.addr pl.n = false →
      (strScaled st = true → isVoided c x pl.saddr pl.sn = false) → popClashes c pl x (x + 4) b slot ++ popFaults c q st pl x (x + 4) b slot = [] →
      ∃ t, exec (.streamPopRead k q (x + 4) b) s = .next t ∧ t.agenda = s.agenda ∧
        (∀ j, streamOf (coreOf t k) j = if j = q.val then advance st pl (ms.any fun m => m.2.1 && m.2.2) else streamOf c j) ∧
        (coreOf t k).scratch = c.scratch ∧
        (coreOf t k).fetched = c.fetched ++ ms.map fun m => ⟨q, x + 4, b, m.1, m.2.2, m.2.1, popValue st item.1, st, []⟩) ∧
    (strMem st = strReg st → strScaled st = false →
      item.1 = elems (fmtWidth (fmtOf (strMem st))) (strElems st) (leNat (scratchBytes c pl.addr pl.n))))

/-- R164, R165, R168, R391, R395: MCALL of a routine inside the store by an idle unit starts the microsequencer, a busy unit
takes the fault; MUWR writes a microword or routine entry, MLUT reads its table, MZERO zeroes its tile and row pointer.
(Model's choices it rests on: log entry 31.) -/
def Obligations.MatrixTriggersTakeEffect : Prop :=
  (∀ (s : State) (fl : Flight) (m : Mv), s.cur.flight = some fl →
    let c := myCore s
    let z := scalarIn .z fl.val
    let i := z.toNat % 256
    let e := (tget 0 c.mx.routines i).toNat
    let p := (portOf c 0x200).toNat
    let a := z.toNat % 2 ^ 22
    let w := if p.testBit 15 then Deed.muwr true (p % 256) z else .muwr false (p % 4096) z
    (c.mx.busy = false → e / 65536 % 8192 ≠ 0 → e % 4096 + e / 65536 % 8192 ≤ 4096 →
      Completes (.mcall m) s { c with mx := { c.mx with
          busy := true, pc := e % 4096, start := e % 4096, length := e / 65536 % 8192, routine := i
          lc0 := {}, lc1 := {}, bindA := none, staged := none, active := none } }
        [ownJob s (fl.arrive + 1) phMicro (.deed .micro)]) ∧
    (c.mx.busy = true → c.frozenAt = none → ∃ t, exec (.mcall m) s = .next t ∧ (coreOf t (me s)).mx = c.mx ∧
      t.agenda = s.agenda ∧ ∃ r ∈ (coreOf t (me s)).raised, r.code = 0x13) ∧
    Completes (.muwr m) s c [ownJob s (fl.arrive + 1) phEnd (.deed w)] ∧
    Completes (.muwrRoutineEntry m) s c [ownJob s (fl.arrive + 1) phEnd (.deed w)] ∧
    (a % 32 = 0 → a / 2 ^ 20 = (a + 271) / 2 ^ 20 → BankStarts (.mlut m) s (fl.arrive + 1) phRead (.mlutRead a)) ∧
    (updatesTile s (me s) (z.toNat % 8) (fl.arrive + 1) = false → ∃ zs, Completes (.mzero m) s
      { c with mx := { c.mx with zeros := zs } } [ownJob s (fl.arrive + 1) phEnd (.deed (.mzero (z.toNat % 8)))])) ∧
  (∀ (s : State) (k i j : Nat) (w : Word), let c := coreOf s k
    let d := fun e => coreOf (performDeed s k (.muwr e i w)) k
    (tget 0 (d false).mx.store j = if j = i then w else tget 0 c.mx.store j) ∧ (d false).mx.routines = c.mx.routines ∧
    (tget 0 (d true).mx.routines j = if j = i then w.setWidth 32 &&& 0x1FFF0FFF else tget 0 c.mx.routines j) ∧
    (d true).mx.store = c.mx.store) ∧
  (∀ (s : State) (k n t i j : Nat), i < 128 → j < 64 → let c := coreOf s k; let d := coreOf (performDeed s k (.mzero n)) k
    accOf d t i j = (if t = n then 0 else accOf c t i j) ∧ rowPtrOf d t = (if t = n then 0 else rowPtrOf c t) ∧
      d.scratch = c.scratch)

/-- R169 to R172, R393: a micro-operation executes in its cycle, and the microword at the next address, or at the first of a
loop body with iterations left, executes in the cycle after its last; a MIDLE of N cycles ends in its N-th; MLOOP starts its
counter or, with a count of 0, passes over the body; MEND ends the call and answers with m0. -/
def Obligations.MicroOpsTakeEffect : Prop :=
  (∀ (s : State) (d : Fin 16) (n : Fin 8) (imm : BitVec 48) (t : BitVec 20),
    let c := myCore s
    let pc := c.mx.pc
    let goes := fun i (mx : Mx) (next cycles : Nat) => ∃ u, exec i s = .next u ∧
      OwnStep s u { c with mx := { (microEnd mx pc).1 with pc := (microEnd mx pc).2.getD next } }
        [ownJob s (now s + cycles) phMicro (.deed .micro)]
    let sets := fun i (w : Word) => goes i { c.mx with regs := tset 0 c.mx.regs d.val w } (pc + 1) 1
    goes .mnop c.mx (pc + 1) 1 ∧
    sets (.msetImm d imm) (imm.signExtend 64) ∧
    sets (.msetMp d n) (portOf c (0x200 + n.val)) ∧
    sets (.msetAdd d imm) (mregOf c d.val + imm.signExtend 64) ∧
    (t.toNat ≤ 1 → goes (.midle t) c.mx (pc + 1) 1) ∧
    (1 < t.toNat → ∃ u, exec (.midle t) s = .next u ∧ OwnStep s u { c with mx := { c.mx with idle := t.toNat - 1 } }
      [ownJob s (now s + 1) phMicro (.deed .micro)]) ∧
    (let u := performDeed s (me s) .micro
     (c.mx.busy = true → 1 < c.mx.idle → OwnStep s u { c with mx := { c.mx with idle := c.mx.idle - 1 } }
       [ownJob s (now s + 1) phMicro (.deed .micro)]) ∧
     (c.mx.busy = true → c.mx.idle = 1 → let r := microEnd { c.mx with idle := 0 } pc
       OwnStep s u { c with mx := { r.1 with pc := r.2.getD (pc + 1) } } [ownJob s (now s + 1) phMicro (.deed .micro)])) ∧
    (∃ u, exec .mend s = .next u ∧ OwnStep s u { c with mx := { c.mx with busy := false } }
      [ownJob s (now s + 1) phDone (.event (.operationComplete (me s) .mx ((mregOf c 0).setWidth 2048) 0))]) ∧
    (∀ (cm : Bool) (cr : Fin 16) (last : BitVec 12) (count : BitVec 32),
      let x := c.mx
      let k := if cm then (mregOf c cr.val).toNat else count.toNat
      let e := last.toNat
      let ok := fun (own other : MicroLoop) => k ≤ 2 ^ 32 - 1 ∧ own.active = false ∧ pc < e ∧ x.start ≤ e ∧
        e < x.start + x.length ∧ (other.active = true → e ≤ other.last)
      (ok x.lc0 x.lc1 → k ≠ 0 → goes (.mloop 0 cm cr last count) { x with lc0 := ⟨true, pc + 1, e, k, x.lc1.order + 1⟩ } (pc + 1) 1) ∧
      (ok x.lc1 x.lc0 → k ≠ 0 → goes (.mloop 1 cm cr last count) { x with lc1 := ⟨true, pc + 1, e, k, x.lc0.order + 1⟩ } (pc + 1) 1) ∧
      (ok x.lc0 x.lc1 → k = 0 → goes (.mloop 0 cm cr last count) x (e + 1) 1) ∧
      (¬ok x.lc0 x.lc1 → c.frozenAt = none → ∃ u, exec (.mloop 0 cm cr last count) s = .next u ∧ u.agenda = s.agenda ∧
        ∃ r ∈ (coreOf u (me s)).raised, r.code = 0x15 ∧ r.a = BitVec.ofNat 64 pc ∧ r.b = 3 ∧
          r.c = BitVec.ofNat 64 x.routine))) ∧
  (∀ (m : Mx) (pc : Nat),
    ((m.lc0.active = true → m.lc0.last ≠ pc) → (m.lc1.active = true → m.lc1.last ≠ pc) → microEnd m pc = (m, none)) ∧
    (m.lc0.active = true → m.lc0.last = pc → (m.lc1.active = true → m.lc1.last ≠ pc ∧ m.lc1.order < m.lc0.order) →
      (1 < m.lc0.left → microEnd m pc = ({ m with lc0 := { m.lc0 with left := m.lc0.left - 1 } }, some m.lc0.body)) ∧
      (m.lc0.left ≤ 1 → microEnd m pc = ({ m with lc0 := { m.lc0 with active := false, left := 0 } }, none))))

/-- R165, R173, R176 to R179, R386, R388, R389, R392: a matrix micro-operation whose streams fit their roles starts its work
and the microsequencer goes on: MZACC zeroes its tile, MLDA binds, MLDB stages a block, MMAC and MMACS start a step with its
eight reads and updates, MEPI an epilogue; with no A bound a step is a microprogram fault. (Model's choices it rests on: log
entries 30 and 32.) -/
def Obligations.MatrixStepsAccumulate : Prop :=
  ∀ (s : State) (t q r : Sel) (cls : BitVec 2) (e : MepiFields),
    let c := myCore s
    let x := now s
    let after := fun (mx : Mx) => { (microEnd mx c.mx.pc).1 with pc := (microEnd mx c.mx.pc).2.getD (c.mx.pc + 1) }
    let goes := fun i (mx : Mx) (js : List Job) => ∃ u, exec i s = .next u ∧ coreOf u (me s) = { c with mx := after mx } ∧
      (∀ k, k ≠ me s → coreOf u k = coreOf s k) ∧ u.gangs = s.gangs ∧ u.hub = s.hub ∧ (∀ j ∈ s.agenda, j ∈ u.agenda) ∧
      ownJob s (x + 1) phMicro (.deed .micro) ∈ u.agenda ∧ ∀ j ∈ js, j ∈ u.agenda
    let sel := fun q => match q with
      | Sel.direct n => n.val
      | .indirect m => (tget 0 c.mx.regs m.val).toNat % 16
    let n := sel q
    let nt := sel t % 8
    (updatesTile s (me s) nt (x + 1) = false → (x + 1, nt, true) ∉ c.mx.zeros →
      goes (.mzacc t) c.mx [ownJob s (x + 1) phEnd (.deed (.mzero nt))]) ∧
    (cls ≠ 3 → roleFault .a n (streamOf c n) = [] → goes (.mlda q cls) { c.mx with bindA := some (n, cls.toNat) } []) ∧
    (cls ≠ 3 → roleFault .b n (streamOf c n) = [] → (cls ≠ 0 → roleFault .routing (sel r) (streamOf c (sel r)) = []) →
      (∀ a, c.mx.bindA = some a → groupOf (streamOf c a.1).base ≠ groupOf (streamOf c n).base) →
      goes (.mldb q r cls) { c.mx with staged := some ⟨cls.toNat, strMem (streamOf c n), n, x + 3, 0, [], [], []⟩ }
        [ownJob s (x + 1) phRead (.deed (.mxReadB (x + 3) n (sel r) cls.toNat))]) ∧
    (let starts := fun i (sparse : Bool) => ∀ (qa k : Nat) (b : BBlock),
      c.mx.bindA = some (qa, k) → blockAt c.mx x = some b → b.cls = k → sparse = decide (k ≠ 0) → arrayBusy c.mx x = false → roleFault .a qa (streamOf c qa) = [] →
      let fa := strMem (streamOf c qa)
      let wide := arrayClass (fmtOf fa) = 2
      arrayClass (fmtOf fa) = arrayClass (fmtOf b.fmt) → (wide → sparse = false) →
      groupOf (streamOf c qa).base ≠ groupOf (streamOf c b.src).base →
      goes i
        { c.mx with active := some b, staged := none, steps := c.mx.steps ++ [⟨x, nt, k, fa, qa, b, []⟩],
                    lastStep := some (x, if wide then 32 else 8) }
        ((List.range 8).flatMap fun g =>
          [ownJob s (if wide then x + 1 + 4 * g else x + 1 + g) phRead (.deed (.mxReadA x g)),
           ownJob s (if wide then x + 11 + 4 * g else x + 8 + g) phWrite (.event (.matrixGroupUpdate (me s) x g))])
     starts (.mmac t) false ∧ starts (.mmacs t) true) ∧
    (c.mx.bindA = none → arrayBusy c.mx x = false → blockAt c.mx x ≠ none → c.frozenAt = none → ∀ i ∈ [Instr.mmac t, .mmacs t], ∃ u, exec i s = .next u ∧ u.agenda = s.agenda ∧
      ∃ r ∈ (coreOf u (me s)).raised, r.code = 0x15 ∧ r.a = BitVec.ofNat 64 c.mx.pc ∧ r.b = 9) ∧
    ((∀ l, c.mx.lastEpi = some l → l + 128 ≤ x) → roleFault .out (sel e.o) (streamOf c (sel e.o)) = [] →
      (e.bias = true → roleFault .bias (sel e.b) (streamOf c (sel e.b)) = []) →
      ∃ es, (⟨x, sel e.t % 8, sel e.o, e, sel e.b, []⟩ : Epilogue) ∈ es ∧
        goes (.mepi e) { c.mx with lastEpi := some x, epis := es }
          [ownJob s (x + 2) phRead (.event (.epilogueRow (me s) x 0))])

/-- R178, R180: the update of a row group adds its k-blocks to the 1,024 elements of the group's 16 rows and to no other, and
the last group ends the step; an epilogue row is pushed in the next cycle, as it stands in the tile where the epilogue names no
transformation, and the next row follows. -/
def Obligations.GroupUpdateChangesItsAccumulators : Prop :=
  (∀ (s : State) (k start g : Nat) (p : MxStep) (as sc : List Nat), let c := coreOf s k
    c.mx.steps.find? (fun p => decide (p.start = start)) = some p →
    p.items.find? (fun it => decide (it.1 = g)) = some (g, as, sc) →
    ∃ t, exec (.matrixGroupUpdate k start g) s = .next t ∧ t.agenda = s.agenda ∧ (∀ j, j ≠ k → coreOf t j = coreOf s j) ∧
      let d := coreOf t k
      d.s = c.s ∧ d.scratch = c.scratch ∧ d.p = c.p ∧
      (∀ n < 1024, accOf d p.tile (16 * g + n / 64) (n % 64) = BitVec.ofNat 32
        (addBlocks p (fmtOf p.fmtA) (fmtOf p.b.fmt) (8 * blocksOf p.cls) (n / 64) (n % 64) as sc
          (accOf c p.tile (16 * g + n / 64) (n % 64)).toNat).1) ∧
      (∀ u i j, i < 128 → j < 64 → g < 8 → (u ≠ p.tile ∨ i / 16 ≠ g) → accOf d u i j = accOf c u i j) ∧
      d.mx.steps = if g = 7 then c.mx.steps.filter (fun q => q.start != start) else c.mx.steps) ∧
  (∀ (s : State) (k start r : Nat) (e : Epilogue), let c := coreOf s k
    c.mx.epis.find? (fun e => decide (e.start = start)) = some e →
    ∃ t xs, exec (.epilogueRow k start r) s = .next t ∧ xs.length = 64 ∧ (∀ j, j ≠ k → coreOf t j = coreOf s j) ∧
      (coreOf t k).mx.acc = c.mx.acc ∧ (coreOf t k).s = c.s ∧
      t.agenda = s.agenda ++
        [⟨.gang c.gang, gcycOf s k + 1, phStream e.out, some k, .deed (.mxPush e.out xs)⟩] ++
        (if r < 127 then [⟨.gang c.gang, gcycOf s k + 1, phRead, some k, .event (.epilogueRow k start (r + 1))⟩] else []) ∧
      (e.fields.intacc = false → e.fields.bias = false → e.fields.act = false → e.fields.req = false →
        xs = (List.range 64).map fun j => (accOf c e.tile (r % 128) j).toNat))

/-- R187, R207 to R213, R357: a DCOPY of at least one unit whose span, entry, claims, start and command timeline pass the
checks is accepted: each unit falls at the DRAM and the scratch cycle of its column, and c0.r answers with the last one's.
R187, R220, R357, R358: a unit of DCOPY.R takes the device's bytes at its DRAM cycle and puts them into scratch at its scratch
cycle; a unit of DCOPY.W the other way round. (Model's choices it rests on: log entries 70 and 104.) -/
def Obligations.CopiesStartAtTheirCycle : Prop :=
  (∀ (s : State) (fl : Flight) (m : Mv) (rd : Bool), s.cur.flight = some fl →
     let c := myCore s
     let x := coreGang s (me s)
     let sad := (portOf c 0x300).toNat
     let lad := (portOf c 0x301).toNat
     let len := (portOf c 0x302).toNat
     let w := portOf c 0x303
     let st := if w = noStart then fl.arrive else w.toNat
     let e := bindAt s x.ctx lad
     let home := bdCore e
     let skew := if home / 128 = me s / 128 then 0 else 112
     let n := unitCount len
     let step := fun i => 12 * i + 16 * (i / 32)
     let dram := fun i => ownJob s (st + (if rd then 60 else 120) + step i + skew) (if rd then phRead else phWrite)
       (.event (.dcopyUnit (me s) c.cmdSeq i true))
     let scratch := fun i => ownJob s (st + (if rd then 120 else 4) + step i + skew) (if rd then phWrite else phRead)
       (.event (.dcopyUnit (me s) c.cmdSeq i false))
     len ≠ 0 → copyFaults s (me s) (!rd) sad lad len fl.arrive = [] → OnTime c fl w → bdShare e = false →
     timingFault (slotMapOf s home) (groupCommands s home fl.arrive)
       (copyCommands rd st (homeAddr e lad % 2 ^ 29) len skew) = 0 →
     let accepts := fun i => Accepts i s 0x303
       ⟨0, if rd then 0 else 1, st, sad, homeAddr e lad, len, (portOf c 0x304).setWidth 16, home, fl.issue, fl.bundle, fl.slot,
         false, skew, [], []⟩
       ((List.range n).flatMap fun i => [dram i, scratch i])
       [answerJob s .c0 (st + 120 + step (n - 1) + skew)]
     (rd = true → accepts (.dcopyR m)) ∧ (rd = false → accepts (.dcopyW m))) ∧
  (∀ (s : State) (k id u : Nat) (m : EngineCmd), cmdOf (coreOf s k) id = some m →
     let c := coreOf s k
     let a := m.sad + 256 * u
     let b := m.lad + 256 * u
     let n := min 256 (m.len - 256 * u)
     let takes := fun (t : State) (bs : List Byte) => ∃ m' p, cmdOf (coreOf t k) id = some m' ∧ unitBuf m' u = some (bs, p)
     (m.kind = 0 → pageBlocked s b = false → ∃ t, exec (.dcopyUnit k id u true) s = .next t ∧ takes t (devBytes s b n) ∧ ScratchSame s t ∧
       (dramOf t).bytes = (dramOf s).bytes ∧
       ((∀ i ∈ dramSectors b n, tget false (dramOf s).bad i = false) → t.agenda = s.agenda)) ∧
     (m.kind = 0 → ∀ bs p, unitBuf m u = some (bs, p) → isVoided c (gcycOf s k) a bs.length = false →
       ∃ t, exec (.dcopyUnit k id u false) s = .next t ∧ ScratchBut s t k a bs ∧ t.hub = s.hub ∧ t.agenda = s.agenda ∧
         (coreOf t k).s = c.s ∧ (coreOf t k).pc = c.pc) ∧
     (m.kind = 1 → isVoided c (gcycOf s k) a n = false →
       ∃ t, exec (.dcopyUnit k id u false) s = .next t ∧ takes t (scratchBytes c a n) ∧ ScratchSame s t ∧ t.hub = s.hub ∧
         t.agenda = s.agenda) ∧
     (m.kind = 1 → pageBlocked s b = false → ∀ bs p, unitBuf m u = some (bs, p) →
       ∃ t, exec (.dcopyUnit k id u true) s = .next t ∧ ReadsBut s t b bs ∧ ScratchSame s t ∧
         t.agenda = s.agenda))

/-- R213 to R218, R220, R222: DREF and DRFM that keep the timeline start at their cycle; a DREF advances NEXTBANK and lowers
OWED; a controller's own refresh changes nothing; a crossing of a tracker announces a hold H cycles ahead; the mitigation
resets an entry that crossed, and where another waits one more follows; patrol and write-back leave the
bytes as they are, and a write-back waits for a slot that serves it. (Model's choices it rests on: log entries 18, 46, 47 and
87.) -/
def Obligations.DramUpkeepLeavesBytes : Prop :=
  (∀ (s : State) (fl : Flight) (m : Mv) (rfm : Bool), s.cur.flight = some fl →
    let c := myCore s
    let w := portOf c 0x303
    let st := if w = noStart then fl.arrive else w.toNat
    let b := (scalarIn .z fl.val).toNat % 16
    let starts := fun i => Completes i s
      { c with
        ports := tset 0 c.ports 0x303 noStart
        dramCmds := c.dramCmds.filter (fun d => decide (fl.arrive ≤ d.cycle + 1024)) ++
          [⟨st, if rfm then .rfm else .ref, 15, b, 0⟩] }
      [ownJob s st phEnd (.deed (.refresh (me s) b rfm))]
    OnTime c fl w → refreshFault s (me s) fl.arrive st b rfm = 0 →
      (rfm = false → starts (.dref m)) ∧ (rfm = true → starts (.drfm m))) ∧
  (∀ (s : State) (k b : Nat), performDeed s k (.refresh k b false) =
    setCore s k { coreOf s k with nextBank := (b + 1) % 16, owed := (coreOf s k).owed - 1 }) ∧
  (∀ (s : State) (k : Nat) (b : Fin 16), exec (.dramSelfRefresh k b) s = .next s) ∧
  (∀ (s : State) (k : Nat) (ch : Fin 4) (b : Fin 16),
    let g := (groupGang s k).getD (coreOf s k).gang
    let key := (4 * k + ch.val) * 16 + b.val
    let x := gangOf s g
    let es := crossings s k ch.val b.val
    let hold := fun (e : Nat × Nat) => key + 2 ^ 16 * (e.1 + 2 ^ 12 * e.2)
    (∀ e, es = [e] → groupGang s k = some g → hasHold s g .disturbance (hold e) = false → x.mode = .running →
      ∃ t, exec (.disturbanceThreshold k ch b) s = .next t ∧ Announced s t g (x.gcyc + x.h) .disturbance (hold e)) ∧
    (groupGang s k = some g → (∀ e ∈ es, hasHold s g .disturbance (hold e) = true) →
      exec (.disturbanceThreshold k ch b) s = .next s) ∧
    ((∀ e ∈ es, entryDue s k ch.val b.val e = false) → exec (.disturbanceMitigationDone k ch b) s = .next s) ∧
    (∀ e rest, es = e :: rest → s.gangs = [] →
      let left := (tget [] (dramOf s).trackers key).filter fun t => !decide (t.row = e.1 ∧ t.vdid = e.2)
      ∃ t, exec (.disturbanceMitigationDone k ch b) s = .next t ∧ t.cores = s.cores ∧
        (∀ j, tget [] (dramOf t).trackers j = if j = key then left else tget [] (dramOf s).trackers j) ∧
        crossings t k ch.val b.val = rest.filter (fun f => f ≠ e) ∧
        (rest ≠ [] → ∃ j ∈ t.agenda, j.task = .event (.disturbanceMitigationDone k ch b)))) ∧
  (∀ (s : State), ∃ t, exec .disturbanceWindow s = .next t ∧ t.cores = s.cores ∧ t.agenda = s.agenda ∧
    ∀ p, partOf t p = { partOf s p with distAcc := 0, distHit := false }) ∧
  (∀ (s : State) (i : Nat),
    (slotOpen s (i * 128) = false → exec (.eccWriteback i) s =
      .next (post s ⟨.pod, s.pod + 1, phUntimed, none, .event (.eccWriteback i)⟩)) ∧
    (slotOpen s (i * 128) = true →
      ∃ t, exec (.eccWriteback i) s = .next t ∧ (dramOf t).bytes = (dramOf s).bytes ∧ t.cores = s.cores ∧
      (∀ j ∈ s.agenda, j ∈ t.agenda) ∧
      i ∉ (dramOf t).corrected ∧ ∀ j, j ≠ i → (j ∈ (dramOf t).corrected ↔ j ∈ (dramOf s).corrected)) ∧
    (∀ f, ∃ t, exec (.patrolRead i f) s = .next t ∧ (dramOf t).bytes = (dramOf s).bytes ∧ t.cores = s.cores ∧
      tget 0 (dramOf t).patrolled i = s.pod ∧ (∀ j ∈ s.agenda, j ∈ t.agenda) ∧
      tget false (dramOf t).bad i = (tget false (dramOf s).bad i || decide (f = .uncorrectable)) ∧
      (f = .corrected → i ∈ (dramOf t).corrected ∧
        ⟨.pod, s.pod + 1, phUntimed, none, .event (.eccWriteback i)⟩ ∈ t.agenda)))

/-- R90, R187, R369, R371, R438, R439: an XCOPY, HCOPY.R, HCOPY.W or IMCOPY of at least one unit whose span, target, claims and
start pass the checks is accepted: each unit falls at the cycle of its column. R28, R74, R79, R190, R369, R370, R438: an XCOPY's
unit that no other write meets is written at its target, into a claimed region only; host data fills its unit's buffer, with zeros
where the host answered with an error, and a unit whose data has come is written into scratch; an HCOPY.W's unit is posted with
the bytes of scratch, and a posted write that the host does not refuse lands in host memory; a unit whose data is lacking
announces its hold. (Model's choices it rests on: log entries 43, 45 and 106.) -/
def Obligations.TransfersMoveBytes : Prop :=
  (∀ (s : State) (fl : Flight) (m : Mv), s.cur.flight = some fl →
     let c := myCore s
     let k := me s
     let sad := (portOf c 0x340).toNat
     let lad := (portOf c 0x341).toNat
     let len := (portOf c 0x342).toNat
     let w := portOf c 0x343
     let st := if w = noStart then fl.arrive else w.toNat
     let tag : BitVec 16 := (portOf c 0x344).setWidth 16
     let dst := (portOf c 0x345).toNat
     let n := unitCount len
     let cmd := fun kind l t d => (⟨0, kind, st, sad, l, len, t, d, fl.issue, fl.bundle, fl.slot, false, 0, [], []⟩ : EngineCmd)
     len ≠ 0 → OnTime c fl w →
     (∀ k', canonical s → c.gang ≠ noGang → coreAt s c.gang (dst % 1024) = some k' →
       xcopyFaults s k sad (lad % 2 ^ 22) len (dst % 1024) fl.arrive = [] →
       injectionClash c st len = false →
       Accepts (.xcopy m) s 0x343 (cmd 2 (lad % 2 ^ 22) tag k')
         ((List.range n).map fun i => ownJob s (st + 4 + 4 * i) phRead (.deed (.xcopyRead c.cmdSeq i)))
         [answerJob s .c1 (st + (if k / 128 = k' / 128 then 48 else 160) + 4 * (n - 1))]) ∧
     (hcopyFaults s k false sad lad len fl.arrive = [] →
       Accepts (.hcopyR m) s 0x343 (cmd 3 lad tag 0)
         ((List.range n).map fun i => ownJob s (st + 4096 + 12 * i) phWrite (.event (.hcopyRUnit k c.cmdSeq i)))
         [answerJob s .c1 (st + 4096 + 12 * (n - 1))]) ∧
     (hcopyFaults s k true sad lad len fl.arrive = [] →
       Accepts (.hcopyW m) s 0x343 (cmd 4 lad tag 0)
         ((List.range n).map fun i => ownJob s (st + 4 + 12 * i) phRead (.event (.hcopyWUnit k c.cmdSeq i)))
         [answerJob s .c1 (st + 4 + 12 * (n - 1))]) ∧
     (len % 24 = 0 → len ≤ 393216 → dst + len / 24 ≤ 16384 → engineSpan sad len 32 = true →
       engineClaimed c sad len fl.arrive = true →
       Accepts (.imcopy m) s 0x343 (cmd 5 0 0 dst)
         ((List.range ((len + 191) / 192)).flatMap fun i =>
           [ownJob s (st + 1 + i) phRead (.deed (.imUnit c.cmdSeq i false)),
            ownJob s (st + 3 + i) phWrite (.deed (.imUnit c.cmdSeq i true))]) [])) ∧
  ((∀ (s : State) (k : Nat) (u : XUnit),
     let c := coreOf s k
     let x := gcycOf s k
     let src := (coreOf s u.srcCore).idx
     let w : ScratchWrite := ⟨u.addr, u.data, if u.replay then 6 else 3, agentId 1 src, src, if u.sameDie then 1 else 2⟩
     let stamps := if u.srcCore = k then u.stamps else u.stamps.filter fun st =>
       !c.fstamps.any fun v => decide (v.1 = x ∧ v.2.1 = st.1)
     let job : Job := ⟨.gang c.gang, x, phWrite, none, .deed (.foreignStore k w stamps)⟩
     u.stampOnly = false → u.data ≠ [] → (∀ o ∈ c.foreign, o.cycle = x → o.xcopy = false) →
     (claimedAt c u.addr u.data.length x = true →
       (u.srcCore = k ∨ ∀ o ∈ c.foreign, o.cycle = x → o.group = groupOf u.addr → o.kind ≠ 1) →
       ∃ t, exec (.xcopyUnitArrival k u) s = .next t ∧ (∀ j ∈ s.agenda, j ∈ t.agenda) ∧ job ∈ t.agenda ∧ ScratchSame s t ∧
         RaisesOnly [5] c (coreOf t k)) ∧
     (claimedAt c u.addr u.data.length x = false → c.frozenAt = none →
       ∃ t, exec (.xcopyUnitArrival k u) s = .next t ∧ t.agenda = s.agenda ∧ ScratchSame s t ∧
         ∃ r ∈ (coreOf t k).raised, r.code = 0x0A ∧ r.a = BitVec.ofNat 64 u.addr)) ∧
   (∀ (s : State) (k j : Nat) (w : ScratchWrite) (sts : List (Nat × BitVec 16)),
     (w.agent ≠ agentId 1 (coreOf s k).idx ∨ isVoided (coreOf s k) (gcycOf s k) w.addr w.data.length = false) →
     ScratchBut s (performDeed s j (.foreignStore k w sts)) k w.addr w.data) ∧
   (∀ (s : State) (k id u : Nat) (m : EngineCmd), cmdOf (coreOf s k) id = some m →
     let c := coreOf s k
     let g := c.gang
     let x := gcycOf s k
     let n := min 256 (m.len - 256 * u)
     let a := m.sad + 256 * u
     let zeros := List.replicate n (0 : Byte)
     (∀ data ok, ∃ t m', exec (.hostReadDataArrival k id u data ok) s = .next t ∧ cmdOf (coreOf t k) id = some m' ∧
       unitBuf m' u = some (if ok then (data ++ zeros).take n else zeros, !ok) ∧ ScratchSame s t) ∧
     (∀ bs p, unitBuf m u = some (bs, p) → isVoided c x a bs.length = false →
       ∃ t, exec (.hcopyRUnit k id u) s = .next t ∧ ScratchBut s t k a bs ∧
         ((∀ w ∈ (authOf s).wantReads, w.1 ≠ k) → t.hub = s.hub ∧ t.agenda = s.agenda)) ∧
     (isVoided c x a n = false → heldBytes s k + n ≤ 2 ^ 20 → dmaBlocked s (gangOf s g).vdid = false →
       ∃ t due p refused, exec (.hcopyWUnit k id u) s = .next t ∧ ScratchSame s t ∧ s.pod < due ∧
         (authOf t).posted = (authOf s).posted ++ [⟨k, (gangOf s g).vdid, m.lad + 256 * u, scratchBytes c a n, x, p, refused⟩] ∧
         t.agenda = s.agenda ++ [⟨.pod, due, phUntimed, none, .event (.hostWriteSpaceFree k n)⟩]) ∧
     (m.kind = 3 → (gangOf s g).mode = .running →
       (unitBuf m u = none → ∃ t, exec (.hcopyHoldAnnouncement k id u) s = .next t ∧
         Announced s t g (m.start + 4096 + 12 * u) .hcopy (unitHoldKey k id u)) ∧
       (∀ b, unitBuf m u = some b → exec (.hcopyHoldAnnouncement k id u) s = .next s)) ∧
     (m.kind = 4 → (gangOf s g).mode = .running →
       spaceFor s k id u (m.start + 4 + 12 * u) n = false → ∃ t, exec (.hcopyHoldAnnouncement k id u) s = .next t ∧
         Announced s t g (m.start + 4 + 12 * u) .hcopy (unitHoldKey k id u))) ∧
   (∀ (s : State) (k bytes : Nat), (∃ w ∈ (authOf s).posted, w.core = k) →
     ∃ t, exec (.hostWriteSpaceFree k bytes) s = .next t ∧ t.cores = s.cores ∧ ∃ w ∈ (authOf s).posted, w.core = k ∧
       (authOf t).posted = (authOf s).posted.erase w ∧
       (w.refused = false → BytesBut (authOf s).host (authOf t).host (w.page * 2 ^ 64 + w.addr % 2 ^ 64) w.data)))

/-- R187, R231, R232, R234 to R237, R260, R363 to R365: FSEND, FPUT, FGET and FATOM whose operands, route and start pass the
checks and whose use of HOP_0 meets no other are accepted, to be read and counted in their cycles; FRECV arms its receive, and
FPEER answers with its chip's status and consumes fb.at. (Model's choices it rests on: log entries 41, 42 and 49.) -/
def Obligations.FabricCommandsSendFrames : Prop :=
  ∀ (s : State) (fl : Flight) (m : Mv), s.cur.flight = some fl →
    let c := myCore s
    let k := me s
    let f := fabOf s
    let w := portOf c 0x383
    let st := if w = noStart then fl.arrive else w.toNat
    let sad := (portOf c 0x381).toNat
    let len := (portOf c 0x382).toNat
    let link := portOf c 0x380
    let path := portOf c 0x384
    let rad := portOf c 0x385
    let tag : BitVec 16 := (portOf c 0x386).setWidth 16
    let width := (len + 92) / 93
    let n := unitCount len
    let free := fun width => ∀ o ∈ (linkAt f (path.toNat % 16)).used,
      ¬(o.gang = c.gang ∧ o.first ≤ st + width - 1 ∧ st ≤ o.last)
    let passes := fun kind => fabFaults s k kind fl.arrive = [] ∧ routeFaults s k kind = []
    let counted := ownJob s st phTrigger (.deed (.countDepart c.gang (path.toNat % 16)))
    let reads := (List.range n).map fun i => ownJob s (st + i) phRead (.deed (.sendRead c.cmdSeq i))
    let out := walk f f.chip (pathHops path 0 (hopsOut link))
    let back := backHops f out.1 (hopsOut link) (hopsBack link) (radChip rad) path
    let sends := fun i kind => Accepts i s 0x383
      ⟨0, kind, st, sad, rad.toNat, len, tag, path.toNat, fl.issue, fl.bundle, fl.slot, false, link.toNat, [], []⟩
      (counted :: reads ++ [ownJob s (st + n - 1) phTrigger (.deed (.depart c.cmdSeq))]) []
    let waits := fun i (e : Nat) (answer : Nat) (result : Option Nat) =>
      ∃ t, exec i s = .next t ∧ t.gangs = s.gangs ∧ ScratchSame s t ∧
      (∀ j ∈ s.agenda, j ∈ t.agenda) ∧ portOf (coreOf t k) 0x383 = noStart ∧ (coreOf t k).s = c.s ∧ counted ∈ t.agenda ∧
      ownJob s st phTrigger (.deed (.depart c.cmdSeq)) ∈ t.agenda ∧
      (fabOf t).awaited = f.awaited ++ [⟨f.tickets, k, st, radChip rad, radCore rad, answer, result⟩] ∧
      ⟨.gang c.gang, e + (coreGang s k).h, phHub, none, .event (.missingArrival k (radChip rad) e f.tickets)⟩ ∈ t.agenda
    let there := st + hopsLatency f out.1
    let whole := there + hopsLatency f back.1
    OnTime c fl w →
    (passes 11 → free width → sends (.fsend m) 11) ∧
    (passes 12 → free width → sends (.fput m) 12) ∧
    (passes 13 → waits (.fget m) (whole + (1 + width)) (there + 1) none) ∧
    (passes 14 → free 1 → waits (.fatom m) (whole + 5) (there + 1 + 3) (some (whole + 5))) ∧
    (fabFaults s k 11 fl.arrive = [] → deadPeer f (radChip rad) = false → c.recvs.length < 16 →
      let r : Recv := ⟨radChip rad, radCore rad, sad, len, tag, if w = noStart then none else some w.toNat, fl.issue, fl.bundle,
        fl.slot, f.tickets⟩
      ∃ t, exec (.frecv m) s = .next t ∧ (coreOf t k).recvs = c.recvs ++ [r] ∧ (coreOf t k).ports = tset 0 c.ports 0x383 noStart ∧
        (∀ j, j ≠ k → coreOf t j = coreOf s j) ∧ ScratchSame s t ∧ t.gangs = s.gangs ∧
        t.agenda = s.agenda ++ (if w = noStart then [] else
          [⟨.gang c.gang, w.toNat + (coreGang s k).h, phHub, none, .event (.missingArrival k r.chip w.toNat r.ticket)⟩])) ∧
    (let id := (scalarIn .z fl.val).toNat % 4096
     let v := (if deadPeer f id then 1 else 0) + (if id = f.chip ∨ id ∈ (coreGang s k).members then 2 else 0) +
       (if inPod f id then 4 + leekLatency f f.chip id % 2 ^ 16 * 2 ^ 16 else 0)
     Completes (.fpeer m) s { c with ports := tset 0 c.ports 0x383 noStart }
       [resultJob s .fb 2 ((BitVec.ofNat 64 v).setWidth 2048) 0])

/-- R187, R191, R235, R236, R239, R240, R363: a frame that reaches its target core in its ARRIVE cycle while the gang runs
performs: FSEND by the receive it matches and FPUT and an FGET's response at their address are written unit by unit, an FGET's
request is read unit by unit and answered with what was read, an FATOM's request is scheduled and writes its new word, an
FATOM's response is at fb.r, a poison frame stamps; the frame is counted as received.
(Model's choices it rests on: log entries 42, 83 and 90.) -/
def Obligations.FabricArrivalsLand : Prop :=
  (∀ (s : State) (f : Frame) (k : Nat),
    let g := f.gang
    let x := gangOf s g
    let c := coreOf s k
    let n := unitCount f.len
    (ctxOf s x.ctx).gang = g + 1 → x.hasRun = true → f.dstCore < x.cores → capturing x = false →
    coreAt s g f.dstCore = some k → c.gang = g → x.mode = .running → x.gcyc = f.arrive →
    let arrives := fun i (P : State → Prop) => ∃ t, exec i s = .next t ∧ P t ∧
      tget 0 (gangOf t g).recv f.link.val = tget 0 x.recv f.link.val + 1 ∧ (gangOf t g).gcyc = x.gcyc ∧
      (∀ j ∈ s.agenda, j ∈ t.agenda) ∧ ScratchSame s t
    let job := fun (i : Nat) (d : Deed) => (⟨.gang g, f.arrive + i, phForeign (frameKey f), none, .deed d⟩ : Job)
    let bytes := f.data.take (min 256 f.len)
    let lands := fun (f : Frame) (t : State) =>
      (∃ sts, ⟨.gang g, f.arrive, phWrite, none, .deed (.foreignStore k
        ⟨f.addr, bytes, if f.again then 5 else 4, agentId 2 f.srcChip, f.srcCore, 3⟩ sts)⟩ ∈ t.agenda) ∧
      ∀ i, 0 < i → i < n → job i (.frameUnit f i) ∈ t.agenda
    let clear := fun (a : Nat) => bytes ≠ [] ∧ claimedAt c a bytes.length f.arrive = true ∧
      ∀ o ∈ c.foreign, o.cycle = f.arrive → o.group = groupOf a → o.kind ≠ 1
    let answered := fun (t : State) => (fabOf t).awaited = (fabOf s).awaited.filter fun a => decide (a.ticket ≠ f.ticket)
    (∀ r, matchRecv c f = some r → clear r.sad → arrives (.fsendArrival f) fun t =>
      lands { f with addr := r.sad, tag := r.tag } t ∧ (coreOf t k).recvs = c.recvs.erase r) ∧
    (matchRecv c f = none → c.frozenAt = none → arrives (.fsendArrival f) fun t =>
      t.agenda = s.agenda ∧ ∃ r ∈ (coreOf t k).raised, r.code = 0x19 ∧ r.b = 1) ∧
    (clear f.addr → arrives (.fputArrival f) fun t => lands f t) ∧
    (let back := (f.back.head?.map (·.val)).getD 0
     ownsPassing s g back = true →
     (∀ o ∈ (linkAt (fabOf s) back).used, ¬(o.gang = g ∧ o.first ≤ f.arrive + (f.len + 92) / 93 - 1 ∧ f.arrive ≤ o.last)) →
     arrives (.fgetRequestArrival f) fun t =>
       job 0 (.frameUnit { f with data := [], poison := f.poison || c.poison } 0) ∈ t.agenda) ∧
    (clear f.addr → arrives (.fgetResponseArrival f) fun t => lands f t ∧ answered t) ∧
    (f.poison = false → f.uncorr = false →
      arrives (.fatomRequestArrival f) fun t => ∀ d ∈ [1, 2, 3], job d (.fatomWrite { f with len := d } 0) ∈ t.agenda) ∧
    (f.poison = false → f.uncorr = false → arrives (.fatomResponseArrival f) fun t =>
      resultOf (coreOf t k) .fb = f.operand.setWidth 64 ∧ answered t ∧
      ⟨.gang g, f.arrive, phEnd, some k, .deed (.flags (f.compare.setWidth 6))⟩ ∈ t.agenda) ∧
    (f.aop = 11 → ∀ r, matchRecv c f = some r → arrives (.poisonFrameArrival f) fun t =>
      (coreOf t k).recvs = c.recvs.erase r ∧ job (n - 1) (.frameUnit { f with addr := r.sad } (n - 1)) ∈ t.agenda) ∧
    (f.aop = 12 → arrives (.poisonFrameArrival f) fun t => job (n - 1) (.frameUnit f (n - 1)) ∈ t.agenda) ∧
    (f.aop = 13 → arrives (.poisonFrameArrival f) fun t => t.agenda = s.agenda)) ∧
  (∀ (s : State) (f : Frame) (j k i n : Nat), coreAt s f.gang f.dstCore = some k → f.kind = .getRequest →
    let c := coreOf s k
    let a := f.addr + 256 * i
    let m := min 256 (f.len - 256 * i)
    let data := f.data ++ scratchBytes c a m
    let poison := f.poison || (tilesOf a m).any fun t => decide (tagOf c t = 0xFFFF)
    let t := performDeed s j (.frameUnit f i)
    (i + 1 < unitCount f.len → ScratchSame s t ∧ ⟨.gang f.gang, f.arrive + i + 1, phForeign (frameKey f), none,
      .deed (.frameUnit { f with data := data, poison := poison } (i + 1))⟩ ∈ t.agenda) ∧
    (unitCount f.len ≤ i + 1 → f.back.head?.map (·.val) = some n →
      ScratchSame s t ∧ ∃ r, (n, r) ∈ (fabOf t).wire ∧ r.kind = .getResponse ∧ r.dstChip = f.srcChip ∧ r.dstCore = f.srcCore ∧
        r.addr = f.home ∧ r.data = data ∧ r.arrive = f.arrive + f.backLat + (f.len + 92) / 93 ∧ r.poison = poison)) ∧
  (∀ (s : State) (f : Frame) (j k : Nat) (old : BitVec 32), coreAt s f.gang f.dstCore = some k → f.poison = false →
    f.uncorr = false → f.len = 3 →
    let c := coreOf s k
    let x := gcycOf s k
    claimedAt c f.addr 4 x = true → (∀ o ∈ c.foreign, o.cycle = x → o.group = groupOf f.addr → o.kind ≠ 1) →
    let writes := fun (w : BitVec 32) => ⟨.gang c.gang, x, phWrite, none, .deed (.foreignStore k
      ⟨f.addr, leBytes 4 w.toNat, if f.again then 5 else 4, agentId 2 f.srcChip, f.srcCore, 3⟩ [])⟩ ∈
        (performDeed s j (.fatomWrite f old)).agenda
    (f.aop = 0 → writes (old + f.operand)) ∧ (f.aop = 6 → writes (old &&& f.operand)) ∧ (f.aop = 8 → writes f.operand) ∧
    (f.aop = 9 → old = f.compare → writes f.operand))

/-- R228, R229, R232, R233, R235, R241, R365: a frame goes on over a link that its gang owns and no other use meets; a DROP
reaches its sender's core as the fault of its subcode, and one of an awaited FATOM's reply is told to its issuer; an expected
arrival that is missing and for which no DROP came marks its sender dead and is a fault, and one that came, or whose DROP came, is
not; DEADPEER sets one bit and only L0 clears bits. (Model's choices it rests on: log entries 22 and 44.) -/
def Obligations.FabricFramesPassOn : Prop :=
  (∀ (s : State) (f : Frame) (hop : Nat) (n : Fin 16),
    (linkAt (fabOf s) n.val).up = true → ownsPassing s f.gang n.val = true →
    (frameOccupies f = 0 ∨ ∀ o ∈ (linkAt (fabOf s) n.val).used,
      ¬(o.gang = f.gang ∧ o.first ≤ f.enter + frameOccupies f - 1 ∧ f.enter ≤ o.last)) →
    ∃ t, exec (.frameForward f hop n) s = .next t ∧ t.cores = s.cores ∧ t.gangs = s.gangs ∧ t.agenda = s.agenda ∧
      (fabOf t).wire = (fabOf s).wire ++ [(n.val, { f with
        route := f.route.drop 1, enter := f.enter + (trainedOf (fabOf s) (chipOf s) n.val).1 })]) ∧
  (∀ (s : State) (g chip core dep hop sub k : Nat),
    ∃ t, exec (.drop g chip core dep hop sub) s = .next t ∧ (fabOf t).drops = (fabOf s).drops ++ [(g, chip, core, dep)] ∧
      (∀ j ∈ s.agenda, j ∈ t.agenda) ∧ ((∀ a ∈ (fabOf s).awaited, a.result = none) → t.agenda = s.agenda) ∧
      (∀ a e, (fabOf s).awaited = [a] → a.result = some e → a.chip = chip → a.peer = core → a.answerAt = dep →
        (coreOf s a.core).gang = g →
        ⟨.gang g, max (gcycOf s a.core) e, phIssue - 5, some a.core, .deed .replyLost⟩ ∈ t.agenda) ∧
      (chip ≠ chipOf s → t.cores = s.cores) ∧
      (chip = chipOf s → coreAt s g core = some k → (coreOf s k).frozenAt = none →
        ∃ r ∈ (coreOf t k).raised, r.code = (if sub = 4 then 0x1D else 0x18) ∧ r.a = BitVec.ofNat 64 hop ∧
          r.b = BitVec.ofNat 64 sub)) ∧
  (∀ (s : State) (k chip e tk : Nat), let c := coreOf s k
    (∀ r, c.recvs.find? (fun r => decide (r.ticket = tk)) = some r →
      (dropOf (fabOf s) c.gang c.idx (some r) none = none → c.frozenAt = none →
        ∃ t, exec (.missingArrival k chip e tk) s = .next t ∧ deadPeer (fabOf t) chip = true ∧
          (∀ r ∈ (coreOf t k).recvs, r.ticket ≠ tk) ∧
          ∃ r ∈ (coreOf t k).raised, r.code = 0x23 ∧ r.a = BitVec.ofNat 64 chip) ∧
      (∀ d, dropOf (fabOf s) c.gang c.idx (some r) none = some d →
        ∃ t, exec (.missingArrival k chip e tk) s = .next t ∧ (fabOf t).dead = (fabOf s).dead ∧
          (fabOf t).drops = (fabOf s).drops.erase d ∧ (coreOf t k).raised = c.raised ∧
          (∀ r ∈ (coreOf t k).recvs, r.ticket ≠ tk))) ∧
    ((∀ r ∈ c.recvs, r.ticket ≠ tk) → (∀ a ∈ (fabOf s).awaited, a.ticket ≠ tk) →
      ∃ t, exec (.missingArrival k chip e tk) s = .next t ∧ t.agenda = s.agenda ∧ (fabOf t).dead = (fabOf s).dead ∧
        (coreOf t k).raised = c.raised ∧ (coreOf t k).recvs = c.recvs)) ∧
  (∀ (s : State) (g dead r : Nat) (chips : List Nat),
    (∃ t, exec (.deadpeer g dead r) s = .next t ∧ t.cores = s.cores ∧ t.agenda = s.agenda ∧
      ∀ i, deadPeer (fabOf t) i = (deadPeer (fabOf s) i || decide (i = dead))) ∧
    (∃ t, exec (.deadpeerClear chips) s = .next t ∧ t.cores = s.cores ∧ t.agenda = s.agenda ∧
      ∀ i, deadPeer (fabOf t) i = (deadPeer (fabOf s) i && decide (i ∉ chips))))

/-- R225, R227, R228, R243, R244, R335: training fixes a link's latencies and brings up a link that is not retired, of a
dimension larger than 1; the first ALIGN frame to reach a chip that is not the time root sets PCYC; after that one that shows
the sending pod cycle μ ago leaves the link up, another takes it down, and every connected link sends them; a free lane sends
its next frame and is occupied for 11 pod cycles, and none is sent over a link that is down; an unknown frame is counted and
discarded; a link that goes down is down, and no frame waits at it.
(Model's choices it rests on: log entries 41 and 85.) -/
def Obligations.LinkEventsTakeEffect : Prop :=
  (∀ (s : State) (n : Fin 16) (lam mu nbr : BitVec 12),
    (podSize (fabOf s) (n.val / 4) ≤ 1 → exec (.linkTraining n lam mu nbr) s = .next s) ∧
    (1 < podSize (fabOf s) (n.val / 4) → ∃ t, exec (.linkTraining n lam mu nbr) s = .next t ∧
      t.cores = s.cores ∧ t.agenda = s.agenda ∧ (∀ j, j ≠ n.val → linkAt (fabOf t) j = linkAt (fabOf s) j) ∧
      let l := linkAt (fabOf t) n.val
      l.lat = lam.toNat ∧ l.llat = mu.toNat ∧ l.nbr = nbr.toNat ∧
        l.up = (!(linkAt (fabOf s) n.val).retired && decide (lam ≠ 0)))) ∧
  (∀ (s : State) (n : Fin 16) (origin : Nat), let l := linkAt (fabOf s) n.val
    let mu := (trainedOf (fabOf s) l.nbr (reverseLink n.val)).2
    let root := (fabOf s).root || (fabOf s).aligned
    ((l.up = false ∨ root = true ∧ s.pod = origin + mu) → exec (.align n origin) s = .next s) ∧
    (l.up = true → root = true → s.pod ≠ origin + mu →
      exec (.align n origin) s = .next (post s ⟨.pod, s.pod, phHub, none, .event (.linkDown n)⟩)) ∧
    (l.up = true → root = false → ∃ t, exec (.align n origin) s = .next t ∧ t.pod = origin + mu ∧
      (fabOf t).aligned = true ∧ t.cores = s.cores ∧ t.gangs = s.gangs)) ∧
  (∀ (s : State), ∃ t, exec .alignSend s = .next t ∧ t.cores = s.cores ∧ t.gangs = s.gangs ∧
    ∀ n < 16, (linkAt (fabOf t) n).queue = (linkAt (fabOf s) n).queue ++
      if (linkAt (fabOf s) n).up then
        [⟨.align (Fin.ofNat 16 (reverseLink n)) s.pod, noGang, (linkAt (fabOf s) n).nbr, s.pod⟩] else []) ∧
  (∀ (s : State) (n : Fin 16), let l := linkAt (fabOf s) n.val
    ((s.pod < l.freeAt ∨ l.queue = []) → exec (.leekLaneFree n) s = .next s) ∧
    (l.freeAt ≤ s.pod → l.queue ≠ [] → l.up = false → ∃ t, exec (.leekLaneFree n) s = .next t ∧ t.cores = s.cores ∧
      (linkAt (fabOf t) n.val).queue = [] ∧ (fabOf t).leek = (fabOf s).leek) ∧
    (l.freeAt ≤ s.pod → l.queue ≠ [] → l.up = true → ∃ t, exec (.leekLaneFree n) s = .next t ∧ t.cores = s.cores ∧
      (linkAt (fabOf t) n.val).freeAt = s.pod + 11 ∧ (linkAt (fabOf t) n.val).queue = (laneNext l.queue l.turn).2.1 ∧
      (fabOf t).leek = (fabOf s).leek ++ [(n.val, s.pod, (laneNext l.queue l.turn).1.map (leaving s.pod))])) ∧
  (∀ (s : State) (ty : BitVec 4), exec (.unknownLeekFrame ty) s =
    .next (setFab s { fabOf s with discarded := (fabOf s).discarded + 1 })) ∧
  (∀ (s : State) (n : Fin 16), (∀ g, (gangOf s g).hasRun = false) →
    ∃ t, exec (.linkDown n) s = .next t ∧ t.cores = s.cores ∧ t.gangs = s.gangs ∧ (linkAt (fabOf t) n.val).up = false ∧
      (linkAt (fabOf t) n.val).queue = [] ∧
      ∀ j, j ≠ n.val → { linkAt (fabOf t) j with queue := [] } = { linkAt (fabOf s) j with queue := [] })

/-- R275, R377 to R381: an MBSEND or MBRECV that passes its checks is accepted: the turn changes at once, its units fall at the
cycles of their columns and its end at s + 24. MBSTAT answers two cycles later with a word of the snapshot; MBSNAP schedules
the copy for c + H, and in lockstep with a pair not ready announces its hold; the copy takes the 64 headers of the group.
(Model's choices it rests on: log entry 51.) -/
def Obligations.MailboxOperationsTakeEffect : Prop :=
  (∀ (s : State) (fl : Flight) (m : Mv), s.cur.flight = some fl →
    let c := myCore s
    let k := me s
    let z := scalarIn .z fl.val
    let x := z.toNat % 2 ^ 13
    let sad := (portOf c 0x3C0).toNat % 2 ^ 22
    let len := (portOf c 0x3C1).toNat % 2 ^ 13
    let timed := (portOf c 0x3C1).getLsbD 13
    let st := if timed then (portOf c 0x3C2).toNat else fl.arrive
    let n := unitCount len
    let entry := fun (t : Table Byte) => leNat (tbytes 0 t (64 * (x % 64) + 12) 4)
    let passes := engineLen len 4096 = true ∧ engineSpan sad len 32 = true ∧ engineClaimed c sad len fl.arrive = true ∧
      (timed = true → fl.arrive ≤ st ∧ c.suppress = false)
    let accepts := fun i kind (p dst : Nat) (turn : Bool) (js : List Job) =>
      ∃ t, exec i s = .next t ∧ ScratchSame s t ∧ (envOf t).bytes = (envOf s).bytes ∧
        (∀ q, turnOf t q = if q = p then turn else turnOf s q) ∧ (∀ j ∈ s.agenda, j ∈ t.agenda) ∧ (∀ j ∈ js, j ∈ t.agenda) ∧
        ownJob s (st + 24) phEnd (.deed (.mbDone c.cmdSeq)) ∈ t.agenda ∧ RaisesOnly [4, 5] c (coreOf t k) ∧
        let d := coreOf t k
        d.cmds = c.cmds ++ [⟨c.cmdSeq, kind, st, sad, p, len, BitVec.ofNat 16 ((portOf c 0x3C0).toNat / 2 ^ 32), dst, fl.issue,
          fl.bundle, fl.slot, false, c.polver.toNat, [], []⟩] ∧
        d.s = c.s ∧ d.v = c.v ∧ d.k = c.k ∧ d.p = c.p ∧ d.ports = c.ports ∧ d.pc = c.pc
    (∀ p, mbPair s c.gang x = some p → passes → pairActive s p = true → turnOf s p = false →
      accepts (.mbsend m) 9 p 0 true ((List.range n).map fun i => ownJob s (st + 4 + i) phRead (.deed (.mbRead c.cmdSeq i)))) ∧
    (∀ p snap, mbPair s c.gang x = some p → snapFor c fl.issue (x / 64) = some snap → (entry snap).testBit 25 = true → passes →
      let active := (entry snap).testBit 24
      accepts (.mbrecv m) 10 p ((if active then 1 else 0) + 2 * (entry snap % 256))
        (if active ∧ entry snap % 256 = 1 then false else turnOf s p)
        ((List.range n).flatMap fun i => [ownJob s (st + 3 + i) phRead (.deed (.mbRead c.cmdSeq i)),
          ownJob s (st + 4 + i) phWrite (.deed (.mbWrite c.cmdSeq i))])) ∧
    (∀ p snap, mbPair s c.gang x = some p → snapFor c fl.issue (x / 64) = some snap →
      Completes (.mbstat m) s c [resultJob s .sy 2
        ((BitVec.ofNat 64 (leNat (tbytes 0 snap (64 * (x % 64) + 8 * (z.toNat / 2 ^ 13 % 8)) 8))).setWidth 2048) 0]) ∧
    Completes (.mbsnap m) s c [] ∧
    (c.frozenAt = none →
      let raises := fun i (b : Nat) => ∃ t, exec i s = .next t ∧ t.agenda = s.agenda ∧ t.hub = s.hub ∧
        ∃ r ∈ (coreOf t k).raised, r.code = 0x1C ∧ r.b = BitVec.ofNat 64 b
      (mbPair s c.gang x = none → raises (.mbsend m) 1 ∧ raises (.mbrecv m) 1 ∧ raises (.mbstat m) 1) ∧
      (∀ p, mbPair s c.gang x = some p → passes →
        (pairActive s p = false → raises (.mbsend m) 5) ∧ (pairActive s p = true → turnOf s p = true → raises (.mbsend m) 2) ∧
        (snapFor c fl.issue (x / 64) = none → raises (.mbrecv m) 3 ∧ raises (.mbstat m) 3)))) ∧
  (∀ (s : State) (m : Mv) (q : Nat), s.cur.flight = none → streamSource m.src = none → guardOf (myCore s) m.g = true →
    s.looking = false →
    let c := myCore s
    let j := (scalarIn .z (readSource c m.src (now s) c.curBundle s.cur.slot).1).toNat % 128
    let t₀ := now s + (coreGang s (me s)).h
    (mailGroupsOf s (coreGang s (me s)).ctx)[j]? = some q → (coreGang s (me s)).mode = .running →
    ∃ t, exec (.mbsnap m) s = .next t ∧ ownJob s t₀ phDone (.event (.mbsnapCopy (me s) j)) ∈ t.agenda ∧
      ((grpctlOf s q).getLsbD 0 = false → groupReady s q = false → Announced s { t with cores := s.cores } c.gang t₀ .mbsnap
        (me s + 1024 * q)) ∧
      ((grpctlOf s q).getLsbD 0 = true ∨ groupReady s q = true → t.gangs = s.gangs)) ∧
  (∀ (s : State) (k j q : Nat), (mailGroupsOf s (coreGang s k).ctx)[j]? = some q →
    let c := coreOf s k
    ∃ t snap, exec (.mbsnapCopy k j) s = .next t ∧ t.hub = s.hub ∧
      coreOf t k = { c with snaps := (gcycOf s k, j, snap) :: c.snaps.take 15 } ∧
      t.agenda = s.agenda ++ [⟨.gang c.gang, gcycOf s k, phAdvance, some k, .deed .interval⟩] ∧
      ∀ i < 64, ∀ b < 64, tget 0 snap (64 * i + b) =
        if b = 15 then BitVec.ofNat 8 ((if pairActive s (64 * q + i) then 1 else 0) + if mbReady s (64 * q + i) then 2 else 0)
        else tget 0 (envOf s).bytes ((64 * q + i) * 0x4000 + 0x2000 + b)) ∧
  (∀ (s : State) (k id u : Nat) (m : EngineCmd), cmdOf (coreOf s k) id = some m →
    let c := coreOf s k
    let a := m.sad + 256 * u
    let n := min 256 (m.len - 256 * u)
    (m.kind = 9 → isVoided c (gcycOf s k) a n = false →
      let t := performDeed s k (.mbRead id u)
      ScratchSame s t ∧ ∃ m', cmdOf (coreOf t k) id = some m' ∧ unitBuf m' u = some (scratchBytes c a n, false)) ∧
    (∀ bs p, unitBuf m u = some (bs, p) → isVoided c (gcycOf s k) a bs.length = false →
      ScratchBut s (performDeed s k (.mbWrite id u)) k a bs) ∧
    (m.kind = 10 → m.dst % 2 = 1 → m.dst / 2 = 1 →
      BytesBut (envOf s).bytes (envOf (performDeed s k (.mbDone id))).bytes (m.lad * 0x4000 + 0x200C) [2]) ∧
    (m.kind = 9 → mbStatus s m.lad 0x2000 = 1 ∨ mbStatus s m.lad 0x2000 = 2 → (grpctlOf s (m.lad / 64)).getLsbD 1 = false →
      m.len ≤ 4096 → (∀ i bs p, unitBuf m i = some (bs, p) → bs.length = min 256 (m.len - 256 * i)) →
      let t := performDeed s k (.mbDone id)
      mbStatus t m.lad 0 = 1 ∧ mbNat t m.lad 4 4 = (mbNat s m.lad 4 4 + 1) % 2 ^ 32 ∧ mbNat t m.lad 20 2 = m.len % 2 ^ 16 ∧
        mbNat t m.lad 24 8 = (m.start + 24) % 2 ^ 64 ∧ mbBytes t m.lad 0x2000 0x2000 = mbBytes s m.lad 0x2000 0x2000))

/-- R193, R194, R205, R206, R218, R270, R275, R314: the hub admits an untimed access, makes it wait while the group's share is
full, or refuses it, which is a hart's access fault; an access completes once the controller serves it and those it may not pass
have completed, and is tried again before that, as newly received where its 448 pod cycles are over; a completing write changes
the bytes it names, a completing read answers with the bytes there; a host access through an aperture becomes untimed accesses of
class 3, or is answered with Unsupported Request. (Model's choices it rests on: log entries 5, 8, 9, 63 and 86.) -/
def Obligations.UntimedAccessesComplete : Prop :=
  (∀ (s : State) (a : Untimed), a.space = .dram →
    let hart := agentClass a.agent = 4
    let refused := slotMapOf s (homeOf a.addr) = 0 ∨ pageBlocked s a.addr = true
    let b := { a with received := s.pod }
    let same := fun (t : State) => t.cores = s.cores ∧ t.gangs = s.gangs ∧ (dramOf t).bytes = (dramOf s).bytes
    (refused → ¬hart → ∃ t, exec (.untimedAccessReceive a) s = .next t ∧ same t ∧ t.agenda = s.agenda ∧
      (dramOf t).answers = (dramOf s).answers ++ [(a, [], 2)]) ∧
    (hart → refused ∨ hartReaches s a = false → ∃ t, exec (.untimedAccessReceive a) s = .next t ∧ t.cores = s.cores ∧
      (dramOf t).bytes = (dramOf s).bytes ∧ (dramOf t).answers = (dramOf s).answers ++ [(a, [], 2)] ∧
      (envOf t).faults = (envOf s).faults ++ [a.agent.toNat % 4096]) ∧
    (¬refused → (hart → hartReaches s a = true) →
      (shareFull s a = true → exec (.untimedAccessReceive a) s =
        .next (post s ⟨.pod, s.pod + 1, phUntimed, none, .event (.untimedAccessReceive a)⟩)) ∧
      (shareFull s a = false → ∃ t due, exec (.untimedAccessReceive a) s = .next t ∧ same t ∧ s.pod < due ∧ due ≤ s.pod + 448 ∧
        (dramOf t).pending = (dramOf s).pending ++ [b] ∧
        t.agenda = s.agenda ++ [⟨.pod, due, if a.write then phUntimed else phHub, none, .event (.untimedWriteComplete b)⟩]))) ∧
  (∀ (s : State) (a : Untimed), a.space = .dram →
    let ps := (dramOf s).pending
    let first := (ps.takeWhile fun b => decide (b ≠ a)).filter fun b => completesFirst s b a
    let waits := mitigating s a = true ∨ first ≠ [] ∨ serviceOf s a = none
    let again := fun b => (⟨.pod, s.pod + 1, if a.write then phUntimed else phHub, none, .event (.untimedWriteComplete b)⟩ : Job)
    (a ∉ ps → exec (.untimedWriteComplete a) s = .next s) ∧
    (a ∈ ps → waits → s.pod < a.received + 448 → exec (.untimedWriteComplete a) s = .next (post s (again a))) ∧
    (a ∈ ps → waits → a.received + 448 ≤ s.pod → let b := { a with received := s.pod }
      ∃ t, exec (.untimedWriteComplete a) s = .next t ∧ t.cores = s.cores ∧ (dramOf t).bytes = (dramOf s).bytes ∧
        (dramOf t).answers = (dramOf s).answers ∧ b ∈ (dramOf t).pending ∧ again b ∈ t.agenda) ∧
    (a ∈ ps → ¬waits →
      (a.write = true → ∃ t, exec (.untimedWriteComplete a) s = .next t ∧ ScratchSame s t ∧ (dramOf t).pending = ps.erase a ∧
        ReadsBut s t a.addr a.data ∧ (dramOf t).answers = (dramOf s).answers) ∧
      (a.write = false → agentClass a.agent ≠ 6 → ∃ t, exec (.untimedWriteComplete a) s = .next t ∧ ScratchSame s t ∧
        (dramOf t).pending = ps.erase a ∧ (dramOf t).bytes = (dramOf s).bytes ∧ (dramOf t).answers = (dramOf s).answers ++
          [(a, devBytes s a.addr a.len, if devPoisoned s a.addr a.len then 1 else 0)]))) ∧
  (∀ (s : State) (v slot off : Nat) (write : Bool) (data : List Byte),
    let target := if (houseOf s).recovery = true then none else apertureAddr s v slot off data.length write
    (target = none → ∃ t, exec (.hostApertureAccess v slot off write data) s = .next t ∧ t.cores = s.cores ∧ t.gangs = s.gangs ∧
      t.agenda = s.agenda ∧ (authOf t).completions = (authOf s).completions ++ [(v, slot, off, 1, [])]) ∧
    (∀ a, target = some a → ∃ t due, ∃ us : List Untimed, exec (.hostApertureAccess v slot off write data) s = .next t ∧ t.cores = s.cores ∧
      t.gangs = s.gangs ∧ t.hub = s.hub ∧ s.pod < due ∧
      t.agenda = s.agenda ++ us.map (fun u => ⟨.pod, due, phUntimed, none, .event (.untimedAccessReceive u)⟩) ∧
      (∀ u ∈ us, u.agent = agentId 3 v ∧ u.space = .dram ∧ u.write = write) ∧
      (write = true → us.flatMap (·.data) = data) ∧
      us.flatMap (fun u => (List.range (if write then u.data.length else u.len)).map (u.addr + ·)) =
        (List.range data.length).map (a + ·)))

/-- R47, R215, R266, R288, R293, R400, R253: RCLAIM claims a region, with a hold when another context owns it; the spill and
fill exchange the region's contents during that hold. The watchdog holds its gang at LIMIT; OWED rises by 1 and at 4 faults and
freezes the gang; the minder drains a record queue, and ends the gang of a frozen core; a run whose cores have all ended writes
its fence and NEXT. (Model's choices it rests on: log entries 19, 40, 50 and 82.) -/
def Obligations.ClaimsTakeEffectAndUpkeepRuns : Prop :=
  (∀ (s : State) (fl : Flight) (m : Mv), s.cur.flight = some fl →
    let c := myCore s
    let g := c.gang
    let x := gangOf s g
    let n := (scalarIn .z fl.val).toNat % 64
    let th := fl.arrive + x.h
    let d := { c with claims := c.claims ++ [(n, th)] }
    let claimed := ∃ e ∈ c.claims, e.1 = n
    let owned := tget 0 c.owners n = x.ctx ∧ x.ctx ≠ 0
    (claimed → Completes (.rclaim m) s c []) ∧
    (¬claimed → owned → Completes (.rclaim m) s d []) ∧
    (¬claimed → ¬owned → s.looking = false → x.mode = .running → ∃ t, exec (.rclaim m) s = .next t ∧
      coreOf t (me s) = noted d (coreOf t (me s)) ∧ (∀ k, k ≠ me s → coreOf t k = coreOf s k) ∧
      Announced s { t with cores := s.cores } g th .rclaim (me s + 1024 * n))) ∧
  (∀ (s : State) (k n g : Nat), k < 1024 → n < 64 →
    (s.gangs.map (·.1)).find? (fun g => hasHold s g .rclaim (k + 1024 * n)) = some g → (coreOf s k).gang = g →
    let c := coreOf s k
    let x := (gangOf s g).ctx
    let o := tget 0 c.owners n
    let saved := fun (t : State) y => tget {} t.hub.regions (y * 2 ^ 16 + k * 64 + n)
    o ≠ x → (∀ e ∈ (saved s x).data, e.1 < 65536) →
    ∃ t, exec (.regionSpillFill k n) s = .next t ∧ hasHold t g .rclaim (k + 1024 * n) = false ∧
      tget 0 (coreOf t k).owners n = x ∧ (∀ j, j ≠ k → coreOf t j = coreOf s j) ∧
      (∀ b, tget 0 (coreOf t k).scratch b =
        if b / 65536 = n then tget 0 (saved s x).data (b % 65536) else tget 0 c.scratch b) ∧
      (o ≠ 0 → ∀ b < 65536, tget 0 (saved t o).data b = tget 0 c.scratch (n * 65536 + b))) ∧
  (∀ (s : State) (k : Nat),
    let c := coreOf s k
    let g := c.gang
    let x := gangOf s g
    let limit := c.running = true ∧ x.wdog ≠ 0 ∧ x.gcyc + x.h = c.wdogBase + x.wdog
    (limit → x.mode = .running → ∃ t, exec (.watchdogThreshold k) s = .next t ∧
      Announced s t g (x.gcyc + x.h) .watchdog k) ∧
    (¬limit → exec (.watchdogThreshold k) s = .next s) ∧
    (c.owed + 1 < 4 → exec (.refreshOwedIncrement k) s = .next (setCore s k { c with owed := c.owed + 1 })) ∧
    (4 ≤ c.owed + 1 → exec (.refreshOwedIncrement k) s = .next (post (setCore s k { c with owed := 4 })
      ⟨.gang g, gcycOf s k, phIssue - 5, none, .deed (.refreshOverdue k)⟩)) ∧
    (∀ j, c.frozenAt = none → let t := performDeed s j (.refreshOverdue k)
      t.agenda = s.agenda ∧ (∃ h ∈ (gangOf t g).holds, h.th = gcycOf s k + 1 ∧ h.released = none) ∧
      ∃ r ∈ (coreOf t k).raised, r.code = 0x0C ∧ r.charge = gcycOf s k) ∧
    (let q := logPage s x.vdid
     ∃ t, exec (.recordQueueDrain k) s = .next t ∧ coreOf t k = { c with records := [] } ∧
      (∀ j, j ≠ k → coreOf t j = coreOf s j) ∧ t.gangs = s.gangs ∧ t.agenda = s.agenda ∧
      ∀ n, logSize (partOf s q) = some n → dmaBlocked s q = false → ((partOf s q).evHead - (partOf s q).evTail).toNat + c.records.length ≤ n →
        (partOf t q).evHead = (partOf s q).evHead + BitVec.ofNat 32 c.records.length ∧
        (partOf t q).evLost = (partOf s q).evLost) ∧
    (c.frozenAt = none → exec (.minderFaultRecord k) s = .next s) ∧
    (c.frozenAt ≠ none → g ≠ noGang → x.hasRun = true → ∃ t, exec (.minderFaultRecord k) s = .next t ∧ Torn s t g ∧
      (gangOf t g).lastFault = some (k, x.reqIndex, c.fault))) ∧
  (∀ (s : State) (g : Nat),
    let x := gangOf s g
    let ended := x.hasRun = true ∧ ∀ k ∈ gangCores s g, (coreOf s k).running = false
    (¬ended → exec (.runComplete g) s = .next s) ∧
    (ended → runOver s g = false → let again : Job := ⟨.gang g, x.gcyc + 1, phHub, none, .event (.runComplete g)⟩
      (coresOver s g = false → exec (.runComplete g) s = .next (post s again)) ∧
      (coresOver s g = true → ∃ t, exec (.runComplete g) s = .next t ∧ t.cores = s.cores ∧ again ∈ t.agenda)) ∧
    (ended → runOver s g = true → ∃ t, exec (.runComplete g) s = .next t ∧ (gangOf t g).mode = .idle ∧
      (gangOf t g).hasRun = false ∧ (gangOf t g).tears = 0 ∧ ScratchSame s t ∧
      ∀ a b, isLeader s g = true → (ctxOf s x.ctx).protect = false → devAddr s x.ctx x.req.fence = some a → devAddr s x.ctx (x.runlist + 8) = some b →
        b + 4 ≤ a ∨ a + 8 ≤ b →
        devBytes t a 8 = leBytes 8 (x.req.fnum % 2 ^ 48) ∧ devBytes t b 4 = leBytes 4 (x.reqIndex + 1)))

/-- R22 to R25, R29, R212, R242, R263, R268: a freeze stops gang time in the hold's cycle and the controllers attach a hold of
their own; time resumes at the greatest P_res = max(F + 1, S + H) of the attached holds, once all are released, the bundles due
then issue (after a debugging stop with INEXACT set), and captured frames come back in their cycles; a hold that arose after the
last RELEASE is announced anew. A HOLD that comes past its cycle tears the gang down, and so does ABORTGANG. (Model's choices it
rests on: log entries 38, 39, 81 and 83.) -/
def Obligations.HoldsStopAndResumeTime : Prop :=
  (∀ (s : State) (g : Nat),
    let x := gangOf s g
    let n := x.holdSeq * 4096 + chipOf s
    (x.mode ≠ .running → exec (.holdFreeze g) s = .next s) ∧
    (x.mode = .running → ∃ t due, exec (.holdFreeze g) s = .next t ∧ t.cores = s.cores ∧ s.pod < due ∧
      (∀ m, m ≠ g → gangOf t m = gangOf s m) ∧ (∀ j ∈ s.agenda, j ∈ t.agenda) ∧
      ⟨.pod, due, phHub, none, .deed (.controllersRelease g n)⟩ ∈ t.agenda ∧
      gangOf t g = { x with
        mode := .held, frozenAt := x.gcyc, frozenPod := s.pod, resume := none, holdSeq := x.holdSeq + 1
        holds := x.holds ++ [⟨n, x.gcyc, .dram, s.pod, controllerKey, none⟩], rows := (gangOf t g).rows }) ∧
    (∀ m j, (∃ h ∈ x.holds, h.number = m ∧ h.released = none) →
      ∀ h ∈ (gangOf (performDeed s j (.controllersRelease g m)) g).holds, h.number = m → h.released = some s.pod) ∧
    (∀ h, h ∈ attachedHolds x ↔ h ∈ x.holds ∧ h.th = x.frozenAt ∧ ∀ u, lastRelease x = some u → h.origin ≤ u) ∧
    (∀ u, lastRelease x = some u → ∀ h ∈ x.holds, h.th = x.frozenAt → u < h.origin ∨ ∃ r, h.released = some r ∧ r ≤ u) ∧
    (holdsFinal x = true ↔ ∀ h ∈ attachedHolds x, h.released ≠ none) ∧
    (x.swapIn = none → ∀ p, resumeCycle x ≤ p ↔ x.frozenPod + 1 ≤ p ∧ ∀ h ∈ attachedHolds x, ∀ r, h.released = some r → r + x.h ≤ p)) ∧
  (∀ (s : State) (g : Nat), canonical s → g ≠ noGang →
    let x := gangOf s g
    let due := x.mode = .held ∧ x.resume = some s.pod ∧ holdsFinal x = true
    (¬due → exec (.holdResume g) s = .next s) ∧
    (due → ∃ t, exec (.holdResume g) s = .next t ∧ ScratchSame s t ∧ (∀ n, n ≠ g → gangOf t n = gangOf s n) ∧
      (gangOf t g).mode = .running ∧ (gangOf t g).gcyc = x.gcyc ∧ (gangOf t g).resume = none ∧
      (gangOf t g).fsa = [] ∧
      (∀ f ∈ x.fsa, ⟨.gang g, f.arrive, framePhase f, none, .event (.fsaReinject g f)⟩ ∈ t.agenda) ∧
      (∀ h ∈ x.holds, h.th ≠ x.frozenAt → h ∈ (gangOf t g).holds) ∧
      (∀ h ∈ (gangOf t g).holds, h ∈ x.holds ∧ h.th ≠ x.frozenAt ∨ h.th = x.frozenAt + x.h ∧ h.released = none) ∧
      ∀ k, (coreOf s k).gang = g → (coreOf s k).running = true → (coreOf s k).stopped = false →
        coreOf t k = (if (attachedHolds x).any (fun h => decide (h.cause = .debug)) then
          { coreOf s k with dbg := (coreOf s k).dbg ||| 2 } else coreOf s k) ∧
        ∃ j ∈ t.agenda, j.core = some k ∧ j.due = x.gcyc ∧ j.task = .deed .begin)) ∧
  (∀ (s : State) (g number th origin : Nat) (cause : HoldCause),
    let x := gangOf s g
    let late := x.mode ≠ .held ∧ th < x.gcyc ∨ x.mode = .held ∧ th < x.frozenAt
    let y := { x with holds := x.holds ++ [⟨number, th, cause, origin, farKey, none⟩] }
    (late → x.hasRun = true → ∃ t, exec (.hold g number th cause origin) s = .next t ∧ Torn s t g) ∧
    (¬late → x.mode ≠ .held → ∃ t, exec (.hold g number th cause origin) s = .next t ∧ t.cores = s.cores ∧ t.hub = s.hub ∧
      gangOf t g = y ∧ (∀ n, n ≠ g → gangOf t n = gangOf s n) ∧ t.agenda = s.agenda ++
        (if x.mode = .running ∧ th = x.gcyc then [⟨.pod, s.pod, phFreeze, none, .event (.holdFreeze g)⟩] else [])) ∧
    (x.mode = .held → th = x.frozenAt → (∀ u, lastRelease x = some u → origin ≤ u) →
      ∃ t, exec (.hold g number th cause origin) s = .next t ∧ t.cores = s.cores ∧ t.hub = s.hub ∧ t.agenda = s.agenda ∧
        gangOf t g = { y with resume := none } ∧ ∀ n, n ≠ g → gangOf t n = gangOf s n)) ∧
  (∀ (s : State) (g number origin : Nat),
    let x := gangOf s g
    let y := { x with holds := x.holds.map fun h => if h.number = number then { h with released := some origin } else h }
    ∃ t, exec (.release g number origin) s = .next t ∧ t.cores = s.cores ∧ (∀ n, n ≠ g → gangOf t n = gangOf s n) ∧
      (x.mode ≠ .held → gangOf t g = y ∧ t.agenda = s.agenda) ∧
      (x.mode = .held → holdsFinal y = false → gangOf t g = { y with resume := none } ∧ t.agenda = s.agenda) ∧
      (x.mode = .held → holdsFinal y = true →
        gangOf t g = { y with resume := some (max s.pod (resumeCycle y)) } ∧
        t.agenda = s.agenda ++ [⟨.pod, max s.pod (resumeCycle y), phFreeze, none, .event (.holdResume g)⟩])) ∧
  (∀ (s : State) (g : Nat) (cls : EventClass),
    ((gangOf s g).hasRun = false → exec (.abortgang g cls) s = .next s) ∧
    ((gangOf s g).hasRun = true → ∃ t, exec (.abortgang g cls) s = .next t ∧ Torn s t g))

/-- R162, R254 to R259: the leader's PREPARE goes out at B − 65,536 with the halt cycle, deadline and flags of its rule; a
member of an out-vote arms the freeze, captures what is on its way at the freeze, and votes after its drain window with its
counts; a member of an in-vote votes once it knows that its core set is free.
(Model's choices it rests on: log entries 36, 38, 75, 78 and 83.) -/
def Obligations.VotesSent : Prop :=
  (∀ (s : State) (g : Nat),
    let x := gangOf s g
    let b := s.pod + 65536
    let len := 2 ^ (authOf s).slotExp
    let v : VoteFrame := ⟨g, false, x.vote.drain, x.vote.force, b / len % 2 ^ 16, s.pod, 0, 0, x.memberCount - 1, chipOf s, 0, 0, 0,
      0, 0⟩
    let sends := fun (t : State) (v : VoteFrame) (deadline : Instr) =>
      ⟨.pod, s.pod, phHub, none, .event (.prepare v)⟩ ∈ t.agenda ∧ ⟨.pod, v.deadline, phEnd, none, .event deadline⟩ ∈ t.agenda ∧
        t.cores = s.cores
    let drain := x.mode = .running ∧ ∃ e ∈ x.loops, e.kind = 0 ∧ e.drain = true
    let leaves := onSet x = true ∧ x.hasRun = true ∧ x.vote.stage = .run
    (¬leaves → exec (.prepareSend g false) s = .next s) ∧
    (leaves → ∃ t w, exec (.prepareSend g false) s = .next t ∧ t.gangs = s.gangs ∧ sends t w (.outVoteDeadline g) ∧
      (w.drain = true ↔ drain) ∧ w.force = (x.byBackfill || x.goesOn.2.2 || decide (2 ≤ x.npAborts)) ∧ w.deadline = b - 16384 ∧
      (x.mode = .held → w.tHalt = x.frozenAt) ∧
      (x.mode = .running → (drain → w.tHalt = x.gcyc + x.h + 16384) ∧ (¬drain → w.tHalt = x.gcyc + x.h)) ∧
      w = { v with drain := w.drain, force := w.force, tHalt := w.tHalt, deadline := w.deadline }) ∧
    (let w := { v with dirIn := true, deadline := b + len - 131072 }
     (onSet x = false → x.hasRun = true → ∃ t, exec (.prepareSend g true) s = .next t ∧ t.gangs = s.gangs ∧
        sends t w (.inVoteDeadline g)) ∧
     (∀ r n img, onSet x = false → x.hasRun = false → readiness s g = .yes r n → admission s g r = .ok img →
        ∃ t, exec (.prepareSend g true) s = .next t ∧ gangOf t g = { x with req := r, reqIndex := n, cores := img.cores } ∧
          sends t w (.inVoteDeadline g)))) ∧
  (∀ (s : State) (v : VoteFrame),
    let g := v.gang
    let x := gangOf s g
    (v.dirIn = false → x.hasRun = true → x.mode = .running →
      (v.tHalt < x.gcyc → ∃ t, exec (.prepare v) s = .next t ∧ Torn s t g) ∧
      (x.gcyc ≤ v.tHalt → ∃ t, exec (.prepare v) s = .next t ∧
        gangOf t g = { x with
          holds := x.holds ++ [⟨2 ^ 64 + v.switchNo, v.tHalt, .switch, v.origin, farKey, none⟩]
          vote := { stage := .armed, switchNo := v.switchNo, tHalt := v.tHalt, deadline := v.deadline,
                    boundary := v.deadline + 16384, force := v.force, drain := v.drain } } ∧
        (v.drain = false → t.cores = s.cores) ∧ ScratchSame s t ∧
        ⟨.pod, v.deadline + x.h, phEnd, none, .event (.voteDeadline g)⟩ ∈ t.agenda ∧
        (x.gcyc = v.tHalt → ⟨.pod, s.pod, phFreeze, none, .event (.holdFreeze g)⟩ ∈ t.agenda ∧
          ⟨.pod, s.pod, phHub, none, .event (.switchFreeze g)⟩ ∈ t.agenda))) ∧
    (v.dirIn = true → onSet x = false → gangExists s g = true → x.hasRun = true →
      let b := v.deadline + 131072 - 2 ^ (authOf s).slotExp
      let row := rowAt (authOf s) b
      gangMayEnter s g = true → cellTakes s row g = true → ∃ t, exec (.prepare v) s = .next t ∧ t.cores = s.cores ∧
        (gangOf t g).vote.stage = .entering ∧ (gangOf t g).vote.switchNo = v.switchNo ∧ (gangOf t g).vote.boundary = b ∧
        (gangOf t g).vote.row = row ∧ gangOf t g = { x with vote := (gangOf t g).vote })) ∧
  (∀ (s : State) (g : Nat),
    let x := gangOf s g
    let votes := fun (t : State) (w : VoteFrame) => leaderOf s g = chipOf s →
      ⟨.pod, s.pod, phHub, none, .event (.vote w)⟩ ∈ t.agenda
    let v : VoteFrame := ⟨g, false, x.vote.drain, x.vote.force, x.vote.switchNo % 2 ^ 16, s.pod, 0, 0, x.memberCount - 1, chipOf s,
      0, 0, 0, 0, 0⟩
    (x.vote.stage ≠ .armed → exec (.switchFreeze g) s = .next s) ∧
    (x.vote.stage = .armed → ∃ t, exec (.switchFreeze g) s = .next t ∧ ScratchSame s t ∧
      (gangOf t g).vote = { x.vote with stage := .draining, frozen := s.pod } ∧
      ⟨.pod, s.pod + x.drainWin, phHub, none, .event (.voteSend g false)⟩ ∈ t.agenda ∧
      (∀ j ∈ t.agenda, ofGang g j = true → arrivingFrame j.task = none) ∧
      ∀ f, (s.agenda.filter (ofGang g)).filterMap (fun j => arrivingFrame j.task) = [f] → f.gang = g → fsaFits x f = true →
        (gangOf t g).fsa = x.fsa ++ [f] ∧ tget 0 (gangOf t g).capt f.link.val = tget 0 x.capt f.link.val + 1) ∧
    (x.vote.stage ≠ .draining → exec (.voteSend g false) s = .next s) ∧
    (x.vote.stage = .draining → ∃ t, ∃ need < 2 ^ 32, exec (.voteSend g false) s = .next t ∧ t.cores = s.cores ∧
      gangOf t g = { x with vote := { x.vote with stage := .voted, need := need } } ∧
      votes t { v with verdict := BitVec.ofNat 4 (outVerdict s g), sent := linkSum x.sent,
                       ended := linkSum x.recv + linkSum x.capt, need := need }) ∧
    (x.vote.stage ≠ .entering → exec (.voteSend g true) s = .next s) ∧
    let admits := packageOpen s = true ∧ shutOut s x.vdid (max s.pod x.vote.boundary) = false ∧ setKnown s g = some true
    (x.vote.stage = .entering → x.faulted = false → admits → overRated s g = false →
      ∃ t, ∃ ready ≥ max s.pod (tget 0 s.hub.setFree x.coreset), exec (.voteSend g true) s = .next t ∧ t.cores = s.cores ∧
        gangOf t g = { x with vote := { x.vote with stage := .entered, ready := ready } } ∧
        (sleepingIslands s g ≠ [] → s.pod + 480000 ≤ ready) ∧
        (∀ i ∈ sleepingIslands s g, ⟨.pod, s.pod + 480000, phHub, none, .event (.islandWake (Fin.ofNat 16 i))⟩ ∈ t.agenda) ∧
        votes t { v with dirIn := true, need := ready - s.pod }) ∧
    (x.vote.stage = .entering → x.faulted = false → (houseOf s).emergency = true ∨ admits ∧ overRated s g = true →
      ∃ t, exec (.voteSend g true) s = .next t ∧ t.cores = s.cores ∧ votes t { v with dirIn := true, verdict := 6 }))

/-- R258, R259, R263, R264: the leader commits when every VOTE is YES and the counts agree, and aborts on a NO, on counts that
differ and at the deadline; COMMIT schedules the swap or the start, ABORT releases the switch hold and keeps the captured
frames for the resume; a member without a decision by the deadline + H takes its leader for dead. (Model's choices it rests on:
log entries 38 and 69.) -/
def Obligations.VotesDecided : Prop :=
  ∀ (s : State),
    let at' := fun (i : Instr) (p : Nat) => (⟨.pod, p, phHub, none, .event i⟩ : Job)
    (∀ (v : VoteFrame),
      let g := v.gang
      let x := gangOf s g
      let vs := x.vote.received ++ [v]
      let takesOut := x.vote.stage = .armed ∨ x.vote.stage = .draining ∨ x.vote.stage = .voted
      let takesIn := x.vote.stage = .entering ∨ x.vote.stage = .entered
      let counts := isLeader s g = true ∧ x.vote.switchNo = v.switchNo ∧ (if v.dirIn then takesIn else takesOut)
      let w : VoteFrame := ⟨g, v.dirIn, x.vote.drain, x.vote.force, v.switchNo % 2 ^ 16, s.pod, 0, 0, x.memberCount - 1, chipOf s, 0,
        0, 0, 0, 0⟩
      (¬counts → exec (.vote v) s = .next s) ∧
      (counts → vs.length < x.memberCount →
        exec (.vote v) s = .next (setGang s g { x with vote := { x.vote with received := vs } })) ∧
      (counts → x.memberCount ≤ vs.length → ∃ t, exec (.vote v) s = .next t ∧ t.cores = s.cores ∧
        gangOf t g = { x with vote := { x.vote with received := vs } } ∧
        ((∀ u ∈ vs, u.verdict = 0) → v.dirIn = false →
          ((vs.map (·.sent)).sum = (vs.map (·.ended)).sum → at' (.commit { w with tSwap := s.pod + x.h }) s.pod ∈ t.agenda) ∧
          ((vs.map (·.sent)).sum ≠ (vs.map (·.ended)).sum →
            at' (.abort { w with verdict := 3, chip := 0 }) s.pod ∈ t.agenda)) ∧
        ((∀ u ∈ vs, u.verdict = 0) → v.dirIn = true → x.hasRun = true → s.hub.delayed = false →
          let T := vs.foldl (fun t u => max t (u.origin + u.need)) (max x.vote.boundary (s.pod + x.h))
          (T < x.vote.boundary + 2 ^ (authOf s).slotExp - 65536 → at' (.commit { w with tSwap := T }) s.pod ∈ t.agenda) ∧
          (x.vote.boundary + 2 ^ (authOf s).slotExp - 65536 ≤ T →
            at' (.abort { w with verdict := 7, chip := 0 }) s.pod ∈ t.agenda)) ∧
        (∀ u, firstNo vs = some u → u ∈ vs ∧ u.verdict ≠ 0 ∧ (∀ u' ∈ vs, u'.verdict ≠ 0 → u.chip ≤ u'.chip) ∧
          at' (.abort { w with verdict := u.verdict, chip := u.chip }) s.pod ∈ t.agenda)) ∧
      (v.dirIn = false → x.vote.stage ≠ .voted → exec (.commit v) s = .next s) ∧
      (v.dirIn = false → x.vote.stage = .voted → ∃ t, exec (.commit v) s = .next t ∧ t.cores = s.cores ∧
        gangOf t g = { x with
          vote := { x.vote with stage := .swapping, swap := v.tSwap }, npAborts := 0, ownAborts := 0 } ∧
        tget 0 t.hub.setFree x.coreset = v.tSwap + x.vote.need ∧ at' (.contextSave g) v.tSwap ∈ t.agenda) ∧
      (v.dirIn = true → x.vote.stage = .entered → ∃ t, exec (.commit v) s = .next t ∧ t.cores = s.cores ∧
        gangOf t g = { x with vote := { x.vote with stage := .starting, swap := v.tSwap } } ∧
        at' (.switchIn g) v.tSwap ∈ t.agenda) ∧
      (v.dirIn = false → takesOut → ∃ t, exec (.abort v) s = .next t ∧ ScratchSame s t ∧
        let y := gangOf t g
        y.vote.stage = .run ∧ y.swAborted = x.swAborted + 1 ∧ y.fsa = x.fsa ∧
        y.npAborts = (if v.verdict = 2 then x.npAborts + 1 else 0) ∧
        y.holds = x.holds.map (fun h => if h.number = 2 ^ 64 + v.switchNo then { h with released := some v.origin } else h) ∧
        (x.vote.stage = .armed → t.cores = s.cores)) ∧
      (v.dirIn = true → takesIn → ∃ t, exec (.abort v) s = .next t ∧ t.cores = s.cores ∧ t.agenda = s.agenda ∧
        (gangOf t g).vote.stage = (if x.hasRun then .out else .run))) ∧
    (∀ g,
      let x := gangOf s g
      let late := isLeader s g = true ∧ x.vote.deadline = s.pod ∧ x.vote.received.length < x.memberCount
      let w : VoteFrame :=
        ⟨g, false, x.vote.drain, x.vote.force, x.vote.switchNo % 2 ^ 16, s.pod, 0, 0, x.memberCount - 1, 0, 7, 0, 0, 0, 0⟩
      (late → x.vote.stage = .armed ∨ x.vote.stage = .draining ∨ x.vote.stage = .voted →
        ∃ t, exec (.outVoteDeadline g) s = .next t ∧ t.cores = s.cores ∧ t.gangs = s.gangs ∧ at' (.abort w) s.pod ∈ t.agenda) ∧
      (late → x.vote.stage = .entering ∨ x.vote.stage = .entered →
        ∃ t, exec (.inVoteDeadline g) s = .next t ∧ t.cores = s.cores ∧ t.gangs = s.gangs ∧
          at' (.abort { w with dirIn := true }) s.pod ∈ t.agenda) ∧
      (¬late → exec (.outVoteDeadline g) s = .next s ∧ exec (.inVoteDeadline g) s = .next s) ∧
      (¬(x.vote.stage = .voted ∧ x.vote.deadline + x.h = s.pod) → exec (.voteDeadline g) s = .next s) ∧
      (x.vote.stage = .voted → x.vote.deadline + x.h = s.pod → x.hasRun = true → ∃ t, exec (.voteDeadline g) s = .next t ∧
        Torn s t g ∧ tget false (fabOf t).dead (leaderOf s g) = true))

/-- R248, R258, R259, R263, R266, R295, R302, R308: at T_swap every core of the gang is vacated, its image kept and its scratch
left in place; at T_start the images come back and gang time stands at its frozen cycle, or a new run begins at gang cycle 0.
At a slot boundary the row's written cells take effect and withdrawn contexts are torn down; captured frames and replay entries
perform as the effects they stand for. (Model's choices it rests on: log entries 55, 59, 69, 101 and 103.) -/
def Obligations.SwitchingSavesAndRestores : Prop :=
  (∀ (s : State) (g : Nat), canonical s → g ≠ noGang →
    let x := gangOf s g
    (¬(x.vote.stage = .swapping ∧ x.vote.swap ≤ s.pod) → exec (.contextSave g) s = .next s) ∧
    (x.vote.stage = .swapping → x.vote.swap ≤ s.pod → ∃ t, exec (.contextSave g) s = .next t ∧ ScratchSame s t ∧
      (gangOf t g).mode = .out ∧ (gangOf t g).gcyc = x.gcyc ∧ (gangOf t g).hasRun = x.hasRun ∧
      ∀ k, if (coreOf s k).gang = g then
          coreOf t k = vacantCore (coreOf s k) 0 ∧ tget {} t.hub.images (x.ctx * 1024 + k) = imageOf (coreOf s k)
        else coreOf t k = if k ∈ setCores s x.coreset then { coreOf s k with dramCmds := [] } else coreOf s k)) ∧
  (∀ (s : State) (g : Nat),
    let x := gangOf s g
    let starts := x.vote.stage = .starting ∧ x.vote.swap ≤ s.pod
    (¬starts → exec (.switchIn g) s = .next s) ∧
    (starts → (houseOf s).emergency = true → x.hasRun = true → ∃ t, exec (.switchIn g) s = .next t ∧ Torn s t g) ∧
    (∀ k img, starts → (houseOf s).emergency = false → x.hasRun = true → (ctxOf s x.ctx).badImage = false → k < 1024 →
      s.hub.images.filter (fun e => e.1 / 1024 = x.ctx) = [(x.ctx * 1024 + k, img)] →
      ∃ t, exec (.switchIn g) s = .next t ∧ (gangOf t g).mode = .held ∧ (gangOf t g).gcyc = x.gcyc ∧
        (gangOf t g).swIn = x.swIn + 1 ∧ (gangOf t g).fsa = x.fsa ∧ (gangOf t g).vote.stage = .run ∧
        (∀ h ∈ (gangOf t g).holds, h.cause = .switch → h.released ≠ none) ∧
        let d := coreOf t k
        d.s = img.s ∧ d.v = img.v ∧ d.k = img.k ∧ d.p = img.p ∧ d.ports = img.ports ∧ d.pc = img.pc ∧
          d.streams = img.streams ∧ d.mx = img.mx ∧ d.gang = img.gang) ∧
    (∀ img, starts → (houseOf s).emergency = false → x.hasRun = false → admission (openWindow s g) g x.req = .ok img → ∃ t, exec (.switchIn g) s = .next t ∧
      (gangOf t g).mode = .running ∧ (gangOf t g).gcyc = 0 ∧ (gangOf t g).hasRun = true ∧ (gangOf t g).swIn = 1 ∧
      (gangOf t g).cores = img.cores)) ∧
  (∀ (s : State),
    let row := rowNow s
    let a := authOf s
    ∃ t, exec .slotBoundary s = .next t ∧ t.hub.delayed = false ∧ t.pod = s.pod ∧ ScratchSame s t ∧
      (authOf t).newCells = a.newCells.filter (fun e => e.1 / 16 ≠ row) ∧
      (∀ key, (∀ e ∈ a.newCells, e.1 = key → key / 16 ≠ row) → tget 0 (authOf t).cells key = tget 0 a.cells key) ∧
      (∀ e ∈ a.newCells, e.1 / 16 = row → (∀ e' ∈ a.newCells, e'.1 = e.1 → e' = e) → tget 0 (authOf t).cells e.1 = e.2) ∧
      (∀ y, (ctxOf t y).doomed = false) ∧
      (∀ y, (ctxOf s y).doomed = true → 0 < (ctxOf s y).gang → (gangOf t ((ctxOf s y).gang - 1)).hasRun = false) ∧
      ((∀ e ∈ a.ctxs, e.2.doomed = false) → t.cores = s.cores ∧ t.agenda = s.agenda)) ∧
  (∀ (s : State) (g k : Nat) (f : Frame),
    let x := gangOf s g
    (ctxOf s x.ctx).gang = g + 1 → x.hasRun = true → f.dstCore < x.cores → capturing x = false →
    coreAt s g f.dstCore = some k → x.mode = .running → x.gcyc = f.arrive → ∃ t, exec (.fsaReinject g f) s = .next t ∧ ScratchSame s t ∧
      tget 0 (gangOf t g).recv f.link.val = tget 0 x.recv f.link.val + 1 ∧
      tget 0 (gangOf t g).capt f.link.val = tget 0 x.capt f.link.val - 1) ∧
  (∀ (s : State) (k : Nat) (e : ReplayEntry),
    let c := coreOf s k
    let v := bytesVal e.size e.data
    (e.kind = 2 → ∀ r, resOf (e.dst % 16) = some r → resultMeets s k r = false → exec (.replayReinject k e) s = .next (setCore s k (setResult c r e.data))) ∧
    (e.kind = 3 → e.dst ≠ xcopyId → isVoided c (gcycOf s k) e.addr e.size = false → ∃ t,
      exec (.replayReinject k e) s = .next t ∧ ScratchBut s t k e.addr (leBytes e.size e.data.toNat)) ∧
    (e.kind = 3 → e.dst = xcopyId → e.size ≠ 0 → e.flagTag = false → ∀ k', coreAt s c.gang (e.addr / 2 ^ 22) = some k' →
      exec (.replayReinject k e) s = exec (.xcopyUnitArrival k' ⟨k, (coreGang s k).ctx, decide (k / 128 = k' / 128),
        e.addr % 2 ^ 22, leBytes e.size e.data.toNat, [], false, true⟩) s) ∧
    (e.kind = 4 → ∀ d, destOf (e.dst / 64) (e.dst % 64) = some d →
      let i : Instr := .move ⟨⟨false, 0⟩, .sreg 0⟩ d
      exec (.replayReinject k e) s = .next (post s ⟨.gang c.gang, gcycOf s k, arrivalPhase i, some k,
        .arrive ⟨i, v, true, c.curCycle.getD 0, c.curBundle, 0, gcycOf s k⟩⟩)) ∧
    (e.kind = 5 → ∃ t, exec (.replayReinject k e) s = .next t ∧ t.agenda = s.agenda ∧ t.hub = s.hub ∧
      (∀ j, j ≠ k → coreOf t j = coreOf s j) ∧ (coreOf t k).p = (setPred c (e.dst % 8) (e.data.getLsbD 0)).p) ∧
    (e.kind = 7 → ∃ t, exec (.replayReinject k e) s = .next t ∧ t.cores = s.cores ∧
      ReadsBut s t (e.dst * 2 ^ 29 + e.addr % 2 ^ 29) (leBytes e.size e.data.toNat)))

/-- R270, R275 to R277, R282, R283, R321: a hart's store that passes the checks is taken and completes within its bound; one
that does not is the hart's access fault, which kills its episode. A publish that completes copies the action's stamps, and a
DONE returns the turn. A start gives an ENV hart its episode, its start address and its counts; an overrun, a deadline, a kill
and an exception end the episode with their status and cause. R284: U-mode reads EPID; any other of its accesses to a Rolna CSR
but a read of STEPUSED traps; a supervisor's write changes the register it names alone.
(Model's choices it rests on: log entries 8, 52, 53 and 86.) -/
def Obligations.HartsStoreAndStart : Prop :=
  (∀ (s : State) (h : Nat),
    let x := hartOf s h
    let p := x.pair
    let takes := fun (t : State) (p off : Nat) (bs : List Byte) => ∃ due a, s.pod < due ∧
      a = (⟨agentId 4 h, .mailbox, true, p * 0x4000 + off, bs, 0, false, 0, s.pod, false⟩ : Untimed) ∧
      (dramOf t).pending = (dramOf s).pending ++ [a] ∧ (envOf t).bytes = (envOf s).bytes ∧ t.cores = s.cores ∧
      ⟨.pod, due, phUntimed, none, .event (.untimedWriteComplete a)⟩ ∈ t.agenda
    let ok := storeAllowed s (hartView s h) x
    let starts := fun (t : State) => hartOf t h = { x with stepUsed := 0, stepFrom := some s.pod } ∧
      (x.stepBudget ≠ 0 → ⟨.pod, s.pod + (4 * (x.stepBudget.toNat + 1) / 5 + 1), phHub, none,
        .event (.stepBudgetOverrun h)⟩ ∈ t.agenda)
    let stops := fun (t : State) => (hartOf t h).stepFrom = none ∧
      ∀ t₀, x.stepFrom = some t₀ → (hartOf t h).stepUsed = BitVec.ofNat 64 (5 * (s.pod - t₀) / 4)
    let waits := x.role = .env ∧ fenceHolds s h = true
    let again := fun (i : Instr) bs => exec i s = .next (post s ⟨.pod, s.pod + 1, phUntimed, none,
      .event (.untimedAccessReceive ⟨agentId 4 h, .mailbox, true, p * 0x4000 + 0x200C, bs, 0, false, 0, 0, false⟩)⟩)
    (ok p 0x0C [2] = true → ∃ t, exec (.hartTakenStore h) s = .next t ∧ takes t p 0x0C [2] ∧ starts t) ∧
    (∀ off bs, (off = 0x200C → ¬waits) → ok p off bs = true → ∃ t, exec (.hartObservationStore h off bs) s = .next t ∧
      takes t p off bs ∧ (off = 0x0C → starts t) ∧ (off = 0x200C → stops t) ∧
      (off ≠ 0x0C → off ≠ 0x200C → t.hub.env = s.hub.env)) ∧
    (∀ bs, waits → again (.hartObservationStore h 0x200C bs) bs) ∧
    (∀ done : Bool, waits → again (.hartPublish h done) [if done then 3 else 1]) ∧
    (∀ done : Bool, ¬waits → ok p 0x200C [if done then 3 else 1] = true →
      ∃ t, exec (.hartPublish h done) s = .next t ∧ takes t p 0x200C [if done then 3 else 1] ∧ stops t) ∧
    (∀ q r, ok q 0x2010 (leBytes 4 r.toNat) = true → ∃ t, exec (.checkerRewardStore h q r) s = .next t ∧
      takes t q 0x2010 (leBytes 4 r.toNat)) ∧
    (let faults := fun i => ∃ t, exec i s = .next t ∧ (envOf t).faults = (envOf s).faults ++ [h] ∧
      (x.role = .checker → (hartOf t h).role = .idle ∧ (hartOf t h).running = false) ∧
      (x.role = .env → mbNat s p 0 3 = x.epid.toNat → mbFinal (mbStatus s p 0x2000) = false →
        mbStatus t p 0x2000 = 4 ∧ mbNat t p 0x200E 1 = 3)
     faults (.hartException h) ∧ (ok p 0x0C [2] = false → faults (.hartTakenStore h)) ∧
     (∀ off bs, (off = 0x200C → ¬waits) → ok p off bs = false → faults (.hartObservationStore h off bs)) ∧
     (∀ done : Bool, ¬waits → ok p 0x200C [if done then 3 else 1] = false → faults (.hartPublish h done)) ∧
     (∀ q r, ok q 0x2010 (leBytes 4 r.toNat) = false → faults (.checkerRewardStore h q r)))) ∧
  (∀ (s : State) (a : Untimed),
    let h := a.agent.toNat % 4096
    let p := a.addr / 0x4000
    a.space = .mailbox → a.write = true → a.data ≠ [] → (hartOf s h).role = .env → a.addr % 0x4000 = 0x200C →
    storeAllowed s (envOf s).bytes (hartOf s h) p 0x200C a.data = true → ∃ t, exec (.untimedWriteComplete a) s = .next t ∧
      [BitVec.ofNat 8 (mbStatus t p 0x2000)] = a.data ∧ mbBytes t p 0x2000 12 = mbBytes s p 0 12 ∧
      mbBytes t p 0x2018 8 = mbBytes s p 24 8 ∧ turnOf t p = (if a.data = [3] then false else turnOf s p) ∧
      mbBytes t p 0x3000 4096 = mbBytes s p 0x3000 4096) ∧
  (∀ (s : State) (h : Nat),
    let x := hartOf s h
    (x.role = .idle → exec (.hartStart h) s = .next s) ∧
    (let pc := x.base + BitVec.ofNat 64 (4 * x.entry)
     x.role = .env → windowBlocked s x = false → x.base ≤ pc → pc < x.limit → ∃ t, exec (.hartStart h) s = .next t ∧
      t.cores = s.cores ∧ (envOf t).bytes = (envOf s).bytes ∧
      hartOf t h = { x with
        epid := BitVec.ofNat 24 (mbNat s x.pair 0 3), pc := pc, x := (hartOf t h).x, running := true, stepUsed := 0
        stepFrom := none, epUsed := 0, epFrom := some s.pod } ∧
      (∀ r, tget 0 (hartOf t h).x r =
        if r = 10 then BitVec.ofNat 64 (0x4000000000 + x.pair * 0x4000) else if r = 11 then x.base else tget 0 x.x r) ∧
      (x.epBudget ≠ 0 → ⟨.pod, s.pod + (4 * (x.epBudget.toNat + 1) / 5 + 1), phHub, none,
        .event (.episodeBudgetOverrun h)⟩ ∈ t.agenda)) ∧
    (let pc := x.chkBase + BitVec.ofNat 64 (4 * x.entry)
     x.role = .checker → x.chkBase ≤ pc → pc < x.chkLimit → ∃ t, exec (.hartStart h) s = .next t ∧ t.cores = s.cores ∧
      t.agenda = s.agenda ∧ (hartOf t h).pc = pc ∧ (hartOf t h).running = true ∧
      let a := 0x4000000000 + x.chkFirst * 0x4000 + 0x2000
      ∀ r, tget 0 (hartOf t h).x r =
        if r = 8 then BitVec.ofNat 64 a else if r = 18 then BitVec.ofNat 64 (a + 0x4000 * x.chkCount) else tget 0 x.x r) ∧
    (let kills := fun i (p cause : Nat) => ∃ t, exec i s = .next t ∧ mbStatus t p 0x2000 = 4 ∧ mbNat t p 0x200E 1 = cause ∧
      turnOf t p = false ∧ mbBytes t p 0x3000 4096 = List.replicate 4096 0 ∧
      ∀ k, (hartOf s k).role = .env → (hartOf s k).pair = p → (hartOf t k).running = false
     let passed := fun (b : Word) (since : Option Nat) => x.running = true ∧ b ≠ 0 ∧
      ∃ t₀, since = some t₀ ∧ t₀ + (4 * (b.toNat + 1) / 5 + 1) ≤ s.pod
     let alive := mbFinal (mbStatus s x.pair 0x2000) = false
     (passed x.stepBudget x.stepFrom → alive → kills (.stepBudgetOverrun h) x.pair 1) ∧
     (¬passed x.stepBudget x.stepFrom → exec (.stepBudgetOverrun h) s = .next s) ∧
     (passed x.epBudget x.epFrom → alive → kills (.episodeBudgetOverrun h) x.pair 2) ∧
     (¬passed x.epBudget x.epFrom → exec (.episodeBudgetOverrun h) s = .next s) ∧
     (∀ p, mbFinal (mbStatus s p 0x2000) = false → kills (.supervisorKill p) p 4) ∧
     (∀ p, mbFinal (mbStatus s p 0x2000) = true → exec (.supervisorKill p) s = .next s))) ∧
  (∀ (s : State) (k g q : Nat), k < 1024 →
    let key := k + 1024 * g
    (s.gangs.map (·.1)).find? (fun q => hasHold s q .mbsnap key) = some q →
    let now := ((gangOf s q).mode = .held ∨ (gangOf s q).mode = .out) ∧ (gangOf s q).frozenPod + 1024 * ((grpctlOf s g).toNat / 2 ^ 32) = s.pod
    (¬now → exec (.stepDeadline k g) s = .next s) ∧
    (now → ∃ t, exec (.stepDeadline k g) s = .next t ∧ hasHold t q .mbsnap key = false ∧ t.cores = s.cores ∧
      ∀ i < 64, mbReady s (64 * g + i) = false → mbStatus t (64 * g + i) 0x2000 = 5)) ∧
  (∀ (s : State) (j h : Nat) (rd : Fin 32) (num : Nat) (v : Word),
    let x := hartOf s h
    let does := fun op => performDeed s j (.hartOp h op)
    let traps := fun op => (envOf (does op)).faults = (envOf s).faults ++ [h]
    (rd.val ≠ 0 → ∀ user, tget 0 (hartOf (does (.csrRead rd 0x5C1 user)) h).x rd.val = x.epid.setWidth 64) ∧
    (0x5C0 ≤ num → num ≤ 0x5CB → num ≠ 0x5C1 → num ≠ 0x5C7 → traps (.csrRead rd num true)) ∧
    (0x5C0 ≤ num → num ≤ 0x5CB → traps (.csrWrite num v true)) ∧
    hartOf (does (.csrWrite 0x5C5 v false)) h = { x with stepBudget := v } ∧
    hartOf (does (.csrWrite 0x5C7 v false)) h = x ∧
    (let t := does (.csrWrite 0x5C0 v false)
     hartCsr t (hartOf t h) 0x5C0 = some (BitVec.ofNat 64 (v.toNat % 4)) ∧
      ((hartOf t h).role = .idle ↔ v.toNat % 4 = 0 ∨ v.toNat % 4 = 3)) ∧
    (∀ n ∈ [0x5C3, 0x5C4, 0x5C9, 0x5CA], let t := does (.csrWrite n v false)
      hartCsr t (hartOf t h) n = some v) ∧
    (rd.val ≠ 0 → hartOf (does (.reg rd v)) h = { x with x := tset 0 x.x rd.val v }) ∧
    (rd.val = 0 → hartOf (does (.reg rd v)) h = x)) ∧
  (∀ (s : State) (p : Nat), ∃ t, exec (.episodeScrub p) s = .next t ∧ t.cores = s.cores ∧ (envOf t).bytes = (envOf s).bytes ∧
    (∀ j ∈ s.agenda, j ∈ t.agenda) ∧
    ∀ w ∈ (envOf s).ended, w.1 = p → (w.2.1, w.2.2.1) ∉ (envOf t).blocked ∧
      (bdV w.2.2.2 = true → bdEnv w.2.2.2 = true → ∀ b, homeAddr w.2.2.2 0 ≤ b → b < homeAddr w.2.2.2 0 + 2 ^ 21 →
        tget 0 (dramOf t).bytes b = 0))

/-- R318, R319, R338, R248, R322 to R326: a page register takes what its row gives, and no other; unmasking sends a pending
message; ROWS and k change within their ranges; a VF moves between its TDISP states as the table of R323 says, its contexts
torn down where it says so. (Model's choices it rests on: log entries 5, 15, 37, 54, 65, 73 and 105.) -/
def Obligations.PagesAndLinkSecurityTakeEffect : Prop :=
  (∀ (s : State) (p off : Nat) (v : Word), (houseOf s).recovery = true → exec (.registerWrite p off v) s = .next s) ∧
  (∀ (s : State) (p : Nat) (v : Word), (houseOf s).recovery = false →
    let writes := fun off (y : Partition) => exec (.registerWrite p off v) s = .next (setPart s p y)
    let x := partOf s p
    writes 0x010 { x with arg0 := v } ∧ writes 0x018 { x with arg1 := v } ∧ writes 0x020 { x with arg2 := v } ∧
    writes 0x028 { x with arg3 := v } ∧ writes 0x040 { x with evBase := v &&& 0xFFFFFFFFFFFFFF80 } ∧
    writes 0x048 { x with evSize := v.toNat % 32 } ∧ writes 0x058 { x with evTail := v.setWidth 32 } ∧
    (v.getLsbD 63 = true → writes 0x060 { x with evLost := 0 }) ∧
    (v.getLsbD 63 = false → exec (.registerWrite p 0x060 v) s = .next s) ∧
    exec (.registerWrite p 0x008 v) s = .next (pacmd p (v.toNat % 256) s) ∧
    (p ≠ 0 → ∀ off ≥ 0x068, off < 0x10000 → exec (.registerWrite p off v) s = .next s) ∧
    (levelOf p = 1 → ∀ i < 16, ∀ off < 0x10000,
      exec (.registerWrite p (0x10000 * (i + 1) + off) v) s = exec (.registerWrite (16 * vfOf p + i) off v) s) ∧
    (∃ t, exec (.registerWrite 0 0x100 v) s = .next t ∧ (houseOf t).pcap = v.toNat % 2 ^ 13 ∧ t.cores = s.cores ∧
      t.gangs = s.gangs ∧ t.agenda = s.agenda ∧
      ∀ q, (partOf t q).power ≤ (partOf s q).power ∧ (levelOf q = 1 → (partOf t q).power ≤ min 4200 (max 1000 (v.toNat % 2 ^ 13)))) ∧
    exec (.registerWrite 0 0x128 v) s = .next (setHouse s { houseOf s with errwin := v.toNat % 256 })) ∧
  (∀ (s : State) (p n : Nat),
    let x := partOf s p
    (n ≠ (vectorOf p).2 → exec (.msixVectorUnmask p n) s = .next s) ∧
    (n = (vectorOf p).2 → ∃ t, exec (.msixVectorUnmask p n) s = .next t ∧ t.cores = s.cores ∧ t.agenda = s.agenda ∧
      partOf t p = { x with vecMasked := false, vecPending := false } ∧
      (authOf t).messages = (authOf s).messages ++ if x.vecPending then [vectorOf p] else [])) ∧
  (∀ (s : State) (rows k : Nat),
    let fits := 1 ≤ rows ∧ rows ≤ 64 ∧ 20 ≤ k ∧ k ≤ 31
    (fits → exec (.slotMatrixRowsAndLength rows k) s = .next (setAuth s { authOf s with rows := rows, slotExp := k })) ∧
    (¬fits → exec (.slotMatrixRowsAndLength rows k) s = .next s)) ∧
  (∀ (s : State) (v : Nat),
    let st := tdispOf s v
    let locked := st = .locked ∨ st = .run
    let goes := fun i (new : Tdisp) => ∃ t, exec i s = .next t ∧ ScratchSame s t ∧ ∀ u, tdispOf t u = if u = v then new else tdispOf s u
    let torn := fun i => ∀ x g, x ∈ vfContexts s v → (ctxOf s x).gang = g + 1 → ∃ t, exec i s = .next t ∧
      (gangOf t g).hasRun = false
    (st = .unlocked → goes (.lockInterfaceRequest v) .locked) ∧ (st ≠ .unlocked → exec (.lockInterfaceRequest v) s = .next s) ∧
    (st = .locked → goes (.startInterfaceRequest v) .run) ∧ (st ≠ .locked → exec (.startInterfaceRequest v) s = .next s) ∧
    (locked → torn (.stopInterfaceRequest v)) ∧
    (locked → (∀ x ∈ vfContexts s v, (ctxOf s x).protect = false ∧ scrubbing s x = false) →
      goes (.stopInterfaceRequest v) .unlocked) ∧
    (st = .unlocked → exec (.stopInterfaceRequest v) s = .next s) ∧
    (st = .error → (∃ x ∈ vfContexts s v, scrubbing s x = true) → exec (.stopInterfaceRequest v) s =
      .next (post s ⟨.pod, s.pod + 1, phHub, none, .deed (.tdispStop v)⟩)) ∧
    (st = .error → (∀ x ∈ vfContexts s v, scrubbing s x = false) → goes (.stopInterfaceRequest v) .unlocked) ∧
    (locked → goes (.frozenConfigurationChange v) .error ∧ torn (.frozenConfigurationChange v)) ∧
    (¬locked → exec (.frozenConfigurationChange v) s = .next s) ∧
    torn (.functionLevelReset v) ∧
    ((∀ x ∈ vfContexts s v, (ctxOf s x).protect = false ∧ scrubbing s x = false) → goes (.functionLevelReset v) .unlocked) ∧
    (1 ≤ v → (∃ x ∈ vfContexts s v, scrubbing s x = true) →
      goes (.functionLevelReset v) (if st = .locked ∨ st = .run then .error else st)) ∧
    (1 ≤ v → v ≤ 64 → locked → goes (.ideIntegrityFailure v) .error ∧ torn (.ideIntegrityFailure v)) ∧
    (1 ≤ v → v ≤ 64 → ¬locked → exec (.ideIntegrityFailure v) s = .next s) ∧
    (v = 0 ∨ 64 < v → ∃ t, exec (.ideIntegrityFailure v) s = .next t ∧ t.cores = s.cores ∧ t.gangs = s.gangs ∧
      (authOf t).tdisp = (authOf s).tdisp) ∧
    (∀ key, v ≤ 65 → exec (.ideKm v key) s = .next (setAuth s { authOf s with ideKeys := tset 0 (authOf s).ideKeys v key })) ∧
    (∃ t bs, exec (.spdmRequest v) s = .next t ∧ (authOf t).reports = (authOf s).reports ++ [(v, bs)] ∧
      bs = (if 1 ≤ v ∧ v ≤ 6 then measurement s v else []) ∧ bs.length = (if 1 ≤ v ∧ v ≤ 6 then 32 else 0) ∧ t.cores = s.cores ∧ t.agenda = s.agenda) ∧
    (∃ t, exec (.getDeviceInterfaceReport v) s = .next t ∧ t.cores = s.cores ∧ t.agenda = s.agenda ∧
      (authOf t).reports = (authOf s).reports ++ [(l1Page v, reportBytes s (l1Page v))]))

/-- R299, R301, R328 to R334, R339: a forecast within the shares holds no gang and one above a share holds gangs for power; a
sample of 110 °C, THW and IEMER tear every running gang down; an island wakes; an error counter falls by 1; a scrub unit is
zeroed; the resets keep what is non-volatile, clear every core, and reach their boot step.
(Model's choices it rests on: log entries 5, 15, 16, 67, 68, 87 and 92.) -/
def Obligations.HousekeepingTakesEffect : Prop :=
  (∀ (s : State) (fs : List (Nat × Nat)), (houseOf s).held = [] →
    ((∀ p, ((freeRunning s p).map (forecastOf fs)).sum ≤ (partOf s p).power) →
      ∃ t, exec (.powerForecast fs) s = .next t ∧ t.gangs = s.gangs ∧ t.cores = s.cores ∧ t.agenda = s.agenda) ∧
    (∀ g, canonical s → (∀ n, n ≠ g → (gangOf s n).hasRun = false) → onSet (gangOf s g) = true → (gangOf s g).hasRun = true →
      hasHold s g .power 0 = false → (partOf s (gangOf s g).vdid).power < forecastOf fs g →
      ∃ t, exec (.powerForecast fs) s = .next t ∧ hasHold t g .power 0 = true ∧ t.cores = s.cores)) ∧
  (∀ (s : State),
    let torn := fun i => ∃ t, exec i s = .next t ∧ (houseOf t).emergency = true ∧ ScratchSame s t ∧
      ∀ g, onSet (gangOf s g) = true → (gangOf s g).hasRun = true → Torn s t g
    torn .thw ∧ torn .iemer ∧ (∀ ts fs, ts.length ≤ 16 → (∃ t ∈ ts, 110 ≤ t) → torn (.thermalSample ts fs)) ∧
    (∀ ts fs, (∀ t ∈ ts, t < 110) → (∀ f ∈ fs, f < 95) → s.gangs = [] → ∃ t, exec (.thermalSample ts fs) s = .next t ∧
      t.cores = s.cores ∧ t.gangs = [] ∧ (houseOf t).tempmax = ts.foldl max 0 % 256) ∧
    (∀ i : Fin 16, ∃ t, exec (.islandWake i) s = .next t ∧ t.cores = s.cores ∧ t.gangs = s.gangs ∧ t.agenda = s.agenda ∧
      ∀ j < 16, (houseOf t).retained.getLsbD j = ((houseOf s).retained.getLsbD j && decide (j ≠ i.val))) ∧
    (∀ u, let l := leakyOf (houseOf s) u
      (l.level = 0 → exec (.errorCounterDecay u) s = .next s) ∧
      (0 < l.level → ∃ t, exec (.errorCounterDecay u) s = .next t ∧ t.cores = s.cores ∧
        (leakyOf (houseOf t) u).level = l.level - 1 ∧ (∀ w, w ≠ u → leakyOf (houseOf t) w = leakyOf (houseOf s) w) ∧
        t.agenda = s.agenda ++ (if l.level = 1 then []
          else [⟨.pod, s.pod + decayTime (houseOf s) u, phHub, none, .event (.errorCounterDecay u)⟩]))) ∧
    (∀ d : Fin 8, let e := scrubOf s d.val
      (e.done = true → exec (.scrubUnit d) s = .next s) ∧
      (∀ k r ws, let i := tget 0 e.units (scrubKey (0, k, r))
        e.done = false → e.round = (0, k, r) :: ws →
        ∃ t, exec (.scrubUnit d) s = .next t ∧ ScratchBut s t k (r * 65536 + i * 256) (List.replicate 256 0) ∧
          (e.queued = [] ∨ e.work ≠ [] ∧ i + 1 < 256 → (scrubOf t d.val).progress = e.progress + 1)) ∧
      (∀ k r ws, let i := tget 0 e.units (scrubKey (1, k, r))
        e.done = false → e.round = (1, k, r) :: ws →
        ∃ t, exec (.scrubUnit d) s = .next t ∧ ScratchSame s t ∧
          ReadsBut s t (k * 2 ^ 29 + r * 2 ^ 21 + i * 256) (List.replicate 256 0) ∧
          (e.queued = [] ∨ e.work ≠ [] ∧ i + 1 < 8192 → (scrubOf t d.val).progress = e.progress + 1))) ∧
    (let clears := fun (t : State) (step : Nat) => (∀ k, coreOf t k = {}) ∧ (∀ g, gangOf t g = {}) ∧ (houseOf t).bootStep = step ∧
      (houseOf t).lifetime = (houseOf s).lifetime ∧ (houseOf t).retiredCores = (houseOf s).retiredCores ∧
      (houseOf t).retiredLinks = (houseOf s).retiredLinks ∧ (authOf t).host = (authOf s).host
     let link := fun (t : State) n => linkAt (fabOf t) n
     (∃ t, exec .warmReset s = .next t ∧ t.pod = s.pod ∧
       (clears t 6 ∧ (houseOf t).recovery = false ∨ clears t 1 ∧ (houseOf t).recovery = true) ∧
       (∀ n, (link t n).up = false ∧ (link t n).lat = (link s n).lat ∧ (link t n).llat = (link s n).llat ∧
         (link t n).nbr = (link s n).nbr) ∧ (dramOf t).bytes = (dramOf s).bytes ∧
       (houseOf t).scrubLog = (houseOf s).scrubLog) ∧
     (∀ n, (houseOf s).scrubLog = [] ∨ n < 4 → ∃ t, exec (.coldBoot n) s = .next t ∧ clears t (min n 6) ∧ t.pod = 0 ∧
       (∀ i, (link t i).lat = 0 ∧ (link t i).up = false) ∧ (dramOf t).bytes = [] ∧ ((houseOf t).recovery = true ↔ n < 2)) ∧
     (∃ t, exec .standbyPowerLoss s = .next t ∧ clears t 0 ∧ t.pod = 0 ∧ (dramOf t).bytes = [] ∧
       (houseOf t).scrubLog = (houseOf s).scrubLog)))

/-- R319 to R321: a PACMD write takes the page's arguments as they stand, with the field that its row fixes, sets BUSY, and has
the command completed later; while BUSY, or with the boot ROM's recovery function (R339), it is ignored. The completion judges by
the rights that the page then has, clears BUSY, gives the RESULT, counts SEQ up and returns PAARG0; an OP that is not listed
answers BADARG, and one whose right the page lacks RIGHTS. (Model's choices it rests on: log entries 5, 9 and 73.) -/
def Obligations.CommandsTaken : Prop :=
  (∀ (s : State) (p : Nat) (bad : BitVec 8), opListed bad.toNat = false →
    let x := partOf s p
    let ws := [x.arg0, x.arg1, x.arg2, x.arg3]
    let ops : List (Instr × Nat × List Word) :=
      [(.grant p, 0x01, ws), (.revokeBoundary p, 0x02, fixField 1 8 1 0 ws), (.revokeAtOnce p, 0x02, fixField 1 8 1 1 ws),
       (.rights p, 0x03, ws), (.ifcfg p, 0x04, ws), (.coreset p, 0x05, ws), (.ctxcreate p, 0x10, ws), (.ctxmap p, 0x11, ws),
       (.ctxdestroy p, 0x12, ws), (.gang p, 0x18, ws), (.cell p, 0x19, ws), (.linkshare p, 0x1A, fixField 1 24 1 0 ws),
       (.linkshareClear p, 0x1A, fixField 1 24 1 1 ws), (.hostwin p, 0x20, ws), (.aperture p, 0x21, fixField 0 63 1 0 ws),
       (.apertureClear p, 0x21, fixField 0 63 1 1 ws), (.mboxcfgGrpctl p, 0x22, fixField 1 0 2 0 ws),
       (.mboxcfgGrpactive p, 0x22, fixField 1 0 2 1 ws), (.mboxcfgEpnext p, 0x22, fixField 1 0 2 2 ws), (.hartcfg p, 0x23, ws),
       (.distcfg p, 0x28, ws), (.debugStopOff p, 0x30, fixField 1 0 4 0 ws), (.debugStopOn p, 0x30, fixField 1 0 4 1 ws),
       (.debugHalt p, 0x30, fixField 1 0 4 2 ws), (.debugImageRead p, 0x30, fixField 1 0 4 3 ws),
       (.debugImageWrite p, 0x30, fixField 1 0 4 4 ws), (.holdrel p, 0x31, ws), (.counters p, 0x38, ws), (.report p, 0x3C, ws),
       (.pacmdInvalidOp p bad, bad.toNat, ws)]
    ∀ e ∈ ops,
      (x.busy = true ∨ (houseOf s).recovery = true → exec e.1 s = .next s) ∧
      (x.busy = false → (houseOf s).recovery = false → ∃ t due, exec e.1 s = .next t ∧ s.pod < due ∧ t.cores = s.cores ∧ t.gangs = s.gangs ∧
        partOf t p = { x with busy := true, taken := s.pod, cmd := e.2.2 } ∧ (∀ q, q ≠ p → partOf t q = partOf s q) ∧
        t.agenda = s.agenda ++ [⟨.pod, due, phHub, none, .deed (.command p e.2.1)⟩])) ∧
  (∀ (i lo n v : Nat) (ws : List Word), i < ws.length → lo + n ≤ 64 → v < 2 ^ n → ∀ j b, b < 64 →
    ((fixField i lo n v ws).getD j 0).getLsbD b =
      if j = i ∧ lo ≤ b ∧ b < lo + n then v.testBit (b - lo) else (ws.getD j 0).getLsbD b) ∧
  (∀ (s : State) (k p op : Nat),
    let x := partOf s p
    let rights := rightsOf s p
    let r := runCommand s p op rights fun i => (x.cmd.getD i 0).toNat
    let t := performDeed s k (.command p op)
    x.busy = true → (∀ e ∈ (authOf s).parts, e.2.busy = true → takenBefore e (p, x) = false) →
    (∀ n, r = .error n → (partOf t p).busy = false ∧ (partOf t p).result = BitVec.ofNat 8 n ∧ (partOf t p).seq = x.seq + 1 ∧
      (partOf t p).arg0 = x.arg0 ∧ (op ≠ 0x20 → t.cores = s.cores ∧ t.gangs = s.gangs ∧ t.agenda = s.agenda)) ∧
    (∀ s' v, r = .ok (s', v) → (partOf t p).busy = false ∧ (partOf t p).result = 0 ∧
      (partOf t p).seq = (partOf s' p).seq + 1 ∧ (partOf t p).arg0 = v.getD (partOf s' p).arg0 ∧ t.cores = s'.cores ∧
      t.gangs = s'.gangs ∧ t.agenda = s'.agenda ∧ t.hub = { s'.hub with auth := authOf t } ∧
      (authOf t).ctxs = (authOf s').ctxs ∧ (authOf t).coreSets = (authOf s').coreSets ∧ (authOf t).cells = (authOf s').cells ∧
      (authOf t).newCells = (authOf s').newCells ∧ ∀ q, (partOf t q).rights = (partOf s' q).rights ∧
        (partOf t q).windows = (partOf s' q).windows ∧ (partOf t q).apertures = (partOf s' q).apertures ∧
        (partOf t q).power = (partOf s' q).power ∧
        ∀ kind, heldTable (partOf t q) kind = heldTable (partOf s' q) kind) ∧
    (opListed op = false → r = .error 3) ∧
    (∀ b, commandRight op = some b → rights.getLsbD b = false → r = .error 1)) ∧
  (∀ (s w : State) (p : Nat) (bad : BitVec 8), opListed bad.toNat = false → (partOf s p).busy = false →
    (houseOf s).recovery = false →
    (∃ t due, exec (.pacmdInvalidOp p bad) s = .next t ∧ s.pod < due ∧ (partOf t p).busy = true ∧
      t.agenda = s.agenda ++ [⟨.pod, due, phHub, none, .deed (.command p bad.toNat)⟩]) ∧
    ((partOf w p).busy = true → (∀ e ∈ (authOf w).parts, e.2.busy = true → takenBefore e (p, partOf w p) = false) →
      ∀ k, performDeed w k (.command p bad.toNat) = endCommand w p bad.toNat (.error 3)))

/-- R305 to R315, R320, R321: every PACMD write of a command on holdings, rights, core sets, contexts, gangs, cells, link shares
and windows is taken by a page that is not BUSY, and it completes with the effect that the manual gives it where nothing forbids
it: `s` is the state of the write, `w` the state in which the command completes. (Model's choices it rests on: log entries 9, 12,
72, 73, 74, 81 and 105.) -/
def Obligations.CommandsOnHoldings : Prop :=
  ∀ (s w : State) (p : Nat), (partOf s p).busy = false → (houseOf s).recovery = false →
    let x := partOf s p
    let rights := rightsOf w p
    let a := fun n => (([x.arg0, x.arg1, x.arg2, x.arg3] : List Word).getD n 0).toNat
    let runs := fun (i : Instr) (op : Nat) (fix : List Word → List Word) (P : State → Prop) =>
      CommandRuns s w p op i fix none P
    let kind := a 1 % 256
    let held := fun (t : State) (q key : Nat) => tget false (heldTable (partOf t q) kind) key
    let child := childOf p (a 0 % 4096)
    let x := a 0 % 4096
    (rights.getLsbD 6 = true →
      (∀ q keys, child = some q → specKeys kind (a 2) = some keys → kind ≠ 8 → (∀ k ∈ keys, holds w p kind k = true) →
        (kind = 1 → levelOf q = 2 → ∀ e ∈ (authOf w).parts, e.1 ≠ q → levelOf e.1 = 2 →
          ∀ k ∈ keys, tget false e.2.cores k = false) →
        lockedFor w p q = false → scrubbed w kind keys = false → (kind = 9 → envPageCount w keys ≤ 32768) →
        runs (.grant p) 0x01 id fun t => t.cores = w.cores ∧ t.gangs = w.gangs ∧ (∀ r, r ≠ q → partOf t r = partOf w r) ∧
          (∀ k, held t q k = true ↔
            k ∈ keys ∧ (kind = 9 → tget false (houseOf w).retiredPages k = false) ∨ held w q k = true) ∧
          (kind = 3 → ∀ k ∈ keys, cellNext t (k / 16) (k % 16) =
            cellNext w (k / 16) (k % 16) &&& 0x7FFFFFF ||| BitVec.ofNat 64 (q % 4096 * 2 ^ 27))) ∧
      (∀ q, child = some q → kind = 8 → rights.getLsbD 3 = true →
        dividedPower w p q + a 2 % 2 ^ 13 ≤ powerOf w p → lockedFor w p q = false →
        runs (.grant p) 0x01 id fun t => (partOf t q).power = a 2 % 2 ^ 13 ∧
          (∀ r, r ≠ q → parentOf r ≠ q → partOf t r = partOf w r) ∧
          ∀ r, r ≠ q → parentOf r = q → (partOf t r).power ≤ a 2 % 2 ^ 13) ∧
      (∀ q keys, child = some q → specKeys kind (a 2) = some keys → kind ≠ 8 →
        (∀ k ∈ keys, holds w p kind k = true) → lockedFor w p q = false → scrubbed w kind keys = false →
        let gone := fun (t : State) => ∀ r ∈ q :: childrenOf q, ∀ k ∈ keys, held t r k = false
        let users := fun (P : Nat → Prop) => ∀ e ∈ (authOf w).ctxs, e.2.vdid ∈ q :: childrenOf q →
          usesResource w e.1 kind keys = true → P e.1
        runs (.revokeBoundary p) 0x02 (fixField 1 8 1 0) (fun t => gone t ∧
          (fabOf t).shares = (fabOf w).shares ∧ users fun y => (ctxOf t y).doomed = true) ∧
        runs (.revokeAtOnce p) 0x02 (fixField 1 8 1 1) (fun t => gone t ∧
          users fun y => ∀ g, (ctxOf w y).gang = g + 1 → (gangOf t g).hasRun = false)) ∧
      (∀ q, child = some q → kind = 8 → lockedFor w p q = false →
        let cut := fun (t : State) => (partOf t q).power = (partOf w q).power - a 2 % 2 ^ 13 ∧
          ∀ r ∈ childrenOf q, (partOf t r).power ≤ (partOf t q).power
        runs (.revokeBoundary p) 0x02 (fixField 1 8 1 0) cut ∧ runs (.revokeAtOnce p) 0x02 (fixField 1 8 1 1) cut) ∧
      (∀ q, let m := BitVec.ofNat 7 (a 1)
        child = some q → m &&& ~~~rights = 0 → lockedFor w p q = false →
        runs (.rights p) 0x03 id fun t =>
          (partOf t q).rights = m ∧ ∀ r ∈ childrenOf q, (partOf t r).rights = (partOf w r).rights &&& m) ∧
      (let q := 16 * vfOf p + a 0 % 16
       levelOf p = 1 → runs (.ifcfg p) 0x04 id fun t => (∀ r, r ≠ q → partOf t r = partOf w r) ∧
        partOf t q = { partOf w q with pasid := BitVec.ofNat 20 (a 1), mirror := (a 1).testBit 20 }) ∧
      (∀ ks, p = 0 → spanKeys 0 (a 1 % 2 ^ 10) (a 1 / 2 ^ 16 % 2 ^ 11) 1 1024 = some ks →
        (∀ e ∈ (authOf w).coreSets, e.1 ≠ a 0 % 16 → ∀ k ∈ e.2, k ∉ ks) →
        (∀ k ∈ ks, ∃ e ∈ (authOf w).parts, levelOf e.1 = 1 ∧ tget false e.2.cores k = true) →
        (∀ e ∈ (authOf w).parts, e.1 ≠ 0 → tget false e.2.sets (a 0 % 16) = true → vfLocked w (vfOf e.1) = false) →
        scrubbed w 1 ks = false →
        runs (.coreset p) 0x05 id fun t =>
          ∀ j, tget [] (authOf t).coreSets j = if j = a 0 % 16 then ks else tget [] (authOf w).coreSets j) ∧
      (∀ q, child = some q → a 2 % 4 ≤ 2 → budgetHeld w p (a 1) = true → lockedFor w p q = false →
        runs (.distcfg p) 0x28 id fun t => partOf t q = { partOf w q with distBudget := a 1, distAction := a 2 % 4 })) ∧
    (rights.getLsbD 0 = true →
      (∀ y, let prot := (a 1).testBit 0
        levelOf p = 2 → (prot = true → mayProtect w p = true) → holds w p 2 (a 0 % 16) = true → scrubbed w 2 [a 0 % 16] = false →
        freeCtx w = some y →
        CommandRuns s w p 0x10 (.ctxcreate p) id (some (BitVec.ofNat 64 y)) fun t =>
          t = setCtx w y { vdid := p, coreset := a 0 % 16, protect := prot }) ∧
      (let entry := fun e => BitVec.ofNat 64 (leNat (hostBytes w p (a 1 + 8 * e) 8))
       ownsCtx w p x = true → a 1 % 4096 = 0 → windowFor (partOf w p) (a 1) (2 ^ 17) false = true → dmaBlocked w p = false →
        (∀ r ∈ scrubAhead w, r.1 = 1 → ∀ e < 16384, bdV (entry e) = true →
          mapCore (entry e) * 256 + bdPage (entry e) ≠ 256 * r.2.1 + r.2.2) →
        runs (.ctxmap p) 0x11 id fun t => t.cores = w.cores ∧ t.gangs = w.gangs ∧
          ∀ e < 16384, tget 0 (ctxOf t x).map e = entry e) ∧
      (ownsCtx w p x = true → runs (.ctxdestroy p) 0x12 id fun t => ctxOf t x = {} ∧
        (∀ e ∈ (partOf t p).apertures, e.2.1 ≠ x + 1) ∧ ∀ g, (ctxOf w x).gang = g + 1 → gangOf t g = {}) ∧
      (let i := a 0 % 16
       let tee := (a 3).testBit 2
       levelOf p = 2 → a 1 % 4096 = 0 → a 2 % 4096 = 0 → a 2 ≤ 2 ^ 40 →
        (vfLocked w (vfOf p) = true → tee = false ∧ (tget {} (partOf w p).windows i).tee = false) →
        runs (.hostwin p) 0x20 id fun t => tget {} (partOf t p).newWindows i =
          ⟨a 1, a 2, (a 3).testBit 0, (a 3).testBit 1, tee⟩ ∧ (partOf t p).windows = (partOf w p).windows) ∧
      (let slot := fun (t : State) j => tget (0, 0) (partOf t p).apertures j
       runs (.apertureClear p) 0x21 (fixField 0 63 1 1) (fun t =>
         ∀ j, slot t j = if j = a 0 % 4096 then (0, 0) else slot w j) ∧
       (ownsCtx w p (a 1 % 4096) = true → pagesScrubbed w (a 1 % 4096) (a 2 % 16384) 1 = false → runs (.aperture p) 0x21 (fixField 0 63 1 0) fun t =>
         ∀ j, slot t j = if j = a 0 % 4096 then (a 1 % 4096 + 1, a 2 % 16384) else slot w j))) ∧
    (rights.getLsbD 1 = true →
      (let g := a 0 % 2 ^ 24
       let y := a 0 / 2 ^ 32 % 4096
       let ms := ((Config.podMembers g).filter fun m => decide (m ≠ chipOf w ∧ m < 4096)).eraseDups.take (a 1 % 4096)
       let u := setGang (modCtx w y fun c => { c with gang := g + 1 }) g
         { ctx := y, coreset := (ctxOf w y).coreset, vdid := p, members := chipOf w :: ms, memberCount := a 1 % 4096 + 1, runlist := a 2 }
       ownsCtx w p y = true → (ctxOf w y).gang = 0 → gangExists w g = false → a 2 < 2 ^ 35 →
        (∀ e ∈ u.gangs, e.2.hasRun = true → 1 < e.2.memberCount → 2 * worstBound u e.1 ≤ e.2.h) → overElsewhere u = false →
        runs (.gang p) 0x18 id fun t => (ctxOf t y).gang = g + 1 ∧ (gangOf t g).ctx = y ∧
          (gangOf t g).coreset = (ctxOf w y).coreset ∧ (gangOf t g).vdid = p ∧ (gangOf t g).runlist = a 2 ∧
          (gangOf t g).memberCount = a 1 % 4096 + 1 ∧ (gangOf t g).members.head? = some (chipOf w) ∧
          ∀ n, n ≠ g → gangOf t n = gangOf w n) ∧
      (let row := a 0 % 64
       let set := a 0 / 2 ^ 8 % 16
       a 1 / 2 ^ 24 % 4 ≠ 3 → holds w p 3 (16 * row + set) = true →
        namesHolder w p (16 * row + set) (a 1 / 2 ^ 27 % 4096) = true → lockedKey w p 3 (16 * row + set) = false →
        runs (.cell p) 0x19 id fun t =>
          cellNext t row set = BitVec.ofNat 64 (a 1 % 2 ^ 39) ∧ (authOf t).cells = (authOf w).cells) ∧
      (let n := a 0 % 16
       let row := a 0 / 2 ^ 8 % 64
       let share := fun (v : Nat) (t : State) => ∀ j, tget 0 (fabOf t).shares j =
         if j = 16 * row + n then v else tget 0 (fabOf w).shares j
       holds w p 4 (64 * n + row) = true → lockedKey w p 4 (64 * n + row) = false →
        runs (.linkshare p) 0x1A (fixField 1 24 1 0) (share (a 1 % 2 ^ 24 + 1)) ∧
        runs (.linkshareClear p) 0x1A (fixField 1 24 1 1) (share 0)))

/-- R278, R284, R298, R320, R321, R324, R336: every PACMD write of a command on the supervisor's registers, on debugging, holds,
counters and reports is taken by a page that is not BUSY, and it completes with the effect that the manual gives it where nothing
forbids it: `s` is the state of the write, `w` the state in which the command completes. (Model's choices it rests on: log entries
9, 15, 56, 64, 66, 71 and 73.) -/
def Obligations.CommandsOnUnits : Prop :=
  ∀ (s w : State) (p : Nat), (partOf s p).busy = false → (houseOf s).recovery = false →
    let x := partOf s p
    let rights := rightsOf w p
    let a := fun n => (([x.arg0, x.arg1, x.arg2, x.arg3] : List Word).getD n 0).toNat
    let runs := fun (i : Instr) (op : Nat) (fix : List Word → List Word) (P : State → Prop) =>
      CommandRuns s w p op i fix none P
    (rights.getLsbD 0 = true →
      (let g := a 0 % 128
       let v := BitVec.ofNat 64 (a 2)
       let owner := groupPart w g
       holds w p 6 g = true → lockedKey w p 6 g = false →
        (partRuns w owner = false → runs (.mboxcfgGrpctl p) 0x22 (fixField 1 0 2 0) fun t =>
          ∀ j, tget 0 (envOf t).grpctl j = if j = g then v &&& 0xFFFFFFFF00000007 else tget 0 (envOf w).grpctl j) ∧
        (partRuns w owner = true → runs (.mboxcfgGrpctl p) 0x22 (fixField 1 0 2 0) fun t =>
          (envOf t).grpctl = (envOf w).grpctl ∧ (envOf t).waiting = (envOf w).waiting ++ [(0, g, [v])]) ∧
        (runs (.mboxcfgGrpactive p) 0x22 (fixField 1 0 2 1) fun t =>
          ∀ j, tget 0 (envOf t).grpactive j = if j = g then v else tget 0 (envOf w).grpactive j) ∧
        (runs (.mboxcfgEpnext p) 0x22 (fixField 1 0 2 2) fun t => ∀ j, tget 0 (envOf t).epnext j =
          if j = 64 * g + a 1 / 2 ^ 8 % 64 then v &&& 0x8000000000FFFFFF else tget 0 (envOf w).epnext j)) ∧
      (let h := a 0 % 256
       let role := a 0 / 2 ^ 8 % 4
       let y := a 3 % 4096
       let first := a 3 / 2 ^ 12 % 2 ^ 14
       let n := a 3 / 2 ^ 26 % 2 ^ 14
       let ws := (List.range 4).map fun i => BitVec.ofNat 64 (a i)
       let used := role = 1 ∨ role = 2
       let base := BitVec.ofNat 64 (first * 2 ^ 21)
       let limit := BitVec.ofNat 64 ((first + n) * 2 ^ 21)
       holds w p 5 h = true → lockedKey w p 5 h = false →
        (used → ownsCtx w p y = true ∧ pagesScrubbed w y first n = false ∧
          a 0 / 2 ^ 16 % 2 ^ 13 + (if role = 1 then 1 else a 0 / 2 ^ 32 % 2 ^ 13) ≤ 8192 ∧
          pairsHeld w p (a 0 / 2 ^ 16 % 2 ^ 13) (if role = 1 then 1 else a 0 / 2 ^ 32 % 2 ^ 13) = true ∧ first + n ≤ 16384 ∧
          ∀ i < n, bdV (tget 0 (ctxOf w y).map (first + i)) = true ∧ bdEnv (tget 0 (ctxOf w y).map (first + i)) = true) →
        ((∃ c, hartOwner w h ws = some c ∧ ctxRuns w c = true) → runs (.hartcfg p) 0x23 id fun t =>
          (envOf t).harts = (envOf w).harts ∧ (envOf t).waiting = (envOf w).waiting ++ [(1, h, ws)]) ∧
        ((∀ c, hartOwner w h ws = some c → ctxRuns w c = false) → runs (.hartcfg p) 0x23 id fun t =>
          let z := hartOf t h
          z.role = (if role = 1 then .env else if role = 2 then .checker else .idle) ∧ z.pair = a 0 / 2 ^ 16 % 2 ^ 13 ∧
          z.ctx = y ∧ z.winFirst = first ∧ z.winCount = n ∧ z.entry = a 3 / 2 ^ 40 ∧ z.running = false ∧
          z.stepBudget = BitVec.ofNat 64 (a 1) ∧ z.epBudget = BitVec.ofNat 64 (a 2) ∧
          (role = 1 → z.base = base ∧ z.limit = limit) ∧
          (role = 2 → z.chkBase = base ∧ z.chkLimit = limit ∧ z.chkFirst = a 0 / 2 ^ 16 % 2 ^ 13 ∧
            z.chkCount = a 0 / 2 ^ 32 % 2 ^ 13 ∧
            t.agenda = w.agenda ++ [⟨.pod, w.pod + 1, phHub, none, .event (.hartStart h)⟩]) ∧
          ∀ j, j ≠ h → hartOf t j = hartOf w j))) ∧
    (rights.getLsbD 4 = true →
      let x := a 0 % 4096
      let g := (ctxOf w x).gang - 1
      ownsCtx w p x = true →
      (let stops := fun (on : Bool) (t : State) =>
         (ctxOf t x).stop = on ∧ (∀ k, (coreOf t k).dbg.getLsbD 1 = (coreOf w k).dbg.getLsbD 1) ∧
         (canonical w → 0 < (ctxOf w x).gang → g ≠ noGang →
           ∀ k, (coreOf w k).gang = g → (coreOf t k).dbg.getLsbD 0 = on)
       runs (.debugStopOff p) 0x30 (fixField 1 0 4 0) (stops false) ∧ runs (.debugStopOn p) 0x30 (fixField 1 0 4 1) (stops true)) ∧
      (∀ k, 0 < (ctxOf w x).gang →
        (gangCores w g).find? (fun j => (coreOf w j).running && (coreOf w j).frozenAt.isNone) = some k →
        (coreOf w k).gang = g → (ctxOf w x).stop = true → (gangOf w g).mode = .running → w.looking = false →
        runs (.debugHalt p) 0x30 (fixField 1 0 4 2) fun t =>
          (coreOf t k).frozenAt = some ((gangOf w g).gcyc + 1) ∧ (coreOf t k).stopped = true ∧
          (coreOf t k).s = (coreOf w k).s ∧ (coreOf t k).pc = (coreOf w k).pc ∧ (∀ j, j ≠ k → coreOf t j = coreOf w j) ∧
          Announced w { t with cores := w.cores } g ((gangOf w g).gcyc + (gangOf w g).h) .debug k) ∧
      (∀ k frozen img, imageFor w x (a 3 % 1024) = some (k, frozen, img) → dmaBlocked w p = false →
        let bs := readImageBytes w x k frozen img
        CommandRuns s w p 0x30 (.debugImageRead p) (fixField 1 0 4 3) (some (BitVec.ofNat 64 bs.length)) fun t =>
          t = putHost w p (a 2) bs) ∧
      (∀ k frozen img, imageFor w x (a 3 % 1024) = some (k, frozen, img) → dmaBlocked w p = false →
        let h := hostBytes w p (a 2) 256
        let bs := hostBytes w p (a 2) (min (fieldAt h 24 8 + 288 * min 512 (fieldAt h 12 4)) 0x200000)
        CommandRuns s w p 0x30 (.debugImageWrite p) (fixField 1 0 4 4) (some (BitVec.ofNat 64 bs.length)) fun t =>
          (ctxOf t x).badImage = true ∧
          (∀ b, imagePlace w x k = some b → devBytes t b bs.length = bs) ∧
          if (w.hub.images.find? fun e => decide (e.1 = x * 1024 + k)).isSome then
            (x * 1024 + k, coreOfImage img bs) ∈ t.hub.images
          else coreOf t k = coreOfImage img bs)) ∧
    (let g := a 0 % 2 ^ 24
     ∀ cause right n, (a 1 % 16 = 1 ∧ cause = HoldCause.watchdog ∧ right = 1 ∨ a 1 % 16 = 2 ∧ cause = .debug ∧ right = 4) →
      rights.getLsbD right = true → (gangOf w g).vdid = p → n ∈ (gangOf w g).holds → n.cause = cause → n.released = none →
      (cause = .debug → (ctxOf w (gangOf w g).ctx).badImage = false) →
      runs (.holdrel p) 0x31 id fun t => t.cores = w.cores ∧
        ∀ h ∈ (gangOf t g).holds, h.cause = cause → h.released ≠ none) ∧
    (rights.getLsbD 2 = true → a 0 % 256 ≤ 6 → dmaBlocked w p = false →
      let bs := ((counterSet w p (a 0 % 256)).map (leBytes 8)).flatten
      CommandRuns s w p 0x38 (.counters p) id (some (BitVec.ofNat 64 bs.length)) fun t => t = putHost w p (a 1) bs) ∧
    (rights.getLsbD 5 = true → dmaBlocked w p = false → 16 ≤ a 0 % 4096 → a 0 % 4096 ≤ 1039 →
      (levelOf p = 1 → a 0 % 4096 / 16 = vfOf p) →
      (levelOf p = 2 → a 0 % 4096 = p) →
      let bs := reportBytes w (if levelOf p ≤ 1 ∧ a 0 % 4096 % 16 = 0 then l1Page (a 0 % 4096 / 16) else a 0 % 4096)
      CommandRuns s w p 0x3C (.report p) id (some (BitVec.ofNat 64 bs.length)) fun t =>
        t.cores = w.cores ∧ t.gangs = w.gangs ∧ (authOf t).parts = (authOf w).parts ∧
        hostBytes t p (a 1) bs.length = bs ∧ ∀ b, (∀ i < bs.length, b ≠ hostKey p (a 1) + i) → tget 0 (authOf t).host b = tget 0 (authOf w).host b)

/-- R92 to R108, R170: words written out from the manual's encoding tables decode to the instructions they stand for. A sanity
statement over a few of them; each is built field by field in Sys2Proof/Tests/Slice0.lean. -/
def Obligations.TableWordsDecode : Prop :=
  let always : Guard := ⟨false, 0⟩
  decodeTableWord 24 0x00109C = some (.andn ⟨always, .sreg 4⟩) ∧
  decodeTableWord 24 0x0014AA = some (.cmpLt ⟨always, .sreg 5⟩) ∧
  decodeTableWord 24 0x380811 = some (.br ⟨⟨false, 3⟩, .short 2⟩) ∧
  decodeTableWord 24 0x081712 = some (.dref ⟨always, .short 5⟩) ∧
  decodeTableWord 24 0x010920 = some (.vcmp .va ⟨always, .vreg 2⟩) ∧
  decodeTableWord 24 0x080351 = some (.hcopyR ⟨always, .short 0⟩) ∧
  decodeTableWord 48 0x00202802C3D2 = some (.mbstat ⟨always, .limm24 0x002028⟩) ∧
  decodeTableWord 24 0x800000 = some (.nop 0)

/-- R92 to R108, R170, R171: decoding and encoding agree. Every well-formed slot instruction whose words are its own decodes,
in any slot whose lane carries it, from its own word and payload to itself, with every operand; so does every micro-operation;
and the words of any well-formed instruction, laid out from the first, are read as that instruction. (A load of VLUT and a MUWR
of a routine entry have the words of VLUT and MUWR: the same trigger with another control.) -/
def Obligations.EncodingRoundTrip : Prop :=
  (∀ (i : Instr) (m : Mv) (d n p q : Nat), wellFormed i = true → moveOf i = some m → dstId i = some d →
    (∀ u, i ≠ .vlutLoad u m) → i ≠ .muwrRoutineEntry m → laneOk n m.src d = true → n + (payloadOf m.src).length < 8 →
    decodeSlot n (moveWord m d) ((payloadOf m.src).getD 0 p) ((payloadOf m.src).getD 1 q) = .ok i) ∧
  (∀ (i : Instr) (w : Nat), wellFormed i = true → microWord i = some w → w < 2 ^ 64 ∧ decodeMicro w = .ok i) ∧
  (∀ (i : Instr) (nbits w : Nat), wellFormed i = true → encode i = some (nbits, w) →
    (∀ u m, i ≠ .vlutLoad u m) → (∀ m, i ≠ .muwrRoutineEntry m) → decodeTableWord nbits w = some i)

/-- R4, R15, R19, R56, R61, R339: after reset pod time is 0, nothing is scheduled and nothing issues, no gang runs, HOLDLEAD.H
is 64, every core is stopped with no fault latched, p0 is 1 and s0 is 0, mask ports are all ones, ty is FP32 and `at` is no
start; the tables of cores and gangs are in canonical form, and the boot steps are past (log entries 2 and 3: the reset values
that the manual gives no value for are the model's choice, and this statement names none of them but through the empty tables).
-/
def Obligations.ResetState : Prop :=
  let s := State.reset
  s.pod = 0 ∧ s.agenda = [] ∧ s.issuing = none ∧ canonical s ∧ s.hub.house.bootStep = 6 ∧
  (∀ g, (gangOf s g).mode = .idle ∧ (gangOf s g).hasRun = false ∧ (gangOf s g).h = 64 ∧ (gangOf s g).gcyc = 0) ∧
  (∀ k, let c := coreOf s k
    c.running = false ∧ c.frozenAt = none ∧ c.fault.cause = 0 ∧ predOf c 0 = true ∧ sregOf c 0 = 0 ∧
      kportOf c (vecBase .va + 3) = onesMask ∧ kportOf c (vecBase .vb + 3) = onesMask ∧
      tyCode c .va = 1 ∧ tyCode c .vb = 1 ∧ portOf c 0x303 = noStart ∧ portOf c 0x343 = noStart ∧ portOf c 0x383 = noStart ∧
      (∀ r, resultOf c r = 0 ∧ vresOf c r = 0) ∧ (∀ n < 16, (streamOf c n).mode = .closed) ∧
      (∀ n < 4, (loopOf c n).active = false) ∧ c.links = [] ∧ ∀ b, bundleAt c b = emptyBundle)

/-- Every step keeps the tables of cores and gangs in canonical form: keys rising, no entry equal to what an unlisted key reads
as. Derived: the manual speaks of cores and gangs, the tables are the model's. (Model's choices it rests on: log entry 3.) -/
def Obligations.StepKeepsCanonical : Prop :=
  ∀ s t : State, canonical s → Machine.step s = .next t → canonical t

/-- R42, R52, R55, R89, R91, R106, R169: a step runs the instruction that the slot at which a core's bundle stands decodes to,
or the microword its microsequencer has fetched, or the step of the table that is due, or the arriving move; then the faults
raised are settled, which changes nothing where none was raised. A bundle that begins is the one the program counter names; the
next slot is the one past the move's payload, and after slot 7 none. With nothing to issue and no job due, a pod cycle passes.
(Model's choices it rests on: log entries 3 and 6.) -/
def Obligations.StepRunsDecoded : Prop :=
  (∀ (s : State) (k n : Nat) (i : Instr), s.issuing = some (.slot k n) → k < 1024 →
    let w := (coreOf s k).latch
    let m := n + 1 + claimOf (slotWord w n)
    decodeSlot n (slotWord w n) (slotWord w (n + 1)) (slotWord w (n + 2)) = .ok i →
      Machine.step s = settled (exec i
        { s with cur := ⟨k, n, none⟩, issuing := if m < 8 then some (.slot k m) else none })) ∧
  (∀ (s : State) (k : Nat) (i : Instr), s.issuing = some (.micro k) → k < 1024 →
    decodeMicro (tget 0 (coreOf s k).mx.store (coreOf s k).mx.pc).toNat = .ok i →
      Machine.step s = settled (exec i { s with issuing := none, cur := ⟨k, 0, none⟩ })) ∧
  (∀ (s : State) (j : Job) (js : List Job), s.issuing = none → nextJob s = some (j, js) →
    (∀ i, j.task = .event i → Machine.step s = settled (exec i
      { s with agenda := js, phase := j.phase, cur := ⟨j.core.getD 0, 0, none⟩ })) ∧
    (∀ fl, j.task = .arrive fl → Machine.step s = settled (exec fl.instr
      { s with agenda := js, phase := j.phase, cur := ⟨j.core.getD 0, fl.slot, some fl⟩ })) ∧
    j ∈ s.agenda ∧ jobDue s j = true ∧ js = s.agenda.erase j) ∧
  (∀ s : State, s.issuing = none → nextJob s = none → ∃ t, Machine.step s = .next t ∧ t.pod = s.pod + 1) ∧
  (∀ t : State, (∀ e ∈ t.cores, e.2.raised = []) → settled (.next t) = .next t) ∧
  (∀ (s : State) (k : Nat), let c := coreOf s k
    issues s k = true → c.doomed = [] → (∀ q ∈ c.deferred, q.charge ≠ gcycOf s k) → c.raised = [] → c.starts = [] →
    c.pc < 16384 → (c.pc ∈ c.badBundles ∨ (gcycOf s k, c.pc) ∈ c.aheadBad → ∃ b ∈ c.buffered, b.1 = c.pc) →
    decodeFaults (fetchBundle c (gcycOf s k)) = [] →
      let t := performDeed s k .begin
      t.issuing = some (.slot k 0) ∧ (coreOf t k).latch = fetchBundle c (gcycOf s k) ∧ (coreOf t k).curBundle = c.pc ∧
      (c.buffered = [] → c.ahead = [] → (coreOf t k).latch = bundleAt c c.pc))
end

