-- ==== Sys2Proof/Laws/Table.lean ====
section
/-! SUPPORT. The laws of the sparse tables: a read after a write, and the canonical form that every write keeps. -/

namespace Sys2Proof.Machine

variable {α : Type}

theorem tget_tins_self (d : α) (t : Table α) (k : Nat) (v : α) : tget d (tins t k v) k = v := by
  induction t with
  | nil => simp [tins, tget]
  | cons e t ih =>
    obtain ⟨j, w⟩ := e
    simp only [tins]
    split
    · simp [tget]
    · split
      · simp [tget]
      · next h => simp [tget, h, ih]

theorem tget_tins_ne (d : α) (t : Table α) {k j : Nat} (v : α) (h : j ≠ k) : tget d (tins t k v) j = tget d t j := by
  induction t with
  | nil => simp [tins, tget, h]
  | cons e t ih =>
    obtain ⟨i, w⟩ := e
    simp only [tins]
    split
    · simp [tget, h]
    · split
      · next hk => subst hk; simp [tget, h]
      · simp only [tget, ih]

theorem tget_tdel_self (d : α) (t : Table α) (k : Nat) : tget d (tdel t k) k = d := by
  induction t with
  | nil => rfl
  | cons e t ih =>
    obtain ⟨j, w⟩ := e
    simp only [tdel]
    split
    · exact ih
    · next h => simp [tget, h, ih]

theorem tget_tdel_ne (d : α) (t : Table α) {k j : Nat} (h : j ≠ k) : tget d (tdel t k) j = tget d t j := by
  induction t with
  | nil => rfl
  | cons e t ih =>
    obtain ⟨i, w⟩ := e
    simp only [tdel]
    split
    · next hk => subst hk; simp [tget, h, ih]
    · simp only [tget, ih]

/-- A read of the key just written gives the value written. -/
@[simp] theorem tget_tset_self [DecidableEq α] (d : α) (t : Table α) (k : Nat) (v : α) : tget d (tset d t k v) k = v := by
  unfold tset
  split
  · next h => rw [tget_tdel_self, h]
  · exact tget_tins_self d t k v

/-- A write leaves every other key alone. -/
@[simp] theorem tget_tset_ne [DecidableEq α] (d : α) (t : Table α) {k j : Nat} (v : α) (h : j ≠ k) :
    tget d (tset d t k v) j = tget d t j := by
  unfold tset
  split
  · exact tget_tdel_ne d t h
  · exact tget_tins_ne d t v h

theorem tget_tset [DecidableEq α] (d : α) (t : Table α) (k j : Nat) (v : α) :
    tget d (tset d t k v) j = if j = k then v else tget d t j := by
  split
  · next h => subst h; exact tget_tset_self d t j v
  · next h => exact tget_tset_ne d t v h

theorem twfFrom_mono [DecidableEq α] {d : α} {t : Table α} {lo lo' : Nat} (h : lo' ≤ lo) (ht : twfFrom d lo t = true) :
    twfFrom d lo' t = true := by
  cases t with
  | nil => rfl
  | cons e t =>
    obtain ⟨j, v⟩ := e
    simp only [twfFrom, Bool.and_eq_true, decide_eq_true_eq] at *
    exact ⟨⟨le_trans h ht.1.1, ht.1.2⟩, ht.2⟩

theorem twfFrom_tins [DecidableEq α] {d v : α} {t : Table α} {lo k : Nat} (hk : lo ≤ k) (hv : v ≠ d)
    (ht : twfFrom d lo t = true) : twfFrom d lo (tins t k v) = true := by
  induction t generalizing lo with
  | nil => simp [tins, twfFrom, hk, hv]
  | cons e t ih =>
    obtain ⟨j, w⟩ := e
    simp only [twfFrom, Bool.and_eq_true, decide_eq_true_eq] at ht
    simp only [tins]
    split
    · next h => simp [twfFrom, hk, hv, ht, Nat.succ_le_of_lt h]
    · split
      · next h => subst h; simp [twfFrom, hk, hv, ht.2]
      · next h₁ h₂ => simp [twfFrom, ht.1, ih (by omega) ht.2]

theorem twfFrom_tdel [DecidableEq α] {d : α} {t : Table α} {lo k : Nat} (ht : twfFrom d lo t = true) :
    twfFrom d lo (tdel t k) = true := by
  induction t generalizing lo with
  | nil => rfl
  | cons e t ih =>
    obtain ⟨j, w⟩ := e
    simp only [twfFrom, Bool.and_eq_true, decide_eq_true_eq] at ht
    simp only [tdel]
    split
    · exact twfFrom_mono (by omega) (ih ht.2)
    · simp [twfFrom, ht.1, ih ht.2]

/-- Every write keeps the canonical form. -/
theorem twf_tset [DecidableEq α] {d : α} {t : Table α} (k : Nat) (v : α) (ht : twf d t = true) : twf d (tset d t k v) = true := by
  unfold twf tset at *
  split
  · exact twfFrom_tdel ht
  · next h => exact twfFrom_tins (Nat.zero_le k) h ht

theorem twf_tmod [DecidableEq α] {d : α} {t : Table α} (k : Nat) (f : α → α) (ht : twf d t = true) :
    twf d (tmod d t k f) = true := twf_tset k _ ht

/-- A byte string's write keeps the canonical form of a memory. -/
theorem twf_tputs {d : Byte} {t : Table Byte} (a : Nat) (bs : List Byte) (ht : twf d t = true) :
    twf d (tputs d t a bs) = true := by
  induction bs generalizing t a with
  | nil => exact ht
  | cons b bs ih => exact ih (a + 1) (twf_tset a b ht)

/-- Bytes below or above the string written stay as they are. -/
theorem tget_tputs_ne (d : Byte) (t : Table Byte) (a j : Nat) (bs : List Byte) (h : j < a ∨ a + bs.length ≤ j) :
    tget d (tputs d t a bs) j = tget d t j := by
  induction bs generalizing t a with
  | nil => rfl
  | cons b bs ih =>
    simp only [List.length_cons] at h
    rw [tputs, ih _ (a + 1) (by omega), tget_tset_ne d t b (by omega)]

/-- Byte `i` of the string written is read at `a + i`. -/
theorem tget_tputs_at (d : Byte) (t : Table Byte) (a i : Nat) (bs : List Byte) (h : i < bs.length) :
    tget d (tputs d t a bs) (a + i) = bs.getD i d := by
  induction bs generalizing t a i with
  | nil => simp at h
  | cons b bs ih =>
    cases i with
    | zero =>
      show tget d (tputs d (tset d t a b) (a + 1) bs) a = b
      rw [tget_tputs_ne d _ (a + 1) a bs (by omega), tget_tset_self]
    | succ i =>
      rw [tputs, show a + (i + 1) = a + 1 + i by omega, ih _ (a + 1) i (by simpa using h)]
      simp

/-- A memory read gives back the bytes just written there. -/
theorem tbytes_tputs (d : Byte) (t : Table Byte) (a : Nat) (bs : List Byte) : tbytes d (tputs d t a bs) a bs.length = bs := by
  have key : ∀ (n i : Nat) (u : Table Byte), (∀ j, j < n → tget d u (a + i + j) = bs.getD (i + j) d) → i + n = bs.length →
      tbytes d u (a + i) n = bs.drop i := by
    intro n
    induction n with
    | zero => intro i u _ hi; simp [tbytes, ← hi]
    | succ n ih =>
      intro i u hu hi
      have h0 := hu 0 (by omega)
      rw [tbytes, Nat.add_assoc, ih (i + 1) u (fun j hj => by have := hu (j + 1) (by omega); simpa [Nat.add_assoc, Nat.add_comm 1] using this) (by omega)]
      rw [← List.getElem_cons_drop (show i < bs.length by omega)]
      simp only [Nat.add_zero] at h0
      rw [h0]
      simp [List.getD_eq_getElem?_getD, List.getElem?_eq_getElem (show i < bs.length by omega)]
  have := key bs.length 0 (tputs d t a bs) (fun j hj => by
    simpa using tget_tputs_at d t a j bs hj) (by omega)
  simpa using this

end Sys2Proof.Machine
end

