-- ==== Sys2Proof/Laws/State.lean ====
section
/-! SUPPORT. The laws of the state's accessors: one for each field and update, and reads after writes. -/

namespace Sys2Proof.Machine

/-! Updates of the machine. -/

@[simp] theorem setCore_pod (s : State) (k : Nat) (c : Core) : (setCore s k c).pod = s.pod := rfl
@[simp] theorem setCore_gangs (s : State) (k : Nat) (c : Core) : (setCore s k c).gangs = s.gangs := rfl
@[simp] theorem setCore_hub (s : State) (k : Nat) (c : Core) : (setCore s k c).hub = s.hub := rfl
@[simp] theorem setCore_agenda (s : State) (k : Nat) (c : Core) : (setCore s k c).agenda = s.agenda := rfl
@[simp] theorem setCore_issuing (s : State) (k : Nat) (c : Core) : (setCore s k c).issuing = s.issuing := rfl
@[simp] theorem setCore_cur (s : State) (k : Nat) (c : Core) : (setCore s k c).cur = s.cur := rfl
@[simp] theorem setCore_phase (s : State) (k : Nat) (c : Core) : (setCore s k c).phase = s.phase := rfl
@[simp] theorem setCore_looking (s : State) (k : Nat) (c : Core) : (setCore s k c).looking = s.looking := rfl
@[simp] theorem setCore_fresh (s : State) (k : Nat) (c : Core) : (setCore s k c).fresh = s.fresh := rfl
@[simp] theorem modCore_pod (s : State) (k : Nat) (f : Core → Core) : (modCore s k f).pod = s.pod := rfl
@[simp] theorem modCore_gangs (s : State) (k : Nat) (f : Core → Core) : (modCore s k f).gangs = s.gangs := rfl
@[simp] theorem modCore_hub (s : State) (k : Nat) (f : Core → Core) : (modCore s k f).hub = s.hub := rfl
@[simp] theorem modCore_agenda (s : State) (k : Nat) (f : Core → Core) : (modCore s k f).agenda = s.agenda := rfl
@[simp] theorem modCore_issuing (s : State) (k : Nat) (f : Core → Core) : (modCore s k f).issuing = s.issuing := rfl
@[simp] theorem modCore_cur (s : State) (k : Nat) (f : Core → Core) : (modCore s k f).cur = s.cur := rfl
@[simp] theorem modCore_phase (s : State) (k : Nat) (f : Core → Core) : (modCore s k f).phase = s.phase := rfl
@[simp] theorem modCore_looking (s : State) (k : Nat) (f : Core → Core) : (modCore s k f).looking = s.looking := rfl
@[simp] theorem modCore_fresh (s : State) (k : Nat) (f : Core → Core) : (modCore s k f).fresh = s.fresh := rfl
@[simp] theorem modMe_pod (s : State) (f : Core → Core) : (modMe s f).pod = s.pod := rfl
@[simp] theorem modMe_gangs (s : State) (f : Core → Core) : (modMe s f).gangs = s.gangs := rfl
@[simp] theorem modMe_hub (s : State) (f : Core → Core) : (modMe s f).hub = s.hub := rfl
@[simp] theorem modMe_agenda (s : State) (f : Core → Core) : (modMe s f).agenda = s.agenda := rfl
@[simp] theorem modMe_issuing (s : State) (f : Core → Core) : (modMe s f).issuing = s.issuing := rfl
@[simp] theorem modMe_cur (s : State) (f : Core → Core) : (modMe s f).cur = s.cur := rfl
@[simp] theorem modMe_phase (s : State) (f : Core → Core) : (modMe s f).phase = s.phase := rfl
@[simp] theorem modMe_looking (s : State) (f : Core → Core) : (modMe s f).looking = s.looking := rfl
@[simp] theorem modMe_fresh (s : State) (f : Core → Core) : (modMe s f).fresh = s.fresh := rfl
@[simp] theorem setGang_pod (s : State) (g : Nat) (x : Gang) : (setGang s g x).pod = s.pod := rfl
@[simp] theorem setGang_cores (s : State) (g : Nat) (x : Gang) : (setGang s g x).cores = s.cores := rfl
@[simp] theorem setGang_hub (s : State) (g : Nat) (x : Gang) : (setGang s g x).hub = s.hub := rfl
@[simp] theorem setGang_agenda (s : State) (g : Nat) (x : Gang) : (setGang s g x).agenda = s.agenda := rfl
@[simp] theorem setGang_issuing (s : State) (g : Nat) (x : Gang) : (setGang s g x).issuing = s.issuing := rfl
@[simp] theorem setGang_cur (s : State) (g : Nat) (x : Gang) : (setGang s g x).cur = s.cur := rfl
@[simp] theorem setGang_phase (s : State) (g : Nat) (x : Gang) : (setGang s g x).phase = s.phase := rfl
@[simp] theorem setGang_looking (s : State) (g : Nat) (x : Gang) : (setGang s g x).looking = s.looking := rfl
@[simp] theorem setGang_fresh (s : State) (g : Nat) (x : Gang) : (setGang s g x).fresh = s.fresh := rfl
@[simp] theorem modGang_pod (s : State) (g : Nat) (f : Gang → Gang) : (modGang s g f).pod = s.pod := rfl
@[simp] theorem modGang_cores (s : State) (g : Nat) (f : Gang → Gang) : (modGang s g f).cores = s.cores := rfl
@[simp] theorem modGang_hub (s : State) (g : Nat) (f : Gang → Gang) : (modGang s g f).hub = s.hub := rfl
@[simp] theorem modGang_agenda (s : State) (g : Nat) (f : Gang → Gang) : (modGang s g f).agenda = s.agenda := rfl
@[simp] theorem modGang_issuing (s : State) (g : Nat) (f : Gang → Gang) : (modGang s g f).issuing = s.issuing := rfl
@[simp] theorem modGang_cur (s : State) (g : Nat) (f : Gang → Gang) : (modGang s g f).cur = s.cur := rfl
@[simp] theorem modGang_phase (s : State) (g : Nat) (f : Gang → Gang) : (modGang s g f).phase = s.phase := rfl
@[simp] theorem modGang_looking (s : State) (g : Nat) (f : Gang → Gang) : (modGang s g f).looking = s.looking := rfl
@[simp] theorem modGang_fresh (s : State) (g : Nat) (f : Gang → Gang) : (modGang s g f).fresh = s.fresh := rfl
@[simp] theorem post_pod (s : State) (j : Job) : (post s j).pod = s.pod := rfl
@[simp] theorem post_cores (s : State) (j : Job) : (post s j).cores = s.cores := rfl
@[simp] theorem post_gangs (s : State) (j : Job) : (post s j).gangs = s.gangs := rfl
@[simp] theorem post_hub (s : State) (j : Job) : (post s j).hub = s.hub := rfl
@[simp] theorem post_issuing (s : State) (j : Job) : (post s j).issuing = s.issuing := rfl
@[simp] theorem post_cur (s : State) (j : Job) : (post s j).cur = s.cur := rfl
@[simp] theorem post_phase (s : State) (j : Job) : (post s j).phase = s.phase := rfl
@[simp] theorem post_looking (s : State) (j : Job) : (post s j).looking = s.looking := rfl
@[simp] theorem post_fresh (s : State) (j : Job) : (post s j).fresh = s.fresh := rfl
@[simp] theorem postCore_pod (s : State) (k due ph : Nat) (t : Task) : (postCore s k due ph t).pod = s.pod := rfl
@[simp] theorem postCore_cores (s : State) (k due ph : Nat) (t : Task) : (postCore s k due ph t).cores = s.cores := rfl
@[simp] theorem postCore_gangs (s : State) (k due ph : Nat) (t : Task) : (postCore s k due ph t).gangs = s.gangs := rfl
@[simp] theorem postCore_hub (s : State) (k due ph : Nat) (t : Task) : (postCore s k due ph t).hub = s.hub := rfl
@[simp] theorem postCore_issuing (s : State) (k due ph : Nat) (t : Task) : (postCore s k due ph t).issuing = s.issuing := rfl
@[simp] theorem postCore_cur (s : State) (k due ph : Nat) (t : Task) : (postCore s k due ph t).cur = s.cur := rfl
@[simp] theorem postCore_phase (s : State) (k due ph : Nat) (t : Task) : (postCore s k due ph t).phase = s.phase := rfl
@[simp] theorem postCore_looking (s : State) (k due ph : Nat) (t : Task) : (postCore s k due ph t).looking = s.looking := rfl
@[simp] theorem postCore_fresh (s : State) (k due ph : Nat) (t : Task) : (postCore s k due ph t).fresh = s.fresh := rfl
@[simp] theorem postDeed_pod (s : State) (k due ph : Nat) (d : Deed) : (postDeed s k due ph d).pod = s.pod := rfl
@[simp] theorem postDeed_cores (s : State) (k due ph : Nat) (d : Deed) : (postDeed s k due ph d).cores = s.cores := rfl
@[simp] theorem postDeed_gangs (s : State) (k due ph : Nat) (d : Deed) : (postDeed s k due ph d).gangs = s.gangs := rfl
@[simp] theorem postDeed_hub (s : State) (k due ph : Nat) (d : Deed) : (postDeed s k due ph d).hub = s.hub := rfl
@[simp] theorem postDeed_issuing (s : State) (k due ph : Nat) (d : Deed) : (postDeed s k due ph d).issuing = s.issuing := rfl
@[simp] theorem postDeed_cur (s : State) (k due ph : Nat) (d : Deed) : (postDeed s k due ph d).cur = s.cur := rfl
@[simp] theorem postDeed_phase (s : State) (k due ph : Nat) (d : Deed) : (postDeed s k due ph d).phase = s.phase := rfl
@[simp] theorem postDeed_looking (s : State) (k due ph : Nat) (d : Deed) : (postDeed s k due ph d).looking = s.looking := rfl
@[simp] theorem postDeed_fresh (s : State) (k due ph : Nat) (d : Deed) : (postDeed s k due ph d).fresh = s.fresh := rfl
@[simp] theorem postGang_pod (s : State) (g due ph : Nat) (i : Instr) : (postGang s g due ph i).pod = s.pod := rfl
@[simp] theorem postGang_cores (s : State) (g due ph : Nat) (i : Instr) : (postGang s g due ph i).cores = s.cores := rfl
@[simp] theorem postGang_gangs (s : State) (g due ph : Nat) (i : Instr) : (postGang s g due ph i).gangs = s.gangs := rfl
@[simp] theorem postGang_hub (s : State) (g due ph : Nat) (i : Instr) : (postGang s g due ph i).hub = s.hub := rfl
@[simp] theorem postGang_issuing (s : State) (g due ph : Nat) (i : Instr) : (postGang s g due ph i).issuing = s.issuing := rfl
@[simp] theorem postGang_cur (s : State) (g due ph : Nat) (i : Instr) : (postGang s g due ph i).cur = s.cur := rfl
@[simp] theorem postGang_phase (s : State) (g due ph : Nat) (i : Instr) : (postGang s g due ph i).phase = s.phase := rfl
@[simp] theorem postGang_looking (s : State) (g due ph : Nat) (i : Instr) : (postGang s g due ph i).looking = s.looking := rfl
@[simp] theorem postGang_fresh (s : State) (g due ph : Nat) (i : Instr) : (postGang s g due ph i).fresh = s.fresh := rfl
@[simp] theorem postPod_pod (s : State) (due ph : Nat) (i : Instr) : (postPod s due ph i).pod = s.pod := rfl
@[simp] theorem postPod_cores (s : State) (due ph : Nat) (i : Instr) : (postPod s due ph i).cores = s.cores := rfl
@[simp] theorem postPod_gangs (s : State) (due ph : Nat) (i : Instr) : (postPod s due ph i).gangs = s.gangs := rfl
@[simp] theorem postPod_hub (s : State) (due ph : Nat) (i : Instr) : (postPod s due ph i).hub = s.hub := rfl
@[simp] theorem postPod_issuing (s : State) (due ph : Nat) (i : Instr) : (postPod s due ph i).issuing = s.issuing := rfl
@[simp] theorem postPod_cur (s : State) (due ph : Nat) (i : Instr) : (postPod s due ph i).cur = s.cur := rfl
@[simp] theorem postPod_phase (s : State) (due ph : Nat) (i : Instr) : (postPod s due ph i).phase = s.phase := rfl
@[simp] theorem postPod_looking (s : State) (due ph : Nat) (i : Instr) : (postPod s due ph i).looking = s.looking := rfl
@[simp] theorem postPod_fresh (s : State) (due ph : Nat) (i : Instr) : (postPod s due ph i).fresh = s.fresh := rfl

@[simp] theorem post_agenda (s : State) (j : Job) : (post s j).agenda = s.agenda ++ [j] := rfl
@[simp] theorem postCore_agenda (s : State) (k due ph : Nat) (t : Task) :
    (postCore s k due ph t).agenda = s.agenda ++ [⟨.gang (coreOf s k).gang, due, ph, some k, t⟩] := rfl
@[simp] theorem postDeed_agenda (s : State) (k due ph : Nat) (d : Deed) :
    (postDeed s k due ph d).agenda = s.agenda ++ [⟨.gang (coreOf s k).gang, due, ph, some k, .deed d⟩] := rfl
@[simp] theorem postGang_agenda (s : State) (g due ph : Nat) (i : Instr) :
    (postGang s g due ph i).agenda = s.agenda ++ [⟨.gang g, due, ph, none, .event i⟩] := rfl
@[simp] theorem postPod_agenda (s : State) (due ph : Nat) (i : Instr) :
    (postPod s due ph i).agenda = s.agenda ++ [⟨.pod, due, ph, none, .event i⟩] := rfl

/-! Reading a core or a gang after an update. -/

@[simp] theorem coreOf_setCore_self (s : State) (k : Nat) (c : Core) : coreOf (setCore s k c) k = c := tget_tset_self _ _ _ _
@[simp] theorem coreOf_setCore_ne (s : State) {k j : Nat} (c : Core) (h : j ≠ k) : coreOf (setCore s k c) j = coreOf s j :=
  tget_tset_ne _ _ _ h
@[simp] theorem coreOf_modCore_self (s : State) (k : Nat) (f : Core → Core) : coreOf (modCore s k f) k = f (coreOf s k) :=
  tget_tset_self _ _ _ _
@[simp] theorem coreOf_modCore_ne (s : State) {k j : Nat} (f : Core → Core) (h : j ≠ k) :
    coreOf (modCore s k f) j = coreOf s j := tget_tset_ne _ _ _ h
@[simp] theorem coreOf_modMe_ne (s : State) {j : Nat} (f : Core → Core) (h : j ≠ me s) : coreOf (modMe s f) j = coreOf s j :=
  tget_tset_ne _ _ _ h
@[simp] theorem coreOf_modMe_me (s : State) (f : Core → Core) : coreOf (modMe s f) (me s) = f (coreOf s (me s)) :=
  tget_tset_self _ _ _ _
@[simp] theorem coreOf_setGang (s : State) (g k : Nat) (x : Gang) : coreOf (setGang s g x) k = coreOf s k := rfl
@[simp] theorem coreOf_modGang (s : State) (g k : Nat) (f : Gang → Gang) : coreOf (modGang s g f) k = coreOf s k := rfl
@[simp] theorem coreOf_post (s : State) (j : Job) (k : Nat) : coreOf (post s j) k = coreOf s k := rfl
@[simp] theorem coreOf_postCore (s : State) (k due ph j : Nat) (t : Task) : coreOf (postCore s k due ph t) j = coreOf s j := rfl
@[simp] theorem coreOf_postDeed (s : State) (k due ph j : Nat) (d : Deed) : coreOf (postDeed s k due ph d) j = coreOf s j := rfl
@[simp] theorem coreOf_postGang (s : State) (g due ph j : Nat) (i : Instr) : coreOf (postGang s g due ph i) j = coreOf s j := rfl
@[simp] theorem coreOf_postPod (s : State) (due ph j : Nat) (i : Instr) : coreOf (postPod s due ph i) j = coreOf s j := rfl
@[simp] theorem gangOf_setGang_self (s : State) (g : Nat) (x : Gang) : gangOf (setGang s g x) g = x := tget_tset_self _ _ _ _
@[simp] theorem gangOf_setGang_ne (s : State) {g h : Nat} (x : Gang) (e : h ≠ g) : gangOf (setGang s g x) h = gangOf s h :=
  tget_tset_ne _ _ _ e
@[simp] theorem gangOf_modGang_self (s : State) (g : Nat) (f : Gang → Gang) : gangOf (modGang s g f) g = f (gangOf s g) :=
  tget_tset_self _ _ _ _
@[simp] theorem gangOf_modGang_ne (s : State) {g h : Nat} (f : Gang → Gang) (e : h ≠ g) :
    gangOf (modGang s g f) h = gangOf s h := tget_tset_ne _ _ _ e
@[simp] theorem gangOf_setCore (s : State) (k g : Nat) (c : Core) : gangOf (setCore s k c) g = gangOf s g := rfl
@[simp] theorem gangOf_modCore (s : State) (k g : Nat) (f : Core → Core) : gangOf (modCore s k f) g = gangOf s g := rfl
@[simp] theorem gangOf_modMe (s : State) (g : Nat) (f : Core → Core) : gangOf (modMe s f) g = gangOf s g := rfl
@[simp] theorem gangOf_post (s : State) (j : Job) (g : Nat) : gangOf (post s j) g = gangOf s g := rfl
@[simp] theorem gangOf_postCore (s : State) (k due ph g : Nat) (t : Task) : gangOf (postCore s k due ph t) g = gangOf s g := rfl
@[simp] theorem gangOf_postDeed (s : State) (k due ph g : Nat) (d : Deed) : gangOf (postDeed s k due ph d) g = gangOf s g := rfl
@[simp] theorem gangOf_postGang (s : State) (h due ph g : Nat) (i : Instr) : gangOf (postGang s h due ph i) g = gangOf s g := rfl
@[simp] theorem gangOf_postPod (s : State) (due ph g : Nat) (i : Instr) : gangOf (postPod s due ph i) g = gangOf s g := rfl

/-! The running step's core. -/

@[simp] theorem me_setCore (s : State) (k : Nat) (c : Core) : me (setCore s k c) = me s := rfl
@[simp] theorem me_modCore (s : State) (k : Nat) (f : Core → Core) : me (modCore s k f) = me s := rfl
@[simp] theorem me_modMe (s : State) (f : Core → Core) : me (modMe s f) = me s := rfl
@[simp] theorem me_setGang (s : State) (g : Nat) (x : Gang) : me (setGang s g x) = me s := rfl
@[simp] theorem me_modGang (s : State) (g : Nat) (f : Gang → Gang) : me (modGang s g f) = me s := rfl
@[simp] theorem me_post (s : State) (j : Job) : me (post s j) = me s := rfl
@[simp] theorem me_postCore (s : State) (k due ph : Nat) (t : Task) : me (postCore s k due ph t) = me s := rfl
@[simp] theorem me_postDeed (s : State) (k due ph : Nat) (d : Deed) : me (postDeed s k due ph d) = me s := rfl
@[simp] theorem me_postGang (s : State) (g due ph : Nat) (i : Instr) : me (postGang s g due ph i) = me s := rfl
@[simp] theorem me_postPod (s : State) (due ph : Nat) (i : Instr) : me (postPod s due ph i) = me s := rfl
@[simp] theorem myCore_modMe (s : State) (f : Core → Core) : myCore (modMe s f) = f (myCore s) := tget_tset_self _ _ _ _
@[simp] theorem myCore_post (s : State) (j : Job) : myCore (post s j) = myCore s := rfl
@[simp] theorem myCore_postCore (s : State) (k due ph : Nat) (t : Task) : myCore (postCore s k due ph t) = myCore s := rfl
@[simp] theorem myCore_postDeed (s : State) (k due ph : Nat) (d : Deed) : myCore (postDeed s k due ph d) = myCore s := rfl

theorem now_eq (s : State) : now s = (gangOf s (myCore s).gang).gcyc := rfl

/-- A change of a core that leaves its gang leaves the cycle it reads. -/
theorem now_modMe (s : State) (f : Core → Core) (h : (f (myCore s)).gang = (myCore s).gang) : now (modMe s f) = now s := by
  simp only [now_eq, myCore_modMe, gangOf_modMe, h]

/-! Updates of a core. -/

@[simp] theorem setPort_gang (c : Core) (id : Nat) (w : Word) : (setPort c id w).gang = c.gang := rfl
@[simp] theorem setPort_idx (c : Core) (id : Nat) (w : Word) : (setPort c id w).idx = c.idx := rfl
@[simp] theorem setPort_running (c : Core) (id : Nat) (w : Word) : (setPort c id w).running = c.running := rfl
@[simp] theorem setPort_frozenAt (c : Core) (id : Nat) (w : Word) : (setPort c id w).frozenAt = c.frozenAt := rfl
@[simp] theorem setPort_stopped (c : Core) (id : Nat) (w : Word) : (setPort c id w).stopped = c.stopped := rfl
@[simp] theorem setPort_pc (c : Core) (id : Nat) (w : Word) : (setPort c id w).pc = c.pc := rfl
@[simp] theorem setPort_nextIssue (c : Core) (id : Nat) (w : Word) : (setPort c id w).nextIssue = c.nextIssue := rfl
@[simp] theorem setPort_waits (c : Core) (id : Nat) (w : Word) : (setPort c id w).waits = c.waits := rfl
@[simp] theorem setPort_starts (c : Core) (id : Nat) (w : Word) : (setPort c id w).starts = c.starts := rfl
@[simp] theorem setPort_exitAt (c : Core) (id : Nat) (w : Word) : (setPort c id w).exitAt = c.exitAt := rfl
@[simp] theorem setPort_spawned (c : Core) (id : Nat) (w : Word) : (setPort c id w).spawned = c.spawned := rfl
@[simp] theorem setPort_curCycle (c : Core) (id : Nat) (w : Word) : (setPort c id w).curCycle = c.curCycle := rfl
@[simp] theorem setPort_curBundle (c : Core) (id : Nat) (w : Word) : (setPort c id w).curBundle = c.curBundle := rfl
@[simp] theorem setPort_latch (c : Core) (id : Nat) (w : Word) : (setPort c id w).latch = c.latch := rfl
@[simp] theorem setPort_buffered (c : Core) (id : Nat) (w : Word) : (setPort c id w).buffered = c.buffered := rfl
@[simp] theorem setPort_s (c : Core) (id : Nat) (w : Word) : (setPort c id w).s = c.s := rfl
@[simp] theorem setPort_v (c : Core) (id : Nat) (w : Word) : (setPort c id w).v = c.v := rfl
@[simp] theorem setPort_k (c : Core) (id : Nat) (w : Word) : (setPort c id w).k = c.k := rfl
@[simp] theorem setPort_p (c : Core) (id : Nat) (w : Word) : (setPort c id w).p = c.p := rfl
@[simp] theorem setPort_vports (c : Core) (id : Nat) (w : Word) : (setPort c id w).vports = c.vports := rfl
@[simp] theorem setPort_kports (c : Core) (id : Nat) (w : Word) : (setPort c id w).kports = c.kports := rfl
@[simp] theorem setPort_res (c : Core) (id : Nat) (w : Word) : (setPort c id w).res = c.res := rfl
@[simp] theorem setPort_vres (c : Core) (id : Nat) (w : Word) : (setPort c id w).vres = c.vres := rfl
@[simp] theorem setPort_vprev (c : Core) (id : Nat) (w : Word) : (setPort c id w).vprev = c.vprev := rfl
@[simp] theorem setPort_deliv (c : Core) (id : Nat) (w : Word) : (setPort c id w).deliv = c.deliv := rfl
@[simp] theorem setPort_targets (c : Core) (id : Nat) (w : Word) : (setPort c id w).targets = c.targets := rfl
@[simp] theorem setPort_links (c : Core) (id : Nat) (w : Word) : (setPort c id w).links = c.links := rfl
@[simp] theorem setPort_loops (c : Core) (id : Nat) (w : Word) : (setPort c id w).loops = c.loops := rfl
@[simp] theorem setPort_loopSeq (c : Core) (id : Nat) (w : Word) : (setPort c id w).loopSeq = c.loopSeq := rfl
@[simp] theorem setPort_flags (c : Core) (id : Nat) (w : Word) : (setPort c id w).flags = c.flags := rfl
@[simp] theorem setPort_predDue (c : Core) (id : Nat) (w : Word) : (setPort c id w).predDue = c.predDue := rfl
@[simp] theorem setPort_seed (c : Core) (id : Nat) (w : Word) : (setPort c id w).seed = c.seed := rfl
@[simp] theorem setPort_genVA (c : Core) (id : Nat) (w : Word) : (setPort c id w).genVA = c.genVA := rfl
@[simp] theorem setPort_genVB (c : Core) (id : Nat) (w : Word) : (setPort c id w).genVB = c.genVB := rfl
@[simp] theorem setPort_genSQ (c : Core) (id : Nat) (w : Word) : (setPort c id w).genSQ = c.genSQ := rfl
@[simp] theorem setPort_genMX (c : Core) (id : Nat) (w : Word) : (setPort c id w).genMX = c.genMX := rfl
@[simp] theorem setPort_lutVA (c : Core) (id : Nat) (w : Word) : (setPort c id w).lutVA = c.lutVA := rfl
@[simp] theorem setPort_lutVB (c : Core) (id : Nat) (w : Word) : (setPort c id w).lutVB = c.lutVB := rfl
@[simp] theorem setPort_poison (c : Core) (id : Nat) (w : Word) : (setPort c id w).poison = c.poison := rfl
@[simp] theorem setPort_suppress (c : Core) (id : Nat) (w : Word) : (setPort c id w).suppress = c.suppress := rfl
@[simp] theorem setPort_slipInfo (c : Core) (id : Nat) (w : Word) : (setPort c id w).slipInfo = c.slipInfo := rfl
@[simp] theorem setPort_wdogBase (c : Core) (id : Nat) (w : Word) : (setPort c id w).wdogBase = c.wdogBase := rfl
@[simp] theorem setPort_wdogHeld (c : Core) (id : Nat) (w : Word) : (setPort c id w).wdogHeld = c.wdogHeld := rfl
@[simp] theorem setPort_streams (c : Core) (id : Nat) (w : Word) : (setPort c id w).streams = c.streams := rfl
@[simp] theorem setPort_fetched (c : Core) (id : Nat) (w : Word) : (setPort c id w).fetched = c.fetched := rfl
@[simp] theorem setPort_accesses (c : Core) (id : Nat) (w : Word) : (setPort c id w).accesses = c.accesses := rfl
@[simp] theorem setPort_foreign (c : Core) (id : Nat) (w : Word) : (setPort c id w).foreign = c.foreign := rfl
@[simp] theorem setPort_fstamps (c : Core) (id : Nat) (w : Word) : (setPort c id w).fstamps = c.fstamps := rfl
@[simp] theorem setPort_voided (c : Core) (id : Nat) (w : Word) : (setPort c id w).voided = c.voided := rfl
@[simp] theorem setPort_stamps (c : Core) (id : Nat) (w : Word) : (setPort c id w).stamps = c.stamps := rfl
@[simp] theorem setPort_path (c : Core) (id : Nat) (w : Word) : (setPort c id w).path = c.path := rfl
@[simp] theorem setPort_scratch (c : Core) (id : Nat) (w : Word) : (setPort c id w).scratch = c.scratch := rfl
@[simp] theorem setPort_tags (c : Core) (id : Nat) (w : Word) : (setPort c id w).tags = c.tags := rfl
@[simp] theorem setPort_shadow (c : Core) (id : Nat) (w : Word) : (setPort c id w).shadow = c.shadow := rfl
@[simp] theorem setPort_badTiles (c : Core) (id : Nat) (w : Word) : (setPort c id w).badTiles = c.badTiles := rfl
@[simp] theorem setPort_claims (c : Core) (id : Nat) (w : Word) : (setPort c id w).claims = c.claims := rfl
@[simp] theorem setPort_owners (c : Core) (id : Nat) (w : Word) : (setPort c id w).owners = c.owners := rfl
@[simp] theorem setPort_istore (c : Core) (id : Nat) (w : Word) : (setPort c id w).istore = c.istore := rfl
@[simp] theorem setPort_ahead (c : Core) (id : Nat) (w : Word) : (setPort c id w).ahead = c.ahead := rfl
@[simp] theorem setPort_isdirty (c : Core) (id : Nat) (w : Word) : (setPort c id w).isdirty = c.isdirty := rfl
@[simp] theorem setPort_badBundles (c : Core) (id : Nat) (w : Word) : (setPort c id w).badBundles = c.badBundles := rfl
@[simp] theorem setPort_mx (c : Core) (id : Nat) (w : Word) : (setPort c id w).mx = c.mx := rfl
@[simp] theorem setPort_cmds (c : Core) (id : Nat) (w : Word) : (setPort c id w).cmds = c.cmds := rfl
@[simp] theorem setPort_cmdSeq (c : Core) (id : Nat) (w : Word) : (setPort c id w).cmdSeq = c.cmdSeq := rfl
@[simp] theorem setPort_recvs (c : Core) (id : Nat) (w : Word) : (setPort c id w).recvs = c.recvs := rfl
@[simp] theorem setPort_snaps (c : Core) (id : Nat) (w : Word) : (setPort c id w).snaps = c.snaps := rfl
@[simp] theorem setPort_owed (c : Core) (id : Nat) (w : Word) : (setPort c id w).owed = c.owed := rfl
@[simp] theorem setPort_nextBank (c : Core) (id : Nat) (w : Word) : (setPort c id w).nextBank = c.nextBank := rfl
@[simp] theorem setPort_dramCmds (c : Core) (id : Nat) (w : Word) : (setPort c id w).dramCmds = c.dramCmds := rfl
@[simp] theorem setPort_interval (c : Core) (id : Nat) (w : Word) : (setPort c id w).interval = c.interval := rfl
@[simp] theorem setPort_racectl (c : Core) (id : Nat) (w : Word) : (setPort c id w).racectl = c.racectl := rfl
@[simp] theorem setPort_racecnt (c : Core) (id : Nat) (w : Word) : (setPort c id w).racecnt = c.racecnt := rfl
@[simp] theorem setPort_polver (c : Core) (id : Nat) (w : Word) : (setPort c id w).polver = c.polver := rfl
@[simp] theorem setPort_nopreempt (c : Core) (id : Nat) (w : Word) : (setPort c id w).nopreempt = c.nopreempt := rfl
@[simp] theorem setPort_watch0 (c : Core) (id : Nat) (w : Word) : (setPort c id w).watch0 = c.watch0 := rfl
@[simp] theorem setPort_watch1 (c : Core) (id : Nat) (w : Word) : (setPort c id w).watch1 = c.watch1 := rfl
@[simp] theorem setPort_watch2 (c : Core) (id : Nat) (w : Word) : (setPort c id w).watch2 = c.watch2 := rfl
@[simp] theorem setPort_watch3 (c : Core) (id : Nat) (w : Word) : (setPort c id w).watch3 = c.watch3 := rfl
@[simp] theorem setPort_records (c : Core) (id : Nat) (w : Word) : (setPort c id w).records = c.records := rfl
@[simp] theorem setPort_lost (c : Core) (id : Nat) (w : Word) : (setPort c id w).lost = c.lost := rfl
@[simp] theorem setPort_fault (c : Core) (id : Nat) (w : Word) : (setPort c id w).fault = c.fault := rfl
@[simp] theorem setPort_raised (c : Core) (id : Nat) (w : Word) : (setPort c id w).raised = c.raised := rfl
@[simp] theorem setPort_doomed (c : Core) (id : Nat) (w : Word) : (setPort c id w).doomed = c.doomed := rfl
@[simp] theorem setPort_dbg (c : Core) (id : Nat) (w : Word) : (setPort c id w).dbg = c.dbg := rfl
@[simp] theorem setPort_undoPtr (c : Core) (id : Nat) (w : Word) : (setPort c id w).undoPtr = c.undoPtr := rfl
@[simp] theorem setPort_undoPc (c : Core) (id : Nat) (w : Word) : (setPort c id w).undoPc = c.undoPc := rfl
@[simp] theorem setPort_undoLoops (c : Core) (id : Nat) (w : Word) : (setPort c id w).undoLoops = c.undoLoops := rfl
@[simp] theorem setPort_undoWaits (c : Core) (id : Nat) (w : Word) : (setPort c id w).undoWaits = c.undoWaits := rfl
@[simp] theorem setPort_undoNext (c : Core) (id : Nat) (w : Word) : (setPort c id w).undoNext = c.undoNext := rfl
@[simp] theorem setVport_gang (c : Core) (id : Nat) (w : Vec) : (setVport c id w).gang = c.gang := rfl
@[simp] theorem setVport_idx (c : Core) (id : Nat) (w : Vec) : (setVport c id w).idx = c.idx := rfl
@[simp] theorem setVport_running (c : Core) (id : Nat) (w : Vec) : (setVport c id w).running = c.running := rfl
@[simp] theorem setVport_frozenAt (c : Core) (id : Nat) (w : Vec) : (setVport c id w).frozenAt = c.frozenAt := rfl
@[simp] theorem setVport_stopped (c : Core) (id : Nat) (w : Vec) : (setVport c id w).stopped = c.stopped := rfl
@[simp] theorem setVport_pc (c : Core) (id : Nat) (w : Vec) : (setVport c id w).pc = c.pc := rfl
@[simp] theorem setVport_nextIssue (c : Core) (id : Nat) (w : Vec) : (setVport c id w).nextIssue = c.nextIssue := rfl
@[simp] theorem setVport_waits (c : Core) (id : Nat) (w : Vec) : (setVport c id w).waits = c.waits := rfl
@[simp] theorem setVport_starts (c : Core) (id : Nat) (w : Vec) : (setVport c id w).starts = c.starts := rfl
@[simp] theorem setVport_exitAt (c : Core) (id : Nat) (w : Vec) : (setVport c id w).exitAt = c.exitAt := rfl
@[simp] theorem setVport_spawned (c : Core) (id : Nat) (w : Vec) : (setVport c id w).spawned = c.spawned := rfl
@[simp] theorem setVport_curCycle (c : Core) (id : Nat) (w : Vec) : (setVport c id w).curCycle = c.curCycle := rfl
@[simp] theorem setVport_curBundle (c : Core) (id : Nat) (w : Vec) : (setVport c id w).curBundle = c.curBundle := rfl
@[simp] theorem setVport_latch (c : Core) (id : Nat) (w : Vec) : (setVport c id w).latch = c.latch := rfl
@[simp] theorem setVport_buffered (c : Core) (id : Nat) (w : Vec) : (setVport c id w).buffered = c.buffered := rfl
@[simp] theorem setVport_s (c : Core) (id : Nat) (w : Vec) : (setVport c id w).s = c.s := rfl
@[simp] theorem setVport_v (c : Core) (id : Nat) (w : Vec) : (setVport c id w).v = c.v := rfl
@[simp] theorem setVport_k (c : Core) (id : Nat) (w : Vec) : (setVport c id w).k = c.k := rfl
@[simp] theorem setVport_p (c : Core) (id : Nat) (w : Vec) : (setVport c id w).p = c.p := rfl
@[simp] theorem setVport_ports (c : Core) (id : Nat) (w : Vec) : (setVport c id w).ports = c.ports := rfl
@[simp] theorem setVport_kports (c : Core) (id : Nat) (w : Vec) : (setVport c id w).kports = c.kports := rfl
@[simp] theorem setVport_res (c : Core) (id : Nat) (w : Vec) : (setVport c id w).res = c.res := rfl
@[simp] theorem setVport_vres (c : Core) (id : Nat) (w : Vec) : (setVport c id w).vres = c.vres := rfl
@[simp] theorem setVport_vprev (c : Core) (id : Nat) (w : Vec) : (setVport c id w).vprev = c.vprev := rfl
@[simp] theorem setVport_deliv (c : Core) (id : Nat) (w : Vec) : (setVport c id w).deliv = c.deliv := rfl
@[simp] theorem setVport_targets (c : Core) (id : Nat) (w : Vec) : (setVport c id w).targets = c.targets := rfl
@[simp] theorem setVport_links (c : Core) (id : Nat) (w : Vec) : (setVport c id w).links = c.links := rfl
@[simp] theorem setVport_loops (c : Core) (id : Nat) (w : Vec) : (setVport c id w).loops = c.loops := rfl
@[simp] theorem setVport_loopSeq (c : Core) (id : Nat) (w : Vec) : (setVport c id w).loopSeq = c.loopSeq := rfl
@[simp] theorem setVport_flags (c : Core) (id : Nat) (w : Vec) : (setVport c id w).flags = c.flags := rfl
@[simp] theorem setVport_predDue (c : Core) (id : Nat) (w : Vec) : (setVport c id w).predDue = c.predDue := rfl
@[simp] theorem setVport_seed (c : Core) (id : Nat) (w : Vec) : (setVport c id w).seed = c.seed := rfl
@[simp] theorem setVport_genVA (c : Core) (id : Nat) (w : Vec) : (setVport c id w).genVA = c.genVA := rfl
@[simp] theorem setVport_genVB (c : Core) (id : Nat) (w : Vec) : (setVport c id w).genVB = c.genVB := rfl
@[simp] theorem setVport_genSQ (c : Core) (id : Nat) (w : Vec) : (setVport c id w).genSQ = c.genSQ := rfl
@[simp] theorem setVport_genMX (c : Core) (id : Nat) (w : Vec) : (setVport c id w).genMX = c.genMX := rfl
@[simp] theorem setVport_lutVA (c : Core) (id : Nat) (w : Vec) : (setVport c id w).lutVA = c.lutVA := rfl
@[simp] theorem setVport_lutVB (c : Core) (id : Nat) (w : Vec) : (setVport c id w).lutVB = c.lutVB := rfl
@[simp] theorem setVport_poison (c : Core) (id : Nat) (w : Vec) : (setVport c id w).poison = c.poison := rfl
@[simp] theorem setVport_suppress (c : Core) (id : Nat) (w : Vec) : (setVport c id w).suppress = c.suppress := rfl
@[simp] theorem setVport_slipInfo (c : Core) (id : Nat) (w : Vec) : (setVport c id w).slipInfo = c.slipInfo := rfl
@[simp] theorem setVport_wdogBase (c : Core) (id : Nat) (w : Vec) : (setVport c id w).wdogBase = c.wdogBase := rfl
@[simp] theorem setVport_wdogHeld (c : Core) (id : Nat) (w : Vec) : (setVport c id w).wdogHeld = c.wdogHeld := rfl
@[simp] theorem setVport_streams (c : Core) (id : Nat) (w : Vec) : (setVport c id w).streams = c.streams := rfl
@[simp] theorem setVport_fetched (c : Core) (id : Nat) (w : Vec) : (setVport c id w).fetched = c.fetched := rfl
@[simp] theorem setVport_accesses (c : Core) (id : Nat) (w : Vec) : (setVport c id w).accesses = c.accesses := rfl
@[simp] theorem setVport_foreign (c : Core) (id : Nat) (w : Vec) : (setVport c id w).foreign = c.foreign := rfl
@[simp] theorem setVport_fstamps (c : Core) (id : Nat) (w : Vec) : (setVport c id w).fstamps = c.fstamps := rfl
@[simp] theorem setVport_voided (c : Core) (id : Nat) (w : Vec) : (setVport c id w).voided = c.voided := rfl
@[simp] theorem setVport_stamps (c : Core) (id : Nat) (w : Vec) : (setVport c id w).stamps = c.stamps := rfl
@[simp] theorem setVport_path (c : Core) (id : Nat) (w : Vec) : (setVport c id w).path = c.path := rfl
@[simp] theorem setVport_scratch (c : Core) (id : Nat) (w : Vec) : (setVport c id w).scratch = c.scratch := rfl
@[simp] theorem setVport_tags (c : Core) (id : Nat) (w : Vec) : (setVport c id w).tags = c.tags := rfl
@[simp] theorem setVport_shadow (c : Core) (id : Nat) (w : Vec) : (setVport c id w).shadow = c.shadow := rfl
@[simp] theorem setVport_badTiles (c : Core) (id : Nat) (w : Vec) : (setVport c id w).badTiles = c.badTiles := rfl
@[simp] theorem setVport_claims (c : Core) (id : Nat) (w : Vec) : (setVport c id w).claims = c.claims := rfl
@[simp] theorem setVport_owners (c : Core) (id : Nat) (w : Vec) : (setVport c id w).owners = c.owners := rfl
@[simp] theorem setVport_istore (c : Core) (id : Nat) (w : Vec) : (setVport c id w).istore = c.istore := rfl
@[simp] theorem setVport_ahead (c : Core) (id : Nat) (w : Vec) : (setVport c id w).ahead = c.ahead := rfl
@[simp] theorem setVport_isdirty (c : Core) (id : Nat) (w : Vec) : (setVport c id w).isdirty = c.isdirty := rfl
@[simp] theorem setVport_badBundles (c : Core) (id : Nat) (w : Vec) : (setVport c id w).badBundles = c.badBundles := rfl
@[simp] theorem setVport_mx (c : Core) (id : Nat) (w : Vec) : (setVport c id w).mx = c.mx := rfl
@[simp] theorem setVport_cmds (c : Core) (id : Nat) (w : Vec) : (setVport c id w).cmds = c.cmds := rfl
@[simp] theorem setVport_cmdSeq (c : Core) (id : Nat) (w : Vec) : (setVport c id w).cmdSeq = c.cmdSeq := rfl
@[simp] theorem setVport_recvs (c : Core) (id : Nat) (w : Vec) : (setVport c id w).recvs = c.recvs := rfl
@[simp] theorem setVport_snaps (c : Core) (id : Nat) (w : Vec) : (setVport c id w).snaps = c.snaps := rfl
@[simp] theorem setVport_owed (c : Core) (id : Nat) (w : Vec) : (setVport c id w).owed = c.owed := rfl
@[simp] theorem setVport_nextBank (c : Core) (id : Nat) (w : Vec) : (setVport c id w).nextBank = c.nextBank := rfl
@[simp] theorem setVport_dramCmds (c : Core) (id : Nat) (w : Vec) : (setVport c id w).dramCmds = c.dramCmds := rfl
@[simp] theorem setVport_interval (c : Core) (id : Nat) (w : Vec) : (setVport c id w).interval = c.interval := rfl
@[simp] theorem setVport_racectl (c : Core) (id : Nat) (w : Vec) : (setVport c id w).racectl = c.racectl := rfl
@[simp] theorem setVport_racecnt (c : Core) (id : Nat) (w : Vec) : (setVport c id w).racecnt = c.racecnt := rfl
@[simp] theorem setVport_polver (c : Core) (id : Nat) (w : Vec) : (setVport c id w).polver = c.polver := rfl
@[simp] theorem setVport_nopreempt (c : Core) (id : Nat) (w : Vec) : (setVport c id w).nopreempt = c.nopreempt := rfl
@[simp] theorem setVport_watch0 (c : Core) (id : Nat) (w : Vec) : (setVport c id w).watch0 = c.watch0 := rfl
@[simp] theorem setVport_watch1 (c : Core) (id : Nat) (w : Vec) : (setVport c id w).watch1 = c.watch1 := rfl
@[simp] theorem setVport_watch2 (c : Core) (id : Nat) (w : Vec) : (setVport c id w).watch2 = c.watch2 := rfl
@[simp] theorem setVport_watch3 (c : Core) (id : Nat) (w : Vec) : (setVport c id w).watch3 = c.watch3 := rfl
@[simp] theorem setVport_records (c : Core) (id : Nat) (w : Vec) : (setVport c id w).records = c.records := rfl
@[simp] theorem setVport_lost (c : Core) (id : Nat) (w : Vec) : (setVport c id w).lost = c.lost := rfl
@[simp] theorem setVport_fault (c : Core) (id : Nat) (w : Vec) : (setVport c id w).fault = c.fault := rfl
@[simp] theorem setVport_raised (c : Core) (id : Nat) (w : Vec) : (setVport c id w).raised = c.raised := rfl
@[simp] theorem setVport_doomed (c : Core) (id : Nat) (w : Vec) : (setVport c id w).doomed = c.doomed := rfl
@[simp] theorem setVport_dbg (c : Core) (id : Nat) (w : Vec) : (setVport c id w).dbg = c.dbg := rfl
@[simp] theorem setVport_undoPtr (c : Core) (id : Nat) (w : Vec) : (setVport c id w).undoPtr = c.undoPtr := rfl
@[simp] theorem setVport_undoPc (c : Core) (id : Nat) (w : Vec) : (setVport c id w).undoPc = c.undoPc := rfl
@[simp] theorem setVport_undoLoops (c : Core) (id : Nat) (w : Vec) : (setVport c id w).undoLoops = c.undoLoops := rfl
@[simp] theorem setVport_undoWaits (c : Core) (id : Nat) (w : Vec) : (setVport c id w).undoWaits = c.undoWaits := rfl
@[simp] theorem setVport_undoNext (c : Core) (id : Nat) (w : Vec) : (setVport c id w).undoNext = c.undoNext := rfl
@[simp] theorem setKport_gang (c : Core) (id : Nat) (w : Mask) : (setKport c id w).gang = c.gang := rfl
@[simp] theorem setKport_idx (c : Core) (id : Nat) (w : Mask) : (setKport c id w).idx = c.idx := rfl
@[simp] theorem setKport_running (c : Core) (id : Nat) (w : Mask) : (setKport c id w).running = c.running := rfl
@[simp] theorem setKport_frozenAt (c : Core) (id : Nat) (w : Mask) : (setKport c id w).frozenAt = c.frozenAt := rfl
@[simp] theorem setKport_stopped (c : Core) (id : Nat) (w : Mask) : (setKport c id w).stopped = c.stopped := rfl
@[simp] theorem setKport_pc (c : Core) (id : Nat) (w : Mask) : (setKport c id w).pc = c.pc := rfl
@[simp] theorem setKport_nextIssue (c : Core) (id : Nat) (w : Mask) : (setKport c id w).nextIssue = c.nextIssue := rfl
@[simp] theorem setKport_waits (c : Core) (id : Nat) (w : Mask) : (setKport c id w).waits = c.waits := rfl
@[simp] theorem setKport_starts (c : Core) (id : Nat) (w : Mask) : (setKport c id w).starts = c.starts := rfl
@[simp] theorem setKport_exitAt (c : Core) (id : Nat) (w : Mask) : (setKport c id w).exitAt = c.exitAt := rfl
@[simp] theorem setKport_spawned (c : Core) (id : Nat) (w : Mask) : (setKport c id w).spawned = c.spawned := rfl
@[simp] theorem setKport_curCycle (c : Core) (id : Nat) (w : Mask) : (setKport c id w).curCycle = c.curCycle := rfl
@[simp] theorem setKport_curBundle (c : Core) (id : Nat) (w : Mask) : (setKport c id w).curBundle = c.curBundle := rfl
@[simp] theorem setKport_latch (c : Core) (id : Nat) (w : Mask) : (setKport c id w).latch = c.latch := rfl
@[simp] theorem setKport_buffered (c : Core) (id : Nat) (w : Mask) : (setKport c id w).buffered = c.buffered := rfl
@[simp] theorem setKport_s (c : Core) (id : Nat) (w : Mask) : (setKport c id w).s = c.s := rfl
@[simp] theorem setKport_v (c : Core) (id : Nat) (w : Mask) : (setKport c id w).v = c.v := rfl
@[simp] theorem setKport_k (c : Core) (id : Nat) (w : Mask) : (setKport c id w).k = c.k := rfl
@[simp] theorem setKport_p (c : Core) (id : Nat) (w : Mask) : (setKport c id w).p = c.p := rfl
@[simp] theorem setKport_ports (c : Core) (id : Nat) (w : Mask) : (setKport c id w).ports = c.ports := rfl
@[simp] theorem setKport_vports (c : Core) (id : Nat) (w : Mask) : (setKport c id w).vports = c.vports := rfl
@[simp] theorem setKport_res (c : Core) (id : Nat) (w : Mask) : (setKport c id w).res = c.res := rfl
@[simp] theorem setKport_vres (c : Core) (id : Nat) (w : Mask) : (setKport c id w).vres = c.vres := rfl
@[simp] theorem setKport_vprev (c : Core) (id : Nat) (w : Mask) : (setKport c id w).vprev = c.vprev := rfl
@[simp] theorem setKport_deliv (c : Core) (id : Nat) (w : Mask) : (setKport c id w).deliv = c.deliv := rfl
@[simp] theorem setKport_targets (c : Core) (id : Nat) (w : Mask) : (setKport c id w).targets = c.targets := rfl
@[simp] theorem setKport_links (c : Core) (id : Nat) (w : Mask) : (setKport c id w).links = c.links := rfl
@[simp] theorem setKport_loops (c : Core) (id : Nat) (w : Mask) : (setKport c id w).loops = c.loops := rfl
@[simp] theorem setKport_loopSeq (c : Core) (id : Nat) (w : Mask) : (setKport c id w).loopSeq = c.loopSeq := rfl
@[simp] theorem setKport_flags (c : Core) (id : Nat) (w : Mask) : (setKport c id w).flags = c.flags := rfl
@[simp] theorem setKport_predDue (c : Core) (id : Nat) (w : Mask) : (setKport c id w).predDue = c.predDue := rfl
@[simp] theorem setKport_seed (c : Core) (id : Nat) (w : Mask) : (setKport c id w).seed = c.seed := rfl
@[simp] theorem setKport_genVA (c : Core) (id : Nat) (w : Mask) : (setKport c id w).genVA = c.genVA := rfl
@[simp] theorem setKport_genVB (c : Core) (id : Nat) (w : Mask) : (setKport c id w).genVB = c.genVB := rfl
@[simp] theorem setKport_genSQ (c : Core) (id : Nat) (w : Mask) : (setKport c id w).genSQ = c.genSQ := rfl
@[simp] theorem setKport_genMX (c : Core) (id : Nat) (w : Mask) : (setKport c id w).genMX = c.genMX := rfl
@[simp] theorem setKport_lutVA (c : Core) (id : Nat) (w : Mask) : (setKport c id w).lutVA = c.lutVA := rfl
@[simp] theorem setKport_lutVB (c : Core) (id : Nat) (w : Mask) : (setKport c id w).lutVB = c.lutVB := rfl
@[simp] theorem setKport_poison (c : Core) (id : Nat) (w : Mask) : (setKport c id w).poison = c.poison := rfl
@[simp] theorem setKport_suppress (c : Core) (id : Nat) (w : Mask) : (setKport c id w).suppress = c.suppress := rfl
@[simp] theorem setKport_slipInfo (c : Core) (id : Nat) (w : Mask) : (setKport c id w).slipInfo = c.slipInfo := rfl
@[simp] theorem setKport_wdogBase (c : Core) (id : Nat) (w : Mask) : (setKport c id w).wdogBase = c.wdogBase := rfl
@[simp] theorem setKport_wdogHeld (c : Core) (id : Nat) (w : Mask) : (setKport c id w).wdogHeld = c.wdogHeld := rfl
@[simp] theorem setKport_streams (c : Core) (id : Nat) (w : Mask) : (setKport c id w).streams = c.streams := rfl
@[simp] theorem setKport_fetched (c : Core) (id : Nat) (w : Mask) : (setKport c id w).fetched = c.fetched := rfl
@[simp] theorem setKport_accesses (c : Core) (id : Nat) (w : Mask) : (setKport c id w).accesses = c.accesses := rfl
@[simp] theorem setKport_foreign (c : Core) (id : Nat) (w : Mask) : (setKport c id w).foreign = c.foreign := rfl
@[simp] theorem setKport_fstamps (c : Core) (id : Nat) (w : Mask) : (setKport c id w).fstamps = c.fstamps := rfl
@[simp] theorem setKport_voided (c : Core) (id : Nat) (w : Mask) : (setKport c id w).voided = c.voided := rfl
@[simp] theorem setKport_stamps (c : Core) (id : Nat) (w : Mask) : (setKport c id w).stamps = c.stamps := rfl
@[simp] theorem setKport_path (c : Core) (id : Nat) (w : Mask) : (setKport c id w).path = c.path := rfl
@[simp] theorem setKport_scratch (c : Core) (id : Nat) (w : Mask) : (setKport c id w).scratch = c.scratch := rfl
@[simp] theorem setKport_tags (c : Core) (id : Nat) (w : Mask) : (setKport c id w).tags = c.tags := rfl
@[simp] theorem setKport_shadow (c : Core) (id : Nat) (w : Mask) : (setKport c id w).shadow = c.shadow := rfl
@[simp] theorem setKport_badTiles (c : Core) (id : Nat) (w : Mask) : (setKport c id w).badTiles = c.badTiles := rfl
@[simp] theorem setKport_claims (c : Core) (id : Nat) (w : Mask) : (setKport c id w).claims = c.claims := rfl
@[simp] theorem setKport_owners (c : Core) (id : Nat) (w : Mask) : (setKport c id w).owners = c.owners := rfl
@[simp] theorem setKport_istore (c : Core) (id : Nat) (w : Mask) : (setKport c id w).istore = c.istore := rfl
@[simp] theorem setKport_ahead (c : Core) (id : Nat) (w : Mask) : (setKport c id w).ahead = c.ahead := rfl
@[simp] theorem setKport_isdirty (c : Core) (id : Nat) (w : Mask) : (setKport c id w).isdirty = c.isdirty := rfl
@[simp] theorem setKport_badBundles (c : Core) (id : Nat) (w : Mask) : (setKport c id w).badBundles = c.badBundles := rfl
@[simp] theorem setKport_mx (c : Core) (id : Nat) (w : Mask) : (setKport c id w).mx = c.mx := rfl
@[simp] theorem setKport_cmds (c : Core) (id : Nat) (w : Mask) : (setKport c id w).cmds = c.cmds := rfl
@[simp] theorem setKport_cmdSeq (c : Core) (id : Nat) (w : Mask) : (setKport c id w).cmdSeq = c.cmdSeq := rfl
@[simp] theorem setKport_recvs (c : Core) (id : Nat) (w : Mask) : (setKport c id w).recvs = c.recvs := rfl
@[simp] theorem setKport_snaps (c : Core) (id : Nat) (w : Mask) : (setKport c id w).snaps = c.snaps := rfl
@[simp] theorem setKport_owed (c : Core) (id : Nat) (w : Mask) : (setKport c id w).owed = c.owed := rfl
@[simp] theorem setKport_nextBank (c : Core) (id : Nat) (w : Mask) : (setKport c id w).nextBank = c.nextBank := rfl
@[simp] theorem setKport_dramCmds (c : Core) (id : Nat) (w : Mask) : (setKport c id w).dramCmds = c.dramCmds := rfl
@[simp] theorem setKport_interval (c : Core) (id : Nat) (w : Mask) : (setKport c id w).interval = c.interval := rfl
@[simp] theorem setKport_racectl (c : Core) (id : Nat) (w : Mask) : (setKport c id w).racectl = c.racectl := rfl
@[simp] theorem setKport_racecnt (c : Core) (id : Nat) (w : Mask) : (setKport c id w).racecnt = c.racecnt := rfl
@[simp] theorem setKport_polver (c : Core) (id : Nat) (w : Mask) : (setKport c id w).polver = c.polver := rfl
@[simp] theorem setKport_nopreempt (c : Core) (id : Nat) (w : Mask) : (setKport c id w).nopreempt = c.nopreempt := rfl
@[simp] theorem setKport_watch0 (c : Core) (id : Nat) (w : Mask) : (setKport c id w).watch0 = c.watch0 := rfl
@[simp] theorem setKport_watch1 (c : Core) (id : Nat) (w : Mask) : (setKport c id w).watch1 = c.watch1 := rfl
@[simp] theorem setKport_watch2 (c : Core) (id : Nat) (w : Mask) : (setKport c id w).watch2 = c.watch2 := rfl
@[simp] theorem setKport_watch3 (c : Core) (id : Nat) (w : Mask) : (setKport c id w).watch3 = c.watch3 := rfl
@[simp] theorem setKport_records (c : Core) (id : Nat) (w : Mask) : (setKport c id w).records = c.records := rfl
@[simp] theorem setKport_lost (c : Core) (id : Nat) (w : Mask) : (setKport c id w).lost = c.lost := rfl
@[simp] theorem setKport_fault (c : Core) (id : Nat) (w : Mask) : (setKport c id w).fault = c.fault := rfl
@[simp] theorem setKport_raised (c : Core) (id : Nat) (w : Mask) : (setKport c id w).raised = c.raised := rfl
@[simp] theorem setKport_doomed (c : Core) (id : Nat) (w : Mask) : (setKport c id w).doomed = c.doomed := rfl
@[simp] theorem setKport_dbg (c : Core) (id : Nat) (w : Mask) : (setKport c id w).dbg = c.dbg := rfl
@[simp] theorem setKport_undoPtr (c : Core) (id : Nat) (w : Mask) : (setKport c id w).undoPtr = c.undoPtr := rfl
@[simp] theorem setKport_undoPc (c : Core) (id : Nat) (w : Mask) : (setKport c id w).undoPc = c.undoPc := rfl
@[simp] theorem setKport_undoLoops (c : Core) (id : Nat) (w : Mask) : (setKport c id w).undoLoops = c.undoLoops := rfl
@[simp] theorem setKport_undoWaits (c : Core) (id : Nat) (w : Mask) : (setKport c id w).undoWaits = c.undoWaits := rfl
@[simp] theorem setKport_undoNext (c : Core) (id : Nat) (w : Mask) : (setKport c id w).undoNext = c.undoNext := rfl
@[simp] theorem setVreg_gang (c : Core) (n : Nat) (w : Vec) : (setVreg c n w).gang = c.gang := rfl
@[simp] theorem setVreg_idx (c : Core) (n : Nat) (w : Vec) : (setVreg c n w).idx = c.idx := rfl
@[simp] theorem setVreg_running (c : Core) (n : Nat) (w : Vec) : (setVreg c n w).running = c.running := rfl
@[simp] theorem setVreg_frozenAt (c : Core) (n : Nat) (w : Vec) : (setVreg c n w).frozenAt = c.frozenAt := rfl
@[simp] theorem setVreg_stopped (c : Core) (n : Nat) (w : Vec) : (setVreg c n w).stopped = c.stopped := rfl
@[simp] theorem setVreg_pc (c : Core) (n : Nat) (w : Vec) : (setVreg c n w).pc = c.pc := rfl
@[simp] theorem setVreg_nextIssue (c : Core) (n : Nat) (w : Vec) : (setVreg c n w).nextIssue = c.nextIssue := rfl
@[simp] theorem setVreg_waits (c : Core) (n : Nat) (w : Vec) : (setVreg c n w).waits = c.waits := rfl
@[simp] theorem setVreg_starts (c : Core) (n : Nat) (w : Vec) : (setVreg c n w).starts = c.starts := rfl
@[simp] theorem setVreg_exitAt (c : Core) (n : Nat) (w : Vec) : (setVreg c n w).exitAt = c.exitAt := rfl
@[simp] theorem setVreg_spawned (c : Core) (n : Nat) (w : Vec) : (setVreg c n w).spawned = c.spawned := rfl
@[simp] theorem setVreg_curCycle (c : Core) (n : Nat) (w : Vec) : (setVreg c n w).curCycle = c.curCycle := rfl
@[simp] theorem setVreg_curBundle (c : Core) (n : Nat) (w : Vec) : (setVreg c n w).curBundle = c.curBundle := rfl
@[simp] theorem setVreg_latch (c : Core) (n : Nat) (w : Vec) : (setVreg c n w).latch = c.latch := rfl
@[simp] theorem setVreg_buffered (c : Core) (n : Nat) (w : Vec) : (setVreg c n w).buffered = c.buffered := rfl
@[simp] theorem setVreg_s (c : Core) (n : Nat) (w : Vec) : (setVreg c n w).s = c.s := rfl
@[simp] theorem setVreg_k (c : Core) (n : Nat) (w : Vec) : (setVreg c n w).k = c.k := rfl
@[simp] theorem setVreg_p (c : Core) (n : Nat) (w : Vec) : (setVreg c n w).p = c.p := rfl
@[simp] theorem setVreg_ports (c : Core) (n : Nat) (w : Vec) : (setVreg c n w).ports = c.ports := rfl
@[simp] theorem setVreg_vports (c : Core) (n : Nat) (w : Vec) : (setVreg c n w).vports = c.vports := rfl
@[simp] theorem setVreg_kports (c : Core) (n : Nat) (w : Vec) : (setVreg c n w).kports = c.kports := rfl
@[simp] theorem setVreg_res (c : Core) (n : Nat) (w : Vec) : (setVreg c n w).res = c.res := rfl
@[simp] theorem setVreg_vres (c : Core) (n : Nat) (w : Vec) : (setVreg c n w).vres = c.vres := rfl
@[simp] theorem setVreg_vprev (c : Core) (n : Nat) (w : Vec) : (setVreg c n w).vprev = c.vprev := rfl
@[simp] theorem setVreg_deliv (c : Core) (n : Nat) (w : Vec) : (setVreg c n w).deliv = c.deliv := rfl
@[simp] theorem setVreg_targets (c : Core) (n : Nat) (w : Vec) : (setVreg c n w).targets = c.targets := rfl
@[simp] theorem setVreg_links (c : Core) (n : Nat) (w : Vec) : (setVreg c n w).links = c.links := rfl
@[simp] theorem setVreg_loops (c : Core) (n : Nat) (w : Vec) : (setVreg c n w).loops = c.loops := rfl
@[simp] theorem setVreg_loopSeq (c : Core) (n : Nat) (w : Vec) : (setVreg c n w).loopSeq = c.loopSeq := rfl
@[simp] theorem setVreg_flags (c : Core) (n : Nat) (w : Vec) : (setVreg c n w).flags = c.flags := rfl
@[simp] theorem setVreg_predDue (c : Core) (n : Nat) (w : Vec) : (setVreg c n w).predDue = c.predDue := rfl
@[simp] theorem setVreg_seed (c : Core) (n : Nat) (w : Vec) : (setVreg c n w).seed = c.seed := rfl
@[simp] theorem setVreg_genVA (c : Core) (n : Nat) (w : Vec) : (setVreg c n w).genVA = c.genVA := rfl
@[simp] theorem setVreg_genVB (c : Core) (n : Nat) (w : Vec) : (setVreg c n w).genVB = c.genVB := rfl
@[simp] theorem setVreg_genSQ (c : Core) (n : Nat) (w : Vec) : (setVreg c n w).genSQ = c.genSQ := rfl
@[simp] theorem setVreg_genMX (c : Core) (n : Nat) (w : Vec) : (setVreg c n w).genMX = c.genMX := rfl
@[simp] theorem setVreg_lutVA (c : Core) (n : Nat) (w : Vec) : (setVreg c n w).lutVA = c.lutVA := rfl
@[simp] theorem setVreg_lutVB (c : Core) (n : Nat) (w : Vec) : (setVreg c n w).lutVB = c.lutVB := rfl
@[simp] theorem setVreg_poison (c : Core) (n : Nat) (w : Vec) : (setVreg c n w).poison = c.poison := rfl
@[simp] theorem setVreg_suppress (c : Core) (n : Nat) (w : Vec) : (setVreg c n w).suppress = c.suppress := rfl
@[simp] theorem setVreg_slipInfo (c : Core) (n : Nat) (w : Vec) : (setVreg c n w).slipInfo = c.slipInfo := rfl
@[simp] theorem setVreg_wdogBase (c : Core) (n : Nat) (w : Vec) : (setVreg c n w).wdogBase = c.wdogBase := rfl
@[simp] theorem setVreg_wdogHeld (c : Core) (n : Nat) (w : Vec) : (setVreg c n w).wdogHeld = c.wdogHeld := rfl
@[simp] theorem setVreg_streams (c : Core) (n : Nat) (w : Vec) : (setVreg c n w).streams = c.streams := rfl
@[simp] theorem setVreg_fetched (c : Core) (n : Nat) (w : Vec) : (setVreg c n w).fetched = c.fetched := rfl
@[simp] theorem setVreg_accesses (c : Core) (n : Nat) (w : Vec) : (setVreg c n w).accesses = c.accesses := rfl
@[simp] theorem setVreg_foreign (c : Core) (n : Nat) (w : Vec) : (setVreg c n w).foreign = c.foreign := rfl
@[simp] theorem setVreg_fstamps (c : Core) (n : Nat) (w : Vec) : (setVreg c n w).fstamps = c.fstamps := rfl
@[simp] theorem setVreg_voided (c : Core) (n : Nat) (w : Vec) : (setVreg c n w).voided = c.voided := rfl
@[simp] theorem setVreg_stamps (c : Core) (n : Nat) (w : Vec) : (setVreg c n w).stamps = c.stamps := rfl
@[simp] theorem setVreg_path (c : Core) (n : Nat) (w : Vec) : (setVreg c n w).path = c.path := rfl
@[simp] theorem setVreg_scratch (c : Core) (n : Nat) (w : Vec) : (setVreg c n w).scratch = c.scratch := rfl
@[simp] theorem setVreg_tags (c : Core) (n : Nat) (w : Vec) : (setVreg c n w).tags = c.tags := rfl
@[simp] theorem setVreg_shadow (c : Core) (n : Nat) (w : Vec) : (setVreg c n w).shadow = c.shadow := rfl
@[simp] theorem setVreg_badTiles (c : Core) (n : Nat) (w : Vec) : (setVreg c n w).badTiles = c.badTiles := rfl
@[simp] theorem setVreg_claims (c : Core) (n : Nat) (w : Vec) : (setVreg c n w).claims = c.claims := rfl
@[simp] theorem setVreg_owners (c : Core) (n : Nat) (w : Vec) : (setVreg c n w).owners = c.owners := rfl
@[simp] theorem setVreg_istore (c : Core) (n : Nat) (w : Vec) : (setVreg c n w).istore = c.istore := rfl
@[simp] theorem setVreg_ahead (c : Core) (n : Nat) (w : Vec) : (setVreg c n w).ahead = c.ahead := rfl
@[simp] theorem setVreg_isdirty (c : Core) (n : Nat) (w : Vec) : (setVreg c n w).isdirty = c.isdirty := rfl
@[simp] theorem setVreg_badBundles (c : Core) (n : Nat) (w : Vec) : (setVreg c n w).badBundles = c.badBundles := rfl
@[simp] theorem setVreg_mx (c : Core) (n : Nat) (w : Vec) : (setVreg c n w).mx = c.mx := rfl
@[simp] theorem setVreg_cmds (c : Core) (n : Nat) (w : Vec) : (setVreg c n w).cmds = c.cmds := rfl
@[simp] theorem setVreg_cmdSeq (c : Core) (n : Nat) (w : Vec) : (setVreg c n w).cmdSeq = c.cmdSeq := rfl
@[simp] theorem setVreg_recvs (c : Core) (n : Nat) (w : Vec) : (setVreg c n w).recvs = c.recvs := rfl
@[simp] theorem setVreg_snaps (c : Core) (n : Nat) (w : Vec) : (setVreg c n w).snaps = c.snaps := rfl
@[simp] theorem setVreg_owed (c : Core) (n : Nat) (w : Vec) : (setVreg c n w).owed = c.owed := rfl
@[simp] theorem setVreg_nextBank (c : Core) (n : Nat) (w : Vec) : (setVreg c n w).nextBank = c.nextBank := rfl
@[simp] theorem setVreg_dramCmds (c : Core) (n : Nat) (w : Vec) : (setVreg c n w).dramCmds = c.dramCmds := rfl
@[simp] theorem setVreg_interval (c : Core) (n : Nat) (w : Vec) : (setVreg c n w).interval = c.interval := rfl
@[simp] theorem setVreg_racectl (c : Core) (n : Nat) (w : Vec) : (setVreg c n w).racectl = c.racectl := rfl
@[simp] theorem setVreg_racecnt (c : Core) (n : Nat) (w : Vec) : (setVreg c n w).racecnt = c.racecnt := rfl
@[simp] theorem setVreg_polver (c : Core) (n : Nat) (w : Vec) : (setVreg c n w).polver = c.polver := rfl
@[simp] theorem setVreg_nopreempt (c : Core) (n : Nat) (w : Vec) : (setVreg c n w).nopreempt = c.nopreempt := rfl
@[simp] theorem setVreg_watch0 (c : Core) (n : Nat) (w : Vec) : (setVreg c n w).watch0 = c.watch0 := rfl
@[simp] theorem setVreg_watch1 (c : Core) (n : Nat) (w : Vec) : (setVreg c n w).watch1 = c.watch1 := rfl
@[simp] theorem setVreg_watch2 (c : Core) (n : Nat) (w : Vec) : (setVreg c n w).watch2 = c.watch2 := rfl
@[simp] theorem setVreg_watch3 (c : Core) (n : Nat) (w : Vec) : (setVreg c n w).watch3 = c.watch3 := rfl
@[simp] theorem setVreg_records (c : Core) (n : Nat) (w : Vec) : (setVreg c n w).records = c.records := rfl
@[simp] theorem setVreg_lost (c : Core) (n : Nat) (w : Vec) : (setVreg c n w).lost = c.lost := rfl
@[simp] theorem setVreg_fault (c : Core) (n : Nat) (w : Vec) : (setVreg c n w).fault = c.fault := rfl
@[simp] theorem setVreg_raised (c : Core) (n : Nat) (w : Vec) : (setVreg c n w).raised = c.raised := rfl
@[simp] theorem setVreg_doomed (c : Core) (n : Nat) (w : Vec) : (setVreg c n w).doomed = c.doomed := rfl
@[simp] theorem setVreg_dbg (c : Core) (n : Nat) (w : Vec) : (setVreg c n w).dbg = c.dbg := rfl
@[simp] theorem setVreg_undoPtr (c : Core) (n : Nat) (w : Vec) : (setVreg c n w).undoPtr = c.undoPtr := rfl
@[simp] theorem setVreg_undoPc (c : Core) (n : Nat) (w : Vec) : (setVreg c n w).undoPc = c.undoPc := rfl
@[simp] theorem setVreg_undoLoops (c : Core) (n : Nat) (w : Vec) : (setVreg c n w).undoLoops = c.undoLoops := rfl
@[simp] theorem setVreg_undoWaits (c : Core) (n : Nat) (w : Vec) : (setVreg c n w).undoWaits = c.undoWaits := rfl
@[simp] theorem setVreg_undoNext (c : Core) (n : Nat) (w : Vec) : (setVreg c n w).undoNext = c.undoNext := rfl
@[simp] theorem setKreg_gang (c : Core) (n : Nat) (w : Mask) : (setKreg c n w).gang = c.gang := rfl
@[simp] theorem setKreg_idx (c : Core) (n : Nat) (w : Mask) : (setKreg c n w).idx = c.idx := rfl
@[simp] theorem setKreg_running (c : Core) (n : Nat) (w : Mask) : (setKreg c n w).running = c.running := rfl
@[simp] theorem setKreg_frozenAt (c : Core) (n : Nat) (w : Mask) : (setKreg c n w).frozenAt = c.frozenAt := rfl
@[simp] theorem setKreg_stopped (c : Core) (n : Nat) (w : Mask) : (setKreg c n w).stopped = c.stopped := rfl
@[simp] theorem setKreg_pc (c : Core) (n : Nat) (w : Mask) : (setKreg c n w).pc = c.pc := rfl
@[simp] theorem setKreg_nextIssue (c : Core) (n : Nat) (w : Mask) : (setKreg c n w).nextIssue = c.nextIssue := rfl
@[simp] theorem setKreg_waits (c : Core) (n : Nat) (w : Mask) : (setKreg c n w).waits = c.waits := rfl
@[simp] theorem setKreg_starts (c : Core) (n : Nat) (w : Mask) : (setKreg c n w).starts = c.starts := rfl
@[simp] theorem setKreg_exitAt (c : Core) (n : Nat) (w : Mask) : (setKreg c n w).exitAt = c.exitAt := rfl
@[simp] theorem setKreg_spawned (c : Core) (n : Nat) (w : Mask) : (setKreg c n w).spawned = c.spawned := rfl
@[simp] theorem setKreg_curCycle (c : Core) (n : Nat) (w : Mask) : (setKreg c n w).curCycle = c.curCycle := rfl
@[simp] theorem setKreg_curBundle (c : Core) (n : Nat) (w : Mask) : (setKreg c n w).curBundle = c.curBundle := rfl
@[simp] theorem setKreg_latch (c : Core) (n : Nat) (w : Mask) : (setKreg c n w).latch = c.latch := rfl
@[simp] theorem setKreg_buffered (c : Core) (n : Nat) (w : Mask) : (setKreg c n w).buffered = c.buffered := rfl
@[simp] theorem setKreg_s (c : Core) (n : Nat) (w : Mask) : (setKreg c n w).s = c.s := rfl
@[simp] theorem setKreg_v (c : Core) (n : Nat) (w : Mask) : (setKreg c n w).v = c.v := rfl
@[simp] theorem setKreg_p (c : Core) (n : Nat) (w : Mask) : (setKreg c n w).p = c.p := rfl
@[simp] theorem setKreg_ports (c : Core) (n : Nat) (w : Mask) : (setKreg c n w).ports = c.ports := rfl
@[simp] theorem setKreg_vports (c : Core) (n : Nat) (w : Mask) : (setKreg c n w).vports = c.vports := rfl
@[simp] theorem setKreg_kports (c : Core) (n : Nat) (w : Mask) : (setKreg c n w).kports = c.kports := rfl
@[simp] theorem setKreg_res (c : Core) (n : Nat) (w : Mask) : (setKreg c n w).res = c.res := rfl
@[simp] theorem setKreg_vres (c : Core) (n : Nat) (w : Mask) : (setKreg c n w).vres = c.vres := rfl
@[simp] theorem setKreg_vprev (c : Core) (n : Nat) (w : Mask) : (setKreg c n w).vprev = c.vprev := rfl
@[simp] theorem setKreg_deliv (c : Core) (n : Nat) (w : Mask) : (setKreg c n w).deliv = c.deliv := rfl
@[simp] theorem setKreg_targets (c : Core) (n : Nat) (w : Mask) : (setKreg c n w).targets = c.targets := rfl
@[simp] theorem setKreg_links (c : Core) (n : Nat) (w : Mask) : (setKreg c n w).links = c.links := rfl
@[simp] theorem setKreg_loops (c : Core) (n : Nat) (w : Mask) : (setKreg c n w).loops = c.loops := rfl
@[simp] theorem setKreg_loopSeq (c : Core) (n : Nat) (w : Mask) : (setKreg c n w).loopSeq = c.loopSeq := rfl
@[simp] theorem setKreg_flags (c : Core) (n : Nat) (w : Mask) : (setKreg c n w).flags = c.flags := rfl
@[simp] theorem setKreg_predDue (c : Core) (n : Nat) (w : Mask) : (setKreg c n w).predDue = c.predDue := rfl
@[simp] theorem setKreg_seed (c : Core) (n : Nat) (w : Mask) : (setKreg c n w).seed = c.seed := rfl
@[simp] theorem setKreg_genVA (c : Core) (n : Nat) (w : Mask) : (setKreg c n w).genVA = c.genVA := rfl
@[simp] theorem setKreg_genVB (c : Core) (n : Nat) (w : Mask) : (setKreg c n w).genVB = c.genVB := rfl
@[simp] theorem setKreg_genSQ (c : Core) (n : Nat) (w : Mask) : (setKreg c n w).genSQ = c.genSQ := rfl
@[simp] theorem setKreg_genMX (c : Core) (n : Nat) (w : Mask) : (setKreg c n w).genMX = c.genMX := rfl
@[simp] theorem setKreg_lutVA (c : Core) (n : Nat) (w : Mask) : (setKreg c n w).lutVA = c.lutVA := rfl
@[simp] theorem setKreg_lutVB (c : Core) (n : Nat) (w : Mask) : (setKreg c n w).lutVB = c.lutVB := rfl
@[simp] theorem setKreg_poison (c : Core) (n : Nat) (w : Mask) : (setKreg c n w).poison = c.poison := rfl
@[simp] theorem setKreg_suppress (c : Core) (n : Nat) (w : Mask) : (setKreg c n w).suppress = c.suppress := rfl
@[simp] theorem setKreg_slipInfo (c : Core) (n : Nat) (w : Mask) : (setKreg c n w).slipInfo = c.slipInfo := rfl
@[simp] theorem setKreg_wdogBase (c : Core) (n : Nat) (w : Mask) : (setKreg c n w).wdogBase = c.wdogBase := rfl
@[simp] theorem setKreg_wdogHeld (c : Core) (n : Nat) (w : Mask) : (setKreg c n w).wdogHeld = c.wdogHeld := rfl
@[simp] theorem setKreg_streams (c : Core) (n : Nat) (w : Mask) : (setKreg c n w).streams = c.streams := rfl
@[simp] theorem setKreg_fetched (c : Core) (n : Nat) (w : Mask) : (setKreg c n w).fetched = c.fetched := rfl
@[simp] theorem setKreg_accesses (c : Core) (n : Nat) (w : Mask) : (setKreg c n w).accesses = c.accesses := rfl
@[simp] theorem setKreg_foreign (c : Core) (n : Nat) (w : Mask) : (setKreg c n w).foreign = c.foreign := rfl
@[simp] theorem setKreg_fstamps (c : Core) (n : Nat) (w : Mask) : (setKreg c n w).fstamps = c.fstamps := rfl
@[simp] theorem setKreg_voided (c : Core) (n : Nat) (w : Mask) : (setKreg c n w).voided = c.voided := rfl
@[simp] theorem setKreg_stamps (c : Core) (n : Nat) (w : Mask) : (setKreg c n w).stamps = c.stamps := rfl
@[simp] theorem setKreg_path (c : Core) (n : Nat) (w : Mask) : (setKreg c n w).path = c.path := rfl
@[simp] theorem setKreg_scratch (c : Core) (n : Nat) (w : Mask) : (setKreg c n w).scratch = c.scratch := rfl
@[simp] theorem setKreg_tags (c : Core) (n : Nat) (w : Mask) : (setKreg c n w).tags = c.tags := rfl
@[simp] theorem setKreg_shadow (c : Core) (n : Nat) (w : Mask) : (setKreg c n w).shadow = c.shadow := rfl
@[simp] theorem setKreg_badTiles (c : Core) (n : Nat) (w : Mask) : (setKreg c n w).badTiles = c.badTiles := rfl
@[simp] theorem setKreg_claims (c : Core) (n : Nat) (w : Mask) : (setKreg c n w).claims = c.claims := rfl
@[simp] theorem setKreg_owners (c : Core) (n : Nat) (w : Mask) : (setKreg c n w).owners = c.owners := rfl
@[simp] theorem setKreg_istore (c : Core) (n : Nat) (w : Mask) : (setKreg c n w).istore = c.istore := rfl
@[simp] theorem setKreg_ahead (c : Core) (n : Nat) (w : Mask) : (setKreg c n w).ahead = c.ahead := rfl
@[simp] theorem setKreg_isdirty (c : Core) (n : Nat) (w : Mask) : (setKreg c n w).isdirty = c.isdirty := rfl
@[simp] theorem setKreg_badBundles (c : Core) (n : Nat) (w : Mask) : (setKreg c n w).badBundles = c.badBundles := rfl
@[simp] theorem setKreg_mx (c : Core) (n : Nat) (w : Mask) : (setKreg c n w).mx = c.mx := rfl
@[simp] theorem setKreg_cmds (c : Core) (n : Nat) (w : Mask) : (setKreg c n w).cmds = c.cmds := rfl
@[simp] theorem setKreg_cmdSeq (c : Core) (n : Nat) (w : Mask) : (setKreg c n w).cmdSeq = c.cmdSeq := rfl
@[simp] theorem setKreg_recvs (c : Core) (n : Nat) (w : Mask) : (setKreg c n w).recvs = c.recvs := rfl
@[simp] theorem setKreg_snaps (c : Core) (n : Nat) (w : Mask) : (setKreg c n w).snaps = c.snaps := rfl
@[simp] theorem setKreg_owed (c : Core) (n : Nat) (w : Mask) : (setKreg c n w).owed = c.owed := rfl
@[simp] theorem setKreg_nextBank (c : Core) (n : Nat) (w : Mask) : (setKreg c n w).nextBank = c.nextBank := rfl
@[simp] theorem setKreg_dramCmds (c : Core) (n : Nat) (w : Mask) : (setKreg c n w).dramCmds = c.dramCmds := rfl
@[simp] theorem setKreg_interval (c : Core) (n : Nat) (w : Mask) : (setKreg c n w).interval = c.interval := rfl
@[simp] theorem setKreg_racectl (c : Core) (n : Nat) (w : Mask) : (setKreg c n w).racectl = c.racectl := rfl
@[simp] theorem setKreg_racecnt (c : Core) (n : Nat) (w : Mask) : (setKreg c n w).racecnt = c.racecnt := rfl
@[simp] theorem setKreg_polver (c : Core) (n : Nat) (w : Mask) : (setKreg c n w).polver = c.polver := rfl
@[simp] theorem setKreg_nopreempt (c : Core) (n : Nat) (w : Mask) : (setKreg c n w).nopreempt = c.nopreempt := rfl
@[simp] theorem setKreg_watch0 (c : Core) (n : Nat) (w : Mask) : (setKreg c n w).watch0 = c.watch0 := rfl
@[simp] theorem setKreg_watch1 (c : Core) (n : Nat) (w : Mask) : (setKreg c n w).watch1 = c.watch1 := rfl
@[simp] theorem setKreg_watch2 (c : Core) (n : Nat) (w : Mask) : (setKreg c n w).watch2 = c.watch2 := rfl
@[simp] theorem setKreg_watch3 (c : Core) (n : Nat) (w : Mask) : (setKreg c n w).watch3 = c.watch3 := rfl
@[simp] theorem setKreg_records (c : Core) (n : Nat) (w : Mask) : (setKreg c n w).records = c.records := rfl
@[simp] theorem setKreg_lost (c : Core) (n : Nat) (w : Mask) : (setKreg c n w).lost = c.lost := rfl
@[simp] theorem setKreg_fault (c : Core) (n : Nat) (w : Mask) : (setKreg c n w).fault = c.fault := rfl
@[simp] theorem setKreg_raised (c : Core) (n : Nat) (w : Mask) : (setKreg c n w).raised = c.raised := rfl
@[simp] theorem setKreg_doomed (c : Core) (n : Nat) (w : Mask) : (setKreg c n w).doomed = c.doomed := rfl
@[simp] theorem setKreg_dbg (c : Core) (n : Nat) (w : Mask) : (setKreg c n w).dbg = c.dbg := rfl
@[simp] theorem setKreg_undoPtr (c : Core) (n : Nat) (w : Mask) : (setKreg c n w).undoPtr = c.undoPtr := rfl
@[simp] theorem setKreg_undoPc (c : Core) (n : Nat) (w : Mask) : (setKreg c n w).undoPc = c.undoPc := rfl
@[simp] theorem setKreg_undoLoops (c : Core) (n : Nat) (w : Mask) : (setKreg c n w).undoLoops = c.undoLoops := rfl
@[simp] theorem setKreg_undoWaits (c : Core) (n : Nat) (w : Mask) : (setKreg c n w).undoWaits = c.undoWaits := rfl
@[simp] theorem setKreg_undoNext (c : Core) (n : Nat) (w : Mask) : (setKreg c n w).undoNext = c.undoNext := rfl
@[simp] theorem setStream_gang (c : Core) (q : Nat) (x : Stream) : (setStream c q x).gang = c.gang := rfl
@[simp] theorem setStream_idx (c : Core) (q : Nat) (x : Stream) : (setStream c q x).idx = c.idx := rfl
@[simp] theorem setStream_running (c : Core) (q : Nat) (x : Stream) : (setStream c q x).running = c.running := rfl
@[simp] theorem setStream_frozenAt (c : Core) (q : Nat) (x : Stream) : (setStream c q x).frozenAt = c.frozenAt := rfl
@[simp] theorem setStream_stopped (c : Core) (q : Nat) (x : Stream) : (setStream c q x).stopped = c.stopped := rfl
@[simp] theorem setStream_pc (c : Core) (q : Nat) (x : Stream) : (setStream c q x).pc = c.pc := rfl
@[simp] theorem setStream_nextIssue (c : Core) (q : Nat) (x : Stream) : (setStream c q x).nextIssue = c.nextIssue := rfl
@[simp] theorem setStream_waits (c : Core) (q : Nat) (x : Stream) : (setStream c q x).waits = c.waits := rfl
@[simp] theorem setStream_starts (c : Core) (q : Nat) (x : Stream) : (setStream c q x).starts = c.starts := rfl
@[simp] theorem setStream_exitAt (c : Core) (q : Nat) (x : Stream) : (setStream c q x).exitAt = c.exitAt := rfl
@[simp] theorem setStream_spawned (c : Core) (q : Nat) (x : Stream) : (setStream c q x).spawned = c.spawned := rfl
@[simp] theorem setStream_curCycle (c : Core) (q : Nat) (x : Stream) : (setStream c q x).curCycle = c.curCycle := rfl
@[simp] theorem setStream_curBundle (c : Core) (q : Nat) (x : Stream) : (setStream c q x).curBundle = c.curBundle := rfl
@[simp] theorem setStream_latch (c : Core) (q : Nat) (x : Stream) : (setStream c q x).latch = c.latch := rfl
@[simp] theorem setStream_buffered (c : Core) (q : Nat) (x : Stream) : (setStream c q x).buffered = c.buffered := rfl
@[simp] theorem setStream_s (c : Core) (q : Nat) (x : Stream) : (setStream c q x).s = c.s := rfl
@[simp] theorem setStream_v (c : Core) (q : Nat) (x : Stream) : (setStream c q x).v = c.v := rfl
@[simp] theorem setStream_k (c : Core) (q : Nat) (x : Stream) : (setStream c q x).k = c.k := rfl
@[simp] theorem setStream_p (c : Core) (q : Nat) (x : Stream) : (setStream c q x).p = c.p := rfl
@[simp] theorem setStream_ports (c : Core) (q : Nat) (x : Stream) : (setStream c q x).ports = c.ports := rfl
@[simp] theorem setStream_vports (c : Core) (q : Nat) (x : Stream) : (setStream c q x).vports = c.vports := rfl
@[simp] theorem setStream_kports (c : Core) (q : Nat) (x : Stream) : (setStream c q x).kports = c.kports := rfl
@[simp] theorem setStream_res (c : Core) (q : Nat) (x : Stream) : (setStream c q x).res = c.res := rfl
@[simp] theorem setStream_vres (c : Core) (q : Nat) (x : Stream) : (setStream c q x).vres = c.vres := rfl
@[simp] theorem setStream_vprev (c : Core) (q : Nat) (x : Stream) : (setStream c q x).vprev = c.vprev := rfl
@[simp] theorem setStream_deliv (c : Core) (q : Nat) (x : Stream) : (setStream c q x).deliv = c.deliv := rfl
@[simp] theorem setStream_targets (c : Core) (q : Nat) (x : Stream) : (setStream c q x).targets = c.targets := rfl
@[simp] theorem setStream_links (c : Core) (q : Nat) (x : Stream) : (setStream c q x).links = c.links := rfl
@[simp] theorem setStream_loops (c : Core) (q : Nat) (x : Stream) : (setStream c q x).loops = c.loops := rfl
@[simp] theorem setStream_loopSeq (c : Core) (q : Nat) (x : Stream) : (setStream c q x).loopSeq = c.loopSeq := rfl
@[simp] theorem setStream_flags (c : Core) (q : Nat) (x : Stream) : (setStream c q x).flags = c.flags := rfl
@[simp] theorem setStream_predDue (c : Core) (q : Nat) (x : Stream) : (setStream c q x).predDue = c.predDue := rfl
@[simp] theorem setStream_seed (c : Core) (q : Nat) (x : Stream) : (setStream c q x).seed = c.seed := rfl
@[simp] theorem setStream_genVA (c : Core) (q : Nat) (x : Stream) : (setStream c q x).genVA = c.genVA := rfl
@[simp] theorem setStream_genVB (c : Core) (q : Nat) (x : Stream) : (setStream c q x).genVB = c.genVB := rfl
@[simp] theorem setStream_genSQ (c : Core) (q : Nat) (x : Stream) : (setStream c q x).genSQ = c.genSQ := rfl
@[simp] theorem setStream_genMX (c : Core) (q : Nat) (x : Stream) : (setStream c q x).genMX = c.genMX := rfl
@[simp] theorem setStream_lutVA (c : Core) (q : Nat) (x : Stream) : (setStream c q x).lutVA = c.lutVA := rfl
@[simp] theorem setStream_lutVB (c : Core) (q : Nat) (x : Stream) : (setStream c q x).lutVB = c.lutVB := rfl
@[simp] theorem setStream_poison (c : Core) (q : Nat) (x : Stream) : (setStream c q x).poison = c.poison := rfl
@[simp] theorem setStream_suppress (c : Core) (q : Nat) (x : Stream) : (setStream c q x).suppress = c.suppress := rfl
@[simp] theorem setStream_slipInfo (c : Core) (q : Nat) (x : Stream) : (setStream c q x).slipInfo = c.slipInfo := rfl
@[simp] theorem setStream_wdogBase (c : Core) (q : Nat) (x : Stream) : (setStream c q x).wdogBase = c.wdogBase := rfl
@[simp] theorem setStream_wdogHeld (c : Core) (q : Nat) (x : Stream) : (setStream c q x).wdogHeld = c.wdogHeld := rfl
@[simp] theorem setStream_fetched (c : Core) (q : Nat) (x : Stream) : (setStream c q x).fetched = c.fetched := rfl
@[simp] theorem setStream_accesses (c : Core) (q : Nat) (x : Stream) : (setStream c q x).accesses = c.accesses := rfl
@[simp] theorem setStream_foreign (c : Core) (q : Nat) (x : Stream) : (setStream c q x).foreign = c.foreign := rfl
@[simp] theorem setStream_fstamps (c : Core) (q : Nat) (x : Stream) : (setStream c q x).fstamps = c.fstamps := rfl
@[simp] theorem setStream_voided (c : Core) (q : Nat) (x : Stream) : (setStream c q x).voided = c.voided := rfl
@[simp] theorem setStream_stamps (c : Core) (q : Nat) (x : Stream) : (setStream c q x).stamps = c.stamps := rfl
@[simp] theorem setStream_path (c : Core) (q : Nat) (x : Stream) : (setStream c q x).path = c.path := rfl
@[simp] theorem setStream_scratch (c : Core) (q : Nat) (x : Stream) : (setStream c q x).scratch = c.scratch := rfl
@[simp] theorem setStream_tags (c : Core) (q : Nat) (x : Stream) : (setStream c q x).tags = c.tags := rfl
@[simp] theorem setStream_shadow (c : Core) (q : Nat) (x : Stream) : (setStream c q x).shadow = c.shadow := rfl
@[simp] theorem setStream_badTiles (c : Core) (q : Nat) (x : Stream) : (setStream c q x).badTiles = c.badTiles := rfl
@[simp] theorem setStream_claims (c : Core) (q : Nat) (x : Stream) : (setStream c q x).claims = c.claims := rfl
@[simp] theorem setStream_owners (c : Core) (q : Nat) (x : Stream) : (setStream c q x).owners = c.owners := rfl
@[simp] theorem setStream_istore (c : Core) (q : Nat) (x : Stream) : (setStream c q x).istore = c.istore := rfl
@[simp] theorem setStream_ahead (c : Core) (q : Nat) (x : Stream) : (setStream c q x).ahead = c.ahead := rfl
@[simp] theorem setStream_isdirty (c : Core) (q : Nat) (x : Stream) : (setStream c q x).isdirty = c.isdirty := rfl
@[simp] theorem setStream_badBundles (c : Core) (q : Nat) (x : Stream) : (setStream c q x).badBundles = c.badBundles := rfl
@[simp] theorem setStream_mx (c : Core) (q : Nat) (x : Stream) : (setStream c q x).mx = c.mx := rfl
@[simp] theorem setStream_cmds (c : Core) (q : Nat) (x : Stream) : (setStream c q x).cmds = c.cmds := rfl
@[simp] theorem setStream_cmdSeq (c : Core) (q : Nat) (x : Stream) : (setStream c q x).cmdSeq = c.cmdSeq := rfl
@[simp] theorem setStream_recvs (c : Core) (q : Nat) (x : Stream) : (setStream c q x).recvs = c.recvs := rfl
@[simp] theorem setStream_snaps (c : Core) (q : Nat) (x : Stream) : (setStream c q x).snaps = c.snaps := rfl
@[simp] theorem setStream_owed (c : Core) (q : Nat) (x : Stream) : (setStream c q x).owed = c.owed := rfl
@[simp] theorem setStream_nextBank (c : Core) (q : Nat) (x : Stream) : (setStream c q x).nextBank = c.nextBank := rfl
@[simp] theorem setStream_dramCmds (c : Core) (q : Nat) (x : Stream) : (setStream c q x).dramCmds = c.dramCmds := rfl
@[simp] theorem setStream_interval (c : Core) (q : Nat) (x : Stream) : (setStream c q x).interval = c.interval := rfl
@[simp] theorem setStream_racectl (c : Core) (q : Nat) (x : Stream) : (setStream c q x).racectl = c.racectl := rfl
@[simp] theorem setStream_racecnt (c : Core) (q : Nat) (x : Stream) : (setStream c q x).racecnt = c.racecnt := rfl
@[simp] theorem setStream_polver (c : Core) (q : Nat) (x : Stream) : (setStream c q x).polver = c.polver := rfl
@[simp] theorem setStream_nopreempt (c : Core) (q : Nat) (x : Stream) : (setStream c q x).nopreempt = c.nopreempt := rfl
@[simp] theorem setStream_watch0 (c : Core) (q : Nat) (x : Stream) : (setStream c q x).watch0 = c.watch0 := rfl
@[simp] theorem setStream_watch1 (c : Core) (q : Nat) (x : Stream) : (setStream c q x).watch1 = c.watch1 := rfl
@[simp] theorem setStream_watch2 (c : Core) (q : Nat) (x : Stream) : (setStream c q x).watch2 = c.watch2 := rfl
@[simp] theorem setStream_watch3 (c : Core) (q : Nat) (x : Stream) : (setStream c q x).watch3 = c.watch3 := rfl
@[simp] theorem setStream_records (c : Core) (q : Nat) (x : Stream) : (setStream c q x).records = c.records := rfl
@[simp] theorem setStream_lost (c : Core) (q : Nat) (x : Stream) : (setStream c q x).lost = c.lost := rfl
@[simp] theorem setStream_fault (c : Core) (q : Nat) (x : Stream) : (setStream c q x).fault = c.fault := rfl
@[simp] theorem setStream_raised (c : Core) (q : Nat) (x : Stream) : (setStream c q x).raised = c.raised := rfl
@[simp] theorem setStream_doomed (c : Core) (q : Nat) (x : Stream) : (setStream c q x).doomed = c.doomed := rfl
@[simp] theorem setStream_dbg (c : Core) (q : Nat) (x : Stream) : (setStream c q x).dbg = c.dbg := rfl
@[simp] theorem setStream_undoPtr (c : Core) (q : Nat) (x : Stream) : (setStream c q x).undoPtr = c.undoPtr := rfl
@[simp] theorem setStream_undoPc (c : Core) (q : Nat) (x : Stream) : (setStream c q x).undoPc = c.undoPc := rfl
@[simp] theorem setStream_undoLoops (c : Core) (q : Nat) (x : Stream) : (setStream c q x).undoLoops = c.undoLoops := rfl
@[simp] theorem setStream_undoWaits (c : Core) (q : Nat) (x : Stream) : (setStream c q x).undoWaits = c.undoWaits := rfl
@[simp] theorem setStream_undoNext (c : Core) (q : Nat) (x : Stream) : (setStream c q x).undoNext = c.undoNext := rfl
@[simp] theorem setLoop_gang (c : Core) (n : Nat) (l : Loop) : (setLoop c n l).gang = c.gang := rfl
@[simp] theorem setLoop_idx (c : Core) (n : Nat) (l : Loop) : (setLoop c n l).idx = c.idx := rfl
@[simp] theorem setLoop_running (c : Core) (n : Nat) (l : Loop) : (setLoop c n l).running = c.running := rfl
@[simp] theorem setLoop_frozenAt (c : Core) (n : Nat) (l : Loop) : (setLoop c n l).frozenAt = c.frozenAt := rfl
@[simp] theorem setLoop_stopped (c : Core) (n : Nat) (l : Loop) : (setLoop c n l).stopped = c.stopped := rfl
@[simp] theorem setLoop_pc (c : Core) (n : Nat) (l : Loop) : (setLoop c n l).pc = c.pc := rfl
@[simp] theorem setLoop_nextIssue (c : Core) (n : Nat) (l : Loop) : (setLoop c n l).nextIssue = c.nextIssue := rfl
@[simp] theorem setLoop_waits (c : Core) (n : Nat) (l : Loop) : (setLoop c n l).waits = c.waits := rfl
@[simp] theorem setLoop_starts (c : Core) (n : Nat) (l : Loop) : (setLoop c n l).starts = c.starts := rfl
@[simp] theorem setLoop_exitAt (c : Core) (n : Nat) (l : Loop) : (setLoop c n l).exitAt = c.exitAt := rfl
@[simp] theorem setLoop_spawned (c : Core) (n : Nat) (l : Loop) : (setLoop c n l).spawned = c.spawned := rfl
@[simp] theorem setLoop_curCycle (c : Core) (n : Nat) (l : Loop) : (setLoop c n l).curCycle = c.curCycle := rfl
@[simp] theorem setLoop_curBundle (c : Core) (n : Nat) (l : Loop) : (setLoop c n l).curBundle = c.curBundle := rfl
@[simp] theorem setLoop_latch (c : Core) (n : Nat) (l : Loop) : (setLoop c n l).latch = c.latch := rfl
@[simp] theorem setLoop_buffered (c : Core) (n : Nat) (l : Loop) : (setLoop c n l).buffered = c.buffered := rfl
@[simp] theorem setLoop_s (c : Core) (n : Nat) (l : Loop) : (setLoop c n l).s = c.s := rfl
@[simp] theorem setLoop_v (c : Core) (n : Nat) (l : Loop) : (setLoop c n l).v = c.v := rfl
@[simp] theorem setLoop_k (c : Core) (n : Nat) (l : Loop) : (setLoop c n l).k = c.k := rfl
@[simp] theorem setLoop_p (c : Core) (n : Nat) (l : Loop) : (setLoop c n l).p = c.p := rfl
@[simp] theorem setLoop_ports (c : Core) (n : Nat) (l : Loop) : (setLoop c n l).ports = c.ports := rfl
@[simp] theorem setLoop_vports (c : Core) (n : Nat) (l : Loop) : (setLoop c n l).vports = c.vports := rfl
@[simp] theorem setLoop_kports (c : Core) (n : Nat) (l : Loop) : (setLoop c n l).kports = c.kports := rfl
@[simp] theorem setLoop_res (c : Core) (n : Nat) (l : Loop) : (setLoop c n l).res = c.res := rfl
@[simp] theorem setLoop_vres (c : Core) (n : Nat) (l : Loop) : (setLoop c n l).vres = c.vres := rfl
@[simp] theorem setLoop_vprev (c : Core) (n : Nat) (l : Loop) : (setLoop c n l).vprev = c.vprev := rfl
@[simp] theorem setLoop_deliv (c : Core) (n : Nat) (l : Loop) : (setLoop c n l).deliv = c.deliv := rfl
@[simp] theorem setLoop_targets (c : Core) (n : Nat) (l : Loop) : (setLoop c n l).targets = c.targets := rfl
@[simp] theorem setLoop_links (c : Core) (n : Nat) (l : Loop) : (setLoop c n l).links = c.links := rfl
@[simp] theorem setLoop_loopSeq (c : Core) (n : Nat) (l : Loop) : (setLoop c n l).loopSeq = c.loopSeq := rfl
@[simp] theorem setLoop_flags (c : Core) (n : Nat) (l : Loop) : (setLoop c n l).flags = c.flags := rfl
@[simp] theorem setLoop_predDue (c : Core) (n : Nat) (l : Loop) : (setLoop c n l).predDue = c.predDue := rfl
@[simp] theorem setLoop_seed (c : Core) (n : Nat) (l : Loop) : (setLoop c n l).seed = c.seed := rfl
@[simp] theorem setLoop_genVA (c : Core) (n : Nat) (l : Loop) : (setLoop c n l).genVA = c.genVA := rfl
@[simp] theorem setLoop_genVB (c : Core) (n : Nat) (l : Loop) : (setLoop c n l).genVB = c.genVB := rfl
@[simp] theorem setLoop_genSQ (c : Core) (n : Nat) (l : Loop) : (setLoop c n l).genSQ = c.genSQ := rfl
@[simp] theorem setLoop_genMX (c : Core) (n : Nat) (l : Loop) : (setLoop c n l).genMX = c.genMX := rfl
@[simp] theorem setLoop_lutVA (c : Core) (n : Nat) (l : Loop) : (setLoop c n l).lutVA = c.lutVA := rfl
@[simp] theorem setLoop_lutVB (c : Core) (n : Nat) (l : Loop) : (setLoop c n l).lutVB = c.lutVB := rfl
@[simp] theorem setLoop_poison (c : Core) (n : Nat) (l : Loop) : (setLoop c n l).poison = c.poison := rfl
@[simp] theorem setLoop_suppress (c : Core) (n : Nat) (l : Loop) : (setLoop c n l).suppress = c.suppress := rfl
@[simp] theorem setLoop_slipInfo (c : Core) (n : Nat) (l : Loop) : (setLoop c n l).slipInfo = c.slipInfo := rfl
@[simp] theorem setLoop_wdogBase (c : Core) (n : Nat) (l : Loop) : (setLoop c n l).wdogBase = c.wdogBase := rfl
@[simp] theorem setLoop_wdogHeld (c : Core) (n : Nat) (l : Loop) : (setLoop c n l).wdogHeld = c.wdogHeld := rfl
@[simp] theorem setLoop_streams (c : Core) (n : Nat) (l : Loop) : (setLoop c n l).streams = c.streams := rfl
@[simp] theorem setLoop_fetched (c : Core) (n : Nat) (l : Loop) : (setLoop c n l).fetched = c.fetched := rfl
@[simp] theorem setLoop_accesses (c : Core) (n : Nat) (l : Loop) : (setLoop c n l).accesses = c.accesses := rfl
@[simp] theorem setLoop_foreign (c : Core) (n : Nat) (l : Loop) : (setLoop c n l).foreign = c.foreign := rfl
@[simp] theorem setLoop_fstamps (c : Core) (n : Nat) (l : Loop) : (setLoop c n l).fstamps = c.fstamps := rfl
@[simp] theorem setLoop_voided (c : Core) (n : Nat) (l : Loop) : (setLoop c n l).voided = c.voided := rfl
@[simp] theorem setLoop_stamps (c : Core) (n : Nat) (l : Loop) : (setLoop c n l).stamps = c.stamps := rfl
@[simp] theorem setLoop_path (c : Core) (n : Nat) (l : Loop) : (setLoop c n l).path = c.path := rfl
@[simp] theorem setLoop_scratch (c : Core) (n : Nat) (l : Loop) : (setLoop c n l).scratch = c.scratch := rfl
@[simp] theorem setLoop_tags (c : Core) (n : Nat) (l : Loop) : (setLoop c n l).tags = c.tags := rfl
@[simp] theorem setLoop_shadow (c : Core) (n : Nat) (l : Loop) : (setLoop c n l).shadow = c.shadow := rfl
@[simp] theorem setLoop_badTiles (c : Core) (n : Nat) (l : Loop) : (setLoop c n l).badTiles = c.badTiles := rfl
@[simp] theorem setLoop_claims (c : Core) (n : Nat) (l : Loop) : (setLoop c n l).claims = c.claims := rfl
@[simp] theorem setLoop_owners (c : Core) (n : Nat) (l : Loop) : (setLoop c n l).owners = c.owners := rfl
@[simp] theorem setLoop_istore (c : Core) (n : Nat) (l : Loop) : (setLoop c n l).istore = c.istore := rfl
@[simp] theorem setLoop_ahead (c : Core) (n : Nat) (l : Loop) : (setLoop c n l).ahead = c.ahead := rfl
@[simp] theorem setLoop_isdirty (c : Core) (n : Nat) (l : Loop) : (setLoop c n l).isdirty = c.isdirty := rfl
@[simp] theorem setLoop_badBundles (c : Core) (n : Nat) (l : Loop) : (setLoop c n l).badBundles = c.badBundles := rfl
@[simp] theorem setLoop_mx (c : Core) (n : Nat) (l : Loop) : (setLoop c n l).mx = c.mx := rfl
@[simp] theorem setLoop_cmds (c : Core) (n : Nat) (l : Loop) : (setLoop c n l).cmds = c.cmds := rfl
@[simp] theorem setLoop_cmdSeq (c : Core) (n : Nat) (l : Loop) : (setLoop c n l).cmdSeq = c.cmdSeq := rfl
@[simp] theorem setLoop_recvs (c : Core) (n : Nat) (l : Loop) : (setLoop c n l).recvs = c.recvs := rfl
@[simp] theorem setLoop_snaps (c : Core) (n : Nat) (l : Loop) : (setLoop c n l).snaps = c.snaps := rfl
@[simp] theorem setLoop_owed (c : Core) (n : Nat) (l : Loop) : (setLoop c n l).owed = c.owed := rfl
@[simp] theorem setLoop_nextBank (c : Core) (n : Nat) (l : Loop) : (setLoop c n l).nextBank = c.nextBank := rfl
@[simp] theorem setLoop_dramCmds (c : Core) (n : Nat) (l : Loop) : (setLoop c n l).dramCmds = c.dramCmds := rfl
@[simp] theorem setLoop_interval (c : Core) (n : Nat) (l : Loop) : (setLoop c n l).interval = c.interval := rfl
@[simp] theorem setLoop_racectl (c : Core) (n : Nat) (l : Loop) : (setLoop c n l).racectl = c.racectl := rfl
@[simp] theorem setLoop_racecnt (c : Core) (n : Nat) (l : Loop) : (setLoop c n l).racecnt = c.racecnt := rfl
@[simp] theorem setLoop_polver (c : Core) (n : Nat) (l : Loop) : (setLoop c n l).polver = c.polver := rfl
@[simp] theorem setLoop_nopreempt (c : Core) (n : Nat) (l : Loop) : (setLoop c n l).nopreempt = c.nopreempt := rfl
@[simp] theorem setLoop_watch0 (c : Core) (n : Nat) (l : Loop) : (setLoop c n l).watch0 = c.watch0 := rfl
@[simp] theorem setLoop_watch1 (c : Core) (n : Nat) (l : Loop) : (setLoop c n l).watch1 = c.watch1 := rfl
@[simp] theorem setLoop_watch2 (c : Core) (n : Nat) (l : Loop) : (setLoop c n l).watch2 = c.watch2 := rfl
@[simp] theorem setLoop_watch3 (c : Core) (n : Nat) (l : Loop) : (setLoop c n l).watch3 = c.watch3 := rfl
@[simp] theorem setLoop_records (c : Core) (n : Nat) (l : Loop) : (setLoop c n l).records = c.records := rfl
@[simp] theorem setLoop_lost (c : Core) (n : Nat) (l : Loop) : (setLoop c n l).lost = c.lost := rfl
@[simp] theorem setLoop_fault (c : Core) (n : Nat) (l : Loop) : (setLoop c n l).fault = c.fault := rfl
@[simp] theorem setLoop_raised (c : Core) (n : Nat) (l : Loop) : (setLoop c n l).raised = c.raised := rfl
@[simp] theorem setLoop_doomed (c : Core) (n : Nat) (l : Loop) : (setLoop c n l).doomed = c.doomed := rfl
@[simp] theorem setLoop_dbg (c : Core) (n : Nat) (l : Loop) : (setLoop c n l).dbg = c.dbg := rfl
@[simp] theorem setLoop_undoPtr (c : Core) (n : Nat) (l : Loop) : (setLoop c n l).undoPtr = c.undoPtr := rfl
@[simp] theorem setLoop_undoPc (c : Core) (n : Nat) (l : Loop) : (setLoop c n l).undoPc = c.undoPc := rfl
@[simp] theorem setLoop_undoLoops (c : Core) (n : Nat) (l : Loop) : (setLoop c n l).undoLoops = c.undoLoops := rfl
@[simp] theorem setLoop_undoWaits (c : Core) (n : Nat) (l : Loop) : (setLoop c n l).undoWaits = c.undoWaits := rfl
@[simp] theorem setLoop_undoNext (c : Core) (n : Nat) (l : Loop) : (setLoop c n l).undoNext = c.undoNext := rfl
@[simp] theorem setTarget_gang (c : Core) (t : Nat) (x : Target) : (setTarget c t x).gang = c.gang := rfl
@[simp] theorem setTarget_idx (c : Core) (t : Nat) (x : Target) : (setTarget c t x).idx = c.idx := rfl
@[simp] theorem setTarget_running (c : Core) (t : Nat) (x : Target) : (setTarget c t x).running = c.running := rfl
@[simp] theorem setTarget_frozenAt (c : Core) (t : Nat) (x : Target) : (setTarget c t x).frozenAt = c.frozenAt := rfl
@[simp] theorem setTarget_stopped (c : Core) (t : Nat) (x : Target) : (setTarget c t x).stopped = c.stopped := rfl
@[simp] theorem setTarget_pc (c : Core) (t : Nat) (x : Target) : (setTarget c t x).pc = c.pc := rfl
@[simp] theorem setTarget_nextIssue (c : Core) (t : Nat) (x : Target) : (setTarget c t x).nextIssue = c.nextIssue := rfl
@[simp] theorem setTarget_waits (c : Core) (t : Nat) (x : Target) : (setTarget c t x).waits = c.waits := rfl
@[simp] theorem setTarget_starts (c : Core) (t : Nat) (x : Target) : (setTarget c t x).starts = c.starts := rfl
@[simp] theorem setTarget_exitAt (c : Core) (t : Nat) (x : Target) : (setTarget c t x).exitAt = c.exitAt := rfl
@[simp] theorem setTarget_spawned (c : Core) (t : Nat) (x : Target) : (setTarget c t x).spawned = c.spawned := rfl
@[simp] theorem setTarget_curCycle (c : Core) (t : Nat) (x : Target) : (setTarget c t x).curCycle = c.curCycle := rfl
@[simp] theorem setTarget_curBundle (c : Core) (t : Nat) (x : Target) : (setTarget c t x).curBundle = c.curBundle := rfl
@[simp] theorem setTarget_latch (c : Core) (t : Nat) (x : Target) : (setTarget c t x).latch = c.latch := rfl
@[simp] theorem setTarget_buffered (c : Core) (t : Nat) (x : Target) : (setTarget c t x).buffered = c.buffered := rfl
@[simp] theorem setTarget_s (c : Core) (t : Nat) (x : Target) : (setTarget c t x).s = c.s := rfl
@[simp] theorem setTarget_v (c : Core) (t : Nat) (x : Target) : (setTarget c t x).v = c.v := rfl
@[simp] theorem setTarget_k (c : Core) (t : Nat) (x : Target) : (setTarget c t x).k = c.k := rfl
@[simp] theorem setTarget_p (c : Core) (t : Nat) (x : Target) : (setTarget c t x).p = c.p := rfl
@[simp] theorem setTarget_ports (c : Core) (t : Nat) (x : Target) : (setTarget c t x).ports = c.ports := rfl
@[simp] theorem setTarget_vports (c : Core) (t : Nat) (x : Target) : (setTarget c t x).vports = c.vports := rfl
@[simp] theorem setTarget_kports (c : Core) (t : Nat) (x : Target) : (setTarget c t x).kports = c.kports := rfl
@[simp] theorem setTarget_res (c : Core) (t : Nat) (x : Target) : (setTarget c t x).res = c.res := rfl
@[simp] theorem setTarget_vres (c : Core) (t : Nat) (x : Target) : (setTarget c t x).vres = c.vres := rfl
@[simp] theorem setTarget_vprev (c : Core) (t : Nat) (x : Target) : (setTarget c t x).vprev = c.vprev := rfl
@[simp] theorem setTarget_deliv (c : Core) (t : Nat) (x : Target) : (setTarget c t x).deliv = c.deliv := rfl
@[simp] theorem setTarget_links (c : Core) (t : Nat) (x : Target) : (setTarget c t x).links = c.links := rfl
@[simp] theorem setTarget_loops (c : Core) (t : Nat) (x : Target) : (setTarget c t x).loops = c.loops := rfl
@[simp] theorem setTarget_loopSeq (c : Core) (t : Nat) (x : Target) : (setTarget c t x).loopSeq = c.loopSeq := rfl
@[simp] theorem setTarget_flags (c : Core) (t : Nat) (x : Target) : (setTarget c t x).flags = c.flags := rfl
@[simp] theorem setTarget_predDue (c : Core) (t : Nat) (x : Target) : (setTarget c t x).predDue = c.predDue := rfl
@[simp] theorem setTarget_seed (c : Core) (t : Nat) (x : Target) : (setTarget c t x).seed = c.seed := rfl
@[simp] theorem setTarget_genVA (c : Core) (t : Nat) (x : Target) : (setTarget c t x).genVA = c.genVA := rfl
@[simp] theorem setTarget_genVB (c : Core) (t : Nat) (x : Target) : (setTarget c t x).genVB = c.genVB := rfl
@[simp] theorem setTarget_genSQ (c : Core) (t : Nat) (x : Target) : (setTarget c t x).genSQ = c.genSQ := rfl
@[simp] theorem setTarget_genMX (c : Core) (t : Nat) (x : Target) : (setTarget c t x).genMX = c.genMX := rfl
@[simp] theorem setTarget_lutVA (c : Core) (t : Nat) (x : Target) : (setTarget c t x).lutVA = c.lutVA := rfl
@[simp] theorem setTarget_lutVB (c : Core) (t : Nat) (x : Target) : (setTarget c t x).lutVB = c.lutVB := rfl
@[simp] theorem setTarget_poison (c : Core) (t : Nat) (x : Target) : (setTarget c t x).poison = c.poison := rfl
@[simp] theorem setTarget_suppress (c : Core) (t : Nat) (x : Target) : (setTarget c t x).suppress = c.suppress := rfl
@[simp] theorem setTarget_slipInfo (c : Core) (t : Nat) (x : Target) : (setTarget c t x).slipInfo = c.slipInfo := rfl
@[simp] theorem setTarget_wdogBase (c : Core) (t : Nat) (x : Target) : (setTarget c t x).wdogBase = c.wdogBase := rfl
@[simp] theorem setTarget_wdogHeld (c : Core) (t : Nat) (x : Target) : (setTarget c t x).wdogHeld = c.wdogHeld := rfl
@[simp] theorem setTarget_streams (c : Core) (t : Nat) (x : Target) : (setTarget c t x).streams = c.streams := rfl
@[simp] theorem setTarget_fetched (c : Core) (t : Nat) (x : Target) : (setTarget c t x).fetched = c.fetched := rfl
@[simp] theorem setTarget_accesses (c : Core) (t : Nat) (x : Target) : (setTarget c t x).accesses = c.accesses := rfl
@[simp] theorem setTarget_foreign (c : Core) (t : Nat) (x : Target) : (setTarget c t x).foreign = c.foreign := rfl
@[simp] theorem setTarget_fstamps (c : Core) (t : Nat) (x : Target) : (setTarget c t x).fstamps = c.fstamps := rfl
@[simp] theorem setTarget_voided (c : Core) (t : Nat) (x : Target) : (setTarget c t x).voided = c.voided := rfl
@[simp] theorem setTarget_stamps (c : Core) (t : Nat) (x : Target) : (setTarget c t x).stamps = c.stamps := rfl
@[simp] theorem setTarget_path (c : Core) (t : Nat) (x : Target) : (setTarget c t x).path = c.path := rfl
@[simp] theorem setTarget_scratch (c : Core) (t : Nat) (x : Target) : (setTarget c t x).scratch = c.scratch := rfl
@[simp] theorem setTarget_tags (c : Core) (t : Nat) (x : Target) : (setTarget c t x).tags = c.tags := rfl
@[simp] theorem setTarget_shadow (c : Core) (t : Nat) (x : Target) : (setTarget c t x).shadow = c.shadow := rfl
@[simp] theorem setTarget_badTiles (c : Core) (t : Nat) (x : Target) : (setTarget c t x).badTiles = c.badTiles := rfl
@[simp] theorem setTarget_claims (c : Core) (t : Nat) (x : Target) : (setTarget c t x).claims = c.claims := rfl
@[simp] theorem setTarget_owners (c : Core) (t : Nat) (x : Target) : (setTarget c t x).owners = c.owners := rfl
@[simp] theorem setTarget_istore (c : Core) (t : Nat) (x : Target) : (setTarget c t x).istore = c.istore := rfl
@[simp] theorem setTarget_ahead (c : Core) (t : Nat) (x : Target) : (setTarget c t x).ahead = c.ahead := rfl
@[simp] theorem setTarget_isdirty (c : Core) (t : Nat) (x : Target) : (setTarget c t x).isdirty = c.isdirty := rfl
@[simp] theorem setTarget_badBundles (c : Core) (t : Nat) (x : Target) : (setTarget c t x).badBundles = c.badBundles := rfl
@[simp] theorem setTarget_mx (c : Core) (t : Nat) (x : Target) : (setTarget c t x).mx = c.mx := rfl
@[simp] theorem setTarget_cmds (c : Core) (t : Nat) (x : Target) : (setTarget c t x).cmds = c.cmds := rfl
@[simp] theorem setTarget_cmdSeq (c : Core) (t : Nat) (x : Target) : (setTarget c t x).cmdSeq = c.cmdSeq := rfl
@[simp] theorem setTarget_recvs (c : Core) (t : Nat) (x : Target) : (setTarget c t x).recvs = c.recvs := rfl
@[simp] theorem setTarget_snaps (c : Core) (t : Nat) (x : Target) : (setTarget c t x).snaps = c.snaps := rfl
@[simp] theorem setTarget_owed (c : Core) (t : Nat) (x : Target) : (setTarget c t x).owed = c.owed := rfl
@[simp] theorem setTarget_nextBank (c : Core) (t : Nat) (x : Target) : (setTarget c t x).nextBank = c.nextBank := rfl
@[simp] theorem setTarget_dramCmds (c : Core) (t : Nat) (x : Target) : (setTarget c t x).dramCmds = c.dramCmds := rfl
@[simp] theorem setTarget_interval (c : Core) (t : Nat) (x : Target) : (setTarget c t x).interval = c.interval := rfl
@[simp] theorem setTarget_racectl (c : Core) (t : Nat) (x : Target) : (setTarget c t x).racectl = c.racectl := rfl
@[simp] theorem setTarget_racecnt (c : Core) (t : Nat) (x : Target) : (setTarget c t x).racecnt = c.racecnt := rfl
@[simp] theorem setTarget_polver (c : Core) (t : Nat) (x : Target) : (setTarget c t x).polver = c.polver := rfl
@[simp] theorem setTarget_nopreempt (c : Core) (t : Nat) (x : Target) : (setTarget c t x).nopreempt = c.nopreempt := rfl
@[simp] theorem setTarget_watch0 (c : Core) (t : Nat) (x : Target) : (setTarget c t x).watch0 = c.watch0 := rfl
@[simp] theorem setTarget_watch1 (c : Core) (t : Nat) (x : Target) : (setTarget c t x).watch1 = c.watch1 := rfl
@[simp] theorem setTarget_watch2 (c : Core) (t : Nat) (x : Target) : (setTarget c t x).watch2 = c.watch2 := rfl
@[simp] theorem setTarget_watch3 (c : Core) (t : Nat) (x : Target) : (setTarget c t x).watch3 = c.watch3 := rfl
@[simp] theorem setTarget_records (c : Core) (t : Nat) (x : Target) : (setTarget c t x).records = c.records := rfl
@[simp] theorem setTarget_lost (c : Core) (t : Nat) (x : Target) : (setTarget c t x).lost = c.lost := rfl
@[simp] theorem setTarget_fault (c : Core) (t : Nat) (x : Target) : (setTarget c t x).fault = c.fault := rfl
@[simp] theorem setTarget_raised (c : Core) (t : Nat) (x : Target) : (setTarget c t x).raised = c.raised := rfl
@[simp] theorem setTarget_doomed (c : Core) (t : Nat) (x : Target) : (setTarget c t x).doomed = c.doomed := rfl
@[simp] theorem setTarget_dbg (c : Core) (t : Nat) (x : Target) : (setTarget c t x).dbg = c.dbg := rfl
@[simp] theorem setTarget_undoPtr (c : Core) (t : Nat) (x : Target) : (setTarget c t x).undoPtr = c.undoPtr := rfl
@[simp] theorem setTarget_undoPc (c : Core) (t : Nat) (x : Target) : (setTarget c t x).undoPc = c.undoPc := rfl
@[simp] theorem setTarget_undoLoops (c : Core) (t : Nat) (x : Target) : (setTarget c t x).undoLoops = c.undoLoops := rfl
@[simp] theorem setTarget_undoWaits (c : Core) (t : Nat) (x : Target) : (setTarget c t x).undoWaits = c.undoWaits := rfl
@[simp] theorem setTarget_undoNext (c : Core) (t : Nat) (x : Target) : (setTarget c t x).undoNext = c.undoNext := rfl
@[simp] theorem setBundle_gang (c : Core) (n : Nat) (w : BitVec 192) : (setBundle c n w).gang = c.gang := rfl
@[simp] theorem setBundle_idx (c : Core) (n : Nat) (w : BitVec 192) : (setBundle c n w).idx = c.idx := rfl
@[simp] theorem setBundle_running (c : Core) (n : Nat) (w : BitVec 192) : (setBundle c n w).running = c.running := rfl
@[simp] theorem setBundle_frozenAt (c : Core) (n : Nat) (w : BitVec 192) : (setBundle c n w).frozenAt = c.frozenAt := rfl
@[simp] theorem setBundle_stopped (c : Core) (n : Nat) (w : BitVec 192) : (setBundle c n w).stopped = c.stopped := rfl
@[simp] theorem setBundle_pc (c : Core) (n : Nat) (w : BitVec 192) : (setBundle c n w).pc = c.pc := rfl
@[simp] theorem setBundle_nextIssue (c : Core) (n : Nat) (w : BitVec 192) : (setBundle c n w).nextIssue = c.nextIssue := rfl
@[simp] theorem setBundle_waits (c : Core) (n : Nat) (w : BitVec 192) : (setBundle c n w).waits = c.waits := rfl
@[simp] theorem setBundle_starts (c : Core) (n : Nat) (w : BitVec 192) : (setBundle c n w).starts = c.starts := rfl
@[simp] theorem setBundle_exitAt (c : Core) (n : Nat) (w : BitVec 192) : (setBundle c n w).exitAt = c.exitAt := rfl
@[simp] theorem setBundle_spawned (c : Core) (n : Nat) (w : BitVec 192) : (setBundle c n w).spawned = c.spawned := rfl
@[simp] theorem setBundle_curCycle (c : Core) (n : Nat) (w : BitVec 192) : (setBundle c n w).curCycle = c.curCycle := rfl
@[simp] theorem setBundle_curBundle (c : Core) (n : Nat) (w : BitVec 192) : (setBundle c n w).curBundle = c.curBundle := rfl
@[simp] theorem setBundle_latch (c : Core) (n : Nat) (w : BitVec 192) : (setBundle c n w).latch = c.latch := rfl
@[simp] theorem setBundle_buffered (c : Core) (n : Nat) (w : BitVec 192) : (setBundle c n w).buffered = c.buffered := rfl
@[simp] theorem setBundle_s (c : Core) (n : Nat) (w : BitVec 192) : (setBundle c n w).s = c.s := rfl
@[simp] theorem setBundle_v (c : Core) (n : Nat) (w : BitVec 192) : (setBundle c n w).v = c.v := rfl
@[simp] theorem setBundle_k (c : Core) (n : Nat) (w : BitVec 192) : (setBundle c n w).k = c.k := rfl
@[simp] theorem setBundle_p (c : Core) (n : Nat) (w : BitVec 192) : (setBundle c n w).p = c.p := rfl
@[simp] theorem setBundle_ports (c : Core) (n : Nat) (w : BitVec 192) : (setBundle c n w).ports = c.ports := rfl
@[simp] theorem setBundle_vports (c : Core) (n : Nat) (w : BitVec 192) : (setBundle c n w).vports = c.vports := rfl
@[simp] theorem setBundle_kports (c : Core) (n : Nat) (w : BitVec 192) : (setBundle c n w).kports = c.kports := rfl
@[simp] theorem setBundle_res (c : Core) (n : Nat) (w : BitVec 192) : (setBundle c n w).res = c.res := rfl
@[simp] theorem setBundle_vres (c : Core) (n : Nat) (w : BitVec 192) : (setBundle c n w).vres = c.vres := rfl
@[simp] theorem setBundle_vprev (c : Core) (n : Nat) (w : BitVec 192) : (setBundle c n w).vprev = c.vprev := rfl
@[simp] theorem setBundle_deliv (c : Core) (n : Nat) (w : BitVec 192) : (setBundle c n w).deliv = c.deliv := rfl
@[simp] theorem setBundle_targets (c : Core) (n : Nat) (w : BitVec 192) : (setBundle c n w).targets = c.targets := rfl
@[simp] theorem setBundle_links (c : Core) (n : Nat) (w : BitVec 192) : (setBundle c n w).links = c.links := rfl
@[simp] theorem setBundle_loops (c : Core) (n : Nat) (w : BitVec 192) : (setBundle c n w).loops = c.loops := rfl
@[simp] theorem setBundle_loopSeq (c : Core) (n : Nat) (w : BitVec 192) : (setBundle c n w).loopSeq = c.loopSeq := rfl
@[simp] theorem setBundle_flags (c : Core) (n : Nat) (w : BitVec 192) : (setBundle c n w).flags = c.flags := rfl
@[simp] theorem setBundle_predDue (c : Core) (n : Nat) (w : BitVec 192) : (setBundle c n w).predDue = c.predDue := rfl
@[simp] theorem setBundle_seed (c : Core) (n : Nat) (w : BitVec 192) : (setBundle c n w).seed = c.seed := rfl
@[simp] theorem setBundle_genVA (c : Core) (n : Nat) (w : BitVec 192) : (setBundle c n w).genVA = c.genVA := rfl
@[simp] theorem setBundle_genVB (c : Core) (n : Nat) (w : BitVec 192) : (setBundle c n w).genVB = c.genVB := rfl
@[simp] theorem setBundle_genSQ (c : Core) (n : Nat) (w : BitVec 192) : (setBundle c n w).genSQ = c.genSQ := rfl
@[simp] theorem setBundle_genMX (c : Core) (n : Nat) (w : BitVec 192) : (setBundle c n w).genMX = c.genMX := rfl
@[simp] theorem setBundle_lutVA (c : Core) (n : Nat) (w : BitVec 192) : (setBundle c n w).lutVA = c.lutVA := rfl
@[simp] theorem setBundle_lutVB (c : Core) (n : Nat) (w : BitVec 192) : (setBundle c n w).lutVB = c.lutVB := rfl
@[simp] theorem setBundle_poison (c : Core) (n : Nat) (w : BitVec 192) : (setBundle c n w).poison = c.poison := rfl
@[simp] theorem setBundle_suppress (c : Core) (n : Nat) (w : BitVec 192) : (setBundle c n w).suppress = c.suppress := rfl
@[simp] theorem setBundle_slipInfo (c : Core) (n : Nat) (w : BitVec 192) : (setBundle c n w).slipInfo = c.slipInfo := rfl
@[simp] theorem setBundle_wdogBase (c : Core) (n : Nat) (w : BitVec 192) : (setBundle c n w).wdogBase = c.wdogBase := rfl
@[simp] theorem setBundle_wdogHeld (c : Core) (n : Nat) (w : BitVec 192) : (setBundle c n w).wdogHeld = c.wdogHeld := rfl
@[simp] theorem setBundle_streams (c : Core) (n : Nat) (w : BitVec 192) : (setBundle c n w).streams = c.streams := rfl
@[simp] theorem setBundle_fetched (c : Core) (n : Nat) (w : BitVec 192) : (setBundle c n w).fetched = c.fetched := rfl
@[simp] theorem setBundle_accesses (c : Core) (n : Nat) (w : BitVec 192) : (setBundle c n w).accesses = c.accesses := rfl
@[simp] theorem setBundle_foreign (c : Core) (n : Nat) (w : BitVec 192) : (setBundle c n w).foreign = c.foreign := rfl
@[simp] theorem setBundle_fstamps (c : Core) (n : Nat) (w : BitVec 192) : (setBundle c n w).fstamps = c.fstamps := rfl
@[simp] theorem setBundle_voided (c : Core) (n : Nat) (w : BitVec 192) : (setBundle c n w).voided = c.voided := rfl
@[simp] theorem setBundle_stamps (c : Core) (n : Nat) (w : BitVec 192) : (setBundle c n w).stamps = c.stamps := rfl
@[simp] theorem setBundle_path (c : Core) (n : Nat) (w : BitVec 192) : (setBundle c n w).path = c.path := rfl
@[simp] theorem setBundle_scratch (c : Core) (n : Nat) (w : BitVec 192) : (setBundle c n w).scratch = c.scratch := rfl
@[simp] theorem setBundle_tags (c : Core) (n : Nat) (w : BitVec 192) : (setBundle c n w).tags = c.tags := rfl
@[simp] theorem setBundle_shadow (c : Core) (n : Nat) (w : BitVec 192) : (setBundle c n w).shadow = c.shadow := rfl
@[simp] theorem setBundle_badTiles (c : Core) (n : Nat) (w : BitVec 192) : (setBundle c n w).badTiles = c.badTiles := rfl
@[simp] theorem setBundle_claims (c : Core) (n : Nat) (w : BitVec 192) : (setBundle c n w).claims = c.claims := rfl
@[simp] theorem setBundle_owners (c : Core) (n : Nat) (w : BitVec 192) : (setBundle c n w).owners = c.owners := rfl
@[simp] theorem setBundle_ahead (c : Core) (n : Nat) (w : BitVec 192) : (setBundle c n w).ahead = c.ahead := rfl
@[simp] theorem setBundle_isdirty (c : Core) (n : Nat) (w : BitVec 192) : (setBundle c n w).isdirty = c.isdirty := rfl
@[simp] theorem setBundle_badBundles (c : Core) (n : Nat) (w : BitVec 192) : (setBundle c n w).badBundles = c.badBundles := rfl
@[simp] theorem setBundle_mx (c : Core) (n : Nat) (w : BitVec 192) : (setBundle c n w).mx = c.mx := rfl
@[simp] theorem setBundle_cmds (c : Core) (n : Nat) (w : BitVec 192) : (setBundle c n w).cmds = c.cmds := rfl
@[simp] theorem setBundle_cmdSeq (c : Core) (n : Nat) (w : BitVec 192) : (setBundle c n w).cmdSeq = c.cmdSeq := rfl
@[simp] theorem setBundle_recvs (c : Core) (n : Nat) (w : BitVec 192) : (setBundle c n w).recvs = c.recvs := rfl
@[simp] theorem setBundle_snaps (c : Core) (n : Nat) (w : BitVec 192) : (setBundle c n w).snaps = c.snaps := rfl
@[simp] theorem setBundle_owed (c : Core) (n : Nat) (w : BitVec 192) : (setBundle c n w).owed = c.owed := rfl
@[simp] theorem setBundle_nextBank (c : Core) (n : Nat) (w : BitVec 192) : (setBundle c n w).nextBank = c.nextBank := rfl
@[simp] theorem setBundle_dramCmds (c : Core) (n : Nat) (w : BitVec 192) : (setBundle c n w).dramCmds = c.dramCmds := rfl
@[simp] theorem setBundle_interval (c : Core) (n : Nat) (w : BitVec 192) : (setBundle c n w).interval = c.interval := rfl
@[simp] theorem setBundle_racectl (c : Core) (n : Nat) (w : BitVec 192) : (setBundle c n w).racectl = c.racectl := rfl
@[simp] theorem setBundle_racecnt (c : Core) (n : Nat) (w : BitVec 192) : (setBundle c n w).racecnt = c.racecnt := rfl
@[simp] theorem setBundle_polver (c : Core) (n : Nat) (w : BitVec 192) : (setBundle c n w).polver = c.polver := rfl
@[simp] theorem setBundle_nopreempt (c : Core) (n : Nat) (w : BitVec 192) : (setBundle c n w).nopreempt = c.nopreempt := rfl
@[simp] theorem setBundle_watch0 (c : Core) (n : Nat) (w : BitVec 192) : (setBundle c n w).watch0 = c.watch0 := rfl
@[simp] theorem setBundle_watch1 (c : Core) (n : Nat) (w : BitVec 192) : (setBundle c n w).watch1 = c.watch1 := rfl
@[simp] theorem setBundle_watch2 (c : Core) (n : Nat) (w : BitVec 192) : (setBundle c n w).watch2 = c.watch2 := rfl
@[simp] theorem setBundle_watch3 (c : Core) (n : Nat) (w : BitVec 192) : (setBundle c n w).watch3 = c.watch3 := rfl
@[simp] theorem setBundle_records (c : Core) (n : Nat) (w : BitVec 192) : (setBundle c n w).records = c.records := rfl
@[simp] theorem setBundle_lost (c : Core) (n : Nat) (w : BitVec 192) : (setBundle c n w).lost = c.lost := rfl
@[simp] theorem setBundle_fault (c : Core) (n : Nat) (w : BitVec 192) : (setBundle c n w).fault = c.fault := rfl
@[simp] theorem setBundle_raised (c : Core) (n : Nat) (w : BitVec 192) : (setBundle c n w).raised = c.raised := rfl
@[simp] theorem setBundle_doomed (c : Core) (n : Nat) (w : BitVec 192) : (setBundle c n w).doomed = c.doomed := rfl
@[simp] theorem setBundle_dbg (c : Core) (n : Nat) (w : BitVec 192) : (setBundle c n w).dbg = c.dbg := rfl
@[simp] theorem setBundle_undoPtr (c : Core) (n : Nat) (w : BitVec 192) : (setBundle c n w).undoPtr = c.undoPtr := rfl
@[simp] theorem setBundle_undoPc (c : Core) (n : Nat) (w : BitVec 192) : (setBundle c n w).undoPc = c.undoPc := rfl
@[simp] theorem setBundle_undoLoops (c : Core) (n : Nat) (w : BitVec 192) : (setBundle c n w).undoLoops = c.undoLoops := rfl
@[simp] theorem setBundle_undoWaits (c : Core) (n : Nat) (w : BitVec 192) : (setBundle c n w).undoWaits = c.undoWaits := rfl
@[simp] theorem setBundle_undoNext (c : Core) (n : Nat) (w : BitVec 192) : (setBundle c n w).undoNext = c.undoNext := rfl
@[simp] theorem putScratch_gang (c : Core) (a : Nat) (bs : List Byte) : (putScratch c a bs).gang = c.gang := rfl
@[simp] theorem putScratch_idx (c : Core) (a : Nat) (bs : List Byte) : (putScratch c a bs).idx = c.idx := rfl
@[simp] theorem putScratch_running (c : Core) (a : Nat) (bs : List Byte) : (putScratch c a bs).running = c.running := rfl
@[simp] theorem putScratch_frozenAt (c : Core) (a : Nat) (bs : List Byte) : (putScratch c a bs).frozenAt = c.frozenAt := rfl
@[simp] theorem putScratch_stopped (c : Core) (a : Nat) (bs : List Byte) : (putScratch c a bs).stopped = c.stopped := rfl
@[simp] theorem putScratch_pc (c : Core) (a : Nat) (bs : List Byte) : (putScratch c a bs).pc = c.pc := rfl
@[simp] theorem putScratch_nextIssue (c : Core) (a : Nat) (bs : List Byte) : (putScratch c a bs).nextIssue = c.nextIssue := rfl
@[simp] theorem putScratch_waits (c : Core) (a : Nat) (bs : List Byte) : (putScratch c a bs).waits = c.waits := rfl
@[simp] theorem putScratch_starts (c : Core) (a : Nat) (bs : List Byte) : (putScratch c a bs).starts = c.starts := rfl
@[simp] theorem putScratch_exitAt (c : Core) (a : Nat) (bs : List Byte) : (putScratch c a bs).exitAt = c.exitAt := rfl
@[simp] theorem putScratch_spawned (c : Core) (a : Nat) (bs : List Byte) : (putScratch c a bs).spawned = c.spawned := rfl
@[simp] theorem putScratch_curCycle (c : Core) (a : Nat) (bs : List Byte) : (putScratch c a bs).curCycle = c.curCycle := rfl
@[simp] theorem putScratch_curBundle (c : Core) (a : Nat) (bs : List Byte) : (putScratch c a bs).curBundle = c.curBundle := rfl
@[simp] theorem putScratch_latch (c : Core) (a : Nat) (bs : List Byte) : (putScratch c a bs).latch = c.latch := rfl
@[simp] theorem putScratch_buffered (c : Core) (a : Nat) (bs : List Byte) : (putScratch c a bs).buffered = c.buffered := rfl
@[simp] theorem putScratch_s (c : Core) (a : Nat) (bs : List Byte) : (putScratch c a bs).s = c.s := rfl
@[simp] theorem putScratch_v (c : Core) (a : Nat) (bs : List Byte) : (putScratch c a bs).v = c.v := rfl
@[simp] theorem putScratch_k (c : Core) (a : Nat) (bs : List Byte) : (putScratch c a bs).k = c.k := rfl
@[simp] theorem putScratch_p (c : Core) (a : Nat) (bs : List Byte) : (putScratch c a bs).p = c.p := rfl
@[simp] theorem putScratch_ports (c : Core) (a : Nat) (bs : List Byte) : (putScratch c a bs).ports = c.ports := rfl
@[simp] theorem putScratch_vports (c : Core) (a : Nat) (bs : List Byte) : (putScratch c a bs).vports = c.vports := rfl
@[simp] theorem putScratch_kports (c : Core) (a : Nat) (bs : List Byte) : (putScratch c a bs).kports = c.kports := rfl
@[simp] theorem putScratch_res (c : Core) (a : Nat) (bs : List Byte) : (putScratch c a bs).res = c.res := rfl
@[simp] theorem putScratch_vres (c : Core) (a : Nat) (bs : List Byte) : (putScratch c a bs).vres = c.vres := rfl
@[simp] theorem putScratch_vprev (c : Core) (a : Nat) (bs : List Byte) : (putScratch c a bs).vprev = c.vprev := rfl
@[simp] theorem putScratch_deliv (c : Core) (a : Nat) (bs : List Byte) : (putScratch c a bs).deliv = c.deliv := rfl
@[simp] theorem putScratch_targets (c : Core) (a : Nat) (bs : List Byte) : (putScratch c a bs).targets = c.targets := rfl
@[simp] theorem putScratch_links (c : Core) (a : Nat) (bs : List Byte) : (putScratch c a bs).links = c.links := rfl
@[simp] theorem putScratch_loops (c : Core) (a : Nat) (bs : List Byte) : (putScratch c a bs).loops = c.loops := rfl
@[simp] theorem putScratch_loopSeq (c : Core) (a : Nat) (bs : List Byte) : (putScratch c a bs).loopSeq = c.loopSeq := rfl
@[simp] theorem putScratch_flags (c : Core) (a : Nat) (bs : List Byte) : (putScratch c a bs).flags = c.flags := rfl
@[simp] theorem putScratch_predDue (c : Core) (a : Nat) (bs : List Byte) : (putScratch c a bs).predDue = c.predDue := rfl
@[simp] theorem putScratch_seed (c : Core) (a : Nat) (bs : List Byte) : (putScratch c a bs).seed = c.seed := rfl
@[simp] theorem putScratch_genVA (c : Core) (a : Nat) (bs : List Byte) : (putScratch c a bs).genVA = c.genVA := rfl
@[simp] theorem putScratch_genVB (c : Core) (a : Nat) (bs : List Byte) : (putScratch c a bs).genVB = c.genVB := rfl
@[simp] theorem putScratch_genSQ (c : Core) (a : Nat) (bs : List Byte) : (putScratch c a bs).genSQ = c.genSQ := rfl
@[simp] theorem putScratch_genMX (c : Core) (a : Nat) (bs : List Byte) : (putScratch c a bs).genMX = c.genMX := rfl
@[simp] theorem putScratch_lutVA (c : Core) (a : Nat) (bs : List Byte) : (putScratch c a bs).lutVA = c.lutVA := rfl
@[simp] theorem putScratch_lutVB (c : Core) (a : Nat) (bs : List Byte) : (putScratch c a bs).lutVB = c.lutVB := rfl
@[simp] theorem putScratch_poison (c : Core) (a : Nat) (bs : List Byte) : (putScratch c a bs).poison = c.poison := rfl
@[simp] theorem putScratch_suppress (c : Core) (a : Nat) (bs : List Byte) : (putScratch c a bs).suppress = c.suppress := rfl
@[simp] theorem putScratch_slipInfo (c : Core) (a : Nat) (bs : List Byte) : (putScratch c a bs).slipInfo = c.slipInfo := rfl
@[simp] theorem putScratch_wdogBase (c : Core) (a : Nat) (bs : List Byte) : (putScratch c a bs).wdogBase = c.wdogBase := rfl
@[simp] theorem putScratch_wdogHeld (c : Core) (a : Nat) (bs : List Byte) : (putScratch c a bs).wdogHeld = c.wdogHeld := rfl
@[simp] theorem putScratch_streams (c : Core) (a : Nat) (bs : List Byte) : (putScratch c a bs).streams = c.streams := rfl
@[simp] theorem putScratch_fetched (c : Core) (a : Nat) (bs : List Byte) : (putScratch c a bs).fetched = c.fetched := rfl
@[simp] theorem putScratch_accesses (c : Core) (a : Nat) (bs : List Byte) : (putScratch c a bs).accesses = c.accesses := rfl
@[simp] theorem putScratch_foreign (c : Core) (a : Nat) (bs : List Byte) : (putScratch c a bs).foreign = c.foreign := rfl
@[simp] theorem putScratch_fstamps (c : Core) (a : Nat) (bs : List Byte) : (putScratch c a bs).fstamps = c.fstamps := rfl
@[simp] theorem putScratch_voided (c : Core) (a : Nat) (bs : List Byte) : (putScratch c a bs).voided = c.voided := rfl
@[simp] theorem putScratch_stamps (c : Core) (a : Nat) (bs : List Byte) : (putScratch c a bs).stamps = c.stamps := rfl
@[simp] theorem putScratch_path (c : Core) (a : Nat) (bs : List Byte) : (putScratch c a bs).path = c.path := rfl
@[simp] theorem putScratch_tags (c : Core) (a : Nat) (bs : List Byte) : (putScratch c a bs).tags = c.tags := rfl
@[simp] theorem putScratch_shadow (c : Core) (a : Nat) (bs : List Byte) : (putScratch c a bs).shadow = c.shadow := rfl
@[simp] theorem putScratch_badTiles (c : Core) (a : Nat) (bs : List Byte) : (putScratch c a bs).badTiles = c.badTiles := rfl
@[simp] theorem putScratch_claims (c : Core) (a : Nat) (bs : List Byte) : (putScratch c a bs).claims = c.claims := rfl
@[simp] theorem putScratch_owners (c : Core) (a : Nat) (bs : List Byte) : (putScratch c a bs).owners = c.owners := rfl
@[simp] theorem putScratch_istore (c : Core) (a : Nat) (bs : List Byte) : (putScratch c a bs).istore = c.istore := rfl
@[simp] theorem putScratch_ahead (c : Core) (a : Nat) (bs : List Byte) : (putScratch c a bs).ahead = c.ahead := rfl
@[simp] theorem putScratch_isdirty (c : Core) (a : Nat) (bs : List Byte) : (putScratch c a bs).isdirty = c.isdirty := rfl
@[simp] theorem putScratch_badBundles (c : Core) (a : Nat) (bs : List Byte) : (putScratch c a bs).badBundles = c.badBundles := rfl
@[simp] theorem putScratch_mx (c : Core) (a : Nat) (bs : List Byte) : (putScratch c a bs).mx = c.mx := rfl
@[simp] theorem putScratch_cmds (c : Core) (a : Nat) (bs : List Byte) : (putScratch c a bs).cmds = c.cmds := rfl
@[simp] theorem putScratch_cmdSeq (c : Core) (a : Nat) (bs : List Byte) : (putScratch c a bs).cmdSeq = c.cmdSeq := rfl
@[simp] theorem putScratch_recvs (c : Core) (a : Nat) (bs : List Byte) : (putScratch c a bs).recvs = c.recvs := rfl
@[simp] theorem putScratch_snaps (c : Core) (a : Nat) (bs : List Byte) : (putScratch c a bs).snaps = c.snaps := rfl
@[simp] theorem putScratch_owed (c : Core) (a : Nat) (bs : List Byte) : (putScratch c a bs).owed = c.owed := rfl
@[simp] theorem putScratch_nextBank (c : Core) (a : Nat) (bs : List Byte) : (putScratch c a bs).nextBank = c.nextBank := rfl
@[simp] theorem putScratch_dramCmds (c : Core) (a : Nat) (bs : List Byte) : (putScratch c a bs).dramCmds = c.dramCmds := rfl
@[simp] theorem putScratch_interval (c : Core) (a : Nat) (bs : List Byte) : (putScratch c a bs).interval = c.interval := rfl
@[simp] theorem putScratch_racectl (c : Core) (a : Nat) (bs : List Byte) : (putScratch c a bs).racectl = c.racectl := rfl
@[simp] theorem putScratch_racecnt (c : Core) (a : Nat) (bs : List Byte) : (putScratch c a bs).racecnt = c.racecnt := rfl
@[simp] theorem putScratch_polver (c : Core) (a : Nat) (bs : List Byte) : (putScratch c a bs).polver = c.polver := rfl
@[simp] theorem putScratch_nopreempt (c : Core) (a : Nat) (bs : List Byte) : (putScratch c a bs).nopreempt = c.nopreempt := rfl
@[simp] theorem putScratch_watch0 (c : Core) (a : Nat) (bs : List Byte) : (putScratch c a bs).watch0 = c.watch0 := rfl
@[simp] theorem putScratch_watch1 (c : Core) (a : Nat) (bs : List Byte) : (putScratch c a bs).watch1 = c.watch1 := rfl
@[simp] theorem putScratch_watch2 (c : Core) (a : Nat) (bs : List Byte) : (putScratch c a bs).watch2 = c.watch2 := rfl
@[simp] theorem putScratch_watch3 (c : Core) (a : Nat) (bs : List Byte) : (putScratch c a bs).watch3 = c.watch3 := rfl
@[simp] theorem putScratch_records (c : Core) (a : Nat) (bs : List Byte) : (putScratch c a bs).records = c.records := rfl
@[simp] theorem putScratch_lost (c : Core) (a : Nat) (bs : List Byte) : (putScratch c a bs).lost = c.lost := rfl
@[simp] theorem putScratch_fault (c : Core) (a : Nat) (bs : List Byte) : (putScratch c a bs).fault = c.fault := rfl
@[simp] theorem putScratch_raised (c : Core) (a : Nat) (bs : List Byte) : (putScratch c a bs).raised = c.raised := rfl
@[simp] theorem putScratch_doomed (c : Core) (a : Nat) (bs : List Byte) : (putScratch c a bs).doomed = c.doomed := rfl
@[simp] theorem putScratch_dbg (c : Core) (a : Nat) (bs : List Byte) : (putScratch c a bs).dbg = c.dbg := rfl
@[simp] theorem putScratch_undoPtr (c : Core) (a : Nat) (bs : List Byte) : (putScratch c a bs).undoPtr = c.undoPtr := rfl
@[simp] theorem putScratch_undoPc (c : Core) (a : Nat) (bs : List Byte) : (putScratch c a bs).undoPc = c.undoPc := rfl
@[simp] theorem putScratch_undoLoops (c : Core) (a : Nat) (bs : List Byte) : (putScratch c a bs).undoLoops = c.undoLoops := rfl
@[simp] theorem putScratch_undoWaits (c : Core) (a : Nat) (bs : List Byte) : (putScratch c a bs).undoWaits = c.undoWaits := rfl
@[simp] theorem putScratch_undoNext (c : Core) (a : Nat) (bs : List Byte) : (putScratch c a bs).undoNext = c.undoNext := rfl
@[simp] theorem setTag_gang (c : Core) (n : Nat) (t : BitVec 16) : (setTag c n t).gang = c.gang := rfl
@[simp] theorem setTag_idx (c : Core) (n : Nat) (t : BitVec 16) : (setTag c n t).idx = c.idx := rfl
@[simp] theorem setTag_running (c : Core) (n : Nat) (t : BitVec 16) : (setTag c n t).running = c.running := rfl
@[simp] theorem setTag_frozenAt (c : Core) (n : Nat) (t : BitVec 16) : (setTag c n t).frozenAt = c.frozenAt := rfl
@[simp] theorem setTag_stopped (c : Core) (n : Nat) (t : BitVec 16) : (setTag c n t).stopped = c.stopped := rfl
@[simp] theorem setTag_pc (c : Core) (n : Nat) (t : BitVec 16) : (setTag c n t).pc = c.pc := rfl
@[simp] theorem setTag_nextIssue (c : Core) (n : Nat) (t : BitVec 16) : (setTag c n t).nextIssue = c.nextIssue := rfl
@[simp] theorem setTag_waits (c : Core) (n : Nat) (t : BitVec 16) : (setTag c n t).waits = c.waits := rfl
@[simp] theorem setTag_starts (c : Core) (n : Nat) (t : BitVec 16) : (setTag c n t).starts = c.starts := rfl
@[simp] theorem setTag_exitAt (c : Core) (n : Nat) (t : BitVec 16) : (setTag c n t).exitAt = c.exitAt := rfl
@[simp] theorem setTag_spawned (c : Core) (n : Nat) (t : BitVec 16) : (setTag c n t).spawned = c.spawned := rfl
@[simp] theorem setTag_curCycle (c : Core) (n : Nat) (t : BitVec 16) : (setTag c n t).curCycle = c.curCycle := rfl
@[simp] theorem setTag_curBundle (c : Core) (n : Nat) (t : BitVec 16) : (setTag c n t).curBundle = c.curBundle := rfl
@[simp] theorem setTag_latch (c : Core) (n : Nat) (t : BitVec 16) : (setTag c n t).latch = c.latch := rfl
@[simp] theorem setTag_buffered (c : Core) (n : Nat) (t : BitVec 16) : (setTag c n t).buffered = c.buffered := rfl
@[simp] theorem setTag_s (c : Core) (n : Nat) (t : BitVec 16) : (setTag c n t).s = c.s := rfl
@[simp] theorem setTag_v (c : Core) (n : Nat) (t : BitVec 16) : (setTag c n t).v = c.v := rfl
@[simp] theorem setTag_k (c : Core) (n : Nat) (t : BitVec 16) : (setTag c n t).k = c.k := rfl
@[simp] theorem setTag_p (c : Core) (n : Nat) (t : BitVec 16) : (setTag c n t).p = c.p := rfl
@[simp] theorem setTag_ports (c : Core) (n : Nat) (t : BitVec 16) : (setTag c n t).ports = c.ports := rfl
@[simp] theorem setTag_vports (c : Core) (n : Nat) (t : BitVec 16) : (setTag c n t).vports = c.vports := rfl
@[simp] theorem setTag_kports (c : Core) (n : Nat) (t : BitVec 16) : (setTag c n t).kports = c.kports := rfl
@[simp] theorem setTag_res (c : Core) (n : Nat) (t : BitVec 16) : (setTag c n t).res = c.res := rfl
@[simp] theorem setTag_vres (c : Core) (n : Nat) (t : BitVec 16) : (setTag c n t).vres = c.vres := rfl
@[simp] theorem setTag_vprev (c : Core) (n : Nat) (t : BitVec 16) : (setTag c n t).vprev = c.vprev := rfl
@[simp] theorem setTag_deliv (c : Core) (n : Nat) (t : BitVec 16) : (setTag c n t).deliv = c.deliv := rfl
@[simp] theorem setTag_targets (c : Core) (n : Nat) (t : BitVec 16) : (setTag c n t).targets = c.targets := rfl
@[simp] theorem setTag_links (c : Core) (n : Nat) (t : BitVec 16) : (setTag c n t).links = c.links := rfl
@[simp] theorem setTag_loops (c : Core) (n : Nat) (t : BitVec 16) : (setTag c n t).loops = c.loops := rfl
@[simp] theorem setTag_loopSeq (c : Core) (n : Nat) (t : BitVec 16) : (setTag c n t).loopSeq = c.loopSeq := rfl
@[simp] theorem setTag_flags (c : Core) (n : Nat) (t : BitVec 16) : (setTag c n t).flags = c.flags := rfl
@[simp] theorem setTag_predDue (c : Core) (n : Nat) (t : BitVec 16) : (setTag c n t).predDue = c.predDue := rfl
@[simp] theorem setTag_seed (c : Core) (n : Nat) (t : BitVec 16) : (setTag c n t).seed = c.seed := rfl
@[simp] theorem setTag_genVA (c : Core) (n : Nat) (t : BitVec 16) : (setTag c n t).genVA = c.genVA := rfl
@[simp] theorem setTag_genVB (c : Core) (n : Nat) (t : BitVec 16) : (setTag c n t).genVB = c.genVB := rfl
@[simp] theorem setTag_genSQ (c : Core) (n : Nat) (t : BitVec 16) : (setTag c n t).genSQ = c.genSQ := rfl
@[simp] theorem setTag_genMX (c : Core) (n : Nat) (t : BitVec 16) : (setTag c n t).genMX = c.genMX := rfl
@[simp] theorem setTag_lutVA (c : Core) (n : Nat) (t : BitVec 16) : (setTag c n t).lutVA = c.lutVA := rfl
@[simp] theorem setTag_lutVB (c : Core) (n : Nat) (t : BitVec 16) : (setTag c n t).lutVB = c.lutVB := rfl
@[simp] theorem setTag_poison (c : Core) (n : Nat) (t : BitVec 16) : (setTag c n t).poison = c.poison := rfl
@[simp] theorem setTag_suppress (c : Core) (n : Nat) (t : BitVec 16) : (setTag c n t).suppress = c.suppress := rfl
@[simp] theorem setTag_slipInfo (c : Core) (n : Nat) (t : BitVec 16) : (setTag c n t).slipInfo = c.slipInfo := rfl
@[simp] theorem setTag_wdogBase (c : Core) (n : Nat) (t : BitVec 16) : (setTag c n t).wdogBase = c.wdogBase := rfl
@[simp] theorem setTag_wdogHeld (c : Core) (n : Nat) (t : BitVec 16) : (setTag c n t).wdogHeld = c.wdogHeld := rfl
@[simp] theorem setTag_streams (c : Core) (n : Nat) (t : BitVec 16) : (setTag c n t).streams = c.streams := rfl
@[simp] theorem setTag_fetched (c : Core) (n : Nat) (t : BitVec 16) : (setTag c n t).fetched = c.fetched := rfl
@[simp] theorem setTag_accesses (c : Core) (n : Nat) (t : BitVec 16) : (setTag c n t).accesses = c.accesses := rfl
@[simp] theorem setTag_foreign (c : Core) (n : Nat) (t : BitVec 16) : (setTag c n t).foreign = c.foreign := rfl
@[simp] theorem setTag_fstamps (c : Core) (n : Nat) (t : BitVec 16) : (setTag c n t).fstamps = c.fstamps := rfl
@[simp] theorem setTag_voided (c : Core) (n : Nat) (t : BitVec 16) : (setTag c n t).voided = c.voided := rfl
@[simp] theorem setTag_stamps (c : Core) (n : Nat) (t : BitVec 16) : (setTag c n t).stamps = c.stamps := rfl
@[simp] theorem setTag_path (c : Core) (n : Nat) (t : BitVec 16) : (setTag c n t).path = c.path := rfl
@[simp] theorem setTag_scratch (c : Core) (n : Nat) (t : BitVec 16) : (setTag c n t).scratch = c.scratch := rfl
@[simp] theorem setTag_shadow (c : Core) (n : Nat) (t : BitVec 16) : (setTag c n t).shadow = c.shadow := rfl
@[simp] theorem setTag_badTiles (c : Core) (n : Nat) (t : BitVec 16) : (setTag c n t).badTiles = c.badTiles := rfl
@[simp] theorem setTag_claims (c : Core) (n : Nat) (t : BitVec 16) : (setTag c n t).claims = c.claims := rfl
@[simp] theorem setTag_owners (c : Core) (n : Nat) (t : BitVec 16) : (setTag c n t).owners = c.owners := rfl
@[simp] theorem setTag_istore (c : Core) (n : Nat) (t : BitVec 16) : (setTag c n t).istore = c.istore := rfl
@[simp] theorem setTag_ahead (c : Core) (n : Nat) (t : BitVec 16) : (setTag c n t).ahead = c.ahead := rfl
@[simp] theorem setTag_isdirty (c : Core) (n : Nat) (t : BitVec 16) : (setTag c n t).isdirty = c.isdirty := rfl
@[simp] theorem setTag_badBundles (c : Core) (n : Nat) (t : BitVec 16) : (setTag c n t).badBundles = c.badBundles := rfl
@[simp] theorem setTag_mx (c : Core) (n : Nat) (t : BitVec 16) : (setTag c n t).mx = c.mx := rfl
@[simp] theorem setTag_cmds (c : Core) (n : Nat) (t : BitVec 16) : (setTag c n t).cmds = c.cmds := rfl
@[simp] theorem setTag_cmdSeq (c : Core) (n : Nat) (t : BitVec 16) : (setTag c n t).cmdSeq = c.cmdSeq := rfl
@[simp] theorem setTag_recvs (c : Core) (n : Nat) (t : BitVec 16) : (setTag c n t).recvs = c.recvs := rfl
@[simp] theorem setTag_snaps (c : Core) (n : Nat) (t : BitVec 16) : (setTag c n t).snaps = c.snaps := rfl
@[simp] theorem setTag_owed (c : Core) (n : Nat) (t : BitVec 16) : (setTag c n t).owed = c.owed := rfl
@[simp] theorem setTag_nextBank (c : Core) (n : Nat) (t : BitVec 16) : (setTag c n t).nextBank = c.nextBank := rfl
@[simp] theorem setTag_dramCmds (c : Core) (n : Nat) (t : BitVec 16) : (setTag c n t).dramCmds = c.dramCmds := rfl
@[simp] theorem setTag_interval (c : Core) (n : Nat) (t : BitVec 16) : (setTag c n t).interval = c.interval := rfl
@[simp] theorem setTag_racectl (c : Core) (n : Nat) (t : BitVec 16) : (setTag c n t).racectl = c.racectl := rfl
@[simp] theorem setTag_racecnt (c : Core) (n : Nat) (t : BitVec 16) : (setTag c n t).racecnt = c.racecnt := rfl
@[simp] theorem setTag_polver (c : Core) (n : Nat) (t : BitVec 16) : (setTag c n t).polver = c.polver := rfl
@[simp] theorem setTag_nopreempt (c : Core) (n : Nat) (t : BitVec 16) : (setTag c n t).nopreempt = c.nopreempt := rfl
@[simp] theorem setTag_watch0 (c : Core) (n : Nat) (t : BitVec 16) : (setTag c n t).watch0 = c.watch0 := rfl
@[simp] theorem setTag_watch1 (c : Core) (n : Nat) (t : BitVec 16) : (setTag c n t).watch1 = c.watch1 := rfl
@[simp] theorem setTag_watch2 (c : Core) (n : Nat) (t : BitVec 16) : (setTag c n t).watch2 = c.watch2 := rfl
@[simp] theorem setTag_watch3 (c : Core) (n : Nat) (t : BitVec 16) : (setTag c n t).watch3 = c.watch3 := rfl
@[simp] theorem setTag_records (c : Core) (n : Nat) (t : BitVec 16) : (setTag c n t).records = c.records := rfl
@[simp] theorem setTag_lost (c : Core) (n : Nat) (t : BitVec 16) : (setTag c n t).lost = c.lost := rfl
@[simp] theorem setTag_fault (c : Core) (n : Nat) (t : BitVec 16) : (setTag c n t).fault = c.fault := rfl
@[simp] theorem setTag_raised (c : Core) (n : Nat) (t : BitVec 16) : (setTag c n t).raised = c.raised := rfl
@[simp] theorem setTag_doomed (c : Core) (n : Nat) (t : BitVec 16) : (setTag c n t).doomed = c.doomed := rfl
@[simp] theorem setTag_dbg (c : Core) (n : Nat) (t : BitVec 16) : (setTag c n t).dbg = c.dbg := rfl
@[simp] theorem setTag_undoPtr (c : Core) (n : Nat) (t : BitVec 16) : (setTag c n t).undoPtr = c.undoPtr := rfl
@[simp] theorem setTag_undoPc (c : Core) (n : Nat) (t : BitVec 16) : (setTag c n t).undoPc = c.undoPc := rfl
@[simp] theorem setTag_undoLoops (c : Core) (n : Nat) (t : BitVec 16) : (setTag c n t).undoLoops = c.undoLoops := rfl
@[simp] theorem setTag_undoWaits (c : Core) (n : Nat) (t : BitVec 16) : (setTag c n t).undoWaits = c.undoWaits := rfl
@[simp] theorem setTag_undoNext (c : Core) (n : Nat) (t : BitVec 16) : (setTag c n t).undoNext = c.undoNext := rfl
@[simp] theorem noteDelivery_gang (c : Core) (id : Nat) (fl : Flight) : (noteDelivery c id fl).gang = c.gang := rfl
@[simp] theorem noteDelivery_idx (c : Core) (id : Nat) (fl : Flight) : (noteDelivery c id fl).idx = c.idx := rfl
@[simp] theorem noteDelivery_running (c : Core) (id : Nat) (fl : Flight) : (noteDelivery c id fl).running = c.running := rfl
@[simp] theorem noteDelivery_frozenAt (c : Core) (id : Nat) (fl : Flight) : (noteDelivery c id fl).frozenAt = c.frozenAt := rfl
@[simp] theorem noteDelivery_stopped (c : Core) (id : Nat) (fl : Flight) : (noteDelivery c id fl).stopped = c.stopped := rfl
@[simp] theorem noteDelivery_pc (c : Core) (id : Nat) (fl : Flight) : (noteDelivery c id fl).pc = c.pc := rfl
@[simp] theorem noteDelivery_nextIssue (c : Core) (id : Nat) (fl : Flight) : (noteDelivery c id fl).nextIssue = c.nextIssue := rfl
@[simp] theorem noteDelivery_waits (c : Core) (id : Nat) (fl : Flight) : (noteDelivery c id fl).waits = c.waits := rfl
@[simp] theorem noteDelivery_starts (c : Core) (id : Nat) (fl : Flight) : (noteDelivery c id fl).starts = c.starts := rfl
@[simp] theorem noteDelivery_exitAt (c : Core) (id : Nat) (fl : Flight) : (noteDelivery c id fl).exitAt = c.exitAt := rfl
@[simp] theorem noteDelivery_spawned (c : Core) (id : Nat) (fl : Flight) : (noteDelivery c id fl).spawned = c.spawned := rfl
@[simp] theorem noteDelivery_curCycle (c : Core) (id : Nat) (fl : Flight) : (noteDelivery c id fl).curCycle = c.curCycle := rfl
@[simp] theorem noteDelivery_curBundle (c : Core) (id : Nat) (fl : Flight) : (noteDelivery c id fl).curBundle = c.curBundle := rfl
@[simp] theorem noteDelivery_latch (c : Core) (id : Nat) (fl : Flight) : (noteDelivery c id fl).latch = c.latch := rfl
@[simp] theorem noteDelivery_buffered (c : Core) (id : Nat) (fl : Flight) : (noteDelivery c id fl).buffered = c.buffered := rfl
@[simp] theorem noteDelivery_s (c : Core) (id : Nat) (fl : Flight) : (noteDelivery c id fl).s = c.s := rfl
@[simp] theorem noteDelivery_v (c : Core) (id : Nat) (fl : Flight) : (noteDelivery c id fl).v = c.v := rfl
@[simp] theorem noteDelivery_k (c : Core) (id : Nat) (fl : Flight) : (noteDelivery c id fl).k = c.k := rfl
@[simp] theorem noteDelivery_p (c : Core) (id : Nat) (fl : Flight) : (noteDelivery c id fl).p = c.p := rfl
@[simp] theorem noteDelivery_ports (c : Core) (id : Nat) (fl : Flight) : (noteDelivery c id fl).ports = c.ports := rfl
@[simp] theorem noteDelivery_vports (c : Core) (id : Nat) (fl : Flight) : (noteDelivery c id fl).vports = c.vports := rfl
@[simp] theorem noteDelivery_kports (c : Core) (id : Nat) (fl : Flight) : (noteDelivery c id fl).kports = c.kports := rfl
@[simp] theorem noteDelivery_res (c : Core) (id : Nat) (fl : Flight) : (noteDelivery c id fl).res = c.res := rfl
@[simp] theorem noteDelivery_vres (c : Core) (id : Nat) (fl : Flight) : (noteDelivery c id fl).vres = c.vres := rfl
@[simp] theorem noteDelivery_vprev (c : Core) (id : Nat) (fl : Flight) : (noteDelivery c id fl).vprev = c.vprev := rfl
@[simp] theorem noteDelivery_targets (c : Core) (id : Nat) (fl : Flight) : (noteDelivery c id fl).targets = c.targets := rfl
@[simp] theorem noteDelivery_links (c : Core) (id : Nat) (fl : Flight) : (noteDelivery c id fl).links = c.links := rfl
@[simp] theorem noteDelivery_loops (c : Core) (id : Nat) (fl : Flight) : (noteDelivery c id fl).loops = c.loops := rfl
@[simp] theorem noteDelivery_loopSeq (c : Core) (id : Nat) (fl : Flight) : (noteDelivery c id fl).loopSeq = c.loopSeq := rfl
@[simp] theorem noteDelivery_flags (c : Core) (id : Nat) (fl : Flight) : (noteDelivery c id fl).flags = c.flags := rfl
@[simp] theorem noteDelivery_predDue (c : Core) (id : Nat) (fl : Flight) : (noteDelivery c id fl).predDue = c.predDue := rfl
@[simp] theorem noteDelivery_seed (c : Core) (id : Nat) (fl : Flight) : (noteDelivery c id fl).seed = c.seed := rfl
@[simp] theorem noteDelivery_genVA (c : Core) (id : Nat) (fl : Flight) : (noteDelivery c id fl).genVA = c.genVA := rfl
@[simp] theorem noteDelivery_genVB (c : Core) (id : Nat) (fl : Flight) : (noteDelivery c id fl).genVB = c.genVB := rfl
@[simp] theorem noteDelivery_genSQ (c : Core) (id : Nat) (fl : Flight) : (noteDelivery c id fl).genSQ = c.genSQ := rfl
@[simp] theorem noteDelivery_genMX (c : Core) (id : Nat) (fl : Flight) : (noteDelivery c id fl).genMX = c.genMX := rfl
@[simp] theorem noteDelivery_lutVA (c : Core) (id : Nat) (fl : Flight) : (noteDelivery c id fl).lutVA = c.lutVA := rfl
@[simp] theorem noteDelivery_lutVB (c : Core) (id : Nat) (fl : Flight) : (noteDelivery c id fl).lutVB = c.lutVB := rfl
@[simp] theorem noteDelivery_poison (c : Core) (id : Nat) (fl : Flight) : (noteDelivery c id fl).poison = c.poison := rfl
@[simp] theorem noteDelivery_suppress (c : Core) (id : Nat) (fl : Flight) : (noteDelivery c id fl).suppress = c.suppress := rfl
@[simp] theorem noteDelivery_slipInfo (c : Core) (id : Nat) (fl : Flight) : (noteDelivery c id fl).slipInfo = c.slipInfo := rfl
@[simp] theorem noteDelivery_wdogBase (c : Core) (id : Nat) (fl : Flight) : (noteDelivery c id fl).wdogBase = c.wdogBase := rfl
@[simp] theorem noteDelivery_wdogHeld (c : Core) (id : Nat) (fl : Flight) : (noteDelivery c id fl).wdogHeld = c.wdogHeld := rfl
@[simp] theorem noteDelivery_streams (c : Core) (id : Nat) (fl : Flight) : (noteDelivery c id fl).streams = c.streams := rfl
@[simp] theorem noteDelivery_fetched (c : Core) (id : Nat) (fl : Flight) : (noteDelivery c id fl).fetched = c.fetched := rfl
@[simp] theorem noteDelivery_accesses (c : Core) (id : Nat) (fl : Flight) : (noteDelivery c id fl).accesses = c.accesses := rfl
@[simp] theorem noteDelivery_foreign (c : Core) (id : Nat) (fl : Flight) : (noteDelivery c id fl).foreign = c.foreign := rfl
@[simp] theorem noteDelivery_fstamps (c : Core) (id : Nat) (fl : Flight) : (noteDelivery c id fl).fstamps = c.fstamps := rfl
@[simp] theorem noteDelivery_voided (c : Core) (id : Nat) (fl : Flight) : (noteDelivery c id fl).voided = c.voided := rfl
@[simp] theorem noteDelivery_stamps (c : Core) (id : Nat) (fl : Flight) : (noteDelivery c id fl).stamps = c.stamps := rfl
@[simp] theorem noteDelivery_path (c : Core) (id : Nat) (fl : Flight) : (noteDelivery c id fl).path = c.path := rfl
@[simp] theorem noteDelivery_scratch (c : Core) (id : Nat) (fl : Flight) : (noteDelivery c id fl).scratch = c.scratch := rfl
@[simp] theorem noteDelivery_tags (c : Core) (id : Nat) (fl : Flight) : (noteDelivery c id fl).tags = c.tags := rfl
@[simp] theorem noteDelivery_shadow (c : Core) (id : Nat) (fl : Flight) : (noteDelivery c id fl).shadow = c.shadow := rfl
@[simp] theorem noteDelivery_badTiles (c : Core) (id : Nat) (fl : Flight) : (noteDelivery c id fl).badTiles = c.badTiles := rfl
@[simp] theorem noteDelivery_claims (c : Core) (id : Nat) (fl : Flight) : (noteDelivery c id fl).claims = c.claims := rfl
@[simp] theorem noteDelivery_owners (c : Core) (id : Nat) (fl : Flight) : (noteDelivery c id fl).owners = c.owners := rfl
@[simp] theorem noteDelivery_istore (c : Core) (id : Nat) (fl : Flight) : (noteDelivery c id fl).istore = c.istore := rfl
@[simp] theorem noteDelivery_ahead (c : Core) (id : Nat) (fl : Flight) : (noteDelivery c id fl).ahead = c.ahead := rfl
@[simp] theorem noteDelivery_isdirty (c : Core) (id : Nat) (fl : Flight) : (noteDelivery c id fl).isdirty = c.isdirty := rfl
@[simp] theorem noteDelivery_badBundles (c : Core) (id : Nat) (fl : Flight) : (noteDelivery c id fl).badBundles = c.badBundles := rfl
@[simp] theorem noteDelivery_mx (c : Core) (id : Nat) (fl : Flight) : (noteDelivery c id fl).mx = c.mx := rfl
@[simp] theorem noteDelivery_cmds (c : Core) (id : Nat) (fl : Flight) : (noteDelivery c id fl).cmds = c.cmds := rfl
@[simp] theorem noteDelivery_cmdSeq (c : Core) (id : Nat) (fl : Flight) : (noteDelivery c id fl).cmdSeq = c.cmdSeq := rfl
@[simp] theorem noteDelivery_recvs (c : Core) (id : Nat) (fl : Flight) : (noteDelivery c id fl).recvs = c.recvs := rfl
@[simp] theorem noteDelivery_snaps (c : Core) (id : Nat) (fl : Flight) : (noteDelivery c id fl).snaps = c.snaps := rfl
@[simp] theorem noteDelivery_owed (c : Core) (id : Nat) (fl : Flight) : (noteDelivery c id fl).owed = c.owed := rfl
@[simp] theorem noteDelivery_nextBank (c : Core) (id : Nat) (fl : Flight) : (noteDelivery c id fl).nextBank = c.nextBank := rfl
@[simp] theorem noteDelivery_dramCmds (c : Core) (id : Nat) (fl : Flight) : (noteDelivery c id fl).dramCmds = c.dramCmds := rfl
@[simp] theorem noteDelivery_interval (c : Core) (id : Nat) (fl : Flight) : (noteDelivery c id fl).interval = c.interval := rfl
@[simp] theorem noteDelivery_racectl (c : Core) (id : Nat) (fl : Flight) : (noteDelivery c id fl).racectl = c.racectl := rfl
@[simp] theorem noteDelivery_racecnt (c : Core) (id : Nat) (fl : Flight) : (noteDelivery c id fl).racecnt = c.racecnt := rfl
@[simp] theorem noteDelivery_polver (c : Core) (id : Nat) (fl : Flight) : (noteDelivery c id fl).polver = c.polver := rfl
@[simp] theorem noteDelivery_nopreempt (c : Core) (id : Nat) (fl : Flight) : (noteDelivery c id fl).nopreempt = c.nopreempt := rfl
@[simp] theorem noteDelivery_watch0 (c : Core) (id : Nat) (fl : Flight) : (noteDelivery c id fl).watch0 = c.watch0 := rfl
@[simp] theorem noteDelivery_watch1 (c : Core) (id : Nat) (fl : Flight) : (noteDelivery c id fl).watch1 = c.watch1 := rfl
@[simp] theorem noteDelivery_watch2 (c : Core) (id : Nat) (fl : Flight) : (noteDelivery c id fl).watch2 = c.watch2 := rfl
@[simp] theorem noteDelivery_watch3 (c : Core) (id : Nat) (fl : Flight) : (noteDelivery c id fl).watch3 = c.watch3 := rfl
@[simp] theorem noteDelivery_records (c : Core) (id : Nat) (fl : Flight) : (noteDelivery c id fl).records = c.records := rfl
@[simp] theorem noteDelivery_lost (c : Core) (id : Nat) (fl : Flight) : (noteDelivery c id fl).lost = c.lost := rfl
@[simp] theorem noteDelivery_fault (c : Core) (id : Nat) (fl : Flight) : (noteDelivery c id fl).fault = c.fault := rfl
@[simp] theorem noteDelivery_raised (c : Core) (id : Nat) (fl : Flight) : (noteDelivery c id fl).raised = c.raised := rfl
@[simp] theorem noteDelivery_doomed (c : Core) (id : Nat) (fl : Flight) : (noteDelivery c id fl).doomed = c.doomed := rfl
@[simp] theorem noteDelivery_dbg (c : Core) (id : Nat) (fl : Flight) : (noteDelivery c id fl).dbg = c.dbg := rfl
@[simp] theorem noteDelivery_undoPtr (c : Core) (id : Nat) (fl : Flight) : (noteDelivery c id fl).undoPtr = c.undoPtr := rfl
@[simp] theorem noteDelivery_undoPc (c : Core) (id : Nat) (fl : Flight) : (noteDelivery c id fl).undoPc = c.undoPc := rfl
@[simp] theorem noteDelivery_undoLoops (c : Core) (id : Nat) (fl : Flight) : (noteDelivery c id fl).undoLoops = c.undoLoops := rfl
@[simp] theorem noteDelivery_undoWaits (c : Core) (id : Nat) (fl : Flight) : (noteDelivery c id fl).undoWaits = c.undoWaits := rfl
@[simp] theorem noteDelivery_undoNext (c : Core) (id : Nat) (fl : Flight) : (noteDelivery c id fl).undoNext = c.undoNext := rfl
@[simp] theorem setSreg_gang (c : Core) (n : Nat) (w : Word) : (setSreg c n w).gang = c.gang := by unfold setSreg; split <;> rfl
@[simp] theorem setSreg_idx (c : Core) (n : Nat) (w : Word) : (setSreg c n w).idx = c.idx := by unfold setSreg; split <;> rfl
@[simp] theorem setSreg_running (c : Core) (n : Nat) (w : Word) : (setSreg c n w).running = c.running := by unfold setSreg; split <;> rfl
@[simp] theorem setSreg_frozenAt (c : Core) (n : Nat) (w : Word) : (setSreg c n w).frozenAt = c.frozenAt := by unfold setSreg; split <;> rfl
@[simp] theorem setSreg_stopped (c : Core) (n : Nat) (w : Word) : (setSreg c n w).stopped = c.stopped := by unfold setSreg; split <;> rfl
@[simp] theorem setSreg_pc (c : Core) (n : Nat) (w : Word) : (setSreg c n w).pc = c.pc := by unfold setSreg; split <;> rfl
@[simp] theorem setSreg_nextIssue (c : Core) (n : Nat) (w : Word) : (setSreg c n w).nextIssue = c.nextIssue := by unfold setSreg; split <;> rfl
@[simp] theorem setSreg_waits (c : Core) (n : Nat) (w : Word) : (setSreg c n w).waits = c.waits := by unfold setSreg; split <;> rfl
@[simp] theorem setSreg_starts (c : Core) (n : Nat) (w : Word) : (setSreg c n w).starts = c.starts := by unfold setSreg; split <;> rfl
@[simp] theorem setSreg_exitAt (c : Core) (n : Nat) (w : Word) : (setSreg c n w).exitAt = c.exitAt := by unfold setSreg; split <;> rfl
@[simp] theorem setSreg_spawned (c : Core) (n : Nat) (w : Word) : (setSreg c n w).spawned = c.spawned := by unfold setSreg; split <;> rfl
@[simp] theorem setSreg_curCycle (c : Core) (n : Nat) (w : Word) : (setSreg c n w).curCycle = c.curCycle := by unfold setSreg; split <;> rfl
@[simp] theorem setSreg_curBundle (c : Core) (n : Nat) (w : Word) : (setSreg c n w).curBundle = c.curBundle := by unfold setSreg; split <;> rfl
@[simp] theorem setSreg_latch (c : Core) (n : Nat) (w : Word) : (setSreg c n w).latch = c.latch := by unfold setSreg; split <;> rfl
@[simp] theorem setSreg_buffered (c : Core) (n : Nat) (w : Word) : (setSreg c n w).buffered = c.buffered := by unfold setSreg; split <;> rfl
@[simp] theorem setSreg_v (c : Core) (n : Nat) (w : Word) : (setSreg c n w).v = c.v := by unfold setSreg; split <;> rfl
@[simp] theorem setSreg_k (c : Core) (n : Nat) (w : Word) : (setSreg c n w).k = c.k := by unfold setSreg; split <;> rfl
@[simp] theorem setSreg_p (c : Core) (n : Nat) (w : Word) : (setSreg c n w).p = c.p := by unfold setSreg; split <;> rfl
@[simp] theorem setSreg_ports (c : Core) (n : Nat) (w : Word) : (setSreg c n w).ports = c.ports := by unfold setSreg; split <;> rfl
@[simp] theorem setSreg_vports (c : Core) (n : Nat) (w : Word) : (setSreg c n w).vports = c.vports := by unfold setSreg; split <;> rfl
@[simp] theorem setSreg_kports (c : Core) (n : Nat) (w : Word) : (setSreg c n w).kports = c.kports := by unfold setSreg; split <;> rfl
@[simp] theorem setSreg_res (c : Core) (n : Nat) (w : Word) : (setSreg c n w).res = c.res := by unfold setSreg; split <;> rfl
@[simp] theorem setSreg_vres (c : Core) (n : Nat) (w : Word) : (setSreg c n w).vres = c.vres := by unfold setSreg; split <;> rfl
@[simp] theorem setSreg_vprev (c : Core) (n : Nat) (w : Word) : (setSreg c n w).vprev = c.vprev := by unfold setSreg; split <;> rfl
@[simp] theorem setSreg_deliv (c : Core) (n : Nat) (w : Word) : (setSreg c n w).deliv = c.deliv := by unfold setSreg; split <;> rfl
@[simp] theorem setSreg_targets (c : Core) (n : Nat) (w : Word) : (setSreg c n w).targets = c.targets := by unfold setSreg; split <;> rfl
@[simp] theorem setSreg_links (c : Core) (n : Nat) (w : Word) : (setSreg c n w).links = c.links := by unfold setSreg; split <;> rfl
@[simp] theorem setSreg_loops (c : Core) (n : Nat) (w : Word) : (setSreg c n w).loops = c.loops := by unfold setSreg; split <;> rfl
@[simp] theorem setSreg_loopSeq (c : Core) (n : Nat) (w : Word) : (setSreg c n w).loopSeq = c.loopSeq := by unfold setSreg; split <;> rfl
@[simp] theorem setSreg_flags (c : Core) (n : Nat) (w : Word) : (setSreg c n w).flags = c.flags := by unfold setSreg; split <;> rfl
@[simp] theorem setSreg_predDue (c : Core) (n : Nat) (w : Word) : (setSreg c n w).predDue = c.predDue := by unfold setSreg; split <;> rfl
@[simp] theorem setSreg_seed (c : Core) (n : Nat) (w : Word) : (setSreg c n w).seed = c.seed := by unfold setSreg; split <;> rfl
@[simp] theorem setSreg_genVA (c : Core) (n : Nat) (w : Word) : (setSreg c n w).genVA = c.genVA := by unfold setSreg; split <;> rfl
@[simp] theorem setSreg_genVB (c : Core) (n : Nat) (w : Word) : (setSreg c n w).genVB = c.genVB := by unfold setSreg; split <;> rfl
@[simp] theorem setSreg_genSQ (c : Core) (n : Nat) (w : Word) : (setSreg c n w).genSQ = c.genSQ := by unfold setSreg; split <;> rfl
@[simp] theorem setSreg_genMX (c : Core) (n : Nat) (w : Word) : (setSreg c n w).genMX = c.genMX := by unfold setSreg; split <;> rfl
@[simp] theorem setSreg_lutVA (c : Core) (n : Nat) (w : Word) : (setSreg c n w).lutVA = c.lutVA := by unfold setSreg; split <;> rfl
@[simp] theorem setSreg_lutVB (c : Core) (n : Nat) (w : Word) : (setSreg c n w).lutVB = c.lutVB := by unfold setSreg; split <;> rfl
@[simp] theorem setSreg_poison (c : Core) (n : Nat) (w : Word) : (setSreg c n w).poison = c.poison := by unfold setSreg; split <;> rfl
@[simp] theorem setSreg_suppress (c : Core) (n : Nat) (w : Word) : (setSreg c n w).suppress = c.suppress := by unfold setSreg; split <;> rfl
@[simp] theorem setSreg_slipInfo (c : Core) (n : Nat) (w : Word) : (setSreg c n w).slipInfo = c.slipInfo := by unfold setSreg; split <;> rfl
@[simp] theorem setSreg_wdogBase (c : Core) (n : Nat) (w : Word) : (setSreg c n w).wdogBase = c.wdogBase := by unfold setSreg; split <;> rfl
@[simp] theorem setSreg_wdogHeld (c : Core) (n : Nat) (w : Word) : (setSreg c n w).wdogHeld = c.wdogHeld := by unfold setSreg; split <;> rfl
@[simp] theorem setSreg_streams (c : Core) (n : Nat) (w : Word) : (setSreg c n w).streams = c.streams := by unfold setSreg; split <;> rfl
@[simp] theorem setSreg_fetched (c : Core) (n : Nat) (w : Word) : (setSreg c n w).fetched = c.fetched := by unfold setSreg; split <;> rfl
@[simp] theorem setSreg_accesses (c : Core) (n : Nat) (w : Word) : (setSreg c n w).accesses = c.accesses := by unfold setSreg; split <;> rfl
@[simp] theorem setSreg_foreign (c : Core) (n : Nat) (w : Word) : (setSreg c n w).foreign = c.foreign := by unfold setSreg; split <;> rfl
@[simp] theorem setSreg_fstamps (c : Core) (n : Nat) (w : Word) : (setSreg c n w).fstamps = c.fstamps := by unfold setSreg; split <;> rfl
@[simp] theorem setSreg_voided (c : Core) (n : Nat) (w : Word) : (setSreg c n w).voided = c.voided := by unfold setSreg; split <;> rfl
@[simp] theorem setSreg_stamps (c : Core) (n : Nat) (w : Word) : (setSreg c n w).stamps = c.stamps := by unfold setSreg; split <;> rfl
@[simp] theorem setSreg_path (c : Core) (n : Nat) (w : Word) : (setSreg c n w).path = c.path := by unfold setSreg; split <;> rfl
@[simp] theorem setSreg_scratch (c : Core) (n : Nat) (w : Word) : (setSreg c n w).scratch = c.scratch := by unfold setSreg; split <;> rfl
@[simp] theorem setSreg_tags (c : Core) (n : Nat) (w : Word) : (setSreg c n w).tags = c.tags := by unfold setSreg; split <;> rfl
@[simp] theorem setSreg_shadow (c : Core) (n : Nat) (w : Word) : (setSreg c n w).shadow = c.shadow := by unfold setSreg; split <;> rfl
@[simp] theorem setSreg_badTiles (c : Core) (n : Nat) (w : Word) : (setSreg c n w).badTiles = c.badTiles := by unfold setSreg; split <;> rfl
@[simp] theorem setSreg_claims (c : Core) (n : Nat) (w : Word) : (setSreg c n w).claims = c.claims := by unfold setSreg; split <;> rfl
@[simp] theorem setSreg_owners (c : Core) (n : Nat) (w : Word) : (setSreg c n w).owners = c.owners := by unfold setSreg; split <;> rfl
@[simp] theorem setSreg_istore (c : Core) (n : Nat) (w : Word) : (setSreg c n w).istore = c.istore := by unfold setSreg; split <;> rfl
@[simp] theorem setSreg_ahead (c : Core) (n : Nat) (w : Word) : (setSreg c n w).ahead = c.ahead := by unfold setSreg; split <;> rfl
@[simp] theorem setSreg_isdirty (c : Core) (n : Nat) (w : Word) : (setSreg c n w).isdirty = c.isdirty := by unfold setSreg; split <;> rfl
@[simp] theorem setSreg_badBundles (c : Core) (n : Nat) (w : Word) : (setSreg c n w).badBundles = c.badBundles := by unfold setSreg; split <;> rfl
@[simp] theorem setSreg_mx (c : Core) (n : Nat) (w : Word) : (setSreg c n w).mx = c.mx := by unfold setSreg; split <;> rfl
@[simp] theorem setSreg_cmds (c : Core) (n : Nat) (w : Word) : (setSreg c n w).cmds = c.cmds := by unfold setSreg; split <;> rfl
@[simp] theorem setSreg_cmdSeq (c : Core) (n : Nat) (w : Word) : (setSreg c n w).cmdSeq = c.cmdSeq := by unfold setSreg; split <;> rfl
@[simp] theorem setSreg_recvs (c : Core) (n : Nat) (w : Word) : (setSreg c n w).recvs = c.recvs := by unfold setSreg; split <;> rfl
@[simp] theorem setSreg_snaps (c : Core) (n : Nat) (w : Word) : (setSreg c n w).snaps = c.snaps := by unfold setSreg; split <;> rfl
@[simp] theorem setSreg_owed (c : Core) (n : Nat) (w : Word) : (setSreg c n w).owed = c.owed := by unfold setSreg; split <;> rfl
@[simp] theorem setSreg_nextBank (c : Core) (n : Nat) (w : Word) : (setSreg c n w).nextBank = c.nextBank := by unfold setSreg; split <;> rfl
@[simp] theorem setSreg_dramCmds (c : Core) (n : Nat) (w : Word) : (setSreg c n w).dramCmds = c.dramCmds := by unfold setSreg; split <;> rfl
@[simp] theorem setSreg_interval (c : Core) (n : Nat) (w : Word) : (setSreg c n w).interval = c.interval := by unfold setSreg; split <;> rfl
@[simp] theorem setSreg_racectl (c : Core) (n : Nat) (w : Word) : (setSreg c n w).racectl = c.racectl := by unfold setSreg; split <;> rfl
@[simp] theorem setSreg_racecnt (c : Core) (n : Nat) (w : Word) : (setSreg c n w).racecnt = c.racecnt := by unfold setSreg; split <;> rfl
@[simp] theorem setSreg_polver (c : Core) (n : Nat) (w : Word) : (setSreg c n w).polver = c.polver := by unfold setSreg; split <;> rfl
@[simp] theorem setSreg_nopreempt (c : Core) (n : Nat) (w : Word) : (setSreg c n w).nopreempt = c.nopreempt := by unfold setSreg; split <;> rfl
@[simp] theorem setSreg_watch0 (c : Core) (n : Nat) (w : Word) : (setSreg c n w).watch0 = c.watch0 := by unfold setSreg; split <;> rfl
@[simp] theorem setSreg_watch1 (c : Core) (n : Nat) (w : Word) : (setSreg c n w).watch1 = c.watch1 := by unfold setSreg; split <;> rfl
@[simp] theorem setSreg_watch2 (c : Core) (n : Nat) (w : Word) : (setSreg c n w).watch2 = c.watch2 := by unfold setSreg; split <;> rfl
@[simp] theorem setSreg_watch3 (c : Core) (n : Nat) (w : Word) : (setSreg c n w).watch3 = c.watch3 := by unfold setSreg; split <;> rfl
@[simp] theorem setSreg_records (c : Core) (n : Nat) (w : Word) : (setSreg c n w).records = c.records := by unfold setSreg; split <;> rfl
@[simp] theorem setSreg_lost (c : Core) (n : Nat) (w : Word) : (setSreg c n w).lost = c.lost := by unfold setSreg; split <;> rfl
@[simp] theorem setSreg_fault (c : Core) (n : Nat) (w : Word) : (setSreg c n w).fault = c.fault := by unfold setSreg; split <;> rfl
@[simp] theorem setSreg_raised (c : Core) (n : Nat) (w : Word) : (setSreg c n w).raised = c.raised := by unfold setSreg; split <;> rfl
@[simp] theorem setSreg_doomed (c : Core) (n : Nat) (w : Word) : (setSreg c n w).doomed = c.doomed := by unfold setSreg; split <;> rfl
@[simp] theorem setSreg_dbg (c : Core) (n : Nat) (w : Word) : (setSreg c n w).dbg = c.dbg := by unfold setSreg; split <;> rfl
@[simp] theorem setSreg_undoPtr (c : Core) (n : Nat) (w : Word) : (setSreg c n w).undoPtr = c.undoPtr := by unfold setSreg; split <;> rfl
@[simp] theorem setSreg_undoPc (c : Core) (n : Nat) (w : Word) : (setSreg c n w).undoPc = c.undoPc := by unfold setSreg; split <;> rfl
@[simp] theorem setSreg_undoLoops (c : Core) (n : Nat) (w : Word) : (setSreg c n w).undoLoops = c.undoLoops := by unfold setSreg; split <;> rfl
@[simp] theorem setSreg_undoWaits (c : Core) (n : Nat) (w : Word) : (setSreg c n w).undoWaits = c.undoWaits := by unfold setSreg; split <;> rfl
@[simp] theorem setSreg_undoNext (c : Core) (n : Nat) (w : Word) : (setSreg c n w).undoNext = c.undoNext := by unfold setSreg; split <;> rfl
@[simp] theorem setPred_gang (c : Core) (n : Nat) (v : Bool) : (setPred c n v).gang = c.gang := by unfold setPred; split <;> rfl
@[simp] theorem setPred_idx (c : Core) (n : Nat) (v : Bool) : (setPred c n v).idx = c.idx := by unfold setPred; split <;> rfl
@[simp] theorem setPred_running (c : Core) (n : Nat) (v : Bool) : (setPred c n v).running = c.running := by unfold setPred; split <;> rfl
@[simp] theorem setPred_frozenAt (c : Core) (n : Nat) (v : Bool) : (setPred c n v).frozenAt = c.frozenAt := by unfold setPred; split <;> rfl
@[simp] theorem setPred_stopped (c : Core) (n : Nat) (v : Bool) : (setPred c n v).stopped = c.stopped := by unfold setPred; split <;> rfl
@[simp] theorem setPred_pc (c : Core) (n : Nat) (v : Bool) : (setPred c n v).pc = c.pc := by unfold setPred; split <;> rfl
@[simp] theorem setPred_nextIssue (c : Core) (n : Nat) (v : Bool) : (setPred c n v).nextIssue = c.nextIssue := by unfold setPred; split <;> rfl
@[simp] theorem setPred_waits (c : Core) (n : Nat) (v : Bool) : (setPred c n v).waits = c.waits := by unfold setPred; split <;> rfl
@[simp] theorem setPred_starts (c : Core) (n : Nat) (v : Bool) : (setPred c n v).starts = c.starts := by unfold setPred; split <;> rfl
@[simp] theorem setPred_exitAt (c : Core) (n : Nat) (v : Bool) : (setPred c n v).exitAt = c.exitAt := by unfold setPred; split <;> rfl
@[simp] theorem setPred_spawned (c : Core) (n : Nat) (v : Bool) : (setPred c n v).spawned = c.spawned := by unfold setPred; split <;> rfl
@[simp] theorem setPred_curCycle (c : Core) (n : Nat) (v : Bool) : (setPred c n v).curCycle = c.curCycle := by unfold setPred; split <;> rfl
@[simp] theorem setPred_curBundle (c : Core) (n : Nat) (v : Bool) : (setPred c n v).curBundle = c.curBundle := by unfold setPred; split <;> rfl
@[simp] theorem setPred_latch (c : Core) (n : Nat) (v : Bool) : (setPred c n v).latch = c.latch := by unfold setPred; split <;> rfl
@[simp] theorem setPred_buffered (c : Core) (n : Nat) (v : Bool) : (setPred c n v).buffered = c.buffered := by unfold setPred; split <;> rfl
@[simp] theorem setPred_s (c : Core) (n : Nat) (v : Bool) : (setPred c n v).s = c.s := by unfold setPred; split <;> rfl
@[simp] theorem setPred_v (c : Core) (n : Nat) (v : Bool) : (setPred c n v).v = c.v := by unfold setPred; split <;> rfl
@[simp] theorem setPred_k (c : Core) (n : Nat) (v : Bool) : (setPred c n v).k = c.k := by unfold setPred; split <;> rfl
@[simp] theorem setPred_ports (c : Core) (n : Nat) (v : Bool) : (setPred c n v).ports = c.ports := by unfold setPred; split <;> rfl
@[simp] theorem setPred_vports (c : Core) (n : Nat) (v : Bool) : (setPred c n v).vports = c.vports := by unfold setPred; split <;> rfl
@[simp] theorem setPred_kports (c : Core) (n : Nat) (v : Bool) : (setPred c n v).kports = c.kports := by unfold setPred; split <;> rfl
@[simp] theorem setPred_res (c : Core) (n : Nat) (v : Bool) : (setPred c n v).res = c.res := by unfold setPred; split <;> rfl
@[simp] theorem setPred_vres (c : Core) (n : Nat) (v : Bool) : (setPred c n v).vres = c.vres := by unfold setPred; split <;> rfl
@[simp] theorem setPred_vprev (c : Core) (n : Nat) (v : Bool) : (setPred c n v).vprev = c.vprev := by unfold setPred; split <;> rfl
@[simp] theorem setPred_deliv (c : Core) (n : Nat) (v : Bool) : (setPred c n v).deliv = c.deliv := by unfold setPred; split <;> rfl
@[simp] theorem setPred_targets (c : Core) (n : Nat) (v : Bool) : (setPred c n v).targets = c.targets := by unfold setPred; split <;> rfl
@[simp] theorem setPred_links (c : Core) (n : Nat) (v : Bool) : (setPred c n v).links = c.links := by unfold setPred; split <;> rfl
@[simp] theorem setPred_loops (c : Core) (n : Nat) (v : Bool) : (setPred c n v).loops = c.loops := by unfold setPred; split <;> rfl
@[simp] theorem setPred_loopSeq (c : Core) (n : Nat) (v : Bool) : (setPred c n v).loopSeq = c.loopSeq := by unfold setPred; split <;> rfl
@[simp] theorem setPred_flags (c : Core) (n : Nat) (v : Bool) : (setPred c n v).flags = c.flags := by unfold setPred; split <;> rfl
@[simp] theorem setPred_predDue (c : Core) (n : Nat) (v : Bool) : (setPred c n v).predDue = c.predDue := by unfold setPred; split <;> rfl
@[simp] theorem setPred_seed (c : Core) (n : Nat) (v : Bool) : (setPred c n v).seed = c.seed := by unfold setPred; split <;> rfl
@[simp] theorem setPred_genVA (c : Core) (n : Nat) (v : Bool) : (setPred c n v).genVA = c.genVA := by unfold setPred; split <;> rfl
@[simp] theorem setPred_genVB (c : Core) (n : Nat) (v : Bool) : (setPred c n v).genVB = c.genVB := by unfold setPred; split <;> rfl
@[simp] theorem setPred_genSQ (c : Core) (n : Nat) (v : Bool) : (setPred c n v).genSQ = c.genSQ := by unfold setPred; split <;> rfl
@[simp] theorem setPred_genMX (c : Core) (n : Nat) (v : Bool) : (setPred c n v).genMX = c.genMX := by unfold setPred; split <;> rfl
@[simp] theorem setPred_lutVA (c : Core) (n : Nat) (v : Bool) : (setPred c n v).lutVA = c.lutVA := by unfold setPred; split <;> rfl
@[simp] theorem setPred_lutVB (c : Core) (n : Nat) (v : Bool) : (setPred c n v).lutVB = c.lutVB := by unfold setPred; split <;> rfl
@[simp] theorem setPred_poison (c : Core) (n : Nat) (v : Bool) : (setPred c n v).poison = c.poison := by unfold setPred; split <;> rfl
@[simp] theorem setPred_suppress (c : Core) (n : Nat) (v : Bool) : (setPred c n v).suppress = c.suppress := by unfold setPred; split <;> rfl
@[simp] theorem setPred_slipInfo (c : Core) (n : Nat) (v : Bool) : (setPred c n v).slipInfo = c.slipInfo := by unfold setPred; split <;> rfl
@[simp] theorem setPred_wdogBase (c : Core) (n : Nat) (v : Bool) : (setPred c n v).wdogBase = c.wdogBase := by unfold setPred; split <;> rfl
@[simp] theorem setPred_wdogHeld (c : Core) (n : Nat) (v : Bool) : (setPred c n v).wdogHeld = c.wdogHeld := by unfold setPred; split <;> rfl
@[simp] theorem setPred_streams (c : Core) (n : Nat) (v : Bool) : (setPred c n v).streams = c.streams := by unfold setPred; split <;> rfl
@[simp] theorem setPred_fetched (c : Core) (n : Nat) (v : Bool) : (setPred c n v).fetched = c.fetched := by unfold setPred; split <;> rfl
@[simp] theorem setPred_accesses (c : Core) (n : Nat) (v : Bool) : (setPred c n v).accesses = c.accesses := by unfold setPred; split <;> rfl
@[simp] theorem setPred_foreign (c : Core) (n : Nat) (v : Bool) : (setPred c n v).foreign = c.foreign := by unfold setPred; split <;> rfl
@[simp] theorem setPred_fstamps (c : Core) (n : Nat) (v : Bool) : (setPred c n v).fstamps = c.fstamps := by unfold setPred; split <;> rfl
@[simp] theorem setPred_voided (c : Core) (n : Nat) (v : Bool) : (setPred c n v).voided = c.voided := by unfold setPred; split <;> rfl
@[simp] theorem setPred_stamps (c : Core) (n : Nat) (v : Bool) : (setPred c n v).stamps = c.stamps := by unfold setPred; split <;> rfl
@[simp] theorem setPred_path (c : Core) (n : Nat) (v : Bool) : (setPred c n v).path = c.path := by unfold setPred; split <;> rfl
@[simp] theorem setPred_scratch (c : Core) (n : Nat) (v : Bool) : (setPred c n v).scratch = c.scratch := by unfold setPred; split <;> rfl
@[simp] theorem setPred_tags (c : Core) (n : Nat) (v : Bool) : (setPred c n v).tags = c.tags := by unfold setPred; split <;> rfl
@[simp] theorem setPred_shadow (c : Core) (n : Nat) (v : Bool) : (setPred c n v).shadow = c.shadow := by unfold setPred; split <;> rfl
@[simp] theorem setPred_badTiles (c : Core) (n : Nat) (v : Bool) : (setPred c n v).badTiles = c.badTiles := by unfold setPred; split <;> rfl
@[simp] theorem setPred_claims (c : Core) (n : Nat) (v : Bool) : (setPred c n v).claims = c.claims := by unfold setPred; split <;> rfl
@[simp] theorem setPred_owners (c : Core) (n : Nat) (v : Bool) : (setPred c n v).owners = c.owners := by unfold setPred; split <;> rfl
@[simp] theorem setPred_istore (c : Core) (n : Nat) (v : Bool) : (setPred c n v).istore = c.istore := by unfold setPred; split <;> rfl
@[simp] theorem setPred_ahead (c : Core) (n : Nat) (v : Bool) : (setPred c n v).ahead = c.ahead := by unfold setPred; split <;> rfl
@[simp] theorem setPred_isdirty (c : Core) (n : Nat) (v : Bool) : (setPred c n v).isdirty = c.isdirty := by unfold setPred; split <;> rfl
@[simp] theorem setPred_badBundles (c : Core) (n : Nat) (v : Bool) : (setPred c n v).badBundles = c.badBundles := by unfold setPred; split <;> rfl
@[simp] theorem setPred_mx (c : Core) (n : Nat) (v : Bool) : (setPred c n v).mx = c.mx := by unfold setPred; split <;> rfl
@[simp] theorem setPred_cmds (c : Core) (n : Nat) (v : Bool) : (setPred c n v).cmds = c.cmds := by unfold setPred; split <;> rfl
@[simp] theorem setPred_cmdSeq (c : Core) (n : Nat) (v : Bool) : (setPred c n v).cmdSeq = c.cmdSeq := by unfold setPred; split <;> rfl
@[simp] theorem setPred_recvs (c : Core) (n : Nat) (v : Bool) : (setPred c n v).recvs = c.recvs := by unfold setPred; split <;> rfl
@[simp] theorem setPred_snaps (c : Core) (n : Nat) (v : Bool) : (setPred c n v).snaps = c.snaps := by unfold setPred; split <;> rfl
@[simp] theorem setPred_owed (c : Core) (n : Nat) (v : Bool) : (setPred c n v).owed = c.owed := by unfold setPred; split <;> rfl
@[simp] theorem setPred_nextBank (c : Core) (n : Nat) (v : Bool) : (setPred c n v).nextBank = c.nextBank := by unfold setPred; split <;> rfl
@[simp] theorem setPred_dramCmds (c : Core) (n : Nat) (v : Bool) : (setPred c n v).dramCmds = c.dramCmds := by unfold setPred; split <;> rfl
@[simp] theorem setPred_interval (c : Core) (n : Nat) (v : Bool) : (setPred c n v).interval = c.interval := by unfold setPred; split <;> rfl
@[simp] theorem setPred_racectl (c : Core) (n : Nat) (v : Bool) : (setPred c n v).racectl = c.racectl := by unfold setPred; split <;> rfl
@[simp] theorem setPred_racecnt (c : Core) (n : Nat) (v : Bool) : (setPred c n v).racecnt = c.racecnt := by unfold setPred; split <;> rfl
@[simp] theorem setPred_polver (c : Core) (n : Nat) (v : Bool) : (setPred c n v).polver = c.polver := by unfold setPred; split <;> rfl
@[simp] theorem setPred_nopreempt (c : Core) (n : Nat) (v : Bool) : (setPred c n v).nopreempt = c.nopreempt := by unfold setPred; split <;> rfl
@[simp] theorem setPred_watch0 (c : Core) (n : Nat) (v : Bool) : (setPred c n v).watch0 = c.watch0 := by unfold setPred; split <;> rfl
@[simp] theorem setPred_watch1 (c : Core) (n : Nat) (v : Bool) : (setPred c n v).watch1 = c.watch1 := by unfold setPred; split <;> rfl
@[simp] theorem setPred_watch2 (c : Core) (n : Nat) (v : Bool) : (setPred c n v).watch2 = c.watch2 := by unfold setPred; split <;> rfl
@[simp] theorem setPred_watch3 (c : Core) (n : Nat) (v : Bool) : (setPred c n v).watch3 = c.watch3 := by unfold setPred; split <;> rfl
@[simp] theorem setPred_records (c : Core) (n : Nat) (v : Bool) : (setPred c n v).records = c.records := by unfold setPred; split <;> rfl
@[simp] theorem setPred_lost (c : Core) (n : Nat) (v : Bool) : (setPred c n v).lost = c.lost := by unfold setPred; split <;> rfl
@[simp] theorem setPred_fault (c : Core) (n : Nat) (v : Bool) : (setPred c n v).fault = c.fault := by unfold setPred; split <;> rfl
@[simp] theorem setPred_raised (c : Core) (n : Nat) (v : Bool) : (setPred c n v).raised = c.raised := by unfold setPred; split <;> rfl
@[simp] theorem setPred_doomed (c : Core) (n : Nat) (v : Bool) : (setPred c n v).doomed = c.doomed := by unfold setPred; split <;> rfl
@[simp] theorem setPred_dbg (c : Core) (n : Nat) (v : Bool) : (setPred c n v).dbg = c.dbg := by unfold setPred; split <;> rfl
@[simp] theorem setPred_undoPtr (c : Core) (n : Nat) (v : Bool) : (setPred c n v).undoPtr = c.undoPtr := by unfold setPred; split <;> rfl
@[simp] theorem setPred_undoPc (c : Core) (n : Nat) (v : Bool) : (setPred c n v).undoPc = c.undoPc := by unfold setPred; split <;> rfl
@[simp] theorem setPred_undoLoops (c : Core) (n : Nat) (v : Bool) : (setPred c n v).undoLoops = c.undoLoops := by unfold setPred; split <;> rfl
@[simp] theorem setPred_undoWaits (c : Core) (n : Nat) (v : Bool) : (setPred c n v).undoWaits = c.undoWaits := by unfold setPred; split <;> rfl
@[simp] theorem setPred_undoNext (c : Core) (n : Nat) (v : Bool) : (setPred c n v).undoNext = c.undoNext := by unfold setPred; split <;> rfl
@[simp] theorem setResult_gang (c : Core) (r : ResultPort) (v : Vec) : (setResult c r v).gang = c.gang := by unfold setResult; split <;> rfl
@[simp] theorem setResult_idx (c : Core) (r : ResultPort) (v : Vec) : (setResult c r v).idx = c.idx := by unfold setResult; split <;> rfl
@[simp] theorem setResult_running (c : Core) (r : ResultPort) (v : Vec) : (setResult c r v).running = c.running := by unfold setResult; split <;> rfl
@[simp] theorem setResult_frozenAt (c : Core) (r : ResultPort) (v : Vec) : (setResult c r v).frozenAt = c.frozenAt := by unfold setResult; split <;> rfl
@[simp] theorem setResult_stopped (c : Core) (r : ResultPort) (v : Vec) : (setResult c r v).stopped = c.stopped := by unfold setResult; split <;> rfl
@[simp] theorem setResult_pc (c : Core) (r : ResultPort) (v : Vec) : (setResult c r v).pc = c.pc := by unfold setResult; split <;> rfl
@[simp] theorem setResult_nextIssue (c : Core) (r : ResultPort) (v : Vec) : (setResult c r v).nextIssue = c.nextIssue := by unfold setResult; split <;> rfl
@[simp] theorem setResult_waits (c : Core) (r : ResultPort) (v : Vec) : (setResult c r v).waits = c.waits := by unfold setResult; split <;> rfl
@[simp] theorem setResult_starts (c : Core) (r : ResultPort) (v : Vec) : (setResult c r v).starts = c.starts := by unfold setResult; split <;> rfl
@[simp] theorem setResult_exitAt (c : Core) (r : ResultPort) (v : Vec) : (setResult c r v).exitAt = c.exitAt := by unfold setResult; split <;> rfl
@[simp] theorem setResult_spawned (c : Core) (r : ResultPort) (v : Vec) : (setResult c r v).spawned = c.spawned := by unfold setResult; split <;> rfl
@[simp] theorem setResult_curCycle (c : Core) (r : ResultPort) (v : Vec) : (setResult c r v).curCycle = c.curCycle := by unfold setResult; split <;> rfl
@[simp] theorem setResult_curBundle (c : Core) (r : ResultPort) (v : Vec) : (setResult c r v).curBundle = c.curBundle := by unfold setResult; split <;> rfl
@[simp] theorem setResult_latch (c : Core) (r : ResultPort) (v : Vec) : (setResult c r v).latch = c.latch := by unfold setResult; split <;> rfl
@[simp] theorem setResult_buffered (c : Core) (r : ResultPort) (v : Vec) : (setResult c r v).buffered = c.buffered := by unfold setResult; split <;> rfl
@[simp] theorem setResult_s (c : Core) (r : ResultPort) (v : Vec) : (setResult c r v).s = c.s := by unfold setResult; split <;> rfl
@[simp] theorem setResult_v (c : Core) (r : ResultPort) (v : Vec) : (setResult c r v).v = c.v := by unfold setResult; split <;> rfl
@[simp] theorem setResult_k (c : Core) (r : ResultPort) (v : Vec) : (setResult c r v).k = c.k := by unfold setResult; split <;> rfl
@[simp] theorem setResult_p (c : Core) (r : ResultPort) (v : Vec) : (setResult c r v).p = c.p := by unfold setResult; split <;> rfl
@[simp] theorem setResult_ports (c : Core) (r : ResultPort) (v : Vec) : (setResult c r v).ports = c.ports := by unfold setResult; split <;> rfl
@[simp] theorem setResult_vports (c : Core) (r : ResultPort) (v : Vec) : (setResult c r v).vports = c.vports := by unfold setResult; split <;> rfl
@[simp] theorem setResult_kports (c : Core) (r : ResultPort) (v : Vec) : (setResult c r v).kports = c.kports := by unfold setResult; split <;> rfl
@[simp] theorem setResult_deliv (c : Core) (r : ResultPort) (v : Vec) : (setResult c r v).deliv = c.deliv := by unfold setResult; split <;> rfl
@[simp] theorem setResult_targets (c : Core) (r : ResultPort) (v : Vec) : (setResult c r v).targets = c.targets := by unfold setResult; split <;> rfl
@[simp] theorem setResult_links (c : Core) (r : ResultPort) (v : Vec) : (setResult c r v).links = c.links := by unfold setResult; split <;> rfl
@[simp] theorem setResult_loops (c : Core) (r : ResultPort) (v : Vec) : (setResult c r v).loops = c.loops := by unfold setResult; split <;> rfl
@[simp] theorem setResult_loopSeq (c : Core) (r : ResultPort) (v : Vec) : (setResult c r v).loopSeq = c.loopSeq := by unfold setResult; split <;> rfl
@[simp] theorem setResult_flags (c : Core) (r : ResultPort) (v : Vec) : (setResult c r v).flags = c.flags := by unfold setResult; split <;> rfl
@[simp] theorem setResult_predDue (c : Core) (r : ResultPort) (v : Vec) : (setResult c r v).predDue = c.predDue := by unfold setResult; split <;> rfl
@[simp] theorem setResult_seed (c : Core) (r : ResultPort) (v : Vec) : (setResult c r v).seed = c.seed := by unfold setResult; split <;> rfl
@[simp] theorem setResult_genVA (c : Core) (r : ResultPort) (v : Vec) : (setResult c r v).genVA = c.genVA := by unfold setResult; split <;> rfl
@[simp] theorem setResult_genVB (c : Core) (r : ResultPort) (v : Vec) : (setResult c r v).genVB = c.genVB := by unfold setResult; split <;> rfl
@[simp] theorem setResult_genSQ (c : Core) (r : ResultPort) (v : Vec) : (setResult c r v).genSQ = c.genSQ := by unfold setResult; split <;> rfl
@[simp] theorem setResult_genMX (c : Core) (r : ResultPort) (v : Vec) : (setResult c r v).genMX = c.genMX := by unfold setResult; split <;> rfl
@[simp] theorem setResult_lutVA (c : Core) (r : ResultPort) (v : Vec) : (setResult c r v).lutVA = c.lutVA := by unfold setResult; split <;> rfl
@[simp] theorem setResult_lutVB (c : Core) (r : ResultPort) (v : Vec) : (setResult c r v).lutVB = c.lutVB := by unfold setResult; split <;> rfl
@[simp] theorem setResult_poison (c : Core) (r : ResultPort) (v : Vec) : (setResult c r v).poison = c.poison := by unfold setResult; split <;> rfl
@[simp] theorem setResult_suppress (c : Core) (r : ResultPort) (v : Vec) : (setResult c r v).suppress = c.suppress := by unfold setResult; split <;> rfl
@[simp] theorem setResult_slipInfo (c : Core) (r : ResultPort) (v : Vec) : (setResult c r v).slipInfo = c.slipInfo := by unfold setResult; split <;> rfl
@[simp] theorem setResult_wdogBase (c : Core) (r : ResultPort) (v : Vec) : (setResult c r v).wdogBase = c.wdogBase := by unfold setResult; split <;> rfl
@[simp] theorem setResult_wdogHeld (c : Core) (r : ResultPort) (v : Vec) : (setResult c r v).wdogHeld = c.wdogHeld := by unfold setResult; split <;> rfl
@[simp] theorem setResult_streams (c : Core) (r : ResultPort) (v : Vec) : (setResult c r v).streams = c.streams := by unfold setResult; split <;> rfl
@[simp] theorem setResult_fetched (c : Core) (r : ResultPort) (v : Vec) : (setResult c r v).fetched = c.fetched := by unfold setResult; split <;> rfl
@[simp] theorem setResult_accesses (c : Core) (r : ResultPort) (v : Vec) : (setResult c r v).accesses = c.accesses := by unfold setResult; split <;> rfl
@[simp] theorem setResult_foreign (c : Core) (r : ResultPort) (v : Vec) : (setResult c r v).foreign = c.foreign := by unfold setResult; split <;> rfl
@[simp] theorem setResult_fstamps (c : Core) (r : ResultPort) (v : Vec) : (setResult c r v).fstamps = c.fstamps := by unfold setResult; split <;> rfl
@[simp] theorem setResult_voided (c : Core) (r : ResultPort) (v : Vec) : (setResult c r v).voided = c.voided := by unfold setResult; split <;> rfl
@[simp] theorem setResult_stamps (c : Core) (r : ResultPort) (v : Vec) : (setResult c r v).stamps = c.stamps := by unfold setResult; split <;> rfl
@[simp] theorem setResult_path (c : Core) (r : ResultPort) (v : Vec) : (setResult c r v).path = c.path := by unfold setResult; split <;> rfl
@[simp] theorem setResult_scratch (c : Core) (r : ResultPort) (v : Vec) : (setResult c r v).scratch = c.scratch := by unfold setResult; split <;> rfl
@[simp] theorem setResult_tags (c : Core) (r : ResultPort) (v : Vec) : (setResult c r v).tags = c.tags := by unfold setResult; split <;> rfl
@[simp] theorem setResult_shadow (c : Core) (r : ResultPort) (v : Vec) : (setResult c r v).shadow = c.shadow := by unfold setResult; split <;> rfl
@[simp] theorem setResult_badTiles (c : Core) (r : ResultPort) (v : Vec) : (setResult c r v).badTiles = c.badTiles := by unfold setResult; split <;> rfl
@[simp] theorem setResult_claims (c : Core) (r : ResultPort) (v : Vec) : (setResult c r v).claims = c.claims := by unfold setResult; split <;> rfl
@[simp] theorem setResult_owners (c : Core) (r : ResultPort) (v : Vec) : (setResult c r v).owners = c.owners := by unfold setResult; split <;> rfl
@[simp] theorem setResult_istore (c : Core) (r : ResultPort) (v : Vec) : (setResult c r v).istore = c.istore := by unfold setResult; split <;> rfl
@[simp] theorem setResult_ahead (c : Core) (r : ResultPort) (v : Vec) : (setResult c r v).ahead = c.ahead := by unfold setResult; split <;> rfl
@[simp] theorem setResult_isdirty (c : Core) (r : ResultPort) (v : Vec) : (setResult c r v).isdirty = c.isdirty := by unfold setResult; split <;> rfl
@[simp] theorem setResult_badBundles (c : Core) (r : ResultPort) (v : Vec) : (setResult c r v).badBundles = c.badBundles := by unfold setResult; split <;> rfl
@[simp] theorem setResult_mx (c : Core) (r : ResultPort) (v : Vec) : (setResult c r v).mx = c.mx := by unfold setResult; split <;> rfl
@[simp] theorem setResult_cmds (c : Core) (r : ResultPort) (v : Vec) : (setResult c r v).cmds = c.cmds := by unfold setResult; split <;> rfl
@[simp] theorem setResult_cmdSeq (c : Core) (r : ResultPort) (v : Vec) : (setResult c r v).cmdSeq = c.cmdSeq := by unfold setResult; split <;> rfl
@[simp] theorem setResult_recvs (c : Core) (r : ResultPort) (v : Vec) : (setResult c r v).recvs = c.recvs := by unfold setResult; split <;> rfl
@[simp] theorem setResult_snaps (c : Core) (r : ResultPort) (v : Vec) : (setResult c r v).snaps = c.snaps := by unfold setResult; split <;> rfl
@[simp] theorem setResult_owed (c : Core) (r : ResultPort) (v : Vec) : (setResult c r v).owed = c.owed := by unfold setResult; split <;> rfl
@[simp] theorem setResult_nextBank (c : Core) (r : ResultPort) (v : Vec) : (setResult c r v).nextBank = c.nextBank := by unfold setResult; split <;> rfl
@[simp] theorem setResult_dramCmds (c : Core) (r : ResultPort) (v : Vec) : (setResult c r v).dramCmds = c.dramCmds := by unfold setResult; split <;> rfl
@[simp] theorem setResult_interval (c : Core) (r : ResultPort) (v : Vec) : (setResult c r v).interval = c.interval := by unfold setResult; split <;> rfl
@[simp] theorem setResult_racectl (c : Core) (r : ResultPort) (v : Vec) : (setResult c r v).racectl = c.racectl := by unfold setResult; split <;> rfl
@[simp] theorem setResult_racecnt (c : Core) (r : ResultPort) (v : Vec) : (setResult c r v).racecnt = c.racecnt := by unfold setResult; split <;> rfl
@[simp] theorem setResult_polver (c : Core) (r : ResultPort) (v : Vec) : (setResult c r v).polver = c.polver := by unfold setResult; split <;> rfl
@[simp] theorem setResult_nopreempt (c : Core) (r : ResultPort) (v : Vec) : (setResult c r v).nopreempt = c.nopreempt := by unfold setResult; split <;> rfl
@[simp] theorem setResult_watch0 (c : Core) (r : ResultPort) (v : Vec) : (setResult c r v).watch0 = c.watch0 := by unfold setResult; split <;> rfl
@[simp] theorem setResult_watch1 (c : Core) (r : ResultPort) (v : Vec) : (setResult c r v).watch1 = c.watch1 := by unfold setResult; split <;> rfl
@[simp] theorem setResult_watch2 (c : Core) (r : ResultPort) (v : Vec) : (setResult c r v).watch2 = c.watch2 := by unfold setResult; split <;> rfl
@[simp] theorem setResult_watch3 (c : Core) (r : ResultPort) (v : Vec) : (setResult c r v).watch3 = c.watch3 := by unfold setResult; split <;> rfl
@[simp] theorem setResult_records (c : Core) (r : ResultPort) (v : Vec) : (setResult c r v).records = c.records := by unfold setResult; split <;> rfl
@[simp] theorem setResult_lost (c : Core) (r : ResultPort) (v : Vec) : (setResult c r v).lost = c.lost := by unfold setResult; split <;> rfl
@[simp] theorem setResult_fault (c : Core) (r : ResultPort) (v : Vec) : (setResult c r v).fault = c.fault := by unfold setResult; split <;> rfl
@[simp] theorem setResult_raised (c : Core) (r : ResultPort) (v : Vec) : (setResult c r v).raised = c.raised := by unfold setResult; split <;> rfl
@[simp] theorem setResult_doomed (c : Core) (r : ResultPort) (v : Vec) : (setResult c r v).doomed = c.doomed := by unfold setResult; split <;> rfl
@[simp] theorem setResult_dbg (c : Core) (r : ResultPort) (v : Vec) : (setResult c r v).dbg = c.dbg := by unfold setResult; split <;> rfl
@[simp] theorem setResult_undoPtr (c : Core) (r : ResultPort) (v : Vec) : (setResult c r v).undoPtr = c.undoPtr := by unfold setResult; split <;> rfl
@[simp] theorem setResult_undoPc (c : Core) (r : ResultPort) (v : Vec) : (setResult c r v).undoPc = c.undoPc := by unfold setResult; split <;> rfl
@[simp] theorem setResult_undoLoops (c : Core) (r : ResultPort) (v : Vec) : (setResult c r v).undoLoops = c.undoLoops := by unfold setResult; split <;> rfl
@[simp] theorem setResult_undoWaits (c : Core) (r : ResultPort) (v : Vec) : (setResult c r v).undoWaits = c.undoWaits := by unfold setResult; split <;> rfl
@[simp] theorem setResult_undoNext (c : Core) (r : ResultPort) (v : Vec) : (setResult c r v).undoNext = c.undoNext := by unfold setResult; split <;> rfl
@[simp] theorem addRaise_gang (c : Core) (r : Raise) : (addRaise c r).gang = c.gang := by unfold addRaise; split <;> rfl
@[simp] theorem addRaise_idx (c : Core) (r : Raise) : (addRaise c r).idx = c.idx := by unfold addRaise; split <;> rfl
@[simp] theorem addRaise_running (c : Core) (r : Raise) : (addRaise c r).running = c.running := by unfold addRaise; split <;> rfl
@[simp] theorem addRaise_frozenAt (c : Core) (r : Raise) : (addRaise c r).frozenAt = c.frozenAt := by unfold addRaise; split <;> rfl
@[simp] theorem addRaise_stopped (c : Core) (r : Raise) : (addRaise c r).stopped = c.stopped := by unfold addRaise; split <;> rfl
@[simp] theorem addRaise_pc (c : Core) (r : Raise) : (addRaise c r).pc = c.pc := by unfold addRaise; split <;> rfl
@[simp] theorem addRaise_nextIssue (c : Core) (r : Raise) : (addRaise c r).nextIssue = c.nextIssue := by unfold addRaise; split <;> rfl
@[simp] theorem addRaise_waits (c : Core) (r : Raise) : (addRaise c r).waits = c.waits := by unfold addRaise; split <;> rfl
@[simp] theorem addRaise_starts (c : Core) (r : Raise) : (addRaise c r).starts = c.starts := by unfold addRaise; split <;> rfl
@[simp] theorem addRaise_exitAt (c : Core) (r : Raise) : (addRaise c r).exitAt = c.exitAt := by unfold addRaise; split <;> rfl
@[simp] theorem addRaise_spawned (c : Core) (r : Raise) : (addRaise c r).spawned = c.spawned := by unfold addRaise; split <;> rfl
@[simp] theorem addRaise_curCycle (c : Core) (r : Raise) : (addRaise c r).curCycle = c.curCycle := by unfold addRaise; split <;> rfl
@[simp] theorem addRaise_curBundle (c : Core) (r : Raise) : (addRaise c r).curBundle = c.curBundle := by unfold addRaise; split <;> rfl
@[simp] theorem addRaise_latch (c : Core) (r : Raise) : (addRaise c r).latch = c.latch := by unfold addRaise; split <;> rfl
@[simp] theorem addRaise_buffered (c : Core) (r : Raise) : (addRaise c r).buffered = c.buffered := by unfold addRaise; split <;> rfl
@[simp] theorem addRaise_s (c : Core) (r : Raise) : (addRaise c r).s = c.s := by unfold addRaise; split <;> rfl
@[simp] theorem addRaise_v (c : Core) (r : Raise) : (addRaise c r).v = c.v := by unfold addRaise; split <;> rfl
@[simp] theorem addRaise_k (c : Core) (r : Raise) : (addRaise c r).k = c.k := by unfold addRaise; split <;> rfl
@[simp] theorem addRaise_p (c : Core) (r : Raise) : (addRaise c r).p = c.p := by unfold addRaise; split <;> rfl
@[simp] theorem addRaise_ports (c : Core) (r : Raise) : (addRaise c r).ports = c.ports := by unfold addRaise; split <;> rfl
@[simp] theorem addRaise_vports (c : Core) (r : Raise) : (addRaise c r).vports = c.vports := by unfold addRaise; split <;> rfl
@[simp] theorem addRaise_kports (c : Core) (r : Raise) : (addRaise c r).kports = c.kports := by unfold addRaise; split <;> rfl
@[simp] theorem addRaise_res (c : Core) (r : Raise) : (addRaise c r).res = c.res := by unfold addRaise; split <;> rfl
@[simp] theorem addRaise_vres (c : Core) (r : Raise) : (addRaise c r).vres = c.vres := by unfold addRaise; split <;> rfl
@[simp] theorem addRaise_vprev (c : Core) (r : Raise) : (addRaise c r).vprev = c.vprev := by unfold addRaise; split <;> rfl
@[simp] theorem addRaise_deliv (c : Core) (r : Raise) : (addRaise c r).deliv = c.deliv := by unfold addRaise; split <;> rfl
@[simp] theorem addRaise_targets (c : Core) (r : Raise) : (addRaise c r).targets = c.targets := by unfold addRaise; split <;> rfl
@[simp] theorem addRaise_links (c : Core) (r : Raise) : (addRaise c r).links = c.links := by unfold addRaise; split <;> rfl
@[simp] theorem addRaise_loops (c : Core) (r : Raise) : (addRaise c r).loops = c.loops := by unfold addRaise; split <;> rfl
@[simp] theorem addRaise_loopSeq (c : Core) (r : Raise) : (addRaise c r).loopSeq = c.loopSeq := by unfold addRaise; split <;> rfl
@[simp] theorem addRaise_flags (c : Core) (r : Raise) : (addRaise c r).flags = c.flags := by unfold addRaise; split <;> rfl
@[simp] theorem addRaise_predDue (c : Core) (r : Raise) : (addRaise c r).predDue = c.predDue := by unfold addRaise; split <;> rfl
@[simp] theorem addRaise_seed (c : Core) (r : Raise) : (addRaise c r).seed = c.seed := by unfold addRaise; split <;> rfl
@[simp] theorem addRaise_genVA (c : Core) (r : Raise) : (addRaise c r).genVA = c.genVA := by unfold addRaise; split <;> rfl
@[simp] theorem addRaise_genVB (c : Core) (r : Raise) : (addRaise c r).genVB = c.genVB := by unfold addRaise; split <;> rfl
@[simp] theorem addRaise_genSQ (c : Core) (r : Raise) : (addRaise c r).genSQ = c.genSQ := by unfold addRaise; split <;> rfl
@[simp] theorem addRaise_genMX (c : Core) (r : Raise) : (addRaise c r).genMX = c.genMX := by unfold addRaise; split <;> rfl
@[simp] theorem addRaise_lutVA (c : Core) (r : Raise) : (addRaise c r).lutVA = c.lutVA := by unfold addRaise; split <;> rfl
@[simp] theorem addRaise_lutVB (c : Core) (r : Raise) : (addRaise c r).lutVB = c.lutVB := by unfold addRaise; split <;> rfl
@[simp] theorem addRaise_poison (c : Core) (r : Raise) : (addRaise c r).poison = c.poison := by unfold addRaise; split <;> rfl
@[simp] theorem addRaise_suppress (c : Core) (r : Raise) : (addRaise c r).suppress = c.suppress := by unfold addRaise; split <;> rfl
@[simp] theorem addRaise_slipInfo (c : Core) (r : Raise) : (addRaise c r).slipInfo = c.slipInfo := by unfold addRaise; split <;> rfl
@[simp] theorem addRaise_wdogBase (c : Core) (r : Raise) : (addRaise c r).wdogBase = c.wdogBase := by unfold addRaise; split <;> rfl
@[simp] theorem addRaise_wdogHeld (c : Core) (r : Raise) : (addRaise c r).wdogHeld = c.wdogHeld := by unfold addRaise; split <;> rfl
@[simp] theorem addRaise_streams (c : Core) (r : Raise) : (addRaise c r).streams = c.streams := by unfold addRaise; split <;> rfl
@[simp] theorem addRaise_fetched (c : Core) (r : Raise) : (addRaise c r).fetched = c.fetched := by unfold addRaise; split <;> rfl
@[simp] theorem addRaise_accesses (c : Core) (r : Raise) : (addRaise c r).accesses = c.accesses := by unfold addRaise; split <;> rfl
@[simp] theorem addRaise_foreign (c : Core) (r : Raise) : (addRaise c r).foreign = c.foreign := by unfold addRaise; split <;> rfl
@[simp] theorem addRaise_fstamps (c : Core) (r : Raise) : (addRaise c r).fstamps = c.fstamps := by unfold addRaise; split <;> rfl
@[simp] theorem addRaise_voided (c : Core) (r : Raise) : (addRaise c r).voided = c.voided := by unfold addRaise; split <;> rfl
@[simp] theorem addRaise_stamps (c : Core) (r : Raise) : (addRaise c r).stamps = c.stamps := by unfold addRaise; split <;> rfl
@[simp] theorem addRaise_path (c : Core) (r : Raise) : (addRaise c r).path = c.path := by unfold addRaise; split <;> rfl
@[simp] theorem addRaise_scratch (c : Core) (r : Raise) : (addRaise c r).scratch = c.scratch := by unfold addRaise; split <;> rfl
@[simp] theorem addRaise_tags (c : Core) (r : Raise) : (addRaise c r).tags = c.tags := by unfold addRaise; split <;> rfl
@[simp] theorem addRaise_shadow (c : Core) (r : Raise) : (addRaise c r).shadow = c.shadow := by unfold addRaise; split <;> rfl
@[simp] theorem addRaise_badTiles (c : Core) (r : Raise) : (addRaise c r).badTiles = c.badTiles := by unfold addRaise; split <;> rfl
@[simp] theorem addRaise_claims (c : Core) (r : Raise) : (addRaise c r).claims = c.claims := by unfold addRaise; split <;> rfl
@[simp] theorem addRaise_owners (c : Core) (r : Raise) : (addRaise c r).owners = c.owners := by unfold addRaise; split <;> rfl
@[simp] theorem addRaise_istore (c : Core) (r : Raise) : (addRaise c r).istore = c.istore := by unfold addRaise; split <;> rfl
@[simp] theorem addRaise_ahead (c : Core) (r : Raise) : (addRaise c r).ahead = c.ahead := by unfold addRaise; split <;> rfl
@[simp] theorem addRaise_isdirty (c : Core) (r : Raise) : (addRaise c r).isdirty = c.isdirty := by unfold addRaise; split <;> rfl
@[simp] theorem addRaise_badBundles (c : Core) (r : Raise) : (addRaise c r).badBundles = c.badBundles := by unfold addRaise; split <;> rfl
@[simp] theorem addRaise_mx (c : Core) (r : Raise) : (addRaise c r).mx = c.mx := by unfold addRaise; split <;> rfl
@[simp] theorem addRaise_cmds (c : Core) (r : Raise) : (addRaise c r).cmds = c.cmds := by unfold addRaise; split <;> rfl
@[simp] theorem addRaise_cmdSeq (c : Core) (r : Raise) : (addRaise c r).cmdSeq = c.cmdSeq := by unfold addRaise; split <;> rfl
@[simp] theorem addRaise_recvs (c : Core) (r : Raise) : (addRaise c r).recvs = c.recvs := by unfold addRaise; split <;> rfl
@[simp] theorem addRaise_snaps (c : Core) (r : Raise) : (addRaise c r).snaps = c.snaps := by unfold addRaise; split <;> rfl
@[simp] theorem addRaise_owed (c : Core) (r : Raise) : (addRaise c r).owed = c.owed := by unfold addRaise; split <;> rfl
@[simp] theorem addRaise_nextBank (c : Core) (r : Raise) : (addRaise c r).nextBank = c.nextBank := by unfold addRaise; split <;> rfl
@[simp] theorem addRaise_dramCmds (c : Core) (r : Raise) : (addRaise c r).dramCmds = c.dramCmds := by unfold addRaise; split <;> rfl
@[simp] theorem addRaise_interval (c : Core) (r : Raise) : (addRaise c r).interval = c.interval := by unfold addRaise; split <;> rfl
@[simp] theorem addRaise_racectl (c : Core) (r : Raise) : (addRaise c r).racectl = c.racectl := by unfold addRaise; split <;> rfl
@[simp] theorem addRaise_racecnt (c : Core) (r : Raise) : (addRaise c r).racecnt = c.racecnt := by unfold addRaise; split <;> rfl
@[simp] theorem addRaise_polver (c : Core) (r : Raise) : (addRaise c r).polver = c.polver := by unfold addRaise; split <;> rfl
@[simp] theorem addRaise_nopreempt (c : Core) (r : Raise) : (addRaise c r).nopreempt = c.nopreempt := by unfold addRaise; split <;> rfl
@[simp] theorem addRaise_watch0 (c : Core) (r : Raise) : (addRaise c r).watch0 = c.watch0 := by unfold addRaise; split <;> rfl
@[simp] theorem addRaise_watch1 (c : Core) (r : Raise) : (addRaise c r).watch1 = c.watch1 := by unfold addRaise; split <;> rfl
@[simp] theorem addRaise_watch2 (c : Core) (r : Raise) : (addRaise c r).watch2 = c.watch2 := by unfold addRaise; split <;> rfl
@[simp] theorem addRaise_watch3 (c : Core) (r : Raise) : (addRaise c r).watch3 = c.watch3 := by unfold addRaise; split <;> rfl
@[simp] theorem addRaise_records (c : Core) (r : Raise) : (addRaise c r).records = c.records := by unfold addRaise; split <;> rfl
@[simp] theorem addRaise_lost (c : Core) (r : Raise) : (addRaise c r).lost = c.lost := by unfold addRaise; split <;> rfl
@[simp] theorem addRaise_fault (c : Core) (r : Raise) : (addRaise c r).fault = c.fault := by unfold addRaise; split <;> rfl
@[simp] theorem addRaise_doomed (c : Core) (r : Raise) : (addRaise c r).doomed = c.doomed := by unfold addRaise; split <;> rfl
@[simp] theorem addRaise_dbg (c : Core) (r : Raise) : (addRaise c r).dbg = c.dbg := by unfold addRaise; split <;> rfl
@[simp] theorem addRaise_undoPtr (c : Core) (r : Raise) : (addRaise c r).undoPtr = c.undoPtr := by unfold addRaise; split <;> rfl
@[simp] theorem addRaise_undoPc (c : Core) (r : Raise) : (addRaise c r).undoPc = c.undoPc := by unfold addRaise; split <;> rfl
@[simp] theorem addRaise_undoLoops (c : Core) (r : Raise) : (addRaise c r).undoLoops = c.undoLoops := by unfold addRaise; split <;> rfl
@[simp] theorem addRaise_undoWaits (c : Core) (r : Raise) : (addRaise c r).undoWaits = c.undoWaits := by unfold addRaise; split <;> rfl
@[simp] theorem addRaise_undoNext (c : Core) (r : Raise) : (addRaise c r).undoNext = c.undoNext := by unfold addRaise; split <;> rfl

/-! Reads after writes. -/

@[simp] theorem portOf_setPort_self (c : Core) (id : Nat) (w : Word) : portOf (setPort c id w) id = w := tget_tset_self _ _ _ _
@[simp] theorem portOf_setPort_ne (c : Core) {id j : Nat} (w : Word) (h : j ≠ id) : portOf (setPort c id w) j = portOf c j :=
  tget_tset_ne _ _ _ h
@[simp] theorem vportOf_setVport_self (c : Core) (id : Nat) (w : Vec) : vportOf (setVport c id w) id = w :=
  tget_tset_self _ _ _ _
@[simp] theorem vportOf_setVport_ne (c : Core) {id j : Nat} (w : Vec) (h : j ≠ id) :
    vportOf (setVport c id w) j = vportOf c j := tget_tset_ne _ _ _ h
@[simp] theorem kportOf_setKport_self (c : Core) (id : Nat) (w : Mask) : kportOf (setKport c id w) id = w :=
  tget_tset_self _ _ _ _
@[simp] theorem vregOf_setVreg_self (c : Core) (n : Nat) (w : Vec) : vregOf (setVreg c n w) n = w := tget_tset_self _ _ _ _
@[simp] theorem vregOf_setVreg_ne (c : Core) {n j : Nat} (w : Vec) (h : j ≠ n) : vregOf (setVreg c n w) j = vregOf c j :=
  tget_tset_ne _ _ _ h
@[simp] theorem kregOf_setKreg_self (c : Core) (n : Nat) (w : Mask) : kregOf (setKreg c n w) n = w := tget_tset_self _ _ _ _
@[simp] theorem kregOf_setKreg_ne (c : Core) {n j : Nat} (w : Mask) (h : j ≠ n) : kregOf (setKreg c n w) j = kregOf c j :=
  tget_tset_ne _ _ _ h

/-- s0 reads 0 whatever is written to it. -/
@[simp] theorem sregOf_zero (c : Core) : sregOf c 0 = 0 := rfl
@[simp] theorem setSreg_zero (c : Core) (w : Word) : setSreg c 0 w = c := rfl
theorem sregOf_setSreg_self (c : Core) {n : Nat} (w : Word) (h : n ≠ 0) : sregOf (setSreg c n w) n = w := by
  simp [sregOf, setSreg, h]
theorem sregOf_setSreg_ne (c : Core) {n j : Nat} (w : Word) (h : j ≠ n) : sregOf (setSreg c n w) j = sregOf c j := by
  unfold sregOf setSreg
  split
  · rfl
  · split
    · rfl
    · exact tget_tset_ne _ _ _ h
@[simp] theorem streamOf_setStream_self (c : Core) (q : Nat) (x : Stream) : streamOf (setStream c q x) q = x :=
  tget_tset_self _ _ _ _
@[simp] theorem streamOf_setStream_ne (c : Core) {q j : Nat} (x : Stream) (h : j ≠ q) :
    streamOf (setStream c q x) j = streamOf c j := tget_tset_ne _ _ _ h
@[simp] theorem loopOf_setLoop_self (c : Core) (n : Nat) (l : Loop) : loopOf (setLoop c n l) n = l := tget_tset_self _ _ _ _
@[simp] theorem loopOf_setLoop_ne (c : Core) {n j : Nat} (l : Loop) (h : j ≠ n) : loopOf (setLoop c n l) j = loopOf c j :=
  tget_tset_ne _ _ _ h
@[simp] theorem targetOf_setTarget_self (c : Core) (t : Nat) (x : Target) : targetOf (setTarget c t x) t = x :=
  tget_tset_self _ _ _ _
@[simp] theorem bundleAt_setBundle_self (c : Core) (n : Nat) (w : BitVec 192) : bundleAt (setBundle c n w) n = w :=
  tget_tset_self _ _ _ _
@[simp] theorem tagOf_setTag_self (c : Core) (n : Nat) (t : BitVec 16) : tagOf (setTag c n t) n = t := tget_tset_self _ _ _ _

/-- Scratch bytes outside a write stay as they are, and those inside are the ones written. -/
theorem scratch_putScratch_outside (c : Core) (a j : Nat) (bs : List Byte) (h : j < a ∨ a + bs.length ≤ j) :
    tget 0 (putScratch c a bs).scratch j = tget 0 c.scratch j := tget_tputs_ne _ _ _ _ _ h
theorem scratchBytes_putScratch (c : Core) (a : Nat) (bs : List Byte) : scratchBytes (putScratch c a bs) a bs.length = bs :=
  tbytes_tputs _ _ _ _

end Sys2Proof.Machine
end

