-- ==== Sys2Proof/Laws/Exec.lean ====
section
/-! SUPPORT. What each shared operation of a move can do: one lemma for each, which proofs cite in place of its definition. -/

namespace Sys2Proof.Machine

/-- Raising a fault changes the faults raised and nothing else. -/
theorem addRaise_spec (c : Core) (r : Raise) : addRaise c r = { c with raised := (addRaise c r).raised } := by
  unfold addRaise; split <;> rfl

/-- On a core that no fault has frozen, the raise is noted last. -/
theorem addRaise_live (c : Core) (r : Raise) (h : c.frozenAt = none) : (addRaise c r).raised = c.raised ++ [r] := by
  simp [addRaise, h]

theorem raiseFor_spec (c : Core) (fl : Flight) (rs : List Nat) (code : Nat) (a b d : Word) :
    raiseFor c fl rs code a b d = { c with raised := (raiseFor c fl rs code a b d).raised } := addRaise_spec _ _

theorem raiseNow_spec (c : Core) (x code : Nat) (a b d : Word) :
    raiseNow c x code a b d = { c with raised := (raiseNow c x code a b d).raised } := addRaise_spec _ _

/-- A port collision only raises a fault. -/
theorem collide_spec (c : Core) (id : Nat) (fl : Flight) : collide c id fl = { c with raised := (collide c id fl).raised } := by
  unfold collide; split
  · rfl
  · exact raiseFor_spec ..

/-- Noting a trigger changes the notes of deliveries and the faults raised alone. -/
theorem noteTrigger_spec (n : Nat) (c : Core) (fl : Flight) :
    noteTrigger n c fl = { c with deliv := (noteTrigger n c fl).deliv, raised := (noteTrigger n c fl).raised } := by
  unfold noteTrigger noteDelivery; rw [collide_spec]

/-- Noting an arrival changes the notes of deliveries and the faults raised alone. -/
theorem noteArrival_spec (c : Core) (n : Nat) (fl : Flight) :
    noteArrival c n fl = { c with deliv := (noteArrival c n fl).deliv, raised := (noteArrival c n fl).raised } := by
  unfold noteArrival; split
  · rfl
  · unfold noteDelivery; rw [collide_spec]

/-- A fault charged to a bundle is raised, or kept until the bundle issues. -/
theorem addCharged_spec (c : Core) (x : Nat) (r : Raise) :
    addCharged c x r = { c with raised := (addCharged c x r).raised, deferred := (addCharged c x r).deferred } := by
  unfold addCharged
  split
  · rfl
  · rw [addRaise_spec]

/-- Reserving an access changes the accesses and the faults raised or deferred alone. -/
theorem reserve_spec (c : Core) (a : Access) :
    reserve c a =
      { c with accesses := c.accesses ++ [a], raised := (reserve c a).raised, deferred := (reserve c a).deferred } := by
  unfold reserve
  dsimp only
  split
  · rw [addCharged_spec]
  · rfl

theorem onlyRaised_of {c d : Core} (h : ∃ r, d = { c with raised := r }) : d = { c with raised := d.raised } := by
  obtain ⟨r, rfl⟩ := h; rfl

theorem raiseFor_ex (c : Core) (fl : Flight) (rs : List Nat) (code : Nat) (a b d : Word) :
    ∃ r, raiseFor c fl rs code a b d = { c with raised := r } := ⟨_, raiseFor_spec ..⟩

/-- The checks of a bank-group access only raise faults. -/
theorem checkBank_spec (c : Core) (fl : Flight) (g : Bank) (a n al : Nat) :
    checkBank c fl g a n al = { c with raised := (checkBank c fl g a n al).raised } := by
  apply onlyRaised_of
  have h1 : ∃ r, (if spanOk (bankNo g) a n al then c else raiseFor c fl [] 8 0 0 0) =
      { c with raised := r } := by
    split
    · exact ⟨_, rfl⟩
    · exact raiseFor_ex ..
  unfold checkBank
  obtain ⟨r, hr⟩ := h1
  rw [hr]
  dsimp only
  split
  · obtain ⟨q, hq⟩ := raiseFor_ex { c with raised := r } fl [] 0x0A (BitVec.ofNat 64 a) 0 0
    exact ⟨q, hq⟩
  · exact ⟨r, rfl⟩

/-- At its arrival a trigger has its effect on a core on which it has been noted. -/
theorem trigger_arrival (i : Instr) (m : Mv) (s : State) (fl : Flight) (e : Flight → State → State)
    (h : s.cur.flight = some fl) :
    trigger i m s e = .next (e fl (modMe s fun c => noteTrigger ((dstId i).getD 0 / 64) c fl)) := by
  simp [trigger, h]

/-- At its issue a trigger is put in flight. -/
theorem trigger_issue (i : Instr) (m : Mv) (s : State) (e : Flight → State → State) (h : s.cur.flight = none) :
    trigger i m s e = .next (launch i m false s) := by
  simp [trigger, h]

theorem compareTrigger_arrival (i : Instr) (m : Mv) (s : State) (fl : Flight) (e : Flight → State → State)
    (h : s.cur.flight = some fl) :
    compareTrigger i m s e = .next (e fl (modMe s fun c => noteTrigger ((dstId i).getD 0 / 64) c fl)) := by
  simp [compareTrigger, h]

theorem compareTrigger_issue (i : Instr) (m : Mv) (s : State) (e : Flight → State → State) (h : s.cur.flight = none) :
    compareTrigger i m s e = .next (launch i m true s) := by
  simp [compareTrigger, h]

/-- A step that changes its own core alone. -/
theorem ownStep_modMe (s : State) (f : Core → Core) : OwnStep s (modMe s f) (f (myCore s)) [] :=
  ⟨by simp [myCore], fun k h => by simp [h], by simp, rfl, rfl, rfl, rfl, rfl, rfl, rfl, rfl⟩

/-- Two steps one after the other. -/
theorem OwnStep.trans {s t u : State} {c d : Core} {js ks : List Job} (h₁ : OwnStep s t c js) (h₂ : OwnStep t u d ks) :
    OwnStep s u d (js ++ ks) := by
  have hm : me t = me s := by simp [me, h₁.cur]
  refine ⟨by rw [← hm]; exact h₂.core, fun k h => ?_, ?_, ?_, ?_, ?_, ?_, ?_, ?_, ?_, ?_⟩
  · rw [h₂.others k (by rwa [hm]), h₁.others k h]
  · rw [h₂.agenda, h₁.agenda, List.append_assoc]
  all_goals first
    | exact h₂.pod.trans h₁.pod | exact h₂.gangs.trans h₁.gangs | exact h₂.hub.trans h₁.hub
    | exact h₂.issuing.trans h₁.issuing | exact h₂.cur.trans h₁.cur | exact h₂.phase.trans h₁.phase
    | exact h₂.looking.trans h₁.looking | exact h₂.fresh.trans h₁.fresh

theorem OwnStep.me_eq {s t : State} {c : Core} {js : List Job} (h : OwnStep s t c js) : me t = me s := by simp [me, h.cur]

theorem OwnStep.myCore_eq {s t : State} {c : Core} {js : List Job} (h : OwnStep s t c js) : myCore t = c := by
  rw [myCore, h.me_eq, h.core]

theorem OwnStep.now_eq {s t : State} {c : Core} {js : List Job} (h : OwnStep s t c js) (hg : c.gang = (myCore s).gang) :
    now t = now s := by
  simp only [Machine.now_eq, h.myCore_eq, hg, gangOf, h.gangs]

/-- A step's scheduled result names the same job before and after notes are made. -/
theorem OwnStep.resultJob_eq {s t : State} {c : Core} {js : List Job} (h : OwnStep s t c js)
    (hg : c.gang = (myCore s).gang) (p : ResultPort) (lat : Nat) (v : Vec) (f : Flags) :
    resultJob t p lat v f = resultJob s p lat v f := by
  simp only [resultJob, ownJob, h.myCore_eq, h.me_eq, h.now_eq hg, hg]

@[simp] theorem noted_noted (c d e : Core) : noted (noted c d) e = noted c e := rfl
@[simp] theorem noted_gang (c d : Core) : (noted c d).gang = c.gang := rfl
@[simp] theorem noted_ports (c d : Core) : (noted c d).ports = c.ports := rfl
@[simp] theorem noted_vports (c d : Core) : (noted c d).vports = c.vports := rfl
@[simp] theorem noted_kports (c d : Core) : (noted c d).kports = c.kports := rfl
@[simp] theorem noted_self (c : Core) : noted c c = c := rfl

theorem noteTrigger_noted (n : Nat) (c : Core) (fl : Flight) : noteTrigger n c fl = noted c (noteTrigger n c fl) :=
  noteTrigger_spec n c fl

theorem noteArrival_noted (c : Core) (n : Nat) (fl : Flight) : noteArrival c n fl = noted c (noteArrival c n fl) :=
  noteArrival_spec c n fl

/-- A core that differs in notes from `c` is `c` with its own notes. -/
theorem OwnStep.noted {s t : State} {c d : Core} {js : List Job} (h : OwnStep s t (noted c d) js) :
    OwnStep s t (Machine.noted c (coreOf t (me s))) js := by
  have h' := h.core
  rw [h']
  exact h

/-- A result is scheduled; the core itself changes in the faults raised alone. -/
theorem complete_spec (s : State) (fl : Flight) (p : ResultPort) (lat : Nat) (v : Vec) (f : Flags) :
    OwnStep s (complete s fl p lat v f) (Machine.noted (myCore s) (coreOf (complete s fl p lat v f) (me s)))
      [resultJob s p lat v f] := by
  unfold complete
  simp only []
  split
  · refine ⟨?_, fun k h => by simp [h], ?_, rfl, rfl, rfl, rfl, rfl, rfl, rfl, rfl⟩
    · simp only [coreOf_postCore, coreOf_modMe_me]; rw [addRaise_spec]; rfl
    · simp [resultJob, ownJob, myCore]
  · exact ⟨rfl, fun k h => rfl, rfl, rfl, rfl, rfl, rfl, rfl, rfl, rfl, rfl⟩

/-- A trigger of SA is noted and its value enters sa.b. -/
theorem saEnter_spec (n : Nat) (cls : ImmClass) (fl : Flight) (s : State) :
    ∃ d, OwnStep s (saEnter cls fl (modMe s fun c => noteTrigger n c fl))
      (Machine.noted { myCore s with ports := tset 0 (myCore s).ports 0x081 (scalarIn cls fl.val) } d) [] := by
  have h := (ownStep_modMe s fun c => noteTrigger n c fl).trans
    (ownStep_modMe _ fun c => setPort (noteArrival c 0x081 fl) 0x081 (scalarIn cls fl.val))
  rw [myCore_modMe, noteArrival_noted, noteTrigger_noted] at h
  exact ⟨_, h⟩

theorem RaisesOnly.refl (codes : List Nat) (c : Core) : RaisesOnly codes c c := fun _ h => .inl h

theorem RaisesOnly.trans {codes : List Nat} {c d e : Core} (h₁ : RaisesOnly codes c d) (h₂ : RaisesOnly codes d e) :
    RaisesOnly codes c e := fun r h => (h₂ r h).elim (h₁ r) .inr

/-- Raising a fault of a named code raises only that code. -/
theorem addRaise_raises {codes : List Nat} (c : Core) (r : Raise) (h : r.code ∈ codes) : RaisesOnly codes c (addRaise c r) := by
  intro q hq
  unfold addRaise at hq
  split at hq
  · exact .inl hq
  · rcases List.mem_append.1 hq with hq | hq
    · exact .inl hq
    · rw [List.mem_singleton.1 hq]; exact .inr h

theorem collide_raises (c : Core) (id : Nat) (fl : Flight) : RaisesOnly [4] c (collide c id fl) := by
  unfold collide; split
  · exact .refl _ _
  · exact addRaise_raises _ _ (by simp)

theorem noteTrigger_raises (n : Nat) (c : Core) (fl : Flight) : RaisesOnly [4] c (noteTrigger n c fl) :=
  collide_raises c _ fl

theorem noteArrival_raises (c : Core) (n : Nat) (fl : Flight) : RaisesOnly [4] c (noteArrival c n fl) := by
  unfold noteArrival; split
  · exact .refl _ _
  · exact collide_raises c _ fl

theorem complete_raises (s : State) (fl : Flight) (p : ResultPort) (lat : Nat) (v : Vec) (f : Flags) :
    RaisesOnly [4] (myCore s) (coreOf (complete s fl p lat v f) (me s)) := by
  unfold complete
  simp only []
  split
  · rw [coreOf_postCore, coreOf_modMe_me]; exact addRaise_raises _ _ (by simp)
  · exact .refl _ _

/-- A trigger of SA is noted and its value enters sa.b; only a collision is raised. -/
theorem saEnter_raises (n : Nat) (cls : ImmClass) (fl : Flight) (s : State) :
    RaisesOnly [4] (myCore s) (myCore (saEnter cls fl (modMe s fun c => noteTrigger n c fl))) := by
  unfold saEnter
  rw [myCore_modMe, myCore_modMe]
  exact (noteTrigger_raises n (myCore s) fl).trans (noteArrival_raises _ 0x081 fl)

/-- A completion at sa.r makes the word present there and sets its flags. -/
theorem saCompletes (k : Nat) (r : Word) (f : Flags) (u : State) :
    ∃ t, exec (.operationComplete k .sa (r.setWidth 2048) f) u = .next t ∧
      resultOf (coreOf t k) .sa = r ∧ (coreOf t k).flags = (coreOf u k).flags ||| f := by
  refine ⟨_, rfl, ?_, ?_⟩
  · rw [coreOf_modCore_self]
    show tget 0 (tset 0 _ _ ((r.setWidth 2048).setWidth 64)) _ = r
    rw [tget_tset_self]
    ext i hi
    simp
  · rw [coreOf_modCore_self]
    rfl

/-- An operation of SA completes with what it computes from the latched operands. -/
theorem saGives_of (i : Instr) (m : Mv) (cls : ImmClass) (lat : Nat) (s : State) (fl : Flight)
    (f : State → Word × Flags) (r : Word × Flags) (h : s.cur.flight = some fl)
    (hx : exec i s = trigger i m s fun fl s =>
      completeWord (saEnter cls fl s) fl .sa lat (f (saEnter cls fl s)).1 (f (saEnter cls fl s)).2)
    (hf : ∀ t d, myCore t =
      Machine.noted { myCore s with ports := tset 0 (myCore s).ports 0x081 (scalarIn cls fl.val) } d → f t = r) :
    SaGives i s (scalarIn cls fl.val) lat r.1 r.2 := by
  rw [trigger_arrival _ _ _ _ _ h] at hx
  obtain ⟨d, h1⟩ := saEnter_spec ((dstId i).getD 0 / 64) cls fl s
  have h3 := (saEnter_raises ((dstId i).getD 0 / 64) cls fl s).trans (complete_raises _ fl .sa lat (r.1.setWidth 2048) r.2)
  rw [h1.me_eq] at h3
  rw [hf _ d h1.myCore_eq] at hx
  have h2 := h1.trans (complete_spec _ fl .sa lat (r.1.setWidth 2048) r.2)
  rw [h1.myCore_eq, List.nil_append, h1.resultJob_eq rfl, noted_noted] at h2
  exact ⟨⟨_, hx, h2.noted, h3⟩, saCompletes (me s) r.1 r.2⟩

end Sys2Proof.Machine
end

