-- ==== Sys2Proof/Laws/Memory.lean ====
section
/-! SUPPORT. Every operation over a memory keeps its canonical form, and the memories of the machine after reset have it. -/

namespace Sys2Proof.Machine

theorem twfFrom_filter {α : Type} [DecidableEq α] {d : α} {t : Table α} {lo : Nat} (p : Nat × α → Bool)
    (ht : twfFrom d lo t = true) : twfFrom d lo (t.filter p) = true := by
  induction t generalizing lo with
  | nil => rfl
  | cons e t ih =>
    obtain ⟨j, v⟩ := e
    simp only [twfFrom, Bool.and_eq_true, decide_eq_true_eq] at ht
    simp only [List.filter_cons]
    split
    · simp [twfFrom, ht.1, ih ht.2]
    · exact twfFrom_mono (by omega) (ih ht.2)

/-- Dropping entries keeps the canonical form. -/
theorem twf_filter {α : Type} [DecidableEq α] {d : α} {t : Table α} (p : Nat × α → Bool) (ht : twf d t = true) :
    twf d (t.filter p) = true := twfFrom_filter p ht

theorem twfFrom_append {α : Type} [DecidableEq α] {d : α} {t u : Table α} {lo m : Nat} (hlo : lo ≤ m)
    (ht : twfFrom d lo t = true) (hm : ∀ e ∈ t, e.1 < m) (hu : twfFrom d m u = true) : twfFrom d lo (t ++ u) = true := by
  induction t generalizing lo with
  | nil => exact twfFrom_mono hlo hu
  | cons e t ih =>
    obtain ⟨j, v⟩ := e
    simp only [twfFrom, Bool.and_eq_true, decide_eq_true_eq] at ht
    have hj : j < m := hm (j, v) (by simp)
    simp [twfFrom, ht.1, ih hj ht.2 fun e he => hm e (by simp [he])]

theorem twfFrom_shift {α : Type} [DecidableEq α] {d : α} {t : Table α} {lo : Nat} (b : Nat) (ht : twfFrom d lo t = true) :
    twfFrom d (b + lo) (t.map fun e => (b + e.1, e.2)) = true := by
  induction t generalizing lo with
  | nil => rfl
  | cons e t ih =>
    obtain ⟨j, v⟩ := e
    simp only [twfFrom, Bool.and_eq_true, decide_eq_true_eq] at ht
    simp only [List.map_cons, twfFrom, Bool.and_eq_true, decide_eq_true_eq]
    exact ⟨⟨by omega, ht.1.2⟩, by simpa [Nat.add_assoc] using ih ht.2⟩

theorem twfFrom_above {α : Type} [DecidableEq α] {d : α} {t : Table α} {lo : Nat} (m : Nat) (ht : twfFrom d lo t = true) :
    twfFrom d m (t.filter fun e => decide (m ≤ e.1)) = true := by
  induction t generalizing lo with
  | nil => rfl
  | cons e t ih =>
    obtain ⟨j, v⟩ := e
    simp only [twfFrom, Bool.and_eq_true, decide_eq_true_eq] at ht
    simp only [List.filter_cons, decide_eq_true_eq]
    split
    · next h => simp [twfFrom, h, ht.1.2, twfFrom_filter _ ht.2]
    · exact ih ht.2

/-- Laying a saved region into a memory keeps the canonical form (R266). -/
theorem twf_spliceTable {α : Type} [DecidableEq α] {d : α} {t part : Table α} (lo n : Nat) (ht : twf d t = true)
    (hp : twf d part = true) (hn : ∀ e ∈ part, e.1 < n) : twf d (spliceTable t lo n part) = true := by
  unfold spliceTable twf at *
  rw [List.append_assoc]
  refine twfFrom_append (Nat.zero_le lo) (twfFrom_filter _ ht) (fun e he => ?_) ?_
  · simpa using (List.mem_filter.1 he).2
  refine twfFrom_append (m := lo + n) (by omega) (by simpa using twfFrom_shift lo hp) (fun e he => ?_) (twfFrom_above _ ht)
  obtain ⟨x, hx, rfl⟩ := List.mem_map.1 he
  have := hn x hx
  show lo + x.1 < lo + n
  omega

/-! The operations by which the machine writes its memories. -/

theorem putScratch_wf (c : Core) (a : Nat) (bs : List Byte) (h : Memory.wf c.scratch) : Memory.wf (putScratch c a bs).scratch :=
  twf_tputs a bs h

theorem foldl_tputs_wf (f : Nat → Nat) (g : Nat → List Byte) (is : List Nat) (t : Table Byte) (h : Memory.wf t) :
    Memory.wf (is.foldl (fun t i => tputs 0 t (f i) (g i)) t) := by
  induction is generalizing t with
  | nil => exact h
  | cons i is ih => exact ih _ (twf_tputs _ _ h)

theorem reseal_wf (s : State) (a n : Nat) (h : Memory.wf (dramOf s).bytes) : Memory.wf (reseal s a n) :=
  foldl_tputs_wf _ _ _ _ h

theorem putDev_wf (s : State) (a : Nat) (bs : List Byte) (h : Memory.wf (dramOf s).bytes) :
    Memory.wf (dramOf (putDev s a bs)).bytes := twf_tputs a bs (reseal_wf s a bs.length h)

theorem putLin_wf (s : State) (x lin : Nat) (bs : List Byte) (h : Memory.wf (dramOf s).bytes) :
    Memory.wf (dramOf (putLin s x lin bs)).bytes := by
  unfold putLin
  split
  · exact putDev_wf s _ bs h
  · exact h

theorem zeroDev_wf (s : State) (a n : Nat) (h : Memory.wf (dramOf s).bytes) : Memory.wf (dramOf (zeroDev s a n)).bytes :=
  twf_filter _ h

theorem putHost_wf (s : State) (p a : Nat) (bs : List Byte) (h : Memory.wf (authOf s).host) :
    Memory.wf (authOf (putHost s p a bs)).host := twf_tputs _ bs h

theorem putMb_wf (s : State) (p off : Nat) (bs : List Byte) (h : Memory.wf (envOf s).bytes) :
    Memory.wf (envOf (putMb s p off bs)).bytes := twf_tputs _ bs h

theorem hartBytes_wf (t : Table Byte) (p off : Nat) (bs : List Byte) (h : Memory.wf t) : Memory.wf (hartBytes t p off bs) := by
  induction bs generalizing t off with
  | nil => exact h
  | cons b bs ih =>
    refine ih _ (off + 1) ?_
    split
    · exact twf_tmod _ _ h
    · split
      · exact twf_tset _ b h
      · exact h

theorem rewardBytes_wf (t : Table Byte) (p : Nat) (bs : List Byte) (h : Memory.wf t) : Memory.wf (rewardBytes t p bs) :=
  twf_tmod _ _ (twf_tputs _ bs h)

theorem sramStore_wf (s : State) (a : Nat) (bs : List Byte) (h : Memory.wf (envOf s).sram) :
    Memory.wf (envOf (sramStore s a bs)).sram := by
  unfold sramStore
  split
  · exact twf_tputs a bs h
  · exact h

/-- After reset every memory is in canonical form: nothing is listed. -/
theorem memoriesWf_reset : memoriesWf State.reset := ⟨fun _ => rfl, rfl, rfl, rfl, rfl⟩

end Sys2Proof.Machine
end

