-- ==== Sys2Proof/Laws/PerInstr.lean ====
section
/-! SUPPORT. A family of laws with one lemma for each instruction: its form as a slot word. -/

namespace Sys2Proof.Laws

/-- An instruction that carries a move has a destination id of ten bits and is no micro-operation (R92). -/
def SlotForm.Statement (i : Instr) : Prop :=
  ∀ m, moveOf i = some m → ∃ d, dstId i = some d ∧ d < 1024 ∧ microWord i = none

/-- Every move destination id has ten bits (R95 to R105). -/
theorem destId_lt (d : Dest) : destId d < 1024 := by
  cases d with
  | port p =>
    cases p with
    | vec u q => cases u <;> cases q <;> decide
    | bankData g => cases g <;> decide
    | bankCmp g => cases g <;> decide
    | sq q => cases q <;> decide
    | c0 q => cases q <;> decide
    | c1 q => cases q <;> decide
    | fb q => cases q <;> decide
    | ct i => simp only [destId, portId]; omega
    | mp i => simp only [destId, portId]; omega
    | sy i => simp only [destId, portId]; omega
    | _ => decide
  | null => decide
  | sreg n => simp only [destId]; omega
  | preg n => simp only [destId]; omega
  | vreg n => simp only [destId]; omega
  | kreg n => simp only [destId]; omega

theorem SlotForm.move (m : Mv) (d : Dest) : SlotForm.Statement (.move m d) := fun _ _ => ⟨_, rfl, destId_lt d, rfl⟩
theorem SlotForm.nop (rest : BitVec 20) : SlotForm.Statement (.nop rest) := fun _ h => nomatch h
theorem SlotForm.brp (m : Mv) : SlotForm.Statement (.brp m) := fun _ _ => ⟨_, rfl, by decide, rfl⟩
theorem SlotForm.br (m : Mv) : SlotForm.Statement (.br m) := fun _ _ => ⟨_, rfl, by decide, rfl⟩
theorem SlotForm.brt (m : Mv) : SlotForm.Statement (.brt m) := fun _ _ => ⟨_, rfl, by decide, rfl⟩
theorem SlotForm.call (m : Mv) : SlotForm.Statement (.call m) := fun _ _ => ⟨_, rfl, by decide, rfl⟩
theorem SlotForm.ret (m : Mv) : SlotForm.Statement (.ret m) := fun _ _ => ⟨_, rfl, by decide, rfl⟩
theorem SlotForm.loop (n : Fin 4) (m : Mv) : SlotForm.Statement (.loop n m) := fun _ _ => ⟨_, rfl, by have := n.isLt; omega, rfl⟩
theorem SlotForm.loopp (n : Fin 4) (m : Mv) : SlotForm.Statement (.loopp n m) := fun _ _ => ⟨_, rfl, by have := n.isLt; omega, rfl⟩
theorem SlotForm.lbrk (n : Fin 4) (m : Mv) : SlotForm.Statement (.lbrk n m) := fun _ _ => ⟨_, rfl, by have := n.isLt; omega, rfl⟩
theorem SlotForm.waitt (m : Mv) : SlotForm.Statement (.waitt m) := fun _ _ => ⟨_, rfl, by decide, rfl⟩
theorem SlotForm.resync (m : Mv) : SlotForm.Statement (.resync m) := fun _ _ => ⟨_, rfl, by decide, rfl⟩
theorem SlotForm.spawn (m : Mv) : SlotForm.Statement (.spawn m) := fun _ _ => ⟨_, rfl, by decide, rfl⟩
theorem SlotForm.exit (m : Mv) : SlotForm.Statement (.exit m) := fun _ _ => ⟨_, rfl, by decide, rfl⟩
theorem SlotForm.beacon (m : Mv) : SlotForm.Statement (.beacon m) := fun _ _ => ⟨_, rfl, by decide, rfl⟩
theorem SlotForm.add (m : Mv) : SlotForm.Statement (.add m) := fun _ _ => ⟨_, rfl, by decide, rfl⟩
theorem SlotForm.sub (m : Mv) : SlotForm.Statement (.sub m) := fun _ _ => ⟨_, rfl, by decide, rfl⟩
theorem SlotForm.mul (m : Mv) : SlotForm.Statement (.mul m) := fun _ _ => ⟨_, rfl, by decide, rfl⟩
theorem SlotForm.mulh (m : Mv) : SlotForm.Statement (.mulh m) := fun _ _ => ⟨_, rfl, by decide, rfl⟩
theorem SlotForm.mulhu (m : Mv) : SlotForm.Statement (.mulhu m) := fun _ _ => ⟨_, rfl, by decide, rfl⟩
theorem SlotForm.div (m : Mv) : SlotForm.Statement (.div m) := fun _ _ => ⟨_, rfl, by decide, rfl⟩
theorem SlotForm.divu (m : Mv) : SlotForm.Statement (.divu m) := fun _ _ => ⟨_, rfl, by decide, rfl⟩
theorem SlotForm.rem (m : Mv) : SlotForm.Statement (.rem m) := fun _ _ => ⟨_, rfl, by decide, rfl⟩
theorem SlotForm.remu (m : Mv) : SlotForm.Statement (.remu m) := fun _ _ => ⟨_, rfl, by decide, rfl⟩
theorem SlotForm.and (m : Mv) : SlotForm.Statement (.and m) := fun _ _ => ⟨_, rfl, by decide, rfl⟩
theorem SlotForm.or (m : Mv) : SlotForm.Statement (.or m) := fun _ _ => ⟨_, rfl, by decide, rfl⟩
theorem SlotForm.xor (m : Mv) : SlotForm.Statement (.xor m) := fun _ _ => ⟨_, rfl, by decide, rfl⟩
theorem SlotForm.andn (m : Mv) : SlotForm.Statement (.andn m) := fun _ _ => ⟨_, rfl, by decide, rfl⟩
theorem SlotForm.shl (m : Mv) : SlotForm.Statement (.shl m) := fun _ _ => ⟨_, rfl, by decide, rfl⟩
theorem SlotForm.shr (m : Mv) : SlotForm.Statement (.shr m) := fun _ _ => ⟨_, rfl, by decide, rfl⟩
theorem SlotForm.sra (m : Mv) : SlotForm.Statement (.sra m) := fun _ _ => ⟨_, rfl, by decide, rfl⟩
theorem SlotForm.min (m : Mv) : SlotForm.Statement (.min m) := fun _ _ => ⟨_, rfl, by decide, rfl⟩
theorem SlotForm.minu (m : Mv) : SlotForm.Statement (.minu m) := fun _ _ => ⟨_, rfl, by decide, rfl⟩
theorem SlotForm.max (m : Mv) : SlotForm.Statement (.max m) := fun _ _ => ⟨_, rfl, by decide, rfl⟩
theorem SlotForm.maxu (m : Mv) : SlotForm.Statement (.maxu m) := fun _ _ => ⟨_, rfl, by decide, rfl⟩
theorem SlotForm.clz (m : Mv) : SlotForm.Statement (.clz m) := fun _ _ => ⟨_, rfl, by decide, rfl⟩
theorem SlotForm.popc (m : Mv) : SlotForm.Statement (.popc m) := fun _ _ => ⟨_, rfl, by decide, rfl⟩
theorem SlotForm.sel (m : Mv) : SlotForm.Statement (.sel m) := fun _ _ => ⟨_, rfl, by decide, rfl⟩
theorem SlotForm.cmpEq (m : Mv) : SlotForm.Statement (.cmpEq m) := fun _ _ => ⟨_, rfl, by decide, rfl⟩
theorem SlotForm.cmpNe (m : Mv) : SlotForm.Statement (.cmpNe m) := fun _ _ => ⟨_, rfl, by decide, rfl⟩
theorem SlotForm.cmpLt (m : Mv) : SlotForm.Statement (.cmpLt m) := fun _ _ => ⟨_, rfl, by decide, rfl⟩
theorem SlotForm.cmpLe (m : Mv) : SlotForm.Statement (.cmpLe m) := fun _ _ => ⟨_, rfl, by decide, rfl⟩
theorem SlotForm.cmpLtu (m : Mv) : SlotForm.Statement (.cmpLtu m) := fun _ _ => ⟨_, rfl, by decide, rfl⟩
theorem SlotForm.cmpLeu (m : Mv) : SlotForm.Statement (.cmpLeu m) := fun _ _ => ⟨_, rfl, by decide, rfl⟩
theorem SlotForm.fadd (m : Mv) : SlotForm.Statement (.fadd m) := fun _ _ => ⟨_, rfl, by decide, rfl⟩
theorem SlotForm.fsub (m : Mv) : SlotForm.Statement (.fsub m) := fun _ _ => ⟨_, rfl, by decide, rfl⟩
theorem SlotForm.fmul (m : Mv) : SlotForm.Statement (.fmul m) := fun _ _ => ⟨_, rfl, by decide, rfl⟩
theorem SlotForm.ffma (m : Mv) : SlotForm.Statement (.ffma m) := fun _ _ => ⟨_, rfl, by decide, rfl⟩
theorem SlotForm.fmin (m : Mv) : SlotForm.Statement (.fmin m) := fun _ _ => ⟨_, rfl, by decide, rfl⟩
theorem SlotForm.fmax (m : Mv) : SlotForm.Statement (.fmax m) := fun _ _ => ⟨_, rfl, by decide, rfl⟩
theorem SlotForm.fcmpEq (m : Mv) : SlotForm.Statement (.fcmpEq m) := fun _ _ => ⟨_, rfl, by decide, rfl⟩
theorem SlotForm.fcmpLt (m : Mv) : SlotForm.Statement (.fcmpLt m) := fun _ _ => ⟨_, rfl, by decide, rfl⟩
theorem SlotForm.fcmpLe (m : Mv) : SlotForm.Statement (.fcmpLe m) := fun _ _ => ⟨_, rfl, by decide, rfl⟩
theorem SlotForm.fcmpUn (m : Mv) : SlotForm.Statement (.fcmpUn m) := fun _ _ => ⟨_, rfl, by decide, rfl⟩
theorem SlotForm.fcvtIf (m : Mv) : SlotForm.Statement (.fcvtIf m) := fun _ _ => ⟨_, rfl, by decide, rfl⟩
theorem SlotForm.fcvtFi (m : Mv) : SlotForm.Statement (.fcvtFi m) := fun _ _ => ⟨_, rfl, by decide, rfl⟩
theorem SlotForm.ldB (bank : Bank) (m : Mv) : SlotForm.Statement (.ldB bank m) := fun _ _ => ⟨_, rfl, by cases bank <;> decide, rfl⟩
theorem SlotForm.ldH (bank : Bank) (m : Mv) : SlotForm.Statement (.ldH bank m) := fun _ _ => ⟨_, rfl, by cases bank <;> decide, rfl⟩
theorem SlotForm.ldW (bank : Bank) (m : Mv) : SlotForm.Statement (.ldW bank m) := fun _ _ => ⟨_, rfl, by cases bank <;> decide, rfl⟩
theorem SlotForm.ldD (bank : Bank) (m : Mv) : SlotForm.Statement (.ldD bank m) := fun _ _ => ⟨_, rfl, by cases bank <;> decide, rfl⟩
theorem SlotForm.ldV (bank : Bank) (m : Mv) : SlotForm.Statement (.ldV bank m) := fun _ _ => ⟨_, rfl, by cases bank <;> decide, rfl⟩
theorem SlotForm.stB (bank : Bank) (m : Mv) : SlotForm.Statement (.stB bank m) := fun _ _ => ⟨_, rfl, by cases bank <;> decide, rfl⟩
theorem SlotForm.stH (bank : Bank) (m : Mv) : SlotForm.Statement (.stH bank m) := fun _ _ => ⟨_, rfl, by cases bank <;> decide, rfl⟩
theorem SlotForm.stW (bank : Bank) (m : Mv) : SlotForm.Statement (.stW bank m) := fun _ _ => ⟨_, rfl, by cases bank <;> decide, rfl⟩
theorem SlotForm.stD (bank : Bank) (m : Mv) : SlotForm.Statement (.stD bank m) := fun _ _ => ⟨_, rfl, by cases bank <;> decide, rfl⟩
theorem SlotForm.stV (bank : Bank) (m : Mv) : SlotForm.Statement (.stV bank m) := fun _ _ => ⟨_, rfl, by cases bank <;> decide, rfl⟩
theorem SlotForm.aadd (bank : Bank) (m : Mv) : SlotForm.Statement (.aadd bank m) := fun _ _ => ⟨_, rfl, by cases bank <;> decide, rfl⟩
theorem SlotForm.afadd (bank : Bank) (m : Mv) : SlotForm.Statement (.afadd bank m) := fun _ _ => ⟨_, rfl, by cases bank <;> decide, rfl⟩
theorem SlotForm.amin (bank : Bank) (m : Mv) : SlotForm.Statement (.amin bank m) := fun _ _ => ⟨_, rfl, by cases bank <;> decide, rfl⟩
theorem SlotForm.aminu (bank : Bank) (m : Mv) : SlotForm.Statement (.aminu bank m) := fun _ _ => ⟨_, rfl, by cases bank <;> decide, rfl⟩
theorem SlotForm.amax (bank : Bank) (m : Mv) : SlotForm.Statement (.amax bank m) := fun _ _ => ⟨_, rfl, by cases bank <;> decide, rfl⟩
theorem SlotForm.amaxu (bank : Bank) (m : Mv) : SlotForm.Statement (.amaxu bank m) := fun _ _ => ⟨_, rfl, by cases bank <;> decide, rfl⟩
theorem SlotForm.aand (bank : Bank) (m : Mv) : SlotForm.Statement (.aand bank m) := fun _ _ => ⟨_, rfl, by cases bank <;> decide, rfl⟩
theorem SlotForm.aor (bank : Bank) (m : Mv) : SlotForm.Statement (.aor bank m) := fun _ _ => ⟨_, rfl, by cases bank <;> decide, rfl⟩
theorem SlotForm.axch (bank : Bank) (m : Mv) : SlotForm.Statement (.axch bank m) := fun _ _ => ⟨_, rfl, by cases bank <;> decide, rfl⟩
theorem SlotForm.acas (bank : Bank) (m : Mv) : SlotForm.Statement (.acas bank m) := fun _ _ => ⟨_, rfl, by cases bank <;> decide, rfl⟩
theorem SlotForm.vadd (u : VUnit) (m : Mv) : SlotForm.Statement (.vadd u m) := fun _ _ => ⟨_, rfl, by cases u <;> decide, rfl⟩
theorem SlotForm.vsub (u : VUnit) (m : Mv) : SlotForm.Statement (.vsub u m) := fun _ _ => ⟨_, rfl, by cases u <;> decide, rfl⟩
theorem SlotForm.vmul (u : VUnit) (m : Mv) : SlotForm.Statement (.vmul u m) := fun _ _ => ⟨_, rfl, by cases u <;> decide, rfl⟩
theorem SlotForm.vfma (u : VUnit) (m : Mv) : SlotForm.Statement (.vfma u m) := fun _ _ => ⟨_, rfl, by cases u <;> decide, rfl⟩
theorem SlotForm.vmin (u : VUnit) (m : Mv) : SlotForm.Statement (.vmin u m) := fun _ _ => ⟨_, rfl, by cases u <;> decide, rfl⟩
theorem SlotForm.vmax (u : VUnit) (m : Mv) : SlotForm.Statement (.vmax u m) := fun _ _ => ⟨_, rfl, by cases u <;> decide, rfl⟩
theorem SlotForm.vabs (u : VUnit) (m : Mv) : SlotForm.Statement (.vabs u m) := fun _ _ => ⟨_, rfl, by cases u <;> decide, rfl⟩
theorem SlotForm.vneg (u : VUnit) (m : Mv) : SlotForm.Statement (.vneg u m) := fun _ _ => ⟨_, rfl, by cases u <;> decide, rfl⟩
theorem SlotForm.vand (u : VUnit) (m : Mv) : SlotForm.Statement (.vand u m) := fun _ _ => ⟨_, rfl, by cases u <;> decide, rfl⟩
theorem SlotForm.vor (u : VUnit) (m : Mv) : SlotForm.Statement (.vor u m) := fun _ _ => ⟨_, rfl, by cases u <;> decide, rfl⟩
theorem SlotForm.vxor (u : VUnit) (m : Mv) : SlotForm.Statement (.vxor u m) := fun _ _ => ⟨_, rfl, by cases u <;> decide, rfl⟩
theorem SlotForm.vshl (u : VUnit) (m : Mv) : SlotForm.Statement (.vshl u m) := fun _ _ => ⟨_, rfl, by cases u <;> decide, rfl⟩
theorem SlotForm.vshr (u : VUnit) (m : Mv) : SlotForm.Statement (.vshr u m) := fun _ _ => ⟨_, rfl, by cases u <;> decide, rfl⟩
theorem SlotForm.vsra (u : VUnit) (m : Mv) : SlotForm.Statement (.vsra u m) := fun _ _ => ⟨_, rfl, by cases u <;> decide, rfl⟩
theorem SlotForm.vclamp (u : VUnit) (m : Mv) : SlotForm.Statement (.vclamp u m) := fun _ _ => ⟨_, rfl, by cases u <;> decide, rfl⟩
theorem SlotForm.vsel (u : VUnit) (m : Mv) : SlotForm.Statement (.vsel u m) := fun _ _ => ⟨_, rfl, by cases u <;> decide, rfl⟩
theorem SlotForm.vcmp (u : VUnit) (m : Mv) : SlotForm.Statement (.vcmp u m) := fun _ _ => ⟨_, rfl, by cases u <;> decide, rfl⟩
theorem SlotForm.vreda (u : VUnit) (m : Mv) : SlotForm.Statement (.vreda u m) := fun _ _ => ⟨_, rfl, by cases u <;> decide, rfl⟩
theorem SlotForm.vredm (u : VUnit) (m : Mv) : SlotForm.Statement (.vredm u m) := fun _ _ => ⟨_, rfl, by cases u <;> decide, rfl⟩
theorem SlotForm.vperm (u : VUnit) (m : Mv) : SlotForm.Statement (.vperm u m) := fun _ _ => ⟨_, rfl, by cases u <;> decide, rfl⟩
theorem SlotForm.vcvt (u : VUnit) (m : Mv) : SlotForm.Statement (.vcvt u m) := fun _ _ => ⟨_, rfl, by cases u <;> decide, rfl⟩
theorem SlotForm.vqnt (u : VUnit) (m : Mv) : SlotForm.Statement (.vqnt u m) := fun _ _ => ⟨_, rfl, by cases u <;> decide, rfl⟩
theorem SlotForm.vdot8 (u : VUnit) (m : Mv) : SlotForm.Statement (.vdot8 u m) := fun _ _ => ⟨_, rfl, by cases u <;> decide, rfl⟩
theorem SlotForm.vexp2 (u : VUnit) (m : Mv) : SlotForm.Statement (.vexp2 u m) := fun _ _ => ⟨_, rfl, by cases u <;> decide, rfl⟩
theorem SlotForm.vlog2 (u : VUnit) (m : Mv) : SlotForm.Statement (.vlog2 u m) := fun _ _ => ⟨_, rfl, by cases u <;> decide, rfl⟩
theorem SlotForm.vrcp (u : VUnit) (m : Mv) : SlotForm.Statement (.vrcp u m) := fun _ _ => ⟨_, rfl, by cases u <;> decide, rfl⟩
theorem SlotForm.vrsq (u : VUnit) (m : Mv) : SlotForm.Statement (.vrsq u m) := fun _ _ => ⟨_, rfl, by cases u <;> decide, rfl⟩
theorem SlotForm.vsig (u : VUnit) (m : Mv) : SlotForm.Statement (.vsig u m) := fun _ _ => ⟨_, rfl, by cases u <;> decide, rfl⟩
theorem SlotForm.vlutEval (u : VUnit) (m : Mv) : SlotForm.Statement (.vlutEval u m) := fun _ _ => ⟨_, rfl, by cases u <;> decide, rfl⟩
theorem SlotForm.vlutLoad (u : VUnit) (m : Mv) : SlotForm.Statement (.vlutLoad u m) := fun _ _ => ⟨_, rfl, by cases u <;> decide, rfl⟩
theorem SlotForm.viota (u : VUnit) (m : Mv) : SlotForm.Statement (.viota u m) := fun _ _ => ⟨_, rfl, by cases u <;> decide, rfl⟩
theorem SlotForm.vkand (u : VUnit) (m : Mv) : SlotForm.Statement (.vkand u m) := fun _ _ => ⟨_, rfl, by cases u <;> decide, rfl⟩
theorem SlotForm.vkor (u : VUnit) (m : Mv) : SlotForm.Statement (.vkor u m) := fun _ _ => ⟨_, rfl, by cases u <;> decide, rfl⟩
theorem SlotForm.vknot (u : VUnit) (m : Mv) : SlotForm.Statement (.vknot u m) := fun _ _ => ⟨_, rfl, by cases u <;> decide, rfl⟩
theorem SlotForm.vkred (u : VUnit) (m : Mv) : SlotForm.Statement (.vkred u m) := fun _ _ => ⟨_, rfl, by cases u <;> decide, rfl⟩
theorem SlotForm.mcall (m : Mv) : SlotForm.Statement (.mcall m) := fun _ _ => ⟨_, rfl, by decide, rfl⟩
theorem SlotForm.muwr (m : Mv) : SlotForm.Statement (.muwr m) := fun _ _ => ⟨_, rfl, by decide, rfl⟩
theorem SlotForm.muwrRoutineEntry (m : Mv) : SlotForm.Statement (.muwrRoutineEntry m) := fun _ _ => ⟨_, rfl, by decide, rfl⟩
theorem SlotForm.mlut (m : Mv) : SlotForm.Statement (.mlut m) := fun _ _ => ⟨_, rfl, by decide, rfl⟩
theorem SlotForm.mzero (m : Mv) : SlotForm.Statement (.mzero m) := fun _ _ => ⟨_, rfl, by decide, rfl⟩
theorem SlotForm.scfg (m : Mv) : SlotForm.Statement (.scfg m) := fun _ _ => ⟨_, rfl, by decide, rfl⟩
theorem SlotForm.sseek (m : Mv) : SlotForm.Statement (.sseek m) := fun _ _ => ⟨_, rfl, by decide, rfl⟩
theorem SlotForm.sskip (m : Mv) : SlotForm.Statement (.sskip m) := fun _ _ => ⟨_, rfl, by decide, rfl⟩
theorem SlotForm.stag (m : Mv) : SlotForm.Statement (.stag m) := fun _ _ => ⟨_, rfl, by decide, rfl⟩
theorem SlotForm.sclose (m : Mv) : SlotForm.Statement (.sclose m) := fun _ _ => ⟨_, rfl, by decide, rfl⟩
theorem SlotForm.push (q : Fin 16) (m : Mv) : SlotForm.Statement (.push q m) := fun _ _ => ⟨_, rfl, by have := q.isLt; omega, rfl⟩
theorem SlotForm.dcopyR (m : Mv) : SlotForm.Statement (.dcopyR m) := fun _ _ => ⟨_, rfl, by decide, rfl⟩
theorem SlotForm.dcopyW (m : Mv) : SlotForm.Statement (.dcopyW m) := fun _ _ => ⟨_, rfl, by decide, rfl⟩
theorem SlotForm.dref (m : Mv) : SlotForm.Statement (.dref m) := fun _ _ => ⟨_, rfl, by decide, rfl⟩
theorem SlotForm.drfm (m : Mv) : SlotForm.Statement (.drfm m) := fun _ _ => ⟨_, rfl, by decide, rfl⟩
theorem SlotForm.xcopy (m : Mv) : SlotForm.Statement (.xcopy m) := fun _ _ => ⟨_, rfl, by decide, rfl⟩
theorem SlotForm.hcopyR (m : Mv) : SlotForm.Statement (.hcopyR m) := fun _ _ => ⟨_, rfl, by decide, rfl⟩
theorem SlotForm.hcopyW (m : Mv) : SlotForm.Statement (.hcopyW m) := fun _ _ => ⟨_, rfl, by decide, rfl⟩
theorem SlotForm.imcopy (m : Mv) : SlotForm.Statement (.imcopy m) := fun _ _ => ⟨_, rfl, by decide, rfl⟩
theorem SlotForm.fsend (m : Mv) : SlotForm.Statement (.fsend m) := fun _ _ => ⟨_, rfl, by decide, rfl⟩
theorem SlotForm.frecv (m : Mv) : SlotForm.Statement (.frecv m) := fun _ _ => ⟨_, rfl, by decide, rfl⟩
theorem SlotForm.fput (m : Mv) : SlotForm.Statement (.fput m) := fun _ _ => ⟨_, rfl, by decide, rfl⟩
theorem SlotForm.fget (m : Mv) : SlotForm.Statement (.fget m) := fun _ _ => ⟨_, rfl, by decide, rfl⟩
theorem SlotForm.fatom (m : Mv) : SlotForm.Statement (.fatom m) := fun _ _ => ⟨_, rfl, by decide, rfl⟩
theorem SlotForm.fpeer (m : Mv) : SlotForm.Statement (.fpeer m) := fun _ _ => ⟨_, rfl, by decide, rfl⟩
theorem SlotForm.mbsend (m : Mv) : SlotForm.Statement (.mbsend m) := fun _ _ => ⟨_, rfl, by decide, rfl⟩
theorem SlotForm.mbrecv (m : Mv) : SlotForm.Statement (.mbrecv m) := fun _ _ => ⟨_, rfl, by decide, rfl⟩
theorem SlotForm.mbstat (m : Mv) : SlotForm.Statement (.mbstat m) := fun _ _ => ⟨_, rfl, by decide, rfl⟩
theorem SlotForm.mbsnap (m : Mv) : SlotForm.Statement (.mbsnap m) := fun _ _ => ⟨_, rfl, by decide, rfl⟩
theorem SlotForm.barinit (m : Mv) : SlotForm.Statement (.barinit m) := fun _ _ => ⟨_, rfl, by decide, rfl⟩
theorem SlotForm.barrive (m : Mv) : SlotForm.Statement (.barrive m) := fun _ _ => ⟨_, rfl, by decide, rfl⟩
theorem SlotForm.barpoll (m : Mv) : SlotForm.Statement (.barpoll m) := fun _ _ => ⟨_, rfl, by decide, rfl⟩
theorem SlotForm.fence (m : Mv) : SlotForm.Statement (.fence m) := fun _ _ => ⟨_, rfl, by decide, rfl⟩
theorem SlotForm.trap (m : Mv) : SlotForm.Statement (.trap m) := fun _ _ => ⟨_, rfl, by decide, rfl⟩
theorem SlotForm.csrr (m : Mv) : SlotForm.Statement (.csrr m) := fun _ _ => ⟨_, rfl, by decide, rfl⟩
theorem SlotForm.csrw (m : Mv) : SlotForm.Statement (.csrw m) := fun _ _ => ⟨_, rfl, by decide, rfl⟩
theorem SlotForm.rclaim (m : Mv) : SlotForm.Statement (.rclaim m) := fun _ _ => ⟨_, rfl, by decide, rfl⟩
theorem SlotForm.wpt (m : Mv) : SlotForm.Statement (.wpt m) := fun _ _ => ⟨_, rfl, by decide, rfl⟩
theorem SlotForm.intv (m : Mv) : SlotForm.Statement (.intv m) := fun _ _ => ⟨_, rfl, by decide, rfl⟩
theorem SlotForm.mnop : SlotForm.Statement .mnop := fun _ h => nomatch h
theorem SlotForm.msetImm (d : Fin 16) (imm : BitVec 48) : SlotForm.Statement (.msetImm d imm) := fun _ h => nomatch h
theorem SlotForm.msetMp (d : Fin 16) (n : Fin 8) : SlotForm.Statement (.msetMp d n) := fun _ h => nomatch h
theorem SlotForm.msetAdd (d : Fin 16) (imm : BitVec 48) : SlotForm.Statement (.msetAdd d imm) := fun _ h => nomatch h
theorem SlotForm.mloop (c : Fin 2) (cm : Bool) (cr : Fin 16) (last : BitVec 12) (count : BitVec 32) : SlotForm.Statement (.mloop c cm cr last count) := fun _ h => nomatch h
theorem SlotForm.mend : SlotForm.Statement .mend := fun _ h => nomatch h
theorem SlotForm.midle (n : BitVec 20) : SlotForm.Statement (.midle n) := fun _ h => nomatch h
theorem SlotForm.mzacc (t : Sel) : SlotForm.Statement (.mzacc t) := fun _ h => nomatch h
theorem SlotForm.mlda (q : Sel) (cls : BitVec 2) : SlotForm.Statement (.mlda q cls) := fun _ h => nomatch h
theorem SlotForm.mldb (q : Sel) (r : Sel) (cls : BitVec 2) : SlotForm.Statement (.mldb q r cls) := fun _ h => nomatch h
theorem SlotForm.mmac (t : Sel) : SlotForm.Statement (.mmac t) := fun _ h => nomatch h
theorem SlotForm.mmacs (t : Sel) : SlotForm.Statement (.mmacs t) := fun _ h => nomatch h
theorem SlotForm.mepi (e : MepiFields) : SlotForm.Statement (.mepi e) := fun _ h => nomatch h
theorem SlotForm.matrixGroupUpdate (core : Nat) (start : Nat) (group : Nat) : SlotForm.Statement (.matrixGroupUpdate core start group) := fun _ h => nomatch h
theorem SlotForm.epilogueRow (core : Nat) (start : Nat) (row : Nat) : SlotForm.Statement (.epilogueRow core start row) := fun _ h => nomatch h
theorem SlotForm.operationComplete (core : Nat) (port : ResultPort) (value : Vec) (flags : BitVec 6) : SlotForm.Statement (.operationComplete core port value flags) := fun _ h => nomatch h
theorem SlotForm.streamPopRead (core : Nat) (q : Fin 16) (issueAt : Nat) (bundle : Nat) : SlotForm.Statement (.streamPopRead core q issueAt bundle) := fun _ h => nomatch h
theorem SlotForm.loopEndStep (core : Nat) (n : Fin 4) : SlotForm.Statement (.loopEndStep core n) := fun _ h => nomatch h
theorem SlotForm.waittResume (core : Nat) : SlotForm.Statement (.waittResume core) := fun _ h => nomatch h
theorem SlotForm.resyncResume (gang : Nat) : SlotForm.Statement (.resyncResume gang) := fun _ h => nomatch h
theorem SlotForm.barrierResume (gang : Nat) (handle : Nat) (gen : Nat) : SlotForm.Statement (.barrierResume gang handle gen) := fun _ h => nomatch h
theorem SlotForm.drainPark (core : Nat) (n : Fin 4) : SlotForm.Statement (.drainPark core n) := fun _ h => nomatch h
theorem SlotForm.fencePerform (core : Nat) (scope : BitVec 3) : SlotForm.Statement (.fencePerform core scope) := fun _ h => nomatch h
theorem SlotForm.mbsnapCopy (core : Nat) (group : Nat) : SlotForm.Statement (.mbsnapCopy core group) := fun _ h => nomatch h
theorem SlotForm.regionSpillFill (core : Nat) (region : Nat) : SlotForm.Statement (.regionSpillFill core region) := fun _ h => nomatch h
theorem SlotForm.dcopyUnit (core : Nat) (cmd : Nat) (unit : Nat) (atDram : Bool) : SlotForm.Statement (.dcopyUnit core cmd unit atDram) := fun _ h => nomatch h
theorem SlotForm.xcopyUnitArrival (core : Nat) (u : XUnit) : SlotForm.Statement (.xcopyUnitArrival core u) := fun _ h => nomatch h
theorem SlotForm.hostReadDataArrival (core : Nat) (cmd : Nat) (unit : Nat) (data : List (BitVec 8)) (ok : Bool) : SlotForm.Statement (.hostReadDataArrival core cmd unit data ok) := fun _ h => nomatch h
theorem SlotForm.hcopyRUnit (core : Nat) (cmd : Nat) (unit : Nat) : SlotForm.Statement (.hcopyRUnit core cmd unit) := fun _ h => nomatch h
theorem SlotForm.hcopyWUnit (core : Nat) (cmd : Nat) (unit : Nat) : SlotForm.Statement (.hcopyWUnit core cmd unit) := fun _ h => nomatch h
theorem SlotForm.hostWriteSpaceFree (core : Nat) (bytes : Nat) : SlotForm.Statement (.hostWriteSpaceFree core bytes) := fun _ h => nomatch h
theorem SlotForm.fsendArrival (f : Frame) : SlotForm.Statement (.fsendArrival f) := fun _ h => nomatch h
theorem SlotForm.fputArrival (f : Frame) : SlotForm.Statement (.fputArrival f) := fun _ h => nomatch h
theorem SlotForm.fgetRequestArrival (f : Frame) : SlotForm.Statement (.fgetRequestArrival f) := fun _ h => nomatch h
theorem SlotForm.fgetResponseArrival (f : Frame) : SlotForm.Statement (.fgetResponseArrival f) := fun _ h => nomatch h
theorem SlotForm.fatomRequestArrival (f : Frame) : SlotForm.Statement (.fatomRequestArrival f) := fun _ h => nomatch h
theorem SlotForm.fatomResponseArrival (f : Frame) : SlotForm.Statement (.fatomResponseArrival f) := fun _ h => nomatch h
theorem SlotForm.poisonFrameArrival (f : Frame) : SlotForm.Statement (.poisonFrameArrival f) := fun _ h => nomatch h
theorem SlotForm.frameForward (f : Frame) (hop : Nat) (link : Fin 16) : SlotForm.Statement (.frameForward f hop link) := fun _ h => nomatch h
theorem SlotForm.missingArrival (core : Nat) (chip : Nat) (expected : Nat) (ticket : Nat) : SlotForm.Statement (.missingArrival core chip expected ticket) := fun _ h => nomatch h
theorem SlotForm.holdFreeze (gang : Nat) : SlotForm.Statement (.holdFreeze gang) := fun _ h => nomatch h
theorem SlotForm.holdResume (gang : Nat) : SlotForm.Statement (.holdResume gang) := fun _ h => nomatch h
theorem SlotForm.alignSend : SlotForm.Statement .alignSend := fun _ h => nomatch h
theorem SlotForm.align (link : Fin 16) (origin : Nat) : SlotForm.Statement (.align link origin) := fun _ h => nomatch h
theorem SlotForm.linkDown (link : Fin 16) : SlotForm.Statement (.linkDown link) := fun _ h => nomatch h
theorem SlotForm.hold (gang : Nat) (number : Nat) (th : Nat) (cause : HoldCause) (origin : Nat) : SlotForm.Statement (.hold gang number th cause origin) := fun _ h => nomatch h
theorem SlotForm.release (gang : Nat) (number : Nat) (origin : Nat) : SlotForm.Statement (.release gang number origin) := fun _ h => nomatch h
theorem SlotForm.prepare (v : VoteFrame) : SlotForm.Statement (.prepare v) := fun _ h => nomatch h
theorem SlotForm.vote (v : VoteFrame) : SlotForm.Statement (.vote v) := fun _ h => nomatch h
theorem SlotForm.commit (v : VoteFrame) : SlotForm.Statement (.commit v) := fun _ h => nomatch h
theorem SlotForm.abort (v : VoteFrame) : SlotForm.Statement (.abort v) := fun _ h => nomatch h
theorem SlotForm.resyncFrame (gang : Nat) (chip : Nat) (count : Nat) (latest : Nat) : SlotForm.Statement (.resyncFrame gang chip count latest) := fun _ h => nomatch h
theorem SlotForm.barrier (gang : Nat) (handle : Nat) (chip : Nat) (count : Nat) (latest : Nat) : SlotForm.Statement (.barrier gang handle chip count latest) := fun _ h => nomatch h
theorem SlotForm.deadpeer (gang : Nat) (dead : Nat) (reporter : Nat) : SlotForm.Statement (.deadpeer gang dead reporter) := fun _ h => nomatch h
theorem SlotForm.drop (gang : Nat) (chip : Nat) (core : Nat) (departure : Nat) (hop : Nat) (subcode : Nat) : SlotForm.Statement (.drop gang chip core departure hop subcode) := fun _ h => nomatch h
theorem SlotForm.abortgang (gang : Nat) (cause : EventClass) : SlotForm.Statement (.abortgang gang cause) := fun _ h => nomatch h
theorem SlotForm.slotBoundary : SlotForm.Statement .slotBoundary := fun _ h => nomatch h
theorem SlotForm.prepareSend (gang : Nat) (dirIn : Bool) : SlotForm.Statement (.prepareSend gang dirIn) := fun _ h => nomatch h
theorem SlotForm.switchFreeze (gang : Nat) : SlotForm.Statement (.switchFreeze gang) := fun _ h => nomatch h
theorem SlotForm.voteSend (gang : Nat) (dirIn : Bool) : SlotForm.Statement (.voteSend gang dirIn) := fun _ h => nomatch h
theorem SlotForm.contextSave (gang : Nat) : SlotForm.Statement (.contextSave gang) := fun _ h => nomatch h
theorem SlotForm.voteDeadline (gang : Nat) : SlotForm.Statement (.voteDeadline gang) := fun _ h => nomatch h
theorem SlotForm.inVoteDeadline (gang : Nat) : SlotForm.Statement (.inVoteDeadline gang) := fun _ h => nomatch h
theorem SlotForm.switchIn (gang : Nat) : SlotForm.Statement (.switchIn gang) := fun _ h => nomatch h
theorem SlotForm.fsaReinject (gang : Nat) (f : Frame) : SlotForm.Statement (.fsaReinject gang f) := fun _ h => nomatch h
theorem SlotForm.replayReinject (core : Nat) (e : ReplayEntry) : SlotForm.Statement (.replayReinject core e) := fun _ h => nomatch h
theorem SlotForm.runComplete (gang : Nat) : SlotForm.Statement (.runComplete gang) := fun _ h => nomatch h
theorem SlotForm.minderFaultRecord (core : Nat) : SlotForm.Statement (.minderFaultRecord core) := fun _ h => nomatch h
theorem SlotForm.recordQueueDrain (core : Nat) : SlotForm.Statement (.recordQueueDrain core) := fun _ h => nomatch h
theorem SlotForm.watchdogThreshold (core : Nat) : SlotForm.Statement (.watchdogThreshold core) := fun _ h => nomatch h
theorem SlotForm.refreshOwedIncrement (core : Nat) : SlotForm.Statement (.refreshOwedIncrement core) := fun _ h => nomatch h
theorem SlotForm.dramSelfRefresh (core : Nat) (bank : Fin 16) : SlotForm.Statement (.dramSelfRefresh core bank) := fun _ h => nomatch h
theorem SlotForm.disturbanceThreshold (core : Nat) (ch : Fin 4) (bank : Fin 16) : SlotForm.Statement (.disturbanceThreshold core ch bank) := fun _ h => nomatch h
theorem SlotForm.disturbanceMitigationDone (core : Nat) (ch : Fin 4) (bank : Fin 16) : SlotForm.Statement (.disturbanceMitigationDone core ch bank) := fun _ h => nomatch h
theorem SlotForm.disturbanceWindow : SlotForm.Statement .disturbanceWindow := fun _ h => nomatch h
theorem SlotForm.eccWriteback (sector : Nat) : SlotForm.Statement (.eccWriteback sector) := fun _ h => nomatch h
theorem SlotForm.untimedAccessReceive (a : Untimed) : SlotForm.Statement (.untimedAccessReceive a) := fun _ h => nomatch h
theorem SlotForm.untimedWriteComplete (a : Untimed) : SlotForm.Statement (.untimedWriteComplete a) := fun _ h => nomatch h
theorem SlotForm.hartStart (hart : Nat) : SlotForm.Statement (.hartStart hart) := fun _ h => nomatch h
theorem SlotForm.stepBudgetOverrun (hart : Nat) : SlotForm.Statement (.stepBudgetOverrun hart) := fun _ h => nomatch h
theorem SlotForm.episodeBudgetOverrun (hart : Nat) : SlotForm.Statement (.episodeBudgetOverrun hart) := fun _ h => nomatch h
theorem SlotForm.stepDeadline (core : Nat) (group : Nat) : SlotForm.Statement (.stepDeadline core group) := fun _ h => nomatch h
theorem SlotForm.episodeScrub (pair : Nat) : SlotForm.Statement (.episodeScrub pair) := fun _ h => nomatch h
theorem SlotForm.errorCounterDecay (unit : FaultUnit) : SlotForm.Statement (.errorCounterDecay unit) := fun _ h => nomatch h
theorem SlotForm.islandWake (island : Fin 16) : SlotForm.Statement (.islandWake island) := fun _ h => nomatch h
theorem SlotForm.scrubUnit (die : Fin 8) : SlotForm.Statement (.scrubUnit die) := fun _ h => nomatch h
theorem SlotForm.leekLaneFree (link : Fin 16) : SlotForm.Statement (.leekLaneFree link) := fun _ h => nomatch h
theorem SlotForm.hcopyHoldAnnouncement (core : Nat) (cmd : Nat) (unit : Nat) : SlotForm.Statement (.hcopyHoldAnnouncement core cmd unit) := fun _ h => nomatch h
theorem SlotForm.outVoteDeadline (gang : Nat) : SlotForm.Statement (.outVoteDeadline gang) := fun _ h => nomatch h
theorem SlotForm.linkTraining (link : Fin 16) (lam : BitVec 12) (mu : BitVec 12) (nbr : BitVec 12) : SlotForm.Statement (.linkTraining link lam mu nbr) := fun _ h => nomatch h
theorem SlotForm.unknownLeekFrame (type : BitVec 4) : SlotForm.Statement (.unknownLeekFrame type) := fun _ h => nomatch h
theorem SlotForm.patrolRead (sector : Nat) (finding : EccFinding) : SlotForm.Statement (.patrolRead sector finding) := fun _ h => nomatch h
theorem SlotForm.hostApertureAccess (vdid : Nat) (slot : Nat) (offset : Nat) (write : Bool) (data : List (BitVec 8)) : SlotForm.Statement (.hostApertureAccess vdid slot offset write data) := fun _ h => nomatch h
theorem SlotForm.hartTakenStore (hart : Nat) : SlotForm.Statement (.hartTakenStore hart) := fun _ h => nomatch h
theorem SlotForm.hartObservationStore (hart : Nat) (offset : Nat) (data : List (BitVec 8)) : SlotForm.Statement (.hartObservationStore hart offset data) := fun _ h => nomatch h
theorem SlotForm.hartPublish (hart : Nat) (done : Bool) : SlotForm.Statement (.hartPublish hart done) := fun _ h => nomatch h
theorem SlotForm.checkerRewardStore (hart : Nat) (pair : Nat) (reward : BitVec 32) : SlotForm.Statement (.checkerRewardStore hart pair reward) := fun _ h => nomatch h
theorem SlotForm.hartException (hart : Nat) : SlotForm.Statement (.hartException hart) := fun _ h => nomatch h
theorem SlotForm.supervisorKill (pair : Nat) : SlotForm.Statement (.supervisorKill pair) := fun _ h => nomatch h
theorem SlotForm.powerForecast (forecast : List (Nat × Nat)) : SlotForm.Statement (.powerForecast forecast) := fun _ h => nomatch h
theorem SlotForm.thermalSample (temps : List Nat) (forecasts : List Nat) : SlotForm.Statement (.thermalSample temps forecasts) := fun _ h => nomatch h
theorem SlotForm.thw : SlotForm.Statement .thw := fun _ h => nomatch h
theorem SlotForm.iemer : SlotForm.Statement .iemer := fun _ h => nomatch h
theorem SlotForm.coldBoot (ok : Nat) : SlotForm.Statement (.coldBoot ok) := fun _ h => nomatch h
theorem SlotForm.warmReset : SlotForm.Statement .warmReset := fun _ h => nomatch h
theorem SlotForm.standbyPowerLoss : SlotForm.Statement .standbyPowerLoss := fun _ h => nomatch h
theorem SlotForm.spdmRequest (block : Nat) : SlotForm.Statement (.spdmRequest block) := fun _ h => nomatch h
theorem SlotForm.ideKm (stream : Nat) (key : BitVec 256) : SlotForm.Statement (.ideKm stream key) := fun _ h => nomatch h
theorem SlotForm.ideIntegrityFailure (stream : Nat) : SlotForm.Statement (.ideIntegrityFailure stream) := fun _ h => nomatch h
theorem SlotForm.lockInterfaceRequest (vf : Nat) : SlotForm.Statement (.lockInterfaceRequest vf) := fun _ h => nomatch h
theorem SlotForm.startInterfaceRequest (vf : Nat) : SlotForm.Statement (.startInterfaceRequest vf) := fun _ h => nomatch h
theorem SlotForm.stopInterfaceRequest (vf : Nat) : SlotForm.Statement (.stopInterfaceRequest vf) := fun _ h => nomatch h
theorem SlotForm.getDeviceInterfaceReport (vf : Nat) : SlotForm.Statement (.getDeviceInterfaceReport vf) := fun _ h => nomatch h
theorem SlotForm.functionLevelReset (vf : Nat) : SlotForm.Statement (.functionLevelReset vf) := fun _ h => nomatch h
theorem SlotForm.grant (vdid : Nat) : SlotForm.Statement (.grant vdid) := fun _ h => nomatch h
theorem SlotForm.revokeBoundary (vdid : Nat) : SlotForm.Statement (.revokeBoundary vdid) := fun _ h => nomatch h
theorem SlotForm.revokeAtOnce (vdid : Nat) : SlotForm.Statement (.revokeAtOnce vdid) := fun _ h => nomatch h
theorem SlotForm.rights (vdid : Nat) : SlotForm.Statement (.rights vdid) := fun _ h => nomatch h
theorem SlotForm.ifcfg (vdid : Nat) : SlotForm.Statement (.ifcfg vdid) := fun _ h => nomatch h
theorem SlotForm.coreset (vdid : Nat) : SlotForm.Statement (.coreset vdid) := fun _ h => nomatch h
theorem SlotForm.ctxcreate (vdid : Nat) : SlotForm.Statement (.ctxcreate vdid) := fun _ h => nomatch h
theorem SlotForm.ctxmap (vdid : Nat) : SlotForm.Statement (.ctxmap vdid) := fun _ h => nomatch h
theorem SlotForm.ctxdestroy (vdid : Nat) : SlotForm.Statement (.ctxdestroy vdid) := fun _ h => nomatch h
theorem SlotForm.gang (vdid : Nat) : SlotForm.Statement (.gang vdid) := fun _ h => nomatch h
theorem SlotForm.cell (vdid : Nat) : SlotForm.Statement (.cell vdid) := fun _ h => nomatch h
theorem SlotForm.linkshare (vdid : Nat) : SlotForm.Statement (.linkshare vdid) := fun _ h => nomatch h
theorem SlotForm.linkshareClear (vdid : Nat) : SlotForm.Statement (.linkshareClear vdid) := fun _ h => nomatch h
theorem SlotForm.hostwin (vdid : Nat) : SlotForm.Statement (.hostwin vdid) := fun _ h => nomatch h
theorem SlotForm.aperture (vdid : Nat) : SlotForm.Statement (.aperture vdid) := fun _ h => nomatch h
theorem SlotForm.apertureClear (vdid : Nat) : SlotForm.Statement (.apertureClear vdid) := fun _ h => nomatch h
theorem SlotForm.mboxcfgGrpctl (vdid : Nat) : SlotForm.Statement (.mboxcfgGrpctl vdid) := fun _ h => nomatch h
theorem SlotForm.mboxcfgGrpactive (vdid : Nat) : SlotForm.Statement (.mboxcfgGrpactive vdid) := fun _ h => nomatch h
theorem SlotForm.mboxcfgEpnext (vdid : Nat) : SlotForm.Statement (.mboxcfgEpnext vdid) := fun _ h => nomatch h
theorem SlotForm.hartcfg (vdid : Nat) : SlotForm.Statement (.hartcfg vdid) := fun _ h => nomatch h
theorem SlotForm.distcfg (vdid : Nat) : SlotForm.Statement (.distcfg vdid) := fun _ h => nomatch h
theorem SlotForm.debugStopOff (vdid : Nat) : SlotForm.Statement (.debugStopOff vdid) := fun _ h => nomatch h
theorem SlotForm.debugStopOn (vdid : Nat) : SlotForm.Statement (.debugStopOn vdid) := fun _ h => nomatch h
theorem SlotForm.debugHalt (vdid : Nat) : SlotForm.Statement (.debugHalt vdid) := fun _ h => nomatch h
theorem SlotForm.debugImageRead (vdid : Nat) : SlotForm.Statement (.debugImageRead vdid) := fun _ h => nomatch h
theorem SlotForm.debugImageWrite (vdid : Nat) : SlotForm.Statement (.debugImageWrite vdid) := fun _ h => nomatch h
theorem SlotForm.holdrel (vdid : Nat) : SlotForm.Statement (.holdrel vdid) := fun _ h => nomatch h
theorem SlotForm.counters (vdid : Nat) : SlotForm.Statement (.counters vdid) := fun _ h => nomatch h
theorem SlotForm.report (vdid : Nat) : SlotForm.Statement (.report vdid) := fun _ h => nomatch h
theorem SlotForm.pacmdInvalidOp (vdid : Nat) (op : BitVec 8) : SlotForm.Statement (.pacmdInvalidOp vdid op) := fun _ h => nomatch h
theorem SlotForm.registerWrite (vdid : Nat) (offset : Nat) (value : BitVec 64) : SlotForm.Statement (.registerWrite vdid offset value) := fun _ h => nomatch h
theorem SlotForm.deadpeerClear (chips : List Nat) : SlotForm.Statement (.deadpeerClear chips) := fun _ h => nomatch h
theorem SlotForm.msixVectorUnmask (vdid : Nat) (vector : Nat) : SlotForm.Statement (.msixVectorUnmask vdid vector) := fun _ h => nomatch h
theorem SlotForm.frozenConfigurationChange (vf : Nat) : SlotForm.Statement (.frozenConfigurationChange vf) := fun _ h => nomatch h
theorem SlotForm.slotMatrixRowsAndLength (rows : Nat) (k : Nat) : SlotForm.Statement (.slotMatrixRowsAndLength rows k) := fun _ h => nomatch h

end Sys2Proof.Laws
end

