-- ==== Sys2Proof/Tests/Slice0.lean ====
section
/-! SUPPORT. The model's own tests: words written out from the encoding tables, terms that are ill-formed, single steps with
results worked out by hand from the manual, and a witness for the hypotheses of every statement. -/

set_option maxRecDepth 100000

namespace Sys2Proof.Tests

open Sys2Proof.Machine

/-! Words, field by field (R92): G_INV 23, G_IDX 22-20, IMM 19, SRC 18-10, DST 9-0. -/

/-- A slot word from its fields. -/
def word (inv idx imm src dst : Nat) : Nat := inv * 2 ^ 23 + idx * 2 ^ 20 + imm * 2 ^ 19 + src * 2 ^ 10 + dst

/-- The guard that always holds (R93). -/
def always : Guard := ⟨false, 0⟩

/-- R99, the bundle worked to the bit: `s5 -> sa.CMP.LT` is 0x00_14AA; ANDN is port 28 of station 2, SHL port 29, FCVT.IF 58. -/
theorem test_decode_scalar :
    decodeTableWord 24 0x0014AA = some (.cmpLt ⟨always, .sreg 5⟩) ∧
    decodeTableWord 24 (word 0 0 0 4 0x09C) = some (.andn ⟨always, .sreg 4⟩) ∧
    decodeTableWord 24 (word 0 0 0 4 0x09D) = some (.shl ⟨always, .sreg 4⟩) ∧
    decodeTableWord 24 (word 0 0 0 6 0x0BA) = some (.fcvtIf ⟨always, .sreg 6⟩) := by decide

/-- R107, R108, the worked bundle: 0x20_1080 is `?p2 s4 -> sa.a`, 0x0D_4C83 is `#0x153 -> sa.q`, 0x02_C454 a LIMM48 to s20 whose
payload low half is 0x45_6789 and high half 0x00_0123. -/
theorem test_decode_moves :
    decodeTableWord 24 0x201080 = some (.move ⟨⟨false, 2⟩, .sreg 4⟩ (.port .saA)) ∧
    decodeTableWord 24 0x0D4C83 = some (.move ⟨always, .short 0x153⟩ (.port .saQ)) ∧
    decodeTableWord 72 0x00012345678902C454 = some (.move ⟨always, .limm48 0x456789 0x000123⟩ (.sreg 20)) ∧
    decodeTableWord 24 0x800000 = some (.nop 0) := by decide

/-- R98: `#2 -> ct.BRP`, `?p3 #2 -> ct.BR`, `s5 -> ct.WAITT`, and LOOP, LOOPP and LBRK at ports 24, 28 and 32 on. -/
theorem test_decode_control :
    decodeTableWord 24 (word 0 0 1 2 0x010) = some (.brp ⟨always, .short 2⟩) ∧
    decodeTableWord 24 (word 0 3 1 2 0x011) = some (.br ⟨⟨false, 3⟩, .short 2⟩) ∧
    decodeTableWord 24 (word 0 0 0 5 0x028) = some (.waitt ⟨always, .sreg 5⟩) ∧
    decodeTableWord 24 (word 0 0 1 0 0x01B) = some (.loop 3 ⟨always, .short 0⟩) ∧
    decodeTableWord 24 (word 0 0 1 0 0x01C) = some (.loopp 0 ⟨always, .short 0⟩) ∧
    decodeTableWord 24 (word 1 1 1 0 0x023) = some (.lbrk 3 ⟨⟨true, 1⟩, .short 0⟩) := by decide

/-- R81: bgd is station 11 and LD.W its port 18; BGB's ST.V is 0x1DC, BGC's AADD is 0x260, ACAS is port 41. -/
theorem test_decode_banks :
    decodeTableWord 24 (word 0 0 0 8 0x2D2) = some (.ldW .d ⟨always, .sreg 8⟩) ∧
    decodeTableWord 24 (word 0 0 1 8 0x1DC) = some (.stV .b ⟨always, .short 8⟩) ∧
    decodeTableWord 24 (word 0 0 1 8 0x260) = some (.aadd .c ⟨always, .short 8⟩) ∧
    decodeTableWord 24 (word 0 0 1 8 (0x2C0 + 41)) = some (.acas .d ⟨always, .short 8⟩) := by decide

/-- R100: `v2 -> va.VCMP`, `v2 -> va.VCVT`, `v2 -> va.VLUT`, `#5 -> va.VPERM`, `#4 -> va.VSHR`, `#0x0B -> va.VKRED`, and the
worked bundle's `?!p1 #-3 -> va.VADD` 0x9F_F510; VB's ids are VA's + 0x80. -/
theorem test_decode_vector :
    decodeTableWord 24 (word 0 0 0 0x042 0x120) = some (.vcmp .va ⟨always, .vreg 2⟩) ∧
    decodeTableWord 24 (word 0 0 0 0x042 0x124) = some (.vcvt .va ⟨always, .vreg 2⟩) ∧
    decodeTableWord 24 (word 0 0 0 0x042 0x12C) = some (.vlutEval .va ⟨always, .vreg 2⟩) ∧
    decodeTableWord 24 (word 0 0 1 5 0x123) = some (.vperm .va ⟨always, .short 5⟩) ∧
    decodeTableWord 24 (word 0 0 1 4 0x11C) = some (.vshr .va ⟨always, .short 4⟩) ∧
    decodeTableWord 24 (word 0 0 1 0x0B 0x1B1) = some (.vkred .vb ⟨always, .short 0x0B⟩) ∧
    decodeTableWord 24 0x9FF510 = some (.vadd .va ⟨⟨true, 1⟩, .short 0x1FD⟩) := by decide

/-- R83, R84, R102: MCALL, MUWR and MZERO at ports 16, 17 and 19 of station 8, SCFG at 16 of station 10, q3's push at 35. -/
theorem test_decode_matrix_and_streams :
    decodeTableWord 24 (word 0 0 1 7 0x210) = some (.mcall ⟨always, .short 7⟩) ∧
    decodeTableWord 24 (word 0 0 0 7 0x211) = some (.muwr ⟨always, .sreg 7⟩) ∧
    decodeTableWord 24 (word 0 0 1 3 0x213) = some (.mzero ⟨always, .short 3⟩) ∧
    decodeTableWord 24 (word 0 0 1 0 0x290) = some (.scfg ⟨always, .short 0⟩) ∧
    decodeTableWord 24 (word 0 0 0 0x042 (0x280 + 35)) = some (.push 3 ⟨always, .vreg 2⟩) := by decide

/-- R103, R104: `#5 -> c0.DREF`, DRFM beside it, `#0 -> c1.HCOPY.R` and `.W`, FSEND and FPEER at ports 16 and 21 of FB. -/
theorem test_decode_engines :
    decodeTableWord 24 (word 0 0 1 5 0x312) = some (.dref ⟨always, .short 5⟩) ∧
    decodeTableWord 24 (word 0 0 1 5 0x313) = some (.drfm ⟨always, .short 5⟩) ∧
    decodeTableWord 24 (word 0 0 1 0 0x351) = some (.hcopyR ⟨always, .short 0⟩) ∧
    decodeTableWord 24 (word 0 0 1 0 0x352) = some (.hcopyW ⟨always, .short 0⟩) ∧
    decodeTableWord 24 (word 0 0 1 0 0x390) = some (.fsend ⟨always, .short 0⟩) ∧
    decodeTableWord 24 (word 0 0 1 9 0x395) = some (.fpeer ⟨always, .short 9⟩) := by decide

/-- R105: `#0x10 -> sy.CSRR`, `#0x21 -> sy.CSRW`, `#40 -> sy.MBSEND`, `##0x2028 -> sy.MBSTAT` with its payload slot, FENCE. -/
theorem test_decode_system :
    decodeTableWord 24 (word 0 0 1 0x10 0x3D9) = some (.csrr ⟨always, .short 0x10⟩) ∧
    decodeTableWord 24 (word 0 0 1 0x21 0x3DA) = some (.csrw ⟨always, .short 0x21⟩) ∧
    decodeTableWord 24 (word 0 0 1 40 0x3D0) = some (.mbsend ⟨always, .short 40⟩) ∧
    decodeTableWord 48 (0x002028 * 2 ^ 24 + word 0 0 0 0x0B0 0x3D2) = some (.mbstat ⟨always, .limm24 0x002028⟩) ∧
    decodeTableWord 24 (word 0 0 1 7 0x3D7) = some (.fence ⟨always, .short 7⟩) := by decide

/-- R170, R171: bits 63-58 are the opcode; selector bit 4 names a micro-register. -/
theorem test_decode_microwords :
    decodeTableWord 64 0 = some .mnop ∧
    decodeTableWord 64 (0x01 * 2 ^ 58 + 5 * 2 ^ 54 + 0xFFFFFFFFFFFF) = some (.msetImm 5 0xFFFFFFFFFFFF) ∧
    decodeTableWord 64 (0x02 * 2 ^ 58 + 1 * 2 ^ 57 + 3 * 2 ^ 48 + 0x123 * 2 ^ 36 + 8) = some (.mloop 1 false 3 0x123 8) ∧
    decodeTableWord 64 (0x04 * 2 ^ 58 + 40) = some (.midle 40) ∧
    decodeTableWord 64 (0x10 * 2 ^ 58 + 1 * 2 ^ 10 + 0x12) = some (.mlda (.indirect 2) 1) ∧
    decodeTableWord 64 (0x11 * 2 ^ 58 + 2 * 2 ^ 10 + 4 * 2 ^ 5 + 3) = some (.mldb (.direct 3) (.direct 4) 2) ∧
    decodeTableWord 64 (0x19 * 2 ^ 58 + 7) = some (.mmacs (.direct 7)) ∧
    decodeTableWord 64 (0x20 * 2 ^ 58 + 9 * 2 ^ 27 + 6 * 2 ^ 23 + 5 * 2 ^ 19 + 1 * 2 ^ 18 + 1 * 2 ^ 15 + 4 * 2 ^ 10 + 3 * 2 ^ 5 + 2) =
      some (.mepi ⟨.direct 2, .direct 3, .direct 4, true, false, false, true, 5, 6, 9⟩) := by decide

/-- R107, R170: a source or destination not listed, a lane distance of 9 and an unlisted micro-opcode name no instruction. -/
theorem test_decode_refuses :
    decodeTableWord 24 (word 0 0 0 0x0BF 0x040) = none ∧ decodeTableWord 24 (word 0 0 0 0x069 0x040) = none ∧
    decodeTableWord 24 (word 0 0 0 4 0x015) = none ∧ decodeTableWord 24 (word 0 0 0 4 0x305) = none ∧
    decodeTableWord 64 (0x05 * 2 ^ 58) = none ∧ decodeTableWord 64 (0x10 * 2 ^ 58 + 3 * 2 ^ 10) = none := by decide

/-- R106, R108, the worked bundle as a whole: seven moves' slots, payloads skipped. -/
theorem test_decode_bundle :
    decodeBundle (BitVec.ofNat 192 (0x201080 + 0x0014AA * 2 ^ 24 + 0x02C454 * 2 ^ 48 + 0x456789 * 2 ^ 72 + 0x000123 * 2 ^ 96 +
      0x0D4C83 * 2 ^ 120 + 0x9FF510 * 2 ^ 144 + 0x800000 * 2 ^ 168)) =
    [(0, .ok (.move ⟨⟨false, 2⟩, .sreg 4⟩ (.port .saA))), (1, .ok (.cmpLt ⟨always, .sreg 5⟩)),
     (2, .ok (.move ⟨always, .limm48 0x456789 0x000123⟩ (.sreg 20))),
     (5, .ok (.move ⟨always, .short 0x153⟩ (.port .saQ))), (6, .ok (.vadd .va ⟨⟨true, 1⟩, .short 0x1FD⟩)), (7, .ok (.nop 0))] := by
  decide

/-! Ill-formed terms, one for each check of Sys2Proof/WellFormed.lean, beside a term at the boundary that is well-formed. -/

def someFrame : Frame := ⟨.put, 1, 4095, 1023, 4095, 1023, 0x3FFFFF, 4096, 0, [], false, false, 0, 0, 0, 0, 0, [], 0, [], 0, 0, 0,
  0, false⟩

def someVote : VoteFrame := ⟨1, false, false, false, 0, 2 ^ 64 - 1, 0, 0, 0, 4095, 7, 0, 0, 0, 0⟩

def someAccess : Untimed := ⟨0x3000, .dram, false, 0, [], 32, false, 0, 0, false⟩

def someUnit : XUnit := ⟨1023, 0, true, 0x3FFFFF, List.replicate 256 0, [], false, false⟩

def someEntry : ReplayEntry := ⟨0, 7, 0, 0, 256, false, false, false, 0, 0⟩

theorem test_ill_guard : wellFormed (.add ⟨⟨true, 0⟩, .sreg 1⟩) = false ∧ wellFormed (.add ⟨⟨true, 1⟩, .sreg 1⟩) = true := by
  decide

theorem test_ill_port : wellFormed (.move ⟨always, .sreg 1⟩ (.port (.c0 .dst))) = false ∧
    wellFormed (.move ⟨always, .sreg 1⟩ (.port (.c1 .dst))) = true := by decide

theorem test_ill_class : wellFormed (.mlda (.direct 0) 3) = false ∧ wellFormed (.mldb (.direct 0) (.direct 1) 3) = false ∧
    wellFormed (.mlda (.direct 0) 2) = true := by decide

theorem test_ill_core : wellFormed (.waittResume 1024) = false ∧ wellFormed (.waittResume 1023) = true ∧
    wellFormed (.matrixGroupUpdate 0 0 128) = false ∧ wellFormed (.epilogueRow 0 0 128) = false ∧
    wellFormed (.epilogueRow 0 0 127) = true ∧ wellFormed (.regionSpillFill 0 64) = false ∧
    wellFormed (.mbsnapCopy 0 128) = false ∧ wellFormed (.stepDeadline 0 128) = false := by decide

theorem test_ill_handle : wellFormed (.barrierResume 1 64 0) = false ∧ wellFormed (.barrierResume 1 63 0) = true ∧
    wellFormed (.barrier 1 64 0 1 0) = false ∧ wellFormed (.barrier 1 63 4096 1 0) = false := by decide

theorem test_ill_frame : wellFormed (.fputArrival someFrame) = true ∧
    wellFormed (.fputArrival { someFrame with srcChip := 4096 }) = false ∧
    wellFormed (.fputArrival { someFrame with dstChip := 4096 }) = false ∧
    wellFormed (.fputArrival { someFrame with srcCore := 1024 }) = false ∧
    wellFormed (.fputArrival { someFrame with dstCore := 1024 }) = false ∧
    wellFormed (.fputArrival { someFrame with addr := 0x400000 }) = false ∧
    wellFormed (.fputArrival { someFrame with len := 4097 }) = false := by decide

theorem test_ill_vote : wellFormed (.vote someVote) = true ∧ wellFormed (.vote { someVote with origin := 2 ^ 64 }) = false ∧
    wellFormed (.vote { someVote with chip := 4096 }) = false ∧ wellFormed (.vote { someVote with verdict := 8 }) = false := by
  decide

theorem test_ill_unit : wellFormed (.xcopyUnitArrival 0 someUnit) = true ∧
    wellFormed (.xcopyUnitArrival 0 { someUnit with srcCore := 1024 }) = false ∧
    wellFormed (.xcopyUnitArrival 0 { someUnit with addr := 0x400000 }) = false ∧
    wellFormed (.xcopyUnitArrival 0 { someUnit with data := List.replicate 257 0 }) = false := by decide

theorem test_ill_access : wellFormed (.untimedAccessReceive someAccess) = true ∧
    wellFormed (.untimedAccessReceive { someAccess with agent := 0x1000 }) = false ∧
    wellFormed (.untimedAccessReceive { someAccess with agent := 0x5000 }) = false := by decide

theorem test_ill_entry : wellFormed (.replayReinject 0 someEntry) = true ∧
    wellFormed (.replayReinject 0 { someEntry with kind := 0 }) = false ∧
    wellFormed (.replayReinject 0 { someEntry with kind := 8 }) = false ∧
    wellFormed (.replayReinject 0 { someEntry with size := 257 }) = false := by decide

theorem test_ill_hub : wellFormed (.hartStart 256) = false ∧ wellFormed (.hartStart 255) = true ∧
    wellFormed (.supervisorKill 8192) = false ∧ wellFormed (.checkerRewardStore 0 8192 0) = false ∧
    wellFormed (.errorCounterDecay (.logic 1024)) = false ∧ wellFormed (.errorCounterDecay (.link 15)) = true ∧
    wellFormed (.unknownLeekFrame 12) = false ∧ wellFormed (.unknownLeekFrame 13) = true ∧
    wellFormed (.align 0 (2 ^ 64)) = false ∧ wellFormed (.hold 1 0 0 .power (2 ^ 64)) = false ∧
    wellFormed (.deadpeer 1 4096 0) = false ∧ wellFormed (.drop 1 0 1024 0 0 1) = false := by decide

theorem test_ill_authority : wellFormed (.grant 1) = false ∧ wellFormed (.grant 0) = true ∧ wellFormed (.grant 1039) = true ∧
    wellFormed (.grant 1040) = false ∧ wellFormed (.functionLevelReset 0) = false ∧ wellFormed (.functionLevelReset 64) = true ∧
    wellFormed (.functionLevelReset 65) = false ∧ wellFormed (.pacmdInvalidOp 0 0x3C) = false ∧
    wellFormed (.pacmdInvalidOp 0 0x3D) = true := by decide

/-! Single steps at core 0 of a running gang, at gang cycle 100. -/

/-- One gang of one member with core 0 in it, at gang cycle 100. -/
def someGang : Gang := { mode := .running, hasRun := true, cores := 1, gcyc := 100 }

/-- The machine with core 0 in that gang. -/
def onCore (c : Core) : State :=
  setCore (setGang State.reset 1 someGang) 0 { c with gang := 1, running := true, nextIssue := 101 }

/-- A move's arrival at cycle 100 with value `v`. -/
def someFlight (v : Val) : Flight := ⟨.mnop, v, true, 99, 5, 0, 100⟩

/-- Core 0 as a move arrives. -/
def arriving (c : Core) (v : Val) : State := { onCore c with cur := ⟨0, 0, some (someFlight v)⟩ }

/-- Core 0 as a move issues in slot 0. -/
def issuing (c : Core) : State := { onCore c with cur := ⟨0, 0, none⟩ }

/-- The results that a step schedules: port, value, flags, the cycle from which they are present. -/
def results : Out → List (ResultPort × Vec × Flags × Nat)
  | .next t => t.agenda.filterMap fun j =>
    match j.task with
    | .event (.operationComplete _ p v f) => some (p, v, f, j.due)
    | _ => none
  | _ => []

/-- The predicate writes that a step schedules. -/
def preds : Out → List (Nat × Bool × Nat)
  | .next t => t.agenda.filterMap fun j =>
    match j.task with
    | .deed (.pred n v) => some (n.val, v, j.due)
    | _ => none
  | _ => []

/-- The faults a step raises on core 0: code, first, second word. -/
def faults : Out → List (Nat × Nat × Nat)
  | .next t => (coreOf t 0).raised.map fun r => (r.code, r.a.toNat, r.b.toNat)
  | _ => []

/-- Core 0 after a step. -/
def after : Out → Core
  | .next t => coreOf t 0
  | _ => {}

/-- A core with some of its scalar ports set. -/
def withPorts (ps : List (Nat × Word)) : Core := ps.foldl (fun c p => setPort c p.1 p.2) {}

/-- A move from s1, which no test of an arrival reads. -/
def mv : Mv := ⟨always, .sreg 1⟩

/-- R343, R62: 2^64 - 1 + 2 wraps to 1, present a cycle after the arrival. -/
theorem test_add_wraps : results (exec (.add mv) (arriving (withPorts [(0x080, 0xFFFFFFFFFFFFFFFF)]) (.scalar 2))) =
    [(.sa, 1, 0, 101)] := by decide

/-- R95: a short immediate of class S is sign-extended: 5 - (-1) = 6. -/
theorem test_sub_short : results (exec (.sub mv) (arriving (withPorts [(0x080, 5)]) (.short 0x1FF))) = [(.sa, 6, 0, 101)] := by
  decide

/-- R394, the manual's example: a = -3, b = 2^62. -/
theorem test_mul_family :
    let s := arriving (withPorts [(0x080, 0xFFFFFFFFFFFFFFFD)]) (.scalar 0x4000000000000000)
    results (exec (.mul mv) s) = [(.sa, 0x4000000000000000, 0, 103)] ∧
    results (exec (.mulh mv) s) = [(.sa, 0xFFFFFFFFFFFFFFFF, 0, 103)] ∧
    results (exec (.mulhu mv) s) = [(.sa, 0x3FFFFFFFFFFFFFFF, 0, 103)] := by decide

/-- R359, the manual's example: a = -7, b = 2. -/
theorem test_div_family :
    let s := arriving (withPorts [(0x080, 0xFFFFFFFFFFFFFFF9)]) (.scalar 2)
    results (exec (.div mv) s) = [(.sa, 0xFFFFFFFFFFFFFFFD, 0, 118)] ∧
    results (exec (.rem mv) s) = [(.sa, 0xFFFFFFFFFFFFFFFF, 0, 118)] ∧
    results (exec (.divu mv) s) = [(.sa, 0x7FFFFFFFFFFFFFFC, 0, 118)] ∧
    results (exec (.remu mv) s) = [(.sa, 1, 0, 118)] := by decide

/-- R376, the manual's example: a = 2^64 - 1, b = 1. -/
theorem test_min_max :
    let s := arriving (withPorts [(0x080, 0xFFFFFFFFFFFFFFFF)]) (.scalar 1)
    results (exec (.min mv) s) = [(.sa, 0xFFFFFFFFFFFFFFFF, 0, 101)] ∧ results (exec (.minu mv) s) = [(.sa, 1, 0, 101)] ∧
    results (exec (.max mv) s) = [(.sa, 1, 0, 101)] ∧ results (exec (.maxu mv) s) = [(.sa, 0xFFFFFFFFFFFFFFFF, 0, 101)] := by
  decide

/-- R399: 0x8000_0000_0000_00FF has 9 ones; R353: 64 leading zeros of 0. -/
theorem test_counts : results (exec (.popc mv) (arriving {} (.scalar 0x80000000000000FF))) = [(.sa, 9, 0, 101)] ∧
    results (exec (.clz mv) (arriving {} (.scalar 0))) = [(.sa, 64, 0, 101)] ∧
    results (exec (.clz mv) (arriving {} (.scalar 1))) = [(.sa, 63, 0, 101)] := by decide

/-- R408, the manual's example: SHL by 56 of 0x80, then SRA by 56. -/
theorem test_shifts : results (exec (.shl mv) (arriving (withPorts [(0x080, 0x80)]) (.short 56))) = [(.sa, 0x8000000000000000, 0, 101)] ∧
    results (exec (.sra mv) (arriving (withPorts [(0x080, 0x8000000000000000)]) (.short 56))) = [(.sa, 0xFFFFFFFFFFFFFF80, 0, 101)] ∧
    results (exec (.shr mv) (arriving (withPorts [(0x080, 0x8000000000000000)]) (.scalar 65))) = [(.sa, 0x4000000000000000, 0, 101)] := by
  decide

/-- R344, R398, R440. -/
theorem test_logic :
    let s := arriving (withPorts [(0x080, 0xC)]) (.scalar 0xA)
    results (exec (.and mv) s) = [(.sa, 0x8, 0, 101)] ∧ results (exec (.or mv) s) = [(.sa, 0xE, 0, 101)] ∧
    results (exec (.xor mv) s) = [(.sa, 0x6, 0, 101)] ∧ results (exec (.andn mv) s) = [(.sa, 0x4, 0, 101)] := by decide

/-- R407, the manual's example: a = 10, b = 20, p3. -/
theorem test_sel : results (exec (.sel mv) (arriving (withPorts [(0x080, 10), (0x083, 3)]) (.short 20))) = [(.sa, 20, 0, 101)] ∧
    results (exec (.sel mv) (arriving { withPorts [(0x080, 10), (0x083, 3)] with p := 8 } (.short 20))) = [(.sa, 10, 0, 101)] := by
  decide

/-- R108, R155, the worked bundle: ORCM into p2 and p3 of 7 < 9 writes nothing, of 12 < 9 both ones. -/
theorem test_compare_orcm : preds (exec (.cmpLt mv) (arriving (withPorts [(0x080, 7), (0x083, 0x153)]) (.scalar 9))) = [] ∧
    preds (exec (.cmpLt mv) (arriving (withPorts [(0x080, 12), (0x083, 0x153)]) (.scalar 9))) =
      [(2, true, 101), (3, true, 101)] := by decide

/-- R362, the manual's example: (1 + 2^-12)^2 - 1 rounded once keeps 2^-24: 0x3A00_0400, exact. -/
theorem test_ffma : results (exec (.ffma mv) (arriving (withPorts [(0x080, 0x3F800800), (0x082, 0xBF800000)]) (.scalar 0x3F800800))) =
    [(.sa, 0x3A000400, 0, 104)] := by decide

/-- R367, the manual's examples. -/
theorem test_fcvt_fi : results (exec (.fcvtFi mv) (arriving {} (.scalar 0xCF000000))) = [(.sa, 0xFFFFFFFF80000000, 0, 103)] ∧
    (results (exec (.fcvtFi mv) (arriving {} (.scalar 0x5F000000)))).map (·.2.1) = [0x7FFFFFFFFFFFFFFF] ∧
    results (exec (.fcvtFi mv) (arriving {} (.short 0x1FD))) = [(.sa, 0xFFFFFFFFFFFFFFFD, 0, 103)] := by decide

/-- R205 of the control chapter, R153: ct.a = 0xD302 with base 4 selects entry 4, 5 or 6 by p3 and p5. -/
theorem test_brt_select : brtSelect { p := 0x08 } 0xD302 = 0 ∧ brtSelect { p := 0x00 } 0xD302 = 1 ∧
    brtSelect { p := 0x20 } 0xD302 = 2 := by decide

/-- R136, the manual's example of a generator: one draw from 1 leaves 0x0004_2021. -/
theorem test_draw : xorshift 1 = 0x00042021 ∧ drawOf 0x00042021 = 0x0004 := by decide

/-- R170, R386: `MEPI a2, q5, bias q6, act, req m4, m5, rm(rne, sat)` is 0x8000_0000_42A3_98A2. -/
theorem test_mepi_word : decodeTableWord 64 0x8000000042A398A2 =
    some (.mepi ⟨.direct 2, .direct 5, .direct 6, true, true, true, false, 4, 5, 8⟩) := by decide

/-- R55: the never-guard changes nothing. -/
theorem test_nop : exec (.nop 0xFFFFF) (issuing {}) = .next (issuing {}) := rfl

/-- R56, R66: s0 discards; p3 takes bit 0; v2 is filled with FP32 elements of a short immediate. -/
theorem test_moves : (after (exec (.move mv (.sreg 0)) (arriving {} (.scalar 7)))).s = [] ∧
    (after (exec (.move mv (.sreg 5)) (arriving {} (.short 0x1EF)))).s = [(5, 0xFFFFFFFFFFFFFFEF)] ∧
    (after (exec (.move mv (.preg 3)) (arriving {} (.scalar 3)))).p = 8 ∧
    (vregOf (after (exec (.move mv (.vreg 2)) (arriving {} (.short 0x1FD)))) 2).setWidth 64 = 0xC0400000C0400000 := by decide

/-- R71, R289: a word load at an address that is not 4-aligned takes the scratch-address fault, with no word of its own; one in
another group too. -/
theorem test_load_misaligned : (faults (exec (.ldW .a mv) (arriving { claims := [(0, 0)] } (.scalar 2)))).map (fun r => (r.1, r.2.1)) = [(8, 0)] ∧
    (faults (exec (.ldW .b mv) (arriving { claims := [(0, 0)] } (.scalar 4)))).map (fun r => (r.1, r.2.1)) = [(8, 0)] := by decide

/-- R150: a BR to an entry prepared at 95, five cycles ago, comes too soon. -/
theorem test_br_too_soon : faults (exec (.br mv) (arriving { targets := [(2, { addr := 8, prep := 95 })] } (.short 2))) = [(0x0F, 2, 5)] ∧
    (after (exec (.br mv) (arriving { targets := [(2, { addr := 8, prep := 94 })] } (.short 2)))).pc = 8 := by decide

/-- R412: TRAP 5 raises 0x1E with FLTINFO_A 5. -/
theorem test_trap : faults (exec (.trap mv) (arriving {} (.short 5))) = [(0x1E, 5, 0)] := by decide

/-- R415: ty 0x40 is reserved. -/
theorem test_vector_reserved : (faults (exec (.vadd .va mv) (arriving (withPorts [(0x104, 0x40)]) (.short 1)))).map
    (fun r => (r.1, r.2.1)) = [(0x16, 0x40)] := by decide

/-! Witnesses: for every statement with hypotheses a state and operands that meet them, clause by clause, at the ends of their
ranges. -/

/-- The other cores of these machines are as after reset. -/
theorem coreOf_onCore (c : Core) (j : Nat) :
    coreOf (onCore c) j = if j = 0 then { c with gang := 1, running := true, nextIssue := 101 } else {} := by
  simp only [onCore, coreOf, setCore, setGang, tget_tset]
  rfl

/-- Core 0 of gang 1 alone is in gang 1. -/
theorem gang_onCore (c : Core) (j : Nat) (h : (coreOf (onCore c) j).gang = 1) : j = 0 := by
  rw [coreOf_onCore] at h
  split at h
  · assumption
  · exact absurd h (by decide)

theorem witness_ScalarArithmeticWritesResult : (arriving {} (.scalar 2)).cur.flight = some (someFlight (.scalar 2)) := rfl
theorem witness_ScalarDivisionWritesQuotient : (arriving {} (.scalar 0)).cur.flight = some (someFlight (.scalar 0)) := rfl
theorem witness_ScalarLogicWritesResult : (arriving {} (.scalar 64)).cur.flight = some (someFlight (.scalar 64)) := rfl
theorem witness_ScalarSelectionWritesResult : (arriving {} (.short 511)).cur.flight = some (someFlight (.short 511)) := rfl
theorem witness_ScalarComparesWritePredicate : (arriving {} (.limm24 0x7FC000)).cur.flight = some (someFlight (.limm24 0x7FC000)) := rfl
theorem witness_FloatOperationsWriteResultAndFlags : (arriving {} (.short 0x1FF)).cur.flight = some (someFlight (.short 0x1FF)) := rfl
theorem witness_MoveWrites : (arriving {} (.vector 1)).cur.flight = some (someFlight (.vector 1)) := rfl

theorem witness_MovesIssue :
    (issuing {}).cur.flight = none ∧ moveOf (.add mv) = some mv ∧ dstId (.add mv) = some 0x090 ∧ streamSource mv.src = none ∧
      (∀ w, Instr.add mv ≠ .waitt w) ∧ guardOf (myCore (issuing {})) mv.g = true ∧
      guardOf (myCore (issuing {})) ⟨false, 7⟩ = false ∧ isCompare (.add ⟨⟨false, 7⟩, .sreg 1⟩) = false ∧
      isCompare (.cmpLt ⟨⟨false, 7⟩, .sreg 1⟩) = true ∧ laneOk 0 (.sreg 4) 0x080 = true ∧ laneOk 0 (.short 1) 0x080 = true :=
  ⟨rfl, rfl, rfl, rfl, (fun _ h => by cases h), by decide, by decide, by decide, by decide, by decide, by decide⟩

/-- The last byte of group A, the last word of group D, the last vector of group B. -/
theorem witness_LoadsReadAtNextCycle :
    InGroup .a ((scalarIn .z (someFlight (.scalar 0xFFFFF)).val).toNat) 1 1 ∧
    InGroup .d ((scalarIn .z (someFlight (.scalar 0x3FFFFC)).val).toNat) 4 4 ∧
    InGroup .b ((scalarIn .z (someFlight (.scalar 0x1FFF00)).val).toNat) 256 32 ∧
    isVoided (coreOf (onCore {}) 0) (gcycOf (onCore {}) 0) 0xFFFFF 1 = false := by
  unfold InGroup; decide

theorem witness_StoresWriteTwoCyclesLater :
    InGroup .c ((scalarIn .z (someFlight (.scalar 0x200000)).val).toNat) 8 8 ∧
    InGroup .b ((scalarIn .z (someFlight (.scalar 0x100002)).val).toNat) 2 2 ∧
    isVoided (coreOf (onCore {}) 0) (gcycOf (onCore {}) 0) 0x200000 8 = false := by
  unfold InGroup; decide

theorem witness_AtomicsReadAndWriteInTheirCycles : InGroup .a ((scalarIn .z (someFlight (.scalar 0xFFFFC)).val).toNat) 4 4 ∧
    isVoided (coreOf (onCore {}) 0) (gcycOf (onCore {}) 0) 0xFFFFC 4 = false := by
  unfold InGroup; decide

/-- One past the group's end, for every access; a misaligned address for those that have an alignment. -/
theorem witness_BadAddressFaults : (myCore (arriving {} (.scalar 0x100000))).frozenAt = none ∧
    (∀ p ∈ [(1, 1), (2, 2), (4, 4), (8, 8), (256, 32)], ¬InGroup .a 0x100000 p.1 p.2) ∧
    (∀ p ∈ [(2, 2), (4, 4), (8, 8), (256, 32)], ¬InGroup .a 1 p.1 p.2) := by
  unfold InGroup; decide

/-- FP32 after reset, INT8 with code 6, binary8p4 with code 0x14. -/
theorem witness_VectorArithmeticWritesResult :
    fmtOfCode (tyCode (myCore (arriving {} (.short 1))) .va) = some (.ieee 8 23) ∧
    (fmtIsFloat (.ieee 8 23) || fmtIsInt (.ieee 8 23)) = true ∧
    fmtOfCode (tyCode (myCore (arriving (withPorts [(0x104, 6)]) (.short 1))) .va) = some (.int 8 true) ∧
    (fmtIsFloat (.int 8 true) || fmtIsInt (.int 8 true)) = true ∧
    (vecLatch (arriving { kports := [(0x103, 1)] } (.short 1)) .va 0).k.getLsbD 0 = true ∧
    (vecLatch (arriving { kports := [(0x103, 1)] } (.short 1)) .va 0).k.getLsbD 1 = false := by decide

theorem witness_VectorSelectionWritesResult :
    fmtOfCode (tyCode (myCore (arriving (withPorts [(0x184, 0x14)]) (.short 1))) .vb) = some (.b8 true 4 false) ∧
    (fmtIsFloat (.b8 true 4 false) || fmtIsInt (.b8 true 4 false)) = true := by decide

theorem witness_VectorBitsWriteResult :
    fmtOfCode (tyCode (myCore (arriving (withPorts [(0x104, 8)]) (.short 1))) .va) = some .e8 ∧
    fmtOfCode (tyCode (myCore (arriving (withPorts [(0x104, 7)]) (.short 8))) .va) = some (.int 8 false) := by decide

theorem witness_VectorMasksWriteResult :
    fmtOfCode (tyCode (myCore (arriving {} (.short 1))) .va) = some (.ieee 8 23) ∧
    (fmtIsFloat (.ieee 8 23) || fmtIsInt (.ieee 8 23)) = true ∧
    (vecLatch (arriving (withPorts [(0x107, 6)]) (.short 1)) .va 0).ctl % 8 ≠ 7 := by decide

/-- VCVT of FP32 to INT8, VQNT of FP32 to binary8p4, VDOT8 of binary8p4 by binary8p4. -/
theorem witness_VectorReductionsWriteResult :
    (let s := arriving (withPorts [(0x107, 6)]) (.short 1)
     let x := vecLatch s .va 0
     fmtOfCode (tyCode (myCore s) .va) = some (.ieee 8 23) ∧ fmtOfCode (x.ctl % 256) = some (.int 8 true) ∧
       x.ctl.testBit 10 = false) ∧
    (let s := arriving (withPorts [(0x107, 0x14)]) (.short 1)
     let x := vecLatch s .va 0
     fmtOfCode (tyCode (myCore s) .va) = some f32 ∧ fmtOfCode (x.ctl % 256) = some (.b8 true 4 false) ∧
       fmtIsB8 (.b8 true 4 false) = true) ∧
    (let s := arriving (withPorts [(0x104, 0x14), (0x107, 0x1402)]) (.short 1)
     let x := vecLatch s .va 0
     fmtOfCode (tyCode (myCore s) .va) = some (.b8 true 4 false) ∧ acceptDot (.b8 true 4 false) = true ∧
       fmtOfCode (dotB x) = some (.b8 true 4 false) ∧ x.ctl.testBit 1 = true) := by decide

theorem witness_VectorFunctionsWriteResult :
    fmtOfCode (tyCode (myCore (arriving {} (.short 1))) .va) = some f32 ∧
    (vecLatch (arriving {} (.short 1)) .va 0).ctl.testBit 0 = false ∧
    (vecLatch (arriving (withPorts [(0x107, 1)]) (.short 1)) .va 0).ctl.testBit 0 = true := by decide

/-- The reserved codes 0, 9 and 0x30. -/
theorem witness_ReservedTypeFaults : (myCore (arriving (withPorts [(0x104, 9)]) (.short 1))).frozenAt = none ∧
    fmtOfCode (tyCode (myCore (arriving (withPorts [(0x104, 9)]) (.short 1))) .va) = none ∧
    fmtOfCode (tyCode (myCore (arriving (withPorts [(0x104, 0x30)]) (.short 1))) .va) = none ∧
    fmtOfCode (tyCode (myCore (arriving (withPorts [(0x104, 0)]) (.short 1))) .va) = none := by decide

/-- Entry 2 prepared at 94 for bundle 16,383, exactly six cycles ago, and at 95; fifteen and sixteen links, the top one of six
and of five cycles ago. -/
theorem witness_BranchesTransfer :
    let f := someFlight (.short 2)
    let l : Nat → Link := fun n => { ret := 7, since := n }
    let c := myCore (arriving { targets := [(2, { addr := 16383, prep := 94 })], links := List.replicate 15 (l 94) } (.short 2))
    6 ≤ (f.arrive : Int) - (targetOf c 2).prep ∧ (targetOf c 2).addr.toNat < 16384 ∧ (targetOf c 2).bad = false ∧ c.links.length < 16 ∧
      c.links = l 94 :: List.replicate 14 (l 94) ∧ (l 94).since + 6 ≤ f.arrive ∧ (l 94).ret < 16384 ∧ (l 94).bad = false ∧
    let d := myCore (arriving { targets := [(2, { addr := 8, prep := 95 })], links := List.replicate 16 (l 95) } (.short 2))
    d.frozenAt = none ∧ (f.arrive : Int) - (targetOf d 2).prep < 6 ∧ 16 ≤ d.links.length ∧
      d.links = l 95 :: List.replicate 15 (l 95) ∧ f.arrive < (l 95).since + 6 ∧ (myCore (arriving {} (.short 2))).links = [] := by
  decide

/-- One bundle, 2^32 - 1 iterations; none; a pipelined level of four stages; an active level of two iterations. -/
theorem witness_LoopEngineCountsIterations :
    let c := myCore (arriving (withPorts [(1, 0xFFFFFFFF), (2, 16383)]) (.short 0))
    let z := myCore (arriving { withPorts [(1, 0), (2, 3)] with pc := 3 } (.short 0))
    let p := myCore (arriving (withPorts [(1, 0xFFFFFFFC), (2, 3), (3, 4)]) (.short 0))
    let a := coreOf (onCore { loops := [(1, { active := true, first := 3, last := 4, total := 2 })] }) 0
    (portOf c 1).toNat ≤ 2 ^ 32 - 1 ∧ c.pc ≤ (portOf c 2).toNat % 2 ^ 32 ∧ (portOf c 2).toNat % 2 ^ 32 ≤ 16383 ∧
    (loopOf c 1).active = false ∧ (∀ j < 4, (loopOf c j).active = false) ∧ (portOf c 1).toNat ≠ 0 ∧
    (portOf z 1).toNat = 0 ∧ z.pc ≤ (portOf z 2).toNat % 2 ^ 32 ∧ (portOf z 2).toNat % 2 ^ 32 + 1 < 16384 ∧ z.badBundles = [] ∧
    (portOf p 3).toNat % 8 = 4 ∧ (portOf p 1).toNat + 4 - 1 ≤ 2 ^ 32 - 1 ∧ (∀ j < 4, (loopOf p j).active = false) ∧
    a.frozenAt = none ∧ (loopOf a 1).active = true ∧ (loopOf a 1).last + 1 < 16384 ∧
    (loopOf a 1).iter + 1 < (loopOf a 1).total ∧ (loopOf { a with loops := [(1, { active := true, iter := 1, total := 2 })] } 1).total ≤ 1 + 1 := by
  decide

/-- T equal to the arrival and one cycle before it, in both slip modes. -/
theorem witness_WaittDefers :
    let s := issuing {}
    let m : Mv := ⟨always, .short 101⟩
    let n : Mv := ⟨always, .short 100⟩
    let p := setGang s 1 { someGang with poisonMode := true }
    let w := onCore { waits := { waitt := some 100 } }
    s.cur.flight = none ∧ streamSource m.src = none ∧ guardOf (myCore s) m.g = true ∧
    now s + moveLatency s.cur.slot m.src 0x028 ≤
      (scalarIn .z (readSource (myCore s) m.src (now s) (myCore s).curBundle s.cur.slot).1).toNat ∧
    (scalarIn .z (readSource (myCore s) n.src (now s) (myCore s).curBundle s.cur.slot).1).toNat <
      now s + moveLatency s.cur.slot n.src 0x028 ∧
    (coreGang s (me s)).poisonMode = false ∧ (myCore s).frozenAt = none ∧ (coreGang p (me p)).poisonMode = true ∧
    (coreOf w 0).waits.waitt = some 100 ∧ 100 ≤ gcycOf w 0 ∧
    (let a := setGang (arriving {} (.scalar 99)) 1 { someGang with poisonMode := true }
     (coreGang a (me a)).poisonMode = true ∧ (scalarIn .z (someFlight (.scalar 99)).val).toNat < 100 ∧
       100 ≤ (scalarIn .z (someFlight (.scalar 100)).val).toNat) := by decide

/-- Core 7 of the same gang, idle, as the context's core 1; bundle 16,383; a gang whose switch is armed. -/
theorem witness_CoresStartAndStop :
    let s₀ := arriving (withPorts [(1, 16383)]) (.short 1)
    let s := setGang (setCore s₀ 7 { gang := 1, idx := 1 }) 1 { someGang with cores := 2 }
    canonical s ∧ (myCore s).gang ≠ noGang ∧ (scalarIn .z (someFlight (.short 1)).val).toNat < (coreGang s (me s)).cores ∧
    coreAt s (myCore s).gang 1 = some 7 ∧ 7 ≠ me s ∧ (portOf (myCore s) 1).toNat % 2 ^ 32 < 16384 ∧
    (coreOf s 7).running = false ∧ (coreOf s 7).exitAt ≠ some 100 ∧ (coreOf s 7).spawned = none ∧
    (coreGang (setGang s 1 { someGang with vote := { stage := .armed } }) 0).vote.stage = .armed := by
  unfold canonical; decide

/-- A gang of this package alone whose one core arrived at 8,130: L + H = 8,194, FRAMELEN 4,096, and R_res = 12,288; a core that
goes on now; a member of two whose core has not arrived. -/
theorem witness_ResyncCompletesWithAllParties :
    let x : Gang := { someGang with arrived := [0], latest := 8130 }
    let s := setGang (onCore { waits := { resync := some none } }) 1 x
    let y := setGang (onCore {}) 1 { someGang with members := [0, 1], memberCount := 2 }
    canonical s ∧ (1 : Nat) ≠ noGang ∧ (gangOf s 1) = x ∧
    ((x.children.map (·.2.2) ++ x.idleKids.map (·.2)).foldl max x.latest) = 8130 ∧ 0 < x.framelen ∧ x.framelen ∣ 12288 ∧
    8130 + x.h ≤ 12288 ∧ (∀ R', x.framelen ∣ R' → 8130 + x.h ≤ R' → 12288 ≤ R') ∧ x.members = [] ∧ x.arrived ≠ [] ∧
    (∀ j, (coreOf s j).gang = 1 → (coreOf s j).running = true → j ∈ x.arrived) ∧
    ((coreOf s 0).gang = 1 ∧ (coreOf s 0).waits.resync = some none) ∧
    (let r := onCore { waits := { resync := some (some 100) } }
     canonical r ∧ (coreOf r 0).gang = 1 ∧ (coreOf r 0).waits.resync = some (some (gangOf r 1).gcyc)) ∧ [0, 7].Nodup ∧
    5 ∉ treeChildren s 1 ∧ canonical y ∧ 1 ∈ treeChildren y 1 ∧
    ((∀ e ∈ (gangOf y 1).idleKids, e.1 ≠ 1) ∧ ∃ e ∈ { gangOf y 1 with idleKids := [(1, 50)] }.idleKids, e.1 = 1) ∧
    (∃ j, (coreOf y j).gang = 1 ∧ (coreOf y j).running = true ∧ j ∉ (gangOf y 1).arrived) := by
  refine ⟨by unfold canonical; decide, by decide, by decide, by decide, by decide, by decide, by decide, ?_, rfl, by decide, ?_,
    by decide, by unfold canonical; decide, by decide, by decide, by unfold canonical; decide, by decide, by decide, ⟨0, by decide⟩⟩
  · rintro R' ⟨n, rfl⟩ h
    simp only [someGang] at *
    omega
  · intro j h _
    have : j = 0 := gang_onCore { waits := { resync := some none } } j h
    simp [this]

/-- Handle 63; EXPECTED 1 and 65,535; the arrival that completes EXPECTED 2, and one that does not complete EXPECTED 3. -/
theorem witness_BarriersCountArrivals :
    let s := arriving (withPorts [(0x3C0, 0xFFFF)]) (.short 63)
    (portOf (myCore s) 0x3C0).toNat % 2 ^ 16 ≠ 0 ∧ (∀ e ∈ (barrierOf s 63).events, e.cycle ≠ 100) ∧ (coreGang s (me s)).h ≤ 100 ∧
    (gangOf s (myCore s).gang).gcyc ≤ (someFlight (.short 63)).arrive ∧
    (let b : BarState := { init := true, expected := 2, arrived := 1, arrivals := [7] }
     let e : BarEvent := ⟨100, 0, 5, 1, 0, 0, 99, 5, 0⟩
     e.kind = 1 ∧ b.init = true ∧ barKey e ∉ b.arrivals ∧ b.arrived + 1 = b.expected ∧
       b.arrived + 1 < { b with expected := 3 }.expected ∧ { e with kind := 0 }.kind = 0) := by decide

/-- A completed generation and none; a party of this package; a member of two whose object is clear. -/
theorem witness_BarriersCountArrivals_resume :
    (let x := fun d => setGang { onCore { waits := { barriers := [⟨3, 0, none⟩] } } with hub := { barriers := [(3, { done := d })] } } 1 someGang
     canonical (x []) ∧ (1 : Nat) ≠ noGang ∧ barrierObject (x []) 1 3 = 3 ∧
       (barrierOf (x [(9, 90, [], false)]) 3).done.find? (fun d => decide (d.1 = 9)) = some (9, 90, [], false) ∧
       (∀ e ∈ (barrierOf (x []) 3).done, e.1 ≠ 9) ∧
       (barrierOf (x [(9, 90, [0], true)]) 3).done.find? (fun d => decide (d.1 = 9)) = some (9, 90, [chipOf (x []) * 1024 + 0], true) ∧
       coreAt (x []) 1 0 = some 0 ∧ (coreOf (x []) 0).gang = 1 ∧ 5 ∉ treeChildren (x []) 1 ∧ chipOf (x []) < 4096 ∧
       (let b := barrierOf (setBarrier (x []) 3 { states := [(90, { init := true, expected := 2, arrived := 1 })] }) 3
        95 ∉ b.ended ∧ 95 ∈ { b with ended := [95] }.ended ∧ 95 < (gangOf (x []) 1).gcyc ∧ (∀ e ∈ b.events, e.cycle < 95) ∧
          (∀ p ∈ b.states, p.1 < 95) ∧ (barrierAt b 100).arrived < (barrierAt b 100).expected ∧
          (∀ w ∈ (coreOf (x []) 0).waits.barriers, w.resume = none)) ∧
       (barrierAt (barrierOf (x []) 3) 100).expected ≤ 0 ∧
       (0 : Nat) < (barrierAt (barrierOf (setBarrier (x []) 3 { states := [(90, { init := true, expected := 2 })] }) 3) 100).expected) ∧
    (let y := setGang (onCore {}) 1 { someGang with members := [0, 1], memberCount := 2 }
     let b := barrierOf y (barrierObject y 1 3)
     1 ∈ treeChildren y 1 ∧ (barrierAt b (gangOf y 1).gcyc).init = false ∧ (∀ l ∈ b.ended, l < 9) ∧
       ∃ l ∈ { b with ended := [9] }.ended, 9 ≤ l) := by
  unfold canonical
  and_intros <;> decide

/-- The other cores of that gang wait at no barrier. -/
theorem witness_BarriersCountArrivals_waits (k : Nat)
    (h : (coreOf (onCore { waits := { barriers := [⟨3, 0, none⟩] } }) k).gang = 1) :
    ∀ w ∈ (coreOf (onCore { waits := { barriers := [⟨3, 0, none⟩] } }) k).waits.barriers, w.handle = 3 → w.resume = none := by
  have : k = 0 := gang_onCore _ k h
  subst this
  decide

/-- An operand of each; a core of the gang at a RESYNC without and with a resume cycle. -/
theorem witness_SystemStepsComplete :
    let s := arriving {} (.short 0x1FF)
    let r := onCore { waits := { resync := some none } }
    let n := onCore { waits := { resync := some (some 100) } }
    s.cur.flight = some (someFlight (.short 0x1FF)) ∧ (myCore s).frozenAt = none ∧ canonical n ∧ (1 : Nat) ≠ noGang ∧
    ((coreOf n 0).gang = 1 ∧ (coreOf n 0).waits.resync = some (some (gangOf n 1).gcyc)) ∧ canonical r ∧ 5 ∉ treeChildren r 1 ∧
    ((coreOf r 0).gang = 1 ∧ (coreOf r 0).waits.resync = some none) ∧ 0 < (gangOf r 1).framelen ∧ isVecPort .va = true ∧
    isVecPort .sa = false := by
  unfold canonical; decide

/-- FPFLAGS is listed and writable, GCYC listed and not writable, number 4 neither. -/
theorem witness_ControlRegistersReadAndWrite :
    let s := arriving {} (.short 0x21)
    csrRead s (me s) 0x021 ≠ none ∧ csrWritable 0x021 = true ∧ csrWritable 0x010 = false ∧ (myCore s).frozenAt = none ∧
    csrRead s (me s) 4 = none ∧ csrRead s 0 0x010 = some 100 := by decide

theorem witness_SystemTriggersTakeEffect : (arriving {} (.short 7)).cur.flight = some (someFlight (.short 7)) ∧
    (myCore (arriving {} (.short 7))).frozenAt = none ∧ isVecPort .va = true ∧ isVecPort .sy = false ∧ resId .sa ≠ resId .va := by
  decide

/-- A push stream of INT32 with an open tile, and one that was never configured. -/
def pushStream : Stream :=
  { mode := .opened, base := 0x100, shape0 := 0x0000008000000002, shape1 := 1, shape2 := 1, fmt := 0x2200404 }

theorem witness_StreamControlConfiguresStreams :
    let c := withPorts [(0x281, 0x100), (0x282, 0x8000000001), (0x283, 1), (0x284, 1), (0x285, 0x404)]
    let s := arriving c (.short 0)
    let p := arriving { c with streams := [(0, { pushStream with tile := some 0, entry := false })] } (.scalar 0xFFFE)
    let q := streamOf (myCore p) 0
    scfgBad (scfgStream (myCore s) (streamOf (myCore s) 0)) = false ∧ (streamOf (myCore s) 0).mode ≠ .opened ∧
    (myCore s).frozenAt = none ∧ q.mode = .opened ∧ (scalarIn .z (someFlight (.scalar 0xFFFE)).val).toNat % 2 ^ 16 ≠ 0xFFFF ∧
    q.tile = some 0 ∧ q.fmt.getLsbD 25 = true ∧ q.entry = false ∧ q.fmt.toNat / 2 ^ 21 % 4 ≠ 0 := by decide

/-- The first of two items with an address in place, no item left; a pop stream's read four cycles before a bundle's issue. -/
theorem witness_StreamItemsPopAndPush :
    let st := pushStream
    let c := myCore (arriving { streams := [(3, st)] } (.scalar 1))
    st.mode = .opened ∧ strPush st = true ∧ st.pos < strTotal st ∧ (planOwn st true).badAddr = none ∧ c.mx.epis = [] ∧
    strScaled st = false ∧ strMem st = strReg st ∧ strTotal { st with pos := 2 } ≤ { st with pos := 2 }.pos ∧ c.frozenAt = none ∧
    (let q := { st with fmt := 0x404 }
     let b := bundleWith (word 0 0 0 0x073 0x104)
     let s := onCore { streams := [(3, q)], istore := [(7, b)], claims := [(0, 0)], pc := 4 }
     let c := coreOf s 0
     let pl := planOwn (streamOf c 3) false
     let ms := plannedMoves s 0 3 7 100
     let slot := (ms.head?.map (·.1)).getD 0
     ms.any (fun m => m.2.2) = true ∧ popClashes c pl 100 104 7 slot ++ popFaults c 3 q pl 100 104 7 slot = [] ∧
       (105 : Nat) ≠ 100 + 4) := by decide

/-- A routine at the store's end, an empty unit and a busy one; a table of 272 bytes that ends its group. -/
theorem witness_MatrixTriggersTakeEffect :
    let s := arriving { mx := { routines := [(7, 0x00010FFF)] } } (.short 7)
    let c := myCore s
    let e := (tget 0 c.mx.routines 7).toNat
    let b := arriving { mx := { busy := true } } (.short 7)
    let a := (scalarIn .z (someFlight (.scalar 0xFFEE0)).val).toNat % 2 ^ 22
    c.mx.busy = false ∧ e / 65536 % 8192 ≠ 0 ∧ e % 4096 + e / 65536 % 8192 ≤ 4096 ∧ (myCore b).mx.busy = true ∧
    (myCore b).frozenAt = none ∧ a % 32 = 0 ∧ a / 2 ^ 20 = (a + 271) / 2 ^ 20 ∧ updatesTile s (me s) 7 101 = false := by decide

/-- A body of one word up to the routine's last; a body that ends at its own MLOOP. -/
theorem witness_MicroOpsTakeEffect :
    let x : Mx := { busy := true, pc := 8, start := 8, length := 2 }
    let ok := fun (own other : MicroLoop) (k e : Nat) => k ≤ 2 ^ 32 - 1 ∧ own.active = false ∧ 8 < e ∧ x.start ≤ e ∧
      e < x.start + x.length ∧ (other.active = true → e ≤ other.last)
    ok x.lc0 x.lc1 (2 ^ 32 - 1) 9 ∧ ok x.lc1 x.lc0 0 9 ∧ ¬ok x.lc0 x.lc1 1 8 ∧ ¬ok x.lc0 x.lc1 1 10 ∧
    (issuing { mx := x }).cur.flight = none ∧ (myCore (issuing { mx := x })).frozenAt = none ∧
    (let m : Mx := { x with lc0 := ⟨true, 5, 9, 2, 2⟩, lc1 := ⟨true, 4, 12, 7, 1⟩ }
     m.lc0.active = true ∧ m.lc0.last = 9 ∧ (m.lc1.active = true → m.lc1.last ≠ 9 ∧ m.lc1.order < m.lc0.order) ∧ 1 < m.lc0.left ∧
       { m with lc0 := ⟨true, 5, 9, 1, 2⟩ }.lc0.left ≤ 1 ∧ (m.lc0.active = true → m.lc0.last ≠ 8)) := by decide

/-- Streams of binary8p4: q1 as A in group A, q2 as B in group B, q3 as output; a block ready now; an array free since now. -/
theorem witness_MatrixStepsAccumulate :
    let st : Stream := { mode := .opened, shape0 := 128, shape1 := 1, shape2 := 1, fmt := 0x1414 }
    let qa := st
    let qb := { st with base := 0x100000 }
    let qo := { st with base := 0x200000, fmt := 0x2000101 }
    let b : BBlock := ⟨0, 0x14, 2, 100, 0, [], [], []⟩
    let mx : Mx := { bindA := some (1, 0), staged := some b, lastStep := some (92, 8), lastEpi := some (100 - 100) }
    let s := issuing { streams := [(1, qa), (2, qb), (3, qo)], mx := mx }
    let c := myCore s
    updatesTile s (me s) 7 101 = false ∧ (101, 7, true) ∉ c.mx.zeros ∧ roleFault .a 1 qa = [] ∧ roleFault .b 2 qb = [] ∧
    groupOf qa.base ≠ groupOf qb.base ∧ blockAt c.mx 100 = some b ∧ b.cls = 0 ∧ arrayBusy c.mx 100 = false ∧
    arrayClass (fmtOf 0x14) = arrayClass (fmtOf b.fmt) ∧ roleFault .out 3 qo = [] ∧
    (issuing {}).cur.core = 0 ∧ (myCore (issuing {})).mx.bindA = none ∧ (myCore (issuing {})).frozenAt = none ∧
    (∀ l ∈ (myCore (issuing {})).mx.lastEpi, l + 128 ≤ 100) := by decide

theorem witness_GroupUpdateChangesItsAccumulators :
    let b : BBlock := ⟨0, 0x14, 2, 100, 0, [], [], []⟩
    let p : MxStep := ⟨92, 7, 0, 0x14, 1, b, [(7, [], [])]⟩
    let e : Epilogue := ⟨90, 7, 3, ⟨.direct 7, .direct 3, .direct 0, false, false, false, false, 0, 0, 0⟩, 0, []⟩
    let c := coreOf (onCore { mx := { steps := [p], epis := [e] } }) 0
    c.mx.steps.find? (fun p => decide (p.start = 92)) = some p ∧ p.items.find? (fun it => decide (it.1 = 7)) = some (7, [], []) ∧
    c.mx.epis.find? (fun e => decide (e.start = 90)) = some e ∧ e.fields.intacc = false ∧ e.fields.bias = false ∧
    e.fields.act = false ∧ e.fields.req = false := by decide

/-- Context 1 of VDID 16 with page 0 of core 0 at entry 0, a window of 1 MiB of host memory, mailbox group 5; core set 0 in row 0
is gang 1's. -/
def bound (s : State) : State :=
  let s := setCtx (modGang s 1 fun x => { x with ctx := 1, vdid := 16 }) 1 { vdid := 16, gang := 2, bind := [(0, 1)], mail := [5] }
  let s := setAuth s { authOf s with coreSets := [(0, List.range 16)], cells := [(0, 0x1000001)] }
  setPart s 16 { windows := [(0, ⟨0, 2 ^ 20, true, true, false⟩)], mailGroups := [(5, true)] }

/-- A command of an engine, `kind` its kind, with unit 0's data held. -/
def someCmd (kind : Nat) : EngineCmd :=
  ⟨0, kind, 100, 0, 0, 256, 0, 0, 99, 5, 0, false, 0, [(0, List.replicate 256 7, false)], []⟩

/-- A read of 1 MiB from the page's start to group A, its last unit's end at both ends; a command under way. -/
theorem witness_CopiesStartAtTheirCycle :
    let s := bound (arriving { withPorts [(0x301, 0x1FFF00), (0x302, 0x100)] with claims := [(0, 0)] } (.short 0))
    let e := bindAt s (coreGang s (me s)).ctx 0x1FFF00
    (0x100 : Nat) ≠ 0 ∧ copyFaults s (me s) false 0 0x1FFF00 0x100 100 = [] ∧ copyFaults s (me s) true 0 0x1FFF00 0x100 100 = [] ∧
    OnTime (myCore s) (someFlight (.short 0)) noStart ∧ bdShare e = false ∧
    timingFault (slotMapOf s (bdCore e)) (groupCommands s (bdCore e) 100)
      (copyCommands true 100 (homeAddr e 0x1FFF00 % 2 ^ 29) 0x100 0) = 0 ∧
    timingFault (slotMapOf s (bdCore e)) (groupCommands s (bdCore e) 100)
      (copyCommands false 100 (homeAddr e 0x1FFF00 % 2 ^ 29) 0x100 0) = 0 ∧
    (let c := coreOf (onCore { cmds := [someCmd 0] }) 0
     cmdOf c 0 = some (someCmd 0) ∧ unitBuf (someCmd 1) 0 = some (List.replicate 256 7, false) ∧
       isVoided c 100 0 256 = false ∧ (someCmd 1).kind = 1 ∧ pageBlocked s 0 = false ∧
       ∀ i ∈ dramSectors 0 256, tget false (dramOf s).bad i = false) := by
  unfold OnTime; decide

/-- DREF of NEXTBANK, DRFM of any bank; a crossing of a running gang with and without its hold; two crossings of one bank; a slot
that serves the group, and none while its gang runs with no slot reserved. -/
theorem witness_DramUpkeepLeavesBytes :
    let s := arriving {} (.short 0)
    let a := setDram s { dramOf s with crossing := [(63, 9, 0)] }
    let h := setGang a 1 { someGang with holds := [⟨0, 164, .disturbance, 0, 63 + 2 ^ 16 * 9, none⟩] }
    let t := setDram State.reset { trackers := [(63, [⟨9, 1024, 0⟩, ⟨8, 1024, 16⟩])], crossing := [(63, 9, 0), (63, 8, 16)] }
    OnTime (myCore s) (someFlight (.short 0)) noStart ∧ refreshFault s (me s) 100 100 0 false = 0 ∧
    refreshFault s (me s) 100 100 15 true = 0 ∧ (4 * 0 + 3) * 16 + 15 = 63 ∧ crossings a 0 3 15 = [(9, 0)] ∧
    hasHold a 1 .disturbance (63 + 2 ^ 16 * 9) = false ∧ (gangOf a 1).mode = .running ∧ groupGang a 0 = some 1 ∧
    (∀ e ∈ crossings h 0 3 15, hasHold h 1 .disturbance (63 + 2 ^ 16 * (e.1 + 2 ^ 12 * e.2)) = true) ∧ groupGang h 0 = some 1 ∧
    (∀ e ∈ crossings h 0 3 15, entryDue h 0 3 15 e = false) ∧ crossings t 0 3 15 = [(9, 0), (8, 16)] ∧ t.gangs = [] ∧
    slotOpen s (0 * 128) = false ∧ slotOpen t (0 * 128) = true := by
  unfold OnTime; decide

/-- A copy of 32 bytes to context core 1; HCOPY of 256 bytes at the window's end; IMCOPY of the store's last bundle. -/
theorem witness_TransfersMoveBytes :
    let x := bound (arriving { withPorts [(0x342, 32), (0x345, 1)] with claims := [(0, 0)] } (.short 0))
    let s := setCore (modGang x 1 fun y => { y with cores := 2 }) 7 { gang := 1, idx := 1, claims := [(0, 0)] }
    let i := withPorts [(0x342, 24), (0x345, 16383)]
    OnTime (myCore s) (someFlight (.short 0)) noStart ∧ canonical s ∧ (myCore s).gang ≠ noGang ∧
    coreAt s (myCore s).gang (1 % 1024) = some 7 ∧ xcopyFaults s (me s) 0 0 32 1 100 = [] ∧
    injectionClash (myCore s) 100 32 = false ∧ hcopyFaults s (me s) false 0 0xFFF00 256 100 = [] ∧
    hcopyFaults s (me s) true 0 0xFFF00 256 100 = [] ∧ (portOf i 0x342).toNat % 24 = 0 ∧
    (portOf i 0x342).toNat ≤ 393216 ∧ (portOf i 0x345).toNat + (portOf i 0x342).toNat / 24 ≤ 16384 ∧ engineSpan 0 24 32 = true ∧
    engineClaimed (myCore s) 0 24 100 = true ∧
    (let u : XUnit := ⟨7, 0, true, 0x100, [1, 2], [], false, false⟩
     let c := coreOf (onCore { claims := [(0, 0)] }) 0
     u.stampOnly = false ∧ c.foreign = [] ∧ u.srcCore ≠ 0 ∧ u.data ≠ [] ∧ claimedAt c u.addr u.data.length 100 = true ∧
       claimedAt (coreOf (onCore {}) 0) u.addr u.data.length 100 = false ∧ isVoided c 100 0x100 2 = false ∧
       agentId 2 0 ≠ agentId 1 c.idx ∧ c.frozenAt = none) ∧
    (let s := bound (onCore { cmds := [someCmd 4] })
     cmdOf (coreOf s 0) 0 = some (someCmd 4) ∧ heldBytes s 0 + 256 ≤ 2 ^ 20 ∧ dmaBlocked s 16 = false ∧
       (gangOf s 1).mode = .running ∧ unitBuf { someCmd 3 with bufs := [] } 0 = none ∧
       (∀ w ∈ (authOf s).wantReads, w.1 ≠ 0) ∧
       spaceFor (setAuth s { authOf s with posted := [⟨0, 16, 0, List.replicate 1 7, 90, false, false⟩] }) 0 0 0 104 (2 ^ 20) = false ∧
       (∃ w ∈ (authOf (setAuth s { authOf s with posted := [⟨0, 16, 0, [7], 90, false, false⟩] })).posted, w.core = 0)) := by
  unfold OnTime canonical
  and_intros <;> first | exact ⟨_, List.mem_cons_self, rfl⟩ | decide +kernel

/-- Chip 0 of a ring of two chips: link 0 is up, its share in row 0 is gang 1's; chip 1's link back was trained. -/
def someFabric : Fabric := { size0 := 2, links := [(0, { up := true, lat := 117, llat := 117, nbr := 1 })],
                             shares := [(0, 2)], trained := [(18, (117, 117))] }

/-- One hop over link 0 to core 3 of chip 1, 512 bytes, and the longest frame, 4,096. -/
theorem witness_FabricCommandsSendFrames :
    let s := setFab (bound (arriving { withPorts [(0x380, 1), (0x382, 512), (0x385, 0x100C00000)] with claims := [(0, 0)] } (.short 0)))
      someFabric
    let s' := setFab (bound (arriving { withPorts [(0x380, 1), (0x382, 4096), (0x385, 0x100C00000)] with claims := [(0, 0)] } (.short 0)))
      someFabric
    OnTime (myCore s) (someFlight (.short 0)) noStart ∧
    (∀ k ∈ [11, 12, 13, 14], fabFaults s (me s) k 100 = [] ∧ routeFaults s (me s) k = []) ∧ fabFaults s' (me s') 11 100 = [] ∧
    (linkAt (fabOf s) 0).used = [] ∧ deadPeer (fabOf s) (radChip (portOf (myCore s) 0x385)) = false ∧ (myCore s).recvs.length < 16 := by
  unfold OnTime; decide

/-- A frame of 256 bytes for core 0 of gang 1, in its ARRIVE cycle. -/
def herFrame : Frame := ⟨.put, 1, 1, 3, 0, 0, 0x100, 256, 5, List.replicate 256 9, false, false, 0, 0, 0, 100, 2, [], 0, [], 0, 0,
  0, 0, false⟩

theorem witness_FabricArrivalsLand :
    let r : Recv := ⟨1, 3, 0x200, 256, 5, none, 90, 4, 0, 0⟩
    let s := setFab (bound (onCore { claims := [(0, 0)], recvs := [r] })) someFabric
    let x := gangOf s 1
    let c := coreOf s 0
    (ctxOf s x.ctx).gang = 1 + 1 ∧ x.hasRun = true ∧ herFrame.dstCore < x.cores ∧ capturing x = false ∧ coreAt s 1 0 = some 0 ∧
    c.gang = 1 ∧ x.mode = .running ∧
    x.gcyc = herFrame.arrive ∧ matchRecv c herFrame = some r ∧ herFrame.data.take (min 256 herFrame.len) ≠ [] ∧
    claimedAt c 0x100 256 100 = true ∧ c.foreign = [] ∧ matchRecv { c with recvs := [] } herFrame = none ∧ c.frozenAt = none ∧
    herFrame.poison = false ∧ herFrame.uncorr = false ∧ claimedAt c herFrame.addr 4 100 = true ∧
    (let q : Frame := { herFrame with kind := .getRequest, back := [0], data := [] }
     q.kind = .getRequest ∧ ¬(0 + 1 < unitCount q.len) ∧ 0 + 1 < unitCount { q with len := 512 }.len ∧
       ownsPassing s 1 0 = true ∧ (linkAt (fabOf s) 0).used = [] ∧ { q with len := 3 }.len = 3 ∧
       matchRecv c { q with aop := 11 } = some r) := by decide

theorem witness_FabricFramesPassOn :
    let r : Recv := ⟨1, 3, 0, 256, 0, none, 90, 4, 0, 7⟩
    let s := setFab (bound (onCore { recvs := [r] })) someFabric
    let d := setFab s { fabOf s with drops := [(1, 1, 3, 100)] }
    (linkAt (fabOf s) 0).up = true ∧ ownsPassing s 1 0 = true ∧ (linkAt (fabOf s) 0).used = [] ∧ (1 : Nat) ≠ chipOf s ∧
    coreAt s 1 0 = some 0 ∧ (coreOf s 0).frozenAt = none ∧
    (coreOf s 0).recvs.find? (fun r => decide (r.ticket = 7)) = some r ∧
    dropOf (fabOf s) (coreOf s 0).gang (coreOf s 0).idx (some r) none = none ∧
    (dropOf (fabOf d) (coreOf s 0).gang (coreOf s 0).idx (some r) none).isSome = true ∧
    (∀ r ∈ (coreOf s 0).recvs, r.ticket ≠ 8) ∧ (∀ a ∈ (fabOf s).awaited, a.ticket ≠ 8) ∧
    (∀ a ∈ (fabOf s).awaited, a.result = none) ∧
    (let a : Awaited := ⟨8, 0, 90, 1, 3, 100, some 120⟩
     let w := setFab s { fabOf s with awaited := [a] }
     (fabOf w).awaited = [a] ∧ a.result = some 120 ∧ (coreOf w a.core).gang = 1) := by decide

theorem witness_LinkEventsTakeEffect :
    let s := { onCore {} with hub := { fab := someFabric }, pod := 117 }
    let root := setFab s { someFabric with root := true }
    podSize (fabOf s) (15 / 4) ≤ 1 ∧ 1 < podSize (fabOf s) (0 / 4) ∧
    (linkAt (fabOf s) 1).up = false ∧ s.pod = 0 + (trainedOf (fabOf s) 1 (reverseLink 0)).2 ∧ (linkAt (fabOf s) 0).up = true ∧
    (linkAt (fabOf s) 0).nbr = 1 ∧ s.pod ≠ 1 + (trainedOf (fabOf s) 1 (reverseLink 0)).2 ∧ ((fabOf s).root || (fabOf s).aligned) = false ∧
    ((fabOf root).root || (fabOf root).aligned) = true ∧ (linkAt (fabOf s) 0).queue = [] ∧
    (let l : LinkState := { queue := [⟨.alignSend, 1, 0, 0⟩], freeAt := 117 }
     l.freeAt ≤ s.pod ∧ l.queue ≠ [] ∧ l.up = false ∧ { l with up := true }.up = true ∧ s.pod < { l with freeAt := 118 }.freeAt) ∧
    (∀ g, (gangOf State.reset g).hasRun = false) := by
  and_intros <;> first | exact fun _ => rfl | decide

/-- Member index 0 of the context's one group, pair 320, active, the turn the core's; a snapshot with a ready entry. -/
theorem witness_MailboxOperationsTakeEffect :
    let on := fun (c : Core) => let s := bound (arriving c (.short 0)); setEnv s { envOf s with grpactive := [(5, 1)] }
    let s := on { withPorts [(0x3C1, 512)] with claims := [(0, 0)], snaps := [(99, 0, [(15, 2)])] }
    let snap : Table Byte := [(15, 2)]
    mbPair s 1 0 = some 320 ∧ engineLen 512 4096 = true ∧ engineSpan 0 512 32 = true ∧ engineClaimed (myCore s) 0 512 100 = true ∧
    (portOf (myCore s) 0x3C1).getLsbD 13 = false ∧ pairActive s 320 = true ∧ turnOf s 320 = false ∧
    snapFor (myCore s) 99 0 = some snap ∧ (leNat (tbytes 0 snap 12 4)).testBit 25 = true ∧ mbPair s 1 64 = none ∧
    (myCore s).frozenAt = none ∧ pairActive (bound (arriving {} (.short 0))) 320 = false ∧
    turnOf (setTurn s 320 true) 320 = true ∧ snapFor {} 99 0 = none ∧
    (let i := { on {} with cur := ⟨0, 0, none⟩ }
     let m : Mv := ⟨always, .short 0⟩
     i.cur.flight = none ∧ streamSource m.src = none ∧ guardOf (myCore i) m.g = true ∧ i.looking = false ∧
       (mailGroupsOf i (coreGang i (me i)).ctx)[0]? = some 5 ∧ (coreGang i (me i)).mode = .running ∧
       (grpctlOf i 5).getLsbD 0 = false ∧ groupReady i 5 = false ∧
       (grpctlOf (setEnv i { envOf i with grpctl := [(5, 1)] }) 5).getLsbD 0 = true) ∧
    (let s := on { cmds := [{ someCmd 9 with lad := 320 }, { someCmd 10 with id := 1, lad := 320, dst := 3 }] }
     let t := putMb s 320 0x200C [1]
     cmdOf (coreOf s 0) 0 = some { someCmd 9 with lad := 320 } ∧ isVoided (coreOf s 0) 100 0 256 = false ∧
       cmdOf (coreOf t 0) 1 = some { someCmd 10 with id := 1, lad := 320, dst := 3 } ∧ mbStatus t 320 0x2000 = 1 ∧
       (grpctlOf t (320 / 64)).getLsbD 1 = false ∧ (someCmd 9).len ≤ 4096 ∧
       (someCmd 9).bufs.all (fun b => decide (b.2.1.length = min 256 ((someCmd 9).len - 256 * b.1))) = true) := by decide

/-- A host access and a hart's, refused with no slot reserved; a share of one slot, empty and full; an access that waits for its
bank, for an earlier one to its sector, and for a slot, within its 448 cycles and at their end; one that is served. -/
theorem witness_UntimedAccessesComplete :
    let a : Untimed := ⟨0x3010, .dram, true, 0, [1], 0, false, 0, 0, false⟩
    let s := setDram State.reset { slotmaps := [(0, 1)] }
    let ps := fun (p : State) xs => setDram p { dramOf p with pending := xs }
    (a.space = .dram ∧ (slotMapOf State.reset (homeOf a.addr) = 0 ∨ pageBlocked State.reset a.addr = true)) ∧
    agentClass a.agent ≠ 4 ∧ agentClass (agentId 4 5) = 4 ∧ hartReaches s { a with agent := agentId 4 5 } = false ∧
    ¬(slotMapOf s (homeOf a.addr) = 0 ∨ pageBlocked s a.addr = true) ∧ shareFull s a = false ∧
    shareFull (ps s [{ a with addr := 128 }, { a with addr := 256 }]) a = true ∧
    a ∉ (dramOf s).pending ∧ a ∈ (dramOf (ps s [a])).pending ∧
    mitigating (setDram s { dramOf s with pending := [a], busyBanks := [(0, 5)] }) a = true ∧
    (let r := ps (onCore {}) [a]
     a ∈ (dramOf r).pending ∧ serviceOf r a = none ∧ r.pod < a.received + 448 ∧ a.received + 448 ≤ { r with pod := 448 }.pod) ∧
    (let b := { a with tag := 1 }
     ((dramOf (ps s [b, a])).pending.takeWhile fun c => decide (c ≠ a)).filter (fun c => completesFirst s c a) ≠ []) ∧
    (let r := ps s [a]
     mitigating r a = false ∧ serviceOf r a ≠ none ∧ (houseOf r).recovery = false ∧
       ((dramOf r).pending.takeWhile fun c => decide (c ≠ a)).filter (fun c => completesFirst s c a) = []) ∧
    a.write = true ∧ { a with write := false }.write = false ∧ agentClass a.agent ≠ 6 ∧ apertureAddr s 16 0 0 1 true = none ∧
    (let t := setPart (setPart (setCtx s 1 { vdid := 16, map := [(0, 1)] }) 16 { cores := [(0, true)], apertures := [(0, (2, 0))] })
      (l1Above 16) { cores := [(0, true)] }
     apertureAddr t 16 0 0x1FFFFF 1 true = some 0x1FFFFF) := by decide

/-- Region 0 claimed, region 1 the context's own, region 63 another's; the threshold of WDOGLIMIT 64; a run of one ended core. -/
theorem witness_ClaimsTakeEffectAndUpkeepRuns :
    let s := bound (arriving { claims := [(0, 0)], owners := [(1, 1), (63, 2)], wdogBase := 100, owed := 3, records := [] } (.short 63))
    let c := myCore s
    let x := gangOf s 1
    s.cur.flight = some (someFlight (.short 63)) ∧ (∃ e ∈ c.claims, e.1 = 0) ∧ ¬(∃ e ∈ c.claims, e.1 = 1) ∧
    (tget 0 c.owners 1 = x.ctx ∧ x.ctx ≠ 0) ∧ ¬(∃ e ∈ c.claims, e.1 = 63) ∧ ¬(tget 0 c.owners 63 = x.ctx ∧ x.ctx ≠ 0) ∧
    s.looking = false ∧ x.mode = .running ∧ x.hasRun = true ∧ c.gang ≠ noGang ∧
    (let h := modGang s 1 fun y => { y with holds := [⟨0, 164, .rclaim, 0, 64512, none⟩] }
     (h.gangs.map (·.1)).find? (fun g => hasHold h g .rclaim (0 + 1024 * 63)) = some 1 ∧ (coreOf h 0).gang = 1 ∧
       tget 0 (coreOf h 0).owners 63 ≠ (gangOf h 1).ctx ∧
       ∀ e ∈ (tget {} h.hub.regions ((gangOf h 1).ctx * 2 ^ 16 + 0 * 64 + 63)).data, e.1 < 65536) ∧
    (let w := modGang s 1 fun y => { y with wdog := 64 }
     (coreOf w 0).running = true ∧ (gangOf w 1).wdog ≠ 0 ∧ (gangOf w 1).gcyc + (gangOf w 1).h = (coreOf w 0).wdogBase + (gangOf w 1).wdog) ∧
    x.wdog = 0 ∧ 4 ≤ c.owed + 1 ∧ dmaBlocked s 16 = false ∧ (coreOf (onCore {}) 0).owed + 1 < 4 ∧ c.frozenAt = none ∧ (0 : Nat) < 1024 ∧ 63 < 64 ∧
    (let q := setPart s 16 { evSize := 4 }
     logPage q 16 = 16 ∧ logSize (partOf q 16) = some 16 ∧
       ((partOf q 16).evHead - (partOf q 16).evTail).toNat + c.records.length ≤ 16) ∧
    (coreOf (onCore { frozenAt := some 100 }) 0).frozenAt ≠ none ∧
    (let o := modGang (bound (setCore (onCore {}) 0 { gang := 1 })) 1 fun y => { y with req := { fence := 0x1F8 }, runlist := 0x200 }
     (gangOf o 1).hasRun = true ∧ (∀ k ∈ gangCores o 1, (coreOf o k).running = false) ∧ runOver o 1 = true ∧ isLeader o 1 = true ∧
       devAddr o (gangOf o 1).ctx (gangOf o 1).req.fence = some 0x1F8 ∧ devAddr o (gangOf o 1).ctx ((gangOf o 1).runlist + 8) = some 0x208 ∧
       (ctxOf o (gangOf o 1).ctx).protect = false ∧ 0x1F8 + 8 ≤ 0x208 ∧
       runOver (setCore o 0 { gang := 1, cmds := [someCmd 0] }) 1 = false ∧
       coresOver (setCore o 0 { gang := 1, cmds := [someCmd 0] }) 1 = false ∧
       (let z := modGang o 1 fun y => { y with memberCount := 2, members := [0, 1] }
        coresOver z 1 = true ∧ runOver z 1 = false)) ∧
    ¬(∀ k ∈ gangCores s 1, (coreOf s k).running = false) := by decide

/-- A running gang and one that does not run; a resume due now, with a released hold at its freeze; a HOLD a cycle late, at the
cycle, to come, and attached; a RELEASE of a hold that was the last open one, and of one that was not. -/
theorem witness_HoldsStopAndResumeTime :
    let s := onCore {}
    let x := gangOf s 1
    let held := fun (r : Option Nat) => { x with mode := .held, frozenAt := 100, frozenPod := 7, holds := [⟨3, 100, .debug, 0, 0, r⟩] }
    let f := { setGang s 1 { held (some 2) with resume := some 66, fsa := [herFrame] } with pod := 66 }
    let y := { held none with holds := (held none).holds.map fun h => if h.number = 3 then { h with released := some 9 } else h }
    x.mode = .running ∧ (gangOf s 2).mode ≠ .running ∧ (∃ h ∈ (held none).holds, h.number = 3 ∧ h.released = none) ∧
    canonical f ∧ (1 : Nat) ≠ noGang ∧ (gangOf f 1).mode = .held ∧ (gangOf f 1).resume = some f.pod ∧
    holdsFinal (gangOf f 1) = true ∧ herFrame ∈ (gangOf f 1).fsa ∧ (coreOf f 0).gang = 1 ∧ (coreOf f 0).running = true ∧
    (coreOf f 0).stopped = false ∧ ¬((gangOf s 1).mode = .held) ∧ (x.mode ≠ .held ∧ 99 < x.gcyc) ∧ x.hasRun = true ∧
    ¬(x.mode ≠ .held ∧ 100 < x.gcyc ∨ x.mode = .held ∧ 100 < x.frozenAt) ∧ (100 : Nat) = x.gcyc ∧
    ((held none).mode = .held ∧ 100 = (held none).frozenAt ∧ lastRelease (held none) = none) ∧
    (lastRelease (gangOf f 1) = some 7 ∧ (gangOf f 1).swapIn = none ∧ (attachedHolds (gangOf f 1)).any (fun h => decide (h.cause = .debug)) = true) ∧
    holdsFinal { held none with holds := (held none).holds.map fun h => if h.number = 4 then { h with released := some 9 } else h } = false ∧
    holdsFinal y = true ∧ (gangOf s 2).hasRun = false := by
  unfold canonical
  and_intros <;> first | exact ⟨_, List.mem_cons_self, by decide⟩ | decide

/-- A gang image of one core with no sections at linear address 0 (its digest by SHA-256), a run list with one request at
0x80. -/
def imageBytesOf : Table Byte :=
  [(0, 73), (1, 71), (2, 82), (3, 78), (4, 1), (8, 1), (10, 1), (16, 128), (25, 16)] ++
  [(64, 22), (65, 81), (66, 21), (67, 121), (68, 60), (69, 176), (70, 83), (71, 8), (72, 158), (73, 220), (74, 203), (75, 25),
   (76, 161), (77, 242), (78, 180), (79, 7), (80, 142), (81, 241), (82, 106), (83, 166), (84, 75), (85, 114), (86, 217), (87, 233),
   (88, 39), (89, 222), (90, 127), (91, 3), (92, 2), (93, 32), (94, 227), (95, 89)] ++
  [(128, 78), (129, 85), (130, 82), (131, 76), (132, 1), (208, 248), (209, 1), (216, 5)]

/-- Gang 1 with no run, its context's page 0 with that image and list, its partition with core 0 and a power share. -/
def readyState : State :=
  let s := setGang State.reset 1 { ctx := 1, vdid := 16, runlist := 128 }
  let s := setCtx s 1 { vdid := 16, gang := 2, map := [(0, 1)] }
  let s := setDram s { dramOf s with bytes := imageBytesOf }
  let s := setAuth s { authOf s with coreSets := [(0, [0])], cells := [(0, 0x1000001)] }
  setPart (setPart s 16 { cores := [(0, true)], power := 4 }) (l1Above 16) { cores := [(0, true)], power := 4 }

def readyRequest : Request := { fence := 0x1F8, fnum := 5 }

def readyImage : GangImage := ⟨1, 1, 4096, 0, 0, 0, false, []⟩

theorem ready_readiness : readiness readyState 1 = .yes readyRequest 0 := by decide +kernel

theorem ready_admission : admission readyState 1 readyRequest = .ok readyImage := by decide +kernel

/-- FIPS 180-4's example: SHA-256 of "abc". -/
theorem test_sha256 : leNat (sha256 [0x61, 0x62, 0x63]).reverse =
    0xba7816bf8f01cfea414140de5dae2223b00361a396177a9cb410ff61f20015ad := by decide +kernel

/-- A running gang with a vote stage. -/
def voting (st : VoteStage) (x : Gang) : State :=
  let s := bound (setGang (onCore {}) 1 { x with vote := { x.vote with stage := st } })
  setPart s 16 { power := 4 }

/-- PREPARE with T_HALT 100, the gang's cycle, and its deadline. -/
def somePrepare (dirIn : Bool) : VoteFrame := ⟨1, dirIn, false, false, 9, 0, 100, 32768, 0, 0, 0, 0, 0, 0, 0⟩

theorem witness_VotesSent :
    let s := voting .run someGang
    let d := voting .run { someGang with loops := [⟨0, 0, 0, 0, true, 0, 1, 1, 1, false, 0xFFFF⟩] }
    let o := voting .run { someGang with mode := .out }
    let v := somePrepare false
    let w := { somePrepare true with deadline := 2 ^ 20 - 131072 }
    onSet (gangOf s 1) = true ∧ (gangOf s 1).hasRun = true ∧ (gangOf s 1).vote.stage = .run ∧ (gangOf s 1).mode = .running ∧
    ¬(∃ e ∈ (gangOf s 1).loops, e.kind = 0 ∧ e.drain = true) ∧ (∃ e ∈ (gangOf d 1).loops, e.kind = 0 ∧ e.drain = true) ∧
    (gangOf (voting .run { someGang with mode := .held }) 1).mode = .held ∧ onSet (gangOf s 2) = false ∧
    onSet (gangOf o 1) = false ∧ (gangOf o 1).hasRun = true ∧ onSet (gangOf readyState 1) = false ∧ (gangOf readyState 1).hasRun = false ∧
    v.dirIn = false ∧ (gangOf s v.gang).gcyc ≤ v.tHalt ∧ { v with tHalt := 99 }.tHalt < (gangOf s v.gang).gcyc ∧
    (gangOf s v.gang).gcyc = v.tHalt ∧ w.dirIn = true ∧ gangExists o w.gang = true ∧ gangMayEnter o w.gang = true ∧
    cellTakes o (rowAt (authOf o) (w.deadline + 131072 - 2 ^ (authOf o).slotExp)) w.gang = true ∧
    (gangOf (voting .armed someGang) 1).vote.stage = .armed ∧
    (let h : Frame := { herFrame with arrive := 108 }
     let a := { voting .armed { someGang with fsaSize := 2 ^ 20 } with agenda := [⟨.gang 1, 108, 0, none, .event (.fputArrival h)⟩] }
     (a.agenda.filter (ofGang 1)).filterMap (fun j => arrivingFrame j.task) = [h] ∧ h.gang = 1 ∧ fsaFits (gangOf a 1) h = true) ∧
    leaderOf s 1 = chipOf s ∧ (gangOf (voting .draining someGang) 1).vote.stage = .draining ∧
    (let e := voting .entering { someGang with mode := .out }
     (gangOf e 1).vote.stage = .entering ∧ (gangOf e 1).faulted = false ∧ setKnown e 1 = some true ∧ overRated e 1 = false ∧
       packageOpen e = true ∧ shutOut e (gangOf e 1).vdid (max e.pod (gangOf e 1).vote.boundary) = false ∧
       (houseOf (setHouse e { houseOf e with emergency := true })).emergency = true ∧
       overRated (setPart e 16 { power := 3 }) 1 = true ∧ sleepingIslands e 1 = [] ∧
       setKnown (setPart e 16 { power := 3 }) 1 = some true ∧
       (let z := setHouse e { houseOf e with retained := 1 }
        sleepingIslands { z with hub := { z.hub with images := [(1024, { gang := 1 })] } } 1 ≠ [])) := by decide

/-- A vote of the last member, of one of two; YES with equal counts and with unequal ones; NO. -/
theorem witness_VotesDecided :
    let v : VoteFrame := ⟨1, false, false, false, 9, 0, 0, 0, 0, 0, 0, 3, 3, 0, 0⟩
    let i := { v with dirIn := true, need := 5 }
    let at' := fun (st : VoteStage) => voting st { someGang with vote := { switchNo := 9, boundary := 2 ^ 20, deadline := 0 } }
    let s := at' .armed
    let x := gangOf s 1
    isLeader s 1 = true ∧ x.vote.switchNo = v.switchNo ∧ x.vote.stage = .armed ∧
    (gangOf (at' .entered) 1).vote.stage = .entered ∧ (x.vote.received ++ [v]).length = 1 ∧
    (let y := voting .armed { someGang with memberCount := 2, vote := { switchNo := 9 } }
     ((gangOf y 1).vote.received ++ [v]).length < (gangOf y 1).memberCount) ∧ x.memberCount ≤ (x.vote.received ++ [v]).length ∧
    (∀ u ∈ x.vote.received ++ [v], u.verdict = 0) ∧
    ((x.vote.received ++ [v]).map VoteFrame.sent).sum = ((x.vote.received ++ [v]).map VoteFrame.ended).sum ∧
    ((x.vote.received ++ [{ v with sent := 4 }]).map VoteFrame.sent).sum ≠ ((x.vote.received ++ [{ v with sent := 4 }]).map VoteFrame.ended).sum ∧
    x.hasRun = true ∧ s.hub.delayed = false ∧
    [i].foldl (fun t u => max t (u.origin + u.need)) (max x.vote.boundary (s.pod + x.h)) <
      x.vote.boundary + 2 ^ (authOf s).slotExp - 65536 ∧
    x.vote.boundary + 2 ^ (authOf s).slotExp - 65536 ≤
      [{ i with need := 2 ^ 21 - 65536 }].foldl (fun t u => max t (u.origin + u.need)) (max x.vote.boundary (s.pod + x.h)) ∧
    firstNo [{ v with verdict := 6, chip := 4 }, v, { v with verdict := 2, chip := 3 }] = some { v with verdict := 2, chip := 3 } ∧
    (gangOf (at' .voted) 1).vote.stage = .voted ∧ ¬((gangOf s 2).vote.switchNo = 9) ∧
    (x.vote.deadline = s.pod ∧ x.vote.received.length < x.memberCount) ∧
    (gangOf (at' .voted) 1).vote.deadline + (gangOf (at' .voted) 1).h = { at' .voted with pod := 64 }.pod ∧
    (gangOf (at' .entering) 1).vote.stage = .entering := by decide

/-- A gang at its T_swap and one before it; a start from the one saved image; a written cell of the present row; a frame and
replay entries that perform now. -/
theorem witness_SwitchingSavesAndRestores :
    let x := { someGang with vote := { swap := 50 } }
    let s := { voting .swapping x with pod := 50 }
    let y := { someGang with mode := .out, vote := { stage := .starting, swap := 50 } }
    let img : Core := { s := [(1, 9)], gang := 1, running := true }
    let o := { bound (setGang State.reset 1 y) with pod := 50 }
    let i := { o with hub := { o.hub with images := [(1024, img)] } }
    (gangOf s 1).vote.stage = .swapping ∧ (gangOf s 1).vote.swap ≤ s.pod ∧ ¬((gangOf s 1).vote.swap ≤ { s with pod := 49 }.pod) ∧
    canonical s ∧ (1 : Nat) ≠ noGang ∧ (coreOf s 0).gang = 1 ∧ ¬((coreOf s 1).gang = 1) ∧
    ((gangOf i 1).vote.stage = .starting ∧ (gangOf i 1).vote.swap ≤ i.pod) ∧ (gangOf i 1).hasRun = true ∧
    (houseOf i).emergency = false ∧ (houseOf (setHouse i { houseOf i with emergency := true })).emergency = true ∧
    (ctxOf i (gangOf i 1).ctx).badImage = false ∧
    i.hub.images.filter (fun e => e.1 / 1024 = (gangOf i 1).ctx) = [((gangOf i 1).ctx * 1024 + 0, img)] ∧
    (let a := { authOf s with newCells := [(0, 5)] }
     let w := setAuth s a
     (∀ e ∈ a.newCells, e.1 = 1 → 1 / 16 ≠ rowNow w) ∧ ((0, 5) ∈ a.newCells ∧ 0 / 16 = rowNow w) ∧
       (∀ e' ∈ a.newCells, e'.1 = 0 → e' = (0, 5)) ∧ (∀ e ∈ a.ctxs, e.2.doomed = false)) ∧
    (let d := setCtx s 1 { ctxOf s 1 with doomed := true }
     (ctxOf d 1).doomed = true ∧ 0 < (ctxOf d 1).gang) ∧
    (let f := bound (onCore {})
     (ctxOf f (gangOf f 1).ctx).gang = 1 + 1 ∧ (gangOf f 1).hasRun = true ∧ herFrame.dstCore < (gangOf f 1).cores ∧ capturing (gangOf f 1) = false ∧
       coreAt f 1 herFrame.dstCore = some 0 ∧ (gangOf f 1).mode = .running ∧ (gangOf f 1).gcyc = herFrame.arrive) ∧
    (let e : ReplayEntry := ⟨101, 2, 15, 0, 8, false, false, false, 0, 7⟩
     let x : ReplayEntry := { e with kind := 3, dst := xcopyId, size := 32, addr := 0x100 }
     e.kind = 2 ∧ (resOf 1).isSome = true ∧ isVoided (coreOf (onCore {}) 0) 100 0 8 = false ∧ (destOf 1 9).isSome = true ∧
       resultMeets (onCore {}) 0 .sa = false ∧ { e with kind := 3 }.dst ≠ xcopyId ∧ x.kind = 3 ∧ x.size ≠ 0 ∧ x.flagTag = false ∧
       coreAt (onCore {}) (coreOf (onCore {}) 0).gang (x.addr / 2 ^ 22) = some 0 ∧
       { e with kind := 7 }.kind = 7) := by unfold canonical; decide

theorem witness_SwitchingSavesAndRestores_start :
    let s := { modGang readyState 1 fun x => { x with req := readyRequest, vote := { stage := .starting, swap := 50 } } with pod := 50 }
    (gangOf s 1).vote.stage = .starting ∧ (gangOf s 1).vote.swap ≤ s.pod ∧ (gangOf s 1).hasRun = false ∧
    (houseOf s).emergency = false ∧ admission (openWindow s 1) 1 (gangOf s 1).req = .ok readyImage := by decide +kernel

/-- Pair 320 of episode 7 with the given action and observation STATUS, hart 5 its ENV hart, hart 6 a checker of it. -/
def atPair (act obs : Byte) (turn : Bool) : State :=
  let s := putMb (putMb (putMb State.reset 320 0 [7]) 320 0x0C [act]) 320 0x200C [obs]
  let x : Hart := { role := .env, epid := 7, pair := 320, base := 0x1000, limit := 0x3000, stepBudget := 8, epBudget := 16, entry := 4,
                    running := true, stepFrom := some 0, epFrom := some 0, ctx := 1, winFirst := 2, winCount := 1 }
  let y : Hart := { x with role := .checker, chkBase := 0x5000, chkLimit := 0x6000, chkFirst := 320, chkCount := 1 }
  setTurn (setHart (setHart s 5 x) 6 y) 320 turn

/-- The three stores of an episode, a reward of a finished one; each refused at another STATUS or turn; starts and overruns. -/
theorem witness_HartsStoreAndStart :
    let full := atPair 1 3 false
    let s := atPair 2 2 true
    let ok := fun (s : State) (h p off : Nat) (bs : List Byte) => storeAllowed s (hartView s h) (hartOf s h) p off bs
    ok full 5 320 0x0C [2] = true ∧ (hartOf full 5).stepBudget ≠ 0 ∧ ok s 5 320 0x0C [2] = false ∧
    ok s 5 320 0x3FFF [9] = true ∧ ok full 5 320 0x3FFF [9] = false ∧ ok s 5 320 0x200C [3] = true ∧ ok s 5 320 0x200C [1] = true ∧
    ok full 5 320 0x200C [1] = false ∧ ok full 5 320 0x200C [3] = false ∧
    (hartOf s 5).stepFrom = some 0 ∧ ok full 6 320 0x2010 (leBytes 4 77) = true ∧ ok s 6 320 0x2010 (leBytes 4 77) = false ∧
    (hartOf s 6).role = .checker ∧ (hartOf s 5).role = .env ∧ mbNat s 320 0 3 = (hartOf s 5).epid.toNat ∧
    mbFinal (mbStatus s 320 0x2000) = false ∧ mbFinal (mbStatus full 320 0x2000) = true ∧
    (let a : Untimed := ⟨agentId 4 5, .mailbox, true, 320 * 0x4000 + 0x200C, [3], 0, false, 0, 0, false⟩
     a.space = .mailbox ∧ a.write = true ∧ a.data ≠ [] ∧ (hartOf s (a.agent.toNat % 4096)).role = .env ∧ a.addr % 0x4000 = 0x200C ∧
       storeAllowed s (envOf s).bytes (hartOf s (a.agent.toNat % 4096)) (a.addr / 0x4000) 0x200C a.data = true) ∧
    fenceHolds s 5 = false ∧
    (let w : Untimed := ⟨agentId 4 5, .dram, true, 0x1000, [1], 0, false, 0, 0, false⟩
     fenceHolds (setDram (setHart s 5 { hartOf s 5 with fenced := 1 }) { dramOf s with pending := [w] }) 5 = true) ∧
    (hartOf s 7).role = .idle ∧ windowBlocked s (hartOf s 5) = false ∧
    (let x := hartOf s 5
     let y := hartOf s 6
     let pc := x.base + BitVec.ofNat 64 (4 * x.entry)
     let pd := y.chkBase + BitVec.ofNat 64 (4 * y.entry)
     x.base ≤ pc ∧ pc < x.limit ∧ x.epBudget ≠ 0 ∧ y.chkBase ≤ pd ∧ pd < y.chkLimit ∧
       (let t := { s with pod := 8 }
        x.running = true ∧ x.stepBudget ≠ 0 ∧ x.stepFrom = some 0 ∧ 0 + (4 * (x.stepBudget.toNat + 1) / 5 + 1) ≤ t.pod ∧
          x.epFrom = some 0 ∧ 0 + (4 * (x.epBudget.toNat + 1) / 5 + 1) ≤ { s with pod := 14 }.pod ∧
          ¬(0 + (4 * (x.stepBudget.toNat + 1) / 5 + 1) ≤ { s with pod := 7 }.pod))) ∧
    (let z := setEnv s { envOf s with ended := [(320, 1, 2, 0x8000000000000001)] }
     ∃ w ∈ (envOf z).ended, w.1 = 320 ∧ bdV w.2.2.2 = true) ∧
    (let h := setGang s 1 { someGang with holds := [⟨0, 164, .mbsnap, 0, 5120, none⟩] }
     (0 : Nat) < 1024 ∧ ¬((gangOf h 1).mode = .held ∨ (gangOf h 1).mode = .out) ∧
       (let n := { setGang h 1 { gangOf h 1 with mode := .held, frozenPod := 7 } with pod := 7 }
        (gangOf n 1).mode = .held ∧ (gangOf n 1).frozenPod + 1024 * ((grpctlOf n 5).toNat / 2 ^ 32) = n.pod) ∧
     (h.gangs.map (·.1)).find? (fun q => hasHold h q .mbsnap (0 + 1024 * 5)) = some 1 ∧
       mbReady (setEnv h { envOf h with grpactive := [(5, 1)] }) (64 * 5 + 0) = false) := by decide

theorem witness_PagesAndLinkSecurityTakeEffect :
    let s := setAuth State.reset { authOf State.reset with tdisp := [(1, .locked), (2, .run), (3, .error)], parts := [(16, { vecPending := true })] }
    let t := setCtx (setGang s 1 someGang) 1 { vdid := 16, gang := 2 }
    (0x8000000000000000 : Word).getLsbD 63 = true ∧ (0 : Word).getLsbD 63 = false ∧ (16 : Nat) ≠ 0 ∧ (vectorOf 16).2 = 0 ∧
    (houseOf s).recovery = false ∧ (houseOf (setHouse s { houseOf s with recovery := true })).recovery = true ∧
    levelOf (l1Page 1) = 1 ∧ (5 : Nat) ≠ (vectorOf 16).2 ∧ (partOf s 16).vecPending = true ∧ (1 ≤ 64 ∧ 64 ≤ 64 ∧ 20 ≤ 20 ∧ 20 ≤ 31) ∧
    ¬(1 ≤ 65 ∧ 65 ≤ 64 ∧ 20 ≤ 31 ∧ 31 ≤ 31) ∧
    tdispOf s 1 = .locked ∧ tdispOf s 2 = .run ∧ tdispOf s 3 = .error ∧ tdispOf s 4 = .unlocked ∧
    1 ∈ vfContexts t 1 ∧ (ctxOf t 1).gang = 1 + 1 ∧ (∀ x ∈ vfContexts t 1, (ctxOf t x).protect = false ∧ scrubbing t x = false) ∧
    (let u := setCtx s 1 { vdid := 48 }
     1 ∈ vfContexts u 3 ∧ scrubbing u 1 = false ∧ scrubbing (setScrub u 0 { ctx := 1, done := false }) 1 = true) := by decide

/-- A gang of 1 W above its partition's share of none; 110 °C; a counter at 2; scrubs at the start of a region and of a page. -/
theorem witness_HousekeepingTakesEffect :
    let s := onCore {}
    let x := gangOf s 1
    (houseOf s).held = [] ∧ canonical s ∧ onSet x = true ∧ x.hasRun = true ∧ hasHold s 1 .power 0 = false ∧
    (partOf s x.vdid).power < forecastOf [(1, 1)] 1 ∧ [110].length ≤ 16 ∧ (∃ t ∈ [110], 110 ≤ t) ∧ (∀ t ∈ [109], t < 110) ∧
    (∀ f ∈ [94], f < 95) ∧ State.reset.gangs = [] ∧
    (let l := fun n => setHouse s { houseOf s with leaky := [(.logic 3, ⟨n, 0⟩)] }
     0 < (leakyOf (houseOf (l 2)) (.logic 3)).level ∧ (leakyOf (houseOf s) (.logic 3)).level = 0) ∧
    (let e := fun kind total => setScrub s 7 ⟨1, 0, total, false, [(kind, 896, 5)], [(kind, 896, 5)], [], []⟩
     (scrubOf s 7).done = true ∧ (scrubOf (e 0 256) 7).done = false ∧ (scrubOf (e 0 256) 7).round = (0, 896, 5) :: [] ∧
       tget 0 (scrubOf (e 0 256) 7).units (scrubKey (0, 896, 5)) = 0 ∧ (scrubOf (e 1 8192) 7).round = (1, 896, 5) :: [] ∧
       (scrubOf (e 0 256) 7).queued = [] ∧ (scrubOf (e 0 256) 7).work ≠ []) ∧ (houseOf s).scrubLog = [] := by
  unfold canonical; decide

theorem witness_HousekeepingTakesEffect_share (p : Nat) :
    ((freeRunning State.reset p).map (forecastOf [])).sum ≤ (partOf State.reset p).power := Nat.zero_le _

theorem witness_HousekeepingTakesEffect_sole (n : Nat) (h : n ≠ 1) : (gangOf (onCore {}) n).hasRun = false := by
  have : gangOf (onCore {}) n = {} := by
    simp only [gangOf, onCore, setCore, setGang, tget_tset]
    rw [if_neg h]; rfl
  rw [this]

/-- An outstanding command at the lowest page, its right missing and present; OP 0x0F is not listed. -/
theorem witness_CommandsTaken :
    let s := setPart State.reset 16 { busy := true, cmd := [0, 0, 0, 0], rights := 0x01 }
    let x := partOf s 16
    let ws : List Word := [0, 0, 0, 0]
    opListed 0x0F = false ∧ (partOf State.reset 16).busy = false ∧ x.busy = true ∧
    (∀ e ∈ (authOf s).parts, e.2.busy = true → takenBefore e (16, x) = false) ∧
    runCommand s 16 0x0F (rightsOf s 16) (fun i => (x.cmd.getD i 0).toNat) = .error 3 ∧
    commandRight 0x18 = some 1 ∧ (rightsOf s 16).getLsbD 1 = false ∧ commandRight 0x3C = some 5 ∧ (houseOf s).recovery = false ∧
    (houseOf (setHouse s { houseOf s with recovery := true })).recovery = true ∧
    (3 < ws.length ∧ 0 + 64 ≤ 64 ∧ 2 ^ 64 - 1 < 2 ^ 64) := by
  and_intros <;> first | rfl | decide

theorem witness_CommandsTaken_done : ∃ t v,
    runCommand (setPart (setPart State.reset 0 { busy := true, cmd := [0, 0, 0, 0] }) 0x1010 { cores := [(1023, true)] }) 0 0x05 0x7F
      (fun i => if i = 1 then 1023 + 65536 else 0) = .ok (t, v) := ⟨_, _, rfl⟩

/-- The pages that the witnesses of commands use: VF 1's L1 holds its resources, context 1 is L2 page 16's. -/
def authority : State :=
  let t := fun (n : Nat) => [(n, true)]
  let s := setPart State.reset 0x1010 { cores := t 1023, sets := t 15, cells := t 1023, shares := t 1023, harts := t 255,
                                        mailGroups := t 127, keys := t 2047, envPages := t 262143, power := 4200, rights := 0x7F }
  let s := setPart s 16 { sets := t 0, cells := t 1023, shares := t 1023, harts := t 255, mailGroups := t 127,
                          windows := [(0, ⟨0, 2 ^ 20, true, true, true⟩)], rights := 0x7F, apertures := [(4095, (2, 5))] }
  setCtx (setGang s 1 { mode := .idle, vdid := 16, ctx := 1 }) 1 { vdid := 16, gang := 2, map := [(16383, 0x200001)] }

/-- `w` with the arguments of a command in page `p`'s registers. -/
def asking (w : State) (p : Nat) (as : List Nat) : State :=
  let v := fun i => BitVec.ofNat 64 (as.getD i 0)
  setPart w p { partOf w p with arg0 := v 0, arg1 := v 1, arg2 := v 2, arg3 := v 3 }

/-- The command of the page whose arguments stand in its registers. -/
def commandOf (s : State) (p : Nat) : List Word :=
  let x := partOf s p
  [x.arg0, x.arg1, x.arg2, x.arg3]

/-- `w` with that command of page `p` under way. -/
def underWay (w : State) (p : Nat) (as : List Nat) (fix : List Word → List Word) : State :=
  let s := asking w p as
  setPart s p { partOf s p with busy := true, cmd := fix (commandOf s p) }

/-- The page may ask in `asking`, the package booted; in `underWay` its command is the one to complete, and the page has rights
`m`. -/
def commandStands (w : State) (p : Nat) (as : List Nat) (fix : List Word → List Word) (m : BitVec 7) : Bool :=
  let s := asking w p as
  let u := underWay w p as fix
  let x := partOf s p
  !x.busy && !(houseOf s).recovery && (rightsOf u p &&& m == m) && ([x.arg0, x.arg1, x.arg2, x.arg3].map (·.toNat) == (as ++ [0, 0, 0, 0]).take 4) &&
    ((partOf u p).cmd == fix (commandOf s p)) && (partOf u p).busy &&
    (authOf u).parts.all fun e => !e.2.busy || !takenBefore e (p, partOf u p)

/-- Grants of the last core, set, cell, share, hart, group, key slot and page; of all the power; what is taken back; rights, a
PASID, a core set, the disturbance budget. -/
theorem witness_CommandsOnHoldings_grants :
    let p := 0x1010
    let g := fun as => underWay authority p as id
    let r := fixField 1 8 1 1
    let w := underWay authority p [16, 1, 1023 + 2 ^ 16] r
    (rightsOf w p).getLsbD 6 = true ∧ childOf p 16 = some 16 ∧ levelOf 16 = 2 ∧
    (∀ e ∈ [(1, 1023 + 2 ^ 16, 1023), (2, 15, 15), (3, 63 + 15 * 2 ^ 8, 1023), (4, 15 + 63 * 2 ^ 8, 1023), (5, 255 + 2 ^ 8, 255),
        (6, 127 + 2 ^ 8, 127), (7, 7 + 255 * 2 ^ 8 + 2 ^ 16, 2047), (9, 1023 + 255 * 2 ^ 10 + 2 ^ 18, 262143)],
      commandStands authority p [16, e.1, e.2.1] id 0x40 = true ∧ specKeys e.1 e.2.1 = some [e.2.2] ∧ e.1 ≠ 8 ∧
        holds (g [16, e.1, e.2.1]) p e.1 e.2.2 = true ∧ scrubbed (g [16, e.1, e.2.1]) e.1 [e.2.2] = false ∧
        lockedFor (g [16, e.1, e.2.1]) p 16 = false) ∧
    (∀ e ∈ (authOf (g [16, 1, 1023 + 2 ^ 16])).parts, e.1 ≠ 16 → levelOf e.1 = 2 → ∀ k ∈ [1023], tget false e.2.cores k = false) ∧
    envPageCount (g [16, 9, 1023 + 255 * 2 ^ 10 + 2 ^ 18]) [262143] ≤ 32768 ∧
    commandStands authority p [16, 8, 4200] id 0x48 = true ∧
    dividedPower (g [16, 8, 4200]) p 16 + 4200 % 2 ^ 13 ≤ powerOf (g [16, 8, 4200]) p ∧ lockedFor (g [16, 8, 4200]) p 16 = false ∧
    commandStands authority p [16, 1, 1023 + 2 ^ 16] r 0x40 = true ∧ holds w p 1 1023 = true ∧ lockedFor w p 16 = false ∧
    (let x := setPart w 16 { cores := [(1023, true)] }
     let y := setCtx x 1 { ctxOf w 1 with map := [(0, 1 ||| (1023 <<< 44))] }
     ∃ e ∈ (authOf y).ctxs, e.2.vdid ∈ 16 :: childrenOf 16 ∧ usesResource y e.1 1 [1023] = true ∧ (ctxOf y e.1).gang = 1 + 1) ∧
    commandStands authority p [16, 8, 1] (fixField 1 8 1 0) 0x40 = true ∧
    commandStands authority p [16, 0x7F] id 0x40 = true ∧ (BitVec.ofNat 7 0x7F &&& ~~~(rightsOf (g [16, 0x7F]) p) = 0) ∧
    levelOf p = 1 ∧ commandStands authority p [15, 2 ^ 21 - 1] id 0x40 = true ∧
    commandStands authority 0 [15, 1023 + 2 ^ 16] id 0x40 = true ∧ spanKeys 0 1023 1 1 1024 = some [1023] ∧
    (∀ e ∈ (authOf (underWay authority 0 [15, 1023 + 2 ^ 16] id)).coreSets, e.1 ≠ 15 → ∀ k ∈ e.2, k ∉ [1023]) ∧
    scrubbed (underWay authority 0 [15, 1023 + 2 ^ 16] id) 1 [1023] = false ∧
    coresGranted (underWay authority 0 [15, 1023 + 2 ^ 16] id) [1023] = true ∧
    lockedKey (underWay authority 0 [15, 1023 + 2 ^ 16] id) 0 2 15 = false ∧
    commandStands authority p [16, 5, 2] id 0x40 = true ∧ (2 : Nat) % 4 ≤ 2 ∧ budgetHeld (g [16, 5, 2]) p 5 = true ∧
    lockedFor (g [16, 5, 2]) p 16 = false := by
  and_intros <;> first | exact ⟨_, List.mem_cons_self, by decide +kernel⟩ | decide +kernel

/-- A pod of one chip has no gang elsewhere whose bound GANG could break. -/
theorem witness_CommandsOnHoldings_elsewhere (s : State) (h : fabOf s = {}) : overElsewhere s = false := by
  have one : ∀ a, inPod {} a = true → a = 0 := by
    intro a ha
    simp [inPod, coord, podSize, List.range_succ] at ha
    omega
  have none : ∀ ms : List Nat, pairsOf (ms.filter (inPod {})) = [] := by
    intro ms
    simp only [pairsOf, List.flatMap_eq_nil_iff, List.map_eq_nil_iff, List.filter_eq_nil_iff, List.mem_filter]
    rintro a ⟨_, ha⟩ b ⟨_, hb⟩
    simp [one a ha, one b hb]
  have all : ∀ ms ∈ gangsElsewhere s, pairsOf ms = [] := by
    simp only [gangsElsewhere, h, List.mem_map]
    rintro _ ⟨ms, _, rfl⟩
    exact none ms
  simp only [overElsewhere, List.any_eq_false, List.mem_range]
  intro i hi
  simp [hi, all _ (List.getElem_mem hi)]

/-- No run of the package is bound by a GANG that finds none. -/
theorem witness_CommandsOnHoldings_gang (ms : List Nat) :
    let w := underWay (setCtx authority 1 { vdid := 16, map := [(16383, 0x200001)] }) 16 [2 ^ 24 - 1 + 2 ^ 32, 0, 2 ^ 35 - 64] id
    let u := setGang (modCtx w 1 fun c => { c with gang := 2 ^ 24 }) (2 ^ 24 - 1)
      { ctx := 1, coreset := (ctxOf w 1).coreset, vdid := 16, members := ms, memberCount := 1, runlist := 2 ^ 35 - 64 }
    (∀ e ∈ u.gangs, e.2.hasRun = true → 1 < e.2.memberCount → 2 * worstBound u e.1 ≤ e.2.h) ∧ fabOf u = {} := by
  constructor
  · intro e he hr
    revert hr
    rcases List.mem_cons.1 he with rfl | he
    · intro hr; cases hr
    · rcases List.mem_cons.1 he with rfl | he
      · intro hr; cases hr
      · cases he
  · rfl

/-- Contexts, windows, apertures, gangs, cells and links of VDID 16. -/
theorem witness_CommandsOnHoldings :
    let s := authority
    let u := setCtx s 1 { vdid := 16, map := [(16383, 0x200001)] }
    let a := fun as => underWay s 16 as id
    let c := a [0]
    let m := a [1, 2 ^ 20 - 2 ^ 17]
    let h := a [15, 2 ^ 20, 2 ^ 40, 3]
    let g := underWay u 16 [2 ^ 24 - 1 + 2 ^ 32, 0, 2 ^ 35 - 64] id
    (commandStands s 16 [0] id 1 = true ∧ levelOf 16 = 2 ∧ holds c 16 2 0 = true ∧ freeCtx c = some 2) ∧
    (let t := setAuth s { authOf s with tdisp := [(1, .run)], ideKeys := [(1, 5)] }
     commandStands t 16 [0, 1] id 1 = true ∧ mayProtect (underWay t 16 [0, 1] id) 16 = true) ∧
    (commandStands s 16 [1, 2 ^ 20 - 2 ^ 17] id 1 = true ∧ ownsCtx m 16 1 = true ∧ (2 ^ 20 - 2 ^ 17) % 4096 = 0 ∧
      windowFor (partOf m 16) (2 ^ 20 - 2 ^ 17) (2 ^ 17) false = true ∧ dmaBlocked m 16 = false ∧ scrubAhead m = []) ∧
    (commandStands s 16 [1] id 1 = true ∧ ownsCtx (a [1]) 16 1 = true ∧ (ctxOf (a [1]) 1).gang = 1 + 1) ∧
    (commandStands s 16 [15, 2 ^ 20, 2 ^ 40, 3] id 1 = true ∧ 2 ^ 20 % 4096 = 0 ∧ 2 ^ 40 % 4096 = 0 ∧ vfLocked h (vfOf 16) = false) ∧
    (commandStands s 16 [4095, 1 + 16383 * 2 ^ 12] (fixField 0 63 1 0) 1 = true ∧ commandStands s 16 [4095] (fixField 0 63 1 1) 1 = true ∧
      (let w := underWay s 16 [4095, 1 + 16383 * 2 ^ 12] (fixField 0 63 1 0)
       ownsCtx w 16 (1 % 4096) = true ∧ pagesScrubbed w 1 0 1 = false)) ∧
    (commandStands u 16 [2 ^ 24 - 1 + 2 ^ 32, 0, 2 ^ 35 - 64] id 2 = true ∧ (2 ^ 24 - 1 + 2 ^ 32) / 2 ^ 32 % 4096 = 1 ∧
      ownsCtx g 16 1 = true ∧ (ctxOf g 1).gang = 0 ∧ gangExists g (2 ^ 24 - 1) = false ∧ 2 ^ 35 - 64 < 2 ^ 35 ∧
      ∀ e ∈ g.gangs, e.2.hasRun = false) ∧
    (commandStands s 16 [63 + 15 * 2 ^ 8, 2 ^ 24 + 16 * 2 ^ 27] id 2 = true ∧ (2 ^ 24 + 16 * 2 ^ 27) / 2 ^ 24 % 4 ≠ 3 ∧
      holds (a [63 + 15 * 2 ^ 8, 2 ^ 24 + 16 * 2 ^ 27]) 16 3 (16 * 63 + 15) = true ∧
      namesHolder (a [63 + 15 * 2 ^ 8, 2 ^ 24 + 16 * 2 ^ 27]) 16 (16 * 63 + 15) ((2 ^ 24 + 16 * 2 ^ 27) / 2 ^ 27 % 4096) = true ∧
      lockedKey (a [63 + 15 * 2 ^ 8, 2 ^ 24 + 16 * 2 ^ 27]) 16 3 (16 * 63 + 15) = false) ∧
    commandStands s 16 [15 + 63 * 2 ^ 8, 5] (fixField 1 24 1 0) 2 = true ∧
    commandStands s 16 [15 + 63 * 2 ^ 8, 5] (fixField 1 24 1 1) 2 = true ∧
    (let w := underWay s 16 [15 + 63 * 2 ^ 8, 5] (fixField 1 24 1 0)
     holds w 16 4 (64 * 15 + 63) = true ∧ lockedKey w 16 4 (64 * 15 + 63) = false) := by
  decide +kernel

/-- Group 127, hart 255 with pairs 8,128 to 8,191, a running and a stopped core under the debugger. -/
theorem witness_CommandsOnUnits :
    let s := authority
    let r := setPart (bound (onCore {})) 16 { rights := 0x7F, mailGroups := [(127, true)], harts := [(255, true)] }
    let d := setCtx r 1 { ctxOf r 1 with stop := true }
    let f := setPart (bound (onCore { frozenAt := some 100, stopped := true })) 16 { rights := 0x7F }
    let mode := fun n => fixField 1 0 4 n
    let box := fun n => fixField 1 0 2 n
    let ask : List Nat := [255 + 2 ^ 8 + 8191 * 2 ^ 16, 8, 16, 1 + 16383 * 2 ^ 12 + 2 ^ 26]
    let chk : List Nat := [255 + 2 * 2 ^ 8 + 8128 * 2 ^ 16 + 64 * 2 ^ 32, 8, 16, 1 + 16383 * 2 ^ 12 + 2 ^ 26]
    let h := underWay s 16 ask id
    let q₀ := setHart r 255 { role := .env, ctx := 1 }
    let q := underWay q₀ 16 [255] id
    let words := fun (as : List Nat) => as.map fun n => BitVec.ofNat 64 n
    (commandStands s 16 [127] (box 0) 1 = true ∧ holds (underWay s 16 [127] (box 0)) 16 6 127 = true ∧
      lockedKey (underWay s 16 [127] (box 0)) 16 6 127 = false ∧
      (let u := underWay s 16 [127] (box 0)
       partRuns u (groupPart u 127) = false) ∧
      commandStands r 16 [127] (box 0) 1 = true ∧
      (let u := underWay r 16 [127] (box 0)
       holds u 16 6 127 = true ∧ partRuns u (groupPart u 127) = true) ∧
      commandStands s 16 [127] (box 1) 1 = true ∧ commandStands s 16 [127, 63 * 2 ^ 8] (box 2) 1 = true) ∧
    (commandStands s 16 ask id 1 = true ∧ commandStands s 16 chk id 1 = true ∧ holds h 16 5 255 = true ∧ ownsCtx h 16 1 = true ∧
      pairsHeld h 16 8191 1 = true ∧ pairsHeld h 16 8128 64 = true ∧ 16383 + 1 ≤ 16384 ∧ 8191 + 1 ≤ 8192 ∧ 8128 + 64 ≤ 8192 ∧
      lockedKey h 16 5 255 = false ∧ pagesScrubbed h 1 16383 1 = false ∧
      (∀ i < 1, bdV (tget 0 (ctxOf h 1).map (16383 + i)) = true ∧ bdEnv (tget 0 (ctxOf h 1).map (16383 + i)) = true) ∧
      hartOwner h 255 (words ask) = some 1 ∧ ctxRuns h 1 = false ∧
      commandStands q₀ 16 [255] id 1 = true ∧ holds q 16 5 255 = true ∧ hartOwner q 255 (words [255, 0, 0, 0]) = some 1 ∧ ctxRuns q 1 = true) ∧
    (canonical r ∧ commandStands r 16 [1] (mode 1) 0x10 = true ∧ commandStands r 16 [1] (mode 0) 0x10 = true ∧
      0 < (ctxOf r 1).gang ∧ (1 : Nat) ≠ noGang ∧ (coreOf r 0).gang = 1 ∧ ownsCtx (underWay r 16 [1] (mode 1)) 16 1 = true) ∧
    (let u := underWay d 16 [1] (mode 2)
     commandStands d 16 [1] (mode 2) 0x10 = true ∧ ownsCtx u 16 1 = true ∧
       (gangCores u 1).find? (fun j => (coreOf u j).running && (coreOf u j).frozenAt.isNone) = some 0 ∧ (coreOf u 0).gang = 1 ∧
       (ctxOf u 1).stop = true ∧ (gangOf u 1).mode = .running ∧ u.looking = false) ∧
    (let u := underWay f 16 [1] (mode 3)
     commandStands f 16 [1] (mode 3) 0x10 = true ∧ commandStands f 16 [1] (mode 4) 0x10 = true ∧ ownsCtx u 16 1 = true ∧
       (imageFor u 1 0).isSome = true ∧ dmaBlocked u 16 = false ∧ (u.hub.images.find? fun e => decide (e.1 = 1 * 1024 + 0)) = none) ∧
    (let n : Hold := ⟨0, 164, .watchdog, 0, 0, none⟩
     let h := underWay (setGang s 1 { someGang with vdid := 16, ctx := 1, holds := [n, { n with cause := .debug }] }) 16 [1, 1] id
     commandStands s 16 [1, 1] id 2 = true ∧ commandStands s 16 [1, 2] id 0x10 = true ∧ (gangOf h 1).vdid = 16 ∧
       n ∈ (gangOf h 1).holds ∧ { n with cause := .debug } ∈ (gangOf h 1).holds ∧ n.released = none ∧
       (ctxOf h (gangOf h 1).ctx).badImage = false) ∧
    commandStands s 16 [6] id 4 = true ∧ commandStands s 16 [16] id 0x20 = true ∧ commandStands s 0x1010 [16] id 0x20 = true ∧
    commandStands s 0 [1039] id 0x20 = true ∧ levelOf 0 = 0 ∧ levelOf 0x1010 = 1 ∧ 16 / 16 = vfOf 0x1010 ∧ levelOf 16 = 2 := by
  unfold canonical
  refine ⟨?_, ?_, ?_, ?_, ?_, ?_, ?_, ?_, ?_, ?_, ?_, ?_, ?_, ?_⟩ <;> decide +kernel

/-- An unchanged image's digest holds at its place, another's does not: 64 bytes of a header, its DIGEST at byte 32. -/
theorem witness_CommandsOnUnits_digest :
    let bs := List.replicate 64 (0 : Byte)
    digestOk (bs.take 32 ++ sha256 bs) = true ∧ digestOk bs = false := by decide +kernel

/-- An operand at the end of its range in the last slot that its lane carries; a micro-operation; a well-formed boot image word.
-/
theorem witness_EncodingRoundTrip :
    let m : Mv := ⟨⟨true, 7⟩, .short 0x1FF⟩
    let l : Mv := ⟨⟨false, 0⟩, .limm24 0xFFFFFF⟩
    wellFormed (.add m) = true ∧ moveOf (.add m) = some m ∧ (dstId (.add m)).isSome = true ∧
    (∀ d, dstId (.add m) = some d → laneOk 0 m.src d = true) ∧ 0 + (payloadOf m.src).length < 8 ∧
    wellFormed (.mbstat l) = true ∧ (∀ d, dstId (.mbstat l) = some d → laneOk 2 l.src d = true) ∧ 2 + (payloadOf l.src).length < 8 ∧
    wellFormed .mend = true ∧ (microWord .mend).isSome = true ∧ (encode (.add m)).isSome = true ∧ (encode .mend).isSome = true := by
  refine ⟨by decide, by decide, by decide, ?_, by decide, by decide, ?_, by decide, by decide, by decide, by decide, by decide⟩ <;>
    (intro d h; simp only [dstId] at h; cases h; decide)

theorem witness_StepKeepsCanonical : canonical State.reset ∧ ∃ t, Machine.step State.reset = .next t :=
  ⟨by unfold canonical; decide, _, rfl⟩

/-- An ADD at a bundle's first slot, MEND, an event and an arrival that are due, an idle machine, a bundle that begins. -/
theorem witness_StepRunsDecoded :
    let b := bundleWith (word 0 0 0 0x001 0x081)
    let s := { onCore { latch := b } with issuing := some (.slot 0 0) }
    let u := { onCore { mx := { store := [(9, BitVec.ofNat 64 ((microWord .mend).getD 0))], pc := 9 } } with issuing := some (.micro 0) }
    let e : Job := ⟨.gang 1, 100, 0, some 0, .event (.align 0 0)⟩
    let f : Job := ⟨.gang 1, 100, 0, some 0, .arrive (someFlight (.short 5))⟩
    (∃ i, decodeSlot 0 (slotWord (coreOf s 0).latch 0) (slotWord (coreOf s 0).latch 1) (slotWord (coreOf s 0).latch 2) = .ok i) ∧
    decodeMicro (tget 0 (coreOf u 0).mx.store (coreOf u 0).mx.pc).toNat = .ok .mend ∧
    nextJob { onCore {} with agenda := [e] } = some (e, []) ∧ nextJob { onCore {} with agenda := [f] } = some (f, []) ∧
    e.task = .event (.align 0 0) ∧ f.task = .arrive (someFlight (.short 5)) ∧ State.reset.issuing = none ∧
    nextJob State.reset = none ∧ (∀ e ∈ State.reset.cores, e.2.raised = []) ∧
    (let n := setCore (onCore {}) 0 { gang := 1, running := true, nextIssue := 100, pc := 16383, istore := [(16383, b)] }
     let c := coreOf n 0
     issues n 0 = true ∧ c.doomed = [] ∧ (∀ q ∈ c.deferred, q.charge ≠ gcycOf n 0) ∧ (gcycOf n 0, c.pc) ∉ c.aheadBad ∧ c.raised = [] ∧ c.starts = [] ∧ c.pc < 16384 ∧ c.pc ∉ c.badBundles ∧
       decodeFaults (fetchBundle c (gcycOf n 0)) = [] ∧ c.buffered = [] ∧ c.ahead = []) ∧
    (let c : Core := { pc := 5, badBundles := [5], buffered := [(5, b)] }
     c.pc ∈ c.badBundles ∧ ∃ b ∈ c.buffered, b.1 = c.pc) := by
  refine ⟨⟨_, rfl⟩, rfl, rfl, rfl, rfl, rfl, rfl, rfl, by decide, by decide, by decide, _, List.mem_cons_self, rfl⟩

end Sys2Proof.Tests
end

section
/-! PROOF. The system unit's triggers, a fence that performs, and a result that becomes present (R62, R195, R196, R412, R437). -/

namespace Sys2Proof.Machine

/-! Rules for triggers whose effect is to schedule work. -/

/-- Work scheduled for the running core leaves every core as it is. -/
theorem ownStep_postCore (s : State) (due ph : Nat) (t : Task) :
    OwnStep s (postCore s (me s) due ph t) (myCore s) [ownJob s due ph t] :=
  ⟨rfl, fun _ _ => rfl, rfl, rfl, rfl, rfl, rfl, rfl, rfl, rfl, rfl⟩

theorem ownStep_postDeed (s : State) (due ph : Nat) (d : Deed) :
    OwnStep s (postDeed s (me s) due ph d) (myCore s) [ownJob s due ph (.deed d)] :=
  ownStep_postCore s due ph (.deed d)

/-- At its arrival a trigger changes the notes of its core alone. -/
theorem ownStep_noteTrigger (n : Nat) (fl : Flight) (s : State) :
    OwnStep s (modMe s fun c => noteTrigger n c fl) (noted (myCore s) (noteTrigger n (myCore s) fl)) [] := by
  rw [← noteTrigger_noted]
  exact ownStep_modMe s _

/-- Notes do not change what job is meant by work of the running core. -/
theorem OwnStep.ownJob_eq {s t : State} {c : Core} {js : List Job} (h : OwnStep s t c js)
    (hg : c.gang = (myCore s).gang) (due ph : Nat) (x : Task) : ownJob t due ph x = ownJob s due ph x := by
  simp only [ownJob, h.myCore_eq, h.me_eq, hg]

/-- A trigger completes when its effect, after the notes of its arrival, is to schedule work of its own core. -/
theorem completes_of_schedules {i : Instr} {m : Mv} {s : State} {fl : Flight} {e : Flight → State → State} {js : List Job}
    (h : s.cur.flight = some fl) (hx : exec i s = trigger i m s e)
    (he : ∀ u d, OwnStep s u (noted (myCore s) d) [] → OwnStep u (e fl u) (myCore u) js) :
    Completes i s (myCore s) js := by
  rw [trigger_arrival _ _ _ _ _ h] at hx
  have arrival := ownStep_noteTrigger ((dstId i).getD 0 / 64) fl s
  have effect := he _ _ arrival
  rw [arrival.myCore_eq] at effect
  have whole := arrival.trans effect
  refine ⟨_, hx, whole.noted, ?_⟩
  rw [whole.core, ← noteTrigger_noted]
  exact noteTrigger_raises _ _ _

/-! What the system unit's rows of `exec` are. -/

theorem exec_trap (m : Mv) (s : State) : exec (.trap m) s = execTrap m s := rfl
theorem exec_wpt (m : Mv) (s : State) : exec (.wpt m) s = execWpt m s := rfl
theorem exec_intv (m : Mv) (s : State) : exec (.intv m) s = execIntv m s := rfl
theorem exec_fence (m : Mv) (s : State) : exec (.fence m) s = execFence m s := rfl

/-! TRAP (R412). -/

@[simp] theorem noteTrigger_frozenAt (n : Nat) (c : Core) (fl : Flight) : (noteTrigger n c fl).frozenAt = c.frozenAt := by
  rw [noteTrigger_noted]; rfl

/-- On a core that no fault has frozen, a check that reads no port charges its fault to its own move. -/
theorem raiseFor_charges_own_move (c : Core) (fl : Flight) (code : Nat) (a b d : Word) (h : c.frozenAt = none) :
    ⟨code, fl.issue, fl.bundle, fl.slot, a, b, d⟩ ∈ (raiseFor c fl [] code a b d).raised := by
  show _ ∈ (addRaise c ⟨code, fl.issue, fl.bundle, fl.slot, a, b, d⟩).raised
  rw [addRaise_live _ _ h]
  simp

theorem trap_raises (s : State) (fl : Flight) (m : Mv) (h : s.cur.flight = some fl) (hf : (myCore s).frozenAt = none) :
    ∃ t, exec (.trap m) s = .next t ∧ t.agenda = s.agenda ∧ (∀ k, k ≠ me s → coreOf t k = coreOf s k) ∧
      ∃ r ∈ (coreOf t (me s)).raised,
        r.code = 0x1E ∧ r.charge = fl.issue ∧ r.bundle = fl.bundle ∧ r.a = scalarIn .z fl.val := by
  have arrival := ownStep_noteTrigger ((dstId (.trap m)).getD 0 / 64) fl s
  have raise := ownStep_modMe (modMe s fun c => noteTrigger ((dstId (.trap m)).getD 0 / 64) c fl)
    fun c => raiseFor c fl [] 0x1E (scalarIn .z fl.val) 0 0
  have whole := arrival.trans raise
  refine ⟨_, (exec_trap m s).trans (trigger_arrival _ _ _ _ _ h), by rw [whole.agenda]; simp, whole.others,
    ⟨0x1E, fl.issue, fl.bundle, fl.slot, scalarIn .z fl.val, 0, 0⟩, ?_, rfl, rfl, rfl, rfl⟩
  rw [whole.core]
  exact raiseFor_charges_own_move _ _ _ _ _ _ (by simpa using hf)

/-! WPT, INTV and FENCE: each schedules its effect (R195, R196, R437). -/

theorem wpt_completes (s : State) (fl : Flight) (m : Mv) (h : s.cur.flight = some fl) :
    Completes (.wpt m) s (myCore s)
      [ownJob s (fl.arrive + 1) phEnd (.deed (.csrw (0x0A0 + (scalarIn .z fl.val).toNat % 4) (portOf (myCore s) 0x3C0))),
       ownJob s (fl.arrive + 1) phEnd (.deed (.csrw (0x0A4 + (scalarIn .z fl.val).toNat % 4) (portOf (myCore s) 0x3C1)))] := by
  refine completes_of_schedules h (exec_wpt m s) fun u d hu => ?_
  have hport (n : Nat) : portOf (myCore s) n = portOf (myCore u) n := by rw [hu.myCore_eq]; rfl
  rw [hport, hport, ← hu.ownJob_eq rfl, ← hu.ownJob_eq rfl]
  exact (ownStep_postDeed u _ _ _).trans (ownStep_postDeed (postDeed u (me u) _ _ _) _ _ _)

theorem intv_completes (s : State) (fl : Flight) (m : Mv) (h : s.cur.flight = some fl) :
    Completes (.intv m) s (myCore s) [ownJob s (fl.arrive + 1) phAdvance (.deed .interval)] := by
  refine completes_of_schedules h (exec_intv m s) fun u d hu => ?_
  rw [← hu.ownJob_eq rfl]
  exact ownStep_postDeed u _ _ _

theorem fence_completes (s : State) (fl : Flight) (m : Mv) (h : s.cur.flight = some fl) :
    Completes (.fence m) s (myCore s) [ownJob s (fl.arrive + max (coreGang s (me s)).h 512) phHub
      (.event (.fencePerform (me s) ((scalarIn .z fl.val).setWidth 3)))] := by
  refine completes_of_schedules h (exec_fence m s) fun u d hu => ?_
  have hgang : coreGang u (me u) = coreGang s (me s) := by
    show gangOf u (myCore u).gang = gangOf s (myCore s).gang
    rw [hu.myCore_eq, gangOf, hu.gangs]; rfl
  rw [← hu.ownJob_eq rfl, ← hgang, ← hu.me_eq]
  exact ownStep_postCore u _ _ _

/-! A fence that performs (R195). What an event record or a host write changes is of the authority. -/

/-- The step changes neither cores nor gangs, schedules nothing, and leaves the posted host writes as they are. -/
structure KeepsPosted (s t : State) : Prop where
  cores : t.cores = s.cores
  gangs : t.gangs = s.gangs
  agenda : t.agenda = s.agenda
  posted : (authOf t).posted = (authOf s).posted

theorem KeepsPosted.refl (s : State) : KeepsPosted s s := ⟨rfl, rfl, rfl, rfl⟩

theorem KeepsPosted.trans {s t u : State} (h₁ : KeepsPosted s t) (h₂ : KeepsPosted t u) : KeepsPosted s u :=
  ⟨h₂.cores.trans h₁.cores, h₂.gangs.trans h₁.gangs, h₂.agenda.trans h₁.agenda, h₂.posted.trans h₁.posted⟩

/-- What every item of a list keeps, the list keeps. -/
theorem KeepsPosted.foldl {α : Type} {f : State → α → State} (h : ∀ s a, KeepsPosted s (f s a)) (as : List α) (s : State) :
    KeepsPosted s (as.foldl f s) := by
  induction as generalizing s with
  | nil => exact .refl s
  | cons a as ih => exact (h s a).trans (ih (f s a))

theorem keepsPosted_setPart (s : State) (p : Nat) (x : Partition) : KeepsPosted s (setPart s p x) := ⟨rfl, rfl, rfl, rfl⟩

theorem keepsPosted_putHost (s : State) (p a : Nat) (bs : List Byte) : KeepsPosted s (putHost s p a bs) :=
  ⟨rfl, rfl, rfl, rfl⟩

theorem keepsPosted_sendVector (s : State) (p : Nat) : KeepsPosted s (sendVector s p) := by
  unfold sendVector
  split
  · exact keepsPosted_setPart ..
  · exact ⟨rfl, rfl, rfl, rfl⟩

theorem keepsPosted_postRecord (s : State) (p : Nat) (r : EventRec) : KeepsPosted s (postRecord s p r) := by
  unfold postRecord
  dsimp only
  split
  · exact .refl s
  · split
    · exact keepsPosted_setPart ..
    · exact ((keepsPosted_putHost ..).trans (keepsPosted_setPart ..)).trans (keepsPosted_sendVector ..)

theorem keepsPosted_postProgramEvent (s : State) (p kind : Nat) (data : List Nat) (fault : List Byte) :
    KeepsPosted s (postEvent s p .program kind data fault) := by
  unfold postEvent
  dsimp only
  split
  · exact (keepsPosted_postRecord ..).trans (keepsPosted_postRecord ..)
  · exact keepsPosted_postRecord ..

theorem keepsPosted_landHostWrite (s : State) (w : HostWrite) : KeepsPosted s (landHostWrite s w) := by
  unfold landHostWrite
  split
  · exact keepsPosted_postProgramEvent ..
  · exact keepsPosted_putHost ..

/-- What a flush leaves of the posted writes: those of other cores, and those read at cycle `a` or later. -/
theorem flushPosted_keeps (s : State) (k a : Nat) :
    let t := flushPosted s k a
    t.cores = s.cores ∧ t.gangs = s.gangs ∧ t.agenda = s.agenda ∧
      (authOf t).posted = (authOf s).posted.filter fun w => !decide (w.core = k ∧ w.readAt < a) := by
  obtain ⟨hcores, hgangs, hagenda, hposted⟩ := KeepsPosted.foldl keepsPosted_landHostWrite
    ((authOf s).posted.filter fun w => decide (w.core = k ∧ w.readAt < a))
    (setAuth s { authOf s with posted := (authOf s).posted.filter fun w => !decide (w.core = k ∧ w.readAt < a) })
  exact ⟨hcores, hgangs, hagenda, hposted⟩

/-- The flush of a fence's HOST scope, where it has one (R195). -/
theorem flushPosted_ifHost (s : State) (k a : Nat) (host : Bool) :
    let t := if host then flushPosted s k a else s
    t.cores = s.cores ∧ t.gangs = s.gangs ∧ t.agenda = s.agenda ∧
      (authOf t).posted = (authOf s).posted.filter fun w => !(host && decide (w.core = k ∧ w.readAt < a)) := by
  cases host with
  | true => simpa using flushPosted_keeps s k a
  | false => simp

theorem fencePerform_completes (s : State) (k : Nat) (scope : BitVec 3) :
    ∃ t, exec (.fencePerform k scope) s = .next t ∧ t.cores = s.cores ∧ t.gangs = s.gangs ∧
      (authOf t).posted = (authOf s).posted.filter (fun w => !(scope.getLsbD 0 &&
        decide (w.core = k ∧ w.readAt < gcycOf s k - max (coreGang s k).h 512))) ∧
      t.agenda = s.agenda ++
        (if scope.getLsbD 2 then
          [⟨.gang (coreOf s k).gang, gcycOf s k, phAdvance, none, .deed (.pkgInterval (coreOf s k).gang)⟩] else []) ++
        [⟨.gang (coreOf s k).gang, gcycOf s k, phAdvance, some k, .deed .interval⟩] := by
  obtain ⟨hcores, hgangs, hagenda, hposted⟩ :=
    flushPosted_ifHost s k (gcycOf s k - max (coreGang s k).h 512) (scope.getLsbD 0)
  refine ⟨_, rfl, ?_⟩
  unfold fenceLead leadOf
  generalize (if scope.getLsbD 0 = true then flushPosted s k (gcycOf s k - max (coreGang s k).h 512) else s) = u at *
  have hgang : (coreOf u k).gang = (coreOf s k).gang := by simp only [coreOf, hcores]
  cases scope.getLsbD 2 with
  | true => exact ⟨hcores, hgangs, hposted, by simp [postGangDeed, hagenda, hgang]⟩
  | false => exact ⟨hcores, hgangs, hposted, by simp [hagenda, hgang]⟩

/-! A result that becomes present (R62, R145). -/

theorem resultOf_setResult_self (c : Core) (p : ResultPort) (v : Vec) (h : isVecPort p = false) :
    resultOf (setResult c p v) p = v.setWidth 64 := by
  simp [setResult, h, resultOf]

theorem resultOf_setResult_ne (c : Core) {p q : ResultPort} (v : Vec) (h : isVecPort p = false) (hq : resId q ≠ resId p) :
    resultOf (setResult c p v) q = resultOf c q := by
  simp [setResult, h, resultOf, hq]

theorem vresOf_setResult_self (c : Core) (p : ResultPort) (v : Vec) (h : isVecPort p = true) :
    vresOf (setResult c p v) p = v := by
  simp [setResult, h, vresOf]

theorem vresOf_setResult_ne (c : Core) {p q : ResultPort} (v : Vec) (h : isVecPort p = true) (hq : resId q ≠ resId p) :
    vresOf (setResult c p v) q = vresOf c q := by
  simp [setResult, h, vresOf, hq]

theorem operationComplete_completes (s : State) (k : Nat) (p : ResultPort) (v : Vec) (f : Flags) :
    ∃ t, exec (.operationComplete k p v f) s = .next t ∧ t.agenda = s.agenda ∧ t.hub = s.hub ∧
      (∀ j, j ≠ k → coreOf t j = coreOf s j) ∧ coreOf t k = addFlags (setResult (coreOf s k) p v) f :=
  ⟨_, rfl, rfl, rfl, fun _ hj => coreOf_modCore_ne _ _ hj, coreOf_modCore_self _ _ _⟩

/-- Settles O28: each trigger schedules its effect after the notes of its arrival, a fence lands the writes that it covers one
after the other, and a completion writes its own result port. -/
theorem systemTriggersTakeEffect : Obligations.SystemTriggersTakeEffect := by
  unfold Obligations.SystemTriggersTakeEffect
  refine ⟨fun s fl m h => ⟨trap_raises s fl m h, wpt_completes s fl m h, intv_completes s fl m h, fence_completes s fl m h⟩,
    fencePerform_completes, fun _ _ _ => rfl, fun s k p v f => ?_, fun _ _ => rfl, by decide⟩
  obtain ⟨t, hexec, hagenda, hhub, hothers, hcore⟩ := operationComplete_completes s k p v f
  refine ⟨t, hexec, hagenda, hhub, hothers, ?_⟩
  rw [hcore]
  refine ⟨congrArg (· ||| f) (setResult_flags ..), setResult_s .., setResult_v .., setResult_scratch .., setResult_ports ..,
    fun hp => ?scalar, fun hp => ?vector⟩
  case scalar => exact ⟨resultOf_setResult_self _ p v hp, fun q hq => resultOf_setResult_ne _ v hp hq⟩
  case vector => exact ⟨vresOf_setResult_self _ p v hp, fun q hq => vresOf_setResult_ne _ v hp hq⟩

end Sys2Proof.Machine
end

section
/-! PROOF. The integer operations of the scalar ALU (R60, R343, R344, R353, R376, R394, R398, R399, R407, R408, R411, R440). -/

namespace Sys2Proof.Machine

section
/-! The operands that an operation latches once its trigger's value `b` has entered port sa.b (R60). -/

variable {s t : State} {b : Word} {d : Core}
  (entered : myCore t = noted { myCore s with ports := tset 0 (myCore s).ports 0x081 b } d)
include entered

theorem portOf_entered_ne {n : Nat} (h : n ≠ 0x081) : portOf (myCore t) n = portOf (myCore s) n := by
  rw [entered]
  exact portOf_setPort_ne (myCore s) b h

theorem saA_entered : saA t = portOf (myCore s) 0x080 := portOf_entered_ne entered (by decide)

theorem saQ_entered : saQ t = (portOf (myCore s) 0x083).toNat := congrArg BitVec.toNat (portOf_entered_ne entered (by decide))

theorem saB_entered : saB t = b := by
  rw [saB, entered]
  exact portOf_setPort_self (myCore s) 0x081 b

theorem predOf_entered (n : Nat) : predOf (myCore t) n = predOf (myCore s) n := by
  rw [entered]
  rfl

end

/-- An integer operation gives its function of port sa.a and the value that enters sa.b, and no flag (R60, R67). -/
theorem saInt_gives {i : Instr} {m : Mv} {cls : ImmClass} {lat : Nat} {f : Word → Word → Word} {s : State} {fl : Flight}
    {r : Word} (h : s.cur.flight = some fl) (hx : exec i s = saInt i m cls lat f s)
    (hr : f (portOf (myCore s) 0x080) (scalarIn cls fl.val) = r) : SaGives i s (scalarIn cls fl.val) lat r 0 := by
  refine saGives_of i m cls lat s fl (fun t => (f (saA t) (saB t), 0)) (r, 0) h hx fun t d entered => ?_
  simp only [saA_entered entered, saB_entered entered, hr]

/-! What the rows of `exec` for the integer operations of SA are. -/

theorem exec_add (m : Mv) (s : State) : exec (.add m) s = saInt (.add m) m .s 1 (fun a b => a + b) s := rfl
theorem exec_sub (m : Mv) (s : State) : exec (.sub m) s = saInt (.sub m) m .s 1 (fun a b => a - b) s := rfl
theorem exec_mul (m : Mv) (s : State) : exec (.mul m) s = saInt (.mul m) m .s 3 (fun a b => a * b) s := rfl
theorem exec_mulh (m : Mv) (s : State) : exec (.mulh m) s = saInt (.mulh m) m .s 3 mulHigh s := rfl
theorem exec_mulhu (m : Mv) (s : State) : exec (.mulhu m) s = saInt (.mulhu m) m .z 3 mulHighU s := rfl
theorem exec_and (m : Mv) (s : State) : exec (.and m) s = saInt (.and m) m .s 1 (fun a b => a &&& b) s := rfl
theorem exec_or (m : Mv) (s : State) : exec (.or m) s = saInt (.or m) m .s 1 (fun a b => a ||| b) s := rfl
theorem exec_xor (m : Mv) (s : State) : exec (.xor m) s = saInt (.xor m) m .s 1 (fun a b => a ^^^ b) s := rfl
theorem exec_andn (m : Mv) (s : State) : exec (.andn m) s = saInt (.andn m) m .s 1 (fun a b => a &&& ~~~b) s := rfl
theorem exec_shl (m : Mv) (s : State) : exec (.shl m) s = saInt (.shl m) m .z 1 (fun a b => a <<< shiftAmount b) s := rfl
theorem exec_shr (m : Mv) (s : State) : exec (.shr m) s = saInt (.shr m) m .z 1 (fun a b => a >>> shiftAmount b) s := rfl
theorem exec_sra (m : Mv) (s : State) :
    exec (.sra m) s = saInt (.sra m) m .z 1 (fun a b => a.sshiftRight (shiftAmount b)) s := rfl
theorem exec_min (m : Mv) (s : State) : exec (.min m) s = saInt (.min m) m .s 1 (fun a b => if b.slt a then b else a) s := rfl
theorem exec_minu (m : Mv) (s : State) :
    exec (.minu m) s = saInt (.minu m) m .z 1 (fun a b => if b.ult a then b else a) s := rfl
theorem exec_max (m : Mv) (s : State) : exec (.max m) s = saInt (.max m) m .s 1 (fun a b => if a.slt b then b else a) s := rfl
theorem exec_maxu (m : Mv) (s : State) :
    exec (.maxu m) s = saInt (.maxu m) m .z 1 (fun a b => if a.ult b then b else a) s := rfl
theorem exec_clz (m : Mv) (s : State) :
    exec (.clz m) s = saInt (.clz m) m .z 1 (fun _ b => BitVec.ofNat 64 (countLeadingZeros b)) s := rfl
theorem exec_popc (m : Mv) (s : State) :
    exec (.popc m) s = saInt (.popc m) m .z 1 (fun _ b => BitVec.ofNat 64 (popCount b)) s := rfl
theorem exec_sel (m : Mv) (s : State) : exec (.sel m) s = execSel m s := rfl

/-! Arithmetic (R343, R394, R411): the result is that of the integers, modulo 2^64. -/

theorem add_eq_ofNat (a b : Word) : a + b = BitVec.ofNat 64 (a.toNat + b.toNat) := by
  rw [BitVec.ofNat_add, BitVec.ofNat_toNat, BitVec.ofNat_toNat, BitVec.setWidth_eq, BitVec.setWidth_eq]

theorem sub_eq_ofInt (a b : Word) : a - b = BitVec.ofInt 64 ((a.toNat : Int) - b.toNat) := by
  apply BitVec.eq_of_toInt_eq
  rw [BitVec.toInt_ofInt, BitVec.toInt_sub, BitVec.toInt_eq_toNat_bmod, BitVec.toInt_eq_toNat_bmod, Int.bmod_sub_bmod,
    Int.sub_bmod_bmod]

theorem mul_eq_ofNat (a b : Word) : a * b = BitVec.ofNat 64 (a.toNat * b.toNat) := by
  rw [BitVec.ofNat_mul, BitVec.ofNat_toNat, BitVec.ofNat_toNat, BitVec.setWidth_eq, BitVec.setWidth_eq]

/-- Settles O1: each operation gives its function of the latched operands, which is the integers' taken modulo 2^64. -/
theorem scalarArithmeticWritesResult : Obligations.ScalarArithmeticWritesResult := by
  unfold Obligations.ScalarArithmeticWritesResult
  intro s fl m h
  exact ⟨saInt_gives h (exec_add m s) (add_eq_ofNat ..), saInt_gives h (exec_sub m s) (sub_eq_ofInt ..),
    saInt_gives h (exec_mul m s) (mul_eq_ofNat ..), saInt_gives h (exec_mulh m s) rfl, saInt_gives h (exec_mulhu m s) rfl⟩

/-- Settles O3: each operation gives its function of the latched operands; ANDN's word decodes by computation. -/
theorem scalarLogicWritesResult : Obligations.ScalarLogicWritesResult := by
  unfold Obligations.ScalarLogicWritesResult
  intro s fl m h
  exact ⟨saInt_gives h (exec_and m s) rfl, saInt_gives h (exec_or m s) rfl, saInt_gives h (exec_xor m s) rfl,
    saInt_gives h (exec_andn m s) rfl, saInt_gives h (exec_shl m s) rfl, saInt_gives h (exec_shr m s) rfl,
    saInt_gives h (exec_sra m s) rfl, by decide⟩

/-! Selection (R376): the comparison that the rule words the other way round. -/

theorem ite_slt_eq_ite_toInt_le (a b : Word) : (if b.slt a then b else a) = if a.toInt ≤ b.toInt then a else b := by
  simp only [BitVec.slt_iff_toInt_lt, ← not_le, ite_not]

theorem ite_ult_eq_ite_toNat_le (a b : Word) : (if b.ult a then b else a) = if a.toNat ≤ b.toNat then a else b := by
  simp only [BitVec.ult_iff_toNat_lt, ← not_le, ite_not]

/-! Counts of bits (R353, R399). -/

/-- The leading zeros of a word stand above its highest one, at `log2`. -/
theorem countLeadingZeros_add_log2 {b : Word} (hb : b ≠ 0) : countLeadingZeros b + b.toNat.log2 = 63 := by
  have hlog : b.toNat.log2 < 64 := (Nat.log2_lt (BitVec.toNat_ne.1 hb)).2 b.isLt
  rw [countLeadingZeros, if_neg hb]
  omega

theorem countLeadingZeros_le (b : Word) : countLeadingZeros b ≤ 64 := by
  unfold countLeadingZeros
  split <;> omega

theorem getLsbD_of_countLeadingZeros_le {b : Word} {i : Nat} (hi : 64 - countLeadingZeros b ≤ i) : b.getLsbD i = false := by
  by_cases hb : b = 0
  · simp [hb]
  · have hlog := countLeadingZeros_add_log2 hb
    exact Nat.testBit_lt_two_pow (lt_of_lt_of_le Nat.lt_log2_self (Nat.pow_le_pow_right (by decide) (by omega)))

theorem getLsbD_countLeadingZeros {b : Word} (hn : countLeadingZeros b < 64) : b.getLsbD (63 - countLeadingZeros b) = true := by
  have hb : b ≠ 0 := fun hb => by simp [countLeadingZeros, hb] at hn
  have hlog := countLeadingZeros_add_log2 hb
  rw [show 63 - countLeadingZeros b = b.toNat.log2 by omega]
  exact Nat.testBit_log2 (BitVec.toNat_ne.1 hb)

theorem popCount_eq_countP (b : Word) : popCount b = (List.range 64).countP fun i => b.getLsbD i :=
  List.countP_eq_length_filter.symm

/-- SEL gives a or the entering value, as the predicate that q[2:0] names is when they are latched (R407). -/
theorem sel_gives {s : State} {fl : Flight} {m : Mv} {r : Word} (h : s.cur.flight = some fl)
    (hr : (if predOf (myCore s) ((portOf (myCore s) 0x083).toNat % 8) then portOf (myCore s) 0x080
      else scalarIn .s fl.val) = r) : SaGives (.sel m) s (scalarIn .s fl.val) 1 r 0 := by
  refine saGives_of (.sel m) m .s 1 s fl (fun t => (if predOf (myCore t) (saQ t % 8) then saA t else saB t, 0)) (r, 0) h
    (exec_sel m s) fun t d entered => ?_
  simp only [saA_entered entered, saB_entered entered, saQ_entered entered, predOf_entered entered, hr]

/-- Settles O4: MIN and MAX give what their comparison picks, CLZ and POPC the count of b's bits, SEL what its predicate
picks. -/
theorem scalarSelectionWritesResult : Obligations.ScalarSelectionWritesResult := by
  unfold Obligations.ScalarSelectionWritesResult
  intro s fl m h
  refine ⟨saInt_gives h (exec_min m s) (ite_slt_eq_ite_toInt_le ..), saInt_gives h (exec_minu m s) (ite_ult_eq_ite_toNat_le ..),
    saInt_gives h (exec_max m s) ?max, saInt_gives h (exec_maxu m s) ?maxu,
    ⟨_, countLeadingZeros_le _, saInt_gives h (exec_clz m s) rfl, fun i hi _ => getLsbD_of_countLeadingZeros_le hi,
      getLsbD_countLeadingZeros⟩,
    saInt_gives h (exec_popc m s) (congrArg _ (popCount_eq_countP _)), sel_gives h rfl⟩
  case max => simp only [BitVec.slt_iff_toInt_lt]
  case maxu => simp only [BitVec.ult_iff_toNat_lt]

end Sys2Proof.Machine
end

section
/-! PROOF. The bitwise vector operations, VSEL, VPERM, the shifts and VIOTA (R60 to R62, R126, R413, R422, R427, R431, R434,
R435). -/

namespace Sys2Proof.Machine

/-! The arrival of a trigger of a vector unit (R60, R61, R413). -/

@[simp] theorem vecInputs_noted (c d : Core) (u : VUnit) : vecInputs (noted c d) u = vecInputs c u := by
  cases u <;> rfl

@[simp] theorem setVecGen_noted (c d : Core) (u : VUnit) (g : BitVec 32) :
    setVecGen (noted c d) u g = noted (setVecGen c u g) d := by
  cases u <;> rfl

@[simp] theorem setKport_noted (c d : Core) (n : Nat) (k : Mask) :
    setKport (noted c d) n k = noted (setKport c n k) d := rfl

@[simp] theorem setVecGen_raised (c : Core) (u : VUnit) (g : BitVec 32) : (setVecGen c u g).raised = c.raised := by
  cases u <;> rfl

@[simp] theorem setVecGen_gang (c : Core) (u : VUnit) (g : BitVec 32) : (setVecGen c u g).gang = c.gang := by
  cases u <;> rfl

/-- A format that the operation accepts, with a good control field, is no format fault (R415). -/
theorem vecBad_eq_none {c : Core} {u : VUnit} {accept : Fmt → Bool} {bad : VIn → Option Nat} {f : Fmt}
    (hf : fmtOfCode (tyCode c u) = some f) (ha : accept f = true) (hb : bad (vecInputs c u) = none) :
    vecBad c u accept bad = none := by
  simp [vecBad, hf, ha, hb]

/-- A trigger of a vector unit is noted and its value enters port b. -/
theorem vecEnter_spec (n : Nat) (u : VUnit) (cls : Option ImmClass) (fl : Flight) (s : State) :
    ∃ d, OwnStep s (vecEnter u cls fl (modMe s fun c => noteTrigger n c fl))
      (noted (setVport (myCore s) (vecBase u + 1)
        (vecIn (cls.getD (tyClass (myCore s) u).1) (tyClass (myCore s) u).2 fl.val)) d) [] := by
  have h := (ownStep_noteTrigger n fl s).trans (ownStep_modMe _ fun c =>
    setVport (noteArrival c (vecBase u + 1) fl) (vecBase u + 1) (vecIn (cls.getD (tyClass c u).1) (tyClass c u).2 fl.val))
  rw [(ownStep_noteTrigger n fl s).myCore_eq, noteArrival_noted] at h
  exact ⟨_, h⟩

/-- Only a collision is raised while the value enters. -/
theorem vecEnter_raises (n : Nat) (u : VUnit) (cls : Option ImmClass) (fl : Flight) (s : State) :
    RaisesOnly [4] (myCore s) (myCore (vecEnter u cls fl (modMe s fun c => noteTrigger n c fl))) := by
  unfold vecEnter
  rw [myCore_modMe, myCore_modMe]
  exact (noteTrigger_raises n (myCore s) fl).trans (noteArrival_raises _ (vecBase u + 1) fl)

/-- A vector operation of a format and control that it accepts completes with what it computes from the latched operands. -/
theorem vecGives_of {i : Instr} {u : VUnit} {m : Mv} {cls : Option ImmClass} {accept : Fmt → Bool} {bad : VIn → Option Nat}
    {lat : Fmt → Nat} {f : VIn → VOut} {s : State} {fl : Flight} {b : Vec} {fmt : Fmt} (h : s.cur.flight = some fl)
    (hx : exec i s = vecOp i u m cls accept bad lat f s) (hf : fmtOfCode (tyCode (myCore s) u) = some fmt)
    (hb : vecIn (cls.getD (tyClass (myCore s) u).1) (tyClass (myCore s) u).2 fl.val = b)
    (ha : accept fmt = true) (hbad : bad (vecLatch s u b) = none) :
    VecGives i u s b (lat (vecLatch s u b).fmt) (f (vecLatch s u b)) := by
  obtain ⟨d, enter⟩ := vecEnter_spec ((dstId i).getD 0 / 64) u cls fl s
  have raises := vecEnter_raises ((dstId i).getD 0 / 64) u cls fl s
  rw [hb] at enter
  rw [vecOp, vecTrigger, trigger_arrival _ _ _ _ _ h] at hx
  generalize vecEnter u cls fl (modMe s fun c => noteTrigger ((dstId i).getD 0 / 64) c fl) = t at *
  have hin : vecInputs (myCore t) u = vecLatch s u b := by rw [enter.myCore_eq, vecInputs_noted]; rfl
  have hty : tyCode (myCore t) u = tyCode (myCore s) u := by rw [enter.myCore_eq]; rfl
  simp only [vecBad_eq_none (hty ▸ hf) ha (hin ▸ hbad), hin] at hx
  let r := f (vecLatch s u b)
  have latched := (enter.trans (ownStep_modMe t fun c => setKport c (vecBase u + 3) onesMask)).trans
    (ownStep_modMe _ fun c => setVecGen c u r.gen)
  rw [myCore_modMe, enter.myCore_eq, setKport_noted, setVecGen_noted] at latched
  have whole := latched.trans (complete_spec _ fl (vecResult u) (lat (vecLatch s u b).fmt) r.res r.flags)
  rw [latched.resultJob_eq (by simp), latched.myCore_eq, noted_noted] at whole
  refine ⟨_, hx, whole.noted, raises.trans ?_⟩
  have completion := complete_raises (modMe (modMe t fun c => setKport c (vecBase u + 3) onesMask)
    fun c => setVecGen c u r.gen) fl (vecResult u) (lat (vecLatch s u b).fmt) r.res r.flags
  rw [latched.me_eq] at completion
  refine RaisesOnly.trans (fun x hx => .inl ?_) completion
  simpa using hx

/-! Elements of a vector (R126): split into lanes, worked on one by one, packed again. -/

/-- The lane of element `e`, with elements of width `w` (R413). -/
def laneAt (w : Nat) (x : VIn) (e : Nat) : Lane := ⟨e, elemAt w x.a e, elemAt w x.b e, elemAt w x.c e, x.k.getLsbD e⟩

theorem splitElems_eq_map (w n x : Nat) : splitElems w n x = (List.range n).map fun e => x / 2 ^ (w * e) % 2 ^ w := by
  induction n generalizing x with
  | zero => rfl
  | succ n ih =>
    simp [splitElems, ih, List.range_succ_eq_map, Nat.div_div_eq_div_mul, ← Nat.pow_add, Nat.mul_succ, Nat.add_comm]

theorem vecElems_eq_map (x : VIn) (v : Vec) :
    vecElems x v = (List.range (2048 / fmtWidth x.fmt)).map (elemAt (fmtWidth x.fmt) v) :=
  splitElems_eq_map ..

theorem zipLanes_map_range (k : Mask) (f g h : Nat → Nat) (e n : Nat) :
    zipLanes k e ((List.range n).map f) ((List.range n).map g) ((List.range n).map h) =
      (List.range n).map fun j => ⟨e + j, f j, g j, h j, k.getLsbD (e + j)⟩ := by
  induction n generalizing e f g h with
  | zero => rfl
  | succ n ih =>
    simp only [List.range_succ_eq_map, List.map_cons, List.map_map, zipLanes, ih]
    simp [Function.comp_def, Nat.add_comm, Nat.add_left_comm]

theorem vecLanes_eq_map (x : VIn) : vecLanes x = (List.range (2048 / fmtWidth x.fmt)).map (laneAt (fmtWidth x.fmt) x) := by
  simp only [vecLanes, vecElems_eq_map, zipLanes_map_range, Nat.zero_add]
  rfl

/-- Without stochastic rounding nothing is drawn: what has no flag is a map (R137). -/
theorem convList_of_no_flag {α : Type} (f : α → Nat → Nat × Flags) (hf : ∀ x, (f x 0).2 = 0) (xs : List α) (g : BitVec 32) :
    convList f 0 xs g = (xs.map fun x => (f x 0).1, 0, g) := by
  induction xs with
  | nil => rfl
  | cons x xs ih =>
    have hdraw : drawIf 0 g = (0, g) := rfl
    simp only [convList, hdraw, ih, hf, List.map_cons]
    rfl

theorem packNat_element (w : Nat) (xs : List Nat) (e : Nat) : packNat w xs / 2 ^ (w * e) % 2 ^ w = xs.getD e 0 % 2 ^ w := by
  induction xs generalizing e with
  | nil => simp [packNat]
  | cons x xs ih =>
    cases e with
    | zero => simp [packNat]
    | succ e =>
      have hdiv : packNat w (x :: xs) / 2 ^ w = packNat w xs := by
        rw [packNat, Nat.add_mul_div_left _ _ (Nat.two_pow_pos w), Nat.div_eq_of_lt (Nat.mod_lt _ (Nat.two_pow_pos w)),
          Nat.zero_add]
      rw [Nat.mul_succ, Nat.add_comm, Nat.pow_add, ← Nat.div_div_eq_div_mul, hdiv, ih, List.getD_cons_succ]

/-- Bits that lie below a truncation are kept by it. -/
theorem mod_two_pow_div_mod (x : Nat) {k w m : Nat} (h : k + w ≤ m) : x % 2 ^ m / 2 ^ k % 2 ^ w = x / 2 ^ k % 2 ^ w := by
  obtain ⟨n, rfl⟩ := Nat.exists_eq_add_of_le (Nat.le_of_add_right_le h)
  rw [Nat.pow_add, Nat.mod_mul_right_div_self, Nat.mod_mod_of_dvd _ (Nat.pow_dvd_pow 2 (Nat.le_of_add_le_add_left h))]

/-- The elements that lie within 2,048 bits are the ones packed. -/
theorem elemAt_packVec (w : Nat) (xs : List Nat) {e : Nat} (he : e < 2048 / w) :
    elemAt w (packVec w xs) e = xs.getD e 0 % 2 ^ w := by
  have hfit : w * e + w ≤ 2048 := (Nat.mul_le_mul_left w he).trans (Nat.mul_div_le 2048 w)
  rw [elemAt, packVec, BitVec.toNat_ofNat, mod_two_pow_div_mod _ hfit, packNat_element]

@[simp] theorem elemAt_mod (w : Nat) (v : Vec) (e : Nat) : elemAt w v e % 2 ^ w = elemAt w v e := Nat.mod_mod _ _

/-- An element-wise operation without flags gives its function where k enables the element, and what passes through elsewhere
(R416, R417). -/
theorem elementwise_of_no_flag (pass f : Lane → Nat) (x : VIn) :
    let r := elementwise false pass (fun l _ => (f l, 0)) x
    let w := fmtWidth x.fmt
    r.flags = 0 ∧ r.gen = x.gen ∧ ∀ e < 2048 / w,
      elemAt w r.res e = if x.k.getLsbD e then f (laneAt w x e) % 2 ^ w else pass (laneAt w x e) % 2 ^ w := by
  have hconv := convList_of_no_flag (fun l _ => if l.on then (f l, 0) else (pass l, 0)) (fun l => by split <;> rfl)
    (vecLanes x) x.gen
  simp only [elementwise, Bool.false_eq_true, if_false, hconv, true_and]
  intro e he
  rw [elemAt_packVec _ _ he, vecLanes_eq_map, List.map_map, List.getD_eq_getElem _ _ (by simpa using he)]
  simp only [List.getElem_map, List.getElem_range, Function.comp_apply]
  show (if x.k.getLsbD e = true then _ else _ : Nat × Flags).1 % _ = _
  split <;> rfl

theorem vecLatch_fmt {s : State} {u : VUnit} {f : Fmt} (b : Vec) (hf : fmtOfCode (tyCode (myCore s) u) = some f) :
    (vecLatch s u b).fmt = f :=
  congrArg (·.getD f32) hf

/-- A flagless element-wise operation completes with `v` of each enabled element, and with `p`'s element where one is
disabled. -/
theorem elementwise_gives {i : Instr} {u : VUnit} {m : Mv} {cls : Option ImmClass} {accept : Fmt → Bool} {lat : Nat}
    {pass : Lane → Nat} {f : VIn → Lane → Nat} {s : State} {fl : Flight} {b : Vec} {fmt : Fmt} {p : Vec} {v : Nat → Nat}
    (h : s.cur.flight = some fl) (hf : fmtOfCode (tyCode (myCore s) u) = some fmt)
    (hx : exec i s = vecOp i u m cls accept ctlAny (fun _ => lat) (fun x => elementwise false pass (fun l _ => (f x l, 0)) x) s)
    (hb : vecIn (cls.getD (tyClass (myCore s) u).1) (tyClass (myCore s) u).2 fl.val = b) (ha : accept fmt = true)
    (hp : ∀ e, pass (laneAt (fmtWidth fmt) (vecLatch s u b) e) = elemAt (fmtWidth fmt) p e)
    (hv : ∀ e, f (vecLatch s u b) (laneAt (fmtWidth fmt) (vecLatch s u b) e) = v e) :
    ∃ r, VecGives i u s b lat r ∧ r.flags = 0 ∧ r.gen = (vecLatch s u b).gen ∧ ∀ e < 2048 / fmtWidth fmt,
      elemAt (fmtWidth fmt) r.res e =
        if (vecLatch s u b).k.getLsbD e then v e % 2 ^ fmtWidth fmt else elemAt (fmtWidth fmt) p e := by
  have hfmt := vecLatch_fmt b hf
  obtain ⟨hflags, hgen, hres⟩ := elementwise_of_no_flag pass (f (vecLatch s u b)) (vecLatch s u b)
  refine ⟨_, vecGives_of h hx hf hb ha rfl, hflags, hgen, fun e he => ?_⟩
  rw [hfmt] at hres
  rw [hres e he, hv, hp, elemAt_mod]

/-! What the rows of `exec` for these operations are. -/

theorem exec_vand (u : VUnit) (m : Mv) (s : State) :
    exec (.vand u m) s = vecOp (.vand u m) u m (some .s) acceptAny ctlAny (fun _ => 1) (vecBits fun l => l.a &&& l.b) s := rfl
theorem exec_vor (u : VUnit) (m : Mv) (s : State) :
    exec (.vor u m) s = vecOp (.vor u m) u m (some .s) acceptAny ctlAny (fun _ => 1) (vecBits fun l => l.a ||| l.b) s := rfl
theorem exec_vxor (u : VUnit) (m : Mv) (s : State) :
    exec (.vxor u m) s = vecOp (.vxor u m) u m (some .s) acceptAny ctlAny (fun _ => 1) (vecBits fun l => l.a ^^^ l.b) s := rfl
theorem exec_vsel (u : VUnit) (m : Mv) (s : State) :
    exec (.vsel u m) s = vecOp (.vsel u m) u m none acceptAny ctlAny (fun _ => 1) (vecBits fun l => l.b) s := rfl
theorem exec_vperm (u : VUnit) (m : Mv) (s : State) :
    exec (.vperm u m) s = vecOp (.vperm u m) u m (some .z) acceptAny ctlAny (fun _ => 3)
      (fun x => vecBits (fun l => permElem x (vecElems x x.a) l.b) x) s := rfl
theorem exec_vshl (u : VUnit) (m : Mv) (s : State) :
    exec (.vshl u m) s = vecOp (.vshl u m) u m (some .z) acceptInt ctlAny (fun _ => 2)
      (fun x => vecBits (fun l => l.a * 2 ^ (l.b % fmtWidth x.fmt)) x) s := rfl
theorem exec_vshr (u : VUnit) (m : Mv) (s : State) :
    exec (.vshr u m) s = vecOp (.vshr u m) u m (some .z) acceptInt ctlAny (fun _ => 2)
      (fun x => vecBits (fun l => l.a / 2 ^ (l.b % fmtWidth x.fmt)) x) s := rfl
theorem exec_vsra (u : VUnit) (m : Mv) (s : State) :
    exec (.vsra u m) s = vecOp (.vsra u m) u m (some .z) acceptInt ctlAny (fun _ => 2)
      (fun x => vecBits (fun l => sraElem (fmtWidth x.fmt) l.a (l.b % fmtWidth x.fmt)) x) s := rfl
theorem exec_viota (u : VUnit) (m : Mv) (s : State) :
    exec (.viota u m) s = vecOp (.viota u m) u m (some .z) acceptInt ctlAny (fun _ => 2)
      (elementwise false passB fun l _ => (l.b + l.e, 0)) s := rfl

theorem vecElems_getD (x : VIn) (v : Vec) (q : Nat) :
    (vecElems x v).getD q 0 = if q < 2048 / fmtWidth x.fmt then elemAt (fmtWidth x.fmt) v q else 0 := by
  rw [vecElems_eq_map]
  split
  case isTrue hq => rw [List.getD_eq_getElem _ _ (by simpa using hq)]; simp
  case isFalse hq => exact List.getD_eq_default _ _ (by simpa using hq)

/-- Every format has an element in 2,048 bits. -/
theorem elements_pos_of_fmtOfCode {c : Nat} {f : Fmt} (h : fmtOfCode c = some f) : 0 < 2048 / fmtWidth f := by
  unfold fmtOfCode at h
  split at h
  case h_9 =>
    dsimp only at h
    split at h
    · cases h
    · cases h
      show 0 < 2048 / 8
      decide
  all_goals cases h; decide

/-- VPERM picks a's element by b's: ctl[0] tells whether an index out of range gives 0 or wraps (R431). -/
theorem permElem_eq (x : VIn) (q : Nat) (hn : 0 < 2048 / fmtWidth x.fmt) :
    permElem x (vecElems x x.a) q =
      if x.ctl.testBit 0 then (if q < 2048 / fmtWidth x.fmt then elemAt (fmtWidth x.fmt) x.a q else 0)
      else elemAt (fmtWidth x.fmt) x.a (q % (2048 / fmtWidth x.fmt)) := by
  rw [permElem, vecElems_getD, vecElems_getD, vecCount, if_pos (Nat.mod_lt q hn)]

/-- Settles O16: each operation is element-wise without a flag; VPERM's index is in range or wraps because every format has an
element, and a shift's width is that of the format latched. VSHR's word decodes by computation. -/
theorem vectorBitsWriteResult : Obligations.VectorBitsWriteResult := by
  unfold Obligations.VectorBitsWriteResult
  refine ⟨fun s fl m u f h hf => ?bits, fun s fl m u w signed h hf => ?shifts, by decide⟩
  case bits =>
    refine ⟨elementwise_gives h hf (exec_vand u m s) rfl rfl (fun _ => rfl) fun _ => rfl,
      elementwise_gives h hf (exec_vor u m s) rfl rfl (fun _ => rfl) fun _ => rfl,
      elementwise_gives h hf (exec_vxor u m s) rfl rfl (fun _ => rfl) fun _ => rfl,
      elementwise_gives h hf (exec_vsel u m s) rfl rfl (fun _ => rfl) fun _ => rfl,
      elementwise_gives h hf (exec_vperm u m s) rfl rfl (fun _ => rfl) fun _ => ?perm⟩
    case perm =>
      have hfmt := vecLatch_fmt (vecIn .z (tyClass (myCore s) u).2 fl.val) hf
      rw [permElem_eq _ _ (hfmt ▸ elements_pos_of_fmtOfCode hf), hfmt]
      rfl
  case shifts =>
    have hfmt := vecLatch_fmt (vecIn .z (tyClass (myCore s) u).2 fl.val) hf
    refine ⟨elementwise_gives h hf (exec_vshl u m s) rfl rfl (fun _ => rfl) fun _ => ?_,
      elementwise_gives h hf (exec_vshr u m s) rfl rfl (fun _ => rfl) fun _ => ?_,
      elementwise_gives h hf (exec_vsra u m s) rfl rfl (fun _ => rfl) fun _ => ?_,
      elementwise_gives h hf (exec_viota u m s) rfl rfl (fun _ => rfl) fun _ => rfl⟩
    all_goals rw [hfmt]; rfl

end Sys2Proof.Machine
end

section
/-! PROOF. The encoding round trip (R92 to R108, R170, R171): fields of a slot word and of a microword are read back as they were
written, and a destination id names its port or trigger again. -/

namespace Sys2Proof.Machine

/-! Slot words. -/

/-- A destination of a well-formed plain move is read back from its id (R96 to R105). -/
theorem destOf_destId (d : Dest) (h : d.wf = true) : destOf (destId d / 64) (destId d % 64) = some d := by
  cases d with
  | null => rfl
  | sreg n => revert n; decide
  | preg n => revert n; decide
  | vreg n => revert n; decide
  | kreg n => revert n; decide
  | port p =>
    cases p with
    | ct i => revert i; decide
    | mp i => revert i; decide
    | sy i => revert i; decide
    | vec u q => cases u <;> cases q <;> rfl
    | bankData g => cases g <;> rfl
    | bankCmp g => cases g <;> rfl
    | sq q => cases q <;> rfl
    | c0 q =>
      cases q with
      | dst => cases h
      | _ => rfl
    | c1 q => cases q <;> rfl
    | fb q => cases q <;> rfl
    | _ => rfl

/-- The destination id of an instruction names it again, but for the two rows that share their words with another. -/
theorem instrOf_dstId {i : Instr} {m : Mv} {d : Nat} (hwf : wellFormed i = true) (hm : moveOf i = some m)
    (hd : dstId i = some d) (hlut : ∀ u, i ≠ .vlutLoad u m) (hmu : i ≠ .muwrRoutineEntry m) : instrOf d m = some i := by
  cases i
  case move _ dest =>
    cases hm; cases hd
    rw [wellFormed, Bool.and_eq_true] at hwf
    rw [instrOf, destOf_destId dest hwf.2]
  case vlutLoad u _ => cases hm; exact absurd rfl (hlut u)
  case muwrRoutineEntry _ => cases hm; exact absurd rfl hmu
  all_goals cases hm
  all_goals cases hd
  case loop n => fin_cases n <;> rfl
  case loopp n => fin_cases n <;> rfl
  case lbrk n => fin_cases n <;> rfl
  case push q => fin_cases q <;> rfl
  all_goals try cases ‹VUnit›
  all_goals try cases ‹Bank›
  all_goals rfl

/-- A well-formed instruction that carries a move has a guard that can be true, and a destination id of ten bits. -/
theorem move_wf {i : Instr} {m : Mv} {d : Nat} (hwf : wellFormed i = true) (hm : moveOf i = some m)
    (hd : dstId i = some d) : m.g.wf = true ∧ d < 1024 := by
  cases i
  case move _ dest =>
    cases hm; cases hd
    rw [wellFormed, Bool.and_eq_true] at hwf
    exact ⟨hwf.1, Laws.destId_lt dest⟩
  all_goals cases hm
  all_goals refine ⟨hwf, ?_⟩
  all_goals cases hd
  all_goals try cases ‹VUnit›
  all_goals try cases ‹Bank›
  all_goals simp +arith [vecBase, bankBase]
  all_goals omega

theorem sourceBits_lt (src : Source) : (sourceBits src).1 < 2 ∧ (sourceBits src).2 < 512 := by
  cases src with
  | res r => cases r <;> decide
  | _ => simp only [sourceBits]; omega

/-- The fields of a slot word are those it was built from (R92). -/
theorem moveWord_fields (m : Mv) {d : Nat} (hd : d < 1024) :
    wInv (moveWord m d) = (if m.g.inv then 1 else 0) ∧ wIdx (moveWord m d) = m.g.idx.val ∧
      wImm (moveWord m d) = (sourceBits m.src).1 ∧ wSrc (moveWord m d) = (sourceBits m.src).2 ∧
      wDst (moveWord m d) = d ∧ moveWord m d < 2 ^ 24 := by
  obtain ⟨himm, hsrc⟩ := sourceBits_lt m.src
  have hinv : (if m.g.inv = true then 1 else 0) < 2 := by split <;> decide
  have hidx := m.g.idx.isLt
  unfold moveWord wInv wIdx wImm wSrc wDst
  generalize (if m.g.inv = true then 1 else 0) = v at *
  omega

/-- A well-formed guard is not the never-guard (R55). -/
theorem not_never (m : Mv) {d : Nat} (hd : d < 1024) (hg : m.g.wf = true) :
    ¬ (wInv (moveWord m d) = 1 ∧ wIdx (moveWord m d) = 0) := by
  obtain ⟨hinv, hidx, -⟩ := moveWord_fields m hd
  rw [hinv, hidx]
  simp only [Guard.wf, Bool.not_eq_true', Bool.and_eq_false_iff, beq_eq_false_iff_ne, ne_eq] at hg
  rintro ⟨h₁, h₂⟩
  have hzero : m.g.idx = 0 := Fin.ext h₂
  simp_all

/-- The slots that a move's word claims are those of its payload (R106). -/
theorem claimOf_moveWord (m : Mv) {d : Nat} (hd : d < 1024) (hg : m.g.wf = true) :
    claimOf (moveWord m d) = (payloadOf m.src).length := by
  obtain ⟨-, -, himm, hsrc, -⟩ := moveWord_fields m hd
  rw [claimOf, if_neg (not_never m hd hg), himm, hsrc]
  cases m.src
  case sreg n | vreg n | kreg n | pop n | peek n | acc n => fin_cases n <;> rfl
  case res r => cases r <;> rfl
  all_goals rfl

/-- A source is read back from its IMM and SRC fields and its payload (R94, R97). -/
theorem source_of_bits (src : Source) (p q : Nat) :
    (if (sourceBits src).1 = 1 then some (Source.short (BitVec.ofNat 9 (sourceBits src).2))
      else sourceOf (sourceBits src).2 ((payloadOf src).getD 0 p) ((payloadOf src).getD 1 q)) = some src := by
  cases src
  case sreg n | vreg n | kreg n | pop n | peek n | acc n => fin_cases n <;> rfl
  case res r => cases r <;> rfl
  case short => simp [sourceBits]
  case limm24 | limm48 => simp [sourceBits, sourceOf, payloadOf]
  all_goals rfl

/-- A guarded word whose source, destination and payload are in order decodes where the slot's lane carries it (R52, R106). -/
theorem decodeSlot_of_fields {n w p q : Nat} {src : Source} {i : Instr} (hnever : ¬ (wInv w = 1 ∧ wIdx w = 0))
    (hsrc : (if wImm w = 1 then some (Source.short (BitVec.ofNat 9 (wSrc w))) else sourceOf (wSrc w) p q) = some src)
    (hi : instrOf (wDst w) ⟨⟨decide (wInv w = 1), Fin.ofNat 8 (wIdx w)⟩, src⟩ = some i) (hfit : n + claimOf w < 8) :
    decodeSlot n w p q = if laneOk n src (wDst w) = false then .error .illegalMove else .ok i := by
  simp only [decodeSlot, if_neg hnever, hsrc, hi, if_neg (Nat.not_le.2 hfit)]

/-- The guard of a move is read back from its word (R92, R93). -/
theorem guard_of_word (m : Mv) {d : Nat} (hd : d < 1024) :
    (⟨decide (wInv (moveWord m d) = 1), Fin.ofNat 8 (wIdx (moveWord m d))⟩ : Guard) = m.g := by
  obtain ⟨hinv, hidx, -⟩ := moveWord_fields m hd
  rw [hinv, hidx]
  obtain ⟨⟨inv, idx⟩, src⟩ := m
  cases inv <;> simp

/-- What a move's own word decodes to in a slot whose lane may or may not carry it. -/
theorem decodeSlot_moveWord {i : Instr} {m : Mv} {d : Nat} (hwf : wellFormed i = true) (hm : moveOf i = some m)
    (hd : dstId i = some d) (hlut : ∀ u, i ≠ .vlutLoad u m) (hmu : i ≠ .muwrRoutineEntry m) (n p q : Nat)
    (hfit : n + (payloadOf m.src).length < 8) :
    decodeSlot n (moveWord m d) ((payloadOf m.src).getD 0 p) ((payloadOf m.src).getD 1 q) =
      if laneOk n m.src d = false then .error .illegalMove else .ok i := by
  obtain ⟨hg, hlt⟩ := move_wf hwf hm hd
  obtain ⟨-, -, himm, hsrc, hdst, -⟩ := moveWord_fields m hlt
  have hsource := source_of_bits m.src p q
  have hinstr := instrOf_dstId hwf hm hd hlut hmu
  rw [← claimOf_moveWord m hlt hg] at hfit
  rw [← himm, ← hsrc] at hsource
  have h := decodeSlot_of_fields (not_never m hlt hg) hsource (by rw [guard_of_word m hlt, hdst]; exact hinstr) hfit
  rwa [hdst] at h

/-! Microwords (R170, R171). -/

theorem selBits_lt (t : Sel) : selBits t < 32 := by
  cases t <;> (simp only [selBits]; omega)

/-- A selector is read back from its five bits, whatever stands above them (R171). -/
theorem selOf_eq {w : Nat} {t : Sel} (h : w % 32 = selBits t) : selOf w = t := by
  unfold selOf
  cases t with
  | direct n =>
    simp only [selBits] at h
    rw [if_pos (by omega)]
    exact congrArg Sel.direct (Fin.ext (by simp only [Fin.val_ofNat]; omega))
  | indirect n =>
    simp only [selBits] at h
    rw [if_neg (by omega)]
    exact congrArg Sel.indirect (Fin.ext (by simp only [Fin.val_ofNat]; omega))

theorem fin_ofNat_eq {n : Nat} [NeZero n] {w : Nat} {x : Fin n} (h : w % n = x.val) : Fin.ofNat n w = x := Fin.ext h

theorem bitVec_ofNat_eq {n w : Nat} {x : BitVec n} (h : w % 2 ^ n = x.toNat) : BitVec.ofNat n w = x :=
  BitVec.eq_of_toNat_eq h

theorem bit_lt (v : Bool) : bit v < 2 := by cases v <;> decide

theorem decide_bit {w : Nat} {v : Bool} (h : w % 2 = bit v) : decide (w % 2 = 1) = v := by
  rw [h]; cases v <;> rfl

/-- A well-formed micro-operation's word has 64 bits and decodes to it: each field is read back from its place (R170). -/
theorem decodeMicro_microWord {i : Instr} {w : Nat} (hwf : wellFormed i = true) (hw : microWord i = some w) :
    w < 2 ^ 64 ∧ decodeMicro w = .ok i := by
  cases i
  case mnop | mend => cases hw; exact ⟨by decide, rfl⟩
  case msetImm d imm =>
    have hd := d.isLt
    have himm := imm.isLt
    have hw := Option.some.inj hw
    have hop : w / 2 ^ 58 % 64 = 0x01 := by omega
    have hkind : w / 2 ^ 52 % 4 = 0 := by omega
    simp only [decodeMicro, hop, hkind]
    rw [fin_ofNat_eq (x := d) (by omega), bitVec_ofNat_eq (x := imm) (by omega)]
    exact ⟨by omega, rfl⟩
  case msetMp d n =>
    have hd := d.isLt
    have hn := n.isLt
    have hw := Option.some.inj hw
    have hop : w / 2 ^ 58 % 64 = 0x01 := by omega
    have hkind : w / 2 ^ 52 % 4 = 1 := by omega
    simp only [decodeMicro, hop, hkind]
    rw [fin_ofNat_eq (x := d) (by omega), fin_ofNat_eq (x := n) (by omega)]
    exact ⟨by omega, rfl⟩
  case msetAdd d imm =>
    have hd := d.isLt
    have himm := imm.isLt
    have hw := Option.some.inj hw
    have hop : w / 2 ^ 58 % 64 = 0x01 := by omega
    have hkind : w / 2 ^ 52 % 4 = 2 := by omega
    simp only [decodeMicro, hop, hkind]
    rw [fin_ofNat_eq (x := d) (by omega), bitVec_ofNat_eq (x := imm) (by omega)]
    exact ⟨by omega, rfl⟩
  case mloop c cm cr last count =>
    have hc := c.isLt
    have hcm := bit_lt cm
    have hcr := cr.isLt
    have hlast := last.isLt
    have hcount := count.isLt
    have hw := Option.some.inj hw
    have hop : w / 2 ^ 58 % 64 = 0x02 := by omega
    simp only [decodeMicro, hop]
    rw [fin_ofNat_eq (x := c) (by omega), decide_bit (v := cm) (by omega), fin_ofNat_eq (x := cr) (by omega),
      bitVec_ofNat_eq (x := last) (by omega), bitVec_ofNat_eq (x := count) (by omega)]
    exact ⟨by omega, rfl⟩
  case midle n =>
    have hn := n.isLt
    have hw := Option.some.inj hw
    have hop : w / 2 ^ 58 % 64 = 0x04 := by omega
    simp only [decodeMicro, hop]
    rw [bitVec_ofNat_eq (x := n) (by omega)]
    exact ⟨by omega, rfl⟩
  case mzacc t =>
    have ht := selBits_lt t
    have hw := Option.some.inj hw
    have hop : w / 2 ^ 58 % 64 = 0x08 := by omega
    simp only [decodeMicro, hop]
    rw [selOf_eq (t := t) (by omega)]
    exact ⟨by omega, rfl⟩
  case mmac t =>
    have ht := selBits_lt t
    have hw := Option.some.inj hw
    have hop : w / 2 ^ 58 % 64 = 0x18 := by omega
    simp only [decodeMicro, hop]
    rw [selOf_eq (t := t) (by omega)]
    exact ⟨by omega, rfl⟩
  case mmacs t =>
    have ht := selBits_lt t
    have hw := Option.some.inj hw
    have hop : w / 2 ^ 58 % 64 = 0x19 := by omega
    simp only [decodeMicro, hop]
    rw [selOf_eq (t := t) (by omega)]
    exact ⟨by omega, rfl⟩
  case mlda q cls =>
    have hq := selBits_lt q
    have hcls := cls.isLt
    have hclass : cls ≠ 3 := bne_iff_ne.1 hwf
    have hw := Option.some.inj hw
    have hop : w / 2 ^ 58 % 64 = 0x10 := by omega
    simp only [decodeMicro, hop]
    simp only [bitVec_ofNat_eq (x := cls) (show w / 2 ^ 10 % 2 ^ 2 = cls.toNat by omega), if_neg hclass]
    rw [selOf_eq (t := q) (by omega)]
    exact ⟨by omega, rfl⟩
  case mldb q r cls =>
    have hq := selBits_lt q
    have hr := selBits_lt r
    have hcls := cls.isLt
    have hclass : cls ≠ 3 := bne_iff_ne.1 hwf
    have hw := Option.some.inj hw
    have hop : w / 2 ^ 58 % 64 = 0x11 := by omega
    simp only [decodeMicro, hop]
    simp only [bitVec_ofNat_eq (x := cls) (show w / 2 ^ 10 % 2 ^ 2 = cls.toNat by omega), if_neg hclass]
    rw [selOf_eq (t := q) (by omega), selOf_eq (t := r) (by omega)]
    exact ⟨by omega, rfl⟩
  case mepi e =>
    have ht := selBits_lt e.t
    have ho := selBits_lt e.o
    have hb := selBits_lt e.b
    have hbias := bit_lt e.bias
    have hact := bit_lt e.act
    have hreq := bit_lt e.req
    have hint := bit_lt e.intacc
    have hqsr := e.qsr.isLt
    have hzpr := e.zpr.isLt
    have hrm := e.rm.isLt
    have hw := Option.some.inj hw
    have hop : w / 2 ^ 58 % 64 = 0x20 := by omega
    simp only [decodeMicro, hop]
    rw [selOf_eq (t := e.t) (by omega), selOf_eq (t := e.o) (by omega), selOf_eq (t := e.b) (by omega),
      decide_bit (v := e.bias) (by omega), decide_bit (v := e.act) (by omega), decide_bit (v := e.req) (by omega),
      decide_bit (v := e.intacc) (by omega), fin_ofNat_eq (x := e.qsr) (by omega), fin_ofNat_eq (x := e.zpr) (by omega),
      bitVec_ofNat_eq (x := e.rm) (by omega)]
    exact ⟨by omega, rfl⟩
  all_goals cases hw

/-! Words laid out from the first. -/

/-- An instruction that carries a move is no micro-operation, and has a destination id (R92). -/
theorem slot_form {i : Instr} {m : Mv} (hm : moveOf i = some m) : microWord i = none ∧ ∃ d, dstId i = some d := by
  cases i
  all_goals cases hm
  all_goals exact ⟨rfl, _, rfl⟩

/-- One of slots 0 and 4 carries any move: the two directions round the ring add up to its 16 stations (R52). -/
theorem lane_four_of_not_zero {src : Source} {d : Nat} (h : laneOk 0 src d = false) : laneOk 4 src d = true := by
  cases hs : homeStation src with
  | none => simp [laneOk, moveDistance, hs] at h
  | some n => simp [laneOk, moveDistance, laneDistance, hs] at h ⊢; omega

/-- The slots laid out from the first read the move's word and its payload. -/
theorem payload_slots (src : Source) {w x : Nat} (hw : w < 2 ^ 24)
    (hx : x = w + 2 ^ 24 * (payloadOf src).foldr (fun x acc => x + 2 ^ 24 * acc) 0) :
    x % 2 ^ 24 = w ∧ x / 2 ^ 24 % 2 ^ 24 = (payloadOf src).getD 0 0 ∧ x / 2 ^ 48 % 2 ^ 24 = (payloadOf src).getD 1 0 := by
  cases src
  case limm24 p => have := p.isLt; simp [payloadOf] at hx ⊢; omega
  case limm48 l h => have := l.isLt; have := h.isLt; simp [payloadOf] at hx ⊢; omega
  all_goals simp [payloadOf] at hx ⊢; omega

theorem payload_length_le (src : Source) : (payloadOf src).length ≤ 2 := by
  cases src <;> simp [payloadOf]

/-- What is laid out is decoded in the lane that slot 0's verdict names. -/
theorem decodeTableWord_of_slots {n x w p q : Nat} (hn : n ≠ 64) (hw : x % 2 ^ 24 = w) (hp : x / 2 ^ 24 % 2 ^ 24 = p)
    (hq : x / 2 ^ 48 % 2 ^ 24 = q) : decodeTableWord n x = (decodeSlot (laneOfWord w p q) w p q).toOption := by
  subst hw hp hq
  rw [decodeTableWord, if_neg hn]

/-- A word that only its lane can keep from decoding decodes in slot 0 or in slot 4 (R52). -/
theorem decodeSlot_laneOfWord {w p q d : Nat} {src : Source} {i : Instr}
    (h : ∀ n < 6, decodeSlot n w p q = if laneOk n src d = false then .error .illegalMove else .ok i) :
    decodeSlot (laneOfWord w p q) w p q = .ok i := by
  have hzero := h 0 (by decide)
  cases hz : laneOk 0 src d with
  | true =>
    rw [hz, if_neg (by decide)] at hzero
    simp only [laneOfWord, hzero]
  | false =>
    rw [hz, if_pos rfl] at hzero
    simp only [laneOfWord, hzero]
    rw [h 4 (by decide), lane_four_of_not_zero hz, if_neg (by decide)]

/-- A move's words decode in the lane that carries it (R52). -/
theorem decodeTableWord_move {i : Instr} {m : Mv} {d : Nat} (hwf : wellFormed i = true) (hm : moveOf i = some m)
    (hd : dstId i = some d) (hlut : ∀ u, i ≠ .vlutLoad u m) (hmu : i ≠ .muwrRoutineEntry m) :
    decodeTableWord (24 + 24 * (payloadOf m.src).length)
      (moveWord m d + 2 ^ 24 * (payloadOf m.src).foldr (fun x acc => x + 2 ^ 24 * acc) 0) = some i := by
  have hlen := payload_length_le m.src
  obtain ⟨-, -, -, -, -, hlt⟩ := moveWord_fields m (move_wf hwf hm hd).2
  obtain ⟨hw, hp, hq⟩ := payload_slots m.src hlt rfl
  rw [decodeTableWord_of_slots (by omega) hw hp hq,
    decodeSlot_laneOfWord fun n hn => decodeSlot_moveWord hwf hm hd hlut hmu n 0 0 (by omega)]
  rfl

/-- A never-guarded word is not decoded further (R55). -/
theorem decodeTableWord_nop (rest : BitVec 20) : decodeTableWord 24 (2 ^ 23 + rest.toNat) = some (.nop rest) := by
  have hrest := rest.isLt
  have decodes (n p q : Nat) : decodeSlot n (2 ^ 23 + rest.toNat) p q = .ok (.nop rest) := by
    rw [decodeSlot, if_pos (by simp only [wInv, wIdx]; omega), bitVec_ofNat_eq (x := rest) (by omega)]
  have hword : (2 ^ 23 + rest.toNat) % 2 ^ 24 = 2 ^ 23 + rest.toNat := by omega
  simp only [decodeTableWord, hword, laneOfWord, decodes]
  rfl

theorem decodeTableWord_micro {i : Instr} {w : Nat} (hwf : wellFormed i = true) (hw : microWord i = some w) :
    decodeTableWord 64 w = some i := by
  obtain ⟨hlt, hdec⟩ := decodeMicro_microWord hwf hw
  simp only [decodeTableWord, if_true, Nat.mod_eq_of_lt hlt, hdec, Except.toOption]

/-- The words of a move, a never-guarded word, or a microword. -/
theorem encode_cases {i : Instr} {nbits w : Nat} (h : encode i = some (nbits, w)) :
    (nbits = 64 ∧ microWord i = some w) ∨ (∃ rest, i = .nop rest ∧ nbits = 24 ∧ w = 2 ^ 23 + rest.toNat) ∨
      ∃ m d, moveOf i = some m ∧ dstId i = some d ∧ nbits = 24 + 24 * (payloadOf m.src).length ∧
        w = moveWord m d + 2 ^ 24 * (payloadOf m.src).foldr (fun x acc => x + 2 ^ 24 * acc) 0 := by
  unfold encode at h
  split at h
  case h_1 v hv => cases h; exact .inl ⟨rfl, hv⟩
  case h_2 hv =>
    split at h
    case h_1 rest => cases h; exact .inr (.inl ⟨rest, rfl, rfl, rfl⟩)
    case h_2 =>
      split at h
      case h_1 m d hm hd => cases h; exact .inr (.inr ⟨m, d, hm, hd, rfl, rfl⟩)
      case h_2 => cases h

/-- Settles O56: a move's fields, a microword's fields, and the slots of laid-out words are read back one by one. -/
theorem encodingRoundTrip : Obligations.EncodingRoundTrip := by
  unfold Obligations.EncodingRoundTrip
  refine ⟨fun i m d n p q hwf hm hd hlut hmu hlane hfit => ?_, fun i w hwf hw => decodeMicro_microWord hwf hw,
    fun i nbits w hwf henc hlut hmu => ?_⟩
  · rw [decodeSlot_moveWord hwf hm hd hlut hmu n p q hfit, hlane, if_neg (by decide)]
  · obtain ⟨rfl, hw⟩ | ⟨rest, rfl, rfl, rfl⟩ | ⟨m, d, hm, hd, rfl, rfl⟩ := encode_cases henc
    · exact decodeTableWord_micro hwf hw
    · exact decodeTableWord_nop rest
    · exact decodeTableWord_move hwf hm hd (fun u => hlut u m) (hmu m)

end Sys2Proof.Machine
end

section
/-! PROOF. The scalar ALU's divisions, FP32 operations and compares (R60, R155, R354, R359, R362, R366 to R368). -/

namespace Sys2Proof.Machine

/-! Division (R359): the corners are those of the quotient of the integers, wrapped. -/

theorem exec_div (m : Mv) (s : State) : exec (.div m) s = saInt (.div m) m .s 18 divSigned s := rfl
theorem exec_divu (m : Mv) (s : State) : exec (.divu m) s = saInt (.divu m) m .z 18 divUnsigned s := rfl
theorem exec_rem (m : Mv) (s : State) : exec (.rem m) s = saInt (.rem m) m .s 18 remSigned s := rfl
theorem exec_remu (m : Mv) (s : State) : exec (.remu m) s = saInt (.remu m) m .z 18 remUnsigned s := rfl

theorem sdiv_eq_ofInt (a b : Word) : a.sdiv b = BitVec.ofInt 64 (a.toInt.tdiv b.toInt) := by
  apply BitVec.eq_of_toInt_eq
  rw [BitVec.toInt_sdiv, BitVec.toInt_ofInt]

theorem srem_eq_ofInt (a b : Word) : a.srem b = BitVec.ofInt 64 (a.toInt - a.toInt.tdiv b.toInt * b.toInt) := by
  rw [Int.mul_comm, ← Int.tmod_def, ← BitVec.toInt_srem, BitVec.ofInt_toInt]

theorem divSigned_eq (a b : Word) :
    divSigned a b = if b = 0 then 0xFFFFFFFFFFFFFFFF
      else if a.toInt = -2 ^ 63 ∧ b.toInt = -1 then BitVec.ofInt 64 (-2 ^ 63)
      else BitVec.ofInt 64 (a.toInt.tdiv b.toInt) := by
  rw [divSigned, sdiv_eq_ofInt]
  split
  · rfl
  · split
    next h => obtain ⟨ha, hb⟩ := h; rw [ha, hb]; decide
    next => rfl

theorem remSigned_eq (a b : Word) :
    remSigned a b = if b = 0 then a else if a.toInt = -2 ^ 63 ∧ b.toInt = -1 then 0
      else BitVec.ofInt 64 (a.toInt - a.toInt.tdiv b.toInt * b.toInt) := by
  rw [remSigned, srem_eq_ofInt]
  split
  · rfl
  · split
    next h => obtain ⟨ha, hb⟩ := h; rw [ha, hb]; decide
    next => rfl

theorem divUnsigned_eq (a b : Word) :
    divUnsigned a b = if b = 0 then 0xFFFFFFFFFFFFFFFF else BitVec.ofNat 64 (a.toNat / b.toNat) := by
  unfold divUnsigned
  congr 1
  apply BitVec.eq_of_toNat_eq
  rw [BitVec.toNat_udiv, BitVec.toNat_ofNat, Nat.mod_eq_of_lt ((Nat.div_le_self _ _).trans_lt a.isLt)]

theorem remUnsigned_eq (a b : Word) :
    remUnsigned a b = if b = 0 then a else BitVec.ofInt 64 ((a.toNat : Int) - (a.toNat / b.toNat : Nat) * b.toNat) := by
  have hmod : ((a.toNat : Int) - (a.toNat / b.toNat : Nat) * b.toNat) = (a.toNat % b.toNat : Nat) := by
    rw [Int.natCast_mod, Int.emod_def, Int.natCast_ediv, Int.mul_comm]
  rw [hmod, BitVec.ofInt_natCast]
  unfold remUnsigned
  congr 1
  apply BitVec.eq_of_toNat_eq
  rw [BitVec.toNat_umod, BitVec.toNat_ofNat, Nat.mod_eq_of_lt ((Nat.mod_le _ _).trans_lt a.isLt)]

/-- Settles O2: each operation gives its function of the latched operands, which is the integers' quotient or remainder but in
the corners that the rule names. -/
theorem scalarDivisionWritesQuotient : Obligations.ScalarDivisionWritesQuotient := by
  unfold Obligations.ScalarDivisionWritesQuotient
  intro s fl m h
  exact ⟨saInt_gives h (exec_div m s) (divSigned_eq ..), saInt_gives h (exec_divu m s) (divUnsigned_eq ..),
    saInt_gives h (exec_rem m s) (remSigned_eq ..), saInt_gives h (exec_remu m s) (remUnsigned_eq ..)⟩

/-! FP32 operations (R362, R367, R368). -/

theorem saC_entered {s t : State} {b : Word} {d : Core}
    (entered : myCore t = noted { myCore s with ports := tset 0 (myCore s).ports 0x081 b } d) :
    saC t = portOf (myCore s) 0x082 := portOf_entered_ne entered (by decide)

/-- An FP32 operation gives its function of ports sa.a and sa.c and the value that enters sa.b, with its flags (R60, R67). -/
theorem saFp_gives {i : Instr} {m : Mv} {lat : Nat} {f : Word → Word → Word → Word × Flags} {s : State} {fl : Flight}
    {r : Word × Flags} (h : s.cur.flight = some fl) (hx : exec i s = saFp i m lat f s)
    (hr : f (portOf (myCore s) 0x080) (scalarIn (.f f32) fl.val) (portOf (myCore s) 0x082) = r) :
    SaGives i s (scalarIn (.f f32) fl.val) lat r.1 r.2 := by
  refine saGives_of i m (.f f32) lat s fl (fun t => f (saA t) (saB t) (saC t)) r h hx fun t d entered => ?_
  rw [saA_entered entered, saB_entered entered, saC_entered entered, hr]

theorem exec_fadd (m : Mv) (s : State) :
    exec (.fadd m) s = saFp (.fadd m) m 4 (fun a b _ => fpAdd (f32Of a) (f32Of b)) s := rfl
theorem exec_fsub (m : Mv) (s : State) :
    exec (.fsub m) s = saFp (.fsub m) m 4 (fun a b _ => fpSub (f32Of a) (f32Of b)) s := rfl
theorem exec_fmul (m : Mv) (s : State) :
    exec (.fmul m) s = saFp (.fmul m) m 4 (fun a b _ => fpMul (f32Of a) (f32Of b)) s := rfl
theorem exec_ffma (m : Mv) (s : State) :
    exec (.ffma m) s = saFp (.ffma m) m 4 (fun a b c => fpFma (f32Of a) (f32Of b) (f32Of c)) s := rfl
theorem exec_fmin (m : Mv) (s : State) : exec (.fmin m) s = saFp (.fmin m) m 2 (fun a b _ => (fpChoose true a b, 0)) s := rfl
theorem exec_fmax (m : Mv) (s : State) : exec (.fmax m) s = saFp (.fmax m) m 2 (fun a b _ => (fpChoose false a b, 0)) s := rfl
theorem exec_fcvtFi (m : Mv) (s : State) : exec (.fcvtFi m) s = saFp (.fcvtFi m) m 3 (fun _ b _ => fpToInt b) s := rfl
theorem exec_fcvtIf (m : Mv) (s : State) : exec (.fcvtIf m) s = execFcvtIf m s := rfl

/-- FMIN takes b where b orders below a, FMAX where it does not (R368). -/
theorem fpChoose_true (a b : Word) : fpChoose true a b = if f32Of a = .nan ∨ f32Of b = .nan then 0x7FC00000
    else if fpBelow (f32Of b) (f32Of a) then b &&& 0xFFFFFFFF else a &&& 0xFFFFFFFF := by
  simp only [fpChoose, beq_true]

theorem fpChoose_false (a b : Word) : fpChoose false a b = if f32Of a = .nan ∨ f32Of b = .nan then 0x7FC00000
    else if fpBelow (f32Of b) (f32Of a) then a &&& 0xFFFFFFFF else b &&& 0xFFFFFFFF := by
  simp only [fpChoose]
  cases fpBelow (f32Of b) (f32Of a) <;> rfl

theorem fcvtIf_gives {s : State} {fl : Flight} (m : Mv) (h : s.cur.flight = some fl) :
    SaGives (.fcvtIf m) s (scalarIn .s fl.val) 3 (intToFp (scalarIn .s fl.val)).1 (intToFp (scalarIn .s fl.val)).2 := by
  refine saGives_of (.fcvtIf m) m .s 3 s fl (fun t => intToFp (saB t)) _ h (exec_fcvtIf m s) fun t d entered => ?_
  rw [saB_entered entered]

/-- Settles O6: each operation gives its function of the latched operands. -/
theorem floatOperationsWriteResultAndFlags : Obligations.FloatOperationsWriteResultAndFlags := by
  unfold Obligations.FloatOperationsWriteResultAndFlags
  intro s fl m h
  exact ⟨saFp_gives h (exec_fadd m s) rfl, saFp_gives h (exec_fsub m s) rfl, saFp_gives h (exec_fmul m s) rfl,
    saFp_gives h (exec_ffma m s) rfl, saFp_gives h (exec_fmin m s) (congrArg (·, 0) (fpChoose_true ..)),
    saFp_gives h (exec_fmax m s) (congrArg (·, 0) (fpChoose_false ..)), saFp_gives h (exec_fcvtFi m s) rfl, fcvtIf_gives m h⟩

/-! Compares (R155, R354, R366). -/

/-- Counting a predicate write changes the writes counted and the faults raised alone. -/
theorem notePred_spec (c : Core) (x n kind issue bundle slot : Nat) :
    notePred c x n kind issue bundle slot =
      { c with predDue := (notePred c x n kind issue bundle slot).predDue
               raised := (notePred c x n kind issue bundle slot).raised } := by
  unfold notePred
  split
  · rfl
  · dsimp only
    split
    · rw [addRaise_spec]
    · rfl

theorem notePred_raises (c : Core) (x n kind issue bundle slot : Nat) :
    RaisesOnly [4] c (notePred c x n kind issue bundle slot) := by
  unfold notePred
  split
  · exact .refl _ _
  · dsimp only
    split
    · exact addRaise_raises (codes := [4]) c _ (by simp)
    · exact .refl _ _

theorem noteCombined_spec (c : Core) (fl : Flight) (x q : Nat) :
    noteCombined c fl x q =
      { c with predDue := (noteCombined c fl x q).predDue, raised := (noteCombined c fl x q).raised } := by
  unfold noteCombined
  dsimp only
  split
  · exact notePred_spec ..
  · rw [notePred_spec, notePred_spec c]

theorem noteCombined_raises (c : Core) (fl : Flight) (x q : Nat) : RaisesOnly [4] c (noteCombined c fl x q) := by
  unfold noteCombined
  dsimp only
  split
  · exact notePred_raises _ _ _ _ _ _ _
  · exact (notePred_raises _ _ _ _ _ _ _).trans (notePred_raises _ _ _ _ _ _ _)

/-- Work of the running core scheduled item by item. -/
theorem ownStep_postDeeds {α : Type} (due ph : Nat) (d : α → Deed) (xs : List α) (s : State) :
    OwnStep s (xs.foldl (fun s x => postDeed s (me s) due ph (d x)) s) (myCore s) (xs.map fun x => ownJob s due ph (.deed (d x))) := by
  induction xs generalizing s with
  | nil => exact ⟨rfl, fun _ _ => rfl, (List.append_nil _).symm, rfl, rfl, rfl, rfl, rfl, rfl, rfl, rfl⟩
  | cons x xs ih => exact (ownStep_postDeed s due ph (d x)).trans (ih _)

/-- The predicate writes of a compare are counted and scheduled (R64, R155). -/
theorem writeCombined_spec (s : State) (fl : Flight) (lat q : Nat) (r : Bool) :
    ∃ d, OwnStep s (writeCombined s fl lat q r) { myCore s with predDue := d.predDue, raised := d.raised }
      ((combine (q / 64 % 8) (q / 8 % 8) (q % 8) fl.g r).map fun pvk =>
        ownJob s (now s + lat) phDone (.deed (.pred (Fin.ofNat 8 pvk.1) pvk.2.1))) ∧ RaisesOnly [4] (myCore s) d := by
  have counted := ownStep_modMe s fun c => noteCombined c fl (now s + lat) q
  rw [noteCombined_spec] at counted
  have scheduled := ownStep_postDeeds (now s + lat) phDone (fun w : Nat × Bool × Nat => .pred (Fin.ofNat 8 w.1) w.2.1)
    (combine (q / 64 % 8) (q / 8 % 8) (q % 8) fl.g r) (modMe s fun c => noteCombined c fl (now s + lat) q)
  simp only [counted.ownJob_eq rfl] at scheduled
  rw [counted.myCore_eq] at scheduled
  exact ⟨_, counted.trans scheduled, noteCombined_raises _ _ _ _⟩

/-- A compare gives the test of its latched operands to its combining type. -/
theorem saCompares_of {i : Instr} {m : Mv} {s : State} {fl : Flight} {k : CompareKind} {r : Bool}
    (h : s.cur.flight = some fl) (hx : exec i s = saCompare i m s) (hk : compareKind i = some k)
    (hr : k.test (portOf (myCore s) 0x080) (scalarIn k.cls fl.val) = r) :
    SaCompares i s fl (scalarIn k.cls fl.val) k.lat r := by
  obtain ⟨d, enter⟩ := saEnter_spec ((dstId i).getD 0 / 64) k.cls fl s
  have raises := saEnter_raises ((dstId i).getD 0 / 64) k.cls fl s
  rw [saCompare, compareTrigger_arrival _ _ _ _ _ h] at hx
  simp only [hk] at hx
  generalize saEnter k.cls fl (modMe s fun c => noteTrigger ((dstId i).getD 0 / 64) c fl) = t at *
  have entered := enter.myCore_eq
  rw [saA_entered entered, saB_entered entered, saQ_entered entered, hr] at hx
  obtain ⟨e, writes, counted⟩ := writeCombined_spec t fl k.lat (portOf (myCore s) 0x083).toNat r
  simp only [enter.ownJob_eq rfl, enter.now_eq rfl] at writes
  have whole := enter.trans writes
  rw [List.nil_append] at whole
  have hcore := whole.core
  rw [enter.myCore_eq] at hcore whole
  refine ⟨_, hx, ?_, ?_⟩
  · have := raises.trans counted
    rw [hcore]
    exact this
  · rw [hcore]
    exact whole

theorem exec_cmpEq (m : Mv) (s : State) : exec (.cmpEq m) s = saCompare (.cmpEq m) m s := rfl
theorem exec_cmpNe (m : Mv) (s : State) : exec (.cmpNe m) s = saCompare (.cmpNe m) m s := rfl
theorem exec_cmpLt (m : Mv) (s : State) : exec (.cmpLt m) s = saCompare (.cmpLt m) m s := rfl
theorem exec_cmpLe (m : Mv) (s : State) : exec (.cmpLe m) s = saCompare (.cmpLe m) m s := rfl
theorem exec_cmpLtu (m : Mv) (s : State) : exec (.cmpLtu m) s = saCompare (.cmpLtu m) m s := rfl
theorem exec_cmpLeu (m : Mv) (s : State) : exec (.cmpLeu m) s = saCompare (.cmpLeu m) m s := rfl
theorem exec_fcmpEq (m : Mv) (s : State) : exec (.fcmpEq m) s = saCompare (.fcmpEq m) m s := rfl
theorem exec_fcmpLt (m : Mv) (s : State) : exec (.fcmpLt m) s = saCompare (.fcmpLt m) m s := rfl
theorem exec_fcmpLe (m : Mv) (s : State) : exec (.fcmpLe m) s = saCompare (.fcmpLe m) m s := rfl
theorem exec_fcmpUn (m : Mv) (s : State) : exec (.fcmpUn m) s = saCompare (.fcmpUn m) m s := rfl

/-- A NaN neither orders below anything nor equals anything (R366). -/
theorem numLt_nan {x y : Num} (h : x = .nan ∨ y = .nan) : numLt x y = false := by
  obtain rfl | rfl := h
  · rfl
  · cases x <;> rfl

theorem numEq_nan {x y : Num} (h : x = .nan ∨ y = .nan) : numEq x y = false := by
  obtain rfl | rfl := h <;> simp [numEq]

theorem fpCompare_unordered (a b : Word) : fpCompare 3 a b = decide (f32Of a = .nan ∨ f32Of b = .nan) := by
  rw [Bool.decide_or]
  rfl

/-- Settles O5: each compare gives its test of the latched operands to its combining type; a NaN is never less and never
equal. -/
theorem scalarComparesWritePredicate : Obligations.ScalarComparesWritePredicate := by
  unfold Obligations.ScalarComparesWritePredicate
  refine ⟨fun s fl m h => ⟨saCompares_of h (exec_cmpEq m s) rfl rfl, saCompares_of h (exec_cmpNe m s) rfl ?_,
    saCompares_of h (exec_cmpLt m s) rfl rfl, saCompares_of h (exec_cmpLe m s) rfl rfl,
    saCompares_of h (exec_cmpLtu m s) rfl rfl, saCompares_of h (exec_cmpLeu m s) rfl rfl⟩,
    fun s fl m h => ⟨_, _, _, _, saCompares_of h (exec_fcmpEq m s) rfl rfl, saCompares_of h (exec_fcmpLt m s) rfl rfl,
      saCompares_of h (exec_fcmpLe m s) rfl rfl, saCompares_of h (exec_fcmpUn m s) rfl rfl, fpCompare_unordered _ _,
      fun hnan => ⟨numEq_nan hnan, numLt_nan hnan, ?_⟩, rfl, rfl, rfl⟩⟩
  · exact (decide_not ..).symm
  · show (numLt _ _ || numEq _ _) = false
    rw [numLt_nan hnan, numEq_nan hnan]; rfl

end Sys2Proof.Machine
end

section
/-! PROOF. Moves: their issue and what their arrival writes (R52, R55 to R57, R66). -/

namespace Sys2Proof.Machine

/-! Issue (R52, R57). -/

/-- At its issue a slot instruction puts its move in flight, a compare whatever its guard; WAITT and MBSNAP do more. -/
theorem exec_issue {i : Instr} {m : Mv} {s : State} (h : s.cur.flight = none) (hm : moveOf i = some m)
    (hi : ∀ w, i ≠ .waitt w ∧ i ≠ .mbsnap w) : exec i s = .next (launch i m (isCompare i) s) := by
  obtain ⟨_, _, _, _, _, _, ⟨_, _, _⟩, _, _, _⟩ := s
  cases h
  cases i
  case waitt w => exact absurd rfl (hi w).1
  case mbsnap w => exact absurd rfl (hi w).2
  all_goals cases hm
  all_goals rfl

/-- Reading a source leaves the core's gang and bundle: only an accumulator's row pointer advances. -/
theorem readSource_frame (c : Core) (src : Source) (x bundle n : Nat) :
    (readSource c src x bundle n).2.gang = c.gang ∧ (readSource c src x bundle n).2.curBundle = c.curBundle := by
  cases src <;> exact ⟨rfl, rfl⟩

/-- A move that is delivered is in flight with what its source holds. -/
theorem launch_delivers {i : Instr} {m : Mv} {d : Nat} {always : Bool} {s : State} (hd : dstId i = some d)
    (hsrc : streamSource m.src = none) (hg : (guardOf (myCore s) m.g || always) = true) :
    let r := readSource (myCore s) m.src (now s) (myCore s).curBundle s.cur.slot
    OwnStep s (launch i m always s) r.2 [flightJob s i m d r.1 (guardOf (myCore s) m.g)] := by
  intro r
  have hlaunch : launch i m always s = postCore (setCore s (me s) r.2) (me s) (now s + moveLatency s.cur.slot m.src d)
      (arrivalPhase i) (.arrive ⟨i, r.1, guardOf (myCore s) m.g, now s, r.2.curBundle, s.cur.slot,
        now s + moveLatency s.cur.slot m.src d⟩) := by
    have hcheck : checkPop (myCore s) m.src (guardOf (myCore s) m.g || always) (now s) (myCore s).curBundle s.cur.slot =
        myCore s := by simp only [checkPop, hsrc]
    unfold myCore at hcheck hg
    simp only [launch, hd, Option.getD_some]
    rw [hg] at hcheck
    rw [hg, if_pos rfl]
    unfold now at hcheck
    rw [hcheck]
    rfl
  obtain ⟨hgang, hbundle⟩ := readSource_frame (myCore s) m.src (now s) (myCore s).curBundle s.cur.slot
  have step := (ownStep_modMe s fun _ => r.2).trans (ownStep_postCore (modMe s fun _ => r.2)
    (now s + moveLatency s.cur.slot m.src d) (arrivalPhase i) (.arrive ⟨i, r.1, guardOf (myCore s) m.g, now s, r.2.curBundle,
      s.cur.slot, now s + moveLatency s.cur.slot m.src d⟩))
  rw [(ownStep_modMe s fun _ => r.2).ownJob_eq hgang, myCore_modMe] at step
  rw [hlaunch]
  show OwnStep s _ _ [ownJob s _ _ _]
  rw [← hbundle]
  exact step

/-- A move that is not delivered changes nothing. -/
theorem launch_dropped {i : Instr} {m : Mv} {s : State} (hsrc : streamSource m.src = none)
    (hg : guardOf (myCore s) m.g = false) : OwnStep s (launch i m false s) (myCore s) [] := by
  have hlaunch : launch i m false s = setCore s (me s) (myCore s) := by
    unfold myCore at hg
    simp only [launch, hg, checkPop, hsrc]
    rfl
  rw [hlaunch]
  exact ownStep_modMe s id

/-- Settles O7: a move is launched by its guard, a compare always; a lane's latency is that of its distance, which is 0 for an
immediate. -/
theorem movesIssue : Obligations.MovesIssue := by
  unfold Obligations.MovesIssue
  refine ⟨fun s i m d h hm hd hsrc hi => ⟨fun hg => ?_, fun hg hc => ?_, fun hg hc => ?_⟩, fun n src d _ => ?_⟩
  · have step := launch_delivers (s := s) (always := isCompare i) hd hsrc (by rw [hg, Bool.true_or])
    rw [hg] at step
    exact ⟨_, exec_issue h hm hi, step⟩
  · have step := launch_dropped (i := i) hsrc hg
    exact ⟨_, by rw [exec_issue h hm hi, hc], step⟩
  · have step := launch_delivers (s := s) (always := true) hd hsrc (Bool.or_true _)
    rw [hg] at step
    exact ⟨_, by rw [exec_issue h hm hi, hc], step⟩
  · cases hs : homeStation src with
    | none => simp [moveLatency, moveDistance, hs]
    | some k => simp [moveLatency]

/-! Arrival (R56, R66). -/

theorem exec_move_arrival {s : State} {fl : Flight} (m : Mv) (d : Dest) (h : s.cur.flight = some fl) :
    exec (.move m d) s = .next (modMe s (moveArrive d fl)) := by
  show execMove m d s = _
  rw [execMove, h]

/-- What a move writes does not depend on the notes of deliveries, and leaves them as they are. -/
theorem writeDest_noted (c e : Core) (d : Dest) (v : Val) : writeDest (noted c e) d v = noted (writeDest c d v) e := by
  cases d with
  | sreg n => unfold writeDest setSreg; dsimp only; split <;> rfl
  | preg n => unfold writeDest setPred; dsimp only; split <;> rfl
  | port p =>
    cases p with
    | vec u q => cases q <;> rfl
    | _ => rfl
  | _ => rfl

theorem writeDest_raised (c : Core) (d : Dest) (v : Val) : (writeDest c d v).raised = c.raised := by
  have h := congrArg Core.raised (writeDest_noted c c d v)
  rwa [noted_self] at h

/-- A move to a place that is no predicate writes it, and raises no fault but a collision. -/
theorem move_completes {s : State} {fl : Flight} (m : Mv) {d : Dest} (h : s.cur.flight = some fl) (hd : ∀ n, d ≠ .preg n) :
    Completes (.move m d) s (writeDest (myCore s) d fl.val) [] := by
  have harrive : moveArrive d fl (myCore s) = noted (writeDest (myCore s) d fl.val) (noteArrival (myCore s) (destId d) fl) := by
    cases d with
    | preg n => exact absurd rfl (hd n)
    | _ =>
      simp only [moveArrive]
      rw [noteArrival_noted, writeDest_noted]
      rfl
  have step := ownStep_modMe s (moveArrive d fl)
  rw [harrive] at step
  refine ⟨_, exec_move_arrival m d h, step.noted, ?_⟩
  rw [step.core]
  exact noteArrival_raises (myCore s) (destId d) fl

/-- A predicate reads what was written to it, and every other as before; p0 is never written (R56). -/
theorem predOf_setPred (c : Core) (n : Fin 8) (v : Bool) {j : Nat} (hj : j < 8) :
    predOf (setPred c n.val v) j = if j = n.val ∧ j ≠ 0 then v else predOf c j := by
  obtain ⟨n, hn⟩ := n
  show predOf (setPred c n v) j = if j = n ∧ j ≠ 0 then v else predOf c j
  by_cases hn0 : n = 0
  · have hsame : ¬ (j = n ∧ j ≠ 0) := by omega
    rw [setPred, if_pos (Or.inl hn0), if_neg hsame]
  · by_cases hj0 : j = 0
    · simp [predOf, hj0]
    · have hbit : ((1 : BitVec 8) <<< n).getLsbD j = decide (j = n) := by
        rw [BitVec.getLsbD_shiftLeft, show (1 : BitVec 8) = 1#8 from rfl, BitVec.getLsbD_one]
        grind
      rw [setPred, if_neg (by omega)]
      simp only [predOf, hj0, if_false, ne_eq, not_false_eq_true, and_true]
      cases v with
      | false => rw [if_neg (by decide), BitVec.getLsbD_and, BitVec.getLsbD_not, hbit]; by_cases hjn : j = n <;> simp [hjn, hn, hj]
      | true => rw [if_pos rfl, BitVec.getLsbD_or, hbit]; by_cases hjn : j = n <;> simp [hjn]

/-- A move to a predicate writes it. -/
theorem preg_arrives {s : State} {fl : Flight} (m : Mv) (n : Fin 8) (h : s.cur.flight = some fl) :
    ∃ t, exec (.move m (.preg n)) s = .next t ∧
      OwnStep s t (noted { myCore s with p := (coreOf t (me s)).p, predDue := (coreOf t (me s)).predDue } (coreOf t (me s))) [] ∧
      ∀ j < 8, predOf (coreOf t (me s)) j =
        if j = n.val ∧ j ≠ 0 then (scalarIn .z fl.val).getLsbD 0 else predOf (myCore s) j := by
  have step := ownStep_modMe s (moveArrive (.preg n) fl)
  refine ⟨_, exec_move_arrival m _ h, ?_, fun j hj => ?_⟩
  · have hspec : moveArrive (.preg n) fl (myCore s) =
        noted { myCore s with p := (moveArrive (.preg n) fl (myCore s)).p
                              predDue := (moveArrive (.preg n) fl (myCore s)).predDue } (moveArrive (.preg n) fl (myCore s)) := by
      simp only [moveArrive, writeDest]
      rw [notePred_spec]
      unfold setPred
      split <;> rfl
    rw [step.core]
    rw [hspec] at step
    exact step
  · rw [step.core]
    show predOf (setPred (notePred _ _ _ _ _ _ _) n.val _) j = _
    rw [predOf_setPred _ _ _ hj, notePred_spec]
    rfl

/-- Settles O8: an arrival writes what `writeDest` says of its place, s0 nothing. -/
theorem moveWrites : Obligations.MoveWrites := by
  unfold Obligations.MoveWrites
  refine ⟨fun s fl m h => ⟨move_completes m h nofun, move_completes m h nofun, fun n hn => ?_, fun n => move_completes m h nofun,
    fun n => move_completes m h nofun, fun n => preg_arrives m n h⟩, fun s fl m p h => ⟨_, move_completes m h nofun, ?_⟩⟩
  · have hwrite : writeDest (myCore s) (.sreg n) fl.val = { myCore s with s := tset 0 (myCore s).s n.val (scalarIn .s fl.val) } :=
      if_neg fun h0 => hn (Fin.ext h0)
    rw [← hwrite]
    exact move_completes m h nofun
  · refine ⟨fun hp => ?_, ?_, ?_, ?_, ?_, ?_⟩
    · cases p with
      | vec u q =>
        obtain ⟨ha, hb, hc, hk, hsc, -⟩ := hp u .a
        cases q with
        | a => exact absurd rfl ha
        | b => exact absurd rfl hb
        | c => exact absurd rfl hc
        | k => exact absurd rfl hk
        | sc => exact absurd rfl hsc
        | _ => rfl
      | bankData g => exact absurd rfl (hp .va g).2.2.2.2.2.1
      | bankCmp g => exact absurd rfl (hp .va g).2.2.2.2.2.2
      | _ => rfl
    · rintro g rfl; rfl
    · rintro u rfl; rfl
    · rintro g rfl; rfl
    · rintro u rfl; rfl
    · rintro u n (⟨rfl, rfl⟩ | ⟨rfl, rfl⟩ | ⟨rfl, rfl⟩) <;> exact ⟨_, _, rfl, rfl⟩

/-- Settles O9: NOP's row of `exec` is the state as it is. -/
theorem neverGuard : Obligations.NeverGuard := fun s rest => show execNop rest s = .next s from rfl

end Sys2Proof.Machine
end

section
/-! PROOF. The bank groups: loads, stores and read-modify-writes at their arrival, and their reads and writes (R71 to R82, R342,
R373, R410). -/

namespace Sys2Proof.Machine

/-! What the checks of a bank-group access may do to its core (R71, R72, R74, R79). -/

/-- `d` is `c` but for the accesses reserved, the notes of deliveries and the faults, which are those of an access. -/
structure BankChecked (c d : Core) : Prop where
  frame : d = noted { c with accesses := d.accesses, deferred := d.deferred } d
  raises : RaisesOnly [4, 5, 0x0A] c d
  deferred : ∀ q ∈ d.deferred, q ∈ c.deferred ∨ q.code = 5

theorem BankChecked.refl (c : Core) : BankChecked c c := ⟨rfl, .refl _ _, fun _ h => .inl h⟩

theorem BankChecked.trans {c d e : Core} (h₁ : BankChecked c d) (h₂ : BankChecked d e) : BankChecked c e := by
  refine ⟨h₂.frame.trans ?_, h₁.raises.trans h₂.raises, fun q hq => (h₂.deferred q hq).elim (h₁.deferred q) .inr⟩
  rw [h₁.frame]
  rfl

theorem RaisesOnly.mono {cs ds : List Nat} {c d : Core} (h : RaisesOnly cs c d) (hs : ∀ n ∈ cs, n ∈ ds) : RaisesOnly ds c d :=
  fun r hr => (h r hr).imp_right (hs _)

theorem bankChecked_noteTrigger (n : Nat) (c : Core) (fl : Flight) : BankChecked c (noteTrigger n c fl) := by
  refine ⟨?_, (noteTrigger_raises n c fl).mono (by simp), ?_⟩
  · rw [noteTrigger_noted]
    rfl
  · rw [noteTrigger_noted]
    exact fun q hq => .inl hq

theorem bankChecked_of_raised {c d : Core} (h : d = { c with raised := d.raised }) (hr : RaisesOnly [4, 5, 0x0A] c d) :
    BankChecked c d := by
  refine ⟨?_, hr, ?_⟩
  · rw [h]
    rfl
  · rw [h]
    exact fun q hq => .inl hq

theorem bankChecked_raiseFor (c : Core) (fl : Flight) (rs : List Nat) (code : Nat) (a b d : Word)
    (h : code ∈ [4, 5, 0x0A]) : BankChecked c (raiseFor c fl rs code a b d) :=
  bankChecked_of_raised (raiseFor_spec ..) (addRaise_raises c _ h)

/-- An access within its group raises no fault but that of a region not claimed (R79). -/
theorem bankChecked_checkBank {g : Bank} {a n al : Nat} (c : Core) (fl : Flight) (h : spanOk (bankNo g) a n al = true) :
    BankChecked c (checkBank c fl g a n al) := by
  simp only [checkBank, h, if_true]
  split
  · exact bankChecked_raiseFor _ _ _ _ _ _ _ (by simp)
  · exact .refl _

theorem bankChecked_addCharged (c : Core) (x : Nat) (r : Raise) (h : r.code = 5) : BankChecked c (addCharged c x r) := by
  unfold addCharged
  split
  · refine ⟨rfl, .refl _ _, fun q hq => ?_⟩
    rcases List.mem_append.1 hq with hq | hq
    · exact .inl hq
    · rw [List.mem_singleton.1 hq]; exact .inr h
  · exact bankChecked_of_raised (addRaise_spec c r) (addRaise_raises c r (by simp [h]))

theorem bankChecked_accesses (c : Core) (as : List Access) : BankChecked c { c with accesses := as } :=
  ⟨rfl, .refl _ _, fun _ h => .inl h⟩

/-- Reserving an access raises no fault but a conflict (R72, R74). -/
theorem bankChecked_reserve (c : Core) (a : Access) : BankChecked c (reserve c a) := by
  unfold reserve
  dsimp only
  split
  · exact (bankChecked_addCharged _ _ _ rfl).trans (bankChecked_accesses _ _)
  · exact bankChecked_accesses _ _

theorem bankChecked_reserveRmw (c : Core) (arrive addr : Nat) (acas : Bool) (ch : Nat × Nat × Nat) :
    BankChecked c (reserveRmw c arrive addr acas ch) :=
  ((bankChecked_reserve _ _).trans (bankChecked_reserve _ _)).trans (bankChecked_reserve _ _)

theorem bankChecked_reserveCas (c : Core) (x addr : Nat) : BankChecked c (reserveCas c x addr) := by
  unfold reserveCas
  split
  · exact .refl _
  · exact (bankChecked_accesses _ _).trans (bankChecked_reserve _ _)

theorem BankChecked.gang_eq {c d : Core} (h : BankChecked c d) : d.gang = c.gang := by rw [h.frame]; rfl
theorem BankChecked.idx_eq {c d : Core} (h : BankChecked c d) : d.idx = c.idx := by rw [h.frame]; rfl
theorem BankChecked.scratch_eq {c d : Core} (h : BankChecked c d) : d.scratch = c.scratch := by rw [h.frame]; rfl
theorem BankChecked.vportOf_eq {c d : Core} (h : BankChecked c d) (n : Nat) : vportOf d n = vportOf c n := by rw [h.frame]; rfl

/-! Arrival. -/

/-- What a trigger of a bank group has made of its core when its accesses are reserved. -/
def bankEntered (i : Instr) (g : Bank) (n al : Nat) (f : Core → Core) (s : State) (fl : Flight) : State :=
  modMe (modMe (modMe s fun c => noteTrigger ((dstId i).getD 0 / 64) c fl) fun c => checkBank c fl g (bankAddr fl) n al) f

theorem bankEntered_spec {g : Bank} {n al : Nat} {f : Core → Core} (i : Instr) (s : State) (fl : Flight)
    (hspan : spanOk (bankNo g) (bankAddr fl) n al = true) (hf : ∀ c, BankChecked c (f c)) :
    ∃ c, OwnStep s (bankEntered i g n al f s fl) c [] ∧ BankChecked (myCore s) c := by
  have step := ((ownStep_modMe s fun c => noteTrigger ((dstId i).getD 0 / 64) c fl).trans
    (ownStep_modMe _ fun c => checkBank c fl g (bankAddr fl) n al)).trans (ownStep_modMe _ f)
  rw [myCore_modMe, myCore_modMe] at step
  exact ⟨_, step, ((bankChecked_noteTrigger ..).trans (bankChecked_checkBank _ _ hspan)).trans (hf _)⟩

/-- A bank-group operation starts when its checks pass and its read or write is scheduled. -/
theorem bankStarts_of {i : Instr} {g : Bank} {n al due ph : Nat} {f : Core → Core} {d : Core → Deed} {d' : Deed} {s : State}
    {fl : Flight} (hspan : spanOk (bankNo g) (bankAddr fl) n al = true) (hf : ∀ c, BankChecked c (f c))
    (hx : exec i s = let u := bankEntered i g n al f s fl; .next (postDeed u (me u) due ph (d (myCore u))))
    (hd : ∀ c, BankChecked (myCore s) c → d c = d') : BankStarts i s due ph d' := by
  obtain ⟨c, enter, checked⟩ := bankEntered_spec i s fl hspan hf
  have step := enter.trans (ownStep_postDeed _ due ph (d (myCore (bankEntered i g n al f s fl))))
  rw [enter.ownJob_eq checked.gang_eq, enter.myCore_eq, hd c checked] at step
  have hcore := step.core
  refine ⟨_, hx, ?_, ?_, ?_⟩
  · rw [enter.myCore_eq, hd c checked, hcore]
    exact checked.raises
  · rw [enter.myCore_eq, hd c checked, hcore]
    exact checked.deferred
  · rw [enter.myCore_eq, hd c checked, hcore, ← checked.frame]
    exact step

theorem spanOk_iff (g : Bank) (a n al : Nat) : spanOk (bankNo g) a n al = true ↔ InGroup g a n al := by
  simp only [spanOk, InGroup, groupOf]
  exact decide_eq_true_iff

section
variable {i : Instr} {g : Bank} {m : Mv} {n al : Nat} {s : State} {fl : Flight} (h : s.cur.flight = some fl)
include h

/-- A load within its group has its read scheduled for the next cycle (R373). -/
theorem load_starts (hx : exec i s = load i g m n al s) (hin : InGroup g (bankAddr fl) n al) :
    BankStarts i s (fl.arrive + 1) phRead (.load g (bankAddr fl) n) := by
  have hspan := (spanOk_iff ..).2 hin
  refine bankStarts_of (d := fun _ => .load g (bankAddr fl) n) hspan
    (fun c => bankChecked_reserve c (mkAccess (fl.arrive + 1) (bankAddr fl) n 0 (fl.issue, fl.bundle, fl.slot) false)) ?_
    fun _ _ => rfl
  rw [hx, load, trigger_arrival _ _ _ _ _ h]
  simp only [hspan, if_true]
  rfl

/-- A store within its group has its data latched and its write scheduled for two cycles later (R410). -/
theorem store_starts (hx : exec i s = store i g m n al s) (hin : InGroup g (bankAddr fl) n al) :
    BankStarts i s (fl.arrive + 2) phWrite (.store ⟨bankAddr fl, storeBytes (myCore s) g n, 0, agentId 1 (myCore s).idx,
      (myCore s).idx, 0⟩) := by
  have hspan := (spanOk_iff ..).2 hin
  refine bankStarts_of (d := fun c => .store ⟨bankAddr fl, storeBytes c g n, 0, agentId 1 c.idx, c.idx, 0⟩) hspan
    (fun c => bankChecked_reserve c (mkAccess (fl.arrive + 2) (bankAddr fl) n 1 (fl.issue, fl.bundle, fl.slot) false)) ?_
    fun c checked => ?_
  · rw [hx, store, trigger_arrival _ _ _ _ _ h]
    simp only [hspan, if_true]
    rfl
  · simp only [storeBytes, checked.vportOf_eq, checked.idx_eq]

/-- A read-modify-write within its group has its operands latched and its read scheduled for the next cycle (R342). -/
theorem atomic_starts {op : Nat} (hx : exec i s = atomic i g m op s) (hin : InGroup g (bankAddr fl) 4 4) :
    BankStarts i s (fl.arrive + 1) phRead (.rmwRead g op (bankAddr fl) ((vportOf (myCore s) (bankBase g + 1)).setWidth 32)
      ((vportOf (myCore s) (bankBase g + 2)).setWidth 32) 0) := by
  have hspan := (spanOk_iff ..).2 hin
  refine bankStarts_of (d := fun c => .rmwRead g op (bankAddr fl) ((vportOf c (bankBase g + 1)).setWidth 32)
    ((vportOf c (bankBase g + 2)).setWidth 32) 0) hspan
    (fun c => bankChecked_reserveRmw c fl.arrive (bankAddr fl) (op == 9) (fl.issue, fl.bundle, fl.slot)) ?_ fun c checked => ?_
  · rw [hx, atomic, trigger_arrival _ _ _ _ _ h]
    simp only [hspan, if_true]
    rfl
  · simp only [checked.vportOf_eq]

end

/-! What Radish and the watchpoints note (R199 to R201, R292). -/

/-- `d` is `c` but for the notes of checks of its accesses and its faults. -/
def CheckNoted (c d : Core) : Prop :=
  d = { c with racecnt := d.racecnt, records := d.records, lost := d.lost, raised := d.raised, accesses := d.accesses,
               deferred := d.deferred }

theorem CheckNoted.refl (c : Core) : CheckNoted c c := rfl

theorem CheckNoted.trans {c d e : Core} (h₁ : CheckNoted c d) (h₂ : CheckNoted d e) : CheckNoted c e := by
  refine Eq.trans h₂ ?_
  rw [CheckNoted] at h₁
  rw [h₁]

theorem CheckNoted.of_raised {c d : Core} (h : d = { c with raised := d.raised }) : CheckNoted c d := by
  rw [h]
  rfl

theorem checkNoted_addRecord (c : Core) (r : Record) : CheckNoted c (addRecord c r) := by
  unfold addRecord
  split <;> rfl

/-- The step changes of cores only such notes; clocks and scheduled work are as before. -/
structure StateNoted (s t : State) : Prop where
  cores : ∀ k, CheckNoted (coreOf s k) (coreOf t k)
  gangs : t.gangs = s.gangs
  agenda : t.agenda = s.agenda

theorem StateNoted.refl (s : State) : StateNoted s s := ⟨fun _ => .refl _, rfl, rfl⟩

theorem StateNoted.trans {s t u : State} (h₁ : StateNoted s t) (h₂ : StateNoted t u) : StateNoted s u :=
  ⟨fun k => (h₁.cores k).trans (h₂.cores k), h₂.gangs.trans h₁.gangs, h₂.agenda.trans h₁.agenda⟩

theorem StateNoted.foldl {α : Type} {f : State → α → State} (h : ∀ s a, StateNoted s (f s a)) (as : List α) (s : State) :
    StateNoted s (as.foldl f s) := by
  induction as generalizing s with
  | nil => exact .refl s
  | cons a as ih => exact (h s a).trans (ih (f s a))

theorem stateNoted_modCore (s : State) (k : Nat) {f : Core → Core} (h : ∀ c, CheckNoted c (f c)) :
    StateNoted s (modCore s k f) := by
  refine ⟨fun j => ?_, rfl, rfl⟩
  by_cases hj : j = k
  · rw [hj, coreOf_modCore_self]; exact h _
  · rw [coreOf_modCore_ne _ _ hj]; exact .refl _

theorem stateNoted_raceReport (s : State) (k addr : Nat) (x : BitVec 16) (rw : Nat) (sh : Shadow) (untimed : Bool)
    (victim : Nat) (ch : Option (Nat × Nat × Nat)) : StateNoted s (raceReport s k addr x rw sh untimed victim ch) := by
  have recorded (r : Record) (n : BitVec 32) (c : Core) : CheckNoted c (addRecord { c with racecnt := n } r) :=
    CheckNoted.trans (d := { c with racecnt := n }) rfl (checkNoted_addRecord _ _)
  unfold raceReport
  dsimp only
  split
  · exact .refl s
  · split
    · refine (stateNoted_modCore s k fun c => recorded _ _ c).trans (stateNoted_modCore _ _ fun c => ?_)
      split
      · exact .of_raised (addRaise_spec ..)
      · exact .of_raised (raiseNow_spec ..)
    · exact stateNoted_modCore s k fun c => recorded _ _ c

/-- Radish's checks note and report, and change no byte (R199). -/
theorem stateNoted_raceScratch (s : State) (k addr n : Nat) (x : BitVec 16) (rw : Nat) (ch : Option (Nat × Nat × Nat)) :
    StateNoted s (raceScratch s k addr n x rw ch) := by
  refine .foldl (fun s i => ?_) _ s
  dsimp only
  split
  · exact stateNoted_raceReport ..
  · exact .refl s

theorem BankChecked.checkNoted {c d : Core} (h : BankChecked c d) (hdeliv : d.deliv = c.deliv) : CheckNoted c d := by
  have hframe := h.frame
  rw [noted, hdeliv] at hframe
  rw [hframe]
  rfl

theorem StateNoted.scratch_eq {s t : State} (h : StateNoted s t) (k : Nat) : (coreOf t k).scratch = (coreOf s k).scratch := by
  rw [h.cores k]

theorem StateNoted.gang_eq {s t : State} (h : StateNoted s t) (k : Nat) : (coreOf t k).gang = (coreOf s k).gang := by
  rw [h.cores k]

theorem StateNoted.flags_eq {s t : State} (h : StateNoted s t) (k : Nat) : (coreOf t k).flags = (coreOf s k).flags := by
  rw [h.cores k]

theorem StateNoted.scratchSame {s t : State} (h : StateNoted s t) : ScratchSame s t := fun j b => by rw [h.scratch_eq j]

theorem StateNoted.postCore_agenda {s t : State} (h : StateNoted s t) (k due ph : Nat) (x : Task) :
    (postCore t k due ph x).agenda = s.agenda ++ [⟨.gang (coreOf s k).gang, due, ph, some k, x⟩] := by
  rw [Machine.postCore_agenda, h.agenda, h.gang_eq]

/-! Reads (R73, R373). -/

theorem load_reads (s : State) (k a n : Nat) (g : Bank) (h : isVoided (coreOf s k) (gcycOf s k) a n = false) :
    (performDeed s k (.load g a n)).agenda = s.agenda ++
      [⟨.gang (coreOf s k).gang, gcycOf s k + 2, phDone, some k, .event (.operationComplete k (bankResult g)
        (BitVec.ofNat 2048 (leNat (scratchBytes (coreOf s k) a n))) 0)⟩] ∧
    ScratchSame s (performDeed s k (.load g a n)) := by
  have raced := stateNoted_raceScratch s k a n (agentId 1 (coreOf s k).idx) 0 (chargeAt (coreOf s k) (gcycOf s k) a)
  show (loadRead s k g a n).agenda = _ ∧ ScratchSame s (loadRead s k g a n)
  simp only [loadRead, h, Bool.false_eq_true, if_false]
  exact ⟨raced.postCore_agenda k _ _ _, raced.scratchSame⟩

/-! Writes (R73, R410). -/

theorem checkWatch_scratch (c : Core) (x : Nat) (w : ScratchWrite) : CheckNoted c (checkWatch c x w) := by
  unfold checkWatch
  dsimp only
  generalize List.find? _ _ = stop
  induction (watches c).filter _ using List.reverseRecOn with
  | nil => exact .refl c
  | append_singleton xs y ih =>
    rw [List.foldl_append]
    refine ih.trans ?_
    simp only [List.foldl_cons, List.foldl_nil]
    split
    · exact .of_raised (raiseNow_spec ..)
    · exact checkNoted_addRecord _ _

theorem tget_tputs (d : Byte) (t : Table Byte) (a j : Nat) (bs : List Byte) :
    tget d (tputs d t a bs) j = if a ≤ j ∧ j < a + bs.length then bs.getD (j - a) d else tget d t j := by
  split
  case isTrue h =>
    obtain ⟨i, rfl⟩ := Nat.exists_eq_add_of_le h.1
    rw [tget_tputs_at _ _ _ _ _ (by omega), Nat.add_sub_cancel_left]
  case isFalse h => exact tget_tputs_ne _ _ _ _ _ (by omega)

/-- A write performs: its bytes are in place, every other byte is as before, and nothing is scheduled. -/
theorem performWrite_spec (s : State) (k : Nat) (w : ScratchWrite) :
    ScratchBut s (performWrite s k w) k w.addr w.data ∧ (performWrite s k w).agenda = s.agenda ∧
      ∀ j, (coreOf (performWrite s k w) j).flags = (coreOf s j).flags := by
  unfold performWrite
  dsimp only
  split
  next hnil =>
    refine ⟨fun j b => ?_, rfl, fun _ => rfl⟩
    rw [if_neg]
    simp only [hnil, List.length_nil]
    omega
  next =>
    generalize (if w.agent = agentId 1 (coreOf s k).idx then _ else _ : Option (Nat × Nat × Nat)) = ch
    have raced := stateNoted_raceScratch s k w.addr w.data.length w.agent 1 ch
    generalize raceScratch s k w.addr w.data.length w.agent 1 ch = u at *
    refine ⟨fun j b => ?_, raced.agenda, fun j => ?_⟩
    · by_cases hj : j = k
      · rw [hj, coreOf_modCore_self, checkWatch_scratch, shadowWrite, coreOf_modCore_self]
        show tget 0 (tputs 0 (coreOf u k).scratch w.addr w.data) b = _
        rw [raced.scratch_eq, tget_tputs]
        simp
      · rw [coreOf_modCore_ne _ _ hj, shadowWrite, coreOf_modCore_ne _ _ hj, raced.scratch_eq]
        simp [hj]
    · by_cases hj : j = k
      · rw [hj, coreOf_modCore_self, checkWatch_scratch, shadowWrite, coreOf_modCore_self]
        exact raced.flags_eq k
      · rw [coreOf_modCore_ne _ _ hj, shadowWrite, coreOf_modCore_ne _ _ hj]
        exact raced.flags_eq j

/-- Settles O10: a load's checks pass and schedule its read, which takes scratch as it stands. -/
theorem loadsReadAtNextCycle : Obligations.LoadsReadAtNextCycle := by
  unfold Obligations.LoadsReadAtNextCycle
  exact ⟨fun s fl m g h => ⟨load_starts h rfl, load_starts h rfl, load_starts h rfl, load_starts h rfl, load_starts h rfl⟩,
    load_reads⟩

/-- Settles O11: a store's checks pass and schedule its write, which changes its bytes alone. -/
theorem storesWriteTwoCyclesLater : Obligations.StoresWriteTwoCyclesLater := by
  unfold Obligations.StoresWriteTwoCyclesLater
  refine ⟨fun s fl m g h => ⟨store_starts h rfl, store_starts h rfl, store_starts h rfl, store_starts h rfl, store_starts h rfl⟩,
    fun s k w hv => ?_⟩
  have hstore : performDeed s k (.store w) = performWrite s k w := by
    show storeWrite s k w = _
    rw [storeWrite, hv]
    rfl
  obtain ⟨hbytes, hagenda, -⟩ := performWrite_spec s k w
  rw [hstore]
  exact ⟨hbytes, hagenda⟩

/-! Read-modify-writes (R82, R342). -/

theorem ite_slt_eq_ite_toInt_le_rmw (a b : BitVec 32) : (if b.slt a then b else a) = if a.toInt ≤ b.toInt then a else b := by
  simp only [BitVec.slt_iff_toInt_lt, ← not_le, ite_not]

theorem ite_ult_eq_ite_toNat_le_rmw (a b : BitVec 32) : (if b.ult a then b else a) = if a.toNat ≤ b.toNat then a else b := by
  simp only [BitVec.ult_iff_toNat_lt, ← not_le, ite_not]

/-- The read presents the old word and schedules what `atomicOp` has written of the new one. -/
theorem rmw_reads {s : State} {k a cls op : Nat} {g : Bank} {d e : BitVec 32} {new : Option (BitVec 32)} {f : Flags}
    (h : isVoided (coreOf s k) (gcycOf s k) a 4 = false)
    (hop : ∃ v b, atomicOp op (BitVec.ofNat 32 (leNat (scratchBytes (coreOf s k) a 4))) d e = (v, b, f) ∧
      new = if b then some v else none) :
    ScratchSame s (performDeed s k (.rmwRead g op a d e cls)) ∧
    (performDeed s k (.rmwRead g op a d e cls)).agenda = s.agenda ++
      [⟨.gang (coreOf s k).gang, gcycOf s k + 2, phDone, some k, .event (.operationComplete k (bankResult g)
          ((BitVec.ofNat 32 (leNat (scratchBytes (coreOf s k) a 4))).setWidth 2048) 0)⟩,
       ⟨.gang (coreOf s k).gang, gcycOf s k + 2, phWrite, some k, .deed (.rmwWrite g
          ⟨a, (new.map fun w => leBytes 4 w.toNat).getD [], cls, agentId 1 (coreOf s k).idx, (coreOf s k).idx, 0⟩ f)⟩] := by
  obtain ⟨v, b, hop, rfl⟩ := hop
  have raced := stateNoted_raceScratch s k a 4 (agentId 1 (coreOf s k).idx) 0 (chargeAt (coreOf s k) (gcycOf s k) a)
  have hcas (c : Core) : CheckNoted c (reserveCas c (gcycOf s k + 2) a) := by
    refine (bankChecked_reserveCas c _ a).checkNoted ?_
    unfold reserveCas reserve addCharged addRaise
    dsimp only
    repeat' split
    all_goals rfl
  show ScratchSame s (rmwRead s k g op a d e cls) ∧ (rmwRead s k g op a d e cls).agenda = _
  simp only [rmwRead, h, Bool.false_eq_true, if_false, hop]
  generalize raceScratch s k a 4 (agentId 1 (coreOf s k).idx) 0 (chargeAt (coreOf s k) (gcycOf s k) a) = u at *
  have reserved : StateNoted s (if op = 9 ∧ b = true then modCore u k fun c => reserveCas c (gcycOf s k + 2) a else u) := by
    split
    · exact raced.trans (stateNoted_modCore u k hcas)
    · exact raced
  generalize (if op = 9 ∧ b = true then modCore u k fun c => reserveCas c (gcycOf s k + 2) a else u) = t at *
  refine ⟨reserved.scratchSame, ?_⟩
  have hdata : ((if b = true then some v else none).map fun w => leBytes 4 w.toNat).getD [] =
      if b = true then leBytes 4 v.toNat else [] := by cases b <;> rfl
  rw [postDeed_agenda, coreOf_postCore, reserved.gang_eq, reserved.postCore_agenda, List.append_assoc, hdata]
  rfl

/-- The write sets its flags and changes its bytes alone. -/
theorem rmw_writes (s : State) (k : Nat) (g : Bank) (w : ScratchWrite) (f : Flags)
    (h₁ : isVoided (coreOf s k) (gcycOf s k) w.addr 4 = false) (h₂ : isVoided (coreOf s k) (gcycOf s k - 1) w.addr 4 = false) :
    ScratchBut s (performDeed s k (.rmwWrite g w f)) k w.addr w.data ∧ (performDeed s k (.rmwWrite g w f)).agenda = s.agenda ∧
      (coreOf (performDeed s k (.rmwWrite g w f)) k).flags = (coreOf s k).flags ||| f := by
  have hwrite : performDeed s k (.rmwWrite g w f) = performWrite (modCore s k fun c => addFlags c f) k w := by
    show rmwWrite s k g w f = _
    simp only [rmwWrite, h₁, h₂, Bool.false_eq_true, or_false, if_false]
  obtain ⟨hbytes, hagenda, hflags⟩ := performWrite_spec (modCore s k fun c => addFlags c f) k w
  rw [hwrite]
  refine ⟨fun j b => ?_, hagenda, by rw [hflags, coreOf_modCore_self]; rfl⟩
  have hscratch : (coreOf (modCore s k fun c => addFlags c f) j).scratch = (coreOf s j).scratch := by
    by_cases hj : j = k
    · rw [hj, coreOf_modCore_self]; rfl
    · rw [coreOf_modCore_ne _ _ hj]
  rw [hbytes j b, hscratch]

/-- Settles O12: the checks pass and schedule the read, which takes the old word as it stands; `atomicOp` gives the new one. -/
theorem atomicsReadAndWriteInTheirCycles : Obligations.AtomicsReadAndWriteInTheirCycles := by
  unfold Obligations.AtomicsReadAndWriteInTheirCycles
  refine ⟨fun s fl m g h hin => ⟨atomic_starts h rfl hin, atomic_starts h rfl hin, atomic_starts h rfl hin,
    atomic_starts h rfl hin, atomic_starts h rfl hin, atomic_starts h rfl hin, atomic_starts h rfl hin, atomic_starts h rfl hin,
    atomic_starts h rfl hin, atomic_starts h rfl hin⟩, fun s k a cls g d e h => ?_, rmw_writes⟩
  refine ⟨rmw_reads h ⟨_, true, rfl, rfl⟩, rmw_reads h ⟨_, true, rfl, rfl⟩, rmw_reads h ⟨_, true, rfl, ?min⟩,
    rmw_reads h ⟨_, true, rfl, ?minu⟩, rmw_reads h ⟨_, true, rfl, ?max⟩, rmw_reads h ⟨_, true, rfl, ?maxu⟩,
    rmw_reads h ⟨_, true, rfl, rfl⟩, rmw_reads h ⟨_, true, rfl, rfl⟩, rmw_reads h ⟨_, true, rfl, rfl⟩,
    rmw_reads h ⟨_, _, rfl, ?cas⟩⟩
  case min => exact congrArg some (ite_slt_eq_ite_toInt_le_rmw ..).symm
  case minu => exact congrArg some (ite_ult_eq_ite_toNat_le_rmw ..).symm
  case max => simp only [BitVec.slt_iff_toInt_lt, if_true]
  case maxu => simp only [BitVec.ult_iff_toNat_lt, if_true]
  case cas => simp only [beq_iff_eq]

/-! A bad address (R71). -/

theorem mem_addRaise {c : Core} {r q : Raise} (h : q ∈ c.raised) : q ∈ (addRaise c r).raised := by
  unfold addRaise
  split
  · exact h
  · exact List.mem_append_left _ h

theorem checkBank_raises_span {c : Core} {g : Bank} {a n al : Nat} (fl : Flight) (h : spanOk (bankNo g) a n al = false)
    (hf : c.frozenAt = none) : ∃ r ∈ (checkBank c fl g a n al).raised, r.code = 8 ∧ r.a = 0 := by
  refine ⟨⟨8, fl.issue, fl.bundle, fl.slot, 0, 0, 0⟩, ?_, rfl, rfl⟩
  have hmem := raiseFor_charges_own_move c fl 8 0 0 0 hf
  simp only [checkBank, h, Bool.false_eq_true, if_false]
  split
  · exact mem_addRaise hmem
  · exact hmem

/-- An access outside its group, or not aligned, raises the scratch-address fault and does nothing else. -/
theorem bad_access {i : Instr} {g : Bank} {n al : Nat} {s : State} {fl : Flight} (hf : (myCore s).frozenAt = none)
    (hspan : spanOk (bankNo g) (bankAddr fl) n al = false) (hx : exec i s = .next (modMe (modMe s fun c =>
      noteTrigger ((dstId i).getD 0 / 64) c fl) fun c => checkBank c fl g (bankAddr fl) n al)) :
    ∃ t, exec i s = .next t ∧ t.agenda = s.agenda ∧ ScratchSame s t ∧
      ∃ r ∈ (coreOf t (me s)).raised, r.code = 8 ∧ r.a = 0 := by
  have step := (ownStep_modMe s fun c => noteTrigger ((dstId i).getD 0 / 64) c fl).trans
    (ownStep_modMe _ fun c => checkBank c fl g (bankAddr fl) n al)
  rw [myCore_modMe] at step
  refine ⟨_, hx, by rw [step.agenda]; simp, fun j b => ?_, ?_⟩
  · by_cases hj : j = me s
    · rw [hj, step.core, checkBank_spec, noteTrigger_noted]
      rfl
    · rw [step.others j hj]
  · rw [step.core]
    exact checkBank_raises_span fl hspan (by simpa using hf)

section
variable {i : Instr} {g : Bank} {m : Mv} {n al : Nat} {s : State} {fl : Flight} (h : s.cur.flight = some fl)
  (hf : (myCore s).frozenAt = none)
include h hf

theorem load_faults (hx : exec i s = load i g m n al s) (hin : ¬ InGroup g (bankAddr fl) n al) :
    ∃ t, exec i s = .next t ∧ t.agenda = s.agenda ∧ ScratchSame s t ∧
      ∃ r ∈ (coreOf t (me s)).raised, r.code = 8 ∧ r.a = 0 := by
  have hspan := Bool.eq_false_iff.2 (mt (spanOk_iff ..).1 hin)
  refine bad_access hf hspan ?_
  rw [hx, load, trigger_arrival _ _ _ _ _ h]
  simp only [hspan, Bool.false_eq_true, if_false]

theorem store_faults (hx : exec i s = store i g m n al s) (hin : ¬ InGroup g (bankAddr fl) n al) :
    ∃ t, exec i s = .next t ∧ t.agenda = s.agenda ∧ ScratchSame s t ∧
      ∃ r ∈ (coreOf t (me s)).raised, r.code = 8 ∧ r.a = 0 := by
  have hspan := Bool.eq_false_iff.2 (mt (spanOk_iff ..).1 hin)
  refine bad_access hf hspan ?_
  rw [hx, store, trigger_arrival _ _ _ _ _ h]
  simp only [hspan, Bool.false_eq_true, if_false]

theorem atomic_faults {op : Nat} (hx : exec i s = atomic i g m op s) (hin : ¬ InGroup g (bankAddr fl) 4 4) :
    ∃ t, exec i s = .next t ∧ t.agenda = s.agenda ∧ ScratchSame s t ∧
      ∃ r ∈ (coreOf t (me s)).raised, r.code = 8 ∧ r.a = 0 := by
  have hspan := Bool.eq_false_iff.2 (mt (spanOk_iff ..).1 hin)
  refine bad_access hf hspan ?_
  rw [hx, atomic, trigger_arrival _ _ _ _ _ h]
  simp only [hspan, Bool.false_eq_true, if_false]

end

/-- Settles O13: where the span check fails nothing is reserved or scheduled. -/
theorem badAddressFaults : Obligations.BadAddressFaults := by
  unfold Obligations.BadAddressFaults
  intro s fl m g h hf
  simp only [List.forall_mem_cons]
  exact ⟨load_faults h hf rfl, load_faults h hf rfl, load_faults h hf rfl, load_faults h hf rfl, load_faults h hf rfl,
    store_faults h hf rfl, store_faults h hf rfl, store_faults h hf rfl, store_faults h hf rfl, store_faults h hf rfl,
    atomic_faults h hf rfl, atomic_faults h hf rfl, atomic_faults h hf rfl, atomic_faults h hf rfl, atomic_faults h hf rfl,
    atomic_faults h hf rfl, atomic_faults h hf rfl, atomic_faults h hf rfl, atomic_faults h hf rfl, atomic_faults h hf rfl,
    List.forall_mem_nil _⟩

end Sys2Proof.Machine
end

section
/-! PROOF. The vector units' arithmetic, selection, masks and functions, and a reserved format (R60 to R62, R137, R413 to R430). -/

namespace Sys2Proof.Machine

/-! Elements made one by one, with or without draws (R137). -/

theorem convList_length {α : Type} (f : α → Nat → Nat × Flags) (rm : BitVec 4) (xs : List α) (g : BitVec 32) :
    (convList f rm xs g).1.length = xs.length := by
  induction xs generalizing g with
  | nil => rfl
  | cons x xs ih => exact congrArg Nat.succ (ih _)

/-- Each element is its function's value at some draw. -/
theorem convList_getElem {α : Type} (f : α → Nat → Nat × Flags) (rm : BitVec 4) (xs : List α) (g : BitVec 32) {e : Nat}
    (he : e < xs.length) : ∃ d, (convList f rm xs g).1.getD e 0 = (f xs[e] d).1 := by
  induction xs generalizing g e with
  | nil => exact absurd he (Nat.not_lt_zero _)
  | cons x xs ih =>
    cases e with
    | zero => exact ⟨_, rfl⟩
    | succ e => exact ih _ (Nat.lt_of_succ_lt_succ he)

/-- With no stochastic rounding nothing is drawn. -/
theorem convList_no_draw {α : Type} (f : α → Nat → Nat × Flags) (xs : List α) (g : BitVec 32) :
    (convList f 0 xs g).2.2 = g := by
  induction xs generalizing g with
  | nil => rfl
  | cons x xs ih => exact ih g

/-- An element-wise operation gives its function, at some draw, where k enables the element, and what passes through elsewhere
(R416, R417). -/
theorem elementwise_element (draws : Bool) (pass : Lane → Nat) (f : Lane → Nat → Nat × Flags) (x : VIn) {e : Nat}
    (he : e < 2048 / fmtWidth x.fmt) :
    ∃ d, elemAt (fmtWidth x.fmt) (elementwise draws pass f x).res e =
      if x.k.getLsbD e then (f (laneAt (fmtWidth x.fmt) x e) d).1 % 2 ^ fmtWidth x.fmt
      else pass (laneAt (fmtWidth x.fmt) x e) % 2 ^ fmtWidth x.fmt := by
  have hlen : e < (vecLanes x).length := by rw [vecLanes_eq_map]; simpa using he
  obtain ⟨d, hd⟩ := convList_getElem (fun l d => if l.on then f l d else (pass l, 0)) (if draws then x.rm else 0) _ x.gen hlen
  have hlane : (vecLanes x)[e] = laneAt (fmtWidth x.fmt) x e := by simp [vecLanes_eq_map]
  rw [hlane] at hd
  refine ⟨d, ?_⟩
  simp only [elementwise]
  rw [elemAt_packVec _ _ he, hd]
  show (if x.k.getLsbD e = true then _ else _ : Nat × Flags).1 % _ = _
  split <;> rfl

/-- An operation that is element-wise for the latched format completes with its function's value, at some draw, of each enabled
element, and with `p`'s element where one is disabled. -/
theorem vecGives_elements {i : Instr} {u : VUnit} {m : Mv} {cls : Option ImmClass} {accept : Fmt → Bool} {lat : Fmt → Nat}
    {F : VIn → VOut} {s : State} {fl : Flight} {b : Vec} {fmt : Fmt} {p : Vec} {v : Nat → Nat → Nat} (draws : Bool)
    (pass : Lane → Nat) (f : Lane → Nat → Nat × Flags) (h : s.cur.flight = some fl)
    (hf : fmtOfCode (tyCode (myCore s) u) = some fmt) (hx : exec i s = vecOp i u m cls accept ctlAny lat F s)
    (hb : vecIn (cls.getD (tyClass (myCore s) u).1) (tyClass (myCore s) u).2 fl.val = b) (ha : accept fmt = true)
    (hF : F (vecLatch s u b) = elementwise draws pass f (vecLatch s u b))
    (hp : ∀ e, pass (laneAt (fmtWidth fmt) (vecLatch s u b) e) = elemAt (fmtWidth fmt) p e)
    (hv : ∀ e d, (f (laneAt (fmtWidth fmt) (vecLatch s u b) e) d).1 = v e d) :
    ∃ r, VecGives i u s b (lat fmt) r ∧ r = F (vecLatch s u b) ∧ ∀ e < 2048 / fmtWidth fmt, ∃ d,
      elemAt (fmtWidth fmt) r.res e =
        if (vecLatch s u b).k.getLsbD e then v e d % 2 ^ fmtWidth fmt else elemAt (fmtWidth fmt) p e := by
  have hfmt := vecLatch_fmt b hf
  have gives := vecGives_of h hx hf hb ha rfl
  rw [hfmt] at gives
  refine ⟨_, gives, rfl, fun e he => ?_⟩
  rw [← hfmt] at he
  obtain ⟨d, hd⟩ := elementwise_element draws pass f (vecLatch s u b) he
  refine ⟨d, ?_⟩
  rw [hfmt] at hd
  rw [hF, hd, hv, hp, elemAt_mod]

/-! Arithmetic (R417, R419). -/

theorem exec_vadd (u : VUnit) (m : Mv) (s : State) : exec (.vadd u m) s = vecOp (.vadd u m) u m none acceptArith ctlAny latArith
    (vecArith passA (fun x y _ => numAdd x y) (fun x y _ => x + y)) s := rfl
theorem exec_vsub (u : VUnit) (m : Mv) (s : State) : exec (.vsub u m) s = vecOp (.vsub u m) u m none acceptArith ctlAny latArith
    (vecArith passA (fun x y _ => numSub x y) (fun x y _ => x - y)) s := rfl
theorem exec_vmul (u : VUnit) (m : Mv) (s : State) : exec (.vmul u m) s = vecOp (.vmul u m) u m none acceptArith ctlAny latArith
    (vecArith passA (fun x y _ => numMul x y) (fun x y _ => x * y)) s := rfl
theorem exec_vfma (u : VUnit) (m : Mv) (s : State) : exec (.vfma u m) s = vecOp (.vfma u m) u m none acceptArith ctlAny latArith
    (vecArith passA numFma (fun x y z => x * y + z)) s := rfl

/-- In an integer format the result is wrapped or clamped, without a draw. -/
theorem vecArith_int {pass : Lane → Nat} {g : Num → Num → Num → Num × Flags} {h : Int → Int → Int → Int} {x : VIn} {w : Nat}
    {signed : Bool} (hx : x.fmt = .int w signed) : vecArith pass g h x = elementwise false pass (fun l _ =>
      intFit w signed x.rm (h (intElem x.fmt l.a) (intElem x.fmt l.b) (intElem x.fmt l.c))) x := by
  unfold vecArith
  split
  next w' signed' hx' => rw [hx] at hx'; cases hx'; rfl
  next hno => exact absurd hx (hno w signed)

/-- In a floating format the exact value is rounded once. -/
theorem vecArith_float {pass : Lane → Nat} {g : Num → Num → Num → Num × Flags} {h : Int → Int → Int → Int} {x : VIn}
    (hx : fmtIsInt x.fmt = false) : vecArith pass g h x = elementwise true pass (fun l d =>
      let v := g (decodeNum x.fmt l.a) (decodeNum x.fmt l.b) (decodeNum x.fmt l.c)
      ((roundNum x.fmt v.1 x.rm d).1, v.2 ||| (roundNum x.fmt v.1 x.rm d).2)) x := by
  unfold vecArith
  split
  next hx' => rw [hx'] at hx; cases hx
  next => rfl

/-- An arithmetic operation completes with the integers' function, wrapped or clamped, or with the numbers', rounded once. -/
theorem vecArith_gives {i : Instr} {u : VUnit} {m : Mv} {s : State} {fl : Flight} {f : Fmt}
    {g : Num → Num → Num → Num × Flags} {k : Int → Int → Int → Int} (h : s.cur.flight = some fl)
    (hf : fmtOfCode (tyCode (myCore s) u) = some f) (ha : (fmtIsFloat f || fmtIsInt f) = true)
    (hx : exec i s = vecOp i u m none acceptArith ctlAny latArith (vecArith passA g k) s) :
    let b := vecIn (tyClass (myCore s) u).1 (tyClass (myCore s) u).2 fl.val
    let x := vecLatch s u b
    let w := fmtWidth f
    ∃ r, VecGives i u s b (if fmtIsInt f then 2 else 4) r ∧ ∀ e < 2048 / w,
      (x.k.getLsbD e = false → elemAt w r.res e = elemAt w x.a e) ∧
      (x.k.getLsbD e = true →
        (∀ n signed, f = .int n signed → elemAt w r.res e = (intFit n signed x.rm (k (intElem f (elemAt w x.a e))
          (intElem f (elemAt w x.b e)) (intElem f (elemAt w x.c e)))).1 % 2 ^ w) ∧
        (fmtIsInt f = false → ∃ d, elemAt w r.res e = (roundNum f (g (decodeNum f (elemAt w x.a e))
          (decodeNum f (elemAt w x.b e)) (decodeNum f (elemAt w x.c e))).1 x.rm d).1 % 2 ^ w)) := by
  intro b x w
  have hfmt : x.fmt = f := vecLatch_fmt b hf
  by_cases hint : fmtIsInt f = true
  · obtain ⟨n, signed, rfl⟩ : ∃ n signed, f = .int n signed := by
      cases f <;> first | exact ⟨_, _, rfl⟩ | cases hint
    obtain ⟨r, gives, -, elements⟩ := vecGives_elements (b := b) (p := x.a) false passA _ h hf hx rfl ha (vecArith_int hfmt)
      (fun _ => rfl) (fun _ _ => rfl)
    refine ⟨r, gives, fun e he => ?_⟩
    obtain ⟨d, hd⟩ := elements e he
    refine ⟨fun hk => by rw [hd, hk]; rfl, fun hk => ⟨?_, fun hno => absurd hint (by simp [hno])⟩⟩
    rintro n' signed' ⟨⟩
    rw [hd, hk, if_pos rfl, hfmt]
    rfl
  · have hint := Bool.eq_false_iff.2 hint
    obtain ⟨r, gives, -, elements⟩ := vecGives_elements (b := b) (p := x.a) true passA _ h hf hx rfl ha (vecArith_float (hfmt ▸ hint))
      (fun _ => rfl) (fun _ _ => rfl)
    refine ⟨r, gives, fun e he => ?_⟩
    obtain ⟨d, hd⟩ := elements e he
    refine ⟨fun hk => by rw [hd, hk]; rfl, fun hk => ⟨?_, fun _ => ⟨d, ?_⟩⟩⟩
    · rintro n signed rfl; cases hint
    · rw [hd, hk, if_pos rfl, hfmt]
      rfl

/-- Settles O14: each operation is element-wise, with the function of its row. -/
theorem vectorArithmeticWritesResult : Obligations.VectorArithmeticWritesResult := by
  unfold Obligations.VectorArithmeticWritesResult
  intro s fl m u f h hf ha
  exact ⟨vecArith_gives h hf ha (exec_vadd u m s), vecArith_gives h hf ha (exec_vsub u m s),
    vecArith_gives h hf ha (exec_vmul u m s), vecArith_gives h hf ha (exec_vfma u m s)⟩

/-! Selection (R420, R421). -/

theorem exec_vmin (u : VUnit) (m : Mv) (s : State) : exec (.vmin u m) s = vecOp (.vmin u m) u m none acceptArith ctlAny latArith
    (fun x => vecBits (fun l => codeChoose x.fmt false l.a l.b) x) s := rfl
theorem exec_vmax (u : VUnit) (m : Mv) (s : State) : exec (.vmax u m) s = vecOp (.vmax u m) u m none acceptArith ctlAny latArith
    (fun x => vecBits (fun l => codeChoose x.fmt true l.a l.b) x) s := rfl
theorem exec_vclamp (u : VUnit) (m : Mv) (s : State) : exec (.vclamp u m) s = vecOp (.vclamp u m) u m none acceptArith ctlAny
    latArith (fun x => vecBits (fun l => codeClamp x.fmt l.a l.b l.c) x) s := rfl
theorem exec_vabs (u : VUnit) (m : Mv) (s : State) :
    exec (.vabs u m) s = vecOp (.vabs u m) u m none acceptArith ctlAny (fun _ => 2) vabsOut s := rfl
theorem exec_vneg (u : VUnit) (m : Mv) (s : State) :
    exec (.vneg u m) s = vecOp (.vneg u m) u m none acceptArith ctlAny (fun _ => 2) vnegOut s := rfl

/-- An operation that is element-wise with a function that no draw changes. -/
theorem vecGives_drawless {i : Instr} {u : VUnit} {m : Mv} {cls : Option ImmClass} {accept : Fmt → Bool} {lat : Fmt → Nat}
    {F : VIn → VOut} {s : State} {fl : Flight} {b : Vec} {fmt : Fmt} {p : Vec} {v : Nat → Nat} (draws : Bool)
    (pass : Lane → Nat) (f : Lane → Nat → Nat × Flags) (h : s.cur.flight = some fl)
    (hf : fmtOfCode (tyCode (myCore s) u) = some fmt) (hx : exec i s = vecOp i u m cls accept ctlAny lat F s)
    (hb : vecIn (cls.getD (tyClass (myCore s) u).1) (tyClass (myCore s) u).2 fl.val = b) (ha : accept fmt = true)
    (hF : F (vecLatch s u b) = elementwise draws pass f (vecLatch s u b))
    (hp : ∀ e, pass (laneAt (fmtWidth fmt) (vecLatch s u b) e) = elemAt (fmtWidth fmt) p e)
    (hv : ∀ e d, (f (laneAt (fmtWidth fmt) (vecLatch s u b) e) d).1 = v e) :
    ∃ r, VecGives i u s b (lat fmt) r ∧ ∀ e < 2048 / fmtWidth fmt, elemAt (fmtWidth fmt) r.res e =
      if (vecLatch s u b).k.getLsbD e then v e % 2 ^ fmtWidth fmt else elemAt (fmtWidth fmt) p e := by
  obtain ⟨r, gives, -, elements⟩ := vecGives_elements draws pass f h hf hx hb ha hF hp hv
  exact ⟨r, gives, fun e he => (elements e he).elim fun _ hd => hd⟩

/-- VABS is element-wise in every format; it draws in a floating one, to no effect (R416, R421). -/
theorem vabsOut_eq (x : VIn) : ∃ draws, vabsOut x = elementwise draws passB (fun l _ => match x.fmt with
    | .int n signed => intFit n signed x.rm (intElem x.fmt l.b).natAbs
    | f => (codeAbs f l.b, 0)) x := by
  unfold vabsOut
  cases x.fmt <;> exact ⟨_, rfl⟩

theorem vnegOut_eq (x : VIn) : ∃ draws, vnegOut x = elementwise draws passB (fun l _ => match x.fmt with
    | .int n signed => intFit n signed x.rm (-(intElem x.fmt l.b))
    | f => codeNeg f x.rm l.b) x := by
  unfold vnegOut
  cases x.fmt <;> exact ⟨_, rfl⟩

/-- Settles O15: each operation is element-wise, and draws for nothing. -/
theorem vectorSelectionWritesResult : Obligations.VectorSelectionWritesResult := by
  unfold Obligations.VectorSelectionWritesResult
  intro s fl m u f h hf ha
  dsimp only
  have hfmt := vecLatch_fmt (vecIn (tyClass (myCore s) u).1 (tyClass (myCore s) u).2 fl.val) hf
  obtain ⟨da, habs⟩ := vabsOut_eq (vecLatch s u (vecIn (tyClass (myCore s) u).1 (tyClass (myCore s) u).2 fl.val))
  obtain ⟨dn, hneg⟩ := vnegOut_eq (vecLatch s u (vecIn (tyClass (myCore s) u).1 (tyClass (myCore s) u).2 fl.val))
  refine ⟨vecGives_drawless false passA _ h hf (exec_vmin u m s) rfl ha rfl (fun _ => rfl) fun _ _ => ?_,
    vecGives_drawless false passA _ h hf (exec_vmax u m s) rfl ha rfl (fun _ => rfl) fun _ _ => ?_,
    vecGives_drawless false passA _ h hf (exec_vclamp u m s) rfl ha rfl (fun _ => rfl) fun _ _ => ?_,
    vecGives_drawless da passB _ h hf (exec_vabs u m s) rfl ha habs (fun _ => rfl) fun _ _ => ?_,
    vecGives_drawless dn passB _ h hf (exec_vneg u m s) rfl ha hneg (fun _ => rfl) fun _ _ => ?_⟩
  · rw [hfmt]; rfl
  · rw [hfmt]; rfl
  · rw [hfmt]; rfl
  · rw [hfmt]; cases f <;> rfl
  · rw [hfmt]; cases f <;> rfl

/-! Masks (R423, R428, R429). -/

theorem exec_vkand (u : VUnit) (m : Mv) (s : State) : exec (.vkand u m) s = vecOp (.vkand u m) u m (some .s) acceptAny ctlAny
    (fun _ => 1) (vecMask fun a b => a &&& b) s := rfl
theorem exec_vkor (u : VUnit) (m : Mv) (s : State) : exec (.vkor u m) s = vecOp (.vkor u m) u m (some .s) acceptAny ctlAny
    (fun _ => 1) (vecMask fun a b => a ||| b) s := rfl
theorem exec_vknot (u : VUnit) (m : Mv) (s : State) : exec (.vknot u m) s = vecOp (.vknot u m) u m (some .s) acceptAny ctlAny
    (fun _ => 1) (vecMask fun _ b => ~~~b) s := rfl
theorem exec_vcmp (u : VUnit) (m : Mv) (s : State) :
    exec (.vcmp u m) s = vecOp (.vcmp u m) u m none acceptArith vcmpBad (fun _ => 2) vcmpOut s := rfl
theorem exec_vkred (u : VUnit) (m : Mv) (s : State) : exec (.vkred u m) s = vecTrigger (.vkred u m) u m (some .z) acceptAny ctlAny
    (fun fl x s => schedulePred s fl 2 (x.b.toNat % 8) 2 (kredValue x)) s := rfl

/-- A mask of lanes numbered from 0 has the bits of those that satisfy the test (R423). -/
theorem laneMask_getLsbD (f : Lane → Bool) (lane : Nat → Lane) (hlane : ∀ j, (lane j).e = j) (n e : Nat) (hn : n ≤ 2048) :
    (laneMask ((List.range n).map lane) f).getLsbD e = (decide (e < n) && f (lane e)) := by
  induction n with
  | zero => simp [laneMask]
  | succ n ih =>
    have hbit : ((1 : Vec) <<< n).getLsbD e = decide (e = n) := by
      rw [BitVec.getLsbD_shiftLeft, show (1 : Vec) = 1#2048 from rfl, BitVec.getLsbD_one]
      grind
    have hstep : laneMask ((List.range (n + 1)).map lane) f =
        if f (lane n) then laneMask ((List.range n).map lane) f ||| ((1 : Vec) <<< n)
        else laneMask ((List.range n).map lane) f := by
      simp only [laneMask, List.range_succ, List.map_append, List.foldl_append, List.map_cons, List.map_nil, List.foldl_cons,
        List.foldl_nil, hlane]
    have hlt : decide (e < n + 1) = (decide (e < n) || decide (e = n)) := by
      rw [← Bool.decide_or, decide_eq_decide]; omega
    rw [hstep, hlt]
    split
    next hon =>
      rw [BitVec.getLsbD_or, ih (by omega), hbit]
      by_cases hen : e = n <;> simp [hen, hon]
    next hoff =>
      rw [ih (by omega)]
      by_cases hen : e = n <;> simp [hen, hoff]

theorem vcmpOut_getLsbD (x : VIn) (e : Nat) : (vcmpOut x).res.getLsbD e = (decide (e < 2048 / fmtWidth x.fmt) &&
    x.k.getLsbD e && codeCond x.fmt (x.ctl % 8) (elemAt (fmtWidth x.fmt) x.a e) (elemAt (fmtWidth x.fmt) x.b e)) := by
  simp only [vcmpOut, vecLanes_eq_map]
  rw [laneMask_getLsbD _ _ (fun _ => rfl) _ _ (Nat.div_le_self _ _), Bool.and_assoc]
  rfl

/-- A predicate's write is counted and scheduled (R64, R155). -/
theorem schedulePred_spec (s : State) (fl : Flight) (lat n kind : Nat) (v : Bool) :
    ∃ d : Core, OwnStep s (schedulePred s fl lat n kind v) { myCore s with predDue := d.predDue, raised := d.raised }
      [ownJob s (now s + lat) phDone (.deed (.pred (Fin.ofNat 8 n) v))] := by
  have counted := ownStep_modMe s fun c => notePred c (now s + lat) n kind fl.issue fl.bundle fl.slot
  rw [notePred_spec] at counted
  have step := counted.trans (ownStep_postDeed _ (now s + lat) phDone (.pred (Fin.ofNat 8 n) v))
  rw [counted.ownJob_eq rfl, counted.myCore_eq] at step
  exact ⟨_, step⟩

/-- A trigger of a vector unit that passes its check is entered and latched, and k returns to all ones (R60, R61, R413). -/
theorem vecTrigger_spec {i : Instr} {u : VUnit} {m : Mv} {cls : Option ImmClass} {accept : Fmt → Bool} {bad : VIn → Option Nat}
    {effect : Flight → VIn → State → State} {s : State} {fl : Flight} {b : Vec} {fmt : Fmt} (h : s.cur.flight = some fl)
    (hf : fmtOfCode (tyCode (myCore s) u) = some fmt)
    (hb : vecIn (cls.getD (tyClass (myCore s) u).1) (tyClass (myCore s) u).2 fl.val = b)
    (ha : accept fmt = true) (hbad : bad (vecLatch s u b) = none) :
    ∃ t d, OwnStep s t (noted { myCore s with
        vports := tset 0 (myCore s).vports (vecBase u + 1) b
        kports := tset onesMask (myCore s).kports (vecBase u + 3) onesMask } d) [] ∧
      vecTrigger i u m cls accept bad effect s = .next (effect fl (vecLatch s u b) t) := by
  obtain ⟨d, enter⟩ := vecEnter_spec ((dstId i).getD 0 / 64) u cls fl s
  rw [hb] at enter
  rw [vecTrigger, trigger_arrival _ _ _ _ _ h]
  generalize vecEnter u cls fl (modMe s fun c => noteTrigger ((dstId i).getD 0 / 64) c fl) = t at *
  have hin : vecInputs (myCore t) u = vecLatch s u b := by rw [enter.myCore_eq, vecInputs_noted]; rfl
  have hty : tyCode (myCore t) u = tyCode (myCore s) u := by rw [enter.myCore_eq]; rfl
  have latched := enter.trans (ownStep_modMe t fun c => setKport c (vecBase u + 3) onesMask)
  rw [enter.myCore_eq, setKport_noted] at latched
  refine ⟨_, d, latched, ?_⟩
  simp only [vecBad_eq_none (hty ▸ hf) ha (hin ▸ hbad), hin]

theorem kredValue_eq (x : VIn) : kredValue x = if x.b.getLsbD 3
    then decide (∀ e < 2048 / fmtWidth x.fmt, x.k.getLsbD e = true → x.a.getLsbD e = true)
    else decide (∃ e < 2048 / fmtWidth x.fmt, x.k.getLsbD e = true ∧ x.a.getLsbD e = true) := by
  simp only [kredValue, vecCount]
  split
  · rw [Bool.eq_iff_iff]
    simp only [List.all_eq_true, List.mem_filter, List.mem_range, decide_eq_true_eq, and_imp]
  · rw [Bool.eq_iff_iff]
    simp only [List.any_eq_true, List.mem_filter, List.mem_range, decide_eq_true_eq, and_assoc]

/-- Settles O17: the mask operations work on all 256 bits, VCMP's lanes are numbered from 0, and VKRED schedules its predicate. -/
theorem vectorMasksWriteResult : Obligations.VectorMasksWriteResult := by
  unfold Obligations.VectorMasksWriteResult
  intro s fl m u f h hf
  refine ⟨vecGives_of h (exec_vkand u m s) hf rfl rfl rfl, vecGives_of h (exec_vkor u m s) hf rfl rfl rfl,
    vecGives_of h (exec_vknot u m s) hf rfl rfl rfl, fun ha hctl => ?vcmp, ?vkred⟩
  case vcmp =>
    refine ⟨_, vecGives_of h (exec_vcmp u m s) hf rfl ha (if_neg hctl), rfl, fun e => ?_⟩
    rw [vcmpOut_getLsbD, vecLatch_fmt _ hf]
  case vkred =>
    intro b z n v
    obtain ⟨t, d, latched, hx⟩ := vecTrigger_spec (i := .vkred u m) (u := u) (m := m) (cls := some .z) (accept := acceptAny)
      (bad := ctlAny) (effect := fun fl x s => schedulePred s fl 2 (x.b.toNat % 8) 2 (kredValue x)) h hf (b := b) rfl rfl rfl
    obtain ⟨e, scheduled⟩ := schedulePred_spec t fl 2 (z.b.toNat % 8) 2 (kredValue z)
    have step := latched.trans scheduled
    rw [latched.ownJob_eq rfl, latched.now_eq rfl, latched.myCore_eq, kredValue_eq, vecLatch_fmt _ hf] at step
    refine ⟨_, (exec_vkred u m s).trans hx, ?_⟩
    rw [kredValue_eq, vecLatch_fmt _ hf, step.core]
    exact step

end Sys2Proof.Machine
end

section
/-! PROOF. The vector units' functions and tables, and the fault of a reserved format (R126, R137, R415, R426, R430). -/

namespace Sys2Proof.Machine

/-! Transcendental operations (R426). -/

theorem exec_vexp2 (u : VUnit) (m : Mv) (s : State) :
    exec (.vexp2 u m) s = vecOp (.vexp2 u m) u m none acceptF32 ctlAny (fun _ => 6) (vecMap exp2F32) s := rfl
theorem exec_vlog2 (u : VUnit) (m : Mv) (s : State) :
    exec (.vlog2 u m) s = vecOp (.vlog2 u m) u m none acceptF32 ctlAny (fun _ => 6) (vecMap log2F32) s := rfl
theorem exec_vrcp (u : VUnit) (m : Mv) (s : State) :
    exec (.vrcp u m) s = vecOp (.vrcp u m) u m none acceptF32 ctlAny (fun _ => 10) (vecMap rcpF32) s := rfl
theorem exec_vrsq (u : VUnit) (m : Mv) (s : State) :
    exec (.vrsq u m) s = vecOp (.vrsq u m) u m none acceptF32 ctlAny (fun _ => 10) (vecMap rsqF32) s := rfl
theorem exec_vsig (u : VUnit) (m : Mv) (s : State) :
    exec (.vsig u m) s = vecOp (.vsig u m) u m none acceptF32 ctlAny (fun _ => 6) (vecMap sigF32) s := rfl
theorem exec_vlutEval (u : VUnit) (m : Mv) (s : State) : exec (.vlutEval u m) s = vlut (.vlutEval u m) u m s := rfl
theorem exec_vlutLoad (u : VUnit) (m : Mv) (s : State) : exec (.vlutLoad u m) s = vlut (.vlutLoad u m) u m s := rfl

/-- A function of b's FP32 elements draws nothing, and gives b's own element where one is disabled. -/
theorem vecMap_element (g : Num → Nat × Flags) {x : VIn} (hx : x.fmt = f32) :
    (vecMap g x).gen = x.gen ∧ ∀ e < 64, elemAt 32 (vecMap g x).res e =
      if x.k.getLsbD e then (g (decodeNum f32 (elemAt 32 x.b e))).1 % 2 ^ 32 else elemAt 32 x.b e := by
  have hw : fmtWidth x.fmt = 32 := by rw [hx]; rfl
  refine ⟨convList_no_draw .., fun e he => ?_⟩
  obtain ⟨d, hd⟩ := elementwise_element false passB (fun l _ => g (decodeNum f32 l.b)) x (e := e) (by rw [hw]; exact he)
  rw [hw] at hd
  rw [vecMap, hd]
  simp only [passB, laneAt, elemAt_mod]

/-- A trigger of a vector unit that passes its check raises nothing but a collision while it enters. -/
theorem vecTrigger_raises {i : Instr} {u : VUnit} {m : Mv} {cls : Option ImmClass} {accept : Fmt → Bool}
    {bad : VIn → Option Nat} {effect : Flight → VIn → State → State} {s : State} {fl : Flight} {b : Vec} {fmt : Fmt}
    (h : s.cur.flight = some fl) (hf : fmtOfCode (tyCode (myCore s) u) = some fmt)
    (hb : vecIn (cls.getD (tyClass (myCore s) u).1) (tyClass (myCore s) u).2 fl.val = b)
    (ha : accept fmt = true) (hbad : bad (vecLatch s u b) = none) :
    ∃ t d, OwnStep s t (noted { myCore s with
        vports := tset 0 (myCore s).vports (vecBase u + 1) b
        kports := tset onesMask (myCore s).kports (vecBase u + 3) onesMask } d) [] ∧
      RaisesOnly [4] (myCore s) (myCore t) ∧
      vecTrigger i u m cls accept bad effect s = .next (effect fl (vecLatch s u b) t) := by
  obtain ⟨d, enter⟩ := vecEnter_spec ((dstId i).getD 0 / 64) u cls fl s
  have raises := vecEnter_raises ((dstId i).getD 0 / 64) u cls fl s
  rw [hb] at enter
  rw [vecTrigger, trigger_arrival _ _ _ _ _ h]
  generalize vecEnter u cls fl (modMe s fun c => noteTrigger ((dstId i).getD 0 / 64) c fl) = t at *
  have hin : vecInputs (myCore t) u = vecLatch s u b := by rw [enter.myCore_eq, vecInputs_noted]; rfl
  have hty : tyCode (myCore t) u = tyCode (myCore s) u := by rw [enter.myCore_eq]; rfl
  have latched := enter.trans (ownStep_modMe t fun c => setKport c (vecBase u + 3) onesMask)
  rw [enter.myCore_eq, setKport_noted] at latched
  refine ⟨_, d, latched, ?_, ?_⟩
  · rw [myCore_modMe]
    exact raises
  · simp only [vecBad_eq_none (hty ▸ hf) ha (hin ▸ hbad), hin]

/-- An FP32 function completes with its values. -/
theorem vecMap_gives {i : Instr} {u : VUnit} {m : Mv} {lat : Nat} {g : Num → Nat × Flags} {s : State} {fl : Flight}
    (h : s.cur.flight = some fl) (hf : fmtOfCode (tyCode (myCore s) u) = some f32)
    (hx : exec i s = vecOp i u m none acceptF32 ctlAny (fun _ => lat) (vecMap g) s) :
    let b := vecIn (tyClass (myCore s) u).1 (tyClass (myCore s) u).2 fl.val
    let x := vecLatch s u b
    ∃ r, VecGives i u s b lat r ∧ r.gen = x.gen ∧ ∀ e < 64, elemAt 32 r.res e =
      if x.k.getLsbD e then (g (decodeNum f32 (elemAt 32 x.b e))).1 % 2 ^ 32 else elemAt 32 x.b e :=
  ⟨_, vecGives_of h hx hf rfl rfl rfl, vecMap_element g (vecLatch_fmt _ hf)⟩

/-! VLUT (R430). -/

theorem setVecGen_self (c : Core) (u : VUnit) : setVecGen c u (vecGen c u) = c := by cases u <;> rfl

theorem vecLut_setVecLut (c : Core) (u : VUnit) (l : Lut) : vecLut (setVecLut c u l) u = l := by cases u <;> rfl

theorem vecLut_noted (c d : Core) (u : VUnit) : vecLut (noted c d) u = vecLut c u := by cases u <;> rfl

section
variable {u : VUnit} {m : Mv} {s : State} {fl : Flight} {b : Vec} (h : s.cur.flight = some fl)
  (hf : fmtOfCode (tyCode (myCore s) u) = some f32)
  (hb : vecIn (tyClass (myCore s) u).1 (tyClass (myCore s) u).2 fl.val = b)
include h hf hb

/-- An evaluation completes with the table's values. -/
theorem vlut_evaluates {i : Instr} (hx : exec i s = vlut i u m s) (hctl : (vecLatch s u b).ctl.testBit 0 = false) :
    let l := vecLut (myCore s) u
    ∃ r, VecGives i u s b 6 r ∧ r.gen = (vecLatch s u b).gen ∧ ∀ e < 64, elemAt 32 r.res e =
      if (vecLatch s u b).k.getLsbD e then (lutEval l.lo l.hi l.vals (decodeNum f32 (elemAt 32 (vecLatch s u b).b e))).1 % 2 ^ 32
      else elemAt 32 (vecLatch s u b).b e := by
  intro l
  obtain ⟨t, d, latched, raises, hstep⟩ := vecTrigger_raises (i := i) (u := u) (m := m) (cls := none) (accept := acceptF32)
    (bad := ctlAny) (effect := fun fl x s =>
      if x.ctl.testBit 0 then
        modMe s fun c => setVecLut (if lutBounds (lutLoaded x).lo (lutLoaded x).hi then c else addFlags c flagNV) u (lutLoaded x)
      else complete s fl (vecResult u) 6
        (vecMap (fun v => lutEval (vecLut (myCore s) u).lo (vecLut (myCore s) u).hi (vecLut (myCore s) u).vals v) x).res
        (vecMap (fun v => lutEval (vecLut (myCore s) u).lo (vecLut (myCore s) u).hi (vecLut (myCore s) u).vals v) x).flags)
    h hf hb rfl rfl
  have hlut : vecLut (myCore t) u = l := by rw [latched.myCore_eq, vecLut_noted]; cases u <;> rfl
  simp only [hctl, Bool.false_eq_true, if_false, hlut] at hstep
  have elements := vecMap_element (fun v => lutEval l.lo l.hi l.vals v) (vecLatch_fmt b hf)
  generalize vecMap (fun v => lutEval l.lo l.hi l.vals v) (vecLatch s u b) = r at *
  have completion := complete_spec t fl (vecResult u) 6 r.res r.flags
  have hraise := complete_raises t fl (vecResult u) 6 r.res r.flags
  rw [latched.me_eq] at hraise completion
  have whole := latched.trans completion
  rw [latched.resultJob_eq rfl, latched.myCore_eq, noted_noted] at whole
  have hgen : r.gen = vecGen (myCore s) u := by rw [elements.1]; cases u <;> rfl
  refine ⟨r, ⟨_, hx.trans hstep, ?_, raises.trans hraise⟩, elements⟩
  have hcore : setVecGen { myCore s with
      vports := tset 0 (myCore s).vports (vecBase u + 1) b
      kports := tset onesMask (myCore s).kports (vecBase u + 3) onesMask } u r.gen = { myCore s with
      vports := tset 0 (myCore s).vports (vecBase u + 1) b
      kports := tset onesMask (myCore s).kports (vecBase u + 3) onesMask } := by
    rw [hgen]; cases u <;> rfl
  rw [hcore]
  exact whole.noted

/-- A load takes the table from a and c and schedules nothing. -/
theorem vlut_loads {i : Instr} (hx : exec i s = vlut i u m s) (hctl : (vecLatch s u b).ctl.testBit 0 = true) :
    ∃ t, exec i s = .next t ∧ t.agenda = s.agenda ∧ vecLut (coreOf t (me s)) u = lutLoaded (vecLatch s u b) := by
  obtain ⟨t, d, latched, -, hstep⟩ := vecTrigger_raises (i := i) (u := u) (m := m) (cls := none) (accept := acceptF32)
    (bad := ctlAny) (effect := fun fl x s =>
      if x.ctl.testBit 0 then
        modMe s fun c => setVecLut (if lutBounds (lutLoaded x).lo (lutLoaded x).hi then c else addFlags c flagNV) u (lutLoaded x)
      else complete s fl (vecResult u) 6
        (vecMap (fun v => lutEval (vecLut (myCore s) u).lo (vecLut (myCore s) u).hi (vecLut (myCore s) u).vals v) x).res
        (vecMap (fun v => lutEval (vecLut (myCore s) u).lo (vecLut (myCore s) u).hi (vecLut (myCore s) u).vals v) x).flags)
    h hf hb rfl rfl
  rw [if_pos hctl] at hstep
  refine ⟨_, hx.trans hstep, by rw [modMe_agenda, latched.agenda, List.append_nil], ?_⟩
  rw [← latched.me_eq, coreOf_modMe_me, vecLut_setVecLut]

end

theorem splitElems_getD (w n x e : Nat) : (splitElems w n x).getD e 0 = if e < n then x / 2 ^ (w * e) % 2 ^ w else 0 := by
  rw [splitElems_eq_map]
  split
  case isTrue he => rw [List.getD_eq_getElem _ _ (by simpa using he)]; simp
  case isFalse he => exact List.getD_eq_default _ _ (by simpa using he)

theorem splitElems_length (w n x : Nat) : (splitElems w n x).length = n := by simp [splitElems_eq_map]

/-- The bounds, the 64 entries of a and the 65th of c that a load brings. -/
theorem lutLoaded_spec (x : VIn) :
    (lutLoaded x).lo.toNat = elemAt 32 x.c 1 ∧ (lutLoaded x).hi.toNat = elemAt 32 x.c 2 ∧ (lutLoaded x).vals.length = 65 ∧
      (∀ j < 64, ((lutLoaded x).vals.getD j 0).toNat = elemAt 32 x.a j) ∧
      ((lutLoaded x).vals.getD 64 0).toNat = elemAt 32 x.c 0 := by
  have hmod (v : Vec) (e : Nat) : (BitVec.ofNat 32 (v.toNat / 2 ^ (32 * e) % 2 ^ 32)).toNat = elemAt 32 v e := by
    rw [BitVec.toNat_ofNat, Nat.mod_mod, elemAt]
  have hlen : ((splitElems 32 64 x.a.toNat).map (BitVec.ofNat 32 ·)).length = 64 := by
    rw [List.length_map, splitElems_length]
  simp only [lutLoaded, splitElems_getD, List.map_append, List.map_cons, List.map_nil]
  refine ⟨hmod x.c 1, hmod x.c 2, by rw [List.length_append, hlen]; rfl, fun j hj => ?_, ?_⟩
  · rw [List.getD_append _ _ _ _ (by rw [hlen]; exact hj), List.getD_eq_getElem _ _ (by rw [hlen]; exact hj),
      List.getElem_map, ← List.getD_eq_getElem _ 0, splitElems_getD, if_pos hj, hmod]
  · rw [List.getD_append_right _ _ _ _ (by rw [hlen]), hlen]
    exact hmod x.c 0

/-- Settles O19: the functions and VLUT's evaluation are element-wise on b, and draw nothing; a load takes its table. -/
theorem vectorFunctionsWriteResult : Obligations.VectorFunctionsWriteResult := by
  unfold Obligations.VectorFunctionsWriteResult
  intro s fl m u h hf
  refine ⟨vecMap_gives h hf (exec_vexp2 u m s), vecMap_gives h hf (exec_vlog2 u m s), vecMap_gives h hf (exec_vrcp u m s),
    vecMap_gives h hf (exec_vrsq u m s), vecMap_gives h hf (exec_vsig u m s),
    fun hctl => vlut_evaluates h hf rfl (exec_vlutEval u m s) hctl, fun hctl => ⟨?_, ?_⟩⟩
  · obtain ⟨t, hx, hagenda, hlut⟩ := vlut_loads h hf rfl (exec_vlutLoad u m s) hctl
    exact ⟨t, hx, hagenda, by rw [hlut]; exact lutLoaded_spec _⟩
  · obtain ⟨t, hx, hagenda, hlut⟩ := vlut_loads h hf rfl (exec_vlutEval u m s) hctl
    exact ⟨t, hx, hagenda, by rw [hlut]; exact lutLoaded_spec _⟩

/-! A reserved format (R415). -/

theorem raiseFor_live {c : Core} (fl : Flight) (rs : List Nat) (code : Nat) (a b d : Word) (h : c.frozenAt = none) :
    ∃ r ∈ (raiseFor c fl rs code a b d).raised, r.code = code ∧ r.a = a := by
  rw [raiseFor, addRaise_live _ _ h]
  exact ⟨_, List.mem_append_right _ (List.mem_singleton_self _), rfl, rfl⟩

/-- That an instruction checks ty at its arrival, before its effect. -/
def ChecksType (i : Instr) (u : VUnit) (m : Mv) (s : State) : Prop :=
  ∃ cls accept bad effect, exec i s = vecTrigger i u m cls accept bad effect s

theorem checksType_of_vecOp {i : Instr} {u : VUnit} {m : Mv} {cls : Option ImmClass} {accept : Fmt → Bool}
    {bad : VIn → Option Nat} {lat : Fmt → Nat} {f : VIn → VOut} {s : State} (hx : exec i s = vecOp i u m cls accept bad lat f s) :
    ChecksType i u m s := ⟨_, _, _, _, hx⟩

theorem checksType_of_vlut {i : Instr} {u : VUnit} {m : Mv} {s : State} (hx : exec i s = vlut i u m s) :
    ChecksType i u m s := ⟨_, _, _, _, hx⟩

/-- A trigger with a reserved ty takes the format fault in place of its effect. -/
theorem reserved_faults {i : Instr} {u : VUnit} {m : Mv} {s : State} {fl : Flight} (h : s.cur.flight = some fl)
    (hfrozen : (myCore s).frozenAt = none) (hf : fmtOfCode (tyCode (myCore s) u) = none) (checks : ChecksType i u m s) :
    ∃ t, exec i s = .next t ∧ t.agenda = s.agenda ∧ vecGen (coreOf t (me s)) u = vecGen (myCore s) u ∧
      (coreOf t (me s)).kports = (myCore s).kports ∧
      ∃ r ∈ (coreOf t (me s)).raised, r.code = 0x16 ∧ r.a = BitVec.ofNat 64 (tyCode (myCore s) u) := by
  obtain ⟨cls, accept, bad, effect, hx⟩ := checks
  obtain ⟨d, enter⟩ := vecEnter_spec ((dstId i).getD 0 / 64) u cls fl s
  rw [vecTrigger, trigger_arrival _ _ _ _ _ h] at hx
  generalize vecEnter u cls fl (modMe s fun c => noteTrigger ((dstId i).getD 0 / 64) c fl) = t at *
  have hty : tyCode (myCore t) u = tyCode (myCore s) u := by rw [enter.myCore_eq]; rfl
  have hbad : vecBad (myCore t) u accept bad = some (tyCode (myCore s) u) := by simp only [vecBad, hty, hf]
  simp only [hbad] at hx
  have whole := enter.trans (ownStep_modMe t fun c => raiseFor c fl (vecReads i c u accept) 0x16
    (BitVec.ofNat 64 (tyCode (myCore s) u)) (BitVec.ofNat 64 ((dstId i).getD 0)) 0)
  have hcore := whole.core
  refine ⟨_, hx, by rw [whole.agenda]; simp, ?_, ?_, ?_⟩
  · rw [hcore, raiseFor_spec, enter.myCore_eq]; cases u <;> rfl
  · rw [hcore, raiseFor_spec, enter.myCore_eq]; rfl
  · rw [hcore]
    exact raiseFor_live fl _ _ _ _ _ (by rw [enter.myCore_eq]; exact hfrozen)

theorem exec_vreda (u : VUnit) (m : Mv) (s : State) :
    exec (.vreda u m) s = vecOp (.vreda u m) u m none acceptArith ctlAny (fun _ => 8) vredaOut s := rfl
theorem exec_vredm (u : VUnit) (m : Mv) (s : State) :
    exec (.vredm u m) s = vecOp (.vredm u m) u m none acceptArith ctlAny (fun _ => 8) vredmOut s := rfl
theorem exec_vcvt (u : VUnit) (m : Mv) (s : State) :
    exec (.vcvt u m) s = vecOp (.vcvt u m) u m none acceptAny vcvtBad (fun _ => 3) vcvtOut s := rfl
theorem exec_vqnt (u : VUnit) (m : Mv) (s : State) :
    exec (.vqnt u m) s = vecOp (.vqnt u m) u m none acceptF32 vqntBad (fun _ => 5) vqntOut s := rfl
theorem exec_vdot8 (u : VUnit) (m : Mv) (s : State) :
    exec (.vdot8 u m) s = vecOp (.vdot8 u m) u m none acceptDot vdotBad (fun _ => 5) vdotOut s := rfl

/-- Settles O20: every one of the listed triggers is checked before its effect. -/
theorem reservedTypeFaults : Obligations.ReservedTypeFaults := by
  unfold Obligations.ReservedTypeFaults
  intro s fl m u h hfrozen hf i hi
  refine reserved_faults (m := m) h hfrozen hf ?_
  revert i
  simp only [List.forall_mem_cons]
  exact ⟨checksType_of_vecOp (exec_vadd u m s), checksType_of_vecOp (exec_vsub u m s), checksType_of_vecOp (exec_vmul u m s),
    checksType_of_vecOp (exec_vfma u m s), checksType_of_vecOp (exec_vmin u m s), checksType_of_vecOp (exec_vmax u m s),
    checksType_of_vecOp (exec_vabs u m s), checksType_of_vecOp (exec_vneg u m s), checksType_of_vecOp (exec_vand u m s),
    checksType_of_vecOp (exec_vor u m s), checksType_of_vecOp (exec_vxor u m s), checksType_of_vecOp (exec_vshl u m s),
    checksType_of_vecOp (exec_vshr u m s), checksType_of_vecOp (exec_vsra u m s), checksType_of_vecOp (exec_vclamp u m s),
    checksType_of_vecOp (exec_vsel u m s), checksType_of_vecOp (exec_vcmp u m s), checksType_of_vecOp (exec_vreda u m s),
    checksType_of_vecOp (exec_vredm u m s), checksType_of_vecOp (exec_vperm u m s), checksType_of_vecOp (exec_vcvt u m s),
    checksType_of_vecOp (exec_vqnt u m s), checksType_of_vecOp (exec_vdot8 u m s), checksType_of_vecOp (exec_vexp2 u m s),
    checksType_of_vecOp (exec_vlog2 u m s), checksType_of_vecOp (exec_vrcp u m s), checksType_of_vecOp (exec_vrsq u m s),
    checksType_of_vecOp (exec_vsig u m s), checksType_of_vlut (exec_vlutEval u m s), checksType_of_vecOp (exec_viota u m s),
    checksType_of_vecOp (exec_vkand u m s), checksType_of_vecOp (exec_vkor u m s), checksType_of_vecOp (exec_vknot u m s),
    ⟨_, _, _, _, exec_vkred u m s⟩, fun _ hi => absurd hi List.not_mem_nil⟩

end Sys2Proof.Machine
end

section
/-! PROOF. The vector units' reductions, conversions and dot products (R138 to R140, R424, R425, R432, R433). -/

namespace Sys2Proof.Machine

/-! The levels of a tree of neighbours (R140). -/

/-- One sum of VREDA's tree. -/
def addPair (f : Fmt) (rm : BitVec 4) (p q d : Nat) : Nat × Flags :=
  match f with
  | .int w signed => intFit w signed rm (intElem f p + intElem f q)
  | f => ((roundNum f (numAdd (decodeNum f p) (decodeNum f q)).1 rm d).1,
      (numAdd (decodeNum f p) (decodeNum f q)).2 ||| (roundNum f (numAdd (decodeNum f p) (decodeNum f q)).1 rm d).2)

theorem addPair_of_not_int {f : Fmt} (rm : BitVec 4) (p q d : Nat) (h : fmtIsInt f = false) :
    (addPair f rm p q d).1 = (roundNum f (numAdd (decodeNum f p) (decodeNum f q)).1 rm d).1 := by
  cases f
  case int => cases h
  all_goals rfl

theorem addLevel_pair (f : Fmt) (rm : BitVec 4) (p q : Nat) (xs : List Nat) (g : BitVec 32) :
    ∃ d g', (addLevel f rm (p :: q :: xs) g).1 = (addPair f rm p q d).1 :: (addLevel f rm xs g').1 := by
  refine ⟨(if fmtIsInt f then (0, g) else drawIf rm g).1, (if fmtIsInt f then (0, g) else drawIf rm g).2, ?_⟩
  cases f <;> rfl

/-- A level adds neighbours, and an element without one goes on as it is. -/
theorem addLevel_spec (f : Fmt) (rm : BitVec 4) (xs : List Nat) (g : BitVec 32) :
    (addLevel f rm xs g).1.length = (xs.length + 1) / 2 ∧ ∀ e < xs.length / 2,
      ∃ d, (addLevel f rm xs g).1.getD e 0 = (addPair f rm (xs.getD (2 * e) 0) (xs.getD (2 * e + 1) 0) d).1 := by
  induction hn : xs.length using Nat.strong_induction_on generalizing xs g with
  | _ n ih =>
    match xs, hn with
    | [], hn => subst hn; exact ⟨rfl, fun e he => absurd he (Nat.not_lt_zero e)⟩
    | [x], hn => subst hn; exact ⟨by simp [addLevel], fun e he => by simp at he⟩
    | p :: q :: xs, hn =>
      obtain ⟨d, g', hpair⟩ := addLevel_pair f rm p q xs g
      obtain ⟨hlen, helem⟩ := ih xs.length (by simp at hn; omega) xs g' rfl
      rw [hpair]
      refine ⟨by simp at hn ⊢; omega, fun e he => ?_⟩
      cases e with
      | zero => exact ⟨d, rfl⟩
      | succ e =>
        obtain ⟨d', hd⟩ := helem e (by simp at hn; omega)
        exact ⟨d', by simpa [Nat.mul_succ] using hd⟩

/-- What stands in each level of VREDA's tree, with the generator. -/
def addLevels (f : Fmt) (rm : BitVec 4) (xs : List Nat) (g : BitVec 32) (j : Nat) : List Nat × BitVec 32 :=
  (fun p : List Nat × BitVec 32 => ((addLevel f rm p.1 p.2).1, (addLevel f rm p.1 p.2).2.2))^[j] (xs, g)

theorem addLevels_succ (f : Fmt) (rm : BitVec 4) (xs : List Nat) (g : BitVec 32) (j : Nat) :
    (addLevels f rm xs g (j + 1)).1 = (addLevel f rm (addLevels f rm xs g j).1 (addLevels f rm xs g j).2).1 := by
  rw [addLevels, Function.iterate_succ_apply']; rfl

theorem addTree_eq (f : Fmt) (rm : BitVec 4) (n : Nat) (xs : List Nat) (g : BitVec 32) :
    (addTree f rm n xs g).1 = (addLevels f rm xs g n).1.getD 0 0 := by
  induction n generalizing xs g with
  | zero => cases xs <;> rfl
  | succ n ih => exact ih _ _

theorem addLevels_length (f : Fmt) (rm : BitVec 4) (xs : List Nat) (g : BitVec 32) (j : Nat) :
    xs.length / 2 ^ j ≤ (addLevels f rm xs g j).1.length := by
  induction j with
  | zero => exact Nat.div_le_self _ _
  | succ j ih =>
    rw [addLevels_succ, (addLevel_spec f rm _ _).1, Nat.pow_succ, ← Nat.div_div_eq_div_mul]
    omega

theorem addLevels_pair (f : Fmt) (rm : BitVec 4) (xs : List Nat) (g : BitVec 32) (j e : Nat)
    (he : e < xs.length / 2 ^ (j + 1)) :
    ∃ d, (addLevels f rm xs g (j + 1)).1.getD e 0 =
      (addPair f rm ((addLevels f rm xs g j).1.getD (2 * e) 0) ((addLevels f rm xs g j).1.getD (2 * e + 1) 0) d).1 := by
  have hlen := addLevels_length f rm xs g j
  rw [Nat.pow_succ, ← Nat.div_div_eq_div_mul] at he
  rw [addLevels_succ]
  exact (addLevel_spec f rm _ _).2 e (by omega)

/-- One choice of VREDM's tree; of an absent element the other stands. -/
def pickPair (f : Fmt) (greater : Bool) : Option Nat → Option Nat → Option Nat
  | some p, some q => some (codeChoose f greater p q)
  | some p, none => some p
  | none, q => q

theorem pickLevel_pair (f : Fmt) (greater : Bool) (p q : Option Nat) (xs : List (Option Nat)) :
    pickLevel f greater (p :: q :: xs) = pickPair f greater p q :: pickLevel f greater xs := by
  cases p <;> cases q <;> rfl

theorem pickLevel_single (f : Fmt) (greater : Bool) (p : Option Nat) : pickLevel f greater [p] = [p] := by
  cases p <;> rfl

theorem pickLevel_spec (f : Fmt) (greater : Bool) (xs : List (Option Nat)) :
    (pickLevel f greater xs).length = (xs.length + 1) / 2 ∧ ∀ e < xs.length / 2,
      (pickLevel f greater xs).getD e none = pickPair f greater (xs.getD (2 * e) none) (xs.getD (2 * e + 1) none) := by
  induction hn : xs.length using Nat.strong_induction_on generalizing xs with
  | _ n ih =>
    match xs, hn with
    | [], hn => subst hn; exact ⟨rfl, fun e he => absurd he (Nat.not_lt_zero e)⟩
    | [x], hn => subst hn; exact ⟨by rw [pickLevel_single]; simp, fun e he => by simp at he⟩
    | p :: q :: xs, hn =>
      obtain ⟨hlen, helem⟩ := ih xs.length (by simp at hn; omega) xs rfl
      rw [pickLevel_pair]
      refine ⟨by simp at hn ⊢; omega, fun e he => ?_⟩
      cases e with
      | zero => rfl
      | succ e => simpa [Nat.mul_succ] using helem e (by simp at hn; omega)

/-- What stands in each level of VREDM's tree. -/
def pickLevels (f : Fmt) (greater : Bool) (xs : List (Option Nat)) (j : Nat) : List (Option Nat) :=
  (pickLevel f greater)^[j] xs

theorem pickLevels_succ (f : Fmt) (greater : Bool) (xs : List (Option Nat)) (j : Nat) :
    pickLevels f greater xs (j + 1) = pickLevel f greater (pickLevels f greater xs j) :=
  Function.iterate_succ_apply' ..

theorem pickTree_eq (f : Fmt) (greater : Bool) (n : Nat) (xs : List (Option Nat)) :
    pickTree f greater n xs = (pickLevels f greater xs n).getD 0 none := by
  induction n generalizing xs with
  | zero => cases xs <;> rfl
  | succ n ih => exact ih _

theorem pickLevels_length (f : Fmt) (greater : Bool) (xs : List (Option Nat)) (j : Nat) :
    xs.length / 2 ^ j ≤ (pickLevels f greater xs j).length := by
  induction j with
  | zero => exact Nat.div_le_self _ _
  | succ j ih =>
    rw [pickLevels_succ, (pickLevel_spec f greater _).1, Nat.pow_succ, ← Nat.div_div_eq_div_mul]
    omega

theorem pickLevels_pair (f : Fmt) (greater : Bool) (xs : List (Option Nat)) (j e : Nat) (he : e < xs.length / 2 ^ (j + 1)) :
    (pickLevels f greater xs (j + 1)).getD e none =
      pickPair f greater ((pickLevels f greater xs j).getD (2 * e) none) ((pickLevels f greater xs j).getD (2 * e + 1) none) := by
  have hlen := pickLevels_length f greater xs j
  rw [Nat.pow_succ, ← Nat.div_div_eq_div_mul] at he
  rw [pickLevels_succ]
  exact (pickLevel_spec f greater _).2 e (by omega)

/-! Lists of a vector's elements. -/

theorem getD_map_range {α : Type} (f : Nat → α) (d : α) {n e : Nat} (he : e < n) : ((List.range n).map f).getD e d = f e := by
  rw [List.getD_eq_getElem _ _ (by simpa using he)]
  simp

/-- A list with a stretch of it replaced. -/
theorem getD_splice (as mid : List Nat) (off e : Nat) (h : off + mid.length ≤ as.length) :
    (as.take off ++ mid ++ as.drop (off + mid.length)).getD e 0 =
      if off ≤ e ∧ e < off + mid.length then mid.getD (e - off) 0 else as.getD e 0 := by
  have htake : (as.take off).length = off := by rw [List.length_take]; omega
  simp only [List.getD_eq_getElem?_getD, List.append_assoc, List.getElem?_append, htake, List.getElem?_take, List.getElem?_drop]
  by_cases h1 : e < off
  · rw [if_pos h1, if_pos h1, if_neg (by omega)]
  · rw [if_neg h1]
    by_cases h2 : e < off + mid.length
    · rw [if_pos (by omega), if_pos (by omega)]
    · rw [if_neg (by omega), if_neg (by omega)]
      congr 2
      omega

/-- Eight neighbours of a list of elements. -/
theorem take_drop_map_range {α : Type} (f : Nat → α) {n k i : Nat} (h : k + i ≤ n) :
    (((List.range n).map f).drop k).take i = (List.range i).map fun j => f (k + j) := by
  apply List.ext_getElem
  · simp; omega
  · intro j h1 h2
    simp

theorem width_of_fmtOfCode {c : Nat} {f : Fmt} (h : fmtOfCode c = some f) :
    fmtWidth f = 8 ∨ fmtWidth f = 16 ∨ fmtWidth f = 32 := by
  unfold fmtOfCode at h
  split at h
  case h_9 =>
    dsimp only at h
    split at h
    · cases h
    · cases h; exact .inl rfl
  all_goals cases h; decide

section

variable {s : State} {fl : Flight} {m : Mv} {u : VUnit} {f : Fmt} {b : Vec}
  (h : s.cur.flight = some fl) (hf : fmtOfCode (tyCode (myCore s) u) = some f)
  (hb : vecIn (tyClass (myCore s) u).1 (tyClass (myCore s) u).2 fl.val = b)
include h hf hb

/-- VREDA adds neighbours level by level. -/
theorem vreda_gives (ha : (fmtIsFloat f || fmtIsInt f) = true) :
    ∃ r, VecGives (.vreda u m) u s b 8 r ∧ ∃ lv : Nat → Nat → Nat,
      (∀ e < 2048 / fmtWidth f, lv 0 e = if (vecLatch s u b).k.getLsbD e then elemAt (fmtWidth f) (vecLatch s u b).b e else 0) ∧
      (∀ j e, e < 2048 / fmtWidth f / 2 ^ (j + 1) →
        ∃ d, lv (j + 1) e = (addPair f (vecLatch s u b).rm (lv j (2 * e)) (lv j (2 * e + 1)) d).1) ∧
      r.res = BitVec.ofNat 2048 (lv (Nat.log2 (2048 / fmtWidth f)) 0) := by
  have hfmt := vecLatch_fmt b hf
  refine ⟨_, vecGives_of h (exec_vreda u m s) hf hb ha rfl, fun j e => (addLevels f (vecLatch s u b).rm
    ((vecLanes (vecLatch s u b)).map fun l => if l.on then l.b else 0) (vecLatch s u b).gen j).1.getD e 0, fun e he => ?_,
    fun j e he => ?_, ?_⟩
  · rw [vecLanes_eq_map, hfmt, List.map_map]
    exact getD_map_range _ _ he
  · refine addLevels_pair f _ _ _ j e ?_
    rw [vecLanes_eq_map, hfmt]
    simpa using he
  · simp only [vredaOut, addTree_eq, vecCount, hfmt]

/-- VREDM chooses among neighbours level by level. -/
theorem vredm_gives (ha : (fmtIsFloat f || fmtIsInt f) = true) :
    ∃ r, VecGives (.vredm u m) u s b 8 r ∧ r.flags = 0 ∧ r.gen = (vecLatch s u b).gen ∧ ∃ lv : Nat → Nat → Option Nat,
      (∀ e < 2048 / fmtWidth f,
        lv 0 e = if (vecLatch s u b).k.getLsbD e then some (elemAt (fmtWidth f) (vecLatch s u b).b e) else none) ∧
      (∀ j e, e < 2048 / fmtWidth f / 2 ^ (j + 1) →
        lv (j + 1) e = pickPair f ((vecLatch s u b).ctl.testBit 0) (lv j (2 * e)) (lv j (2 * e + 1))) ∧
      r.res = BitVec.ofNat 2048 ((lv (Nat.log2 (2048 / fmtWidth f)) 0).getD 0) := by
  have hfmt := vecLatch_fmt b hf
  refine ⟨_, vecGives_of h (exec_vredm u m s) hf hb ha rfl, rfl, rfl, fun j e => (pickLevels f ((vecLatch s u b).ctl.testBit 0)
    ((vecLanes (vecLatch s u b)).map fun l => if l.on then some l.b else none) j).getD e none, fun e he => ?_,
    fun j e he => ?_, ?_⟩
  · rw [vecLanes_eq_map, hfmt, List.map_map]
    exact getD_map_range _ _ he
  · refine pickLevels_pair f _ _ j e ?_
    rw [vecLanes_eq_map, hfmt]
    simpa using he
  · simp only [vredmOut, pickTree_eq, vecCount, hfmt]

end

/-! VCVT and VQNT convert a stretch of elements and leave a's others (R424, R432). -/

/-- Where VCVT's result begins, and where its source. -/
def cvtOff (part w v : Nat) : Nat := if v < w then part % (w / v) * (2048 / max w v) else 0

theorem cvtOff_fits {w v : Nat} (part : Nat) (hw : w = 8 ∨ w = 16 ∨ w = 32) (hv : v = 8 ∨ v = 16 ∨ v = 32) :
    cvtOff part w v + 2048 / max w v ≤ 2048 / v := by
  rcases hw with rfl | rfl | rfl <;> rcases hv with rfl | rfl | rfl <;> simp [cvtOff] <;> omega

/-- A stretch of converted elements: each is its function's value at some draw, and beyond it a's elements stand. -/
theorem elemAt_spliced {α : Type} (g : α → Nat → Nat × Flags) (rm : BitVec 4) (gen : BitVec 32) (items : List α) (v off e : Nat)
    (a : Vec) (hfit : off + items.length ≤ 2048 / v) (he : e < 2048 / v) :
    let r := (convList g rm items gen).1
    let as := splitElems v (2048 / v) a.toNat
    let out := packVec v (as.take off ++ r ++ as.drop (off + items.length))
    (∀ hin : off ≤ e ∧ e < off + items.length,
      ∃ d, elemAt v out e = (g (items[e - off]'(Nat.sub_lt_left_of_lt_add hin.1 hin.2)) d).1 % 2 ^ v) ∧
    (¬ (off ≤ e ∧ e < off + items.length) → elemAt v out e = elemAt v a e) := by
  intro r as out
  have hlen : r.length = items.length := convList_length ..
  have hout : elemAt v out e = (if off ≤ e ∧ e < off + items.length then r.getD (e - off) 0 else as.getD e 0) % 2 ^ v := by
    rw [elemAt_packVec v _ he, ← hlen, getD_splice _ _ _ _ (by rw [hlen, splitElems_length]; exact hfit)]
  refine ⟨fun hin => ?_, fun hout' => ?_⟩
  · obtain ⟨d, hd⟩ := convList_getElem g rm items gen (Nat.sub_lt_left_of_lt_add hin.1 hin.2)
    exact ⟨d, by rw [hout, if_pos hin, hd]⟩
  · rw [hout, if_neg hout', splitElems_getD, if_pos he, Nat.mod_mod]
    rfl

/-- What VCVT converts: for each place of the stretch its number, the source's element and a's. -/
def cvtItems (w v part : Nat) (a b : Vec) : List (Nat × (Nat × Nat) × Nat) :=
  (List.range (2048 / max w v)).zip
    ((((List.range (2048 / w)).zip (splitElems w (2048 / w) b.toNat)).drop (cvtOff part v w)).zip
      ((splitElems v (2048 / v) a.toNat).drop (cvtOff part w v)))

theorem cvtItems_length {w v : Nat} (part : Nat) (a b : Vec) (hw : w = 8 ∨ w = 16 ∨ w = 32) (hv : v = 8 ∨ v = 16 ∨ v = 32) :
    (cvtItems w v part a b).length = 2048 / max w v := by
  have h1 := cvtOff_fits part hw hv
  have h2 := cvtOff_fits part hv hw
  rw [Nat.max_comm] at h2
  simp only [cvtItems, List.length_zip, List.length_drop, List.length_range, splitElems_length]
  omega

theorem cvtItems_getElem {w v : Nat} (part : Nat) (a b : Vec) {j : Nat} (hj : j < (cvtItems w v part a b).length) :
    (cvtItems w v part a b)[j] =
      (j, (cvtOff part v w + j, elemAt w b (cvtOff part v w + j)), elemAt v a (cvtOff part w v + j)) := by
  simp [cvtItems, splitElems_eq_map, elemAt]

theorem vcvtOut_res {x : VIn} {d : Fmt} (hd : fmtOfCode (x.ctl % 256) = some d) (hw : fmtWidth x.fmt = 8 ∨ fmtWidth x.fmt = 16 ∨
    fmtWidth x.fmt = 32) (hv : fmtWidth d = 8 ∨ fmtWidth d = 16 ∨ fmtWidth d = 32) :
    (vcvtOut x).res = packVec (fmtWidth d)
      ((splitElems (fmtWidth d) (2048 / fmtWidth d) x.a.toNat).take (cvtOff (ctlPart x) (fmtWidth x.fmt) (fmtWidth d)) ++
        (convList (fun (p : Nat × (Nat × Nat) × Nat) dr =>
            cvtElem x d (cvtOff (ctlPart x) (fmtWidth x.fmt) (fmtWidth d) + p.1) p.2.1 p.2.2 dr) x.rm
          (cvtItems (fmtWidth x.fmt) (fmtWidth d) (ctlPart x) x.a x.b) x.gen).1 ++
        (splitElems (fmtWidth d) (2048 / fmtWidth d) x.a.toNat).drop (cvtOff (ctlPart x) (fmtWidth x.fmt) (fmtWidth d) +
          (cvtItems (fmtWidth x.fmt) (fmtWidth d) (ctlPart x) x.a x.b).length)) := by
  have hoff : (if fmtWidth x.fmt < fmtWidth d then ctlPart x % (fmtWidth d / fmtWidth x.fmt) *
      (2048 / max (fmtWidth x.fmt) (fmtWidth d)) else 0) = cvtOff (ctlPart x) (fmtWidth d) (fmtWidth x.fmt) := by
    rw [cvtOff, Nat.max_comm]
  rw [cvtItems_length _ _ _ hw hv]
  simp only [vcvtOut, cvtDst, hd, Option.getD_some, hoff]
  rfl

/-- One place of VCVT's result. -/
theorem vcvt_element {x : VIn} {d : Fmt} (hd : fmtOfCode (x.ctl % 256) = some d) (hw : fmtWidth x.fmt = 8 ∨ fmtWidth x.fmt = 16 ∨
    fmtWidth x.fmt = 32) (hv : fmtWidth d = 8 ∨ fmtWidth d = 16 ∨ fmtWidth d = 32) {e : Nat} (he : e < 2048 / fmtWidth d) :
    let lo := cvtOff (ctlPart x) (fmtWidth x.fmt) (fmtWidth d)
    let i := cvtOff (ctlPart x) (fmtWidth d) (fmtWidth x.fmt) + (e - lo)
    if lo ≤ e ∧ e < lo + 2048 / max (fmtWidth x.fmt) (fmtWidth d) ∧ x.k.getLsbD e = true then
      ∃ dr, elemAt (fmtWidth d) (vcvtOut x).res e =
        (if x.ctl.testBit 10 then
            (roundNum d (scaleBy (decodeNum x.fmt (elemAt (fmtWidth x.fmt) x.b i)) (scaleByte x (i / 8))) x.rm dr).1
          else (convert x.fmt d (elemAt (fmtWidth x.fmt) x.b i) x.rm dr).1) % 2 ^ fmtWidth d
    else elemAt (fmtWidth d) (vcvtOut x).res e = elemAt (fmtWidth d) x.a e := by
  intro lo i
  have hlen := cvtItems_length (ctlPart x) x.a x.b hw hv
  obtain ⟨hin, hout⟩ := elemAt_spliced (fun (p : Nat × (Nat × Nat) × Nat) dr => cvtElem x d (lo + p.1) p.2.1 p.2.2 dr) x.rm x.gen
    (cvtItems (fmtWidth x.fmt) (fmtWidth d) (ctlPart x) x.a x.b) (fmtWidth d) lo e x.a
    (by rw [hlen]; exact cvtOff_fits _ hw hv) he
  rw [← vcvtOut_res hd hw hv] at hin hout
  rw [hlen] at hout
  by_cases hstretch : lo ≤ e ∧ e < lo + 2048 / max (fmtWidth x.fmt) (fmtWidth d)
  · obtain ⟨dr, hdr⟩ := hin (hlen.symm ▸ hstretch)
    rw [cvtItems_getElem, Nat.add_sub_cancel' hstretch.1] at hdr
    by_cases hk : x.k.getLsbD e = true
    · rw [if_pos ⟨hstretch.1, hstretch.2, hk⟩]
      refine ⟨dr, hdr.trans ?_⟩
      rw [cvtElem, if_pos hk]
      split <;> rfl
    · rw [if_neg fun h => hk h.2.2, hdr, cvtElem, if_neg hk, elemAt_mod]
  · rw [if_neg fun h => hstretch ⟨h.1, h.2.1⟩]
    exact hout hstretch

/-- What VQNT quantizes: for each place its number, the source's value and a's byte. -/
def qntItems (part : Nat) (a b : Vec) : List (Nat × Num × Nat) :=
  (List.range 64).zip (((List.range 64).map fun e => decodeNum f32 (elemAt 32 b e)).zip
    ((splitElems 8 256 a.toNat).drop (64 * part)))

theorem qntItems_length {part : Nat} (hp : part < 4) (a b : Vec) : (qntItems part a b).length = 64 := by
  simp only [qntItems, List.length_zip, List.length_drop, List.length_range, List.length_map, splitElems_length]
  omega

theorem qntItems_getElem (part : Nat) (a b : Vec) {j : Nat} (hj : j < (qntItems part a b).length) :
    (qntItems part a b)[j] = (j, decodeNum f32 (elemAt 32 b j), elemAt 8 a (64 * part + j)) := by
  simp [qntItems, splitElems_eq_map, elemAt]

/-- The scale of eight neighbours of b. -/
def qntScale (x : VIn) (d : Fmt) (j : Nat) : Nat :=
  blockScale d ((List.range 8).map fun i => decodeNum f32 (elemAt 32 x.b (8 * j + i)))

theorem qntScales_eq {x : VIn} (d : Fmt) (hx : x.fmt = f32) :
    ((List.range 8).map fun j => blockScale d ((((vecElems x x.b).map (decodeNum f32)).drop (8 * j)).take 8)) =
      (List.range 8).map (qntScale x d) := by
  have hw : fmtWidth f32 = 32 := rfl
  refine List.map_congr_left fun j hj => ?_
  rw [vecElems_eq_map, hx, hw, List.map_map, take_drop_map_range _ (by have := List.mem_range.mp hj; omega)]
  rfl

theorem vqnt_scales {x : VIn} {d : Fmt} (hx : x.fmt = f32) (hd : fmtOfCode (x.ctl % 256) = some d)
    (h11 : x.ctl.testBit 11 = true) :
    (vqntOut x).flags = 0 ∧ ∀ e < 256, elemAt 8 (vqntOut x).res e =
      if 8 * ctlPart x ≤ e ∧ e < 8 * ctlPart x + 8 then qntScale x d (e - 8 * ctlPart x) % 256 else elemAt 8 x.a e := by
  have hp : ctlPart x < 4 := Nat.mod_lt _ (by decide)
  have hlen : ((List.range 8).map (qntScale x d)).length = 8 := by simp
  have hout : vqntOut x = ⟨packVec 8 ((splitElems 8 256 x.a.toNat).take (8 * ctlPart x) ++ (List.range 8).map (qntScale x d) ++
      (splitElems 8 256 x.a.toNat).drop (8 * ctlPart x + ((List.range 8).map (qntScale x d)).length)), 0, x.gen⟩ := by
    simp only [vqntOut, cvtDst, hd, Option.getD_some, qntScales_eq d hx, if_pos h11, hlen]
  rw [hout]
  refine ⟨rfl, fun e he => ?_⟩
  rw [elemAt_packVec 8 _ (show e < 2048 / 8 from he), getD_splice _ _ _ _ (by rw [hlen, splitElems_length]; omega), hlen]
  split
  case isTrue hin => rw [getD_map_range _ _ (by omega)]; rfl
  case isFalse hout' => rw [splitElems_getD, if_pos he, Nat.mod_mod]; rfl

theorem vqnt_elements {x : VIn} {d : Fmt} (hx : x.fmt = f32) (hd : fmtOfCode (x.ctl % 256) = some d)
    (h11 : x.ctl.testBit 11 = false) {e : Nat} (he : e < 256) :
    let i := e - 64 * ctlPart x
    if 64 * ctlPart x ≤ e ∧ e < 64 * ctlPart x + 64 ∧ x.k.getLsbD i = true then
      ∃ dr, elemAt 8 (vqntOut x).res e =
        (roundNum d (unscale (decodeNum f32 (elemAt 32 x.b i)) (qntScale x d (i / 8))) (x.rm ||| 8) dr).1 % 256
    else elemAt 8 (vqntOut x).res e = elemAt 8 x.a e := by
  intro i
  have hp : ctlPart x < 4 := Nat.mod_lt _ (by decide)
  have hlen := qntItems_length hp x.a x.b
  have hnums : (vecElems x x.b).map (decodeNum f32) = (List.range 64).map fun e => decodeNum f32 (elemAt 32 x.b e) := by
    rw [vecElems_eq_map, hx, List.map_map]; rfl
  have hscales := qntScales_eq d hx
  obtain ⟨hin, hout⟩ := elemAt_spliced (fun (p : Nat × Num × Nat) dr =>
      if x.k.getLsbD p.1 then roundNum d (unscale p.2.1 (((List.range 8).map (qntScale x d)).getD (p.1 / 8) 127)) (x.rm ||| 8) dr
      else (p.2.2, 0)) x.rm x.gen (qntItems (ctlPart x) x.a x.b) 8 (64 * ctlPart x) e x.a (by rw [hlen]; omega) he
  have hres : (vqntOut x).res = packVec 8 ((splitElems 8 256 x.a.toNat).take (64 * ctlPart x) ++
      (convList (fun (p : Nat × Num × Nat) dr =>
        if x.k.getLsbD p.1 then roundNum d (unscale p.2.1 (((List.range 8).map (qntScale x d)).getD (p.1 / 8) 127)) (x.rm ||| 8) dr
        else (p.2.2, 0)) x.rm (qntItems (ctlPart x) x.a x.b) x.gen).1 ++
      (splitElems 8 256 x.a.toNat).drop (64 * ctlPart x + (qntItems (ctlPart x) x.a x.b).length)) := by
    rw [hlen]
    simp only [vqntOut, cvtDst, hd, Option.getD_some, hscales, h11, Bool.false_eq_true, if_false]
    rw [hnums]
    rfl
  have h256 : 2048 / 8 = 256 := rfl
  rw [h256, ← hres] at hin hout
  rw [hlen] at hout
  by_cases hstretch : 64 * ctlPart x ≤ e ∧ e < 64 * ctlPart x + 64
  · obtain ⟨dr, hdr⟩ := hin (hlen.symm ▸ hstretch)
    rw [qntItems_getElem, Nat.add_sub_cancel' hstretch.1, getD_map_range _ _ (by omega)] at hdr
    by_cases hk : x.k.getLsbD i = true
    · rw [if_pos ⟨hstretch.1, hstretch.2, hk⟩]
      exact ⟨dr, by rw [hdr, if_pos hk]; rfl⟩
    · rw [if_neg fun h => hk h.2.2, hdr, if_neg hk, elemAt_mod]
  · rw [if_neg fun h => hstretch ⟨h.1, h.2.1⟩]
    exact hout hstretch

/-! VDOT8 (R138, R139, R425). -/

theorem eight_of_256 (v : Vec) {e : Nat} (he : e < 32) :
    ((splitElems 8 256 v.toNat).drop (8 * e)).take 8 = (List.range 8).map fun i => elemAt 8 v (8 * e + i) := by
  rw [splitElems_eq_map, take_drop_map_range _ (by omega)]
  rfl

/-- One of VDOT8's 32 elements: a disabled one is c's, and the elements above are 0. -/
theorem vdot_element {x : VIn} {g : Fmt} (hg : fmtOfCode (dotB x) = some g) :
    (∀ e, 32 ≤ e → e < 64 → elemAt 32 (vdotOut x).res e = 0) ∧ ∀ e < 32,
      let as := (List.range 8).map fun i => elemAt 8 x.a (8 * e + i)
      let bs := (List.range 8).map fun i => elemAt 8 x.b (8 * e + i)
      ∃ dr, elemAt 32 (vdotOut x).res e =
        (if x.k.getLsbD e then
          (if fmtIsB8 x.fmt then dotFloat x g e as bs (elemAt 32 x.c e) dr else dotInt x g as bs (elemAt 32 x.c e))
        else (elemAt 32 x.c e, 0)).1 % 2 ^ 32 := by
  have h64 : 2048 / 32 = 64 := rfl
  have hlen : ((List.range 32).zip (splitElems 32 32 x.c.toNat)).length = 32 := by simp [splitElems_length]
  refine ⟨fun e h1 h2 => ?_, fun e he => ?_⟩
  · simp only [vdotOut]
    rw [elemAt_packVec 32 _ (h64 ▸ h2), List.getD_eq_default _ _ (by rw [convList_length, hlen]; exact h1)]
    rfl
  · simp only [vdotOut, hg, Option.getD_some]
    rw [elemAt_packVec 32 _ (by omega)]
    obtain ⟨dr, hdr⟩ := convList_getElem (fun (p : Nat × Nat) dr =>
        if x.k.getLsbD p.1 then (if fmtIsB8 x.fmt then dotFloat x g p.1
            (((splitElems 8 256 x.a.toNat).drop (8 * p.1)).take 8) (((splitElems 8 256 x.b.toNat).drop (8 * p.1)).take 8) p.2 dr
          else dotInt x g (((splitElems 8 256 x.a.toNat).drop (8 * p.1)).take 8)
            (((splitElems 8 256 x.b.toNat).drop (8 * p.1)).take 8) p.2)
        else (p.2, 0)) (if fmtIsB8 x.fmt then x.rm else 0) ((List.range 32).zip (splitElems 32 32 x.c.toNat)) x.gen
      (hlen.symm ▸ he)
    have hitem : ((List.range 32).zip (splitElems 32 32 x.c.toNat))[e]'(hlen.symm ▸ he) = (e, elemAt 32 x.c e) := by
      simp [splitElems_eq_map, elemAt]
    rw [hitem] at hdr
    simp only [eight_of_256 _ he] at hdr
    exact ⟨dr, by rw [← hdr]⟩

theorem zip_map_range {α β γ : Type} (f : Nat → α) (g : Nat → β) (h : α × β → γ) (n : Nat) :
    ((((List.range n).map f).zip ((List.range n).map g)).map h) = (List.range n).map fun i => h (f i, g i) := by
  simp [List.zip_map', List.map_map, Function.comp_def]

theorem dotInt_eq (x : VIn) (g : Fmt) (p q : Nat → Nat) (c : Nat) :
    dotInt x g ((List.range 8).map p) ((List.range 8).map q) c =
      intFit 32 true x.rm (((List.range 8).map fun i => intElem x.fmt (p i) * intElem g (q i)).sum +
        if x.ctl.testBit 0 then intElem (.int 32 true) c else 0) := by
  rw [dotInt, zip_map_range]

theorem dotFloat_eq (x : VIn) (g : Fmt) (e : Nat) (p q : Nat → Nat) (c dr : Nat) :
    (dotFloat x g e ((List.range 8).map p) ((List.range 8).map q) c dr).1 =
      (let r := (numSum ((List.range 8).map fun i => (numMul (decodeNum x.fmt (p i)) (decodeNum g (q i))).1)).1
       let r' := if x.ctl.testBit 1 then scaleBy (scaleBy r (scaleByte x e)) (scaleByte x (32 + e)) else r
       let v := if x.ctl.testBit 0 then (numAdd r' (decodeNum f32 c)).1 else r'
       (roundNum f32 v x.rm dr).1) := by
  simp only [dotFloat, products, List.map_map, zip_map_range]
  by_cases h : x.ctl.testBit 0 = true
  · simp only [if_pos h]; rfl
  · simp only [if_neg h]; rfl

/-- Settles O18: the reductions by their levels, the conversions by the stretch of elements that they replace, VDOT8 element by
element. -/
theorem vectorReductionsWriteResult : Obligations.VectorReductionsWriteResult := by
  unfold Obligations.VectorReductionsWriteResult
  intro s fl m u f h hf b x w n part
  have hfmt : x.fmt = f := vecLatch_fmt b hf
  have hw : fmtWidth x.fmt = 8 ∨ fmtWidth x.fmt = 16 ∨ fmtWidth x.fmt = 32 := hfmt ▸ width_of_fmtOfCode hf
  refine ⟨fun ha => ?vreda, fun ha => ?vredm, fun d hd hne h10 => ?vcvt, fun d hx hd hb8 => ?vqnt,
    fun g ha hg hag hkind h1 => ?vdot⟩
  case vreda =>
    obtain ⟨r, gives, lv, hbase, hstep, hres⟩ := vreda_gives (m := m) h hf (b := b) rfl ha
    refine ⟨r, gives, lv, hbase, fun j e he => ?_, hres⟩
    obtain ⟨d, hd⟩ := hstep j e he
    refine ⟨fun v signed hv => ?_, fun hint => ⟨d, ?_⟩⟩
    · rw [hd, hv]; rfl
    · rw [hd, addPair_of_not_int _ _ _ _ hint]
  case vredm =>
    obtain ⟨r, gives, hflags, hgen, lv, hbase, hstep, hres⟩ := vredm_gives (m := m) h hf (b := b) rfl ha
    refine ⟨r, gives, hflags, hgen, lv, hbase, fun j e he => ?_, hres⟩
    have hd := hstep j e he
    refine ⟨fun h1 => ?_, fun h1 => ?_, fun p q h1 h2 => ?_⟩
    · rw [hd, h1]; rfl
    · rw [hd, h1]; cases lv j (2 * e) <;> rfl
    · rw [hd, h1, h2]; rfl
  case vcvt =>
    have hbad : vcvtBad x = none := by
      have hscale : ¬(x.ctl.testBit 10 = true ∧ (!fmtIsB8 x.fmt) = true) := fun hs => by
        rw [hfmt, h10 hs.1] at hs; exact absurd hs.2 (by decide)
      rw [vcvtBad, cvtDst, hd]
      cases d <;> first | exact absurd rfl hne | exact if_neg hscale
    refine ⟨_, vecGives_of h (exec_vcvt u m s) hf rfl rfl hbad, fun e he => ?_⟩
    have helem := vcvt_element hd hw (width_of_fmtOfCode hd) he
    have hlo : (if fmtWidth d < w then part % (w / fmtWidth d) * (2048 / w) else 0) = cvtOff part w (fmtWidth d) := by
      rw [cvtOff]; split <;> simp_all [Nat.le_of_lt]
    have hfrom : (if w < fmtWidth d then part % (fmtWidth d / w) * (2048 / fmtWidth d) else 0) = cvtOff part (fmtWidth d) w := by
      rw [cvtOff]; split <;> simp_all [Nat.le_of_lt]
    rw [hfmt] at helem
    rw [hlo, hfrom]
    exact helem
  case vqnt =>
    have hbad : vqntBad x = none := by rw [vqntBad, cvtDst, hd]; exact if_pos hb8
    have hx' := hfmt.trans hx
    exact ⟨_, vecGives_of h (exec_vqnt u m s) hf rfl (by rw [hx]; rfl) hbad, vqnt_scales hx' hd,
      fun h11 e he => vqnt_elements hx' hd h11 he⟩
  case vdot =>
    have hbad : vdotBad x = none := by
      have hscale : ¬(x.ctl.testBit 1 = true ∧ (!fmtIsB8 x.fmt) = true) := fun hs => by
        rw [hfmt, h1 hs.1] at hs; exact absurd hs.2 (by decide)
      simp only [vdotBad, hg, hag, hkind, hfmt, beq_self_eq_true, Bool.and_self, if_true]
      exact if_neg (hfmt ▸ hscale)
    obtain ⟨hhigh, hlow⟩ := vdot_element hg
    refine ⟨_, vecGives_of h (exec_vdot8 u m s) hf rfl ha hbad, hhigh, fun e he => ?_⟩
    obtain ⟨dr, hdr⟩ := hlow e he
    refine ⟨fun hk => ?_, fun hk hint => ?_, fun hk hfloat => ⟨dr, ?_⟩⟩
    · rw [hdr, if_neg (by rw [hk]; decide), elemAt_mod]
    · rw [hdr, if_pos hk, hfmt, if_neg (by rw [hint]; decide), dotInt_eq, hfmt]
    · rw [hdr, if_pos hk, hfmt, if_pos hfloat, dotFloat_eq, hfmt]

end Sys2Proof.Machine
end

section
/-! PROOF. Words of the encoding tables, and what reset leaves of a stream (R82, R339, spec/05). -/

namespace Sys2Proof.Machine

/-- Settles O55: each word is decoded by computation. -/
theorem tableWordsDecode : Obligations.TableWordsDecode := by
  unfold Obligations.TableWordsDecode
  refine ⟨?_, ?_, ?_, ?_, ?_, ?_, ?_, ?_⟩ <;> decide

/-- A stream that no SCFG has configured since reset is not closed: the model tells the two apart. -/
theorem streamOf_reset (k n : Nat) : (streamOf (coreOf State.reset k) n).mode = .never := rfl

/-- Refutes O57: stream 0 of core 0 reads as never configured, and not as closed. -/
theorem not_resetState : ¬ Obligations.ResetState := by
  unfold Obligations.ResetState
  intro ⟨_, _, _, _, _, _, cores⟩
  obtain ⟨_, _, _, _, _, _, _, _, _, _, _, _, _, streams, _⟩ := cores 0
  have closed := streams 0 (by decide)
  rw [streamOf_reset] at closed
  exact absurd closed (by decide)

end Sys2Proof.Machine
end

section
/-! PROOF. One step of the machine: the bundle that begins and the job that runs (R89, R106, R286). -/

namespace Sys2Proof.Machine

/-! The bundle that begins. -/

theorem fetchBundle_dropPast (c : Core) (x : Nat) : fetchBundle (dropPast c x) x = fetchBundle c x := by
  have hahead : ((dropPast c x).ahead.find? fun b : Nat × Nat × BitVec 192 => decide (b.1 = x ∧ b.2.1 = c.pc)) =
      c.ahead.find? fun b : Nat × Nat × BitVec 192 => decide (b.1 = x ∧ b.2.1 = c.pc) := by
    rw [dropPast, List.find?_filter]
    congr 1
    funext b
    by_cases hb : b.1 = x <;> simp [hb]
  show (match c.buffered.find? fun b => decide (b.1 = c.pc) with
    | some b => b.2
    | none => match (dropPast c x).ahead.find? fun b : Nat × Nat × BitVec 192 => decide (b.1 = x ∧ b.2.1 = c.pc) with
      | some b => b.2.2
      | none => bundleAt c c.pc) = _
  rw [hahead]
  rfl

/-- A bundle of the store or of the target buffer without an uncorrectable error can be fetched. -/
theorem fetchBad_eq_false {c : Core} {x : Nat} (hpc : c.pc < 16384)
    (hgood : (c.pc ∈ c.badBundles ∨ (x, c.pc) ∈ c.aheadBad) → ∃ b ∈ c.buffered, b.1 = c.pc) : fetchBad c x = false := by
  by_cases hbuf : ∃ b ∈ c.buffered, b.1 = c.pc
  · have hany : (c.buffered.any fun b => decide (b.1 = c.pc)) = true := by simpa using hbuf
    simp only [fetchBad, hany]
    simpa using hpc
  · have h1 : c.badBundles.contains c.pc = false := by simpa using fun h => hbuf (hgood (.inl h))
    have h2 : c.aheadBad.contains (x, c.pc) = false := by simpa using fun h => hbuf (hgood (.inr h))
    simp only [fetchBad, h1, h2, ite_self, Bool.and_false, Bool.or_false]
    simpa using hpc

/-- With no iteration start pending and a bundle without decode faults, issue latches the bundle and raises nothing. -/
theorem issueCore_of_no_starts {c : Core} {x : Nat} (hs : c.starts = []) (hf : decodeFaults (fetchBundle c x) = []) :
    (issueCore c x).latch = fetchBundle c x ∧ (issueCore c x).curBundle = c.pc ∧ (issueCore c x).raised = c.raised := by
  have happ : ∀ d : Core, d.starts = [] → applyStarts d x = { d with starts := [] } := fun d hd => by
    simp only [applyStarts, hd, List.filter_nil, List.foldl_nil]
  have hfetch : ∀ d : Core, d.pc = c.pc → d.buffered = c.buffered → d.ahead = c.ahead → d.istore = c.istore →
      fetchBundle d x = fetchBundle c x := fun d h1 h2 h3 h4 => by
    simp only [fetchBundle, bundleAt, h1, h2, h3, h4]
  simp only [issueCore]
  rw [happ, hfetch, hf]
  exacts [⟨rfl, rfl, rfl⟩, rfl, rfl, rfl, rfl, hs]

theorem latch_of_nothing_buffered {c : Core} {x : Nat} (hb : c.buffered = []) (ha : c.ahead = []) :
    fetchBundle c x = bundleAt c c.pc := by
  simp only [fetchBundle, hb, ha, List.find?_nil]

/-- The bundle that begins: no fault charged to its cycle, and it can be fetched and decoded. -/
theorem beginBundle_spec {s : State} {k : Nat} (hi : issues s k = true) (hdoom : (coreOf s k).doomed = [])
    (hdef : ∀ q ∈ (coreOf s k).deferred, q.charge ≠ gcycOf s k) (hraised : (coreOf s k).raised = [])
    (hstarts : (coreOf s k).starts = []) (hgood : fetchBad (coreOf s k) (gcycOf s k) = false)
    (hdec : decodeFaults (fetchBundle (coreOf s k) (gcycOf s k)) = []) :
    (beginBundle s k).issuing = some (.slot k 0) ∧
      coreOf (beginBundle s k) k = issueCore (dropPast (coreOf s k) (gcycOf s k)) (gcycOf s k) := by
  have hfilter : ((coreOf s k).deferred.filter fun r => decide (r.charge = gcycOf s k)) = [] := by
    rw [List.filter_eq_nil_iff]
    exact fun q hq => by simpa using hdef q hq
  have hnone : ((coreOf s k).doomed ++
      (if s.looking then [] else (coreOf s k).deferred.filter fun r => decide (r.charge = gcycOf s k))) = [] := by
    rw [hdoom, hfilter, ite_self]; rfl
  have hcore := issueCore_of_no_starts (c := dropPast (coreOf s k) (gcycOf s k)) (x := gcycOf s k) hstarts
    (by rw [fetchBundle_dropPast]; exact hdec)
  have hempty : (issueCore (dropPast (coreOf s k) (gcycOf s k)) (gcycOf s k)).raised = [] := hcore.2.2.trans hraised
  simp only [beginBundle, hi, Bool.true_eq_false, if_false, hnone, hgood, Bool.false_eq_true, hempty, true_or, if_true]
  split <;> exact ⟨rfl, coreOf_setCore_self ..⟩

/-! The job that runs next. -/

theorem bestJob_spec {s : State} {js : List Job} {j : Job} (h : bestJob s js = some j) : j ∈ js ∧ jobDue s j = true := by
  induction js generalizing j with
  | nil => cases h
  | cons a js ih =>
    rw [bestJob] at h
    split at h
    · split at h
      case isTrue hdue => cases h; exact ⟨List.mem_cons_self .., hdue⟩
      case isFalse => cases h
    case h_2 b hb =>
      split at h
      case isTrue hdue => cases h; exact ⟨List.mem_cons_self .., (Bool.and_eq_true _ _ ▸ hdue).1⟩
      case isFalse =>
        cases h
        exact ⟨List.mem_cons_of_mem _ (ih hb).1, (ih hb).2⟩

theorem nextJob_spec {s : State} {j : Job} {js : List Job} (h : nextJob s = some (j, js)) :
    j ∈ s.agenda ∧ jobDue s j = true ∧ js = s.agenda.erase j := by
  rw [nextJob, Option.map_eq_some_iff] at h
  obtain ⟨b, hb, heq⟩ := h
  cases heq
  exact ⟨(bestJob_spec hb).1, (bestJob_spec hb).2, rfl⟩

/-- Where no core has raised a fault, settling changes nothing. -/
theorem settleAll_of_none_raised {t : State} (h : ∀ e ∈ t.cores, e.2.raised = []) : settleAll t = t := by
  have hnone : (t.cores.filter fun kc => kc.2.raised ≠ []) = [] := by
    rw [List.filter_eq_nil_iff]
    exact fun e he => by simp [h e he]
  rw [settleAll]
  split
  · rfl
  · rw [hnone]; rfl

end Sys2Proof.Machine
end

section
/-! PROOF. The cores of a gang, a change of each of them, and what touches neither cores nor gangs. -/

namespace Sys2Proof.Machine

/-! Tables in canonical form. -/

theorem twfFrom_mem {α : Type} [DecidableEq α] {d : α} {t : Table α} {lo k : Nat} {v : α} (ht : twfFrom d lo t = true)
    (h : (k, v) ∈ t) : lo ≤ k ∧ tget d t k = v := by
  induction t generalizing lo with
  | nil => cases h
  | cons e t ih =>
    obtain ⟨j, w⟩ := e
    simp only [twfFrom, Bool.and_eq_true, decide_eq_true_eq] at ht
    obtain ⟨⟨hlo, -⟩, htail⟩ := ht
    rcases List.mem_cons.mp h with heq | hmem
    · cases heq
      exact ⟨hlo, if_pos rfl⟩
    · obtain ⟨hk, hv⟩ := ih htail hmem
      exact ⟨by omega, by rw [tget, if_neg (by omega), hv]⟩

theorem twfFrom_keys_nodup {α : Type} [DecidableEq α] {d : α} {t : Table α} {lo : Nat} (ht : twfFrom d lo t = true) :
    (t.map (·.1)).Nodup := by
  induction t generalizing lo with
  | nil => exact List.nodup_nil
  | cons e t ih =>
    obtain ⟨j, w⟩ := e
    simp only [twfFrom, Bool.and_eq_true, decide_eq_true_eq] at ht
    refine List.nodup_cons.mpr ⟨fun hmem => ?_, ih ht.2⟩
    obtain ⟨⟨k, v⟩, hkv, rfl⟩ := List.mem_map.mp hmem
    exact absurd (twfFrom_mem ht.2 hkv).1 (Nat.not_succ_le_self _)

theorem mem_of_tget_ne {α : Type} {d : α} {t : Table α} {k : Nat} (h : tget d t k ≠ d) : (k, tget d t k) ∈ t := by
  induction t with
  | nil => exact absurd rfl h
  | cons e t ih =>
    obtain ⟨j, w⟩ := e
    rw [tget] at h ⊢
    split
    case isTrue hk => subst hk; exact List.mem_cons_self ..
    case isFalse hk => rw [if_neg hk] at h; exact List.mem_cons_of_mem _ (ih h)

/-! The cores of a gang. -/

theorem mem_gangCores {s : State} {g k : Nat} (hc : canonical s) (hg : g ≠ noGang) :
    k ∈ gangCores s g ↔ (coreOf s k).gang = g := by
  simp only [gangCores, List.mem_map, List.mem_filter, decide_eq_true_eq]
  constructor
  · rintro ⟨⟨j, c⟩, ⟨hmem, hgang⟩, rfl⟩
    rw [coreOf, (twfFrom_mem hc.1 hmem).2]
    exact hgang
  · intro hgang
    have hne : tget ({} : Core) s.cores k ≠ {} := fun h => hg (by rw [← hgang, coreOf, h]; rfl)
    exact ⟨_, ⟨mem_of_tget_ne hne, hgang⟩, rfl⟩

theorem nodup_gangCores {s : State} (g : Nat) (hc : canonical s) : (gangCores s g).Nodup :=
  (twfFrom_keys_nodup hc.1).sublist (List.filter_sublist.map _)

theorem mem_parties {s : State} {g k : Nat} (hc : canonical s) (hg : g ≠ noGang) :
    k ∈ parties s g ↔ (coreOf s k).gang = g ∧ (coreOf s k).running = true := by
  rw [parties, List.mem_filter, mem_gangCores hc hg]

/-! A change of each of a list of cores. -/

theorem coreOf_modCore (s : State) (k j : Nat) (f : Core → Core) :
    coreOf (modCore s k f) j = if j = k then f (coreOf s j) else coreOf s j := by
  split
  case isTrue h => subst h; exact coreOf_modCore_self ..
  case isFalse h => exact coreOf_modCore_ne _ _ h

theorem coreOf_foldl_modCore (f : Core → Core) (ks : List Nat) (s : State) (j : Nat) (hks : ks.Nodup) :
    coreOf (ks.foldl (fun s k => modCore s k f) s) j = if j ∈ ks then f (coreOf s j) else coreOf s j := by
  induction ks generalizing s with
  | nil => simp
  | cons k ks ih =>
    obtain ⟨hk, hks⟩ := List.nodup_cons.mp hks
    rw [List.foldl_cons, ih _ hks, coreOf_modCore]
    by_cases hj : j = k
    · subst hj; simp [hk]
    · simp [hj]

/-- The step changes cores alone. -/
structure CoresOnly (s t : State) : Prop where
  gangs : t.gangs = s.gangs
  hub : t.hub = s.hub
  agenda : t.agenda = s.agenda
  pod : t.pod = s.pod
  cur : t.cur = s.cur
  issuing : t.issuing = s.issuing
  looking : t.looking = s.looking

theorem coresOnly_foldl_modCore (f : Core → Core) (ks : List Nat) (s : State) :
    CoresOnly s (ks.foldl (fun s k => modCore s k f) s) := by
  induction ks generalizing s with
  | nil => exact ⟨rfl, rfl, rfl, rfl, rfl, rfl, rfl⟩
  | cons k ks ih =>
    obtain ⟨h1, h2, h3, h4, h5, h6, h7⟩ := ih (modCore s k f)
    exact ⟨h1, h2, h3, h4, h5, h6, h7⟩

/-- A change of every core of a gang. -/
theorem coreOf_foldl_gangCores {s : State} {g : Nat} (f : Core → Core) (hc : canonical s) (hg : g ≠ noGang) (j : Nat) :
    coreOf ((gangCores s g).foldl (fun s k => modCore s k f) s) j =
      if (coreOf s j).gang = g then f (coreOf s j) else coreOf s j := by
  rw [coreOf_foldl_modCore _ _ _ _ (nodup_gangCores g hc)]
  simp only [mem_gangCores hc hg]

/-! What touches neither cores nor gangs: the hub, and what is scheduled. -/

/-- The step leaves the tables of cores and gangs, and keeps what is scheduled. -/
structure Beside (s t : State) : Prop where
  cores : t.cores = s.cores
  gangs : t.gangs = s.gangs
  pod : t.pod = s.pod
  keeps : ∀ j ∈ s.agenda, j ∈ t.agenda

theorem Beside.refl (s : State) : Beside s s := ⟨rfl, rfl, rfl, fun _ h => h⟩

theorem Beside.trans {s t u : State} (h₁ : Beside s t) (h₂ : Beside t u) : Beside s u :=
  ⟨h₂.cores.trans h₁.cores, h₂.gangs.trans h₁.gangs, h₂.pod.trans h₁.pod, fun j hj => h₂.keeps j (h₁.keeps j hj)⟩

theorem Beside.foldl {α : Type} {f : State → α → State} (h : ∀ s a, Beside s (f s a)) (as : List α) (s : State) :
    Beside s (as.foldl f s) := by
  induction as generalizing s with
  | nil => exact .refl s
  | cons a as ih => exact (h s a).trans (ih (f s a))

theorem Beside.coreOf {s t : State} (h : Beside s t) (k : Nat) : coreOf t k = coreOf s k := by
  rw [Machine.coreOf, h.cores, Machine.coreOf]

theorem Beside.gangOf {s t : State} (h : Beside s t) (g : Nat) : gangOf t g = gangOf s g := by
  rw [Machine.gangOf, h.gangs, Machine.gangOf]

theorem beside_post (s : State) (j : Job) : Beside s (post s j) := ⟨rfl, rfl, rfl, fun _ h => List.mem_append_left _ h⟩

theorem beside_postPod (s : State) (due ph : Nat) (i : Instr) : Beside s (postPod s due ph i) := beside_post ..

theorem beside_setFab (s : State) (f : Fabric) : Beside s (setFab s f) := ⟨rfl, rfl, rfl, fun _ h => h⟩

theorem beside_wakeLane (s : State) (n : Nat) : Beside s (wakeLane s n) := by
  unfold wakeLane
  split
  · exact .refl s
  · exact beside_postPod ..

theorem beside_leekForward (s : State) (i : LeekItem) : Beside s (leekForward s i) := by
  unfold leekForward
  dsimp only
  split
  · exact (beside_setFab ..).trans (beside_wakeLane ..)
  · split
    · exact (beside_setFab ..).trans (beside_post ..)
    · exact beside_setFab ..

/-- Sending a control frame leaves cores and gangs. -/
theorem beside_leekSend (s : State) (g dst : Nat) (i : Instr) : Beside s (leekSend s g dst i) := by
  unfold leekSend
  split
  · exact beside_postPod ..
  · exact beside_leekForward ..

end Sys2Proof.Machine
end

section
/-! PROOF. RESYNC: its arrival, its completion with every party, and the frames of the tree (R36, R37, R198, R245, R401). -/

namespace Sys2Proof.Machine

theorem exec_resync (m : Mv) (s : State) : exec (.resync m) s = execResync m s := rfl
theorem exec_resyncResume (g : Nat) (s : State) : exec (.resyncResume g) s = execResyncResume g s := rfl
theorem exec_resyncFrame (g chip count latest : Nat) (s : State) :
    exec (.resyncFrame g chip count latest) s = execResyncFrame g chip count latest s := rfl

theorem resyncArrive_spec (s : State) (k t : Nat) :
    (resyncArrive s k t).cores = s.cores ∧ (resyncArrive s k t).hub = s.hub ∧
      (resyncArrive s k t).agenda = s.agenda ++
        [⟨.gang (coreOf s k).gang, t, phSync, none, .deed (.resyncCheck (coreOf s k).gang)⟩] ∧
      (resyncArrive s k t).gangs = tset {} s.gangs (coreOf s k).gang { gangOf s (coreOf s k).gang with
        arrived := (gangOf s (coreOf s k).gang).arrived ++ [k], latest := max (gangOf s (coreOf s k).gang).latest t } :=
  ⟨rfl, rfl, rfl, rfl⟩

/-- A RESYNC's arrival: its core waits, the gang notes it, and the check is scheduled. -/
theorem resync_arrives {s : State} {fl : Flight} (m : Mv) (h : s.cur.flight = some fl) :
    ∃ t, exec (.resync m) s = .next t ∧
      t.agenda = s.agenda ++ [ownJob s fl.arrive phAdvance (.deed .interval),
        ⟨.gang (myCore s).gang, fl.arrive, phSync, none, .deed (.resyncCheck (myCore s).gang)⟩] ∧
      t.gangs = tset {} s.gangs (myCore s).gang { gangOf s (myCore s).gang with
        arrived := (gangOf s (myCore s).gang).arrived ++ [me s]
        latest := max (gangOf s (myCore s).gang).latest fl.arrive } ∧
      (∀ k, k ≠ me s → coreOf t k = coreOf s k) ∧ t.hub = s.hub ∧ RaisesOnly [4] (myCore s) (coreOf t (me s)) ∧
      coreOf t (me s) = noted { myCore s with
        waits := { (myCore s).waits with resync := some none }, poison := false, suppress := false
        wdogBase := fl.arrive } (coreOf t (me s)) := by
  have arrival := ownStep_noteTrigger ((dstId (.resync m)).getD 0 / 64) fl s
  have raises := noteTrigger_raises ((dstId (.resync m)).getD 0 / 64) (myCore s) fl
  rw [noteTrigger_noted] at raises
  have hx := (exec_resync m s).trans (trigger_arrival _ _ _ _ _ h)
  generalize (modMe s fun c => noteTrigger ((dstId (.resync m)).getD 0 / 64) c fl) = u at *
  generalize noteTrigger ((dstId (.resync m)).getD 0 / 64) (myCore s) fl = d at *
  have change := arrival.trans (ownStep_modMe u (ctResync fl))
  have waits := change.trans (ownStep_postDeed (modMe u (ctResync fl)) fl.arrive phAdvance .interval)
  rw [change.ownJob_eq (by rw [arrival.myCore_eq]; rfl), myCore_modMe, arrival.myCore_eq, me_modMe] at waits
  rw [arrival.me_eq] at hx waits
  generalize postDeed (modMe u (ctResync fl)) (me s) fl.arrive phAdvance .interval = v at *
  obtain ⟨hcores, hhub, hagenda, hgangs⟩ := resyncArrive_spec v (me s) fl.arrive
  have hgang : (coreOf v (me s)).gang = (myCore s).gang := by rw [waits.core]; rfl
  have hcore (k : Nat) : coreOf (resyncArrive v (me s) fl.arrive) k = coreOf v k := by rw [coreOf, hcores, coreOf]
  refine ⟨_, hx, ?_, ?_, fun k hk => (hcore k).trans (waits.others k hk), hhub.trans waits.hub, ?_, ?_⟩
  · rw [hagenda, hgang, waits.agenda]; simp
  · rw [hgangs, hgang, waits.gangs, gangOf, waits.gangs]; rfl
  · rw [hcore, waits.core]; exact raises
  · rw [hcore, waits.core]; rfl

/-! The cycle at which the waiting cores go on. -/

theorem resyncCycle_spec {x : Gang} (l : Nat) (h : 0 < x.framelen) :
    x.framelen ∣ resyncCycle x l ∧ l + x.h ≤ resyncCycle x l ∧
      ∀ R, x.framelen ∣ R → l + x.h ≤ R → resyncCycle x l ≤ R := by
  have hdiv := Nat.div_add_mod (l + x.h + x.framelen - 1) x.framelen
  have hmod := Nat.mod_lt (l + x.h + x.framelen - 1) h
  rw [Nat.mul_comm] at hdiv
  refine ⟨Nat.dvd_mul_left .., by rw [resyncCycle]; omega, fun R ⟨q, hq⟩ hR => ?_⟩
  rw [hq, Nat.mul_comm x.framelen, resyncCycle]
  refine Nat.mul_le_mul_right _ (Nat.le_of_lt_succ ((Nat.div_lt_iff_lt_mul h).mpr ?_))
  rw [Nat.succ_mul, Nat.mul_comm]
  omega

/-! The barrier completes. -/

/-- The change of a core that waits for the others. -/
def resumeAt (R : Nat) (c : Core) : Core :=
  if c.waits.resync = some none then { c with waits := { c.waits with resync := some (some R) } } else c

/-- The state in which every waiting core of the gang knows its cycle and the arrivals are forgotten. -/
def resyncTold (s : State) (g l : Nat) : State :=
  setGang ((gangCores s g).foldl (fun t k => modCore t k (resumeAt (resyncCycle (gangOf s g) l))) s) g
    { gangOf s g with arrived := [], latest := 0, children := [], forwarded := false }

/-- Completion tells every waiting core of the gang its cycle and forgets the arrivals; then it goes down the tree. -/
theorem resyncComplete_eq (s : State) (g l : Nat) :
    ∃ v, Beside (resyncTold s g l) v ∧
      resyncComplete s g l = postGang v g (resyncCycle (gangOf s g) l) phDone (.resyncResume g) :=
  ⟨_, Beside.foldl (fun s m => beside_leekSend s g m (.resyncFrame g (chipOf s) 0 l)) (treeChildren (resyncTold s g l) g) _, rfl⟩

theorem resyncComplete_spec {s : State} {g : Nat} (l : Nat) (hc : canonical s) (hg : g ≠ noGang) :
    let t := resyncComplete s g l
    ⟨.gang g, resyncCycle (gangOf s g) l, phDone, none, .event (.resyncResume g)⟩ ∈ t.agenda ∧ (gangOf t g).arrived = [] ∧
      ∀ j, coreOf t j = if (coreOf s j).gang = g ∧ (coreOf s j).waits.resync = some none then
        { coreOf s j with waits := { (coreOf s j).waits with resync := some (some (resyncCycle (gangOf s g) l)) } }
        else coreOf s j := by
  obtain ⟨v, tree, heq⟩ := resyncComplete_eq s g l
  rw [heq]
  refine ⟨List.mem_append_right _ (List.mem_singleton_self _), ?_, fun j => ?_⟩
  · rw [gangOf_postGang, tree.gangOf, resyncTold, gangOf_setGang_self]
  · rw [coreOf_postGang, tree.coreOf, resyncTold, coreOf_setGang, coreOf_foldl_gangCores (resumeAt _) hc hg, resumeAt]
    split_ifs <;> simp_all

/-- A gang of this package alone has no tree. -/
theorem alone_in_tree {s : State} {g : Nat} (h : (gangOf s g).members = []) :
    treeParent (fabOf s) (gangOf s g).members (chipOf s) = none ∧ treeChildren s g = [] := by
  rw [treeChildren, h]
  exact ⟨if_pos rfl, rfl⟩

theorem le_foldl_counts (cs : List (Nat × Nat × Nat)) (n : Nat) : n ≤ cs.foldl (fun n c => n + c.2.1) n := by
  induction cs generalizing n with
  | nil => exact Nat.le_refl n
  | cons c cs ih => exact (Nat.le_add_right ..).trans (ih _)

/-- When every party of a gang of this package alone has arrived, the check completes the barrier. -/
theorem resyncCheck_completes {s : State} {g : Nat} (hc : canonical s) (hg : g ≠ noGang) (halone : (gangOf s g).members = [])
    (hsome : (gangOf s g).arrived ≠ [])
    (hall : ∀ j, (coreOf s j).gang = g → (coreOf s j).running = true → j ∈ (gangOf s g).arrived) :
    resyncCheck s g = resyncComplete s g
      (((gangOf s g).children.map (·.2.2) ++ (gangOf s g).idleKids.map (·.2)).foldl max (gangOf s g).latest) := by
  obtain ⟨hparent, hkids⟩ := alone_in_tree halone
  have harrived : ((parties s g).all fun k => (gangOf s g).arrived.contains k) = true := by
    rw [List.all_eq_true]
    intro k hk
    obtain ⟨h1, h2⟩ := (mem_parties hc hg).mp hk
    exact List.contains_iff_mem.mpr (hall k h1 h2)
  have hcount : (gangOf s g).children.foldl (fun n c => n + c.2.1) (gangOf s g).arrived.length ≠ 0 :=
    Nat.ne_of_gt ((List.length_pos_iff.mpr hsome).trans_le (le_foldl_counts ..))
  simp only [resyncCheck, hparent, harrived, hkids, List.all_nil, true_and]
  exact if_pos hcount

/-- While a party is missing, the check does nothing. -/
theorem resyncCheck_waits {s : State} {g j : Nat} (hc : canonical s) (hg : g ≠ noGang) (hj : (coreOf s j).gang = g)
    (hrun : (coreOf s j).running = true) (hmiss : j ∉ (gangOf s g).arrived) : resyncCheck s g = s := by
  have hparty := (mem_parties hc hg).mpr ⟨hj, hrun⟩
  have hall : ((parties s g).all fun k => (gangOf s g).arrived.contains k) = false := by
    rw [List.all_eq_false]
    exact ⟨j, hparty, by simpa using hmiss⟩
  have hbusy : (parties s g).isEmpty = false := by
    rw [List.isEmpty_eq_false_iff]
    exact List.ne_nil_of_mem hparty
  simp only [resyncCheck, hall, hbusy, Bool.false_and, Bool.false_eq_true, if_false, false_and]
  split <;> rfl

/-! The parties go on. -/

/-- The change of a core that goes on. -/
def resumed (c : Core) : Core := { c with waits := { c.waits with resync := none } }

/-- The cores that go on in the gang's current cycle. -/
def resuming (s : State) (g : Nat) : List Nat :=
  (gangCores s g).filter fun k => decide ((coreOf s k).waits.resync = some (some (gangOf s g).gcyc))

theorem mem_resuming {s : State} {g k : Nat} (hc : canonical s) (hg : g ≠ noGang) :
    k ∈ resuming s g ↔ (coreOf s k).gang = g ∧ (coreOf s k).waits.resync = some (some (gangOf s g).gcyc) := by
  rw [resuming, List.mem_filter, mem_gangCores hc hg, decide_eq_true_eq]

theorem nodup_eraseDups (xs : List Nat) : xs.eraseDups.Nodup := by
  induction hn : xs.length using Nat.strong_induction_on generalizing xs with
  | _ n ih =>
    cases xs with
    | nil => simp
    | cons x xs =>
      rw [List.eraseDups_cons]
      refine List.nodup_cons.mpr ⟨by simp, ih _ ?_ _ rfl⟩
      rw [← hn]
      exact Nat.lt_succ_of_le (List.length_filter_le ..)

theorem resyncResume_spec {s : State} {g : Nat} (hc : canonical s) (hg : g ≠ noGang) :
    let back := fun j => (coreOf s j).gang = g ∧ (coreOf s j).waits.resync = some (some (gangOf s g).gcyc)
    ∃ t dies, exec (.resyncResume g) s = .next t ∧ t.hub = s.hub ∧ t.gangs = s.gangs ∧
      t.agenda = s.agenda ++ [⟨.gang g, (gangOf s g).gcyc, phAdvance, none, .deed (.gangIntervals g dies true true)⟩] ∧
      dies.Nodup ∧ (∀ d, d ∈ dies ↔ ∃ j, back j ∧ j / 128 = d) ∧
      ∀ j, (back j → coreOf t j = { coreOf s j with waits := { (coreOf s j).waits with resync := none } }) ∧
        (¬back j → coreOf t j = coreOf s j) := by
  intro back
  have only := coresOnly_foldl_modCore resumed (resuming s g) s
  have hcore := fun j => coreOf_foldl_modCore resumed (resuming s g) s j ((nodup_gangCores g hc).filter _)
  refine ⟨postGangDeed ((resuming s g).foldl (fun s k => modCore s k resumed) s) g (gangOf s g).gcyc phAdvance
    (.gangIntervals g (((resuming s g).map (· / 128)).eraseDups) true true), ((resuming s g).map (· / 128)).eraseDups, rfl,
    only.hub, only.gangs, ?_, nodup_eraseDups _, fun d => ?_, fun j => ⟨fun hj => ?_, fun hj => ?_⟩⟩
  · show _ ++ _ = _
    rw [only.agenda]
  · simp only [List.mem_eraseDups, List.mem_map, mem_resuming hc hg, back]
  · exact (hcore j).trans (if_pos ((mem_resuming hc hg).mpr hj))
  · exact (hcore j).trans (if_neg fun h => hj ((mem_resuming hc hg).mp h))

/-! The interval counters. -/

theorem tget_foldl_tmod (ds : List Nat) (t : Table (BitVec 8)) (d : Nat) (hds : ds.Nodup) :
    tget (0 : BitVec 8) (ds.foldl (fun t d => tmod 0 t d (· + 1)) t) d = if d ∈ ds then tget 0 t d + 1 else tget 0 t d := by
  induction ds generalizing t with
  | nil => simp
  | cons e ds ih =>
    obtain ⟨he, hds⟩ := List.nodup_cons.mp hds
    rw [List.foldl_cons, ih _ hds, tmod, tget_tset]
    by_cases hd : d = e
    · subst hd; simp [he]
    · simp [hd]

/-! The frames of the tree. -/

/-- The root's word goes down the tree. -/
theorem beside_tellComplete (s : State) (g : Nat) : Beside s (tellComplete s g) :=
  Beside.foldl (fun s m => beside_leekSend s g m (.resyncFrame g (chipOf s) 1 0)) _ s

theorem resyncFrame_of_parent {s : State} {g chip latest : Nat} (h : chip ∉ treeChildren s g) :
    exec (.resyncFrame g chip 0 latest) s = .next (resyncComplete s g latest) := by
  have hno : (treeChildren s g).contains chip = false := by simpa using h
  rw [exec_resyncFrame, execResyncFrame, hno]
  rfl

theorem resyncFrame_of_run {s : State} {g chip count latest : Nat} (h : chip ∉ treeChildren s g) (hn : count ≠ 0) :
    exec (.resyncFrame g chip count latest) s = .next (tellComplete (modGang s g fun x => { x with complete := true }) g) := by
  have hno : (treeChildren s g).contains chip = false := by simpa using h
  rw [exec_resyncFrame, execResyncFrame, hno, if_neg (by decide), if_neg hn]

/-- What a child's frame changes of its gang. -/
def childFrame (chip count latest : Nat) (x : Gang) : Gang :=
  if count = 0 then
    (if x.idleKids.any fun c => c.1 = chip then { x with overKids := x.overKids ++ [chip] }
     else { x with idleKids := x.idleKids ++ [(chip, latest)] })
  else { x with children := x.children ++ [(chip, count, latest)] }

theorem resyncFrame_of_child {s : State} {g chip : Nat} (count latest : Nat) (h : chip ∈ treeChildren s g) :
    exec (.resyncFrame g chip count latest) s = .next (resyncCheck (modGang s g (childFrame chip count latest)) g) := by
  have hyes : (treeChildren s g).contains chip = true := by simpa using h
  rw [exec_resyncFrame, execResyncFrame, if_pos hyes]
  rfl

theorem childFrame_arrived (chip count latest : Nat) (x : Gang) : (childFrame chip count latest x).arrived = x.arrived := by
  unfold childFrame
  split_ifs <;> rfl

theorem canonical_modGang {s : State} (g : Nat) (f : Gang → Gang) (hc : canonical s) : canonical (modGang s g f) :=
  ⟨hc.1, twf_tset _ _ hc.2⟩

/-- A child's frame, while a party of this member is missing, is noted and no more. -/
theorem resyncFrame_noted {s : State} {g chip j : Nat} (count latest : Nat) (hc : canonical s) (hg : g ≠ noGang)
    (h : chip ∈ treeChildren s g) (hj : (coreOf s j).gang = g) (hrun : (coreOf s j).running = true)
    (hmiss : j ∉ (gangOf s g).arrived) :
    exec (.resyncFrame g chip count latest) s = .next (modGang s g (childFrame chip count latest)) := by
  rw [resyncFrame_of_child count latest h, resyncCheck_waits (canonical_modGang g _ hc) hg hj hrun]
  rw [gangOf_modGang_self, childFrame_arrived]
  exact hmiss

/-- Settles O25: the check completes the barrier with its last party, at the least multiple of FRAMELEN that the rule allows, and
the frames of the tree act the same. -/
theorem resyncCompletesWithAllParties : Obligations.ResyncCompletesWithAllParties := by
  unfold Obligations.ResyncCompletesWithAllParties
  refine ⟨fun s fl m h => resync_arrives m h, fun s k => rfl, ?check, fun s g hc hg => resyncResume_spec hc hg, ?intervals,
    fun s g chip count latest hc hg => ⟨?parent, ?run, ?child⟩⟩
  case check =>
    intro s t g k R hc hg x l hpos hdvd hge hleast halone hsome hall ht
    obtain ⟨h1, h2, h3⟩ := resyncCycle_spec l hpos
    have hR : resyncCycle x l = R := Nat.le_antisymm (h3 R hdvd hge) (hleast _ h1 h2)
    have hcheck : t = resyncComplete s g l := ht.trans (resyncCheck_completes hc hg halone hsome hall)
    have complete := resyncComplete_spec l hc hg
    rw [hcheck, ← hR]
    exact complete
  case intervals =>
    intro s k g dies pkg gng hd x t
    have hgang : gangOf t g = _ := gangOf_modGang_self ..
    refine ⟨rfl, rfl, fun n hn => gangOf_modGang_ne _ _ hn, by rw [hgang], by rw [hgang], fun d => ?_⟩
    rw [hgang]
    exact tget_foldl_tmod dies _ d hd
  case parent =>
    rintro h rfl
    exact ⟨_, resyncFrame_of_parent h, (resyncComplete_spec latest hc hg).2.2⟩
  case run =>
    intro h hn
    have told := beside_tellComplete (modGang s g fun x => { x with complete := true }) g
    exact ⟨_, resyncFrame_of_run h hn, told.cores, by rw [told.gangOf, gangOf_modGang_self]⟩
  case child =>
    rintro h ⟨j, hj, hrun, hmiss⟩
    refine ⟨_, resyncFrame_noted count latest hc hg h hj hrun hmiss, rfl, rfl, fun hn => ?_, fun hn hnew => ?_, fun hn hold => ?_⟩
    · rw [gangOf_modGang_self, childFrame, if_neg hn]
    · rw [gangOf_modGang_self, childFrame, if_pos hn, if_neg (by simpa using fun b h => hnew (chip, b) h rfl)]
    · rw [gangOf_modGang_self, childFrame, if_pos hn, if_pos (by simpa using hold)]

/-! The system unit's triggers complete for every operand (R195, R196, R412, R437). -/

/-- What a step of the running core that changes its notes alone leaves of every scratch. -/
theorem OwnStep.scratchSame {s t : State} {c : Core} {js : List Job} (h : OwnStep s t c js)
    (hc : c.scratch = (myCore s).scratch) : ScratchSame s t := by
  intro j b
  by_cases hj : j = me s
  · subst hj; rw [h.core, hc]; rfl
  · rw [h.others j hj]

/-- A trigger that completes with its own core as it was leaves the other cores, the hub and every scratch. -/
theorem answers_of_completes {i : Instr} {s : State} {js : List Job} (h : Completes i s (myCore s) js) :
    ∃ t, exec i s = .next t ∧ t.agenda = s.agenda ++ js ∧ (∀ k, k ≠ me s → coreOf t k = coreOf s k) ∧ t.hub = s.hub ∧
      ScratchSame s t := by
  obtain ⟨t, hx, own, -⟩ := h
  exact ⟨t, hx, own.agenda, own.others, own.hub, own.scratchSame rfl⟩

theorem trap_answers {s : State} {fl : Flight} (m : Mv) (h : s.cur.flight = some fl) :
    ∃ t, exec (.trap m) s = .next t ∧ t.agenda = s.agenda ++ [] ∧ (∀ k, k ≠ me s → coreOf t k = coreOf s k) ∧ t.hub = s.hub ∧
      ScratchSame s t := by
  have arrival := ownStep_noteTrigger ((dstId (.trap m)).getD 0 / 64) fl s
  have whole := arrival.trans (ownStep_modMe (modMe s fun c => noteTrigger ((dstId (.trap m)).getD 0 / 64) c fl)
    fun c => raiseFor c fl [] 0x1E (scalarIn .z fl.val) 0 0)
  refine ⟨_, (exec_trap m s).trans (trigger_arrival _ _ _ _ _ h), whole.agenda, whole.others, whole.hub, whole.scratchSame ?_⟩
  rw [arrival.myCore_eq, raiseFor_spec]
  rfl

/-- Settles O60: every trigger answers, and so do the steps that follow it. -/
theorem systemStepsComplete : Obligations.SystemStepsComplete := by
  unfold Obligations.SystemStepsComplete
  refine ⟨fun s fl m h => ?triggers, fun s k scope => ?fence, fun s k p v f => ?result, fun s g hc hg => ?resume,
    fun s g chip count latest hc hg => ?frame⟩
  case triggers =>
    obtain ⟨t, hx, hagenda, hgangs, hothers, hhub, -, hcore⟩ := resync_arrives m h
    refine ⟨trap_answers m h, fun hlive u hu => ?trap, answers_of_completes (wpt_completes s fl m h),
      answers_of_completes (intv_completes s fl m h), answers_of_completes (fence_completes s fl m h),
      ⟨t, hx, hagenda, hothers, hhub, fun j b => ?scratch⟩, fun u hu => ?waits⟩
    case trap =>
      obtain ⟨v, hv, -, -, r, hr, hcode, -, -, ha⟩ := trap_raises s fl m h hlive
      cases hv.symm.trans hu
      exact ⟨r, hr, hcode, ha⟩
    case scratch =>
      by_cases hj : j = me s
      · subst hj; rw [hcore]; rfl
      · rw [hothers j hj]
    case waits =>
      cases hx.symm.trans hu
      refine ⟨by rw [hcore]; rfl, by rw [hcore]; rfl, ?_⟩
      rw [gangOf, hgangs, tget_tset_self]
      exact List.mem_append_right _ (List.mem_singleton_self _)
  case fence =>
    obtain ⟨t, hx, hcores, -, -, hagenda⟩ := fencePerform_completes s k scope
    exact ⟨t, hx, hcores, by rw [hagenda]; exact List.mem_append_right _ (List.mem_singleton_self _)⟩
  case result =>
    obtain ⟨t, hx, -, -, -, hcore⟩ := operationComplete_completes s k p v f
    refine ⟨t, hx, by rw [hcore]; exact congrArg (· ||| f) (setResult_flags ..), ?_⟩
    rw [hcore]
    split
    case isTrue hp => exact vresOf_setResult_self _ p v hp
    case isFalse hp => exact resultOf_setResult_self _ p v (Bool.not_eq_true _ ▸ hp)
  case resume =>
    obtain ⟨t, dies, hx, -, -, -, -, -, hcore⟩ := resyncResume_spec hc hg
    exact ⟨t, hx, fun k hk hw => by rw [(hcore k).1 ⟨hk, hw⟩]⟩
  case frame =>
    by_cases hchild : chip ∈ treeChildren s g
    · exact ⟨_, resyncFrame_of_child count latest hchild, fun h => absurd hchild h⟩
    · by_cases hn : count = 0
      · subst hn
        obtain ⟨-, -, hcore⟩ := resyncComplete_spec latest hc hg
        refine ⟨_, resyncFrame_of_parent hchild, fun _ _ k hk hw => ⟨resyncCycle (gangOf s g) latest, ?_, ?_, fun hpos => ?_⟩⟩
        · rw [hcore, if_pos ⟨hk, hw⟩]
        · exact Nat.dvd_mul_left ..
        · exact (resyncCycle_spec latest hpos).2.1
      · exact ⟨_, resyncFrame_of_run hchild hn, fun _ h => absurd h hn⟩

end Sys2Proof.Machine
end

section
/-! PROOF. Transfers of control and the link stack (R148 to R154, R351, R352, R402). -/

namespace Sys2Proof.Machine

/-! Triggers that change their own core alone. -/

/-- A trigger whose effect is a change of its own core: the change of the core as the notes of the arrival left it. -/
theorem control_arrives {i : Instr} {m : Mv} {s : State} {fl : Flight} {f : Flight → Core → Core} (h : s.cur.flight = some fl)
    (hx : exec i s = trigger i m s fun fl s => modMe s (f fl)) :
    ∃ t x, exec i s = .next t ∧ OwnStep s t (f fl x) [] ∧ x = noted (myCore s) x ∧ RaisesOnly [4] (myCore s) x := by
  have arrival := ownStep_noteTrigger ((dstId i).getD 0 / 64) fl s
  have raises := noteTrigger_raises ((dstId i).getD 0 / 64) (myCore s) fl
  rw [noteTrigger_noted] at raises
  have whole := arrival.trans (ownStep_modMe (modMe s fun c => noteTrigger ((dstId i).getD 0 / 64) c fl) (f fl))
  rw [arrival.myCore_eq] at whole
  exact ⟨_, _, hx.trans (trigger_arrival _ _ _ _ _ h), whole, rfl, raises⟩

/-- A step whose core is `c` but for its notes completes. -/
theorem completes_of_own {i : Instr} {s t : State} {c x : Core} {js : List Job} (hx : exec i s = .next t)
    (own : OwnStep s t x js) (hn : x = noted c x) (raises : RaisesOnly [4] (myCore s) x) : Completes i s c js := by
  rw [hn] at own
  refine ⟨t, hx, own.noted, ?_⟩
  rw [own.core, ← hn]
  exact raises

/-- Work of its own core, scheduled after a step of its own. -/
theorem OwnStep.thenCore {s t : State} {c : Core} {js : List Job} (h : OwnStep s t c js) (hg : c.gang = (myCore s).gang)
    (due ph : Nat) (x : Task) : OwnStep s (postCore t (me t) due ph x) c (js ++ [ownJob s due ph x]) := by
  have whole := h.trans (ownStep_postCore t due ph x)
  rw [h.myCore_eq, h.ownJob_eq hg] at whole
  exact whole

theorem OwnStep.thenDeed {s t : State} {c : Core} {js : List Job} (h : OwnStep s t c js) (hg : c.gang = (myCore s).gang)
    (due ph : Nat) (d : Deed) : OwnStep s (postDeed t (me t) due ph d) c (js ++ [ownJob s due ph (.deed d)]) :=
  h.thenCore hg due ph (.deed d)

theorem OwnStep.thenMod {s t : State} {c : Core} {js : List Job} (h : OwnStep s t c js) (f : Core → Core) :
    OwnStep s (modMe t f) (f c) js := by
  have whole := h.trans (ownStep_modMe t f)
  rw [h.myCore_eq, List.append_nil] at whole
  exact whole

/-! The levels that a transfer ends are all that it changes of the loop engine (R159). -/

/-- `c` with `d`'s loop levels, pending starts and waits. -/
def levelled (c d : Core) : Core := { c with loops := d.loops, starts := d.starts, waits := d.waits }

theorem clearLevel_levelled (c : Core) (m : Nat) : clearLevel c m = levelled c (clearLevel c m) := rfl

theorem endWhere_levelled (c : Core) (p : Loop → Bool) : endWhere c p = levelled c (endWhere c p) := by
  have step (c d : Core) (m : Nat) (h : d = levelled c d) :
      (if (loopOf d m).active && p (loopOf d m) then clearLevel d m else d) =
        levelled c (if (loopOf d m).active && p (loopOf d m) then clearLevel d m else d) := by
    split
    · rw [h]; rfl
    · exact h
  exact step c _ 3 (step c _ 2 (step c _ 1 (step c c 0 rfl)))

theorem endFrom_levelled (c : Core) (n : Nat) : endFrom c n = levelled c (endFrom c n) := by
  unfold endFrom
  exact endWhere_levelled ..

theorem endOutside_levelled (c : Core) (target : Nat) : endOutside c target = levelled c (endOutside c target) := by
  unfold endOutside
  dsimp only
  split
  · rfl
  · exact endFrom_levelled ..

theorem endDeeper_levelled (c : Core) (depth : Nat) : endDeeper c depth = levelled c (endDeeper c depth) := by
  unfold endDeeper
  exact endWhere_levelled ..

/-- A transfer to an entry whose bundles could be fetched: the next bundle and the buffered ones. -/
theorem transferTo_spec {c : Core} (fl : Flight) {n : Nat} (ends : Bool) (hlt : (targetOf c n).addr.toNat < 16384)
    (hgood : (targetOf c n).bad = false) :
    ∃ d, transferTo c fl n ends = { levelled c d with
      pc := (targetOf c n).addr.toNat
      buffered := [((targetOf c n).addr.toNat, (targetOf c n).buf0), ((targetOf c n).addr.toNat + 1, (targetOf c n).buf1)] } := by
  have hno : ¬(16384 ≤ (targetOf c n).addr.toNat ∨ (targetOf c n).bad = true) := by
    rw [hgood]; simpa using hlt
  refine ⟨if ends then endOutside c (targetOf c n).addr.toNat else c, ?_⟩
  simp only [transferTo, if_neg hno]
  cases ends with
  | true =>
    simp only [if_true]
    rw [endOutside_levelled]
    rfl
  | false => rfl

/-! What the rows of `exec` for control are. -/

theorem exec_brp (m : Mv) (s : State) : exec (.brp m) s = execBrp m s := rfl
theorem exec_br (m : Mv) (s : State) : exec (.br m) s = trigger (.br m) m s fun fl s => modMe s (ctBr fl) := rfl
theorem exec_brt (m : Mv) (s : State) : exec (.brt m) s = trigger (.brt m) m s fun fl s => modMe s (ctBrt fl) := rfl
theorem exec_call (m : Mv) (s : State) :
    exec (.call m) s = trigger (.call m) m s fun fl s => postLinkReads (modMe s (ctCall fl)) (me s) fl.arrive := rfl
theorem exec_ret (m : Mv) (s : State) :
    exec (.ret m) s = trigger (.ret m) m s fun fl s => postLinkReads (modMe s (ctRet fl)) (me s) fl.arrive := rfl

/-! The reads of the entry that has become top (R154). -/

/-- What a change of the link stack reads ahead. -/
def linkReads (s : State) (a : Nat) (links : List Link) : List Job :=
  match links with
  | l :: _ => if l.since = a then [ownJob s (a + 1) phRead (.deed (.linkRead a false)),
      ownJob s (a + 2) phRead (.deed (.linkRead a true))] else []
  | [] => []

theorem ownStep_postLinkReads (s : State) (a : Nat) :
    OwnStep s (postLinkReads s (me s) a) (myCore s) (linkReads s a (myCore s).links) := by
  have twice := (ownStep_postDeed s (a + 1) phRead (.linkRead a false)).trans
    (ownStep_postDeed (postDeed s (me s) (a + 1) phRead (.linkRead a false)) (a + 2) phRead (.linkRead a true))
  unfold postLinkReads linkReads
  rw [← myCore]
  cases (myCore s).links with
  | nil => exact ⟨rfl, fun _ _ => rfl, (List.append_nil _).symm, rfl, rfl, rfl, rfl, rfl, rfl, rfl, rfl⟩
  | cons l ls =>
    dsimp only
    split
    · exact twice
    · exact ⟨rfl, fun _ _ => rfl, (List.append_nil _).symm, rfl, rfl, rfl, rfl, rfl, rfl, rfl, rfl⟩

/-- CALL and RET: the change of the core, then the reads that its link stack asks for. -/
theorem linked_arrives {i : Instr} {m : Mv} {s : State} {fl : Flight} {f : Flight → Core → Core} (h : s.cur.flight = some fl)
    (hx : exec i s = trigger i m s fun fl s => postLinkReads (modMe s (f fl)) (me s) fl.arrive)
    (hgang : ∀ c, (f fl c).gang = c.gang) :
    ∃ t x, exec i s = .next t ∧ OwnStep s t (f fl x) (linkReads s fl.arrive (f fl x).links) ∧ x = noted (myCore s) x ∧
      RaisesOnly [4] (myCore s) x := by
  have arrival := ownStep_noteTrigger ((dstId i).getD 0 / 64) fl s
  have raises := noteTrigger_raises ((dstId i).getD 0 / 64) (myCore s) fl
  rw [noteTrigger_noted] at raises
  rw [trigger_arrival _ _ _ _ _ h] at hx
  generalize (modMe s fun c => noteTrigger ((dstId i).getD 0 / 64) c fl) = u at *
  have change := arrival.thenMod (f fl)
  have whole := change.trans (ownStep_postLinkReads (modMe u (f fl)) fl.arrive)
  have hsame : (f fl (noted (myCore s) (noteTrigger ((dstId i).getD 0 / 64) (myCore s) fl))).gang = (myCore s).gang := hgang _
  have hreads (ls : List Link) : linkReads (modMe u (f fl)) fl.arrive ls = linkReads s fl.arrive ls := by
    cases ls with
    | nil => rfl
    | cons l ls => simp only [linkReads, change.ownJob_eq hsame]
  rw [hreads, myCore_modMe, arrival.myCore_eq, me_modMe] at whole
  exact ⟨_, _, hx, whole, rfl, raises⟩

/-! A check that fails leaves the control state (R150, R154). -/

theorem raiseFor_control (c : Core) (fl : Flight) (rs : List Nat) (code : Nat) (a b d : Word) :
    (raiseFor c fl rs code a b d).pc = c.pc ∧ (raiseFor c fl rs code a b d).links = c.links ∧
      (raiseFor c fl rs code a b d).gang = c.gang ∧ (raiseFor c fl rs code a b d).frozenAt = c.frozenAt := by
  rw [raiseFor_spec]
  exact ⟨rfl, rfl, rfl, rfl⟩

theorem transferTo_gang (c : Core) (fl : Flight) (n : Nat) (ends : Bool) : (transferTo c fl n ends).gang = c.gang := by
  have hends : (if ends then endOutside c (targetOf c n).addr.toNat else c).gang = c.gang := by
    split
    · rw [endOutside_levelled]; rfl
    · rfl
  unfold transferTo
  dsimp only
  split
  · rw [raiseFetch, addRaise_spec]; exact hends
  · exact hends

theorem ctCall_gang (fl : Flight) (c : Core) : (ctCall fl c).gang = c.gang := by
  unfold ctCall
  dsimp only
  split_ifs
  · rw [(raiseFor_control ..).2.2.1, (raiseFor_control ..).2.2.1]
  · rw [(raiseFor_control ..).2.2.1]
  · rw [(raiseFor_control ..).2.2.1]
  · rfl
  · rw [transferTo_gang]

theorem ctRet_gang (fl : Flight) (c : Core) : (ctRet fl c).gang = c.gang := by
  unfold ctRet
  split
  · rw [(raiseFor_control ..).2.2.1]
  · split_ifs
    · rw [(raiseFor_control ..).2.2.1]
    · rw [raiseFetch, addRaise_spec]
    · rw [goTo, endDeeper_levelled]; rfl

/-! Transfers that go through. -/

/-- A core after a transfer: where it goes on, its link stack, and what the transfer leaves. -/
def Transferred (c d : Core) (target : Nat) (bufs : List (Nat × BitVec 192)) (links : List Link) : Prop :=
  d.pc = target ∧ d.buffered = bufs ∧ d.links = links ∧ d.targets = c.targets ∧ d.scratch = c.scratch ∧ d.s = c.s ∧
    d.v = c.v ∧ d.k = c.k ∧ d.p = c.p ∧ d.ports = c.ports ∧ RaisesOnly [4] c d

theorem transferred_goTo {c x : Core} (hx : x = noted c x) (raises : RaisesOnly [4] c x) (d : Core) (links : List Link)
    (target : Nat) (bufs : List (Nat × BitVec 192)) :
    Transferred c { levelled { x with links := links } d with pc := target, buffered := bufs } target bufs links := by
  refine ⟨rfl, rfl, rfl, ?_, ?_, ?_, ?_, ?_, ?_, ?_, raises⟩
  all_goals rw [hx]; rfl

theorem transferred_entry {c x : Core} (hx : x = noted c x) (raises : RaisesOnly [4] c x) (fl : Flight) (n : Nat) (ends : Bool)
    (links : List Link) (hlt : (targetOf c n).addr.toNat < 16384) (hgood : (targetOf c n).bad = false) :
    Transferred c (transferTo { x with links := links } fl n ends) (targetOf c n).addr.toNat
      [((targetOf c n).addr.toNat, (targetOf c n).buf0), ((targetOf c n).addr.toNat + 1, (targetOf c n).buf1)] links := by
  have hentry : targetOf { x with links := links } n = targetOf c n := by rw [hx]; rfl
  obtain ⟨d, hd⟩ := transferTo_spec (c := { x with links := links }) (n := n) fl ends (by rw [hentry]; exact hlt)
    (by rw [hentry]; exact hgood)
  rw [hd, hentry]
  exact transferred_goTo hx raises d links _ _

theorem sincePrep_noted {c x : Core} (hx : x = noted c x) (n a : Nat) : sincePrep x n a = (a : Int) - (targetOf c n).prep := by
  rw [hx]; rfl

/-- A step that changes its own core alone, and transfers it. -/
def Goes (i : Instr) (s : State) (target : Nat) (bufs : List (Nat × BitVec 192)) (links : List Link) (js : List Job) : Prop :=
  ∃ t, exec i s = .next t ∧ t.agenda = s.agenda ++ js ∧ t.gangs = s.gangs ∧ (∀ k, k ≠ me s → coreOf t k = coreOf s k) ∧
    Transferred (myCore s) (coreOf t (me s)) target bufs links

/-! Transfers that are refused (R150, R154). -/

/-- A step that leaves the control state and raises a fault. -/
def Refused (i : Instr) (s : State) (code : Nat) (a b : Word) : Prop :=
  ∃ t, exec i s = .next t ∧ (coreOf t (me s)).pc = (myCore s).pc ∧ (coreOf t (me s)).links = (myCore s).links ∧
    ∃ r ∈ (coreOf t (me s)).raised, r.code = code ∧ r.a = a ∧ r.b = b

/-- A raise of its own move, after which more may be raised. -/
theorem refused_of {i : Instr} {s t : State} {x y : Core} {code : Nat} {a b : Word} {js : List Job} (hx : exec i s = .next t)
    (own : OwnStep s t y js) (hnoted : x = noted (myCore s) x) (hctl : y.pc = x.pc ∧ y.links = x.links)
    (hr : ∃ r ∈ y.raised, r.code = code ∧ r.a = a ∧ r.b = b) : Refused i s code a b := by
  refine ⟨t, hx, ?_, ?_, by rw [own.core]; exact hr⟩
  · rw [own.core, hctl.1, hnoted]; rfl
  · rw [own.core, hctl.2, hnoted]; rfl

theorem raiseFor_mem {c : Core} (fl : Flight) (code : Nat) (a b d : Word) (hlive : c.frozenAt = none) :
    ∃ r ∈ (raiseFor c fl [] code a b d).raised, r.code = code ∧ r.a = a ∧ r.b = b :=
  ⟨_, raiseFor_charges_own_move c fl code a b d hlive, rfl, rfl, rfl⟩

/-- A later raise keeps the earlier ones. -/
theorem raiseFor_keeps {c : Core} (fl : Flight) (rs : List Nat) (code : Nat) (a b d : Word) {r : Raise} (hr : r ∈ c.raised)
    (hlive : c.frozenAt = none) : r ∈ (raiseFor c fl rs code a b d).raised := by
  rw [raiseFor, addRaise_live _ _ hlive]
  exact List.mem_append_left _ hr

/-- The core that has raised branch-too-soon for the entry that the trigger names. -/
def tooSoon (c : Core) (fl : Flight) (x : Core) : Core :=
  raiseFor x fl [] 0x0F (BitVec.ofNat 64 ((scalarIn .z fl.val).toNat % 8))
    (BitVec.ofInt 64 ((fl.arrive : Int) - (targetOf c ((scalarIn .z fl.val).toNat % 8)).prep)) 0

/-- What CALL raises of an entry prepared too lately. -/
theorem ctCall_soon {s : State} {fl : Flight} {x : Core} (hnoted : x = noted (myCore s) x)
    (hsoon : (fl.arrive : Int) - (targetOf (myCore s) ((scalarIn .z fl.val).toNat % 8)).prep < 6) :
    ctCall fl x = if 16 ≤ x.links.length then raiseFor (tooSoon (myCore s) fl x) fl [] 0x11 0 1 0
      else tooSoon (myCore s) fl x := by
  simp only [ctCall, sincePrep_noted hnoted, decide_eq_true hsoon, Bool.or_true, if_true, decide_eq_true_eq]
  rfl

section

variable {s : State} {fl : Flight} (m : Mv) (h : s.cur.flight = some fl)
include h

theorem brp_completes :
    Completes (.brp m) s { myCore s with
        targets := tset {} (myCore s).targets ((scalarIn .z fl.val).toNat % 8) ⟨(portOf (myCore s) 1).setWidth 32, fl.arrive, 0, 0, false⟩ }
      [ownJob s (fl.arrive + 1) phRead (.deed (.prefetch (Fin.ofNat 8 (scalarIn .z fl.val).toNat) false)),
       ownJob s (fl.arrive + 2) phRead (.deed (.prefetch (Fin.ofNat 8 (scalarIn .z fl.val).toNat) true))] := by
  have hx := (exec_brp m s).trans (trigger_arrival _ _ _ _ _ h)
  have arrival := ownStep_noteTrigger ((dstId (.brp m)).getD 0 / 64) fl s
  have raises := noteTrigger_raises ((dstId (.brp m)).getD 0 / 64) (myCore s) fl
  rw [noteTrigger_noted] at raises
  generalize (modMe s fun c => noteTrigger ((dstId (.brp m)).getD 0 / 64) c fl) = u at *
  have whole := ((arrival.thenMod (ctBrp fl)).thenDeed rfl (fl.arrive + 1) phRead
    (.prefetch (Fin.ofNat 8 (scalarIn .z fl.val).toNat) false)).thenDeed rfl (fl.arrive + 2) phRead
      (.prefetch (Fin.ofNat 8 (scalarIn .z fl.val).toNat) true)
  exact completes_of_own hx whole rfl raises

variable {n : Nat} (hready : 6 ≤ (fl.arrive : Int) - (targetOf (myCore s) n).prep)
  (hlt : (targetOf (myCore s) n).addr.toNat < 16384) (hgood : (targetOf (myCore s) n).bad = false)

section
include hready hlt hgood

theorem br_goes (hn : n = (scalarIn .z fl.val).toNat % 8) :
    Goes (.br m) s (targetOf (myCore s) n).addr.toNat [((targetOf (myCore s) n).addr.toNat, (targetOf (myCore s) n).buf0),
      ((targetOf (myCore s) n).addr.toNat + 1, (targetOf (myCore s) n).buf1)] (myCore s).links [] := by
  obtain ⟨t, x, hx, own, hnoted, raises⟩ := control_arrives h (exec_br m s)
  have hgo : ctBr fl x = transferTo x fl n true := by
    rw [hn, ctBr, sincePrep_noted hnoted]
    exact if_neg (by rw [← hn]; omega)
  refine ⟨t, hx, own.agenda, own.gangs, own.others, ?_⟩
  rw [own.core, hgo, show (myCore s).links = x.links by rw [hnoted]; rfl]
  exact transferred_entry hnoted raises fl n true x.links hlt hgood

theorem brt_goes (hn : n = ((scalarIn .z fl.val).toNat % 8 + brtSelect (myCore s) (portOf (myCore s) 1)) % 8) :
    Goes (.brt m) s (targetOf (myCore s) n).addr.toNat [((targetOf (myCore s) n).addr.toNat, (targetOf (myCore s) n).buf0),
      ((targetOf (myCore s) n).addr.toNat + 1, (targetOf (myCore s) n).buf1)] (myCore s).links [] := by
  obtain ⟨t, x, hx, own, hnoted, raises⟩ := control_arrives h (exec_brt m s)
  have hselect : brtSelect x (portOf x 1) = brtSelect (myCore s) (portOf (myCore s) 1) := by rw [hnoted]; rfl
  have hgo : ctBrt fl x = transferTo x fl n true := by
    rw [ctBrt, hselect, ← hn, sincePrep_noted hnoted]
    exact if_neg (by omega)
  refine ⟨t, hx, own.agenda, own.gangs, own.others, ?_⟩
  rw [own.core, hgo, show (myCore s).links = x.links by rw [hnoted]; rfl]
  exact transferred_entry hnoted raises fl n true x.links hlt hgood

theorem call_goes (hn : n = (scalarIn .z fl.val).toNat % 8) (hroom : (myCore s).links.length < 16) :
    Goes (.call m) s (targetOf (myCore s) n).addr.toNat [((targetOf (myCore s) n).addr.toNat, (targetOf (myCore s) n).buf0),
      ((targetOf (myCore s) n).addr.toNat + 1, (targetOf (myCore s) n).buf1)]
      ({ ret := (myCore s).pc, since := fl.arrive } :: (myCore s).links)
      [ownJob s (fl.arrive + 1) phRead (.deed (.linkRead fl.arrive false)),
       ownJob s (fl.arrive + 2) phRead (.deed (.linkRead fl.arrive true))] := by
  obtain ⟨t, x, hx, own, hnoted, raises⟩ := linked_arrives h (exec_call m s) (ctCall_gang fl)
  have hlinks : x.links = (myCore s).links := by rw [hnoted]; rfl
  have hpc : x.pc = (myCore s).pc := by rw [hnoted]; rfl
  have hgo : ctCall fl x = transferTo { x with links := { ret := (myCore s).pc, since := fl.arrive } :: (myCore s).links } fl n false := by
    rw [← hpc, ← hlinks, hn, ctCall, sincePrep_noted hnoted]
    have hfree : decide (16 ≤ x.links.length) = false := by rw [hlinks]; simpa using hroom
    have hsoon : decide ((fl.arrive : Int) - (targetOf (myCore s) ((scalarIn .z fl.val).toNat % 8)).prep < 6) = false := by
      rw [← hn]; simpa using hready
    simp only [hfree, hsoon, Bool.or_self, Bool.false_eq_true, if_false]
  have entry := transferred_entry hnoted raises fl n false ({ ret := (myCore s).pc, since := fl.arrive } :: (myCore s).links) hlt hgood
  rw [← hgo, ← own.core] at entry
  refine ⟨t, hx, ?_, own.gangs, own.others, entry⟩
  obtain ⟨-, -, links, -⟩ := entry
  rw [own.agenda, ← own.core, links]
  simp [linkReads]

end

/-- The link stack that a RET leaves: the entry exposed became top at the arrival. -/
def exposed (a : Nat) (rest : List Link) : List Link :=
  match rest with
  | [] => []
  | l :: ls => { ret := l.ret, since := a } :: ls

theorem ret_goes {top : Link} {rest : List Link} (hl : (myCore s).links = top :: rest) (hready : top.since + 6 ≤ fl.arrive)
    (hlt : top.ret < 16384) (hgood : top.bad = false) :
    Goes (.ret m) s top.ret [(top.ret, top.buf0), (top.ret + 1, top.buf1)] (exposed fl.arrive rest)
      (if rest = [] then [] else [ownJob s (fl.arrive + 1) phRead (.deed (.linkRead fl.arrive false)),
       ownJob s (fl.arrive + 2) phRead (.deed (.linkRead fl.arrive true))]) := by
  obtain ⟨t, x, hx, own, hnoted, raises⟩ := linked_arrives h (exec_ret m s) (ctRet_gang fl)
  have hlinks : x.links = top :: rest := by rw [hnoted]; exact hl
  have hno : ¬(16384 ≤ top.ret ∨ top.bad = true) := by rw [hgood]; simpa using hlt
  have hgo : ctRet fl x = { levelled { x with links := exposed fl.arrive rest }
      (endDeeper { x with links := exposed fl.arrive rest } rest.length) with
        pc := top.ret, buffered := [(top.ret, top.buf0), (top.ret + 1, top.buf1)] } := by
    rw [ctRet, hlinks]
    dsimp only
    rw [if_neg (by omega), if_neg hno, ← endDeeper_levelled]
    rfl
  have entry := transferred_goTo hnoted raises (endDeeper { x with links := exposed fl.arrive rest } rest.length)
    (exposed fl.arrive rest) top.ret [(top.ret, top.buf0), (top.ret + 1, top.buf1)]
  rw [← hgo, ← own.core] at entry
  refine ⟨t, hx, ?_, own.gangs, own.others, entry⟩
  obtain ⟨-, -, links, -⟩ := entry
  rw [own.agenda, ← own.core, links]
  cases rest with
  | nil => rfl
  | cons l ls => simp [linkReads, exposed]

variable (hlive : (myCore s).frozenAt = none)
include hlive

theorem br_refused (hsoon : (fl.arrive : Int) - (targetOf (myCore s) ((scalarIn .z fl.val).toNat % 8)).prep < 6) :
    Refused (.br m) s 0x0F (BitVec.ofNat 64 ((scalarIn .z fl.val).toNat % 8))
      (BitVec.ofInt 64 ((fl.arrive : Int) - (targetOf (myCore s) ((scalarIn .z fl.val).toNat % 8)).prep)) := by
  obtain ⟨t, x, hx, own, hnoted, -⟩ := control_arrives h (exec_br m s)
  have hraise : ctBr fl x = raiseFor x fl [] 0x0F (BitVec.ofNat 64 ((scalarIn .z fl.val).toNat % 8))
      (BitVec.ofInt 64 ((fl.arrive : Int) - (targetOf (myCore s) ((scalarIn .z fl.val).toNat % 8)).prep)) 0 := by
    rw [ctBr, sincePrep_noted hnoted]
    exact if_pos hsoon
  rw [hraise] at own
  exact refused_of hx own hnoted ⟨(raiseFor_control ..).1, (raiseFor_control ..).2.1⟩
    (raiseFor_mem fl _ _ _ _ (by rw [hnoted]; exact hlive))

theorem call_refused (hsoon : (fl.arrive : Int) - (targetOf (myCore s) ((scalarIn .z fl.val).toNat % 8)).prep < 6) :
    Refused (.call m) s 0x0F (BitVec.ofNat 64 ((scalarIn .z fl.val).toNat % 8))
      (BitVec.ofInt 64 ((fl.arrive : Int) - (targetOf (myCore s) ((scalarIn .z fl.val).toNat % 8)).prep)) := by
  obtain ⟨t, x, hx, own, hnoted, -⟩ := linked_arrives h (exec_call m s) (ctCall_gang fl)
  have hxlive : x.frozenAt = none := by rw [hnoted]; exact hlive
  obtain ⟨hpc, hlinks, -, hfrozen⟩ : (tooSoon (myCore s) fl x).pc = x.pc ∧ (tooSoon (myCore s) fl x).links = x.links ∧ _ :=
    raiseFor_control ..
  obtain ⟨r, hr, hcode⟩ : ∃ r ∈ (tooSoon (myCore s) fl x).raised, _ := raiseFor_mem fl _ _ _ 0 hxlive
  rw [ctCall_soon hnoted hsoon] at own
  split at own
  · exact refused_of hx own hnoted ⟨(raiseFor_control ..).1.trans hpc, (raiseFor_control ..).2.1.trans hlinks⟩
      ⟨r, raiseFor_keeps fl [] 0x11 0 1 0 hr (hfrozen.trans hxlive), hcode⟩
  · exact refused_of hx own hnoted ⟨hpc, hlinks⟩ ⟨r, hr, hcode⟩

theorem call_overflows (hfull : 16 ≤ (myCore s).links.length) : Refused (.call m) s 0x11 0 1 := by
  obtain ⟨t, x, hx, own, hnoted, -⟩ := linked_arrives h (exec_call m s) (ctCall_gang fl)
  have hxlive : x.frozenAt = none := by rw [hnoted]; exact hlive
  have hxfull : 16 ≤ x.links.length := by rw [hnoted]; exact hfull
  by_cases hsoon : (fl.arrive : Int) - (targetOf (myCore s) ((scalarIn .z fl.val).toNat % 8)).prep < 6
  · obtain ⟨hpc, hlinks, -, hfrozen⟩ : (tooSoon (myCore s) fl x).pc = x.pc ∧ (tooSoon (myCore s) fl x).links = x.links ∧ _ :=
      raiseFor_control ..
    rw [ctCall_soon hnoted hsoon, if_pos hxfull] at own
    exact refused_of hx own hnoted ⟨(raiseFor_control ..).1.trans hpc, (raiseFor_control ..).2.1.trans hlinks⟩
      (raiseFor_mem fl _ _ _ _ (hfrozen.trans hxlive))
  · have hraise : ctCall fl x = raiseFor x fl [] 0x11 0 1 0 := by
      simp only [ctCall, sincePrep_noted hnoted, decide_eq_false hsoon, decide_eq_true hxfull, Bool.true_or, if_true,
        Bool.false_eq_true, if_false]
    rw [hraise] at own
    exact refused_of hx own hnoted ⟨(raiseFor_control ..).1, (raiseFor_control ..).2.1⟩ (raiseFor_mem fl _ _ _ _ hxlive)

theorem ret_refused {top : Link} {rest : List Link} (hl : (myCore s).links = top :: rest) (hsoon : fl.arrive < top.since + 6) :
    Refused (.ret m) s 0x0F 8 (BitVec.ofInt 64 ((fl.arrive : Int) - top.since)) := by
  obtain ⟨t, x, hx, own, hnoted, -⟩ := linked_arrives h (exec_ret m s) (ctRet_gang fl)
  have hlinks : x.links = top :: rest := by rw [hnoted]; exact hl
  have hraise : ctRet fl x = raiseFor x fl [] 0x0F 8 (BitVec.ofInt 64 ((fl.arrive : Int) - top.since)) 0 := by
    rw [ctRet, hlinks]
    exact if_pos hsoon
  rw [hraise] at own
  exact refused_of hx own hnoted ⟨(raiseFor_control ..).1, (raiseFor_control ..).2.1⟩
    (raiseFor_mem fl _ _ _ _ (by rw [hnoted]; exact hlive))

theorem ret_underflows (hl : (myCore s).links = []) : Refused (.ret m) s 0x11 0 2 := by
  obtain ⟨t, x, hx, own, hnoted, -⟩ := linked_arrives h (exec_ret m s) (ctRet_gang fl)
  have hlinks : x.links = [] := by rw [hnoted]; exact hl
  have hraise : ctRet fl x = raiseFor x fl [] 0x11 0 2 0 := by rw [ctRet, hlinks]
  rw [hraise] at own
  exact refused_of hx own hnoted ⟨(raiseFor_control ..).1, (raiseFor_control ..).2.1⟩
    (raiseFor_mem fl _ _ _ _ (by rw [hnoted]; exact hlive))

end

/-- Settles O21: a transfer that passes its checks goes to its entry's bundles, and one that does not leaves the control state. -/
theorem branchesTransfer : Obligations.BranchesTransfer := by
  unfold Obligations.BranchesTransfer
  refine ⟨fun s fl m h => ?goes, fun s fl m h hlive => ?refused⟩
  case goes =>
    exact ⟨brp_completes m h, fun hready ⟨hlt, hgood⟩ => br_goes m h hready hlt hgood rfl,
      fun hready ⟨hlt, hgood⟩ => brt_goes m h hready hlt hgood rfl,
      fun hready ⟨hlt, hgood⟩ hroom => call_goes m h hready hlt hgood rfl hroom,
      fun top rest hl hready hlt hgood => ret_goes m h hl hready hlt hgood⟩
  case refused =>
    exact ⟨fun hsoon => br_refused m h hlive hsoon, fun hsoon => call_refused m h hlive hsoon,
      fun hfull => call_overflows m h hlive hfull, fun top rest hl hsoon => ret_refused m h hlive hl hsoon,
      fun hl => ret_underflows m h hlive hl⟩

end Sys2Proof.Machine
end

section
/-! PROOF. The loop engine (R156 to R159, R162, R372, R374, R375). -/

namespace Sys2Proof.Machine

/-! The active levels. -/

theorem mem_insertLevel (c : Core) (n m : Nat) (ls : List Nat) : m ∈ insertLevel c n ls ↔ m = n ∨ m ∈ ls := by
  induction ls with
  | nil => simp [insertLevel]
  | cons l ls ih =>
    rw [insertLevel]
    split
    · simp
    · simp only [List.mem_cons, ih]
      tauto

theorem mem_foldr_insertLevel (c : Core) (m : Nat) (ls : List Nat) : m ∈ ls.foldr (insertLevel c) [] ↔ m ∈ ls := by
  induction ls with
  | nil => rfl
  | cons l ls ih => rw [List.foldr_cons, mem_insertLevel, ih, List.mem_cons]

theorem mem_activeLevels {c : Core} {m : Nat} : m ∈ activeLevels c ↔ m < 4 ∧ (loopOf c m).active = true := by
  rw [activeLevels, mem_foldr_insertLevel, List.mem_filter]
  refine and_congr_left fun _ => ?_
  simp only [List.mem_cons, List.not_mem_nil, or_false]
  omega

theorem any_activeLevels_false {c : Core} {p : Nat → Bool} (h : ∀ j < 4, (loopOf c j).active = true → p j = false) :
    (activeLevels c).any p = false := by
  rw [List.any_eq_false]
  intro j hj
  obtain ⟨hlt, hactive⟩ := mem_activeLevels.mp hj
  simp [h j hlt hactive]

/-! A change of one level. -/

theorem loopOf_setLoop (c : Core) (n j : Nat) (l : Loop) : loopOf (setLoop c n l) j = if j = n then l else loopOf c j :=
  tget_tset ..

/-- A level that has ended. -/
def ended (l : Loop) : Loop := { l with active := false, parked := false }

/-- What `endWhere` makes of a level. -/
def endedIf (p : Loop → Bool) (l : Loop) : Loop := if l.active && p l then ended l else l

/-- The step of `endWhere` for one level. -/
def endIf (p : Loop → Bool) (c : Core) (m : Nat) : Core := if (loopOf c m).active && p (loopOf c m) then clearLevel c m else c

theorem loopOf_endIf (p : Loop → Bool) (c : Core) (m j : Nat) :
    loopOf (endIf p c m) j = if j = m then endedIf p (loopOf c j) else loopOf c j := by
  have hclear : loopOf (clearLevel c m) j = if j = m then ended (loopOf c m) else loopOf c j := loopOf_setLoop ..
  unfold endIf endedIf
  by_cases hj : j = m
  · subst hj
    rw [if_pos rfl] at hclear ⊢
    split
    · exact hclear
    · rfl
  · rw [if_neg hj] at hclear ⊢
    split
    · exact hclear
    · rfl

theorem loopOf_foldl_endIf (p : Loop → Bool) (ms : List Nat) (c : Core) (j : Nat) (hms : ms.Nodup) :
    loopOf (ms.foldl (endIf p) c) j = if j ∈ ms then endedIf p (loopOf c j) else loopOf c j := by
  induction ms generalizing c with
  | nil => simp
  | cons m ms ih =>
    obtain ⟨hm, hms⟩ := List.nodup_cons.mp hms
    rw [List.foldl_cons, ih _ hms, loopOf_endIf]
    by_cases hj : j = m
    · subst hj; simp [hm]
    · simp [hj]

theorem loopOf_endWhere (c : Core) (p : Loop → Bool) {j : Nat} (hj : j < 4) :
    loopOf (endWhere c p) j = endedIf p (loopOf c j) := by
  have hmem : j ∈ [0, 1, 2, 3] := by
    simp only [List.mem_cons, List.not_mem_nil, or_false]
    omega
  exact (loopOf_foldl_endIf p [0, 1, 2, 3] c j (by decide)).trans (if_pos hmem)

/-! Starting an iteration (R156, R158). -/

/-- The level as its iteration `j` starts: a notice may set it draining (R162). -/
def startedLevel (l : Loop) (j : Nat) : Loop :=
  if l.notice = true ∧ l.pipe = true ∧ (!l.drain) = true then
    { l with iter := j, drain := true, fullTrips := l.trips, trips := min j l.trips }
  else if l.notice = true ∧ (!l.pipe) = true then { l with iter := j, drain := true } else { l with iter := j }

theorem startIter_spec (c : Core) (n j : Nat) :
    (startIter c n j).loops = tset {} c.loops n (startedLevel (loopOf c n) j) ∧
      (startIter c n j).starts = c.starts.filter (· ≠ n) ++ [n] ∧ (startIter c n j).pc = (loopOf c n).first ∧
      (startIter c n j).raised = c.raised ∧ (startIter c n j).scratch = c.scratch := by
  have hfirst : (startedLevel (loopOf c n) j).first = (loopOf c n).first := by
    unfold startedLevel; split_ifs <;> rfl
  have heq : startIter c n j = if (startedLevel (loopOf c n) j).drain &&
        (!(startedLevel (loopOf c n) j).pipe || stagesIdle (startedLevel (loopOf c n) j) j) then
      { setLoop c n (startedLevel (loopOf c n) j) with
        starts := c.starts.filter (· ≠ n) ++ [n], pc := (startedLevel (loopOf c n) j).first
        waits := { c.waits with park := some (Fin.ofNat 4 n) } }
    else { setLoop c n (startedLevel (loopOf c n) j) with
      starts := c.starts.filter (· ≠ n) ++ [n], pc := (startedLevel (loopOf c n) j).first } := rfl
  rw [heq, hfirst]
  split
  · exact ⟨rfl, rfl, rfl, rfl, rfl⟩
  · exact ⟨rfl, rfl, rfl, rfl, rfl⟩

theorem startedLevel_fields (l : Loop) (j : Nat) :
    (startedLevel l j).iter = j ∧ (startedLevel l j).active = l.active := by
  unfold startedLevel
  split_ifs <;> exact ⟨rfl, rfl⟩

/-- A core that has come to park posts that; nothing else changes. -/
theorem reportPark_cores (s : State) (k : Nat) : (reportPark s k).cores = s.cores := by
  unfold reportPark
  split <;> rfl

theorem coreOf_congr {s t : State} (h : t.cores = s.cores) (k : Nat) : coreOf t k = coreOf s k := by
  unfold coreOf
  rw [h]

theorem coreOf_reportPark (s : State) (k j : Nat) : coreOf (reportPark s k) j = coreOf s j := by
  rw [coreOf, reportPark_cores, coreOf]

/-! What the rows of `exec` for the loop engine are. -/

theorem exec_loop (n : Fin 4) (m : Mv) (s : State) :
    exec (.loop n m) s = trigger (.loop n m) m s fun fl s => reportPark (modMe s (ctLoop n.val false fl)) (me s) := rfl
theorem exec_loopp (n : Fin 4) (m : Mv) (s : State) :
    exec (.loopp n m) s = trigger (.loopp n m) m s fun fl s => reportPark (modMe s (ctLoop n.val true fl)) (me s) := rfl
theorem exec_lbrk (n : Fin 4) (m : Mv) (s : State) :
    exec (.lbrk n m) s = trigger (.lbrk n m) m s fun fl s => modMe s (ctLbrk n.val fl) := rfl
theorem exec_loopEndStep (k : Nat) (n : Fin 4) (s : State) : exec (.loopEndStep k n) s = execLoopEndStep k n s := rfl

/-- LOOP and LOOPP change their own core, and a park is reported. -/
theorem loop_arrives {i : Instr} {m : Mv} {s : State} {fl : Flight} {f : Flight → Core → Core} (h : s.cur.flight = some fl)
    (hx : exec i s = trigger i m s fun fl s => reportPark (modMe s (f fl)) (me s)) :
    ∃ t x, exec i s = .next t ∧ coreOf t (me s) = f fl x ∧ x = noted (myCore s) x ∧ RaisesOnly [4] (myCore s) x := by
  have arrival := ownStep_noteTrigger ((dstId i).getD 0 / 64) fl s
  have raises := noteTrigger_raises ((dstId i).getD 0 / 64) (myCore s) fl
  rw [noteTrigger_noted] at raises
  refine ⟨_, _, hx.trans (trigger_arrival _ _ _ _ _ h), ?_, rfl, raises⟩
  rw [coreOf_reportPark]
  exact (arrival.thenMod (f fl)).core

/-! LOOP and LOOPP (R156). -/

/-- The operands of a LOOP are in range: its body lies in the store, and within the body of every level around it. -/
def LoopFits (c : Core) (n : Nat) : Prop :=
  (portOf c 1).toNat ≤ 2 ^ 32 - 1 ∧ c.pc ≤ (portOf c 2).toNat % 2 ^ 32 ∧ (portOf c 2).toNat % 2 ^ 32 ≤ 16383 ∧
    (loopOf c n).active = false ∧
    ∀ j < 4, (loopOf c j).active = true → (loopOf c j).depth = c.links.length →
      (loopOf c j).first ≤ c.pc ∧ (portOf c 2).toNat % 2 ^ 32 ≤ (loopOf c j).last

/-- A LOOPP's stages are in range, and no other level is pipelined. -/
def PipeFits (c : Core) : Prop :=
  1 ≤ (portOf c 3).toNat % 8 ∧ (portOf c 3).toNat % 8 ≤ 4 ∧ (portOf c 1).toNat + (portOf c 3).toNat % 8 - 1 ≤ 2 ^ 32 - 1 ∧
    ∀ j < 4, (loopOf c j).active = true → (loopOf c j).pipe = false

theorem loopFault_eq_zero {c : Core} {n : Nat} {pipe : Bool} (h : LoopFits c n) (hp : pipe = true → PipeFits c) :
    loopFault c n pipe = 0 := by
  obtain ⟨hN, hF, hE, hfree, hnest⟩ := h
  have hbodies : (activeLevels c).any (fun m => decide ((loopOf c m).depth = c.links.length) &&
      !(decide ((loopOf c m).first ≤ c.pc) && decide ((portOf c 2).toNat % 2 ^ 32 ≤ (loopOf c m).last))) = false :=
    any_activeLevels_false fun j hj hactive => by
      by_cases hd : (loopOf c j).depth = c.links.length
      · obtain ⟨h1, h2⟩ := hnest j hj hactive hd
        rw [decide_eq_true h1, decide_eq_true h2]
        simp
      · simp [hd]
  have hpipe : ¬(pipe = true ∧ ((portOf c 3).toNat % 8 = 0 ∨ 4 < (portOf c 3).toNat % 8 ∨
      (activeLevels c).any (fun m => (loopOf c m).pipe) = true ∨
      2 ^ 32 - 1 < (portOf c 1).toNat + (portOf c 3).toNat % 8 - 1)) := by
    rintro ⟨hpp, hbad⟩
    obtain ⟨h1, h2, h3, h4⟩ := hp hpp
    rw [any_activeLevels_false h4] at hbad
    simp only [Bool.false_eq_true, false_or] at hbad
    omega
  simp only [loopFault, hbodies, hfree, Bool.false_eq_true, if_false]
  rw [if_neg (by omega), if_neg (by omega), if_neg hpipe]

/-- A core with one more level started. -/
def withLevel (c : Core) (n : Nat) (l : Loop) : Core := { setLoop c n l with loopSeq := c.loopSeq + 1 }

theorem loopOf_withLevel_self (c : Core) (n : Nat) (l : Loop) : loopOf (withLevel c n l) n = l := tget_tset_self ..

theorem loopOf_withLevel_ne (c : Core) {n j : Nat} (l : Loop) (h : j ≠ n) : loopOf (withLevel c n l) j = loopOf c j :=
  tget_tset_ne _ _ _ h

/-- The level that a LOOP starts. -/
def newLevel (c : Core) (fl : Flight) (pipe : Bool) (S : Nat) : Loop :=
  { active := true, first := c.pc, last := (portOf c 2).toNat % 2 ^ 32, depth := c.links.length, iter := 0
    total := (portOf c 1).toNat + S - 1, pipe := pipe, stages := S, trips := (portOf c 1).toNat, order := c.loopSeq + 1
    issue := fl.issue, bundle := fl.bundle, slot := fl.slot, exit0 := bundleAt c ((portOf c 2).toNat % 2 ^ 32 + 1)
    exit1 := bundleAt c ((portOf c 2).toNat % 2 ^ 32 + 2), exitBad := unfetchable c ((portOf c 2).toNat % 2 ^ 32 + 1) }

/-- Stages of a level that is not pipelined: one. -/
def stagesOf (c : Core) (pipe : Bool) : Nat := if pipe then (portOf c 3).toNat % 8 else 1

theorem ctLoop_starts {c : Core} {n : Nat} {pipe : Bool} (fl : Flight) (h : loopFault c n pipe = 0)
    (hN : (portOf c 1).toNat ≠ 0) :
    ctLoop n pipe fl c = startIter (withLevel c n (newLevel c fl pipe (stagesOf c pipe))) n 0 := by
  unfold ctLoop
  dsimp only
  rw [if_neg (fun hne => hne h), if_neg hN]
  rfl

theorem ctLoop_skips {c : Core} {n : Nat} {pipe : Bool} (fl : Flight) (h : loopFault c n pipe = 0) (hN : (portOf c 1).toNat = 0)
    (hfetch : unfetchable c ((portOf c 2).toNat % 2 ^ 32 + 1) = false) :
    ctLoop n pipe fl c = goTo c ((portOf c 2).toNat % 2 ^ 32 + 1) [] := by
  unfold ctLoop
  dsimp only
  rw [if_neg (fun hne => hne h), if_pos hN, hfetch]
  rfl

theorem unfetchable_eq_false {c : Core} {n : Nat} (hlt : n < 16384) (hbad : n ∉ c.badBundles) (hbad' : n + 1 ∉ c.badBundles) :
    unfetchable c n = false := by
  simp [unfetchable, hbad, hbad', hlt]

/-- What a LOOP or LOOPP that passes its check does, with N = 0 or not. -/
theorem loop_starts {i : Instr} {m : Mv} {s : State} {fl : Flight} {n : Nat} {pipe : Bool} (h : s.cur.flight = some fl)
    (hx : exec i s = trigger i m s fun fl s => reportPark (modMe s (ctLoop n pipe fl)) (me s))
    (hfits : LoopFits (myCore s) n) (hpipe : pipe = true → PipeFits (myCore s))
    (hfetch : (portOf (myCore s) 1).toNat = 0 → (portOf (myCore s) 2).toNat % 2 ^ 32 + 1 < 16384 ∧
      (portOf (myCore s) 2).toNat % 2 ^ 32 + 1 ∉ (myCore s).badBundles ∧
      (portOf (myCore s) 2).toNat % 2 ^ 32 + 1 + 1 ∉ (myCore s).badBundles) :
    ∃ t, exec i s = .next t ∧ RaisesOnly [4] (myCore s) (coreOf t (me s)) ∧
      ((portOf (myCore s) 1).toNat ≠ 0 →
        (coreOf t (me s)).pc = (myCore s).pc ∧ n ∈ (coreOf t (me s)).starts ∧
        (∀ j, j ≠ n → loopOf (coreOf t (me s)) j = loopOf (myCore s) j) ∧
        loopOf (coreOf t (me s)) n = newLevel (myCore s) fl pipe (stagesOf (myCore s) pipe)) ∧
      ((portOf (myCore s) 1).toNat = 0 →
        (coreOf t (me s)).pc = (portOf (myCore s) 2).toNat % 2 ^ 32 + 1 ∧ (coreOf t (me s)).loops = (myCore s).loops) := by
  obtain ⟨t, x, hexec, hcore, hnoted, raises⟩ := loop_arrives h hx
  have hport (k : Nat) : portOf x k = portOf (myCore s) k := by rw [hnoted]; rfl
  have hxfault : loopFault x n pipe = 0 :=
    loopFault_eq_zero (by rw [hnoted]; exact hfits) fun hp => by rw [hnoted]; exact hpipe hp
  refine ⟨t, hexec, ?_⟩
  rw [hcore]
  by_cases hN : (portOf (myCore s) 1).toNat = 0
  · obtain ⟨hlt, hbad, hbad'⟩ := hfetch hN
    have hgo := ctLoop_skips fl hxfault (by rw [hport]; exact hN) (by
      rw [hnoted]
      exact unfetchable_eq_false hlt hbad hbad')
    rw [hgo, hport]
    refine ⟨raises, fun hne => absurd hN hne, fun _ => ⟨rfl, by rw [hnoted]; rfl⟩⟩
  · have hgo := ctLoop_starts fl hxfault (by rw [hport]; exact hN)
    have hkept : startedLevel (newLevel x fl pipe (stagesOf x pipe)) 0 = newLevel x fl pipe (stagesOf x pipe) := rfl
    have hsame : newLevel x fl pipe (stagesOf x pipe) = newLevel (myCore s) fl pipe (stagesOf (myCore s) pipe) := by
      rw [hnoted]; rfl
    obtain ⟨hloops, hstarts, hpc, hraised, -⟩ := startIter_spec
      (withLevel x n (newLevel x fl pipe (stagesOf x pipe))) n 0
    rw [loopOf_withLevel_self] at hloops hpc
    rw [← hgo] at hloops hstarts hpc hraised
    rw [hkept, hsame] at hloops
    rw [hsame] at hpc
    refine ⟨fun r hr => raises r (hraised ▸ hr), fun _ => ⟨hpc, ?_, fun j hj => ?_, ?_⟩, fun h => absurd h hN⟩
    · rw [hstarts]
      exact List.mem_append_right _ (List.mem_singleton_self _)
    · rw [loopOf, hloops, tget_tset_ne _ _ _ hj]
      refine (loopOf_withLevel_ne x _ hj).trans ?_
      rw [hnoted]
      rfl
    · rw [loopOf, hloops, tget_tset_self]

/-! LBRK (R159, R372). -/

/-- LBRK of an active level whose end was prefetched. -/
theorem lbrk_leaves {s : State} {fl : Flight} {n : Fin 4} (m : Mv) (h : s.cur.flight = some fl)
    (hactive : (loopOf (myCore s) n).active = true) (hgood : (loopOf (myCore s) n).exitBad = false) :
    ∃ t, exec (.lbrk n m) s = .next t ∧ (coreOf t (me s)).pc = (loopOf (myCore s) n).last + 1 ∧
      ∀ j < 4, loopOf (coreOf t (me s)) j = endedIf
        (fun l => decide ((loopOf (myCore s) n).order ≤ l.order ∧ l.depth = (loopOf (myCore s) n).depth)) (loopOf (myCore s) j) := by
  obtain ⟨t, x, hexec, own, hnoted, -⟩ := control_arrives h (exec_lbrk n m s)
  have hloop (j : Nat) : loopOf x j = loopOf (myCore s) j := by rw [hnoted]; rfl
  have hgo : ctLbrk n.val fl x = goTo (endFrom x n.val) ((loopOf (myCore s) n).last + 1)
      [((loopOf (myCore s) n).last + 1, (loopOf (myCore s) n).exit0), ((loopOf (myCore s) n).last + 2, (loopOf (myCore s) n).exit1)] := by
    unfold ctLbrk
    simp only [hloop]
    rw [if_pos hactive, hgood]
    rfl
  refine ⟨t, hexec, by rw [own.core, hgo]; rfl, fun j hj => ?_⟩
  rw [own.core, hgo, ← hloop j, ← hloop n]
  show loopOf (endFrom x n.val) j = _
  unfold endFrom
  exact loopOf_endWhere x _ hj

/-- An ended level is not active; another is as it was. -/
theorem endedIf_active (p : Loop → Bool) {l : Loop} (h : l.active = true) : (endedIf p l).active = false ↔ p l = true := by
  unfold endedIf
  rw [h, Bool.true_and]
  split
  case isTrue hp => exact ⟨fun _ => hp, fun _ => rfl⟩
  case isFalse hp => rw [h]; exact ⟨fun hf => absurd hf (by decide), fun hp' => absurd hp' hp⟩

/-! The end step (R158). -/

theorem loopEndStep_iterates {s : State} {k : Nat} {n : Fin 4} (hlive : (coreOf s k).frozenAt = none)
    (hactive : (loopOf (coreOf s k) n).active = true)
    (hmore : (loopOf (coreOf s k) n).iter + 1 < (loopOf (coreOf s k) n).total) :
    exec (.loopEndStep k n) s =
      .next (reportPark (setCore s k (startIter (coreOf s k) n ((loopOf (coreOf s k) n).iter + 1))) k) := by
  have hstep : endStep (coreOf s k) n.val = (startIter (coreOf s k) n ((loopOf (coreOf s k) n).iter + 1), false) := if_pos hmore
  rw [exec_loopEndStep, execLoopEndStep, hlive, hactive, hstep]
  rfl

theorem loopEndStep_ends {s : State} {k : Nat} {n : Fin 4} (hlive : (coreOf s k).frozenAt = none)
    (hactive : (loopOf (coreOf s k) n).active = true)
    (hlast : (loopOf (coreOf s k) n).total ≤ (loopOf (coreOf s k) n).iter + 1) :
    ∃ t, exec (.loopEndStep k n) s = .next t ∧
      t.cores = (setCore s k (setLoop (coreOf s k) n { loopOf (coreOf s k) n with active := false })).cores := by
  have hstep : endStep (coreOf s k) n.val = (setLoop (coreOf s k) n { loopOf (coreOf s k) n with active := false }, true) :=
    if_neg (Nat.not_lt.mpr hlast)
  rw [exec_loopEndStep, execLoopEndStep, hlive, hactive, hstep]
  simp only [Option.isSome_none, Bool.false_eq_true, Bool.not_true, or_false, if_false]
  split
  · exact ⟨_, rfl, rfl⟩
  · exact ⟨_, rfl, rfl⟩

/-- A step that changes core `k` alone, its scratch kept, keeps every scratch. -/
theorem scratchSame_of_setCore {s t : State} {k : Nat} {c : Core} (h : t.cores = (setCore s k c).cores)
    (hc : c.scratch = (coreOf s k).scratch) : ScratchSame s t := by
  intro j b
  have hj : coreOf t j = coreOf (setCore s k c) j := by rw [coreOf, h, coreOf]
  rw [hj]
  by_cases hjk : j = k
  · subst hjk; rw [coreOf_setCore_self, hc]
  · rw [coreOf_setCore_ne _ _ hjk]

/-- Settles O22: the levels that a trigger, an end step or LBRK changes, and those that it leaves. -/
theorem loopEngineCountsIterations : Obligations.LoopEngineCountsIterations := by
  unfold Obligations.LoopEngineCountsIterations
  refine ⟨fun s fl m n h => ⟨fun hfits hfetch => ?loop, fun hfits hS1 hS4 hNS hpipe hfetch => ?loopp, fun hidle => ?lbrkIdle,
    fun hactive hgood => ?lbrk⟩, fun s k n hlive hactive => ?endStep⟩
  case loop =>
    obtain ⟨t, hx, raises, hstart, hskip⟩ := loop_starts h (exec_loop n m s)
      hfits (fun hf => absurd hf (by decide)) hfetch
    refine ⟨t, hx, raises, fun hN => ?_, hskip⟩
    obtain ⟨hpc, hmem, hother, hlevel⟩ := hstart hN
    exact ⟨hpc, hmem, hother, by rw [hlevel]; exact ⟨rfl, rfl, rfl, rfl, rfl, rfl, rfl, rfl⟩⟩
  case loopp =>
    obtain ⟨t, hx, raises, hstart, hskip⟩ := loop_starts h (exec_loopp n m s)
      hfits (fun _ => ⟨hS1, hS4, hNS, hpipe⟩) hfetch
    refine ⟨t, hx, raises, fun hN => ?_, hskip⟩
    obtain ⟨hpc, hmem, hother, hlevel⟩ := hstart hN
    exact ⟨hpc, hmem, hother, by rw [hlevel]; exact ⟨rfl, rfl, rfl, rfl, rfl, rfl, rfl, rfl⟩⟩
  case lbrkIdle =>
    obtain ⟨t, x, hx, own, hnoted, raises⟩ := control_arrives h (exec_lbrk n m s)
    have hsame : ctLbrk n.val fl x = x := by
      have hxidle : (loopOf x n.val).active = false := by rw [hnoted]; exact hidle
      unfold ctLbrk
      dsimp only
      rw [hxidle]
      rfl
    rw [hsame] at own
    exact completes_of_own hx own hnoted raises
  case lbrk =>
    obtain ⟨t, hx, hpc, hlevels⟩ := lbrk_leaves m h hactive hgood
    refine ⟨t, hx, hpc, ?_, fun j hj hja => ?_⟩
    · rw [hlevels n n.isLt, endedIf_active _ hactive]
      simp
    · rw [hlevels j hj, endedIf_active _ hja, decide_eq_true_eq]
  case endStep =>
    by_cases hmore : (loopOf (coreOf s k) n).iter + 1 < (loopOf (coreOf s k) n).total
    · obtain ⟨hloops, -, hpc, -, hscratch⟩ := startIter_spec (coreOf s k) n ((loopOf (coreOf s k) n).iter + 1)
      obtain ⟨hiter, hact⟩ := startedLevel_fields (loopOf (coreOf s k) n) ((loopOf (coreOf s k) n).iter + 1)
      have hcores := reportPark_cores (setCore s k (startIter (coreOf s k) n ((loopOf (coreOf s k) n).iter + 1))) k
      refine ⟨_, loopEndStep_iterates hlive hactive hmore, fun j hj => ?_, scratchSame_of_setCore hcores hscratch,
        fun _ => ?_, fun hle => absurd hle (Nat.not_le.mpr hmore)⟩
      · rw [coreOf_reportPark, coreOf_setCore_ne _ _ hj]
      · rw [coreOf_reportPark, coreOf_setCore_self, loopOf, hloops, tget_tset_self]
        exact ⟨hiter, hact.trans hactive, hpc⟩
    · have hlast := Nat.not_lt.mp hmore
      obtain ⟨t, hx, hcores⟩ := loopEndStep_ends hlive hactive hlast
      have hcore := coreOf_congr hcores
      refine ⟨t, hx, fun j hj => by rw [hcore, coreOf_setCore_ne _ _ hj], scratchSame_of_setCore hcores rfl,
        fun h => absurd h hmore, fun _ => ?_⟩
      rw [hcore, coreOf_setCore_self]
      exact ⟨congrArg Loop.active (loopOf_setLoop_self ..), rfl⟩

end Sys2Proof.Machine
end

section
/-! PROOF. WAITT: the deferral at its issue, the slip at its arrival, and the resume (R31, R34, R35, R436). -/

namespace Sys2Proof.Machine

theorem exec_waitt_issue {s : State} (m : Mv) (h : s.cur.flight = none) :
    exec (.waitt m) s = .next (waittIssue m s (launch (.waitt m) m false s)) := by
  show execWaitt m s = _
  rw [execWaitt, h]

theorem readSource_frozenAt (c : Core) (src : Source) (x bundle n : Nat) :
    (readSource c src x bundle n).2.frozenAt = c.frozenAt := by
  cases src <;> rfl

/-! The issue (R31, R34). -/

section

variable {s : State} {m : Mv} (hsrc : streamSource m.src = none) (hg : guardOf (myCore s) m.g = true)
include hsrc hg

/-- The state in which a delivered WAITT is in flight. -/
theorem waitt_launched :
    let r := readSource (myCore s) m.src (now s) (myCore s).curBundle s.cur.slot
    OwnStep s (launch (.waitt m) m false s) r.2 [flightJob s (.waitt m) m 0x028 r.1 true] := by
  have step := launch_delivers (i := .waitt m) (d := 0x028) (always := false) rfl hsrc (by rw [hg]; rfl)
  rw [hg] at step
  exact step

/-- A WAITT's effect on issue, by its time `t` and its arrival `a`. -/
theorem waittIssue_eq :
    let r := readSource (myCore s) m.src (now s) (myCore s).curBundle s.cur.slot
    let t := (scalarIn .z r.1).toNat
    let a := now s + moveLatency s.cur.slot m.src 0x028
    let u := launch (.waitt m) m false s
    waittIssue m s u =
      if t < a then
        if (coreGang s (me s)).poisonMode then setCore u (me s) { r.2 with nextIssue := a }
        else setCore u (me s) (addRaise r.2 ⟨0x0D, now s, r.2.curBundle, s.cur.slot, 0, 0, 0⟩)
      else postCore (setCore u (me s) { r.2 with waits := { r.2.waits with waitt := some t } }) (me s) t phDone
        (.event (.waittResume (me s))) := by
  intro r t a u
  have launched := waitt_launched hsrc hg
  have hgang : r.2.gang = (myCore s).gang := (readSource_frame ..).1
  have hbundle : r.2.curBundle = (myCore s).curBundle := (readSource_frame ..).2
  have hme : me u = me s := launched.me_eq
  have hcore : coreOf u (me s) = r.2 := launched.core
  have hnow : gcycOf u (me s) = now s := by
    show (gangOf u (coreOf u (me s)).gang).gcyc = (gangOf s (myCore s).gang).gcyc
    rw [hcore, hgang, gangOf, launched.gangs]; rfl
  have hmode : coreGang u (me s) = coreGang s (me s) := by
    show gangOf u (coreOf u (me s)).gang = gangOf s (myCore s).gang
    rw [hcore, hgang, gangOf, launched.gangs]; rfl
  have hslot : u.cur.slot = s.cur.slot := by rw [launched.cur]
  have hguard : guardOf (coreOf s (me s)) m.g = true := hg
  have hread : readSource (coreOf s (me s)) m.src (now s) r.2.curBundle s.cur.slot = r := by rw [hbundle]; rfl
  simp only [waittIssue, hme, hcore, hnow, hmode, hslot, hguard, hread, if_true]
  rfl

end

/-! The resume and the arrival (R31, R35). -/

/-- A change of a core depends on what it makes of that core alone. -/
theorem modCore_congr {s : State} {k : Nat} {f g : Core → Core} (h : f (coreOf s k) = g (coreOf s k)) :
    modCore s k f = modCore s k g :=
  congrArg (setCore s k) h

theorem waittResume_spec {s : State} {k T : Nat} (hw : (coreOf s k).waits.waitt = some T) (hT : T ≤ gcycOf s k) :
    exec (.waittResume k) s =
      .next (modCore s k fun c => { c with waits := { c.waits with waitt := none } }) := by
  refine congrArg Host.Outcome.next (modCore_congr ?_)
  rw [hw]
  exact if_pos hT

/-- The word that notes a slip is marked valid. -/
theorem recordSlip_spec (c : Core) (t x : Nat) :
    (recordSlip c t 1 x).suppress = true ∧ (recordSlip c t 1 x).slipInfo ≠ 0 ∧ (recordSlip c t 1 x).scratch = c.scratch := by
  have hlt := c.slipInfo.isLt
  have hrec (d : Core) (r : Record) : addRecord d r = { d with records := (addRecord d r).records, lost := (addRecord d r).lost } := by
    unfold addRecord
    split <;> rfl
  have hword : ∀ w : Nat, 0 < w → w < 2 ^ 64 → BitVec.ofNat 64 w ≠ 0 := fun w h0 h1 h => by
    have h2 := congrArg BitVec.toNat h
    rw [BitVec.toNat_ofNat, Nat.mod_eq_of_lt h1] at h2
    exact absurd h2 (Nat.ne_of_gt h0)
  unfold recordSlip
  dsimp only
  rw [hrec]
  refine ⟨rfl, hword _ ?_ ?_, rfl⟩
  · generalize c.slipInfo.toNat = w at *
    split <;> split <;> omega
  · generalize c.slipInfo.toNat = w at *
    split <;> split <;> omega

theorem exec_waitt_arrival {s : State} {fl : Flight} (m : Mv) (h : s.cur.flight = some fl) :
    let u := modMe s fun c => noteTrigger 0 c fl
    exec (.waitt m) s = .next (if (scalarIn .z fl.val).toNat < fl.arrive ∧ (coreGang u (me u)).poisonMode then
      modMe u fun c => recordSlip c (scalarIn .z fl.val).toNat 1 fl.arrive else u) := by
  show execWaitt m s = _
  rw [execWaitt, h]

/-- Settles O23: by the time that the WAITT names, before its arrival or not, and by the gang's mode. -/
theorem waittDefers : Obligations.WaittDefers := by
  unfold Obligations.WaittDefers
  refine ⟨⟨fun s m h hsrc hg => ?issue, fun s k T hw hT => ?resume⟩, fun s fl m h hmode => ⟨fun hlate => ?slip, fun hin => ?inTime⟩⟩
  case issue =>
    intro c v T a
    have launched := waitt_launched hsrc hg
    have hx := (exec_waitt_issue m h).trans (congrArg Host.Outcome.next (waittIssue_eq hsrc hg))
    have hlive := readSource_frozenAt (myCore s) m.src (now s) (myCore s).curBundle s.cur.slot
    have hgang := (readSource_frame (myCore s) m.src (now s) (myCore s).curBundle s.cur.slot).1
    dsimp only at hx launched
    generalize launch (.waitt m) m false s = u at *
    have hmem : flightJob s (.waitt m) m 0x028 v true ∈ u.agenda := by
      rw [launched.agenda]
      exact List.mem_append_right _ (List.mem_singleton_self _)
    have hcore (d : Core) : coreOf (setCore u (me s) d) (me s) = d := coreOf_setCore_self ..
    by_cases hlate : T < a
    · rw [if_pos hlate] at hx
      by_cases hmode : (coreGang s (me s)).poisonMode = true
      · rw [if_pos hmode] at hx
        exact ⟨_, hx, hmem, fun hle => absurd hlate (Nat.not_lt.mpr hle), fun _ _ => by rw [hcore],
          fun _ hf => absurd (hmode.symm.trans hf) (by decide)⟩
      · rw [if_neg hmode] at hx
        refine ⟨_, hx, hmem, fun hle => absurd hlate (Nat.not_lt.mpr hle), fun _ ht => absurd ht hmode, fun _ _ hfree => ?_⟩
        rw [hcore, addRaise_live _ _ (hlive.trans hfree)]
        exact ⟨_, List.mem_append_right _ (List.mem_singleton_self _), rfl, rfl⟩
    · rw [if_neg hlate] at hx
      refine ⟨_, hx, List.mem_append_left _ hmem, fun _ => ⟨?_, ?_⟩, fun ht => absurd ht hlate, fun ht => absurd ht hlate⟩
      · rw [coreOf_postCore, hcore]
      · rw [postCore_agenda, hcore, hgang]
        exact List.mem_append_right _ (List.mem_singleton_self _)
  case resume =>
    exact ⟨_, waittResume_spec hw hT, rfl, fun j hj => coreOf_modCore_ne _ _ hj, coreOf_modCore_self ..⟩
  case slip =>
    have arrival := ownStep_noteTrigger 0 fl s
    have slip := arrival.thenMod fun c => recordSlip c (scalarIn .z fl.val).toNat 1 fl.arrive
    obtain ⟨hsup, hinfo, hscratch⟩ := recordSlip_spec (noted (myCore s) (noteTrigger 0 (myCore s) fl))
      (scalarIn .z fl.val).toNat fl.arrive
    have hx := exec_waitt_arrival m h
    dsimp only at hx
    rw [if_pos ⟨hlate, by
      show (gangOf (modMe s _) (myCore (modMe s _)).gang).poisonMode = true
      rw [gangOf_modMe, arrival.myCore_eq]
      exact hmode⟩] at hx
    refine ⟨_, hx, ?_, ?_, slip.scratchSame hscratch, by rw [slip.agenda, List.append_nil]⟩
    · rw [slip.core]; exact hsup
    · rw [slip.core]; exact hinfo
  case inTime =>
    have arrival := ownStep_noteTrigger 0 fl s
    have raises := noteTrigger_raises 0 (myCore s) fl
    rw [noteTrigger_noted] at raises
    have hx := exec_waitt_arrival m h
    dsimp only at hx
    rw [if_neg fun hslip => absurd hslip.1 (Nat.not_lt.mpr hin)] at hx
    exact completes_of_own hx arrival rfl raises

end Sys2Proof.Machine
end

section
/-! PROOF. Barrier objects: what their steps leave, events noted, generations completed, and the frames of the tree (R245,
R345 to R350). -/

namespace Sys2Proof.Machine

/-! What a barrier's evaluation can change: the waits and raises of cores, barrier objects, and what is scheduled. -/

/-- Cores change in their waits and what they have raised alone. -/
structure WaitsOnly (s t : State) : Prop where
  cores : ∀ k, coreOf t k = { coreOf s k with waits := (coreOf t k).waits, raised := (coreOf t k).raised }
  gangs : t.gangs = s.gangs

theorem WaitsOnly.refl (s : State) : WaitsOnly s s := ⟨fun _ => rfl, rfl⟩

theorem WaitsOnly.trans {s t u : State} (h₁ : WaitsOnly s t) (h₂ : WaitsOnly t u) : WaitsOnly s u :=
  ⟨fun k => by rw [h₂.cores k, h₁.cores k], h₂.gangs.trans h₁.gangs⟩

theorem WaitsOnly.foldl {α : Type} {f : State → α → State} (h : ∀ s a, WaitsOnly s (f s a)) (as : List α) (s : State) :
    WaitsOnly s (as.foldl f s) := by
  induction as generalizing s with
  | nil => exact .refl s
  | cons a as ih => exact (h s a).trans (ih (f s a))

theorem waitsOnly_of_cores {s t : State} (hc : t.cores = s.cores) (hg : t.gangs = s.gangs) : WaitsOnly s t :=
  ⟨fun k => by rw [coreOf_congr hc k], hg⟩

theorem Beside.waitsOnly {s t : State} (h : Beside s t) : WaitsOnly s t := waitsOnly_of_cores h.cores h.gangs

theorem waitsOnly_modCore (s : State) (k : Nat) {f : Core → Core}
    (h : ∀ c, f c = { c with waits := (f c).waits, raised := (f c).raised }) : WaitsOnly s (modCore s k f) := by
  refine ⟨fun j => ?_, rfl⟩
  rw [coreOf_modCore]
  split
  · exact h _
  · rfl

theorem addRaise_waited (c : Core) (r : Raise) :
    addRaise c r = { c with waits := (addRaise c r).waits, raised := (addRaise c r).raised } := by
  rw [addRaise_spec]

theorem raiseNow_waited (c : Core) (x code : Nat) (a b d : Word) :
    raiseNow c x code a b d = { c with waits := (raiseNow c x code a b d).waits, raised := (raiseNow c x code a b d).raised } := by
  rw [raiseNow_spec]

theorem waitsOnly_setBarrier (s : State) (o : Nat) (b : Barrier) : WaitsOnly s (setBarrier s o b) := waitsOnly_of_cores rfl rfl
theorem waitsOnly_post (s : State) (j : Job) : WaitsOnly s (post s j) := waitsOnly_of_cores rfl rfl

theorem waitsOnly_mapWaits (s : State) (g h : Nat) (f : BarWait → BarWait) : WaitsOnly s (mapWaits s g h f) :=
  WaitsOnly.foldl (fun s k => waitsOnly_modCore s k fun _ => rfl) _ s

theorem beside_tellTree (s : State) (g h count latest : Nat) : Beside s (tellTree s g h count latest) :=
  Beside.foldl (fun s m => beside_leekSend s g m (.barrier g h (chipOf s) count latest)) _ s

theorem waitsOnly_barrierCompleted (s : State) (g o l gen expected : Nat) (scope : Bool) (ps : List Nat) :
    WaitsOnly s (barrierCompleted s g o l gen expected scope ps) := by
  unfold barrierCompleted
  dsimp only
  split
  · exact (((waitsOnly_setBarrier ..).trans (waitsOnly_mapWaits ..)).trans (waitsOnly_post ..)).trans (beside_tellTree ..).waitsOnly
  · exact ((waitsOnly_setBarrier ..).trans (waitsOnly_mapWaits ..)).trans (waitsOnly_post ..)

theorem waitsOnly_barrierUnwind (s : State) (g o x : Nat) : WaitsOnly s (barrierUnwind s g o x) := by
  refine WaitsOnly.trans ?_ (waitsOnly_mapWaits _ g (o % 64) _)
  exact waitsOnly_of_cores rfl rfl

theorem waitsOnly_beginWait (s : State) (k h gen : Nat) (first : Bool) : WaitsOnly s (beginWait s k h gen first) :=
  waitsOnly_modCore s k fun _ => rfl

theorem waitsOnly_barrierReport (s : State) (g h x : Nat) (after : BarState) (em : BarEvent × BarState) :
    WaitsOnly s (barrierReport s g h x after em) := by
  unfold barrierReport
  dsimp only
  split
  · split
    · exact WaitsOnly.foldl (fun s k => waitsOnly_modCore s k fun c => raiseNow_waited ..) _ s
    · exact .refl s
  · exact .refl s
  · exact .refl s
  case h_4 k hk _ _ =>
    split
    · split
      · exact waitsOnly_modCore _ _ fun c => addRaise_waited ..
      · exact .refl s
    · have begun : WaitsOnly s (if em.1.kind = 1 ∧ em.1.a = 1 then
          beginWait s k h em.2.gen (decide (x = (gangOf s g).gcyc)) else s) := by
        split
        · exact waitsOnly_beginWait ..
        · exact .refl s
      refine begun.trans ?_
      generalize (if em.1.kind = 1 ∧ em.1.a = 1 then beginWait s k h em.2.gen (decide (x = (gangOf s g).gcyc)) else s) = u
      split
      · exact waitsOnly_post ..
      · exact .refl u

theorem waitsOnly_barrierStarves (s : State) (g h x : Nat) (b : BarState) : WaitsOnly s (barrierStarves s g h x b) := by
  unfold barrierStarves
  dsimp only
  have faults := WaitsOnly.foldl (fun t k => waitsOnly_post t _) (waitersOf s g h) s
    (f := fun t k => postDeed t k (x + (gangOf t g).h) phRegister (.barrierFault h 1 true))
  split
  · exact faults.trans (beside_tellTree ..).waitsOnly
  · exact faults

theorem waitsOnly_barrierCycle (s : State) (g o x : Nat) : WaitsOnly s (barrierCycle s g o x) := by
  unfold barrierCycle
  dsimp only
  refine WaitsOnly.trans ?_ (WaitsOnly.foldl (fun s d => waitsOnly_barrierCompleted ..) _ _)
  split
  · exact ((waitsOnly_setBarrier ..).trans (WaitsOnly.foldl (fun s em => waitsOnly_barrierReport ..) _ _)).trans
      (waitsOnly_barrierStarves ..)
  · exact (waitsOnly_setBarrier ..).trans (WaitsOnly.foldl (fun s em => waitsOnly_barrierReport ..) _ _)

theorem waitsOnly_barrierRun (s : State) (g o x : Nat) : WaitsOnly s (barrierRun s g o x) :=
  (waitsOnly_barrierUnwind ..).trans (WaitsOnly.foldl (fun _ _ => waitsOnly_barrierCycle ..) _ _)

/-- Forwarding changes the object's mark, and sends a frame. -/
theorem beside_barrierForward (s : State) (g o : Nat) : Beside s (barrierForward s g o) := by
  unfold barrierForward
  dsimp only
  split
  · exact .refl s
  · split
    · refine Beside.trans ?_ (beside_leekSend ..)
      exact ⟨rfl, rfl, rfl, fun _ h => h⟩
    · exact .refl s

theorem waitsOnly_noteBarrier (s : State) (g o : Nat) (e : BarEvent) : WaitsOnly s (noteBarrier s g o e) := by
  unfold noteBarrier
  dsimp only
  split
  · exact ((waitsOnly_setBarrier ..).trans (waitsOnly_barrierRun ..)).trans (beside_barrierForward ..).waitsOnly
  · split
    · exact waitsOnly_setBarrier ..
    · exact (waitsOnly_setBarrier ..).trans (waitsOnly_post ..)

/-- A core's EXIT acts on barriers through its events alone. -/
theorem waitsOnly_barrierExits (s : State) (k t : Nat) : WaitsOnly s (barrierExits s k t) :=
  WaitsOnly.foldl (fun _ _ => waitsOnly_noteBarrier ..) _ s

end Sys2Proof.Machine
end

section
/-! PROOF. EXIT, BEACON, SPAWN and the parking of a level (R40, R46, R162, R361, R409). -/

namespace Sys2Proof.Machine

theorem exec_exit (m : Mv) (s : State) : exec (.exit m) s = execExit m s := rfl
theorem exec_beacon (m : Mv) (s : State) :
    exec (.beacon m) s = trigger (.beacon m) m s fun fl s => modMe s fun c => { c with wdogBase := fl.arrive } := rfl
theorem exec_spawn (m : Mv) (s : State) : exec (.spawn m) s = execSpawn m s := rfl
theorem exec_drainPark (k : Nat) (n : Fin 4) (s : State) : exec (.drainPark k n) s = execDrainPark k n s := rfl

/-! EXIT (R361). -/

/-- A party that stops being one changes its gang alone, and schedules the check. -/
theorem resyncExit_cores (s : State) (k t : Nat) : (resyncExit s k t).cores = s.cores := rfl

/-- EXIT's change of its core, and then the barriers' of waits and raises. -/
theorem exit_cores {s : State} {fl : Flight} (m : Mv) (h : s.cur.flight = some fl) :
    ∃ t x, exec (.exit m) s = .next t ∧ x = noted (myCore s) x ∧
      ∀ j, coreOf t j = { (if j = me s then ctExit fl x else coreOf s j) with
        waits := (coreOf t j).waits, raised := (coreOf t j).raised } := by
  have arrival := ownStep_noteTrigger ((dstId (.exit m)).getD 0 / 64) fl s
  have hx := (exec_exit m s).trans (trigger_arrival _ _ _ _ _ h)
  generalize (modMe s fun c => noteTrigger ((dstId (.exit m)).getD 0 / 64) c fl) = u at *
  have change := arrival.thenMod (ctExit fl)
  have barriers := waitsOnly_barrierExits (modMe u (ctExit fl)) (me u) fl.arrive
  refine ⟨_, noted (myCore s) (noteTrigger ((dstId (.exit m)).getD 0 / 64) (myCore s) fl), hx, rfl, fun j => ?_⟩
  rw [coreOf_postGang]
  have hcore := coreOf_congr (resyncExit_cores (barrierExits (modMe u (ctExit fl)) (me u) fl.arrive) (me u) fl.arrive) j
  rw [hcore]
  refine (barriers.cores j).trans ?_
  by_cases hj : j = me s
  · rw [if_pos hj]
    subst hj
    rw [change.core]
  · rw [if_neg hj, change.others j hj]

theorem ctExit_spec (fl : Flight) (c : Core) :
    (ctExit fl c).running = false ∧ (ctExit fl c).exitAt = some fl.arrive ∧ (ctExit fl c).links = [] ∧
      (∀ n < 4, (loopOf (ctExit fl c) n).active = false) ∧ ∃ e, ctExit fl c =
        { levelled c e with running := false, exitAt := some fl.arrive, links := [], starts := []
                            wdogHeld := (ctExit fl c).wdogHeld, waits := {} } := by
  refine ⟨rfl, rfl, rfl, fun n hn => ?_, endWhere c fun _ => true, ?_⟩
  · have hloop : loopOf (ctExit fl c) n = loopOf (endWhere c fun _ => true) n := rfl
    rw [hloop, loopOf_endWhere _ _ hn, endedIf]
    split
    · rfl
    · simp_all
  · rw [← endWhere_levelled]
    rfl

/-! SPAWN (R40, R409). -/

theorem tget_below {α : Type} [DecidableEq α] {d : α} {t : Table α} {lo j : Nat} (ht : twfFrom d lo t = true) (hj : j < lo) :
    tget d t j = d := by
  by_contra hne
  exact absurd (twfFrom_mem ht (mem_of_tget_ne hne)).1 (Nat.not_le.mpr hj)

/-- The first entry of a table that satisfies `p`, by what the table reads as. -/
theorem find?_key_eq_some {α : Type} [DecidableEq α] {d : α} {t : Table α} {lo k : Nat} (p : α → Bool)
    (ht : twfFrom d lo t = true) (hd : p d = false) :
    (t.find? fun e => p e.2).map (·.1) = some k ↔ p (tget d t k) = true ∧ ∀ j < k, p (tget d t j) = false := by
  induction t generalizing lo with
  | nil => simp [tget, hd]
  | cons e t ih =>
    obtain ⟨i, v⟩ := e
    simp only [twfFrom, Bool.and_eq_true, decide_eq_true_eq] at ht
    obtain ⟨-, htail⟩ := ht
    have hself : tget d ((i, v) :: t) i = v := if_pos rfl
    have hother : ∀ j, j ≠ i → tget d ((i, v) :: t) j = tget d t j := fun j hj => if_neg hj
    have hbelow : ∀ j, j ≤ i → tget d t j = d := fun j hj => tget_below htail (Nat.lt_succ_of_le hj)
    cases hp : p v with
    | true =>
      simp only [List.find?_cons, hp, Option.map_some, Option.some.injEq]
      constructor
      · rintro rfl
        exact ⟨by rw [hself, hp], fun j hj => by rw [hother j (Nat.ne_of_lt hj), hbelow j (Nat.le_of_lt hj), hd]⟩
      · rintro ⟨hk, hbefore⟩
        rcases Nat.lt_trichotomy k i with hlt | heq | hgt
        · rw [hother k (Nat.ne_of_lt hlt), hbelow k (Nat.le_of_lt hlt), hd] at hk
          exact absurd hk (by decide)
        · exact heq.symm
        · have := hbefore i hgt
          rw [hself, hp] at this
          exact absurd this (by decide)
    | false =>
      simp only [List.find?_cons, hp]
      rw [ih htail]
      have hread : ∀ j, p (tget d ((i, v) :: t) j) = p (tget d t j) := fun j => by
        by_cases hj : j = i
        · subst hj; rw [hself, hbelow j (Nat.le_refl j), hp, hd]
        · rw [hother j hj]
      simp only [hread]

/-- The core of a gang with a context core index: the first listed one. -/
theorem coreAt_eq_some {s : State} {g i k : Nat} (hc : canonical s) (hg : g ≠ noGang) :
    coreAt s g i = some k ↔ ((coreOf s k).gang = g ∧ (coreOf s k).idx = i) ∧
      ∀ j < k, ¬((coreOf s j).gang = g ∧ (coreOf s j).idx = i) := by
  have hfind := find?_key_eq_some (k := k) (fun c : Core => decide (c.gang = g ∧ c.idx = i)) hc.1
    (by rw [decide_eq_false_iff_not]; exact fun h => hg h.1.symm)
  simp only [decide_eq_true_eq, decide_eq_false_iff_not] at hfind
  exact hfind

theorem canonical_modCore {s : State} (k : Nat) (f : Core → Core) (hc : canonical s) : canonical (modCore s k f) :=
  ⟨twf_tset _ _ hc.1, hc.2⟩

/-- A change that keeps gangs and context core indices keeps which core serves as which. -/
theorem coreAt_modCore {s : State} {g i k : Nat} {f : Core → Core} (k' : Nat) (hc : canonical s) (hg : g ≠ noGang)
    (hgang : (f (coreOf s k')).gang = (coreOf s k').gang) (hidx : (f (coreOf s k')).idx = (coreOf s k').idx)
    (h : coreAt s g i = some k) : coreAt (modCore s k' f) g i = some k := by
  have hsame : ∀ j, (coreOf (modCore s k' f) j).gang = (coreOf s j).gang ∧ (coreOf (modCore s k' f) j).idx = (coreOf s j).idx :=
    fun j => by
      rw [coreOf_modCore]
      split
      case isTrue hj => subst hj; exact ⟨hgang, hidx⟩
      case isFalse => exact ⟨rfl, rfl⟩
  rw [coreAt_eq_some (canonical_modCore k' f hc) hg]
  simp only [hsame]
  exact (coreAt_eq_some hc hg).mp h

/-- A SPAWN of an idle core of the context. -/
theorem spawn_starts {s : State} {fl : Flight} {k' : Nat} (m : Mv) (h : s.cur.flight = some fl) (hc : canonical s)
    (hg : (myCore s).gang ≠ noGang) (hi : (scalarIn .z fl.val).toNat % 1024 < (coreGang s (me s)).cores)
    (hat : coreAt s (myCore s).gang ((scalarIn .z fl.val).toNat % 1024) = some k') (hk : k' ≠ me s)
    (hb : (portOf (myCore s) 1).toNat % 2 ^ 32 < 16384) (hidle : (coreOf s k').running = false)
    (hexit : (coreOf s k').exitAt ≠ some fl.arrive) (hspawn : (coreOf s k').spawned = none) :
    exec (.spawn m) s = .next (let u := modMe s fun c => noteTrigger ((dstId (.spawn m)).getD 0 / 64) c fl
      postDeed (startSibling u k' ((portOf (myCore s) 1).toNat % 2 ^ 32) fl.arrive fl.issue (myCore s).idx fl.bundle fl.slot) k'
        fl.arrive (phRegister + 1) (.spawnRegs ((List.range 8).map fun j => sregOf (myCore s) (48 + j)))) := by
  have arrival := ownStep_noteTrigger ((dstId (.spawn m)).getD 0 / 64) fl s
  have hx := (exec_spawn m s).trans (trigger_arrival _ _ _ _ _ h)
  have hat' := coreAt_modCore (f := fun c => noteTrigger ((dstId (.spawn m)).getD 0 / 64) c fl) (me s) hc hg
    (by rw [noteTrigger_noted]; rfl) (by rw [noteTrigger_noted]; rfl) hat
  have hother : coreOf (modMe s fun c => noteTrigger ((dstId (.spawn m)).getD 0 / 64) c fl) k' = coreOf s k' :=
    arrival.others k' hk
  have hmine := arrival.myCore_eq
  have hgangs : (gangOf (modMe s fun c => noteTrigger ((dstId (.spawn m)).getD 0 / 64) c fl) (myCore s).gang).cores =
      (coreGang s (me s)).cores := rfl
  rw [hx]
  change coreAt (modMe s fun c => noteTrigger ((dstId (.spawn m)).getD 0 / 64) c fl) _ _ = _ at hat'
  generalize (modMe s fun c => noteTrigger ((dstId (.spawn m)).getD 0 / 64) c fl) = u at *
  generalize noteTrigger ((dstId (.spawn m)).getD 0 / 64) (myCore s) fl = d at *
  have hcore : coreOf u (me u) = noted (myCore s) d := hmine
  have hport : portOf (noted (myCore s) d) 1 = portOf (myCore s) 1 := rfl
  have hyields : spawnYields (coreOf s k') fl.arrive fl.issue (myCore s).idx = false := by rw [spawnYields, hspawn]
  have hbusy : spawnBusy (coreOf s k') fl.arrive = false := by simp [spawnBusy, hidle, hexit]
  have hsreg (n : Nat) : sregOf (noted (myCore s) d) n = sregOf (myCore s) n := rfl
  have hidx : (noted (myCore s) d).idx = (myCore s).idx := rfl
  simp only [hcore, noted_gang, hgangs, if_pos hi, hat', hport, if_neg (Nat.not_le.mpr hb), hother, hidx, hyields, hbusy,
    Bool.false_eq_true, if_false, hsreg]

/-- Settles O24: what EXIT ends and keeps, the watchdog's restart, the sibling started, and the level marked parked. -/
theorem coresStartAndStop : Obligations.CoresStartAndStop := by
  unfold Obligations.CoresStartAndStop
  refine ⟨fun s fl m h => ⟨?exit, ?beacon, fun k' => ?spawn⟩, fun s k n harmed => ?park⟩
  case exit =>
    obtain ⟨t, x, hx, hnoted, hcores⟩ := exit_cores m h
    obtain ⟨hrun, hexit, hlinks, hloops, e, hspec⟩ := ctExit_spec fl x
    have hmine := hcores (me s)
    rw [if_pos rfl] at hmine
    refine ⟨t, hx, ?_⟩
    rw [hmine]
    refine ⟨hrun, hexit, hlinks, hloops, ?_, ?_, ?_, ?_, ?_, ?_, ?_, ?_, ?_, ?_, fun j b => ?_⟩
    case refine_11 =>
      rw [hcores j]
      by_cases hj : j = me s
      · subst hj
        rw [if_pos rfl, hspec, hnoted]
        rfl
      · rw [if_neg hj]
    all_goals rw [hspec, hnoted]; rfl
  case beacon =>
    obtain ⟨t, x, hx, own, hnoted, raises⟩ := control_arrives (f := fun fl c => { c with wdogBase := fl.arrive }) h (exec_beacon m s)
    exact completes_of_own hx own (by rw [hnoted]; rfl) raises
  case spawn =>
    intro i j b hc hg hi hat hk hb hidle hexit hspawn
    have arrival := ownStep_noteTrigger ((dstId (.spawn m)).getD 0 / 64) fl s
    refine ⟨_, spawn_starts m h hc hg hi hat hk hb hidle hexit hspawn, ?_⟩
    have hcore := coreOf_modCore_self (modMe s fun c => noteTrigger ((dstId (.spawn m)).getD 0 / 64) c fl) k' fun c =>
      { c with
        running := true, pc := (portOf (myCore s) 1).toNat % 2 ^ 32, nextIssue := fl.arrive + 64, waits := {}, loops := []
        links := [], starts := [], wdogBase := fl.arrive + 64
        spawned := some (fl.arrive, fl.issue, (myCore s).idx, fl.bundle, fl.slot) }
    rw [arrival.others k' hk] at hcore
    dsimp only
    rw [coreOf_postDeed, startSibling, hcore]
    refine ⟨rfl, rfl, rfl, rfl, rfl, rfl, ?_⟩
    rw [postDeed_agenda, hcore]
    rfl
  case park =>
    refine ⟨_, (exec_drainPark k n s).trans (if_pos ?_), rfl, fun j hj => coreOf_modCore_ne _ _ hj, coreOf_modCore_self ..⟩
    rw [parkStays, harmed]
    rfl

end Sys2Proof.Machine
end

section
/-! PROOF. Barriers: the triggers that note an event, what an event does to a generation, and the frames of the tree (R245,
R345 to R350). -/

namespace Sys2Proof.Machine

theorem exec_barinit (m : Mv) (s : State) : exec (.barinit m) s = execBarinit m s := rfl
theorem exec_barrive (m : Mv) (s : State) : exec (.barrive m) s = execBarrive m s := rfl
theorem exec_barpoll (m : Mv) (s : State) : exec (.barpoll m) s = execBarpoll m s := rfl
theorem exec_barrier (g h chip count latest : Nat) (s : State) :
    exec (.barrier g h chip count latest) s = execBarrier g h chip count latest s := rfl
theorem exec_barrierResume (g h gen : Nat) (s : State) : exec (.barrierResume g h gen) s = execBarrierResume g h gen s := rfl

@[simp] theorem barrierOf_setBarrier_self (s : State) (o : Nat) (b : Barrier) : barrierOf (setBarrier s o b) o = b :=
  tget_tset_self ..

theorem barrierOf_setBarrier_ne (s : State) (b : Barrier) {o o' : Nat} (h : o' ≠ o) :
    barrierOf (setBarrier s o b) o' = barrierOf s o' := tget_tset_ne _ _ _ h

theorem barrierOf_congr {s t : State} (h : t.hub.barriers = s.hub.barriers) (o : Nat) : barrierOf t o = barrierOf s o := by
  rw [barrierOf, h, barrierOf]

/-! An event of this cycle or a coming one is noted. -/

theorem noteBarrier_coming {s : State} {g o : Nat} {e : BarEvent} (h : (gangOf s g).gcyc ≤ e.cycle) :
    ∃ js, noteBarrier s g o e =
        { setBarrier s o { barrierOf s o with events := (barrierOf s o).events ++ [e] } with agenda := s.agenda ++ js } ∧
      ((∀ f ∈ (barrierOf s o).events, f.cycle ≠ e.cycle) →
        (⟨.gang g, e.cycle, phSync, none, .deed (.barrierApply g o)⟩ : Job) ∈ js) := by
  have hpast : ¬ e.cycle < (gangOf (setBarrier s o { barrierOf s o with events := (barrierOf s o).events ++ [e] }) g).gcyc :=
    Nat.not_lt.mpr h
  unfold noteBarrier
  simp only [if_neg hpast]
  by_cases hany : ((barrierOf s o).events.any fun f => decide (f.cycle = e.cycle)) = true
  · rw [if_pos hany]
    refine ⟨[], by rw [List.append_nil]; rfl, fun hnone => ?_⟩
    obtain ⟨f, hf, hcyc⟩ := List.any_eq_true.mp hany
    exact absurd (of_decide_eq_true hcyc) (hnone f hf)
  · rw [if_neg hany]
    exact ⟨_, rfl, fun _ => List.mem_singleton_self _⟩

/-- What a trigger that notes event `e` on object `o` leaves. -/
structure HoldsEvent (s t : State) (o : Nat) (e : BarEvent) : Prop where
  raises : RaisesOnly [4] (myCore s) (coreOf t (me s))
  core : coreOf t (me s) = noted (myCore s) (coreOf t (me s))
  others : ∀ k, k ≠ me s → coreOf t k = coreOf s k
  gangs : t.gangs = s.gangs
  objects : ∀ o', o' ≠ o → barrierOf t o' = barrierOf s o'
  event : barrierOf t o = { barrierOf s o with events := (barrierOf s o).events ++ [e] }
  job : (∀ f ∈ (barrierOf s o).events, f.cycle ≠ e.cycle) →
    (⟨.gang (myCore s).gang, e.cycle, phSync, none, .deed (.barrierApply (myCore s).gang o)⟩ : Job) ∈ t.agenda
  keeps : ∀ j ∈ s.agenda, j ∈ t.agenda

/-- After the notes of its arrival, a trigger notes its event. -/
theorem noteBarrier_holds {s u : State} {d : Core} {o : Nat} {e : BarEvent} (own : OwnStep s u (noted (myCore s) d) [])
    (raises : RaisesOnly [4] (myCore s) (noted (myCore s) d)) (h : (gangOf s (myCore s).gang).gcyc ≤ e.cycle) :
    HoldsEvent s (noteBarrier u (myCore s).gang o e) o e ∧ (noteBarrier u (myCore s).gang o e).cur = s.cur := by
  have hg : gangOf u (myCore s).gang = gangOf s (myCore s).gang := by rw [gangOf, own.gangs, gangOf]
  have hb (o' : Nat) : barrierOf u o' = barrierOf s o' := barrierOf_congr (by rw [own.hub]) o'
  have ha : u.agenda = s.agenda := own.agenda.trans (List.append_nil _)
  obtain ⟨js, heq, hjob⟩ := noteBarrier_coming (s := u) (g := (myCore s).gang) (o := o) (e := e) (by rw [hg]; exact h)
  rw [heq, hb]
  have hcore : coreOf u (me s) = noted (myCore s) d := own.core
  refine ⟨⟨?_, ?_, fun k hk => own.others k hk, own.gangs, fun o' ho => ?_, ?_, fun hnone => ?_, fun j hj => ?_⟩, own.cur⟩
  · exact hcore.symm ▸ raises
  · show coreOf u (me s) = noted (myCore s) (coreOf u (me s))
    rw [hcore]; rfl
  · exact (barrierOf_setBarrier_ne u _ ho).trans (hb o')
  · exact barrierOf_setBarrier_self u o _
  · rw [hb] at hjob
    exact List.mem_append_right _ (hjob hnone)
  · show j ∈ u.agenda ++ js
    rw [ha]
    exact List.mem_append_left _ hj

/-- A trigger whose effect is to note an event completes with it noted. -/
theorem trigger_notes_event {i : Instr} {m : Mv} {s : State} {fl : Flight} {f : Flight → State → State} (o : Nat) (e : BarEvent)
    (h : s.cur.flight = some fl) (hx : exec i s = trigger i m s f)
    (hf : ∀ u d, OwnStep s u (noted (myCore s) d) [] → f fl u = noteBarrier u (myCore s).gang o e)
    (hc : (gangOf s (myCore s).gang).gcyc ≤ e.cycle) : ∃ t, exec i s = .next t ∧ HoldsEvent s t o e := by
  have arrival := ownStep_noteTrigger ((dstId i).getD 0 / 64) fl s
  have raises := noteTrigger_raises ((dstId i).getD 0 / 64) (myCore s) fl
  rw [noteTrigger_noted] at raises
  rw [trigger_arrival _ _ _ _ _ h, hf _ _ arrival] at hx
  exact ⟨_, hx, (noteBarrier_holds arrival raises hc).1⟩

/-- The object and the event of a trigger do not depend on the notes of its arrival. -/
theorem barrierObject_noted {s u : State} {d : Core} (own : OwnStep s u (noted (myCore s) d) []) (h : Nat) :
    barrierObject u (myCore u).gang h = barrierObject s (myCore s).gang h := by
  rw [own.myCore_eq, barrierObject, gangOf, own.gangs]
  rfl

theorem barEvent_noted {s u : State} {d : Core} (own : OwnStep s u (noted (myCore s) d) []) (fl : Flight) (t kind a b : Nat) :
    barEvent u fl t kind a b = barEvent s fl t kind a b := by
  rw [barEvent, chipOf, fabOf, own.hub, own.myCore_eq]
  rfl

theorem leadOf_noted {s u : State} {d : Core} (own : OwnStep s u (noted (myCore s) d) []) :
    leadOf u (me u) = leadOf s (me s) := by
  rw [leadOf, coreGang, own.me_eq, own.core, gangOf, own.gangs]
  rfl

theorem barrierObject_mod (s : State) (g h : Nat) : barrierObject s g (h % 64) = 64 * (gangOf s g).coreset + h % 64 := by
  rw [barrierObject, Nat.mod_mod]

/-- A result scheduled after an event has been noted. -/
theorem HoldsEvent.thenWord {s v : State} {o : Nat} {e : BarEvent} (held : HoldsEvent s v o e) (hcur : v.cur = s.cur)
    (fl : Flight) (p : ResultPort) (lat : Nat) (w : Word) :
    HoldsEvent s (completeWord v fl p lat w 0) o e ∧ resultJob s p lat (w.setWidth 2048) 0 ∈ (completeWord v fl p lat w 0).agenda := by
  have hme : me v = me s := by rw [me, hcur]; rfl
  have hcore : myCore v = coreOf v (me s) := by rw [myCore, hme]
  have result := complete_spec v fl p lat (w.setWidth 2048) 0
  have raises := complete_raises v fl p lat (w.setWidth 2048) 0
  show HoldsEvent s (complete v fl p lat (w.setWidth 2048) 0) o e ∧
    resultJob s p lat (w.setWidth 2048) 0 ∈ (complete v fl p lat (w.setWidth 2048) 0).agenda
  generalize complete v fl p lat (w.setWidth 2048) 0 = t at *
  rw [hme, hcore] at result raises
  have hcoreT : coreOf t (me s) = noted (coreOf v (me s)) (coreOf t (me s)) := by
    have hown := result.core
    rwa [hme] at hown
  have hjob : resultJob v p lat (w.setWidth 2048) 0 = resultJob s p lat (w.setWidth 2048) 0 := by
    have hgang : (coreOf v (me s)).gang = (myCore s).gang := by rw [held.core]; rfl
    have hnow : now v = now s := by rw [Machine.now_eq, Machine.now_eq, hcore, hgang, gangOf, held.gangs]; rfl
    simp only [resultJob, ownJob, hnow, hme, hcore, hgang]
  refine ⟨⟨held.raises.trans raises, ?_, fun k hk => ?_, result.gangs.trans held.gangs, fun o' ho => ?_, ?_, fun hn => ?_,
    fun j hj => ?_⟩, ?_⟩
  · rw [hcoreT, held.core]; rfl
  · rw [result.others k (hme ▸ hk), held.others k hk]
  · rw [barrierOf_congr (s := v) (by rw [result.hub]), held.objects o' ho]
  · rw [barrierOf_congr (s := v) (by rw [result.hub]), held.event]
  · rw [result.agenda]; exact List.mem_append_left _ (held.job hn)
  · rw [result.agenda]; exact List.mem_append_left _ (held.keeps j hj)
  · rw [result.agenda, hjob]; exact List.mem_append_right _ (List.mem_singleton_self _)

section

variable {s : State} {fl : Flight} (m : Mv) (h : s.cur.flight = some fl) (hc : (gangOf s (myCore s).gang).gcyc ≤ fl.arrive)
include h hc

theorem barinit_notes (he : (portOf (myCore s) 0x3C0).toNat % 2 ^ 16 ≠ 0) :
    ∃ t, exec (.barinit m) s = .next t ∧ HoldsEvent s t (barrierObject s (myCore s).gang (barHandle fl))
      (barEvent s fl (fl.arrive + leadOf s (me s)) 0 ((portOf (myCore s) 0x3C0).toNat % 2 ^ 16)
        ((portOf (myCore s) 0x3C1).toNat % 4)) := by
  refine trigger_notes_event _ _ h (exec_barinit m s) (fun u d own => ?_) (Nat.le_add_right_of_le hc)
  have hport (q : Nat) : portOf (myCore u) q = portOf (myCore s) q := by rw [own.myCore_eq]; rfl
  have hgang : (myCore u).gang = (myCore s).gang := by rw [own.myCore_eq]; rfl
  simp only [hport, barEvent_noted own, barrierObject_noted own, leadOf_noted own]
  rw [if_neg he, hgang]

theorem barrive_notes :
    ∃ t, exec (.barrive m) s = .next t ∧ HoldsEvent s t (barrierObject s (myCore s).gang (barHandle fl))
      (barEvent s fl fl.arrive 1 ((portOf (myCore s) 0x3C0).toNat % 2) 0) := by
  refine trigger_notes_event _ _ h (exec_barrive m s) (fun u d own => ?_) hc
  have hport (q : Nat) : portOf (myCore u) q = portOf (myCore s) q := by rw [own.myCore_eq]; rfl
  have hgang : (myCore u).gang = (myCore s).gang := by rw [own.myCore_eq]; rfl
  simp only [hport, barEvent_noted own, barrierObject_noted own]
  rw [hgang]

theorem barpoll_notes :
    ∃ t, exec (.barpoll m) s = .next t ∧
      HoldsEvent s t (barrierObject s (myCore s).gang (barHandle fl)) (barEvent s fl fl.arrive 3 0 0) ∧
      (leadOf s (me s) ≤ fl.arrive → resultJob s .sy 2 ((BitVec.ofNat 64 (barWord (barrierAt
        (barrierOf s (barrierObject s (myCore s).gang (barHandle fl))) (fl.arrive - leadOf s (me s))))).setWidth 2048) 0
          ∈ t.agenda) := by
  have arrival := ownStep_noteTrigger ((dstId (.barpoll m)).getD 0 / 64) fl s
  have raises := noteTrigger_raises ((dstId (.barpoll m)).getD 0 / 64) (myCore s) fl
  rw [noteTrigger_noted] at raises
  have hx := (exec_barpoll m s).trans (trigger_arrival _ _ _ _ _ h)
  generalize (modMe s fun c => noteTrigger ((dstId (.barpoll m)).getD 0 / 64) c fl) = u at *
  generalize noteTrigger ((dstId (.barpoll m)).getD 0 / 64) (myCore s) fl = d at *
  simp only [barEvent_noted arrival, barrierObject_noted arrival, leadOf_noted arrival, barrierOf_congr (congrArg _ arrival.hub)]
    at hx
  have hgang : (myCore u).gang = (myCore s).gang := by rw [arrival.myCore_eq]; rfl
  rw [hgang] at hx
  obtain ⟨held, hcur⟩ := noteBarrier_holds (o := barrierObject s (myCore s).gang (barHandle fl))
    (e := barEvent s fl fl.arrive 3 0 0) arrival raises hc
  refine ⟨_, hx, (held.thenWord hcur ..).1, fun hlead => ?_⟩
  rw [if_neg (Nat.not_lt.mpr hlead)]
  exact (held.thenWord hcur ..).2

end

/-! What an event does to the object's state (R346 to R349). -/

theorem barBreak_spec (live : List Nat) (b : BarState) : ∃ broken, barBreak live b = { b with broken := broken } := by
  unfold barBreak
  split
  · exact ⟨true, rfl⟩
  · exact ⟨b.broken, rfl⟩

theorem barBreak_broken {live : List Nat} {b : BarState} (h : b.broken = true) : (barBreak live b).broken = true := by
  unfold barBreak
  split
  · rfl
  · exact h

theorem barApply_arrival {b : BarState} {e : BarEvent} (live : List Nat) (he : e.kind = 1) :
    barApply live b e = (barBreak live (barComplete (barStep b e)).1, (barComplete (barStep b e)).2) := by
  unfold barApply
  rw [if_neg (by omega), if_neg (by omega), if_neg (by omega)]

theorem barStep_arrival {b : BarState} {e : BarEvent} (he : e.kind = 1) (hnew : barKey e ∉ b.arrivals) :
    ∃ ms, barStep b e =
      { b with arrived := b.arrived + 1, arrivals := b.arrivals ++ [barKey e], members := ms } := by
  unfold barStep
  rw [he]
  show ∃ ms, (if b.arrivals.contains (barKey e) then b else _) = _
  rw [if_neg (by rwa [List.contains_iff_mem])]
  exact ⟨_, rfl⟩

theorem barApply_arrival_completes {b : BarState} {e : BarEvent} (live : List Nat) (he : e.kind = 1) (hi : b.init = true)
    (hnew : barKey e ∉ b.arrivals) (hall : b.expected ≤ b.arrived + 1) :
    let r := barApply live b e
    r.1.gen = (b.gen + 1) % 2 ^ 16 ∧ r.1.arrived = 0 ∧ r.1.arrivals = [] ∧ r.2 = some (b.gen, b.arrivals ++ [barKey e]) := by
  obtain ⟨ms, hstep⟩ := barStep_arrival he hnew
  intro r
  show (barApply live b e).1.gen = _ ∧ (barApply live b e).1.arrived = 0 ∧ (barApply live b e).1.arrivals = [] ∧
    (barApply live b e).2 = _
  rw [barApply_arrival live he, hstep, barComplete, if_pos ⟨hi, hall⟩, barNext]
  obtain ⟨broken, hb⟩ := barBreak_spec live { b with
    gen := (b.gen + 1) % 2 ^ 16, arrived := 0, arrivals := [], members := ms }
  rw [hb]
  exact ⟨rfl, rfl, rfl, rfl⟩

theorem barApply_arrival_waits {b : BarState} {e : BarEvent} (live : List Nat) (he : e.kind = 1)
    (hnew : barKey e ∉ b.arrivals) (hmore : b.arrived + 1 < b.expected) :
    let r := barApply live b e
    r.1.gen = b.gen ∧ r.1.arrived = b.arrived + 1 ∧ r.1.arrivals = b.arrivals ++ [barKey e] ∧ r.2 = none := by
  obtain ⟨ms, hstep⟩ := barStep_arrival he hnew
  intro r
  show (barApply live b e).1.gen = _ ∧ (barApply live b e).1.arrived = _ ∧ (barApply live b e).1.arrivals = _ ∧
    (barApply live b e).2 = _
  rw [barApply_arrival live he, hstep, barComplete, if_neg fun h => Nat.not_le.mpr hmore h.2]
  obtain ⟨broken, hb⟩ := barBreak_spec live { b with
    arrived := b.arrived + 1, arrivals := b.arrivals ++ [barKey e], members := ms }
  rw [hb]
  exact ⟨rfl, rfl, rfl, rfl⟩

theorem barApply_init {b : BarState} {e : BarEvent} (live : List Nat) (he : e.kind = 0) :
    barApply live b e = ({ init := true, mode := e.b.testBit 0, scope := e.b.testBit 1, expected := e.a,
                           broken := !e.b.testBit 0 && decide (live.length < e.a) }, none) := by
  unfold barApply
  rw [if_neg (by omega), if_neg (by omega), if_pos he, barStep, he]
  unfold barBreak
  cases hmode : e.b.testBit 0 <;> by_cases hlive : live.length < e.a <;> simp [hlive]

/-! A completed generation goes on (R198, R346, R348). -/

theorem beside_postDeed (s : State) (k due ph : Nat) (d : Deed) : Beside s (postDeed s k due ph d) := beside_post ..

theorem postDeeds_mem (ks : List Nat) (s : State) (due ph : Nat) (d : Deed) (k : Nat) (hk : k ∈ ks) :
    ⟨.gang (coreOf s k).gang, due, ph, some k, .deed d⟩ ∈ (ks.foldl (fun s k => postDeed s k due ph d) s).agenda := by
  induction ks generalizing s with
  | nil => cases hk
  | cons j ks ih =>
    have rest : Beside (postDeed s j due ph d) (ks.foldl (fun s k => postDeed s k due ph d) (postDeed s j due ph d)) :=
      Beside.foldl (fun s k => beside_postDeed s k due ph d) ks _
    rcases List.mem_cons.mp hk with heq | hmem
    · subst heq
      exact rest.keeps _ (List.mem_append_right _ (List.mem_singleton_self _))
    · exact ih (postDeed s j due ph d) hmem

theorem postDeeds_hub (ks : List Nat) (s : State) (due ph : Nat) (d : Deed) :
    (ks.foldl (fun s k => postDeed s k due ph d) s).hub = s.hub := by
  induction ks generalizing s with
  | nil => rfl
  | cons j ks ih => exact ih _

/-- The change of a core when the generation `gen` of handle `h` goes on. -/
def leaveWait (h gen : Nat) (c : Core) : Core :=
  { c with waits := { c.waits with barriers := c.waits.barriers.filter fun w => decide (w.handle ≠ h ∨ w.gen ≠ gen) } }

/-- The cores of a generation's parties that are on this package. -/
def partyCores (s : State) (g : Nat) (ps : List Nat) : List Nat :=
  ps.filterMap fun key => if key / 1024 = chipOf s then coreAt s g (key % 1024) else none

/-- The die whose interval advances: that of the parties, when all of them are on one die of this package. -/
def partyDies (s : State) (g : Nat) (ps : List Nat) (sole : Bool) : List Nat :=
  if sole && (((partyCores s g ps).map (· / 128)).eraseDups).length == 1 then ((partyCores s g ps).map (· / 128)).eraseDups
  else []

/-- The state in which a completed generation has left the object and its waiters go on. -/
def generationLeft (s : State) (g h gen : Nat) (d : Nat × Nat × List Nat × Bool) : State :=
  let o := barrierObject s g h
  (gangCores s g).foldl (fun s k => modCore s k (leaveWait h gen))
    (setBarrier s o { barrierOf s o with done := (barrierOf s o).done.erase d })

theorem barrierResume_eq {s : State} {g h gen : Nat} {d : Nat × Nat × List Nat × Bool}
    (hd : (barrierOf s (barrierObject s g h)).done.find? (fun d => decide (d.1 = gen)) = some d) :
    exec (.barrierResume g h gen) s = .next (postGangDeed
      ((partyCores s g d.2.2.1).foldl (fun t k => postDeed t k (gangOf (generationLeft s g h gen d) g).gcyc phAdvance .interval)
        (generationLeft s g h gen d)) g (gangOf (generationLeft s g h gen d) g).gcyc phAdvance
      (.gangIntervals g (partyDies s g d.2.2.1 d.2.2.2) true false)) := by
  rw [exec_barrierResume, execBarrierResume]
  simp only [hd]
  rfl

theorem barrierResume_completes {s : State} {g h gen l : Nat} {ps : List Nat} {sole : Bool} (hc : canonical s) (hg : g ≠ noGang)
    (hd : (barrierOf s (barrierObject s g h)).done.find? (fun d => decide (d.1 = gen)) = some (gen, l, ps, sole)) :
    let o := barrierObject s g h
    let x := (gangOf s g).gcyc
    ∃ t dies, exec (.barrierResume g h gen) s = .next t ∧ t.gangs = s.gangs ∧ (∀ j ∈ s.agenda, j ∈ t.agenda) ∧
      (barrierOf t o).done = (barrierOf s o).done.erase (gen, l, ps, sole) ∧
      ⟨.gang g, x, phAdvance, none, .deed (.gangIntervals g dies true false)⟩ ∈ t.agenda ∧
      (∀ key k, key ∈ ps → key / 1024 = chipOf s → coreAt s g (key % 1024) = some k →
        ⟨.gang (coreOf s k).gang, x, phAdvance, some k, .deed .interval⟩ ∈ t.agenda) ∧
      (sole = false ∨ ps = [] → dies = []) ∧
      (∀ i k, sole = true → ps = [chipOf s * 1024 + i] → i < 1024 → coreAt s g i = some k → dies = [k / 128]) ∧
      ∀ j, coreOf t j = if (coreOf s j).gang = g then leaveWait h gen (coreOf s j) else coreOf s j := by
  intro o x
  have only := coresOnly_foldl_modCore (leaveWait h gen) (gangCores s g)
    (setBarrier s o { barrierOf s o with done := (barrierOf s o).done.erase (gen, l, ps, sole) })
  have cores (j : Nat) : coreOf (generationLeft s g h gen (gen, l, ps, sole)) j =
      if (coreOf s j).gang = g then leaveWait h gen (coreOf s j) else coreOf s j := by
    rw [generationLeft, coreOf_foldl_modCore _ _ _ _ (nodup_gangCores g hc)]
    simp only [mem_gangCores hc hg]
    rfl
  have eq := barrierResume_eq hd
  change CoresOnly _ (generationLeft s g h gen (gen, l, ps, sole)) at only
  generalize generationLeft s g h gen (gen, l, ps, sole) = u at *
  have hx : (gangOf u g).gcyc = x := by rw [gangOf, only.gangs]; rfl
  rw [hx] at eq
  dsimp only at eq
  have posts : Beside u ((partyCores s g ps).foldl (fun t k => postDeed t k x phAdvance .interval) u) :=
    Beside.foldl (fun s k => beside_postDeed s k ..) _ _
  have hub := postDeeds_hub (partyCores s g ps) u x phAdvance .interval
  have jobs := fun k => postDeeds_mem (partyCores s g ps) u x phAdvance .interval k
  generalize ((partyCores s g ps).foldl (fun t k => postDeed t k x phAdvance .interval) u) = v at *
  refine ⟨_, partyDies s g ps sole, eq, posts.gangs.trans only.gangs, fun j hj => ?_, ?_, ?_, fun key k hkey hchip hat => ?_, fun hno => ?_,
    fun i k hsole hps hi hat => ?_, fun j => ?_⟩
  · refine List.mem_append_left _ (posts.keeps j ?_)
    rw [only.agenda]
    exact hj
  · show (barrierOf v o).done = _
    rw [barrierOf_congr (s := setBarrier s o { barrierOf s o with done := (barrierOf s o).done.erase (gen, l, ps, sole) })
      (by rw [hub, only.hub]), barrierOf_setBarrier_self]
  · exact List.mem_append_right _ (List.mem_singleton_self _)
  · have hgang : (coreOf u k).gang = (coreOf s k).gang := by
      rw [cores]
      split <;> rfl
    refine List.mem_append_left _ (hgang ▸ jobs k ?_)
    exact List.mem_filterMap.mpr ⟨key, hkey, by rw [if_pos hchip, hat]⟩
  · rcases hno with hsole | hps
    · rw [partyDies, hsole]; rfl
    · rw [partyDies, hps]; cases sole <;> rfl
  · have hks : partyCores s g ps = [k] := by
      have hdiv : (chipOf s * 1024 + i) / 1024 = chipOf s := by omega
      have hmod : (chipOf s * 1024 + i) % 1024 = i := by omega
      rw [partyCores, hps, List.filterMap_cons, hdiv, hmod, if_pos rfl, hat]
      rfl
    rw [partyDies, hks, hsole]
    rfl
  · exact (posts.coreOf j).trans (cores j)

theorem barrierResume_none {s : State} {g h gen : Nat}
    (hno : ∀ e ∈ (barrierOf s (barrierObject s g h)).done, e.1 ≠ gen) : exec (.barrierResume g h gen) s = .next s := by
  have hd : (barrierOf s (barrierObject s g h)).done.find? (fun d => decide (d.1 = gen)) = none := by
    rw [List.find?_eq_none]
    intro e he
    simpa using hno e he
  rw [exec_barrierResume, execBarrierResume]
  simp only [hd]

end Sys2Proof.Machine
end

section
/-! PROOF. The barrier frames of the tree (R245). -/

namespace Sys2Proof.Machine

/-! Sending leaves the barrier objects. -/

/-- The step leaves cores, gangs and barrier objects, and keeps what is scheduled. -/
structure Told (s t : State) : Prop extends Beside s t where
  barriers : t.hub.barriers = s.hub.barriers
  chip : chipOf t = chipOf s

theorem Told.refl (s : State) : Told s s := ⟨.refl s, rfl, rfl⟩

theorem Told.trans {s t u : State} (h₁ : Told s t) (h₂ : Told t u) : Told s u :=
  ⟨h₁.toBeside.trans h₂.toBeside, h₂.barriers.trans h₁.barriers, h₂.chip.trans h₁.chip⟩

theorem Told.foldl {α : Type} {f : State → α → State} (h : ∀ s a, Told s (f s a)) (as : List α) (s : State) :
    Told s (as.foldl f s) := by
  induction as generalizing s with
  | nil => exact .refl s
  | cons a as ih => exact (h s a).trans (ih (f s a))

theorem told_post (s : State) (j : Job) : Told s (post s j) := ⟨beside_post s j, rfl, rfl⟩

theorem told_wakeLane (s : State) (n : Nat) : Told s (wakeLane s n) := by
  unfold wakeLane
  split
  · exact .refl s
  · exact told_post ..

theorem told_setFab (s : State) {f : Fabric} (h : f.chip = chipOf s) : Told s (setFab s f) := ⟨beside_setFab s f, rfl, h⟩

theorem told_leekForward (s : State) (i : LeekItem) : Told s (leekForward s i) := by
  unfold leekForward
  dsimp only
  split
  · refine Told.trans ?_ (told_wakeLane ..)
    exact told_setFab s rfl
  · split
    · refine Told.trans ?_ (told_post ..)
      exact told_setFab s rfl
    · exact told_setFab s rfl

theorem told_leekSend (s : State) (g dst : Nat) (i : Instr) : Told s (leekSend s g dst i) := by
  unfold leekSend
  split
  · exact told_post ..
  · exact told_leekForward ..

theorem told_tellTree (s : State) (g h count latest : Nat) : Told s (tellTree s g h count latest) :=
  Told.foldl (fun s m => told_leekSend s g m (.barrier g h (chipOf s) count latest)) _ s

theorem Told.barrierOf {s t : State} (h : Told s t) (o : Nat) : barrierOf t o = barrierOf s o := barrierOf_congr h.barriers o

theorem Beside.canonical {s t : State} (h : Beside s t) (hc : canonical s) : canonical t := by
  rw [Machine.canonical, h.cores, h.gangs]
  exact hc

/-! A change of the waits of a gang's cores. -/

/-- The change of one core's waits on handle `h`. -/
def mapWait (h : Nat) (f : BarWait → BarWait) (c : Core) : Core :=
  { c with waits := { c.waits with barriers := c.waits.barriers.map fun w => if w.handle = h then f w else w } }

theorem mapWaits_only (s : State) (g h : Nat) (f : BarWait → BarWait) : CoresOnly s (mapWaits s g h f) :=
  coresOnly_foldl_modCore (mapWait h f) _ s

theorem coreOf_mapWaits {s : State} {g : Nat} (h : Nat) (f : BarWait → BarWait) (hc : canonical s) (hg : g ≠ noGang) (j : Nat) :
    coreOf (mapWaits s g h f) j = if (coreOf s j).gang = g then mapWait h f (coreOf s j) else coreOf s j :=
  coreOf_foldl_gangCores (mapWait h f) hc hg j

theorem canonical_foldl_modCore (f : Core → Core) (ks : List Nat) {s : State} (hc : canonical s) :
    canonical (ks.foldl (fun s k => modCore s k f) s) := by
  induction ks generalizing s with
  | nil => exact hc
  | cons k ks ih => exact ih (canonical_modCore k f hc)

theorem canonical_mapWaits {s : State} (g h : Nat) (f : BarWait → BarWait) (hc : canonical s) : canonical (mapWaits s g h f) :=
  canonical_foldl_modCore (mapWait h f) _ hc

theorem mapWait_id {h : Nat} {f : BarWait → BarWait} {c : Core} (hid : ∀ w ∈ c.waits.barriers, w.handle = h → f w = w) :
    mapWait h f c = c := by
  have hmap : (c.waits.barriers.map fun w => if w.handle = h then f w else w) = c.waits.barriers := by
    refine (List.map_congr_left fun w hw => ?_).trans (List.map_id _)
    show (if w.handle = h then f w else w) = w
    split
    · exact hid w hw ‹_›
    · rfl
  rw [mapWait, hmap]

/-! A generation's completion (R346, R348). -/

/-- The wait goes on at cycle `r`. -/
def resumeWait (gen r : Nat) (w : BarWait) : BarWait := if w.gen = gen then { w with resume := some r } else w

theorem barrierCompleted_spec {s : State} {g o l gen expected : Nat} {scope : Bool} {ps : List Nat} (hc : canonical s)
    (hg : g ≠ noGang) :
    let t := barrierCompleted s g o l gen expected scope ps
    ⟨.gang g, l + (gangOf s g).h, phDone, none, .event (.barrierResume g (o % 64) gen)⟩ ∈ t.agenda ∧
      ∀ j, coreOf t j = if (coreOf s j).gang = g then
        mapWait (o % 64) (resumeWait gen (l + (gangOf s g).h)) (coreOf s j) else coreOf s j := by
  intro t
  let b := barrierOf s o
  let u := setBarrier s o { b with
    done := b.done ++ [(gen, l, ps, ps.all fun key => decide (key / 1024 = chipOf s))], forwarded := false, children := []
    ended := l :: b.ended.filter fun e => decide (l ≤ e + barReach s g) }
  let v := postGang (mapWaits u g (o % 64) (resumeWait gen (l + (gangOf s g).h))) g (l + (gangOf s g).h) phDone
    (.barrierResume g (o % 64) gen)
  have cores (j : Nat) := coreOf_mapWaits (s := u) (o % 64) (resumeWait gen (l + (gangOf s g).h)) hc hg j
  have sends : Beside v t := by
    show Beside v (if scope && treeRoot v g then tellTree v g (o % 64) (max expected ps.length) l else v)
    split
    · exact beside_tellTree ..
    · exact .refl v
  refine ⟨sends.keeps _ (List.mem_append_right _ (List.mem_singleton_self _)), fun j => ?_⟩
  rw [sends.coreOf]
  exact cores j

/-! An event of the tree applied to an object with none of its cycle. -/

theorem barrierReport_none {s : State} {g h x : Nat} {after : BarState} {em : BarEvent × BarState}
    (hk : em.1.kind = 5 ∨ em.1.kind = 6) (hchip : em.1.chip ≠ chipOf s) : barrierReport s g h x after em = s := by
  have hnone : eventCore s g em.1 = none := if_neg hchip
  unfold barrierReport
  dsimp only
  rw [hnone]
  rcases hk with hk | hk
  · rw [hk]
    rfl
  · rw [hk]
    rfl

theorem told_barrierStarves (s : State) (g h x : Nat) (b : BarState) : Told s (barrierStarves s g h x b) := by
  unfold barrierStarves
  dsimp only
  have faults := Told.foldl (fun t k => told_post t _) (waitersOf s g h) s
    (f := fun t k => postDeed t k (x + (gangOf t g).h) phRegister (.barrierFault h 1 true))
  split
  · exact faults.trans (told_tellTree ..)
  · exact faults

theorem barrierCycle_of_tree {s : State} {g o x : Nat} {e : BarEvent}
    (hes : (barrierOf s o).events.filter (fun e => decide (e.cycle = x)) = [e]) (hk : e.kind = 5 ∨ e.kind = 6)
    (hchip : e.chip ≠ chipOf s) :
    ∃ live v, let r := barApply live (barrierAt (barrierOf s o) (x - 1)) e
      Beside s v ∧ (barrierOf v o).states = (x, r.1) :: (barrierOf s o).states ∧
      barrierCycle s g o x = r.2.toList.foldl (fun t d => barrierCompleted t g o x d.1 r.1.expected r.1.scope d.2) v := by
  let before := barrierAt (barrierOf s o) (x - 1)
  let live := liveAt s g x (before.scope || ([e].any fun e => decide (e.kind = 0) && e.b.testBit 1))
  let r := barApply live before e
  let u := setBarrier s o { barrierOf s o with states := (x, r.1) :: (barrierOf s o).states }
  have report : barrierReport u g (o % 64) x r.1 (e, before) = u := barrierReport_none hk hchip
  have starves : Told u (if r.1.broken ∧ !before.broken then barrierStarves u g (o % 64) x r.1 else u) := by
    split
    · exact told_barrierStarves ..
    · exact .refl u
  have begun : Beside s u := ⟨rfl, rfl, rfl, fun _ h => h⟩
  refine ⟨live, if r.1.broken ∧ !before.broken then barrierStarves u g (o % 64) x r.1 else u,
    begun.trans starves.toBeside, ?_, ?_⟩
  · rw [starves.barrierOf]
    exact congrArg Barrier.states (barrierOf_setBarrier_self ..)
  · unfold barrierCycle
    simp only [hes, List.foldl_cons, List.foldl_nil, insertEvent, barFold, barMeets, List.append_nil]
    rw [report]

theorem filter_append_latest {es : List BarEvent} {e : BarEvent} (hes : ∀ f ∈ es, f.cycle < e.cycle) (p : BarEvent → Bool)
    (hp : ∀ f, p f = true → e.cycle ≤ f.cycle) (he : p e = true) : (es ++ [e]).filter p = [e] := by
  have hnone : es.filter p = [] := by
    rw [List.filter_eq_nil_iff]
    intro f hf hpf
    exact absurd (hp f hpf) (Nat.not_le.mpr (hes f hf))
  rw [List.filter_append, hnone, List.filter_cons_of_pos he]
  rfl

theorem eventCycles_append_latest {es : List BarEvent} {e : BarEvent} {y : Nat} (hes : ∀ f ∈ es, f.cycle < e.cycle)
    (hy : e.cycle ≤ y) : eventCycles (es ++ [e]) e.cycle y = [e.cycle] := by
  unfold eventCycles
  rw [filter_append_latest hes]
  · rfl
  · exact fun f hf => (of_decide_eq_true hf).1
  · exact decide_eq_true ⟨Nat.le_refl _, hy⟩

/-- With no later state, an object's state is the same from the cycle before on. -/
theorem barrierAt_eq {b b' : Barrier} {x y : Nat} (hstates : b'.states = b.states) (h : ∀ p ∈ b.states, p.1 < x) (hy : x ≤ y) :
    barrierAt b' (x - 1) = barrierAt b y := by
  rw [barrierAt, barrierAt, hstates]
  cases hs : b.states with
  | nil => rfl
  | cons p ps =>
    have hp : p.1 < x := h p (hs ▸ List.mem_cons_self ..)
    rw [List.find?_cons_of_pos (by simp; omega), List.find?_cons_of_pos (by simp; omega)]

/-- Nothing of an object lies at or after cycle `x`: going back to before it changes its evaluation alone. -/
theorem barrierUnwind_spec {s : State} {g o x : Nat} (hc : canonical s) (hg : g ≠ noGang)
    (hstates : ∀ p ∈ (barrierOf s o).states, p.1 < x)
    (hwaits : ∀ k, (coreOf s k).gang = g → ∀ w ∈ (coreOf s k).waits.barriers, w.handle = o % 64 → w.resume = none) :
    let t := barrierUnwind s g o x
    (∀ j, coreOf t j = coreOf s j) ∧ canonical t ∧ t.gangs = s.gangs ∧ chipOf t = chipOf s ∧
      (barrierOf t o).states = (barrierOf s o).states ∧ (barrierOf t o).events = (barrierOf s o).events := by
  intro t
  let b := barrierOf s o
  let u := setBarrier s o { b with
    states := b.states.filter fun p => decide (p.1 < x), done := b.done.filter fun d => decide (d.2.1 < x)
    ended := b.ended.filter fun e => decide (e < x) }
  let f := fun w : BarWait => if w.resume.any fun r => decide (x + (gangOf s g).h ≤ r) then { w with resume := none } else w
  obtain ⟨v, hv, hcores, hgangs, hhub⟩ : ∃ v, t = mapWaits v g (o % 64) f ∧ v.cores = s.cores ∧ v.gangs = s.gangs ∧ v.hub = u.hub :=
    ⟨_, rfl, rfl, rfl, rfl⟩
  have hcanon : canonical v := by rw [canonical, hcores, hgangs]; exact hc
  have only := mapWaits_only v g (o % 64) f
  have hobj : barrierOf (mapWaits v g (o % 64) f) o = barrierOf u o := barrierOf_congr (by rw [only.hub, hhub]) o
  rw [hv]
  refine ⟨fun j => ?_, canonical_mapWaits g _ f hcanon, only.gangs.trans hgangs, ?_, ?_, ?_⟩
  · rw [coreOf_mapWaits _ _ hcanon hg, coreOf_congr hcores]
    split
    · refine mapWait_id fun w hw hh => ?_
      have hnone : w.resume = none := hwaits j ‹_› w hw hh
      show (if w.resume.any _ then _ else w) = w
      rw [hnone]
      rfl
    · rfl
  · rw [chipOf, fabOf, only.hub, hhub]; rfl
  · rw [hobj, barrierOf_setBarrier_self]
    exact List.filter_eq_self.mpr fun p hp => decide_eq_true (hstates p hp)
  · rw [hobj, barrierOf_setBarrier_self]

theorem barrierForward_states (s : State) (g o : Nat) : (barrierOf (barrierForward s g o) o).states = (barrierOf s o).states := by
  unfold barrierForward
  dsimp only
  split
  · rfl
  · split
    · rw [(told_leekSend ..).barrierOf, barrierOf_setBarrier_self]
    · rfl

/-! The frames themselves. -/

theorem barrierObject_handle (s : State) (g : Nat) {h : Nat} (hh : h < 64) : barrierObject s g h % 64 = h := by
  rw [barrierObject]; omega

/-- The event of a frame from the parent. -/
def treeEvent (latest expected count : Nat) : BarEvent := ⟨latest, 4096, 0, if expected ≤ count then 5 else 6, 0, 0, 0, 0, 0⟩

section

variable {s : State} {g h chip : Nat} (count : Nat) {latest : Nat} (hchild : chip ∉ treeChildren s g)
include hchild

theorem barrier_told (hend : latest ∈ (barrierOf s (barrierObject s g h)).ended) :
    ∃ t, exec (.barrier g h chip count latest) s = .next t ∧ t.cores = s.cores ∧ t.gangs = s.gangs ∧
      barrierOf t (barrierObject s g h) = barrierOf s (barrierObject s g h) := by
  have told := told_tellTree s g (barrierObject s g h % 64) count latest
  refine ⟨_, ?_, told.cores, told.gangs, told.barrierOf _⟩
  rw [exec_barrier, execBarrier, if_neg (by rwa [List.contains_iff_mem])]
  dsimp only
  rw [if_pos (by rwa [List.contains_iff_mem])]

/-- A frame of the parent for a past cycle that the object has no event of, or after. -/
theorem barrier_of_parent (hend : latest ∉ (barrierOf s (barrierObject s g h)).ended) (hpast : latest < (gangOf s g).gcyc)
    (hev : ∀ e ∈ (barrierOf s (barrierObject s g h)).events, e.cycle < latest) :
    let o := barrierObject s g h
    let e := treeEvent latest (barrierAt (barrierOf s o) (gangOf s g).gcyc).expected count
    ∃ u, u.cores = s.cores ∧ u.gangs = s.gangs ∧ chipOf u = chipOf s ∧
      barrierOf u o = { barrierOf s o with events := (barrierOf s o).events ++ [e] } ∧
      exec (.barrier g h chip count latest) s =
        .next (barrierForward (barrierCycle (barrierUnwind u g o latest) g o latest) g o) := by
  intro o e
  have told := told_tellTree s g (o % 64) count latest
  let t := tellTree s g (o % 64) count latest
  let u := setBarrier t o { barrierOf t o with events := (barrierOf t o).events ++ [e] }
  have hg : gangOf t g = gangOf s g := told.gangOf g
  have hx : exec (.barrier g h chip count latest) s = .next (noteBarrier t g o e) := by
    rw [exec_barrier, execBarrier, if_neg (by rwa [List.contains_iff_mem])]
    dsimp only
    rw [if_neg (by rwa [List.contains_iff_mem])]
    rfl
  have hu : barrierOf u o = { barrierOf s o with events := (barrierOf s o).events ++ [e] } := by
    rw [barrierOf_setBarrier_self, told.barrierOf]
  refine ⟨u, told.cores, told.gangs, told.chip, hu, ?_⟩
  have hrun : barrierRun u g o latest = barrierCycle (barrierUnwind u g o latest) g o latest := by
    have hcycles : eventCycles (barrierOf u o).events latest (gangOf u g).gcyc = [latest] := by
      rw [hu]
      refine eventCycles_append_latest (e := e) hev ?_
      show latest ≤ (gangOf t g).gcyc
      rw [hg]
      exact Nat.le_of_lt hpast
    rw [barrierRun, hcycles]
    rfl
  rw [hx, ← hrun]
  have hlt : e.cycle < (gangOf u g).gcyc := by
    show latest < (gangOf t g).gcyc
    rw [hg]
    exact hpast
  unfold noteBarrier
  dsimp only
  rw [if_pos hlt]
  rfl

section

variable (hc : canonical s) (hg : g ≠ noGang) (hh : h < 64) (hchip : chipOf s < 4096)
  (hend : latest ∉ (barrierOf s (barrierObject s g h)).ended) (hpast : latest < (gangOf s g).gcyc)
  (hev : ∀ e ∈ (barrierOf s (barrierObject s g h)).events, e.cycle < latest)
  (hst : ∀ p ∈ (barrierOf s (barrierObject s g h)).states, p.1 < latest)
  (hw : ∀ k, (coreOf s k).gang = g → ∀ w ∈ (coreOf s k).waits.barriers, w.handle = h → w.resume = none)
include hc hg hh hchip hend hpast hev hst hw

/-- What a parent's frame leads to: the state in which its one event has been applied. -/
theorem barrier_applied :
    let o := barrierObject s g h
    let st := barrierAt (barrierOf s o) (gangOf s g).gcyc
    ∃ live v, let r := barApply live st (treeEvent latest st.expected count)
      canonical v ∧ (∀ j, coreOf v j = coreOf s j) ∧ v.gangs = s.gangs ∧
      (∃ ps, (barrierOf v o).states = (latest, r.1) :: ps) ∧
      exec (.barrier g h chip count latest) s = .next (barrierForward
        (r.2.toList.foldl (fun t d => barrierCompleted t g o latest d.1 r.1.expected r.1.scope d.2) v) g o) := by
  intro o st
  obtain ⟨u, hucores, hugangs, huchip, hub, hx⟩ := barrier_of_parent count hchild hend hpast hev
  have hucanon : canonical u := by rw [canonical, hucores, hugangs]; exact hc
  obtain ⟨hwcores, hwcanon, hwgangs, hwchip, hwstates, hwevents⟩ := barrierUnwind_spec (s := u) (o := o) (x := latest) hucanon hg
    (by rw [hub]; exact hst) (fun k hk w hwm => by
      rw [coreOf_congr hucores] at hk hwm
      rw [barrierObject_handle s g hh]
      exact hw k hk w hwm)
  obtain ⟨live, v, beside, hvstates, hcycle⟩ := barrierCycle_of_tree (s := barrierUnwind u g o latest) (g := g) (o := o)
    (x := latest) (e := treeEvent latest st.expected count)
    (by
      rw [hwevents, hub]
      exact filter_append_latest hev _ (fun f hf => Nat.le_of_eq (of_decide_eq_true hf).symm) (decide_eq_true rfl))
    (by unfold treeEvent; split <;> simp)
    (by
      rw [hwchip, huchip]
      exact (Nat.ne_of_lt hchip).symm)
  have hbefore : barrierAt (barrierOf (barrierUnwind u g o latest) o) (latest - 1) = st :=
    barrierAt_eq (by rw [hwstates, hub]) hst (Nat.le_of_lt hpast)
  rw [hbefore] at hvstates hcycle
  refine ⟨live, v, beside.canonical hwcanon, fun j => ?_, beside.gangs.trans (hwgangs.trans hugangs), ⟨_, hvstates⟩, ?_⟩
  · rw [beside.coreOf, hwcores, coreOf_congr hucores]
  · rw [hx, hcycle]

theorem barrier_completes (hall : (barrierAt (barrierOf s (barrierObject s g h)) (gangOf s g).gcyc).expected ≤ count) :
    let st := barrierAt (barrierOf s (barrierObject s g h)) (gangOf s g).gcyc
    ∃ t, exec (.barrier g h chip count latest) s = .next t ∧
      ⟨.gang g, latest + (gangOf s g).h, phDone, none, .event (.barrierResume g h st.gen)⟩ ∈ t.agenda ∧
      ∀ j, coreOf t j = if (coreOf s j).gang = g then
        mapWait h (resumeWait st.gen (latest + (gangOf s g).h)) (coreOf s j) else coreOf s j := by
  intro st
  obtain ⟨live, v, hcanon, hcores, hgangs, -, hx⟩ := barrier_applied count hchild hc hg hh hchip hend hpast hev hst hw
  have hr : barApply live st (treeEvent latest st.expected count) = (barBreak live (barNext st).1, some (st.gen, st.arrivals)) := by
    rw [treeEvent, if_pos hall]
    rfl
  rw [hr] at hx
  obtain ⟨hjob, hwaits⟩ := barrierCompleted_spec (s := v) (o := barrierObject s g h) (l := latest) (gen := st.gen)
    (expected := (barBreak live (barNext st).1).expected) (scope := (barBreak live (barNext st).1).scope)
    (ps := st.arrivals) hcanon hg
  have forward := beside_barrierForward (barrierCompleted v g (barrierObject s g h) latest st.gen
    (barBreak live (barNext st).1).expected (barBreak live (barNext st).1).scope st.arrivals) g (barrierObject s g h)
  have hgang : gangOf v g = gangOf s g := by rw [gangOf, hgangs, gangOf]
  rw [hgang, barrierObject_handle s g hh] at hjob hwaits
  refine ⟨_, hx, forward.keeps _ hjob, fun j => ?_⟩
  rw [← hcores]
  exact (forward.coreOf j).trans (hwaits j)

theorem barrier_breaks
    (hfew : count < (barrierAt (barrierOf s (barrierObject s g h)) (gangOf s g).gcyc).expected)
    (hmore : (barrierAt (barrierOf s (barrierObject s g h)) (gangOf s g).gcyc).arrived <
      (barrierAt (barrierOf s (barrierObject s g h)) (gangOf s g).gcyc).expected) :
    ∃ t, exec (.barrier g h chip count latest) s = .next t ∧ (∀ j, coreOf t j = coreOf s j) ∧
      (barrierAt (barrierOf t (barrierObject s g h)) latest).broken = true := by
  obtain ⟨live, v, -, hcores, -, ⟨ps, hstates⟩, hx⟩ := barrier_applied count hchild hc hg hh hchip hend hpast hev hst hw
  generalize barrierAt (barrierOf s (barrierObject s g h)) (gangOf s g).gcyc = st at *
  have hr : barApply live st (treeEvent latest st.expected count) = (barBreak live { st with broken := true }, none) := by
    have hstep : barStep st (treeEvent latest st.expected count) = { st with broken := true } := by
      rw [treeEvent, if_neg (Nat.not_le.mpr hfew)]
      rfl
    have hkind : (treeEvent latest st.expected count).kind = 6 := if_neg (Nat.not_le.mpr hfew)
    have hwaits : barComplete { st with broken := true } = ({ st with broken := true }, none) :=
      if_neg fun h => Nat.not_le.mpr hmore h.2
    unfold barApply
    rw [hkind, hstep, hwaits]
    rfl
  rw [hr] at hx hstates
  have forward := beside_barrierForward v g (barrierObject s g h)
  refine ⟨_, hx, fun j => (forward.coreOf j).trans (hcores j), ?_⟩
  show (barrierAt (barrierOf (barrierForward v g (barrierObject s g h)) (barrierObject s g h)) latest).broken = true
  rw [barrierAt, barrierForward_states, hstates, List.find?_cons_of_pos (by simp)]
  exact barBreak_broken rfl

end

end

theorem barrier_of_child_past {s : State} {g h chip latest : Nat} (count : Nat) (hchild : chip ∈ treeChildren s g)
    (hend : ∃ l ∈ (barrierOf s (barrierObject s g h)).ended, latest ≤ l) :
    exec (.barrier g h chip count latest) s = .next s := by
  obtain ⟨l, hl, hle⟩ := hend
  rw [exec_barrier, execBarrier, if_pos (by rwa [List.contains_iff_mem])]
  dsimp only
  rw [if_pos (List.any_eq_true.mpr ⟨l, hl, decide_eq_true hle⟩)]

theorem barrierForward_clear {s : State} {g o : Nat} (hi : (barrierAt (barrierOf s o) (gangOf s g).gcyc).init = false) :
    barrierForward s g o = s := by
  unfold barrierForward
  dsimp only
  split
  · rfl
  · rw [if_neg fun h => Bool.false_ne_true (hi.symm.trans h.1)]

theorem barrier_of_child_clear {s : State} {g h chip latest : Nat} (count : Nat) (hchild : chip ∈ treeChildren s g)
    (hend : ∀ l ∈ (barrierOf s (barrierObject s g h)).ended, l < latest)
    (hi : (barrierAt (barrierOf s (barrierObject s g h)) (gangOf s g).gcyc).init = false) :
    exec (.barrier g h chip count latest) s = .next (setBarrier s (barrierObject s g h) { barrierOf s (barrierObject s g h) with
      children := (barrierOf s (barrierObject s g h)).children ++ [(chip, count, latest)] }) := by
  have hno : ¬((barrierOf s (barrierObject s g h)).ended.any fun l => decide (latest ≤ l)) = true := by
    rw [List.any_eq_true]
    rintro ⟨l, hl, hle⟩
    exact Nat.not_le.mpr (hend l hl) (of_decide_eq_true hle)
  rw [exec_barrier, execBarrier, if_pos (by rwa [List.contains_iff_mem])]
  dsimp only
  rw [if_neg hno, if_neg (Bool.eq_false_iff.mp hi), barrierForward_clear]
  rw [barrierOf_setBarrier_self]
  exact hi

theorem mapWait_resume (h gen r : Nat) (c : Core) :
    mapWait h (resumeWait gen r) c = { c with waits := { c.waits with barriers := c.waits.barriers.map fun w =>
      if w.handle = h ∧ w.gen = gen then { w with resume := some r } else w } } := by
  have hf : (fun w : BarWait => if w.handle = h then resumeWait gen r w else w) =
      fun w => if w.handle = h ∧ w.gen = gen then { w with resume := some r } else w := by
    funext w
    unfold resumeWait
    split_ifs <;> simp_all
  rw [mapWait, hf]

/-- Settles O26: a trigger notes its event on the object, an event completes its generation with the last arrival, and the
frames of the tree complete or break it. -/
theorem barriersCountArrivals : Obligations.BarriersCountArrivals := by
  unfold Obligations.BarriersCountArrivals
  refine ⟨⟨fun s fl m h => ?_, fun b e live he hi hnew => ⟨?_, ?_⟩, fun b e live he => barApply_init live he⟩,
    fun s g h gen l ps sole hc hg hd => barrierResume_completes hc hg hd, fun s g h gen hno => barrierResume_none hno,
    fun s g h chip count latest hc hg hchild hh hchip => ⟨barrier_told count hchild, fun hend hpast hev hst hw => ⟨?_, ?_⟩⟩,
    fun s g h chip count latest hchild => ⟨barrier_of_child_past count hchild, fun hend hi => ?_⟩⟩
  · intro c h' o a hc notes
    have of_holds {i : Instr} {cycle kind p q : Nat}
        (H : ∃ t, exec i s = .next t ∧ HoldsEvent s t o (barEvent s fl cycle kind p q)) : notes i cycle kind p q := by
      obtain ⟨t, hx, hraises, hcore, hothers, hgangs, hobjects, hevent, hjob, hkeeps⟩ := H
      exact ⟨t, hx, hraises, hcore, hothers, hgangs, hobjects, hevent, hjob, hkeeps⟩
    obtain ⟨t, hx, held, hword⟩ := barpoll_notes m h hc
    have ho : barrierObject s (myCore s).gang (barHandle fl) = o := barrierObject_mod ..
    have hword' (b : Nat) : (BitVec.ofNat 64 b).setWidth 2048 = BitVec.ofNat 2048 (b % 2 ^ 64) :=
      BitVec.eq_of_toNat_eq (by simp)
    rw [ho] at held hword
    refine ⟨fun he => of_holds (ho ▸ barinit_notes m h hc he), of_holds (ho ▸ barrive_notes m h hc), of_holds ⟨t, hx, held⟩,
      fun t' hx' hlead => ?_⟩
    rw [hx] at hx'
    cases hx'
    rw [← hword']
    exact hword hlead
  · exact barApply_arrival_completes live he hi hnew
  · exact barApply_arrival_waits live he hnew
  · intro hall
    have done := barrier_completes count hchild hc hg hh hchip hend hpast hev hst hw hall
    simp only [mapWait_resume] at done
    exact done
  · exact barrier_breaks count hchild hc hg hh hchip hend hpast hev hst hw
  · exact ⟨_, barrier_of_child_clear count hchild hend hi, rfl, rfl, by rw [barrierOf_setBarrier_self]⟩

end Sys2Proof.Machine
end

section
/-! PROOF. The control registers: CSRR and CSRW (R136, R145, R355, R356). -/

namespace Sys2Proof.Machine

theorem exec_csrr (m : Mv) (s : State) : exec (.csrr m) s = execCsrr m s := rfl
theorem exec_csrw (m : Mv) (s : State) : exec (.csrw m) s = execCsrw m s := rfl

/-- A CSR's value does not depend on the notes of who delivered and what was raised. -/
theorem csrRead_noted {s u : State} {d : Core} (own : OwnStep s u (noted (myCore s) d) []) (n : Nat) :
    csrRead u (me u) n = csrRead s (me s) n := by
  obtain ⟨pod, cores, gangs, hub, agenda, issuing, phase, cur⟩ := u
  obtain rfl : hub = s.hub := own.hub
  obtain rfl : gangs = s.gangs := own.gangs
  obtain rfl : pod = s.pod := own.pod
  have hcore := own.core
  rw [own.me_eq]
  unfold csrRead
  rw [hcore]
  rfl

/-- A trigger of a register that is not there: nothing is scheduled and the privilege fault is raised. -/
theorem csrFault_raised {i : Instr} {m : Mv} {s : State} {fl : Flight} {f : Flight → State → State} (h : s.cur.flight = some fl)
    (hx : exec i s = trigger i m s f) (hlive : (myCore s).frozenAt = none)
    (hf : ∀ u d, OwnStep s u (noted (myCore s) d) [] → f fl u = csrFault u fl) :
    ∃ t, exec i s = .next t ∧ t.agenda = s.agenda ∧
      ∃ r ∈ (coreOf t (me s)).raised, r.code = 0x1D ∧ r.a = BitVec.ofNat 64 (csrNumber fl) := by
  have arrival := ownStep_noteTrigger ((dstId i).getD 0 / 64) fl s
  rw [trigger_arrival _ _ _ _ _ h, hf _ _ arrival] at hx
  generalize (modMe s fun c => noteTrigger ((dstId i).getD 0 / 64) c fl) = u at *
  generalize noteTrigger ((dstId i).getD 0 / 64) (myCore s) fl = d at *
  have whole := arrival.thenMod fun c => raiseFor c fl [] 0x1D (BitVec.ofNat 64 (csrNumber fl)) 0 0
  have hlive' : (noted (myCore s) d).frozenAt = none := hlive
  obtain ⟨r, hr, hcode, ha, -⟩ := raiseFor_mem fl 0x1D (BitVec.ofNat 64 (csrNumber fl)) 0 0 hlive'
  exact ⟨_, hx, whole.agenda.trans (List.append_nil _), r, by rw [csrFault, whole.core]; exact hr, hcode, ha⟩

section

variable {s : State} {fl : Flight} (m : Mv) (h : s.cur.flight = some fl)
include h

theorem csrr_completes (hn : csrRead s (me s) (csrNumber fl) ≠ none) :
    Completes (.csrr m) s (myCore s) [ownJob s (fl.arrive + 1) phSample (.deed (.csrr (csrNumber fl)))] := by
  refine completes_of_schedules h (exec_csrr m s) fun u d own => ?_
  have hsome : ¬(csrRead u (me u) (csrNumber fl)).isNone = true := by
    rw [csrRead_noted own, Option.isNone_iff_eq_none]
    exact hn
  have step := ownStep_postDeed u (fl.arrive + 1) phSample (.csrr (csrNumber fl))
  rw [own.ownJob_eq rfl] at step
  simp only [if_neg hsome]
  exact step

theorem csrw_completes (hn : csrWritable (csrNumber fl) = true) :
    Completes (.csrw m) s (myCore s) [ownJob s (fl.arrive + 1) (if csrNumber fl = 0x021 then phSample + 1 else phEnd)
      (.deed (.csrw (csrNumber fl) (portOf (myCore s) 0x3C0)))] := by
  refine completes_of_schedules h (exec_csrw m s) fun u d own => ?_
  have hport : portOf (myCore u) 0x3C0 = portOf (myCore s) 0x3C0 := by rw [own.myCore_eq]; rfl
  have step := ownStep_postDeed u (fl.arrive + 1) (if csrNumber fl = 0x021 then phSample + 1 else phEnd)
    (.csrw (csrNumber fl) (portOf (myCore s) 0x3C0))
  rw [own.ownJob_eq rfl] at step
  simp only [if_pos hn, hport]
  exact step

theorem csrr_refused (hlive : (myCore s).frozenAt = none) (hn : csrRead s (me s) (csrNumber fl) = none) :
    ∃ t, exec (.csrr m) s = .next t ∧ t.agenda = s.agenda ∧
      ∃ r ∈ (coreOf t (me s)).raised, r.code = 0x1D ∧ r.a = BitVec.ofNat 64 (csrNumber fl) := by
  refine csrFault_raised h (exec_csrr m s) hlive fun u d own => if_pos ?_
  rw [csrRead_noted own, hn]
  rfl

theorem csrw_refused (hlive : (myCore s).frozenAt = none) (hn : csrWritable (csrNumber fl) = false) :
    ∃ t, exec (.csrw m) s = .next t ∧ t.agenda = s.agenda ∧
      ∃ r ∈ (coreOf t (me s)).raised, r.code = 0x1D ∧ r.a = BitVec.ofNat 64 (csrNumber fl) :=
  csrFault_raised h (exec_csrw m s) hlive fun _ _ _ => if_neg (Bool.eq_false_iff.mp hn)

end

/-! The write itself. -/

theorem csrWrite_other {n : Nat} (c : Core) (v : Word) (hn : csrWritable n = false) : csrWrite c n v = c := by
  simp only [csrWritable, Bool.or_eq_false_iff, Bool.and_eq_false_iff, beq_eq_false_iff_ne, decide_eq_false_iff_not] at hn
  obtain ⟨⟨⟨⟨⟨⟨⟨h3, h15⟩, h20⟩, h21⟩, h40⟩, h42⟩, h82⟩, hwatch⟩ := hn
  unfold csrWrite
  rw [if_neg h3, if_neg h15, if_neg h20, if_neg h21, if_neg h40, if_neg h42, if_neg h82, if_neg (by omega), if_neg (by omega),
    if_neg (by omega)]

theorem reseed_ne_zero (seed : BitVec 32) (unit idx : Nat) : reseed seed unit idx ≠ 0 := by
  unfold reseed
  dsimp only
  split
  · decide
  · assumption

/-- Settles O27: the two triggers, the sample, the values of the map, and the write. -/
theorem controlRegistersReadAndWrite : Obligations.ControlRegistersReadAndWrite := by
  unfold Obligations.ControlRegistersReadAndWrite
  refine ⟨fun s fl m h => ⟨csrr_completes m h, csrw_completes m h, fun hlive => ⟨csrr_refused m h hlive, csrw_refused m h hlive⟩⟩,
    fun s k n v hv => ?sample, fun s k => ⟨rfl, rfl, rfl, rfl, rfl, rfl, rfl⟩, fun s k n v => ?write⟩
  case sample =>
    have hx : performDeed s k (.csrr n) =
        postCore s k (gcycOf s k + 1) phDone (.event (.operationComplete k .sy (BitVec.ofNat 2048 v) 0)) := by
      show csrSample s k n = _
      rw [csrSample, hv]
    dsimp only
    rw [hx]
    exact ⟨rfl, rfl, rfl⟩
  case write =>
    intro c d
    have hd : d = csrWrite c n v := coreOf_modCore_self ..
    rw [hd]
    refine ⟨fun hn => ?_, fun hn => ?_, fun hn => ?_, fun hn => ?_, csrWrite_other c v⟩
    · subst hn; rfl
    · subst hn; rfl
    · subst hn; rfl
    · subst hn
      exact ⟨rfl, reseed_ne_zero _ _ _, reseed_ne_zero _ _ _, reseed_ne_zero _ _ _, reseed_ne_zero _ _ _⟩

end Sys2Proof.Machine
end

section
/-! PROOF. The triggers of the stream unit: SCFG, SSEEK, SSKIP, STAG and SCLOSE (R84, R403 to R406). -/

namespace Sys2Proof.Machine

theorem exec_scfg (m : Mv) (s : State) : exec (.scfg m) s = execScfg m s := rfl
theorem exec_sseek (m : Mv) (s : State) : exec (.sseek m) s = execSseek m s := rfl
theorem exec_sskip (m : Mv) (s : State) : exec (.sskip m) s = execSskip m s := rfl
theorem exec_stag (m : Mv) (s : State) : exec (.stag m) s = execStag m s := rfl
theorem exec_sclose (m : Mv) (s : State) : exec (.sclose m) s = execSclose m s := rfl

/-! The answer in sq.r (R404). -/

/-- The job of a trigger's answer. -/
def sqAnswer (s : State) (q : Stream) : Job :=
  resultJob s .sq 1 ((BitVec.ofNat 64 (q.pos % 2 ^ 48 + (if q.mode = .opened then 2 ^ 48 else 0) +
    (if q.fmt.getLsbD 25 then 2 ^ 49 else 0))).setWidth 2048) 0

/-- Core `c` with register `q` as stream `n`. -/
def withStream (c : Core) (n : Nat) (q : Stream) : Core := { c with streams := tset {} c.streams n q }

theorem sqDone_spec (s : State) (fl : Flight) (n : Nat) (q : Stream) :
    OwnStep s (sqDone s fl n q) (noted (withStream (myCore s) n q) (coreOf (sqDone s fl n q) (me s))) [sqAnswer s q] ∧
      RaisesOnly [4] (myCore s) (coreOf (sqDone s fl n q) (me s)) := by
  have change := ownStep_modMe s fun c => setStream c n q
  let v : Vec := (BitVec.ofNat 64 (q.pos % 2 ^ 48 + (if q.mode = .opened then 2 ^ 48 else 0) +
    (if strPush q then 2 ^ 49 else 0))).setWidth 2048
  have result := complete_spec (modMe s fun c => setStream c n q) fl .sq 1 v 0
  have raises := complete_raises (modMe s fun c => setStream c n q) fl .sq 1 v 0
  have whole := change.trans result
  rw [change.resultJob_eq rfl, change.myCore_eq, change.me_eq] at whole
  rw [change.myCore_eq, change.me_eq] at raises
  exact ⟨whole, raises⟩

/-! The stamp of the open tile (R405). -/

/-- What has the open tile of a push stream stamped. -/
def Stamps (q : Stream) : Prop :=
  q.tile ≠ none ∧ q.mode = .opened ∧ q.fmt.getLsbD 25 = true ∧ q.entry = false ∧ q.fmt.toNat / 2 ^ 21 % 4 ≠ 0

theorem stampOpen_not {s : State} {fl : Flight} {q : Stream} (h : ¬Stamps q) : stampOpen s fl q = s := by
  unfold stampOpen
  split
  case h_1 t ht =>
    refine if_neg fun ⟨hopen, hpush, hentry, htag⟩ => h ⟨by rw [ht]; simp, hopen, hpush, by simpa using hentry, htag⟩
  case h_2 => rfl

theorem reserveStamp_spec (c : Core) (x tile : Nat) (ch : Nat × Nat × Nat) :
    reserveStamp c x tile ch =
      { c with stamps := (reserveStamp c x tile ch).stamps, raised := (reserveStamp c x tile ch).raised } ∧
    RaisesOnly [5] c (reserveStamp c x tile ch) := by
  unfold reserveStamp
  dsimp only
  split
  · exact ⟨rfl, .refl _ _⟩
  · refine ⟨?_, addRaise_raises _ _ (by simp)⟩
    rw [addRaise_spec]

theorem stampOpen_spec {s : State} (fl : Flight) {q : Stream} {t : Nat} (ht : q.tile = some t) (h : Stamps q) :
    ∃ d, OwnStep s (stampOpen s fl q) { myCore s with stamps := d.stamps, raised := d.raised }
      [ownJob s (fl.arrive + 2) phStamp (.deed (.stampPush t q.exp))] ∧ RaisesOnly [5] (myCore s) d := by
  obtain ⟨-, hopen, hpush, hentry, htag⟩ := h
  obtain ⟨hspec, raises⟩ := reserveStamp_spec (myCore s) (fl.arrive + 2) t (fl.issue, fl.bundle, fl.slot)
  have hstep : stampOpen s fl q = postDeed (modMe s fun c => reserveStamp c (fl.arrive + 2) t (fl.issue, fl.bundle, fl.slot))
      (me s) (fl.arrive + 2) phStamp (.stampPush t q.exp) := by
    unfold stampOpen
    rw [ht]
    exact if_pos ⟨hopen, hpush, by rw [hentry]; rfl, htag⟩
  have change := ownStep_modMe s fun c => reserveStamp c (fl.arrive + 2) t (fl.issue, fl.bundle, fl.slot)
  rw [hspec] at change
  refine ⟨_, ?_, raises⟩
  rw [hstep]
  exact change.thenDeed rfl ..

/-! A trigger that sets its stream's register. -/

/-- The trigger sets stream `n` to `new` and answers; an open tile of `q` is stamped. -/
def GivesStream (i : Instr) (s : State) (fl : Flight) (n : Nat) (q new : Stream) : Prop :=
  (¬Stamps q → Completes i s (withStream (myCore s) n new) [sqAnswer s new]) ∧
  (∀ tile, q.tile = some tile → Stamps q → ∃ t, exec i s = .next t ∧ RaisesOnly [4, 5] (myCore s) (coreOf t (me s)) ∧
    OwnStep s t (noted { withStream (myCore s) n new with stamps := (coreOf t (me s)).stamps } (coreOf t (me s)))
      [ownJob s (fl.arrive + 2) phStamp (.deed (.stampPush tile q.exp)), sqAnswer s new])

/-- A step of its own after the notes of an arrival. -/
theorem sqDone_noted {s u : State} {c d : Core} {js : List Job} (own : OwnStep s u (noted c d) js)
    (hg : c.gang = (myCore s).gang) (fl : Flight) (n : Nat) (q : Stream) :
    OwnStep s (sqDone u fl n q) (noted (withStream c n q) (coreOf (sqDone u fl n q) (me s))) (js ++ [sqAnswer s q]) ∧
      RaisesOnly [4] (noted c d) (coreOf (sqDone u fl n q) (me s)) := by
  obtain ⟨done, raises⟩ := sqDone_spec u fl n q
  have hjob : sqAnswer u q = sqAnswer s q := own.resultJob_eq hg ..
  rw [own.me_eq, own.myCore_eq, hjob] at done
  rw [own.me_eq, own.myCore_eq] at raises
  exact ⟨own.trans done, raises⟩

theorem givesStream_of {i : Instr} {m : Mv} {s : State} {fl : Flight} {f : Flight → Nat → Stream → State → State}
    (new : Stream) (h : s.cur.flight = some fl) (hx : exec i s = sqTriggerOf i m s f)
    (hf : ∀ u d, OwnStep s u (noted (myCore s) d) [] →
      f fl (sqId (myCore s)) (streamOf (myCore s) (sqId (myCore s))) u =
        sqDone (stampOpen u fl (streamOf (myCore s) (sqId (myCore s)))) fl (sqId (myCore s)) new) :
    GivesStream i s fl (sqId (myCore s)) (streamOf (myCore s) (sqId (myCore s))) new := by
  have arrival := ownStep_noteTrigger ((dstId i).getD 0 / 64) fl s
  have raises := noteTrigger_raises ((dstId i).getD 0 / 64) (myCore s) fl
  rw [noteTrigger_noted] at raises
  have heq := hx.trans (trigger_arrival _ _ _ _ _ h)
  generalize (modMe s fun c => noteTrigger ((dstId i).getD 0 / 64) c fl) = u at *
  generalize noteTrigger ((dstId i).getD 0 / 64) (myCore s) fl = d at *
  have hq : sqId (myCore u) = sqId (myCore s) := by rw [arrival.myCore_eq]; rfl
  have hst (n : Nat) : streamOf (myCore u) n = streamOf (myCore s) n := by rw [arrival.myCore_eq]; rfl
  simp only [hq, hst, hf u d arrival] at heq
  refine ⟨fun hno => ?plain, fun tile ht hs => ?stamped⟩
  case plain =>
    rw [stampOpen_not hno] at heq
    obtain ⟨done, more⟩ := sqDone_noted arrival rfl fl (sqId (myCore s)) new
    exact ⟨_, heq, done, raises.trans more⟩
  case stamped =>
    obtain ⟨e, stamped, counted⟩ := stampOpen_spec (s := u) fl ht hs
    have both := arrival.trans stamped
    rw [arrival.ownJob_eq rfl, arrival.myCore_eq] at both
    rw [arrival.myCore_eq] at counted
    have both' : OwnStep s _ (noted { myCore s with stamps := e.stamps } { d with raised := e.raised }) _ := both
    obtain ⟨done, more⟩ := sqDone_noted both' rfl fl (sqId (myCore s)) new
    have hcore := done.core
    have hstamps : (coreOf (sqDone (stampOpen u fl (streamOf (myCore s) (sqId (myCore s)))) fl (sqId (myCore s)) new)
        (me s)).stamps = e.stamps := by rw [hcore]; rfl
    refine ⟨_, heq, ?_, ?_⟩
    · have begun : RaisesOnly [4, 5] (myCore s) (noted (myCore s) d) := raises.mono (by simp)
      have stamping : RaisesOnly [4, 5] (noted (myCore s) d) e := counted.mono (by simp)
      have answered : RaisesOnly [4, 5] (noted { myCore s with stamps := e.stamps } { d with raised := e.raised }) _ :=
        more.mono (by simp)
      exact begun.trans (stamping.trans answered)
    · rw [hstamps]
      exact done

/-- A trigger of a stream that is not open takes the overrun of subcode 3, and nothing else. -/
theorem sqNotOpen_refused {i : Instr} {m : Mv} {s : State} {fl : Flight} {f : Flight → Nat → Stream → State → State}
    (h : s.cur.flight = some fl) (hx : exec i s = sqTriggerOf i m s f) (hlive : (myCore s).frozenAt = none)
    (hf : ∀ u, f fl (sqId (myCore s)) (streamOf (myCore s) (sqId (myCore s))) u = sqNotOpen u fl (sqId (myCore s))) :
    ∃ t, exec i s = .next t ∧ t.agenda = s.agenda ∧ (coreOf t (me s)).streams = (myCore s).streams ∧
      ∃ r ∈ (coreOf t (me s)).raised, r.code = 7 ∧ r.a = BitVec.ofNat 64 (sqId (myCore s)) ∧ r.b = 3 := by
  have arrival := ownStep_noteTrigger ((dstId i).getD 0 / 64) fl s
  have heq := hx.trans (trigger_arrival _ _ _ _ _ h)
  generalize (modMe s fun c => noteTrigger ((dstId i).getD 0 / 64) c fl) = u at *
  generalize noteTrigger ((dstId i).getD 0 / 64) (myCore s) fl = d at *
  have hq : sqId (myCore u) = sqId (myCore s) := by rw [arrival.myCore_eq]; rfl
  have hst (n : Nat) : streamOf (myCore u) n = streamOf (myCore s) n := by rw [arrival.myCore_eq]; rfl
  simp only [hq, hst, hf u] at heq
  have whole := arrival.thenMod fun c => raiseFor c fl [0x280] 7 (BitVec.ofNat 64 (sqId (myCore s))) 3 0
  refine ⟨_, heq, whole.agenda.trans (List.append_nil _), ?_, ?_⟩
  · rw [sqNotOpen, whole.core, raiseFor_spec]
    rfl
  · have hlive' : (noted (myCore s) d).frozenAt = none := hlive
    rw [sqNotOpen, whole.core, raiseFor, addRaise_live _ _ hlive']
    exact ⟨_, List.mem_append_right _ (List.mem_singleton_self _), rfl, rfl, rfl⟩

section

variable {s : State} {fl : Flight} (m : Mv) (h : s.cur.flight = some fl)
include h

theorem scfg_gives (hgood : scfgBad (scfgStream (myCore s) (streamOf (myCore s) (sqId (myCore s)))) = false) :
    GivesStream (.scfg m) s fl (sqId (myCore s)) (streamOf (myCore s) (sqId (myCore s)))
      (scfgStream (myCore s) (streamOf (myCore s) (sqId (myCore s)))) := by
  refine givesStream_of _ h (exec_scfg m s) fun u d own => ?_
  have hnew (q : Stream) : scfgStream (myCore u) q = scfgStream (myCore s) q := by rw [own.myCore_eq]; rfl
  simp only [hnew]
  exact if_neg (Bool.eq_false_iff.mp hgood)

theorem sseek_gives (hopen : (streamOf (myCore s) (sqId (myCore s))).mode = .opened) :
    let q := streamOf (myCore s) (sqId (myCore s))
    GivesStream (.sseek m) s fl (sqId (myCore s)) q
      { q with base := (scalarIn .z fl.val).toNat % 2 ^ 22, pos := 0, entry := true, entered := false, tile := none,
               gen := q.gen + 1, sets := q.sets + 1 } :=
  givesStream_of _ h (exec_sseek m s) fun _ _ _ => if_neg (not_not_intro hopen)

theorem stag_gives (hopen : (streamOf (myCore s) (sqId (myCore s))).mode = .opened)
    (htag : (scalarIn .z fl.val).setWidth 16 ≠ (0xFFFF : BitVec 16)) :
    let q := streamOf (myCore s) (sqId (myCore s))
    GivesStream (.stag m) s fl (sqId (myCore s)) q
      { q with exp := (scalarIn .z fl.val).setWidth 16, entry := true, entered := false, tile := none, gen := q.gen + 1 } :=
  givesStream_of _ h (exec_stag m s) fun _ _ _ => (if_neg (not_not_intro hopen)).trans (if_neg htag)

theorem sclose_gives :
    let q := streamOf (myCore s) (sqId (myCore s))
    GivesStream (.sclose m) s fl (sqId (myCore s)) q { q with mode := .closed, tile := none, gen := q.gen + 1 } :=
  givesStream_of _ h (exec_sclose m s) fun _ _ _ => rfl

/-- The answer does not name the register's count of changes. -/
theorem sskip_completes (hopen : (streamOf (myCore s) (sqId (myCore s))).mode = .opened) :
    let q := streamOf (myCore s) (sqId (myCore s))
    let pos := min (q.pos + (scalarIn .z fl.val).toNat) (strTotal q)
    Completes (.sskip m) s (withStream (myCore s) (sqId (myCore s)) { q with pos := pos, gen := q.gen + 1 })
      [sqAnswer s { q with pos := pos }] := by
  intro q pos
  have arrival := ownStep_noteTrigger ((dstId (.sskip m)).getD 0 / 64) fl s
  have raises := noteTrigger_raises ((dstId (.sskip m)).getD 0 / 64) (myCore s) fl
  rw [noteTrigger_noted] at raises
  have hx : exec (.sskip m) s = sqTriggerOf (.sskip m) m s _ := exec_sskip m s
  have heq := hx.trans (trigger_arrival _ _ _ _ _ h)
  generalize (modMe s fun c => noteTrigger ((dstId (.sskip m)).getD 0 / 64) c fl) = u at *
  generalize noteTrigger ((dstId (.sskip m)).getD 0 / 64) (myCore s) fl = d at *
  have hq : sqId (myCore u) = sqId (myCore s) := by rw [arrival.myCore_eq]; rfl
  have hst (n : Nat) : streamOf (myCore u) n = streamOf (myCore s) n := by rw [arrival.myCore_eq]; rfl
  simp only [hq, hst] at heq
  rw [if_neg (not_not_intro hopen)] at heq
  obtain ⟨done, more⟩ := sqDone_noted arrival rfl fl (sqId (myCore s)) { q with pos := pos, gen := q.gen + 1 }
  exact ⟨_, heq, done, raises.trans more⟩

theorem sq_refused (hclosed : (streamOf (myCore s) (sqId (myCore s))).mode ≠ .opened) (hlive : (myCore s).frozenAt = none) :
    ∀ i ∈ [Instr.sseek m, .sskip m, .stag m], ∃ t, exec i s = .next t ∧ t.agenda = s.agenda ∧
      (coreOf t (me s)).streams = (myCore s).streams ∧
      ∃ r ∈ (coreOf t (me s)).raised, r.code = 7 ∧ r.a = BitVec.ofNat 64 (sqId (myCore s)) ∧ r.b = 3 := by
  intro i hi
  simp only [List.mem_cons, List.not_mem_nil, or_false] at hi
  rcases hi with rfl | rfl | rfl
  · exact sqNotOpen_refused h (exec_sseek m s) hlive fun _ => if_pos hclosed
  · exact sqNotOpen_refused h (exec_sskip m s) hlive fun _ => if_pos hclosed
  · exact sqNotOpen_refused h (exec_stag m s) hlive fun _ => if_pos hclosed

end

/-- Settles O29: each trigger sets the register of the stream that sq.id names, or refuses one that is not open. -/
theorem streamControlConfiguresStreams : Obligations.StreamControlConfiguresStreams := by
  unfold Obligations.StreamControlConfiguresStreams
  intro s fl m h
  refine ⟨fun new hnew hgood => ?_, sseek_gives m h, sskip_completes m h, fun hopen htag => ?_, sclose_gives m h,
    sq_refused m h⟩
  · subst hnew
    exact ⟨scfg_gives m h hgood, rfl, rfl, rfl, rfl, rfl, rfl⟩
  · have hexp : (scalarIn .z fl.val).setWidth 16 = BitVec.ofNat 16 (scalarIn .z fl.val).toNat :=
      BitVec.eq_of_toNat_eq (by simp)
    have hne : (scalarIn .z fl.val).setWidth 16 ≠ (0xFFFF : BitVec 16) := fun heq =>
      htag (by simpa using congrArg BitVec.toNat heq)
    have given := stag_gives m h hopen hne
    rw [hexp] at given
    exact given

end Sys2Proof.Machine
end

section
/-! PROOF. Pushes and pops of streams (R77, R79, R85 to R88). -/

namespace Sys2Proof.Machine

theorem exec_streamPopRead (k : Nat) (q : Fin 16) (i b : Nat) (s : State) :
    exec (.streamPopRead k q i b) s = execStreamPopRead k q i b s := rfl

theorem exec_push_arrival {s : State} {fl : Flight} (q : Fin 16) (m : Mv) (h : s.cur.flight = some fl) :
    exec (.push q m) s = .next (pushArrive q.val fl s) := by
  show execPush q m s = _
  rw [execPush, h]

theorem leBytes_length (n x : Nat) : (leBytes n x).length = n := by
  induction n generalizing x with
  | zero => rfl
  | succ n ih => rw [leBytes, List.length_cons, ih]

/-! What a push leaves of its core. -/

/-- The step keeps scratch, registers and ports, and raises no fault but those of an access. -/
structure PushKeeps (c d : Core) : Prop where
  scratch : d.scratch = c.scratch
  s : d.s = c.s
  v : d.v = c.v
  k : d.k = c.k
  p : d.p = c.p
  ports : d.ports = c.ports
  gang : d.gang = c.gang
  idx : d.idx = c.idx
  raises : RaisesOnly [4, 5, 0x0A] c d

theorem PushKeeps.trans {c d e : Core} (h₁ : PushKeeps c d) (h₂ : PushKeeps d e) : PushKeeps c e :=
  ⟨h₂.scratch.trans h₁.scratch, h₂.s.trans h₁.s, h₂.v.trans h₁.v, h₂.k.trans h₁.k, h₂.p.trans h₁.p, h₂.ports.trans h₁.ports,
    h₂.gang.trans h₁.gang, h₂.idx.trans h₁.idx, h₁.raises.trans h₂.raises⟩

theorem BankChecked.pushKeeps {c d : Core} (h : BankChecked c d) : PushKeeps c d := by
  have hr := h.raises
  rw [h.frame] at hr ⊢
  exact ⟨rfl, rfl, rfl, rfl, rfl, rfl, rfl, rfl, hr⟩

theorem BankChecked.streams_eq {c d : Core} (h : BankChecked c d) : d.streams = c.streams := by rw [h.frame]; rfl

theorem pushKeeps_reserveStamp (c : Core) (x tile : Nat) (ch : Nat × Nat × Nat) : PushKeeps c (reserveStamp c x tile ch) := by
  obtain ⟨hspec, raises⟩ := reserveStamp_spec c x tile ch
  have hr : RaisesOnly [4, 5, 0x0A] c (reserveStamp c x tile ch) := RaisesOnly.mono raises (by simp)
  rw [hspec] at hr ⊢
  exact ⟨rfl, rfl, rfl, rfl, rfl, rfl, rfl, rfl, hr⟩

/-! The faults of a push (R79, R88). -/

theorem bankChecked_pushFaults {c : Core} {q : Nat} {pl : ItemPlan} (fl : Flight) (hover : pl.overrun = 0)
    (haddr : pl.badAddr = none) : BankChecked c (pushFaults c q pl fl) := by
  unfold pushFaults
  rw [if_neg (not_not_intro hover), haddr]
  dsimp only
  split
  · exact .refl c
  · exact bankChecked_raiseFor _ _ _ _ _ _ _ (by simp)

theorem bankChecked_noteArrival (c : Core) (n : Nat) (fl : Flight) : BankChecked c (noteArrival c n fl) := by
  refine ⟨?_, (noteArrival_raises c n fl).mono (by simp), ?_⟩
  · rw [noteArrival_noted]; rfl
  · rw [noteArrival_noted]; exact fun q hq => .inl hq

/-! The item that is written (R86, R87). -/

/-- The core after a push without scales: flags and draws of its conversion, the access, and the stream's position. -/
def pushed (q : Nat) (st : Stream) (es : List Nat) (a : Access) (g : BitVec 32) (c : Core) : Core :=
  let r := pushConvert st es g
  setStream (reserve (addFlags { c with genSQ := r.2.2.2 } r.2.2.1) a) q (advance st (planOwn st true) true)

theorem pushed_spec (q : Nat) (st : Stream) (es : List Nat) (a : Access) (g : BitVec 32) (c : Core) :
    PushKeeps c (pushed q st es a g c) ∧
      (pushed q st es a g c).streams = tset {} c.streams q (advance st (planOwn st true) true) := by
  have reserved := bankChecked_reserve
    (addFlags { c with genSQ := (pushConvert st es g).2.2.2 } (pushConvert st es g).2.2.1) a
  obtain ⟨h1, h2, h3, h4, h5, h6, h7, h8, hr⟩ := reserved.pushKeeps
  refine ⟨⟨h1, h2, h3, h4, h5, h6, h7, h8, hr⟩, ?_⟩
  show tset ({} : Stream) _ q _ = _
  rw [reserved.streams_eq]
  rfl

/-- The bytes of a push. -/
def pushBytes (st : Stream) (es : List Nat) (g : BitVec 32) : List Byte :=
  leBytes (planOwn st true).n (packNat (fmtWidth (fmtOf (strMem st))) (pushConvert st es g).1)

theorem planOwn_unscaled {st : Stream} (h : strScaled st = false) (push : Bool) : (planOwn st push).sn = 0 := by
  rw [planOwn, h]
  rfl

theorem ownStep_refl (s : State) : OwnStep s s (myCore s) [] :=
  ⟨rfl, fun _ _ => rfl, (List.append_nil _).symm, rfl, rfl, rfl, rfl, rfl, rfl, rfl, rfl⟩

/-- The tile that a push leaves is stamped when the push into another one performs (R405). -/
def leaveTile (s : State) (a : Nat) (st : Stream) (pl : ItemPlan) (ch : Nat × Nat × Nat) : State :=
  match st.tile with
  | some t =>
    if t ≠ pl.addr / 4096 ∧ strTagMode st ≠ 0 ∧ !st.entry then
      postDeed (modMe s fun c => reserveStamp c (a + 2) t ch) (me s) (a + 2) phStamp (.stampPush t st.exp)
    else s
  | none => s

theorem leaveTile_spec (s : State) (a : Nat) (st : Stream) (pl : ItemPlan) (ch : Nat × Nat × Nat) :
    ∃ d js, OwnStep s (leaveTile s a st pl ch) d js ∧ PushKeeps (myCore s) d ∧ d.streams = (myCore s).streams := by
  have stays : ∃ d js, OwnStep s s d js ∧ PushKeeps (myCore s) d ∧ d.streams = (myCore s).streams :=
    ⟨_, _, ownStep_refl s, (BankChecked.refl _).pushKeeps, rfl⟩
  unfold leaveTile
  split
  case h_1 t ht =>
    split
    · have keeps := pushKeeps_reserveStamp (myCore s) (a + 2) t ch
      have change := ownStep_modMe s fun c => reserveStamp c (a + 2) t ch
      refine ⟨_, _, change.thenDeed keeps.gang (a + 2) phStamp (.stampPush t st.exp), keeps, ?_⟩
      rw [(reserveStamp_spec (myCore s) (a + 2) t ch).1]
    · exact stays
  case h_2 => exact stays

/-- The write of a push. -/
def pushWrite (c : Core) (st : Stream) (es : List Nat) : ScratchWrite :=
  ⟨(planOwn st true).addr, pushBytes st es c.genSQ, 1, agentId 1 c.idx, c.idx, 0⟩

theorem pushItem_eq {s : State} {q : Nat} (a : Nat) (es : List Nat) (ch : Nat × Nat × Nat)
    (hs : strScaled (streamOf (myCore s) q) = false) :
    let st := streamOf (myCore s) q
    let pl := planOwn st true
    pushItem s (me s) q a es ch false = postDeed
      (leaveTile (modMe s (pushed q st es (mkAccess (a + 2) pl.addr pl.n 1 ch false) (myCore s).genSQ)) a st pl ch)
      (me s) (a + 2) phWrite (.store (pushWrite (myCore s) st es)) := by
  intro st pl
  have hsn : pl.sn = 0 := planOwn_unscaled hs true
  unfold pushItem
  simp only [show planOwn (streamOf (coreOf s (me s)) q) true = pl from rfl, hsn, if_true]
  rfl

/-- A push without scales: its core moves the stream on, and its bytes are written two cycles on. -/
theorem pushItem_spec {s : State} {q : Nat} (a : Nat) (es : List Nat) (ch : Nat × Nat × Nat)
    (hs : strScaled (streamOf (myCore s) q) = false) :
    let st := streamOf (myCore s) q
    ∃ d js, OwnStep s (pushItem s (me s) q a es ch false) d js ∧ PushKeeps (myCore s) d ∧
      d.streams = tset {} (myCore s).streams q (advance st (planOwn st true) true) ∧
      ownJob s (a + 2) phWrite (.deed (.store (pushWrite (myCore s) st es))) ∈ js := by
  intro st
  rw [pushItem_eq a es ch hs]
  let f := pushed q st es (mkAccess (a + 2) (planOwn st true).addr (planOwn st true).n 1 ch false) (myCore s).genSQ
  have moved := ownStep_modMe s f
  obtain ⟨keeps, hstreams⟩ := pushed_spec q st es (mkAccess (a + 2) (planOwn st true).addr (planOwn st true).n 1 ch false)
    (myCore s).genSQ (myCore s)
  obtain ⟨d, js, left, keeps', hsame⟩ := leaveTile_spec (modMe s f) a st (planOwn st true) ch
  have both := moved.trans left
  rw [moved.myCore_eq] at keeps' hsame
  have all := keeps.trans keeps'
  have whole := both.thenDeed all.gang (a + 2) phWrite (.store (pushWrite (myCore s) st es))
  rw [both.me_eq] at whole
  exact ⟨d, _, whole, all, hsame.trans hstreams, List.mem_append_right _ (List.mem_singleton_self _)⟩

/-! The push at its arrival. -/

theorem epiloguePushes_not {c : Core} {q : Nat} (x : Nat) (h : ∀ e ∈ c.mx.epis, e.out ≠ q) : epiloguePushes c q x = false := by
  rw [epiloguePushes, List.any_eq_false]
  intro e he
  simp [h e he]

theorem pushArrive_eq {s : State} {fl : Flight} {q : Nat} (hepi : ∀ e ∈ (myCore s).mx.epis, e.out ≠ q)
    (hover : (planOwn (streamOf (myCore s) q) true).overrun = 0) (haddr : (planOwn (streamOf (myCore s) q) true).badAddr = none) :
    pushArrive q fl s = pushItem (modMe (modMe s fun c => noteArrival c (0x2A0 + q) fl)
        fun c => pushFaults c q (planOwn (streamOf (myCore s) q) true) fl) (me s) q fl.arrive
      (pushElems (streamOf (myCore s) q) fl.val) (fl.issue, fl.bundle, fl.slot) false := by
  have hcore : coreOf (modCore s (me s) fun c => noteArrival c (0x2A0 + q) fl) (me s) = noteArrival (myCore s) (0x2A0 + q) fl :=
    coreOf_modCore_self ..
  have hst : streamOf (noteArrival (myCore s) (0x2A0 + q) fl) q = streamOf (myCore s) q := by rw [noteArrival_spec]; rfl
  have hepi' : epiloguePushes (noteArrival (myCore s) (0x2A0 + q) fl) q fl.arrive = false :=
    epiloguePushes_not _ (by rw [noteArrival_spec]; exact hepi)
  unfold pushArrive
  simp only [hcore, hst, hepi', hover, haddr]
  rfl

theorem pushArrive_overruns {s : State} {fl : Flight} {q : Nat} (hepi : ∀ e ∈ (myCore s).mx.epis, e.out ≠ q)
    (hover : (planOwn (streamOf (myCore s) q) true).overrun ≠ 0) :
    pushArrive q fl s = modMe (modMe s fun c => noteArrival c (0x2A0 + q) fl) fun c => raiseFor c fl [] 7 (BitVec.ofNat 64 q)
      (BitVec.ofNat 64 (planOwn (streamOf (myCore s) q) true).overrun) 0 := by
  have hcore : coreOf (modCore s (me s) fun c => noteArrival c (0x2A0 + q) fl) (me s) = noteArrival (myCore s) (0x2A0 + q) fl :=
    coreOf_modCore_self ..
  have hst : streamOf (noteArrival (myCore s) (0x2A0 + q) fl) q = streamOf (myCore s) q := by rw [noteArrival_spec]; rfl
  have hepi' : epiloguePushes (noteArrival (myCore s) (0x2A0 + q) fl) q fl.arrive = false :=
    epiloguePushes_not _ (by rw [noteArrival_spec]; exact hepi)
  unfold pushArrive
  simp only [hcore, hst, hepi']
  rw [if_neg Bool.false_ne_true, if_pos (Or.inl hover)]
  simp only [pushFaults, if_pos hover]
  rfl

theorem overrunCode_zero {q : Stream} {push : Bool} (hopen : q.mode = .opened) (hdir : strPush q = push)
    (hleft : q.pos < strTotal q) : overrunCode q push = 0 := by
  rw [overrunCode, if_neg (not_not_intro hopen), if_neg (not_not_intro hdir), if_neg (Nat.not_le.mpr hleft)]

theorem overrunCode_end {q : Stream} {push : Bool} (hopen : q.mode = .opened) (hdir : strPush q = push)
    (hend : strTotal q ≤ q.pos) : overrunCode q push = 1 := by
  rw [overrunCode, if_neg (not_not_intro hopen), if_neg (not_not_intro hdir), if_pos hend]

/-- An item whose address lies in its bank group has the stream's address. -/
theorem planOwn_addr {q : Stream} {push : Bool} (h : (planOwn q push).badAddr = none) :
    ((planOwn q push).addr : Int) = itemAddr q q.pos := by
  show ((itemAddr q q.pos).toNat : Int) = itemAddr q q.pos
  refine Int.toNat_of_nonneg (Classical.byContradiction fun hneg => ?_)
  have hbad : placeOk (itemAddr q q.pos) (groupOf q.base) (strBytes q) (strBytes q) = false := by
    rw [placeOk, decide_eq_false hneg]
    rfl
  simp only [planOwn, planItem, hbad] at h
  exact absurd h (by simp)

theorem pushConvert_same {q : Stream} (xs : List Nat) (g : BitVec 32) (hs : strScaled q = false) (hsame : strMem q = strReg q) :
    pushConvert q xs g = (xs, [], 0, g) := by
  unfold pushConvert
  dsimp only
  rw [hs, if_neg Bool.false_ne_true, if_pos hsame]

theorem streamOf_of_streams {c d : Core} {q : Nat} {st : Stream} (h : d.streams = tset {} c.streams q st) (j : Nat) :
    streamOf d j = if j = q then st else streamOf c j := by
  rw [streamOf, h]
  split
  case isTrue hj => rw [hj, tget_tset_self]
  case isFalse hj => exact tget_tset_ne _ _ _ hj

section

variable {s : State} {fl : Flight} {q : Fin 16} (m : Mv) (h : s.cur.flight = some fl)
  (hopen : (streamOf (myCore s) q).mode = .opened) (hpush : strPush (streamOf (myCore s) q) = true)
  (hepi : ∀ e ∈ (myCore s).mx.epis, e.out ≠ q)
include h hopen hpush hepi

theorem push_performs (hleft : (streamOf (myCore s) q).pos < strTotal (streamOf (myCore s) q))
    (haddr : (planOwn (streamOf (myCore s) q) true).badAddr = none) (hs : strScaled (streamOf (myCore s) q) = false) :
    let st := streamOf (myCore s) q
    ∃ t d js, exec (.push q m) s = .next t ∧ OwnStep s t d js ∧ PushKeeps (myCore s) d ∧
      d.streams = tset {} (myCore s).streams q (advance st (planOwn st true) true) ∧
      ownJob s (fl.arrive + 2) phWrite (.deed (.store (pushWrite (myCore s) st (pushElems st fl.val)))) ∈ js := by
  intro st
  have hover : (planOwn st true).overrun = 0 := overrunCode_zero hopen hpush hleft
  have begun := (ownStep_modMe s fun c => noteArrival c (0x2A0 + q.val) fl).thenMod
    fun c => pushFaults c q.val (planOwn st true) fl
  have checked : BankChecked (myCore s) (pushFaults (noteArrival (myCore s) (0x2A0 + q.val) fl) q.val (planOwn st true) fl) :=
    (bankChecked_noteArrival ..).trans (bankChecked_pushFaults fl hover haddr)
  have hx := (exec_push_arrival q m h).trans (congrArg _ (pushArrive_eq hepi hover haddr))
  generalize (modMe (modMe s fun c => noteArrival c (0x2A0 + q.val) fl) fun c =>
    pushFaults c q.val (planOwn (streamOf (myCore s) q) true) fl) = u at *
  have hst : streamOf (myCore u) q = st := by rw [begun.myCore_eq, streamOf, checked.streams_eq]; rfl
  obtain ⟨d, js, item, keeps, hstreams, hjob⟩ := pushItem_spec (s := u) (q := q.val) fl.arrive (pushElems st fl.val)
    (fl.issue, fl.bundle, fl.slot) (by rw [hst]; exact hs)
  have hkeeps := checked.pushKeeps
  have hwrite : pushWrite (myCore u) st (pushElems st fl.val) = pushWrite (myCore s) st (pushElems st fl.val) := by
    rw [begun.myCore_eq, pushWrite, checked.idx_eq, checked.frame]
    rfl
  rw [hst, hwrite, begun.ownJob_eq checked.gang_eq] at hjob
  rw [hst, begun.myCore_eq, checked.streams_eq] at hstreams
  rw [begun.me_eq] at item
  rw [begun.myCore_eq] at keeps
  exact ⟨_, d, _, hx, begun.trans item, hkeeps.trans keeps, hstreams, List.mem_append_right _ hjob⟩

theorem push_overruns (hend : strTotal (streamOf (myCore s) q) ≤ (streamOf (myCore s) q).pos)
    (hlive : (myCore s).frozenAt = none) :
    ∃ t, exec (.push q m) s = .next t ∧ t.agenda = s.agenda ∧
      ∃ r ∈ (coreOf t (me s)).raised, r.code = 7 ∧ r.a = BitVec.ofNat 64 q.val ∧ r.b = 1 := by
  have hover : (planOwn (streamOf (myCore s) q) true).overrun = 1 := overrunCode_end hopen hpush hend
  have hx := (exec_push_arrival q m h).trans (congrArg _ (pushArrive_overruns hepi (by rw [hover]; decide)))
  rw [hover] at hx
  have whole := (ownStep_modMe s fun c => noteArrival c (0x2A0 + q.val) fl).thenMod
    fun c => raiseFor c fl [] 7 (BitVec.ofNat 64 q.val) (BitVec.ofNat 64 1) 0
  have hlive' : (noteArrival (myCore s) (0x2A0 + q.val) fl).frozenAt = none := by rw [noteArrival_spec]; exact hlive
  refine ⟨_, hx, whole.agenda.trans (List.append_nil _), ?_⟩
  rw [whole.core]
  exact raiseFor_mem fl 7 (BitVec.ofNat 64 q.val) (BitVec.ofNat 64 1) 0 hlive'

end

/-! Pops (R77, R86, R87). -/

theorem popConvert_same {q : Stream} (item scales : List Byte) (g : BitVec 32) (hsame : strMem q = strReg q)
    (hs : strScaled q = false) :
    (popConvert q item scales g).1 = elems (fmtWidth (fmtOf (strMem q))) (strElems q) (leNat item) := by
  unfold popConvert
  dsimp only
  rw [if_pos ⟨hsame, by rw [hs]; rfl⟩]

theorem streamPopRead_early {k i b : Nat} {q : Fin 16} {s : State} (h : i ≠ gcycOf s k + 4) :
    exec (.streamPopRead k q i b) s = .next s := by
  rw [exec_streamPopRead, execStreamPopRead]
  exact congrArg _ (if_neg h)

theorem carryPoison_keeps (c : Core) (q : Nat) (st : Stream) (pl : ItemPlan) (x : Nat) :
    (carryPoison c q st pl x).streams = c.streams ∧ (carryPoison c q st pl x).scratch = c.scratch ∧
      (carryPoison c q st pl x).fetched = c.fetched := by
  unfold carryPoison
  split
  · unfold addRecord
    split <;> exact ⟨rfl, rfl, rfl⟩
  · exact ⟨rfl, rfl, rfl⟩

/-- Radish's checks of a pop's reads. -/
def popRaces (s : State) (k i bundle slot : Nat) (pl : ItemPlan) : State :=
  let t := raceScratch s k pl.addr pl.n (agentId 1 (coreOf s k).idx) 0 (some (i, bundle, slot))
  if pl.sn = 0 then t else raceScratch t k pl.saddr pl.sn (agentId 1 (coreOf s k).idx) 0 (some (i, bundle, slot))

theorem stateNoted_popRaces (s : State) (k i bundle slot : Nat) (pl : ItemPlan) :
    StateNoted s (popRaces s k i bundle slot pl) := by
  unfold popRaces
  dsimp only
  split
  · exact stateNoted_raceScratch ..
  · exact (stateNoted_raceScratch ..).trans (stateNoted_raceScratch ..)

/-- The core after its read of an item for `moves`: the value `v`, the flags and draws of its conversion, and the position. -/
def popped (q x i bundle : Nat) (moves : List (Nat × Bool × Bool)) (st : Stream) (item : List Nat × Flags × BitVec 32)
    (c : Core) : Core :=
  let pl := planOwn st false
  let d := setStream (carryPoison (addFlags { c with genSQ := item.2.2 } item.2.1) q st pl x) q
    (advance st pl (moves.any fun m => m.2.1 && m.2.2))
  { d with fetched := d.fetched ++ moves.map fun m => ⟨q, i, bundle, m.1, m.2.2, m.2.1, popValue st item.1, st, []⟩ }

theorem popped_spec (q x i bundle : Nat) (moves : List (Nat × Bool × Bool)) (st : Stream) (item : List Nat × Flags × BitVec 32)
    (c : Core) :
    let d := popped q x i bundle moves st item c
    d.streams = tset {} c.streams q (advance st (planOwn st false) (moves.any fun m => m.2.1 && m.2.2)) ∧
      d.scratch = c.scratch ∧
      d.fetched = c.fetched ++ moves.map fun m => ⟨q, i, bundle, m.1, m.2.2, m.2.1, popValue st item.1, st, []⟩ := by
  obtain ⟨hstreams, hscratch, hfetched⟩ :=
    carryPoison_keeps (addFlags { c with genSQ := item.2.2 } item.2.1) q st (planOwn st false) x
  refine ⟨?_, hscratch, ?_⟩
  · show tset ({} : Stream) _ q _ = _
    rw [hstreams]
    rfl
  · exact congrArg (· ++ _) hfetched

/-- What holds when the item of a pop is read. -/
structure PopReads (c : Core) (q x i bundle : Nat) (moves : List (Nat × Bool × Bool)) : Prop where
  reads : (moves.any fun m => m.2.2) = true
  kept : isVoided c x (planOwn (streamOf c q) false).addr (planOwn (streamOf c q) false).n = false
  scales : strScaled (streamOf c q) = true →
    isVoided c x (planOwn (streamOf c q) false).saddr (planOwn (streamOf c q) false).sn = false
  faultless : popClashes c (planOwn (streamOf c q) false) x i bundle ((moves.head?.map (·.1)).getD 0) ++
    popFaults c q (streamOf c q) (planOwn (streamOf c q) false) x i bundle ((moves.head?.map (·.1)).getD 0) = []

theorem PopReads.notVoid {c : Core} {q x i bundle : Nat} {moves : List (Nat × Bool × Bool)} (h : PopReads c q x i bundle moves) :
    (isVoided c x (planOwn (streamOf c q) false).addr (planOwn (streamOf c q) false).n ||
      (decide ((planOwn (streamOf c q) false).sn ≠ 0) &&
        isVoided c x (planOwn (streamOf c q) false).saddr (planOwn (streamOf c q) false).sn)) = false := by
  cases hsc : strScaled (streamOf c q) with
  | true =>
    rw [h.kept, h.scales hsc, Bool.and_false]
    rfl
  | false =>
    have hsn := planOwn_unscaled hsc false
    rw [h.kept, hsn]
    rfl

theorem popRead_eq {s : State} {k q x i bundle : Nat} {moves : List (Nat × Bool × Bool)}
    (h : PopReads (coreOf s k) q x i bundle moves) :
    let c := coreOf s k
    let st := streamOf c q
    let pl := planOwn st false
    popRead s k q x i bundle moves = modCore (popRaces s k i bundle ((moves.head?.map (·.1)).getD 0) pl) k
      (popped q x i bundle moves st (popConvert st (scratchBytes c pl.addr pl.n) (scratchBytes c pl.saddr pl.sn) c.genSQ)) := by
  unfold popRead
  simp only [h.reads, h.notVoid, h.faultless]
  rw [if_neg (by simp), if_neg (by simp), if_neg (by simp)]
  rfl

theorem streamPopRead_reads {s : State} {k b : Nat} {q : Fin 16}
    (h : PopReads (coreOf s k) q (gcycOf s k) (gcycOf s k + 4) b (plannedMoves s k q b (gcycOf s k))) :
    let c := coreOf s k
    let st := streamOf c q
    let pl := planOwn st false
    let ms := plannedMoves s k q b (gcycOf s k)
    let item := popConvert st (scratchBytes c pl.addr pl.n) (scratchBytes c pl.saddr pl.sn) c.genSQ
    ∃ t, exec (.streamPopRead k q (gcycOf s k + 4) b) s = .next t ∧ t.agenda = s.agenda ∧
      (∀ j, streamOf (coreOf t k) j = if j = q.val then advance st pl (ms.any fun m => m.2.1 && m.2.2) else streamOf c j) ∧
      (coreOf t k).scratch = c.scratch ∧
      (coreOf t k).fetched = c.fetched ++ ms.map fun m => ⟨q, gcycOf s k + 4, b, m.1, m.2.2, m.2.1, popValue st item.1, st, []⟩ := by
  intro c st pl ms item
  have hx : exec (.streamPopRead k q (gcycOf s k + 4) b) s = .next (popRead s k q.val (gcycOf s k) (gcycOf s k + 4) b ms) := by
    rw [exec_streamPopRead, execStreamPopRead]
    exact congrArg _ (if_pos rfl)
  have races := stateNoted_popRaces s k (gcycOf s k + 4) b ((ms.head?.map (·.1)).getD 0) pl
  obtain ⟨hstreams, hscratch, hfetched⟩ := popped_spec q (gcycOf s k) (gcycOf s k + 4) b ms st item
    (coreOf (popRaces s k (gcycOf s k + 4) b ((ms.head?.map (·.1)).getD 0) pl) k)
  rw [races.cores k] at hstreams hscratch hfetched
  refine ⟨_, hx.trans (congrArg _ (popRead_eq h)), races.agenda, ?_⟩
  rw [coreOf_modCore_self, races.cores k]
  exact ⟨streamOf_of_streams hstreams, hscratch, hfetched⟩

/-- Settles O30: a push is written two cycles on or overruns; a pop's read takes the item at the position. -/
theorem streamItemsPopAndPush : Obligations.StreamItemsPopAndPush := by
  unfold Obligations.StreamItemsPopAndPush
  refine ⟨fun s fl m q h => ⟨fun hopen hpush hleft haddr hepi hs => ?push, fun hopen hpush hend hepi hlive =>
    push_overruns m h hopen hpush hepi hend hlive⟩, fun s k b q => ⟨fun i => streamPopRead_early, fun hreads hkept hscales hno =>
    streamPopRead_reads ⟨hreads, hkept, hscales, hno⟩, fun hsame hs => popConvert_same _ _ _ hsame hs⟩⟩
  case push =>
    obtain ⟨t, d, js, hx, own, keeps, hstreams, hjob⟩ := push_performs m h hopen hpush hepi hleft haddr hs
    have hat := streamOf_of_streams hstreams
    refine ⟨t, hx, own.others, own.gangs, ?_⟩
    dsimp only
    rw [own.core]
    refine ⟨hat, by rw [hat, if_pos rfl]; rfl, keeps.scratch, keeps.s, keeps.v, keeps.k, keeps.p, keeps.ports, keeps.raises, _,
      by rw [own.agenda]; exact List.mem_append_right _ hjob, leBytes_length .., planOwn_addr haddr, fun hsame => ?_⟩
    show leBytes _ (packNat _ (pushConvert _ _ _).1) = _
    rw [pushConvert_same _ _ hs hsame]

end Sys2Proof.Machine
end

section
/-! PROOF. The triggers of the matrix unit: MCALL, MUWR, MLUT and MZERO (R164, R165, R168, R391, R395). -/

namespace Sys2Proof.Machine

theorem exec_mcall (m : Mv) (s : State) : exec (.mcall m) s = execMcall m s := rfl
theorem exec_muwr (m : Mv) (s : State) : exec (.muwr m) s = muwr (.muwr m) m s := rfl
theorem exec_muwrRoutineEntry (m : Mv) (s : State) : exec (.muwrRoutineEntry m) s = muwr (.muwrRoutineEntry m) m s := rfl
theorem exec_mlut (m : Mv) (s : State) : exec (.mlut m) s = execMlut m s := rfl
theorem exec_mzero (m : Mv) (s : State) : exec (.mzero m) s = execMzero m s := rfl

/-- A trigger completes when its effect is a change of its core, which the notes do not enter, and one deed. -/
theorem completes_of_change {i : Instr} {m : Mv} {s : State} {fl : Flight} {e : Flight → State → State} {f : Core → Core}
    {c : Core} {due ph : Nat} {x : Deed} (h : s.cur.flight = some fl) (hx : exec i s = trigger i m s e)
    (he : ∀ u d, OwnStep s u (noted (myCore s) d) [] → e fl u = postDeed (modMe u f) (me (modMe u f)) due ph x)
    (hf : ∀ d, f (noted (myCore s) d) = noted c d) (hg : c.gang = (myCore s).gang) :
    Completes i s c [ownJob s due ph (.deed x)] := by
  have arrival := ownStep_noteTrigger ((dstId i).getD 0 / 64) fl s
  have raises := noteTrigger_raises ((dstId i).getD 0 / 64) (myCore s) fl
  rw [noteTrigger_noted] at raises
  rw [trigger_arrival _ _ _ _ _ h, he _ _ arrival] at hx
  have change := arrival.thenMod f
  rw [hf] at change
  have whole := change.thenDeed hg due ph x
  refine ⟨_, hx, whole.noted, ?_⟩
  rw [whole.core]
  exact raises

/-! MCALL (R164, R165, R383). -/

/-- The unit as a call of routine `i` leaves it. -/
def called (i : Nat) (c : Core) : Core :=
  let e := (tget 0 c.mx.routines i).toNat
  setMx c { c.mx with
    busy := true, pc := e % 4096, start := e % 4096, length := e / 65536 % 8192, routine := i
    lc0 := {}, lc1 := {}, bindA := none, staged := none, active := none }

/-- The faults of a call that does not start. -/
def mcallFaults (fl : Flight) (unused : Bool) (st i : Nat) (c : Core) : Core :=
  let c := if c.mx.busy then raiseFor c fl [] 0x13 0 0 0 else c
  if unused then raiseFor c fl [] 0x15 (BitVec.ofNat 64 st) 10 (BitVec.ofNat 64 i) else c

theorem mcallFaults_spec (fl : Flight) (unused : Bool) (st i : Nat) (c : Core) :
    mcallFaults fl unused st i c = { c with raised := (mcallFaults fl unused st i c).raised } := by
  unfold mcallFaults
  dsimp only
  split
  · split
    · rw [raiseFor_spec, raiseFor_spec]
    · rw [raiseFor_spec]
  · split
    · rw [raiseFor_spec]
    · rfl

theorem mcallFaults_busy {c : Core} (fl : Flight) (unused : Bool) (st i : Nat) (hbusy : c.mx.busy = true)
    (hlive : c.frozenAt = none) : ∃ r ∈ (mcallFaults fl unused st i c).raised, r.code = 0x13 := by
  obtain ⟨r, hr, hcode, -⟩ := raiseFor_mem fl 0x13 0 0 0 hlive
  refine ⟨r, ?_, hcode⟩
  unfold mcallFaults
  rw [hbusy]
  dsimp only
  rw [if_pos rfl]
  split
  · exact raiseFor_keeps _ _ _ _ _ _ hr (by rw [raiseFor_spec]; exact hlive)
  · exact hr

section

variable {s : State} {fl : Flight} (m : Mv) (h : s.cur.flight = some fl)
include h

theorem mcall_completes (hbusy : (myCore s).mx.busy = false)
    (hlen : (tget 0 (myCore s).mx.routines ((scalarIn .z fl.val).toNat % 256)).toNat / 65536 % 8192 ≠ 0)
    (hfits : (tget 0 (myCore s).mx.routines ((scalarIn .z fl.val).toNat % 256)).toNat % 4096 +
      (tget 0 (myCore s).mx.routines ((scalarIn .z fl.val).toNat % 256)).toNat / 65536 % 8192 ≤ 4096) :
    Completes (.mcall m) s (called ((scalarIn .z fl.val).toNat % 256) (myCore s))
      [ownJob s (fl.arrive + 1) phMicro (.deed .micro)] := by
  refine completes_of_change (f := called ((scalarIn .z fl.val).toNat % 256)) h (exec_mcall m s) (fun u d own => ?_)
    (fun d => rfl) rfl
  have hmx : (myCore u).mx = (myCore s).mx := by rw [own.myCore_eq]; rfl
  have hused : ((myCore u).mx.busy || decide ((tget 0 (myCore u).mx.routines ((scalarIn .z fl.val).toNat % 256)).toNat / 65536 % 8192
      = 0 ∨ 4096 < (tget 0 (myCore u).mx.routines ((scalarIn .z fl.val).toNat % 256)).toNat % 4096 +
        (tget 0 (myCore u).mx.routines ((scalarIn .z fl.val).toNat % 256)).toNat / 65536 % 8192)) = false := by
    rw [hmx, hbusy, Bool.false_or, decide_eq_false_iff_not]
    rintro (h0 | hover)
    · exact hlen h0
    · exact Nat.not_lt.mpr hfits hover
  exact if_neg (Bool.eq_false_iff.mp hused)

/-- A call of a busy unit: the fault, and the unit goes on. -/
theorem mcall_refused (hbusy : (myCore s).mx.busy = true) (hlive : (myCore s).frozenAt = none) :
    ∃ t, exec (.mcall m) s = .next t ∧ (coreOf t (me s)).mx = (myCore s).mx ∧ t.agenda = s.agenda ∧
      ∃ r ∈ (coreOf t (me s)).raised, r.code = 0x13 := by
  have arrival := ownStep_noteTrigger ((dstId (.mcall m)).getD 0 / 64) fl s
  have hx := (exec_mcall m s).trans (trigger_arrival _ _ _ _ _ h)
  generalize (modMe s fun c => noteTrigger ((dstId (.mcall m)).getD 0 / 64) c fl) = u at *
  generalize noteTrigger ((dstId (.mcall m)).getD 0 / 64) (myCore s) fl = d at *
  have hbusy' : (noted (myCore s) d).mx.busy = true := hbusy
  obtain ⟨unused, st, hx⟩ : ∃ unused st, exec (.mcall m) s =
      .next (modMe u (mcallFaults fl unused st ((scalarIn .z fl.val).toNat % 256))) := by
    refine ⟨_, _, hx.trans (congrArg _ (if_pos ?_))⟩
    rw [arrival.myCore_eq, hbusy', Bool.true_or]
  have whole := arrival.thenMod (mcallFaults fl unused st ((scalarIn .z fl.val).toNat % 256))
  refine ⟨_, hx, ?_, whole.agenda.trans (List.append_nil _), ?_⟩
  · rw [whole.core, mcallFaults_spec]
    rfl
  · rw [whole.core]
    exact mcallFaults_busy fl unused st _ hbusy' hlive

theorem muwr_completes {i : Instr} (hx : exec i s = muwr i m s) :
    let p := (portOf (myCore s) 0x200).toNat
    Completes i s (myCore s) [ownJob s (fl.arrive + 1) phEnd
      (.deed (.muwr (p.testBit 15) (if p.testBit 15 then p % 256 else p % 4096) (scalarIn .z fl.val)))] := by
  intro p
  refine completes_of_schedules h hx fun u d own => ?_
  have hport : portOf (myCore u) 0x200 = portOf (myCore s) 0x200 := by rw [own.myCore_eq]; rfl
  have step := ownStep_postDeed u (fl.arrive + 1) phEnd
    (.muwr (p.testBit 15) (if p.testBit 15 then p % 256 else p % 4096) (scalarIn .z fl.val))
  rw [own.ownJob_eq rfl] at step
  simp only [hport]
  exact step

/-- The zeroings noted when one of tile `t` is due in the cycle after `a`. -/
def zeroings (c : Core) (a t : Nat) : List (Nat × Nat × Bool) :=
  (c.mx.zeros.filter fun z => decide (a ≤ z.1)) ++ [(a + 1, t, true)]

theorem mzero_completes (hno : updatesTile s (me s) ((scalarIn .z fl.val).toNat % 8) (fl.arrive + 1) = false) :
    ∃ zs, Completes (.mzero m) s { myCore s with mx := { (myCore s).mx with zeros := zs } }
      [ownJob s (fl.arrive + 1) phEnd (.deed (.mzero ((scalarIn .z fl.val).toNat % 8)))] := by
  refine ⟨zeroings (myCore s) fl.arrive ((scalarIn .z fl.val).toNat % 8), completes_of_change (f := fun c => setMx c { c.mx with
    zeros := zeroings c fl.arrive ((scalarIn .z fl.val).toNat % 8) })
    h (exec_mzero m s) (fun u d own => ?_) (fun d => rfl) rfl⟩
  have hsame : updatesTile u (me u) ((scalarIn .z fl.val).toNat % 8) (fl.arrive + 1) = false := by
    rw [updatesTile, own.agenda, List.append_nil, own.me_eq, own.core]
    exact hno
  exact if_neg (Bool.eq_false_iff.mp hsame)

/-- An MLUT within its group has its first read scheduled (R164). -/
theorem mlut_starts (halign : (scalarIn .z fl.val).toNat % 2 ^ 22 % 32 = 0)
    (hspan : (scalarIn .z fl.val).toNat % 2 ^ 22 / 2 ^ 20 = ((scalarIn .z fl.val).toNat % 2 ^ 22 + 271) / 2 ^ 20) :
    BankStarts (.mlut m) s (fl.arrive + 1) phRead (.mlutRead ((scalarIn .z fl.val).toNat % 2 ^ 22)) := by
  generalize ha : (scalarIn .z fl.val).toNat % 2 ^ 22 = a at *
  have hok : spanOk (groupOf a) a 272 32 = true := by
    refine decide_eq_true ⟨halign, ?_, rfl, hspan.symm⟩
    rw [← ha]
    exact Nat.mod_lt _ (by decide)
  let claim : Core → Core := fun c => if claimedAt c a 272 fl.arrive then c else raiseFor c fl [] 0x0A (BitVec.ofNat 64 a) 0 0
  let reads : Core → Core := fun c => reserve (reserve c (mkAccess (fl.arrive + 1) a 256 0 (fl.issue, fl.bundle, fl.slot) false))
    (mkAccess (fl.arrive + 2) (a + 256) 16 0 (fl.issue, fl.bundle, fl.slot) false)
  have claimed (c : Core) : BankChecked c (claim c) := by
    show BankChecked c (if _ then _ else _)
    split
    · exact .refl c
    · exact bankChecked_raiseFor _ _ _ _ _ _ _ (by simp)
  have checked : BankChecked (myCore s) (reads (claim (noteTrigger ((dstId (.mlut m)).getD 0 / 64) (myCore s) fl))) :=
    ((bankChecked_noteTrigger ..).trans (claimed _)).trans ((bankChecked_reserve ..).trans (bankChecked_reserve ..))
  have begun := ((ownStep_modMe s fun c => noteTrigger ((dstId (.mlut m)).getD 0 / 64) c fl).thenMod claim).thenMod reads
  have whole := begun.thenDeed checked.gang_eq (fl.arrive + 1) phRead (.mlutRead a)
  have hx := (exec_mlut m s).trans (trigger_arrival _ _ _ _ _ h)
  simp only [ha, hok] at hx
  refine ⟨_, hx, ?_, ?_, ?_⟩
  · exact whole.core.symm ▸ checked.raises
  · exact whole.core.symm ▸ checked.deferred
  · have hcore := whole.core
    have step := whole
    rw [checked.frame] at step
    rw [← hcore] at step
    exact step

end

/-! What the scheduled writes do (R164, R168). -/

theorem muwr_writes (s : State) (k i j : Nat) (w : Word) :
    let c := coreOf s k
    let d := fun e => coreOf (performDeed s k (.muwr e i w)) k
    (tget 0 (d false).mx.store j = if j = i then w else tget 0 c.mx.store j) ∧ (d false).mx.routines = c.mx.routines ∧
    (tget 0 (d true).mx.routines j = if j = i then w.setWidth 32 &&& 0x1FFF0FFF else tget 0 c.mx.routines j) ∧
    (d true).mx.store = c.mx.store := by
  intro c d
  have hd (e : Bool) : d e = setMx c (if e then { c.mx with routines := tset 0 c.mx.routines i (w.setWidth 32 &&& 0x1FFF0FFF) }
      else { c.mx with store := tset 0 c.mx.store i w }) := coreOf_modCore_self ..
  rw [hd, hd]
  exact ⟨tget_tset .., rfl, tget_tset .., rfl⟩

/-- A table without the entries that `p` excludes. -/
theorem tget_filter {α : Type} (d : α) (t : Table α) (p : Nat → Bool) (k : Nat) :
    tget d (t.filter fun e => p e.1) k = if p k then tget d t k else d := by
  induction t with
  | nil => simp [tget]
  | cons e t ih =>
    obtain ⟨j, v⟩ := e
    by_cases hj : k = j
    · subst hj
      cases hp : p k <;> simp [tget, hp, ih]
    · cases hp : p j <;> simp [tget, hp, ih, hj]

theorem accOf_zeroTile (c : Core) (n t : Nat) {i j : Nat} (hi : i < 128) (hj : j < 64) :
    accOf (zeroTile c n) t i j = if t = n then 0 else accOf c t i j := by
  have hkey : accKey t i j / 8192 = t := by rw [accKey]; omega
  refine (tget_filter 0 c.mx.acc (fun k => k / 8192 != n) (accKey t i j)).trans ?_
  rw [hkey]
  by_cases ht : t = n
  · simp [ht]
  · simp [ht, accOf]

theorem rowPtrOf_zeroTile (c : Core) (n t : Nat) : rowPtrOf (zeroTile c n) t = if t = n then 0 else rowPtrOf c t :=
  tget_tset (0 : Nat) c.mx.rowPtr n t 0

/-- The deed of a MUWR, by the bit that tells what it writes. -/
theorem muwr_deed (p : Nat) (z : Word) :
    Deed.muwr (p.testBit 15) (if p.testBit 15 then p % 256 else p % 4096) z =
      if p.testBit 15 then Deed.muwr true (p % 256) z else .muwr false (p % 4096) z := by
  cases p.testBit 15 <;> rfl

/-- Settles O31: each trigger starts its work, which writes what it names. -/
theorem matrixTriggersTakeEffect : Obligations.MatrixTriggersTakeEffect := by
  unfold Obligations.MatrixTriggersTakeEffect
  refine ⟨fun s fl m h => ⟨mcall_completes m h, mcall_refused m h, ?_, ?_, mlut_starts m h, mzero_completes m h⟩,
    muwr_writes, fun s k n t i j hi hj => ?_⟩
  · exact muwr_deed _ _ ▸ muwr_completes m h (exec_muwr m s)
  · exact muwr_deed _ _ ▸ muwr_completes m h (exec_muwrRoutineEntry m s)
  · have hd : coreOf (performDeed s k (.mzero n)) k = zeroTile (coreOf s k) n := coreOf_modCore_self ..
    dsimp only
    rw [hd]
    exact ⟨accOf_zeroTile _ _ _ hi hj, rowPtrOf_zeroTile _ _ _, rfl⟩

end Sys2Proof.Machine
end

section
/-! PROOF. The microsequencer: micro-operations, loop counters and end steps (R169 to R172, R387, R390, R393). -/

namespace Sys2Proof.Machine

theorem exec_mnop (s : State) : exec .mnop s = .next (microStep s) := rfl
theorem exec_msetImm (d : Fin 16) (imm : BitVec 48) (s : State) :
    exec (.msetImm d imm) s = .next (microStep (modMe s fun c => setMreg c d.val (imm.signExtend 64))) := rfl
theorem exec_msetMp (d : Fin 16) (n : Fin 8) (s : State) :
    exec (.msetMp d n) s = .next (microStep (modMe s fun c => setMreg c d.val (portOf c (0x200 + n.val)))) := rfl
theorem exec_msetAdd (d : Fin 16) (imm : BitVec 48) (s : State) :
    exec (.msetAdd d imm) s = .next (microStep (modMe s fun c => setMreg c d.val (mregOf c d.val + imm.signExtend 64))) := rfl
theorem exec_midle (t : BitVec 20) (s : State) : exec (.midle t) s = execMidle t s := rfl
theorem exec_mend (s : State) : exec .mend s = execMend s := rfl
theorem exec_mloop (l : Fin 2) (cm : Bool) (cr : Fin 16) (last : BitVec 12) (count : BitVec 32) (s : State) :
    exec (.mloop l cm cr last count) s = execMloop l cm cr last count s := rfl

/-! The microword is done: the end steps of its address, and the next microword. -/

/-- The unit that goes on from address `pc`: at the body of a counter with iterations left, or at `next`. -/
def wentOn (m : Mx) (pc next : Nat) : Mx := { (microEnd m pc).1 with pc := (microEnd m pc).2.getD next }

theorem ownStep_microNext (s : State) (cycles next : Nat) :
    OwnStep s (microNext s cycles next) (setMx (myCore s) (wentOn (myCore s).mx (myCore s).mx.pc next))
      [ownJob s (now s + cycles) phMicro (.deed .micro)] := by
  have change := ownStep_modMe s fun c => setMx c (wentOn c.mx c.mx.pc next)
  have step := change.thenDeed rfl (now s + cycles) phMicro .micro
  have hnow : now (modMe s fun c => setMx c (wentOn c.mx c.mx.pc next)) = now s := change.now_eq rfl
  rw [← hnow] at step ⊢
  exact step

/-- A change of the unit, after which the microsequencer goes on from its address. -/
theorem OwnStep.thenNext {s t : State} {c : Core} {js : List Job} (h : OwnStep s t c js) (hg : c.gang = (myCore s).gang)
    (cycles next : Nat) :
    OwnStep s (microNext t cycles next) (setMx c (wentOn c.mx c.mx.pc next))
      (js ++ [ownJob s (now s + cycles) phMicro (.deed .micro)]) := by
  have step := ownStep_microNext t cycles next
  rw [h.myCore_eq, h.ownJob_eq hg, h.now_eq hg] at step
  exact h.trans step

/-- A micro-operation of one cycle that changes the unit first. -/
theorem microStep_of (s : State) (f : Core → Core) {mx : Mx} (hf : f (myCore s) = setMx (myCore s) mx)
    (hpc : mx.pc = (myCore s).mx.pc) :
    OwnStep s (microStep (modMe s f)) (setMx (myCore s) (wentOn mx (myCore s).mx.pc ((myCore s).mx.pc + 1)))
      [ownJob s (now s + 1) phMicro (.deed .micro)] := by
  have change := ownStep_modMe s f
  rw [hf] at change
  have step := change.thenNext rfl 1 ((myCore s).mx.pc + 1)
  have hnext : microStep (modMe s f) = microNext (modMe s f) 1 ((myCore s).mx.pc + 1) := by
    rw [microStep, change.myCore_eq]
    exact congrArg (fun n => microNext _ 1 (n + 1)) hpc
  rw [hnext]
  have hpc' : (setMx (myCore s) mx).mx.pc = (myCore s).mx.pc := hpc
  rw [hpc'] at step
  exact step

theorem mnop_goes (s : State) :
    OwnStep s (microStep s) (setMx (myCore s) (wentOn (myCore s).mx (myCore s).mx.pc ((myCore s).mx.pc + 1)))
      [ownJob s (now s + 1) phMicro (.deed .micro)] := ownStep_microNext s 1 _

/-! MIDLE (R172, R387). -/

theorem midle_short {t : BitVec 20} (s : State) (h : t.toNat ≤ 1) : exec (.midle t) s = .next (microStep s) := by
  rw [exec_midle, execMidle, if_pos h]

/-- The unit waits `n` cycles more. -/
theorem idles (s : State) (n : Nat) :
    OwnStep s (postDeed (modMe s fun c => setMx c { c.mx with idle := n }) (me s) (now s + 1) phMicro .micro)
      (setMx (myCore s) { (myCore s).mx with idle := n }) [ownJob s (now s + 1) phMicro (.deed .micro)] :=
  (ownStep_modMe s fun c => setMx c { c.mx with idle := n }).thenDeed rfl (now s + 1) phMicro .micro

theorem midle_long {t : BitVec 20} (s : State) (h : 1 < t.toNat) :
    ∃ u, exec (.midle t) s = .next u ∧ OwnStep s u (setMx (myCore s) { (myCore s).mx with idle := t.toNat - 1 })
      [ownJob s (now s + 1) phMicro (.deed .micro)] := by
  refine ⟨_, ?_, idles s _⟩
  rw [exec_midle, execMidle, if_neg (Nat.not_le.mpr h)]

/-- A cycle of a MIDLE that goes on. -/
theorem micro_idle {s : State} (hbusy : (myCore s).mx.busy = true) (h : 0 < (myCore s).mx.idle) :
    performDeed s (me s) .micro =
      let t := modMe s fun c => setMx c { c.mx with idle := (myCore s).mx.idle - 1 }
      if (myCore s).mx.idle = 1 then microStep t else postDeed t (me s) (now s + 1) phMicro .micro := by
  have hnow := (ownStep_modMe s fun c => setMx c { c.mx with idle := (myCore s).mx.idle - 1 }).now_eq rfl
  show microTick s (me s) = _
  unfold microTick
  rw [← myCore]
  dsimp only
  rw [if_neg (by rw [hbusy]; simp), if_pos h, hnow]

theorem micro_idles {s : State} (hbusy : (myCore s).mx.busy = true) (h : 1 < (myCore s).mx.idle) :
    OwnStep s (performDeed s (me s) .micro) (setMx (myCore s) { (myCore s).mx with idle := (myCore s).mx.idle - 1 })
      [ownJob s (now s + 1) phMicro (.deed .micro)] := by
  rw [micro_idle hbusy (Nat.lt_of_succ_lt h)]
  dsimp only
  rw [if_neg (Nat.ne_of_gt h)]
  exact idles s _

theorem micro_idled {s : State} (hbusy : (myCore s).mx.busy = true) (h : (myCore s).mx.idle = 1) :
    OwnStep s (performDeed s (me s) .micro)
      (setMx (myCore s) (wentOn { (myCore s).mx with idle := 0 } (myCore s).mx.pc ((myCore s).mx.pc + 1)))
      [ownJob s (now s + 1) phMicro (.deed .micro)] := by
  rw [micro_idle hbusy (by omega), h]
  exact microStep_of s _ rfl rfl

/-! MEND (R166, R385). -/

theorem mend_ends (s : State) :
    ∃ u, exec .mend s = .next u ∧ OwnStep s u (setMx (myCore s) { (myCore s).mx with busy := false })
      [ownJob s (now s + 1) phDone (.event (.operationComplete (me s) .mx ((mregOf (myCore s) 0).setWidth 2048) 0))] := by
  have change := ownStep_modMe s fun c => setMx c { c.mx with busy := false }
  have hnow := change.now_eq rfl
  have step := change.thenCore rfl (now s + 1) phDone
    (.event (.operationComplete (me s) .mx ((mregOf (myCore s) 0).setWidth 2048) 0))
  refine ⟨_, ?_, step⟩
  rw [exec_mend, execMend]
  simp only [change.myCore_eq, hnow]
  rfl

/-! MLOOP (R172, R390). -/

/-- The count of an MLOOP: a micro-register's, or its own. -/
def loopTrips (c : Core) (cm : Bool) (cr : Fin 16) (count : BitVec 32) : Nat :=
  if cm then (mregOf c cr.val).toNat else count.toNat

/-- Counter `own` of the unit may start a loop of `k` iterations that ends at `e`, with `other` the other counter. -/
def LoopOk (x : Mx) (own other : MicroLoop) (k e : Nat) : Prop :=
  k ≤ 2 ^ 32 - 1 ∧ own.active = false ∧ x.pc < e ∧ x.start ≤ e ∧ e < x.start + x.length ∧ (other.active = true → e ≤ other.last)

/-- What an MLOOP refuses is what is not allowed. -/
theorem loop_refused_iff (x : Mx) (own other : MicroLoop) (cm : Bool) {k : Nat} (e : Nat) (hk : cm = false → k ≤ 2 ^ 32 - 1) :
    ((cm ∧ 2 ^ 32 - 1 < k) ∨ own.active ∨ e ≤ x.pc ∨ e < x.start ∨ x.start + x.length ≤ e ∨ (other.active ∧ other.last < e)) ↔
      ¬LoopOk x own other k e := by
  unfold LoopOk
  cases cm <;> cases own.active <;> cases other.active <;> simp at hk ⊢ <;> omega

section

variable {s : State} (l : Fin 2) (cm : Bool) (cr : Fin 16) (last : BitVec 12) (count : BitVec 32)

theorem mloop_eq {k : Nat} (hk : k = loopTrips (myCore s) cm cr count) :
    exec (.mloop l cm cr last count) s =
      let x := (myCore s).mx
      let o := otherCounter x l
      if (cm ∧ 2 ^ 32 - 1 < k) ∨ (counterOf x l).active ∨ last.toNat ≤ x.pc ∨ last.toNat < x.start ∨
          x.start + x.length ≤ last.toNat ∨ (o.active ∧ o.last < last.toNat) then .next (microFault s 3)
      else if k = 0 then .next (microNext s 1 (last.toNat + 1))
      else .next (microStep (modMe s fun c => setMx c
        (if l = 0 then { c.mx with lc0 := ⟨true, x.pc + 1, last.toNat, k, o.order + 1⟩ }
          else { c.mx with lc1 := ⟨true, x.pc + 1, last.toNat, k, o.order + 1⟩ }))) := by
  subst hk
  rfl

theorem loopTrips_small {c : Core} (h : cm = false) : loopTrips c cm cr count ≤ 2 ^ 32 - 1 := by
  have := count.isLt
  rw [loopTrips, h, if_neg Bool.false_ne_true]
  omega

/-- The unit with counter `l` started for `k` iterations up to address `e`. -/
def loopStarted (x : Mx) (l : Fin 2) (k e : Nat) : Mx :=
  if l = 0 then { x with lc0 := ⟨true, x.pc + 1, e, k, (otherCounter x l).order + 1⟩ }
  else { x with lc1 := ⟨true, x.pc + 1, e, k, (otherCounter x l).order + 1⟩ }

variable (ok : LoopOk (myCore s).mx (counterOf (myCore s).mx l) (otherCounter (myCore s).mx l)
  (loopTrips (myCore s) cm cr count) last.toNat)

include ok in
theorem mloop_allowed :
    exec (.mloop l cm cr last count) s =
      if loopTrips (myCore s) cm cr count = 0 then .next (microNext s 1 (last.toNat + 1))
      else .next (microStep (modMe s fun c => setMx c (loopStarted (myCore s).mx l (loopTrips (myCore s) cm cr count) last.toNat))) := by
  rw [mloop_eq l cm cr last count rfl]
  dsimp only
  rw [if_neg (fun h => (loop_refused_iff _ _ _ cm _ (loopTrips_small cm cr count)).mp h ok)]
  rfl

include ok in
theorem mloop_starts (hk : loopTrips (myCore s) cm cr count ≠ 0) :
    ∃ u, exec (.mloop l cm cr last count) s = .next u ∧
      OwnStep s u (setMx (myCore s) (wentOn (loopStarted (myCore s).mx l (loopTrips (myCore s) cm cr count) last.toNat)
        (myCore s).mx.pc ((myCore s).mx.pc + 1))) [ownJob s (now s + 1) phMicro (.deed .micro)] := by
  refine ⟨_, (mloop_allowed l cm cr last count ok).trans (if_neg hk), microStep_of s _ rfl ?_⟩
  unfold loopStarted
  split <;> rfl

include ok in
theorem mloop_passes (hk : loopTrips (myCore s) cm cr count = 0) :
    ∃ u, exec (.mloop l cm cr last count) s = .next u ∧
      OwnStep s u (setMx (myCore s) (wentOn (myCore s).mx (myCore s).mx.pc (last.toNat + 1)))
        [ownJob s (now s + 1) phMicro (.deed .micro)] :=
  ⟨_, (mloop_allowed l cm cr last count ok).trans (if_pos hk), ownStep_microNext s 1 _⟩

end

/-- A microprogram fault is raised on a core that no fault has frozen. -/
theorem microFault_raises {s : State} (sub : Nat) (hlive : (myCore s).frozenAt = none) :
    (microFault s sub).agenda = s.agenda ∧ ∃ r ∈ (coreOf (microFault s sub) (me s)).raised, r.code = 0x15 ∧
      r.a = BitVec.ofNat 64 (myCore s).mx.pc ∧ r.b = BitVec.ofNat 64 sub ∧ r.c = BitVec.ofNat 64 (myCore s).mx.routine := by
  have step := ownStep_modMe s fun c =>
    raiseNow c (now s) 0x15 (BitVec.ofNat 64 c.mx.pc) (BitVec.ofNat 64 sub) (BitVec.ofNat 64 c.mx.routine)
  refine ⟨step.agenda.trans (List.append_nil _), ?_⟩
  rw [microFault, step.core, raiseNow, addRaise_live _ _ hlive]
  exact ⟨_, List.mem_append_right _ (List.mem_singleton_self _), rfl, rfl, rfl, rfl⟩

theorem mloop_refused {s : State} (l : Fin 2) (cm : Bool) (cr : Fin 16) (last : BitVec 12) (count : BitVec 32)
    (hno : ¬LoopOk (myCore s).mx (counterOf (myCore s).mx l) (otherCounter (myCore s).mx l) (loopTrips (myCore s) cm cr count)
      last.toNat) :
    exec (.mloop l cm cr last count) s = .next (microFault s 3) := by
  rw [mloop_eq l cm cr last count rfl]
  exact if_pos ((loop_refused_iff _ _ _ cm _ (loopTrips_small cm cr count)).mpr hno)

/-! End steps (R172). -/

theorem microEnd_none {m : Mx} {pc : Nat} (h0 : m.lc0.active = true → m.lc0.last ≠ pc) (h1 : m.lc1.active = true → m.lc1.last ≠ pc) :
    microEnd m pc = (m, none) := by
  have e0 : (m.lc0.active && m.lc0.last == pc) = false := by cases h : m.lc0.active <;> simp_all
  have e1 : (m.lc1.active && m.lc1.last == pc) = false := by cases h : m.lc1.active <;> simp_all
  unfold microEnd
  rw [e0, e1]
  rfl

section

variable {m : Mx} {pc : Nat} (hactive : m.lc0.active = true) (hlast : m.lc0.last = pc)
  (hinner : m.lc1.active = true → m.lc1.last ≠ pc ∧ m.lc1.order < m.lc0.order)
include hactive hlast hinner

/-- Counter 0 is the inner one, and the only one that ends at `pc`. -/
theorem microEnd_lc0 : microEnd m pc =
    match stepCounter m.lc0 with
    | (l, some b) => ({ m with lc0 := l }, some b)
    | (l, none) => ({ m with lc0 := l }, none) := by
  have e0 : (m.lc0.active && m.lc0.last == pc) = true := by simp [hactive, hlast]
  have e1 : (m.lc1.active && m.lc1.last == pc) = false := by
    cases h : m.lc1.active
    · rfl
    · simpa using (hinner h).1
  have first : (!m.lc1.active || decide (m.lc1.order < m.lc0.order)) = true := by
    cases h : m.lc1.active
    · rfl
    · simpa using (hinner h).2
  unfold microEnd
  rw [e0, e1, first]
  rfl

theorem microEnd_repeats (hleft : 1 < m.lc0.left) :
    microEnd m pc = ({ m with lc0 := { m.lc0 with left := m.lc0.left - 1 } }, some m.lc0.body) := by
  rw [microEnd_lc0 hactive hlast hinner, stepCounter, if_pos hleft]

theorem microEnd_ends (hleft : m.lc0.left ≤ 1) :
    microEnd m pc = ({ m with lc0 := { m.lc0 with active := false, left := 0 } }, none) := by
  rw [microEnd_lc0 hactive hlast hinner, stepCounter, if_neg (Nat.not_lt.mpr hleft)]

end

/-- Settles O32: each micro-operation changes the unit and goes on, and the end steps order the microwords. -/
theorem microOpsTakeEffect : Obligations.MicroOpsTakeEffect := by
  unfold Obligations.MicroOpsTakeEffect
  refine ⟨fun s d n imm t => ⟨⟨_, exec_mnop s, mnop_goes s⟩, ⟨_, exec_msetImm d imm s, microStep_of s _ rfl rfl⟩,
    ⟨_, exec_msetMp d n s, microStep_of s _ rfl rfl⟩, ⟨_, exec_msetAdd d imm s, microStep_of s _ rfl rfl⟩,
    fun ht => ⟨_, midle_short s ht, mnop_goes s⟩, midle_long s, ⟨micro_idles, micro_idled⟩, mend_ends s,
    fun cm cr last count => ⟨mloop_starts 0 cm cr last count, mloop_starts 1 cm cr last count,
      mloop_passes 0 cm cr last count, fun hno hlive => ?_⟩⟩,
    fun m pc => ⟨microEnd_none, fun hactive hlast hinner => ⟨microEnd_repeats hactive hlast hinner,
      microEnd_ends hactive hlast hinner⟩⟩⟩
  obtain ⟨hagenda, hraised⟩ := microFault_raises (s := s) 3 hlive
  exact ⟨_, mloop_refused 0 cm cr last count hno, hagenda, hraised⟩

end Sys2Proof.Machine
end

section
/-! PROOF. The matrix micro-operations: zeroing, binding, staging, steps and epilogues (R165, R173, R176 to R179, R386 to R392). -/

namespace Sys2Proof.Machine

theorem exec_mzacc (t : Sel) (s : State) : exec (.mzacc t) s = execMzacc t s := rfl
theorem exec_mlda (q : Sel) (cls : BitVec 2) (s : State) : exec (.mlda q cls) s = execMlda q cls s := rfl
theorem exec_mldb (q r : Sel) (cls : BitVec 2) (s : State) : exec (.mldb q r cls) s = execMldb q r cls s := rfl
theorem exec_mmac (t : Sel) (s : State) : exec (.mmac t) s = matrixStep false t s := rfl
theorem exec_mmacs (t : Sel) (s : State) : exec (.mmacs t) s = matrixStep true t s := rfl
theorem exec_mepi (e : MepiFields) (s : State) : exec (.mepi e) s = execMepi e s := rfl

/-! Work of its own core that is scheduled, among other work. -/

/-- The step changes its own core to `c` and schedules at least `js`. -/
def Does (s t : State) (c : Core) (js : List Job) : Prop := ∃ ks, OwnStep s t c ks ∧ ∀ j ∈ js, j ∈ ks

theorem does_modMe (s : State) (f : Core → Core) : Does s (modMe s f) (f (myCore s)) [] :=
  ⟨_, ownStep_modMe s f, fun _ h => h⟩

section

variable {s t : State} {c : Core} {js : List Job} (h : Does s t c js) (hg : c.gang = (myCore s).gang)
include h hg

theorem Does.thenCore (due ph : Nat) (x : Task) : Does s (postCore t (me s) due ph x) c (js ++ [ownJob s due ph x]) := by
  obtain ⟨ks, own, hks⟩ := h
  rw [← own.me_eq]
  refine ⟨_, own.thenCore hg due ph x, fun j hj => ?_⟩
  rcases List.mem_append.mp hj with hj | hj
  · exact List.mem_append_left _ (hks j hj)
  · exact List.mem_append_right _ hj

theorem Does.thenDeed (due ph : Nat) (d : Deed) : Does s (postDeed t (me s) due ph d) c (js ++ [ownJob s due ph (.deed d)]) :=
  h.thenCore hg due ph (.deed d)

theorem Does.thenSettle (x : Nat) : Does s (postSettle t (me s) x) c js := by
  unfold postSettle
  split
  · exact h
  · obtain ⟨ks, own, hks⟩ := h.thenDeed hg x phSettle .settle
    exact ⟨ks, own, fun j hj => hks j (List.mem_append_left _ hj)⟩

end

theorem Does.foldl {s t : State} {c : Core} {js : List Job} {f : State → Nat → State} {jobs : Nat → List Job} (gs : List Nat)
    (h : Does s t c js) (step : ∀ u ks g, Does s u c ks → Does s (f u g) c (ks ++ jobs g)) :
    Does s (gs.foldl f t) c (js ++ gs.flatMap jobs) := by
  induction gs generalizing t js with
  | nil => simpa using h
  | cons g gs ih =>
    have rest := ih (step t js g h)
    rw [List.append_assoc] at rest
    exact rest

/-! A micro-operation that starts its work and goes on. -/

/-- The micro-operation leaves the unit as `mx`, but for its end steps and address, and schedules `js` and the next microword. -/
def GoesOn (i : Instr) (s : State) (mx : Mx) (js : List Job) : Prop :=
  ∃ u, exec i s = .next u ∧ coreOf u (me s) = setMx (myCore s) (wentOn mx (myCore s).mx.pc ((myCore s).mx.pc + 1)) ∧
    (∀ k, k ≠ me s → coreOf u k = coreOf s k) ∧ u.gangs = s.gangs ∧ u.hub = s.hub ∧ (∀ j ∈ s.agenda, j ∈ u.agenda) ∧
    ownJob s (now s + 1) phMicro (.deed .micro) ∈ u.agenda ∧ ∀ j ∈ js, j ∈ u.agenda

theorem goesOn_of {i : Instr} {s t : State} {mx : Mx} {js : List Job} (hx : exec i s = .next (microStep t))
    (h : Does s t (setMx (myCore s) mx) js) (hpc : mx.pc = (myCore s).mx.pc) : GoesOn i s mx js := by
  obtain ⟨ks, own, hks⟩ := h
  have step := own.thenNext rfl 1 ((myCore s).mx.pc + 1)
  have hpc' : (setMx (myCore s) mx).mx.pc = (myCore s).mx.pc := hpc
  have hnext : microStep t = microNext t 1 ((myCore s).mx.pc + 1) := by rw [microStep, own.myCore_eq, hpc']
  rw [hpc'] at step
  rw [hnext] at hx
  refine ⟨_, hx, step.core, step.others, step.gangs, step.hub, fun j hj => ?_, ?_, fun j hj => ?_⟩ <;> rw [step.agenda]
  · exact List.mem_append_left _ hj
  · exact List.mem_append_right _ (List.mem_append_right _ (List.mem_singleton_self _))
  · exact List.mem_append_right _ (List.mem_append_left _ (hks j hj))

theorem setMx_mx (c : Core) : setMx c c.mx = c := rfl

section

variable {s : State}

/-! MZACC, MLDA and MLDB. -/

theorem mzacc_goes (t : Sel) (hfree : updatesTile s (me s) (selNat (myCore s) t % 8) (now s + 1) = false)
    (hz : (now s + 1, selNat (myCore s) t % 8, true) ∉ (myCore s).mx.zeros) :
    GoesOn (.mzacc t) s (myCore s).mx [ownJob s (now s + 1) phEnd (.deed (.mzero (selNat (myCore s) t % 8)))] := by
  have begun : Does s s (setMx (myCore s) (myCore s).mx) [] := ⟨[], ownStep_refl s, fun _ h => h⟩
  refine goesOn_of ?_ (begun.thenDeed rfl (now s + 1) phEnd (.mzero (selNat (myCore s) t % 8))) rfl
  have hno : ((myCore s).mx.zeros.any fun z => decide (z = (now s + 1, selNat (myCore s) t % 8, true))) = false := by
    rw [List.any_eq_false]
    rintro z hz' heq
    exact hz (of_decide_eq_true heq ▸ hz')
  rw [exec_mzacc, execMzacc]
  dsimp only
  rw [if_neg (Bool.eq_false_iff.mp hfree), hno, if_neg Bool.false_ne_true]

theorem mlda_goes (q : Sel) {cls : BitVec 2} (hcls : cls ≠ 3)
    (hfit : roleFault .a (selNat (myCore s) q) (streamOf (myCore s) (selNat (myCore s) q)) = []) :
    GoesOn (.mlda q cls) s { (myCore s).mx with bindA := some (selNat (myCore s) q, cls.toNat) } [] := by
  refine goesOn_of ?_ (does_modMe s fun c => setMx c { c.mx with bindA := some (selNat (myCore s) q, cls.toNat) }) rfl
  have hfits : roleFaults (myCore s) [(.a, selNat (myCore s) q)] = [] := by
    rw [roleFaults, List.flatMap_cons, hfit]
    rfl
  rw [exec_mlda, execMlda]
  simp only [hfits]
  rw [if_neg hcls]

/-- The block that an MLDB stages. -/
def stagedBlock (c : Core) (n cls ready : Nat) : BBlock := ⟨cls, strMem (streamOf c n), n, ready, 0, [], [], []⟩

theorem mldb_goes (q r : Sel) {cls : BitVec 2} (hcls : cls ≠ 3)
    (hfit : roleFault .b (selNat (myCore s) q) (streamOf (myCore s) (selNat (myCore s) q)) = [])
    (hrouting : cls ≠ 0 → roleFault .routing (selNat (myCore s) r) (streamOf (myCore s) (selNat (myCore s) r)) = [])
    (hpair : ∀ a, (myCore s).mx.bindA = some a →
      groupOf (streamOf (myCore s) a.1).base ≠ groupOf (streamOf (myCore s) (selNat (myCore s) q)).base) :
    GoesOn (.mldb q r cls) s
      { (myCore s).mx with staged := some (stagedBlock (myCore s) (selNat (myCore s) q) cls.toNat (now s + 3)) }
      [ownJob s (now s + 1) phRead (.deed (.mxReadB (now s + 3) (selNat (myCore s) q) (selNat (myCore s) r) cls.toNat))] := by
  have staged := does_modMe s fun c => setMx c { c.mx with
    staged := some (stagedBlock (myCore s) (selNat (myCore s) q) cls.toNat (now s + 3)) }
  refine goesOn_of ?_ ((staged.thenSettle rfl (now s + 1)).thenDeed rfl (now s + 1) phRead
    (.mxReadB (now s + 3) (selNat (myCore s) q) (selNat (myCore s) r) cls.toNat)) rfl
  have hnopair : ((myCore s).mx.bindA.map fun b => sameGroup (myCore s) b.1 (selNat (myCore s) q)).getD false = false := by
    cases hbind : (myCore s).mx.bindA with
    | none => rfl
    | some a => simpa [sameGroup] using hpair a hbind
  have hfits : roleFaults (myCore s) ((.b, selNat (myCore s) q) ::
      if cls = 0 ∨ cls = 3 then [] else [(.routing, selNat (myCore s) r)]) = [] := by
    rw [roleFaults, List.flatMap_cons, hfit]
    by_cases h0 : cls = 0
    · rw [if_pos (.inl h0)]; rfl
    · rw [if_neg (by rintro (h | h); exacts [h0 h, hcls h]), List.flatMap_cons, hrouting h0]; rfl
  rw [exec_mldb, execMldb]
  simp only [hnopair, hfits]
  exact if_neg hcls

/-! MMAC and MMACS (R176 to R178, R392). -/

/-- The reads and updates of a step that starts at `x` and takes `len` cycles. -/
def stepJobs (s : State) (x len g : Nat) : List Job :=
  [ownJob s (if len = 8 then x + 1 + g else x + 1 + 4 * g) phRead (.deed (.mxReadA x g)),
   ownJob s (if len = 8 then x + 8 + g else x + 11 + 4 * g) phWrite (.event (.matrixGroupUpdate (me s) x g))]

/-- The unit after the start of step `p`. -/
def stepStarted (m : Mx) (p : MxStep) (len : Nat) : Mx :=
  { m with active := some p.b, staged := none, steps := m.steps ++ [p], lastStep := some (p.start, len) }

/-- What a step posts for row group `g`. -/
def stepPosts (k x len : Nat) (u : State) (g : Nat) : State :=
  let rd := if len = 8 then x + 1 + g else x + 1 + 4 * g
  postCore (postDeed (postSettle u k rd) k rd phRead (.mxReadA x g)) k (if len = 8 then x + 8 + g else x + 11 + 4 * g) phWrite
    (.event (.matrixGroupUpdate k x g))

theorem startStep_eq (s : State) (p : MxStep) (len : Nat) :
    startStep s p len =
      (List.range 8).foldl (stepPosts (me s) p.start len) (modMe s fun c => setMx c (stepStarted c.mx p len)) := rfl

theorem stepPosts_does {s u : State} {c : Core} {js : List Job} (x len g : Nat) (h : Does s u c js)
    (hg : c.gang = (myCore s).gang) : Does s (stepPosts (me s) x len u g) c (js ++ stepJobs s x len g) := by
  have both := ((h.thenSettle hg (if len = 8 then x + 1 + g else x + 1 + 4 * g)).thenDeed hg
    (if len = 8 then x + 1 + g else x + 1 + 4 * g) phRead (.mxReadA x g)).thenCore hg
    (if len = 8 then x + 8 + g else x + 11 + 4 * g) phWrite (.event (.matrixGroupUpdate (me s) x g))
  rw [List.append_assoc] at both
  exact both

theorem startStep_does (s : State) (p : MxStep) (len : Nat) :
    Does s (startStep s p len) (setMx (myCore s) (stepStarted (myCore s).mx p len))
      ((List.range 8).flatMap (stepJobs s p.start len)) := by
  rw [startStep_eq]
  have begun := does_modMe s fun c => setMx c (stepStarted c.mx p len)
  exact begun.foldl (List.range 8) fun u ks g h => stepPosts_does p.start len g h rfl

section

variable {sparse : Bool} {qa k : Nat} {b : BBlock} (hbind : (myCore s).mx.bindA = some (qa, k))
  (hblock : blockAt (myCore s).mx (now s) = some b)

include hbind hblock in
theorem stepSubs_none (hcls : b.cls = k) (hsparse : sparse = decide (k ≠ 0)) (hfree : arrayBusy (myCore s).mx (now s) = false) :
    stepSubs (myCore s).mx (now s) sparse = [] := by
  unfold stepSubs
  simp [hbind, hblock, hfree, hcls, hsparse]

include hbind hblock in
theorem stepFaults_none (hfit : roleFault .a qa (streamOf (myCore s) qa) = [])
    (hclass : arrayClass (fmtOf (strMem (streamOf (myCore s) qa))) = arrayClass (fmtOf b.fmt))
    (hwide : arrayClass (fmtOf (strMem (streamOf (myCore s) qa))) = 2 → sparse = false)
    (hgroup : groupOf (streamOf (myCore s) qa).base ≠ groupOf (streamOf (myCore s) b.src).base) :
    stepFaults (myCore s) (now s) sparse = [] := by
  have hno : ¬(arrayClass (fmtOf (strMem (streamOf (myCore s) qa))) ≠ arrayClass (fmtOf b.fmt) ∨
      (arrayClass (fmtOf (strMem (streamOf (myCore s) qa))) = 2 ∧ sparse = true)) := by
    rintro (h | ⟨h2, hs⟩)
    · exact h hclass
    · exact Bool.false_ne_true ((hwide h2).symm.trans hs)
  have hsame : sameGroup (myCore s) qa b.src = false := by simpa [sameGroup] using hgroup
  unfold stepFaults
  simp only [hbind, hblock, roleFaults, List.flatMap_cons, List.flatMap_nil, hfit, hsame]
  rw [if_neg hno]
  rfl

include hbind hblock in
theorem step_goes {i : Instr} {t : Sel} (hx : exec i s = matrixStep sparse t s) (hcls : b.cls = k)
    (hsparse : sparse = decide (k ≠ 0)) (hfree : arrayBusy (myCore s).mx (now s) = false)
    (hfit : roleFault .a qa (streamOf (myCore s) qa) = [])
    (hclass : arrayClass (fmtOf (strMem (streamOf (myCore s) qa))) = arrayClass (fmtOf b.fmt))
    (hwide : arrayClass (fmtOf (strMem (streamOf (myCore s) qa))) = 2 → sparse = false)
    (hgroup : groupOf (streamOf (myCore s) qa).base ≠ groupOf (streamOf (myCore s) b.src).base) :
    let fa := strMem (streamOf (myCore s) qa)
    let len := if arrayClass (fmtOf fa) = 2 then 32 else 8
    GoesOn i s (stepStarted (myCore s).mx ⟨now s, selNat (myCore s) t % 8, k, fa, qa, b, []⟩ len)
      ((List.range 8).flatMap (stepJobs s (now s) len)) := by
  intro fa len
  refine goesOn_of ?_ (startStep_does s ⟨now s, selNat (myCore s) t % 8, k, fa, qa, b, []⟩ len) rfl
  rw [hx, matrixStep]
  simp only [stepSubs_none hbind hblock hcls hsparse hfree, stepFaults_none hbind hblock hfit hclass hwide hgroup, hbind, hblock]
  rfl

end

/-- A step with no A bound is a microprogram fault of subcode 9 (R177). -/
theorem step_unbound {i : Instr} {t : Sel} {sparse : Bool} (hx : exec i s = matrixStep sparse t s)
    (hbind : (myCore s).mx.bindA = none) (hfree : arrayBusy (myCore s).mx (now s) = false)
    (hblock : blockAt (myCore s).mx (now s) ≠ none) : exec i s = .next (microFault s 9) := by
  have hsubs : stepSubs (myCore s).mx (now s) sparse = [9] := by
    unfold stepSubs
    simp [hbind, hblock, hfree]
  have hfaults : stepFaults (myCore s) (now s) sparse = [] := by
    unfold stepFaults
    rw [hbind]
  rw [hx, matrixStep]
  simp only [hsubs, hfaults]
  rfl

/-! MEPI (R180, R386). -/

/-- The epilogues in progress when one starts at `x`. -/
def epiloguesWith (c : Core) (x : Nat) (e : MepiFields) : List Epilogue :=
  (c.mx.epis.filter fun q => decide (x < q.start + 131)) ++ [⟨x, selNat c e.t % 8, selNat c e.o, e, selNat c e.b, []⟩]

/-- The unit as the start of an epilogue leaves it. -/
def epilogueStarted (c : Core) (x : Nat) (e : MepiFields) : Mx :=
  { c.mx with lastEpi := some x, epis := epiloguesWith c x e }

/-- With a bias, its item is read in the next cycle. -/
def biasRead (e : MepiFields) (k x q : Nat) (s : State) : State :=
  if e.bias then postDeed (postSettle s k (x + 1)) k (x + 1) phRead (.mxBias x q) else s

theorem biasRead_does {s t : State} {c : Core} (e : MepiFields) (x q : Nat) (h : Does s t c []) (hg : c.gang = (myCore s).gang) :
    Does s (biasRead e (me s) x q t) c [] := by
  unfold biasRead
  split
  · obtain ⟨ks, own, -⟩ := (h.thenSettle hg (x + 1)).thenDeed hg (x + 1) phRead (.mxBias x q)
    exact ⟨ks, own, fun j hj => absurd hj List.not_mem_nil⟩
  · exact h

theorem mepi_goes {e : MepiFields} (hsoon : ∀ l, (myCore s).mx.lastEpi = some l → l + 128 ≤ now s)
    (hout : roleFault .out (selNat (myCore s) e.o) (streamOf (myCore s) (selNat (myCore s) e.o)) = [])
    (hbias : e.bias = true → roleFault .bias (selNat (myCore s) e.b) (streamOf (myCore s) (selNat (myCore s) e.b)) = []) :
    GoesOn (.mepi e) s (epilogueStarted (myCore s) (now s) e)
      [ownJob s (now s + 2) phRead (.event (.epilogueRow (me s) (now s) 0))] := by
  have begun := does_modMe s fun c => setMx c { c.mx with lastEpi := some (now s), epis := epiloguesWith (myCore s) (now s) e }
  have biased := biasRead_does e (now s) (selNat (myCore s) e.b) begun rfl
  refine goesOn_of ?_ (biased.thenCore rfl (now s + 2) phRead (.event (.epilogueRow (me s) (now s) 0))) rfl
  have hnotsoon : ((myCore s).mx.lastEpi.map fun l => decide (now s < l + 128)).getD false = false := by
    cases hlast : (myCore s).mx.lastEpi with
    | none => rfl
    | some l => simpa using hsoon l hlast
  have hfits : roleFaults (myCore s) ((.out, selNat (myCore s) e.o) :: if e.bias then [(.bias, selNat (myCore s) e.b)] else [])
      = [] := by
    rw [roleFaults, List.flatMap_cons, hout]
    cases he : e.bias with
    | true => rw [if_pos rfl, List.flatMap_cons, hbias he]; rfl
    | false => rfl
  rw [exec_mepi, execMepi]
  simp only [hnotsoon, hfits]
  exact if_neg Bool.false_ne_true

end

/-- The jobs of a step as the statement lists them. -/
theorem stepJobs_wide {w : Prop} [Decidable w] (s : State) (x : Nat) :
    (List.range 8).flatMap (stepJobs s x (if w then 32 else 8)) = (List.range 8).flatMap fun g =>
      [ownJob s (if w then x + 1 + 4 * g else x + 1 + g) phRead (.deed (.mxReadA x g)),
       ownJob s (if w then x + 11 + 4 * g else x + 8 + g) phWrite (.event (.matrixGroupUpdate (me s) x g))] := by
  refine congrArg (fun f => List.flatMap f (List.range 8)) (funext fun g => ?_)
  by_cases h : w <;> simp [h, stepJobs]

/-- Settles O33: each matrix micro-operation whose streams fit starts its work and goes on. -/
theorem matrixStepsAccumulate : Obligations.MatrixStepsAccumulate := by
  unfold Obligations.MatrixStepsAccumulate
  intro s t q r cls e c x after goes sel n nt
  have hsel : sel = selNat c := funext fun q => by cases q <;> rfl
  clear_value sel
  subst hsel
  refine ⟨mzacc_goes t, mlda_goes q, mldb_goes q r, ⟨?_, ?_⟩, fun hbind hfree hblock hlive i hi => ?_, fun hsoon hout hbias =>
    ⟨_, List.mem_append_right _ (List.mem_singleton_self _), mepi_goes hsoon hout hbias⟩⟩
  · intro qa k b hbind hblock hcls hsparse hfree hfit fa wide hclass hwide hgroup
    have done := step_goes hbind hblock (exec_mmac t s) hcls hsparse hfree hfit hclass hwide hgroup
    dsimp only at done
    rw [stepJobs_wide] at done
    exact done
  · intro qa k b hbind hblock hcls hsparse hfree hfit fa wide hclass hwide hgroup
    have done := step_goes hbind hblock (exec_mmacs t s) hcls hsparse hfree hfit hclass hwide hgroup
    dsimp only at done
    rw [stepJobs_wide] at done
    exact done
  · obtain ⟨hagenda, ⟨x, hx, hcode, ha, hb, -⟩⟩ := microFault_raises (s := s) 9 hlive
    simp only [List.mem_cons, List.not_mem_nil, or_false] at hi
    rcases hi with rfl | rfl
    · exact ⟨_, step_unbound (exec_mmac t s) hbind hfree hblock, hagenda, x, hx, hcode, ha, hb⟩
    · exact ⟨_, step_unbound (exec_mmacs t s) hbind hfree hblock, hagenda, x, hx, hcode, ha, hb⟩

end Sys2Proof.Machine
end

section
/-! PROOF. Group updates of the array, and the rows of an epilogue (R178, R180). -/

namespace Sys2Proof.Machine

theorem exec_matrixGroupUpdate (k start g : Nat) (s : State) :
    exec (.matrixGroupUpdate k start g) s = execMatrixGroupUpdate k start g s := rfl
theorem exec_epilogueRow (k start r : Nat) (s : State) : exec (.epilogueRow k start r) s = execEpilogueRow k start r s := rfl

/-! The 1,024 elements of a row group. -/

/-- Key of element `n` of row group `g` of tile `t`. -/
def groupKey (t g n : Nat) : Nat := accKey t (16 * g + n / 64) (n % 64)

theorem groupKey_eq (t g n : Nat) : groupKey t g n = t * 8192 + g * 1024 + n := by
  rw [groupKey, accKey]; omega

/-- The update of element `n`. -/
def updateElem (p : MxStep) (g : Nat) (as sc : List Nat) (c : Core) (n : Nat) : Core :=
  let y := addBlocks p (fmtOf p.fmtA) (fmtOf p.b.fmt) (8 * blocksOf p.cls) (n / 64) (n % 64) as sc
    (tget 0 c.mx.acc (groupKey p.tile g n)).toNat
  addFlags (setMx c { c.mx with acc := tset 0 c.mx.acc (groupKey p.tile g n) (BitVec.ofNat 32 y.1) }) y.2

theorem groupUpdate_eq (c : Core) (p : MxStep) (g : Nat) (as sc : List Nat) :
    groupUpdate c p g as sc = (List.range 1024).foldl (updateElem p g as sc) c := rfl

/-- The value of element `n` after its update from `acc`. -/
def updatedElem (p : MxStep) (as sc : List Nat) (n : Nat) (acc : BitVec 32) : BitVec 32 :=
  BitVec.ofNat 32 (addBlocks p (fmtOf p.fmtA) (fmtOf p.b.fmt) (8 * blocksOf p.cls) (n / 64) (n % 64) as sc acc.toNat).1

/-- Updates change accumulators and flags alone. -/
def accFlagged (c d : Core) : Prop := d = { c with mx := { c.mx with acc := d.mx.acc }, flags := d.flags }

theorem accFlagged_updateElems (p : MxStep) (g : Nat) (as sc : List Nat) (ns : List Nat) (c : Core) :
    accFlagged c (ns.foldl (updateElem p g as sc) c) := by
  induction ns generalizing c with
  | nil => rfl
  | cons n ns ih =>
    have rest := ih (updateElem p g as sc c n)
    rw [accFlagged] at rest
    rw [accFlagged, List.foldl_cons, rest]
    rfl

/-- Distinct elements are updated each from the value before. -/
theorem acc_updateElems (p : MxStep) (g : Nat) (as sc : List Nat) (ns : List Nat) (hns : ns.Nodup) (c : Core) (key : Nat) :
    tget 0 (ns.foldl (updateElem p g as sc) c).mx.acc key =
      if p.tile * 8192 + g * 1024 ≤ key ∧ key - (p.tile * 8192 + g * 1024) ∈ ns then
        updatedElem p as sc (key - (p.tile * 8192 + g * 1024)) (tget 0 c.mx.acc key)
      else tget 0 c.mx.acc key := by
  induction ns generalizing c with
  | nil => simp
  | cons n ns ih =>
    obtain ⟨hn, hns⟩ := List.nodup_cons.mp hns
    have step : tget 0 (updateElem p g as sc c n).mx.acc key =
        if key = groupKey p.tile g n then updatedElem p as sc n (tget 0 c.mx.acc (groupKey p.tile g n))
        else tget 0 c.mx.acc key := tget_tset ..
    rw [List.foldl_cons, ih hns, step, groupKey_eq]
    by_cases hkey : key = p.tile * 8192 + g * 1024 + n
    · have hsub : key - (p.tile * 8192 + g * 1024) = n := by omega
      rw [if_pos hkey, hsub, if_neg fun h => hn h.2, if_pos ⟨by omega, List.mem_cons_self ..⟩, hkey]
    · rw [if_neg hkey]
      by_cases hin : p.tile * 8192 + g * 1024 ≤ key ∧ key - (p.tile * 8192 + g * 1024) ∈ ns
      · rw [if_pos hin, if_pos ⟨hin.1, List.mem_cons_of_mem _ hin.2⟩]
      · rw [if_neg hin, if_neg fun h => hin ⟨h.1, (List.mem_cons.mp h.2).resolve_left (by omega)⟩]

theorem groupUpdate_at (c : Core) (p : MxStep) (g : Nat) (as sc : List Nat) {n : Nat} (hn : n < 1024) :
    accOf (groupUpdate c p g as sc) p.tile (16 * g + n / 64) (n % 64) =
      updatedElem p as sc n (accOf c p.tile (16 * g + n / 64) (n % 64)) := by
  have hkey := groupKey_eq p.tile g n
  rw [groupKey] at hkey
  rw [accOf, accOf, groupUpdate_eq, acc_updateElems _ _ _ _ _ List.nodup_range, hkey,
    show p.tile * 8192 + g * 1024 + n - (p.tile * 8192 + g * 1024) = n by omega,
    if_pos ⟨by omega, List.mem_range.mpr hn⟩]

theorem groupUpdate_ne (c : Core) (p : MxStep) {g u i j : Nat} (as sc : List Nat) (hi : i < 128) (hj : j < 64) (hg : g < 8)
    (hne : u ≠ p.tile ∨ i / 16 ≠ g) : accOf (groupUpdate c p g as sc) u i j = accOf c u i j := by
  rw [accOf, accOf, groupUpdate_eq, acc_updateElems _ _ _ _ _ List.nodup_range]
  refine if_neg fun h => ?_
  rw [List.mem_range, accKey] at h
  omega

/-- The core after a group update; the last group ends the step. -/
def stepUpdated (start g : Nat) (p : MxStep) (as sc : List Nat) (c : Core) : Core :=
  let d := groupUpdate c p g as sc
  if g = 7 then setMx d { d.mx with steps := d.mx.steps.filter fun q => q.start != start } else d

theorem matrixGroupUpdate_eq {s : State} {k start g : Nat} {p : MxStep} {as sc : List Nat}
    (hp : (coreOf s k).mx.steps.find? (fun p => decide (p.start = start)) = some p)
    (hit : p.items.find? (fun it => decide (it.1 = g)) = some (g, as, sc)) :
    exec (.matrixGroupUpdate k start g) s = .next (setCore s k (stepUpdated start g p as sc (coreOf s k))) := by
  rw [exec_matrixGroupUpdate, execMatrixGroupUpdate, modCore]
  simp only [hp, hit, stepUpdated]

theorem stepUpdated_spec (c : Core) (start g : Nat) (p : MxStep) (as sc : List Nat) :
    let d := stepUpdated start g p as sc c
    d.s = c.s ∧ d.scratch = c.scratch ∧ d.p = c.p ∧ d.mx.acc = (groupUpdate c p g as sc).mx.acc ∧
      d.mx.steps = if g = 7 then c.mx.steps.filter (fun q => q.start != start) else c.mx.steps := by
  have hflag : accFlagged c (groupUpdate c p g as sc) := accFlagged_updateElems ..
  unfold stepUpdated
  generalize groupUpdate c p g as sc = d at *
  rw [accFlagged] at hflag
  dsimp only
  by_cases hg : g = 7
  · rw [if_pos hg, if_pos hg, hflag]
    exact ⟨rfl, rfl, rfl, rfl, rfl⟩
  · rw [if_neg hg, if_neg hg, hflag]
    exact ⟨rfl, rfl, rfl, rfl, rfl⟩

/-! A row of an epilogue. -/

theorem epilogueElem_plain {c : Core} {f : MepiFields} (acc bias r : Nat) (hi : f.intacc = false) (hb : f.bias = false)
    (ha : f.act = false) (hr : f.req = false) : epilogueElem c f acc bias r = (acc, 0) := by
  simp [epilogueElem, hi, hb, ha, hr]

/-- The elements of row `r` that an epilogue transforms, with their columns. -/
def epilogueRowOf (c : Core) (e : Epilogue) (r : Nat) : List (Nat × Nat) :=
  (List.range 64).map fun j => (j, (accOf c e.tile (r % 128) j).toNat)

/-- The transformed row, its flags and its draws. -/
def epilogueOut (c : Core) (e : Epilogue) (r : Nat) : List Nat × Flags × BitVec 32 :=
  convList (fun (p : Nat × Nat) d => epilogueElem c e.fields p.2 (e.bias.getD p.1 0) d)
    (if e.fields.req then e.fields.rm else 0) (epilogueRowOf c e r) c.genMX

theorem epilogueOut_length (c : Core) (e : Epilogue) (r : Nat) : (epilogueOut c e r).1.length = 64 := by
  rw [epilogueOut, convList_length, epilogueRowOf, List.length_map, List.length_range]

/-- Elements that each convert to a value of their own. -/
theorem convList_map {α : Type} {f : α → Nat → Nat × Flags} {v : α → Nat} (hf : ∀ x r, (f x r).1 = v x) (rm : BitVec 4)
    (xs : List α) (g : BitVec 32) : (convList f rm xs g).1 = xs.map v := by
  induction xs generalizing g with
  | nil => rfl
  | cons x xs ih =>
    show (f x _).1 :: (convList f rm xs _).1 = _
    rw [hf, ih, List.map_cons]

theorem epilogueOut_plain {c : Core} {e : Epilogue} (r : Nat) (hi : e.fields.intacc = false) (hb : e.fields.bias = false)
    (ha : e.fields.act = false) (hr : e.fields.req = false) :
    (epilogueOut c e r).1 = (List.range 64).map fun j => (accOf c e.tile (r % 128) j).toNat := by
  have hvalue (p : Nat × Nat) (d : Nat) : (epilogueElem c e.fields p.2 (e.bias.getD p.1 0) d).1 = p.2 := by
    rw [epilogueElem_plain p.2 _ _ hi hb ha hr]
  rw [epilogueOut, convList_map hvalue, epilogueRowOf, List.map_map]
  rfl

/-- After row `r`, the next one is read in cycle `x`. -/
def nextRow (k start r x : Nat) (t : State) : State :=
  if r < 127 then postCore t k x phRead (.event (.epilogueRow k start (r + 1))) else t

theorem nextRow_spec (k start r x : Nat) (t : State) :
    (∀ j, coreOf (nextRow k start r x t) j = coreOf t j) ∧ (nextRow k start r x t).agenda = t.agenda ++
      if r < 127 then [⟨.gang (coreOf t k).gang, x, phRead, some k, .event (.epilogueRow k start (r + 1))⟩] else [] := by
  unfold nextRow
  split
  · exact ⟨fun _ => rfl, rfl⟩
  · exact ⟨fun _ => rfl, (List.append_nil _).symm⟩

/-- The state in which row `r` has been transformed and its push is scheduled. -/
def rowPushed (s : State) (k r : Nat) (e : Epilogue) : State :=
  let out := epilogueOut (coreOf s k) e r
  postDeed (setCore s k (addFlags { coreOf s k with genMX := out.2.2 } out.2.1)) k (gcycOf s k + 1) (phStream e.out)
    (.mxPush e.out out.1)

theorem rowPushed_core (s : State) (k r : Nat) (e : Epilogue) :
    coreOf (rowPushed s k r e) k = addFlags { coreOf s k with genMX := (epilogueOut (coreOf s k) e r).2.2 }
      (epilogueOut (coreOf s k) e r).2.1 := coreOf_setCore_self ..

theorem rowPushed_agenda (s : State) (k r : Nat) (e : Epilogue) :
    (rowPushed s k r e).agenda = s.agenda ++ [⟨.gang (coreOf s k).gang, gcycOf s k + 1, phStream e.out, some k,
      .deed (.mxPush e.out (epilogueOut (coreOf s k) e r).1)⟩] := by
  show s.agenda ++ [⟨.gang (coreOf (setCore s k _) k).gang, _, _, _, _⟩] = _
  rw [coreOf_setCore_self]
  rfl

theorem epilogueRow_eq {s : State} {k start : Nat} (r : Nat) {e : Epilogue}
    (he : (coreOf s k).mx.epis.find? (fun e => decide (e.start = start)) = some e) :
    exec (.epilogueRow k start r) s = .next (nextRow k start r (gcycOf s k + 1) (rowPushed s k r e)) := by
  rw [exec_epilogueRow, execEpilogueRow]
  simp only [he]
  rw [nextRow]
  split <;> rfl

/-- Settles O34: a group update and an epilogue's row. -/
theorem groupUpdateChangesItsAccumulators : Obligations.GroupUpdateChangesItsAccumulators := by
  unfold Obligations.GroupUpdateChangesItsAccumulators
  refine ⟨fun s k start g p as sc hp hit => ?update, fun s k start r e he => ?row⟩
  case update =>
    obtain ⟨hs, hscratch, hpred, hacc, hsteps⟩ := stepUpdated_spec (coreOf s k) start g p as sc
    have hat (u i j : Nat) : accOf (stepUpdated start g p as sc (coreOf s k)) u i j =
        accOf (groupUpdate (coreOf s k) p g as sc) u i j := by rw [accOf, hacc, accOf]
    refine ⟨_, matrixGroupUpdate_eq hp hit, rfl, fun j hj => coreOf_setCore_ne _ _ hj, ?_⟩
    dsimp only
    rw [coreOf_setCore_self]
    exact ⟨hs, hscratch, hpred, fun n hn => (hat ..).trans (groupUpdate_at _ p g as sc hn),
      fun u i j hi hj hg hne => (hat ..).trans (groupUpdate_ne _ p as sc hi hj hg hne), hsteps⟩
  case row =>
    obtain ⟨hcores, hagenda⟩ := nextRow_spec k start r (gcycOf s k + 1) (rowPushed s k r e)
    refine ⟨_, _, epilogueRow_eq r he, epilogueOut_length (coreOf s k) e r, fun j hj => ?_, ?_, ?_, ?_, epilogueOut_plain r⟩
    · exact (hcores j).trans (coreOf_setCore_ne _ _ hj)
    · rw [hcores, rowPushed_core]; rfl
    · rw [hcores, rowPushed_core]; rfl
    · rw [hagenda, rowPushed_agenda, rowPushed_core]; rfl

end Sys2Proof.Machine
end

section
/-! PROOF. What the hub notes of errors and of DRAM's upkeep leaves alone: cores, gangs, and the bytes of device memory. -/

namespace Sys2Proof.Machine

/-! Records, counters and messages. -/

/-- `b` is `a` but for page registers, messages and the bytes of host memory. -/
def Posts (a b : Authority) : Prop := b = { a with parts := b.parts, messages := b.messages, host := b.host }

/-- The step notes an event: it leaves cores and gangs, device memory, the cluster, what the pages hold, and the running
step. -/
structure Logged (s t : State) : Prop extends Beside s t where
  dram : dramOf t = dramOf s
  env : envOf t = envOf s
  auth : Posts (authOf s) (authOf t)
  cur : t.cur = s.cur
  fab : fabOf t = fabOf s
  hub : t.hub = { s.hub with auth := t.hub.auth, house := t.hub.house }

theorem Logged.refl (s : State) : Logged s s := ⟨.refl s, rfl, rfl, rfl, rfl, rfl, rfl⟩

theorem Logged.trans {s t u : State} (h₁ : Logged s t) (h₂ : Logged t u) : Logged s u := by
  refine ⟨h₁.toBeside.trans h₂.toBeside, h₂.dram.trans h₁.dram, h₂.env.trans h₁.env, Eq.trans h₂.auth ?_, h₂.cur.trans h₁.cur,
    h₂.fab.trans h₁.fab, h₂.hub.trans (by rw [h₁.hub])⟩
  have h := h₁.auth
  rw [Posts] at h
  rw [h]

theorem Logged.ctxs {s t : State} (h : Logged s t) : (authOf t).ctxs = (authOf s).ctxs := by rw [h.auth]
theorem Logged.keys {s t : State} (h : Logged s t) : (authOf t).keys = (authOf s).keys := by rw [h.auth]
theorem Logged.posted {s t : State} (h : Logged s t) : (authOf t).posted = (authOf s).posted := by rw [h.auth]

theorem Logged.foldl {α : Type} {f : State → α → State} (h : ∀ s a, Logged s (f s a)) (as : List α) (s : State) :
    Logged s (as.foldl f s) := by
  induction as generalizing s with
  | nil => exact .refl s
  | cons a as ih => exact (h s a).trans (ih (f s a))

theorem logged_post (s : State) (j : Job) : Logged s (post s j) := ⟨beside_post s j, rfl, rfl, rfl, rfl, rfl, rfl⟩

theorem logged_postPod (s : State) (due ph : Nat) (i : Instr) : Logged s (postPod s due ph i) := logged_post ..

theorem logged_setHouse (s : State) (h : House) : Logged s (setHouse s h) :=
  ⟨⟨rfl, rfl, rfl, fun _ hj => hj⟩, rfl, rfl, rfl, rfl, rfl, rfl⟩

theorem logged_setAuth (s : State) {a : Authority} (h : Posts (authOf s) a) : Logged s (setAuth s a) :=
  ⟨⟨rfl, rfl, rfl, fun _ hj => hj⟩, rfl, rfl, h, rfl, rfl, rfl⟩

theorem logged_setPart (s : State) (p : Nat) (x : Partition) : Logged s (setPart s p x) := logged_setAuth s rfl

theorem logged_modPart (s : State) (p : Nat) (f : Partition → Partition) : Logged s (modPart s p f) := logged_setPart ..

theorem logged_putHost (s : State) (p a : Nat) (bs : List Byte) : Logged s (putHost s p a bs) := logged_setAuth s rfl

theorem logged_sendVector (s : State) (p : Nat) : Logged s (sendVector s p) := by
  unfold sendVector
  split
  · exact logged_modPart ..
  · exact logged_setAuth s rfl

theorem logged_postRecord (s : State) (p : Nat) (r : EventRec) : Logged s (postRecord s p r) := by
  unfold postRecord
  dsimp only
  split
  · exact .refl s
  · split
    · exact logged_setPart ..
    · exact ((logged_putHost ..).trans (logged_modPart ..)).trans (logged_sendVector ..)

theorem logged_postPlatform (s : State) (ps : List Nat) (kind : Nat) (data : List Nat) (fault : List Byte) :
    Logged s (postPlatform s ps kind data fault) :=
  (logged_postRecord ..).trans (.foldl (fun u q => logged_postRecord u q _) _ _)

theorem logged_postEvent (s : State) (p : Nat) (cls : EventClass) (kind : Nat) (data : List Nat) (fault : List Byte) :
    Logged s (postEvent s p cls kind data fault) := by
  cases cls with
  | program =>
    dsimp only [postEvent]
    split
    · exact (logged_postRecord ..).trans (logged_postRecord ..)
    · exact logged_postRecord ..
  | control => exact logged_postRecord ..
  | resource => exact logged_postRecord ..
  | platform => exact logged_postPlatform ..

theorem logged_countLife (s : State) (set pos n : Nat) : Logged s (countLife s set pos n) := logged_setHouse ..

theorem Logged.thenHouse {s t : State} (h : Logged s t) (x : House) : Logged s (setHouse t x) := h.trans (logged_setHouse ..)

theorem Logged.thenPod {s t : State} (h : Logged s t) (due ph : Nat) (i : Instr) : Logged s (postPod t due ph i) :=
  h.trans (logged_postPod ..)

theorem logged_countError (s : State) (u : FaultUnit) : Logged s (countError s u) := by
  have counted := logged_countLife s 3 (unitPos u) 1
  unfold countError
  dsimp only
  split
  · split
    · exact ((counted.thenHouse _).thenPod ..).thenHouse _
    · exact (counted.thenHouse _).thenPod ..
  · split
    · exact (counted.thenHouse _).thenHouse _
    · exact counted.thenHouse _

theorem logged_sectorLost (s : State) (i : Nat) : Logged s (sectorLost s i) :=
  (logged_countError ..).trans (logged_postPlatform ..)

/-! Trackers and the controllers' own accesses. -/

/-- The step leaves what device memory reads as, the errors known of it, and what is not device memory. -/
structure DramKeeps (s t : State) : Prop extends Beside s t where
  bytes : (dramOf t).bytes = (dramOf s).bytes
  sealed : (dramOf t).sealed = (dramOf s).sealed
  corrected : (dramOf t).corrected = (dramOf s).corrected
  bad : (dramOf t).bad = (dramOf s).bad
  poison : (dramOf t).poison = (dramOf s).poison
  pending : (dramOf t).pending = (dramOf s).pending
  answers : (dramOf t).answers = (dramOf s).answers
  env : envOf t = envOf s
  ctxs : (authOf t).ctxs = (authOf s).ctxs
  keys : (authOf t).keys = (authOf s).keys
  cur : t.cur = s.cur

theorem Logged.dramKeeps {s t : State} (h : Logged s t) : DramKeeps s t :=
  ⟨h.toBeside, by rw [h.dram], by rw [h.dram], by rw [h.dram], by rw [h.dram], by rw [h.dram], by rw [h.dram],
    by rw [h.dram], h.env, h.ctxs, h.keys, h.cur⟩

theorem DramKeeps.refl (s : State) : DramKeeps s s := (Logged.refl s).dramKeeps

theorem DramKeeps.trans {s t u : State} (h₁ : DramKeeps s t) (h₂ : DramKeeps t u) : DramKeeps s u :=
  ⟨h₁.toBeside.trans h₂.toBeside, h₂.bytes.trans h₁.bytes, h₂.sealed.trans h₁.sealed, h₂.corrected.trans h₁.corrected,
    h₂.bad.trans h₁.bad, h₂.poison.trans h₁.poison, h₂.pending.trans h₁.pending, h₂.answers.trans h₁.answers, h₂.env.trans h₁.env, h₂.ctxs.trans h₁.ctxs, h₂.keys.trans h₁.keys,
    h₂.cur.trans h₁.cur⟩

theorem DramKeeps.foldl {α : Type} {f : State → α → State} (h : ∀ s a, DramKeeps s (f s a)) (as : List α) (s : State) :
    DramKeeps s (as.foldl f s) := by
  induction as generalizing s with
  | nil => exact .refl s
  | cons a as ih => exact (h s a).trans (ih (f s a))

theorem dramKeeps_setDram (s : State) {d : Dram} (hb : d.bytes = (dramOf s).bytes) (hs : d.sealed = (dramOf s).sealed)
    (hc : d.corrected = (dramOf s).corrected) (hx : d.bad = (dramOf s).bad) (hp : d.poison = (dramOf s).poison)
    (hq : d.pending = (dramOf s).pending) (ha : d.answers = (dramOf s).answers) : DramKeeps s (setDram s d) :=
  ⟨⟨rfl, rfl, rfl, fun _ hj => hj⟩, hb, hs, hc, hx, hp, hq, ha, rfl, rfl, rfl, rfl⟩

theorem dramKeeps_startMitigation (s : State) (home ch b : Nat) : DramKeeps s (startMitigation s home ch b) := by
  unfold startMitigation
  dsimp only
  split
  · exact .refl s
  · refine .trans ?_ (logged_postPod ..).dramKeeps
    exact dramKeeps_setDram s rfl rfl rfl rfl rfl rfl rfl

theorem dramKeeps_crossBank (s : State) (home ch b row vdid : Nat) (timed : Bool) :
    DramKeeps s (crossBank s home ch b row vdid timed) := by
  unfold crossBank
  dsimp only
  have noted : DramKeeps s (setDram s { dramOf s with crossing := (dramOf s).crossing ++ [(trackKey home ch b, row, vdid)] }) :=
    dramKeeps_setDram s rfl rfl rfl rfl rfl rfl rfl
  split
  · exact noted.trans (logged_post ..).dramKeeps
  · exact noted.trans (dramKeeps_startMitigation ..)

theorem dramKeeps_activateRow (s : State) (home : Nat) (chans : BitVec 4) (b row vdid : Nat) (timed : Bool) :
    DramKeeps s (activateRow s home chans b row vdid timed) := by
  refine .foldl (fun u ch => ?_) _ s
  dsimp only
  split
  · refine .trans ?_ (dramKeeps_crossBank ..)
    exact dramKeeps_setDram u rfl rfl rfl rfl rfl rfl rfl
  · exact dramKeeps_setDram u rfl rfl rfl rfl rfl rfl rfl

theorem dramKeeps_noteServed (s : State) (a : Nat) : DramKeeps s (noteServed s a) := dramKeeps_setDram s rfl rfl rfl rfl rfl rfl rfl

theorem dramKeeps_ownAccess (s : State) (a : Nat) : DramKeeps s (ownAccess s a) := by
  unfold ownAccess
  dsimp only
  split
  · exact (dramKeeps_noteServed ..).trans (dramKeeps_activateRow ..)
  · exact dramKeeps_noteServed ..

theorem dramKeeps_notePatrol (s : State) (a n : Nat) : DramKeeps s (notePatrol s a n) := dramKeeps_setDram s rfl rfl rfl rfl rfl rfl rfl

theorem dramKeeps_noteRead (s : State) (a n : Nat) : DramKeeps s (noteRead s a n) :=
  (dramKeeps_notePatrol ..).trans (.foldl (fun u i => (logged_sectorLost u i).dramKeeps) _ _)

end Sys2Proof.Machine
end

section
/-! PROOF. Refresh, trackers, patrol and write-back (R213 to R222). -/

namespace Sys2Proof.Machine

theorem exec_dref (m : Mv) (s : State) : exec (.dref m) s = execDref m s := rfl
theorem exec_drfm (m : Mv) (s : State) : exec (.drfm m) s = execDrfm m s := rfl
theorem exec_disturbanceThreshold (k : Nat) (ch : Fin 4) (b : Fin 16) (s : State) :
    exec (.disturbanceThreshold k ch b) s = execDisturbanceThreshold k ch b s := rfl
theorem exec_disturbanceMitigationDone (k : Nat) (ch : Fin 4) (b : Fin 16) (s : State) :
    exec (.disturbanceMitigationDone k ch b) s = execDisturbanceMitigationDone k ch b s := rfl
theorem exec_disturbanceWindow (s : State) : exec .disturbanceWindow s = execDisturbanceWindow s := rfl
theorem exec_eccWriteback (i : Nat) (s : State) : exec (.eccWriteback i) s = execEccWriteback i s := rfl
theorem exec_patrolRead (i : Nat) (f : EccFinding) (s : State) : exec (.patrolRead i f) s = execPatrolRead i f s := rfl

/-! Starts in time (R33 to R35). -/

theorem isLate_of_onTime {c : Core} {fl : Flight} {w : Word} (h : OnTime c fl w) : isLate w fl.arrive = false := by
  obtain ⟨hw, -⟩ := h
  rcases hw with rfl | hle
  · rfl
  · rw [isLate, decide_eq_false (by omega), Bool.and_false]

/-- A command in time of a core that is not suppressed goes on. -/
theorem slipCheck_onTime {s : State} {fl : Flight} {w : Word} {c : Core} (reads : List Nat) (src : Nat) (h : OnTime c fl w)
    (hc : (myCore s).suppress = c.suppress) : slipCheck s fl w reads src = (s, some false) := by
  have hgo : (c.suppress && w != noStart) = false := by
    rcases h.2 with hs | rfl
    · rw [hs]; rfl
    · rw [show (noStart != noStart) = false from rfl, Bool.and_false]
  rw [slipCheck, isLate_of_onTime h, if_neg Bool.false_ne_true, hc, hgo]

/-! DREF and DRFM (R213 to R215, R360). -/

theorem refreshFault_congr {s u : State} {k : Nat} (t st b : Nat) (rfm : Bool) (hhub : u.hub = s.hub)
    (hcmds : (coreOf u k).dramCmds = (coreOf s k).dramCmds) (hnext : (coreOf u k).nextBank = (coreOf s k).nextBank)
    (howed : (coreOf u k).owed = (coreOf s k).owed) : refreshFault u k t st b rfm = refreshFault s k t st b rfm := by
  simp only [refreshFault, slotMapOf, dramOf, groupCommands, nextBankThen, owedThen, hhub, hcmds, hnext, howed]
  rfl

/-- A refresh accepted at `t`. -/
def withRefresh (t st b : Nat) (rfm : Bool) (c : Core) : Core :=
  { c with dramCmds := liveCommands c.dramCmds t ++ [⟨st, if rfm then .rfm else .ref, 15, b, 0⟩] }

section
variable {s : State} {fl : Flight} (rfm : Bool) (h : s.cur.flight = some fl)
  (hon : OnTime (myCore s) fl (portOf (myCore s) 0x303))
  (hfree : refreshFault s (me s) fl.arrive (startOf (portOf (myCore s) 0x303) fl.arrive) ((scalarIn .z fl.val).toNat % 16) rfm = 0)
include h hon hfree

/-- A DREF or DRFM that keeps the timeline completes, and starts at its cycle. -/
theorem refresh_starts {i : Instr} {m : Mv} (hx : exec i s = trigger i m s fun fl s => refreshTrigger rfm s fl) :
    let st := startOf (portOf (myCore s) 0x303) fl.arrive
    let b := (scalarIn .z fl.val).toNat % 16
    Completes i s (withRefresh fl.arrive st b rfm (consumeAt (myCore s) 0x303))
      [ownJob s st phEnd (.deed (.refresh (me s) b rfm))] := by
  intro st b
  have arrival := ownStep_noteTrigger ((dstId i).getD 0 / 64) fl s
  have raises := noteTrigger_raises ((dstId i).getD 0 / 64) (myCore s) fl
  rw [trigger_arrival _ _ _ _ _ h] at hx
  revert hx
  generalize (modMe s fun c => noteTrigger ((dstId i).getD 0 / 64) c fl) = u at arrival ⊢
  rw [noteTrigger_noted] at raises
  generalize noteTrigger ((dstId i).getD 0 / 64) (myCore s) fl = d at arrival raises ⊢
  have consumed := arrival.thenMod (consumeAt · 0x303)
  have accepted := consumed.thenMod (withRefresh fl.arrive st b rfm)
  have whole := accepted.thenDeed rfl st phEnd (.refresh (me s) b rfm)
  have hslip : slipCheck (modMe u fun c => consumeAt c 0x303) fl (portOf (myCore s) 0x303) [0x303] 2 = (_, some false) :=
    slipCheck_onTime [0x303] 2 hon (by rw [consumed.myCore_eq]; rfl)
  have hfault : refreshFault (modMe u fun c => consumeAt c 0x303) (me s) fl.arrive st b rfm = 0 := by
    rw [refreshFault_congr _ _ _ _ consumed.hub (by rw [consumed.core]; rfl) (by rw [consumed.core]; rfl)
      (by rw [consumed.core]; rfl)]
    exact hfree
  have heq : refreshTrigger rfm u fl = postDeed (modMe (modMe u fun c => consumeAt c 0x303) (withRefresh fl.arrive st b rfm))
      (me (modMe (modMe u fun c => consumeAt c 0x303) (withRefresh fl.arrive st b rfm))) st phEnd (.refresh (me s) b rfm) := by
    rw [refreshTrigger, arrival.myCore_eq, arrival.me_eq]
    dsimp only
    rw [show portOf (noted (myCore s) d) 0x303 = portOf (myCore s) 0x303 from rfl, hslip]
    dsimp only
    rw [if_neg (not_not_intro hfault), accepted.me_eq]
    rw [show modMe (modMe u fun c => consumeAt c 0x303) (withRefresh fl.arrive st b rfm) =
      acceptCommands (modMe u fun c => consumeAt c 0x303) (me s) fl.arrive
        [⟨st, if rfm then .rfm else .ref, 15, b, 0⟩] by rw [modMe, consumed.me_eq]; rfl]
  rw [heq]
  exact fun hx => completes_of_own hx whole rfl raises

end

/-! Crossings and their mitigation (R217, R218). -/

theorem Announced.of_same {s t : State} {g th : Nat} {cause : HoldCause} {key : Nat}
    (hg : t.gangs = tset {} s.gangs g { gangOf s g with
      holds := (gangOf s g).holds ++ [⟨holdNumber s g, th, cause, s.pod, key, none⟩], holdSeq := (gangOf s g).holdSeq + 1 })
    (hc : t.cores = s.cores) : Announced s t g th cause key := by
  refine ⟨?_, fun n hn => ?_, hc⟩
  · rw [gangOf, hg, tget_tset_self]
  · rw [gangOf, hg, tget_tset_ne _ _ _ hn, gangOf]

theorem beside_leekMembers (s : State) (g : Nat) (msg : Instr) : Beside s (leekMembers s g msg) :=
  .foldl (fun u m => beside_leekSend u g m msg) _ _

/-- In a running gang a hold is announced for the cycle it names. -/
theorem announceHold_running {s : State} {g : Nat} (th : Nat) (cause : HoldCause) (key : Nat) (h : (gangOf s g).mode = .running) :
    Announced s (announceHold s g th cause key) g th cause key := by
  have hth : (if (gangOf s g).mode = .out then (gangOf s g).frozenAt
      else if (gangOf s g).mode = .held then
        (if (gangOf s g).resume.isNone then (gangOf s g).frozenAt else max th ((gangOf s g).frozenAt + (gangOf s g).h))
      else th) = th := by rw [h]; rfl
  unfold announceHold
  dsimp only
  rw [hth]
  have sent := (logged_countLife (setGang s g { gangOf s g with
      holds := (gangOf s g).holds ++ [⟨holdNumber s g, th, cause, s.pod, key, none⟩], holdSeq := (gangOf s g).holdSeq + 1 })
    4 (causePos cause) 1).toBeside.trans (beside_leekMembers _ g (.hold g (holdNumber s g) th cause s.pod))
  exact .of_same sent.gangs sent.cores

theorem gangs_nil_holder {s : State} (h : s.gangs = []) (core ch b : Nat) (e : Nat × Nat) : entryHolder s core ch b e = none := by
  rw [entryHolder, h]; rfl

theorem entryDue_of_no_gangs {s : State} (h : s.gangs = []) (core ch b : Nat) (e : Nat × Nat) : entryDue s core ch b e = true := by
  rw [entryDue, gangs_nil_holder h]

theorem entryDone_of_no_gangs {s : State} (h : s.gangs = []) (core ch b : Nat) (e : Nat × Nat) :
    entryDone s core ch b e = resetCrossing s (trackKey core ch b) e.1 e.2 := by
  rw [entryDone, gangs_nil_holder h]

theorem crossings_resetCrossing (s : State) (core ch b : Nat) (e : Nat × Nat) :
    crossings (resetCrossing s (trackKey core ch b) e.1 e.2) core ch b = (crossings s core ch b).filter (fun f => f ≠ e) := by
  show ((((dramOf s).crossing.filter fun f => f ≠ (trackKey core ch b, e.1, e.2)).filter _).map (·.2)) = _
  rw [crossings, List.filter_map, List.filter_filter, List.filter_filter]
  congr 1
  refine List.filter_congr fun f _ => ?_
  obtain ⟨key, f⟩ := f
  by_cases hk : key = trackKey core ch b
  · simp [hk]
  · simp [hk]

theorem startMitigation_trackers (s : State) (core ch b : Nat) :
    (dramOf (startMitigation s core ch b)).trackers = (dramOf s).trackers := by
  unfold startMitigation
  dsimp only
  split <;> rfl

theorem startMitigation_crossing (s : State) (core ch b : Nat) :
    (dramOf (startMitigation s core ch b)).crossing = (dramOf s).crossing := by
  unfold startMitigation
  dsimp only
  split <;> rfl

/-- After it a mitigation of the bank is scheduled. -/
theorem startMitigation_schedules (s : State) (core : Nat) (ch : Fin 4) (b : Fin 16) :
    ∃ j ∈ (startMitigation s core ch.val b.val).agenda, j.task = .event (.disturbanceMitigationDone core ch b) := by
  have hch : Fin.ofNat 4 ch.val = ch := Fin.ext (Nat.mod_eq_of_lt ch.isLt)
  have hb : Fin.ofNat 16 b.val = b := Fin.ext (Nat.mod_eq_of_lt b.isLt)
  unfold startMitigation
  dsimp only
  rw [hch, hb]
  split
  case isTrue hany =>
    obtain ⟨j, hj, htask⟩ := List.any_eq_true.mp hany
    exact ⟨j, hj, of_decide_eq_true htask⟩
  case isFalse => exact ⟨_, List.mem_append_right _ (List.mem_singleton_self _), rfl⟩

/-- The first entry of a bank is mitigated where no gang exists, and the next mitigation begins where another waits. -/
theorem mitigation_resets {s : State} {k : Nat} {ch : Fin 4} {b : Fin 16} {e : Nat × Nat} {rest : List (Nat × Nat)}
    (hes : crossings s k ch.val b.val = e :: rest) (hg : s.gangs = []) :
    let key := trackKey k ch.val b.val
    let left := (tget [] (dramOf s).trackers key).filter fun t => !decide (t.row = e.1 ∧ t.vdid = e.2)
    ∃ t, exec (.disturbanceMitigationDone k ch b) s = .next t ∧ t.cores = s.cores ∧
      (∀ j, tget [] (dramOf t).trackers j = if j = key then left else tget [] (dramOf s).trackers j) ∧
      crossings t k ch.val b.val = rest.filter (fun f => f ≠ e) ∧
      (rest ≠ [] → ∃ j ∈ t.agenda, j.task = .event (.disturbanceMitigationDone k ch b)) := by
  intro key left
  have hdue : (crossings s k ch.val b.val).filter (entryDue s k ch.val b.val) = e :: rest := by
    rw [List.filter_eq_self.mpr fun f _ => entryDue_of_no_gangs hg k ch.val b.val f, hes]
  have hcross := crossings_resetCrossing s k ch.val b.val e
  rw [hes, List.filter_cons_of_neg (by simp)] at hcross
  rw [exec_disturbanceMitigationDone, execDisturbanceMitigationDone, hdue]
  dsimp only
  rw [entryDone_of_no_gangs hg]
  have htrack (j : Nat) : tget [] (dramOf (resetCrossing s key e.1 e.2)).trackers j =
      if j = key then left else tget [] (dramOf s).trackers j := tget_tset ..
  refine ⟨_, rfl, ?_⟩
  by_cases hrest : rest = []
  · rw [if_pos hrest]
    exact ⟨rfl, htrack, hcross, fun h => absurd hrest h⟩
  · rw [if_neg hrest]
    refine ⟨(dramKeeps_startMitigation ..).cores, fun j => ?_, ?_, fun _ => startMitigation_schedules ..⟩
    · rw [startMitigation_trackers]; exact htrack j
    · rw [crossings, startMitigation_crossing]; exact hcross

theorem disturbance_announced {s : State} {k g : Nat} {ch : Fin 4} {b : Fin 16} {e : Nat × Nat}
    (hes : crossings s k ch.val b.val = [e]) (hgroup : groupGang s k = some g)
    (hno : hasHold s g .disturbance (disturbKey k ch.val b.val e.1 e.2) = false) (hrun : (gangOf s g).mode = .running) :
    ∃ t, exec (.disturbanceThreshold k ch b) s = .next t ∧
      Announced s t g ((gangOf s g).gcyc + (gangOf s g).h) .disturbance (disturbKey k ch.val b.val e.1 e.2) := by
  rw [exec_disturbanceThreshold, execDisturbanceThreshold, hgroup, hes]
  refine ⟨_, rfl, ?_⟩
  rw [List.foldl_cons, List.foldl_nil]
  dsimp only
  rw [hno, if_neg Bool.false_ne_true]
  exact announceHold_running _ _ _ hrun

theorem foldl_id {α β : Type} {f : β → α → β} {as : List α} {s : β} (h : ∀ a ∈ as, f s a = s) : as.foldl f s = s := by
  induction as with
  | nil => rfl
  | cons a as ih => rw [List.foldl_cons, h a List.mem_cons_self, ih fun b hb => h b (List.mem_cons_of_mem _ hb)]

theorem disturbance_known {s : State} {k g : Nat} {ch : Fin 4} {b : Fin 16} (hgroup : groupGang s k = some g)
    (hall : ∀ e ∈ crossings s k ch.val b.val, hasHold s g .disturbance (disturbKey k ch.val b.val e.1 e.2) = true) :
    exec (.disturbanceThreshold k ch b) s = .next s := by
  rw [exec_disturbanceThreshold, execDisturbanceThreshold, hgroup]
  dsimp only
  rw [foldl_id fun e he => if_pos (hall e he)]

theorem mitigation_waits {s : State} {k : Nat} {ch : Fin 4} {b : Fin 16}
    (hall : ∀ e ∈ crossings s k ch.val b.val, entryDue s k ch.val b.val e = false) :
    exec (.disturbanceMitigationDone k ch b) s = .next s := by
  rw [exec_disturbanceMitigationDone, execDisturbanceMitigationDone,
    List.filter_eq_nil_iff.mpr fun e he => by rw [hall e he]; exact Bool.false_ne_true]

/-! The disturbance window (R315). -/

theorem tget_map {α : Type} {d : α} {f : α → α} (hd : f d = d) (t : Table α) (k : Nat) :
    tget d (t.map fun e => (e.1, f e.2)) k = f (tget d t k) := by
  induction t with
  | nil => exact hd.symm
  | cons e t ih =>
    rw [List.map_cons, tget, tget]
    split
    · rfl
    · exact ih

theorem window_clears (s : State) : ∃ t, exec .disturbanceWindow s = .next t ∧ t.cores = s.cores ∧ t.agenda = s.agenda ∧
    ∀ p, partOf t p = { partOf s p with distAcc := 0, distHit := false } :=
  ⟨_, rfl, rfl, rfl, fun p => tget_map (f := fun x : Partition => { x with distAcc := 0, distHit := false }) rfl _ p⟩

/-! Patrol and write-back (R220, R222). -/

theorem eccWriteback_waits {s : State} {i : Nat} (h : slotOpen s (i * 128) = false) :
    exec (.eccWriteback i) s = .next (post s ⟨.pod, s.pod + 1, phUntimed, none, .event (.eccWriteback i)⟩) := by
  rw [exec_eccWriteback, execEccWriteback, if_neg (Bool.eq_false_iff.mp h)]; rfl

theorem eccWriteback_done {s : State} {i : Nat} (h : slotOpen s (i * 128) = true) :
    ∃ t, exec (.eccWriteback i) s = .next t ∧ (dramOf t).bytes = (dramOf s).bytes ∧ t.cores = s.cores ∧
      (∀ j ∈ s.agenda, j ∈ t.agenda) ∧
      i ∉ (dramOf t).corrected ∧ ∀ j, j ≠ i → (j ∈ (dramOf t).corrected ↔ j ∈ (dramOf s).corrected) := by
  rw [exec_eccWriteback, execEccWriteback, if_pos h]
  have own := dramKeeps_ownAccess s (i * 128)
  have hcorrected : (dramOf (setDram (ownAccess s (i * 128)) { dramOf (ownAccess s (i * 128)) with
      corrected := (dramOf (ownAccess s (i * 128))).corrected.filter fun j => j ≠ i })).corrected =
      (dramOf s).corrected.filter fun j => j ≠ i := by rw [← own.corrected]; rfl
  refine ⟨_, rfl, own.bytes, own.cores, own.keeps, ?_, fun j hj => ?_⟩
  · rw [hcorrected]; simp
  · rw [hcorrected]; simp [hj]

theorem dramSectors_one (i : Nat) : dramSectors (i * 128) 128 = [i] := by
  have h1 : (i * 128 + 128 - 1) / 128 = i := by omega
  have h2 : i * 128 / 128 = i := by omega
  rw [dramSectors, if_neg (by omega), h1, h2, Nat.sub_self]
  rfl

/-- The sector has been read for patrol. -/
def patrolled (s : State) (i : Nat) : State := notePatrol (ownAccess s (i * 128)) (i * 128) 128

theorem patrolled_keeps (s : State) (i : Nat) : DramKeeps s (patrolled s i) :=
  (dramKeeps_ownAccess ..).trans (dramKeeps_notePatrol ..)

theorem tget_patrolled (s : State) (i : Nat) : tget 0 (dramOf (patrolled s i)).patrolled i = s.pod := by
  show tget 0 ((dramSectors (i * 128) 128).foldl (fun t j => tset 0 t j (ownAccess s (i * 128)).pod)
    (dramOf (ownAccess s (i * 128))).patrolled) i = _
  rw [dramSectors_one, (dramKeeps_ownAccess s (i * 128)).pod]
  exact tget_tset_self ..

/-- Sector `i` is known to be uncorrectable. -/
def withBad (s : State) (i : Nat) : State := setDram s { dramOf s with bad := tset false (dramOf s).bad i true }

/-- What a patrol read of sector `i` with finding `f` leaves. -/
def PatrolReads (s t : State) (i : Nat) (f : EccFinding) : Prop :=
  (dramOf t).bytes = (dramOf s).bytes ∧ t.cores = s.cores ∧
    tget 0 (dramOf t).patrolled i = s.pod ∧ (∀ j ∈ s.agenda, j ∈ t.agenda) ∧
    tget false (dramOf t).bad i = (tget false (dramOf s).bad i || decide (f = .uncorrectable)) ∧
    (f = .corrected → i ∈ (dramOf t).corrected ∧
      ⟨.pod, s.pod + 1, phUntimed, none, .event (.eccWriteback i)⟩ ∈ t.agenda)

theorem patrolRead_reads (s : State) (i : Nat) (f : EccFinding) : ∃ t, exec (.patrolRead i f) s = .next t ∧ PatrolReads s t i f := by
  have keeps := patrolled_keeps s i
  have hpod := tget_patrolled s i
  rw [exec_patrolRead]
  cases f with
  | clean => exact ⟨_, rfl, keeps.bytes, keeps.cores, hpod, keeps.keeps,
      (congrArg (tget false · i) keeps.bad).trans (by simp), nofun⟩
  | corrected =>
    have counted := logged_countError (patrolled s i) (.pageCorrected (sectorPage i))
    refine ⟨_, rfl, ?_, ?_, ?_, fun j hj => ?_, ?_, fun _ => ⟨?_, ?_⟩⟩
    · exact (congrArg Dram.bytes counted.dram).trans keeps.bytes
    · exact counted.cores.trans keeps.cores
    · exact (congrArg (fun d => tget 0 d.patrolled i) counted.dram).trans hpod
    · exact List.mem_append_left _ (counted.keeps j (keeps.keeps j hj))
    · refine (congrArg (fun d => tget false d.bad i) counted.dram).trans ?_
      rw [keeps.bad]; simp
    · exact List.mem_append_right _ (List.mem_singleton_self _)
    · rw [← keeps.pod, ← counted.pod]
      exact List.mem_append_right _ (List.mem_singleton_self _)
  | uncorrectable =>
    have lost := logged_sectorLost (withBad (patrolled s i) i) i
    refine ⟨sectorLost (withBad (patrolled s i) i) i, rfl, ?_⟩
    unfold PatrolReads
    rw [lost.dram]
    exact ⟨keeps.bytes, lost.cores.trans keeps.cores, hpod, fun j hj => lost.keeps j (keeps.keeps j hj),
      (tget_tset_self ..).trans (Bool.or_true _).symm, nofun⟩

/-- Settles O36: refresh, trackers, patrol and write-back leave the bytes of device memory. -/
theorem dramUpkeepLeavesBytes : Obligations.DramUpkeepLeavesBytes := by
  unfold Obligations.DramUpkeepLeavesBytes
  refine ⟨?_, fun s k b => rfl, fun s k b => rfl, fun s k ch b => ?_, window_clears, fun s i => ⟨?_, ?_, ?_⟩⟩
  · intro s fl m rfm h c w st b starts hon hfree
    refine ⟨?_, ?_⟩
    · intro hr
      subst hr
      have key := refresh_starts false h hon hfree (exec_dref m s)
      exact key
    · intro hr
      subst hr
      have key := refresh_starts true h hon hfree (exec_drfm m s)
      exact key
  · intro g key x es hold
    refine ⟨?_, ?_, mitigation_waits, ?_⟩
    · intro e hes hgroup hno hrun
      exact disturbance_announced hes hgroup hno hrun
    · intro hgroup hall
      exact disturbance_known hgroup hall
    · intro e rest hes hg
      exact mitigation_resets hes hg
  · exact fun h => eccWriteback_waits h
  · exact fun h => eccWriteback_done h
  · exact fun f => patrolRead_reads s i f

end Sys2Proof.Machine
end

section
/-! PROOF. What device memory reads as: it depends on its bytes, its seals and the bind tables, and a write changes what it
covers alone (R220, R221). -/

namespace Sys2Proof.Machine

/-! Tables changed at a list of keys. -/

theorem tget_foldl_tset {α : Type} [DecidableEq α] (d : α) (f : Nat → α) (is : List Nat) (t : Table α) (j : Nat) :
    tget d (is.foldl (fun t i => tset d t i (f i)) t) j = if j ∈ is then f j else tget d t j := by
  induction is generalizing t with
  | nil => simp
  | cons i is ih =>
    rw [List.foldl_cons, ih, tget_tset]
    by_cases hj : j = i
    · subst hj; simp
    · simp [hj]

/-- Whole sectors written one after another: a byte reads as its own sector's. -/
theorem tget_foldl_sectors (view : Nat → List Byte) (hview : ∀ i, (view i).length = 128) (is : List Nat) (t : Table Byte)
    (b : Nat) :
    tget 0 (is.foldl (fun t i => tputs 0 t (128 * i) (view i)) t) b =
      if b / 128 ∈ is then (view (b / 128)).getD (b % 128) 0 else tget 0 t b := by
  induction is generalizing t with
  | nil => simp
  | cons i is ih =>
    rw [List.foldl_cons, ih, tget_tputs, hview]
    by_cases hb : b / 128 = i
    · subst hb
      have hin : 128 * (b / 128) ≤ b ∧ b < 128 * (b / 128) + 128 := by omega
      have hoff : b - 128 * (b / 128) = b % 128 := by omega
      simp [hin, hoff]
    · have hout : ¬(128 * i ≤ b ∧ b < 128 * i + 128) := by omega
      simp [hb, hout]

theorem tbytes_congr {t u : Table Byte} (a n : Nat) (h : ∀ b, a ≤ b → b < a + n → tget 0 u b = tget 0 t b) :
    tbytes 0 u a n = tbytes 0 t a n := by
  induction n generalizing a with
  | zero => rfl
  | succ n ih =>
    rw [tbytes, tbytes, h a (Nat.le_refl a) (by omega), ih (a + 1) fun b h1 h2 => h b (by omega) (by omega)]

theorem tbytes_length (t : Table Byte) (a n : Nat) : (tbytes 0 t a n).length = n := by
  induction n generalizing a with
  | zero => rfl
  | succ n ih => rw [tbytes, List.length_cons, ih]

theorem mem_dramSectors (a n i : Nat) : i ∈ dramSectors a n ↔ n ≠ 0 ∧ a / 128 ≤ i ∧ i ≤ (a + n - 1) / 128 := by
  unfold dramSectors
  split
  case isTrue h => simp [h]
  case isFalse h =>
    rw [List.mem_map]
    constructor
    · rintro ⟨j, hj, rfl⟩
      have := List.mem_range.mp hj
      omega
    · rintro ⟨-, h1, h2⟩
      exact ⟨i - a / 128, List.mem_range.mpr (by omega), by omega⟩

theorem mem_wholeSectors (a n i : Nat) : i ∈ wholeSectors a n ↔ i ∈ dramSectors a n ∧ a ≤ i * 128 ∧ i * 128 + 128 ≤ a + n := by
  rw [wholeSectors, List.mem_filter, decide_eq_true_eq]

/-! The seals. -/

theorem sealAt_congr {s t : State} (hc : (authOf t).ctxs = (authOf s).ctxs) (hk : (authOf t).keys = (authOf s).keys) (i : Nat) :
    sealAt t i = sealAt s i := by
  simp only [sealAt, pageHolder, pageSaver, sealOf, ctxOf, hc, hk]

theorem sectorView_congr {s t : State} {i : Nat} (hseal : sealAt t i = sealAt s i)
    (hs : tget 0 (dramOf t).sealed i = tget 0 (dramOf s).sealed i)
    (hb : ∀ b, 128 * i ≤ b → b < 128 * i + 128 → tget 0 (dramOf t).bytes b = tget 0 (dramOf s).bytes b) :
    sectorView t i = sectorView s i := by
  rw [sectorView, sectorView, hseal, hs, tbytes_congr _ _ hb]

theorem sectorView_length (s : State) (i : Nat) : (sectorView s i).length = 128 := by
  unfold sectorView
  dsimp only
  split
  · exact tbytes_length ..
  · rw [List.length_map, List.length_range]

/-- A sector reads as before where its bytes and seals are. -/
theorem unsealed_sector {s t : State} (b : Nat) (hseal : sealAt t (b / 128) = sealAt s (b / 128))
    (hs : tget 0 (dramOf t).sealed (b / 128) = tget 0 (dramOf s).sealed (b / 128))
    (hb : ∀ c, c / 128 = b / 128 → tget 0 (dramOf t).bytes c = tget 0 (dramOf s).bytes c) : unsealed t b = unsealed s b := by
  rw [unsealed, unsealed, hseal, hs, hb b rfl, sectorView_congr hseal hs fun c h1 h2 => hb c (by omega)]

/-- The step leaves what device memory reads as. -/
structure ReadsSame (s t : State) : Prop where
  bytes : (dramOf t).bytes = (dramOf s).bytes
  sealed : (dramOf t).sealed = (dramOf s).sealed
  ctxs : (authOf t).ctxs = (authOf s).ctxs
  keys : (authOf t).keys = (authOf s).keys

theorem ReadsSame.unsealed {s t : State} (h : ReadsSame s t) (b : Nat) : unsealed t b = unsealed s b :=
  unsealed_sector b (sealAt_congr h.ctxs h.keys _) (by rw [h.sealed]) fun c _ => by rw [h.bytes]

theorem ReadsSame.devBytes {s t : State} (h : ReadsSame s t) (a n : Nat) : devBytes t a n = devBytes s a n :=
  List.map_congr_left fun i _ => h.unsealed (a + i)

theorem ReadsSame.of_hub {s t : State} (h : t.hub = s.hub) : ReadsSame s t := by
  constructor <;> simp only [dramOf, authOf, h]

theorem DramKeeps.readsSame {s t : State} (h : DramKeeps s t) : ReadsSame s t := ⟨h.bytes, h.sealed, h.ctxs, h.keys⟩

theorem ReadsBut.before {s u t : State} {a : Nat} {bs : List Byte} (h₁ : ReadsSame s u) (h₂ : ReadsBut u t a bs) :
    ReadsBut s t a bs := fun b => by rw [h₂ b, h₁.unsealed]

theorem ReadsBut.after {s u t : State} {a : Nat} {bs : List Byte} (h₁ : ReadsBut s u a bs) (h₂ : ReadsSame u t) :
    ReadsBut s t a bs := fun b => by rw [h₂.unsealed, h₁ b]

/-! A write (R220, R221). -/

theorem tget_reseal (s : State) (a n b : Nat) :
    tget 0 (reseal s a n) b =
      if b / 128 ∈ dramSectors a n ∧ b / 128 ∉ wholeSectors a n ∧ tget 0 (dramOf s).sealed (b / 128) ≠ sealAt s (b / 128)
      then unsealed s b else tget 0 (dramOf s).bytes b := by
  rw [reseal, tget_foldl_sectors _ (sectorView_length s)]
  simp only [List.mem_filter, Bool.and_eq_true, decide_eq_true_eq, Bool.not_eq_true', List.contains_eq_mem, decide_eq_false_iff_not]
  by_cases hm : b / 128 ∈ dramSectors a n
  · by_cases hw : b / 128 ∈ wholeSectors a n
    · simp [hw]
    · by_cases hs : tget 0 (dramOf s).sealed (b / 128) = sealAt s (b / 128)
      · simp [hs]
      · simp [hm, hw, hs, unsealed]
  · simp [hm]

/-- Where a span lies in none of a sector's places, the sector is as before; else it reads as before but for the span. -/
theorem readsBut_putDev (s : State) (a : Nat) (bs : List Byte) : ReadsBut s (putDev s a bs) a bs := by
  intro b
  have hseal : sealAt (putDev s a bs) (b / 128) = sealAt s (b / 128) := sealAt_congr rfl rfl _
  have hs : tget 0 (dramOf (putDev s a bs)).sealed (b / 128) =
      if b / 128 ∈ dramSectors a bs.length then sealAt s (b / 128) else tget 0 (dramOf s).sealed (b / 128) :=
    tget_foldl_tset ..
  have hb (c : Nat) : tget 0 (dramOf (putDev s a bs)).bytes c =
      if a ≤ c ∧ c < a + bs.length then bs.getD (c - a) 0 else tget 0 (reseal s a bs.length) c := tget_tputs ..
  by_cases hm : b / 128 ∈ dramSectors a bs.length
  · rw [if_pos hm] at hs
    rw [unsealed, hseal, hs, if_pos rfl, hb b]
    split
    · rfl
    next hout =>
      rw [tget_reseal]
      split
      · rfl
      next hno =>
        have hnot : b / 128 ∉ wholeSectors a bs.length := fun hw => hout (by
          have := ((mem_wholeSectors ..).mp hw).2
          omega)
        have hsame : tget 0 (dramOf s).sealed (b / 128) = sealAt s (b / 128) := by
          by_contra hne
          exact hno ⟨hm, hnot, hne⟩
        rw [unsealed, if_pos hsame]
  · rw [if_neg hm] at hs
    have houtside (c : Nat) (hc : c / 128 = b / 128) : ¬(a ≤ c ∧ c < a + bs.length) := fun hin => hm (by
      rw [mem_dramSectors]
      omega)
    rw [if_neg (houtside b rfl)]
    refine unsealed_sector b hseal hs fun c hc => ?_
    rw [hb c, if_neg (houtside c hc), tget_reseal, if_neg]
    rw [hc]
    exact fun h => hm h.1

end Sys2Proof.Machine
end

section
/-! PROOF. What accepting an engine's command leaves of the cores (R187, R357): the registers, the ports and the commands are as
before but for the `at` consumed and the command taken. -/

namespace Sys2Proof.Machine

/-- What the bookkeeping of an accepted command keeps of a core; it raises nothing but collisions and bank conflicts. -/
structure Books (c d : Core) : Prop where
  gang : d.gang = c.gang
  idx : d.idx = c.idx
  s : d.s = c.s
  v : d.v = c.v
  k : d.k = c.k
  p : d.p = c.p
  pc : d.pc = c.pc
  ports : d.ports = c.ports
  cmds : d.cmds = c.cmds
  cmdSeq : d.cmdSeq = c.cmdSeq
  scratch : d.scratch = c.scratch
  suppress : d.suppress = c.suppress
  raises : RaisesOnly [4, 5] c d

theorem Books.refl (c : Core) : Books c c := ⟨rfl, rfl, rfl, rfl, rfl, rfl, rfl, rfl, rfl, rfl, rfl, rfl, .refl _ _⟩

theorem Books.trans {c d e : Core} (h₁ : Books c d) (h₂ : Books d e) : Books c e :=
  ⟨h₂.gang.trans h₁.gang, h₂.idx.trans h₁.idx, h₂.s.trans h₁.s, h₂.v.trans h₁.v, h₂.k.trans h₁.k, h₂.p.trans h₁.p,
    h₂.pc.trans h₁.pc, h₂.ports.trans h₁.ports, h₂.cmds.trans h₁.cmds, h₂.cmdSeq.trans h₁.cmdSeq,
    h₂.scratch.trans h₁.scratch, h₂.suppress.trans h₁.suppress, h₁.raises.trans h₂.raises⟩

theorem Books.foldl {α : Type} {f : Core → α → Core} (h : ∀ c a, Books c (f c a)) (as : List α) (c : Core) :
    Books c (as.foldl f c) := by
  induction as generalizing c with
  | nil => exact .refl c
  | cons a as ih => exact (h c a).trans (ih (f c a))

theorem books_raised {c d : Core} (h : d = { c with raised := d.raised }) (hr : RaisesOnly [4, 5] c d) : Books c d := by
  refine ⟨?_, ?_, ?_, ?_, ?_, ?_, ?_, ?_, ?_, ?_, ?_, ?_, hr⟩ <;> rw [h]

theorem books_noted {c d : Core} (hr : RaisesOnly [4] c (noted c d)) : Books c (noted c d) :=
  ⟨rfl, rfl, rfl, rfl, rfl, rfl, rfl, rfl, rfl, rfl, rfl, rfl, hr.mono (by simp)⟩

theorem addCharged_raises (c : Core) (x : Nat) {r : Raise} (h : r.code = 5) : RaisesOnly [4, 5] c (addCharged c x r) := by
  unfold addCharged
  split
  · exact .refl _ _
  · exact addRaise_raises _ _ (by simp [h])

theorem books_reserve (c : Core) (a : Access) : Books c (reserve c a) := by
  refine ⟨?_, ?_, ?_, ?_, ?_, ?_, ?_, ?_, ?_, ?_, ?_, ?_, ?_⟩
  iterate 12 rw [reserve_spec]
  unfold reserve
  dsimp only
  split
  · exact addCharged_raises _ _ rfl
  · exact .refl _ _

theorem books_reserveStamp (c : Core) (x tile : Nat) (ch : Nat × Nat × Nat) : Books c (reserveStamp c x tile ch) := by
  obtain ⟨h, hr⟩ := reserveStamp_spec c x tile ch
  refine ⟨?_, ?_, ?_, ?_, ?_, ?_, ?_, ?_, ?_, ?_, ?_, ?_, hr.mono (by simp)⟩ <;> rw [h]

/-- The step does the bookkeeping of an accepted command: no core changes otherwise, and what is scheduled stays so. -/
structure Booked (s t : State) : Prop where
  cores : ∀ j, Books (coreOf s j) (coreOf t j)
  gangs : t.gangs = s.gangs
  cur : t.cur = s.cur
  keeps : ∀ j ∈ s.agenda, j ∈ t.agenda

theorem Booked.refl (s : State) : Booked s s := ⟨fun _ => .refl _, rfl, rfl, fun _ h => h⟩

theorem Booked.trans {s t u : State} (h₁ : Booked s t) (h₂ : Booked t u) : Booked s u :=
  ⟨fun j => (h₁.cores j).trans (h₂.cores j), h₂.gangs.trans h₁.gangs, h₂.cur.trans h₁.cur,
    fun j hj => h₂.keeps j (h₁.keeps j hj)⟩

theorem Booked.foldl {α : Type} {f : State → α → State} (h : ∀ s a, Booked s (f s a)) (as : List α) (s : State) :
    Booked s (as.foldl f s) := by
  induction as generalizing s with
  | nil => exact .refl s
  | cons a as ih => exact (h s a).trans (ih (f s a))

/-- What one step of a fold schedules is scheduled after all of it. -/
theorem Booked.foldl_mem {α : Type} {f : State → α → State} {s : State} (J : α → Job) (h : ∀ u a, Booked u (f u a))
    (hJ : ∀ u a, Booked s u → J a ∈ (f u a).agenda) {as : List α} {a : α} (ha : a ∈ as) : J a ∈ (as.foldl f s).agenda := by
  obtain ⟨before, after, rfl⟩ := List.append_of_mem ha
  rw [List.foldl_append, List.foldl_cons]
  exact (Booked.foldl h after _).keeps _ (hJ _ a (Booked.foldl h before s))

theorem booked_modCore (s : State) (k : Nat) {f : Core → Core} (h : ∀ c, Books c (f c)) : Booked s (modCore s k f) := by
  refine ⟨fun j => ?_, rfl, rfl, fun _ hj => hj⟩
  rw [coreOf_modCore]
  split
  · exact h _
  · exact .refl _

theorem Booked.of_logged {s t : State} (h : Logged s t) : Booked s t :=
  ⟨fun j => by rw [h.coreOf]; exact .refl _, h.gangs, h.cur, h.keeps⟩

theorem booked_post (s : State) (j : Job) : Booked s (post s j) := .of_logged (logged_post s j)

theorem booked_postCore (s : State) (k due ph : Nat) (x : Task) : Booked s (postCore s k due ph x) := booked_post ..

theorem booked_postDeed (s : State) (k due ph : Nat) (d : Deed) : Booked s (postDeed s k due ph d) := booked_post ..

theorem booked_reserveAll (s : State) (k : Nat) (ch : Nat × Nat × Nat) (as : List (Nat × Nat × Nat × Nat)) (cls : Nat)
    (eject : Bool) : Booked s (reserveAll s k ch as cls eject) :=
  booked_modCore s k fun c => .foldl (fun d _ => books_reserve d _) as c

theorem booked_reserveStamps (s : State) (k : Nat) (ch : Nat × Nat × Nat) (sts : List (Nat × Nat)) :
    Booked s (reserveStamps s k ch sts) :=
  booked_modCore s k fun c => .foldl (fun d _ => books_reserveStamp d _ _ _) sts c

theorem booked_acceptCommands (s : State) (home t : Nat) (cs : List DramCmd) : Booked s (acceptCommands s home t cs) :=
  booked_modCore s home fun _ => ⟨rfl, rfl, rfl, rfl, rfl, rfl, rfl, rfl, rfl, rfl, rfl, rfl, .refl _ _⟩

theorem Booked.of_own {s t : State} {d : Core} {js : List Job} (h : OwnStep s t (noted (myCore s) d) js)
    (hr : RaisesOnly [4] (myCore s) (noted (myCore s) d)) : Booked s t := by
  refine ⟨fun j => ?_, h.gangs, h.cur, fun j hj => by rw [h.agenda]; exact List.mem_append_left _ hj⟩
  by_cases hj : j = me s
  · rw [hj, h.core]; exact books_noted hr
  · rw [h.others j hj]; exact .refl _

theorem booked_engineResult (s : State) (fl : Flight) (p : ResultPort) (v : Nat) : Booked s (engineResult s fl p v) := by
  have own := complete_spec s fl p 1 ((BitVec.ofNat 64 v).setWidth 2048) 0
  have raises := complete_raises s fl p 1 ((BitVec.ofNat 64 v).setWidth 2048) 0
  have hcore := own.core
  rw [hcore] at raises
  exact .of_own own raises

theorem engineResult_answers (s : State) (fl : Flight) (p : ResultPort) (v : Nat) :
    answerJob s p v ∈ (engineResult s fl p v).agenda := by
  have own := complete_spec s fl p 1 ((BitVec.ofNat 64 v).setWidth 2048) 0
  show _ ∈ (complete s fl p 1 ((BitVec.ofNat 64 v).setWidth 2048) 0).agenda
  rw [own.agenda]
  exact List.mem_append_right _ (List.mem_singleton_self _)

/-! Jobs of the core, after such steps. -/

theorem mem_postCore_of_gang {s u : State} (due ph : Nat) (x : Task) (h : (coreOf u (me s)).gang = (myCore s).gang) :
    ownJob s due ph x ∈ (postCore u (me s) due ph x).agenda := by
  rw [postCore_agenda, h]
  exact List.mem_append_right _ (List.mem_singleton_self _)

theorem answerJob_congr {s u : State} (p : ResultPort) (v : Nat) (hcur : u.cur = s.cur) (hgangs : u.gangs = s.gangs)
    (hgang : (coreOf u (me s)).gang = (myCore s).gang) : answerJob u p v = answerJob s p v := by
  have hme : me u = me s := by rw [me, hcur, me]
  have hmine : (myCore u).gang = (myCore s).gang := by rw [myCore, hme]; exact hgang
  rw [answerJob, answerJob, resultJob, resultJob, ownJob, ownJob, now_eq, now_eq, gangOf, gangOf, hmine, hgangs, hme]

/-! Acceptance. -/

/-- Books kept from the arrival to the consumed `at`, and from there around the command's entry, make an acceptance. -/
theorem accepts_of {i : Instr} {s u v t : State} {d : Core} {at_ : Nat} {m : EngineCmd} {js answer : List Job} {f : Core → Core}
    (hx : exec i s = .next t) (arrival : OwnStep s u (noted (myCore s) d) []) (raises : RaisesOnly [4] (myCore s) (noted (myCore s) d))
    (before : Booked (modMe u fun c => consumeAt c at_) v)
    (hf : ∀ c, f c = { addCmd c m with isdirty := (f c).isdirty })
    (after : Booked (modMe v f) t) (hjs : ∀ j ∈ js, j ∈ t.agenda) (hanswer : ∀ j ∈ answer, j ∈ t.agenda) :
    Accepts i s at_ m js answer := by
  have consumed := arrival.thenMod (consumeAt · at_)
  have hme : me v = me s := by rw [me, before.cur, consumed.cur, me]
  have hmine : Books (consumeAt (noted (myCore s) d) at_) (coreOf v (me s)) := by
    have := before.cores (me s)
    rwa [consumed.core] at this
  have hown : coreOf (modMe v f) (me s) = f (coreOf v (me s)) := by rw [modMe, hme, coreOf_modCore_self]
  have hlast := after.cores (me s)
  rw [hown, hf] at hlast
  refine ⟨t, hx, ?_, fun j b => ?_, fun j hj => ?_, hjs, hanswer, ?_, ?_, ?_, ?_, ?_, ?_, ?_, ?_⟩
  · rw [after.gangs]
    exact before.gangs.trans consumed.gangs
  · rw [(after.cores j).scratch]
    by_cases hj : j = me s
    · rw [hj, hown, hf]
      exact congrArg (tget 0 · b) hmine.scratch
    · rw [modMe, hme, coreOf_modCore_ne _ _ hj, (before.cores j).scratch, consumed.others j hj]
  · refine after.keeps j (before.keeps j ?_)
    rw [consumed.agenda, List.append_nil]
    exact hj
  · have hr : RaisesOnly [4, 5] (myCore s) (consumeAt (noted (myCore s) d) at_) := raises.mono (by simp)
    exact (hr.trans hmine.raises).trans hlast.raises
  · rw [hlast.cmds]
    show (coreOf v (me s)).cmds ++ [{ m with id := (coreOf v (me s)).cmdSeq }] = _
    rw [hmine.cmds, hmine.cmdSeq]
    rfl
  · exact hlast.ports.trans hmine.ports
  · exact hlast.s.trans hmine.s
  · exact hlast.v.trans hmine.v
  · exact hlast.k.trans hmine.k
  · exact hlast.p.trans hmine.p
  · exact hlast.pc.trans hmine.pc

end Sys2Proof.Machine
end

section
/-! PROOF. DCOPY: its acceptance and the two cycles of a unit (R187, R210, R211, R213, R357, R358). -/

namespace Sys2Proof.Machine

theorem exec_dcopyR (m : Mv) (s : State) : exec (.dcopyR m) s = trigger (.dcopyR m) m s fun fl s => dcopy true s fl := rfl
theorem exec_dcopyW (m : Mv) (s : State) : exec (.dcopyW m) s = trigger (.dcopyW m) m s fun fl s => dcopy false s fl := rfl
theorem exec_dcopyUnit (k id u : Nat) (atDram : Bool) (s : State) :
    exec (.dcopyUnit k id u atDram) s = execDcopyUnit k id u atDram s := rfl

/-! The checks read neither ports nor notes. -/

theorem copyFaults_congr {s u : State} {k : Nat} (write : Bool) (sad lad len t : Nat) (hhub : u.hub = s.hub)
    (hgangs : u.gangs = s.gangs) (hgang : (coreOf u k).gang = (coreOf s k).gang) (hclaims : (coreOf u k).claims = (coreOf s k).claims) :
    copyFaults u k write sad lad len t = copyFaults s k write sad lad len t := by
  simp only [copyFaults, coreGang, gangOf, bindAt, ctxOf, authOf, bindRefuses, setCores, coreRetired, houseOf, engineClaimed,
    claimedAt, hhub, hgangs, hgang, hclaims]
  rfl

theorem bindAt_congr {s u : State} (x lin : Nat) (hhub : u.hub = s.hub) : bindAt u x lin = bindAt s x lin := by
  simp only [bindAt, ctxOf, authOf, hhub]

theorem slotMapOf_congr {s u : State} (home : Nat) (hhub : u.hub = s.hub) : slotMapOf u home = slotMapOf s home := by
  simp only [slotMapOf, dramOf, hhub]

/-! Acceptance. -/

/-- The jobs of a unit: at DRAM and at scratch. -/
def copyUnitJobs (s : State) (id : Nat) (rd : Bool) (st skew i : Nat) : List Job :=
  [ownJob s (st + (if rd then 60 else 120) + unitStep i + skew) (if rd then phRead else phWrite)
      (.event (.dcopyUnit (me s) id i true)),
    ownJob s (copyScratchCycle (if rd then 0 else 1) st skew i) (if rd then phWrite else phRead)
      (.event (.dcopyUnit (me s) id i false))]

theorem booked_postCopyUnits (s : State) (k id : Nat) (rd : Bool) (st skew len : Nat) :
    Booked s (postCopyUnits s k id rd st skew len) :=
  .foldl (fun _ _ => (booked_postCore ..).trans (booked_postCore ..)) _ _

theorem postCopyUnits_mem {s u : State} (id : Nat) (rd : Bool) (st skew len : Nat)
    (hgang : (coreOf u (me s)).gang = (myCore s).gang) {i : Nat} (hi : i < unitCount len) :
    ∀ j ∈ copyUnitJobs s id rd st skew i, j ∈ (postCopyUnits u (me s) id rd st skew len).agenda := by
  have step (v : State) (i : Nat) (hv : Booked u v) : ∀ j ∈ copyUnitJobs s id rd st skew i,
      j ∈ (postCore (postCore v (me s) (st + (if rd then 60 else 120) + unitStep i + skew) (if rd then phRead else phWrite)
        (.event (.dcopyUnit (me s) id i true))) (me s) (copyScratchCycle (if rd then 0 else 1) st skew i)
        (if rd then phWrite else phRead) (.event (.dcopyUnit (me s) id i false))).agenda := by
    have hg : (coreOf v (me s)).gang = (myCore s).gang := ((hv.cores (me s)).gang).trans hgang
    intro j hj
    rcases List.mem_cons.mp hj with rfl | hj
    · exact (booked_postCore ..).keeps _ (mem_postCore_of_gang _ _ _ hg)
    · rw [List.mem_singleton.mp hj]
      exact mem_postCore_of_gang _ _ _ (by rw [coreOf_postCore]; exact hg)
  intro j hj
  rcases List.mem_cons.mp hj with rfl | hj
  · exact Booked.foldl_mem (fun i => ownJob s (st + (if rd then 60 else 120) + unitStep i + skew) (if rd then phRead else phWrite)
      (.event (.dcopyUnit (me s) id i true))) (fun _ _ => (booked_postCore ..).trans (booked_postCore ..))
      (fun v i hv => step v i hv _ (List.mem_cons_self ..)) (List.mem_range.mpr hi)
  · rw [List.mem_singleton.mp hj]
    exact Booked.foldl_mem (fun i => ownJob s (copyScratchCycle (if rd then 0 else 1) st skew i) (if rd then phWrite else phRead)
      (.event (.dcopyUnit (me s) id i false))) (fun _ _ => (booked_postCore ..).trans (booked_postCore ..))
      (fun v i hv => step v i hv _ (List.mem_cons_of_mem _ (List.mem_singleton_self _))) (List.mem_range.mpr hi)

section
variable {s : State} {fl : Flight} {rd : Bool} (h : s.cur.flight = some fl)
  {sad lad len st skew home : Nat} {w e : Word} {tag : BitVec 16}
  (hsad : sad = (portOf (myCore s) 0x300).toNat) (hlad : lad = (portOf (myCore s) 0x301).toNat)
  (hlen : len = (portOf (myCore s) 0x302).toNat) (hw : w = portOf (myCore s) 0x303)
  (htag : tag = (portOf (myCore s) 0x304).setWidth 16) (hst : st = startOf w fl.arrive)
  (he : e = bindAt s (coreGang s (me s)).ctx lad) (hhome : home = bdCore e)
  (hskew : skew = if home / 128 = me s / 128 then 0 else 112)
  (hsome : len ≠ 0) (hchecks : copyFaults s (me s) (!rd) sad lad len fl.arrive = []) (hon : OnTime (myCore s) fl w)
  (hshare : bdShare e = false)
  (htimed : timingFault (slotMapOf s home) (groupCommands s home fl.arrive)
    (copyCommands rd st (homeAddr e lad % 2 ^ 29) len skew) = 0)
include h hsad hlad hlen hw htag hst he hhome hskew hsome hchecks hon hshare htimed

theorem dcopy_accepts {i : Instr} {m : Mv} (hx : exec i s = trigger i m s fun fl s => dcopy rd s fl) :
    Accepts i s 0x303 { mkCmd (if rd then 0 else 1) st sad (homeAddr e lad) len tag home fl with skew := skew }
      ((List.range (unitCount len)).flatMap fun i => copyUnitJobs s (myCore s).cmdSeq rd st skew i)
      [answerJob s .c0 (st + 120 + unitStep (unitCount len - 1) + skew)] := by
  have arrival := ownStep_noteTrigger ((dstId i).getD 0 / 64) fl s
  have raises := noteTrigger_raises ((dstId i).getD 0 / 64) (myCore s) fl
  rw [trigger_arrival _ _ _ _ _ h] at hx
  rw [noteTrigger_noted] at raises
  revert hx
  generalize (modMe s fun c => noteTrigger ((dstId i).getD 0 / 64) c fl) = u at arrival ⊢
  generalize noteTrigger ((dstId i).getD 0 / 64) (myCore s) fl = d at arrival raises ⊢
  have consumed := arrival.thenMod (consumeAt · 0x303)
  intro hx
  rw [dcopy, arrival.myCore_eq, arrival.me_eq] at hx
  generalize hv : (modMe u fun c => consumeAt c 0x303) = v at consumed hx
  have hport (n : Nat) : portOf (noted (myCore s) d) n = portOf (myCore s) n := rfl
  have hcore : coreOf v (me s) = consumeAt (noted (myCore s) d) 0x303 := consumed.core
  have hgang : (coreOf v (me s)).gang = (myCore s).gang := by rw [hcore]; rfl
  have hclaims : (coreOf v (me s)).claims = (myCore s).claims := by rw [hcore]; rfl
  have hcmds : (coreOf v home).dramCmds = (coreOf s home).dramCmds := by
    by_cases hh : home = me s
    · rw [hh, hcore]; rfl
    · rw [consumed.others home hh]
  have hcg : coreGang v (me s) = coreGang s (me s) := by
    rw [coreGang, coreGang, hgang, gangOf, gangOf, consumed.gangs]; rfl
  dsimp only at hx
  rw [hport, hport, hport, hport, hport, ← hsad, ← hlad, ← hlen, ← hw, ← htag, ← hst,
    copyFaults_congr _ _ _ _ _ consumed.hub consumed.gangs hgang hclaims, hchecks,
    slipCheck_onTime [0x303] 2 hon (by rw [consumed.myCore_eq]; rfl), if_neg hsome, if_neg (not_not_intro rfl)] at hx
  dsimp only at hx
  rw [hcg, bindAt_congr _ _ consumed.hub, ← he, hshare, if_neg Bool.false_ne_true, startCopy, consumed.me_eq] at hx
  dsimp only at hx
  rw [← hhome, ← hskew, slotMapOf_congr _ consumed.hub, groupCommands, hcmds] at hx
  rw [groupCommands] at htimed
  rw [htimed, if_neg (not_not_intro rfl)] at hx
  generalize hv1 : acceptCommands v home fl.arrive (copyCommands rd st (homeAddr e lad % 2 ^ 29) len skew) = v1 at hx
  have accepted : Booked v v1 := hv1 ▸ booked_acceptCommands ..
  have hme : me v1 = me s := by rw [me, accepted.cur, consumed.cur, me]
  have hid : (myCore v1).cmdSeq = (myCore s).cmdSeq := by rw [myCore, hme, (accepted.cores _).cmdSeq, hcore]; rfl
  have hset (m : EngineCmd) : setCore v1 (me s) (addCmd (myCore v1) m) = modMe v1 fun c => addCmd c m := by
    rw [← hme]; rfl
  rw [hset, hid] at hx
  generalize hm : ({ mkCmd (if rd then 0 else 1) st sad (homeAddr e lad) len tag home fl with skew := skew } : EngineCmd) = cmd at hx ⊢
  have hadded : (coreOf (modMe v1 fun c => addCmd c cmd) (me s)).gang = (myCore s).gang := by
    rw [modMe, hme, coreOf_modCore_self]
    exact ((accepted.cores _).gang).trans hgang
  have hplain : (modMe v1 fun c => addCmd c cmd).gangs = s.gangs := accepted.gangs.trans consumed.gangs
  have hcur : (modMe v1 fun c => addCmd c cmd).cur = s.cur := accepted.cur.trans consumed.cur
  generalize hv2 : (modMe v1 fun c => addCmd c cmd) = v2 at hx hadded hplain hcur
  generalize hv5 : List.foldl _ _ (List.filter _ _) = v5 at hx
  have reserved : Booked v2 v5 := by
    rw [← hv5]
    refine .trans ?_ (.foldl (fun _ _ => booked_postDeed ..) _ _)
    split
    · exact (booked_reserveAll ..).trans (booked_reserveStamps ..)
    · exact booked_reserveAll ..
  have hgang5 : (coreOf v5 (me s)).gang = (myCore s).gang := ((reserved.cores _).gang).trans hadded
  have posted := reserved.trans (booked_postCopyUnits v5 (me s) (myCore s).cmdSeq rd st skew len)
  have answered := posted.trans (booked_engineResult _ fl .c0 (st + 120 + unitStep (unitCount len - 1) + skew))
  refine accepts_of (v := v1) (f := fun c => addCmd c cmd) hx arrival raises (hv ▸ accepted) (fun c => rfl) (hv2 ▸ answered) ?_ ?_
  · intro j hj
    obtain ⟨i, hi, hj⟩ := List.mem_flatMap.mp hj
    exact (booked_engineResult ..).keeps _ (postCopyUnits_mem _ _ _ _ _ hgang5 (List.mem_range.mp hi) j hj)
  · intro j hj
    rw [List.mem_singleton.mp hj, ← answerJob_congr .c0 _ (posted.cur.trans hcur) (posted.gangs.trans hplain)
      (((posted.cores _).gang).trans hadded)]
    exact engineResult_answers ..

end

end Sys2Proof.Machine
end

section
/-! PROOF. A unit of a copy at DRAM and at scratch (R187, R210, R357, R358). -/

namespace Sys2Proof.Machine

/-! Commands and their buffers. -/

theorem cmdOf_id {c : Core} {id : Nat} {m : EngineCmd} (h : cmdOf c id = some m) : m.id = id := by
  have := List.find?_some (p := fun n : EngineCmd => decide (n.id = id)) h
  exact of_decide_eq_true this

theorem find?_map_replace {cs : List EngineCmd} {m : EngineCmd} (h : (cs.find? fun n => decide (n.id = m.id)).isSome = true) :
    (cs.map fun n => if n.id = m.id then m else n).find? (fun n => decide (n.id = m.id)) = some m := by
  induction cs with
  | nil => cases h
  | cons n cs ih =>
    by_cases hn : n.id = m.id
    · simp [hn]
    · simp only [List.find?_cons, hn, decide_false] at h
      simp only [List.map_cons, List.find?_cons, hn, if_false, decide_false]
      exact ih h

/-- A command replaced reads as it was written. -/
theorem cmdOf_setCmd {c : Core} {m : EngineCmd} {id : Nat} (hid : m.id = id) (h : (cmdOf c id).isSome = true) :
    cmdOf (setCmd c m) id = some m := by
  subst hid
  exact find?_map_replace h

theorem unitBuf_setBuf (m : EngineCmd) (i : Nat) (bs : List Byte) (p : Bool) : unitBuf (setBuf m i bs p) i = some (bs, p) := by
  have hnone : (m.bufs.filter fun b => decide (b.1 ≠ i)).find? (fun b => decide (b.1 = i)) = none :=
    List.find?_eq_none.mpr fun b hb => by simpa using (List.mem_filter.mp hb).2
  rw [unitBuf, setBuf, List.find?_append, hnone]
  simp

theorem cmdCore_of_some {s : State} {k id : Nat} {m : EngineCmd} (h : cmdOf (coreOf s k) id = some m) :
    cmdCore s k id = coreOf s k := if_pos (by rw [h]; rfl)

theorem modCmdCore_of_some {s : State} {k id : Nat} (f : Core → Core) (h : (cmdOf (coreOf s k) id).isSome = true) :
    modCmdCore s k id f = modCore s k f := if_pos h

/-! What an engine's access leaves. -/

/-- Radish's checks of a step, which leave the hub. -/
structure Raced (s t : State) : Prop extends StateNoted s t where
  hub : t.hub = s.hub
  pod : t.pod = s.pod

theorem Raced.refl (s : State) : Raced s s := ⟨.refl s, rfl, rfl⟩

theorem Raced.trans {s t u : State} (h₁ : Raced s t) (h₂ : Raced t u) : Raced s u :=
  ⟨h₁.toStateNoted.trans h₂.toStateNoted, h₂.hub.trans h₁.hub, h₂.pod.trans h₁.pod⟩

theorem Raced.foldl {α : Type} {f : State → α → State} (h : ∀ s a, Raced s (f s a)) (as : List α) (s : State) :
    Raced s (as.foldl f s) := by
  induction as generalizing s with
  | nil => exact .refl s
  | cons a as ih => exact (h s a).trans (ih (f s a))

theorem raced_raceReport (s : State) (k addr : Nat) (x : BitVec 16) (rw : Nat) (sh : Shadow) (untimed : Bool) (victim : Nat)
    (ch : Option (Nat × Nat × Nat)) : Raced s (raceReport s k addr x rw sh untimed victim ch) := by
  refine ⟨stateNoted_raceReport .., ?_, ?_⟩
  all_goals
    unfold raceReport
    dsimp only
    split
    · rfl
    · split <;> rfl

theorem raced_raceScratch (s : State) (k addr n : Nat) (x : BitVec 16) (rw : Nat) (ch : Option (Nat × Nat × Nat)) :
    Raced s (raceScratch s k addr n x rw ch) := by
  refine .foldl (fun u i => ?_) _ s
  dsimp only
  split
  · exact raced_raceReport ..
  · exact .refl u

theorem raced_raceDram (s : State) (a n : Nat) (x : BitVec 16) (rw : Nat) (untimed : Bool) (victim : Nat) :
    Raced s (raceDram s a n x rw untimed victim) := by
  refine .foldl (fun u i => ?_) _ s
  dsimp only
  split
  · exact raced_raceReport ..
  · exact .refl u

theorem Raced.cmds_eq {s t : State} (h : Raced s t) (k : Nat) : (coreOf t k).cmds = (coreOf s k).cmds := by rw [h.cores k]

theorem Raced.cmdOf_eq {s t : State} (h : Raced s t) (k id : Nat) : cmdOf (coreOf t k) id = cmdOf (coreOf s k) id := by
  rw [cmdOf, h.cmds_eq, cmdOf]

/-- What an engine's performing access keeps of a core. -/
structure ActsCore (c d : Core) : Prop where
  gang : d.gang = c.gang
  idx : d.idx = c.idx
  s : d.s = c.s
  pc : d.pc = c.pc

theorem ActsCore.refl (c : Core) : ActsCore c c := ⟨rfl, rfl, rfl, rfl⟩

theorem ActsCore.trans {c d e : Core} (h₁ : ActsCore c d) (h₂ : ActsCore d e) : ActsCore c e :=
  ⟨h₂.gang.trans h₁.gang, h₂.idx.trans h₁.idx, h₂.s.trans h₁.s, h₂.pc.trans h₁.pc⟩

theorem CheckNoted.acts {c d : Core} (h : CheckNoted c d) : ActsCore c d := by constructor <;> rw [h]

/-- The step changes the memories of cores and their notes: the hub, what is scheduled and the clocks are as before. -/
structure Acts (s t : State) : Prop where
  cores : ∀ j, ActsCore (coreOf s j) (coreOf t j)
  gangs : t.gangs = s.gangs
  hub : t.hub = s.hub
  agenda : t.agenda = s.agenda

theorem Acts.refl (s : State) : Acts s s := ⟨fun _ => .refl _, rfl, rfl, rfl⟩

theorem Acts.trans {s t u : State} (h₁ : Acts s t) (h₂ : Acts t u) : Acts s u :=
  ⟨fun j => (h₁.cores j).trans (h₂.cores j), h₂.gangs.trans h₁.gangs, h₂.hub.trans h₁.hub, h₂.agenda.trans h₁.agenda⟩

theorem Acts.foldl {α : Type} {f : State → α → State} (h : ∀ s a, Acts s (f s a)) (as : List α) (s : State) :
    Acts s (as.foldl f s) := by
  induction as generalizing s with
  | nil => exact .refl s
  | cons a as ih => exact (h s a).trans (ih (f s a))

theorem Raced.acts {s t : State} (h : Raced s t) : Acts s t := ⟨fun j => (h.cores j).acts, h.gangs, h.hub, h.agenda⟩

theorem acts_modCore (s : State) (k : Nat) {f : Core → Core} (h : ActsCore (coreOf s k) (f (coreOf s k))) : Acts s (modCore s k f) := by
  refine ⟨fun j => ?_, rfl, rfl, rfl⟩
  rw [coreOf_modCore]
  split
  case isTrue hj => subst hj; exact h
  case isFalse => exact .refl _

theorem acts_shadowWrite (s : State) (k : Nat) (w : ScratchWrite) : Acts s (shadowWrite s k w) := by
  unfold shadowWrite
  exact acts_modCore _ _ ⟨rfl, rfl, rfl, rfl⟩

theorem acts_performWrite (s : State) (k : Nat) (w : ScratchWrite) : Acts s (performWrite s k w) := by
  unfold performWrite
  dsimp only
  split
  · exact .refl s
  · refine (raced_raceScratch ..).acts.trans ((acts_shadowWrite ..).trans (acts_modCore _ _ ?_))
    exact ActsCore.trans (d := putScratch _ _ _) ⟨rfl, rfl, rfl, rfl⟩ (checkWatch_scratch ..).acts

theorem acts_ownStamp (s : State) (k tile : Nat) (tag : BitVec 16) : Acts s (ownStamp s k tile tag) := by
  unfold ownStamp
  dsimp only
  split
  · exact acts_modCore _ _ (CheckNoted.of_raised (raiseNow_spec ..)).acts
  · exact acts_modCore _ _ ⟨rfl, rfl, rfl, rfl⟩

theorem acts_closeUnit (s : State) (k : Nat) (m : EngineCmd) (u : Nat) : Acts s (closeUnit s k m u) := by
  unfold closeUnit
  split
  · exact acts_modCore _ _ ⟨rfl, rfl, rfl, rfl⟩
  · exact .refl s

theorem ScratchSame.trans {s t u : State} (h₁ : ScratchSame s t) (h₂ : ScratchSame t u) : ScratchSame s u :=
  fun j b => (h₂ j b).trans (h₁ j b)

theorem ScratchSame.foldl {α : Type} {f : State → α → State} (h : ∀ s a, ScratchSame s (f s a)) (as : List α) (s : State) :
    ScratchSame s (as.foldl f s) := by
  induction as generalizing s with
  | nil => exact fun _ _ => rfl
  | cons a as ih => exact (h s a).trans (ih (f s a))

theorem ScratchBut.after {s t u : State} {k a : Nat} {bs : List Byte} (h₁ : ScratchBut s t k a bs) (h₂ : ScratchSame t u) :
    ScratchBut s u k a bs := fun j b => (h₂ j b).trans (h₁ j b)

theorem ScratchSame.of_cores {s t : State} (h : t.cores = s.cores) : ScratchSame s t := fun j b => by
  rw [coreOf, h, coreOf]

theorem scratchSame_modCore (s : State) (k : Nat) {f : Core → Core} (h : ∀ c, (f c).scratch = c.scratch) :
    ScratchSame s (modCore s k f) := fun j b => by
  rw [coreOf_modCore]
  split
  · rw [h]
  · rfl

theorem scratchSame_ownStamp (s : State) (k tile : Nat) (tag : BitVec 16) : ScratchSame s (ownStamp s k tile tag) := by
  unfold ownStamp
  dsimp only
  split
  · exact scratchSame_modCore _ _ fun c => by rw [raiseNow_spec]
  · exact scratchSame_modCore _ _ fun c => rfl

theorem scratchSame_closeUnit (s : State) (k : Nat) (m : EngineCmd) (u : Nat) : ScratchSame s (closeUnit s k m u) := by
  unfold closeUnit
  split
  · exact scratchSame_modCore _ _ fun c => rfl
  · exact fun _ _ => rfl

/-- An engine's write that is not voided writes its bytes and stamps. -/
theorem engineWrite_spec {s : State} {k a : Nat} {bs : List Byte} (agent : BitVec 16) (sts : List (Nat × BitVec 16)) (replayed : Bool)
    (h : isVoided (coreOf s k) (gcycOf s k) a bs.length = false) :
    Acts s (engineWrite s k a bs agent sts replayed) ∧ ScratchBut s (engineWrite s k a bs agent sts replayed) k a bs := by
  rw [engineWrite]
  dsimp only
  rw [if_neg (Bool.eq_false_iff.mp h)]
  exact ⟨(acts_performWrite ..).trans (.foldl (fun u (st : Nat × BitVec 16) => acts_ownStamp u k st.1 st.2) _ _),
    (performWrite_spec ..).1.after (.foldl (fun u (st : Nat × BitVec 16) => scratchSame_ownStamp u k st.1 st.2) _ _)⟩

/-! DCOPY_UNIT. -/

section
variable {s : State} {k id u : Nat} {m : EngineCmd} (h : cmdOf (coreOf s k) id = some m)
include h

/-- The unit's bytes are in the command's buffer. -/
theorem takes_of {v : State} {bs : List Byte} {p : Bool} (hcmd : cmdOf (coreOf v k) id = cmdOf (coreOf s k) id) :
    ∃ m' p', cmdOf (coreOf (modCore v k fun c => setCmd c (setBuf m u bs p)) k) id = some m' ∧ unitBuf m' u = some (bs, p') := by
  refine ⟨setBuf m u bs p, p, ?_, unitBuf_setBuf ..⟩
  rw [coreOf_modCore_self]
  exact cmdOf_setCmd (show m.id = id from cmdOf_id h) (by rw [hcmd, h]; rfl)

theorem dcopyUnit_dram_eq (hkind : m.kind ≠ 7) : exec (.dcopyUnit k id u true) s = .next (unitAtDram s k m u) := by
  rw [exec_dcopyUnit, execDcopyUnit, cmdCore_of_some h, h]
  dsimp only
  rw [if_pos rfl, if_neg hkind]

theorem dcopyUnit_scratch_eq : exec (.dcopyUnit k id u false) s = .next (unitAtScratch s k m u) := by
  rw [exec_dcopyUnit, execDcopyUnit, cmdCore_of_some h, h]
  dsimp only
  rw [if_neg Bool.false_ne_true]

/-- A unit of a copy into scratch takes the device's bytes. -/
theorem copyUnit_loads (hkind : m.kind = 0) (hopen : pageBlocked s (m.lad + 256 * u) = false) :
    ∃ t, exec (.dcopyUnit k id u true) s = .next t ∧
      (∃ m' p, cmdOf (coreOf t k) id = some m' ∧
        unitBuf m' u = some (devBytes s (m.lad + 256 * u) (unitBytes m.len u), p)) ∧ ScratchSame s t ∧
      (dramOf t).bytes = (dramOf s).bytes ∧
      ((∀ i ∈ dramSectors (m.lad + 256 * u) (unitBytes m.len u), tget false (dramOf s).bad i = false) → t.agenda = s.agenda) := by
  rw [dcopyUnit_dram_eq h (by rw [hkind]; decide)]
  refine ⟨_, rfl, ?_⟩
  rw [unitAtDram, if_neg (by rw [hkind]; decide), if_neg (by rw [hkind]; decide), if_neg (Bool.eq_false_iff.mp hopen)]
  dsimp only
  have raced := raced_raceDram s (m.lad + 256 * u) (unitBytes m.len u) (agentId 1 (coreOf s k).idx) 0 false k
  generalize raceDram s (m.lad + 256 * u) (unitBytes m.len u) (agentId 1 (coreOf s k).idx) 0 false k = v at raced ⊢
  have hdram : dramOf v = dramOf s := by rw [dramOf, raced.hub, dramOf]
  have noted := dramKeeps_noteRead v (m.lad + 256 * u) (unitBytes m.len u)
  have hagenda : (∀ i ∈ dramSectors (m.lad + 256 * u) (unitBytes m.len u), tget false (dramOf s).bad i = false) →
      (noteRead v (m.lad + 256 * u) (unitBytes m.len u)).agenda = s.agenda := fun hgood => by
    rw [noteRead, hdram, List.filter_eq_nil_iff.mpr fun i hi => by rw [hgood i hi]; exact Bool.false_ne_true]
    exact raced.agenda
  generalize noteRead v (m.lad + 256 * u) (unitBytes m.len u) = r at noted hagenda ⊢
  have hcmd : cmdOf (coreOf r k) id = cmdOf (coreOf s k) id := by rw [noted.coreOf, raced.cmdOf_eq]
  have hreads : devBytes r (m.lad + 256 * u) (unitBytes m.len u) = devBytes s (m.lad + 256 * u) (unitBytes m.len u) :=
    (noted.readsSame.devBytes ..).trans ((ReadsSame.of_hub raced.hub).devBytes ..)
  rw [modCmdCore_of_some _ (by rw [cmdOf_id h, hcmd, h]; rfl), hreads]
  refine ⟨takes_of h hcmd, ?_, ?_, hagenda⟩
  · exact raced.scratchSame.trans ((ScratchSame.of_cores noted.cores).trans (scratchSame_modCore _ _ fun _ => rfl))
  · show (dramOf r).bytes = _
    rw [noted.bytes, hdram]

/-- Its bytes are written into scratch. -/
theorem copyUnit_writes (hkind : m.kind = 0) {bs : List Byte} {p : Bool} (hbuf : unitBuf m u = some (bs, p))
    (hfree : isVoided (coreOf s k) (gcycOf s k) (m.sad + 256 * u) bs.length = false) :
    ∃ t, exec (.dcopyUnit k id u false) s = .next t ∧ ScratchBut s t k (m.sad + 256 * u) bs ∧ t.hub = s.hub ∧ t.agenda = s.agenda ∧
      (coreOf t k).s = (coreOf s k).s ∧ (coreOf t k).pc = (coreOf s k).pc := by
  rw [dcopyUnit_scratch_eq h]
  refine ⟨_, rfl, ?_⟩
  rw [unitAtScratch, if_pos (.inl hkind), hbuf]
  dsimp only
  obtain ⟨acts, written⟩ := engineWrite_spec (agentId 1 (coreOf s k).idx) (unitStamps m m.sad u) (m.replayed.contains u) hfree
  have whole := acts.trans (acts_closeUnit _ k m u)
  exact ⟨written.after (scratchSame_closeUnit _ k m u), whole.hub, whole.agenda, (whole.cores k).s, (whole.cores k).pc⟩

/-- A unit of a copy from scratch takes its bytes. -/
theorem copyUnit_reads (hkind : m.kind = 1)
    (hfree : isVoided (coreOf s k) (gcycOf s k) (m.sad + 256 * u) (unitBytes m.len u) = false) :
    ∃ t, exec (.dcopyUnit k id u false) s = .next t ∧
      (∃ m' p, cmdOf (coreOf t k) id = some m' ∧
        unitBuf m' u = some (scratchBytes (coreOf s k) (m.sad + 256 * u) (unitBytes m.len u), p)) ∧
      ScratchSame s t ∧ t.hub = s.hub ∧ t.agenda = s.agenda := by
  rw [dcopyUnit_scratch_eq h]
  refine ⟨_, rfl, ?_⟩
  rw [unitAtScratch, if_neg (by rw [hkind]; decide), if_neg (Bool.eq_false_iff.mp hfree)]
  dsimp only
  rw [if_neg (by rw [hkind]; decide)]
  have raced := raced_raceScratch s k (m.sad + 256 * u) (unitBytes m.len u) (agentId 1 (coreOf s k).idx) 0 none
  exact ⟨takes_of h (raced.cmdOf_eq k id), raced.scratchSame.trans (scratchSame_modCore _ _ fun _ => rfl), raced.hub, raced.agenda⟩

/-- Its bytes are put into the device. -/
theorem copyUnit_stores (hkind : m.kind = 1) (hopen : pageBlocked s (m.lad + 256 * u) = false) {bs : List Byte} {p : Bool}
    (hbuf : unitBuf m u = some (bs, p)) :
    ∃ t, exec (.dcopyUnit k id u true) s = .next t ∧ ReadsBut s t (m.lad + 256 * u) bs ∧ ScratchSame s t ∧ t.agenda = s.agenda := by
  rw [dcopyUnit_dram_eq h (by rw [hkind]; decide)]
  refine ⟨_, rfl, ?_⟩
  rw [unitAtDram, if_neg (by rw [hkind]; decide), if_pos hkind, hbuf]
  dsimp only
  rw [if_neg (Bool.eq_false_iff.mp hopen)]
  have raced := raced_raceDram s (m.lad + 256 * u) (unitBytes m.len u) (agentId 1 (coreOf s k).idx) 1 false k
  generalize raceDram s (m.lad + 256 * u) (unitBytes m.len u) (agentId 1 (coreOf s k).idx) 1 false k = v at raced ⊢
  have poisoned : ∀ w : State, ReadsSame w (if p then poisonDev w (m.lad + 256 * u) (unitBytes m.len u) else w) ∧
      (if p then poisonDev w (m.lad + 256 * u) (unitBytes m.len u) else w).cores = w.cores ∧
      (if p then poisonDev w (m.lad + 256 * u) (unitBytes m.len u) else w).agenda = w.agenda := fun w => by
    split
    · exact ⟨⟨rfl, rfl, rfl, rfl⟩, rfl, rfl⟩
    · exact ⟨⟨rfl, rfl, rfl, rfl⟩, rfl, rfl⟩
  obtain ⟨preads, pcores, pagenda⟩ := poisoned (putDev v (m.lad + 256 * u) bs)
  generalize (if p then poisonDev (putDev v (m.lad + 256 * u) bs) (m.lad + 256 * u) (unitBytes m.len u)
    else putDev v (m.lad + 256 * u) bs) = w at preads pcores pagenda ⊢
  have shadowed : ReadsSame w (dramShadow w (m.lad + 256 * u) (unitBytes m.len u) (agentId 1 (coreOf s k).idx) 0) :=
    ⟨rfl, rfl, rfl, rfl⟩
  have closed := acts_closeUnit (dramShadow w (m.lad + 256 * u) (unitBytes m.len u) (agentId 1 (coreOf s k).idx) 0) k m u
  refine ⟨?_, ?_, ?_⟩
  · exact ReadsBut.after (((readsBut_putDev v _ bs).before (.of_hub raced.hub)).after preads |>.after shadowed) (.of_hub closed.hub)
  · exact raced.scratchSame.trans ((ScratchSame.of_cores (pcores.trans rfl)).trans
      ((ScratchSame.of_cores rfl).trans (scratchSame_closeUnit _ k m u)))
  · exact closed.agenda.trans (pagenda.trans raced.agenda)

end

/-- Settles O35: an accepted copy has its units scheduled in their columns' cycles, and each moves its bytes. -/
theorem copiesStartAtTheirCycle : Obligations.CopiesStartAtTheirCycle := by
  unfold Obligations.CopiesStartAtTheirCycle
  refine ⟨?_, ?_⟩
  · intro s fl m rd h c x sad lad len w st e home skew n step dram scratch hlen hchecks hon hshare htimed accepts
    refine ⟨fun hr => ?_, fun hr => ?_⟩
    · subst hr
      exact dcopy_accepts h rfl rfl rfl rfl rfl rfl rfl rfl rfl hlen hchecks hon hshare htimed (exec_dcopyR m s)
    · subst hr
      exact dcopy_accepts h rfl rfl rfl rfl rfl rfl rfl rfl rfl hlen hchecks hon hshare htimed (exec_dcopyW m s)
  · intro s k id u m h c a b n takes
    exact ⟨fun h0 hopen => copyUnit_loads h h0 hopen, fun h0 bs p hbuf hfree => copyUnit_writes h h0 hbuf hfree,
      fun h1 hfree => copyUnit_reads h h1 hfree, fun h1 hopen bs p hbuf => copyUnit_stores h h1 hopen hbuf⟩

end Sys2Proof.Machine
end

section
/-! PROOF. Holds are announced and released beside the cores: their frames and counters leave cores, memories and page
registers alone (R22 to R25). -/

namespace Sys2Proof.Machine

/-- The step leaves the cores, device memory, the cluster, the pages and the running step; what is scheduled stays so. -/
structure OffCore (s t : State) : Prop where
  cores : t.cores = s.cores
  cur : t.cur = s.cur
  pod : t.pod = s.pod
  auth : authOf t = authOf s
  dram : dramOf t = dramOf s
  env : envOf t = envOf s
  keeps : ∀ j ∈ s.agenda, j ∈ t.agenda
  hub : t.hub = { s.hub with fab := t.hub.fab, house := t.hub.house }

theorem OffCore.refl (s : State) : OffCore s s := ⟨rfl, rfl, rfl, rfl, rfl, rfl, fun _ h => h, rfl⟩

theorem OffCore.trans {s t u : State} (h₁ : OffCore s t) (h₂ : OffCore t u) : OffCore s u :=
  ⟨h₂.cores.trans h₁.cores, h₂.cur.trans h₁.cur, h₂.pod.trans h₁.pod, h₂.auth.trans h₁.auth, h₂.dram.trans h₁.dram,
    h₂.env.trans h₁.env, fun j hj => h₂.keeps j (h₁.keeps j hj), by rw [h₂.hub, h₁.hub]⟩

theorem OffCore.foldl {α : Type} {f : State → α → State} (h : ∀ s a, OffCore s (f s a)) (as : List α) (s : State) :
    OffCore s (as.foldl f s) := by
  induction as generalizing s with
  | nil => exact .refl s
  | cons a as ih => exact (h s a).trans (ih (f s a))

theorem OffCore.coreOf {s t : State} (h : OffCore s t) (k : Nat) : coreOf t k = coreOf s k := by
  rw [Machine.coreOf, h.cores, Machine.coreOf]

theorem offCore_post (s : State) (j : Job) : OffCore s (post s j) :=
  ⟨rfl, rfl, rfl, rfl, rfl, rfl, fun _ h => List.mem_append_left _ h, rfl⟩

theorem offCore_postPod (s : State) (due ph : Nat) (i : Instr) : OffCore s (postPod s due ph i) := offCore_post ..

theorem offCore_setGang (s : State) (g : Nat) (x : Gang) : OffCore s (setGang s g x) := ⟨rfl, rfl, rfl, rfl, rfl, rfl, fun _ h => h, rfl⟩

theorem offCore_modGang (s : State) (g : Nat) (f : Gang → Gang) : OffCore s (modGang s g f) := offCore_setGang ..

theorem offCore_setFab (s : State) (f : Fabric) : OffCore s (setFab s f) := ⟨rfl, rfl, rfl, rfl, rfl, rfl, fun _ h => h, rfl⟩

theorem offCore_setHouse (s : State) (h : House) : OffCore s (setHouse s h) := ⟨rfl, rfl, rfl, rfl, rfl, rfl, fun _ h => h, rfl⟩

theorem offCore_wakeLane (s : State) (n : Nat) : OffCore s (wakeLane s n) := by
  unfold wakeLane
  split
  · exact .refl s
  · exact offCore_postPod ..

theorem offCore_leekForward (s : State) (i : LeekItem) : OffCore s (leekForward s i) := by
  unfold leekForward
  dsimp only
  split
  · exact (offCore_setFab ..).trans (offCore_wakeLane ..)
  · split
    · exact (offCore_setFab ..).trans (offCore_post ..)
    · exact offCore_setFab ..

theorem offCore_leekSend (s : State) (g dst : Nat) (i : Instr) : OffCore s (leekSend s g dst i) := by
  unfold leekSend
  split
  · exact offCore_postPod ..
  · exact offCore_leekForward ..

theorem offCore_leekMembers (s : State) (g : Nat) (i : Instr) : OffCore s (leekMembers s g i) :=
  .foldl (fun u m => offCore_leekSend u g m i) _ _

theorem offCore_countLife (s : State) (set pos n : Nat) : OffCore s (countLife s set pos n) := offCore_setHouse ..

theorem offCore_countFrozen (s : State) (g number : Nat) : OffCore s (countFrozen s g number) := by
  unfold countFrozen
  dsimp only
  split
  · exact .foldl (fun u h => offCore_countLife u _ _ _) _ _
  · exact .refl s

theorem offCore_settleHolds (s : State) (g : Nat) : OffCore s (settleHolds s g) := by
  unfold settleHolds
  dsimp only
  split
  · split
    · exact (offCore_setGang ..).trans (offCore_postPod ..)
    · exact offCore_setGang ..
  · exact .refl s

theorem offCore_markReleased (s : State) (g number t : Nat) : OffCore s (markReleased s g number t) :=
  ((offCore_countFrozen ..).trans (offCore_modGang ..)).trans (offCore_settleHolds ..)

theorem offCore_releaseHolds (s : State) (g : Nat) (cause : HoldCause) (core : Nat) : OffCore s (releaseHolds s g cause core) :=
  .foldl (fun _ _ => (offCore_markReleased ..).trans (offCore_leekMembers ..)) _ _

theorem offCore_announceHold (s : State) (g th : Nat) (cause : HoldCause) (core : Nat) :
    OffCore s (announceHold s g th cause core) :=
  ((offCore_setGang ..).trans (offCore_countLife ..)).trans (offCore_leekMembers ..)

end Sys2Proof.Machine
end

section
/-! PROOF. XCOPY, HCOPY and IMCOPY are accepted on their checks (R90, R369, R371, R438, R439). -/

namespace Sys2Proof.Machine

theorem exec_xcopy (m : Mv) (s : State) : exec (.xcopy m) s = execXcopy m s := rfl
theorem exec_hcopyR (m : Mv) (s : State) : exec (.hcopyR m) s = trigger (.hcopyR m) m s fun fl s => hcopy false s fl := rfl
theorem exec_hcopyW (m : Mv) (s : State) : exec (.hcopyW m) s = trigger (.hcopyW m) m s fun fl s => hcopy true s fl := rfl
theorem exec_imcopy (m : Mv) (s : State) : exec (.imcopy m) s = execImcopy m s := rfl

/-- An engine's trigger at its arrival: the state that its notes leave. -/
theorem engine_arrives {i : Instr} {m : Mv} {s : State} {fl : Flight} {e : Flight → State → State} (h : s.cur.flight = some fl)
    (hx : exec i s = trigger i m s e) :
    ∃ u d, exec i s = .next (e fl u) ∧ OwnStep s u (noted (myCore s) d) [] ∧ RaisesOnly [4] (myCore s) (noted (myCore s) d) ∧
      (canonical s → canonical u ∧ ∀ g n k, g ≠ noGang → coreAt s g n = some k → coreAt u g n = some k) := by
  have raises := noteTrigger_raises ((dstId i).getD 0 / 64) (myCore s) fl
  rw [noteTrigger_noted] at raises
  refine ⟨_, _, hx.trans (trigger_arrival _ _ _ _ _ h), ownStep_noteTrigger .., raises, fun hc => ⟨canonical_modCore _ _ hc, fun g n k hg hk => ?_⟩⟩
  exact coreAt_modCore (me s) hc hg (by rw [noteTrigger_noted]; rfl) (by rw [noteTrigger_noted]; rfl) hk

/-- The core that serves as a context core is the same after a change of its own core. -/
theorem coreAt_modMe {u : State} {g n k : Nat} (f : Core → Core) (hc : canonical u) (hg : g ≠ noGang)
    (hf : ∀ c, (f c).gang = c.gang ∧ (f c).idx = c.idx) (hk : coreAt u g n = some k) : coreAt (modMe u f) g n = some k :=
  coreAt_modCore _ hc hg (hf _).1 (hf _).2 hk

/-! What is booked. -/

theorem booked_ite {p : Prop} [Decidable p] {s t u : State} (ht : Booked s t) (hu : Booked s u) : Booked s (if p then t else u) := by
  split
  · exact ht
  · exact hu

theorem booked_reserveSelf (s : State) (k : Nat) (ch : Nat × Nat × Nat) (us : List UnitWrite) : Booked s (reserveSelf s k ch us) :=
  (booked_reserveAll ..).trans (booked_reserveStamps ..)

theorem booked_of_cores {s t : State} (hc : t.cores = s.cores) (hg : t.gangs = s.gangs) (hcur : t.cur = s.cur)
    (hk : ∀ j ∈ s.agenda, j ∈ t.agenda) : Booked s t :=
  ⟨fun j => by rw [show coreOf t j = coreOf s j by rw [coreOf, hc, coreOf]]; exact .refl _, hg, hcur, hk⟩

theorem booked_postAnnouncements (s : State) (k id t st len : Nat) : Booked s (postAnnouncements s k id t st len) :=
  .foldl (fun _ _ => booked_ite (booked_postCore ..) (.refl _)) _ _

theorem booked_postSpaceChecks (s : State) (k id t st len : Nat) : Booked s (postSpaceChecks s k id t st len) :=
  .foldl (fun _ _ => booked_ite (booked_postCore ..) (.refl _)) _ _

theorem booked_setAuth (s : State) (a : Authority) : Booked s (setAuth s a) := booked_of_cores rfl rfl rfl fun _ h => h

theorem booked_askUnit (s : State) (k p id lad len i : Nat) : Booked s (askUnit s k p id lad len i) :=
  booked_of_cores rfl rfl rfl fun _ h => List.mem_append_left _ h

/-- A fold over a flag and a state books where each step does. -/
theorem Booked.foldl_snd {α : Type} {f : Bool × State → α → Bool × State} (h : ∀ b a, Booked b.2 (f b a).2) (as : List α)
    (b : Bool × State) : Booked b.2 (as.foldl f b).2 := by
  induction as generalizing b with
  | nil => exact .refl _
  | cons a as ih => exact (h b a).trans (ih (f b a))

theorem booked_askHost (s : State) (k : Nat) : Booked s (askHost s k) := by
  refine Booked.foldl_snd (fun b w => ?_) _ (true, s)
  dsimp only
  split
  · exact booked_setAuth ..
  · split
    · exact (booked_setAuth ..).trans (booked_askUnit ..)
    · exact .refl _

theorem booked_requestHost (s : State) (k id len : Nat) : Booked s (requestHost s k id len) :=
  (booked_setAuth ..).trans (booked_askHost ..)

/-! The checks read neither ports nor notes. -/

theorem engineClaimed_congr {c d : Core} (addr len x : Nat) (h : d.claims = c.claims) :
    engineClaimed d addr len x = engineClaimed c addr len x := by
  simp only [engineClaimed, claimedAt, h]

theorem xcopyFaults_congr {s u : State} {k : Nat} (sad lad len dst t : Nat) (hgangs : u.gangs = s.gangs)
    (hgang : (coreOf u k).gang = (coreOf s k).gang) (hclaims : (coreOf u k).claims = (coreOf s k).claims) :
    xcopyFaults u k sad lad len dst t = xcopyFaults s k sad lad len dst t := by
  rw [xcopyFaults, xcopyFaults, engineClaimed_congr _ _ _ hclaims, coreGang, coreGang, gangOf, gangOf, hgangs, hgang]

theorem hcopyFaults_congr {s u : State} {k : Nat} (write : Bool) (sad lad len t : Nat) (hhub : u.hub = s.hub)
    (hgangs : u.gangs = s.gangs) (hgang : (coreOf u k).gang = (coreOf s k).gang) (hclaims : (coreOf u k).claims = (coreOf s k).claims) :
    hcopyFaults u k write sad lad len t = hcopyFaults s k write sad lad len t := by
  rw [hcopyFaults, hcopyFaults, engineClaimed_congr _ _ _ hclaims, coreGang, coreGang, gangOf, gangOf, hgangs, hgang, partOf,
    partOf, authOf, authOf, hhub]

/-! A run that is under way. -/

/-- The run of its own core is the same in both states. -/
structure SameRun (s u : State) : Prop where
  gang : (coreOf u (me s)).gang = (myCore s).gang
  gangs : u.gangs = s.gangs
  cur : u.cur = s.cur

theorem SameRun.booked {s u v : State} (h : SameRun s u) (hb : Booked u v) : SameRun s v :=
  ⟨((hb.cores (me s)).gang).trans h.gang, hb.gangs.trans h.gangs, hb.cur.trans h.cur⟩

theorem SameRun.me_eq {s u : State} (h : SameRun s u) : me u = me s := by rw [me, h.cur, me]

theorem SameRun.posts {s u : State} (h : SameRun s u) (due ph : Nat) (x : Task) :
    ownJob s due ph x ∈ (postCore u (me s) due ph x).agenda := mem_postCore_of_gang _ _ _ h.gang

theorem SameRun.answers {s u : State} (h : SameRun s u) (fl : Flight) (p : ResultPort) (v : Nat) :
    answerJob s p v ∈ (engineResult u fl p v).agenda := by
  rw [← answerJob_congr p v h.cur h.gangs h.gang]
  exact engineResult_answers ..

theorem SameRun.of_own {s u : State} {c : Core} {js : List Job} (h : OwnStep s u c js) (hg : c.gang = (myCore s).gang) :
    SameRun s u := ⟨by rw [h.core]; exact hg, h.gangs, h.cur⟩

theorem SameRun.modMe {s u : State} (h : SameRun s u) {f : Core → Core} (hf : ∀ c, (f c).gang = c.gang) :
    SameRun s (modMe u f) := by
  refine ⟨?_, h.gangs, h.cur⟩
  rw [Machine.modMe, h.me_eq, coreOf_modCore_self, hf]
  exact h.gang

/-- The work of every unit of a command is scheduled by a fold that books. -/
theorem SameRun.foldl_posts {s u : State} (h : SameRun s u) {f : State → Nat → State} (J : Nat → Job)
    (hf : ∀ v i, Booked v (f v i)) (hJ : ∀ v i, SameRun s v → J i ∈ (f v i).agenda) {n i : Nat} (hi : i < n) :
    J i ∈ ((List.range n).foldl f u).agenda :=
  Booked.foldl_mem J hf (fun v i hv => hJ v i (h.booked hv)) (List.mem_range.mpr hi)

section
variable {s : State} {fl : Flight} (h : s.cur.flight = some fl) {sad len st : Nat} {w : Word}
  (hsad : sad = (portOf (myCore s) 0x340).toNat) (hlen : len = (portOf (myCore s) 0x342).toNat)
  (hw : w = portOf (myCore s) 0x343) (hst : st = startOf w fl.arrive) (hsome : len ≠ 0) (hon : OnTime (myCore s) fl w)

section
variable {lad : Nat} {tag : BitVec 16} (hlad : lad = (portOf (myCore s) 0x341).toNat)
  (htag : tag = (portOf (myCore s) 0x344).setWidth 16)
include h hsad hlen hw hst hsome hon hlad htag

/-- XCOPY. -/
theorem xcopy_accepts {dst k' : Nat} (m : Mv) (hdst : dst = (portOf (myCore s) 0x345).toNat % 1024) (hc : canonical s)
    (hg : (myCore s).gang ≠ noGang) (hk : coreAt s (myCore s).gang dst = some k')
    (hchecks : xcopyFaults s (me s) sad (lad % 2 ^ 22) len dst fl.arrive = [])
    (hclash : injectionClash (myCore s) st len = false) :
    Accepts (.xcopy m) s 0x343 (mkCmd 2 st sad (lad % 2 ^ 22) len tag k' fl)
      ((List.range (unitCount len)).map fun i => ownJob s (xcopyReadCycle st i) phRead (.deed (.xcopyRead (myCore s).cmdSeq i)))
      [answerJob s .c1 (xcopyWriteCycle st (unitCount len - 1) (decide (me s / 128 = k' / 128)))] := by
  obtain ⟨u, d, hx, arrival, raises, hcanon⟩ := engine_arrives h (exec_xcopy m s)
  obtain ⟨hcu, hat⟩ := hcanon hc
  have consumed := arrival.thenMod (consumeAt · 0x343)
  have hat' := coreAt_modMe (fun c => consumeAt c 0x343) hcu hg (fun c => ⟨rfl, rfl⟩) (hat _ _ _ hg hk)
  rw [arrival.myCore_eq, arrival.me_eq] at hx
  generalize hv : (modMe u fun c => consumeAt c 0x343) = v at consumed hx hat'
  have hport (n : Nat) : portOf (noted (myCore s) d) n = portOf (myCore s) n := rfl
  have hmine : myCore v = consumeAt (noted (myCore s) d) 0x343 := consumed.myCore_eq
  have run : SameRun s v := .of_own consumed rfl
  have hclaims : (coreOf v (me s)).claims = (myCore s).claims := by rw [consumed.core]; rfl
  dsimp only at hx
  rw [hport, hport, hport, hport, hport, hport, ← hsad, ← hlad, ← hlen, ← hw, ← htag, ← hdst, ← hst,
    xcopyFaults_congr _ _ _ _ _ consumed.gangs run.gang hclaims, hchecks,
    slipCheck_onTime [0x343] 3 hon (by rw [hmine]; rfl), if_neg hsome, if_neg (not_not_intro rfl)] at hx
  dsimp only at hx
  have hnoclash : injectionClash (myCore v) st len = false := by rw [hmine]; exact hclash
  have hid : (myCore v).cmdSeq = (myCore s).cmdSeq := by rw [hmine]; rfl
  have hset (m : EngineCmd) : setCore v (me s) (addCmd (myCore v) m) = modMe v fun c => addCmd c m := by
    rw [← run.me_eq]; rfl
  rw [show (noted (myCore s) d).gang = (myCore s).gang from rfl, hat', Option.getD_some, hnoclash, if_neg Bool.false_ne_true,
    hset, hid] at hx
  generalize hcmd : mkCmd 2 st sad (lad % 2 ^ 22) len tag k' fl = cmd at hx ⊢
  have run2 : SameRun s (modMe v fun c => addCmd c cmd) := run.modMe fun _ => rfl
  generalize hv2 : (modMe v fun c => addCmd c cmd) = v2 at hx run2
  generalize hv4 : (if k' = me s then _ else _ : State) = v4 at hx
  have reserved : Booked v2 v4 := by
    rw [← hv4]
    exact booked_ite ((booked_reserveAll ..).trans (booked_reserveSelf ..)) (booked_reserveAll ..)
  have reads (u : State) (i : Nat) := booked_postDeed u (me s) (xcopyReadCycle st i) phRead (.xcopyRead (myCore s).cmdSeq i)
  have posted := reserved.trans (.foldl reads (List.range (unitCount len)) v4)
  refine accepts_of (v := v) (f := fun c => addCmd c cmd) hx arrival raises (hv ▸ .refl _) (fun c => rfl)
    (hv2 ▸ posted.trans (booked_engineResult ..)) ?_ ?_
  · intro j hj
    obtain ⟨i, hi, rfl⟩ := List.mem_map.mp hj
    exact (booked_engineResult ..).keeps _ ((run2.booked reserved).foldl_posts _ reads
      (fun u i hu => hu.posts ..) (List.mem_range.mp hi))
  · intro j hj
    rw [List.mem_singleton.mp hj]
    exact (run2.booked posted).answers ..

/-- HCOPY.R and HCOPY.W. -/
theorem hcopy_accepts {write : Bool} {i : Instr} {m : Mv} (hx : exec i s = trigger i m s fun fl s => hcopy write s fl)
    (hchecks : hcopyFaults s (me s) write sad lad len fl.arrive = []) :
    Accepts i s 0x343 (mkCmd (if write then 4 else 3) st sad lad len tag 0 fl)
      ((List.range (unitCount len)).map fun i => if write
        then ownJob s (hcopyCycle write st i) phRead (.event (.hcopyWUnit (me s) (myCore s).cmdSeq i))
        else ownJob s (hcopyCycle write st i) phWrite (.event (.hcopyRUnit (me s) (myCore s).cmdSeq i)))
      [answerJob s .c1 (hcopyCycle write st (unitCount len - 1))] := by
  obtain ⟨u, d, hx, arrival, raises, -⟩ := engine_arrives h hx
  have consumed := arrival.thenMod (consumeAt · 0x343)
  rw [hcopy, arrival.myCore_eq, arrival.me_eq] at hx
  generalize hv : (modMe u fun c => consumeAt c 0x343) = v at consumed hx
  have hport (n : Nat) : portOf (noted (myCore s) d) n = portOf (myCore s) n := rfl
  have hmine : myCore v = consumeAt (noted (myCore s) d) 0x343 := consumed.myCore_eq
  have run : SameRun s v := .of_own consumed rfl
  have hclaims : (coreOf v (me s)).claims = (myCore s).claims := by rw [consumed.core]; rfl
  dsimp only at hx
  rw [hport, hport, hport, hport, hport, ← hsad, ← hlad, ← hlen, ← hw, ← htag, ← hst,
    hcopyFaults_congr _ _ _ _ _ consumed.hub consumed.gangs run.gang hclaims, hchecks,
    slipCheck_onTime [0x343] 3 hon (by rw [hmine]; rfl), if_neg hsome, if_neg (not_not_intro rfl)] at hx
  dsimp only at hx
  have hid : (myCore v).cmdSeq = (myCore s).cmdSeq := by rw [hmine]; rfl
  have hset (m : EngineCmd) : setCore v (me s) (addCmd (myCore v) m) = modMe v fun c => addCmd c m := by
    rw [← run.me_eq]; rfl
  rw [hset, hid] at hx
  generalize hcmd : mkCmd (if write then 4 else 3) st sad lad len tag 0 fl = cmd at hx ⊢
  have run2 : SameRun s (modMe v fun c => addCmd c cmd) := run.modMe fun _ => rfl
  generalize hv2 : (modMe v fun c => addCmd c cmd) = v2 at hx run2
  generalize hv4 : (if write = true then postSpaceChecks _ _ _ _ _ _ else _ : State) = v4 at hx
  have reserved : Booked v2 v4 := by
    rw [← hv4]
    exact (booked_reserveAll ..).trans (booked_ite (booked_postSpaceChecks ..)
      (((booked_reserveStamps ..).trans (booked_requestHost ..)).trans (booked_postAnnouncements ..)))
  have units (u : State) (i : Nat) : Booked u (if write = true
      then postCore u (me s) (hcopyCycle write st i) phRead (.event (.hcopyWUnit (me s) (myCore s).cmdSeq i))
      else postCore u (me s) (hcopyCycle write st i) phWrite (.event (.hcopyRUnit (me s) (myCore s).cmdSeq i))) :=
    booked_ite (booked_postCore ..) (booked_postCore ..)
  have posted := reserved.trans (.foldl units (List.range (unitCount len)) v4)
  refine accepts_of (v := v) (f := fun c => addCmd c cmd) hx arrival raises (hv ▸ .refl _) (fun c => rfl)
    (hv2 ▸ posted.trans (booked_engineResult ..)) ?_ ?_
  · intro j hj
    obtain ⟨i, hi, rfl⟩ := List.mem_map.mp hj
    refine (booked_engineResult ..).keeps _ ((run2.booked reserved).foldl_posts (fun i => if write = true
      then ownJob s (hcopyCycle write st i) phRead (.event (.hcopyWUnit (me s) (myCore s).cmdSeq i))
      else ownJob s (hcopyCycle write st i) phWrite (.event (.hcopyRUnit (me s) (myCore s).cmdSeq i))) units
      (fun u i hu => ?_) (List.mem_range.mp hi))
    cases write
    · exact hu.posts ..
    · exact hu.posts ..
  · intro j hj
    rw [List.mem_singleton.mp hj]
    exact (run2.booked posted).answers ..

end

include h hsad hlen hw hst hsome hon in
/-- IMCOPY. -/
theorem imcopy_accepts {dst : Nat} (m : Mv) (hdst : dst = (portOf (myCore s) 0x345).toNat) (hmul : len % 24 = 0)
    (hle : len ≤ 393216) (hroom : dst + len / 24 ≤ 16384) (hspan : engineSpan sad len 32 = true)
    (hclaimed : engineClaimed (myCore s) sad len fl.arrive = true) :
    Accepts (.imcopy m) s 0x343 (mkCmd 5 st sad 0 len 0 dst fl)
      ((List.range (imUnits len)).flatMap fun i =>
        [ownJob s (st + 1 + i) phRead (.deed (.imUnit (myCore s).cmdSeq i false)),
          ownJob s (st + 3 + i) phWrite (.deed (.imUnit (myCore s).cmdSeq i true))]) [] := by
  obtain ⟨u, d, hx, arrival, raises, -⟩ := engine_arrives h (exec_imcopy m s)
  have consumed := arrival.thenMod (consumeAt · 0x343)
  rw [arrival.myCore_eq, arrival.me_eq] at hx
  generalize hv : (modMe u fun c => consumeAt c 0x343) = v at consumed hx
  have hport (n : Nat) : portOf (noted (myCore s) d) n = portOf (myCore s) n := rfl
  have hmine : myCore v = consumeAt (noted (myCore s) d) 0x343 := consumed.myCore_eq
  have run : SameRun s v := .of_own consumed rfl
  dsimp only at hx
  have hchecks : ((if len % 24 = 0 ∧ len ≤ 393216 ∧ dst + len / 24 ≤ 16384 ∧ engineSpan sad len 32 = true then []
      else [(0x08, len, 0)]) ++ if engineClaimed (noted (myCore s) d) sad len fl.arrive = true then []
      else [(0x0A, sad, 0)] : List (Nat × Nat × Nat)) = [] := by
    rw [if_pos ⟨hmul, hle, hroom, hspan⟩, if_pos (by rw [← hclaimed]; rfl), List.append_nil]
  rw [hport, hport, hport, hport, ← hsad, ← hlen, ← hw, ← hdst, ← hst,
    slipCheck_onTime [0x343] 3 hon (by rw [hmine]; rfl), if_neg hsome, hchecks, if_neg (not_not_intro rfl)] at hx
  dsimp only at hx
  have hid : (myCore v).cmdSeq = (myCore s).cmdSeq := by rw [hmine]; rfl
  generalize hcmd : mkCmd 5 st sad 0 len 0 dst fl = cmd at hx ⊢
  have hset : setCore v (me s) { addCmd (myCore v) cmd with isdirty := true } =
      modMe v fun c => { addCmd c cmd with isdirty := true } := by rw [← run.me_eq]; rfl
  rw [hset, hid] at hx
  have run2 : SameRun s (modMe v fun c => { addCmd c cmd with isdirty := true }) := run.modMe fun _ => rfl
  generalize hv2 : (modMe v fun c => { addCmd c cmd with isdirty := true }) = v2 at hx run2
  generalize hv4 : reserveAll v2 _ _ _ = v4 at hx
  have reserved : Booked v2 v4 := hv4 ▸ booked_reserveAll ..
  have units (u : State) (i : Nat) : Booked u (postDeed (postDeed u (me s) (st + 1 + i) phRead (.imUnit (myCore s).cmdSeq i false))
      (me s) (st + 3 + i) phWrite (.imUnit (myCore s).cmdSeq i true)) := (booked_postDeed ..).trans (booked_postDeed ..)
  have posted := reserved.trans (.foldl units (List.range (imUnits len)) v4)
  refine accepts_of (v := v) (f := fun c => { addCmd c cmd with isdirty := true }) hx arrival raises (hv ▸ .refl _) (fun c => rfl)
    (hv2 ▸ posted) ?_ (fun _ hj => nomatch hj)
  intro j hj
  obtain ⟨i, hi, hj⟩ := List.mem_flatMap.mp hj
  have all (J : Nat → Job) (hJ : ∀ u i, SameRun s u → J i ∈ (postDeed (postDeed u (me s) (st + 1 + i) phRead
      (.imUnit (myCore s).cmdSeq i false)) (me s) (st + 3 + i) phWrite (.imUnit (myCore s).cmdSeq i true)).agenda) :=
    (run2.booked reserved).foldl_posts J units hJ (List.mem_range.mp hi)
  rcases List.mem_cons.mp hj with rfl | hj
  · exact all (fun i => ownJob s (st + 1 + i) phRead (.deed (.imUnit (myCore s).cmdSeq i false)))
      fun u i hu => (booked_postDeed ..).keeps _ (hu.posts ..)
  · rw [List.mem_singleton.mp hj]
    exact all (fun i => ownJob s (st + 3 + i) phWrite (.deed (.imUnit (myCore s).cmdSeq i true)))
      fun u i hu => (hu.booked (booked_postDeed ..)).posts ..

end

end Sys2Proof.Machine
end

section
/-! PROOF. XCOPY's units at their target, and HCOPY's units at scratch and at the host (R28, R74, R79, R190, R369, R370, R438). -/

namespace Sys2Proof.Machine

theorem exec_xcopyUnitArrival (k : Nat) (u : XUnit) (s : State) : exec (.xcopyUnitArrival k u) s = execXcopyUnitArrival k u s := rfl
theorem exec_hostReadDataArrival (k id u : Nat) (data : List Byte) (ok : Bool) (s : State) :
    exec (.hostReadDataArrival k id u data ok) s = execHostReadDataArrival k id u data ok s := rfl
theorem exec_hcopyRUnit (k id u : Nat) (s : State) : exec (.hcopyRUnit k id u) s = execHcopyRUnit k id u s := rfl
theorem exec_hcopyWUnit (k id u : Nat) (s : State) : exec (.hcopyWUnit k id u) s = execHcopyWUnit k id u s := rfl
theorem exec_hcopyHoldAnnouncement (k id u : Nat) (s : State) :
    exec (.hcopyHoldAnnouncement k id u) s = execHcopyHoldAnnouncement k id u s := rfl
theorem exec_hostWriteSpaceFree (k n : Nat) (s : State) : exec (.hostWriteSpaceFree k n) s = execHostWriteSpaceFree k n s := rfl

/-! Foreign accesses of a core's scratch (R74, R76, R186). -/

/-- What a foreign access makes of a core before its bytes fall. -/
structure Met (c d : Core) : Prop where
  gang : d.gang = c.gang
  idx : d.idx = c.idx
  scratch : d.scratch = c.scratch
  recvs : d.recvs = c.recvs
  tags : d.tags = c.tags
  raises : RaisesOnly [5] c d

theorem Met.refl (c : Core) : Met c c := ⟨rfl, rfl, rfl, rfl, rfl, .refl _ _⟩

theorem Met.trans {c d e : Core} (h₁ : Met c d) (h₂ : Met d e) : Met c e :=
  ⟨h₂.gang.trans h₁.gang, h₂.idx.trans h₁.idx, h₂.scratch.trans h₁.scratch, h₂.recvs.trans h₁.recvs,
    h₂.tags.trans h₁.tags, h₁.raises.trans h₂.raises⟩

theorem met_raiseNow (c : Core) (x : Nat) (a b d : Word) : Met c (raiseNow c x 5 a b d) := by
  refine ⟨?_, ?_, ?_, ?_, ?_, addRaise_raises _ _ (by simp)⟩ <;> rw [raiseNow_spec]

/-- A foreign access is met on core `k`: no scratch byte changes, and what is scheduled stays so. -/
structure MetAt (s t : State) (k : Nat) : Prop where
  core : Met (coreOf s k) (coreOf t k)
  others : ∀ j, j ≠ k → coreOf t j = coreOf s j
  gangs : t.gangs = s.gangs
  hub : t.hub = s.hub
  keeps : ∀ j ∈ s.agenda, j ∈ t.agenda

theorem MetAt.refl (s : State) (k : Nat) : MetAt s s k := ⟨.refl _, fun _ _ => rfl, rfl, rfl, fun _ h => h⟩

theorem MetAt.trans {s t u : State} {k : Nat} (h₁ : MetAt s t k) (h₂ : MetAt t u k) : MetAt s u k :=
  ⟨h₁.core.trans h₂.core, fun j hj => (h₂.others j hj).trans (h₁.others j hj), h₂.gangs.trans h₁.gangs,
    h₂.hub.trans h₁.hub, fun j hj => h₂.keeps j (h₁.keeps j hj)⟩

theorem MetAt.foldl {α : Type} {f : State → α → State} {k : Nat} (h : ∀ s a, MetAt s (f s a) k) (as : List α) (s : State) :
    MetAt s (as.foldl f s) k := by
  induction as generalizing s with
  | nil => exact .refl s k
  | cons a as ih => exact (h s a).trans (ih (f s a))

theorem metAt_modCore (s : State) (k : Nat) {f : Core → Core} (h : ∀ c, Met c (f c)) : MetAt s (modCore s k f) k :=
  ⟨by rw [coreOf_modCore_self]; exact h _, fun j hj => coreOf_modCore_ne _ _ hj, rfl, rfl, fun _ hj => hj⟩

theorem metAt_post (s : State) (j : Job) (k : Nat) : MetAt s (post s j) k :=
  ⟨.refl _, fun _ _ => rfl, rfl, rfl, fun _ h => List.mem_append_left _ h⟩

theorem MetAt.scratchSame {s t : State} {k : Nat} (h : MetAt s t k) : ScratchSame s t := fun j b => by
  by_cases hj : j = k
  · rw [hj, h.core.scratch]
  · rw [h.others j hj]

theorem MetAt.gcycOf {s t : State} {k : Nat} (h : MetAt s t k) : gcycOf t k = gcycOf s k := by
  rw [Machine.gcycOf, Machine.gcycOf, coreGang, coreGang, h.core.gang, gangOf, gangOf, h.gangs]

theorem metAt_takeEjection (s : State) (k addr : Nat) (agent : BitVec 16) (src key : Nat) :
    MetAt s (takeEjection s k addr agent src key) k := by
  unfold takeEjection
  exact metAt_modCore _ _ fun _ => ⟨rfl, rfl, rfl, rfl, rfl, .refl _ _⟩

theorem metAt_foreignAccess (s : State) (k addr n kind : Nat) (agent : BitVec 16) (src key : Nat) (xcopy : Bool) :
    MetAt s (foreignAccess s k addr n kind agent src key xcopy) k := by
  unfold foreignAccess
  dsimp only
  split
  · exact metAt_modCore _ _ fun _ => ⟨rfl, rfl, rfl, rfl, rfl, .refl _ _⟩
  · refine MetAt.trans ?_ (.foldl (fun u b => metAt_post ..) _ _)
    refine (metAt_modCore _ _ fun _ => ?_).trans (metAt_modCore _ _ fun c => ?_)
    · exact ⟨rfl, rfl, rfl, rfl, rfl, .refl _ _⟩
    · exact Met.trans (d := { c with voided := c.voided ++ _ }) ⟨rfl, rfl, rfl, rfl, rfl, .refl _ _⟩ (met_raiseNow ..)

theorem coreOf_foldl_post {α : Type} (f : State → α → State) (h : ∀ s a, ∃ j, f s a = post s j) (as : List α) (s : State) (k : Nat) :
    coreOf (as.foldl f s) k = coreOf s k := by
  induction as generalizing s with
  | nil => rfl
  | cons a as ih =>
    obtain ⟨j, hj⟩ := h s a
    rw [List.foldl_cons, ih, hj]
    rfl

theorem foreignAccess_fstamps (s : State) (k addr n kind : Nat) (agent : BitVec 16) (src key : Nat) (xcopy : Bool) :
    (coreOf (foreignAccess s k addr n kind agent src key xcopy) k).fstamps = (coreOf s k).fstamps := by
  unfold foreignAccess
  dsimp only
  split
  · rw [coreOf_modCore_self]
  · refine (congrArg Core.fstamps (coreOf_foldl_post _ (fun u b => ⟨_, rfl⟩) _ _ k)).trans ?_
    rw [coreOf_modCore_self, raiseNow_spec, coreOf_modCore_self]

theorem metAt_claimStamps (s : State) (k : Nat) (party : Word) (sts : List (Nat × BitVec 16)) :
    MetAt s (claimStamps s k party sts) k := by
  have noted (x : Nat) (fs : List (Nat × Nat × Word)) :
      MetAt s (modCore s k fun c => { c with fstamps := (c.fstamps.filter fun v => decide (x ≤ v.1)) ++ fs }) k :=
    metAt_modCore _ _ fun _ => ⟨rfl, rfl, rfl, rfl, rfl, .refl _ _⟩
  unfold claimStamps
  dsimp only
  split
  · exact noted ..
  · exact (noted ..).trans (metAt_modCore _ _ fun _ => met_raiseNow ..)

/-- Posting a foreign write's bytes and stamps. -/
theorem mem_postForeign {s u : State} {k : Nat} (h : MetAt s u k) (ph : Nat) (w : ScratchWrite) (sts : List (Nat × BitVec 16)) :
    ⟨.gang (coreOf s k).gang, gcycOf s k, ph, none, .deed (.foreignStore k w sts)⟩ ∈ (postForeign u k ph w sts).agenda := by
  rw [← h.core.gang, ← h.gcycOf]
  exact List.mem_append_right _ (List.mem_singleton_self _)

theorem metAt_postForeign (s : State) (k ph : Nat) (w : ScratchWrite) (sts : List (Nat × BitVec 16)) :
    MetAt s (postForeign s k ph w sts) k := metAt_post ..

/-- A fault of a region not claimed is on its core. -/
theorem unclaimedFault_raises {s u : State} {k : Nat} (addr : Nat) (h : MetAt s u k) (hlive : (coreOf u k).frozenAt = none) :
    ScratchSame s (unclaimedFault u k addr) ∧
      ∃ r ∈ (coreOf (unclaimedFault u k addr) k).raised, r.code = 0x0A ∧ r.a = BitVec.ofNat 64 addr := by
  refine ⟨h.scratchSame.trans (scratchSame_modCore _ _ fun c => by rw [raiseNow_spec]), ?_⟩
  rw [unclaimedFault, coreOf_modCore_self, raiseNow, addRaise_live _ _ hlive]
  exact ⟨_, List.mem_append_right _ (List.mem_singleton_self _), rfl, rfl⟩

/-- A foreign write into a claimed region that meets no other foreign write of its group falls in its cycle. -/
theorem foreignWrite_lands {s : State} {k : Nat} {f : Foreign} (hdata : f.w.data ≠ []) (hmoves : f.moves = true)
    (hclaimed : claimedAt (coreOf s k) f.w.addr f.w.data.length (gcycOf s k) = true)
    (hno : ∀ o ∈ (coreOf s k).foreign, o.cycle = gcycOf s k → o.group = groupOf f.w.addr → o.kind ≠ 1) :
    MetAt s (foreignWrite s k f) k ∧
      ⟨.gang (coreOf s k).gang, gcycOf s k, phWrite, none, .deed (.foreignStore k f.w (freeStamps s k f.stamps))⟩ ∈
        (foreignWrite s k f).agenda := by
  have hlen : f.w.data.length ≠ 0 := fun h => hdata (List.length_eq_zero_iff.mp h)
  have hany : ((coreOf s k).foreign.any fun o => decide (o.cycle = gcycOf s k ∧ o.group = groupOf f.w.addr ∧ o.kind = 1)) = false := by
    rw [List.any_eq_false]
    exact fun o ho hd => by
      obtain ⟨h1, h2, h3⟩ := of_decide_eq_true hd
      exact hno o ho h1 h2 h3
  rw [foreignWrite]
  dsimp only
  rw [if_neg hlen, hclaimed, if_neg (by decide), hany, if_neg Bool.false_ne_true, hmoves, if_pos rfl]
  have met := metAt_foreignAccess s k f.w.addr f.w.data.length 1 f.w.agent f.w.src f.src f.xcopy
  have hstamps := foreignAccess_fstamps s k f.w.addr f.w.data.length 1 f.w.agent f.w.src f.src f.xcopy
  generalize foreignAccess s k f.w.addr f.w.data.length 1 f.w.agent f.w.src f.src f.xcopy = u at met hstamps ⊢
  have hfree : freeStamps u k f.stamps = freeStamps s k f.stamps := by
    simp only [freeStamps, foreignStamped, hstamps, met.gcycOf]
  have claimed := met.trans (metAt_claimStamps u k (partyInfo f.w.agent f.w.src) f.stamps)
  rw [hfree]
  exact ⟨claimed.trans (metAt_postForeign ..), mem_postForeign claimed ..⟩

/-- One into a region not claimed takes the ejection port, and is a fault. -/
theorem foreignWrite_unclaimed {s : State} {k : Nat} {f : Foreign} (hdata : f.w.data ≠ []) (hx : f.xcopy = true)
    (hclaimed : claimedAt (coreOf s k) f.w.addr f.w.data.length (gcycOf s k) = false) :
    foreignWrite s k f = unclaimedFault (takeEjection s k f.w.addr f.w.agent f.w.src f.src) k f.w.addr := by
  rw [foreignWrite]
  dsimp only
  rw [if_neg fun h => hdata (List.length_eq_zero_iff.mp h), if_pos hclaimed, if_pos hx]

/-! XCOPY_UNIT_ARRIVAL. -/

/-- The write of an XCOPY's unit. -/
def xunitWrite (s : State) (u : XUnit) : ScratchWrite :=
  ⟨u.addr, u.data, if u.replay then 6 else 3, agentId 1 (coreOf s u.srcCore).idx, (coreOf s u.srcCore).idx, if u.sameDie then 1 else 2⟩

def xunitForeign (s : State) (u : XUnit) : Foreign :=
  { w := xunitWrite s u, stamps := u.stamps, src := sourceKey s u.srcCore, xcopy := true, moves := !u.stampOnly }

section
variable {s : State} {k : Nat} {u : XUnit} (hmoves : u.stampOnly = false) (hdata : u.data ≠ [])
  (hport : ∀ o ∈ (coreOf s k).foreign, o.cycle = gcycOf s k → o.xcopy = false)

include hmoves hport in
theorem xcopyArrive_eq :
    xcopyArrive s k u =
      if u.srcCore = k then
        let v := takeEjection s k u.addr (xunitWrite s u).agent (coreOf s u.srcCore).idx (sourceKey s u.srcCore)
        if claimedAt (coreOf s k) u.addr u.data.length (gcycOf s k) then postForeign v k phWrite (xunitWrite s u) u.stamps
        else unclaimedFault v k u.addr
      else foreignWrite s k (xunitForeign s u) := by
  have hany : ((coreOf s k).foreign.any fun o => decide (o.cycle = gcycOf s k) && o.xcopy) = false := by
    rw [List.any_eq_false]
    intro o ho hd
    obtain ⟨hc, hx⟩ := (Bool.and_eq_true _ _).mp hd
    rw [hport o ho (of_decide_eq_true hc)] at hx
    cases hx
  rw [xcopyArrive]
  dsimp only
  rw [hany, if_neg Bool.false_ne_true, xunitForeign, hmoves, if_neg Bool.false_ne_true]
  rfl

include hmoves hdata hport

theorem xunit_lands (hclaimed : claimedAt (coreOf s k) u.addr u.data.length (gcycOf s k) = true)
    (hno : u.srcCore = k ∨ ∀ o ∈ (coreOf s k).foreign, o.cycle = gcycOf s k → o.group = groupOf u.addr → o.kind ≠ 1) :
    ∃ t, exec (.xcopyUnitArrival k u) s = .next t ∧ (∀ j ∈ s.agenda, j ∈ t.agenda) ∧
      ⟨.gang (coreOf s k).gang, gcycOf s k, phWrite, none, .deed (.foreignStore k (xunitWrite s u)
        (if u.srcCore = k then u.stamps else freeStamps s k u.stamps))⟩ ∈ t.agenda ∧ ScratchSame s t ∧
      RaisesOnly [5] (coreOf s k) (coreOf t k) := by
  rw [exec_xcopyUnitArrival, execXcopyUnitArrival, xcopyArrive_eq hmoves hport]
  refine ⟨_, rfl, ?_⟩
  by_cases hk : u.srcCore = k
  · rw [if_pos hk, if_pos hk]
    dsimp only
    rw [if_pos hclaimed]
    have met := metAt_takeEjection s k u.addr (xunitWrite s u).agent (coreOf s u.srcCore).idx (sourceKey s u.srcCore)
    have posted := met.trans (metAt_postForeign _ k phWrite (xunitWrite s u) u.stamps)
    exact ⟨posted.keeps, mem_postForeign met .., posted.scratchSame, posted.core.raises⟩
  · rw [if_neg hk, if_neg hk]
    obtain ⟨met, hjob⟩ := foreignWrite_lands (f := xunitForeign s u) hdata (by rw [xunitForeign, hmoves]; rfl) hclaimed
      (hno.resolve_left hk)
    exact ⟨met.keeps, hjob, met.scratchSame, met.core.raises⟩

theorem xunit_unclaimed (hclaimed : claimedAt (coreOf s k) u.addr u.data.length (gcycOf s k) = false)
    (hlive : (coreOf s k).frozenAt = none) :
    ∃ t, exec (.xcopyUnitArrival k u) s = .next t ∧ t.agenda = s.agenda ∧ ScratchSame s t ∧
      ∃ r ∈ (coreOf t k).raised, r.code = 0x0A ∧ r.a = BitVec.ofNat 64 u.addr := by
  have met := metAt_takeEjection s k u.addr (xunitWrite s u).agent (coreOf s u.srcCore).idx (sourceKey s u.srcCore)
  have fault := unclaimedFault_raises u.addr met (by rw [takeEjection, coreOf_modCore_self]; exact hlive)
  have heq : xcopyArrive s k u = unclaimedFault (takeEjection s k u.addr (xunitWrite s u).agent (coreOf s u.srcCore).idx
      (sourceKey s u.srcCore)) k u.addr := by
    rw [xcopyArrive_eq hmoves hport]
    split
    · dsimp only
      rw [if_neg (Bool.eq_false_iff.mp hclaimed)]
    · exact foreignWrite_unclaimed (f := xunitForeign s u) hdata rfl hclaimed
  rw [exec_xcopyUnitArrival, execXcopyUnitArrival, heq]
  exact ⟨_, rfl, rfl, fault⟩

end

/-! A foreign write's bytes (R73, R76). -/

theorem scratchSame_stampTile (s : State) (k tile : Nat) (tag : BitVec 16) : ScratchSame s (stampTile s k tile tag) := by
  unfold stampTile
  exact scratchSame_modCore _ _ fun _ => rfl

theorem foreignStore_writes {s : State} {k : Nat} {w : ScratchWrite} (sts : List (Nat × BitVec 16))
    (h : w.agent ≠ agentId 1 (coreOf s k).idx ∨ isVoided (coreOf s k) (gcycOf s k) w.addr w.data.length = false) :
    ScratchBut s (foreignStore s k w sts) k w.addr w.data := by
  have written := (performWrite_spec s k w).1
  rw [foreignStore]
  split
  case isTrue hown =>
    rw [if_neg (Bool.eq_false_iff.mp (h.resolve_left (not_not_intro hown)))]
    exact written.after (.foldl (fun u (st : Nat × BitVec 16) => scratchSame_ownStamp u k st.1 st.2) _ _)
  case isFalse =>
    exact written.after (.foldl (fun u (st : Nat × BitVec 16) => scratchSame_stampTile u k st.1 st.2) _ _)

/-! Host data (R190, R313). -/

theorem leBytes_zero (n : Nat) : leBytes n 0 = List.replicate n (0 : Byte) := by
  induction n with
  | zero => rfl
  | succ n ih => rw [leBytes, Nat.zero_div, ih]; rfl

section
variable {s : State} {k id u : Nat} {m : EngineCmd} (h : cmdOf (coreOf s k) id = some m)
include h

theorem hostRead_fills (data : List Byte) (ok : Bool) :
    ∃ t m', exec (.hostReadDataArrival k id u data ok) s = .next t ∧ cmdOf (coreOf t k) id = some m' ∧
      unitBuf m' u = some (if ok then (data ++ List.replicate (unitBytes m.len u) 0).take (unitBytes m.len u)
        else List.replicate (unitBytes m.len u) 0, !ok) ∧ ScratchSame s t := by
  rw [exec_hostReadDataArrival, execHostReadDataArrival, cmdCore_of_some h, h]
  dsimp only
  rw [modCmdCore_of_some _ (by rw [h]; rfl), leBytes_zero]
  generalize (if ok = true then _ else _ : List Byte) = bs
  have reported (v : State) : (if ok = true then v else
      postEvent v (gangPart v (coreOf s k).gang) .program evHostErr [m.lad + 256 * u] []).cores = v.cores := by
    split
    · rfl
    · exact (logged_postEvent ..).cores
  have same := (offCore_releaseHolds _ (coreOf s k).gang .hcopy (unitHoldKey k id u)).cores.trans
    (reported (modCore s k fun c => setCmd c (setBuf m u bs !ok)))
  refine ⟨_, setBuf m u bs !ok, rfl, ?_, unitBuf_setBuf .., 
    ScratchSame.trans (t := modCore s k fun c => setCmd c (setBuf m u bs !ok)) (scratchSame_modCore s k fun _ => rfl) (.of_cores same)⟩
  rw [coreOf, same, ← coreOf, coreOf_modCore_self]
  exact cmdOf_setCmd (show m.id = id from cmdOf_id h) (by rw [h]; rfl)

omit h in
theorem askHost_idle {v : State} (hno : ∀ w ∈ (authOf v).wantReads, w.1 ≠ k) : askHost v k = v := by
  rw [askHost, List.filter_eq_nil_iff.mpr fun w hw => by rw [decide_eq_true_eq]; exact hno w hw]
  rfl

/-- A unit whose data has come is written into scratch. -/
theorem hcopyRUnit_writes {bs : List Byte} {p : Bool} (hbuf : unitBuf m u = some (bs, p))
    (hfree : isVoided (coreOf s k) (gcycOf s k) (m.sad + 256 * u) bs.length = false) :
    ∃ t, exec (.hcopyRUnit k id u) s = .next t ∧ ScratchBut s t k (m.sad + 256 * u) bs ∧
      ((∀ w ∈ (authOf s).wantReads, w.1 ≠ k) → t.hub = s.hub ∧ t.agenda = s.agenda) := by
  rw [exec_hcopyRUnit, execHcopyRUnit, h]
  dsimp only
  rw [hbuf]
  refine ⟨_, rfl, ?_⟩
  obtain ⟨acts, written⟩ := engineWrite_spec (agentId 5 (coreOf s k).idx) (unitStamps m m.sad u) (m.replayed.contains u) hfree
  have whole := acts.trans (acts_closeUnit _ k m u)
  have closed := written.after (scratchSame_closeUnit _ k m u)
  generalize closeUnit _ k m u = v at whole closed ⊢
  refine ⟨closed.after fun j b => by rw [((booked_askHost v k).cores j).scratch], fun hno => ?_⟩
  rw [askHost_idle (v := v) fun w hw => hno w (by rw [authOf, ← whole.hub]; exact hw)]
  exact ⟨whole.hub, whole.agenda⟩

/-- A unit for the host is posted with the bytes of scratch. -/
theorem hcopyWUnit_posts (hfree : isVoided (coreOf s k) (gcycOf s k) (m.sad + 256 * u) (unitBytes m.len u) = false)
    (hroom : heldBytes s k + unitBytes m.len u ≤ 2 ^ 20) (hdma : dmaBlocked s (gangOf s (coreOf s k).gang).vdid = false) :
    ∃ t due p refused, exec (.hcopyWUnit k id u) s = .next t ∧ ScratchSame s t ∧ s.pod < due ∧
      (authOf t).posted = (authOf s).posted ++ [⟨k, (gangOf s (coreOf s k).gang).vdid, m.lad + 256 * u,
        scratchBytes (coreOf s k) (m.sad + 256 * u) (unitBytes m.len u), gcycOf s k, p, refused⟩] ∧
      t.agenda = s.agenda ++ [⟨.pod, due, phUntimed, none, .event (.hostWriteSpaceFree k (unitBytes m.len u))⟩] := by
  rw [exec_hcopyWUnit, execHcopyWUnit, h]
  dsimp only
  have raced := raced_raceScratch s k (m.sad + 256 * u) (unitBytes m.len u) (agentId 1 (coreOf s k).idx) 0 none
  have hblocked : dmaBlocked (raceScratchRead s k (m.sad + 256 * u) (unitBytes m.len u)) (gangOf s (coreOf s k).gang).vdid = false := by
    rw [dmaBlocked, authOf, raceScratchRead, raced.hub]
    exact hdma
  have hbuffer : ¬c1Buffer < heldBytes s k + unitBytes m.len u := by rw [c1Buffer]; omega
  rw [if_neg (Bool.eq_false_iff.mp hfree), if_neg hbuffer, hblocked, if_neg Bool.false_ne_true]
  rw [raceScratchRead]
  generalize raceScratch s k (m.sad + 256 * u) (unitBytes m.len u) (agentId 1 (coreOf s k).idx) 0 none = v at raced
  refine ⟨_, v.pod + 1 + Config.hostLatency v.fresh, (engineRead s k (m.sad + 256 * u) (unitBytes m.len u)).2,
    Config.hostRefuses v.fresh, rfl, ?_, ?_, ?_, ?_⟩
  · exact raced.scratchSame.trans (ScratchSame.trans (.of_cores rfl) (scratchSame_closeUnit _ k m u))
  · rw [raced.pod]; omega
  · rw [authOf, (acts_closeUnit _ k m u).hub]
    show v.hub.auth.posted ++ _ = _
    rw [raced.hub]
    rfl
  · rw [(acts_closeUnit _ k m u).agenda]
    show v.agenda ++ _ = _
    rw [raced.agenda]
    rfl

theorem hcopyHold_data (hkind : m.kind = 3) (hrun : (gangOf s (coreOf s k).gang).mode = .running) :
    (unitBuf m u = none → ∃ t, exec (.hcopyHoldAnnouncement k id u) s = .next t ∧
      Announced s t (coreOf s k).gang (m.start + 4096 + 12 * u) .hcopy (unitHoldKey k id u)) ∧
    (∀ b, unitBuf m u = some b → exec (.hcopyHoldAnnouncement k id u) s = .next s) := by
  rw [exec_hcopyHoldAnnouncement, execHcopyHoldAnnouncement, h]
  dsimp only
  rw [if_neg (by rw [hkind]; decide)]
  refine ⟨fun hnone => ?_, fun b hb => ?_⟩
  · rw [hnone, if_neg (by simp)]
    exact ⟨_, rfl, announceHold_running _ _ _ hrun⟩
  · rw [hb, if_pos (by rfl)]

theorem hcopyHold_space (hkind : m.kind = 4) (hrun : (gangOf s (coreOf s k).gang).mode = .running)
    (hspace : spaceFor s k id u (hcopyCycle true m.start u) (unitBytes m.len u) = false) :
    ∃ t, exec (.hcopyHoldAnnouncement k id u) s = .next t ∧
      Announced s t (coreOf s k).gang (hcopyCycle true m.start u) .hcopy (unitHoldKey k id u) := by
  rw [exec_hcopyHoldAnnouncement, execHcopyHoldAnnouncement, h]
  dsimp only
  rw [if_pos hkind, hspace, if_neg Bool.false_ne_true]
  exact ⟨_, rfl, announceHold_running _ _ _ hrun⟩

end

/-! Posted writes (R369, R370). -/

theorem offCore_releaseSpace (s : State) (k : Nat) : OffCore s (releaseSpace s k) := by
  refine .foldl (fun u gm => .foldl (fun v i => ?_) _ u) _ s
  dsimp only
  split
  · exact offCore_releaseHolds ..
  · exact .refl v

/-- A write that lands leaves the other posted writes, and its bytes in host memory unless the host refuses it. -/
theorem landHostWrite_lands (s : State) (w : HostWrite) :
    (landHostWrite s w).cores = s.cores ∧ (authOf (landHostWrite s w)).posted = (authOf s).posted ∧
      (w.refused = false →
        BytesBut (authOf s).host (authOf (landHostWrite s w)).host (w.page * 2 ^ 64 + w.addr % 2 ^ 64) w.data) := by
  unfold landHostWrite
  split
  case isTrue hr =>
    have noted := logged_postEvent s w.page .program evHostErr [w.addr] []
    exact ⟨noted.cores, noted.posted, fun h => absurd (h.symm.trans hr) nofun⟩
  case isFalse => exact ⟨rfl, rfl, fun _ b => tget_tputs ..⟩

theorem hostWriteSpaceFree_lands {s : State} {k : Nat} (bytes : Nat) (hsome : ∃ w ∈ (authOf s).posted, w.core = k) :
    ∃ t, exec (.hostWriteSpaceFree k bytes) s = .next t ∧ t.cores = s.cores ∧ ∃ w ∈ (authOf s).posted, w.core = k ∧
      (authOf t).posted = (authOf s).posted.erase w ∧
      (w.refused = false → BytesBut (authOf s).host (authOf t).host (w.page * 2 ^ 64 + w.addr % 2 ^ 64) w.data) := by
  obtain ⟨w₀, hw₀, hcore₀⟩ := hsome
  have hpos : 0 < ((authOf s).posted.filter fun w => decide (w.core = k)).length :=
    List.length_pos_of_mem (List.mem_filter.mpr ⟨hw₀, decide_eq_true hcore₀⟩)
  have hidx := Nat.mod_lt (Config.hostLatency s.fresh) hpos
  obtain ⟨w, hw⟩ : ∃ w, ((authOf s).posted.filter fun w => decide (w.core = k))[Config.hostLatency s.fresh %
      ((authOf s).posted.filter fun w => decide (w.core = k)).length]? = some w := ⟨_, List.getElem?_eq_getElem hidx⟩
  obtain ⟨hmem, hcore⟩ := List.mem_filter.mp (List.mem_of_getElem? hw)
  rw [exec_hostWriteSpaceFree, execHostWriteSpaceFree]
  dsimp only [takeFresh]
  rw [hw]
  refine ⟨_, rfl, ?_⟩
  obtain ⟨hcores, hposted, hbytes⟩ := landHostWrite_lands (setAuth { s with fresh := s.fresh + 1 }
    { authOf s with posted := (authOf s).posted.erase w }) w
  have off := offCore_releaseSpace (landHostWrite (setAuth { s with fresh := s.fresh + 1 }
    { authOf s with posted := (authOf s).posted.erase w }) w) k
  refine ⟨off.cores.trans hcores, w, hmem, of_decide_eq_true hcore, ?_, fun hr => ?_⟩
  · exact (congrArg Authority.posted off.auth).trans hposted
  · intro b
    exact (congrArg (fun a : Authority => tget 0 a.host b) off.auth).trans (hbytes hr b)

/-- Settles O37: transfers are accepted on their checks, and their units land where and when they should. -/
theorem transfersMoveBytes : Obligations.TransfersMoveBytes := by
  unfold Obligations.TransfersMoveBytes
  refine ⟨?_, ?_, fun s k j w sts h => foreignStore_writes sts h, ?_, fun s k bytes h => hostWriteSpaceFree_lands bytes h⟩
  · intro s fl m h c k sad lad len w st tag dst n cmd hlen hon
    refine ⟨fun k' hc hg hk hchecks hclash => ?_, fun hchecks => ?_, fun hchecks => ?_, fun hmul hle hroom hspan hclaimed => ?_⟩
    · have key := xcopy_accepts h rfl rfl rfl rfl hlen hon rfl rfl m rfl hc hg hk hchecks hclash
      simp only [xcopyWriteCycle, decide_eq_true_eq] at key
      exact key
    · exact hcopy_accepts h rfl rfl rfl rfl hlen hon rfl rfl (exec_hcopyR m s) hchecks
    · exact hcopy_accepts h rfl rfl rfl rfl hlen hon rfl rfl (exec_hcopyW m s) hchecks
    · exact imcopy_accepts h rfl rfl rfl rfl hlen hon m rfl hmul hle hroom hspan hclaimed
  · intro s k u c x src w stamps job hmoves hdata hport
    exact ⟨fun hclaimed hno => xunit_lands hmoves hdata hport hclaimed hno,
      fun hclaimed hlive => xunit_unclaimed hmoves hdata hport hclaimed hlive⟩
  · intro s k id u m h c g x n a zeros
    exact ⟨fun data ok => hostRead_fills h data ok, fun bs p hbuf hfree => hcopyRUnit_writes h hbuf hfree,
      fun hfree hroom hdma => hcopyWUnit_posts h hfree hroom hdma, fun hkind hrun => hcopyHold_data h hkind hrun,
      fun hkind hrun hspace => hcopyHold_space h hkind hrun hspace⟩

end Sys2Proof.Machine
end

section
/-! PROOF. FSEND, FPUT, FGET and FATOM are accepted on their checks; FRECV and FPEER (R187, R231 to R237, R363 to R365). -/

namespace Sys2Proof.Machine

theorem exec_fsend (m : Mv) (s : State) : exec (.fsend m) s = trigger (.fsend m) m s fun fl s => fabTrigger 11 s fl := rfl
theorem exec_fput (m : Mv) (s : State) : exec (.fput m) s = trigger (.fput m) m s fun fl s => fabTrigger 12 s fl := rfl
theorem exec_fget (m : Mv) (s : State) : exec (.fget m) s = trigger (.fget m) m s fun fl s => fabTrigger 13 s fl := rfl
theorem exec_fatom (m : Mv) (s : State) : exec (.fatom m) s = trigger (.fatom m) m s fun fl s => fabTrigger 14 s fl := rfl
theorem exec_frecv (m : Mv) (s : State) : exec (.frecv m) s = execFrecv m s := rfl
theorem exec_fpeer (m : Mv) (s : State) : exec (.fpeer m) s = execFpeer m s := rfl

/-! The checks read neither `at` nor notes. -/

/-- The ports of FB but `at` are the same, and so are the core's run and claims. -/
structure SameFb (c d : Core) : Prop where
  gang : d.gang = c.gang
  claims : d.claims = c.claims
  ports : ∀ n, n ≠ fbAt → portOf d n = portOf c n

theorem fabFaults_congr {s u : State} {k : Nat} (kind t : Nat) (h : SameFb (coreOf s k) (coreOf u k)) :
    fabFaults u k kind t = fabFaults s k kind t := by
  rw [fabFaults, fabFaults, h.ports _ (by decide), h.ports _ (by decide), h.ports _ (by decide), h.ports _ (by decide)]
  simp only [engineClaimed_congr _ _ _ h.claims]

theorem ownsLink_congr {s u : State} (g n : Nat) (hhub : u.hub = s.hub) (hgangs : u.gangs = s.gangs) (hpod : u.pod = s.pod) :
    ownsLink u g n = ownsLink s g n := by
  simp only [ownsLink, rowNow, rowNames, cellAt, shareNames, gangOf, authOf, fabOf, hhub, hgangs, hpod]
  rfl

theorem routeFaults_congr {s u : State} {k : Nat} (kind : Nat) (h : SameFb (coreOf s k) (coreOf u k)) (hhub : u.hub = s.hub)
    (hgangs : u.gangs = s.gangs) (hpod : u.pod = s.pod) : routeFaults u k kind = routeFaults s k kind := by
  rw [routeFaults, routeFaults, h.ports _ (by decide), h.ports _ (by decide), h.ports _ (by decide), h.gang,
    ownsLink_congr _ _ hhub hgangs hpod, fabOf, fabOf, hhub]

/-! HOP_0. -/

theorem booked_setFab (s : State) (f : Fabric) : Booked s (setFab s f) := booked_of_cores rfl rfl rfl fun _ h => h

theorem booked_useLink (s : State) (n x : Nat) (o : Occupied) : Booked s (useLink s n x o) := booked_setFab ..

theorem takeHop0_free {s : State} (fl : Flight) {n width : Nat} (kind : Nat) {o : Occupied} (hw : width ≠ 0)
    (hfree : ∀ u ∈ (linkAt (fabOf s) n).used, ¬(u.gang = o.gang ∧ u.first ≤ o.last ∧ o.first ≤ u.last)) :
    takeHop0 s fl n o width kind = (useLink s n (gcycOf s (me s)) o, true) := by
  have hmeet : usesMeeting (linkAt (fabOf s) n) o.gang o.first o.last = [] :=
    List.filter_eq_nil_iff.mpr fun u hu => by rw [decide_eq_true_eq]; exact hfree u hu
  rw [takeHop0, if_neg hw, hmeet]
  rfl

/-! What is booked. -/

theorem booked_settleLate (s : State) (k : Nat) (a : Access) : Booked s (settleLate s k a) := by
  unfold settleLate
  dsimp only
  split
  · exact .refl s
  · refine booked_modCore s k fun c => Books.trans (d := { c with voided := c.voided ++ _ })
      ⟨rfl, rfl, rfl, rfl, rfl, rfl, rfl, rfl, rfl, rfl, rfl, rfl, .refl _ _⟩ (books_raised (raiseNow_spec ..) ?_)
    exact addRaise_raises _ _ (by simp)

theorem booked_postSend (s : State) (k id kind st sad len n : Nat) (ch : Nat × Nat × Nat) :
    Booked s (postSend s k id kind st sad len n ch) := by
  unfold postSend
  dsimp only
  split
  · exact (((((booked_postDeed ..).trans (booked_reserveAll ..)).trans (booked_settleLate ..)).trans
      (.foldl (fun u i => booked_postDeed ..) _ _))).trans (booked_postDeed ..)
  · exact (booked_postDeed ..).trans (booked_postDeed ..)

section
variable {s u : State} (run : SameRun s u) (id kind st sad len n : Nat) (ch : Nat × Nat × Nat)
include run

theorem postSend_counted :
    ownJob s st phTrigger (.deed (.countDepart (myCore s).gang n)) ∈ (postSend u (me s) id kind st sad len n ch).agenda := by
  have first := run.posts st phTrigger (.deed (.countDepart (myCore s).gang n))
  rw [← run.gang] at first ⊢
  unfold postSend
  dsimp only
  split
  · exact ((((booked_reserveAll ..).trans (booked_settleLate ..)).trans (.foldl (fun u i => booked_postDeed ..) _ _)).trans
      (booked_postDeed ..)).keeps _ first
  · exact (booked_postDeed ..).keeps _ first

theorem postSend_departs (h : ¬(kind = 11 ∨ kind = 12)) :
    ownJob s st phTrigger (.deed (.depart id)) ∈ (postSend u (me s) id kind st sad len n ch).agenda := by
  rw [postSend]
  dsimp only
  rw [if_neg h]
  exact (run.booked (booked_postDeed ..)).posts ..

theorem postSend_reads (h : kind = 11 ∨ kind = 12) :
    (∀ i < unitCount len, ownJob s (st + i) phRead (.deed (.sendRead id i)) ∈ (postSend u (me s) id kind st sad len n ch).agenda) ∧
      ownJob s (st + unitCount len - 1) phTrigger (.deed (.depart id)) ∈ (postSend u (me s) id kind st sad len n ch).agenda := by
  rw [postSend]
  dsimp only
  rw [if_pos h]
  generalize hv : settleLate _ _ _ = v
  have settled : Booked u v := hv ▸ ((booked_postDeed ..).trans (booked_reserveAll ..)).trans (booked_settleLate ..)
  have reads (u : State) (i : Nat) := booked_postDeed u (me s) (st + i) phRead (.sendRead id i)
  refine ⟨fun i hi => (booked_postDeed ..).keeps _ ?_, ?_⟩
  · exact (run.booked settled).foldl_posts (fun i => ownJob s (st + i) phRead (.deed (.sendRead id i))) reads
      (fun w i hw => hw.posts ..) hi
  · exact ((run.booked settled).booked (.foldl reads _ _)).posts ..

end

/-! Arrival of FSEND, FPUT, FGET and FATOM. -/

/-- The command as FB accepts it. -/
def fabCmd (c : Core) (fl : Flight) (kind st : Nat) : EngineCmd :=
  { mkCmd kind st (if kind = 14 then (portOf c fbAop).toNat % 16 else (portOf c fbSad).toNat) (portOf c fbRad).toNat
      (portOf c fbLen).toNat ((portOf c fbTag).setWidth 16) (portOf c fbPath).toNat fl with skew := (portOf c fbLink).toNat }

/-- Its scratch bytes: an FATOM has a word. -/
def fabLen (c : Core) (kind : Nat) : Nat := if kind = 14 then 4 else (portOf c fbLen).toNat

/-- The routes, their latencies and the replies awaited are the same. -/
structure SameRoutes (f f' : Fabric) : Prop where
  chip : f'.chip = f.chip
  size : ∀ k, podSize f' k = podSize f k
  trained : f'.trained = f.trained
  latency : ∀ n, (linkAt f' n).lat = (linkAt f n).lat ∧ (linkAt f' n).llat = (linkAt f n).llat
  tickets : f'.tickets = f.tickets
  awaited : f'.awaited = f.awaited

theorem SameRoutes.refl (f : Fabric) : SameRoutes f f := ⟨rfl, fun _ => rfl, rfl, fun _ => ⟨rfl, rfl⟩, rfl, rfl⟩

theorem SameRoutes.walk_eq {f f' : Fabric} (h : SameRoutes f f') (c : Nat) (ns : List Nat) : walk f' c ns = walk f c ns := by
  have hstep (c n : Nat) : stepChip f' c n = stepChip f c n := by simp only [stepChip, h.size]
  induction ns generalizing c with
  | nil => rfl
  | cons n ns ih => rw [walk, walk, hstep, ih]

theorem SameRoutes.routeOf_eq {f f' : Fabric} (h : SameRoutes f f') (link path rad : Word) :
    routeOf f' link path rad = routeOf f link path rad := by
  simp only [routeOf, backHops, h.chip, h.walk_eq]

theorem SameRoutes.hopsLatency_eq {f f' : Fabric} (h : SameRoutes f f') (hs : List (Nat × Nat)) :
    hopsLatency f' hs = hopsLatency f hs := by
  have hlat (c n : Nat) : trainedOf f' c n = trainedOf f c n := by
    rw [trainedOf, trainedOf, h.chip, h.trained, (h.latency n).1, (h.latency n).2]
  simp only [hopsLatency, hlat]

theorem sameRoutes_useLink (s : State) (n x : Nat) (o : Occupied) : SameRoutes (fabOf s) (fabOf (useLink s n x o)) := by
  refine ⟨rfl, fun k => ?_, rfl, fun j => ?_, rfl, rfl⟩
  · match k with
    | 0 => rfl
    | 1 => rfl
    | 2 => rfl
    | _ + 3 => rfl
  · have hused (us : List Occupied → List Occupied) :
        (linkAt { fabOf s with links := tmod {} (fabOf s).links n fun l => { l with used := us l.used } } j).lat = (linkAt (fabOf s) j).lat ∧
        (linkAt { fabOf s with links := tmod {} (fabOf s).links n fun l => { l with used := us l.used } } j).llat = (linkAt (fabOf s) j).llat := by
      rw [linkAt, tmod, tget_tset]
      split
      case isTrue hj => rw [hj]; exact ⟨rfl, rfl⟩
      case isFalse => exact ⟨rfl, rfl⟩
    exact hused fun us => us.filter (fun u => !decide (u.gang = o.gang ∧ u.last + 8192 < x)) ++ [o]

section
variable {s : State} {fl : Flight} {kind : Nat} {i : Instr} {m : Mv} (h : s.cur.flight = some fl)
  (hx : exec i s = trigger i m s fun fl s => fabTrigger kind s fl) (hon : OnTime (myCore s) fl (portOf (myCore s) fbAt))
  (hfaults : fabFaults s (me s) kind fl.arrive = []) (hroute : routeFaults s (me s) kind = [])
  (hfree : fabOccupies kind (fabLen (myCore s) kind) false = 0 ∨
    ∀ o ∈ (linkAt (fabOf s) ((portOf (myCore s) fbPath).toNat % 16)).used,
      ¬(o.gang = (myCore s).gang ∧
        o.first ≤ startOf (portOf (myCore s) fbAt) fl.arrive + fabOccupies kind (fabLen (myCore s) kind) false - 1 ∧
        startOf (portOf (myCore s) fbAt) fl.arrive ≤ o.last))
include h hx hon hfaults hroute hfree

/-- A command that passes its checks takes its link, and is accepted. -/
theorem fab_arrives :
    ∃ u d v ch, OwnStep s u (noted (myCore s) d) [] ∧ RaisesOnly [4] (myCore s) (noted (myCore s) d) ∧
      Booked (modMe u fun c => consumeAt c fbAt) v ∧ SameRoutes (fabOf s) (fabOf v) ∧
      let st := startOf (portOf (myCore s) fbAt) fl.arrive
      let w := postSend (modMe v fun c => addCmd c (fabCmd (myCore s) fl kind st)) (me s) (myCore s).cmdSeq kind st
        (portOf (myCore s) fbSad).toNat (fabLen (myCore s) kind) ((portOf (myCore s) fbPath).toNat % 16) ch
      exec i s = .next (if kind = 14 ∨ kind = 13 then awaitReply w fl (me s) (myCore s).cmdSeq kind st (fabLen (myCore s) kind) else w) := by
  obtain ⟨u, d, hx, arrival, raises, -⟩ := engine_arrives h hx
  have consumed := arrival.thenMod (consumeAt · fbAt)
  rw [fabTrigger, arrival.myCore_eq, arrival.me_eq] at hx
  generalize hv : (modMe u fun c => consumeAt c fbAt) = v at consumed hx
  have hmine : myCore v = consumeAt (noted (myCore s) d) fbAt := consumed.myCore_eq
  have hport (n : Nat) : portOf (noted (myCore s) d) n = portOf (myCore s) n := rfl
  have hports (n : Nat) (hn : n ≠ fbAt) : portOf (myCore v) n = portOf (myCore s) n := by
    rw [hmine, consumeAt, portOf_setPort_ne _ _ hn, hport]
  have run : SameRun s v := .of_own consumed rfl
  have hfb : SameFb (coreOf s (me s)) (coreOf v (me s)) := by
    rw [consumed.core]
    exact ⟨rfl, rfl, fun n hn => by rw [consumeAt, portOf_setPort_ne _ _ hn]; rfl⟩
  dsimp only at hx
  rw [fabFaults_congr _ _ hfb, routeFaults_congr _ hfb consumed.hub consumed.gangs consumed.pod, hfaults, hroute, hport, hport,
    hport, hport, hport, hport, slipCheck_onTime [fbAt] 4 hon (by rw [hmine]; rfl), List.append_nil, if_neg (not_not_intro rfl)] at hx
  simp only [Bool.false_eq_true, false_and, if_false, Bool.not_false, and_true] at hx
  have hlen : (if kind = 14 then 4 else (portOf (myCore s) fbLen).toNat) = fabLen (myCore s) kind := rfl
  have hcmd : (if kind = 14 then (portOf (myCore s) fbLen).toNat else fabLen (myCore s) kind) = (portOf (myCore s) fbLen).toNat := by
    unfold fabLen
    split <;> rfl
  have hfab : fabOf v = fabOf s := by rw [fabOf, consumed.hub, fabOf]
  rw [hlen, hcmd] at hx
  obtain ⟨v1, htake, booked, huses⟩ : ∃ v1, takeHop0 v fl ((portOf (myCore s) fbPath).toNat % 16)
      ⟨(noted (myCore s) d).gang, startOf (portOf (myCore s) fbAt) fl.arrive,
        startOf (portOf (myCore s) fbAt) fl.arrive + fabOccupies kind (fabLen (myCore s) kind) false - 1, fl.arrive, fl.issue,
        chipOf v * 1024 + me s, 0⟩ (fabOccupies kind (fabLen (myCore s) kind) false) kind = (v1, true) ∧ Booked v v1 ∧
      SameRoutes (fabOf s) (fabOf v1) := by
    by_cases hw : fabOccupies kind (fabLen (myCore s) kind) false = 0
    · exact ⟨v, by rw [takeHop0, if_pos hw], .refl v, hfab ▸ .refl _⟩
    · refine ⟨_, takeHop0_free fl kind hw fun o ho => ?_, booked_useLink .., ?_⟩
      · rw [hfab] at ho
        exact hfree.resolve_left hw o ho
      · rw [← hfab]
        exact sameRoutes_useLink ..
  rw [htake] at hx
  dsimp only at hx
  have run1 := run.booked booked
  have hmine1 : (myCore v1).cmdSeq = (myCore s).cmdSeq := by
    rw [myCore, run1.me_eq, (booked.cores _).cmdSeq, consumed.core]; rfl
  have hset (m : EngineCmd) : setCore v1 (me s) (addCmd (myCore v1) m) = modMe v1 fun c => addCmd c m := by
    rw [← run1.me_eq]; rfl
  rw [hset, hmine1] at hx
  exact ⟨u, d, v1, _, arrival, raises, hv ▸ booked, huses, hx⟩

end

end Sys2Proof.Machine
end

section
/-! PROOF. What FB's accepted commands leave: FSEND and FPUT, the replies that FGET and FATOM await, FRECV and FPEER (R234 to
R237, R241, R363 to R365). -/

namespace Sys2Proof.Machine

section
variable {s : State} {fl : Flight} {kind : Nat} {i : Instr} {m : Mv} (h : s.cur.flight = some fl)
  (hx : exec i s = trigger i m s fun fl s => fabTrigger kind s fl) (hon : OnTime (myCore s) fl (portOf (myCore s) fbAt))
  (hfaults : fabFaults s (me s) kind fl.arrive = []) (hroute : routeFaults s (me s) kind = [])
  (hfree : fabOccupies kind (fabLen (myCore s) kind) false = 0 ∨
    ∀ o ∈ (linkAt (fabOf s) ((portOf (myCore s) fbPath).toNat % 16)).used,
      ¬(o.gang = (myCore s).gang ∧
        o.first ≤ startOf (portOf (myCore s) fbAt) fl.arrive + fabOccupies kind (fabLen (myCore s) kind) false - 1 ∧
        startOf (portOf (myCore s) fbAt) fl.arrive ≤ o.last))
include h hx hon hfaults hroute hfree

/-- FSEND and FPUT. -/
theorem fabSend_accepts (hkind : kind = 11 ∨ kind = 12) :
    let st := startOf (portOf (myCore s) fbAt) fl.arrive
    let n := unitCount (portOf (myCore s) fbLen).toNat
    Accepts i s fbAt (fabCmd (myCore s) fl kind st)
      (ownJob s st phTrigger (.deed (.countDepart (myCore s).gang ((portOf (myCore s) fbPath).toNat % 16))) ::
        ((List.range n).map fun i => ownJob s (st + i) phRead (.deed (.sendRead (myCore s).cmdSeq i))) ++
        [ownJob s (st + n - 1) phTrigger (.deed (.depart (myCore s).cmdSeq))]) [] := by
  intro st n
  obtain ⟨u, d, v, ch, arrival, raises, before, -, hx⟩ := fab_arrives h hx hon hfaults hroute hfree
  have hreply : ¬(kind = 14 ∨ kind = 13) := by omega
  have hlen : fabLen (myCore s) kind = (portOf (myCore s) fbLen).toNat := by rw [fabLen, if_neg (by omega)]
  dsimp only at hx
  rw [if_neg hreply, hlen] at hx
  have run : SameRun s (modMe v fun c => addCmd c (fabCmd (myCore s) fl kind st)) :=
    ((SameRun.of_own (arrival.thenMod (consumeAt · fbAt)) rfl).booked before).modMe fun _ => rfl
  obtain ⟨reads, departs⟩ := postSend_reads run (myCore s).cmdSeq kind st (portOf (myCore s) fbSad).toNat
    (portOf (myCore s) fbLen).toNat ((portOf (myCore s) fbPath).toNat % 16) ch hkind
  have counted := postSend_counted run (myCore s).cmdSeq kind st (portOf (myCore s) fbSad).toNat
    (portOf (myCore s) fbLen).toNat ((portOf (myCore s) fbPath).toNat % 16) ch
  refine accepts_of (f := fun c => addCmd c (fabCmd (myCore s) fl kind st)) hx arrival raises before (fun c => rfl)
    (booked_postSend ..) (fun j hj => ?_) (fun _ hj => nomatch hj)
  rcases List.mem_append.mp hj with hj | hj
  · rcases List.mem_cons.mp hj with rfl | hj
    · exact counted
    · obtain ⟨i, hi, rfl⟩ := List.mem_map.mp hj
      exact reads i (List.mem_range.mp hi)
  · rw [List.mem_singleton.mp hj]
    exact departs

end

/-! The reply awaited (R241). -/

/-- The command `id` keeps the ticket of its reply. -/
def ticketed (id tk : Nat) (c : Core) : Core :=
  { c with cmds := c.cmds.map fun m => if m.id = id then { m with bufs := [(tk, [], false)] } else m }

/-- What awaiting a reply leaves: the run, the bytes, the registers and ports. -/
theorem awaitReply_spec (u : State) (fl : Flight) (k id kind st len : Nat) :
    let t := awaitReply u fl k id kind st len
    let c := coreOf u k
    let r := routeOf (fabOf u) (portOf c fbLink) (portOf c fbPath) (portOf c fbRad)
    let e := replyCycle (fabOf u) r kind st len
    let a := st + hopsLatency (fabOf u) r.1 + 1
    t.gangs = u.gangs ∧ ScratchSame u t ∧ (coreOf t k).ports = c.ports ∧ (coreOf t k).s = c.s ∧
      t.agenda = u.agenda ++ [⟨.gang c.gang, e + leadOf u k, phHub, none,
        .event (.missingArrival k (radChip (portOf c fbRad)) e (fabOf u).tickets)⟩] ∧
      (fabOf t).awaited = (fabOf u).awaited ++ [⟨(fabOf u).tickets, k, st, radChip (portOf c fbRad), radCore (portOf c fbRad),
        if kind = 14 then a + 3 else a, if kind = 14 then some e else none⟩] := by
  intro t c r e a
  have clashed (p : Prop) [Decidable p] (f : Core → Core) (hf : ∀ c, f c = { c with raised := (f c).raised }) :
      ∃ v, (if p then modCore u k f else u) = v ∧ v.gangs = u.gangs ∧ v.hub = u.hub ∧ v.agenda = u.agenda ∧
        ∀ j, coreOf v j = { coreOf u j with raised := (coreOf v j).raised } := by
    refine ⟨_, rfl, ?_⟩
    split
    · refine ⟨rfl, rfl, rfl, fun j => ?_⟩
      rw [coreOf_modCore]
      split
      · exact hf _
      · rfl
    · exact ⟨rfl, rfl, rfl, fun _ => rfl⟩
  obtain ⟨v, hv, hgangs, hhub, hagenda, hcore⟩ := clashed (kind = 14 ∧ fbCompletes u k e = true)
    (fun c => raiseFor c fl [fbAt, fbLink, fbPath] 4 0 0 0) fun c => raiseFor_spec ..
  have hfab : fabOf v = fabOf u := by rw [fabOf, hhub, fabOf]
  obtain ⟨w, ht, hw, hwcores, hwgangs, hwagenda⟩ : ∃ w, t = postGang (modCore w k (ticketed id (fabOf u).tickets)) c.gang
      (e + leadOf (modCore w k (ticketed id (fabOf u).tickets)) k) phHub
        (.missingArrival k (radChip (portOf c fbRad)) e (fabOf u).tickets) ∧
      (fabOf w).awaited = (fabOf u).awaited ++ [⟨(fabOf u).tickets, k, st, radChip (portOf c fbRad), radCore (portOf c fbRad),
        if kind = 14 then a + 3 else a, if kind = 14 then some e else none⟩] ∧
      w.cores = v.cores ∧ w.gangs = v.gangs ∧ w.agenda = v.agenda := by
    refine ⟨setFab v { fabOf v with tickets := (fabOf u).tickets + 1, awaited := (fabOf u).awaited ++ [_] }, ?_, rfl, rfl, rfl, rfl⟩
    rw [← hv]
    rfl
  have hwcore (j : Nat) : coreOf w j = { coreOf u j with raised := (coreOf v j).raised } := by
    rw [coreOf, hwcores]
    exact hcore j
  have hcores (j : Nat) : coreOf t j = coreOf (modCore w k (ticketed id (fabOf u).tickets)) j := by rw [ht]; rfl
  have hmine : coreOf t k = ticketed id (fabOf u).tickets (coreOf w k) := by rw [hcores, coreOf_modCore_self]
  have hlead : leadOf (modCore w k (ticketed id (fabOf u).tickets)) k = leadOf u k := by
    rw [leadOf, leadOf, coreGang, coreGang, coreOf_modCore_self, gangOf, gangOf, ticketed, hwcore]
    show (tget {} w.gangs c.gang).h = _
    rw [hwgangs, hgangs]
  refine ⟨?_, fun j b => ?_, ?_, ?_, ?_, ?_⟩
  · rw [ht]
    exact hwgangs.trans hgangs
  · rw [hcores, coreOf_modCore]
    split
    · rw [ticketed, hwcore]
    · rw [hwcore]
  · rw [hmine, ticketed, hwcore]
  · rw [hmine, ticketed, hwcore]
  · rw [ht, hlead, ← hagenda, ← hwagenda]
    rfl
  · rw [ht]
    exact hw

theorem postSend_hub (s : State) (k id st sad len n : Nat) {kind : Nat} (ch : Nat × Nat × Nat) (h : ¬(kind = 11 ∨ kind = 12)) :
    (postSend s k id kind st sad len n ch).hub = s.hub := by
  rw [postSend]
  dsimp only
  rw [if_neg h]
  rfl

section
variable {s : State} {fl : Flight} {kind : Nat} {i : Instr} {m : Mv} (h : s.cur.flight = some fl)
  (hx : exec i s = trigger i m s fun fl s => fabTrigger kind s fl) (hon : OnTime (myCore s) fl (portOf (myCore s) fbAt))
  (hfaults : fabFaults s (me s) kind fl.arrive = []) (hroute : routeFaults s (me s) kind = [])
  (hfree : fabOccupies kind (fabLen (myCore s) kind) false = 0 ∨
    ∀ o ∈ (linkAt (fabOf s) ((portOf (myCore s) fbPath).toNat % 16)).used,
      ¬(o.gang = (myCore s).gang ∧
        o.first ≤ startOf (portOf (myCore s) fbAt) fl.arrive + fabOccupies kind (fabLen (myCore s) kind) false - 1 ∧
        startOf (portOf (myCore s) fbAt) fl.arrive ≤ o.last))
include h hx hon hfaults hroute hfree

/-- FGET and FATOM. -/
theorem fab_awaits (hkind : kind = 14 ∨ kind = 13) :
    let st := startOf (portOf (myCore s) fbAt) fl.arrive
    let c := myCore s
    let k := me s
    let f := fabOf s
    let rad := portOf c fbRad
    let r := routeOf f (portOf c fbLink) (portOf c fbPath) rad
    let e := replyCycle f r kind st (fabLen c kind)
    let a := st + hopsLatency f r.1 + 1
    ∃ t, exec i s = .next t ∧ t.gangs = s.gangs ∧ ScratchSame s t ∧ (∀ j ∈ s.agenda, j ∈ t.agenda) ∧
      portOf (coreOf t k) fbAt = noStart ∧ (coreOf t k).s = c.s ∧
      ownJob s st phTrigger (.deed (.countDepart c.gang ((portOf c fbPath).toNat % 16))) ∈ t.agenda ∧
      ownJob s st phTrigger (.deed (.depart c.cmdSeq)) ∈ t.agenda ∧
      (fabOf t).awaited = f.awaited ++ [⟨f.tickets, k, st, radChip rad, radCore rad,
        if kind = 14 then a + 3 else a, if kind = 14 then some e else none⟩] ∧
      ⟨.gang c.gang, e + (coreGang s k).h, phHub, none, .event (.missingArrival k (radChip rad) e f.tickets)⟩ ∈ t.agenda := by
  intro st c k f rad r e a
  obtain ⟨u, d, v, ch, arrival, raises, before, routes, hx⟩ := fab_arrives h hx hon hfaults hroute hfree
  have hsend : ¬(kind = 11 ∨ kind = 12) := by omega
  dsimp only at hx
  rw [if_pos hkind] at hx
  have consumed := arrival.thenMod (consumeAt · fbAt)
  have runv := (SameRun.of_own consumed rfl).booked before
  have run : SameRun s (modMe v fun c => addCmd c (fabCmd (myCore s) fl kind st)) := runv.modMe fun _ => rfl
  have counted := postSend_counted run c.cmdSeq kind st (portOf c fbSad).toNat (fabLen c kind)
    ((portOf c fbPath).toNat % 16) ch
  have departs := postSend_departs run c.cmdSeq kind st (portOf c fbSad).toNat (fabLen c kind)
    ((portOf c fbPath).toNat % 16) ch hsend
  have hhub := postSend_hub (modMe v fun c => addCmd c (fabCmd (myCore s) fl kind st)) k c.cmdSeq st (portOf c fbSad).toNat
    (fabLen c kind) ((portOf c fbPath).toNat % 16) ch hsend
  have sent := booked_postSend (modMe v fun c => addCmd c (fabCmd (myCore s) fl kind st)) k c.cmdSeq kind st
    (portOf c fbSad).toNat (fabLen c kind) ((portOf c fbPath).toNat % 16) ch
  generalize postSend (modMe v fun c => addCmd c (fabCmd (myCore s) fl kind st)) k c.cmdSeq kind st
    (portOf c fbSad).toNat (fabLen c kind) ((portOf c fbPath).toNat % 16) ch = w at hx counted departs hhub sent
  have hwcore : (coreOf w k).ports = (consumeAt (noted c d) fbAt).ports ∧ (coreOf w k).s = c.s := by
    have hadd : coreOf (modMe v fun c => addCmd c (fabCmd (myCore s) fl kind st)) k = addCmd (coreOf v k) (fabCmd (myCore s) fl kind st) := by
      rw [modMe, runv.me_eq, coreOf_modCore_self]
    have hv := before.cores k
    rw [consumed.core] at hv
    have hw := sent.cores k
    rw [hadd] at hw
    exact ⟨hw.ports.trans hv.ports, hw.s.trans hv.s⟩
  have hports (n : Nat) (hn : n ≠ fbAt) : portOf (coreOf w k) n = portOf c n := by
    have hne : portOf (consumeAt (noted c d) fbAt) n = portOf c n := by rw [consumeAt, portOf_setPort_ne _ _ hn]; rfl
    rw [portOf, hwcore.1]
    exact hne
  have hfab : fabOf w = fabOf v := by rw [fabOf, hhub]; rfl
  have runw := run.booked sent
  have hlead : leadOf w k = (coreGang s k).h := by
    rw [leadOf, coreGang, coreGang, runw.gang, gangOf, gangOf, runw.gangs]; rfl
  obtain ⟨hgangs, hscratch, hps, hs, hagenda, hawaited⟩ := awaitReply_spec w fl k c.cmdSeq kind st (fabLen c kind)
  have hreply (r : List (Nat × Nat) × List (Nat × Nat)) (kd st len : Nat) :
      replyCycle (fabOf v) r kd st len = replyCycle (fabOf s) r kd st len := by
    rw [replyCycle, replyCycle, routes.hopsLatency_eq, routes.hopsLatency_eq]
  rw [hports _ (by decide), hports _ (by decide), hports _ (by decide), hfab, routes.routeOf_eq, hreply, routes.tickets]
    at hagenda
  rw [hports _ (by decide), hports _ (by decide), hports _ (by decide), hfab, routes.routeOf_eq, hreply, routes.tickets,
    routes.hopsLatency_eq, routes.awaited] at hawaited
  rw [hlead, runw.gang] at hagenda
  refine ⟨_, hx, hgangs.trans runw.gangs, ?_, fun j hj => ?_, ?_, hs.trans hwcore.2, ?_, ?_, hawaited, ?_⟩
  · refine ScratchSame.trans (fun j b => ?_) hscratch
    rw [(sent.cores j).scratch]
    by_cases hj : j = k
    · rw [hj, modMe, runv.me_eq, coreOf_modCore_self]
      show tget 0 (coreOf v k).scratch b = _
      rw [(before.cores k).scratch, consumed.core]
      rfl
    · rw [modMe, runv.me_eq, coreOf_modCore_ne _ _ hj, (before.cores j).scratch, consumed.others j hj]
  · rw [hagenda]
    refine List.mem_append_left _ (sent.keeps j (before.keeps j ?_))
    rw [consumed.agenda, List.append_nil]
    exact hj
  · rw [portOf, hps, hwcore.1]
    exact tget_tset_self 0 _ fbAt noStart
  · rw [hagenda]
    exact List.mem_append_left _ counted
  · rw [hagenda]
    exact List.mem_append_left _ departs
  · rw [hagenda]
    exact List.mem_append_right _ (List.mem_singleton_self _)

end

end Sys2Proof.Machine
end

section
/-! PROOF. FRECV and FPEER, and the settlement of O38 (R236, R237, R364). -/

namespace Sys2Proof.Machine

/-- `c` with the receive `r` armed. -/
def armRecv (r : Recv) (c : Core) : Core := { c with recvs := c.recvs ++ [r] }

section
variable {s : State} {fl : Flight} {m : Mv} (h : s.cur.flight = some fl)
include h

theorem frecv_arms (hon : OnTime (myCore s) fl (portOf (myCore s) fbAt)) (hfaults : fabFaults s (me s) 11 fl.arrive = [])
    (hdead : deadPeer (fabOf s) (radChip (portOf (myCore s) fbRad)) = false) (hroom : (myCore s).recvs.length < 16) :
    let c := myCore s
    let w := portOf c fbAt
    let rad := portOf c fbRad
    let r : Recv := ⟨radChip rad, radCore rad, (portOf c fbSad).toNat, (portOf c fbLen).toNat, (portOf c fbTag).setWidth 16,
      if w = noStart then none else some w.toNat, fl.issue, fl.bundle, fl.slot, (fabOf s).tickets⟩
    ∃ t, exec (.frecv m) s = .next t ∧ (coreOf t (me s)).recvs = c.recvs ++ [r] ∧
      (coreOf t (me s)).ports = tset 0 c.ports fbAt noStart ∧ (∀ j, j ≠ me s → coreOf t j = coreOf s j) ∧ ScratchSame s t ∧
      t.gangs = s.gangs ∧ t.agenda = s.agenda ++ (if w = noStart then [] else
        [⟨.gang c.gang, w.toNat + (coreGang s (me s)).h, phHub, none,
          .event (.missingArrival (me s) r.chip w.toNat r.ticket)⟩]) := by
  intro c w rad r
  obtain ⟨u, d, hx, arrival, -, -⟩ := engine_arrives h (exec_frecv m s)
  have consumed := arrival.thenMod (consumeAt · fbAt)
  rw [arrival.myCore_eq, arrival.me_eq] at hx
  generalize hv : (modMe u fun c => consumeAt c fbAt) = v at consumed hx
  have hmine : myCore v = consumeAt (noted c d) fbAt := consumed.myCore_eq
  have hfb : SameFb (coreOf s (me s)) (coreOf v (me s)) := by
    rw [consumed.core]
    exact ⟨rfl, rfl, fun n hn => by rw [consumeAt, portOf_setPort_ne _ _ hn]; rfl⟩
  have hport (n : Nat) : portOf (noted c d) n = portOf c n := rfl
  have hfab : fabOf v = fabOf s := by rw [fabOf, consumed.hub, fabOf]
  dsimp only at hx
  rw [fabFaults_congr _ _ hfb, hfaults, hfab, hport, hport, hport, hport, hdead,
    slipCheck_onTime [fbAt] 4 hon (by rw [hmine]; rfl)] at hx
  have hrecvs : ¬16 ≤ (noted (myCore s) d).recvs.length := Nat.not_le.mpr hroom
  rw [if_neg hrecvs] at hx
  simp only [Bool.false_eq_true, if_false, List.append_nil, ne_eq, not_true_eq_false, hfab] at hx
  generalize hticket : { fabOf s with tickets := (fabOf s).tickets + 1 } = f' at hx
  have armed (k : Nat) : coreOf (modMe (setFab v f') (armRecv r)) k = coreOf (modMe v (armRecv r)) k := rfl
  have own : OwnStep s (modMe v (armRecv r)) (armRecv r (consumeAt (noted c d) fbAt)) [] := consumed.thenMod _
  have hlead : leadOf (modMe (setFab v f') (armRecv r)) (me s) = (coreGang s (me s)).h := by
    rw [leadOf, coreGang, coreGang, armed, own.core]
    show (tget {} v.gangs (myCore s).gang).h = _
    rw [consumed.gangs]
    rfl
  have hagenda : (modMe (setFab v f') (armRecv r)).agenda = s.agenda := consumed.agenda.trans (List.append_nil _)
  obtain ⟨t, ht, hcores, hgangs, htagenda⟩ : ∃ t, exec (.frecv m) s = .next t ∧ t.cores = (modMe v (armRecv r)).cores ∧
      t.gangs = v.gangs ∧ t.agenda = s.agenda ++ (if w = noStart then [] else
        [⟨.gang c.gang, w.toNat + (coreGang s (me s)).h, phHub, none,
          .event (.missingArrival (me s) r.chip w.toNat r.ticket)⟩]) := by
    have hx' : exec (.frecv m) s = .next (match if w = noStart then none else some w.toNat with
        | some x => postGang (modMe (setFab v f') (armRecv r)) c.gang (x + leadOf (modMe (setFab v f') (armRecv r)) (me s)) phHub
            (.missingArrival (me s) r.chip x r.ticket)
        | none => modMe (setFab v f') (armRecv r)) := hx
    by_cases hw : w = noStart
    · rw [if_pos hw] at hx' ⊢
      exact ⟨_, hx', rfl, rfl, hagenda.trans (List.append_nil _).symm⟩
    · rw [if_neg hw] at hx' ⊢
      refine ⟨_, hx', rfl, rfl, ?_⟩
      rw [← hlead, ← hagenda]
      rfl
  have hcore (j : Nat) : coreOf t j = coreOf (modMe v (armRecv r)) j := by rw [coreOf, hcores, coreOf]
  refine ⟨t, ht, ?_, ?_, fun j hj => ?_, fun j b => ?_, hgangs.trans consumed.gangs, htagenda⟩
  · rw [hcore, own.core]; rfl
  · rw [hcore, own.core]; rfl
  · rw [hcore, own.others j hj]
  · rw [hcore]
    by_cases hj : j = me s
    · rw [hj, own.core]; rfl
    · rw [own.others j hj]

omit h in
/-- A step that ends by scheduling a result completes. -/
theorem completeWord_completes {i : Instr} {y : State} {c e : Core} {p : ResultPort} {lat : Nat} {v : Word} {g : Flags}
    (hx : exec i s = .next (completeWord y fl p lat v g)) (own : OwnStep s y (noted c e) [])
    (raised : RaisesOnly [4] (myCore s) (noted c e)) (hg : c.gang = (myCore s).gang) :
    Completes i s c [resultJob s p lat (v.setWidth 2048) g] := by
  have whole := own.trans (complete_spec y fl p lat (v.setWidth 2048) g)
  have job := complete_raises y fl p lat (v.setWidth 2048) g
  rw [own.myCore_eq, own.me_eq] at whole
  rw [own.myCore_eq, own.me_eq] at job
  rw [own.resultJob_eq hg, noted_noted, List.nil_append] at whole
  exact ⟨_, hx, whole, RaisesOnly.trans raised job⟩

/-- FPEER answers whatever the state: its chip's status comes from t + 2. -/
theorem fpeer_answers :
    let f := fabOf s
    let id := (scalarIn .z fl.val).toNat % 4096
    let v := (if deadPeer f id then 1 else 0) + (if id = f.chip ∨ id ∈ (coreGang s (me s)).members then 2 else 0) +
      (if inPod f id then 4 + leekLatency f f.chip id % 2 ^ 16 * 2 ^ 16 else 0)
    Completes (.fpeer m) s { myCore s with ports := tset 0 (myCore s).ports fbAt noStart }
      [resultJob s .fb 2 ((BitVec.ofNat 64 v).setWidth 2048) 0] := by
  intro f id v
  obtain ⟨u, d, hx, arrival, raises, -⟩ := engine_arrives h (exec_fpeer m s)
  have consumed := arrival.thenMod (consumeAt · fbAt)
  generalize (modMe u fun c => consumeAt c fbAt) = x at consumed hx
  have clashed (p : Bool) : ∃ e, OwnStep s (if p then modMe x fun c => raiseFor c fl [] 4 0 0 0 else x)
      (noted { myCore s with ports := tset 0 (myCore s).ports fbAt noStart } e) [] ∧
      RaisesOnly [4] (myCore s) (noted { myCore s with ports := tset 0 (myCore s).ports fbAt noStart } e) := by
    cases p
    · exact ⟨d, consumed, raises⟩
    · have raising := consumed.thenMod fun c => raiseFor c fl [] 4 0 0 0
      have added : RaisesOnly [4] (consumeAt (noted (myCore s) d) fbAt)
          (raiseFor (consumeAt (noted (myCore s) d) fbAt) fl [] 4 0 0 0) :=
        addRaise_raises _ _ (List.mem_singleton_self _)
      rw [raiseFor_spec] at raising added
      exact ⟨{ d with raised := (raiseFor (consumeAt (noted (myCore s) d) fbAt) fl [] 4 0 0 0).raised }, raising,
        RaisesOnly.trans raises added⟩
  obtain ⟨e, own, raised⟩ := clashed
    ((fabOf u).awaited.any fun a => decide (a.core = me x ∧ a.result = some (fl.arrive + 2)))
  dsimp only at hx
  generalize (if ((fabOf u).awaited.any fun a => decide (a.core = me x ∧ a.result = some (fl.arrive + 2))) = true then
    modMe x fun c => raiseFor c fl [] 4 0 0 0 else x) = y at own hx
  have hfab : fabOf u = fabOf s := by rw [fabOf, arrival.hub, fabOf]
  have hgang : coreGang y (me y) = coreGang s (me s) := by
    rw [own.me_eq, coreGang, coreGang, own.core, gangOf, own.gangs]
    rfl
  have hvalue : bitAt (deadPeer f id) 0 + bitAt (decide (id = f.chip) || (coreGang s (me s)).members.contains id) 1 +
      bitAt (inPod f id) 2 + (if inPod f id then leekLatency f f.chip id % 2 ^ 16 * 2 ^ 16 else 0) = v := by
    simp only [bitAt, Bool.or_eq_true, decide_eq_true_eq, List.contains_iff_mem, pow_zero, pow_one, v]
    cases inPod f id <;> simp
    omega
  rw [hfab, hgang] at hx
  rw [← hvalue]
  exact completeWord_completes hx own raised rfl

end

/-- Settles O38: FSEND, FPUT, FGET and FATOM are one trigger, which differs in the link's cycles and in the reply awaited. -/
theorem fabricCommandsSendFrames : Obligations.FabricCommandsSendFrames := by
  unfold Obligations.FabricCommandsSendFrames
  intro s fl m h c k f w st sad len link path rad tag width n free passes counted reads out back sends waits there whole hon
  refine ⟨fun hpass hfree => ?_, fun hpass hfree => ?_, fun hpass => ?_, fun hpass hfree => ?_, fun hfaults hdead hroom => ?_, ?_⟩
  · exact fabSend_accepts h (exec_fsend m s) hon hpass.1 hpass.2 (.inr hfree) (.inl rfl)
  · exact fabSend_accepts h (exec_fput m s) hon hpass.1 hpass.2 (.inr hfree) (.inr rfl)
  · exact fab_awaits h (exec_fget m s) hon hpass.1 hpass.2 (.inl (by simp [fabOccupies, fabPayload, serCycles])) (.inr rfl)
  · exact fab_awaits h (exec_fatom m s) hon hpass.1 hpass.2 (.inr hfree) (.inl rfl)
  · exact frecv_arms h hon hfaults hdead hroom
  · exact fpeer_answers h

end Sys2Proof.Machine
end

section
/-! PROOF. Frames at their target: FSEND, FPUT and FGET's response are written, an FGET's request is read, an FATOM's scheduled
(R187, R191, R235, R236, R239, R240, R363). -/

namespace Sys2Proof.Machine

theorem exec_fsendArrival (f : Frame) (s : State) : exec (.fsendArrival f) s = .next (arrival s f (performSend f)) := rfl
theorem exec_fputArrival (f : Frame) (s : State) : exec (.fputArrival f) s = .next (arrival s f (performPut f)) := rfl
theorem exec_fgetRequestArrival (f : Frame) (s : State) :
    exec (.fgetRequestArrival f) s = .next (arrival s f (performGetRequest f)) := rfl
theorem exec_fgetResponseArrival (f : Frame) (s : State) :
    exec (.fgetResponseArrival f) s = .next (arrival s f (performGetResponse f)) := rfl
theorem exec_fatomRequestArrival (f : Frame) (s : State) :
    exec (.fatomRequestArrival f) s = .next (arrival s f (performAtomRequest f)) := rfl
theorem exec_fatomResponseArrival (f : Frame) (s : State) :
    exec (.fatomResponseArrival f) s = .next (arrival s f (performAtomResponse f)) := rfl
theorem exec_poisonFrameArrival (f : Frame) (s : State) : exec (.poisonFrameArrival f) s = .next (arrival s f (performPoison f)) := rfl

/-! The flight save area's header is device memory alone (R261). -/

theorem foldl_dram {α : Type} {f : State → α → State} (h : ∀ s a, ∃ d, f s a = setDram s d) (as : List α) (s : State) :
    ∃ d, as.foldl f s = setDram s d := by
  induction as generalizing s with
  | nil => exact ⟨dramOf s, rfl⟩
  | cons a as ih =>
    obtain ⟨d, hd⟩ := h s a
    obtain ⟨e, he⟩ := ih (f s a)
    exact ⟨e, by rw [List.foldl_cons, he, hd]; rfl⟩

theorem putFsa_dram (s : State) (g off : Nat) (bs : List Byte) : ∃ d, putFsa s g off bs = setDram s d := by
  refine foldl_dram (fun v i => ?_) _ s
  dsimp only
  split
  · exact ⟨_, rfl⟩
  · exact ⟨dramOf v, rfl⟩

theorem writeFsaHeader_dram (s : State) (g : Nat) : ∃ d, writeFsaHeader s g = setDram s d := putFsa_dram ..

/-! A frame performs: what each kind keeps. -/

/-- What a frame leaves to its count: the gang's count and cycle, the bytes, and what is scheduled. -/
structure Performs (s t : State) (g : Nat) : Prop where
  recv : (gangOf t g).recv = (gangOf s g).recv
  gcyc : (gangOf t g).gcyc = (gangOf s g).gcyc
  keeps : ∀ j ∈ s.agenda, j ∈ t.agenda
  scratch : ScratchSame s t

theorem Performs.refl (s : State) (g : Nat) : Performs s s g := ⟨rfl, rfl, fun _ h => h, fun _ _ => rfl⟩

theorem Performs.trans {s t u : State} {g : Nat} (h₁ : Performs s t g) (h₂ : Performs t u g) : Performs s u g :=
  ⟨h₂.recv.trans h₁.recv, h₂.gcyc.trans h₁.gcyc, fun j hj => h₂.keeps j (h₁.keeps j hj), h₁.scratch.trans h₂.scratch⟩

theorem Performs.foldl {α : Type} {f : State → α → State} {g : Nat} (h : ∀ s a, Performs s (f s a) g) (as : List α) (s : State) :
    Performs s (as.foldl f s) g := by
  induction as generalizing s with
  | nil => exact .refl s g
  | cons a as ih => exact (h s a).trans (ih (f s a))

theorem performs_post (s : State) (j : Job) (g : Nat) : Performs s (post s j) g :=
  ⟨rfl, rfl, fun _ h => List.mem_append_left _ h, fun _ _ => rfl⟩

theorem performs_setFab (s : State) (f : Fabric) (g : Nat) : Performs s (setFab s f) g := ⟨rfl, rfl, fun _ h => h, fun _ _ => rfl⟩

theorem performs_modCore (s : State) (k g : Nat) {f : Core → Core} (h : ∀ c, (f c).scratch = c.scratch) :
    Performs s (modCore s k f) g := ⟨rfl, rfl, fun _ h => h, scratchSame_modCore s k h⟩

theorem performs_of_met {s t : State} {k : Nat} (h : MetAt s t k) (g : Nat) : Performs s t g :=
  ⟨by rw [gangOf, h.gangs]; rfl, by rw [gangOf, h.gangs]; rfl, h.keeps, h.scratchSame⟩

theorem performs_unexpected (s : State) (k g : Nat) : Performs s (unexpected s k) g :=
  performs_modCore _ _ _ fun c => by rw [raiseNow_spec]

/-! Arrival in the ARRIVE cycle (R240). -/

/-- The frame leaves the frames that a link port keeps. -/
def unkept (s : State) (f : Frame) : State := setFab s { fabOf s with kept := (fabOf s).kept.erase f }

section
variable {s : State} {f : Frame} {k : Nat} (hctx : (ctxOf s (gangOf s f.gang).ctx).gang = f.gang + 1)
  (hdst : f.dstCore < (gangOf s f.gang).cores)
  (hcapture : capturing (gangOf s f.gang) = false) (hk : coreAt s f.gang f.dstCore = some k)
  (hmode : (gangOf s f.gang).mode = .running) (hnow : (gangOf s f.gang).gcyc = f.arrive)
include hctx hdst hcapture hk hmode hnow

theorem arrival_performs (perform : Nat → State → State) :
    arrival s f perform = countRecv (perform k (unkept s f)) f := by
  have hhome : ¬((ctxOf (unkept s f) (gangOf s f.gang).ctx).gang ≠ f.gang + 1 ∨
      (gangOf s f.gang).hasRun = true ∧ (gangOf s f.gang).cores ≤ f.dstCore) := by
    rintro (h | ⟨-, h⟩)
    · exact h hctx
    · omega
  rw [arrival]
  dsimp only
  rw [show setFab s { fabOf s with kept := (fabOf s).kept.erase f } = unkept s f from rfl, if_neg hhome,
    if_neg (fun h => Bool.eq_false_iff.mp hcapture h.2), show coreAt (unkept s f) f.gang f.dstCore = some k from hk]
  dsimp only
  rw [if_pos ⟨hmode, hnow⟩]

omit hctx hdst hcapture hk hmode hnow in
/-- The gang with the frame counted. -/
def countedIn (f : Frame) (x : Gang) : Gang :=
  { x with recv := tmod 0 x.recv f.link.val (· + 1), capt := if f.again then tmod 0 x.capt f.link.val (· - 1) else x.capt }

/-- A frame that performs is counted. -/
theorem arrives_of {i : Instr} {perform : Nat → State → State} {u : State} {P : State → Prop}
    (hx : exec i s = .next (arrival s f perform)) (hu : perform k (unkept s f) = u) (performs : Performs (unkept s f) u f.gang)
    (hP : ∀ t, t.cores = u.cores → t.agenda = u.agenda → fabOf t = fabOf u → P t) :
    ∃ t, exec i s = .next t ∧ P t ∧
      tget 0 (gangOf t f.gang).recv f.link.val = tget 0 (gangOf s f.gang).recv f.link.val + 1 ∧
      (gangOf t f.gang).gcyc = (gangOf s f.gang).gcyc ∧ (∀ j ∈ s.agenda, j ∈ t.agenda) ∧ ScratchSame s t := by
  rw [arrival_performs hctx hdst hcapture hk hmode hnow, hu, countRecv] at hx
  obtain ⟨d, hd⟩ := writeFsaHeader_dram (modGang u f.gang (countedIn f)) f.gang
  have hgang : gangOf (setDram (modGang u f.gang (countedIn f)) d) f.gang = countedIn f (gangOf u f.gang) :=
    gangOf_modGang_self ..
  have hx : exec i s = .next (writeFsaHeader (modGang u f.gang (countedIn f)) f.gang) := hx
  rw [hd] at hx
  refine ⟨_, hx, hP _ rfl rfl rfl, ?_, ?_, performs.keeps, performs.scratch⟩
  · rw [hgang, countedIn, tmod, tget_tset_self, performs.recv]
    rfl
  · rw [hgang]
    exact performs.gcyc

end

/-! Units written (R187). -/

/-- The first unit's bytes. -/
def firstBytes (f : Frame) : List Byte := f.data.take (min 256 f.len)

/-- Every unit of an arriving frame is written in its cycle. -/
def Lands (f : Frame) (k : Nat) (t : State) : Prop :=
  (∃ sts, ⟨.gang f.gang, f.arrive, phWrite, none, .deed (.foreignStore k
    ⟨f.addr, firstBytes f, if f.again then 5 else 4, agentId 2 f.srcChip, f.srcCore, 3⟩ sts)⟩ ∈ t.agenda) ∧
  ∀ i, 0 < i → i < unitCount f.len →
    ⟨.gang f.gang, f.arrive + i, phForeign (frameKey f), none, .deed (.frameUnit f i)⟩ ∈ t.agenda

/-- The foreign write of unit `i`. -/
def unitForeign (f : Frame) (i : Nat) : Foreign :=
  { w := ⟨f.addr + 256 * i, frameUnitBytes f i, if f.again then 5 else 4, agentId 2 f.srcChip, f.srcCore, 3⟩
    stamps := (lastTiles f.addr f.len i).map fun tl => (tl, if f.poison || f.uncorr then 0xFFFF else f.tag)
    src := frameKey f, xcopy := false }

theorem writeUnit_eq (s : State) (k : Nat) (f : Frame) (i : Nat) : writeUnit s k f i = foreignWrite s k (unitForeign f i) := rfl

theorem foldl_post_mem {α : Type} {f : State → α → State} (h : ∀ s a j, j ∈ s.agenda → j ∈ (f s a).agenda) {a : α} {j : Job}
    (ha : ∀ s, j ∈ (f s a).agenda) {as : List α} (hmem : a ∈ as) (s : State) : j ∈ (as.foldl f s).agenda := by
  have keeps (as : List α) (s : State) (hj : j ∈ s.agenda) : j ∈ (as.foldl f s).agenda := by
    induction as generalizing s with
    | nil => exact hj
    | cons b as ih => exact ih _ (h s b j hj)
  induction as generalizing s with
  | nil => cases hmem
  | cons b as ih =>
    rcases List.mem_cons.mp hmem with rfl | hin
    · exact keeps as _ (ha s)
    · exact ih hin _

section
variable {s : State} {f : Frame} {k : Nat} (hgang : (coreOf s k).gang = f.gang) (hnow : gcycOf s k = f.arrive)
  (hdata : firstBytes f ≠ []) (hclaimed : claimedAt (coreOf s k) f.addr (firstBytes f).length f.arrive = true)
  (hno : ∀ o ∈ (coreOf s k).foreign, o.cycle = f.arrive → o.group = groupOf f.addr → o.kind ≠ 1)
include hgang hnow hdata hclaimed hno

theorem writeUnits_lands : MetAt s (writeUnits s k f) k ∧ Lands f k (writeUnits s k f) := by
  have hbytes : frameUnitBytes f 0 = firstBytes f := by
    rw [frameUnitBytes, unitBytes, Nat.mul_zero, List.drop_zero, Nat.sub_zero, firstBytes]
  have hw : (unitForeign f 0).w = ⟨f.addr, firstBytes f, if f.again then 5 else 4, agentId 2 f.srcChip, f.srcCore, 3⟩ := by
    rw [unitForeign, hbytes]
    rfl
  obtain ⟨met, landed⟩ := foreignWrite_lands (s := s) (k := k) (f := unitForeign f 0) (by rw [hw]; exact hdata) rfl
    (by rw [hw, hnow]; exact hclaimed) (by rw [hw, hnow]; exact hno)
  rw [hw, hgang, hnow] at landed
  rw [writeUnits, writeUnit_eq]
  generalize foreignWrite s k (unitForeign f 0) = v at met landed ⊢
  have keeps (s : State) (i : Nat) : MetAt s (if i = 0 then s
      else post s ⟨.gang f.gang, f.arrive + i, phForeign (frameKey f), none, .deed (.frameUnit f i)⟩) k := by
    split
    · exact .refl s k
    · exact metAt_post ..
  have rest := MetAt.foldl keeps (List.range (unitCount f.len)) v
  refine ⟨met.trans rest, ⟨_, rest.keeps _ landed⟩, fun i hi hlt => ?_⟩
  refine foldl_post_mem (fun s a j hj => (keeps s a).keeps j hj) (fun u => ?_) (List.mem_range.mpr hlt) v
  rw [if_neg (by omega)]
  exact List.mem_append_right _ (List.mem_singleton_self _)

end

end Sys2Proof.Machine
end

section
/-! PROOF. What each kind of frame does at its target (R187, R191, R235, R236, R239, R240, R363). -/

namespace Sys2Proof.Machine

/-- `c` without the receive `r`. -/
def unarm (r : Recv) (c : Core) : Core := { c with recvs := c.recvs.erase r }

theorem raiseNow_mem {c : Core} (x code : Nat) (a b d : Word) (hlive : c.frozenAt = none) :
    ∃ r ∈ (raiseNow c x code a b d).raised, r.code = code ∧ r.a = a ∧ r.b = b := by
  rw [raiseNow, addRaise_live _ _ hlive]
  exact ⟨_, List.mem_append_right _ (List.mem_singleton_self _), rfl, rfl, rfl⟩

/-- A frame that performs in its ARRIVE cycle, at core `k`, which runs its gang. -/
structure AtTarget (s : State) (f : Frame) (k : Nat) : Prop where
  ctx : (ctxOf s (gangOf s f.gang).ctx).gang = f.gang + 1
  run : (gangOf s f.gang).hasRun = true
  dst : f.dstCore < (gangOf s f.gang).cores
  capture : capturing (gangOf s f.gang) = false
  core : coreAt s f.gang f.dstCore = some k
  gang : (coreOf s k).gang = f.gang
  mode : (gangOf s f.gang).mode = .running
  now : (gangOf s f.gang).gcyc = f.arrive

/-- The frame performs, is counted as received, and gang time, what is scheduled and every byte stay. -/
def Arrives (s : State) (f : Frame) (i : Instr) (P : State → Prop) : Prop :=
  ∃ t, exec i s = .next t ∧ P t ∧
    tget 0 (gangOf t f.gang).recv f.link.val = tget 0 (gangOf s f.gang).recv f.link.val + 1 ∧
    (gangOf t f.gang).gcyc = (gangOf s f.gang).gcyc ∧ (∀ j ∈ s.agenda, j ∈ t.agenda) ∧ ScratchSame s t

section
variable {s : State} {f : Frame} {k : Nat} (h : AtTarget s f k)
include h

theorem AtTarget.arrives {i : Instr} {perform : Nat → State → State} {u : State} {P : State → Prop}
    (hx : exec i s = .next (arrival s f perform)) (hu : perform k (unkept s f) = u) (performs : Performs (unkept s f) u f.gang)
    (hP : ∀ t, t.cores = u.cores → t.agenda = u.agenda → fabOf t = fabOf u → P t) : Arrives s f i P :=
  arrives_of h.ctx h.dst h.capture h.core h.mode h.now hx hu performs hP

theorem AtTarget.runs : targetRuns (unkept s f) f k = true := decide_eq_true h.gang

theorem AtTarget.gcycOf : gcycOf s k = f.arrive := by
  rw [Machine.gcycOf, coreGang, h.gang, h.now]

/-- No foreign write of the first unit's cycle meets it, and its region is claimed. -/
def ClearAt (s : State) (f : Frame) (k a : Nat) : Prop :=
  firstBytes f ≠ [] ∧ claimedAt (coreOf s k) a (firstBytes f).length f.arrive = true ∧
    ∀ o ∈ (coreOf s k).foreign, o.cycle = f.arrive → o.group = groupOf a → o.kind ≠ 1

/-- A frame's units, written at the target's address in any state whose core `k` is as before but for its receives. -/
theorem AtTarget.written {u : State} {f' : Frame} (hcore : ∃ rs, coreOf u k = { coreOf s k with recvs := rs })
    (hgangs : u.gangs = s.gangs)
    (hf : f'.gang = f.gang ∧ f'.arrive = f.arrive ∧ f'.data = f.data ∧ f'.len = f.len) (clear : ClearAt s f k f'.addr) :
    MetAt u (writeUnits u k f') k ∧ Lands f' k (writeUnits u k f') := by
  obtain ⟨rs, hcore⟩ := hcore
  obtain ⟨hg, ha, hd, hl⟩ := hf
  obtain ⟨hdata, hclaimed, hno⟩ := clear
  have hbytes : firstBytes f' = firstBytes f := by rw [firstBytes, firstBytes, hd, hl]
  refine writeUnits_lands ?_ ?_ (by rw [hbytes]; exact hdata) ?_ ?_
  · rw [hcore, hg]; exact h.gang
  · rw [Machine.gcycOf, coreGang, hcore, gangOf, hgangs, ha]; exact h.gcycOf
  · rw [hcore, hbytes, ha]; exact hclaimed
  · rw [hcore, ha]; exact hno

/-! FSEND. -/

theorem fsend_lands {r : Recv} (hr : matchRecv (coreOf s k) f = some r) (clear : ClearAt s f k r.sad) :
    Arrives s f (.fsendArrival f) fun t => Lands { f with addr := r.sad, tag := r.tag } k t ∧
      (coreOf t k).recvs = (coreOf s k).recvs.erase r := by
  have hu : performSend f k (unkept s f) = writeUnits (modCore (unkept s f) k (unarm r)) k
      { f with addr := r.sad, tag := r.tag } := by
    rw [performSend, show coreOf (unkept s f) k = coreOf s k from rfl, hr]
    rfl
  have hcore : coreOf (modCore (unkept s f) k (unarm r)) k =
      { coreOf s k with recvs := (coreOf s k).recvs.erase r } := coreOf_modCore_self ..
  obtain ⟨met, landed⟩ := h.written (u := modCore (unkept s f) k (unarm r)) (f' := { f with addr := r.sad, tag := r.tag }) ⟨_, hcore⟩ rfl ⟨rfl, rfl, rfl, rfl⟩ clear
  refine h.arrives (exec_fsendArrival f s) hu ((performs_modCore (f := unarm r) (unkept s f) k f.gang fun c => rfl).trans (performs_of_met met _))
    fun t hcores hagenda _ => ⟨?_, ?_⟩
  · rw [Lands, hagenda]
    exact landed
  · rw [coreOf, hcores, ← coreOf, met.core.recvs, hcore]

theorem fsend_unexpected (hr : matchRecv (coreOf s k) f = none) (hlive : (coreOf s k).frozenAt = none) :
    Arrives s f (.fsendArrival f) fun t => t.agenda = s.agenda ∧ ∃ r ∈ (coreOf t k).raised, r.code = 0x19 ∧ r.b = 1 := by
  have hu : performSend f k (unkept s f) = unexpected (unkept s f) k := by
    rw [performSend, show coreOf (unkept s f) k = coreOf s k from rfl, hr]
  refine h.arrives (exec_fsendArrival f s) hu (performs_unexpected ..) fun t hcores hagenda _ => ⟨hagenda, ?_⟩
  rw [coreOf, hcores, ← coreOf, unexpected, coreOf_modCore_self]
  obtain ⟨r, hr, hcode, -, hb⟩ := raiseNow_mem (gcycOf (unkept s f) k) 0x19 0 1 0 hlive
  exact ⟨r, hr, hcode, hb⟩

/-! FPUT, and an FGET's response. -/

theorem fput_lands (clear : ClearAt s f k f.addr) : Arrives s f (.fputArrival f) fun t => Lands f k t := by
  have hu : performPut f k (unkept s f) = writeUnits (unkept s f) k f := by rw [performPut, h.runs, if_pos rfl]
  obtain ⟨met, landed⟩ := h.written (u := unkept s f) (f' := f) ⟨(coreOf s k).recvs, rfl⟩ rfl ⟨rfl, rfl, rfl, rfl⟩ clear
  refine h.arrives (exec_fputArrival f s) hu (performs_of_met met _) fun t _ hagenda _ => ?_
  rw [Lands, hagenda]
  exact landed

/-- The frame's answer is no longer awaited. -/
def AnsweredBy (s : State) (f : Frame) (t : State) : Prop :=
  (fabOf t).awaited = (fabOf s).awaited.filter fun a => decide (a.ticket ≠ f.ticket)

theorem fgetResponse_lands (clear : ClearAt s f k f.addr) :
    Arrives s f (.fgetResponseArrival f) fun t => Lands f k t ∧ AnsweredBy s f t := by
  have hu : performGetResponse f k (unkept s f) = writeUnits (answered (unkept s f) f) k f := rfl
  obtain ⟨met, landed⟩ := h.written (u := answered (unkept s f) f) (f' := f) ⟨(coreOf s k).recvs, rfl⟩ rfl ⟨rfl, rfl, rfl, rfl⟩ clear
  refine h.arrives (exec_fgetResponseArrival f s) hu ((performs_setFab ..).trans (performs_of_met met _))
    fun t _ hagenda hfab => ⟨?_, ?_⟩
  · rw [Lands, hagenda]
    exact landed
  · rw [AnsweredBy, hfab, fabOf, met.hub]
    rfl

/-! FATOM. -/

theorem fatomRequest_scheduled (hp : f.poison = false) (hu : f.uncorr = false) :
    Arrives s f (.fatomRequestArrival f) fun t => ∀ d ∈ [1, 2, 3],
      ⟨.gang f.gang, f.arrive + d, phForeign (frameKey f), none, .deed (.fatomWrite { f with len := d } 0)⟩ ∈ t.agenda := by
  have posts (s : State) (d : Nat) := performs_post s
    ⟨.gang f.gang, f.arrive + d, phForeign (frameKey f), none, .deed (.fatomWrite { f with len := d } 0)⟩ f.gang
  have heq : performAtomRequest f k (unkept s f) = [1, 2, 3].foldl (fun s d =>
      post s ⟨.gang f.gang, f.arrive + d, phForeign (frameKey f), none, .deed (.fatomWrite { f with len := d } 0)⟩)
      (unkept s f) := by
    rw [performAtomRequest, h.runs, if_neg Bool.noConfusion, hp, hu, if_neg (by decide)]
  refine h.arrives (exec_fatomRequestArrival f s) heq (.foldl posts ..) fun t _ hagenda _ d hd => ?_
  rw [hagenda]
  exact foldl_post_mem (fun s d j hj => (posts s d).keeps j hj)
    (fun u => List.mem_append_right _ (List.mem_singleton_self _)) hd _

omit h in
/-- The core with an FATOM's old word at fb.r. -/
def fbPresent (f : Frame) (c : Core) : Core := setResult c .fb (f.operand.setWidth 2048)

theorem fatomResponse_present (hp : f.poison = false) (hu : f.uncorr = false) :
    Arrives s f (.fatomResponseArrival f) fun t => resultOf (coreOf t k) .fb = f.operand.setWidth 64 ∧ AnsweredBy s f t ∧
      ⟨.gang f.gang, f.arrive, phEnd, some k, .deed (.flags (f.compare.setWidth 6))⟩ ∈ t.agenda := by
  have heq : performAtomResponse f k (unkept s f) =
      postDeed (modCore (answered (unkept s f) f) k (fbPresent f)) k f.arrive phEnd (.flags (f.compare.setWidth 6)) := by
    rw [performAtomResponse]
    dsimp only
    rw [hp, hu, if_neg (by decide)]
    rfl
  have hcore : coreOf (modCore (answered (unkept s f) f) k (fbPresent f)) k = fbPresent f (coreOf s k) := coreOf_modCore_self ..
  have performs : Performs (unkept s f) (modCore (answered (unkept s f) f) k (fbPresent f)) f.gang :=
    (performs_setFab ..).trans (performs_modCore (f := fbPresent f) _ k _ fun c => rfl)
  have hanswered : AnsweredBy s f (modCore (answered (unkept s f) f) k (fbPresent f)) := rfl
  generalize modCore (answered (unkept s f) f) k (fbPresent f) = u at hcore heq performs hanswered
  refine h.arrives (exec_fatomResponseArrival f s) heq (performs.trans (performs_post ..)) fun t hcores hagenda hfab => ⟨?_, ?_, ?_⟩
  · rw [coreOf, hcores, ← coreOf]
    show resultOf (coreOf u k) .fb = _
    rw [hcore]
    show tget 0 (tset 0 (coreOf s k).res _ ((f.operand.setWidth 2048).setWidth 64)) _ = _
    rw [tget_tset_self, BitVec.setWidth_setWidth_of_le _ (by omega)]
  · rw [AnsweredBy, hfab]
    exact hanswered
  · have hg : (coreOf u k).gang = f.gang := by rw [hcore]; exact h.gang
    rw [hagenda, ← hg]
    exact List.mem_append_right _ (List.mem_singleton_self _)

/-! Poison frames. -/

theorem AtTarget.poison_stamps {n : Nat} {f' : Frame} {u : State} (hu : performPoison f k (unkept s f) = postPoison u f')
    (performs : Performs (unkept s f) u f.gang) (hf : f'.gang = f.gang ∧ f'.arrive = f.arrive ∧ frameKey f' = frameKey f)
    (hn : n = unitCount f'.len) :
    Arrives s f (.poisonFrameArrival f) fun t => (∀ j, coreOf t j = coreOf u j) ∧
      ⟨.gang f.gang, f.arrive + (n - 1), phForeign (frameKey f), none, .deed (.frameUnit f' (n - 1))⟩ ∈ t.agenda := by
  obtain ⟨hg, ha, hkey⟩ := hf
  refine h.arrives (exec_poisonFrameArrival f s) hu (performs.trans (performs_post ..)) fun t hcores hagenda _ => ⟨fun j => ?_, ?_⟩
  · rw [coreOf, hcores]
    rfl
  · rw [hagenda, hn, ← hg, ← ha, ← hkey]
    exact List.mem_append_right _ (List.mem_singleton_self _)

theorem poison_fsend {r : Recv} (hop : f.aop = 11) (hr : matchRecv (coreOf s k) f = some r) :
    Arrives s f (.poisonFrameArrival f) fun t => (coreOf t k).recvs = (coreOf s k).recvs.erase r ∧
      ⟨.gang f.gang, f.arrive + (unitCount f.len - 1), phForeign (frameKey f), none,
        .deed (.frameUnit { f with addr := r.sad } (unitCount f.len - 1))⟩ ∈ t.agenda := by
  have hu : performPoison f k (unkept s f) = postPoison (modCore (unkept s f) k (unarm r)) { f with addr := r.sad } := by
    have hn : f.aop.toNat = 11 := by rw [hop]; rfl
    rw [performPoison, hn, show coreOf (unkept s f) k = coreOf s k from rfl, hr]
    rfl
  obtain ⟨t, hx, ⟨hcore, hjob⟩, rest⟩ := h.poison_stamps (n := unitCount f.len) hu
    (performs_modCore (f := unarm r) _ k _ fun c => rfl) ⟨rfl, rfl, rfl⟩ rfl
  refine ⟨t, hx, ⟨?_, hjob⟩, rest⟩
  rw [hcore, coreOf_modCore_self]
  rfl

theorem poison_fput (hop : f.aop = 12) :
    Arrives s f (.poisonFrameArrival f) fun t => ⟨.gang f.gang, f.arrive + (unitCount f.len - 1), phForeign (frameKey f), none,
      .deed (.frameUnit f (unitCount f.len - 1))⟩ ∈ t.agenda := by
  have hu : performPoison f k (unkept s f) = postPoison (unkept s f) f := by rw [performPoison, hop]; rfl
  obtain ⟨t, hx, ⟨-, hjob⟩, rest⟩ := h.poison_stamps (n := unitCount f.len) hu (.refl ..) ⟨rfl, rfl, rfl⟩ rfl
  exact ⟨t, hx, hjob, rest⟩

theorem poison_fget (hop : f.aop = 13) : Arrives s f (.poisonFrameArrival f) fun t => t.agenda = s.agenda := by
  have hu : performPoison f k (unkept s f) = unkept s f := by rw [performPoison, hop]; rfl
  exact h.arrives (exec_poisonFrameArrival f s) hu (.refl ..) fun t _ hagenda _ => hagenda

end

end Sys2Proof.Machine
end

section
/-! PROOF. An FGET's request at its target, its units and its response; an FATOM's write (R187, R191, R232, R233, R235, R363). -/

namespace Sys2Proof.Machine

/-! The link of a passing frame (R232, R233). -/

/-- What the rules on link ownership read of a gang is the same. -/
structure SamePlace (x y : Gang) : Prop where
  run : y.hasRun = x.hasRun
  mode : y.mode = x.mode
  coreset : y.coreset = x.coreset
  row : y.row = x.row
  backfill : y.byBackfill = x.byBackfill

theorem ownsPassing_congr {s t : State} (g n : Nat) (hgangs : ∀ h, SamePlace (gangOf s h) (gangOf t h)) (hpod : t.pod = s.pod)
    (hauth : authOf t = authOf s) (hshares : (fabOf t).shares = (fabOf s).shares) : ownsPassing t g n = ownsPassing s g n := by
  have hset (h : Nat) : onSet (gangOf t h) = onSet (gangOf s h) := by rw [onSet, onSet, (hgangs h).mode]
  have hrow : rowNow t = rowNow s := by rw [rowNow, rowNow, hauth, hpod]
  have hbefore : rowBefore t = rowBefore s := by rw [rowBefore, rowBefore, hauth, hpod]
  have hshare (r : Nat) : shareNames t r n g = shareNames s r n g := by rw [shareNames, shareNames, hshares]
  have hnames : rowNames t (rowNow s) g = rowNames s (rowNow s) g := by
    rw [rowNames, rowNames, cellAt, cellAt, hauth, (hgangs g).coreset]
  rw [ownsPassing, ownsPassing, ownsLink, ownsLink, (hgangs g).run, (hgangs g).backfill, (hgangs g).row, hshares, hrow, hbefore,
    hshare, hshare, hshare, hnames]
  simp only [hset]

/-- A frame whose gang owns the link, and whose use of it meets no other, takes it. -/
theorem takeHop_free {s : State} {fr : Frame} {n : Nat} (hop : Nat) (howns : ownsPassing s fr.gang n = true)
    (hfree : frameOccupies fr = 0 ∨ ∀ o ∈ (linkAt (fabOf s) n).used,
      ¬(o.gang = fr.gang ∧ o.first ≤ fr.enter + frameOccupies fr - 1 ∧ fr.enter ≤ o.last)) :
    ∃ v, takeHop s fr n hop = (v, none) ∧ (v = s ∨ ∃ o, v = useLink s n fr.enter o) := by
  rw [takeHop, howns, if_neg (by decide)]
  dsimp only
  by_cases hw : frameOccupies fr = 0
  · rw [if_pos hw]
    exact ⟨s, rfl, .inl rfl⟩
  · have hmeet : usesMeeting (linkAt (fabOf s) n) fr.gang fr.enter (fr.enter + frameOccupies fr - 1) = [] :=
      List.filter_eq_nil_iff.mpr fun u hu => by rw [decide_eq_true_eq]; exact hfree.resolve_left hw u hu
    rw [if_neg hw, hmeet]
    exact ⟨_, rfl, .inr ⟨_, rfl⟩⟩

/-! FGET's request (R235, R363). -/

/-- A departed frame is counted at its gang, and in device memory. -/
theorem countSent_counted (s : State) (g n : Nat) :
    ∃ d, countSent s g n = setDram (modGang s g fun x => { x with sent := tmod 0 x.sent n (· + 1) }) d :=
  writeFsaHeader_dram ..

theorem countSent_place (s : State) (g n h : Nat) : SamePlace (gangOf s h) (gangOf (countSent s g n) h) := by
  obtain ⟨d, hd⟩ := countSent_counted s g n
  have hgang : gangOf (countSent s g n) h = gangOf (modGang s g fun x => { x with sent := tmod 0 x.sent n (· + 1) }) h := by
    rw [hd]; rfl
  rw [hgang]
  by_cases he : h = g
  · rw [he, gangOf_modGang_self]
    exact ⟨rfl, rfl, rfl, rfl, rfl⟩
  · rw [gangOf_modGang_ne _ _ he]
    exact ⟨rfl, rfl, rfl, rfl, rfl⟩

theorem performs_countSent (s : State) (g n h : Nat) : Performs s (countSent s g n) h := by
  obtain ⟨d, hd⟩ := countSent_counted s g n
  have hgang : gangOf (countSent s g n) h = gangOf (modGang s g fun x => { x with sent := tmod 0 x.sent n (· + 1) }) h := by
    rw [hd]; rfl
  refine ⟨?_, ?_, fun j hj => by rw [hd]; exact hj, fun j b => by rw [hd]; rfl⟩
  all_goals
    rw [hgang]
    by_cases he : h = g
    · rw [he, gangOf_modGang_self]
    · rw [gangOf_modGang_ne _ _ he]

/-- The response to request `f` leaves, if it can, and its first unit is to be read. -/
def answerGet (s : State) (f : Frame) : State :=
  let t := takeBack (countResponse s f) f (responseOf s f .getResponse f.arrive (getAnswerAt f) [] f.poison 0 0) f.arrive
  let f := if t.2 then f else { f with back := [] }
  post t.1 ⟨.gang f.gang, f.arrive, phForeign (frameKey f), none, .deed (.frameUnit f 0)⟩

theorem answerGet_taken {s v : State} {f : Frame} (hv : takeHop (countResponse s f)
    { responseOf s f .getResponse f.arrive (getAnswerAt f) [] f.poison 0 0 with enter := f.arrive } (backLink f) 0 = (v, none)) :
    answerGet s f = post v ⟨.gang f.gang, f.arrive, phForeign (frameKey f), none, .deed (.frameUnit f 0)⟩ := by
  rw [answerGet, takeBack, hv]
  rfl

theorem performGetRequest_eq (f : Frame) (k : Nat) (s : State) :
    performGetRequest f k s = if targetRuns s f k then
      answerGet s { f with data := [], poison := f.poison || (coreOf s k).poison } else unexpected s k := rfl

section
variable {s : State} {f : Frame} {k : Nat} (h : AtTarget s f k)
include h

theorem fgetRequest_reads (howns : ownsPassing s f.gang (backLink f) = true)
    (hfree : ∀ o ∈ (linkAt (fabOf s) (backLink f)).used,
      ¬(o.gang = f.gang ∧ o.first ≤ f.arrive + serCycles f.len - 1 ∧ f.arrive ≤ o.last)) :
    Arrives s f (.fgetRequestArrival f) fun t => ⟨.gang f.gang, f.arrive, phForeign (frameKey f), none,
      .deed (.frameUnit { f with data := [], poison := f.poison || (coreOf s k).poison } 0)⟩ ∈ t.agenda := by
  have hlink : ownsPassing (unkept s f) f.gang (backLink f) = true := howns
  have hcount (f' : Frame) (hg : f'.gang = f.gang) (hb : f'.back = f.back) :
      countResponse (unkept s f) f' = countSent (unkept s f) f.gang (backLink f) := by
    rw [countResponse, hg, hb]
    exact if_pos hlink
  obtain ⟨d, hd⟩ := countSent_counted (unkept s f) f.gang (backLink f)
  have howns' : ownsPassing (countSent (unkept s f) f.gang (backLink f)) f.gang (backLink f) = true := by
    rw [← hlink]
    exact ownsPassing_congr _ _ (countSent_place _ _ _) (by rw [hd]; rfl) (by rw [hd]; rfl) (by rw [hd]; rfl)
  have hused : (linkAt (fabOf (countSent (unkept s f) f.gang (backLink f))) (backLink f)).used =
      (linkAt (fabOf s) (backLink f)).used := by rw [hd]; rfl
  have taken (r : Frame) (hg : r.gang = f.gang) (hr : r.kind = .getResponse) (hl : r.len = f.len) (he : r.enter = f.arrive) :=
    takeHop_free (s := countSent (unkept s f) f.gang (backLink f)) (fr := r) (n := backLink f) 0 (by rw [hg]; exact howns') (.inr (by
      rw [hused, hg, he, frameOccupies, hr, hl]
      exact hfree))
  obtain ⟨f', hf'⟩ : ∃ f', f' = { f with data := [], poison := f.poison || (coreOf s k).poison } := ⟨_, rfl⟩
  obtain ⟨v, hv, hsame⟩ := taken
    { responseOf (unkept s f) f' .getResponse f'.arrive (getAnswerAt f') [] f'.poison 0 0 with enter := f.arrive }
    (by rw [hf']; rfl) rfl (by rw [hf']; rfl) rfl
  have hu : performGetRequest f k (unkept s f) = post v ⟨.gang f'.gang, f'.arrive, phForeign (frameKey f'), none,
      .deed (.frameUnit f' 0)⟩ := by
    have hlinked : countResponse (unkept s f) f' = countSent (unkept s f) f.gang (backLink f) :=
      hcount f' (by rw [hf']) (by rw [hf'])
    rw [performGetRequest_eq, h.runs, if_pos rfl, show coreOf (unkept s f) k = coreOf s k from rfl, ← hf']
    refine answerGet_taken ?_
    rw [hlinked, show backLink f' = backLink f by rw [hf']; rfl, ← hv, show f'.arrive = f.arrive by rw [hf']]
  have performs : Performs (unkept s f) v f.gang := by
    refine Performs.trans (performs_countSent (unkept s f) f.gang (backLink f) f.gang) ?_
    rcases hsame with rfl | ⟨o, rfl⟩
    · exact .refl ..
    · exact performs_setFab ..
  refine h.arrives (exec_fgetRequestArrival f s) hu (performs.trans (performs_post ..)) fun t _ hagenda _ => ?_
  rw [hagenda, ← hf', show f.gang = f'.gang by rw [hf'], show f.arrive = f'.arrive by rw [hf'],
    show frameKey f = frameKey f' by rw [hf']; rfl]
  exact List.mem_append_right _ (List.mem_singleton_self _)

end

/-! FGET's units. -/

/-- The request after its unit `i` is read. -/
def getRead (s : State) (k : Nat) (f : Frame) (i : Nat) : Frame :=
  { f with
    data := f.data ++ scratchBytes (coreOf s k) (f.addr + 256 * i) (unitBytes f.len i)
    poison := f.poison || (tilesOf (f.addr + 256 * i) (unitBytes f.len i)).any fun t => decide (tagOf (coreOf s k) t = 0xFFFF) }

section
variable {s : State} {f : Frame} {k i : Nat} (hk : coreAt s f.gang f.dstCore = some k) (hkind : f.kind = .getRequest)
include hk hkind

theorem frameUnit_get : ∃ u, MetAt s u k ∧ frameUnit s f i = if i + 1 < unitCount f.len then
    post u ⟨.gang f.gang, f.arrive + i + 1, phForeign (frameKey f), none, .deed (.frameUnit (getRead s k f i) (i + 1))⟩
    else sendData u (getRead s k f i) := by
  have met : MetAt s (readUnit s k f i) k := metAt_foreignAccess ..
  refine ⟨_, met, ?_⟩
  have hread : engineRead (readUnit s k f i) k (f.addr + 256 * i) (unitBytes f.len i) =
      engineRead s k (f.addr + 256 * i) (unitBytes f.len i) := by
    simp only [engineRead, scratchBytes, tagOf, met.core.scratch, met.core.tags]
    rfl
  rw [frameUnit, hk]
  dsimp only
  rw [hkind]
  dsimp only
  rw [getUnit, hread]
  rfl

theorem frameUnit_get_next (hi : i + 1 < unitCount f.len) :
    ScratchSame s (frameUnit s f i) ∧ ⟨.gang f.gang, f.arrive + i + 1, phForeign (frameKey f), none,
      .deed (.frameUnit (getRead s k f i) (i + 1))⟩ ∈ (frameUnit s f i).agenda := by
  obtain ⟨u, met, hu⟩ := frameUnit_get (i := i) hk hkind
  rw [hu, if_pos hi]
  exact ⟨met.scratchSame, List.mem_append_right _ (List.mem_singleton_self _)⟩

theorem frameUnit_get_last {n : Nat} (hi : unitCount f.len ≤ i + 1) (hn : f.back.head?.map (·.val) = some n) :
    ScratchSame s (frameUnit s f i) ∧ ∃ r, (n, r) ∈ (fabOf (frameUnit s f i)).wire ∧ r.kind = .getResponse ∧
      r.dstChip = f.srcChip ∧ r.dstCore = f.srcCore ∧ r.addr = f.home ∧ r.data = (getRead s k f i).data ∧
      r.arrive = f.arrive + f.backLat + serCycles f.len ∧ r.poison = (getRead s k f i).poison := by
  obtain ⟨u, met, hu⟩ := frameUnit_get (i := i) hk hkind
  have hback : (getRead s k f i).back ≠ [] := fun h => by
    rw [show f.back = [] from h] at hn
    cases hn
  have hlink : backLink (getRead s k f i) = n := by
    show (f.back.head?.map (·.val)).getD 0 = n
    rw [hn]; rfl
  rw [hu, if_neg (by omega), sendData, if_neg hback, hlink]
  exact ⟨met.scratchSame, _, List.mem_append_right _ (List.mem_singleton_self _), rfl, rfl, rfl, rfl, rfl, rfl, rfl⟩

end

/-! FATOM's write. -/

/-- The step keeps every scheduled step but a departure's count. -/
structure KeepsWrites (s t : State) : Prop where
  keeps : ∀ j ∈ s.agenda, (∀ g n, j.task ≠ .deed (.countDepart g n)) → j ∈ t.agenda

theorem KeepsWrites.trans {s t u : State} (h₁ : KeepsWrites s t) (h₂ : KeepsWrites t u) : KeepsWrites s u :=
  ⟨fun j hj hne => h₂.keeps j (h₁.keeps j hj hne) hne⟩

theorem KeepsWrites.foldl {α : Type} {f : State → α → State} (h : ∀ s a, KeepsWrites s (f s a)) (as : List α) (s : State) :
    KeepsWrites s (as.foldl f s) := by
  induction as generalizing s with
  | nil => exact ⟨fun _ hj _ => hj⟩
  | cons a as ih => exact (h s a).trans (ih (f s a))

theorem keepsWrites_of_same {s t : State} (h : t.agenda = s.agenda) : KeepsWrites s t := ⟨fun j hj _ => by rw [h]; exact hj⟩

theorem keepsWrites_dropFrame (s : State) (fr : Frame) (hop sub : Nat) : KeepsWrites s (dropFrame s fr hop sub) := by
  unfold dropFrame
  dsimp only
  have first := (offCore_leekSend s fr.gang fr.srcChip (.drop fr.gang fr.srcChip fr.srcCore fr.departed hop sub)).keeps
  split
  · exact ⟨fun j hj _ => first j hj⟩
  · exact ⟨fun j hj _ => (offCore_leekSend ..).keeps j (first j hj)⟩

theorem keepsWrites_dropUse (s : State) (n : Nat) (o : Occupied) : KeepsWrites s (dropUse s n o) := by
  unfold dropUse
  dsimp only
  split
  · exact ⟨fun j hj hne => (List.mem_erase_of_ne fun h => hne o.gang n (by rw [h])).mpr hj⟩
  · split
    · refine KeepsWrites.trans ?_ (keepsWrites_dropFrame ..)
      exact keepsWrites_of_same rfl
    · exact keepsWrites_of_same rfl

theorem keepsWrites_takeHop (s : State) (fr : Frame) (n hop : Nat) : KeepsWrites s (takeHop s fr n hop).1 := by
  unfold takeHop
  dsimp only
  split
  · exact keepsWrites_of_same rfl
  · split
    · exact keepsWrites_of_same rfl
    · split
      · exact keepsWrites_of_same rfl
      · exact KeepsWrites.trans (.foldl (fun u o => keepsWrites_dropUse u n o) _ _) (keepsWrites_of_same rfl)

theorem keepsWrites_takeBack (s : State) (fr r : Frame) (d : Nat) : KeepsWrites s (takeBack s fr r d).1 := by
  have hop := keepsWrites_takeHop s { r with enter := d } (backLink fr) 0
  unfold takeBack
  split
  case h_1 sub h =>
    rw [h] at hop
    exact hop.trans (keepsWrites_dropFrame ..)
  case h_2 h =>
    rw [h] at hop
    exact hop

theorem keepsWrites_sendResponse (s : State) (k : Nat) (fr : Frame) (d a : Nat) (data : List Byte) (p : Bool) (o g : BitVec 32) :
    KeepsWrites s (sendResponse s k fr d a data p o g) := by
  have back := keepsWrites_takeBack s fr (responseOf s fr .atomResponse d a data (p || fr.poison || (coreOf s k).poison) o g) d
  unfold sendResponse
  dsimp only
  split
  case h_1 h =>
    rw [h] at back
    exact back.trans (keepsWrites_of_same rfl)
  case h_2 h =>
    rw [h] at back
    exact back

theorem keepsWrites_countResponse (s : State) (fr : Frame) : KeepsWrites s (countResponse s fr) := by
  unfold countResponse
  dsimp only
  split
  · obtain ⟨d, hd⟩ := countSent_counted s fr.gang ((fr.back.head?.map (·.val)).getD 0)
    rw [hd]
    exact keepsWrites_of_same rfl
  · exact keepsWrites_of_same rfl

/-- The foreign write of an FATOM's new word. -/
def fatomForeign (f : Frame) (w : BitVec 32) : Foreign where
  w := ⟨f.addr, leBytes 4 w.toNat, if f.again then 5 else 4, agentId 2 f.srcChip, f.srcCore, 3⟩
  stamps := []
  src := frameKey f
  xcopy := false

/-- An FATOM whose operation writes: the new word falls at A + 3. -/
theorem fatomWrite_writes {s : State} {f : Frame} {k : Nat} {old w : BitVec 32} {g : Flags} (hk : coreAt s f.gang f.dstCore = some k)
    (hp : f.poison = false) (hu : f.uncorr = false) (hlen : f.len = 3)
    (hclaimed : claimedAt (coreOf s k) f.addr 4 (gcycOf s k) = true)
    (hno : ∀ o ∈ (coreOf s k).foreign, o.cycle = gcycOf s k → o.group = groupOf f.addr → o.kind ≠ 1)
    (hop : atomicOp f.aop.toNat old f.operand f.compare = (w, true, g)) :
    ⟨.gang (coreOf s k).gang, gcycOf s k, phWrite, none, .deed (.foreignStore k
      ⟨f.addr, leBytes 4 w.toNat, if f.again then 5 else 4, agentId 2 f.srcChip, f.srcCore, 3⟩ [])⟩ ∈
        (fatomWrite s f old).agenda := by
  obtain ⟨-, landed⟩ := foreignWrite_lands (s := s) (k := k) (f := fatomForeign f w) (List.cons_ne_nil _ _) rfl hclaimed hno
  have hnot : ¬(f.poison = true ∨ f.uncorr = true) := by rw [hp, hu]; decide
  rw [fatomWrite, hk]
  dsimp only
  rw [if_neg hnot, hlen, hop]
  refine KeepsWrites.keeps ?_ _ landed fun _ _ h => nomatch h
  exact KeepsWrites.trans (keepsWrites_countResponse ..) (keepsWrites_sendResponse ..)

/-- Settles O39: each kind of frame performs and is counted; the units follow. -/
theorem fabricArrivalsLand : Obligations.FabricArrivalsLand := by
  unfold Obligations.FabricArrivalsLand
  refine ⟨?_, ?_, ?_⟩
  · intro s f k g x c n hctx hrun hdst hcapture hk hg hmode hnow arrives job bytes lands clear answered
    have h : AtTarget s f k := ⟨hctx, hrun, hdst, hcapture, hk, hg, hmode, hnow⟩
    exact ⟨fun r hr hclear => fsend_lands h hr hclear, fun hr hlive => fsend_unexpected h hr hlive,
      fun hclear => fput_lands h hclear, fun howns hfree => fgetRequest_reads h howns hfree,
      fun hclear => fgetResponse_lands h hclear, fun hp hu => fatomRequest_scheduled h hp hu,
      fun hp hu => fatomResponse_present h hp hu, fun hop r hr => poison_fsend h hop hr, fun hop => poison_fput h hop,
      fun hop => poison_fget h hop⟩
  · intro s f j k i n hk hkind c a m data poison t
    exact ⟨fun hi => frameUnit_get_next hk hkind hi, fun hi hn => frameUnit_get_last hk hkind hi hn⟩
  · intro s f j k old hk hp hu hlen c x hclaimed hno writes
    have key {w : BitVec 32} {g : Flags} (hop : atomicOp f.aop.toNat old f.operand f.compare = (w, true, g)) : writes w :=
      fatomWrite_writes hk hp hu hlen hclaimed hno hop
    refine ⟨fun h => key (g := 0) ?_, fun h => key (g := 0) ?_, fun h => key (g := 0) ?_, fun h hold => key (g := 0) ?_⟩
    · rw [h]; rfl
    · rw [h]; rfl
    · rw [h]; rfl
    · rw [h, hold]
      show (f.operand, f.compare == f.compare, (0 : Flags)) = _
      rw [beq_self_eq_true]

end Sys2Proof.Machine
end

section
/-! PROOF. Frames that pass on, DROPs, missing arrivals and dead peers (R228, R229, R232, R233, R235, R241, R365). -/

namespace Sys2Proof.Machine

theorem exec_frameForward (f : Frame) (hop : Nat) (n : Fin 16) (s : State) :
    exec (.frameForward f hop n) s = execFrameForward f hop n s := rfl
theorem exec_drop (g chip core dep hop sub : Nat) (s : State) :
    exec (.drop g chip core dep hop sub) s = execDrop g chip core dep hop sub s := rfl
theorem exec_missingArrival (k chip e tk : Nat) (s : State) :
    exec (.missingArrival k chip e tk) s = execMissingArrival k chip e tk s := rfl
theorem exec_deadpeer (g dead r : Nat) (s : State) : exec (.deadpeer g dead r) s = .next (setDead s dead) := rfl
theorem exec_deadpeerClear (chips : List Nat) (s : State) : exec (.deadpeerClear chips) s =
    .next (setFab s { fabOf s with dead := chips.foldl (fun t c => tset false t c false) (fabOf s).dead }) := rfl

/-! Passing on. -/

theorem frameForward_passes {s : State} {f : Frame} (hop : Nat) {n : Fin 16} (hup : (linkAt (fabOf s) n.val).up = true)
    (howns : ownsPassing s f.gang n.val = true)
    (hfree : frameOccupies f = 0 ∨ ∀ o ∈ (linkAt (fabOf s) n.val).used,
      ¬(o.gang = f.gang ∧ o.first ≤ f.enter + frameOccupies f - 1 ∧ f.enter ≤ o.last)) :
    ∃ t, exec (.frameForward f hop n) s = .next t ∧ t.cores = s.cores ∧ t.gangs = s.gangs ∧ t.agenda = s.agenda ∧
      (fabOf t).wire = (fabOf s).wire ++ [(n.val, { f with
        route := f.route.drop 1, enter := f.enter + (trainedOf (fabOf s) (chipOf s) n.val).1 })] := by
  obtain ⟨v, hv, hsame⟩ := takeHop_free hop howns hfree
  have hx : exec (.frameForward f hop n) s = .next (putWire v n.val { f with
      route := f.route.drop 1, enter := f.enter + (trainedOf (fabOf v) (chipOf v) n.val).1 }) := by
    rw [exec_frameForward, execFrameForward, hup, hv]
    rfl
  have hlam : (trainedOf (fabOf v) (chipOf v) n.val).1 = (trainedOf (fabOf s) (chipOf s) n.val).1 ∧
      v.cores = s.cores ∧ v.gangs = s.gangs ∧ v.agenda = s.agenda ∧ (fabOf v).wire = (fabOf s).wire := by
    rcases hsame with rfl | ⟨o, rfl⟩
    · exact ⟨rfl, rfl, rfl, rfl, rfl⟩
    · have routes := sameRoutes_useLink s n.val f.enter o
      refine ⟨?_, rfl, rfl, rfl, rfl⟩
      rw [trainedOf, trainedOf, routes.chip, routes.trained, (routes.latency n.val).1, (routes.latency n.val).2]
      rfl
  obtain ⟨hlam, hcores, hgangs, hagenda, hwire⟩ := hlam
  refine ⟨_, hx, hcores, hgangs, hagenda, ?_⟩
  rw [← hlam, ← hwire]
  rfl

/-! DROPs. -/

/-- The DROP is noted. -/
def dropNoted (s : State) (d : Nat × Nat × Nat × Nat) : State := setFab s { fabOf s with drops := (fabOf s).drops ++ [d] }

/-- A DROP of no awaited reply changes nothing; one of an awaited reply schedules its loss. -/
theorem loseReply_cases (s : State) (g chip core dep : Nat) :
    (loseReply s g chip core dep = s ∧ ∀ a ∈ (fabOf s).awaited,
      ¬(a.result.isSome ∧ a.chip = chip ∧ a.peer = core ∧ a.answerAt = dep ∧ (coreOf s a.core).gang = g)) ∨
    ∃ a ∈ (fabOf s).awaited, a.result.isSome ∧ loseReply s g chip core dep =
      postDeed s a.core (max (gcycOf s a.core) (a.result.getD 0)) (phIssue - 5) .replyLost := by
  unfold loseReply
  split
  case h_1 a h =>
    refine .inr ⟨a, List.mem_of_find?_eq_some h, ?_, rfl⟩
    have hp := List.find?_some h
    rw [Bool.and_eq_true, decide_eq_true_eq] at hp
    exact hp.1.1
  case h_2 h =>
    refine .inl ⟨rfl, fun a ha hall => ?_⟩
    obtain ⟨h1, h2, h3, h4, h5⟩ := hall
    refine List.find?_eq_none.mp h a ha ?_
    rw [Bool.and_eq_true, decide_eq_true_eq, decide_eq_true_eq]
    exact ⟨⟨h1, h2, h3, h4⟩, h5⟩

theorem loseReply_beside (s : State) (g chip core dep : Nat) :
    (loseReply s g chip core dep).cores = s.cores ∧ (loseReply s g chip core dep).hub = s.hub ∧
      ∀ j ∈ s.agenda, j ∈ (loseReply s g chip core dep).agenda := by
  rcases loseReply_cases s g chip core dep with ⟨h, -⟩ | ⟨a, -, -, h⟩
  · rw [h]
    exact ⟨rfl, rfl, fun _ h => h⟩
  · rw [h]
    exact ⟨rfl, rfl, fun _ h => List.mem_append_left _ h⟩

theorem drop_told (s : State) (g chip core dep hop sub k : Nat) :
    ∃ t, exec (.drop g chip core dep hop sub) s = .next t ∧ (fabOf t).drops = (fabOf s).drops ++ [(g, chip, core, dep)] ∧
      (∀ j ∈ s.agenda, j ∈ t.agenda) ∧ ((∀ a ∈ (fabOf s).awaited, a.result = none) → t.agenda = s.agenda) ∧
      (∀ a e, (fabOf s).awaited = [a] → a.result = some e → a.chip = chip → a.peer = core → a.answerAt = dep →
        (coreOf s a.core).gang = g →
        ⟨.gang g, max (gcycOf s a.core) e, phIssue - 5, some a.core, .deed .replyLost⟩ ∈ t.agenda) ∧
      (chip ≠ chipOf s → t.cores = s.cores) ∧
      (chip = chipOf s → coreAt s g core = some k → (coreOf s k).frozenAt = none →
        ∃ r ∈ (coreOf t k).raised, r.code = (if sub = 4 then 0x1D else 0x18) ∧ r.a = BitVec.ofNat 64 hop ∧
          r.b = BitVec.ofNat 64 sub) := by
  obtain ⟨u, hu⟩ : ∃ u, u = loseReply (dropNoted s (g, chip, core, dep)) g chip core dep := ⟨_, rfl⟩
  have cases := loseReply_cases (dropNoted s (g, chip, core, dep)) g chip core dep
  obtain ⟨hcores, hhub, hkeeps⟩ := loseReply_beside (dropNoted s (g, chip, core, dep)) g chip core dep
  rw [← hu] at cases hcores hhub hkeeps
  have hdrops : (fabOf u).drops = (fabOf s).drops ++ [(g, chip, core, dep)] := by rw [fabOf, hhub]; rfl
  have hnone : (∀ a ∈ (fabOf s).awaited, a.result = none) → u.agenda = s.agenda := fun hno => by
    rcases cases with ⟨h, -⟩ | ⟨a, ha, hsome, -⟩
    · rw [h]; rfl
    · rw [hno a ha] at hsome
      cases hsome
  have hlost : ∀ a e, (fabOf s).awaited = [a] → a.result = some e → a.chip = chip → a.peer = core → a.answerAt = dep →
      (coreOf s a.core).gang = g →
      ⟨.gang g, max (gcycOf s a.core) e, phIssue - 5, some a.core, .deed .replyLost⟩ ∈ u.agenda := by
    intro a e hone he hchip hpeer hdep hg
    rcases cases with ⟨-, h⟩ | ⟨b, hb, -, h⟩
    · refine absurd ⟨?_, hchip, hpeer, hdep, hg⟩ (h a ?_)
      · show a ∈ (fabOf s).awaited
        rw [hone]
        exact List.mem_singleton_self a
      · rw [he]; rfl
    · have hab : b = a := List.mem_singleton.mp (hone ▸ (show b ∈ (fabOf s).awaited from hb))
      rw [h, hab, he, ← hg]
      exact List.mem_append_right _ (List.mem_singleton_self _)
  have hx : exec (.drop g chip core dep hop sub) s = if chip = chipOf u then
      match coreAt u g core with
      | some k => .next (modCore u k fun c => raiseNow c (gcycOf u k) (if sub = 4 then 0x1D else 0x18) (BitVec.ofNat 64 hop)
          (BitVec.ofNat 64 sub) 0)
      | none => .next u
    else .next u := by rw [hu]; rfl
  have hchip : chipOf u = chipOf s := by rw [chipOf, fabOf, hhub]; rfl
  have hat : coreAt u g core = coreAt s g core := by rw [coreAt, hcores]; rfl
  rw [hchip, hat] at hx
  by_cases hc : chip = chipOf s
  · rw [if_pos hc] at hx
    cases hk : coreAt s g core with
    | none =>
      rw [hk] at hx
      refine ⟨u, hx, hdrops, hkeeps, hnone, hlost, fun h => absurd hc h, fun _ hk' _ => nomatch hk'⟩
    | some k' =>
      rw [hk] at hx
      refine ⟨_, hx, hdrops, hkeeps, hnone, hlost, fun h => absurd hc h, fun _ hk' hlive => ?_⟩
      rw [Option.some.inj hk', coreOf_modCore_self]
      exact raiseNow_mem _ _ _ _ _ (by rw [coreOf, hcores]; exact hlive)
  · rw [if_neg hc] at hx
    exact ⟨u, hx, hdrops, hkeeps, hnone, hlost, fun _ => hcores, fun h => absurd h hc⟩

/-! Missing arrivals (R241). -/

/-- The fabric after control frames of the Leek lanes. -/
def Leeked (a b : Fabric) : Prop := b = { a with links := b.links, discarded := b.discarded }

theorem Leeked.refl (a : Fabric) : Leeked a a := rfl

theorem Leeked.trans {a b c : Fabric} (h₁ : Leeked a b) (h₂ : Leeked b c) : Leeked a c := by
  refine Eq.trans h₂ ?_
  rw [Leeked] at h₁
  rw [h₁]

theorem leeked_wakeLane (s : State) (n : Nat) : Leeked (fabOf s) (fabOf (wakeLane s n)) := by
  unfold wakeLane
  split <;> exact rfl

theorem leeked_leekForward (s : State) (i : LeekItem) : Leeked (fabOf s) (fabOf (leekForward s i)) := by
  unfold leekForward
  dsimp only
  split
  · refine Leeked.trans ?_ (leeked_wakeLane ..)
    exact rfl
  · split <;> exact rfl

theorem leeked_leekSend (s : State) (g dst : Nat) (i : Instr) : Leeked (fabOf s) (fabOf (leekSend s g dst i)) := by
  unfold leekSend
  split
  · exact rfl
  · exact leeked_leekForward ..

theorem leeked_leekMembers (s : State) (g : Nat) (i : Instr) : Leeked (fabOf s) (fabOf (leekMembers s g i)) := by
  unfold leekMembers
  generalize others s g = ms
  induction ms generalizing s with
  | nil => exact .refl _
  | cons m ms ih => exact (leeked_leekSend ..).trans (ih _)

/-- The core and the fabric no longer wait for the arrival of ticket `tk`. -/
def unawaited (s : State) (k tk : Nat) : State :=
  modCore (setFab s { fabOf s with awaited := (fabOf s).awaited.filter fun a => a.ticket ≠ tk }) k fun c =>
    { c with recvs := c.recvs.filter fun r => decide (r.ticket ≠ tk) }

theorem coreOf_unawaited (s : State) (k tk : Nat) : coreOf (unawaited s k tk) k =
    { coreOf s k with recvs := (coreOf s k).recvs.filter fun r => decide (r.ticket ≠ tk) } := coreOf_modCore_self ..

theorem missing_recv_eq {s : State} {k tk : Nat} {r : Recv} (chip e : Nat)
    (hr : (coreOf s k).recvs.find? (fun r => decide (r.ticket = tk)) = some r) :
    exec (.missingArrival k chip e tk) s =
      match dropOf (fabOf s) (coreOf s k).gang (coreOf s k).idx (some r) none with
      | some d => .next (setFab (unawaited s k tk) { fabOf (unawaited s k tk) with drops := (fabOf s).drops.erase d })
      | none =>
        let u := leekMembers (setDead (unawaited s k tk) chip) (coreOf s k).gang (.deadpeer (coreOf s k).gang chip (fabOf s).chip)
        let v := postEvent u (gangPart u (coreOf s k).gang) .platform evDeadPeer [chip, e] []
        .next (modCore v k fun c => raiseNow c (gcycOf v k) 0x23 (BitVec.ofNat 64 chip) 0 0) := by
  rw [exec_missingArrival, execMissingArrival]
  dsimp only
  rw [hr]
  rfl

theorem recvs_unawaited (s : State) (k tk : Nat) : ∀ r ∈ (coreOf (unawaited s k tk) k).recvs, r.ticket ≠ tk := by
  rw [coreOf_unawaited]
  exact fun r hr => of_decide_eq_true (List.mem_filter.mp hr).2

section
variable {s : State} {k tk : Nat} {r : Recv} (chip e : Nat)
  (hr : (coreOf s k).recvs.find? (fun r => decide (r.ticket = tk)) = some r)
include hr

theorem missing_dead (hdrop : dropOf (fabOf s) (coreOf s k).gang (coreOf s k).idx (some r) none = none)
    (hlive : (coreOf s k).frozenAt = none) :
    ∃ t, exec (.missingArrival k chip e tk) s = .next t ∧ deadPeer (fabOf t) chip = true ∧
      (∀ r ∈ (coreOf t k).recvs, r.ticket ≠ tk) ∧
      ∃ r ∈ (coreOf t k).raised, r.code = 0x23 ∧ r.a = BitVec.ofNat 64 chip := by
  have hx := missing_recv_eq chip e hr
  rw [hdrop] at hx
  dsimp only at hx
  have sent := offCore_leekMembers (setDead (unawaited s k tk) chip) (coreOf s k).gang
    (.deadpeer (coreOf s k).gang chip (fabOf s).chip)
  have leeked := leeked_leekMembers (setDead (unawaited s k tk) chip) (coreOf s k).gang
    (.deadpeer (coreOf s k).gang chip (fabOf s).chip)
  generalize leekMembers (setDead (unawaited s k tk) chip) (coreOf s k).gang
    (.deadpeer (coreOf s k).gang chip (fabOf s).chip) = u at hx sent leeked
  have logged := logged_postEvent u (gangPart u (coreOf s k).gang) .platform evDeadPeer [chip, e] []
  generalize postEvent u (gangPart u (coreOf s k).gang) .platform evDeadPeer [chip, e] [] = v at hx logged
  have hcore : coreOf v k = coreOf (unawaited s k tk) k := by rw [coreOf, logged.cores, sent.cores]; rfl
  refine ⟨_, hx, ?_, ?_, ?_⟩
  · show deadPeer (fabOf v) chip = true
    rw [logged.fab, leeked]
    exact tget_tset_self false (fabOf s).dead chip true
  · rw [coreOf_modCore_self, raiseNow_spec, hcore]
    exact recvs_unawaited s k tk
  · rw [coreOf_modCore_self]
    obtain ⟨r, hmem, hcode, ha, -⟩ := raiseNow_mem (c := coreOf v k) (gcycOf v k) 0x23 (BitVec.ofNat 64 chip) 0 0
      (by rw [hcore, coreOf_unawaited]; exact hlive)
    exact ⟨r, hmem, hcode, ha⟩

theorem missing_dropped {d : Nat × Nat × Nat × Nat}
    (hdrop : dropOf (fabOf s) (coreOf s k).gang (coreOf s k).idx (some r) none = some d) :
    ∃ t, exec (.missingArrival k chip e tk) s = .next t ∧ (fabOf t).dead = (fabOf s).dead ∧
      (fabOf t).drops = (fabOf s).drops.erase d ∧ (coreOf t k).raised = (coreOf s k).raised ∧
      (∀ r ∈ (coreOf t k).recvs, r.ticket ≠ tk) := by
  have hx := missing_recv_eq chip e hr
  rw [hdrop] at hx
  refine ⟨_, hx, rfl, rfl, ?_, recvs_unawaited s k tk⟩
  show (coreOf (unawaited s k tk) k).raised = _
  rw [coreOf_unawaited]

end

/-- One that came is not missing. -/
theorem missing_came {s : State} {k tk : Nat} (chip e : Nat) (hr : ∀ r ∈ (coreOf s k).recvs, r.ticket ≠ tk)
    (ha : ∀ a ∈ (fabOf s).awaited, a.ticket ≠ tk) :
    ∃ t, exec (.missingArrival k chip e tk) s = .next t ∧ t.agenda = s.agenda ∧ (fabOf t).dead = (fabOf s).dead ∧
      (coreOf t k).raised = (coreOf s k).raised ∧ (coreOf t k).recvs = (coreOf s k).recvs := by
  have hnoR : (coreOf s k).recvs.find? (fun r => decide (r.ticket = tk)) = none :=
    List.find?_eq_none.mpr fun r hmem => by rw [decide_eq_true_eq]; exact hr r hmem
  have hnoA : (fabOf s).awaited.find? (fun a => decide (a.ticket = tk)) = none :=
    List.find?_eq_none.mpr fun a hmem => by rw [decide_eq_true_eq]; exact ha a hmem
  have hx : exec (.missingArrival k chip e tk) s = .next (unawaited s k tk) := by
    rw [exec_missingArrival, execMissingArrival]
    dsimp only
    rw [hnoR, hnoA]
    rfl
  refine ⟨_, hx, rfl, rfl, ?_, ?_⟩
  · rw [coreOf_unawaited]
  · rw [coreOf_unawaited]
    exact List.filter_eq_self.mpr fun r hmem => decide_eq_true (hr r hmem)

/-! Dead peers. -/

theorem deadPeer_setDead (s : State) (chip i : Nat) :
    deadPeer (fabOf (setDead s chip)) i = (deadPeer (fabOf s) i || decide (i = chip)) := by
  show tget false (tset false (fabOf s).dead chip true) i = _
  rw [tget_tset]
  split
  case isTrue h => rw [decide_eq_true h, Bool.or_true]
  case isFalse h => rw [decide_eq_false h, Bool.or_false]; rfl

theorem tget_clear (chips : List Nat) (d : Table Bool) (i : Nat) :
    tget false (chips.foldl (fun t c => tset false t c false) d) i = (tget false d i && decide (i ∉ chips)) := by
  induction chips generalizing d with
  | nil => rw [List.foldl_nil, decide_eq_true List.not_mem_nil, Bool.and_true]
  | cons c cs ih =>
    rw [List.foldl_cons, ih, tget_tset]
    by_cases h : i = c
    · rw [if_pos h, Bool.false_and, decide_eq_false (fun hn => hn (h ▸ List.mem_cons_self)), Bool.and_false]
    · have hmem : (i ∉ c :: cs) ↔ i ∉ cs := by rw [List.mem_cons, not_or]; exact ⟨And.right, fun hn => ⟨h, hn⟩⟩
      rw [if_neg h, decide_eq_decide.mpr hmem]

/-- Settles O40: a frame that meets nothing takes its link; DROPs and missing arrivals by what awaits them. -/
theorem fabricFramesPassOn : Obligations.FabricFramesPassOn := by
  unfold Obligations.FabricFramesPassOn
  refine ⟨fun s f hop n hup howns hfree => frameForward_passes hop hup howns hfree,
    fun s g chip core dep hop sub k => drop_told s g chip core dep hop sub k, fun s k chip e tk => ⟨fun r hr =>
      ⟨fun hdrop hlive => missing_dead chip e hr hdrop hlive, fun d hdrop => missing_dropped chip e hr hdrop⟩,
      fun hr ha => missing_came chip e hr ha⟩, fun s g dead r chips => ⟨?_, ?_⟩⟩
  · exact ⟨_, exec_deadpeer .., rfl, rfl, deadPeer_setDead s dead⟩
  · exact ⟨_, exec_deadpeerClear .., rfl, rfl, tget_clear chips _⟩

end Sys2Proof.Machine
end

section
/-! PROOF. Training, ALIGN, Leek lanes and link failure (R225, R227, R228, R243, R244, R335). -/

namespace Sys2Proof.Machine

theorem exec_linkTraining (n : Fin 16) (lam mu nbr : BitVec 12) (s : State) :
    exec (.linkTraining n lam mu nbr) s = execLinkTraining n lam mu nbr s := rfl
theorem exec_align (n : Fin 16) (origin : Nat) (s : State) : exec (.align n origin) s = execAlign n origin s := rfl
theorem exec_alignSend (s : State) : exec .alignSend s = execAlignSend s := rfl
theorem exec_leekLaneFree (n : Fin 16) (s : State) : exec (.leekLaneFree n) s = execLeekLaneFree n s := rfl
theorem exec_unknownLeekFrame (ty : BitVec 4) (s : State) : exec (.unknownLeekFrame ty) s =
    .next (setFab s { fabOf s with discarded := (fabOf s).discarded + 1 }) := rfl
theorem exec_linkDown (n : Fin 16) (s : State) : exec (.linkDown n) s = execLinkDown n s := rfl

/-! Links. -/

/-- The fabric with link `n` changed. -/
def modLink (f : Fabric) (n : Nat) (g : LinkState → LinkState) : Fabric := { f with links := tmod {} f.links n g }

theorem linkAt_modLink (f : Fabric) (n : Nat) (g : LinkState → LinkState) (j : Nat) :
    linkAt (modLink f n g) j = if j = n then g (linkAt f n) else linkAt f j := tget_tset ..

theorem linkDim_fin (n : Fin 16) : linkDim n.val = n.val / 4 := by
  have h := n.isLt
  rw [linkDim]
  omega

/-! Training (R225, R227, R335). -/

theorem linkTraining_single {s : State} {n : Fin 16} (lam mu nbr : BitVec 12) (h : podSize (fabOf s) (n.val / 4) ≤ 1) :
    exec (.linkTraining n lam mu nbr) s = .next s := by
  rw [exec_linkTraining, execLinkTraining, linkDim_fin]
  exact if_pos h

theorem linkTraining_trains {s : State} {n : Fin 16} (lam mu nbr : BitVec 12) (h : 1 < podSize (fabOf s) (n.val / 4)) :
    ∃ t, exec (.linkTraining n lam mu nbr) s = .next t ∧
      t.cores = s.cores ∧ t.agenda = s.agenda ∧ (∀ j, j ≠ n.val → linkAt (fabOf t) j = linkAt (fabOf s) j) ∧
      let l := linkAt (fabOf t) n.val
      l.lat = lam.toNat ∧ l.llat = mu.toNat ∧ l.nbr = nbr.toNat ∧
        l.up = (!(linkAt (fabOf s) n.val).retired && decide (lam ≠ 0)) := by
  let train (l : LinkState) : LinkState :=
    { l with lat := lam.toNat, llat := mu.toNat, nbr := nbr.toNat, up := !l.retired && decide (lam.toNat ≠ 0), errs := [] }
  have hx : exec (.linkTraining n lam mu nbr) s = .next (setFab s (modLink (fabOf s) n.val train)) := by
    rw [exec_linkTraining, execLinkTraining, linkDim_fin]
    exact if_neg (by omega)
  have hself : linkAt (modLink (fabOf s) n.val train) n.val = train (linkAt (fabOf s) n.val) := by
    rw [linkAt_modLink, if_pos rfl]
  have hzero : decide (lam.toNat ≠ 0) = decide (lam ≠ 0) :=
    decide_eq_decide.mpr (not_congr ⟨fun h => BitVec.eq_of_toNat_eq h, fun h => by rw [h]; rfl⟩)
  refine ⟨_, hx, rfl, rfl, fun j hj => (linkAt_modLink ..).trans (if_neg hj), ?_⟩
  show (linkAt (modLink (fabOf s) n.val train) n.val).lat = _ ∧ (linkAt (modLink (fabOf s) n.val train) n.val).llat = _ ∧
    (linkAt (modLink (fabOf s) n.val train) n.val).nbr = _ ∧ (linkAt (modLink (fabOf s) n.val train) n.val).up = _
  rw [hself, ← hzero]
  exact ⟨rfl, rfl, rfl, rfl⟩

/-! ALIGN (R227, R228). -/

section
variable {s : State} {n : Fin 16} {origin : Nat}

theorem align_keeps (h : (linkAt (fabOf s) n.val).up = false ∨
    ((fabOf s).root || (fabOf s).aligned) = true ∧ s.pod = origin + inboundMu (fabOf s) n.val) :
    exec (.align n origin) s = .next s := by
  rw [exec_align, execAlign]
  rcases h with hdown | ⟨hroot, hpod⟩
  · rw [hdown]; rfl
  · rw [← Bool.not_or, hroot, hpod, if_neg (show ¬(!true) = true by decide), if_pos rfl, ite_self]

theorem align_fails (hup : (linkAt (fabOf s) n.val).up = true) (hroot : ((fabOf s).root || (fabOf s).aligned) = true)
    (hpod : s.pod ≠ origin + inboundMu (fabOf s) n.val) :
    exec (.align n origin) s = .next (post s ⟨.pod, s.pod, phHub, none, .event (.linkDown n)⟩) := by
  rw [exec_align, execAlign]
  rw [hup, if_neg (by decide), ← Bool.not_or, hroot, if_neg (by decide), if_neg hpod]
  rfl

theorem align_first (hup : (linkAt (fabOf s) n.val).up = true) (hroot : ((fabOf s).root || (fabOf s).aligned) = false) :
    ∃ t, exec (.align n origin) s = .next t ∧ t.pod = origin + inboundMu (fabOf s) n.val ∧
      (fabOf t).aligned = true ∧ t.cores = s.cores ∧ t.gangs = s.gangs := by
  refine ⟨alignPod s (origin + inboundMu (fabOf s) n.val), ?_, rfl, rfl, rfl, rfl⟩
  rw [exec_align, execAlign]
  rw [hup, if_neg (by decide), ← Bool.not_or, hroot]
  rfl

end

/-! Control frames on the lanes (R243). -/

/-- Control frames are put on lanes: of a link only its queue changes, and the queue of a link that is down stays. -/
structure Queued (s t : State) : Prop where
  cores : t.cores = s.cores
  gangs : t.gangs = s.gangs
  pod : t.pod = s.pod
  fab : Leeked (fabOf s) (fabOf t)
  links : ∀ j, { linkAt (fabOf t) j with queue := [] } = { linkAt (fabOf s) j with queue := [] }
  down : ∀ j, (linkAt (fabOf s) j).up = false → (linkAt (fabOf t) j).queue = (linkAt (fabOf s) j).queue

theorem Queued.refl (s : State) : Queued s s := ⟨rfl, rfl, rfl, .refl _, fun _ => rfl, fun _ _ => rfl⟩

theorem Queued.up_eq {s t : State} (h : Queued s t) (j : Nat) : (linkAt (fabOf t) j).up = (linkAt (fabOf s) j).up := by
  have h := congrArg LinkState.up (h.links j)
  exact h

theorem Queued.trans {s t u : State} (h₁ : Queued s t) (h₂ : Queued t u) : Queued s u :=
  ⟨h₂.cores.trans h₁.cores, h₂.gangs.trans h₁.gangs, h₂.pod.trans h₁.pod, h₁.fab.trans h₂.fab,
    fun j => (h₂.links j).trans (h₁.links j), fun j hj => (h₂.down j ((h₁.up_eq j).trans hj)).trans (h₁.down j hj)⟩

theorem Queued.foldl {α : Type} {f : State → α → State} (h : ∀ s a, Queued s (f s a)) (as : List α) (s : State) :
    Queued s (as.foldl f s) := by
  induction as generalizing s with
  | nil => exact .refl s
  | cons a as ih => exact (h s a).trans (ih (f s a))

/-- A lane is woken beside the links. -/
theorem wakeLane_fab (s : State) (n : Nat) : fabOf (wakeLane s n) = fabOf s ∧ (wakeLane s n).cores = s.cores ∧
    (wakeLane s n).gangs = s.gangs ∧ (wakeLane s n).pod = s.pod := by
  unfold wakeLane
  split <;> exact ⟨rfl, rfl, rfl, rfl⟩

theorem leekQueue_links (s : State) (n : Nat) (i : LeekItem) : fabOf (leekQueue s n i) =
    modLink (fabOf s) n fun l => { l with queue := l.queue ++ [i] } := (wakeLane_fab ..).1

theorem leekQueue_same (s : State) (n : Nat) (i : LeekItem) : (leekQueue s n i).cores = s.cores ∧
    (leekQueue s n i).gangs = s.gangs ∧ (leekQueue s n i).pod = s.pod := (wakeLane_fab ..).2

theorem leekOut_up {f : Fabric} {dst n : Nat} (h : leekOut f dst = some n) : (linkAt f n).up = true := by
  obtain ⟨l, -, hl⟩ := Option.bind_eq_some_iff.mp h
  have hup (n : Nat) : upOf f f.chip n = (linkAt f n).up := if_pos rfl
  rw [pairLink] at hl
  split at hl
  case isTrue h1 =>
    rw [← Option.some.inj hl, ← hup]
    exact h1
  case isFalse =>
    split at hl
    case isTrue h2 =>
      rw [← Option.some.inj hl, ← hup]
      exact h2
    case isFalse => cases hl

theorem queued_leekForward (s : State) (i : LeekItem) : Queued s (leekForward s i) := by
  unfold leekForward
  dsimp only
  split
  case h_1 n h =>
    have hfab := leekQueue_links s n i
    obtain ⟨hcores, hgangs, hpod⟩ := leekQueue_same s n i
    refine ⟨hcores, hgangs, hpod, by rw [hfab]; exact rfl, fun j => ?_, fun j hj => ?_⟩
    · rw [hfab, linkAt_modLink]
      split
      case isTrue hjn => rw [hjn]
      case isFalse => rfl
    · have hne : j ≠ n := fun hjn => by
        rw [hjn, leekOut_up h] at hj
        cases hj
      rw [hfab, linkAt_modLink, if_neg hne]
  case h_2 =>
    split <;> exact ⟨rfl, rfl, rfl, rfl, fun _ => rfl, fun _ _ => rfl⟩

/-- The frames of a link that is down leave its lane. -/
theorem reroute_empties {s : State} {n : Nat} (hdown : (linkAt (fabOf s) n).up = false) :
    (reroute s n).cores = s.cores ∧ (reroute s n).gangs = s.gangs ∧ (linkAt (fabOf (reroute s n)) n).queue = [] ∧
      (fabOf (reroute s n)).leek = (fabOf s).leek ∧
      ∀ j, { linkAt (fabOf (reroute s n)) j with queue := [] } = { linkAt (fabOf s) j with queue := [] } := by
  let f : Fabric := { modLink (fabOf s) n (fun l => { l with queue := [] }) with
    discarded := (fabOf s).discarded + ((linkAt (fabOf s) n).queue.filter fun i => isAlign i.msg).length }
  have hlink (j : Nat) : linkAt f j = if j = n then { linkAt (fabOf s) n with queue := [] } else linkAt (fabOf s) j :=
    linkAt_modLink (fabOf s) n (fun l => { l with queue := [] }) j
  have queued : Queued (setFab s f) (reroute s n) := .foldl queued_leekForward _ _
  refine ⟨queued.cores, queued.gangs, ?_, ?_, fun j => ?_⟩
  · rw [queued.down n (by show (linkAt f n).up = false; rw [hlink, if_pos rfl]; exact hdown)]
    show (linkAt f n).queue = []
    rw [hlink, if_pos rfl]
  · rw [queued.fab]
    rfl
  · rw [queued.links]
    show { linkAt f j with queue := [] } = _
    rw [hlink]
    split
    case isTrue h => rw [h]
    case isFalse => rfl

/-! ALIGN_SEND (R228). -/

/-- The ALIGN frame for link `n`. -/
def alignItem (s : State) (n : Nat) : LeekItem :=
  ⟨.align (Fin.ofNat 16 (reverseLink n)) s.pod, noGang, (linkAt (fabOf s) n).nbr, s.pod⟩

theorem alignItem_congr {s t : State} {n : Nat} (hpod : t.pod = s.pod) (hlink : (linkAt (fabOf t) n).nbr = (linkAt (fabOf s) n).nbr) :
    alignItem t n = alignItem s n := by rw [alignItem, alignItem, hpod, hlink]

theorem execAlignSend_eq (s : State) : exec .alignSend s = .next (((List.range 16).filter fun n => (linkAt (fabOf s) n).up).foldl
    (fun s n => leekQueue s n (alignItem s n)) s) := rfl

theorem aligns_queued {ns : List Nat} (hnodup : ns.Nodup) (s : State) :
    let t := ns.foldl (fun s n => leekQueue s n (alignItem s n)) s
    t.cores = s.cores ∧ t.gangs = s.gangs ∧
      ∀ j, (linkAt (fabOf t) j).queue = (linkAt (fabOf s) j).queue ++ if j ∈ ns then [alignItem s j] else [] := by
  induction ns generalizing s with
  | nil => exact ⟨rfl, rfl, fun j => (List.append_nil _).symm⟩
  | cons n ns ih =>
    obtain ⟨hn, hnodup⟩ := List.nodup_cons.mp hnodup
    obtain ⟨hcores, hgangs, hpod⟩ := leekQueue_same s n (alignItem s n)
    have hfab := leekQueue_links s n (alignItem s n)
    obtain ⟨hcores', hgangs', hqueue⟩ := ih hnodup (leekQueue s n (alignItem s n))
    refine ⟨hcores'.trans hcores, hgangs'.trans hgangs, fun j => (hqueue j).trans ?_⟩
    by_cases hj : j = n
    · rw [hfab, linkAt_modLink, if_pos hj, if_neg (hj ▸ hn), if_pos (hj ▸ List.mem_cons_self), List.append_nil, hj]
    · have hitem : alignItem (leekQueue s n (alignItem s n)) j = alignItem s j := by
        refine alignItem_congr hpod ?_
        rw [hfab, linkAt_modLink, if_neg hj]
      have hmem : (j ∈ n :: ns) ↔ j ∈ ns := by rw [List.mem_cons, or_iff_right hj]
      rw [hitem, hfab, linkAt_modLink, if_neg hj]
      simp only [hmem]

theorem alignSend_queues (s : State) : ∃ t, exec .alignSend s = .next t ∧ t.cores = s.cores ∧ t.gangs = s.gangs ∧
    ∀ n < 16, (linkAt (fabOf t) n).queue = (linkAt (fabOf s) n).queue ++
      if (linkAt (fabOf s) n).up then
        [⟨.align (Fin.ofNat 16 (reverseLink n)) s.pod, noGang, (linkAt (fabOf s) n).nbr, s.pod⟩] else [] := by
  obtain ⟨hcores, hgangs, hqueue⟩ := aligns_queued ((List.nodup_range (n := 16)).filter fun n => (linkAt (fabOf s) n).up) s
  refine ⟨_, execAlignSend_eq s, hcores, hgangs, fun n hn => (hqueue n).trans ?_⟩
  have hmem : n ∈ (List.range 16).filter (fun n => (linkAt (fabOf s) n).up) ↔ (linkAt (fabOf s) n).up = true := by
    rw [List.mem_filter, List.mem_range]
    exact and_iff_right hn
  simp only [hmem]
  rfl

/-! LEEK_LANE_FREE (R243). -/

theorem leekLane_idle {s : State} {n : Fin 16} (h : s.pod < (linkAt (fabOf s) n.val).freeAt ∨ (linkAt (fabOf s) n.val).queue = []) :
    exec (.leekLaneFree n) s = .next s := by
  rw [exec_leekLaneFree, execLeekLaneFree]
  exact if_pos h

section
variable {s : State} {n : Fin 16} (hfree : (linkAt (fabOf s) n.val).freeAt ≤ s.pod) (hq : (linkAt (fabOf s) n.val).queue ≠ [])
include hfree hq

theorem leekLane_down (hdown : (linkAt (fabOf s) n.val).up = false) :
    ∃ t, exec (.leekLaneFree n) s = .next t ∧ t.cores = s.cores ∧ (linkAt (fabOf t) n.val).queue = [] ∧
      (fabOf t).leek = (fabOf s).leek := by
  obtain ⟨hcores, -, hqueue, hleek, -⟩ := reroute_empties hdown
  refine ⟨reroute s n.val, ?_, hcores, hqueue, hleek⟩
  rw [exec_leekLaneFree, execLeekLaneFree]
  rw [if_neg fun h => h.elim (Nat.not_lt.mpr hfree) hq, hdown]
  rfl

theorem leekLane_sends (hup : (linkAt (fabOf s) n.val).up = true) :
    let l := linkAt (fabOf s) n.val
    ∃ t, exec (.leekLaneFree n) s = .next t ∧ t.cores = s.cores ∧ (linkAt (fabOf t) n.val).freeAt = s.pod + 11 ∧
      (linkAt (fabOf t) n.val).queue = (laneNext l.queue l.turn).2.1 ∧
      (fabOf t).leek = (fabOf s).leek ++ [(n.val, s.pod, (laneNext l.queue l.turn).1.map (leaving s.pod))] := by
  intro l
  let sent : LinkState := { l with queue := (laneNext l.queue l.turn).2.1, turn := (laneNext l.queue l.turn).2.2, freeAt := s.pod + 11 }
  let f : Fabric := { fabOf s with
    links := tset {} (fabOf s).links n.val sent
    leek := (fabOf s).leek ++ [(n.val, s.pod, (laneNext l.queue l.turn).1.map (leaving s.pod))] }
  have hlink : linkAt f n.val = sent := tget_tset_self ({} : LinkState) (fabOf s).links n.val sent
  have hx : exec (.leekLaneFree n) s = .next (if (laneNext l.queue l.turn).2.1 = [] then setFab s f else
      postPod (setFab s f) (s.pod + 11) phHub (.leekLaneFree n)) := by
    rw [exec_leekLaneFree, execLeekLaneFree, if_neg fun h => h.elim (Nat.not_lt.mpr hfree) hq,
      if_neg (show ¬(!(linkAt (fabOf s) n.val).up) = true by rw [hup]; decide)]
    rfl
  obtain ⟨t, ht, hfab, hcores⟩ : ∃ t, exec (.leekLaneFree n) s = .next t ∧ fabOf t = f ∧ t.cores = s.cores := by
    refine ⟨_, hx, ?_⟩
    split <;> exact ⟨rfl, rfl⟩
  refine ⟨t, ht, hcores, ?_, ?_, ?_⟩
  · rw [hfab, hlink]
  · rw [hfab, hlink]
  · rw [hfab]

end

/-! LINK_DOWN (R228, R243, R335). -/

/-- The record of a link's failure: errors counted, and the link retired where they last. -/
theorem linkFailed_fab (s : State) (n : Fin 16) (hdown : (linkAt (fabOf s) n.val).up = false) :
    let t := if (houseOf s).lasting.contains (.link n) then retireUnit s (.link n) else s
    t.cores = s.cores ∧ t.gangs = s.gangs ∧ (linkAt (fabOf t) n.val).up = false ∧
      ∀ j, j ≠ n.val → linkAt (fabOf t) j = linkAt (fabOf s) j := by
  intro t
  dsimp only [t]
  split
  · have logged (v : State) (ps : List Nat) : Logged v (postPlatform (countLife v 6 (unitPos (.link n)) 1) ps evRetired
        [unitPos (.link n)]) := (logged_countLife ..).trans (logged_postPlatform ..)
    let retired (l : LinkState) : LinkState := { l with up := false, retired := true }
    have hlink (j : Nat) : linkAt (modLink (fabOf s) n.val retired) j =
        if j = n.val then retired (linkAt (fabOf s) n.val) else linkAt (fabOf s) j := linkAt_modLink ..
    refine ⟨(logged _ _).cores, (logged _ _).gangs, ?_, fun j hj => ?_⟩
    · rw [retireUnit, (logged _ _).fab]
      show (linkAt (modLink (fabOf s) n.val retired) n.val).up = false
      rw [hlink, if_pos rfl]
    · rw [retireUnit, (logged _ _).fab]
      show linkAt (modLink (fabOf s) n.val retired) j = _
      rw [hlink, if_neg hj]
  · exact ⟨rfl, rfl, hdown, fun _ _ => rfl⟩

theorem linkDown_falls {s : State} (n : Fin 16) (hidle : ∀ g, (gangOf s g).hasRun = false) :
    ∃ t, exec (.linkDown n) s = .next t ∧ t.cores = s.cores ∧ t.gangs = s.gangs ∧ (linkAt (fabOf t) n.val).up = false ∧
      (linkAt (fabOf t) n.val).queue = [] ∧
      ∀ j, j ≠ n.val → { linkAt (fabOf t) j with queue := [] } = { linkAt (fabOf s) j with queue := [] } := by
  let fallen (l : LinkState) : LinkState := { l with up := false }
  have hlink (j : Nat) : linkAt (modLink (fabOf s) n.val fallen) j =
      if j = n.val then fallen (linkAt (fabOf s) n.val) else linkAt (fabOf s) j := linkAt_modLink ..
  obtain ⟨v, hv⟩ : ∃ v, v = setFab s (modLink (fabOf s) n.val fallen) := ⟨_, rfl⟩
  have hcores : v.cores = s.cores := by rw [hv]; rfl
  have hgangs : v.gangs = s.gangs := by rw [hv]; rfl
  have hfab : fabOf v = modLink (fabOf s) n.val fallen := by rw [hv]; rfl
  obtain ⟨ps, hurt, hx⟩ : ∃ ps hurt, exec (.linkDown n) s = .next ((hurt : List Nat).foldl (fun s g =>
      if (gangOf s g).hasRun then abortGang s g .platform else s)
      (reroute (let u := countError (postPlatform v ps evLinkDown [n.val]) (.link n)
        if (houseOf u).lasting.contains (.link n) then retireUnit u (.link n) else u) n.val)) := by
    subst hv
    exact ⟨_, _, rfl⟩
  have logged := (logged_postPlatform v ps evLinkDown [n.val] []).trans (logged_countError _ (.link n))
  generalize countError (postPlatform v ps evLinkDown [n.val]) (.link n) = u at hx logged
  obtain ⟨hcores', hgangs', hup, hothers⟩ := linkFailed_fab u n (by rw [logged.fab, hfab, hlink, if_pos rfl])
  dsimp only at hx
  generalize (if (houseOf u).lasting.contains (.link n) then retireUnit u (.link n) else u) = w at hx hcores' hgangs' hup hothers
  obtain ⟨hcores'', hgangs'', hqueue, -, hlinks⟩ := reroute_empties hup
  have hup' : (linkAt (fabOf (reroute w n.val)) n.val).up = false := (congrArg LinkState.up (hlinks n.val)).trans hup
  have hallgangs : (reroute w n.val).gangs = s.gangs := by rw [hgangs'', hgangs', logged.gangs, hgangs]
  rw [foldl_id fun g _ => if_neg (by rw [gangOf, hallgangs]; exact Bool.eq_false_iff.mp (hidle g))] at hx
  refine ⟨_, hx, ?_, hallgangs, hup', hqueue, fun j hj => ?_⟩
  · rw [hcores'', hcores', logged.cores, hcores]
  · rw [hlinks, hothers j hj, logged.fab, hfab, hlink, if_neg hj]

/-- Settles O41: each event changes its own link alone; a link that is down takes no frame of a lane. -/
theorem linkEventsTakeEffect : Obligations.LinkEventsTakeEffect := by
  unfold Obligations.LinkEventsTakeEffect
  refine ⟨fun s n lam mu nbr => ⟨fun h => linkTraining_single lam mu nbr h, fun h => linkTraining_trains lam mu nbr h⟩,
    fun s n origin => ⟨fun h => align_keeps h, fun hup hroot hpod => align_fails hup hroot hpod,
      fun hup hroot => align_first hup hroot⟩, alignSend_queues,
    fun s n => ⟨fun h => leekLane_idle h, fun hfree hq hdown => leekLane_down hfree hq hdown,
      fun hfree hq hup => leekLane_sends hfree hq hup⟩, fun s ty => exec_unknownLeekFrame ty s,
    fun s n hidle => linkDown_falls n hidle⟩

end Sys2Proof.Machine
end

section
/-! PROOF. MBSEND, MBRECV and MBSTAT at their arrival (R275, R377 to R379, R381). -/

namespace Sys2Proof.Machine

theorem exec_mbsend (m : Mv) (s : State) : exec (.mbsend m) s = trigger (.mbsend m) m s mbSend := rfl
theorem exec_mbrecv (m : Mv) (s : State) : exec (.mbrecv m) s = trigger (.mbrecv m) m s mbRecv := rfl
theorem exec_mbstat (m : Mv) (s : State) : exec (.mbstat m) s = execMbstat m s := rfl

/-! Acceptance. -/

/-- The command that FB of the mailboxes accepts. -/
def mbCmd (c : Core) (fl : Flight) (kind p dst : Nat) : EngineCmd :=
  { mkCmd kind (mbStart c fl.arrive) (mbSad c) p (mbLen c) (mbTag c) dst fl with skew := c.polver.toNat }

/-- The units of a command, as they are scheduled. -/
def mbPosts (k id kind st : Nat) (s : State) (i : Nat) : State :=
  if kind = 9 then postDeed s k (st + 4 + i) phRead (.mbRead id i)
  else postDeed (postDeed s k (st + 3 + i) phRead (.mbRead id i)) k (st + 4 + i) phWrite (.mbWrite id i)

theorem booked_mbPosts (k id kind st : Nat) (s : State) (i : Nat) : Booked s (mbPosts k id kind st s i) :=
  booked_ite (booked_postDeed ..) ((booked_postDeed ..).trans (booked_postDeed ..))

theorem hub_foldl {α : Type} {f : State → α → State} (h : ∀ s a, (f s a).hub = s.hub) (as : List α) (s : State) :
    (as.foldl f s).hub = s.hub := by
  induction as generalizing s with
  | nil => rfl
  | cons a as ih => exact (ih _).trans (h s a)

/-- The accesses and stamps of a command are reserved. -/
def mbReserve (fl : Flight) (c : Core) (kind id : Nat) (k : Nat) (s : State) : State :=
  let st := mbStart c fl.arrive
  let n := unitCount (mbLen c)
  let ch := commandCharge c fl mbReads
  let s := if kind = 9 ∧ fl.arrive < st then postDeed s k st phSample (.mbVersion id) else s
  let s := reserveAll s k ch ((List.range n).map fun i => (st + 4 + i, mbSad c + 256 * i, unitBytes (mbLen c) i, if kind = 9 then 0 else 1))
  if kind = 9 then s
  else reserveStamps s k ch ((List.range n).flatMap fun i => (lastTiles (mbSad c) (mbLen c) i).map fun t => (st + 4 + i, t))

theorem mbReserve_books (fl : Flight) (c : Core) (kind id k : Nat) (s : State) : Booked s (mbReserve fl c kind id k s) := by
  unfold mbReserve
  dsimp only
  have reserved := (booked_ite (p := kind = 9 ∧ fl.arrive < mbStart c fl.arrive)
    (booked_postDeed s k (mbStart c fl.arrive) phSample (.mbVersion id)) (.refl s)).trans (booked_reserveAll _ k
      (commandCharge c fl mbReads) ((List.range (unitCount (mbLen c))).map fun i =>
        (mbStart c fl.arrive + 4 + i, mbSad c + 256 * i, unitBytes (mbLen c) i, if kind = 9 then 0 else 1)) 1 false)
  exact booked_ite reserved (reserved.trans (booked_reserveStamps ..))

theorem mbReserve_hub (fl : Flight) (c : Core) (kind id k : Nat) (s : State) : (mbReserve fl c kind id k s).hub = s.hub := by
  unfold mbReserve
  dsimp only
  split <;> split <;> rfl

theorem mbAccept_eq (s : State) (fl : Flight) (kind p dst : Nat) : mbAccept s fl kind p dst =
    postDeed ((List.range (unitCount (mbLen (myCore s)))).foldl (mbPosts (me s) (myCore s).cmdSeq kind (mbStart (myCore s) fl.arrive))
      (mbReserve fl (myCore s) kind (myCore s).cmdSeq (me s) (modMe s fun c => addCmd c (mbCmd (myCore s) fl kind p dst))))
      (me s) (mbStart (myCore s) fl.arrive + 24) phEnd (.mbDone (myCore s).cmdSeq) := by
  rfl

/-- A mailbox command is accepted: `js` and its end are scheduled, and it is the last of its core's commands. -/
def MbAccepted (s t : State) (fl : Flight) (kind p dst : Nat) (js : List Job) : Prop :=
  let c := myCore s
  ScratchSame s t ∧ (∀ j ∈ s.agenda, j ∈ t.agenda) ∧ (∀ j ∈ js, j ∈ t.agenda) ∧
    ownJob s (mbStart c fl.arrive + 24) phEnd (.deed (.mbDone c.cmdSeq)) ∈ t.agenda ∧ RaisesOnly [4, 5] c (coreOf t (me s)) ∧
    let d := coreOf t (me s)
    d.cmds = c.cmds ++ [{ mbCmd c fl kind p dst with id := c.cmdSeq }] ∧
    d.s = c.s ∧ d.v = c.v ∧ d.k = c.k ∧ d.p = c.p ∧ d.ports = c.ports ∧ d.pc = c.pc

theorem mbAccept_accepts {s u : State} (fl : Flight) (kind p dst : Nat) {d : Core} {js : List Job} (before : Booked s u)
    (hcore : coreOf u (me s) = noted (myCore s) d)
    (hjs : ∀ v, SameRun s v → ∀ j ∈ js, j ∈ ((List.range (unitCount (mbLen (myCore s)))).foldl
      (mbPosts (me s) (myCore s).cmdSeq kind (mbStart (myCore s) fl.arrive)) v).agenda) :
    MbAccepted s (mbAccept u fl kind p dst) fl kind p dst js ∧ (mbAccept u fl kind p dst).hub = u.hub := by
  have hme : me u = me s := by rw [me, before.cur, me]
  have hmine : myCore u = noted (myCore s) d := by rw [myCore, hme]; exact hcore
  have run : SameRun s u := ⟨(before.cores (me s)).gang, before.gangs, before.cur⟩
  obtain ⟨w, hw⟩ : ∃ w, w = modMe u fun c => addCmd c (mbCmd (myCore s) fl kind p dst) := ⟨_, rfl⟩
  have hwcore : coreOf w (me s) = addCmd (noted (myCore s) d) (mbCmd (myCore s) fl kind p dst) := by
    rw [hw, modMe, hme, coreOf_modCore_self, hcore]
  have hwothers (j : Nat) (hj : j ≠ me s) : coreOf w j = coreOf u j := by
    rw [hw, modMe, hme, coreOf_modCore_ne _ _ hj]
  have runw : SameRun s w := hw ▸ run.modMe fun _ => rfl
  have hwhub : w.hub = u.hub := by rw [hw]; rfl
  have hwkeeps : ∀ j ∈ s.agenda, j ∈ w.agenda := by rw [hw]; exact before.keeps
  have heq : mbAccept u fl kind p dst = postDeed ((List.range (unitCount (mbLen (myCore s)))).foldl
      (mbPosts (me s) (myCore s).cmdSeq kind (mbStart (myCore s) fl.arrive))
      (mbReserve fl (noted (myCore s) d) kind (myCore s).cmdSeq (me s) w)) (me s) (mbStart (myCore s) fl.arrive + 24) phEnd
      (.mbDone (myCore s).cmdSeq) := by
    have h := mbAccept_eq u fl kind p dst
    rw [hmine, hme] at h
    rw [hw]
    exact h
  rw [heq]
  have reserved := mbReserve_books fl (noted (myCore s) d) kind (myCore s).cmdSeq (me s) w
  have hrhub := mbReserve_hub fl (noted (myCore s) d) kind (myCore s).cmdSeq (me s) w
  generalize mbReserve fl (noted (myCore s) d) kind (myCore s).cmdSeq (me s) w = x at reserved hrhub
  have posted : Booked x _ := .foldl (booked_mbPosts (me s) (myCore s).cmdSeq kind (mbStart (myCore s) fl.arrive))
    (List.range (unitCount (mbLen (myCore s)))) x
  have hphub := hub_foldl (f := mbPosts (me s) (myCore s).cmdSeq kind (mbStart (myCore s) fl.arrive))
    (fun v i => by rw [mbPosts]; split <;> rfl) (List.range (unitCount (mbLen (myCore s)))) x
  have hjobs := hjs x (runw.booked reserved)
  generalize (List.range (unitCount (mbLen (myCore s)))).foldl (mbPosts (me s) (myCore s).cmdSeq kind
    (mbStart (myCore s) fl.arrive)) x = y at posted hphub hjobs
  have whole := reserved.trans posted
  have runy := runw.booked whole
  have mine := whole.cores (me s)
  rw [hwcore] at mine
  have added : RaisesOnly [4, 5] (myCore s) (addCmd (noted (myCore s) d) (mbCmd (myCore s) fl kind p dst)) := by
    have := (before.cores (me s)).raises
    rwa [hcore] at this
  refine ⟨⟨fun j b => ?_, fun j hj => ?_, fun j hj => ?_, runy.posts .., added.trans mine.raises, mine.cmds, mine.s, mine.v, mine.k,
    mine.p, mine.ports, mine.pc⟩, ?_⟩
  · show tget 0 (coreOf y j).scratch b = _
    rw [(whole.cores j).scratch]
    by_cases hj : j = me s
    · rw [hj, hwcore]; rfl
    · rw [hwothers j hj, (before.cores j).scratch]
  · exact List.mem_append_left _ (whole.keeps j (hwkeeps j hj))
  · exact List.mem_append_left _ (hjobs j hj)
  · exact hphub.trans (hrhub.trans hwhub)

/-! MBSEND and MBRECV that pass their checks. -/

theorem mbPair_congr {s u : State} (g x : Nat) (hhub : u.hub = s.hub) (hgangs : u.gangs = s.gangs) : mbPair u g x = mbPair s g x := by
  simp only [mbPair, mailGroupsOf, ctxOf, authOf, gangOf, hhub, hgangs]

theorem sendRefusal_congr {s u : State} (p : Option Nat) (hhub : u.hub = s.hub) : sendRefusal u p = sendRefusal s p := by
  cases p with
  | none => rfl
  | some p =>
    simp only [sendRefusal, pairActive, turnOf, envOf, hhub]
    rfl

/-- What R377 asks of a mailbox command's span and start. -/
def MbPasses (c : Core) (fl : Flight) : Prop :=
  engineLen (mbLen c) 4096 = true ∧ engineSpan (mbSad c) (mbLen c) 32 = true ∧
    engineClaimed c (mbSad c) (mbLen c) fl.arrive = true ∧
    (mbTimed c = true → fl.arrive ≤ mbStart c fl.arrive ∧ c.suppress = false)

theorem mbSpanFaults_of_passes {c : Core} {fl : Flight} (h : MbPasses c fl) : mbSpanFaults c fl.arrive = [] := by
  obtain ⟨hlen, hspan, hclaimed, -⟩ := h
  rw [mbSpanFaults, mbSpanOk, hlen, hspan, hclaimed]
  rfl

theorem mbSlip_of_passes {u : State} {fl : Flight} (h : MbPasses (myCore u) fl) : mbSlip u fl = (u, some false) := by
  obtain ⟨-, -, -, htimed⟩ := h
  rw [mbSlip]
  cases hb : mbTimed (myCore u) with
  | false => rfl
  | true =>
    obtain ⟨hle, hgo⟩ := htimed hb
    rw [mbStart, if_pos hb] at hle
    rw [if_pos rfl, if_neg (by omega), hgo]

/-- The turns after one is given. -/
theorem turnOf_setTurn (s : State) (p : Nat) (b : Bool) (q : Nat) :
    turnOf (setTurn s p b) q = if q = p then b else turnOf s q := tget_tset false (envOf s).turn p q b

/-- A mailbox command is accepted, and the turn of pair `p` is `turn`. -/
def MbAccepts (i : Instr) (s : State) (fl : Flight) (kind p dst : Nat) (turn : Bool) (js : List Job) : Prop :=
  ∃ t, exec i s = .next t ∧ MbAccepted s t fl kind p dst js ∧ (envOf t).bytes = (envOf s).bytes ∧
    ∀ q, turnOf t q = if q = p then turn else turnOf s q

theorem booked_setTurn (s : State) (p : Nat) (b : Bool) : Booked s (setTurn s p b) := booked_of_cores rfl rfl rfl fun _ h => h

section
variable {s : State} {fl : Flight} {m : Mv} (h : s.cur.flight = some fl)
include h

omit h in
theorem mbAccepts_of {i : Instr} {u u' : State} {d : Core} {kind p dst : Nat} {turn : Bool} {js : List Job}
    (arrival : OwnStep s u (noted (myCore s) d) []) (raises : RaisesOnly [4] (myCore s) (noted (myCore s) d))
    (hx : exec i s = .next (mbAccept u' fl kind p dst)) (hu' : u' = setTurn u p turn ∨ u' = u ∧ turn = turnOf s p)
    (hjs : ∀ v, SameRun s v → ∀ j ∈ js, j ∈ ((List.range (unitCount (mbLen (myCore s)))).foldl
      (mbPosts (me s) (myCore s).cmdSeq kind (mbStart (myCore s) fl.arrive)) v).agenda) :
    MbAccepts i s fl kind p dst turn js := by
  have before : Booked s u := .of_own arrival raises
  have hturn (q : Nat) : turnOf u q = turnOf s q := by rw [turnOf, envOf, arrival.hub]; rfl
  have hbytes : (envOf u).bytes = (envOf s).bytes := by rw [envOf, arrival.hub]; rfl
  have hall : Booked s u' ∧ coreOf u' (me s) = noted (myCore s) d ∧ (envOf u').bytes = (envOf s).bytes ∧
      ∀ q, turnOf u' q = if q = p then turn else turnOf s q := by
    rcases hu' with rfl | ⟨rfl, rfl⟩
    · exact ⟨before.trans (booked_setTurn ..), arrival.core, hbytes, fun q => by rw [turnOf_setTurn, hturn]⟩
    · refine ⟨before, arrival.core, hbytes, fun q => ?_⟩
      rw [hturn]
      split
      case isTrue hq => rw [hq]
      case isFalse => rfl
  obtain ⟨books, hcore, hb, ht⟩ := hall
  obtain ⟨accepted, hhub⟩ := mbAccept_accepts (u := u') fl kind p dst books hcore hjs
  refine ⟨_, hx, accepted, ?_, fun q => ?_⟩
  · rw [envOf, hhub]; exact hb
  · rw [turnOf, envOf, hhub]; exact ht q

theorem mbsend_accepts {p : Nat} (hp : mbPair s (myCore s).gang ((scalarIn .z fl.val).toNat % 2 ^ 13) = some p)
    (hpasses : MbPasses (myCore s) fl) (hactive : pairActive s p = true) (hturn : turnOf s p = false) :
    MbAccepts (.mbsend m) s fl 9 p 0 true ((List.range (unitCount (mbLen (myCore s)))).map fun i =>
      ownJob s (mbStart (myCore s) fl.arrive + 4 + i) phRead (.deed (.mbRead (myCore s).cmdSeq i))) := by
  obtain ⟨u, d, hx, arrival, raises, -⟩ := engine_arrives h (exec_mbsend m s)
  have hmine : myCore u = noted (myCore s) d := arrival.myCore_eq
  have hpass : MbPasses (myCore u) fl := by rw [hmine]; exact hpasses
  have hrefuse : sendRefusal s (some p) = 0 := by rw [sendRefusal, hactive, hturn]; rfl
  have hsend : mbSend fl u = mbAccept (setTurn u p true) fl 9 p 0 := by
    have hg : (myCore u).gang = (myCore s).gang := by rw [hmine]; rfl
    rw [mbSend]
    rw [hg, mbPair_congr _ _ arrival.hub arrival.gangs, hp, sendRefusal_congr _ arrival.hub, hrefuse, mbFaults,
      mbSpanFaults_of_passes hpass, mbSlip_of_passes hpass]
    rfl
  rw [hsend] at hx
  refine mbAccepts_of arrival raises hx (.inl rfl) fun v run j hj => ?_
  obtain ⟨i, hi, rfl⟩ := List.mem_map.mp hj
  exact run.foldl_posts (fun i => ownJob s (mbStart (myCore s) fl.arrive + 4 + i) phRead (.deed (.mbRead (myCore s).cmdSeq i)))
    (fun v i => booked_mbPosts ..) (fun v i hv => hv.posts ..) (List.mem_range.mp hi)

theorem mbrecv_accepts {p : Nat} {snap : Table Byte}
    (hp : mbPair s (myCore s).gang ((scalarIn .z fl.val).toNat % 2 ^ 13) = some p)
    (hsnap : snapFor (myCore s) fl.issue ((scalarIn .z fl.val).toNat % 2 ^ 13 / 64) = some snap)
    (hready : (snapWord snap ((scalarIn .z fl.val).toNat % 2 ^ 13)).testBit 25 = true) (hpasses : MbPasses (myCore s) fl) :
    let w := snapWord snap ((scalarIn .z fl.val).toNat % 2 ^ 13)
    MbAccepts (.mbrecv m) s fl 10 p (bitAt (w.testBit 24) 0 + 2 * (w % 256))
      (if w.testBit 24 = true ∧ w % 256 = 1 then false else turnOf s p)
      ((List.range (unitCount (mbLen (myCore s)))).flatMap fun i =>
        [ownJob s (mbStart (myCore s) fl.arrive + 3 + i) phRead (.deed (.mbRead (myCore s).cmdSeq i)),
          ownJob s (mbStart (myCore s) fl.arrive + 4 + i) phWrite (.deed (.mbWrite (myCore s).cmdSeq i))]) := by
  intro w
  obtain ⟨u, d, hx, arrival, raises, -⟩ := engine_arrives h (exec_mbrecv m s)
  have hmine : myCore u = noted (myCore s) d := arrival.myCore_eq
  have hpass : MbPasses (myCore u) fl := by rw [hmine]; exact hpasses
  have hrecv : mbRecv fl u = mbAccept (if w.testBit 24 = true ∧ w % 256 = 1 then setTurn u p false else u) fl 10 p
      (bitAt (w.testBit 24) 0 + 2 * (w % 256)) := by
    have hg : (myCore u).gang = (myCore s).gang := by rw [hmine]; rfl
    have hs : snapFor (myCore u) fl.issue ((scalarIn .z fl.val).toNat % 2 ^ 13 / 64) = some snap := by rw [hmine]; exact hsnap
    have hrefuse : recvRefusal (some p) (some w) = 0 := by
      rw [recvRefusal]
      exact if_pos hready
    rw [mbRecv]
    rw [hg, mbPair_congr _ _ arrival.hub arrival.gangs, hp, hs, Option.map_some, hrefuse, mbFaults,
      mbSpanFaults_of_passes hpass, mbSlip_of_passes hpass]
    rfl
  rw [hrecv] at hx
  have hu' : (if w.testBit 24 = true ∧ w % 256 = 1 then setTurn u p false else u) =
      setTurn u p (if w.testBit 24 = true ∧ w % 256 = 1 then false else turnOf s p) ∨
      (if w.testBit 24 = true ∧ w % 256 = 1 then setTurn u p false else u) = u ∧
        (if w.testBit 24 = true ∧ w % 256 = 1 then false else turnOf s p) = turnOf s p := by
    by_cases hfull : w.testBit 24 = true ∧ w % 256 = 1
    · rw [if_pos hfull, if_pos hfull]
      exact .inl rfl
    · rw [if_neg hfull, if_neg hfull]
      exact .inr ⟨rfl, rfl⟩
  refine mbAccepts_of arrival raises hx hu' fun v run j hj => ?_
  obtain ⟨i, hi, hmem⟩ := List.mem_flatMap.mp hj
  have posts (J : Nat → Job) (hJ : ∀ v i, SameRun s v → J i ∈ (mbPosts (me s) (myCore s).cmdSeq 10 (mbStart (myCore s) fl.arrive) v i).agenda) :=
    run.foldl_posts J (fun v i => booked_mbPosts (me s) (myCore s).cmdSeq 10 (mbStart (myCore s) fl.arrive) v i) hJ (List.mem_range.mp hi)
  rcases List.mem_pair.mp hmem with rfl | rfl
  · exact posts (fun i => ownJob s (mbStart (myCore s) fl.arrive + 3 + i) phRead (.deed (.mbRead (myCore s).cmdSeq i)))
      fun v i hv => (booked_postDeed ..).keeps _ (hv.posts ..)
  · exact posts (fun i => ownJob s (mbStart (myCore s) fl.arrive + 4 + i) phWrite (.deed (.mbWrite (myCore s).cmdSeq i)))
      fun v i hv => (hv.booked (booked_postDeed ..)).posts ..

end

end Sys2Proof.Machine
end

section
/-! PROOF. MBSTAT, the faults of mailbox operations, and MBSNAP (R378 to R381). -/

namespace Sys2Proof.Machine

theorem exec_mbsnapCopy (k j : Nat) (s : State) : exec (.mbsnapCopy k j) s = execMbsnapCopy k j s := rfl

/-! Faults. -/

/-- Each fault that a command's checks find is raised; nothing is scheduled. -/
theorem raiseAll_raises {s u : State} {c : Core} (own : OwnStep s u c []) (hlive : c.frozenAt = none) (fl : Flight)
    (reads : Nat → List Nat) (fs : List (Nat × Nat × Nat)) :
    ∃ d, OwnStep s (raiseAll u fl reads fs) d [] ∧ d.frozenAt = none ∧ (∀ r ∈ c.raised, r ∈ d.raised) ∧
      ∀ f ∈ fs, ∃ r ∈ d.raised, r.code = f.1 ∧ r.a = BitVec.ofNat 64 f.2.1 ∧ r.b = BitVec.ofNat 64 f.2.2 := by
  induction fs generalizing u c with
  | nil => exact ⟨c, own, hlive, fun _ h => h, fun _ h => nomatch h⟩
  | cons f fs ih =>
    have raised := own.thenMod fun c => raiseFor c fl (reads f.1) f.1 (BitVec.ofNat 64 f.2.1) (BitVec.ofNat 64 f.2.2) 0
    have hlive' : (raiseFor c fl (reads f.1) f.1 (BitVec.ofNat 64 f.2.1) (BitVec.ofNat 64 f.2.2) 0).frozenAt = none := by
      rw [(raiseFor_control ..).2.2.2]; exact hlive
    obtain ⟨d, hd, hdlive, hkeeps, hall⟩ := ih raised hlive'
    refine ⟨d, hd, hdlive, fun r hr => hkeeps r (raiseFor_keeps _ _ _ _ _ _ hr hlive), fun g hg => ?_⟩
    rcases List.mem_cons.mp hg with rfl | hin
    · rw [raiseFor, addRaise_live _ _ hlive] at hkeeps
      exact ⟨_, hkeeps _ (List.mem_append_right _ (List.mem_singleton_self _)), rfl, rfl, rfl⟩
    · exact hall g hin

/-- The instruction raises the mailbox fault with subcode `b`, and does nothing else. -/
def MbRaises (i : Instr) (s : State) (b : Nat) : Prop :=
  ∃ t, exec i s = .next t ∧ t.agenda = s.agenda ∧ t.hub = s.hub ∧
    ∃ r ∈ (coreOf t (me s)).raised, r.code = 0x1C ∧ r.b = BitVec.ofNat 64 b

theorem mbRaises_of {i : Instr} {s u : State} {c : Core} {fl : Flight} {reads : Nat → List Nat} {fs : List (Nat × Nat × Nat)}
    {b : Nat} (hx : exec i s = .next (raiseAll u fl reads fs)) (own : OwnStep s u c []) (hlive : c.frozenAt = none)
    (hb : (0x1C, 0, b) ∈ fs) : MbRaises i s b := by
  obtain ⟨d, hd, -, -, hall⟩ := raiseAll_raises own hlive fl reads fs
  obtain ⟨r, hr, hcode, -, hrb⟩ := hall _ hb
  refine ⟨_, hx, hd.agenda.trans (List.append_nil _), hd.hub, r, ?_, hcode, hrb⟩
  rw [hd.core]
  exact hr

theorem mem_mbFaults (c : Core) (t : Nat) {sub : Nat} (h : sub ≠ 0) : (0x1C, 0, sub) ∈ mbFaults c t sub := by
  rw [mbFaults, if_neg h]
  exact List.mem_append_right _ (List.mem_singleton_self _)

section
variable {s : State} {fl : Flight} {m : Mv} (h : s.cur.flight = some fl) (hlive : (myCore s).frozenAt = none)
include h hlive

theorem mbsend_refused {b : Nat} (hb : b ≠ 0)
    (hsub : sendRefusal s (mbPair s (myCore s).gang ((scalarIn .z fl.val).toNat % 2 ^ 13)) = b) : MbRaises (.mbsend m) s b := by
  obtain ⟨u, d, hx, arrival, -, -⟩ := engine_arrives h (exec_mbsend m s)
  have hg : (myCore u).gang = (myCore s).gang := by rw [arrival.myCore_eq]; rfl
  have hsend : mbSend fl u = raiseAll u fl mbChecks (mbFaults (myCore u) fl.arrive b) := by
    rw [mbSend, hg, mbPair_congr _ _ arrival.hub arrival.gangs, sendRefusal_congr _ arrival.hub, hsub]
    exact if_pos (List.ne_nil_of_mem (mem_mbFaults _ _ hb))
  rw [hsend] at hx
  exact mbRaises_of hx arrival hlive (mem_mbFaults _ _ hb)

theorem mbrecv_refused {b : Nat} (hb : b ≠ 0)
    (hsub : recvRefusal (mbPair s (myCore s).gang ((scalarIn .z fl.val).toNat % 2 ^ 13))
      ((snapFor (myCore s) fl.issue ((scalarIn .z fl.val).toNat % 2 ^ 13 / 64)).map fun snap =>
        snapWord snap ((scalarIn .z fl.val).toNat % 2 ^ 13)) = b) : MbRaises (.mbrecv m) s b := by
  obtain ⟨u, d, hx, arrival, -, -⟩ := engine_arrives h (exec_mbrecv m s)
  have hg : (myCore u).gang = (myCore s).gang := by rw [arrival.myCore_eq]; rfl
  have hsnaps (j : Nat) : snapFor (myCore u) fl.issue j = snapFor (myCore s) fl.issue j := by rw [arrival.myCore_eq]; rfl
  have hrecv : mbRecv fl u = raiseAll u fl mbChecks (mbFaults (myCore u) fl.arrive b) := by
    rw [mbRecv, hg, mbPair_congr _ _ arrival.hub arrival.gangs, hsnaps, hsub]
    exact if_pos (List.ne_nil_of_mem (mem_mbFaults _ _ hb))
  rw [hrecv] at hx
  exact mbRaises_of hx arrival hlive (mem_mbFaults _ _ hb)

theorem mbstat_outside (hp : mbPair s (myCore s).gang ((scalarIn .z fl.val).toNat % 2 ^ 13) = none) : MbRaises (.mbstat m) s 1 := by
  obtain ⟨u, d, hx, arrival, -, -⟩ := engine_arrives h (exec_mbstat m s)
  have hg : (myCore u).gang = (myCore s).gang := by rw [arrival.myCore_eq]; rfl
  dsimp only at hx
  rw [hg, mbPair_congr _ _ arrival.hub arrival.gangs, hp] at hx
  exact mbRaises_of hx arrival hlive (List.mem_singleton_self _)

theorem mbstat_unready {p : Nat} (hp : mbPair s (myCore s).gang ((scalarIn .z fl.val).toNat % 2 ^ 13) = some p)
    (hsnap : snapFor (myCore s) fl.issue ((scalarIn .z fl.val).toNat % 2 ^ 13 / 64) = none) : MbRaises (.mbstat m) s 3 := by
  obtain ⟨u, d, hx, arrival, -, -⟩ := engine_arrives h (exec_mbstat m s)
  have hg : (myCore u).gang = (myCore s).gang := by rw [arrival.myCore_eq]; rfl
  have hsnaps (j : Nat) : snapFor (myCore u) fl.issue j = snapFor (myCore s) fl.issue j := by rw [arrival.myCore_eq]; rfl
  dsimp only at hx
  rw [hg, mbPair_congr _ _ arrival.hub arrival.gangs, hsnaps, hp, hsnap] at hx
  exact mbRaises_of hx arrival hlive (List.mem_singleton_self _)

omit hlive in
/-- MBSTAT of a pair whose snapshot stands. -/
theorem mbstat_answers {p : Nat} {snap : Table Byte} (hp : mbPair s (myCore s).gang ((scalarIn .z fl.val).toNat % 2 ^ 13) = some p)
    (hsnap : snapFor (myCore s) fl.issue ((scalarIn .z fl.val).toNat % 2 ^ 13 / 64) = some snap) :
    Completes (.mbstat m) s (myCore s) [resultJob s .sy 2 ((BitVec.ofNat 64 (leNat (tbytes 0 snap
      (64 * ((scalarIn .z fl.val).toNat % 2 ^ 13 % 64) + 8 * ((scalarIn .z fl.val).toNat / 2 ^ 13 % 8)) 8))).setWidth 2048) 0] := by
  obtain ⟨u, d, hx, arrival, raises, -⟩ := engine_arrives h (exec_mbstat m s)
  have hg : (myCore u).gang = (myCore s).gang := by rw [arrival.myCore_eq]; rfl
  have hsnaps (j : Nat) : snapFor (myCore u) fl.issue j = snapFor (myCore s) fl.issue j := by rw [arrival.myCore_eq]; rfl
  dsimp only at hx
  rw [hg, mbPair_congr _ _ arrival.hub arrival.gangs, hsnaps, hp, hsnap] at hx
  exact completeWord_completes hx arrival raises rfl

end

/-! MBSNAP (R380). -/

theorem mbReady_congr {s u : State} (p : Nat) (hhub : u.hub = s.hub) : mbReady u p = mbReady s p := by
  simp only [mbReady, mbStatus, mbFlags, mbNat, mbBytes, pairActive, grpctlOf, envOf, hhub]

theorem mbsnap_arrives {s : State} {fl : Flight} (m : Mv) (h : s.cur.flight = some fl) : Completes (.mbsnap m) s (myCore s) [] := by
  have hx : exec (.mbsnap m) s = .next (modMe s fun c => noteTrigger 15 c fl) := by
    show execMbsnap m s = _
    rw [execMbsnap, h]
  have own := ownStep_noteTrigger 15 fl s
  have raises := noteTrigger_raises 15 (myCore s) fl
  rw [noteTrigger_noted] at raises
  exact completes_of_own hx own rfl raises

section
variable {s : State} {m : Mv} {q : Nat} (hflight : s.cur.flight = none) (hsrc : streamSource m.src = none)
  (hguard : guardOf (myCore s) m.g = true) (hlook : s.looking = false)
  (hq : (mailGroupsOf s (coreGang s (me s)).ctx)[(scalarIn .z (readSource (myCore s) m.src (now s) (myCore s).curBundle
    s.cur.slot).1).toNat % 128]? = some q)
include hflight hsrc hguard hlook hq

/-- MBSNAP issues: its copy is scheduled, and a hold announced in lockstep with a pair that is not ready. -/
theorem mbsnap_issues (hrun : (coreGang s (me s)).mode = .running) :
    let j := (scalarIn .z (readSource (myCore s) m.src (now s) (myCore s).curBundle s.cur.slot).1).toNat % 128
    let t₀ := now s + (coreGang s (me s)).h
    ∃ t, exec (.mbsnap m) s = .next t ∧ ownJob s t₀ phDone (.event (.mbsnapCopy (me s) j)) ∈ t.agenda ∧
      ((grpctlOf s q).getLsbD 0 = false → groupReady s q = false →
        Announced s { t with cores := s.cores } (myCore s).gang t₀ .mbsnap (me s + 1024 * q)) ∧
      ((grpctlOf s q).getLsbD 0 = true ∨ groupReady s q = true → t.gangs = s.gangs) := by
  intro j t₀
  obtain ⟨r, hr⟩ : ∃ r, r = readSource (myCore s) m.src (now s) (myCore s).curBundle s.cur.slot := ⟨_, rfl⟩
  have launched := launch_delivers (i := .mbsnap m) (always := false) rfl hsrc (by rw [hguard]; rfl)
  have hgang : r.2.gang = (myCore s).gang := by rw [hr]; exact (readSource_frame ..).1
  have hbundle : r.2.curBundle = (myCore s).curBundle := by rw [hr]; exact (readSource_frame ..).2
  have hx : exec (.mbsnap m) s = .next (mbsnapIssue m s (launch (.mbsnap m) m false s)) := by
    show execMbsnap m s = _
    rw [execMbsnap, hflight]
  dsimp only at launched
  rw [← hr] at launched
  generalize launch (.mbsnap m) m false s = u at launched hx
  have hme : me u = me s := launched.me_eq
  have hcore : coreOf u (me s) = r.2 := launched.core
  have hcg : coreGang u (me s) = coreGang s (me s) := by
    rw [coreGang, coreGang, hcore, hgang, gangOf, launched.gangs]; rfl
  have hnow : gcycOf u (me s) = now s := by rw [gcycOf, hcg]; rfl
  have hlead : leadOf u (me s) = (coreGang s (me s)).h := by rw [leadOf, hcg]
  have hslot : u.cur.slot = s.cur.slot := by rw [launched.cur]
  have hgroups : mailGroupsOf u (coreGang s (me s)).ctx = mailGroupsOf s (coreGang s (me s)).ctx := by
    rw [mailGroupsOf, ctxOf, authOf, launched.hub]; rfl
  have hctl : grpctlOf u q = grpctlOf s q := by rw [grpctlOf, envOf, launched.hub]; rfl
  have hready : groupReady u q = groupReady s q := by
    rw [groupReady, groupReady, show mbReady u = mbReady s from funext fun p => mbReady_congr p launched.hub]
  have hread : readSource (coreOf s (me s)) m.src (now s) r.2.curBundle s.cur.slot = r := by rw [hbundle, hr]; rfl
  have hj : j = (scalarIn .z r.1).toNat % 128 := by rw [hr]
  obtain ⟨v, hv⟩ : ∃ v, v = postCore u (me s) t₀ phDone (.event (.mbsnapCopy (me s) j)) := ⟨_, rfl⟩
  have hissue : mbsnapIssue m s u = if !(grpctlOf s q).getLsbD 0 && !groupReady s q then
      announceHold v (myCore s).gang t₀ .mbsnap (me s + 1024 * q) else v := by
    have hq' : (mailGroupsOf s (coreGang s (me s)).ctx)[(scalarIn .z r.1).toNat % 128]? = some q := by rw [hr]; exact hq
    have hgv : grpctlOf v q = grpctlOf u q := by rw [hv]; rfl
    have hrv : groupReady v q = groupReady u q := by rw [hv]; rfl
    have hlv : v.looking = false := by rw [hv]; exact launched.looking.trans hlook
    have hpost : postCore u (me s) (now s + (coreGang s (me s)).h) phDone
        (.event (.mbsnapCopy (me s) ((scalarIn .z r.1).toNat % 128))) = v := by rw [hv, hj]
    rw [mbsnapIssue, hme]
    dsimp only
    rw [show guardOf (coreOf s (me s)) m.g = true from hguard, if_pos rfl, hcore, hnow, hslot, hread, hcg, hgroups, hq', hlead]
    dsimp only
    rw [hpost, hgv, hrv, hlv, hctl, hready, hgang, Bool.not_false, Bool.and_true]
    rfl
  rw [hissue] at hx
  have hmine : ownJob s t₀ phDone (.event (.mbsnapCopy (me s) j)) ∈ v.agenda := by
    rw [hv]
    exact mem_postCore_of_gang _ _ _ (by rw [hcore]; exact hgang)
  have hvgangs : v.gangs = s.gangs := by rw [hv]; exact launched.gangs
  have hannounced : Announced v (announceHold v (myCore s).gang t₀ .mbsnap (me s + 1024 * q)) (myCore s).gang t₀ .mbsnap
      (me s + 1024 * q) := announceHold_running _ _ _ (by rw [gangOf, hvgangs]; exact hrun)
  have hkeeps := (offCore_announceHold v (myCore s).gang t₀ .mbsnap (me s + 1024 * q)).keeps
  by_cases hgo : (grpctlOf s q).getLsbD 0 = true ∨ groupReady s q = true
  · have hno : ¬(!(grpctlOf s q).getLsbD 0 && !groupReady s q) = true := by
      rcases hgo with h | h <;> rw [h] <;> simp
    rw [if_neg hno] at hx
    refine ⟨v, hx, hmine, fun h0 h1 => ?_, fun _ => hvgangs⟩
    rw [h0, h1] at hgo
    rcases hgo with h | h <;> cases h
  · obtain ⟨h0, h1⟩ := not_or.mp hgo
    rw [Bool.not_eq_true] at h0 h1
    rw [h0, h1, if_pos (by decide)] at hx
    refine ⟨_, hx, hkeeps _ hmine, fun _ _ => ?_, fun h => absurd h hgo⟩
    obtain ⟨hg, hothers, -⟩ := hannounced
    have hgangOf (n : Nat) : gangOf v n = gangOf s n := by rw [gangOf, hvgangs]; rfl
    have hnumber : holdNumber v (myCore s).gang = holdNumber s (myCore s).gang := by
      rw [holdNumber, holdNumber, hgangOf, chipOf, fabOf, hv]
      show _ = _
      rw [show (postCore u (me s) t₀ phDone (.event (.mbsnapCopy (me s) j))).hub = s.hub from launched.hub]
      rfl
    have hpod : v.pod = s.pod := by rw [hv]; exact launched.pod
    rw [hgangOf, hnumber, hpod] at hg
    exact ⟨hg, fun n hn => (hothers n hn).trans (hgangOf n), rfl⟩

end

end Sys2Proof.Machine
end

section
/-! PROOF. MBSNAP's copy, and the units and ends of mailbox commands (R275, R378 to R380). -/

namespace Sys2Proof.Machine

/-! The copy (R380). -/

theorem mbBytes_length (s : State) (p off n : Nat) : (mbBytes s p off n).length = n := tbytes_length ..

theorem tbytes_getD (t : Table Byte) (a n i : Nat) (h : i < n) : (tbytes 0 t a n).getD i 0 = tget 0 t (a + i) := by
  induction n generalizing a i with
  | zero => omega
  | succ n ih =>
    cases i with
    | zero => rfl
    | succ i =>
      rw [tbytes, List.getD_cons_succ, ih (a + 1) i (by omega)]
      congr 1
      omega

theorem leBytes_one (n : Nat) : leBytes 1 n = [BitVec.ofNat 8 n] := rfl

theorem snapEntry_length (s : State) (p : Nat) : (snapEntry s p).length = 64 := by
  rw [snapEntry, List.length_append, List.length_append, List.length_take, List.length_drop, mbBytes_length, leBytes_one]
  rfl

theorem splice_getD (bs : List Byte) (x : Byte) (n b : Nat) (hn : n < bs.length) :
    (bs.take n ++ [x] ++ bs.drop (n + 1)).getD b 0 = if b = n then x else bs.getD b 0 := by
  have htake : (bs.take n).length = n := by rw [List.length_take]; omega
  simp only [List.getD_eq_getElem?_getD]
  rcases Nat.lt_trichotomy b n with h | rfl | h
  · rw [if_neg (by omega), List.append_assoc, List.getElem?_append_left (by omega), List.getElem?_take_of_lt h]
  · rw [if_pos rfl, List.append_assoc, List.getElem?_append_right (by omega), htake, Nat.sub_self]
    rfl
  · rw [if_neg (by omega), List.getElem?_append_right (by rw [List.length_append, htake]; exact h), List.length_append, htake,
      List.getElem?_drop]
    congr 2
    simp only [List.length_singleton]
    omega

/-- The byte at `b` of the entry of pair `p`. -/
theorem snapEntry_getD (s : State) (p b : Nat) (hb : b < 64) : (snapEntry s p).getD b 0 =
    if b = 15 then BitVec.ofNat 8 (bitAt (pairActive s p) 0 + bitAt (mbReady s p) 1) else tget 0 (envOf s).bytes (mbKey p obsHdr + b) := by
  have hlen := mbBytes_length s p obsHdr 64
  rw [snapEntry, leBytes_one, splice_getD _ _ _ _ (by rw [hlen]; omega)]
  exact if_congr Iff.rfl rfl (tbytes_getD _ _ _ _ hb)

theorem flatten_getD {α : Type} (f : α → List Byte) (n : Nat) (hf : ∀ a, (f a).length = n) (as : List α) (i b : Nat) (a : α)
    (hi : as[i]? = some a) (hb : b < n) : ((as.map f).flatten).getD (n * i + b) 0 = (f a).getD b 0 := by
  induction as generalizing i with
  | nil => cases hi
  | cons a' as ih =>
    rw [List.map_cons, List.flatten_cons]
    cases i with
    | zero =>
      rw [List.getElem?_cons_zero] at hi
      rw [Option.some.inj hi, Nat.mul_zero, Nat.zero_add, List.getD_append _ _ _ _ (by rw [hf]; exact hb)]
    | succ i =>
      rw [List.getElem?_cons_succ] at hi
      rw [List.getD_append_right _ _ _ _ (by rw [hf, Nat.mul_succ]; omega), hf, ← ih i hi]
      congr 1
      rw [Nat.mul_succ]
      omega

theorem mbsnapCopy_copies {s : State} {k j q : Nat} (hq : (mailGroupsOf s (coreGang s k).ctx)[j]? = some q) :
    ∃ t snap, exec (.mbsnapCopy k j) s = .next t ∧ t.hub = s.hub ∧
      coreOf t k = { coreOf s k with snaps := (gcycOf s k, j, snap) :: (coreOf s k).snaps.take 15 } ∧
      t.agenda = s.agenda ++ [⟨.gang (coreOf s k).gang, gcycOf s k, phAdvance, some k, .deed .interval⟩] ∧
      ∀ i < 64, ∀ b < 64, tget 0 snap (64 * i + b) =
        if b = 15 then BitVec.ofNat 8 (bitAt (pairActive s (64 * q + i)) 0 + bitAt (mbReady s (64 * q + i)) 1)
        else tget 0 (envOf s).bytes ((64 * q + i) * 0x4000 + 0x2000 + b) := by
  let snap := tputs 0 ([] : Table Byte) 0 (((groupPairs q).map (snapEntry s)).flatten)
  let copy (c : Core) : Core := { c with snaps := (gcycOf s k, j, snap) :: c.snaps.take 15 }
  have hx : exec (.mbsnapCopy k j) s = .next (postDeed (modCore s k copy) k (gcycOf s k) phAdvance .interval) := by
    rw [exec_mbsnapCopy, execMbsnapCopy, hq]
  have hcore : coreOf (modCore s k copy) k = copy (coreOf s k) := coreOf_modCore_self ..
  refine ⟨_, snap, hx, rfl, hcore, ?_, fun i hi b hb => ?_⟩
  · show s.agenda ++ [⟨.gang (coreOf (modCore s k copy) k).gang, _, _, _, _⟩] = _
    rw [hcore]
  · have hpair : (groupPairs q)[i]? = some (64 * q + i) := by
      rw [groupPairs, List.getElem?_map, List.getElem?_range hi]
      rfl
    have hbyte := flatten_getD (snapEntry s) 64 (snapEntry_length s) (groupPairs q) i b _ hpair hb
    have hlen : ((groupPairs q).map (snapEntry s)).flatten.length = 64 * 64 := by
      have h64 : ((groupPairs q).map (snapEntry s)).map List.length = List.replicate 64 64 := by
        rw [List.map_map, show List.length ∘ snapEntry s = fun _ => 64 from funext fun p => snapEntry_length s p, List.map_const',
          groupPairs, List.length_map, List.length_range]
      rw [List.length_flatten, h64, List.sum_replicate, smul_eq_mul]
    show tget 0 (tputs 0 [] 0 _) _ = _
    rw [tget_tputs, if_pos ⟨Nat.zero_le _, by rw [hlen]; omega⟩, Nat.sub_zero, hbyte, snapEntry_getD _ _ _ hb]
    rfl

/-! Units (R378, R379). -/

section
variable {s : State} {k id u : Nat} {m : EngineCmd} (h : cmdOf (coreOf s k) id = some m)
include h

theorem mbRead_takes (hkind : m.kind = 9) (hfree : isVoided (coreOf s k) (gcycOf s k) (m.sad + 256 * u) (unitBytes m.len u) = false) :
    ScratchSame s (mbReadUnit s k id u) ∧ ∃ m', cmdOf (coreOf (mbReadUnit s k id u) k) id = some m' ∧
      unitBuf m' u = some (scratchBytes (coreOf s k) (m.sad + 256 * u) (unitBytes m.len u), false) := by
  have raced := raced_raceScratch s k (m.sad + 256 * u) (unitBytes m.len u) (agentId 1 (coreOf s k).idx) 0 none
  have heq : mbReadUnit s k id u = modCore (raceScratchRead s k (m.sad + 256 * u) (unitBytes m.len u)) k fun c =>
      setCmd c (setBuf m u (scratchBytes (coreOf s k) (m.sad + 256 * u) (unitBytes m.len u)) false) := by
    rw [mbReadUnit, h]
    dsimp only
    rw [if_pos hkind, hfree, if_neg Bool.false_ne_true]
    rfl
  rw [heq]
  refine ⟨ScratchSame.trans (t := raceScratchRead s k (m.sad + 256 * u) (unitBytes m.len u)) ?_ (scratchSame_modCore _ _ fun _ => rfl),
    setBuf m u (scratchBytes (coreOf s k) (m.sad + 256 * u) (unitBytes m.len u)) false, ?_, unitBuf_setBuf ..⟩
  · exact fun j b => congrArg (fun c => tget 0 c.scratch b) (raced.cores j)
  · rw [coreOf_modCore_self]
    exact cmdOf_setCmd (show m.id = id from cmdOf_id h) (by rw [raceScratchRead, raced.cmdOf_eq, h]; rfl)

theorem mbWrite_writes {bs : List Byte} {p : Bool} (hbuf : unitBuf m u = some (bs, p))
    (hfree : isVoided (coreOf s k) (gcycOf s k) (m.sad + 256 * u) bs.length = false) :
    ScratchBut s (mbWriteUnit s k id u) k (m.sad + 256 * u) bs := by
  rw [mbWriteUnit, h]
  dsimp only
  rw [hbuf]
  exact (engineWrite_spec _ _ _ hfree).2

end

/-! Ends (R275, R378, R379). -/

theorem offCore_wakeSnaps (s : State) : OffCore s (wakeSnaps s) :=
  .foldl (fun _ g => .foldl (fun v (h : Hold) => offCore_releaseHolds v g .mbsnap h.core) _ _) _ _

theorem bytes_putMb (s : State) (p off : Nat) (bs : List Byte) : (envOf (putMb s p off bs)).bytes =
    tputs 0 (envOf s).bytes (mbKey p off) bs := rfl

theorem bytesBut_putMb (s : State) (p off : Nat) (bs : List Byte) :
    BytesBut (envOf s).bytes (envOf (putMb s p off bs)).bytes (mbKey p off) bs := fun _ => tget_tputs ..

/-- The end of a command, its change of the pair apart. -/
theorem mbDone_env {s : State} {k id : Nat} {m : EngineCmd} (h : cmdOf (coreOf s k) id = some m) :
    envOf (mbDone s k id) = envOf (if m.kind = 9 then
        sendAction s m.lad m.skew m.len
          ((List.range (unitCount m.len)).map fun i => ((unitBuf m i).map (·.1)).getD (leBytes (unitBytes m.len i) 0)).flatten
          (m.start + 24)
      else receiveDone s m.lad (m.dst % 2 = 1) (m.dst / 2)) := by
  rw [mbDone, h]
  exact (offCore_wakeSnaps ..).env

theorem mbDone_takes {s : State} {k id : Nat} {m : EngineCmd} (h : cmdOf (coreOf s k) id = some m) (hkind : m.kind = 10)
    (hactive : m.dst % 2 = 1) (hfull : m.dst / 2 = 1) :
    BytesBut (envOf s).bytes (envOf (mbDone s k id)).bytes (m.lad * 0x4000 + 0x200C) [2] := by
  have hdone : receiveDone s m.lad (decide (m.dst % 2 = 1)) (m.dst / 2) = putMb s m.lad (obsHdr + 12) (leBytes 1 2) := by
    rw [receiveDone, decide_eq_true hactive, hfull]
    rfl
  rw [mbDone_env h, hkind, if_neg (by decide), hdone]
  exact bytesBut_putMb s m.lad (obsHdr + 12) (leBytes 1 2)

/-! An action sent (R275, R378). -/

theorem tbytes_tputs_ne {t : Table Byte} {a n b : Nat} {bs : List Byte} (h : a + n ≤ b ∨ b + bs.length ≤ a) :
    tbytes 0 (tputs 0 t b bs) a n = tbytes 0 t a n :=
  tbytes_congr a n fun j h1 h2 => tget_tputs_ne 0 t b j bs (by omega)

theorem leNat_leBytes (n x : Nat) : leNat (leBytes n x) = x % 2 ^ (8 * n) := by
  induction n generalizing x with
  | zero => rw [Nat.mul_zero, Nat.pow_zero, Nat.mod_one]; rfl
  | succ n ih =>
    rw [leBytes, leNat, ih, BitVec.toNat_ofNat, show 8 * (n + 1) = 8 + 8 * n by omega, Nat.pow_add, Nat.mod_mul]

/-- The pair's bytes after an action. -/
def actionBytes (t : Table Byte) (p v step len : Nat) (data : List Byte) (cyc : Nat) : Table Byte :=
  tputs 0 (tputs 0 (tputs 0 (tputs 0 (tputs 0 t (mbKey p 4) (leBytes 4 step)) (mbKey p 10) (leBytes 2 v ++ leBytes 1 1))
    (mbKey p 20) (leBytes 2 len)) (mbKey p 24) (leBytes 8 cyc)) (mbKey p actPay) data

theorem writeAction_bytes (s : State) (p v step len : Nat) (data : List Byte) (cyc : Nat) :
    (envOf (writeAction s p v step len data cyc)).bytes = actionBytes (envOf s).bytes p v step len data cyc := rfl

section
variable (t : Table Byte) (p v step len : Nat) (data : List Byte) (cyc : Nat)

/-- Each field of the header is read back; the observation is as before. -/
theorem actionBytes_reads (hdata : data.length ≤ 0x1000) :
    let u := actionBytes t p v step len data cyc
    leNat (tbytes 0 u (mbKey p 12) 1) = 1 ∧ leNat (tbytes 0 u (mbKey p 4) 4) = step % 2 ^ 32 ∧
      leNat (tbytes 0 u (mbKey p 20) 2) = len % 2 ^ 16 ∧ leNat (tbytes 0 u (mbKey p 24) 8) = cyc % 2 ^ 64 ∧
      tbytes 0 u (mbKey p 0x2000) 0x2000 = tbytes 0 t (mbKey p 0x2000) 0x2000 := by
  have hkey (o : Nat) : mbKey p o = mbKey p 0 + o := by rw [mbKey, mbKey, Nat.add_zero]
  have hpay : mbKey p actPay = mbKey p 0 + 0x1000 := by rw [hkey actPay, actPay]
  have hlen (n x : Nat) : (leBytes n x).length = n := leBytes_length n x
  have hmid : (leBytes 2 v ++ leBytes 1 1).length = 3 := by rw [List.length_append, hlen, hlen]
  have h12 : mbKey p 12 = mbKey p 10 + 2 := by rw [hkey 12, hkey 10]
  intro u
  have outer {o n : Nat} (h : o + n ≤ 0x1000 ∨ 0x2000 ≤ o) : tbytes 0 u (mbKey p o) n = tbytes 0 (tputs 0 (tputs 0 (tputs 0
      (tputs 0 t (mbKey p 4) (leBytes 4 step)) (mbKey p 10) (leBytes 2 v ++ leBytes 1 1)) (mbKey p 20) (leBytes 2 len))
      (mbKey p 24) (leBytes 8 cyc)) (mbKey p o) n := tbytes_tputs_ne (by rw [hpay, hkey o]; omega)
  have cycle {o n : Nat} (h : o + n ≤ 24 ∨ 32 ≤ o) (t' : Table Byte) :
      tbytes 0 (tputs 0 t' (mbKey p 24) (leBytes 8 cyc)) (mbKey p o) n = tbytes 0 t' (mbKey p o) n :=
    tbytes_tputs_ne (by rw [hkey 24, hkey o, hlen]; omega)
  have length {o n : Nat} (h : o + n ≤ 20 ∨ 22 ≤ o) (t' : Table Byte) :
      tbytes 0 (tputs 0 t' (mbKey p 20) (leBytes 2 len)) (mbKey p o) n = tbytes 0 t' (mbKey p o) n :=
    tbytes_tputs_ne (by rw [hkey 20, hkey o, hlen]; omega)
  have version {o n : Nat} (h : o + n ≤ 10 ∨ 13 ≤ o) (t' : Table Byte) :
      tbytes 0 (tputs 0 t' (mbKey p 10) (leBytes 2 v ++ leBytes 1 1)) (mbKey p o) n = tbytes 0 t' (mbKey p o) n :=
    tbytes_tputs_ne (by rw [hkey 10, hkey o, hmid]; omega)
  have written (t' : Table Byte) (o n x : Nat) : leNat (tbytes 0 (tputs 0 t' (mbKey p o) (leBytes n x)) (mbKey p o) n) =
      x % 2 ^ (8 * n) := by
    have h := tbytes_tputs 0 t' (mbKey p o) (leBytes n x)
    rw [hlen] at h
    rw [h, leNat_leBytes]
  refine ⟨?_, ?_, ?_, ?_, ?_⟩
  · rw [outer (by omega), cycle (by omega), length (by omega)]
    rw [tbytes, tbytes, tget_tputs, h12, if_pos ⟨Nat.le_add_right .., by rw [hmid]; omega⟩, Nat.add_sub_cancel_left]
    rfl
  · rw [outer (by omega), cycle (by omega), length (by omega), version (by omega)]
    exact written _ 4 4 step
  · rw [outer (by omega), cycle (by omega)]
    exact written _ 20 2 len
  · rw [outer (by omega)]
    exact written _ 24 8 cyc
  · rw [outer (by omega), cycle (by omega), length (by omega), version (by omega)]
    exact tbytes_tputs_ne (by rw [hkey 4, hkey 0x2000, hlen]; omega)

end

theorem flatten_length_le {α : Type} (f : α → List Byte) (n : Nat) (as : List α) (hf : ∀ a ∈ as, (f a).length ≤ n) :
    ((as.map f).flatten).length ≤ n * as.length := by
  induction as with
  | nil => exact Nat.zero_le _
  | cons a as ih =>
    have h1 := hf a List.mem_cons_self
    have h2 := ih fun b hb => hf b (List.mem_cons_of_mem _ hb)
    rw [List.map_cons, List.flatten_cons, List.length_append, List.length_cons, Nat.mul_succ]
    omega

theorem mbDone_sends {s : State} {k id : Nat} {m : EngineCmd} (h : cmdOf (coreOf s k) id = some m) (hkind : m.kind = 9)
    (hst : mbStatus s m.lad 0x2000 = 1 ∨ mbStatus s m.lad 0x2000 = 2) (hctl : (grpctlOf s (m.lad / 64)).getLsbD 1 = false)
    (hlen : m.len ≤ 4096) (hbufs : ∀ i bs p, unitBuf m i = some (bs, p) → bs.length = min 256 (m.len - 256 * i)) :
    let t := mbDone s k id
    mbStatus t m.lad 0 = 1 ∧ mbNat t m.lad 4 4 = (mbNat s m.lad 4 4 + 1) % 2 ^ 32 ∧ mbNat t m.lad 20 2 = m.len % 2 ^ 16 ∧
      mbNat t m.lad 24 8 = (m.start + 24) % 2 ^ 64 ∧ mbBytes t m.lad 0x2000 0x2000 = mbBytes s m.lad 0x2000 0x2000 := by
  intro t
  have hnone : ¬(mbStatus s m.lad obsHdr = 0 ∨ mbFinal (mbStatus s m.lad obsHdr) = true) := by
    rw [mbFinal, decide_eq_true_eq, show mbStatus s m.lad obsHdr = mbStatus s m.lad 0x2000 from rfl]
    omega
  have hunit : ∀ i ∈ List.range (unitCount m.len), (((unitBuf m i).map (·.1)).getD (leBytes (unitBytes m.len i) 0)).length ≤ 256 := by
    intro i _
    cases hu : unitBuf m i with
    | none =>
      show (leBytes _ 0).length ≤ 256
      rw [leBytes_length]
      exact Nat.min_le_left ..
    | some b =>
      show b.1.length ≤ 256
      rw [hbufs i b.1 b.2 hu]
      exact Nat.min_le_left ..
  have hdata := flatten_length_le _ 256 (List.range (unitCount m.len)) hunit
  have henv := mbDone_env h
  rw [if_pos hkind, sendAction] at henv
  dsimp only at henv
  rw [if_neg hnone, hctl, if_neg fun h => Bool.false_ne_true h.1] at henv
  have hbytes := congrArg Cluster.bytes henv
  rw [writeAction_bytes] at hbytes
  obtain ⟨hstatus, hstep, hlength, hcyc, hobs⟩ := actionBytes_reads (envOf s).bytes m.lad m.skew
    (mbNat s m.lad (actHdr + 4) 4 + 1) m.len _ (m.start + 24) (Nat.le_trans hdata (by rw [List.length_range, unitCount]; omega))
  rw [← hbytes] at hstatus hstep hlength hcyc hobs
  exact ⟨hstatus, hstep, hlength, hcyc, hobs⟩

theorem recvRefusal_unready (p : Nat) : recvRefusal (some p) none = 3 := by
  rw [recvRefusal, Option.getD_none, Nat.zero_testBit]
  rfl

/-- Settles O42: commands are accepted on their checks; the copy and the ends act on the pairs' bytes. -/
theorem mailboxOperationsTakeEffect : Obligations.MailboxOperationsTakeEffect := by
  unfold Obligations.MailboxOperationsTakeEffect
  refine ⟨?_, ?_, fun s k j q hq => mbsnapCopy_copies hq, ?_⟩
  · intro s fl m h c k z x sad len timed st n entry passes accepts
    have split {i : Instr} {kind p dst : Nat} {turn : Bool} {js : List Job} (key : MbAccepts i s fl kind p dst turn js) :
        accepts i kind p dst turn js := by
      obtain ⟨t, hx, ⟨hscratch, hkeeps, hjs, hend, hraises, hcmds, hcore⟩, hbytes, hturn⟩ := key
      exact ⟨t, hx, hscratch, hbytes, hturn, hkeeps, hjs, hend, hraises, hcmds, hcore⟩
    have hsend (p : Nat) (hp : mbPair s c.gang x = some p) (b : Bool × Bool) (hb : (pairActive s p, turnOf s p) = b) :
        sendRefusal s (mbPair s c.gang x) = if !b.1 then 5 else if b.2 then 2 else 0 := by
      rw [hp, sendRefusal, ← hb]
    refine ⟨fun p hp hpass hactive hturn => split (mbsend_accepts h hp hpass hactive hturn),
      fun p snap hp hsnap hready hpass => split (mbrecv_accepts h hp hsnap hready hpass),
      fun p snap hp hsnap => mbstat_answers h hp hsnap, mbsnap_arrives m h, fun hlive => ?_⟩
    refine ⟨fun hp => ⟨?_, ?_, ?_⟩, fun p hp hpass => ⟨fun hactive => ?_, fun hactive hturn => ?_, fun hsnap => ⟨?_, ?_⟩⟩⟩
    · exact mbsend_refused h hlive (by decide) (by rw [show mbPair s (myCore s).gang _ = none from hp]; rfl)
    · exact mbrecv_refused h hlive (by decide) (by rw [show mbPair s (myCore s).gang _ = none from hp]; rfl)
    · exact mbstat_outside h hlive hp
    · exact mbsend_refused h hlive (by decide) (by rw [show sendRefusal s _ = _ from hsend p hp _ rfl, hactive]; rfl)
    · exact mbsend_refused h hlive (by decide) (by rw [show sendRefusal s _ = _ from hsend p hp _ rfl, hactive, hturn]; rfl)
    · exact mbrecv_refused h hlive (by decide) (by
        rw [show mbPair s (myCore s).gang _ = some p from hp, show snapFor (myCore s) fl.issue _ = none from hsnap]
        exact recvRefusal_unready p)
    · exact mbstat_unready h hlive hp hsnap
  · intro s m q hflight hsrc hguard hlook c j t₀ hq hrun
    exact mbsnap_issues hflight hsrc hguard hlook hq hrun
  · intro s k id u m h c a n
    exact ⟨fun hkind hfree => mbRead_takes h hkind hfree, fun bs p hbuf hfree => mbWrite_writes h hbuf hfree,
      fun hkind hactive hfull => mbDone_takes h hkind hactive hfull,
      fun hkind hst hctl hlen hbufs => mbDone_sends h hkind hst hctl hlen hbufs⟩

end Sys2Proof.Machine
end

section
/-! PROOF. Untimed accesses: their receipt, their completion, and host accesses through apertures (R193, R194, R205, R206, R218,
R270, R275, R314). -/

namespace Sys2Proof.Machine

theorem exec_untimedAccessReceive (a : Untimed) (s : State) : exec (.untimedAccessReceive a) s = execUntimedAccessReceive a s := rfl
theorem exec_untimedWriteComplete (a : Untimed) (s : State) : exec (.untimedWriteComplete a) s = execUntimedWriteComplete a s := rfl
theorem exec_hostApertureAccess (v slot off : Nat) (write : Bool) (data : List Byte) (s : State) :
    exec (.hostApertureAccess v slot off write data) s = execHostApertureAccess v slot off write data s := rfl

/-! A hart's fault (R270). -/

/-- The step acts on pairs and harts: cores, device memory and the faults told of stay. -/
structure OnPairs (s t : State) : Prop where
  cores : t.cores = s.cores
  dram : dramOf t = dramOf s
  faults : (envOf t).faults = (envOf s).faults

theorem OnPairs.refl (s : State) : OnPairs s s := ⟨rfl, rfl, rfl⟩

theorem OnPairs.trans {s t u : State} (h₁ : OnPairs s t) (h₂ : OnPairs t u) : OnPairs s u :=
  ⟨h₂.cores.trans h₁.cores, h₂.dram.trans h₁.dram, h₂.faults.trans h₁.faults⟩

theorem OnPairs.foldl {α : Type} {f : State → α → State} (h : ∀ s a, OnPairs s (f s a)) (as : List α) (s : State) :
    OnPairs s (as.foldl f s) := by
  induction as generalizing s with
  | nil => exact .refl s
  | cons a as ih => exact (h s a).trans (ih (f s a))

theorem OffCore.onPairs {s t : State} (h : OffCore s t) : OnPairs s t := ⟨h.cores, h.dram, by rw [h.env]⟩

theorem Logged.onPairs {s t : State} (h : Logged s t) : OnPairs s t := ⟨h.cores, h.dram, by rw [h.env]⟩

theorem onPairs_setEnv (s : State) {e : Cluster} (h : e.faults = (envOf s).faults) : OnPairs s (setEnv s e) := ⟨rfl, rfl, h⟩

theorem onPairs_putMb (s : State) (p off : Nat) (bs : List Byte) : OnPairs s (putMb s p off bs) := onPairs_setEnv s rfl

theorem onPairs_setTurn (s : State) (p : Nat) (b : Bool) : OnPairs s (setTurn s p b) := onPairs_setEnv s rfl

theorem onPairs_setHart (s : State) (h : Nat) (x : Hart) : OnPairs s (setHart s h x) := onPairs_setEnv s rfl

theorem onPairs_stopEpisode (s : State) (p : Nat) : OnPairs s (stopEpisode s p) := by
  unfold stopEpisode
  dsimp only
  generalize hartsOfPair s p = hs
  refine OnPairs.trans (.foldl (fun v h => ?_) hs s) ⟨rfl, rfl, rfl⟩
  exact .trans (onPairs_setHart v h _) (onPairs_setEnv _ rfl)

theorem onPairs_copyStamps (s : State) (p : Nat) : OnPairs s (copyStamps s p) := (onPairs_putMb ..).trans (onPairs_putMb ..)

theorem onPairs_mbEnd (s : State) (p status cause : Nat) : OnPairs s (mbEnd s p status cause) :=
  (onPairs_copyStamps ..).trans <| (onPairs_putMb ..).trans <| (onPairs_putMb ..).trans <| (onPairs_putMb ..).trans <|
    (onPairs_setTurn ..).trans (onPairs_stopEpisode ..)

theorem onPairs_killPair (s : State) (p status cause : Nat) : OnPairs s (killPair s p status cause) := by
  unfold killPair
  split
  · exact .refl s
  · exact (onPairs_mbEnd ..).trans (offCore_wakeSnaps _).onPairs

/-- The fault is told of. -/
def faulted (s : State) (h : Nat) : State := setEnv s { envOf s with faults := (envOf s).faults ++ [h] }

theorem onPairs_hartFault (s : State) (h : Nat) : OnPairs (faulted s h) (hartFault s h) := by
  unfold hartFault
  dsimp only
  split
  · exact .refl _
  · split
    · exact onPairs_killPair ..
    · exact .refl _
  · exact (onPairs_setHart ..).trans (logged_postEvent ..).onPairs

/-! Receipt (R205, R206, R270, R275). -/

/-- The hub answers an access with a refusal. -/
def refusal (s : State) (a : Untimed) : State := setDram s { dramOf s with answers := (dramOf s).answers ++ [(a, [], readRefused)] }

theorem answerRead_refused (s : State) (a : Untimed) : answerRead s a [] readRefused = refusal s a :=
  if_neg fun h => absurd h.2.1 (by decide)

theorem hubRefuses_iff (s : State) (a : Untimed) :
    hubRefuses s a = true ↔ slotMapOf s (homeOf a.addr) = 0 ∨ pageBlocked s a.addr = true := by
  rw [hubRefuses, Bool.or_eq_true, beq_iff_eq]

section
variable {s : State} {a : Untimed} (hspace : a.space = .dram)
include hspace

theorem receive_eq : exec (.untimedAccessReceive a) s =
    if agentClass a.agent = 4 ∧ hartReaches s a = false then .next (hartFault (refusal s a) (a.agent.toNat % 4096))
    else if hubRefuses s a then
      .next (if agentClass a.agent = 4 then hartFault (refusal s a) (a.agent.toNat % 4096) else refusal s a)
    else if shareFull s a then .next (postPod s (s.pod + 1) phUntimed (.untimedAccessReceive a))
    else .next (postPod (setDram { s with fresh := s.fresh + 1 }
        { dramOf s with pending := (dramOf s).pending ++ [{ a with received := s.pod }] })
      (s.pod + 1 + Config.untimedDelay s.fresh % 64) (if a.write then phUntimed else phHub)
      (.untimedWriteComplete { a with received := s.pod })) := by
  rw [exec_untimedAccessReceive, execUntimedAccessReceive, if_neg (by rw [hspace]; decide), answerRead_refused]
  refine if_congr ?_ rfl ?_
  · rw [Bool.and_eq_true, decide_eq_true_eq, Bool.not_eq_true']
  · refine if_congr Iff.rfl ?_ rfl
    simp only

theorem receive_refused (hhart : agentClass a.agent ≠ 4) (h : hubRefuses s a = true) :
    exec (.untimedAccessReceive a) s = .next (refusal s a) := by
  rw [receive_eq hspace, if_neg fun hc => hhart hc.1, if_pos h, if_neg hhart]

theorem receive_faults (hhart : agentClass a.agent = 4) (h : hubRefuses s a = true ∨ hartReaches s a = false) :
    exec (.untimedAccessReceive a) s = .next (hartFault (refusal s a) (a.agent.toNat % 4096)) := by
  rw [receive_eq hspace]
  by_cases hr : hartReaches s a = false
  · rw [if_pos ⟨hhart, hr⟩]
  · rw [if_neg fun hc => hr hc.2, if_pos (h.resolve_right hr), if_pos hhart]

theorem receive_passes (hreach : agentClass a.agent = 4 → hartReaches s a = true) (h : hubRefuses s a = false) :
    exec (.untimedAccessReceive a) s =
      if shareFull s a then .next (postPod s (s.pod + 1) phUntimed (.untimedAccessReceive a))
      else .next (postPod (setDram { s with fresh := s.fresh + 1 }
          { dramOf s with pending := (dramOf s).pending ++ [{ a with received := s.pod }] })
        (s.pod + 1 + Config.untimedDelay s.fresh % 64) (if a.write then phUntimed else phHub)
        (.untimedWriteComplete { a with received := s.pod })) := by
  rw [receive_eq hspace, if_neg fun hc => absurd (hreach hc.1) (by rw [hc.2]; decide), h, if_neg Bool.false_ne_true]

end

/-! Completion (R193, R194, R206, R218). -/

/-- A pending access is tried again in the next pod cycle. -/
def againJob (s : State) (a : Untimed) : Job :=
  ⟨.pod, s.pod + 1, if a.write then phUntimed else phHub, none, .event (.untimedWriteComplete a)⟩

/-- The accesses received before `a` that complete first. -/
def aheadOf (s : State) (a : Untimed) : List Untimed :=
  ((dramOf s).pending.takeWhile fun b => decide (b ≠ a)).filter fun b => completesFirst s b a

theorem again_received (s : State) (a : Untimed) (h : a ∈ (dramOf s).pending) :
    let b := { a with received := s.pod }
    let t := receiveAnew (post s (againJob s a)) a
    t.cores = s.cores ∧ (dramOf t).bytes = (dramOf s).bytes ∧ (dramOf t).answers = (dramOf s).answers ∧ b ∈ (dramOf t).pending ∧
      againJob s b ∈ t.agenda := by
  refine ⟨rfl, rfl, rfl, ?_, ?_⟩
  · exact List.mem_map.mpr ⟨a, h, if_pos (.inl rfl)⟩
  · refine List.mem_map.mpr ⟨againJob s a, List.mem_append_right _ (List.mem_singleton.mpr rfl), ?_⟩
    simp only [againJob, true_or, if_true]
    rfl

/-- The access completes. -/
def finished (s : State) (a : Untimed) : State := setDram s { dramOf s with pending := (dramOf s).pending.erase a }

section
variable {s : State} {a : Untimed} (hspace : a.space = .dram)
include hspace

theorem complete_eq : exec (.untimedWriteComplete a) s = .next (tryUntimed s a) := by
  rw [exec_untimedWriteComplete, execUntimedWriteComplete, if_neg (by rw [hspace]; decide)]

theorem complete_gone (h : a ∉ (dramOf s).pending) : exec (.untimedWriteComplete a) s = .next s := by
  have hc : (dramOf s).pending.contains a = false := by rw [List.contains_eq_mem, decide_eq_false h]
  rw [complete_eq hspace, tryUntimed, hc]
  rfl

theorem complete_waits (hin : a ∈ (dramOf s).pending) (h : mitigating s a = true ∨ aheadOf s a ≠ [] ∨ serviceOf s a = none) :
    exec (.untimedWriteComplete a) s = .next (if a.received + 448 ≤ s.pod then receiveAnew (post s (againJob s a)) a
      else post s (againJob s a)) := by
  have hc : (dramOf s).pending.contains a = true := by rw [List.contains_eq_mem, decide_eq_true hin]
  rw [complete_eq hspace, tryUntimed, hc]
  dsimp only
  rw [Bool.not_true, if_neg Bool.false_ne_true]
  by_cases hm : mitigating s a = true
  · rw [if_pos hm]
    rfl
  · rw [if_neg hm]
    by_cases hf : aheadOf s a ≠ []
    · exact congrArg Host.Outcome.next (if_pos hf)
    · refine congrArg Host.Outcome.next ((if_neg hf).trans ?_)
      rw [(h.resolve_left hm).resolve_left hf]
      rfl

theorem complete_finishes (hin : a ∈ (dramOf s).pending) (h : ¬(mitigating s a = true ∨ aheadOf s a ≠ [] ∨ serviceOf s a = none)) :
    ∃ act, exec (.untimedWriteComplete a) s = .next (dramComplete (finished s a) a act) := by
  have hc : (dramOf s).pending.contains a = true := by rw [List.contains_eq_mem, decide_eq_true hin]
  obtain ⟨hm, hf, hs⟩ : ¬mitigating s a = true ∧ ¬aheadOf s a ≠ [] ∧ ¬serviceOf s a = none :=
    ⟨fun x => h (.inl x), fun x => h (.inr (.inl x)), fun x => h (.inr (.inr x))⟩
  obtain ⟨act, hact⟩ := Option.ne_none_iff_exists'.mp hs
  refine ⟨act, ?_⟩
  rw [complete_eq hspace, tryUntimed, hc]
  dsimp only
  rw [Bool.not_true, if_neg Bool.false_ne_true, if_neg hm]
  refine congrArg Host.Outcome.next ((if_neg hf).trans ?_)
  rw [hact]
  rfl

end

/-! The controller serves it (R197, R199, R217, R220). -/

/-- The controller's work for an access before its bytes move. -/
def served (s : State) (a : Untimed) (act : Bool) : State :=
  let s := noteServed s a.addr
  if act then activateRow s (homeOf a.addr) (sectorChans a.addr) (bankOf a.addr) (rowOf a.addr) (agentPart s a.agent) false else s

theorem dramKeeps_served (s : State) (a : Untimed) (act : Bool) : DramKeeps s (served s a act) := by
  unfold served
  split
  · exact (dramKeeps_noteServed ..).trans (dramKeeps_activateRow ..)
  · exact dramKeeps_noteServed ..

/-- The marks a write leaves on its sectors. -/
structure Marks (s t : State) : Prop extends ReadsSame s t where
  cores : t.cores = s.cores
  pending : (dramOf t).pending = (dramOf s).pending
  answers : (dramOf t).answers = (dramOf s).answers

theorem Marks.trans {s t u : State} (h₁ : Marks s t) (h₂ : Marks t u) : Marks s u :=
  ⟨⟨h₂.bytes.trans h₁.bytes, h₂.sealed.trans h₁.sealed, h₂.ctxs.trans h₁.ctxs, h₂.keys.trans h₁.keys⟩, h₂.cores.trans h₁.cores,
    h₂.pending.trans h₁.pending, h₂.answers.trans h₁.answers⟩

theorem Marks.refl (s : State) : Marks s s := ⟨⟨rfl, rfl, rfl, rfl⟩, rfl, rfl, rfl⟩

theorem marks_setDram (s : State) {d : Dram} (hb : d.bytes = (dramOf s).bytes) (hs : d.sealed = (dramOf s).sealed)
    (hp : d.pending = (dramOf s).pending) (ha : d.answers = (dramOf s).answers) : Marks s (setDram s d) :=
  ⟨⟨hb, hs, rfl, rfl⟩, rfl, hp, ha⟩

theorem marks_notePiece (s : State) (a : Untimed) : Marks s (notePiece s a) := by
  unfold notePiece
  split
  · exact .refl s
  · dsimp only
    split
    · exact marks_setDram s rfl rfl rfl rfl
    · exact marks_setDram s rfl rfl rfl rfl

theorem marks_poisonDev (s : State) (a n : Nat) : Marks s (poisonDev s a n) := marks_setDram s rfl rfl rfl rfl

theorem marks_dramShadow (s : State) (a n : Nat) (x : BitVec 16) (sc : BitVec 2) : Marks s (dramShadow s a n x sc) :=
  marks_setDram s rfl rfl rfl rfl

theorem dramComplete_writes (s : State) (a : Untimed) (act : Bool) (hw : a.write = true) :
    ScratchSame s (dramComplete s a act) ∧ (dramOf (dramComplete s a act)).pending = (dramOf s).pending ∧
      ReadsBut s (dramComplete s a act) a.addr a.data ∧ (dramOf (dramComplete s a act)).answers = (dramOf s).answers := by
  obtain ⟨n, hn⟩ : ∃ n, n = if a.write then a.data.length else a.len := ⟨_, rfl⟩
  have heq : dramComplete s a act = dramShadow
      (if a.poison then poisonDev (notePiece (putDev (raceDram (served s a act) a.addr n a.agent 1 true 0) a.addr a.data) a) a.addr n
        else notePiece (putDev (raceDram (served s a act) a.addr n a.agent 1 true 0) a.addr a.data) a) a.addr n a.agent
      (if agentClass a.agent = 6 then 2 else 0) := by
    rw [hn, dramComplete, if_pos hw]
    rfl
  have kept := dramKeeps_served s a act
  have raced := raced_raceDram (served s a act) a.addr n a.agent 1 true 0
  have hub := raced.hub
  rw [heq]
  generalize raceDram (served s a act) a.addr n a.agent 1 true 0 = v at raced hub ⊢
  have marks : Marks (putDev v a.addr a.data) (dramShadow
      (if a.poison then poisonDev (notePiece (putDev v a.addr a.data) a) a.addr n else notePiece (putDev v a.addr a.data) a)
      a.addr n a.agent (if agentClass a.agent = 6 then 2 else 0)) := by
    refine Marks.trans (marks_notePiece _ a) (.trans ?_ (marks_dramShadow _ _ _ _ _))
    split
    · exact marks_poisonDev ..
    · exact .refl _
  have hdram : dramOf v = dramOf (served s a act) := by rw [dramOf, hub]; rfl
  refine ⟨(ScratchSame.of_cores kept.cores).trans (raced.scratchSame.trans (.of_cores (marks.cores.trans rfl))),
    marks.pending.trans ?_, ?_, marks.answers.trans ?_⟩
  · exact (congrArg Dram.pending hdram).trans kept.pending
  · exact ((readsBut_putDev v _ _).before (.of_hub hub)).before kept.readsSame |>.after marks.toReadsSame
  · exact (congrArg Dram.answers hdram).trans kept.answers

theorem answerRead_dram (s : State) (a : Untimed) (bs : List Byte) (status : Nat) :
    dramOf (answerRead s a bs status) = { dramOf s with answers := (dramOf s).answers ++ [(a, bs, status)] } ∧
      (answerRead s a bs status).cores = s.cores := by
  unfold answerRead
  dsimp only
  split
  · exact ⟨rfl, rfl⟩
  · exact ⟨rfl, rfl⟩

theorem dramComplete_reads (s : State) (a : Untimed) (act : Bool) (hw : a.write = false) (hclass : agentClass a.agent ≠ 6) :
    ScratchSame s (dramComplete s a act) ∧ (dramOf (dramComplete s a act)).pending = (dramOf s).pending ∧
      (dramOf (dramComplete s a act)).bytes = (dramOf s).bytes ∧ (dramOf (dramComplete s a act)).answers = (dramOf s).answers ++
        [(a, devBytes s a.addr a.len, if devPoisoned s a.addr a.len then 1 else 0)] := by
  obtain ⟨u, hu⟩ : ∃ u, u = noteRead (raceDram (served s a act) a.addr a.len a.agent 0 true 0) a.addr a.len := ⟨_, rfl⟩
  have served' := dramKeeps_served s a act
  have raced := raced_raceDram (served s a act) a.addr a.len a.agent 0 true 0
  have noted := dramKeeps_noteRead (raceDram (served s a act) a.addr a.len a.agent 0 true 0) a.addr a.len
  rw [← hu] at noted
  generalize raceDram (served s a act) a.addr a.len a.agent 0 true 0 = v at raced noted
  have hdram : dramOf v = dramOf (served s a act) := by rw [dramOf, raced.hub]; rfl
  have bytes : devBytes u a.addr a.len = devBytes s a.addr a.len := by
    rw [noted.readsSame.devBytes, (ReadsSame.of_hub raced.hub).devBytes, served'.readsSame.devBytes]
  have poison : devPoisoned u a.addr a.len = devPoisoned s a.addr a.len := by
    simp only [devPoisoned, noted.poison, noted.bad, hdram, served'.poison, served'.bad]
  have scratch : ScratchSame s u :=
    (ScratchSame.of_cores served'.cores).trans (raced.scratchSame.trans (.of_cores noted.cores))
  have pending : (dramOf u).pending = (dramOf s).pending :=
    noted.pending.trans ((congrArg Dram.pending hdram).trans served'.pending)
  have held : (dramOf u).bytes = (dramOf s).bytes := noted.bytes.trans ((congrArg Dram.bytes hdram).trans served'.bytes)
  have answers : (dramOf u).answers = (dramOf s).answers :=
    noted.answers.trans ((congrArg Dram.answers hdram).trans served'.answers)
  have answered := answerRead_dram u a (devBytes s a.addr a.len) (if devPoisoned s a.addr a.len then readPoisoned else readOk)
  obtain ⟨w, hw'⟩ : ∃ w, w = answerRead u a (devBytes s a.addr a.len) (if devPoisoned s a.addr a.len then readPoisoned else readOk) :=
    ⟨_, rfl⟩
  rw [← hw'] at answered
  have heq : dramComplete s a act = if devPoisoned s a.addr a.len = true ∧ agentClass a.agent = 4 then
      post w ⟨.pod, w.pod, phUntimed, none, .deed (.hartFault (a.agent.toNat % 4096))⟩ else w := by
    rw [hw', ← bytes, ← poison, hu, dramComplete, if_neg (by rw [hw]; decide), if_neg hclass, hw]
    rfl
  have hsame : dramOf (dramComplete s a act) = dramOf w ∧ (dramComplete s a act).cores = w.cores := by
    rw [heq]
    split
    · exact ⟨rfl, rfl⟩
    · exact ⟨rfl, rfl⟩
  obtain ⟨hd, hc⟩ := hsame
  rw [hd, answered.1]
  refine ⟨scratch.trans (.of_cores (hc.trans answered.2)), pending, held, ?_⟩
  show (dramOf u).answers ++ _ = _
  rw [answers]
  rfl

/-! Host accesses (R194, R206, R314). -/

/-- The pieces of a span are its bytes, in order and in place. -/
theorem splitSpan_covers (n : Nat) (hn : 0 < n) (fuel a : Nat) (bs : List Byte) (hf : bs.length < fuel) :
    (splitSpan n fuel a bs).flatMap (·.2) = bs ∧
      (splitSpan n fuel a bs).flatMap (fun p => (List.range p.2.length).map (p.1 + ·)) = (List.range bs.length).map (a + ·) := by
  induction fuel generalizing a bs with
  | zero => omega
  | succ fuel ih =>
    rw [splitSpan]
    split
    next h => subst h; exact ⟨rfl, rfl⟩
    next h =>
      have hpos : 0 < bs.length := List.length_pos_iff.mpr h
      have hm : 0 < n - a % n := Nat.sub_pos_of_lt (Nat.mod_lt a hn)
      dsimp only
      generalize n - a % n = m at hm
      have hdrop : (bs.drop m).length = bs.length - m := List.length_drop
      obtain ⟨ih1, ih2⟩ := ih (a + m) (bs.drop m) (by omega)
      rw [List.flatMap_cons, List.flatMap_cons, ih1, ih2, List.take_append_drop, hdrop, List.length_take]
      refine ⟨rfl, ?_⟩
      by_cases hle : m ≤ bs.length
      · have hsum : bs.length = m + (bs.length - m) := by omega
        conv_rhs => rw [hsum, List.range_add, List.map_append, List.map_map]
        rw [Nat.min_eq_left hle]
        congr 1
        exact List.map_congr_left fun i _ => Nat.add_assoc a m i
      · rw [Nat.min_eq_right (by omega), show bs.length - m = 0 by omega]
        exact List.append_nil _

theorem foldl_postPod (ps : List (Nat × List Byte)) (f : Nat × List Byte → Untimed) (due : Nat → Nat) (s : State) :
    ps.foldl (fun s p => postPod s (due s.pod) phUntimed (.untimedAccessReceive (f p))) s =
      { s with agenda := s.agenda ++ (ps.map f).map fun u => ⟨.pod, due s.pod, phUntimed, none, .event (.untimedAccessReceive u)⟩ } := by
  induction ps generalizing s with
  | nil => simp
  | cons p ps ih =>
    rw [List.foldl_cons, ih]
    simp [postPod, post]

/-- The piece of an access that a part of its span is. -/
def pieceOf (a : Untimed) (p : Nat × List Byte) : Untimed :=
  { a with
    addr := p.1, data := if a.write then p.2 else [], len := if a.write then 0 else p.2.length, received := 0
    whole := a.write && (wholeSectors a.addr a.data.length).contains (p.1 / 128) }

/-- The pieces an access goes to the hub in. -/
def piecesOf (s : State) (a : Untimed) : List Untimed :=
  (splitSpan (if pageOrdered s a.addr then 128 else 8) (a.data.length + a.len + 1) a.addr
    (if a.write then a.data else leBytes a.len 0)).map (pieceOf a)

theorem sendUntimed_eq (s : State) (a : Untimed) : sendUntimed s a =
    { s with
      fresh := s.fresh + 1
      agenda := s.agenda ++ (piecesOf s a).map fun u =>
        ⟨.pod, s.pod + 1 + Config.hostLatency s.fresh, phUntimed, none, .event (.untimedAccessReceive u)⟩ } :=
  foldl_postPod _ (pieceOf a) (fun pod => pod + 1 + Config.hostLatency s.fresh) _

/-- The pieces of an access cover its span, each byte in one of them. -/
theorem piecesOf_covers (s : State) (a : Untimed) :
    (a.write = true → (piecesOf s a).flatMap (·.data) = a.data) ∧
      (piecesOf s a).flatMap (fun u => (List.range (if a.write then u.data.length else u.len)).map (u.addr + ·)) =
        (List.range (if a.write then a.data.length else a.len)).map (a.addr + ·) := by
  have hlen : (if a.write then a.data else leBytes a.len 0).length = if a.write then a.data.length else a.len := by
    split
    · rfl
    · exact leBytes_length ..
  have hfuel : (if a.write then a.data else leBytes a.len 0).length < a.data.length + a.len + 1 := by
    rw [hlen]
    split <;> omega
  obtain ⟨hdata, hspan⟩ := splitSpan_covers (if pageOrdered s a.addr then 128 else 8) (by split <;> decide) _ a.addr _ hfuel
  refine ⟨fun hw => ?_, ?_⟩
  · rw [piecesOf, List.flatMap_map]
    rw [if_pos hw] at hdata ⊢
    refine Eq.trans (congrArg (fun f => List.flatMap f _) (funext fun p => ?_)) hdata
    exact if_pos hw
  · rw [piecesOf, List.flatMap_map]
    rw [hlen] at hspan
    refine Eq.trans (congrArg (fun f => List.flatMap f _) (funext fun p => ?_)) hspan
    have hpiece : (if a.write then (pieceOf a p).data.length else (pieceOf a p).len) = p.2.length := by
      cases hw : a.write
      · simp [pieceOf, hw]
      · simp [pieceOf, hw]
    rw [hpiece]
    rfl

/-- The access that a host access through an aperture becomes. -/
def hostAccess (v slot off : Nat) (write : Bool) (data : List Byte) (addr : Nat) : Untimed :=
  { agent := agentId 3 v, space := .dram, write := write, addr := addr, data := if write then data else [], len := data.length
    poison := false, tag := slot * 2 ^ 21 + off, received := 0, whole := false }

theorem hostAccess_answered (s : State) (v slot off : Nat) (write : Bool) (data : List Byte)
    (h : (if (houseOf s).recovery = true then none else apertureAddr s v slot off data.length write) = none) :
    exec (.hostApertureAccess v slot off write data) s = .next (answerHost s v slot off 1) := by
  rw [exec_hostApertureAccess, execHostApertureAccess, h]

theorem hostAccess_sent (s : State) (v slot off : Nat) (write : Bool) (data : List Byte) (a : Nat)
    (h : (if (houseOf s).recovery = true then none else apertureAddr s v slot off data.length write) = some a) :
    exec (.hostApertureAccess v slot off write data) s = .next (sendUntimed s (hostAccess v slot off write data a)) := by
  rw [exec_hostApertureAccess, execHostApertureAccess, h]
  rfl

/-- Settles O43: the hub admits, delays or refuses an access; the controller completes it or tries it again; a host access becomes
accesses that cover its span. -/
theorem untimedAccessesComplete : Obligations.UntimedAccessesComplete := by
  refine ⟨fun s a hspace => ⟨?_, ?_, ?_⟩, fun s a hspace => ⟨?_, ?_, ?_, ?_⟩, fun s v slot off write data => ⟨?_, ?_⟩⟩
  · intro hr hh
    exact ⟨_, receive_refused hspace hh ((hubRefuses_iff s a).mpr hr), ⟨rfl, rfl, rfl⟩, rfl, rfl⟩
  · intro hh hr
    have fault := onPairs_hartFault (refusal s a) (a.agent.toNat % 4096)
    refine ⟨_, receive_faults hspace hh (hr.imp_left (hubRefuses_iff s a).mpr), fault.cores, ?_, ?_, fault.faults⟩
    · rw [fault.dram]
      rfl
    · rw [fault.dram]
      rfl
  · intro hr hreach
    have hpass := receive_passes hspace hreach (Bool.eq_false_iff.mpr fun h => hr ((hubRefuses_iff s a).mp h))
    refine ⟨fun hfull => ?_, fun hroom => ?_⟩
    · rw [hpass, if_pos hfull]
      rfl
    · have hdelay : Config.untimedDelay s.fresh % 64 < 64 := Nat.mod_lt _ (by decide)
      rw [hroom, if_neg Bool.false_ne_true] at hpass
      refine ⟨_, s.pod + 1 + Config.untimedDelay s.fresh % 64, hpass, ⟨rfl, rfl, rfl⟩, ?_, ?_, rfl, rfl⟩ <;> omega
  · exact complete_gone hspace
  · intro hin hwait hearly
    rw [complete_waits hspace hin hwait, if_neg (by omega)]
    rfl
  · intro hin hwait hlate
    refine ⟨_, complete_waits hspace hin hwait, ?_⟩
    rw [if_pos hlate]
    exact again_received s a hin
  · intro hin hgo
    obtain ⟨act, hact⟩ := complete_finishes hspace hin hgo
    exact ⟨fun hw => ⟨_, hact, dramComplete_writes (finished s a) a act hw⟩,
      fun hw hclass => ⟨_, hact, dramComplete_reads (finished s a) a act hw hclass⟩⟩
  · intro hnone
    exact ⟨_, hostAccess_answered s v slot off write data hnone, rfl, rfl, rfl, rfl⟩
  · intro a hsome
    obtain ⟨hdata, hspan⟩ := piecesOf_covers s (hostAccess v slot off write data a)
    have hsent := hostAccess_sent s v slot off write data a hsome
    rw [sendUntimed_eq] at hsent
    refine ⟨_, s.pod + 1 + Config.hostLatency s.fresh, _, hsent, rfl, rfl, rfl, by omega, rfl, fun u hu => ?_, fun hw => ?_, ?_⟩
    · obtain ⟨p, -, rfl⟩ := List.mem_map.mp hu
      exact ⟨rfl, rfl, rfl⟩
    · exact (hdata hw).trans (if_pos hw)
    · refine hspan.trans ?_
      cases write <;> rfl

end Sys2Proof.Machine
end

section
/-! PROOF. What the end of a gang's run leaves alone (R218, R253, R266, R268). -/

namespace Sys2Proof.Machine

/-- The step leaves pod time, the contents of every scratch, and the gangs. -/
structure Aside (s t : State) : Prop where
  pod : t.pod = s.pod
  scratch : ScratchSame s t
  gangs : t.gangs = s.gangs

theorem Aside.refl (s : State) : Aside s s := ⟨rfl, fun _ _ => rfl, rfl⟩

theorem Aside.trans {s t u : State} (h₁ : Aside s t) (h₂ : Aside t u) : Aside s u :=
  ⟨h₂.pod.trans h₁.pod, h₁.scratch.trans h₂.scratch, h₂.gangs.trans h₁.gangs⟩

theorem Aside.foldl {α : Type} {f : State → α → State} (h : ∀ s a, Aside s (f s a)) (as : List α) (s : State) :
    Aside s (as.foldl f s) := by
  induction as generalizing s with
  | nil => exact .refl s
  | cons a as ih => exact (h s a).trans (ih (f s a))

theorem Aside.gangOf {s t : State} (h : Aside s t) (g : Nat) : gangOf t g = gangOf s g := by
  rw [Machine.gangOf, Machine.gangOf, h.gangs]

theorem Beside.aside {s t : State} (h : Beside s t) : Aside s t := ⟨h.pod, .of_cores h.cores, h.gangs⟩

theorem aside_modCore (s : State) (k : Nat) {f : Core → Core} (h : ∀ c, (f c).scratch = c.scratch) : Aside s (modCore s k f) :=
  ⟨rfl, scratchSame_modCore s k h, rfl⟩

/-- It also leaves what device memory reads as. -/
structure Upkeep (s t : State) : Prop extends Aside s t, ReadsSame s t

theorem Upkeep.refl (s : State) : Upkeep s s := ⟨.refl s, ⟨rfl, rfl, rfl, rfl⟩⟩

theorem Upkeep.trans {s t u : State} (h₁ : Upkeep s t) (h₂ : Upkeep t u) : Upkeep s u :=
  ⟨h₁.toAside.trans h₂.toAside, h₂.bytes.trans h₁.bytes, h₂.sealed.trans h₁.sealed, h₂.ctxs.trans h₁.ctxs, h₂.keys.trans h₁.keys⟩

theorem Upkeep.foldl {α : Type} {f : State → α → State} (h : ∀ s a, Upkeep s (f s a)) (as : List α) (s : State) :
    Upkeep s (as.foldl f s) := by
  induction as generalizing s with
  | nil => exact .refl s
  | cons a as ih => exact (h s a).trans (ih (f s a))

theorem Aside.upkeep {s t : State} (h : Aside s t) (hr : ReadsSame s t) : Upkeep s t := ⟨h, hr⟩

theorem Logged.upkeep {s t : State} (h : Logged s t) : Upkeep s t :=
  ⟨h.toBeside.aside, by rw [h.dram], by rw [h.dram], h.ctxs, h.keys⟩

theorem upkeep_modCore (s : State) (k : Nat) {f : Core → Core} (h : ∀ c, (f c).scratch = c.scratch) : Upkeep s (modCore s k f) :=
  ⟨aside_modCore s k h, rfl, rfl, rfl, rfl⟩

theorem upkeep_leekMembers (s : State) (g : Nat) (i : Instr) : Upkeep s (leekMembers s g i) :=
  have off := offCore_leekMembers s g i
  ⟨(beside_leekMembers s g i).aside, by rw [off.dram], by rw [off.dram], by rw [off.auth], by rw [off.auth]⟩

theorem upkeep_leekSend (s : State) (g m : Nat) (i : Instr) : Upkeep s (leekSend s g m i) :=
  have off := offCore_leekSend s g m i
  ⟨(beside_leekSend s g m i).aside, by rw [off.dram], by rw [off.dram], by rw [off.auth], by rw [off.auth]⟩

/-! The parts of a run's end. -/

theorem upkeep_countFrozen (s : State) (g n : Nat) : Upkeep s (countFrozen s g n) := by
  unfold countFrozen
  dsimp only
  split
  · exact .foldl (fun u h => (logged_countLife u 4 _ _).upkeep) _ _
  · exact .refl s

theorem upkeep_countEnded (s : State) (g : Nat) : Upkeep s (countEnded s g) :=
  .foldl (fun u (h : Hold) => upkeep_countFrozen u g h.number) _ s

/-- The queue is empty. -/
def noRecords (c : Core) : Core := { c with records := [] }

theorem logged_records (p : Nat) (rs : List Record) (s : State) :
    Logged s (rs.foldl (fun s r => postEvent s p .program evRecord (recordWords r) []) s) :=
  .foldl (fun u r => logged_postEvent u p .program evRecord (recordWords r) []) rs s

theorem upkeep_drainRecords (s : State) (k : Nat) : Upkeep s (drainRecords s k) :=
  (upkeep_modCore s k (f := noRecords) fun _ => rfl).trans (logged_records ..).upkeep

theorem upkeep_leaveGroups (s : State) (ks : List Nat) : Upkeep s (leaveGroups s ks) :=
  .foldl (fun u _ => (logged_postPod u ..).upkeep) _ s

theorem upkeep_retireUnit (s : State) (u : FaultUnit) : Upkeep s (retireUnit s u) := by
  unfold retireUnit
  refine Upkeep.trans ?_ ((logged_countLife _ 6 (unitPos u) 1).upkeep.trans (logged_postPlatform ..).upkeep)
  cases u <;> exact ⟨⟨rfl, fun _ _ => rfl, rfl⟩, rfl, rfl, rfl, rfl⟩

theorem upkeep_retireLasting (s : State) (x : Nat) (ks : List Nat) : Upkeep s (retireLasting s x ks) :=
  .foldl upkeep_retireUnit _ s

theorem aside_postScrub (s : State) (d : Nat) (first : Bool) : Aside s (postScrub s d first) := (beside_postPod ..).aside

theorem aside_hub (s : State) (h : Hub) : Aside s { s with hub := h } := ⟨rfl, fun _ _ => rfl, rfl⟩

theorem aside_setScrub (s : State) (d : Nat) (x : Scrub) : Aside s (setScrub s d x) := aside_hub s _

theorem aside_scrubContext (s : State) (x : Nat) : Aside s (scrubContext s x) := by
  unfold scrubContext
  split
  · refine Aside.trans (t := setHouse (setAuth s _) _) ((aside_hub ..).trans (aside_hub ..)) (.foldl (fun u d => ?_) _ _)
    dsimp only
    split
    · exact .refl u
    · split
      · exact (aside_setScrub u d _).trans (aside_postScrub ..)
      · exact aside_setScrub u d _
  · exact .refl s

theorem scrubContext_unprotected {s : State} {x : Nat} (h : (ctxOf s x).protect = false) : scrubContext s x = s := by
  rw [scrubContext, h]
  rfl

/-- The regions of a core that context `x` owns are its no more. -/
def disowned (x : Nat) (c : Core) : Core := { c with owners := c.owners.filter fun o => decide (o.2 ≠ x) }

/-- The commands of a core's channel group are forgotten. -/
def noCommands (c : Core) : Core := { c with dramCmds := [] }

theorem upkeep_endClaims (s : State) (x : Nat) (ks : List Nat) : Upkeep s (endClaims s x ks) :=
  .trans (.foldl (fun u k => upkeep_modCore u k (f := disowned x) fun _ => rfl) _ s)
    (.foldl (fun u k => upkeep_modCore u k (f := noCommands) fun _ => rfl) ks _)

theorem upkeep_vacant (s : State) (x k : Nat) : Upkeep s (setCore s k (vacantCore (coreOf s k) x)) :=
  upkeep_modCore s k (f := fun c => vacantCore c x) fun _ => rfl

/-! The end of a run. -/

/-- What a gang is when its run has ended. -/
def endedGang (x : Gang) : Gang :=
  { x with
    mode := .idle, hasRun := false, gcyc := 0, holds := [], resume := none, arrived := [], children := [], forwarded := false
    latest := 0, idleKids := [], toldIdle := false, overKids := [], toldOver := false, farRunning := [], barriers := []
    complete := false, rows := [], groupCmds := [], swapIn := none
    vote := {}, fsa := [], fsaUsed := 4096, sent := [], recv := [], capt := [], loops := [], faulted := false
    overflow := false, inexact := false, swIn := 0, swAborted := 0 }

/-- The gang's records are drained, its jobs gone, and its groups left. -/
def discarded (s : State) (g : Nat) : State :=
  let a := (gangCores s g).foldl drainRecords (countEnded s g)
  leaveGroups { a with agenda := a.agenda.filter fun j => !ofGang g j } (setCores a (gangOf s g).coreset)

/-- Nothing issues on cores `ks`. -/
def noIssue (s : State) (ks : List Nat) : State :=
  { s with issuing := match s.issuing with
    | some (.slot k _) => if ks.contains k then none else s.issuing
    | some (.micro k) => if ks.contains k then none else s.issuing
    | none => none }

/-- The cores `ks` are vacated by gang `x`, and its claims end. -/
def vacated (s : State) (x : Gang) (ks : List Nat) : State :=
  endClaims (ks.foldl (fun s k => setCore s k (vacantCore (coreOf s k) x.ctx)) s) x.ctx
    (if onSet x then setCores s x.coreset else [])

/-- What the fabric and the hub keep of gang `g`'s run is gone. -/
def forgotten (s : State) (g : Nat) (x : Gang) : State :=
  let s := setFab s
    { fabOf s with
      kept := (fabOf s).kept.filter fun f => decide (f.gang ≠ g), drops := (fabOf s).drops.filter fun d => decide (d.1 ≠ g) }
  let lo := 64 * x.coreset
  { s with hub := { s.hub with
    barriers := s.hub.barriers.filter fun b => !decide (lo ≤ b.1 ∧ b.1 < lo + 64)
    regions := s.hub.regions.filter fun r => decide (r.1 / 2 ^ 16 ≠ x.ctx)
    images := s.hub.images.filter fun e =>
      decide (e.1 / 1024 ≠ x.ctx) || ((ctxOf s x.ctx).stop && !(ctxOf s x.ctx).protect) } }

/-- The run has ended, but for the gang's own state. -/
def runOut (s : State) (g : Nat) : State :=
  let x := gangOf s g
  let a := noIssue (discarded s g) (gangCores s g)
  let b := retireLasting (scrubContext a x.ctx) x.ctx (gangCores s g)
  forgotten (vacated b x (gangCores s g)) g x

theorem endRun_eq (s : State) (g : Nat) : endRun s g = setGang (runOut s g) g (endedGang (gangOf s g)) := rfl

theorem upkeep_discarded (s : State) (g : Nat) : Upkeep s (discarded s g) := by
  unfold discarded
  have drained : Upkeep s ((gangCores s g).foldl drainRecords (countEnded s g)) :=
    (upkeep_countEnded s g).trans (.foldl upkeep_drainRecords _ _)
  generalize (gangCores s g).foldl drainRecords (countEnded s g) = a at drained ⊢
  refine drained.trans (Upkeep.trans ?_ (upkeep_leaveGroups ..))
  exact ⟨⟨rfl, fun _ _ => rfl, rfl⟩, rfl, rfl, rfl, rfl⟩

theorem upkeep_noIssue (s : State) (ks : List Nat) : Upkeep s (noIssue s ks) :=
  ⟨⟨rfl, fun _ _ => rfl, rfl⟩, rfl, rfl, rfl, rfl⟩

theorem upkeep_vacated (s : State) (x : Gang) (ks : List Nat) : Upkeep s (vacated s x ks) :=
  .trans (.foldl (fun u k => upkeep_vacant u x.ctx k) ks s) (upkeep_endClaims ..)

theorem upkeep_forgotten (s : State) (g : Nat) (x : Gang) : Upkeep s (forgotten s g x) :=
  ⟨⟨rfl, fun _ _ => rfl, rfl⟩, rfl, rfl, rfl, rfl⟩

theorem aside_runOut (s : State) (g : Nat) : Aside s (runOut s g) :=
  (upkeep_discarded s g).toAside.trans <| (upkeep_noIssue ..).toAside.trans <| (aside_scrubContext ..).trans <|
    (upkeep_retireLasting ..).toAside.trans <| (upkeep_vacated ..).toAside.trans (upkeep_forgotten ..).toAside

theorem upkeep_runOut {s : State} {g : Nat} (h : (ctxOf s (gangOf s g).ctx).protect = false) : Upkeep s (runOut s g) := by
  have early : Upkeep s (noIssue (discarded s g) (gangCores s g)) := (upkeep_discarded s g).trans (upkeep_noIssue ..)
  have bare : scrubContext (noIssue (discarded s g) (gangCores s g)) (gangOf s g).ctx = noIssue (discarded s g) (gangCores s g) :=
    scrubContext_unprotected (by rw [ctxOf, early.ctxs]; exact h)
  rw [runOut, bare]
  exact early.trans <| (upkeep_retireLasting ..).trans <| (upkeep_vacated ..).trans (upkeep_forgotten ..)

/-- An ended run leaves the contents of every scratch and the other gangs; its own gang is idle. -/
theorem endRun_ends (s : State) (g : Nat) :
    gangOf (endRun s g) g = endedGang (gangOf s g) ∧ (∀ n, n ≠ g → gangOf (endRun s g) n = gangOf s n) ∧
      (endRun s g).pod = s.pod ∧ ScratchSame s (endRun s g) := by
  have kept := aside_runOut s g
  rw [endRun_eq]
  exact ⟨gangOf_setGang_self .., fun n hn => (gangOf_setGang_ne _ _ hn).trans (kept.gangOf n), kept.pod, kept.scratch⟩

theorem endRun_reads {s : State} {g : Nat} (h : (ctxOf s (gangOf s g).ctx).protect = false) : ReadsSame s (endRun s g) := by
  have kept := upkeep_runOut h
  rw [endRun_eq]
  exact ⟨kept.bytes, kept.sealed, kept.ctxs, kept.keys⟩

/-! Teardown (R268). -/

theorem aside_putDev (s : State) (a : Nat) (bs : List Byte) : Aside s (putDev s a bs) := aside_hub s _

theorem aside_putVia (s : State) (b : Table Word) (lin : Nat) (bs : List Byte) : Aside s (putVia s b lin bs) := by
  unfold putVia
  dsimp only
  split
  · exact aside_putDev ..
  · exact .refl s

theorem aside_putLin (s : State) (x lin : Nat) (bs : List Byte) : Aside s (putLin s x lin bs) := by
  unfold putLin
  split
  · exact aside_putDev ..
  · exact .refl s

theorem aside_writeFence (s : State) (g status : Nat) : Aside s (writeFence s g status) := by
  unfold writeFence fenceVia
  dsimp only
  split
  · exact aside_putVia ..
  · exact .refl s

theorem aside_writeNext (s : State) (g n : Nat) : Aside s (writeNext s g n) := by
  unfold writeNext nextVia
  split
  · exact aside_putVia ..
  · exact .refl s

theorem aside_postEvent (s : State) (p : Nat) (cls : EventClass) (kind : Nat) (data : List Nat) (fault : List Byte) :
    Aside s (postEvent s p cls kind data fault) := (logged_postEvent ..).toBeside.aside

theorem aside_setHalt (s : State) (g : Nat) : Aside s (setHalt s g) := by
  unfold setHalt
  split
  · exact .refl s
  · exact (aside_putLin ..).trans (aside_postEvent ..)

theorem aside_storeImage (s : State) (x k t : Nat) (c : Core) (post : Bool) : Aside s (storeImage s x k t c post) := by
  unfold storeImage
  split
  · exact aside_putDev ..
  · exact .refl s

theorem aside_postMortem (s : State) (g : Nat) : Aside s (postMortem s g) := by
  unfold postMortem
  dsimp only
  split
  · exact .foldl (fun u k => .trans (aside_storeImage u (gangOf s g).ctx k _ (coreOf u k) true) (aside_hub ..)) _ s
  · exact .refl s

theorem aside_setEnv (s : State) (e : Cluster) : Aside s (setEnv s e) := aside_hub s _

theorem aside_takeFresh (s : State) : Aside s (takeFresh s).2 := ⟨rfl, fun _ _ => rfl, rfl⟩

theorem aside_stopEpisode (s : State) (p : Nat) : Aside s (stopEpisode s p) := by
  unfold stopEpisode
  dsimp only
  generalize hartsOfPair s p = hs
  refine Aside.trans (.foldl (fun v h => ?_) hs s) ⟨rfl, fun _ _ => rfl, rfl⟩
  exact .trans (t := setHart v h _) (aside_setEnv ..) (aside_setEnv ..)

theorem aside_putMb (s : State) (p off : Nat) (bs : List Byte) : Aside s (putMb s p off bs) := aside_setEnv ..

theorem aside_setTurn (s : State) (p : Nat) (b : Bool) : Aside s (setTurn s p b) := aside_setEnv ..

theorem aside_mbEnd (s : State) (p status cause : Nat) : Aside s (mbEnd s p status cause) :=
  .trans (t := copyStamps s p) ((aside_putMb ..).trans (aside_putMb ..)) <| (aside_putMb ..).trans <| (aside_putMb ..).trans <|
    (aside_putMb ..).trans <| (aside_setTurn ..).trans (aside_stopEpisode ..)

theorem aside_mbTeardown (s : State) (x : Nat) : Aside s (mbTeardown s x) := by
  refine .foldl (fun u q => .foldl (fun v i => ?_) _ u) _ s
  dsimp only
  refine Aside.trans ?_ ((aside_putMb ..).trans <| (aside_putMb ..).trans (aside_setTurn ..))
  split
  · exact .refl v
  · exact aside_mbEnd ..

theorem aside_abortVote (s : State) (g : Nat) : Aside s (abortVote s g) := by
  unfold abortVote
  dsimp only
  split
  · exact .refl s
  · split
    · exact (upkeep_leekMembers ..).toAside
    · exact (upkeep_leekSend ..).toAside

/-- The gang was torn down at pod cycle `p`, `n` times in a row. -/
def tornGang (n p : Nat) (y : Gang) : Gang := { y with tears := n, tornAt := some p }

/-- Other gangs' next start may be late. -/
def startsLate (s : State) : State := { s with hub := { s.hub with delayed := true } }

theorem aside_startsLate (s : State) : Aside s (startsLate s) := aside_hub s _

/-- A teardown's work before the run ends: the fence's status, HALT, the image, the mailboxes and the vote. -/
theorem teardown_ends {s : State} {g : Nat} (cls : EventClass) (h : (gangOf s g).hasRun = true) :
    ∃ u n, Aside s u ∧ teardown s g cls = startsLate (modGang (endRun u g) g (tornGang n (endRun u g).pod)) := by
  unfold teardown
  dsimp only
  rw [if_neg (by rw [h]; decide)]
  generalize (if cls = EventClass.program then (gangOf s g).tears + 1 else (gangOf s g).tears) = n
  refine ⟨_, _, ?_, rfl⟩
  refine Aside.trans ?_ ((aside_postMortem ..).trans <| (aside_mbTeardown ..).trans (aside_abortVote ..))
  refine (aside_writeFence s g 3).trans ?_
  split
  · exact aside_setHalt ..
  · exact .refl _

/-- A teardown ends the gang's run: it stands idle, torn now, and keeps what its next run starts from. -/
theorem teardown_torn {s : State} {g : Nat} (cls : EventClass) (h : (gangOf s g).hasRun = true) :
    Torn s (teardown s g cls) g ∧ (gangOf (teardown s g cls) g).lastFault = (gangOf s g).lastFault ∧
      (∀ n, n ≠ g → gangOf (teardown s g cls) n = gangOf s n) ∧ (teardown s g cls).pod = s.pod := by
  obtain ⟨u, n, aside, ht⟩ := teardown_ends cls h
  obtain ⟨hself, hothers, hpod, hscratch⟩ := endRun_ends u g
  have late := aside_startsLate (modGang (endRun u g) g (tornGang n (endRun u g).pod))
  rw [ht]
  have hgang : gangOf (startsLate (modGang (endRun u g) g (tornGang n (endRun u g).pod))) g =
      tornGang n s.pod (endedGang (gangOf s g)) := by
    rw [late.gangOf, gangOf_modGang_self, hself, hpod, aside.pod, aside.gangOf]
  refine ⟨⟨?_, ?_, ?_, ?_⟩, ?_, fun i hi => ?_, ?_⟩
  · rw [hgang]; rfl
  · rw [hgang]; rfl
  · rw [hgang]; rfl
  · exact aside.scratch.trans (hscratch.trans (.of_cores rfl))
  · rw [hgang]; rfl
  · rw [late.gangOf, gangOf_modGang_ne _ _ hi, hothers i hi, aside.gangOf]
  · exact hpod.trans aside.pod

/-- A fault on this member tells the members and tears the run down. -/
theorem abortGang_torn {s : State} {g : Nat} (cls : EventClass) (h : (gangOf s g).hasRun = true) :
    Torn s (abortGang s g cls) g ∧ (gangOf (abortGang s g cls) g).lastFault = (gangOf s g).lastFault ∧
      (∀ n, n ≠ g → gangOf (abortGang s g cls) n = gangOf s n) ∧ (abortGang s g cls).pod = s.pod := by
  have told := (upkeep_leekMembers s g (.abortgang g cls)).toAside
  have heq : abortGang s g cls = teardown (leekMembers s g (.abortgang g cls)) g cls := if_pos h
  obtain ⟨⟨hmode, hrun, htorn, hscratch⟩, hlast, hothers, hpod⟩ :=
    teardown_torn (s := leekMembers s g (.abortgang g cls)) cls ((congrArg Gang.hasRun (told.gangOf g)).trans h)
  rw [heq]
  exact ⟨⟨hmode, hrun, by rw [htorn, told.pod], told.scratch.trans hscratch⟩, by rw [hlast, told.gangOf],
    fun n hn => (hothers n hn).trans (told.gangOf n), hpod.trans told.pod⟩

end Sys2Proof.Machine
end

section
/-! PROOF. RCLAIM, and the spill and fill of a region during its hold (R266, R400). -/

namespace Sys2Proof.Machine

theorem exec_rclaim (m : Mv) (s : State) : exec (.rclaim m) s = execRclaim m s := rfl
theorem exec_regionSpillFill (k n : Nat) (s : State) : exec (.regionSpillFill k n) s = execRegionSpillFill k n s := rfl

/-! RCLAIM (R400). -/

/-- Region `n` is claimed from gang cycle `t` on. -/
def claiming (n t : Nat) (c : Core) : Core := { c with claims := c.claims ++ [(n, t)] }

/-- What RCLAIM does at its arrival, after the notes of its trigger. -/
def rclaimEffect (fl : Flight) (s : State) : State :=
  let n := (scalarIn .z fl.val).toNat % 64
  let t := fl.arrive + leadOf s (me s)
  let x := (gangOf s (myCore s).gang).ctx
  if (myCore s).claims.any (fun cl => decide (cl.1 = n)) then s
  else if tget 0 (myCore s).owners n = x ∧ x ≠ 0 then modMe s (claiming n t)
  else if s.looking then modMe s (claiming n t)
  else announceHold (modMe s (claiming n t)) (myCore s).gang t .rclaim (rclaimKey (me s) n)

section
variable {s : State} {fl : Flight} {m : Mv} (h : s.cur.flight = some fl)
include h

theorem rclaim_arrives : ∃ u d, exec (.rclaim m) s = .next (rclaimEffect fl u) ∧ OwnStep s u (noted (myCore s) d) [] ∧
    RaisesOnly [4] (myCore s) (noted (myCore s) d) := by
  have arrival := ownStep_noteTrigger ((dstId (.rclaim m)).getD 0 / 64) fl s
  have raises := noteTrigger_raises ((dstId (.rclaim m)).getD 0 / 64) (myCore s) fl
  rw [noteTrigger_noted] at raises
  exact ⟨_, _, (exec_rclaim m s).trans (trigger_arrival _ _ _ _ _ h), arrival, raises⟩

theorem rclaim_claimed (hc : ∃ e ∈ (myCore s).claims, e.1 = (scalarIn .z fl.val).toNat % 64) :
    Completes (.rclaim m) s (myCore s) [] := by
  obtain ⟨u, d, hx, own, raises⟩ := rclaim_arrives (m := m) h
  have hany : (myCore u).claims.any (fun cl => decide (cl.1 = (scalarIn .z fl.val).toNat % 64)) = true := by
    obtain ⟨e, he, hn⟩ := hc
    rw [own.myCore_eq]
    exact List.any_eq_true.mpr ⟨e, he, decide_eq_true hn⟩
  rw [rclaimEffect, if_pos hany] at hx
  exact completes_of_own hx own rfl raises

omit h in
theorem rclaim_unclaimed (hc : ¬∃ e ∈ (myCore s).claims, e.1 = (scalarIn .z fl.val).toNat % 64) {u : State} {d : Core}
    (own : OwnStep s u (noted (myCore s) d) []) : rclaimEffect fl u =
      let n := (scalarIn .z fl.val).toNat % 64
      let t := fl.arrive + (gangOf s (myCore s).gang).h
      let x := (gangOf s (myCore s).gang).ctx
      if tget 0 (myCore s).owners n = x ∧ x ≠ 0 then modMe u (claiming n t)
      else if s.looking then modMe u (claiming n t)
      else announceHold (modMe u (claiming n t)) (myCore s).gang t .rclaim (me s + 1024 * n) := by
  have hany : ¬(myCore u).claims.any (fun cl => decide (cl.1 = (scalarIn .z fl.val).toNat % 64)) = true := by
    rw [own.myCore_eq]
    intro hany
    obtain ⟨e, he, hn⟩ := List.any_eq_true.mp hany
    exact hc ⟨e, he, of_decide_eq_true hn⟩
  have hgang : (myCore u).gang = (myCore s).gang := by rw [own.myCore_eq]; rfl
  have howners : (myCore u).owners = (myCore s).owners := by rw [own.myCore_eq]; rfl
  have hg : gangOf u (myCore s).gang = gangOf s (myCore s).gang := by rw [gangOf, own.gangs]; rfl
  have hlead : leadOf u (me u) = (gangOf s (myCore s).gang).h := by
    show (gangOf u (myCore u).gang).h = _
    rw [hgang, hg]
  rw [rclaimEffect]
  dsimp only
  rw [if_neg hany, hlead, hgang, howners, hg, own.looking, own.me_eq]
  rfl

theorem rclaim_owned (hc : ¬∃ e ∈ (myCore s).claims, e.1 = (scalarIn .z fl.val).toNat % 64)
    (ho : tget 0 (myCore s).owners ((scalarIn .z fl.val).toNat % 64) = (gangOf s (myCore s).gang).ctx ∧
      (gangOf s (myCore s).gang).ctx ≠ 0) :
    Completes (.rclaim m) s (claiming ((scalarIn .z fl.val).toNat % 64) (fl.arrive + (gangOf s (myCore s).gang).h) (myCore s)) [] := by
  obtain ⟨u, d, hx, own, raises⟩ := rclaim_arrives (m := m) h
  rw [rclaim_unclaimed hc own] at hx
  dsimp only at hx
  rw [if_pos ho] at hx
  exact completes_of_own hx (own.thenMod _) rfl raises

theorem rclaim_announces (hc : ¬∃ e ∈ (myCore s).claims, e.1 = (scalarIn .z fl.val).toNat % 64)
    (ho : ¬(tget 0 (myCore s).owners ((scalarIn .z fl.val).toNat % 64) = (gangOf s (myCore s).gang).ctx ∧
      (gangOf s (myCore s).gang).ctx ≠ 0)) (hlook : s.looking = false) (hrun : (gangOf s (myCore s).gang).mode = .running) :
    let d := claiming ((scalarIn .z fl.val).toNat % 64) (fl.arrive + (gangOf s (myCore s).gang).h) (myCore s)
    ∃ t, exec (.rclaim m) s = .next t ∧ coreOf t (me s) = noted d (coreOf t (me s)) ∧
      (∀ k, k ≠ me s → coreOf t k = coreOf s k) ∧
      Announced s { t with cores := s.cores } (myCore s).gang (fl.arrive + (gangOf s (myCore s).gang).h) .rclaim
        (me s + 1024 * ((scalarIn .z fl.val).toNat % 64)) := by
  obtain ⟨u, d, hx, own, -⟩ := rclaim_arrives (m := m) h
  rw [rclaim_unclaimed hc own] at hx
  dsimp only at hx
  rw [if_neg ho, hlook, if_neg Bool.false_ne_true] at hx
  have mine := own.thenMod (claiming ((scalarIn .z fl.val).toNat % 64) (fl.arrive + (gangOf s (myCore s).gang).h))
  generalize modMe u (claiming ((scalarIn .z fl.val).toNat % 64) (fl.arrive + (gangOf s (myCore s).gang).h)) = v at mine hx
  have off := offCore_announceHold v (myCore s).gang (fl.arrive + (gangOf s (myCore s).gang).h) .rclaim
    (me s + 1024 * ((scalarIn .z fl.val).toNat % 64))
  have hgangOf (g : Nat) : gangOf v g = gangOf s g := by rw [gangOf, mine.gangs]; rfl
  have hnumber : holdNumber v (myCore s).gang = holdNumber s (myCore s).gang := by
    rw [holdNumber, holdNumber, hgangOf, chipOf, fabOf, mine.hub]
    rfl
  obtain ⟨hself, hothers, -⟩ := announceHold_running (s := v) (g := (myCore s).gang) (fl.arrive + (gangOf s (myCore s).gang).h) .rclaim
    (me s + 1024 * ((scalarIn .z fl.val).toNat % 64)) (by rw [hgangOf]; exact hrun)
  rw [hgangOf, hnumber, mine.pod] at hself
  refine ⟨_, hx, ?_, fun k hk => ?_, hself, fun n hn => (hothers n hn).trans (hgangOf n), rfl⟩
  · rw [off.coreOf, mine.core]
    rfl
  · rw [off.coreOf, mine.others k hk]

end

/-! Parts of a table. -/

theorem tget_append_right {α : Type} (d : α) (t u : Table α) (k : Nat) (h : ∀ e ∈ t, e.1 ≠ k) : tget d (t ++ u) k = tget d u k := by
  induction t with
  | nil => rfl
  | cons e t ih =>
    obtain ⟨j, v⟩ := e
    rw [List.cons_append, tget, if_neg fun hk => h _ List.mem_cons_self hk.symm]
    exact ih fun e he => h e (List.mem_cons_of_mem _ he)

theorem tget_append_left {α : Type} (d : α) (t u : Table α) (k : Nat) (h : ∀ e ∈ u, e.1 ≠ k) : tget d (t ++ u) k = tget d t k := by
  induction t with
  | nil =>
    have hu := tget_append_right d u [] k h
    rw [List.append_nil] at hu
    exact hu
  | cons e t ih =>
    obtain ⟨j, v⟩ := e
    rw [List.cons_append, tget, tget, ih]

/-- The keys of a table moved up by `lo`. -/
theorem tget_map_shift {α : Type} (d : α) (t : Table α) (lo k : Nat) :
    tget d (t.map fun e => (lo + e.1, e.2)) k = if lo ≤ k then tget d t (k - lo) else d := by
  induction t with
  | nil => simp [tget]
  | cons e t ih =>
    obtain ⟨j, v⟩ := e
    rw [List.map_cons, tget, ih]
    by_cases hk : lo ≤ k
    · rw [if_pos hk, if_pos hk, tget]
      exact if_congr (by omega) rfl rfl
    · rw [if_neg hk, if_neg hk, if_neg (by omega)]

/-- The entries of `n` keys from `lo` on, by their place there. -/
theorem tget_window {α : Type} (d : α) (t : Table α) (lo n k : Nat) (hk : k < n) :
    tget d ((t.filter fun e => decide (lo ≤ e.1 ∧ e.1 < lo + n)).map fun e => (e.1 - lo, e.2)) k = tget d t (lo + k) := by
  induction t with
  | nil => rfl
  | cons e t ih =>
    obtain ⟨j, v⟩ := e
    rw [List.filter_cons]
    split
    next hin =>
      have hin' : lo ≤ j ∧ j < lo + n := of_decide_eq_true hin
      rw [List.map_cons, tget, ih, tget]
      exact if_congr (by omega) rfl rfl
    next hout =>
      have hout' : ¬(lo ≤ j ∧ j < lo + n) := fun h => hout (decide_eq_true h)
      rw [ih, tget, if_neg (by omega)]

theorem tget_spliceTable {α : Type} (d : α) (t part : Table α) (lo n k : Nat) (hp : ∀ e ∈ part, e.1 < n) :
    tget d (spliceTable t lo n part) k = if lo ≤ k ∧ k < lo + n then tget d part (k - lo) else tget d t k := by
  have mem_filter {p : Nat → Bool} {e : Nat × α} (he : e ∈ t.filter fun e => p e.1) : p e.1 = true := (List.mem_filter.mp he).2
  have mem_part {e : Nat × α} (he : e ∈ part.map fun e => (lo + e.1, e.2)) : lo ≤ e.1 ∧ e.1 < lo + n := by
    obtain ⟨e', he', rfl⟩ := List.mem_map.mp he
    have := hp e' he'
    dsimp only
    omega
  unfold spliceTable
  rcases Nat.lt_or_ge k lo with hlt | hge
  · rw [if_neg (by omega), tget_append_left, tget_append_left, tget_filter d t (fun j => decide (j < lo)), if_pos (decide_eq_true hlt)]
    · exact fun e he hk => by have := mem_part he; omega
    · exact fun e he hk => by have := of_decide_eq_true (mem_filter (p := fun j => decide (lo + n ≤ j)) he); omega
  · rw [List.append_assoc, tget_append_right]
    · by_cases hin : k < lo + n
      · rw [if_pos ⟨hge, hin⟩, tget_append_left, tget_map_shift, if_pos hge]
        exact fun e he hk => by have := of_decide_eq_true (mem_filter (p := fun j => decide (lo + n ≤ j)) he); omega
      · rw [if_neg fun h => hin h.2, tget_append_right, tget_filter d t (fun j => decide (lo + n ≤ j)),
          if_pos (decide_eq_true (by omega))]
        exact fun e he hk => by have := mem_part he; omega
    · exact fun e he hk => by have := of_decide_eq_true (mem_filter (p := fun j => decide (j < lo)) he); omega

/-! The release of holds (R24). -/

/-- A hold of number `n` is released at `t`. -/
def releaseHold (n t : Nat) (h : Hold) : Hold := if h.number = n then { h with released := some t } else h

theorem settleHolds_holds (s : State) (g : Nat) : (gangOf (settleHolds s g) g).holds = (gangOf s g).holds := by
  unfold settleHolds
  dsimp only
  split
  · split
    · rw [gangOf_postPod, gangOf_setGang_self]
    · rw [gangOf_setGang_self]
  · rfl

theorem gangs_countFrozen (s : State) (g n : Nat) : (countFrozen s g n).gangs = s.gangs := (upkeep_countFrozen s g n).gangs

theorem markReleased_holds (s : State) (g n t : Nat) :
    (gangOf (markReleased s g n t) g).holds = (gangOf s g).holds.map (releaseHold n t) := by
  rw [markReleased, settleHolds_holds, gangOf_modGang_self, (upkeep_countFrozen s g n).toAside.gangOf]
  rfl

/-- Of the holds of a cause and a key, those left announced are of the numbers `ns`. -/
def LeftOpen (ns : List Nat) (cause : HoldCause) (key : Nat) (hs : List Hold) : Prop :=
  ∀ h ∈ hs, h.cause = cause → h.core = key → h.released = none → h.number ∈ ns

theorem leftOpen_release {n : Nat} {ns : List Nat} {cause : HoldCause} {key : Nat} {hs : List Hold} (t : Nat)
    (h : LeftOpen (n :: ns) cause key hs) : LeftOpen ns cause key (hs.map (releaseHold n t)) := by
  intro x hx hc hk hr
  obtain ⟨y, hy, rfl⟩ := List.mem_map.mp hx
  by_cases hn : y.number = n
  · rw [releaseHold, if_pos hn] at hr
    cases hr
  · rw [releaseHold, if_neg hn] at hc hk hr ⊢
    exact (List.mem_cons.mp (h y hy hc hk hr)).resolve_left hn

theorem releaseHolds_released (s : State) (g : Nat) (cause : HoldCause) (key : Nat) :
    hasHold (releaseHolds s g cause key) g cause key = false := by
  obtain ⟨mine, hmine⟩ : ∃ mine, mine = (gangOf s g).holds.filter fun h =>
    decide (h.cause = cause ∧ h.core = key ∧ h.released = none) := ⟨_, rfl⟩
  have start : LeftOpen (mine.map Hold.number) cause key (gangOf s g).holds := fun h hh hc hk hr =>
    List.mem_map_of_mem (hmine ▸ List.mem_filter.mpr ⟨hh, decide_eq_true ⟨hc, hk, hr⟩⟩)
  have done : LeftOpen [] cause key (gangOf (mine.foldl (fun s h =>
      leekMembers (markReleased s g h.number s.pod) g (.release g h.number s.pod)) s) g).holds := by
    clear hmine
    induction mine generalizing s with
    | nil => exact start
    | cons h hs ih =>
      refine ih _ ?_
      rw [(beside_leekMembers ..).gangOf, markReleased_holds]
      exact leftOpen_release _ start
  rw [releaseHolds, ← hmine, hasHold, List.any_eq_false]
  intro h hh hd
  obtain ⟨hc, hk, hr⟩ := of_decide_eq_true hd
  cases done h hh hc hk hr

/-! The spill and fill (R266). -/

theorem storeRegion_keeps (s : State) (x k n : Nat) : (storeRegion s x k n).cores = s.cores ∧ (storeRegion s x k n).gangs = s.gangs := by
  have put (a : Nat) (bs : List Byte) : (putDev s a bs).cores = s.cores ∧ (putDev s a bs).gangs = s.gangs := ⟨rfl, rfl⟩
  unfold storeRegion
  split
  · exact put ..
  · exact ⟨rfl, rfl⟩

/-- The owner's copy of a region kept, and the claimant's taken. -/
theorem takeRegion_takes {s : State} {k n x : Nat} (ho : tget 0 (coreOf s k).owners n ≠ x)
    (hsaved : ∀ e ∈ (tget {} s.hub.regions (x * 2 ^ 16 + k * 64 + n)).data, e.1 < 65536) :
    let c := coreOf s k
    let o := tget 0 c.owners n
    let t := takeRegion s k n x
    tget 0 (coreOf t k).owners n = x ∧ (∀ j, j ≠ k → coreOf t j = coreOf s j) ∧
      (∀ b, tget 0 (coreOf t k).scratch b =
        if b / 65536 = n then tget 0 (tget {} s.hub.regions (x * 2 ^ 16 + k * 64 + n)).data (b % 65536) else tget 0 c.scratch b) ∧
      (o ≠ 0 → ∀ b < 65536, tget 0 (tget {} t.hub.regions (o * 2 ^ 16 + k * 64 + n)).data b = tget 0 c.scratch (n * 65536 + b)) ∧
      t.gangs = s.gangs := by
  intro c o t
  obtain ⟨rs, hrs⟩ : ∃ rs, rs = if o = 0 then s.hub.regions else tins s.hub.regions (regionKey o k n) (saveRegion c n) := ⟨_, rfl⟩
  have hkeys : regionKey x k n ≠ regionKey o k n := by
    have hne : o ≠ x := ho
    unfold regionKey
    omega
  have hmine : tget {} rs (regionKey x k n) = tget {} s.hub.regions (x * 2 ^ 16 + k * 64 + n) := by
    rw [hrs]
    split
    · rfl
    · exact tget_tins_ne _ _ _ hkeys
  obtain ⟨v, hv⟩ : ∃ v, v = if o = 0 then s else storeRegion s o k n := ⟨_, rfl⟩
  have stored : v.cores = s.cores ∧ v.gangs = s.gangs := by
    rw [hv]
    split
    · exact ⟨rfl, rfl⟩
    · exact storeRegion_keeps ..
  have ht : t = setCore { v with hub := { v.hub with regions := tdel rs (regionKey x k n) } } k
      { fillRegion c n (tget {} rs (regionKey x k n)) with owners := tset 0 c.owners n x } := by
    show takeRegion s k n x = _
    rw [hrs, hv, takeRegion, if_neg ho]
  have hself : coreOf t k = { fillRegion c n (tget {} rs (regionKey x k n)) with owners := tset 0 c.owners n x } := by
    rw [ht]
    exact coreOf_setCore_self ..
  refine ⟨?_, fun j hj => ?_, fun b => ?_, fun ho0 b hb => ?_, ?_⟩
  · rw [hself]
    exact tget_tset_self ..
  · rw [ht, coreOf_setCore_ne _ _ hj, coreOf, coreOf]
    exact congrArg (fun cs => tget {} cs j) stored.1
  · rw [hself]
    show tget 0 (spliceTable c.scratch (n * 65536) 65536 (tget {} rs (regionKey x k n)).data) b = _
    rw [hmine, tget_spliceTable _ _ _ _ _ _ hsaved]
    by_cases hb : b / 65536 = n
    · rw [if_pos hb, if_pos (by omega), show b - n * 65536 = b % 65536 by omega]
    · rw [if_neg hb, if_neg (by omega)]
  · rw [ht]
    show tget 0 (tget {} (tdel rs (regionKey x k n)) (regionKey o k n)).data b = _
    rw [tget_tdel_ne _ _ hkeys.symm, hrs, if_neg ho0, tget_tins_self]
    exact tget_window 0 c.scratch (n * 65536) 65536 b hb
  · rw [ht]
    exact stored.2

theorem regions_releaseHolds (s : State) (g : Nat) (cause : HoldCause) (key : Nat) :
    (releaseHolds s g cause key).hub.regions = s.hub.regions := by
  rw [(offCore_releaseHolds s g cause key).hub]

theorem regionSpillFill_fills {s : State} {k n g : Nat}
    (hfind : (s.gangs.map (·.1)).find? (fun g => hasHold s g .rclaim (k + 1024 * n)) = some g) (hg : (coreOf s k).gang = g)
    (ho : tget 0 (coreOf s k).owners n ≠ (gangOf s g).ctx)
    (hsaved : ∀ e ∈ (tget {} s.hub.regions ((gangOf s g).ctx * 2 ^ 16 + k * 64 + n)).data, e.1 < 65536) :
    let c := coreOf s k
    let x := (gangOf s g).ctx
    let o := tget 0 c.owners n
    ∃ t, exec (.regionSpillFill k n) s = .next t ∧ hasHold t g .rclaim (k + 1024 * n) = false ∧
      tget 0 (coreOf t k).owners n = x ∧ (∀ j, j ≠ k → coreOf t j = coreOf s j) ∧
      (∀ b, tget 0 (coreOf t k).scratch b =
        if b / 65536 = n then tget 0 (tget {} s.hub.regions (x * 2 ^ 16 + k * 64 + n)).data (b % 65536) else tget 0 c.scratch b) ∧
      (o ≠ 0 → ∀ b < 65536, tget 0 (tget {} t.hub.regions (o * 2 ^ 16 + k * 64 + n)).data b = tget 0 c.scratch (n * 65536 + b)) := by
  intro c x o
  obtain ⟨howner, hothers, hscratch, hstored, -⟩ := takeRegion_takes ho hsaved
  have off := offCore_releaseHolds (takeRegion s k n x) g .rclaim (k + 1024 * n)
  refine ⟨releaseHolds (takeRegion s k n x) g .rclaim (k + 1024 * n), ?_, releaseHolds_released .., ?_, fun j hj => ?_, fun b => ?_,
    fun ho0 b hb => ?_⟩
  · rw [exec_regionSpillFill, execRegionSpillFill, rclaimKey, hfind]
    dsimp only
    rw [if_pos hg]
  · rw [off.coreOf]
    exact howner
  · rw [off.coreOf]
    exact hothers j hj
  · rw [off.coreOf]
    exact hscratch b
  · rw [regions_releaseHolds]
    exact hstored ho0 b hb

end Sys2Proof.Machine
end

section
/-! PROOF. The watchdog, the refresh count, record queues, the minder, and the completion of runs (R47, R215, R253, R288, R293). -/

namespace Sys2Proof.Machine

theorem exec_watchdogThreshold (k : Nat) (s : State) : exec (.watchdogThreshold k) s = execWatchdogThreshold k s := rfl
theorem exec_refreshOwedIncrement (k : Nat) (s : State) : exec (.refreshOwedIncrement k) s = execRefreshOwedIncrement k s := rfl
theorem exec_recordQueueDrain (k : Nat) (s : State) : exec (.recordQueueDrain k) s = .next (drainRecords s k) := rfl
theorem exec_minderFaultRecord (k : Nat) (s : State) : exec (.minderFaultRecord k) s = execMinderFaultRecord k s := rfl
theorem exec_runComplete (g : Nat) (s : State) : exec (.runComplete g) s = execRunComplete g s := rfl
theorem performDeed_refreshOverdue (s : State) (j k : Nat) : performDeed s j (.refreshOverdue k) = refreshOverdue s k := rfl

/-! The watchdog (R47). -/

section
variable (s : State) (k : Nat)

/-- The watchdog count of core `k` reaches LIMIT a hold lead from now. -/
def AtLimit : Prop :=
  (coreOf s k).running = true ∧ (coreGang s k).wdog ≠ 0 ∧ (coreGang s k).gcyc + (coreGang s k).h = (coreOf s k).wdogBase + (coreGang s k).wdog

variable {s k}

theorem watchdog_holds (h : AtLimit s k) (hrun : (coreGang s k).mode = .running) :
    ∃ t, exec (.watchdogThreshold k) s = .next t ∧
      Announced s t (coreOf s k).gang ((coreGang s k).gcyc + (coreGang s k).h) .watchdog k := by
  have hif : exec (.watchdogThreshold k) s = .next (announceHold (postEvent s (coreGang s k).vdid .program evWatchdog
      [(coreOf s k).gang, (coreOf s k).idx] []) (coreOf s k).gang ((coreGang s k).gcyc + (coreGang s k).h) .watchdog k) := if_pos h
  have logged := logged_postEvent s (coreGang s k).vdid .program evWatchdog [(coreOf s k).gang, (coreOf s k).idx] []
  generalize postEvent s (coreGang s k).vdid .program evWatchdog [(coreOf s k).gang, (coreOf s k).idx] [] = v at hif logged
  obtain ⟨hself, hothers, hcores⟩ := announceHold_running (s := v) (g := (coreOf s k).gang) ((coreGang s k).gcyc + (coreGang s k).h)
    .watchdog k (by rw [logged.gangOf]; exact hrun)
  have hnumber : holdNumber v (coreOf s k).gang = holdNumber s (coreOf s k).gang := by
    rw [holdNumber, holdNumber, logged.gangOf, chipOf, logged.fab]
    rfl
  rw [logged.gangOf, hnumber, logged.pod] at hself
  exact ⟨_, hif, hself, fun n hn => (hothers n hn).trans (logged.gangOf n), hcores.trans logged.cores⟩

theorem watchdog_waits (h : ¬AtLimit s k) : exec (.watchdogThreshold k) s = .next s := if_neg h

end

/-! The refresh count (R215). -/

/-- The refresh count of a core is `n`. -/
def owing (n : Int) (c : Core) : Core := { c with owed := n }

theorem refreshOwed_eq (s : State) (k : Nat) : exec (.refreshOwedIncrement k) s =
    .next (if min 4 ((coreOf s k).owed + 1) = 4 then
      post (setCore s k (owing (min 4 ((coreOf s k).owed + 1)) (coreOf s k)))
        ⟨.gang (coreOf s k).gang, gcycOf s k, phIssue - 5, none, .deed (.refreshOverdue k)⟩
    else setCore s k (owing (min 4 ((coreOf s k).owed + 1)) (coreOf s k))) := by
  have hself : coreOf (setCore s k (owing (min 4 ((coreOf s k).owed + 1)) (coreOf s k))) k =
      owing (min 4 ((coreOf s k).owed + 1)) (coreOf s k) := coreOf_setCore_self ..
  have hcyc : gcycOf (setCore s k (owing (min 4 ((coreOf s k).owed + 1)) (coreOf s k))) k = gcycOf s k := by
    rw [gcycOf, coreGang, hself]
    rfl
  rw [exec_refreshOwedIncrement, execRefreshOwedIncrement]
  show Host.Outcome.next (if (coreOf (setCore s k (owing (min 4 ((coreOf s k).owed + 1)) (coreOf s k))) k).owed = 4 then
      post (setCore s k (owing (min 4 ((coreOf s k).owed + 1)) (coreOf s k)))
        ⟨.gang (coreOf (setCore s k (owing (min 4 ((coreOf s k).owed + 1)) (coreOf s k))) k).gang,
          gcycOf (setCore s k (owing (min 4 ((coreOf s k).owed + 1)) (coreOf s k))) k, phIssue - 5, none, .deed (.refreshOverdue k)⟩
    else setCore s k (owing (min 4 ((coreOf s k).owed + 1)) (coreOf s k))) = _
  rw [hself, hcyc]
  rfl

theorem refreshOwed_rises {s : State} {k : Nat} (h : (coreOf s k).owed + 1 < 4) :
    exec (.refreshOwedIncrement k) s = .next (setCore s k { coreOf s k with owed := (coreOf s k).owed + 1 }) := by
  rw [refreshOwed_eq, min_eq_right (by omega), if_neg (by omega)]
  rfl

theorem refreshOwed_due {s : State} {k : Nat} (h : 4 ≤ (coreOf s k).owed + 1) :
    exec (.refreshOwedIncrement k) s = .next (post (setCore s k { coreOf s k with owed := 4 })
      ⟨.gang (coreOf s k).gang, gcycOf s k, phIssue - 5, none, .deed (.refreshOverdue k)⟩) := by
  rw [refreshOwed_eq, min_eq_left h, if_pos rfl]
  rfl

/-- The core takes the fault of an overdue refresh. -/
def refreshFaulted (s : State) (k : Nat) : State := modCore s k fun c => raiseNow c (gcycOf s k) 0x0C 0 0 0

theorem refreshOverdue_freezes (s : State) (j : Nat) {k : Nat} (h : (coreOf s k).frozenAt = none) :
    let t := performDeed s j (.refreshOverdue k)
    t.agenda = s.agenda ∧ (∃ h ∈ (gangOf t (coreOf s k).gang).holds, h.th = gcycOf s k + 1 ∧ h.released = none) ∧
      ∃ r ∈ (coreOf t k).raised, r.code = 0x0C ∧ r.charge = gcycOf s k := by
  refine ⟨rfl, ?_, ?_⟩
  · rw [performDeed_refreshOverdue]
    show ∃ h ∈ (gangOf (overdueFreeze (refreshFaulted s k) (coreOf s k).gang (gcycOf s k)) (coreOf s k).gang).holds, _
    rw [overdueFreeze, gangOf_modGang_self]
    exact ⟨_, List.mem_append_right _ (List.mem_singleton_self _), rfl, rfl⟩
  · have hcore : coreOf (performDeed s j (.refreshOverdue k)) k = raiseNow (coreOf s k) (gcycOf s k) 0x0C 0 0 0 :=
      coreOf_modCore_self s k fun c => raiseNow c (gcycOf s k) 0x0C 0 0 0
    rw [hcore, raiseNow, addRaise_live _ _ h]
    exact ⟨_, List.mem_append_right _ (List.mem_singleton_self _), rfl, rfl⟩

/-! Event logs (R316). -/

/-- The step adds records to event logs: sizes, tails and mirrors of the logs stay, and so does what is scheduled. -/
structure LogsOnly (s t : State) : Prop where
  agenda : t.agenda = s.agenda
  sizes : ∀ p, (partOf t p).evSize = (partOf s p).evSize
  tails : ∀ p, (partOf t p).evTail = (partOf s p).evTail
  mirrors : ∀ p, (partOf t p).mirror = (partOf s p).mirror
  tdisp : (authOf t).tdisp = (authOf s).tdisp

theorem LogsOnly.refl (s : State) : LogsOnly s s := ⟨rfl, fun _ => rfl, fun _ => rfl, fun _ => rfl, rfl⟩

theorem LogsOnly.trans {s t u : State} (h₁ : LogsOnly s t) (h₂ : LogsOnly t u) : LogsOnly s u :=
  ⟨h₂.agenda.trans h₁.agenda, fun p => (h₂.sizes p).trans (h₁.sizes p), fun p => (h₂.tails p).trans (h₁.tails p),
    fun p => (h₂.mirrors p).trans (h₁.mirrors p), h₂.tdisp.trans h₁.tdisp⟩

theorem LogsOnly.logSize {s t : State} (h : LogsOnly s t) (p : Nat) : logSize (partOf t p) = logSize (partOf s p) := by
  rw [Machine.logSize, Machine.logSize, h.sizes]

theorem LogsOnly.logPage {s t : State} (h : LogsOnly s t) (p : Nat) : logPage t p = logPage s p := by
  rw [Machine.logPage, Machine.logPage, h.logSize]

theorem LogsOnly.dmaBlocked {s t : State} (h : LogsOnly s t) (p : Nat) : dmaBlocked t p = dmaBlocked s p := by
  rw [Machine.dmaBlocked, Machine.dmaBlocked, h.tdisp]

theorem partOf_setPart (s : State) (p : Nat) (x : Partition) (q : Nat) :
    partOf (setPart s p x) q = if q = p then x else partOf s q := tget_tset ..

theorem partOf_setPart_ne (s : State) {p q : Nat} (x : Partition) (h : q ≠ p) : partOf (setPart s p x) q = partOf s q := by
  rw [partOf_setPart, if_neg h]

theorem partOf_modPart (s : State) (p : Nat) (f : Partition → Partition) (q : Nat) :
    partOf (modPart s p f) q = if q = p then f (partOf s q) else partOf s q := by
  rw [modPart, partOf_setPart]
  split
  next h => rw [h]
  next => rfl

theorem logsOnly_setPart (s : State) (p : Nat) {x : Partition} (hs : x.evSize = (partOf s p).evSize)
    (ht : x.evTail = (partOf s p).evTail) (hm : x.mirror = (partOf s p).mirror) : LogsOnly s (setPart s p x) := by
  refine ⟨rfl, fun q => ?_, fun q => ?_, fun q => ?_, rfl⟩
  all_goals
    rw [partOf_setPart]
    split
    next h => rw [h]; assumption
    next => rfl

theorem logsOnly_sendVector (s : State) (p : Nat) : LogsOnly s (sendVector s p) := by
  unfold sendVector
  split
  · exact logsOnly_setPart s p rfl rfl rfl
  · exact ⟨rfl, fun _ => rfl, fun _ => rfl, fun _ => rfl, rfl⟩

theorem logsOnly_putHost (s : State) (p a : Nat) (bs : List Byte) : LogsOnly s (putHost s p a bs) :=
  ⟨rfl, fun _ => rfl, fun _ => rfl, fun _ => rfl, rfl⟩

theorem logsOnly_postRecord (s : State) (p : Nat) (r : EventRec) : LogsOnly s (postRecord s p r) := by
  unfold postRecord
  dsimp only
  split
  · exact .refl s
  next n _ =>
    split
    · exact logsOnly_setPart s p rfl rfl rfl
    · refine LogsOnly.trans ?_ (logsOnly_sendVector ..)
      refine LogsOnly.trans (logsOnly_putHost s p ((partOf s p).evBase.toNat / 128 * 128 + (partOf s p).evHead.toNat % n * 128)
        (eventBytes s r)) ?_
      exact logsOnly_setPart _ p rfl rfl rfl

/-- Where the log stands: its head and what it has lost. -/
def logAt (s : State) (p : Nat) : BitVec 32 × BitVec 32 := ((partOf s p).evHead, (partOf s p).evLost)

theorem logAt_sendVector (s : State) (p q : Nat) : logAt (sendVector s p) q = logAt s q := by
  unfold sendVector
  split
  · rw [logAt, partOf_modPart]
    split <;> rfl
  · rfl

theorem logAt_postRecord_ne (s : State) {p q : Nat} (r : EventRec) (h : q ≠ p) : logAt (postRecord s p r) q = logAt s q := by
  unfold postRecord
  dsimp only
  split
  · rfl
  · split
    · rw [logAt, partOf_setPart_ne _ _ h]
      rfl
    · rw [logAt_sendVector, logAt, partOf_modPart, if_neg h]
      rfl

/-- A log with room takes the record. -/
theorem logAt_postRecord {s : State} {p n : Nat} (r : EventRec) (hn : logSize (partOf s p) = some n)
    (hroom : ((partOf s p).evHead - (partOf s p).evTail).toNat ≠ n) (hdma : dmaBlocked s p = false) :
    logAt (postRecord s p r) p = ((partOf s p).evHead + 1, (partOf s p).evLost) := by
  unfold postRecord
  dsimp only
  rw [hn]
  dsimp only
  rw [if_neg fun h => h.elim hroom (Bool.eq_false_iff.mp hdma), logAt_sendVector, logAt, partOf_modPart, if_pos rfl]
  rfl

theorem levelOf_l1Above {p : Nat} (h : levelOf p = 2) : levelOf (l1Above p) = 1 := by
  rw [l1Above, if_pos h, levelOf, l1Page, if_neg (by omega), if_pos (by omega)]

theorem logsOnly_program (s : State) (p kind : Nat) (data : List Nat) (fault : List Byte) :
    LogsOnly s (postEvent s p .program kind data fault) := by
  dsimp only [postEvent]
  split
  · exact (logsOnly_postRecord ..).trans (logsOnly_postRecord ..)
  · exact logsOnly_postRecord ..

/-- A PROGRAM event goes to its partition's log page, which takes it where it has room; the copy goes to another page. -/
theorem logAt_program {s : State} {p n : Nat} (kind : Nat) (data : List Nat) (fault : List Byte)
    (hn : logSize (partOf s (logPage s p)) = some n)
    (hroom : ((partOf s (logPage s p)).evHead - (partOf s (logPage s p)).evTail).toNat ≠ n) (hdma : dmaBlocked s (logPage s p) = false) :
    logAt (postEvent s p .program kind data fault) (logPage s p) =
      ((partOf s (logPage s p)).evHead + 1, (partOf s (logPage s p)).evLost) := by
  dsimp only [postEvent]
  split
  next h =>
    obtain ⟨-, hlevel, hq⟩ := h
    have hne : logPage s p ≠ l1Above p := by
      rw [hq]
      intro he
      have := levelOf_l1Above hlevel
      rw [← he, hlevel] at this
      cases this
    rw [logAt_postRecord_ne _ _ hne, logAt_postRecord _ hn hroom hdma]
  next => exact logAt_postRecord _ hn hroom hdma

/-- A log with room for all the records of a queue takes them. -/
theorem logAt_records {p n : Nat} (rs : List Record) {s : State} (hn : logSize (partOf s (logPage s p)) = some n)
    (hroom : ((partOf s (logPage s p)).evHead - (partOf s (logPage s p)).evTail).toNat + rs.length ≤ n)
    (hdma : dmaBlocked s (logPage s p) = false) :
    logAt (rs.foldl (fun s r => postEvent s p .program evRecord (recordWords r) []) s) (logPage s p) =
      ((partOf s (logPage s p)).evHead + BitVec.ofNat 32 rs.length, (partOf s (logPage s p)).evLost) := by
  have hsmall : n ≤ 2 ^ 16 := by
    rw [logSize] at hn
    split at hn
    next h =>
      rw [← Option.some.inj hn]
      exact Nat.pow_le_pow_right (by decide) h.2
    next => cases hn
  induction rs generalizing s with
  | nil => simp [logAt]
  | cons r rs ih =>
    rw [List.length_cons] at hroom
    have logs := logsOnly_program s p evRecord (recordWords r) []
    have hat := logAt_program (s := s) (p := p) evRecord (recordWords r) [] hn (by omega) hdma
    rw [List.foldl_cons]
    generalize postEvent s p .program evRecord (recordWords r) [] = u at logs hat
    have hhead : (partOf u (logPage s p)).evHead = (partOf s (logPage s p)).evHead + 1 := congrArg Prod.fst hat
    have hlost : (partOf u (logPage s p)).evLost = (partOf s (logPage s p)).evLost := congrArg Prod.snd hat
    have hdist : ((partOf u (logPage s p)).evHead - (partOf u (logPage s p)).evTail).toNat =
        ((partOf s (logPage s p)).evHead - (partOf s (logPage s p)).evTail).toNat + 1 := by
      rw [hhead, logs.tails]
      generalize (partOf s (logPage s p)).evHead = a at hroom ⊢
      generalize (partOf s (logPage s p)).evTail = b at hroom ⊢
      bv_omega
    have := ih (s := u) (by rw [logs.logPage, logs.logSize]; exact hn) (by rw [logs.logPage, hdist]; omega)
      (by rw [logs.logPage, logs.dmaBlocked]; exact hdma)
    rw [logs.logPage, hhead, hlost] at this
    rw [this, List.length_cons]
    congr 1
    generalize (partOf s (logPage s p)).evHead = a
    rw [BitVec.add_assoc, show (1 : BitVec 32) = BitVec.ofNat 32 1 from rfl, ← BitVec.ofNat_add, Nat.add_comm]

theorem logsOnly_records (p : Nat) (rs : List Record) (s : State) :
    LogsOnly s (rs.foldl (fun s r => postEvent s p .program evRecord (recordWords r) []) s) := by
  induction rs generalizing s with
  | nil => exact .refl s
  | cons r rs ih => exact (logsOnly_program ..).trans (ih _)

/-- The minder drains a queue into the log (R293). -/
theorem recordQueueDrain_drains (s : State) (k : Nat) :
    let c := coreOf s k
    let q := logPage s (gangOf s c.gang).vdid
    ∃ t, exec (.recordQueueDrain k) s = .next t ∧ coreOf t k = { c with records := [] } ∧
      (∀ j, j ≠ k → coreOf t j = coreOf s j) ∧ t.gangs = s.gangs ∧ t.agenda = s.agenda ∧
      ∀ n, logSize (partOf s q) = some n → dmaBlocked s q = false → ((partOf s q).evHead - (partOf s q).evTail).toNat + c.records.length ≤ n →
        (partOf t q).evHead = (partOf s q).evHead + BitVec.ofNat 32 c.records.length ∧ (partOf t q).evLost = (partOf s q).evLost := by
  intro c q
  have logged := logged_records (gangOf s c.gang).vdid c.records (setCore s k (noRecords c))
  have logs := logsOnly_records (gangOf s c.gang).vdid c.records (setCore s k (noRecords c))
  refine ⟨_, exec_recordQueueDrain k s, ?_, fun j hj => ?_, logged.gangs, logs.agenda, fun n hn hdma hroom => ?_⟩
  · exact (logged.coreOf k).trans (coreOf_setCore_self ..)
  · exact (logged.coreOf j).trans (coreOf_setCore_ne _ _ hj)
  · have hat := logAt_records (s := setCore s k (noRecords c)) (p := (gangOf s c.gang).vdid) c.records hn hroom hdma
    exact ⟨congrArg Prod.fst hat, congrArg Prod.snd hat⟩

/-! The minder (R288, R302). -/

theorem minder_idle {s : State} {k : Nat} (h : (coreOf s k).frozenAt = none) : exec (.minderFaultRecord k) s = .next s := by
  rw [exec_minderFaultRecord, execMinderFaultRecord, h]
  rfl

/-- The fault last recorded of the gang. -/
def lastFaulted (k : Nat) (f : FaultRecord) (x : Gang) : Gang := { x with lastFault := some (k, x.reqIndex, f) }

theorem minder_tears {s : State} {k : Nat} (h : (coreOf s k).frozenAt ≠ none) (hg : (coreOf s k).gang ≠ noGang)
    (hrun : (gangOf s (coreOf s k).gang).hasRun = true) :
    ∃ t, exec (.minderFaultRecord k) s = .next t ∧ Torn s t (coreOf s k).gang ∧
      (gangOf t (coreOf s k).gang).lastFault = some (k, (gangOf s (coreOf s k).gang).reqIndex, (coreOf s k).fault) := by
  have hlive : ¬((coreOf s k).frozenAt.isNone = true ∨ (coreOf s k).gang = noGang) := fun hx =>
    hx.elim (fun hn => h (Option.isNone_iff_eq_none.mp hn)) hg
  rw [exec_minderFaultRecord, execMinderFaultRecord]
  dsimp only
  rw [if_neg hlive]
  generalize hg' : (coreOf s k).gang = g at hrun
  obtain ⟨same, hsame⟩ : ∃ same, same = match (gangOf s g).lastFault with
      | some (k', r, f) => decide (k' = k ∧ r = (gangOf s g).reqIndex ∧ f.a = (coreOf s k).fault.a ∧ f.b = (coreOf s k).fault.b ∧
          f.c = (coreOf s k).fault.c)
      | none => false := ⟨_, rfl⟩
  obtain ⟨v, hv⟩ : ∃ v, v = if same then countError s (.logic k) else s := ⟨_, rfl⟩
  have counted : Aside s v := by
    rw [hv]
    split
    · exact (logged_countError ..).toBeside.aside
    · exact .refl s
  have fault := aside_postEvent (modGang v g (lastFaulted k (coreOf s k).fault)) (gangOf s g).vdid
    (faultClass (coreOf s k).fault.cause.toNat) evFault [(coreOf s k).fault.cause.toNat]
    (faultBytes (coreOf s k).fault (coreOf s k).idx (gangOf s g).ctx g (gangOf s g).req.fnum)
  have hgang := (fault.gangOf g).trans (gangOf_modGang_self v g (lastFaulted k (coreOf s k).fault))
  have hscratch : ScratchSame s (modGang v g (lastFaulted k (coreOf s k).fault)) := counted.scratch
  have hpod : (modGang v g (lastFaulted k (coreOf s k).fault)).pod = s.pod := counted.pod
  obtain ⟨⟨hmode, hhas, htorn, hsame'⟩, hlast, -, -⟩ := abortGang_torn (faultClass (coreOf s k).fault.cause.toNat)
    (by rw [hgang, counted.gangOf]; exact hrun)
  rw [hgang, counted.gangOf] at hlast
  rw [fault.pod, hpod] at htorn
  exact ⟨_, by rw [hsame] at hv; rw [hv]; rfl, ⟨hmode, hhas, htorn, hscratch.trans (fault.scratch.trans hsame')⟩, hlast⟩

/-! Run completion (R253). -/

section
variable {s : State} {g : Nat}

/-- Every core of the run has executed EXIT. -/
def AllExited (s : State) (g : Nat) : Prop := (gangOf s g).hasRun = true ∧ ∀ k ∈ gangCores s g, (coreOf s k).running = false

theorem runComplete_idle (h : ¬AllExited s g) : exec (.runComplete g) s = .next s := by
  rw [exec_runComplete, execRunComplete]
  dsimp only
  split
  · rfl
  next hrun =>
    rw [Bool.not_eq_false] at hrun
    rw [if_pos]
    by_contra hno
    refine h ⟨hrun, fun k hk => ?_⟩
    rw [Bool.not_eq_true, List.any_eq_false] at hno
    exact Bool.eq_false_iff.mpr (hno k hk)

/-- The gang's teardowns in a row are none. -/
def untorn (y : Gang) : Gang := { y with tears := 0 }

/-- The fence and NEXT are written. -/
def finishing (s : State) (g : Nat) : State := modGang (writeNext (writeFence s g 0) g ((gangOf s g).reqIndex + 1)) g untorn

/-- The members are told. -/
def finishTold (s : State) (g : Nat) : State :=
  if isLeader (finishing s g) g then tellComplete (finishing s g) g else finishing s g

theorem runComplete_exited (h : AllExited s g) : exec (.runComplete g) s =
    if runOver s g then .next (endRun (finishTold s g) g)
    else .next (postGang (if coresOver s g then tellOver s g else s) g ((gangOf s g).gcyc + 1) phHub (.runComplete g)) := by
  obtain ⟨hrun, hall⟩ := h
  have hany : ¬((gangCores s g).any fun k => (coreOf s k).running) = true := by
    rw [Bool.not_eq_true, List.any_eq_false]
    exact fun k hk => Bool.eq_false_iff.mp (hall k hk)
  rw [exec_runComplete, execRunComplete]
  dsimp only
  rw [if_neg (by rw [hrun]; decide), if_neg hany]
  rfl

theorem tellOver_keeps (s : State) (g : Nat) : (tellOver s g).cores = s.cores := by
  unfold tellOver
  dsimp only
  split
  · split
    · exact (beside_leekSend ..).cores
    · rfl
  · rfl

theorem runComplete_waits (h : AllExited s g) (hover : runOver s g = false) :
    let again : Job := ⟨.gang g, (gangOf s g).gcyc + 1, phHub, none, .event (.runComplete g)⟩
    (coresOver s g = false → exec (.runComplete g) s = .next (post s again)) ∧
      (coresOver s g = true → ∃ t, exec (.runComplete g) s = .next t ∧ t.cores = s.cores ∧ again ∈ t.agenda) := by
  have hx := runComplete_exited h
  rw [hover, if_neg Bool.false_ne_true] at hx
  refine ⟨fun hc => ?_, fun hc => ?_⟩
  · rw [hc, if_neg Bool.false_ne_true] at hx
    exact hx
  · rw [hc, if_pos rfl] at hx
    exact ⟨_, hx, tellOver_keeps s g, List.mem_append_right _ (List.mem_singleton_self _)⟩

/-- Two writes that do not meet leave both their bytes. -/
theorem devBytes_after {s t : State} {a n : Nat} {bs : List Byte} (h : ReadsBut s t a bs) (hn : bs.length = n) :
    devBytes t a n = bs := by
  subst hn
  refine List.ext_getElem (by rw [devBytes, List.length_map, List.length_range]) fun i h1 h2 => ?_
  simp only [devBytes, List.getElem_map, List.getElem_range]
  rw [h, if_pos ⟨by omega, by omega⟩, Nat.add_sub_cancel_left, List.getD_eq_getElem _ _ h2]

theorem devBytes_apart {s t : State} {a b n : Nat} {bs : List Byte} (h : ReadsBut s t b bs) (hn : b + bs.length ≤ a ∨ a + n ≤ b) :
    devBytes t a n = devBytes s a n := by
  refine List.map_congr_left fun i hi => ?_
  have := List.mem_range.mp hi
  rw [h, if_neg (by omega)]

theorem putVia_puts {s : State} {x lin a : Nat} (bs : List Byte) (h : devAddr s x lin = some a) :
    putVia s (ctxOf s x).bind lin bs = putDev s a bs := by
  rw [devAddr] at h
  split at h
  next hv =>
    have hlin : lin < 2 ^ 35 := by
      by_contra hno
      rw [bindAt, if_neg hno] at hv
      exact absurd hv (by decide)
    have he : bindAt s x lin = tget 0 (ctxOf s x).bind (lin / 2 ^ 21) := if_pos hlin
    rw [he] at hv h
    rw [putVia, if_pos ⟨hlin, hv⟩, Option.some.inj h]
  next => cases h

/-- The leader's fence and NEXT in device memory. -/
theorem fenceAndNext_written (hlead : isLeader s g = true) {a b : Nat} (n : Nat)
    (ha : devAddr s (gangOf s g).ctx (gangOf s g).req.fence = some a)
    (hb : devAddr s (gangOf s g).ctx ((gangOf s g).runlist + 8) = some b) (hapart : b + 4 ≤ a ∨ a + 8 ≤ b) :
    devBytes (writeNext (writeFence s g 0) g n) a 8 = leBytes 8 ((gangOf s g).req.fnum % 2 ^ 48) ∧
      devBytes (writeNext (writeFence s g 0) g n) b 4 = leBytes 4 n := by
  have hfence : writeFence s g 0 = putDev s a (leBytes 8 ((gangOf s g).req.fnum % 2 ^ 48)) := by
    rw [writeFence, fenceVia, if_pos hlead, Nat.zero_mul, Nat.add_zero, putVia_puts _ ha]
  rw [hfence]
  have first := readsBut_putDev s a (leBytes 8 ((gangOf s g).req.fnum % 2 ^ 48))
  have hb' : devAddr (putDev s a (leBytes 8 ((gangOf s g).req.fnum % 2 ^ 48))) (gangOf s g).ctx ((gangOf s g).runlist + 8) = some b := hb
  have hlead' : isLeader (putDev s a (leBytes 8 ((gangOf s g).req.fnum % 2 ^ 48))) g = true := hlead
  have hgang : gangOf (putDev s a (leBytes 8 ((gangOf s g).req.fnum % 2 ^ 48))) g = gangOf s g := rfl
  generalize putDev s a (leBytes 8 ((gangOf s g).req.fnum % 2 ^ 48)) = v at first hb' hlead' hgang
  have hnext : writeNext v g n = putDev v b (leBytes 4 n) := by
    rw [writeNext, nextVia, if_pos hlead', hgang, putVia_puts _ hb']
  have second := readsBut_putDev v b (leBytes 4 n)
  rw [hnext]
  have hl4 : (leBytes 4 n).length = 4 := leBytes_length ..
  exact ⟨(devBytes_apart second (by omega)).trans (devBytes_after first (leBytes_length ..)), devBytes_after second hl4⟩

theorem auth_putVia (s : State) (b : Table Word) (lin : Nat) (bs : List Byte) : authOf (putVia s b lin bs) = authOf s := by
  unfold putVia
  dsimp only
  split
  · rfl
  · rfl

theorem auth_written (s : State) (g n : Nat) : authOf (writeNext (writeFence s g 0) g n) = authOf s := by
  have fence : authOf (writeFence s g 0) = authOf s := by
    unfold writeFence fenceVia
    split
    · exact auth_putVia ..
    · rfl
  unfold writeNext nextVia
  split
  · exact (auth_putVia ..).trans fence
  · exact fence

theorem aside_finishTold (s : State) (g : Nat) : Aside s (writeNext (writeFence s g 0) g ((gangOf s g).reqIndex + 1)) ∧
    Upkeep (finishing s g) (finishTold s g) := by
  refine ⟨(aside_writeFence ..).trans (aside_writeNext ..), ?_⟩
  unfold finishTold
  split
  · exact .foldl (fun u m => upkeep_leekSend u g m _) _ _
  · exact .refl _

theorem runComplete_ends (h : AllExited s g) (hover : runOver s g = true) :
    ∃ t, exec (.runComplete g) s = .next t ∧ (gangOf t g).mode = .idle ∧
      (gangOf t g).hasRun = false ∧ (gangOf t g).tears = 0 ∧ ScratchSame s t ∧
      ∀ a b, isLeader s g = true → (ctxOf s (gangOf s g).ctx).protect = false → devAddr s (gangOf s g).ctx (gangOf s g).req.fence = some a →
        devAddr s (gangOf s g).ctx ((gangOf s g).runlist + 8) = some b → b + 4 ≤ a ∨ a + 8 ≤ b →
        devBytes t a 8 = leBytes 8 ((gangOf s g).req.fnum % 2 ^ 48) ∧ devBytes t b 4 = leBytes 4 ((gangOf s g).reqIndex + 1) := by
  have hx := runComplete_exited h
  rw [hover, if_pos rfl] at hx
  obtain ⟨written, told⟩ := aside_finishTold s g
  have hgang : gangOf (finishTold s g) g = untorn (gangOf s g) := by
    rw [told.toAside.gangOf, finishing, gangOf_modGang_self, written.gangOf]
  obtain ⟨hended, -, -, hscratch⟩ := endRun_ends (finishTold s g) g
  rw [hgang] at hended
  refine ⟨_, hx, by rw [hended]; rfl, by rw [hended]; rfl, by rw [hended]; rfl, ?_, fun a b hlead hprot ha hb hapart => ?_⟩
  · exact written.scratch.trans ((told.scratch : ScratchSame (finishing s g) _).trans hscratch)
  · obtain ⟨hfence, hnext⟩ := fenceAndNext_written hlead ((gangOf s g).reqIndex + 1) ha hb hapart
    have reads : ReadsSame (writeNext (writeFence s g 0) g ((gangOf s g).reqIndex + 1)) (finishTold s g) :=
      ⟨told.bytes, told.sealed, told.ctxs, told.keys⟩
    have open_ : (ctxOf (finishTold s g) (gangOf (finishTold s g) g).ctx).protect = false := by
      rw [hgang, ctxOf, reads.ctxs, auth_written]
      exact hprot
    have later := endRun_reads open_
    rw [later.devBytes, later.devBytes, reads.devBytes, reads.devBytes]
    exact ⟨hfence, hnext⟩

end

/-- Settles O44: RCLAIM and the exchange during its hold; the watchdog, OWED, the minder and the completion of runs. -/
theorem claimsTakeEffectAndUpkeepRuns : Obligations.ClaimsTakeEffectAndUpkeepRuns := by
  refine ⟨fun s fl m h => ⟨rclaim_claimed h, rclaim_owned h, rclaim_announces h⟩, fun s k n g _ _ hfind hg ho hsaved =>
    regionSpillFill_fills hfind hg ho hsaved, fun s k => ⟨watchdog_holds, watchdog_waits, refreshOwed_rises, refreshOwed_due,
      fun j h => refreshOverdue_freezes s j h, recordQueueDrain_drains s k, minder_idle, minder_tears⟩, fun s g => ⟨runComplete_idle, ?_, ?_⟩⟩
  · exact runComplete_waits
  · exact runComplete_ends

end Sys2Proof.Machine
end

section
/-! PROOF. Freezes, releases and the end of holds (R22 to R25, R29, R212). -/

namespace Sys2Proof.Machine

theorem exec_holdFreeze (g : Nat) (s : State) : exec (.holdFreeze g) s =
    .next (if (gangOf s g).mode = .running then freezeGang s g else s) := rfl
theorem exec_hold (g number th : Nat) (cause : HoldCause) (origin : Nat) (s : State) :
    exec (.hold g number th cause origin) s = execHold g number th cause origin s := rfl
theorem exec_release (g number origin : Nat) (s : State) :
    exec (.release g number origin) s = .next (markReleased s g number origin) := rfl
theorem exec_abortgang (g : Nat) (cls : EventClass) (s : State) : exec (.abortgang g cls) s = .next (teardown s g cls) := rfl
theorem performDeed_controllersRelease (s : State) (j g m : Nat) :
    performDeed s j (.controllersRelease g m) = controllersRelease s g m := rfl

/-! The attached holds of a freeze (R24, R25). -/

theorem mem_freezeHolds (x : Gang) (h : Hold) : h ∈ freezeHolds x ↔ h ∈ x.holds ∧ h.th = x.frozenAt := by
  rw [freezeHolds, List.mem_filter, decide_eq_true_eq]

/-- The least of a list, as a fold finds it. -/
theorem foldl_min_spec (l : List Nat) (m : Option Nat) :
    (l.foldl (fun m t => some (m.elim t (min t))) m = none → m = none ∧ l = []) ∧
      ∀ u, l.foldl (fun m t => some (m.elim t (min t))) m = some u →
        (u ∈ l ∨ m = some u) ∧ (∀ t ∈ l, u ≤ t) ∧ ∀ a, m = some a → u ≤ a := by
  induction l generalizing m with
  | nil => exact ⟨fun h => ⟨h, rfl⟩, fun u h => ⟨.inr h, fun t ht => absurd ht List.not_mem_nil, fun a ha => by
      rw [show m = some u from h] at ha
      exact (Option.some.inj ha).le⟩⟩
  | cons b l ih =>
    rw [List.foldl_cons]
    obtain ⟨hnone, hsome⟩ := ih (some (m.elim b (min b)))
    refine ⟨fun h => (nomatch (hnone h).1), fun u h => ?_⟩
    obtain ⟨hu, hl, ha⟩ := hsome u h
    have hb := ha _ rfl
    cases m with
    | none =>
      have hle : u ≤ b := hb
      refine ⟨.inl ?_, fun t ht => ?_, fun a h => nomatch h⟩
      · rcases hu with hu | hu
        · exact List.mem_cons_of_mem _ hu
        · rw [← Option.some.inj hu]
          exact List.mem_cons_self
      · rcases List.mem_cons.mp ht with rfl | ht
        · exact hle
        · exact hl t ht
    | some a =>
      have hle : u ≤ min b a := hb
      refine ⟨?_, fun t ht => ?_, fun a' h' => ?_⟩
      · rcases hu with hu | hu
        · exact .inl (List.mem_cons_of_mem _ hu)
        · have hmin : min b a = u := Option.some.inj hu
          rcases Nat.le_total b a with hba | hba
          · rw [Nat.min_eq_left hba] at hmin
            rw [← hmin]
            exact .inl List.mem_cons_self
          · rw [Nat.min_eq_right hba] at hmin
            rw [← hmin]
            exact .inr rfl
      · rcases List.mem_cons.mp ht with rfl | ht
        · omega
        · exact hl t ht
      · rw [← Option.some.inj h']
        omega

/-- The cycles that a RELEASE of the freeze may have made it final in. -/
def releasesOf (x : Gang) : List Nat := (freezeHolds x).filterMap fun h => h.released.map (max x.frozenPod)

theorem mem_releasesOf (x : Gang) (u : Nat) :
    u ∈ releasesOf x ↔ ∃ h ∈ freezeHolds x, ∃ r, h.released = some r ∧ u = max x.frozenPod r := by
  rw [releasesOf, List.mem_filterMap]
  refine exists_congr fun h => and_congr_right fun _ => ?_
  rw [Option.map_eq_some_iff]
  exact exists_congr fun r => and_congr_right fun _ => eq_comm

theorem lastRelease_eq (x : Gang) :
    lastRelease x = ((releasesOf x).filter (finalBy x)).foldl (fun m t => some (m.elim t (min t))) none := rfl

/-- The last RELEASE is the earliest that left no hold sent till then open. -/
theorem lastRelease_spec {x : Gang} {u : Nat} (h : lastRelease x = some u) :
    u ∈ releasesOf x ∧ finalBy x u = true ∧ ∀ t ∈ releasesOf x, finalBy x t = true → u ≤ t := by
  rw [lastRelease_eq] at h
  obtain ⟨hu, hl, -⟩ := (foldl_min_spec _ none).2 u h
  obtain ⟨hin, hfinal⟩ := List.mem_filter.mp (hu.resolve_right fun h => nomatch h)
  exact ⟨hin, hfinal, fun t ht hf => hl t (List.mem_filter.mpr ⟨ht, hf⟩)⟩

theorem lastRelease_of_final {x : Gang} {t : Nat} (ht : t ∈ releasesOf x) (hf : finalBy x t = true) :
    ∃ u ≤ t, lastRelease x = some u := by
  cases hu : lastRelease x with
  | none =>
    rw [lastRelease_eq] at hu
    have := ((foldl_min_spec _ none).1 hu).2
    exact absurd (List.mem_filter.mpr ⟨ht, hf⟩) (by rw [this]; exact List.not_mem_nil)
  | some u => exact ⟨u, (lastRelease_spec hu).2.2 t ht hf, rfl⟩

theorem finalBy_iff (x : Gang) (t : Nat) :
    finalBy x t = true ↔ ∀ h ∈ freezeHolds x, t < h.origin ∨ ∃ r, h.released = some r ∧ r ≤ t := by
  rw [finalBy, List.all_eq_true]
  refine forall₂_congr fun h _ => ?_
  rw [Bool.or_eq_true, decide_eq_true_eq, Option.any_eq_true]
  exact or_congr_right (exists_congr fun r => and_congr_right fun _ => decide_eq_true_iff)

theorem mem_attachedHolds (x : Gang) (h : Hold) :
    h ∈ attachedHolds x ↔ h ∈ x.holds ∧ h.th = x.frozenAt ∧ ∀ u, lastRelease x = some u → h.origin ≤ u := by
  rw [attachedHolds]
  cases hu : lastRelease x with
  | none =>
    rw [mem_freezeHolds]
    exact ⟨fun ⟨h1, h2⟩ => ⟨h1, h2, fun u h => nomatch h⟩, fun ⟨h1, h2, _⟩ => ⟨h1, h2⟩⟩
  | some u =>
    dsimp only
    rw [List.mem_filter, mem_freezeHolds, decide_eq_true_eq, and_assoc]
    refine and_congr_right fun _ => and_congr_right fun _ => ⟨fun h v hv => ?_, fun h => h u rfl⟩
    rw [← Option.some.inj hv]
    exact h

theorem released_by_last {x : Gang} {u : Nat} (hu : lastRelease x = some u) {h : Hold} (hin : h ∈ x.holds) (hth : h.th = x.frozenAt) :
    u < h.origin ∨ ∃ r, h.released = some r ∧ r ≤ u :=
  (finalBy_iff x u).mp (lastRelease_spec hu).2.1 h ((mem_freezeHolds x h).mpr ⟨hin, hth⟩)

theorem holdsFinal_iff (x : Gang) : holdsFinal x = true ↔ ∀ h ∈ attachedHolds x, h.released ≠ none := by
  rw [holdsFinal, List.all_eq_true]
  exact forall₂_congr fun h _ => Option.isSome_iff_ne_none

/-- An attached hold that is announced still keeps the freeze open. -/
theorem holdsFinal_open {x : Gang} {h : Hold} (hin : h ∈ x.holds) (hth : h.th = x.frozenAt) (hopen : h.released = none)
    (hu : ∀ u, lastRelease x = some u → h.origin ≤ u) : holdsFinal x = false := by
  rw [← Bool.not_eq_true, holdsFinal_iff]
  exact fun hall => hall h ((mem_attachedHolds x h).mpr ⟨hin, hth, hu⟩) hopen

theorem frozenPod_le_lastRelease {x : Gang} {u : Nat} (h : lastRelease x = some u) : x.frozenPod ≤ u := by
  obtain ⟨_, _, r, _, rfl⟩ := (mem_releasesOf x u).mp (lastRelease_spec h).1
  exact Nat.le_max_left ..

theorem foldl_resume_le (x : Gang) (hswap : x.swapIn = none) (hs : List Hold) (b p : Nat) :
    (hs.foldl (fun p h => match h.released with | some t => max p (holdEnd x h t) | none => p) b) ≤ p ↔
      b ≤ p ∧ ∀ h ∈ hs, ∀ r, h.released = some r → r + x.h ≤ p := by
  induction hs generalizing b with
  | nil => simp
  | cons h hs ih =>
    rw [List.foldl_cons, ih, List.forall_mem_cons]
    cases hr : h.released with
    | none => simp
    | some t =>
      have hend : holdEnd x h t = t + x.h := by rw [holdEnd, hswap]
      dsimp only
      rw [hend, Nat.max_le]
      constructor
      · rintro ⟨⟨h1, h2⟩, h3⟩
        exact ⟨h1, fun r h => Option.some.inj h ▸ h2, h3⟩
      · rintro ⟨h1, h2, h3⟩
        exact ⟨⟨h1, h2 t rfl⟩, h3⟩

theorem resumeCycle_le_iff (x : Gang) (hswap : x.swapIn = none) (p : Nat) :
    resumeCycle x ≤ p ↔ x.frozenPod + 1 ≤ p ∧ ∀ h ∈ attachedHolds x, ∀ r, h.released = some r → r + x.h ≤ p :=
  foldl_resume_le x hswap _ _ p

/-! The freeze (R22, R23, R212). -/

/-- A gang that is not frozen has nothing to settle; a frozen one with a hold open has no resume cycle; one whose holds are all
released has. -/
theorem settleHolds_idle {s : State} {g : Nat} (h : (gangOf s g).mode ≠ .held) : settleHolds s g = s := if_neg h

theorem settleHolds_open {s : State} {g : Nat} (h : (gangOf s g).mode = .held) (hopen : holdsFinal (gangOf s g) = false) :
    settleHolds s g = setGang s g { gangOf s g with resume := none } := by
  rw [settleHolds]
  dsimp only
  rw [if_pos h, hopen, if_neg Bool.false_ne_true]

theorem settleHolds_final {s : State} {g : Nat} (h : (gangOf s g).mode = .held) (hfinal : holdsFinal (gangOf s g) = true) :
    settleHolds s g = postPod (setGang s g { gangOf s g with resume := some (max s.pod (resumeCycle (gangOf s g))) })
      (max s.pod (resumeCycle (gangOf s g))) phFreeze (.holdResume g) := by
  rw [settleHolds]
  dsimp only
  rw [if_pos h, hfinal, if_pos rfl]

/-- The gang as a freeze at pod cycle `p` leaves it, with the controllers' hold `n` and the rows they closed. -/
def frozenGang (n p : Nat) (rows : List (Nat × BitVec 4 × Nat × Nat)) (x : Gang) : Gang :=
  { x with
    mode := .held, frozenAt := x.gcyc, frozenPod := p, resume := none, holdSeq := x.holdSeq + 1
    holds := x.holds ++ [⟨n, x.gcyc, .dram, p, controllerKey, none⟩]
    rows := rows }

theorem holdsFinal_frozenGang (n p : Nat) (rows : List (Nat × BitVec 4 × Nat × Nat)) (x : Gang) :
    holdsFinal (frozenGang n p rows x) = false :=
  holdsFinal_open (h := ⟨n, x.gcyc, .dram, p, controllerKey, none⟩) (List.mem_append_right _ (List.mem_singleton_self _)) rfl rfl
    fun _ hu => frozenPod_le_lastRelease hu

theorem holdFreeze_freezes {s : State} {g : Nat} (h : (gangOf s g).mode = .running) :
    let x := gangOf s g
    let n := x.holdSeq * 4096 + chipOf s
    ∃ t due, exec (.holdFreeze g) s = .next t ∧ t.cores = s.cores ∧ s.pod < due ∧
      (∀ m, m ≠ g → gangOf t m = gangOf s m) ∧ (∀ j ∈ s.agenda, j ∈ t.agenda) ∧
      ⟨.pod, due, phHub, none, .deed (.controllersRelease g n)⟩ ∈ t.agenda ∧
      gangOf t g = { x with
        mode := .held, frozenAt := x.gcyc, frozenPod := s.pod, resume := none, holdSeq := x.holdSeq + 1
        holds := x.holds ++ [⟨n, x.gcyc, .dram, s.pod, controllerKey, none⟩], rows := (gangOf t g).rows } := by
  intro x n
  obtain ⟨rows, hrows⟩ : ∃ rows, rows = (groupCores s g).flatMap fun k => openTimedRows s k x.gcyc := ⟨_, rfl⟩
  obtain ⟨u, hu⟩ : ∃ u, u = leekMembers (setGang s g (frozenGang n s.pod rows x)) g (.hold g n x.gcyc .dram s.pod) := ⟨_, rfl⟩
  have sent : Beside (setGang s g (frozenGang n s.pod rows x)) u := by
    rw [hu]
    exact beside_leekMembers ..
  let job : Job := ⟨.pod, u.pod + 1 + Config.controllerDelay u.fresh, phHub, none, .deed (.controllersRelease g n)⟩
  let v : State := post { u with fresh := u.fresh + 1 } job
  have hvg (m : Nat) : gangOf v m = gangOf (setGang s g (frozenGang n s.pod rows x)) m := sent.gangOf m
  have hself : gangOf v g = frozenGang n s.pod rows x := by rw [hvg, gangOf_setGang_self]
  have hsettle : settleHolds v g = setGang v g (frozenGang n s.pod rows x) := by
    rw [settleHolds_open (by rw [hself]; rfl) (by rw [hself]; exact holdsFinal_frozenGang ..), hself]
    rfl
  have hx : exec (.holdFreeze g) s = .next (setGang v g (frozenGang n s.pod rows x)) := by
    rw [exec_holdFreeze, if_pos h, ← hsettle]
    simp only [v, job, hu, hrows]
    rfl
  have hpod : u.pod = s.pod := sent.pod
  refine ⟨_, job.due, hx, sent.cores, ?_, fun m hm => ?_, fun j hj => ?_, ?_, ?_⟩
  · show s.pod < u.pod + 1 + _
    omega
  · rw [gangOf_setGang_ne _ _ hm, hvg, gangOf_setGang_ne _ _ hm]
  · exact List.mem_append_left _ (sent.keeps j hj)
  · exact List.mem_append_right _ (List.mem_singleton_self _)
  · rw [gangOf_setGang_self]
    rfl

/-! Releases (R24, R25). -/

theorem gangOf_markReleased_ne (s : State) {g m : Nat} (n t : Nat) (h : m ≠ g) : gangOf (markReleased s g n t) m = gangOf s m := by
  have hbefore : gangOf (modGang (countFrozen s g n) g fun x => { x with holds := x.holds.map fun h =>
      if h.number = n then { h with released := some t } else h }) m = gangOf s m := by
    rw [gangOf_modGang_ne _ _ h, (upkeep_countFrozen s g n).toAside.gangOf]
  rw [markReleased]
  generalize (modGang (countFrozen s g n) g fun x => { x with holds := x.holds.map fun h =>
      if h.number = n then { h with released := some t } else h }) = v at hbefore ⊢
  rw [settleHolds]
  dsimp only
  split
  · split
    · rw [gangOf_postPod, gangOf_setGang_ne _ _ h, hbefore]
    · rw [gangOf_setGang_ne _ _ h, hbefore]
  · exact hbefore

theorem controllersRelease_releases {s : State} (j : Nat) {g m : Nat} (h : ∃ h ∈ (gangOf s g).holds, h.number = m ∧ h.released = none) :
    ∀ h ∈ (gangOf (performDeed s j (.controllersRelease g m)) g).holds, h.number = m → h.released = some s.pod := by
  intro k hk hn
  have hany : (gangOf s g).holds.any (fun h => decide (h.number = m ∧ h.released = none)) = true := by
    obtain ⟨h, hin, hh⟩ := h
    exact List.any_eq_true.mpr ⟨h, hin, decide_eq_true hh⟩
  obtain ⟨v, hv⟩ : ∃ v, v = if (gangOf s g).mode = .held then reopenRows s g else s := ⟨_, rfl⟩
  have hpod : v.pod = s.pod := by
    rw [hv]
    split
    · refine (DramKeeps.foldl (fun u (r : Nat × BitVec 4 × Nat × Nat) => dramKeeps_activateRow u r.1 r.2.1 r.2.2.1 r.2.2.2 _ true) _ _).pod
    · rfl
  have heq : performDeed s j (.controllersRelease g m) = leekMembers (markReleased v g m v.pod) g (.release g m v.pod) := by
    rw [performDeed_controllersRelease, controllersRelease, hv]
    exact if_pos hany
  rw [heq, (beside_leekMembers ..).gangOf, markReleased_holds, hpod] at hk
  obtain ⟨y, -, rfl⟩ := List.mem_map.mp hk
  by_cases hy : y.number = m
  · rw [releaseHold, if_pos hy]
  · rw [releaseHold, if_neg hy] at hn
    exact absurd hn hy

theorem agenda_foldl {α : Type} {f : State → α → State} (h : ∀ s a, (f s a).agenda = s.agenda) (as : List α) (s : State) :
    (as.foldl f s).agenda = s.agenda := by
  induction as generalizing s with
  | nil => rfl
  | cons a as ih => exact (ih (f s a)).trans (h s a)

theorem agenda_countFrozen (s : State) (g n : Nat) : (countFrozen s g n).agenda = s.agenda := by
  unfold countFrozen
  dsimp only
  split
  · exact agenda_foldl (fun u (h : Hold) =>
      (rfl : (countLife u 4 (16 + causePos h.cause) (u.pod - (gangOf s g).frozenPod)).agenda = u.agenda)) _ s
  · rfl

/-- The gang with its holds of number `n` released at `t`. -/
def releasedGang (n t : Nat) (x : Gang) : Gang :=
  { x with holds := x.holds.map fun h => if h.number = n then { h with released := some t } else h }

/-- RELEASE (R24, R25). -/
theorem release_settles (s : State) (g number origin : Nat) :
    let x := gangOf s g
    let y := releasedGang number origin x
    ∃ t, exec (.release g number origin) s = .next t ∧ t.cores = s.cores ∧ (∀ n, n ≠ g → gangOf t n = gangOf s n) ∧
      (x.mode ≠ .held → gangOf t g = y ∧ t.agenda = s.agenda) ∧
      (x.mode = .held → holdsFinal y = false → gangOf t g = { y with resume := none } ∧ t.agenda = s.agenda) ∧
      (x.mode = .held → holdsFinal y = true →
        gangOf t g = { y with resume := some (max s.pod (resumeCycle y)) } ∧
        t.agenda = s.agenda ++ [⟨.pod, max s.pod (resumeCycle y), phFreeze, none, .event (.holdResume g)⟩]) := by
  intro x y
  have counted := upkeep_countFrozen s g number
  obtain ⟨v, hv⟩ : ∃ v, v = modGang (countFrozen s g number) g (releasedGang number origin) := ⟨_, rfl⟩
  have hself : gangOf v g = y := by rw [hv, gangOf_modGang_self, counted.toAside.gangOf]
  have hpod : v.pod = s.pod := by rw [hv]; exact counted.pod
  have hva : v.agenda = s.agenda := by rw [hv]; exact agenda_countFrozen s g number
  have hmark : markReleased s g number origin = settleHolds v g := by rw [hv]; rfl
  refine ⟨_, exec_release .., (offCore_markReleased ..).cores, fun n hn => gangOf_markReleased_ne _ _ _ hn, fun hm => ?_,
    fun hm hopen => ?_, fun hm hfinal => ?_⟩
  · rw [hmark, settleHolds_idle (by rw [hself]; exact hm)]
    exact ⟨hself, hva⟩
  · rw [hmark, settleHolds_open (by rw [hself]; exact hm) (by rw [hself]; exact hopen), hself]
    exact ⟨gangOf_setGang_self .., hva⟩
  · rw [hmark, settleHolds_final (by rw [hself]; exact hm) (by rw [hself]; exact hfinal), hself, hpod]
    refine ⟨by rw [gangOf_postPod, gangOf_setGang_self], ?_⟩
    rw [← hva]
    rfl

/-! HOLD and ABORTGANG (R22, R25, R29, R268). -/

/-- The gang with a hold of another member. -/
def heldFar (h : Hold) (x : Gang) : Gang := { x with holds := x.holds ++ [h] }

theorem hold_late {s : State} {g number th origin : Nat} {cause : HoldCause}
    (hlate : (gangOf s g).mode ≠ .held ∧ th < (gangOf s g).gcyc ∨ (gangOf s g).mode = .held ∧ th < (gangOf s g).frozenAt)
    (hrun : (gangOf s g).hasRun = true) : ∃ t, exec (.hold g number th cause origin) s = .next t ∧ Torn s t g := by
  have event := aside_postEvent s (gangPart s g) .platform evDesync [g, s.pod] []
  obtain ⟨⟨hmode, hhas, htorn, hscratch⟩, -⟩ := abortGang_torn (s := postEvent s (gangPart s g) .platform evDesync [g, s.pod] [])
    (g := g) .platform (by rw [event.gangOf]; exact hrun)
  rw [event.pod] at htorn
  refine ⟨_, ?_, hmode, hhas, htorn, event.scratch.trans hscratch⟩
  rw [exec_hold, execHold]
  exact if_pos hlate

theorem hold_armed {s : State} {g number th origin : Nat} {cause : HoldCause}
    (hlate : ¬((gangOf s g).mode ≠ .held ∧ th < (gangOf s g).gcyc ∨ (gangOf s g).mode = .held ∧ th < (gangOf s g).frozenAt))
    (hmode : (gangOf s g).mode ≠ .held) :
    let y := heldFar ⟨number, th, cause, origin, farKey, none⟩ (gangOf s g)
    ∃ t, exec (.hold g number th cause origin) s = .next t ∧ t.cores = s.cores ∧ t.hub = s.hub ∧
      gangOf t g = y ∧ (∀ n, n ≠ g → gangOf t n = gangOf s n) ∧ t.agenda = s.agenda ++
        (if (gangOf s g).mode = .running ∧ th = (gangOf s g).gcyc then [⟨.pod, s.pod, phFreeze, none, .event (.holdFreeze g)⟩] else []) := by
  intro y
  have hx : exec (.hold g number th cause origin) s =
      if (gangOf s g).mode = .running ∧ th = (gangOf s g).gcyc then
        .next (postPod (setGang s g y) s.pod phFreeze (.holdFreeze g)) else .next (settleHolds (setGang s g y) g) := by
    rw [exec_hold, execHold]
    exact if_neg hlate
  by_cases hnow : (gangOf s g).mode = .running ∧ th = (gangOf s g).gcyc
  · rw [if_pos hnow] at hx ⊢
    exact ⟨_, hx, rfl, rfl, by rw [gangOf_postPod, gangOf_setGang_self],
      fun n hn => by rw [gangOf_postPod, gangOf_setGang_ne _ _ hn], rfl⟩
  · rw [if_neg hnow, settleHolds_idle (by rw [gangOf_setGang_self]; exact hmode)] at hx
    rw [if_neg hnow, List.append_nil]
    exact ⟨_, hx, rfl, rfl, gangOf_setGang_self .., fun n hn => gangOf_setGang_ne _ _ hn, rfl⟩

/-- A hold that attaches to the freeze keeps it open. -/
theorem hold_attached {s : State} {g number th origin : Nat} {cause : HoldCause} (hmode : (gangOf s g).mode = .held)
    (hth : th = (gangOf s g).frozenAt) (horigin : ∀ u, lastRelease (gangOf s g) = some u → origin ≤ u) :
    let y := heldFar ⟨number, th, cause, origin, farKey, none⟩ (gangOf s g)
    ∃ t, exec (.hold g number th cause origin) s = .next t ∧ t.cores = s.cores ∧ t.hub = s.hub ∧ t.agenda = s.agenda ∧
      gangOf t g = { y with resume := none } ∧ ∀ n, n ≠ g → gangOf t n = gangOf s n := by
  intro y
  have hfreeze (h : Hold) : h ∈ freezeHolds y ↔ h ∈ freezeHolds (gangOf s g) ∨ h = ⟨number, th, cause, origin, farKey, none⟩ := by
    rw [mem_freezeHolds, mem_freezeHolds]
    show h ∈ (gangOf s g).holds ++ [_] ∧ _ ↔ _
    rw [List.mem_append, List.mem_singleton, or_and_right]
    refine or_congr_right (and_iff_left_of_imp fun he => ?_)
    rw [he]
    exact hth
  have hopen : holdsFinal y = false := by
    refine holdsFinal_open (h := ⟨number, th, cause, origin, farKey, none⟩) (List.mem_append_right _ (List.mem_singleton_self _))
      hth rfl fun u hu => ?_
    obtain ⟨hin, hfinal, -⟩ := lastRelease_spec hu
    have hin' : u ∈ releasesOf (gangOf s g) := by
      obtain ⟨h, hh, r, hr, hmax⟩ := (mem_releasesOf y u).mp hin
      rcases (hfreeze h).mp hh with hh | hh
      · exact (mem_releasesOf _ u).mpr ⟨h, hh, r, hr, hmax⟩
      · rw [hh] at hr
        cases hr
    have hfinal' : finalBy (gangOf s g) u = true := (finalBy_iff _ u).mpr fun h hh =>
      (finalBy_iff y u).mp hfinal h ((hfreeze h).mpr (.inl hh))
    obtain ⟨v, hv, hlast⟩ := lastRelease_of_final hin' hfinal'
    exact (horigin v hlast).trans hv
  have hself : gangOf (setGang s g y) g = y := gangOf_setGang_self ..
  have hx : exec (.hold g number th cause origin) s = .next (setGang (setGang s g y) g { y with resume := none }) := by
    have hsettle := settleHolds_open (s := setGang s g y) (g := g) (by rw [hself]; exact hmode) (by rw [hself]; exact hopen)
    rw [hself] at hsettle
    rw [← hsettle, exec_hold, execHold]
    dsimp only
    rw [if_neg (by rw [hmode, hth]; simp), if_neg (by rw [hmode]; simp)]
    rfl
  refine ⟨_, hx, rfl, rfl, rfl, gangOf_setGang_self .., fun n hn => ?_⟩
  rw [gangOf_setGang_ne _ _ hn, gangOf_setGang_ne _ _ hn]

theorem abortgang_tears (s : State) (g : Nat) (cls : EventClass) :
    ((gangOf s g).hasRun = false → exec (.abortgang g cls) s = .next s) ∧
      ((gangOf s g).hasRun = true → ∃ t, exec (.abortgang g cls) s = .next t ∧ Torn s t g) := by
  refine ⟨fun h => ?_, fun h => ⟨_, exec_abortgang .., (teardown_torn cls h).1⟩⟩
  rw [exec_abortgang, teardown]
  exact congrArg Host.Outcome.next (if_pos h)

end Sys2Proof.Machine
end

section
/-! PROOF. The resume of gang time (R24, R25, R42, R242, R263, R298). -/

namespace Sys2Proof.Machine

theorem exec_holdResume (g : Nat) (s : State) : exec (.holdResume g) s = execHoldResume g s := rfl

/-- A gang whose time goes on: the holds of the freeze are gone. -/
def resumedGang (x : Gang) : Gang :=
  { x with mode := .running, resume := none, swapIn := none, holds := x.holds.filter fun h => h.th ≠ x.frozenAt }

/-- `y` is the resumed gang but for what the resume adds: holds announced anew, INEXACT, and the flight save area read out. -/
structure ResumedAs (x y : Gang) : Prop where
  eq : y = { resumedGang x with holds := y.holds, holdSeq := y.holdSeq, inexact := y.inexact, fsa := y.fsa, fsaUsed := y.fsaUsed }
  kept : ∀ h ∈ x.holds, h.th ≠ x.frozenAt → h ∈ y.holds
  anew : ∀ h ∈ y.holds, h ∈ x.holds ∧ h.th ≠ x.frozenAt ∨ h.th = x.frozenAt + x.h ∧ h.released = none

theorem resumedAs_start (x : Gang) : ResumedAs x (resumedGang x) := by
  refine ⟨rfl, fun h hh hth => List.mem_filter.mpr ⟨hh, decide_eq_true hth⟩, fun h hh => .inl ?_⟩
  obtain ⟨hin, hth⟩ := List.mem_filter.mp hh
  exact ⟨hin, of_decide_eq_true hth⟩

/-! Holds announced anew (R25). -/

/-- The resumed gang of a state, the cores and other gangs as they were. -/
structure Resuming (s u : State) (g : Nat) : Prop where
  gang : ResumedAs (gangOf s g) (gangOf u g)
  others : ∀ n, n ≠ g → gangOf u n = gangOf s n
  cores : u.cores = s.cores

theorem resuming_announce {s u : State} {g : Nat} (h : Resuming s u g) (cause : HoldCause) (key : Nat) :
    Resuming s (announceHold u g ((gangOf s g).frozenAt + (gangOf s g).h) cause key) g ∧
      (gangOf (announceHold u g ((gangOf s g).frozenAt + (gangOf s g).h) cause key) g).fsa = (gangOf u g).fsa := by
  obtain ⟨⟨heq, hkept, hanew⟩, hothers, hcores⟩ := h
  have hrun : (gangOf u g).mode = .running := by rw [heq]; rfl
  obtain ⟨hself, hrest, hc⟩ := announceHold_running ((gangOf s g).frozenAt + (gangOf s g).h) cause key hrun
  refine ⟨⟨⟨?_, fun h hh hth => ?_, fun h hh => ?_⟩, fun n hn => (hrest n hn).trans (hothers n hn), hc.trans hcores⟩, by rw [hself]⟩
  · rw [hself]
    exact congrArg (fun y : Gang => { y with
      holds := (gangOf u g).holds ++ [(⟨holdNumber u g, (gangOf s g).frozenAt + (gangOf s g).h, cause, u.pod, key, none⟩ : Hold)]
      holdSeq := (gangOf u g).holdSeq + 1 }) heq
  · rw [hself]
    exact List.mem_append_left _ (hkept h hh hth)
  · rw [hself] at hh
    rcases List.mem_append.mp hh with hh | hh
    · exact hanew h hh
    · rw [List.mem_singleton.mp hh]
      exact .inr ⟨rfl, rfl⟩

theorem resuming_reannounce {s u : State} {g : Nat} (h : Resuming s u g) :
    Resuming s (reannounce u g (gangOf s g)) g ∧ (gangOf (reannounce u g (gangOf s g)) g).fsa = (gangOf u g).fsa := by
  unfold reannounce
  generalize List.filter _ (freezeHolds (gangOf s g)) = hs
  induction hs generalizing u with
  | nil => exact ⟨h, rfl⟩
  | cons k hs ih =>
    obtain ⟨hstep, hfsa⟩ := resuming_announce h k.cause k.core
    obtain ⟨hrest, hfsa'⟩ := ih hstep
    exact ⟨hrest, hfsa'.trans hfsa⟩

/-! INEXACT (R298). -/

/-- The core's run is marked as resumed from a debugging stop. -/
def markedCore (c : Core) : Core := { c with dbg := c.dbg ||| 2 }

/-- The gang's run is marked as resumed from a debugging stop. -/
def markedGang (y : Gang) : Gang := { y with inexact := true }

theorem markInexact_eq (s : State) (g : Nat) (x : Gang) : markInexact s g x =
    if (attachedHolds x).any fun h => h.cause = .debug then
      (gangCores s g).foldl (fun s k => modCore s k markedCore) (modGang s g markedGang) else s := rfl

theorem mem_gangCores_of_gang {s : State} {g k : Nat} (hg : g ≠ noGang) (h : (coreOf s k).gang = g) : k ∈ gangCores s g := by
  have hne : tget ({} : Core) s.cores k ≠ {} := fun hd => hg (by rw [← h, coreOf, hd]; rfl)
  exact List.mem_map.mpr ⟨_, List.mem_filter.mpr ⟨mem_of_tget_ne hne, decide_eq_true h⟩, rfl⟩

theorem markInexact_marks {s : State} {g : Nat} (x : Gang) (hks : (gangCores s g).Nodup) :
    let t := markInexact s g x
    (∀ n, n ≠ g → gangOf t n = gangOf s n) ∧ gangOf t g = { gangOf s g with inexact := (gangOf t g).inexact } ∧ ScratchSame s t ∧
      (∀ k, (coreOf t k).gang = (coreOf s k).gang) ∧
      (∀ k, k ∈ gangCores s g → coreOf t k =
        if (attachedHolds x).any fun h => decide (h.cause = .debug) then { coreOf s k with dbg := (coreOf s k).dbg ||| 2 }
        else coreOf s k) ∧ t.agenda = s.agenda ∧ t.pod = s.pod := by
  intro t
  by_cases hd : ((attachedHolds x).any fun h => decide (h.cause = .debug)) = true
  · have ht : t = (gangCores s g).foldl (fun s k => modCore s k markedCore) (modGang s g markedGang) := (markInexact_eq ..).trans (if_pos hd)
    have only := coresOnly_foldl_modCore markedCore (gangCores s g) (modGang s g markedGang)
    have hcore (k : Nat) : coreOf t k = if k ∈ gangCores s g then markedCore (coreOf s k) else coreOf s k := by
      rw [ht]
      exact coreOf_foldl_modCore markedCore _ _ k hks
    have hgangOf (n : Nat) : gangOf t n = gangOf (modGang s g markedGang) n := by
      rw [ht, gangOf, only.gangs]
      rfl
    refine ⟨fun n hn => (hgangOf n).trans (gangOf_modGang_ne _ _ hn), ?_, fun k b => ?_, fun k => ?_, fun k hk => ?_, ?_, ?_⟩
    · rw [hgangOf, gangOf_modGang_self]
      rfl
    · rw [hcore]
      split <;> rfl
    · rw [hcore]
      split <;> rfl
    · rw [if_pos hd, hcore, if_pos hk]
      rfl
    · rw [ht]
      exact only.agenda
    · rw [ht]
      exact only.pod
  · have ht : t = s := (markInexact_eq ..).trans (if_neg hd)
    rw [ht]
    exact ⟨fun _ _ => rfl, rfl, fun _ _ => rfl, fun _ => rfl, fun _ _ => (if_neg hd).symm, rfl, rfl⟩

/-! The flight save area (R242, R263). -/

/-- The step keeps what is scheduled, and leaves the cores and the gangs. -/
structure Starts (s t : State) : Prop where
  cores : t.cores = s.cores
  gangs : t.gangs = s.gangs
  keeps : ∀ j ∈ s.agenda, j ∈ t.agenda

theorem Starts.refl (s : State) : Starts s s := ⟨rfl, rfl, fun _ h => h⟩

theorem Starts.trans {s t u : State} (h₁ : Starts s t) (h₂ : Starts t u) : Starts s u :=
  ⟨h₂.cores.trans h₁.cores, h₂.gangs.trans h₁.gangs, fun j hj => h₂.keeps j (h₁.keeps j hj)⟩

theorem Starts.foldl {α : Type} {f : State → α → State} (h : ∀ s a, Starts s (f s a)) (as : List α) (s : State) :
    Starts s (as.foldl f s) := by
  induction as generalizing s with
  | nil => exact .refl s
  | cons a as ih => exact (h s a).trans (ih (f s a))

theorem Starts.coreOf {s t : State} (h : Starts s t) (k : Nat) : coreOf t k = coreOf s k := by
  rw [Machine.coreOf, h.cores, Machine.coreOf]

theorem Starts.gangOf {s t : State} (h : Starts s t) (g : Nat) : gangOf t g = gangOf s g := by
  rw [Machine.gangOf, h.gangs, Machine.gangOf]

theorem Starts.gcycOf {s t : State} (h : Starts s t) (k : Nat) : gcycOf t k = gcycOf s k := by
  rw [Machine.gcycOf, Machine.gcycOf, coreGang, coreGang, h.coreOf, h.gangOf]

theorem starts_post (s : State) (j : Job) : Starts s (post s j) := ⟨rfl, rfl, fun _ h => List.mem_append_left _ h⟩

/-- The gang with its flight save area read out. -/
def readOut (x : Gang) : Gang := { x with fsa := [], fsaUsed := 4096 }

theorem reinject_reads (s : State) (g : Nat) :
    let t := reinject s g
    t.cores = s.cores ∧ (∀ n, n ≠ g → gangOf t n = gangOf s n) ∧
      gangOf t g = { gangOf s g with fsa := [], fsaUsed := (gangOf t g).fsaUsed } ∧ (∀ j ∈ s.agenda, j ∈ t.agenda) ∧
      ∀ f ∈ (gangOf s g).fsa, ⟨.gang g, f.arrive, framePhase f, none, .event (.fsaReinject g f)⟩ ∈ t.agenda := by
  intro t
  by_cases he : (gangOf s g).fsa = []
  · have ht : t = s := if_pos he
    rw [ht]
    refine ⟨rfl, fun _ _ => rfl, ?_, fun _ h => h, fun f hf => ?_⟩
    · rw [← he]
    · rw [he] at hf
      cases hf
  · obtain ⟨d, hd⟩ := writeFsaHeader_dram (setGang s g (readOut (gangOf s g))) g
    have ht : t = (gangOf s g).fsa.foldl (fun s f => postGang s g f.arrive (framePhase f) (.fsaReinject g f))
        (setDram (setGang s g (readOut (gangOf s g))) d) := by
      rw [← hd]
      exact if_neg he
    have started : Starts (setDram (setGang s g (readOut (gangOf s g))) d) t := by
      rw [ht]
      exact .foldl (fun u f => starts_post u _) _ _
    have hbase (n : Nat) : gangOf t n = gangOf (setGang s g (readOut (gangOf s g))) n := started.gangOf n
    refine ⟨started.cores, fun n hn => (hbase n).trans (gangOf_setGang_ne _ _ hn), ?_, started.keeps, fun f hf => ?_⟩
    · rw [hbase, gangOf_setGang_self]
      rfl
    · rw [ht]
      refine foldl_post_mem (fun s a j hj => List.mem_append_left _ hj) (a := f) (fun s => ?_) hf _
      exact List.mem_append_right _ (List.mem_singleton_self _)

/-! Cores stopped for debugging (R298). -/

/-- The step lets stopped cores go on: every other core, the gangs, and what no core's clock stops stay. -/
structure Unstops (s t : State) : Prop where
  gangs : t.gangs = s.gangs
  scratch : ScratchSame s t
  moving : ∀ k, (coreOf s k).stopped = false → coreOf t k = coreOf s k
  free : ∀ j ∈ s.agenda, j.core = none → j ∈ t.agenda

theorem Unstops.refl (s : State) : Unstops s s := ⟨rfl, fun _ _ => rfl, fun _ _ => rfl, fun _ h _ => h⟩

theorem Unstops.trans {s t u : State} (h₁ : Unstops s t) (h₂ : Unstops t u) : Unstops s u :=
  ⟨h₂.gangs.trans h₁.gangs, h₁.scratch.trans h₂.scratch,
    fun k hk => (h₂.moving k (by rw [h₁.moving k hk]; exact hk)).trans (h₁.moving k hk),
    fun j hj hn => h₂.free j (h₁.free j hj hn) hn⟩

theorem Unstops.foldl {f : State → Nat → State} (h : ∀ s k, Unstops s (f s k)) (ks : List Nat) (s : State) :
    Unstops s (ks.foldl f s) := by
  induction ks generalizing s with
  | nil => exact .refl s
  | cons k ks ih => exact (h s k).trans (ih (f s k))

/-- A core that goes on at `x` after its stop at `t`. -/
def goingOn (t x : Nat) (c : Core) : Core :=
  { delayCore t (x - t) c with frozenAt := none, stopped := false, nextIssue := max x (delayCore t (x - t) c).nextIssue }

theorem unstops_resumeStopped (s : State) (k : Nat) : Unstops s (resumeStopped s k) := by
  unfold resumeStopped
  dsimp only
  split
  next t _ =>
    split
    next hstop =>
      obtain ⟨u, hu⟩ : ∃ u, u = { s with agenda := s.agenda.map (delayJob k (gcycOf s k - t)) } := ⟨_, rfl⟩
      have hcores : u.cores = s.cores := by rw [hu]
      show Unstops s (setCore { s with agenda := s.agenda.map (delayJob k (gcycOf s k - t)) } k (goingOn t (gcycOf s k) (coreOf s k)))
      rw [← hu]
      have hother (j : Nat) (hj : j ≠ k) : coreOf (setCore u k (goingOn t (gcycOf s k) (coreOf s k))) j = coreOf s j := by
        rw [coreOf_setCore_ne _ _ hj, coreOf, hcores]
        rfl
      refine ⟨by rw [hu]; rfl, fun j b => ?_, fun j hj => ?_, fun j hj hn => ?_⟩
      · by_cases hjk : j = k
        · subst hjk
          rw [coreOf_setCore_self]
          rfl
        · rw [hother j hjk]
      · refine hother j fun hjk => ?_
        rw [hjk, hstop] at hj
        cases hj
      · rw [hu]
        refine List.mem_map.mpr ⟨j, hj, if_neg ?_⟩
        rw [hn]
        exact fun h => nomatch h
    · exact .refl s
  · exact .refl s

/-! The cycle that begins (R42). -/

theorem starts_startCore (s : State) (k : Nat) : Starts s (startCore s k) := by
  unfold startCore
  dsimp only
  split
  · refine Starts.trans ?_ ((starts_post ..).trans (starts_post ..))
    split
    · exact .refl s
    · exact starts_post ..
  · exact .refl s

/-- The work of core `k`'s cycle is due. -/
def BeginDue (s : State) (k : Nat) : Prop := ∃ j ∈ s.agenda, j.core = some k ∧ j.due = gcycOf s k ∧ j.task = .deed .begin

theorem startCore_begins {s : State} {k : Nat} (hrun : (coreOf s k).running = true) : BeginDue (startCore s k) k := by
  have hcyc := (starts_startCore s k).gcycOf k
  rw [BeginDue, hcyc]
  unfold startCore
  dsimp only
  by_cases hany : (s.agenda.any fun j => decide (j.core = some k ∧ j.due = gcycOf s k ∧ j.task = .deed .begin)) = true
  · rw [if_neg (by rw [hany]; simp)]
    obtain ⟨j, hj, hd⟩ := List.any_eq_true.mp hany
    exact ⟨j, hj, of_decide_eq_true hd⟩
  · rw [if_pos ⟨hrun, by rw [Bool.not_eq_true] at hany; rw [hany]; rfl⟩]
    exact ⟨_, List.mem_append_left _ (List.mem_append_right _ (List.mem_singleton_self _)), rfl, rfl, rfl⟩

theorem startCycle_begins {ks : List Nat} {s : State} {k : Nat} (hk : k ∈ ks) (hrun : (coreOf s k).running = true) :
    BeginDue (ks.foldl startCore s) k := by
  induction ks generalizing s with
  | nil => cases hk
  | cons j ks ih =>
    rw [List.foldl_cons]
    rcases List.mem_cons.mp hk with rfl | hk
    · have rest : Starts (startCore s k) (ks.foldl startCore (startCore s k)) := .foldl starts_startCore ks _
      obtain ⟨j, hj, hcore, hdue, htask⟩ := startCore_begins hrun
      exact ⟨j, rest.keeps j hj, hcore, hdue.trans (rest.gcycOf k).symm, htask⟩
    · exact ih hk (by rw [(starts_startCore s j).coreOf]; exact hrun)

/-- The watchdogs that reach LIMIT a hold lead from now are judged at the end of the cycle. -/
def watched (s : State) (g : Nat) : State :=
  if (gangOf s g).wdog ≠ 0 then
    ((gangCores s g).filter fun k => (coreOf s k).running).foldl (fun v k =>
      if (gangOf s g).gcyc + (gangOf s g).h = (coreOf v k).wdogBase + (gangOf s g).wdog then
        post v ⟨.gang g, (gangOf s g).gcyc, phEnd + 30, none, .event (.watchdogThreshold k)⟩
      else v) s
  else s

theorem tickGang_eq (s : State) (g : Nat) : tickGang s g =
    if (gangOf s g).gcyc % 2340 = 0 ∧ (gangOf s g).gcyc ≠ 0 then
      (gangCores (watched s g) g).foldl (fun v k =>
        post v ⟨.gang g, (gangOf s g).gcyc, phSample, none, .event (.refreshOwedIncrement k)⟩) (watched s g)
    else watched s g := rfl

theorem starts_watched (s : State) (g : Nat) : Starts s (watched s g) := by
  unfold watched
  split
  · refine .foldl (fun u k => ?_) _ s
    split
    · exact starts_post ..
    · exact .refl u
  · exact .refl s

theorem starts_tickGang (s : State) (g : Nat) : Starts s (tickGang s g) := by
  rw [tickGang_eq]
  split
  · exact (starts_watched s g).trans (.foldl (fun u k => starts_post u _) _ _)
  · exact starts_watched s g

/-! The resume (R25). -/

theorem holdResume_early {s : State} {g : Nat}
    (h : ¬((gangOf s g).mode = .held ∧ (gangOf s g).resume = some s.pod ∧ holdsFinal (gangOf s g) = true)) :
    exec (.holdResume g) s = .next s := if_neg h

theorem holdResume_resumes {s : State} {g : Nat} (hc : canonical s) (hg : g ≠ noGang)
    (h : (gangOf s g).mode = .held ∧ (gangOf s g).resume = some s.pod ∧ holdsFinal (gangOf s g) = true) :
    let x := gangOf s g
    ∃ t, exec (.holdResume g) s = .next t ∧ ScratchSame s t ∧ (∀ n, n ≠ g → gangOf t n = gangOf s n) ∧
      (gangOf t g).mode = .running ∧ (gangOf t g).gcyc = x.gcyc ∧ (gangOf t g).resume = none ∧
      (gangOf t g).fsa = [] ∧
      (∀ f ∈ x.fsa, ⟨.gang g, f.arrive, framePhase f, none, .event (.fsaReinject g f)⟩ ∈ t.agenda) ∧
      (∀ h ∈ x.holds, h.th ≠ x.frozenAt → h ∈ (gangOf t g).holds) ∧
      (∀ h ∈ (gangOf t g).holds, h ∈ x.holds ∧ h.th ≠ x.frozenAt ∨ h.th = x.frozenAt + x.h ∧ h.released = none) ∧
      ∀ k, (coreOf s k).gang = g → (coreOf s k).running = true → (coreOf s k).stopped = false →
        coreOf t k = (if (attachedHolds x).any (fun h => decide (h.cause = .debug)) then
          { coreOf s k with dbg := (coreOf s k).dbg ||| 2 } else coreOf s k) ∧
        ∃ j ∈ t.agenda, j.core = some k ∧ j.due = x.gcyc ∧ j.task = .deed .begin := by
  intro x
  have start : Resuming s (setGang s g (resumedGang x)) g :=
    ⟨by rw [gangOf_setGang_self]; exact resumedAs_start x, fun n hn => gangOf_setGang_ne _ _ hn, rfl⟩
  have hx : exec (.holdResume g) s = .next (
      let s₁ := reinject (markInexact (reannounce (setGang s g (resumedGang x)) g x) g x) g
      tickGang (startCycle ((gangCores s₁ g).foldl resumeStopped s₁) g) g) := if_pos h
  obtain ⟨⟨⟨heq, hkept, hanew⟩, hothers, hcores⟩, hfsa⟩ := resuming_reannounce start
  rw [gangOf_setGang_self] at hfsa
  generalize reannounce (setGang s g (resumedGang x)) g (gangOf s g) = a at heq hkept hanew hothers hcores hfsa hx
  have hks : gangCores a g = gangCores s g := by rw [gangCores, hcores]; rfl
  have hcoreOf (k : Nat) : coreOf a k = coreOf s k := by rw [coreOf, hcores]; rfl
  obtain ⟨mothers, mgang, mscratch, mof, mcore, -, -⟩ := markInexact_marks (s := a) (g := g) x (by rw [hks]; exact nodup_gangCores g hc)
  generalize markInexact a g x = b at mothers mgang mscratch mof mcore hx
  obtain ⟨rcores, rothers, rgang, -, rjobs⟩ := reinject_reads b g
  have rcoreOf (k : Nat) : coreOf (reinject b g) k = coreOf b k := by rw [coreOf, rcores]; rfl
  generalize reinject b g = c at rcores rothers rgang rjobs rcoreOf hx
  dsimp only at hx
  have unstopped : Unstops c ((gangCores c g).foldl resumeStopped c) := .foldl unstops_resumeStopped _ c
  generalize (gangCores c g).foldl resumeStopped c = d at unstopped hx
  have dgang (n : Nat) : gangOf d n = gangOf c n := by rw [gangOf, unstopped.gangs]; rfl
  have cycle : Starts d (startCycle d g) := .foldl starts_startCore _ d
  have whole : Starts d (tickGang (startCycle d g) g) := cycle.trans (starts_tickGang _ g)
  have hself : gangOf (tickGang (startCycle d g) g) g =
      { gangOf b g with fsa := [], fsaUsed := (gangOf c g).fsaUsed } := by rw [whole.gangOf, dgang, rgang]
  have hb : gangOf b g = { resumedGang x with
      holds := (gangOf a g).holds, holdSeq := (gangOf a g).holdSeq, inexact := (gangOf b g).inexact, fsa := (gangOf a g).fsa
      fsaUsed := (gangOf a g).fsaUsed } := by
    rw [mgang]
    exact congrArg (fun y : Gang => { y with inexact := (gangOf b g).inexact }) heq
  have hbfsa : (gangOf b g).fsa = x.fsa := by rw [hb]; exact hfsa
  refine ⟨_, hx, ?_, fun n hn => ?_, ?_, ?_, ?_, ?_, fun f hf => ?_, fun h hh hth => ?_, fun h hh => ?_, fun k hk hrun hstop => ?_⟩
  · refine ScratchSame.trans (t := b) ?_ ?_
    · exact ScratchSame.trans (ScratchSame.of_cores hcores) mscratch
    · exact ((ScratchSame.of_cores rcores).trans unstopped.scratch).trans (.of_cores whole.cores)
  · rw [whole.gangOf, dgang, rothers n hn, mothers n hn, hothers n hn]
  · rw [hself, hb]; rfl
  · rw [hself, hb]; rfl
  · rw [hself, hb]; rfl
  · rw [hself]
  · exact whole.keeps _ (unstopped.free _ (rjobs f (by rw [hbfsa]; exact hf)) rfl)
  · rw [hself, hb]
    exact hkept h hh hth
  · rw [hself, hb] at hh
    exact hanew h hh
  · have hin : k ∈ gangCores a g := by rw [hks]; exact mem_gangCores_of_gang hg hk
    have hcore := mcore k hin
    rw [hcoreOf] at hcore
    have hcrun : (coreOf c k).running = true := by
      rw [rcoreOf, hcore]
      split <;> exact hrun
    have hcstop : (coreOf c k).stopped = false := by
      rw [rcoreOf, hcore]
      split <;> exact hstop
    have hd : coreOf d k = coreOf c k := unstopped.moving k hcstop
    have hcgang : (coreOf c k).gang = g := by rw [rcoreOf, mof, hcoreOf, hk]
    have hdgang : (coreOf d k).gang = g := by rw [hd, hcgang]
    refine ⟨by rw [whole.coreOf, hd, rcoreOf, hcore], ?_⟩
    obtain ⟨j, hj, hjcore, hdue, htask⟩ := startCycle_begins (s := d) (mem_gangCores_of_gang hg hdgang) (by rw [hd]; exact hcrun)
    refine ⟨j, (starts_tickGang _ g).keeps j hj, hjcore, hdue.trans ((cycle.gcycOf k).trans ?_), htask⟩
    rw [ gcycOf, coreGang, hdgang, dgang, rgang, hb]
    rfl

/-- Settles O45: a freeze stops gang time, its releases fix the resume, the resume lets time go on; a late HOLD and ABORTGANG tear
the run down. -/
theorem holdsStopAndResumeTime : Obligations.HoldsStopAndResumeTime :=
  ⟨fun s g => ⟨fun h => by rw [exec_holdFreeze, if_neg h], holdFreeze_freezes, fun _ j h => controllersRelease_releases j h,
      mem_attachedHolds _, fun _ hu _ hin hth => released_by_last hu hin hth, holdsFinal_iff _, resumeCycle_le_iff _⟩,
    fun s g hc hg => ⟨holdResume_early, holdResume_resumes hc hg⟩,
    fun s g number th origin cause => ⟨hold_late, hold_armed, hold_attached⟩, release_settles, abortgang_tears⟩

end Sys2Proof.Machine
end

section
/-! PROOF. PREPARE goes out and reaches a member (R254, R257 to R259). -/

namespace Sys2Proof.Machine

theorem exec_prepareSend (g : Nat) (dirIn : Bool) (s : State) :
    exec (.prepareSend g dirIn) s = .next (if dirIn then sendIn s g else sendOut s g) := rfl
theorem exec_prepare (v : VoteFrame) (s : State) :
    exec (.prepare v) s = .next (pollVotes (if v.dirIn then prepareIn s v else prepareOut s v)) := rfl

/-! Frames to the members. -/

theorem beside_toMembers (s : State) (g : Nat) (i : Instr) : Beside s (toMembers s g i) :=
  (beside_postPod ..).trans (beside_leekMembers ..)

theorem toMembers_self (s : State) (g : Nat) (i : Instr) : (⟨.pod, s.pod, phHub, none, .event i⟩ : Job) ∈ (toMembers s g i).agenda :=
  (beside_leekMembers ..).keeps _ (List.mem_append_right _ (List.mem_singleton_self _))

/-- PREPARE to every member, and the leader's own deadline. -/
def prepares (s : State) (g : Nat) (v : VoteFrame) (deadline : Instr) : State :=
  postPod (toMembers s g (.prepare v)) v.deadline phEnd deadline

theorem prepares_sends (s : State) (g : Nat) (v : VoteFrame) (deadline : Instr) :
    Beside s (prepares s g v deadline) ∧ ⟨.pod, s.pod, phHub, none, .event (.prepare v)⟩ ∈ (prepares s g v deadline).agenda ∧
      ⟨.pod, v.deadline, phEnd, none, .event deadline⟩ ∈ (prepares s g v deadline).agenda :=
  ⟨(beside_toMembers ..).trans (beside_postPod ..), List.mem_append_left _ (toMembers_self ..),
    List.mem_append_right _ (List.mem_singleton_self _)⟩

/-! PREPARE_SEND (R254, R257, R259). -/

/-- The gang leaves at the next boundary. -/
def Leaves (x : Gang) : Prop := onSet x = true ∧ x.hasRun = true ∧ x.vote.stage = .run

/-- The frame of the leader's PREPARE of an out-vote. -/
def outFrame (s : State) (g : Nat) : VoteFrame :=
  let x := gangOf s g
  let b := s.pod + voteLead
  let frozen := decide (x.mode = .held)
  let drain := !frozen && drainable x
  { voteFrame s g false (b / slotLength s) with
    drain := drain, force := x.byBackfill || x.goesOn.2.2 || decide (2 ≤ x.npAborts)
    tHalt := if frozen then x.frozenAt else x.gcyc + x.h + if drain then 16384 else 0, deadline := b - 16384 }

theorem sendOut_eq (s : State) (g : Nat) : sendOut s g =
    if onSet (gangOf s g) ∧ (gangOf s g).hasRun ∧ (gangOf s g).vote.stage = .run then
      prepares s g (outFrame s g) (.outVoteDeadline g) else s := rfl

theorem drainable_iff (x : Gang) : drainable x = true ↔ ∃ e ∈ x.loops, e.kind = 0 ∧ e.drain = true := by
  rw [drainable, List.any_eq_true]
  exact exists_congr fun e => and_congr_right fun _ => by rw [Bool.and_eq_true, decide_eq_true_eq]

theorem held_or_running {x : Gang} (h : onSet x = true) : x.mode = .held ∨ x.mode = .running := by
  rw [onSet, Bool.or_eq_true, decide_eq_true_eq, decide_eq_true_eq] at h
  exact h.symm

/-- What the leader's PREPARE says of the drain and of the halt. -/
theorem outFrame_halts {s : State} {g : Nat} (h : Leaves (gangOf s g)) :
    let x := gangOf s g
    let w := outFrame s g
    let drain := x.mode = .running ∧ ∃ e ∈ x.loops, e.kind = 0 ∧ e.drain = true
    (w.drain = true ↔ drain) ∧ (x.mode = .held → w.tHalt = x.frozenAt) ∧
      (x.mode = .running → (drain → w.tHalt = x.gcyc + x.h + 16384) ∧ (¬drain → w.tHalt = x.gcyc + x.h)) := by
  intro x w drain
  have hdrain : w.drain = (!decide (x.mode = .held) && drainable x) := rfl
  have hhalt : w.tHalt = if decide (x.mode = .held) then x.frozenAt else x.gcyc + x.h + if w.drain then 16384 else 0 := rfl
  have hiff : w.drain = true ↔ drain := by
    rw [hdrain, Bool.and_eq_true, drainable_iff]
    refine and_congr_left fun _ => ?_
    rcases held_or_running h.1 with hm | hm
    · rw [hm]; decide
    · rw [hm]; decide
  refine ⟨hiff, fun hm => ?_, fun hm => ⟨fun hd => ?_, fun hd => ?_⟩⟩
  · rw [hhalt, hm]
    rfl
  · rw [hhalt, hm, hiff.mpr hd]
    rfl
  · rw [hhalt, hm, Bool.eq_false_iff.mpr fun hw => hd (hiff.mp hw)]
    rfl

theorem prepareSend_stays {s : State} {g : Nat} (h : ¬Leaves (gangOf s g)) : exec (.prepareSend g false) s = .next s := by
  rw [exec_prepareSend, if_neg Bool.false_ne_true, sendOut_eq]
  exact congrArg Host.Outcome.next (if_neg h)

theorem prepareSend_leaves {s : State} {g : Nat} (h : Leaves (gangOf s g)) :
    exec (.prepareSend g false) s = .next (prepares s g (outFrame s g) (.outVoteDeadline g)) := by
  rw [exec_prepareSend, if_neg Bool.false_ne_true, sendOut_eq]
  exact congrArg Host.Outcome.next (if_pos h)

/-- The frame of the leader's PREPARE of an in-vote. -/
def inFrame (s : State) (g : Nat) : VoteFrame :=
  let b := s.pod + voteLead
  { voteFrame s g true (b / slotLength s) with deadline := b + slotLength s - 2 * voteLead }

/-- A gang enters with the run of request `r`. -/
def entersWith (r : Request) (n : Nat) (img : GangImage) (x : Gang) : Gang := { x with req := r, reqIndex := n, cores := img.cores }

theorem prepareSend_returns {s : State} {g : Nat} (hoff : onSet (gangOf s g) = false) (hrun : (gangOf s g).hasRun = true) :
    exec (.prepareSend g true) s = .next (prepares s g (inFrame s g) (.inVoteDeadline g)) := by
  rw [exec_prepareSend, if_pos rfl, sendIn]
  dsimp only
  rw [hoff, if_neg Bool.false_ne_true, if_pos hrun]
  rfl

theorem prepareSend_enters {s : State} {g : Nat} {r : Request} {n : Nat} {img : GangImage} (hoff : onSet (gangOf s g) = false)
    (hrun : (gangOf s g).hasRun = false) (hready : readiness s g = .yes r n) (hadmit : admission s g r = .ok img) :
    exec (.prepareSend g true) s = .next (prepares (modGang s g (entersWith r n img)) g (inFrame s g) (.inVoteDeadline g)) := by
  rw [exec_prepareSend, if_pos rfl, sendIn]
  dsimp only
  rw [hoff, if_neg Bool.false_ne_true, hrun, if_neg Bool.false_ne_true, hready]
  dsimp only
  rw [hadmit]
  rfl

/-! PREPARE at a member (R257 to R259). -/

theorem beside_pollVotes (s : State) : Beside s (pollVotes s) := by
  refine .foldl (fun u e => ?_) _ s
  split
  · exact beside_postPod ..
  · exact .refl u

theorem Torn.after {s t u : State} {g : Nat} (h : Torn s t g) (hb : Beside t u) : Torn s u g := by
  obtain ⟨hmode, hrun, htorn, hscratch⟩ := h
  rw [Torn, hb.gangOf]
  exact ⟨hmode, hrun, htorn, hscratch.trans (.of_cores hb.cores)⟩

theorem desync_torn {s : State} {g : Nat} (hrun : (gangOf s g).hasRun = true) : Torn s (desync s g) g := by
  have event := aside_postEvent s (gangPart s g) .platform evDesync [g, s.pod] []
  obtain ⟨⟨hmode, hhas, htorn, hscratch⟩, -⟩ := abortGang_torn (s := postEvent s (gangPart s g) .platform evDesync [g, s.pod] [])
    (g := g) .platform (by rw [event.gangOf]; exact hrun)
  rw [event.pod] at htorn
  exact ⟨hmode, hhas, htorn, event.scratch.trans hscratch⟩

/-- The gang with the switch's freeze armed. -/
def armedGang (v : VoteFrame) (x : Gang) : Gang :=
  { x with
    holds := x.holds ++ [⟨2 ^ 64 + v.switchNo, v.tHalt, .switch, v.origin, farKey, none⟩]
    vote := { stage := .armed, switchNo := v.switchNo, tHalt := v.tHalt, deadline := v.deadline, boundary := v.deadline + 16384,
              force := v.force, drain := v.drain } }

/-- The freeze is armed, and the cores are told to drain. -/
def armed (s : State) (v : VoteFrame) : State :=
  let x := gangOf s v.gang
  let s' := setGang s v.gang (armedGang v x)
  if v.drain then (gangCores s' v.gang).foldl (fun s k => modCore s k (drainNotice x)) s' else s'

section
variable {s : State} {v : VoteFrame} (hdir : v.dirIn = false) (hrun : (gangOf s v.gang).hasRun = true)
  (hmode : (gangOf s v.gang).mode = .running)
include hdir hrun hmode

theorem prepare_late (hlate : v.tHalt < (gangOf s v.gang).gcyc) : ∃ t, exec (.prepare v) s = .next t ∧ Torn s t v.gang := by
  have hx : prepareOut s v = desync s v.gang := by
    rw [prepareOut]
    dsimp only
    rw [if_neg (by rw [hrun, onSet, hmode]; decide), if_pos (.inl ⟨hmode, hlate⟩)]
  refine ⟨_, ?_, (desync_torn hrun).after (beside_pollVotes _)⟩
  rw [exec_prepare, hdir, if_neg Bool.false_ne_true, hx]

omit hdir hrun hmode in
theorem armed_arms (s : State) (v : VoteFrame) : gangOf (armed s v) v.gang = armedGang v (gangOf s v.gang) ∧
    (v.drain = false → (armed s v).cores = s.cores) ∧ ScratchSame s (armed s v) ∧ (armed s v).pod = s.pod ∧
      (armed s v).agenda = s.agenda := by
  unfold armed
  dsimp only
  by_cases hd : v.drain = true
  · rw [if_pos hd]
    have only := coresOnly_foldl_modCore (drainNotice (gangOf s v.gang)) (gangCores (setGang s v.gang (armedGang v (gangOf s v.gang))) v.gang)
      (setGang s v.gang (armedGang v (gangOf s v.gang)))
    refine ⟨?_, fun h => ?_, ?_, only.pod, only.agenda⟩
    · rw [gangOf, only.gangs]
      exact gangOf_setGang_self ..
    · rw [hd] at h
      cases h
    · refine ScratchSame.trans (t := setGang s v.gang (armedGang v (gangOf s v.gang))) (.of_cores rfl) ?_
      refine ScratchSame.foldl (fun u k => scratchSame_modCore u k fun c => ?_) _ _
      unfold drainNotice
      dsimp only
      split <;> rfl
  · rw [if_neg hd]
    exact ⟨gangOf_setGang_self .., fun _ => rfl, .of_cores rfl, rfl, rfl⟩

omit hdir in
theorem prepareOut_armed (hearly : (gangOf s v.gang).gcyc ≤ v.tHalt) : prepareOut s v =
    let t := postPod (armed s v) (v.deadline + (gangOf s v.gang).h) phEnd (.voteDeadline v.gang)
    if (gangOf s v.gang).gcyc = v.tHalt then
      postPod (postPod t t.pod phFreeze (.holdFreeze v.gang)) t.pod phHub (.switchFreeze v.gang)
    else t := by
  rw [prepareOut]
  dsimp only
  rw [if_neg (by rw [hrun, onSet, hmode]; decide), if_neg (by rw [hmode]; simp; omega), if_neg (by rw [hmode]; simp)]
  exact if_congr (and_iff_right hmode) rfl rfl

theorem prepare_arms (hearly : (gangOf s v.gang).gcyc ≤ v.tHalt) :
    let g := v.gang
    let x := gangOf s g
    ∃ t, exec (.prepare v) s = .next t ∧ gangOf t g = armedGang v x ∧ (v.drain = false → t.cores = s.cores) ∧ ScratchSame s t ∧
      ⟨.pod, v.deadline + x.h, phEnd, none, .event (.voteDeadline g)⟩ ∈ t.agenda ∧
      (x.gcyc = v.tHalt → ⟨.pod, s.pod, phFreeze, none, .event (.holdFreeze g)⟩ ∈ t.agenda ∧
        ⟨.pod, s.pod, phHub, none, .event (.switchFreeze g)⟩ ∈ t.agenda) := by
  intro g x
  obtain ⟨hgang, hcores, hscratch, hpod, -⟩ := armed_arms s v
  have hx : exec (.prepare v) s = .next (pollVotes (prepareOut s v)) := by
    rw [exec_prepare, hdir, if_neg Bool.false_ne_true]
  obtain ⟨t, ht⟩ : ∃ t, t = postPod (armed s v) (v.deadline + x.h) phEnd (.voteDeadline g) := ⟨_, rfl⟩
  have posted : Beside (armed s v) t := by rw [ht]; exact beside_postPod ..
  have hdead : ⟨.pod, v.deadline + x.h, phEnd, none, .event (.voteDeadline g)⟩ ∈ t.agenda := by
    rw [ht]
    exact List.mem_append_right _ (List.mem_singleton_self _)
  have hout : prepareOut s v = if x.gcyc = v.tHalt then
      postPod (postPod t t.pod phFreeze (.holdFreeze g)) t.pod phHub (.switchFreeze g) else t := by
    rw [ht]
    exact prepareOut_armed hrun hmode hearly
  have whole : Beside t (pollVotes (prepareOut s v)) := by
    refine Beside.trans ?_ (beside_pollVotes _)
    rw [hout]
    split
    · exact (beside_postPod ..).trans (beside_postPod ..)
    · exact .refl t
  have later := posted.trans whole
  refine ⟨_, hx, (later.gangOf g).trans hgang, fun hd => later.cores.trans (hcores hd), hscratch.trans (.of_cores later.cores),
    whole.keeps _ hdead, fun hnow => ?_⟩
  have htpod : t.pod = s.pod := posted.pod.trans hpod
  rw [hout, if_pos hnow, htpod]
  exact ⟨(beside_pollVotes _).keeps _ (List.mem_append_left _ (List.mem_append_right _ (List.mem_singleton_self _))),
    (beside_pollVotes _).keeps _ (List.mem_append_right _ (List.mem_singleton_self _))⟩

end

/-- The vote of a member that takes part in an in-vote. -/
def enteringVote (s : State) (v : VoteFrame) : Vote :=
  let g := v.gang
  let b := v.deadline + 2 * voteLead - slotLength s
  let row := rowAt (authOf s) b
  { stage := .entering, switchNo := v.switchNo, deadline := v.deadline, boundary := b
    backfill := if isLeader s g then (gangOf s g).vote.backfill else !(cellNames s row g && farNamed s g row), row := row }

theorem prepare_enters {s : State} {v : VoteFrame} (hdir : v.dirIn = true) (hoff : onSet (gangOf s v.gang) = false)
    (hexists : gangExists s v.gang = true) (hrun : (gangOf s v.gang).hasRun = true)
    (hmay : gangMayEnter s v.gang = true)
    (htakes : cellTakes s (rowAt (authOf s) (v.deadline + 131072 - 2 ^ (authOf s).slotExp)) v.gang = true) :
    let g := v.gang
    let x := gangOf s g
    let b := v.deadline + 131072 - 2 ^ (authOf s).slotExp
    let row := rowAt (authOf s) b
    ∃ t, exec (.prepare v) s = .next t ∧ t.cores = s.cores ∧
        (gangOf t g).vote.stage = .entering ∧ (gangOf t g).vote.switchNo = v.switchNo ∧ (gangOf t g).vote.boundary = b ∧
        (gangOf t g).vote.row = row ∧ gangOf t g = { x with vote := (gangOf t g).vote } := by
  intro g x b row
  have hb : v.deadline + 2 * voteLead - slotLength s = b := rfl
  have hx : prepareIn s v = setGang s g { x with vote := enteringVote s v } := by
    rw [prepareIn]
    dsimp only
    rw [hb, if_neg (by rw [hoff, hexists]; decide), hmay, Bool.not_true, if_neg Bool.false_ne_true, htakes, Bool.not_true,
      if_neg Bool.false_ne_true, if_pos (.inl hrun)]
    rfl
  have polled := beside_pollVotes (setGang s g { x with vote := enteringVote s v })
  have hgang : gangOf (pollVotes (setGang s g { x with vote := enteringVote s v })) g = { x with vote := enteringVote s v } := by
    rw [polled.gangOf, gangOf_setGang_self]
  refine ⟨pollVotes (setGang s g { x with vote := enteringVote s v }), ?_, polled.cores, ?_, ?_, ?_, ?_, ?_⟩
  · rw [exec_prepare, hdir, if_pos rfl, hx]
  all_goals rw [hgang]
  all_goals rfl

end Sys2Proof.Machine
end

section
/-! PROOF. The switch's freeze, and the votes of members (R258 to R260, R262, R265). -/

namespace Sys2Proof.Machine

theorem exec_switchFreeze (g : Nat) (s : State) : exec (.switchFreeze g) s = execSwitchFreeze g s := rfl
theorem exec_voteSend (g : Nat) (dirIn : Bool) (s : State) :
    exec (.voteSend g dirIn) s = .next (if dirIn then voteIn s g else voteOut s g) := rfl

/-! Frames on their way. -/

/-- The frames on their way to gang `g` here. -/
def arrivalsOf (js : List Job) (g : Nat) : List Frame := (js.filter (ofGang g)).filterMap fun j => arrivingFrame j.task

theorem arrivalsOf_cons (j : Job) (js : List Job) (g : Nat) :
    arrivalsOf (j :: js) g = (if ofGang g j then (arrivingFrame j.task).toList else []) ++ arrivalsOf js g := by
  unfold arrivalsOf
  rw [List.filter_cons]
  split
  · rw [List.filterMap_cons]
    cases arrivingFrame j.task <;> rfl
  · rfl

theorem arrivalsOf_filter (p : Job → Bool) (js : List Job) (g : Nat) (h : ∀ j, p j = false → arrivingFrame j.task = none) :
    arrivalsOf (js.filter p) g = arrivalsOf js g := by
  induction js with
  | nil => rfl
  | cons j js ih =>
    rw [List.filter_cons, arrivalsOf_cons]
    split
    · rw [arrivalsOf_cons, ih]
    next hp =>
      rw [ih, h j (Bool.eq_false_iff.mpr hp)]
      split <;> rfl

theorem arrivalsOf_erase (k : Job) (js : List Job) (g : Nat) (h : arrivingFrame k.task = none) :
    arrivalsOf (js.erase k) g = arrivalsOf js g := by
  induction js with
  | nil => rfl
  | cons j js ih =>
    rw [List.erase_cons, arrivalsOf_cons]
    split
    next he =>
      rw [eq_of_beq he, h]
      split <;> rfl
    · rw [arrivalsOf_cons, ih]

theorem arrivalsOf_map (f : Job → Job) (js : List Job) (g : Nat) (hg : ∀ j, ofGang g (f j) = ofGang g j)
    (ha : ∀ j, arrivingFrame (f j).task = arrivingFrame j.task) : arrivalsOf (js.map f) g = arrivalsOf js g := by
  induction js with
  | nil => rfl
  | cons j js ih => rw [List.map_cons, arrivalsOf_cons, arrivalsOf_cons, ih, hg, ha]

/-- The step leaves the gangs, every scratch, and the frames on their way. -/
structure Leaving (s t : State) : Prop where
  gangs : t.gangs = s.gangs
  pod : t.pod = s.pod
  scratch : ScratchSame s t
  arrivals : ∀ g, arrivalsOf t.agenda g = arrivalsOf s.agenda g

theorem Leaving.refl (s : State) : Leaving s s := ⟨rfl, rfl, fun _ _ => rfl, fun _ => rfl⟩

theorem Leaving.trans {s t u : State} (h₁ : Leaving s t) (h₂ : Leaving t u) : Leaving s u :=
  ⟨h₂.gangs.trans h₁.gangs, h₂.pod.trans h₁.pod, h₁.scratch.trans h₂.scratch, fun g => (h₂.arrivals g).trans (h₁.arrivals g)⟩

theorem Leaving.foldl {α : Type} {f : State → α → State} (as : List α) (h : ∀ s, ∀ a ∈ as, Leaving s (f s a)) (s : State) :
    Leaving s (as.foldl f s) := by
  induction as generalizing s with
  | nil => exact .refl s
  | cons a as ih =>
    exact (h s a List.mem_cons_self).trans (ih (fun u b hb => h u b (List.mem_cons_of_mem _ hb)) (f s a))

theorem Leaving.gangOf {s t : State} (h : Leaving s t) (g : Nat) : gangOf t g = gangOf s g := by
  rw [Machine.gangOf, Machine.gangOf, h.gangs]

theorem leaving_modCore (s : State) (k : Nat) {f : Core → Core} (h : ∀ c, (f c).scratch = c.scratch) : Leaving s (modCore s k f) :=
  ⟨rfl, rfl, scratchSame_modCore s k h, fun _ => rfl⟩

theorem leaving_putWire (s : State) (n : Nat) (fr : Frame) : Leaving s (putWire s n fr) := ⟨rfl, rfl, .of_cores rfl, fun _ => rfl⟩

theorem leaving_sendRead (s : State) (k cmd unit : Nat) : Leaving s (sendRead s k cmd unit) := by
  unfold sendRead
  split
  · exact .refl s
  next m _ =>
    dsimp only
    have raced := raced_raceScratch s k (m.sad + 256 * unit) (unitBytes m.len unit) (agentId 1 (coreOf s k).idx) 0 none
    refine Leaving.trans (t := raceScratchRead s k (m.sad + 256 * unit) (unitBytes m.len unit)) ?_ (leaving_modCore _ k fun _ => rfl)
    exact ⟨raced.gangs, raced.pod, raced.scratchSame, fun g => congrArg (arrivalsOf · g) raced.agenda⟩

theorem leaving_depart (s : State) (k cmd : Nat) : Leaving s (depart s k cmd) := by
  unfold depart
  split
  · exact .refl s
  · exact (leaving_putWire ..).trans (leaving_modCore _ k fun _ => rfl)

/-- Jobs of which none brings a frame are dropped. -/
theorem leaving_filter (s : State) (p : Job → Bool) (h : ∀ j, p j = false → arrivingFrame j.task = none) :
    Leaving s { s with agenda := s.agenda.filter p } :=
  ⟨rfl, rfl, .of_cores rfl, fun g => arrivalsOf_filter p s.agenda g h⟩

/-- A job of core `k` that is neither the departure of command `id` nor one of its `n` reads. -/
def notOfSend (k id n : Nat) (j : Job) : Bool :=
  !(decide (j.core = some k) && (decide (j.task = .deed (.depart id)) ||
    (List.range n).any fun i => decide (j.task = .deed (.sendRead id i))))

theorem finishSend_eq (s : State) (k t : Nat) (m : EngineCmd) : finishSend s k t m =
    depart (((List.range (unitCount m.len)).filter fun i => decide (t ≤ m.start + i)).foldl (fun s i => sendRead s k m.id i)
      { s with agenda := s.agenda.filter (notOfSend k m.id (unitCount m.len)) }) k m.id := rfl

theorem leaving_finishSend (s : State) (k t : Nat) (m : EngineCmd) : Leaving s (finishSend s k t m) := by
  rw [finishSend_eq]
  refine Leaving.trans (leaving_filter s (notOfSend k m.id (unitCount m.len)) fun j hj => ?_) ?_
  · unfold notOfSend at hj
    rw [Bool.not_eq_false', Bool.and_eq_true, Bool.or_eq_true, decide_eq_true_eq, List.any_eq_true] at hj
    rcases hj.2 with ht | ⟨i, -, ht⟩
    · rw [of_decide_eq_true ht]; rfl
    · rw [of_decide_eq_true ht]; rfl
  · exact .trans (.foldl _ (fun u i _ => leaving_sendRead u k m.id i) _) (leaving_depart ..)

theorem leaving_sendData (s : State) (fr : Frame) : Leaving s (sendData s fr) := by
  unfold sendData
  split
  · exact .refl s
  · exact leaving_putWire ..

/-- The jobs that read the rest of FGET responses of gang `g`. -/
def getsOf (js : List Job) (g : Nat) : List (Job × Frame × Nat) :=
  js.filterMap fun j =>
    match j.task with
    | .deed (.frameUnit fr i) => if fr.kind = .getRequest ∧ fr.gang = g then some (j, fr, i) else none
    | _ => none

theorem getsOf_brings {js : List Job} {g : Nat} {x : Job × Frame × Nat} (h : x ∈ getsOf js g) : arrivingFrame x.1.task = none := by
  obtain ⟨j, -, hj⟩ := List.mem_filterMap.mp h
  split at hj
  next fr i ht =>
    split at hj
    · rw [← Option.some.inj hj, ht]; rfl
    · cases hj
  · cases hj

/-- The commands whose frames have departed by `t` leave whole. -/
def sendsFinished (s : State) (g t : Nat) : State :=
  (gangCores s g).foldl (fun s k =>
    ((coreOf s k).cmds.filter fun m => decide ((m.kind = 11 ∨ m.kind = 12) ∧ m.start < t)).foldl
      (fun s m => finishSend s k t m) s) s

theorem finishDepartures_eq (s : State) (g : Nat) : finishDepartures s g =
    (getsOf (sendsFinished s g (gangOf s g).frozenAt).agenda g).foldl (fun s x =>
      match coreAt s g x.2.1.dstCore with
      | some k => finishGet { s with agenda := s.agenda.erase x.1 } k x.2.1 x.2.2
      | none => s) (sendsFinished s g (gangOf s g).frozenAt) := rfl

theorem leaving_finishDepartures (s : State) (g : Nat) : Leaving s (finishDepartures s g) := by
  rw [finishDepartures_eq]
  refine Leaving.trans (t := sendsFinished s g (gangOf s g).frozenAt) ?_ ?_
  · exact .foldl _ (fun u k _ => .foldl _ (fun v m _ => leaving_finishSend v k _ m) _) _
  · refine .foldl _ (fun u x hx => ?_) _
    split
    · refine Leaving.trans (t := { u with agenda := u.agenda.erase x.1 }) ?_ (leaving_sendData ..)
      exact ⟨rfl, rfl, .of_cores rfl, fun n => arrivalsOf_erase _ _ n (getsOf_brings hx)⟩
    · exact .refl u

/-! Capture in the replay buffers (R265). -/

theorem retask_keeps {p : Prop} [Decidable p] {j : Job} {t : Task} (n : Nat) (h : arrivingFrame t = arrivingFrame j.task) :
    ofGang n (if p then { j with task := t } else j) = ofGang n j ∧
      arrivingFrame (if p then { j with task := t } else j).task = arrivingFrame j.task := by
  split
  · exact ⟨rfl, h⟩
  · exact ⟨rfl, rfl⟩

theorem intoReplay_keeps (ks : List Nat) (g n : Nat) (j : Job) :
    ofGang n (intoReplay ks g j) = ofGang n j ∧ arrivingFrame (intoReplay ks g j).task = arrivingFrame j.task := by
  unfold intoReplay
  split
  case h_6 => exact ⟨rfl, rfl⟩
  all_goals exact retask_keeps n (by rw [‹j.task = _›]; rfl)

/-- A core's engine commands note what comes back through the replay buffer. -/
def replaying (k : Nat) (jobs : List Job) (c : Core) : Core := { c with cmds := c.cmds.map (replayUnits k jobs) }

theorem leaving_captureCores (s : State) (g : Nat) : Leaving s (captureCores s g) := by
  unfold captureCores captureOn
  dsimp only
  generalize (gangCores s g).filter (fun k => !isParked (coreOf s k)) = ks
  have noted : Leaving s (ks.foldl (fun u k => modCore u k (replaying k (s.agenda.filter (ofGang g)))) s) :=
    .foldl _ (fun u k _ => leaving_modCore u k (f := replaying k (s.agenda.filter (ofGang g))) fun _ => rfl) s
  refine noted.trans ⟨rfl, rfl, .of_cores rfl, fun n => ?_⟩
  exact arrivalsOf_map _ _ n (fun j => (intoReplay_keeps ks g n j).1) fun j => (intoReplay_keeps ks g n j).2

/-! Capture in the flight save area (R261, R262). -/

/-- The step captures frames: votes, what is scheduled and every scratch stay. -/
structure Captures (s t : State) : Prop where
  votes : ∀ n, (gangOf t n).vote = (gangOf s n).vote
  agenda : t.agenda = s.agenda
  pod : t.pod = s.pod
  scratch : ScratchSame s t

theorem Captures.refl (s : State) : Captures s s := ⟨fun _ => rfl, rfl, rfl, fun _ _ => rfl⟩

theorem Captures.trans {s t u : State} (h₁ : Captures s t) (h₂ : Captures t u) : Captures s u :=
  ⟨fun n => (h₂.votes n).trans (h₁.votes n), h₂.agenda.trans h₁.agenda, h₂.pod.trans h₁.pod, h₁.scratch.trans h₂.scratch⟩

theorem Captures.foldl {α : Type} {f : State → α → State} (h : ∀ s a, Captures s (f s a)) (as : List α) (s : State) :
    Captures s (as.foldl f s) := by
  induction as generalizing s with
  | nil => exact .refl s
  | cons a as ih => exact (h s a).trans (ih (f s a))

theorem captures_setDram (s : State) (d : Dram) : Captures s (setDram s d) := ⟨fun _ => rfl, rfl, rfl, .of_cores rfl⟩

theorem captures_setGang (s : State) (g : Nat) {x : Gang} (h : x.vote = (gangOf s g).vote) : Captures s (setGang s g x) := by
  refine ⟨fun n => ?_, rfl, rfl, .of_cores rfl⟩
  by_cases hn : n = g
  · subst hn
    rw [gangOf_setGang_self, h]
  · rw [gangOf_setGang_ne _ _ hn]

/-- The gang with a frame in its flight save area. -/
def savedFrame (fr : Frame) (x : Gang) : Gang :=
  { x with fsa := x.fsa ++ [fr], fsaUsed := x.fsaUsed + recordSize fr, fsaHalt := x.frozenAt
           capt := tmod 0 x.capt fr.link.val (· + 1) }

theorem addFsa_saves (s : State) (fr : Frame) :
    Captures s (addFsa s fr) ∧ gangOf (addFsa s fr) fr.gang = savedFrame fr (gangOf s fr.gang) := by
  obtain ⟨d, hd⟩ := putFsa_dram s fr.gang (gangOf s fr.gang).fsaUsed (fsaRecordBytes fr)
  obtain ⟨e, he⟩ := writeFsaHeader_dram (setGang (setDram s d) fr.gang (savedFrame fr (gangOf s fr.gang))) fr.gang
  have heq : addFsa s fr = setDram (setGang (setDram s d) fr.gang (savedFrame fr (gangOf s fr.gang))) e := by
    rw [← he, addFsa, hd]
    rfl
  rw [heq]
  refine ⟨(captures_setDram s d).trans (.trans ?_ (captures_setDram _ e)), ?_⟩
  · exact captures_setGang (setDram s d) fr.gang (x := savedFrame fr (gangOf s fr.gang)) rfl
  exact gangOf_setGang_self ..

/-- The flight save area overflows. -/
def overflowed (x : Gang) : Gang := { x with overflow := true }

theorem captures_capture (s : State) (fr : Frame) : Captures s (capture s fr) := by
  unfold capture
  dsimp only
  split
  · exact (addFsa_saves s fr).1
  · have logged := logged_postEvent (setGang s fr.gang (overflowed (gangOf s fr.gang))) (gangOf s fr.gang).vdid .resource evFsa [fr.gang] []
    have logs : LogsOnly (setGang s fr.gang (overflowed (gangOf s fr.gang)))
        (postEvent (setGang s fr.gang (overflowed (gangOf s fr.gang))) (gangOf s fr.gang).vdid .resource evFsa [fr.gang] []) :=
      logsOnly_postRecord ..
    have event : Captures s (postEvent (setGang s fr.gang (overflowed (gangOf s fr.gang))) (gangOf s fr.gang).vdid .resource evFsa
        [fr.gang] []) :=
      (captures_setGang s fr.gang (x := overflowed (gangOf s fr.gang)) rfl).trans
        ⟨fun n => by rw [logged.gangOf], logs.agenda, logged.pod, .of_cores logged.cores⟩
    refine event.trans ?_
    split
    · refine ⟨fun _ => rfl, rfl, rfl, scratchSame_modCore _ _ fun c => ?_⟩
      rw [raiseNow, addRaise]
      split <;> rfl
    · exact .refl _

/-! SWITCH_FREEZE (R258). -/

section
variable {s : State} {g : Nat}

theorem switchFreeze_idle (h : (gangOf s g).vote.stage ≠ .armed) : exec (.switchFreeze g) s = .next s := if_neg h

/-- The cores have left whole what departed, and what they have in flight is captured. -/
def leftWhole (s : State) (g : Nat) : State := captureCores (finishDepartures s g) g

/-- The gang's vote drains from pod cycle `p` on. -/
def drainingGang (p : Nat) (x : Gang) : Gang := { x with vote := { x.vote with stage := .draining, frozen := p } }

/-- The frames on their way are taken off, and the gang drains. -/
def takenOff (s : State) (g : Nat) : State :=
  let s := { s with agenda := s.agenda.filter fun j => !(ofGang g j && (arrivingFrame j.task).isSome) }
  let s := setFab s { fabOf s with kept := (fabOf s).kept.filter fun f => decide (f.gang ≠ g) }
  modGang s g (drainingGang s.pod)

theorem switchFreeze_eq (h : (gangOf s g).vote.stage = .armed) : exec (.switchFreeze g) s =
    .next (postPod ((arrivalsOf (leftWhole s g).agenda g).foldl capture (takenOff (leftWhole s g) g))
      ((takenOff (leftWhole s g) g).pod + (gangOf s g).drainWin) phHub (.voteSend g false)) := if_pos h

theorem leaving_leftWhole (s : State) (g : Nat) : Leaving s (leftWhole s g) :=
  (leaving_finishDepartures s g).trans (leaving_captureCores ..)

theorem switchFreeze_captures (h : (gangOf s g).vote.stage = .armed) :
    let x := gangOf s g
    ∃ t, exec (.switchFreeze g) s = .next t ∧ ScratchSame s t ∧
      (gangOf t g).vote = { x.vote with stage := .draining, frozen := s.pod } ∧
      ⟨.pod, s.pod + x.drainWin, phHub, none, .event (.voteSend g false)⟩ ∈ t.agenda ∧
      (∀ j ∈ t.agenda, ofGang g j = true → arrivingFrame j.task = none) ∧
      ∀ f, (s.agenda.filter (ofGang g)).filterMap (fun j => arrivingFrame j.task) = [f] → f.gang = g → fsaFits x f = true →
        (gangOf t g).fsa = x.fsa ++ [f] ∧ tget 0 (gangOf t g).capt f.link.val = tget 0 x.capt f.link.val + 1 := by
  intro x
  have hx := switchFreeze_eq h
  have left := leaving_leftWhole s g
  have harrivals := left.arrivals g
  generalize leftWhole s g = u at left harrivals hx
  have hgang : gangOf (takenOff u g) g = drainingGang s.pod x := by
    rw [takenOff, gangOf_modGang_self]
    show drainingGang u.pod (gangOf u g) = _
    rw [left.pod, left.gangOf]
  have hpod : (takenOff u g).pod = s.pod := left.pod
  have caught : Captures (takenOff u g) ((arrivalsOf u.agenda g).foldl capture (takenOff u g)) := .foldl captures_capture _ _
  rw [hpod] at hx
  refine ⟨_, hx, ?_, ?_, List.mem_append_right _ (List.mem_singleton_self _), fun j hj hg => ?_, fun f hf hfg hfits => ?_⟩
  · exact left.scratch.trans (ScratchSame.trans (.of_cores rfl) caught.scratch)
  · rw [gangOf_postPod, caught.votes, hgang]
    rfl
  · rcases List.mem_append.mp hj with hj | hj
    · rw [caught.agenda] at hj
      have hp := (List.mem_filter.mp hj).2
      rw [hg, Bool.true_and, Bool.not_eq_true', Option.isSome_eq_false_iff] at hp
      exact Option.isNone_iff_eq_none.mp hp
    · rw [List.mem_singleton.mp hj] at hg
      cases hg
  · have hone : arrivalsOf u.agenda g = [f] := harrivals.trans hf
    rw [gangOf_postPod, hone, List.foldl_cons, List.foldl_nil]
    have hcapture : capture (takenOff u g) f = addFsa (takenOff u g) f := by
      rw [capture, hfg, hgang]
      exact if_pos hfits
    have hsaved := (addFsa_saves (takenOff u g) f).2
    rw [hfg, hgang] at hsaved
    rw [hcapture, hsaved]
    exact ⟨rfl, tget_tset_self 0 x.capt f.link.val (tget 0 x.capt f.link.val + 1)⟩

end

/-! VOTE (R258 to R260). -/

/-- A VOTE goes to the leader; where that is this chip, it is scheduled here. -/
theorem sendVote_sends {s t : State} {g : Nat} {x : Gang} {w : VoteFrame} (hw : w.gang = g) (hg : gangOf t g = x)
    (hm : x.members = (gangOf s g).members) (hfab : fabOf t = fabOf s) (hpod : t.pod = s.pod) : Beside t (sendVote t w) ∧
      (leaderOf s g = chipOf s → ⟨.pod, s.pod, phHub, none, .event (.vote w)⟩ ∈ (sendVote t w).agenda) := by
  refine ⟨beside_leekSend .., fun hself => ?_⟩
  have hchip : leaderOf t g = chipOf t := by
    rw [leaderOf, chipOf, hg, hm, hfab]
    exact hself
  rw [sendVote, leekSend, hw, if_pos hchip, hpod]
  exact List.mem_append_right _ (List.mem_singleton_self _)

/-- The VOTE of a member, before its verdict and counts. -/
def voteBy (s : State) (g : Nat) (dirIn : Bool) : VoteFrame := voteFrame s g dirIn (gangOf s g).vote.switchNo

/-- The gang's vote with its stage. -/
def atStage (st : VoteStage) (x : Gang) : Gang := { x with vote := { x.vote with stage := st } }

/-- The gang has voted, with NEED. -/
def votedGang (need : Nat) (x : Gang) : Gang := { x with vote := { x.vote with stage := .voted, need := need } }

/-- The out-vote's VOTE of gang `g`. -/
def outVote (s : State) (g need : Nat) : VoteFrame :=
  let x := gangOf s g
  { voteBy s g false with
    verdict := BitVec.ofNat 4 (outVerdict s g), sent := linkSum x.sent, ended := linkSum x.recv + linkSum x.capt, need := need }

/-- The state in which an out-vote's member votes: refusals are recorded. -/
def refused (s : State) (g : Nat) : State :=
  let s' := (takeFresh s).2
  if outVerdict s g = 4 then postEvent s' (gangOf s g).vdid .resource evRefusals [g, outVerdict s g] [] else s'

theorem logged_refused (s : State) (g : Nat) : Logged s (refused s g) := by
  have fresh : Logged s (takeFresh s).2 := ⟨⟨rfl, rfl, rfl, fun _ h => h⟩, rfl, rfl, rfl, rfl, rfl, rfl⟩
  unfold refused
  dsimp only
  split
  · exact fresh.trans (logged_postEvent ..)
  · exact fresh

theorem voteFrame_congr {s t : State} {g no : Nat} {d : Bool} (hd : (gangOf t g).vote.drain = (gangOf s g).vote.drain)
    (hf : (gangOf t g).vote.force = (gangOf s g).vote.force) (hm : (gangOf t g).memberCount = (gangOf s g).memberCount)
    (hp : t.pod = s.pod) (hfab : fabOf t = fabOf s) : voteFrame t g d no = voteFrame s g d no := by
  rw [voteFrame, voteFrame, chipOf, chipOf, hd, hf, hm, hp, hfab]

section
variable {s : State} {g : Nat}

theorem voteOut_idle (h : (gangOf s g).vote.stage ≠ .draining) : exec (.voteSend g false) s = .next s := by
  rw [exec_voteSend, if_neg Bool.false_ne_true, voteOut]
  exact congrArg Host.Outcome.next (if_neg h)

theorem voteOut_eq (h : (gangOf s g).vote.stage = .draining) : voteOut s g =
    sendVote (modGang (refused s g) g (votedGang (Config.windowTime s.fresh % 2 ^ 32)))
      (outVote s g (Config.windowTime s.fresh % 2 ^ 32)) := by
  have hrefused := logged_refused s g
  have hgang : gangOf (modGang (refused s g) g (votedGang (Config.windowTime s.fresh % 2 ^ 32))) g =
      votedGang (Config.windowTime s.fresh % 2 ^ 32) (gangOf s g) := by
    rw [gangOf_modGang_self, hrefused.gangOf]
  have hframe : voteFrame (modGang (refused s g) g (votedGang (Config.windowTime s.fresh % 2 ^ 32))) g false
      (gangOf s g).vote.switchNo = voteBy s g false :=
    voteFrame_congr (by rw [hgang]; rfl) (by rw [hgang]; rfl) (by rw [hgang]; rfl) hrefused.pod hrefused.fab
  rw [outVote, ← hframe, voteOut]
  exact if_pos h

theorem voteOut_votes (h : (gangOf s g).vote.stage = .draining) : ∃ t, ∃ need < 2 ^ 32, exec (.voteSend g false) s = .next t ∧
    t.cores = s.cores ∧ gangOf t g = votedGang need (gangOf s g) ∧
      (leaderOf s g = chipOf s → ⟨.pod, s.pod, phHub, none, .event (.vote (outVote s g need))⟩ ∈ t.agenda) := by
  have hrefused := logged_refused s g
  have hneed : Config.windowTime s.fresh % 2 ^ 32 < 2 ^ 32 := Nat.mod_lt _ (by decide)
  have heq := voteOut_eq h
  generalize Config.windowTime s.fresh % 2 ^ 32 = need at hneed heq
  have hgang : gangOf (modGang (refused s g) g (votedGang need)) g = votedGang need (gangOf s g) := by
    rw [gangOf_modGang_self, hrefused.gangOf]
  obtain ⟨sent, hjob⟩ := sendVote_sends (s := s) (g := g) (t := modGang (refused s g) g (votedGang need)) (w := outVote s g need)
    rfl hgang rfl hrefused.fab hrefused.pod
  refine ⟨_, need, hneed, ?_, sent.cores.trans hrefused.cores, ?_, hjob⟩
  · rw [exec_voteSend, if_neg Bool.false_ne_true, heq]
  · rw [sent.gangOf, hgang]

/-- The gang votes NO with a reason. -/
def votesNo (s : State) (g : Nat) (r : BitVec 4) : State :=
  sendVote (setGang s g (atStage .entered (gangOf s g))) { voteBy s g true with verdict := r }

/-- When the gang is ready: its set free, its window drawn, and its sleeping islands awake. -/
def readyAt (s : State) (g : Nat) : Nat :=
  max s.pod (tget 0 s.hub.setFree (gangOf s g).coreset) + Config.windowTime s.fresh % 2 ^ 31 +
    if sleepingIslands s g = [] then 0 else 480000

/-- The gang has entered, ready from pod cycle `ready` on. -/
def enteredGang (ready : Nat) (x : Gang) : Gang := { x with vote := { x.vote with stage := .entered, ready := ready } }

/-- Islands are woken for a gang that enters. -/
def wakes (s : State) (is : List Nat) : State :=
  is.foldl (fun s i => postPod s (s.pod + 480000) phHub (.islandWake (Fin.ofNat 16 i))) s

/-- The gang has entered, and the islands it needs are woken. -/
def entered (s : State) (g : Nat) : State :=
  setGang (wakes (takeFresh s).2 (sleepingIslands s g)) g (enteredGang (readyAt s g) (gangOf s g))

/-- The gang votes YES. -/
def votesYes (s : State) (g : Nat) : State :=
  sendVote (entered s g) { voteFrame (entered s g) g true (gangOf s g).vote.switchNo with need := readyAt s g - (entered s g).pod }

theorem voteIn_eq (s : State) (g : Nat) : voteIn s g =
    let x := gangOf s g
    if x.vote.stage = .entering then
      if x.faulted then votesNo s g 5
      else if (houseOf s).emergency then votesNo s g 6
      else if !packageOpen s || shutOut s x.vdid (max s.pod x.vote.boundary) then votesNo s g 4
      else if setKnown s g = some false then votesNo s g 4
      else if overRated s g then votesNo s g 6
      else votesYes s g
    else s := rfl

theorem voteIn_idle (h : (gangOf s g).vote.stage ≠ .entering) : exec (.voteSend g true) s = .next s := by
  rw [exec_voteSend, if_pos rfl, voteIn_eq]
  exact congrArg Host.Outcome.next (if_neg h)

/-- The package takes the gang in, and its core set is free. -/
def Admits (s : State) (g : Nat) : Prop :=
  let x := gangOf s g
  packageOpen s = true ∧ shutOut s x.vdid (max s.pod x.vote.boundary) = false ∧ setKnown s g = some true

theorem emergency_of_packageOpen (h : packageOpen s = true) : (houseOf s).emergency = false := by
  rw [packageOpen, Bool.and_eq_true, Bool.not_eq_true'] at h
  exact h.2

/-- The gang votes NO POWER, in an emergency or above its partition's rate. -/
theorem voteIn_power (h : (gangOf s g).vote.stage = .entering) (hf : (gangOf s g).faulted = false)
    (hp : (houseOf s).emergency = true ∨ Admits s g ∧ overRated s g = true) : ∃ t, exec (.voteSend g true) s = .next t ∧
      t.cores = s.cores ∧
      (leaderOf s g = chipOf s → ⟨.pod, s.pod, phHub, none, .event (.vote { voteBy s g true with verdict := 6 })⟩ ∈ t.agenda) := by
  have heq : voteIn s g = votesNo s g 6 := by
    rw [voteIn_eq]
    dsimp only
    rw [if_pos h, hf, if_neg Bool.false_ne_true]
    by_cases he : (houseOf s).emergency = true
    · rw [if_pos he]
    · obtain ⟨⟨hopen, hshut, hknown⟩, hover⟩ := hp.resolve_left he
      rw [if_neg he, hopen, hshut, if_neg (by decide), hknown, if_neg (by decide), if_pos hover]
  obtain ⟨sent, hjob⟩ := sendVote_sends (s := s) (g := g) (t := setGang s g (atStage .entered (gangOf s g)))
    (w := { voteBy s g true with verdict := 6 }) rfl (gangOf_setGang_self ..) rfl rfl rfl
  exact ⟨votesNo s g 6, by rw [exec_voteSend, if_pos rfl, heq], sent.cores, hjob⟩

theorem wakes_wakes (is : List Nat) (s : State) : Beside s (wakes s is) ∧ fabOf (wakes s is) = fabOf s ∧
    ∀ i ∈ is, ⟨.pod, s.pod + 480000, phHub, none, .event (.islandWake (Fin.ofNat 16 i))⟩ ∈ (wakes s is).agenda := by
  induction is generalizing s with
  | nil => exact ⟨.refl s, rfl, fun _ h => nomatch h⟩
  | cons i is ih =>
    obtain ⟨beside, hfab, hjobs⟩ := ih (postPod s (s.pod + 480000) phHub (.islandWake (Fin.ofNat 16 i)))
    refine ⟨(beside_postPod ..).trans beside, hfab, fun j hj => ?_⟩
    rcases List.mem_cons.mp hj with rfl | hj
    · exact beside.keeps _ (List.mem_append_right _ (List.mem_singleton_self _))
    · exact hjobs j hj

theorem voteIn_enters (h : (gangOf s g).vote.stage = .entering) (hf : (gangOf s g).faulted = false) (ha : Admits s g)
    (ho : overRated s g = false) : ∃ t, ∃ ready ≥ max s.pod (tget 0 s.hub.setFree (gangOf s g).coreset),
      exec (.voteSend g true) s = .next t ∧ t.cores = s.cores ∧ gangOf t g = enteredGang ready (gangOf s g) ∧
        (sleepingIslands s g ≠ [] → s.pod + 480000 ≤ ready) ∧
        (∀ i ∈ sleepingIslands s g, ⟨.pod, s.pod + 480000, phHub, none, .event (.islandWake (Fin.ofNat 16 i))⟩ ∈ t.agenda) ∧
        (leaderOf s g = chipOf s → ⟨.pod, s.pod, phHub, none, .event (.vote { voteBy s g true with need := ready - s.pod })⟩ ∈
          t.agenda) := by
  obtain ⟨hopen, hshut, hknown⟩ := ha
  obtain ⟨woken, hfab, hjobs⟩ := wakes_wakes (sleepingIslands s g) (takeFresh s).2
  have hpod : (entered s g).pod = s.pod := woken.pod
  have hgang : gangOf (entered s g) g = enteredGang (readyAt s g) (gangOf s g) := gangOf_setGang_self ..
  have heq : voteIn s g = sendVote (entered s g) { voteBy s g true with need := readyAt s g - s.pod } := by
    have hframe : voteFrame (entered s g) g true (gangOf s g).vote.switchNo = voteBy s g true :=
      voteFrame_congr (by rw [hgang]; rfl) (by rw [hgang]; rfl) (by rw [hgang]; rfl) hpod hfab
    have hyes : voteIn s g = votesYes s g := by
      rw [voteIn_eq]
      dsimp only
      rw [if_pos h, hf, if_neg Bool.false_ne_true, emergency_of_packageOpen hopen, if_neg Bool.false_ne_true, hopen, hshut,
        if_neg (by decide), hknown, if_neg (by decide), ho, if_neg Bool.false_ne_true]
    rw [hyes, votesYes, hframe, hpod]
  obtain ⟨sent, hjob⟩ := sendVote_sends (s := s) (g := g) (t := entered s g)
    (w := { voteBy s g true with need := readyAt s g - s.pod }) rfl hgang rfl hfab hpod
  refine ⟨_, readyAt s g, ?_, by rw [exec_voteSend, if_pos rfl, heq], sent.cores.trans woken.cores, ?_, fun hs => ?_,
    fun i hi => sent.keeps _ (hjobs i hi), hjob⟩
  · exact (Nat.le_add_right _ _).trans (Nat.le_add_right _ _)
  · rw [sent.gangOf, hgang]
  · rw [readyAt, if_neg hs]
    omega

end

/-- Settles O46. -/
theorem votesSent : Obligations.VotesSent := by
  refine ⟨fun s g => ?_, fun s v => ?_, fun s g => ?_⟩
  · refine ⟨prepareSend_stays, fun h => ?_, fun hoff hrun => ?_, fun r n img hoff hrun hr ha => ?_⟩
    · obtain ⟨hdrain, hheld, hrunning⟩ := outFrame_halts h
      obtain ⟨beside, hjob, hdead⟩ := prepares_sends s g (outFrame s g) (.outVoteDeadline g)
      exact ⟨_, outFrame s g, prepareSend_leaves h, beside.gangs, ⟨hjob, hdead, beside.cores⟩, hdrain, rfl, rfl, hheld, hrunning,
        rfl⟩
    · obtain ⟨beside, hjob, hdead⟩ := prepares_sends s g (inFrame s g) (.inVoteDeadline g)
      exact ⟨_, prepareSend_returns hoff hrun, beside.gangs, hjob, hdead, beside.cores⟩
    · obtain ⟨beside, hjob, hdead⟩ := prepares_sends (modGang s g (entersWith r n img)) g (inFrame s g) (.inVoteDeadline g)
      refine ⟨_, prepareSend_enters hoff hrun hr ha, ?_, hjob, hdead, beside.cores⟩
      rw [beside.gangOf, gangOf_modGang_self]
      rfl
  · exact ⟨fun hd hr hm => ⟨prepare_late hd hr hm, prepare_arms hd hr hm⟩, prepare_enters⟩
  · exact ⟨switchFreeze_idle, switchFreeze_captures, voteOut_idle, voteOut_votes, voteIn_idle, voteIn_enters, voteIn_power⟩

end Sys2Proof.Machine
end

section
/-! PROOF. The leader's decision, and what COMMIT, ABORT and the deadlines do (R256, R258, R259, R263, R264). -/

namespace Sys2Proof.Machine

theorem exec_vote (v : VoteFrame) (s : State) : exec (.vote v) s = execVote v s := rfl
theorem exec_commit (v : VoteFrame) (s : State) : exec (.commit v) s = execCommit v s := rfl
theorem exec_abort (v : VoteFrame) (s : State) : exec (.abort v) s = execAbort v s := rfl
theorem exec_outVoteDeadline (g : Nat) (s : State) : exec (.outVoteDeadline g) s = execOutVoteDeadline g s := rfl
theorem exec_inVoteDeadline (g : Nat) (s : State) : exec (.inVoteDeadline g) s = execInVoteDeadline g s := rfl
theorem exec_voteDeadline (g : Nat) (s : State) : exec (.voteDeadline g) s = execVoteDeadline g s := rfl

/-! The first NO. -/

/-- The NO of the lowest chip id among those seen. -/
def lowerNo (b : Option VoteFrame) (v : VoteFrame) : Option VoteFrame :=
  match b with
  | none => some v
  | some w => if v.chip < w.chip then some v else some w

theorem foldl_lowerNo (vs : List VoteFrame) (w : VoteFrame) : ∃ u, vs.foldl lowerNo (some w) = some u ∧ (u = w ∨ u ∈ vs) ∧
    u.chip ≤ w.chip ∧ ∀ v ∈ vs, u.chip ≤ v.chip := by
  induction vs generalizing w with
  | nil => exact ⟨w, rfl, .inl rfl, Nat.le_refl _, fun _ h => nomatch h⟩
  | cons v vs ih =>
    rw [List.foldl_cons]
    have hlower : lowerNo (some w) v = some (if v.chip < w.chip then v else w) := by
      rw [lowerNo, apply_ite some]
    obtain ⟨u, hu, hin, hle, hall⟩ := ih (if v.chip < w.chip then v else w)
    refine ⟨u, by rw [hlower, hu], ?_⟩
    by_cases hlt : v.chip < w.chip
    · rw [if_pos hlt] at hin hle
      refine ⟨.inr ?_, by omega, fun x hx => ?_⟩
      · rcases hin with rfl | h
        · exact List.mem_cons_self
        · exact List.mem_cons_of_mem _ h
      · rcases List.mem_cons.mp hx with rfl | hx
        · exact hle
        · exact hall x hx
    · rw [if_neg hlt] at hin hle
      refine ⟨hin.imp_right (List.mem_cons_of_mem _), hle, fun x hx => ?_⟩
      rcases List.mem_cons.mp hx with rfl | hx
      · omega
      · exact hall x hx

theorem firstNo_eq (vs : List VoteFrame) : firstNo vs = (vs.filter fun v => decide (v.verdict ≠ 0)).foldl lowerNo none := rfl

theorem firstNo_none {vs : List VoteFrame} (h : ∀ u ∈ vs, u.verdict = 0) : firstNo vs = none := by
  rw [firstNo_eq, List.filter_eq_nil_iff.mpr fun u hu => by rw [h u hu]; decide]
  rfl

theorem firstNo_some {vs : List VoteFrame} {u : VoteFrame} (h : firstNo vs = some u) :
    u ∈ vs ∧ u.verdict ≠ 0 ∧ ∀ u' ∈ vs, u'.verdict ≠ 0 → u.chip ≤ u'.chip := by
  have hmem : ∀ v, v ∈ vs.filter (fun v => decide (v.verdict ≠ 0)) ↔ v ∈ vs ∧ v.verdict ≠ 0 := fun v => by
    rw [List.mem_filter, decide_eq_true_eq]
  rw [firstNo_eq] at h
  generalize vs.filter (fun v => decide (v.verdict ≠ 0)) = ns at hmem h
  cases ns with
  | nil => cases h
  | cons n ns =>
    obtain ⟨w, hw, hin, hle, hall⟩ := foldl_lowerNo ns n
    have hwu : w = u := Option.some.inj (hw.symm.trans h)
    subst hwu
    obtain ⟨hvs, hno⟩ := (hmem w).mp (List.mem_cons.mpr hin)
    refine ⟨hvs, hno, fun v hv hvno => ?_⟩
    rcases List.mem_cons.mp ((hmem v).mpr ⟨hv, hvno⟩) with rfl | h
    · exact hle
    · exact hall v h

/-! VOTE at the leader. -/

/-- The stages in which a member's out-vote is open. -/
def TakesOut (x : Gang) : Prop := x.vote.stage = .armed ∨ x.vote.stage = .draining ∨ x.vote.stage = .voted

/-- The stages in which a member's in-vote is open. -/
def TakesIn (x : Gang) : Prop := x.vote.stage = .entering ∨ x.vote.stage = .entered

theorem takesOut_iff (x : Gang) : x.vote.stage ∈ [VoteStage.armed, .draining, .voted] ↔ TakesOut x := by
  simp [TakesOut]

theorem takesIn_iff (x : Gang) : x.vote.stage ∈ [VoteStage.entering, .entered] ↔ TakesIn x := by
  simp [TakesIn]

/-- The VOTE counts at this leader. -/
def Counts (s : State) (v : VoteFrame) : Prop :=
  let x := gangOf s v.gang
  isLeader s v.gang = true ∧ x.vote.switchNo = v.switchNo ∧ (if v.dirIn then TakesIn x else TakesOut x)

theorem counts_iff (s : State) (v : VoteFrame) : Counts s v ↔
    ((if v.dirIn then decide ((gangOf s v.gang).vote.stage ∈ [VoteStage.entering, .entered])
      else decide ((gangOf s v.gang).vote.stage ∈ [VoteStage.armed, .draining, .voted])) &&
        decide ((gangOf s v.gang).vote.switchNo = v.switchNo) && isLeader s v.gang) = true := by
  rw [Bool.and_eq_true, Bool.and_eq_true, decide_eq_true_eq]
  unfold Counts
  dsimp only
  cases v.dirIn
  · rw [if_neg Bool.false_ne_true, if_neg Bool.false_ne_true, decide_eq_true_eq, takesOut_iff]
    tauto
  · rw [if_pos rfl, if_pos rfl, decide_eq_true_eq, takesIn_iff]
    tauto

/-- The gang with the VOTEs `vs` received. -/
def hasVotes (vs : List VoteFrame) (x : Gang) : Gang := { x with vote := { x.vote with received := vs } }

/-- The VOTE is voteNoted. -/
def voteNoted (s : State) (v : VoteFrame) : State :=
  setGang s v.gang (hasVotes ((gangOf s v.gang).vote.received ++ [v]) (gangOf s v.gang))

section
variable {s : State} {v : VoteFrame}

theorem vote_idle (h : ¬Counts s v) : exec (.vote v) s = .next s := by
  rw [counts_iff] at h
  exact if_neg h

theorem vote_counts (h : Counts s v) : exec (.vote v) s = .next
    (let vs := (gangOf s v.gang).vote.received ++ [v]
     if vs.length < (gangOf s v.gang).memberCount then voteNoted s v
     else if v.dirIn then decideIn (voteNoted s v) v.gang vs else decideOut (voteNoted s v) v.gang vs) := by
  rw [counts_iff] at h
  exact if_pos h

end

/-- The leader's frame to the members, before its verdict and cycle. -/
def leaderFrame (s : State) (g : Nat) (dirIn : Bool) : VoteFrame := voteFrame s g dirIn (gangOf s g).vote.switchNo

theorem sendAbort_sends (s : State) (g : Nat) (dirIn : Bool) (r : BitVec 4) (chip : Nat) : Beside s (sendAbort s g dirIn r chip) ∧
    ⟨.pod, s.pod, phHub, none, .event (.abort { leaderFrame s g dirIn with verdict := r, chip := chip })⟩ ∈
      (sendAbort s g dirIn r chip).agenda :=
  ⟨beside_toMembers .., toMembers_self ..⟩

/-- COMMIT to every member. -/
def sendCommit (s : State) (g : Nat) (dirIn : Bool) (t : Nat) : State :=
  toMembers s g (.commit { leaderFrame s g dirIn with tSwap := t })

theorem sendCommit_sends (s : State) (g : Nat) (dirIn : Bool) (t : Nat) : Beside s (sendCommit s g dirIn t) ∧
    ⟨.pod, s.pod, phHub, none, .event (.commit { leaderFrame s g dirIn with tSwap := t })⟩ ∈ (sendCommit s g dirIn t).agenda :=
  ⟨beside_toMembers .., toMembers_self ..⟩

theorem beside_decideOut (s : State) (g : Nat) (vs : List VoteFrame) : Beside s (decideOut s g vs) := by
  unfold decideOut
  split
  · exact (sendAbort_sends ..).1
  · split
    · exact (sendAbort_sends ..).1
    · exact beside_toMembers ..

theorem beside_startAt (s : State) (g : Nat) (vs : List VoteFrame) : Beside s (startAt s g vs).2 := by
  unfold startAt
  dsimp only
  split
  · exact ⟨rfl, rfl, rfl, fun _ h => h⟩
  · exact .refl s

theorem beside_decideIn (s : State) (g : Nat) (vs : List VoteFrame) : Beside s (decideIn s g vs) := by
  unfold decideIn
  split
  · exact (sendAbort_sends ..).1
  · refine (beside_startAt s g vs).trans ?_
    dsimp only
    split
    · exact (sendAbort_sends ..).1
    · exact beside_toMembers ..

section
variable {s : State} {g : Nat} {vs : List VoteFrame}

theorem decideOut_yes (h : ∀ u ∈ vs, u.verdict = 0) : decideOut s g vs =
    if (vs.map (·.sent)).sum ≠ (vs.map (·.ended)).sum then sendAbort s g false 3 0
    else sendCommit s g false (s.pod + (gangOf s g).h) := by
  rw [decideOut, firstNo_none h]
  rfl

theorem decideOut_no {u : VoteFrame} (h : firstNo vs = some u) : decideOut s g vs = sendAbort s g false u.verdict u.chip := by
  rw [decideOut, h]

theorem decideIn_no {u : VoteFrame} (h : firstNo vs = some u) : decideIn s g vs = sendAbort s g true u.verdict u.chip := by
  rw [decideIn, h]

/-- The pod cycle at which a gang that returns starts. -/
def returnsAt (s : State) (g : Nat) (vs : List VoteFrame) : Nat :=
  vs.foldl (fun t u => max t (u.origin + u.need)) (max (gangOf s g).vote.boundary (s.pod + (gangOf s g).h))

theorem decideIn_yes (h : ∀ u ∈ vs, u.verdict = 0) (hrun : (gangOf s g).hasRun = true) (hd : s.hub.delayed = false) :
    decideIn s g vs = if (gangOf s g).vote.boundary + 2 ^ (authOf s).slotExp - 65536 ≤ returnsAt s g vs then sendAbort s g true 7 0
      else sendCommit s g true (returnsAt s g vs) := by
  have hstart : startAt s g vs = (returnsAt s g vs, s) := by
    unfold startAt
    dsimp only
    rw [if_neg (by rw [hd]; decide), if_pos hrun]
    rfl
  rw [decideIn, firstNo_none h]
  dsimp only
  rw [hstart]
  rfl

end

/-- What the leader decides once it has every VOTE. -/
theorem vote_decides {s : State} {v : VoteFrame} (h : Counts s v)
    (hall : (gangOf s v.gang).memberCount ≤ ((gangOf s v.gang).vote.received ++ [v]).length) :
    let g := v.gang
    let x := gangOf s g
    let vs := x.vote.received ++ [v]
    let w := voteFrame s g v.dirIn v.switchNo
    let at' := fun (i : Instr) => (⟨.pod, s.pod, phHub, none, .event i⟩ : Job)
    ∃ t, exec (.vote v) s = .next t ∧ t.cores = s.cores ∧ gangOf t g = hasVotes vs x ∧
      ((∀ u ∈ vs, u.verdict = 0) → v.dirIn = false →
        ((vs.map (·.sent)).sum = (vs.map (·.ended)).sum → at' (.commit { w with tSwap := s.pod + x.h }) ∈ t.agenda) ∧
        ((vs.map (·.sent)).sum ≠ (vs.map (·.ended)).sum → at' (.abort { w with verdict := 3, chip := 0 }) ∈ t.agenda)) ∧
      ((∀ u ∈ vs, u.verdict = 0) → v.dirIn = true → x.hasRun = true → s.hub.delayed = false →
        let T := vs.foldl (fun t u => max t (u.origin + u.need)) (max x.vote.boundary (s.pod + x.h))
        (T < x.vote.boundary + 2 ^ (authOf s).slotExp - 65536 → at' (.commit { w with tSwap := T }) ∈ t.agenda) ∧
        (x.vote.boundary + 2 ^ (authOf s).slotExp - 65536 ≤ T → at' (.abort { w with verdict := 7, chip := 0 }) ∈ t.agenda)) ∧
      (∀ u, firstNo vs = some u → u ∈ vs ∧ u.verdict ≠ 0 ∧ (∀ u' ∈ vs, u'.verdict ≠ 0 → u.chip ≤ u'.chip) ∧
        at' (.abort { w with verdict := u.verdict, chip := u.chip }) ∈ t.agenda) := by
  intro g x vs w at'
  have hx := vote_counts h
  dsimp only at hx
  rw [if_neg (Nat.not_lt.mpr hall)] at hx
  have hgang : gangOf (voteNoted s v) g = hasVotes vs x := gangOf_setGang_self ..
  have hframe : leaderFrame (voteNoted s v) g v.dirIn = w := by
    have hno : (gangOf (voteNoted s v) g).vote.switchNo = v.switchNo := by
      rw [hgang]
      exact h.2.1
    rw [leaderFrame, hno]
    exact voteFrame_congr (by rw [hgang]; rfl) (by rw [hgang]; rfl) (by rw [hgang]; rfl) rfl rfl
  have hcores : (voteNoted s v).cores = s.cores := rfl
  have hpod : (voteNoted s v).pod = s.pod := rfl
  have hdelayed : (voteNoted s v).hub.delayed = s.hub.delayed := rfl
  have hauth : authOf (voteNoted s v) = authOf s := rfl
  have hh : (gangOf (voteNoted s v) g).h = x.h := by rw [hgang]; rfl
  have hrun : (gangOf (voteNoted s v) g).hasRun = x.hasRun := by rw [hgang]; rfl
  have hbound : (gangOf (voteNoted s v) g).vote.boundary = x.vote.boundary := by rw [hgang]; rfl
  generalize voteNoted s v = u at hx hgang hframe hcores hpod hdelayed hauth hh hrun hbound
  have aborts := fun (r : BitVec 4) (chip : Nat) => (sendAbort_sends u g v.dirIn r chip).2
  have commits := fun (t : Nat) => (sendCommit_sends u g v.dirIn t).2
  rw [hframe, hpod] at aborts commits
  by_cases hd : v.dirIn = true
  · rw [if_pos hd] at hx
    rw [hd] at aborts commits
    have beside := beside_decideIn u g vs
    refine ⟨_, hx, beside.cores.trans hcores, (beside.gangOf g).trans hgang, fun _ hout => ?_, fun hyes _ hhas hdel => ?_,
      fun n hn => ?_⟩
    · rw [hd] at hout
      cases hout
    · intro T
      have hT : returnsAt u g vs = T := by rw [returnsAt, hbound, hpod, hh]
      rw [decideIn_yes hyes (hrun.trans hhas) (hdelayed.trans hdel), hbound, hauth, hT]
      refine ⟨fun hlt => ?_, fun hle => ?_⟩
      · rw [if_neg (by omega)]
        exact commits T
      · rw [if_pos hle]
        exact aborts 7 0
    · obtain ⟨hin, hno, hlow⟩ := firstNo_some hn
      refine ⟨hin, hno, hlow, ?_⟩
      rw [decideIn_no hn]
      exact aborts n.verdict n.chip
  · rw [if_neg hd] at hx
    have hd' : v.dirIn = false := Bool.eq_false_iff.mpr hd
    rw [hd'] at aborts commits
    have beside := beside_decideOut u g vs
    refine ⟨_, hx, beside.cores.trans hcores, (beside.gangOf g).trans hgang, fun hyes _ => ⟨fun heq => ?_, fun hne => ?_⟩,
      fun _ hin => absurd hin hd, fun n hn => ?_⟩
    · rw [decideOut_yes hyes, if_neg (not_not_intro heq), hpod, hh]
      exact commits (s.pod + x.h)
    · rw [decideOut_yes hyes, if_pos hne]
      exact aborts 3 0
    · obtain ⟨hin, hno, hlow⟩ := firstNo_some hn
      refine ⟨hin, hno, hlow, ?_⟩
      rw [decideOut_no hn]
      exact aborts n.verdict n.chip

end Sys2Proof.Machine
end

section
/-! PROOF. COMMIT, ABORT and the deadlines of votes (R258, R259, R263, R264). -/

namespace Sys2Proof.Machine

/-! COMMIT. -/

section
variable {s : State} {v : VoteFrame}

/-- The gang is to be saved at pod cycle `t`. -/
def swappingGang (t : Nat) (x : Gang) : Gang :=
  { x with vote := { x.vote with stage := .swapping, swap := t }, npAborts := 0, ownAborts := 0 }

/-- The gang is to start at pod cycle `t`. -/
def startingGang (t : Nat) (x : Gang) : Gang := { x with vote := { x.vote with stage := .starting, swap := t } }

/-- The core set is free from pod cycle `t` on. -/
def freesSet (s : State) (set t : Nat) : State := { s with hub := { s.hub with setFree := tset 0 s.hub.setFree set t } }

theorem hub_pollVotes (s : State) : (pollVotes s).hub = s.hub := by
  unfold pollVotes
  generalize (s.gangs.filter fun e => decide (e.2.vote.stage = .entering)) = es
  induction es generalizing s with
  | nil => rfl
  | cons e es ih =>
    rw [List.foldl_cons, ih]
    split <;> rfl

theorem commit_idle (hd : v.dirIn = false) (h : (gangOf s v.gang).vote.stage ≠ .voted) : exec (.commit v) s = .next s := by
  rw [exec_commit, execCommit]
  dsimp only
  rw [hd, if_neg Bool.false_ne_true, if_neg h]

theorem commit_swaps (hd : v.dirIn = false) (h : (gangOf s v.gang).vote.stage = .voted) :
    let x := gangOf s v.gang
    ∃ t, exec (.commit v) s = .next t ∧ t.cores = s.cores ∧ gangOf t v.gang = swappingGang v.tSwap x ∧
      tget 0 t.hub.setFree x.coreset = v.tSwap + x.vote.need ∧
      ⟨.pod, v.tSwap, phHub, none, .event (.contextSave v.gang)⟩ ∈ t.agenda := by
  intro x
  obtain ⟨u, hu⟩ : ∃ u, u = freesSet (setGang s v.gang (swappingGang v.tSwap x)) x.coreset (v.tSwap + x.vote.need) := ⟨_, rfl⟩
  have hx : exec (.commit v) s = .next (pollVotes (postPod u v.tSwap phHub (.contextSave v.gang))) := by
    rw [exec_commit, execCommit, hu]
    dsimp only
    rw [hd, if_neg Bool.false_ne_true, if_pos h]
    rfl
  have later : Beside u (pollVotes (postPod u v.tSwap phHub (.contextSave v.gang))) := (beside_postPod ..).trans (beside_pollVotes _)
  refine ⟨_, hx, later.cores.trans (by rw [hu]; rfl), (later.gangOf _).trans ?_, ?_,
    (beside_pollVotes _).keeps _ (List.mem_append_right _ (List.mem_singleton_self _))⟩
  · rw [hu]
    exact gangOf_setGang_self ..
  · rw [hub_pollVotes, hu]
    exact tget_tset_self ..

theorem commit_starts (hd : v.dirIn = true) (h : (gangOf s v.gang).vote.stage = .entered) :
    ∃ t, exec (.commit v) s = .next t ∧ t.cores = s.cores ∧ gangOf t v.gang = startingGang v.tSwap (gangOf s v.gang) ∧
      ⟨.pod, v.tSwap, phHub, none, .event (.switchIn v.gang)⟩ ∈ t.agenda := by
  obtain ⟨u, hu⟩ : ∃ u, u = setGang s v.gang (startingGang v.tSwap (gangOf s v.gang)) := ⟨_, rfl⟩
  have hx : exec (.commit v) s = .next (postPod (if (gangOf s v.gang).hasRun = true then
      post u ⟨.pod, max u.pod (v.tSwap - 24), phHub, none, .deed (.reopenRows v.gang)⟩ else u) v.tSwap phHub (.switchIn v.gang)) := by
    rw [exec_commit, execCommit, hu]
    dsimp only
    rw [if_pos hd, if_pos h]
    rfl
  have hself : gangOf u v.gang = startingGang v.tSwap (gangOf s v.gang) := by
    rw [hu]
    exact gangOf_setGang_self ..
  refine ⟨_, hx, ?_, ?_, List.mem_append_right _ (List.mem_singleton_self _)⟩
  · split
    all_goals
      rw [hu]
      rfl
  · rw [gangOf_postPod]
    split
    · exact hself
    · exact hself

end

/-! ABORT. -/

/-- A release of a hold leaves its gang but for the hold and the resume. -/
theorem markReleased_resumes (s : State) (g n t : Nat) :
    ∃ r, gangOf (markReleased s g n t) g = { releasedGang n t (gangOf s g) with resume := r } := by
  have hself : gangOf (modGang (countFrozen s g n) g (releasedGang n t)) g = releasedGang n t (gangOf s g) := by
    rw [gangOf_modGang_self, (upkeep_countFrozen s g n).toAside.gangOf]
  have heq : markReleased s g n t = settleHolds (modGang (countFrozen s g n) g (releasedGang n t)) g := rfl
  rw [heq, settleHolds]
  dsimp only
  rw [hself]
  split
  · split
    · exact ⟨_, by rw [gangOf_postPod, gangOf_setGang_self]⟩
    · exact ⟨_, by rw [gangOf_setGang_self]⟩
  · exact ⟨(releasedGang n t (gangOf s g)).resume, hself⟩

/-- The gang whose out-vote is aborted. -/
def abortedGang (v : VoteFrame) (x : Gang) : Gang :=
  { x with
    vote := { boundary := x.vote.boundary, tHalt := x.vote.tHalt, drain := x.vote.drain && !decide (x.vote.stage ≠ .armed) }
    swAborted := x.swAborted + 1, npAborts := if v.verdict.toNat = 2 then x.npAborts + 1 else 0
    ownAborts := if ownVerdict v.verdict.toNat then x.ownAborts + 1 else 0 }

/-- An abort that comes too often is recorded. -/
def refusedOften (s : State) (v : VoteFrame) : State :=
  let x := gangOf s v.gang
  let s' := setGang s v.gang (abortedGang v x)
  if (if ownVerdict v.verdict.toNat then x.ownAborts + 1 else 0) = 4 then
    postEvent s' x.vdid .resource evRefusals [v.gang, v.verdict.toNat] [] else s'

theorem refusedOften_keeps (s : State) (v : VoteFrame) : (refusedOften s v).cores = s.cores ∧ (refusedOften s v).pod = s.pod ∧
    gangOf (refusedOften s v) v.gang = abortedGang v (gangOf s v.gang) := by
  have hself : gangOf (setGang s v.gang (abortedGang v (gangOf s v.gang))) v.gang = abortedGang v (gangOf s v.gang) :=
    gangOf_setGang_self ..
  unfold refusedOften
  dsimp only
  generalize (if ownVerdict v.verdict.toNat then (gangOf s v.gang).ownAborts + 1 else 0) = n
  split
  · have logged := logged_postEvent (setGang s v.gang (abortedGang v (gangOf s v.gang))) (gangOf s v.gang).vdid .resource evRefusals
      [v.gang, v.verdict.toNat] []
    exact ⟨logged.cores, logged.pod, by rw [logged.gangOf]; exact hself⟩
  · exact ⟨rfl, rfl, hself⟩

theorem leavePark_scratch (c : Core) : (leavePark c).scratch = c.scratch := by
  unfold leavePark
  split <;> rfl

theorem abortOut_aborts (s : State) (v : VoteFrame) :
    let x := gangOf s v.gang
    ScratchSame s (abortOut s v) ∧ (x.vote.stage = .armed → (abortOut s v).cores = s.cores) ∧
      ∃ r, gangOf (abortOut s v) v.gang = { releasedGang (2 ^ 64 + v.switchNo) v.origin (abortedGang v x) with resume := r } := by
  intro x
  obtain ⟨hcores, -, hgang⟩ := refusedOften_keeps s v
  obtain ⟨u, hu⟩ : ∃ u, u = if decide (x.vote.stage ≠ .armed) = true then
      (gangCores (refusedOften s v) v.gang).foldl (fun s k => modCore s k leavePark) (refusedOften s v) else refusedOften s v :=
    ⟨_, rfl⟩
  have heq : abortOut s v = markReleased u v.gang (2 ^ 64 + v.switchNo) v.origin := by
    rw [hu]
    rfl
  have hcore : ScratchSame s u ∧ u.gangs = (refusedOften s v).gangs ∧ (x.vote.stage = .armed → u.cores = s.cores) := by
    have before : ScratchSame s (refusedOften s v) := .of_cores hcores
    by_cases ha : x.vote.stage = .armed
    · rw [if_neg (by rw [ha]; decide)] at hu
      rw [hu]
      exact ⟨before, rfl, fun _ => hcores⟩
    · rw [if_pos (decide_eq_true ha)] at hu
      rw [hu]
      refine ⟨before.trans ?_, (coresOnly_foldl_modCore ..).gangs, fun h => absurd h ha⟩
      exact ScratchSame.foldl (fun u k => scratchSame_modCore u k leavePark_scratch) _ _
  obtain ⟨hscratch, hgangs, harmed⟩ := hcore
  have off := offCore_markReleased u v.gang (2 ^ 64 + v.switchNo) v.origin
  obtain ⟨r, hr⟩ := markReleased_resumes u v.gang (2 ^ 64 + v.switchNo) v.origin
  rw [heq]
  refine ⟨hscratch.trans (.of_cores off.cores), fun ha => off.cores.trans (harmed ha), r, ?_⟩
  have hself : gangOf u v.gang = abortedGang v x := by
    rw [← hgang, gangOf, gangOf, hgangs]
  rw [hr, hself]

section
variable {s : State} {v : VoteFrame}

theorem abort_releases (hd : v.dirIn = false) (h : TakesOut (gangOf s v.gang)) :
    let g := v.gang
    let x := gangOf s g
    ∃ t, exec (.abort v) s = .next t ∧ ScratchSame s t ∧
      let y := gangOf t g
      y.vote.stage = .run ∧ y.swAborted = x.swAborted + 1 ∧ y.fsa = x.fsa ∧
      y.npAborts = (if v.verdict = 2 then x.npAborts + 1 else 0) ∧
      y.holds = x.holds.map (fun h => if h.number = 2 ^ 64 + v.switchNo then { h with released := some v.origin } else h) ∧
      (x.vote.stage = .armed → t.cores = s.cores) := by
  intro g x
  obtain ⟨hscratch, harmed, r, hgang⟩ := abortOut_aborts s v
  have polled := beside_pollVotes (abortOut s v)
  refine ⟨pollVotes (abortOut s v), ?_, hscratch.trans (.of_cores polled.cores), ?_⟩
  · rw [exec_abort, execAbort, hd, if_neg Bool.false_ne_true, if_pos ((takesOut_iff _).mpr h)]
  · intro y
    have hy : y = { releasedGang (2 ^ 64 + v.switchNo) v.origin (abortedGang v x) with resume := r } :=
      (polled.gangOf g).trans hgang
    have htwo : v.verdict.toNat = 2 ↔ v.verdict = 2 := ⟨fun h => BitVec.eq_of_toNat_eq h, fun h => by rw [h]; rfl⟩
    refine ⟨by rw [hy]; rfl, by rw [hy]; rfl, by rw [hy]; rfl, ?_, by rw [hy]; rfl, fun ha => polled.cores.trans (harmed ha)⟩
    have hnp : y.npAborts = if v.verdict.toNat = 2 then x.npAborts + 1 else 0 := by rw [hy]; rfl
    rw [hnp]
    exact if_congr htwo rfl rfl

theorem abort_returns (hd : v.dirIn = true) (h : TakesIn (gangOf s v.gang)) : ∃ t, exec (.abort v) s = .next t ∧
    t.cores = s.cores ∧ t.agenda = s.agenda ∧
      (gangOf t v.gang).vote.stage = (if (gangOf s v.gang).hasRun then .out else .run) := by
  rw [exec_abort, execAbort, if_pos hd, if_pos ((takesIn_iff _).mpr h)]
  exact ⟨_, rfl, rfl, rfl, by rw [gangOf_setGang_self]⟩

end

/-! The deadlines of the leader's votes. -/

/-- A VOTE is missing at this leader's deadline. -/
def Late (s : State) (g : Nat) : Prop :=
  let x := gangOf s g
  isLeader s g = true ∧ x.vote.deadline = s.pod ∧ x.vote.received.length < x.memberCount

section
variable {s : State} {g : Nat}

theorem outVoteDeadline_aborts (hl : Late s g) (h : TakesOut (gangOf s g)) : exec (.outVoteDeadline g) s =
    .next (sendAbort s g false 7 0) :=
  if_pos ⟨hl.1, (takesOut_iff _).mpr h, hl.2⟩

theorem inVoteDeadline_aborts (hl : Late s g) (h : TakesIn (gangOf s g)) : exec (.inVoteDeadline g) s =
    .next (sendAbort s g true 7 0) :=
  if_pos ⟨hl.1, (takesIn_iff _).mpr h, hl.2⟩

theorem voteDeadlines_idle (h : ¬Late s g) : exec (.outVoteDeadline g) s = .next s ∧ exec (.inVoteDeadline g) s = .next s :=
  ⟨if_neg fun hx => h ⟨hx.1, hx.2.2⟩, if_neg fun hx => h ⟨hx.1, hx.2.2⟩⟩

end

/-! What a teardown leaves standing (R241, R268). -/

/-- The page is as before but for its log's head and losses and its pending message. -/
structure SamePage (x y : Partition) : Prop where
  same : y = { x with evHead := y.evHead, evLost := y.evLost, vecPending := y.vecPending }

theorem SamePage.refl (x : Partition) : SamePage x x := ⟨rfl⟩

theorem SamePage.trans {x y z : Partition} (h₁ : SamePage x y) (h₂ : SamePage y z) : SamePage x z := by
  refine ⟨h₂.same.trans ?_⟩
  rw [h₁.same]

/-- The step leaves the dead peers, the contexts, the slot matrix, an emergency, and what the pages hold. -/
structure Standing (s t : State) : Prop where
  dead : (fabOf t).dead = (fabOf s).dead
  ctxs : (authOf t).ctxs = (authOf s).ctxs
  cells : (authOf t).cells = (authOf s).cells
  newCells : (authOf t).newCells = (authOf s).newCells
  emergency : (houseOf t).emergency = (houseOf s).emergency
  pages : ∀ q, SamePage (partOf s q) (partOf t q)

theorem Standing.refl (s : State) : Standing s s := ⟨rfl, rfl, rfl, rfl, rfl, fun _ => .refl _⟩

theorem Standing.trans {s t u : State} (h₁ : Standing s t) (h₂ : Standing t u) : Standing s u :=
  ⟨h₂.dead.trans h₁.dead, h₂.ctxs.trans h₁.ctxs, h₂.cells.trans h₁.cells, h₂.newCells.trans h₁.newCells,
    h₂.emergency.trans h₁.emergency, fun q => (h₁.pages q).trans (h₂.pages q)⟩

theorem Standing.foldl {α : Type} {f : State → α → State} (h : ∀ s a, Standing s (f s a)) (as : List α) (s : State) :
    Standing s (as.foldl f s) := by
  induction as generalizing s with
  | nil => exact .refl s
  | cons a as ih => exact (h s a).trans (ih (f s a))

theorem standing_setPart (s : State) (p : Nat) {x : Partition} (h : SamePage (partOf s p) x) : Standing s (setPart s p x) := by
  refine ⟨rfl, rfl, rfl, rfl, rfl, fun q => ?_⟩
  rw [partOf_setPart]
  split
  next hq =>
    rw [hq]
    exact h
  · exact .refl _

theorem standing_post (s : State) (j : Job) : Standing s (post s j) := ⟨rfl, rfl, rfl, rfl, rfl, fun _ => .refl _⟩

theorem standing_putHost (s : State) (p a : Nat) (bs : List Byte) : Standing s (putHost s p a bs) :=
  ⟨rfl, rfl, rfl, rfl, rfl, fun _ => .refl _⟩

theorem standing_sendVector (s : State) (p : Nat) : Standing s (sendVector s p) := by
  unfold sendVector
  split
  · exact standing_setPart s p ⟨rfl⟩
  · exact ⟨rfl, rfl, rfl, rfl, rfl, fun _ => .refl _⟩

theorem standing_postRecord (s : State) (p : Nat) (r : EventRec) : Standing s (postRecord s p r) := by
  unfold postRecord
  dsimp only
  split
  · exact .refl s
  · split
    · exact standing_setPart s p ⟨rfl⟩
    · exact (standing_putHost ..).trans (.trans (t := modPart _ p _) (standing_setPart _ p ⟨rfl⟩) (standing_sendVector ..))

theorem standing_postPlatform (s : State) (ps : List Nat) (kind : Nat) (data : List Nat) (fault : List Byte) :
    Standing s (postPlatform s ps kind data fault) :=
  (standing_postRecord ..).trans (.foldl (fun u q => standing_postRecord u q _) _ _)

theorem standing_postEvent (s : State) (p : Nat) (cls : EventClass) (kind : Nat) (data : List Nat) (fault : List Byte) :
    Standing s (postEvent s p cls kind data fault) := by
  cases cls with
  | program =>
    dsimp only [postEvent]
    split
    · exact (standing_postRecord ..).trans (standing_postRecord ..)
    · exact standing_postRecord ..
  | control => exact standing_postRecord ..
  | resource => exact standing_postRecord ..
  | platform => exact standing_postPlatform ..

theorem standing_countLife (s : State) (set pos n : Nat) : Standing s (countLife s set pos n) :=
  ⟨rfl, rfl, rfl, rfl, rfl, fun _ => .refl _⟩

theorem standing_modCore (s : State) (k : Nat) (f : Core → Core) : Standing s (modCore s k f) := ⟨rfl, rfl, rfl, rfl, rfl, fun _ => .refl _⟩

theorem standing_setEnv (s : State) (e : Cluster) : Standing s (setEnv s e) := ⟨rfl, rfl, rfl, rfl, rfl, fun _ => .refl _⟩

theorem standing_images (s : State) (is : Table Core) : Standing s { s with hub := { s.hub with images := is } } := ⟨rfl, rfl, rfl, rfl, rfl, fun _ => .refl _⟩

theorem standing_setAuth {s : State} {a : Authority} (hx : a.ctxs = (authOf s).ctxs) (hc : a.cells = (authOf s).cells)
    (hn : a.newCells = (authOf s).newCells) (hp : a.parts = (authOf s).parts) : Standing s (setAuth s a) :=
  ⟨rfl, hx, hc, hn, rfl, fun q => by
    rw [show partOf (setAuth s a) q = partOf s q from congrArg (fun t => tget ({} : Partition) t q) hp]
    exact .refl _⟩

theorem standing_setHouse (s : State) {h : House} (he : h.emergency = (houseOf s).emergency) : Standing s (setHouse s h) :=
  ⟨rfl, rfl, rfl, rfl, he, fun _ => .refl _⟩

theorem standing_putDev (s : State) (a : Nat) (bs : List Byte) : Standing s (putDev s a bs) := ⟨rfl, rfl, rfl, rfl, rfl, fun _ => .refl _⟩

theorem standing_wakeLane (s : State) (n : Nat) : Standing s (wakeLane s n) := by
  unfold wakeLane
  split <;> exact ⟨rfl, rfl, rfl, rfl, rfl, fun _ => .refl _⟩

theorem standing_leekSend (s : State) (g dst : Nat) (i : Instr) : Standing s (leekSend s g dst i) := by
  unfold leekSend
  split
  · exact ⟨rfl, rfl, rfl, rfl, rfl, fun _ => .refl _⟩
  · unfold leekForward
    dsimp only
    split
    next n _ =>
      exact Standing.trans (t := setFab s { fabOf s with links := tmod {} (fabOf s).links n fun l =>
        { l with queue := l.queue ++ [⟨i, g, dst, s.pod⟩] } }) ⟨rfl, rfl, rfl, rfl, rfl, fun _ => .refl _⟩ (standing_wakeLane ..)
    · split <;> exact ⟨rfl, rfl, rfl, rfl, rfl, fun _ => .refl _⟩

theorem standing_leekMembers (s : State) (g : Nat) (i : Instr) : Standing s (leekMembers s g i) :=
  .foldl (fun u m => standing_leekSend u g m i) _ s

theorem standing_countEnded (s : State) (g : Nat) : Standing s (countEnded s g) := by
  refine .foldl (fun u (h : Hold) => ?_) _ s
  unfold countFrozen
  dsimp only
  split
  · exact .foldl (fun u h => standing_countLife u 4 _ _) _ _
  · exact .refl u

theorem standing_drainRecords (s : State) (k : Nat) : Standing s (drainRecords s k) :=
  (standing_modCore s k noRecords).trans
    (.foldl (fun u r => standing_postEvent u (gangPart s (coreOf s k).gang) .program evRecord (recordWords r) []) _ _)

theorem standing_retireUnit (s : State) (u : FaultUnit) : Standing s (retireUnit s u) := by
  unfold retireUnit
  refine Standing.trans ?_ ((standing_countLife _ 6 (unitPos u) 1).trans (standing_postPlatform ..))
  cases u <;> exact ⟨rfl, rfl, rfl, rfl, rfl, fun _ => .refl _⟩

theorem standing_setScrub (s : State) (d : Nat) (x : Scrub) : Standing s (setScrub s d x) := ⟨rfl, rfl, rfl, rfl, rfl, fun _ => .refl _⟩

theorem standing_scrubContext (s : State) (x : Nat) : Standing s (scrubContext s x) := by
  unfold scrubContext
  split
  · refine Standing.trans (t := setHouse (setAuth s _) _) ((standing_setAuth (by rfl) (by rfl) (by rfl) (by rfl)).trans (standing_setHouse _ (by rfl)))
      (.foldl (fun u d => ?_) _ _)
    dsimp only
    split
    · exact .refl u
    · split
      · exact (standing_setScrub u d _).trans (standing_post ..)
      · exact standing_setScrub u d _
  · exact .refl s

theorem standing_endRun (s : State) (g : Nat) : Standing s (endRun s g) := by
  have out : Standing s (discarded s g) := by
    unfold discarded
    have drained : Standing s ((gangCores s g).foldl drainRecords (countEnded s g)) :=
      (standing_countEnded s g).trans (.foldl standing_drainRecords _ _)
    generalize (gangCores s g).foldl drainRecords (countEnded s g) = a at drained ⊢
    refine drained.trans (Standing.trans (t := { a with agenda := a.agenda.filter fun j => !ofGang g j }) ⟨rfl, rfl, rfl, rfl, rfl, fun _ => .refl _⟩ ?_)
    exact .foldl (fun u _ => standing_post u _) _ _
  have scrubbed := standing_scrubContext (noIssue (discarded s g) (gangCores s g)) (gangOf s g).ctx
  have retired : Standing (scrubContext (noIssue (discarded s g) (gangCores s g)) (gangOf s g).ctx)
      (retireLasting (scrubContext (noIssue (discarded s g) (gangCores s g)) (gangOf s g).ctx) (gangOf s g).ctx (gangCores s g)) :=
    .foldl standing_retireUnit _ _
  have idle : Standing (discarded s g) (noIssue (discarded s g) (gangCores s g)) := ⟨rfl, rfl, rfl, rfl, rfl, fun _ => .refl _⟩
  have left := out.trans (idle.trans (scrubbed.trans retired))
  rw [endRun_eq, runOut]
  generalize retireLasting (scrubContext (noIssue (discarded s g) (gangCores s g)) (gangOf s g).ctx) (gangOf s g).ctx
    (gangCores s g) = u at left ⊢
  refine left.trans (Standing.trans (t := vacated u (gangOf s g) (gangCores s g)) ?_ ⟨rfl, rfl, rfl, rfl, rfl, fun _ => .refl _⟩)
  exact .trans (.foldl (fun v k => standing_modCore v k fun c => vacantCore c (gangOf s g).ctx) _ u)
    (.trans (.foldl (fun v k => standing_modCore v k (disowned (gangOf s g).ctx)) _ _)
      (.foldl (fun v k => standing_modCore v k noCommands) _ _))

theorem standing_putVia (s : State) (b : Table Word) (lin : Nat) (bs : List Byte) : Standing s (putVia s b lin bs) := by
  unfold putVia
  dsimp only
  split
  · exact standing_putDev ..
  · exact .refl s

theorem standing_putLin (s : State) (x lin : Nat) (bs : List Byte) : Standing s (putLin s x lin bs) := by
  unfold putLin
  split
  · exact standing_putDev ..
  · exact .refl s

theorem standing_writeFence (s : State) (g status : Nat) : Standing s (writeFence s g status) := by
  unfold writeFence fenceVia
  dsimp only
  split
  · exact standing_putVia ..
  · exact .refl s

theorem standing_setHalt (s : State) (g : Nat) : Standing s (setHalt s g) := by
  unfold setHalt
  split
  · exact .refl s
  · exact (standing_putLin ..).trans (standing_postEvent ..)

theorem standing_storeImage (s : State) (x k t : Nat) (c : Core) (post : Bool) : Standing s (storeImage s x k t c post) := by
  unfold storeImage
  split
  · exact standing_putDev ..
  · exact .refl s

theorem standing_postMortem (s : State) (g : Nat) : Standing s (postMortem s g) := by
  unfold postMortem
  dsimp only
  split
  · exact .foldl (fun u k => .trans (standing_storeImage u (gangOf s g).ctx k _ (coreOf u k) true) (standing_images ..)) _ s
  · exact .refl s

theorem standing_stopEpisode (s : State) (p : Nat) : Standing s (stopEpisode s p) := by
  unfold stopEpisode
  dsimp only
  generalize hartsOfPair s p = hs
  refine Standing.trans (.foldl (fun v h => ?_) hs s) ⟨rfl, rfl, rfl, rfl, rfl, fun _ => .refl _⟩
  exact .trans (t := setHart v h _) (standing_setEnv ..) (standing_setEnv ..)

theorem standing_putMb (s : State) (p off : Nat) (bs : List Byte) : Standing s (putMb s p off bs) := standing_setEnv ..

theorem standing_setTurn (s : State) (p : Nat) (b : Bool) : Standing s (setTurn s p b) := standing_setEnv ..

theorem standing_mbEnd (s : State) (p status cause : Nat) : Standing s (mbEnd s p status cause) :=
  .trans (t := copyStamps s p) ((standing_putMb ..).trans (standing_putMb ..)) <| (standing_putMb ..).trans <|
    (standing_putMb ..).trans <| (standing_putMb ..).trans <| (standing_setTurn ..).trans (standing_stopEpisode ..)

theorem standing_mbTeardown (s : State) (x : Nat) : Standing s (mbTeardown s x) := by
  refine .foldl (fun u q => .foldl (fun v i => ?_) _ u) _ s
  dsimp only
  refine Standing.trans ?_ ((standing_putMb ..).trans <| (standing_putMb ..).trans (standing_setTurn ..))
  split
  · exact .refl v
  · exact standing_mbEnd ..

theorem standing_abortVote (s : State) (g : Nat) : Standing s (abortVote s g) := by
  unfold abortVote
  dsimp only
  split
  · exact .refl s
  · split
    · exact standing_leekMembers ..
    · exact standing_leekSend ..

/-- A teardown ends the run after what leaves the dead peers. -/
theorem standing_teardown (s : State) (g : Nat) (cls : EventClass) : Standing s (teardown s g cls) := by
  unfold teardown
  dsimp only
  split
  · exact .refl s
  · generalize (if cls = EventClass.program then (gangOf s g).tears + 1 else (gangOf s g).tears) = n
    have halted : Standing s (if 3 ≤ n ∨ cls = .control then setHalt (writeFence s g 3) g else writeFence s g 3) := by
      refine (standing_writeFence s g 3).trans ?_
      split
      · exact standing_setHalt ..
      · exact .refl _
    generalize (if 3 ≤ n ∨ cls = .control then setHalt (writeFence s g 3) g else writeFence s g 3) = u at halted ⊢
    have ended : Standing s (endRun (abortVote (mbTeardown (postMortem u g) (gangOf s g).ctx) g) g) :=
      halted.trans <| (standing_postMortem ..).trans <| (standing_mbTeardown ..).trans <| (standing_abortVote ..).trans
        (standing_endRun ..)
    generalize endRun (abortVote (mbTeardown (postMortem u g) (gangOf s g).ctx) g) g = v at ended ⊢
    exact ended.trans ⟨rfl, rfl, rfl, rfl, rfl, fun _ => .refl _⟩

theorem standing_abortGang (s : State) (g : Nat) (cls : EventClass) : Standing s (abortGang s g cls) := by
  unfold abortGang
  split
  · exact (standing_leekMembers ..).trans (standing_teardown ..)
  · exact .refl s

/-! VOTE_DEADLINE (R258). -/

section
variable {s : State} {g : Nat}

theorem voteDeadline_idle (h : ¬((gangOf s g).vote.stage = .voted ∧ (gangOf s g).vote.deadline + (gangOf s g).h = s.pod)) :
    exec (.voteDeadline g) s = .next s := if_neg h

theorem voteDeadline_tears (h : (gangOf s g).vote.stage = .voted) (hp : (gangOf s g).vote.deadline + (gangOf s g).h = s.pod)
    (hrun : (gangOf s g).hasRun = true) : ∃ t, exec (.voteDeadline g) s = .next t ∧ Torn s t g ∧
      tget false (fabOf t).dead (leaderOf s g) = true := by
  obtain ⟨u, hu⟩ : ∃ u, u = postEvent (setDead s (leaderOf s g)) (gangOf s g).vdid .platform evDeadPeer
    [leaderOf (setDead s (leaderOf s g)) g, g] [] := ⟨_, rfl⟩
  have logged : Logged (setDead s (leaderOf s g)) u := by
    rw [hu]
    exact logged_postEvent ..
  have hx : exec (.voteDeadline g) s = .next (abortGang u g .platform) := by
    rw [hu]
    exact if_pos ⟨h, hp⟩
  obtain ⟨⟨hmode, hhas, htorn, hscratch⟩, -⟩ := abortGang_torn (s := u) (g := g) .platform
    (by rw [logged.gangOf]; exact hrun)
  refine ⟨_, hx, ⟨hmode, hhas, by rw [htorn, logged.pod]; rfl, ScratchSame.trans (.of_cores logged.cores) hscratch⟩, ?_⟩
  have hdead : (fabOf (abortGang u g .platform)).dead = tset false (fabOf s).dead (leaderOf s g) true :=
    (standing_abortGang u g .platform).dead.trans (congrArg Fabric.dead logged.fab)
  rw [hdead, tget_tset_self]

end

/-- Settles O47. -/
theorem votesDecided : Obligations.VotesDecided := by
  intro s
  refine ⟨fun v => ⟨vote_idle, fun hc hl => ?_, vote_decides, commit_idle, commit_swaps, commit_starts, abort_releases,
    abort_returns⟩, fun g => ⟨fun hl ht => ?_, fun hl ht => ?_, voteDeadlines_idle, voteDeadline_idle, voteDeadline_tears⟩⟩
  · rw [vote_counts hc]
    exact congrArg Host.Outcome.next (if_pos hl)
  · obtain ⟨beside, hjob⟩ := sendAbort_sends s g false 7 0
    exact ⟨_, outVoteDeadline_aborts hl ht, beside.cores, beside.gangs, hjob⟩
  · obtain ⟨beside, hjob⟩ := sendAbort_sends s g true 7 0
    exact ⟨_, inVoteDeadline_aborts hl ht, beside.cores, beside.gangs, hjob⟩

end Sys2Proof.Machine
end

section
/-! PROOF. Switching out: the cores are vacated, and their images kept (R258, R266). -/

namespace Sys2Proof.Machine

theorem exec_contextSave (g : Nat) (s : State) : exec (.contextSave g) s = execContextSave g s := rfl

/-- The step leaves cores, images and the pod clock. -/
structure ImagesSame (s t : State) : Prop where
  cores : t.cores = s.cores
  images : t.hub.images = s.hub.images
  pod : t.pod = s.pod

theorem ImagesSame.refl (s : State) : ImagesSame s s := ⟨rfl, rfl, rfl⟩

theorem ImagesSame.trans {s t u : State} (h₁ : ImagesSame s t) (h₂ : ImagesSame t u) : ImagesSame s u :=
  ⟨h₂.cores.trans h₁.cores, h₂.images.trans h₁.images, h₂.pod.trans h₁.pod⟩

theorem ImagesSame.foldl {α : Type} {f : State → α → State} (h : ∀ s a, ImagesSame s (f s a)) (as : List α) (s : State) :
    ImagesSame s (as.foldl f s) := by
  induction as generalizing s with
  | nil => exact .refl s
  | cons a as ih => exact (h s a).trans (ih (f s a))

theorem Logged.imagesSame {s t : State} (h : Logged s t) : ImagesSame s t := ⟨h.cores, by rw [h.hub], h.pod⟩

theorem imagesSame_retireUnit (s : State) (u : FaultUnit) : ImagesSame s (retireUnit s u) := by
  unfold retireUnit
  refine ImagesSame.trans ?_ ((logged_countLife _ 6 (unitPos u) 1).imagesSame.trans (logged_postPlatform ..).imagesSame)
  cases u <;> exact ⟨rfl, rfl, rfl⟩

theorem imagesSame_leaveGroups (s : State) (ks : List Nat) : ImagesSame s (leaveGroups s ks) :=
  .foldl (fun u _ => (logged_postPod u ..).imagesSame) _ s

/-! The cores' images. -/

/-- Core `k` is vacated, and its image kept for context `x`. -/
def savedCore (x : Nat) (s : State) (k : Nat) : State :=
  let c := coreOf s k
  let s := { s with hub := { s.hub with images := tins s.hub.images (x * 1024 + k) (imageOf c) } }
  setCore s k (vacantCore c 0)

/-- What saving the cores `ks` leaves: gangs, what the contexts hold, and the bytes. -/
structure Saves (s t : State) : Prop where
  gangs : t.gangs = s.gangs
  pod : t.pod = s.pod
  scratch : ScratchSame s t

theorem saves_savedCore (x : Nat) (s : State) (k : Nat) : Saves s (savedCore x s k) :=
  ⟨rfl, rfl, scratchSame_modCore s k (f := fun c => vacantCore c 0) fun _ => rfl⟩

theorem saves_foldl (x : Nat) (ks : List Nat) (s : State) : Saves s (ks.foldl (savedCore x) s) := by
  induction ks generalizing s with
  | nil => exact ⟨rfl, rfl, fun _ _ => rfl⟩
  | cons k ks ih =>
    have first := saves_savedCore x s k
    have rest := ih (savedCore x s k)
    exact ⟨rest.gangs.trans first.gangs, rest.pod.trans first.pod, first.scratch.trans rest.scratch⟩

theorem coreOf_savedCore (x : Nat) (s : State) (k j : Nat) :
    coreOf (savedCore x s k) j = if j = k then vacantCore (coreOf s j) 0 else coreOf s j :=
  coreOf_modCore s k j fun c => vacantCore c 0

theorem image_savedCore (x : Nat) (s : State) (k j : Nat) : tget {} (savedCore x s k).hub.images (x * 1024 + j) =
    if j = k then imageOf (coreOf s j) else tget {} s.hub.images (x * 1024 + j) := by
  by_cases hj : j = k
  · subst hj
    rw [if_pos rfl]
    exact tget_tins_self ..
  · rw [if_neg hj]
    exact tget_tins_ne _ _ _ (by omega)

theorem savedCores (x : Nat) (ks : List Nat) (s : State) (j : Nat) (hks : ks.Nodup) :
    (coreOf (ks.foldl (savedCore x) s) j = if j ∈ ks then vacantCore (coreOf s j) 0 else coreOf s j) ∧
      tget {} (ks.foldl (savedCore x) s).hub.images (x * 1024 + j) =
        if j ∈ ks then imageOf (coreOf s j) else tget {} s.hub.images (x * 1024 + j) := by
  induction ks generalizing s with
  | nil => exact ⟨rfl, rfl⟩
  | cons k ks ih =>
    obtain ⟨hk, hks⟩ := List.nodup_cons.mp hks
    obtain ⟨hcore, himage⟩ := ih (savedCore x s k) hks
    rw [List.foldl_cons, hcore, himage, coreOf_savedCore, image_savedCore]
    by_cases hj : j = k
    · subst hj
      simp [hk]
    · simp [hj]

/-- A change of cores that changes nothing the second time. -/
theorem coreOf_foldl_idempotent (f : Core → Core) (hf : ∀ c, f (f c) = f c) (ks : List Nat) (s : State) (j : Nat) :
    coreOf (ks.foldl (fun s k => modCore s k f) s) j = if j ∈ ks then f (coreOf s j) else coreOf s j := by
  induction ks generalizing s with
  | nil => rfl
  | cons k ks ih =>
    rw [List.foldl_cons, ih, coreOf_modCore]
    by_cases hj : j = k
    · simp [hj, hf]
    · simp [hj]

/-! CONTEXT_SAVE. -/

/-- The cores of the gang's groups that do not serve it. -/
def otherCores (s : State) (g : Nat) : List Nat := (groupCores s g).filter fun k => !(gangCores s g).contains k

theorem mem_otherCores (s : State) (g k : Nat) :
    k ∈ otherCores s g ↔ k ∈ setCores s (gangOf s g).coreset ∧ k ∉ gangCores s g := by
  simp only [otherCores, groupCores, List.mem_filter, List.mem_append, Bool.not_eq_true', List.contains_eq_mem, decide_eq_false_iff_not]
  tauto

/-- The cores are vacated, and the groups' commands forgotten. -/
def vacatedAll (s : State) (g : Nat) : State :=
  (otherCores s g).foldl (fun s k => modCore s k noCommands) ((gangCores s g).foldl (savedCore (gangOf s g).ctx) s)

/-- The switched-out gang. -/
def savedGang (rows : List (Nat × BitVec 4 × Nat × Nat)) (cmds : List (Nat × List DramCmd)) (x : Gang) : Gang :=
  { x with mode := .out, rows := rows, groupCmds := cmds, vote := { stage := .out, boundary := x.vote.boundary } }

/-- The images are to be written to their save areas at pod cycle `due`. -/
def writesImages (s : State) (due : Nat → Nat) (bytes : List (Nat × List Byte)) : State :=
  bytes.foldl (fun s b => post s ⟨.pod, due s.pod, phHub, none, .deed (.imageWrite b.1 b.2)⟩) s

theorem contextSave_eq {s : State} {g : Nat} (h : (gangOf s g).vote.stage = .swapping) (hp : (gangOf s g).vote.swap ≤ s.pod) :
    ∃ rows cmds bytes, exec (.contextSave g) s = .next (leaveGroups (retireLasting
      (barriersOut (setGang (writesImages (vacatedAll s g) (· + (gangOf s g).vote.need) bytes) g (savedGang rows cmds (gangOf s g))) g)
        (gangOf s g).ctx (gangCores s g)) (groupCores s g)) :=
  ⟨_, _, _, if_pos ⟨h, hp⟩⟩

theorem imagesSame_writesImages (s : State) (due : Nat → Nat) (bytes : List (Nat × List Byte)) :
    ImagesSame s (writesImages s due bytes) := .foldl (fun u _ => (logged_post u _).imagesSame) _ s

theorem gangs_leaveGroups (s : State) (ks : List Nat) : (leaveGroups s ks).gangs = s.gangs := (upkeep_leaveGroups s ks).gangs

/-- The gang with its barriers kept. -/
def keepsBarriers (bs : List (Nat × Barrier)) (x : Gang) : Gang := { x with barriers := bs }

theorem barriersOut_keeps (s : State) (g : Nat) : ImagesSame s (barriersOut s g) ∧
    ∃ bs, gangOf (barriersOut s g) g = keepsBarriers bs (gangOf s g) :=
  ⟨⟨rfl, rfl, rfl⟩, _, gangOf_modGang_self ..⟩

section
variable {s : State} {g : Nat}

theorem contextSave_idle (h : ¬((gangOf s g).vote.stage = .swapping ∧ (gangOf s g).vote.swap ≤ s.pod)) :
    exec (.contextSave g) s = .next s := if_neg h

theorem contextSave_saves (hc : canonical s) (hg : g ≠ noGang) (h : (gangOf s g).vote.stage = .swapping)
    (hp : (gangOf s g).vote.swap ≤ s.pod) :
    let x := gangOf s g
    ∃ t, exec (.contextSave g) s = .next t ∧ ScratchSame s t ∧
      (gangOf t g).mode = .out ∧ (gangOf t g).gcyc = x.gcyc ∧ (gangOf t g).hasRun = x.hasRun ∧
      ∀ k, if (coreOf s k).gang = g then
          coreOf t k = vacantCore (coreOf s k) 0 ∧ tget {} t.hub.images (x.ctx * 1024 + k) = imageOf (coreOf s k)
        else coreOf t k = if k ∈ setCores s x.coreset then { coreOf s k with dramCmds := [] } else coreOf s k := by
  intro x
  obtain ⟨rows, cmds, bytes, hx⟩ := contextSave_eq h hp
  have cleared := coresOnly_foldl_modCore noCommands (otherCores s g) ((gangCores s g).foldl (savedCore x.ctx) s)
  have saved := saves_foldl x.ctx (gangCores s g) s
  have hscratch : ScratchSame s (vacatedAll s g) :=
    saved.scratch.trans (ScratchSame.foldl (fun u k => scratchSame_modCore u k (f := noCommands) fun _ => rfl) _ _)
  have hcore (k : Nat) : coreOf (vacatedAll s g) k = if (coreOf s k).gang = g then vacantCore (coreOf s k) 0
      else if k ∈ setCores s x.coreset then noCommands (coreOf s k) else coreOf s k := by
    have hsaved : coreOf ((gangCores s g).foldl (savedCore (gangOf s g).ctx) s) k =
        if (coreOf s k).gang = g then vacantCore (coreOf s k) 0 else coreOf s k := by
      rw [(savedCores _ _ s k (nodup_gangCores g hc)).1]
      exact if_congr (mem_gangCores hc hg) rfl rfl
    rw [vacatedAll, coreOf_foldl_idempotent noCommands fun _ => rfl, hsaved]
    simp only [mem_otherCores, mem_gangCores hc hg]
    by_cases hk : (coreOf s k).gang = g
    · rw [if_neg fun h => h.2 hk, if_pos hk, if_pos hk]
    · rw [if_neg hk, if_neg hk]
      exact if_congr (and_iff_left hk) rfl rfl
  have himage (k : Nat) (hk : (coreOf s k).gang = g) : tget {} (vacatedAll s g).hub.images (x.ctx * 1024 + k) =
      imageOf (coreOf s k) := by
    rw [vacatedAll, cleared.hub, (savedCores x.ctx (gangCores s g) s k (nodup_gangCores g hc)).2,
      if_pos ((mem_gangCores hc hg).mpr hk)]
  generalize vacatedAll s g = u at hx hscratch hcore himage
  obtain ⟨v, hv⟩ : ∃ v, v = setGang (writesImages u (· + x.vote.need) bytes) g (savedGang rows cmds x) := ⟨_, rfl⟩
  obtain ⟨out, bs, hout⟩ := barriersOut_keeps v g
  have posted := imagesSame_writesImages u (· + x.vote.need) bytes
  have retired : ImagesSame (barriersOut v g) (retireLasting (barriersOut v g) x.ctx (gangCores s g)) :=
    .foldl imagesSame_retireUnit _ _
  have later : ImagesSame u (leaveGroups (retireLasting (barriersOut v g) x.ctx (gangCores s g)) (groupCores s g)) := by
    refine posted.trans (ImagesSame.trans (t := v) ?_ (out.trans (retired.trans (imagesSame_leaveGroups ..))))
    rw [hv]
    exact ⟨rfl, rfl, rfl⟩
  have hgang : gangOf (leaveGroups (retireLasting (barriersOut v g) x.ctx (gangCores s g)) (groupCores s g)) g =
      keepsBarriers bs (savedGang rows cmds x) := by
    rw [gangOf, gangs_leaveGroups, (upkeep_retireLasting ..).gangs, ← gangOf, hout, hv, gangOf_setGang_self]
  rw [← hv] at hx
  refine ⟨_, hx, hscratch.trans (.of_cores later.cores), by rw [hgang]; rfl, by rw [hgang]; rfl, by rw [hgang]; rfl, fun k => ?_⟩
  have hk : coreOf (leaveGroups (retireLasting (barriersOut v g) x.ctx (gangCores s g)) (groupCores s g)) k = coreOf u k := by
    rw [coreOf, later.cores, ← coreOf]
  rw [hk, later.images, hcore]
  by_cases hgk : (coreOf s k).gang = g
  · rw [if_pos hgk, if_pos hgk]
    exact ⟨rfl, himage k hgk⟩
  · rw [if_neg hgk, if_neg hgk]
    rfl

end

end Sys2Proof.Machine
end

section
/-! PROOF. What a switch window applies: slot maps, tables, windows, and the writes that waited (R205, R278, R312, R313). -/

namespace Sys2Proof.Machine

/-! Slot maps, composed tables and windows. -/

/-- A context but for its composed table and its mailbox groups. -/
def SameContext (c d : Ctx) : Prop := ∃ b m, d = { c with bind := b, mail := m }

theorem SameContext.refl (c : Ctx) : SameContext c c := ⟨c.bind, c.mail, rfl⟩

theorem SameContext.trans {c d e : Ctx} (h₁ : SameContext c d) (h₂ : SameContext d e) : SameContext c e := by
  obtain ⟨b, m, rfl⟩ := h₁
  obtain ⟨b', m', rfl⟩ := h₂
  exact ⟨b', m', rfl⟩

/-- The step applies what a switch window applies: cores, gangs, schedule, images and the slot matrix stay. -/
structure Windowed (s t : State) : Prop where
  cores : t.cores = s.cores
  gangs : t.gangs = s.gangs
  agenda : t.agenda = s.agenda
  pod : t.pod = s.pod
  images : t.hub.images = s.hub.images
  ctxs : ∀ y, SameContext (ctxOf s y) (ctxOf t y)
  cells : (authOf t).cells = (authOf s).cells
  newCells : (authOf t).newCells = (authOf s).newCells

theorem Windowed.refl (s : State) : Windowed s s := ⟨rfl, rfl, rfl, rfl, rfl, fun _ => .refl _, rfl, rfl⟩

theorem Windowed.trans {s t u : State} (h₁ : Windowed s t) (h₂ : Windowed t u) : Windowed s u :=
  ⟨h₂.cores.trans h₁.cores, h₂.gangs.trans h₁.gangs, h₂.agenda.trans h₁.agenda, h₂.pod.trans h₁.pod, h₂.images.trans h₁.images,
    fun y => (h₁.ctxs y).trans (h₂.ctxs y), h₂.cells.trans h₁.cells, h₂.newCells.trans h₁.newCells⟩

theorem Windowed.foldl {α : Type} {f : State → α → State} (h : ∀ s a, Windowed s (f s a)) (as : List α) (s : State) :
    Windowed s (as.foldl f s) := by
  induction as generalizing s with
  | nil => exact .refl s
  | cons a as ih => exact (h s a).trans (ih (f s a))

theorem Windowed.gangOf {s t : State} (h : Windowed s t) (g : Nat) : gangOf t g = gangOf s g := by
  rw [Machine.gangOf, Machine.gangOf, h.gangs]

theorem windowed_logged {s t : State} (h : Logged s t) (ha : t.agenda = s.agenda) : Windowed s t :=
  ⟨h.cores, h.gangs, ha, h.pod, h.imagesSame.images, fun y => by rw [ctxOf, ctxOf, h.ctxs]; exact .refl _, by rw [h.auth],
    by rw [h.auth]⟩

theorem windowed_setDram (s : State) (d : Dram) : Windowed s (setDram s d) := ⟨rfl, rfl, rfl, rfl, rfl, fun _ => .refl _, rfl, rfl⟩

theorem windowed_setPart (s : State) (p : Nat) (x : Partition) : Windowed s (setPart s p x) :=
  ⟨rfl, rfl, rfl, rfl, rfl, fun _ => .refl _, rfl, rfl⟩

theorem ctxOf_setCtx (s : State) (x y : Nat) (c : Ctx) : ctxOf (setCtx s x c) y = if y = x then c else ctxOf s y := by
  by_cases h : y = x
  · rw [h, if_pos rfl]
    exact tget_tset_self ..
  · rw [if_neg h]
    exact tget_tset_ne _ _ _ h

theorem ctxOf_modCtx (s : State) (x y : Nat) (f : Ctx → Ctx) : ctxOf (modCtx s x f) y = if y = x then f (ctxOf s y) else ctxOf s y := by
  rw [modCtx, ctxOf_setCtx]
  by_cases h : y = x
  · rw [if_pos h, if_pos h, h]
  · rw [if_neg h, if_neg h]

theorem windowed_modCtx (s : State) (x : Nat) {f : Ctx → Ctx} (h : ∀ c, SameContext c (f c)) : Windowed s (modCtx s x f) := by
  refine ⟨rfl, rfl, rfl, rfl, rfl, fun y => ?_, rfl, rfl⟩
  rw [ctxOf_modCtx]
  split
  · exact h _
  · exact .refl _

theorem windowed_composeCtx (s : State) (x : Nat) : Windowed s (composeCtx s x) := by
  unfold composeCtx
  dsimp only
  generalize composeBind s x = r
  refine Windowed.trans (windowed_modCtx s x fun c => ⟨_, _, rfl⟩) (.foldl (fun u e => ?_) _ _)
  exact windowed_logged (logged_postEvent ..) (logsOnly_program ..).agenda

theorem windowed_reserveSlots (s : State) (ks : List Nat) : Windowed s (reserveSlots s ks) :=
  .foldl (fun u _ => windowed_setDram u _) ks s

theorem windowed_applyWindows (s : State) (p : Nat) : Windowed s (applyWindows s p) := windowed_setPart ..

/-! The writes that waited (R278). -/

/-- A gang but for its holds and its resume. -/
def SameButHolds (x y : Gang) : Prop := ∃ hs r, y = { x with holds := hs, resume := r }

theorem SameButHolds.refl (x : Gang) : SameButHolds x x := ⟨x.holds, x.resume, rfl⟩

theorem SameButHolds.trans {x y z : Gang} (h₁ : SameButHolds x y) (h₂ : SameButHolds y z) : SameButHolds x z := by
  obtain ⟨hs, r, rfl⟩ := h₁
  obtain ⟨hs', r', rfl⟩ := h₂
  exact ⟨hs', r', rfl⟩

/-- The step makes writes that waited: cores, images, and what the contexts hold stay. -/
structure WaitsOver (s t : State) : Prop where
  cores : t.cores = s.cores
  images : t.hub.images = s.hub.images
  pod : t.pod = s.pod
  ctxs : (authOf t).ctxs = (authOf s).ctxs
  gangs : ∀ n, SameButHolds (gangOf s n) (gangOf t n)

theorem WaitsOver.refl (s : State) : WaitsOver s s := ⟨rfl, rfl, rfl, rfl, fun _ => .refl _⟩

theorem WaitsOver.trans {s t u : State} (h₁ : WaitsOver s t) (h₂ : WaitsOver t u) : WaitsOver s u :=
  ⟨h₂.cores.trans h₁.cores, h₂.images.trans h₁.images, h₂.pod.trans h₁.pod, h₂.ctxs.trans h₁.ctxs,
    fun n => (h₁.gangs n).trans (h₂.gangs n)⟩

theorem WaitsOver.foldl {α : Type} {f : State → α → State} (h : ∀ s a, WaitsOver s (f s a)) (as : List α) (s : State) :
    WaitsOver s (as.foldl f s) := by
  induction as generalizing s with
  | nil => exact .refl s
  | cons a as ih => exact (h s a).trans (ih (f s a))

theorem Logged.waitsOver {s t : State} (h : Logged s t) : WaitsOver s t :=
  ⟨h.cores, h.imagesSame.images, h.pod, h.ctxs, fun n => by rw [h.gangOf]; exact .refl _⟩

theorem waitsOver_off {s t : State} (h : OffCore s t) (hg : ∀ n, SameButHolds (gangOf s n) (gangOf t n)) : WaitsOver s t :=
  ⟨h.cores, by rw [h.hub], h.pod, by rw [h.auth], hg⟩

theorem waitsOver_setEnv (s : State) (e : Cluster) : WaitsOver s (setEnv s e) := ⟨rfl, rfl, rfl, rfl, fun _ => .refl _⟩

theorem waitsOver_markReleased (s : State) (g n t : Nat) : WaitsOver s (markReleased s g n t) := by
  refine waitsOver_off (offCore_markReleased ..) fun m => ?_
  by_cases hm : m = g
  · rw [hm]
    obtain ⟨r, hr⟩ := markReleased_resumes s g n t
    exact ⟨_, r, hr⟩
  · rw [gangOf_markReleased_ne _ _ _ hm]
    exact .refl _

theorem waitsOver_leekMembers (s : State) (g : Nat) (i : Instr) : WaitsOver s (leekMembers s g i) :=
  waitsOver_off (offCore_leekMembers ..) fun n => by rw [(beside_leekMembers ..).gangOf]; exact .refl _

theorem waitsOver_wakeSnaps (s : State) : WaitsOver s (wakeSnaps s) :=
  .foldl (fun _ _ => .foldl (fun v (_ : Hold) => .foldl (fun _ _ => (waitsOver_markReleased ..).trans (waitsOver_leekMembers ..)) _ v) _ _)
    _ s

/-- HARTCFG changes its hart, and a checker starts. -/
theorem configureHart_eq (s : State) (h : Nat) (ws : List Word) : ∃ x role, configureHart s h ws =
    if role = HartRole.checker then postPod (setHart s h x) (s.pod + 1) phHub (.hartStart h) else setHart s h x := ⟨_, _, rfl⟩

theorem waitsOver_configureHart (s : State) (h : Nat) (ws : List Word) : WaitsOver s (configureHart s h ws) := by
  obtain ⟨x, role, heq⟩ := configureHart_eq s h ws
  rw [heq]
  split
  · exact (waitsOver_setEnv s { envOf s with harts := tset {} (envOf s).harts h x }).trans (logged_postPod ..).waitsOver
  · exact waitsOver_setEnv ..

theorem waitsOver_applyWaiting (s : State) (e : Nat × Nat × List Word) : WaitsOver s (applyWaiting s e) := by
  unfold applyWaiting
  split
  · exact (waitsOver_setEnv ..).trans (waitsOver_wakeSnaps _)
  · exact waitsOver_configureHart ..

theorem waitsOver_releaseWaiting (s : State) (x : Nat) : WaitsOver s (releaseWaiting s x) :=
  (waitsOver_setEnv ..).trans (.foldl waitsOver_applyWaiting _ _)

/-! The window of a start. -/

/-- The window changes no core, image or run, and leaves its context's bad image as it is known. -/
theorem openWindow_opens (s : State) (g : Nat) :
    (openWindow s g).cores = s.cores ∧ (openWindow s g).hub.images = s.hub.images ∧ (openWindow s g).pod = s.pod ∧
      SameButHolds (gangOf s g) (gangOf (openWindow s g) g) ∧ ∀ y, SameContext (ctxOf s y) (ctxOf (openWindow s g) y) := by
  unfold openWindow
  dsimp only
  have composed : Windowed s (if (gangOf s g).hasRun = true then
      composeCtx (reserveSlots s (setCores s (gangOf s g).coreset)) (gangOf s g).ctx else s) := by
    split
    · exact (windowed_reserveSlots ..).trans (windowed_composeCtx ..)
    · exact .refl s
  generalize (if (gangOf s g).hasRun = true then
      composeCtx (reserveSlots s (setCores s (gangOf s g).coreset)) (gangOf s g).ctx else s) = u at composed ⊢
  have applied := composed.trans (windowed_applyWindows u (gangOf s g).vdid)
  have waited := waitsOver_releaseWaiting (applyWindows u (gangOf s g).vdid) (gangOf s g).ctx
  refine ⟨waited.cores.trans applied.cores, waited.images.trans applied.images, waited.pod.trans applied.pod, ?_, fun y => ?_⟩
  · have := waited.gangs g
    rw [applied.gangOf] at this
    exact this
  · refine (applied.ctxs y).trans ?_
    rw [ctxOf, ctxOf, waited.ctxs]
    exact .refl _

end Sys2Proof.Machine
end

section
/-! PROOF. Switching in: a gang returns with its images, or its new run begins (R254, R259, R263, R266). -/

namespace Sys2Proof.Machine

theorem exec_switchIn (g : Nat) (s : State) : exec (.switchIn g) s = execSwitchIn g s := rfl

/-- The gang's start is due. -/
def Starting (s : State) (g : Nat) : Prop := (gangOf s g).vote.stage = .starting ∧ (gangOf s g).vote.swap ≤ s.pod

section
variable {s : State} {g : Nat}

theorem switchIn_idle (h : ¬Starting s g) : exec (.switchIn g) s = .next s := if_neg h

theorem switchIn_emergency (h : Starting s g) (he : (houseOf s).emergency = true) (hrun : (gangOf s g).hasRun = true) :
    ∃ t, exec (.switchIn g) s = .next t ∧ Torn s t g := by
  refine ⟨abortGang s g .platform, ?_, (abortGang_torn .platform hrun).1⟩
  rw [exec_switchIn, execSwitchIn]
  dsimp only
  rw [if_pos ⟨h.1, h.2⟩, if_pos he, turnAway]
  exact congrArg Host.Outcome.next (if_pos hrun)

theorem switchIn_opens (h : Starting s g) (he : (houseOf s).emergency = false) : exec (.switchIn g) s =
    .next (if (gangOf s g).hasRun = true then restoreRun (openWindow s g) g else startRun (openWindow s g) g) := by
  rw [exec_switchIn, execSwitchIn]
  dsimp only
  rw [if_pos ⟨h.1, h.2⟩, he, if_neg Bool.false_ne_true]

end

/-! A core takes up its image (R266, R296). -/

/-- The registers, ports, streams and matrix unit of a core, where it stands, and its gang are another's. -/
structure SameRegs (c d : Core) : Prop where
  s : d.s = c.s
  v : d.v = c.v
  k : d.k = c.k
  p : d.p = c.p
  ports : d.ports = c.ports
  pc : d.pc = c.pc
  streams : d.streams = c.streams
  mx : d.mx = c.mx
  gang : d.gang = c.gang

theorem SameRegs.refl (c : Core) : SameRegs c c := ⟨rfl, rfl, rfl, rfl, rfl, rfl, rfl, rfl, rfl⟩

theorem SameRegs.trans {c d e : Core} (h₁ : SameRegs c d) (h₂ : SameRegs d e) : SameRegs c e :=
  ⟨h₂.s.trans h₁.s, h₂.v.trans h₁.v, h₂.k.trans h₁.k, h₂.p.trans h₁.p, h₂.ports.trans h₁.ports, h₂.pc.trans h₁.pc,
    h₂.streams.trans h₁.streams, h₂.mx.trans h₁.mx, h₂.gang.trans h₁.gang⟩

theorem SameRegs.foldl {α : Type} {f : Core → α → Core} (h : ∀ c a, SameRegs c (f c a)) (as : List α) (c : Core) :
    SameRegs c (as.foldl f c) := by
  induction as generalizing c with
  | nil => exact .refl c
  | cons a as ih => exact (h c a).trans (ih (f c a))

theorem sameRegs_putBundles (c : Core) (n : Nat) (bs : List Byte) (m : Nat) : SameRegs c (putBundles c n bs m) := by
  induction m with
  | zero => exact .refl c
  | succ m ih => exact ih.trans ⟨rfl, rfl, rfl, rfl, rfl, rfl, rfl, rfl, rfl⟩

theorem foldl_loadCode (xs : List Section) (h : ∀ x ∈ xs, x.typ = 1) (c : Core) : SameRegs c (xs.foldl loadSection c) := by
  induction xs generalizing c with
  | nil => exact .refl c
  | cons x xs ih =>
    refine SameRegs.trans ?_ (ih (fun y hy => h y (List.mem_cons_of_mem _ hy)) (loadSection c x))
    rw [loadSection, h x List.mem_cons_self]
    exact sameRegs_putBundles ..

theorem sameRegs_reloadStore (s : State) (g : Nat) (c : Core) : SameRegs c (reloadStore s g c) := by
  unfold reloadStore
  dsimp only
  split
  · exact .refl c
  · split
    · refine SameRegs.trans (d := { c with istore := [], badBundles := [] }) ⟨rfl, rfl, rfl, rfl, rfl, rfl, rfl, rfl, rfl⟩
        (foldl_loadCode _ (fun x hx => ?_) _)
      exact of_decide_eq_true (List.mem_filter.mp hx).2
    · exact .refl c

theorem sameRegs_leavePark (c : Core) : SameRegs c (leavePark c) := by
  unfold leavePark
  split
  · exact ⟨rfl, rfl, rfl, rfl, rfl, rfl, rfl, rfl, rfl⟩
  · exact .refl c

/-- The step leaves gangs and contexts, and what core `k` computes on. -/
structure Refills (s t : State) (k : Nat) : Prop where
  gangs : t.gangs = s.gangs
  ctxs : (authOf t).ctxs = (authOf s).ctxs
  core : SameRegs (coreOf s k) (coreOf t k)

theorem Refills.refl (s : State) (k : Nat) : Refills s s k := ⟨rfl, rfl, .refl _⟩

theorem Refills.trans {s t u : State} {k : Nat} (h₁ : Refills s t k) (h₂ : Refills t u k) : Refills s u k :=
  ⟨h₂.gangs.trans h₁.gangs, h₂.ctxs.trans h₁.ctxs, h₁.core.trans h₂.core⟩

theorem Refills.foldl {α : Type} {f : State → α → State} {k : Nat} (h : ∀ s a, Refills s (f s a) k) (as : List α) (s : State) :
    Refills s (as.foldl f s) k := by
  induction as generalizing s with
  | nil => exact .refl s k
  | cons a as ih => exact (h s a).trans (ih (f s a))

theorem refills_modCore (s : State) (j k : Nat) {f : Core → Core} (h : ∀ c, SameRegs c (f c)) : Refills s (modCore s j f) k := by
  refine ⟨rfl, rfl, ?_⟩
  rw [coreOf_modCore]
  split
  · exact h _
  · exact .refl _

theorem refills_putDev (s : State) (a : Nat) (bs : List Byte) (k : Nat) : Refills s (putDev s a bs) k := ⟨rfl, rfl, .refl _⟩

theorem refills_storeRegion (s : State) (x j n k : Nat) : Refills s (storeRegion s x j n) k := by
  unfold storeRegion
  split
  · exact refills_putDev ..
  · exact .refl s k

/-- Core `k` with region `n` filled for context `x`. -/
def filledCore (n x : Nat) (r : SavedRegion) (c : Core) : Core := { fillRegion c n r with owners := tset 0 c.owners n x }

theorem refills_takeRegion (s : State) (j n x k : Nat) : Refills s (takeRegion s j n x) k := by
  unfold takeRegion
  dsimp only
  split
  · exact .refl s k
  · generalize (if tget 0 (coreOf s j).owners n = 0 then s.hub.regions else
      tins s.hub.regions (regionKey (tget 0 (coreOf s j).owners n) j n) (saveRegion (coreOf s j) n)) = rs
    have stored : Refills s (if tget 0 (coreOf s j).owners n = 0 then s else storeRegion s (tget 0 (coreOf s j).owners n) j n) k := by
      split
      · exact .refl s k
      · exact refills_storeRegion ..
    generalize (if tget 0 (coreOf s j).owners n = 0 then s else storeRegion s (tget 0 (coreOf s j).owners n) j n) = u at stored ⊢
    refine ⟨stored.gangs, stored.ctxs, ?_⟩
    by_cases hk : k = j
    · subst hk
      rw [coreOf_setCore_self]
      exact ⟨rfl, rfl, rfl, rfl, rfl, rfl, rfl, rfl, rfl⟩
    · rw [coreOf_setCore_ne _ _ hk]
      exact stored.core

theorem restoreCore_restores (s : State) (x k : Nat) (img : Core) : (restoreCore s x k img).gangs = s.gangs ∧
    (authOf (restoreCore s x k img)).ctxs = (authOf s).ctxs ∧ SameRegs img (coreOf (restoreCore s x k img) k) := by
  unfold restoreCore
  dsimp only
  obtain ⟨c, hc⟩ : ∃ c, c = { img with
      scratch := (coreOf s k).scratch, tags := (coreOf s k).tags, shadow := (coreOf s k).shadow
      badTiles := (coreOf s k).badTiles, owners := (coreOf s k).owners, cmdSeq := max (coreOf s k).cmdSeq img.cmdSeq } := ⟨_, rfl⟩
  rw [← hc]
  have filled : Refills (setCore s k c) (img.claims.foldl (fun s n => takeRegion s k n.1 x) (setCore s k c)) k :=
    .foldl (fun u (n : Nat × Nat) => refills_takeRegion u k n.1 x k) _ _
  refine ⟨filled.gangs, filled.ctxs, SameRegs.trans ?_ filled.core⟩
  rw [coreOf_setCore_self, hc]
  exact ⟨rfl, rfl, rfl, rfl, rfl, rfl, rfl, rfl, rfl⟩

/-! The gang's return. -/

/-- The gang returns once more. -/
def returnsAgain (x : Gang) : Gang := { x with swIn := x.swIn + 1, pkgIv := x.pkgIv + 1, groupCmds := [] }

/-- The gang waits for its holds, the switch's own released at pod cycle `p`. -/
def heldAgain (p : Nat) (x : Gang) : Gang :=
  { x with
    mode := .held, swapIn := some p
    holds := x.holds.map fun h => if h.cause = .switch ∧ h.released = none then { h with released := some p } else h
    row := x.vote.row, byBackfill := x.vote.backfill
    goesOn := (x.vote.boundary, x.vote.row, x.vote.backfill)
    vote := { boundary := x.vote.boundary, row := x.vote.row } }

theorem settleHolds_resumes (s : State) (g : Nat) : ∃ r, gangOf (settleHolds s g) g = { gangOf s g with resume := r } := by
  rw [settleHolds]
  dsimp only
  split
  · split
    · exact ⟨_, by rw [gangOf_postPod, gangOf_setGang_self]⟩
    · exact ⟨_, by rw [gangOf_setGang_self]⟩
  · exact ⟨(gangOf s g).resume, rfl⟩

theorem resumeGang_resumes (s : State) (g : Nat) : (resumeGang s g).cores = s.cores ∧ authOf (resumeGang s g) = authOf s ∧
    ∃ r, gangOf (resumeGang s g) g = { heldAgain s.pod (gangOf s g) with resume := r } := by
  have off := offCore_settleHolds (setGang s g (heldAgain s.pod (gangOf s g))) g
  obtain ⟨r, hr⟩ := settleHolds_resumes (setGang s g (heldAgain s.pod (gangOf s g))) g
  rw [gangOf_setGang_self] at hr
  exact ⟨off.cores, off.auth, r, hr⟩

/-- The gang with its barriers back in their set. -/
def noBarriers (x : Gang) : Gang := { x with barriers := [] }

theorem barriersIn_returns (s : State) (g : Nat) : (barriersIn s g).cores = s.cores ∧ authOf (barriersIn s g) = authOf s ∧
    gangOf (barriersIn s g) g = noBarriers (gangOf s g) := by
  unfold barriersIn
  dsimp only
  have placed (bs : List (Nat × Barrier)) (lo : Nat) (u : State) :
      (bs.foldl (fun s b => setBarrier s (lo + b.1) b.2) u).cores = u.cores ∧
        (bs.foldl (fun s b => setBarrier s (lo + b.1) b.2) u).gangs = u.gangs ∧
        authOf (bs.foldl (fun s b => setBarrier s (lo + b.1) b.2) u) = authOf u := by
    induction bs generalizing u with
    | nil => exact ⟨rfl, rfl, rfl⟩
    | cons b bs ih => exact ih (setBarrier u (lo + b.1) b.2)
  obtain ⟨hcores, hgangs, hauth⟩ := placed (gangOf s g).barriers (64 * (gangOf s g).coreset) s
  refine ⟨hcores, hauth, ?_⟩
  rw [gangOf_modGang_self, gangOf, hgangs]
  rfl

/-- The commands that a core's channel group still weighs. -/
def weighs (cs : List DramCmd) (c : Core) : Core := { c with dramCmds := cs }

/-- The images of context `x` are taken. -/
def imagesTaken (s : State) (x : Nat) : State :=
  { s with hub := { s.hub with images := s.hub.images.filter fun e => decide (e.1 / 1024 ≠ x) } }

/-- The gang's barriers are back, with what its groups still weigh. -/
def groupsBack (s : State) (g : Nat) : State := (gangOf s g).groupCmds.foldl (fun s e => modCore s e.1 (weighs e.2)) (barriersIn s g)

/-- The cores of `imgs` are restored, with the barriers and what the groups still weigh. -/
def coresBack (s : State) (g : Nat) (imgs : List (Nat × Core)) : State :=
  groupsBack (imgs.foldl (fun u e => restoreCore u (gangOf s g).ctx (e.1 % 1024) (reloadStore u g e.2))
    (imagesTaken s (gangOf s g).ctx)) g

/-- The gang goes on with its cores back, and levels that parked go on. -/
def goesBack (s : State) (g : Nat) (imgs : List (Nat × Core)) : State :=
  imgs.foldl (fun s e => modCore s (e.1 % 1024) leavePark) (resumeGang (modGang (coresBack s g imgs) g returnsAgain) g)

theorem restoreRun_eq (s : State) (g : Nat) : restoreRun s g =
    let imgs := s.hub.images.filter fun e => decide (e.1 / 1024 = (gangOf s g).ctx)
    checkDigest (goesBack s g imgs) g (imgs.map fun e => e.1 % 1024) := rfl

theorem coresBack_restores (s : State) (g k : Nat) (img : Core) (x : Nat) (hk : k < 1024) :
    (authOf (coresBack s g [(x * 1024 + k, img)])).ctxs = (authOf s).ctxs ∧
      gangOf (coresBack s g [(x * 1024 + k, img)]) g = noBarriers (gangOf s g) ∧
      SameRegs img (coreOf (coresBack s g [(x * 1024 + k, img)]) k) := by
  have hmod : (x * 1024 + k) % 1024 = k := by omega
  have heq : coresBack s g [(x * 1024 + k, img)] = groupsBack (restoreCore (imagesTaken s (gangOf s g).ctx) (gangOf s g).ctx k
      (reloadStore (imagesTaken s (gangOf s g).ctx) g img)) g := by
    rw [coresBack, List.foldl_cons, List.foldl_nil, hmod]
  have hgang : gangOf (imagesTaken s (gangOf s g).ctx) g = gangOf s g := rfl
  have hctxs : (authOf (imagesTaken s (gangOf s g).ctx)).ctxs = (authOf s).ctxs := rfl
  rw [heq]
  generalize imagesTaken s (gangOf s g).ctx = v at hgang hctxs ⊢
  obtain ⟨hgs, hcs, regs⟩ := restoreCore_restores v (gangOf s g).ctx k (reloadStore v g img)
  generalize restoreCore v (gangOf s g).ctx k (reloadStore v g img) = u at hgs hcs regs ⊢
  obtain ⟨hcores, hauth, hback⟩ := barriersIn_returns u g
  have weighed : Refills (barriersIn u g) (groupsBack u g) k :=
    .foldl (fun w (e : Nat × List DramCmd) => refills_modCore w e.1 k (f := weighs e.2) fun _ => ⟨rfl, rfl, rfl, rfl, rfl, rfl, rfl, rfl, rfl⟩) _ _
  refine ⟨weighed.ctxs.trans ((congrArg Authority.ctxs hauth).trans (hcs.trans hctxs)), ?_, ?_⟩
  · rw [gangOf, weighed.gangs, ← gangOf, hback, gangOf, hgs, ← gangOf, hgang]
  · refine (sameRegs_reloadStore v g img).trans (regs.trans ?_)
    rw [coreOf, ← hcores, ← coreOf]
    exact weighed.core

/-- The gang comes back with the one core of its image. -/
theorem restoreRun_restores {s : State} {g k : Nat} {img : Core} (hbad : (ctxOf s (gangOf s g).ctx).badImage = false) (hk : k < 1024)
    (himgs : s.hub.images.filter (fun e => decide (e.1 / 1024 = (gangOf s g).ctx)) = [((gangOf s g).ctx * 1024 + k, img)]) :
    SameRegs img (coreOf (restoreRun s g) k) ∧ ∃ r p, gangOf (restoreRun s g) g =
      { heldAgain p (returnsAgain (noBarriers (gangOf s g))) with resume := r } := by
  have hmod : ((gangOf s g).ctx * 1024 + k) % 1024 = k := by omega
  obtain ⟨hctxs, hgang, regs⟩ := coresBack_restores s g k img (gangOf s g).ctx hk
  rw [restoreRun_eq]
  dsimp only
  rw [himgs, goesBack, List.foldl_cons, List.foldl_nil, hmod]
  generalize coresBack s g [((gangOf s g).ctx * 1024 + k, img)] = u at hctxs hgang regs ⊢
  obtain ⟨hcores, hauth, r, hr⟩ := resumeGang_resumes (modGang u g returnsAgain) g
  rw [gangOf_modGang_self, hgang] at hr
  generalize resumeGang (modGang u g returnsAgain) g = v at hcores hauth hr ⊢
  have hgv : gangOf (modCore v k leavePark) g = { heldAgain (modGang u g returnsAgain).pod
      (returnsAgain (noBarriers (gangOf s g))) with resume := r } := hr
  have hclean : (ctxOf (modCore v k leavePark) (gangOf (modCore v k leavePark) g).ctx).badImage = false := by
    rw [hgv]
    show (tget {} (authOf v).ctxs (gangOf s g).ctx).badImage = false
    rw [hauth]
    show (tget {} (authOf u).ctxs (gangOf s g).ctx).badImage = false
    rw [hctxs]
    exact hbad
  rw [checkDigest, hclean, if_neg fun h => Bool.false_ne_true h.1]
  refine ⟨?_, r, _, hgv⟩
  refine regs.trans ?_
  show SameRegs (coreOf u k) (coreOf (modCore v k leavePark) k)
  rw [coreOf_modCore_self, coreOf, coreOf, hcores]
  exact sameRegs_leavePark _

/-- SWITCH_IN of a gang with a run. -/
theorem switchIn_returns {s : State} {g k : Nat} {img : Core} (h : Starting s g) (he : (houseOf s).emergency = false)
    (hrun : (gangOf s g).hasRun = true) (hbad : (ctxOf s (gangOf s g).ctx).badImage = false) (hk : k < 1024)
    (himgs : s.hub.images.filter (fun e => decide (e.1 / 1024 = (gangOf s g).ctx)) = [((gangOf s g).ctx * 1024 + k, img)]) :
    let x := gangOf s g
    ∃ t, exec (.switchIn g) s = .next t ∧ (gangOf t g).mode = .held ∧ (gangOf t g).gcyc = x.gcyc ∧
      (gangOf t g).swIn = x.swIn + 1 ∧ (gangOf t g).fsa = x.fsa ∧ (gangOf t g).vote.stage = .run ∧
      (∀ h ∈ (gangOf t g).holds, h.cause = .switch → h.released ≠ none) ∧ SameRegs img (coreOf t k) := by
  intro x
  obtain ⟨-, himages, -, ⟨hs, r, hgang⟩, hctx⟩ := openWindow_opens s g
  have hx : (gangOf (openWindow s g) g).ctx = x.ctx := by rw [hgang]
  obtain ⟨b, m, hctx⟩ := hctx x.ctx
  obtain ⟨regs, r', p, hback⟩ := restoreRun_restores (s := openWindow s g) (g := g) (k := k) (img := img)
    (by rw [hx, hctx]; exact hbad) hk (by rw [himages, hx]; exact himgs)
  refine ⟨restoreRun (openWindow s g) g, by rw [switchIn_opens h he, if_pos hrun], ?_⟩
  rw [hgang] at hback
  rw [hback]
  refine ⟨rfl, rfl, rfl, rfl, rfl, fun i hi hsw hno => ?_, regs⟩
  obtain ⟨j, -, rfl⟩ := List.mem_map.mp hi
  split at hno
  · cases hno
  next hj =>
    rw [if_neg hj] at hsw
    exact hj ⟨hsw, hno⟩

end Sys2Proof.Machine
end

section
/-! PROOF. A new run begins at gang cycle 0 (R254, R259). -/

namespace Sys2Proof.Machine

/-! What admission does to cores leaves the gangs. -/

theorem gangs_foldl {α : Type} {f : State → α → State} (h : ∀ s a, (f s a).gangs = s.gangs) (as : List α) (s : State) :
    (as.foldl f s).gangs = s.gangs := by
  induction as generalizing s with
  | nil => rfl
  | cons a as ih => rw [List.foldl_cons, ih, h]

theorem gangs_takeRegion (s : State) (k n x : Nat) : (takeRegion s k n x).gangs = s.gangs := (refills_takeRegion s k n x k).gangs

theorem gangs_loadCore (s : State) (g : Nat) (img : GangImage) (r : Request) (ks : List Nat) (k i : Nat) :
    (loadCore s g img r ks k i).gangs = s.gangs :=
  gangs_foldl (fun u n => gangs_takeRegion u k n _) _ s

theorem gangs_popRead (s : State) (k q x i bundle : Nat) (moves : List (Nat × Bool × Bool)) :
    (popRead s k q x i bundle moves).gangs = s.gangs := by
  unfold popRead
  dsimp only
  generalize popConvert (streamOf (coreOf s k) q) _ _ _ = r
  split
  · rfl
  · split
    · rfl
    · split
      · rfl
      · split
        · exact (raced_raceScratch ..).gangs
        · exact (raced_raceScratch ..).gangs.trans (raced_raceScratch ..).gangs

theorem gangs_readEarly (s : State) (k : Nat) : (readEarly s k).gangs = s.gangs := by
  unfold readEarly
  dsimp only
  refine (gangs_foldl (fun u i => ?_) _ _).trans rfl
  split
  · rfl
  next b ps _ => exact (gangs_foldl (fun v (p : Nat × List (Nat × Bool × Bool)) => gangs_popRead v k p.1 i i b p.2) ps _).trans rfl

theorem gangs_putFsa (s : State) (g off : Nat) (bs : List Byte) : (putFsa s g off bs).gangs = s.gangs := by
  obtain ⟨d, hd⟩ := putFsa_dram s g off bs
  rw [hd]
  rfl

/-- The gang whose new run is admitted. -/
structure AdmittedRun (img : GangImage) (y : Gang) : Prop where
  gcyc : y.gcyc = 0
  hasRun : y.hasRun = true
  cores : y.cores = img.cores

/-- Admission sets the gang, after what its window applies, and loads its cores. -/
theorem admitRun_gang (s : State) (g : Nat) (r : Request) (n : Nat) (img : GangImage) :
    AdmittedRun img (gangOf (admitRun s g r n img) g) := by
  unfold admitRun
  dsimp only
  rw [gangOf, clearFsaHeader, gangs_putFsa, gangs_foldl gangs_readEarly,
    gangs_foldl fun u (ik : Nat × Nat) => gangs_loadCore u g img r _ ik.2 ik.1, ← gangOf, gangOf_setGang_self]
  exact ⟨rfl, rfl, rfl⟩

theorem gangs_loadKeys (s : State) (x : Nat) : (loadKeys s x).gangs = s.gangs := by
  refine gangs_foldl (fun u e => ?_) _ s
  dsimp only
  split <;> rfl

/-- The gang runs anew. -/
def runsAnew (y : Gang) : Gang :=
  { y with
    mode := .running, swIn := 1, swAborted := 0, pkgIv := y.pkgIv + 1, row := y.vote.row, byBackfill := y.vote.backfill
    goesOn := (y.vote.boundary, y.vote.row, y.vote.backfill)
    vote := { boundary := y.vote.boundary, row := y.vote.row } }

/-- SWITCH_IN of a gang without a run. -/
theorem switchIn_begins {s : State} {g : Nat} {img : GangImage} (h : Starting s g) (he : (houseOf s).emergency = false)
    (hrun : (gangOf s g).hasRun = false) (hadmit : admission (openWindow s g) g (gangOf s g).req = .ok img) :
    ∃ t, exec (.switchIn g) s = .next t ∧ (gangOf t g).mode = .running ∧ (gangOf t g).gcyc = 0 ∧ (gangOf t g).hasRun = true ∧
      (gangOf t g).swIn = 1 ∧ (gangOf t g).cores = img.cores := by
  obtain ⟨-, -, -, ⟨hs, r, hgang⟩, -⟩ := openWindow_opens s g
  have hreq : (gangOf (openWindow s g) g).req = (gangOf s g).req := by rw [hgang]
  refine ⟨startRun (openWindow s g) g, by rw [switchIn_opens h he, hrun, if_neg Bool.false_ne_true], ?_⟩
  generalize openWindow s g = u at hadmit hreq
  obtain ⟨v, hv⟩ : ∃ v, v = loadKeys (admitRun u g (gangOf u g).req (gangOf u g).reqIndex img) (gangOf u g).ctx := ⟨_, rfl⟩
  have hstart : startRun u g = startCycle (postGang (postGangDeed (modGang v g runsAnew) g 0 phSync (.resyncCheck g)) g 1 phHub
      (.runComplete g)) g := by
    rw [startRun]
    dsimp only
    rw [hreq, hadmit, hv, hreq]
    rfl
  obtain ⟨hgcyc, hhas, hcores⟩ := admitRun_gang u g (gangOf u g).req (gangOf u g).reqIndex img
  have hself : gangOf v g = gangOf (admitRun u g (gangOf u g).req (gangOf u g).reqIndex img) g := by
    rw [hv, gangOf, gangs_loadKeys, ← gangOf]
  rw [← hself] at hgcyc hhas hcores
  have started : Starts (modGang v g runsAnew) (startRun u g) := by
    rw [hstart]
    exact .trans (.trans (starts_post ..) (starts_post ..)) (.foldl starts_startCore _ _)
  rw [started.gangOf, gangOf_modGang_self]
  exact ⟨rfl, hgcyc, hhas, rfl, hcores⟩

end Sys2Proof.Machine
end

section
/-! PROOF. Slot boundaries: cells take effect, withdrawn contexts are torn down, and what was withdrawn is put away (R248, R308). -/

namespace Sys2Proof.Machine

theorem exec_slotBoundary (s : State) : exec .slotBoundary s = execSlotBoundary s := rfl

/-! Cells. -/

theorem tget_foldl_cells_ne (es : List (Nat × Word)) (t : Table Word) (key : Nat) (h : ∀ e ∈ es, e.1 ≠ key) :
    tget 0 (es.foldl (fun t e => tset 0 t e.1 e.2) t) key = tget 0 t key := by
  induction es generalizing t with
  | nil => rfl
  | cons e es ih =>
    rw [List.foldl_cons, ih _ fun e' he' => h e' (List.mem_cons_of_mem _ he'),
      tget_tset_ne _ _ _ fun hk => h e List.mem_cons_self hk.symm]

theorem tget_foldl_cells (es : List (Nat × Word)) (t : Table Word) (e : Nat × Word) (hone : ∀ e' ∈ es, e'.1 = e.1 → e' = e)
    (h : e ∈ es ∨ tget 0 t e.1 = e.2) : tget 0 (es.foldl (fun t e => tset 0 t e.1 e.2) t) e.1 = e.2 := by
  induction es generalizing t with
  | nil => exact h.resolve_left List.not_mem_nil
  | cons d es ih =>
    refine ih (tset 0 t d.1 d.2) (fun e' he' => hone e' (List.mem_cons_of_mem _ he')) ?_
    by_cases hd : d.1 = e.1
    · rw [hone d List.mem_cons_self hd, tget_tset_self]
      exact .inr rfl
    · rw [tget_tset_ne _ _ _ fun hk => hd hk.symm]
      exact h.imp_left fun hin => (List.mem_cons.mp hin).resolve_left fun he => hd (by rw [he])

/-! Withdrawn contexts (R308). -/

/-- The step tears runs down: the clock, every scratch and the slot matrix stay, and no gang begins a run. -/
structure Ends (s t : State) : Prop where
  pod : t.pod = s.pod
  scratch : ScratchSame s t
  cells : (authOf t).cells = (authOf s).cells
  newCells : (authOf t).newCells = (authOf s).newCells
  gangs : ∀ n, (gangOf s n).hasRun = false → (gangOf t n).hasRun = false

theorem Ends.refl (s : State) : Ends s s := ⟨rfl, fun _ _ => rfl, rfl, rfl, fun _ h => h⟩

theorem Ends.trans {s t u : State} (h₁ : Ends s t) (h₂ : Ends t u) : Ends s u :=
  ⟨h₂.pod.trans h₁.pod, h₁.scratch.trans h₂.scratch, h₂.cells.trans h₁.cells, h₂.newCells.trans h₁.newCells,
    fun n h => h₂.gangs n (h₁.gangs n h)⟩

theorem Windowed.ends {s t : State} (h : Windowed s t) : Ends s t :=
  ⟨h.pod, .of_cores h.cores, h.cells, h.newCells, fun n hn => by rw [h.gangOf]; exact hn⟩

theorem ends_abortGang (s : State) (g : Nat) (cls : EventClass) :
    Ends s (abortGang s g cls) ∧ (gangOf (abortGang s g cls) g).hasRun = false := by
  by_cases h : (gangOf s g).hasRun = true
  · obtain ⟨⟨-, hrun, -, hscratch⟩, -, hothers, hpod⟩ := abortGang_torn cls h
    have standing := standing_abortGang s g cls
    refine ⟨⟨hpod, hscratch, standing.cells, standing.newCells, fun n hn => ?_⟩, hrun⟩
    by_cases hg : n = g
    · rw [hg]; exact hrun
    · rw [hothers n hg]; exact hn
  · rw [abortGang, if_neg h]
    exact ⟨.refl s, Bool.eq_false_iff.mpr h⟩

theorem Logged.ends {s t : State} (h : Logged s t) : Ends s t :=
  ⟨h.pod, .of_cores h.cores, by rw [h.auth], by rw [h.auth], fun n hn => by rw [h.gangOf]; exact hn⟩

/-- The context is not about to be torn down any more. -/
def undoomed (c : Ctx) : Ctx := { c with doomed := false }

theorem revokeContext_revokes (s : State) (x : Nat) : Ends s (revokeContext s x) ∧
    (0 < (ctxOf s x).gang → (gangOf (revokeContext s x) ((ctxOf s x).gang - 1)).hasRun = false) ∧
    ∀ y, ctxOf (revokeContext s x) y = if y = x then undoomed (ctxOf s y) else ctxOf s y := by
  have heq : revokeContext s x = postEvent (if (ctxOf s x).gang = 0 then modCtx s x undoomed
      else abortGang (modCtx s x undoomed) ((ctxOf s x).gang - 1) .control) (ctxOf s x).vdid .control evRevoked [x] [] := rfl
  obtain ⟨v, hv⟩ : ∃ v, v = if (ctxOf s x).gang = 0 then modCtx s x undoomed
      else abortGang (modCtx s x undoomed) ((ctxOf s x).gang - 1) .control := ⟨_, rfl⟩
  have modified : Ends s (modCtx s x undoomed) := ⟨rfl, fun _ _ => rfl, rfl, rfl, fun _ h => h⟩
  have logged := logged_postEvent v (ctxOf s x).vdid .control evRevoked [x] []
  have hctx (y : Nat) (u : State) (hu : (authOf u).ctxs = (authOf (modCtx s x undoomed)).ctxs) :
      ctxOf u y = if y = x then undoomed (ctxOf s y) else ctxOf s y := by
    rw [← ctxOf_modCtx, ctxOf, ctxOf, hu]
  rw [heq, ← hv]
  by_cases hg : (ctxOf s x).gang = 0
  · rw [if_pos hg] at hv
    refine ⟨Ends.trans (by rw [hv]; exact modified) logged.ends, fun h => absurd hg (Nat.pos_iff_ne_zero.mp h), fun y => ?_⟩
    exact hctx y _ (by rw [logged.ctxs, hv])
  · rw [if_neg hg] at hv
    obtain ⟨ends, hrun⟩ := ends_abortGang (modCtx s x undoomed) ((ctxOf s x).gang - 1) .control
    refine ⟨Ends.trans (by rw [hv]; exact modified.trans ends) logged.ends, fun _ => ?_, fun y => ?_⟩
    · rw [logged.gangOf, hv]
      exact hrun
    · exact hctx y _ (by rw [logged.ctxs, hv, (standing_abortGang ..).ctxs])

/-- The contexts `xs` are torn down. -/
theorem revoked_revokes (xs : List Nat) (s : State) : Ends s (xs.foldl revokeContext s) ∧
    (∀ y, (ctxOf (xs.foldl revokeContext s) y).doomed = (decide (y ∉ xs) && (ctxOf s y).doomed)) ∧
    ∀ y ∈ xs, 0 < (ctxOf s y).gang → (gangOf (xs.foldl revokeContext s) ((ctxOf s y).gang - 1)).hasRun = false := by
  induction xs generalizing s with
  | nil => exact ⟨.refl s, fun _ => rfl, fun _ h => nomatch h⟩
  | cons x xs ih =>
    obtain ⟨ends, hrun, hctx⟩ := revokeContext_revokes s x
    obtain ⟨rest, hdoomed, hruns⟩ := ih (revokeContext s x)
    have hgang (y : Nat) : (ctxOf (revokeContext s x) y).gang = (ctxOf s y).gang := by
      rw [hctx]
      split <;> rfl
    rw [List.foldl_cons]
    refine ⟨ends.trans rest, fun y => ?_, fun y hy hpos => ?_⟩
    · rw [hdoomed, hctx]
      by_cases hy : y = x
      · subst hy
        simp [undoomed]
      · simp [hy]
    · rcases List.mem_cons.mp hy with rfl | hy
      · exact rest.gangs _ (hrun hpos)
      · have := hruns y hy (by rw [hgang]; exact hpos)
        rw [hgang] at this
        exact this

/-! The boundary's work after the teardowns. -/

theorem windowed_setFab (s : State) (f : Fabric) : Windowed s (setFab s f) := ⟨rfl, rfl, rfl, rfl, rfl, fun _ => .refl _, rfl, rfl⟩

theorem windowed_setEnv (s : State) (e : Cluster) : Windowed s (setEnv s e) := ⟨rfl, rfl, rfl, rfl, rfl, fun _ => .refl _, rfl, rfl⟩

theorem windowed_setHouse (s : State) (h : House) : Windowed s (setHouse s h) := ⟨rfl, rfl, rfl, rfl, rfl, fun _ => .refl _, rfl, rfl⟩

theorem windowed_putAway (s : State) (kind : Nat) (keys : List Nat) : Windowed s (putAway s kind keys) := by
  unfold putAway
  split
  · exact .foldl (fun u k => windowed_setFab ..) _ s
  · exact .foldl (fun u h => windowed_setEnv ..) _ s
  · exact .refl s

theorem windowed_restIslands (s : State) : Windowed s (restIslands s) := windowed_setHouse ..

theorem windowed_recompose (s : State) (row : Nat) : Windowed s (recompose s row) := by
  refine .foldl (fun u e => ?_) _ s
  split
  · exact .refl u
  · exact windowed_composeCtx ..

/-- What was withdrawn is put away, tables are composed anew, and windows applied. -/
def windowsAt (s : State) (row : Nat) : State :=
  let s := (authOf s).leaving.foldl (fun s e => putAway s e.1 e.2) (setAuth s { authOf s with leaving := [] })
  let s := recompose (reserveSlots (restIslands s) (idleCores s)) row
  let ps := (authOf s).parts.filter fun p =>
    p.2.newWindows != [] && !(s.gangs.any fun e => decide (e.2.vdid = p.1) && onSet e.2)
  ps.foldl (fun s p => applyWindows s p.1) s

theorem windowed_windowsAt (s : State) (row : Nat) : Windowed s (windowsAt s row) := by
  have cleared : Windowed s (setAuth s { authOf s with leaving := [] }) := ⟨rfl, rfl, rfl, rfl, rfl, fun _ => .refl _, rfl, rfl⟩
  unfold windowsAt
  dsimp only
  have put : Windowed s ((authOf s).leaving.foldl (fun s e => putAway s e.1 e.2) (setAuth s { authOf s with leaving := [] })) :=
    cleared.trans (.foldl (fun u (e : Nat × List Nat) => windowed_putAway u e.1 e.2) _ _)
  generalize (authOf s).leaving.foldl (fun s e => putAway s e.1 e.2) (setAuth s { authOf s with leaving := [] }) = u at put ⊢
  exact put.trans <| (windowed_restIslands u).trans <| (windowed_reserveSlots ..).trans <| (windowed_recompose ..).trans
    (.foldl (fun v (p : Nat × Partition) => windowed_applyWindows v p.1) _ _)

theorem modGang_gangs (s : State) (g : Nat) (f : Gang → Gang) (gs : Table Gang) :
    { modGang s g f with gangs := gs } = { s with gangs := gs } := rfl

theorem rowsGoOn_gangs (s : State) : ∃ gs, rowsGoOn s = { s with gangs := gs } := by
  unfold rowsGoOn
  generalize s.gangs.filter (fun e => onSet e.2 && e.2.hasRun) = es
  induction es generalizing s with
  | nil => exact ⟨s.gangs, rfl⟩
  | cons e es ih =>
    obtain ⟨gs, hgs⟩ := ih (modGang s e.1 fun x =>
      if x.goesOn.1 = s.pod then { x with row := x.goesOn.2.1, byBackfill := x.goesOn.2.2 } else { x with byBackfill := false })
    exact ⟨gs, by rw [List.foldl_cons, hgs, modGang_gangs]⟩

/-- The contexts about to be torn down. -/
def doomedOf (s : State) : List Nat := ((authOf s).ctxs.filter fun e => e.2.doomed).map (·.1)

theorem mem_doomedOf {s : State} {y : Nat} (h : (ctxOf s y).doomed = true) : y ∈ doomedOf s := by
  have hin : (y, ctxOf s y) ∈ (authOf s).ctxs := mem_of_tget_ne fun he => by
    have : (ctxOf s y).doomed = false := by rw [ctxOf, he]
    rw [this] at h
    cases h
  exact List.mem_map.mpr ⟨_, List.mem_filter.mpr ⟨hin, h⟩, rfl⟩

/-- A containment delay ends. -/
def startsOnTime (s : State) : State := { s with hub := { s.hub with delayed := false } }

theorem startsOnTime_delayed (s : State) : (startsOnTime s).hub.delayed = false := rfl

theorem windowed_startsOnTime (s : State) : Windowed s (startsOnTime s) := ⟨rfl, rfl, rfl, rfl, rfl, fun _ => .refl _, rfl, rfl⟩

theorem slotBoundary_eq (s : State) : ∃ gs, exec .slotBoundary s = .next (startsOnTime (windowsAt
    ((doomedOf s).foldl revokeContext { cellsTakeEffect s (rowNow s) with gangs := gs }) (rowNow s))) := by
  obtain ⟨gs, hgs⟩ := rowsGoOn_gangs (cellsTakeEffect s (rowNow s))
  have hx : exec .slotBoundary s = .next (startsOnTime (windowsAt
      ((doomedOf (rowsGoOn (cellsTakeEffect s (rowNow s)))).foldl revokeContext (rowsGoOn (cellsTakeEffect s (rowNow s))))
      (rowNow s))) := by
    rw [exec_slotBoundary]
    unfold execSlotBoundary windowsAt doomedOf startsOnTime
    dsimp only
  rw [hgs] at hx
  exact ⟨gs, hx⟩

theorem slotBoundary_bounds (s : State) :
    let row := rowNow s
    let a := authOf s
    ∃ t, exec .slotBoundary s = .next t ∧ t.hub.delayed = false ∧ t.pod = s.pod ∧ ScratchSame s t ∧
      (authOf t).newCells = a.newCells.filter (fun e => e.1 / 16 ≠ row) ∧
      (∀ key, (∀ e ∈ a.newCells, e.1 = key → key / 16 ≠ row) → tget 0 (authOf t).cells key = tget 0 a.cells key) ∧
      (∀ e ∈ a.newCells, e.1 / 16 = row → (∀ e' ∈ a.newCells, e'.1 = e.1 → e' = e) → tget 0 (authOf t).cells e.1 = e.2) ∧
      (∀ y, (ctxOf t y).doomed = false) ∧
      (∀ y, (ctxOf s y).doomed = true → 0 < (ctxOf s y).gang → (gangOf t ((ctxOf s y).gang - 1)).hasRun = false) ∧
      ((∀ e ∈ a.ctxs, e.2.doomed = false) → t.cores = s.cores ∧ t.agenda = s.agenda) := by
  intro row a
  obtain ⟨gs, hx⟩ := slotBoundary_eq s
  obtain ⟨u, hu⟩ : ∃ u, u = { cellsTakeEffect s row with gangs := gs } := ⟨_, rfl⟩
  have hcells : (authOf u).cells = (a.newCells.filter fun e => decide (e.1 / 16 = row)).foldl (fun t e => tset 0 t e.1 e.2) a.cells := by
    rw [hu]; rfl
  have hnew : (authOf u).newCells = a.newCells.filter fun e => decide (e.1 / 16 ≠ row) := by rw [hu]; rfl
  have hctx (y : Nat) : ctxOf u y = ctxOf s y := by rw [hu]; rfl
  have hsame : u.pod = s.pod ∧ u.cores = s.cores ∧ u.agenda = s.agenda := by rw [hu]; exact ⟨rfl, rfl, rfl⟩
  obtain ⟨hpod, hcores, hagenda⟩ := hsame
  rw [← hu] at hx
  obtain ⟨ends, hdoomed, hruns⟩ := revoked_revokes (doomedOf s) u
  have windowed := (windowed_windowsAt ((doomedOf s).foldl revokeContext u) row).trans (windowed_startsOnTime _)
  have whole := ends.trans windowed.ends
  refine ⟨_, hx, startsOnTime_delayed _, whole.pod.trans hpod, ScratchSame.trans (.of_cores hcores) whole.scratch, whole.newCells.trans hnew,
    fun key hkey => ?_, fun e he hrow hone => ?_, fun y => ?_, fun y hy hpos => ?_, fun hnone => ?_⟩
  · refine (congrArg (tget 0 · key) (whole.cells.trans hcells)).trans (tget_foldl_cells_ne _ _ _ fun e he hk => ?_)
    obtain ⟨hin, hr⟩ := List.mem_filter.mp he
    exact hkey e hin hk (hk ▸ of_decide_eq_true hr)
  · refine (congrArg (tget 0 · e.1) (whole.cells.trans hcells)).trans (tget_foldl_cells _ _ e (fun e' he' => ?_) (.inl ?_))
    · exact hone e' (List.mem_filter.mp he').1
    · exact List.mem_filter.mpr ⟨he, decide_eq_true hrow⟩
  · obtain ⟨b, m, hb⟩ := windowed.ctxs y
    have hy : (ctxOf ((doomedOf s).foldl revokeContext u) y).doomed = false := by
      rw [hdoomed, hctx]
      by_cases hd : (ctxOf s y).doomed = true
      · simp [mem_doomedOf hd]
      · simp [hd]
    rw [hb]
    exact hy
  · have := hruns y (mem_doomedOf hy) (by rw [hctx]; exact hpos)
    rw [hctx] at this
    exact windowed.ends.gangs _ this
  · have hempty : doomedOf s = [] := by
      rw [doomedOf, List.filter_eq_nil_iff.mpr fun e he => by rw [hnone e he]; decide]
      rfl
    rw [hempty] at windowed ⊢
    exact ⟨windowed.cores.trans hcores, windowed.agenda.trans hagenda⟩

end Sys2Proof.Machine
end

section
/-! PROOF. Captured frames and replay entries perform as the effects they stand for (R263, R295). -/

namespace Sys2Proof.Machine

theorem exec_fsaReinject (g : Nat) (f : Frame) (s : State) : exec (.fsaReinject g f) s =
    .next (arrival s { f with gang := g, again := true } (performFrame { f with gang := g, again := true })) := rfl
theorem exec_replayReinject (k : Nat) (e : ReplayEntry) (s : State) : exec (.replayReinject k e) s = .next (replayEffect s k e) := rfl

/-! What a frame leaves to its count. -/

/-- The step leaves what gang `g` has received and captured, and every scratch. -/
structure Uncounted (s t : State) (g : Nat) : Prop where
  recv : (gangOf t g).recv = (gangOf s g).recv
  capt : (gangOf t g).capt = (gangOf s g).capt
  scratch : ScratchSame s t

theorem Uncounted.refl (s : State) (g : Nat) : Uncounted s s g := ⟨rfl, rfl, fun _ _ => rfl⟩

theorem Uncounted.trans {s t u : State} {g : Nat} (h₁ : Uncounted s t g) (h₂ : Uncounted t u g) : Uncounted s u g :=
  ⟨h₂.recv.trans h₁.recv, h₂.capt.trans h₁.capt, h₁.scratch.trans h₂.scratch⟩

theorem Uncounted.foldl {α : Type} {f : State → α → State} {g : Nat} (h : ∀ s a, Uncounted s (f s a) g) (as : List α) (s : State) :
    Uncounted s (as.foldl f s) g := by
  induction as generalizing s with
  | nil => exact .refl s g
  | cons a as ih => exact (h s a).trans (ih (f s a))

theorem uncounted_of {s t : State} (hg : t.gangs = s.gangs) (hs : ScratchSame s t) (g : Nat) : Uncounted s t g :=
  ⟨by rw [gangOf, hg]; rfl, by rw [gangOf, hg]; rfl, hs⟩

theorem uncounted_post (s : State) (j : Job) (g : Nat) : Uncounted s (post s j) g :=
  uncounted_of (s := s) (t := post s j) rfl (.of_cores rfl) g

theorem uncounted_setFab (s : State) (f : Fabric) (g : Nat) : Uncounted s (setFab s f) g :=
  uncounted_of (s := s) (t := setFab s f) rfl (.of_cores rfl) g

theorem uncounted_modCore (s : State) (k g : Nat) {f : Core → Core} (h : ∀ c, (f c).scratch = c.scratch) :
    Uncounted s (modCore s k f) g := uncounted_of (s := s) (t := modCore s k f) rfl (scratchSame_modCore s k h) g

theorem Beside.uncounted {s t : State} (h : Beside s t) (g : Nat) : Uncounted s t g := uncounted_of h.gangs (.of_cores h.cores) g

theorem MetAt.uncounted {s t : State} {k : Nat} (h : MetAt s t k) (g : Nat) : Uncounted s t g := uncounted_of h.gangs h.scratchSame g

theorem uncounted_unexpected (s : State) (k g : Nat) : Uncounted s (unexpected s k) g :=
  uncounted_modCore s k g fun c => by rw [raiseNow_spec]

theorem uncounted_unclaimedFault (s : State) (k addr g : Nat) : Uncounted s (unclaimedFault s k addr) g :=
  uncounted_modCore s k g fun c => by rw [raiseNow_spec]

/-! Units written. -/

theorem uncounted_foreignWrite (s : State) (k : Nat) (f : Foreign) (g : Nat) : Uncounted s (foreignWrite s k f) g := by
  unfold foreignWrite
  dsimp only
  split
  · split
    · exact ((metAt_claimStamps ..).trans (metAt_postForeign ..)).uncounted g
    · exact uncounted_unclaimedFault ..
  · split
    · refine Uncounted.trans ?_ (uncounted_unclaimedFault ..)
      split
      · exact (metAt_takeEjection ..).uncounted g
      · exact .refl s g
    · split
      · exact (uncounted_modCore s k g fun c => by rw [raiseNow_spec]).trans ((metAt_postForeign ..).uncounted g)
      · exact ((metAt_foreignAccess ..).trans ((metAt_claimStamps ..).trans (metAt_postForeign ..))).uncounted g

theorem uncounted_writeUnits (s : State) (k : Nat) (f : Frame) (g : Nat) : Uncounted s (writeUnits s k f) g := by
  unfold writeUnits
  dsimp only
  rw [writeUnit_eq]
  refine (uncounted_foreignWrite ..).trans (.foldl (fun u i => ?_) _ _)
  split
  · exact .refl u g
  · exact uncounted_post ..

/-! A response takes its link. -/

theorem uncounted_dropFrame (s : State) (f : Frame) (hop sub g : Nat) : Uncounted s (dropFrame s f hop sub) g := by
  unfold dropFrame
  dsimp only
  split
  · exact (beside_leekSend ..).uncounted g
  · exact ((beside_leekSend ..).trans (beside_leekSend ..)).uncounted g

/-- The step leaves the gangs and the cores. -/
theorem uncounted_of_cores {s t : State} (hg : t.gangs = s.gangs) (hc : t.cores = s.cores) (g : Nat) : Uncounted s t g :=
  uncounted_of hg (.of_cores hc) g

theorem uncounted_dropUse (s : State) (n : Nat) (o : Occupied) (g : Nat) : Uncounted s (dropUse s n o) g := by
  unfold dropUse
  dsimp only
  split
  · obtain ⟨u, hu⟩ : ∃ u, u = { setFab s { fabOf s with links := tmod {} (fabOf s).links n fun l => { l with used := l.used.erase o } } with
      agenda := s.agenda.erase ⟨.gang o.gang, o.first, phTrigger, some (o.key % 1024), .deed (.countDepart o.gang n)⟩ } := ⟨_, rfl⟩
    have before : Uncounted s u g := uncounted_of_cores (by rw [hu]; rfl) (by rw [hu]; rfl) g
    exact before.trans (by rw [hu]; exact uncounted_modCore _ _ g fun c => by rw [addRaise_spec])
  · split
    · exact (uncounted_setFab ..).trans ((uncounted_setFab ..).trans (uncounted_dropFrame ..))
    · exact uncounted_setFab ..

theorem uncounted_takeHop (s : State) (f : Frame) (n hop g : Nat) : Uncounted s (takeHop s f n hop).1 g := by
  unfold takeHop
  dsimp only
  split
  · exact .refl s g
  · split
    · exact .refl s g
    · split
      · exact .refl s g
      · exact .trans (.foldl (fun u o => uncounted_dropUse u n o g) _ _) (uncounted_setFab ..)

theorem uncounted_takeBack (s : State) (f r : Frame) (d g : Nat) : Uncounted s (takeBack s f r d).1 g := by
  have hop := uncounted_takeHop s { r with enter := d } (backLink f) 0 g
  unfold takeBack
  split
  case h_1 sub h =>
    rw [h] at hop
    exact hop.trans (uncounted_dropFrame ..)
  case h_2 h =>
    rw [h] at hop
    exact hop

theorem uncounted_countSent (s : State) (g n h : Nat) : Uncounted s (countSent s g n) h := by
  obtain ⟨d, hd⟩ := countSent_counted s g n
  have hgang : gangOf (countSent s g n) h = gangOf (modGang s g fun x => { x with sent := tmod 0 x.sent n (· + 1) }) h := by
    rw [hd]; rfl
  refine ⟨?_, ?_, fun j b => by rw [hd]; rfl⟩
  all_goals
    rw [hgang]
    by_cases he : h = g
    · rw [he, gangOf_modGang_self]
    · rw [gangOf_modGang_ne _ _ he]

theorem uncounted_countResponse (s : State) (f : Frame) (g : Nat) : Uncounted s (countResponse s f) g := by
  unfold countResponse
  dsimp only
  split
  · exact uncounted_countSent ..
  · exact .refl s g

theorem uncounted_answerGet (s : State) (f : Frame) (g : Nat) : Uncounted s (answerGet s f) g := by
  unfold answerGet
  dsimp only
  exact (uncounted_countResponse ..).trans ((uncounted_takeBack ..).trans (uncounted_post ..))

/-! Every kind of frame. -/

theorem uncounted_performSend (f : Frame) (k : Nat) (s : State) (g : Nat) : Uncounted s (performSend f k s) g := by
  unfold performSend
  split
  · exact uncounted_unexpected ..
  next r _ => exact (uncounted_modCore (f := unarm r) s k g fun _ => rfl).trans (uncounted_writeUnits ..)

theorem uncounted_performAtomRequest (f : Frame) (k : Nat) (s : State) (g : Nat) : Uncounted s (performAtomRequest f k s) g := by
  unfold performAtomRequest
  split
  · exact uncounted_unexpected ..
  · split
    · exact uncounted_post ..
    · exact .foldl (fun u d => uncounted_post ..) _ s

theorem uncounted_performAtomResponse (f : Frame) (k : Nat) (s : State) (g : Nat) : Uncounted s (performAtomResponse f k s) g := by
  unfold performAtomResponse
  dsimp only
  have answers : Uncounted s (answered s f) g := uncounted_setFab ..
  split
  · exact answers.trans (uncounted_modCore _ k g fun c => by rw [raiseNow_spec])
  · exact answers.trans ((uncounted_modCore (f := fbPresent f) _ k g fun c => rfl).trans (uncounted_post ..))

theorem uncounted_performPoison (f : Frame) (k : Nat) (s : State) (g : Nat) : Uncounted s (performPoison f k s) g := by
  unfold performPoison
  split
  · split
    next r _ => exact (uncounted_modCore (f := unarm r) s k g fun _ => rfl).trans (uncounted_post ..)
    · exact uncounted_unexpected ..
  · exact .refl s g
  · exact uncounted_post ..

theorem uncounted_performFrame (f : Frame) (k : Nat) (s : State) (g : Nat) : Uncounted s (performFrame f k s) g := by
  unfold performFrame
  split
  · exact uncounted_performSend ..
  · unfold performPut
    split
    · exact uncounted_writeUnits ..
    · exact uncounted_unexpected ..
  · rw [performGetRequest_eq]
    split
    · exact uncounted_answerGet ..
    · exact uncounted_unexpected ..
  · exact .trans (uncounted_setFab ..) (uncounted_writeUnits ..)
  · exact uncounted_performAtomRequest ..
  · exact uncounted_performAtomResponse ..
  · exact uncounted_performPoison ..

theorem countedIn_counts (f : Frame) (x : Gang) : tget 0 (countedIn f x).recv f.link.val = tget 0 x.recv f.link.val + 1 ∧
    (f.again = true → tget 0 (countedIn f x).capt f.link.val = tget 0 x.capt f.link.val - 1) := by
  refine ⟨tget_tset_self 0 x.recv f.link.val (tget 0 x.recv f.link.val + 1), fun h => ?_⟩
  have hcapt : (countedIn f x).capt = tmod 0 x.capt f.link.val (· - 1) := by
    rw [countedIn, h]
    rfl
  rw [hcapt]
  exact tget_tset_self ..

/-- A captured frame performs, and moves from CAPT to RECV. -/
theorem fsaReinject_performs {s : State} {g k : Nat} {f : Frame} (hctx : (ctxOf s (gangOf s g).ctx).gang = g + 1)
    (hdst : f.dstCore < (gangOf s g).cores) (hcapture : capturing (gangOf s g) = false) (hk : coreAt s g f.dstCore = some k)
    (hmode : (gangOf s g).mode = .running) (hnow : (gangOf s g).gcyc = f.arrive) : ∃ t, exec (.fsaReinject g f) s = .next t ∧
      ScratchSame s t ∧ tget 0 (gangOf t g).recv f.link.val = tget 0 (gangOf s g).recv f.link.val + 1 ∧
      tget 0 (gangOf t g).capt f.link.val = tget 0 (gangOf s g).capt f.link.val - 1 := by
  obtain ⟨f', hf'⟩ : ∃ f' : Frame, f' = { f with gang := g, again := true } := ⟨_, rfl⟩
  have hg : f'.gang = g := by rw [hf']
  have hlink : f'.link = f.link := by rw [hf']
  have hagain : f'.again = true := by rw [hf']
  have hx : exec (.fsaReinject g f) s = .next (countRecv (performFrame f' k (unkept s f')) f') := by
    rw [exec_fsaReinject, ← hf']
    refine congrArg Host.Outcome.next (arrival_performs ?_ ?_ ?_ ?_ ?_ ?_ _)
    all_goals rw [hf']
    exacts [hctx, hdst, hcapture, hk, hmode, hnow]
  have performs := Uncounted.trans (uncounted_setFab s { fabOf s with kept := (fabOf s).kept.erase f' } g)
    (uncounted_performFrame f' k (unkept s f') g)
  generalize performFrame f' k (unkept s f') = u at hx performs
  obtain ⟨d, hd⟩ := writeFsaHeader_dram (modGang u f'.gang (countedIn f')) f'.gang
  have hx : exec (.fsaReinject g f) s = .next (writeFsaHeader (modGang u f'.gang (countedIn f')) f'.gang) := hx
  rw [hd, hg] at hx
  have hgang : gangOf (setDram (modGang u g (countedIn f')) d) g = countedIn f' (gangOf u g) := gangOf_modGang_self ..
  refine ⟨_, hx, performs.scratch.trans (.of_cores rfl), ?_, ?_⟩
  · rw [hgang, ← hlink, (countedIn_counts f' _).1, performs.recv]
  · rw [hgang, ← hlink, (countedIn_counts f' _).2 hagain, performs.capt]

/-! Replay entries (R295). -/

section
variable {s : State} {k : Nat} {e : ReplayEntry}

theorem replay_result (h : e.kind = 2) {r : ResultPort} (hr : resOf (e.dst % 16) = some r) (hm : resultMeets s k r = false) :
    exec (.replayReinject k e) s = .next (setCore s k (setResult (coreOf s k) r e.data)) := by
  rw [exec_replayReinject, replayEffect, h]
  dsimp only
  rw [hr]
  dsimp only
  rw [hm]
  rfl

/-- A scratch write of a replay entry. -/
def replayWrite (s : State) (k : Nat) (e : ReplayEntry) : State :=
  performWrite s k ⟨e.addr, leBytes e.size e.data.toNat, 6, agentId 1 (coreOf s k).idx, (coreOf s k).idx, 0⟩

theorem replayEffect_store (h : e.kind = 3) (hd : e.dst ≠ xcopyId)
    (hv : isVoided (coreOf s k) (gcycOf s k) e.addr e.size = false) : replayEffect s k e =
      if e.flagTag then ownStamp (replayWrite s k e) k (e.addr / 4096) (if e.flagPoison then 0xFFFF else e.tag)
      else replayWrite s k e := by
  rw [replayEffect, h]
  dsimp only
  rw [hv]
  exact if_neg hd

theorem replay_store (h : e.kind = 3) (hd : e.dst ≠ xcopyId) (hv : isVoided (coreOf s k) (gcycOf s k) e.addr e.size = false) :
    ∃ t, exec (.replayReinject k e) s = .next t ∧ ScratchBut s t k e.addr (leBytes e.size e.data.toNat) := by
  have written : ScratchBut s (replayWrite s k e) k e.addr (leBytes e.size e.data.toNat) := (performWrite_spec ..).1
  rw [exec_replayReinject, replayEffect_store h hd hv]
  refine ⟨_, rfl, ?_⟩
  split
  · exact written.after fun j b => scratchSame_ownStamp _ _ _ _ j b
  · exact written

theorem replay_unit (h : e.kind = 3) (hd : e.dst = xcopyId) (hs : e.size ≠ 0) (ht : e.flagTag = false) {k' : Nat}
    (hk : coreAt s (coreOf s k).gang (e.addr / 2 ^ 22) = some k') :
    exec (.replayReinject k e) s = exec (.xcopyUnitArrival k' ⟨k, (coreGang s k).ctx, decide (k / 128 = k' / 128),
        e.addr % 2 ^ 22, leBytes e.size e.data.toNat, [], false, true⟩) s := by
  have hone : max e.size 1 = e.size := Nat.max_eq_left (Nat.pos_iff_ne_zero.mpr hs)
  rw [exec_replayReinject, replayEffect, h]
  dsimp only
  rw [if_pos hd, hk]
  dsimp only
  rw [hone, ht, if_neg Bool.false_ne_true, decide_eq_false hs]
  rfl

theorem replay_move (h : e.kind = 4) {d : Dest} (hd : destOf (e.dst / 64) (e.dst % 64) = some d) :
    exec (.replayReinject k e) s = .next (post s ⟨.gang (coreOf s k).gang, gcycOf s k, arrivalPhase (.move ⟨⟨false, 0⟩, .sreg 0⟩ d), some k,
        .arrive ⟨.move ⟨⟨false, 0⟩, .sreg 0⟩ d, bytesVal e.size e.data, true, (coreOf s k).curCycle.getD 0, (coreOf s k).curBundle, 0,
          gcycOf s k⟩⟩) := by
  rw [exec_replayReinject, replayEffect, h]
  dsimp only
  rw [hd]
  rfl

theorem notePred_p (c : Core) (x n kind issue bundle slot : Nat) : (notePred c x n kind issue bundle slot).p = c.p := by
  unfold notePred
  dsimp only
  split
  · rfl
  · split
    · rw [addRaise_spec]
    · rfl

theorem setPred_p {c d : Core} (h : d.p = c.p) (n : Nat) (v : Bool) : (setPred d n v).p = (setPred c n v).p := by
  unfold setPred
  split
  · exact h
  · show (if v then d.p ||| _ else d.p &&& _) = (if v then c.p ||| _ else c.p &&& _)
    rw [h]

/-- A predicate write of a replay entry, at gang cycle `x`. -/
def replayPred (x : Nat) (e : ReplayEntry) (c : Core) : Core :=
  let n := e.dst % 8
  setPred (if c.predDue.any fun d => decide (d.cycle = x ∧ d.pred = n) then c else notePred c x n 2 x c.pc 0) n (e.data.getLsbD 0)

theorem replayPred_p (x : Nat) (e : ReplayEntry) (c : Core) :
    (replayPred x e c).p = (setPred c (e.dst % 8) (e.data.getLsbD 0)).p := by
  unfold replayPred
  refine setPred_p ?_ ..
  split
  · rfl
  · exact notePred_p ..

theorem replay_predicate (h : e.kind = 5) : ∃ t, exec (.replayReinject k e) s = .next t ∧ t.agenda = s.agenda ∧ t.hub = s.hub ∧
    (∀ j, j ≠ k → coreOf t j = coreOf s j) ∧ (coreOf t k).p = (setPred (coreOf s k) (e.dst % 8) (e.data.getLsbD 0)).p := by
  have heq : replayEffect s k e = modCore s k (replayPred (gcycOf s k) e) := by
    rw [replayEffect, h]
    rfl
  rw [exec_replayReinject, heq]
  exact ⟨_, rfl, rfl, rfl, fun j hj => coreOf_modCore_ne _ _ hj, by rw [coreOf_modCore_self, replayPred_p]⟩

/-- A device write of a replay entry. -/
def replayDevice (s : State) (k : Nat) (e : ReplayEntry) : State :=
  let a := e.dst * 2 ^ 29 + e.addr % 2 ^ 29
  dramShadow (putDev s a (leBytes e.size e.data.toNat)) a e.size (agentId 1 (coreOf s k).idx) 0

theorem readsSame_dramShadow (s : State) (a n : Nat) (agent : BitVec 16) (sc : BitVec 2) : ReadsSame s (dramShadow s a n agent sc) :=
  ⟨rfl, rfl, rfl, rfl⟩

theorem readsSame_poisonDev (s : State) (a n : Nat) : ReadsSame s (poisonDev s a n) := ⟨rfl, rfl, rfl, rfl⟩

theorem replay_device (h : e.kind = 7) : ∃ t, exec (.replayReinject k e) s = .next t ∧ t.cores = s.cores ∧
    ReadsBut s t (e.dst * 2 ^ 29 + e.addr % 2 ^ 29) (leBytes e.size e.data.toNat) := by
  have heq : replayEffect s k e = if e.flagPoison then
      poisonDev (replayDevice s k e) (e.dst * 2 ^ 29 + e.addr % 2 ^ 29) e.size else replayDevice s k e := by
    rw [replayEffect, h]
    rfl
  have put : ReadsBut s (replayDevice s k e) (e.dst * 2 ^ 29 + e.addr % 2 ^ 29) (leBytes e.size e.data.toNat) :=
    ReadsBut.after (fun b => readsBut_putDev s _ _ b) (readsSame_dramShadow ..)
  have hcores : (replayDevice s k e).cores = s.cores := rfl
  rw [exec_replayReinject, heq]
  generalize replayDevice s k e = u at put hcores ⊢
  refine ⟨_, rfl, ?_⟩
  split
  · exact ⟨hcores, put.after (readsSame_poisonDev ..)⟩
  · exact ⟨hcores, put⟩

end

/-- Settles O48. -/
theorem switchingSavesAndRestores : Obligations.SwitchingSavesAndRestores := by
  refine ⟨fun s g hc hg => ⟨contextSave_idle, contextSave_saves hc hg⟩, fun s g => ?_, slotBoundary_bounds, ?_, fun s k e => ?_⟩
  · refine ⟨switchIn_idle, switchIn_emergency, fun k img h he hrun hbad hk himgs => ?_, fun img => switchIn_begins⟩
    obtain ⟨t, hx, hmode, hgcyc, hin, hfsa, hstage, hholds, regs⟩ := switchIn_returns h he hrun hbad hk himgs
    exact ⟨t, hx, hmode, hgcyc, hin, hfsa, hstage, hholds, regs.s, regs.v, regs.k, regs.p, regs.ports, regs.pc, regs.streams, regs.mx,
      regs.gang⟩
  · exact fun s g k f hctx _ hdst hcap hk hmode hnow => fsaReinject_performs hctx hdst hcap hk hmode hnow
  · exact ⟨fun h r hr hm => replay_result h hr hm, replay_store, fun h hd hs ht k' hk => replay_unit h hd hs ht hk,
      fun h d hd => replay_move h hd, replay_predicate, replay_device⟩

end Sys2Proof.Machine
end

section
/-! PROOF. Episodes that end, and harts that start (R270, R274, R275, R282, R321). -/

namespace Sys2Proof.Machine

theorem exec_hartStart (h : Nat) (s : State) : exec (.hartStart h) s = execHartStart h s := rfl
theorem exec_stepBudgetOverrun (h : Nat) (s : State) : exec (.stepBudgetOverrun h) s = .next
    (if (hartOf s h).running ∧ overBudget s (hartOf s h).stepBudget (hartOf s h).stepFrom then killPair s (hartOf s h).pair 4 1
      else s) := rfl
theorem exec_episodeBudgetOverrun (h : Nat) (s : State) : exec (.episodeBudgetOverrun h) s = .next
    (if (hartOf s h).running ∧ overBudget s (hartOf s h).epBudget (hartOf s h).epFrom then killPair s (hartOf s h).pair 4 2
      else s) := rfl
theorem exec_supervisorKill (p : Nat) (s : State) : exec (.supervisorKill p) s = .next (killPair s p 4 4) := rfl

/-! The supervisor stops a pair's harts (R275). -/

theorem hartOf_setHart (s : State) (h k : Nat) (x : Hart) : hartOf (setHart s h x) k = if k = h then x else hartOf s k := by
  by_cases hk : k = h
  · rw [hk, if_pos rfl]
    exact tget_tset_self ..
  · rw [if_neg hk]
    exact tget_tset_ne _ _ _ hk

/-- Hart `h` of pair `p` is stopped, and its window blocked until the scrub. -/
def stopHart (p : Nat) (s : State) (h : Nat) : State :=
  let x := hartOf s h
  let s := setHart s h { stopCounts s x with running := false }
  let ps := (List.range x.winCount).map (x.winFirst + ·)
  setEnv s
    { envOf s with
      blocked := (envOf s).blocked ++ ps.map fun i => (x.ctx, i)
      ended := (envOf s).ended ++ ps.map fun i => (p, x.ctx, i, bindAt s x.ctx (i * 2 ^ 21)) }

theorem hartOf_stopHart (p : Nat) (s : State) (h k : Nat) :
    hartOf (stopHart p s h) k = if k = h then { stopCounts s (hartOf s h) with running := false } else hartOf s k :=
  hartOf_setHart s h k { stopCounts s (hartOf s h) with running := false }

/-- The step leaves the pairs' bytes and turns. -/
structure PairsSame (s t : State) : Prop where
  bytes : (envOf t).bytes = (envOf s).bytes
  turn : (envOf t).turn = (envOf s).turn

theorem PairsSame.refl (s : State) : PairsSame s s := ⟨rfl, rfl⟩

theorem PairsSame.trans {s t u : State} (h₁ : PairsSame s t) (h₂ : PairsSame t u) : PairsSame s u :=
  ⟨h₂.bytes.trans h₁.bytes, h₂.turn.trans h₁.turn⟩

theorem PairsSame.mbBytes {s t : State} (h : PairsSame s t) (p off n : Nat) : mbBytes t p off n = mbBytes s p off n := by
  rw [Machine.mbBytes, Machine.mbBytes, h.bytes]

theorem PairsSame.mbNat {s t : State} (h : PairsSame s t) (p off n : Nat) : mbNat t p off n = mbNat s p off n := by
  rw [Machine.mbNat, Machine.mbNat, h.mbBytes]

theorem PairsSame.turnOf {s t : State} (h : PairsSame s t) (p : Nat) : turnOf t p = turnOf s p := by
  rw [Machine.turnOf, Machine.turnOf, h.turn]

theorem pairsSame_stopHarts (p : Nat) (hs : List Nat) (s : State) : PairsSame s (hs.foldl (stopHart p) s) := by
  induction hs generalizing s with
  | nil => exact .refl s
  | cons h hs ih =>
    have first : PairsSame s (stopHart p s h) := ⟨rfl, rfl⟩
    exact first.trans (ih _)

theorem stopHarts_stops (p k : Nat) (hs : List Nat) (s : State) (h : k ∈ hs ∨ (hartOf s k).running = false) :
    (hartOf (hs.foldl (stopHart p) s) k).running = false := by
  induction hs generalizing s with
  | nil => exact h.resolve_left List.not_mem_nil
  | cons j hs ih =>
    refine ih (stopHart p s j) ?_
    rw [hartOf_stopHart]
    by_cases hk : k = j
    · rw [if_pos hk]
      exact .inr rfl
    · rw [if_neg hk]
      exact h.imp_left fun hin => (List.mem_cons.mp hin).resolve_left hk

theorem mem_hartsOfPair {s : State} {p k : Nat} (hrole : (hartOf s k).role = .env) (hpair : (hartOf s k).pair = p) :
    k ∈ hartsOfPair s p := by
  have hin : (k, hartOf s k) ∈ (envOf s).harts := mem_of_tget_ne fun he => by
    have : (hartOf s k).role = .idle := by rw [hartOf, he]
    rw [this] at hrole
    cases hrole
  exact List.mem_map.mpr ⟨_, List.mem_filter.mpr ⟨hin, decide_eq_true ⟨hrole, hpair⟩⟩, rfl⟩

theorem stopEpisode_eq (s : State) (p : Nat) : ∃ due n, stopEpisode s p =
    postPod { (hartsOfPair s p).foldl (stopHart p) s with fresh := n } due phHub (.episodeScrub p) := ⟨_, _, rfl⟩

theorem pairsSame_stopEpisode (s : State) (p : Nat) : PairsSame s (stopEpisode s p) := by
  obtain ⟨due, n, heq⟩ := stopEpisode_eq s p
  rw [heq]
  have h := pairsSame_stopHarts p (hartsOfPair s p) s
  exact ⟨h.bytes, h.turn⟩

theorem stopEpisode_stops {s : State} {p k : Nat} (hrole : (hartOf s k).role = .env) (hpair : (hartOf s k).pair = p) :
    (hartOf (stopEpisode s p) k).running = false := by
  obtain ⟨due, n, heq⟩ := stopEpisode_eq s p
  rw [heq]
  exact stopHarts_stops p k _ s (.inl (mem_hartsOfPair hrole hpair))

/-! An observation becomes final (R275). -/

theorem mbKey_add (p off : Nat) : mbKey p off = p * 0x4000 + off := rfl

/-- The pair's bytes with the stamps `a` and `b` of its action. -/
def stampedBytes (t : Table Byte) (p : Nat) (a b : List Byte) : Table Byte :=
  tputs 0 (tputs 0 t (mbKey p 0x2000) a) (mbKey p 0x2018) b

theorem copyStamps_bytes (s : State) (p : Nat) :
    (envOf (copyStamps s p)).bytes = stampedBytes (envOf s).bytes p (mbBytes s p 0 12) (mbBytes s p 24 8) := rfl

/-- The pair's bytes at an end, with the header's bytes `h` and the payload `pay`. -/
def endedBytes (t : Table Byte) (p : Nat) (a b h pay : List Byte) : Table Byte :=
  tputs 0 (tputs 0 (tputs 0 (stampedBytes t p a b) (mbKey p 0x200C) h) (mbKey p 0x2014) (leBytes 2 0)) (mbKey p 0x3000) pay

/-- STATUS, FLAGS and CAUSE at an end. -/
def endHeader (fl status cause : Nat) : List Byte :=
  leBytes 1 status ++ leBytes 1 (if fl.testBit 1 then fl else fl + 2) ++ leBytes 1 cause

/-- The pair's bytes are final, and its turn is the core's. -/
def finalPair (s : State) (p : Nat) (h pay : List Byte) : State :=
  setTurn (putMb (putMb (putMb (copyStamps s p) p (obsHdr + 12) h) p (obsHdr + 20) (leBytes 2 0)) p obsPay pay) p false

theorem mbEnd_eq (s : State) (p status cause : Nat) : mbEnd s p status cause =
    stopEpisode (finalPair s p (endHeader (mbFlags s p obsHdr) status cause) (leBytes 4096 0)) p := by
  unfold mbEnd finalPair endHeader
  dsimp only

theorem finalPair_bytes (s : State) (p : Nat) (h pay : List Byte) : (envOf (finalPair s p h pay)).bytes =
    endedBytes (envOf s).bytes p (mbBytes s p 0 12) (mbBytes s p 24 8) h pay := rfl

theorem hartOf_putMb (s : State) (p off k : Nat) (bs : List Byte) : hartOf (putMb s p off bs) k = hartOf s k := rfl

theorem hartOf_setTurn (s : State) (p k : Nat) (b : Bool) : hartOf (setTurn s p b) k = hartOf s k := rfl

theorem finalPair_hart (s : State) (p k : Nat) (h pay : List Byte) : hartOf (finalPair s p h pay) k = hartOf s k := by
  unfold finalPair copyStamps
  rw [hartOf_setTurn, hartOf_putMb, hartOf_putMb, hartOf_putMb, hartOf_putMb, hartOf_putMb]

theorem finalPair_turn (s : State) (p : Nat) (h pay : List Byte) : turnOf (finalPair s p h pay) p = false :=
  tget_tset_self false (envOf s).turn p false

theorem endHeader_length (fl status cause : Nat) : (endHeader fl status cause).length = 3 := by
  rw [endHeader, List.length_append, List.length_append, leBytes_length, leBytes_length, leBytes_length]

theorem tbytes_one (t : Table Byte) (a : Nat) : tbytes 0 t a 1 = [tget 0 t a] := rfl

/-- An end's STATUS and CAUSE are read back, its payload is what was put, and no other pair changes. -/
theorem endedBytes_reads (t : Table Byte) (p fl status cause : Nat) {a b pay : List Byte} (ha : a.length = 12) (hb : b.length = 8)
    (hp : pay.length ≤ 4096) :
    let u := endedBytes t p a b (endHeader fl status cause) pay
    tbytes 0 u (mbKey p 0x200C) 1 = leBytes 1 status ∧ tbytes 0 u (mbKey p 0x200E) 1 = leBytes 1 cause ∧
      tbytes 0 u (mbKey p 0x3000) pay.length = pay ∧
      ∀ q off n, q ≠ p → off + n ≤ 0x4000 → tbytes 0 u (mbKey q off) n = tbytes 0 t (mbKey q off) n := by
  intro u
  have hlen := endHeader_length fl status cause
  have hhead (o : Nat) (ho : o < 3) : tget 0 u (mbKey p (0x200C + o)) = (endHeader fl status cause).getD o 0 := by
    have hpay : tget 0 u (mbKey p (0x200C + o)) = tget 0 (tputs 0 (tputs 0 (stampedBytes t p a b) (mbKey p 0x200C)
        (endHeader fl status cause)) (mbKey p 0x2014) (leBytes 2 0)) (mbKey p (0x200C + o)) :=
      tget_tputs_ne 0 _ _ _ _ (by rw [mbKey_add, mbKey_add]; omega)
    rw [hpay, tget_tputs_ne 0 _ _ _ _ (by rw [mbKey_add, mbKey_add]; omega), tget_tputs,
      if_pos (by rw [mbKey_add, mbKey_add, hlen]; omega), mbKey_add, mbKey_add, show p * 0x4000 + (0x200C + o) - (p * 0x4000 + 0x200C) = o by omega]
  refine ⟨?_, ?_, tbytes_tputs .., fun q off n hq hn => ?_⟩
  · exact (tbytes_one ..).trans (congrArg (fun x => [x]) (hhead 0 (by omega)))
  · exact (tbytes_one ..).trans (congrArg (fun x => [x]) (hhead 2 (by omega)))
  · have apart (o m : Nat) (hm : o + m ≤ 0x4000) : mbKey q off + n ≤ mbKey p o ∨ mbKey p o + m ≤ mbKey q off := by
      rw [mbKey_add, mbKey_add]
      omega
    have hfar {v : Table Byte} (o : Nat) {bs : List Byte} (m : Nat) (hm : bs.length ≤ m) (ho : o + m ≤ 0x4000) :
        tbytes 0 (tputs 0 v (mbKey p o) bs) (mbKey q off) n = tbytes 0 v (mbKey q off) n :=
      tbytes_tputs_ne (by have := apart o m ho; omega)
    exact (hfar 0x3000 4096 hp (by omega)).trans ((hfar 0x2014 2 (leBytes_length ..).le (by omega)).trans
      ((hfar 0x200C 3 hlen.le (by omega)).trans ((hfar 0x2018 8 hb.le (by omega)).trans (hfar 0x2000 12 ha.le (by omega)))))

/-- What an end leaves at its pair and at the others. -/
theorem mbEnd_ends (s : State) (p : Nat) {status cause : Nat} (hs : status < 256) (hc : cause < 256) :
    let t := mbEnd s p status cause
    mbStatus t p 0x2000 = status ∧ mbNat t p 0x200E 1 = cause ∧ turnOf t p = false ∧
      mbBytes t p 0x3000 4096 = List.replicate 4096 0 ∧
      (∀ q off n, q ≠ p → off + n ≤ 0x4000 → mbBytes t q off n = mbBytes s q off n) ∧
      ∀ k, (hartOf s k).role = .env → (hartOf s k).pair = p → (hartOf t k).running = false := by
  intro t
  obtain ⟨pay, hpaydef⟩ : ∃ x : List Byte, x = leBytes 4096 0 := ⟨_, rfl⟩
  have hl : pay.length = 4096 := by rw [hpaydef, leBytes_length]
  have ht : t = stopEpisode (finalPair s p (endHeader (mbFlags s p obsHdr) status cause) pay) p := by
    rw [hpaydef]
    exact mbEnd_eq ..
  have same : PairsSame (finalPair s p (endHeader (mbFlags s p obsHdr) status cause) pay) t := by
    rw [ht]
    exact pairsSame_stopEpisode ..
  have hread := endedBytes_reads (envOf s).bytes p (mbFlags s p obsHdr) status cause (mbBytes_length s p 0 12)
    (mbBytes_length s p 24 8) hl.le
  rw [← finalPair_bytes] at hread
  obtain ⟨hstatus, hcause, hpay, hothers⟩ := hread
  refine ⟨?_, ?_, ?_, ?_, fun q off n hq hn => ?_, fun k hrole hpair => ?_⟩
  · rw [mbStatus, same.mbNat, mbNat, mbBytes, hstatus, leNat_leBytes]
    exact Nat.mod_eq_of_lt hs
  · rw [same.mbNat, mbNat, mbBytes, hcause, leNat_leBytes]
    exact Nat.mod_eq_of_lt hc
  · exact (same.turnOf p).trans (finalPair_turn ..)
  · rw [same.mbBytes, ← leBytes_zero, ← hpaydef, ← hl]
    exact hpay
  · exact (same.mbBytes q off n).trans (hothers q off n hq hn)
  · rw [ht]
    exact stopEpisode_stops ((congrArg Hart.role (finalPair_hart ..)).trans hrole) ((congrArg Hart.pair (finalPair_hart ..)).trans hpair)

/-- A kill of an episode that is not final. -/
structure Kills (s t : State) (p cause : Nat) : Prop where
  status : mbStatus t p 0x2000 = 4
  cause : mbNat t p 0x200E 1 = cause
  turn : turnOf t p = false
  payload : mbBytes t p 0x3000 4096 = List.replicate 4096 0
  harts : ∀ k, (hartOf s k).role = .env → (hartOf s k).pair = p → (hartOf t k).running = false

theorem killPair_kills {s : State} {p cause : Nat} (hc : cause < 256) (h : mbFinal (mbStatus s p 0x2000) = false) :
    Kills s (killPair s p 4 cause) p cause := by
  obtain ⟨hstatus, hcause, hturn, hpay, -, hharts⟩ := mbEnd_ends s p (status := 4) (by omega) hc
  have henv : envOf (killPair s p 4 cause) = envOf (mbEnd s p 4 cause) := by
    rw [killPair, if_neg (by rw [show obsHdr = 0x2000 from rfl, h]; decide)]
    exact (offCore_wakeSnaps _).env
  have same : PairsSame (mbEnd s p 4 cause) (killPair s p 4 cause) := ⟨by rw [henv], by rw [henv]⟩
  refine ⟨?_, ?_, ?_, ?_, fun k hr hp => ?_⟩
  · rw [mbStatus, same.mbNat]
    exact hstatus
  · rw [same.mbNat]
    exact hcause
  · rw [same.turnOf]
    exact hturn
  · rw [same.mbBytes]
    exact hpay
  · rw [hartOf, henv]
    exact hharts k hr hp

theorem killPair_final {s : State} {p cause : Nat} (h : mbFinal (mbStatus s p 0x2000) = true) : killPair s p 4 cause = s := if_pos h

/-! Budgets (R282). -/

/-- Budget `b` of a running hart's count is passed. -/
def Passed (s : State) (x : Hart) (b : Word) (since : Option Nat) : Prop :=
  x.running = true ∧ b ≠ 0 ∧ ∃ t₀, since = some t₀ ∧ t₀ + (4 * (b.toNat + 1) / 5 + 1) ≤ s.pod

theorem passed_iff (s : State) (x : Hart) (b : Word) (since : Option Nat) :
    Passed s x b since ↔ x.running = true ∧ overBudget s b since = true := by
  refine and_congr_right fun _ => ?_
  rw [overBudget, Bool.and_eq_true, bne_iff_ne]
  refine and_congr_right fun _ => ?_
  cases since with
  | none => simp
  | some t =>
    simp only [Option.some.injEq, exists_eq_left', overrunCycles, Option.map_some, Option.getD_some]
    exact decide_eq_true_iff.symm

section
variable {s : State} {h : Nat}

theorem stepOverrun_kills (hp : Passed s (hartOf s h) (hartOf s h).stepBudget (hartOf s h).stepFrom)
    (ha : mbFinal (mbStatus s (hartOf s h).pair 0x2000) = false) :
    ∃ t, exec (.stepBudgetOverrun h) s = .next t ∧ Kills s t (hartOf s h).pair 1 := by
  rw [exec_stepBudgetOverrun, if_pos ((passed_iff ..).mp hp)]
  exact ⟨_, rfl, killPair_kills (by omega) ha⟩

theorem stepOverrun_idle (hp : ¬Passed s (hartOf s h) (hartOf s h).stepBudget (hartOf s h).stepFrom) :
    exec (.stepBudgetOverrun h) s = .next s := by
  rw [exec_stepBudgetOverrun, if_neg fun hx => hp ((passed_iff ..).mpr hx)]

theorem episodeOverrun_kills (hp : Passed s (hartOf s h) (hartOf s h).epBudget (hartOf s h).epFrom)
    (ha : mbFinal (mbStatus s (hartOf s h).pair 0x2000) = false) :
    ∃ t, exec (.episodeBudgetOverrun h) s = .next t ∧ Kills s t (hartOf s h).pair 2 := by
  rw [exec_episodeBudgetOverrun, if_pos ((passed_iff ..).mp hp)]
  exact ⟨_, rfl, killPair_kills (by omega) ha⟩

theorem episodeOverrun_idle (hp : ¬Passed s (hartOf s h) (hartOf s h).epBudget (hartOf s h).epFrom) :
    exec (.episodeBudgetOverrun h) s = .next s := by
  rw [exec_episodeBudgetOverrun, if_neg fun hx => hp ((passed_iff ..).mpr hx)]

/-! HART_START (R282, R321). -/

theorem hartStart_idle (hr : (hartOf s h).role = .idle) : exec (.hartStart h) s = .next s := by
  rw [exec_hartStart, execHartStart]
  dsimp only
  rw [hr]

theorem tget_startRegs (x : Hart) {i j : Nat} (a b r : Nat) (h : i ≠ j) : tget 0 (startRegs x [(i, a), (j, b)]) r =
    if r = i then BitVec.ofNat 64 a else if r = j then BitVec.ofNat 64 b else tget 0 x.x r := by
  rw [startRegs, List.foldl_cons, List.foldl_cons, List.foldl_nil]
  by_cases hj : r = j
  · rw [hj, tget_tset_self, if_neg fun hij => h hij.symm, if_pos rfl]
  · rw [tget_tset_ne _ _ _ hj]
    by_cases hi : r = i
    · rw [hi, tget_tset_self, if_pos rfl]
    · rw [tget_tset_ne _ _ _ hi, if_neg hi, if_neg hj]

/-- An ENV hart in its episode. -/
def startedHart (s : State) (x : Hart) : Hart :=
  { x with
    epid := BitVec.ofNat 24 (episodeOf (envOf s).bytes x.pair), pc := x.base + BitVec.ofNat 64 (4 * x.entry)
    x := startRegs x [(10, mbAper + x.pair * 0x4000), (11, x.base.toNat)], running := true
    stepUsed := 0, stepFrom := none, epUsed := 0, epFrom := some s.pod }

theorem hartStart_starts (hr : (hartOf s h).role = .env) (hw : windowBlocked s (hartOf s h) = false)
    (hlo : (hartOf s h).base ≤ (hartOf s h).base + BitVec.ofNat 64 (4 * (hartOf s h).entry))
    (hhi : (hartOf s h).base + BitVec.ofNat 64 (4 * (hartOf s h).entry) < (hartOf s h).limit) :
    ∃ t, exec (.hartStart h) s = .next t ∧ t.cores = s.cores ∧ (envOf t).bytes = (envOf s).bytes ∧
      hartOf t h = startedHart s (hartOf s h) ∧
      ((hartOf s h).epBudget ≠ 0 → ⟨.pod, s.pod + (4 * ((hartOf s h).epBudget.toNat + 1) / 5 + 1), phHub, none,
        .event (.episodeBudgetOverrun h)⟩ ∈ t.agenda) := by
  obtain ⟨u, hu⟩ : ∃ u, u = setHart s h (startedHart s (hartOf s h)) := ⟨_, rfl⟩
  have hself : hartOf u h = startedHart s (hartOf s h) := by rw [hu, hartOf_setHart, if_pos rfl]
  have hx : exec (.hartStart h) s = .next (if (hartOf s h).epBudget = 0 then u
      else postPod u (overrunAt u (hartOf s h).epBudget u.pod) phHub (.episodeBudgetOverrun h)) := by
    rw [exec_hartStart, execHartStart, hu]
    unfold startedHart
    dsimp only
    rw [hr]
    dsimp only
    rw [hw, if_neg Bool.false_ne_true, if_pos ⟨hlo, hhi⟩]
  have hpod : u.pod = s.pod := by rw [hu]; rfl
  have hcores : u.cores = s.cores ∧ (envOf u).bytes = (envOf s).bytes := by rw [hu]; exact ⟨rfl, rfl⟩
  by_cases hb : (hartOf s h).epBudget = 0
  · rw [if_pos hb] at hx
    exact ⟨u, hx, hcores.1, hcores.2, hself, fun hne => absurd hb hne⟩
  · rw [if_neg hb] at hx
    refine ⟨_, hx, hcores.1, hcores.2, hself, fun _ => ?_⟩
    have hat : overrunAt u (hartOf s h).epBudget u.pod = s.pod + (4 * ((hartOf s h).epBudget.toNat + 1) / 5 + 1) := by
      rw [overrunAt, overrunCycles, hpod]
      omega
    rw [hat]
    exact List.mem_append_right _ (List.mem_singleton_self _)

/-- A CHECKER hart that runs. -/
def checkingHart (x : Hart) : Hart :=
  let a := mbAper + x.chkFirst * 0x4000 + obsHdr
  { x with
    pc := x.chkBase + BitVec.ofNat 64 (4 * x.entry), x := startRegs x [(8, a), (18, a + 0x4000 * x.chkCount)], running := true }

theorem hartStart_checks (hr : (hartOf s h).role = .checker)
    (hlo : (hartOf s h).chkBase ≤ (hartOf s h).chkBase + BitVec.ofNat 64 (4 * (hartOf s h).entry))
    (hhi : (hartOf s h).chkBase + BitVec.ofNat 64 (4 * (hartOf s h).entry) < (hartOf s h).chkLimit) :
    ∃ t, exec (.hartStart h) s = .next t ∧ t.cores = s.cores ∧ t.agenda = s.agenda ∧ hartOf t h = checkingHart (hartOf s h) := by
  have hx : exec (.hartStart h) s = .next (setHart s h (checkingHart (hartOf s h))) := by
    rw [exec_hartStart, execHartStart]
    unfold checkingHart
    dsimp only
    rw [hr]
    dsimp only
    rw [if_pos ⟨hlo, hhi⟩]
  exact ⟨_, hx, rfl, rfl, by rw [hartOf_setHart, if_pos rfl]⟩

end

end Sys2Proof.Machine
end

section
/-! PROOF. Harts' stores: taken, waiting, refused; publishes that complete (R270, R274, R276, R277, R282). -/

namespace Sys2Proof.Machine

theorem exec_hartTakenStore (h : Nat) (s : State) : exec (.hartTakenStore h) s =
    .next (hartStore s h (hartOf s h).pair 0x0C [2]) := rfl
theorem exec_hartObservationStore (h off : Nat) (bs : List Byte) (s : State) : exec (.hartObservationStore h off bs) s =
    .next (hartStore s h (hartOf s h).pair off bs) := rfl
theorem exec_hartPublish (h : Nat) (done : Bool) (s : State) : exec (.hartPublish h done) s =
    .next (hartStore s h (hartOf s h).pair 0x200C [if done then 3 else 1]) := by
  cases done
  · rfl
  · rfl
theorem exec_checkerRewardStore (h q : Nat) (r : BitVec 32) (s : State) : exec (.checkerRewardStore h q r) s =
    .next (hartStore s h q 0x2010 (leBytes 4 r.toNat)) := rfl
theorem exec_hartException (h : Nat) (s : State) : exec (.hartException h) s = .next (hartFault s h) := rfl

/-! A hart's fault. -/

/-- A fault of hart `h` is told of, and acted on. -/
structure Faults (s t : State) (h : Nat) : Prop where
  told : (envOf t).faults = (envOf s).faults ++ [h]
  checker : (hartOf s h).role = .checker → (hartOf t h).role = .idle ∧ (hartOf t h).running = false
  env : (hartOf s h).role = .env → mbNat s (hartOf s h).pair 0 3 = (hartOf s h).epid.toNat →
    mbFinal (mbStatus s (hartOf s h).pair 0x2000) = false →
      mbStatus t (hartOf s h).pair 0x2000 = 4 ∧ mbNat t (hartOf s h).pair 0x200E 1 = 3

theorem hartFault_faults (s : State) (h : Nat) : Faults s (hartFault s h) h := by
  refine ⟨(onPairs_hartFault s h).faults, fun hr => ?_, fun hr hep hf => ?_⟩
  · have heq : hartFault s h = postEvent (setHart (faulted s h) h (idleHart (faulted s h) (hartOf s h)))
        (hartPart (faulted s h) h) .program evHartFault [h] [] := by
      rw [hartFault]
      dsimp only
      rw [hr]
      rfl
    rw [heq, hartOf, (logged_postEvent ..).env, ← hartOf, hartOf_setHart, if_pos rfl]
    exact ⟨rfl, rfl⟩
  · have heq : hartFault s h = killPair (faulted s h) (hartOf s h).pair 4 3 := by
      rw [hartFault]
      dsimp only
      rw [hr]
      exact if_pos hep
    have kills := killPair_kills (s := faulted s h) (p := (hartOf s h).pair) (cause := 3) (by omega) hf
    rw [heq]
    exact ⟨kills.status, kills.cause⟩

/-! A store that the hub takes. -/

/-- The store as an access. -/
def storeAccess (s : State) (h p off : Nat) (bs : List Byte) : Untimed :=
  ⟨agentId 4 h, .mailbox, true, mbKey p off, bs, 0, false, 0, s.pod, false⟩

/-- The hub takes a store: it completes later than now, and after the hart's stores taken before. -/
structure Takes (s t : State) (a : Untimed) : Prop where
  pending : (dramOf t).pending = (dramOf s).pending ++ [a]
  bytes : (envOf t).bytes = (envOf s).bytes
  cores : t.cores = s.cores
  posted : ∃ due, s.pod < due ∧ ⟨.pod, due, phUntimed, none, .event (.untimedWriteComplete a)⟩ ∈ t.agenda

/-- When a hart's store completes: no earlier than the hart's stores before it. -/
def storeDue (s : State) (h first : Nat) : Nat :=
  s.agenda.foldl (fun m j =>
    match j.task with
    | .event (.untimedWriteComplete b) => if b.space = .mailbox ∧ b.agent = agentId 4 h then max m j.due else m
    | _ => m) first

theorem le_foldl {α : Type} {f : Nat → α → Nat} (hf : ∀ m a, m ≤ f m a) (as : List α) (m : Nat) : m ≤ as.foldl f m := by
  induction as generalizing m with
  | nil => exact Nat.le_refl m
  | cons a as ih => exact (hf m a).trans (ih (f m a))

theorem le_storeDue (s : State) (h first : Nat) : first ≤ storeDue s h first := by
  refine le_foldl (fun m j => ?_) s.agenda first
  split
  · split
    · exact Nat.le_max_left ..
    · exact Nat.le_refl m
  · exact Nat.le_refl m

/-- The store waits for its completion. -/
def admitStore (s : State) (h p off : Nat) (bs : List Byte) : State :=
  let u := { s with fresh := s.fresh + 1 }
  postPod (setDram u { dramOf u with pending := (dramOf u).pending ++ [storeAccess u h p off bs] })
    (storeDue u h (u.pod + 1 + Config.untimedDelay s.fresh % 448)) phUntimed (.untimedWriteComplete (storeAccess u h p off bs))

theorem admitStore_takes (s : State) (h p off : Nat) (bs : List Byte) :
    Takes s (admitStore s h p off bs) (storeAccess s h p off bs) := by
  refine ⟨rfl, rfl, rfl, _, ?_, List.mem_append_right _ (List.mem_singleton_self _)⟩
  have := le_storeDue { s with fresh := s.fresh + 1 } h (s.pod + 1 + Config.untimedDelay s.fresh % 448)
  show s.pod < storeDue { s with fresh := s.fresh + 1 } h (s.pod + 1 + Config.untimedDelay s.fresh % 448)
  omega

/-- What a store does to the hart's counts. -/
def countStore (s : State) (h off : Nat) : State :=
  if off = actHdr + 12 then startTaken s h
  else if (hartOf s h).role = .env ∧ off = obsHdr + 12 then stopStep s h else s

/-- The publish of hart `h` waits for a fence. -/
def FenceWaits (s : State) (h : Nat) : Prop := (hartOf s h).role = .env ∧ fenceHolds s h = true

theorem hartStore_eq (s : State) (h p off : Nat) (bs : List Byte) : hartStore s h p off bs =
    if ((hartOf s h).role = .env ∧ off = obsHdr + 12) ∧ fenceHolds s h = true then
      postPod s (s.pod + 1) phUntimed (.untimedAccessReceive ⟨agentId 4 h, .mailbox, true, mbKey p off, bs, 0, false, 0, 0, false⟩)
    else if storeAllowed s (hartView s h) (hartOf s h) p off bs = true then admitStore (countStore s h off) h p off bs
    else hartFault s h := rfl

section
variable {s : State} {h p off : Nat} {bs : List Byte}

theorem hartStore_waits (hw : FenceWaits s h) : hartStore s h p 0x200C bs =
    post s ⟨.pod, s.pod + 1, phUntimed, none,
      .event (.untimedAccessReceive ⟨agentId 4 h, .mailbox, true, p * 0x4000 + 0x200C, bs, 0, false, 0, 0, false⟩)⟩ := by
  rw [hartStore_eq]
  exact if_pos ⟨⟨hw.1, rfl⟩, hw.2⟩

theorem hartStore_passes (hw : off = 0x200C → ¬FenceWaits s h) : hartStore s h p off bs =
    if storeAllowed s (hartView s h) (hartOf s h) p off bs = true then admitStore (countStore s h off) h p off bs
    else hartFault s h := by
  rw [hartStore_eq]
  exact if_neg fun hx => hw hx.1.2 ⟨hx.1.1, hx.2⟩

theorem hartStore_refused (hw : off = 0x200C → ¬FenceWaits s h) (hok : storeAllowed s (hartView s h) (hartOf s h) p off bs = false) :
    Faults s (hartStore s h p off bs) h := by
  rw [hartStore_passes hw, if_neg (by rw [hok]; exact Bool.false_ne_true)]
  exact hartFault_faults s h

/-- The step changes a hart's counts and posts: nothing else of pod time, cores, pairs' bytes or device memory. -/
structure CountsOnly (s t : State) : Prop where
  pod : t.pod = s.pod
  dram : dramOf t = dramOf s
  bytes : (envOf t).bytes = (envOf s).bytes
  cores : t.cores = s.cores

theorem countsOnly_countStore : CountsOnly s (countStore s h off) := by
  unfold countStore startTaken
  dsimp only
  split
  · split
    · exact ⟨rfl, rfl, rfl, rfl⟩
    · exact ⟨rfl, rfl, rfl, rfl⟩
  · split
    · exact ⟨rfl, rfl, rfl, rfl⟩
    · exact ⟨rfl, rfl, rfl, rfl⟩

theorem hartStore_takes (hw : off = 0x200C → ¬FenceWaits s h) (hok : storeAllowed s (hartView s h) (hartOf s h) p off bs = true) :
    Takes s (hartStore s h p off bs) (storeAccess s h p off bs) := by
  rw [hartStore_passes hw, if_pos hok]
  have counts := countsOnly_countStore (s := s) (h := h) (off := off)
  have takes := admitStore_takes (countStore s h off) h p off bs
  rw [show storeAccess (countStore s h off) h p off bs = storeAccess s h p off bs by
    rw [storeAccess, storeAccess, counts.pod]] at takes
  obtain ⟨hpend, hbytes, hcores, due, hdue, hin⟩ := takes
  refine ⟨hpend.trans (by rw [counts.dram]), hbytes.trans counts.bytes, hcores.trans counts.cores, due, ?_, hin⟩
  rw [← counts.pod]
  exact hdue

/-- The count of a step starts. -/
structure StartsStep (s t : State) (h : Nat) : Prop where
  hart : hartOf t h = { hartOf s h with stepUsed := 0, stepFrom := some s.pod }
  watch : (hartOf s h).stepBudget ≠ 0 → ⟨.pod, s.pod + (4 * ((hartOf s h).stepBudget.toNat + 1) / 5 + 1), phHub, none,
    .event (.stepBudgetOverrun h)⟩ ∈ t.agenda

theorem admitStore_hart (s : State) (h p off : Nat) (bs : List Byte) (k : Nat) : hartOf (admitStore s h p off bs) k = hartOf s k := rfl

theorem overrunAt_now {s : State} {b : Word} : overrunAt s b s.pod = s.pod + (4 * (b.toNat + 1) / 5 + 1) := by
  rw [overrunAt, overrunCycles]
  omega

theorem startTaken_starts : StartsStep s (startTaken s h) h := by
  have hself (v : State) : hartOf (setHart v h { hartOf s h with stepUsed := 0, stepFrom := some s.pod }) h =
      { hartOf s h with stepUsed := 0, stepFrom := some s.pod } := by rw [hartOf_setHart, if_pos rfl]
  unfold startTaken
  dsimp only
  split
  next hb => exact ⟨hself s, fun hne => absurd hb hne⟩
  next =>
    refine ⟨hself s, fun _ => List.mem_append_right _ ?_⟩
    rw [← overrunAt_now]
    exact List.mem_singleton_self _

theorem hartStore_startsStep (hok : storeAllowed s (hartView s h) (hartOf s h) p 0x0C bs = true) :
    StartsStep s (hartStore s h p 0x0C bs) h := by
  rw [hartStore_passes (fun hx => absurd hx (by decide)), if_pos hok]
  have starts := startTaken_starts (s := s) (h := h)
  exact ⟨starts.hart, fun hb => List.mem_append_left _ (starts.watch hb)⟩

/-- The count of a step stops at a publish. -/
structure StopsStep (s t : State) (h : Nat) : Prop where
  still : (hartOf t h).stepFrom = none
  used : ∀ t₀, (hartOf s h).stepFrom = some t₀ → (hartOf t h).stepUsed = BitVec.ofNat 64 (5 * (s.pod - t₀) / 4)

/-- A store of an observation's STATUS that may be made is an ENV hart's. -/
theorem role_of_publish {t : Table Byte} {x : Hart} (hok : storeAllowed s t x p 0x200C bs = true) : x.role = .env := by
  rw [storeAllowed] at hok
  dsimp only at hok
  cases hr : x.role with
  | env => rfl
  | idle =>
    rw [hr] at hok
    cases hok
  | checker =>
    rw [hr] at hok
    have h := (Bool.and_eq_true _ _ |>.mp hok).1
    have := of_decide_eq_true h
    exact absurd this.2.2.1 (by decide)

theorem hartStore_stopsStep (hw : ¬FenceWaits s h) (hok : storeAllowed s (hartView s h) (hartOf s h) p 0x200C bs = true) :
    StopsStep s (hartStore s h p 0x200C bs) h := by
  have hcount : countStore s h 0x200C = stopStep s h :=
    (if_neg (by decide)).trans (if_pos ⟨role_of_publish hok, rfl⟩)
  have hhart : hartOf (stopStep s h) h =
      { hartOf s h with stepUsed := countNow s (hartOf s h).stepFrom (hartOf s h).stepUsed, stepFrom := none } := by
    rw [stopStep]
    dsimp only
    rw [hartOf_setHart, if_pos rfl]
  rw [hartStore_passes fun _ => hw, if_pos hok, hcount]
  refine ⟨?_, fun t₀ ht => ?_⟩
  · rw [admitStore_hart, hhart]
  · rw [admitStore_hart, hhart, ht]
    rfl

theorem hartStore_env (h₁ : off ≠ 0x0C) (h₂ : off ≠ 0x200C) (hok : storeAllowed s (hartView s h) (hartOf s h) p off bs = true) :
    (hartStore s h p off bs).hub.env = s.hub.env := by
  have hcount : countStore s h off = s := (if_neg h₁).trans (if_neg fun hx => h₂ hx.2)
  rw [hartStore_passes fun hx => absurd hx h₂, if_pos hok, hcount]
  rfl

end

/-! A publish completes (R274, R276, R277). -/

theorem storeAllowed_publish {s : State} {t : Table Byte} {x : Hart} {p : Nat} {bs : List Byte} (hr : x.role = .env) (hne : bs ≠ [])
    (h : storeAllowed s t x p 0x200C bs = true) : bs = [1] ∨ bs = [3] := by
  rw [storeAllowed] at h
  dsimp only at h
  rw [hr] at h
  dsimp only at h
  obtain ⟨-, hor⟩ := Bool.and_eq_true _ _ |>.mp h
  rcases Bool.or_eq_true _ _ |>.mp hor with hact | hobs
  · exact absurd (of_decide_eq_true hact).1 (by decide)
  · obtain ⟨-, hlast⟩ := Bool.and_eq_true _ _ |>.mp hobs
    rcases Bool.or_eq_true _ _ |>.mp hlast with hpub | hall
    · exact (of_decide_eq_true hpub).2.1
    · have hfirst := List.all_eq_true.mp hall 0 (List.mem_range.mpr (List.length_pos_iff.mpr hne))
      exact absurd hfirst (by decide)

/-- The pair's bytes with the publish `b` made and the stamps of its action copied. -/
def publishedBytes (t : Table Byte) (p : Nat) (b : Byte) : Table Byte :=
  let u := tset 0 t (mbKey p 0x200C) b
  stampedBytes u p (tbytes 0 u (mbKey p 0) 12) (tbytes 0 u (mbKey p 24) 8)

theorem stampedBytes_ne (t : Table Byte) (p o n : Nat) {a b : List Byte} (ha : a.length = 12) (hb : b.length = 8)
    (h₁ : o + n ≤ 0x2000 ∨ 0x200C ≤ o) (h₂ : o + n ≤ 0x2018 ∨ 0x2020 ≤ o) :
    tbytes 0 (stampedBytes t p a b) (mbKey p o) n = tbytes 0 t (mbKey p o) n := by
  rw [stampedBytes]
  refine (tbytes_tputs_ne ?_).trans (tbytes_tputs_ne ?_)
  · rw [hb, mbKey_add, mbKey_add]
    omega
  · rw [ha, mbKey_add, mbKey_add]
    omega

theorem tbytes_tset_ne (t : Table Byte) (i a n : Nat) (b : Byte) (h : i < a ∨ a + n ≤ i) :
    tbytes 0 (tset 0 t i b) a n = tbytes 0 t a n :=
  tbytes_congr a n fun j h1 h2 => tget_tset_ne 0 t b (by omega)

theorem publishedBytes_reads (t : Table Byte) (p : Nat) (b : Byte) :
    let u := publishedBytes t p b
    tbytes 0 u (mbKey p 0x200C) 1 = [b] ∧ tbytes 0 u (mbKey p 0x2000) 12 = tbytes 0 t (mbKey p 0) 12 ∧
      tbytes 0 u (mbKey p 0x2018) 8 = tbytes 0 t (mbKey p 24) 8 ∧
      tbytes 0 u (mbKey p 0x3000) 4096 = tbytes 0 t (mbKey p 0x3000) 4096 := by
  intro u
  obtain ⟨v, hv⟩ : ∃ v, v = tset 0 t (mbKey p 0x200C) b := ⟨_, rfl⟩
  have apart (o n : Nat) (h : o + n ≤ 0x200C ∨ 0x200C < o) : tbytes 0 v (mbKey p o) n = tbytes 0 t (mbKey p o) n := by
    rw [hv]
    exact tbytes_tset_ne _ _ _ _ _ (by rw [mbKey_add, mbKey_add]; omega)
  have ha : (tbytes 0 v (mbKey p 0) 12).length = 12 := tbytes_length ..
  have hb : (tbytes 0 v (mbKey p 24) 8).length = 8 := tbytes_length ..
  have hu : u = stampedBytes v p (tbytes 0 v (mbKey p 0) 12) (tbytes 0 v (mbKey p 24) 8) := by rw [hv]; rfl
  rw [hu]
  refine ⟨?_, ?_, ?_, ?_⟩
  · rw [stampedBytes_ne v p 0x200C 1 ha hb (by omega) (by omega), hv, tbytes_one, tget_tset_self]
  · have hfar : tbytes 0 (stampedBytes v p (tbytes 0 v (mbKey p 0) 12) (tbytes 0 v (mbKey p 24) 8)) (mbKey p 0x2000) 12 =
        tbytes 0 (tputs 0 v (mbKey p 0x2000) (tbytes 0 v (mbKey p 0) 12)) (mbKey p 0x2000) 12 :=
      tbytes_tputs_ne (by rw [mbKey_add, mbKey_add]; omega)
    have hself := tbytes_tputs 0 v (mbKey p 0x2000) (tbytes 0 v (mbKey p 0) 12)
    rw [ha] at hself
    exact hfar.trans (hself.trans (apart 0 12 (by omega)))
  · have hself := tbytes_tputs 0 (tputs 0 v (mbKey p 0x2000) (tbytes 0 v (mbKey p 0) 12)) (mbKey p 0x2018) (tbytes 0 v (mbKey p 24) 8)
    rw [hb] at hself
    exact hself.trans (apart 24 8 (by omega))
  · exact (stampedBytes_ne v p 0x3000 4096 ha hb (by omega) (by omega)).trans (apart 0x3000 4096 (by omega))

theorem mbKey_of_addr (a : Nat) {off : Nat} (h : a % 0x4000 = off) : mbKey (a / 0x4000) off = a := by
  rw [mbKey_add]
  omega

/-- The publish of an ENV hart's observation is done. -/
def published (s : State) (p : Nat) (b : Byte) : State :=
  copyStamps (setEnv s { envOf s with bytes := tset 0 (envOf s).bytes (mbKey p 0x200C) b }) p

theorem bytes_setTurn (s : State) (p : Nat) (b : Bool) : (envOf (setTurn s p b)).bytes = (envOf s).bytes := rfl

theorem published_turn (s : State) (p : Nat) (b : Byte) : turnOf (published s p b) p = turnOf s p := rfl

theorem published_bytes (s : State) (p : Nat) (b : Byte) : (envOf (published s p b)).bytes = publishedBytes (envOf s).bytes p b := rfl

theorem hartComplete_publishes {s : State} {a : Untimed} {b : Byte} (hd : a.data = [b])
    (hr : (hartOf s (a.agent.toNat % 4096)).role = .env) (hoff : a.addr % 0x4000 = 0x200C)
    (hok : storeAllowed s (envOf s).bytes (hartOf s (a.agent.toNat % 4096)) (a.addr / 0x4000) 0x200C a.data = true) :
    hartComplete s a = wakeSnaps (if a.data = [3] then setTurn (published s (a.addr / 0x4000) b) (a.addr / 0x4000) false
      else published s (a.addr / 0x4000) b) := by
  unfold hartComplete
  dsimp only
  rw [hoff, if_pos hok, if_neg (by rw [hr]; decide), if_pos (show 0x200C = obsHdr + 12 from rfl)]
  have hbytes : hartBytes (envOf s).bytes (a.addr / 0x4000) 0x200C a.data = tset 0 (envOf s).bytes (mbKey (a.addr / 0x4000) 0x200C) b := by
    rw [hd]
    rfl
  rw [hbytes]
  rfl

theorem untimedWriteComplete_publishes {s : State} {a : Untimed} (hs : a.space = .mailbox) (hw : a.write = true) (hne : a.data ≠ [])
    (hr : (hartOf s (a.agent.toNat % 4096)).role = .env) (hoff : a.addr % 0x4000 = 0x200C)
    (hok : storeAllowed s (envOf s).bytes (hartOf s (a.agent.toNat % 4096)) (a.addr / 0x4000) 0x200C a.data = true) :
    ∃ t, exec (.untimedWriteComplete a) s = .next t ∧ [BitVec.ofNat 8 (mbStatus t (a.addr / 0x4000) 0x2000)] = a.data ∧
      mbBytes t (a.addr / 0x4000) 0x2000 12 = mbBytes s (a.addr / 0x4000) 0 12 ∧
      mbBytes t (a.addr / 0x4000) 0x2018 8 = mbBytes s (a.addr / 0x4000) 24 8 ∧
      turnOf t (a.addr / 0x4000) = (if a.data = [3] then false else turnOf s (a.addr / 0x4000)) ∧
      mbBytes t (a.addr / 0x4000) 0x3000 4096 = mbBytes s (a.addr / 0x4000) 0x3000 4096 := by
  generalize hp : a.addr / 0x4000 = p at hok ⊢
  obtain ⟨b, hd⟩ : ∃ b : Byte, a.data = [b] := by
    rcases storeAllowed_publish hr hne hok with h | h
    · exact ⟨_, h⟩
    · exact ⟨_, h⟩
  obtain ⟨v, hv⟩ : ∃ v, v = setDram s { dramOf s with pending := (dramOf s).pending.erase a } := ⟨_, rfl⟩
  have henv : envOf v = envOf s := by rw [hv]; rfl
  have heq : exec (.untimedWriteComplete a) s = .next (hartComplete v a) := by
    rw [exec_untimedWriteComplete, execUntimedWriteComplete, if_pos hs, if_pos hw, hv]
  have hdone : hartComplete v a = wakeSnaps (if a.data = [3] then setTurn (published v p b) p false else published v p b) := by
    rw [← hp]
    refine hartComplete_publishes hd (by rw [hartOf, henv]; exact hr) hoff ?_
    rw [hp, henv, show hartOf v (a.agent.toNat % 4096) = hartOf s (a.agent.toNat % 4096) by rw [hartOf, hartOf, henv], hv]
    exact hok
  obtain ⟨u, hu⟩ : ∃ u, u = if a.data = [3] then setTurn (published v p b) p false else published v p b := ⟨_, rfl⟩
  rw [← hu] at hdone
  have hubytes : (envOf u).bytes = publishedBytes (envOf s).bytes p b := by
    rw [hu, ← henv]
    split
    · exact (bytes_setTurn ..).trans (published_bytes ..)
    · exact published_bytes ..
  have huturn : turnOf u p = if a.data = [3] then false else turnOf s p := by
    rw [hu]
    split
    · rw [turnOf_setTurn, if_pos rfl]
    · rw [published_turn, turnOf, turnOf, henv]
  have hwake : envOf (wakeSnaps u) = envOf u := (offCore_wakeSnaps u).env
  obtain ⟨hst, hstamp, hcyc, hpay⟩ := publishedBytes_reads (envOf s).bytes p b
  rw [← hubytes, ← hwake] at hst hstamp hcyc hpay
  refine ⟨wakeSnaps u, heq.trans (congrArg _ hdone), ?_, hstamp, hcyc, ?_, hpay⟩
  · rw [mbStatus, mbNat, mbBytes, hst, hd, leNat, leNat]
    simp
  · rw [turnOf, hwake]
    exact huturn

end Sys2Proof.Machine
end

section
/-! PROOF. Step deadlines, harts' instructions and the scrub of an episode's windows (R269, R275, R279, R284, O49). -/

namespace Sys2Proof.Machine

theorem exec_stepDeadline (k g : Nat) (s : State) : exec (.stepDeadline k g) s = execStepDeadline k g s := rfl
theorem exec_episodeScrub (p : Nat) (s : State) : exec (.episodeScrub p) s = execEpisodeScrub p s := rfl

/-! A step's deadline (R279). -/

theorem hasHold_eq_false {s : State} {g : Nat} {cause : HoldCause} {key : Nat} :
    hasHold s g cause key = false ↔ ∀ h ∈ (gangOf s g).holds, ¬(h.cause = cause ∧ h.core = key ∧ h.released = none) := by
  simp only [hasHold, List.any_eq_false, decide_eq_true_eq]

/-- The step opens no hold. -/
structure OpensNone (s t : State) : Prop where
  closed : ∀ q cause key, hasHold s q cause key = false → hasHold t q cause key = false

theorem OpensNone.refl (s : State) : OpensNone s s := ⟨fun _ _ _ h => h⟩

theorem OpensNone.trans {s t u : State} (h₁ : OpensNone s t) (h₂ : OpensNone t u) : OpensNone s u :=
  ⟨fun q cause key h => h₂.closed q cause key (h₁.closed q cause key h)⟩

theorem OpensNone.foldl {α : Type} {f : State → α → State} (h : ∀ s a, OpensNone s (f s a)) (as : List α) (s : State) :
    OpensNone s (as.foldl f s) := by
  induction as generalizing s with
  | nil => exact .refl s
  | cons a as ih => exact (h s a).trans (ih _)

theorem opensNone_markReleased (s : State) (g n t : Nat) : OpensNone s (markReleased s g n t) := by
  refine ⟨fun q cause key h => ?_⟩
  by_cases hq : q = g
  · rw [hasHold_eq_false] at h ⊢
    rw [hq, markReleased_holds]
    intro x hx
    obtain ⟨y, hy, rfl⟩ := List.mem_map.mp hx
    rw [releaseHold]
    split
    · exact fun hc => Option.some_ne_none _ hc.2.2
    · exact h y (hq ▸ hy)
  · rw [hasHold, gangOf_markReleased_ne _ _ _ hq]
    exact h

theorem opensNone_leekMembers (s : State) (g : Nat) (m : Instr) : OpensNone s (leekMembers s g m) := by
  refine ⟨fun q cause key h => ?_⟩
  rw [hasHold, (beside_leekMembers ..).gangOf]
  exact h

theorem opensNone_wakeSnaps (s : State) : OpensNone s (wakeSnaps s) :=
  .foldl (fun _ _ => .foldl (fun v (_ : Hold) => .foldl (fun _ _ => (opensNone_markReleased ..).trans (opensNone_leekMembers ..)) _ v) _ _)
    _ s

/-- The pairs `ps` get TIMEOUT. -/
def timeOut (s : State) (ps : List Nat) : State := ps.foldl (fun s p => mbEnd s p 5 0) s

theorem timeOut_cores (s : State) (ps : List Nat) : (timeOut s ps).cores = s.cores :=
  (OnPairs.foldl (fun v p => onPairs_mbEnd v p 5 0) ps s).cores

theorem timeOut_status {p : Nat} {ps : List Nat} {s : State} (h : p ∈ ps ∨ mbStatus s p 0x2000 = 5) :
    mbStatus (timeOut s ps) p 0x2000 = 5 := by
  induction ps generalizing s with
  | nil => exact h.resolve_left List.not_mem_nil
  | cons q ps ih =>
    refine ih (s := mbEnd s q 5 0) ?_
    obtain ⟨hst, -, -, -, hothers, -⟩ := mbEnd_ends s q (status := 5) (cause := 0) (by omega) (by omega)
    by_cases hq : p = q
    · rw [hq]
      exact .inr hst
    · refine h.imp (fun hin => (List.mem_cons.mp hin).resolve_left hq) fun h5 => ?_
      rw [mbStatus, mbNat, hothers p _ 1 hq (by omega)]
      exact h5

theorem deadlineNow_iff (s : State) (q g : Nat) : deadlineNow s q g = true ↔ ((gangOf s q).mode = .held ∨ (gangOf s q).mode = .out) ∧
    (gangOf s q).frozenPod + 1024 * ((grpctlOf s g).toNat / 2 ^ 32) = s.pod := by
  rw [deadlineNow, decide_eq_true_eq, List.mem_cons, List.mem_singleton]

section
variable {s : State} {k g q : Nat} (hq : (s.gangs.map (·.1)).find? (fun q => hasHold s q .mbsnap (k + 1024 * g)) = some q)
include hq

theorem stepDeadline_eq : exec (.stepDeadline k g) s =
    if deadlineNow s q g = true then
      .next (wakeSnaps (releaseHolds (timeOut s ((groupPairs g).filter fun p => !mbReady s p)) q .mbsnap (k + 1024 * g)))
    else .next s := by
  rw [exec_stepDeadline, execStepDeadline, show snapKey k g = k + 1024 * g from rfl, hq]
  dsimp only [Option.getD_some]
  have hheld : hasHold s q .mbsnap (k + 1024 * g) = true := List.find?_some (p := fun q => hasHold s q .mbsnap (k + 1024 * g)) hq
  refine if_congr ?_ rfl rfl
  rw [hheld, Bool.true_and]

theorem stepDeadline_early (h : ¬deadlineNow s q g = true) : exec (.stepDeadline k g) s = .next s := by
  rw [stepDeadline_eq hq, if_neg h]

theorem stepDeadline_passes (h : deadlineNow s q g = true) : ∃ t, exec (.stepDeadline k g) s = .next t ∧
    hasHold t q .mbsnap (k + 1024 * g) = false ∧ t.cores = s.cores ∧
    ∀ i < 64, mbReady s (64 * g + i) = false → mbStatus t (64 * g + i) 0x2000 = 5 := by
  obtain ⟨ps, hps⟩ : ∃ ps, ps = (groupPairs g).filter fun p => !mbReady s p := ⟨_, rfl⟩
  have hx := stepDeadline_eq hq
  rw [if_pos h, ← hps] at hx
  have off : OffCore (timeOut s ps) (wakeSnaps (releaseHolds (timeOut s ps) q .mbsnap (k + 1024 * g))) :=
    (offCore_releaseHolds ..).trans (offCore_wakeSnaps _)
  refine ⟨_, hx, (opensNone_wakeSnaps _).closed _ _ _ (releaseHolds_released ..), off.cores.trans (timeOut_cores ..), fun i hi hr => ?_⟩
  have hin : 64 * g + i ∈ ps := by
    rw [hps]
    exact List.mem_filter.mpr ⟨List.mem_map.mpr ⟨i, List.mem_range.mpr hi, rfl⟩, by rw [hr]; rfl⟩
  have same : PairsSame (timeOut s ps) (wakeSnaps (releaseHolds (timeOut s ps) q .mbsnap (k + 1024 * g))) :=
    ⟨by rw [off.env], by rw [off.env]⟩
  rw [mbStatus, same.mbNat]
  exact timeOut_status (.inl hin)

end

/-- A property that every step of a fold keeps holds after the fold. -/
theorem foldl_keeps {α β : Type} {P : β → Prop} {f : β → α → β} (hf : ∀ b a, P b → P (f b a)) (as : List α) (b : β) (h : P b) :
    P (as.foldl f b) := by
  induction as generalizing b with
  | nil => exact h
  | cons a as ih => exact ih _ (hf b a h)

/-! A hart's instructions (R269, R284). -/

theorem performDeed_hartOp (s : State) (j h : Nat) (op : HartOp) : performDeed s j (.hartOp h op) = hartOp s h op := rfl

theorem setReg_zero (x : Hart) (v : Word) : setReg x 0 v = x := rfl

theorem setReg_pos (x : Hart) {rd : Nat} (v : Word) (h : rd ≠ 0) : setReg x rd v = { x with x := tset 0 x.x rd v } := if_neg h

section
variable (s : State) (h : Nat)

theorem hartOp_reg (rd : Fin 32) (v : Word) : hartOf (hartOp s h (.reg rd v)) h = setReg (hartOf s h) rd.val v :=
  (hartOf_setHart ..).trans (if_pos rfl)

theorem hartOp_readEpid (rd : Fin 32) (user : Bool) :
    hartOf (hartOp s h (.csrRead rd 0x5C1 user)) h = setReg (hartOf s h) rd.val ((hartOf s h).epid.setWidth 64) := by
  have heq : hartOp s h (.csrRead rd 0x5C1 user) = setHart s h (setReg (hartOf s h) rd.val ((hartOf s h).epid.setWidth 64)) :=
    if_neg fun hx => hx.2.1 rfl
  rw [heq, hartOf_setHart, if_pos rfl]

theorem hartCsr_isSome {num : Nat} (lo : 0x5C0 ≤ num) (hi : num ≤ 0x5CB) (x : Hart) : ∃ v, hartCsr s x num = some v := by
  interval_cases num <;> exact ⟨_, rfl⟩

theorem hartOp_readTraps {num : Nat} (lo : 0x5C0 ≤ num) (hi : num ≤ 0x5CB) (h₁ : num ≠ 0x5C1) (h₇ : num ≠ 0x5C7) (rd : Fin 32) :
    (envOf (hartOp s h (.csrRead rd num true))).faults = (envOf s).faults ++ [h] := by
  obtain ⟨v, hv⟩ := hartCsr_isSome s lo hi (hartOf s h)
  rw [hartOp, hv]
  dsimp only
  rw [if_pos ⟨rfl, h₁, h₇⟩]
  exact (onPairs_hartFault s h).faults

theorem hartOp_writeTraps {num : Nat} (lo : 0x5C0 ≤ num) (hi : num ≤ 0x5CB) (v : Word) :
    (envOf (hartOp s h (.csrWrite num v true))).faults = (envOf s).faults ++ [h] := by
  obtain ⟨w, hw⟩ := hartCsr_isSome s lo hi (hartOf s h)
  rw [hartOp, hw]
  exact (congrArg (fun t => (envOf t).faults) (if_pos ⟨rfl, rfl⟩)).trans (onPairs_hartFault s h).faults

theorem hartOf_postOverruns (k : Nat) : hartOf (postOverruns s h) k = hartOf s k := by
  unfold postOverruns
  dsimp only
  repeat' split
  all_goals rfl

theorem hartOp_write (num : Nat) (v : Word) : hartOf (hartOp s h (.csrWrite num v false)) h = setHartCsr (hartOf s h) num v := by
  have heq : hartOp s h (.csrWrite num v false) = if num = 0x5C5 ∨ num = 0x5C6 then
      postOverruns (setHart s h (setHartCsr (hartOf s h) num v)) h else setHart s h (setHartCsr (hartOf s h) num v) := by
    rw [hartOp]
    exact if_neg fun hx => Bool.false_ne_true hx.1
  rw [heq]
  split
  · rw [hartOf_postOverruns, hartOf_setHart, if_pos rfl]
  · rw [hartOf_setHart, if_pos rfl]

end

theorem boundPages_role (x : Hart) : (boundPages x).role = x.role ∧ (boundPages x).roleThree = x.roleThree := by
  unfold boundPages
  dsimp only
  split
  · exact ⟨rfl, rfl⟩
  · exact ⟨rfl, rfl⟩
  · exact ⟨rfl, rfl⟩

theorem boundPages_bounds (x : Hart) : (boundPages x).base = x.base ∧ (boundPages x).limit = x.limit ∧
    (boundPages x).chkBase = x.chkBase ∧ (boundPages x).chkLimit = x.chkLimit := by
  unfold boundPages
  dsimp only
  split
  · exact ⟨rfl, rfl, rfl, rfl⟩
  · exact ⟨rfl, rfl, rfl, rfl⟩
  · exact ⟨rfl, rfl, rfl, rfl⟩

/-- The role that ROLE = `n` gives. -/
def roleOf (n : Nat) : HartRole :=
  match n with
  | 1 => .env
  | 2 => .checker
  | _ => .idle

theorem setHartCsr_role (x : Hart) (v : Word) : (setHartCsr x 0x5C0 v).role = roleOf (v.toNat % 4) ∧
    (setHartCsr x 0x5C0 v).roleThree = decide (v.toNat % 4 = 3) := boundPages_role _

theorem roleOf_idle {n : Nat} (h : n < 4) : roleOf n = .idle ↔ n = 0 ∨ n = 3 := by
  interval_cases n <;> decide

theorem hartCsr_role (s : State) (x : Hart) {n : Nat} (h : n < 4) (hr : x.role = roleOf n) (h3 : x.roleThree = decide (n = 3)) :
    hartCsr s x 0x5C0 = some (BitVec.ofNat 64 n) := by
  have heq : hartCsr s x 0x5C0 = some (match x.role with | .idle => if x.roleThree then 3 else 0 | .env => 1 | .checker => 2) := rfl
  rw [heq, hr, h3]
  interval_cases n <;> rfl

theorem hartCsr_bounds (s : State) (x : Hart) (v : Word) {n : Nat} (h : n ∈ [0x5C3, 0x5C4, 0x5C9, 0x5CA]) :
    hartCsr s (setHartCsr x n v) n = some v := by
  simp only [List.mem_cons, List.not_mem_nil, or_false] at h
  rcases h with rfl | rfl | rfl | rfl
  · exact congrArg some (boundPages_bounds { x with base := v }).1
  · exact congrArg some (boundPages_bounds { x with limit := v }).2.1
  · exact congrArg some (boundPages_bounds { x with chkBase := v }).2.2.1
  · exact congrArg some (boundPages_bounds { x with chkLimit := v }).2.2.2

/-! The scrub (R275). -/

/-- A scrubbed window: its page accepts accesses again, and reads zero where it was bound and the environment's. -/
structure Scrubbed (t : State) (w : Nat × Nat × Nat × Word) : Prop where
  freed : (w.2.1, w.2.2.1) ∉ (envOf t).blocked
  zero : bdV w.2.2.2 = true → bdEnv w.2.2.2 = true → ∀ b, homeAddr w.2.2.2 0 ≤ b → b < homeAddr w.2.2.2 0 + 2 ^ 21 →
    tget 0 (dramOf t).bytes b = 0

/-- The step scrubs: cores, pairs and the agenda stay, pages are freed, bytes zeroed. -/
structure Scrubs (s t : State) : Prop where
  cores : t.cores = s.cores
  agenda : t.agenda = s.agenda
  bytes : (envOf t).bytes = (envOf s).bytes
  blocked : ∀ x ∈ (envOf t).blocked, x ∈ (envOf s).blocked
  zero : ∀ b, tget 0 (dramOf s).bytes b = 0 → tget 0 (dramOf t).bytes b = 0

theorem Scrubs.trans {s t u : State} (h₁ : Scrubs s t) (h₂ : Scrubs t u) : Scrubs s u :=
  ⟨h₂.cores.trans h₁.cores, h₂.agenda.trans h₁.agenda, h₂.bytes.trans h₁.bytes, fun x hx => h₁.blocked x (h₂.blocked x hx),
    fun b hb => h₂.zero b (h₁.zero b hb)⟩

theorem Scrubs.refl (s : State) : Scrubs s s := ⟨rfl, rfl, rfl, fun _ h => h, fun _ h => h⟩

theorem Scrubbed.after {t u : State} {w : Nat × Nat × Nat × Word} (h : Scrubbed t w) (hs : Scrubs t u) : Scrubbed u w :=
  ⟨fun hx => h.freed (hs.blocked _ hx), fun hv he b lo hi => hs.zero b (h.zero hv he b lo hi)⟩

theorem zeroDev_reads (s : State) (a n b : Nat) : tget 0 (dramOf (zeroDev s a n)).bytes b =
    if a ≤ b ∧ b < a + n then 0 else tget 0 (dramOf s).bytes b := by
  refine (tget_filter 0 (dramOf s).bytes (fun i => !decide (a ≤ i ∧ i < a + n)) b).trans ?_
  by_cases hb : a ≤ b ∧ b < a + n
  · rw [if_pos hb, decide_eq_true hb]
    rfl
  · rw [if_neg hb, decide_eq_false hb]
    rfl

theorem scrubs_zeroDev (s : State) (a n : Nat) : Scrubs s (zeroDev s a n) :=
  ⟨rfl, rfl, rfl, fun _ h => h, fun b hb => by rw [zeroDev_reads, hb, ite_self]⟩

/-- A page's bytes are zeroed, and sealed. -/
def zeroWindow (s : State) (e : Word) : State :=
  let s := if bdV e ∧ bdEnv e then zeroDev s (homeAddr e 0) (2 ^ 21) else s
  if bdV e ∧ bdEnv e ∧ bdProt e then
    setDram s { dramOf s with sealed := sealSpan s (dramOf s).sealed (homeAddr e 0) (2 ^ 21) } else s

theorem scrubs_seal (s : State) (t : Table Nat) : Scrubs s (setDram s { dramOf s with sealed := t }) :=
  ⟨rfl, rfl, rfl, fun _ h => h, fun _ h => h⟩

theorem zeroWindow_zeroes (s : State) (e : Word) : Scrubs s (zeroWindow s e) ∧ (bdV e = true → bdEnv e = true →
    ∀ b, homeAddr e 0 ≤ b → b < homeAddr e 0 + 2 ^ 21 → tget 0 (dramOf (zeroWindow s e)).bytes b = 0) := by
  obtain ⟨n, hn⟩ : ∃ n, n = 2 ^ 21 := ⟨_, rfl⟩
  unfold zeroWindow
  dsimp only
  rw [← hn]
  obtain ⟨u, hu⟩ : ∃ u, u = if bdV e = true ∧ bdEnv e = true then zeroDev s (homeAddr e 0) n else s := ⟨_, rfl⟩
  rw [← hu]
  have first : Scrubs s u := by
    rw [hu]
    split
    · exact scrubs_zeroDev ..
    · exact .refl s
  have last : Scrubs u (if bdV e = true ∧ bdEnv e = true ∧ bdProt e = true then
      setDram u { dramOf u with sealed := sealSpan u (dramOf u).sealed (homeAddr e 0) n } else u) := by
    split
    · exact scrubs_seal ..
    · exact .refl u
  refine ⟨first.trans last, fun hv he b lo hi => last.zero b ?_⟩
  rw [hu, if_pos ⟨hv, he⟩, zeroDev_reads, if_pos ⟨lo, hi⟩]

/-- A window's page is no more blocked. -/
def freeWindow (s : State) (w : Nat × Nat × Nat × Word) : State :=
  setEnv s { envOf s with
    blocked := (envOf s).blocked.filter fun b => b ≠ (w.2.1, w.2.2.1)
    ended := (envOf s).ended.erase w }

theorem scrubWindow_eq (s : State) (w : Nat × Nat × Nat × Word) : scrubWindow s w = freeWindow (zeroWindow s w.2.2.2) w := rfl

theorem scrubWindow_scrubs (s : State) (w : Nat × Nat × Nat × Word) : Scrubs s (scrubWindow s w) ∧ Scrubbed (scrubWindow s w) w := by
  obtain ⟨zeroed, zero⟩ := zeroWindow_zeroes s w.2.2.2
  rw [scrubWindow_eq]
  generalize zeroWindow s w.2.2.2 = u at zeroed zero ⊢
  have last : Scrubs u (freeWindow u w) := ⟨rfl, rfl, rfl, fun x hx => (List.mem_filter.mp hx).1, fun _ h => h⟩
  exact ⟨zeroed.trans last, fun hx => of_decide_eq_true (List.mem_filter.mp hx).2 rfl, zero⟩

theorem scrubWindows_scrub (ws : List (Nat × Nat × Nat × Word)) (s : State) :
    Scrubs s (ws.foldl scrubWindow s) ∧ ∀ w ∈ ws, Scrubbed (ws.foldl scrubWindow s) w := by
  induction ws generalizing s with
  | nil => exact ⟨.refl s, fun w hw => absurd hw List.not_mem_nil⟩
  | cons w ws ih =>
    obtain ⟨first, done⟩ := scrubWindow_scrubs s w
    obtain ⟨rest, all⟩ := ih (scrubWindow s w)
    refine ⟨first.trans rest, fun x hx => ?_⟩
    rcases List.mem_cons.mp hx with rfl | hin
    · exact done.after rest
    · exact all x hin

theorem offCore_beginEpisode (s : State) (p : Nat) : OffCore s (beginEpisode s p) :=
  .foldl (fun v _ => offCore_post v _) _ s

theorem agenda_beginEpisode {s : State} {j : Job} (p : Nat) (hj : j ∈ s.agenda) : j ∈ (beginEpisode s p).agenda :=
  foldl_keeps (P := fun v : State => j ∈ v.agenda) (fun _ _ hin => List.mem_append_left _ hin) _ s hj

theorem episodeScrub_scrubs (s : State) (p : Nat) : ∃ t, exec (.episodeScrub p) s = .next t ∧ t.cores = s.cores ∧
    (envOf t).bytes = (envOf s).bytes ∧ (∀ j ∈ s.agenda, j ∈ t.agenda) ∧ ∀ w ∈ (envOf s).ended, w.1 = p → Scrubbed t w := by
  rw [exec_episodeScrub, execEpisodeScrub]
  obtain ⟨ws, hws⟩ : ∃ ws, ws = (envOf s).ended.filter fun w => decide (w.1 = p) := ⟨_, rfl⟩
  rw [← hws]
  obtain ⟨scrubs, all⟩ := scrubWindows_scrub ws s
  generalize ws.foldl scrubWindow s = u at scrubs all ⊢
  have hin {w : Nat × Nat × Nat × Word} (hw : w ∈ (envOf s).ended) (hp : w.1 = p) : w ∈ ws := by
    rw [hws]
    exact List.mem_filter.mpr ⟨hw, decide_eq_true hp⟩
  have hagenda {j : Job} (hj : j ∈ s.agenda) : j ∈ u.agenda := by
    rw [scrubs.agenda]
    exact hj
  split
  · have off := offCore_beginEpisode u p
    refine ⟨_, rfl, off.cores.trans scrubs.cores, ?_, fun j hj => agenda_beginEpisode p (hagenda hj), fun w hw hp => ?_⟩
    · rw [off.env]
      exact scrubs.bytes
    · obtain ⟨freed, zero⟩ := all w (hin hw hp)
      exact ⟨by rw [off.env]; exact freed, by rw [off.dram]; exact zero⟩
  · exact ⟨u, rfl, scrubs.cores, scrubs.bytes, fun j hj => hagenda hj, fun w hw hp => all w (hin hw hp)⟩

/-! O49. -/

/-- The access of a store, as O49 writes it. -/
theorem Takes.now {s t : State} {h p off : Nat} {bs : List Byte} (ht : Takes s t (storeAccess s h p off bs)) :
    ∃ due a, s.pod < due ∧
      a = (⟨agentId 4 h, .mailbox, true, p * 0x4000 + off, bs, 0, false, 0, s.pod, false⟩ : Untimed) ∧
      (dramOf t).pending = (dramOf s).pending ++ [a] ∧ (envOf t).bytes = (envOf s).bytes ∧ t.cores = s.cores ∧
      ⟨.pod, due, phUntimed, none, .event (.untimedWriteComplete a)⟩ ∈ t.agenda := by
  obtain ⟨hpend, hbytes, hcores, due, hdue, hin⟩ := ht
  exact ⟨due, _, hdue, rfl, hpend, hbytes, hcores, hin⟩

/-- Settles O49: a store of a hart that passes is a pending access that completes later; a refused one is the hart's fault. -/
theorem hartsStoreAndStart : Obligations.HartsStoreAndStart := by
  unfold Obligations.HartsStoreAndStart
  refine ⟨fun s h => ?_, fun s a => ?_, fun s h => ?_, fun s k g q hk => ?_, fun s j h rd num v => ?_, fun s p => ?_⟩
  · intro x p takes ok starts stops waits again
    refine ⟨fun hok => ?_, fun off bs hw hok => ?_, fun bs hw => ?_, fun done hw => ?_, fun done hw hok => ?_, fun q r hok => ?_, ?_⟩
    · have started := hartStore_startsStep hok
      exact ⟨_, exec_hartTakenStore .., (hartStore_takes (fun hx => absurd hx (by decide)) hok).now, started.hart, started.watch⟩
    · refine ⟨_, exec_hartObservationStore .., (hartStore_takes hw hok).now, fun ho => ?_, fun ho => ?_,
        fun h₁ h₂ => hartStore_env h₁ h₂ hok⟩
      · rw [ho] at hok ⊢
        exact ⟨(hartStore_startsStep hok).hart, (hartStore_startsStep hok).watch⟩
      · have hnw := hw ho
        rw [ho] at hok ⊢
        exact ⟨(hartStore_stopsStep hnw hok).still, (hartStore_stopsStep hnw hok).used⟩
    · exact congrArg Host.Outcome.next (hartStore_waits hw)
    · exact (exec_hartPublish ..).trans (congrArg Host.Outcome.next (hartStore_waits hw))
    · exact ⟨_, exec_hartPublish .., (hartStore_takes (fun _ => hw) hok).now, (hartStore_stopsStep hw hok).still,
        (hartStore_stopsStep hw hok).used⟩
    · exact ⟨_, exec_checkerRewardStore .., (hartStore_takes (fun hx => absurd hx (by decide)) hok).now⟩
    · intro faults
      have told {i : Instr} {t : State} (hx : exec i s = .next t) (ht : Faults s t h) : faults i :=
        ⟨t, hx, ht.told, ht.checker, ht.env⟩
      exact ⟨told (exec_hartException ..) (hartFault_faults s h),
        fun hok => told (exec_hartTakenStore ..) (hartStore_refused (fun hx => absurd hx (by decide)) hok),
        fun off bs hw hok => told (exec_hartObservationStore ..) (hartStore_refused hw hok),
        fun done hw hok => told (exec_hartPublish ..) (hartStore_refused (fun _ => hw) hok),
        fun q r hok => told (exec_checkerRewardStore ..) (hartStore_refused (fun hx => absurd hx (by decide)) hok)⟩
  · exact fun hs hw hne hr hoff hok => untimedWriteComplete_publishes hs hw hne hr hoff hok
  · intro x
    refine ⟨fun hr => hartStart_idle hr, fun hr hw hlo hhi => ?_, fun hr hlo hhi => ?_, ?_⟩
    · obtain ⟨t, hx, hcores, hbytes, hhart, hpost⟩ := hartStart_starts hr hw hlo hhi
      refine ⟨t, hx, hcores, hbytes, ?_, fun r => ?_, hpost⟩
      · rw [hhart]
        rfl
      · rw [hhart]
        refine (tget_startRegs _ _ _ r (by decide)).trans (if_congr Iff.rfl rfl (if_congr Iff.rfl ?_ rfl))
        exact BitVec.ofNat_toNat ..
    · obtain ⟨t, hx, hcores, hagenda, hhart⟩ := hartStart_checks hr hlo hhi
      refine ⟨t, hx, hcores, hagenda, by rw [hhart]; rfl, by rw [hhart]; rfl, fun r => ?_⟩
      rw [hhart]
      exact tget_startRegs _ _ _ r (by decide)
    · intro kills passed alive
      have killed {i : Instr} {p cause : Nat} {t : State} (hx : exec i s = .next t) (hk : Kills s t p cause) : kills i p cause :=
        ⟨t, hx, hk.status, hk.cause, hk.turn, hk.payload, hk.harts⟩
      refine ⟨fun hp ha => ?_, fun hp => stepOverrun_idle hp, fun hp ha => ?_, fun hp => episodeOverrun_idle hp, fun p hf => ?_,
        fun p hf => ?_⟩
      · obtain ⟨t, hx, hkill⟩ := stepOverrun_kills hp ha
        exact killed hx hkill
      · obtain ⟨t, hx, hkill⟩ := episodeOverrun_kills hp ha
        exact killed hx hkill
      · exact killed (exec_supervisorKill ..) (killPair_kills (by omega) hf)
      · rw [exec_supervisorKill, killPair_final hf]
  · intro key hq now
    exact ⟨fun hn => stepDeadline_early hq fun hd => hn ((deadlineNow_iff s q g).mp hd),
      fun hn => stepDeadline_passes hq ((deadlineNow_iff s q g).mpr hn)⟩
  · intro x does traps
    refine ⟨fun hrd user => ?_, fun lo hi h₁ h₇ => hartOp_readTraps s h lo hi h₁ h₇ rd, fun lo hi => hartOp_writeTraps s h lo hi v,
      hartOp_write s h _ v, hartOp_write s h _ v, ?_, fun n hn => ?_, fun hrd => ?_, fun hrd => ?_⟩
    · rw [show does (.csrRead rd 0x5C1 user) = hartOp s h (.csrRead rd 0x5C1 user) from rfl, hartOp_readEpid, setReg_pos _ _ hrd]
      exact tget_tset_self ..
    · intro t
      have ht : hartOf t h = setHartCsr x 0x5C0 v := hartOp_write s h _ v
      obtain ⟨hr, h3⟩ := setHartCsr_role x v
      have hlt : v.toNat % 4 < 4 := Nat.mod_lt _ (by decide)
      rw [ht]
      exact ⟨hartCsr_role t _ hlt hr h3, by rw [hr]; exact roleOf_idle hlt⟩
    · intro t
      have ht : hartOf t h = setHartCsr x n v := hartOp_write s h _ v
      rw [ht]
      exact hartCsr_bounds t x v hn
    · exact (hartOp_reg s h rd v).trans (setReg_pos _ _ hrd)
    · refine (hartOp_reg s h rd v).trans ?_
      rw [hrd]
      exact setReg_zero ..
  · obtain ⟨t, hx, hcores, hbytes, hagenda, hall⟩ := episodeScrub_scrubs s p
    exact ⟨t, hx, hcores, hbytes, hagenda, fun w hw hp => ⟨(hall w hw hp).freed, (hall w hw hp).zero⟩⟩

end Sys2Proof.Machine
end

section
/-! PROOF. A function-level reset and the scrub engines (R299, R322, R323, O50). -/

namespace Sys2Proof.Machine

/-- VF 1's context 1 waits at die 0's scrub engine, which stands at done; its gang is bound to VF 2's protected context 2. -/
def idleEngineState : State where
  gangs := [(0, { ctx := 2, vdid := 32, hasRun := true })]
  hub := {
    auth := {
      ctxs := [(1, { vdid := 16, gang := 1 }), (2, { vdid := 32, protect := true, bind := [(0, 0x400001)] })]
      tdisp := [(1, .locked)] }
    scrubs := [(0, { queued := [(1, [])] })] }

/-- The outcome is a next state in which VF `v` is in `st`. -/
def endsIn (x : Out) (v : Nat) (st : Tdisp) : Bool :=
  match x with
  | .next t => decide (tdispOf t v = st)
  | _ => false

theorem idleEngineState_scrubs : ∃ x ∈ vfContexts idleEngineState 1, scrubbing idleEngineState x = true :=
  ⟨1, by decide, by decide⟩

/-- The teardown of context 2 starts its scrub on the engine, and what waited there is gone: nothing of VF 1 is scrubbed. -/
theorem functionLevelReset_unlocks : endsIn (exec (.functionLevelReset 1) idleEngineState) 1 .unlocked = true := by decide

/-- Refutes O50: an engine that is done forgets what is queued when it starts a context, so a function-level reset of a VF in
CONFIG_LOCKED whose context was only queued there ends in CONFIG_UNLOCKED, and not in ERROR. -/
theorem not_pagesAndLinkSecurityTakeEffect : ¬ Obligations.PagesAndLinkSecurityTakeEffect := by
  unfold Obligations.PagesAndLinkSecurityTakeEffect
  rintro ⟨-, -, -, -, security⟩
  obtain ⟨-, -, -, -, -, -, -, -, -, -, -, -, -, resets, -⟩ := security idleEngineState 1
  obtain ⟨t, hx, -, ht⟩ := resets (by decide) idleEngineState_scrubs
  have herror : tdispOf t 1 = .error := ht 1
  have hunlocked := functionLevelReset_unlocks
  rw [hx, endsIn, herror] at hunlocked
  exact absurd hunlocked (by decide)

end Sys2Proof.Machine
end

section
/-! PROOF. Power and heat: forecasts, samples and emergencies (R328, R329, R332, R333). -/

namespace Sys2Proof.Machine

theorem exec_powerForecast (fs : List (Nat × Nat)) (s : State) : exec (.powerForecast fs) s = execPowerForecast fs s := rfl
theorem exec_thermalSample (ts fs : List Nat) (s : State) : exec (.thermalSample ts fs) s = execThermalSample ts fs s := rfl
theorem exec_thw (s : State) : exec .thw s = .next (emergencyFreeze s 1) := rfl
theorem exec_iemer (s : State) : exec .iemer s = .next (emergencyFreeze s 2) := rfl
theorem exec_islandWake (i : Fin 16) (s : State) : exec (.islandWake i) s = execIslandWake i s := rfl

/-! Forecasts (R329). -/

/-- Of a canonical table with one entry that passes, the entries that pass are that one. -/
theorem filter_eq_singleton {α : Type} [DecidableEq α] {d : α} {p : Nat × α → Bool} {g : Nat} {x : α} {lo : Nat} {t : Table α}
    (hwf : twfFrom d lo t = true) (hmem : (g, x) ∈ t) (hg : p (g, x) = true) (hother : ∀ e ∈ t, e.1 ≠ g → p e = false) :
    t.filter p = [(g, x)] := by
  induction t generalizing lo with
  | nil => exact absurd hmem List.not_mem_nil
  | cons e t ih =>
    obtain ⟨j, v⟩ := e
    obtain ⟨-, hrest⟩ : (lo ≤ j ∧ v ≠ d) ∧ twfFrom d (j + 1) t = true := by
      simpa only [twfFrom, Bool.and_eq_true, decide_eq_true_eq] using hwf
    have habove {e : Nat × α} (he : e ∈ t) : j < e.1 := (twfFrom_mem (k := e.1) (v := e.2) hrest he).1
    rcases List.mem_cons.mp hmem with heq | hin
    · cases heq
      rw [List.filter_cons_of_pos hg, List.filter_eq_nil_iff.mpr fun e he => ?_]
      rw [hother e (List.mem_cons_of_mem _ he) (Nat.ne_of_gt (habove he))]
      exact Bool.false_ne_true
    · rw [List.filter_cons_of_neg, ih hrest hin fun e he => hother e (List.mem_cons_of_mem _ he)]
      rw [hother _ List.mem_cons_self (Nat.ne_of_lt (habove hin))]
      exact Bool.false_ne_true

theorem capPower_fits {fs : List (Nat × Nat)} {p share : Nat} (n : Nat) {s : State}
    (h : ((freeRunning s p).map (forecastOf fs)).sum ≤ share) : capPower fs p share n s = s := by
  cases n with
  | zero => rfl
  | succ n => exact if_pos h

theorem easePower_none {s : State} (fs : List (Nat × Nat)) (p share : Nat) (h : (houseOf s).held = []) : easePower fs p share s = s := by
  rw [easePower, h]
  rfl

/-- The samples of a forecast are taken. -/
def sampled (s : State) : State :=
  setHouse { s with fresh := s.fresh + 1 } { houseOf s with
    pwrnow := (Config.openWord s.fresh).toNat % 2 ^ 13
    held := (houseOf s).held.filter fun e => hasHold { s with fresh := s.fresh + 1 } e.1 .power powerKey }

/-- The partitions with a run on this package. -/
def runningParts (s : State) : List Nat := ((s.gangs.filter fun e => e.2.hasRun).map (·.2.vdid)).eraseDups

/-- A partition is kept within its share. -/
def capPart (fs : List (Nat × Nat)) (s : State) (p : Nat) : State :=
  capPower fs p (partOf s p).power s.gangs.length (easePower fs p (partOf s p).power s)

theorem powerForecast_eq (fs : List (Nat × Nat)) (s : State) :
    exec (.powerForecast fs) s = .next ((runningParts s).foldl (capPart fs) (sampled s)) := rfl

theorem sampled_held {s : State} (h : (houseOf s).held = []) : (houseOf (sampled s)).held = [] := by
  have : (houseOf (sampled s)).held = (houseOf s).held.filter fun e => hasHold { s with fresh := s.fresh + 1 } e.1 .power powerKey := rfl
  rw [this, h]
  rfl

theorem sampled_freeRunning (s : State) (p : Nat) : freeRunning (sampled s) p = freeRunning s p := rfl

theorem powerForecast_fits {s : State} {fs : List (Nat × Nat)} (hheld : (houseOf s).held = [])
    (h : ∀ p, ((freeRunning s p).map (forecastOf fs)).sum ≤ (partOf s p).power) :
    exec (.powerForecast fs) s = .next (sampled s) := by
  rw [powerForecast_eq, foldl_id fun p _ => ?_]
  rw [capPart, easePower_none fs _ _ (sampled_held hheld), capPower_fits _ (by rw [sampled_freeRunning]; exact h p)]

/-- The step keeps every hold that is open, and the cores. -/
structure HoldsOn (s t : State) : Prop where
  cores : t.cores = s.cores
  stays : ∀ q cause key, hasHold s q cause key = true → hasHold t q cause key = true

theorem HoldsOn.trans {s t u : State} (h₁ : HoldsOn s t) (h₂ : HoldsOn t u) : HoldsOn s u :=
  ⟨h₂.cores.trans h₁.cores, fun q cause key h => h₂.stays q cause key (h₁.stays q cause key h)⟩

theorem Beside.holdsOn {s t : State} (h : Beside s t) : HoldsOn s t :=
  ⟨h.cores, fun q cause key hq => by rw [hasHold, h.gangOf]; exact hq⟩

/-- A hold's announcement keeps the holds, and opens its own. -/
theorem announceHold_opens (s : State) (g th : Nat) (cause : HoldCause) (key : Nat) :
    HoldsOn s (announceHold s g th cause key) ∧ hasHold (announceHold s g th cause key) g cause key = true := by
  obtain ⟨t, x, hx, beside⟩ : ∃ t x, x = { gangOf s g with
      holds := (gangOf s g).holds ++ [⟨holdNumber s g, t, cause, s.pod, key, none⟩], holdSeq := (gangOf s g).holdSeq + 1 } ∧
      Beside (setGang s g x) (announceHold s g th cause key) :=
    ⟨_, _, rfl, (logged_countLife _ 4 (causePos cause) 1).toBeside.trans (beside_leekMembers ..)⟩
  have hholds : x.holds = (gangOf s g).holds ++ [⟨holdNumber s g, t, cause, s.pod, key, none⟩] := by rw [hx]
  refine ⟨⟨beside.cores, fun q c k hq => ?_⟩, ?_⟩
  · rw [hasHold, beside.gangOf]
    by_cases hqg : q = g
    · rw [hasHold, hqg] at hq
      rw [hqg, gangOf_setGang_self, hholds, List.any_append, hq]
      rfl
    · rw [gangOf_setGang_ne _ _ hqg]
      exact hq
  · rw [hasHold, beside.gangOf, gangOf_setGang_self, hholds, List.any_append]
    simp

theorem capPower_holds (fs : List (Nat × Nat)) (p share n : Nat) (s : State) : HoldsOn s (capPower fs p share n s) := by
  induction n generalizing s with
  | zero => exact (Beside.refl s).holdsOn
  | succ n ih =>
    rw [capPower]
    dsimp only
    split
    · exact (Beside.refl s).holdsOn
    · split
      · exact (Beside.refl s).holdsOn
      · exact (announceHold_opens ..).1.trans
          (((logged_setHouse ..).trans (logged_postEvent ..)).toBeside.holdsOn.trans (ih _))

/-- A gang is held for power, and the event is logged. -/
def cappedOne (fs : List (Nat × Nat)) (p share g : Nat) (s : State) : State :=
  let s := announceHold s g ((gangOf s g).gcyc + (gangOf s g).h) .power powerKey
  postEvent (setHouse s { houseOf s with held := (houseOf s).held ++ [(g, 0)] }) p .resource evPower [g, forecastOf fs g, share] []

/-- The gang of a partition that alone runs, and above its share, is held. -/
theorem capPower_caps {fs : List (Nat × Nat)} {p share n g : Nat} {s : State} (h : freeRunning s p = [g]) (hg : share < forecastOf fs g) :
    hasHold (capPower fs p share (n + 1) s) g .power powerKey = true ∧ (capPower fs p share (n + 1) s).cores = s.cores := by
  have hover : ¬((freeRunning s p).map (forecastOf fs)).sum ≤ share := by
    rw [h, List.map_singleton, List.sum_singleton]
    omega
  obtain ⟨held, hopen⟩ := announceHold_opens s g ((gangOf s g).gcyc + (gangOf s g).h) .power powerKey
  have heq : capPower fs p share (n + 1) s = capPower fs p share n (cappedOne fs p share g s) := by
    rw [capPower]
    dsimp only
    rw [if_neg hover, h]
    rfl
  have noted : Beside (announceHold s g ((gangOf s g).gcyc + (gangOf s g).h) .power powerKey) (cappedOne fs p share g s) :=
    (Logged.trans (t := setHouse _ _) (logged_setHouse ..)
      (logged_postEvent _ p .resource evPower [g, forecastOf fs g, share] [])).toBeside
  have rest := capPower_holds fs p share n (cappedOne fs p share g s)
  rw [heq]
  exact ⟨rest.stays _ _ _ (noted.holdsOn.stays _ _ _ hopen), rest.cores.trans (noted.cores.trans held.cores)⟩

theorem powerForecast_holds {s : State} {fs : List (Nat × Nat)} {g : Nat} (hheld : (houseOf s).held = []) (hc : canonical s)
    (hother : ∀ n, n ≠ g → (gangOf s n).hasRun = false) (hset : onSet (gangOf s g) = true) (hrun : (gangOf s g).hasRun = true)
    (hfree : hasHold s g .power 0 = false) (hover : (partOf s (gangOf s g).vdid).power < forecastOf fs g) :
    ∃ t, exec (.powerForecast fs) s = .next t ∧ hasHold t g .power 0 = true ∧ t.cores = s.cores := by
  have hmem : (g, gangOf s g) ∈ s.gangs := mem_of_tget_ne fun he => by
    rw [gangOf, he] at hrun
    cases hrun
  have hstands {e : Nat × Gang} (he : e ∈ s.gangs) : gangOf s e.1 = e.2 := (twfFrom_mem (k := e.1) (v := e.2) hc.2 he).2
  have hstill {e : Nat × Gang} (he : e ∈ s.gangs) (hne : e.1 ≠ g) : e.2.hasRun = false := by
    rw [← hstands he]
    exact hother _ hne
  have hparts : runningParts s = [(gangOf s g).vdid] := by
    rw [runningParts, filter_eq_singleton hc.2 hmem hrun fun e he hne => hstill he hne]
    rfl
  have hone : freeRunning (sampled s) (gangOf s g).vdid = [g] := by
    rw [sampled_freeRunning, freeRunning, filter_eq_singleton hc.2 hmem]
    · rfl
    · have hkey : hasHold s g .power powerKey = false := hfree
      dsimp only
      rw [hset, hrun, hkey, decide_eq_true rfl]
      rfl
    · intro e he hne
      rw [hstill he hne, Bool.and_false, Bool.false_and]
  obtain ⟨n, hn⟩ : ∃ n, s.gangs.length = n + 1 := Nat.exists_eq_add_one.mpr (List.length_pos_of_mem hmem)
  have hcap := capPower_caps (n := n) hone hover
  refine ⟨_, powerForecast_eq .., ?_⟩
  rw [hparts, List.foldl_cons, List.foldl_nil, capPart, easePower_none fs _ _ (sampled_held hheld),
    show (sampled s).gangs.length = n + 1 from hn]
  exact hcap

/-! Emergencies (R333). -/

/-- The runs of the gangs `gs` are over: those torn down are torn down now, the other gangs stay. -/
structure Freezes (s t : State) (gs : List Nat) : Prop where
  pod : t.pod = s.pod
  scratch : ScratchSame s t
  emergency : (houseOf t).emergency = (houseOf s).emergency
  torn : ∀ g ∈ gs, (gangOf s g).hasRun = true → (gangOf t g).mode = .idle ∧ (gangOf t g).hasRun = false ∧ (gangOf t g).tornAt = some s.pod
  still : ∀ g, (gangOf s g).hasRun = false → gangOf t g = gangOf s g
  apart : ∀ g, g ∉ gs → gangOf t g = gangOf s g

theorem desync_freezes (s : State) (g : Nat) : Freezes s (desync s g) [g] := by
  have event := aside_postEvent s (gangPart s g) .platform evDesync [g, s.pod] []
  have standing := standing_postEvent s (gangPart s g) .platform evDesync [g, s.pod] []
  rw [desync]
  generalize postEvent s (gangPart s g) .platform evDesync [g, s.pod] [] = u at event standing ⊢
  by_cases hrun : (gangOf s g).hasRun = true
  · obtain ⟨⟨hmode, hhas, htorn, hscratch⟩, -, hothers, hpod⟩ := abortGang_torn (s := u) (g := g) .platform
      (by rw [event.gangOf]; exact hrun)
    have hne {n : Nat} (hn : n ≠ g) : gangOf (abortGang u g .platform) n = gangOf s n := (hothers n hn).trans (event.gangOf n)
    refine ⟨hpod.trans event.pod, event.scratch.trans hscratch,
      (standing_abortGang u g .platform).emergency.trans standing.emergency, fun n hn _ => ?_, fun n hn => hne ?_, fun n hn => hne ?_⟩
    · rw [List.mem_singleton.mp hn]
      exact ⟨hmode, hhas, by rw [htorn, event.pod]⟩
    · rintro rfl
      rw [hrun] at hn
      cases hn
    · exact fun h => hn (List.mem_singleton.mpr h)
  · have hidle : abortGang u g .platform = u := if_neg (by rw [event.gangOf]; exact hrun)
    rw [hidle]
    refine ⟨event.pod, event.scratch, standing.emergency, fun n hn h => ?_, fun n _ => event.gangOf n, fun n _ => event.gangOf n⟩
    rw [List.mem_singleton.mp hn] at h
    exact absurd h hrun

theorem desyncs_freeze (gs : List Nat) (s : State) : Freezes s (gs.foldl desync s) gs := by
  induction gs generalizing s with
  | nil => exact ⟨rfl, fun _ _ => rfl, rfl, fun _ h => absurd h List.not_mem_nil, fun _ _ => rfl, fun _ _ => rfl⟩
  | cons g gs ih =>
    have first := desync_freezes s g
    have rest := ih (desync s g)
    refine ⟨rest.pod.trans first.pod, first.scratch.trans rest.scratch, rest.emergency.trans first.emergency, fun n hn hrun => ?_,
      fun n hn => ?_, fun n hn => ?_⟩
    · by_cases hg : n = g
      · subst hg
        obtain ⟨hmode, hhas, htorn⟩ := first.torn n (List.mem_singleton_self n) hrun
        rw [List.foldl_cons, rest.still n hhas]
        exact ⟨hmode, hhas, htorn⟩
      · have hsame := first.apart n fun h => hg (List.mem_singleton.mp h)
        have := rest.torn n ((List.mem_cons.mp hn).resolve_left hg) (by rw [hsame]; exact hrun)
        rw [first.pod] at this
        exact this
    · have hsame := first.still n hn
      exact (rest.still n (by rw [hsame]; exact hn)).trans hsame
    · obtain ⟨hne, hnot⟩ := not_or.mp (mt List.mem_cons.mpr hn)
      exact (rest.apart n hnot).trans (first.apart n fun h => hne (List.mem_singleton.mp h))

/-- Every running gang on its set is torn down, and an emergency stands. -/
structure Emergency (s t : State) : Prop where
  stands : (houseOf t).emergency = true
  scratch : ScratchSame s t
  torn : ∀ g, onSet (gangOf s g) = true → (gangOf s g).hasRun = true → Torn s t g

theorem emergencyFreeze_freezes (s : State) (kind : Nat) : Emergency s (emergencyFreeze s kind) := by
  obtain ⟨v, hv⟩ : ∃ v, v = countLife (setHouse s { houseOf s with emergency := true }) 5 0 1 := ⟨_, rfl⟩
  have counted : Logged s v := by
    rw [hv]
    exact (logged_setHouse ..).trans (logged_countLife ..)
  have hstands : (houseOf v).emergency = true := by rw [hv]; rfl
  obtain ⟨gs, hgs⟩ : ∃ gs, gs = (v.gangs.filter fun e => onSet e.2 && e.2.hasRun).map (·.1) := ⟨_, rfl⟩
  obtain ⟨u, hu⟩ : ∃ u, u = postPlatform v (gs.map (gangPart v)) evThermal [kind] := ⟨_, rfl⟩
  have logged : Logged s u := by
    rw [hu]
    exact counted.trans (logged_postPlatform ..)
  have hu' : (houseOf u).emergency = true := by
    rw [hu, (standing_postPlatform ..).emergency]
    exact hstands
  have heq : emergencyFreeze s kind = gs.foldl desync u := by rw [hu, hgs, hv]; rfl
  have frozen := desyncs_freeze gs u
  have hscratch : ScratchSame s (gs.foldl desync u) := ScratchSame.trans (.of_cores logged.cores) frozen.scratch
  rw [heq]
  refine ⟨frozen.emergency.trans hu', hscratch, fun g hset hrun => ?_⟩
  have hin : g ∈ gs := by
    have hmem : (g, gangOf v g) ∈ v.gangs := mem_of_tget_ne fun he => by
      have hr := hrun
      rw [← counted.gangOf, gangOf, he] at hr
      cases hr
    rw [hgs]
    refine List.mem_map.mpr ⟨_, List.mem_filter.mpr ⟨hmem, ?_⟩, rfl⟩
    dsimp only
    rw [counted.gangOf, hset, hrun]
    rfl
  obtain ⟨hmode, hhas, htorn⟩ := frozen.torn g hin (by rw [logged.gangOf]; exact hrun)
  exact ⟨hmode, hhas, by rw [htorn, logged.pod], hscratch⟩

/-! Samples (R332). -/

theorem foldl_max_mem (ts : List Nat) (a : Nat) : ts.foldl max a = a ∨ ts.foldl max a ∈ ts := by
  induction ts generalizing a with
  | nil => exact .inl rfl
  | cons t ts ih =>
    rcases ih (max a t) with h | h
    · rw [List.foldl_cons, h]
      rcases Nat.le_total a t with hle | hle
      · exact .inr (by rw [Nat.max_eq_right hle]; exact List.mem_cons_self)
      · exact .inl (Nat.max_eq_left hle)
    · exact .inr (List.mem_cons_of_mem _ h)

theorem le_foldl_max {ts : List Nat} {t : Nat} (h : t ∈ ts) (a : Nat) : t ≤ ts.foldl max a := by
  induction ts generalizing a with
  | nil => exact absurd h List.not_mem_nil
  | cons u ts ih =>
    rcases List.mem_cons.mp h with rfl | hin
    · exact (Nat.le_max_right a t).trans (le_foldl (fun m _ => Nat.le_max_left m _) ts _)
    · exact ih hin _

/-- The sample at the hottest place is the greatest of them. -/
theorem getD_hottest (ts : List Nat) : ts.getD (hottest ts) 0 = ts.foldl max 0 := by
  rw [hottest]
  generalize hm : ts.foldl max 0 = m
  by_cases hin : m ∈ ts
  · have hlt := List.idxOf_lt_length_iff.mpr hin
    rw [List.getD_eq_getElem _ _ hlt, List.getElem_idxOf]
  · rw [List.getD_eq_default _ _ (List.idxOf_eq_length hin).ge, ← hm]
    exact ((foldl_max_mem ts 0).resolve_right (by rw [hm]; exact hin)).symm

theorem foldl_max_lt {ts : List Nat} {n : Nat} (hn : 0 < n) (h : ∀ t ∈ ts, t < n) : ts.foldl max 0 < n := by
  rcases foldl_max_mem ts 0 with h0 | hin
  · omega
  · exact h _ hin

theorem getD_lt {ts : List Nat} {n : Nat} (hn : 0 < n) (h : ∀ t ∈ ts, t < n) (i : Nat) : ts.getD i 0 < n := by
  by_cases hi : i < ts.length
  · rw [List.getD_eq_getElem _ _ hi]
    exact h _ (List.getElem_mem hi)
  · rw [List.getD_eq_default _ _ (by omega)]
    exact hn

/-- The samples are counted. -/
def heatCounted (s : State) (ts : List Nat) : State :=
  (List.range (min 16 ts.length)).foldl (fun s j =>
    countLife (countLife s 1 (16 * (j / 2) + heatBin (ts.getD j 0)) 1) 2 (16 * j + Config.voltageBin j % 16) 1) s

/-- The greatest sample `t` stands in TEMPMAX. -/
def heatNoted (s : State) (ts : List Nat) : State :=
  setHouse (heatCounted s ts) { houseOf (heatCounted s ts) with
    tempmax := ts.getD (hottest ts) 0 % 256, sensor := hottest ts % 32
    emergency := (houseOf (heatCounted s ts)).emergency &&
      !(decide (ts.getD (hottest ts) 0 < 90) && decide ((houseOf (heatCounted s ts)).pwrnow < 4212)) }

theorem logged_heatNoted (s : State) (ts : List Nat) : Logged s (heatNoted s ts) :=
  .trans (t := heatCounted s ts) (.foldl (fun _ _ => (logged_countLife ..).trans (logged_countLife ..)) _ s) (logged_setHouse ..)

theorem thermalSample_eq (s : State) (ts fs : List Nat) : exec (.thermalSample ts fs) s =
    .next (if 110 ≤ ts.getD (hottest ts) 0 then emergencyFreeze (heatNoted s ts) 0 else thermalHolds fs (heatNoted s ts)) := rfl

theorem Emergency.before {s t u : State} (h : Logged s t) (he : Emergency t u) : Emergency s u :=
  ⟨he.stands, ScratchSame.trans (.of_cores h.cores) he.scratch, fun g hset hrun => by
    obtain ⟨hmode, hhas, htorn, hscratch⟩ := he.torn g (by rw [h.gangOf]; exact hset) (by rw [h.gangOf]; exact hrun)
    exact ⟨hmode, hhas, by rw [htorn, h.pod], ScratchSame.trans (.of_cores h.cores) hscratch⟩⟩

theorem thermalSample_freezes (s : State) {ts : List Nat} (fs : List Nat) (h : ∃ t ∈ ts, 110 ≤ t) :
    ∃ t, exec (.thermalSample ts fs) s = .next t ∧ Emergency s t := by
  obtain ⟨t, hin, ht⟩ := h
  have hle := le_foldl_max hin 0
  rw [thermalSample_eq, if_pos (by rw [getD_hottest]; omega)]
  exact ⟨_, rfl, .before (logged_heatNoted ..) (emergencyFreeze_freezes ..)⟩

theorem thermalHolds_none {s : State} {fs : List Nat} (hg : s.gangs = []) (h : ∀ f ∈ fs, f < 95) : thermalHolds fs s = s := by
  have hfirst : (List.range 16).foldl (fun s i =>
      if fs.getD i 0 < 90 then (s.gangs.map (·.1)).foldl (fun s g => releaseHolds s g .thermal i) s else s) s = s := by
    refine foldl_id fun i _ => ?_
    split
    · rw [hg]
      rfl
    · rfl
  unfold thermalHolds
  dsimp only
  rw [hfirst]
  exact if_neg (Nat.not_le.mpr (getD_lt (by omega) h _))

theorem thermalSample_cool {s : State} {ts fs : List Nat} (ht : ∀ t ∈ ts, t < 110) (hf : ∀ f ∈ fs, f < 95) (hg : s.gangs = []) :
    exec (.thermalSample ts fs) s = .next (heatNoted s ts) := by
  have hlt := foldl_max_lt (by omega) ht
  rw [thermalSample_eq, if_neg (by rw [getD_hottest]; omega), thermalHolds_none ((logged_heatNoted ..).gangs.trans hg) hf]

theorem tempmax_heatNoted (s : State) (ts : List Nat) : (houseOf (heatNoted s ts)).tempmax = ts.foldl max 0 % 256 := by
  rw [← getD_hottest]
  rfl

/-! Islands (R328). -/

/-- The island leaves retention. -/
def islandWoken (s : State) (i : Fin 16) : State :=
  setHouse s { houseOf s with retained := (houseOf s).retained &&& ~~~((1 : BitVec 16) <<< i.val) }

theorem islandWake_eq (s : State) (i : Fin 16) : exec (.islandWake i) s = .next (islandWoken s i) := rfl

theorem retained_islandWoken (s : State) (i : Fin 16) {j : Nat} (hj : j < 16) :
    (houseOf (islandWoken s i)).retained.getLsbD j = ((houseOf s).retained.getLsbD j && decide (j ≠ i.val)) := by
  show ((houseOf s).retained &&& ~~~((1 : BitVec 16) <<< i.val)).getLsbD j = _
  rw [BitVec.getLsbD_and, BitVec.getLsbD_not, BitVec.getLsbD_shiftLeft]
  simp only [hj, decide_true, Bool.true_and]
  congr 1
  by_cases h : j = i.val
  · subst h
    simp
  · rw [decide_eq_true h]
    simp
    omega

end Sys2Proof.Machine
end

section
/-! PROOF. Error counters, scrub engines and resets (R223, R229, R299 to R301, R334, R339, O51). -/

namespace Sys2Proof.Machine

theorem exec_errorCounterDecay (u : FaultUnit) (s : State) : exec (.errorCounterDecay u) s = execErrorCounterDecay u s := rfl
theorem exec_scrubUnit (d : Fin 8) (s : State) : exec (.scrubUnit d) s = execScrubUnit d s := rfl
theorem exec_warmReset (s : State) : exec .warmReset s = execWarmReset s := rfl
theorem exec_coldBoot (n : Nat) (s : State) : exec (.coldBoot n) s = execColdBoot n s := rfl
theorem exec_standbyPowerLoss (s : State) : exec .standbyPowerLoss s = .next (restartScrubs (powerUp s 0)) := rfl

/-! Leaky counters (R334). -/

theorem leakyOf_setLeaky (h : House) (u : FaultUnit) (l : Leaky) : (leakyOf (setLeaky h u l) u).level = l.level := by
  have hnone : (h.leaky.filter fun e => e.1 ≠ u).find? (fun e => decide (e.1 = u)) = none := by
    refine List.find?_eq_none.mpr fun e he hu => ?_
    exact of_decide_eq_true (List.mem_filter.mp he).2 (of_decide_eq_true hu)
  rw [leakyOf, setLeaky, List.find?_append, hnone, Option.none_or]
  by_cases hl : l.level = 0
  · rw [if_pos hl, hl]
    rfl
  · rw [if_neg hl]
    simp

theorem leakyOf_setLeaky_ne (h : House) {u w : FaultUnit} (l : Leaky) (hw : w ≠ u) : leakyOf (setLeaky h u l) w = leakyOf h w := by
  have hsame : (h.leaky.filter fun e => e.1 ≠ u).find? (fun e => decide (e.1 = w)) = h.leaky.find? fun e => decide (e.1 = w) := by
    rw [List.find?_filter]
    congr 1
    funext e
    by_cases he : e.1 = w
    · simp [he, hw]
    · simp [he]
  have htail : (if l.level = 0 then [] else [(u, l)]).find? (fun e => decide (e.1 = w)) = none := by
    refine List.find?_eq_none.mpr fun e he hu => ?_
    split at he
    · exact List.not_mem_nil he
    · rw [List.mem_singleton.mp he] at hu
      exact hw (of_decide_eq_true hu).symm
  rw [leakyOf, leakyOf, setLeaky, List.find?_append, hsame, htail, Option.or_none]

theorem errorCounterDecay_empty {s : State} {u : FaultUnit} (h : (leakyOf (houseOf s) u).level = 0) :
    exec (.errorCounterDecay u) s = .next s := if_pos h

theorem errorCounterDecay_counts {s : State} {u : FaultUnit} (h : 0 < (leakyOf (houseOf s) u).level) :
    ∃ t, exec (.errorCounterDecay u) s = .next t ∧ t.cores = s.cores ∧
      (leakyOf (houseOf t) u).level = (leakyOf (houseOf s) u).level - 1 ∧
      (∀ w, w ≠ u → leakyOf (houseOf t) w = leakyOf (houseOf s) w) ∧
      t.agenda = s.agenda ++ (if (leakyOf (houseOf s) u).level = 1 then []
        else [⟨.pod, s.pod + decayTime (houseOf s) u, phHub, none, .event (.errorCounterDecay u)⟩]) := by
  obtain ⟨v, hv⟩ : ∃ v, v = setHouse s (setLeaky (houseOf s) u ⟨(leakyOf (houseOf s) u).level - 1, s.pod⟩) := ⟨_, rfl⟩
  have hx : exec (.errorCounterDecay u) s = .next (if (leakyOf (houseOf s) u).level = 1 then v
      else postPod v (v.pod + decayTime (houseOf s) u) phHub (.errorCounterDecay u)) := by
    rw [hv]
    exact if_neg (Nat.ne_of_gt h)
  have hhouse : houseOf v = setLeaky (houseOf s) u ⟨(leakyOf (houseOf s) u).level - 1, s.pod⟩ := by rw [hv]; rfl
  have hcores : v.cores = s.cores ∧ v.agenda = s.agenda ∧ v.pod = s.pod := by rw [hv]; exact ⟨rfl, rfl, rfl⟩
  obtain ⟨hc, ha, hp⟩ := hcores
  have level : (leakyOf (houseOf v) u).level = (leakyOf (houseOf s) u).level - 1 := by
    rw [hhouse]
    exact leakyOf_setLeaky ..
  have others (w : FaultUnit) (hw : w ≠ u) : leakyOf (houseOf v) w = leakyOf (houseOf s) w := by
    rw [hhouse]
    exact leakyOf_setLeaky_ne _ _ hw
  by_cases h1 : (leakyOf (houseOf s) u).level = 1
  · rw [if_pos h1] at hx
    exact ⟨v, hx, hc, level, others, by rw [if_pos h1, List.append_nil, ha]⟩
  · rw [if_neg h1] at hx
    refine ⟨_, hx, hc, level, others, ?_⟩
    rw [if_neg h1, ← hp, ← ha]
    rfl

/-! Scrub engines (R299 to R301). -/

theorem upkeep_setScrub (s : State) (d : Nat) (x : Scrub) : Upkeep s (setScrub s d x) := ⟨aside_setScrub s d x, ⟨rfl, rfl, rfl, rfl⟩⟩

theorem upkeep_postScrub (s : State) (d : Nat) (first : Bool) : Upkeep s (postScrub s d first) := (logged_postPod ..).upkeep

/-- An engine with no more work. -/
def doneEngine (e : Scrub) : Scrub := { e with done := true }

/-- The log of a context whose scrub is over is cleared. -/
def logCleared (s : State) (x : Nat) : State :=
  if scrubbing s x then s else setHouse s { houseOf s with scrubLog := (houseOf s).scrubLog.filter fun l => l.1 ≠ x }

theorem upkeep_logCleared (s : State) (x : Nat) : Upkeep s (logCleared s x) := by
  unfold logCleared
  split
  · exact .refl s
  · exact (logged_setHouse ..).upkeep

theorem scrubOf_logCleared (s : State) (x d : Nat) : scrubOf (logCleared s x) d = scrubOf s d := by
  unfold logCleared
  split
  · rfl
  · rfl

theorem scrubNext_last {s : State} {d : Nat} {e : Scrub} (h : e.queued = []) :
    scrubNext s d e = logCleared (setScrub s d (doneEngine e)) e.ctx := by
  unfold scrubNext logCleared doneEngine
  rw [h]

theorem scrubNext_goes {s : State} {d : Nat} {e : Scrub} {q : Nat × List (Nat × Nat × Nat)} {qs : List (Nat × List (Nat × Nat × Nat))}
    (h : e.queued = q :: qs) : scrubNext s d e = logCleared (postScrub (setScrub s d (startScrub q.1 q.2 qs)) d) e.ctx := by
  unfold scrubNext logCleared
  rw [h]

theorem upkeep_scrubNext (s : State) (d : Nat) (e : Scrub) : Upkeep s (scrubNext s d e) := by
  cases hq : e.queued with
  | nil =>
    rw [scrubNext_last hq]
    exact (upkeep_setScrub ..).trans (upkeep_logCleared ..)
  | cons q qs =>
    rw [scrubNext_goes hq]
    exact (upkeep_setScrub ..).trans ((upkeep_postScrub ..).trans (upkeep_logCleared ..))

/-- The engine goes on after a unit. -/
def scrubsOn (s : State) (d : Nat) (e : Scrub) (rest : List (Nat × Nat × Nat)) : State :=
  if e.work = [] then scrubNext s d e
  else if rest = [] then postScrub (setScrub s d { e with round := scrubRound e.work }) d
  else postScrub (setScrub s d e) d false

theorem upkeep_scrubsOn (s : State) (d : Nat) (e : Scrub) (rest : List (Nat × Nat × Nat)) : Upkeep s (scrubsOn s d e rest) := by
  unfold scrubsOn
  split
  · exact upkeep_scrubNext ..
  · split
    · exact (upkeep_setScrub ..).trans (upkeep_postScrub ..)
    · exact (upkeep_setScrub ..).trans (upkeep_postScrub ..)

theorem scrubOf_setScrub (s : State) (d : Nat) (x : Scrub) : scrubOf (setScrub s d x) d = x := tget_tset_self ..

theorem scrubOf_postScrub (s : State) (d n : Nat) (first : Bool) : scrubOf (postScrub s d first) n = scrubOf s n := rfl

theorem scrubNext_progress {s : State} {d : Nat} {e : Scrub} (h : e.queued = []) :
    (scrubOf (scrubNext s d e) d).progress = e.progress := by
  rw [scrubNext_last h, scrubOf_logCleared, scrubOf_setScrub]
  rfl

theorem scrubsOn_progress {s : State} {d : Nat} {e : Scrub} (rest : List (Nat × Nat × Nat)) (h : e.queued = [] ∨ e.work ≠ []) :
    (scrubOf (scrubsOn s d e rest) d).progress = e.progress := by
  unfold scrubsOn
  split
  next hw => exact scrubNext_progress (h.resolve_right fun hne => hne hw)
  · split
    · rw [scrubOf_postScrub, scrubOf_setScrub]
    · rw [scrubOf_postScrub, scrubOf_setScrub]

section
variable {s : State} {d : Fin 8}

theorem scrubUnit_done (h : (scrubOf s d.val).done = true) : exec (.scrubUnit d) s = .next s := if_pos h

theorem scrubUnit_eq {w : Nat × Nat × Nat} {ws : List (Nat × Nat × Nat)} (h : (scrubOf s d.val).done = false)
    (hr : (scrubOf s d.val).round = w :: ws) : exec (.scrubUnit d) s =
      .next (scrubsOn (scrubOne s w (tget 0 (scrubOf s d.val).units (scrubKey w))) d.val (countUnit (scrubOf s d.val) w ws) ws) := by
  rw [exec_scrubUnit, execScrubUnit]
  dsimp only
  rw [h, if_neg Bool.false_ne_true, hr]
  rfl

/-- A unit is counted where its engine does not go on to another context. -/
theorem scrubUnit_progress {u : State} {e : Scrub} {w : Nat × Nat × Nat} (ws : List (Nat × Nat × Nat))
    (h : e.queued = [] ∨ e.work ≠ [] ∧ tget 0 e.units (scrubKey w) + 1 < scrubUnits w) :
    (scrubOf (scrubsOn u d.val (countUnit e w ws) ws) d.val).progress = e.progress + 1 := by
  refine scrubsOn_progress (e := countUnit e w ws) ws (h.imp id fun hw => ?_)
  have hwork : (countUnit e w ws).work = if decide (tget 0 e.units (scrubKey w) + 1 < scrubUnits w) then e.work else e.work.erase w := rfl
  rw [hwork, decide_eq_true hw.2]
  exact hw.1

/-- What a scrub leaves of a core: zeros at `a`, and its tile's marks cleared. -/
def scrubbedCore (a i : Nat) (c : Core) : Core :=
  { putScratch c a (leBytes 256 0) with
    tags := tset 0 c.tags (a / 4096) 0
    badTiles := if i % 16 = 15 then c.badTiles.erase (a / 4096) else c.badTiles
    shadow := tset {} c.shadow (a / 256) {} }

theorem scratchBut_scrubbed (s : State) (k a i : Nat) :
    ScratchBut s (modCore s k (scrubbedCore a i)) k a (List.replicate 256 0) := by
  intro j b
  rw [coreOf_modCore, ← leBytes_zero]
  by_cases hj : j = k
  · have hs : (scrubbedCore a i (coreOf s k)).scratch = tputs 0 (coreOf s k).scratch a (leBytes 256 0) := by
      unfold scrubbedCore putScratch
      dsimp only
    rw [if_pos hj, hj, hs, tget_tputs]
    exact if_congr (and_iff_right rfl).symm rfl rfl
  · rw [if_neg hj, if_neg fun h => hj h.1]

theorem scrubUnits_region (k r : Nat) : scrubUnits (0, k, r) = 256 := if_pos rfl

theorem scrubUnits_page (k r : Nat) : scrubUnits (1, k, r) = 8192 := if_neg Nat.one_ne_zero

theorem scrubUnit_region {k r : Nat} {ws : List (Nat × Nat × Nat)} (h : (scrubOf s d.val).done = false)
    (hr : (scrubOf s d.val).round = (0, k, r) :: ws) : ∃ t, exec (.scrubUnit d) s = .next t ∧
      ScratchBut s t k (r * 65536 + tget 0 (scrubOf s d.val).units (scrubKey (0, k, r)) * 256) (List.replicate 256 0) ∧
      ((scrubOf s d.val).queued = [] ∨ (scrubOf s d.val).work ≠ [] ∧ tget 0 (scrubOf s d.val).units (scrubKey (0, k, r)) + 1 < 256 →
        (scrubOf t d.val).progress = (scrubOf s d.val).progress + 1) := by
  refine ⟨_, scrubUnit_eq h hr, ?_, fun hq => scrubUnit_progress ws (by rw [scrubUnits_region]; exact hq)⟩
  generalize tget 0 (scrubOf s d.val).units (scrubKey (0, k, r)) = i
  have hone : scrubOne s (0, k, r) i = modCore s k (scrubbedCore (r * 65536 + i * 256) i) := rfl
  rw [hone]
  exact (scratchBut_scrubbed s k (r * 65536 + i * 256) i).after (upkeep_scrubsOn ..).scratch

theorem scrubUnit_page {k r : Nat} {ws : List (Nat × Nat × Nat)} (h : (scrubOf s d.val).done = false)
    (hr : (scrubOf s d.val).round = (1, k, r) :: ws) : ∃ t, exec (.scrubUnit d) s = .next t ∧ ScratchSame s t ∧
      ReadsBut s t (k * 2 ^ 29 + r * 2 ^ 21 + tget 0 (scrubOf s d.val).units (scrubKey (1, k, r)) * 256) (List.replicate 256 0) ∧
      ((scrubOf s d.val).queued = [] ∨ (scrubOf s d.val).work ≠ [] ∧ tget 0 (scrubOf s d.val).units (scrubKey (1, k, r)) + 1 < 8192 →
        (scrubOf t d.val).progress = (scrubOf s d.val).progress + 1) := by
  obtain ⟨a, ha⟩ : ∃ a, a = k * 2 ^ 29 + r * 2 ^ 21 + tget 0 (scrubOf s d.val).units (scrubKey (1, k, r)) * 256 := ⟨_, rfl⟩
  obtain ⟨n, hn⟩ : ∃ n, n = 256 := ⟨_, rfl⟩
  have hone : scrubOne s (1, k, r) (tget 0 (scrubOf s d.val).units (scrubKey (1, k, r))) =
      setDram (putDev s a (leBytes n 0)) { dramOf (putDev s a (leBytes n 0)) with
        shadow := (dramSectors a n).foldl (fun t j => tset {} t j {}) (dramOf (putDev s a (leBytes n 0))).shadow } := by
    rw [scrubOne, if_neg Nat.one_ne_zero, ha, hn]
  refine ⟨_, scrubUnit_eq h hr, ?_, ?_, fun hq => scrubUnit_progress ws (by rw [scrubUnits_page]; exact hq)⟩
  · refine ScratchSame.trans (.of_cores ?_) (upkeep_scrubsOn ..).scratch
    rw [hone]
    rfl
  · rw [← ha, hone]
    have written : ReadsBut s (putDev s a (leBytes n 0)) a (List.replicate 256 0) := by
      rw [← hn, ← leBytes_zero]
      exact fun b => readsBut_putDev s _ _ b
    have marked : ReadsSame (putDev s a (leBytes n 0)) (setDram (putDev s a (leBytes n 0)) { dramOf (putDev s a (leBytes n 0)) with
        shadow := (dramSectors a n).foldl (fun t j => tset {} t j {}) (dramOf (putDev s a (leBytes n 0))).shadow }) := ⟨rfl, rfl, rfl, rfl⟩
    exact fun b => ((written.after marked).after (upkeep_scrubsOn ..).toReadsSame) b

end

/-! Resets (R4, R301, R339). -/

/-- The step is part of a start: what a reset has cleared, what is kept, and the boot step stay. -/
structure Boots (s t : State) : Prop where
  cores : t.cores = s.cores
  gangs : t.gangs = s.gangs
  pod : t.pod = s.pod
  fab : fabOf t = fabOf s
  dram : dramOf t = dramOf s
  host : (authOf t).host = (authOf s).host
  lifetime : (houseOf t).lifetime = (houseOf s).lifetime
  retiredCores : (houseOf t).retiredCores = (houseOf s).retiredCores
  retiredLinks : (houseOf t).retiredLinks = (houseOf s).retiredLinks
  bootStep : (houseOf t).bootStep = (houseOf s).bootStep
  scrubLog : (houseOf t).scrubLog = (houseOf s).scrubLog
  recovery : (houseOf t).recovery = (houseOf s).recovery

theorem Boots.refl (s : State) : Boots s s := ⟨rfl, rfl, rfl, rfl, rfl, rfl, rfl, rfl, rfl, rfl, rfl, rfl⟩

theorem Boots.trans {s t u : State} (h₁ : Boots s t) (h₂ : Boots t u) : Boots s u :=
  ⟨h₂.cores.trans h₁.cores, h₂.gangs.trans h₁.gangs, h₂.pod.trans h₁.pod, h₂.fab.trans h₁.fab, h₂.dram.trans h₁.dram,
    h₂.host.trans h₁.host, h₂.lifetime.trans h₁.lifetime, h₂.retiredCores.trans h₁.retiredCores,
    h₂.retiredLinks.trans h₁.retiredLinks, h₂.bootStep.trans h₁.bootStep, h₂.scrubLog.trans h₁.scrubLog,
    h₂.recovery.trans h₁.recovery⟩

theorem Boots.foldl {α : Type} {f : State → α → State} (h : ∀ s a, Boots s (f s a)) (as : List α) (s : State) :
    Boots s (as.foldl f s) := by
  induction as generalizing s with
  | nil => exact .refl s
  | cons a as ih => exact (h s a).trans (ih (f s a))

theorem boots_post (s : State) (j : Job) : Boots s (post s j) := ⟨rfl, rfl, rfl, rfl, rfl, rfl, rfl, rfl, rfl, rfl, rfl, rfl⟩

theorem boots_setLeaky (s : State) (u : FaultUnit) (l : Leaky) : Boots s (setHouse s (setLeaky (houseOf s) u l)) :=
  ⟨rfl, rfl, rfl, rfl, rfl, rfl, rfl, rfl, rfl, rfl, rfl, rfl⟩

theorem boots_restartDecays (s : State) : Boots s (restartDecays s) :=
  .foldl (fun v (e : FaultUnit × Leaky) => (boots_setLeaky v e.1 _).trans (boots_post ..)) _ s

theorem boots_recordBoot (s : State) : Boots s (recordBoot s) := ⟨rfl, rfl, rfl, rfl, rfl, rfl, rfl, rfl, rfl, rfl, rfl, rfl⟩

theorem boots_setTrained (s : State) (n : Nat) (ok : Bool) : Boots s (setTrained s n ok) :=
  ⟨rfl, rfl, rfl, rfl, rfl, rfl, rfl, rfl, rfl, rfl, rfl, rfl⟩

theorem boots_takeFresh (s : State) : Boots s { s with fresh := s.fresh + 1 } :=
  ⟨rfl, rfl, rfl, rfl, rfl, rfl, rfl, rfl, rfl, rfl, rfl, rfl⟩

theorem boots_setTraining (s : State) (t : Table (List Byte × Nat)) : Boots s (setHouse s { houseOf s with training := t }) :=
  ⟨rfl, rfl, rfl, rfl, rfl, rfl, rfl, rfl, rfl, rfl, rfl, rfl⟩

theorem boots_trainStack (s : State) (n : Nat) : Boots s (trainStack s n) :=
  (boots_takeFresh s).trans ((boots_setTraining _ _).trans (boots_setTrained _ n true))

theorem boots_restoreTraining (s : State) (n : Nat) : Boots s (restoreTraining s n) := by
  refine (boots_takeFresh s).trans ?_
  unfold restoreTraining takeFresh
  dsimp only
  split
  · exact boots_setTrained ..
  · exact (boots_setTrained ..).trans (boots_post ..)

theorem boots_setScrub (s : State) (d : Nat) (x : Scrub) : Boots s (setScrub s d x) :=
  ⟨rfl, rfl, rfl, rfl, rfl, rfl, rfl, rfl, rfl, rfl, rfl, rfl⟩

theorem boots_postScrub (s : State) (d : Nat) (first : Bool) : Boots s (postScrub s d first) := boots_post ..

theorem boots_restartScrubs (s : State) : Boots s (restartScrubs s) := by
  refine .foldl (fun v l => .foldl (fun v d => ?_) _ v) _ s
  dsimp only
  split
  · exact .refl v
  · split
    · exact (boots_setScrub ..).trans (boots_postScrub ..)
    · exact boots_setScrub ..

theorem boots_finishScrubs {s : State} (h : (houseOf s).scrubLog = []) : Boots s (finishScrubs s) := by
  unfold finishScrubs
  dsimp only
  rw [h, List.foldl_nil]
  exact ⟨rfl, rfl, rfl, rfl, rfl, rfl, rfl, rfl, rfl, rfl, h.symm, rfl⟩

/-- A start leaves every core and gang as at reset, at a boot step, and keeps what is non-volatile. -/
structure Clears (s t : State) (step : Nat) : Prop where
  cores : t.cores = []
  gangs : t.gangs = []
  bootStep : (houseOf t).bootStep = step
  lifetime : (houseOf t).lifetime = (houseOf s).lifetime
  retiredCores : (houseOf t).retiredCores = (houseOf s).retiredCores
  retiredLinks : (houseOf t).retiredLinks = (houseOf s).retiredLinks
  host : (authOf t).host = (authOf s).host

/-- The state that a reset begins from. -/
def cleared (s : State) (pod : Nat) (f : Fabric) (step : Nat) : State :=
  { pod := pod, fresh := s.fresh
    hub := { fab := f, house := { keptHouse (houseOf s) with bootStep := step }, auth := { host := (authOf s).host } } }

theorem boots_afterReset (s : State) (pod : Nat) (f : Fabric) (step : Nat) : Boots (cleared s pod f step) (afterReset s pod f step) :=
  boots_restartDecays _

theorem Boots.clears {s t : State} {pod step : Nat} {f : Fabric} (h : Boots (cleared s pod f step) t) : Clears s t step :=
  ⟨h.cores, h.gangs, h.bootStep, h.lifetime, h.retiredCores, h.retiredLinks, h.host⟩

theorem tget_of_forall {α : Type} {d : α} {P : α → Prop} {t : Table α} (hd : P d) (h : ∀ e ∈ t, P e.2) (k : Nat) : P (tget d t k) := by
  induction t with
  | nil => exact hd
  | cons e t ih =>
    obtain ⟨j, v⟩ := e
    rw [tget]
    split
    · exact h _ List.mem_cons_self
    · exact ih fun e he => h e (List.mem_cons_of_mem _ he)

theorem linkAt_freshLinks (h : House) (n : Nat) : (linkAt { links := freshLinks h } n).lat = 0 ∧ (linkAt { links := freshLinks h } n).up = false := by
  refine tget_of_forall (P := fun l : LinkState => l.lat = 0 ∧ l.up = false) ⟨rfl, rfl⟩ (fun e he => ?_) n
  obtain ⟨x, -, rfl⟩ := List.mem_map.mp he
  exact ⟨rfl, rfl⟩

/-- What a warm reset keeps of a link. -/
def keptLink (l : LinkState) : LinkState := { lat := l.lat, llat := l.llat, nbr := l.nbr, retired := l.retired }

theorem linkAt_keptFabric (f : Fabric) (n : Nat) : linkAt (keptFabric f) n = keptLink (linkAt f n) :=
  tget_map (d := ({} : LinkState)) (f := keptLink) rfl f.links n

theorem powerUp_clears {s t : State} {step : Nat} (h : Boots (powerUp s step) t) : Clears s t step ∧ t.pod = 0 ∧
    (∀ i, (linkAt (fabOf t) i).lat = 0 ∧ (linkAt (fabOf t) i).up = false) ∧ (dramOf t).bytes = [] ∧
    (houseOf t).scrubLog = (houseOf s).scrubLog := by
  have boots : Boots (cleared s 0 { links := freshLinks (houseOf s) } step) t := (boots_afterReset ..).trans h
  refine ⟨boots.clears, boots.pod, fun i => ?_, by rw [boots.dram]; rfl, boots.scrubLog⟩
  rw [boots.fab]
  exact linkAt_freshLinks ..

theorem standby_clears (s : State) : ∃ t, exec .standbyPowerLoss s = .next t ∧ Clears s t 0 ∧ t.pod = 0 ∧ (dramOf t).bytes = [] ∧
    (houseOf t).scrubLog = (houseOf s).scrubLog := by
  obtain ⟨clears, hpod, -, hbytes, hlog⟩ := powerUp_clears (boots_restartScrubs (powerUp s 0))
  exact ⟨_, exec_standbyPowerLoss s, clears, hpod, hbytes, hlog⟩

/-- The boot ROM's recovery function stands, or does not. -/
def recovers (s : State) (b : Bool) : State := setHouse s { houseOf s with recovery := b }

/-- A cold boot's steps up to the fourth. -/
def bootSteps (n : Nat) (s : State) : State :=
  let s := if 3 ≤ n then (List.range 8).foldl trainStack s else s
  if 4 ≤ n then finishScrubs s else s

theorem coldBoot_eq (n : Nat) (s : State) : exec (.coldBoot n) s =
    .next (recovers (bootSteps n (recordBoot (powerUp s (min n 6)))) (decide (n < 2))) := rfl

theorem boots_bootSteps {n : Nat} {s : State} (h : (houseOf s).scrubLog = [] ∨ n < 4) : Boots s (bootSteps n s) := by
  obtain ⟨u, hu⟩ : ∃ u, u = if 3 ≤ n then (List.range 8).foldl trainStack s else s := ⟨_, rfl⟩
  have trained : Boots s u := by
    rw [hu]
    split
    · exact .foldl boots_trainStack _ s
    · exact .refl s
  have heq : bootSteps n s = if 4 ≤ n then finishScrubs u else u := by rw [hu]; rfl
  rw [heq]
  split
  next hn => exact trained.trans (boots_finishScrubs (trained.scrubLog.trans (h.resolve_right (Nat.not_lt.mpr hn))))
  · exact trained

theorem coldBoot_clears {s : State} {n : Nat} (h : (houseOf s).scrubLog = [] ∨ n < 4) : ∃ t, exec (.coldBoot n) s = .next t ∧
    Clears s t (min n 6) ∧ t.pod = 0 ∧ (∀ i, (linkAt (fabOf t) i).lat = 0 ∧ (linkAt (fabOf t) i).up = false) ∧ (dramOf t).bytes = [] ∧
    ((houseOf t).recovery = true ↔ n < 2) := by
  have recorded := boots_recordBoot (powerUp s (min n 6))
  have hlog : (houseOf (powerUp s (min n 6))).scrubLog = (houseOf s).scrubLog := (boots_afterReset ..).scrubLog
  have steps : Boots (powerUp s (min n 6)) (bootSteps n (recordBoot (powerUp s (min n 6)))) :=
    recorded.trans (boots_bootSteps (h.imp_left fun h => (recorded.scrubLog.trans hlog).trans h))
  obtain ⟨⟨hcores, hgangs, hstep, hlife, hrc, hrl, hhost⟩, hpod, hlinks, hbytes, -⟩ := powerUp_clears steps
  exact ⟨_, coldBoot_eq n s, ⟨hcores, hgangs, hstep, hlife, hrc, hrl, hhost⟩, hpod, hlinks, hbytes, decide_eq_true_iff⟩

/-- A warm reset's steps before device memory is as it was. -/
def warmSteps (s : State) (holds : Bool) : State :=
  let s := recovers (recordBoot (afterReset { s with fresh := s.fresh + 1 } s.pod (keptFabric (fabOf s)) (if holds then 6 else 1))) (!holds)
  if holds then (List.range 8).foldl restoreTraining s else s

/-- Device memory and the scrub engines as they stood in `d` and `es`. -/
def withMemory (s : State) (d : Dram) (es : Table Scrub) : State :=
  let s := setDram s { bytes := d.bytes, poison := d.poison, bad := d.bad, corrected := d.corrected, shadow := d.shadow, sealed := d.sealed }
  { s with hub := { s.hub with scrubs := es } }

theorem warmReset_eq (s : State) : exec .warmReset s = .next (s.hub.scrubs.foldl (fun s e => if e.2.done then s else postScrub s e.1)
    (withMemory (warmSteps s (Config.signaturesHold s.fresh)) (dramOf s) s.hub.scrubs)) := rfl

theorem warmSteps_boots (s : State) (holds : Bool) : ∃ u, Boots (cleared { s with fresh := s.fresh + 1 } s.pod (keptFabric (fabOf s))
    (if holds then 6 else 1)) u ∧ Boots (recovers u (!holds)) (warmSteps s holds) := by
  refine ⟨_, (boots_afterReset ..).trans (boots_recordBoot _), ?_⟩
  unfold warmSteps
  dsimp only
  split
  · exact .foldl boots_restoreTraining _ _
  · exact .refl _

theorem warmReset_clears (s : State) : ∃ t, exec .warmReset s = .next t ∧ t.pod = s.pod ∧
    (Clears s t 6 ∧ (houseOf t).recovery = false ∨ Clears s t 1 ∧ (houseOf t).recovery = true) ∧
    (∀ n, linkAt (fabOf t) n = keptLink (linkAt (fabOf s) n)) ∧ (dramOf t).bytes = (dramOf s).bytes ∧
    (houseOf t).scrubLog = (houseOf s).scrubLog := by
  generalize hholds : Config.signaturesHold s.fresh = holds
  obtain ⟨u, first, steps⟩ := warmSteps_boots s holds
  obtain ⟨v, hv⟩ : ∃ v, v = withMemory (warmSteps s holds) (dramOf s) s.hub.scrubs := ⟨_, rfl⟩
  obtain ⟨t, ht⟩ : ∃ t, t = s.hub.scrubs.foldl (fun s e => if e.2.done then s else postScrub s e.1) v := ⟨_, rfl⟩
  have last : Boots v t := by
    rw [ht]
    refine .foldl (fun w e => ?_) _ v
    split
    · exact .refl w
    · exact boots_postScrub ..
  have clears : Clears s t (if holds then 6 else 1) := by
    obtain ⟨hcores, hgangs, hstep, hlife, hrc, hrl, hhost⟩ := first.clears
    exact ⟨last.cores.trans (by rw [hv]; exact steps.cores.trans hcores), last.gangs.trans (by rw [hv]; exact steps.gangs.trans hgangs),
      last.bootStep.trans (by rw [hv]; exact steps.bootStep.trans hstep), last.lifetime.trans (by rw [hv]; exact steps.lifetime.trans hlife),
      last.retiredCores.trans (by rw [hv]; exact steps.retiredCores.trans hrc),
      last.retiredLinks.trans (by rw [hv]; exact steps.retiredLinks.trans hrl), last.host.trans (by rw [hv]; exact steps.host.trans hhost)⟩
  have hrec : (houseOf t).recovery = !holds := last.recovery.trans (by rw [hv]; exact steps.recovery)
  refine ⟨t, ?_, last.pod.trans (by rw [hv]; exact steps.pod.trans first.pod), ?_, fun n => ?_, last.dram ▸ (by rw [hv]; rfl),
    last.scrubLog.trans (by rw [hv]; exact steps.scrubLog.trans first.scrubLog)⟩
  · rw [warmReset_eq, hholds, ht, hv]
  · cases holds
    · exact .inr ⟨clears, hrec⟩
    · exact .inl ⟨clears, hrec⟩
  · have hfab : fabOf t = keptFabric (fabOf s) := last.fab.trans (by rw [hv]; exact steps.fab.trans first.fab)
    rw [hfab, linkAt_keptFabric]

/-- Settles O51. -/
theorem housekeepingTakesEffect : Obligations.HousekeepingTakesEffect := by
  unfold Obligations.HousekeepingTakesEffect
  refine ⟨fun s fs hheld => ⟨fun hfits => ?_, fun g hc hother hset hrun hfree hover => ?_⟩, fun s => ?_⟩
  · exact ⟨_, powerForecast_fits hheld hfits, rfl, rfl, rfl⟩
  · exact powerForecast_holds hheld hc hother hset hrun hfree hover
  · intro torn
    have tears {i : Instr} {t : State} (hx : exec i s = .next t) (he : Emergency s t) : torn i := ⟨t, hx, he.stands, he.scratch, he.torn⟩
    refine ⟨tears (exec_thw s) (emergencyFreeze_freezes s 1), tears (exec_iemer s) (emergencyFreeze_freezes s 2), fun ts fs _ hhot => ?_,
      fun ts fs ht hf hg => ?_, fun i => ?_, fun u => ⟨errorCounterDecay_empty, errorCounterDecay_counts⟩,
      fun d => ⟨scrubUnit_done, fun k r ws => scrubUnit_region, fun k r ws => scrubUnit_page⟩, ?_⟩
    · obtain ⟨t, hx, he⟩ := thermalSample_freezes s fs hhot
      exact tears hx he
    · have logged := logged_heatNoted s ts
      exact ⟨_, thermalSample_cool ht hf hg, logged.cores, logged.gangs.trans hg, tempmax_heatNoted ..⟩
    · exact ⟨_, islandWake_eq s i, rfl, rfl, rfl, fun j hj => retained_islandWoken s i hj⟩
    · intro clears link
      have cleared' {t : State} {step : Nat} (h : Clears s t step) : clears t step :=
        ⟨fun k => by rw [coreOf, h.cores]; rfl, fun g => by rw [gangOf, h.gangs]; rfl, h.bootStep, h.lifetime, h.retiredCores,
          h.retiredLinks, h.host⟩
      refine ⟨?_, fun n hn => ?_, ?_⟩
      · obtain ⟨t, hx, hpod, hstep, hlinks, hbytes, hlog⟩ := warmReset_clears s
        refine ⟨t, hx, hpod, hstep.imp (fun h => ⟨cleared' h.1, h.2⟩) (fun h => ⟨cleared' h.1, h.2⟩), fun n => ?_, hbytes, hlog⟩
        rw [show link t n = keptLink (link s n) from hlinks n]
        exact ⟨rfl, rfl, rfl, rfl⟩
      · obtain ⟨t, hx, hclears, hpod, hlinks, hbytes, hrec⟩ := coldBoot_clears hn
        exact ⟨t, hx, cleared' hclears, hpod, hlinks, hbytes, hrec⟩
      · obtain ⟨t, hx, hclears, hpod, hbytes, hlog⟩ := standby_clears s
        exact ⟨t, hx, cleared' hclears, hpod, hbytes, hlog⟩

end Sys2Proof.Machine
end

section
/-! PROOF. Commands of authority pages: taken, and completed (R319 to R321, O52). -/

namespace Sys2Proof.Machine

theorem performDeed_command (s : State) (k p op : Nat) : performDeed s k (.command p op) = completeCommand s p op := rfl

/-! The write of PACMD (R319, R320). -/

/-- The page's arguments as they stand. -/
def argsOf (x : Partition) : List Word := [x.arg0, x.arg1, x.arg2, x.arg3]

/-- A page's command is taken: the page is BUSY with the arguments `cmd`, and completes later. -/
structure TakesCommand (s t : State) (p op : Nat) (cmd : List Word) (due : Nat) : Prop where
  later : s.pod < due
  cores : t.cores = s.cores
  gangs : t.gangs = s.gangs
  page : partOf t p = { partOf s p with busy := true, taken := s.pod, cmd := cmd }
  others : ∀ q, q ≠ p → partOf t q = partOf s q
  agenda : t.agenda = s.agenda ++ [⟨.pod, due, phHub, none, .deed (.command p op)⟩]

section
variable {s : State} {p op : Nat} {fix : List Word → List Word}

theorem pacmdAs_ignored (h : (partOf s p).busy = true ∨ (houseOf s).recovery = true) : pacmdAs p op fix s = s := if_pos h

/-- A page that is BUSY with the arguments `cmd` since pod cycle `taken`. -/
def busyPage (x : Partition) (taken : Nat) (cmd : List Word) : Partition := { x with busy := true, taken := taken, cmd := cmd }

theorem pacmdAs_takes (hb : (partOf s p).busy = false) (hr : (houseOf s).recovery = false) :
    ∃ due, TakesCommand s (pacmdAs p op fix s) p op (fix (argsOf (partOf s p))) due := by
  obtain ⟨u, hu⟩ : ∃ u, u = setPart { s with fresh := s.fresh + 1 } p (busyPage (partOf s p) s.pod (fix (argsOf (partOf s p)))) := ⟨_, rfl⟩
  have heq : pacmdAs p op fix s = post u ⟨.pod, s.pod + 1 + Config.hostLatency s.fresh, phHub, none, .deed (.command p op)⟩ := by
    rw [hu]
    exact if_neg fun h => by simp [hb, hr] at h
  have hpage (q : Nat) : partOf u q = if q = p then busyPage (partOf s p) s.pod (fix (argsOf (partOf s p))) else partOf s q := by
    rw [hu]
    exact partOf_setPart ..
  refine ⟨s.pod + 1 + Config.hostLatency s.fresh, by omega, by rw [heq, hu]; rfl, by rw [heq, hu]; rfl, ?_, fun q hq => ?_,
    by rw [heq, hu]; rfl⟩
  · rw [heq]
    exact (hpage p).trans (if_pos rfl)
  · rw [heq]
    exact (hpage q).trans (if_neg hq)

end

/-- Bit `b` of an argument after a field of it is fixed. -/
theorem getLsbD_fixField {i lo n v : Nat} {ws : List Word} (hi : i < ws.length) (hv : v < 2 ^ n) (j : Nat) {b : Nat} (hb : b < 64) :
    ((fixField i lo n v ws).getD j 0).getLsbD b =
      if j = i ∧ lo ≤ b ∧ b < lo + n then v.testBit (b - lo) else (ws.getD j 0).getLsbD b := by
  rw [fixField, List.getD_eq_getElem?_getD, List.getElem?_modify]
  by_cases hj : i = j
  · subst hj
    rw [List.getElem?_eq_getElem hi, List.getD_eq_getElem _ _ hi]
    simp only [if_true, Option.map_eq_map, Option.map_some, Option.getD_some, BitVec.getLsbD_or, BitVec.getLsbD_and,
      BitVec.getLsbD_not, BitVec.getLsbD_ofNat, Nat.testBit_mul_two_pow, Nat.testBit_two_pow_sub_one, hb, decide_true,
      Bool.true_and, true_and]
    by_cases hlo : lo ≤ b
    · by_cases hhi : b < lo + n
      · have : b - lo < n := by omega
        simp [hlo, hhi, this]
      · have : ¬b - lo < n := by omega
        have hzero : v.testBit (b - lo) = false := Nat.testBit_lt_two_pow (hv.trans_le (Nat.pow_le_pow_right (by omega) (by omega)))
        simp [hlo, hhi, this, hzero]
    · simp [hlo]
  · have hne : ¬j = i := fun h => hj h.symm
    rw [if_neg fun h => hne h.1, List.getD_eq_getElem?_getD]
    simp [hj]

/-! The completion (R316, R319 to R321). -/

/-- The step changes the pages' side of the hub alone. -/
structure AuthOnly (s t : State) : Prop where
  eq : t = { s with hub := { s.hub with auth := authOf t } }

theorem AuthOnly.refl (s : State) : AuthOnly s s := ⟨rfl⟩

theorem AuthOnly.trans {s t u : State} (h₁ : AuthOnly s t) (h₂ : AuthOnly t u) : AuthOnly s u := by
  refine ⟨h₂.eq.trans ?_⟩
  rw [h₁.eq]

theorem authOnly_setAuth (s : State) (a : Authority) : AuthOnly s (setAuth s a) := ⟨rfl⟩

theorem authOnly_modPart (s : State) (p : Nat) (f : Partition → Partition) : AuthOnly s (modPart s p f) := ⟨rfl⟩

theorem authOnly_putHost (s : State) (p a : Nat) (bs : List Byte) : AuthOnly s (putHost s p a bs) := ⟨rfl⟩

theorem authOnly_sendVector (s : State) (p : Nat) : AuthOnly s (sendVector s p) := by
  unfold sendVector
  split
  · exact authOnly_modPart ..
  · exact authOnly_setAuth ..

theorem authOnly_postRecord (s : State) (p : Nat) (r : EventRec) : AuthOnly s (postRecord s p r) := by
  unfold postRecord
  dsimp only
  split
  · exact .refl s
  · split
    · exact authOnly_setAuth ..
    · exact (authOnly_putHost ..).trans ((authOnly_modPart ..).trans (authOnly_sendVector ..))

section
variable {s t : State} (h : AuthOnly s t)
include h

theorem AuthOnly.cores : t.cores = s.cores := by rw [h.eq]
theorem AuthOnly.gangs : t.gangs = s.gangs := by rw [h.eq]
theorem AuthOnly.agenda : t.agenda = s.agenda := by rw [h.eq]
theorem AuthOnly.hub : t.hub = { s.hub with auth := authOf t } := by
  have := congrArg State.hub h.eq
  exact this

end

/-- A page whose command is over: RESULT, SEQ, and PAARG0 where the command returns it. -/
def endedPage (res : Nat) (v : Option Word) (x : Partition) : Partition :=
  { x with busy := false, result := BitVec.ofNat 8 res, seq := x.seq + 1, cmd := [], arg0 := v.getD x.arg0 }

/-- The command of page `p` is over, with its record. -/
def commandOver (s : State) (p op res : Nat) (v : Option Word) : State :=
  postEvent (modPart s p (endedPage res v)) p .control evCommand [op, res] []

/-- What the end of a command leaves. -/
structure CommandEnds (s t : State) (p res : Nat) (v : Option Word) : Prop extends AuthOnly s t where
  page : SamePage (endedPage res v (partOf s p)) (partOf t p)
  others : ∀ q, q ≠ p → SamePage (partOf s q) (partOf t q)
  posts : Posts (authOf s) (authOf t)

theorem commandOver_ends (s : State) (p op res : Nat) (v : Option Word) : CommandEnds s (commandOver s p op res v) p res v := by
  have standing := standing_postEvent (modPart s p (endedPage res v)) p .control evCommand [op, res] []
  have logged := (logged_modPart s p (endedPage res v)).trans
    (logged_postEvent (modPart s p (endedPage res v)) p .control evCommand [op, res] [])
  refine ⟨(authOnly_setAuth s _).trans (authOnly_postRecord ..), ?_, fun q hq => ?_, logged.auth⟩
  · have h := standing.pages p
    rw [partOf_modPart, if_pos rfl] at h
    exact h
  · have h := standing.pages q
    rw [partOf_modPart, if_neg hq] at h
    exact h

theorem endCommand_ok (s s' : State) (p op : Nat) (v : Option Word) : endCommand s p op (.ok (s', v)) = commandOver s' p op 0 v := rfl

/-- What a refused command leaves the hub as: a VF whose frozen window it would change goes to ERROR (R323). -/
def refusedState (s : State) (p op n : Nat) : State := if op = 0x20 ∧ n = rLocked then failVf s (vfOf p) else s

theorem endCommand_error (s : State) (p op n : Nat) : endCommand s p op (.error n) = commandOver (refusedState s p op n) p op n none := rfl

theorem standing_setTdisp (s : State) (v : Nat) (t : Tdisp) : Standing s (setTdisp s v t) := by
  unfold setTdisp
  split
  · exact .refl s
  · exact (standing_postEvent ..).trans (standing_setAuth (by rfl) (by rfl) (by rfl) (by rfl))

theorem standing_tearVf (s : State) (v : Nat) : Standing s (tearVf s v) := by
  refine .foldl (fun u x => ?_) _ s
  unfold tearContext
  split
  · exact .refl u
  · exact standing_abortGang ..

theorem standing_refusedState (s : State) (p op n : Nat) : Standing s (refusedState s p op n) := by
  unfold refusedState failVf
  split
  · split
    · exact (standing_tearVf ..).trans (standing_setTdisp ..)
    · exact .refl s
  · exact .refl s

section
variable {x y : Partition} (h : SamePage x y)
include h

theorem SamePage.busy : y.busy = x.busy := (congrArg Partition.busy h.same :)
theorem SamePage.result : y.result = x.result := (congrArg Partition.result h.same :)
theorem SamePage.seq : y.seq = x.seq := (congrArg Partition.seq h.same :)
theorem SamePage.arg0 : y.arg0 = x.arg0 := (congrArg Partition.arg0 h.same :)
theorem SamePage.rights : y.rights = x.rights := (congrArg Partition.rights h.same :)
theorem SamePage.windows : y.windows = x.windows := (congrArg Partition.windows h.same :)
theorem SamePage.apertures : y.apertures = x.apertures := (congrArg Partition.apertures h.same :)
theorem SamePage.power : y.power = x.power := (congrArg Partition.power h.same :)

end

theorem SamePage.held {x y : Partition} (h : SamePage x y) (kind : Nat) : heldTable y kind = heldTable x kind := by
  rw [h.same]
  unfold heldTable
  split <;> rfl

/-- The command of a page that is next completes now. -/
theorem completeCommand_next {s : State} {p : Nat} (op : Nat) (hb : (partOf s p).busy = true)
    (hfirst : ∀ e ∈ (authOf s).parts, e.2.busy = true → takenBefore e (p, partOf s p) = false) :
    completeCommand s p op = endCommand s p op (runCommand s p op (rightsOf s p) fun i => ((partOf s p).cmd.getD i 0).toNat) := by
  rw [completeCommand, hb, if_neg (by decide), if_neg]
  intro hany
  obtain ⟨e, he, hb'⟩ := List.any_eq_true.mp hany
  obtain ⟨hbusy, hbefore⟩ := Bool.and_eq_true _ _ |>.mp hb'
  rw [hfirst e he hbusy] at hbefore
  cases hbefore

theorem runCommand_unlisted {s : State} {p op : Nat} {rights : BitVec 7} {a : Nat → Nat} (h : opListed op = false) :
    runCommand s p op rights a = .error 3 := by
  obtain ⟨hnone, -⟩ := Bool.or_eq_false_iff.mp h
  rw [Option.isSome_eq_false_iff, Option.isNone_iff_eq_none] at hnone
  unfold runCommand
  rw [hnone, if_neg (by simp)]
  split
  rotate_right
  · rfl
  all_goals nomatch h

theorem runCommand_rights {s : State} {p op b : Nat} {rights : BitVec 7} {a : Nat → Nat} (h : commandRight op = some b)
    (hb : rights.getLsbD b = false) : runCommand s p op rights a = .error 1 := by
  unfold runCommand
  rw [h]
  exact if_pos (by simp [hb])

theorem exec_pacmdInvalidOp {p : Nat} {bad : BitVec 8} (s : State) (h : opListed bad.toNat = false) :
    exec (.pacmdInvalidOp p bad) s = .next (pacmdAs p bad.toNat id s) := by
  have heq : exec (.pacmdInvalidOp p bad) s = .next (pacmd p (if opListed bad.toNat then 0 else bad.toNat) s) := rfl
  rw [heq, h]
  rfl

/-- Settles O52: each PACMD write is `pacmdAs` of its row, and each completion is `commandOver` of what the command does. -/
theorem commandsTaken : Obligations.CommandsTaken := by
  unfold Obligations.CommandsTaken
  refine ⟨fun s p bad hbad => ?_, fun i lo n v ws hi _ hv j b hb => getLsbD_fixField hi hv j hb, fun s k p op => ?_,
    fun s w p bad hbad hb hr => ⟨?_, fun hbusy hfirst k => ?_⟩⟩
  · intro x ws ops
    have taken {i : Instr} {op : Nat} {fix : List Word → List Word} (hx : exec i s = .next (pacmdAs p op fix s)) :
        (x.busy = true ∨ (houseOf s).recovery = true → exec i s = .next s) ∧
        (x.busy = false → (houseOf s).recovery = false → ∃ t due, exec i s = .next t ∧ s.pod < due ∧ t.cores = s.cores ∧
          t.gangs = s.gangs ∧ partOf t p = { x with busy := true, taken := s.pod, cmd := fix ws } ∧
          (∀ q, q ≠ p → partOf t q = partOf s q) ∧
          t.agenda = s.agenda ++ [⟨.pod, due, phHub, none, .deed (.command p op)⟩]) := by
      refine ⟨fun h => hx.trans (congrArg _ (pacmdAs_ignored h)), fun hb hr => ?_⟩
      obtain ⟨due, h⟩ := pacmdAs_takes (op := op) (fix := fix) hb hr
      exact ⟨_, due, hx, h.later, h.cores, h.gangs, h.page, h.others, h.agenda⟩
    simp only [ops, List.forall_mem_cons, List.not_mem_nil, false_implies, implies_true, and_true]
    exact ⟨taken (fix := id) rfl, taken rfl, taken rfl, taken (fix := id) rfl, taken (fix := id) rfl, taken (fix := id) rfl,
      taken (fix := id) rfl, taken (fix := id) rfl, taken (fix := id) rfl, taken (fix := id) rfl, taken (fix := id) rfl, taken rfl,
      taken rfl, taken (fix := id) rfl, taken rfl, taken rfl, taken rfl, taken rfl, taken rfl, taken (fix := id) rfl,
      taken (fix := id) rfl, taken rfl, taken rfl, taken rfl, taken rfl, taken rfl, taken (fix := id) rfl, taken (fix := id) rfl,
      taken (fix := id) rfl, taken (fix := id) (exec_pacmdInvalidOp s hbad)⟩
  · intro x rights r t hb hfirst
    have ht : t = endCommand s p op r := (performDeed_command ..).trans (completeCommand_next op hb hfirst)
    refine ⟨fun n hn => ?_, fun s' v hok => ?_, fun h => runCommand_unlisted h, fun b h hbit => runCommand_rights h hbit⟩
    · rw [hn, endCommand_error] at ht
      have ends := commandOver_ends (refusedState s p op n) p op n none
      rw [← ht] at ends
      have before := (standing_refusedState s p op n).pages p
      refine ⟨ends.page.busy, ends.page.result, ?_, ?_, fun hop => ?_⟩
      · rw [ends.page.seq, ← before.seq]
        rfl
      · rw [ends.page.arg0, ← before.arg0]
        rfl
      · have hstate : refusedState s p op n = s := if_neg fun h => hop h.1
        rw [hstate] at ends
        exact ⟨ends.cores, ends.gangs, ends.agenda⟩
    · rw [hok, endCommand_ok] at ht
      have ends := commandOver_ends s' p op 0 v
      rw [← ht] at ends
      refine ⟨ends.page.busy, ends.page.result, ends.page.seq, ends.page.arg0, ends.cores, ends.gangs, ends.agenda, ends.hub, by rw [ends.posts], by rw [ends.posts],
        by rw [ends.posts], by rw [ends.posts], fun q => ?_⟩
      obtain ⟨y, hsame, hy⟩ : ∃ y : Partition, SamePage y (partOf t q) ∧ y.rights = (partOf s' q).rights ∧
          y.windows = (partOf s' q).windows ∧ y.apertures = (partOf s' q).apertures ∧ y.power = (partOf s' q).power ∧
          ∀ kind, heldTable y kind = heldTable (partOf s' q) kind := by
        by_cases hq : q = p
        · rw [hq]
          refine ⟨_, ends.page, rfl, rfl, rfl, rfl, fun kind => ?_⟩
          unfold heldTable endedPage
          split <;> rfl
        · exact ⟨_, ends.others q hq, rfl, rfl, rfl, rfl, fun _ => rfl⟩
      obtain ⟨hrights, hwindows, hapertures, hpower, hheld⟩ := hy
      exact ⟨hsame.rights.trans hrights, hsame.windows.trans hwindows, hsame.apertures.trans hapertures, hsame.power.trans hpower,
        fun kind => (hsame.held kind).trans (hheld kind)⟩
  · obtain ⟨due, h⟩ := pacmdAs_takes (op := bad.toNat) (fix := id) hb hr
    exact ⟨_, due, exec_pacmdInvalidOp s hbad, h.later, by rw [h.page], h.agenda⟩
  · rw [performDeed_command, completeCommand_next _ hbusy hfirst, runCommand_unlisted hbad]

end Sys2Proof.Machine
end

section
/-! PROOF. Commands that complete: their arguments and rights, and the commands on rights, interfaces, core sets, windows and
apertures (R306, R313 to R316, R320, R321). -/

namespace Sys2Proof.Machine

/-- Argument `i` of a command, as a number. -/
def argOf (ws : List Word) (i : Nat) : Nat := (ws.getD i 0).toNat

section
variable {s w : State} {p op : Nat} {i : Instr} {fix : List Word → List Word} {v : Option Word} {u : State} {P : State → Prop}

/-- A command whose write is taken runs as it completes. -/
theorem commandRuns_of (hx : exec i s = .next (pacmdAs p op fix s)) (hb : (partOf s p).busy = false)
    (hr : (houseOf s).recovery = false)
    (hrun : runCommand w p op (rightsOf w p) (argOf (fix (argsOf (partOf s p)))) = .ok (u, v)) (hP : P u) :
    CommandRuns s w p op i fix v P := by
  obtain ⟨due, taken⟩ := pacmdAs_takes (op := op) (fix := fix) hb hr
  refine ⟨⟨_, due, hx, taken.later, taken.page, taken.agenda⟩, fun hcmd hbusy hfirst => ⟨u, fun k => ?_, hP⟩⟩
  rw [performDeed_command, completeCommand_next op hbusy hfirst, hcmd]
  exact congrArg _ hrun

end

/-! The field that a row fixes (R321). -/

section
variable {i lo n v : Nat} {ws : List Word}

theorem argOf_fixField_ne {j : Nat} (h : j ≠ i) : argOf (fixField i lo n v ws) j = argOf ws j := by
  rw [argOf, argOf, fixField, List.getD_eq_getElem?_getD, List.getElem?_modify, List.getD_eq_getElem?_getD]
  simp [Ne.symm h]

theorem testBit_argOf (ws : List Word) (j b : Nat) : (argOf ws j).testBit b = (ws.getD j 0).getLsbD b := rfl

theorem testBit_argOf_fixField (hi : i < ws.length) (hv : v < 2 ^ n) {b : Nat} (hb : b < 64) :
    (argOf (fixField i lo n v ws) i).testBit b = if lo ≤ b ∧ b < lo + n then v.testBit (b - lo) else (argOf ws i).testBit b := by
  rw [testBit_argOf, getLsbD_fixField hi hv i hb, testBit_argOf]
  exact if_congr (and_iff_right rfl) rfl rfl

/-- The other bits stay. -/
theorem argOf_fixField_apart (hi : i < ws.length) (hv : v < 2 ^ n) (k m : Nat) (hm : k + m ≤ 64) (h : k + m ≤ lo ∨ lo + n ≤ k) :
    argOf (fixField i lo n v ws) i / 2 ^ k % 2 ^ m = argOf ws i / 2 ^ k % 2 ^ m := by
  refine Nat.eq_of_testBit_eq fun b => ?_
  rw [Nat.testBit_mod_two_pow, Nat.testBit_mod_two_pow, Nat.testBit_div_two_pow, Nat.testBit_div_two_pow]
  by_cases hb : b < m
  · rw [testBit_argOf_fixField hi hv (by omega), if_neg (by omega)]
  · rw [decide_eq_false hb, Bool.false_and, Bool.false_and]

/-- The field holds its value. -/
theorem argOf_fixField_self (hi : i < ws.length) (hv : v < 2 ^ n) (hn : lo + n ≤ 64) :
    argOf (fixField i lo n v ws) i / 2 ^ lo % 2 ^ n = v := by
  refine Nat.eq_of_testBit_eq fun b => ?_
  rw [Nat.testBit_mod_two_pow, Nat.testBit_div_two_pow]
  by_cases hb : b < n
  · rw [testBit_argOf_fixField hi hv (by omega), if_pos (by omega), decide_eq_true hb, Bool.true_and]
    congr 1
    omega
  · rw [decide_eq_false hb, Bool.false_and]
    exact (Nat.testBit_lt_two_pow (hv.trans_le (Nat.pow_le_pow_right (by omega) (Nat.not_lt.mp hb)))).symm

theorem testBit_argOf_fixField_self (hi : i < ws.length) (hlo : lo < 64) (hv : v < 2 ^ 1) :
    (argOf (fixField i lo 1 v ws) i).testBit lo = v.testBit 0 := by
  rw [testBit_argOf_fixField hi hv hlo, if_pos (by omega), Nat.sub_self]

end

/-- A right that the issuer has lets its command run. -/
theorem runCommand_allowed {op b : Nat} {rights : BitVec 7} (h : commandRight op = some b) (hb : rights.getLsbD b = true) :
    ¬((commandRight op).any fun r => !rights.getLsbD r) = true := by
  rw [h]
  simp [hb]

/-- A step of the grant measurement is all that `remeasure` does. -/
structure Remeasured (s t : State) : Prop where
  cores : t.cores = s.cores
  gangs : t.gangs = s.gangs
  fab : fabOf t = fabOf s
  parts : (authOf t).parts = (authOf s).parts
  ctxs : (authOf t).ctxs = (authOf s).ctxs
  cells : (authOf t).cells = (authOf s).cells
  newCells : (authOf t).newCells = (authOf s).newCells

theorem remeasured (s : State) : Remeasured s (remeasure s) := ⟨rfl, rfl, rfl, rfl, rfl, rfl, rfl⟩

theorem Remeasured.partOf {s t : State} (h : Remeasured s t) (q : Nat) : partOf t q = partOf s q := by
  rw [Machine.partOf, Machine.partOf, h.parts]

section
variable {w : State} {p : Nat} {rights : BitVec 7} {a : Nat → Nat}

/-! RIGHTS (R306, R307). -/

theorem and_of_within {n : Nat} {x m : BitVec n} (h : x &&& ~~~m = 0) : x &&& m = x := by
  refine BitVec.eq_of_getLsbD_eq fun i hi => ?_
  have hbit := congrArg (fun y : BitVec n => y.getLsbD i) h
  simp only [BitVec.getLsbD_and, BitVec.getLsbD_not, hi, decide_true, Bool.true_and] at hbit
  rw [BitVec.getLsbD_and]
  revert hbit
  cases x.getLsbD i <;> cases m.getLsbD i <;> simp

/-- The rights of page `r` are cut to `m`. -/
def cutRights (m : BitVec 7) (s : State) (r : Nat) : State :=
  if (partOf s r).rights &&& ~~~m = 0 then s else modPart s r fun x => { x with rights := x.rights &&& m }

theorem cutRights_rights (m : BitVec 7) (s : State) (r q : Nat) :
    (partOf (cutRights m s r) q).rights = if q = r then (partOf s q).rights &&& m else (partOf s q).rights := by
  unfold cutRights
  split
  next h =>
    split
    next hq => rw [hq, and_of_within h]
    · rfl
  · rw [partOf_modPart]
    split
    · rfl
    · rfl

theorem cutRights_foldl (m : BitVec 7) (rs : List Nat) (s : State) (q : Nat) :
    (partOf (rs.foldl (cutRights m) s) q).rights = if q ∈ rs then (partOf s q).rights &&& m else (partOf s q).rights := by
  induction rs generalizing s with
  | nil => rw [if_neg List.not_mem_nil]; rfl
  | cons r rs ih =>
    rw [List.foldl_cons, ih, cutRights_rights]
    by_cases hq : q = r
    · subst hq
      rw [if_pos rfl, if_pos List.mem_cons_self, BitVec.and_assoc, BitVec.and_self, ite_self]
    · rw [if_neg hq, if_congr (List.mem_cons.trans (or_iff_right hq)) rfl rfl]

/-- The rights of page `q`, and of those below it, are set. -/
def rightsSet (w : State) (q : Nat) (m : BitVec 7) : State :=
  remeasure ((childrenOf q).foldl (cutRights m) (modPart w q fun x => { x with rights := m }))

theorem runCommand_rightsCmd {q : Nat} (h6 : rights.getLsbD 6 = true) (hq : childOf p (a 0 % 4096) = some q)
    (hm : BitVec.ofNat 7 (a 1) &&& ~~~rights = 0) (hl : lockedFor w p q = false) :
    runCommand w p 0x03 rights a = .ok (rightsSet w q (BitVec.ofNat 7 (a 1)), none) := by
  have heq : runCommand w p 0x03 rights a = doRights w p rights a := if_neg (runCommand_allowed rfl h6)
  rw [heq, doRights, hq]
  dsimp only
  rw [if_neg (not_not.mpr hm), hl]
  rfl

/-- A page is not among those below it. -/
theorem not_mem_childrenOf (q : Nat) : q ∉ childrenOf q := by
  intro hq
  unfold childrenOf at hq
  split at hq
  next h1 =>
    obtain ⟨i, hi, heq⟩ := List.mem_map.mp hq
    have hi := List.mem_range.mp hi
    unfold levelOf at h1
    unfold vfOf at heq
    split at h1
    · cases h1
    · split at h1
      · omega
      · cases h1
  · exact List.not_mem_nil hq

theorem rightsSet_rights (q : Nat) (m : BitVec 7) : (partOf (rightsSet w q m) q).rights = m ∧
    ∀ r ∈ childrenOf q, (partOf (rightsSet w q m) r).rights = (partOf w r).rights &&& m := by
  refine ⟨?_, fun r hr => ?_⟩
  · rw [rightsSet, (remeasured _).partOf, cutRights_foldl, partOf_modPart, if_pos rfl, BitVec.and_self, ite_self]
  · rw [rightsSet, (remeasured _).partOf, cutRights_foldl, partOf_modPart, if_pos hr, if_neg (show ¬r = q from fun h => not_mem_childrenOf q (h ▸ hr))]

/-! IFCFG, DISTCFG, CORESET (R247, R313, R315, R316). -/

theorem runCommand_ifcfg (h6 : rights.getLsbD 6 = true) (hl : levelOf p = 1) : runCommand w p 0x04 rights a =
    .ok (modPart w (16 * vfOf p + a 0 % 16) fun x => { x with pasid := BitVec.ofNat 20 (a 1), mirror := (a 1).testBit 20 }, none) := by
  have heq : runCommand w p 0x04 rights a = doIfcfg w p a := if_neg (runCommand_allowed rfl h6)
  rw [heq, doIfcfg, if_neg (not_not.mpr hl)]
  rfl

theorem runCommand_distcfg {q : Nat} (h6 : rights.getLsbD 6 = true) (hq : childOf p (a 0 % 4096) = some q) (h2 : a 2 % 4 ≤ 2)
    (hb : budgetHeld w p (a 1) = true) (hl : lockedFor w p q = false) : runCommand w p 0x28 rights a =
    .ok (modPart w q fun x => { x with distBudget := a 1, distAction := a 2 % 4 }, none) := by
  have heq : runCommand w p 0x28 rights a = doDistcfg w p a := if_neg (runCommand_allowed rfl h6)
  rw [heq, doDistcfg, hq]
  dsimp only
  rw [if_neg (by omega), hb, hl]
  rfl

theorem runCommand_coreset {ks : List Nat} (h6 : rights.getLsbD 6 = true) (hp : p = 0)
    (hks : spanKeys 0 (a 1 % 2 ^ 10) (a 1 / 2 ^ 16 % 2 ^ 11) 1 1024 = some ks)
    (hapart : ∀ e ∈ (authOf w).coreSets, e.1 ≠ a 0 % 16 → ∀ k ∈ e.2, k ∉ ks)
    (hgranted : ∀ k ∈ ks, ∃ e ∈ (authOf w).parts, levelOf e.1 = 1 ∧ tget false e.2.cores k = true)
    (hlocked : ∀ e ∈ (authOf w).parts, e.1 ≠ 0 → tget false e.2.sets (a 0 % 16) = true → vfLocked w (vfOf e.1) = false)
    (hscrub : scrubbed w 1 ks = false) : runCommand w p 0x05 rights a =
    .ok (setAuth w { authOf w with coreSets := tset [] (authOf w).coreSets (a 0 % 16) ks }, none) := by
  have heq : runCommand w p 0x05 rights a = doCoreset w p a := if_neg (runCommand_allowed rfl h6)
  have hany : ((authOf w).coreSets.any fun e => decide (e.1 ≠ a 0 % 16) && e.2.any ks.contains) = false := by
    refine List.any_eq_false.mpr fun e he h => ?_
    obtain ⟨hne, hex⟩ := Bool.and_eq_true _ _ |>.mp h
    obtain ⟨k, hk, hin⟩ := List.any_eq_true.mp hex
    exact hapart e he (of_decide_eq_true hne) k hk (List.contains_iff_mem.mp hin)
  have hall : coresGranted w ks = true := by
    refine List.all_eq_true.mpr fun k hk => ?_
    obtain ⟨e, he, hlevel, hheld⟩ := hgranted k hk
    exact List.any_eq_true.mpr ⟨e, he, by rw [hheld, decide_eq_true hlevel]; rfl⟩
  have hfree : lockedKey w p 2 (a 0 % 16) = false := by
    rw [lockedKey, Bool.and_eq_false_iff]
    refine .inr (List.any_eq_false.mpr fun e he h => ?_)
    obtain ⟨hleft, hlock⟩ := Bool.and_eq_true _ _ |>.mp h
    obtain ⟨hne, hheld⟩ := Bool.and_eq_true _ _ |>.mp hleft
    rw [hlocked e he (of_decide_eq_true hne) hheld] at hlock
    cases hlock
  rw [heq, doCoreset]
  dsimp only
  rw [hks]
  dsimp only
  rw [if_neg (not_not.mpr hp), hany, if_neg Bool.false_ne_true, hall, hfree, hscrub]
  rfl

/-! HOSTWIN, APERTURE (R313, R314). -/

/-- A window that waits for its switch window. -/
def windowSet (i : Nat) (x : HostWindow) (y : Partition) : Partition := { y with newWindows := tins y.newWindows i x }

theorem runCommand_hostwin (h0 : rights.getLsbD 0 = true) (hp : levelOf p = 2) (h1 : a 1 % 4096 = 0) (h2 : a 2 % 4096 = 0)
    (h3 : a 2 ≤ 2 ^ 40)
    (htee : vfLocked w (vfOf p) = true → (a 3).testBit 2 = false ∧ (tget {} (partOf w p).windows (a 0 % 16)).tee = false) :
    runCommand w p 0x20 rights a = .ok (modPart w p (windowSet (a 0 % 16)
      ⟨a 1, a 2, (a 3).testBit 0, (a 3).testBit 1, (a 3).testBit 2⟩), none) := by
  have heq : runCommand w p 0x20 rights a = doHostwin w p a := if_neg (runCommand_allowed rfl h0)
  have hbad : ¬(levelOf p ≠ 2 ∨ a 1 % 4096 ≠ 0 ∨ a 2 % 4096 ≠ 0 ∨ 2 ^ 40 < a 2) := by
    rintro (h | h | h | h)
    · exact h hp
    · exact h h1
    · exact h h2
    · omega
  have hfrozen : ¬(((tget {} (partOf w p).windows (a 0 % 16)).tee || (a 3).testBit 2) && vfLocked w (vfOf p)) = true := by
    intro h
    obtain ⟨hor, hlock⟩ := Bool.and_eq_true _ _ |>.mp h
    obtain ⟨hn, ho⟩ := htee hlock
    rw [hn, ho] at hor
    cases hor
  rw [heq, doHostwin, if_neg hbad, if_neg hfrozen]
  rfl

/-- An aperture slot is set. -/
def apertureSet (i : Nat) (x : Nat × Nat) (y : Partition) : Partition := { y with apertures := tset (0, 0) y.apertures i x }

theorem runCommand_apertureClear (h0 : rights.getLsbD 0 = true) (hc : (a 0).testBit 63 = true) :
    runCommand w p 0x21 rights a = .ok (modPart w p (apertureSet (a 0 % 4096) (0, 0)), none) := by
  have heq : runCommand w p 0x21 rights a = doAperture w p a := if_neg (runCommand_allowed rfl h0)
  rw [heq, doAperture, if_pos hc]
  rfl

theorem runCommand_aperture (h0 : rights.getLsbD 0 = true) (hc : (a 0).testBit 63 = false) (hown : ownsCtx w p (a 1 % 4096) = true)
    (hs : pagesScrubbed w (a 1 % 4096) (a 2 % 16384) 1 = false) :
    runCommand w p 0x21 rights a = .ok (modPart w p (apertureSet (a 0 % 4096) (a 1 % 4096 + 1, a 2 % 16384)), none) := by
  have heq : runCommand w p 0x21 rights a = doAperture w p a := if_neg (runCommand_allowed rfl h0)
  rw [heq, doAperture, hc, if_neg Bool.false_ne_true, hown, hs]
  rfl

theorem slots_apertureSet (i : Nat) (x : Nat × Nat) (j : Nat) : tget (0, 0) (partOf (modPart w p (apertureSet i x)) p).apertures j =
    if j = i then x else tget (0, 0) (partOf w p).apertures j := by
  rw [partOf_modPart, if_pos rfl]
  exact tget_tset ..

end

end Sys2Proof.Machine
end

section
/-! PROOF. GRANT of resources and of power (R248, R305, R307, R329). -/

namespace Sys2Proof.Machine

/-! Cells whose PART is set (R248). -/

theorem find?_tins {α : Type} (t : Table α) (k : Nat) (v : α) : (tins t k v).find? (fun e => decide (e.1 = k)) = some (k, v) := by
  induction t with
  | nil => simp [tins]
  | cons e t ih =>
    obtain ⟨j, x⟩ := e
    rw [tins]
    split
    · simp
    · split
      · simp
      next h =>
        rw [List.find?_cons_of_neg (by simpa using Ne.symm h), ih]

/-- The word of a cell whose PART is `part`. -/
def partCell (x : Word) (part : Nat) (clear : Bool) : Word :=
  (if clear then 0 else x &&& 0x7FFFFFF) ||| BitVec.ofNat 64 (part % 4096 * 2 ^ 27)

theorem cellTo_next (s : State) (key part : Nat) (clear : Bool) :
    cellNext (cellTo s key part clear) (key / 16) (key % 16) = partCell (cellNext s (key / 16) (key % 16)) part clear := by
  have hnew : (authOf (cellTo s key part clear)).newCells =
      tins (authOf s).newCells key (partCell (cellNext s (key / 16) (key % 16)) part clear) := rfl
  have hkey : 16 * (key / 16) + key % 16 = key := Nat.div_add_mod key 16
  rw [cellNext, hnew, hkey, find?_tins]
  rfl

/-- The step changes what the slot matrix or the hub's tables will hold: cores, gangs, contexts and pages stay. -/
structure Matrixed (s t : State) : Prop where
  cores : t.cores = s.cores
  gangs : t.gangs = s.gangs
  ctxs : (authOf t).ctxs = (authOf s).ctxs
  parts : (authOf t).parts = (authOf s).parts

theorem Matrixed.refl (s : State) : Matrixed s s := ⟨rfl, rfl, rfl, rfl⟩

theorem Matrixed.trans {s t u : State} (h₁ : Matrixed s t) (h₂ : Matrixed t u) : Matrixed s u :=
  ⟨h₂.cores.trans h₁.cores, h₂.gangs.trans h₁.gangs, h₂.ctxs.trans h₁.ctxs, h₂.parts.trans h₁.parts⟩

theorem Matrixed.foldl {α : Type} {f : State → α → State} (h : ∀ s a, Matrixed s (f s a)) (as : List α) (s : State) :
    Matrixed s (as.foldl f s) := by
  induction as generalizing s with
  | nil => exact .refl s
  | cons a as ih => exact (h s a).trans (ih (f s a))

theorem Matrixed.partOf {s t : State} (h : Matrixed s t) (q : Nat) : partOf t q = partOf s q := by
  rw [Machine.partOf, Machine.partOf, h.parts]

theorem matrixed_cellTo (s : State) (key part : Nat) (clear : Bool) : Matrixed s (cellTo s key part clear) := ⟨rfl, rfl, rfl, rfl⟩

theorem Remeasured.matrixed {s t : State} (h : Remeasured s t) : Matrixed s t := ⟨h.cores, h.gangs, h.ctxs, h.parts⟩

/-! What a page holds of a kind (R305, R321). -/

/-- The page with the keys `ks` of a kind given or taken. -/
def withKeys (kind : Nat) (ks : List Nat) (b : Bool) (x : Partition) : Partition :=
  setHeld x kind (ks.foldl (fun t k => tset false t k b) (heldTable x kind))

theorem heldTable_setHeld (x : Partition) (kind : Nat) (t : Table Bool) : heldTable (setHeld x kind t) kind = t :=
  match kind with
  | 0 | 1 | 2 | 3 | 4 | 5 | 6 | 7 => rfl
  | _ + 8 => rfl

theorem held_withKeys (kind : Nat) (ks : List Nat) (b : Bool) (x : Partition) (k : Nat) :
    tget false (heldTable (withKeys kind ks b x) kind) k = if k ∈ ks then b else tget false (heldTable x kind) k := by
  rw [withKeys, heldTable_setHeld]
  exact tget_foldl_tset false (fun _ => b) ks (heldTable x kind) k

section
variable {w : State} {p q kind : Nat} {keys : List Nat} {rights : BitVec 7} {a : Nat → Nat}

/-! GRANT of resources (R305, R335). -/

/-- The keys that a grant gives: no retired page. -/
def grantKeys (w : State) (kind : Nat) (keys : List Nat) : List Nat :=
  if kind = 9 then keys.filter fun k => !tget false (houseOf w).retiredPages k else keys

/-- The cells of a grant name their new holder. -/
def cellsTo (kind q : Nat) (keys : List Nat) (s : State) : State :=
  if kind = 3 then keys.foldl (fun s k => cellTo s k q false) s else s

/-- The page `q` holds the keys. -/
def granted (w : State) (q kind : Nat) (keys : List Nat) : State :=
  remeasure (cellsTo kind q (grantKeys w kind keys) (modPart w q (withKeys kind (grantKeys w kind keys) true)))

theorem mem_grantKeys {k : Nat} : k ∈ grantKeys w kind keys ↔ k ∈ keys ∧ (kind = 9 → tget false (houseOf w).retiredPages k = false) := by
  unfold grantKeys
  split
  next h => simp [h, List.mem_filter]
  next h => simp [h]

theorem matrixed_granted (w : State) (q kind : Nat) (keys : List Nat) :
    Matrixed (modPart w q (withKeys kind (grantKeys w kind keys) true)) (granted w q kind keys) := by
  refine Matrixed.trans ?_ (remeasured _).matrixed
  unfold cellsTo
  split
  · exact .foldl (fun s k => matrixed_cellTo s k q false) _ _
  · exact .refl _

theorem runCommand_grant (h6 : rights.getLsbD 6 = true) (hq : childOf p (a 0 % 4096) = some q)
    (hks : specKeys (a 1 % 256) (a 2) = some keys) (h8 : a 1 % 256 ≠ 8) (hheld : ∀ k ∈ keys, holds w p (a 1 % 256) k = true)
    (hone : a 1 % 256 = 1 → levelOf q = 2 → ∀ e ∈ (authOf w).parts, e.1 ≠ q → levelOf e.1 = 2 →
      ∀ k ∈ keys, tget false e.2.cores k = false)
    (hl : lockedFor w p q = false) (hs : scrubbed w (a 1 % 256) keys = false)
    (h9 : a 1 % 256 = 9 → envPageCount w keys ≤ 32768) :
    runCommand w p 0x01 rights a = .ok (granted w q (a 1 % 256) keys, none) := by
  have heq : runCommand w p 0x01 rights a = doGrant w p rights a := if_neg (runCommand_allowed rfl h6)
  have hall : keys.all (holds w p (a 1 % 256)) = true := List.all_eq_true.mpr hheld
  have halone : ¬(a 1 % 256 = 1 ∧ levelOf q = 2 ∧ ((authOf w).parts.any fun e =>
      decide (e.1 ≠ q ∧ levelOf e.1 = 2) && keys.any fun k => tget false e.2.cores k) = true) := by
    rintro ⟨h1, h2, hany⟩
    obtain ⟨e, he, h⟩ := List.any_eq_true.mp hany
    obtain ⟨hd, hk⟩ := Bool.and_eq_true _ _ |>.mp h
    obtain ⟨k, hin, hcore⟩ := List.any_eq_true.mp hk
    have hd := of_decide_eq_true hd
    rw [hone h1 h2 e he hd.1 hd.2 k hin] at hcore
    cases hcore
  rw [heq, doGrant, hq, hks]
  generalize a 1 % 256 = kind at h8 hall halone hs h9 ⊢
  dsimp only
  rw [if_neg fun h => h8 h.1, if_neg fun h => h8 h.1, hall, if_neg (by decide), if_neg halone, hl, if_neg Bool.false_ne_true, hs,
    if_neg Bool.false_ne_true, if_neg fun h => absurd (h9 h.1) (Nat.not_le.mpr h.2), if_neg h8]
  rfl

theorem granted_holds (k : Nat) : tget false (heldTable (partOf (granted w q kind keys) q) kind) k = true ↔
    k ∈ keys ∧ (kind = 9 → tget false (houseOf w).retiredPages k = false) ∨ tget false (heldTable (partOf w q) kind) k = true := by
  rw [(matrixed_granted ..).partOf, partOf_modPart, if_pos rfl, held_withKeys, ← mem_grantKeys]
  by_cases hk : k ∈ grantKeys w kind keys
  · rw [if_pos hk]
    exact iff_of_true rfl (.inl hk)
  · rw [if_neg hk]
    exact (or_iff_right hk).symm

theorem granted_others {r : Nat} (hr : r ≠ q) : partOf (granted w q kind keys) r = partOf w r := by
  rw [(matrixed_granted ..).partOf, partOf_modPart, if_neg hr]

theorem granted_cells {c : Nat} (hks : specKeys 3 c = some keys) {k : Nat} (hk : k ∈ keys) :
    cellNext (granted w q 3 keys) (k / 16) (k % 16) = cellNext w (k / 16) (k % 16) &&& 0x7FFFFFF ||| BitVec.ofNat 64 (q % 4096 * 2 ^ 27) := by
  obtain ⟨j, hj⟩ : ∃ j, keys = [j] := ⟨_, (Option.some.inj hks).symm⟩
  subst hj
  rw [List.mem_singleton.mp hk]
  exact cellTo_next (modPart w q (withKeys 3 [j] true)) j q false

/-! Power shares (R305, R329). -/

/-- The power of page `q`'s children is cut to what is left of `w` watts. -/
def cutOne (b : Nat × State) (e : Nat × Partition) : Nat × State :=
  let n := min b.1 (partOf b.2 e.1).power
  (b.1 - n, if n = (partOf b.2 e.1).power then b.2 else modPart b.2 e.1 fun x => { x with power := n })

theorem cutShares_eq (s : State) (p w : Nat) : cutShares s p w =
    (((authOf s).parts.filter fun e => decide (e.1 ≠ p ∧ parentOf e.1 = p)).foldl cutOne (w, s)).2 := rfl

theorem cutOne_left (b : Nat × State) (e : Nat × Partition) : (cutOne b e).1 ≤ b.1 := Nat.sub_le ..

theorem cutOne_apart (b : Nat × State) (e : Nat × Partition) {r : Nat} (h : r ≠ e.1) : partOf (cutOne b e).2 r = partOf b.2 r := by
  rw [cutOne]
  dsimp only
  split
  · rfl
  · rw [partOf_modPart, if_neg h]

theorem cutOne_power (b : Nat × State) (e : Nat × Partition) (r : Nat) :
    (partOf (cutOne b e).2 r).power ≤ (partOf b.2 r).power ∧ (r = e.1 → (partOf (cutOne b e).2 r).power ≤ b.1) := by
  by_cases hr : r = e.1
  · subst hr
    have hle : (partOf (cutOne b e).2 e.1).power ≤ min b.1 (partOf b.2 e.1).power := by
      rw [cutOne]
      dsimp only
      split
      next h => exact h.ge
      · rw [partOf_modPart, if_pos rfl]
    exact ⟨hle.trans (Nat.min_le_right ..), fun _ => hle.trans (Nat.min_le_left ..)⟩
  · rw [cutOne_apart b e hr]
    exact ⟨Nat.le_refl _, fun h => absurd h hr⟩

theorem cut_foldl (es : List (Nat × Partition)) (b : Nat × State) (r : Nat) :
    (partOf (es.foldl cutOne b).2 r).power ≤ (partOf b.2 r).power ∧
      (r ∈ es.map (·.1) → (partOf (es.foldl cutOne b).2 r).power ≤ b.1) ∧
      (r ∉ es.map (·.1) → partOf (es.foldl cutOne b).2 r = partOf b.2 r) := by
  induction es generalizing b with
  | nil => exact ⟨Nat.le_refl _, fun h => absurd h List.not_mem_nil, fun _ => rfl⟩
  | cons e es ih =>
    obtain ⟨hle, hin, hout⟩ := ih (cutOne b e)
    obtain ⟨hone, hself⟩ := cutOne_power b e r
    refine ⟨hle.trans hone, fun h => ?_, fun h => ?_⟩
    · rw [List.foldl_cons]
      by_cases hr : r = e.1
      · exact hle.trans (hself hr)
      · exact (hin ((List.mem_cons.mp h).resolve_left hr)).trans (cutOne_left b e)
    · obtain ⟨hne, hnot⟩ := not_or.mp (mt List.mem_cons.mpr h)
      exact (hout hnot).trans (cutOne_apart b e hne)

/-- The children's shares of page `q` fit in `n`; the other pages stay. -/
theorem cutShares_cuts (s : State) (q n r : Nat) : (r ≠ q → parentOf r = q → (partOf (cutShares s q n) r).power ≤ n) ∧
    ((r = q ∨ parentOf r ≠ q) → partOf (cutShares s q n) r = partOf s r) := by
  obtain ⟨hle, hin, hout⟩ := cut_foldl ((authOf s).parts.filter fun e => decide (e.1 ≠ q ∧ parentOf e.1 = q)) (n, s) r
  rw [cutShares_eq]
  refine ⟨fun hr hp => ?_, fun h => hout fun hmem => ?_⟩
  · by_cases hd : partOf s r = {}
    · have : (partOf s r).power = 0 := by rw [hd]
      exact hle.trans (this.le.trans (Nat.zero_le _))
    · exact hin (List.mem_map.mpr ⟨_, List.mem_filter.mpr ⟨mem_of_tget_ne hd, decide_eq_true ⟨hr, hp⟩⟩, rfl⟩)
  · obtain ⟨e, he, rfl⟩ := List.mem_map.mp hmem
    obtain ⟨hne, hp⟩ := of_decide_eq_true (List.mem_filter.mp he).2
    exact h.elim hne fun h => h hp

theorem setPower_sets (s : State) (q n : Nat) : (partOf (setPower s q n) q).power = n ∧
    (∀ r, r ≠ q → parentOf r ≠ q → partOf (setPower s q n) r = partOf s r) ∧
    ∀ r, r ≠ q → parentOf r = q → (partOf (setPower s q n) r).power ≤ n := by
  refine ⟨?_, fun r hr hp => ?_, fun r hr hp => (cutShares_cuts _ q n r).1 hr hp⟩
  · rw [setPower, (cutShares_cuts _ q n q).2 (.inl rfl), partOf_modPart, if_pos rfl]
  · rw [setPower, (cutShares_cuts _ q n r).2 (.inr hp), partOf_modPart, if_neg hr]

theorem runCommand_grantPower (h6 : rights.getLsbD 6 = true) (hq : childOf p (a 0 % 4096) = some q) (h8 : a 1 % 256 = 8)
    (h3 : rights.getLsbD 3 = true) (hpow : dividedPower w p q + a 2 % 2 ^ 13 ≤ powerOf w p) (hl : lockedFor w p q = false) :
    runCommand w p 0x01 rights a = .ok (remeasure (setPower w q (a 2 % 2 ^ 13)), none) := by
  have heq : runCommand w p 0x01 rights a = doGrant w p rights a := if_neg (runCommand_allowed rfl h6)
  have hks : specKeys 8 (a 2) = some [] := rfl
  rw [heq, doGrant, hq, h8, hks]
  dsimp only
  rw [if_neg (by rw [h3]; decide), if_neg fun h => absurd hpow (Nat.not_le.mpr h.2), if_neg (by simp),
    if_neg fun h => absurd h.1 (by decide), hl, if_neg Bool.false_ne_true, show scrubbed w 8 [] = false from rfl, if_neg Bool.false_ne_true,
    if_neg fun h => absurd h.1 (by decide)]
  rfl

end

end Sys2Proof.Machine
end

section
/-! PROOF. REVOKE (R308): keys are taken, the contexts that use them are told, torn down or doomed. -/

namespace Sys2Proof.Machine

/-- What every step of a fold keeps, the fold keeps. -/
theorem foldl_same {α β γ : Type} (π : β → γ) {f : β → α → β} (hf : ∀ b a, π (f b a) = π b) (as : List α) (b : β) :
    π (as.foldl f b) = π b :=
  foldl_keeps (P := fun c => π c = π b) (fun c a h => (hf c a).trans h) as b rfl

/-- The step withdraws: contexts, cores and gangs stay, and no page comes to hold a key of the kind. -/
structure Withdraws (kind : Nat) (s t : State) : Prop where
  ctxs : (authOf t).ctxs = (authOf s).ctxs
  less : ∀ r k, tget false (heldTable (partOf s r) kind) k = false → tget false (heldTable (partOf t r) kind) k = false

theorem Withdraws.refl (kind : Nat) (s : State) : Withdraws kind s s := ⟨rfl, fun _ _ h => h⟩

theorem Withdraws.trans {kind : Nat} {s t u : State} (h₁ : Withdraws kind s t) (h₂ : Withdraws kind t u) : Withdraws kind s u :=
  ⟨h₂.ctxs.trans h₁.ctxs, fun r k h => h₂.less r k (h₁.less r k h)⟩

theorem Matrixed.withdraws {s t : State} (h : Matrixed s t) (kind : Nat) : Withdraws kind s t :=
  ⟨h.ctxs, fun r k hk => by rw [h.partOf]; exact hk⟩

theorem matrixed_setFab (s : State) (f : Fabric) : Matrixed s (setFab s f) := ⟨rfl, rfl, rfl, rfl⟩

theorem matrixed_setEnv (s : State) (e : Cluster) : Matrixed s (setEnv s e) := ⟨rfl, rfl, rfl, rfl⟩

theorem matrixed_putAway (s : State) (kind : Nat) (keys : List Nat) : Matrixed s (putAway s kind keys) := by
  unfold putAway
  split
  · exact .foldl (fun u k => matrixed_setFab u _) _ s
  · exact .foldl (fun u h => matrixed_setEnv u _) _ s
  · exact .refl s

section
variable {p kind : Nat} {keys : List Nat} {atOnce : Bool}

/-- The keys of `keys` that page `q` holds. -/
def heldKeys (s : State) (q kind : Nat) (keys : List Nat) : List Nat := keys.filter fun k => tget false (heldTable (partOf s q) kind) k

/-- They are taken from it. -/
def takenFrom (s : State) (q kind : Nat) (keys : List Nat) : State := modPart s q (withKeys kind (heldKeys s q kind keys) false)

theorem takenFrom_holds (s : State) (q r k : Nat) : tget false (heldTable (partOf (takenFrom s q kind keys) r) kind) k =
    (tget false (heldTable (partOf s r) kind) k && !decide (r = q ∧ k ∈ keys)) := by
  rw [takenFrom, partOf_modPart]
  by_cases hr : r = q
  · subst hr
    rw [if_pos rfl, held_withKeys]
    cases hk : tget false (heldTable (partOf s r) kind) k
    · simp
    · simp [heldKeys, hk]
  · rw [if_neg hr, decide_eq_false fun h => hr h.1, Bool.not_false, Bool.and_true]

/-- What a withdrawal does beside: cells fall to the issuer, shares and harts fall idle now or at the next boundary. -/
def leftBehind (s : State) (p kind : Nat) (mine : List Nat) (atOnce : Bool) : State :=
  if kind = 3 then mine.foldl (fun s k => cellTo s k p true) s
  else if atOnce then putAway s kind mine
  else if kind ≠ 4 ∧ kind ≠ 5 ∨ mine = [] then s
  else setAuth s { authOf s with leaving := (authOf s).leaving ++ [(kind, mine)] }

theorem withdraw_eq (s : State) (q : Nat) :
    withdraw s p q kind keys atOnce = leftBehind (takenFrom s q kind keys) p kind (heldKeys s q kind keys) atOnce := rfl

theorem matrixed_leftBehind (s : State) (mine : List Nat) : Matrixed s (leftBehind s p kind mine atOnce) := by
  unfold leftBehind
  split
  · exact .foldl (fun s k => matrixed_cellTo s k p true) _ s
  · split
    · exact matrixed_putAway ..
    · split
      · exact .refl s
      · exact ⟨rfl, rfl, rfl, rfl⟩

theorem foldl_cellTo_fab (mine : List Nat) (s : State) : fabOf (mine.foldl (fun s k => cellTo s k p true) s) = fabOf s :=
  foldl_same fabOf (f := fun s k => cellTo s k p true) (fun _ _ => rfl) mine s

theorem leftBehind_fab (s : State) (mine : List Nat) : fabOf (leftBehind s p kind mine false) = fabOf s := by
  unfold leftBehind
  split
  · exact foldl_cellTo_fab mine s
  · rw [if_neg Bool.false_ne_true]
    split <;> rfl

theorem withdraw_withdraws (s : State) (q : Nat) : Withdraws kind s (withdraw s p q kind keys atOnce) ∧
    ∀ k ∈ keys, tget false (heldTable (partOf (withdraw s p q kind keys atOnce) q) kind) k = false := by
  have beside := matrixed_leftBehind (p := p) (kind := kind) (atOnce := atOnce) (takenFrom s q kind keys) (heldKeys s q kind keys)
  rw [withdraw_eq]
  refine ⟨Withdraws.trans (t := takenFrom s q kind keys) ⟨rfl, fun r k h => ?_⟩ (beside.withdraws kind), fun k hk => ?_⟩
  · rw [takenFrom_holds, h, Bool.false_and]
  · rw [beside.partOf, takenFrom_holds, decide_eq_true ⟨rfl, hk⟩, Bool.not_true, Bool.and_false]

/-- The keys are withdrawn from each of the pages. -/
def cutFrom (s : State) (p : Nat) (qs : List Nat) (kind : Nat) (keys : List Nat) (atOnce : Bool) : State :=
  qs.foldl (fun s r => withdraw s p r kind keys atOnce) s

theorem cutFrom_withdraws (qs : List Nat) (s : State) : Withdraws kind s (cutFrom s p qs kind keys atOnce) ∧
    ∀ r ∈ qs, ∀ k ∈ keys, tget false (heldTable (partOf (cutFrom s p qs kind keys atOnce) r) kind) k = false := by
  induction qs generalizing s with
  | nil => exact ⟨.refl kind s, fun _ h => nomatch h⟩
  | cons q qs ih =>
    obtain ⟨first, hgone⟩ := withdraw_withdraws (p := p) (kind := kind) (keys := keys) (atOnce := atOnce) s q
    obtain ⟨rest, hrest⟩ := ih (withdraw s p q kind keys atOnce)
    refine ⟨first.trans rest, fun r hr k hk => ?_⟩
    rcases List.mem_cons.mp hr with rfl | hr
    · exact rest.less r k (hgone k hk)
    · exact hrest r hr k hk

theorem cutFrom_fab (qs : List Nat) (s : State) : fabOf (cutFrom s p qs kind keys false) = fabOf s :=
  foldl_same fabOf (f := fun s r => withdraw s p r kind keys false) (fun u r => leftBehind_fab (takenFrom u r kind keys) _) qs s

end

/-! The contexts that use what is withdrawn. -/

/-- The step keeps what the pages hold. -/
def PagesSame (s t : State) : Prop := ∀ q, SamePage (partOf s q) (partOf t q)

theorem revokeContext_pages (s : State) (x : Nat) : PagesSame s (revokeContext s x) := by
  intro q
  have modified : SamePage (partOf s q) (partOf (modCtx s x undoomed) q) := .refl _
  have heq : revokeContext s x = postEvent (if (ctxOf s x).gang = 0 then modCtx s x undoomed
      else abortGang (modCtx s x undoomed) ((ctxOf s x).gang - 1) .control) (ctxOf s x).vdid .control evRevoked [x] [] := rfl
  rw [heq]
  refine modified.trans (SamePage.trans ?_ ((standing_postEvent ..).pages q))
  split
  · exact .refl _
  · exact (standing_abortGang ..).pages q

theorem revoked_pages (xs : List Nat) (s : State) : PagesSame s (xs.foldl revokeContext s) := by
  induction xs generalizing s with
  | nil => exact fun _ => .refl _
  | cons x xs ih => exact fun q => (revokeContext_pages s x q).trans (ih (revokeContext s x) q)

/-- The context is torn down at the next boundary. -/
def doom (s : State) (x : Nat) : State := modCtx s x fun c => { c with doomed := true }

theorem doomed_dooms (xs : List Nat) (s : State) (y : Nat) :
    (ctxOf (xs.foldl doom s) y).doomed = (decide (y ∈ xs) || (ctxOf s y).doomed) := by
  induction xs generalizing s with
  | nil => rfl
  | cons x xs ih =>
    rw [List.foldl_cons, ih, doom, ctxOf_modCtx]
    by_cases hy : y = x
    · simp [hy]
    · simp [hy]

theorem doomed_pages (xs : List Nat) (s : State) (q : Nat) : partOf (xs.foldl doom s) q = partOf s q :=
  foldl_same (partOf · q) (f := doom) (fun _ _ => rfl) xs s

theorem doomed_fab (xs : List Nat) (s : State) : fabOf (xs.foldl doom s) = fabOf s := foldl_same fabOf (f := doom) (fun _ _ => rfl) xs s

/-! The command. -/

/-- The contexts of the pages that use the keys. -/
def usersOf (s : State) (qs : List Nat) (kind : Nat) (keys : List Nat) : List Nat :=
  ((authOf s).ctxs.filter fun e => qs.contains e.2.vdid && usesResource s e.1 kind keys).map (·.1)

theorem mem_usersOf {s : State} {qs keys : List Nat} {kind : Nat} {e : Nat × Ctx} (he : e ∈ (authOf s).ctxs) (hq : e.2.vdid ∈ qs)
    (hu : usesResource s e.1 kind keys = true) : e.1 ∈ usersOf s qs kind keys := by
  refine List.mem_map.mpr ⟨e, List.mem_filter.mpr ⟨he, ?_⟩, rfl⟩
  rw [List.contains_iff_mem.mpr hq, hu]
  rfl

theorem usersOf_power (s : State) (qs : List Nat) : usersOf s qs 8 [] = [] := by
  rw [usersOf, List.filter_eq_nil_iff.mpr fun e _ => ?_]
  · rfl
  · rw [show usesResource s e.1 8 [] = false from rfl, Bool.and_false]
    decide

/-- The partition is told where no context of it ends. -/
def revokeTold (s : State) (q : Nat) (users : List Nat) (ws : List Nat) : State :=
  if users.all fun x => decide ((ctxOf s x).vdid ≠ q) then postEvent s q .control evRevoked ws [] else s

theorem standing_revokeTold (s : State) (q : Nat) (users ws : List Nat) : Standing s (revokeTold s q users ws) := by
  unfold revokeTold
  split
  · exact standing_postEvent ..
  · exact .refl s

theorem revokeTold_fab (s : State) (q : Nat) (users ws : List Nat) : fabOf (revokeTold s q users ws) = fabOf s := by
  unfold revokeTold
  split
  · exact (logged_postEvent ..).fab
  · rfl

/-- What is withdrawn goes from the pages: power, or the keys. -/
def shrunk (s : State) (p q kind watts : Nat) (keys : List Nat) (atOnce : Bool) : State :=
  if kind = 8 then setPower s q ((partOf s q).power - watts) else cutFrom s p (q :: childrenOf q) kind keys atOnce

/-- The contexts end now or at the next boundary. -/
def usersEnd (users : List Nat) (atOnce : Bool) (s : State) : State :=
  if atOnce then users.foldl revokeContext s else users.foldl doom s

section
variable {w : State} {p q : Nat} {keys : List Nat} {rights : BitVec 7} {a : Nat → Nat}

/-- The state that a revocation leaves. -/
def revoked (w : State) (p q kind spec : Nat) (keys : List Nat) (atOnce : Bool) : State :=
  let users := usersOf w (q :: childrenOf q) kind keys
  remeasure (usersEnd users atOnce (revokeTold (shrunk w p q kind (spec % 2 ^ 13) keys atOnce) q users [kind, spec]))

theorem runCommand_revoke (h6 : rights.getLsbD 6 = true) (hq : childOf p (a 0 % 4096) = some q)
    (hks : specKeys (a 1 % 256) (a 2) = some keys) (hheld : ∀ k ∈ keys, holds w p (a 1 % 256) k = true)
    (hl : lockedFor w p q = false) (hs : scrubbed w (a 1 % 256) keys = false) :
    runCommand w p 0x02 rights a = .ok (revoked w p q (a 1 % 256) (a 2) keys ((a 1).testBit 8), none) := by
  have heq : runCommand w p 0x02 rights a = doRevoke w p a := if_neg (runCommand_allowed rfl h6)
  have hall : keys.all (holds w p (a 1 % 256)) = true := List.all_eq_true.mpr hheld
  rw [heq, doRevoke, hq, hks]
  generalize a 1 % 256 = kind at hall hs ⊢
  dsimp only
  rw [hall, if_neg (by decide), hl, if_neg Bool.false_ne_true, hs, if_neg Bool.false_ne_true]
  rfl

end

section
variable {w : State} {p q kind spec : Nat} {keys : List Nat} {atOnce : Bool}

theorem usersEnd_pages (users : List Nat) (atOnce : Bool) (s : State) : PagesSame s (usersEnd users atOnce s) := by
  unfold usersEnd
  split
  · exact revoked_pages users s
  · intro r
    rw [doomed_pages]
    exact .refl _

/-- What is withdrawn is what the pages lose. -/
theorem revoked_pagesSame : PagesSame (shrunk w p q kind (spec % 2 ^ 13) keys atOnce) (revoked w p q kind spec keys atOnce) := by
  intro r
  rw [revoked, (remeasured _).partOf]
  exact ((standing_revokeTold ..).pages r).trans (usersEnd_pages _ _ _ r)

theorem revoked_gone (h8 : kind ≠ 8) : ∀ r ∈ q :: childrenOf q, ∀ k ∈ keys,
    tget false (heldTable (partOf (revoked w p q kind spec keys atOnce) r) kind) k = false := by
  intro r hr k hk
  rw [(revoked_pagesSame r).held, shrunk, if_neg h8]
  exact (cutFrom_withdraws (q :: childrenOf q) w).2 r hr k hk

theorem revoked_fab (h8 : kind ≠ 8) : fabOf (revoked w p q kind spec keys false) = fabOf w := by
  rw [revoked, (remeasured _).fab, usersEnd, if_neg Bool.false_ne_true, doomed_fab, revokeTold_fab, shrunk, if_neg h8, cutFrom_fab]

theorem revoked_dooms {e : Nat × Ctx} (he : e ∈ (authOf w).ctxs) (hq : e.2.vdid ∈ q :: childrenOf q)
    (hu : usesResource w e.1 kind keys = true) : (ctxOf (revoked w p q kind spec keys false) e.1).doomed = true := by
  rw [revoked, ctxOf, (remeasured _).ctxs, ← ctxOf, usersEnd, if_neg Bool.false_ne_true, doomed_dooms,
    decide_eq_true (mem_usersOf he hq hu), Bool.true_or]

theorem revoked_ends (h8 : kind ≠ 8) {e : Nat × Ctx} (he : e ∈ (authOf w).ctxs) (hq : e.2.vdid ∈ q :: childrenOf q)
    (hu : usesResource w e.1 kind keys = true) {g : Nat} (hg : (ctxOf w e.1).gang = g + 1) :
    (gangOf (revoked w p q kind spec keys true) g).hasRun = false := by
  have hctxs : (authOf (revokeTold (shrunk w p q kind (spec % 2 ^ 13) keys true) q (usersOf w (q :: childrenOf q) kind keys)
      [kind, spec])).ctxs = (authOf w).ctxs := by
    rw [(standing_revokeTold ..).ctxs, shrunk, if_neg h8, (cutFrom_withdraws (q :: childrenOf q) w).1.ctxs]
  rw [revoked, gangOf, (remeasured _).gangs, ← gangOf, usersEnd, if_pos rfl]
  have hgang : (ctxOf (revokeTold (shrunk w p q kind (spec % 2 ^ 13) keys true) q (usersOf w (q :: childrenOf q) kind keys)
      [kind, spec]) e.1).gang = g + 1 := by rw [ctxOf, hctxs]; exact hg
  have := (revoked_revokes (usersOf w (q :: childrenOf q) kind keys) _).2.2 e.1 (mem_usersOf he hq hu)
    (by rw [hgang]; exact Nat.succ_pos g)
  rw [hgang] at this
  exact this

/-- The pages below a child of the issuer are its children. -/
theorem parentOf_childrenOf {x r : Nat} (hq : childOf p (x % 4096) = some q) (hr : r ∈ childrenOf q) : r ≠ q ∧ parentOf r = q := by
  refine ⟨fun h => not_mem_childrenOf q (h ▸ hr), ?_⟩
  unfold childrenOf at hr
  split at hr
  next hlevel =>
    obtain ⟨i, hi, rfl⟩ := List.mem_map.mp hr
    have hi := List.mem_range.mp hi
    have hhigh : 4096 ≤ q := by
      unfold levelOf at hlevel
      split at hlevel
      · cases hlevel
      · split at hlevel
        · assumption
        · cases hlevel
    unfold childOf at hq
    split at hq
    next hp =>
      split at hq
      next hv =>
        have hq := Option.some.inj hq
        rw [childPage, if_pos hp] at hq
        have hvf : vfOf q = x % 4096 / 16 := by unfold vfOf; omega
        have hl2 : levelOf (16 * vfOf q + i) = 2 := by
          rw [levelOf, if_neg (by omega), if_neg (by omega)]
        rw [parentOf, if_pos hl2, l1Page]
        omega
      · cases hq
    next =>
      split at hq
      · have hq := Option.some.inj hq
        have : x % 4096 < 4096 := Nat.mod_lt _ (by decide)
        omega
      · cases hq
    next => cases hq
  · cases hr

theorem revoked_power {x : Nat} (hq : childOf p (x % 4096) = some q) :
    (partOf (revoked w p q 8 spec [] atOnce) q).power = (partOf w q).power - spec % 2 ^ 13 ∧
      ∀ r ∈ childrenOf q, (partOf (revoked w p q 8 spec [] atOnce) r).power ≤ (partOf (revoked w p q 8 spec [] atOnce) q).power := by
  have hpower (r : Nat) : (partOf (revoked w p q 8 spec [] atOnce) r).power =
      (partOf (setPower w q ((partOf w q).power - spec % 2 ^ 13)) r).power := by
    rw [(revoked_pagesSame r).power, shrunk, if_pos rfl]
  obtain ⟨hself, -, hbelow⟩ := setPower_sets w q ((partOf w q).power - spec % 2 ^ 13)
  refine ⟨(hpower q).trans hself, fun r hr => ?_⟩
  obtain ⟨hne, hparent⟩ := parentOf_childrenOf hq hr
  rw [hpower, hpower, hself]
  exact hbelow r hne hparent

end

end Sys2Proof.Machine
end

section
/-! PROOF. The commands on contexts, gangs, cells and link shares (R246, R248, R311, R320). -/

namespace Sys2Proof.Machine

section
variable {w : State} {p : Nat} {rights : BitVec 7} {a : Nat → Nat}

/-! Contexts. -/

theorem runCommand_ctxcreate {y : Nat} (h0 : rights.getLsbD 0 = true) (hp : levelOf p = 2)
    (hprot : (a 1).testBit 0 = true → mayProtect w p = true) (hheld : holds w p 2 (a 0 % 16) = true)
    (hs : scrubbed w 2 [a 0 % 16] = false) (hy : freeCtx w = some y) : runCommand w p 0x10 rights a =
      .ok (setCtx w y { vdid := p, coreset := a 0 % 16, protect := (a 1).testBit 0 }, some (BitVec.ofNat 64 y)) := by
  have heq : runCommand w p 0x10 rights a = doCtxcreate w p a := if_neg (runCommand_allowed rfl h0)
  have hgood : ¬(levelOf p ≠ 2 ∨ (a 1).testBit 0 = true ∧ (!mayProtect w p) = true) := by
    rintro (h | ⟨hb, hm⟩)
    · exact h hp
    · rw [hprot hb] at hm
      cases hm
  rw [heq, doCtxcreate, if_neg hgood, hheld, hs, hy]
  rfl

/-- The bind table that host memory gives: an entry for each page. -/
def mapFrom (entry : Nat → Word) (n : Nat) : Table Word := (List.range n).foldl (fun t e => tset 0 t e (entry e)) []

theorem tget_mapFrom (entry : Nat → Word) {n e : Nat} (he : e < n) : tget 0 (mapFrom entry n) e = entry e := by
  rw [mapFrom, tget_foldl_tset, if_pos (List.mem_range.mpr he)]

theorem twf_foldl_tset {α : Type} [DecidableEq α] (d : α) (f : Nat → α) (is : List Nat) {t : Table α} (ht : twf d t = true) :
    twf d (is.foldl (fun t i => tset d t i (f i)) t) = true := by
  induction is generalizing t with
  | nil => exact ht
  | cons i is ih => exact ih (twf_tset i (f i) ht)

/-- An entry that is present and not zero is one of host memory's. -/
theorem mem_mapFrom {entry : Nat → Word} {n : Nat} {e : Nat × Word} (he : e ∈ mapFrom entry n) (h0 : e.2 ≠ 0) :
    e.1 < n ∧ e.2 = entry e.1 := by
  have hget := (twfFrom_mem (twf_foldl_tset 0 entry (List.range n) rfl) he).2
  rw [tget_foldl_tset] at hget
  by_cases hin : e.1 ∈ List.range n
  · rw [if_pos hin] at hget
    exact ⟨List.mem_range.mp hin, hget.symm⟩
  · rw [if_neg hin] at hget
    exact absurd hget.symm h0

/-- Entry `e` of the table at host address `at`. -/
def hostEntry (w : State) (p start e : Nat) : Word := BitVec.ofNat 64 (leNat (hostBytes w p (start + 8 * e) 8))

theorem scrubbed_mapFrom {entry : Nat → Word} {n : Nat} (h : ∀ r ∈ scrubAhead w, r.1 = 1 → ∀ e < n, bdV (entry e) = true →
      mapCore (entry e) * 256 + bdPage (entry e) ≠ 256 * r.2.1 + r.2.2) :
    scrubbed w 9 (((mapFrom entry n).filter fun e => bdV e.2).map fun e => mapCore e.2 * 256 + bdPage e.2) = false := by
  refine List.any_eq_false.mpr fun r hr hany => ?_
  obtain ⟨h1, hin⟩ := Bool.and_eq_true _ _ |>.mp hany
  obtain ⟨e, he, hkey⟩ := List.mem_map.mp (List.contains_iff_mem.mp hin)
  obtain ⟨hmem, hv⟩ := List.mem_filter.mp he
  obtain ⟨hlt, heq⟩ := mem_mapFrom hmem fun h0 => by rw [h0] at hv; cases hv
  rw [heq] at hv hkey
  exact h r hr (of_decide_eq_true h1) e.1 hlt hv hkey

/-- The context has the table. -/
def withMap (m : Table Word) (c : Ctx) : Ctx := { c with map := m }

theorem mapped_entry (w : State) (x : Nat) (entry : Nat → Word) {n e : Nat} (he : e < n) :
    tget 0 (ctxOf (modCtx w x (withMap (mapFrom entry n))) x).map e = entry e := by
  rw [ctxOf_modCtx, if_pos rfl]
  exact tget_mapFrom entry he

theorem runCommand_ctxmap (h0 : rights.getLsbD 0 = true) (hown : ownsCtx w p (a 0 % 4096) = true) (h1 : a 1 % 4096 = 0)
    (hwin : windowFor (partOf w p) (a 1) (2 ^ 17) false = true) (hdma : dmaBlocked w p = false)
    (hs : ∀ r ∈ scrubAhead w, r.1 = 1 → ∀ e < 16384, bdV (hostEntry w p (a 1) e) = true →
      mapCore (hostEntry w p (a 1) e) * 256 + bdPage (hostEntry w p (a 1) e) ≠ 256 * r.2.1 + r.2.2) :
    runCommand w p 0x11 rights a = .ok (modCtx w (a 0 % 4096) (withMap (mapFrom (hostEntry w p (a 1)) 16384)), none) := by
  have heq : runCommand w p 0x11 rights a = doCtxmap w p a := if_neg (runCommand_allowed rfl h0)
  have hgood : ¬(a 1 % 4096 ≠ 0 ∨ (!windowFor (partOf w p) (a 1) (2 ^ 17) false) = true ∨ dmaBlocked w p = true) := by
    rw [hwin, hdma]
    rintro (h | h | h)
    · exact h h1
    · cases h
    · cases h
  rw [heq]
  unfold doCtxmap
  dsimp only
  have hscrub := scrubbed_mapFrom hs
  unfold mapFrom hostEntry at hscrub ⊢
  rw [hown, if_neg (by decide), if_neg hgood, hscrub]
  rfl

/-- A partition without the apertures onto a context. -/
def withoutApertures (x : Nat) (y : Partition) : Partition := { y with apertures := y.apertures.filter fun e => decide (e.2.1 ≠ x + 1) }

/-- The gang and the apertures of a context are gone, and so is the context. -/
def forget (s : State) (p x gang : Nat) : State :=
  let s := modPart (if gang = 0 then s else setGang s (gang - 1) {}) p (withoutApertures x)
  setAuth s { authOf s with ctxs := tdel (authOf s).ctxs x }

theorem runCommand_ctxdestroy (h0 : rights.getLsbD 0 = true) (hown : ownsCtx w p (a 0 % 4096) = true) :
    ∃ u, runCommand w p 0x12 rights a = .ok (forget u p (a 0 % 4096) (ctxOf w (a 0 % 4096)).gang, none) := by
  have heq : runCommand w p 0x12 rights a = doCtxdestroy w p a := if_neg (runCommand_allowed rfl h0)
  rw [heq, doCtxdestroy, hown]
  exact ⟨_, rfl⟩

theorem forget_forgets (s : State) (x gang : Nat) : ctxOf (forget s p x gang) x = {} ∧
    (∀ e ∈ (partOf (forget s p x gang) p).apertures, e.2.1 ≠ x + 1) ∧ ∀ g, gang = g + 1 → gangOf (forget s p x gang) g = {} := by
  obtain ⟨v, hv⟩ : ∃ v, v = if gang = 0 then s else setGang s (gang - 1) {} := ⟨_, rfl⟩
  have hpart : partOf (forget s p x gang) p = withoutApertures x (partOf v p) := by
    rw [forget, ← hv]
    exact (partOf_modPart v p (withoutApertures x) p).trans (if_pos rfl)
  refine ⟨?_, ?_, fun g hg => ?_⟩
  · rw [forget]
    exact tget_tdel_self ..
  · rw [hpart]
    exact fun e he => of_decide_eq_true (List.mem_filter.mp he).2
  · have hset : v = setGang s g {} := by rw [hv, hg]; rfl
    rw [forget, ← hv, hset]
    exact gangOf_setGang_self s g {}

/-! Gangs, cells and link shares. -/

/-- The gang that the command makes. -/
def newGang (w : State) (p y n list g : Nat) : Gang :=
  { ctx := y, coreset := (ctxOf w y).coreset, vdid := p
    members := chipOf w :: (((Config.podMembers g).filter fun m => decide (m ≠ chipOf w ∧ m < 4096)).eraseDups.take n)
    memberCount := n + 1, runlist := list }

/-- A context with its gang. -/
def gangNamed (g : Nat) (c : Ctx) : Ctx := { c with gang := g + 1 }

/-- The context has the gang. -/
def gangMade (w : State) (p y n list g : Nat) : State := setGang (modCtx w y (gangNamed g)) g (newGang w p y n list g)

theorem runCommand_gang (h1 : rights.getLsbD 1 = true) (hown : ownsCtx w p (a 0 / 2 ^ 32 % 4096) = true)
    (hfree : (ctxOf w (a 0 / 2 ^ 32 % 4096)).gang = 0) (hnew : gangExists w (a 0 % 2 ^ 24) = false) (hlist : a 2 < 2 ^ 35)
    (hbound : ∀ e ∈ (gangMade w p (a 0 / 2 ^ 32 % 4096) (a 1 % 4096) (a 2) (a 0 % 2 ^ 24)).gangs, e.2.hasRun = true →
      1 < e.2.memberCount → 2 * worstBound (gangMade w p (a 0 / 2 ^ 32 % 4096) (a 1 % 4096) (a 2) (a 0 % 2 ^ 24)) e.1 ≤ e.2.h)
    (hover : overElsewhere (gangMade w p (a 0 / 2 ^ 32 % 4096) (a 1 % 4096) (a 2) (a 0 % 2 ^ 24)) = false) :
    runCommand w p 0x18 rights a = .ok (gangMade w p (a 0 / 2 ^ 32 % 4096) (a 1 % 4096) (a 2) (a 0 % 2 ^ 24), none) := by
  have heq : runCommand w p 0x18 rights a = doGang w p a := if_neg (runCommand_allowed rfl h1)
  have hgood : ¬((ctxOf w (a 0 / 2 ^ 32 % 4096)).gang ≠ 0 ∨ gangExists w (a 0 % 2 ^ 24) = true ∨ 2 ^ 35 ≤ a 2) := by
    rw [hnew]
    rintro (h | h | h)
    · exact h hfree
    · cases h
    · omega
  rw [heq]
  unfold doGang
  dsimp only
  rw [hown, if_neg (by decide), if_neg hgood, Nat.add_sub_cancel]
  generalize a 0 / 2 ^ 32 % 4096 = y at *
  generalize a 1 % 4096 = n at *
  generalize a 0 % 2 ^ 24 = g at *
  have hany : ¬((((gangMade w p y n (a 2) g).gangs.any fun e => e.2.hasRun && decide (1 < e.2.memberCount) &&
      decide (e.2.h < 2 * worstBound (gangMade w p y n (a 2) g) e.1)) || overElsewhere (gangMade w p y n (a 2) g)) = true) := by
    rw [hover, Bool.or_false]
    intro h
    obtain ⟨e, he, hb⟩ := List.any_eq_true.mp h
    obtain ⟨hleft, hless⟩ := Bool.and_eq_true _ _ |>.mp hb
    obtain ⟨hrun, hmany⟩ := Bool.and_eq_true _ _ |>.mp hleft
    exact absurd (hbound e he hrun (of_decide_eq_true hmany)) (Nat.not_le.mpr (of_decide_eq_true hless))
  exact if_neg hany

theorem gangMade_makes (y n list g : Nat) : (ctxOf (gangMade w p y n list g) y).gang = g + 1 ∧
    gangOf (gangMade w p y n list g) g = newGang w p y n list g ∧ ∀ m, m ≠ g → gangOf (gangMade w p y n list g) m = gangOf w m := by
  refine ⟨?_, ?_, fun m hm => ?_⟩
  · have : ctxOf (gangMade w p y n list g) y = gangNamed g (ctxOf w y) := (ctxOf_modCtx w y y (gangNamed g)).trans (if_pos rfl)
    rw [this]
    rfl
  · exact gangOf_setGang_self ..
  · exact gangOf_setGang_ne _ _ hm

theorem runCommand_cell (h1 : rights.getLsbD 1 = true) (hk : a 1 / 2 ^ 24 % 4 ≠ 3)
    (hheld : holds w p 3 (16 * (a 0 % 64) + a 0 / 2 ^ 8 % 16) = true)
    (hpart : namesHolder w p (16 * (a 0 % 64) + a 0 / 2 ^ 8 % 16) (a 1 / 2 ^ 27 % 4096) = true)
    (hl : lockedKey w p 3 (16 * (a 0 % 64) + a 0 / 2 ^ 8 % 16) = false) : runCommand w p 0x19 rights a =
      .ok (setAuth w { authOf w with
        newCells := tins (authOf w).newCells (16 * (a 0 % 64) + a 0 / 2 ^ 8 % 16) (BitVec.ofNat 64 (a 1 % 2 ^ 39)) }, none) := by
  have heq : runCommand w p 0x19 rights a = doCell w p a := if_neg (runCommand_allowed rfl h1)
  have hw : a 1 % 2 ^ 39 / 2 ^ 27 % 4096 = a 1 / 2 ^ 27 % 4096 := by omega
  rw [heq]
  unfold doCell
  dsimp only
  rw [if_neg hk, hw, hheld, hpart, if_neg (by decide), hl, if_neg Bool.false_ne_true]
  rfl

/-- A link's share of a row goes to a gang. -/
def shareSet (w : State) (key v : Nat) : State := setFab w { fabOf w with shares := tset 0 (fabOf w).shares key v }

theorem shareSet_shares (w : State) (key v j : Nat) : tget 0 (fabOf (shareSet w key v)).shares j =
    if j = key then v else tget 0 (fabOf w).shares j := tget_tset ..

theorem runCommand_linkshare (h1 : rights.getLsbD 1 = true) (hheld : holds w p 4 (64 * (a 0 % 16) + a 0 / 2 ^ 8 % 64) = true)
    (hl : lockedKey w p 4 (64 * (a 0 % 16) + a 0 / 2 ^ 8 % 64) = false) : runCommand w p 0x1A rights a =
      .ok (shareSet w (16 * (a 0 / 2 ^ 8 % 64) + a 0 % 16) (if (a 1).testBit 24 then 0 else a 1 % 2 ^ 24 + 1), none) := by
  have heq : runCommand w p 0x1A rights a = doLinkshare w p a := if_neg (runCommand_allowed rfl h1)
  rw [heq]
  unfold doLinkshare
  dsimp only
  rw [hheld, if_neg (by decide), hl, if_neg Bool.false_ne_true]
  rfl

end

end Sys2Proof.Machine
end

section
/-! PROOF. O53: the commands on holdings, contexts, gangs, cells, link shares and windows (R305 to R315, R320, R321). -/

namespace Sys2Proof.Machine

theorem remeasured_setPower (w : State) (q n : Nat) : (partOf (remeasure (setPower w q n)) q).power = n ∧
    (∀ r, r ≠ q → parentOf r ≠ q → partOf (remeasure (setPower w q n)) r = partOf w r) ∧
    ∀ r, r ≠ q → parentOf r = q → (partOf (remeasure (setPower w q n)) r).power ≤ n := by
  simp only [(remeasured (setPower w q n)).partOf]
  exact setPower_sets w q n

/-- A field leaves the bits below it. -/
theorem argOf_fixField_below {ws : List Word} {i lo n v : Nat} (hi : i < ws.length) (hv : v < 2 ^ n) {m : Nat} (hm : m ≤ lo) (hlo : lo ≤ 64) :
    argOf (fixField i lo n v ws) i % 2 ^ m = argOf ws i % 2 ^ m := by
  have := argOf_fixField_apart (lo := lo) hi hv 0 m (by omega) (.inl (by omega))
  rwa [Nat.pow_zero, Nat.div_one, Nat.div_one] at this

section
variable {w : State} {p : Nat} {rights : BitVec 7} {ws : List Word}

/-- REVOKE in a mode: the arguments but the mode are the page's. -/
theorem runCommand_revokeMode {q : Nat} {keys : List Nat} {m : Nat} (hm : m < 2 ^ 1) (hw : 1 < ws.length) (h6 : rights.getLsbD 6 = true)
    (hq : childOf p (argOf ws 0 % 4096) = some q) (hks : specKeys (argOf ws 1 % 256) (argOf ws 2) = some keys)
    (hheld : ∀ k ∈ keys, holds w p (argOf ws 1 % 256) k = true) (hl : lockedFor w p q = false)
    (hs : scrubbed w (argOf ws 1 % 256) keys = false) : runCommand w p 0x02 rights (argOf (fixField 1 8 1 m ws)) =
      .ok (revoked w p q (argOf ws 1 % 256) (argOf ws 2) keys (m.testBit 0), none) := by
  have h0 : argOf (fixField 1 8 1 m ws) 0 = argOf ws 0 := argOf_fixField_ne (by decide)
  have h2 : argOf (fixField 1 8 1 m ws) 2 = argOf ws 2 := argOf_fixField_ne (by decide)
  have h1 : argOf (fixField 1 8 1 m ws) 1 % 256 = argOf ws 1 % 256 := argOf_fixField_below (m := 8) hw hm (Nat.le_refl 8) (by decide)
  have hmode : (argOf (fixField 1 8 1 m ws) 1).testBit 8 = m.testBit 0 := testBit_argOf_fixField_self hw (by decide) hm
  rw [runCommand_revoke h6 (by rw [h0]; exact hq) (by rw [h1, h2]; exact hks) (by rw [h1]; exact hheld) hl (by rw [h1]; exact hs),
    hmode, h1, h2]

end

end Sys2Proof.Machine

namespace Sys2Proof.Machine

/-- Settles O53. -/
theorem commandsOnHoldings : Obligations.CommandsOnHoldings := by
  intro s w p hb hr args rights a runs kind held child x
  have hlen : 1 < (argsOf (partOf s p)).length := (by decide : 1 < 4)
  refine ⟨fun h6 => ⟨?grant, ?grantPower, ?revoke, ?revokePower, ?rights, ?ifcfg, ?coreset, ?distcfg⟩,
    fun h0 => ⟨?ctxcreate, ?ctxmap, ?ctxdestroy, ?hostwin, ?aperture⟩, fun h1 => ⟨?gang, ?cell, ?linkshare⟩⟩
  case grant =>
    intro q keys hq hks h8 hheld hone hl hs h9
    have beside := matrixed_granted w q kind keys
    have hcells (h3 : kind = 3) (k : Nat) (hk : k ∈ keys) : cellNext (granted w q kind keys) (k / 16) (k % 16) =
        cellNext w (k / 16) (k % 16) &&& 0x7FFFFFF ||| BitVec.ofNat 64 (q % 4096 * 2 ^ 27) := by
      rw [h3] at hks ⊢
      exact granted_cells hks hk
    exact commandRuns_of rfl hb hr (runCommand_grant h6 hq hks h8 hheld hone hl hs h9)
      ⟨beside.cores, beside.gangs, fun r hne => granted_others hne, fun k => granted_holds k, hcells⟩
  case grantPower =>
    intro q hq h8 h3 hpow hl
    exact commandRuns_of rfl hb hr (runCommand_grantPower h6 hq h8 h3 hpow hl) (remeasured_setPower w q (a 2 % 2 ^ 13))
  case revoke =>
    intro q keys hq hks h8 hheld hl hs gone users
    exact ⟨commandRuns_of rfl hb hr (runCommand_revokeMode (by decide) hlen h6 hq hks hheld hl hs)
        ⟨revoked_gone h8, congrArg Fabric.shares (revoked_fab h8), fun e he hv hu => revoked_dooms he hv hu⟩,
      commandRuns_of rfl hb hr (runCommand_revokeMode (by decide) hlen h6 hq hks hheld hl hs)
        ⟨revoked_gone h8, fun e he hv hu g hg => revoked_ends h8 he hv hu hg⟩⟩
  case revokePower =>
    intro q hq h8 hl cut
    have hks : specKeys kind (a 2) = some [] := by rw [h8]; rfl
    have hs : scrubbed w kind [] = false := by rw [h8]; rfl
    have hcut (atOnce : Bool) : cut (revoked w p q kind (a 2) [] atOnce) := by rw [h8]; exact revoked_power hq
    exact ⟨commandRuns_of rfl hb hr (runCommand_revokeMode (by decide) hlen h6 hq hks (fun _ h => nomatch h) hl hs) (hcut _),
      commandRuns_of rfl hb hr (runCommand_revokeMode (by decide) hlen h6 hq hks (fun _ h => nomatch h) hl hs) (hcut _)⟩
  case rights =>
    intro q m hq hm hl
    exact commandRuns_of rfl hb hr (runCommand_rightsCmd h6 hq hm hl) (rightsSet_rights q m)
  case ifcfg =>
    intro q hlevel
    exact commandRuns_of rfl hb hr (runCommand_ifcfg h6 hlevel)
      ⟨fun r hne => (partOf_modPart ..).trans (if_neg hne), (partOf_modPart ..).trans (if_pos rfl)⟩
  case coreset =>
    intro ks hp hks hapart hgranted hlocked hs
    exact commandRuns_of rfl hb hr (runCommand_coreset h6 hp hks hapart hgranted hlocked hs) fun j => tget_tset ..
  case distcfg =>
    intro q hq h2 hbudget hl
    exact commandRuns_of rfl hb hr (runCommand_distcfg h6 hq h2 hbudget hl) ((partOf_modPart ..).trans (if_pos rfl))
  case ctxcreate =>
    intro y prot hp hprot hheld hs hy
    exact commandRuns_of rfl hb hr (runCommand_ctxcreate h0 hp hprot hheld hs hy) rfl
  case ctxmap =>
    intro entry hown hpage hwin hdma hs
    exact commandRuns_of rfl hb hr (runCommand_ctxmap h0 hown hpage hwin hdma hs)
      ⟨rfl, rfl, fun e he => mapped_entry w x (hostEntry w p (a 1)) he⟩
  case ctxdestroy =>
    intro hown
    obtain ⟨u, hu⟩ := runCommand_ctxdestroy h0 hown
    exact commandRuns_of rfl hb hr hu (forget_forgets ..)
  case hostwin =>
    intro i tee hp h1 h2 h3 htee
    refine commandRuns_of rfl hb hr (runCommand_hostwin h0 hp h1 h2 h3 htee) ?_
    have hpart := (partOf_modPart w p (windowSet i ⟨a 1, a 2, (a 3).testBit 0, (a 3).testBit 1, tee⟩) p).trans (if_pos rfl)
    exact ⟨(congrArg (fun y : Partition => tget {} y.newWindows i) hpart).trans (tget_tins_self ..), (congrArg Partition.windows hpart).trans rfl⟩
  case aperture =>
    intro slot
    have hslot (v : Nat) (hv : v < 2 ^ 1) : argOf (fixField 0 63 1 v (argsOf (partOf s p))) 0 % 4096 = a 0 % 4096 :=
      argOf_fixField_below (m := 12) (Nat.zero_lt_of_lt hlen) hv (by decide) (by decide)
    have hclear (v : Nat) (hv : v < 2 ^ 1) : (argOf (fixField 0 63 1 v (argsOf (partOf s p))) 0).testBit 63 = v.testBit 0 :=
      testBit_argOf_fixField_self (Nat.zero_lt_of_lt hlen) (by decide) hv
    have h1 (v : Nat) : argOf (fixField 0 63 1 v (argsOf (partOf s p))) 1 = a 1 := argOf_fixField_ne (by decide)
    have h2 (v : Nat) : argOf (fixField 0 63 1 v (argsOf (partOf s p))) 2 = a 2 := argOf_fixField_ne (by decide)
    refine ⟨commandRuns_of rfl hb hr (runCommand_apertureClear h0 (hclear 1 (by decide))) fun j => ?_, fun hown hs => ?_⟩
    · rw [hslot 1 (by decide)]
      exact slots_apertureSet ..
    · refine commandRuns_of rfl hb hr (runCommand_aperture h0 (hclear 0 (by decide)) (by rw [h1]; exact hown)
        (by rw [h1, h2]; exact hs)) fun j => ?_
      rw [hslot 0 (by decide), h1, h2]
      exact slots_apertureSet ..
  case gang =>
    intro g y ms u hown hfree hnew hlist hbound hover
    obtain ⟨hctx, hgang, hothers⟩ := gangMade_makes (w := w) (p := p) y (a 1 % 4096) (a 2) g
    refine commandRuns_of rfl hb hr (runCommand_gang h1 hown hfree hnew hlist hbound hover) ⟨hctx, congrArg Gang.ctx hgang,
      congrArg Gang.coreset hgang, congrArg Gang.vdid hgang, congrArg Gang.runlist hgang, congrArg Gang.memberCount hgang,
      congrArg (fun m : Gang => m.members.head?) hgang, hothers⟩
  case cell =>
    intro row set hk hheld hpart hl
    refine commandRuns_of rfl hb hr (runCommand_cell h1 hk hheld hpart hl) ⟨?_, rfl⟩
    exact congrArg (fun o : Option (Nat × Word) => (o.map (·.2)).getD _) (find?_tins ..)
  case linkshare =>
    intro n row share hheld hl
    have h0 (v : Nat) : argOf (fixField 1 24 1 v (argsOf (partOf s p))) 0 = a 0 := argOf_fixField_ne (by decide)
    have hgang (v : Nat) (hv : v < 2 ^ 1) : argOf (fixField 1 24 1 v (argsOf (partOf s p))) 1 % 2 ^ 24 = a 1 % 2 ^ 24 :=
      argOf_fixField_below hlen hv (Nat.le_refl 24) (by decide)
    have hclear (v : Nat) (hv : v < 2 ^ 1) : (argOf (fixField 1 24 1 v (argsOf (partOf s p))) 1).testBit 24 = v.testBit 0 :=
      testBit_argOf_fixField_self hlen (by decide) hv
    refine ⟨commandRuns_of rfl hb hr (runCommand_linkshare h1 (by rw [h0]; exact hheld) (by rw [h0]; exact hl)) fun j => ?_,
      commandRuns_of rfl hb hr (runCommand_linkshare h1 (by rw [h0]; exact hheld) (by rw [h0]; exact hl)) fun j => ?_⟩
    · rw [h0, hclear 0 (by decide), hgang 0 (by decide)]
      exact shareSet_shares ..
    · rw [h0, hclear 1 (by decide)]
      exact shareSet_shares ..

end Sys2Proof.Machine
end

section
/-! PROOF. The commands on the supervisor's registers, holds, counters and reports (R278, R284, R298, R324, R336). -/

namespace Sys2Proof.Machine

section
variable {w : State} {p : Nat} {rights : BitVec 7} {a : Nat → Nat}

/-! MBOXCFG (R278). -/

theorem runCommand_grpctl (h0 : rights.getLsbD 0 = true) (hheld : holds w p 6 (a 0 % 128) = true)
    (hl : lockedKey w p 6 (a 0 % 128) = false) (hm : a 1 % 4 = 0) :
    runCommand w p 0x22 rights a = .ok (writeGrpctl w (a 0 % 128) (BitVec.ofNat 64 (a 2)), none) := by
  have heq : runCommand w p 0x22 rights a = doMboxcfg w p a := if_neg (runCommand_allowed rfl h0)
  rw [heq, doMboxcfg, hheld, hl, hm]
  rfl

theorem runCommand_grpactive (h0 : rights.getLsbD 0 = true) (hheld : holds w p 6 (a 0 % 128) = true)
    (hl : lockedKey w p 6 (a 0 % 128) = false) (hm : a 1 % 4 = 1) :
    runCommand w p 0x22 rights a = .ok (writeGrpactive w (a 0 % 128) (BitVec.ofNat 64 (a 2)), none) := by
  have heq : runCommand w p 0x22 rights a = doMboxcfg w p a := if_neg (runCommand_allowed rfl h0)
  rw [heq, doMboxcfg, hheld, hl, hm]
  rfl

theorem runCommand_epnext (h0 : rights.getLsbD 0 = true) (hheld : holds w p 6 (a 0 % 128) = true)
    (hl : lockedKey w p 6 (a 0 % 128) = false) (hm : a 1 % 4 = 2) : runCommand w p 0x22 rights a =
      .ok (writeEpnext w (64 * (a 0 % 128) + a 1 / 2 ^ 8 % 64) (BitVec.ofNat 64 (a 2)), none) := by
  have heq : runCommand w p 0x22 rights a = doMboxcfg w p a := if_neg (runCommand_allowed rfl h0)
  rw [heq, doMboxcfg, hheld, hl, hm]
  rfl

theorem writeGrpctl_waits {g : Nat} (v : Word) (h : partRuns w (groupPart w g) = true) :
    (envOf (writeGrpctl w g v)).grpctl = (envOf w).grpctl ∧
      (envOf (writeGrpctl w g v)).waiting = (envOf w).waiting ++ [(0, g, [v])] := by
  rw [writeGrpctl, if_pos h]
  exact ⟨rfl, rfl⟩

theorem writeGrpctl_writes {g : Nat} (v : Word) (h : partRuns w (groupPart w g) = false) (j : Nat) :
    tget 0 (envOf (writeGrpctl w g v)).grpctl j = if j = g then v &&& 0xFFFFFFFF00000007 else tget 0 (envOf w).grpctl j := by
  rw [writeGrpctl, h, if_neg Bool.false_ne_true, setGrpctl, (offCore_wakeSnaps _).env]
  exact tget_tset ..

theorem writeGrpactive_writes (g : Nat) (v : Word) (j : Nat) :
    tget 0 (envOf (writeGrpactive w g v)).grpactive j = if j = g then v else tget 0 (envOf w).grpactive j := by
  rw [writeGrpactive, (offCore_wakeSnaps _).env]
  exact tget_tset ..

theorem writeEpnext_writes (n : Nat) (v : Word) (j : Nat) :
    tget 0 (envOf (writeEpnext w n v)).epnext j = if j = n then v &&& 0x8000000000FFFFFF else tget 0 (envOf w).epnext j := tget_tset ..

/-! HARTCFG (R284). -/

/-- PAARG0 to PAARG3 of a command. -/
def wordsOf (a : Nat → Nat) : List Word := (List.range 4).map fun i => BitVec.ofNat 64 (a i)

/-- The pairs that a HARTCFG names. -/
def pairCount (a : Nat → Nat) : Nat := if a 0 / 2 ^ 8 % 4 = 1 then 1 else a 0 / 2 ^ 32 % 2 ^ 13

/-- What a HARTCFG of a hart that is to be used requires. -/
structure HartReady (w : State) (p : Nat) (a : Nat → Nat) : Prop where
  owns : ownsCtx w p (a 3 % 4096) = true
  scrubbed : pagesScrubbed w (a 3 % 4096) (a 3 / 2 ^ 12 % 2 ^ 14) (a 3 / 2 ^ 26 % 2 ^ 14) = false
  range : a 0 / 2 ^ 16 % 2 ^ 13 + pairCount a ≤ 8192
  pairs : pairsHeld w p (a 0 / 2 ^ 16 % 2 ^ 13) (pairCount a) = true
  window : a 3 / 2 ^ 12 % 2 ^ 14 + a 3 / 2 ^ 26 % 2 ^ 14 ≤ 16384
  pages : ∀ i < a 3 / 2 ^ 26 % 2 ^ 14, bdV (tget 0 (ctxOf w (a 3 % 4096)).map (a 3 / 2 ^ 12 % 2 ^ 14 + i)) = true ∧
    bdEnv (tget 0 (ctxOf w (a 3 % 4096)).map (a 3 / 2 ^ 12 % 2 ^ 14 + i)) = true

/-- The write of a hart whose context runs waits. -/
def hartWaits (w : State) (h : Nat) (ws : List Word) : State := setEnv w { envOf w with waiting := (envOf w).waiting ++ [(1, h, ws)] }

theorem runCommand_hartcfg (h0 : rights.getLsbD 0 = true) (hheld : holds w p 5 (a 0 % 256) = true)
    (hl : lockedKey w p 5 (a 0 % 256) = false) (hready : a 0 / 2 ^ 8 % 4 = 1 ∨ a 0 / 2 ^ 8 % 4 = 2 → HartReady w p a) :
    runCommand w p 0x23 rights a = .ok (if (hartOwner w (a 0 % 256) (wordsOf a)).any (ctxRuns w) then
      hartWaits w (a 0 % 256) (wordsOf a) else configureHart w (a 0 % 256) (wordsOf a), none) := by
  have heq : runCommand w p 0x23 rights a = doHartcfg w p a := if_neg (runCommand_allowed rfl h0)
  have hdone : doHartcfg w p a = if (hartOwner w (a 0 % 256) (wordsOf a)).any (ctxRuns w) then
      done (hartWaits w (a 0 % 256) (wordsOf a)) else done (configureHart w (a 0 % 256) (wordsOf a)) := by
    unfold doHartcfg
    dsimp only
    by_cases hused : a 0 / 2 ^ 8 % 4 = 1 ∨ a 0 / 2 ^ 8 % 4 = 2
    · obtain ⟨owns, hscrub, range, pairs, window, pages⟩ := hready hused
      have hall : ((List.range (a 3 / 2 ^ 26 % 2 ^ 14)).all fun i =>
          bdV (tget 0 (ctxOf w (a 3 % 4096)).map (a 3 / 2 ^ 12 % 2 ^ 14 + i)) &&
            bdEnv (tget 0 (ctxOf w (a 3 % 4096)).map (a 3 / 2 ^ 12 % 2 ^ 14 + i))) = true :=
        List.all_eq_true.mpr fun i hi => by
          rw [(pages i (List.mem_range.mp hi)).1, (pages i (List.mem_range.mp hi)).2]
          rfl
      unfold pairCount at range pairs
      rw [hheld, decide_eq_false (Nat.not_lt.mpr range), owns, pairs, hscrub, decide_eq_true window, hall, hl]
      simp only [Bool.not_true, Bool.and_false, Bool.and_true, Bool.false_eq_true, if_false]
      rfl
    · have hnone : (a 0 / 2 ^ 8 % 4 == 1 || a 0 / 2 ^ 8 % 4 == 2) = false := by
        rw [Bool.or_eq_false_iff, beq_eq_false_iff_ne, beq_eq_false_iff_ne]
        exact not_or.mp hused
      rw [hheld, hnone, hl]
      simp only [Bool.not_true, Bool.false_and, Bool.false_eq_true, if_false]
      rfl
  rw [heq, hdone]
  split <;> rfl

theorem hartWaits_waits (w : State) (h : Nat) (ws : List Word) : (envOf (hartWaits w h ws)).harts = (envOf w).harts ∧
    (envOf (hartWaits w h ws)).waiting = (envOf w).waiting ++ [(1, h, ws)] := ⟨rfl, rfl⟩

/-- What HARTCFG leaves in its hart and beside. -/
structure Configured (w t : State) (h : Nat) (a : Nat → Nat) : Prop where
  role : (hartOf t h).role = if a 0 / 2 ^ 8 % 4 = 1 then .env else if a 0 / 2 ^ 8 % 4 = 2 then .checker else .idle
  pair : (hartOf t h).pair = a 0 / 2 ^ 16 % 2 ^ 13
  ctx : (hartOf t h).ctx = a 3 % 4096
  winFirst : (hartOf t h).winFirst = a 3 / 2 ^ 12 % 2 ^ 14
  winCount : (hartOf t h).winCount = a 3 / 2 ^ 26 % 2 ^ 14
  entry : (hartOf t h).entry = a 3 / 2 ^ 40
  running : (hartOf t h).running = false
  stepBudget : (hartOf t h).stepBudget = BitVec.ofNat 64 (a 1)
  epBudget : (hartOf t h).epBudget = BitVec.ofNat 64 (a 2)
  env : a 0 / 2 ^ 8 % 4 = 1 → (hartOf t h).base = BitVec.ofNat 64 (a 3 / 2 ^ 12 % 2 ^ 14 * 2 ^ 21) ∧
    (hartOf t h).limit = BitVec.ofNat 64 ((a 3 / 2 ^ 12 % 2 ^ 14 + a 3 / 2 ^ 26 % 2 ^ 14) * 2 ^ 21)
  checker : a 0 / 2 ^ 8 % 4 = 2 → (hartOf t h).chkBase = BitVec.ofNat 64 (a 3 / 2 ^ 12 % 2 ^ 14 * 2 ^ 21) ∧
    (hartOf t h).chkLimit = BitVec.ofNat 64 ((a 3 / 2 ^ 12 % 2 ^ 14 + a 3 / 2 ^ 26 % 2 ^ 14) * 2 ^ 21) ∧
    (hartOf t h).chkFirst = a 0 / 2 ^ 16 % 2 ^ 13 ∧ (hartOf t h).chkCount = a 0 / 2 ^ 32 % 2 ^ 13 ∧
    t.agenda = w.agenda ++ [⟨.pod, w.pod + 1, phHub, none, .event (.hartStart h)⟩]
  others : ∀ j, j ≠ h → hartOf t j = hartOf w j

/-- The role that HARTCFG's field names. -/
def hartRoleOf (n : Nat) : HartRole :=
  match n with
  | 1 => .env
  | 2 => .checker
  | _ => .idle

theorem hartRoleOf_eq (n : Nat) : hartRoleOf n = if n = 1 then .env else if n = 2 then .checker else .idle :=
  match n with
  | 0 | 1 | 2 => rfl
  | _ + 3 => rfl

/-- A hart as HARTCFG sets it. -/
def hartSet (x : Hart) (a b : Nat) (steps ep : Word) : Hart :=
  let base := BitVec.ofNat 64 (b / 2 ^ 12 % 2 ^ 14 * 2 ^ 21)
  let limit := BitVec.ofNat 64 ((b / 2 ^ 12 % 2 ^ 14 + b / 2 ^ 26 % 2 ^ 14) * 2 ^ 21)
  let role := hartRoleOf (a / 2 ^ 8 % 4)
  { x with
    role := role, roleThree := false, pair := a / 2 ^ 16 % 2 ^ 13, chkFirst := a / 2 ^ 16 % 2 ^ 13, chkCount := a / 2 ^ 32 % 2 ^ 13
    stepBudget := steps, epBudget := ep, ctx := b % 4096, winFirst := b / 2 ^ 12 % 2 ^ 14
    winCount := b / 2 ^ 26 % 2 ^ 14, entry := b / 2 ^ 40, running := false
    base := if role = .env then base else x.base, limit := if role = .env then limit else x.limit
    chkBase := if role = .checker then base else x.chkBase, chkLimit := if role = .checker then limit else x.chkLimit }

theorem configureHart_sets (s : State) (h : Nat) (ws : List Word) : configureHart s h ws =
    let t := setHart s h (hartSet (stopCounts s (hartOf s h)) (ws.getD 0 0).toNat (ws.getD 3 0).toNat (ws.getD 1 0) (ws.getD 2 0))
    if hartRoleOf ((ws.getD 0 0).toNat / 2 ^ 8 % 4) = .checker then postPod t (t.pod + 1) phHub (.hartStart h) else t := rfl

theorem configured (w : State) (h : Nat) {a : Nat → Nat} (h0 : a 0 < 2 ^ 64) (h3 : a 3 < 2 ^ 64) :
    Configured w (configureHart w h (wordsOf a)) h a := by
  obtain ⟨x, hx⟩ : ∃ x, x = hartSet (stopCounts w (hartOf w h)) (a 0) (a 3) (BitVec.ofNat 64 (a 1)) (BitVec.ofNat 64 (a 2)) := ⟨_, rfl⟩
  have hword (i : Nat) (hi : a i < 2 ^ 64) : (BitVec.ofNat 64 (a i)).toNat = a i := by rw [BitVec.toNat_ofNat, Nat.mod_eq_of_lt hi]
  have heq : configureHart w h (wordsOf a) = if hartRoleOf (a 0 / 2 ^ 8 % 4) = .checker then
      postPod (setHart w h x) (w.pod + 1) phHub (.hartStart h) else setHart w h x := by
    have h0 : ((wordsOf a).getD 0 0).toNat = a 0 := hword 0 h0
    have h3 : ((wordsOf a).getD 3 0).toNat = a 3 := hword 3 h3
    rw [configureHart_sets, h0, h3, hx]
    rfl
  have hself : hartOf (configureHart w h (wordsOf a)) h = x := by
    rw [heq]
    split
    · exact (hartOf_setHart ..).trans (if_pos rfl)
    · exact (hartOf_setHart ..).trans (if_pos rfl)
  have hothers (j : Nat) (hj : j ≠ h) : hartOf (configureHart w h (wordsOf a)) j = hartOf w j := by
    rw [heq]
    split
    · exact (hartOf_setHart ..).trans (if_neg hj)
    · exact (hartOf_setHart ..).trans (if_neg hj)
  constructor
  case others => exact hothers
  case role => rw [hself, hx, ← hartRoleOf_eq]; rfl
  case env =>
    intro h1
    rw [hself, hx]
    unfold hartSet
    dsimp only
    rw [h1]
    exact ⟨rfl, rfl⟩
  case checker =>
    intro h2
    have hagenda : (configureHart w h (wordsOf a)).agenda = w.agenda ++ [⟨.pod, w.pod + 1, phHub, none, .event (.hartStart h)⟩] := by
      rw [heq, h2]
      rfl
    refine ⟨?_, ?_, by rw [hself, hx]; rfl, by rw [hself, hx]; rfl, hagenda⟩
    all_goals
      rw [hself, hx]
      unfold hartSet
      dsimp only
      rw [h2]
      rfl
  all_goals
    rw [hself, hx]
    rfl

/-! HOLDREL (R298). -/

/-- The holds of a cause that are still announced. -/
def openHolds (s : State) (g : Nat) (cause : HoldCause) : List Hold :=
  (gangOf s g).holds.filter fun h => decide (h.cause = cause ∧ h.released = none)

/-- Holds are released in the present pod cycle, and the members are told. -/
def release (g : Nat) (s : State) (h : Hold) : State := leekMembers (markReleased s g h.number s.pod) g (.release g h.number s.pod)

/-- The images of the stopped cores are checked as a debugging stop ends. -/
def checkedAfter (s : State) (g : Nat) (cause : HoldCause) : State :=
  if cause = .debug then checkDigest s g ((gangCores s g).filter fun k => (coreOf s k).stopped) else s

/-- HOLDREL of a cause, whose right the issuer needs. -/
def holdrelOf (s : State) (p : Nat) (rights : BitVec 7) (g : Nat) (cause : HoldCause) (right : Nat) : Answer :=
  if !rights.getLsbD right then .error rRights
  else if (gangOf s g).vdid ≠ p then .error rNotHeld
  else if openHolds s g cause = [] then .error rBadArg
  else done (checkedAfter ((openHolds s g cause).foldl (release g) s) g cause)

theorem doHoldrel_eq {cause : HoldCause} {right : Nat}
    (hrow : a 1 % 16 = 1 ∧ cause = .watchdog ∧ right = 1 ∨ a 1 % 16 = 2 ∧ cause = .debug ∧ right = 4) :
    doHoldrel w p rights a = holdrelOf w p rights (a 0 % 2 ^ 24) cause right := by
  unfold doHoldrel
  rcases hrow with ⟨h1, rfl, rfl⟩ | ⟨h1, rfl, rfl⟩
  · rw [h1]
    rfl
  · rw [h1]
    rfl

theorem runCommand_holdrel {cause : HoldCause} {right : Nat}
    (hrow : a 1 % 16 = 1 ∧ cause = .watchdog ∧ right = 1 ∨ a 1 % 16 = 2 ∧ cause = .debug ∧ right = 4)
    (hright : rights.getLsbD right = true) (hp : (gangOf w (a 0 % 2 ^ 24)).vdid = p)
    (hopen : openHolds w (a 0 % 2 ^ 24) cause ≠ []) : runCommand w p 0x31 rights a =
      .ok (checkedAfter ((openHolds w (a 0 % 2 ^ 24) cause).foldl (release (a 0 % 2 ^ 24)) w) (a 0 % 2 ^ 24) cause, none) := by
  have heq : runCommand w p 0x31 rights a = doHoldrel w p rights a := rfl
  rw [heq, doHoldrel_eq hrow, holdrelOf, hright, if_neg (by decide), if_neg (not_not.mpr hp), if_neg hopen]
  rfl

/-- Of the holds of a cause, those left announced are of the numbers `ns`. -/
def CauseOpen (ns : List Nat) (cause : HoldCause) (hs : List Hold) : Prop := ∀ h ∈ hs, h.cause = cause → h.released = none → h.number ∈ ns

theorem causeOpen_release {n : Nat} {ns : List Nat} {cause : HoldCause} {hs : List Hold} (t : Nat) (h : CauseOpen (n :: ns) cause hs) :
    CauseOpen ns cause (hs.map (releaseHold n t)) := fun x hx hc hr =>
  leftOpen_release t (key := x.core) (fun y hy hc _ hr => h y hy hc hr) x hx hc rfl hr

theorem release_releases {g : Nat} {cause : HoldCause} (hs : List Hold) (s : State)
    (h : CauseOpen (hs.map Hold.number) cause (gangOf s g).holds) :
    WaitsOver s (hs.foldl (release g) s) ∧ CauseOpen [] cause (gangOf (hs.foldl (release g) s) g).holds := by
  induction hs generalizing s with
  | nil => exact ⟨.refl s, h⟩
  | cons x hs ih =>
    have one : WaitsOver s (release g s x) := (waitsOver_markReleased ..).trans (waitsOver_leekMembers ..)
    obtain ⟨rest, hopen⟩ := ih (release g s x) <| by
      rw [release, (beside_leekMembers ..).gangOf, markReleased_holds]
      exact causeOpen_release _ h
    exact ⟨one.trans rest, hopen⟩

theorem released_releases (w : State) (g : Nat) {cause : HoldCause}
    (hbad : cause = .debug → (ctxOf w (gangOf w g).ctx).badImage = false) :
    let t := checkedAfter ((openHolds w g cause).foldl (release g) w) g cause
    t.cores = w.cores ∧ ∀ h ∈ (gangOf t g).holds, h.cause = cause → h.released ≠ none := by
  intro t
  obtain ⟨kept, hopen⟩ := release_releases (g := g) (cause := cause) (openHolds w g cause) w fun h hh hc hr =>
    List.mem_map_of_mem (List.mem_filter.mpr ⟨hh, decide_eq_true ⟨hc, hr⟩⟩)
  obtain ⟨u, hu⟩ : ∃ u, u = (openHolds w g cause).foldl (release g) w := ⟨_, rfl⟩
  have ht : t = checkedAfter u g cause := by rw [hu]
  rw [← hu] at kept hopen
  have hlast : t.cores = u.cores ∧ gangOf t g = gangOf u g := by
    rw [ht, checkedAfter]
    split
    next hc =>
      obtain ⟨hs, r, hsame⟩ := kept.gangs g
      have huntouched : (ctxOf u (gangOf u g).ctx).badImage = false := by
        rw [hsame, ctxOf, kept.ctxs]
        exact hbad hc
      rw [checkDigest, huntouched, if_neg fun h => Bool.false_ne_true h.1]
      exact ⟨rfl, rfl⟩
    · exact ⟨rfl, rfl⟩
  refine ⟨hlast.1.trans kept.cores, fun h hh hc hr => ?_⟩
  rw [hlast.2] at hh
  exact nomatch hopen h hh hc hr

/-! Counters and reports (R324, R336). -/

theorem runCommand_counters (h2 : rights.getLsbD 2 = true) (hset : a 0 % 256 ≤ 6) (hdma : dmaBlocked w p = false) :
    runCommand w p 0x38 rights a = .ok (putHost w p (a 1) ((counterSet w p (a 0 % 256)).map (leBytes 8)).flatten,
      some (BitVec.ofNat 64 ((counterSet w p (a 0 % 256)).map (leBytes 8)).flatten.length)) := by
  have heq : runCommand w p 0x38 rights a = doCounters w p a := if_neg (runCommand_allowed rfl h2)
  have hgood : ¬(6 < a 0 % 256 ∨ dmaBlocked w p = true) := by
    rw [hdma]
    rintro (h | h)
    · omega
    · cases h
  rw [heq, doCounters, if_neg hgood]

/-- The page that a report is of. -/
def reportPage (p v : Nat) : Nat := if levelOf p ≤ 1 ∧ v % 16 = 0 then l1Page (v / 16) else v

theorem runCommand_report (h5 : rights.getLsbD 5 = true) (hdma : dmaBlocked w p = false) (hlo : 16 ≤ a 0 % 4096)
    (hhi : a 0 % 4096 ≤ 1039) (hone : levelOf p = 1 → a 0 % 4096 / 16 = vfOf p) (htwo : levelOf p = 2 → a 0 % 4096 = p) :
    runCommand w p 0x3C rights a = .ok (putHost w p (a 1) (reportBytes w (reportPage p (a 0 % 4096))),
      some (BitVec.ofNat 64 (reportBytes w (reportPage p (a 0 % 4096))).length)) := by
  have heq : runCommand w p 0x3C rights a = doReport w p a := if_neg (runCommand_allowed rfl h5)
  have hlevel : levelOf p = 0 ∨ levelOf p = 1 ∨ levelOf p = 2 := by
    unfold levelOf
    split
    · exact .inl rfl
    · split
      · exact .inr (.inl rfl)
      · exact .inr (.inr rfl)
  rw [heq]
  unfold doReport
  generalize a 0 % 4096 = v at *
  have hgood : ¬(v / 16 < 1 ∨ 64 < v / 16 ∨ dmaBlocked w p = true) := by
    rw [hdma]
    rintro (h | h | h)
    · omega
    · omega
    · cases h
  dsimp only
  rw [if_neg hgood]
  rw [if_neg]
  · rfl
  · rcases hlevel with h | h | h
    · rw [h]
      simp
    · rw [h, hone h]
      simp
    · rw [h, htwo h]
      simp

theorem putHost_puts (w : State) (p start : Nat) (bs : List Byte) :
    (putHost w p start bs).cores = w.cores ∧ (putHost w p start bs).gangs = w.gangs ∧
      (authOf (putHost w p start bs)).parts = (authOf w).parts ∧ hostBytes (putHost w p start bs) p start bs.length = bs ∧
      ∀ b, (∀ i < bs.length, b ≠ hostKey p start + i) → tget 0 (authOf (putHost w p start bs)).host b = tget 0 (authOf w).host b :=
  ⟨rfl, rfl, rfl, tbytes_tputs .., fun b hb => (tget_tputs 0 (authOf w).host (hostKey p start) b bs).trans (if_neg fun h =>
    hb (b - hostKey p start) (by omega) (by omega))⟩

end

end Sys2Proof.Machine
end

section
/-! PROOF. DEBUG: stops, halts, and images read and written (R297, R298). -/

namespace Sys2Proof.Machine

section
variable {w : State} {p : Nat} {rights : BitVec 7} {a : Nat → Nat}

/-! Stops (R298). -/

/-- A core's debugging word with the stop bit on or off. -/
def stopBit (on : Bool) (c : Core) : Core := { c with dbg := if on then c.dbg ||| 1 else c.dbg &&& 2 }

/-- A context that stops at debugging events, or does not. -/
def withStop (on : Bool) (c : Ctx) : Ctx := { c with stop := on }

/-- The cores of a context's gang. -/
def ctxCores (w : State) (x : Nat) : List Nat := if (ctxOf w x).gang = 0 then [] else gangCores w ((ctxOf w x).gang - 1)

/-- The context and the cores of its gang are set. -/
def stopsSet (w : State) (x : Nat) (on : Bool) : State := (ctxCores w x).foldl (fun s k => modCore s k (stopBit on)) (modCtx w x (withStop on))

theorem runCommand_debugStopOff (h4 : rights.getLsbD 4 = true) (hown : ownsCtx w p (a 0 % 4096) = true) (hm : a 1 % 16 = 0) :
    runCommand w p 0x30 rights a = .ok (stopsSet w (a 0 % 4096) false, none) := by
  have heq : runCommand w p 0x30 rights a = doDebug w p a := if_neg (runCommand_allowed rfl h4)
  rw [heq, doDebug, hown, hm]
  rfl

theorem runCommand_debugStopOn (h4 : rights.getLsbD 4 = true) (hown : ownsCtx w p (a 0 % 4096) = true) (hm : a 1 % 16 = 1) :
    runCommand w p 0x30 rights a = .ok (stopsSet w (a 0 % 4096) true, none) := by
  have heq : runCommand w p 0x30 rights a = doDebug w p a := if_neg (runCommand_allowed rfl h4)
  rw [heq, doDebug, hown, hm]
  rfl

/-- A change that one time does what many do. -/
theorem coreOf_foldl_idem {f : Core → Core} (hf : ∀ c, f (f c) = f c) (ks : List Nat) (s : State) (j : Nat) :
    coreOf (ks.foldl (fun s k => modCore s k f) s) j = if j ∈ ks then f (coreOf s j) else coreOf s j := by
  induction ks generalizing s with
  | nil => exact (if_neg List.not_mem_nil).symm
  | cons k ks ih =>
    rw [List.foldl_cons, ih, coreOf_modCore]
    by_cases hj : j = k
    · rw [if_pos hj, hf, ite_self, if_pos (hj ▸ List.mem_cons_self)]
    · rw [if_neg hj, if_congr (List.mem_cons.trans (or_iff_right hj)) rfl rfl]

theorem stopBits (on : Bool) (d : BitVec 2) : (if on then (if on then d ||| 1 else d &&& 2) ||| 1 else (if on then d ||| 1 else d &&& 2) &&& 2) =
      (if on then d ||| 1 else d &&& 2) ∧
    (if on then d ||| 1 else d &&& 2).getLsbD 1 = d.getLsbD 1 ∧ (if on then d ||| 1 else d &&& 2).getLsbD 0 = on := by
  revert on d
  decide

theorem stopBit_idem (on : Bool) (c : Core) : stopBit on (stopBit on c) = stopBit on c :=
  congrArg (fun d => { c with dbg := d }) (stopBits on c.dbg).1

theorem coreOf_stopsSet (w : State) (x : Nat) (on : Bool) (k : Nat) :
    coreOf (stopsSet w x on) k = if k ∈ ctxCores w x then stopBit on (coreOf w k) else coreOf w k :=
  coreOf_foldl_idem (stopBit_idem on) (ctxCores w x) (modCtx w x (withStop on)) k

theorem stopsSet_sets (w : State) (x : Nat) (on : Bool) : (ctxOf (stopsSet w x on) x).stop = on ∧
    (∀ k, (coreOf (stopsSet w x on) k).dbg.getLsbD 1 = (coreOf w k).dbg.getLsbD 1) ∧
    (0 < (ctxOf w x).gang → (ctxOf w x).gang - 1 ≠ noGang → ∀ k, (coreOf w k).gang = (ctxOf w x).gang - 1 →
      (coreOf (stopsSet w x on) k).dbg.getLsbD 0 = on) := by
  refine ⟨?_, fun k => ?_, fun hpos hg k hk => ?_⟩
  · have hauth : authOf (stopsSet w x on) = authOf (modCtx w x (withStop on)) :=
      foldl_same authOf (f := fun s k => modCore s k (stopBit on)) (fun _ _ => rfl) _ _
    have hctx : ctxOf (stopsSet w x on) x = withStop on (ctxOf w x) := by
      rw [ctxOf, hauth, ← ctxOf, ctxOf_modCtx, if_pos rfl]
    rw [hctx]
    rfl
  · rw [coreOf_stopsSet]
    split
    · exact (stopBits on (coreOf w k).dbg).2.1
    · rfl
  · have hin : k ∈ ctxCores w x := by
      rw [ctxCores, if_neg (Nat.pos_iff_ne_zero.mp hpos)]
      exact mem_gangCores_of_gang hg hk
    rw [coreOf_stopsSet, if_pos hin]
    exact (stopBits on (coreOf w k).dbg).2.2

/-! HALT (R298). -/

/-- A number is drawn. -/
def drawn (w : State) : State := { w with fresh := w.fresh + 1 }

/-- The stop that HALT raises at core `k`. -/
def haltRaise (w : State) (k : Nat) : Raise := ⟨(Config.openByte w.fresh).toNat, gcycOf w k, (coreOf w k).pc, 0, 0, 0, 0⟩

theorem runCommand_debugHalt {k : Nat} (h4 : rights.getLsbD 4 = true) (hown : ownsCtx w p (a 0 % 4096) = true) (hm : a 1 % 16 = 2)
    (hpos : 0 < (ctxOf w (a 0 % 4096)).gang)
    (hk : (gangCores w ((ctxOf w (a 0 % 4096)).gang - 1)).find? (fun j => (coreOf w j).running && (coreOf w j).frozenAt.isNone) = some k)
    (hstop : (ctxOf w (a 0 % 4096)).stop = true) (hmode : (gangOf w ((ctxOf w (a 0 % 4096)).gang - 1)).mode = .running) :
    runCommand w p 0x30 rights a = .ok (debugStop (drawn w) k (haltRaise w k) [haltRaise w k], none) := by
  have heq : runCommand w p 0x30 rights a = doDebug w p a := if_neg (runCommand_allowed rfl h4)
  rw [heq]
  unfold doDebug
  dsimp only
  rw [hown, if_neg (by decide), hm, if_neg (Nat.pos_iff_ne_zero.mp hpos), hk]
  dsimp only
  rw [if_pos ⟨hstop, hmode⟩]
  rfl

/-- A core frozen by a stop, with its first fault recorded. -/
def coreStopped (fault : FaultRecord) (t : Nat) (c : Core) : Core :=
  { c with fault := fault, frozenAt := some t, stopped := true, raised := [], doomed := [] }

/-- What is in flight is captured, and the image written. -/
def captured (s : State) (k : Nat) : State :=
  captureOn (storeImage s (gangOf s (coreOf s k).gang).ctx k (gcycOf s k + 1) (coreOf s k) false) (coreOf s k).gang [k]

theorem gcycOf_modCore (s : State) (k : Nat) {f : Core → Core} (hf : ∀ c, (f c).gang = c.gang) :
    gcycOf (modCore s k f) k = gcycOf s k := by
  rw [gcycOf, coreGang, coreOf_modCore_self, hf]
  rfl

/-- The step leaves gangs, the clock and the fabric. -/
structure GangsStay (s t : State) : Prop where
  gangs : t.gangs = s.gangs
  pod : t.pod = s.pod
  fab : fabOf t = fabOf s

/-- What core `k` has in flight goes to its replay buffer. -/
def cmdsCaptured (k : Nat) (jobs : List Job) (c : Core) : Core := { c with cmds := c.cmds.map (replayUnits k jobs) }

theorem putDev_stays (s : State) (b : Nat) (bs : List Byte) : GangsStay s (putDev s b bs) ∧ (putDev s b bs).cores = s.cores :=
  ⟨⟨rfl, rfl, rfl⟩, rfl⟩

theorem storeImage_stays (s : State) (x k t : Nat) (c : Core) (post : Bool) :
    GangsStay s (storeImage s x k t c post) ∧ (storeImage s x k t c post).cores = s.cores := by
  unfold storeImage
  split
  · exact putDev_stays ..
  · exact ⟨⟨rfl, rfl, rfl⟩, rfl⟩

theorem captured_stays (s : State) (k : Nat) : GangsStay s (captured s k) ∧
    ∃ jobs, ∀ j, coreOf (captured s k) j = if j = k then cmdsCaptured k jobs (coreOf s j) else coreOf s j := by
  obtain ⟨u, hu⟩ : ∃ u, u = storeImage s (gangOf s (coreOf s k).gang).ctx k (gcycOf s k + 1) (coreOf s k) false := ⟨_, rfl⟩
  obtain ⟨⟨hgangs, hpod, hfab⟩, hcores⟩ := storeImage_stays s (gangOf s (coreOf s k).gang).ctx k (gcycOf s k + 1) (coreOf s k) false
  rw [← hu] at hgangs hpod hfab hcores
  have heq : captured s k = captureOn u (coreOf s k).gang [k] := by rw [hu]; rfl
  rw [heq]
  refine ⟨⟨hgangs, hpod, hfab⟩, u.agenda.filter (ofGang (coreOf s k).gang), fun j => ?_⟩
  have : coreOf u j = coreOf s j := by rw [coreOf, coreOf, hcores]
  rw [← this]
  exact coreOf_modCore u k j (cmdsCaptured k _)

theorem debugStop_eq {s : State} {k : Nat} (r : Raise) (rs : List Raise) (hl : s.looking = false) :
    debugStop s k r rs = announceHold (captured (modCore s k (coreStopped (recordOf r rs (gcycOf s k)) (gcycOf s k + 1))) k)
      (coreOf s k).gang (gcycOf s k + leadOf s k) .debug k := by
  obtain ⟨u, hu⟩ : ∃ u, u = modCore s k (coreStopped (recordOf r rs (gcycOf s k)) (gcycOf s k + 1)) := ⟨_, rfl⟩
  have hgang : (coreOf u k).gang = (coreOf s k).gang := by rw [hu, coreOf_modCore_self]; rfl
  have hcyc : gcycOf u k = gcycOf s k := by rw [hu]; exact gcycOf_modCore s k fun _ => rfl
  have hlook : u.looking = false := by rw [hu]; exact hl
  have hlead : leadOf (captured u k) k = leadOf s k := by
    obtain ⟨stays, jobs, hcores⟩ := captured_stays u k
    have hkept : (coreOf (captured u k) k).gang = (coreOf s k).gang := by rw [hcores, if_pos rfl, ← hgang]; rfl
    rw [leadOf, leadOf, coreGang, coreGang, hkept, gangOf, gangOf, stays.gangs, hu]
    rfl
  have heq : debugStop s k r rs = if u.looking then u else
      let v := captureOn (storeImage u (gangOf u (coreOf u k).gang).ctx k (gcycOf s k + 1) (coreOf u k) false) (coreOf u k).gang [k]
      announceHold v (coreOf u k).gang (gcycOf s k + leadOf v k) .debug k := by rw [hu]; rfl
  rw [captured, hcyc] at hlead
  dsimp only at heq
  rw [heq, hlook, if_neg Bool.false_ne_true, ← hu, hlead, captured, hcyc, hgang]

theorem Announced.before {s u t : State} {g th key : Nat} {cause : HoldCause} (h : GangsStay s u) (ha : Announced u t g th cause key) :
    Announced s { t with cores := s.cores } g th cause key := by
  obtain ⟨hself, hothers, -⟩ := ha
  have hgang (n : Nat) : gangOf u n = gangOf s n := by rw [gangOf, gangOf, h.gangs]
  have hnumber : holdNumber u g = holdNumber s g := by rw [holdNumber, holdNumber, hgang, chipOf, chipOf, h.fab]
  refine ⟨?_, fun n hn => (hothers n hn).trans (hgang n), rfl⟩
  rw [hgang, hnumber, h.pod] at hself
  exact hself

theorem halted_halts {k g : Nat} (hk : (coreOf w k).gang = g) (hmode : (gangOf w g).mode = .running) (hl : w.looking = false) :
    let t := debugStop (drawn w) k (haltRaise w k) [haltRaise w k]
    (coreOf t k).frozenAt = some ((gangOf w g).gcyc + 1) ∧ (coreOf t k).stopped = true ∧
      (coreOf t k).s = (coreOf w k).s ∧ (coreOf t k).pc = (coreOf w k).pc ∧ (∀ j, j ≠ k → coreOf t j = coreOf w j) ∧
      Announced w { t with cores := w.cores } g ((gangOf w g).gcyc + (gangOf w g).h) .debug k := by
  intro t
  obtain ⟨fault, hfault⟩ : ∃ f, f = recordOf (haltRaise w k) [haltRaise w k] (gcycOf (drawn w) k) := ⟨_, rfl⟩
  have hcyc : gcycOf (drawn w) k = (gangOf w g).gcyc := by rw [← hk]; rfl
  have hlead : leadOf (drawn w) k = (gangOf w g).h := by rw [← hk]; rfl
  obtain ⟨v, hv⟩ : ∃ v, v = modCore (drawn w) k (coreStopped fault ((gangOf w g).gcyc + 1)) := ⟨_, rfl⟩
  have ht : t = announceHold (captured v k) g ((gangOf w g).gcyc + (gangOf w g).h) .debug k := by
    have := debugStop_eq (s := drawn w) (k := k) (haltRaise w k) [haltRaise w k] hl
    rw [← hfault, hcyc, hlead, ← hv, show (coreOf (drawn w) k).gang = g from hk] at this
    exact this
  obtain ⟨stays, jobs, hcores⟩ := captured_stays v k
  have whole : GangsStay w (captured v k) := ⟨by rw [stays.gangs, hv]; rfl, by rw [stays.pod, hv]; rfl, by rw [stays.fab, hv]; rfl⟩
  have announced := announceHold_running (s := captured v k) (g := g) ((gangOf w g).gcyc + (gangOf w g).h) .debug k
    (by rw [gangOf, whole.gangs]; exact hmode)
  have hcore (j : Nat) : coreOf t j = coreOf (captured v k) j := by
    rw [ht, coreOf, coreOf, announced.2.2]
  have hself : coreOf t k = cmdsCaptured k jobs (coreStopped fault ((gangOf w g).gcyc + 1) (coreOf w k)) := by
    rw [hcore, hcores, if_pos rfl, hv, coreOf_modCore_self]
    rfl
  refine ⟨by rw [hself]; rfl, by rw [hself]; rfl, by rw [hself]; rfl, by rw [hself]; rfl, fun j hj => ?_, ?_⟩
  · rw [hcore, hcores, if_neg hj, hv, coreOf_modCore_ne _ _ hj]
    rfl
  · rw [ht]
    exact announced.before whole

/-! Images (R297, R298). -/

theorem runCommand_debugRead {k t : Nat} {img : Core} (h4 : rights.getLsbD 4 = true) (hown : ownsCtx w p (a 0 % 4096) = true)
    (hm : a 1 % 16 = 3) (himg : imageFor w (a 0 % 4096) (a 3 % 1024) = some (k, t, img)) (hdma : dmaBlocked w p = false) :
    runCommand w p 0x30 rights a = .ok (putHost w p (a 2) (readImageBytes w (a 0 % 4096) k t img),
      some (BitVec.ofNat 64 (readImageBytes w (a 0 % 4096) k t img).length)) := by
  have heq : runCommand w p 0x30 rights a = doDebug w p a := if_neg (runCommand_allowed rfl h4)
  rw [heq, doDebug, hown, hm, himg, hdma]
  rfl

/-- The image that a debugger writes, as host memory holds it. -/
def hostImage (w : State) (p start : Nat) : List Byte :=
  hostBytes w p start
    (min (fieldAt (hostBytes w p start 256) 24 8 + 288 * min 512 (fieldAt (hostBytes w p start 256) 12 4)) 0x200000)

/-- A context whose image a debugger has written. -/
def imageTouched (c : Ctx) : Ctx := { c with badImage := true }

/-- The image goes into the save area, and what it lists in place of what was in flight. -/
def imageIn (w : State) (x k t : Nat) (img : Core) (bs : List Byte) : State :=
  modGang (placeEntries (writeImageBytes (modCtx w x imageTouched) x k bs) k t img (entriesOfImage bs)) ((ctxOf w x).gang - 1)
    fun y => countsOfImage y bs

theorem placeEntries_hub (s : State) (k t : Nat) (c : Core) (es : List ReplayEntry) : (placeEntries s k t c es).hub = s.hub := by
  unfold placeEntries
  split
  · rfl
  · exact foldl_same State.hub (f := fun s e => post s ⟨.gang c.gang, t + e.due, replayPhase s k e, some k, .event (.replayReinject k e)⟩)
      (fun _ _ => rfl) es { s with agenda := s.agenda.filter fun j => !replayed s k t c (workFrom s k t c) j }

theorem imageIn_hub (w : State) (x k t : Nat) (img : Core) (bs : List Byte) :
    (imageIn w x k t img bs).hub = (writeImageBytes (modCtx w x imageTouched) x k bs).hub := placeEntries_hub ..

theorem writeImageBytes_keeps (s : State) (x k : Nat) (bs : List Byte) :
    (writeImageBytes s x k bs).hub.images = s.hub.images ∧ authOf (writeImageBytes s x k bs) = authOf s := by
  unfold writeImageBytes
  split
  · exact ⟨rfl, rfl⟩
  · exact ⟨rfl, rfl⟩

theorem dmaBlocked_imageIn (w : State) (x k t : Nat) (img : Core) (bs : List Byte) (p : Nat) :
    dmaBlocked (imageIn w x k t img bs) p = dmaBlocked w p := by
  have hauth : authOf (imageIn w x k t img bs) = authOf (modCtx w x imageTouched) :=
    (congrArg Hub.auth (imageIn_hub ..)).trans (writeImageBytes_keeps ..).2
  rw [dmaBlocked, hauth]
  rfl

/-- DEBUG of an image's write. -/
def debugWriteOf (w : State) (p x i start : Nat) : Answer :=
  match imageFor w x i with
  | none => .error rBadArg
  | some (k, t, img) =>
    if dmaBlocked (imageIn w x k t img (hostImage w p start)) p then .error rBadArg
    else .ok (putImage (imageIn w x k t img (hostImage w p start)) x k (coreOfImage img (hostImage w p start)),
      some (BitVec.ofNat 64 (hostImage w p start).length))

theorem doDebug_write (hown : ownsCtx w p (a 0 % 4096) = true) (hm : a 1 % 16 = 4) :
    doDebug w p a = debugWriteOf w p (a 0 % 4096) (a 3 % 1024) (a 2) := by
  rw [doDebug, hown, hm]
  rfl

theorem runCommand_debugWrite {k t : Nat} {img : Core} (h4 : rights.getLsbD 4 = true) (hown : ownsCtx w p (a 0 % 4096) = true)
    (hm : a 1 % 16 = 4) (himg : imageFor w (a 0 % 4096) (a 3 % 1024) = some (k, t, img)) (hdma : dmaBlocked w p = false) :
    runCommand w p 0x30 rights a =
      .ok (putImage (imageIn w (a 0 % 4096) k t img (hostImage w p (a 2))) (a 0 % 4096) k (coreOfImage img (hostImage w p (a 2))),
        some (BitVec.ofNat 64 (hostImage w p (a 2)).length)) := by
  have heq : runCommand w p 0x30 rights a = doDebug w p a := if_neg (runCommand_allowed rfl h4)
  rw [heq, doDebug_write hown hm, debugWriteOf, himg]
  dsimp only
  rw [dmaBlocked_imageIn, hdma, if_neg Bool.false_ne_true]

/-- The core's state is put back where it was found; memory and contexts stay. -/
theorem putImage_puts (s : State) (x k : Nat) (c : Core) : ReadsSame s (putImage s x k c) ∧
    if (s.hub.images.find? fun e => decide (e.1 = x * 1024 + k)).isSome then (x * 1024 + k, c) ∈ (putImage s x k c).hub.images
    else coreOf (putImage s x k c) k = c := by
  unfold putImage
  dsimp only
  split
  · exact ⟨⟨rfl, rfl, rfl, rfl⟩, List.mem_of_find?_eq_some (find?_tins ..)⟩
  · exact ⟨⟨rfl, rfl, rfl, rfl⟩, coreOf_setCore_self ..⟩

theorem ReadsSame.trans {s t u : State} (h₁ : ReadsSame s t) (h₂ : ReadsSame t u) : ReadsSame s u :=
  ⟨h₂.bytes.trans h₁.bytes, h₂.sealed.trans h₁.sealed, h₂.ctxs.trans h₁.ctxs, h₂.keys.trans h₁.keys⟩

theorem devBytes_of_readsBut {s t : State} {b : Nat} {bs : List Byte} (h : ReadsBut s t b bs) : devBytes t b bs.length = bs := by
  refine List.ext_getElem (by rw [devBytes, List.length_map, List.length_range]) fun i hi hi' => ?_
  simp only [devBytes, List.getElem_map, List.getElem_range]
  rw [h (b + i), if_pos ⟨Nat.le_add_right .., by omega⟩, Nat.add_sub_cancel_left,
    List.getD_eq_getElem _ _ hi']

theorem written_writes (w : State) (x k t : Nat) (img : Core) (bs : List Byte) :
    let u := putImage (imageIn w x k t img bs) x k (coreOfImage img bs)
    (ctxOf u x).badImage = true ∧ (∀ b, imagePlace w x k = some b → devBytes u b bs.length = bs) ∧
      if (w.hub.images.find? fun e => decide (e.1 = x * 1024 + k)).isSome then (x * 1024 + k, coreOfImage img bs) ∈ u.hub.images
      else coreOf u k = coreOfImage img bs := by
  intro u
  obtain ⟨v, hv⟩ : ∃ v, v = writeImageBytes (modCtx w x imageTouched) x k bs := ⟨_, rfl⟩
  obtain ⟨himages, hauth⟩ := writeImageBytes_keeps (modCtx w x imageTouched) x k bs
  have hhub := imageIn_hub w x k t img bs
  obtain ⟨reads, hput⟩ := putImage_puts (imageIn w x k t img bs) x k (coreOfImage img bs)
  have same : ReadsSame v u := by
    rw [hv]
    exact .trans (.of_hub hhub) reads
  rw [← hv] at himages hauth hhub
  refine ⟨?_, fun b hb => ?_, ?_⟩
  · have hctx : ctxOf u x = imageTouched (ctxOf w x) := by
      rw [ctxOf, same.ctxs, hauth, ← ctxOf, ctxOf_modCtx, if_pos rfl]
    rw [hctx]
    rfl
  · have hplace : imagePlace (modCtx w x imageTouched) x k = some b := by
      rw [imagePlace, ctxOf_modCtx, if_pos rfl]
      exact hb
    have hwrite : v = putDev (modCtx w x imageTouched) b bs := by rw [hv, writeImageBytes, hplace]
    rw [same.devBytes, hwrite]
    exact devBytes_of_readsBut (readsBut_putDev (modCtx w x imageTouched) b bs)
  · rw [hhub, himages] at hput
    exact hput

end

end Sys2Proof.Machine
end

section
/-! PROOF. O54: the commands on mailboxes, harts, debugging, holds, counters and reports (R278, R284, R298, R320, R321, R324, R336). -/

namespace Sys2Proof.Machine

/-- Settles O54. -/
theorem commandsOnUnits : Obligations.CommandsOnUnits := by
  intro s w p hb hr page rights a runs
  have hlen : 1 < (argsOf (partOf s p)).length := (by decide : 1 < 4)
  have hfix (lo n v : Nat) (i : Nat) (h : i ≠ 1) : argOf (fixField 1 lo n v (argsOf (partOf s p))) i = a i := argOf_fixField_ne h
  have hbound (n : Nat) : a n < 2 ^ 64 := BitVec.isLt _
  refine ⟨fun h0 => ⟨?mboxcfg, ?hartcfg⟩, ?debug, ?holdrel, ?counters, ?report⟩
  case mboxcfg =>
    intro g v owner hheld hl
    have hheld (m : Nat) : holds w p 6 (argOf (fixField 1 0 2 m (argsOf (partOf s p))) 0 % 128) = true := by
      rw [hfix 0 2 m 0 (by decide)]; exact hheld
    have hl (m : Nat) : lockedKey w p 6 (argOf (fixField 1 0 2 m (argsOf (partOf s p))) 0 % 128) = false := by
      rw [hfix 0 2 m 0 (by decide)]; exact hl
    have hm (m : Nat) (hm : m < 2 ^ 2) : argOf (fixField 1 0 2 m (argsOf (partOf s p))) 1 % 4 = m := by
      have := argOf_fixField_self (lo := 0) (n := 2) hlen hm (by decide)
      rwa [Nat.pow_zero, Nat.div_one] at this
    have hpair (m : Nat) (hm : m < 2 ^ 2) : argOf (fixField 1 0 2 m (argsOf (partOf s p))) 1 / 2 ^ 8 % 64 = a 1 / 2 ^ 8 % 64 :=
      argOf_fixField_apart (lo := 0) hlen hm 8 6 (by decide) (.inr (by decide))
    refine ⟨fun hidle => commandRuns_of rfl hb hr (runCommand_grpctl h0 (hheld 0) (hl 0) (hm 0 (by decide))) ?_,
      fun hruns => commandRuns_of rfl hb hr (runCommand_grpctl h0 (hheld 0) (hl 0) (hm 0 (by decide))) ?_,
      commandRuns_of rfl hb hr (runCommand_grpactive h0 (hheld 1) (hl 1) (hm 1 (by decide))) ?_,
      commandRuns_of rfl hb hr (runCommand_epnext h0 (hheld 2) (hl 2) (hm 2 (by decide))) ?_⟩
    · rw [hfix 0 2 0 0 (by decide), hfix 0 2 0 2 (by decide)]
      exact writeGrpctl_writes v hidle
    · rw [hfix 0 2 0 0 (by decide), hfix 0 2 0 2 (by decide)]
      exact writeGrpctl_waits v hruns
    · rw [hfix 0 2 1 0 (by decide), hfix 0 2 1 2 (by decide)]
      exact writeGrpactive_writes g v
    · rw [hfix 0 2 2 0 (by decide), hfix 0 2 2 2 (by decide), hpair 2 (by decide)]
      exact writeEpnext_writes (64 * g + a 1 / 2 ^ 8 % 64) v
  case hartcfg =>
    intro h role y first n ws used base limit hheld hl hused
    have hready (h : a 0 / 2 ^ 8 % 4 = 1 ∨ a 0 / 2 ^ 8 % 4 = 2) : HartReady w p a := by
      obtain ⟨owns, scrubbed, range, pairs, window, pages⟩ := hused h
      exact ⟨owns, scrubbed, range, pairs, window, pages⟩
    refine ⟨fun ⟨c, hc, hruns⟩ => ?_, fun hidle => ?_⟩
    · have hany : (hartOwner w h (wordsOf a)).any (ctxRuns w) = true := by rw [show hartOwner w h (wordsOf a) = some c from hc]; exact hruns
      have hrun : runCommand w p 0x23 rights a = .ok (hartWaits w h (wordsOf a), none) := by
        rw [runCommand_hartcfg h0 hheld hl hready, if_pos hany]
      exact commandRuns_of rfl hb hr hrun (hartWaits_waits w h (wordsOf a))
    · have hany : ¬(hartOwner w h (wordsOf a)).any (ctxRuns w) = true := by
        cases hc : hartOwner w h (wordsOf a) with
        | none => exact Bool.false_ne_true
        | some c =>
          intro hruns
          rw [Option.any_some, hidle c hc] at hruns
          cases hruns
      have hrun : runCommand w p 0x23 rights a = .ok (configureHart w h (wordsOf a), none) := by
        rw [runCommand_hartcfg h0 hheld hl hready, if_neg hany]
      obtain ⟨hrole, hpair, hctx, hfirst, hcount, hentry, hrunning, hsteps, hep, henv, hchk, hothers⟩ := configured w h (hbound 0) (hbound 3)
      exact commandRuns_of rfl hb hr hrun ⟨hrole, hpair, hctx, hfirst, hcount, hentry, hrunning, hsteps, hep, henv, hchk, hothers⟩
  case debug =>
    intro h4 x g hown
    have hown (m : Nat) : ownsCtx w p (argOf (fixField 1 0 4 m (argsOf (partOf s p))) 0 % 4096) = true := by
      rw [hfix 0 4 m 0 (by decide)]; exact hown
    have hm (m : Nat) (hm : m < 2 ^ 4) : argOf (fixField 1 0 4 m (argsOf (partOf s p))) 1 % 16 = m := by
      have := argOf_fixField_self (lo := 0) (n := 4) hlen hm (by decide)
      rwa [Nat.pow_zero, Nat.div_one] at this
    refine ⟨?stops, fun k hpos hk hgang hstop hmode hl => ?halt, fun k frozen img himg hdma => ?read,
      fun k frozen img himg hdma => ?write⟩
    case stops =>
      obtain ⟨hoff, hbitOff, hallOff⟩ := stopsSet_sets w x false
      obtain ⟨hon, hbitOn, hallOn⟩ := stopsSet_sets w x true
      refine ⟨commandRuns_of rfl hb hr (runCommand_debugStopOff h4 (hown 0) (hm 0 (by decide))) ?_,
        commandRuns_of rfl hb hr (runCommand_debugStopOn h4 (hown 1) (hm 1 (by decide))) ?_⟩
      · rw [hfix 0 4 0 0 (by decide)]
        exact ⟨hoff, hbitOff, fun _ => hallOff⟩
      · rw [hfix 0 4 1 0 (by decide)]
        exact ⟨hon, hbitOn, fun _ => hallOn⟩
    case halt =>
      have hself : argOf (fixField 1 0 4 2 (argsOf (partOf s p))) 0 % 4096 = x := by rw [hfix 0 4 2 0 (by decide)]
      exact commandRuns_of rfl hb hr (runCommand_debugHalt h4 (hown 2) (hm 2 (by decide)) (by rw [hself]; exact hpos)
        (by rw [hself]; exact hk) (by rw [hself]; exact hstop) (by rw [hself]; exact hmode)) (halted_halts hgang hmode hl)
    case read =>
      have hrun := runCommand_debugRead (k := k) (t := frozen) (img := img) h4 (hown 3) (hm 3 (by decide))
        (by rw [hfix 0 4 3 0 (by decide), hfix 0 4 3 3 (by decide)]; exact himg) hdma
      rw [hfix 0 4 3 0 (by decide), hfix 0 4 3 2 (by decide)] at hrun
      exact commandRuns_of rfl hb hr hrun rfl
    case write =>
      intro h bs
      have hbs : hostImage w p (a 2) = bs := by rw [hostImage]
      have hrun := runCommand_debugWrite (k := k) (t := frozen) (img := img) h4 (hown 4) (hm 4 (by decide))
        (by rw [hfix 0 4 4 0 (by decide), hfix 0 4 4 3 (by decide)]; exact himg) hdma
      rw [hfix 0 4 4 0 (by decide), hfix 0 4 4 2 (by decide)] at hrun
      rw [hbs] at hrun
      clear_value bs
      exact commandRuns_of rfl hb hr hrun (written_writes w x k frozen img bs)
  case holdrel =>
    intro g cause right n hrow hright hp hn hc hreleased hbad
    have hopen : openHolds w g cause ≠ [] := List.ne_nil_of_mem (List.mem_filter.mpr ⟨hn, decide_eq_true ⟨hc, hreleased⟩⟩)
    exact commandRuns_of rfl hb hr (runCommand_holdrel hrow hright hp hopen) (released_releases w g hbad)
  case counters =>
    intro h2 hset hdma bs
    exact commandRuns_of rfl hb hr (runCommand_counters h2 hset hdma) rfl
  case report =>
    intro h5 hdma hlo hhi hone htwo bs
    exact commandRuns_of rfl hb hr (runCommand_report h5 hdma hlo hhi hone htwo) (putHost_puts w p (a 1) bs)

end Sys2Proof.Machine
end

section
/-! PROOF. Properties that only the clock and the tables of cores and gangs decide. -/

namespace Sys2Proof.Machine

/-- A property of states that the clock and the tables of cores and gangs decide, and that every write of a core or a gang
keeps. -/
structure TableInv where
  holds : State → Prop
  core : ∀ s k c, holds s → holds (setCore s k c)
  gang : ∀ s g x, holds s → holds (setGang s g x)
  rest : ∀ s t, t.cores = s.cores → t.gangs = s.gangs → t.pod = s.pod → holds s → holds t

/-- The tables are in canonical form. -/
def canonInv : TableInv where
  holds := canonical
  core _ k c h := ⟨twf_tset k c h.1, h.2⟩
  gang _ g x h := ⟨h.1, twf_tset g x h.2⟩
  rest _ _ hc hg _ h := by
    unfold canonical
    rw [hc, hg]
    exact h

/-- The clock shows `p`. -/
def podInv (p : Nat) : TableInv where
  holds s := s.pod = p
  core _ _ _ h := h
  gang _ _ _ h := h
  rest _ _ _ _ hp h := hp.trans h

variable {I : TableInv}

/-- The property holds of the state that a step reaches, if it reaches one. -/
structure TableInv.out (I : TableInv) (o : Out) : Prop where
  next : ∀ t, o = .next t → I.holds t

theorem out_next {t : State} (h : I.holds t) : I.out (.next t) := ⟨fun _ ht => by
  cases ht
  exact h⟩

theorem out_fault (f : Fault) : I.out (.fault f) := ⟨fun _ ht => nomatch ht⟩

theorem out_refused (r : Refusal) : I.out (.refused r) := ⟨fun _ ht => nomatch ht⟩

/-- The property holds of the state in which a command completes. -/
structure TableInv.answer (I : TableInv) (r : Answer) : Prop where
  ok : ∀ u v, r = .ok (u, v) → I.holds u

theorem answer_ok {t : State} (h : I.holds t) (v : Option Word) : I.answer (.ok (t, v)) := ⟨fun _ _ ht => by
  cases ht
  exact h⟩

theorem answer_error (e : Nat) : I.answer (.error e) := ⟨fun _ _ ht => nomatch ht⟩

theorem answer_ite {q : Prop} [Decidable q] {s t : Answer} (hs : I.answer s) (ht : I.answer t) : I.answer (if q then s else t) := by
  split
  · exact hs
  · exact ht

theorem keeps_ite {q : Prop} [Decidable q] {s t : State} (hs : I.holds s) (ht : I.holds t) : I.holds (if q then s else t) := by
  split
  · exact hs
  · exact ht

theorem out_ite {q : Prop} [Decidable q] {s t : Out} (hs : I.out s) (ht : I.out t) : I.out (if q then s else t) := by
  split
  · exact hs
  · exact ht

theorem keeps_when {q : Prop} [Decidable q] {s t : State} (hs : I.holds s) (ht : I.holds s → I.holds t) :
    I.holds (if q then t else s) := keeps_ite (ht hs) hs

theorem keeps_unless {q : Prop} [Decidable q] {s t : State} (hs : I.holds s) (ht : I.holds s → I.holds t) :
    I.holds (if q then s else t) := keeps_ite hs (ht hs)

theorem keeps_foldl {α : Type} {f : State → α → State} (h : ∀ s a, I.holds s → I.holds (f s a)) (as : List α) {s : State}
    (hs : I.holds s) : I.holds (as.foldl f s) :=
  foldl_keeps h as s hs

/-- A fold that carries more than the state. -/
theorem keeps_snd_foldl {α β : Type} {f : β × State → α → β × State} (h : ∀ b a, I.holds b.2 → I.holds (f b a).2) (as : List α)
    {b : β × State} (hb : I.holds b.2) : I.holds (as.foldl f b).2 :=
  foldl_keeps (P := fun b : β × State => I.holds b.2) h as b hb

/-- The canonical form does not depend on the clock. -/
theorem keeps_clock {s : State} (h : canonInv.holds s) (pod : Nat) (hub : Hub) (agenda : List Job) (issuing : Option Fetch) (cur : Cursor)
    (phase : Nat) (looking : Bool) (fresh : Nat) :
    canonInv.holds ⟨pod, s.cores, s.gangs, hub, agenda, issuing, cur, phase, looking, fresh⟩ := h

theorem canonical_of_empty {s : State} (hc : s.cores = []) (hg : s.gangs = []) : canonInv.holds s := by
  refine ⟨?_, ?_⟩
  · rw [hc]; rfl
  · rw [hg]; rfl

/-- What is beside the clock and the tables may change. -/
theorem keeps_beside {s : State} (h : I.holds s) (hub : Hub) (agenda : List Job) (issuing : Option Fetch) (cur : Cursor) (phase : Nat)
    (looking : Bool) (fresh : Nat) : I.holds ⟨s.pod, s.cores, s.gangs, hub, agenda, issuing, cur, phase, looking, fresh⟩ :=
  I.rest s _ rfl rfl rfl h

/-- A step that answers a state and more. -/
theorem keeps_fst {α : Type} {r : State × α} {t : State} {a : α} (h : I.holds r.1) (hr : r = (t, a)) : I.holds t := by
  rw [hr] at h
  exact h

theorem keeps_setCore {s : State} (h : I.holds s) (k : Nat) (c : Core) : I.holds (setCore s k c) := I.core s k c h

theorem keeps_setGang {s : State} (h : I.holds s) (g : Nat) (x : Gang) : I.holds (setGang s g x) := I.gang s g x h

end Sys2Proof.Machine
end

section
/-! PROOF. What writes cores and gangs only through their setters keeps such a property: core operations. -/

namespace Sys2Proof.Machine

variable {I : TableInv}

/-! Cores, clocks, scheduled work, and faults (R286 to R289). -/

theorem keeps_modCore {s : State} (hs : I.holds s) (k : Nat) (f : Core → Core) : I.holds (modCore s k f) := keeps_setCore hs ..

theorem keeps_modGang {s : State} (hs : I.holds s) (g : Nat) (f : Gang → Gang) : I.holds (modGang s g f) := keeps_setGang hs ..

theorem keeps_post {s : State} (hs : I.holds s) (j : Job) : I.holds (post s j) := keeps_beside hs ..

theorem keeps_postCore {s : State} (hs : I.holds s) (k due phase : Nat) (t : Task) : I.holds (postCore s k due phase t) :=
  keeps_post hs ..

theorem keeps_postGang {s : State} (hs : I.holds s) (g due phase : Nat) (i : Instr) : I.holds (postGang s g due phase i) :=
  keeps_post hs ..

theorem keeps_postPod {s : State} (hs : I.holds s) (due phase : Nat) (i : Instr) : I.holds (postPod s due phase i) :=
  keeps_post hs ..

theorem keeps_postDeed {s : State} (hs : I.holds s) (k due phase : Nat) (d : Deed) : I.holds (postDeed s k due phase d) :=
  keeps_postCore hs ..

theorem keeps_modMe {s : State} (hs : I.holds s) (f : Core → Core) : I.holds (modMe s f) := keeps_modCore hs ..

theorem keeps_takeFresh {s : State} (hs : I.holds s) : I.holds (takeFresh s).2 := keeps_beside hs ..

theorem keeps_takeFault {s : State} (hs : I.holds s) (k c : Nat) (r : Raise) (rs : List Raise) :
    I.holds (takeFault s k c r rs) :=
  keeps_unless (keeps_takeFresh (keeps_beside (keeps_beside (keeps_modCore hs ..) ..) ..) ..) fun h => keeps_postPod h ..

theorem keeps_settleFaults {s : State} (hs : I.holds s) (k : Nat) : I.holds (settleFaults s k) := by
  unfold settleFaults
  dsimp only
  split
  · exact hs
  · split
    · exact hs
    · exact keeps_takeFault hs ..

/-! Moves (R52, R56, R57, R60). -/

theorem keeps_launch {s : State} (hs : I.holds s) (i : Instr) (m : Mv) (always : Bool) : I.holds (launch i m always s) :=
  keeps_ite (keeps_postCore (keeps_setCore hs ..) ..) (keeps_setCore hs ..)

theorem keeps_trigger {effect : Flight → State → State} {s : State} (hs : I.holds s) (heffect : ∀ x0 s1, I.holds s1 → I.holds
  (effect x0 s1)) (i : Instr) (m : Mv) :
    I.out (trigger i m s effect) := by
  unfold trigger
  split
  · exact out_next (keeps_launch hs ..)
  · exact out_next (heffect _ _ (keeps_modMe hs ..))

theorem keeps_compareTrigger {effect : Flight → State → State} {s : State} (hs : I.holds s) (heffect : ∀ x0 s1, I.holds s1 →
  I.holds (effect x0 s1)) (i : Instr) (m : Mv) :
    I.out (compareTrigger i m s effect) := by
  unfold compareTrigger
  split
  · exact out_next (keeps_launch hs ..)
  · exact out_next (heffect _ _ (keeps_modMe hs ..))

theorem keeps_complete {s : State} (hs : I.holds s) (fl : Flight) (port : ResultPort) (lat : Nat) (v : Vec) (f : Flags) :
    I.holds (complete s fl port lat v f) :=
  keeps_postCore (keeps_ite (keeps_modMe hs ..) hs) ..

theorem keeps_completeWord {s : State} (hs : I.holds s) (fl : Flight) (port : ResultPort) (lat : Nat) (w : Word) (f : Flags) :
    I.holds (completeWord s fl port lat w f) :=
  keeps_complete hs ..

theorem keeps_schedulePred {s : State} (hs : I.holds s) (fl : Flight) (lat n kind : Nat) (v : Bool) :
    I.holds (schedulePred s fl lat n kind v) :=
  keeps_postDeed (keeps_modMe hs ..) ..

/-! Scratch (R70 to R80). -/

theorem keeps_postSettle {s : State} (hs : I.holds s) (k x : Nat) : I.holds (postSettle s k x) :=
  keeps_ite hs (keeps_postDeed hs ..)

theorem keeps_raceReport {s : State} (hs : I.holds s) (k addr : Nat) (x : BitVec 16) (rw : Nat) (sh : Shadow) (untimed : Bool)
  (victim : Nat) (ch : Option (Nat × Nat × Nat)) :
    I.holds (raceReport s k addr x rw sh untimed victim ch) :=
  keeps_ite hs (keeps_when (keeps_modCore hs ..) fun h => keeps_modCore h ..)

theorem keeps_raceScratch {s : State} (hs : I.holds s) (k addr n : Nat) (x : BitVec 16) (rw : Nat) (ch : Option (Nat × Nat ×
  Nat)) :
    I.holds (raceScratch s k addr n x rw ch) :=
  keeps_foldl (fun _ _ hu => keeps_ite (keeps_raceReport hu ..) hu) _ hs

theorem keeps_raceScratchRead {s : State} (hs : I.holds s) (k addr n : Nat) : I.holds (raceScratchRead s k addr n) :=
  keeps_raceScratch hs ..

theorem keeps_shadowWrite {s : State} (hs : I.holds s) (k : Nat) (w : ScratchWrite) : I.holds (shadowWrite s k w) := by
  unfold shadowWrite
  exact keeps_modCore hs ..

theorem keeps_performWrite {s : State} (hs : I.holds s) (k : Nat) (w : ScratchWrite) : I.holds (performWrite s k w) :=
  keeps_ite hs (keeps_modCore (keeps_shadowWrite (keeps_raceScratch hs ..) ..) ..)

theorem keeps_stampTile {s : State} (hs : I.holds s) (k tile : Nat) (tag : BitVec 16) : I.holds (stampTile s k tile tag) :=
  keeps_modCore hs ..

theorem keeps_scheduleStamp {s : State} (hs : I.holds s) (k x tile : Nat) (tag : BitVec 16) (ch : Nat × Nat × Nat) :
    I.holds (scheduleStamp s k x tile tag ch) :=
  keeps_postDeed (keeps_modCore hs ..) ..

theorem keeps_ownStamp {s : State} (hs : I.holds s) (k tile : Nat) (tag : BitVec 16) : I.holds (ownStamp s k tile tag) := by
  unfold ownStamp
  dsimp only
  split
  · exact keeps_modCore hs ..
  · exact keeps_stampTile hs ..

theorem keeps_postForeign {s : State} (hs : I.holds s) (k phase : Nat) (w : ScratchWrite) (sts : List (Nat × BitVec 16)) :
    I.holds (postForeign s k phase w sts) :=
  keeps_post hs ..

theorem keeps_foreignStore {s : State} (hs : I.holds s) (k : Nat) (w : ScratchWrite) (sts : List (Nat × BitVec 16)) :
    I.holds (foreignStore s k w sts) :=
  keeps_ite (keeps_ite hs (keeps_foldl (fun _ _ hu => keeps_ownStamp hu ..) _ (keeps_performWrite hs ..))) (keeps_foldl (fun _ _
    hu => keeps_stampTile hu ..) _ (keeps_performWrite hs ..))

theorem keeps_claimStamps {s : State} (hs : I.holds s) (k : Nat) (party : Word) (sts : List (Nat × BitVec 16)) :
    I.holds (claimStamps s k party sts) := by
  unfold claimStamps
  dsimp only
  split
  · exact keeps_modCore hs ..
  · exact keeps_modCore (keeps_modCore hs ..) ..

theorem keeps_discardForeign {s : State} (hs : I.holds s) (k : Nat) (f : Foreign) : I.holds (discardForeign s k f) :=
  keeps_postForeign hs ..

theorem keeps_settleLate {s : State} (hs : I.holds s) (k : Nat) (a : Access) : I.holds (settleLate s k a) :=
  keeps_ite hs (keeps_modCore hs ..)

theorem keeps_foreignAccess {s : State} (hs : I.holds s) (k addr n kind : Nat) (agent : BitVec 16) (src key : Nat) (xcopy :
  Bool) :
    I.holds (foreignAccess s k addr n kind agent src key xcopy) :=
  keeps_unless (keeps_modCore hs ..) fun h => keeps_foldl (fun _ _ hu => keeps_postForeign hu ..) _ (keeps_modCore h ..)

theorem keeps_takeEjection {s : State} (hs : I.holds s) (k addr : Nat) (agent : BitVec 16) (src key : Nat) :
    I.holds (takeEjection s k addr agent src key) := by
  unfold takeEjection
  exact keeps_modCore hs ..

theorem keeps_unclaimedFault {s : State} (hs : I.holds s) (k addr : Nat) : I.holds (unclaimedFault s k addr) :=
  keeps_modCore hs ..

theorem keeps_foreignWrite {s : State} (hs : I.holds s) (k : Nat) (f : Foreign) : I.holds (foreignWrite s k f) :=
  keeps_ite (keeps_ite (keeps_postForeign (keeps_claimStamps hs ..) ..) (keeps_unclaimedFault hs ..)) (keeps_ite
    (keeps_unclaimedFault (keeps_ite (keeps_takeEjection hs ..) hs) ..) (keeps_ite (keeps_discardForeign (keeps_modCore hs ..)
    ..) (keeps_postForeign (keeps_claimStamps (keeps_foreignAccess hs ..) ..) ..)))

/-! The bank groups (R81, R82). -/

theorem keeps_load {s : State} (hs : I.holds s) (i : Instr) (g : Bank) (m : Mv) (n align : Nat) :
    I.out (load i g m n align s) :=
  keeps_trigger hs (fun _ _ hu => keeps_when (keeps_modMe hu ..) fun h => keeps_postDeed (keeps_modMe h ..) ..) ..

theorem keeps_store {s : State} (hs : I.holds s) (i : Instr) (g : Bank) (m : Mv) (n align : Nat) :
    I.out (store i g m n align s) :=
  keeps_trigger hs (fun _ _ hu => keeps_when (keeps_modMe hu ..) fun h => keeps_postDeed (keeps_modMe h ..) ..) ..

theorem keeps_atomic {s : State} (hs : I.holds s) (i : Instr) (g : Bank) (m : Mv) (op : Nat) : I.out (atomic i g m op s) :=
  keeps_trigger hs (fun _ _ hu => keeps_when (keeps_modMe hu ..) fun h => keeps_postDeed (keeps_modMe h ..) ..) ..

theorem keeps_loadRead {s : State} (hs : I.holds s) (k : Nat) (g : Bank) (a n : Nat) : I.holds (loadRead s k g a n) :=
  keeps_ite hs (keeps_postCore (keeps_raceScratch hs ..) ..)

theorem keeps_storeWrite {s : State} (hs : I.holds s) (k : Nat) (w : ScratchWrite) : I.holds (storeWrite s k w) :=
  keeps_ite hs (keeps_performWrite hs ..)

theorem keeps_rmwRead {s : State} (hs : I.holds s) (k : Nat) (g : Bank) (op a : Nat) (d e : BitVec 32) (cls : Nat) :
    I.holds (rmwRead s k g op a d e cls) :=
  keeps_ite hs (keeps_postDeed (keeps_postCore (keeps_when (keeps_raceScratch hs ..) fun h => keeps_modCore h ..) ..) ..)

theorem keeps_rmwWrite {s : State} (hs : I.holds s) (k : Nat) (g : Bank) (w : ScratchWrite) (f : Flags) :
    I.holds (rmwWrite s k g w f) :=
  keeps_ite (keeps_modCore hs ..) (keeps_performWrite (keeps_modCore hs ..) ..)

theorem keeps_execLdB {s : State} (hs : I.holds s) (g : Bank) (m : Mv) : I.out (execLdB g m s) := keeps_load hs ..

theorem keeps_execLdH {s : State} (hs : I.holds s) (g : Bank) (m : Mv) : I.out (execLdH g m s) := keeps_load hs ..

theorem keeps_execLdW {s : State} (hs : I.holds s) (g : Bank) (m : Mv) : I.out (execLdW g m s) := keeps_load hs ..

theorem keeps_execLdD {s : State} (hs : I.holds s) (g : Bank) (m : Mv) : I.out (execLdD g m s) := keeps_load hs ..

theorem keeps_execLdV {s : State} (hs : I.holds s) (g : Bank) (m : Mv) : I.out (execLdV g m s) := keeps_load hs ..

theorem keeps_execStB {s : State} (hs : I.holds s) (g : Bank) (m : Mv) : I.out (execStB g m s) := keeps_store hs ..

theorem keeps_execStH {s : State} (hs : I.holds s) (g : Bank) (m : Mv) : I.out (execStH g m s) := keeps_store hs ..

theorem keeps_execStW {s : State} (hs : I.holds s) (g : Bank) (m : Mv) : I.out (execStW g m s) := keeps_store hs ..

theorem keeps_execStD {s : State} (hs : I.holds s) (g : Bank) (m : Mv) : I.out (execStD g m s) := keeps_store hs ..

theorem keeps_execStV {s : State} (hs : I.holds s) (g : Bank) (m : Mv) : I.out (execStV g m s) := keeps_store hs ..

theorem keeps_execAadd {s : State} (hs : I.holds s) (g : Bank) (m : Mv) : I.out (execAadd g m s) := keeps_atomic hs ..

theorem keeps_execAfadd {s : State} (hs : I.holds s) (g : Bank) (m : Mv) : I.out (execAfadd g m s) := keeps_atomic hs ..

theorem keeps_execAmin {s : State} (hs : I.holds s) (g : Bank) (m : Mv) : I.out (execAmin g m s) := keeps_atomic hs ..

theorem keeps_execAminu {s : State} (hs : I.holds s) (g : Bank) (m : Mv) : I.out (execAminu g m s) := keeps_atomic hs ..

theorem keeps_execAmax {s : State} (hs : I.holds s) (g : Bank) (m : Mv) : I.out (execAmax g m s) := keeps_atomic hs ..

theorem keeps_execAmaxu {s : State} (hs : I.holds s) (g : Bank) (m : Mv) : I.out (execAmaxu g m s) := keeps_atomic hs ..

theorem keeps_execAand {s : State} (hs : I.holds s) (g : Bank) (m : Mv) : I.out (execAand g m s) := keeps_atomic hs ..

theorem keeps_execAor {s : State} (hs : I.holds s) (g : Bank) (m : Mv) : I.out (execAor g m s) := keeps_atomic hs ..

theorem keeps_execAxch {s : State} (hs : I.holds s) (g : Bank) (m : Mv) : I.out (execAxch g m s) := keeps_atomic hs ..

theorem keeps_execAcas {s : State} (hs : I.holds s) (g : Bank) (m : Mv) : I.out (execAcas g m s) := keeps_atomic hs ..

/-! Streams (R85 to R88). -/

theorem keeps_popRead {s : State} (hs : I.holds s) (k q x i bundle : Nat) (moves : List (Nat × Bool × Bool)) :
    I.holds (popRead s k q x i bundle moves) :=
  keeps_ite (keeps_modCore hs ..) (keeps_ite (keeps_modCore hs ..) (keeps_ite (keeps_modCore hs ..) (keeps_modCore (keeps_ite
    (keeps_raceScratch hs ..) (keeps_raceScratch (keeps_raceScratch hs ..) ..)) ..)))

theorem keeps_pushItem {s : State} (hs : I.holds s) (k q a : Nat) (elemsIn : List Nat) (ch : Nat × Nat × Nat) (mx : Bool) :
    I.holds (pushItem s k q a elemsIn ch mx) := by
  unfold pushItem
  dsimp only
  split
  · refine keeps_postDeed ?_ ..
    split
    · refine keeps_postSettle ?_ ..
      split
      · exact keeps_when (keeps_modCore hs ..) fun h => keeps_postDeed (keeps_modCore h ..) ..
      · exact keeps_modCore hs ..
    · split
      · exact keeps_when (keeps_modCore hs ..) fun h => keeps_postDeed (keeps_modCore h ..) ..
      · exact keeps_modCore hs ..
  · refine keeps_postDeed ?_ ..
    refine keeps_postDeed ?_ ..
    split
    · refine keeps_postSettle ?_ ..
      split
      · exact keeps_when (keeps_modCore hs ..) fun h => keeps_postDeed (keeps_modCore h ..) ..
      · exact keeps_modCore hs ..
    · split
      · exact keeps_when (keeps_modCore hs ..) fun h => keeps_postDeed (keeps_modCore h ..) ..
      · exact keeps_modCore hs ..

theorem keeps_pushArrive {s : State} (hs : I.holds s) (q : Nat) (fl : Flight) : I.holds (pushArrive q fl s) :=
  keeps_ite (keeps_modCore (keeps_modCore hs ..) ..) (keeps_ite (keeps_modCore (keeps_modCore hs ..) ..) (keeps_pushItem
    (keeps_modCore (keeps_modCore hs ..) ..) ..))

theorem keeps_stampOpen {s : State} (hs : I.holds s) (fl : Flight) (q : Stream) : I.holds (stampOpen s fl q) := by
  unfold stampOpen
  split
  · exact keeps_ite (keeps_postDeed (keeps_modCore hs ..) ..) hs
  · exact hs

theorem keeps_sqResult {s : State} (hs : I.holds s) (fl : Flight) (q : Stream) : I.holds (sqResult s fl q) :=
  keeps_completeWord hs ..

theorem keeps_sqDone {s : State} (hs : I.holds s) (fl : Flight) (i : Nat) (q : Stream) : I.holds (sqDone s fl i q) :=
  keeps_sqResult (keeps_modMe hs ..) ..

end Sys2Proof.Machine
end

section
/-! PROOF. What writes cores and gangs only through their setters keeps such a property: issue, the scalar ALU and the vector units. -/

namespace Sys2Proof.Machine

variable {I : TableInv}

/-! Issue (R86, R89). -/

theorem keeps_beginBundle {s : State} (hs : I.holds s) (k : Nat) : I.holds (beginBundle s k) := by
  unfold beginBundle
  dsimp only
  split
  · exact hs
  · split
    · exact keeps_takeFault hs ..
    · split
      · exact keeps_setCore hs ..
      · split
        · exact keeps_postCore (keeps_when (keeps_setCore hs ..) fun h => keeps_beside h ..) ..
        · exact keeps_when (keeps_setCore hs ..) fun h => keeps_beside h ..

theorem keeps_nextSlot {s : State} (hs : I.holds s) (k n : Nat) : I.holds (nextSlot s k n) := keeps_beside hs ..

/-! The scalar ALU. -/

theorem keeps_saEnter {s : State} (hs : I.holds s) (cls : ImmClass) (fl : Flight) : I.holds (saEnter cls fl s) :=
  keeps_modMe hs ..

theorem keeps_saInt {s : State} (hs : I.holds s) (i : Instr) (m : Mv) (cls : ImmClass) (lat : Nat) (f : Word → Word → Word) :
    I.out (saInt i m cls lat f s) :=
  keeps_trigger hs (fun _ _ hu => keeps_completeWord (keeps_saEnter hu ..) ..) ..

theorem keeps_saFp {s : State} (hs : I.holds s) (i : Instr) (m : Mv) (lat : Nat) (f : Word → Word → Word → Word × Flags) :
    I.out (saFp i m lat f s) :=
  keeps_trigger hs (fun _ _ hu => keeps_completeWord (keeps_saEnter hu ..) ..) ..

theorem keeps_writeCombined {s : State} (hs : I.holds s) (fl : Flight) (lat q : Nat) (r : Bool) :
    I.holds (writeCombined s fl lat q r) :=
  keeps_foldl (fun _ _ hu => keeps_postDeed hu ..) _ (keeps_modMe hs ..)

theorem keeps_saCompare {s : State} (hs : I.holds s) (i : Instr) (m : Mv) : I.out (saCompare i m s) := by
  unfold saCompare
  refine keeps_compareTrigger hs ?_ ..
  intro _ _ hu
  split
  · exact keeps_writeCombined (keeps_saEnter hu ..) ..
  · exact hu

theorem keeps_execAdd {s : State} (hs : I.holds s) (m : Mv) : I.out (execAdd m s) := keeps_saInt hs ..

theorem keeps_execSub {s : State} (hs : I.holds s) (m : Mv) : I.out (execSub m s) := keeps_saInt hs ..

theorem keeps_execMul {s : State} (hs : I.holds s) (m : Mv) : I.out (execMul m s) := keeps_saInt hs ..

theorem keeps_execMulh {s : State} (hs : I.holds s) (m : Mv) : I.out (execMulh m s) := keeps_saInt hs ..

theorem keeps_execMulhu {s : State} (hs : I.holds s) (m : Mv) : I.out (execMulhu m s) := keeps_saInt hs ..

theorem keeps_execDiv {s : State} (hs : I.holds s) (m : Mv) : I.out (execDiv m s) := keeps_saInt hs ..

theorem keeps_execDivu {s : State} (hs : I.holds s) (m : Mv) : I.out (execDivu m s) := keeps_saInt hs ..

theorem keeps_execRem {s : State} (hs : I.holds s) (m : Mv) : I.out (execRem m s) := keeps_saInt hs ..

theorem keeps_execRemu {s : State} (hs : I.holds s) (m : Mv) : I.out (execRemu m s) := keeps_saInt hs ..

theorem keeps_execAnd {s : State} (hs : I.holds s) (m : Mv) : I.out (execAnd m s) := keeps_saInt hs ..

theorem keeps_execOr {s : State} (hs : I.holds s) (m : Mv) : I.out (execOr m s) := keeps_saInt hs ..

theorem keeps_execXor {s : State} (hs : I.holds s) (m : Mv) : I.out (execXor m s) := keeps_saInt hs ..

theorem keeps_execAndn {s : State} (hs : I.holds s) (m : Mv) : I.out (execAndn m s) := keeps_saInt hs ..

theorem keeps_execShl {s : State} (hs : I.holds s) (m : Mv) : I.out (execShl m s) := keeps_saInt hs ..

theorem keeps_execShr {s : State} (hs : I.holds s) (m : Mv) : I.out (execShr m s) := keeps_saInt hs ..

theorem keeps_execSra {s : State} (hs : I.holds s) (m : Mv) : I.out (execSra m s) := keeps_saInt hs ..

theorem keeps_execMin {s : State} (hs : I.holds s) (m : Mv) : I.out (execMin m s) := keeps_saInt hs ..

theorem keeps_execMinu {s : State} (hs : I.holds s) (m : Mv) : I.out (execMinu m s) := keeps_saInt hs ..

theorem keeps_execMax {s : State} (hs : I.holds s) (m : Mv) : I.out (execMax m s) := keeps_saInt hs ..

theorem keeps_execMaxu {s : State} (hs : I.holds s) (m : Mv) : I.out (execMaxu m s) := keeps_saInt hs ..

theorem keeps_execClz {s : State} (hs : I.holds s) (m : Mv) : I.out (execClz m s) := keeps_saInt hs ..

theorem keeps_execPopc {s : State} (hs : I.holds s) (m : Mv) : I.out (execPopc m s) := keeps_saInt hs ..

theorem keeps_execSel {s : State} (hs : I.holds s) (m : Mv) : I.out (execSel m s) :=
  keeps_trigger hs (fun _ _ hu => keeps_completeWord (keeps_saEnter hu ..) ..) ..

theorem keeps_execCmpEq {s : State} (hs : I.holds s) (m : Mv) : I.out (execCmpEq m s) := keeps_saCompare hs ..

theorem keeps_execCmpNe {s : State} (hs : I.holds s) (m : Mv) : I.out (execCmpNe m s) := keeps_saCompare hs ..

theorem keeps_execCmpLt {s : State} (hs : I.holds s) (m : Mv) : I.out (execCmpLt m s) := keeps_saCompare hs ..

theorem keeps_execCmpLe {s : State} (hs : I.holds s) (m : Mv) : I.out (execCmpLe m s) := keeps_saCompare hs ..

theorem keeps_execCmpLtu {s : State} (hs : I.holds s) (m : Mv) : I.out (execCmpLtu m s) := keeps_saCompare hs ..

theorem keeps_execCmpLeu {s : State} (hs : I.holds s) (m : Mv) : I.out (execCmpLeu m s) := keeps_saCompare hs ..

theorem keeps_execFadd {s : State} (hs : I.holds s) (m : Mv) : I.out (execFadd m s) := keeps_saFp hs ..

theorem keeps_execFsub {s : State} (hs : I.holds s) (m : Mv) : I.out (execFsub m s) := keeps_saFp hs ..

theorem keeps_execFmul {s : State} (hs : I.holds s) (m : Mv) : I.out (execFmul m s) := keeps_saFp hs ..

theorem keeps_execFfma {s : State} (hs : I.holds s) (m : Mv) : I.out (execFfma m s) := keeps_saFp hs ..

theorem keeps_execFmin {s : State} (hs : I.holds s) (m : Mv) : I.out (execFmin m s) := keeps_saFp hs ..

theorem keeps_execFmax {s : State} (hs : I.holds s) (m : Mv) : I.out (execFmax m s) := keeps_saFp hs ..

theorem keeps_execFcmpEq {s : State} (hs : I.holds s) (m : Mv) : I.out (execFcmpEq m s) := keeps_saCompare hs ..

theorem keeps_execFcmpLt {s : State} (hs : I.holds s) (m : Mv) : I.out (execFcmpLt m s) := keeps_saCompare hs ..

theorem keeps_execFcmpLe {s : State} (hs : I.holds s) (m : Mv) : I.out (execFcmpLe m s) := keeps_saCompare hs ..

theorem keeps_execFcmpUn {s : State} (hs : I.holds s) (m : Mv) : I.out (execFcmpUn m s) := keeps_saCompare hs ..

theorem keeps_execFcvtIf {s : State} (hs : I.holds s) (m : Mv) : I.out (execFcvtIf m s) :=
  keeps_trigger hs (fun _ _ hu => keeps_completeWord (keeps_saEnter hu ..) ..) ..

theorem keeps_execFcvtFi {s : State} (hs : I.holds s) (m : Mv) : I.out (execFcvtFi m s) := keeps_saFp hs ..

/-! The vector units. -/

theorem keeps_vecEnter {s : State} (hs : I.holds s) (u : VUnit) (cls : Option ImmClass) (fl : Flight) :
    I.holds (vecEnter u cls fl s) :=
  keeps_modMe hs ..

theorem keeps_vecTrigger {effect : Flight → VIn → State → State} {s : State} (hs : I.holds s) (heffect : ∀ x0 x1 s2, I.holds s2
  → I.holds (effect x0 x1 s2)) (i : Instr) (u : VUnit) (m : Mv) (cls : Option ImmClass) (accept : Fmt → Bool) (bad : VIn →
  Option Nat) :
    I.out (vecTrigger i u m cls accept bad effect s) := by
  unfold vecTrigger
  dsimp only
  refine keeps_trigger hs ?_ ..
  intro _ _ hu
  split
  · exact keeps_modMe (keeps_vecEnter hu ..) ..
  · exact heffect _ _ _ (keeps_modMe (keeps_vecEnter hu ..) ..)

theorem keeps_vecOp {s : State} (hs : I.holds s) (i : Instr) (u : VUnit) (m : Mv) (cls : Option ImmClass) (accept : Fmt → Bool)
  (bad : VIn → Option Nat) (lat : Fmt → Nat) (f : VIn → VOut) :
    I.out (vecOp i u m cls accept bad lat f s) :=
  keeps_vecTrigger hs (fun _ _ _ hu => keeps_complete (keeps_modMe hu ..) ..) ..

theorem keeps_vlut {s : State} (hs : I.holds s) (i : Instr) (u : VUnit) (m : Mv) : I.out (vlut i u m s) :=
  keeps_vecTrigger hs (fun _ _ _ hu => keeps_ite (keeps_modMe hu ..) (keeps_complete hu ..)) ..

theorem keeps_execVadd {s : State} (hs : I.holds s) (u : VUnit) (m : Mv) : I.out (execVadd u m s) := keeps_vecOp hs ..

theorem keeps_execVsub {s : State} (hs : I.holds s) (u : VUnit) (m : Mv) : I.out (execVsub u m s) := keeps_vecOp hs ..

theorem keeps_execVmul {s : State} (hs : I.holds s) (u : VUnit) (m : Mv) : I.out (execVmul u m s) := keeps_vecOp hs ..

theorem keeps_execVfma {s : State} (hs : I.holds s) (u : VUnit) (m : Mv) : I.out (execVfma u m s) := keeps_vecOp hs ..

theorem keeps_execVmin {s : State} (hs : I.holds s) (u : VUnit) (m : Mv) : I.out (execVmin u m s) := keeps_vecOp hs ..

theorem keeps_execVmax {s : State} (hs : I.holds s) (u : VUnit) (m : Mv) : I.out (execVmax u m s) := keeps_vecOp hs ..

theorem keeps_execVabs {s : State} (hs : I.holds s) (u : VUnit) (m : Mv) : I.out (execVabs u m s) := keeps_vecOp hs ..

theorem keeps_execVneg {s : State} (hs : I.holds s) (u : VUnit) (m : Mv) : I.out (execVneg u m s) := keeps_vecOp hs ..

theorem keeps_execVand {s : State} (hs : I.holds s) (u : VUnit) (m : Mv) : I.out (execVand u m s) := keeps_vecOp hs ..

theorem keeps_execVor {s : State} (hs : I.holds s) (u : VUnit) (m : Mv) : I.out (execVor u m s) := keeps_vecOp hs ..

theorem keeps_execVxor {s : State} (hs : I.holds s) (u : VUnit) (m : Mv) : I.out (execVxor u m s) := keeps_vecOp hs ..

theorem keeps_execVshl {s : State} (hs : I.holds s) (u : VUnit) (m : Mv) : I.out (execVshl u m s) := keeps_vecOp hs ..

theorem keeps_execVshr {s : State} (hs : I.holds s) (u : VUnit) (m : Mv) : I.out (execVshr u m s) := keeps_vecOp hs ..

theorem keeps_execVsra {s : State} (hs : I.holds s) (u : VUnit) (m : Mv) : I.out (execVsra u m s) := keeps_vecOp hs ..

theorem keeps_execVclamp {s : State} (hs : I.holds s) (u : VUnit) (m : Mv) : I.out (execVclamp u m s) := keeps_vecOp hs ..

theorem keeps_execVsel {s : State} (hs : I.holds s) (u : VUnit) (m : Mv) : I.out (execVsel u m s) := keeps_vecOp hs ..

theorem keeps_execVcmp {s : State} (hs : I.holds s) (u : VUnit) (m : Mv) : I.out (execVcmp u m s) := keeps_vecOp hs ..

theorem keeps_execVreda {s : State} (hs : I.holds s) (u : VUnit) (m : Mv) : I.out (execVreda u m s) := keeps_vecOp hs ..

theorem keeps_execVredm {s : State} (hs : I.holds s) (u : VUnit) (m : Mv) : I.out (execVredm u m s) := keeps_vecOp hs ..

theorem keeps_execVperm {s : State} (hs : I.holds s) (u : VUnit) (m : Mv) : I.out (execVperm u m s) := keeps_vecOp hs ..

theorem keeps_execVcvt {s : State} (hs : I.holds s) (u : VUnit) (m : Mv) : I.out (execVcvt u m s) := keeps_vecOp hs ..

theorem keeps_execVqnt {s : State} (hs : I.holds s) (u : VUnit) (m : Mv) : I.out (execVqnt u m s) := keeps_vecOp hs ..

theorem keeps_execVdot8 {s : State} (hs : I.holds s) (u : VUnit) (m : Mv) : I.out (execVdot8 u m s) := keeps_vecOp hs ..

theorem keeps_execVexp2 {s : State} (hs : I.holds s) (u : VUnit) (m : Mv) : I.out (execVexp2 u m s) := keeps_vecOp hs ..

theorem keeps_execVlog2 {s : State} (hs : I.holds s) (u : VUnit) (m : Mv) : I.out (execVlog2 u m s) := keeps_vecOp hs ..

theorem keeps_execVrcp {s : State} (hs : I.holds s) (u : VUnit) (m : Mv) : I.out (execVrcp u m s) := keeps_vecOp hs ..

theorem keeps_execVrsq {s : State} (hs : I.holds s) (u : VUnit) (m : Mv) : I.out (execVrsq u m s) := keeps_vecOp hs ..

theorem keeps_execVsig {s : State} (hs : I.holds s) (u : VUnit) (m : Mv) : I.out (execVsig u m s) := keeps_vecOp hs ..

theorem keeps_execVlutEval {s : State} (hs : I.holds s) (u : VUnit) (m : Mv) : I.out (execVlutEval u m s) := keeps_vlut hs ..

theorem keeps_execVlutLoad {s : State} (hs : I.holds s) (u : VUnit) (m : Mv) : I.out (execVlutLoad u m s) := keeps_vlut hs ..

theorem keeps_execViota {s : State} (hs : I.holds s) (u : VUnit) (m : Mv) : I.out (execViota u m s) := keeps_vecOp hs ..

theorem keeps_execVkand {s : State} (hs : I.holds s) (u : VUnit) (m : Mv) : I.out (execVkand u m s) := keeps_vecOp hs ..

theorem keeps_execVkor {s : State} (hs : I.holds s) (u : VUnit) (m : Mv) : I.out (execVkor u m s) := keeps_vecOp hs ..

theorem keeps_execVknot {s : State} (hs : I.holds s) (u : VUnit) (m : Mv) : I.out (execVknot u m s) := keeps_vecOp hs ..

theorem keeps_execVkred {s : State} (hs : I.holds s) (u : VUnit) (m : Mv) : I.out (execVkred u m s) :=
  keeps_vecTrigger hs (fun _ _ _ hu => keeps_schedulePred hu ..) ..

/-! The known path (R146, R147). -/

theorem keeps_scanCore {s : State} (hs : I.holds s) (k : Nat) : I.holds (scanCore s k) := by
  unfold scanCore
  dsimp only
  split
  · exact hs
  · split
    · exact keeps_setCore hs ..
    · exact keeps_foldl (fun _ _ hu => keeps_postCore hu ..) _ (keeps_setCore hs ..)

end Sys2Proof.Machine
end

section
/-! PROOF. What writes cores and gangs only through their setters keeps such a property: the hub, holds, synchronisation and teardown. -/

namespace Sys2Proof.Machine

variable {I : TableInv}

/-! The hub, host memory and event logs. -/

theorem keeps_setFab {s : State} (hs : I.holds s) (f : Fabric) : I.holds (setFab s f) := keeps_beside hs ..

theorem keeps_setDram {s : State} (hs : I.holds s) (d : Dram) : I.holds (setDram s d) := keeps_beside hs ..

theorem keeps_setEnv {s : State} (hs : I.holds s) (e : Cluster) : I.holds (setEnv s e) := keeps_beside hs ..

theorem keeps_setAuth {s : State} (hs : I.holds s) (a : Authority) : I.holds (setAuth s a) := keeps_beside hs ..

theorem keeps_setHouse {s : State} (hs : I.holds s) (h : House) : I.holds (setHouse s h) := keeps_beside hs ..

theorem keeps_setPart {s : State} (hs : I.holds s) (p : Nat) (x : Partition) : I.holds (setPart s p x) := keeps_setAuth hs ..

theorem keeps_modPart {s : State} (hs : I.holds s) (p : Nat) (f : Partition → Partition) : I.holds (modPart s p f) :=
  keeps_setPart hs ..

theorem keeps_setCtx {s : State} (hs : I.holds s) (x : Nat) (c : Ctx) : I.holds (setCtx s x c) := keeps_setAuth hs ..

theorem keeps_modCtx {s : State} (hs : I.holds s) (x : Nat) (f : Ctx → Ctx) : I.holds (modCtx s x f) := keeps_setCtx hs ..

theorem keeps_putDev {s : State} (hs : I.holds s) (a : Nat) (bs : List Byte) : I.holds (putDev s a bs) := keeps_setDram hs ..

theorem keeps_putLin {s : State} (hs : I.holds s) (x lin : Nat) (bs : List Byte) : I.holds (putLin s x lin bs) := by
  unfold putLin
  split
  · exact keeps_putDev hs ..
  · exact hs

theorem keeps_putHost {s : State} (hs : I.holds s) (p a : Nat) (bs : List Byte) : I.holds (putHost s p a bs) :=
  keeps_setAuth hs ..

theorem keeps_sendVector {s : State} (hs : I.holds s) (p : Nat) : I.holds (sendVector s p) :=
  keeps_ite (keeps_modPart hs ..) (keeps_setAuth hs ..)

theorem keeps_postRecord {s : State} (hs : I.holds s) (p : Nat) (r : EventRec) : I.holds (postRecord s p r) := by
  unfold postRecord
  dsimp only
  split
  · exact hs
  · exact keeps_ite (keeps_setPart hs ..) (keeps_sendVector (keeps_modPart (keeps_putHost hs ..) ..) ..)

theorem keeps_postPlatform {s : State} (hs : I.holds s) (ps : List Nat) (kind : Nat) (data : List Nat) (fault : (List Byte)) :
    I.holds (postPlatform s ps kind data fault) :=
  keeps_foldl (fun _ _ hu => keeps_postRecord hu ..) _ (keeps_postRecord hs ..)

theorem keeps_postEvent {s : State} (hs : I.holds s) (p : Nat) (cls : EventClass) (kind : Nat) (data : List Nat) (fault : List
  Byte) :
    I.holds (postEvent s p cls kind data fault) := by
  unfold postEvent
  dsimp only
  split
  · split
    · exact keeps_postRecord (keeps_postRecord hs _ _) _ _
    · exact keeps_postRecord hs _ _
  · exact keeps_postRecord hs _ _
  · exact keeps_postRecord hs _ _
  · exact keeps_postPlatform hs _ _ _ _

theorem keeps_countLife {s : State} (hs : I.holds s) (set pos n : Nat) : I.holds (countLife s set pos n) := keeps_setHouse hs ..

/-! Leek lanes (R243). -/

theorem keeps_wakeLane {s : State} (hs : I.holds s) (n : Nat) : I.holds (wakeLane s n) := keeps_ite hs (keeps_postPod hs ..)

theorem keeps_leekQueue {s : State} (hs : I.holds s) (n : Nat) (i : LeekItem) : I.holds (leekQueue s n i) :=
  keeps_wakeLane (keeps_setFab hs ..) ..

theorem keeps_leekForward {s : State} (hs : I.holds s) (i : LeekItem) : I.holds (leekForward s i) := by
  unfold leekForward
  dsimp only
  split
  · exact keeps_leekQueue hs ..
  · exact keeps_when (keeps_setFab hs ..) fun h => keeps_post h ..

theorem keeps_leekSend {s : State} (hs : I.holds s) (g dst : Nat) (msg : Instr) : I.holds (leekSend s g dst msg) :=
  keeps_ite (keeps_postPod hs ..) (keeps_leekForward hs ..)

theorem keeps_leekMembers {s : State} (hs : I.holds s) (g : Nat) (msg : Instr) : I.holds (leekMembers s g msg) :=
  keeps_foldl (fun _ _ hu => keeps_leekSend hu ..) _ hs

theorem keeps_reroute {s : State} (hs : I.holds s) (n : Nat) : I.holds (reroute s n) :=
  keeps_foldl (fun _ _ hu => keeps_leekForward hu ..) _ (keeps_setFab hs ..)

theorem keeps_execLeekLaneFree {s : State} (hs : I.holds s) (link : Fin 16) : I.out (execLeekLaneFree link s) :=
  out_ite (out_next hs) (out_ite (out_next (keeps_reroute hs ..)) (out_next (keeps_unless (keeps_setFab hs ..) fun h =>
    keeps_postPod h ..)))

theorem keeps_execAlignSend {s : State} (hs : I.holds s) : I.out (execAlignSend s) :=
  out_next (keeps_foldl (fun _ _ hu => keeps_leekQueue hu ..) _ hs)

theorem keeps_execUnknownLeekFrame {s : State} (hs : I.holds s) (_type : BitVec 4) : I.out (execUnknownLeekFrame _type s) :=
  out_next (keeps_setFab hs ..)

/-! Replay (R295). -/

theorem keeps_storeImage {s : State} (hs : I.holds s) (x k t : Nat) (c : Core) (post : Bool) :
    I.holds (storeImage s x k t c post) := by
  unfold storeImage
  split
  · exact keeps_putDev hs ..
  · exact hs

/-! Holds (R21 to R30). -/

theorem keeps_settleHolds {s : State} (hs : I.holds s) (g : Nat) : I.holds (settleHolds s g) :=
  keeps_ite (keeps_ite (keeps_postPod (keeps_setGang hs ..) ..) (keeps_setGang hs ..)) hs

theorem keeps_announceHold {s : State} (hs : I.holds s) (g th : Nat) (cause : HoldCause) (core : Nat) :
    I.holds (announceHold s g th cause core) :=
  keeps_leekMembers (keeps_countLife (keeps_setGang hs ..) ..) ..

theorem keeps_countFrozen {s : State} (hs : I.holds s) (g number : Nat) : I.holds (countFrozen s g number) :=
  keeps_ite (keeps_foldl (fun _ _ hu => keeps_countLife hu ..) _ hs) hs

theorem keeps_countEnded {s : State} (hs : I.holds s) (g : Nat) : I.holds (countEnded s g) :=
  keeps_foldl (fun _ _ hu => keeps_countFrozen hu ..) _ hs

theorem keeps_markReleased {s : State} (hs : I.holds s) (g number t : Nat) : I.holds (markReleased s g number t) :=
  keeps_settleHolds (keeps_modGang (keeps_countFrozen hs ..) ..) ..

theorem keeps_releaseHolds {s : State} (hs : I.holds s) (g : Nat) (cause : HoldCause) (core : Nat) :
    I.holds (releaseHolds s g cause core) :=
  keeps_foldl (fun _ _ hu => keeps_leekMembers (keeps_markReleased hu ..) ..) _ hs

theorem keeps_startCore {s : State} (hs : I.holds s) (k : Nat) : I.holds (startCore s k) :=
  keeps_ite (keeps_postDeed (keeps_postDeed (keeps_ite hs (keeps_postDeed hs ..)) ..) ..) hs

theorem keeps_startCycle {s : State} (hs : I.holds s) (g : Nat) : I.holds (startCycle s g) :=
  keeps_foldl (fun _ _ hu => keeps_startCore hu ..) _ hs

theorem keeps_tickGang {s : State} (hs : I.holds s) (g : Nat) : I.holds (tickGang s g) :=
  keeps_when (keeps_ite (keeps_foldl (fun _ _ hu => keeps_ite (keeps_post hu ..) hu) _ hs) hs) fun h => keeps_foldl (fun _ _ hu
    => keeps_post hu ..) _ h

theorem keeps_freezeGang {s : State} (hs : I.holds s) (g : Nat) : I.holds (freezeGang s g) :=
  keeps_settleHolds (keeps_post (keeps_takeFresh (keeps_leekMembers (keeps_setGang hs ..) ..) ..) ..) ..

theorem keeps_execHoldFreeze {s : State} (hs : I.holds s) (gang : Nat) : I.out (execHoldFreeze gang s) :=
  out_next (keeps_ite (keeps_freezeGang hs ..) hs)

theorem keeps_resumeStopped {s : State} (hs : I.holds s) (k : Nat) : I.holds (resumeStopped s k) := by
  unfold resumeStopped
  dsimp only
  split
  · exact keeps_ite (keeps_setCore (keeps_beside hs ..) ..) hs
  · exact hs

theorem keeps_reannounce {s : State} (hs : I.holds s) (g : Nat) (x : Gang) : I.holds (reannounce s g x) :=
  keeps_foldl (fun _ _ hu => keeps_announceHold hu ..) _ hs

theorem keeps_markInexact {s : State} (hs : I.holds s) (g : Nat) (x : Gang) : I.holds (markInexact s g x) :=
  keeps_ite (keeps_foldl (fun _ _ hu => keeps_modCore hu ..) _ (keeps_modGang hs ..)) hs

theorem keeps_putFsa {s : State} (hs : I.holds s) (g off : Nat) (bs : List Byte) : I.holds (putFsa s g off bs) := by
  unfold putFsa
  dsimp only
  refine keeps_foldl (fun u a hu => ?_) _ hs
  split
  · exact keeps_putDev hu ..
  · exact hu

theorem keeps_writeFsaHeader {s : State} (hs : I.holds s) (g : Nat) : I.holds (writeFsaHeader s g) := keeps_putFsa hs ..

theorem keeps_clearFsaHeader {s : State} (hs : I.holds s) (g : Nat) : I.holds (clearFsaHeader s g) := keeps_putFsa hs ..

theorem keeps_addFsa {s : State} (hs : I.holds s) (fr : Frame) : I.holds (addFsa s fr) :=
  keeps_writeFsaHeader (keeps_setGang (keeps_putFsa hs ..) ..) ..

theorem keeps_reinject {s : State} (hs : I.holds s) (g : Nat) : I.holds (reinject s g) :=
  keeps_ite hs (keeps_foldl (fun _ _ hu => keeps_postGang hu ..) _ (keeps_writeFsaHeader (keeps_setGang hs ..) ..))

theorem keeps_execHoldResume {s : State} (hs : I.holds s) (gang : Nat) : I.out (execHoldResume gang s) :=
  out_ite (out_next (keeps_tickGang (keeps_startCycle (keeps_foldl (fun _ _ hu => keeps_resumeStopped hu ..) _ (keeps_reinject
    (keeps_markInexact (keeps_reannounce (keeps_setGang hs ..) ..) ..) ..)) ..) ..)) (out_next hs)

/-! RESYNC, barriers and snapshots. -/

theorem keeps_postGangDeed {s : State} (hs : I.holds s) (g due phase : Nat) (d : Deed) :
    I.holds (postGangDeed s g due phase d) :=
  keeps_post hs ..

theorem keeps_resyncComplete {s : State} (hs : I.holds s) (g l : Nat) : I.holds (resyncComplete s g l) :=
  keeps_postGang (keeps_foldl (fun _ _ hu => keeps_leekSend hu ..) _ (keeps_setGang (keeps_foldl (fun _ _ hu => keeps_modCore hu
    ..) _ hs) ..)) ..

theorem keeps_resyncCheck {s : State} (hs : I.holds s) (g : Nat) : I.holds (resyncCheck s g) := by
  unfold resyncCheck
  dsimp only
  split
  · exact keeps_ite (keeps_ite hs (keeps_leekSend (keeps_setGang hs ..) ..)) (keeps_ite (keeps_leekSend (keeps_setGang hs ..)
      ..) hs)
  · exact keeps_ite (keeps_resyncComplete hs ..) hs

theorem keeps_resyncArrive {s : State} (hs : I.holds s) (k t : Nat) : I.holds (resyncArrive s k t) :=
  keeps_postGangDeed (keeps_modGang hs ..) ..

theorem keeps_resyncExit {s : State} (hs : I.holds s) (k t : Nat) : I.holds (resyncExit s k t) :=
  keeps_postGangDeed (keeps_modGang hs ..) ..

theorem keeps_tellOver {s : State} (hs : I.holds s) (g : Nat) : I.holds (tellOver s g) := by
  unfold tellOver
  dsimp only
  split
  · exact keeps_ite (keeps_leekSend (keeps_setGang hs ..) ..) hs
  · exact hs

theorem keeps_tellComplete {s : State} (hs : I.holds s) (g : Nat) : I.holds (tellComplete s g) :=
  keeps_foldl (fun _ _ hu => keeps_leekSend hu ..) _ hs

theorem keeps_execResyncFrame {s : State} (hs : I.holds s) (gang chip count latest : Nat) :
    I.out (execResyncFrame gang chip count latest s) :=
  out_ite (out_next (keeps_resyncCheck (keeps_modGang hs ..) ..)) (out_ite (out_next (keeps_resyncComplete hs ..)) (out_next
    (keeps_tellComplete (keeps_modGang hs ..) ..)))

theorem keeps_execResyncResume {s : State} (hs : I.holds s) (gang : Nat) : I.out (execResyncResume gang s) :=
  out_next (keeps_postGangDeed (keeps_foldl (fun _ _ hu => keeps_modCore hu ..) _ hs) ..)

theorem keeps_gangIntervals {s : State} (hs : I.holds s) (gang : Nat) (dies : List Nat) (pkg gng : Bool) :
    I.holds (gangIntervals s gang dies pkg gng) :=
  keeps_modGang hs ..

theorem keeps_setBarrier {s : State} (hs : I.holds s) (o : Nat) (b : Barrier) : I.holds (setBarrier s o b) := keeps_beside hs ..

theorem keeps_mapWaits {s : State} (hs : I.holds s) (g h : Nat) (f : BarWait → BarWait) : I.holds (mapWaits s g h f) :=
  keeps_foldl (fun _ _ hu => keeps_modCore hu ..) _ hs

theorem keeps_tellTree {s : State} (hs : I.holds s) (g h count latest : Nat) : I.holds (tellTree s g h count latest) :=
  keeps_foldl (fun _ _ hu => keeps_leekSend hu ..) _ hs

theorem keeps_barrierCompleted {s : State} (hs : I.holds s) (g o l gen expected : Nat) (scope : Bool) (ps : List Nat) :
    I.holds (barrierCompleted s g o l gen expected scope ps) :=
  keeps_when (keeps_postGang (keeps_mapWaits (keeps_setBarrier hs ..) ..) ..) fun h => keeps_tellTree h ..

theorem keeps_barrierUnwind {s : State} (hs : I.holds s) (g o x : Nat) : I.holds (barrierUnwind s g o x) :=
  keeps_mapWaits (keeps_beside (keeps_setBarrier hs ..) ..) ..

theorem keeps_beginWait {s : State} (hs : I.holds s) (k h gen : Nat) (first : Bool) : I.holds (beginWait s k h gen first) :=
  keeps_modCore hs ..

theorem keeps_barrierReport {s : State} (hs : I.holds s) (g h x : Nat) (after : BarState) (em : BarEvent × BarState) :
    I.holds (barrierReport s g h x after em) := by
  unfold barrierReport
  dsimp only
  split
  · exact keeps_ite (keeps_foldl (fun _ _ hu => keeps_modCore hu ..) _ hs) hs
  · exact hs
  · exact hs
  · split
    · exact keeps_ite (keeps_modCore hs ..) hs
    · split
      · exact keeps_postDeed (keeps_ite (keeps_beginWait hs ..) hs) ..
      · exact keeps_ite (keeps_beginWait hs ..) hs

theorem keeps_barrierStarves {s : State} (hs : I.holds s) (g h x : Nat) (b : BarState) : I.holds (barrierStarves s g h x b) :=
  keeps_when (keeps_foldl (fun _ _ hu => keeps_postDeed hu ..) _ hs) fun h => keeps_tellTree h ..

theorem keeps_barrierCycle {s : State} (hs : I.holds s) (g o x : Nat) : I.holds (barrierCycle s g o x) :=
  keeps_foldl (fun _ _ hu => keeps_barrierCompleted hu ..) _ (keeps_when (keeps_foldl (fun _ _ hu => keeps_barrierReport hu ..)
    _ (keeps_setBarrier hs ..)) fun h => keeps_barrierStarves h ..)

theorem keeps_barrierRun {s : State} (hs : I.holds s) (g o x : Nat) : I.holds (barrierRun s g o x) :=
  keeps_foldl (fun _ _ hu => keeps_barrierCycle hu ..) _ (keeps_barrierUnwind hs ..)

theorem keeps_barrierForward {s : State} (hs : I.holds s) (g o : Nat) : I.holds (barrierForward s g o) := by
  unfold barrierForward
  split
  · exact hs
  · exact keeps_ite (keeps_leekSend (keeps_setBarrier hs ..) ..) hs

theorem keeps_noteBarrier {s : State} (hs : I.holds s) (g o : Nat) (e : BarEvent) : I.holds (noteBarrier s g o e) :=
  keeps_ite (keeps_barrierForward (keeps_barrierRun (keeps_setBarrier hs ..) ..) ..) (keeps_unless (keeps_setBarrier hs ..) fun
    h => keeps_postGangDeed h ..)

theorem keeps_barrierEvents {s : State} (hs : I.holds s) (g o : Nat) : I.holds (barrierEvents s g o) :=
  keeps_barrierForward (keeps_setBarrier (keeps_barrierRun hs ..) ..) ..

theorem keeps_farBarrier {s : State} (hs : I.holds s) (g h x chip core kind a b : Nat) :
    I.holds (farBarrier s g h x chip core kind a b) :=
  keeps_unless (keeps_modGang hs ..) fun h => keeps_noteBarrier h ..

theorem keeps_childArrivals {s : State} (hs : I.holds s) (g o chip count latest : Nat) :
    I.holds (childArrivals s g o chip count latest) :=
  keeps_foldl (fun _ _ hu => keeps_noteBarrier hu ..) _ hs

theorem keeps_execBarrier {s : State} (hs : I.holds s) (gang handle chip count latest : Nat) :
    I.out (execBarrier gang handle chip count latest s) :=
  out_ite (out_ite (out_next hs) (out_next (keeps_barrierForward (keeps_when (keeps_setBarrier hs ..) fun h =>
    keeps_childArrivals h ..) ..))) (out_ite (out_next (keeps_tellTree hs ..)) (out_next (keeps_noteBarrier (keeps_tellTree hs
    ..) ..)))

theorem keeps_barrierExits {s : State} (hs : I.holds s) (k t : Nat) : I.holds (barrierExits s k t) :=
  keeps_foldl (fun _ _ hu => keeps_noteBarrier hu ..) _ hs

theorem keeps_barrierFault {s : State} (hs : I.holds s) (k h sub : Nat) (record : Bool) :
    I.holds (barrierFault s k h sub record) :=
  keeps_ite hs (keeps_modCore hs ..)

theorem keeps_execBarrierResume {s : State} (hs : I.holds s) (gang handle gen : Nat) :
    I.out (execBarrierResume gang handle gen s) := by
  unfold execBarrierResume
  dsimp only
  split
  · exact out_next hs
  · exact out_next (keeps_postGangDeed (keeps_foldl (fun _ _ hu => keeps_postDeed hu ..) _ (keeps_foldl (fun _ _ hu =>
      keeps_modCore hu ..) _ (keeps_setBarrier hs ..))) ..)

theorem keeps_execBarinit {s : State} (hs : I.holds s) (m : Mv) : I.out (execBarinit m s) :=
  keeps_trigger hs (fun _ _ hu => keeps_ite (keeps_modMe hu ..) (keeps_noteBarrier hu ..)) ..

theorem keeps_execBarrive {s : State} (hs : I.holds s) (m : Mv) : I.out (execBarrive m s) :=
  keeps_trigger hs (fun _ _ hu => keeps_noteBarrier hu ..) ..

theorem keeps_execBarpoll {s : State} (hs : I.holds s) (m : Mv) : I.out (execBarpoll m s) :=
  keeps_trigger hs (fun _ _ hu => keeps_completeWord (keeps_noteBarrier hu ..) ..) ..

/-! Teardown (R268) and scrubs (R299). -/

theorem keeps_putMb {s : State} (hs : I.holds s) (p off : Nat) (bs : List Byte) : I.holds (putMb s p off bs) :=
  keeps_setEnv hs ..

theorem keeps_setTurn {s : State} (hs : I.holds s) (p : Nat) (b : Bool) : I.holds (setTurn s p b) := keeps_setEnv hs ..

theorem keeps_copyStamps {s : State} (hs : I.holds s) (p : Nat) : I.holds (copyStamps s p) := keeps_putMb (keeps_putMb hs ..) ..

theorem keeps_setHart {s : State} (hs : I.holds s) (h : Nat) (x : Hart) : I.holds (setHart s h x) := keeps_setEnv hs ..

theorem keeps_stopEpisode {s : State} (hs : I.holds s) (p : Nat) : I.holds (stopEpisode s p) :=
  keeps_postPod (keeps_takeFresh (keeps_foldl (fun _ _ hu => keeps_setEnv (keeps_setHart hu ..) ..) _ hs) ..) ..

theorem keeps_mbEnd {s : State} (hs : I.holds s) (p status cause : Nat) : I.holds (mbEnd s p status cause) :=
  keeps_stopEpisode (keeps_setTurn (keeps_putMb (keeps_putMb (keeps_putMb (keeps_copyStamps hs ..) ..) ..) ..) ..) ..

theorem keeps_mbTeardown {s : State} (hs : I.holds s) (x : Nat) : I.holds (mbTeardown s x) :=
  keeps_foldl (fun _ _ hu => keeps_foldl (fun _ _ hu => keeps_setTurn (keeps_putMb (keeps_putMb (keeps_ite hu (keeps_mbEnd hu
    ..)) ..) ..) ..) _ hu) _ hs

theorem keeps_setScrub {s : State} (hs : I.holds s) (d : Nat) (x : Scrub) : I.holds (setScrub s d x) := keeps_beside hs ..

theorem keeps_postScrub {s : State} (hs : I.holds s) (d : Nat) (first : Bool) : I.holds (postScrub s d first) :=
  keeps_postPod hs ..

theorem keeps_scrubContext {s : State} (hs : I.holds s) (x : Nat) : I.holds (scrubContext s x) :=
  keeps_ite (keeps_foldl (fun _ _ hu => keeps_ite hu (keeps_ite (keeps_postScrub (keeps_setScrub hu ..) ..) (keeps_setScrub hu
    ..))) _ (keeps_setHouse (keeps_setAuth hs ..) ..)) hs

theorem keeps_scrubOne {s : State} (hs : I.holds s) (w : Nat × Nat × Nat) (i : Nat) : I.holds (scrubOne s w i) :=
  keeps_ite (keeps_modCore hs ..) (keeps_setDram (keeps_putDev hs ..) ..)

theorem keeps_scrubNext {s : State} (hs : I.holds s) (d : Nat) (e : Scrub) : I.holds (scrubNext s d e) := by
  have hnext : I.holds (match e.queued with
      | q :: qs => postScrub (setScrub s d (startScrub q.1 q.2 qs)) d
      | [] => setScrub s d { e with done := true }) := by
    split
    · exact keeps_postScrub (keeps_setScrub hs _ _) _ _
    · exact keeps_setScrub hs _ _
  unfold scrubNext
  exact keeps_ite hnext (keeps_setHouse hnext _)

theorem keeps_execScrubUnit {s : State} (hs : I.holds s) (die : Fin 8) : I.out (execScrubUnit die s) := by
  unfold execScrubUnit
  dsimp only
  split
  · exact out_next hs
  · split
    · exact out_next (keeps_scrubNext hs _ _)
    · have hone := keeps_scrubOne hs
      refine out_next (keeps_ite (keeps_scrubNext (hone ..) _ _) (keeps_ite ?_ ?_))
      · exact keeps_postScrub (keeps_setScrub (hone ..) _ _) _ _
      · exact keeps_postScrub (keeps_setScrub (hone ..) _ _) _ _

theorem keeps_countError {s : State} (hs : I.holds s) (u : FaultUnit) : I.holds (countError s u) :=
  keeps_when (keeps_when (keeps_setHouse (keeps_countLife hs ..) ..) fun h => keeps_postPod h ..) fun h => keeps_setHouse h ..

theorem keeps_execErrorCounterDecay {s : State} (hs : I.holds s) (unit : FaultUnit) : I.out (execErrorCounterDecay unit s) :=
  out_ite (out_next hs) (out_next (keeps_unless (keeps_setHouse hs ..) fun h => keeps_postPod h ..))

theorem keeps_sramError {s : State} (hs : I.holds s) (k tile : Nat) : I.holds (sramError s k tile) :=
  keeps_countError (keeps_modCore (keeps_stampTile hs ..) ..) ..

theorem keeps_bundleError {s : State} (hs : I.holds s) (k n : Nat) : I.holds (bundleError s k n) :=
  keeps_countError (keeps_modCore hs ..) ..

theorem keeps_retireUnit {s : State} (hs : I.holds s) (u : FaultUnit) : I.holds (retireUnit s u) := by
  unfold retireUnit
  refine keeps_postPlatform ?_ ..
  refine keeps_countLife ?_ ..
  split
  · exact keeps_setFab (keeps_setHouse hs ..) ..
  · exact keeps_setHouse hs ..

theorem keeps_retireLasting {s : State} (hs : I.holds s) (x : Nat) (ks : List Nat) : I.holds (retireLasting s x ks) :=
  keeps_foldl (fun _ _ hu => keeps_retireUnit hu ..) _ hs

theorem keeps_putVia {s : State} (hs : I.holds s) (b : Table Word) (lin : Nat) (bs : List Byte) : I.holds (putVia s b lin bs) :=
  keeps_ite (keeps_putDev hs ..) hs

theorem keeps_fenceVia {s : State} (hs : I.holds s) (b : Table Word) (g status : Nat) : I.holds (fenceVia s b g status) :=
  keeps_ite (keeps_putVia hs ..) hs

theorem keeps_nextVia {s : State} (hs : I.holds s) (b : Table Word) (g n : Nat) : I.holds (nextVia s b g n) :=
  keeps_ite (keeps_putVia hs ..) hs

theorem keeps_writeFence {s : State} (hs : I.holds s) (g status : Nat) : I.holds (writeFence s g status) := keeps_fenceVia hs ..

theorem keeps_writeNext {s : State} (hs : I.holds s) (g n : Nat) : I.holds (writeNext s g n) := keeps_nextVia hs ..

theorem keeps_setHalt {s : State} (hs : I.holds s) (g : Nat) : I.holds (setHalt s g) :=
  keeps_ite hs (keeps_postEvent (keeps_putLin hs ..) ..)

theorem keeps_drainRecords {s : State} (hs : I.holds s) (k : Nat) : I.holds (drainRecords s k) :=
  keeps_foldl (fun _ _ hu => keeps_postEvent hu ..) _ (keeps_setCore hs ..)

theorem keeps_postMortem {s : State} (hs : I.holds s) (g : Nat) : I.holds (postMortem s g) :=
  keeps_ite (keeps_foldl (fun _ _ hu => keeps_beside (keeps_storeImage hu ..) ..) _ hs) hs

theorem keeps_abortVote {s : State} (hs : I.holds s) (g : Nat) : I.holds (abortVote s g) :=
  keeps_ite hs (keeps_ite (keeps_leekMembers hs ..) (keeps_leekSend hs ..))

theorem keeps_endClaims {s : State} (hs : I.holds s) (x : Nat) (ks : List Nat) : I.holds (endClaims s x ks) :=
  keeps_foldl (fun _ _ hu => keeps_modCore hu ..) _ (keeps_foldl (fun _ _ hu => keeps_modCore hu ..) _ hs)

theorem keeps_leaveGroups {s : State} (hs : I.holds s) (ks : List Nat) : I.holds (leaveGroups s ks) :=
  keeps_foldl (fun _ _ hu => keeps_postPod hu ..) _ hs

theorem keeps_endRun {s : State} (hs : I.holds s) (g : Nat) : I.holds (endRun s g) :=
  keeps_setGang (keeps_beside (keeps_setFab (keeps_endClaims (keeps_foldl (fun _ _ hu => keeps_setCore hu ..) _
    (keeps_retireLasting (keeps_scrubContext (keeps_beside (keeps_leaveGroups (keeps_beside (keeps_foldl (fun _ _ hu =>
    keeps_drainRecords hu ..) _ (keeps_countEnded hs ..)) ..) ..) ..) ..) ..)) ..) ..) ..) ..

theorem keeps_teardown {s : State} (hs : I.holds s) (g : Nat) (cls : EventClass) : I.holds (teardown s g cls) :=
  keeps_ite hs (keeps_beside (keeps_modGang (keeps_endRun (keeps_abortVote (keeps_mbTeardown (keeps_postMortem (keeps_when
    (keeps_writeFence hs ..) fun h => keeps_setHalt h ..) ..) ..) ..) ..) ..) ..)

theorem keeps_abortGang {s : State} (hs : I.holds s) (g : Nat) (cls : EventClass) : I.holds (abortGang s g cls) :=
  keeps_ite (keeps_teardown (keeps_leekMembers hs ..) ..) hs

theorem keeps_execAbortgang {s : State} (hs : I.holds s) (gang : Nat) (cause : EventClass) :
    I.out (execAbortgang gang cause s) :=
  out_next (keeps_teardown hs ..)

theorem keeps_desync {s : State} (hs : I.holds s) (g : Nat) : I.holds (desync s g) := keeps_abortGang (keeps_postEvent hs ..) ..

theorem keeps_lostUrgent {s : State} (hs : I.holds s) (g : Nat) : I.holds (lostUrgent s g) := keeps_ite (keeps_desync hs ..) hs

theorem keeps_execHold {s : State} (hs : I.holds s) (gang number th : Nat) (cause : HoldCause) (origin : Nat) :
    I.out (execHold gang number th cause origin s) :=
  out_ite (out_next (keeps_desync hs ..)) (out_ite (out_next (keeps_postPod (keeps_setGang hs ..) ..)) (out_next
    (keeps_settleHolds (keeps_setGang hs ..) ..)))

theorem keeps_execRelease {s : State} (hs : I.holds s) (gang number origin : Nat) : I.out (execRelease gang number origin s) :=
  out_next (keeps_markReleased hs ..)

theorem keeps_execMinderFaultRecord {s : State} (hs : I.holds s) (core : Nat) : I.out (execMinderFaultRecord core s) :=
  out_ite (out_next hs) (out_next (keeps_abortGang (keeps_postEvent (keeps_modGang (keeps_ite (keeps_countError hs ..) hs) ..)
    ..) ..))

end Sys2Proof.Machine
end

section
/-! PROOF. What writes cores and gangs only through their setters keeps such a property: control, the system unit, engines, DRAM and transfers. -/

namespace Sys2Proof.Machine

variable {I : TableInv}

/-! Control (R148 to R162). -/

theorem keeps_execMove {s : State} (hs : I.holds s) (m : Mv) (d : Dest) : I.out (execMove m d s) := by
  unfold execMove
  split
  · exact out_next (keeps_launch hs ..)
  · exact out_next (keeps_modMe hs ..)

theorem keeps_execNop {s : State} (hs : I.holds s) (_rest : BitVec 20) : I.out (execNop _rest s) := out_next hs

theorem keeps_execBrp {s : State} (hs : I.holds s) (m : Mv) : I.out (execBrp m s) :=
  keeps_trigger hs (fun _ _ hu => keeps_postDeed (keeps_postDeed (keeps_modMe hu ..) ..) ..) ..

theorem keeps_prefetchRead {s : State} (hs : I.holds s) (k t : Nat) (half : Bool) : I.holds (prefetchRead s k t half) :=
  keeps_modCore hs ..

theorem keeps_postLinkReads {s : State} (hs : I.holds s) (k a : Nat) : I.holds (postLinkReads s k a) := by
  unfold postLinkReads
  split
  · exact keeps_ite (keeps_postDeed (keeps_postDeed hs ..) ..) hs
  · exact hs

theorem keeps_linkRead {s : State} (hs : I.holds s) (k since : Nat) (half : Bool) : I.holds (linkRead s k since half) :=
  keeps_modCore hs ..

theorem keeps_execBr {s : State} (hs : I.holds s) (m : Mv) : I.out (execBr m s) :=
  keeps_trigger hs (fun _ _ hu => keeps_modMe hu ..) ..

theorem keeps_execBrt {s : State} (hs : I.holds s) (m : Mv) : I.out (execBrt m s) :=
  keeps_trigger hs (fun _ _ hu => keeps_modMe hu ..) ..

theorem keeps_execCall {s : State} (hs : I.holds s) (m : Mv) : I.out (execCall m s) :=
  keeps_trigger hs (fun _ _ hu => keeps_postLinkReads (keeps_modMe hu ..) ..) ..

theorem keeps_execRet {s : State} (hs : I.holds s) (m : Mv) : I.out (execRet m s) :=
  keeps_trigger hs (fun _ _ hu => keeps_postLinkReads (keeps_modMe hu ..) ..) ..

theorem keeps_reportPark {s : State} (hs : I.holds s) (k : Nat) : I.holds (reportPark s k) := by
  unfold reportPark
  split
  · exact keeps_postCore hs ..
  · exact hs

theorem keeps_execLoop {s : State} (hs : I.holds s) (n : Fin 4) (m : Mv) : I.out (execLoop n m s) :=
  keeps_trigger hs (fun _ _ hu => keeps_reportPark (keeps_modMe hu ..) ..) ..

theorem keeps_execLoopp {s : State} (hs : I.holds s) (n : Fin 4) (m : Mv) : I.out (execLoopp n m s) :=
  keeps_trigger hs (fun _ _ hu => keeps_reportPark (keeps_modMe hu ..) ..) ..

theorem keeps_execLbrk {s : State} (hs : I.holds s) (n : Fin 4) (m : Mv) : I.out (execLbrk n m s) :=
  keeps_trigger hs (fun _ _ hu => keeps_modMe hu ..) ..

theorem keeps_execLoopEndStep {s : State} (hs : I.holds s) (core : Nat) (n : Fin 4) : I.out (execLoopEndStep core n s) := by
  unfold execLoopEndStep
  dsimp only
  split
  · exact out_next hs
  · split
    · exact out_next (keeps_reportPark (keeps_setCore hs ..) ..)
    · split
      · exact out_next (keeps_postCore (keeps_setCore hs ..) ..)
      · exact out_next (keeps_setCore hs ..)

theorem keeps_execDrainPark {s : State} (hs : I.holds s) (core : Nat) (n : Fin 4) : I.out (execDrainPark core n s) :=
  out_ite (out_next (keeps_modCore hs ..)) (out_next (keeps_modCore hs ..))

theorem keeps_waittIssue {s : State} (hs : I.holds s) (m : Mv) (s₀ : State) : I.holds (waittIssue m s₀ s) :=
  keeps_ite (keeps_ite (keeps_ite (keeps_setCore hs ..) (keeps_setCore hs ..)) (keeps_postCore (keeps_setCore hs ..) ..)) hs

theorem keeps_execWaitt {s : State} (hs : I.holds s) (m : Mv) : I.out (execWaitt m s) := by
  unfold execWaitt
  split
  · exact out_next (keeps_waittIssue (keeps_launch hs ..) ..)
  · exact out_next (keeps_when (keeps_modMe hs ..) fun h => keeps_modMe h ..)

theorem keeps_execWaittResume {s : State} (hs : I.holds s) (core : Nat) : I.out (execWaittResume core s) :=
  out_next (keeps_modCore hs ..)

theorem keeps_execResync {s : State} (hs : I.holds s) (m : Mv) : I.out (execResync m s) :=
  keeps_trigger hs (fun _ _ hu => keeps_resyncArrive (keeps_postDeed (keeps_modMe hu ..) ..) ..) ..

theorem keeps_execExit {s : State} (hs : I.holds s) (m : Mv) : I.out (execExit m s) :=
  keeps_trigger hs (fun _ _ hu => keeps_postGang (keeps_resyncExit (keeps_barrierExits (keeps_modMe hu ..) ..) ..) ..) ..

theorem keeps_execBeacon {s : State} (hs : I.holds s) (m : Mv) : I.out (execBeacon m s) :=
  keeps_trigger hs (fun _ _ hu => keeps_modMe hu ..) ..

theorem keeps_startSibling {s : State} (hs : I.holds s) (k' b t issue idx bundle slot : Nat) :
    I.holds (startSibling s k' b t issue idx bundle slot) :=
  keeps_modCore hs ..

theorem keeps_execSpawn {s : State} (hs : I.holds s) (m : Mv) : I.out (execSpawn m s) := by
  unfold execSpawn
  dsimp only
  refine keeps_trigger hs ?_ ..
  intro _ _ hu
  split
  · exact keeps_modMe hu ..
  · split
    · exact keeps_modMe hu ..
    · split
      · refine keeps_postDeed ?_ ..
        refine keeps_startSibling ?_ ..
        split
        · split
          · exact keeps_modCore hu ..
          · exact hu
        · exact hu
      · exact keeps_ite (keeps_modMe hu ..) (keeps_postDeed (keeps_startSibling hu ..) ..)

theorem keeps_spawnRegs {s : State} (hs : I.holds s) (k : Nat) (ws : List Word) : I.holds (spawnRegs s k ws) :=
  keeps_modCore hs ..

theorem keeps_execOperationComplete {s : State} (hs : I.holds s) (core : Nat) (port : ResultPort) (value : Vec) (flags : BitVec
  6) :
    I.out (execOperationComplete core port value flags s) :=
  out_next (keeps_modCore hs ..)

theorem keeps_execStreamPopRead {s : State} (hs : I.holds s) (core : Nat) (q : Fin 16) (issueAt bundle : Nat) :
    I.out (execStreamPopRead core q issueAt bundle s) :=
  out_next (keeps_ite (keeps_popRead hs ..) hs)

theorem keeps_sqTriggerOf {f : Flight → ℕ → Stream → State → State} {s : State} (hs : I.holds s) (hf : ∀ x0 x1 x2 s3, I.holds s3
  → I.holds (f x0 x1 x2 s3)) (i : Instr) (m : Mv) :
    I.out (sqTriggerOf i m s f) :=
  keeps_trigger hs (fun _ _ hu => hf _ _ _ _ hu) ..

theorem keeps_sqNotOpen {s : State} (hs : I.holds s) (fl : Flight) (n : Nat) : I.holds (sqNotOpen s fl n) := keeps_modMe hs ..

theorem keeps_execScfg {s : State} (hs : I.holds s) (m : Mv) : I.out (execScfg m s) :=
  keeps_sqTriggerOf hs (fun _ _ _ _ hu => keeps_ite (keeps_modMe hu ..) (keeps_sqDone (keeps_stampOpen hu ..) ..)) ..

theorem keeps_execSseek {s : State} (hs : I.holds s) (m : Mv) : I.out (execSseek m s) :=
  keeps_sqTriggerOf hs (fun _ _ _ _ hu => keeps_ite (keeps_sqNotOpen hu ..) (keeps_sqDone (keeps_stampOpen hu ..) ..)) ..

theorem keeps_execSskip {s : State} (hs : I.holds s) (m : Mv) : I.out (execSskip m s) :=
  keeps_sqTriggerOf hs (fun _ _ _ _ hu => keeps_ite (keeps_sqNotOpen hu ..) (keeps_sqDone hu ..)) ..

theorem keeps_execStag {s : State} (hs : I.holds s) (m : Mv) : I.out (execStag m s) :=
  keeps_sqTriggerOf hs (fun _ _ _ _ hu => keeps_ite (keeps_sqNotOpen hu ..) (keeps_ite (keeps_modMe hu ..) (keeps_sqDone
    (keeps_stampOpen hu ..) ..))) ..

theorem keeps_execSclose {s : State} (hs : I.holds s) (m : Mv) : I.out (execSclose m s) :=
  keeps_sqTriggerOf hs (fun _ _ _ _ hu => keeps_sqDone (keeps_stampOpen hu ..) ..) ..

theorem keeps_execPush {s : State} (hs : I.holds s) (q : Fin 16) (m : Mv) : I.out (execPush q m s) := by
  unfold execPush
  split
  · exact out_next (keeps_launch hs ..)
  · exact out_next (keeps_pushArrive hs ..)

/-! The system unit. -/

theorem keeps_csrSample {s : State} (hs : I.holds s) (k n : Nat) : I.holds (csrSample s k n) := by
  unfold csrSample
  split
  · exact keeps_postCore hs ..
  · exact hs

theorem keeps_csrFault {s : State} (hs : I.holds s) (fl : Flight) : I.holds (csrFault s fl) := keeps_modMe hs ..

theorem keeps_execCsrr {s : State} (hs : I.holds s) (m : Mv) : I.out (execCsrr m s) :=
  keeps_trigger hs (fun _ _ hu => keeps_ite (keeps_csrFault hu ..) (keeps_postDeed hu ..)) ..

theorem keeps_execCsrw {s : State} (hs : I.holds s) (m : Mv) : I.out (execCsrw m s) :=
  keeps_trigger hs (fun _ _ hu => keeps_ite (keeps_postDeed hu ..) (keeps_csrFault hu ..)) ..

theorem keeps_execTrap {s : State} (hs : I.holds s) (m : Mv) : I.out (execTrap m s) :=
  keeps_trigger hs (fun _ _ hu => keeps_modMe hu ..) ..

theorem keeps_execWpt {s : State} (hs : I.holds s) (m : Mv) : I.out (execWpt m s) :=
  keeps_trigger hs (fun _ _ hu => keeps_postDeed (keeps_postDeed hu ..) ..) ..

theorem keeps_execIntv {s : State} (hs : I.holds s) (m : Mv) : I.out (execIntv m s) :=
  keeps_trigger hs (fun _ _ hu => keeps_postDeed hu ..) ..

theorem keeps_execFence {s : State} (hs : I.holds s) (m : Mv) : I.out (execFence m s) :=
  keeps_trigger hs (fun _ _ hu => keeps_postCore hu ..) ..

theorem keeps_landHostWrite {s : State} (hs : I.holds s) (w : HostWrite) : I.holds (landHostWrite s w) :=
  keeps_ite (keeps_postEvent hs ..) (keeps_putHost hs ..)

theorem keeps_flushPosted {s : State} (hs : I.holds s) (k a : Nat) : I.holds (flushPosted s k a) :=
  keeps_foldl (fun _ _ hu => keeps_landHostWrite hu ..) _ (keeps_setAuth hs ..)

theorem keeps_execFencePerform {s : State} (hs : I.holds s) (core : Nat) (scope : BitVec 3) :
    I.out (execFencePerform core scope s) :=
  out_next (keeps_postDeed (keeps_when (keeps_ite (keeps_flushPosted hs ..) hs) fun h => keeps_postGangDeed h ..) ..)

theorem keeps_pkgInterval {s : State} (hs : I.holds s) (g : Nat) : I.holds (pkgInterval s g) := keeps_modGang hs ..

theorem keeps_storeRegion {s : State} (hs : I.holds s) (x k n : Nat) : I.holds (storeRegion s x k n) := by
  unfold storeRegion
  split
  · exact keeps_putDev hs ..
  · exact hs

theorem keeps_takeRegion {s : State} (hs : I.holds s) (k n x : Nat) : I.holds (takeRegion s k n x) :=
  keeps_ite hs (keeps_setCore (keeps_beside (keeps_ite hs (keeps_storeRegion hs ..)) ..) ..)

theorem keeps_execRclaim {s : State} (hs : I.holds s) (m : Mv) : I.out (execRclaim m s) :=
  keeps_trigger hs (fun _ _ hu => keeps_ite hu (keeps_unless (keeps_setCore hu ..) fun h => keeps_unless h fun h =>
    keeps_announceHold h ..)) ..

theorem keeps_execRegionSpillFill {s : State} (hs : I.holds s) (core region : Nat) :
    I.out (execRegionSpillFill core region s) := by
  unfold execRegionSpillFill
  dsimp only
  split
  · exact out_next hs
  · exact out_next (keeps_releaseHolds (keeps_ite (keeps_takeRegion hs ..) hs) ..)

theorem keeps_postSpills {s : State} (hs : I.holds s) (g x : Nat) : I.holds (postSpills s g x) :=
  keeps_foldl (fun _ _ hu => keeps_postPod (keeps_takeFresh hu ..) ..) _ hs

theorem keeps_execWatchdogThreshold {s : State} (hs : I.holds s) (core : Nat) : I.out (execWatchdogThreshold core s) :=
  out_ite (out_next (keeps_announceHold (keeps_postEvent hs ..) ..)) (out_next hs)

theorem keeps_overdueFreeze {s : State} (hs : I.holds s) (g x : Nat) : I.holds (overdueFreeze s g x) := keeps_modGang hs ..

theorem keeps_refreshOverdue {s : State} (hs : I.holds s) (core : Nat) : I.holds (refreshOverdue s core) :=
  keeps_overdueFreeze (keeps_modCore hs ..) ..

theorem keeps_execRefreshOwedIncrement {s : State} (hs : I.holds s) (core : Nat) : I.out (execRefreshOwedIncrement core s) :=
  out_next (keeps_when (keeps_modCore hs ..) fun h => keeps_post h ..)

theorem keeps_execRecordQueueDrain {s : State} (hs : I.holds s) (core : Nat) : I.out (execRecordQueueDrain core s) :=
  out_next (keeps_drainRecords hs ..)

theorem keeps_postDrains {s : State} (hs : I.holds s) : I.holds (postDrains s) :=
  keeps_foldl (fun _ _ hu => keeps_ite hu (keeps_postPod (keeps_takeFresh hu ..) ..)) _ hs

theorem keeps_execRunComplete {s : State} (hs : I.holds s) (gang : Nat) : I.out (execRunComplete gang s) :=
  out_ite (out_next hs) (out_ite (out_next hs) (out_ite (out_next (keeps_endRun (keeps_when (keeps_modGang (keeps_writeNext
    (keeps_writeFence hs ..) ..) ..) fun h => keeps_tellComplete h ..) ..)) (out_next (keeps_postGang (keeps_ite (keeps_tellOver
    hs ..) hs) ..))))

/-! The engines. -/

theorem keeps_slipCheck {s : State} (hs : I.holds s) (fl : Flight) (w : Word) (reads : List Nat) (src : Nat) :
    I.holds (slipCheck s fl w reads src).1 := by
  unfold slipCheck
  dsimp only
  split
  · split
    · exact keeps_modMe hs fun c => recordSlip c w.toNat src fl.arrive
    · exact keeps_modMe hs fun c => raiseFor c fl reads 0x0D 0 0 0
  · exact hs

theorem keeps_raiseAll {s : State} (hs : I.holds s) (fl : Flight) (reads : Nat → List Nat) (fs : List (Nat × Nat × Nat)) :
    I.holds (raiseAll s fl reads fs) :=
  keeps_foldl (fun _ _ hu => keeps_modMe hu ..) _ hs

theorem keeps_modCmdCore {s : State} (hs : I.holds s) (k id : Nat) (f : Core → Core) : I.holds (modCmdCore s k id f) := by
  unfold modCmdCore
  split
  · exact keeps_modCore hs ..
  · split
    · exact keeps_beside hs ..
    · exact hs

theorem keeps_reserveAll {s : State} (hs : I.holds s) (k : Nat) (ch : Nat × Nat × Nat) (as : List (Nat × Nat × Nat × Nat)) (cls
  : Nat) (eject : Bool) :
    I.holds (reserveAll s k ch as cls eject) :=
  keeps_modCore hs ..

theorem keeps_reserveStamps {s : State} (hs : I.holds s) (k : Nat) (ch : Nat × Nat × Nat) (sts : List (Nat × Nat)) :
    I.holds (reserveStamps s k ch sts) :=
  keeps_modCore hs ..

theorem keeps_suppressStamps {s : State} (hs : I.holds s) (k t : Nat) (ch : Nat × Nat × Nat) (us : List UnitWrite) :
    I.holds (suppressStamps s k t ch us) :=
  keeps_foldl (fun _ _ hu => keeps_foldl (fun _ _ hu => keeps_scheduleStamp hu ..) _ (keeps_modCore hu ..)) _ hs

theorem keeps_engineWrite {s : State} (hs : I.holds s) (k addr : Nat) (bs : List Byte) (agent : BitVec 16) (sts : List (Nat ×
  BitVec 16)) (replayed : Bool) :
    I.holds (engineWrite s k addr bs agent sts replayed) :=
  keeps_ite hs (keeps_foldl (fun _ _ hu => keeps_ownStamp hu ..) _ (keeps_performWrite hs ..))

theorem keeps_engineResult {s : State} (hs : I.holds s) (fl : Flight) (p : ResultPort) (v : Nat) :
    I.holds (engineResult s fl p v) :=
  keeps_completeWord hs ..

/-! Stacked DRAM. -/

theorem keeps_dramShadow {s : State} (hs : I.holds s) (a n : Nat) (agent : BitVec 16) (sc : BitVec 2) :
    I.holds (dramShadow s a n agent sc) :=
  keeps_setDram hs ..

theorem keeps_raceDram {s : State} (hs : I.holds s) (a n : Nat) (x : BitVec 16) (rw : Nat) (untimed : Bool) (victim : Nat) :
    I.holds (raceDram s a n x rw untimed victim) :=
  keeps_foldl (fun _ _ hu => keeps_ite (keeps_raceReport hu ..) hu) _ hs

theorem keeps_poisonDev {s : State} (hs : I.holds s) (a n : Nat) : I.holds (poisonDev s a n) := keeps_setDram hs ..

theorem keeps_startMitigation {s : State} (hs : I.holds s) (home ch b : Nat) : I.holds (startMitigation s home ch b) :=
  keeps_ite hs (keeps_postPod (keeps_setDram hs ..) ..)

theorem keeps_crossBank {s : State} (hs : I.holds s) (home ch b row vdid : Nat) (timed : Bool) :
    I.holds (crossBank s home ch b row vdid timed) := by
  unfold crossBank
  dsimp only
  split
  · exact keeps_postGang (keeps_setDram hs ..) ..
  · exact keeps_startMitigation (keeps_setDram hs ..) ..

theorem keeps_activateRow {s : State} (hs : I.holds s) (home : Nat) (chans : BitVec 4) (b row vdid : Nat) (timed : Bool) :
    I.holds (activateRow s home chans b row vdid timed) :=
  keeps_foldl (fun _ _ hu => keeps_when (keeps_setDram hu ..) fun h => keeps_crossBank h ..) _ hs

theorem keeps_resetHighest {s : State} (hs : I.holds s) (key least : Nat) : I.holds (resetHighest s key least) := by
  unfold resetHighest
  dsimp only
  split
  · exact keeps_ite (keeps_setDram hs ..) hs
  · exact hs

theorem keeps_execDisturbanceThreshold {s : State} (hs : I.holds s) (core : Nat) (ch : Fin 4) (bank : Fin 16) :
    I.out (execDisturbanceThreshold core ch bank s) := by
  unfold execDisturbanceThreshold
  split
  · exact out_next (keeps_ite (keeps_startMitigation hs ..) hs)
  · exact out_next (keeps_foldl (fun _ _ hu => keeps_ite hu (keeps_announceHold hu ..)) _ hs)

theorem keeps_doomPartition {s : State} (hs : I.holds s) (p : Nat) : I.holds (doomPartition s p) := keeps_setAuth hs ..

theorem keeps_chargeDisturbance {s : State} (hs : I.holds s) (p n : Nat) : I.holds (chargeDisturbance s p n) :=
  keeps_when (keeps_setPart hs ..) fun h => keeps_when (keeps_postEvent (keeps_modPart h ..) ..) fun h => keeps_doomPartition h
    ..

theorem keeps_resetCrossing {s : State} (hs : I.holds s) (key row vdid : Nat) : I.holds (resetCrossing s key row vdid) :=
  keeps_setDram hs ..

theorem keeps_entryDone {s : State} (hs : I.holds s) (core ch b : Nat) (e : Nat × Nat) : I.holds (entryDone s core ch b e) := by
  unfold entryDone
  split
  · exact keeps_resetCrossing hs ..
  · exact keeps_releaseHolds (keeps_postEvent (keeps_chargeDisturbance (keeps_resetCrossing hs ..) ..) ..) ..

theorem keeps_execDisturbanceMitigationDone {s : State} (hs : I.holds s) (core : Nat) (ch : Fin 4) (bank : Fin 16) :
    I.out (execDisturbanceMitigationDone core ch bank s) := by
  unfold execDisturbanceMitigationDone
  split
  · exact out_next hs
  · exact out_next (keeps_unless (keeps_entryDone hs ..) fun h => keeps_startMitigation h ..)

theorem keeps_postMitigations {s : State} (hs : I.holds s) (g x : Nat) : I.holds (postMitigations s g x) :=
  keeps_foldl (fun _ _ hu => keeps_startMitigation hu ..) _ hs

theorem keeps_execDisturbanceWindow {s : State} (hs : I.holds s) : I.out (execDisturbanceWindow s) :=
  out_next (keeps_setAuth hs ..)

theorem keeps_acceptCommands {s : State} (hs : I.holds s) (home t : Nat) (cs : List DramCmd) :
    I.holds (acceptCommands s home t cs) :=
  keeps_modCore hs ..

theorem keeps_sendUntimed {s : State} (hs : I.holds s) (a : Untimed) : I.holds (sendUntimed s a) :=
  keeps_foldl (fun _ _ hu => keeps_postPod hu ..) _ (keeps_takeFresh hs ..)

theorem keeps_notePiece {s : State} (hs : I.holds s) (a : Untimed) : I.holds (notePiece s a) :=
  keeps_ite hs (keeps_ite (keeps_setDram hs ..) (keeps_setDram hs ..))

theorem keeps_answerRead {s : State} (hs : I.holds s) (a : Untimed) (bs : List Byte) (status : Nat) :
    I.holds (answerRead s a bs status) :=
  keeps_when (keeps_setDram hs ..) fun h => keeps_setHart h ..

theorem keeps_noteServed {s : State} (hs : I.holds s) (a : Nat) : I.holds (noteServed s a) := keeps_setDram hs ..

theorem keeps_shareData {s : State} (hs : I.holds s) (a : Untimed) (bs : List Byte) (p : Bool) :
    I.holds (shareData s a bs p) := by
  unfold shareData
  dsimp only
  split
  · exact hs
  · exact keeps_when (keeps_modCmdCore hs ..) fun h => keeps_postPod h ..

theorem keeps_notePatrol {s : State} (hs : I.holds s) (a n : Nat) : I.holds (notePatrol s a n) := keeps_setDram hs ..

theorem keeps_sectorLost {s : State} (hs : I.holds s) (i : Nat) : I.holds (sectorLost s i) :=
  keeps_postPlatform (keeps_countError hs ..) ..

theorem keeps_noteRead {s : State} (hs : I.holds s) (a n : Nat) : I.holds (noteRead s a n) :=
  keeps_foldl (fun _ _ hu => keeps_sectorLost hu ..) _ (keeps_notePatrol hs ..)

theorem keeps_dramComplete {s : State} (hs : I.holds s) (a : Untimed) (act : Bool) : I.holds (dramComplete s a act) := by
  unfold dramComplete
  extract_lets n s₁ s₂
  have h₁ : I.holds s₁ := keeps_noteServed hs ..
  have h₂ : I.holds s₂ := keeps_ite (keeps_activateRow h₁ ..) h₁
  clear_value s₂
  split
  · have hput := keeps_notePiece (keeps_putDev (keeps_raceDram h₂ a.addr n a.agent 1 true 0) a.addr a.data) a
    exact keeps_dramShadow (keeps_ite (keeps_poisonDev hput ..) hput) ..
  · have hread := keeps_noteRead (keeps_raceDram h₂ a.addr n a.agent 0 true 0) a.addr n
    refine keeps_ite (keeps_shareData hread ..) (keeps_ite (keeps_post (keeps_answerRead hread ..) ..) ?_)
    exact keeps_answerRead hread ..

theorem keeps_finishUntimed {s : State} (hs : I.holds s) (a : Untimed) (act : Bool) : I.holds (finishUntimed s a act) :=
  keeps_dramComplete (keeps_setDram hs ..) ..

theorem keeps_receiveAnew {s : State} (hs : I.holds s) (a : Untimed) : I.holds (receiveAnew s a) :=
  keeps_beside (keeps_setDram hs ..) ..

theorem keeps_tryUntimed {s : State} (hs : I.holds s) (a : Untimed) : I.holds (tryUntimed s a) := by
  unfold tryUntimed
  dsimp only
  split
  · exact hs
  · split
    · exact keeps_when (keeps_postPod hs ..) fun h => keeps_receiveAnew h ..
    · split
      · exact keeps_when (keeps_postPod hs ..) fun h => keeps_receiveAnew h ..
      · split
        · exact keeps_finishUntimed hs ..
        · exact keeps_when (keeps_postPod hs ..) fun h => keeps_receiveAnew h ..

theorem keeps_postCopyUnits {s : State} (hs : I.holds s) (k id : Nat) (rd : Bool) (st skew len : Nat) :
    I.holds (postCopyUnits s k id rd st skew len) :=
  keeps_foldl (fun _ _ hu => keeps_postCore (keeps_postCore hu ..) ..) _ hs

theorem keeps_postAnnouncements {s : State} (hs : I.holds s) (k id t st len : Nat) :
    I.holds (postAnnouncements s k id t st len) :=
  keeps_foldl (fun _ _ hu => keeps_ite (keeps_postCore hu ..) hu) _ hs

theorem keeps_startCopy {s : State} (hs : I.holds s) (fl : Flight) (rd : Bool) (st sad lad len : Nat) (tag : BitVec 16) (e :
  Word) :
    I.holds (startCopy s fl rd st sad lad len tag e) :=
  keeps_ite (keeps_raiseAll hs ..) (keeps_engineResult (keeps_postCopyUnits (keeps_foldl (fun _ _ hu => keeps_postDeed hu ..) _
    (keeps_when (keeps_reserveAll (keeps_setCore (keeps_acceptCommands hs ..) ..) ..) fun h => keeps_reserveStamps h ..)) ..)
    ..)

theorem keeps_startShare {s : State} (hs : I.holds s) (fl : Flight) (rd : Bool) (st sad lad len : Nat) (tag : BitVec 16) (e :
  Word) :
    I.holds (startShare s fl rd st sad lad len tag e) :=
  keeps_engineResult (keeps_when (keeps_foldl (fun _ _ hu => keeps_when (keeps_postCore hu ..) fun h => keeps_sendUntimed h ..)
    _ (keeps_when (keeps_reserveAll (keeps_setCore hs ..) ..) fun h => keeps_reserveStamps h ..)) fun h =>
    keeps_postAnnouncements h ..) ..

theorem keeps_suppressCopy {s : State} (hs : I.holds s) (fl : Flight) (rd : Bool) (st sad len : Nat) (e : Word) :
    I.holds (suppressCopy s fl rd st sad len e) :=
  keeps_engineResult (keeps_ite (keeps_suppressStamps hs ..) hs) ..

theorem keeps_dcopy {s : State} (hs : I.holds s) (rd : Bool) (fl : Flight) : I.holds (dcopy rd s fl) := by
  unfold dcopy
  dsimp only
  split
  · exact keeps_modMe hs ..
  · split
    · exact keeps_raiseAll (keeps_modMe hs ..) ..
    · split
      · rename_i heq1
        exact keeps_fst (keeps_slipCheck (keeps_modMe hs ..) ..) heq1
      · rename_i heq1
        exact keeps_suppressCopy (keeps_fst (keeps_slipCheck (keeps_modMe hs ..) ..) heq1) ..
      · rename_i heq1
        exact keeps_ite (keeps_startShare (keeps_fst (keeps_slipCheck (keeps_modMe hs ..) ..) heq1) ..) (keeps_startCopy
          (keeps_fst (keeps_slipCheck (keeps_modMe hs ..) ..) heq1) ..)

theorem keeps_execDcopyR {s : State} (hs : I.holds s) (m : Mv) : I.out (execDcopyR m s) :=
  keeps_trigger hs (fun _ _ hu => keeps_dcopy hu ..) ..

theorem keeps_execDcopyW {s : State} (hs : I.holds s) (m : Mv) : I.out (execDcopyW m s) :=
  keeps_trigger hs (fun _ _ hu => keeps_dcopy hu ..) ..

theorem keeps_closeUnit {s : State} (hs : I.holds s) (k : Nat) (m : EngineCmd) (unit : Nat) : I.holds (closeUnit s k m unit) :=
  keeps_ite (keeps_modCore hs ..) hs

theorem keeps_unitAtDram {s : State} (hs : I.holds s) (k : Nat) (m : EngineCmd) (unit : Nat) :
    I.holds (unitAtDram s k m unit) := by
  unfold unitAtDram
  split
  · exact keeps_modCmdCore hs ..
  · split
    · split
      · exact keeps_closeUnit hs ..
      · exact keeps_ite (keeps_closeUnit hs ..) (keeps_closeUnit (keeps_dramShadow (keeps_when (keeps_putDev (keeps_raceDram hs
          ..) ..) fun h => keeps_poisonDev h ..) ..) ..)
    · exact keeps_ite (keeps_modCmdCore (keeps_takeFresh hs ..) ..) (keeps_modCmdCore (keeps_noteRead (keeps_raceDram hs ..) ..)
        ..)

theorem keeps_unitAtScratch {s : State} (hs : I.holds s) (k : Nat) (m : EngineCmd) (unit : Nat) :
    I.holds (unitAtScratch s k m unit) := by
  unfold unitAtScratch
  dsimp only
  split
  · split
    · exact keeps_closeUnit (keeps_engineWrite hs ..) ..
    · exact keeps_desync hs ..
  · have hread := keeps_raceScratchRead hs k (m.sad + 256 * unit) (unitBytes m.len unit)
    refine keeps_ite (keeps_closeUnit hs _ _ _) (keeps_ite ?_ (keeps_modCore hread _ _))
    exact keeps_closeUnit (keeps_sendUntimed hread _) _ _ _

theorem keeps_execDcopyUnit {s : State} (hs : I.holds s) (core cmd unit : Nat) (atDram : Bool) :
    I.out (execDcopyUnit core cmd unit atDram s) := by
  unfold execDcopyUnit
  split
  · exact out_next hs
  · exact out_ite (out_next (keeps_when (keeps_unitAtDram hs ..) fun h => keeps_releaseHolds h ..)) (out_next
      (keeps_unitAtScratch hs ..))

theorem keeps_refreshTrigger {s : State} (hs : I.holds s) (rfm : Bool) (fl : Flight) : I.holds (refreshTrigger rfm s fl) := by
  unfold refreshTrigger
  dsimp only
  split
  · rename_i heq1
    exact keeps_ite (keeps_raiseAll (keeps_fst (keeps_slipCheck (keeps_modMe hs ..) ..) heq1) ..) (keeps_postDeed
      (keeps_acceptCommands (keeps_fst (keeps_slipCheck (keeps_modMe hs ..) ..) heq1) ..) ..)
  · rename_i heq1
    exact keeps_fst (keeps_slipCheck (keeps_modMe hs ..) ..) heq1

theorem keeps_execDref {s : State} (hs : I.holds s) (m : Mv) : I.out (execDref m s) :=
  keeps_trigger hs (fun _ _ hu => keeps_refreshTrigger hu ..) ..

theorem keeps_execDrfm {s : State} (hs : I.holds s) (m : Mv) : I.out (execDrfm m s) :=
  keeps_trigger hs (fun _ _ hu => keeps_refreshTrigger hu ..) ..

theorem keeps_refreshStart {s : State} (hs : I.holds s) (home b : Nat) (rfm : Bool) : I.holds (refreshStart s home b rfm) :=
  keeps_ite (keeps_foldl (fun _ _ hu => keeps_resetHighest hu ..) _ hs) (keeps_modCore hs ..)

theorem keeps_timedActivate {s : State} (hs : I.holds s) (k home : Nat) (chans : BitVec 4) (b row : Nat) :
    I.holds (timedActivate s k home chans b row) :=
  keeps_activateRow hs ..

theorem keeps_execDramSelfRefresh {s : State} (hs : I.holds s) (_core : Nat) (_bank : Fin 16) :
    I.out (execDramSelfRefresh _core _bank s) :=
  out_next hs

theorem keeps_reopenRows {s : State} (hs : I.holds s) (g : Nat) : I.holds (reopenRows s g) :=
  keeps_foldl (fun _ _ hu => keeps_activateRow hu ..) _ (keeps_setGang hs ..)

theorem keeps_controllersRelease {s : State} (hs : I.holds s) (g n : Nat) : I.holds (controllersRelease s g n) :=
  keeps_ite (keeps_leekMembers (keeps_markReleased (keeps_ite (keeps_reopenRows hs ..) hs) ..) ..) hs

theorem keeps_ownAccess {s : State} (hs : I.holds s) (a : Nat) : I.holds (ownAccess s a) :=
  keeps_when (keeps_noteServed hs ..) fun h => keeps_activateRow h ..

theorem keeps_execPatrolRead {s : State} (hs : I.holds s) (sector : Nat) (finding : EccFinding) :
    I.out (execPatrolRead sector finding s) := by
  unfold execPatrolRead
  split
  · exact out_next (keeps_notePatrol (keeps_ownAccess hs ..) ..)
  · exact out_next (keeps_postPod (keeps_setDram (keeps_countError (keeps_notePatrol (keeps_ownAccess hs ..) ..) ..) ..) ..)
  · exact out_next (keeps_sectorLost (keeps_setDram (keeps_notePatrol (keeps_ownAccess hs ..) ..) ..) ..)

theorem keeps_execEccWriteback {s : State} (hs : I.holds s) (sector : Nat) : I.out (execEccWriteback sector s) :=
  out_next (keeps_ite (keeps_setDram (keeps_ownAccess hs ..) ..) (keeps_postPod hs ..))

theorem keeps_patrol {s : State} (hs : I.holds s) (sector : Nat) : I.holds (patrol s sector) :=
  keeps_ite (keeps_notePatrol (keeps_ownAccess hs ..) ..) (keeps_ite hs (keeps_ite (keeps_notePatrol hs ..) (keeps_post hs ..)))

/-! XCOPY, HCOPY and IMCOPY. -/

theorem keeps_reserveSelf {s : State} (hs : I.holds s) (k : Nat) (ch : Nat × Nat × Nat) (us : List UnitWrite) :
    I.holds (reserveSelf s k ch us) := by
  unfold reserveSelf
  exact keeps_reserveStamps (keeps_reserveAll hs ..) ..

theorem keeps_suppressXcopy {s : State} (hs : I.holds s) (k k' t st lad len : Nat) (near : Bool) (ch : Nat × Nat × Nat) :
    I.holds (suppressXcopy s k k' t st lad len near ch) :=
  keeps_foldl (fun _ _ hu => keeps_postCore hu ..) _ (keeps_ite (keeps_reserveSelf hs ..) hs)

theorem keeps_execXcopy {s : State} (hs : I.holds s) (m : Mv) : I.out (execXcopy m s) := by
  unfold execXcopy
  dsimp only
  refine keeps_trigger hs ?_ ..
  intro _ _ hu
  split
  · exact keeps_modMe hu ..
  · split
    · exact keeps_raiseAll (keeps_modMe hu ..) ..
    · split
      · rename_i heq2
        exact keeps_fst (keeps_slipCheck (keeps_modMe hu ..) ..) heq2
      · rename_i heq2
        exact keeps_engineResult (keeps_suppressXcopy (keeps_fst (keeps_slipCheck (keeps_modMe hu ..) ..) heq2) ..) ..
      · rename_i heq2
        exact keeps_ite (keeps_raiseAll (keeps_fst (keeps_slipCheck (keeps_modMe hu ..) ..) heq2) ..) (keeps_engineResult
          (keeps_foldl (fun _ _ hu => keeps_postDeed hu ..) _ (keeps_when (keeps_reserveAll (keeps_setCore (keeps_fst
          (keeps_slipCheck (keeps_modMe hu ..) ..) heq2) ..) ..) fun h => keeps_reserveSelf h ..)) ..)

theorem keeps_xcopyRead {s : State} (hs : I.holds s) (k cmd unit : Nat) : I.holds (xcopyRead s k cmd unit) := by
  unfold xcopyRead
  split
  · exact hs
  · exact keeps_ite (keeps_closeUnit hs ..) (keeps_closeUnit (keeps_postCore (keeps_modCore (keeps_raceScratchRead hs ..) ..)
      ..) ..)

theorem keeps_xcopyArrive {s : State} (hs : I.holds s) (core : Nat) (u : XUnit) : I.holds (xcopyArrive s core u) :=
  keeps_ite (keeps_discardForeign (keeps_modCore hs ..) ..) (keeps_ite (keeps_ite (keeps_postForeign (keeps_takeEjection hs ..)
    ..) (keeps_unclaimedFault (keeps_takeEjection hs ..) ..)) (keeps_foreignWrite hs ..))

theorem keeps_execXcopyUnitArrival {s : State} (hs : I.holds s) (core : Nat) (u : XUnit) :
    I.out (execXcopyUnitArrival core u s) :=
  out_next (keeps_xcopyArrive hs ..)

theorem keeps_postSpaceChecks {s : State} (hs : I.holds s) (k id t st len : Nat) : I.holds (postSpaceChecks s k id t st len) :=
  keeps_foldl (fun _ _ hu => keeps_ite (keeps_postCore hu ..) hu) _ hs

theorem keeps_askUnit {s : State} (hs : I.holds s) (k p id lad len i : Nat) : I.holds (askUnit s k p id lad len i) :=
  keeps_postPod (keeps_takeFresh hs ..) ..

theorem keeps_askHost {s : State} (hs : I.holds s) (k : Nat) : I.holds (askHost s k) := by
  refine keeps_snd_foldl (fun b w hb => ?_) _ hs
  dsimp only
  split
  · exact keeps_setAuth hb _
  · split
    · exact keeps_askUnit (keeps_setAuth hb _) _ _ _ _ _ _
    · exact hb

theorem keeps_requestHost {s : State} (hs : I.holds s) (k id len : Nat) : I.holds (requestHost s k id len) :=
  keeps_askHost (keeps_setAuth hs ..) ..

theorem keeps_hcopy {s : State} (hs : I.holds s) (write : Bool) (fl : Flight) : I.holds (hcopy write s fl) := by
  unfold hcopy
  dsimp only
  refine keeps_ite (keeps_modMe hs ..) (keeps_ite (keeps_raiseAll (keeps_modMe hs ..) ..) ?_)
  split
  · exact keeps_fst (keeps_slipCheck (keeps_modMe hs ..) ..) ‹_›
  · have hslip := keeps_fst (keeps_slipCheck (keeps_modMe hs ..) ..) ‹_›
    exact keeps_engineResult (keeps_ite hslip (keeps_suppressStamps hslip ..)) ..
  · have hslip := keeps_fst (keeps_slipCheck (keeps_modMe hs ..) ..) ‹_›
    refine keeps_engineResult (keeps_foldl (fun _ _ hu => keeps_ite (keeps_postCore hu ..) (keeps_postCore hu ..)) _ ?_) ..
    refine keeps_ite (keeps_postSpaceChecks (keeps_reserveAll (keeps_setCore hslip ..) ..) ..) ?_
    exact keeps_postAnnouncements (keeps_requestHost (keeps_reserveStamps (keeps_reserveAll (keeps_setCore hslip ..) ..) ..) ..)
      ..

theorem keeps_execHcopyR {s : State} (hs : I.holds s) (m : Mv) : I.out (execHcopyR m s) :=
  keeps_trigger hs (fun _ _ hu => keeps_hcopy hu ..) ..

theorem keeps_execHcopyW {s : State} (hs : I.holds s) (m : Mv) : I.out (execHcopyW m s) :=
  keeps_trigger hs (fun _ _ hu => keeps_hcopy hu ..) ..

theorem keeps_execHcopyHoldAnnouncement {s : State} (hs : I.holds s) (core cmd unit : Nat) :
    I.out (execHcopyHoldAnnouncement core cmd unit s) := by
  unfold execHcopyHoldAnnouncement
  split
  · exact out_next hs
  · exact out_ite (out_next (keeps_ite hs (keeps_announceHold hs ..))) (out_next (keeps_ite hs (keeps_announceHold hs ..)))

theorem keeps_execHostReadDataArrival {s : State} (hs : I.holds s) (core cmd unit : Nat) (data : List (BitVec 8)) (ok : Bool) :
    I.out (execHostReadDataArrival core cmd unit data ok s) := by
  unfold execHostReadDataArrival
  split
  · exact out_next hs
  · exact out_next (keeps_releaseHolds (keeps_unless (keeps_modCmdCore hs ..) fun h => keeps_postEvent h ..) ..)

theorem keeps_execHcopyRUnit {s : State} (hs : I.holds s) (core cmd unit : Nat) : I.out (execHcopyRUnit core cmd unit s) := by
  unfold execHcopyRUnit
  split
  · exact out_next hs
  · split
    · exact out_next (keeps_desync hs ..)
    · exact out_next (keeps_askHost (keeps_closeUnit (keeps_engineWrite hs _ _ _ _ _ _) _ _ _) _)

theorem keeps_execHcopyWUnit {s : State} (hs : I.holds s) (core cmd unit : Nat) : I.out (execHcopyWUnit core cmd unit s) := by
  unfold execHcopyWUnit
  split
  · exact out_next hs
  · exact out_ite (out_next (keeps_closeUnit hs ..)) (out_ite (out_next (keeps_desync hs ..)) (out_ite (out_next
      (keeps_closeUnit (keeps_postEvent (keeps_raceScratchRead hs ..) ..) ..)) (out_next (keeps_closeUnit (keeps_postPod
      (keeps_setAuth (keeps_takeFresh (keeps_raceScratchRead hs ..) ..) ..) ..) ..))))

theorem keeps_releaseSpace {s : State} (hs : I.holds s) (k : Nat) : I.holds (releaseSpace s k) :=
  keeps_foldl (fun _ _ hu => keeps_foldl (fun _ _ hu => keeps_ite (keeps_releaseHolds hu ..) hu) _ hu) _ hs

theorem keeps_execHostWriteSpaceFree {s : State} (hs : I.holds s) (core _bytes : Nat) :
    I.out (execHostWriteSpaceFree core _bytes s) := by
  unfold execHostWriteSpaceFree
  dsimp only
  split
  · exact out_next (keeps_releaseSpace (keeps_takeFresh hs ..) ..)
  · exact out_next (keeps_releaseSpace (keeps_landHostWrite (keeps_setAuth (keeps_takeFresh hs ..) ..) ..) ..)

theorem keeps_execImcopy {s : State} (hs : I.holds s) (m : Mv) : I.out (execImcopy m s) := by
  unfold execImcopy
  dsimp only
  refine keeps_trigger hs (fun fl u hu => keeps_ite (keeps_modMe hu ..) (keeps_ite (keeps_raiseAll (keeps_modMe hu ..) ..) ?_))
    ..
  split
  · rename_i heq
    have hslip := keeps_fst (keeps_slipCheck (keeps_modMe hu ..) ..) heq
    exact keeps_foldl (fun _ _ hv => keeps_postDeed (keeps_postDeed hv ..) ..) _ (keeps_reserveAll (keeps_setCore hslip ..) ..)
  · rename_i heq
    exact keeps_fst (keeps_slipCheck (keeps_modMe hu ..) ..) heq

theorem keeps_imUnit {s : State} (hs : I.holds s) (k cmd unit : Nat) (write : Bool) : I.holds (imUnit s k cmd unit write) := by
  unfold imUnit
  split
  · exact hs
  · exact keeps_ite (keeps_modCore hs ..) (keeps_ite hs (keeps_modCore (keeps_raceScratchRead hs ..) ..))

end Sys2Proof.Machine
end

section
/-! PROOF. What writes cores and gangs only through their setters keeps such a property: the fabric, mailboxes, admission and images. -/

namespace Sys2Proof.Machine

variable {I : TableInv}

/-! The fabric. -/

theorem keeps_useLink {s : State} (hs : I.holds s) (n x : Nat) (u : Occupied) : I.holds (useLink s n x u) := keeps_setFab hs ..

theorem keeps_dropFrame {s : State} (hs : I.holds s) (fr : Frame) (hop sub : Nat) : I.holds (dropFrame s fr hop sub) :=
  keeps_unless (keeps_leekSend hs ..) fun h => keeps_leekSend h ..

theorem keeps_dropUse {s : State} (hs : I.holds s) (n : Nat) (o : Occupied) : I.holds (dropUse s n o) := by
  unfold dropUse
  dsimp only
  split
  · exact keeps_modCore (keeps_beside (keeps_setFab hs ..) ..) ..
  · split
    · exact keeps_dropFrame (keeps_setFab (keeps_setFab hs ..) ..) ..
    · exact keeps_setFab hs ..

theorem keeps_takeHop0 {s : State} (hs : I.holds s) (fl : Flight) (n : Nat) (u : Occupied) (width kind : Nat) :
    I.holds (takeHop0 s fl n u width kind).1 := by
  unfold takeHop0
  dsimp only
  split
  · exact hs
  · split
    · dsimp only
      exact keeps_raiseAll hs ..
    · dsimp only
      exact keeps_useLink (keeps_foldl (fun _ _ hu => keeps_dropUse hu _ _) _ hs) ..

theorem keeps_postSend {s : State} (hs : I.holds s) (k id kind st sad len n : Nat) (ch : Nat × Nat × Nat) :
    I.holds (postSend s k id kind st sad len n ch) :=
  keeps_ite (keeps_postDeed (keeps_foldl (fun _ _ hu => keeps_postDeed hu ..) _ (keeps_settleLate (keeps_reserveAll
    (keeps_postDeed hs ..) ..) ..)) ..) (keeps_postDeed (keeps_postDeed hs ..) ..)

theorem keeps_suppressGet {s : State} (hs : I.holds s) (fl : Flight) (k st sad len : Nat) :
    I.holds (suppressGet s fl k st sad len) :=
  keeps_suppressStamps hs ..

theorem keeps_awaitReply {s : State} (hs : I.holds s) (fl : Flight) (k id kind st len : Nat) :
    I.holds (awaitReply s fl k id kind st len) :=
  keeps_postGang (keeps_modCore (keeps_setFab (keeps_ite (keeps_modCore hs ..) hs) ..) ..) ..

theorem keeps_fabTrigger {s : State} (hs : I.holds s) (kind : Nat) (fl : Flight) : I.holds (fabTrigger kind s fl) := by
  unfold fabTrigger
  dsimp only
  refine keeps_ite (keeps_raiseAll (keeps_modMe hs ..) ..) ?_
  split
  · exact keeps_fst (keeps_slipCheck (keeps_modMe hs ..) ..) ‹_›
  · rename_i u sup heq
    have hslip := keeps_fst (keeps_slipCheck (keeps_modMe hs ..) ..) heq
    have hget : I.holds (if sup ∧ kind = 13 then suppressGet u fl (me s) (startOf (portOf (myCore s) fbAt) fl.arrive)
        (portOf (myCore s) fbSad).toNat (if kind = 14 then 4 else (portOf (myCore s) fbLen).toNat) else u) :=
      keeps_ite (keeps_suppressGet hslip ..) hslip
    refine keeps_ite hget ?_
    split
    · exact keeps_fst (keeps_takeHop0 hget ..) ‹_›
    · have hhop := keeps_fst (keeps_takeHop0 hget ..) ‹_›
      refine keeps_when ?_ fun h => keeps_awaitReply h ..
      exact keeps_ite (keeps_postDeed (keeps_postDeed (keeps_setCore hhop ..) ..) ..) (keeps_postSend (keeps_setCore hhop ..)
        ..)

theorem keeps_execFsend {s : State} (hs : I.holds s) (m : Mv) : I.out (execFsend m s) :=
  keeps_trigger hs (fun _ _ hu => keeps_fabTrigger hu ..) ..

theorem keeps_execFput {s : State} (hs : I.holds s) (m : Mv) : I.out (execFput m s) :=
  keeps_trigger hs (fun _ _ hu => keeps_fabTrigger hu ..) ..

theorem keeps_execFget {s : State} (hs : I.holds s) (m : Mv) : I.out (execFget m s) :=
  keeps_trigger hs (fun _ _ hu => keeps_fabTrigger hu ..) ..

theorem keeps_execFatom {s : State} (hs : I.holds s) (m : Mv) : I.out (execFatom m s) :=
  keeps_trigger hs (fun _ _ hu => keeps_fabTrigger hu ..) ..

theorem keeps_sendRead {s : State} (hs : I.holds s) (k cmd unit : Nat) : I.holds (sendRead s k cmd unit) := by
  unfold sendRead
  split
  · exact hs
  · exact keeps_modCore (keeps_raceScratchRead hs ..) ..

theorem keeps_putWire {s : State} (hs : I.holds s) (n : Nat) (fr : Frame) : I.holds (putWire s n fr) := keeps_setFab hs ..

theorem keeps_countSent {s : State} (hs : I.holds s) (g n : Nat) : I.holds (countSent s g n) :=
  keeps_writeFsaHeader (keeps_modGang hs ..) ..

theorem keeps_depart {s : State} (hs : I.holds s) (k cmd : Nat) : I.holds (depart s k cmd) := by
  unfold depart
  split
  · exact hs
  · exact keeps_modCore (keeps_putWire hs ..) ..

theorem keeps_execFrecv {s : State} (hs : I.holds s) (m : Mv) : I.out (execFrecv m s) := by
  unfold execFrecv
  dsimp only
  refine keeps_trigger hs (fun fl u hu => keeps_ite (keeps_raiseAll (keeps_modMe hu ..) ..) ?_) ..
  split
  · rename_i heq
    have hslip := keeps_fst (keeps_slipCheck (keeps_modMe hu ..) ..) heq
    split
    · exact keeps_postGang (keeps_modMe (keeps_setFab hslip ..) ..) ..
    · exact keeps_modMe (keeps_setFab hslip ..) ..
  · rename_i heq
    exact keeps_suppressStamps (keeps_fst (keeps_slipCheck (keeps_modMe hu ..) ..) heq) ..
  · rename_i heq
    exact keeps_fst (keeps_slipCheck (keeps_modMe hu ..) ..) heq

theorem keeps_execFpeer {s : State} (hs : I.holds s) (m : Mv) : I.out (execFpeer m s) :=
  keeps_trigger hs (fun _ _ hu => keeps_completeWord (keeps_when (keeps_modMe hu ..) fun h => keeps_modMe h ..) ..) ..

theorem keeps_takeHop {s : State} (hs : I.holds s) (fr : Frame) (n hop : Nat) : I.holds (takeHop s fr n hop).1 := by
  unfold takeHop
  dsimp only
  split
  · exact hs
  · split
    · exact hs
    · split
      · exact hs
      · exact keeps_useLink (keeps_foldl (fun _ _ hu => keeps_dropUse hu ..) _ hs) ..

theorem keeps_execFrameForward {s : State} (hs : I.holds s) (f : Frame) (hop : Nat) (link : Fin 16) :
    I.out (execFrameForward f hop link s) := by
  unfold execFrameForward
  split
  · exact out_next hs
  · split
    · rename_i heq1
      exact out_next (keeps_dropFrame (keeps_fst (keeps_takeHop hs ..) heq1) ..)
    · rename_i heq1
      exact out_next (keeps_putWire (keeps_fst (keeps_takeHop hs ..) heq1) ..)

theorem keeps_loseReply {s : State} (hs : I.holds s) (gang chip core departure : Nat) :
    I.holds (loseReply s gang chip core departure) := by
  unfold loseReply
  split
  · exact keeps_postDeed hs ..
  · exact hs

theorem keeps_execDrop {s : State} (hs : I.holds s) (gang chip core departure hop subcode : Nat) :
    I.out (execDrop gang chip core departure hop subcode s) := by
  unfold execDrop
  dsimp only
  split
  · split
    · exact out_next (keeps_modCore (keeps_loseReply (keeps_setFab hs ..) ..) ..)
    · exact out_next (keeps_loseReply (keeps_setFab hs ..) ..)
  · exact out_next (keeps_loseReply (keeps_setFab hs ..) ..)

theorem keeps_capture {s : State} (hs : I.holds s) (fr : Frame) : I.holds (capture s fr) := by
  unfold capture
  dsimp only
  split
  · exact keeps_addFsa hs ..
  · split
    · exact keeps_modCore (keeps_postEvent (keeps_setGang hs ..) ..) ..
    · exact keeps_postEvent (keeps_setGang hs ..) ..

theorem keeps_scheduleFrame {s : State} (hs : I.holds s) (fr : Frame) : I.holds (scheduleFrame s fr) := keeps_postGang hs ..

theorem keeps_countRecv {s : State} (hs : I.holds s) (fr : Frame) : I.holds (countRecv s fr) :=
  keeps_writeFsaHeader (keeps_modGang hs ..) ..

theorem keeps_unexpected {s : State} (hs : I.holds s) (k : Nat) : I.holds (unexpected s k) := keeps_modCore hs ..

theorem keeps_stray {s : State} (hs : I.holds s) (fr : Frame) : I.holds (stray s fr) := by
  unfold stray
  split
  · exact keeps_ite (keeps_unexpected hs ..) hs
  · exact hs

theorem keeps_arrival {perform : ℕ → State → State} {s : State} (hs : I.holds s) (hperform : ∀ x0 s1, I.holds s1 → I.holds
  (perform x0 s1)) (fr : Frame) :
    I.holds (arrival s fr perform) := by
  unfold arrival
  dsimp only
  split
  · exact keeps_dropFrame (keeps_setFab hs ..) ..
  · split
    · exact keeps_capture (keeps_setFab hs ..) ..
    · split
      · exact keeps_stray (keeps_setFab hs ..) ..
      · exact keeps_ite (keeps_countRecv (hperform _ _ (keeps_setFab hs ..)) ..) (keeps_ite (keeps_ite (keeps_scheduleFrame
          (keeps_setFab (keeps_setFab hs ..) ..) ..) (keeps_capture (keeps_setFab hs ..) ..)) (keeps_ite (keeps_scheduleFrame
          (keeps_setFab hs ..) ..) (keeps_unexpected (keeps_setFab hs ..) ..)))

theorem keeps_writeUnit {s : State} (hs : I.holds s) (k : Nat) (fr : Frame) (i : Nat) : I.holds (writeUnit s k fr i) :=
  keeps_foreignWrite hs ..

theorem keeps_writeUnits {s : State} (hs : I.holds s) (k : Nat) (fr : Frame) : I.holds (writeUnits s k fr) :=
  keeps_foldl (fun _ _ hu => keeps_ite hu (keeps_post hu ..)) _ (keeps_writeUnit hs ..)

theorem keeps_performSend {s : State} (hs : I.holds s) (f : Frame) (k : Nat) : I.holds (performSend f k s) := by
  unfold performSend
  split
  · exact keeps_unexpected hs ..
  · exact keeps_writeUnits (keeps_modCore hs ..) ..

theorem keeps_execFsendArrival {s : State} (hs : I.holds s) (f : Frame) : I.out (execFsendArrival f s) :=
  out_next (keeps_arrival hs (fun _ _ hu => keeps_performSend hu ..) ..)

theorem keeps_performPut {s : State} (hs : I.holds s) (f : Frame) (k : Nat) : I.holds (performPut f k s) :=
  keeps_ite (keeps_writeUnits hs ..) (keeps_unexpected hs ..)

theorem keeps_execFputArrival {s : State} (hs : I.holds s) (f : Frame) : I.out (execFputArrival f s) :=
  out_next (keeps_arrival hs (fun _ _ hu => keeps_performPut hu ..) ..)

theorem keeps_readUnit {s : State} (hs : I.holds s) (k : Nat) (fr : Frame) (i : Nat) : I.holds (readUnit s k fr i) :=
  keeps_foreignAccess hs ..

theorem keeps_takeBack {s : State} (hs : I.holds s) (fr r : Frame) (d : Nat) : I.holds (takeBack s fr r d).1 := by
  unfold takeBack
  split
  · rename_i heq1
    exact keeps_dropFrame (keeps_fst (keeps_takeHop hs ..) heq1) ..
  · rename_i heq1
    exact keeps_fst (keeps_takeHop hs ..) heq1

theorem keeps_sendResponse {s : State} (hs : I.holds s) (k : Nat) (fr : Frame) (d arrive : Nat) (data : List Byte) (poison :
  Bool) (old flags : BitVec 32) :
    I.holds (sendResponse s k fr d arrive data poison old flags) := by
  unfold sendResponse
  dsimp only
  split
  · rename_i heq1
    exact keeps_putWire (keeps_fst (keeps_takeBack hs ..) heq1) ..
  · rename_i heq1
    exact keeps_fst (keeps_takeBack hs ..) heq1

theorem keeps_countResponse {s : State} (hs : I.holds s) (fr : Frame) : I.holds (countResponse s fr) :=
  keeps_ite (keeps_countSent hs ..) hs

theorem keeps_performGetRequest {s : State} (hs : I.holds s) (f : Frame) (k : Nat) : I.holds (performGetRequest f k s) :=
  keeps_ite (keeps_post (keeps_takeBack (keeps_countResponse hs ..) ..) ..) (keeps_unexpected hs ..)

theorem keeps_execFgetRequestArrival {s : State} (hs : I.holds s) (f : Frame) : I.out (execFgetRequestArrival f s) :=
  out_next (keeps_arrival hs (fun _ _ hu => keeps_performGetRequest hu ..) ..)

theorem keeps_sendData {s : State} (hs : I.holds s) (fr : Frame) : I.holds (sendData s fr) := keeps_ite hs (keeps_putWire hs ..)

theorem keeps_getUnit {s : State} (hs : I.holds s) (k : Nat) (fr : Frame) (i : Nat) : I.holds (getUnit s k fr i) :=
  keeps_ite (keeps_post (keeps_readUnit hs ..) ..) (keeps_sendData (keeps_readUnit hs ..) ..)

theorem keeps_frameUnit {s : State} (hs : I.holds s) (fr : Frame) (i : Nat) : I.holds (frameUnit s fr i) := by
  unfold frameUnit
  split
  · exact hs
  · split
    · exact keeps_getUnit hs ..
    · exact keeps_foreignWrite hs ..
    · exact keeps_writeUnit hs ..

theorem keeps_answered {s : State} (hs : I.holds s) (fr : Frame) : I.holds (answered s fr) := keeps_setFab hs ..

theorem keeps_performGetResponse {s : State} (hs : I.holds s) (f : Frame) (k : Nat) : I.holds (performGetResponse f k s) :=
  keeps_writeUnits (keeps_answered hs ..) ..

theorem keeps_execFgetResponseArrival {s : State} (hs : I.holds s) (f : Frame) : I.out (execFgetResponseArrival f s) :=
  out_next (keeps_arrival hs (fun _ _ hu => keeps_performGetResponse hu ..) ..)

theorem keeps_performAtomRequest {s : State} (hs : I.holds s) (f : Frame) (k : Nat) : I.holds (performAtomRequest f k s) :=
  keeps_ite (keeps_unexpected hs ..) (keeps_ite (keeps_post hs ..) (keeps_foldl (fun _ _ hu => keeps_post hu ..) _ hs))

theorem keeps_execFatomRequestArrival {s : State} (hs : I.holds s) (f : Frame) : I.out (execFatomRequestArrival f s) :=
  out_next (keeps_arrival hs (fun _ _ hu => keeps_performAtomRequest hu ..) ..)

theorem keeps_fatomWrite {s : State} (hs : I.holds s) (fr : Frame) (old : BitVec 32) : I.holds (fatomWrite s fr old) := by
  unfold fatomWrite
  split
  · exact hs
  · split
    · exact keeps_sendResponse (keeps_countResponse hs ..) ..
    · split
      · exact keeps_beside (keeps_foreignAccess hs ..) ..
      · exact keeps_foreignAccess hs ..
      · exact keeps_sendResponse (keeps_countResponse (keeps_ite (keeps_foreignWrite hs ..) (keeps_foreignAccess hs ..)) ..) ..

theorem keeps_performAtomResponse {s : State} (hs : I.holds s) (f : Frame) (k : Nat) : I.holds (performAtomResponse f k s) :=
  keeps_ite (keeps_modCore (keeps_answered hs ..) ..) (keeps_postDeed (keeps_modCore (keeps_answered hs ..) ..) ..)

theorem keeps_execFatomResponseArrival {s : State} (hs : I.holds s) (f : Frame) : I.out (execFatomResponseArrival f s) :=
  out_next (keeps_arrival hs (fun _ _ hu => keeps_performAtomResponse hu ..) ..)

theorem keeps_postPoison {s : State} (hs : I.holds s) (f : Frame) : I.holds (postPoison s f) := keeps_post hs ..

theorem keeps_performPoison {s : State} (hs : I.holds s) (f : Frame) (k : Nat) : I.holds (performPoison f k s) := by
  unfold performPoison
  split
  · split
    · exact keeps_postPoison (keeps_modCore hs ..) ..
    · exact keeps_unexpected hs ..
  · exact hs
  · exact keeps_postPoison hs ..

theorem keeps_execPoisonFrameArrival {s : State} (hs : I.holds s) (f : Frame) : I.out (execPoisonFrameArrival f s) :=
  out_next (keeps_arrival hs (fun _ _ hu => keeps_performPoison hu ..) ..)

theorem keeps_performFrame {s : State} (hs : I.holds s) (f : Frame) (k : Nat) : I.holds (performFrame f k s) := by
  unfold performFrame
  split
  · exact keeps_performSend hs ..
  · exact keeps_performPut hs ..
  · exact keeps_performGetRequest hs ..
  · exact keeps_performGetResponse hs ..
  · exact keeps_performAtomRequest hs ..
  · exact keeps_performAtomResponse hs ..
  · exact keeps_performPoison hs ..

theorem keeps_execFsaReinject {s : State} (hs : I.holds s) (gang : Nat) (f : Frame) : I.out (execFsaReinject gang f s) :=
  out_next (keeps_arrival hs (fun _ _ hu => keeps_performFrame hu ..) ..)

theorem keeps_setDead {s : State} (hs : I.holds s) (chip : Nat) : I.holds (setDead s chip) := keeps_setFab hs ..

theorem keeps_execMissingArrival {s : State} (hs : I.holds s) (core chip expected ticket : Nat) :
    I.out (execMissingArrival core chip expected ticket s) := by
  unfold execMissingArrival
  dsimp only
  split
  · exact out_next (keeps_modCore (keeps_setFab hs ..) ..)
  · split
    · exact out_next (keeps_setFab (keeps_modCore (keeps_setFab hs ..) ..) ..)
    · exact out_next (keeps_modCore (keeps_postEvent (keeps_leekMembers (keeps_setDead (keeps_modCore (keeps_setFab hs ..) ..)
        ..) ..) ..) ..)

theorem keeps_execDeadpeer {s : State} (hs : I.holds s) (_gang dead _reporter : Nat) :
    I.out (execDeadpeer _gang dead _reporter s) :=
  out_next (keeps_setDead hs ..)

theorem keeps_execDeadpeerClear {s : State} (hs : I.holds s) (chips : List Nat) : I.out (execDeadpeerClear chips s) :=
  out_next (keeps_setFab hs ..)

theorem keeps_execLinkDown {s : State} (hs : I.holds s) (link : Fin 16) : I.out (execLinkDown link s) :=
  out_next (keeps_foldl (fun _ _ hu => keeps_ite (keeps_abortGang hu ..) hu) _ (keeps_reroute (keeps_when (keeps_countError
    (keeps_postPlatform (keeps_setFab hs ..) ..) ..) fun h => keeps_retireUnit h ..) ..))

theorem keeps_alignPod {s : State} (hs : canonInv.holds s) (p : Nat) : canonInv.holds (alignPod s p) :=
  keeps_clock (keeps_setFab hs _) ..

theorem keeps_execAlign {s : State} (hs : canonInv.holds s) (link : Fin 16) (origin : Nat) :
    canonInv.out (execAlign link origin s) :=
  out_ite (out_next hs) (out_ite (out_next (keeps_alignPod hs ..)) (out_ite (out_next hs) (out_next (keeps_postPod hs ..))))

theorem keeps_execLinkTraining {s : State} (hs : I.holds s) (link : Fin 16) (lam mu nbr : BitVec 12) :
    I.out (execLinkTraining link lam mu nbr s) :=
  out_ite (out_next hs) (out_next (keeps_setFab hs ..))

theorem keeps_frameError {s : State} (hs : I.holds s) (n : Nat) : I.holds (frameError s n) :=
  keeps_when (keeps_setFab hs ..) fun h => keeps_postPod h ..

theorem keeps_podPlace {s : State} (hs : I.holds s) (chip s0 s1 s2 s3 : Nat) (root : Bool) :
    I.holds (podPlace s chip s0 s1 s2 s3 root) :=
  keeps_setFab hs ..

theorem keeps_podLink {s : State} (hs : I.holds s) (chip n lam mu : Nat) (up : Bool) : I.holds (podLink s chip n lam mu up) :=
  keeps_setFab hs ..

theorem keeps_podShare {s : State} (hs : I.holds s) (chip row n share : Nat) : I.holds (podShare s chip row n share) :=
  keeps_setFab hs ..

theorem keeps_finishSend {s : State} (hs : I.holds s) (k t : Nat) (m : EngineCmd) : I.holds (finishSend s k t m) :=
  keeps_depart (keeps_foldl (fun _ _ hu => keeps_sendRead hu ..) _ (keeps_beside hs ..)) ..

theorem keeps_finishGet {s : State} (hs : I.holds s) (k : Nat) (fr : Frame) (i : Nat) : I.holds (finishGet s k fr i) :=
  keeps_sendData hs ..

theorem keeps_finishDepartures {s : State} (hs : I.holds s) (g : Nat) : I.holds (finishDepartures s g) := by
  unfold finishDepartures
  refine keeps_foldl (fun u a hu => ?_) _ (keeps_foldl (fun _ _ hu => keeps_foldl (fun _ _ hu => keeps_finishSend hu ..) _ hu) _
    hs)
  split
  · exact keeps_finishGet (keeps_beside hu ..) ..
  · exact hu

/-! Mailboxes and the cluster. -/

theorem keeps_wakeSnaps {s : State} (hs : I.holds s) : I.holds (wakeSnaps s) :=
  keeps_foldl (fun _ _ hu => keeps_foldl (fun _ _ hu => keeps_releaseHolds hu ..) _ hu) _ hs

theorem keeps_mbSlip {s : State} (hs : I.holds s) (fl : Flight) : I.holds (mbSlip s fl).1 := by
  unfold mbSlip
  dsimp only
  split
  · split
    · exact keeps_slipCheck hs ..
    · exact hs
  · exact hs

theorem keeps_mbAccept {s : State} (hs : I.holds s) (fl : Flight) (kind p dst : Nat) : I.holds (mbAccept s fl kind p dst) :=
  keeps_postDeed (keeps_foldl (fun _ _ hu => keeps_ite (keeps_postDeed hu ..) (keeps_postDeed (keeps_postDeed hu ..) ..)) _
    (keeps_ite (keeps_reserveAll (keeps_ite (keeps_postDeed (keeps_setCore hs ..) ..) (keeps_setCore hs ..)) ..)
    (keeps_reserveStamps (keeps_reserveAll (keeps_ite (keeps_postDeed (keeps_setCore hs ..) ..) (keeps_setCore hs ..)) ..) ..)))
    ..

theorem keeps_mbSend {s : State} (hs : I.holds s) (fl : Flight) : I.holds (mbSend fl s) := by
  unfold mbSend
  dsimp only
  split
  · exact keeps_raiseAll hs ..
  · split
    · rename_i heq1 _
      exact keeps_mbAccept (keeps_setTurn (keeps_fst (keeps_mbSlip hs ..) heq1) ..) ..
    · rename_i heq1 _
      exact keeps_fst (keeps_mbSlip hs ..) heq1

theorem keeps_execMbsend {s : State} (hs : I.holds s) (m : Mv) : I.out (execMbsend m s) :=
  keeps_trigger hs (fun _ _ hu => keeps_mbSend hu ..) ..

theorem keeps_mbRecv {s : State} (hs : I.holds s) (fl : Flight) : I.holds (mbRecv fl s) := by
  unfold mbRecv
  dsimp only
  refine keeps_ite (keeps_raiseAll hs ..) ?_
  split
  · exact keeps_suppressStamps (keeps_fst (keeps_mbSlip hs fl) ‹_›) ..
  · have hslip := keeps_fst (keeps_mbSlip hs fl) ‹_›
    exact keeps_mbAccept (keeps_ite (keeps_setTurn hslip ..) hslip) ..
  · exact keeps_fst (keeps_mbSlip hs fl) ‹_›

theorem keeps_execMbrecv {s : State} (hs : I.holds s) (m : Mv) : I.out (execMbrecv m s) :=
  keeps_trigger hs (fun _ _ hu => keeps_mbRecv hu ..) ..

theorem keeps_execMbstat {s : State} (hs : I.holds s) (m : Mv) : I.out (execMbstat m s) := by
  unfold execMbstat
  dsimp only
  refine keeps_trigger hs ?_ ..
  intro _ _ hu
  split
  · exact keeps_raiseAll hu ..
  · exact keeps_raiseAll hu ..
  · exact keeps_completeWord hu ..

theorem keeps_mbsnapIssue {s : State} (hs : I.holds s) (m : Mv) (s₀ : State) : I.holds (mbsnapIssue m s₀ s) := by
  unfold mbsnapIssue
  dsimp only
  split
  · split
    · exact keeps_setCore hs ..
    · exact keeps_when (keeps_postCore hs ..) fun h => keeps_announceHold h ..
  · exact hs

theorem keeps_execMbsnap {s : State} (hs : I.holds s) (m : Mv) : I.out (execMbsnap m s) := by
  unfold execMbsnap
  split
  · exact out_next (keeps_mbsnapIssue (keeps_launch hs ..) ..)
  · exact out_next (keeps_modMe hs ..)

theorem keeps_execMbsnapCopy {s : State} (hs : I.holds s) (core group : Nat) : I.out (execMbsnapCopy core group s) := by
  unfold execMbsnapCopy
  split
  · exact out_next hs
  · exact out_next (keeps_postDeed (keeps_modCore hs ..) ..)

theorem keeps_mbVersion {s : State} (hs : I.holds s) (k cmd : Nat) : I.holds (mbVersion s k cmd) := keeps_modCore hs ..

theorem keeps_mbReadUnit {s : State} (hs : I.holds s) (k cmd unit : Nat) : I.holds (mbReadUnit s k cmd unit) := by
  unfold mbReadUnit
  split
  · exact hs
  · exact keeps_ite (keeps_ite hs (keeps_modCore (keeps_raceScratchRead hs ..) ..)) (keeps_modCore hs ..)

theorem keeps_mbWriteUnit {s : State} (hs : I.holds s) (k cmd unit : Nat) : I.holds (mbWriteUnit s k cmd unit) := by
  unfold mbWriteUnit
  split
  · exact hs
  · split
    · exact hs
    · exact keeps_engineWrite hs _ _ _ _ _ _

theorem keeps_beginEpisode {s : State} (hs : I.holds s) (p : Nat) : I.holds (beginEpisode s p) :=
  keeps_foldl (fun _ _ hu => keeps_postPod hu ..) _ hs

theorem keeps_writeAction {s : State} (hs : I.holds s) (p v step len : Nat) (data : List Byte) (cyc : Nat) :
    I.holds (writeAction s p v step len data cyc) :=
  keeps_putMb (keeps_putMb (keeps_putMb (keeps_putMb (keeps_putMb hs ..) ..) ..) ..) ..

theorem keeps_noEpisode {s : State} (hs : I.holds s) (p v cyc : Nat) : I.holds (noEpisode s p v cyc) :=
  keeps_setTurn (keeps_putMb (keeps_putMb hs ..) ..) ..

theorem keeps_sendAction {s : State} (hs : I.holds s) (p v len : Nat) (data : List Byte) (cyc : Nat) :
    I.holds (sendAction s p v len data cyc) :=
  keeps_ite (keeps_ite (keeps_beginEpisode (keeps_writeAction (keeps_putMb (keeps_putMb (keeps_putMb (keeps_setEnv hs ..) ..)
    ..) ..) ..) ..) (keeps_noEpisode hs ..)) (keeps_ite (keeps_mbEnd hs ..) (keeps_writeAction hs ..))

theorem keeps_receiveDone {s : State} (hs : I.holds s) (p : Nat) (active : Bool) (status : Nat) :
    I.holds (receiveDone s p active status) :=
  keeps_ite hs (keeps_ite (keeps_putMb hs ..) (keeps_ite (keeps_putMb hs ..) hs))

theorem keeps_mbDone {s : State} (hs : I.holds s) (k cmd : Nat) : I.holds (mbDone s k cmd) := by
  unfold mbDone
  split
  · exact hs
  · exact keeps_wakeSnaps (keeps_modCore (keeps_ite (keeps_sendAction hs ..) (keeps_receiveDone hs ..)) ..) ..

theorem keeps_killPair {s : State} (hs : I.holds s) (p status cause : Nat) : I.holds (killPair s p status cause) :=
  keeps_ite hs (keeps_wakeSnaps (keeps_mbEnd hs ..) ..)

theorem keeps_hartFault {s : State} (hs : I.holds s) (h : Nat) : I.holds (hartFault s h) := by
  unfold hartFault
  dsimp only
  split
  · exact keeps_setEnv hs ..
  · exact keeps_when (keeps_setEnv hs ..) fun h => keeps_killPair h ..
  · exact keeps_postEvent (keeps_setHart (keeps_setEnv hs ..) ..) ..

theorem keeps_postOverruns {s : State} (hs : I.holds s) (h : Nat) : I.holds (postOverruns s h) := by
  unfold postOverruns
  dsimp only
  split
  · split
    · split
      · exact keeps_ite hs (keeps_postPod hs ..)
      · exact hs
    · refine keeps_postPod ?_ ..
      split
      · exact keeps_ite hs (keeps_postPod hs ..)
      · exact hs
  · split
    · exact keeps_ite hs (keeps_postPod hs ..)
    · exact hs

theorem keeps_startTaken {s : State} (hs : I.holds s) (h : Nat) : I.holds (startTaken s h) :=
  keeps_unless (keeps_setHart hs ..) fun h => keeps_postPod h ..

theorem keeps_stopStep {s : State} (hs : I.holds s) (h : Nat) : I.holds (stopStep s h) := keeps_setHart hs ..

theorem keeps_hartStore {s : State} (hs : I.holds s) (h p off : Nat) (bs : List Byte) : I.holds (hartStore s h p off bs) :=
  keeps_ite (keeps_postPod hs ..) (keeps_ite (keeps_postPod (keeps_setDram (keeps_takeFresh (keeps_ite (keeps_startTaken hs ..)
    (keeps_ite (keeps_stopStep hs ..) hs)) ..) ..) ..) (keeps_hartFault hs ..))

theorem keeps_hartComplete {s : State} (hs : I.holds s) (a : Untimed) : I.holds (hartComplete s a) :=
  keeps_ite (keeps_ite (keeps_wakeSnaps (keeps_setEnv hs ..) ..) (keeps_when (keeps_setEnv hs ..) fun h => keeps_wakeSnaps
    (keeps_when (keeps_copyStamps h ..) fun h => keeps_setTurn h ..) ..)) hs

theorem keeps_hartRead {s : State} (hs : I.holds s) (h : Nat) (a : Untimed) : I.holds (hartRead s h a) :=
  keeps_ite (keeps_postPod (keeps_takeFresh hs ..) ..) (keeps_hartFault (keeps_answerRead hs ..) ..)

theorem keeps_hartReadDone {s : State} (hs : I.holds s) (a : Untimed) : I.holds (hartReadDone s a) :=
  keeps_ite (keeps_hartFault (keeps_answerRead hs ..) ..) (keeps_answerRead hs ..)

theorem keeps_execUntimedAccessReceive {s : State} (hs : I.holds s) (a : Untimed) : I.out (execUntimedAccessReceive a s) :=
  out_ite (out_ite (out_next (keeps_answerRead hs ..)) (out_next (keeps_ite (keeps_hartStore hs ..) (keeps_hartRead hs ..))))
    (out_ite (out_next (keeps_hartFault (keeps_answerRead hs ..) ..)) (out_ite (out_next (keeps_when (keeps_answerRead hs ..)
    fun h => keeps_hartFault h ..)) (out_ite (out_next (keeps_postPod hs ..)) (out_next (keeps_postPod (keeps_setDram
    (keeps_takeFresh hs ..) ..) ..)))))

theorem keeps_execUntimedWriteComplete {s : State} (hs : I.holds s) (a : Untimed) : I.out (execUntimedWriteComplete a s) :=
  out_ite (out_ite (out_next (keeps_hartComplete (keeps_setDram hs ..) ..)) (out_next (keeps_hartReadDone hs ..))) (out_next
    (keeps_tryUntimed hs ..))

theorem keeps_execHartTakenStore {s : State} (hs : I.holds s) (hart : Nat) : I.out (execHartTakenStore hart s) :=
  out_next (keeps_hartStore hs ..)

theorem keeps_execHartObservationStore {s : State} (hs : I.holds s) (hart offset : Nat) (data : List (BitVec 8)) :
    I.out (execHartObservationStore hart offset data s) :=
  out_next (keeps_hartStore hs ..)

theorem keeps_publish {s : State} (hs : I.holds s) (h : Nat) (done : Bool) : I.holds (publish s h done) := keeps_hartStore hs ..

theorem keeps_execHartPublish {s : State} (hs : I.holds s) (hart : Nat) (done : Bool) : I.out (execHartPublish hart done s) :=
  out_next (keeps_publish hs ..)

theorem keeps_execCheckerRewardStore {s : State} (hs : I.holds s) (hart pair : Nat) (reward : BitVec 32) :
    I.out (execCheckerRewardStore hart pair reward s) :=
  out_next (keeps_hartStore hs ..)

theorem keeps_execHartException {s : State} (hs : I.holds s) (hart : Nat) : I.out (execHartException hart s) :=
  out_next (keeps_hartFault hs ..)

theorem keeps_execHartStart {s : State} (hs : I.holds s) (hart : Nat) : I.out (execHartStart hart s) := by
  unfold execHartStart
  dsimp only
  split
  · exact out_next hs
  · exact out_ite (out_next hs) (out_next (keeps_unless (keeps_unless (keeps_setHart hs ..) fun h => keeps_postPod h ..) fun h
      => keeps_hartFault h ..))
  · exact out_next (keeps_unless (keeps_setHart hs ..) fun h => keeps_hartFault h ..)

theorem keeps_execStepBudgetOverrun {s : State} (hs : I.holds s) (hart : Nat) : I.out (execStepBudgetOverrun hart s) :=
  out_next (keeps_ite (keeps_killPair hs ..) hs)

theorem keeps_execEpisodeBudgetOverrun {s : State} (hs : I.holds s) (hart : Nat) : I.out (execEpisodeBudgetOverrun hart s) :=
  out_next (keeps_ite (keeps_killPair hs ..) hs)

theorem keeps_execStepDeadline {s : State} (hs : I.holds s) (core group : Nat) : I.out (execStepDeadline core group s) :=
  out_ite (out_next (keeps_wakeSnaps (keeps_releaseHolds (keeps_foldl (fun _ _ hu => keeps_mbEnd hu ..) _ hs) ..) ..)) (out_next
    hs)

theorem keeps_postDeadlines {s : State} (hs : I.holds s) (g x : Nat) : I.holds (postDeadlines s g x) :=
  keeps_foldl (fun _ _ hu => keeps_ite hu (keeps_postPod hu ..)) _ hs

theorem keeps_execSupervisorKill {s : State} (hs : I.holds s) (pair : Nat) : I.out (execSupervisorKill pair s) :=
  out_next (keeps_killPair hs ..)

theorem keeps_zeroDev {s : State} (hs : I.holds s) (a n : Nat) : I.holds (zeroDev s a n) := keeps_setDram hs ..

theorem keeps_scrubWindow {s : State} (hs : I.holds s) (w : Nat × Nat × Nat × Word) : I.holds (scrubWindow s w) :=
  keeps_setEnv (keeps_when (keeps_ite (keeps_zeroDev hs ..) hs) fun h => keeps_setDram h ..) ..

theorem keeps_execEpisodeScrub {s : State} (hs : I.holds s) (pair : Nat) : I.out (execEpisodeScrub pair s) :=
  out_next (keeps_when (keeps_foldl (fun _ _ hu => keeps_scrubWindow hu ..) _ hs) fun h => keeps_beginEpisode h ..)

theorem keeps_setGrpctl {s : State} (hs : I.holds s) (g : Nat) (v : Word) : I.holds (setGrpctl s g v) :=
  keeps_wakeSnaps (keeps_setEnv hs ..) ..

theorem keeps_writeGrpctl {s : State} (hs : I.holds s) (g : Nat) (v : Word) : I.holds (writeGrpctl s g v) :=
  keeps_ite (keeps_setEnv hs ..) (keeps_setGrpctl hs ..)

theorem keeps_writeGrpactive {s : State} (hs : I.holds s) (g : Nat) (v : Word) : I.holds (writeGrpactive s g v) :=
  keeps_wakeSnaps (keeps_setEnv hs ..) ..

theorem keeps_writeEpnext {s : State} (hs : I.holds s) (p : Nat) (v : Word) : I.holds (writeEpnext s p v) := keeps_setEnv hs ..

theorem keeps_clusterWrite {s : State} (hs : I.holds s) (addr : Nat) (v : Word) : I.holds (clusterWrite s addr v) :=
  keeps_ite hs (keeps_ite (keeps_ite (keeps_writeGrpctl hs ..) (keeps_ite (keeps_writeGrpactive hs ..) hs)) (keeps_ite
    (keeps_writeEpnext hs ..) hs))

theorem keeps_sramStore {s : State} (hs : I.holds s) (addr : Nat) (data : List Byte) : I.holds (sramStore s addr data) :=
  keeps_ite (keeps_setEnv hs ..) hs

theorem keeps_hartAccess {s : State} (hs : I.holds s) (h addr : Nat) (write : Bool) (data : List Byte) (n tag : Nat) :
    I.holds (hartAccess s h addr write data n tag) := by
  unfold hartAccess
  dsimp only
  refine keeps_ite (keeps_postPod hs _ _ _) ?_
  split
  · exact keeps_sendUntimed hs _
  · exact keeps_hartFault hs _

theorem keeps_hartOp {s : State} (hs : I.holds s) (h : Nat) (op : HartOp) : I.holds (hartOp s h op) := by
  unfold hartOp
  dsimp only
  split
  · exact keeps_setHart hs ..
  · exact keeps_setHart hs ..
  · exact keeps_setHart hs ..
  · exact keeps_ite (keeps_setHart hs ..) (keeps_hartFault hs ..)
  · exact keeps_ite (keeps_hartFault hs ..) (keeps_hartAccess hs ..)
  · exact keeps_ite (keeps_hartFault hs ..) (keeps_hartAccess (keeps_setHart hs ..) ..)
  · exact keeps_setHart hs ..
  · exact keeps_hartAccess hs ..
  · split
    · exact keeps_ite (keeps_hartFault hs ..) (keeps_setHart hs ..)
    · exact hs
  · exact keeps_ite (keeps_hartFault hs ..) (keeps_when (keeps_setHart hs ..) fun h => keeps_postOverruns h ..)

theorem keeps_mailboxError {s : State} (hs : I.holds s) (sector : Nat) : I.holds (mailboxError s sector) :=
  keeps_postPlatform (keeps_setEnv hs ..) ..

/-! Admission (R208, R261). -/

theorem keeps_composeCtx {s : State} (hs : I.holds s) (x : Nat) : I.holds (composeCtx s x) :=
  keeps_foldl (fun _ _ hu => keeps_postEvent hu ..) _ (keeps_modCtx hs ..)

theorem keeps_reserveSlots {s : State} (hs : I.holds s) (ks : List Nat) : I.holds (reserveSlots s ks) :=
  keeps_foldl (fun _ _ hu => keeps_setDram hu ..) _ hs

theorem keeps_readEarly {s : State} (hs : I.holds s) (k : Nat) : I.holds (readEarly s k) := by
  unfold readEarly
  dsimp only
  refine keeps_modCore ?_ ..
  refine keeps_foldl (fun u a hu => ?_) _ (keeps_modCore hs ..)
  split
  · exact hu
  · exact keeps_foldl (fun _ _ hu => keeps_popRead hu ..) _ (keeps_setCore hu ..)

theorem keeps_loadCore {s : State} (hs : I.holds s) (g : Nat) (img : GangImage) (r : Request) (ks : List Nat) (k i : Nat) :
    I.holds (loadCore s g img r ks k i) := by
  unfold loadCore
  exact keeps_modCore (keeps_foldl (fun _ _ hu => keeps_takeRegion hu ..) _ hs) ..

theorem keeps_clearBarriers {s : State} (hs : I.holds s) (set : Nat) : I.holds (clearBarriers s set) := keeps_beside hs ..

theorem keeps_admitRun {s : State} (hs : I.holds s) (g : Nat) (r : Request) (n : Nat) (img : GangImage) :
    I.holds (admitRun s g r n img) :=
  keeps_clearFsaHeader (keeps_foldl (fun _ _ hu => keeps_readEarly hu ..) _ (keeps_foldl (fun _ _ hu => keeps_loadCore hu ..) _
    (keeps_setGang (keeps_clearBarriers (keeps_composeCtx (keeps_reserveSlots (keeps_modCtx hs ..) ..) ..) ..) ..))) ..

/-! Images (R296, R297). -/

theorem keeps_replayEffect {s : State} (hs : I.holds s) (k : Nat) (e : ReplayEntry) : I.holds (replayEffect s k e) := by
  unfold replayEffect
  dsimp only
  split
  · split
    · exact keeps_postCore hs ..
    · exact hs
  · split
    · exact keeps_modCore hs ..
    · exact hs
  · split
    · split
      · exact keeps_xcopyArrive hs ..
      · exact hs
    · exact keeps_ite hs (keeps_when (keeps_performWrite hs ..) fun h => keeps_ownStamp h ..)
  · split
    · exact keeps_postCore hs ..
    · exact hs
  · exact keeps_modCore hs ..
  · exact keeps_modCore hs ..
  · exact keeps_when (keeps_dramShadow (keeps_putDev hs ..) ..) fun h => keeps_poisonDev h ..
  · exact hs

theorem keeps_execReplayReinject {s : State} (hs : I.holds s) (core : Nat) (e : ReplayEntry) :
    I.out (execReplayReinject core e s) :=
  out_next (keeps_replayEffect hs ..)

theorem keeps_placeEntries {s : State} (hs : I.holds s) (k t : Nat) (c : Core) (es : List ReplayEntry) :
    I.holds (placeEntries s k t c es) :=
  keeps_ite hs (keeps_foldl (fun _ _ hu => keeps_post hu ..) _ (keeps_beside hs ..))

end Sys2Proof.Machine
end

section
/-! PROOF. What writes cores and gangs only through their setters keeps such a property: the slot matrix, authority pages and the house. -/

namespace Sys2Proof.Machine

variable {I : TableInv}

/-! The slot matrix at work (R248 to R266). -/

theorem keeps_memberCell {s : State} (hs : I.holds s) (g chip row : Nat) (named offered : Bool) :
    I.holds (memberCell s g chip row named offered) :=
  keeps_modGang hs ..

theorem keeps_refuseRequest {s : State} (hs : I.holds s) (g status : Nat) (r : Request) (n : Nat) :
    I.holds (refuseRequest s g status r n) := by
  unfold refuseRequest
  exact keeps_postEvent (keeps_nextVia (keeps_fenceVia (keeps_modGang hs ..) ..) ..) ..

theorem keeps_refuseNamed {s : State} (hs : I.holds s) (row set : Nat) : I.holds (refuseNamed s row set) := by
  unfold refuseNamed
  dsimp only
  split
  · split
    · exact keeps_refuseRequest hs ..
    · exact hs
  · exact hs

theorem keeps_noteUnnamed {s : State} (hs : I.holds s) (row set : Nat) : I.holds (noteUnnamed s row set) :=
  keeps_ite (keeps_postEvent hs ..) hs

theorem keeps_planSet {s : State} (hs : I.holds s) (row set : Nat) : I.holds (planSet s row set) := by
  have hbase := keeps_noteUnnamed (keeps_refuseNamed hs row set) row set
  unfold planSet
  dsimp only
  generalize noteUnnamed (refuseNamed s row set) row set = u at hbase ⊢
  split
  · cases nextGang u row set with
    | none => exact hbase
    | some n =>
      rw [Option.elim_some]
      exact keeps_modGang hbase ..
  · have hnow : I.holds (match runnerOf u set with
        | some g => if isLeader u g ∧ (gangOf u g).vote.stage = .run then postPod u u.pod phHub (.prepareSend g false) else u
        | none => u) := by
      split
      · exact keeps_ite (keeps_postPod hbase _ _ _) hbase
      · exact hbase
    split
    · exact keeps_ite (keeps_postPod (keeps_modGang hnow _ _) _ _ _) hnow
    · exact hnow

theorem keeps_planSwitch {s : State} (hs : I.holds s) : I.holds (planSwitch s) :=
  keeps_foldl (fun _ _ hu => keeps_planSet hu ..) _ hs

theorem keeps_toMembers {s : State} (hs : I.holds s) (g : Nat) (i : Instr) : I.holds (toMembers s g i) :=
  keeps_leekMembers (keeps_postPod hs ..) ..

theorem keeps_sendOut {s : State} (hs : I.holds s) (g : Nat) : I.holds (sendOut s g) :=
  keeps_ite (keeps_postPod (keeps_toMembers hs ..) ..) hs

theorem keeps_sendIn {s : State} (hs : I.holds s) (g : Nat) : I.holds (sendIn s g) := by
  unfold sendIn
  dsimp only
  split
  · exact hs
  · split
    · exact keeps_postPod (keeps_toMembers hs ..) ..
    · split
      · split
        · exact keeps_refuseRequest hs ..
        · exact keeps_postPod (keeps_toMembers (keeps_modGang hs ..) ..) ..
      · exact hs

theorem keeps_execPrepareSend {s : State} (hs : I.holds s) (gang : Nat) (dirIn : Bool) : I.out (execPrepareSend gang dirIn s) :=
  out_next (keeps_ite (keeps_sendIn hs ..) (keeps_sendOut hs ..))

theorem keeps_pollVotes {s : State} (hs : I.holds s) : I.holds (pollVotes s) :=
  keeps_foldl (fun _ _ hu => keeps_ite (keeps_postPod hu ..) hu) _ hs

theorem keeps_prepareOut {s : State} (hs : I.holds s) (v : VoteFrame) : I.holds (prepareOut s v) :=
  keeps_ite hs (keeps_ite (keeps_desync hs ..) (keeps_ite (keeps_postPod (keeps_settleHolds (keeps_postPod (keeps_when
    (keeps_setGang hs ..) fun h => keeps_foldl (fun _ _ hu => keeps_modCore hu ..) _ h) ..) ..) ..) (keeps_when (keeps_postPod
    (keeps_when (keeps_setGang hs ..) fun h => keeps_foldl (fun _ _ hu => keeps_modCore hu ..) _ h) ..) fun h => keeps_postPod
    (keeps_postPod h ..) ..)))

theorem keeps_sendVote {s : State} (hs : I.holds s) (v : VoteFrame) : I.holds (sendVote s v) := keeps_leekSend hs ..

theorem keeps_prepareIn {s : State} (hs : I.holds s) (v : VoteFrame) : I.holds (prepareIn s v) := by
  unfold prepareIn
  dsimp only
  split
  · exact keeps_sendVote hs ..
  · split
    · exact keeps_sendVote hs ..
    · split
      · exact keeps_sendVote (keeps_postEvent hs ..) ..
      · split
        · exact keeps_setGang hs ..
        · split
          · split
            · exact keeps_setGang hs ..
            · exact keeps_sendVote hs ..
          · exact keeps_sendVote hs ..

theorem keeps_execPrepare {s : State} (hs : I.holds s) (v : VoteFrame) : I.out (execPrepare v s) :=
  out_next (keeps_pollVotes (keeps_ite (keeps_prepareIn hs ..) (keeps_prepareOut hs ..)) ..)

theorem keeps_captureOn {s : State} (hs : I.holds s) (g : Nat) (ks : List Nat) : I.holds (captureOn s g ks) :=
  keeps_beside (keeps_foldl (fun _ _ hu => keeps_modCore hu ..) _ hs) ..

theorem keeps_captureCores {s : State} (hs : I.holds s) (g : Nat) : I.holds (captureCores s g) := keeps_captureOn hs ..

theorem keeps_execSwitchFreeze {s : State} (hs : I.holds s) (gang : Nat) : I.out (execSwitchFreeze gang s) :=
  out_ite (out_next (keeps_postPod (keeps_foldl (fun _ _ hu => keeps_capture hu ..) _ (keeps_modGang (keeps_setFab (keeps_beside
    (keeps_captureCores (keeps_finishDepartures hs ..) ..) ..) ..) ..)) ..)) (out_next hs)

theorem keeps_voteOut {s : State} (hs : I.holds s) (g : Nat) : I.holds (voteOut s g) :=
  keeps_ite (keeps_sendVote (keeps_modGang (keeps_when (keeps_takeFresh hs ..) fun h => keeps_postEvent h ..) ..) ..) hs

theorem keeps_voteIn {s : State} (hs : I.holds s) (g : Nat) : I.holds (voteIn s g) :=
  keeps_ite (keeps_ite (keeps_sendVote (keeps_setGang hs ..) ..) (keeps_ite (keeps_sendVote (keeps_setGang hs ..) ..) (keeps_ite
    (keeps_sendVote (keeps_setGang hs ..) ..) (keeps_ite (keeps_sendVote (keeps_setGang hs ..) ..) (keeps_ite (keeps_sendVote
    (keeps_setGang hs ..) ..) (keeps_sendVote (keeps_setGang (keeps_foldl (fun _ _ hu => keeps_postPod hu ..) _ (keeps_takeFresh
    hs ..)) ..) ..)))))) hs

theorem keeps_execVoteSend {s : State} (hs : I.holds s) (gang : Nat) (dirIn : Bool) : I.out (execVoteSend gang dirIn s) :=
  out_next (keeps_ite (keeps_voteIn hs ..) (keeps_voteOut hs ..))

theorem keeps_sendAbort {s : State} (hs : I.holds s) (g : Nat) (dirIn : Bool) (reason : BitVec 4) (chip : Nat) :
    I.holds (sendAbort s g dirIn reason chip) :=
  keeps_toMembers hs ..

theorem keeps_startAt {s : State} (hs : I.holds s) (g : Nat) (vs : List VoteFrame) : I.holds (startAt s g vs).2 := by
  unfold startAt
  split
  · exact keeps_takeFresh hs ..
  · exact hs

theorem keeps_decideOut {s : State} (hs : I.holds s) (g : Nat) (vs : List VoteFrame) : I.holds (decideOut s g vs) := by
  unfold decideOut
  split
  · exact keeps_sendAbort hs ..
  · exact keeps_ite (keeps_sendAbort hs ..) (keeps_toMembers hs ..)

theorem keeps_decideIn {s : State} (hs : I.holds s) (g : Nat) (vs : List VoteFrame) : I.holds (decideIn s g vs) := by
  unfold decideIn
  split
  · exact keeps_sendAbort hs ..
  · exact keeps_ite (keeps_sendAbort (keeps_startAt hs ..) ..) (keeps_toMembers (keeps_startAt hs ..) ..)

theorem keeps_execVote {s : State} (hs : I.holds s) (v : VoteFrame) : I.out (execVote v s) :=
  out_ite (out_next (keeps_unless (keeps_setGang hs ..) fun h => keeps_ite (keeps_decideIn h ..) (keeps_decideOut h ..)))
    (out_next hs)

theorem keeps_execCommit {s : State} (hs : I.holds s) (v : VoteFrame) : I.out (execCommit v s) :=
  out_ite (out_ite (out_next (keeps_postPod (keeps_when (keeps_setGang hs ..) fun h => keeps_post h ..) ..)) (out_next hs))
    (out_ite (out_next (keeps_pollVotes (keeps_postPod (keeps_beside (keeps_setGang hs ..) ..) ..) ..)) (out_next hs))

theorem keeps_abortOut {s : State} (hs : I.holds s) (v : VoteFrame) : I.holds (abortOut s v) :=
  keeps_markReleased (keeps_when (keeps_when (keeps_setGang hs ..) fun h => keeps_postEvent h ..) fun h => keeps_foldl (fun _ _
    hu => keeps_modCore hu ..) _ h) ..

theorem keeps_execAbort {s : State} (hs : I.holds s) (v : VoteFrame) : I.out (execAbort v s) :=
  out_ite (out_ite (out_next (keeps_setGang hs ..)) (out_next hs)) (out_ite (out_next (keeps_pollVotes (keeps_abortOut hs ..)
    ..)) (out_next hs))

theorem keeps_execOutVoteDeadline {s : State} (hs : I.holds s) (gang : Nat) : I.out (execOutVoteDeadline gang s) :=
  out_ite (out_next (keeps_sendAbort hs ..)) (out_next hs)

theorem keeps_execInVoteDeadline {s : State} (hs : I.holds s) (gang : Nat) : I.out (execInVoteDeadline gang s) :=
  out_ite (out_next (keeps_sendAbort hs ..)) (out_next hs)

theorem keeps_execVoteDeadline {s : State} (hs : I.holds s) (gang : Nat) : I.out (execVoteDeadline gang s) :=
  out_ite (out_next (keeps_abortGang (keeps_postEvent (keeps_setDead hs ..) ..) ..)) (out_next hs)

theorem keeps_imageWrite {s : State} (hs : I.holds s) (a : Nat) (bs : List Byte) : I.holds (imageWrite s a bs) :=
  keeps_putDev hs ..

theorem keeps_barriersOut {s : State} (hs : I.holds s) (g : Nat) : I.holds (barriersOut s g) := by
  unfold barriersOut
  exact keeps_modGang (keeps_beside hs ..) ..

theorem keeps_barriersIn {s : State} (hs : I.holds s) (g : Nat) : I.holds (barriersIn s g) := by
  unfold barriersIn
  exact keeps_modGang (keeps_foldl (fun _ _ hu => keeps_setBarrier hu ..) _ hs) ..

theorem keeps_execContextSave {s : State} (hs : I.holds s) (gang : Nat) : I.out (execContextSave gang s) :=
  out_ite (out_next (keeps_leaveGroups (keeps_retireLasting (keeps_barriersOut (keeps_setGang (keeps_foldl (fun _ _ hu =>
    keeps_post hu ..) _ (keeps_foldl (fun _ _ hu => keeps_modCore hu ..) _ (keeps_foldl (fun _ _ hu => keeps_setCore
    (keeps_beside hu ..) ..) _ hs))) ..) ..) ..) ..)) (out_next hs)

theorem keeps_applyWindows {s : State} (hs : I.holds s) (p : Nat) : I.holds (applyWindows s p) := by
  unfold applyWindows
  exact keeps_modPart hs ..

theorem keeps_configureHart {s : State} (hs : I.holds s) (h : Nat) (ws : List Word) : I.holds (configureHart s h ws) :=
  keeps_when (keeps_setHart hs ..) fun h => keeps_postPod h ..

theorem keeps_applyWaiting {s : State} (hs : I.holds s) (e : Nat × Nat × List Word) : I.holds (applyWaiting s e) := by
  unfold applyWaiting
  split
  · exact keeps_setGrpctl hs ..
  · exact keeps_configureHart hs ..

theorem keeps_releaseWaiting {s : State} (hs : I.holds s) (x : Nat) : I.holds (releaseWaiting s x) :=
  keeps_foldl (fun _ _ hu => keeps_applyWaiting hu ..) _ (keeps_setEnv hs ..)

theorem keeps_openWindow {s : State} (hs : I.holds s) (g : Nat) : I.holds (openWindow s g) :=
  keeps_releaseWaiting (keeps_applyWindows (keeps_ite (keeps_composeCtx (keeps_reserveSlots hs ..) ..) hs) ..) ..

theorem keeps_restoreCore {s : State} (hs : I.holds s) (x k : Nat) (img : Core) : I.holds (restoreCore s x k img) :=
  keeps_foldl (fun _ _ hu => keeps_takeRegion hu ..) _ (keeps_setCore hs ..)

theorem keeps_resumeGang {s : State} (hs : I.holds s) (g : Nat) : I.holds (resumeGang s g) :=
  keeps_settleHolds (keeps_setGang hs ..) ..

theorem keeps_checkDigest {s : State} (hs : I.holds s) (g : Nat) (ks : List Nat) : I.holds (checkDigest s g ks) :=
  keeps_when (keeps_modCtx hs ..) fun h => keeps_abortGang (keeps_postEvent h ..) ..

theorem keeps_restoreRun {s : State} (hs : I.holds s) (g : Nat) : I.holds (restoreRun s g) :=
  keeps_checkDigest (keeps_foldl (fun _ _ hu => keeps_modCore hu ..) _ (keeps_resumeGang (keeps_modGang (keeps_foldl (fun _ _ hu
    => keeps_modCore hu ..) _ (keeps_barriersIn (keeps_foldl (fun _ _ hu => keeps_restoreCore hu ..) _ (keeps_beside hs ..))
    ..)) ..) ..)) ..

theorem keeps_loadKeys {s : State} (hs : I.holds s) (x : Nat) : I.holds (loadKeys s x) :=
  keeps_foldl (fun _ _ hu => keeps_ite (keeps_setAuth (keeps_takeFresh hu ..) ..) hu) _ hs

theorem keeps_startRun {s : State} (hs : I.holds s) (g : Nat) : I.holds (startRun s g) := by
  unfold startRun
  dsimp only
  split
  · exact keeps_refuseRequest (keeps_setGang hs ..) ..
  · exact keeps_startCycle (keeps_postGang (keeps_postGangDeed (keeps_modGang (keeps_loadKeys (keeps_admitRun hs ..) ..) ..) ..)
      ..) ..

theorem keeps_turnAway {s : State} (hs : I.holds s) (g : Nat) : I.holds (turnAway s g) :=
  keeps_ite (keeps_abortGang hs ..) (keeps_leekMembers (keeps_setGang hs ..) ..)

theorem keeps_execSwitchIn {s : State} (hs : I.holds s) (gang : Nat) : I.out (execSwitchIn gang s) :=
  out_ite (out_ite (out_next (keeps_turnAway hs ..)) (out_next (keeps_ite (keeps_restoreRun (keeps_openWindow hs ..) ..)
    (keeps_startRun (keeps_openWindow hs ..) ..)))) (out_next hs)

theorem keeps_cellsTakeEffect {s : State} (hs : I.holds s) (row : Nat) : I.holds (cellsTakeEffect s row) := keeps_setAuth hs ..

theorem keeps_revokeContext {s : State} (hs : I.holds s) (x : Nat) : I.holds (revokeContext s x) := by
  unfold revokeContext
  exact keeps_postEvent (keeps_unless (keeps_modCtx hs ..) fun h => keeps_abortGang h ..) ..

theorem keeps_rowsGoOn {s : State} (hs : I.holds s) : I.holds (rowsGoOn s) :=
  keeps_foldl (fun _ _ hu => keeps_modGang hu ..) _ hs

theorem keeps_restIslands {s : State} (hs : I.holds s) : I.holds (restIslands s) := keeps_setHouse hs ..

theorem keeps_recompose {s : State} (hs : I.holds s) (row : Nat) : I.holds (recompose s row) :=
  keeps_foldl (fun _ _ hu => keeps_ite hu (keeps_composeCtx hu ..)) _ hs

theorem keeps_putAway {s : State} (hs : I.holds s) (kind : Nat) (keys : List Nat) : I.holds (putAway s kind keys) := by
  unfold putAway
  split
  · exact keeps_foldl (fun _ _ hu => keeps_setFab hu ..) _ hs
  · exact keeps_foldl (fun _ _ hu => keeps_setHart hu ..) _ hs
  · exact hs

theorem keeps_execSlotBoundary {s : State} (hs : I.holds s) : I.out (execSlotBoundary s) :=
  out_next (keeps_beside (keeps_foldl (fun _ _ hu => keeps_applyWindows hu ..) _ (keeps_recompose (keeps_reserveSlots
    (keeps_restIslands (keeps_foldl (fun _ _ hu => keeps_putAway hu ..) _ (keeps_setAuth (keeps_foldl (fun _ _ hu =>
    keeps_revokeContext hu ..) _ (keeps_rowsGoOn (keeps_cellsTakeEffect hs ..) ..)) ..)) ..) ..) ..)) ..)

/-! Authority pages and commands (R305 to R321). -/

theorem keeps_done {s : State} (hs : I.holds s) : I.answer (done s) := answer_ok hs _

theorem keeps_remeasure {s : State} (hs : I.holds s) : I.holds (remeasure s) := keeps_setAuth (keeps_takeFresh hs ..) ..

theorem keeps_cellTo {s : State} (hs : I.holds s) (key part : Nat) (clear : Bool) : I.holds (cellTo s key part clear) :=
  keeps_setAuth hs ..

theorem keeps_cutShares {s : State} (hs : I.holds s) (p w : Nat) : I.holds (cutShares s p w) := by
  refine keeps_snd_foldl (fun b e hb => ?_) _ hs
  exact keeps_ite hb (keeps_modPart hb _ _)

theorem keeps_setPower {s : State} (hs : I.holds s) (q w : Nat) : I.holds (setPower s q w) :=
  keeps_cutShares (keeps_modPart hs ..) ..

theorem keeps_capShares {s : State} (hs : I.holds s) : I.holds (capShares s) :=
  keeps_foldl (fun _ _ hu => keeps_cutShares hu ..) _ (keeps_cutShares hs ..)

theorem keeps_doGrant {s : State} (hs : I.holds s) (p : Nat) (rights : BitVec 7) (a : Nat → Nat) :
    I.answer (doGrant s p rights a) := by
  unfold doGrant
  dsimp only
  split
  · exact answer_ite (answer_error _) (answer_ite (answer_error _) (answer_ite (answer_error _) (answer_ite (answer_error _)
      (answer_ite (answer_error _) (answer_ite (answer_error _) (answer_ite (answer_error _) (keeps_done (keeps_remeasure
      (keeps_when (keeps_ite (keeps_setPower hs ..) (keeps_modPart hs ..)) fun h => keeps_foldl (fun _ _ hu => keeps_cellTo hu
      ..) _ h) ..) ..)))))))
  · exact answer_error _

theorem keeps_withdraw {s : State} (hs : I.holds s) (p q kind : Nat) (keys : List Nat) (atOnce : Bool) :
    I.holds (withdraw s p q kind keys atOnce) :=
  keeps_ite (keeps_foldl (fun _ _ hu => keeps_cellTo hu ..) _ (keeps_modPart hs ..)) (keeps_ite (keeps_putAway (keeps_modPart hs
    ..) ..) (keeps_unless (keeps_modPart hs ..) fun h => keeps_setAuth h ..))

theorem keeps_doRevoke {s : State} (hs : I.holds s) (p : Nat) (a : Nat → Nat) : I.answer (doRevoke s p a) := by
  unfold doRevoke
  dsimp only
  split
  · exact answer_ite (answer_error _) (answer_ite (answer_error _) (answer_ite (answer_error _) (keeps_done (keeps_remeasure
      (keeps_ite (keeps_foldl (fun _ _ hu => keeps_revokeContext hu ..) _ (keeps_when (keeps_ite (keeps_setPower hs ..)
      (keeps_foldl (fun _ _ hu => keeps_withdraw hu ..) _ hs)) fun h => keeps_postEvent h ..)) (keeps_foldl (fun _ _ hu =>
      keeps_modCtx hu ..) _ (keeps_when (keeps_ite (keeps_setPower hs ..) (keeps_foldl (fun _ _ hu => keeps_withdraw hu ..) _
      hs)) fun h => keeps_postEvent h ..))) ..) ..)))
  · exact answer_error _

theorem keeps_doRights {s : State} (hs : I.holds s) (p : Nat) (rights : BitVec 7) (a : Nat → Nat) :
    I.answer (doRights s p rights a) := by
  unfold doRights
  split
  · exact answer_error _
  · exact answer_ite (answer_error _) (answer_ite (answer_error _) (keeps_done (keeps_remeasure (keeps_foldl (fun _ _ hu =>
      keeps_ite hu (keeps_modPart hu ..)) _ (keeps_modPart hs ..)) ..) ..))

theorem keeps_doIfcfg {s : State} (hs : I.holds s) (p : Nat) (a : Nat → Nat) : I.answer (doIfcfg s p a) :=
  answer_ite (answer_error _) (keeps_done (keeps_modPart hs ..) ..)

theorem keeps_doDistcfg {s : State} (hs : I.holds s) (p : Nat) (a : Nat → Nat) : I.answer (doDistcfg s p a) := by
  unfold doDistcfg
  split
  · exact answer_error _
  · exact answer_ite (answer_error _) (answer_ite (answer_error _) (answer_ite (answer_error _) (keeps_done (keeps_modPart hs
      ..) ..)))

theorem keeps_doCoreset {s : State} (hs : I.holds s) (p : Nat) (a : Nat → Nat) : I.answer (doCoreset s p a) := by
  unfold doCoreset
  split
  · exact answer_ite (answer_error _) (answer_error _)
  · exact answer_ite (answer_error _) (answer_ite (answer_error _) (answer_ite (answer_error _) (answer_ite (answer_error _)
      (answer_ite (answer_error _) (keeps_done (keeps_setAuth hs ..) ..)))))

theorem keeps_doCtxcreate {s : State} (hs : I.holds s) (p : Nat) (a : Nat → Nat) : I.answer (doCtxcreate s p a) := by
  unfold doCtxcreate
  dsimp only
  split
  · exact answer_error _
  · split
    · exact answer_error _
    · split
      · exact answer_error _
      · split
        · exact answer_error _
        · exact answer_ok (keeps_setCtx hs ..) _

theorem keeps_doCtxmap {s : State} (hs : I.holds s) (p : Nat) (a : Nat → Nat) : I.answer (doCtxmap s p a) :=
  answer_ite (answer_error _) (answer_ite (answer_error _) (answer_ite (answer_error _) (keeps_done (keeps_modCtx hs ..) ..)))

theorem keeps_doCtxdestroy {s : State} (hs : I.holds s) (p : Nat) (a : Nat → Nat) : I.answer (doCtxdestroy s p a) :=
  answer_ite (answer_error _) (keeps_done (keeps_setAuth (keeps_modPart (keeps_unless (keeps_when (keeps_revokeContext hs ..)
    fun h => keeps_scrubContext h ..) fun h => keeps_setGang h ..) ..) ..) ..)

theorem keeps_doGang {s : State} (hs : I.holds s) (p : Nat) (a : Nat → Nat) : I.answer (doGang s p a) :=
  answer_ite (answer_error _) (answer_ite (answer_error _) (answer_ite (answer_error _) (keeps_done (keeps_setGang (keeps_modCtx
    hs ..) ..) ..)))

theorem keeps_doCell {s : State} (hs : I.holds s) (p : Nat) (a : Nat → Nat) : I.answer (doCell s p a) :=
  answer_ite (answer_error _) (answer_ite (answer_error _) (answer_ite (answer_error _) (keeps_done (keeps_setAuth hs ..) ..)))

theorem keeps_doLinkshare {s : State} (hs : I.holds s) (p : Nat) (a : Nat → Nat) : I.answer (doLinkshare s p a) :=
  answer_ite (answer_error _) (answer_ite (answer_error _) (keeps_done (keeps_setFab hs ..) ..))

theorem keeps_doHostwin {s : State} (hs : I.holds s) (p : Nat) (a : Nat → Nat) : I.answer (doHostwin s p a) :=
  answer_ite (answer_error _) (answer_ite (answer_error _) (keeps_done (keeps_modPart hs ..) ..))

theorem keeps_doAperture {s : State} (hs : I.holds s) (p : Nat) (a : Nat → Nat) : I.answer (doAperture s p a) :=
  answer_ite (keeps_done (keeps_modPart hs ..) ..) (answer_ite (answer_error _) (answer_ite (answer_error _) (keeps_done
    (keeps_modPart hs ..) ..)))

theorem keeps_doMboxcfg {s : State} (hs : I.holds s) (p : Nat) (a : Nat → Nat) : I.answer (doMboxcfg s p a) := by
  unfold doMboxcfg
  dsimp only
  split
  · exact answer_error _
  · split
    · exact answer_error _
    · split
      · exact keeps_done (keeps_writeGrpctl hs ..) ..
      · exact keeps_done (keeps_writeGrpactive hs ..) ..
      · exact keeps_done (keeps_writeEpnext hs ..) ..
      · exact answer_error _

theorem keeps_doHartcfg {s : State} (hs : I.holds s) (p : Nat) (a : Nat → Nat) : I.answer (doHartcfg s p a) :=
  answer_ite (answer_error _) (answer_ite (answer_error _) (answer_ite (answer_error _) (answer_ite (answer_error _) (answer_ite
    (answer_error _) (answer_ite (answer_error _) (answer_ite (keeps_done (keeps_setEnv hs ..) ..) (keeps_done
    (keeps_configureHart hs ..) ..)))))))

theorem keeps_debugStop {s : State} (hs : I.holds s) (k : Nat) (r : Raise) (rs : List Raise) : I.holds (debugStop s k r rs) :=
  keeps_unless (keeps_modCore hs ..) fun h => keeps_announceHold (keeps_captureOn (keeps_storeImage h ..) ..) ..

theorem keeps_writeImageBytes {s : State} (hs : I.holds s) (x k : Nat) (bs : List Byte) :
    I.holds (writeImageBytes s x k bs) := by
  unfold writeImageBytes
  split
  · exact keeps_putDev hs ..
  · exact hs

theorem keeps_putImage {s : State} (hs : I.holds s) (x k : Nat) (c : Core) : I.holds (putImage s x k c) :=
  keeps_ite (keeps_beside hs ..) (keeps_setCore hs ..)

theorem keeps_doDebug {s : State} (hs : I.holds s) (p : Nat) (a : Nat → Nat) : I.answer (doDebug s p a) := by
  unfold doDebug
  dsimp only
  split
  · exact answer_error _
  · split
    · exact keeps_done (keeps_foldl (fun _ _ hu => keeps_modCore hu ..) _ (keeps_modCtx hs ..)) ..
    · exact keeps_done (keeps_foldl (fun _ _ hu => keeps_modCore hu ..) _ (keeps_modCtx hs ..)) ..
    · split
      · exact answer_ite (keeps_done (keeps_debugStop (keeps_takeFresh hs ..) ..) ..) (answer_error _)
      · exact answer_error _
    · split
      · exact answer_error _
      · exact answer_ite (answer_error _) (answer_ok (keeps_putHost hs ..) _)
    · split
      · exact answer_error _
      · exact answer_ite (answer_error _) (answer_ok (keeps_putImage (keeps_modGang (keeps_placeEntries (keeps_writeImageBytes
          (keeps_modCtx hs ..) ..) ..) ..) ..) _)
    · exact answer_error _

theorem keeps_doHoldrel {s : State} (hs : I.holds s) (p : Nat) (rights : BitVec 7) (a : Nat → Nat) :
    I.answer (doHoldrel s p rights a) := by
  unfold doHoldrel
  split
  · exact answer_ite (answer_error _) (answer_ite (answer_error _) (answer_ite (answer_error _) (keeps_done (keeps_when
      (keeps_foldl (fun _ _ hu => keeps_leekMembers (keeps_markReleased hu ..) ..) _ hs) fun h => keeps_checkDigest h ..) ..)))
  · exact answer_ite (answer_error _) (answer_ite (answer_error _) (answer_ite (answer_error _) (keeps_done (keeps_when
      (keeps_foldl (fun _ _ hu => keeps_leekMembers (keeps_markReleased hu ..) ..) _ hs) fun h => keeps_checkDigest h ..) ..)))
  · exact answer_error _

theorem keeps_doCounters {s : State} (hs : I.holds s) (p : Nat) (a : Nat → Nat) : I.answer (doCounters s p a) :=
  answer_ite (answer_error _) (answer_ok (keeps_putHost hs ..) _)

theorem keeps_doReport {s : State} (hs : I.holds s) (p : Nat) (a : Nat → Nat) : I.answer (doReport s p a) :=
  answer_ite (answer_error _) (answer_ite (answer_error _) (answer_ok (keeps_putHost hs ..) _))

theorem keeps_runCommand {s : State} (hs : I.holds s) (p op : Nat) (rights : BitVec 7) (a : Nat → Nat) :
    I.answer (runCommand s p op rights a) := by
  unfold runCommand
  split
  · exact answer_error _
  · split
    · exact keeps_doGrant hs ..
    · exact keeps_doRevoke hs ..
    · exact keeps_doRights hs ..
    · exact keeps_doIfcfg hs ..
    · exact keeps_doCoreset hs ..
    · exact keeps_doCtxcreate hs ..
    · exact keeps_doCtxmap hs ..
    · exact keeps_doCtxdestroy hs ..
    · exact keeps_doGang hs ..
    · exact keeps_doCell hs ..
    · exact keeps_doLinkshare hs ..
    · exact keeps_doHostwin hs ..
    · exact keeps_doAperture hs ..
    · exact keeps_doMboxcfg hs ..
    · exact keeps_doHartcfg hs ..
    · exact keeps_doDistcfg hs ..
    · exact keeps_doDebug hs ..
    · exact keeps_doHoldrel hs ..
    · exact keeps_doCounters hs ..
    · exact keeps_doReport hs ..
    · exact answer_error _

theorem keeps_setTdisp {s : State} (hs : I.holds s) (v : Nat) (t : Tdisp) : I.holds (setTdisp s v t) :=
  keeps_ite hs (keeps_setAuth (keeps_postEvent hs ..) ..)

theorem keeps_tearContext {s : State} (hs : I.holds s) (x : Nat) : I.holds (tearContext s x) :=
  keeps_ite hs (keeps_abortGang hs ..)

theorem keeps_tearVf {s : State} (hs : I.holds s) (v : Nat) : I.holds (tearVf s v) :=
  keeps_foldl (fun _ _ hu => keeps_tearContext hu ..) _ hs

theorem keeps_failVf {s : State} (hs : I.holds s) (v : Nat) : I.holds (failVf s v) :=
  keeps_ite (keeps_setTdisp (keeps_tearVf hs ..) ..) hs

theorem keeps_endCommand {r : Answer} {s : State} (hs : I.holds s) (hr : I.answer r) (p op : Nat) :
    I.holds (endCommand s p op r) := by
  unfold endCommand
  cases r with
  | ok r => exact keeps_postEvent (keeps_modPart (hr.ok r.1 r.2 rfl) ..) ..
  | error e => exact keeps_postEvent (keeps_modPart (keeps_ite (keeps_failVf hs ..) hs) ..) ..

theorem keeps_completeCommand {s : State} (hs : I.holds s) (p op : Nat) : I.holds (completeCommand s p op) := by
  unfold completeCommand
  exact keeps_ite hs (keeps_ite (keeps_post hs ..) (keeps_endCommand hs (keeps_runCommand hs ..) ..))

theorem keeps_pacmdAs {s : State} (hs : I.holds s) (p op : Nat) (fix : List Word → List Word) : I.holds (pacmdAs p op fix s) :=
  keeps_ite hs (keeps_post (keeps_setPart (keeps_takeFresh hs ..) ..) ..)

theorem keeps_pacmd {s : State} (hs : I.holds s) (p op : Nat) : I.holds (pacmd p op s) := keeps_pacmdAs hs ..

theorem keeps_execGrant {s : State} (hs : I.holds s) (vdid : Nat) : I.out (execGrant vdid s) := out_next (keeps_pacmd hs ..)

theorem keeps_execRevokeBoundary {s : State} (hs : I.holds s) (vdid : Nat) : I.out (execRevokeBoundary vdid s) :=
  out_next (keeps_pacmdAs hs ..)

theorem keeps_execRevokeAtOnce {s : State} (hs : I.holds s) (vdid : Nat) : I.out (execRevokeAtOnce vdid s) :=
  out_next (keeps_pacmdAs hs ..)

theorem keeps_execRights {s : State} (hs : I.holds s) (vdid : Nat) : I.out (execRights vdid s) := out_next (keeps_pacmd hs ..)

theorem keeps_execIfcfg {s : State} (hs : I.holds s) (vdid : Nat) : I.out (execIfcfg vdid s) := out_next (keeps_pacmd hs ..)

theorem keeps_execCoreset {s : State} (hs : I.holds s) (vdid : Nat) : I.out (execCoreset vdid s) := out_next (keeps_pacmd hs ..)

theorem keeps_execCtxcreate {s : State} (hs : I.holds s) (vdid : Nat) : I.out (execCtxcreate vdid s) :=
  out_next (keeps_pacmd hs ..)

theorem keeps_execCtxmap {s : State} (hs : I.holds s) (vdid : Nat) : I.out (execCtxmap vdid s) := out_next (keeps_pacmd hs ..)

theorem keeps_execCtxdestroy {s : State} (hs : I.holds s) (vdid : Nat) : I.out (execCtxdestroy vdid s) :=
  out_next (keeps_pacmd hs ..)

theorem keeps_execGang {s : State} (hs : I.holds s) (vdid : Nat) : I.out (execGang vdid s) := out_next (keeps_pacmd hs ..)

theorem keeps_execCell {s : State} (hs : I.holds s) (vdid : Nat) : I.out (execCell vdid s) := out_next (keeps_pacmd hs ..)

theorem keeps_execLinkshare {s : State} (hs : I.holds s) (vdid : Nat) : I.out (execLinkshare vdid s) :=
  out_next (keeps_pacmdAs hs ..)

theorem keeps_execLinkshareClear {s : State} (hs : I.holds s) (vdid : Nat) : I.out (execLinkshareClear vdid s) :=
  out_next (keeps_pacmdAs hs ..)

theorem keeps_execHostwin {s : State} (hs : I.holds s) (vdid : Nat) : I.out (execHostwin vdid s) := out_next (keeps_pacmd hs ..)

theorem keeps_execAperture {s : State} (hs : I.holds s) (vdid : Nat) : I.out (execAperture vdid s) :=
  out_next (keeps_pacmdAs hs ..)

theorem keeps_execApertureClear {s : State} (hs : I.holds s) (vdid : Nat) : I.out (execApertureClear vdid s) :=
  out_next (keeps_pacmdAs hs ..)

theorem keeps_execMboxcfgGrpctl {s : State} (hs : I.holds s) (vdid : Nat) : I.out (execMboxcfgGrpctl vdid s) :=
  out_next (keeps_pacmdAs hs ..)

theorem keeps_execMboxcfgGrpactive {s : State} (hs : I.holds s) (vdid : Nat) : I.out (execMboxcfgGrpactive vdid s) :=
  out_next (keeps_pacmdAs hs ..)

theorem keeps_execMboxcfgEpnext {s : State} (hs : I.holds s) (vdid : Nat) : I.out (execMboxcfgEpnext vdid s) :=
  out_next (keeps_pacmdAs hs ..)

theorem keeps_execHartcfg {s : State} (hs : I.holds s) (vdid : Nat) : I.out (execHartcfg vdid s) := out_next (keeps_pacmd hs ..)

theorem keeps_execDistcfg {s : State} (hs : I.holds s) (vdid : Nat) : I.out (execDistcfg vdid s) := out_next (keeps_pacmd hs ..)

theorem keeps_execDebugStopOff {s : State} (hs : I.holds s) (vdid : Nat) : I.out (execDebugStopOff vdid s) :=
  out_next (keeps_pacmdAs hs ..)

theorem keeps_execDebugStopOn {s : State} (hs : I.holds s) (vdid : Nat) : I.out (execDebugStopOn vdid s) :=
  out_next (keeps_pacmdAs hs ..)

theorem keeps_execDebugHalt {s : State} (hs : I.holds s) (vdid : Nat) : I.out (execDebugHalt vdid s) :=
  out_next (keeps_pacmdAs hs ..)

theorem keeps_execDebugImageRead {s : State} (hs : I.holds s) (vdid : Nat) : I.out (execDebugImageRead vdid s) :=
  out_next (keeps_pacmdAs hs ..)

theorem keeps_execDebugImageWrite {s : State} (hs : I.holds s) (vdid : Nat) : I.out (execDebugImageWrite vdid s) :=
  out_next (keeps_pacmdAs hs ..)

theorem keeps_execHoldrel {s : State} (hs : I.holds s) (vdid : Nat) : I.out (execHoldrel vdid s) := out_next (keeps_pacmd hs ..)

theorem keeps_execCounters {s : State} (hs : I.holds s) (vdid : Nat) : I.out (execCounters vdid s) :=
  out_next (keeps_pacmd hs ..)

theorem keeps_execReport {s : State} (hs : I.holds s) (vdid : Nat) : I.out (execReport vdid s) := out_next (keeps_pacmd hs ..)

theorem keeps_execPacmdInvalidOp {s : State} (hs : I.holds s) (vdid : Nat) (op : BitVec 8) :
    I.out (execPacmdInvalidOp vdid op s) :=
  out_next (keeps_pacmd hs ..)

/-! Power, heat, errors and resets. -/

theorem keeps_answerHost {s : State} (hs : I.holds s) (p slot offset status : Nat) :
    I.holds (answerHost s p slot offset status) :=
  keeps_setAuth hs ..

theorem keeps_execHostApertureAccess {s : State} (hs : I.holds s) (vdid slot offset : Nat) (write : Bool) (data : List (BitVec
  8)) :
    I.out (execHostApertureAccess vdid slot offset write data s) := by
  unfold execHostApertureAccess
  split
  · exact out_next (keeps_answerHost hs ..)
  · exact out_next (keeps_sendUntimed hs ..)

theorem keeps_writePage {s : State} (hs : I.holds s) (p off : Nat) (v : Word) : I.holds (writePage s p off v) :=
  keeps_ite (keeps_modPart hs ..) (keeps_ite (keeps_modPart hs ..) (keeps_ite (keeps_modPart hs ..) (keeps_ite (keeps_modPart hs
    ..) (keeps_ite (keeps_modPart hs ..) (keeps_ite (keeps_modPart hs ..) (keeps_ite (keeps_modPart hs ..) (keeps_ite (keeps_ite
    (keeps_modPart hs ..) hs) (keeps_ite (keeps_pacmd hs ..) (keeps_ite hs (keeps_ite (keeps_capShares (keeps_setHouse hs ..)
    ..) (keeps_ite (keeps_ite (keeps_setHouse hs ..) hs) (keeps_ite (keeps_setHouse hs ..) (keeps_ite (keeps_setHouse hs ..)
    (keeps_ite (keeps_setHouse hs ..) (keeps_ite (keeps_setHouse hs ..) (keeps_ite (keeps_setHouse hs ..) hs))))))))))))))))

theorem keeps_execRegisterWrite {s : State} (hs : I.holds s) (vdid offset : Nat) (value : BitVec 64) :
    I.out (execRegisterWrite vdid offset value s) :=
  out_ite (out_next hs) (out_next (keeps_writePage hs ..))

theorem keeps_execMsixVectorUnmask {s : State} (hs : I.holds s) (vdid vector : Nat) :
    I.out (execMsixVectorUnmask vdid vector s) :=
  out_ite (out_next hs) (out_next (keeps_when (keeps_setPart hs ..) fun h => keeps_setAuth h ..))

theorem keeps_execSlotMatrixRowsAndLength {s : State} (hs : I.holds s) (rows k : Nat) :
    I.out (execSlotMatrixRowsAndLength rows k s) :=
  out_ite (out_next (keeps_setAuth hs ..)) (out_next hs)

theorem keeps_execLockInterfaceRequest {s : State} (hs : I.holds s) (vf : Nat) : I.out (execLockInterfaceRequest vf s) :=
  out_next (keeps_ite (keeps_setTdisp hs ..) hs)

theorem keeps_execStartInterfaceRequest {s : State} (hs : I.holds s) (vf : Nat) : I.out (execStartInterfaceRequest vf s) :=
  out_next (keeps_ite (keeps_setTdisp hs ..) hs)

theorem keeps_tdispStop {s : State} (hs : I.holds s) (vf : Nat) : I.holds (tdispStop s vf) :=
  keeps_ite (keeps_post hs ..) (keeps_setTdisp hs ..)

theorem keeps_execStopInterfaceRequest {s : State} (hs : I.holds s) (vf : Nat) : I.out (execStopInterfaceRequest vf s) := by
  unfold execStopInterfaceRequest
  split
  · exact out_next hs
  · exact out_next (keeps_tdispStop hs ..)
  · exact out_next (keeps_tdispStop (keeps_tearVf hs ..) ..)

theorem keeps_execFrozenConfigurationChange {s : State} (hs : I.holds s) (vf : Nat) :
    I.out (execFrozenConfigurationChange vf s) :=
  out_next (keeps_failVf hs ..)

theorem keeps_execFunctionLevelReset {s : State} (hs : I.holds s) (vf : Nat) : I.out (execFunctionLevelReset vf s) :=
  out_next (keeps_tdispStop (keeps_when (keeps_foldl (fun _ _ hu => keeps_revokeContext hu ..) _ hs) fun h => keeps_setTdisp h
    ..) ..)

theorem keeps_execIdeKm {s : State} (hs : I.holds s) (stream : Nat) (key : BitVec 256) : I.out (execIdeKm stream key s) :=
  out_next (keeps_ite (keeps_setAuth hs ..) hs)

theorem keeps_execIdeIntegrityFailure {s : State} (hs : I.holds s) (stream : Nat) : I.out (execIdeIntegrityFailure stream s) :=
  out_next (keeps_ite (keeps_failVf hs ..) (keeps_postEvent hs ..))

theorem keeps_execSpdmRequest {s : State} (hs : I.holds s) (block : Nat) : I.out (execSpdmRequest block s) :=
  out_next (keeps_setAuth hs ..)

theorem keeps_execGetDeviceInterfaceReport {s : State} (hs : I.holds s) (vf : Nat) :
    I.out (execGetDeviceInterfaceReport vf s) :=
  out_next (keeps_setAuth hs ..)

theorem keeps_capPower {s : State} (hs : I.holds s) (fs : List (Nat × Nat)) (p share n : Nat) :
    I.holds (capPower fs p share n s) := by
  induction n generalizing s with
  | zero => exact hs
  | succ n ih =>
    unfold capPower
    dsimp only
    refine keeps_ite hs ?_
    split
    · exact hs
    · exact ih (keeps_postEvent (keeps_setHouse (keeps_announceHold hs ..) ..) ..)

theorem keeps_easePower {s : State} (hs : I.holds s) (fs : List (Nat × Nat)) (p share : Nat) :
    I.holds (easePower fs p share s) := by
  unfold easePower
  split
  · exact hs
  · exact keeps_ite (keeps_setHouse hs ..) (keeps_ite (keeps_setHouse hs ..) (keeps_releaseHolds (keeps_setHouse hs ..) ..))

theorem keeps_execPowerForecast {s : State} (hs : I.holds s) (forecast : List (Nat × Nat)) :
    I.out (execPowerForecast forecast s) :=
  out_next (keeps_foldl (fun _ _ hu => keeps_capPower (keeps_easePower hu ..) ..) _ (keeps_setHouse (keeps_takeFresh hs ..) ..))

theorem keeps_emergencyFreeze {s : State} (hs : I.holds s) (kind : Nat) : I.holds (emergencyFreeze s kind) :=
  keeps_foldl (fun _ _ hu => keeps_desync hu ..) _ (keeps_postPlatform (keeps_countLife (keeps_setHouse hs ..) ..) ..)

theorem keeps_thermalHolds {s : State} (hs : I.holds s) (fs : List Nat) : I.holds (thermalHolds fs s) :=
  keeps_when (keeps_foldl (fun _ _ hu => keeps_ite (keeps_foldl (fun _ _ hu => keeps_releaseHolds hu ..) _ hu) hu) _ hs) fun h
    => keeps_foldl (fun _ _ hu => keeps_ite hu (keeps_announceHold hu ..)) _ h

theorem keeps_execThermalSample {s : State} (hs : I.holds s) (temps forecasts : List Nat) :
    I.out (execThermalSample temps forecasts s) :=
  out_next (keeps_ite (keeps_emergencyFreeze (keeps_setHouse (keeps_foldl (fun _ _ hu => keeps_countLife (keeps_countLife hu ..)
    ..) _ hs) ..) ..) (keeps_thermalHolds (keeps_setHouse (keeps_foldl (fun _ _ hu => keeps_countLife (keeps_countLife hu ..)
    ..) _ hs) ..) ..))

theorem keeps_execThw {s : State} (hs : I.holds s) : I.out (execThw s) := out_next (keeps_emergencyFreeze hs ..)

theorem keeps_execIemer {s : State} (hs : I.holds s) : I.out (execIemer s) := out_next (keeps_emergencyFreeze hs ..)

theorem keeps_execIslandWake {s : State} (hs : I.holds s) (island : Fin 16) : I.out (execIslandWake island s) :=
  out_next (keeps_setHouse hs ..)

theorem keeps_housekeeperWrite {s : State} (hs : I.holds s) (addr : Nat) (data : List Byte) :
    I.holds (housekeeperWrite s addr data) :=
  keeps_ite (keeps_putHost hs ..) (keeps_setHouse hs ..)

theorem keeps_restartDecays {s : State} (hs : I.holds s) : I.holds (restartDecays s) :=
  keeps_foldl (fun _ _ hu => keeps_postPod (keeps_setHouse hu ..) ..) _ hs

theorem keeps_afterReset (s : State) (pod : Nat) (f : Fabric) (step : Nat) :
    canonInv.holds (afterReset s pod f step) := by
  unfold afterReset
  exact keeps_restartDecays (canonical_of_empty rfl rfl)

theorem keeps_powerUp (s : State) (step : Nat) : canonInv.holds (powerUp s step) :=
  keeps_afterReset ..

theorem keeps_setTrained {s : State} (hs : I.holds s) (n : Nat) (ok : Bool) : I.holds (setTrained s n ok) :=
  keeps_setHouse hs ..

theorem keeps_trainStack {s : State} (hs : I.holds s) (n : Nat) : I.holds (trainStack s n) :=
  keeps_setTrained (keeps_setHouse (keeps_takeFresh hs ..) ..) ..

theorem keeps_restoreTraining {s : State} (hs : I.holds s) (n : Nat) : I.holds (restoreTraining s n) :=
  keeps_ite (keeps_setTrained (keeps_takeFresh hs ..) ..) (keeps_post (keeps_setTrained (keeps_takeFresh hs ..) ..) ..)

theorem keeps_restartScrubs {s : State} (hs : I.holds s) : I.holds (restartScrubs s) :=
  keeps_foldl (fun _ _ hu => keeps_foldl (fun _ _ hu => keeps_ite hu (keeps_ite (keeps_postScrub (keeps_setScrub hu ..) ..)
    (keeps_setScrub hu ..))) _ hu) _ hs

theorem keeps_finishScrubs {s : State} (hs : I.holds s) : I.holds (finishScrubs s) :=
  keeps_setHouse (keeps_beside (keeps_foldl (fun _ _ hu => keeps_foldl (fun _ _ hu => keeps_foldl (fun _ _ hu => keeps_scrubOne
    hu ..) _ hu) _ hu) _ hs) ..) ..

theorem keeps_recordBoot {s : State} (hs : I.holds s) : I.holds (recordBoot s) := keeps_setAuth (keeps_takeFresh hs ..) ..

theorem keeps_execColdBoot (s : State) (ok : Nat) : canonInv.out (execColdBoot ok s) :=
  out_next (keeps_setHouse (keeps_when (keeps_when (keeps_recordBoot (keeps_powerUp ..) ..) fun h => keeps_foldl (fun _ _ hu
    => keeps_trainStack hu ..) _ h) fun h => keeps_finishScrubs h ..) ..)

theorem keeps_execWarmReset (s : State) : canonInv.out (execWarmReset s) :=
  out_next (keeps_foldl (fun _ _ hu => keeps_ite hu (keeps_postScrub hu ..)) _ (keeps_beside (keeps_setDram (keeps_when
    (keeps_setHouse (keeps_recordBoot (keeps_afterReset ..) ..) ..) fun h => keeps_foldl (fun _ _ hu =>
    keeps_restoreTraining hu ..) _ h) ..) ..))

theorem keeps_execStandbyPowerLoss (s : State) : canonInv.out (execStandbyPowerLoss s) :=
  out_next (keeps_restartScrubs (keeps_powerUp ..) ..)

end Sys2Proof.Machine
end

section
/-! PROOF. What writes cores and gangs only through their setters keeps such a property: the matrix unit and the step. -/

namespace Sys2Proof.Machine

variable {I : TableInv}

/-! The matrix unit. -/

theorem keeps_microFault {s : State} (hs : I.holds s) (sub : Nat) : I.holds (microFault s sub) := keeps_modMe hs ..

theorem keeps_unitFault {s : State} (hs : I.holds s) (code a b : Nat) : I.holds (unitFault s code a b) := keeps_modMe hs ..

theorem keeps_unitFaults {s : State} (hs : I.holds s) (fs : List (Nat × Nat × Nat)) : I.holds (unitFaults s fs) :=
  keeps_foldl (fun _ _ hu => keeps_unitFault hu ..) _ hs

theorem keeps_microNext {s : State} (hs : I.holds s) (cycles next : Nat) : I.holds (microNext s cycles next) :=
  keeps_postDeed (keeps_modMe hs ..) ..

theorem keeps_microStep {s : State} (hs : I.holds s) : I.holds (microStep s) := keeps_microNext hs ..

theorem keeps_settleReads {s : State} (hs : I.holds s) (k : Nat) : I.holds (settleReads s k) := by
  unfold settleReads
  exact keeps_modCore hs ..

theorem keeps_unitRead {s : State} (hs : I.holds s) (k q n sn part : Nat) : I.holds (unitRead s k q n sn part).1 := by
  unfold unitRead
  dsimp only
  split
  · dsimp only
    exact keeps_modCore hs ..
  · dsimp only
    exact keeps_modCore (keeps_raceScratchRead hs ..) ..

theorem keeps_mxReadA {s : State} (hs : I.holds s) (k start g : Nat) : I.holds (mxReadA s k start g) := by
  unfold mxReadA
  dsimp only
  split
  · exact hs
  · split
    · rename_i heq1
      exact keeps_fst (keeps_unitRead hs ..) heq1
    · rename_i heq1
      exact keeps_modCore (keeps_fst (keeps_unitRead hs ..) heq1) ..

theorem keeps_mxReadB {s : State} (hs : I.holds s) (k ready q r cls : Nat) : I.holds (mxReadB s k ready q r cls) := by
  unfold mxReadB
  dsimp only
  split
  · refine keeps_postDeed ?_ ..
    refine keeps_postSettle ?_ ..
    refine keeps_modCore ?_ ..
    split
    · exact keeps_unitRead hs ..
    · exact keeps_unitRead (keeps_unitRead hs ..) ..
  · split
    · exact keeps_unitRead hs ..
    · exact keeps_unitRead (keeps_unitRead hs ..) ..

theorem keeps_mxReadB2 {s : State} (hs : I.holds s) (k ready a n : Nat) : I.holds (mxReadB2 s k ready a n) := by
  unfold mxReadB2
  exact keeps_modCore (keeps_raceScratchRead hs ..) ..

theorem keeps_mxBias {s : State} (hs : I.holds s) (k start q : Nat) : I.holds (mxBias s k start q) := by
  unfold mxBias
  split
  · rename_i heq1
    exact keeps_fst (keeps_unitRead hs ..) heq1
  · rename_i heq1
    exact keeps_modCore (keeps_fst (keeps_unitRead hs ..) heq1) ..

theorem keeps_execMatrixGroupUpdate {s : State} (hs : I.holds s) (core start g : Nat) :
    I.out (execMatrixGroupUpdate core start g s) :=
  out_next (keeps_modCore hs ..)

theorem keeps_execMcall {s : State} (hs : I.holds s) (m : Mv) : I.out (execMcall m s) :=
  keeps_trigger hs (fun _ _ hu => keeps_ite (keeps_modMe hu ..) (keeps_postDeed (keeps_modMe hu ..) ..)) ..

theorem keeps_muwr {s : State} (hs : I.holds s) (i : Instr) (m : Mv) : I.out (muwr i m s) :=
  keeps_trigger hs (fun _ _ hu => keeps_postDeed hu ..) ..

theorem keeps_execMuwr {s : State} (hs : I.holds s) (m : Mv) : I.out (execMuwr m s) := keeps_muwr hs ..

theorem keeps_execMuwrRoutineEntry {s : State} (hs : I.holds s) (m : Mv) : I.out (execMuwrRoutineEntry m s) := keeps_muwr hs ..

theorem keeps_muwrWrite {s : State} (hs : I.holds s) (k : Nat) (entry : Bool) (index : Nat) (w : Word) :
    I.holds (muwrWrite s k entry index w) :=
  keeps_modCore hs ..

theorem keeps_execMlut {s : State} (hs : I.holds s) (m : Mv) : I.out (execMlut m s) :=
  keeps_trigger hs (fun _ _ hu => keeps_unless (keeps_modMe hu ..) fun h => keeps_postDeed (keeps_modMe h ..) ..) ..

theorem keeps_mlutRead {s : State} (hs : I.holds s) (k a : Nat) : I.holds (mlutRead s k a) :=
  keeps_ite hs (keeps_postDeed (keeps_raceScratchRead hs ..) ..)

theorem keeps_mlutRest {s : State} (hs : I.holds s) (k a : Nat) (first : List Byte) : I.holds (mlutRest s k a first) :=
  keeps_ite hs (keeps_postDeed (keeps_raceScratchRead hs ..) ..)

theorem keeps_mlutSet {s : State} (hs : I.holds s) (k : Nat) (l : Lut) : I.holds (mlutSet s k l) := keeps_modCore hs ..

theorem keeps_execMzero {s : State} (hs : I.holds s) (m : Mv) : I.out (execMzero m s) :=
  keeps_trigger hs (fun _ _ hu => keeps_ite (keeps_modMe hu ..) (keeps_postDeed (keeps_modMe hu ..) ..)) ..

theorem keeps_execMnop {s : State} (hs : I.holds s) : I.out (execMnop s) := out_next (keeps_microStep hs ..)

theorem keeps_execMsetImm {s : State} (hs : I.holds s) (d : Fin 16) (imm : BitVec 48) : I.out (execMsetImm d imm s) :=
  out_next (keeps_microStep (keeps_modMe hs ..) ..)

theorem keeps_execMsetMp {s : State} (hs : I.holds s) (d : Fin 16) (n : Fin 8) : I.out (execMsetMp d n s) :=
  out_next (keeps_microStep (keeps_modMe hs ..) ..)

theorem keeps_execMsetAdd {s : State} (hs : I.holds s) (d : Fin 16) (imm : BitVec 48) : I.out (execMsetAdd d imm s) :=
  out_next (keeps_microStep (keeps_modMe hs ..) ..)

theorem keeps_execMloop {s : State} (hs : I.holds s) (c : Fin 2) (cm : Bool) (cr : Fin 16) (last : BitVec 12) (count : BitVec
  32) :
    I.out (execMloop c cm cr last count s) :=
  out_ite (out_next (keeps_microFault hs ..)) (out_ite (out_next (keeps_microNext hs ..)) (out_next (keeps_microStep
    (keeps_modMe hs ..) ..)))

theorem keeps_execMend {s : State} (hs : I.holds s) : I.out (execMend s) := out_next (keeps_postCore (keeps_modMe hs ..) ..)

theorem keeps_execMidle {s : State} (hs : I.holds s) (n : BitVec 20) : I.out (execMidle n s) :=
  out_ite (out_next (keeps_microStep hs ..)) (out_next (keeps_postDeed (keeps_modMe hs ..) ..))

theorem keeps_execMzacc {s : State} (hs : I.holds s) (t : Sel) : I.out (execMzacc t s) :=
  out_ite (out_next (keeps_microFault hs ..)) (out_next (keeps_microStep (keeps_postDeed (keeps_ite (keeps_unitFault hs ..) hs)
    ..) ..))

theorem keeps_execMlda {s : State} (hs : I.holds s) (q : Sel) (cls : BitVec 2) : I.out (execMlda q cls s) := by
  unfold execMlda
  dsimp only
  split
  · exact out_ite (out_next (keeps_microFault hs ..)) (out_next (keeps_microStep (keeps_modMe hs ..) ..))
  · exact out_next (keeps_unitFaults (keeps_ite (keeps_microFault hs ..) hs) ..)

theorem keeps_execMldb {s : State} (hs : I.holds s) (q r : Sel) (cls : BitVec 2) : I.out (execMldb q r cls s) := by
  unfold execMldb
  dsimp only
  split
  · exact out_ite (out_next (keeps_microFault hs ..)) (out_next (keeps_microStep (keeps_postDeed (keeps_postSettle (keeps_modMe
      hs ..) ..) ..) ..))
  · exact out_next (keeps_unitFaults (keeps_ite (keeps_microFault hs ..) hs) ..)

theorem keeps_microClass {s : State} (hs : I.holds s) (w : Nat) : I.out (microClass w s) :=
  out_ite (keeps_execMlda hs ..) (keeps_execMldb hs ..)

theorem keeps_startStep {s : State} (hs : I.holds s) (p : MxStep) (len : Nat) : I.holds (startStep s p len) :=
  keeps_foldl (fun _ _ hu => keeps_postCore (keeps_postDeed (keeps_postSettle hu ..) ..) ..) _ (keeps_modMe hs ..)

theorem keeps_matrixStep {s : State} (hs : I.holds s) (sparse : Bool) (t : Sel) : I.out (matrixStep sparse t s) := by
  unfold matrixStep
  dsimp only
  split
  · exact out_next (keeps_microStep (keeps_startStep hs ..) ..)
  · refine out_next ?_
    refine keeps_unitFaults ?_ ..
    split
    · exact hs
    · exact keeps_microFault hs ..

theorem keeps_execMmac {s : State} (hs : I.holds s) (t : Sel) : I.out (execMmac t s) := keeps_matrixStep hs ..

theorem keeps_execMmacs {s : State} (hs : I.holds s) (t : Sel) : I.out (execMmacs t s) := keeps_matrixStep hs ..

theorem keeps_execMepi {s : State} (hs : I.holds s) (e : MepiFields) : I.out (execMepi e s) := by
  unfold execMepi
  dsimp only
  split
  · exact out_next (keeps_unitFaults (keeps_ite (keeps_microFault hs ..) hs) ..)
  · exact out_ite (out_next (keeps_microFault hs ..)) (out_next (keeps_microStep (keeps_postCore (keeps_when (keeps_modMe hs ..)
      fun h => keeps_postDeed (keeps_postSettle h ..) ..) ..) ..))

theorem keeps_execEpilogueRow {s : State} (hs : I.holds s) (core start r : Nat) : I.out (execEpilogueRow core start r s) := by
  unfold execEpilogueRow
  dsimp only
  split
  · exact out_next hs
  · exact out_ite (out_next (keeps_postCore (keeps_postDeed (keeps_modCore hs ..) ..) ..)) (out_next (keeps_postDeed
      (keeps_modCore hs ..) ..))

theorem keeps_mxPush {s : State} (hs : I.holds s) (k q : Nat) (xs : List Nat) : I.holds (mxPush s k q xs) := by
  unfold mxPush
  dsimp only
  split
  · exact keeps_modCore hs ..
  · split
    · exact keeps_modCore hs ..
    · exact keeps_ite (keeps_pushItem hs ..) (keeps_modCore hs ..)

theorem keeps_unitWrite {s : State} (hs : I.holds s) (k : Nat) (w : ScratchWrite) : I.holds (unitWrite s k w) :=
  keeps_ite hs (keeps_performWrite hs ..)

theorem keeps_microTick {s : State} (hs : I.holds s) (k : Nat) : I.holds (microTick s k) :=
  keeps_ite hs (keeps_ite (keeps_ite (keeps_microStep (keeps_modMe hs ..) ..) (keeps_postDeed (keeps_modMe hs ..) ..))
    (keeps_ite (keeps_modCore hs ..) (keeps_beside hs ..)))

/-! Instructions. -/

theorem keeps_exec {s : State} (hs : canonInv.holds s) (i : Instr) : canonInv.out (exec i s) := by
  unfold exec
  split
  · exact keeps_execMove hs ..
  · exact keeps_execNop hs ..
  · exact keeps_execBrp hs ..
  · exact keeps_execBr hs ..
  · exact keeps_execBrt hs ..
  · exact keeps_execCall hs ..
  · exact keeps_execRet hs ..
  · exact keeps_execLoop hs ..
  · exact keeps_execLoopp hs ..
  · exact keeps_execLbrk hs ..
  · exact keeps_execWaitt hs ..
  · exact keeps_execResync hs ..
  · exact keeps_execSpawn hs ..
  · exact keeps_execExit hs ..
  · exact keeps_execBeacon hs ..
  · exact keeps_execAdd hs ..
  · exact keeps_execSub hs ..
  · exact keeps_execMul hs ..
  · exact keeps_execMulh hs ..
  · exact keeps_execMulhu hs ..
  · exact keeps_execDiv hs ..
  · exact keeps_execDivu hs ..
  · exact keeps_execRem hs ..
  · exact keeps_execRemu hs ..
  · exact keeps_execAnd hs ..
  · exact keeps_execOr hs ..
  · exact keeps_execXor hs ..
  · exact keeps_execAndn hs ..
  · exact keeps_execShl hs ..
  · exact keeps_execShr hs ..
  · exact keeps_execSra hs ..
  · exact keeps_execMin hs ..
  · exact keeps_execMinu hs ..
  · exact keeps_execMax hs ..
  · exact keeps_execMaxu hs ..
  · exact keeps_execClz hs ..
  · exact keeps_execPopc hs ..
  · exact keeps_execSel hs ..
  · exact keeps_execCmpEq hs ..
  · exact keeps_execCmpNe hs ..
  · exact keeps_execCmpLt hs ..
  · exact keeps_execCmpLe hs ..
  · exact keeps_execCmpLtu hs ..
  · exact keeps_execCmpLeu hs ..
  · exact keeps_execFadd hs ..
  · exact keeps_execFsub hs ..
  · exact keeps_execFmul hs ..
  · exact keeps_execFfma hs ..
  · exact keeps_execFmin hs ..
  · exact keeps_execFmax hs ..
  · exact keeps_execFcmpEq hs ..
  · exact keeps_execFcmpLt hs ..
  · exact keeps_execFcmpLe hs ..
  · exact keeps_execFcmpUn hs ..
  · exact keeps_execFcvtIf hs ..
  · exact keeps_execFcvtFi hs ..
  · exact keeps_execLdB hs ..
  · exact keeps_execLdH hs ..
  · exact keeps_execLdW hs ..
  · exact keeps_execLdD hs ..
  · exact keeps_execLdV hs ..
  · exact keeps_execStB hs ..
  · exact keeps_execStH hs ..
  · exact keeps_execStW hs ..
  · exact keeps_execStD hs ..
  · exact keeps_execStV hs ..
  · exact keeps_execAadd hs ..
  · exact keeps_execAfadd hs ..
  · exact keeps_execAmin hs ..
  · exact keeps_execAminu hs ..
  · exact keeps_execAmax hs ..
  · exact keeps_execAmaxu hs ..
  · exact keeps_execAand hs ..
  · exact keeps_execAor hs ..
  · exact keeps_execAxch hs ..
  · exact keeps_execAcas hs ..
  · exact keeps_execVadd hs ..
  · exact keeps_execVsub hs ..
  · exact keeps_execVmul hs ..
  · exact keeps_execVfma hs ..
  · exact keeps_execVmin hs ..
  · exact keeps_execVmax hs ..
  · exact keeps_execVabs hs ..
  · exact keeps_execVneg hs ..
  · exact keeps_execVand hs ..
  · exact keeps_execVor hs ..
  · exact keeps_execVxor hs ..
  · exact keeps_execVshl hs ..
  · exact keeps_execVshr hs ..
  · exact keeps_execVsra hs ..
  · exact keeps_execVclamp hs ..
  · exact keeps_execVsel hs ..
  · exact keeps_execVcmp hs ..
  · exact keeps_execVreda hs ..
  · exact keeps_execVredm hs ..
  · exact keeps_execVperm hs ..
  · exact keeps_execVcvt hs ..
  · exact keeps_execVqnt hs ..
  · exact keeps_execVdot8 hs ..
  · exact keeps_execVexp2 hs ..
  · exact keeps_execVlog2 hs ..
  · exact keeps_execVrcp hs ..
  · exact keeps_execVrsq hs ..
  · exact keeps_execVsig hs ..
  · exact keeps_execVlutEval hs ..
  · exact keeps_execVlutLoad hs ..
  · exact keeps_execViota hs ..
  · exact keeps_execVkand hs ..
  · exact keeps_execVkor hs ..
  · exact keeps_execVknot hs ..
  · exact keeps_execVkred hs ..
  · exact keeps_execMcall hs ..
  · exact keeps_execMuwr hs ..
  · exact keeps_execMuwrRoutineEntry hs ..
  · exact keeps_execMlut hs ..
  · exact keeps_execMzero hs ..
  · exact keeps_execScfg hs ..
  · exact keeps_execSseek hs ..
  · exact keeps_execSskip hs ..
  · exact keeps_execStag hs ..
  · exact keeps_execSclose hs ..
  · exact keeps_execPush hs ..
  · exact keeps_execDcopyR hs ..
  · exact keeps_execDcopyW hs ..
  · exact keeps_execDref hs ..
  · exact keeps_execDrfm hs ..
  · exact keeps_execXcopy hs ..
  · exact keeps_execHcopyR hs ..
  · exact keeps_execHcopyW hs ..
  · exact keeps_execImcopy hs ..
  · exact keeps_execFsend hs ..
  · exact keeps_execFrecv hs ..
  · exact keeps_execFput hs ..
  · exact keeps_execFget hs ..
  · exact keeps_execFatom hs ..
  · exact keeps_execFpeer hs ..
  · exact keeps_execMbsend hs ..
  · exact keeps_execMbrecv hs ..
  · exact keeps_execMbstat hs ..
  · exact keeps_execMbsnap hs ..
  · exact keeps_execBarinit hs ..
  · exact keeps_execBarrive hs ..
  · exact keeps_execBarpoll hs ..
  · exact keeps_execFence hs ..
  · exact keeps_execTrap hs ..
  · exact keeps_execCsrr hs ..
  · exact keeps_execCsrw hs ..
  · exact keeps_execRclaim hs ..
  · exact keeps_execWpt hs ..
  · exact keeps_execIntv hs ..
  · exact keeps_execMnop hs ..
  · exact keeps_execMsetImm hs ..
  · exact keeps_execMsetMp hs ..
  · exact keeps_execMsetAdd hs ..
  · exact keeps_execMloop hs ..
  · exact keeps_execMend hs ..
  · exact keeps_execMidle hs ..
  · exact keeps_execMzacc hs ..
  · exact keeps_execMlda hs ..
  · exact keeps_execMldb hs ..
  · exact keeps_execMmac hs ..
  · exact keeps_execMmacs hs ..
  · exact keeps_execMepi hs ..
  · exact keeps_execMatrixGroupUpdate hs ..
  · exact keeps_execEpilogueRow hs ..
  · exact keeps_execOperationComplete hs ..
  · exact keeps_execStreamPopRead hs ..
  · exact keeps_execLoopEndStep hs ..
  · exact keeps_execWaittResume hs ..
  · exact keeps_execResyncResume hs ..
  · exact keeps_execBarrierResume hs ..
  · exact keeps_execDrainPark hs ..
  · exact keeps_execFencePerform hs ..
  · exact keeps_execMbsnapCopy hs ..
  · exact keeps_execRegionSpillFill hs ..
  · exact keeps_execDcopyUnit hs ..
  · exact keeps_execXcopyUnitArrival hs ..
  · exact keeps_execHostReadDataArrival hs ..
  · exact keeps_execHcopyRUnit hs ..
  · exact keeps_execHcopyWUnit hs ..
  · exact keeps_execHostWriteSpaceFree hs ..
  · exact keeps_execFsendArrival hs ..
  · exact keeps_execFputArrival hs ..
  · exact keeps_execFgetRequestArrival hs ..
  · exact keeps_execFgetResponseArrival hs ..
  · exact keeps_execFatomRequestArrival hs ..
  · exact keeps_execFatomResponseArrival hs ..
  · exact keeps_execPoisonFrameArrival hs ..
  · exact keeps_execFrameForward hs ..
  · exact keeps_execMissingArrival hs ..
  · exact keeps_execHoldFreeze hs ..
  · exact keeps_execHoldResume hs ..
  · exact keeps_execAlignSend hs ..
  · exact keeps_execAlign hs ..
  · exact keeps_execLinkDown hs ..
  · exact keeps_execLinkTraining hs ..
  · exact keeps_execHold hs ..
  · exact keeps_execRelease hs ..
  · exact keeps_execPrepare hs ..
  · exact keeps_execVote hs ..
  · exact keeps_execCommit hs ..
  · exact keeps_execAbort hs ..
  · exact keeps_execResyncFrame hs ..
  · exact keeps_execBarrier hs ..
  · exact keeps_execDeadpeer hs ..
  · exact keeps_execDrop hs ..
  · exact keeps_execAbortgang hs ..
  · exact keeps_execUnknownLeekFrame hs ..
  · exact keeps_execSlotBoundary hs ..
  · exact keeps_execPrepareSend hs ..
  · exact keeps_execSwitchFreeze hs ..
  · exact keeps_execVoteSend hs ..
  · exact keeps_execContextSave hs ..
  · exact keeps_execVoteDeadline hs ..
  · exact keeps_execInVoteDeadline hs ..
  · exact keeps_execSwitchIn hs ..
  · exact keeps_execFsaReinject hs ..
  · exact keeps_execReplayReinject hs ..
  · exact keeps_execRunComplete hs ..
  · exact keeps_execMinderFaultRecord hs ..
  · exact keeps_execRecordQueueDrain hs ..
  · exact keeps_execWatchdogThreshold hs ..
  · exact keeps_execRefreshOwedIncrement hs ..
  · exact keeps_execDramSelfRefresh hs ..
  · exact keeps_execDisturbanceThreshold hs ..
  · exact keeps_execDisturbanceMitigationDone hs ..
  · exact keeps_execDisturbanceWindow hs ..
  · exact keeps_execEccWriteback hs ..
  · exact keeps_execPatrolRead hs ..
  · exact keeps_execUntimedAccessReceive hs ..
  · exact keeps_execUntimedWriteComplete hs ..
  · exact keeps_execHostApertureAccess hs ..
  · exact keeps_execHartTakenStore hs ..
  · exact keeps_execHartObservationStore hs ..
  · exact keeps_execHartPublish hs ..
  · exact keeps_execCheckerRewardStore hs ..
  · exact keeps_execHartException hs ..
  · exact keeps_execHartStart hs ..
  · exact keeps_execStepBudgetOverrun hs ..
  · exact keeps_execEpisodeBudgetOverrun hs ..
  · exact keeps_execStepDeadline hs ..
  · exact keeps_execSupervisorKill hs ..
  · exact keeps_execEpisodeScrub hs ..
  · exact keeps_execPowerForecast hs ..
  · exact keeps_execThermalSample hs ..
  · exact keeps_execThw hs ..
  · exact keeps_execIemer hs ..
  · exact keeps_execErrorCounterDecay hs ..
  · exact keeps_execIslandWake hs ..
  · exact keeps_execScrubUnit hs ..
  · exact keeps_execColdBoot ..
  · exact keeps_execWarmReset ..
  · exact keeps_execStandbyPowerLoss ..
  · exact keeps_execSpdmRequest hs ..
  · exact keeps_execIdeKm hs ..
  · exact keeps_execIdeIntegrityFailure hs ..
  · exact keeps_execLockInterfaceRequest hs ..
  · exact keeps_execStartInterfaceRequest hs ..
  · exact keeps_execStopInterfaceRequest hs ..
  · exact keeps_execGetDeviceInterfaceReport hs ..
  · exact keeps_execFunctionLevelReset hs ..
  · exact keeps_execGrant hs ..
  · exact keeps_execRevokeBoundary hs ..
  · exact keeps_execRevokeAtOnce hs ..
  · exact keeps_execRights hs ..
  · exact keeps_execIfcfg hs ..
  · exact keeps_execCoreset hs ..
  · exact keeps_execCtxcreate hs ..
  · exact keeps_execCtxmap hs ..
  · exact keeps_execCtxdestroy hs ..
  · exact keeps_execGang hs ..
  · exact keeps_execCell hs ..
  · exact keeps_execLinkshare hs ..
  · exact keeps_execLinkshareClear hs ..
  · exact keeps_execHostwin hs ..
  · exact keeps_execAperture hs ..
  · exact keeps_execApertureClear hs ..
  · exact keeps_execMboxcfgGrpctl hs ..
  · exact keeps_execMboxcfgGrpactive hs ..
  · exact keeps_execMboxcfgEpnext hs ..
  · exact keeps_execHartcfg hs ..
  · exact keeps_execDistcfg hs ..
  · exact keeps_execDebugStopOff hs ..
  · exact keeps_execDebugStopOn hs ..
  · exact keeps_execDebugHalt hs ..
  · exact keeps_execDebugImageRead hs ..
  · exact keeps_execDebugImageWrite hs ..
  · exact keeps_execHoldrel hs ..
  · exact keeps_execCounters hs ..
  · exact keeps_execReport hs ..
  · exact keeps_execPacmdInvalidOp hs ..
  · exact keeps_execRegisterWrite hs ..
  · exact keeps_execLeekLaneFree hs ..
  · exact keeps_execHcopyHoldAnnouncement hs ..
  · exact keeps_execOutVoteDeadline hs ..
  · exact keeps_execDeadpeerClear hs ..
  · exact keeps_execMsixVectorUnmask hs ..
  · exact keeps_execFrozenConfigurationChange hs ..
  · exact keeps_execSlotMatrixRowsAndLength hs ..

/-! Steps of the table. -/

theorem keeps_performDeed {s : State} (hs : I.holds s) (k : Nat) (d : Deed) : I.holds (performDeed s k d) := by
  unfold performDeed
  split
  · exact hs
  · exact keeps_beginBundle hs ..
  · exact keeps_scanCore hs ..
  · exact keeps_loadRead hs ..
  · exact keeps_storeWrite hs ..
  · exact keeps_rmwRead hs ..
  · exact keeps_rmwWrite hs ..
  · exact keeps_modCore hs ..
  · exact keeps_modCore hs ..
  · exact keeps_ownStamp hs ..
  · exact keeps_ownStamp hs ..
  · exact keeps_prefetchRead hs ..
  · exact keeps_refreshOverdue hs ..
  · exact keeps_housekeeperWrite hs ..
  · exact keeps_imageWrite hs ..
  · exact keeps_modCore hs ..
  · exact keeps_muwrWrite hs ..
  · exact keeps_mlutRead hs ..
  · exact keeps_mlutRest hs ..
  · exact keeps_mlutSet hs ..
  · exact keeps_modCore hs ..
  · exact keeps_microTick hs ..
  · exact keeps_mxReadA hs ..
  · exact keeps_mxReadB hs ..
  · exact keeps_mxReadB2 hs ..
  · exact keeps_mxBias hs ..
  · exact keeps_mxPush hs ..
  · exact keeps_unitWrite hs ..
  · exact keeps_settleReads hs ..
  · exact keeps_spawnRegs hs ..
  · exact keeps_resyncCheck hs ..
  · exact keeps_barrierEvents hs ..
  · exact keeps_farBarrier hs ..
  · exact keeps_barrierFault hs ..
  · exact keeps_csrSample hs ..
  · exact keeps_modCore hs ..
  · exact keeps_imUnit hs ..
  · exact keeps_xcopyRead hs ..
  · exact keeps_sendRead hs ..
  · exact keeps_depart hs ..
  · exact keeps_frameUnit hs ..
  · exact keeps_fatomWrite hs ..
  · exact keeps_mbVersion hs ..
  · exact keeps_mbReadUnit hs ..
  · exact keeps_mbWriteUnit hs ..
  · exact keeps_mbDone hs ..
  · exact keeps_refreshStart hs ..
  · exact keeps_timedActivate hs ..
  · exact keeps_foreignStore hs ..
  · exact keeps_pkgInterval hs ..
  · exact keeps_linkRead hs ..
  · exact keeps_gangIntervals hs ..
  · exact keeps_sramError hs ..
  · exact keeps_bundleError hs ..
  · exact keeps_countError hs ..
  · exact keeps_podPlace hs ..
  · exact keeps_podShare hs ..
  · exact keeps_memberCell hs ..
  · exact keeps_podLink hs ..
  · exact keeps_leekForward hs ..
  · exact keeps_lostUrgent hs ..
  · exact keeps_frameError hs ..
  · exact keeps_controllersRelease hs ..
  · exact keeps_reopenRows hs ..
  · exact keeps_hartFault hs ..
  · exact keeps_hartOp hs ..
  · exact keeps_clusterWrite hs ..
  · exact keeps_sramStore hs ..
  · exact keeps_mailboxError hs ..
  · exact keeps_patrol hs ..
  · exact keeps_trainStack hs ..
  · exact keeps_tdispStop hs ..
  · exact keeps_countSent hs ..
  · exact keeps_modCore hs ..
  · exact keeps_completeCommand hs ..

/-! Jobs, issue and the clock (R15, R106). -/

theorem keeps_settleCore {s : State} (hs : I.holds s) (k : Nat) : I.holds (settleCore s k) := by
  unfold settleCore
  dsimp only
  split
  · exact hs
  · exact keeps_ite (keeps_debugStop hs ..) (keeps_settleFaults (keeps_modCore hs ..) ..)

theorem keeps_settleAll {s : State} (hs : I.holds s) : I.holds (settleAll s) :=
  keeps_ite hs (keeps_foldl (fun _ _ hu => keeps_settleCore hu ..) _ hs)

theorem out_settled {o : Out} (h : I.out o) : I.out (settled o) := by
  cases o with
  | next t => exact out_next (keeps_settleAll (h.next t rfl))
  | fault f => exact out_fault f
  | refused r => exact out_refused r

theorem keeps_runJob {ex : Instr → State → Out} {s : State} (hs : I.holds s) (hex : ∀ x0 s1, I.holds s1 → I.out (ex x0 s1)) (j :
  Job) :
    I.out (runJob ex s j) := by
  unfold runJob
  split
  · exact out_settled (hex _ _ (keeps_beside (keeps_beside hs ..) ..))
  · exact out_settled (hex _ _ (keeps_beside (keeps_beside hs ..) ..))
  · exact out_settled (out_next (keeps_performDeed (keeps_beside (keeps_beside hs ..) ..) ..))

theorem keeps_issueSlot {ex : Instr → State → Out} {s : State} (hs : I.holds s) (hex : ∀ x0 s1, I.holds s1 → I.out (ex x0 s1))
  (k n : Nat) :
    I.out (issueSlot ex s k n) := by
  unfold issueSlot
  dsimp only
  split
  · exact out_next (keeps_nextSlot hs ..)
  · exact out_settled (hex _ _ (keeps_beside (keeps_nextSlot hs ..) ..))

theorem keeps_issueMicro {ex : Instr → State → Out} {s : State} (hs : I.holds s) (hex : ∀ x0 s1, I.holds s1 → I.out (ex x0 s1))
  (k : Nat) :
    I.out (issueMicro ex s k) := by
  unfold issueMicro
  dsimp only
  split
  · exact out_settled (keeps_microClass (keeps_beside hs ..) ..)
  · exact out_settled (out_next (keeps_microFault (keeps_beside hs ..) ..))
  · exact out_settled (hex _ _ (keeps_beside hs ..))

theorem keeps_frozenWork {s : State} (hs : I.holds s) (g x : Nat) : I.holds (frozenWork s g x) :=
  keeps_when (keeps_postDeadlines (keeps_postMitigations (keeps_postSpills hs ..) ..) ..) fun h => keeps_foldl (fun _ _ hu =>
    keeps_modCore hu ..) _ (keeps_modGang h ..)

theorem keeps_tick {s : State} (hs : I.holds s) (g : Nat) : I.holds (tick s g) :=
  keeps_ite (keeps_ite (keeps_when (keeps_frozenWork (keeps_postPod (keeps_setGang hs ..) ..) ..) fun h => keeps_postPod h ..)
    (keeps_tickGang (keeps_startCycle (keeps_setGang hs ..) ..) ..)) hs

theorem keeps_tickPod {s : State} (hs : I.holds s) : I.holds (tickPod s) := by
  unfold tickPod
  extract_lets n s₁ s₂ s₃ s₄ s₅
  have h₁ : I.holds s₁ := keeps_ite (keeps_postPod hs ..) hs
  have h₂ : I.holds s₂ := keeps_ite (keeps_planSwitch h₁ ..) h₁
  have h₃ : I.holds s₃ := keeps_ite (keeps_postPod h₂ ..) h₂
  have h₄ : I.holds s₄ := keeps_ite (keeps_countLife h₃ ..) h₃
  have h₅ : I.holds s₅ := keeps_ite (keeps_post h₄ ..) h₄
  exact keeps_ite (keeps_postPod h₅ ..) h₅

theorem keeps_advancePod {s : State} (hs : I.holds { s with pod := s.pod + 1, phase := 0 }) : I.holds (advancePod s) :=
  keeps_pollVotes (keeps_postDrains (keeps_tickPod (keeps_foldl (fun _ _ hu => keeps_tick hu _) _ hs)))

theorem keeps_plainStep {ex : Instr → State → Out} {s : State} (hs : canonInv.holds s) (hex : ∀ x0 s1, canonInv.holds s1 →
  canonInv.out (ex x0 s1)) :
    canonInv.out (plainStep ex s) := by
  unfold plainStep
  split
  · exact keeps_issueSlot hs hex ..
  · exact keeps_issueMicro hs hex ..
  · split
    · exact keeps_runJob (keeps_beside hs ..) hex ..
    · exact out_next (keeps_advancePod (keeps_clock hs ..))

theorem keeps_preview {ex : Instr → State → Out} {s : State} (hs : I.holds s) (hex : ∀ x0 s1, I.holds s1 → I.out (ex x0 s1)) (k
  : Nat) :
    I.holds (preview ex s k) := by
  unfold preview
  exact keeps_modCore hs ..

theorem keeps_fullStep {ex : Instr → State → Out} {s : State} (hs : canonInv.holds s) (hex : ∀ x0 s1, canonInv.holds s1 →
  canonInv.out (ex x0 s1)) :
    canonInv.out (fullStep ex s) := by
  unfold fullStep
  split
  · exact out_ite (out_settled (out_next (keeps_preview (keeps_beside hs ..) hex ..))) (keeps_plainStep hs hex ..)
  · exact keeps_plainStep hs hex ..

/-! One step. -/

theorem keeps_step {s : State} (hs : canonInv.holds s) : canonInv.out (step s) := by
  unfold step
  split
  · exact out_ite (keeps_fullStep hs (fun _ _ hu => keeps_exec hu ..) ..) (out_fault _)
  · exact out_ite (keeps_fullStep hs (fun _ _ hu => keeps_exec hu ..) ..) (out_fault _)
  · exact keeps_fullStep hs (fun _ _ hu => keeps_exec hu ..) ..

end Sys2Proof.Machine

namespace Sys2Proof.Machine

/-- Settles O58: every step writes cores and gangs only through their setters, which keep the canonical form, or leaves no core
and no gang, as a reset does. -/
theorem stepKeepsCanonical : Obligations.StepKeepsCanonical := fun _ t h ht => (keeps_step (show canonInv.holds _ from h)).next t ht

end Sys2Proof.Machine
end

section
/-! PROOF. O59: a step runs what its slot decodes to, its microword, its due step or its arriving move; else a pod cycle passes. -/

namespace Sys2Proof.Machine

variable {s : State}

theorem step_of_slot {k n : Nat} (hi : s.issuing = some (.slot k n)) (hk : k < 1024) : step s = issueSlot exec s k n := by
  rw [step, hi]
  dsimp only
  rw [if_pos hk, fullStep, hi, plainStep, hi]

theorem step_of_micro {k : Nat} (hi : s.issuing = some (.micro k)) (hk : k < 1024) : step s = issueMicro exec s k := by
  rw [step, hi]
  dsimp only
  rw [if_pos hk, fullStep, hi, plainStep, hi]

theorem step_of_job {j : Job} {js : List Job} (hi : s.issuing = none) (hj : nextJob s = some (j, js)) (ht : j.task ≠ .deed .preview) :
    step s = runJob exec { s with agenda := js } j := by
  rw [step, hi]
  dsimp only
  rw [fullStep, hi, hj]
  dsimp only
  rw [if_neg ht, plainStep, hi]
  dsimp only
  rw [hj]

theorem step_of_nothing (hi : s.issuing = none) (hj : nextJob s = none) : step s = .next (advancePod s) := by
  rw [step, hi]
  dsimp only
  rw [fullStep, hi, hj]
  dsimp only
  rw [plainStep, hi]
  dsimp only
  rw [hj]

/-- With nothing to do a pod cycle passes. -/
theorem advancePod_pod (s : State) : (advancePod s).pod = s.pod + 1 := keeps_advancePod (I := podInv (s.pod + 1)) rfl

theorem issueSlot_ok {k n : Nat} {i : Instr} (h : decodeSlot n (slotWord (coreOf s k).latch n) (slotWord (coreOf s k).latch (n + 1))
      (slotWord (coreOf s k).latch (n + 2)) = .ok i) :
    issueSlot exec s k n = settled (exec i { nextSlot s k n with cur := ⟨k, n, none⟩ }) := by
  rw [issueSlot]
  dsimp only
  rw [h]

theorem issueMicro_ok {k : Nat} {i : Instr} (h : decodeMicro (tget 0 (coreOf s k).mx.store (coreOf s k).mx.pc).toNat = .ok i) :
    issueMicro exec s k = settled (exec i { s with issuing := none, cur := ⟨k, 0, none⟩ }) := by
  rw [issueMicro, h]

theorem runJob_event {j : Job} {i : Instr} (h : j.task = .event i) :
    runJob exec s j = settled (exec i { s with phase := j.phase, cur := ⟨j.core.getD 0, 0, none⟩ }) := by
  rw [runJob, h]

theorem runJob_arrive {j : Job} {fl : Flight} (h : j.task = .arrive fl) :
    runJob exec s j = settled (exec fl.instr { s with phase := j.phase, cur := ⟨j.core.getD 0, fl.slot, some fl⟩ }) := by
  rw [runJob, h]

end Sys2Proof.Machine

namespace Sys2Proof.Machine

/-- Settles O59. -/
theorem stepRunsDecoded : Obligations.StepRunsDecoded := by
  refine ⟨?slot, ?micro, ?job, fun s hi hj => ⟨_, step_of_nothing hi hj, advancePod_pod s⟩, ?settles, ?begins⟩
  case slot =>
    intro s k n i hi hk w m hdec
    rw [step_of_slot hi hk, issueSlot_ok hdec]
    rfl
  case micro =>
    intro s k i hi hk hdec
    rw [step_of_micro hi hk, issueMicro_ok hdec]
  case job =>
    intro s j js hi hj
    refine ⟨fun i ht => ?_, fun fl ht => ?_, nextJob_spec hj⟩
    · rw [step_of_job hi hj (by rw [ht]; nofun), runJob_event ht]
    · rw [step_of_job hi hj (by rw [ht]; nofun), runJob_arrive ht]
  case settles => exact fun t ht => congrArg Host.Outcome.next (settleAll_of_none_raised ht)
  case begins =>
    intro s k c hi hdoom hdef hraised hstarts hpc hgood hdec t
    obtain ⟨hissuing, hcore⟩ := beginBundle_spec hi hdoom hdef hraised hstarts (fetchBad_eq_false hpc hgood) hdec
    obtain ⟨hlatch, hbundle, -⟩ := issueCore_of_no_starts (c := dropPast c (gcycOf s k)) (x := gcycOf s k) hstarts
      (by rw [fetchBundle_dropPast]; exact hdec)
    have ht : t = beginBundle s k := rfl
    have hfetch : (coreOf t k).latch = fetchBundle c (gcycOf s k) := by rw [ht, hcore, hlatch, fetchBundle_dropPast]
    refine ⟨hissuing, hfetch, ?_, fun hb ha => hfetch.trans (latch_of_nothing_buffered hb ha)⟩
    rw [ht, hcore, hbundle]
    rfl

end Sys2Proof.Machine
end
